-- ==== Sys2Proof/Word.lean ====
section
/-!
DEFINITION. Word.lean: the word types of the Nesutar model and the shapes of its tables.
A register word is 32 bits (R34, R51); a byte is 8 bits; a byte string is a list of bytes, lowest address first.
-/
namespace Sys2Proof

/-- One byte. -/
abbrev Byte := BitVec 8

/-- One register word (R34: registers are read and written as 32-bit words). -/
abbrev Word := BitVec 32

/-- A byte string, lowest offset first. -/
abbrev Bytes := List Byte

/-- A sparse table keyed by a number; an unlisted key holds what its reader names. Keys rise strictly. -/
abbrev Tab (α : Type) := List (Nat × α)

/-- A byte-addressed store in canonical form: addresses rise strictly, and no listed byte is the unlisted value. -/
abbrev Mem := List Host.Cell

end Sys2Proof
end

