-- ==== Sys2Proof/Syntax/Types.lean ====
section
/-!
DEFINITION. Syntax/Types.lean: the shapes of what commands carry: statuses, packets, Footbridge messages, journal
records, sled responses, the array record. Every shape is the manual's own layout, as data.
-/
namespace Sys2Proof

/-- The pair role of a head (R105). -/
inductive Role where
  | a
  | b
  deriving DecidableEq, Repr

/-- The role number the layouts use: 0 A, 1 B. -/
def Role.num : Role → Nat
  | .a => 0
  | .b => 1

/-- The other role. -/
def Role.other : Role → Role
  | .a => .b
  | .b => .a

/-- The two paths to the Lodge (R45, R46): the control port and SMBus. -/
inductive Path where
  | controlPort
  | smbus
  deriving DecidableEq, Repr

/-- The status codes of Table 2.14 (R50). -/
inductive Status where
  | success | busy | invalidField | denied | resourceClaimed | tooLate | notFound | exhausted
  | lengthMismatch | mediaError | peerAbsent | generationMismatch | timeout | wakePending | aborted | replayed
  | noSpace | cold | integrity | rekeyRequired | notOwner | fenced
  deriving DecidableEq, Repr

/-- The code of a status, in the order of Table 2.14. -/
def Status.code : Status → Nat
  | .success => 0x00 | .busy => 0x01 | .invalidField => 0x02 | .denied => 0x03
  | .resourceClaimed => 0x04 | .tooLate => 0x05 | .notFound => 0x06 | .exhausted => 0x07
  | .lengthMismatch => 0x08 | .mediaError => 0x09 | .peerAbsent => 0x0A | .generationMismatch => 0x0B
  | .timeout => 0x0C | .wakePending => 0x0D | .aborted => 0x0E | .replayed => 0x0F
  | .noSpace => 0x10 | .cold => 0x11 | .integrity => 0x12 | .rekeyRequired => 0x13
  | .notOwner => 0x14 | .fenced => 0x15

/-- The opcode classes of an inbound RoCEv2 packet (Table 6.1); every other opcode is unsupported. -/
inductive PacketOp where
  | sendOnly | sendFirst | sendMiddle | sendLast | ack | nakSeq | unsupported
  deriving DecidableEq, Repr

/-- An inbound RoCEv2 packet of an open queue pair (R150): the host port and the 802.1Q VLANs of its frame, opcode, PSN, CE
mark, the additional authenticated header bytes (R170), and the payload as received. For an ACK, psn is the cumulative PSN
acknowledged; for a NAK with the PSN sequence error syndrome, the PSN that the host expects. -/
structure Packet where
  port : Nat
  vlans : List Nat
  op : PacketOp
  psn : Nat
  ce : Bool
  aad : Bytes
  payload : Bytes
  deriving DecidableEq, Repr

/-- A location word (Table 9.1, Table 9.2): kind none, flash with its PGA fields, own journal, mirror journal, or
indirect. The overlay and transit flags stand beside it. -/
inductive LocKind where
  | none
  | flash (shelf sled die block page grain member : Nat)
  | ownJournal (off : Nat)
  | mirrorJournal (off : Nat)
  | indirect
  deriving DecidableEq, Repr

/-- A location word with its flags. -/
structure Loc where
  kind : LocKind
  overlay : Bool := false
  transit : Bool := false
  deriving DecidableEq, Repr

/-- A replay-table entry (R62). -/
structure ReplayEntry where
  csn : Nat
  crc : Nat
  opcode : Nat
  status : Status
  result : Nat
  deriving DecidableEq, Repr

/-- A kind-0 entry of a map record (Table 9.6). -/
structure MoveEntry where
  serial : Nat
  old : Loc
  new : Loc
  deriving DecidableEq, Repr

/-- The payload of a journal record (Tables 3.6, 3.7, 9.6; R58, R80, R82, R485). The logical chunk of a chunk,
reference or release record is written out where the manual leaves it to the record's place in its unit. -/
inductive JBody where
  | unit (queueId csn crc opcode volume first blocks records : Nat)
  | chunk (volume chunk : Nat) (envelope region : Bytes)
  | reference (volume chunk serial : Nat) (loc : Loc)
  | release (volume first blocks : Nat)
  | abort
  | epochMarker (highAsn : Nat)
  | completion (queueId : Nat) (entry : ReplayEntry)
  | drained (recs : List Nat) (asn unit : Nat)
  | mapMoves (entries : List MoveEntry)
  | mapCheckpoint (number highAsn : Nat)
  | mapBlocks (entries : List (Loc × Nat × Nat))
  /-- Volumes that have passed to a role (R113, log entry 109). -/
  | ownership (role : Role) (volumes : List Nat)
  deriving DecidableEq, Repr

/-- A journal record with its header (Table 3.6); off is its place in its region, len its payload length, check its check
field. -/
structure JRec where
  off : Nat
  asn : Nat
  unit : Nat
  units : Nat
  epoch : Nat
  len : Nat
  last : Bool
  replayed : Bool
  check : Nat
  body : JBody
  deriving DecidableEq, Repr

/-- The pairing exchange HELLO (R116), with what each head sends at a restart (Table 3.10, step 4). -/
structure HelloMsg where
  generation : Nat
  lkn256 : Bool
  serial : Bytes
  arrayId : Bytes
  role : Option Role
  maxOwnGib : Nat
  ownGib : Nat
  epochMs : Nat
  fwVersion : Nat
  firstMsgId : Nat
  restarting : Bool
  asnHigh : Nat
  keepValid : Bool
  /-- The sender was told to fail back automatically (R115, log entry 33). -/
  autoFail : Bool
  deriving DecidableEq, Repr

/-- The HEARTBEAT payload (Table 4.3). -/
structure HbMsg where
  counter : Nat
  asnHigh : Nat
  epoch : Nat
  state : Nat
  powerFail : Bool
  handover : Bool
  fenced : Bool
  portsUp : Nat
  generation : Nat
  recordGen : Nat
  deriving DecidableEq, Repr

/-- The steps of a HANDOVER exchange (R114). -/
inductive HandoverMsg where
  | relinquish (volumes : List Nat)
  | volumesReceived (volumes : List Nat)
  | requestFence
  deriving DecidableEq, Repr

/-- A volume in the array record (R147), with its damage mark (R90): the lowest epoch and the cause. -/
structure VolRec where
  domain : Nat
  blocks : Nat
  pref : Role
  mark : Option (Nat × Nat) := none
  deriving DecidableEq, Repr

/-- A domain in the array record (R207, R394): its wrapped salt, switches, key version and wrapped key blobs. -/
structure DomRec where
  salt : Bytes
  dedup : Bool
  compress : Bool
  verify : Bool := false
  version : Nat := 0
  blobA : Bytes
  blobB : Bytes
  rotation : Option (Bytes × Bytes × Nat) := none
  deriving DecidableEq, Repr

/-- A replication relationship in the array record (Table 11.8). -/
structure ReplRec where
  source : Bool
  paused : Bool
  interval : Nat
  pd : Nat
  remoteArray : Bytes
  addrA : Bytes
  addrB : Bytes
  vols : List (Nat × Nat)
  deriving DecidableEq, Repr

/-- The placement and shelf policy record (R242), with its defaults. -/
structure PlcPolicy where
  staging : Bool := true
  minAwakeS : Nat := 120
  idleCloseS : Nat := 300
  batchMs : Nat := 500
  readWaitS : Nat := 20
  recallHoldH : Nat := 24
  stageLimitGib : Nat := 64
  retentionDays : Nat := 90
  fillPct : Nat := 90
  homeHotPct : Nat := 50
  hotThreshold : Nat := 40
  transitPct : Nat := 2
  deferGib : Nat := 2048
  deriving DecidableEq, Repr

/-- The media policy record (R280), with its defaults. -/
structure MediaPolicy where
  gcReservePct : Nat := 2
  gcStartPct : Nat := 5
  verifyPct : Nat := 25
  refreshPct : Nat := 50
  checkpointS : Nat := 60
  wearSpread : Nat := 100
  disturbLimit : Nat := 20000
  mapCacheGib : Nat := 0
  deriving DecidableEq, Repr

/-- The array record on the home shelves (R105, R147, R207, R210, R247, R335, R406, R487). -/
structure ArrayRec where
  gen : Nat := 0
  arrayId : Bytes := []
  serialA : Bytes := []
  serialB : Bytes := []
  ownGib : Nat := 16
  epochMs : Nat := 1000
  volumes : Tab VolRec := []
  domains : Tab DomRec := []
  budget : Option Nat := none
  shareA : Nat := 50
  home : List Nat := [0, 16]
  plc : PlcPolicy := {}
  media : MediaPolicy := {}
  opKeys : Tab Bytes := []
  rels : Tab ReplRec := []
  deriving DecidableEq, Repr

/-- The response descriptor of a sled bridge (Table 10.10), with the data of a READ. -/
structure SledResp where
  port : Fin 1024
  tag : Nat
  outcome : Nat
  corrected : Nat
  retries : Nat
  data : Bytes
  detail : Bytes
  deriving DecidableEq, Repr

/-- A received flit (Table 10.5): its virtual channel, header fields, whether it opens a message (R291), whether its check passes,
and payload. -/
structure Flit where
  vc : Nat
  endF : Bool
  start : Bool
  seq : Nat
  ack : Nat
  dcr : Nat
  checkOk : Bool
  payload : Bytes
  deriving DecidableEq, Repr

/-- The fields of a TS2 ordered set (Table 10.4). -/
structure Ts2 where
  version : Nat
  bridgePort : Nat
  cmdCredits : Nat
  dataCredits : Nat
  mgmtCredits : Nat
  maxTags : Nat
  checkOk : Bool
  deriving DecidableEq, Repr

/-- What a read of an identity memory yields (R309): its bytes, or nothing after three attempts. -/
abbrev RecordRead := Option Bytes

/-- A resource named by an event record (Table 16.2). -/
inductive Subject where
  | none
  | sramRow (block macroNo row : Nat)
  | dramRow (channel rank bank row : Nat)
  | sledLane (port : Nat)
  | engineCore (engine core : Nat)
  | flashBlock (shelf sled die block : Nat)
  | dramRank (channel rank : Nat)
  | shelf (g : Nat)
  | volume (v : Nat)
  | queuePair (qpn : Nat)
  | keySlot (digest : Bool) (slot : Nat)
  | claim (cls index : Nat)
  deriving DecidableEq, Repr

/-- Who addresses a register: the control port by BAR0 or BAR1 offset (Table 2.1), or Lodge firmware by its
address in the expert register window (Table 2.16). -/
inductive RegSpace where
  | bar0
  | bar1
  | window
  deriving DecidableEq, Repr

/-- The verdict of a targeted self-test (R439, R456). -/
inductive Verdict where
  | pass
  | fail
  | abandoned
  deriving DecidableEq, Repr

/-- A replication stream record (Tables 11.6, 11.7). -/
inductive StreamRec where
  | start (index blocks : Nat)
  | chunk (index chunk : Nat) (raw : Bool) (payload : Bytes) (serial : Nat)
  | ref (index chunk serial : Nat)
  | unmap (index chunk count : Nat)
  | unreadable (index chunk : Nat)
  | finish (total : Nat)
  deriving DecidableEq, Repr

/-- A replication message: the capsule of Table 11.5 and the records it carries. -/
structure ReplMsg where
  relationship : Nat
  batch : Nat
  msgNo : Nat
  sourceEpoch : Nat
  sourceArray : Bytes
  checkOk : Bool
  records : List StreamRec
  deriving DecidableEq, Repr

end Sys2Proof
end

