-- ==== Sys2Proof/Syntax.lean ====
section
/-!
DEFINITION. Syntax.lean: the commands of the Nesutar. One constructor per row of spec/opcode_table.json, in the
table's order; the docstring gives the row's mnemonic, its rule and the table's summary.
-/
namespace Sys2Proof

/-- A command that the Nesutar takes from outside: a register or mailbox access, a packet or message, a pin event, the
end of an interval, or the report of one of its engines. -/
inductive Instr where
  /-- MBX_REQUEST_WRITE (R35). A client write to a mailbox request area is stored, or discarded with write_busy set while the mailbox is POSTED or RUNNING. -/
  | mbxRequestWrite (n : Fin 64) (off : Nat) (data : Bytes)
  /-- MBX_RING (R36). A write of KSK_MBX_DB.ring posts the request, acknowledges a DONE response and sets state POSTED, or sets ring_busy if the mailbox is busy. -/
  | mbxRing (n : Fin 64)
  /-- MBX_CANCEL (R39). A write of KSK_MBX_DB.cancel asks that the posted or running request end ABORTED if nothing of it has been applied. -/
  | mbxCancel (n : Fin 64)
  /-- MBX_DONE_ACK (R36). A write of 1 to KSK_MBX_STAT.done returns a DONE mailbox to IDLE. -/
  | mbxDoneAck (n : Fin 64)
  /-- MBX_TAKE (R36). The Lodge takes a POSTED request and the mailbox becomes RUNNING. -/
  | mbxTake (n : Fin 64)
  /-- KIOSK_HW_TIMEOUT (R38). A request not taken within 250 ms is completed BUSY by the Kiosk hardware with hw_timeout set. -/
  | kioskHwTimeout (n : Fin 64)
  /-- BASMOS_PART (R44). A non-final part of a multi-part Basmos message is checked and acknowledged SUCCESS with length 0. -/
  | basmosPart (n : Fin 64)
  /-- BASMOS_PART_TIMEOUT (R44). A partial message whose next part is not posted within 1 s is discarded with no effect. -/
  | basmosPartTimeout (n : Fin 64)
  /-- JOB_RESULT_EXPIRY (R37). The result of a finished job is discarded one hour after it finished. -/
  | jobResultExpiry (job : Nat)
  /-- NONCE_EXPIRY (R45). A SESSION_CHALLENGE nonce becomes invalid 5 minutes after it was issued. -/
  | nonceExpiry (k : Nat)
  /-- SESSION_EXPIRY (R47). An expert session reaches its expiry, releasing its claims and letting forced states lapse. -/
  | sessionExpiry
  /-- SESSION_LOCKOUT_END (R46). The 10-minute refusal of SESSION_OPEN after five failures ends. -/
  | sessionLockoutEnd
  /-- MB63_WRITE (R41). An SMBus block write places data into the mailbox 63 request area, claiming the mailbox for SMBus if it has no holder. -/
  | mb63Write (pecOk : Bool) (off : Nat) (data : Bytes)
  /-- MB63_DOORBELL_RING (R41). MB63_DOORBELL with data 0x01 rings mailbox 63. -/
  | mb63DoorbellRing (pecOk : Bool)
  /-- MB63_DOORBELL_CANCEL (R41). MB63_DOORBELL with data 0x02 cancels the request in mailbox 63. -/
  | mb63DoorbellCancel (pecOk : Bool)
  /-- MB63_DOORBELL_ACK (R41). MB63_DOORBELL with data 0x03 acknowledges the response, releasing SMB_ALERT_N and the holder. -/
  | mb63DoorbellAck (pecOk : Bool)
  /-- MB63_STATUS_READ (R41). An SMBus block read returns KSK_MBX_STAT and KSK_MBX_INFO of mailbox 63. -/
  | mb63StatusRead (pecOk : Bool)
  /-- MB63_READ_OFFSET (R41). An SMBus write word sets the response-area offset for the next MB63_READ. -/
  | mb63ReadOffset (pecOk : Bool) (off : Nat)
  /-- MB63_READ (R41). An SMBus block read returns response bytes from the current offset and advances it. -/
  | mb63Read (pecOk : Bool) (count : Nat)
  /-- SMBUS_ALERT_RESPONSE (R42). A read of the Alert Response Address returning the Nesutar's address releases SMB_ALERT_N. -/
  | smbusAlertResponse
  /-- SYS_INFO (R49). Returns the 64-byte device, firmware, role and time information. -/
  | sysInfo (n : Fin 64)
  /-- SYS_HEALTH (R451). Returns the 64-byte health summary. -/
  | sysHealth (n : Fin 64)
  /-- JOB_STATUS (R49). Returns the state, final status and result of a job. -/
  | jobStatus (n : Fin 64)
  /-- FW_STAGE (R404). Checks a firmware image and starts a job that programs it into the inactive boot NOR slot. -/
  | fwStage (n : Fin 64) (readBackOk : Bool)
  /-- FW_ACTIVATE (R118). Hands the head's volumes to the peer, has it fenced and restarts it onto the staged slot. -/
  | fwActivate (n : Fin 64)
  /-- HEAD_RESET (R435). Asserts a warm reset at once, or after handing every volume to the peer. -/
  | headReset (n : Fin 64)
  /-- SESSION_CHALLENGE (R55). Returns a fresh 32-byte nonce and the device serial. -/
  | sessionChallenge (n : Fin 64)
  /-- SESSION_OPEN (R45). Verifies a signed token and opens the expert session, returning its handle and expiry. -/
  | sessionOpen (n : Fin 64)
  /-- SESSION_CLOSE (R55). Closes the expert session with the effects of R47. -/
  | sessionClose (n : Fin 64)
  /-- CLAIM_LIST (R55). Returns the holder records of claimed resources from a starting class and index. -/
  | claimList (n : Fin 64)
  /-- CLAIM_REVOKE (R52). Releases a named claim, disables the resource and records an event. -/
  | claimRevoke (n : Fin 64)
  /-- VOL_CREATE (R147). Creates a thin volume for the pair in an existing domain with a preferred role. -/
  | volCreate (n : Fin 64)
  /-- VOL_DELETE (R147). Deletes a volume at the next epoch boundary of the owning head and starts a job releasing its space. -/
  | volDelete (n : Fin 64)
  /-- VOL_RESIZE (R147). Changes a volume's size or clears its damage mark at the next epoch boundary of the owning head. -/
  | volResize (n : Fin 64)
  /-- VOL_LIST (R147). Returns up to 17 volume entries from a starting volume number. -/
  | volList (n : Fin 64)
  /-- DOM_CREATE (R207). Creates a domain with its salt and loads the wrapped domain key. -/
  | domCreate (n : Fin 64)
  /-- DOM_POLICY (R208). Queries or sets a domain's de-duplication and compression flags or the head-wide filter size. -/
  | domPolicy (n : Fin 64)
  /-- DOM_BYTE_VERIFY (R209). Turns byte-verify on or off for a domain from the next epoch boundary. -/
  | domByteVerify (n : Fin 64)
  /-- PWR_BUDGET_SET (R241). Sets the shelf budget B and share_a for the pair. -/
  | pwrBudgetSet (n : Fin 64)
  /-- PWR_STATE_POLICY (R430). Queries or sets this head's idle sleep policy. -/
  | pwrStatePolicy (n : Fin 64)
  /-- PWR_STATUS (R431). Returns the 48-byte power state report. -/
  | pwrStatus (n : Fin 64)
  /-- PWR_STATE_FORCE (R432). Starts a job forcing a transition to Serve, Watch or Dormant. -/
  | pwrStateForce (n : Fin 64)
  /-- AVS_SET (R433). Sets a rail's voltage within its service window under R413. -/
  | avsSet (n : Fin 64)
  /-- WAKE_SOURCE_SET (R434). Claims a timer and pin and sets the wake sources as a forced state. -/
  | wakeSourceSet (n : Fin 64)
  /-- PLC_POLICY (R242). Queries or replaces the placement and shelf policy record. -/
  | plcPolicy (n : Fin 64)
  /-- SHELF_STATUS (R243). Returns state, charge and fill entries for one or all shelves. -/
  | shelfStatus (n : Fin 64)
  /-- SHELF_WAKE (R244). Starts a job that wakes a shelf and holds it awake for hold_s. -/
  | shelfWake (n : Fin 64)
  /-- SHELF_SLEEP (R245). Starts a job that closes a shelf under Table 8.7. -/
  | shelfSleep (n : Fin 64)
  /-- SHELF_HARDEN (R246). Starts a job that hardens every deferred row of this head on an awake shelf. -/
  | shelfHarden (n : Fin 64)
  /-- HOME_SHELF_SET (R247). Starts a job moving metadata to a new set of home shelves. -/
  | homeShelfSet (n : Fin 64)
  /-- MEDIA_STATUS (R279). Returns free, reclaimable and retired capacity for a shelf or the head. -/
  | mediaStatus (n : Fin 64)
  /-- MEDIA_POLICY (R280). Queries or replaces the media policy record. -/
  | mediaPolicy (n : Fin 64)
  /-- GC_FORCE (R281). Starts a job reclaiming named or eligible bands on an awake shelf. -/
  | gcForce (n : Fin 64)
  /-- BLOCK_RETIRE (R282). Starts a job retiring a named block. -/
  | blockRetire (n : Fin 64)
  /-- SCRUB_NOW (R283). Starts a retention inspection of an awake shelf. -/
  | scrubNow (n : Fin 64)
  /-- DRAM_STATUS (R363). Returns DRAM status for the head or one channel. -/
  | dramStatus (n : Fin 64)
  /-- DRAM_TRAIN (R364). Runs retraining pauses, or full destructive training as a job where allowed. -/
  | dramTrain (n : Fin 64)
  /-- RANK_RETIRE (R365). Takes a rank out of service and starts spare migration or address withdrawal. -/
  | rankRetire (n : Fin 64)
  /-- DRAM_QOS_SET (R366). Sets the QoS target of a changeable DRAM port and returns the previous target. -/
  | dramQosSet (n : Fin 64)
  /-- CACHE_STATUS (R381). Returns Conservatory way, hit, miss and parity counts. -/
  | cacheStatus (n : Fin 64)
  /-- WAY_LOCK (R382). Claims and locks a lockable way loaded from a range, or unlocks it. -/
  | wayLock (n : Fin 64)
  /-- WAY_POWER (R383). Powers Conservatory ways down or up as a forced state. -/
  | wayPower (n : Fin 64)
  /-- CACHE_MAINT (R384). Runs a clean or invalidate by range or way and returns skipped and written counts. -/
  | cacheMaint (n : Fin 64)
  /-- KEY_WRAPPED_LOAD (R393). Unwraps a key blob of kind 0-4 and loads it or starts a rotation. -/
  | keyWrappedLoad (n : Fin 64)
  /-- KEY_ZEROISE (R395). Zeroises a KEK, domain key, queue keys, digest slot or every key. -/
  | keyZeroise (n : Fin 64)
  /-- ATTEST (R405). Returns a signed attestation report, optionally with certificates. -/
  | attest (n : Fin 64)
  /-- OPERATOR_KEY_REGISTER (R406). Adds or removes an operator key under a registered signature. -/
  | operatorKeyRegister (n : Fin 64)
  /-- KEY_SLOT_INFO (R396). Returns state and check values of a range of cipher key slots. -/
  | keySlotInfo (n : Fin 64)
  /-- EVT_READ (R452). Returns filtered event records from the ring, log or summary. -/
  | evtRead (n : Fin 64)
  /-- EVT_SUMMARY (R453). Returns sequence ranges and class counts of the event tiers. -/
  | evtSummary (n : Fin 64)
  /-- MON_ARM (R454). Claims and arms a latency monitor unit, or disarms and releases it. -/
  | monArm (n : Fin 64)
  /-- MON_READ (R455). Snaps a monitor unit and returns its values and buckets. -/
  | monRead (n : Fin 64)
  /-- SELFTEST_RUN (R456). Starts a job running the targeted self-test on a named resource. -/
  | selftestRun (n : Fin 64)
  /-- PORT_CONFIG (R174). Starts a job reconfiguring host ports and the staging pool. -/
  | portConfig (n : Fin 64) (trained : BitVec 8)
  /-- QP_STATUS (R175). Returns the status of a queue pair by queue_id. -/
  | qpStatus (n : Fin 64)
  /-- PD_CONFIG (R158). Creates, changes or deletes a protection domain. -/
  | pdConfig (n : Fin 64)
  /-- QP_RESET (R176). Puts a connected queue pair into ERROR. -/
  | qpReset (n : Fin 64)
  /-- CREDIT_SET (R177). Sets the credit window and allowance cap for the head or one queue. -/
  | creditSet (n : Fin 64)
  /-- PAIR_STATUS (R110). Returns the pair role, state, ports and peer identity. -/
  | pairStatus (n : Fin 64)
  /-- PAIR_JOIN (R116). Starts a job creating, rejoining or replacing into a pair after the pairing checks. -/
  | pairJoin (n : Fin 64)
  /-- FAILBACK (R115). Starts a job returning a rejoined head to full service in the order of Table 4.8. -/
  | failback (n : Fin 64)
  /-- TAKEOVER_FORCE (R119). Hands all volumes to the peer and has this head fenced, or declares loss now. -/
  | takeoverForce (n : Fin 64)
  /-- MIGRATION_WINDOW (R117). Opens or closes a window in which a named peer of another generation may pair. -/
  | migrationWindow (n : Fin 64)
  /-- SNAP_CREATE (R332). Assigns snapshot numbers and starts a job cutting them at the next boundary. -/
  | snapCreate (n : Fin 64)
  /-- SNAP_DELETE (R333). Starts a job deleting a snapshot and releasing its pages. -/
  | snapDelete (n : Fin 64)
  /-- SNAP_LIST (R334). Returns up to 17 snapshot entries of a volume. -/
  | snapList (n : Fin 64)
  /-- REPL_CONFIG (R335). Creates, deletes, pauses or resumes a replication relationship. -/
  | replConfig (n : Fin 64)
  /-- REPL_STATUS (R336). Returns the state of a replication relationship. -/
  | replStatus (n : Fin 64)
  /-- REPL_RESYNC (R331). Makes the next batch of a relationship have an empty base. -/
  | replResync (n : Fin 64)
  /-- REG_READ (R51). Reads 1-64 words through the expert register window. -/
  | regRead (n : Fin 64)
  /-- REG_WRITE (R51). Writes 1-64 words through the expert register window. -/
  | regWrite (n : Fin 64)
  /-- REG_MODIFY (R51). Read-modify-writes one register under a mask through the expert register window. -/
  | regModify (n : Fin 64)
  /-- REGISTER_WRITE (R10). A write to a register field that has no row of its own takes effect as its type states. -/
  | registerWrite (space : RegSpace) (addr : Nat) (data : Bytes)
  /-- CLAIM_ENABLE_WRITE (R54). A write of user enable bits of a claimable resource gives it to the lowest enabled user and records arbitration. -/
  | claimEnableWrite (cls : Nat) (index : Nat) (en : BitVec 3)
  /-- FUNCTION_LEVEL_RESET (R422). A control-port Function Level Reset resets the function, its mailboxes and its expert session. -/
  | functionLevelReset
  /-- QUEUE_OPEN (R122). An RDMA connection request with a LAT open record opens, resumes or refuses a queue. host: the
  host's queue pair and its first PSN. -/
  | queueOpen (qpn : Fin 16384) (port : Fin 8) (supported : Bool) (host : Nat × Nat) (private_ : Bytes)
  /-- RTU (R152). An RTU moves a CONNECTING queue pair to OPEN. -/
  | rtu (qpn : Fin 16384)
  /-- DREQ (R152). A DREQ moves a queue pair to CLOSING and its queue closes. -/
  | dreq (qpn : Fin 16384)
  /-- CONNECTING_TIMEOUT (R152). A queue pair without RTU or packet 1 s after REP returns to FREE. -/
  | connectingTimeout (qpn : Fin 16384)
  /-- QUEUE_KEEPALIVE_EXPIRY (R123). No capsule for three keepalive intervals closes the queue. -/
  | queueKeepaliveExpiry (qpn : Fin 16384)
  /-- REPLAY_TABLE_EXPIRY (R125). The replay table of a closed queue is discarded one hour after close. -/
  | replayTableExpiry (queueId : Nat)
  /-- INBOUND_PACKET (R154). An inbound RoCEv2 packet is checked for PSN, duplicates, credits and encryption and acknowledged. -/
  | inboundPacket (qpn : Fin 16384) (pkt : Packet)
  /-- TAGGED_SEGMENT (R159). A tagged-mode segment is matched to its tag, parked or placed by offset into the staging window. -/
  | taggedSegment (qpn : Fin 16384)
  /-- PLAIN_SEND (R162). A plain-mode SEND packet is placed in a device-posted receive buffer. -/
  | plainSend (qpn : Fin 16384)
  /-- PLAIN_COPY_DONE (R162). The copy of a complete plain-mode SEND into the tag's staging window ends and the buffer is freed. -/
  | plainCopyDone (qpn : Fin 16384) (tag : Fin 32)
  /-- STAGING_PAGE_FREE (R160). A staging page returns to the pool and a packet stalled on a fault is placed. -/
  | stagingPageFree (qpn : Fin 16384) (tag : Fin 32) (page : Nat)
  /-- STAGING_FAULT_TIMEOUT (R161). A fault unsatisfied for 20 µs draws an RNR NAK and the packet is discarded. -/
  | stagingFaultTimeout (qpn : Fin 16384)
  /-- CONTEXT_FETCH_DONE (R155). A queue-pair context arrives in the cache and its held packets leave the hold buffer in order. -/
  | contextFetchDone (qpn : Fin 16384) (lineOk : Bool)
  /-- ACK_COALESCE_TIMER (R154). A coalesced ACK is sent 2 µs after the last while packets arrive. -/
  | ackCoalesceTimer (qpn : Fin 16384)
  /-- SELECTIVE_NAK_TIMER (R167). A multipath PSN gap open for 4 ms draws a selective NAK. -/
  | selectiveNakTimer (qpn : Fin 16384) (psn : Nat)
  /-- OUTBOUND_ACK_TIMEOUT (R153). An unacknowledged outbound packet is retried, and after 7 retries the queue pair enters ERROR. -/
  | outboundAckTimeout (qpn : Fin 16384)
  /-- RNR_NAK_RECEIVED (R153). A host RNR NAK to an outbound SEND or RDMA WRITE schedules a resend after the host's RNR time. -/
  | rnrNakReceived (qpn : Fin 16384) (psn : Nat) (timer : Nat)
  /-- RNR_RESEND_TIMER (R153). The RNR wait ends and the refused packet is sent again. -/
  | rnrResendTimer (qpn : Fin 16384)
  /-- RNR_HOLD_EXPIRY (R153). One outbound packet answered RNR for 1 s in total puts the queue pair into ERROR. -/
  | rnrHoldExpiry (qpn : Fin 16384)
  /-- REMOTE_ACCESS_ERROR_NAK (R133). A remote access error NAK to read data puts the queue pair into ERROR and ends the READ INVALID_FIELD. -/
  | remoteAccessErrorNak (qpn : Fin 16384) (psn : Nat)
  /-- INVALID_REQUEST_NAK (R153). An invalid-request NAK received puts the queue pair into ERROR. -/
  | invalidRequestNak (qpn : Fin 16384)
  /-- CNP_RECEIVED (R149). A congestion notification packet halves the queue pair's outbound rate. -/
  | cnpReceived (qpn : Fin 16384) (since50us : Bool)
  /-- RATE_RECOVERY_TICK (R149). Every 55 µs without notification the queue pair's rate rises by 5 % of port rate. -/
  | rateRecoveryTick (qpn : Fin 16384)
  /-- PAUSE_FRAME (R149). A priority flow control pause frame pauses the port's priority. -/
  | pauseFrame (port : Fin 8) (priority : Nat) (pause : Bool)
  /-- HOST_PORT_LINK_CHANGE (R165). A host port goes up or down and queue pairs move to the next up port of their path group. -/
  | hostPortLinkChange (port : Fin 8) (up : Bool)
  /-- CREDIT_STARVATION_TIMER (R169). A queue pair granted nothing for 1 ms is granted one segment ahead of the round. -/
  | creditStarvationTimer (qpn : Fin 16384)
  /-- OLD_RX_KEY_EXPIRY (R172). 100 ms after the first packet of a new receive phase the old receive key is zeroised. -/
  | oldRxKeyExpiry (qpn : Fin 16384)
  /-- QUEUE_KEY_HOLD_EXPIRY (R393). A queue key held 10 min for a queue that has not opened is dropped. -/
  | queueKeyHoldExpiry (queueId : Nat)
  /-- MESSAGE_TIMER_EXPIRY (R142). A message timer expires, ending the message TIMEOUT with nothing applied. -/
  | messageTimerExpiry (qpn : Fin 16384) (tag : Fin 32)
  /-- WRITE (R130). A complete WRITE message passes the checks and enters ingest toward acceptance. -/
  | write (qpn : Fin 16384) (tag : Fin 32)
  /-- READ (R132). A complete READ message resolves its range, fetches and delivers the data by RDMA WRITE, then completes. -/
  | read (qpn : Fin 16384) (tag : Fin 32)
  /-- FLUSH (R71). A FLUSH covers every earlier accepted write to its volumes and completes once they are on flash and checkpointed. -/
  | flush (qpn : Fin 16384) (tag : Fin 32)
  /-- RELEASE (R131). A RELEASE unmaps its range as a writer. -/
  | release (qpn : Fin 16384) (tag : Fin 32)
  /-- ABORT (R73). An ABORT decides its target ABORTED or TOO_LATE at one point, or completes NOT_FOUND. -/
  | abort (qpn : Fin 16384) (tag : Fin 32)
  /-- RECALL (R134). A RECALL asks Parterre to wake or stage its range and completes when the range is readable without a wake. -/
  | recall (qpn : Fin 16384) (tag : Fin 32)
  /-- IDENTIFY (R136). An IDENTIFY writes the 256-byte identity record to host memory and completes. -/
  | identify (qpn : Fin 16384) (tag : Fin 32)
  /-- KEEPALIVE (R137). A KEEPALIVE restarts the keepalive count and completes SUCCESS. -/
  | keepalive (qpn : Fin 16384) (tag : Fin 32)
  /-- OVERLAP_RELEASE (R68). A command held behind an earlier overlapping writer proceeds once that writer reaches its outcome. -/
  | overlapRelease (asn : Nat)
  /-- ORDERED_BARRIER_RELEASE (R66). Commands held by an ORDERED barrier enter step 3 once the barrier reaches its outcome. -/
  | orderedBarrierRelease (qpn : Fin 16384)
  /-- FINGERPRINT_DONE (R188). A chunk's fingerprint is ready and its in-flight and filter lookup runs. -/
  | fingerprintDone (asn : Nat) (chunk : Nat)
  /-- INDEX_GROUP_READ_DONE (R188). A Dovecote index group read returns and the lookup decides reference or new chunk. -/
  | indexGroupReadDone (asn : Nat) (chunk : Nat) (ok : Bool)
  /-- LOOKUP_SHED (R189). An index group read not returned within 300 µs sheds and the chunk is stored as new. -/
  | lookupShed (asn : Nat) (chunk : Nat)
  /-- VERIFY_READ_DONE (R192). A byte-verify read returns and the bytes are compared. poisoned: the cipher engine met a
  poisoned source line (Table 14.4). -/
  | verifyReadDone (asn : Nat) (chunk : Nat) (poisoned : Bool)
  /-- VERIFY_SHED (R192). A verify read not returned within 500 µs sheds and the chunk is stored as new. -/
  | verifyShed (asn : Nat) (chunk : Nat)
  /-- MERGE_READ_DONE (R179). A partial-chunk merge read returns and the merged chunk continues as full, or the WRITE ends with its error.
  poisoned: as above. -/
  | mergeReadDone (asn : Nat) (chunk : Nat) (poisoned : Bool)
  /-- COMPRESSION_DONE (R193). Compression of a new chunk or overlay ends and the stream or raw input is chosen. -/
  | compressionDone (asn : Nat) (chunk : Nat)
  /-- ENCRYPTION_DONE (R200). Encryption of a chunk envelope ends and its journal record is written and mirrored. -/
  | encryptionDone (asn : Nat) (chunk : Nat)
  /-- JOURNAL_WRITE_ACK (R56). The DRAM controller acknowledges a journal record write. -/
  | journalWriteAck (off : Nat)
  /-- COMMIT_UNIT_COMMIT (R56). A commit unit commits when its data is complete, its records are acknowledged and receipted and earlier overlapping writers are done. -/
  | commitUnitCommit (asn : Nat) (unit : Nat)
  /-- JOURNAL_RELEASE (R82). A commit unit whose copies are programmed and map records checkpointed is released by a drained record. -/
  | journalRelease (asn : Nat) (unit : Nat)
  /-- EPOCH_TIMER_FIRE (R78). The epoch timer fires and the ingest pipeline stops admitting commands to step 3. -/
  | epochTimerFire
  /-- HOLD_OK_FALL (R85). A fall of HOLD_OK puts the head into flash-confirmed mode. -/
  | holdOkFall
  /-- HOLD_OK_RISE (R85). A rise of HOLD_OK starts the 1 s qualification for leaving flash-confirmed mode. -/
  | holdOkRise
  /-- FLASH_CONFIRMED_EXIT (R85). HOLD_OK high for 1 s with no undrained unit committed in the mode ends flash-confirmed mode. -/
  | flashConfirmedExit
  /-- PWR_FAIL_FALL (R86). A qualified fall of PWR_FAIL_N stops commits and starts compaction into the keep channels. -/
  | pwrFailFall
  /-- COMPACTION_COPY_DONE (R86). The journal copy into the keep area ends, the keep header is written and the head enters Icehouse. -/
  | compactionCopyDone
  /-- PWR_FAIL_RISE (R88). A rise of PWR_FAIL_N starts the restart from the keep area of Table 3.10. -/
  | pwrFailRise
  /-- RESTART_PEER_WAIT_EXPIRY (R88). A restarting head with a valid keep area and no peer reply for 10 min goes on alone. -/
  | restartPeerWaitExpiry
  /-- RESTART_REPLAY_DONE (R88). Replay of committed units ends and host commands are admitted. -/
  | restartReplayDone
  /-- KEEP_OK_FALL (R426). A fall of KEEP_OK at compaction or in Icehouse is latched and marks the keep area lost. -/
  | keepOkFall
  /-- HELLO (R116). A received HELLO drives pairing checks and the restart exchange. -/
  | hello (msg : HelloMsg)
  /-- HEARTBEAT (R97). A received HEARTBEAT with a rising counter keeps its port up and may start an array record read. -/
  | heartbeat (port : Fin 4) (msg : HbMsg)
  /-- MIRROR (R100). A complete MIRROR message is written into the mirror region and receipted once acknowledged. -/
  | mirror (msgId : Nat) (recs : List JRec)
  /-- RECEIPT (R100). A received RECEIPT marks mirrored messages receipted, releasing waits on them. -/
  | receipt (cumId : Nat) (ranges : List (Nat × Nat))
  /-- SNAK (R99). A received SNAK makes the sender resend the named segments on any up port. -/
  | snak (portClass : Fin 4 × Fin 2) (firstSeq : Nat) (lastSeq : Nat) (msgId : Option Nat)
  /-- HANDOVER (R114). A received HANDOVER step moves a planned ownership transfer forward. -/
  | handover (msg : HandoverMsg)
  /-- RESYNC (R115). A received RESYNC message writes bulk own-region bytes into the mirror region. -/
  | resync (msgId : Nat) (recs : List JRec)
  /-- FOOTBRIDGE_GAP_TIMER (R99). A message with a gap 4 ms after its first segment draws a SNAK naming missing byte ranges. -/
  | footbridgeGapTimer (msgId : Nat)
  /-- FOOTBRIDGE_RESEND_TIMER (R99). A message without receipt 8 ms after its last segment is resent whole. -/
  | footbridgeResendTimer (msgId : Nat)
  /-- FOOTBRIDGE_PORT_DOWN (R97). A port without HEARTBEAT for 5 ms goes down and its unreceipted segments are resent. -/
  | footbridgePortDown (port : Fin 4)
  /-- PCS_ALIGNMENT_CHANGE (R97). A Footbridge port's PCS gains or loses alignment. -/
  | pcsAlignmentChange (port : Fin 4) (aligned : Bool)
  /-- HEARTBEAT_SEND_TIMER (R103). Every 1 ms the Lodge sends a HEARTBEAT on every aligned port. -/
  | heartbeatSendTimer
  /-- HB_KICK (R103). A write of FTB_HB_KICK permits PEER_HB_OUT edges for the next 2 ms. -/
  | hbKick
  /-- HB_PIN_TOGGLE (R103). Every 1 ms the Gatehouse inverts PEER_HB_OUT if kicked within 2 ms. -/
  | hbPinToggle
  /-- PEER_HB_IN_EDGE (R104). An edge on PEER_HB_IN keeps the pin path live. -/
  | peerHbInEdge
  /-- PIN_PATH_SILENT (R104). 50 ms without a PEER_HB_IN edge makes the pin path silent and acts under Table 4.5. -/
  | pinPathSilent
  /-- MESSAGE_PATH_SILENT (R104). 50 ms without a counted HEARTBEAT makes the message path silent and acts under Table 4.5. -/
  | messagePathSilent
  /-- PARTIAL_SILENCE_TIMEOUT (R109). A silent message path with an aligned PCS for 1 s is treated as the unaligned case. -/
  | partialSilenceTimeout
  /-- ROLE_B_FENCE_DELAY (R109). Role B fences 10 ms after declaring loss unless fenced first. -/
  | roleBFenceDelay
  /-- FENCE_IN_FALL (R110). A fall of FENCE_IN_N latches the fenced state and stops programs, completions, shelf requests and mirroring. -/
  | fenceInFall
  /-- FENCE_IN_RISE (R110). A rise of FENCE_IN_N while the fenced latch is set ends nothing and records an event. -/
  | fenceInRise
  /-- TAKEOVER_SLED_WAIT_END (R110). 20 ms after fencing the survivor reconciles the mirror region and loads the peer's checkpoint. -/
  | takeoverSledWaitEnd
  /-- TAKEOVER_MAP_LOADED (R110). The peer's map checkpoint is loaded and the survivor takes the block groups, volumes and queues. -/
  | takeoverMapLoaded
  /-- HANDOVER_DRAIN_DONE (R114). The giving head has released every unit of the handed volumes. -/
  | handoverDrainDone
  /-- RESYNC_COMPLETE (R115). The survivor finishes RESYNC and acceptance waits on the rejoined head's receipts again. -/
  | resyncComplete
  /-- FAILBACK_FENCE_RELEASE (R115). With the rejoined head's own region empty, the survivor unlocks sled ports and releases PEER_FENCE_N. -/
  | failbackFenceRelease
  /-- PAIRING_PORT_TIMEOUT (R116). No Footbridge port up within 10 s fails pairing PEER_ABSENT. -/
  | pairingPortTimeout
  /-- MIGRATION_WINDOW_EXPIRY (R117). A migration window expires and a peer of another generation is fenced and taken over. -/
  | migrationWindowExpiry
  /-- ARRAY_RECORD_READ_DONE (R487). A read of the array record ends and its changes are applied. -/
  | arrayRecordReadDone (record : ArrayRec)
  /-- REPLICATION_MESSAGE (R328). A target receives a replication message and applies its stream records in msg_no order. -/
  | replicationMessage (qpn : Fin 16384) (tag : Fin 32) (msg : ReplMsg)
  /-- REPLICATION_PROBE (R330). A target answers a probe with the highest durable msg_no and last applied batch. -/
  | replicationProbe (qpn : Fin 16384) (tag : Fin 32) (relationship : Nat) (batch : Nat)
  /-- REPLICATION_COMPLETION (R329). A source receives a replication completion and resends or advances the batch. -/
  | replicationCompletion (relationship : Nat) (msgNo : Nat) (status : Status) (durable : Nat) (batchApplied : Nat) (probe : Bool)
  /-- SHELF_WAKE_GRANT (R212). The Gatehouse grants a waiting wake charge and asserts SHF_PWR_REQ_N. -/
  | shelfWakeGrant (g : Fin 32)
  /-- SHF_PWR_GOOD_RISE (R217). SHF_PWR_GOOD rises and the port group is powered and begins link training. -/
  | shfPwrGoodRise (g : Fin 32)
  /-- SHF_PWR_GOOD_FALL (R219). SHF_PWR_GOOD falls on a held shelf, failing its commands and treating it as a failed wake. -/
  | shfPwrGoodFall (g : Fin 32)
  /-- SHELF_WAKE_TIMEOUT (R218). A wake without power good at 3 s or with fewer than 28 links at 6 s fails; with 28 or more it completes. -/
  | shelfWakeTimeout (g : Fin 32) (sixSeconds : Bool)
  /-- SHELF_WAKE_RETRY (R218). 10 s after a failed wake the wake is tried again. -/
  | shelfWakeRetry (g : Fin 32)
  /-- SHELF_HOURLY_RETRY (R218). A command arriving an hour after the last attempt on a FAILED shelf starts a retry. -/
  | shelfHourlyRetry (g : Fin 32)
  /-- SHELF_REQUEST_HOLDOFF_END (R220). 10 s after a release the head may request the shelf again. -/
  | shelfRequestHoldoffEnd (g : Fin 32)
  /-- MIN_AWAKE_EXPIRY (R220). A woken shelf's min_awake_s interval ends. -/
  | minAwakeExpiry (g : Fin 32)
  /-- IDLE_CLOSE_EXPIRY (R220). A fill shelf idle for idle_close_s with no waiting command begins closing. -/
  | idleCloseExpiry (g : Fin 32)
  /-- BATCH_WINDOW_END (R237). A batch window ends and batched OFF shelves are woken in rank order within the share. -/
  | batchWindowEnd
  /-- URGENCY_STEP (R236). A schedule item's urgency rises as 50, 25 and 0 % of its deadline remain. -/
  | urgencyStep (item : Nat)
  /-- SCHEDULE_GRANT (R236). Parterre grants the highest-ranked waiting item, lowering caps or closing shelves to make room. -/
  | scheduleGrant
  /-- METER_WINDOW (R212). A 10 ms metering window ends and sled commands are metered against w and r anew. -/
  | meterWindow (g : Fin 32)
  /-- CHUNK_PLACE (R222). Parterre places a journal chunk on an awake shelf with room and issues its drain. -/
  | chunkPlace (serial : Nat)
  /-- SHELF_CLOSE_COMPLETE (R234). The closing steps up to the release of secondaries end and the shelf is released and OFF. -/
  | shelfCloseComplete (g : Fin 32)
  /-- RECALL_STAGE_DONE (R238). Staging of a RECALL's envelopes to home shelves ends and the RECALL completes. -/
  | recallStageDone (asn : Nat)
  /-- RECALL_HOLD_EXPIRY (R238). A recall hold expires and the staged copies or shelf hold are released. -/
  | recallHoldExpiry (hold : Nat)
  /-- RETENTION_DUE (R239). A shelf reaches its retention inspection due date and is woken as a background item. -/
  | retentionDue (g : Fin 32)
  /-- HEAT_FOLD (R224). Each hour the transient access counts are folded into the heat counters. -/
  | heatFold
  /-- HEAT_HALVING (R224). Every 24 hours every heat counter is halved. -/
  | heatHalving
  /-- CHECKPOINT_START (R260). checkpoint_s elapses or dirty pages exceed 4 GiB and a map checkpoint begins. -/
  | checkpointStart
  /-- CHECKPOINT_COMPLETE (R260). The checkpoint root is confirmed on two home shelves and earlier map records are checkpointed. -/
  | checkpointComplete
  /-- GC_ERASE_WAIT_END (R264). 20 ms after a band is moved with no read outstanding, its blocks are erased. -/
  | gcEraseWaitEnd (g : Fin 32) (band : Nat)
  /-- READ_DISTURB_FOLD (R269). Every 10 s transient read counts fold into block read counters, triggering refresh at the limit. -/
  | readDisturbFold
  /-- SEQUENCED_FLIT (R290). A received sequenced flit is accepted, discarded as duplicate, or discarded with a NAK. -/
  | sequencedFlit (port : Fin 1024) (flit : Flit)
  /-- IDLE (R290). A received IDLE flit carries only an ack. -/
  | idle (port : Fin 1024) (ack : Nat)
  /-- NAK (R290). A received link NAK makes the sender replay every unacknowledged flit from the named seq. -/
  | nak (port : Fin 1024) (seq : Nat)
  /-- CREDIT (R292). A received CREDIT flit returns CMD, MGMT and DATA credits. -/
  | credit (port : Fin 1024) (cmd : Nat) (mgmt : Nat) (data : Nat)
  /-- SLEEP_ACK (R295). The bridge accepts SLEEP and the Nesutar sends EIOS and goes idle. -/
  | sleepAck (port : Fin 1024)
  /-- SLEEP_NAK (R295). The bridge refuses SLEEP and the port stays ACTIVE. -/
  | sleepNak (port : Fin 1024)
  /-- FLIT_REPLAY_TIMEOUT (R290). An unacknowledged flit waiting 6 µs without ack advance is replayed, and after four replays the link enters RECOVERY. -/
  | flitReplayTimeout (port : Fin 1024)
  /-- FLIT_NAK_HOLDOFF_END (R290). 8 µs after a NAK a further NAK for the same seq may be sent. -/
  | flitNakHoldoffEnd (port : Fin 1024)
  /-- TS1 (R293). Received TS1 ordered sets advance POLLING or RECOVERY to the next link state. -/
  | ts1 (port : Fin 1024) (preset : Nat) (asked : Nat)
  /-- TS2 (R293). Received TS2 ordered sets set credits and max_tags and bring the link to ACTIVE. -/
  | ts2 (port : Fin 1024) (ts : Ts2)
  /-- FAR_END_DETECTED (R293). In DETECT the far end's exit from idle moves the port to POLLING. -/
  | farEndDetected (port : Fin 1024)
  /-- LINK_DETECT_RETRY (R293). Every 12 ms DETECT is retried. -/
  | linkDetectRetry (port : Fin 1024)
  /-- LINK_STATE_TIMEOUT (R293). POLLING, CONFIG or RECOVERY exceeds its bound and the port returns to DETECT, ending the session. -/
  | linkStateTimeout (port : Fin 1024)
  /-- FRAMING_ERROR (R307). A framing error or loss of block lock sends the port to RECOVERY. -/
  | framingError (port : Fin 1024)
  /-- SLEEP_IDLE_TIMER (R295). A port idle for sleep_idle_us is sent SLEEP_REQ. -/
  | sleepIdleTimer (port : Fin 1024)
  /-- TEST_COMPLETE (R296). The test pattern length has been sent, EIOS follows and the port enters RECOVERY. -/
  | testComplete (port : Fin 1024) (errors : Nat)
  /-- SLED_READ_RESPONSE (R302). A READ response returns corrected grains or an outcome that starts recovery. -/
  | sledReadResponse (resp : SledResp)
  /-- SLED_PROGRAM_RESPONSE (R301). A PROGRAM response confirms durable pages or reports a failure handled under R265. -/
  | sledProgramResponse (resp : SledResp)
  /-- SLED_ERASE_RESPONSE (R303). An ERASE response frees the block or retires it on failure. -/
  | sledEraseResponse (resp : SledResp)
  /-- DIE_STATUS_RESPONSE (R298). A DIE_STATUS response reports a die's state and error counters. -/
  | dieStatusResponse (resp : SledResp)
  /-- BRIDGE_INFO_RESPONSE (R311). A BRIDGE_INFO response is compared with the sled record to make the link usable or reread the record. -/
  | bridgeInfoResponse (resp : SledResp) (reread : RecordRead)
  /-- PORT_LOCK_RESPONSE (R306). A PORT_LOCK response reports the lock state of the bridge. -/
  | portLockResponse (resp : SledResp)
  /-- NOTICE (R298). A bridge NOTICE reports a die failure, sled failure, thermal slowdown or lock change. -/
  | notice (port : Fin 1024) (kind : Nat) (die : Nat) (temp : Nat)
  /-- SLED_CMD_TIMEOUT (R307). A sled command without response after its timeout is ended ABANDONED. -/
  | sledCmdTimeout (port : Fin 1024) (tag : Nat) (fourthInSecond : Bool)
  /-- LINK_ACTIVE_TIMEOUT (R307). A port that does not regain ACTIVE within 1 s counts its sled as failed. -/
  | linkActiveTimeout (port : Fin 1024)
  /-- SLP_CTL_EN (R312). A write of SLP_CTL.en enables the port or holds it DISABLED, ending its session. -/
  | slpCtlEn (port : Fin 1024) (en : Bool)
  /-- SLP_RETRAIN (R312). A write of 1 to SLP_CTL.retrain sends the port to RECOVERY. -/
  | slpRetrain (port : Fin 1024)
  /-- SLP_TEST (R296). A write of 1 to SLP_CTL.test sends TEST_REQ and starts the PRBS test. -/
  | slpTest (port : Fin 1024)
  /-- IDENTITY_RECORD_READ (R309). Every hour in Serve the shelf and sled identity records are read again. -/
  | identityRecordRead (g : Fin 32) (slot : Fin 33) (record : RecordRead)
  /-- I2C_STRETCH_TIMEOUT (R309). An I2C slave stretching SCL for more than 25 ms ends the transaction with nine clocks and a STOP. -/
  | i2cStretchTimeout (g : Fin 32) (slot : Fin 33) (attempt : Nat)
  /-- DRAM_RETRAIN_PAUSE (R347). Every 128 ms each rank pauses 1 µs to re-centre read and write delays. -/
  | dramRetrainPause (ch : Fin 24) (rank : Fin 4)
  /-- DRAM_REFRESH_DUE (R348). A rank's refresh timer expires and a refresh is issued or postponed. -/
  | dramRefreshDue (ch : Fin 24) (rank : Fin 4) (waiting : Bool)
  /-- DRAM_THERMAL_READ (R339). Every 16 ms module thermal sensors are read and ranks become hot or normal. -/
  | dramThermalRead (ch : Fin 24) (slot : Fin 2) (reading : Option (BitVec 8 × BitVec 8)) (tenths : Int)
  /-- DRAM_RCD_ALERT (R357). An RCD command-parity error on ALERT_n makes the controller reissue commands and count the error. -/
  | dramRcdAlert (ch : Fin 24) (rank : Fin 4) (withinSecond : Bool) (repeatOk : Bool)
  /-- DRAM_READ_ERROR (R358). A corrected read is written back, or an uncorrectable line is poisoned and the rank taken out of service. -/
  | dramReadError (ch : Fin 24) (rank : Fin 4) (ca : Nat) (corrected : Bool)
  /-- DRAM_PATROL_SCRUB (R356). The patrol scrub reads every line once every 24 h. -/
  | dramPatrolScrub (ch : Fin 24)
  /-- RANK_MIGRATION_DONE (R359). The migration pointer reaches the end of the rank and the spare replaces it. -/
  | rankMigrationDone (ch : Fin 24)
  /-- DRAM_USE_WINDOW (R25). A 10 µs DRAM use window ends and the throttle and allowance A are adjusted. -/
  | dramUseWindow (bytes : Nat)
  /-- TRN_MPC_PATTERN (R346). DMC_TRN_CTL.start with op MPC_PATTERN runs the multi-purpose pattern helper. -/
  | trnMpcPattern (ch : Fin 24)
  /-- TRN_WRITE_READ (R346). DMC_TRN_CTL.start with op WRITE_READ runs a destructive write-read compare. -/
  | trnWriteRead (ch : Fin 24)
  /-- TRN_DQS_OSC (R346). DMC_TRN_CTL.start with op DQS_OSC runs the DQS oscillator. -/
  | trnDqsOsc (ch : Fin 24)
  /-- TRN_READ_COMPARE (R346). DMC_TRN_CTL.start with op 3 runs a read compare only. -/
  | trnReadCompare (ch : Fin 24)
  /-- TRN_HELPER_DONE (R346). The training helper ends and reports per-lane fail bits. -/
  | trnHelperDone (ch : Fin 24) (failDq : Word) (failCb : BitVec 8)
  /-- DMC_GEOM_LOCK (R361). A write of 1 to DMC_GEOM.lock locks every RWL field of the DRAM controller. -/
  | dmcGeomLock (ch : Fin 24)
  /-- DMC_BANK_HASH_WRITE (R345). A write of a bank hash mask takes effect, or is discarded with an event if it breaks the rule. -/
  | dmcBankHashWrite (ch : Fin 24) (k : Fin 5) (mask : BitVec 34)
  /-- DMC_CHAN_HASH_WRITE (R343). A write of a channel hash mask takes effect, or is discarded with an event if it breaks the rule. -/
  | dmcChanHashWrite (i : Fin 3) (mask : BitVec 34)
  /-- CACHE_CLEAN (R376). CNS_MAINT_CTL.start with op clean writes back dirty lines by address, range or way. -/
  | cacheClean
  /-- CACHE_INVALIDATE (R376). CNS_MAINT_CTL.start with op invalidate writes back and drops lines, skipping locked ones. -/
  | cacheInvalidate
  /-- CACHE_MAINT_DONE (R376). A Conservatory maintenance operation ends with its skipped and written counts. -/
  | cacheMaintDone
  /-- CNS_WAY_DOWN (R375). A write setting a CNS_WAY_PWR bit takes the way out of allocation and starts cleaning it. -/
  | cnsWayDown (way : Fin 16)
  /-- CNS_WAY_UP (R375). A write clearing a CNS_WAY_PWR bit powers the way up empty. -/
  | cnsWayUp (way : Fin 16)
  /-- WAY_DOWN_COMPLETE (R375). A way holds no dirty line, is invalidated and its power is gated. -/
  | wayDownComplete (way : Fin 16)
  /-- LOCK_LOAD_COMPLETE (R374). A lockable way finishes loading its range and is locked. -/
  | lockLoadComplete (i : Fin 4)
  /-- AGEING_TICK (R370). Every CNS_AGE.period_us the slices clear all referenced bits. -/
  | ageingTick
  /-- TRACKER_BREAK (R371). A sequential-store tracker unmatched for 1 µs resets its count. -/
  | trackerBreak (t : Fin 8)
  /-- CNS_SLICE_HASH_WRITE (R367). A write of a slice hash mask takes effect, or is discarded with an event if it breaks the rule. -/
  | cnsSliceHashWrite (k : Fin 5) (mask : BitVec 25)
  /-- CNS_HASH_LOCK (R380). A write of 1 to CNS_HASH_LOCK.lock locks every RWL field of the Conservatory. -/
  | cnsHashLock
  /-- CNS_PARITY_ERROR (R377). A data parity error refetches a clean line or rebuilds a dirty line from its source. -/
  | cnsParityError (line : Nat)
  /-- CNS_TAG_PARITY_ERROR (R378). A tag parity error rewrites the copy, or invalidates the line if both copies fail. -/
  | cnsTagParityError (line : Nat) (both : Bool)
  /-- KEY_DATA_WRITE (R390). A write to CPH_KEY_DATAi stores a key word, or is discarded with key_err while busy. -/
  | keyDataWrite (i : Fin 8) (word : Word)
  /-- KEY_SLOT_LOAD (R390). CPH_KEY_CTL.go with op load moves the key into the slot, zeroes the data registers and sets the check value. -/
  | keySlotLoad (slot : Fin 4096)
  /-- KEY_SLOT_ZEROISE (R390). CPH_KEY_CTL.go with op zeroise empties the slot. -/
  | keySlotZeroise (slot : Fin 4096)
  /-- KEY_SLOT_PARITY_ERROR (R390). A key slot parity error empties the slot for reload from its blob. -/
  | keySlotParityError (slot : Fin 4096)
  /-- CIPHER_QUEUE2_SUBMIT (R387). A write of CPH_Q2_TAIL submits Lodge cipher descriptors on queue 2. -/
  | cipherQueue2Submit (tail : BitVec 8)
  /-- CIPHER_REQUEST_DONE (R388). A cipher request ends and its completion with outcome is written. -/
  | cipherRequestDone (queue : Fin 3) (id : Nat) (poisoned : Bool)
  /-- DIGEST_START (R397). DGT_CTL.start begins a message, with HMAC inner pass or restored state as selected. -/
  | digestStart (user : Fin 3) (alg : BitVec 2) (hmac : Bool) (restore : Bool) (slot : BitVec 6)
  /-- DIGEST_DATA_WRITE (R397). A write of DGT_DATA adds a message word, or is discarded with overrun or denied. -/
  | digestDataWrite (user : Fin 3) (word : Word)
  /-- DIGEST_FINAL (R397). DGT_CTL.final pads and finishes the message and raises done. -/
  | digestFinal (user : Fin 3) (lastBytes : BitVec 2)
  /-- DIGEST_BLOCK_DONE (R397). The digest engine finishes compressing a block and clears busy. -/
  | digestBlockDone
  /-- DIGEST_CLAIM_REQUEST (R399). A DGT_CLAIM.req bit grants a free engine to the lowest user or leaves the request pending. -/
  | digestClaimRequest (req : BitVec 3)
  /-- DIGEST_RELEASE (R399). DGT_CLAIM.rel releases the engine, zeroes its state and grants the lowest pending user. -/
  | digestRelease (user : Fin 3)
  /-- DIGEST_WINDOW_IDLE_TIMEOUT (R399). A window owner idle for 100 ms loses the engine and its state. -/
  | digestWindowIdleTimeout
  /-- PKA_OPERATION_DONE (R400). A public-key operation ends and the next submitted one starts. -/
  | pkaOperationDone (selfCheckOk : Bool)
  /-- RNG_HEALTH_TRIP (R401). A noise source health test trips, restarting the source or halting the DRBG on a second trip. -/
  | rngHealthTrip (apt : Bool) (withinMinute : Bool)
  /-- DRBG_RESEED (R401). The DRBG reseeds after 65,536 requests or 1 s. -/
  | drbgReseed
  /-- SMBUS_ADDRESS_MATCH (R418). An SMBus address match wakes a Dormant head and stretches SCL until the path is live. -/
  | smbusAddressMatch
  /-- SMBUS_STRETCH_TIMEOUT (R418). At 20 ms of stretching the comparator releases SCL and NACKs the rest of the transaction. -/
  | smbusStretchTimeout
  /-- WAKE_N_LOW (R417). WAKE_N low sets wake source 1 and wakes the head if enabled. -/
  | wakeNLow (low : Bool)
  /-- GPIO_WAKE_EDGE (R417). A falling edge on a GPIO wake input sets wake source 4. -/
  | gpioWakeEdge (pin : Fin 16)
  /-- GH_TIMER_EXPIRY (R428). A Gatehouse timer expires, sets fired and may pulse a pin or fire wake source 3. -/
  | ghTimerExpiry (t : Fin 8)
  /-- TIMER_COMPARE_WRITE (R428). A write of GH_TMR_CMPn sets the interval and restarts the count. -/
  | timerCompareWrite (t : Fin 8) (ticks : Word)
  /-- GH_SLEEP_WATCH (R419). GH_SLEEP_CTL.go with target Watch runs the Gatehouse part of the sleep sequence. -/
  | ghSleepWatch
  /-- GH_SLEEP_DORMANT (R419). GH_SLEEP_CTL.go with target Dormant runs the Gatehouse part of the sleep sequence. -/
  | ghSleepDormant
  /-- IDLE_POLICY_TIMER (R430). Host traffic below idle_gbs for idle_min starts a sleep under policy. -/
  | idlePolicyTimer
  /-- DORMANT_AFTER_TIMER (R430). dormant_after_min in Watch moves the head on to Dormant. -/
  | dormantAfterTimer
  /-- AVS_CHANGE_START (R413). GH_AVS_CTL.go starts a voltage change on a rail under R413. -/
  | avsChangeStart (rail : BitVec 2) (mv : BitVec 12)
  /-- AVS_RESPONSE (R413). A regulator acknowledgement or status read reporting VDone advances the rail change. -/
  | avsResponse (bus : Fin 2) (good : Bool) (vdone : Bool) (ma : Nat)
  /-- AVS_STATUS_POLL (R413). Every 100 µs the Gatehouse polls the regulator status until VDone. -/
  | avsStatusPoll (bus : Fin 2)
  /-- AVS_ACK_TIMEOUT (R420). No regulator acknowledgement within 500 µs fails the change or wake attempt. -/
  | avsAckTimeout (bus : Fin 2)
  /-- AVS_VDONE_TIMEOUT (R420). No VDone within 5 ms fails the change or wake attempt. -/
  | avsVdoneTimeout (bus : Fin 2)
  /-- PLL_LOCK (R414). A PLL locks and the wake sequence advances. -/
  | pllLock (k : Fin 6)
  /-- PLL_LOCK_TIMEOUT (R420). A PLL not locked 200 µs after its rail and reference fails the wake attempt. -/
  | pllLockTimeout (k : Fin 6)
  /-- WAKE_RETRY_WAIT_END (R420). 10 ms after a failed wake attempt the next attempt starts, or FAULT_N falls after four. -/
  | wakeRetryWaitEnd
  /-- XTAL_FAIL (R415). No crystal edge for 1 ms switches the Gatehouse to the RC oscillator and sets xtal_fail. -/
  | xtalFail
  /-- XTAL_RESTORE (R415). The crystal returns and timekeeping runs from it again. -/
  | xtalRestore
  /-- OPERATING_TIME_TICK (R416). Each second of VDD_GH the operating time count advances. -/
  | operatingTimeTick
  /-- OPTIME_LOCK (R416). A write of GH_OPTIME_H.lock locks both operating time counts. -/
  | optimeLock
  /-- WATCHDOG_KICK (R424). A write of GH_WDOG_KICK restarts the watchdog. -/
  | watchdogKick
  /-- WATCHDOG_EXPIRY (R424). The watchdog expires, causing a warm reset and an event. -/
  | watchdogExpiry
  /-- WARM_RESET (R422). WARM_RST_N low resets all but the Gatehouse and DRAM controllers and restarts the head under R486. -/
  | warmReset
  /-- POWER_ON_RESET (R422). Release of PWRON_RST_N samples the straps, reads the board record and starts boot with everything reset. -/
  | powerOnReset (straps : BitVec 4) (board : RecordRead)
  /-- BOOT_COMPLETE (R402). The main body is loaded and checked and Lodge firmware takes requests, or the other slot is tried. -/
  | bootComplete (ok : Bool)
  /-- SLOT_CONFIRM (R402). Lodge firmware confirms its slot once paired whole or alone for 10 min and may raise the fuse count. -/
  | slotConfirm
  /-- TJ_SAMPLE (R470). Every 1 ms the die sensors are sampled and the thermal responses of R471 applied. -/
  | tjSample (readings : List Nat)
  /-- THERMAL_THROTTLE_STEP (R471). Every 100 ms at or above T_thr the allowance cap A falls by 40 GB/s. -/
  | thermalThrottleStep
  /-- TJ_COOL_TIMER (R471). Tj at or below 95 °C for 10 min lets a thermally fenced head rejoin. -/
  | tjCoolTimer
  /-- PATH_MONITOR_READ (R449). Every 10 minutes path monitor slack is read and rail voltages raised if needed. -/
  | pathMonitorRead (slack : List (Nat × Nat))
  /-- ERROR_SIGNAL (R436). A block signals an error, the Lodge records it, applies recovery and starts a self-test. -/
  | errorSignal (cls : Fin 5) (subsystem : Nat) (subject : Subject)
  /-- SELFTEST_VERDICT (R439). A self-test ends with a transient or lasting verdict and its action. -/
  | selftestVerdict (subject : Subject) (verdict : Verdict) (mismatches : Nat)
  /-- MON_CTL_ARM (R442). MON_CTL.arm clears a monitor's values and opens its window. -/
  | monCtlArm (u : Fin 32)
  /-- MON_CTL_STOP (R442). MON_CTL.stop ends a monitor's window and freezes its values. -/
  | monCtlStop (u : Fin 32)
  /-- MON_CTL_SNAP (R442). MON_CTL.snap refreshes a monitor's shadow values. -/
  | monCtlSnap (u : Fin 32)
  /-- MON_WINDOW_END (R442). A monitor's window_ms elapses and its values freeze. -/
  | monWindowEnd (u : Fin 32)
  /-- EVR_RD_DATA_READ (R447). A read of EVR_RD_DATA returns the ring word and advances the read offset by 4. -/
  | evrRdDataRead
  /-- EVR_SEQ_LOCK (R444). A write of EVR_CTL.lock locks EVR_NEXT_SEQ until power-on reset. -/
  | evrSeqLock
  /-- EVENT_LOG_APPEND (R446). Every 10 s or 32 KiB new records are appended to the home-shelf event log. -/
  | eventLogAppend
  /-- EVENT_SUMMARY_WRITE (R446). Every 4 h the event summary is written to alternate boot NOR devices. -/
  | eventSummaryWrite
  /-- FOOTBRIDGE_SEGMENT (R98). A Footbridge frame arrives, is checked, placed by offset in its message, and a port_seq gap draws a SNAK within 2 µs. -/
  | footbridgeSegment (port : Fin 4) (cls : Fin 2) (portSeq : Nat) (msgId : Nat) (type : Nat) (offset : Nat) (len : Nat) (total : Option Nat) (checkOk : Bool)
  /-- DECOMPRESSION_DONE (R196). A decompression job ends, its output is checked against the trailer, and the chunk goes on to delivery or to recovery from another source. -/
  | decompressionDone (asn : Nat) (chunk : Nat)
  /-- SHELF_HOLD_EXPIRY (R244). The hold_s of a SHELF_WAKE ends, the forced hold lapses and Parterre returns the shelf to policy. -/
  | shelfHoldExpiry (g : Fin 32)
  /-- PWRON_RST_N_FALL (R422). PWRON_RST_N falls or VDD_GH leaves its limit, clearing everything including the Gatehouse and setting every output high-impedance. -/
  | pwronRstNFall
  /-- HEAD_RESET_DELAY_END (R435). 10 ms after a HEAD_RESET response or job finish, the Lodge asserts the warm reset. -/
  | headResetDelayEnd
  /-- REPLICATION_LINK_REPLY (R330). The target's accept reply or reject arrives for a replication link that the source head opened, opening the link or leading to a reopen. -/
  | replicationLinkReply (relationship : Nat) (status : Status) (qpn : Fin 16384)
  /-- TIMER_PULSE_END (R427). 1 ms after a timer expiry, a GPIO in pulse-output function returns high. -/
  | timerPulseEnd (pin : Fin 16)
  deriving DecidableEq, Repr

end Sys2Proof
end

