-- ==== Sys2Proof/Config.lean ====
section
/-!
DEFINITION. Config.lean: what a device or an implementation fixes and the manual leaves open. Every constant here is
opaque: no proof can see its value, and a statement about it holds whatever it is.
-/
namespace Sys2Proof.Config

/-- A free value: byte or number i of draw k. The machine's counter of draws is State.draws (log entry 5). -/
opaque freeValue : Nat → Nat → Nat

/-- Byte i of the device serial (R45, R49); 16 bytes are used. -/
opaque serialByte : Nat → Byte

/-- The silicon revision of SYS_INFO byte 17 (R49). -/
opaque siliconRev : Byte

/-- The version of the Lodge firmware of a boot slot's image as shipped (R49). -/
opaque fwVersion : Nat

/-- The 32-bit job number given to the k-th job (R37). -/
opaque jobNumber : Nat → Nat

/-- The 32-bit handle given to the k-th expert session (R45). -/
opaque sessionHandle : Nat → Nat

/-- Byte i of the root key in the fuses (Table 14.1). -/
opaque rootKeyByte : Nat → Byte

/-- Modulus and private exponent of the identity key and of the transport key (Table 14.1). -/
opaque identityN : Nat
opaque identityD : Nat
opaque transportN : Nat
opaque transportD : Nat

/-- Byte i of the identity certificate and of the transport certificate, and their lengths (R405). -/
opaque identityCertByte : Nat → Byte
opaque identityCertLen : Nat
opaque transportCertByte : Nat → Byte
opaque transportCertLen : Nat

/-- Byte i of the fused SHA-512 of Dwezen's signing key k (R402), and whether that key is revoked. -/
opaque signHashByte : Nat → Nat → Byte
opaque signRevoked : Nat → Bool

/-- Byte i of the SHA-512 of the first stage (part 0) or main body (part 1) of slot k's image as shipped (R405). -/
opaque shippedDigestByte : Nat → Nat → Nat → Byte

/-- The Lodge function number that a digest user of a Lodge path claims the engine with (R52, R399). -/
opaque lodgeFunction : Nat → Nat

/-- The latency, in ns, of the n-th transaction that the monitors count: the model has no clock (R440, log entry 7). -/
opaque monLatency : Nat → Nat

/-- Where the Lodge places the own region, the mirror region and the Dovecote filter in the main window (R342, R354), and
the destination address of a Footbridge frame of a port (R95). -/
opaque ownBase : Nat
opaque mirrorBase : Nat
opaque filterBase : Nat
/-- Where the DRAM map cache holds a page (R258, R354). -/
opaque pageBase : Nat → Nat
/-- The type byte of a journal record of an ownership change, which Table 3.6 does not number (log entry 109). -/
opaque ownershipType : Nat
/-- The high mark of a role's serial counter, as a replacement head finds it in an array (R201, log entry 127). -/
opaque roleSerialHigh : Bytes → Nat
/-- The holds of the peer's recall table at a takeover: volume, snapshot, first block, blocks, shelves and expiry (R238, log
entry 134). -/
opaque peerHolds : Nat → List (Nat × Nat × Nat × Nat × List Nat × Nat)
/-- The preset that the receiver of a sled port asks of the far transmitter (R284, log entry 135). -/
opaque presetAsk : Nat → Nat
/-- What the scrambler of a sled port holds when a session begins, before its first SYNC (R287, log entry 146). -/
opaque scramblerStart : Nat → Nat
/-- Does the peer's last checkpoint list a block, by its key, as free and erased (Table 4.6 step 7, log entry 121)? -/
opaque peerBlockFree : Nat → Bool
/-- The destination address of a Footbridge frame (log entry 119). -/
opaque ftbDestByte : Nat → Nat → Byte

/-- The DIMMs fitted (R337 to R340): whether every module is accepted and the channels agree, ranks per channel, DIMMs
per channel, GiB per rank, the address bits, the fastest common rate, DIMMs in channels 0 to 3, and whether soft repair
is declared. -/
opaque dimmsAccepted : Bool
opaque dimmRanks : Nat
opaque dimmSlots : Nat
opaque dimmRankGib : Nat
opaque dimmColBits : Nat
opaque dimmRowBits : Nat
opaque dimmRankBits : Nat
opaque dimmCidBits : Nat
opaque dimmRate : Nat
opaque dimmTrfcNs : Nat
opaque dimmSoftRepair : Bool

end Sys2Proof.Config
end

