-- ==== Sys2Proof/Machine/State/Cns.lean ====
section
/-!
DEFINITION. Machine/State/Cns.lean: the Conservatory system cache (chapter 13).
Field comments: width | chapter file, rule or table | reset value (DC n: log entry n).
-/
namespace Sys2Proof.Machine

/-- A cached line: its line address (PA / 128), state bits and class; its data is DRAM's or rebuilt (R367, R369). -/
structure CLine where
  line : Nat
  dirty : Bool
  ref : Bool
  cls : Nat
  deriving DecidableEq, Repr

/-- CNS_CLASS[k] (Table 13.3). -/
structure CClass where
  mask : BitVec 16
  allocRd : Bool
  allocWr : Bool
  wb : Bool
  prefetch : BitVec 2
  stream : Bool
  deriving DecidableEq, Repr

/-- A lockable way (R374). -/
structure CLock where
  en : BitVec 3 := 0              -- 3, CNS_LOCK_CTL.en | 13 T13.3 | 0
  winner : Nat := 0               -- 2, CNS_LOCK_CTL.winner | 13 T13.3 | 0
  loaded : Bool := false          -- 1, CNS_LOCK_CTL.loaded | 13 T13.3 | 0
  loading : Bool := false         -- a lock load runs | 13 R374 | 0
  base : Nat := 0                 -- base line of the range | 13 R374 | DC 1
  len : Nat := 0                  -- lines of the range | 13 R374 | DC 1
  mailbox : Option Nat := none    -- the WAY_LOCK that waits for the load | 13 R382 | none
  deriving DecidableEq, Repr

/-- A sequential-store tracker (R371). -/
structure CTracker where
  next : Nat := 0
  count : Nat := 0
  used : Nat := 0
  deriving DecidableEq, Repr

/-- A maintenance operation (R376). -/
structure CMaint where
  inv : Bool
  byWay : Bool
  way : Nat
  base : Nat
  lines : Nat
  mailbox : Option Nat
  deriving DecidableEq, Repr

/-- The Conservatory. -/
structure Cns where
  sets : Tab (Tab CLine) := []    -- per slice x 4096 + set, the lines by way | 13 R367 | empty
  powered : BitVec 16 := 0xFFFF   -- 16, CNS_STAT.powered | 13 T13.3 | 0xFFFF
  off : BitVec 16 := 0            -- 16, CNS_WAY_PWR.off | 13 T13.3 | 0
  agePeriod : BitVec 16 := 1000   -- 16, CNS_AGE | 13 T13.3 | 1,000
  locks : Tab CLock := []         -- 4 lockable ways, an unlisted one at reset | 13 T13.3 | T13.3
  classes : List CClass :=        -- 8, CNS_CLASS | 13 T13.1 | Table 13.1
    [⟨0xFF00, true, true, false, 1, true⟩, ⟨0x00FF, false, true, false, 0, false⟩,
     ⟨0x0000, false, false, false, 0, false⟩, ⟨0xFF00, true, true, true, 2, true⟩,
     ⟨0xFF00, true, true, true, 0, true⟩, ⟨0xFF00, false, true, false, 0, true⟩,
     ⟨0xFF00, true, false, false, 2, true⟩, ⟨0x0000, false, false, false, 0, false⟩]
  hash : List (BitVec 25) := [0x108421, 0x210842, 0x421084, 0x842108, 0x1084210]
                                  -- 5 x 25, CNS_SLICE_HASH | 13 T13.3 note 1 | note 1
  hashLock : Bool := false        -- 1, CNS_HASH_LOCK | 13 T13.3 | 0
  maintAddr : Nat := 0            -- 44, CNS_MAINT_ADDR | 13 T13.3 | 0
  maintLen : Word := 1            -- 32, CNS_MAINT_LEN | 13 T13.3 | 1
  maintOp : Bool := false         -- 1, CNS_MAINT_CTL.op | 13 T13.3 | 0
  maintByWay : Bool := false      -- 1, CNS_MAINT_CTL.by_way | 13 T13.3 | 0
  maintWay : BitVec 4 := 0        -- 4, CNS_MAINT_CTL.way | 13 T13.3 | 0
  maint : Option CMaint := none   -- the operation while busy | 13 T13.3 | none (busy 0)
  skipped : Nat := 0              -- 20, CNS_MAINT_RESULT | 13 T13.3 | 0
  written : Nat := 0              -- 32, CNS_MAINT_WRITTEN | 13 T13.3 | 0
  parClean : Nat := 0             -- 16, CNS_PAR_CNT | 13 T13.3 | 0
  parDirty : Nat := 0             -- 16, CNS_PAR_CNT | 13 T13.3 | 0
  tagCopy : Nat := 0              -- 16, CNS_TAG_CNT | 13 T13.3 | 0
  tagBoth : Nat := 0              -- 16, CNS_TAG_CNT | 13 T13.3 | 0
  trackers : List CTracker := [{}, {}, {}, {}, {}, {}, {}, {}]  -- 8; CNS_STREAM shows those past 64 | 13 R371 | 0
  trackClock : Nat := 0           -- model: order of tracker use | 13 R371 | DC 1
  side : Tab (List Nat) := []     -- side buffers per slice, oldest line first, 64 lines each | 13 R372 | empty
  hits : Nat := 0                 -- 64, CNS_HIT_CNT shows 32 | 13 T13.3 | 0
  misses : Nat := 0               -- 64, CNS_MISS_CNT shows 32 | 13 T13.3 | 0
  wayReq : Option Nat := none     -- the WAY_POWER that waits for its changes | 13 R383 | none
  deriving DecidableEq, Repr

end Sys2Proof.Machine
end

