-- ==== Sys2Proof/Machine/State/Dram.lean ====
section
/-!
DEFINITION. Machine/State/Dram.lean: the 24 DRAM channels and the controller-wide registers (chapter 12).
Field comments: width | chapter file, rule or table | reset value (DC n: log entry n).
-/
namespace Sys2Proof.Machine

/-- One rank of a channel. -/
structure DRank where
  present : Bool := false         -- 1, DMC_STAT.present | 12 T12.8 | 0
  retired : Bool := false         -- 1, DMC_STAT.retired | 12 T12.8 | 0
  hot : Bool := false             -- 1, DMC_STAT.hot | 12 T12.8 | 0
  readFailed : Bool := false      -- 1, hot because a sensor reading failed | 12 T12.4 | 0
  maxPostpone : BitVec 3 := 0     -- 3, DMC_REFRESH_CTL.max_postpone | 12 T12.8 | 0
  owed : Nat := 0                 -- 4, DMC_REFRESH_CTL.owed_count | 12 T12.8 | 0
  trfc : BitVec 10 := 410         -- 10, DMC_REFRESH_CTL.trfc_ns | 12 T12.8 | 410
  withdrawn : Bool := false       -- its addresses are no longer used | 12 R360 | 0
  deriving DecidableEq, Repr

/-- One DRAM channel (Table 12.8). -/
structure Dmc where
  state : Nat := 0                -- 3, DMC_STAT.state | 12 T12.8 | 0 (dark)
  ranks : Tab DRank := []         -- 4 ranks, an unlisted one at reset | 12 T12.8 | T12.8
  spare : Nat := 0                -- 2, DMC_STAT.spare | 12 T12.8 | 0
  spareValid : Bool := false      -- 1, DMC_STAT.spare_valid | 12 T12.8 | 0
  migrating : Bool := false       -- 1, DMC_STAT.migrating | 12 T12.8 | 0
  ptr : Nat := 0                  -- 24, DMC_MIGRATE.ptr_mib | 12 T12.8 | 0
  fromRank : Nat := 0             -- 2, DMC_MIGRATE.from | 12 T12.8 | 0
  toRank : Nat := 0               -- 2, DMC_MIGRATE.to | 12 T12.8 | 0
  waitOut : List Nat := []        -- ranks that wait for the migration to end | 12 T12.7 | empty
  colBits : BitVec 3 := 7         -- 3, DMC_GEOM.col_bits | 12 T12.8 | 7
  rowBits : BitVec 5 := 17        -- 5, DMC_GEOM.row_bits | 12 T12.8 | 17
  rankBits : BitVec 2 := 0        -- 2, DMC_GEOM.rank_bits | 12 T12.8 | 0
  cidBits : BitVec 2 := 0         -- 2, DMC_GEOM.cid_bits | 12 T12.8 | 0
  lock : Bool := false            -- 1, DMC_GEOM.lock | 12 T12.8 | 0
  therm : List (BitVec 8) := [0, 0, 0, 0]  -- 4 x 8, DMC_THERM slot 0 ts0 ts1, slot 1 ts0 ts1 | 12 T12.8 | 0
  corrected : Nat := 0            -- 16, DMC_ECC_CNT | 12 T12.8 | 0
  uncorrectable : Nat := 0        -- 16, DMC_ECC_CNT | 12 T12.8 | 0
  parity : Nat := 0               -- 16, DMC_PAR_CNT | 12 T12.8 | 0
  retries : Nat := 0              -- 16, DMC_PAR_CNT | 12 T12.8 | 0
  errCa : Nat := 0                -- 40, DMC_ERR_ADDR.ca | 12 T12.8 | 0
  errUe : Bool := false           -- 1, DMC_ERR_ADDR.ue | 12 T12.8 | 0
  bankHash : List (BitVec 34) := [0x000802100, 0x001004200, 0x002008400, 0x004010800, 0x008021000]
                                  -- 5 x 34, DMC_BANK_HASH | 12 T12.8 note 1 | note 1
  trnBusy : Bool := false         -- 1, DMC_TRN_CTL.busy | 12 T12.8 | 0
  trnOp : BitVec 2 := 0           -- 2, DMC_TRN_CTL.op | 12 T12.8 | 0
  trnRank : BitVec 2 := 0         -- 2, DMC_TRN_CTL.rank | 12 T12.8 | 0
  trnSub : Bool := false          -- 1, DMC_TRN_CTL.subch | 12 T12.8 | 0
  trnBoth : Bool := false         -- 1, DMC_TRN_CTL.both | 12 T12.8 | 0
  trnBursts : BitVec 8 := 16      -- 8, DMC_TRN_CTL.bursts | 12 T12.8 | 16
  trnPat : Word := 0              -- 32, DMC_TRN_PAT | 12 T12.8 | 0
  failDq : Word := 0              -- 32, DMC_TRN_FAIL | 12 T12.8 | 0
  failCb : BitVec 8 := 0          -- 8, DMC_TRN_FAIL_CB | 12 T12.8 | 0
  dlyKnob : BitVec 4 := 0         -- 4, DMC_DLY_SEL.knob | 12 T12.8 | 0
  dlyRank : BitVec 2 := 0         -- 2, DMC_DLY_SEL.rank | 12 T12.8 | 0
  dlySub : Bool := false          -- 1, DMC_DLY_SEL.subch | 12 T12.8 | 0
  dlyLane : BitVec 6 := 63        -- 6, DMC_DLY_SEL.lane | 12 T12.8 | 63
  delays : Tab (BitVec 10) := []  -- knob settings by knob x 2^9 + rank x 2^7 + subch x 2^6 + lane | 12 T12.8 | 0
  poisoned : List Nat := []       -- channel addresses of poisoned lines | 12 R358 | empty
  patrols : Nat := 0              -- patrol scrubs done | 12 R356 | DC 1
  deriving DecidableEq, Repr

/-- A DRAM request (R351, R352): its requester port and that port's target, its arrival and the
monitors' stamp then, and where it falls. -/
structure DReq where
  port : Nat
  target : Nat
  t0 : Nat
  stamp : Nat
  ch : Nat
  bank : Nat
  row : Nat
  deriving DecidableEq, Repr

/-- The DRAM controller. -/
structure Dram where
  ch : Tab Dmc := []              -- 24 channels, an unlisted one at reset | 12 T12.8 | T12.8
  chanHash : List (BitVec 34) := [0x001010101, 0x002020202, 0x004040404]
                                  -- 3 x 34, DMC_CHAN_HASH | 12 T12.9 note 2 | note 2
  mainGib : Nat := 0              -- 16, DMC_WIN.main_gib | 12 T12.9 | 0
  keepGib : Nat := 0              -- 16, DMC_WIN.keep_gib | 12 T12.9 | 0
  use : Nat := 0                  -- 10, DMC_USE.use | 12 T12.9 | 0
  throttle : Bool := false        -- 1, DMC_USE.throttle | 12 T12.9 | 0
  rate : Nat := 2                 -- 2, DMC_RATE.rate | 12 T12.9 | 2
  qos : List Nat := [20, 10, 40, 40, 20, 20, 10, 20, 40, 80, 40, 80, 160, 80, 160, 640]
                                  -- 16 x 14, DMC_QOS_TARGET in 100 ns | 12 T12.5 | Table 12.5
  qosSet : List Nat := []         -- ports whose target a session set | 12 R366 | empty
  outOfService : Bool := false    -- R338: DRAM not put into service | 12 R338 | 0
  useHigh : Nat := 0              -- highest use of the present second | 12 R363 | DC 1
  usePrev : Nat := 0              -- highest use of the second before | 12 R363 | DC 1
  flashConf : Bool := false       -- R360: a rank of channels 0-3 is lost | 12 R360 | 0
  clock : Nat := 0                -- model: ticks of 100 ns since reset | 12 R352 | DC 1
  reqs : List DReq := []          -- requests that wait, oldest first | 12 R352 | empty
  rows : Tab Nat := []            -- the row last served, by channel x 32 + bank | 12 R352 | none
  deriving DecidableEq, Repr

end Sys2Proof.Machine
end

