-- ==== Sys2Proof/Machine/State/Evt.lean ====
section
/-!
DEFINITION. Machine/State/Evt.lean: the event recorder, the self-tests and the latency monitors (chapter 16).
Each field's comment gives its width, the chapter file with its rule or table, and its reset value
(DC n: the spec gives none, the model's choice of log entry n).
-/
namespace Sys2Proof.Machine

/-- An event record (Table 16.7) at its place in a storage area; typ 0 is a filler (R443). -/
structure EvRec where
  off : Nat
  len : Nat
  cls : Nat
  typ : Nat
  seq : Nat
  hours : Nat
  seconds : Nat
  cycle : Nat
  repeats : Nat
  lastSeen : Nat
  subject : Subject
  detail : Bytes
  deriving DecidableEq, Repr

/-- One copy of the event summary on a boot NOR device (R446). -/
structure EvSummary where
  generation : Nat
  hours : Nat
  seconds : Nat
  cycle : Nat
  newest : Nat
  counts : List Nat
  recs : List EvRec
  deriving DecidableEq, Repr

/-- A running or waiting self-test (R438, R456): its subject, the record it answers, whether it had to wait for a place. -/
structure SelfTest where
  subject : Subject
  errSeq : Option Nat
  waited : Bool := false
  deriving DecidableEq, Repr

/-- The values of a monitor unit (R441); bucket b is listed when it is not 0. -/
structure MonVals where
  count : Nat := 0
  sum : Nat := 0
  min : Nat := 0xFFFFFFFF
  max : Nat := 0
  overCnt : Nat := 0
  elapsed : Nat := 0
  buckets : Tab Nat := []
  deriving DecidableEq, Repr

/-- A latency monitor unit (Table 16.6): its registers, its running values and the shadow its registers show. -/
structure Mon where
  en : BitVec 3 := 0              -- 3 | 16 T16.6 | 0
  winner : Nat := 0               -- 2 | 16 T16.6 | 0
  running : Bool := false         -- 1 | 16 T16.6 | 0
  scale : BitVec 4 := 0           -- 4 | 16 T16.6 | 0
  probe : BitVec 6 := 0           -- 6 | 16 T16.6 | 0
  filter : Word := 0xFFFFFFFF     -- 32 | 16 T16.6 | 0xFFFF_FFFF
  windowMs : Word := 0            -- 32 | 16 T16.6 | 0
  armStamp : Nat := 0             -- model | 16 R440 | DC 1
  live : MonVals := {}            -- values | 16 R441 | T16.6 reset values
  shadow : MonVals := {}          -- registers MON_COUNT..MON_BUCKET | 16 T16.6 | 0, MON_MIN 0xFFFF_FFFF
  deriving DecidableEq, Repr

/-- The event recorder and what firmware keeps beside it. -/
structure Evt where
  ring : Mem := []                -- 64 KiB | 16 R446 | cleared (0)
  recs : List EvRec := []         -- records in the ring, oldest first | 16 R446 | empty
  place : Nat := 0                -- 16, current ring place | 16 R446 | 0
  headSeq : Word := 0             -- 32, EVR_HEAD_SEQ | 16 T16.9 | 0
  headOff : BitVec 16 := 0        -- 16, EVR_HEAD_OFF | 16 T16.9 | 0
  tailSeq : Word := 0             -- 32, EVR_TAIL_SEQ | 16 T16.9 | 0
  tailOff : BitVec 16 := 0        -- 16, EVR_TAIL_OFF | 16 T16.9 | 0
  mergeCnt : Word := 0            -- 32, EVR_MERGE_CNT | 16 T16.9 | 0
  lost : Nat := 0                 -- 32, EVR_LOST (saturates) | 16 T16.9 | 0
  persistSeq : Word := 0          -- 32, EVR_PERSIST_SEQ | 16 T16.9 | 0
  nextSeq : Word := 0             -- 32, EVR_NEXT_SEQ | 16 T16.9 | 0
  lock : Bool := false            -- 1, EVR_CTL.lock | 16 T16.9 | 0
  rdOff : BitVec 16 := 0          -- 16, EVR_RD_OFF | 16 T16.9 | 0
  counts : List Nat := [0, 0, 0, 0, 0]  -- 5 x 32, records per class since power-on | 16 R451 | 0 (since power-on)
  unrestored : List (Subject × Nat) := []  -- subjects not yet restored, with class | 16 R451 | empty
  sinceAppend : Nat := 0          -- bytes added since the last log append | 16 R446 | DC 1
  lostReported : Nat := 0         -- EVR_LOST already named by a records-lost record | 16 R446 | DC 1
  newestAppended : Option (Nat × Nat) := none  -- seq and repeat of the newest record appended | 16 R446 | none
  log : List EvRec := []          -- 64 MiB on the home shelves, oldest first | 16 R446 | DC 1 (empty)
  logPlace : Nat := 0             -- 26, current log place | 16 R446 | DC 1
  sum0 : Option EvSummary := none -- 1 MiB at 0x0010_0000 of boot NOR device 0 | 16 R446 | DC 1 (none)
  sum1 : Option EvSummary := none -- the same of boot NOR device 1 | 16 R446 | DC 1 (none)
  sumBase : List Nat := [0, 0, 0, 0, 0]  -- counts in the summary header as last written | 16 R453 | DC 1 (0)
  sumSince : List Nat := [0, 0, 0, 0, 0] -- records per class since that write | 16 R453 | DC 1 (0)
  running : List SelfTest := []   -- self-tests running, at most 64 | 16 R438 | empty
  waiting : List SelfTest := []   -- self-tests waiting for a place | 16 R438 | empty
  tests : Nat := 0                -- 32, self-tests run since power-on | 16 R451 | 0 (since power-on)
  transient : Nat := 0            -- 16, transient verdicts | 16 R451 | 0
  lasting : Nat := 0              -- 16, lasting verdicts | 16 R451 | 0
  coresRetired : List (Nat × Nat) := []  -- engine cores retired (engine, core) | 16 T16.3 | empty
  rowsSpared : Nat := 0           -- 16, SRAM and DRAM rows spared or repaired | 16 R451 | 0
  sramSpares : Tab Nat := []      -- spare rows used, per block x 65536 + macro, of 4 | 16 T16.3 | DC 1 (0)
  unitsRetired : List Subject := []  -- SRAM units retired | 16 T16.3 | empty
  dramRowsStopped : List Subject := []  -- DRAM rows whose addresses are unused | 16 T16.3 | empty
  engineLost : Bool := false      -- 1, SYS_HEALTH flag 0 | 16 R451 | 0
  ageingOut : Bool := false       -- 1, SYS_HEALTH flag 2 | 16 R450 | 0
  ageingWarn : Bool := false      -- 1, SYS_HEALTH flag 3 | 16 R451 | 0
  deriving DecidableEq, Repr

/-- The latency monitors. -/
structure Mons where
  units : Tab Mon := []           -- 32 units, an unlisted one at its reset values | 16 T16.6 | T16.6
  starts : Tab Nat := []          -- transactions under way of the probes watched: the stamp of their start | 16 R440 | empty
  seen : Nat := 0                 -- model: counts the transactions counted, for their free latencies | 16 R440 | DC 1
  stamp : Nat := 0                -- model: counts arms, so that a transaction knows what it started after | 16 R440 | DC 1
  deriving DecidableEq, Repr

end Sys2Proof.Machine
end

