-- ==== Sys2Proof/Machine/State/Gh.lean ====
section
/-!
DEFINITION. Machine/State/Gh.lean: the Gatehouse: power state, sequences, AVSBus, wake, resets, operating time, timers,
GPIO, pins, the head-board record and the thermal books (chapters 15, 17, 18).
Field comments: width | chapter file, rule or table | reset value (DC n: log entry n).
-/
namespace Sys2Proof.Machine

/-- The values of GH_STATE.state (Table 15.11). -/
inductive PwrState where
  | serve | watch | dormant | icehouse | entering | waking
  deriving DecidableEq, Repr

/-- The number of a power state. -/
def PwrState.code : PwrState → Nat
  | .serve => 0 | .watch => 1 | .dormant => 2 | .icehouse => 3 | .entering => 4 | .waking => 5

/-- Why a rail change runs (R413): a write of GH_AVS_CTL, an AVS_SET request, a wake, a sleep, or firmware's own
adjustment. -/
inductive AvsFor where
  | ctl
  | set (mailbox : Nat) (previous : Nat)
  | wake
  | sleep
  | firmware
  deriving DecidableEq, Repr

/-- A rail change in progress on a bus: final target, the step now written, and whether its write is acknowledged. -/
structure AvsOp where
  rail : Nat
  target : Nat
  step : Nat
  acked : Bool
  why : AvsFor
  failing : Bool := false
  deriving DecidableEq, Repr

/-- The stage of a wake or power-up (Tables 15.3, 15.4, 17.12; R420). -/
inductive WakeStage where
  | rails | pll0 | rail1 | plls | boot | retryWait
  deriving DecidableEq, Repr

/-- The transition in progress (R407). -/
inductive Trans where
  | none
  /-- To Watch or Dormant (Table 15.2, R411): the target, the step reached, the job that asked. -/
  | sleep (target : Nat) (step : Nat) (job : Option Nat)
  /-- A wake: from Watch or not, its stage, and the failed attempts so far. -/
  | wake (fromWatch : Bool) (stage : WakeStage) (fails : Nat)
  deriving DecidableEq, Repr

/-- The boot under way and what it leads to: a restart after a warm reset (R486), the first boot after a power-on reset, a
return from Dormant, or a restart from the keep area (Table 3.10). -/
inductive BootFor where
  | none | warm | powerOn | dormant | icehouse
  deriving DecidableEq, Repr

/-- A Gatehouse timer (Table 15.11). -/
structure GTimer where
  en : BitVec 3 := 0              -- 3 | 15 T15.11 | 0
  winner : Nat := 0               -- 2 | 15 T15.11 | 0
  periodic : Bool := false        -- 1 | 15 T15.11 | 0
  wake : Bool := false            -- 1 | 15 T15.11 | 0
  fired : Bool := false           -- 1 | 15 T15.11 | 0
  prescale : Bool := false        -- 1 | 15 T15.11 | 0
  cmp : Word := 0                 -- 32 | 15 T15.11 | 0
  counting : Bool := false        -- the count runs | 15 R428 | DC 1
  deriving DecidableEq, Repr

/-- A GPIO pin (Table 15.11). -/
structure Gpio where
  func : BitVec 3 := 0            -- 3 | 15 T15.11 | 0
  en : BitVec 3 := 0              -- 3 | 15 T15.11 | 0
  winner : Nat := 0               -- 2 | 15 T15.11 | 0
  out : Bool := false             -- 1 | 15 T15.11 | 0
  input : Bool := false           -- 1, pin level | 15 T15.11 | DC 4 (low)
  pulseLow : Bool := false        -- the pulse output is low | 15 R427 | DC 1
  deriving DecidableEq, Repr

/-- The figures of an accepted head-board record (Table 18.1). -/
structure Board where
  serial : Bytes
  holdUpMj : Nat
  keepMw : Nat
  tjLimit : Nat
  ddrMax : Nat
  dimmSlots : Nat
  ftbWired : BitVec 4
  hostSets : BitVec 8
  shelves : BitVec 32
  gpioUse : Bytes
  deriving DecidableEq, Repr

/-- This head's power policy (R430). -/
structure PwrPolicy where
  target : Nat := 0               -- 8 | 15 R430 | 0
  idleMin : Nat := 60             -- 16 | 15 R430 | 60
  idleGbs : Nat := 1              -- 16 | 15 R430 | 1
  dormantAfterMin : Nat := 240    -- 16 | 15 R430 | 240
  wakeEveryH : Nat := 0           -- 16 | 15 R430 | 0
  wakeEn : Nat := 7               -- 8 | 15 R430 | 0x07
  deriving DecidableEq, Repr

/-- The Gatehouse. -/
structure Gh where
  state : PwrState := .serve      -- 3, GH_STATE.state | 15 T15.11 | 0 (Serve)
  target : Nat := 0               -- 2, GH_STATE.target | 15 T15.11 | 0
  keepFell : Bool := false        -- 1, GH_STATE.keep_fell | 15 T15.11 | 0
  xtalFail : Bool := false        -- 1, GH_STATE.xtal_fail | 15 T15.11 | 0
  failedAttempts : Nat := 0       -- 4, GH_STATE.failed_attempts | 15 T15.11 | 0
  faultLow : Bool := false        -- 1, FAULT_N is low; GH_STATE.fault | 15 T15.11 | 0
  rstPwron : Bool := true         -- 1, GH_RST_CAUSE.pwron | 15 T15.11 | 1
  rstWarm : Bool := false         -- 1, GH_RST_CAUSE.warm_pin | 15 T15.11 | 0
  rstHead : Bool := false         -- 1, GH_RST_CAUSE.head_reset | 15 T15.11 | 0
  rstWdog : Bool := false         -- 1, GH_RST_CAUSE.watchdog | 15 T15.11 | 0
  rstStrap : Bool := false        -- 1, GH_RST_CAUSE.strap_hold | 15 T15.11 | 0
  seconds : Nat := 0              -- 12, GH_OPTIME_S | 15 T15.11 | 0
  hours : Nat := 0                -- 24, GH_OPTIME_H | 15 T15.11 | 0
  optLock : Bool := false         -- 1, GH_OPTIME_H.lock | 15 T15.11 | 0
  pwrCycle : Nat := 0             -- 24, GH_PWR_CYCLE | 15 R416 | 0 at manufacture
  wakeEn : BitVec 5 := 3          -- 5, GH_WAKE_EN | 15 T15.11 | 0x03
  fired : BitVec 5 := 0           -- 5, GH_WAKE_STAT.fired | 15 T15.11 | 0
  firedTmr : BitVec 8 := 0        -- 8, GH_WAKE_STAT.timer | 15 T15.11 | 0
  slpTarget : BitVec 2 := 0       -- 2, GH_SLEEP_CTL.target | 15 T15.11 | 0
  slpResult : Nat := 0            -- 2, GH_SLEEP_CTL.result | 15 T15.11 | 0
  wdogMs : BitVec 16 := 2000      -- 16, GH_WDOG.timeout_ms | 15 T15.11 | 2,000
  wdogEn : Bool := false          -- 1, GH_WDOG.en | 15 T15.11 | 0
  wdogKicks : Nat := 0            -- model: kicks since the count last restarted by anything else | 15 R424 | DC 1
  epochMs : BitVec 16 := 1000     -- 16, GH_EPOCH.ms | 15 T15.11 | 1,000
  epochEn : Bool := false         -- 1, GH_EPOCH.en | 15 T15.11 | 0
  avsRail : BitVec 2 := 0         -- 2, GH_AVS_CTL.rail | 15 T15.11 | 0
  avsMv : BitVec 12 := 0          -- 12, GH_AVS_CTL.mv | 15 T15.11 | 0
  avsFail : Nat := 0              -- 2, GH_AVS_CTL.fail | 15 T15.11 | 0
  mv : List Nat := [0, 0, 0]      -- 3 x 12, GH_AVS_MV.mv | 15 T15.11 | 0
  ma : List Nat := [0, 0, 0]      -- 3 x 16, GH_AVS_MV.ma | 15 T15.11 | 0
  deriving DecidableEq, Repr

/-- The rest of the Gatehouse: sequences, buses, pins, timers and firmware's power books. -/
structure Ghx where
  trans : Trans := .none          -- transition in progress | 15 R407 | none
  boot : BootFor := .none         -- boot that runs or is due at the next wake | 14 R402, 03 R486 | none
  avs0 : List AvsOp := []         -- AVS0: the change outstanding, then those waiting | 15 R413 | empty
  avs1 : List AvsOp := []         -- AVS1 likewise | 15 R413 | empty
  svc : List Nat := [750, 750, 780]  -- 3 x 12, service voltages firmware keeps | 17 T17.4 | start voltages
  pllLocked : BitVec 6 := 0       -- 6, PLLs locked | 15 R414 | DC 1
  xtalIgnored : Bool := true      -- 1, the 1 s after PWRON_RST_N without the crystal check | 17 R469 | 1
  smbStretch : Bool := false      -- 1, SMB_SCL held low | 15 R418 | DC 1
  smbNack : Bool := false         -- 1, the rest of the transaction is NACKed | 15 R418 | DC 1
  pwrFail : Bool := true          -- 1, PWR_FAIL_N low; GH_PIN_STAT | 15 T15.10 | undriven level (low)
  holdOk : Bool := false          -- 1, HOLD_OK; GH_PIN_STAT | 15 T15.10 | undriven level (low)
  keepOk : Bool := false          -- 1, KEEP_OK; GH_PIN_STAT | 15 T15.10 | undriven level (low)
  wakeN : Bool := false           -- 1, WAKE_N low; GH_PIN_STAT | 15 T15.10 | undriven level (high)
  fenceIn : Bool := false         -- 1, FENCE_IN_N low; GH_PIN_STAT | 15 T15.10 | undriven level (high)
  peerHb : Bool := false          -- 1, PEER_HB_IN edge within 50 ms; GH_PIN_STAT | 15 T15.10 | undriven (silent)
  hbSeen : Bool := false          -- 1, an edge seen since the state was entered | 15 T15.6 | DC 1
  fenceOut : Bool := false        -- 1, PEER_FENCE_N driven low | 15 R422 | DC 1 (released)
  hbOut : Bool := false           -- 1, PEER_HB_OUT level | 15 R415 | low
  kicks : Nat := 0                -- edges of PEER_HB_OUT that the last FTB_HB_KICK still permits | 04 R103 | DC 1
  timers : Tab GTimer := []       -- 8 timers, an unlisted one at reset | 15 T15.11 | T15.11
  gpios : Tab Gpio := []          -- 16 pins, an unlisted one at reset | 15 T15.11 | T15.11
  strap : BitVec 4 := 0           -- 4, STRAP sampled | 17 R462 | DC 1
  board : Option Board := none    -- the accepted head-board record | 18 R476 | none
  boardRefused : Bool := false    -- 1, the record was read and refused | 18 R477 | 0
  keepUnfit : Bool := false       -- 1, the keep supply is unfit | 18 R477 | 0
  poweredUp : Bool := false       -- 1, a release of PWRON_RST_N has happened | 17 T17.12 | 0
  hiZ : Bool := true              -- 1, every output high-impedance | 15 R425 | 1
  policy : PwrPolicy := {}        -- power policy | 15 R430 | defaults
  lastWake : Nat := 0             -- 16, GH_WAKE_STAT at the last wake | 15 R431 | DC 1
  failedWakes : Nat := 0          -- 8, wakes that ended in FAULT_N | 15 R431 | 0 (since power-on)
  pendingReset : Bool := false    -- HEAD_RESET's 10 ms runs | 15 R435 | 0
  tj : Nat := 0                   -- Tj, highest of the last readings, in C | 17 R470 | DC 1
  tjComp : Nat := 0               -- compute-die reading, in C | 16 R450 | DC 1
  throttled : Bool := false       -- 1, Tj reached T_thr | 17 R471 | 0
  thermalCap : Nat := 400         -- what R471 has lowered the cap of A to | 17 R471 | 400
  hot105 : Bool := false          -- 1, Tj is above 105 C | 17 R471 | 0
  thermalFence : Bool := false    -- 1, fenced for temperature | 17 R471 | 0
  tjMax : Nat := 0                -- 16, highest Tj | 16 R451 | DC 1
  tjSum : Nat := 0                -- model: sum of the Tj read each second | 16 R451 | DC 1
  tjSecs : Nat := 0               -- model: seconds counted in it | 16 R451 | DC 1
  tjBands : Tab Nat := []         -- seconds of operation per Tj in C | 16 R450 | empty
  over105 : Nat := 0              -- 32, times above 105 C | 16 R451 | DC 1
  dailyMargins : List (Nat × Nat × Nat × Nat) := []  -- (day, margins of rails 0-2), newest first, 90 days | 16 R449 | empty
  deriving DecidableEq, Repr

end Sys2Proof.Machine
end

