-- ==== Sys2Proof/Machine/State/Map.lean ====
section
/-!
DEFINITION. Machine/State/Map.lean: the map, the chunk table, the checkpoint and the translation books (chapter 09).
Field comments: width | chapter file, rule or table | reset value (DC n: log entry n).
-/
namespace Sys2Proof.Machine

/-- A map entry (Table 9.4); kind none is unmapped. -/
structure MapEnt where
  loc : Loc
  serial : Nat
  deriving DecidableEq, Repr

/-- A chunk record (Table 9.5). The counts stand whole; ext is the extended flag (R253). base is the base serial of an
overlay (R181). -/
structure ChunkRec where
  loc : Loc
  refs : Nat := 0
  peerRefs : Nat := 0
  domain : Nat := 0
  grains : Nat := 0
  direct : Bool := false
  overlay : Bool := false
  isBase : Bool := false
  ext : Bool := false
  backVol : Nat := 0
  backChunk : Nat := 0
  base : Nat := 0
  mask : Nat := 255
  pins : Nat := 0
  /-- The key version its region is encrypted under. -/
  version : Nat := 0
  deriving DecidableEq, Repr

/-- A Dovecote index entry (Table 7.2); pga none while the chunk is in the journal. -/
structure IdxEnt where
  fp : Bytes
  serial : Nat
  pga : Option Loc
  deriving DecidableEq, Repr

/-- A leaf map page (R257, R319): its holder count and its mapped entries by logical chunk. -/
structure Leaf where
  holders : Nat := 1
  ents : Tab MapEnt := []
  deriving DecidableEq, Repr

/-- What a complete checkpoint holds on the home shelves (R260). -/
structure Ckpt where
  number : Nat := 0
  maps : Tab (Tab Nat) := []
  leaves : Tab Leaf := []
  chunks : Tab ChunkRec := []
  serialHigh : Nat := 0
  index : Tab (Tab IdxEnt) := []
  /-- The lowest epoch with a change that the checkpoint does not hold (R90, log entry 30). -/
  missFrom : Nat := 0
  deriving DecidableEq, Repr

/-- The map and its caches. -/
structure MapSt where
  maps : Tab (Tab Nat) := []      -- leaf pages by map (volume + 65,536 x snapshot), then chunk / 1,024 | 11 R319 | empty (all unmapped)
  leaves : Tab Leaf := []         -- leaf map pages | 09 R257, 11 R319 | empty
  leafCount : Nat := 0            -- model: leaf pages made so far | 11 R321 | DC 1
  chunks : Tab ChunkRec := []     -- the chunk table by content serial | 09 R252 | empty
  serial : Nat := 0               -- 63, content serials assigned by this head | 07 R201 | DC 1
  ckpt : Ckpt := {}               -- the last complete checkpoint | 09 R260 | DC 1 (empty)
  ckptPrev : Ckpt := {}           -- the one before | 09 R277 | DC 1 (empty)
  ckptRun : Option Ckpt := none   -- the checkpoint that runs; PRT_XLT_STAT.checkpoint | 09 T9.11 | none
  ckptOff : List Nat := []        -- own-region offsets that the running checkpoint covers | 09 R260 | empty
  ckptUnits : List (Nat × Nat) := []  -- units whose changes it covers | 09 R260 | empty
  ckptSets : List Nat := []       -- released secondary block sets it covers | 08 R233 | empty
  ckptMade : Nat := 0             -- checkpoints begun | 09 R260 | DC 1
  xlt : List Nat := []            -- translation cache: keys present, at most 1 Mi | 09 R256 | empty
  hits : Nat := 0                 -- 32, PRT_XLT_HIT | 09 T9.11 | 0
  misses : Nat := 0               -- 32, PRT_XLT_MISS | 09 T9.11 | 0
  mapcMiss : Nat := 0             -- 32, PRT_MAPC_MISS | 09 T9.11 | 0
  pages : List Nat := []          -- map and chunk-table pages in the DRAM map cache | 09 R256 | empty
  dirty : List Nat := []          -- dirty ones among them | 09 R258 | empty
  voidMoves : Nat := 0            -- 16, PRT_GC_CNT.void_moves | 09 T9.11 | 0
  failed : List (Nat × Nat) := [] -- failed sources by serial (R277); 255: no source (R318) | 09 R277 | empty
  deriving DecidableEq, Repr

end Sys2Proof.Machine
end

