-- ==== Sys2Proof/Machine/State/Jrn.lean ====
section
/-!
DEFINITION. Machine/State/Jrn.lean: the journal regions, the commands in progress, epochs, compaction and restart
(chapter 03), and the ingest pipeline's work on them (chapter 07).
Field comments: width | chapter file, rule or table | reset value (DC n: log entry n).
-/
namespace Sys2Proof.Machine

/-- A record of the own region: written, acknowledged by DRAM, mirrored and receipted (R56). -/
structure OwnRec where
  r : JRec
  acked : Bool := false
  receipted : Bool := false
  /-- The drained record that names it has been written. -/
  drained : Bool := false
  /-- The unit was committed in flash-confirmed mode (R85), or the record waits to be checkpointed. -/
  checkpointed : Bool := false
  /-- A map record whose moves have been applied. -/
  applied : Bool := false
  /-- A DRAM line of it is lost and could not be restored (R94). -/
  lost : Bool := false
  deriving DecidableEq, Repr

/-- A committed unit that is not yet released (R82): what it changed, the chunks it wrote, and whether its map changes
are applied and checkpointed. -/
structure UnitBook where
  asn : Nat
  unit : Nat
  volume : Nat
  first : Nat
  blocks : Nat
  epoch : Nat
  serials : List Nat := []
  recs : List Nat := []
  mirror : Bool := false
  applied : Bool := false
  checkpointed : Bool := false
  flashMode : Bool := false
  /-- Chunks that the unit refers to and keeps pinned until its map changes are applied (R68, R188). -/
  pins : List Nat := []
  deriving DecidableEq, Repr

/-- Where a chunk of a WRITE stands in the ingest pipeline (Table 3.1 steps 3 to 6). -/
inductive ChunkStage where
  /-- It waits for an earlier overlapping writer before its merge (R69). -/
  | turn
  | merge
  | fingerprint
  | index
  | verify
  | compress
  | encrypt
  | written
  deriving DecidableEq, Repr

/-- How a chunk is classified (step 4). -/
inductive ChunkCls where
  | unknown
  | zero
  | new
  | overlay
  | reference (serial : Nat) (loc : Loc)
  /-- A reference to a chunk of the same unit (R184). -/
  | sameUnit (chunk : Nat)
  deriving DecidableEq, Repr

/-- One chunk of a WRITE in ingest. -/
structure ChunkWork where
  chunk : Nat
  unit : Nat
  mask : Nat
  data : Bytes
  stage : ChunkStage := .fingerprint
  cls : ChunkCls := .unknown
  fp : Bytes := []
  domain : Nat := 0
  /-- The chunk's content serial, or that of the entry under verification. -/
  serial : Nat := 0
  payload : Bytes := []
  raw : Bool := false
  base : Nat := 0
  envelope : Bytes := []
  region : Bytes := []
  pinned : Option Nat := none
  /-- A payload received by a replication target, with its raw flag, and the migrated flag it takes (R327). -/
  received : Option (Bytes × Bool) := none
  migrated : Bool := false
  /-- The fetch of a merge or verify read, once it has started. -/
  fetch : Option Nat := none
  stamp : Nat := 0
  deriving DecidableEq, Repr

/-- A commit unit of a writer (R56). -/
structure CUnit where
  first : Nat
  blocks : Nat
  unitWritten : Bool := false
  committed : Bool := false
  applied : Bool := false
  /-- Committed in flash-confirmed mode (R85). -/
  confirmed : Bool := false
  deriving DecidableEq, Repr

/-- Where one chunk of a READ stands (Table 11.1). -/
inductive ReadStage where
  | resolve
  /-- The shelf that holds it sleeps; the chunk waits for its wake. -/
  | shelf (g : Nat)
  | fetch
  /-- Envelope and region have arrived: the decompression runs on this source's payload. -/
  | decomp
  | done
  deriving DecidableEq, Repr

/-- One layer found for a chunk of a READ: its bytes by block. -/
structure ChunkRead where
  chunk : Nat
  stage : ReadStage := .resolve
  /-- Blocks of the chunk still wanted from this layer down (bit mask), and the blocks found so far. -/
  want : Nat
  got : Tab Bytes := []
  serial : Nat := 0
  domain : Nat := 0
  fetch : Nat := 0
  envelope : Bytes := []
  payload : Bytes := []
  delivered : Bool := false
  deriving DecidableEq, Repr

/-- What holds a command at its admission to step 3. -/
inductive CmdStage where
  /-- Arrived: it waits on an ORDERED barrier, an epoch hold or a handover. -/
  | held
  /-- In step 3 or beyond. -/
  | running
  /-- Its outcome is decided; the completion waits on the mirror receipt. -/
  | decided
  deriving DecidableEq, Repr

/-- A command in progress (R60), from its capsule to its completion. -/
structure Cmd where
  qpn : Nat
  tag : Nat
  queueId : Nat
  csn : Nat
  crc : Nat
  opcode : Nat
  capsule : Bytes
  flags : Nat := 0
  volume : Nat := 0
  snap : Nat := 0
  first : Nat := 0
  blocks : Nat := 0
  stage : CmdStage := .held
  epoch : Nat := 0
  /-- Held behind an earlier overlapping command (R68). -/
  overlap : Bool := false
  dataDone : Bool := false
  units : List CUnit := []
  chunks : List ChunkWork := []
  spaceChecked : Bool := false
  reads : List ChunkRead := []
  /-- A READ has issued its first RDMA WRITE of data; a RECALL has entered its wake item (R74). -/
  started : Bool := false
  /-- RECALL: staging has begun (R238). -/
  staging : Bool := false
  /-- A reader has taken its data (R68). -/
  taken : Bool := false
  /-- A FLUSH: the volumes it names. -/
  names : List Nat := []
  /-- The decided status and result, the own-region record it waits on, and the target whose abort record an ABORT waits
  on. -/
  status : Status := .success
  result : Nat := 0
  waitRec : Option Nat := none
  target : Option Nat := none
  holdId : Option Nat := none
  pinWake : List Nat := []
  /-- The map that a reader resolves through. -/
  key : Nat := 0
  /-- The checks of R144 have been passed once. -/
  checked : Bool := false
  /-- A replication message stored by its target: its relationship (R328). -/
  internal : Option Nat := none
  /-- The arming stamp of the monitors when the tag entered RUNNING (R440). -/
  stamp : Nat := 0
  /-- Its queue pair has closed: its completion is dropped (R123). -/
  closed : Bool := false
  deriving DecidableEq, Repr

/-- The replay table of a queue (R62): the newest CSN seen and the entries within 256. -/
structure RTable where
  newest : Nat
  entries : Tab ReplayEntry := []
  /-- The protection domain in which the queue was opened (R175); a table taken over from the peer names none. -/
  pd : Option Nat := none
  deriving DecidableEq, Repr

/-- A command of the peer whose units have been applied from the mirror region: what its replay-table entry needs. -/
structure MirrorCmd where
  queueId : Nat
  csn : Nat
  crc : Nat
  opcode : Nat
  units : Nat
  done : List Nat := []
  result : Nat := 0
  deriving DecidableEq, Repr

/-- The steps of an epoch boundary (Table 3.4): 0 none, 2 draining, 3 marker waits. -/
structure Epoch where
  number : Nat := 0               -- 64, current epoch | 03 R78 | DC 1
  step : Nat := 0                 -- step of Table 3.4 under way | 03 T3.4 | 0
  marker : Option Nat := none     -- offset of the epoch marker record | 03 T3.4 | none
  durable : Option Nat := none    -- last durable epoch | 03 R79 | none
  high : Nat := 0                 -- highest ASN of the epoch whose command has ended | 03 T3.4 | DC 1
  stamp : Nat := 0                -- model: arming stamp of the monitors at step 1 | 16 R440 | DC 1
  next : Option (Nat × Nat × Nat) := none  -- a new epoch length and region size, and the boundaries left before it | 03 Epochs | none
  deriving DecidableEq, Repr

/-- The keep area (Table 3.9): its header fields, the segment check table, and what it holds. -/
structure Keep where
  tag : Nat
  format : Nat
  generation : Nat
  complete : Bool
  serial : Bytes
  cycle : Nat
  ownGib : Nat
  asnHigh : Nat
  epoch : Nat
  peerSerial : Bytes
  flashMode : Bool
  fenceOut : Bool
  fenced : Bool
  ownOffset : Nat
  mirrorOffset : Nat
  tableOffset : Nat
  /-- The check field of the header. -/
  check : Nat
  /-- The segment check table: a CRC-32C for each 1 MiB of keep data that holds a record. -/
  segs : Tab Nat
  own : List OwnRec
  mirror : List JRec
  tables : Tab RTable
  mirrorTables : Tab RTable
  deriving DecidableEq, Repr

/-- The steps of a restart (Table 3.10). -/
inductive RestartSt where
  | none
  /-- Steps 1 to 4: waiting for the peer's reply. -/
  | peerWait (keepValid : Bool)
  /-- Steps 5 and 6: reconciled, replay runs. -/
  | replay
  deriving DecidableEq, Repr

/-- The journal and the commands. -/
structure Jrn where
  own : List OwnRec := []         -- own region, oldest first | 03 R80 | empty
  mirror : List JRec := []        -- mirror region, oldest first | 03 R80 | empty
  mirrorLost : List Nat := []     -- offsets of mirror-region records with a line that is lost | 03 R89 | empty
  ownGib : Nat := 16              -- 8, size of each region in GiB | 03 The journal | 16
  cursor : Nat := 0               -- next place in the own region | 03 R80 | DC 1
  asn : Nat := 0                  -- 64, ASNs assigned so far | 03 R60 | DC 1
  cmds : Tab Cmd := []            -- commands in progress, by ASN | 03 R67 | empty
  deferredMaps : List (Nat × Nat) := []  -- committed units whose map changes wait for an earlier reader | 03 R68 | empty
  drain : Tab (Nat × Nat) := []   -- journal chunks not yet on flash: serial to (asn, unit) | 03 R82 | empty
  units : List UnitBook := []     -- committed units not released | 03 R82 | empty
  tables : Tab RTable := []       -- replay tables of this head's queues, by queue_id | 03 R62 | empty
  mirrorTables : Tab RTable := [] -- mirror of the peer's replay tables | 03 R62 | empty
  mirrorRun : Tab MirrorCmd := [] -- the peer's writers with units applied, by the peer's ASN | 03 R62 | empty
  partly : List (Nat × Nat × Nat) := []  -- commands found partly committed (queue_id, csn, crc) | 03 T3.2 | empty
  epoch : Epoch := {}             -- the epoch counter and boundary | 03 R78 | DC 1
  flashMode : Bool := true        -- 1, flash-confirmed mode | 03 R85 | 1 (at power-on)
  holdHigh : Bool := false        -- HOLD_OK has risen since the last fall | 03 R85 | 0
  stopped : Bool := false         -- R86 step 1: no unit commits any more | 03 R86 | 0
  compacting : Bool := false      -- compaction runs | 03 R86 | 0
  keep : Option Keep := none      -- what the keep area holds | 03 T3.9 | none
  restart : RestartSt := .none    -- restart under way | 03 T3.10 | none
  serving : Bool := false         -- host commands are admitted | 03 R88 | 0
  inflight : List (Bytes × Nat × Nat × Nat × Nat) := []  -- in-flight table: fingerprint, domain, asn, unit, chunk | 07 R184 | empty
  admitted : Nat := 0             -- KiB of chunk data admitted to steps 4-6; ING_ADMIT | 07 T7.8 | 0
  deriving DecidableEq, Repr

/-- A filter bucket with its index group (Tables 7.1, 7.2). -/
structure Bucket where
  tags : List Nat := []           -- 28 slots, empty list: all 0
  next : Nat := 0
  forgotten : Nat := 0
  deriving DecidableEq, Repr

/-- The counters of a domain (R208). -/
structure DomCnt where
  fp : Nat := 0
  dup : Nat := 0
  zero : Nat := 0
  raw : Nat := 0
  grains : Nat := 0
  forgot : Nat := 0
  miss : Nat := 0
  verify : Nat := 0
  deriving DecidableEq, Repr

/-- The Dovecote and the ingest registers (Table 7.8). -/
structure Ing where
  buckets : Tab Bucket := []      -- filter buckets, an unlisted one empty | 07 T7.1 | empty
  index : Tab (Tab IdxEnt) := []  -- index entries on the home shelves, by bucket and slot | 07 T7.2 | empty
  wbuf : Tab (Tab IdxEnt) := []   -- index write buffer | 07 R190 | empty
  loading : List Nat := []        -- buckets that await their reload; ING_STAT.filter_loading | 07 R191 | empty
  waitIns : List (Bytes × Nat × Nat) := [] -- insertions that wait for a reload: fingerprint, serial, domain | 07 T7.3 | empty
  filterGib : Nat := 0            -- filter size in GiB; 0: the default of R186 | 07 R186 | default
  filterNext : Option (Nat × Nat) := none -- new size and job of a DOM_POLICY head-wide set | 07 R208 | none
  chunks : Nat := 0               -- 64, ING_CHUNKS | 07 T7.8 | 0
  dup : Nat := 0                  -- 32, ING_DUP_CNT | 07 T7.8 | 0
  zero : Nat := 0                 -- 32, ING_ZERO_CNT | 07 T7.8 | 0
  raw : Nat := 0                  -- 32, ING_RAW_CNT | 07 T7.8 | 0
  overlay : Nat := 0              -- 32, ING_OVERLAY_CNT | 07 T7.8 | 0
  fpos : Nat := 0                 -- 32, ING_FP_CNT | 07 T7.8 | 0
  forgot : Nat := 0               -- 32, ING_FORGOT_CNT | 07 T7.8 | 0
  inflightMiss : Nat := 0         -- 16, ING_MISS_CNT.inflight | 07 T7.8 | 0
  shedStale : Nat := 0            -- 16, ING_MISS_CNT.shed_stale | 07 T7.8 | 0
  verifyReads : Nat := 0          -- 24, ING_VERIFY_CNT.reads | 07 T7.8 | 0
  collisions : Nat := 0           -- 8, ING_VERIFY_CNT.collisions | 07 T7.8 | 0
  failCheck : Nat := 0            -- 16, ING_DECOMP_FAIL.check | 07 T7.8 | 0
  failOver : Nat := 0             -- 16, ING_DECOMP_FAIL.overrun | 07 T7.8 | 0
  unverified : Nat := 0           -- unverified misses | 07 R192 | 0
  dom : Tab DomCnt := []          -- counters by domain | 07 R208 | 0
  deriving DecidableEq, Repr

end Sys2Proof.Machine
end

