-- ==== Sys2Proof/Machine/State/Kiosk.lean ====
section
/-!
DEFINITION. Machine/State/Kiosk.lean: the mailboxes, their messages, jobs, the expert session and the claims
(chapter 02). Field comments: width | chapter file, rule or table | reset value (DC n: log entry n).
-/
namespace Sys2Proof.Machine

/-- The four states of a mailbox (R35). -/
inductive MbxState where
  | idle | posted | running | done
  deriving DecidableEq, Repr

/-- The number of a mailbox state in KSK_MBX_STAT.state (Table 2.4). -/
def MbxState.code : MbxState → Nat
  | .idle => 0 | .posted => 1 | .running => 2 | .done => 3

/-- What the Lodge knows of a session at a ring (R47): its handle and scope. -/
structure SessTicket where
  handle : Nat
  scope : BitVec 16
  path : Path
  deriving DecidableEq, Repr

/-- A complete request message that waits for its operation (R43). -/
structure BMsg where
  opcode : Nat
  seq : Nat
  expert : Bool
  session : Nat
  payload : Bytes
  deriving DecidableEq, Repr

/-- A multi-part message in progress in a mailbox (R44). -/
structure BPart where
  opcode : Nat
  seq : Nat
  next : Nat
  payload : Bytes
  deriving DecidableEq, Repr

/-- One mailbox (Tables 2.2 to 2.6) with the message it carries. -/
structure Mbx where
  req : Mem := []                 -- 512 bytes | 02 T2.2 | DC 2 (0)
  resp : Mem := []                -- 448 bytes | 02 T2.2 | DC 2 (0)
  state : MbxState := .idle       -- 3, also done | 02 T2.4 | IDLE (0)
  ringBusy : Bool := false        -- 1 | 02 T2.4 | 0
  writeBusy : Bool := false       -- 1 | 02 T2.4 | 0
  claimLost : Bool := false       -- 1 | 02 T2.4 | 0
  hwTimeout : Bool := false       -- 1 | 02 T2.4 | 0
  holder : Nat := 0               -- 2, mailbox 63 only | 02 T2.4 | 0
  status : Byte := 0              -- 8 | 02 T2.4 | 0
  vector : BitVec 6 := 0          -- 6 | 02 T2.5 | mailbox number
  irqEn : Bool := false           -- 1 | 02 T2.5 | 0
  respLen : BitVec 9 := 0         -- 9 | 02 T2.6 | 0
  lastSeq : BitVec 16 := 0        -- 16 | 02 T2.6 | 0
  cancel : Bool := false          -- 1, a cancel was asked | 02 R39 | 0
  ringNo : Nat := 0               -- model: order of the ring | 02 R53 | DC 1
  ringPath : Path := .controlPort -- path of the ring | 02 R43 | DC 1
  ticket : Option SessTicket := none  -- the session open at the ring | 02 R47 | none
  msg : Option BMsg := none       -- the complete request taken | 02 R43 | none
  partial_ : Option BPart := none -- the request message in progress | 02 R44 | none
  partAck : Bool := false         -- a non-final part waits for its acknowledgement | 02 R44 | 0
  more : List Bytes := []         -- further response parts | 02 R44 | empty
  morePart : Nat := 0             -- 16, index of the first of them | 02 R44 | 0
  moreOp : Nat := 0               -- 16, opcode of that response | 02 R44 | 0
  longRun : Bool := false         -- the request waits for a later event (AVS_SET, WAY_LOCK, ...) | 02 R37 | 0
  discard : Bool := false         -- a Function Level Reset discards the response | 02 T2.8 | 0
  deriving DecidableEq, Repr

/-- The state of a job (R49). -/
structure Job where
  opcode : Nat
  finished : Bool := false
  status : Status := .success
  progress : Nat := 0xFF
  result : Bytes := []
  /-- What the job works on, as its command needs it later. -/
  subj : Nat := 0
  aux : Nat := 0
  deriving DecidableEq, Repr

/-- The open expert session (R45, R46). -/
structure Session where
  handle : Nat
  scope : BitVec 16
  path : Path
  mailbox : Nat
  expiry : Nat
  /-- The operator key that signed its token. -/
  key : Nat := 0
  deriving DecidableEq, Repr

/-- A claim (R52): its holder, and the Lodge function that a later enable write overlaid (R54). -/
structure Claim where
  holder : Nat
  under : Option Nat := none
  deriving DecidableEq, Repr

/-- The Kiosk and the Lodge's books on its requests. -/
structure Kiosk where
  mbx : Tab Mbx := []             -- 64 mailboxes, an unlisted one at reset (vector its number) | 02 T2.2 | T2.3-T2.6
  ringCount : Nat := 0            -- model: rings so far | 02 R53 | DC 1
  lodgeReady : Bool := false      -- 1, KSK_HEALTH | 02 T2.7 | 0
  fwSwitch : Bool := false        -- 1, KSK_HEALTH | 02 T2.7 | 0
  evtVector : BitVec 6 := 0       -- 6, KSK_EVT_CTL | 02 T2.7 | 0
  evtEn : Bool := false           -- 1, KSK_EVT_CTL | 02 T2.7 | 0
  msixTab : Mem := []             -- 64 x 16 bytes | 02 T2.1 | DC 3 (each entry masked: PRESUMED PCIe)
  msixPba : BitVec 64 := 0        -- 64 | 02 T2.1 | DC 3 (0)
  smbOff : BitVec 16 := 0         -- 16, MB63_READ offset | 02 T2.9 | DC 1
  pecErrors : Nat := 0            -- count of PEC failures | 02 R41 | DC 1
  smbAlert : Bool := false        -- SMB_ALERT_N driven low | 02 R42 | DC 1 (released)
  jobs : Tab Job := []            -- at most 256 running | 02 R37 | empty
  jobCount : Nat := 0             -- model: jobs started so far | 02 R37 | DC 1
  session : Option Session := none -- the expert session | 02 R46 | none
  sessCount : Nat := 0            -- model: sessions opened so far | 02 R45 | DC 1
  nonces : Tab Bytes := []        -- valid nonces by challenge number, 32 bytes each | 02 R45 | empty
  nonceCount : Nat := 0           -- model: challenges so far | 02 R45 | DC 1
  failTimes : List Nat := []      -- operating times of failed SESSION_OPENs | 02 R46 | empty
  lockout : Bool := false         -- the 10-minute refusal runs | 02 R46 | 0
  claims : Tab Claim := []        -- by class x 65536 + index | 02 R52 | empty
  forced : List Nat := []         -- opcodes whose forced states stand, of expert commands | 02 R47 | empty
  deriving DecidableEq, Repr

end Sys2Proof.Machine
end

