-- ==== Sys2Proof/Machine/State/Lat.lean ====
section
/-!
DEFINITION. Machine/State/Lat.lean: LAT queues, queue pairs, protection domains, staging, credits, host ports and
compatibility keys (chapters 05 and 06). Field comments: width | chapter file, rule or table | reset value (DC n).
-/
namespace Sys2Proof.Machine

/-- The states of a queue pair (Table 6.2, codes of Table 6.9). -/
inductive QpSt where
  | free | connecting | open_ | rekey | error | closing
  deriving DecidableEq, Repr

def QpSt.code : QpSt → Nat
  | .free => 0 | .connecting => 1 | .open_ => 2 | .rekey => 3 | .error => 4 | .closing => 5

/-- The states of a tag (Table 5.10). -/
inductive TagSt where
  | free | receiving | running | ending
  deriving DecidableEq, Repr

/-- A tag of a queue: its message as it arrives (Tables 5.10, 5.11) and its command. -/
structure LTag where
  st : TagSt := .free             -- state | 05 T5.10 | FREE
  placed : List (Nat × Bytes) := []  -- segments placed, by message offset | 06 R159 | empty
  total : Option Nat := none      -- total declared by LAST | 05 T5.11 | none
  pages : List Nat := []          -- staging pages that back its window | 06 R160 | empty
  asn : Option Nat := none        -- its command | 03 R60 | none
  discard : Bool := false         -- further segments are discarded (R140, R141) | 05 R140 | 0
  plainBuf : Bool := false        -- the message stands in a receive buffer, not yet copied | 06 R162 | 0
  deriving DecidableEq, Repr

/-- An outbound packet not yet acknowledged: a completion SEND or an RDMA WRITE of a command's data (R153). -/
structure OutPkt where
  psn : Nat
  isSend : Bool
  asn : Nat
  csn : Nat := 0
  retries : Nat := 0
  /-- Answered by an RNR NAK: its resend waits; it has been answered so at least once. -/
  rnr : Bool := false
  rnrSeen : Bool := false
  deriving DecidableEq, Repr

/-- A phase of a compatibility key (R170 to R172). -/
structure GKey where
  key : Bytes
  salt : Bytes
  phase : Nat
  high : Option Nat := none
  seen : List Nat := []
  deriving DecidableEq, Repr

/-- A plain-mode SEND being received (R162). -/
structure PlainRx where
  bytes : Bytes := []
  tag : Option Nat := none
  pages : Nat := 0
  /-- The rest of the SEND is discarded. -/
  drop : Bool := false
  /-- A SEND has begun and not ended. -/
  begun : Bool := false
  deriving DecidableEq, Repr

/-- A queue pair. -/
structure Qp where
  st : QpSt := .free              -- state | 06 T6.2 | FREE
  queueId : Nat := 0              -- 64 | 05 T5.1 | 0
  port : Nat := 0                 -- 8, QP_STATUS.port | 06 T6.9 | 0
  openPort : Nat := 0             -- 8, port on which the queue was opened | 06 R165 | 0
  pd : Nat := 0                   -- 12 | 05 T5.1 | 0
  plain : Bool := false           -- plain mode | 06 R162 | 0
  gcm : Bool := false             -- compatibility encryption | 06 R170 | 0
  mode : Option Bool := none      -- multipath or ordered, from the first segment | 06 R165 | none
  psnAck : Nat := 0               -- 24, cumulative acknowledged inbound PSN | 06 T6.9 | 0
  window : List Nat := []         -- PSNs marked above it | 06 R165 | empty
  segq : List (Nat × Bytes) := [] -- packets accepted and not yet placed, in order | 06 R159 | empty
  tags : Tab LTag := []           -- 32 tags, an unlisted one FREE | 05 R139 | FREE
  parked : List (Nat × Nat × Bytes) := []  -- parked segments: PSN, tag, packet | 06 R166 | empty
  creditWin : Nat := 64           -- 8, credit window | 06 R168 | 64
  granted : Nat := 0              -- segments granted and not used | 06 R168 | 0
  cached : Bool := true           -- its context is in the cache | 06 R155 | 1
  fetching : Bool := false        -- its context is being fetched | 06 R155 | 0
  held : List Packet := []        -- its packets in the hold buffer | 06 R155 | empty
  stalled : Bool := false         -- the first packet of segq waits for a staging page | 06 R161 | 0
  rnrCode : Nat := 4              -- RNR timer code of the next RNR NAK | 06 R161 | 4
  rnrSent : Nat := 0              -- 32 | 06 T6.9 | 0
  discards : Nat := 0             -- 32 | 06 T6.9 | 0
  ackDue : Bool := false          -- a coalesced ACK is due | 06 R154 | 0
  sinceAck : Nat := 0             -- packets since the last ACK | 06 R154 | 0
  gapAt : List Nat := []          -- PSNs named by a selective NAK | 06 R167 | empty
  destQp : Nat := 0               -- 24, the host's queue-pair number | 06 R150 | 0
  msn : Nat := 0                  -- 24, messages received, as the AETH tells them | 06 T6.1 | 0
  txPsn : Nat := 0                -- 24, next outbound PSN | 06 R165 | DC 1
  outs : List OutPkt := []        -- outbound packets not acknowledged | 06 R153 | empty
  toSend : List Bytes := []       -- completions that wait to be sent | 05 R127 | empty
  toWrite : List (Nat × Nat × Nat × Bytes) := [] -- RDMA WRITEs that wait: ASN, key, address, data | 05 R132 | empty
  begun : Bool := false           -- the first RDMA WRITE that waits has sent its First packet | 06 T6.1 | 0
  creditAsked : Bool := false     -- a packet found no credit: a credit request is pending | 06 R169 | 0
  rate : Nat := 100 * 2 ^ 32      -- outbound rate in percent of the port rate, times 2^32 | 06 R149 | port rate
  cnpSent : Bool := false         -- a CNP was sent within 50 us | 06 R149 | 0
  keepaliveS : Nat := 10          -- 16, keepalive interval | 05 T5.1 | 10
  tx : Option GKey := none        -- transmit key in use; high is the last counter | 06 R171 | none
  rx : Option GKey := none        -- receive key in use | 06 R171 | none
  rxNew : Option GKey := none     -- receive key of the other phase, loaded | 06 R172 | none
  rxOld : Bool := false           -- the old receive phase is still accepted | 06 R172 | 0
  rekeyDue : Bool := false        -- QP_STATUS.rekey_due | 06 R172 | 0
  plainRx : PlainRx := {}         -- the SEND being received in plain mode | 06 R162 | empty
  plainBufs : Nat := 32           -- receive buffers free in plain mode | 06 R162 | 32
  resume : Bool := false          -- the open record asked for resume | 05 T5.1 | 0
  initCsn : Nat := 0              -- its initial_csn | 05 T5.1 | 0
  deriving DecidableEq, Repr

/-- A LAT queue known to this head (R121, R125). -/
structure LQueue where
  qpn : Option Nat
  pd : Nat
  /-- Tags whose commands still run to their outcomes after the close. -/
  busy : List Nat := []
  deriving DecidableEq, Repr

/-- A protection domain (Table 6.4). -/
structure Pd where
  gcm : Bool
  plain : Bool
  ranges : List (Nat × Nat)
  pageLimit : Nat
  deriving DecidableEq, Repr

/-- A host port (Table 6.8). -/
structure HPort where
  exists_ : Bool := false
  up : Bool := false
  group : Nat := 0
  pfc : Nat := 255
  dscp : Nat := 0
  addr : Bytes := []
  paused : Bool := false
  /-- The port has sent a pause frame that stands (R149). -/
  pausing : Bool := false
  /-- Frames dropped for their VLAN tags (R148). -/
  vlanDrops : Nat := 0
  deriving DecidableEq, Repr

/-- The host transport engine and the LAT queues. -/
structure Lat where
  queues : Tab LQueue := []       -- queues by queue_id | 05 R121 | empty
  qps : Tab Qp := []              -- 16,384 queue pairs, an unlisted one FREE | 06 R152 | FREE
  pds : Tab Pd := []              -- 4,096 protection domains, an unlisted one not configured | 06 R158 | empty
  hports : Tab HPort := []        -- 8 host ports | 06 R148 | DC 1 (none configured)
  split : Nat := 0                -- 4, lane-set split | 06 T6.8 | DC 1 (0)
  allow : Nat := 400              -- 9, TRN_ALLOW | 06 T6.7 | 400
  cap : Nat := 400                -- cap of A | 06 R169 | 400
  defWin : Nat := 64              -- default credit window | 06 R168 | 64
  turn : Nat := 0                 -- next queue pair of the round | 06 R169 | DC 1
  dropLog : List (Nat × Nat) := [] -- 256 entries: queue pair, PSN | 06 R156 | empty
  dropHold : Nat := 0             -- 16, TRN_DROP_CNT.hold | 06 T6.7 | 0
  logLost : Nat := 0              -- 16, TRN_DROP_CNT.log_lost | 06 T6.7 | 0
  nakRnr : Nat := 0               -- 16, TRN_NAK_CNT.rnr | 06 T6.7 | 0
  nakSel : Nat := 0               -- 16, TRN_NAK_CNT.selective | 06 T6.7 | 0
  discSeg : Nat := 0              -- 16, TRN_DISC_CNT.segments | 06 T6.7 | 0
  discGcm : Nat := 0              -- 16, TRN_DISC_CNT.gcm | 06 T6.7 | 0
  cnpEn : Bool := true            -- 1, TRN_CTL.cnp_en | 06 T6.7 | 1
  poolMib : Nat := 2048           -- 16, staging pool | 06 R160 | 2,048
  lru : List Nat := []            -- contexts in the cache, most recent first, at most 2,048 | 06 R155 | empty
  windowOff : List Nat := []      -- queues whose credit window a session set | 06 R177 | empty
  deriving DecidableEq, Repr

end Sys2Proof.Machine
end

