-- ==== Sys2Proof/Machine/State/Out.lean ====
section
/-!
DEFINITION. Machine/State/Out.lean: what the Nesutar sends outward: completions, packets, Footbridge messages, sled
commands, interrupts, bus frames. The outward trace is the model's own field: it records what the manual says leaves
the package, newest last.
-/
namespace Sys2Proof.Machine

/-- A Footbridge message sent (Table 4.2 types). -/
inductive FtbOut where
  | hello (m : HelloMsg)
  | heartbeat (port : Nat) (m : HbMsg)
  | mirror (msgId : Nat) (recs : List JRec)
  | receipt (cumId : Nat) (ranges : List (Nat × Nat))
  | snak (port cls : Nat) (firstSeq lastSeq : Nat)
  | snakBytes (msgId : Nat) (ranges : List (Nat × Nat))
  | handover (m : HandoverMsg)
  | resync (msgId : Nat) (recs : List JRec)
  /-- A resend of segments of a message under new port sequence numbers (R99). -/
  | resend (msgId : Nat) (ranges : List (Nat × Nat))
  deriving DecidableEq, Repr

/-- A command descriptor sent to a sled bridge (Tables 10.7, 10.8). -/
structure SledCmd where
  op : Nat
  tag : Nat
  die : Nat := 0
  block : Nat := 0
  page : Nat := 0
  grain : Nat := 0
  count : Nat := 0
  arg : Nat := 0
  data : Bytes := []
  deriving DecidableEq, Repr

/-- A flit or ordered set sent on a sled link (chapter 10). -/
inductive LinkOut where
  | flit (vc : Nat) (endF : Bool) (seq ack dcr : Nat) (payload : Bytes)
  | idle (ack : Nat)
  | nak (seq : Nat)
  | eios
  /-- The SYNC ordered set (Table 10.3, R288). -/
  | sync
  | ts1 (state preset : Nat)
  | ts2 (rxData maxTags : Nat)
  /-- The EIEOS ordered set, sent first on leaving electrical idle (Table 10.3). -/
  | eieos
  | beacon
  /-- The PRBS31 pattern of TEST, in units of 2^20 bits (Table 10.7, R296). -/
  | prbs (mbit : Nat)
  deriving DecidableEq, Repr

/-- A frame or event that leaves the package. -/
inductive Out where
  /-- An MSI-X message on a vector (R33, R36). -/
  | msix (vector : Nat)
  /-- A mailbox entered DONE with this response (R36). -/
  | mbxDone (n : Nat)
  /-- A Basmos response discarded by a Function Level Reset (Table 2.8). -/
  | mbxDiscarded (n : Nat)
  /-- Bytes returned by an SMBus read (Table 2.9). -/
  | smbData (bytes : Bytes)
  | smbAck
  | smbNack (at_ : Nat)
  /-- An RDMA connection reply or reject with its LAT private data (R122). -/
  | cmReply (qpn : Nat) (data : Bytes)
  | cmReject (qpn : Nat) (data : Bytes)
  /-- RoCEv2 packets (chapter 06). -/
  | ack (qpn psn credit : Nat)
  | nak (qpn psn code : Nat)
  | rnrNak (qpn psn timer : Nat)
  | selNak (qpn : Nat) (psns : List Nat)
  | cnp (qpn : Nat)
  | dreq (qpn : Nat)
  | drep (qpn : Nat)
  | rdmaWrite (qpn psn key addr : Nat) (data : Bytes)
  | send (qpn psn : Nat) (data : Bytes)
  /-- A packet as it leaves: base transport header, RETH or AETH, and payload (R9, R150). -/
  | roce (qpn : Nat) (bytes : Bytes)
  /-- A pause frame of a port for a priority, or its end (R149). -/
  | pauseSent (port priority : Nat) (pause : Bool)
  | resend (qpn psn : Nat)
  /-- A completion capsule posted (R57, R127): queue pair, tag, status, result. -/
  | completion (qpn tag : Nat) (status : Status) (result : Nat)
  /-- A Footbridge message, and the frames that carry it (R96). -/
  | ftb (m : FtbOut)
  | ftbFrame (port : Nat) (bytes : Bytes)
  /-- A read of grains of a Dovecote index page, and a group written there (R187, R190). -/
  | indexRead (page grain count : Nat)
  | indexWrite (page grain : Nat) (bytes : Bytes)
  /-- A sled command on port p, and link traffic of port p. -/
  | sled (port : Nat) (c : SledCmd)
  | link (port : Nat) (l : LinkOut)
  /-- The 130-bit blocks that carry it on the lane of port p, each by its sync header (1 a data block, 2 an ordered set) and its 16
  bytes as they go on the wire, least significant bit first (R286, R287). -/
  | lane (port : Nat) (blocks : List (Nat × Bytes))
  /-- An I2C transaction recovery: nine clocks and a STOP (R309). -/
  | i2cRecover (g slot : Nat)
  /-- AVSBus frames (R412). -/
  | avsWrite (bus rail mv : Nat)
  | avsStatus (bus : Nat)
  /-- DRAM commands of a channel (chapter 12). -/
  | dramRefresh (ch rank n : Nat)
  | dramPause (ch rank : Nat)
  | dramReissue (ch rank : Nat)
  /-- A replication message or probe with its capsule and records as bytes, and a target's answer with its completion
  (chapter 11). -/
  | repl (relationship : Nat) (m : ReplMsg) (bytes : Bytes)
  | replProbe (relationship batch : Nat) (bytes : Bytes)
  | replAnswer (qpn tag : Nat) (status : Status) (durable applied : Nat) (bytes : Bytes)
  | replConnect (relationship : Nat)
  /-- A Kiosk or register read's word (R447, R34). -/
  | regWord (w : Word)
  deriving DecidableEq, Repr

end Sys2Proof.Machine
end

