-- ==== Sys2Proof/Machine/State/Pair.lean ====
section
/-!
DEFINITION. Machine/State/Pair.lean: the Footbridge, the pair, the array record as this head knows it (chapter 04).
Field comments: width | chapter file, rule or table | reset value (DC n: log entry n).
-/
namespace Sys2Proof.Machine

/-- One Footbridge port. -/
structure FPort where
  aligned : Bool := false         -- 1, PCS aligned | 04 R97 | DC 1
  up : Bool := false              -- 1, FTB_PAIR_STAT.ports_up | 04 T4.4 | 0
  rxCtl : Nat := 0                -- 32, next port_seq expected, control class | 04 T4.1 | DC 1
  rxMir : Nat := 0                -- 32, next port_seq expected, mirror class | 04 T4.1 | DC 1
  txCtl : Nat := 0                -- 32, next port_seq to send, control class | 04 T4.1 | DC 1
  txMir : Nat := 0                -- 32, next port_seq to send, mirror class | 04 T4.1 | DC 1
  deriving DecidableEq, Repr

/-- A message sent and not yet receipted: type, length, its segments (port, class, port_seq, offset, length), the
own-region offsets it carries, and its contents. -/
structure FMsg where
  type : Nat
  len : Nat
  segs : List (Nat × Nat × Nat × Nat × Nat)
  offs : List Nat
  body : FtbOut
  deriving DecidableEq, Repr

/-- A message being received: type, bytes placed, and its length once known. -/
structure FRx where
  type : Nat
  placed : List (Nat × Nat)
  total : Option Nat
  deriving DecidableEq, Repr

/-- The Footbridge. -/
structure Ftb where
  ports : Tab FPort := []         -- 4 ports, an unlisted one at reset | 04 R97 | T4.4
  nextId : Nat := 1               -- 64, msg_id of the next message | 04 R98 | DC 1 (1)
  turn : Nat := 0                 -- port that takes the next segment | 04 R98 | DC 1
  sent : Tab FMsg := []           -- messages sent and not receipted, by msg_id | 04 R99 | empty
  waiting : List Nat := []        -- own-region records that wait for room in the 256 MiB | 04 R101 | empty
  rx : Tab FRx := []              -- messages being received, by msg_id | 04 R98 | empty
  rxCum : Nat := 0                -- 64, every peer message at or below is receipted | 04 R100 | DC 1
  rxAbove : List Nat := []        -- messages receipted above it | 04 R100 | empty
  hbTx : Nat := 0                 -- 64, counter of the last HEARTBEAT sent | 04 T4.3 | DC 1
  hbRx : Nat := 0                 -- 64, counter of the last HEARTBEAT counted | 04 T4.3 | DC 1
  peerHb : Option HbMsg := none   -- the last HEARTBEAT counted | 04 R103 | none
  resent : Nat := 0               -- 16, FTB_RESEND_CNT.segments | 04 T4.4 | 0
  downs : Nat := 0                -- 16, FTB_RESEND_CNT.port_downs | 04 T4.4 | 0
  deriving DecidableEq, Repr

/-- Why a planned handover runs (R114): for the pair's sake (failback), or to end with "request fence" and a cause:
a TAKEOVER_FORCE, HEAD_RESET, FW_ACTIVATE or PWR_STATE_FORCE job, a policy sleep, or the Nesutar itself. -/
structure Handover where
  volumes : List Nat
  fence : Bool
  opcode : Nat
  job : Option Nat
  /-- 1 relinquish sent, 2 drained, 3 volumes received, 4 fence requested. -/
  step : Nat := 1
  deriving DecidableEq, Repr

/-- What a head becomes when the pairing it is in completes (R116): role B of the array its peer has created, whole again after
a restart of both heads, or the head that returns to a survivor. -/
inductive JoinAs where
  | adopt | again | back
  deriving DecidableEq, Repr

/-- The pair. -/
structure Pair where
  role : Option Role := none      -- 1, FTB_PAIR_STAT.role | 04 T4.4 | 0 (none)
  state : Nat := 0                -- 3, PAIR_STATUS.state | 04 T4.10 | 0 (unpaired)
  paired : Bool := false          -- 1, FTB_PAIR_STAT.paired | 04 T4.4 | 0
  pinLive : Bool := false         -- 1, FTB_PAIR_STAT.pin_hb | 04 T4.4 | 0
  msgLive : Bool := false         -- 1, FTB_PAIR_STAT.msg_hb | 04 T4.4 | 0
  msgHeld : Bool := false         -- the 1 s of Table 4.5 runs | 04 T4.5 | 0
  lossB : Bool := false           -- role B has declared loss and waits 10 ms | 04 R109 | 0
  fenced : Bool := false          -- the fenced latch of the Gatehouse | 04 R110 | 0
  takeover : Nat := 0             -- step of Table 4.6 under way, 0 none | 04 T4.6 | 0
  peerSerial : Bytes := []        -- 128 | 04 T4.10 | 0 (unknown)
  peerGen : Nat := 0              -- 8 | 04 T4.10 | 0 (unknown)
  hello : Option HelloMsg := none -- the peer's last HELLO | 04 R116 | none
  helloWaits : Bool := false      -- the last HELLO has not led to a pairing yet | 04 R116 | 0
  joining : Option JoinAs := none -- every check of Table 4.9 has passed; the array record is being read | 04 R487 | none
  filled : Bool := false          -- the mirror region holds the peer's journal | 15 R410 | 0
  rejoin : Bool := false          -- the survivor knows a head that has passed Table 4.9 and is to rejoin | 04 T4.8 | 0
  window : Option (Bytes × Nat) := none -- open migration window: serial and expiry in operating time | 04 R117 | none
  named : List Bytes := []        -- serials named in a window so far | 04 R117 | empty
  arr : ArrayRec := {}            -- the array record as this head has read it | 04 R487 | DC 9 (empty)
  genHeard : Nat := 0             -- 32, newest generation this head knows of | 04 R487 | DC 1
  reading : Bool := false         -- a read of the array record runs | 04 R487 | 0
  domF : Tab (Bool × Bool × Bool) := []  -- switches in force by domain: de-duplication, compression, byte-verify | 04 R487 | empty
  rotF : List Nat := []           -- domains under rotation whose new version is in force here | 14 R394 | empty
  volF : List (Nat × Option (Nat × Nat) × Nat) := [] -- deletions, and resizes with size and flags, with their jobs, that wait for the boundary | 05 R147 | empty
  dying : List Nat := []          -- volumes whose deletion took effect and whose pages are being released | 05 R147 | empty
  owned : Tab Role := []          -- owner of volumes whose owner is not their preferred role | 04 R107 | empty
  noKey : List Nat := []          -- domains whose blob did not unwrap on this head | 07 R207 | empty
  handover : Option Handover := none  -- the planned handover this head gives | 04 R114 | none
  handNext : Bool := false        -- one the Nesutar starts itself waits for it | 04 R114 | 0
  taking : Option (List Nat × Nat) := none -- a handover this head receives: its volumes, and the msg_id of its answer (0: not sent) | 04 R114 | none
  job : Option (Nat × Nat) := none -- the PAIR_JOIN job and its mode | 04 R116 | none
  joinReq : Option (Nat × Nat × Bool) := none  -- own_gib, epoch_ms and auto fail-back it asked for | 04 T4.11 | none
  failJob : Option Nat := none    -- the FAILBACK job | 04 R115 | none
  failStep : Nat := 0             -- step of Table 4.8 under way on the survivor | 04 T4.8 | 0
  autoFail : Bool := false        -- auto fail-back was asked for on this head | 04 R115, R118 | 0
  resyncs : List Nat := []        -- msg_ids of RESYNC messages not yet receipted | 04 T4.8 | empty
  deriving DecidableEq, Repr

end Sys2Proof.Machine
end

