-- ==== Sys2Proof/Machine/State/Plc.lean ====
section
/-!
DEFINITION. Machine/State/Plc.lean: Parterre's shelves, schedule, heat, cold frame, rows, blocks and moves (chapters 08
and 09). Field comments: width | chapter file, rule or table | reset value (DC n: log entry n).
-/
namespace Sys2Proof.Machine

/-- A shelf's state as this head sees it (Table 8.2). -/
inductive ShelfSt where
  | off | waking | awake | closing | failed
  deriving DecidableEq, Repr

/-- The code of a shelf state. -/
def ShelfSt.code : ShelfSt → Nat
  | .off => 0 | .waking => 1 | .awake => 2 | .closing => 3 | .failed => 4

/-- One shelf (Tables 8.1, 8.2, 8.8). -/
structure Shelf where
  st : ShelfSt := .off            -- 3, PRT_SHELF_STATE.state | 08 T8.8 | 0
  req : Bool := false             -- 1, PRT_SHELF_STATE.req | 08 T8.8 | 0
  good : Bool := false            -- 1, PRT_SHELF_STATE.good | 08 T8.8 | 0
  w : Nat := 0                    -- 8, PRT_SHELF_CHARGE.w_cap | 08 T8.8 | 0
  r : Nat := 0                    -- 8, PRT_SHELF_CHARGE.r_cap | 08 T8.8 | 0
  goodAtReq : Bool := false       -- SHF_PWR_GOOD was high at the request | 08 T8.1 | 0
  fails : Nat := 0                -- failed attempts in a row | 08 R218 | 0
  retryWait : Bool := false       -- the 10 s after a failed wake run | 08 R218 | 0
  holdoff : Bool := false         -- the 10 s after a release run | 08 R220 | 0
  lastTry : Nat := 0              -- operating time of the last attempt | 08 R218 | DC 1
  minAwake : Bool := false        -- min_awake_s runs | 08 R220 | 0
  hardenFirst : Bool := false     -- it must pass a hardening pass before new work | 08 R219 | 0
  closeAfter : Bool := false      -- the closing goes on to step 7 | 08 R219 | 0
  holdJob : Bool := false         -- a SHELF_WAKE job waits | 08 R244 | 0
  held : Bool := false            -- a forced hold keeps it awake | 08 R244 | 0
  lapsed : Bool := false          -- the session of the SHELF_WAKE that still runs has ended | 02 R47 | 0
  holdS : Nat := 0                -- hold_s of that hold | 08 R244 | 0
  readOnly : Bool := false        -- the hold takes no placement | 08 R244 | 0
  inspected : Nat := 0            -- operating time of the last inspection | 08 R239 | DC 1
  inspecting : Option Nat := none -- the block set where the inspection stands | 09 R272 | none
  lost : List Nat := []           -- lost sleds (R276) | 09 R276 | empty
  meterW : Nat := 0               -- bytes programmed in this 10 ms window | 08 R212 | 0
  meterR : Nat := 0               -- bytes read in this 10 ms window | 08 R212 | 0
  nextRow : Nat := 0              -- rows numbered so far | 08 R231 | DC 1
  nextBand : Nat := 0             -- bands numbered so far | 09 T9.3 | DC 1
  deriving DecidableEq, Repr

/-- The class of a schedule item (R236). -/
inductive ItemCls where
  | read | ingest | background
  deriving DecidableEq, Repr

/-- The rank of a class: read before ingest before background. -/
def ItemCls.rank : ItemCls → Nat
  | .read => 0 | .ingest => 1 | .background => 2

/-- What a schedule item asks for. -/
inductive ItemFor where
  | wake                          -- power on its shelf
  | gc (band : Nat)
  | transit (serial : Nat)
  | refresh (set pos : Nat)
  | harden
  | inspect
  | recallCopy (asn : Nat)
  | mergeOverlay (serial : Nat)
  | rebuild (sled : Nat)
  | rotate (domain : Nat)
  | retireBand (band : Nat)
  deriving DecidableEq, Repr

/-- A schedule item: its class, shelf, work, arrival, time to its deadline (none: no deadline), urgency 0 to 3, and
whether it has been granted. -/
structure Item where
  cls : ItemCls
  shelf : Nat
  work : ItemFor
  arrival : Nat
  deadline : Option Nat
  urgency : Nat := 0
  granted : Bool := false
  deriving DecidableEq, Repr

/-- A recall hold (R238): the range it keeps readable, staged copies (serial and move) or a shelf held, and its expiry in operating
time. -/
structure Hold where
  volume : Nat
  snap : Nat
  first : Nat
  blocks : Nat
  staged : List (Nat × Nat)
  shelves : List Nat
  expiry : Nat
  deriving DecidableEq, Repr

/-- A block set with its record (Table 9.3) and what this head knows of its pages: linear page = stripe x 16 + die
position. -/
structure BSet where
  shelf : Nat
  sled : Nat
  dieGroup : Nat
  state : Nat := 1
  secondary : Bool := false
  role : Role
  short : Bool := false
  lent : Bool := false
  disturbed : Bool := false
  band : Nat := 0
  setNo : Nat := 0
  partner : Nat := 0
  closedAt : Nat := 0
  voidMask : Nat := 0
  blocks : List Nat
  /-- Pages programmed, confirmed, asked for verification, verified and failed; positions whose block is disturbed;
  positions still to erase; pages still to inspect. -/
  issued : List Nat := []
  asked : List Nat := []
  conf : List Nat := []
  ver : List Nat := []
  bad : List Nat := []
  disturbedPos : List Nat := []
  toErase : List Nat := []
  toInspect : List Nat := []
  dieParityFreed : Bool := false
  deriving DecidableEq, Repr

/-- The state of a row member. -/
inductive MemSt where
  | empty | filling | programmed | verified | void | padded
  deriving DecidableEq, Repr

/-- A row of the shelf code (R229 to R233): for each member its state and its page (block-set key, linear page). -/
structure Row where
  shelf : Nat
  band : Nat
  number : Nat
  mem : List MemSt := List.replicate 32 .empty
  page : Tab (Nat × Nat) := []
  /-- The four parity pages accumulated, and the members accumulated. -/
  acc : List Bytes := []
  added : List Nat := []
  parityAsked : Bool := false
  /-- Its members are being read again to harden it (R232). -/
  reading : Bool := false
  /-- The member being rebuilt for a new sled (R276). -/
  rebuild : Option Nat := none
  hardened : Bool := false
  deferred : Bool := false
  deriving DecidableEq, Repr

/-- The fill of one sled of the open band: the data pages taken so far, the next linear page, and the page buffer. -/
structure OpenSled where
  rowIx : Nat := 0
  lin : Nat := 0
  buf : Bytes := []
  stripeAcc : Bytes := []
  deriving DecidableEq, Repr

/-- The open band of a shelf: its band number, the set numbers of its primaries by sled, first row, row now filling, next
sled in turn, and its sleds. -/
structure OpenBand where
  band : Nat
  setNo : Tab Nat
  baseRow : Nat
  row : Nat
  rows : Nat
  turn : Nat := 0
  sleds : Tab OpenSled := []
  deriving DecidableEq, Repr

/-- The place of a chunk in the cold frame: its segments (linear page, grain, count) on a primary set. -/
structure Placed where
  shelf : Nat
  set : Nat
  segs : List (Nat × Nat × Nat)
  transit : Bool := false
  /-- The move it belongs to, if it is a copy of a stored chunk. -/
  move : Option Nat := none
  recorded : Bool := false
  deriving DecidableEq, Repr

/-- Why a stored chunk is moved. -/
inductive MoveFor where
  | gc (band : Nat)
  | transit
  | refresh
  | recover
  | verifyFail
  | recall (asn : Nat)
  /-- Overlays merged into a full chunk (R181), and a chunk re-encrypted at a key rotation (R202). -/
  | merge
  | rotate
  deriving DecidableEq, Repr

/-- A move of a stored chunk (Table 9.7 steps 2 to 4): the copy's grains, and for a merge or a rotation the new content
serial and the data gathered so far. -/
structure Move where
  serial : Nat
  old : Loc
  shelf : Nat
  why : MoveFor
  bytes : Bytes := []
  newSerial : Nat := 0
  mask : Nat := 0
  blocks : Tab Bytes := []
  domain : Nat := 0
  /-- The base of a chain merged into one overlay (R180). -/
  base : Nat := 0
  recOff : Option Nat := none
  deriving DecidableEq, Repr

/-- A block's table entry (R266, R269). -/
structure Blk where
  erases : Nat := 0
  retired : Bool := false
  inUse : Bool := false
  dirty : Bool := false
  exp : Nat := 0
  man : Nat := 0
  credit : Nat := 0
  verifyFails : List Nat := []
  deriving DecidableEq, Repr

/-- A source of Table 9.10 or the home location of a chunk. -/
inductive Source where
  | journal | primary | partner | dieParity | code | staged
  deriving DecidableEq, Repr

/-- What a fetch of stored content serves. -/
inductive FetchFor where
  | read (asn chunk : Nat)
  | move (m : Nat)
  | repl (rel : Nat)
  /-- The merge read and the verify read of a chunk of a WRITE (R179, R192). -/
  | merge (asn chunk : Nat)
  | verify (asn chunk : Nat)
  deriving DecidableEq, Repr

/-- One page read of a fetch: the segment it serves, its place, its member of the row, and its data. -/
structure Piece where
  seg : Nat
  port : Nat
  die : Nat
  block : Nat
  page : Nat
  grain : Nat
  count : Nat
  member : Nat := 0
  data : Option Bytes := none
  deriving DecidableEq, Repr

/-- What a fetch ends with. -/
inductive FetchRes where
  | got (envelope region : Bytes)
  | fails (st : Status)
  deriving DecidableEq, Repr

/-- A fetch of a stored chunk's envelope and region from one source after another (R277, R317). -/
structure Fetch where
  serial : Nat
  why : FetchFor
  src : Source
  pieces : List Piece := []
  /-- For the shelf code: the wanted member and the erased members of each segment. -/
  want : List (Nat × List Nat) := []
  reresolved : Bool := false
  /-- Sources that failed, and whether one of them could not deliver. -/
  tried : List Source := []
  undelivered : Bool := false
  res : Option FetchRes := none
  deriving DecidableEq, Repr

/-- Parterre and the media. -/
structure Plc where
  shelves : Tab Shelf := []       -- 32 shelves, an unlisted one at reset | 08 T8.8 | T8.8
  alone : Bool := false           -- 1, PRT_STAT.alone | 08 T8.8 | 0
  wakes : Nat := 0                -- 16, PRT_WAKE_CNT.wakes | 08 T8.8 | 0
  wakesFailed : Nat := 0          -- 16, PRT_WAKE_CNT.failed | 08 T8.8 | 0
  hardened : Nat := 0             -- 32, PRT_HARDEN_CNT | 08 T8.8 | 0
  policy : PlcPolicy := {}        -- placement policy in force on this head | 08 R242 | defaults
  media : MediaPolicy := {}       -- media policy in force on this head | 09 R280 | defaults
  fill : Tab Nat := []            -- fill shelf by volume | 08 R222 | empty
  heat : Tab Nat := []            -- 8-bit heat codes by volume x 2^24 + extent | 08 R224 | 0
  heatT : Tab Nat := []           -- transient access counts of the hour | 08 R224 | 0
  items : Tab Item := []          -- the schedule | 08 R236 | empty
  itemCount : Nat := 0            -- model: items entered so far | 08 R236 | DC 1
  batch : List Nat := []          -- shelves of the open batch window | 08 R237 | empty
  batchOpen : Bool := false       -- the batch window runs | 08 R237 | 0
  holds : Tab Hold := []          -- the recall table | 08 R238 | empty
  holdCount : Nat := 0            -- model: holds made so far | 08 R238 | DC 1
  sets : Tab BSet := []           -- block-set records, by sled port x 2^32 + set number | 09 T9.3 | empty
  setCount : Nat := 0             -- set numbers given so far | 09 T9.3 | DC 1
  open_ : Tab OpenBand := []      -- the open band of each shelf | 09 R251 | empty
  rows : Tab Row := []            -- stripe records, by shelf x 2^40 + row number | 08 R231 | empty
  placed : Tab Placed := []       -- places of chunks in the cold frame, by content serial | 08 R222 | empty
  copies : Tab Placed := []       -- new copies of moves, by move | 09 T9.7 | empty
  moves : Tab Move := []          -- moves under way | 09 T9.7 | empty
  moveCount : Nat := 0            -- model: moves so far | 09 T9.7 | DC 1
  fetches : Tab Fetch := []       -- fetches of stored content under way | 11 T11.1 | empty
  fetchCount : Nat := 0           -- model: fetches so far | 11 T11.1 | DC 1
  blks : Tab Blk := []            -- block tables, by (port x 128 + die) x 65,536 + block; an unlisted block free, erased | 09 R266 | DC 1 (free)
  peerOpen : Tab (List Nat) := [] -- the peer's open blocks, same key, with the pages its records name | 04 T4.6 | empty
  readT : Tab Nat := []           -- transient read counts of blocks, same key | 09 R269 | 0
  diesRetired : List (Nat × Nat) := []  -- retired dies (port, die) | 09 R275 | empty
  bandJobs : List (Nat × Nat × Nat) := [] -- GC_FORCE jobs by shelf and band | 09 R281 | empty
  gcBands : Nat := 0              -- 16, PRT_GC_CNT.bands | 09 T9.11 | 0
  gcGrains : Nat := 0             -- grains copied; PRT_GC_GRAINS shows units of 1,024 | 09 T9.11 | 0
  refDisturb : Nat := 0           -- 16, PRT_REFRESH_CNT.disturb | 09 T9.11 | 0
  refRetention : Nat := 0         -- 16, PRT_REFRESH_CNT.retention | 09 T9.11 | 0
  retiredBlocks : Nat := 0        -- 24, PRT_RETIRE_CNT.blocks | 09 T9.11 | 0
  recovered : Nat := 0            -- 16, PRT_RECOVER_CNT.recovered | 09 T9.11 | 0
  lostChunks : Nat := 0           -- 16, PRT_RECOVER_CNT.lost | 09 T9.11 | 0
  progFail : Nat := 0             -- 16, PRT_PROG_FAIL.program | 09 T9.11 | 0
  eraseFail : Nat := 0            -- 16, PRT_PROG_FAIL.erase | 09 T9.11 | 0
  homeJob : Option (Nat × List Nat) := none  -- the HOME_SHELF_SET job and its shelves | 08 R247 | none
  inspectWake : Option Nat := none -- the shelf of the inspection wake under way | 08 R239 | none
  deriving DecidableEq, Repr

end Sys2Proof.Machine
end

