-- ==== Sys2Proof/Machine/State/Repl.lean ====
section
/-!
DEFINITION. Machine/State/Repl.lean: snapshots and replication (chapter 11).
Field comments: width | chapter file, rule or table | reset value (DC n: log entry n).
-/
namespace Sys2Proof.Machine

/-- A snapshot of a volume (R334). pend: not cut yet; deleting: its deletion waits or runs; job: the job that waits. -/
structure Snap where
  pend : Bool := true
  deleting : Bool := false
  /-- The deletion has taken effect; its pages wait for readers. -/
  gone : Bool := false
  repl : Bool := false
  replica : Bool := false
  epoch : Nat := 0
  blocks : Nat := 0
  cutTime : Nat := 0
  deriving DecidableEq, Repr

/-- What is still to be put into a batch's stream (R325). -/
inductive StreamItem where
  | start (index blocks : Nat)
  | chunk (index chunk serial : Nat)
  | unmap (index chunk count : Nat)
  | finish
  deriving DecidableEq, Repr

/-- A message whose records a target is storing: its number, queue pair and tag, the records left, the internal writer
that runs, and the chunks that writer stores with their source serials (volume, chunk, serial). -/
structure Storing where
  no : Nat
  qpn : Nat
  tag : Nat
  rest : List StreamRec
  asn : Option Nat := none
  pairs : List (Nat × Nat × Nat) := []
  deriving DecidableEq, Repr

/-- A relationship as its serving head runs it (R325 to R331, R336). -/
structure RelRun where
  /-- 0 idle, 1 sending, 2 linking, 4 resync needed. -/
  state : Nat := 0
  linked : Option Nat := none
  tryB : Bool := false
  batch : Nat := 0
  applied : Nat := 0
  appliedCut : Nat := 0
  cutTime : Nat := 0
  cutEpoch : Nat := 0
  bytes : Nat := 0
  durable : Nat := 0
  reopens : Nat := 0
  /-- Source: base and current snapshot numbers by volume index (0: empty base), the stream still to build, the records of
  the message being built, messages built and not durable, how many are sent, records so far, serials already sent, the
  chunk being read, and the layers of an overlay read so far. -/
  base : List Nat := []
  cur : List Nat := []
  resync : Bool := false
  todo : List StreamItem := []
  recs : List StreamRec := []
  msgs : Tab ReplMsg := []
  nextMsg : Nat := 1
  sent : Nat := 0
  total : Nat := 0
  sentSerials : List Nat := []
  reading : Option Nat := none
  mask : Nat := 0
  blocks : Tab Bytes := []
  /-- Target: messages held above a gap with their queue pair and tag, source serials to local ones, records applied, the
  END that waits for its boundary. -/
  held : Tab (Nat × Nat × ReplMsg) := []
  serials : Tab Nat := []
  got : Nat := 0
  endWait : Option (Nat × Nat × Nat) := none
  storing : Option Storing := none
  deriving DecidableEq, Repr

/-- Snapshots and relationships. -/
structure Rep where
  snaps : Tab Snap := []          -- by volume x 8,192 + number | 11 R334 | empty
  snapJobs : List (Nat × List (Nat × Nat)) := [] -- SNAP_CREATE jobs: volumes and numbers | 11 R332 | empty
  delJobs : List (Nat × Nat × Nat) := [] -- SNAP_DELETE jobs: volume, number | 11 R333 | empty
  rels : Tab RelRun := []         -- relationships, an unlisted one idle | 11 R336 | empty
  drops : List (Nat × Option Nat) := [] -- maps whose pages are released once no reader uses them, with the job that waits | 11 R323 | empty
  unreadable : List (Nat × Nat) := [] -- chunks marked UNREADABLE in a map: the map's key, chunk | 11 R327 | empty
  deriving DecidableEq, Repr

end Sys2Proof.Machine
end

