-- ==== Sys2Proof/Machine/State/Sec.lean ====
section
/-!
DEFINITION. Machine/State/Sec.lean: the cipher engine's slots and queue 2, the digest engine, the public-key
accelerator, the random source, boot NOR and fuses (chapter 14).
Field comments: width | chapter file, rule or table | reset value (DC n: log entry n).
-/
namespace Sys2Proof.Machine

/-- A cipher key slot (R389, R396). -/
structure KeySlot where
  key : Bytes := []               -- 256 bits; empty when the slot holds no key | 14 R389 | empty (any reset zeroes)
  retired : Bool := false         -- 1 | 14 R389 | 0
  purpose : Nat := 3              -- 8: 0 domain, 1 rotation, 2 KEK, 3 working, 4 root | 14 R396 | 3
  domain : Nat := 0               -- 16 | 14 R396 | 0
  version : Nat := 0              -- 16 | 14 R396 | 0
  kcv : Nat := 0                  -- 32 | 14 R396 | 0
  deriving DecidableEq, Repr

/-- A load or zeroise that waits for requests already admitted for its slot (Table 14.5). -/
structure KeyOp where
  slot : Nat
  zeroise : Bool
  key : Bytes
  deriving DecidableEq, Repr

/-- A boot slot's image and boot control record (Tables 14.11, 14.12). -/
structure BootSlot where
  present : Bool := true          -- the image passes steps 2-5 of Table 14.13 | 14 R402 | DC 9 (1)
  bodyOk : Bool := true           -- the main body passes step 6 | 14 R402 | DC 9 (1)
  attempts : Nat := 0             -- 8 | 14 T14.11 | DC 9 (0)
  confirmed : Bool := true        -- 8 | 14 T14.11 | DC 9 (1)
  commit : Bool := false          -- 8 | 14 T14.11 | DC 9 (0)
  security : Nat := 0             -- 32 | 14 T14.11 | DC 9 (0)
  version : Option Nat := none    -- 32, fw_version; none: as shipped | 14 T14.12 | as shipped
  digests : Option (Bytes × Bytes) := none  -- SHA-512 of stage 1 and body; none: as shipped | 14 R405 | as shipped
  lostPref : Bool := false        -- the slot has lost its preference | 14 R402 | 0
  deriving DecidableEq, Repr

/-- The digest engine (Table 14.16). -/
structure Digest where
  alg : BitVec 2 := 0             -- 2 | 14 T14.16 | 0
  hmac : Bool := false            -- 1 | 14 T14.16 | 0
  restore : Bool := false         -- 1 | 14 T14.16 | 0
  slot : BitVec 6 := 0            -- 6 | 14 T14.16 | 0
  lastBytes : BitVec 2 := 0       -- 2 | 14 T14.16 | 0
  busy : Bool := false            -- 1 | 14 T14.16 | 0
  done : Bool := false            -- 1 | 14 T14.16 | 0
  overrun : Bool := false         -- 1 | 14 T14.16 | 0
  denied : Bool := false          -- 1 | 14 T14.16 | 0
  slotDenied : Bool := false      -- 1 | 14 T14.16 | 0
  owner : Nat := 3                -- 2 | 14 T14.16 | 3
  pending : BitVec 3 := 0         -- 3 | 14 T14.16 | 0
  len : Nat := 0                  -- 128, DGT_LEN0-3 | 14 T14.16 | 0
  state : List Word := []         -- 16 x 32, DGT_STATE; empty reads 0 | 14 T14.16 | 0
  digest : List Word := []        -- 16 x 32, DGT_DIGEST; empty reads 0 | 14 T14.16 | 0
  buf : List Word := []           -- words of the block being written | 14 R397 | empty
  active : Bool := false          -- a message has been started | 14 R397 | 0
  deriving DecidableEq, Repr

/-- The security engines, boot NOR and fuses. -/
structure Sec where
  slots : Tab KeySlot := []       -- 4,096 cipher slots, an unlisted one empty | 14 R389 | empty
  keyData : List Word := [0, 0, 0, 0, 0, 0, 0, 0]  -- 8 x 32, CPH_KEY_DATA | 14 T14.15 | 0
  ctlSlot : BitVec 12 := 0        -- 12, CPH_KEY_CTL.slot | 14 T14.15 | 0
  ctlOp : Bool := false           -- 1, CPH_KEY_CTL.op | 14 T14.15 | 0
  keyOp : Option KeyOp := none    -- the operation while CPH_KEY_CTL.busy | 14 T14.15 | none (busy 0)
  kcv : Word := 0                 -- 32, CPH_KEY_KCV | 14 T14.15 | 0
  keyErr : Bool := false          -- 1, CPH_STAT.key_err | 14 T14.15 | 0
  q2Base : BitVec 64 := 0         -- 64, CPH_Q2_BASE | 14 T14.15 | 0
  q2Tail : BitVec 8 := 0          -- 8, CPH_Q2_TAIL | 14 T14.15 | 0
  q2Head : BitVec 8 := 0          -- 8, CPH_Q2_HEAD | 14 T14.15 | 0
  q2Full : Bool := false          -- 1, CPH_STAT.q2_full: 256 entries held | 14 T14.15 | 0
  q2Busy : List Nat := []         -- queue-2 entries that met a slot operation | 14 T14.5 | empty
  tagFail : Nat := 0              -- 16, CPH_ERR_CNT | 14 T14.15 | 0
  poisoned : Nat := 0             -- 16, CPH_ERR_CNT | 14 T14.15 | 0
  lodgeMem : Mem := []            -- DRAM bytes that Lodge firmware and queue 2 use | 14 R387 | DC 2 (0)
  rngReady : Bool := false        -- 1, RNG_STAT.ready | 14 T14.15 | 0
  rngHalted : Bool := false       -- 1, RNG_STAT.halted | 14 T14.15 | 0
  rct : Nat := 0                  -- 16, RNG_FAIL_CNT | 14 T14.15 | 0
  apt : Nat := 0                  -- 16, RNG_FAIL_CNT | 14 T14.15 | 0
  drbgReqs : Nat := 0             -- requests since the last reseed | 14 R401 | DC 1
  dgt : Digest := {}              -- digest engine | 14 T14.16 | T14.16
  dgtKeys : Tab Bytes := []       -- 64 digest key slots, an unlisted one empty | 14 R397 | DC 1 (empty)
  pkaQ : List Nat := []           -- operations submitted, first running (0 verify, 1 sign, 2 decrypt) | 14 R400 | empty
  pkaFault : Bool := false        -- 1, PKA_STAT.fault | 14 T14.17 | 0
  pkaOp : Nat := 0                -- 2, PKA_STAT.op | 14 T14.17 | 0
  pkaOps : Nat := 0               -- 16, PKA_STAT.ops | 14 T14.17 | 0
  fuseCount : Nat := 0            -- 0-64, blown rollback steps | 14 R403 | DC 9 (0)
  slotA : BootSlot := {}          -- XSPI0's slot | 14 T14.11 | DC 9
  slotB : BootSlot := {}          -- XSPI1's slot | 14 T14.11 | DC 9
  preferred : Nat := 0            -- 8, preferred slot of the boot control record | 14 R402 | DC 9 (0)
  running : Nat := 0              -- slot whose image runs or boots | 14 R402 | DC 9 (0)
  triedOther : Bool := false      -- this boot has tried the other slot | 14 R402 | 0
  norKek : Option Bytes := none   -- wrapped KEK in the NOR key store: nonce, ciphertext, tag | 14 R392 | DC 9 (none)
  norKekRole : Option Role := none -- the role whose KEK it is | 14 R392 | none
  kekRole : Option Role := none   -- role of the KEK in slot 3,072 | 14 R392 | none
  norOpKeys : Tab Bytes := []     -- operator keys of the NOR key store | 14 R406 | DC 9 (none)
  norArray : Option ArrayRec := none  -- array record summary at 0x0001_0000 | 08 R221 | DC 9 (none)
  queueKeys : List (Nat × Bool × Bytes) := []  -- queue keys held for a queue not yet open (queue, receive, key) | 14 R393 | empty
  deriving DecidableEq, Repr

end Sys2Proof.Machine
end

