-- ==== Sys2Proof/Machine/State/Sled.lean ====
section
/-!
DEFINITION. Machine/State/Sled.lean: the 1,024 sled ports and the identity records (chapter 10).
Field comments: width | chapter file, rule or table | reset value (DC n: log entry n).
-/
namespace Sys2Proof.Machine

/-- An accepted sled identity record (Table 10.16). -/
structure SledIdent where
  serial : Bytes
  dies : Nat
  planes : Nat
  blocks : Nat
  pages : Nat
  correction : Nat
  endurance : Nat
  tReadUs : Nat
  tProgUs : Nat
  tEraseUs : Nat
  maxTags : Nat
  suspend : Bool
  deriving DecidableEq, Repr

/-- An accepted shelf identity record (Table 10.17). -/
structure ShelfIdent where
  serial : Bytes
  pIdle : Nat
  pWake : Nat
  kMw : Nat
  wakeMs : Nat
  deriving DecidableEq, Repr

/-- What a sled command is for, so that its response finds its work. -/
inductive SledFor where
  /-- A piece of a fetch of stored content: which fetch, which piece. -/
  | fetch (f piece : Nat)
  /-- A verification read (R228) or an inspection read (R272) of a page of a block set. -/
  | verify (set page : Nat)
  | inspect (set page : Nat)
  /-- The program of a page of a block set. -/
  | program (set page : Nat)
  /-- The erase of the block at a die position of a block set. -/
  | erase (set pos : Nat)
  /-- The read of a Dovecote index group for a chunk of a command. -/
  | index (asn chunk : Nat)
  /-- A member read to harden a deferred row, or to rebuild a member. -/
  | member (row j : Nat)
  | info
  | lock (aux : Nat)
  | dieStatus
  deriving DecidableEq, Repr

/-- A sled command without response. -/
structure SledPend where
  why : SledFor
  cmd : SledCmd
  again : Bool := false
  deriving DecidableEq, Repr

/-- A flit to send: channel, end flag, payload. -/
structure TxFlit where
  vc : Nat
  endF : Bool
  payload : Bytes
  deriving DecidableEq, Repr

/-- One sled port (Table 10.19) and its link. -/
structure SPort where
  state : Nat := 0                -- 3, SLP_STAT.state | 10 T10.19 | 0
  usable : Bool := false          -- 1, SLP_STAT.usable | 10 T10.19 | 0
  lock : Nat := 0                 -- 2, SLP_STAT.lock | 10 T10.19 | 0
  bridgePort : Nat := 0           -- 1, SLP_STAT.bridge_port | 10 T10.19 | 0
  attempts : Nat := 0             -- 8, SLP_STAT.attempts | 10 T10.19 | 0
  en : Bool := true               -- 1, SLP_CTL.en | 10 T10.19 | 1
  sleepIdle : BitVec 8 := 50      -- 8, SLP_CTL.sleep_idle_us | 10 T10.19 | 50
  retrain : Bool := false         -- 1, SLP_CTL.retrain, read while RECOVERY runs | 10 T10.19 | 0
  test : Bool := false            -- 1, SLP_CTL.test, until the test ends | 10 T10.19 | 0
  testMbit : BitVec 16 := 954     -- 16, SLP_CTL.test_mbit | 10 T10.19 | 954
  cmdCr : Nat := 0                -- 8, SLP_CREDIT.cmd | 10 T10.19 | 0
  dataCr : Nat := 0               -- 12, SLP_CREDIT.data | 10 T10.19 | 0
  mgmtCr : Nat := 0               -- 8, SLP_CREDIT.mgmt | 10 T10.19 | 0
  nextSeq : Nat := 0              -- 12, SLP_SEQ.next_seq | 10 T10.19 | 0
  lastAck : Nat := 0              -- 12, SLP_SEQ.last_ack | 10 T10.19 | 0
  crc : Nat := 0                  -- 16, SLP_CRC_CNT.check | 10 T10.19 | 0
  framing : Nat := 0              -- 16, SLP_CRC_CNT.framing | 10 T10.19 | 0
  replays : Nat := 0              -- 16, SLP_REPLAY_CNT.replays | 10 T10.19 | 0
  naks : Nat := 0                 -- 16, SLP_REPLAY_CNT.naks | 10 T10.19 | 0
  recoveries : Nat := 0           -- 16, SLP_RETRAIN_CNT.recovery | 10 T10.19 | 0
  sessions : Nat := 0             -- 16, SLP_RETRAIN_CNT.sessions | 10 T10.19 | 0
  timeouts : Nat := 0             -- 16, SLP_CMD_ERR.timeouts | 10 T10.19 | 0
  protocol : Nat := 0             -- 16, SLP_CMD_ERR.protocol | 10 T10.19 | 0
  txPreset : Nat := 5             -- 3, SLP_PRESET.tx | 10 T10.19 | 5
  farPreset : Nat := 0            -- 3, SLP_PRESET.far | 10 T10.19 | 0
  prbsErr : Nat := 0              -- 32, SLP_PRBS_ERR | 10 T10.19 | 0
  powered : Bool := false         -- the port group is powered | 10 R285 | 0
  expSeq : Nat := 0               -- 12, seq expected next | 10 R290 | DC 1
  replay : List (Nat × TxFlit) := []  -- at most 64 flits not yet acknowledged, oldest first | 10 R290 | empty
  sinceSync : Nat := 0            -- data blocks sent since the last SYNC, below 1,024 | 10 R288 | DC 1
  lfsr : Nat := 0                 -- 23, the scrambler of the transmitter | 10 R287 | DC 1
  resends : Nat := 0              -- times the oldest flit was sent again without ack advance | 10 T10.14 | 0
  nakHeld : Bool := false         -- a NAK for expSeq was sent within 8 us | 10 R290 | 0
  tx : List TxFlit := []          -- flits that wait for credit and buffer room | 10 R292 | empty
  rxMsg : Bool := false           -- a received DATA message is open | 10 R291 | 0
  rxCmd : Nat := 32               -- 8, CMD credits the bridge holds | 10 R292 | 32
  rxData : Nat := 256             -- 12, DATA credits the bridge holds | 10 R292 | 256
  rxMgmt : Nat := 8               -- 8, MGMT credits the bridge holds | 10 R292 | 8
  maxTags : Nat := 0              -- 16, max_tags of TS2 | 10 T10.4 | 0
  infoOk : Bool := false          -- TS2 and BRIDGE_INFO agree with the record | 10 R311 | 0
  refused : Bool := false         -- R311 refused the sled as under reason 6 | 10 R311 | 0
  sleepReq : Bool := false        -- SLEEP_REQ waits for its answer | 10 R295 | 0
  testSeq : Option Nat := none    -- seq of a TEST_REQ not yet acknowledged | 10 R296 | none
  outst : Tab SledPend := []      -- commands without response by tag | 10 R294 | empty
  dead : List Nat := []           -- tags of timed-out commands | 10 T10.14 | empty
  waitq : List SledPend := []     -- commands that wait for the link or a tag | 10 R304 | empty
  deriving DecidableEq, Repr

/-- The sled ports and the identity records. -/
structure Sleds where
  ports : Tab SPort := []         -- 1,024 ports, an unlisted one at reset | 10 T10.19 | T10.19
  ended : List (Nat × SledPend × Nat) := []  -- commands ended ABANDONED, with port and outcome, not yet acted on | 10 R294 | empty
  sledRec : Tab SledIdent := []   -- latest accepted sled record by port | 10 R309 | empty
  shelfRec : Tab ShelfIdent := [] -- latest accepted shelf record | 10 R309 | empty
  sledUse : Tab SledIdent := []   -- sled record in effect since the shelf's last wake | 10 R309 | empty
  shelfUse : Tab ShelfIdent := [] -- shelf record in effect since its last wake | 10 R309 | empty
  refused : List (Nat × Nat × Nat) := []  -- refused records: shelf, slot, reason | 10 R310 | empty
  deriving DecidableEq, Repr

end Sys2Proof.Machine
end

