-- ==== Sys2Proof/Machine/State.lean ====
section
/-!
DEFINITION. Machine/State.lean: the state of the Nesutar, its faults and refusals, and the state after reset.
Each sub-structure stands in Machine/State/, its fields with width, rule and reset value beside them.
-/
namespace Sys2Proof.Machine

/-- Reasons for a stop with a fault. No command of this model faults: every command has an effect or leaves the state
as it is. -/
inductive Fault where
  /-- Kept so that the type is not empty; no meaning raises it. Safe: nothing depends on it. -/
  | none
  deriving DecidableEq, Repr

/-- Reasons for a refusal. -/
inductive Refusal where
  /-- Raised by Dispatch's arm of a command that has no meaning yet, with its mnemonic. Safe: the model stops. -/
  | notModelled (mnemonic : String)
  deriving DecidableEq, Repr

/-- The whole machine. -/
structure State where
  /-- The commands that wait, first in, first out. -/
  pending : List Instr := []
  /-- The outward trace (the model's own field). -/
  out : List Out := []
  /-- The number of free values drawn (the model's own field, log entry 5). -/
  draws : Nat := 0
  kiosk : Kiosk := { msixTab := (List.range 64).map (fun n => (16 * n + 12, 1#8)) }
  evt : Evt := {}
  mons : Mons := {}
  gh : Gh := {}
  ghx : Ghx := {}
  sec : Sec := {}
  dram : Dram := {}
  cns : Cns := {}
  sleds : Sleds := {}
  map : MapSt := {}
  plc : Plc := {}
  jrn : Jrn := {}
  ing : Ing := {}
  ftb : Ftb := {}
  pair : Pair := {}
  lat : Lat := {}
  rep : Rep := {}
  deriving DecidableEq, Repr

/-- The machine right after reset: every register at its stated reset value, or at the value a log entry names. -/
def State.reset : State := {}

end Sys2Proof.Machine
end

