-- ==== Sys2Proof/Machine/Tab.lean ====
section
/-!
DEFINITION. Machine/Tab.lean: the operations on sparse tables and byte stores, and the little-endian and bit-field
helpers that every layout of the manual uses (R9: multi-byte fields are little-endian).
-/
namespace Sys2Proof.Machine

/-! ### Sparse tables -/

/-- The entry of key k, if the table lists one. -/
def tget {α : Type} : Tab α → Nat → Option α
  | [], _ => none
  | (k', v) :: t, k => if k' = k then some v else tget t k

/-- The entry of key k, or d where the table lists none. -/
def tgetD {α : Type} (t : Tab α) (k : Nat) (d : α) : α := (tget t k).getD d

/-- Enter v under key k; keys stay in rising order. -/
def tset {α : Type} : Tab α → Nat → α → Tab α
  | [], k, v => [(k, v)]
  | (k', v') :: t, k, v =>
    if k < k' then (k, v) :: (k', v') :: t
    else if k = k' then (k, v) :: t
    else (k', v') :: tset t k v

/-- Remove key k. -/
def terase {α : Type} : Tab α → Nat → Tab α
  | [], _ => []
  | (k', v') :: t, k => if k' = k then t else (k', v') :: terase t k

/-- Apply f to the entry of key k, if there is one. -/
def tmod {α : Type} (t : Tab α) (k : Nat) (f : α → α) : Tab α :=
  match tget t k with
  | some v => tset t k (f v)
  | none => t

/-- Does the table list key k? -/
def thas {α : Type} (t : Tab α) (k : Nat) : Bool := (tget t k).isSome

/-- Apply f to every entry. -/
def tmap {α : Type} (f : Nat → α → α) (t : Tab α) : Tab α := t.map (fun p => (p.1, f p.1 p.2))

/-- Keep the entries that satisfy p. -/
def tfilter {α : Type} (p : Nat → α → Bool) (t : Tab α) : Tab α := t.filter (fun e => p e.1 e.2)

/-- The keys in rising order. -/
def tkeys {α : Type} (t : Tab α) : List Nat := t.map (·.1)

/-- The values in key order. -/
def tvals {α : Type} (t : Tab α) : List α := t.map (·.2)

/-- The lowest key at or above k that the table does not list, looking at no more than n keys. -/
def tfree {α : Type} (t : Tab α) (k : Nat) : Nat → Nat
  | 0 => k
  | n + 1 => if thas t k then tfree t (k + 1) n else k

/-- The keys of a table rise strictly. -/
def Tab.wf {α : Type} : Tab α → Bool
  | [] => true
  | [_] => true
  | (a, _) :: (b, v) :: t => decide (a < b) && Tab.wf ((b, v) :: t)

/-! ### Byte stores -/

/-- The byte at address a; an unlisted address reads as 0 (log entry 2). -/
def memGet : Mem → Nat → Byte
  | [], _ => 0
  | (a', b) :: m, a => if a' = a then b else memGet m a

/-- Store byte b at address a; a zero byte is not listed, so equal stores are equal lists. -/
def memPut : Mem → Nat → Byte → Mem
  | [], a, b => if b = 0 then [] else [(a, b)]
  | (a', b') :: m, a, b =>
    if a < a' then (if b = 0 then (a', b') :: m else (a, b) :: (a', b') :: m)
    else if a = a' then (if b = 0 then m else (a, b) :: m)
    else (a', b') :: memPut m a b

/-- Store a byte string from address a upward. -/
def memPuts : Mem → Nat → Bytes → Mem
  | m, _, [] => m
  | m, a, b :: bs => memPuts (memPut m a b) (a + 1) bs

/-- The n bytes from address a upward. -/
def memGets (m : Mem) (a : Nat) : Nat → Bytes
  | 0 => []
  | n + 1 => memGet m a :: memGets m (a + 1) n

/-- The canonical form: addresses rise strictly and no listed byte is 0. -/
def Memory.wf : Mem → Bool
  | [] => true
  | [(_, b)] => b != 0
  | (a, b) :: (a', b') :: m => (b != 0) && decide (a < a') && Memory.wf ((a', b') :: m)

/-! ### Little-endian fields (R9) -/

/-- The n-byte little-endian form of v. -/
def leN : Nat → Nat → Bytes
  | 0, _ => []
  | n + 1, v => BitVec.ofNat 8 v :: leN n (v / 256)

/-- The value of a little-endian byte string. -/
def leVal : Bytes → Nat
  | [] => 0
  | b :: bs => b.toNat + 256 * leVal bs

/-- The n bytes of bs from offset off; offsets beyond the end read as 0. -/
def bslice (bs : Bytes) (off n : Nat) : Bytes :=
  let t := (bs.drop off).take n
  t ++ List.replicate (n - t.length) 0

/-- The little-endian field of n bytes at offset off. -/
def fieldLE (bs : Bytes) (off n : Nat) : Nat := leVal (bslice bs off n)

/-- The byte at offset off. -/
def byteAt (bs : Bytes) (off : Nat) : Byte := bs.getD off 0

/-- Is every byte of the field of n bytes at offset off zero? -/
def zeroAt (bs : Bytes) (off n : Nat) : Bool := (bslice bs off n).all (· = 0)

/-- n zero bytes. -/
def zeros (n : Nat) : Bytes := List.replicate n 0

/-- A byte string cut or padded with zeros to n bytes. -/
def fit (n : Nat) (bs : Bytes) : Bytes := bslice bs 0 n

/-! ### Register words -/

/-- Pack fields, lowest first, each a width and a value taken modulo that width. -/
def packNat : List (Nat × Nat) → Nat
  | [] => 0
  | (w, v) :: fs => v % 2 ^ w + 2 ^ w * packNat fs

/-- A register word from its fields, lowest first (R10). -/
def packW (fs : List (Nat × Nat)) : Word := BitVec.ofNat 32 (packNat fs)

/-- The field of width w at bit lo of a word. -/
def bitsOf (x : Word) (lo w : Nat) : Nat := (x.toNat >>> lo) % 2 ^ w

/-- Bit i of a word. -/
def bitOf (x : Word) (i : Nat) : Bool := x.getLsbD i

/-- A flag as a number. -/
def b2n (b : Bool) : Nat := if b then 1 else 0

/-- A saturating counter of w bits: v + d, held at its greatest value (R173 and its like). -/
def satAdd (w v d : Nat) : Nat := min (v + d) (2 ^ w - 1)

/-- A counter field as it reads: saturated to w bits. -/
def satW (w v : Nat) : Nat := min v (2 ^ w - 1)

/-- Set bit i of a bit vector to b. -/
def setBit {w : Nat} (x : BitVec w) (i : Nat) (b : Bool) : BitVec w :=
  let m : BitVec w := BitVec.ofNat w (2 ^ i)
  if b then x ||| m else x &&& ~~~m

/-- The parity of a number of at most 64 bits. -/
def parityN (n : Nat) : Bool := (List.range 64).foldl (fun p i => xor p (n.testBit i)) false

/-- Serial-number comparison modulo 2^w: how far b lies ahead of a (R61, R290, R444). -/
def ahead (w a b : Nat) : Nat := (b + 2 ^ w - a % 2 ^ w) % 2 ^ w

/-- Division rounded up. -/
def cdiv (a b : Nat) : Nat := (a + b - 1) / b

/-- The first element that satisfies p, with the list lacking it. -/
def takeFirst {α : Type} (p : α → Bool) : List α → Option (α × List α)
  | [] => none
  | x :: xs =>
    if p x then some (x, xs)
    else match takeFirst p xs with
      | some (y, ys) => some (y, x :: ys)
      | none => none

/-- Replace every element that satisfies p by its image. -/
def modWhere {α : Type} (p : α → Bool) (f : α → α) (l : List α) : List α :=
  l.map (fun x => if p x then f x else x)

/-- The sum of a numeric measure over a list. -/
def sumBy {α : Type} (f : α → Nat) (l : List α) : Nat := l.foldl (fun n x => n + f x) 0

/-- The greatest value of a numeric measure over a list, 0 on the empty list. -/
def maxBy {α : Type} (f : α → Nat) (l : List α) : Nat := l.foldl (fun n x => max n (f x)) 0

end Sys2Proof.Machine
end

