-- ==== Sys2Proof/Machine/Events.lean ====
section
/-!
DEFINITION. Machine/Events.lean: operating time, free values, the outward trace, interrupt signalling and the event
recorder (R416, R33, R443 to R447).
-/
namespace Sys2Proof.Machine

/-- What a meaning answers. -/
abbrev Res := Host.Outcome State Fault Refusal

/-- Send something outward. -/
def emit (o : Out) (s : State) : State := { s with out := s.out ++ [o] }

/-- Send several things outward, in order. -/
def emits (os : List Out) (s : State) : State := { s with out := s.out ++ os }

/-- The operating time in seconds, hours x 3,600 + seconds within the hour (R49, R416). -/
def optime (s : State) : Nat := s.gh.hours * 3600 + s.gh.seconds

/-- Advance the counter of free draws (log entry 5). -/
def draw (s : State) : State := { s with draws := s.draws + 1 }

/-- The free number of the present draw. -/
def freeNat (s : State) : Nat := Config.freeValue s.draws 0

/-- n free bytes of the present draw. -/
def freeBytes (n : Nat) (s : State) : Bytes :=
  (List.range n).map (fun i => BitVec.ofNat 8 (Config.freeValue s.draws i))

/-- The 16-byte device serial (R45). -/
def deviceSerial : Bytes := (List.range 16).map Config.serialByte

/-- Signal an MSI-X vector: a masked entry leaves its pending bit set (PCIe; log entry 3). -/
def signalVec (v : Nat) (s : State) : State :=
  if (memGet s.kiosk.msixTab (16 * v + 12)).getLsbD 0 then
    { s with kiosk := { s.kiosk with msixPba := setBit s.kiosk.msixPba v true } }
  else emit (.msix v) s

/-- The 8 bytes of an event subject (Table 16.2). -/
def subjectBytes : Subject → Bytes
  | .none => zeros 8
  | .sramRow b m r => leN 1 1 ++ leN 1 b ++ leN 2 m ++ leN 2 r ++ zeros 2
  | .dramRow c r k w => leN 1 2 ++ leN 1 c ++ leN 1 r ++ leN 1 k ++ leN 3 w ++ zeros 1
  | .sledLane p => leN 1 3 ++ leN 2 p ++ zeros 5
  | .engineCore e c => leN 1 4 ++ leN 1 e ++ leN 1 c ++ zeros 5
  | .flashBlock g s d b => leN 1 5 ++ leN 1 g ++ leN 1 s ++ leN 1 d ++ leN 2 b ++ zeros 2
  | .dramRank c r => leN 1 6 ++ leN 1 c ++ leN 1 r ++ zeros 5
  | .shelf g => leN 1 7 ++ leN 1 g ++ zeros 6
  | .volume v => leN 1 8 ++ leN 4 v ++ zeros 3
  | .queuePair q => leN 1 9 ++ leN 2 q ++ zeros 5
  | .keySlot d k => leN 1 10 ++ leN 1 (b2n d) ++ leN 2 k ++ zeros 4
  | .claim c i => leN 1 11 ++ leN 1 c ++ leN 2 i ++ zeros 4

/-- The bytes of an event record (Table 16.7, R443); a filler is 8 header bytes and zeros. -/
def evBytes (r : EvRec) : Bytes :=
  let h := leN 1 (r.len / 4) ++ leN 1 r.cls ++ leN 2 r.typ ++ leN 4 r.seq
  if r.typ = 0 then fit r.len h
  else fit r.len (h ++ leN 3 r.hours ++ leN 2 r.seconds ++ leN 3 r.cycle ++ leN 2 r.repeats ++ zeros 2 ++
    leN 4 r.lastSeen ++ subjectBytes r.subject ++ r.detail)

/-- The length of a record with this detail: header, subject and detail of at most 224 bytes, in words (R443). -/
def evLen (detail : Bytes) : Nat := 32 + 4 * cdiv (min detail.length 224) 4

/-- The size of the event ring (R446). -/
def ringSize : Nat := 65536

/-- Does a record of n bytes fit at place p of an area of size z: it leaves no bytes or at least 8 (R446). -/
def evFits (z p n : Nat) : Bool := decide (p + n = z) || decide (p + n + 8 ≤ z)

/-- The next filler of a remainder of r bytes: the largest that leaves nothing or at least 8 (log entry 6). -/
def fillerLen (r : Nat) : Nat := if r ≤ 256 then r else if r - 256 < 8 then 248 else 256

/-- Count a class in a list of five counters. -/
def bumpClass (c : Nat) (l : List Nat) : List Nat := l.set c (l.getD c 0 + 1)

/-- Is sequence number a after b in serial arithmetic modulo 2^32 (R444)? -/
def seqAfter (a b : Nat) : Bool := decide (0 < ahead 32 b a) && decide (ahead 32 b a < 2 ^ 31)

/-- Drop from the ring's front the records that the bytes from p of length n overwrite; each not yet persisted is
counted lost (R446). The number dropped comes back beside the rest. -/
def evDrop (persist p n : Nat) : List EvRec → List EvRec × Nat
  | [] => ([], 0)
  | r :: rs =>
    if p < r.off + r.len ∧ r.off < p + n then
      let (rs', k) := evDrop persist p n rs
      (rs', k + b2n (seqAfter r.seq persist))
    else (r :: rs, 0)

/-- Write a record at the current ring place: overwritten records go, head, tail and place move (R446). -/
def ringPut (r : EvRec) (e : Evt) : Evt :=
  let r := { r with off := e.place, seq := e.nextSeq.toNat }
  let (old, k) := evDrop e.persistSeq.toNat r.off r.len e.recs
  let recs := old ++ [r]
  { e with
    ring := memPuts e.ring r.off (evBytes r)
    recs := recs
    place := (r.off + r.len) % ringSize
    headSeq := BitVec.ofNat 32 r.seq
    headOff := BitVec.ofNat 16 r.off
    tailSeq := BitVec.ofNat 32 ((recs.head?.map (·.seq)).getD 0)
    tailOff := BitVec.ofNat 16 ((recs.head?.map (·.off)).getD 0)
    lost := satAdd 32 e.lost k
    nextSeq := e.nextSeq + 1
    sinceAppend := e.sinceAppend + r.len }

/-- A filler record of n bytes (R443). -/
def fillerRec (n : Nat) : EvRec :=
  { off := 0, len := n, cls := 0, typ := 0, seq := 0, hours := 0, seconds := 0, cycle := 0, repeats := 0,
    lastSeen := 0, subject := .none, detail := [] }

/-- Cover the remainder of the ring with fillers (R446); a remainder is below 264 bytes, so two suffice. -/
def ringFill (e : Evt) : Evt :=
  let e := ringPut (fillerRec (fillerLen (ringSize - e.place))) e
  if e.place = 0 then e else ringPut (fillerRec (ringSize - e.place)) e

/-- Place a record in the ring, after fillers where it does not fit at the current place (R446). -/
def ringAdd (r : EvRec) (e : Evt) : Evt :=
  if evFits ringSize e.place r.len then ringPut r e else ringPut r (ringFill e)

/-- Does an event merge into record r (R445)? -/
def evMerges (typ : Nat) (subj : Subject) (r : EvRec) : Bool :=
  decide (r.typ = typ) && decide (r.subject = subj) && decide (r.repeats < 0xFFFF)

/-- Merge an occurrence at operating time t into the newest record (R445). -/
def evMerge (t : Nat) (r : EvRec) (e : Evt) : Evt :=
  let r := { r with repeats := r.repeats + 1, lastSeen := satW 32 (t - (r.hours * 3600 + r.seconds)) }
  { e with
    ring := memPuts e.ring r.off (evBytes r)
    recs := e.recs.dropLast ++ [r]
    mergeCnt := e.mergeCnt + 1 }

/-- Record an event (R443 to R446): subsystem, low byte of Table 16.8, class, subject, detail. It merges into the
newest record, or is added; a record of class 3 and above signals the event vector (R436). -/
def record (sub lo cls : Nat) (subj : Subject) (detail : Bytes) (s : State) : State :=
  let typ := 256 * sub + lo
  match s.evt.recs.getLast? with
  | some r =>
    if evMerges typ subj r then { s with evt := evMerge (optime s) r s.evt }
    else recordNew typ cls subj detail s
  | none => recordNew typ cls subj detail s
where
  /-- Add a new record with its header fields (Table 16.7). -/
  recordNew (typ cls : Nat) (subj : Subject) (detail : Bytes) (s : State) : State :=
    let r : EvRec :=
      { off := 0, len := evLen detail, cls := cls, typ := typ, seq := 0, hours := s.gh.hours,
        seconds := s.gh.seconds, cycle := s.gh.pwrCycle, repeats := 0, lastSeen := 0, subject := subj,
        detail := detail.take 224 }
    let e := ringAdd r s.evt
    let e := { e with
      counts := bumpClass cls e.counts
      sumSince := bumpClass cls e.sumSince
      unrestored := if subj = .none ∨ cls < 1 then e.unrestored else (subj, cls) :: e.unrestored }
    let s := { s with evt := e }
    if 3 ≤ cls ∧ s.kiosk.evtEn then signalVec s.kiosk.evtVector.toNat s else s

/-- R448: what the event of a refused later format names: the format, by its row of Table 16.10 counted from 1, and the version (log
entry 143). -/
def laterFormat (row version : Nat) : Bytes := if 1 < version then leN 1 row ++ leN 2 version else []

/-- Record a state change, configuration change or the like with no detail. -/
def note (sub lo cls : Nat) (s : State) : State := record sub lo cls .none [] s

/-- The resource of a subject is restored: SYS_HEALTH.worst no longer counts it (R451). -/
def restored (subj : Subject) (s : State) : State :=
  { s with evt := { s.evt with unrestored := s.evt.unrestored.filter (fun p => p.1 ≠ subj) } }

end Sys2Proof.Machine
end

