-- ==== Sys2Proof/Machine/Probes.lean ====
section
/-!
DEFINITION. Machine/Probes.lean: the latency monitor units and the transactions of their probes (R440, R441, Table 16.5).
-/
namespace Sys2Proof.Machine

/-- Monitor unit u; an unlisted one is at reset. -/
def monOf (s : State) (u : Nat) : Mon := tgetD s.mons.units u {}

/-- Replace monitor unit u. -/
def setMon (u : Nat) (m : Mon) (s : State) : State :=
  { s with mons := { s.mons with units := tset s.mons.units u m } }

/-- The bucket of latency L (R441). -/
def monBucket (l : Nat) : Nat :=
  if l < 4 then l
  else if 131072 ≤ l then 63
  else
    let e := Nat.log2 l
    4 * (e - 1) + (l >>> (e - 2)) % 4

/-- Count one transaction of latency L (R441); every counter saturates. -/
def monAdd (l : Nat) (v : MonVals) : MonVals :=
  { v with
    count := satAdd 64 v.count 1
    sum := satAdd 64 v.sum l
    min := Nat.min v.min (satW 32 l)
    max := Nat.max v.max (satW 32 l)
    overCnt := if 131072 ≤ l then satAdd 32 v.overCnt 1 else v.overCnt
    buckets := tset v.buckets (monBucket l) (satAdd 32 (tgetD v.buckets (monBucket l) 0) 1) }

/-- Does a unit count a transaction of a probe with a filter value that started at a stamp? A probe without a filter
(14, 17) is admitted by every filter value. -/
def monHits (probe filter stamp : Nat) (m : Mon) : Bool :=
  m.running && decide (m.probe.toNat = probe) && decide (m.armStamp ≤ stamp) &&
    (decide (m.filter = 0xFFFFFFFF) || decide (probe = 14) || decide (probe = 17) || decide (m.filter.toNat = filter))

/-- Count a transaction of a probe with a filter value that started at a stamp, in every unit that watches it (R440);
its latency is a free value, because the model has no clock (log entry 7). -/
def Mons.seeing (probe filter stamp : Nat) (m : Mons) : Mons :=
  if !(tvals m.units).any (monHits probe filter stamp) then m
  else
    let l := Config.monLatency m.seen
    { m with
      seen := m.seen + 1
      units := tmap (fun _ u =>
        if monHits probe filter stamp u then { u with live := monAdd (l / 2 ^ u.scale.toNat) u.live } else u) m.units }

/-- Transaction id of a probe starts: its stamp is kept where a running unit watches the probe. -/
def Mons.starting (probe id : Nat) (m : Mons) : Mons :=
  if (tvals m.units).any (fun u => u.running && decide (u.probe.toNat = probe)) then
    { m with starts := tset m.starts (id * 64 + probe) m.stamp }
  else m

/-- Transaction id of a probe ends, and is counted if its start was seen. -/
def Mons.ending (probe id filter : Nat) (m : Mons) : Mons :=
  match tget m.starts (id * 64 + probe) with
  | none => m
  | some k => ({ m with starts := terase m.starts (id * 64 + probe) } : Mons).seeing probe filter k

/-- Count a transaction that started at a stamp. -/
def monCount (probe filter stamp : Nat) (s : State) : State := { s with mons := s.mons.seeing probe filter stamp }

/-- Transaction id of a probe starts. -/
def monBegin (probe id : Nat) (s : State) : State := { s with mons := s.mons.starting probe id }

/-- Transaction id of a probe ends. -/
def monEnd (probe id filter : Nat) (s : State) : State := { s with mons := s.mons.ending probe id filter }

/-- A transaction of a probe that the model starts and ends in one step (log entry 137). -/
def monAt (probe filter : Nat) (s : State) : State := monCount probe filter s.mons.stamp s

end Sys2Proof.Machine
end

