-- ==== Sys2Proof/Machine/Ops.lean ====
section
/-!
DEFINITION. Machine/Ops.lean: the shared operations of the Lodge: mailboxes and their responses, jobs, claims, and the
frame in which every Basmos command runs (chapter 02).
-/
namespace Sys2Proof.Machine

/-! ### Mailboxes -/

/-- Mailbox n as it stands; an unlisted one is at reset with its own number as vector (Table 2.5). -/
def mbxOf (s : State) (n : Nat) : Mbx := tgetD s.kiosk.mbx n { vector := BitVec.ofNat 6 n }

/-- Replace mailbox n. -/
def setMbx (n : Nat) (m : Mbx) (s : State) : State :=
  { s with kiosk := { s.kiosk with mbx := tset s.kiosk.mbx n m } }

/-- The request header and payload bytes of a mailbox. -/
def reqByte (m : Mbx) (off n : Nat) : Nat := leVal (memGets m.req off n)

/-- A response header (Table 2.10): opcode, seq, length, flags, status, session, part. -/
def respHeader (opcode seq len flags status session part : Nat) : Bytes :=
  leN 2 opcode ++ leN 2 seq ++ leN 2 len ++ leN 1 flags ++ leN 1 status ++ leN 4 session ++ leN 2 part ++ zeros 2

/-- The Lodge writes the whole response area and KSK_MBX_INFO, then enters DONE and signals (R36 step 5); a response
that a Function Level Reset discards leaves the mailbox IDLE (Table 2.8). -/
def finishMbx (n : Nat) (resp : Bytes) (s : State) : State :=
  let m := mbxOf s n
  let m := { m with msg := none, partAck := false, longRun := false, cancel := false, ticket := none }
  if m.discard then
    emit (.mbxDiscarded n) (setMbx n { m with discard := false, state := .idle } s)
  else
    let m := { m with
      resp := memPuts [] 0 (fit 448 resp)
      respLen := BitVec.ofNat 9 resp.length
      lastSeq := BitVec.ofNat 16 (fieldLE resp 2 2)
      status := byteAt resp 7
      state := .done }
    let s := emit (.mbxDone n) (setMbx n m (monEnd 18 n n s))
    let s := if m.irqEn then signalVec m.vector.toNat s else s
    if n = 63 ∧ m.holder = 2 then { s with kiosk := { s.kiosk with smbAlert := true } } else s

/-- Complete the request of mailbox n with a status and no payload, copying its header (R38, R39). -/
def finishStatus (n : Nat) (st : Status) (s : State) : State :=
  let m := mbxOf s n
  finishMbx n (respHeader (reqByte m 0 2) (reqByte m 2 2) 0 (reqByte m 6 1 % 2) st.code (reqByte m 8 4)
    (reqByte m 12 2)) s

/-- What a Basmos command answers: its status, its payload, and whether it started a job (R37). -/
structure BRes where
  status : Status
  payload : Bytes := []
  async : Bool := false
  deriving DecidableEq, Repr

/-- SUCCESS with a payload. -/
def BRes.ok (p : Bytes := []) : BRes := { status := .success, payload := p }

/-- A failure with a status. -/
def BRes.fail (st : Status) : BRes := { status := st }

/-- Cut a payload into response parts of at most 432 bytes (R44), looking at no more than k parts. -/
def cutParts : Nat → Bytes → List Bytes
  | 0, _ => []
  | k + 1, bs => if bs.length ≤ 432 then [bs] else bs.take 432 :: cutParts k (bs.drop 432)

/-- Write response part number part of a message: more is set while parts follow, cont after the first (R44). -/
def writePart (n op seq level session status : Nat) (async : Bool) (part : Nat) (parts : List Bytes) (s : State) :
    State :=
  match parts with
  | [] => s
  | p :: rest =>
    let flags := level + 2 * b2n (!rest.isEmpty) + 4 * b2n (decide (0 < part)) + 8 * b2n async
    let m := mbxOf s n
    let s := setMbx n { m with more := rest, morePart := part + 1, moreOp := op } s
    finishMbx n (respHeader op seq p.length flags status session part ++ p) s

/-- Answer the message of mailbox n (R36, R44). -/
def answer (n : Nat) (msg : BMsg) (r : BRes) (s : State) : State :=
  writePart n msg.opcode msg.seq (b2n msg.expert) msg.session r.status.code r.async 0
    (cutParts 65536 r.payload) s

/-- Answer a request that waited for a later event, if mailbox n still carries it (R37). -/
def answerLate (n : Nat) (r : BRes) (s : State) : State :=
  match (mbxOf s n).msg with
  | some msg => if (mbxOf s n).longRun then answer n msg r s else s
  | none => s

/-- The outcome of a Basmos handler: an answer now, or none until a later event. -/
inductive BAns where
  | now (r : BRes)
  | later
  deriving Repr

/-- Is the Lodge limited to other opcodes: a refused board record (R477), or DRAM not in service (R338)? -/
def lodgeLimited (s : State) (op : Nat) : Bool :=
  (s.ghx.boardRefused && !([0x0100, 0x0101, 0x0103, 0x0900, 0x0901].contains op)) ||
    (s.dram.outOfService && !([0x0100, 0x0101, 0x0103, 0x0600, 0x0900, 0x0901].contains op))

/-- The frame of a Basmos command (R39, R43): mailbox n must be RUNNING with a complete message of this opcode; a
cancel asked before anything is applied ends it ABORTED; the payload must have the opcode's layout; then the handler
runs, and its answer is written. -/
def basmos (n op : Nat) (layout : Bytes → Bool) (h : Bytes → State → BAns × State) (s : State) : State :=
  let m := mbxOf s n
  match m.msg with
  | none => s
  | some msg =>
    if m.state ≠ .running ∨ msg.opcode ≠ op ∨ m.longRun then s
    else if m.cancel then answer n msg (.fail .aborted) s
    else if !layout msg.payload then answer n msg (.fail .invalidField) s
    else if lodgeLimited s op then answer n msg (.fail .denied) s
    else
      match h msg.payload s with
      | (.now r, s') => answer n msg r s'
      | (.later, s') => setMbx n { mbxOf s' n with longRun := true } s'

/-- A layout of exactly n bytes whose listed reserved spans (offset, size) are 0 (R43). -/
def layoutIs (n : Nat) (reserved : List (Nat × Nat)) (p : Bytes) : Bool :=
  decide (p.length = n) && reserved.all (fun r => zeroAt p r.1 r.2)

/-- The answer and an unchanged state. -/
def refuse (st : Status) (s : State) : BAns × State := (.now (.fail st), s)

/-- Is the message of mailbox n an expert one? -/
def isExpert (s : State) (n : Nat) : Bool := ((mbxOf s n).msg.map (·.expert)).getD false

/-! ### Jobs (R37) -/

/-- The number of jobs that run. -/
def jobsRunning (s : State) : Nat := (tvals s.kiosk.jobs).countP (fun j => !j.finished)

/-- The 32-bit number of the k-th job. -/
def jobNo (k : Nat) : Nat := Config.jobNumber k % 2 ^ 32

/-- Start a job: its key, or none when 256 run (R37). -/
def startJob (op subj aux : Nat) (s : State) : Option (Nat × State) :=
  if 256 ≤ jobsRunning s then none
  else
    let k := s.kiosk.jobCount
    some (k, { s with kiosk := { s.kiosk with
      jobs := tset s.kiosk.jobs k { opcode := op, subj := subj, aux := aux }, jobCount := k + 1 } })

/-- The answer of a command that started job k: async, the job number as payload (R37). -/
def jobAnswer (k : Nat) : BAns := .now { status := .success, payload := leN 4 (jobNo k), async := true }

/-- Start a job and continue with its key; EXHAUSTED when 256 run. -/
def withJob (op subj aux : Nat) (s : State) (f : Nat → State → State) : BAns × State :=
  match startJob op subj aux s with
  | some (k, s') => (jobAnswer k, f k s')
  | none => refuse .exhausted s

/-- Finish job k with a status and result, if it runs. -/
def finishJob (k : Nat) (st : Status) (result : Bytes) (s : State) : State :=
  { s with kiosk := { s.kiosk with jobs := tmod s.kiosk.jobs k (fun j =>
      if j.finished then j else { j with finished := true, status := st, result := result }) } }

/-- Finish every running job that satisfies p. -/
def finishJobs (p : Job → Bool) (st : Status) (result : Bytes) (s : State) : State :=
  { s with kiosk := { s.kiosk with jobs := tmap (fun _ j =>
      if !j.finished && p j then { j with finished := true, status := st, result := result } else j) s.kiosk.jobs } }

/-- Does a job of this opcode run? -/
def jobRuns (s : State) (op : Nat) : Bool := (tvals s.kiosk.jobs).any (fun j => !j.finished && decide (j.opcode = op))

/-- The key of the first running job that satisfies p. -/
def jobKey (s : State) (p : Job → Bool) : Option Nat :=
  (s.kiosk.jobs.find? (fun e => !e.2.finished && p e.2)).map (·.1)

/-! ### Claims (R52, R54) -/

/-- The key of a claim: class and index. -/
def claimKey (cls idx : Nat) : Nat := cls * 65536 + idx

/-- The indices of a claimable class (Table 2.17). -/
def claimCount : Nat → Nat
  | 1 => 16 | 2 => 8 | 3 => 32 | 4 => 4 | 5 => 4096 | 6 => 64 | 7 => 1 | _ => 0

/-- A holder record (Table 2.15). -/
def holderRecord (cls path idx holder : Nat) : Bytes :=
  leN 1 cls ++ leN 1 path ++ leN 2 idx ++ leN 2 holder ++ zeros 2

/-- The holder of a claim, if it is claimed. -/
def claimHolder (s : State) (cls idx : Nat) : Option Nat :=
  (tget s.kiosk.claims (claimKey cls idx)).map (·.holder)

/-- The holder number of a command through mailbox n: the mailbox, or the expert session (R52). -/
def claimant (n : Nat) (expert : Bool) : Nat := if expert then 0x0200 else 0x0100 + n

/-- Enter a claim. -/
def setClaim (cls idx holder : Nat) (s : State) : State :=
  { s with kiosk := { s.kiosk with claims := tset s.kiosk.claims (claimKey cls idx) { holder := holder } } }

/-- Release a claim; a claim laid over a Lodge function's returns to it (R54). -/
def dropClaim (cls idx : Nat) (s : State) : State :=
  match (tget s.kiosk.claims (claimKey cls idx)).bind (·.under) with
  | some h => setClaim cls idx h s
  | none => { s with kiosk := { s.kiosk with claims := terase s.kiosk.claims (claimKey cls idx) } }

/-- RESOURCE_CLAIMED with the holder record (R52). -/
def claimedBy (cls idx holder : Nat) : BRes :=
  { status := .resourceClaimed, payload := holderRecord cls 0 idx holder }

/-- Is the resource free for this claimant (unclaimed, or already its own)? -/
def claimFree (s : State) (cls idx holder : Nat) : Bool :=
  match claimHolder s cls idx with
  | none => true
  | some h => decide (h = holder)

/-- Note that an expert command has set a forced state (R47). -/
def force (op : Nat) (s : State) : State :=
  if op ∈ s.kiosk.forced then s else { s with kiosk := { s.kiosk with forced := op :: s.kiosk.forced } }

/-- A forced state no longer stands. -/
def unforce (op : Nat) (s : State) : State :=
  { s with kiosk := { s.kiosk with forced := s.kiosk.forced.filter (· ≠ op) } }

/-- The lowest enabled user of three enable bits (R54). -/
def lowestUser (en : BitVec 3) : Nat := if en.getLsbD 0 then 0 else if en.getLsbD 1 then 1 else 2

/-- The number of enabled users. -/
def usersOn (en : BitVec 3) : Nat := b2n (en.getLsbD 0) + b2n (en.getLsbD 1) + b2n (en.getLsbD 2)

/-! ### Self-tests (R438) -/

/-- A flash block is tested at its next erase (R438). -/
def atErase : Subject → Bool
  | .flashBlock _ _ _ _ => true
  | _ => false

/-- Start the targeted self-test of a resource that has erred (R438): an error on a resource whose test waits or runs
joins that test; at most 64 run, and a further one waits (Table 16.4). -/
def startTest (subj : Subject) (errSeq : Option Nat) (s : State) : State :=
  let e := s.evt
  if (e.running ++ e.waiting).any (fun t => decide (t.subject = subj)) then s
  else if e.running.length < 64 ∧ !atErase subj then
    { s with evt := { e with running := e.running ++ [{ subject := subj, errSeq := errSeq }], tests := satAdd 32 e.tests 1 } }
  else { s with evt := { e with waiting := e.waiting ++ [{ subject := subj, errSeq := errSeq, waited := !atErase subj }] } }

/-- The erase of a flash block begins the test that waits for it. -/
def testAtErase (subj : Subject) (s : State) : State :=
  match s.evt.waiting.find? (fun t => decide (t.subject = subj)) with
  | none => s
  | some t => { s with evt := { s.evt with
      running := s.evt.running ++ [t], waiting := s.evt.waiting.filter (fun t => decide (t.subject ≠ subj))
      tests := satAdd 32 s.evt.tests 1 } }

/-- Record an error on a resource and start its self-test (R436, R438). -/
def errorOn (sub cls : Nat) (subj : Subject) (detail : Bytes) (s : State) : State :=
  let s := record sub 1 cls subj detail s
  startTest subj (some s.evt.headSeq.toNat) s

end Sys2Proof.Machine
end

