-- ==== Sys2Proof/Machine/Dimm.lean ====
section
/-!
DEFINITION. Machine/Dimm.lean: the DRAM channels and ranks as other parts use them (R339, R360).
-/
namespace Sys2Proof.Machine

/-- DRAM channel n; an unlisted one is at reset. -/
def dmcOf (s : State) (n : Nat) : Dmc := tgetD s.dram.ch n {}

/-- Replace channel n. -/
def setDmc (n : Nat) (c : Dmc) (s : State) : State := { s with dram := { s.dram with ch := tset s.dram.ch n c } }

/-- Rank r of a channel. -/
def rankOf (c : Dmc) (r : Nat) : DRank := tgetD c.ranks r {}

/-- Replace rank r of a channel. -/
def setRank (r : Nat) (v : DRank) (c : Dmc) : Dmc := { c with ranks := tset c.ranks r v }

/-- The number of ranks present. -/
def ranksPresent (c : Dmc) : Nat := (List.range 4).countP (fun r => (rankOf c r).present)

/-- Is rank r in service in a serving channel? -/
def rankServes (c : Dmc) (r : Nat) : Bool := decide (c.state = 2) && (rankOf c r).present && !(rankOf c r).retired

/-- Does DMC_GEOM.lock stand in any channel (R361)? -/
def dramLocked (s : State) : Bool := (tvals s.dram.ch).any (·.lock)

/-- The usable GiB of a channel: ranks present, neither withdrawn nor kept as a spare. -/
def usableRanks (c : Dmc) : Nat :=
  (List.range 4).countP (fun r => (rankOf c r).present && !(rankOf c r).withdrawn &&
    !(c.spareValid && decide (r = c.spare)) && !(rankOf c r).retired)

/-- The usable GiB of the head. -/
def usableGib (s : State) : Nat := sumBy (fun n => usableRanks (dmcOf s n) * Config.dimmRankGib) (List.range 24)

/-! ### Address map (R343 to R345) -/

/-- The bank number (bank group x 4 + bank) and row of a channel address (R345). -/
def bankRow (c : Dmc) (ca : Nat) : Nat × Nat :=
  let bit (k : Nat) : Nat := b2n (parityN (ca / 64 % 2 ^ 34 &&& ((c.bankHash.getD k 0).toNat)))
  let bg := bit 0 + 2 * bit 1 + 4 * bit 2
  (bg * 4 + bit 3 + 2 * bit 4, ca >>> (12 + c.colBits.toNat) % 2 ^ c.rowBits.toNat)

/-- The hashed channel number of q over the low n masks. -/
def hashChan (s : State) (n q : Nat) : Nat :=
  sumBy (fun i => 2 ^ i * b2n (parityN (q % 2 ^ 34 &&& (s.dram.chanHash.getD i 0).toNat))) (List.range n)

/-- The channel and channel address of a physical address: main, keep or tail window. -/
def placeAddr (s : State) (pa : Nat) : Nat × Nat :=
  let gib := 2 ^ 30
  let m := s.dram.mainGib
  let k := s.dram.keepGib
  if pa < 24 * m * gib then
    let g := pa / 256
    (8 * (g % 3) + hashChan s 3 (g / 3), g / 3 / 8 * 256 + pa % 256)
  else if pa < (24 * m + 4 * k) * gib then
    let o := pa - 24 * m * gib
    (hashChan s 2 (o / 256), m * gib + o / 256 / 4 * 256 + o % 256)
  else
    let o := pa - (24 * m + 4 * k) * gib
    let g := o / 256
    (4 + 4 * (g % 5) + hashChan s 2 (g / 5), m * gib + g / 5 / 4 * 256 + o % 256)

/-! ### Requests and their order (R351, R352) -/

/-- The urgency of a request at a time: 0 until half of its target is left, then 1, 2 at a quarter and 3 at none. -/
def urgency (now : Nat) (q : DReq) : Nat :=
  let rest := q.t0 + q.target - now
  if rest = 0 then 3 else if 4 * rest ≤ q.target then 2 else if 2 * rest ≤ q.target then 1 else 0

/-- Does the request name the row that its bank served last? -/
def rowHit (s : State) (q : DReq) : Bool := decide (tget s.dram.rows (q.ch * 32 + q.bank) = some q.row)

/-- Is request a, the older of the two, served before b (R352)? The highest urgency first; within urgency 3 the earliest
deadline; within a lower one a row hit, then the oldest. -/
def servedFirst (s : State) (a b : DReq) : Bool :=
  let ua := urgency s.dram.clock a
  let ub := urgency s.dram.clock b
  if ua ≠ ub then decide (ub < ua)
  else if ua = 3 then decide (a.t0 + a.target ≤ b.t0 + b.target)
  else rowHit s a || !rowHit s b

/-- The request that a channel serves next. -/
def nextRequest (s : State) (ch : Nat) : Option DReq :=
  (s.dram.reqs.filter (fun q => decide (q.ch = ch))).foldl (fun best q => match best with
    | some b => if servedFirst s b q then some b else some q
    | none => some q) none

/-- A request arrives on a port for a physical address (R351). -/
def dramRequest (port pa : Nat) (s : State) : State :=
  let p := placeAddr s pa
  let b := bankRow (dmcOf s p.1) p.2
  { s with dram := { s.dram with reqs := s.dram.reqs ++ [{
      port := port, target := s.dram.qos.getD port 0, t0 := s.dram.clock, stamp := s.mons.stamp, ch := p.1, bank := b.1, row := b.2 }] } }

/-- A serving channel serves its next request. -/
def serveChannel (ch : Nat) (s : State) : State :=
  if (dmcOf s ch).state ≠ 2 then s
  else match nextRequest s ch with
    | some q => monCount 12 q.port q.stamp { s with dram := { s.dram with
        reqs := s.dram.reqs.erase q, rows := tset s.dram.rows (q.ch * 32 + q.bank) q.row } }
    | none => s

/-- One tick of 100 ns of the DRAM controller: every channel serves one request (log entry 120). -/
def dramTick (s : State) : State :=
  let s := (List.range 24).foldl (fun s ch => serveChannel ch s) s
  { s with dram := { s.dram with clock := s.dram.clock + 1 } }

/-- Can the remaining DRAM hold both journal regions, the keep area, the replay tables, a 256 MiB staging pool and the
16 GiB Lodge reserve (R360)? -/
def dramSuffices (s : State) : Bool := decide (2 * s.jrn.ownGib + 4 * s.dram.keepGib + 1 + 16 ≤ usableGib s)

end Sys2Proof.Machine
end

