-- ==== Sys2Proof/Machine/ShelfCode.lean ====
section
/-!
DEFINITION. Machine/ShelfCode.lean: the arithmetic of the shelf code and of die parity (R226, R229, R230).
-/
namespace Sys2Proof.Machine

/-- Multiply by α in GF(2^8) with x^8 + x^4 + x^3 + x^2 + 1. -/
def rsX (a : Byte) : Byte := if a.getLsbD 7 then (a <<< 1) ^^^ 0x1D else a <<< 1

/-- The product in GF(2^8), over the low k bits of b. -/
def rsMulK : Nat → Byte → Byte → Byte
  | 0, _, _ => 0
  | k + 1, a, b => (if b.getLsbD 0 then a else 0) ^^^ rsMulK k (rsX a) (b >>> 1)

/-- The product in GF(2^8). -/
def rsMul (a b : Byte) : Byte := rsMulK 8 a b

/-- The power α^n. -/
def rsAlpha : Nat → Byte
  | 0 => 1
  | n + 1 => rsX (rsAlpha n)

/-- The power a^n. -/
def rsPow (a : Byte) : Nat → Byte
  | 0 => 1
  | n + 1 => rsMul a (rsPow a n)

/-- The inverse a^254. -/
def rsInv (a : Byte) : Byte :=
  let a2 := rsMul a a; let a4 := rsMul a2 a2; let a8 := rsMul a4 a4; let a16 := rsMul a8 a8
  let a32 := rsMul a16 a16; let a64 := rsMul a32 a32; let a128 := rsMul a64 a64
  rsMul a2 (rsMul a4 (rsMul a8 (rsMul a16 (rsMul a32 (rsMul a64 a128)))))

/-- The exclusive-or of two byte strings; the shorter counts as continued with zeros. -/
def xorBytes : Bytes → Bytes → Bytes
  | [], b => b
  | a, [] => a
  | x :: xs, y :: ys => (x ^^^ y) :: xorBytes xs ys

/-- Every byte times c. -/
def rsScale (c : Byte) (bs : Bytes) : Bytes := if c = 1 then bs else bs.map (rsMul c)

/-- The weight of member j in c(α^i): α^(i (31 − j)) (R229). -/
def rsWeight (i j : Nat) : Byte := rsAlpha (i * (31 - j) % 255)

/-- Add member j's page to the four accumulated sums Σ c_j α^(i (31 − j)) (R230, R232). -/
def rsAccumulate (acc : List Bytes) (j : Nat) (page : Bytes) : List Bytes :=
  (List.range 4).map (fun i => xorBytes (acc.getD i []) (rsScale (rsWeight i j) page))

/-- The product of two polynomials over GF(2^8), coefficients lowest first, the first of degree 1: (x + r) p. -/
def rsTimes (r : Byte) (p : List Byte) : List Byte :=
  xorBytes (0 :: p) (p.map (rsMul r))

/-- The coefficients of the Lagrange polynomial that is 1 at member e's locator and 0 at the other erased members'. -/
def rsLagrange (es : List Nat) (e : Nat) : List Byte :=
  let xe := rsAlpha (31 - e)
  (es.filter (· ≠ e)).foldl (fun p f =>
    let xf := rsAlpha (31 - f)
    (rsTimes xf p).map (rsMul (rsInv (xe ^^^ xf)))) [1]

/-- Decode up to four erased members from the sums over the others (R230): each erased member's page. -/
def rsSolve (es : List Nat) (acc : List Bytes) : List (Nat × Bytes) :=
  es.map (fun e =>
    let l := rsLagrange es e
    (e, (List.range es.length).foldl (fun b i => xorBytes b (rsScale (l.getD i 0) (acc.getD i []))) []))

/-- The four parity pages of a row, from the sums over its data members (R229). -/
def rsParity (acc : List Bytes) : List (Nat × Bytes) := rsSolve [28, 29, 30, 31] acc

end Sys2Proof.Machine
end

