-- ==== Sys2Proof/Machine/Sha.lean ====
section
/-!
DEFINITION. Machine/Sha.lean: SHA-256, SHA-512, SHA-512/256 (FIPS 180-4), HMAC over them, and CRC-32C: the standard
functions that chapters 07 and 14 name. The constants are computed from their definition: the fractional parts of
square and cube roots of the first primes.
-/
namespace Sys2Proof.Machine

/-- Integer k-th root by bits: the greatest r below 2^n with r^k at most x, building on r. -/
def rootBits (k x : Nat) : Nat → Nat → Nat
  | 0, r => r
  | n + 1, r => if (r + 2 ^ n) ^ k ≤ x then rootBits k x n (r + 2 ^ n) else rootBits k x n r

/-- Is n a prime, by trial of every smaller divisor from 2? -/
def isPrime (n : Nat) : Bool := decide (2 ≤ n) && (List.range n).all (fun d => decide (d < 2) || decide (n % d ≠ 0))

/-- The first 80 primes. -/
def primes80 : List Nat := (List.range 410).filter isPrime

/-- The first 64 fractional bits of the k-th root of p. -/
def rootFrac (k p : Nat) : Nat := rootBits k (p * 2 ^ (64 * k)) 70 0 % 2 ^ 64

/-- A SHA-2 word size: 32 bits for SHA-256, 64 for the SHA-512 family. -/
structure ShaParams where
  w : Nat
  rounds : Nat
  s0 : Nat × Nat × Nat
  s1 : Nat × Nat × Nat
  e0 : Nat × Nat × Nat
  e1 : Nat × Nat × Nat

/-- FIPS 180-4, SHA-256. -/
def sha256P : ShaParams :=
  { w := 32, rounds := 64, s0 := (7, 18, 3), s1 := (17, 19, 10), e0 := (2, 13, 22), e1 := (6, 11, 25) }

/-- FIPS 180-4, SHA-512. -/
def sha512P : ShaParams :=
  { w := 64, rounds := 80, s0 := (1, 8, 7), s1 := (19, 61, 6), e0 := (28, 34, 39), e1 := (14, 18, 41) }

/-- Rotate right within w bits. -/
def rotr (w n x : Nat) : Nat := (x >>> n) ||| (x <<< (w - n)) % 2 ^ w

/-- Complement within w bits. -/
def notW (w x : Nat) : Nat := 2 ^ w - 1 - x % 2 ^ w

/-- The round constants. -/
def shaK (p : ShaParams) : List Nat := (primes80.take p.rounds).map (fun q => rootFrac 3 q >>> (64 - p.w))

/-- Message schedule: extend 16 words to the number of rounds; the list is newest first. -/
def shaSched (p : ShaParams) : Nat → List Nat → List Nat
  | 0, l => l
  | n + 1, l =>
    let x1 := l.getD 1 0
    let x15 := l.getD 14 0
    let a := rotr p.w p.s0.1 x15 ^^^ rotr p.w p.s0.2.1 x15 ^^^ (x15 >>> p.s0.2.2)
    let b := rotr p.w p.s1.1 x1 ^^^ rotr p.w p.s1.2.1 x1 ^^^ (x1 >>> p.s1.2.2)
    shaSched p n ((b + l.getD 6 0 + a + l.getD 15 0) % 2 ^ p.w :: l)

/-- One round on the eight working variables. -/
def shaRound (p : ShaParams) (h : List Nat) (kw : Nat × Nat) : List Nat :=
  let a := h.getD 0 0; let b := h.getD 1 0; let c := h.getD 2 0; let e := h.getD 4 0
  let f := h.getD 5 0; let g := h.getD 6 0
  let t1 := h.getD 7 0 + (rotr p.w p.e1.1 e ^^^ rotr p.w p.e1.2.1 e ^^^ rotr p.w p.e1.2.2 e) +
    ((e &&& f) ^^^ (notW p.w e &&& g)) + kw.1 + kw.2
  let t2 := (rotr p.w p.e0.1 a ^^^ rotr p.w p.e0.2.1 a ^^^ rotr p.w p.e0.2.2 a) +
    ((a &&& b) ^^^ (a &&& c) ^^^ (b &&& c))
  [(t1 + t2) % 2 ^ p.w, a, b, c, (h.getD 3 0 + t1) % 2 ^ p.w, e, f, g]

/-- Compress one block of 16 words into the hash state. -/
def shaBlock (p : ShaParams) (h : List Nat) (m : List Nat) : List Nat :=
  let ws := (shaSched p (p.rounds - 16) m.reverse).reverse
  let r := ((shaK p).zip ws).foldl (shaRound p) h
  (h.zip r).map (fun x => (x.1 + x.2) % 2 ^ p.w)

/-- Big-endian value of bytes, and its inverse. -/
def beVal (bs : Bytes) : Nat := leVal bs.reverse
def beN (n v : Nat) : Bytes := (leN n v).reverse

/-- Cut a list into n-element pieces; k bounds their number. -/
def pieces {α : Type} (n : Nat) : Nat → List α → List (List α)
  | 0, _ => []
  | k + 1, l => if l.isEmpty then [] else l.take n :: pieces n k (l.drop n)

/-- The padding of a message of n bytes that is followed by total length bits (FIPS 180-4). -/
def shaPad (p : ShaParams) (n bits : Nat) : Bytes :=
  let blk := p.w * 2
  let lenB := p.w / 4
  0x80#8 :: zeros ((blk - (n + 1 + lenB) % blk) % blk) ++ beN lenB bits

/-- Hash whole blocks from a state. -/
def shaBlocks (p : ShaParams) (h : List Nat) (bs : Bytes) : List Nat :=
  (pieces (p.w * 2) (bs.length + 1) bs).foldl
    (fun h b => shaBlock p h ((pieces (p.w / 8) 17 b).map beVal)) h

/-- The initial state of SHA-256 and SHA-512: fractional parts of the square roots of the first eight primes. -/
def shaInit (p : ShaParams) : List Nat := (primes80.take 8).map (fun q => rootFrac 2 q >>> (64 - p.w))

/-- Finish a message whose tail bs has not been hashed, total bits long. -/
def shaFinish (p : ShaParams) (h : List Nat) (bs : Bytes) (bits : Nat) : List Nat :=
  shaBlocks p h (bs ++ shaPad p bs.length bits)

/-- The bytes of a hash state. -/
def shaBytes (p : ShaParams) (h : List Nat) : Bytes := h.foldl (fun b x => b ++ beN (p.w / 8) x) []

/-- The initial state of SHA-512/256: SHA-512 with its initial words XORed, over the name of the function. -/
def sha512t256Init : List Nat :=
  shaFinish sha512P ((shaInit sha512P).map (fun x => x ^^^ 0xa5a5a5a5a5a5a5a5))
    ("SHA-512/256".toList.map (fun c => BitVec.ofNat 8 c.toNat)) 88

/-- The algorithms of DGT_CTL.alg: 0 SHA-256, 1 SHA-512, 2 SHA-512/256. -/
def algParams (alg : Nat) : ShaParams := if alg = 0 then sha256P else sha512P
def algInit (alg : Nat) : List Nat :=
  if alg = 0 then shaInit sha256P else if alg = 1 then shaInit sha512P else sha512t256Init
def algLen (alg : Nat) : Nat := if alg = 1 then 64 else 32

/-- The hash of a message. -/
def sha (alg : Nat) (bs : Bytes) : Bytes :=
  let p := algParams alg
  (shaBytes p (shaFinish p (algInit alg) bs (8 * bs.length))).take (algLen alg)

/-- SHA-512, and the fingerprint's SHA-512/256. -/
def sha512 (bs : Bytes) : Bytes := sha 1 bs
def sha512t256 (bs : Bytes) : Bytes := sha 2 bs

/-- The key block of HMAC, XORed with a pad byte. -/
def hmacKey (alg : Nat) (key : Bytes) (pad : Byte) : Bytes :=
  let p := algParams alg
  (fit (p.w * 2) key).map (fun b => b ^^^ pad)

/-- MGF1 with SHA-512 (PKCS #1): n bytes from a seed. -/
def mgf1 (seed : Bytes) (n : Nat) : Bytes :=
  ((List.range (cdiv n 64)).foldl (fun b i => b ++ sha512 (seed ++ beN 4 i)) []).take n

/-- CRC-32C (Castagnoli), one byte. -/
def crcByte (c : Nat) (b : Byte) : Nat :=
  (List.range 8).foldl (fun c _ => if c % 2 = 1 then (c / 2) ^^^ 0x82F63B78 else c / 2) (c ^^^ b.toNat)

/-- CRC-32C of a byte string. -/
def crc32c (bs : Bytes) : Nat := (bs.foldl crcByte 0xFFFFFFFF) ^^^ 0xFFFFFFFF

/-- The CRC-32 of IEEE 802.3 (the frame check sequence), one byte. -/
def fcsByte (c : Nat) (b : Byte) : Nat :=
  (List.range 8).foldl (fun c _ => if c % 2 = 1 then (c / 2) ^^^ 0xEDB88320 else c / 2) (c ^^^ b.toNat)

/-- The frame check sequence of a frame (IEEE 802.3). -/
def crc32 (bs : Bytes) : Nat := (bs.foldl fcsByte 0xFFFFFFFF) ^^^ 0xFFFFFFFF

end Sys2Proof.Machine
end

