-- ==== Sys2Proof/Machine/Aes.lean ====
section
/-!
DEFINITION. Machine/Aes.lean: AES-256 (FIPS 197), XTS-AES-256 (IEEE 1619), AES-256-GCM (SP 800-38D) and the RSA
encodings (PKCS #1): the standard functions that chapter 14 names (R386, R400).
-/
namespace Sys2Proof.Machine

/-- Multiply by x in GF(2^8) modulo x^8 + x^4 + x^3 + x + 1. -/
def xtime (a : Nat) : Nat := if 128 ≤ a then (2 * a) % 256 ^^^ 0x1B else 2 * a

/-- Multiply in GF(2^8). -/
def gmul (a b : Nat) : Nat :=
  ((List.range 8).foldl (fun (r : Nat × Nat) i => (if b.testBit i then r.1 ^^^ r.2 else r.1, xtime r.2)) (0, a)).1

/-- The inverse in GF(2^8): a^254. -/
def ginv (a : Nat) : Nat :=
  let a2 := gmul a a; let a4 := gmul a2 a2; let a8 := gmul a4 a4; let a16 := gmul a8 a8
  let a32 := gmul a16 a16; let a64 := gmul a32 a32; let a128 := gmul a64 a64
  gmul (gmul (gmul a2 a4) (gmul a8 a16)) (gmul (gmul a32 a64) a128)

/-- Rotate a byte left. -/
def rotl8 (n x : Nat) : Nat := ((x <<< n) ||| (x >>> (8 - n))) % 256

/-- The AES S-box value of a byte. -/
def sboxAt (a : Nat) : Nat :=
  let b := ginv a
  b ^^^ rotl8 1 b ^^^ rotl8 2 b ^^^ rotl8 3 b ^^^ rotl8 4 b ^^^ 0x63

/-- The S-box and its inverse, as tables. -/
def sboxTab : Array Nat := ((List.range 256).map sboxAt).toArray
def invTab : Array Nat :=
  (List.range 256).foldl (fun t i => t.set! (sboxTab.getD i 0) i) (Array.replicate 256 0)
def sbox (a : Nat) : Nat := sboxTab.getD a 0
def invSbox (a : Nat) : Nat := invTab.getD a 0

/-- XOR of byte lists. -/
def xorL (a b : List Nat) : List Nat := a.zipWith (· ^^^ ·) b

/-- Key expansion of AES-256: n more words after the first eight; the list is newest first (FIPS 197). -/
def expand : Nat → Nat → Nat → List (List Nat) → List (List Nat)
  | 0, _, _, ws => ws
  | n + 1, i, rc, ws =>
    let t := ws.getD 0 []
    let t' := if i % 8 = 0 then xorL ((t.drop 1 ++ t.take 1).map sbox) [rc, 0, 0, 0]
      else if i % 8 = 4 then t.map sbox else t
    expand n (i + 1) (if i % 8 = 0 then xtime rc else rc) (xorL (ws.getD 7 []) t' :: ws)

/-- The 15 round keys of a 32-byte key. -/
def roundKeys (key : Bytes) : List (List Nat) :=
  let ws := (expand 52 8 1 (pieces 4 8 (key.map (·.toNat))).reverse).reverse
  (pieces 4 15 ws).map List.flatten

/-- ShiftRows and its inverse on a 16-byte state, column by column. -/
def shiftRows (d : Nat) (s : List Nat) : List Nat :=
  (List.range 16).map (fun i => s.getD ((i + 4 * d * (i % 4)) % 16) 0)

/-- Multiply each column by a circulant matrix. -/
def mixCols (m : List Nat) (s : List Nat) : List Nat :=
  (List.range 16).map (fun i =>
    (List.range 4).foldl (fun x j => x ^^^ gmul (m.getD ((j + 4 - i % 4) % 4) 0) (s.getD (i / 4 * 4 + j) 0)) 0)

/-- Encrypt one 16-byte block under expanded round keys. -/
def aesEncR (rk : List (List Nat)) (b : List Nat) : List Nat :=
  let s := (rk.drop 1).dropLast.foldl
    (fun s k => xorL (mixCols [2, 3, 1, 1] (shiftRows 1 (s.map sbox))) k) (xorL b (rk.getD 0 []))
  xorL (shiftRows 1 (s.map sbox)) (rk.getLastD [])

/-- Decrypt one block. -/
def aesDecR (rk : List (List Nat)) (b : List Nat) : List Nat :=
  let s := (rk.drop 1).dropLast.reverse.foldl
    (fun s k => mixCols [14, 11, 13, 9] (xorL ((shiftRows 3 s).map invSbox) k)) (xorL b (rk.getLastD []))
  xorL ((shiftRows 3 s).map invSbox) (rk.getD 0 [])

/-- Bytes from byte values. -/
def toBytes (l : List Nat) : Bytes := l.map (BitVec.ofNat 8)
def ofBytes (b : Bytes) : List Nat := b.map (·.toNat)

/-- AES-256 of one block under a 32-byte key. -/
def aesEnc (key b : Bytes) : Bytes := toBytes (aesEncR (roundKeys key) (ofBytes b))

/-! ### XTS (IEEE 1619) -/

/-- The next tweak: multiply by alpha in GF(2^128), little-endian. -/
def nextTweak (t : List Nat) : List Nat :=
  let v := leVal (toBytes t)
  let w := if v.testBit 127 then (2 * v) % 2 ^ 128 ^^^ 0x87 else 2 * v
  ofBytes (leN 16 w)

/-- XTS on whole blocks with a block function, from tweak t; the last tweak comes back too. -/
def xtsBlocks (f : List Nat → List Nat) : List (List Nat) → List Nat → List Nat × List Nat
  | [], t => ([], t)
  | b :: bs, t =>
    let c := xorL (f (xorL b t)) t
    let (r, t') := xtsBlocks f bs (nextTweak t)
    (c ++ r, t')

/-- One XTS data unit (at least 16 bytes) under key halves k1, k2 with a 16-byte tweak; the last partial block steals
ciphertext. -/
def xtsUnit (enc : Bool) (k1 k2 tweak data : Bytes) : Bytes :=
  let rk := roundKeys k1
  let f := if enc then aesEncR rk else aesDecR rk
  let t0 := aesEncR (roundKeys k2) (ofBytes tweak)
  let d := ofBytes data
  let r := d.length % 16
  let n := d.length / 16
  if r = 0 then toBytes (xtsBlocks f (pieces 16 (n + 1) d) t0).1
  else
    let head := d.take (16 * (n - 1))
    let (out, t) := xtsBlocks f (pieces 16 n head) t0
    let blk := (d.drop (16 * (n - 1))).take 16
    let tail := d.drop (16 * n)
    let (ta, tb) := if enc then (t, nextTweak t) else (nextTweak t, t)
    let cc := xorL (f (xorL blk ta)) ta
    let last := xorL (f (xorL (tail ++ cc.drop r) tb)) tb
    toBytes (out ++ last ++ cc.take r)

/-! ### GCM (SP 800-38D) -/

/-- Multiply in GF(2^128) with GCM's bit order; blocks as big-endian numbers. -/
def ghMul (x y : Nat) : Nat :=
  ((List.range 128).foldl (fun (zv : Nat × Nat) i =>
    (if x.testBit (127 - i) then zv.1 ^^^ zv.2 else zv.1,
     if zv.2 % 2 = 1 then (zv.2 / 2) ^^^ (0xE1 <<< 120) else zv.2 / 2)) (0, y)).1

/-- GHASH of 16-byte padded data. -/
def ghash (h : Nat) (bs : Bytes) : Nat :=
  (pieces 16 (bs.length + 1) bs).foldl (fun y b => ghMul (y ^^^ beVal (fit 16 b)) h) 0

/-- Pad with zeros to a multiple of 16 bytes. -/
def pad16 (bs : Bytes) : Bytes := bs ++ zeros ((16 - bs.length % 16) % 16)

/-- The counter-mode output over data, from counter value c after a 12-byte nonce. -/
def gcmCtr (rk : List (List Nat)) (nonce data : Bytes) : Bytes :=
  ((pieces 16 (data.length + 1) data).zipIdx.map (fun p =>
    p.1.zipWith (· ^^^ ·) (toBytes (aesEncR rk (ofBytes (nonce ++ beN 4 (p.2 + 2))))))).flatten

/-- The tag of a ciphertext. -/
def gcmTag (rk : List (List Nat)) (nonce aad ct : Bytes) : Bytes :=
  let h := beVal (toBytes (aesEncR rk (List.replicate 16 0)))
  let g := ghash h (pad16 aad ++ pad16 ct ++ beN 8 (8 * aad.length) ++ beN 8 (8 * ct.length))
  (beN 16 g).zipWith (· ^^^ ·) (toBytes (aesEncR rk (ofBytes (nonce ++ beN 4 1))))

/-- AES-256-GCM encryption: ciphertext and 16-byte tag. -/
def gcmEnc (key nonce aad pt : Bytes) : Bytes × Bytes :=
  let rk := roundKeys key
  let ct := gcmCtr rk nonce pt
  (ct, gcmTag rk nonce aad ct)

/-- AES-256-GCM decryption: the plaintext, or none where the tag does not verify. -/
def gcmDec (key nonce aad ct tag : Bytes) : Option Bytes :=
  let rk := roundKeys key
  if gcmTag rk nonce aad ct = tag then some (gcmCtr rk nonce ct) else none

/-! ### RSA encodings (PKCS #1 v2.2) -/

/-- Modular exponentiation by the low n bits of the exponent, from the highest. -/
def powMod (b m e : Nat) : Nat → Nat
  | 0 => 1 % m
  | n + 1 => let r := powMod b m (e / 2) n; if e % 2 = 1 then r * r % m * b % m else r * r % m

/-- RSASSA-PSS verification with SHA-512 and salt length 64 (R400): public modulus, e = 65,537. -/
def pssVerify (modulus msg sig : Bytes) : Bool :=
  let n := beVal modulus
  let s := beVal sig
  if n = 0 ∨ n ≤ s ∨ sig.length ≠ modulus.length then false
  else
    let em := beN modulus.length (powMod s n 65537 17)
    let db := em.take (em.length - 65)
    let h := (em.drop (em.length - 65)).take 64
    let dbm := db.zipWith (· ^^^ ·) (mgf1 h db.length)
    let dbm := (dbm.headD 0 &&& 0x7F#8) :: dbm.drop 1
    let salt := dbm.drop (dbm.length - 64)
    decide (em.getLastD 0 = 0xBC#8) && !(em.headD 0).getLsbD 7 &&
      (dbm.take (dbm.length - 65)).all (· = 0) && decide (dbm.getD (dbm.length - 65) 0 = 1) &&
      decide (sha512 (zeros 8 ++ sha512 msg ++ salt) = h)

/-- The EMSA-PSS encoding of a message with a 64-byte salt, in k bytes. -/
def pssEncode (k : Nat) (msg salt : Bytes) : Bytes :=
  let h := sha512 (zeros 8 ++ sha512 msg ++ salt)
  let db := zeros (k - 130) ++ 1#8 :: salt
  let m := db.zipWith (· ^^^ ·) (mgf1 h db.length)
  (m.headD 0 &&& 0x7F#8) :: m.drop 1 ++ h ++ [0xBC#8]

/-- RSAES-OAEP decoding with SHA-512 (R392): the message of an encoded block under a label. -/
def oaepDecode (em label : Bytes) : Option Bytes :=
  let seedM := (em.drop 1).take 64
  let dbM := em.drop 65
  let seed := seedM.zipWith (· ^^^ ·) (mgf1 dbM 64)
  let db := dbM.zipWith (· ^^^ ·) (mgf1 seed dbM.length)
  let rest := (db.drop 64).dropWhile (· = 0)
  if em.headD 1 = 0 ∧ db.take 64 = sha512 label ∧ rest.headD 0 = 1 then some (rest.drop 1) else none

end Sys2Proof.Machine
end

