-- ==== Sys2Proof/Machine/Lines.lean ====
section
/-!
DEFINITION. Machine/Lines.lean: the Conservatory's lines as its requesters use them: placement, allocation, replacement,
streaming, prefetch and the DRAM traffic that follows (R367 to R373).
-/
namespace Sys2Proof.Machine

/-! ### Lines and sets -/

/-- The slice of a line address (R367): mask bit j covers PA[j + 19], which is line bit j + 12. -/
def lineSlice (c : Cns) (line : Nat) : Nat :=
  sumBy (fun k => 2 ^ k * b2n (parityN (line / 4096 % 2 ^ 25 &&& (c.hash.getD k 0).toNat))) (List.range 5)

/-- The key of the set that holds a line: slice and set number. -/
def setKey (c : Cns) (line : Nat) : Nat := lineSlice c line * 4096 + line % 4096

/-- The lines of a set, by way. -/
def setOf (c : Cns) (key : Nat) : Tab CLine := tgetD c.sets key []

/-- Replace the lines of a set. -/
def putSet (key : Nat) (v : Tab CLine) (c : Cns) : Cns := { c with sets := tset c.sets key v }

/-- Lockable way i. -/
def lockOf (c : Cns) (i : Nat) : CLock := tgetD c.locks i {}

/-- Replace lockable way i. -/
def putLock (i : Nat) (l : CLock) (c : Cns) : Cns := { c with locks := tset c.locks i l }

/-- Is way w locked, or being loaded for a lock? -/
def wayLocked (c : Cns) (w : Nat) : Bool :=
  decide (12 ≤ w) && ((lockOf c (w - 12)).loaded || (lockOf c (w - 12)).loading)

/-- The way that holds a line in a powered way, if one does (R368: a hit is served in any powered way). -/
def findLine (c : Cns) (line : Nat) : Option (Nat × CLine) :=
  (setOf c (setKey c line)).find? (fun e => decide (e.2.line = line) && c.powered.getLsbD e.1)

/-- The ways in which class k may place a fill: in its mask, powered, in allocation and unlocked (R370, R375). -/
def eligible (c : Cns) (k : CClass) : List Nat :=
  (List.range 16).filter (fun w => k.mask.getLsbD w && c.powered.getLsbD w && !c.off.getLsbD w && !wayLocked c w)

/-- Choose the victim way of a set among eligible ways (R370): an invalid way, else the lowest with a clear bit, else
after clearing their bits the lowest; the set comes back with the cleared bits. -/
def victim (ws : List Nat) (set : Tab CLine) : Option (Nat × Tab CLine) :=
  match ws.find? (fun w => !thas set w), ws.find? (fun w => match tget set w with | some l => !l.ref | none => false) with
  | some w, _ => some (w, set)
  | none, some w => some (w, set)
  | none, none => ws.head?.map (fun w =>
      (w, tmap (fun k l => if ws.contains k then { l with ref := false } else l) set))

/-- Do something to the Conservatory. -/
def onCns (f : Cns → Cns) (s : State) : State := { s with cns := f s.cns }

/-- The Conservatory's own traffic: a line of DRAM on port 10 (R367). -/
def lineTraffic (line : Nat) (s : State) : State := dramRequest 10 (128 * line) s

/-- Class number k (Table 13.1). -/
def classOf (c : Cns) (k : Nat) : CClass := c.classes.getD k ⟨0, false, false, false, 0, false⟩

/-- Fill a line for class number k (R370); a streaming fill enters with its bit clear; a dirty victim is written back on port
10; with no eligible way nothing is allocated. -/
def fill (k line : Nat) (dirty streaming : Bool) (s : State) : State :=
  let c := s.cns
  let key := setKey c line
  match victim (eligible c (classOf c k)) (setOf c key) with
  | some (w, set) =>
    let s := match tget set w with
      | some l => if l.dirty then lineTraffic l.line s else s
      | none => s
    onCns (putSet key (tset set w { line := line, dirty := dirty, ref := !streaming, cls := k })) s
  | none => s

/-- The class of a DRAM port (Table 13.1). -/
def portClass (port : Nat) : Nat := [0, 7, 5, 5, 1, 2, 3, 4, 6, 1, 0, 6, 6, 7, 2, 2].getD port 0

/-! ### Trackers and the side buffer -/

/-- Count a store in the trackers (R371): the count of the tracker that now follows the line. -/
def trackStore (line : Nat) (c : Cns) : Nat × Cns :=
  let clk := c.trackClock + 1
  match c.trackers.findIdx? (fun t => decide (t.next = line) && decide (0 < t.count)) with
  | some i =>
    let n := (c.trackers.getD i {}).count + 1
    (n, { c with trackers := c.trackers.set i { next := line + 1, count := n, used := clk }, trackClock := clk })
  | none =>
    let oldest := c.trackers.foldl (fun m t => min m t.used) clk
    let i := (c.trackers.findIdx? (fun t => decide (t.used = oldest))).getD 0
    (1, { c with trackers := c.trackers.set i { next := line + 1, count := 1, used := clk }, trackClock := clk })

/-- The side buffer of a slice. -/
def sideOf (c : Cns) (sl : Nat) : List Nat := tgetD c.side sl []

/-- Put a line into its slice's side buffer, first in first out, 64 lines (R372). -/
def sideAdd (line : Nat) (c : Cns) : Cns :=
  let sl := lineSlice c line
  let l := sideOf c sl
  if l.contains line then c
  else { c with side := tset c.side sl (if 64 ≤ l.length then l.drop 1 ++ [line] else l ++ [line]) }

/-- Remove a line from the side buffer. -/
def sideDrop (line : Nat) (c : Cns) : Cns :=
  let sl := lineSlice c line
  { c with side := tset c.side sl ((sideOf c sl).filter (· ≠ line)) }

/-! ### Accesses (R368 to R373) -/

/-- Set the referenced bit of a hit line, and its dirty bit for a write-back store. -/
def touch (line : Nat) (dirty : Bool) (c : Cns) : Cns :=
  let key := setKey c line
  putSet key (tmap (fun _ l =>
    if l.line = line then { l with ref := true, dirty := l.dirty || dirty } else l) (setOf c key)) c

/-- Fetch a line into its slice's side buffer on port 10, unless it is there (R372). -/
def sideFetch (line : Nat) (s : State) : State :=
  if (sideOf s.cns (lineSlice s.cns line)).contains line then s else onCns (sideAdd line) (lineTraffic line s)

/-- The prefetch of a demand miss on a line (R372). -/
def prefetch (k line : Nat) (s : State) : State :=
  match (classOf s.cns k).prefetch.toNat with
  | 1 => if (findLine s.cns (line + 1)).isSome then s else fill k (line + 1) false true (lineTraffic (line + 1) s)
  | 2 => sideFetch (line + 2) (sideFetch (line + 1) s)
  | _ => s

/-- A hit is counted, and a miss (Table 13.3). -/
def countHit (c : Cns) : Cns := { c with hits := satAdd 64 c.hits 1 }
def countMiss (c : Cns) : Cns := { c with misses := satAdd 64 c.misses 1 }

/-- A demand miss goes to DRAM on the requester's own port (R367); the model has its data back in the same step, so that
probe 13 sees it start and end there (log entry 137). -/
def demandMiss (port line : Nat) (s : State) : State :=
  monAt 13 (portClass port) (dramRequest port (128 * line) (onCns countMiss s))

/-- A demand read of a line on a DRAM port (R368, R370, R372). -/
def lineRead (port line : Nat) (s : State) : State :=
  let k := portClass port
  if (findLine s.cns line).isSome then onCns (fun c => touch line false (countHit c)) s
  else if (sideOf s.cns (lineSlice s.cns line)).contains line then
    sideFetch (line + 3) (fill k line false false (onCns (fun c => sideDrop line (countHit c)) s))
  else
    let s := demandMiss port line s
    prefetch k line (if (classOf s.cns k).allocRd then fill k line false false s else s)

/-- A store to a line on a DRAM port: a write-through store goes to DRAM, and a store that hits updates the line (R369); one
whose tracker has counted 64 lines does not allocate (R371). -/
def lineStore (port line : Nat) (s : State) : State :=
  let k := portClass port
  let cl := classOf s.cns k
  let (n, c) := if cl.stream then trackStore line s.cns else (0, s.cns)
  let s : State := { s with cns := sideDrop line c }
  if (findLine s.cns line).isSome then
    let s := onCns (fun c => touch line cl.wb (countHit c)) s
    if cl.wb then s else dramRequest port (128 * line) s
  else
    let s := demandMiss port line s
    prefetch k line (if cl.allocWr ∧ n < 64 then fill k line cl.wb (8 ≤ n) s else s)

/-- A drain read of a staging line clears its referenced bit; one that has been evicted is read from DRAM on port 9 (R373). -/
def drainRead (line : Nat) (s : State) : State :=
  if (findLine s.cns line).isSome then
    onCns (fun c =>
      let key := setKey c line
      putSet key (tmap (fun _ l => if l.line = line then { l with ref := false } else l) (setOf c key)) (countHit c)) s
  else demandMiss 9 line s

/-- The lines of n bytes from a physical address. -/
def linesOf (pa n : Nat) : List Nat := (List.range (cdiv (pa % 128 + n) 128)).map (fun i => pa / 128 + i)

/-- Does the Conservatory serve its requesters: not in Watch, and not while it is dark (R375, R379)? -/
def cnsServes (s : State) : Bool := decide (s.gh.state ≠ .watch ∧ s.gh.state ≠ .dormant ∧ s.gh.state ≠ .icehouse)

/-- Channel n without the poison of a line at a channel address. -/
def curePoison (n ca : Nat) (s : State) : State :=
  let c := dmcOf s n
  if c.poisoned.contains ca then setDmc n { c with poisoned := c.poisoned.filter (· ≠ ca) } s else s

/-- Lines that are wholly written are poisoned no more (R358). -/
def cureLines (pa n : Nat) (s : State) : State :=
  if (tvals s.dram.ch).all (fun c => c.poisoned.isEmpty) then s
  else ((linesOf pa n).filter (fun l => decide (pa ≤ 128 * l ∧ 128 * l + 128 ≤ pa + n))).foldl (fun s l =>
    let p := placeAddr s (128 * l)
    curePoison p.1 p.2 s) s

/-- An access to memory changes the Conservatory, the DRAM controller and the monitors, and nothing else. -/
def onMemory (f : State → State) (s : State) : State :=
  let t := f s
  if cnsServes s then { s with cns := t.cns, dram := t.dram, mons := t.mons } else s

/-- Stores of a DRAM port to a byte range. -/
def cnsStores (port pa n : Nat) (s : State) : State :=
  onMemory (fun s => (linesOf pa n).foldl (fun s l => lineStore port l s) (cureLines pa n s)) s

/-- Demand reads of a DRAM port of a byte range. -/
def cnsReads (port pa n : Nat) (s : State) : State :=
  onMemory (fun s => (linesOf pa n).foldl (fun s l => lineRead port l s) s) s

/-- Drain reads of a byte range of the journal. -/
def cnsDrains (pa n : Nat) (s : State) : State :=
  onMemory (fun s => (linesOf pa n).foldl (fun s l => drainRead l s) s) s

end Sys2Proof.Machine
end

