-- ==== Sys2Proof/Machine/Map.lean ====
section
/-!
DEFINITION. Machine/Map.lean: map entries, chunk records and their reference counts, moves, pins, the translation cache
(R248, R252 to R259).
-/
namespace Sys2Proof.Machine

/-- The role of this head as a number; 0 while it has none. -/
def roleNum (s : State) : Nat := (s.pair.role.map Role.num).getD 0

/-- The role of this head; A while it has none. -/
def roleOf (s : State) : Role := s.pair.role.getD .a

/-- The key of a map: the live volume (snap 0) or a snapshot. -/
def mapKey (vol snap : Nat) : Nat := vol + 65536 * snap

/-- The unmapped entry. -/
def noEnt : MapEnt := { loc := { kind := .none }, serial := 0 }

/-- The leaf page of a logical chunk in a map. -/
def leafId (s : State) (key chunk : Nat) : Option Nat := tget (tgetD s.map.maps key []) (chunk / 1024)

/-- The entry of a logical chunk. -/
def getEnt (s : State) (key chunk : Nat) : MapEnt :=
  ((leafId s key chunk).bind (fun id => (tget s.map.leaves id).bind (fun l => tget l.ents chunk))).getD noEnt

/-- Is the entry mapped? -/
def MapEnt.mapped (e : MapEnt) : Bool := decide (e.loc.kind ≠ .none)

/-- Where entry i of a page lies in the DRAM map cache: 16 bytes a map entry (even pages), 32 a chunk record (odd ones). -/
def entryAt (page i : Nat) : Nat := Config.pageBase page + (if page % 2 = 0 then 16 * (i % 1024) else 32 * (i % 512))

/-- Entry i of a page of the DRAM map cache is stored, and the page becomes dirty (R258, R368). -/
def dirtyPage (page i : Nat) (s : State) : State :=
  cnsStores 6 (entryAt page i) (16 + 16 * (page % 2)) { s with map := { s.map with
      dirty := if s.map.dirty.contains page then s.map.dirty else page :: s.map.dirty
      pages := if s.map.pages.contains page then s.map.pages else page :: s.map.pages } }

/-- The chunk record of a serial. -/
def chunkOf (s : State) (serial : Nat) : Option ChunkRec := tget s.map.chunks serial

/-- Write a chunk record; its page becomes dirty. -/
def putChunk (serial : Nat) (c : ChunkRec) (s : State) : State :=
  dirtyPage (serial / 512 * 2 + 1) serial { s with map := { s.map with chunks := tset s.map.chunks serial c } }

/-- The keeper of a chunk record is the head whose role is in bit 63 of the serial; alone, this head (R255). -/
def isKeeper (s : State) (serial : Nat) : Bool := decide (serial / 2 ^ 63 % 2 = roleNum s) || s.plc.alone

/-- The count fields as the record shows them: 0xFFFF while extended (R253). -/
def shownRefs (c : ChunkRec) (n : Nat) : Nat := if c.ext then 0xFFFF else n

/-- R253: the extended flag sets when a count would pass 0xFFFE and clears when both are below 0xFF00. -/
def fixExt (c : ChunkRec) : ChunkRec :=
  { c with ext :=
      if 0xFFFE < c.refs ∨ 0xFFFE < c.peerRefs then true
      else if c.refs < 0xFF00 ∧ c.peerRefs < 0xFF00 then false else c.ext }

/-- A chunk is free when both counts are 0 and no lookup pins it (R252): its record goes, and an overlay's reference on
its base goes with it. Fuel bounds the chain of overlays. -/
def freeIfDead : Nat → Nat → State → State
  | 0, _, s => s
  | k + 1, serial, s =>
    match chunkOf s serial with
    | none => s
    | some c =>
      if c.refs + c.peerRefs + c.pins ≠ 0 then s
      else
        let s := { s with map := { s.map with
          chunks := terase s.map.chunks serial
          failed := s.map.failed.filter (fun e => decide (e.1 ≠ serial)) } }
        let s := { s with plc := { s.plc with placed := terase s.plc.placed serial } }
        if c.overlay ∧ c.base ≠ 0 then
          match chunkOf s c.base with
          | some b => freeIfDead k c.base (putChunk c.base (fixExt { b with refs := b.refs - 1 }) s)
          | none => s
        else s

/-- Drop one reference of a chunk, the keeper's or the other head's (R255). -/
def dropRef (peer : Bool) (serial : Nat) (s : State) : State :=
  match chunkOf s serial with
  | none => s
  | some c =>
    let c := if (peer ∧ c.peerRefs ≠ 0) ∨ c.refs = 0 then { c with peerRefs := c.peerRefs - 1 }
      else { c with refs := c.refs - 1 }
    freeIfDead 4096 serial (putChunk serial (fixExt c) s)

/-- Change the location word of an entry in place: the contents of the page do not change (R252, R254). -/
def putLoc (key chunk : Nat) (loc : Loc) (s : State) : State :=
  match leafId s key chunk with
  | none => s
  | some id => dirtyPage ((key * 2 ^ 40 + chunk / 1024) * 2) chunk { s with map := { s.map with
      leaves := tmod s.map.leaves id (fun l => { l with ents := tmod l.ents chunk (fun e => { e with loc := loc }) }) } }

/-- The entry named by back becomes indirect (R252). -/
def makeIndirect (serial : Nat) (c : ChunkRec) (s : State) : State :=
  if !c.direct then s
  else
    let e := getEnt s c.backVol c.backChunk
    if e.serial = serial ∧ e.mapped then putLoc c.backVol c.backChunk { e.loc with kind := .indirect } s else s

/-- Add a reference to a chunk: a second referrer makes every entry that refers to it indirect (R252). -/
def addRef (peer : Bool) (serial : Nat) (s : State) : State :=
  match chunkOf s serial with
  | none => s
  | some c =>
    let s := makeIndirect serial c s
    let c := { c with direct := false }
    let c := if peer then { c with peerRefs := c.peerRefs + 1 } else { c with refs := c.refs + 1 }
    putChunk serial (fixExt c) s

/-- R321: a page that other maps hold is copied before a change: the changing map names the copy, every chunk the page
maps gains one reference, and each such entry becomes indirect. -/
def ownLeaf (key page : Nat) (s : State) : State :=
  match tget (tgetD s.map.maps key []) page with
  | none =>
    let id := s.map.leafCount
    { s with map := { s.map with
        leafCount := id + 1
        leaves := tset s.map.leaves id {}
        maps := tset s.map.maps key (tset (tgetD s.map.maps key []) page id) } }
  | some id =>
    match tget s.map.leaves id with
    | none => s
    | some l =>
      if l.holders ≤ 1 then s
      else
        let s := l.ents.foldl (fun s e => addRef (!isKeeper s e.2.serial) e.2.serial s) s
        let indirect (t : Tab MapEnt) : Tab MapEnt := tmap (fun _ e => { e with loc := { e.loc with kind := .indirect } }) t
        let n := s.map.leafCount
        let leaves := tset s.map.leaves id { holders := l.holders - 1, ents := indirect l.ents }
        { s with map := { s.map with
            leafCount := n + 1
            leaves := tset leaves n { ents := indirect l.ents }
            maps := tset s.map.maps key (tset (tgetD s.map.maps key []) page n) } }

/-- Write an entry; an unmapped one is not listed. A shared page is copied first, and the page becomes dirty (R258). -/
def putEnt (key chunk : Nat) (e : MapEnt) (s : State) : State :=
  let s := ownLeaf key (chunk / 1024) s
  match leafId s key chunk with
  | none => s
  | some id => dirtyPage ((key * 2 ^ 40 + chunk / 1024) * 2) chunk { s with map := { s.map with
      leaves := tmod s.map.leaves id (fun l =>
        { l with ents := if e.mapped then tset l.ents chunk e else terase l.ents chunk }) } }

/-- R320: a cut: the new map names every page of the old, which gains one holder; the chunks that the old map marks
UNREADABLE (R327) are marked in the new one. -/
def copyMap (key snap : Nat) (s : State) : State :=
  let pages := tgetD s.map.maps key []
  let marks := (s.rep.unreadable.filter (fun u => decide (u.1 = key))).map (fun u => (snap, u.2))
  { s with
    rep := { s.rep with unreadable := s.rep.unreadable.filter (fun u => decide (u.1 ≠ snap)) ++ marks }
    map := { s.map with
      maps := tset s.map.maps snap pages
      leaves := pages.foldl (fun t p => tmod t p.2 (fun l => { l with holders := l.holders + 1 })) s.map.leaves } }

/-- R322: a map goes: each page it names loses one holder, and a page without holders drops one reference of every chunk
it maps. Its UNREADABLE marks go with it. -/
def dropMap (key : Nat) (s : State) : State :=
  let pages := tgetD s.map.maps key []
  let s := { s with
    rep := { s.rep with unreadable := s.rep.unreadable.filter (fun u => decide (u.1 ≠ key)) }
    map := { s.map with maps := terase s.map.maps key } }
  pages.foldl (fun s p =>
    match tget s.map.leaves p.2 with
    | none => s
    | some l =>
      if 1 < l.holders then
        { s with map := { s.map with leaves := tset s.map.leaves p.2 { l with holders := l.holders - 1 } } }
      else
        let s := { s with map := { s.map with leaves := terase s.map.leaves p.2 } }
        l.ents.foldl (fun s e => dropRef (!isKeeper s e.2.serial) e.2.serial s) s) s

/-- Pin a chunk for a lookup (R188). -/
def pinChunk (serial : Nat) (s : State) : State :=
  match chunkOf s serial with
  | some c => putChunk serial { c with pins := c.pins + 1 } s
  | none => s

/-- End a pin; the chunk becomes free if nothing refers to it (Table 7.3). -/
def unpinChunk (serial : Nat) (s : State) : State :=
  match chunkOf s serial with
  | some c => freeIfDead 4096 serial (putChunk serial { c with pins := c.pins - 1 } s)
  | none => s

/-- Unmap a logical chunk: its reference goes. -/
def unmapChunk (key chunk : Nat) (s : State) : State :=
  let e := getEnt s key chunk
  if e.mapped then dropRef (!isKeeper s e.serial) e.serial (putEnt key chunk noEnt s) else s

/-- Map a logical chunk to a new chunk of its own: a direct entry (R252). The record must stand with refs 0. -/
def mapDirect (key chunk serial : Nat) (s : State) : State :=
  let old := getEnt s key chunk
  match chunkOf s serial with
  | none => s
  | some c =>
    let s := putEnt key chunk { loc := c.loc, serial := serial } s
    let s := putChunk serial { c with refs := c.refs + 1, direct := true, backVol := key, backChunk := chunk } s
    if old.mapped then dropRef (!isKeeper s old.serial) old.serial s else s

/-- Map a logical chunk to a chunk that others may hold: an indirect entry. -/
def mapShared (key chunk serial : Nat) (s : State) : State :=
  let old := getEnt s key chunk
  match chunkOf s serial with
  | none => s
  | some c =>
    let s := addRef (!isKeeper s serial) serial s
    let s := putEnt key chunk { loc := { kind := .indirect, overlay := c.overlay }, serial := serial } s
    if old.mapped then dropRef (!isKeeper s old.serial) old.serial s else s

/-- R254, R259: a chunk's location changes only if its record still holds the old one; otherwise the entry is ignored
and counted. -/
def moveChunk (m : MoveEntry) (s : State) : State :=
  match chunkOf s m.serial with
  | some c =>
    if c.loc = m.old then
      let s := putChunk m.serial { c with loc := m.new } s
      let s := { s with map := { s.map with failed := s.map.failed.filter (fun e => decide (e.1 ≠ m.serial)) } }
      if c.direct then
        let e := getEnt s c.backVol c.backChunk
        if e.serial = m.serial ∧ e.mapped then putLoc c.backVol c.backChunk m.new s else s
      else s
    else { s with map := { s.map with voidMoves := satAdd 16 s.map.voidMoves 1 } }
  | none => { s with map := { s.map with voidMoves := satAdd 16 s.map.voidMoves 1 } }

/-- A lookup of the translation cache (R256): a hit or a miss is counted; a miss reads entry i of the page from the
map cache, which itself reads a page it lacks, and the entry is entered; the pages stand in order of use, the latest first (R258). Which entry a full cache of 1 Mi gives up is a free value (log entry 13). -/
def xltTouch (key page i : Nat) (s : State) : State :=
  let m := s.map
  if m.xlt.contains key then { s with map := { m with hits := satAdd 32 m.hits 1 } }
  else
    let full := 2 ^ 20 ≤ m.xlt.length
    let kept := if full then m.xlt.eraseIdx (Config.freeValue s.draws 0 % 2 ^ 20) else m.xlt
    let inPages := m.pages.contains page
    let s := if full then draw s else s
    cnsReads 6 (entryAt page i) (16 + 16 * (page % 2)) { s with map := { m with
        misses := satAdd 32 m.misses 1
        xlt := key :: kept
        mapcMiss := if inPages then m.mapcMiss else satAdd 32 m.mapcMiss 1
        pages := page :: m.pages.filter (· ≠ page) } }

/-- Resolve a logical chunk through the map (R252, R256): its serial and location. -/
def resolveEnt (key chunk : Nat) (s : State) : Option (Nat × Loc) × State :=
  let s := xltTouch ((key * 2 ^ 40 + chunk) * 2) ((key * 2 ^ 40 + chunk / 1024) * 2) chunk s
  let e := getEnt s key chunk
  if !e.mapped then (none, s)
  else
    let s := if e.loc.kind = .indirect then xltTouch (e.serial * 2 + 1) (e.serial / 512 * 2 + 1) e.serial s else s
    ((chunkOf s e.serial).map (fun c => (e.serial, c.loc)), s)

/-- A location word's kind number (Table 9.2). -/
def locCode : LocKind → Nat
  | .none => 0 | .flash .. => 1 | .ownJournal _ => 2 | .mirrorJournal _ => 3 | .indirect => 4

/-- The 64-bit location word (Tables 9.1, 9.2). -/
def locWord (l : Loc) : Nat :=
  let low := locCode l.kind + 8 * b2n l.overlay + 16 * b2n l.transit
  match l.kind with
  | .flash g sl d b p gr m =>
    low + m % 64 * 2 ^ 8 + gr % 32 * 2 ^ 14 + p % 4096 * 2 ^ 19 + b % 65536 * 2 ^ 31 + d % 128 * 2 ^ 47 +
      sl % 32 * 2 ^ 54 + g % 32 * 2 ^ 59
  | .ownJournal off => low + off / 128 * 256
  | .mirrorJournal off => low + off / 128 * 256
  | _ => low

/-- The location that a word spells. -/
def wordLoc (w : Nat) : Loc :=
  { kind := match w % 8 with
      | 1 => .flash (w / 2 ^ 59 % 32) (w / 2 ^ 54 % 32) (w / 2 ^ 47 % 128) (w / 2 ^ 31 % 65536) (w / 2 ^ 19 % 4096)
          (w / 2 ^ 14 % 32) (w / 2 ^ 8 % 64)
      | 2 => .ownJournal (w / 256 * 128)
      | 3 => .mirrorJournal (w / 256 * 128)
      | 4 => .indirect
      | _ => .none
    overlay := w.testBit 3
    transit := w.testBit 4 }

/-- A fresh content serial: this head's role in bit 63 over its counter (R201). -/
def nextSerial (s : State) : Nat × State :=
  let n := s.map.serial + 1
  (roleNum s * 2 ^ 63 + n, { s with map := { s.map with serial := n } })

/-- The chunks and snapshots of a volume: the map keys of its snapshots. -/
def snapKeys (s : State) (vol : Nat) : List Nat := (tkeys s.map.maps).filter (fun k => decide (k % 65536 = vol ∧ 65536 ≤ k))

end Sys2Proof.Machine
end

