-- ==== Sys2Proof/Machine/Records.lean ====
section
/-!
DEFINITION. Machine/Records.lean: the event recorder's registers and persistent tiers, and the latency monitors
(chapter 16, R440 to R447, R452 to R455).
-/
namespace Sys2Proof.Machine

/-! ### The event ring's registers -/

/-- The ring word at the read offset, bits [1:0] ignored (Table 16.9). -/
def ringWord (e : Evt) : Word :=
  BitVec.ofNat 32 (leVal (memGets e.ring (e.rdOff.toNat / 4 * 4) 4))

/-- R447: a read of EVR_RD_DATA returns the word and advances the offset by 4, modulo 64 KiB. -/
def evrRdDataRead (s : State) : State :=
  emit (.regWord (ringWord s.evt))
    { s with evt := { s.evt with rdOff := BitVec.ofNat 16 (s.evt.rdOff.toNat / 4 * 4 + 4) } }

def execEvrRdDataRead (s : State) : Res := .next (evrRdDataRead s)

/-- R444: EVR_CTL.lock locks EVR_NEXT_SEQ until power-on reset. -/
def execEvrSeqLock (s : State) : Res := .next { s with evt := { s.evt with lock := true } }

/-! ### The log and the summary (R446) -/

/-- The size of the log of one head. -/
def logSize : Nat := 2 ^ 26

/-- Place a record in the log, at its start where it does not fit at the current place. -/
def logPut (r : EvRec) (e : Evt) : Evt :=
  let p := if evFits logSize e.logPlace r.len then e.logPlace else 0
  let r := { r with off := p }
  { e with
    log := (evDrop 0 p r.len e.log).1 ++ [r]
    logPlace := (p + r.len) % logSize
    newestAppended := some (r.seq, r.repeats) }

/-- The ring's records that the log lacks: those after EVR_PERSIST_SEQ, and the newest again if it has merged since it
was appended. -/
def toAppend (e : Evt) : List EvRec :=
  e.recs.filter (fun r => r.typ ≠ 0 && match e.newestAppended with
    | none => true
    | some (q, k) => seqAfter r.seq e.persistSeq.toNat || (decide (r.seq = q) && decide (r.repeats ≠ k)))

/-- R446: append the new records to the log; lost records are named by one records-lost record of this append. -/
def eventLogAppend (s : State) : State :=
  let k := s.evt.lost - s.evt.lostReported
  let s := if 0 < k then
      let s := record 9 0x0C 1 .none (leN 4 k ++ leN 4 s.evt.persistSeq.toNat ++ leN 4 s.evt.tailSeq.toNat) s
      { s with evt := { s.evt with lostReported := s.evt.lost } }
    else s
  let e := (toAppend s.evt).foldl (fun e r => logPut r e) s.evt
  { s with evt := { e with persistSeq := e.headSeq, sinceAppend := 0 } }

def execEventLogAppend (s : State) : Res := .next (eventLogAppend s)

/-- The valid summary with the higher generation (R446). -/
def bestSummary (e : Evt) : Option EvSummary :=
  match e.sum0, e.sum1 with
  | some a, some b => if b.generation < a.generation then some a else some b
  | some a, none => some a
  | none, b => b

/-- The newest records that fit in n bytes, taken from a list with the newest first. -/
def fitRecs : Nat → List EvRec → List EvRec
  | _, [] => []
  | n, r :: rs => if r.len ≤ n then r :: fitRecs (n - r.len) rs else []

/-- R446: write the event summary to the boot NOR device that does not hold the newer one. -/
def writeSummary (s : State) : State :=
  let e := s.evt
  let known := e.log ++ e.recs.filter (fun r => !(e.log.any (fun q => q.seq = r.seq)))
  let counts := (List.range 5).map (fun c => e.sumBase.getD c 0 + e.sumSince.getD c 0)
  let gen := (bestSummary e).elim 0 EvSummary.generation + 1
  let x : EvSummary :=
    { generation := gen, hours := s.gh.hours, seconds := s.gh.seconds, cycle := s.gh.pwrCycle,
      newest := e.headSeq.toNat, counts := counts,
      recs := (fitRecs (2 ^ 20 - 64) (known.filter (fun r => r.typ ≠ 0 && decide (2 ≤ r.cls))).reverse).reverse }
  let e := { e with sumBase := counts, sumSince := [0, 0, 0, 0, 0] }
  let older0 : Bool := match e.sum0, e.sum1 with
    | none, _ => true
    | some _, none => false
    | some a, some b => decide (a.generation < b.generation)
  { s with evt := if older0 then { e with sum0 := some x } else { e with sum1 := some x } }

def execEventSummaryWrite (s : State) : Res := .next (writeSummary s)

/-! ### EVT_READ and EVT_SUMMARY -/

/-- The records of a tier, oldest first, fillers left out (R452). -/
def tierRecs (e : Evt) (tier : Nat) : List EvRec :=
  let l := match tier with
    | 0 => e.recs
    | 1 => e.log
    | _ => (bestSummary e).elim [] EvSummary.recs
  l.filter (fun r => r.typ ≠ 0)

/-- Take whole records while at most k of them and n bytes. -/
def takeRecs : Nat → Nat → List EvRec → List EvRec
  | 0, _, _ => []
  | _, _, [] => []
  | k + 1, n, r :: rs => if r.len ≤ n then r :: takeRecs k (n - r.len) rs else []

/-- R452. -/
def evtReadH (p : Bytes) (s : State) : BAns × State :=
  let first := fieldLE p 0 4
  let maxN := fieldLE p 4 1
  let tier := fieldLE p 6 1
  let typ := fieldLE p 8 2
  if maxN = 0 ∨ 2 < tier then refuse .invalidField s
  else
    let all := tierRecs s.evt tier
    let hits := all.filter (fun r => decide (ahead 32 first r.seq < 2 ^ 31) && decide (fieldLE p 5 1 ≤ r.cls) &&
      (decide (typ = 0) || decide (typ = r.typ)))
    let got := takeRecs maxN 424 hits
    let rest := hits.drop got.length
    let next := match rest.head?, all.getLast? with
      | some r, _ => r.seq
      | none, some r => (r.seq + 1) % 2 ^ 32
      | none, none => first
    let old := match all.head? with
      | some r => seqAfter r.seq first
      | none => false
    let body := got.foldl (fun b r => b ++ evBytes r) []
    (.now (.ok (leN 1 got.length ++ leN 1 (b2n (!rest.isEmpty) + 2 * b2n old) ++ zeros 2 ++ leN 4 next ++ body)), s)

def execEvtRead (n : Fin 64) (s : State) : Res :=
  .next (basmos n 0x0900 (layoutIs 12 [(7, 1), (10, 2)]) evtReadH s)

/-- The oldest and newest sequence numbers of a tier; 0 and 0 for an empty one (log entry 6). -/
def tierRange (l : List EvRec) : Bytes :=
  leN 4 ((l.head?.map (·.seq)).getD 0) ++ leN 4 ((l.getLast?.map (·.seq)).getD 0)

/-- R453. -/
def evtSummaryH (_ : Bytes) (s : State) : BAns × State :=
  let e := s.evt
  (.now (.ok (leN 4 e.tailSeq.toNat ++ leN 4 e.headSeq.toNat ++ tierRange (tierRecs e 1) ++ tierRange (tierRecs e 2) ++
    leN 4 e.lost ++ leN 4 e.mergeCnt.toNat ++
    (List.range 5).foldl (fun b c => b ++ leN 4 (e.sumBase.getD c 0 + e.sumSince.getD c 0)) [] ++ zeros 12)), s)

def execEvtSummary (n : Fin 64) (s : State) : Res := .next (basmos n 0x0901 (layoutIs 0 []) evtSummaryH s)

/-! ### Latency monitors -/

/-- R442: clear the values and open the window of unit u. -/
def monArm (u : Nat) (s : State) : State :=
  let k := s.mons.stamp + 1
  let s := { s with mons := { s.mons with stamp := k } }
  setMon u { monOf s u with running := true, armStamp := k, live := {} } s

/-- Refresh the shadow of unit u; while the window is open the elapsed time is a free value (log entry 7). -/
def monSnap (u : Nat) (s : State) : State :=
  let m := monOf s u
  if m.running then
    let v := { m.live with elapsed := freeNat s % 2 ^ 32 }
    draw (setMon u { m with live := v, shadow := v } s)
  else setMon u { m with shadow := m.live } s

/-- R442: stop: the window ends, the values freeze and the shadow is refreshed. -/
def monStop (u : Nat) (s : State) : State :=
  if (monOf s u).running then
    let s := monSnap u s
    setMon u { monOf s u with running := false } s
  else s

/-- R442: window_ms has elapsed. -/
def monWindowEnd (u : Nat) (s : State) : State :=
  let m := monOf s u
  if m.running ∧ m.windowMs ≠ 0 then
    let v := { m.live with elapsed := m.windowMs.toNat }
    setMon u { m with running := false, live := v, shadow := v } s
  else s

def execMonCtlArm (u : Fin 32) (s : State) : Res := .next (monArm u s)
def execMonCtlStop (u : Fin 32) (s : State) : Res := .next (monStop u s)
def execMonCtlSnap (u : Fin 32) (s : State) : Res := .next (monSnap u s)
def execMonWindowEnd (u : Fin 32) (s : State) : Res := .next (monWindowEnd u s)

/-- Set the enable bits of unit u; the lowest enabled user is served (R54). -/
def monEnable (u : Nat) (en : BitVec 3) (s : State) : State :=
  let m := monOf s u
  setMon u { m with en := en, winner := if en = 0 then 0 else lowestUser en } s

/-- R454. -/
def monArmH (p : Bytes) (s : State) : BAns × State :=
  let u := fieldLE p 0 1
  let disarm := (byteAt p 3).getLsbD 0
  if 32 ≤ u ∨ 20 ≤ fieldLE p 1 1 ∨ 16 ≤ fieldLE p 2 1 ∨ 2 ≤ fieldLE p 3 1 then refuse .invalidField s
  else
    let h := claimant 0 true
    match claimHolder s 3 u with
    | some h' => if h' ≠ h then (.now (claimedBy 3 u h'), s) else (.now .ok, act u disarm h s)
    | none => (.now .ok, act u disarm h s)
where
  /-- Arm the unit as asked, or stop it and release the claim. -/
  act (u : Nat) (disarm : Bool) (h : Nat) (s : State) : State :=
    if disarm then dropClaim 3 u (monEnable u (setBit (monOf s u).en 0 false) (monStop u s))
    else
      let s := setMon u { monOf s u with
        probe := BitVec.ofNat 6 (fieldLE p 1 1), scale := BitVec.ofNat 4 (fieldLE p 2 1),
        filter := BitVec.ofNat 32 (fieldLE p 4 4), windowMs := BitVec.ofNat 32 (fieldLE p 8 4) } s
      monArm u (monEnable u (setBit (monOf s u).en 0 true) (setClaim 3 u h s))

def execMonArm (n : Fin 64) (s : State) : Res := .next (basmos n 0x0910 (layoutIs 16 [(12, 4)]) monArmH s)

/-- R455: snap a unit and return its values. -/
def monReadH (p : Bytes) (s : State) : BAns × State :=
  let u := fieldLE p 0 1
  if 32 ≤ u then refuse .invalidField s
  else
    let s := monSnap u s
    let m := monOf s u
    let v := m.shadow
    (.now (.ok (leN 1 m.probe.toNat ++ leN 1 m.scale.toNat ++ leN 1 (b2n m.running) ++ zeros 1 ++
      leN 4 m.filter.toNat ++ leN 4 v.elapsed ++ leN 8 v.count ++ leN 8 v.sum ++ leN 4 v.min ++ leN 4 v.max ++
      leN 4 v.overCnt ++ zeros 8 ++ (List.range 64).foldl (fun b k => b ++ leN 4 (tgetD v.buckets k 0)) [])), s)

def execMonRead (n : Fin 64) (s : State) : Res := .next (basmos n 0x0911 (layoutIs 4 [(1, 3)]) monReadH s)

end Sys2Proof.Machine
end

