-- ==== Sys2Proof/Machine/Lat.lean ====
section
/-!
DEFINITION. Machine/Lat.lean: queue pairs, outbound packets, completions, tags and replay tables: what every part that
answers a host command shares (R62, R127, R138, R139, R153, R171, R172).
-/
namespace Sys2Proof.Machine

/-- Queue pair n; an unlisted one is FREE. -/
def qpOf (s : State) (n : Nat) : Qp := tgetD s.lat.qps n {}

/-- Replace queue pair n. -/
def setQp (n : Nat) (q : Qp) (s : State) : State := { s with lat := { s.lat with qps := tset s.lat.qps n q } }

/-- Tag t of a queue pair. -/
def tagOf (q : Qp) (t : Nat) : LTag := tgetD q.tags t {}

/-- Replace tag t. -/
def setTag (n t : Nat) (g : LTag) (s : State) : State :=
  let q := qpOf s n
  setQp n { q with tags := tset q.tags t g } s

/-- The command with this ASN. -/
def cmdOf (s : State) (asn : Nat) : Option Cmd := tget s.jrn.cmds asn

/-- Replace a command in progress. -/
def setCmd (asn : Nat) (c : Cmd) (s : State) : State := { s with jrn := { s.jrn with cmds := tset s.jrn.cmds asn c } }

/-- Update a command in progress. -/
def modCmd (asn : Nat) (f : Cmd → Cmd) (s : State) : State :=
  { s with jrn := { s.jrn with cmds := tmod s.jrn.cmds asn f } }

/-- Is the command a writer (WRITE or RELEASE), a reader (READ or RECALL) (R67)? -/
def isWriter (c : Cmd) : Bool := decide (c.opcode = 1 ∨ c.opcode = 4)
def isReader (c : Cmd) : Bool := decide (c.opcode = 2 ∨ c.opcode = 6)

/-! ### Outbound packets -/

/-- Host port n; an unlisted one is not configured. -/
def hportOf (s : State) (n : Nat) : HPort := tgetD s.lat.hports n {}

/-- May the queue pair send data and completions: OPEN, its port's priority not paused (R149, Table 6.2)? -/
def maySend (s : State) (q : Qp) : Bool := decide (q.st = .open_) && !(hportOf s q.port).paused

/-- Take the next counter of the transmit key (R171, R172): none when it would be 2^40, and the queue pair then needs a
new key. -/
def nextCounter (q : Qp) : Option (Nat × Qp) :=
  if !q.gcm then some (0, q)
  else match q.tx with
    | none => none
    | some k =>
      let n := (k.high.map (· + 1)).getD 0
      if 2 ^ 40 ≤ n then none
      else some (n, { q with tx := some { k with high := some n }, rekeyDue := q.rekeyDue || decide (2 ^ 39 ≤ n) })

/-- The base transport header in the standard's order (R9, Table 6.1): opcode, solicited event, migration state and pad count,
partition key, destination queue pair, acknowledge request, PSN. The three flags are free (log entry 14). -/
def bth (s : State) (q : Qp) (op len psn : Nat) : Bytes :=
  beN 1 op ++ beN 1 (freeNat s % 4 * 64 + (4 - len % 4) % 4 * 16) ++ beN 2 0xFFFF ++ beN 1 0 ++ beN 3 q.destQp ++
    beN 1 (freeNat s / 4 % 2 * 128) ++ beN 3 psn

/-- The RDMA extended transport header, and the acknowledge extended transport header. -/
def reth (addr key len : Nat) : Bytes := beN 8 addr ++ beN 4 key ++ beN 4 len
def aeth (syndrome msn : Nat) : Bytes := beN 1 syndrome ++ beN 3 msn

/-- The standard's code of a credit count: the largest code whose count is not above it (Table 6.1, log entry 14). -/
def creditCode (n : Nat) : Nat :=
  ([1, 2, 3, 4, 6, 8, 12, 16, 24, 32, 48, 64, 96, 128, 192, 256].filter (· ≤ n)).length

/-- Send a packet that has no payload of its own: an ACK or NAK, whose AETH it carries (R150). -/
def emitAeth (n psn syndrome msn : Nat) (o : Out) (s : State) : State :=
  draw (emit (.roce n (bth s (qpOf s n) 0x11 0 psn ++ aeth syndrome msn)) (emit o s))

/-- The bytes of a packet payload: in the clear, or as Table 6.6 lays them out, with the headers as additional data (R170). -/
def sealPayload (q : Qp) (n : Nat) (hdr p : Bytes) : Bytes :=
  match q.gcm, q.tx with
  | true, some k =>
    let head := leN 5 n ++ leN 1 k.phase ++ zeros 2
    let (ct, tag) := gcmEnc k.key (k.salt ++ leN 8 n) (hdr ++ head) p
    head ++ ct ++ tag
  | _, _ => p

/-- The event and the flag of a transmit counter that has reached 2^39 (R172). -/
def rekeyNote (n : Nat) (before after : Qp) (s : State) : State :=
  if after.rekeyDue ∧ !before.rekeyDue then record 0x0A 6 1 (.queuePair n) (leN 1 2) s else s

/-- Hand one packet to the wire: it takes the next PSN, waits for its acknowledgement, and counts its key's counter. The
answer is false when the queue pair may not send it now. -/
def txPacket (n asn : Nat) (isSend : Bool) (op : Nat) (ext p : Bytes) (mk : Nat → Bytes → Out) (s : State) : Bool × State :=
  let q := qpOf s n
  if !maySend s q then (false, s)
  else match nextCounter q with
    | none =>
      (false, record 0x0A 6 2 (.queuePair n) (leN 1 1) (setQp n { q with st := .rekey } s))
    | some (ctr, q') =>
      let hdr := bth s q op (if q.gcm then p.length + 24 else p.length) q.txPsn ++ ext
      let body := sealPayload q ctr hdr p
      let s := setQp n { q' with
        txPsn := (q.txPsn + 1) % 2 ^ 24
        outs := q.outs ++ [{ psn := q.txPsn, isSend := isSend, asn := asn, csn := ((cmdOf s asn).map (·.csn)).getD 0 }] } s
      let s := rekeyNote n q q' s
      (true, draw (emit (.roce n (hdr ++ body)) (emit (mk q.txPsn body) s)))

/-- Bytes of RDMA WRITE data per packet: the path MTU, less 24 under compatibility encryption (R150, Table 6.6). -/
def mtuData (q : Qp) : Nat := if q.gcm then 4072 else 4096

/-- Send what waits: RDMA WRITEs first, so no completion overtakes the read data it reports (R165). -/
def flushQp (n : Nat) : Nat → State → State
  | 0, s => s
  | k + 1, s =>
    let q := qpOf s n
    match q.toWrite with
    | (asn, key, addr, d) :: rest =>
      let m := mtuData q
      let last := decide (d.length ≤ m)
      -- RDMA WRITE First, Middle, Last and Only; First and Only carry the RETH
      let op := if q.begun then (if last then 8 else 7) else if last then 0x0A else 6
      let ext := if q.begun then [] else reth addr key d.length
      match txPacket n asn false op ext (d.take m) (fun psn b => .rdmaWrite n psn key addr b) s with
      | (true, s) =>
        let q := qpOf s n
        let rest := if last then rest else (asn, key, addr + m, d.drop m) :: rest
        flushQp n k (setQp n { q with toWrite := rest, begun := !last } s)
      | (false, s) => s
    | [] =>
      match q.toSend with
      | c :: rest =>
        match txPacket n 0 true 4 [] c (fun psn b => .send n psn b) s with
        | (true, s) => flushQp n k (setQp n { qpOf s n with toSend := rest } s)
        | (false, s) => s
      | [] => s

/-- Send all that may go now. -/
def flushAll (n : Nat) (s : State) : State :=
  let q := qpOf s n
  flushQp n (q.toSend.length + sumBy (fun w => cdiv w.2.2.2.length 4072 + 1) q.toWrite) s

/-! ### Replay tables (R62) -/

/-- The 16-byte replay-table entry's place: enter it, and forget what lies 256 or more behind the newest CSN. -/
def enterTable (t : RTable) (e : ReplayEntry) : RTable :=
  let newest := if 0 < ahead 32 t.newest e.csn ∧ ahead 32 t.newest e.csn < 2 ^ 31 then e.csn else t.newest
  { t with
    newest := newest
    entries := tfilter (fun c _ => decide (ahead 32 c newest ≤ 255)) (tset t.entries e.csn e) }

/-- Enter an outcome in the replay table of a queue of this head. -/
def enterReplay (queueId : Nat) (e : ReplayEntry) (s : State) : State :=
  let t := tgetD s.jrn.tables queueId { newest := e.csn }
  { s with jrn := { s.jrn with tables := tset s.jrn.tables queueId (enterTable t e) } }

/-- The replay-table entry of a command's outcome. -/
def replayOf (c : Cmd) : ReplayEntry :=
  { csn := c.csn, crc := c.crc, opcode := c.opcode, status := c.status, result := c.result }

/-! ### Completions -/

/-- A completion (Table 5.8). -/
def completion (csn tag : Nat) (st : Status) (opcode orig result epoch : Nat) : Bytes :=
  leN 4 csn ++ leN 1 tag ++ leN 1 st.code ++ leN 1 opcode ++ leN 1 orig ++ leN 4 result ++ leN 4 epoch

/-- Post a completion on a live queue pair: handed to the transport engine, its tag free (R76, R127). -/
def postOn (n tag : Nat) (st : Status) (result : Nat) (bytes : Bytes) (s : State) : State :=
  let q := qpOf s n
  let s := emit (.completion n tag st result) s
  flushAll n (setQp n { q with toSend := q.toSend ++ [bytes], tags := terase q.tags tag } s)

/-- Is the queue pair the live connection of this queue? -/
def liveFor (s : State) (n queueId : Nat) : Bool :=
  let q := qpOf s n
  decide (q.queueId = queueId) && decide (q.st = .open_ ∨ q.st = .rekey ∨ q.st = .connecting)

/-- Free a tag of a queue pair if it carries a command. -/
def freeTagOf (n tag asn : Nat) (s : State) : State :=
  let q := qpOf s n
  if (tagOf q tag).asn = some asn then setQp n { q with tags := terase q.tags tag } s else s

/-- A command of a closed queue has its outcome: its tag leaves the queue's context (R152), on the queue pair that has reopened
the queue as well. -/
def leaveTag (c : Cmd) (asn : Nat) (s : State) : State :=
  let s := freeTagOf c.qpn c.tag asn s
  let s := match (s.lat.qps.find? (fun e => decide (e.2.queueId = c.queueId ∧ e.2.st ≠ .free))).map (·.1) with
    | some n => freeTagOf n c.tag asn s
    | none => s
  { s with lat := { s.lat with queues := tmod s.lat.queues c.queueId (fun l =>
      { l with busy := l.busy.filter (· ≠ c.tag) }) } }

/-- The completion of a command is posted; one that can no longer be delivered is dropped (R123). The command is no
longer in progress. A fenced head posts none (R110). -/
def finishCmd (asn : Nat) (s : State) : State :=
  match cmdOf s asn with
  | none => s
  | some c =>
    if s.pair.fenced ∧ c.status ≠ .fenced then s
    else
      let s := if c.internal.isSome then s else enterReplay c.queueId (replayOf c) s
      let accepted := isWriter c && decide (c.status = .success)
      let bytes := completion c.csn c.tag c.status c.opcode 0 c.result (if accepted then c.epoch else 0)
      let s := if !c.closed ∧ liveFor s c.qpn c.queueId then postOn c.qpn c.tag c.status c.result bytes s
        else leaveTag c asn s
      -- monitor probes 0 to 3 (Table 16.5)
      let probe := [0, 0, 1, 2, 0, 0, 3].getD c.opcode 0
      let s := if [1, 2, 3, 6].contains c.opcode ∧ 0 < c.stamp then monCount probe c.volume c.stamp s else s
      { s with jrn := { s.jrn with
        cmds := terase s.jrn.cmds asn
        epoch := if c.epoch = s.jrn.epoch.number then { s.jrn.epoch with high := max s.jrn.epoch.high asn } else s.jrn.epoch } }

/-- Answer a message that is not a command in progress (Table 3.2's BUSY, REPLAYED and INVALID_FIELD, and messages whose
capsule never came): the table is left as it was. -/
def answerMsg (n tag csn opcode : Nat) (st : Status) (orig result : Nat) (s : State) : State :=
  if s.pair.fenced ∧ st ≠ .fenced then s
  -- one that can no longer be delivered is dropped (R123)
  else if (qpOf s n).st = .closing then setQp n { qpOf s n with tags := terase (qpOf s n).tags tag } s
  else postOn n tag st result (completion csn tag st opcode orig result 0) s

end Sys2Proof.Machine
end

