-- ==== Sys2Proof/Machine/JRecord.lean ====
section
/-!
DEFINITION. Machine/JRecord.lean: the bytes of a journal record and its check field (Tables 3.6, 3.7, 9.6; R58, R80, R81),
the payloads of Footbridge messages and the frames that carry them (R95, R96, R98, R100, R103).
-/
namespace Sys2Proof.Machine

/-! ### Journal records -/

/-- The type of a record (Table 3.6). -/
def bodyType : JBody → Nat
  | .unit .. => 1
  | .chunk .. => 2
  | .reference .. => 3
  | .release .. => 4
  | .abort => 5
  | .epochMarker _ => 6
  | .completion .. => 7
  | .drained .. => 8
  | .mapMoves _ => 9
  | .mapCheckpoint .. => 9
  | .mapBlocks _ => 9
  | .ownership .. => Config.ownershipType

/-- The payload of a record (Tables 3.7, 9.6; R58, R80). The payloads of a reference, a release range, an epoch marker, a
drained record and a record of ownership are the model's own layouts, since the manual gives none (log entry 118). -/
def bodyBytes : JBody → Bytes
  | .unit q csn crc op vol first blocks n =>
    leN 8 q ++ leN 4 csn ++ leN 4 crc ++ leN 1 op ++ zeros 3 ++ leN 4 vol ++ leN 8 first ++ leN 4 blocks ++ leN 4 n
  | .chunk _ _ e r => e ++ r
  | .reference vol chunk serial _ => leN 4 vol ++ zeros 4 ++ leN 8 chunk ++ leN 8 serial
  | .release vol first blocks => leN 4 vol ++ leN 4 blocks ++ leN 8 first
  | .abort => []
  | .epochMarker high => leN 8 high
  | .completion q e =>
    leN 8 q ++ leN 4 e.csn ++ leN 4 e.crc ++ leN 1 e.opcode ++ leN 1 e.status.code ++ zeros 2 ++ leN 4 e.result
  | .drained recs asn unit => leN 8 asn ++ leN 4 unit ++ leN 4 recs.length ++ recs.flatMap (leN 8)
  | .mapMoves es =>
    leN 1 0 ++ zeros 1 ++ leN 2 es.length ++ zeros 4 ++
      es.flatMap (fun e => leN 8 e.serial ++ leN 8 (locWord e.old) ++ leN 8 (locWord e.new))
  | .mapCheckpoint n high => leN 1 1 ++ zeros 1 ++ leN 2 1 ++ zeros 4 ++ leN 8 n ++ leN 8 high
  | .mapBlocks es =>
    leN 1 2 ++ zeros 1 ++ leN 2 es.length ++ zeros 4 ++
      es.flatMap (fun e => leN 8 (locWord e.1) ++ leN 1 e.2.1 ++ zeros 3 ++ leN 4 e.2.2)
  | .ownership r vs => leN 1 r.num ++ zeros 3 ++ leN 4 vs.length ++ vs.flatMap (leN 4)

/-- The payload length of a record. The lengths 24, 16, 8 and 16 + 8n of the reference, release range, epoch marker and
drained records are the model's (log entry 118). -/
def bodyLen : JBody → Nat
  | .unit .. => 40
  | .chunk _ _ e r => e.length + r.length
  | .reference .. => 24
  | .release .. => 16
  | .abort => 0
  | .epochMarker _ => 8
  | .completion .. => 24
  | .drained recs _ _ => 16 + 8 * recs.length
  | .mapMoves es => 8 + 24 * es.length
  | .mapCheckpoint .. => 24
  | .mapBlocks es => 8 + 16 * es.length
  | .ownership _ vs => 8 + 4 * vs.length

/-- The bytes of a record with a given check field (Table 3.6). -/
def recImage (r : JRec) (check : Nat) : Bytes :=
  leN 1 (bodyType r.body) ++ leN 1 (b2n r.last + 2 * b2n r.replayed) ++ zeros 2 ++ leN 4 r.len ++ leN 8 r.asn ++
    leN 2 r.unit ++ leN 2 r.units ++ leN 4 r.epoch ++ leN 4 check ++ zeros 4 ++ bodyBytes r.body

/-- The check field a record must carry (Table 3.6). -/
def recCheck (r : JRec) : Nat := crc32c (recImage r 0)

/-- A record is valid when its check field is correct (R81). -/
def recValid (r : JRec) : Bool := decide (r.check = recCheck r)

/-- The record with its check field computed. -/
def sealRec (r : JRec) : JRec := { r with check := recCheck r }

/-- The record as replayed from the peer's copy (Table 3.6, flags bit 1). -/
def asReplayed (r : JRec) : JRec := sealRec { r with replayed := true }

/-- The bytes a record takes in its region: header and payload at 128-byte alignment (R80). -/
def recSize (r : JRec) : Nat := cdiv (32 + r.len) 128 * 128

/-- The valid records of the own region, none of whose lines is lost. -/
def ownGood (s : State) : List JRec := (s.jrn.own.filter (fun x => !x.lost && recValid x.r)).map (·.r)

/-- The valid records of the mirror region, none of whose lines is lost. -/
def mirrorGood (s : State) : List JRec :=
  s.jrn.mirror.filter (fun x => recValid x && !s.jrn.mirrorLost.contains x.off)

/-! ### Footbridge messages (Table 4.2) -/

/-- The type of a message. -/
def ftbType : FtbOut → Nat
  | .hello _ => 1
  | .heartbeat .. => 2
  | .mirror .. => 3
  | .receipt .. => 4
  | .snak .. => 5
  | .snakBytes .. => 5
  | .handover _ => 6
  | .resync .. => 7
  | .resend .. => 0

/-- The class of a message type (Table 4.2): 0 control, 1 mirror. -/
def ftbClass (type : Nat) : Nat := if type = 3 ∨ type = 7 then 1 else 0

/-- Region offset and records (Table 4.2). -/
def mirrorBytes (recs : List JRec) : Bytes :=
  leN 8 ((recs.head?.map (·.off)).getD 0) ++ recs.flatMap (fun r => fit (recSize r) (recImage r r.check))

/-- The payload of a message (Table 4.3, R100). The manual lays out neither HELLO, SNAK nor HANDOVER: their byte layouts are
the model's (log entry 119). -/
def ftbPayload : FtbOut → Bytes
  | .hello m =>
    leN 1 m.generation ++ leN 1 (b2n m.lkn256 + 2 * b2n m.restarting + 4 * b2n m.keepValid + 8 * b2n m.autoFail) ++
      leN 1 ((m.role.map Role.num).getD 0xFF) ++ zeros 1 ++ fit 16 m.serial ++ fit 16 m.arrayId ++ leN 4 m.maxOwnGib ++
      leN 4 m.ownGib ++ leN 4 m.epochMs ++ leN 4 m.fwVersion ++ leN 8 m.firstMsgId ++ leN 8 m.asnHigh
  | .heartbeat _ m =>
    leN 8 m.counter ++ leN 8 m.asnHigh ++ leN 8 m.epoch ++ leN 1 m.state ++
      leN 1 (b2n m.powerFail + 2 * b2n m.handover + 4 * b2n m.fenced) ++ leN 1 m.portsUp ++ leN 1 m.generation ++
      leN 4 m.recordGen
  | .mirror _ recs => mirrorBytes recs
  | .receipt cum ranges =>
    leN 8 cum ++ leN 2 ranges.length ++ zeros 6 ++ ranges.flatMap (fun r => leN 8 r.1 ++ leN 8 r.2)
  | .snak port cls first last => leN 1 0 ++ leN 1 port ++ leN 1 cls ++ zeros 5 ++ leN 4 first ++ leN 4 last
  | .snakBytes id ranges =>
    leN 1 1 ++ zeros 7 ++ leN 8 id ++ ranges.flatMap (fun r => leN 4 r.1 ++ leN 4 r.2)
  | .handover m => match m with
    | .relinquish vs => leN 1 1 ++ zeros 3 ++ leN 4 vs.length ++ vs.flatMap (leN 4)
    | .volumesReceived vs => leN 1 2 ++ zeros 3 ++ leN 4 vs.length ++ vs.flatMap (leN 4)
    | .requestFence => leN 1 3 ++ zeros 7
  | .resync _ recs => mirrorBytes recs
  | .resend .. => []

/-- The frame of one segment (R95, R96, Table 4.1): port, class, port_seq, offset and length of the segment. -/
def ftbFrame (type id len : Nat) (payload : Bytes) (g : Nat × Nat × Nat × Nat × Nat) : Bytes :=
  let (port, cls, seq, off, n) := g
  let data := bslice payload off n
  let last := decide (off + n = len)
  let head (check : Nat) : Bytes :=
    leN 1 type ++ leN 1 cls ++ leN 1 (b2n (decide (off = 0)) + 2 * b2n last) ++ leN 1 port ++
      leN 4 (if last then len else 0) ++ leN 8 id ++ leN 4 off ++ leN 2 n ++ zeros 2 ++ leN 4 seq ++ leN 4 check
  let frame := (List.range 6).map (Config.ftbDestByte port) ++ [0x02, 0, 0, 0, 0] ++ leN 1 port ++ [0x88, 0xB6] ++
    head (crc32c (head 0 ++ data)) ++ data
  frame ++ leN 4 (crc32 frame)

/-- Send the frames of segments. -/
def sendFrames (type id len : Nat) (payload : Bytes) (segs : List (Nat × Nat × Nat × Nat × Nat)) (s : State) : State :=
  segs.foldl (fun s g => emit (.ftbFrame g.1 (ftbFrame type id len payload g)) s) s

end Sys2Proof.Machine
end

