-- ==== Sys2Proof/Machine/Journal.lean ====
section
/-!
DEFINITION. Machine/Journal.lean: the journal regions, mirroring over the Footbridge, and release (R56, R80 to R83,
R98 to R102, R485).
-/
namespace Sys2Proof.Machine

/-! ### Sending over the Footbridge (R98, R101) -/

/-- Footbridge port n. -/
def fportOf (s : State) (n : Nat) : FPort := tgetD s.ftb.ports n {}

/-- Replace Footbridge port n. -/
def setFport (n : Nat) (p : FPort) (s : State) : State := { s with ftb := { s.ftb with ports := tset s.ftb.ports n p } }

/-- The ports that are up. -/
def upPorts (s : State) : List Nat := (List.range 4).filter (fun n => (fportOf s n).up)

/-- Deal segments of up to 9,088 bytes to the up ports in turn, each frame taking the next port_seq of its port and
class; k bounds the segments. -/
def dealSegs (cls : Nat) : Nat → Nat → Nat → State → List (Nat × Nat × Nat × Nat × Nat) × State
  | 0, _, _, s => ([], s)
  | k + 1, off, len, s =>
    match upPorts s with
    | [] => ([], s)
    | ups =>
      let p := (ups.find? (fun n => decide (s.ftb.turn ≤ n))).getD (ups.headD 0)
      let v := fportOf s p
      let seq := if cls = 0 then v.txCtl else v.txMir
      let v := if cls = 0 then { v with txCtl := (v.txCtl + 1) % 2 ^ 32 } else { v with txMir := (v.txMir + 1) % 2 ^ 32 }
      let s := setFport p v s
      let s := { s with ftb := { s.ftb with turn := (p + 1) % 4 } }
      let n := min len 9088
      let (rest, s) := if len ≤ 9088 then ([], s) else dealSegs cls k (off + n) (len - n) s
      ((p, cls, seq, off, n) :: rest, s)

/-- Send a message: it takes the next msg_id, goes out in segments dealt to the up ports, and is held until a receipt
covers it (R98, R99). While no port is up nothing goes out (R97); the resend timer sends it then. -/
def ftbSend (type cls len : Nat) (offs : List Nat) (mk : Nat → FtbOut) (s : State) : Nat × State :=
  let id := s.ftb.nextId
  let (segs, s) := dealSegs cls (len / 9088 + 1) 0 len s
  let s := { s with ftb := { s.ftb with
    nextId := id + 1
    sent := tset s.ftb.sent id { type := type, len := len, segs := segs, offs := offs, body := mk id } } }
  let s := if type = 3 ∧ segs ≠ [] then monBegin 5 id s else s
  (id, if segs = [] then s else sendFrames type id len (ftbPayload (mk id)) segs (emit (.ftb (mk id)) s))

/-- Send a control message that carries no records. -/
def ftbControl (m : FtbOut) (s : State) : State := (ftbSend (ftbType m) 0 (ftbPayload m).length [] (fun _ => m) s).2

/-- Send a control message on one port, up or not (R103: a HEARTBEAT goes to every aligned port). -/
def ftbOnPort (n : Nat) (m : FtbOut) (s : State) : State :=
  let id := s.ftb.nextId
  let p := fportOf s n
  let len := (ftbPayload m).length
  let g := (n, 0, p.txCtl, 0, len)
  let s := setFport n { p with txCtl := (p.txCtl + 1) % 2 ^ 32 } s
  let s := { s with ftb := { s.ftb with
    nextId := id + 1
    sent := tset s.ftb.sent id { type := ftbType m, len := len, segs := [g], offs := [], body := m } } }
  sendFrames (ftbType m) id len (ftbPayload m) [g] (emit (.ftb m) s)

/-- Bytes of mirror payload sent and not receipted. -/
def unreceipted (s : State) : Nat := sumBy (fun m => if m.type = 3 then m.len else 0) (tvals s.ftb.sent)

/-! ### Records -/

/-- The size of a region. -/
def regionSize (s : State) : Nat := s.jrn.ownGib * 2 ^ 30

/-- The bytes of the own region in use, and free. -/
def ownUsed (s : State) : Nat := sumBy (fun r => recSize r.r) s.jrn.own
def ownFree (s : State) : Nat := regionSize s - ownUsed s

/-- R83: the own region has less than 1 GiB free. -/
def journalLow (s : State) : Bool := decide (ownFree s < 2 ^ 30)

/-- Do n bytes at offset o overlap no record of the region? -/
def offFree (own : List OwnRec) (size o n : Nat) : Bool :=
  decide (o + n ≤ size) && own.all (fun r => decide (r.r.off + recSize r.r ≤ o ∨ o + n ≤ r.r.off))

/-- Where a record of n bytes goes: at the cursor, or at the end of the first record behind which it fits. -/
def allocOff (s : State) (n : Nat) : Nat :=
  let ends := s.jrn.own.map (fun r => r.r.off + recSize r.r)
  ((s.jrn.cursor :: 0 :: ends).find? (fun o => offFree s.jrn.own (regionSize s) o n)).getD s.jrn.cursor

/-- Does this head mirror its records: whole, or resynchronising a rejoined head (Table 4.8 step 2)? -/
def mirrors (s : State) : Bool := decide (s.pair.state = 3 ∨ (s.pair.state = 2 ∧ 1 < s.pair.failStep)) && !s.pair.fenced

/-- Does acceptance wait on the peer's receipts (R56 condition 3, R59, Table 4.8 step 3)? -/
def waitsPeer (s : State) : Bool := decide (s.pair.state = 3 ∨ (s.pair.state = 2 ∧ 2 < s.pair.failStep))

/-- The own-region record at an offset. -/
def ownAt (s : State) (off : Nat) : Option OwnRec := s.jrn.own.find? (fun r => decide (r.r.off = off))

/-- Update the own-region records that satisfy p. -/
def modOwn (p : OwnRec → Bool) (f : OwnRec → OwnRec) (s : State) : State :=
  { s with jrn := { s.jrn with own := modWhere p f s.jrn.own } }

/-- Mirror the record at an offset, or let it wait for room in the 256 MiB (R101). -/
def mirrorRec (off : Nat) (s : State) : State :=
  match ownAt s off with
  | none => s
  | some r =>
    let n := 8 + recSize r.r
    if s.ftb.waiting ≠ [] ∨ 2 ^ 28 < unreceipted s + n then
      { s with ftb := { s.ftb with waiting := s.ftb.waiting ++ [off] } }
    else
      (ftbSend 3 1 n [off] (fun id => .mirror id [r.r]) s).2

/-- Send waiting records while the 256 MiB have room. -/
def mirrorWaiting : Nat → State → State
  | 0, s => s
  | k + 1, s =>
    match s.ftb.waiting with
    | [] => s
    | off :: rest =>
      let n := 8 + ((ownAt s off).map (fun r => recSize r.r)).getD 0
      if 2 ^ 28 < unreceipted s + n then s
      else mirrorWaiting k (
        let s' := mirrorRec off { s with ftb := { s.ftb with waiting := [] } }
        { s' with ftb := { s'.ftb with waiting := rest } })

/-- Write a record to the own region, a store of port 4 that stages it in the Conservatory (R367, R373), and mirror it (step 6 of
Table 3.1); the answer is its offset. -/
def writeRec (asn unit units : Nat) (last : Bool) (body : JBody) (s : State) : Nat × State :=
  let r : JRec := sealRec {
    off := 0, asn := asn, unit := unit, units := units, epoch := s.jrn.epoch.number % 2 ^ 32, len := bodyLen body,
    last := last, replayed := false, check := 0, body := body }
  let n := recSize r
  let off := allocOff s n
  let s := cnsStores 4 (Config.ownBase + off) n { s with jrn := { s.jrn with
    own := s.jrn.own ++ [{ r := { r with off := off } }], cursor := (off + n) % regionSize s } }
  (off, if mirrors s then mirrorRec off s else s)

/-- A record that belongs to no commit unit. -/
def writeLoose (body : JBody) (s : State) : Nat × State := writeRec 0 0 0 false body s

/-- Is a record done: acknowledged by DRAM, and receipted while acceptance waits on the peer? -/
def recDone (s : State) (r : OwnRec) : Bool := r.acked && (r.receipted || !waitsPeer s)

/-- Is the record at an offset done? One that has left the region is. -/
def offDone (s : State) (off : Nat) : Bool := ((ownAt s off).map (recDone s)).getD true

/-- The records of a commit unit. -/
def unitRecs (s : State) (asn unit : Nat) : List OwnRec :=
  s.jrn.own.filter (fun r => decide (r.r.asn = asn ∧ r.r.unit = unit ∧ 0 < r.r.units))

/-! ### Release (R82, R485) -/

/-- Take records out of the own region. -/
def dropOwn (offs : List Nat) (s : State) : State :=
  { s with
    jrn := { s.jrn with own := s.jrn.own.filter (fun r => !offs.contains r.r.off) }
    map := { s.map with ckptOff := s.map.ckptOff.filter (fun o => !offs.contains o) } }

/-- Write the drained record that names records, and mark them. -/
def drainRecs (offs : List Nat) (asn unit : Nat) (s : State) : State :=
  if offs = [] then s
  else
    let s := modOwn (fun r => offs.contains r.r.off) (fun r => { r with drained := true }) s
    (writeLoose (.drained offs asn unit) s).2

/-- May a record that belongs to no commit unit be released now (Table 3.13)? -/
def looseReady (s : State) (r : OwnRec) : Bool :=
  !r.drained && decide (r.r.units = 0) && (match r.r.body with
    | .completion .. => recDone s r && (s.jrn.cmds.all (fun c => decide (c.2.waitRec ≠ some r.r.off)))
    | .abort => recDone s r && !thas s.jrn.cmds r.r.asn
    | .epochMarker _ => recDone s r && s.jrn.units.all (fun u => decide (r.r.epoch < u.epoch))
    | .mapMoves _ => recDone s r && r.checkpointed
    | .mapCheckpoint .. => recDone s r && r.checkpointed
    | .mapBlocks _ => recDone s r && r.checkpointed
    | .ownership .. => recDone s r
    | _ => false)

/-- The records that an abort record releases with itself: every record of its target. -/
def withTarget (s : State) (r : OwnRec) : List Nat :=
  match r.r.body with
  | .abort => (s.jrn.own.filter (fun x => decide (x.r.asn = r.r.asn))).map (·.r.off)
  | _ => [r.r.off]

/-- Release the records that Table 3.13 lets go, by one drained record. -/
def releaseLoose (s : State) : State :=
  drainRecs ((s.jrn.own.filter (looseReady s)).flatMap (withTarget s)) 0 0 s

/-- Free the space that done drained records name (R82, R485): a released unit leaves the books. -/
def freeDrained (s : State) : State :=
  (s.jrn.own.filter (fun r => recDone s r)).foldl (fun s r =>
    match r.r.body with
    | .drained offs asn unit =>
      let s := dropOwn (r.r.off :: offs) s
      { s with jrn := { s.jrn with
        units := s.jrn.units.filter (fun u => !(decide (u.asn = asn) && decide (u.unit = unit)) || decide (offs = [])) } }
    | _ => s) s

/-! ### Outcomes (R57, R58, R484) -/

/-- Write the completion record of a command's outcome; its completion waits on it (R58). -/
def recordOutcome (asn : Nat) (c : Cmd) (s : State) : State :=
  let (off, s) := writeRec asn 0 0 false (.completion c.queueId (replayOf c)) s
  modCmd asn (fun c => { c with waitRec := some off }) s

/-- A command has its outcome: its tag enters ENDING (Table 5.10). -/
def endTag (asn : Nat) (c : Cmd) (s : State) : State :=
  let g := tagOf (qpOf s c.qpn) c.tag
  if g.asn = some asn then setTag c.qpn c.tag { g with st := .ending } s else s

/-- Decide a command: its status and result stand, its tag is ending; the completion record, and for a writer with a unit record written
the abort record (R484), go to the journal, and the completion waits on them (R58). A READ that succeeds has written its
record with its first RDMA WRITE. -/
def decide_ (asn : Nat) (st : Status) (result : Nat) (s : State) : State :=
  match cmdOf s asn with
  | none => s
  | some c =>
    if c.stage = .decided then s
    else
      let c := { c with stage := .decided, status := st, result := result }
      let s := endTag asn c (setCmd asn c s)
      if isWriter c ∧ st = .success then s
      else
        let aborts := isWriter c ∧ (st = .aborted ∨ c.units.any (·.unitWritten))
        let s := if aborts then (writeRec asn 0 0 false .abort s).2 else s
        if c.waitRec.isSome ∧ st = .success then s else recordOutcome asn c s

/-- May the completion of a decided command be posted now (R57 to R59, R75, R484)? -/
def mayPost (s : State) (asn : Nat) (c : Cmd) : Bool :=
  decide (c.stage = .decided) && (match c.waitRec with
    | some off => offDone s off &&
        s.jrn.own.all (fun r => match r.r.body with
          | .abort => decide (r.r.asn ≠ asn ∧ some r.r.asn ≠ c.target) || recDone s r
          | _ => true)
    | none => c.units.all (·.committed))

/-- Post the completions that wait on nothing more. -/
def postReady (s : State) : State :=
  (s.jrn.cmds.filter (fun e => mayPost s e.1 e.2)).foldl (fun s e => finishCmd e.1 s) s

end Sys2Proof.Machine
end

