-- ==== Sys2Proof/Machine/Sled.lean ====
section
/-!
DEFINITION. Machine/Sled.lean: the Zwiner link of a sled port: flits, credits, link states, sessions, descriptors and
the identity records (chapter 10). What a command's end means for its work stands in the files that sent it.
-/
namespace Sys2Proof.Machine

/-- Sled port p; an unlisted one is at reset. -/
def portOf (s : State) (p : Nat) : SPort := tgetD s.sleds.ports p {}

/-- Replace port p. -/
def setPort (p : Nat) (v : SPort) (s : State) : State :=
  { s with sleds := { s.sleds with ports := tset s.sleds.ports p v } }

/-- The 256 bytes of a flit (Table 10.5): header, payload, and the CRC-32C of both. -/
def flitImage (vc : Nat) (endF unseq : Bool) (seq ack dcr : Nat) (payload : Bytes) : Bytes :=
  let body := leN 4 (vc % 4 + 4 * b2n endF + 8 * b2n unseq + seq % 4096 * 16 + ack % 4096 * 2 ^ 16 + dcr % 16 * 2 ^ 28) ++ fit 248 payload
  body ++ leN 4 (crc32c body)

/-- The bytes of what port p sends before scrambling: a flit, or the 16 bytes of an ordered-set block (Tables 10.3, 10.4,
10.6). -/
def linkImage (p : Nat) : LinkOut → Bytes
  | .flit vc endF seq ack dcr payload => flitImage vc endF false seq ack dcr payload
  | .idle ack => flitImage 3 true true 0 ack 0 [0x01]
  | .nak seq => flitImage 3 true true 0 (seq + 4095) 0 (leN 1 2 ++ zeros 1 ++ leN 2 seq)
  | .eios => List.replicate 16 0x66
  | .sync => 0xE1 :: List.replicate 15 0xAA
  | .ts1 flags preset =>
    [0x1E, 0x01] ++ leN 1 preset ++ leN 1 (Config.presetAsk p % 8) ++ leN 1 flags ++ List.replicate 11 0x4A
  | .ts2 rxData maxTags =>
    let b := [0x2D, 0x01, 0, 0] ++ leN 1 32 ++ leN 2 rxData ++ leN 1 8 ++ leN 2 maxTags ++ zeros 2
    b ++ leN 4 (crc32c b)
  | .eieos => 0x0F :: (List.range 15).map (fun i => if i % 2 = 0 then 0x00 else 0xFF)
  | .beacon => []
  | .prbs _ => []

/-- One advance of the LFSR x^23 + x^18 + 1 (R287): its output is bit 22, and bits 22 and 17 feed bit 0 (log entry 146). -/
def lfsrStep (l : Nat) : Nat := (2 * l + (l / 2 ^ 22 + l / 2 ^ 17) % 2) % 2 ^ 23

/-- Scramble a byte, least significant bit first: the LFSR after eight advances, and the byte on the wire. -/
def scrambleByte (l : Nat) (b : Byte) : Nat × Byte :=
  (List.range 8).foldl (fun (x : Nat × Byte) i =>
    (lfsrStep x.1, if x.1.testBit 22 then x.2 ^^^ BitVec.twoPow 8 i else x.2)) (l, b)

/-- Scramble bytes in order. -/
def scramble : Nat → Bytes → Nat × Bytes
  | l, [] => (l, [])
  | l, b :: bs => ((scramble (scrambleByte l b).1 bs).1, (scrambleByte l b).2 :: (scramble (scrambleByte l b).1 bs).2)

/-- Blocks of 16 bytes under a sync header, at most k (R286). -/
def blocksOf16 (header : Nat) : Nat → Bytes → List (Nat × Bytes)
  | 0, _ => []
  | k + 1, bs => if bs = [] then [] else (header, fit 16 bs) :: blocksOf16 header k (bs.drop 16)

/-- Put an ordered set on the lane of port p: it is not scrambled, and after a SYNC the LFSR starts from 0x7F_FFFF (R287). -/
def putOrdered (p : Nat) (l : LinkOut) (s : State) : State :=
  let s := emit (.lane p (blocksOf16 2 1 (linkImage p l))) (emit (.link p l) s)
  if l = .sync then setPort p { portOf s p with lfsr := 0x7FFFFF } s else s

/-- Put a flit on the lane of port p: 16 scrambled data blocks (R287, R289). -/
def putFlit (p : Nat) (l : LinkOut) (s : State) : State :=
  let x := scramble (portOf s p).lfsr (linkImage p l)
  emit (.lane p (blocksOf16 1 16 x.2)) (emit (.link p l) (setPort p { portOf s p with lfsr := x.1 } s))

/-- Count the 16 data blocks of a flit just sent: after 1,024 of them a SYNC ordered set follows, between flits (R288, R289).
A SYNC received, dropped or repeated changes nothing here. -/
def countBlocks (p : Nat) (s : State) : State :=
  let v := portOf s p
  if v.sinceSync + 16 < 1024 then setPort p { v with sinceSync := v.sinceSync + 16 } s
  else putOrdered p .sync (setPort p { v with sinceSync := 0 } s)

/-- Send link traffic on port p: a flit, with what it counts to the next SYNC, or an ordered set. -/
def link (p : Nat) (l : LinkOut) (s : State) : State :=
  match l with
  | .flit _ _ _ _ _ _ | .idle _ | .nak _ => countBlocks p (putFlit p l s)
  | .prbs _ => emit (.link p l) s
  | _ => putOrdered p l s

/-! ### Sending (R289 to R292) -/

/-- The ack that a flit of this port carries: the last flit received in order. -/
def ackNow (v : SPort) : Nat := (v.expSeq + 4095) % 4096

/-- Is a credit held for a flit of this channel (R292)? LINK flits need none. -/
def creditFor (v : SPort) (vc : Nat) : Bool :=
  decide (vc = 3 ∨ (vc = 0 ∧ 0 < v.cmdCr) ∨ (vc = 1 ∧ 0 < v.dataCr) ∨ (vc = 2 ∧ 0 < v.mgmtCr))

/-- Spend the credit of a flit. -/
def spendCredit (v : SPort) (vc : Nat) : SPort :=
  match vc with
  | 0 => { v with cmdCr := v.cmdCr - 1 }
  | 1 => { v with dataCr := v.dataCr - 1 }
  | 2 => { v with mgmtCr := v.mgmtCr - 1 }
  | _ => v

/-- The first waiting flit that may go: each channel keeps its order (R291), so a flit waits behind one of its own
channel; blocked lists the channels passed over. -/
def nextTx (v : SPort) (blocked : List Nat) : List TxFlit → Option (TxFlit × List TxFlit)
  | [] => none
  | f :: fs =>
    if !blocked.contains f.vc && creditFor v f.vc then some (f, fs)
    else match nextTx v (f.vc :: blocked) fs with
      | some (g, gs) => some (g, f :: gs)
      | none => none

/-- Send waiting flits while the link is ACTIVE, a credit is held and fewer than 64 flits are unacknowledged. -/
def pump (p : Nat) : Nat → State → State
  | 0, s => s
  | k + 1, s =>
    let v := portOf s p
    if v.state ≠ 4 ∨ 64 ≤ v.replay.length then s
    else match nextTx v [] v.tx with
      | none => s
      | some (f, rest) =>
        let v' := spendCredit { v with
          tx := rest
          replay := v.replay ++ [(v.nextSeq, f)]
          testSeq := if f.vc = 3 ∧ f.payload.head? = some 0x07 then some v.nextSeq else v.testSeq
          nextSeq := (v.nextSeq + 1) % 4096 } f.vc
        pump p k (link p (.flit f.vc f.endF v.nextSeq (ackNow v) 0 f.payload) (setPort p v' s))

/-- Queue flits for sending and send what may go. -/
def sendFlits (p : Nat) (fs : List TxFlit) (s : State) : State :=
  let v := portOf s p
  let n := v.tx.length + fs.length
  pump p n (setPort p { v with tx := v.tx ++ fs } s)

/-- Send what may go now. -/
def pumpAll (p : Nat) (s : State) : State := pump p (portOf s p).tx.length s

/-- A sequenced LINK flit with payload bytes (Table 10.6). -/
def linkFlit (bytes : Bytes) : TxFlit := { vc := 3, endF := true, payload := fit 248 bytes }

/-- The 32-byte request descriptor (Table 10.8); a READ, PROGRAM or ERASE names one plane. -/
def descriptor (c : SledCmd) : Bytes :=
  let planes := if c.op ≤ 3 then 1 else 0
  leN 1 c.op ++ zeros 1 ++ leN 2 c.tag ++ leN 1 c.die ++ leN 1 planes ++ leN 1 (if c.op = 1 then c.grain else 0) ++
    leN 1 (if c.op = 1 then c.count else 0) ++ leN 2 c.page ++ leN 1 (if c.op = 6 then c.arg else 0) ++ zeros 1 ++
    leN 2 c.block ++ zeros 18

/-- The flits of a message of DATA bytes: 248 payload bytes each, the last with end set (R291). -/
def dataFlits : Nat → Bytes → List TxFlit
  | 0, _ => []
  | k + 1, bs =>
    if bs.length ≤ 248 then [{ vc := 1, endF := true, payload := fit 248 bs }]
    else { vc := 1, endF := false, payload := bs.take 248 } :: dataFlits k (bs.drop 248)

/-- The flits of a request: its channel by Table 10.9, a PROGRAM followed by its page data (R297). -/
def cmdFlits (c : SledCmd) : List TxFlit :=
  if c.op = 2 then
    let m := descriptor c ++ c.data
    dataFlits (cdiv m.length 248) m
  else [{ vc := if c.op ≤ 3 then 0 else 2, endF := true, payload := fit 248 (descriptor c) }]

/-- May this command go now on the link (R311, R306 step 2): a management request once ACTIVE, any other once usable? -/
def mayGo (v : SPort) (c : SledCmd) : Bool :=
  decide (v.state = 4) && !v.sleepReq && (decide (4 ≤ c.op) || v.usable)

/-- A tag not in use: the lowest below max_tags that is neither outstanding nor held by a timed-out command. -/
def freeTag (v : SPort) : Nat → Nat → Option Nat
  | 0, _ => none
  | k + 1, t =>
    if v.maxTags ≤ t then none
    else if thas v.outst t ∨ v.dead.contains t then freeTag v k (t + 1) else some t

/-- The bytes that a command programs and reads. -/
def meterOf (c : SledCmd) : Nat × Nat := if c.op = 2 then (16384, 0) else if c.op = 1 then (0, 512 * c.count) else (0, 0)

/-- The cap that a window is metered by: one that a CLOSING shelf has at 0 counts as 120 GB/s (log entry 133). -/
def meterCap (v : Shelf) (cap : Nat) : Nat := if v.st = .closing ∧ cap = 0 then 120 else cap

/-- May a command go to its shelf now (R212, R216): a management request at any time, any other only while the shelf is AWAKE or
CLOSING and, for a READ or PROGRAM, while the 10 ms window stays within the cap? -/
def withinCaps (s : State) (p : Nat) (c : SledCmd) : Bool :=
  let v := tgetD s.plc.shelves (p / 32) {}
  let (w, r) := meterOf c
  decide (4 ≤ c.op) || (decide (v.st = .awake ∨ v.st = .closing) &&
    decide (v.meterW + w ≤ meterCap v v.w * 10000000) && decide (v.meterR + r ≤ meterCap v v.r * 10000000))

/-- Count a command in the window of its shelf. -/
def meter (p : Nat) (c : SledCmd) (s : State) : State :=
  let (w, r) := meterOf c
  if w + r = 0 then s
  else { s with plc := { s.plc with shelves := tmod s.plc.shelves (p / 32) (fun v => { v with
    meterW := v.meterW + w, meterR := v.meterR + r }) } }

/-- Probes 9 to 11 (Table 16.5): a READ, PROGRAM or ERASE of a sled starts as it is issued (log entry 137). -/
def sledStarts (p : Nat) (c : SledCmd) (s : State) : State :=
  if 1 ≤ c.op ∧ c.op ≤ 3 then monBegin (8 + c.op) (p * 1024 + c.tag) s else s

/-- It ends with its response. -/
def sledEnds (p : Nat) (c : SledCmd) (s : State) : State :=
  if 1 ≤ c.op ∧ c.op ≤ 3 then monEnd (8 + c.op) (p * 1024 + c.tag) (p / 32) s else s

/-- Send the waiting commands that may go, oldest first, each under a free tag. -/
def kick (p : Nat) : Nat → State → State
  | 0, s => s
  | k + 1, s =>
    let v := portOf s p
    match takeFirst (fun w => mayGo v w.cmd && withinCaps s p w.cmd) v.waitq with
    | none => s
    | some (w, rest) =>
      match freeTag v 1024 0 with
      | none => s
      | some t =>
        let c := { w.cmd with tag := t }
        let v := { v with waitq := rest, outst := tset v.outst t { w with cmd := c } }
        kick p k (sendFlits p (cmdFlits c) (sledStarts p c (meter p c (emit (.sled p c) (setPort p v s)))))

/-- Send what waits; a sleeping link is woken first, by EIEOS and TS1 with the recovery flag (Table 10.7). -/
def kickAll (p : Nat) (s : State) : State :=
  let v := portOf s p
  if v.state = 6 ∧ v.waitq ≠ [] then link p (.ts1 1 v.txPreset) (link p .eieos s) else kick p v.waitq.length s

/-- Give a command to port p. -/
def sendSled (p : Nat) (why : SledFor) (c : SledCmd) (s : State) : State :=
  let v := portOf s p
  kickAll p (setPort p { v with waitq := v.waitq ++ [{ why := why, cmd := c }] } s)

/-! ### Link states and sessions (R293 to R296) -/

/-- Is the port in a session: ACTIVE, RECOVERY, SLEEP or TEST? -/
def inSession (v : SPort) : Bool := decide (4 ≤ v.state)

/-- R294: the session ends: every command without response is ended ABANDONED, and its link state is dropped. -/
def endSession (p : Nat) (s : State) : State :=
  let v := portOf s p
  if !inSession v then s
  else
    let gone := (tvals v.outst).map (fun w => (p, w, 7))
    let v := { v with
      usable := false, infoOk := false, lock := 0, sessions := satAdd 16 v.sessions 1, outst := [], dead := [],
      tx := [], replay := [], resends := 0, nakHeld := false, sleepReq := false, testSeq := none,
      retrain := false, test := false, cmdCr := 0, dataCr := 0, mgmtCr := 0 }
    let s := setPort p v s
    { s with sleds := { s.sleds with ended := s.sleds.ended ++ gone } }

/-- Enter DETECT: the transmitter idles and looks for the far end. -/
def enterDetect (p : Nat) (s : State) : State :=
  let s := endSession p s
  let v := portOf s p
  link p .beacon (setPort p { v with state := 1, attempts := satAdd 8 v.attempts 1 } s)

/-- An error of the link: recorded, and the targeted self-test of the lane follows (R307, R436). -/
def linkError (p cls : Nat) (detail : Bytes) (s : State) : State := errorOn 5 cls (.sledLane p) detail s

/-- DETECT after an error, with the event of a session ended (Table 10.14). -/
def dropLink (p : Nat) (detail : Bytes) (s : State) : State := linkError p 3 detail (enterDetect p s)

/-- Enter RECOVERY: sequence numbers, buffers, credits and tags are kept; asked tells whether SLP_CTL.retrain sent it there. -/
def recover (asked : Bool) (p : Nat) (s : State) : State :=
  let v := portOf s p
  link p (.ts1 1 v.txPreset) (setPort p { v with state := 5, recoveries := satAdd 16 v.recoveries 1, retrain := asked } s)

/-- Enter RECOVERY after an error or a test. -/
def enterRecovery (p : Nat) (s : State) : State := recover false p s

/-- Hold the port in DISABLED (Table 10.7): the session ends, waiting commands end, and the counters clear (R312). -/
def disablePort (p : Nat) (s : State) : State :=
  let s := endSession p s
  let v := portOf s p
  let gone := v.waitq.map (fun w => (p, w, 7))
  let s := setPort p {
    en := v.en, sleepIdle := v.sleepIdle, testMbit := v.testMbit, powered := v.powered,
    txPreset := v.txPreset, farPreset := v.farPreset } s
  { s with sleds := { s.sleds with ended := s.sleds.ended ++ gone } }

/-- Power a port group's port up or down (R285): its link trains while en is 1, or it is DISABLED. -/
def powerPort (on : Bool) (p : Nat) (s : State) : State :=
  let v := portOf s p
  if on then
    let s := setPort p { v with powered := true, attempts := 0 } s
    if v.en then enterDetect p s else s
  else disablePort p (setPort p { v with powered := false } s)

/-- Send the unacknowledged flits again, from the named seq on (R290). -/
def replayFrom (p seq : Nat) (s : State) : State :=
  let v := portOf s p
  let fs := v.replay.dropWhile (fun f => decide (f.1 ≠ seq))
  let s := setPort p { v with replays := satAdd 16 v.replays fs.length } s
  fs.foldl (fun s f => link p (.flit f.2.vc f.2.endF f.1 (ackNow v) 0 f.2.payload) s) s

/-- Take an ack (R290): the flits it covers leave the replay buffer; an acknowledged TEST_REQ starts the test. -/
def takeAck (p a : Nat) (s : State) : State :=
  let v := portOf s p
  match v.replay.findIdx? (fun f => decide (f.1 = a)) with
  | none => s
  | some i =>
    let covered := (v.replay.take (i + 1)).map (·.1)
    let s := setPort p { v with lastAck := a, replay := v.replay.drop (i + 1), resends := 0 } s
    match v.testSeq with
    | some t =>
      if covered.contains t then
        link p (.prbs v.testMbit.toNat)
          (link p .eios (setPort p { portOf s p with testSeq := none, state := 7, prbsErr := 0 } s))
      else pumpAll p s
    | none => pumpAll p s

/-! ### Receiving (R290, R292) -/

/-- The credit of a received flit: held by the bridge, or a breach; DATA messages that interleave are one too (R291). -/
def rxCredit (v : SPort) (f : Flit) : Option SPort :=
  match f.vc with
  | 0 => if v.rxCmd = 0 then none else some { v with rxCmd := v.rxCmd - 1 }
  | 1 => if v.rxData = 0 ∨ f.start = v.rxMsg then none else some { v with rxData := v.rxData - 1, rxMsg := !f.endF }
  | 2 => if v.rxMgmt = 0 then none else some { v with rxMgmt := v.rxMgmt - 1 }
  | _ => some v

/-- Return the credit of a freed flit buffer by CREDIT (Table 10.6). -/
def returnCredit (p vc : Nat) (s : State) : State :=
  if 3 ≤ vc then s
  else
    let v := portOf s p
    let s := setPort p (match vc with
      | 0 => { v with rxCmd := v.rxCmd + 1 }
      | 1 => { v with rxData := v.rxData + 1 }
      | _ => { v with rxMgmt := v.rxMgmt + 1 }) s
    sendFlits p [linkFlit (leN 1 3 ++ zeros 3 ++ leN 1 (b2n (vc = 0)) ++ leN 1 (b2n (vc = 2)) ++
      leN 2 (b2n (vc = 1)))] s

/-- Send a NAK naming the expected seq, unless one was sent within 8 µs. -/
def sendNak (p : Nat) (s : State) : State :=
  let v := portOf s p
  if v.nakHeld then s
  else link p (.nak v.expSeq) (setPort p { v with nakHeld := true, naks := satAdd 16 v.naks 1 } s)

/-- R290: a sequenced flit: accepted in order, discarded as a duplicate with its ack sent again, or discarded with a
NAK. A flit beyond the credits granted, or DATA messages that interleave, end the session (Table 10.14). Its messages come as commands of their own. -/
def rxFlit (p : Nat) (f : Flit) (s : State) : State :=
  let v := portOf s p
  if v.state ≠ 4 then s
  else if !f.checkOk then
    linkError p 1 (leN 1 1) (sendNak p (setPort p { v with crc := satAdd 16 v.crc 1 } s))
  else
    let d := ahead 12 v.expSeq f.seq
    if d = 0 then
      match rxCredit { v with expSeq := (v.expSeq + 1) % 4096, nakHeld := false } f with
      | none => dropLink p (leN 1 2) (setPort p { v with protocol := satAdd 16 v.protocol 1 } s)
      | some v' =>
        let s := setPort p { v' with dataCr := v'.dataCr + f.dcr } s
        pumpAll p (returnCredit p f.vc (link p (.idle f.seq) (takeAck p f.ack s)))
    else if 2048 ≤ d then link p (.idle (ackNow v)) (linkError p 1 (leN 1 3) s)
    else linkError p 1 (leN 1 4) (sendNak p s)

/-- IDLE: only an ack. -/
def rxIdle (p a : Nat) (s : State) : State := if (portOf s p).state = 4 then takeAck p a s else s

/-- Send again from the oldest unacknowledged flit; after four times without ack advance, RECOVERY (Table 10.14). -/
def resend (p : Nat) (cls : Nat) (s : State) : State :=
  let v := portOf s p
  match v.replay with
  | [] => s
  | f :: _ =>
    if 4 ≤ v.resends then linkError p 1 (leN 1 6) (enterRecovery p (setPort p { v with resends := 0 } s))
    else
      let s := replayFrom p f.1 (setPort p { v with resends := v.resends + 1 } s)
      if cls = 0 then s else linkError p 1 (leN 1 cls) s

/-- NAK: every unacknowledged flit from the named seq goes again; the flits before it are covered. -/
def rxNak (p seq : Nat) (s : State) : State :=
  if (portOf s p).state ≠ 4 then s
  else
    let s := takeAck p ((seq + 4095) % 4096) s
    if (portOf s p).state = 4 ∧ ((portOf s p).replay.head?).any (fun f => decide (f.1 = seq)) then resend p 0 s else s

/-- CREDIT: credits return. -/
def rxCreditFlit (p cmd mgmt data : Nat) (s : State) : State :=
  let v := portOf s p
  if v.state ≠ 4 then s
  else kickAll p (pumpAll p (setPort p { v with
    cmdCr := v.cmdCr + cmd, mgmtCr := v.mgmtCr + mgmt, dataCr := v.dataCr + data } s))

/-- SLEEP_ACK: EIOS, then SLEEP (R295). -/
def rxSleepAck (p : Nat) (s : State) : State :=
  let v := portOf s p
  if v.state = 4 ∧ v.sleepReq then kickAll p (link p .eios (setPort p { v with state := 6, sleepReq := false } s)) else s

/-- SLEEP_NAK: the port stays ACTIVE. -/
def rxSleepNak (p : Nat) (s : State) : State :=
  let v := portOf s p
  if v.state = 4 ∧ v.sleepReq then kickAll p (setPort p { v with sleepReq := false } s) else s

/-- No ack advance for 6 µs: send again from the oldest flit; after four times, RECOVERY (Table 10.14). -/
def replayTimeout (p : Nat) (s : State) : State :=
  let v := portOf s p
  if v.state ≠ 4 then s else resend p 7 s

/-- 8 µs after a NAK a further one may go for the same seq. -/
def nakHoldoffEnd (p : Nat) (s : State) : State := setPort p { portOf s p with nakHeld := false } s

/-- Back to ACTIVE from RECOVERY or SLEEP: unacknowledged flits go again and waiting commands go on. -/
def backActive (p : Nat) (s : State) : State :=
  let v := portOf s p
  let s := setPort p { v with state := 4, resends := 0, nakHeld := false } s
  let s := match v.replay with
    | [] => s
    | f :: _ => if v.state = 5 then replayFrom p f.1 s else s
  kickAll p (pumpAll p s)

/-- TS1: POLLING settles its presets and goes to CONFIG; RECOVERY and SLEEP return to ACTIVE. -/
def rxTs1 (p preset asked : Nat) (s : State) : State :=
  let v := portOf s p
  if v.state = 2 then
    link p (.ts2 256 0) (setPort p { v with
      state := 3, farPreset := preset % 8, txPreset := if asked < 8 then asked else v.txPreset } s)
  else if v.state = 5 then backActive p s
  else if v.state = 6 then backActive p (link p (.ts1 1 v.txPreset) (link p .eieos s))
  else s

/-- TS2 in CONFIG (R292 to R294): credits and max_tags are taken, seq starts at 0 and ack at 4,095, and a session
begins. Alone, PORT_LOCK goes first (R306 step 2); then BRIDGE_INFO. A failed check ends in DETECT. -/
def rxTs2 (p : Nat) (alone : Bool) (ts : Ts2) (s : State) : State :=
  let v := portOf s p
  if v.state ≠ 3 then s
  else if !ts.checkOk then dropLink p (leN 1 8) s
  else
    let v := { v with
      state := 4, bridgePort := ts.bridgePort % 2, cmdCr := satW 8 ts.cmdCredits, dataCr := satW 12 ts.dataCredits,
      mgmtCr := satW 8 ts.mgmtCredits, maxTags := ts.maxTags, nextSeq := 0, lastAck := 4095, expSeq := 0, replay := [],
      tx := [], sinceSync := 0, lfsr := Config.scramblerStart p % 2 ^ 23, rxMsg := false, resends := 0, nakHeld := false, rxCmd := 32, rxData := 256, rxMgmt := 8, outst := [], dead := [],
      usable := false, infoOk := false,
      refused := decide (ts.version ≠ 1 ∨ (tget s.sleds.sledUse p).map (·.maxTags) ≠ some ts.maxTags) }
    let s := setPort p v s
    let s := if alone then sendSled p (.lock 1) { op := 6, tag := 0, arg := 1 } s else s
    sendSled p .info { op := 5, tag := 0 } s

/-- The far end leaves idle: POLLING, with TS1. -/
def farEnd (p : Nat) (s : State) : State :=
  let v := portOf s p
  if v.state = 1 then link p (.ts1 0 v.txPreset) (link p .eieos (setPort p { v with state := 2 } s)) else s

/-- Every 12 ms DETECT is tried again. -/
def detectRetry (p : Nat) (s : State) : State := if (portOf s p).state = 1 then link p .beacon s else s

/-- POLLING, CONFIG or RECOVERY beyond its bound: DETECT; RECOVERY ends the session. -/
def stateTimeout (p : Nat) (s : State) : State :=
  let v := portOf s p
  if v.state = 2 ∨ v.state = 3 then enterDetect p s
  else if v.state = 5 then dropLink p (leN 1 9) s
  else s

/-- A framing error or lost block lock: RECOVERY (R286, Table 10.14). -/
def framing (p : Nat) (s : State) : State :=
  let v := portOf s p
  if v.state = 4 then
    linkError p 1 (leN 1 10) (enterRecovery p (setPort p { v with framing := satAdd 16 v.framing 1 } s))
  else s

/-- R295: an idle port asks for SLEEP, with no command outstanding and no unacknowledged flit. -/
def sleepIdleTimer (p : Nat) (s : State) : State :=
  let v := portOf s p
  if v.state = 4 ∧ v.sleepIdle ≠ 0 ∧ v.outst = [] ∧ v.replay = [] ∧ v.tx = [] ∧ v.waitq = [] ∧ !v.sleepReq ∧
      v.testSeq = none then
    sendFlits p [linkFlit (leN 1 4)] (setPort p { v with sleepReq := true } s)
  else s

/-- SLP_CTL.test or the lane's self-test: TEST_REQ with the test length (R296). -/
def startPrbs (p : Nat) (s : State) : State :=
  let v := portOf s p
  if v.state = 4 ∧ v.testSeq = none then
    sendFlits p [linkFlit (leN 1 7 ++ zeros 3 ++ leN 4 v.testMbit.toNat)] (setPort p { v with test := true } s)
  else s

/-- The test length has been sent: EIOS, then RECOVERY; the errors are counted. -/
def testDone (p errors : Nat) (s : State) : State :=
  let v := portOf s p
  if v.state = 7 then enterRecovery p (link p .eieos (link p .eios (setPort p { v with prbsErr := satW 32 errors, test := false } s))) else s

/-- SLP_CTL.en (R312): 0 holds the port in DISABLED and ends its session; 1 lets a powered port train. -/
def portEnable (p : Nat) (en : Bool) (s : State) : State :=
  let v := portOf s p
  let s := setPort p { v with en := en } s
  if !en then disablePort p s
  else if v.powered ∧ v.state = 0 then enterDetect p s
  else s

/-- SLP_CTL.retrain: RECOVERY from ACTIVE. -/
def portRetrain (p : Nat) (s : State) : State := if (portOf s p).state = 4 then recover true p s else s

/-! ### Responses (R298, R307) -/

/-- Match a response to its outstanding command of this opcode: the command, and the state without it. A late response
of a timed-out command is counted; one for an unknown tag is counted and recorded. -/
def takeResponse (p tag op : Nat) (s : State) : Option SledPend × State :=
  let v := portOf s p
  match tget v.outst tag with
  | some w =>
    if w.cmd.op = op then (some w, kickAll p (sledEnds p w.cmd (setPort p { v with outst := terase v.outst tag } s)))
    else (none, linkError p 1 (leN 1 11) (setPort p { v with protocol := satAdd 16 v.protocol 1 } s))
  | none =>
    let s := setPort p { v with protocol := satAdd 16 v.protocol 1 } s
    if v.dead.contains tag then (none, s) else (none, linkError p 1 (leN 1 11) s)

/-- A response with an outcome that Table 10.11 records as an event. -/
def oddOutcome (p outcome : Nat) (s : State) : State :=
  if outcome = 6 then record 5 1 1 (.sledLane p) (leN 1 6) s
  else if 8 ≤ outcome then
    let v := portOf s p
    record 5 1 1 (.sledLane p) (leN 1 outcome) (setPort p { v with protocol := satAdd 16 v.protocol 1 } s)
  else s

/-- A command ends by timeout (Table 10.14): ABANDONED, its tag unused until the session ends; a fourth within 1 s
ends the session. -/
def cmdTimeout (p tag : Nat) (fourth : Bool) (s : State) : State :=
  let v := portOf s p
  match tget v.outst tag with
  | none => s
  | some w =>
    let s := setPort p { v with
      outst := terase v.outst tag, dead := tag :: v.dead, timeouts := satAdd 16 v.timeouts 1 } s
    let s := { s with sleds := { s.sleds with ended := s.sleds.ended ++ [(p, w, 7)] } }
    if fourth then dropLink p (leN 1 12) s else linkError p 1 (leN 1 13) s

/-- Make a link usable if R311 holds: ACTIVE, its readings agree, and alone the PORT_LOCK has completed OK. -/
def makeUsable (p : Nat) (alone : Bool) (s : State) : State :=
  let v := portOf s p
  if inSession v ∧ v.infoOk ∧ !v.refused ∧ (!alone ∨ v.lock = 1) then kickAll p (setPort p { v with usable := true } s)
  else s

/-! ### Identity records (R308 to R311) -/

/-- The kinds of identity record (Table 10.15). -/
inductive IdKind where
  | sled | shelf | board
  deriving DecidableEq, Repr

def IdKind.code : IdKind → Nat
  | .sled => 1 | .shelf => 2 | .board => 3

/-- The first reason of Table 10.18 that the header and check of a record give (reasons 1 to 5), 0 if none. -/
def headerReason (kind : IdKind) (len : Nat) (r : RecordRead) : Nat :=
  match r with
  | none => 1
  | some b =>
    if fieldLE b 0 4 ≠ 0x5A574944 then 2
    else
      let n := fieldLE b 8 2
      if n < 4 ∨ fieldLE b (n - 4) 4 ≠ crc32c (fit (n - 4) b) then 3
      else if 1 < fieldLE b 4 2 then 4
      else if fieldLE b 6 1 ≠ kind.code ∨ n ≠ len then 5
      else 0

/-- The format and version of a record that is refused as unsupported (R310, R448). -/
def refusedFormat (why : Nat) (r : RecordRead) : Bytes := if why = 4 then laterFormat 4 (fieldLE (r.getD []) 4 2) else []

/-- The fields of a sled record (Table 10.16). -/
def sledFields (b : Bytes) : SledIdent :=
  {
    serial := bslice b 12 16, dies := fieldLE b 34 1, planes := fieldLE b 35 1, blocks := fieldLE b 36 2,
    pages := fieldLE b 38 2, correction := fieldLE b 40 2, endurance := fieldLE b 42 4, tReadUs := fieldLE b 46 2,
    tProgUs := fieldLE b 48 2, tEraseUs := fieldLE b 50 2, maxTags := fieldLE b 52 2,
    suspend := (byteAt b 54).getLsbD 0 }

/-- Are the fields of a sled record in range and its reserved fields 0 (reason 6)? -/
def sledFieldsOk (b : Bytes) : Bool :=
  let r := sledFields b
  decide (fieldLE b 4 2 = 1) && zeroAt b 7 1 && zeroAt b 10 2 && decide (fieldLE b 32 2 = 1) &&
    decide (16 ≤ r.dies ∧ r.dies ≤ 128 ∧ r.dies % 16 = 0) && decide (1 ≤ r.planes ∧ r.planes ≤ 4) &&
    decide (128 ≤ r.blocks ∧ r.blocks ≤ 65408 ∧ r.blocks % 128 = 0) && decide (64 ≤ r.pages ∧ r.pages ≤ 4096) &&
    decide (1 ≤ r.tReadUs ∧ r.tReadUs ≤ 2000) && decide (1 ≤ r.tProgUs ∧ r.tProgUs ≤ 10000) &&
    decide (1 ≤ r.tEraseUs ∧ r.tEraseUs ≤ 20000) && decide (256 ≤ r.maxTags ∧ r.maxTags ≤ 1024) &&
    decide ((byteAt b 54).toNat < 2) && zeroAt b 55 69

/-- A sled record: accepted, or the reason of its refusal (R310). -/
def parseSled (r : RecordRead) : SledIdent ⊕ Nat :=
  let why := headerReason .sled 128 r
  if why ≠ 0 then .inr why
  else
    let b := r.getD []
    let v := sledFields b
    if !sledFieldsOk b then .inr 6
    else if 64 * 10 ^ 12 < v.dies * v.blocks * v.pages * 16384 then .inr 7
    else .inl v

/-- A shelf record: accepted, or the reason of its refusal (R310). -/
def parseShelf (r : RecordRead) : ShelfIdent ⊕ Nat :=
  let why := headerReason .shelf 128 r
  if why ≠ 0 then .inr why
  else
    let b := r.getD []
    let v : ShelfIdent := {
      serial := bslice b 12 16, pIdle := fieldLE b 34 2, pWake := fieldLE b 36 2,
      kMw := fieldLE b 38 2, wakeMs := fieldLE b 40 2 }
    if decide (fieldLE b 4 2 = 1) && zeroAt b 7 1 && zeroAt b 10 2 && decide (fieldLE b 32 1 = 32) &&
        decide (fieldLE b 33 1 = 1) && decide (v.pIdle ≤ v.pWake) && decide (1 ≤ v.wakeMs ∧ v.wakeMs ≤ 3000) &&
        zeroAt b 42 82 then .inl v
    else .inr 6

/-- Take a reading of the record at slot of shelf g: an accepted one is kept for the shelf's next wake; a refused one
is recorded with shelf, slot and reason (R309, R310). -/
def takeRecord (g slot : Nat) (r : RecordRead) (s : State) : State :=
  let d := s.sleds
  let rest := d.refused.filter (fun e => !(decide (e.1 = g) && decide (e.2.1 = slot)))
  let refuse (why : Nat) (d' : Sleds) : State :=
    record 5 4 2 (.shelf g) (leN 1 g ++ leN 1 slot ++ leN 1 why ++ refusedFormat why r)
      { s with sleds := { d' with refused := rest ++ [(g, slot, why)] } }
  if slot = 32 then
    match parseShelf r with
    | .inl v => { s with sleds := { d with shelfRec := tset d.shelfRec g v, refused := rest } }
    | .inr why => refuse why { d with shelfRec := terase d.shelfRec g }
  else
    match parseSled r with
    | .inl v => { s with sleds := { d with sledRec := tset d.sledRec (g * 32 + slot) v, refused := rest } }
    | .inr why => refuse why { d with sledRec := terase d.sledRec (g * 32 + slot) }

/-- The readings of shelf g take effect at its wake (R309). -/
def adoptRecords (g : Nat) (s : State) : State :=
  let d := s.sleds
  let sl := (List.range 32).foldl (fun t k => match tget d.sledRec (g * 32 + k) with
    | some v => tset t (g * 32 + k) v
    | none => terase t (g * 32 + k)) d.sledUse
  { s with sleds := { d with
      sledUse := sl
      shelfUse := match tget d.shelfRec g with
        | some v => tset d.shelfUse g v
        | none => terase d.shelfUse g } }

/-- The figures of a sled: those in effect since its shelf's last wake; before its first wake those of its record. -/
def sledFigs (s : State) (port : Nat) : Option SledIdent :=
  (tget s.sleds.sledUse port).orElse (fun _ => tget s.sleds.sledRec port)

/-- I2C: a slave stretched SCL beyond 25 ms: nine clocks and a STOP; a record not read after three attempts counts as
refused (R309). -/
def i2cTimeout (g slot attempt : Nat) (s : State) : State :=
  let s := emit (.i2cRecover g slot) s
  if 3 ≤ attempt then takeRecord g slot none s else s

/-! ### Commands that only the link answers -/

end Sys2Proof.Machine
end

