-- ==== Sys2Proof/Machine/Shelves.lean ====
section
/-!
DEFINITION. Machine/Shelves.lean: the shelf budget, charges, shelf states and wakes of Parterre (R210 to R220, R236).
-/
namespace Sys2Proof.Machine

/-- Shelf g; an unlisted one is at reset. -/
def shelfOf (s : State) (g : Nat) : Shelf := tgetD s.plc.shelves g {}

/-- Replace shelf g. -/
def setShelf (g : Nat) (v : Shelf) (s : State) : State := { s with plc := { s.plc with shelves := tset s.plc.shelves g v } }

/-- Is g a home shelf (R221)? -/
def isHome (s : State) (g : Nat) : Bool := s.pair.arr.home.contains g

/-- Does this head hold the shelf: WAKING, AWAKE or CLOSING? -/
def holdsShelf (v : Shelf) : Bool := decide (v.st = .waking ∨ v.st = .awake ∨ v.st = .closing)

/-- The figures of shelf g: those in effect since its wake while it is held, else its latest accepted record. -/
def figures (s : State) (g : Nat) : Option ShelfIdent :=
  if holdsShelf (shelfOf s g) then tget s.sleds.shelfUse g else tget s.sleds.shelfRec g

/-- P_idle + k × (w + r ÷ 4) in whole watts, rounded up. -/
def idlePlus (f : ShelfIdent) (w r : Nat) : Nat := cdiv (f.pIdle * 4000 + f.kMw * (4 * w + r)) 4000

/-- The charge of a shelf in a given state (Table 8.1). -/
def chargeOf (f : ShelfIdent) (v : Shelf) : Nat :=
  match v.st with
  | .waking => if v.goodAtReq then idlePlus f v.w v.r else max f.pWake (idlePlus f v.w v.r)
  | .awake => idlePlus f v.w v.r
  | .closing => idlePlus f v.w v.r
  | .off => 0
  | .failed => 0

/-- The charge of shelf g against this head's share; a home shelf's goes to H. -/
def shelfCharge (s : State) (g : Nat) : Nat :=
  if isHome s g then 0 else ((figures s g).map (fun f => chargeOf f (shelfOf s g))).getD 0

/-- The charge register of shelf g: for a home shelf its charge in H. -/
def shownCharge (s : State) (g : Nat) : Nat :=
  if isHome s g then ((figures s g).map (fun f => idlePlus f 240 240)).getD 0
  else shelfCharge s g

/-- The home reserve H of a set of home shelves: both heads at 120 GB/s of program and read (Table 8.1). -/
def homeReserve (s : State) (homes : List Nat) : Nat :=
  sumBy (fun g => ((figures s g).map (fun f => cdiv (f.pIdle * 1000 + 300 * f.kMw) 1000)).getD 0) homes

/-- The shelves that R210 considers beside a set of home shelves: accepted and not home. -/
def countedShelves (s : State) (homes : List Nat) : List ShelfIdent :=
  (List.range 32).filterMap (fun g => if homes.contains g then none else tget s.sleds.shelfRec g)

/-- The shelf budget B: as set, or the default of R210. -/
def budget (s : State) : Nat :=
  match s.pair.arr.budget with
  | some b => b
  | none => homeReserve s s.pair.arr.home +
      2 * maxBy (fun f => f.pWake + idlePlus f 120 120) (countedShelves s s.pair.arr.home)

/-- The least budget of R241. -/
def minBudget (s : State) (homes : List Nat) : Nat := homeReserve s homes + 2 * maxBy (·.pWake) (countedShelves s homes)

/-- This head's share of the budget (R210, R214). -/
def share (s : State) : Nat :=
  let rest := budget s - homeReserve s s.pair.arr.home
  if s.plc.alone then rest
  else match roleOf s with
    | .a => rest * s.pair.arr.shareA / 100
    | .b => rest * (100 - s.pair.arr.shareA) / 100

/-- The sum of this head's charges (R212). -/
def charges (s : State) : Nat := sumBy (shelfCharge s) (List.range 32)

/-- Do the charges exceed the share (R215)? -/
def overShare (s : State) : Bool := decide (share s < charges s)

/-- The Gatehouse's check (R212): the change is made only if the sum of charges then fits the share, or does not rise. -/
def tryShelf (g : Nat) (v : Shelf) (s : State) : Bool × State :=
  let s' := setShelf g v s
  if charges s' ≤ share s' ∨ charges s' ≤ charges s then (true, s') else (false, s)

/-- May this head ask for shelves: in Serve, not fenced, its power good (R30, R110, R216)? -/
def mayRequest (s : State) : Bool := decide (s.gh.state = .serve) && !s.pair.fenced && !s.jrn.stopped

/-- The usable links of a shelf. -/
def linksUsable (s : State) (g : Nat) : Nat := (List.range 32).countP (fun k => (portOf s (g * 32 + k)).usable)

/-- Power the port group of shelf g up or down (R16, R285). -/
def powerGroup (g : Nat) (on : Bool) (s : State) : State :=
  let wired := (s.ghx.board.map (fun b => b.shelves.getLsbD g)).getD false
  (List.range 32).foldl (fun s k =>
    let p := g * 32 + k
    if on && !wired then powerPort false p s   -- a group that is not wired is never enabled (R477)
    else if on && (tget s.sleds.sledUse p).isNone then
      setPort p { portOf s p with powered := true, attempts := 0 } s   -- a refused record: the port is never enabled (R310)
    else powerPort on p s) s

/-! ### The schedule (R236) -/

/-- Enter an item in the schedule; one with the same shelf and work is not entered twice, but takes a deadline it had not. -/
def addItem (cls : ItemCls) (g : Nat) (work : ItemFor) (deadline : Option Nat) (s : State) : State :=
  let same (i : Item) : Bool := decide (i.shelf = g) && decide (i.work = work) && decide (i.cls = cls)
  if (tvals s.plc.items).any same then
    { s with plc := { s.plc with items := tmap (fun _ i =>
      if same i ∧ i.deadline = none then { i with deadline := deadline } else i) s.plc.items } }
  else
    let n := s.plc.itemCount
    { s with plc := { s.plc with
      items := tset s.plc.items n { cls := cls, shelf := g, work := work, arrival := optime s, deadline := deadline }
      itemCount := n + 1 } }

/-- Remove the items that satisfy p. -/
def dropItems (p : Item → Bool) (s : State) : State :=
  { s with plc := { s.plc with items := tfilter (fun _ i => !p i) s.plc.items } }

/-- Ask for the wake of a shelf: an item of a class with its deadline (R222, R237). -/
def wantWake (g : Nat) (cls : ItemCls) (deadline : Nat) (s : State) : State :=
  if isHome s g ∧ (shelfOf s g).st = .awake then s else addItem cls g .wake (some deadline) s

/-- Does item i rank before item j: urgency, then class, then age? -/
def ranksBefore (i j : Nat × Item) : Bool :=
  decide (j.2.urgency < i.2.urgency ∨ (i.2.urgency = j.2.urgency ∧ (i.2.cls.rank < j.2.cls.rank ∨
    (i.2.cls.rank = j.2.cls.rank ∧ i.1 < j.1))))

/-- Items in rank order, the highest first. -/
def rankOrder (l : List (Nat × Item)) : List (Nat × Item) :=
  l.foldl (fun acc e => acc.takeWhile (fun x => ranksBefore x e) ++ [e] ++ acc.dropWhile (fun x => ranksBefore x e)) []

/-- The highest-ranked of some items. -/
def topItem : List (Nat × Item) → Option (Nat × Item)
  | [] => none
  | i :: is => match topItem is with
    | none => some i
    | some j => if ranksBefore j i then some j else some i

/-- The items of shelf g. -/
def itemsOf (s : State) (g : Nat) : List (Nat × Item) := s.plc.items.filter (fun e => decide (e.2.shelf = g))

/-! ### Commands that wait on a shelf -/

/-- Does a command wait on shelf g: a READ's chunk, or a RECALL? -/
def waitsOn (g : Nat) (c : Cmd) : Bool :=
  c.reads.any (fun r => decide (r.stage = .shelf g)) || (decide (c.stage = .running) && c.pinWake.contains g)

/-- The commands that wait on shelf g. -/
def waitingOn (s : State) (g : Nat) : Nat := (tvals s.jrn.cmds).countP (waitsOn g)

/-! ### Wakes (R217 to R220) -/

/-- The caps that hold room for items of some classes: read room for any, program room for ingest and background work (log
entry 15). -/
def roomOf (cs : List ItemCls) : Nat × Nat :=
  (if cs.any (fun c => decide (c ≠ .read)) then 120 else 0, if cs = [] then 0 else 120)

/-- The caps that a wake of shelf g is set to carry: program room where ingest or background work waits on it or it is
home, and read room. -/
def wakeCaps (s : State) (g : Nat) : Nat × Nat :=
  if isHome s g then (120, 120) else roomOf (.read :: (itemsOf s g).map (·.2.cls))

/-- Is a READ or RECALL under way on shelf g: waiting on it, or with reads of it outstanding? -/
def readsUnder (s : State) (g : Nat) : Bool :=
  decide (waitingOn s g ≠ 0) || (tvals s.plc.fetches).any (fun f => decide (f.res = none) &&
    (match f.why with
      | .read .. => true
      | _ => false) && f.pieces.any (fun p => decide (p.port / 32 = g)))

/-- The classes of the items that a shelf carries. -/
def carries (s : State) (g : Nat) : List ItemCls :=
  (itemsOf s g).map (·.2.cls) ++ (if readsUnder s g then [.read] else [])

/-- Lower the caps of shelf g towards the room `low`, and no further than `fits` asks (R215, R236). -/
def lowerCaps (g : Nat) (low : Nat × Nat) (fits : State → Bool) (s : State) : State :=
  let cut (n below : Nat) (put : Nat → Shelf → Shelf) (s : State) : State :=
    let v := shelfOf s g
    if fits s ∨ n ≤ below then s
    else
      let with_ (k : Nat) : State := setShelf g (put k v) s
      match ((List.range (n - below)).map (fun i => n - 1 - i)).find? (fun k => fits (with_ k)) with
      | some k => with_ k
      | none => with_ below
  let s := cut (shelfOf s g).w low.1 (fun k v => { v with w := k }) s
  cut (shelfOf s g).r low.2 (fun k v => { v with r := k }) s

/-- The Gatehouse grants the wake of shelf g if its charge fits, and asserts SHF_PWR_REQ_N[g] (Table 8.3 step 1). A
shelf with SHF_PWR_GOOD high powers its port group at once. -/
def grantWake (g : Nat) (s : State) : State :=
  let v := shelfOf s g
  let wait := (v.holdoff || v.retryWait) && !v.good
  if !mayRequest s ∨ v.st ≠ .off ∨ wait ∨ (tget s.sleds.shelfRec g).isNone ∨ (overShare s && !isHome s g) then s
  else
    let (w, r) := wakeCaps s g
    let s0 := adoptRecords g s
    let v' : Shelf := { v with st := .waking, req := true, w := w, r := r, goodAtReq := v.good, lastTry := optime s, lost := [] }
    match tryShelf g v' s0 with
    | (false, _) =>
      match tryShelf g { v' with w := 0, r := 0 } s0 with
      | (false, _) => s
      | (true, s) => began v s
    | (true, s) => began v s
where
  /-- The wake has begun. -/
  began (v : Shelf) (s : State) : State :=
    let s := { s with plc := { s.plc with wakes := satAdd 16 s.plc.wakes 1 } }
    let s := monBegin 16 g (note 4 5 0 s)
    if v.good then powerGroup g true s else s

/-- Send what waits on the ports of a shelf. -/
def kickShelf (g : Nat) (s : State) : State := (List.range 32).foldl (fun s k => kickAll (g * 32 + k) s) s

/-- Raise the caps of an awake shelf as its items need and the share allows (R212, R214); none at or above T_thr (R471). -/
def raiseCaps (g : Nat) (s : State) : State :=
  let v := shelfOf s g
  let (w, r) := wakeCaps s g
  if (v.st = .awake ∨ v.st = .waking) ∧ (v.w < w ∨ v.r < r) ∧ !overShare s ∧ !s.ghx.throttled then
    let both : Shelf := { v with w := max v.w w, r := max v.r r }
    let read : Shelf := { v with r := max v.r r }
    match tryShelf g both s with
    | (true, s) => kickShelf g s
    | (false, s) => kickShelf g (tryShelf g read s).2
  else s

/-- The SHELF_WAKE jobs of a shelf end (R244): on SUCCESS the shelf is held. -/
def endHoldJob (g : Nat) (st : Status) (s : State) : State :=
  let v := shelfOf s g
  if v.holdJob then
    finishJobs (fun j => decide (j.opcode = 0x0410 ∧ j.subj = g)) st []
      (setShelf g { v with holdJob := false, held := v.held || (decide (st = .success) && !v.lapsed) } s)
  else s

/-- Step 5 of Table 8.3: the shelf is AWAKE; sleds without a usable link are lost (R276); the SHELF_WAKE job finishes. -/
def becomeAwake (g : Nat) (s : State) : State :=
  let v := shelfOf s g
  if v.st ≠ .waking then s
  else
    let lost := (List.range 32).filter (fun k => !(portOf s (g * 32 + k)).usable)
    let s := monEnd 16 g g (setShelf g { v with st := .awake, fails := 0, minAwake := true, lost := lost } s)
    let s := lost.foldl (fun s k => record 5 3 2 (.sledLane (g * 32 + k)) [] s) s
    -- what no source yielded may be readable now (log entry 145)
    let s := { s with map := { s.map with failed := s.map.failed.filter (fun e => decide (e.2 ≠ 255)) } }
    let s := dropItems (fun i => decide (i.shelf = g) && decide (i.work = .wake)) s
    record 4 5 0 (.shelf g) [] (endHoldJob g .success (kickShelf g s))

/-- All 32 links are usable: AWAKE. -/
def checkAwake (g : Nat) (s : State) : State :=
  if (shelfOf s g).st = .waking ∧ linksUsable s g = 32 then becomeAwake g s else s

/-- This head lets go of a shelf: the request is released and the port group powered down. -/
def releaseShelf (g : Nat) (st : ShelfSt) (s : State) : State :=
  let v := shelfOf s g
  powerGroup g false (setShelf g { v with
    st := st, req := false, w := 0, r := 0, held := false, readOnly := false,
    minAwake := false, goodAtReq := false } s)

/-- R218: a wake fails: the request is released for 10 s; the third failure in a row makes the shelf FAILED. -/
def failWake (g : Nat) (s : State) : State :=
  let v := shelfOf s g
  let n := v.fails + 1
  let s := { s with plc := { s.plc with wakesFailed := satAdd 16 s.plc.wakesFailed 1 } }
  let s := record 4 1 3 (.shelf g) (leN 1 n) s
  if 3 ≤ n then
    let s := releaseShelf g .failed s
    let s := endHoldJob g .timeout (setShelf g { shelfOf s g with fails := 0, retryWait := false, holdoff := true } s)
    let s := dropItems (fun i => decide (i.shelf = g) && decide (i.work = .wake)) s
    record 4 5 3 (.shelf g) (leN 1 4) s
  else
    let s := releaseShelf g .off s
    setShelf g { shelfOf s g with fails := n, retryWait := true, holdoff := false } s

/-- SHF_PWR_GOOD rises: step 2 of Table 8.3, and the port group is powered. -/
def goodRise (g : Nat) (s : State) : State :=
  let v := shelfOf s g
  let s := setShelf g { v with good := true } s
  if v.st = .waking ∧ !v.good then powerGroup g true s else s

/-- 3 s without power good, or 6 s: fewer than 28 links fail the wake, 28 or more complete it. -/
def wakeTimeout (g : Nat) (six : Bool) (s : State) : State :=
  let v := shelfOf s g
  if v.st ≠ .waking ∨ s.jrn.compacting then s
  else if !six then (if v.good then s else failWake g s)
  else if 28 ≤ linksUsable s g then becomeAwake g s
  else failWake g s

/-- 10 s after a failed wake it is tried again. -/
def wakeRetry (g : Nat) (s : State) : State :=
  let v := shelfOf s g
  if v.st = .off ∧ v.retryWait then grantWake g (setShelf g { v with retryWait := false } s) else s

/-- A command arrives an hour after the last attempt on a FAILED shelf: one wake is tried (R218). -/
def hourlyRetry (g : Nat) (s : State) : State :=
  let v := shelfOf s g
  if v.st = .failed ∧ v.lastTry + 3600 ≤ optime s then
    grantWake g (wantWake g .read 0 (setShelf g { v with st := .off, fails := 2, holdoff := false } s)) else s

/-- Does a wake item of a shelf wait that may be granted now? A READ's or RECALL's waits for the end of its batch window
(R237). -/
def wakeDue (s : State) (g : Nat) : Bool :=
  (itemsOf s g).any (fun e => decide (e.2.work = .wake) &&
    (decide (e.2.cls ≠ .read) || !(s.plc.batchOpen && s.plc.batch.contains g)))

/-- 10 s after a release the shelf may be requested again; a wake that waits is granted if it fits. -/
def holdoffEnd (g : Nat) (s : State) : State :=
  let v := shelfOf s g
  let s := setShelf g { v with holdoff := false } s
  if v.holdoff ∧ wakeDue s g then grantWake g s else s

/-- SHELF_WAKE_GRANT: a wake item of the shelf is granted if its charge fits. -/
def wakeGrant (g : Nat) (s : State) : State :=
  if wakeDue s g ∨ isHome s g then grantWake g s else s

/-- A 10 ms metering window ends (R212): commands are metered against the caps anew. -/
def meterWindow (g : Nat) (s : State) : State := kickShelf g (setShelf g { shelfOf s g with meterW := 0, meterR := 0 } s)

/-- R236: an item's urgency rises as 50, 25 and 0 % of the time to its deadline remain. -/
def urgencyStep (n : Nat) (s : State) : State :=
  { s with plc := { s.plc with items := tmod s.plc.items n (fun i =>
      if i.deadline.isSome then { i with urgency := min 3 (i.urgency + 1) } else i) } }

/-! ### Heat (R224) -/

/-- The value of a heat code: (8 + m) × 2^e − 8. -/
def heatValue (code : Nat) : Nat := (8 + code % 8) * 2 ^ (code / 8) - 8

/-- The greatest code of 8 bits whose value is at or below n. -/
def heatCode (n : Nat) : Nat :=
  (List.range 256).foldl (fun best c => if heatValue c ≤ n then c else best) 0

/-- The key of an 8 MiB extent of a volume. -/
def heatKey (vol block : Nat) : Nat := vol * 2 ^ 40 + block / 2048

/-- Count an access to a range of blocks: every extent it touches. -/
def heatTouch (vol first blocks : Nat) (s : State) : State :=
  let n := (first + blocks - 1) / 2048 - first / 2048 + 1
  { s with plc := { s.plc with heatT := (List.range n).foldl (fun t i =>
      let k := heatKey vol first + i
      tset t k (tgetD t k 0 + 1)) s.plc.heatT } }

/-- Each hour the transient counts are folded: the total is rounded down to a representable value. -/
def heatFold (s : State) : State :=
  { s with plc := { s.plc with
      heat := s.plc.heatT.foldl (fun t e => tset t e.1 (heatCode (heatValue (tgetD t e.1 0) + e.2))) s.plc.heat
      heatT := [] } }

/-- Each 24 hours every counter is halved. -/
def heatHalve (s : State) : State :=
  let halved := tmap (fun _ c => heatCode (heatValue c / 2)) s.plc.heat
  { s with plc := { s.plc with heat := tfilter (fun _ c => decide (c ≠ 0)) halved } }

/-! ### Basmos commands -/

/-- The array record changes: its generation rises by 1 (R487). -/
def changeArray (f : ArrayRec → ArrayRec) (s : State) : State :=
  let a := f s.pair.arr
  { s with pair := { s.pair with arr := { a with gen := a.gen + 1 }, genHeard := max s.pair.genHeard (a.gen + 1) } }

/-- R241: PWR_BUDGET_SET. The response carries both figures, also where the budget is refused. -/
def pwrBudgetSetH (p : Bytes) (s : State) : BAns × State :=
  let b := fieldLE p 0 4
  let a := fieldLE p 4 1
  let body := leN 4 (homeReserve s s.pair.arr.home) ++ leN 4 (minBudget s s.pair.arr.home)
  if b < minBudget s s.pair.arr.home ∨ a < 10 ∨ 90 < a then
    (.now { status := .invalidField, payload := body }, s)
  else (.now (.ok body), note 3 9 0 (changeArray (fun r => { r with budget := some b, shareA := a }) s))

/-- The 32-byte placement policy record (R242). -/
def policyBytes (op : Nat) (p : PlcPolicy) : Bytes :=
  leN 1 op ++ leN 1 (b2n p.staging) ++ leN 2 p.minAwakeS ++ leN 2 p.idleCloseS ++ leN 2 p.batchMs ++ leN 2 p.readWaitS ++
    leN 2 p.recallHoldH ++ leN 4 p.stageLimitGib ++ leN 2 p.retentionDays ++ leN 1 p.fillPct ++ leN 1 p.homeHotPct ++
    leN 1 p.hotThreshold ++ leN 1 p.transitPct ++ leN 2 p.deferGib ++ zeros 8

/-- Is a number within a range, ends included? -/
def within (lo hi n : Nat) : Bool := decide (lo ≤ n) && decide (n ≤ hi)

/-- R242: PLC_POLICY. -/
def plcPolicyH (b : Bytes) (s : State) : BAns × State :=
  let op := fieldLE b 0 1
  if op = 0 then (.now (.ok (policyBytes 0 s.plc.policy)), s)
  else
    let p : PlcPolicy := {
      staging := (byteAt b 1).getLsbD 0, minAwakeS := fieldLE b 2 2, idleCloseS := fieldLE b 4 2,
      batchMs := fieldLE b 6 2, readWaitS := fieldLE b 8 2, recallHoldH := fieldLE b 10 2,
      stageLimitGib := fieldLE b 12 4, retentionDays := fieldLE b 16 2, fillPct := fieldLE b 18 1,
      homeHotPct := fieldLE b 19 1, hotThreshold := fieldLE b 20 1, transitPct := fieldLE b 21 1,
      deferGib := fieldLE b 22 2 }
    if op = 1 ∧ (byteAt b 1).toNat < 2 ∧ within 10 3600 p.minAwakeS ∧ within 0 3600 p.idleCloseS ∧
        within 0 5000 p.batchMs ∧ within 5 300 p.readWaitS ∧ within 1 720 p.recallHoldH ∧
        within 0 4096 p.stageLimitGib ∧ within 7 365 p.retentionDays ∧ within 50 98 p.fillPct ∧
        within 0 80 p.homeHotPct ∧ within 1 255 p.hotThreshold ∧ within 0 10 p.transitPct ∧
        within 64 16384 p.deferGib then
      (.now (.ok (policyBytes 1 p)), note 4 9 0 (changeArray (fun r => { r with plc := p }) s))
    else refuse .invalidField s

end Sys2Proof.Machine
end

