-- ==== Sys2Proof/Machine/ColdFrame.lean ====
section
/-!
DEFINITION. Machine/ColdFrame.lean: block sets, bands, rows, page programs, verification and hardening (R106, R226 to
R233, R249 to R251, R266).
-/
namespace Sys2Proof.Machine

/-! ### Blocks -/

/-- The key of a block in the block tables. -/
def blkKey (port die block : Nat) : Nat := (port * 128 + die) * 65536 + block

/-- A block's table entry; an unlisted one is free and erased. -/
def blkOf (s : State) (k : Nat) : Blk := tgetD s.plc.blks k {}

/-- Replace a block's entry. -/
def setBlk (k : Nat) (b : Blk) (s : State) : State := { s with plc := { s.plc with blks := tset s.plc.blks k b } }

/-- May this head open an erased block of this group (R106)? Alone it owns every group, until step 4 of Table 4.8. -/
def ownsGroup (s : State) (group : Nat) : Bool :=
  (s.plc.alone && decide (s.pair.failStep < 4 ∧ s.pair.takeover = 0)) || decide (group % 2 = roleNum s)

/-- Is a block known to be erased? One of this head's groups that its tables do not list is; one of the peer's groups is as the
peer's records say, or its last checkpoint (R106, Table 4.6 step 7, log entry 121). -/
def erasedHere (s : State) (k : Nat) : Bool :=
  decide (k % 65536 / 64 % 2 = roleNum s) || thas s.plc.blks k || Config.peerBlockFree k

/-- The free block of a die with the lowest erase count that this head may open (R266); ties go to the lowest number. -/
def chooseBlock (s : State) (port die : Nat) : Option Nat :=
  let n := ((sledFigs s port).map (·.blocks)).getD 0
  (List.range n).foldl (fun best b =>
    let v := blkOf s (blkKey port die b)
    if v.inUse || v.retired || !ownsGroup s (b / 64) || !erasedHere s (blkKey port die b) then best
    else match best with
      | none => some b
      | some c => if v.erases < (blkOf s (blkKey port die c)).erases then some b else best) none

/-! ### Block sets -/

/-- The key of a block set: its port and set number. -/
def bsKey (port n : Nat) : Nat := port * 2 ^ 32 + n

/-- Update a block set. -/
def modSet (k : Nat) (f : BSet → BSet) (s : State) : State := { s with plc := { s.plc with sets := tmod s.plc.sets k f } }

/-- The partner sled (R227). -/
def partnerSled (k : Nat) : Nat := (k + 16) % 32

/-- The port of a block set. -/
def setPortOf (b : BSet) : Nat := b.shelf * 32 + b.sled

/-- The key of a set's partner. -/
def partnerKey (b : BSet) : Nat := bsKey (b.shelf * 32 + partnerSled b.sled) b.partner

/-- The die-parity position of a block set: set number mod 16 (R250). -/
def parityPos (b : BSet) : Nat := b.setNo % 16

/-- The data positions of a block set in ascending order (R250, R275): not the parity position, not void. -/
def dataPos (b : BSet) : List Nat := (List.range 16).filter (fun p => decide (p ≠ parityPos b) && !b.voidMask.testBit p)

/-- The linear page (stripe × 16 + position) of the k-th page in the order of R250. -/
def linOf (b : BSet) (k : Nat) : Nat :=
  let d := dataPos b
  k / (max 1 d.length) * 16 + d.getD (k % (max 1 d.length)) 0

/-- The pages of a block of this set's sled. -/
def pagesPerBlock (s : State) (port : Nat) : Nat := ((sledFigs s port).map (·.pages)).getD 0

/-- The data pages that a block set holds. -/
def setPages (s : State) (b : BSet) : Nat := pagesPerBlock s (setPortOf b) * (dataPos b).length

/-- The location of a grain on a set's linear page, for member j. -/
def grainLoc (b : BSet) (lin grain j : Nat) (transit : Bool) : Loc :=
  { kind := .flash b.shelf b.sled (b.dieGroup * 16 + lin % 16) (b.blocks.getD (lin % 16) 0) (lin / 16) grain j
    transit := transit }

/-- The set and linear page that a flash location names. -/
def findSet (s : State) (g sl die block page : Nat) : Option (Nat × Nat) :=
  (s.plc.sets.find? (fun e => decide (e.2.shelf = g ∧ e.2.sled = sl ∧ e.2.dieGroup = die / 16 ∧
    e.2.blocks.getD (die % 16) 65536 = block ∧ !e.2.voidMask.testBit (die % 16)))).map
    (fun e => (e.1, page * 16 + die % 16))

/-! ### Rows (R229 to R233) -/

/-- The key of a row. -/
def rowKey (g n : Nat) : Nat := g * 2 ^ 40 + n

/-- The member of row n on a sled: member j lies on sled (j + 4n) mod 32 (R231). -/
def memberOn (sled n : Nat) : Nat := (sled + 128 - 4 * (n % 32)) % 32

/-- The sled of member j of row n. -/
def sledOf (j n : Nat) : Nat := (j + 4 * n) % 32

/-- The rows below x in which a sled carries parity. -/
def parityBelow (sled x : Nat) : Nat := (x + 7 - (sled / 4 + 1) % 8) / 8

/-- The rows of [a, b) in which a sled carries data. -/
def dataRows (sled a b : Nat) : Nat := (b - a) - (parityBelow sled b - parityBelow sled a)

/-- The next row at or above n in which a sled carries data. -/
def nextDataRow (sled n : Nat) : Nat := if memberOn sled n < 28 then n else n + 1

/-- Row n of shelf g. -/
def rowOf (s : State) (g n : Nat) : Option Row := tget s.plc.rows (rowKey g n)

/-- Update a row. -/
def modRow (g n : Nat) (f : Row → Row) (s : State) : State :=
  { s with plc := { s.plc with rows := tmod s.plc.rows (rowKey g n) f } }

/-- The row and member that hold a linear page of a block set. -/
def rowAt (s : State) (key lin : Nat) : Option (Row × Nat) :=
  s.plc.rows.findSome? (fun e => (e.2.page.find? (fun p => decide (p.2 = (key, lin)))).map (fun p => (e.2, p.1)))

/-! ### Opening a band (R249, R251) -/

/-- A new block set on a sled: one block per position of the die group; a retired die's position is void. None where a
die has no block to open. -/
def newSet (s : State) (g sl group band n partner : Nat) (secondary : Bool) : Option BSet :=
  let port := g * 32 + sl
  let alloc := (List.range 16).map (fun p =>
    let die := group * 16 + p
    if s.plc.diesRetired.contains (port, die) then some (p, none)
    else (chooseBlock s port die).map (fun b => (p, some b)))
  if alloc.any (·.isNone) then none
  else
    let got := alloc.filterMap id
    some {
      shelf := g, sled := sl, dieGroup := group, secondary := secondary, role := roleOf s
      lent := got.any (fun e => match e.2 with
        | some b => decide (b / 64 % 2 ≠ roleNum s)
        | none => false)
      band := band, setNo := n, partner := partner
      voidMask := sumBy (fun e => if e.2.isNone then 2 ^ e.1 else 0) got
      blocks := got.map (fun e => e.2.getD 0) }

/-- Mark a new set's blocks in use. -/
def takeBlocks (b : BSet) (s : State) : State :=
  (List.range 16).foldl (fun s p =>
    if b.voidMask.testBit p then s
    else
      let k := blkKey (setPortOf b) (b.dieGroup * 16 + p) (b.blocks.getD p 0)
      setBlk k { blkOf s k with inUse := true } s) s

/-! ### Block-state records -/

/-- The location word that names a block (Table 9.6). -/
def blockLoc (port die block : Nat) : Loc := { kind := .flash (port / 32) (port % 32) die block 0 0 0 }

/-- Record new states of blocks by a kind-2 map record: each block with its state and erase count. -/
def recordBlocks (bs : List (Nat × Nat × Nat × Nat)) (s : State) : State :=
  if bs = [] then s
  else (writeLoose (.mapBlocks (bs.map (fun e =>
    (blockLoc e.1 e.2.1 e.2.2.1, e.2.2.2, (blkOf s (blkKey e.1 e.2.1 e.2.2.1)).erases)))) s).2

/-- The blocks of a set that stand: port, die and block by position. -/
def setBlocks (b : BSet) : List (Nat × Nat × Nat × Nat) :=
  ((List.range 16).filter (fun p => !b.voidMask.testBit p)).map (fun p =>
    (p, setPortOf b, b.dieGroup * 16 + p, b.blocks.getD p 0))

/-- The die groups of a sled, and those with two retired dies, which are retired (R275). -/
def dieGroups (s : State) (port : Nat) : Nat := ((sledFigs s port).map (fun r => r.dies / 16)).getD 0
def groupRetired (s : State) (port group : Nat) : Bool :=
  decide (2 ≤ s.plc.diesRetired.countP (fun e => decide (e.1 = port ∧ e.2 / 16 = group)))

/-- May a sled carry data of a new band: its link usable, its partner's too, neither lost? -/
def sledFit (s : State) (g sl : Nat) : Bool :=
  let ok (k : Nat) : Bool := (portOf s (g * 32 + k)).usable && !(shelfOf s g).lost.contains k
  ok sl && ok (partnerSled sl)

/-- The primary set of a sled in the open band. -/
def openKey (ob : OpenBand) (g sl : Nat) : Nat := bsKey (g * 32 + sl) (tgetD ob.setNo sl 0)

/-- The primary and secondary sets of an open band. -/
def bandPairs (s : State) (g : Nat) (ob : OpenBand) : List BSet :=
  ob.sleds.flatMap (fun e => match tget s.plc.sets (openKey ob g e.1) with
    | some b => b :: (tget s.plc.sets (partnerKey b)).toList
    | none => [])

/-- The blocks of sets with a new state, for a kind-2 record: the opening and the closing of a set are block-state changes that
the peer must know of (Table 4.6 step 8, log entry 121). -/
def blocksAs (state : Nat) (bs : List BSet) : List (Nat × Nat × Nat × Nat) :=
  bs.flatMap (fun b => (setBlocks b).map (fun e => (e.2.1, e.2.2.1, e.2.2.2, state)))

/-- Open a band on shelf g: a primary set and its secondary for every fit sled (R227, R251). The band takes the die
group band mod groups; primary and secondary numbers agree mod 16, so their parity positions agree. -/
def openBand (g : Nat) (s : State) : Option State :=
  let v := shelfOf s g
  let band := v.nextBand
  let base := (s.plc.setCount + 31) / 32 * 32
  let step (acc : State × List Nat) (sl : Nat) : State × List Nat :=
    let (s, ok) := acc
    let port := g * 32 + sl
    let group := band % (max 1 (dieGroups s port))
    let other := g * 32 + partnerSled sl
    if !sledFit s g sl || groupRetired s port group || groupRetired s other group then acc
    else match newSet s g sl group band (base + sl) (base + 32 + sl) false with
      | none => acc
      | some b =>
        let s1 := takeBlocks b s
        match newSet s1 g (partnerSled sl) group band (base + 32 + sl) (base + sl) true with
        | none => acc
        | some c =>
          let c := { c with voidMask := b.voidMask ||| c.voidMask }
          let b := { b with voidMask := c.voidMask }
          let s2 := takeBlocks c s1
          let sets := tset (tset s2.plc.sets (bsKey port (base + sl)) b) (bsKey other (base + 32 + sl)) c
          ({ s2 with plc := { s2.plc with sets := sets } }, ok ++ [sl])
  let (s, ok) := (List.range 32).foldl step (s, [])
  if ok = [] then none
  else
    let rows := ok.foldl (fun n sl => match tget s.plc.sets (bsKey (g * 32 + sl) (base + sl)) with
      | some b => min n (setPages s b)
      | none => n) (2 ^ 40)
    let ob : OpenBand := {
      band := band, setNo := ok.foldl (fun t sl => tset t sl (base + sl)) [], baseRow := v.nextRow, row := v.nextRow, rows := rows
      sleds := ok.foldl (fun t sl => tset t sl { rowIx := nextDataRow sl v.nextRow }) [] }
    let s := { s with plc := { s.plc with setCount := base + 64, open_ := tset s.plc.open_ g ob } }
    let s := recordBlocks (blocksAs 1 (bandPairs s g ob)) s
    some (setShelf g { shelfOf s g with nextBand := (band + 1) % 65536, nextRow := v.nextRow + rows } s)


/-! ### Programs -/

/-- Program a linear page of a set (R297: one plane). -/
def programPage (key lin : Nat) (data : Bytes) (s : State) : State :=
  match tget s.plc.sets key with
  | none => s
  | some b =>
    let s := modSet key (fun b => { b with issued := b.issued ++ [lin] }) s
    sendSled (setPortOf b) (.program key lin) {
      op := 2, tag := 0, die := b.dieGroup * 16 + lin % 16, block := b.blocks.getD (lin % 16) 0, page := lin / 16,
      data := data } s

/-- Program a page on a primary set and, page for page, on its secondary (R227). -/
def programBoth (key lin : Nat) (data : Bytes) (s : State) : State :=
  match tget s.plc.sets key with
  | none => s
  | some b => programPage (partnerKey b) lin data (programPage key lin data s)

/-- Replace a sled of the open band. -/
def setOpenSled (g sl : Nat) (os : OpenSled) (s : State) : State :=
  { s with plc := { s.plc with open_ := tmod s.plc.open_ g (fun ob => { ob with sleds := tset ob.sleds sl os }) } }

/-- The row's record, made at its first page: members of sleds without a set are void (R276). -/
def touchRow (g : Nat) (ob : OpenBand) (n : Nat) (s : State) : State :=
  match rowOf s g n with
  | some _ => s
  | none =>
    let mem := (List.range 32).map (fun j => if thas ob.sleds (sledOf j n) then MemSt.empty else .void)
    let row : Row := { shelf := g, band := ob.band, number := n, mem := mem }
    { s with plc := { s.plc with rows := tset s.plc.rows (rowKey g n) row } }

/-- The page buffer of a sled goes out: the page is programmed twice, its row member is filled, and the die parity of a
full page stripe follows (R226, R227). -/
def flushPage (g sl : Nat) (s : State) : State :=
  match tget s.plc.open_ g with
  | none => s
  | some ob =>
    match tget ob.sleds sl, tget s.plc.sets (openKey ob g sl) with
    | some os, some b =>
      let key := openKey ob g sl
      let lin := linOf b os.lin
      let page := fit 16384 os.buf
      let n := os.rowIx
      let j := memberOn sl n
      let s := touchRow g ob n s
      let s := modRow g n (fun r => { r with mem := r.mem.set j .filling, page := tset r.page j (key, lin) }) s
      let s := programBoth key lin page s
      let acc := xorBytes os.stripeAcc page
      let full := (os.lin + 1) % (max 1 (dataPos b).length) = 0
      let s := if full then programBoth key (lin / 16 * 16 + parityPos b) (fit 16384 acc) s else s
      setOpenSled g sl {
        rowIx := nextDataRow sl (n + 1), lin := os.lin + 1, buf := [], stripeAcc := if full then [] else acc } s
    | _, _ => s

/-- Append bytes to a sled's page stream; the segments (linear page, grain, count) come back. -/
def writeGrains (g sl : Nat) : Nat → Bytes → State → List (Nat × Nat × Nat) × State
  | 0, _, s => ([], s)
  | k + 1, bs, s =>
    if bs = [] then ([], s)
    else match tget s.plc.open_ g with
      | none => ([], s)
      | some ob =>
        match tget ob.sleds sl, tget s.plc.sets (openKey ob g sl) with
        | some os, some b =>
          let room := 16384 - os.buf.length
          let part := bs.take room
          let seg := (linOf b os.lin, os.buf.length / 512, part.length / 512)
          let s := setOpenSled g sl { os with buf := os.buf ++ part } s
          let s := if part.length = room then flushPage g sl s else s
          let (rest, s) := writeGrains g sl k (bs.drop room) s
          (seg :: rest, s)
        | _, _ => ([], s)

/-- Pad a partly filled page with zero grains and program it. -/
def padPage (g sl : Nat) (s : State) : State :=
  match (tget s.plc.open_ g).bind (fun ob => tget ob.sleds sl) with
  | some os => if os.buf = [] then s else flushPage g sl s
  | none => s

/-- Pad every partly filled page of a shelf. -/
def padShelf (g : Nat) (s : State) : State := (List.range 32).foldl (fun s sl => padPage g sl s) s

/-- The grains that a sled of the open band can still take. -/
def sledRoom (ob : OpenBand) (sl : Nat) (os : OpenSled) : Nat :=
  dataRows sl os.rowIx (ob.baseRow + ob.rows) * 32 - os.buf.length / 512

/-! ### Closing and verifying (R228) -/

/-- Ask for the verification read of a page. -/
def verifyRead (key lin : Nat) (s : State) : State :=
  match tget s.plc.sets key with
  | none => s
  | some b => sendSled (setPortOf b) (.verify key lin) {
      op := 1, tag := 0, die := b.dieGroup * 16 + lin % 16, block := b.blocks.getD (lin % 16) 0, page := lin / 16,
      grain := 0, count := 32 } s

/-- A closed set whose every page is confirmed or failed is read back. -/
def startVerify (key : Nat) (s : State) : State :=
  match tget s.plc.sets key with
  | none => s
  | some b =>
    if 2 ≤ b.state ∧ b.state ≤ 4 ∧ b.issued.all (fun l => b.conf.contains l || b.bad.contains l) then
      let todo := b.conf.filter (fun l => !b.asked.contains l && !b.bad.contains l)
      todo.foldl (fun s l => verifyRead key l s) (modSet key (fun b => { b with asked := todo ++ b.asked }) s)
    else s

/-- Close the open band of a shelf (R228, R251): partly filled pages are padded, the parity of a partly filled stripe is
programmed (its unwritten pages count as zeros), and the sets of every sled and their secondaries close. -/
def closeBand (g : Nat) (s : State) : State :=
  match tget s.plc.open_ g with
  | none => s
  | some _ =>
    let s := padShelf g s
    match tget s.plc.open_ g with
    | none => s
    | some ob =>
      let s := ob.sleds.foldl (fun s e =>
        let (sl, os) := e
        let key := openKey ob g sl
        match tget s.plc.sets key with
        | none => s
        | some b =>
          let dd := max 1 (dataPos b).length
          let s := if os.lin % dd ≠ 0 then
              programBoth key (linOf b os.lin / 16 * 16 + parityPos b) (fit 16384 os.stripeAcc) s else s
          let short := dataRows sl os.rowIx (ob.baseRow + ob.rows) ≠ 0
          let f (b : BSet) : BSet := { b with state := 2, short := decide short, closedAt := s.gh.hours }
          modSet (partnerKey b) f (modSet key f s)) s
      -- the open row and the rows begun beyond it are padded (Table 8.7 step 4)
      let s := (s.plc.rows.filter (fun e => decide (e.2.shelf = g ∧ e.2.band = ob.band))).foldl (fun s e =>
        modRow g e.2.number (fun r => { r with mem := r.mem.mapIdx (fun j m =>
          if m = .empty ∧ j < 28 then .padded else m) }) s) s
      let s := recordBlocks (blocksAs 2 (bandPairs s g ob)) s
      let s := { s with plc := { s.plc with open_ := terase s.plc.open_ g } }
      let used := maxBy (fun e => if e.2.band = ob.band ∧ e.2.shelf = g then e.2.number + 1 else 0) s.plc.rows
      let s := setShelf g { shelfOf s g with nextRow := max ob.baseRow used } s
      ob.sleds.foldl (fun s e =>
        let key := openKey ob g e.1
        match tget s.plc.sets key with
        | some b => startVerify (partnerKey b) (startVerify key s)
        | none => s) s

/-! ### Placing a chunk's bytes (R231, R250) -/

/-- The sleds of the open row that still fill it, in turn from the band's turn. -/
def rowSleds (ob : OpenBand) : List Nat :=
  ((List.range 32).map (fun i => (ob.turn + i) % 32)).filter (fun sl =>
    match tget ob.sleds sl with
    | some os => decide (os.rowIx = ob.row)
    | none => false)

/-- One round of placing a stored chunk on shelf g, with `again` for the rest of it: a band is opened where none is open, a
full row gives way to the next and a full band closes, a sled without room is padded out, and otherwise the next sled of
the open row in turn takes the chunk. -/
def placeRound (g : Nat) (bytes : Bytes) (again : State → Option (Nat × List (Nat × Nat × Nat)) × State) (s : State) :
    Option (Nat × List (Nat × Nat × Nat)) × State :=
  match tget s.plc.open_ g with
  | none => match openBand g s with
    | none => (none, s)
    | some s => again s
  | some ob =>
    match rowSleds ob with
    | [] =>
      if ob.baseRow + ob.rows ≤ ob.row + 1 then again (closeBand g s)
      else again { s with plc := { s.plc with open_ := tset s.plc.open_ g { ob with row := ob.row + 1 } } }
    | sl :: _ =>
      let os := tgetD ob.sleds sl {}
      if sledRoom ob sl os * 512 < bytes.length then
        -- fill what remains with padding grains and close the pages (R250)
        again ((List.range (sledRoom ob sl os / 32 + 1)).foldl (fun s _ =>
          match (tget s.plc.open_ g).bind (fun ob => tget ob.sleds sl) with
          | some os => if os.rowIx < ob.baseRow + ob.rows then flushPage g sl s else s
          | none => s) s)
      else
        let s := { s with plc := { s.plc with open_ := tset s.plc.open_ g { ob with turn := (sl + 1) % 32 } } }
        let (segs, s) := writeGrains g sl 8 bytes s
        (some (openKey ob g sl, segs), s)

/-- Place the bytes of a stored chunk (whole grains) on shelf g in at most so many rounds: the next sled of the open row
in turn takes it; a sled without room is padded out; a full row gives way to the next, and a full band closes and another
opens. The answer is the primary set and the segments. -/
def placeBytes (g : Nat) (bytes : Bytes) : Nat → State → Option (Nat × List (Nat × Nat × Nat)) × State
  | 0, s => (none, s)
  | k + 1, s => placeRound g bytes (placeBytes g bytes k) s

/-- The bytes of a stored chunk as they fill grains: envelope, encrypted region and zero padding (R198). -/
def grainBytes (envelope region : Bytes) : Bytes :=
  let n := envelope.length + region.length
  fit (cdiv n 512 * 512) (envelope ++ region)

/-- Are both copies of every page of a placed chunk confirmed? -/
def copiesConfirmed (s : State) (p : Placed) : Bool :=
  match tget s.plc.sets p.set with
  | none => false
  | some b => match tget s.plc.sets (partnerKey b) with
    | none => false
    | some c => p.segs.all (fun e => b.conf.contains e.1 && c.conf.contains e.1)

/-- Are both die-parity pages of its page stripes confirmed too (R227)? -/
def parityConfirmed (s : State) (p : Placed) : Bool :=
  match tget s.plc.sets p.set with
  | none => true
  | some b =>
    let c := tget s.plc.sets (partnerKey b)
    p.segs.all (fun e =>
      let l := e.1 / 16 * 16 + parityPos b
      b.voidMask.testBit (parityPos b) || (b.conf.contains l && ((c.map (fun c => c.conf.contains l)).getD true)))

/-- Is a placed chunk confirmed: both copies and both die-parity pages (R227)? -/
def placeConfirmed (s : State) (p : Placed) : Bool := copiesConfirmed s p && parityConfirmed s p

/-- The location of a placed chunk's first grain. -/
def placedLoc (s : State) (p : Placed) : Loc :=
  match tget s.plc.sets p.set, p.segs with
  | some b, (lin, gr, _) :: _ =>
    let j := ((rowAt s p.set lin).map (·.2)).getD 0
    grainLoc b lin gr j p.transit
  | _, _ => { kind := .none }

/-! ### Hardening (R232, R233) -/

/-- Does this head hold data on shelf g that is not hardened (R28)? A chunk that a failed page has left in a void member
counts until its move has ended. -/
def unhardened (s : State) (g : Nat) : Bool :=
  thas s.plc.open_ g || (tvals s.plc.rows).any (fun r => decide (r.shelf = g) && !r.hardened) ||
    (tvals s.plc.placed).any (fun p => decide (p.shelf = g) && !p.recorded) ||
    (tvals s.plc.moves).any (fun m => decide (m.why = .verifyFail ∨ m.why = .recover) &&
      ((tget s.plc.placed m.serial).map (fun p => decide (p.shelf = g))).getD false)

/-- Are all data members of a row verified, void or padded? -/
def rowVerified (r : Row) : Bool :=
  (r.mem.take 28).all (fun m => decide (m = .verified ∨ m = .void ∨ m = .padded))

/-- Are all its verified data members accumulated? -/
def rowAccumulated (r : Row) : Bool :=
  (List.range 28).all (fun j => decide (r.mem.getD j .empty ≠ .verified) || r.added.contains j)

/-- Add a data member's page to its row's accumulator. -/
def accumulate (g n j : Nat) (page : Bytes) (s : State) : State :=
  modRow g n (fun r => if r.added.contains j then r
    else { r with acc := rsAccumulate r.acc j page, added := j :: r.added }) s

/-- The linear pages of a set that rows name. -/
def namedPages (s : State) (key : Nat) : List Nat :=
  (tvals s.plc.rows).flatMap (fun r => r.page.filterMap (fun e => if e.2.1 = key then some e.2.2 else none))

/-- How far a set's page stream has come in the order of R250: one past its last page that is programmed or named by a row. -/
def streamEnd (s : State) (key : Nat) (b : BSet) : Nat :=
  let d := dataPos b
  maxBy (fun l => if l % 16 = parityPos b then 0 else l / 16 * max 1 d.length + d.countP (fun p => decide (p < l % 16)) + 1)
    (b.issued ++ namedPages s key)

/-- The parity members of a band on a sled that are still to be programmed. -/
def parityLeft (s : State) (g band sl : Nat) : Nat :=
  (tvals s.plc.rows).countP (fun r => decide (r.shelf = g ∧ r.band = band ∧ 28 ≤ memberOn sl r.number ∧
    r.mem.getD (memberOn sl r.number) .void = .empty))

/-- The next page of a set's stream for a parity page. A page stripe that a short close has cut off with its die parity is left
as it is, where the set has room beyond it for the parity pages still to come (log entry 26). -/
def nextLin (s : State) (key : Nat) (b : BSet) : Nat :=
  let n := streamEnd s key b
  let dd := max 1 (dataPos b).length
  let k := cdiv n dd * dd
  let cutOff := b.short && b.issued.contains (linOf b n / 16 * 16 + parityPos b)
  linOf b (if cutOff && decide (k + parityLeft s b.shelf b.band b.sled ≤ setPages s b) then k else n)

/-- The newest primary set of a band on a sled, which takes its parity pages. -/
def paritySet (s : State) (g band sl : Nat) : Option (Nat × BSet) :=
  s.plc.sets.reverse.find? (fun x => decide (x.2.shelf = g ∧ x.2.sled = sl ∧ x.2.band = band) && !x.2.secondary)

/-- Step 2 of R232: program the row's parity pages, each at its sled's next page in the band's primary set; a parity
member without a set is void. -/
def programParity (g n : Nat) (s : State) : State :=
  match rowOf s g n with
  | none => s
  | some r =>
    if r.parityAsked ∨ !rowVerified r ∨ !rowAccumulated r then s
    else
      let s := modRow g n (fun r => { r with parityAsked := true, deferred := false }) s
      (rsParity r.acc).foldl (fun s e =>
        let (j, page) := e
        match paritySet s g r.band (sledOf j n) with
        | none => modRow g n (fun r => { r with mem := r.mem.set j .void }) s
        | some (key, b) =>
          let lin := nextLin s key b
          let s := modRow g n (fun r => { r with mem := r.mem.set j .filling, page := tset r.page j (key, lin) }) s
          programPage key lin (fit 16384 page) s) s

/-- Ask a set for the page that is member j of a row. -/
def askMember (row j lin : Nat) (c : BSet) (s : State) : State :=
  sendSled (setPortOf c) (.member row j) {
    op := 1, tag := 0, die := c.dieGroup * 16 + lin % 16, block := c.blocks.getD (lin % 16) 0, page := lin / 16,
    grain := 0, count := 32 } s

/-- Read a member again to harden a deferred row (R232): from its primary page, or for a lost sled from its secondary
(R276). -/
def readMember (g n j : Nat) (s : State) : State :=
  match (rowOf s g n).bind (fun r => tget r.page j) with
  | none => s
  | some (key, lin) =>
    match tget s.plc.sets key with
    | none => s
    | some b =>
      askMember (rowKey g n) j lin
        (if (portOf s (setPortOf b)).usable then b else (tget s.plc.sets (partnerKey b)).getD b) s

/-- Harden what can be hardened of a row; with force, a deferred row's members are read again. -/
def hardenRow (g n : Nat) (force : Bool) (s : State) : State :=
  match rowOf s g n with
  | none => s
  | some r =>
    if r.hardened ∨ r.parityAsked ∨ !rowVerified r then s
    else if rowAccumulated r then programParity g n s
    else
      let s := modRow g n (fun r => { r with deferred := true, reading := r.reading || force }) s
      if force ∧ !r.reading then (List.range 28).foldl (fun s j =>
        if r.mem.getD j .empty = .verified ∧ !r.added.contains j then readMember g n j s else s) s
      else s

/-- The members that a decode of a row reckons with: all but padded members and void data members, which are zero pages (R229).
A void parity member is an erased one, since its page would not be zeros (R230, R276). -/
def codeMembers (r : Row) : List Nat :=
  (List.range 32).filter (fun m => decide (r.mem.getD m .void ≠ .padded) && (decide (r.mem.getD m .void ≠ .void) || decide (28 ≤ m)))

/-- The rows of a shelf. -/
def rowsOn (s : State) (g : Nat) : List Row := (tvals s.plc.rows).filter (fun r => decide (r.shelf = g))

/-- The bytes of this head's deferred rows on a shelf (R232). -/
def deferredBytes (s : State) (g : Nat) : Nat :=
  16384 * sumBy (fun r => if r.deferred then r.mem.countP (fun m => decide (m = .verified)) else 0) (rowsOn s g)

/-- What a row keeps when the programs and reads under way on its shelf are lost: a data member that was being programmed is void,
parity that is not verified is made anew, and members are read again. -/
def rowCut (restart : Bool) (r : Row) : Row :=
  if r.hardened then { r with acc := if restart then [] else r.acc, added := if restart then [] else r.added }
  else
    let done := (r.mem.drop 28).all (fun m => decide (m = .verified ∨ m = .void))
    { r with
      mem := r.mem.mapIdx (fun j m => if m = .filling then (if j < 28 then .void else .empty) else if 28 ≤ j ∧ !done then .empty else m)
      page := if done then r.page else r.page.filter (fun e => decide (e.1 < 28))
      parityAsked := r.parityAsked && done, reading := false
      acc := if restart then [] else r.acc, added := if restart then [] else r.added }

/-- What a block set keeps: a page that was being programmed counts as failed, one whose read-back had not ended is read again, and
one whose erase had not ended is erased again. -/
def setCut (b : BSet) : BSet :=
  let bad := b.issued.filter (fun l => !b.conf.contains l && !b.bad.contains l) ++ b.bad
  { b with bad := bad, asked := b.ver ++ b.bad }

/-- Release the secondary copies of a band whose every row is hardened (R233): its secondary sets go to be erased. -/
def releaseSecondaries (g band : Nat) (s : State) : State :=
  if (rowsOn s g).any (fun r => decide (r.band = band) && !r.hardened) ∨
      (tget s.plc.open_ g).any (fun ob => decide (ob.band = band)) then s
  else { s with plc := { s.plc with sets := tmap (fun _ b =>
      if b.shelf = g ∧ b.band = band ∧ b.secondary ∧ b.state < 5 then { b with state := 5 } else b) s.plc.sets } }

/-- A row whose four parity members are verified or void is hardened (R232 step 3). -/
def checkHardened (g n : Nat) (s : State) : State :=
  match rowOf s g n with
  | none => s
  | some r =>
    if r.hardened ∨ !r.parityAsked ∨ !((r.mem.drop 28).all (fun m => decide (m = .verified ∨ m = .void))) then s
    else
      let s := modRow g n (fun r => { r with hardened := true, deferred := false, acc := [] }) s
      let s := { s with plc := { s.plc with hardened := satAdd 32 s.plc.hardened 1 } }
      releaseSecondaries g r.band s

end Sys2Proof.Machine
end

