-- ==== Sys2Proof/Machine/Crypto.lean ====
section
/-!
DEFINITION. Machine/Crypto.lean: the cipher engine's key slots and queue 2, the digest engine, the public-key
accelerator and the random source (chapter 14, R386 to R401).
-/
namespace Sys2Proof.Machine

/-! ### Key slots -/

/-- Cipher slot k. -/
def slotOf (s : State) (k : Nat) : KeySlot := tgetD s.sec.slots k {}

/-- Replace cipher slot k. -/
def setSlot (k : Nat) (v : KeySlot) (s : State) : State :=
  { s with sec := { s.sec with slots := tset s.sec.slots k v } }

/-- The root key of the fuses (Table 14.1). -/
def rootKey : Bytes := (List.range 32).map Config.rootKeyByte

/-- The key a request finds in slot k: slot 4,095 is fed from the fuses (Table 14.2). -/
def slotKey (s : State) (k : Nat) : Bytes := if k = 4095 then rootKey else (slotOf s k).key

/-- The check value of a key: the first 4 bytes of the encryption of the zero block (R390). -/
def keyCheck (key : Bytes) : Nat := leVal ((aesEnc key (zeros 16)).take 4)

/-- Put a key into slot k with its purpose; a retired slot takes none (R389, R390). -/
def loadSlot (k : Nat) (key : Bytes) (purpose domain version : Nat) (s : State) : State :=
  if (slotOf s k).retired ∨ k = 4095 then s
  else
    let c := keyCheck key
    let s := setSlot k { key := key, purpose := purpose, domain := domain, version := version, kcv := c } s
    { s with sec := { s.sec with kcv := BitVec.ofNat 32 c, keyData := [0, 0, 0, 0, 0, 0, 0, 0] } }

/-- Empty slot k; slot 4,095 cannot be zeroised (Table 14.2). -/
def zeroiseSlot (k : Nat) (s : State) : State :=
  if k = 4095 then s else setSlot k { slotOf s k with key := [], kcv := 0 } s

/-- R390, Table 14.5: a write of CPH_KEY_DATAi; discarded with key_err while busy. -/
def keyDataWrite (i : Nat) (w : Word) (s : State) : State :=
  if s.sec.keyOp.isSome then { s with sec := { s.sec with keyErr := true } }
  else { s with sec := { s.sec with keyData := s.sec.keyData.set i w } }

def execKeyDataWrite (i : Fin 8) (word : Word) (s : State) : Res := .next (keyDataWrite i word s)

/-! ### Queue 2 (R387) -/

/-- The number of entries queue 2 holds. -/
def q2Count (c : Sec) : Nat := if c.q2Full then 256 else (c.q2Tail - c.q2Head).toNat

/-- The bytes of entry k of the descriptor ring (Table 14.3). -/
def q2Desc (s : State) (k : Nat) : Bytes := memGets s.sec.lodgeMem (s.sec.q2Base.toNat + 64 * k) 64

/-- Does a descriptor name key slot k: XTS uses its slot and the next? -/
def descNames (d : Bytes) (k : Nat) : Bool :=
  decide (fieldLE d 2 2 = k) || (decide (fieldLE d 0 1 ≤ 2) && decide (fieldLE d 2 2 + 1 = k))

/-- The indices of the entries that wait, from the head. -/
def q2Waiting (c : Sec) : List Nat := (List.range (q2Count c)).map (fun i => (c.q2Head.toNat + i) % 256)

/-- Apply a slot operation. -/
def applyKeyOp (op : KeyOp) (s : State) : State :=
  if op.zeroise then zeroiseSlot op.slot s else loadSlot op.slot op.key 3 0 0 s

/-- Start a load or zeroise: it waits for requests already admitted that name the slot (Table 14.5); while one runs a
further start is ignored. -/
def startKeyOp (slot : Nat) (zero : Bool) (s : State) : State :=
  if s.sec.keyOp.isSome ∨ slot = 4095 then s
  else
    let op : KeyOp := { slot := slot, zeroise := zero, key := (s.sec.keyData.map (fun w => leN 4 w.toNat)).flatten }
    let s := { s with sec := { s.sec with ctlSlot := BitVec.ofNat 12 slot, ctlOp := zero } }
    if (q2Waiting s.sec).any (fun k => descNames (q2Desc s k) slot) then
      { s with sec := { s.sec with
          keyOp := some op, keyData := if zero then s.sec.keyData else [0, 0, 0, 0, 0, 0, 0, 0] } }
    else applyKeyOp op s

def execKeySlotLoad (slot : Fin 4096) (s : State) : Res := .next (startKeyOp slot false s)
def execKeySlotZeroise (slot : Fin 4096) (s : State) : Res := .next (startKeyOp slot true s)

/-- R387: a write of CPH_Q2_TAIL submits the entries up to it; an entry that names the slot of a running slot
operation will end SLOT_BUSY (Table 14.5). -/
def q2Submit (tail : BitVec 8) (s : State) : State :=
  let c := s.sec
  let n := (tail - c.q2Tail).toNat
  let added := (List.range n).map (fun i => (c.q2Tail.toNat + i) % 256)
  let busy := match c.keyOp with
    | none => []
    | some op => added.filter (fun k => descNames (q2Desc s k) op.slot)
  added.foldl (fun s k => monBegin 19 k s) { s with sec := { c with
    q2Tail := tail
    q2Full := (decide (0 < n) && decide (tail = c.q2Head)) || (c.q2Full && decide (n = 0))
    q2Busy := c.q2Busy ++ busy } }

def execCipherQueue2Submit (tail : BitVec 8) (s : State) : Res := .next (q2Submit tail s)

/-- The XTS data units of a region: 4,096 bytes each, a final remainder below 16 bytes joining the one before (R200). -/
def dataUnits : Nat → Bytes → List Bytes
  | 0, _ => []
  | k + 1, bs =>
    if bs.isEmpty then []
    else if bs.length < 4112 then [bs]
    else bs.take 4096 :: dataUnits k (bs.drop 4096)

/-- XTS over a region from data unit number unit, with a content serial as tweak (R200). -/
def xtsRegion (enc : Bool) (k1 k2 : Bytes) (serial unit : Nat) (bs : Bytes) : Bytes :=
  ((dataUnits (bs.length + 1) bs).zipIdx.map (fun p =>
    xtsUnit enc k1 k2 (leN 8 serial ++ leN 8 (unit + p.2)) p.1)).flatten

/-- Does a descriptor keep Table 14.3? -/
def descValid (d : Bytes) : Bool :=
  let op := fieldLE d 0 1
  let len := fieldLE d 4 4
  decide (1 ≤ op) && decide (op ≤ 4) && zeroAt d 1 1 && zeroAt d 60 4 && decide (16 ≤ len) &&
    decide (len ≤ 16777216) && decide (fieldLE d 2 2 < 4096) && decide (fieldLE d 40 2 ≤ 512) &&
    (if op ≤ 2 then decide (fieldLE d 2 2 % 2 = 0) else zeroAt d 8 8)

/-- The outcome of a queue-2 request (Table 14.4) and the bytes it writes at its destination. -/
def q2Run (s : State) (k : Nat) (poisoned : Bool) : Nat × Bytes :=
  let d := q2Desc s k
  let op := fieldLE d 0 1
  let slot := fieldLE d 2 2
  let len := fieldLE d 4 4
  let src := memGets s.sec.lodgeMem (fieldLE d 16 8) len
  let aad := memGets s.sec.lodgeMem (fieldLE d 32 8) (fieldLE d 40 2)
  let nonce := bslice d 44 12
  if !descValid d then (3, [])
  else if s.sec.q2Busy.contains k then (5, [])
  else if (slotKey s slot).isEmpty ∨ (op ≤ 2 ∧ (slotKey s (slot + 1)).isEmpty) then (1, [])
  else if poisoned then (4, [])
  else if op ≤ 2 then
    (0, xtsRegion (op = 1) (slotKey s slot) (slotKey s (slot + 1)) (fieldLE d 8 8) (fieldLE d 42 2) src)
  else if op = 3 then
    let r := gcmEnc (slotKey s slot) nonce aad src
    (0, r.1 ++ r.2)
  else match gcmDec (slotKey s slot) nonce aad src (memGets s.sec.lodgeMem (fieldLE d 16 8 + len) 16) with
    | some p => (0, p)
    | none => (2, [])

/-- R387, R388, Table 14.4: the request at the head of queue 2 ends; its completion goes to the ring that follows the
descriptor ring, and a slot operation that waited for it applies. -/
def q2Done (id : Nat) (poisoned : Bool) (s : State) : State :=
  let k := s.sec.q2Head.toNat
  let d := q2Desc s k
  if q2Count s.sec = 0 ∨ fieldLE d 56 4 ≠ id then s
  else
    let (outcome, bytes) := q2Run s k poisoned
    let done := if outcome = 0 then fieldLE d 4 4 else 0
    let cpl := leN 4 id ++ leN 1 outcome ++ zeros 3 ++ leN 4 done ++ zeros 4
    let mem := memPuts s.sec.lodgeMem (fieldLE d 24 8) bytes
    let mem := memPuts mem (s.sec.q2Base.toNat + 64 * 256 + 16 * k) cpl
    let c := { s.sec with
      lodgeMem := mem, q2Head := s.sec.q2Head + 1, q2Full := false, q2Busy := s.sec.q2Busy.filter (· ≠ k)
      tagFail := satAdd 16 s.sec.tagFail (b2n (outcome = 2))
      poisoned := satAdd 16 s.sec.poisoned (b2n (outcome = 4)) }
    let s := monEnd 19 k 2 { s with sec := c }
    let s := if outcome = 3 then record 8 1 1 .none (leN 4 id) s else s
    match s.sec.keyOp with
    | none => s
    | some op =>
      if (q2Waiting s.sec).any (fun j => descNames (q2Desc s j) op.slot && !s.sec.q2Busy.contains j) then s
      else applyKeyOp op { s with sec := { s.sec with keyOp := none } }

/-! ### The digest engine (R397 to R399) -/

/-- A write by a user that does not own the engine is discarded and sets denied (R399). -/
def dgtOwned (user : Nat) (f : Digest → State → State) (s : State) : State :=
  let d := s.sec.dgt
  if d.owner = user then f d s else { s with sec := { s.sec with dgt := { d with denied := true } } }

/-- Store the engine. -/
def setDgt (d : Digest) (s : State) : State := { s with sec := { s.sec with dgt := d } }

/-- The words of a block of the algorithm. -/
def dgtBlockWords (d : Digest) : Nat := if d.alg = 0 then 16 else 32

/-- A hash state as 32-bit words, high word of each first, and back. -/
def dgtSplit (alg : Nat) (h : List Nat) : List Word :=
  if alg = 0 then h.map (BitVec.ofNat 32)
  else (h.map (fun x => [BitVec.ofNat 32 (x / 2 ^ 32), BitVec.ofNat 32 x])).flatten
def dgtJoin (alg : Nat) (ws : List Word) : List Nat :=
  if alg = 0 then (ws.take 8).map (·.toNat)
  else (pieces 2 9 (ws.take 16)).map (fun p => (p.headD 0).toNat * 2 ^ 32 + (p.getD 1 0).toNat)

/-- May the owner use digest key slot k: 0 to 47 serve Lodge functions, 48 to 63 the slot's own claimant (R397)? -/
def dgtSlotAllowed (s : State) (user k : Nat) : Bool :=
  if k < 48 then decide (user < 2)
  else match claimHolder s 6 k with
    | none => false
    | some h => if user = 2 then decide (h = 0x0200) else decide (h < 0x0100)

/-- R397: DGT_CTL.start begins a message: from the initial state, from the inner key block with hmac, or from the
saved state with restore. -/
def digestStart (user : Nat) (alg : BitVec 2) (hmac restore : Bool) (slot : BitVec 6) (s : State) : State :=
  dgtOwned user (fun d s =>
    let d := { d with alg := alg, hmac := hmac, restore := restore, slot := slot }
    if hmac ∧ !dgtSlotAllowed s user slot.toNat then setDgt { d with slotDenied := true } s
    else
      let a := alg.toNat
      let p := algParams a
      let d := { d with buf := [], done := false, active := true, digest := [] }
      if restore then setDgt d s
      else if hmac then
        let key := tgetD s.sec.dgtKeys slot.toNat []
        setDgt { d with
          state := dgtSplit a (shaBlocks p (algInit a) (hmacKey a key 0x36)), len := p.w * 16, busy := true } s
      else setDgt { d with state := dgtSplit a (algInit a), len := 0 } s) s

def execDigestStart (user : Fin 3) (alg : BitVec 2) (hmac restore : Bool) (slot : BitVec 6) (s : State) : Res :=
  .next (digestStart user alg hmac restore slot s)

/-- R397: a write of DGT_DATA adds a word; a word written while busy is discarded and sets overrun; a full block makes
the engine busy. -/
def digestDataWrite (user : Nat) (w : Word) (s : State) : State :=
  dgtOwned user (fun d s =>
    if d.busy then setDgt { d with overrun := true } s
    else if !d.active then s
    else
      let buf := d.buf ++ [w]
      setDgt { d with buf := buf, len := d.len + 32, busy := buf.length = dgtBlockWords d } s) s

def execDigestDataWrite (user : Fin 3) (word : Word) (s : State) : Res := .next (digestDataWrite user word s)

/-- The bytes of the block being written. -/
def dgtBufBytes (d : Digest) : Bytes := (d.buf.map (fun w => beN 4 w.toNat)).flatten

/-- R397: the engine ends compressing a block and clears busy. -/
def digestBlockDone (s : State) : State :=
  let d := s.sec.dgt
  if !d.busy then s
  else
    let a := d.alg.toNat
    setDgt { d with
      busy := false, buf := []
      state := dgtSplit a (shaBlocks (algParams a) (dgtJoin a d.state) (dgtBufBytes d)) } s

def execDigestBlockDone (s : State) : Res := .next (digestBlockDone s)

/-- R397: DGT_CTL.final: the last word has lastBytes valid bytes (0 means 4); the engine pads, runs the outer pass of
HMAC, and done rises. -/
def digestFinal (user : Nat) (lastBytes : BitVec 2) (s : State) : State :=
  dgtOwned user (fun d s =>
    if !d.active then s
    else
      let a := d.alg.toNat
      let p := algParams a
      let cut := if lastBytes = 0 ∨ d.buf.isEmpty then 0 else 4 - lastBytes.toNat
      let bs := (dgtBufBytes d).take ((dgtBufBytes d).length - cut)
      let h := shaFinish p (dgtJoin a d.state) bs (d.len - 8 * cut)
      let inner := (shaBytes p h).take (algLen a)
      let mac := if d.hmac then
          let key := tgetD s.sec.dgtKeys d.slot.toNat []
          (shaBytes p (shaFinish p (algInit a) (hmacKey a key 0x5C ++ inner)
            (8 * (p.w * 2 + inner.length)))).take (algLen a)
        else inner
      setDgt { d with
        lastBytes := lastBytes, busy := false, buf := [], active := false, done := true, state := [],
        digest := (pieces 4 17 mac).map (fun b => BitVec.ofNat 32 (beVal b)) } s) s

def execDigestFinal (user : Fin 3) (lastBytes : BitVec 2) (s : State) : Res := .next (digestFinal user lastBytes s)

/-- The claim table's holder of the digest engine for a user (R52, R399). -/
def dgtHolder (user : Nat) : Nat := if user = 2 then 0x0200 else Config.lodgeFunction user % 255 + 1

/-- Give the free engine to the lowest pending user (R399). -/
def dgtGrant (s : State) : State :=
  let d := s.sec.dgt
  if d.owner ≠ 3 ∨ d.pending = 0 then s
  else
    let u := lowestUser d.pending
    setClaim 7 0 (dgtHolder u) (setDgt { d with owner := u, pending := setBit d.pending u false } s)

/-- R399, Table 14.10: a write of DGT_CLAIM.req; a write that sets two bits records an event (R54). -/
def digestClaimRequest (req : BitVec 3) (s : State) : State :=
  let d := s.sec.dgt
  let own : BitVec 3 := if d.owner = 3 then 0 else BitVec.ofNat 3 (2 ^ d.owner)
  let s := setDgt { d with pending := (d.pending ||| req) &&& ~~~own } s
  let s := if 1 < usersOn req then
      record 8 0x0A 0 (.claim 7 0) (leN 1 req.toNat ++ leN 1 (lowestUser req)) s
    else s
  dgtGrant s

/-- A request written through the expert window (R54): one that sets the bits of two users gives the claim table the expert
session as holder, laid over the Lodge function that is served. -/
def dgtWindowRequest (req : BitVec 3) (s : State) : State :=
  let s := digestClaimRequest req s
  if usersOn req < 2 ∨ s.sec.dgt.owner = 3 then s
  else
    let under := if s.sec.dgt.owner = 2 then none else some (dgtHolder s.sec.dgt.owner)
    { s with kiosk := { s.kiosk with claims := tset s.kiosk.claims (claimKey 7 0) { holder := 0x0200, under := under } } }

def execDigestClaimRequest (req : BitVec 3) (s : State) : Res := .next (digestClaimRequest req s)

/-- The engine is released: its state is zeroed and the lowest pending user gets it (R398, R399). -/
def dgtRelease (s : State) : State :=
  let d := s.sec.dgt
  dgtGrant { setDgt { pending := d.pending, overrun := d.overrun, denied := d.denied, slotDenied := d.slotDenied } s with
    kiosk := { s.kiosk with claims := terase s.kiosk.claims (claimKey 7 0) } }

def execDigestRelease (user : Fin 3) (s : State) : Res :=
  .next (dgtOwned user (fun _ s => dgtRelease s) s)

/-- R399: a window owner idle for 100 ms loses the engine and its state, with an event. -/
def digestWindowIdleTimeout (s : State) : State :=
  if s.sec.dgt.owner = 2 then record 8 8 1 (.claim 7 0) (leN 1 2) (dgtRelease s) else s

def execDigestWindowIdleTimeout (s : State) : Res := .next (digestWindowIdleTimeout s)

/-! ### Public-key accelerator and random source -/

/-- Lodge firmware submits a public-key operation: 0 verify, 1 sign, 2 decrypt (R400). -/
def pkaSubmit (op : Nat) (s : State) : State :=
  let c := s.sec
  { s with sec := { c with pkaQ := c.pkaQ ++ [op], pkaOp := if c.pkaQ.isEmpty then op else c.pkaOp } }

/-- R400: the running operation ends and the next submitted one starts. -/
def pkaDone (selfCheckOk : Bool) (s : State) : State :=
  match s.sec.pkaQ with
  | [] => s
  | _ :: rest => { s with sec := { s.sec with
      pkaQ := rest, pkaFault := !selfCheckOk, pkaOps := satAdd 16 s.sec.pkaOps 1
      pkaOp := rest.headD s.sec.pkaOp } }

def execPkaOperationDone (selfCheckOk : Bool) (s : State) : Res := .next (pkaDone selfCheckOk s)

/-- R401: a tripped test restarts the source once; a second trip within 1 min halts the DRBG with an event. -/
def rngHealthTrip (apt withinMinute : Bool) (s : State) : State :=
  let c := s.sec
  let c := if apt then { c with apt := satAdd 16 c.apt 1 } else { c with rct := satAdd 16 c.rct 1 }
  if withinMinute then
    record 8 1 3 (.engineCore 8 0) (leN 1 (b2n apt)) { s with sec := { c with rngHalted := true, rngReady := false } }
  else { s with sec := c }

def execRngHealthTrip (apt withinMinute : Bool) (s : State) : Res := .next (rngHealthTrip apt withinMinute s)

/-- R401: the DRBG reseeds; a halted DRBG stays halted. -/
def drbgReseed (s : State) : State :=
  if s.sec.rngHalted then s else { s with sec := { s.sec with drbgReqs := 0, rngReady := true } }

def execDrbgReseed (s : State) : Res := .next (drbgReseed s)

/-- One request to the DRBG, which reseeds every 65,536 of them (R401). -/
def drbgRequest (s : State) : State :=
  { s with sec := { s.sec with drbgReqs := if 65535 ≤ s.sec.drbgReqs then 0 else s.sec.drbgReqs + 1 } }

end Sys2Proof.Machine
end

