-- ==== Sys2Proof/Machine/Deflate.lean ====
section
/-!
DEFINITION. Machine/Deflate.lean: the compressor of R193 and the decompressor of R195 and R196 (RFC 1951).
-/
namespace Sys2Proof.Machine

/-! ### Codes of RFC 1951 -/

/-- The n low bits of v, lowest first. -/
def bitsLow : Nat → Nat → List Bool
  | 0, _ => []
  | n + 1, v => decide (v % 2 = 1) :: bitsLow n (v / 2)

/-- A Huffman code of n bits, highest bit first. -/
def bitsHigh (n v : Nat) : List Bool := (bitsLow n v).reverse

/-- Bases and extra bits of the length codes 257 to 285 and of the distance codes 0 to 29. -/
def lenBase : List Nat :=
  [3, 4, 5, 6, 7, 8, 9, 10, 11, 13, 15, 17, 19, 23, 27, 31, 35, 43, 51, 59, 67, 83, 99, 115, 131, 163, 195, 227, 258]
def lenExtra : List Nat :=
  [0, 0, 0, 0, 0, 0, 0, 0, 1, 1, 1, 1, 2, 2, 2, 2, 3, 3, 3, 3, 4, 4, 4, 4, 5, 5, 5, 5, 0]
def distBase : List Nat :=
  [1, 2, 3, 4, 5, 7, 9, 13, 17, 25, 33, 49, 65, 97, 129, 193, 257, 385, 513, 769, 1025, 1537, 2049, 3073, 4097, 6145,
    8193, 12289, 16385, 24577]
def distExtra : List Nat :=
  [0, 0, 0, 0, 1, 1, 2, 2, 3, 3, 4, 4, 5, 5, 6, 6, 7, 7, 8, 8, 9, 9, 10, 10, 11, 11, 12, 12, 13, 13]

/-- The index of the last base at or below v. -/
def baseIndex (bases : List Nat) (v : Nat) : Nat := bases.countP (fun b => decide (b ≤ v)) - 1

/-- The fixed code of a literal/length symbol. -/
def fixedCode (sym : Nat) : List Bool :=
  if sym < 144 then bitsHigh 8 (0x30 + sym)
  else if sym < 256 then bitsHigh 9 (0x190 + (sym - 144))
  else if sym < 280 then bitsHigh 7 (sym - 256)
  else bitsHigh 8 (0xC0 + (sym - 280))

/-- A match of length n and distance d under the fixed codes. -/
def matchBits (n d : Nat) : List Bool :=
  let li := baseIndex lenBase n
  let di := baseIndex distBase d
  fixedCode (257 + li) ++ bitsLow (lenExtra.getD li 0) (n - lenBase.getD li 0) ++ bitsHigh 5 di ++
    bitsLow (distExtra.getD di 0) (d - distBase.getD di 0)

/-! ### The compressor (R193) -/

/-- hash3 of R193. -/
def hash3 (x : Array Byte) (p : Nat) : Nat :=
  ((x.getD p 0).toNat + 256 * (x.getD (p + 1) 0).toNat + 65536 * (x.getD (p + 2) 0).toNat) * 0x9E3779B1 % 2 ^ 32 /
    2 ^ 20

/-- Do the three bytes at c and p agree? -/
def same3 (x : Array Byte) (c p : Nat) : Bool := (List.range 3).all (fun i => x.getD (c + i) 0 = x.getD (p + i) 0)

/-- The match length at p against c, from n on. -/
def matchLen (x : Array Byte) (c p : Nat) : Nat → Nat → Nat
  | 0, n => n
  | k + 1, n => if n < 258 ∧ p + n < x.size ∧ x.getD (c + n) 0 = x.getD (p + n) 0 then matchLen x c p k (n + 1) else n

/-- Enter positions in the table; an entry is a position + 1, 0 empty. -/
def enterPos (x : Array Byte) : Nat → Nat → Array Nat → Array Nat
  | 0, _, t => t
  | k + 1, q, t => enterPos x k (q + 1) (if q + 3 ≤ x.size then t.setIfInBounds (hash3 x q) (q + 1) else t)

/-- The loop of R193 from position p; the bits come in blocks, last first. -/
def deflateLoop (x : Array Byte) : Nat → Nat → Array Nat → List (List Bool) → List (List Bool)
  | 0, _, _, out => out
  | k + 1, p, t, out =>
    if x.size ≤ p then out
    else
      let e := if p + 3 ≤ x.size then t.getD (hash3 x p) 0 else 0
      let t := enterPos x 1 p t
      if 0 < e ∧ p - (e - 1) ≤ 4096 ∧ same3 x (e - 1) p then
        let n := matchLen x (e - 1) p 255 3
        deflateLoop x k (p + n) (enterPos x (n - 1) (p + 1) t) (matchBits n (p - (e - 1)) :: out)
      else deflateLoop x k (p + 1) t (fixedCode (x.getD p 0).toNat :: out)

/-- The bytes of a bit string, the last padded with zeros. -/
def packBits : Nat → List Bool → Bytes
  | 0, _ => []
  | k + 1, bs =>
    if bs.isEmpty then []
    else
      let v := (bs.take 8).foldr (fun b n => 2 * n + b2n b) 0
      BitVec.ofNat 8 v :: packBits k (bs.drop 8)

/-- The Deflate stream of an input: one block, BFINAL = 1, BTYPE = 01. -/
def deflate (input : Bytes) : Bytes :=
  let x := input.toArray
  let body := (deflateLoop x (x.size + 1) 0 (Array.replicate 4096 0) []).reverse.flatten
  let bits := true :: true :: false :: body ++ fixedCode 256
  packBits bits.length bits

/-! ### The decompressor (R195, R196) -/

/-- Take n bits, lowest first. -/
def takeBits (n : Nat) (bs : List Bool) : Option (Nat × List Bool) :=
  let h := bs.take n
  if h.length < n then none else some (h.foldr (fun b v => 2 * v + b2n b) 0, bs.drop n)

/-- A code: how many codes of each length 1 to 15, and the symbols in code order. -/
structure Huff where
  counts : List Nat
  syms : Array Nat

/-- Build a code from symbol lengths; over-subscribed lengths are invalid. -/
def mkHuff (lens : List Nat) : Option Huff :=
  let counts := (List.range 15).map (fun i => lens.countP (fun l => decide (l = i + 1)))
  -- the codes of length i + 1 that shorter ones leave free; none left of a length taken twice over
  let left := counts.foldl (fun (l : Option Nat) c =>
    l.bind (fun l => if 2 * l < c then none else some (2 * l - c))) (some 1)
  if left.isNone then none
  else
    let ix := lens.zipIdx
    some { counts := counts, syms := ((List.range 15).flatMap (fun i =>
      (ix.filter (fun e => decide (e.1 = i + 1))).map (·.2))).toArray }

/-- Decode one symbol: code so far, first code of this length, index of its first symbol. -/
def decodeSym (syms : Array Nat) : List Nat → Nat → Nat → Nat → List Bool → Option (Nat × List Bool)
  | [], _, _, _, _ => none
  | _, _, _, _, [] => none
  | c :: cs, code, first, index, b :: bs =>
    let code := code + b2n b
    if code < first + c then some (syms.getD (index + (code - first)) 0, bs)
    else decodeSym syms cs (2 * code) (2 * (first + c)) (index + c) bs

/-- Decode one symbol of a code. -/
def Huff.next (h : Huff) (bs : List Bool) : Option (Nat × List Bool) := decodeSym h.syms h.counts 0 0 0 bs

/-- Copy n bytes from distance d. -/
def copyBack (d : Nat) : Nat → Array Byte → Array Byte
  | 0, out => out
  | n + 1, out => copyBack d n (out.push (out.getD (out.size - d) 0))

/-- The symbols of a compressed block, up to its end; the output may not pass limit, nor a distance far. -/
def inflateSyms (lit dist : Huff) (far limit : Nat) : Nat → List Bool → Array Byte → Option (List Bool × Array Byte)
  | 0, _, _ => none
  | k + 1, bs, out =>
    match lit.next bs with
    | none => none
    | some (sym, bs) =>
      if sym < 256 then
        if limit ≤ out.size then none else inflateSyms lit dist far limit k bs (out.push (BitVec.ofNat 8 sym))
      else if sym = 256 then some (bs, out)
      else if 285 < sym then none
      else match takeBits (lenExtra.getD (sym - 257) 0) bs with
        | none => none
        | some (e, bs) => match dist.next bs with
          | none => none
          | some (ds, bs) =>
            if 29 < ds then none
            else match takeBits (distExtra.getD ds 0) bs with
              | none => none
              | some (de, bs) =>
                let n := lenBase.getD (sym - 257) 0 + e
                let d := distBase.getD ds 0 + de
                if out.size < d ∨ far < d ∨ limit < out.size + n then none
                else inflateSyms lit dist far limit k bs (copyBack d n out)

/-- The code lengths of a dynamic block. -/
def dynLens (h : Huff) (total : Nat) : Nat → List Nat → List Bool → Option (List Nat × List Bool)
  | 0, _, _ => none
  | k + 1, acc, bs =>
    if total < acc.length then none
    else if acc.length = total then some (acc, bs)
    else match h.next bs with
      | none => none
      | some (sym, bs) =>
        if sym < 16 then dynLens h total k (acc ++ [sym]) bs
        else
          let (base, n, v) := if sym = 16 then (3, 2, acc.getLast?) else if sym = 17 then (3, 3, some 0) else (11, 7, some 0)
          match v, takeBits n bs with
          | some v, some (e, bs) => dynLens h total k (acc ++ List.replicate (base + e) v) bs
          | _, _ => none

/-- The order of the code-length code's lengths. -/
def clOrder : List Nat := [16, 17, 18, 0, 8, 7, 9, 6, 10, 5, 11, 4, 12, 3, 13, 2, 14, 1, 15]

/-- The n three-bit lengths of the code-length code. -/
def clLens : Nat → List Bool → Option (List Nat × List Bool)
  | 0, bs => some ([], bs)
  | n + 1, bs =>
    match takeBits 3 bs with
    | none => none
    | some (v, bs) => match clLens n bs with
      | none => none
      | some (vs, bs) => some (v :: vs, bs)

/-- The codes of a dynamic block. -/
def dynCodes (bs : List Bool) : Option (Huff × Huff × List Bool) :=
  match takeBits 14 bs with
  | none => none
  | some (v, bs) =>
    let hlit := v % 32 + 257
    let hdist := v / 32 % 32 + 1
    let hclen := v / 1024 + 4
    match clLens hclen bs with
    | none => none
    | some (cl, bs) =>
      let lens := (List.range 19).map (fun i => cl.getD (clOrder.idxOf i) 0)
      match mkHuff lens with
      | none => none
      | some h => match dynLens h (hlit + hdist) (hlit + hdist + 1) [] bs with
        | none => none
        | some (all, bs) => match mkHuff (all.take hlit), mkHuff (all.drop hlit) with
          | some a, some b => some (a, b, bs)
          | _, _ => none

/-- The fixed codes. -/
def fixedLens : List Nat := List.replicate 144 8 ++ List.replicate 112 9 ++ List.replicate 24 7 ++ List.replicate 8 8
def fixedDist : List Nat := List.replicate 30 5

/-- Stored bytes of a block of type 00. -/
def storedBytes : Nat → List Bool → Array Byte → Option (List Bool × Array Byte)
  | 0, bs, out => some (bs, out)
  | n + 1, bs, out =>
    match takeBits 8 bs with
    | none => none
    | some (v, bs) => storedBytes n bs (out.push (BitVec.ofNat 8 v))

/-- The blocks of a stream, up to the one with BFINAL = 1; total is the stream's length in bits, for the byte boundary
of a stored block; own admits only what this device writes. -/
def inflateBlocks (own : Bool) (limit total : Nat) : Nat → List Bool → Array Byte → Option (Array Byte)
  | 0, _, _ => none
  | k + 1, bs, out =>
    match takeBits 3 bs with
    | none => none
    | some (h, bs) =>
      let done (r : Option (List Bool × Array Byte)) : Option (Array Byte) :=
        match r with
        | none => none
        | some (bs, out) => if h % 2 = 1 then some out else inflateBlocks own limit total k bs out
      if own ∧ h / 2 ≠ 1 then none
      else if h / 2 = 0 then
        let bs := bs.drop ((8 - (total - bs.length) % 8) % 8)
        match takeBits 32 bs with
        | none => none
        | some (v, bs) =>
          let n := v % 65536
          if v / 65536 ≠ 65535 - n ∨ limit < out.size + n then none else done (storedBytes n bs out)
      else if h / 2 = 1 then
        match mkHuff fixedLens, mkHuff fixedDist with
        | some a, some b => done (inflateSyms a b (if own then 4096 else 32768) limit (total + 1) bs out)
        | _, _ => none
      else if h / 2 = 2 then
        match dynCodes bs with
        | none => none
        | some (a, b, bs) => done (inflateSyms a b (if own then 4096 else 32768) limit (total + 1) bs out)
      else none

/-- Decompress a stream into at most limit bytes; none where R196 fails it. -/
def inflate (limit : Nat) (stream : Bytes) : Option Bytes :=
  let bits := stream.flatMap (fun b => bitsLow 8 b.toNat)
  (inflateBlocks false limit bits.length (bits.length + 1) bits #[]).map (·.toList)

/-- Does a stream hold only blocks of type 01 and distances of at most 4,096, as this device writes them (R327)? -/
def ownStyle (limit : Nat) (stream : Bytes) : Bool :=
  let bits := stream.flatMap (fun b => bitsLow 8 b.toNat)
  (inflateBlocks true limit bits.length (bits.length + 1) bits #[]).isSome

end Sys2Proof.Machine
end

