-- ==== Sys2Proof/Machine/Envelope.lean ====
section
/-!
DEFINITION. Machine/Envelope.lean: the chunk envelope, its trailer, encryption and the check of a stored chunk (R193 to
R201).
-/
namespace Sys2Proof.Machine

/-- The fields of a chunk envelope (Table 7.4). -/
structure Env where
  raw : Bool
  overlay : Bool
  migrated : Bool := false
  mask : Nat
  domain : Nat
  version : Nat
  serial : Nat
  payloadLen : Nat
  grains : Nat
  fp : Bytes
  deriving DecidableEq, Repr

/-- The 64 bytes of an envelope. -/
def envBytes (e : Env) : Bytes :=
  let b := leN 2 1 ++ leN 1 (b2n e.raw + 2 * b2n e.overlay + 4 * b2n e.migrated) ++ leN 1 e.mask ++ leN 2 e.domain ++
    leN 2 e.version ++ leN 8 e.serial ++ leN 4 e.payloadLen ++ leN 1 e.grains ++ zeros 3 ++ fit 32 e.fp ++ zeros 4
  b ++ leN 4 (crc32c b)

/-- R199: the check field. -/
def envOk (b : Bytes) : Bool := decide (64 ≤ b.length) && decide (fieldLE b 60 4 = crc32c (b.take 60))

/-- The fields that 64 bytes spell. -/
def envOf (b : Bytes) : Env :=
  { raw := (byteAt b 2).getLsbD 0, overlay := (byteAt b 2).getLsbD 1, migrated := (byteAt b 2).getLsbD 2
    mask := fieldLE b 3 1, domain := fieldLE b 4 2, version := fieldLE b 6 2, serial := fieldLE b 8 8
    payloadLen := fieldLE b 16 4, grains := fieldLE b 20 1, fp := bslice b 24 32 }

/-- The bytes of data that an envelope's mask holds. -/
def maskBytes (mask : Nat) : Nat := 4096 * (List.range 8).countP (fun i => mask.testBit i)

/-- The blocks of a chunk by their number, from its stored bytes and its mask. -/
def blocksOf (mask : Nat) (data : Bytes) : Tab Bytes :=
  (((List.range 8).filter (fun i => mask.testBit i)).zipIdx).map (fun e => (e.1, bslice data (4096 * e.2) 4096))

/-- The trailer of some data (Table 7.5). -/
def trailer (data : Bytes) : Bytes := leN 4 (crc32c data) ++ leN 4 data.length

/-- R194, R197: the payload of an input: its stream, or the input raw; padded so that with the trailer it is at least
16 bytes. The flag says raw. -/
def choosePayload (compress : Bool) (data : Bytes) : Bytes × Bool :=
  if !compress then (data, true)
  else
    let stream := deflate data
    if 31 * data.length / 32 < stream.length then (data, true)
    else (stream ++ zeros (8 - stream.length), false)

/-- R198: the grains of a stored chunk whose encrypted region is p bytes. -/
def grainsOf (p : Nat) : Nat := cdiv (64 + p) 512

/-- The key version that new chunks of a domain take on this head (R394 step 2). -/
def domVersion (s : State) (d : Nat) : Nat :=
  ((tget s.pair.arr.domains d).map (·.version)).getD 0 + b2n (s.pair.rotF.contains d)

/-- The cipher slots of a domain key of one version (R389, Table 14.2): the even slot of its pair. -/
def keyPair (s : State) (domain version : Nat) : Option Nat :=
  (s.sec.slots.find? (fun e => decide (e.1 % 2 = 0 ∧ e.1 < 3072 ∧ e.2.domain = domain ∧ e.2.version = version ∧ e.2.purpose ≤ 1) &&
    !e.2.key.isEmpty && !(slotKey s (e.1 + 1)).isEmpty)).map (·.1)

/-- Encrypt a region under a domain key (R200). -/
def sealRegion (s : State) (slot serial : Nat) (plain : Bytes) : Bytes :=
  xtsRegion true (slotKey s slot) (slotKey s (slot + 1)) serial 0 plain

/-- Why a stored chunk does not open. -/
inductive OpenFail where
  /-- Its key is not loaded (Table 14.4). -/
  | noKey
  /-- The stream breaks off, or its length or check differs (R196); over: the output would overrun. -/
  | check (tooLong : Bool)
  deriving DecidableEq, Repr

/-- Decompress and check a decrypted region (R195, R196). -/
def openPlain (e : Env) (plain : Bytes) : Except OpenFail Bytes :=
  let payload := plain.take e.payloadLen
  let t := plain.drop e.payloadLen
  let crc := fieldLE t 0 4
  let len := fieldLE t 4 4
  let room := min len (maskBytes e.mask)
  let out := if e.raw then (if payload.length ≤ room then some payload else none) else inflate room payload
  match out with
  | none => .error (.check (e.raw || (inflate (2 * maskBytes e.mask + 65536) payload).isSome))
  | some d => if d.length = len ∧ crc32c d = crc then .ok d else .error (.check false)

/-- Decrypt, decompress and check a stored chunk (steps 5 and 6 of Table 11.1). -/
def openChunk (s : State) (envelope region : Bytes) : Except OpenFail Bytes :=
  let e := envOf envelope
  match keyPair s e.domain e.version with
  | none => .error .noKey
  | some k => openPlain e (xtsRegion false (slotKey s k) (slotKey s (k + 1)) e.serial 0 region)

end Sys2Proof.Machine
end

