-- ==== Sys2Proof/Machine/Wear.lean ====
section
/-!
DEFINITION. Machine/Wear.lean: retirement of blocks, dies and sleds, erasing, read disturb, free capacity and the choice
of victims (R261 to R276).
-/
namespace Sys2Proof.Machine

/-! ### Bands -/

/-- The primary sets of a band. -/
def bandSets (s : State) (g band : Nat) : List (Nat × BSet) :=
  s.plc.sets.filter (fun e => decide (e.2.shelf = g ∧ e.2.band = band) && !e.2.secondary)

/-! ### Retirement (R274 to R276) -/

/-- Sends a band to garbage collection ahead of score, within 24 hours. -/
def bandAhead (g band : Nat) (s : State) : State := addItem .background g (.retireBand band) (some 86400) s

/-- The band of a block's set, sent ahead of score. -/
def blockAhead (port die block : Nat) (s : State) : State :=
  match s.plc.sets.find? (fun e => decide (setPortOf e.2 = port ∧ e.2.dieGroup = die / 16 ∧
      e.2.blocks.getD (die % 16) 65536 = block)) with
  | some (_, b) => bandAhead b.shelf b.band s
  | none => s

/-- A sled leaves the open band: its set, its partner's and their secondaries close short and are read back (R265, R276). -/
def closeShort (g sl : Nat) (ob : OpenBand) (s : State) : State :=
  [sl, partnerSled sl].foldl (fun s k =>
    if !thas ob.sleds k then s
    else
      let key := openKey ob g k
      match tget s.plc.sets key with
      | none => s
      | some b =>
        let f (b : BSet) : BSet := if b.state = 1 then { b with state := 2, short := true, closedAt := s.gh.hours } else b
        startVerify (partnerKey b) (startVerify key (modSet (partnerKey b) f (modSet key f s)))) s

/-- R276: a sled is lost: its shelf takes no new data on it, and an event says so. -/
def loseSled (g sl : Nat) (s : State) : State :=
  let v := shelfOf s g
  if v.lost.contains sl then s
  else
    let s := record 5 3 3 (.sledLane (g * 32 + sl)) (leN 1 1) (setShelf g { v with lost := sl :: v.lost } s)
    match tget s.plc.open_ g with
    | none => s
    | some ob => closeShort g sl ob { s with plc := { s.plc with
        open_ := tset s.plc.open_ g { ob with sleds := terase (terase ob.sleds sl) (partnerSled sl) } } }

/-- R275: a die is retired: its position is void in new sets, bands with pages on it are reclaimed ahead of score; four
retired die groups make the sled lost. -/
def retireDie (port die : Nat) (s : State) : State :=
  if s.plc.diesRetired.contains (port, die) then s
  else
    let s := { s with plc := { s.plc with diesRetired := (port, die) :: s.plc.diesRetired } }
    let s := record 5 3 3 (.sledLane port) (leN 1 2 ++ leN 1 die) s
    let hit := s.plc.sets.filter (fun e => decide (setPortOf e.2 = port ∧ e.2.dieGroup = die / 16))
    let s := hit.foldl (fun s e => bandAhead e.2.shelf e.2.band s) s
    let groups := (List.range 8).countP (fun k => groupRetired s port k)
    if 4 ≤ groups then loseSled (port / 32) (port % 32) s else s

/-- The blocks of a die that this head may open. -/
def ownedPerDie (s : State) (port : Nat) : Nat :=
  (List.range (((sledFigs s port).map (·.blocks)).getD 0)).countP (fun b => ownsGroup s (b / 64))

/-- The retired blocks of a die. -/
def retiredOn (s : State) (port die : Nat) : Nat :=
  s.plc.blks.countP (fun e => decide (e.1 / 65536 = port * 128 + die) && e.2.retired)

/-- R274: a block is retired: recorded by a kind-2 map record, never opened or erased again, its band reclaimed ahead of
score. More than 5 % of a die's blocks retire the die (R275). -/
def retireBlock (port die block : Nat) (s : State) : State :=
  let k := blkKey port die block
  let v := blkOf s k
  if v.retired then s
  else
    let s := setBlk k { v with retired := true } s
    let s := { s with plc := { s.plc with retiredBlocks := s.plc.retiredBlocks + 1 } }
    let s := record 5 3 2 (.flashBlock (port / 32) (port % 32) die block) [] s
    let s := recordBlocks [(port, die, block, 7)] s
    let s := blockAhead port die block s
    if ownedPerDie s port < 20 * retiredOn s port die then retireDie port die s else s

/-! ### Erasing (Table 9.7 steps 7 and 8) -/

/-- Send the erase of a block of a set; a self-test that waits for it begins (R438). -/
def eraseAt (key pos : Nat) (s : State) : State :=
  match tget s.plc.sets key with
  | none => s
  | some b =>
    let port := setPortOf b
    let die := b.dieGroup * 16 + pos
    let block := b.blocks.getD pos 0
    testAtErase (.flashBlock (port / 32) (port % 32) die block)
      (sendSled port (.erase key pos) { op := 3, tag := 0, die := die, block := block } s)

/-- A set whose every block is erased, or skipped as retired, is free: its record goes. -/
def eraseEnd (key : Nat) (s : State) : State :=
  match tget s.plc.sets key with
  | none => s
  | some b =>
    if b.state ≠ 6 ∨ b.toErase ≠ [] then s
    else
      let s := recordBlocks ((setBlocks b).map (fun e => (e.2.1, e.2.2.1, e.2.2.2, 0))) s
      { s with plc := { s.plc with sets := terase s.plc.sets key } }

/-- Erase every block of a set but the retired ones and a parity block already given back; one at its endurance is
retired at this erase (R268). -/
def eraseSet (key : Nat) (s : State) : State :=
  match tget s.plc.sets key with
  | none => s
  | some b =>
    let rated := ((sledFigs s (setPortOf b)).map (·.endurance)).getD 0
    let s := (setBlocks b).foldl (fun s e =>
      let v := blkOf s (blkKey e.2.1 e.2.2.1 e.2.2.2)
      if rated ≤ v.erases ∧ 0 < rated then retireBlock e.2.1 e.2.2.1 e.2.2.2 s else s) s
    let todo := (setBlocks b).filter (fun e =>
      !(blkOf s (blkKey e.2.1 e.2.2.1 e.2.2.2)).retired && !(b.dieParityFreed && decide (e.1 = parityPos b)))
    let s := modSet key (fun b => { b with state := 6, toErase := todo.map (·.1) ++ b.toErase }) s
    eraseEnd key (todo.foldl (fun s e => eraseAt key e.1 s) s)

/-- A block is erased: its counts and credit clear, it is free, and its set may be done. -/
def erased (key pos : Nat) (s : State) : State :=
  match tget s.plc.sets key with
  | none => s
  | some b =>
    let port := setPortOf b
    let die := b.dieGroup * 16 + pos
    let k := blkKey port die (b.blocks.getD pos 0)
    let v := blkOf s k
    let s := setBlk k { v with erases := v.erases + 1, inUse := false, exp := 0, man := 0, credit := 0 } s
    let s := { s with plc := { s.plc with readT := terase s.plc.readT k } }
    let s := modSet key (fun b => { b with toErase := b.toErase.filter (· ≠ pos) }) s
    if b.state = 6 then eraseEnd key s
    else recordBlocks [(port, die, b.blocks.getD pos 0, 0)] s

/-- R228: the die-parity blocks of a verified pair go to be erased. -/
def freeDieParity (key : Nat) (s : State) : State :=
  match tget s.plc.sets key with
  | none => s
  | some b =>
    let pos := parityPos b
    if b.dieParityFreed ∨ b.voidMask.testBit pos then s
    else eraseAt key pos (modSet key (fun b => { b with dieParityFreed := true, toErase := [pos] }) s)

/-! ### Read disturb (R269 to R271) -/

/-- The value of a read counter. -/
def rdValue (e m : Nat) : Nat := (16 + m) * 2 ^ e - 16

/-- The smallest counter whose value is at or above n, looking at k exponents. -/
def rdCeil (n : Nat) : Nat → Nat → Nat × Nat
  | 0, e => (e, 15)
  | k + 1, e => match (List.range 16).find? (fun m => decide (n ≤ rdValue e m)) with
    | some m => (e, m)
    | none => rdCeil n k (e + 1)

/-- A block is due for refresh: an item moves its live chunks within 10 min. -/
def checkDisturb (k : Nat) (s : State) : State :=
  let v := blkOf s k
  let t := tgetD s.plc.readT k 0
  if rdValue v.exp v.man + t < s.plc.media.disturbLimit then s
  else
    let die := k / 65536 % 128
    let port := k / 65536 / 128
    match s.plc.sets.find? (fun e => decide (setPortOf e.2 = port ∧ e.2.dieGroup = die / 16 ∧
        e.2.blocks.getD (die % 16) 65536 = k % 65536)) with
    | none => s
    | some (key, b) =>
      if b.disturbedPos.contains (die % 16) ∨ b.state < 2 ∨
          (tvals s.plc.items).any (fun i => decide (i.work = .refresh key (die % 16))) then s
      else
        let s := { s with plc := { s.plc with refDisturb := satAdd 16 s.plc.refDisturb 1 } }
        addItem .background b.shelf (.refresh key (die % 16)) (some 600) s

/-- Fold a block's transient count (R269). -/
def foldReads (k : Nat) (s : State) : State :=
  let t := tgetD s.plc.readT k 0
  let s := { s with plc := { s.plc with readT := terase s.plc.readT k } }
  if t = 0 then s
  else
    let v := blkOf s k
    let total := rdValue v.exp v.man + t
    let (e, m) := rdCeil total 64 0
    checkDisturb k (setBlk k { v with exp := e, man := m, credit := v.credit + (rdValue e m - total) } s)

/-- Count a page read of a block: the credit falls by 1, else the transient count rises by 1. A full table of 65,536
blocks gives one up, folded; which one is free (log entry 16). -/
def countRead (port die block : Nat) (s : State) : State :=
  let k := blkKey port die block
  let v := blkOf s k
  if 0 < v.credit then setBlk k { v with credit := v.credit - 1 } s
  else
    let s := if thas s.plc.readT k ∨ s.plc.readT.length < 65536 then s
      else draw (foldReads ((tkeys s.plc.readT).getD (freeNat s % 65536) 0) s)
    checkDisturb k { s with plc := { s.plc with readT := tset s.plc.readT k (tgetD s.plc.readT k 0 + 1) } }

/-- Every 10 s every transient count is folded. -/
def foldAll (s : State) : State := (tkeys s.plc.readT).foldl (fun s k => foldReads k s) s

/-! ### Free capacity (R261) -/

/-- Grains of one block of a sled. -/
def blockGrains (s : State) (port : Nat) : Nat := pagesPerBlock s port * 32

/-- The accepted sleds of a shelf whose records are accepted. -/
def accepted (s : State) (g : Nat) : List Nat :=
  if (tget s.sleds.shelfRec g).isNone then []
  else ((List.range 32).map (fun sl => g * 32 + sl)).filter (fun p => (sledFigs s p).isSome)

/-- This head's blocks of a sled that satisfy p among those its table lists. -/
def listedBlks (s : State) (port : Nat) (p : Blk → Bool) : Nat :=
  s.plc.blks.countP (fun e => decide (e.1 / 65536 / 128 = port) && ownsGroup s (e.1 % 65536 / 64) && p e.2)

/-- Free, reclaimable and capacity grains of this head on a shelf. -/
def freeGrains (s : State) (g : Nat) : Nat :=
  sumBy (fun p => blockGrains s p * ((((sledFigs s p).map (·.dies)).getD 0) * ownedPerDie s p -
    listedBlks s p (fun v => v.inUse || v.retired))) (accepted s g)
def capGrains (s : State) (g : Nat) : Nat :=
  sumBy (fun p => blockGrains s p * ((((sledFigs s p).map (·.dies)).getD 0) * ownedPerDie s p -
    listedBlks s p (·.retired))) (accepted s g)

/-- The grains of a placed chunk, and the grains of live chunks that satisfy p. -/
def placedGrains (p : Placed) : Nat := sumBy (fun e => e.2.2) p.segs
def liveGrains (s : State) (p : Placed → Bool) : Nat :=
  sumBy placedGrains ((tvals s.plc.placed).filter p)

/-- Grains of closed bands not held by live chunks, unwritten pages of short-closed ones included. -/
def reclaimGrains (s : State) (g : Nat) : Nat :=
  if (tget s.sleds.shelfRec g).isNone then 0
  else
    let sets := s.plc.sets.filter (fun e => decide (e.2.shelf = g ∧ 2 ≤ e.2.state ∧ e.2.state ≤ 4) && !e.2.secondary)
    sumBy (fun e => setPages s e.2 * 32 - liveGrains s (fun p => decide (p.set = e.1))) sets

/-- This head's reserve in grains, and a shelf's share of it. -/
def reserveGrains (s : State) : Nat := s.plc.media.gcReservePct * sumBy (capGrains s) (List.range 32) / 100
def reserveShare (s : State) (g : Nat) : Nat := s.plc.media.gcReservePct * capGrains s g / 100

/-- R261: a new chunk is refused when free and reclaimable grains together are below the reserve. -/
def spaceShort (s : State) : Bool :=
  decide (sumBy (fun g => freeGrains s g + reclaimGrains s g) (List.range 32) < reserveGrains s)

/-- The used capacity of a shelf in percent. -/
def fillPct (s : State) (g : Nat) : Nat :=
  let c := capGrains s g
  if c = 0 then 100 else (c - freeGrains s g) * 100 / c

/-! ### Victims (R262, R263, R267) -/

/-- The bands of a shelf that this head holds. -/
def bandsOn (s : State) (g : Nat) : List Nat :=
  ((s.plc.sets.filter (fun e => decide (e.2.shelf = g ∧ e.2.role = roleOf s) && !e.2.secondary)).map (·.2.band)).eraseDups

/-- Is a band eligible as a victim: closed, every row hardened, its shelf AWAKE? -/
def bandEligible (s : State) (g band : Nat) : Bool :=
  decide ((shelfOf s g).st = .awake) && (bandsOn s g).contains band &&
    (bandSets s g band).all (fun e => decide (e.2.state = 2 ∨ e.2.state = 3) && decide (e.2.role = roleOf s)) &&
    (rowsOn s g).all (fun r => decide (r.band ≠ band) || r.hardened)

/-- Live grains of a band, its written data grains with the unwritten pages of short-closed sets counted as dead, and the hours
since it closed plus 1 (R262). -/
def bandLive (s : State) (g band : Nat) : Nat :=
  let ks := (bandSets s g band).map (·.1)
  liveGrains s (fun p => ks.contains p.set)
def bandWritten (s : State) (g band : Nat) : Nat :=
  32 * (sumBy (fun r => if r.band = band then r.page.countP (fun e => decide (e.1 < 28)) else 0) (rowsOn s g) +
    sumBy (fun e => if e.2.short then setPages s e.2 - e.2.issued.countP (fun l => decide (l % 16 ≠ parityPos e.2)) else 0)
      (bandSets s g band))
def bandAge (s : State) (g band : Nat) : Nat :=
  s.gh.hours - maxBy (fun e => e.2.closedAt) (bandSets s g band) + 1

/-- Does band a score above band b: a × (1 − u) ÷ (1 + u), ties to the lower number? -/
def scoresAbove (s : State) (g a b : Nat) : Bool :=
  let num (x : Nat) := bandAge s g x * (bandWritten s g x - bandLive s g x)
  let den (x : Nat) := bandWritten s g x + bandLive s g x
  let l := num a * den b
  let r := num b * den a
  decide (r < l) || (decide (l = r) && decide (a < b))

/-- Is a band asked for ahead of score (R268, R271, R274)? -/
def askedAhead (s : State) (g band : Nat) : Bool :=
  (tvals s.plc.items).any (fun i => decide (i.shelf = g ∧ i.work = .retireBand band)) ||
    (bandSets s g band).any (fun e => e.2.disturbed)

/-- The victim of a shelf (R262). -/
def gcVictim (s : State) (g : Nat) : Option Nat :=
  let bs := (bandsOn s g).filter (bandEligible s g)
  match bs.find? (fun b => bandLive s g b = 0) with
  | some b => some b
  | none => match bs.find? (askedAhead s g) with
    | some b => some b
    | none => bs.foldl (fun best b => match best with
        | none => some b
        | some c => if scoresAbove s g b c then some b else some c) none

/-- The spread of a sled: the largest less the smallest erase count of this head's usable blocks (R267), and the band of
the youngest one in use. -/
def spread (s : State) (port : Nat) : Nat :=
  let n := ((sledFigs s port).map (·.dies)).getD 0 * ownedPerDie s port
  let listed := s.plc.blks.filter (fun e => decide (e.1 / 65536 / 128 = port) && ownsGroup s (e.1 % 65536 / 64) && !e.2.retired)
  let top := maxBy (fun e => e.2.erases) listed
  if listed.length < n then top
  else top - listed.foldl (fun m e => min m e.2.erases) top

/-- The deadline of garbage collection on a shelf (R263). -/
def gcDeadline (s : State) (g : Nat) : Option Nat :=
  if freeGrains s g < reserveShare s g then some 60
  else if freeGrains s g * 100 < s.plc.media.gcStartPct * capGrains s g then some 3600
  else none

/-- The band that holds a sled's block of lowest erase count, when its spread exceeds wear_spread (R267). -/
def wearBand (s : State) (port : Nat) : Option Nat :=
  if spread s port ≤ s.plc.media.wearSpread then none
  else
    let sets := s.plc.sets.filter (fun e => decide (setPortOf e.2 = port) && !e.2.secondary)
    let least (b : BSet) : Nat := (setBlocks b).foldl (fun m e => min m (blkOf s (blkKey e.2.1 e.2.2.1 e.2.2.2)).erases) (2 ^ 32)
    (sets.foldl (fun (best : Option (Nat × BSet)) e => match best with
      | none => some e
      | some c => if least e.2 < least c.2 then some e else some c) none).map (·.2.band)

/-- The garbage collection that an awake shelf now wants enters the schedule. -/
def planGc (g : Nat) (s : State) : State :=
  if (shelfOf s g).st ≠ .awake then s
  else
    let s := (List.range 32).foldl (fun s sl => match wearBand s (g * 32 + sl) with
      | some b => if bandEligible s g b then bandAhead g b s else s
      | none => s) s
    match gcVictim s g with
    | none => s
    | some b =>
      if bandLive s g b < bandWritten s g b ∨ askedAhead s g b then addItem .background g (.gc b) (gcDeadline s g) s else s

end Sys2Proof.Machine
end

