-- ==== Sys2Proof/Machine/Dovecote.lean ====
section
/-!
DEFINITION. Machine/Dovecote.lean: domains, the Dovecote's filter and index, insertion, and the reload of the filter (R183,
R186, R187, R190, R191, R208, R209, Tables 7.1, 7.2).
-/
namespace Sys2Proof.Machine

/-! ### Domains -/

/-- The switches of a domain in force on this head (R208, R209): de-duplication, compression, byte-verify. -/
def domSwitches (s : State) (d : Nat) : Bool × Bool × Bool :=
  match tget s.pair.domF d with
  | some f => f
  | none => ((tget s.pair.arr.domains d).map (fun r => (r.dedup, r.compress, r.verify))).getD (false, false, false)

/-- The salt of a domain, decrypted with its key as the unit with content serial 0 (R183). -/
def domSalt (s : State) (d : Nat) : Bytes :=
  match tget s.pair.arr.domains d, keyPair s d (((tget s.pair.arr.domains d).map (·.version)).getD 0) with
  | some r, some k => xtsRegion false (slotKey s k) (slotKey s (k + 1)) 0 0 r.salt
  | _, _ => []

/-- Count in a domain's counters. -/
def domCount (d : Nat) (f : DomCnt → DomCnt) (s : State) : State :=
  { s with ing := { s.ing with dom := tset s.ing.dom d (f (tgetD s.ing.dom d {})) } }

/-- The domain of a volume. -/
def volDomain (s : State) (vol : Nat) : Nat := ((tget s.pair.arr.volumes vol).map (·.domain)).getD 0

/-- A decompression job has failed: on its output space, or on a check (R196). -/
def countDecomp (tooLong : Bool) (s : State) : State :=
  { s with ing := { s.ing with
    failCheck := if tooLong then s.ing.failCheck else satAdd 16 s.ing.failCheck 1
    failOver := if tooLong then satAdd 16 s.ing.failOver 1 else s.ing.failOver } }

/-! ### Filter and index (R186, R187) -/

/-- A bucket without tags. -/
def emptyBucket : Bucket := {}

/-- The number of buckets (R186): the filter size, by default a sixteenth of installed DRAM between 4 and 1,024 GiB. -/
def filterGib (s : State) : Nat :=
  if s.ing.filterGib ≠ 0 then s.ing.filterGib
  else max 4 (min 1024 (24 * Config.dimmRanks * Config.dimmRankGib / 16))
def bucketCount (s : State) : Nat := filterGib s * 2 ^ 30 / 64

/-- The n bytes of a fingerprint from byte k on, counted from its lowest: a digest keeps its standard order, so that its last
byte is the lowest (R9, log entry 124). -/
def fpField (fp : Bytes) (k n : Nat) : Nat := fieldLE fp.reverse k n

/-- Bucket and tag of a fingerprint (R186). -/
def bucketOf (s : State) (fp : Bytes) : Nat := fpField fp 0 8 % bucketCount s
def tagFp (fp : Bytes) : Nat := if fpField fp 8 2 = 0 then 1 else fpField fp 8 2

/-- Bucket b, and its slots holding a tag. -/
def bucket (s : State) (b : Nat) : Bucket := tgetD s.ing.buckets b emptyBucket
def slotsWith (k : Bucket) (t : Nat) : List Nat := (List.range 28).filter (fun i => decide (k.tags.getD i 0 = t))

/-- The entry of a slot: in the index write buffer, else in the group. -/
def indexEntry (s : State) (b slot : Nat) : Option IdxEnt :=
  (tget (tgetD s.ing.wbuf b []) slot).orElse (fun _ => tget (tgetD s.ing.index b []) slot)

/-- The bytes of an index entry (Table 7.2). -/
def entryBytes (e : IdxEnt) : Bytes :=
  fit 32 e.fp ++ leN 8 e.serial ++ leN 8 ((e.pga.map locWord).getD 0xFFFFFFFFFFFFFFFF)

/-- The bytes of a bucket's group with a given check field (R187). -/
def groupWith (b : Nat) (g : Tab IdxEnt) (check : Nat) : Bytes :=
  leN 8 b ++ leN 4 check ++ zeros 180 ++ (List.range 28).flatMap (fun i => ((tget g i).map entryBytes).getD (zeros 48))

/-- The 1,536 bytes of a bucket's group. -/
def groupBytes (b : Nat) (g : Tab IdxEnt) : Bytes := groupWith b g (crc32c (groupWith b g 0))

/-- The index page of a bucket, and the first grain of its group there (R187). -/
def indexPlace (b : Nat) : Nat × Nat := (b / 10, 2 + 3 * (b % 10))

/-- Read a bucket's group: three grains of its index page. -/
def readGroup (b : Nat) (s : State) : State := emit (.indexRead (indexPlace b).1 (indexPlace b).2 3) s

/-! ### Insertion and reload (R190, R191) -/

/-- Where a bucket lies in DRAM: 64 bytes each, in the filter (R186, R354). -/
def bucketAt (b : Nat) : Nat := Config.filterBase + 64 * b

/-- Insert a new chunk in its bucket (R190). -/
def insertNow (fp : Bytes) (serial : Nat) (d : Nat) (s : State) : State :=
  let b := bucketOf s fp
  let k := bucket s b
  let empty := (List.range 28).find? (fun i => decide (k.tags.getD i 0 = 0))
  let slot := empty.getD (k.next % 28)
  let tags := (List.range 28).map (fun i => if i = slot then tagFp fp else k.tags.getD i 0)
  let k := if empty.isSome then { k with tags := tags }
    else { k with tags := tags, next := (k.next + 1) % 28, forgotten := satAdd 32 k.forgotten 1 }
  let s := { s with ing := { s.ing with
    buckets := tset s.ing.buckets b k
    wbuf := tset s.ing.wbuf b (tset (tgetD s.ing.wbuf b []) slot { fp := fp, serial := serial, pga := none })
    forgot := if empty.isSome then s.ing.forgot else satAdd 32 s.ing.forgot 1 } }
  let s := cnsStores 7 (bucketAt b) 64 s
  if empty.isSome then s else domCount d (fun c => { c with forgot := c.forgot + 1 }) s

/-- Insert a new chunk in the Dovecote (R190); one whose bucket is being reloaded waits for that (Table 7.3). -/
def insertIndex (fp : Bytes) (serial : Nat) (d : Nat) (s : State) : State :=
  if s.ing.loading.contains (bucketOf s fp) then
    { s with ing := { s.ing with waitIns := s.ing.waitIns ++ [(fp, serial, d)] } }
  else insertNow fp serial d s

/-- Has a chunk an entry in the Dovecote, or an insertion that waits? -/
def indexed (s : State) (serial : Nat) : Bool :=
  (tvals s.ing.index ++ tvals s.ing.wbuf).any (fun g => (tvals g).any (fun e => decide (e.serial = serial))) ||
    s.ing.waitIns.any (fun e => decide (e.2.1 = serial))

/-- The group of a bucket has been loaded: its tags are those of its entries, what the filter alone knows of it starts afresh
(log entry 39), and the insertions that waited apply. -/
def reloadBucket (b : Nat) (s : State) : State :=
  let tags := (List.range 28).map (fun i => ((indexEntry s b i).map (fun e => tagFp e.fp)).getD 0)
  let k : Bucket := {
    tags := tags, next := Config.freeValue s.draws 0 % 28, forgotten := Config.freeValue s.draws 1 % 2 ^ 32 }
  let due := s.ing.waitIns.filter (fun e => decide (bucketOf s e.1 = b))
  let s := draw { s with ing := { s.ing with
    buckets := tset s.ing.buckets b k, loading := s.ing.loading.filter (· ≠ b)
    waitIns := s.ing.waitIns.filter (fun e => decide (bucketOf s e.1 ≠ b)) } }
  due.foldl (fun s e => insertNow e.1 e.2.1 e.2.2 s) s

/-- Buckets are to be reloaded from their groups. -/
def askReloads (bs : List Nat) (s : State) : State :=
  { s with ing := { s.ing with loading := s.ing.loading ++ bs.filter (fun b => !s.ing.loading.contains b) } }

/-- The buckets that have an entry. -/
def heldBuckets (i : Ing) : List Nat := (tkeys i.index ++ (tkeys i.wbuf).filter (fun b => !thas i.index b))

/-- The filter is to be reloaded from the index pages, at restart and at rejoin (R191). -/
def reloadFilter (s : State) : State := { s with ing := { s.ing with buckets := [], loading := heldBuckets s.ing } }

/-- One step of the reload: the next bucket's group is read and loaded. -/
def loadNext (s : State) : State :=
  match s.ing.loading with
  | [] => s
  | b :: _ => reloadBucket b (readGroup b s)

/-- Fill or update the index entry of a chunk with its address (R190, R191). -/
def updateIndex (serial : Nat) (loc : Loc) (s : State) : State :=
  let upd (t : Tab (Tab IdxEnt)) : Tab (Tab IdxEnt) :=
    tmap (fun _ g => tmap (fun _ e => if e.serial = serial then { e with pga := some loc } else e) g) t
  { s with ing := { s.ing with index := upd s.ing.index, wbuf := upd s.ing.wbuf } }

/-- The unit number that marks a unit adopted from the mirror region (R111). -/
def adopted : Nat := 65536

end Sys2Proof.Machine
end

