-- ==== Sys2Proof/Machine/Fetch.lean ====
section
/-!
DEFINITION. Machine/Fetch.lean: fetching stored chunks from their sources, and moving them (R277, R317, Tables 9.7 and
9.10).
-/
namespace Sys2Proof.Machine

/-- The place of a source in the order of Table 9.10, 0 for the location a chunk resolves to. -/
def srcNum : Source → Nat
  | .primary => 0 | .journal => 1 | .partner => 2 | .dieParity => 3 | .code => 4 | .staged => 5

/-- Is the shelf of a location one this head can read from now: held AWAKE or CLOSING (R180, R313)? -/
def shelfReadable (s : State) (g : Nat) : Bool := decide ((shelfOf s g).st = .awake ∨ (shelfOf s g).st = .closing)

/-- Where the record of a chunk's journal copy lies in DRAM, and its bytes. -/
def journalAt (s : State) (serial : Nat) : Option (Nat × Nat) :=
  let holds (r : JRec) : Bool := match r.body with
    | .chunk _ _ e _ => decide ((envOf e).serial = serial)
    | _ => false
  ((s.jrn.own.find? (fun r => holds r.r && !r.lost)).map (fun r => (Config.ownBase + r.r.off, recSize r.r))).orElse (fun _ =>
    (s.jrn.mirror.find? (fun r => holds r && !s.jrn.mirrorLost.contains r.off)).map (fun r =>
      (Config.mirrorBase + r.off, recSize r)))

/-- A read of a chunk in the journal is served from its staging line, or else from DRAM (R313 step 4, R373). -/
def readStaged (serial : Nat) (s : State) : State :=
  match journalAt s serial with
  | some (pa, n) => cnsReads 8 pa n s
  | none => s

/-- The drain reads a chunk's staging line (R373). -/
def drainStaged (serial : Nat) (s : State) : State :=
  match journalAt s serial with
  | some (pa, n) => cnsDrains pa n s
  | none => s

/-- The journal copy of a chunk, in the own or the mirror region; a record with a lost line holds none. -/
def journalCopy (s : State) (serial : Nat) : Option (Bytes × Bytes) :=
  ((s.jrn.own.filter (fun r => !r.lost)).map (·.r) ++
    s.jrn.mirror.filter (fun r => !s.jrn.mirrorLost.contains r.off)).findSome? (fun r => match r.body with
    | .chunk _ _ e g => if (envOf e).serial = serial then some (e, g) else none
    | _ => none)

/-- The next linear page of a set's data in the order of R250. -/
def nextInSet (b : BSet) (lin : Nat) : Nat :=
  let d := dataPos b
  let k := lin / 16 * d.length + d.idxOf (lin % 16)
  linOf b (k + 1)

/-- Cut n grains from a place of a known set into pages. -/
def cutGrains (b : BSet) : Nat → Nat → Nat → Nat → List (Nat × Nat × Nat)
  | 0, _, _, _ => []
  | k + 1, lin, gr, n =>
    if n = 0 then []
    else if n ≤ 32 - gr then [(lin, gr, n)]
    else (lin, gr, 32 - gr) :: cutGrains b k (nextInSet b lin) 0 (n - (32 - gr))

/-- The segments of a chunk on flash: as this head placed it, or from its location in a set this head knows. -/
def segsOf (s : State) (serial : Nat) (loc : Loc) (grains : Nat) : Option (Nat × List (Nat × Nat × Nat)) :=
  match (tget s.plc.placed serial).filter (fun p =>
      decide ((placedLoc s p).kind = loc.kind) || (p.recorded && decide (locCode loc.kind = 2 ∨ locCode loc.kind = 3))) with
  | some p => some (p.set, p.segs)
  | none => match loc.kind with
    | .flash g sl d b pg gr _ => (findSet s g sl d b pg).bind (fun k =>
        (tget s.plc.sets k.1).map (fun v => (k.1, cutGrains v 4 k.2 gr grains)))
    | _ => none

/-- The read of a part of a set's page. -/
def pieceOf (i : Nat) (b : BSet) (lin gr n j : Nat) : Piece :=
  { seg := i, port := setPortOf b, die := b.dieGroup * 16 + lin % 16, block := b.blocks.getD (lin % 16) 0
    page := lin / 16, grain := gr, count := n, member := j }

/-- The reads of a location whose block set this head does not know: its first page, and for the rest of a chunk that
runs past it a page whose place is free (log entry 17). -/
def strangerPieces (s : State) (loc : Loc) (grains : Nat) : List Piece :=
  match loc.kind with
  | .flash g sl d b pg gr _ =>
    let p : Piece := { seg := 0, port := g * 32 + sl, die := d, block := b, page := pg, grain := gr, count := min grains (32 - gr) }
    let rest (i n : Nat) : Piece := { p with
      seg := i, die := Config.freeValue s.draws (3 * i) % 128, block := Config.freeValue s.draws (3 * i + 1) % 65536
      page := Config.freeValue s.draws (3 * i + 2) % 4096, grain := 0, count := n }
    let more := grains - (32 - gr)
    p :: (if more = 0 then [] else if more ≤ 32 then [rest 1 more] else [rest 1 32, rest 2 (more - 32)])
  | _ => []

/-- Is a page of a set readable: programmed, not failed, its block not disturbed, its sled not lost, its die not
retired? -/
def pageGood (s : State) (b : BSet) (lin : Nat) : Bool :=
  b.conf.contains lin && !b.bad.contains lin && !b.disturbedPos.contains (lin % 16) &&
    !(shelfOf s b.shelf).lost.contains b.sled && !s.plc.diesRetired.contains (setPortOf b, b.dieGroup * 16 + lin % 16)

/-- The reads of the shelf code for one segment: the wanted member, the erased members, and the reads; none where more
than four are erased or the row has no parity pages (R230, Table 9.10). -/
def codePieces (s : State) (key i lin gr n : Nat) : Option ((Nat × List Nat) × List Piece) :=
  match rowAt s key lin with
  | none => none
  | some (r, j) =>
    if !r.hardened ∧ !r.parityAsked then none
    else
      let parts := (codeMembers r).map (fun m => (m, if m = j then none else (tget r.page m).bind (fun e =>
        (tget s.plc.sets e.1).bind (fun b => if pageGood s b e.2 then some (pieceOf i b e.2 gr n m) else none))))
      let es := (parts.filter (fun e => e.2.isNone)).map (·.1)
      if 4 < es.length then none else some ((j, es), parts.filterMap (·.2))

/-- The reads of the die parity for one segment: the other pages of its page stripe; none once the set is verified. -/
def parityPieces (s : State) (b : BSet) (i lin gr n : Nat) : Option (List Piece) :=
  let stripe := lin / 16 * 16
  if 3 ≤ b.state ∨ !b.conf.contains (stripe + parityPos b) then none
  else
    -- a parity page of the shelf code that shares the stripe came after its die parity
    let later (p : Nat) : Bool := (rowAt s (bsKey (setPortOf b) b.setNo) (stripe + p)).any (fun e => decide (28 ≤ e.2))
    let others := (List.range 16).filter (fun p => decide (p ≠ lin % 16) && !b.voidMask.testBit p &&
      b.issued.contains (stripe + p) && !later p)
    if others.all (fun p => pageGood s b (stripe + p)) then some (others.map (fun p => pieceOf i b (stripe + p) gr n p)) else none

/-- All of a list of optional things, or none. -/
def allSome {α : Type} : List (Option α) → Option (List α)
  | [] => some []
  | none :: _ => none
  | some a :: l => (allSome l).map (a :: ·)

/-- The reads of a source for a chunk; none where the source is not available. The journal answers at once. -/
def sourceReads (s : State) (serial : Nat) (loc : Loc) (grains : Nat) (src : Source) :
    Option (List Piece × List (Nat × List Nat)) :=
  let here := segsOf s serial loc grains
  match src with
  | .journal => if (journalCopy s serial).isSome then some ([], []) else none
  | .primary => match loc.kind, here with
    | .flash .., some (k, segs) => (tget s.plc.sets k).map (fun b =>
        (segs.zipIdx.map (fun e => pieceOf e.2 b e.1.1 e.1.2.1 e.1.2.2 0), []))
    | .flash .., none => some (strangerPieces s loc grains, [])
    -- the map still names the journal, which has failed: the copy that the drain has confirmed (R19, R20)
    | _, some (k, segs) => ((tget s.plc.sets k).filter (fun b => shelfReadable s b.shelf)).map (fun b =>
        (segs.zipIdx.map (fun e => pieceOf e.2 b e.1.1 e.1.2.1 e.1.2.2 0), []))
    | _, none => none
  | .partner => here.bind (fun (k, segs) => (tget s.plc.sets k).bind (fun b => (tget s.plc.sets (partnerKey b)).bind (fun c =>
      -- only while the row of each page is not yet hardened (Table 9.10)
      if c.state < 5 ∧ segs.all (fun e => pageGood s c e.1 && ((rowAt s k e.1).map (fun r => !r.1.hardened)).getD true) then
        some (segs.zipIdx.map (fun e => pieceOf e.2 c e.1.1 e.1.2.1 e.1.2.2 0), []) else none)))
  | .dieParity => here.bind (fun (k, segs) => (tget s.plc.sets k).bind (fun b =>
      (allSome (segs.zipIdx.map (fun e => parityPieces s b e.2 e.1.1 e.1.2.1 e.1.2.2))).map (fun ps => (ps.flatten, []))))
  | .code => here.bind (fun (k, segs) =>
      (allSome (segs.zipIdx.map (fun e => codePieces s k e.2 e.1.1 e.1.2.1 e.1.2.2))).map (fun ps =>
        ((ps.map (·.2)).flatten, ps.map (·.1))))
  | .staged => (s.plc.holds.findSome? (fun h => if h.2.expiry ≤ optime s then none else
        (h.2.staged.find? (fun e => decide (e.1 = serial))).bind (fun e => tget s.plc.copies e.2))).bind (fun p =>
      (tget s.plc.sets p.set).map (fun b => (p.segs.zipIdx.map (fun e => pieceOf e.2 b e.1.1 e.1.2.1 e.1.2.2 0), [])))

/-- Update a fetch. -/
def modFetch (f : Nat) (g : Fetch → Fetch) (s : State) : State :=
  { s with plc := { s.plc with fetches := tmod s.plc.fetches f g } }

/-- Where a chunk's read starts (steps 2 and 3 of Table 11.1): the journal, a staged copy while its shelf sleeps, or its
flash location. -/
def baseSource (s : State) (serial : Nat) (loc : Loc) : Source :=
  match loc.kind with
  | .flash g .. =>
    if !shelfReadable s g && (sourceReads s serial loc 1 .staged).isSome then .staged else .primary
  | _ => .journal

/-- Is a chunk's location readable without a wake (R316)? -/
def readableNow (s : State) (serial : Nat) (loc : Loc) : Bool :=
  match loc.kind with
  | .flash g .. => shelfReadable s g || (shelfOf s g).good || (sourceReads s serial loc 1 .staged).isSome
  | _ => true

/-- The bytes of a fetch whose every piece has arrived. -/
def assemble (f : Fetch) : Bytes :=
  let n := maxBy (fun p => p.seg + 1) f.pieces
  ((List.range n).map (fun i =>
    let ps := f.pieces.filter (fun p => decide (p.seg = i))
    match f.src with
    | .dieParity => ps.foldl (fun b p => xorBytes b (p.data.getD [])) []
    | .code =>
      let (j, es) := f.want.getD i (0, [])
      let acc := ps.foldl (fun a p => rsAccumulate a p.member (p.data.getD [])) []
      (((rsSolve es acc).find? (fun e => decide (e.1 = j))).map (·.2)).getD []
    | _ => (ps.head?.bind (·.data)).getD [])).flatten

/-- The chunk's record gives location and grains. -/
def fetchTarget (s : State) (f : Fetch) : Option (Loc × Nat) := (chunkOf s f.serial).map (fun c => (c.loc, c.grains))

/-- Send the reads of a fetch's source. -/
def issueReads (n : Nat) (s : State) : State :=
  match tget s.plc.fetches n with
  | none => s
  | some f => f.pieces.zipIdx.foldl (fun s e =>
      sendSled e.1.port (.fetch n e.2) {
        op := 1, tag := 0, die := e.1.die, block := e.1.block, page := e.1.page, grain := e.1.grain,
        count := e.1.count } s) s

/-- The sources that a fetch may still try, in the order of Table 9.10. -/
def sourcesLeft (s : State) (f : Fetch) : List Source :=
  let base := match fetchTarget s f with
    | some (loc, _) => baseSource s f.serial loc
    | none => Source.journal
  let placed : List Source := if base = .journal then [Source.journal, .primary] else [base, .journal]
  (placed ++ [Source.partner, .dieParity, .code]).filter (fun x =>
    !f.tried.contains x && !s.map.failed.contains (f.serial, srcNum x))

/-- An event for a chunk that no source yields (R277): its serial and location. -/
def lostEvent (serial : Nat) (s : State) : State :=
  let w := ((chunkOf s serial).map (fun c => locWord c.loc)).getD 0
  let s := { s with plc := { s.plc with lostChunks := satAdd 16 s.plc.lostChunks 1 } }
  record 4 0xB 3 .none (leN 8 serial ++ leN 8 w) s

/-- Start a fetch on the first source left that is available; without one it ends as R317 says. k bounds the sources. -/
def tryFetch (n : Nat) : Nat → State → State
  | 0, s => s
  | k + 1, s =>
    match tget s.plc.fetches n with
    | none => s
    | some f =>
      match sourcesLeft s f, fetchTarget s f with
      | src :: _, some (loc, grains) =>
        match sourceReads s f.serial loc grains src with
        | none =>
          -- the location the chunk resolves to counts as tried even where it cannot be read at all
          let und := f.undelivered || decide (src = baseSource s f.serial loc)
          tryFetch n k (modFetch n (fun f => { f with tried := src :: f.tried, undelivered := und }) s)
        | some (ps, want) =>
          match src, journalCopy s f.serial with
          | .journal, some (e, g) =>
            -- no copy is used whose envelope fails its check (R199)
            if envOk e then readStaged f.serial (modFetch n (fun f => { f with src := src, res := some (.got e g) }) s)
            else tryFetch n k (modFetch n (fun f => { f with tried := src :: f.tried }) s)
          | _, _ => issueReads n (draw (modFetch n (fun f => { f with src := src, pieces := ps, want := want }) s))
      | _, _ =>
        lostEvent f.serial (modFetch n (fun f =>
          { f with res := some (.fails (if f.undelivered ∨ f.tried = [] then .mediaError else .integrity)) }) s)

/-- Fetch a stored chunk. -/
def startFetch (serial : Nat) (why : FetchFor) (s : State) : State :=
  let n := s.plc.fetchCount
  let f : Fetch := { serial := serial, why := why, src := .primary }
  tryFetch n 8 { s with plc := { s.plc with fetches := tset s.plc.fetches n f, fetchCount := n + 1 } }

/-- The source of a fetch failed (R317): the next is tried. -/
def failSource (n : Nat) (delivered : Bool) (s : State) : State :=
  tryFetch n 8 (modFetch n (fun f => { f with
    tried := f.src :: f.tried, undelivered := f.undelivered || !delivered, pieces := [], want := [], res := none }) s)

/-- Re-resolve through the chunk record once and read again; then the source fails (Table 9.7). -/
def reresolve (n : Nat) (delivered : Bool) (s : State) : State :=
  match tget s.plc.fetches n with
  | none => s
  | some f =>
    if f.reresolved then failSource n delivered s
    else tryFetch n 8 (modFetch n (fun f => { f with reresolved := true, pieces := [], want := [], res := none }) s)

/-- Every piece has arrived: the envelope is checked (R199), and a serial that differs re-resolves. -/
def fetchArrived (n : Nat) (s : State) : State :=
  match tget s.plc.fetches n with
  | none => s
  | some f =>
    if f.pieces = [] ∨ f.pieces.any (fun p => p.data.isNone) ∨ f.res.isSome then s
    else
      let bs := assemble f
      let env := bs.take 64
      if !envOk env then failSource n true s
      else if (envOf env).serial ≠ f.serial then reresolve n true s
      else modFetch n (fun f => { f with res := some (.got env ((bs.drop 64).take ((envOf env).payloadLen + 8))) }) s

/-- A response to piece i of a fetch (Table 10.11). -/
def fetchPiece (n i outcome : Nat) (data : Bytes) (s : State) : State :=
  match (tget s.plc.fetches n).bind (fun f => f.pieces[i]?) with
  | none => s
  | some p =>
    if outcome = 0 then
      fetchArrived n (modFetch n (fun f => { f with
        pieces := f.pieces.set i { p with data := some (fit (512 * p.count) data) } }) s)
    else if outcome = 2 then reresolve n false s
    else failSource n false s

/-! ### Moves -/

/-- Is a move a staged copy for a RECALL? -/
def MoveFor.staging : MoveFor → Bool
  | .recall _ => true
  | _ => false

/-- The move of a chunk that is under way; a staged copy is none. -/
def moveOf (s : State) (serial : Nat) : Option Nat :=
  (s.plc.moves.find? (fun e => decide (e.2.serial = serial) && !e.2.why.staging)).map (·.1)

/-- The shelf of a location. -/
def locShelf (l : Loc) : Option Nat :=
  match l.kind with
  | .flash g .. => some g
  | _ => none

/-- The overlays whose base lies on shelf g (R181). -/
def overlaysOn (s : State) (g : Nat) : List Nat :=
  (s.map.chunks.filter (fun e => e.2.overlay && ((chunkOf s e.2.base).any (fun b => decide (locShelf b.loc = some g))))).map (·.1)

/-- The location of a chunk once the drain's record, written and not applied yet, takes effect (R19). -/
def drainedLoc (s : State) (serial : Nat) (loc : Loc) : Loc :=
  match tget s.plc.placed serial with
  | some p => if p.recorded ∧ (locCode loc.kind = 2 ∨ locCode loc.kind = 3) then { placedLoc s p with overlay := loc.overlay }
    else loc
  | none => loc

/-- The mark of a chunk that a move could not read from any source. -/
def noMove : Nat := 255

/-- A move found no source for a chunk (R318): the chunk is left as it is, and others go on. The mark stands until a shelf comes
awake, or a restart or takeover clears it (log entry 145). -/
def noSource (serial : Nat) (s : State) : State :=
  { s with map := { s.map with failed := (serial, noMove) :: s.map.failed.filter (fun e => decide (e ≠ (serial, noMove))) } }

/-- Start to move a stored chunk to shelf g: it is fetched first. A chunk whose move runs is left to it, and one that no source
yields is left where it is (R318). -/
def startMove (serial g : Nat) (why : MoveFor) (s : State) : State :=
  match chunkOf s serial with
  | none => s
  | some c =>
    if !why.staging && ((moveOf s serial).isSome || s.map.failed.contains (serial, noMove)) then s
    else
      let m := s.plc.moveCount
      let v : Move := { serial := serial, old := drainedLoc s serial c.loc, shelf := g, why := why, domain := c.domain }
      startFetch serial (.move m) { s with plc := { s.plc with moves := tset s.plc.moves m v, moveCount := m + 1 } }

/-- R277: a chunk recovered from another source is moved, and the source that failed is marked for it. -/
def markRecovered (n : Nat) (envelope region : Bytes) (s : State) : State :=
  match tget s.plc.fetches n with
  | none => s
  | some f =>
    match f.tried, chunkOf s f.serial with
    | [], _ => s
    | _, none => s
    | _, some c =>
      let bad := f.tried.map (fun x => (f.serial, srcNum x))
      let s := { s with
        map := { s.map with failed := bad.filter (fun e => !s.map.failed.contains e) ++ s.map.failed }
        plc := { s.plc with recovered := satAdd 16 s.plc.recovered 1 } }
      match c.loc.kind with
      | .flash g .. =>
        if (moveOf s f.serial).isSome then s
        else
          let m := s.plc.moveCount
          let v : Move := { serial := f.serial, old := c.loc, shelf := g, why := .recover, domain := c.domain,
                            bytes := grainBytes envelope region }
          { s with plc := { s.plc with moves := tset s.plc.moves m v, moveCount := m + 1 } }
      | _ => s

/-- Must a move wait until the overlays whose base lies on its chunk's shelf are merged (R181)? A staged copy moves nothing, and
a merge is what it waits for. -/
def awaitsMerge (s : State) (v : Move) : Bool :=
  !v.why.staging && decide (v.why ≠ .merge) && (locShelf v.old).any (fun g => !(overlaysOn s g).isEmpty)

/-- Place the copy of a move whose bytes are at hand. -/
def placeCopy (m : Nat) (s : State) : State :=
  match tget s.plc.moves m with
  | none => s
  | some v =>
    if v.bytes = [] ∨ thas s.plc.copies m ∨ (shelfOf s v.shelf).st ≠ .awake ∨ awaitsMerge s v then s
    else match placeBytes v.shelf v.bytes 64 s with
      | (none, s) => s
      | (some (key, segs), s) =>
        let p : Placed := { shelf := v.shelf, set := key, segs := segs, move := some m,
                            transit := false }
        { s with plc := { s.plc with copies := tset s.plc.copies m p } }

/-- Give up a move. -/
def endMove (m : Nat) (s : State) : State :=
  { s with plc := { s.plc with moves := terase s.plc.moves m, copies := terase s.plc.copies m } }

end Sys2Proof.Machine
end

