-- ==== Sys2Proof/Machine/Media.lean ====
section
/-!
DEFINITION. Machine/Media.lean: what the sleds' answers do, moves and their records, garbage collection, refresh,
inspection, rebuild, closing of shelves and the schedule (R213 to R239, R262 to R277).
-/
namespace Sys2Proof.Machine

/-! ### Room on awake shelves (Table 8.5) -/

/-- Grains of stored chunks assigned to a shelf and not yet confirmed (Table 8.7 step 2). -/
def assigned (s : State) (g : Nat) : Nat :=
  sumBy placedGrains ((tvals s.plc.placed).filter (fun p => decide (p.shelf = g) && !p.recorded)) +
    sumBy placedGrains ((tvals s.plc.copies).filter (fun p => decide (p.shelf = g)))

/-- Has an awake shelf room for a chunk (Table 8.5)? -/
def hasRoom (s : State) (g : Nat) : Bool :=
  let v := shelfOf s g
  decide (v.st = .awake) && !v.hardenFirst && !v.readOnly && (decide (0 < v.w) || isHome s g) &&
    decide (assigned s g * 512 < 4 * 2 ^ 30) && decide (deferredBytes s g < s.plc.policy.deferGib * 2 ^ 30)

/-- Below fill_pct. -/
def belowFill (s : State) (g : Nat) : Bool := decide (fillPct s g < s.plc.policy.fillPct)

/-- The shelf of a list with the most free grains, those of this head's parity first (R213). -/
def mostFree (s : State) (gs : List Nat) : Option Nat :=
  let pick (l : List Nat) : Option Nat := l.foldl (fun best g => match best with
    | none => some g
    | some h => if freeGrains s h < freeGrains s g then some g else some h) none
  (pick (gs.filter (fun g => decide (g % 2 = roleNum s)))).orElse (fun _ => pick gs)

/-- The awake home shelf with the most room. -/
def homeWithRoom (s : State) : Option Nat := mostFree s ((List.range 32).filter (fun g => isHome s g && hasRoom s g))

/-! ### Program failures (R265) -/

/-- The bytes of a chunk that is being placed: its journal copy, or its move's. -/
def placedBytes (s : State) (serial : Nat) (p : Placed) : Option Bytes :=
  match p.move with
  | some m => (tget s.plc.moves m).map (·.bytes)
  | none => (journalCopy s serial).map (fun e => grainBytes e.1 e.2)

/-- Place a chunk or a copy again on its shelf. -/
def placeAgain (isCopy : Bool) (k : Nat) (p : Placed) (s : State) : State :=
  let drop (s : State) : State := if isCopy then { s with plc := { s.plc with copies := terase s.plc.copies k } }
    else { s with plc := { s.plc with placed := terase s.plc.placed k } }
  match placedBytes s k p with
  | none => s
  | some bs =>
    if (shelfOf s p.shelf).st ≠ .awake then drop s   -- it is placed again by the schedule
    else match placeBytes p.shelf bs 64 (drop s) with
      | (none, s) => s
      | (some (key, segs), s) =>
        let q := { p with set := key, segs := segs }
        if isCopy then { s with plc := { s.plc with copies := tset s.plc.copies k q } }
        else { s with plc := { s.plc with placed := tset s.plc.placed k q } }

/-- Open a new block-set pair on a sled of the open band, in place of one that closed short. -/
def renewSled (g sl : Nat) (s : State) : State :=
  match tget s.plc.open_ g with
  | none => s
  | some ob =>
    match tget ob.sleds sl with
    | none => s
    | some os =>
      let gone : State := { s with plc := { s.plc with open_ := tset s.plc.open_ g { ob with sleds := terase ob.sleds sl } } }
      let n := s.plc.setCount
      let n := n + (32 + tgetD ob.setNo sl 0 % 16 - n % 16) % 16
      let port := g * 32 + sl
      let group := ob.band % (max 1 (dieGroups s port))
      match newSet s g sl group ob.band n (n + 16) false with
      | none => gone
      | some b =>
        let s1 := takeBlocks b s
        match newSet s1 g (partnerSled sl) group ob.band (n + 16) n true with
        | none => gone
        | some c =>
          let m := b.voidMask ||| c.voidMask
          let s2 := takeBlocks c s1
          let sets := tset (tset s2.plc.sets (bsKey port n) { b with voidMask := m })
            (bsKey (g * 32 + partnerSled sl) (n + 16)) { c with voidMask := m }
          let ob := { ob with setNo := tset ob.setNo sl n, sleds := tset ob.sleds sl { rowIx := os.rowIx } }
          { s2 with plc := { s2.plc with sets := sets, setCount := n + 17, open_ := tset s2.plc.open_ g ob } }

/-- R265: a program failed: the set and its partner close short, the failed block's pages are void members, a new pair
opens, and every chunk with the failed page or a later page of the pair, not confirmed before, is programmed again. -/
def programFailed (key lin : Nat) (retire : Bool) (s : State) : State :=
  match tget s.plc.sets key with
  | none => s
  | some b =>
    let g := b.shelf
    let pos := lin % 16
    let s := { s with plc := { s.plc with progFail := if retire then satAdd 16 s.plc.progFail 1 else s.plc.progFail } }
    let pkey := if b.secondary then partnerKey b else key
    let skey := if b.secondary then key else partnerKey b
    let firstFail := b.bad = []
    let failedPages := if retire then b.issued.filter (fun l => decide (l % 16 = pos)) else [lin]
    -- void members of the rows (rows hold primary pages)
    let s := if b.secondary then s else failedPages.foldl (fun s l => match rowAt s key l with
      | some (r, j) => if r.hardened then s   -- a member that was rebuilt is an erased one again
          else modRow r.shelf r.number (fun r => { r with mem := r.mem.set j .void }) s
      | none => s) s
    let s := modSet key (fun b => { b with bad := failedPages.filter (fun l => !b.bad.contains l) ++ b.bad }) s
    let close (b : BSet) : BSet := if b.state = 1 then { b with state := 2, short := true, closedAt := s.gh.hours } else b
    let wasOpen := (tget s.plc.open_ g).any (fun ob => decide (openKey ob g (pkey / 2 ^ 32 % 32) = pkey))
    -- a page stripe cut short gets no parity, so a chunk that waits for it counts as involved
    let lost (p : Placed) : Bool := decide (p.set = pkey) && !placeConfirmed s p &&
      p.segs.any (fun e => decide (lin / 16 ≤ e.1 / 16) || failedPages.contains e.1)
    let again := s.plc.placed.filter (fun e => lost e.2 && !e.2.recorded)
    let stuck := s.plc.placed.filter (fun e => lost e.2 && e.2.recorded)
    let copies := s.plc.copies.filter (fun e => lost e.2)
    let s := modSet skey close (modSet pkey close s)
    let s := if wasOpen ∧ firstFail then renewSled g (pkey / 2 ^ 32 % 32) s else s
    let s := again.foldl (fun s e => placeAgain false e.1 e.2 s) s
    let s := copies.foldl (fun s e => placeAgain true e.1 e.2 s) s
    let s := stuck.foldl (fun s e => startMove e.1 g .verifyFail s) s
    let s := if retire then retireBlock (setPortOf b) (b.dieGroup * 16 + pos) (b.blocks.getD pos 0) s else s
    startVerify skey (startVerify pkey s)

/-! ### Confirmed and verified pages -/

/-- A page is confirmed: its row member is programmed, and a closed set goes on to verification. -/
def confirmPage (key lin : Nat) (s : State) : State :=
  let s := modSet key (fun b => if b.conf.contains lin then b else { b with conf := lin :: b.conf }) s
  let s := match rowAt s key lin with
    | some (r, j) => if r.mem.getD j .void = .filling then
        modRow r.shelf r.number (fun r => { r with mem := r.mem.set j .programmed }) s else s
    | none => s
  startVerify key s

/-- R228: when a pair of sets has verified every page, both are verified and their die parity is given back. -/
def checkPair (key : Nat) (s : State) : State :=
  match tget s.plc.sets key with
  | none => s
  | some b =>
    let pk := partnerKey b
    let full (b : BSet) : Bool := decide (2 ≤ b.state) && b.issued.all (fun l => b.ver.contains l || b.bad.contains l)
    match tget s.plc.sets pk with
    | some c =>
      if full b ∧ full c ∧ b.state = 2 then
        freeDieParity pk (freeDieParity key (modSet pk (fun b => { b with state := max 3 b.state })
          (modSet key (fun b => { b with state := 3 }) s)))
      else s
    | none => if full b ∧ b.state = 2 then freeDieParity key (modSet key (fun b => { b with state := 3 }) s) else s

/-- The chunks that have a grain on a page of a pair. -/
def chunksOnPage (s : State) (pkey lin : Nat) : List Nat :=
  (s.plc.placed.filter (fun e => decide (e.2.set = pkey) && e.2.segs.any (fun x => decide (x.1 = lin)))).map (·.1)

/-- The primary key of a pair. -/
def primaryOf (key : Nat) (b : BSet) : Nat := if b.secondary then partnerKey b else key

/-- Does the page's data pass: every envelope that begins on it checks (R199)? -/
def pageEnvelopes (s : State) (pkey lin : Nat) (data : Bytes) : Bool :=
  s.plc.placed.all (fun e => decide (e.2.set ≠ pkey) || (match e.2.segs with
    | (l, gr, _) :: _ => decide (l ≠ lin) || envOk ((data.drop (gr * 512)).take 64)
    | [] => true))

/-- The correction capability of a port's sled. -/
def capability (s : State) (port : Nat) : Nat := ((sledFigs s port).map (·.correction)).getD 0

/-- A page passes verification: a primary page's row member is verified and feeds its accumulator (R232). -/
def verifyPass (key lin : Nat) (data : Bytes) (s : State) : State :=
  let s := modSet key (fun b => if b.ver.contains lin then b else { b with ver := lin :: b.ver }) s
  let s := match rowAt s key lin with
    | none => s
    | some (r, j) =>
      let s := modRow r.shelf r.number (fun r => { r with mem := r.mem.set j .verified }) s
      if 28 ≤ j then checkHardened r.shelf r.number s
      else
        let s := if r.parityAsked then s else accumulate r.shelf r.number j (fit 16384 data) s
        hardenRow r.shelf r.number false s
  checkPair key s

/-- A page fails verification (R228): its chunks are copied from the other copy, it becomes a void member, and a block
with two failures within 30 days is retired (R274). -/
def verifyFail (key lin : Nat) (s : State) : State :=
  match tget s.plc.sets key with
  | none => s
  | some b =>
    let pkey := primaryOf key b
    let hit := chunksOnPage s pkey lin
    let s := modSet key (fun b => { b with bad := lin :: b.bad }) s
    let s := if b.secondary then s
      else { s with map := { s.map with failed := hit.map (fun k => (k, 0)) ++ s.map.failed } }
    -- a shelf that closes takes no new placement: its chunks go to a home shelf (R28)
    let dest := if (shelfOf s b.shelf).st = .awake then b.shelf else (homeWithRoom s).getD b.shelf
    let s := hit.foldl (fun s k => startMove k dest .verifyFail s) s
    let s := match rowAt s key lin with
      | some (r, j) =>
        let s := modRow r.shelf r.number (fun r => { r with mem := r.mem.set j .void }) s
        if 28 ≤ j then checkHardened r.shelf r.number s else hardenRow r.shelf r.number false s
      | none => s
    let port := setPortOf b
    let die := b.dieGroup * 16 + lin % 16
    let block := b.blocks.getD (lin % 16) 0
    let k := blkKey port die block
    let v := blkOf s k
    let now := optime s
    let twice := v.verifyFails.any (fun t => decide (now ≤ t + 30 * 86400))
    let s := setBlk k { v with verifyFails := [now] } s
    checkPair key (if twice then retireBlock port die block s else s)

/-- The answer to a verification read. -/
def verifyDone (key lin outcome corrected : Nat) (data : Bytes) (s : State) : State :=
  match tget s.plc.sets key with
  | none => s
  | some b =>
    let ok := decide (outcome = 0 ∧ corrected * 100 ≤ s.plc.media.verifyPct * capability s (setPortOf b)) &&
      pageEnvelopes s (primaryOf key b) lin data
    if ok then verifyPass key lin data s else verifyFail key lin s

/-! ### Inspection (R239, R272) -/

/-- Read a page for the inspection. -/
def inspectRead (key lin : Nat) (s : State) : State :=
  match tget s.plc.sets key with
  | none => s
  | some b => sendSled (setPortOf b) (.inspect key lin) {
      op := 1, tag := 0, die := b.dieGroup * 16 + lin % 16, block := b.blocks.getD (lin % 16) 0, page := lin / 16,
      grain := 0, count := 32 } s

/-- Inspect the next block set of shelf g from the given key on; with none left the inspection is complete. -/
def inspectFrom (g from_ : Nat) (s : State) : State :=
  match s.plc.sets.find? (fun e => decide (e.2.shelf = g ∧ from_ ≤ e.1) && !e.2.conf.isEmpty) with
  | some (key, b) =>
    let todo := b.conf.filter (fun l => !b.disturbedPos.contains (l % 16))
    let s := setShelf g { shelfOf s g with inspecting := some key } s
    let s := modSet key (fun b => { b with toInspect := todo }) s
    todo.foldl (fun s l => inspectRead key l s) s
  | none =>
    let s := setShelf g { shelfOf s g with inspecting := none, inspected := optime s } s
    let s := dropItems (fun i => decide (i.shelf = g) && decide (i.work = .inspect)) s
    let s := { s with plc := { s.plc with inspectWake := if s.plc.inspectWake = some g then none else s.plc.inspectWake } }
    finishJobs (fun j => decide (j.opcode = 0x0512 ∧ j.subj = g)) .success [] s

/-- Start an inspection, or go on where it stands. -/
def startInspect (g : Nat) (s : State) : State := inspectFrom g ((shelfOf s g).inspecting.getD 0) s

/-- Ask for the refresh of a block with a deadline. -/
def askRefresh (key pos deadline : Nat) (s : State) : State :=
  match tget s.plc.sets key with
  | none => s
  | some b =>
    if b.disturbedPos.contains pos ∨ (tvals s.plc.items).any (fun i => decide (i.work = .refresh key pos)) then s
    else addItem .background b.shelf (.refresh key pos) (some deadline)
      { s with plc := { s.plc with refRetention := satAdd 16 s.plc.refRetention 1 } }

/-- The answer to an inspection read (R272). -/
def inspectDone (key lin outcome corrected : Nat) (s : State) : State :=
  match tget s.plc.sets key with
  | none => s
  | some b =>
    let s := modSet key (fun b => { b with toInspect := b.toInspect.filter (· ≠ lin) }) s
    let pos := lin % 16
    let subj := Subject.flashBlock b.shelf b.sled (b.dieGroup * 16 + pos) (b.blocks.getD pos 0)
    let s :=
      if outcome = 0 then
        if s.plc.media.refreshPct * capability s (setPortOf b) < corrected * 100 then askRefresh key pos 86400 s else s
      else if outcome = 1 ∨ outcome = 2 then
        let hit := chunksOnPage s (primaryOf key b) lin
        let s := if b.secondary then s
          else { s with map := { s.map with failed := hit.map (fun k => (k, 0)) ++ s.map.failed } }
        let s := hit.foldl (fun s k => startMove k b.shelf .recover s) s
        let s := askRefresh key pos 600 s
        let s := if outcome = 2 then record 5 1 3 subj (leN 1 2) s else s
        if outcome = 2 then startTest subj none s else s
      else s
    if ((tget s.plc.sets key).map (·.toInspect)).getD [] = [] then inspectFrom b.shelf (key + 1) s else s

/-! ### Members read again: hardening and rebuild (R232, R276) -/

/-- The survivors of a row: the members whose pages a decode can read. -/
def rebuildReal (s : State) (r : Row) : List Nat :=
  (codeMembers r).filter (fun m =>
    ((tget r.page m).bind (fun e => (tget s.plc.sets e.1).map (fun b => pageGood s b e.2))).getD false)

/-- Is the read of a member of a row under way? -/
def memberAsked (s : State) (r : Row) (j : Nat) : Bool :=
  let is (w : SledPend) : Bool := decide (w.why = .member (rowKey r.shelf r.number) j)
  (List.range 32).any (fun k => (portOf s (r.shelf * 32 + k)).waitq.any is || (tvals (portOf s (r.shelf * 32 + k)).outst).any is) ||
    s.sleds.ended.any (fun e => is e.2.1)

/-- Is a member of the row rebuilt by decoding? A row without its parity takes the member from the secondary copy (R276). -/
def byDecode (r : Row) : Bool := r.hardened || r.parityAsked

/-- The rebuilt member w of a row is programmed on the new sled (R276 step 2). -/
def rebuildWrite (r : Row) (w key lin : Nat) (page : Bytes) (s : State) : State :=
  let s := modRow r.shelf r.number (fun r => { r with
    rebuild := none, mem := r.mem.set w .filling, acc := if byDecode r then [] else r.acc, added := if byDecode r then [] else r.added }) s
  programPage key lin (fit 16384 page) s

/-- No source yields the member w of a row: its page counts as failed, and its chunks are recovered where they can be (R277). -/
def rebuildLost (r : Row) (w key lin : Nat) (s : State) : State :=
  let hit := chunksOnPage s key lin
  let s := modSet key (fun b => { b with bad := lin :: b.bad }) s
  let again := byDecode r || r.added.contains w
  let s := modRow r.shelf r.number (fun r => { r with
    rebuild := none, mem := if byDecode r then r.mem else r.mem.set w .void
    acc := if again then [] else r.acc, added := if again then [] else r.added, reading := r.reading && !again }) s
  hit.foldl (fun s k => startMove k r.shelf .recover s) s

/-- The next member to rebuild on a set, in the order of its pages (R300): row, member and linear page. -/
def rebuildNext (s : State) (key : Nat) : Option (Row × Nat × Nat) :=
  (tvals s.plc.rows).foldl (fun best r => match r.rebuild.bind (fun w => (tget r.page w).map (fun e => (w, e))) with
    | none => best
    | some (w, k, lin) =>
      if k ≠ key then best
      else match best with
        | some b => if b.2.2 ≤ lin then best else some (r, w, lin)
        | none => some (r, w, lin)) none

/-- Go on with the next member to rebuild on a set (R276 step 1): with all but four members of its row at hand it is decoded and
programmed; otherwise as many survivors as that takes are read, or the secondary copy. -/
def rebuildStep (key : Nat) (s : State) : State :=
  match rebuildNext s key with
  | none => s
  | some (r, w, lin) =>
    if !byDecode r then
      match (tget s.plc.sets key).bind (fun b => tget s.plc.sets (partnerKey b)) with
      | some c => if memberAsked s r w then s else askMember (rowKey r.shelf r.number) w lin c s
      | none => rebuildLost r w key lin s
    else
      let all := codeMembers r
      let es := all.filter (fun m => decide (m = w) || !r.added.contains m)
      let use := ((rebuildReal s r).filter (· ≠ w)).take (all.length - 4)
      if es.length ≤ 4 then
        rebuildWrite r w key lin (((rsSolve es r.acc).find? (fun e => decide (e.1 = w))).map (·.2) |>.getD []) s
      else if use.length < all.length - 4 then rebuildLost r w key lin s
      else use.foldl (fun s m => if r.added.contains m || memberAsked s r m then s else readMember r.shelf r.number m s) s

/-- A member of a row arrives for a rebuild of member w whose page is linear page lin of a set. -/
def rebuildDone (r : Row) (w j outcome key lin : Nat) (data : Bytes) (s : State) : State :=
  let s :=
    if !byDecode r then
      if outcome = 0 then rebuildWrite r w key lin data s else rebuildLost r w key lin s
    else if outcome = 0 then
      if r.added.contains j ∨ j = w then s
      else modRow r.shelf r.number (fun r => { r with acc := rsAccumulate r.acc j (fit 16384 data), added := j :: r.added }) s
    else match tget r.page j with
      | some (k, l) => modSet k (fun b => { b with bad := l :: b.bad }) s
      | none => s
  rebuildStep key s

/-- A member of a row arrives. -/
def memberDone (row j outcome : Nat) (data : Bytes) (s : State) : State :=
  match tget s.plc.rows row with
  | none => s
  | some r =>
    match (r.rebuild.filter (fun w => byDecode r || decide (w = j))).bind (fun w => (tget r.page w).map (fun e => (w, e))) with
    | some (w, key, lin) => rebuildDone r w j outcome key lin data s
    | none =>
      if r.hardened then s
      else if outcome = 0 then
        hardenRow r.shelf r.number false (accumulate r.shelf r.number j (fit 16384 data) s)
      else match tget r.page j with
        | some (key, lin) => verifyFail key lin s
        | none => s

/-- R276: rebuild the members of a sled's primary sets from the survivors: new blocks on the new sled, page for page. -/
def startRebuild (g sl : Nat) (s : State) : State :=
  let mine := s.plc.sets.filter (fun e => decide (e.2.shelf = g ∧ e.2.sled = sl) && !e.2.secondary)
  mine.foldl (fun s e =>
    match newSet s g sl e.2.dieGroup e.2.band e.2.setNo e.2.partner false with
    | none => s
    | some b =>
      let s := takeBlocks b s
      let s := modSet e.1 (fun c => { c with
        blocks := b.blocks, voidMask := b.voidMask, conf := [], ver := [], asked := [], issued := [], bad := []
        disturbed := false, disturbedPos := [], toErase := [], toInspect := [], dieParityFreed := false }) s
      rebuildStep e.1 ((tvals s.plc.rows).foldl (fun s r =>
        match r.page.find? (fun p => decide (p.2.1 = e.1)) with
        | none => s
        | some (j, _) =>
          if r.mem.getD j .void = .void then s
          else modRow r.shelf r.number (fun r => { r with
            rebuild := some j, mem := if byDecode r then r.mem else r.mem.set j .filling
            acc := if byDecode r then [] else r.acc, added := if byDecode r then [] else r.added }) s) s)) s

/-- Merge the overlays whose base lies on shelf g, the merged chunks going to shelf `dest` (R181). A move of such an overlay that is
under way is given up for its merge; one on a sleeping shelf waits for that shelf's wake, within a day (log entry 125). -/
def mergeOn (g dest : Nat) (s : State) : State :=
  (overlaysOn s g).foldl (fun s o =>
    match chunkOf s o with
    | none => s
    | some c =>
      let under := (moveOf s o).bind (fun m => (tget s.plc.moves m).map (fun v => (m, v.why)))
      if under.any (fun e => decide (e.2 = .merge)) then s
      else
        let s := match under with
          | some e => endMove e.1 s
          | none => s
        if readableNow s o c.loc then startMove o dest .merge s
        else match locShelf c.loc with
          | some h => wantWake h .background 86400 s
          | none => s) s

/-- The merges that moves wait for (R181). -/
def mergesDue (s : State) : State :=
  s.plc.moves.foldl (fun s e => if awaitsMerge s e.2 then
    match locShelf e.2.old with
    | some g => mergeOn g e.2.shelf s
    | none => s
    else s) s

/-- The overlays of a chain from its newest on, at most k. -/
def overlayChain (s : State) : Nat → Nat → List Nat
  | 0, _ => []
  | k + 1, serial => match chunkOf s serial with
    | some c => if c.overlay then serial :: overlayChain s k c.base else []
    | none => []

/-- The overlays on shelf g over another overlay whose members can all be read without a wake: their chains are merged as
background work (R180). -/
def chainsOn (s : State) (g : Nat) : List Nat :=
  (s.map.chunks.filter (fun e => e.2.overlay && decide (locShelf e.2.loc = some g) && isKeeper s e.1 && (moveOf s e.1).isNone &&
    (match overlayChain s s.map.chunks.length e.1 with
      | _ :: b :: l => (b :: l).all (fun k => ((chunkOf s k).map (fun c => readableNow s k c.loc)).getD false)
      | _ => false))).map (·.1)

/-- A rebuilt set's chunks take their new places by map records once every page is programmed again. -/
def rebuildAdvance (s : State) : State :=
  (s.plc.items.filter (fun e => e.2.granted)).foldl (fun s e => match e.2.work with
    | .rebuild sl =>
      let mine := s.plc.sets.filter (fun x => decide (x.2.shelf = e.2.shelf ∧ x.2.sled = sl) && !x.2.secondary)
      let rows := rowsOn s e.2.shelf
      let busy := rows.any (fun r => r.rebuild.isSome && r.page.any (fun p => mine.any (fun x => decide (x.1 = p.2.1)))) ||
        mine.any (fun x => x.2.issued.any (fun l => !x.2.conf.contains l && !x.2.bad.contains l))
      if busy then s
      else if !(overlaysOn s e.2.shelf).isEmpty then mergeOn e.2.shelf e.2.shelf s
      else
        let s := { s with plc := { s.plc with items := terase s.plc.items e.1 } }
        let moved : List MoveEntry := s.plc.placed.filterMap (fun p => if mine.any (fun x => decide (x.1 = p.2.set)) then
          (chunkOf s p.1).bind (fun c => if c.loc = placedLoc s p.2 then none
            else some { serial := p.1, old := c.loc, new := { placedLoc s p.2 with overlay := c.loc.overlay } }) else none)
        let s := if moved.isEmpty then s else (writeLoose (.mapMoves moved) s).2
        recordBlocks (mine.flatMap (fun x => (setBlocks x.2).map (fun y => (y.2.1, y.2.2.1, y.2.2.2, 3)))) s
    | _ => s) s

/-! ### Moves: copies, records, application -/

/-- The new name of a chunk that was merged or re-encrypted: every entry and overlay that names the old serial names the
new (log entry 18). -/
def renameChunk (old new : Nat) (f : ChunkRec → ChunkRec) (s : State) : State :=
  match chunkOf s old with
  | none => s
  | some c =>
    let chunks := tmap (fun _ x => if x.overlay ∧ x.base = old then { x with base := new } else x) (terase s.map.chunks old)
    { s with map := { s.map with
        chunks := tset chunks new (f c)
        leaves := tmap (fun _ l => { l with ents := tmap (fun _ e => if e.serial = old then { e with serial := new } else e) l.ents })
          s.map.leaves } }

/-- Unmap every map entry that names a chunk (R182): the maps that share a page take copies of their own. -/
def unmapAll (serial : Nat) (s : State) : State :=
  (tkeys s.map.maps).foldl (fun s key =>
    (tgetD s.map.maps key []).foldl (fun s p =>
      (((tget s.map.leaves p.2).map (fun l => l.ents.filter (fun e => decide (e.2.serial = serial)))).getD []).foldl
        (fun s e => unmapChunk key e.1 s) s) s) s

/-- An overlay whose base is all zero has no base: a block that it does not hold reads as zeros (R182). -/
def dropBase (serial : Nat) (s : State) : State :=
  (s.map.chunks.filter (fun e => e.2.overlay && decide (e.2.base = serial))).foldl (fun s e =>
    dropRef (!isKeeper s serial) serial (putChunk e.1 { e.2 with base := 0 } s)) s

/-- Seal merged data under a new serial: a full chunk with its fingerprint, or, where v keeps a base, an overlay over it
(R180, R197, R201). A full chunk of zeros is not stored, its logical chunks become unmapped (R182). -/
def sealMerged (m : Nat) (v : Move) (s : State) : State :=
  let plain := ((List.range 8).filter (fun i => v.mask.testBit i)).flatMap (fun i => fit 4096 (tgetD v.blocks i []))
  let overlay := decide (v.base ≠ 0)
  if !overlay ∧ plain.all (· = 0) then endMove m (dropBase v.serial (unmapAll v.serial s))
  else
    let version := domVersion s v.domain
    let (payload, raw) := choosePayload (domSwitches s v.domain).2.1 plain
    let (serial, s) := nextSerial s
    match keyPair s v.domain version with
    | none => endMove m s
    | some slot =>
      let basePga := ((chunkOf s v.base).map (fun k => locWord k.loc)).getD 0
      let e := envBytes {
        raw := raw, overlay := overlay, mask := v.mask, domain := v.domain, version := version
        serial := serial, payloadLen := payload.length, grains := grainsOf (payload.length + 8)
        fp := if overlay then leN 8 basePga ++ leN 8 v.base ++ zeros 16 else sha512t256 (domSalt s v.domain ++ plain) }
      let region := sealRegion s slot serial (payload ++ trailer plain)
      { s with plc := { s.plc with moves := tset s.plc.moves m { v with bytes := grainBytes e region, newSerial := serial } } }

/-- A layer of a merge arrives: its blocks fill what newer layers do not hold. The next base is fetched if it can be read
now; with every block at hand, or with no base left, the result is a full chunk; a chain over a base that cannot be read
now becomes one overlay (R180, R181). -/
def mergeLayer (m : Nat) (env : Env) (data : Bytes) (s : State) : State :=
  match tget s.plc.moves m with
  | none => s
  | some v =>
    let add := (blocksOf env.mask data).filter (fun e => !v.mask.testBit e.1)
    let v : Move := { v with blocks := add.foldl (fun t e => tset t e.1 e.2) v.blocks, mask := v.mask ||| env.mask }
    let s := { s with plc := { s.plc with moves := tset s.plc.moves m v } }
    let base : Nat := if env.overlay then ((chunkOf s env.serial).map (·.base)).getD (fieldLE env.fp 8 8) else 0
    if v.mask = 255 ∨ base = 0 then sealMerged m { v with mask := 255, base := 0 } s
    else if ((chunkOf s base).map (fun b => readableNow s base b.loc)).getD false then startFetch base (.move m) s
    else if env.serial = v.serial then endMove m s   -- there is no chain
    else sealMerged m { v with base := base } s

/-- Re-encrypt a chunk under its domain's current version, with a new serial (R202, R394). -/
def reseal (m : Nat) (envelope region : Bytes) (s : State) : State :=
  match tget s.plc.moves m with
  | none => s
  | some v =>
    let env := envOf envelope
    let version := domVersion s env.domain
    match keyPair s env.domain env.version, keyPair s env.domain version with
    | some k, some k' =>
      let plain := xtsRegion false (slotKey s k) (slotKey s (k + 1)) env.serial 0 region
      let (serial, s) := nextSerial s
      let e := envBytes { env with serial := serial, version := version }
      { s with plc := { s.plc with moves := tset s.plc.moves m { v with
          bytes := grainBytes e (sealRegion s k' serial plain), newSerial := serial } } }
    | _, _ => endMove m s

/-- The fetches of moves that have ended. -/
def movesArrived (s : State) : State :=
  s.plc.fetches.foldl (fun s e => match e.2.why, e.2.res with
    | .move m, some (.got env region) =>
      match tget s.plc.moves m with
      | none => { s with plc := { s.plc with fetches := terase s.plc.fetches e.1 } }
      | some v =>
        let done (s : State) : State := { s with plc := { s.plc with fetches := terase s.plc.fetches e.1 } }
        match v.why with
        | .merge => match openChunk s env region with
          | .ok data => mergeLayer m (envOf env) data (done s)
          | .error .noKey => endMove m (noSource v.serial (done s))
          | .error (.check tooLong) => failSource e.1 true (countDecomp tooLong s)
        | .rotate => reseal m env region (done (markRecovered e.1 env region s))
        | _ => { done (markRecovered e.1 env region s) with plc := { (done (markRecovered e.1 env region s)).plc with
            moves := tset s.plc.moves m { v with bytes := grainBytes env region } } }
    | .move m, some (.fails _) =>
      let s := { s with plc := { s.plc with fetches := terase s.plc.fetches e.1 } }
      match tget s.plc.moves m with
      | some v => endMove m (if v.why.staging then s else noSource v.serial s)
      | none => s
    | _, _ => s) s

/-- Place the copies of moves whose bytes are at hand. -/
def placeCopies (s : State) : State := (tkeys s.plc.moves).foldl (fun s m => placeCopy m s) s

/-- The location of a move's copy: an overlay stays one, unless it was merged into a full chunk. -/
def copyLoc (s : State) (v : Move) (p : Placed) : Loc :=
  { placedLoc s p with overlay := v.old.overlay && decide (v.why ≠ .merge ∨ v.base ≠ 0) }

/-- Step 4 of Table 9.7: a kind-0 map record for each copy that is confirmed. -/
def recordMoves (s : State) : State :=
  s.plc.moves.foldl (fun s e =>
    match tget s.plc.copies e.1 with
    | none => s
    | some p =>
      if e.2.recOff.isSome ∨ e.2.why.staging ∨ !copiesConfirmed s p then s
      else
        let (off, s) := writeLoose (.mapMoves [{ serial := e.2.serial, old := e.2.old, new := copyLoc s e.2 p }]) s
        let gc := match e.2.why with
          | .gc _ => placedGrains p
          | _ => 0
        { s with plc := { s.plc with
            moves := tset s.plc.moves e.1 { e.2 with recOff := some off }, gcGrains := s.plc.gcGrains + gc } }) s

/-- The journal location of a chunk in the own region. -/
def journalLoc (s : State) (serial : Nat) : Option Loc :=
  let holds (r : JRec) : Bool := match r.body with
    | .chunk _ _ e _ => decide ((envOf e).serial = serial)
    | _ => false
  ((s.jrn.own.find? (fun r => holds r.r)).map (fun r => ({ kind := .ownJournal r.r.off } : Loc))).orElse (fun _ =>
    (s.jrn.mirror.find? holds).map (fun r => { kind := .mirrorJournal r.off }))

/-- A chunk of a unit adopted from the mirror region enters this head's Dovecote as it drains (R111, R185). -/
def adoptedInsert (serial : Nat) (s : State) : State :=
  match tget s.jrn.drain serial, journalCopy s serial with
  | some (_, unit), some (e, _) =>
    let h := envOf e
    if unit < adopted ∨ h.overlay ∨ !(domSwitches s h.domain).1 ∨ indexed s serial then s
    else insertIndex h.fp h.serial h.domain s
  | _, _ => s

/-- The drain's map record for each placed chunk whose two copies are confirmed (R259); in flash-confirmed mode it is
bound to the chunk's unit while that has not committed (R85). -/
def recordPlaced (s : State) : State :=
  s.plc.placed.foldl (fun s e =>
    if e.2.recorded ∨ !copiesConfirmed s e.2 then s
    else
      let old := ((chunkOf s e.1).map (·.loc)).orElse (fun _ => journalLoc s e.1)
      match old with
      | none => s
      | some old =>
        let old := if locCode old.kind = 1 then (journalLoc s e.1).getD old else old
        let m : MoveEntry := { serial := e.1, old := { old with overlay := old.overlay }, new := { placedLoc s e.2 with overlay := old.overlay } }
        let bound := (tget s.jrn.drain e.1).bind (fun u => (cmdOf s u.1).bind (fun c => match c.units[u.2]? with
          | some v => if v.committed then none else some (u.1, u.2, c.units.length)
          | none => none))
        let s := match bound with
          | some (asn, unit, n) => (writeRec asn unit n false (.mapMoves [m]) s).2
          | none => (writeLoose (.mapMoves [m]) s).2
        adoptedInsert e.1 { s with plc := { s.plc with placed := tset s.plc.placed e.1 { e.2 with recorded := true } } }) s

/-- A move's record is done: its copy is the chunk's place. -/
def finishMove (m : Nat) (v : Move) (s : State) : State :=
  match tget s.plc.copies m with
  | none => endMove m s
  | some p =>
    let here := (chunkOf s v.serial).map (·.loc)
    let s := if here = some (copyLoc s v p) then
        let s := updateIndex v.serial (copyLoc s v p) s
        let serial := if v.newSerial = 0 then v.serial else v.newSerial
        let s := { s with plc := { s.plc with
          placed := tset (terase s.plc.placed v.serial) serial { p with move := none, recorded := true } } }
        if v.newSerial = 0 then s
        else match v.why with
          | .merge =>
            let base := ((chunkOf s v.serial).map (·.base)).getD 0
            let s := renameChunk v.serial v.newSerial (fun c => { c with
              overlay := decide (v.base ≠ 0), base := v.base, mask := v.mask, grains := placedGrains p
              version := domVersion s c.domain }) s
            -- the merged overlay's reference on the base that it keeps, then the old one's goes
            let s := match chunkOf s v.base with
              | some b => putChunk v.base (fixExt { b with refs := b.refs + 1, isBase := true }) s
              | none => s
            if base = 0 then s else dropRef (!isKeeper s base) base s
          | _ => renameChunk v.serial v.newSerial (fun c => { c with version := domVersion s c.domain }) s
      else s
    endMove m s

/-- Apply a kind-0 map record to the map and end the moves it names. -/
def applyMoveRec (off : Nat) (es : List MoveEntry) (s : State) : State :=
  let s := es.foldl (fun s m => updateIndex m.serial m.new (moveChunk m s)) s
  let s := modOwn (fun x => decide (x.r.off = off)) (fun x => { x with applied := true }) s
  (s.plc.moves.filter (fun e => decide (e.2.recOff = some off))).foldl (fun s e => finishMove e.1 e.2 s) s

/-- The kind-0 records not applied yet that belong to no unit, oldest first, each with whether it may be applied before its
checkpoint: it moves flash data, is done, and no earlier record of its chunks waits. A drain's record waits for its
checkpoint, since until then the map names the journal (R19, stage 8). -/
def movesDue (s : State) : List (Nat × List MoveEntry × Bool) :=
  (s.jrn.own.foldl (fun (acc : List (Nat × List MoveEntry × Bool) × List Nat) r => match r.r.body with
    | .mapMoves es =>
      if r.applied ∨ r.r.units ≠ 0 then acc
      else
        let now := recDone s r && es.all (fun m => decide (locCode m.old.kind = 1 ∧ m.serial ∉ acc.2))
        (acc.1 ++ [(r.r.off, es, now)], if now then acc.2 else acc.2 ++ es.map (·.serial))
    | _ => acc) ([], [])).1

/-- Apply the map records of kind 0 that may be applied now, in journal order. -/
def applyMoves (s : State) : State :=
  (movesDue s).foldl (fun s e => if e.2.2 then applyMoveRec e.1 e.2.1 s else s) s

/-- Apply the map records of kind 0 that a checkpoint covers, in journal order (R19, R259). -/
def applyCovered (offs : List Nat) (s : State) : State :=
  (movesDue s).foldl (fun s e => if offs.contains e.1 then applyMoveRec e.1 e.2.1 s else s) s

/-! ### Garbage collection and refresh under way -/

/-- A victim band without live chunks is moved (Table 9.7 step 5); one with live chunks goes on moving them. -/
def gcAdvance (g band : Nat) (s : State) : State :=
  let sets := bandSets s g band
  if !sets.any (fun e => e.2.state = 4) ∨ (shelfOf s g).st ≠ .awake then s
  else
    let ks := sets.map (·.1)
    let live := (s.plc.placed.filter (fun e => ks.contains e.2.set)).map (·.1)
    if live ≠ [] then live.foldl (fun s k => startMove k g (.gc band) s) s
    else if !(overlaysOn s g).isEmpty then mergeOn g g s
    else
      let s := ks.foldl (fun s k => modSet k (fun b => { b with state := 5 }) s) s
      recordBlocks (sets.flatMap (fun e => (setBlocks e.2).map (fun y => (y.2.1, y.2.2.1, y.2.2.2, 5)))) s

/-- Begin to reclaim a band. -/
def startGc (g band : Nat) (s : State) : State :=
  let s := ((bandSets s g band).map (·.1)).foldl (fun s k => modSet k (fun b => { b with state := 4 }) s) s
  gcAdvance g band s

/-- Is a read of this head outstanding on a band? -/
def bandRead (s : State) (g band : Nat) : Bool :=
  (tvals s.plc.fetches).any (fun f => decide (f.res = none) && f.pieces.any (fun p => decide (p.port / 32 = g) &&
    (bandSets s g band).any (fun e => decide (setPortOf e.2 = p.port ∧ e.2.dieGroup = p.die / 16 ∧
      e.2.blocks.getD (p.die % 16) 65536 = p.block))))

/-- Is the record that a band is moved done, with both receipts (R264)? -/
def movedDone (s : State) (g band : Nat) : Bool :=
  let at_ := (bandSets s g band).flatMap (fun e => (setBlocks e.2).map (fun y => blockLoc y.2.1 y.2.2.1 y.2.2.2))
  s.jrn.own.all (fun r => recDone s r || (match r.r.body with
    | .mapBlocks bs => !bs.any (fun e => decide (e.2.1 = 5) && at_.contains e.1)
    | _ => true))

/-- 20 ms after a band is moved with no read outstanding: its blocks are erased (Table 9.7 step 7). -/
def gcEraseWaitEnd (g band : Nat) (s : State) : State :=
  let sets := bandSets s g band
  if sets.isEmpty ∨ !sets.all (fun e => decide (e.2.state = 5)) ∨ bandRead s g band ∨ !movedDone s g band then s
  else
    let ks := (bandSets s g band).map (·.1)
    let s := { s with plc := { s.plc with gcBands := satAdd 16 s.plc.gcBands 1 } }
    let s := ks.foldl (fun s k => eraseSet k s) s
    let s := { s with plc := { s.plc with rows := tfilter (fun _ r => !(decide (r.shelf = g ∧ r.band = band))) s.plc.rows } }
    let s := dropItems (fun i => decide (i.shelf = g) && decide (i.work = .gc band ∨ i.work = .retireBand band)) s
    let s := (s.plc.bandJobs.filter (fun e => decide (e.1 = g ∧ e.2.1 = band))).foldl (fun s e =>
      if s.plc.bandJobs.countP (fun x => decide (x.2.2 = e.2.2)) = 1 then finishJob e.2.2 .success [] s else s) s
    { s with plc := { s.plc with bandJobs := s.plc.bandJobs.filter (fun e => !(decide (e.1 = g ∧ e.2.1 = band))) } }

/-- Refresh under way (R271): when no live chunk has a grain on the block, it is marked disturbed and its band goes
ahead of score. -/
def refreshAdvance (s : State) : State :=
  (s.plc.items.filter (fun e => e.2.granted)).foldl (fun s e => match e.2.work with
    | .refresh key pos =>
      match tget s.plc.sets key with
      | none => { s with plc := { s.plc with items := terase s.plc.items e.1 } }
      | some b =>
        let pk := primaryOf key b
        let live := (s.plc.placed.filter (fun x => decide (x.2.set = pk) && x.2.segs.any (fun y => decide (y.1 % 16 = pos)))).map (·.1)
        if live ≠ [] then
          if (shelfOf s b.shelf).st = .awake then live.foldl (fun s k => startMove k b.shelf .refresh s) s else s
        else
          let s := modSet key (fun b => { b with disturbed := true, disturbedPos := pos :: b.disturbedPos }) s
          bandAhead b.shelf b.band { s with plc := { s.plc with items := terase s.plc.items e.1 } }
    | _ => s) s

/-! ### Closing a shelf (R219, R234) -/

/-- Begin the closing (Table 8.7 steps 1 to 5). -/
def startClose (g : Nat) (after : Bool) (s : State) : State :=
  let v := shelfOf s g
  let s := setShelf g { v with st := .closing, closeAfter := after, hardenFirst := false } s
  let s := { s with plc := { s.plc with fill := tfilter (fun _ x => decide (x ≠ g)) s.plc.fill } }
  record 4 5 0 (.shelf g) (leN 1 3) (closeBand g s)

/-- Steps 3 to 6 of Table 8.7 go on: sets are verified and rows hardened, deferred ones by reading their members. -/
def closeAdvance (g : Nat) (s : State) : State :=
  if (shelfOf s g).st ≠ .closing then s
  else
    let s := (rowsOn s g).foldl (fun s r => if r.hardened then s
      else checkHardened g r.number (hardenRow g r.number true s)) s
    ((s.plc.sets.filter (fun e => decide (e.2.shelf = g) && !e.2.secondary)).map (·.2.band)).eraseDups.foldl
      (fun s band => releaseSecondaries g band s) s

/-- The steps of a closing up to 6 have ended (SHELF_CLOSE_COMPLETE): step 7 and OFF; or, in a hardening pass, AWAKE
again (R219, R244). A shelf on which a READ or RECALL waits, or with data that is not hardened, is not released. -/
def closeComplete (g : Nat) (s : State) : State :=
  let v := shelfOf s g
  if v.st ≠ .closing ∨ unhardened s g ∨ s.jrn.compacting then s
  else if !v.closeAfter then
    let s := setShelf g { v with st := .awake } s
    endHoldJob g .success s
  else if waitingOn s g ≠ 0 then s
  else
    let s := releaseShelf g .off s
    let s := setShelf g { shelfOf s g with holdoff := true, closeAfter := false } s
    let s := finishJobs (fun j => decide (j.opcode = 0x0411 ∧ j.subj = g)) .success [] s
    record 4 5 0 (.shelf g) (leN 1 0) s

/-- May policy close an awake shelf now: not home, not held, min_awake_s over, nothing waiting and no item on it? -/
def mayClose (s : State) (g : Nat) : Bool :=
  let v := shelfOf s g
  decide (v.st = .awake) && !isHome s g && !v.held && !v.minAwake && decide (waitingOn s g = 0) &&
    (itemsOf s g).all (fun e => decide (e.2.deadline = none)) &&
    (tvals s.plc.holds).all (fun h => !h.shelves.contains g) && !(s.plc.homeJob.any (fun j => j.2.contains g))

/-- min_awake_s ends: a shelf that no volume fills closes (R220, the worked day of R239). -/
def minAwakeExpiry (g : Nat) (s : State) : State :=
  let s := setShelf g { shelfOf s g with minAwake := false } s
  if mayClose s g ∧ !(tvals s.plc.fill).contains g then startClose g true s else s

/-- Shelves that no volume fills and that nothing keeps awake any more close at once (R220, R244, the worked day of R239). -/
def closeIdle (s : State) : State :=
  (List.range 32).foldl (fun s g => if mayClose s g ∧ !(tvals s.plc.fill).contains g then startClose g true s else s) s

/-- idle_close_s without ingest: the fill shelf closes (R220). -/
def idleClose (g : Nat) (s : State) : State := if mayClose s g then startClose g true s else s

/-! ### The schedule (R215, R236, R237) -/

/-- Does every item of shelf g rank below a waiting item? -/
def allLower (s : State) (g : Nat) (i : Nat × Item) : Bool := (itemsOf s g).all (fun e => ranksBefore i e)

/-- The shelves that may make room for an item, lowest-ranked first: shelves without items, then by their top item. -/
def roomShelves (s : State) (i : Nat × Item) : List Nat :=
  let c := (List.range 32).filter (fun g => decide ((shelfOf s g).st = .awake) && !isHome s g && allLower s g i)
  let empty := c.filter (fun g => (itemsOf s g).isEmpty)
  let rest := c.filter (fun g => !(itemsOf s g).isEmpty)
  let below (a b : Nat) : Bool := match topItem (itemsOf s a), topItem (itemsOf s b) with
    | some x, some y => ranksBefore y x
    | _, _ => false
  let sorted := rest.foldl (fun l g => l.takeWhile (fun h => below h g) ++ [g] ++ l.dropWhile (fun h => below h g)) []
  empty ++ sorted

/-- Has the wake of a shelf begun? -/
def wakeBegan (s : State) (g : Nat) : Bool := holdsShelf (shelfOf s g)

/-- What the Gatehouse grants an item: its shelf's wake, or the room of its shelf's caps. -/
def grantRoom (i : Item) (s : State) : State :=
  match i.work with
  | .wake => grantWake i.shelf s
  | _ => raiseCaps i.shelf s

/-- Has an item what it needs of the share: its shelf is held, with the room of its class? -/
def hasItsRoom (i : Item) (s : State) : Bool :=
  let v := shelfOf s i.shelf
  let (w, r) := roomOf [i.cls]
  wakeBegan s i.shelf && (decide (i.work = .wake) || isHome s i.shelf || (decide (w ≤ v.w) && decide (r ≤ v.r)))

/-- The shelves, home shelves apart, whose caps may be lowered. -/
def cappedShelves (s : State) : List Nat :=
  (List.range 32).filter (fun g => decide ((shelfOf s g).st = .awake ∨ (shelfOf s g).st = .waking) && !isHome s g)

/-- Make room for an item above the lowest urgency (R236). Caps go first: room that no item holds, then the room of lower-ranked
items, the lowest first, across all shelves, never below the room of an item ranked at or above the waiting one. Then a shelf
closes all of whose items rank lower. It stops as soon as the item fits; the answer says whether anything was done. -/
def makeRoom (i : Nat × Item) (s : State) : Bool × State :=
  let fits (s : State) : Bool := hasItsRoom i.2 (grantRoom i.2 s)
  let others := (cappedShelves s).filter (fun h => decide (h ≠ i.2.shelf))
  let t := others.foldl (fun s h => lowerCaps h (roomOf (carries s h)) fits s) s
  let lower := (rankOrder (s.plc.items.filter (fun e => others.contains e.2.shelf && ranksBefore i e))).reverse
  let t := lower.foldl (fun s e =>
    let kept := (itemsOf s e.2.shelf).filter (fun x => ranksBefore x e)
    lowerCaps e.2.shelf (roomOf (kept.map (·.2.cls) ++ (if readsUnder s e.2.shelf then [.read] else []))) fits s) t
  if fits t then (true, grantRoom i.2 t)
  else match roomShelves s i with
    | h :: _ => (true, if (List.range 32).any (fun k => decide ((shelfOf t k).st = .closing) && (shelfOf t k).closeAfter) then t
        else startClose h true t)
    | [] => (false, grantRoom i.2 t)

/-- R215: charges above the share: room held for ingest and then for background goes, each no further than the share asks, then
shelves close, lowest urgency first. -/
def shedShare (s : State) : State :=
  if !overShare s then s
  else
    let fits (s : State) : Bool := !overShare s
    let awake := cappedShelves s
    let s := awake.foldl (fun s g => lowerCaps g (roomOf ((carries s g).filter (fun c => decide (c ≠ .ingest)))) fits s) s
    let s := awake.foldl (fun s g => lowerCaps g (roomOf ((carries s g).filter (fun c => decide (c = .read)))) fits s) s
    if !overShare s ∨ (List.range 32).any (fun k => decide ((shelfOf s k).st = .closing) && (shelfOf s k).closeAfter) then s
    else
      let low (a b : Nat) : Bool := match topItem (itemsOf s a), topItem (itemsOf s b) with
        | none, _ => true
        | some _, none => false
        | some x, some y => ranksBefore y x
      match (awake.filter (fun g => decide ((shelfOf s g).st = .awake))).foldl (fun (best : Option Nat) g => match best with
          | none => some g
          | some h => if low h g then some h else some g) none with
      | some g => startClose g true s
      | none => s

/-- The chunks of a domain under rotation on a shelf that this head keeps and that are still under the old version (R394
step 3). -/
def sweepOn (s : State) (g d : Nat) : List Nat :=
  if !s.pair.rotF.contains d then []
  else (s.map.chunks.filter (fun e => decide (e.2.domain = d ∧ e.2.version ≠ domVersion s d) && isKeeper s e.1 &&
    (match e.2.loc.kind with
      | .flash h .. => decide (h = g)
      | _ => false) && (moveOf s e.1).isNone)).map (·.1)

/-- The sweeps of rotations: items on awake shelves, wakes of the others, with the deadline of rotate_days. -/
def planSweep (s : State) : State :=
  s.pair.rotF.foldl (fun s d =>
    let days := (((tget s.pair.arr.domains d).bind (·.rotation)).map (·.2.2)).getD 0
    (List.range 32).foldl (fun s g =>
      if sweepOn s g d = [] then s
      else if (shelfOf s g).st = .awake then addItem .background g (.rotate d) (some (days * 86400)) s
      else if (shelfOf s g).st = .off then wantWake g .background (days * 86400) s
      else s) s) s

/-- Do the work of a granted item on its awake shelf. -/
def grantItem (n : Nat) (i : Item) (s : State) : State :=
  let s := { s with plc := { s.plc with items := tset s.plc.items n { i with granted := true } } }
  let gone (s : State) : State := { s with plc := { s.plc with items := terase s.plc.items n } }
  match i.work with
  | .wake => grantWake i.shelf s
  | .gc band => startGc i.shelf band s
  | .retireBand band => if bandEligible s i.shelf band then startGc i.shelf band s
      else { s with plc := { s.plc with items := tset s.plc.items n i } }
  | .transit serial => startMove serial i.shelf .transit (gone s)
  | .refresh _ _ => refreshAdvance s
  | .harden => (rowsOn (gone s) i.shelf).foldl (fun s r => hardenRow i.shelf r.number true s) (gone s)
  | .inspect => startInspect i.shelf s
  | .recallCopy _ => s
  | .mergeOverlay serial => startMove serial i.shelf .merge (gone s)
  | .rebuild sl =>
    -- one sled of a shelf at a time
    if s.plc.items.any (fun e => decide (e.1 ≠ n ∧ e.2.shelf = i.shelf) && e.2.granted && (match e.2.work with
      | .rebuild _ => true
      | _ => false)) then { s with plc := { s.plc with items := tset s.plc.items n i } }
    else startRebuild i.shelf sl s
  | .rotate d => (sweepOn s i.shelf d).foldl (fun s k => startMove k i.shelf .rotate s) (gone s)

/-- What the schedule now wants: garbage collection, deferred rows, transit chunks whose fill shelf is awake, inspections
due on awake shelves. -/
def planWork (s : State) : State :=
  (List.range 32).foldl (fun s g =>
    if (shelfOf s g).st ≠ .awake then s
    else
      let s := planGc g s
      let s := if (rowsOn s g).any (fun r => r.deferred && !r.reading) then addItem .background g .harden none s else s
      let due := (shelfOf s g).inspected + s.plc.policy.retentionDays * 86400
      let s := if due ≤ optime s + s.plc.policy.retentionDays * 28800 ∧ (s.plc.sets.any (fun e => decide (e.2.shelf = g))) ∧
          !isHome s g then
          addItem .background g .inspect (some (due - optime s)) s else s
      let s := (chainsOn s g).foldl (fun s k => addItem .background g (.mergeOverlay k) none s) s
      let held := s.plc.placed.filter (fun e => e.2.transit && e.2.recorded && (moveOf s e.1).isNone &&
        ((chunkOf s e.1).any (fun c => decide (tget s.plc.fill c.backVol = some g))))
      held.foldl (fun s e => addItem .background g (.transit e.1) none s) s) s

/-- R263: a sleeping shelf is woken for garbage collection only while the free grains over all awake shelves are below the
reserve: the one with the most to reclaim. -/
def planGcWake (s : State) : State :=
  let free := sumBy (freeGrains s) ((List.range 32).filter (fun g => decide ((shelfOf s g).st = .awake)))
  if reserveGrains s ≤ free then s
  else
    let off := (List.range 32).filter (fun g => decide ((shelfOf s g).st = .off) && decide (0 < reclaimGrains s g))
    match off.foldl (fun (best : Option Nat) g => match best with
        | none => some g
        | some h => if reclaimGrains s h < reclaimGrains s g then some g else some h) none with
    | some g => addItem .background g .wake (gcDeadline s g) s
    | none => s

/-- The next inspection that waits for its shelf's wake, one such wake at a time (R239). -/
def planInspect (s : State) : State :=
  let waits (g : Nat) : Bool := (tvals s.plc.items).any (fun i => decide (i.shelf = g ∧ i.work = .inspect))
  if s.plc.inspectWake.any (fun g => waits g && decide ((shelfOf s g).st ≠ .failed)) then s
  else match (List.range 32).find? (fun g => waits g && decide ((shelfOf s g).st = .off)) with
    | some g => addItem .background g .wake (some 0) { s with plc := { s.plc with inspectWake := some g } }
    | none => { s with plc := { s.plc with inspectWake := none } }

/-- Grant one item, if it can be granted; an item above the lowest urgency that does not fit makes room first. -/
def tryGrant (e : Nat × Item) (s : State) : Bool × State :=
  let i := e.2
  let s' := grantRoom i s
  let (moved, s') := if hasItsRoom i s' then (true, s')
    else if i.urgency = 0 ∨ !mayRequest s ∨ (shelfOf s i.shelf).holdoff ∨ (shelfOf s i.shelf).retryWait ∨
      (tget s.sleds.shelfRec i.shelf).isNone then (false, s') else makeRoom e s'
  match i.work with
  | .wake => (moved, s')
  | _ => (true, grantItem e.1 i s')

/-- SCHEDULE_GRANT: the highest-ranked item that waits and can be granted is granted. -/
def scheduleGrant (s : State) : State :=
  let s := planInspect (planGcWake (planSweep (planWork s)))
  let able (e : Nat × Item) : Bool := !e.2.granted && (match e.2.work with
    | .wake => decide ((shelfOf s e.2.shelf).st = .off) && wakeDue s e.2.shelf
    | _ => decide ((shelfOf s e.2.shelf).st = .awake))
  ((rankOrder (s.plc.items.filter able)).foldl (fun r e => if r.1 then r else tryGrant e r.2) (false, s)).2

/-- The batch window ends (R237): the batched shelves are woken in rank order while the share allows. -/
def batchEnd (s : State) : State :=
  let gs := s.plc.batch
  let s := { s with plc := { s.plc with batch := [], batchOpen := false } }
  let urg (g : Nat) : Nat := maxBy (fun e => e.2.urgency) (itemsOf s g)
  let before (a b : Nat) : Bool := decide (urg b < urg a ∨ (urg a = urg b ∧ waitingOn s b ≤ waitingOn s a))
  let sorted := gs.foldl (fun l g => l.takeWhile (fun h => before h g) ++ [g] ++ l.dropWhile (fun h => before h g)) []
  sorted.foldl (fun s g => grantWake g s) s

/-- A READ or RECALL wants an OFF shelf: it joins the batch window, or opens one (R237). -/
def joinBatch (g : Nat) (deadline : Nat) (s : State) : State :=
  let s := wantWake g .read deadline s
  let v := shelfOf s g
  if v.st ≠ .off then s
  else { s with plc := { s.plc with
      batch := if s.plc.batch.contains g then s.plc.batch else s.plc.batch ++ [g], batchOpen := true } }

/-! ### Placing journal chunks (R222, R223) -/

/-- Percent of the home shelves' capacity that live chunks satisfying p fill. -/
def homePct (s : State) (p : Placed → Bool) : Nat :=
  let cap := sumBy (capGrains s) s.pair.arr.home
  if cap = 0 then 100 else liveGrains s (fun q => isHome s q.shelf && p q) * 100 / cap

/-- A volume's fill shelf, chosen now if it has none or has filled it. -/
def fillShelf (vol : Nat) (s : State) : Option Nat × State :=
  match (tget s.plc.fill vol).filter (belowFill s) with
  | some g => (some g, s)
  | none =>
    let ok := (List.range 32).filter (fun g => !isHome s g && decide ((shelfOf s g).st = .awake) && !(shelfOf s g).readOnly && belowFill s g)
    match mostFree s ok with
    | some g => (some g, { s with plc := { s.plc with fill := tset s.plc.fill vol g } })
    | none =>
      let off := (List.range 32).filter (fun g => !isHome s g && decide ((shelfOf s g).st = .off ∨ (shelfOf s g).st = .waking) &&
        (tget s.sleds.shelfRec g).isSome && belowFill s g)
      match mostFree s off with
      | some g => (some g, { s with plc := { s.plc with fill := tset s.plc.fill vol g } })
      | none => (none, s)

/-- The volume and block of a journal chunk. -/
def journalPlace (s : State) (serial : Nat) : Option (Nat × Nat) :=
  (s.jrn.own.map (·.r) ++ s.jrn.mirror).findSome? (fun r => match r.body with
    | .chunk v c e _ => if (envOf e).serial = serial then some (v, 8 * c) else none
    | _ => none)

/-- Put a chunk's grains on a shelf. -/
def drainTo (serial g : Nat) (bytes : Bytes) (transit : Bool) (s : State) : State :=
  match placeBytes g bytes 64 s with
  | (none, s) => s
  | (some (key, segs), s) =>
    drainStaged serial { s with plc := { s.plc with
      placed := tset s.plc.placed serial { shelf := g, set := key, segs := segs, transit := transit } } }

/-- place(chunk) of R222 for a journal chunk that is not placed yet. -/
def placeChunk (serial : Nat) (s : State) : State :=
  if thas s.plc.placed serial ∨ !thas s.jrn.drain serial ∨ s.pair.fenced ∨ s.jrn.stopped then s
  else match journalCopy s serial, journalPlace s serial with
    | some (e, r), some (vol, block) =>
      let bytes := grainBytes e r
      let hot := decide (s.plc.policy.hotThreshold ≤ tgetD s.plc.heat (heatKey vol block) 0)
      let hotRoom := decide (homePct s (fun p => !p.transit) < s.plc.policy.homeHotPct)
      match homeWithRoom s with
      | some h =>
        if hot ∧ hotRoom then drainTo serial h bytes false s else cold vol bytes s
      | none => cold vol bytes s
    | _, _ => s
where
  /-- A cold chunk: the fill shelf; else a wake is asked for, and the chunk goes to a home shelf in transit or waits. -/
  cold (vol : Nat) (bytes : Bytes) (s : State) : State :=
    let (f, s) := fillShelf vol s
    match f with
    | some g =>
      if hasRoom s g then drainTo serial g bytes false s
      else
        let s := if (shelfOf s g).st = .awake then s
          else if 4 * ownFree s < regionSize s then wantWake g .ingest 1 s
          else addItem .ingest g .wake none s
        transitTo bytes s
    | none => transitTo bytes s
  /-- In transit on a home shelf while transit data is within its limit. -/
  transitTo (bytes : Bytes) (s : State) : State :=
    match homeWithRoom s with
    | some h => if homePct s (·.transit) < s.plc.policy.transitPct then drainTo serial h bytes true s else s
    | none => s

/-- CHUNK_PLACE: in flash-confirmed mode the page that the chunk ends in is filled up at once, since its unit waits for
it (R85). -/
def chunkPlace (serial : Nat) (s : State) : State :=
  let s := placeChunk serial s
  match tget s.plc.placed serial with
  | some p => if s.jrn.flashMode ∧ !p.recorded then padShelf p.shelf s else s
  | none => s

/-! ### Answers of the sleds (R298, Table 10.11) -/

/-- An answer to a READ (Table 10.11): an uncorrectable page has the targeted self-test of its block. -/
def readAnswer (w : SledPend) (port outcome corrected : Nat) (data : Bytes) (s : State) : State :=
  let s := if outcome ≤ 1 then countRead port w.cmd.die w.cmd.block s else s
  let s := if outcome = 1 then startTest (.flashBlock (port / 32) (port % 32) w.cmd.die w.cmd.block) none s else s
  let s := if outcome = 5 then retireDie port w.cmd.die s else s
  let s := oddOutcome port outcome s
  if 6 ≤ outcome ∧ !shelfReadable s (port / 32) then
    -- the shelf is gone: only a fetch looks elsewhere, other reads wait for the shelf's next wake
    match w.why with
    | .fetch f i => fetchPiece f i outcome data s
    | _ => s
  else if 6 ≤ outcome ∧ !w.again then
    -- ABANDONED and what is handled as it: the READ is sent once more
    let v := portOf s port
    kickAll port (setPort port { v with waitq := v.waitq ++ [{ w with again := true }] } s)
  else match w.why with
    | .fetch f i => fetchPiece f i outcome data s
    | .verify k l => verifyDone k l outcome corrected data s
    | .inspect k l => inspectDone k l outcome corrected s
    | .member r j => memberDone r j outcome data s
    | _ => s

/-- An answer to a PROGRAM. -/
def programAnswer (w : SledPend) (port outcome : Nat) (s : State) : State :=
  let s := oddOutcome port outcome s
  match w.why with
  | .program key lin =>
    if outcome = 0 then confirmPage key lin s
    else if outcome = 3 then programFailed key lin true s
    else if outcome = 5 then programFailed key lin false (retireDie port w.cmd.die s)
    else programFailed key lin false s
  | _ => s

/-- An answer to an ERASE. -/
def eraseAnswer (w : SledPend) (port outcome : Nat) (s : State) : State :=
  let s := oddOutcome port outcome s
  match w.why with
  | .erase key pos =>
    let skip (s : State) : State := eraseEnd key (modSet key (fun b => { b with toErase := b.toErase.filter (· ≠ pos) }) s)
    if outcome = 0 then erased key pos s
    else if outcome = 4 then
      skip (retireBlock port w.cmd.die w.cmd.block { s with plc := { s.plc with eraseFail := satAdd 16 s.plc.eraseFail 1 } })
    else if outcome = 5 then skip (retireDie port w.cmd.die s)
    else if holdsShelf (shelfOf s (port / 32)) then eraseAt key pos s
    else s
  | _ => s

/-- Any answer, by the command it answers. -/
def sledAnswer (w : SledPend) (port outcome corrected : Nat) (data : Bytes) (s : State) : State :=
  if w.cmd.op = 1 then readAnswer w port outcome corrected data s
  else if w.cmd.op = 2 then programAnswer w port outcome s
  else if w.cmd.op = 3 then eraseAnswer w port outcome s
  else s

/-- Act on the commands that ended without a response. -/
def endedAdvance (s : State) : State :=
  let l := s.sleds.ended
  l.foldl (fun s e => sledAnswer e.2.1 e.1 e.2.2 0 [] s) { s with sleds := { s.sleds with ended := [] } }

/-- SHF_PWR_GOOD falls on a held shelf (R219): its commands fail, journal data not confirmed there is placed again, and
it counts as a failed wake; the next wake begins with a hardening pass. -/
def goodFall (g : Nat) (s : State) : State :=
  let v := shelfOf s g
  let s := setShelf g { v with good := false } s
  -- the requests that stood at the fall of PWR_FAIL_N are kept (R30)
  if (v.st ≠ .awake ∧ v.st ≠ .closing) ∨ s.jrn.compacting then s
  else
    let s := powerGroup g false s
    let kept := s.sleds.ended.filter (fun e => decide (e.1 / 32 ≠ g ∨ e.2.1.cmd.op = 1))
    let s := { s with sleds := { s.sleds with ended := kept } }
    let late := s.plc.placed.filter (fun e => decide (e.2.shelf = g) && e.2.recorded && !placeConfirmed s e.2)
    let s := { s with plc := { s.plc with
      placed := tfilter (fun _ p => decide (p.shelf ≠ g) || p.recorded || placeConfirmed s p) s.plc.placed
      copies := tfilter (fun _ p => decide (p.shelf ≠ g) || copiesConfirmed s p) s.plc.copies
      sets := tmap (fun _ b => if b.shelf = g then setCut b else b) s.plc.sets
      rows := tmap (fun _ r => if r.shelf = g then rowCut false r else r) s.plc.rows } }
    let s := match homeWithRoom s with
      | some h => late.foldl (fun s e => startMove e.1 h .verifyFail s) s
      | none => s
    let s := failWake g s
    setShelf g { shelfOf s g with hardenFirst := true, closeAfter := decide (v.st = .closing) } s

/-- Is the erase of a position of a set still with its port? -/
def erasePending (s : State) (key pos : Nat) (b : BSet) : Bool :=
  let v := portOf s (setPortOf b)
  let is (w : SledPend) : Bool := decide (w.why = .erase key pos)
  v.waitq.any is || (tvals v.outst).any is || s.sleds.ended.any (fun e => is e.2.1)

/-- What stood over on a shelf goes on once it can be reached: closed sets are read back, verified rows harden or are deferred,
erases that had not ended run again (Table 9.8), and rebuilds resume. -/
def resumeWork (g : Nat) (s : State) : State :=
  let sets := s.plc.sets.filter (fun e => decide (e.2.shelf = g))
  let s := sets.foldl (fun s e =>
    let s := startVerify e.1 s
    e.2.toErase.foldl (fun s pos => if erasePending s e.1 pos e.2 then s else eraseAt e.1 pos s) s) s
  (rowsOn s g).foldl (fun s r =>
    let s := hardenRow g r.number false s
    match r.rebuild with
    | some j =>
      let sl := sledOf j r.number
      if (tvals s.plc.items).any (fun i => decide (i.shelf = g ∧ i.work = .rebuild sl)) then
        match tget r.page j with
        | some (key, _) => rebuildStep key s
        | none => s
      else addItem .background g (.rebuild sl) (some 86400) s
    | none => s) s

/-- Can a chunk no longer be confirmed where it was placed: its pair is closed, nothing is under way there, and one of its pages or
of their die parity is missing? -/
def stranded (s : State) (p : Placed) : Bool :=
  let settled (b : BSet) : Bool := decide (2 ≤ b.state) && b.issued.all (fun l => b.conf.contains l || b.bad.contains l)
  match tget s.plc.sets p.set with
  | none => false
  | some b => match tget s.plc.sets (partnerKey b) with
    | none => false
    | some c => settled b && settled c && !placeConfirmed s p && (!p.recorded || copiesConfirmed s p)

/-- Stranded chunks of an awake shelf are placed again, or moved where their places are recorded (R265, R276). -/
def freeStranded (s : State) : State :=
  let awake (p : Placed) : Bool := decide ((shelfOf s p.shelf).st = .awake)
  let l := s.plc.placed.filter (fun e => awake e.2 && stranded s e.2)
  let s := l.foldl (fun s e => if e.2.recorded then startMove e.1 e.2.shelf .verifyFail s else placeAgain false e.1 e.2 s) s
  (s.plc.copies.filter (fun e => awake e.2 && stranded s e.2)).foldl (fun s e => placeAgain true e.1 e.2 s) s

/-- What a shelf does when it comes awake: a hardening pass first where R219 asks for one. In Serve every home shelf is
requested (R221). -/
def awakeAdvance (s : State) : State :=
  (List.range 32).foldl (fun s g =>
    let s := if isHome s g ∧ (shelfOf s g).st = .off then grantWake g s else s
    let s := checkAwake g s
    let s := if shelfReadable s g then resumeWork g s else s
    let v := shelfOf s g
    if v.st = .awake ∧ v.hardenFirst then startClose g v.closeAfter s
    else if v.st = .awake ∧ v.inspecting.isSome ∧ (tvals s.plc.items).all (fun i => decide (i.shelf ≠ g) || decide (i.work ≠ .inspect)) then
      addItem .background g .inspect none s
    else if v.st = .awake then raiseCaps g s else s) s

/-- SHELF_SLEEP and SHELF_HARDEN jobs, and the job of HOME_SHELF_SET, go on as their shelves let them (R245 to R247). -/
def shelfJobs (s : State) : State :=
  let s := (tvals s.kiosk.jobs).foldl (fun s j =>
    if j.finished then s
    else
      let g := j.subj
      let v := shelfOf s g
      if j.opcode = 0x0411 then
        if v.st = .awake ∧ waitingOn s g = 0 then startClose g true s
        else if v.st = .closing ∧ !v.closeAfter then setShelf g { v with closeAfter := true } s
        else s
      else if j.opcode = 0x0412 ∧ v.st = .awake then
        (rowsOn s g).foldl (fun s r =>
          if r.hardened ∨ (!r.deferred ∧ j.aux = 0) then s else checkHardened g r.number (hardenRow g r.number true s)) s
      else s) s
  let s := finishJobs (fun j => decide (j.opcode = 0x0412) && decide ((shelfOf s j.subj).st = .awake) &&
    (rowsOn s j.subj).all (fun r => r.hardened || (!r.deferred && decide (j.aux = 0)))) .success [] s
  match s.plc.homeJob with
  | some (k, gs) =>
    if gs.all (fun g => decide ((shelfOf s g).st = .awake)) then
      finishJob k .success [] (changeArray (fun a => { a with home := gs })
        { s with plc := { s.plc with homeJob := none } })
    else s
  | none => s

/-- The media after any event: one round. -/
def mediaAdvance (s : State) : State :=
  let s := endedAdvance s
  let s := awakeAdvance s
  let s := movesArrived s
  let s := placeCopies (mergesDue s)
  let s := recordPlaced (recordMoves (freeStranded s))
  let s := applyMoves s
  let bands := ((s.plc.sets.filter (fun e => decide (e.2.state = 4) && !e.2.secondary)).map (fun e => (e.2.shelf, e.2.band))).eraseDups
  let s := bands.foldl (fun s b => gcAdvance b.1 b.2 s) s
  let s := rebuildAdvance (refreshAdvance s)
  let s := (List.range 32).foldl (fun s g => closeAdvance g s) s
  closeIdle (shelfJobs (shedShare s))

end Sys2Proof.Machine
end

