-- ==== Sys2Proof/Machine/Ingest.lean ====
section
/-!
DEFINITION. Machine/Ingest.lean: the ingest pipeline: merging, fingerprints, the Dovecote, byte-verify, compression,
encryption, journal records, and the commit of a unit (R56, R68, R178 to R205).
-/
namespace Sys2Proof.Machine

/-! ### Chunks of a command -/

/-- The chunk of a command in ingest. -/
def workOf (c : Cmd) (chunk : Nat) : Option ChunkWork := c.chunks.find? (fun w => decide (w.chunk = chunk))

/-- Update a chunk in ingest. -/
def modWork (asn chunk : Nat) (f : ChunkWork → ChunkWork) (s : State) : State :=
  modCmd asn (fun c => { c with chunks := modWhere (fun w => decide (w.chunk = chunk)) f c.chunks }) s

/-- Run f on a chunk of a running command that stands at a stage. -/
def atStage (asn chunk : Nat) (st : ChunkStage) (f : Cmd → ChunkWork → State → State) (s : State) : State :=
  match cmdOf s asn with
  | none => s
  | some c =>
    if c.stage ≠ .running then s
    else match workOf c chunk with
      | some w => if w.stage = st then f c w s else s
      | none => s

/-- The ranges of two commands share a logical block (R67). -/
def shares (a b : Cmd) : Bool :=
  decide (a.volume = b.volume ∧ a.first < b.first + b.blocks ∧ b.first < a.first + a.blocks)

/-- The ranges of two commands share a 32 KiB chunk (R69). -/
def sharesChunk (a b : Cmd) : Bool :=
  decide (a.volume = b.volume ∧ a.first / 8 ≤ (b.first + b.blocks - 1) / 8 ∧ b.first / 8 ≤ (a.first + a.blocks - 1) / 8 ∧
    0 < a.blocks ∧ 0 < b.blocks)

/-- Is an earlier writer that shares a chunk still without outcome? -/
def earlierWriter (s : State) (asn : Nat) (c : Cmd) : Bool :=
  s.jrn.cmds.any (fun e => decide (e.1 < asn) && isWriter e.2 && sharesChunk e.2 c)

/-- What an accepted write whose map change waits for a reader makes of a logical chunk (R68): its chunk, unmapped, or
nothing. -/
def recEnt (vol chunk : Nat) (b : JBody) : Option (Option Nat) :=
  match b with
  | .chunk v c e _ => if v = vol ∧ c = chunk then some (some (envOf e).serial) else none
  | .reference v c serial _ => if v = vol ∧ c = chunk then some (some serial) else none
  | .release v first blocks => if v = vol ∧ first ≤ 8 * chunk ∧ 8 * chunk + 8 ≤ first + blocks then some none else none
  | _ => none

/-- The last such write for a logical chunk. -/
def deferredEnt (s : State) (vol chunk : Nat) : Option (Option Nat) :=
  (s.jrn.units.filter (fun u => decide (u.volume = vol) && !u.applied && !u.mirror)).foldl (fun acc u =>
    (unitRecs s u.asn u.unit).foldl (fun acc r => (recEnt vol chunk r.r.body).orElse (fun _ => acc)) acc) none

/-- The current content of a logical chunk as a merge finds it (R179): of the last accepted write, else of the map. -/
def currentEnt (vol chunk : Nat) (s : State) : Option (Nat × Loc) × State :=
  match deferredEnt s vol chunk with
  | some none => (none, s)
  | some (some serial) => ((chunkOf s serial).map (fun c => (serial, c.loc)), s)
  | none => resolveEnt (mapKey vol 0) chunk s

/-! ### The end of a writer that is not accepted (Table 7.3, R484) -/

/-- Discard what ingest holds for a command: pins, in-flight entries, admission. -/
def discardWork (asn : Nat) (s : State) : State :=
  match cmdOf s asn with
  | none => s
  | some c =>
    let s := c.chunks.foldl (fun s w => match w.pinned with
      | some k => unpinChunk k s
      | none => s) s
    let held := c.chunks.countP (fun w => decide (w.stage ≠ .written ∧ w.stage ≠ .turn))
    let serials := (c.chunks.map (·.serial)).filter (· ≠ 0)
    { s with
      jrn := { s.jrn with
        inflight := s.jrn.inflight.filter (fun e => decide (e.2.2.1 ≠ asn))
        admitted := s.jrn.admitted - 32 * held
        drain := tfilter (fun _ d => decide (d.1 ≠ asn)) s.jrn.drain }
      plc := { s.plc with
        fetches := tfilter (fun _ f => match f.why with
          | .merge a _ | .verify a _ => decide (a ≠ asn)
          | _ => true) s.plc.fetches
        placed := tfilter (fun k _ => !serials.contains k) s.plc.placed } }

/-- A writer ends with a status other than SUCCESS. -/
def endWriter (asn : Nat) (st : Status) (result : Nat) (s : State) : State :=
  if (cmdOf s asn).any (fun c => decide (c.stage = .decided) || c.units.any (·.committed)) then s
  else decide_ asn st result (discardWork asn s)

/-- A command of any kind ends with a status other than SUCCESS. -/
def endCmd (asn : Nat) (st : Status) (result : Nat) (s : State) : State :=
  match cmdOf s asn with
  | some c => if isWriter c then endWriter asn st result s else decide_ asn st result s
  | none => s

/-! ### Classification -/

/-- A chunk is classified as new or overlay: the space check of R261 at the first of its WRITE; then it goes on to
compression. -/
def toCompress (asn chunk : Nat) (cls : ChunkCls) (s : State) : State :=
  match cmdOf s asn with
  | none => s
  | some c =>
    let short := spaceShort s && decide (c.opcode = 1)
    if !c.spaceChecked ∧ short ∧ !c.units.any (·.unitWritten) then endWriter asn .noSpace 0 s
    else
      let s := modCmd asn (fun c => { c with spaceChecked := true }) s
      -- a payload received by replication is stored unchanged (R327)
      modWork asn chunk (fun w => match w.received with
        | some (p, raw) => { w with stage := .encrypt, cls := cls, payload := p, raw := raw }
        | none => { w with stage := .compress, cls := cls }) s

/-- The number of a chunk's transaction in probes 6 and 7. -/
def workId (asn chunk : Nat) : Nat := asn * 2 ^ 48 + chunk

/-- The lookup of a chunk has its decision: probe 6 ends there and probe 7 starts (Table 16.5). -/
def lookedUp (asn chunk : Nat) (s : State) : State :=
  let d := (((cmdOf s asn).bind (fun c => workOf c chunk)).map (·.domain)).getD 0
  monBegin 7 (workId asn chunk) (monEnd 6 (workId asn chunk) d s)

/-- A full chunk is stored as new. -/
def asNew (asn chunk : Nat) (s : State) : State := toCompress asn chunk .new (lookedUp asn chunk s)

/-- A chunk enters the in-flight table at its lookup (R184). -/
def enterFlight (asn chunk : Nat) (w : ChunkWork) (s : State) : State :=
  { s with jrn := { s.jrn with inflight := s.jrn.inflight ++ [(w.fp, w.domain, asn, w.unit, chunk)] } }

/-- Have the 16,384 entries of the in-flight table room for one more chunk, those admitted and not yet written counted (R184)? -/
def flightRoom (s : State) : Bool :=
  decide (s.jrn.inflight.countP (fun e => ((cmdOf s e.2.2.1).bind (fun c => workOf c e.2.2.2.2)).any (fun w =>
    decide (w.stage = .written))) + s.jrn.admitted / 32 < 16384)

/-- A chunk becomes a reference to a stored chunk, which it pins (R188); it is no new chunk in flight. -/
def asReference (asn chunk serial : Nat) (s : State) : State :=
  match chunkOf s serial with
  | none => asNew asn chunk s
  | some k =>
    let s := pinChunk serial s
    let s := { s with jrn := { s.jrn with inflight := s.jrn.inflight.filter (fun e => decide ((e.2.2.1, e.2.2.2.2) ≠ (asn, chunk))) } }
    let s := { s with ing := { s.ing with dup := satAdd 32 s.ing.dup 1 } }
    let s := domCount k.domain (fun d => { d with dup := d.dup + 1 }) s
    lookedUp asn chunk (modWork asn chunk (fun w => { w with cls := .reference serial k.loc, stage := .encrypt, pinned := some serial }) s)

/-- A full chunk goes to the fingerprint cores, or a partial one that found nothing to merge with is one. -/
def toFingerprint (asn chunk : Nat) (data : Bytes) (s : State) : State :=
  modWork asn chunk (fun w => { w with data := data, mask := 255, stage := .fingerprint }) s

/-- Replace the blocks that a partial write names. -/
def overlayBlocks (mask : Nat) (new old : Bytes) : Bytes :=
  ((List.range 8).map (fun i => if mask.testBit i then bslice new (4096 * i) 4096 else bslice old (4096 * i) 4096)).flatten

/-- May the merge read the chunk's current content now (R180): the journal, a shelf held awake or closing, a staged copy,
or a shelf only the peer holds that joins within the share at once? -/
def mergeReadable (s : State) (serial : Nat) (loc : Loc) : Bool :=
  match loc.kind with
  | .flash g .. =>
    shelfReadable s g || (sourceReads s serial loc 1 .staged).isSome ||
      ((shelfOf s g).good && decide ((shelfOf s g).st = .off) && decide ((shelfOf (grantWake g s) g).st ≠ .off))
  | _ => true

/-- Start the merge or verify read of a stored chunk through the read pipeline (R179, R192). Content on a shelf that this head
is still joining is read once that shelf is AWAKE. -/
def startWorkRead (asn chunk serial : Nat) (loc : Loc) (why : FetchFor) (s : State) : State :=
  let now := match loc.kind with
    | .flash g .. => shelfReadable s g || (sourceReads s serial loc 1 .staged).isSome
    | _ => true
  if now then
    let n := s.plc.fetchCount
    startFetch serial why (modWork asn chunk (fun w => { w with fetch := some n }) s)
  else match loc.kind with
    | .flash g .. => if (shelfOf s g).st = .off then grantWake g s else s
    | _ => s

/-- Reads of chunks at the merge or verify stage that have not started yet. -/
def workReads (asn chunk : Nat) (s : State) : State :=
  match (cmdOf s asn).bind (fun c => (workOf c chunk).map (fun w => (c, w))) with
  | none => s
  | some (c, w) =>
    if w.fetch.isSome then s
    else match w.stage with
      | .merge => match currentEnt c.volume chunk s with
        | (some (serial, loc), s) => startWorkRead asn chunk serial loc (.merge asn chunk) s
        | (none, s) => s
      | .verify => match chunkOf s w.serial with
        | some k => startWorkRead asn chunk w.serial k.loc (.verify asn chunk) s
        | none => s
      | _ => s

/-- The fetch of a chunk's merge or verify read, with its result once it has one. -/
def workFetch (s : State) (w : ChunkWork) : Option (Nat × FetchRes) :=
  w.fetch.bind (fun n => (tget s.plc.fetches n).bind (fun f => f.res.map (fun r => (n, r))))

/-- Forget a fetch. -/
def dropFetch (n : Nat) (s : State) : State := { s with plc := { s.plc with fetches := terase s.plc.fetches n } }

/-- The blocks of a mask in their places in a chunk, zeros between them. -/
def inPlace (mask : Nat) (data : Bytes) : Bytes :=
  ((List.range 8).map (fun i => fit 4096 (tgetD (blocksOf mask data) i []))).flatten

/-- A chunk's turn has come: it is admitted (32 KiB of the 512 MiB of R78), and a partial chunk finds what it merges with
(R179, R180). -/
def takeTurn (asn chunk : Nat) (s : State) : State :=
  atStage asn chunk .turn (fun c w s =>
    if 524288 < s.jrn.admitted + 32 ∨ !flightRoom s ∨ (w.mask ≠ 255 ∧ earlierWriter s asn c) then s
    else
      let s := { s with jrn := { s.jrn with admitted := s.jrn.admitted + 32 } }
      if w.mask = 255 then modWork asn chunk (fun w => { w with stage := .fingerprint }) s
      else
        let (r, s) := currentEnt c.volume chunk s
        match r with
        | none => toFingerprint asn chunk (overlayBlocks w.mask w.data (zeros 32768)) s
        | some (serial, loc) =>
          if mergeReadable s serial loc then
            startWorkRead asn chunk serial loc (.merge asn chunk) (modWork asn chunk (fun w => { w with stage := .merge }) s)
          else
            toCompress asn chunk .overlay (modWork asn chunk (fun w => { w with base := serial }) s)) s

/-- A request on queue 1 ends POISONED (Table 14.4): it is counted, and submitted again once the line is restored from its second
copy. -/
def countPoison (s : State) : State := { s with sec := { s.sec with poisoned := satAdd 16 s.sec.poisoned 1 } }

/-- The merge read returns (R179): the merged chunk is full, or, over an overlay, an overlay of both masks (R180). A copy that
cannot be used leaves the read to the next source (R196). -/
def mergeReadDone (asn chunk : Nat) (poisoned : Bool) (s : State) : State :=
  atStage asn chunk .merge (fun _ w s =>
    match workFetch s w with
    | none => s
    | some (_, .fails st) => endWriter asn st 0 s
    | some (n, .got env region) =>
      if poisoned then countPoison s
      else match openChunk s env region with
      | .error .noKey => endWriter asn .mediaError 0 s
      | .error (.check tooLong) => failSource n true (countDecomp tooLong s)
      | .ok old =>
        let e := envOf env
        let data := overlayBlocks w.mask w.data (inPlace e.mask old)
        let s := dropFetch n (markRecovered n env region s)
        let base := ((chunkOf s e.serial).map (·.base)).getD (fieldLE e.fp 8 8)
        if e.overlay ∧ w.mask ||| e.mask ≠ 255 then
          toCompress asn chunk .overlay (modWork asn chunk (fun w => { w with
            data := data, mask := w.mask ||| e.mask, base := base, fetch := none }) s)
        else toFingerprint asn chunk data (modWork asn chunk (fun w => { w with base := 0, fetch := none }) s)) s

/-! ### Lookup (R184, R188, R189, R192) -/

/-- Is an indexed chunk live (R188)? -/
def liveEntry (s : State) (e : IdxEnt) (d : Nat) : Bool :=
  match chunkOf s e.serial with
  | none => false
  | some c => decide (c.domain = d) && decide (0 < c.refs + c.peerRefs) && !c.overlay && (match e.pga with
    | some l => decide (l.kind = c.loc.kind)
    | none => decide (locCode c.loc.kind = 2 ∨ locCode c.loc.kind = 3))

/-- Clear a slot whose entry is stale (R188). -/
def clearSlot (b slot : Nat) (s : State) : State :=
  let k := bucket s b
  let tags := (List.range 28).map (fun i => if i = slot then 0 else k.tags.getD i 0)
  { s with ing := { s.ing with
      buckets := tset s.ing.buckets b { k with tags := tags }
      wbuf := tmod s.ing.wbuf b (fun g => terase g slot)
      index := tmod s.ing.index b (fun g => terase g slot)
      shedStale := satAdd 16 s.ing.shedStale 1 } }

/-- The lookup goes on through the slots that hold the tag (R188). -/
def lookupSlots (asn chunk b : Nat) : List Nat → State → State
  | [], s => asNew asn chunk { s with ing := { s.ing with fpos := satAdd 32 s.ing.fpos 1 } }
  | slot :: rest, s =>
    match (cmdOf s asn).bind (fun c => workOf c chunk), indexEntry s b slot with
    | some w, some e =>
      if e.fp ≠ w.fp then lookupSlots asn chunk b rest s
      else if !liveEntry s e w.domain then lookupSlots asn chunk b rest
        (domCount w.domain (fun d => { d with miss := d.miss + 1 }) (clearSlot b slot s))
      else if (domSwitches s w.domain).2.2 then
        let loc := ((chunkOf s e.serial).map (·.loc)).getD { kind := .none }
        if readableNow s e.serial loc then
          let s := pinChunk e.serial { s with ing := { s.ing with verifyReads := satAdd 24 s.ing.verifyReads 1 } }
          let s := domCount w.domain (fun d => { d with verify := d.verify + 1 }) s
          startWorkRead asn chunk e.serial loc (.verify asn chunk)
            (modWork asn chunk (fun w => { w with stage := .verify, serial := e.serial, pinned := some e.serial }) s)
        else
          -- a chunk not readable without a wake is not verified (R192)
          let s := domCount w.domain (fun d => { d with miss := d.miss + 1 }) s
          asNew asn chunk { s with ing := { s.ing with unverified := s.ing.unverified + 1 } }
      else asReference asn chunk e.serial s
    | some _, none => lookupSlots asn chunk b rest s
    | none, _ => s

/-- The in-flight and filter lookup of a fingerprinted chunk (R184, R188). -/
def lookup (asn chunk : Nat) (s : State) : State :=
  match (cmdOf s asn).bind (fun c => workOf c chunk) with
  | none => s
  | some w =>
    if !(domSwitches s w.domain).1 then asNew asn chunk s
    else
      let here (e : Bytes × Nat × Nat × Nat × Nat) : Bool := decide (e.1 = w.fp ∧ e.2.1 = w.domain)
      match s.jrn.inflight.find? (fun e => here e && decide (e.2.2.1 = asn ∧ e.2.2.2.1 = w.unit)) with
      | some e =>
        let s := { s with ing := { s.ing with dup := satAdd 32 s.ing.dup 1 } }
        let s := domCount w.domain (fun d => { d with dup := d.dup + 1 }) s
        lookedUp asn chunk (modWork asn chunk (fun w => { w with cls := .sameUnit e.2.2.2.2, stage := .encrypt }) s)
      | none =>
        let miss (s : State) : State := domCount w.domain (fun d => { d with miss := d.miss + 1 }) s
        let flying := s.jrn.inflight.any here
        let s := enterFlight asn chunk w s
        if flying then
          asNew asn chunk (miss { s with ing := { s.ing with inflightMiss := satAdd 16 s.ing.inflightMiss 1 } })
        else
          let b := bucketOf s w.fp
          let k := bucket s b
          let s := cnsReads 7 (bucketAt b) 64 s
          let slots := slotsWith k (tagFp w.fp)
          -- until its group has been loaded, a bucket's lookups are stale misses (R191)
          if s.ing.loading.contains b then
            asNew asn chunk (miss { s with ing := { s.ing with shedStale := satAdd 16 s.ing.shedStale 1 } })
          else if slots = [] then asNew asn chunk s
          else if slots.all (fun i => thas (tgetD s.ing.wbuf b []) i) then lookupSlots asn chunk b slots s
          else readGroup b (modWork asn chunk (fun w => { w with stage := .index }) s)

/-- FINGERPRINT_DONE: zero chunks are found in the same pass (R182); others are looked up. -/
def fingerprintDone (asn chunk : Nat) (s : State) : State :=
  atStage asn chunk .fingerprint (fun _ w s =>
    if w.data.all (· = 0) then
      let s := { s with ing := { s.ing with zero := satAdd 32 s.ing.zero 1 } }
      let s := domCount w.domain (fun d => { d with zero := d.zero + 1 }) s
      modWork asn chunk (fun w => { w with cls := .zero, stage := .encrypt }) s
    else
      let fp := sha512t256 (domSalt s w.domain ++ w.data)
      let s := { s with ing := { s.ing with chunks := s.ing.chunks + 1 } }
      let s := domCount w.domain (fun d => { d with fp := d.fp + 1 }) s
      lookup asn chunk (monBegin 6 (workId asn chunk) (modWork asn chunk (fun w => { w with fp := fp }) s))) s

/-- An index group read returns: the lookup decides; a group that cannot be read sheds (R188, R189). -/
def indexGroupDone (asn chunk : Nat) (ok : Bool) (s : State) : State :=
  atStage asn chunk .index (fun _ w s =>
    if ok ∧ !s.ing.loading.contains (bucketOf s w.fp) then
      let b := bucketOf s w.fp
      lookupSlots asn chunk b (slotsWith (bucket s b) (tagFp w.fp)) s
    else
      let s := if ok then s else record 4 1 2 .none (leN 8 (bucketOf s w.fp)) s
      let s := domCount w.domain (fun d => { d with miss := d.miss + 1 }) s
      asNew asn chunk { s with ing := { s.ing with shedStale := satAdd 16 s.ing.shedStale 1 } }) s

/-- The group read took more than 300 µs: shed. -/
def lookupShed (asn chunk : Nat) (s : State) : State :=
  atStage asn chunk .index (fun _ w s =>
    let s := domCount w.domain (fun d => { d with miss := d.miss + 1 }) s
    asNew asn chunk { s with ing := { s.ing with shedStale := satAdd 16 s.ing.shedStale 1 } }) s

/-- Give up the pin and the read of a verification. -/
def dropPin (asn chunk : Nat) (w : ChunkWork) (s : State) : State :=
  let s := match w.fetch with
    | some n => dropFetch n s
    | none => s
  let s := match w.pinned with
    | some k => unpinChunk k s
    | none => s
  modWork asn chunk (fun w => { w with pinned := none, serial := 0, fetch := none }) s

/-- A verify read returns (R192): equal bytes make a duplicate; unequal ones are a collision, recorded with both content
serials; a read that fails on every copy is a miss. -/
def verifyReadDone (asn chunk : Nat) (poisoned : Bool) (s : State) : State :=
  atStage asn chunk .verify (fun _ w s =>
    let miss (s : State) : State :=
      let s := domCount w.domain (fun d => { d with miss := d.miss + 1 }) s
      asNew asn chunk (dropPin asn chunk w { s with ing := { s.ing with unverified := s.ing.unverified + 1 } })
    match workFetch s w with
    | none => s
    | some (_, .fails _) => miss s
    | some (n, .got env region) =>
      if poisoned then countPoison s
      else match openChunk s env region with
      | .error .noKey => miss s
      | .error (.check tooLong) => failSource n true (countDecomp tooLong s)
      | .ok old =>
        let s := markRecovered n env region s
        if old = w.data then asReference asn chunk w.serial (endPin w s)
        else
          let (serial, s) := nextSerial s
          let s := record 4 1 3 .none (leN 8 w.serial ++ leN 8 serial) s
          let s := dropPin asn chunk w { s with ing := { s.ing with collisions := satAdd 8 s.ing.collisions 1 } }
          asNew asn chunk (modWork asn chunk (fun w => { w with serial := serial }) s)) s
where
  /-- The reference takes its own pin; the verification's goes, and so does its fetch. -/
  endPin (w : ChunkWork) (s : State) : State :=
    let s := match w.fetch with
      | some n => dropFetch n s
      | none => s
    match chunkOf s w.serial with
    | some c => putChunk w.serial { c with pins := c.pins - 1 } s
    | none => s

/-- The verify read took more than 500 µs: shed. -/
def verifyShed (asn chunk : Nat) (s : State) : State :=
  atStage asn chunk .verify (fun _ w s =>
    let s := domCount w.domain (fun d => { d with miss := d.miss + 1 }) s
    asNew asn chunk (dropPin asn chunk w { s with ing := { s.ing with shedStale := satAdd 16 s.ing.shedStale 1 } })) s

/-! ### Compression and encryption -/

/-- The held blocks of an overlay in block order; the whole data of a full chunk. -/
def storedData (w : ChunkWork) : Bytes :=
  if w.mask = 255 then w.data
  else (((List.range 8).filter (fun i => w.mask.testBit i)).map (fun i => bslice w.data (4096 * i) 4096)).flatten

/-- COMPRESSION_DONE: the stream or the raw input is chosen (R193, R194). -/
def compressionDone (asn chunk : Nat) (s : State) : State :=
  atStage asn chunk .compress (fun _ w s =>
    let data := storedData w
    let (payload, raw) := choosePayload (domSwitches s w.domain).2.1 data
    let s := if raw then { s with ing := { s.ing with raw := satAdd 32 s.ing.raw 1 } } else s
    let s := if w.cls = .overlay then { s with ing := { s.ing with overlay := satAdd 32 s.ing.overlay 1 } } else s
    let s := domCount w.domain (fun d => { d with
      raw := d.raw + b2n raw, grains := d.grains + grainsOf (payload.length + 8) }) s
    modWork asn chunk (fun w => { w with payload := payload, raw := raw, stage := .encrypt }) s) s

/-- ENCRYPTION_DONE (R200, R201): the chunk takes its content serial and its envelope, and its record may be written. An
absent key ends the WRITE (Table 14.4). -/
def encryptionDone (asn chunk : Nat) (s : State) : State :=
  atStage asn chunk .encrypt (fun _ w s =>
    if w.payload = [] ∨ w.envelope ≠ [] then s
    else match keyPair s w.domain (domVersion s w.domain) with
      | none => endWriter asn .mediaError 0 s
      | some slot =>
        -- a chunk found to collide has its serial already (R192)
        let (serial, s) := if w.serial ≠ 0 then (w.serial, s) else nextSerial s
        let overlay := decide (w.cls = .overlay)
        let basePga := ((chunkOf s w.base).map (fun k => locWord k.loc)).getD 0
        let fp := if overlay then leN 8 basePga ++ leN 8 w.base ++ zeros 16 else fit 32 w.fp
        let env : Env := {
          raw := w.raw, overlay := overlay, migrated := w.migrated, mask := w.mask, domain := w.domain, version := domVersion s w.domain
          serial := serial, payloadLen := w.payload.length, grains := grainsOf (w.payload.length + 8), fp := fp }
        let region := sealRegion s slot serial (w.payload ++ trailer (storedData w))
        let s := monAt 19 0 s
        modWork asn chunk (fun w => { w with serial := serial, envelope := envBytes env, region := region }) s) s

/-! ### Journal records of a unit (step 6 of Table 3.1) -/

/-- Is a chunk ready for its journal record? -/
def workReady (c : Cmd) (w : ChunkWork) : Bool :=
  decide (w.stage = .encrypt) && (match w.cls with
    | .zero => true
    | .reference _ _ => true
    | .sameUnit k => ((workOf c k).map (fun v => decide (v.stage = .written))).getD false
    | _ => !w.envelope.isEmpty)

/-- The journal record of a ready chunk. -/
def workBody (s : State) (c : Cmd) (w : ChunkWork) : JBody :=
  match w.cls with
  | .zero => .release c.volume (8 * w.chunk) 8
  | .reference k loc => .reference c.volume w.chunk k loc
  | .sameUnit k => match workOf c k with
    | none => .release c.volume (8 * w.chunk) 8
    | some v => match v.cls with
      | .reference serial loc => .reference c.volume w.chunk serial loc
      | .zero => .release c.volume (8 * w.chunk) 8
      | _ => .reference c.volume w.chunk v.serial ((journalLoc s v.serial).getD { kind := .none })
  | _ => .chunk c.volume w.chunk w.envelope w.region

/-- Write the record of a ready chunk, unless R83 holds it back outside an epoch's drain; in flash-confirmed mode its
drain begins at once (R85). -/
def writeWork (asn chunk : Nat) (s : State) : State :=
  match cmdOf s asn with
  | none => s
  | some c =>
    match workOf c chunk with
    | none => s
    | some w =>
      if c.stage ≠ .running ∨ !workReady c w ∨ s.jrn.stopped ∨ (journalLow s ∧ s.jrn.epoch.step = 0) then s
      else
        let (_, s) := writeRec asn w.unit c.units.length false (workBody s c w) s
        let s := monEnd 7 (workId asn chunk) w.domain (modWork asn chunk (fun w => { w with stage := .written }) s)
        let s := { s with jrn := { s.jrn with admitted := s.jrn.admitted - 32 } }
        match w.cls with
        | .new => { s with jrn := { s.jrn with drain := tset s.jrn.drain w.serial (asn, w.unit) } }
        | .overlay => { s with jrn := { s.jrn with drain := tset s.jrn.drain w.serial (asn, w.unit) } }
        | _ => s

/-- The new chunks of a unit. -/
def unitSerials (c : Cmd) (unit : Nat) : List Nat :=
  (c.chunks.filter (fun w => decide (w.unit = unit) && (match w.cls with
    | .new => true
    | .overlay => true
    | _ => false))).map (·.serial)

/-- May the unit record be written (R56): the data complete, every chunk of the command classified, this unit's chunks
written, and in flash-confirmed mode drained with their map records written (R85)? -/
def unitReady (s : State) (c : Cmd) (i : Nat) : Bool :=
  decide (c.stage = .running) && c.dataDone && c.chunks.all (fun w => decide (w.cls ≠ .unknown)) &&
    c.chunks.all (fun w => decide (w.unit ≠ i) || decide (w.stage = .written)) &&
    (!s.jrn.flashMode || (unitSerials c i).all (fun k => ((tget s.plc.placed k).map (·.recorded)).getD false))

/-- Write the unit records that are due. -/
def writeUnits (asn : Nat) (s : State) : State :=
  match cmdOf s asn with
  | none => s
  | some c =>
    if !isWriter c ∨ s.jrn.stopped then s
    else c.units.zipIdx.foldl (fun s e =>
      let (u, i) := e
      if u.unitWritten ∨ !unitReady s c i then s
      else
        let n := (unitRecs s asn i).length + 1
        let (_, s) := writeRec asn i c.units.length true
          (.unit c.queueId c.csn c.crc c.opcode c.volume u.first u.blocks n) s
        modCmd asn (fun c => { c with units := c.units.set i { u with unitWritten := true } }) s) s

/-! ### Commit (R56, R68, R190) -/

/-- A new chunk in the journal enters the chunk table; an envelope that fails its check is not used (R199). -/
def enterChunk (off : Nat) (mirror : Bool) (envelope : Bytes) (s : State) : State :=
  let e := envOf envelope
  if thas s.map.chunks e.serial ∨ !envOk envelope then s
  else
    let base := if e.overlay then fieldLE e.fp 8 8 else 0
    let kind := if mirror then LocKind.mirrorJournal off else .ownJournal off
    let s := putChunk e.serial {
      loc := { kind := kind, overlay := e.overlay }, domain := e.domain, grains := e.grains, overlay := e.overlay
      base := base, mask := e.mask, version := e.version } s
    match chunkOf s base with
    | some b => if e.overlay then putChunk base (fixExt { b with refs := b.refs + 1, isBase := true }) s else s
    | none => s

/-- Unmap the chunks of a release range that it covers whole, in a map of the volume (R131). -/
def applyRelease (key first blocks : Nat) (s : State) : State :=
  let lo := cdiv first 8
  let hi := (first + blocks) / 8
  -- only mapped chunks change
  let mapped := ((tgetD s.map.maps key []).filterMap (fun p => (tget s.map.leaves p.2).map (fun l => l.ents.map (·.1)))).flatten
  (mapped.filter (fun c => decide (lo ≤ c ∧ c < hi))).foldl (fun s c => unmapChunk key c s) s

/-- Map a logical chunk to a new chunk: directly, or as a further referrer where another map holds it already. -/
def mapNew (key chunk serial : Nat) (s : State) : State :=
  if (chunkOf s serial).any (fun c => decide (c.refs + c.peerRefs = 0)) then mapDirect key chunk serial s
  else mapShared key chunk serial s

/-- Apply one record of a committed unit to the map of its volume that `snap` names: 0 the live one. -/
def applyRec (snap off : Nat) (mirror : Bool) (b : JBody) (s : State) : State :=
  match b with
  | .chunk vol c e _ => if envOk e then mapNew (mapKey vol snap) c (envOf e).serial (enterChunk off mirror e s) else s
  | .reference vol c serial _ => mapShared (mapKey vol snap) c serial s
  | .release vol first blocks => applyRelease (mapKey vol snap) first blocks s
  | .mapMoves es => es.foldl (fun s m => updateIndex m.serial m.new (moveChunk m s)) s
  | _ => s

/-- Apply a unit of the own region, in the order of its records. -/
def applyUnit (asn unit : Nat) (s : State) : State :=
  let s := (unitRecs s asn unit).foldl (fun s r => applyRec 0 r.r.off false r.r.body s) s
  let s := modOwn (fun r => decide (r.r.asn = asn ∧ r.r.unit = unit)) (fun r => { r with applied := true }) s
  let pins := (s.jrn.units.filter (fun u => decide (u.asn = asn ∧ u.unit = unit))).flatMap (·.pins)
  let s := { s with jrn := { s.jrn with
      units := modWhere (fun u => decide (u.asn = asn ∧ u.unit = unit)) (fun u => { u with applied := true, pins := [] }) s.jrn.units
      deferredMaps := s.jrn.deferredMaps.filter (· ≠ (asn, unit)) } }
  pins.foldl (fun s k => unpinChunk k s) s

/-- A committed unit waits with its map changes for an earlier reader (R68): its new chunks are known, for merges, and what
it refers to stays pinned. -/
def deferUnit (asn unit : Nat) (pins : List Nat) (s : State) : State :=
  let s := (unitRecs s asn unit).foldl (fun s r => match r.r.body with
    | .chunk _ _ e _ => enterChunk r.r.off false e s
    | _ => s) s
  { s with jrn := { s.jrn with
      deferredMaps := s.jrn.deferredMaps ++ [(asn, unit)]
      units := modWhere (fun u => decide (u.asn = asn ∧ u.unit = unit)) (fun u => { u with pins := pins }) s.jrn.units } }

/-- A cut of a volume holds the accepted writes whose map changes still wait for a reader of the live map (R68, R79). -/
def applyToCut (vol snap : Nat) (s : State) : State :=
  (s.jrn.units.filter (fun u => decide (u.volume = vol) && !u.applied && !u.mirror)).foldl (fun s u =>
    (unitRecs s u.asn u.unit).foldl (fun s r => match r.r.body with
      | .mapMoves _ => s
      | b => applyRec snap r.r.off false b s) s) s

/-- Does an earlier reader, held or running, still need the blocks of a range (R68)? -/
def readerWaits (s : State) (asn vol first blocks : Nat) : Bool :=
  s.jrn.cmds.any (fun e => decide (e.1 < asn) && isReader e.2 && !e.2.taken && decide (e.2.stage ≠ .decided ∧ e.2.snap = 0 ∧
    e.2.volume = vol ∧ e.2.first < first + blocks ∧ first < e.2.first + e.2.blocks))

/-- Does an earlier deferred map change touch the same chunks? -/
def deferredBefore (s : State) (u : UnitBook) : Bool :=
  s.jrn.deferredMaps.any (fun d => decide (d.1 < u.asn) && s.jrn.units.any (fun v => decide (v.asn = d.1 ∧ v.unit = d.2 ∧
    v.volume = u.volume ∧ v.first / 8 ≤ (u.first + u.blocks - 1) / 8 ∧ u.first / 8 ≤ (v.first + v.blocks - 1) / 8)))

/-- Apply the map changes of committed units whose readers have taken their data. -/
def applyDeferred (s : State) : State :=
  s.jrn.units.foldl (fun s u =>
    if u.applied ∨ readerWaits s u.asn u.volume u.first u.blocks ∨ deferredBefore s u then s
    else applyUnit u.asn u.unit s) s

/-- May a unit commit now (R56, R85, R86)? -/
def commitReady (s : State) (asn unit : Nat) : Bool :=
  match cmdOf s asn with
  | none => false
  | some c => match c.units[unit]? with
    | none => false
    | some u =>
      decide (c.stage = .running) && c.dataDone && u.unitWritten && !u.committed && !s.jrn.stopped && !s.pair.fenced &&
        -- between the loss of the peer and the fence nothing more commits (R22)
        !s.pair.lossB && (unitRecs s asn unit).all (recDone s) &&
        !(s.jrn.cmds.any (fun e => decide (e.1 < asn) && isWriter e.2 && sharesChunk e.2 c)) &&
        (!s.jrn.flashMode || (waitsPeer s &&
          (unitSerials c unit).all (fun k => ((tget s.plc.placed k).map (·.recorded)).getD false)))

/-- The mapped blocks of a range of a live volume. -/
def mappedBlocks (s : State) (vol first blocks : Nat) : Nat :=
  (List.range blocks).countP (fun i => match deferredEnt s vol ((first + i) / 8) with
    | some k => k.isSome
    | none => (getEnt s (mapKey vol 0) ((first + i) / 8)).mapped)

/-- The result word of an accepted writer (Table 5.9): grains newly stored, or blocks mapped before the release. -/
def writerResult (c : Cmd) : Nat :=
  if c.opcode = 4 then c.result
  else sumBy (fun w => if w.cls = .new ∨ w.cls = .overlay then (envOf w.envelope).grains else 0) c.chunks

/-- COMMIT_UNIT_COMMIT: the unit commits; its insertions and map changes follow, and with the last unit the command is
decided SUCCESS. -/
def commitUnit (asn unit : Nat) (s : State) : State :=
  if !commitReady s asn unit then s
  else match cmdOf s asn with
    | none => s
    | some c =>
      match c.units[unit]? with
      | none => s
      | some u =>
        let book : UnitBook := {
          asn := asn, unit := unit, volume := c.volume, first := u.first, blocks := u.blocks, epoch := c.epoch
          serials := unitSerials c unit, recs := (unitRecs s asn unit).map (·.r.off), flashMode := s.jrn.flashMode }
        let mine := c.chunks.filter (fun w => decide (w.unit = unit))
        let before := if c.opcode = 4 then mappedBlocks s c.volume u.first u.blocks else 0
        let s := modCmd asn (fun c => { c with result := c.result + before, units := c.units.set unit { u with committed := true, confirmed := s.jrn.flashMode } }) s
        let s := { s with jrn := { s.jrn with
          units := s.jrn.units ++ [book]
          inflight := s.jrn.inflight.filter (fun e => !(decide (e.2.2.1 = asn ∧ e.2.2.2.1 = unit))) } }
        let s := mine.foldl (fun s w =>
          if w.cls = .new ∧ w.mask = 255 ∧ (domSwitches s w.domain).1 then insertIndex w.fp w.serial w.domain s else s) s
        -- pins end when the reference count takes over (R188)
        let pins := mine.filterMap (·.pinned)
        let s := if readerWaits s asn c.volume u.first u.blocks ∨ deferredBefore s book then
            deferUnit asn unit pins s
          else pins.foldl (fun s k => unpinChunk k s) (applyUnit asn unit s)
        let s := modCmd asn (fun c => { c with chunks := c.chunks.map (fun w =>
          if w.unit = unit then { w with pinned := none } else w) }) s
        match cmdOf s asn with
        | some c => if c.units.all (·.committed) then decide_ asn .success (writerResult c) (monEnd 4 asn c.volume s) else s
        | none => s

/-- The ingest pipeline after any event: turns, records, unit records. -/
def ingestAdvance (s : State) : State :=
  (tkeys s.jrn.cmds).foldl (fun s asn =>
    match cmdOf s asn with
    | none => s
    | some c =>
      if !isWriter c ∨ c.stage ≠ .running then s
      else
        let s := c.chunks.foldl (fun s w => if w.stage = .turn then takeTurn asn w.chunk s else workReads asn w.chunk s) s
        let s := c.chunks.foldl (fun s w => writeWork asn w.chunk s) s
        writeUnits asn s) (applyDeferred s)

/-! ### Release of a unit (R82) -/

/-- Is a chunk on flash with both copies and die parity confirmed, or no longer stored? -/
def drained (s : State) (serial : Nat) : Bool :=
  match tget s.plc.placed serial with
  | some p => copiesConfirmed s p && parityConfirmed s p && decide (((chunkOf s serial).map (fun c => locCode c.loc.kind)).getD 1 = 1)
  | none => (chunkOf s serial).isNone || decide (((chunkOf s serial).map (fun c => locCode c.loc.kind)).getD 0 = 1)

/-- Is a chunk on flash as `drained` asks, or will it be once the drain's record, which is done, is applied (R19)? -/
def drainNamed (s : State) (serial : Nat) : Bool :=
  drained s serial ||
    (((tget s.plc.placed serial).map (fun p => copiesConfirmed s p && parityConfirmed s p)).getD false &&
      s.jrn.own.any (fun r => recDone s r && decide (r.r.units = 0) && (match r.r.body with
        | .mapMoves es => es.any (fun m => decide (m.serial = serial))
        | _ => false)))

/-- May a unit be released? -/
def releaseReady (s : State) (u : UnitBook) : Bool :=
  u.applied && u.checkpointed && u.serials.all (drained s) &&
    s.jrn.units.all (fun v => !(decide (v.asn < u.asn ∧ v.volume = u.volume ∧ v.first < u.first + u.blocks ∧
      u.first < v.first + v.blocks)))

/-- JOURNAL_RELEASE: the drained record that names the unit; the space of a unit adopted from the mirror region is
freed. -/
def journalRelease (asn unit : Nat) (s : State) : State :=
  match s.jrn.units.find? (fun u => decide (u.asn = asn ∧ u.unit % adopted = unit) && releaseReady s u) with
  | none => s
  | some u =>
    if s.jrn.restart ≠ .none then s
    else
      let s := { s with jrn := { s.jrn with drain := tfilter (fun _ d => decide (d ≠ (asn, u.unit))) s.jrn.drain } }
      if u.mirror then
        { s with jrn := { s.jrn with
          mirror := s.jrn.mirror.filter (fun r => !u.recs.contains r.off)
          units := s.jrn.units.filter (fun v => !(decide (v.asn = asn) && decide (v.unit = u.unit))) } }
      else
        let offs := ((unitRecs s asn unit).filter (fun r => !r.drained)).map (·.r.off)
        drainRecs offs asn unit s

end Sys2Proof.Machine
end

