-- ==== Sys2Proof/Machine/Reads.lean ====
section
/-!
DEFINITION. Machine/Reads.lean: READ and RECALL of a range, chunk by chunk, recall holds, and the delivery of data (R132
to R134, R238, R313 to R318).
-/
namespace Sys2Proof.Machine

/-! ### Capsule fields (Table 5.4) -/

def capAddr (c : Cmd) : Nat := fieldLE c.capsule 32 8
def capRkey (c : Cmd) : Nat := fieldLE c.capsule 40 4
def capLength (c : Cmd) : Nat := fieldLE c.capsule 24 4
def noWait (c : Cmd) : Bool := c.flags.testBit 1

/-! ### Maps that reads use -/

/-- The replica point of a target volume, if it is one (R328). -/
def replicaPoint (s : State) (vol : Nat) : Option Nat :=
  (s.rep.snaps.find? (fun e => decide (e.1 / 8192 = vol) && e.2.replica && !e.2.pend)).map (fun e => e.1 % 8192)

/-- The map that a read of a volume or snapshot resolves through. -/
def readKey (s : State) (vol snap : Nat) : Nat :=
  if snap = 0 then mapKey vol ((replicaPoint s vol).getD 0) else mapKey vol snap

/-! ### Chunks of a READ -/

/-- Update a chunk of a READ. -/
def modRead (asn chunk : Nat) (f : ChunkRead → ChunkRead) (s : State) : State :=
  modCmd asn (fun c => { c with reads := modWhere (fun r => decide (r.chunk = chunk)) f c.reads }) s

/-- The chunk of a READ. -/
def readOf (c : Cmd) (chunk : Nat) : Option ChunkRead := c.reads.find? (fun r => decide (r.chunk = chunk))

/-- The blocks of a chunk that a range covers, as a mask. -/
def rangeMask (first blocks chunk : Nat) : Nat :=
  sumBy (fun i => if first ≤ 8 * chunk + i ∧ 8 * chunk + i < first + blocks then 2 ^ i else 0) (List.range 8)

/-- The chunks of a READ, at their first step. -/
def newReads (first blocks : Nat) : List ChunkRead :=
  (List.range ((first + blocks - 1) / 8 - first / 8 + 1)).map (fun i =>
    { chunk := first / 8 + i, want := rangeMask first blocks (first / 8 + i) })

/-- The index in the range of the first block that a mask of a chunk names (Table 5.9). -/
def blockIndex (c : Cmd) (chunk mask : Nat) : Nat :=
  chunk * 8 + ((List.range 8).find? (fun i => mask.testBit i)).getD 0 - c.first

/-- Fill the blocks still wanted with zeros. -/
def fillZeros (r : ChunkRead) : ChunkRead :=
  { r with
    got := (List.range 8).foldl (fun t i => if r.want.testBit i then tset t i (zeros 4096) else t) r.got
    want := 0, stage := .done }

/-- The host connection of a READ can still carry its data. -/
def connected (s : State) (c : Cmd) : Bool := !c.closed && liveFor s c.qpn c.queueId

/-- Step 7: send the blocks of a finished chunk that lie in the range. -/
def deliver (asn chunk : Nat) (s : State) : State :=
  match cmdOf s asn with
  | none => s
  | some c =>
    match readOf c chunk with
    | none => s
    | some r =>
      if r.delivered ∨ r.stage ≠ .done then s
      else
        let s := modRead asn chunk (fun r => { r with delivered := true }) s
        if !connected s c then s
        else
          let data := (r.got.map (·.2)).flatten
          let at_ := capAddr c + 4096 * (8 * chunk - c.first)
          let q := qpOf s c.qpn
          let s := modCmd asn (fun c => { c with started := true }) s
          -- the completion record goes with the first RDMA WRITE (R58)
          let s := if c.waitRec.isSome then s
            else recordOutcome asn { c with status := .success, result := c.blocks * 4096 } s
          flushAll c.qpn (setQp c.qpn { q with toWrite := q.toWrite ++ [(asn, capRkey c, at_, data)] } s)

/-- The blocks that a chunk of a READ wants of the layer it is at: of an overlay those that it holds (R315). -/
def wantedHere (s : State) (r : ChunkRead) : Nat :=
  match chunkOf s r.serial with
  | some k => if k.overlay then r.want &&& k.mask else r.want
  | none => r.want

/-- A chunk of a READ cannot be delivered (R317, R20, R23): the result names the first block affected. -/
def failRead (asn chunk : Nat) (st : Status) (s : State) : State :=
  match cmdOf s asn with
  | none => s
  | some c => decide_ asn st (blockIndex c chunk (((readOf c chunk).map (wantedHere s)).getD 255)) s

/-- Is a shelf FAILED? A command that needs it ends MEDIA_ERROR at once (R218). -/
def shelfFailed (s : State) (g : Nat) : Bool := decide ((shelfOf s g).st = .failed)

/-- The next layer of a chunk: resolve it, or go on with a base, and fetch what the blocks wanted need (R313, R315). -/
def nextLayer (asn chunk serial : Nat) (s : State) : State :=
  match cmdOf s asn, chunkOf s serial with
  | some c, some k =>
    match readOf c chunk with
    | none => s
    | some r =>
      let need := if k.overlay then r.want &&& k.mask else r.want
      if need = 0 then
        -- no block of this layer is wanted: the base holds them (R315)
        modRead asn chunk (fun r => { r with serial := k.base, stage := .resolve }) s
      else
        let s := modRead asn chunk (fun r => { r with serial := serial, domain := k.domain }) s
        let go (s : State) : State :=
          let n := s.plc.fetchCount
          startFetch serial (.read asn chunk) (modRead asn chunk (fun r => { r with stage := .fetch, fetch := n }) s)
        match k.loc.kind with
        | .flash g .. =>
          if shelfReadable s g ∨ (sourceReads s serial k.loc 1 .staged).isSome then go s
          else if shelfFailed s g then failRead asn chunk .mediaError s
          else if (shelfOf s g).good ∧ (shelfOf s g).st = .off then
            -- the peer alone holds it: the read joins, with no wake charge (R316)
            grantWake g (wantWake g .read s.plc.policy.readWaitS (modRead asn chunk (fun r => { r with stage := .shelf g }) s))
          else joinBatch g s.plc.policy.readWaitS (modRead asn chunk (fun r => { r with stage := .shelf g }) s)
        | _ => go s
  | _, _ => s

/-- Step 2: resolve a chunk through the map (R256). -/
def resolveRead (asn chunk : Nat) (s : State) : State :=
  match cmdOf s asn with
  | none => s
  | some c =>
    match readOf c chunk with
    | none => s
    | some r =>
      if r.serial ≠ 0 then nextLayer asn chunk r.serial s
      else if s.rep.unreadable.contains (c.key, chunk) then failRead asn chunk .mediaError s
      else
        let (e, s) := resolveEnt c.key chunk (monAt 8 c.volume s)
        match e with
        | none => modRead asn chunk fillZeros s
        | some (serial, _) => nextLayer asn chunk serial s

/-- May the chunk of a command be resolved now? Its shelf came awake, or it stands at the first step. -/
def readStep (asn : Nat) (r : ChunkRead) (s : State) : State :=
  match r.stage with
  | .resolve => resolveRead asn r.chunk s
  | .shelf g => if shelfReadable s g then resolveRead asn r.chunk s else s
  | .done => deliver asn r.chunk s
  | _ => s

/-- The READs after any event. -/
def readsAdvance (s : State) : State :=
  (tkeys s.jrn.cmds).foldl (fun s asn =>
    match cmdOf s asn with
    | none => s
    | some c =>
      if c.opcode ≠ 2 ∨ c.stage ≠ .running ∨ c.reads.isEmpty then s
      else
        let s := c.reads.foldl (fun s r =>
          if (cmdOf s asn).any (fun c => decide (c.stage = .running)) then readStep asn r s else s) s
        match cmdOf s asn with
        | none => s
        | some c =>
          let got := c.reads.all (fun r => decide (r.stage = .done))
          let s := if got ∧ !c.taken then modCmd asn (fun c => { c with taken := true }) s else s
          if got ∧ c.reads.all (·.delivered) ∧ c.stage = .running ∧ !((qpOf s c.qpn).toWrite.any (fun w => decide (w.1 = asn))) then
            if connected s c then decide_ asn .success (c.blocks * 4096) s
            else decide_ asn .invalidField 0 s
          else s) s

/-- The fetches of READs that have ended. -/
def readsArrived (s : State) : State :=
  s.plc.fetches.foldl (fun s e => match e.2.why, e.2.res with
    | .read asn chunk, some r =>
      match (cmdOf s asn).bind (fun c => readOf c chunk) with
      | none => { s with plc := { s.plc with fetches := terase s.plc.fetches e.1 } }
      | some v =>
        if v.stage ≠ .fetch then s
        else match r with
          | .got env region => modRead asn chunk (fun v => { v with envelope := env, payload := region, stage := .decomp }) s
          | .fails st => failRead asn chunk st { s with plc := { s.plc with fetches := terase s.plc.fetches e.1 } }
    | _, _ => s) s

/-- DECOMPRESSION_DONE (R196, R317): the output passes and its blocks are taken, or the next source is tried. -/
def decompressionDone (asn chunk : Nat) (s : State) : State :=
  match (cmdOf s asn).bind (fun c => readOf c chunk) with
  | none => s
  | some v =>
    if v.stage ≠ .decomp then s
    else
      let s := monAt 19 1 s
      let done (s : State) : State := { s with plc := { s.plc with fetches := terase s.plc.fetches v.fetch } }
      match openChunk s v.envelope v.payload with
      | .error .noKey => failRead asn chunk .mediaError (done s)
      | .error (.check tooLong) =>
        let s := countDecomp tooLong s
        failSource v.fetch true (modRead asn chunk (fun v => { v with stage := .fetch }) s)
      | .ok data =>
        let s := done (markRecovered v.fetch v.envelope v.payload s)
        let env := envOf v.envelope
        let add := (blocksOf env.mask data).filter (fun e => v.want.testBit e.1)
        let want := sumBy (fun i => if v.want.testBit i ∧ !env.mask.testBit i then 2 ^ i else 0) (List.range 8)
        let base := if env.overlay then ((chunkOf s v.serial).map (·.base)).getD (fieldLE env.fp 8 8) else 0
        modRead asn chunk (fun v =>
          let v := { v with got := add.foldl (fun t e => tset t e.1 e.2) v.got, want := want }
          if want = 0 then { v with stage := .done }
          else if base = 0 then fillZeros v
          else { v with serial := base, stage := .resolve }) s

/-! ### NOWAIT and RECALL -/

/-- The layers of a chunk that must be woken for the blocks wanted (R132, R315): the blocks each gives, and its shelf. Fuel bounds
the chain of overlays. -/
def sleepLayers (s : State) : Nat → Nat → Nat → List (Nat × Nat)
  | 0, _, _ => []
  | k + 1, want, serial =>
    match chunkOf s serial with
    | none => []
    | some c =>
      let need := if c.overlay then want &&& c.mask else want
      let below := if c.overlay then want - need else 0
      let here := if need = 0 ∨ readableNow s serial c.loc then [] else match locShelf c.loc with
        | some g => [(need, g)]
        | none => []
      here ++ (if below = 0 ∨ c.base = 0 then [] else sleepLayers s k below c.base)

/-- The chunks of a range. -/
def rangeChunks (first blocks : Nat) : List Nat :=
  (List.range ((first + blocks - 1) / 8 - first / 8 + 1)).map (fun i => first / 8 + i)

/-- The sleeping layers of a range: the index of the first block of each in the range, and its shelf. -/
def sleeping (s : State) (c : Cmd) : List (Nat × Nat) :=
  (rangeChunks c.first c.blocks).flatMap (fun k =>
    let e := getEnt s c.key k
    if e.mapped then (sleepLayers s 64 (rangeMask c.first c.blocks k) e.serial).map (fun x => (blockIndex c k x.1, x.2)) else [])

/-- The lowest of some block indices. -/
def lowest (l : List Nat) : Nat := l.foldl min (l.headD 0)

/-- READ begins (R313): a NOWAIT READ first resolves its whole range and completes COLD if a chunk sleeps. -/
def startRead (asn : Nat) (s : State) : State :=
  match (cmdOf s asn).map (fun c => { c with key := readKey s c.volume c.snap }) with
  | none => s
  | some c =>
    let s := setCmd asn c s
    let s := heatTouch c.volume c.first c.blocks s
    match (if noWait c then sleeping s c else []) with
    | x :: l => decide_ asn .cold (lowest ((x :: l).map (·.1))) s
    | [] => modCmd asn (fun c => { c with reads := newReads c.first c.blocks }) s

/-- The hold of a RECALL (R238): its expiry in operating time. -/
def setHold (asn : Nat) (staged : List (Nat × Nat)) (shelves : List Nat) (s : State) : State :=
  match cmdOf s asn with
  | none => s
  | some c =>
    let n := s.plc.holdCount
    let h : Hold := {
      volume := c.volume, snap := c.snap, first := c.first, blocks := c.blocks, staged := staged, shelves := shelves
      expiry := optime s + 3600 * s.plc.policy.recallHoldH }
    let s := { s with plc := { s.plc with holds := tset s.plc.holds n h, holdCount := n + 1 } }
    modCmd asn (fun c => { c with holdId := some n }) s

/-- A RECALL completes: its result is the time from acceptance to readability, which is free (log entry 7). -/
def finishRecall (asn : Nat) (s : State) : State :=
  let t := freeNat s % 2 ^ 32
  decide_ asn .success t (modCmd asn (fun c => { c with taken := true }) (draw s))

/-- A chunk and the bases below it. -/
def layersOf (s : State) : Nat → Nat → List Nat
  | 0, _ => []
  | k + 1, serial => match chunkOf s serial with
    | none => []
    | some c => serial :: (if c.overlay then layersOf s k c.base else [])

/-- The shelves, home shelves apart, on which a range lies with every layer of its chunks: a hold keeps them awake (R134). -/
def rangeShelves (s : State) (c : Cmd) : List Nat :=
  ((rangeChunks c.first c.blocks).flatMap (fun k =>
    let e := getEnt s c.key k
    if e.mapped then (layersOf s 64 e.serial).filterMap (fun x => ((chunkOf s x).bind (fun c => locShelf c.loc)).filter (fun g => !isHome s g))
    else [])).eraseDups

/-- RECALL begins: a range that needs no wake is held and completes; else a wake item enters the schedule (R74). -/
def startRecall (asn : Nat) (s : State) : State :=
  match (cmdOf s asn).map (fun c => { c with key := readKey s c.volume c.snap }) with
  | none => s
  | some c =>
    let s := setCmd asn c s
    let s := heatTouch c.volume c.first c.blocks s
    let sl := sleeping s c
    if sl = [] then finishRecall asn (setHold asn [] (rangeShelves s c) s)
    else
      let gs := (sl.map (·.2)).eraseDups
      match gs.find? (shelfFailed s), sl with
      | some _, _ => decide_ asn .mediaError (lowest ((sl.filter (fun e => shelfFailed s e.2)).map (·.1))) s
      | none, _ =>
        let s := modCmd asn (fun c => { c with pinWake := gs, started := true }) s
        gs.foldl (fun s g => joinBatch g (4 * s.plc.policy.readWaitS) s) s

/-- The chunks, bases of overlays included, that a RECALL stages from its shelves. -/
def recallSerials (s : State) (c : Cmd) : List Nat :=
  ((rangeChunks c.first c.blocks).flatMap (fun k => layersOf s 64 (getEnt s c.key k).serial)).filter (fun k =>
    match (chunkOf s k).map (fun c => c.loc.kind) with
    | some (LocKind.flash g ..) => c.pinWake.contains g
    | _ => false)

/-- The grains that the sleeping part of a RECALL stores. -/
def recallBytes (s : State) (c : Cmd) : Nat :=
  512 * sumBy (fun k => ((chunkOf s k).map (·.grains)).getD 0) (recallSerials s c).eraseDups

/-- RECALLs whose shelves are awake: staging starts, or the shelves are held (R238). -/
def recallsAdvance (s : State) : State :=
  (tkeys s.jrn.cmds).foldl (fun s asn =>
    match cmdOf s asn with
    | none => s
    | some c =>
      if c.opcode ≠ 6 ∨ c.stage ≠ .running ∨ c.pinWake = [] ∨ !c.pinWake.all (shelfReadable s) then s
      else if c.staging ∨ c.holdId.isSome then s
      else if s.plc.policy.staging ∧ recallBytes s c ≤ s.plc.policy.stageLimitGib * 2 ^ 30 then
        match homeWithRoom s with
        | none => s
        | some h => (recallSerials s c).eraseDups.foldl (fun s k => startMove k h (.recall asn) s)
            (modCmd asn (fun c => { c with staging := true }) s)
      else finishRecall asn (setHold asn [] (rangeShelves s c) (modCmd asn (fun c => { c with pinWake := [] }) s))) s

/-- READs and RECALLs wait for a FAILED shelf: they end MEDIA_ERROR, the result naming the first block there (R218). -/
def failWaiting (s : State) : State :=
  s.jrn.cmds.foldl (fun s e =>
    if (List.range 32).any (fun g => shelfFailed s g && waitsOn g e.2) then
      let waits := e.2.reads.filterMap (fun r => match r.stage with
        | .shelf g => if shelfFailed s g then some (blockIndex e.2 r.chunk (wantedHere s r)) else none
        | _ => none)
      let asleep := ((sleeping s e.2).filter (fun x => shelfFailed s x.2)).map (·.1)
      decide_ e.1 .mediaError (lowest (if e.2.opcode = 6 then asleep else waits)) s
    else s) s

/-- RECALL_STAGE_DONE: every staged copy is confirmed (a chunk that cannot be read has none, R318); the hold is set and the RECALL completes. -/
def recallStageDone (asn : Nat) (s : State) : State :=
  let ms := s.plc.moves.filter (fun e => decide (e.2.why = .recall asn))
  match cmdOf s asn with
  | none => s
  | some c =>
    if c.stage ≠ .running ∨ c.opcode ≠ 6 ∨ c.pinWake = [] ∨ !c.staging ∨
        !ms.all (fun e => ((tget s.plc.copies e.1).map (copiesConfirmed s)).getD false) then s
    else
      let s := setHold asn (ms.map (fun e => (e.2.serial, e.1))) ((rangeShelves s c).filter (fun g => !c.pinWake.contains g)) (modCmd asn (fun c => { c with pinWake := [] }) s)
      let s := { s with plc := { s.plc with moves := tfilter (fun _ m => decide (m.why ≠ .recall asn)) s.plc.moves } }
      finishRecall asn s

/-- RECALL_HOLD_EXPIRY: the hold goes; a fetch that reads a staged copy ends before that copy is released. -/
def holdExpiry (n : Nat) (s : State) : State :=
  match tget s.plc.holds n with
  | none => s
  | some h =>
    if optime s < h.expiry then s
    else
      let s := { s with plc := { s.plc with holds := terase s.plc.holds n } }
      let s := { s with plc := { s.plc with copies := tfilter (fun m _ => !(h.staged.any (fun e => decide (e.2 = m)))) s.plc.copies } }
      h.shelves.foldl (fun s g => if mayClose s g then startClose g true s else s) s

end Sys2Proof.Machine
end

