-- ==== Sys2Proof/Machine/Order.lean ====
section
/-!
DEFINITION. Machine/Order.lean: the checks of a command, its admission to step 3, barriers and overlaps, FLUSH, ABORT,
epochs and flash-confirmed mode (R63 to R85, R128 to R146).
-/
namespace Sys2Proof.Machine

/-! ### Ownership (R107, R145, R146) -/

/-- The role that owns a volume now. -/
def ownerOf (s : State) (vol : Nat) : Role :=
  tgetD s.pair.owned vol (((tget s.pair.arr.volumes vol).map (·.pref)).getD .a)

/-- Does this head own the volume? -/
def ownsVol (s : State) (vol : Nat) : Bool :=
  match s.pair.role with
  | some r => decide (ownerOf s vol = r)
  | none => true

/-- The volumes this head owns. -/
def myVols (s : State) : List Nat := (tkeys s.pair.arr.volumes).filter (ownsVol s)

/-- Mark volumes as damaged from an epoch on: a volume marked again keeps the lower epoch; a critical event names each. -/
def markVols (vols : List Nat) (epoch cause : Nat) (s : State) : State :=
  if vols = [] then s
  else
    let s := changeArray (fun a => { a with volumes := tmap (fun v r =>
      if vols.contains v then { r with mark := match r.mark with
        | some (e, c) => some (if e ≤ epoch then (e, c) else (epoch, cause))
        | none => some (epoch, cause) } else r) a.volumes }) s
    vols.foldl (fun s v => record 3 0x0B 4 (.volume v) (leN 8 epoch ++ leN 1 cause) s) s

/-- Is a volume being received: in a handover, or from a lost peer (R146)? -/
def gaining (s : State) (vol : Nat) : Bool :=
  (s.pair.taking.map (fun t => t.1.contains vol)).getD false || (decide (s.pair.takeover ≠ 0) && !ownsVol s vol)

/-- Is a volume being given away (R146)? -/
def giving (s : State) (vol : Nat) : Bool := (s.pair.handover.map (fun h => h.volumes.contains vol)).getD false

/-- Is a volume the target of a replication relationship (R328)? -/
def isTarget (s : State) (vol : Nat) : Bool :=
  s.pair.arr.rels.any (fun r => !r.2.source && r.2.vols.any (fun v => decide (v.1 = vol)))

/-! ### The capsule and its checks (Tables 5.4 to 5.6, R144) -/

/-- The opcodes that name a range (Table 5.6). -/
def namesRange (op : Nat) : Bool := [1, 2, 4, 6].contains op

/-- A command from its capsule, as the tracker registers it (steps 1 and 2 of Table 3.1). -/
def newCmd (qpn tag queueId : Nat) (capsule : Bytes) (crc : Nat) : Cmd :=
  let op := fieldLE capsule 0 1
  { qpn := qpn, tag := tag, queueId := queueId, csn := fieldLE capsule 4 4, crc := crc, opcode := op, capsule := capsule
    flags := fieldLE capsule 1 1
    volume := if op = 5 ∨ op = 8 then 0 else fieldLE capsule 8 4
    snap := if op = 2 ∨ op = 6 ∨ op = 7 then fieldLE capsule 12 2 else 0
    first := if namesRange op then fieldLE capsule 16 8 else 0
    blocks := if namesRange op then fieldLE capsule 24 4 / 4096 else 0 }

/-- The spans of a capsule that must be 0 for an opcode (R128): offset and size. -/
def zeroSpans : Nat → List (Nat × Nat)
  | 1 => [(3, 1), (12, 4), (28, 36)]
  | 2 => [(3, 1), (14, 2), (28, 4), (44, 20)]
  | 3 => [(3, 1), (12, 52)]
  | 4 => [(3, 1), (12, 4), (28, 36)]
  | 5 => [(1, 1), (3, 1), (9, 3), (24, 40)]
  | 6 => [(3, 1), (14, 2), (28, 36)]
  | 7 => [(3, 1), (14, 10), (28, 4), (44, 4), (56, 8)]
  | _ => [(3, 1), (8, 56)]

/-- The flags an opcode allows (Table 5.6). -/
def flagsAllowed : Nat → Nat
  | 1 => 5 | 2 => 3 | 3 => 1 | 4 => 1 | 6 => 1 | _ => 0

/-- Does a range stay inside one 1 MiB-aligned span (R70)? -/
def oneSpan (first blocks : Nat) : Bool := decide (first / 256 = (first + blocks - 1) / 256)

/-- The length an opcode takes (Table 5.6). -/
def lengthValid (op len : Nat) : Bool :=
  if op = 1 ∨ op = 2 ∨ op = 4 then decide (len % 4096 = 0) && within 4096 16777216 len
  else if op = 6 then decide (len % 4096 = 0) && within 4096 0xFFFFF000 len
  else if op = 7 then within 256 4096 len
  else true

/-- Check 3 of R144: opcode, flags, reserved fields, tag, length, and the limits that no size sets. -/
def capsuleValid (c : Cmd) : Bool :=
  let p := c.capsule
  within 1 8 c.opcode && decide (c.flags &&& flagsAllowed c.opcode = c.flags) &&
    (zeroSpans c.opcode).all (fun z => zeroAt p z.1 z.2) && decide (fieldLE p 2 1 = c.tag) &&
    lengthValid c.opcode (fieldLE p 24 4) &&
    -- the host buffer of a READ or IDENTIFY does not pass 2^64 (R158)
    (decide (c.opcode ≠ 2 ∧ c.opcode ≠ 7) || decide (capAddr c + capLength c ≤ 2 ^ 64)) &&
    (if namesRange c.opcode then decide (c.volume < 65536) && decide (c.snap ≤ 4096)
     else if c.opcode = 3 then decide (c.volume < 65536 ∨ c.volume = 0xFFFFFFFF)
     else if c.opcode = 5 then decide (fieldLE p 8 1 < 32)
     else if c.opcode = 7 then (match fieldLE p 48 8 with
       | 0 => decide (c.volume = 0 ∧ c.snap = 0)
       | 1 => decide (c.volume < 65536 ∧ c.snap ≤ 4096)
       | _ => false)
     else true) &&
    (!c.flags.testBit 2 || oneSpan c.first c.blocks)

/-- Does the command name a volume that checks 4 to 6 test? -/
def namesVolume (c : Cmd) : Bool :=
  namesRange c.opcode || (decide (c.opcode = 3) && decide (c.volume ≠ 0xFFFFFFFF)) ||
    (decide (c.opcode = 7) && decide (fieldLE c.capsule 48 8 = 1))

/-- A snapshot that has been cut. -/
def snapOf (s : State) (vol n : Nat) : Option Snap := (tget s.rep.snaps (vol * 8192 + n)).filter (fun x => !x.pend && !x.gone)

/-- The size that a command's range is tested against (R130), if its volume or snapshot exists (check 4). -/
def rangeLimit (s : State) (vol snap : Nat) : Option Nat :=
  match tget s.pair.arr.volumes vol with
  | none => none
  | some v =>
    if s.pair.dying.contains vol then none
    else if snap = 0 then some v.blocks else (snapOf s vol snap).map (·.blocks)

/-- Is the queue's protection domain granted the volume (check 5)? -/
def granted (s : State) (c : Cmd) : Bool :=
  match (tget s.lat.queues c.queueId).bind (fun q => tget s.lat.pds q.pd) with
  | none => false
  | some p => p.ranges.any (fun r => decide (r.1 ≤ c.volume ∧ c.volume ≤ r.2))

/-- Checks 3 to 6 of R144: the status and result of the first that fails. -/
def cmdFails (s : State) (c : Cmd) : Option (Status × Nat) :=
  if !capsuleValid c then some (.invalidField, 0)
  else if !namesVolume c then none
  else match rangeLimit s c.volume c.snap with
    | none => some (.notFound, 0)
    | some size =>
      if namesRange c.opcode ∧ size < c.first + c.blocks then some (.invalidField, 0)
      else if !granted s c ∨ (isWriter c ∧ isTarget s c.volume) then some (.denied, 0)
      else if !ownsVol s c.volume then some (.notOwner, (ownerOf s c.volume).num)
      else none

/-- Is the command held until its volume has come or gone (R146)? -/
def heldByMove (s : State) (c : Cmd) : Bool := namesVolume c && (gaining s c.volume || giving s c.volume)

/-- The checks of R144 on a complete message: check 6 waits while its volume comes or goes (R146). -/
def firstFails (s : State) (c : Cmd) : Option (Status × Nat) :=
  (cmdFails s c).filter (fun f => !(heldByMove s c && decide (f.1 = .notOwner)))

/-- The checks that run again as a command enters step 3 (R146, R147): 3, 4, and the ownership that a move decides. -/
def againFails (s : State) (c : Cmd) : Option (Status × Nat) :=
  match cmdFails s c with
  | some (.denied, _) => if namesVolume c ∧ !ownsVol s c.volume then some (.notOwner, (ownerOf s c.volume).num) else none
  | r => r

/-! ### The CSN check (Table 3.2) -/

/-- What Table 3.2 answers to an arriving CSN. -/
inductive CsnOutcome where
  | run
  | busy
  | replayed (status : Status) (result : Nat)
  | invalid
  deriving DecidableEq, Repr

/-- Table 3.2 for a command of a queue: the first row that matches decides. -/
def csnCheck (s : State) (asn : Nat) (c : Cmd) : CsnOutcome :=
  let t := tget s.jrn.tables c.queueId
  let newest := (t.map (·.newest)).getD (c.csn + 2 ^ 32 - 1)
  let d := ahead 32 newest c.csn
  let behind := ahead 32 c.csn newest
  let part := s.jrn.partly.find? (fun p => decide (p.1 = c.queueId ∧ p.2.1 = c.csn))
  if s.jrn.cmds.any (fun e => decide (e.1 < asn ∧ e.2.queueId = c.queueId ∧ e.2.csn = c.csn)) then .busy
  else if 1 ≤ d ∧ d ≤ 65536 then .run
  else match t.bind (fun t => tget t.entries c.csn) with
    | some e => if e.crc ≠ c.crc then .invalid else if e.status = .success then .replayed e.status e.result else .run
    | none => match part with
      | some p => if p.2.2 = c.crc then .run else .invalid
      | none => if behind ≤ 255 then .run else .invalid

/-- The newest CSN seen on a queue moves on. -/
def seeCsn (queueId csn : Nat) (s : State) : State :=
  match tget s.jrn.tables queueId with
  | none => s
  | some t =>
    let d := ahead 32 t.newest csn
    if 0 < d ∧ d ≤ 65536 then
      { s with jrn := { s.jrn with tables := tset s.jrn.tables queueId { t with
          newest := csn, entries := tfilter (fun k _ => decide (ahead 32 k csn ≤ 255)) t.entries } } }
    else s

/-! ### Barriers, overlaps and admission -/

/-- Is the command held by an ORDERED barrier of its queue (R66)? -/
def barred (s : State) (asn : Nat) (c : Cmd) : Bool :=
  s.jrn.cmds.any (fun e => decide (e.1 < asn ∧ e.2.queueId = c.queueId) && (c.flags.testBit 0 || e.2.flags.testBit 0))

/-- Does an earlier overlapping writer still run, or wait with its map change for a reader before it (R68)? -/
def writerBefore (s : State) (asn : Nat) (c : Cmd) : Bool :=
  s.jrn.cmds.any (fun e => decide (e.1 < asn) && isWriter e.2 && shares e.2 c) ||
    (decide (c.snap = 0) && s.jrn.deferredMaps.any (fun d => decide (d.1 < asn) && s.jrn.units.any (fun u =>
      decide (u.asn = d.1 ∧ u.unit = d.2 ∧ u.volume = c.volume ∧ u.first < c.first + c.blocks ∧ c.first < u.first + u.blocks))))

/-- Is the command's entry to step 3 held: a boundary, a barrier, a handover or a takeover? -/
def heldNow (s : State) (asn : Nat) (c : Cmd) : Bool :=
  decide (s.jrn.epoch.step ≠ 0) || barred s asn c || !s.jrn.serving || decide (s.jrn.restart ≠ .none) || s.jrn.stopped ||
    heldByMove s c

/-- The commit units of a range: its parts within 1 MiB-aligned spans. -/
def unitsOf (first blocks : Nat) : List CUnit :=
  (List.range ((first + blocks - 1) / 256 - first / 256 + 1)).map (fun i =>
    let lo := max first ((first / 256 + i) * 256)
    let hi := min (first + blocks) ((first / 256 + i + 1) * 256)
    { first := lo, blocks := hi - lo })

/-- The data of a chunk of a WRITE: its blocks at their places. -/
def chunkData (data : Bytes) (first blocks chunk : Nat) : Bytes :=
  ((List.range 8).map (fun i =>
    let b := 8 * chunk + i
    if first ≤ b ∧ b < first + blocks then bslice data (4096 * (b - first)) 4096 else zeros 4096)).flatten

/-- The chunk works of a writer; a RELEASE has one for each chunk it covers in part (log entry 19). -/
def worksOf (c : Cmd) (domain : Nat) (data : Bytes) : List ChunkWork :=
  (rangeChunks c.first c.blocks).filterMap (fun k =>
    let m := rangeMask c.first c.blocks k
    if c.opcode = 4 ∧ m = 255 then none
    else some {
      chunk := k, unit := 8 * k / 256 - c.first / 256, mask := m, stage := .turn, domain := domain
      data := if c.opcode = 4 then zeros 32768 else chunkData data c.first c.blocks k })

/-- The message data of a WRITE: what its segments placed beyond the capsule (R126). -/
def msgData (g : LTag) (n : Nat) : Bytes :=
  let m := g.placed.foldl (fun m e => memPuts m e.1 e.2) ([] : Mem)
  memGets m 64 n

/-- A writer enters ingest: its units and chunks; a RELEASE writes its range records. -/
def startWriter (asn : Nat) (data : Bytes) (s : State) : State :=
  match cmdOf s asn with
  | none => s
  | some c =>
    let units := unitsOf c.first c.blocks
    let s := modCmd asn (fun c => { c with units := units, chunks := worksOf c (volDomain s c.volume) data }) s
    let s := heatTouch c.volume c.first c.blocks s
    if c.opcode ≠ 4 then s
    else units.zipIdx.foldl (fun s e =>
      (writeRec asn e.2 units.length false (.release c.volume e.1.first e.1.blocks) s).2) s

/-- The snapshots of a volume as IDENTIFY and VOL_LIST count them: those cut and not deleted, replica points among them (R328).
DESIGN CHOICE (log entry 129): a cut that is pending is not counted, and a snapshot whose deletion waits still is. -/
def snapCount (s : State) (vol : Nat) : Nat :=
  s.rep.snaps.countP (fun e => decide (e.1 / 8192 = vol) && !e.2.pend && !e.2.gone)

/-- The IDENTIFY record (Table 5.7). -/
def identifyBytes (s : State) (c : Cmd) : Bytes :=
  let scope := fieldLE c.capsule 48 8
  let v : VolRec := (tget s.pair.arr.volumes c.volume).getD { domain := 0, blocks := 0, pref := .a }
  let keep := (qpOf s c.qpn).keepaliveS
  let head := leN 2 1 ++ leN 1 1 ++ leN 1 ((s.pair.role.map Role.num).getD 0xFF) ++ leN 1 s.pair.state ++ leN 1 scope ++
    zeros 2 ++ deviceSerial ++ leN 4 16777216 ++ leN 4 1048576 ++ leN 4 4096 ++ leN 4 32768 ++ leN 2 32 ++ leN 2 keep ++
    leN 4 65536
  let snaps := snapCount s c.volume
  let vol := if scope = 1 then
      leN 4 c.volume ++ leN 4 v.domain ++ leN 8 ((rangeLimit s c.volume c.snap).getD 0) ++ leN 1 v.pref.num ++
        leN 1 (ownerOf s c.volume).num ++ leN 2 snaps ++ leN 1 (b2n v.mark.isSome)
    else []
  fit 256 (head ++ vol)

/-- IDENTIFY (R136): its record goes to host memory; the completion follows once it is sent. -/
def startIdentify (asn : Nat) (s : State) : State :=
  match cmdOf s asn with
  | none => s
  | some c =>
    let d := identifyBytes s c
    let q := qpOf s c.qpn
    let s := modCmd asn (fun c => { c with started := true }) s
    if connected s c then flushAll c.qpn (setQp c.qpn { q with toWrite := q.toWrite ++ [(asn, capRkey c, capAddr c, d)] } s)
    else s

/-- The tag of a command as its queue holds it. -/
def cmdTag (s : State) (c : Cmd) : LTag := tagOf (qpOf s c.qpn) c.tag

/-- A command enters step 3 (R77): it belongs to the current epoch and begins its work. -/
def enterStep3 (asn : Nat) (s : State) : State :=
  match cmdOf s asn with
  | none => s
  | some c =>
    let s := modCmd asn (fun c => { c with stage := .running, epoch := s.jrn.epoch.number }) s
    match c.opcode with
    | 1 => startWriter asn (msgData (cmdTag s c) (c.blocks * 4096)) s
    | 4 => startWriter asn [] s
    | 2 => if writerBefore s asn c then modCmd asn (fun c => { c with overlap := true }) s else startRead asn s
    | 6 => if writerBefore s asn c then modCmd asn (fun c => { c with overlap := true }) s else startRecall asn s
    | 3 =>
      let s := (tkeys s.plc.open_).foldl (fun s g => padShelf g s) s
      modCmd asn (fun c => { c with names := if c.volume = 0xFFFFFFFF then c.names else [c.volume] }) s
    | 7 => startIdentify asn s
    | 8 => decide_ asn .success (optime s % 2 ^ 32) s
    | _ => s

/-- Admit a held command whose message is complete, unless something holds it; the checks run again as it enters
(R147). -/
def letIn (asn : Nat) (s : State) : State :=
  match cmdOf s asn with
  | none => s
  | some c =>
    if c.stage ≠ .held ∨ !c.checked ∨ c.opcode = 5 ∨ heldNow s asn c then s
    else match againFails s c with
      | some (st, r) => decide_ asn st r s
      | none => enterStep3 asn s

/-- Admit what is held, in ASN order. -/
def admitAll (s : State) : State := (tkeys s.jrn.cmds).foldl (fun s asn => letIn asn s) s

/-- OVERLAP_RELEASE (R68): a reader held behind an earlier overlapping writer proceeds, unless its volume is on the move
(R114 step 2, R146). -/
def overlapRelease (asn : Nat) (s : State) : State :=
  match cmdOf s asn with
  | none => s
  | some c =>
    if !c.overlap ∨ c.stage ≠ .running ∨ writerBefore s asn c ∨ heldByMove s c then s
    else
      let s := modCmd asn (fun c => { c with overlap := false }) s
      match againFails s c with
      | some (st, r) => decide_ asn st r s
      | none => if c.opcode = 2 then startRead asn s else startRecall asn s

/-- ORDERED_BARRIER_RELEASE (R66): the commands of a queue that its barrier held enter step 3. -/
def barrierRelease (qpn : Nat) (s : State) : State :=
  (s.jrn.cmds.filter (fun e => decide (e.2.qpn = qpn))).foldl (fun s e => letIn e.1 s) s

/-! ### FLUSH (R71, R72) -/

/-- Is a unit in cold-frame form and checkpointed? -/
def unitFlushed (s : State) (u : UnitBook) : Bool :=
  u.applied && u.checkpointed && u.serials.all (fun k => match tget s.plc.placed k with
    | some p => copiesConfirmed s p
    | none => decide (((chunkOf s k).map (fun c => locCode c.loc.kind)).getD 1 = 1))

/-- May a FLUSH complete? -/
def flushDone (s : State) (asn : Nat) (c : Cmd) : Bool :=
  s.jrn.cmds.all (fun e => decide (asn ≤ e.1) || !isWriter e.2 || !c.names.contains e.2.volume) &&
    s.jrn.units.all (fun u => decide (asn ≤ u.asn) || !c.names.contains u.volume || unitFlushed s u)

/-- The shelves on which a chunk that a FLUSH covers lies in a page not programmed yet: its pages are filled up, so that
the FLUSH waits on no data of others (R72). -/
def padCovered (asn : Nat) (c : Cmd) (s : State) : State :=
  let serials := (s.jrn.units.filter (fun u => decide (u.asn < asn) && c.names.contains u.volume)).flatMap (·.serials)
  let gs := (serials.filterMap (fun k => (tget s.plc.placed k).bind (fun p =>
    if p.recorded ∨ copiesConfirmed s p then none else some p.shelf))).eraseDups
  gs.foldl (fun s g => padShelf g s) s

/-- FLUSHes and IDENTIFYs after any event. -/
def untrackedAdvance (s : State) : State :=
  s.jrn.cmds.foldl (fun s e =>
    let (asn, c) := e
    if c.stage ≠ .running then s
    else if c.opcode = 3 then if flushDone s asn c then decide_ asn .success 0 s else padCovered asn c s
    else if c.opcode = 7 ∧ !((qpOf s c.qpn).toWrite.any (fun w => decide (w.1 = asn))) then
      if connected s c then decide_ asn .success 256 s else decide_ asn .invalidField 0 s
    else s) s

/-! ### ABORT (R73 to R76, Table 3.3) -/

/-- Has a command passed its point of no return (R74), or its outcome? -/
def pastReturn (c : Cmd) : Bool :=
  decide (c.stage = .decided) || (if isWriter c then c.units.any (·.committed)
    else if c.opcode = 2 then c.started || c.taken && c.reads.any (·.delivered)
    else if c.opcode = 6 then c.started || c.holdId.isSome
    else true)

/-- Give up what a reader that ends holds: its fetches, its wake item. -/
def dropReader (asn : Nat) (s : State) : State :=
  let keep (f : Fetch) : Bool := match f.why with
    | .read a _ => decide (a ≠ asn)
    | _ => true
  { s with plc := { s.plc with fetches := tfilter (fun _ f => keep f) s.plc.fetches } }

/-- A command ends with a status before its outcome; nothing of it is applied. -/
def endEarly (asn : Nat) (st : Status) (s : State) : State := endCmd asn st 0 (dropReader asn s)

/-- The target of an ABORT: a command in progress with this queue, tag and CSN, on a queue of the same protection
domain (R73, R135). -/
def abortTarget (s : State) (asn : Nat) (c : Cmd) : Option (Nat × Cmd) :=
  let q := fieldLE c.capsule 16 8
  let pdOf (k : Nat) : Option Nat := (tget s.lat.queues k).map (·.pd)
  if (pdOf q).isNone ∨ pdOf q ≠ pdOf c.queueId then none
  else s.jrn.cmds.find? (fun e => decide (e.1 ≠ asn ∧ e.2.queueId = q ∧ e.2.tag = fieldLE c.capsule 8 1 ∧
    e.2.csn = fieldLE c.capsule 12 4))

/-- ABORT acts at one point (R73). -/
def runAbort (asn : Nat) (s : State) : State :=
  match cmdOf s asn with
  | none => s
  | some c =>
    match abortTarget s asn c with
    | none => decide_ asn .notFound 0 s
    | some (t, v) =>
      if pastReturn v then decide_ asn .tooLate 0 s
      else
        let s := modCmd asn (fun c => { c with target := some t }) s
        decide_ asn .success 0 (endEarly t .aborted s)

/-! ### A complete message (R144) -/

/-- The answer of Table 3.2 that is not a run: the table is left as it was and the command is no longer in progress. -/
def answerCsn (asn : Nat) (c : Cmd) (st : Status) (orig result : Nat) (s : State) : State :=
  let s := { s with jrn := { s.jrn with cmds := terase s.jrn.cmds asn } }
  answerMsg c.qpn c.tag c.csn c.opcode st orig result s

/-- Checks 1 to 6 of R144 on a command whose message is complete or has timed out: an outcome that ends it, if any. -/
def checkMessage (asn : Nat) (c : Cmd) (s : State) : Bool × State :=
  if s.pair.fenced then (true, answerCsn asn c .fenced 0 0 s)
  else match csnCheck s asn c with
    | .busy => (true, answerCsn asn c .busy 0 0 s)
    | .replayed st r => (true, answerCsn asn c .replayed st.code r s)
    | .invalid => (true, answerCsn asn c .invalidField 0 0 s)
    | .run =>
      let s := modCmd asn (fun c => { c with checked := true }) (seeCsn c.queueId c.csn s)
      match firstFails s c with
      | some (st, r) => (true, decide_ asn st r s)
      | none => (false, s)

/-- The row of a command with opcode op: its message on a tag is complete; checks 1 to 6 run, and it is admitted. -/
def runMessage (op qpn tag : Nat) (s : State) : State :=
  let g := tagOf (qpOf s qpn) tag
  match g.asn with
  | none => s
  | some asn => match cmdOf s asn with
    | none => s
    | some c =>
      if c.opcode ≠ op ∨ g.st ≠ .running ∨ c.checked ∨ c.stage ≠ .held then s
      else match checkMessage asn c s with
        | (true, s) => s
        | (false, s) =>
          let names := if c.opcode = 3 ∧ c.volume = 0xFFFFFFFF then myVols s else c.names
          let s := monBegin 4 asn (modCmd asn (fun c => { c with dataDone := true, stamp := s.mons.stamp, names := names }) s)
          if c.opcode = 5 then runAbort asn s else letIn asn s

/-! ### Epochs (Table 3.4) -/

/-- The writers of epoch k that move to epoch k + 1 (R78), in ASN order: one that has committed nothing and waits on an
earlier writer that had not entered step 3, or on one that moves itself. -/
def movers (s : State) : List Nat :=
  s.jrn.cmds.foldl (fun l e =>
    if isWriter e.2 && decide (e.2.stage = .running) && !e.2.units.any (·.committed) &&
        s.jrn.cmds.any (fun w => decide (w.1 < e.1 ∧ (w.2.stage = .held ∨ w.1 ∈ l)) && isWriter w.2 && sharesChunk w.2 e.2)
    then l ++ [e.1] else l) []

/-- Step 1: the epoch timer fires. -/
def epochTimer (s : State) : State :=
  let e := s.jrn.epoch
  if e.step ≠ 0 ∨ !s.jrn.serving ∨ s.jrn.restart ≠ .none ∨ s.jrn.stopped then s
  else
    let moved := movers s
    let cmds := tmap (fun asn c => if asn ∈ moved then { c with epoch := e.number + 1 } else c) s.jrn.cmds
    { s with jrn := { s.jrn with cmds := cmds, epoch := { e with step := 2, stamp := s.mons.stamp } } }

/-- Is epoch k drained (step 2)? -/
def epochDrained (s : State) : Bool :=
  let k := s.jrn.epoch.number
  s.jrn.cmds.all (fun e => !isWriter e.2 || decide (e.2.stage = .held ∨ e.2.epoch ≠ k)) &&
    s.jrn.own.all (fun r => decide (r.r.epoch ≠ k % 2 ^ 32) || recDone s r)

/-- The highest ASN of the current epoch. -/
def epochHigh (s : State) : Nat :=
  s.jrn.cmds.foldl (fun m e => if e.2.stage ≠ .held ∧ e.2.epoch = s.jrn.epoch.number then max m e.1 else m) s.jrn.epoch.high

/-- Steps 2 and 3: the drain ends and the marker is written. -/
def epochMark (s : State) : State :=
  if s.jrn.epoch.step ≠ 2 ∨ !epochDrained s then s
  else
    let (off, s) := writeLoose (.epochMarker (epochHigh s)) s
    { s with jrn := { s.jrn with epoch := { s.jrn.epoch with step := 3, marker := some off } } }

/-- Step 3 is complete: the epoch is durable (R79), and the next one begins. What takes effect at the boundary does so
before held commands are admitted. -/
def epochBegin (s : State) : State :=
  let e := s.jrn.epoch
  let (now, next) := match e.next with
    | some (ms, gib, k + 1) => if k = 0 then (some (ms, gib), none) else (none, some (ms, gib, k))
    | _ => (none, none)
  let s := match now with
    | some (ms, gib) => { s with gh := { s.gh with epochMs := BitVec.ofNat 16 ms }, jrn := { s.jrn with ownGib := gib } }
    | none => s
  let s := monCount 17 0 e.stamp s
  { s with jrn := { s.jrn with epoch := { e with
      number := e.number + 1, step := 0, marker := none, durable := some e.number, high := 0, next := next } } }

/-- Is step 3 complete? -/
def epochMarked (s : State) : Bool :=
  decide (s.jrn.epoch.step = 3) && (match s.jrn.epoch.marker with
    | some off => offDone s off
    | none => false)

/-! ### Flash-confirmed mode (R85) -/

/-- HOLD_OK falls: flash-confirmed mode, with an event. -/
def holdOkFall (s : State) : State :=
  let s := { s with ghx := { s.ghx with holdOk := false }, jrn := { s.jrn with holdHigh := false } }
  if s.jrn.flashMode then s else note 0x04 5 2 { s with jrn := { s.jrn with flashMode := true } }

/-- HOLD_OK rises: the 1 s qualification starts. -/
def holdOkRise (s : State) : State :=
  { s with ghx := { s.ghx with holdOk := true }, jrn := { s.jrn with holdHigh := true } }

/-- FLASH_CONFIRMED_EXIT: HOLD_OK has been high for 1 s and no undrained unit of the mode remains. -/
def flashExit (s : State) : State :=
  if s.jrn.holdHigh ∧ s.ghx.holdOk ∧ !s.dram.flashConf ∧ !s.ghx.keepUnfit ∧ s.jrn.units.all (fun u => !u.flashMode || u.serials.all (drained s)) then
    { s with jrn := { s.jrn with flashMode := false } }
  else s

/-! ### Message timers (R141, R142) -/

/-- Is a complete writer held by R85 with no peer? -/
def heldByMode (s : State) (c : Cmd) : Bool :=
  isWriter c && c.dataDone && decide (c.stage = .running) && !c.units.any (·.committed) && s.jrn.flashMode && !waitsPeer s &&
    decide (c.opcode = 1)

/-- The rest of a plain-mode SEND whose message has ended is discarded. -/
def dropPlain (qpn tag : Nat) (s : State) : State :=
  let q := qpOf s qpn
  if q.plainRx.tag = some tag then setQp qpn { q with plainRx := { q.plainRx with drop := true } } s else s

/-- MESSAGE_TIMER_EXPIRY: an incomplete message ends TIMEOUT, or with the check it is known to fail (R144); a held WRITE
ends TIMEOUT. -/
def messageTimer (qpn tag : Nat) (s : State) : State :=
  let g := tagOf (qpOf s qpn) tag
  match g.asn with
  | some asn => match cmdOf s asn with
    | some c =>
      if g.plainBuf then s
      else if g.st = .receiving then
        let s := dropPlain qpn tag (setTag qpn tag { g with st := .ending } s)
        match checkMessage asn c s with
        | (true, s) => s
        | (false, s) => endEarly asn .timeout s
      else if heldByMode s c then endEarly asn .timeout s
      else s
    | none => s
  | none =>
    if g.st = .receiving then answerMsg qpn tag 0 0 .timeout 0 0 (setTag qpn tag { g with st := .ending } s) else s

end Sys2Proof.Machine
end

