-- ==== Sys2Proof/Machine/Repl.lean ====
section
/-!
DEFINITION. Machine/Repl.lean: snapshots, the release of maps, and replication on both sides (R319 to R336).
-/
namespace Sys2Proof.Machine

/-! ### Snapshots -/

/-- The key of a snapshot in the snapshot table. -/
def snapKey (vol n : Nat) : Nat := vol * 8192 + n

/-- The snapshot numbers of a volume, rising. -/
def snapNums (s : State) (vol : Nat) : List Nat :=
  (s.rep.snaps.filter (fun e => decide (e.1 / 8192 = vol))).map (fun e => e.1 % 8192)

/-- The lowest free snapshot number of a volume (R332), if it has fewer than 4,096. -/
def freeSnap (s : State) (vol : Nat) : Option Nat :=
  let n := tfree s.rep.snaps (snapKey vol 1) 4096 % 8192
  if n ≤ 4096 then some n else none

/-- Replace a snapshot. -/
def setSnap (vol n : Nat) (x : Snap) (s : State) : State :=
  { s with rep := { s.rep with snaps := tset s.rep.snaps (snapKey vol n) x } }

/-- Update a snapshot. -/
def modSnap (vol n : Nat) (f : Snap → Snap) (s : State) : State :=
  { s with rep := { s.rep with snaps := tmod s.rep.snaps (snapKey vol n) f } }

/-- The map of a volume or snapshot goes once no reader uses it. -/
def dropLater (key : Nat) (job : Option Nat) (s : State) : State :=
  { s with rep := { s.rep with drops := s.rep.drops ++ [(key, job)] } }

/-- A deletion of a snapshot takes effect (R323). -/
def snapGone (vol n : Nat) (job : Option Nat) (s : State) : State :=
  dropLater (mapKey vol n) job (modSnap vol n (fun x => { x with deleting := true, gone := true }) s)

/-- Cut a snapshot at the boundary of epoch k (R320). -/
def cutSnap (k vol n : Nat) (s : State) : State :=
  let size := ((tget s.pair.arr.volumes vol).map (·.blocks)).getD 0
  let s := applyToCut vol n (copyMap (mapKey vol 0) (mapKey vol n) s)
  modSnap vol n (fun x => { x with pend := false, epoch := k, blocks := size, cutTime := optime s }) s

/-- Is a volume there and not deleted? -/
def volLives (s : State) (vol : Nat) : Bool := thas s.pair.arr.volumes vol && !s.pair.dying.contains vol

/-- The cuts of SNAP_CREATE jobs at the boundary of epoch k; a job with a deleted volume ends NOT_FOUND with no cut
(Table 11.4, log entry 20). -/
def cutJobs (k : Nat) (s : State) : State :=
  let due := s.rep.snapJobs.filter (fun j => j.2.all (fun v => !volLives s v.1 || ownsVol s v.1))
  let s := due.foldl (fun s j =>
    if j.2.all (fun v => volLives s v.1) then
      finishJob j.1 .success [] (j.2.foldl (fun s v => cutSnap k v.1 v.2 s) s)
    else
      finishJob j.1 .notFound [] { s with rep := { s.rep with
        snaps := tfilter (fun x _ => !(j.2.any (fun v => decide (snapKey v.1 v.2 = x)))) s.rep.snaps } }) s
  { s with rep := { s.rep with snapJobs := s.rep.snapJobs.filter (fun j => !(due.any (fun d => decide (d.1 = j.1)))) } }

/-- The deletions of SNAP_DELETE jobs at a boundary. -/
def deleteJobs (s : State) : State :=
  let due := s.rep.delJobs.filter (fun j => ownsVol s j.2.1)
  let s := due.foldl (fun s j => snapGone j.2.1 j.2.2 (some j.1) s) s
  { s with rep := { s.rep with delJobs := s.rep.delJobs.filter (fun j => !(due.any (fun d => decide (d.1 = j.1)))) } }

/-- Does a reader still use a map? -/
def mapInUse (s : State) (key : Nat) : Bool :=
  s.jrn.cmds.any (fun e => isReader e.2 && decide (e.2.stage = .running ∧ e.2.key = key) && !e.2.overlap && !e.2.taken)

/-- Release the maps that no reader uses any more; the last map of a job ends it, and a deleted volume leaves the array
record with its live map (R147, R322). -/
def dropsAdvance (s : State) : State :=
  let ready := s.rep.drops.filter (fun d => !mapInUse s d.1)
  ready.foldl (fun s d =>
    let vol := d.1 % 65536
    let n := d.1 / 65536
    let s := dropMap d.1 { s with rep := { s.rep with drops := s.rep.drops.filter (· ≠ d) } }
    let s :=
      if n = 0 then
        { s with
          pair := { s.pair with
            arr := { s.pair.arr with volumes := terase s.pair.arr.volumes vol }
            dying := s.pair.dying.filter (· ≠ vol), owned := terase s.pair.owned vol } }
      else { s with rep := { s.rep with snaps := terase s.rep.snaps (snapKey vol n) } }
    match d.2 with
    | some j => if s.rep.drops.any (fun e => decide (e.2 = some j)) then s else finishJob j .success [] s
    | none => s) s

/-- A deletion takes effect: the volume is gone for commands, and its maps wait for readers. -/
def deleteVol (vol job : Nat) (s : State) : State :=
  let s := { s with pair := { s.pair with dying := s.pair.dying ++ [vol] } }
  let s := (snapNums s vol).foldl (fun s n =>
    if (tget s.rep.snaps (snapKey vol n)).any (·.pend) then s else snapGone vol n (some job) s) s
  dropLater (mapKey vol 0) (some job) s

/-- A shrink releases what lies above the new size. Readers that need it finish on a copy of the map as it stood at the
boundary (R147), which goes with the last of them and ends the job. -/
def releaseAbove (vol blocks job : Nat) (s : State) : State :=
  let key := mapKey vol 0
  let needs (c : Cmd) : Bool := isReader c && !c.overlap && !c.taken && decide (c.stage = .running ∧ c.key = key ∧
    blocks < c.first + c.blocks)
  let cut (s : State) : State := applyRelease key blocks (2 ^ 42 - blocks) s
  if !(tvals s.jrn.cmds).any needs then finishJob job .success [] (cut s)
  else
    let n := maxBy (fun d => d.1 / 65536) (s.rep.drops.filter (fun d => decide (d.1 % 65536 = vol)))
    let old := mapKey vol (max 4096 n + 1)
    let s := copyMap key old s
    cut { s with
      jrn := { s.jrn with cmds := tmap (fun _ c => if needs c then { c with key := old } else c) s.jrn.cmds }
      rep := { s.rep with drops := s.rep.drops ++ [(old, some job)] } }

/-- A resize takes effect: the size, and the damage mark where asked; a shrink's blocks wait for the job. -/
def resizeVol (vol blocks : Nat) (clear : Bool) (job : Nat) (s : State) : State :=
  match tget s.pair.arr.volumes vol with
  | none => s
  | some v =>
    let s := changeArray (fun a => { a with volumes := tset a.volumes vol {
      v with blocks := blocks, mark := if clear then none else v.mark } }) s
    if blocks < v.blocks then releaseAbove vol blocks job s else s

/-! ### Replication: the source (R325, R326, R329, R330) -/

/-- A relationship as this head runs it. -/
def relOf (s : State) (r : Nat) : RelRun := tgetD s.rep.rels r {}

/-- Replace it. -/
def setRel (r : Nat) (v : RelRun) (s : State) : State := { s with rep := { s.rep with rels := tset s.rep.rels r v } }

/-- Does this head serve the relationship: it owns its volumes here? -/
def servesRel (s : State) (r : ReplRec) : Bool := r.vols.all (fun v => ownsVol s v.1)

/-- The leaf of a page of a map, and its entries. -/
def leafEnts (s : State) (key page : Nat) : Tab MapEnt :=
  match tget (tgetD s.map.maps key []) page with
  | some id => ((tget s.map.leaves id).map (·.ents)).getD []
  | none => []

/-- Join consecutive chunks into runs. -/
def runsOf : List Nat → List (Nat × Nat)
  | [] => []
  | c :: cs => match runsOf cs with
    | (a, n) :: rest => if a = c + 1 then (c, n + 1) :: rest else (c, 1) :: (a, n) :: rest
    | [] => [(c, 1)]

/-- The difference of two maps in chunk order (R325): pages that both name are skipped. -/
def diffMaps (s : State) (i : Nat) (base cur : Option Nat) : List StreamItem :=
  let pagesOf (k : Option Nat) : Tab Nat := (k.map (fun k => tgetD s.map.maps k [])).getD []
  let pages := (pagesOf cur).foldl (fun t p => tset t p.1 ()) ((pagesOf base).map (fun p => (p.1, ())))
  let ents (k : Option Nat) (p : Nat) : Tab MapEnt := (k.map (fun k => leafEnts s k p)).getD []
  let changed := pages.filter (fun p => decide (tget (pagesOf base) p.1 ≠ tget (pagesOf cur) p.1))
  let puts := changed.flatMap (fun p => (ents cur p.1).filter (fun e =>
    decide ((tget (ents base p.1) e.1).map (·.serial) ≠ some e.2.serial)))
  let gone := changed.flatMap (fun p => ((ents base p.1).map (·.1)).filter (fun c => !thas (ents cur p.1) c))
  let items := (puts.map (fun e => (e.1, StreamItem.chunk i e.1 e.2.serial))) ++
    ((runsOf gone).map (fun g => (g.1, StreamItem.unmap i g.1 g.2)))
  ((items.foldl (fun t e => tset t e.1 e.2) ([] : Tab StreamItem))).map (·.2)

/-- The stream of a batch: a fixed function of its snapshots (R325). -/
def streamOf (s : State) (r : ReplRec) (base cur : List Nat) : List StreamItem :=
  (r.vols.zipIdx.flatMap (fun e =>
    let vol := e.1.1
    let c := cur.getD e.2 0
    let b := base.getD e.2 0
    let size := ((tget s.rep.snaps (snapKey vol c)).map (·.blocks)).getD 0
    .start e.2 size :: diffMaps s e.2 (if b = 0 then none else some (mapKey vol b)) (some (mapKey vol c)))) ++ [.finish]

/-- Have the base snapshots of a relationship been lost (R331)? -/
def baseLost (s : State) (r : ReplRec) (v : RelRun) : Bool :=
  decide (0 < v.applied) && (v.cur.isEmpty || r.vols.zipIdx.any (fun e => !thas s.rep.snaps (snapKey e.1.1 (v.cur.getD e.2 0))))

/-- Ask for the link of a relationship. -/
def openLink (r : Nat) (s : State) : State := emit (.replConnect r) (setRel r { relOf s r with state := 2, linked := none } s)

/-- Give every source volume a replication snapshot, if each has a number free. -/
def newCuts (s : State) (r : ReplRec) : Option (List Nat) :=
  let ns := r.vols.map (fun v => freeSnap s v.1)
  if ns.all (·.isSome) then some (ns.map (fun n => n.getD 0)) else none

/-- The batches due at the boundary of epoch k (R325). -/
def cutBatches (k : Nat) (s : State) : State :=
  s.pair.arr.rels.foldl (fun s e =>
    let (rn, r) := e
    let v := relOf s rn
    if !r.source ∨ r.paused ∨ !servesRel s r ∨ v.batch ≠ 0 ∨ !r.vols.all (fun x => volLives s x.1) ∨
        ((0 < v.applied ∨ v.cur ≠ []) ∧ optime s < v.cutTime + r.interval) then s
    else if baseLost s r v ∧ !v.resync then setRel rn { v with state := 4 } s
    else match newCuts s r with
      | none => s
      | some ns =>
        let s := (r.vols.zip ns).foldl (fun s x => cutSnap k x.1.1 x.2 (setSnap x.1.1 x.2 { repl := true } s)) s
        let base := if v.resync ∨ v.applied = 0 then [] else v.cur
        let old := if base = [] then v.cur else []
        let s := (r.vols.zip old).foldl (fun s x => if thas s.rep.snaps (snapKey x.1.1 x.2) then snapGone x.1.1 x.2 none s else s) s
        let v' := { v with
          base := base, cur := ns, batch := v.applied + 1, resync := false, durable := 0, sent := 0, nextMsg := 1, total := 0
          bytes := 0, msgs := [], recs := [], sentSerials := [], reading := none, cutTime := optime s, cutEpoch := k
          todo := streamOf s r base ns, state := if v.linked.isSome then 1 else 2 }
        let s := setRel rn v' s
        if v.linked.isSome then s else openLink rn s) s

/-- The header of a stream record (Table 11.6). -/
def recHead (kind flags len index chunk : Nat) : Bytes :=
  leN 1 kind ++ leN 1 flags ++ leN 2 len ++ leN 4 index ++ leN 8 chunk

/-- The bytes of a stream record (Tables 11.6, 11.7). -/
def recBytes : StreamRec → Nat
  | .start .. => 24
  | .chunk _ _ _ p _ => 16 + p.length + 8
  | .ref .. => 24
  | .unmap .. => 24
  | .unreadable .. => 16
  | .finish _ => 24

/-- A stream record as bytes (Tables 11.6, 11.7). -/
def streamImage : StreamRec → Bytes
  | .start i n => recHead 1 0 8 i 0 ++ leN 8 n
  | .chunk i c raw p k => recHead 2 (b2n raw) (p.length + 8) i c ++ p ++ leN 8 k
  | .ref i c k => recHead 3 0 8 i c ++ leN 8 k
  | .unmap i c n => recHead 4 0 8 i c ++ leN 8 n
  | .unreadable i c => recHead 5 0 0 i c
  | .finish n => recHead 6 0 8 0 0 ++ leN 8 n

/-- The tag of a message: up to 32 may be in flight, and the next of them takes its number's (log entry 136). -/
def replTag (no : Nat) : Nat := (no - 1) % 32

/-- A replication message as bytes: the capsule of Table 11.5, then its records. -/
def replImage (m : ReplMsg) : Bytes :=
  let body := (m.records.map streamImage).flatten
  leN 1 0x20 ++ zeros 1 ++ leN 1 (replTag m.msgNo) ++ zeros 1 ++ leN 4 m.msgNo ++ leN 2 m.relationship ++ zeros 2 ++
    leN 4 m.records.length ++ leN 8 m.batch ++ leN 8 m.sourceEpoch ++ leN 4 body.length ++ leN 4 (crc32c body) ++
    m.sourceArray ++ zeros 8 ++ body

/-- A probe as bytes (Table 11.5): no records, message number 0. -/
def probeImage (rn batch epoch : Nat) (array : Bytes) : Bytes :=
  leN 1 0x20 ++ leN 1 1 ++ zeros 6 ++ leN 2 rn ++ zeros 6 ++ leN 8 batch ++ leN 8 epoch ++ zeros 4 ++ leN 4 (crc32c []) ++
    array ++ zeros 8

/-- Close the message being built (log entry 21: a message is closed when the next record would pass 16 MiB). -/
def closeMsg (rn : Nat) (s : State) : State :=
  let v := relOf s rn
  if v.recs = [] then s
  else
    let m : ReplMsg := {
      relationship := rn, batch := v.batch, msgNo := v.nextMsg, sourceEpoch := v.cutEpoch, sourceArray := s.pair.arr.arrayId
      checkOk := true, records := v.recs }
    setRel rn { v with msgs := tset v.msgs v.nextMsg m, nextMsg := v.nextMsg + 1, recs := [] } s

/-- Add a record to the stream. -/
def putRec (rn : Nat) (r : StreamRec) (s : State) : State :=
  let v := relOf s rn
  let s := if 16777216 < sumBy recBytes v.recs + recBytes r then closeMsg rn s else s
  let v := relOf s rn
  setRel rn { v with recs := v.recs ++ [r], total := v.total + 1, bytes := v.bytes + recBytes r } s

/-- Step on to the next item. -/
def nextTodo (rn : Nat) (s : State) : State :=
  let v := relOf s rn
  setRel rn { v with todo := v.todo.drop 1, reading := none, mask := 0, blocks := [] } s

/-- Ask for the wake of a shelf that a batch's read needs: a background item with the next interval as its deadline. -/
def wantBatchWake (rn g : Nat) (s : State) : State :=
  if (shelfOf s g).st ≠ .off ∨ (tvals s.plc.items).any (fun i => decide (i.work = .wake ∧ i.shelf = g)) then s
  else addItem .background g .wake (((tget s.pair.arr.rels rn).map (·.interval)).orElse (fun _ => some 86400)) s

/-- Read a layer of a chunk of the batch, or wait for its shelf. -/
def readLayer (rn serial : Nat) (s : State) : State :=
  match chunkOf s serial with
  | none => s
  | some c =>
    let go (s : State) : State :=
      let n := s.plc.fetchCount
      startFetch serial (.repl rn) (setRel rn { relOf s rn with reading := some n } s)
    match c.loc.kind with
    | .flash g .. => if readableNow s serial c.loc then go s else wantBatchWake rn g s
    | _ => go s

/-- One step of building a stream. -/
def buildStep (rn : Nat) (s : State) : State :=
  let v := relOf s rn
  match v.todo with
  | [] => s
  | .start i n :: _ => nextTodo rn (putRec rn (.start i n) s)
  | .unmap i c n :: _ => nextTodo rn (putRec rn (.unmap i c n) s)
  | .finish :: _ =>
    nextTodo rn (closeMsg rn (putRec rn (.finish (v.total + 1)) s))
  | .chunk i c serial :: _ =>
    if v.sentSerials.contains serial then nextTodo rn (putRec rn (.ref i c serial) s)
    else match v.reading with
      | some _ => s
      | none => readLayer rn serial s

/-- A read for a batch has ended: the payload goes out as stored; an overlay goes on with its base and is merged (R326);
a chunk that cannot be read is sent UNREADABLE (R318). -/
def replArrived (s : State) : State :=
  s.plc.fetches.foldl (fun s e => match e.2.why, e.2.res with
    | .repl rn, some r =>
      let v := relOf s rn
      let held := s
      let s := dropFetch e.1 s
      if v.reading ≠ some e.1 then s
      else match v.todo with
        | .chunk i c serial :: _ =>
          (match r with
            | .fails _ => nextTodo rn (putRec rn (.unreadable i c) s)
            | .got env region =>
              let h := envOf env
              match keyPair s h.domain h.version with
              | none => nextTodo rn (putRec rn (.unreadable i c) s)
              | some k =>
                let s := markRecovered e.1 env region held
                let s := dropFetch e.1 s
                let plain := xtsRegion false (slotKey s k) (slotKey s (k + 1)) h.serial 0 region
                let sent (raw : Bool) (p : Bytes) (s : State) : State :=
                  let s := putRec rn (.chunk i c raw p serial) s
                  nextTodo rn (setRel rn { relOf s rn with sentSerials := serial :: (relOf s rn).sentSerials } s)
                if !h.overlay ∧ v.mask = 0 then sent h.raw (plain.take (h.payloadLen + 8)) s
                else match openPlain h plain with
                  -- the output fails its check: the next source is tried (R196)
                  | .error .noKey => nextTodo rn (putRec rn (.unreadable i c) s)
                  | .error (.check tooLong) => failSource e.1 true (countDecomp tooLong held)
                  | .ok data =>
                    let add := (blocksOf h.mask data).filter (fun b => !v.mask.testBit b.1)
                    let blocks := add.foldl (fun t b => tset t b.1 b.2) v.blocks
                    let mask := v.mask ||| h.mask
                    let base := if h.overlay then ((chunkOf s h.serial).map (·.base)).getD (fieldLE h.fp 8 8) else 0
                    if mask ≠ 255 ∧ base ≠ 0 then
                      readLayer rn base (setRel rn { v with mask := mask, blocks := blocks, reading := none } s)
                    else
                      let full := ((List.range 8).map (fun b => tgetD blocks b (zeros 4096))).flatten
                      let (p, raw) := choosePayload true full
                      sent raw (p ++ trailer full) s)
        | _ => s
    | _, _ => s) s

/-- Send the messages that may go: up to 32 not durable (R324). -/
def sendMsgs (rn : Nat) (s : State) : State :=
  let v := relOf s rn
  if v.linked.isNone ∨ v.state ≠ 1 then s
  else
    let ms := v.msgs.filter (fun m => decide (v.sent < m.1 ∧ m.1 ≤ v.durable + 32))
    let s := ms.foldl (fun s m => emit (.repl rn m.2 (replImage m.2)) s) s
    setRel rn { v with sent := max v.sent (maxBy (·.1) ms) } s

/-- A batch is applied (R329): the base snapshots go, and its cut is the next base. -/
def batchApplied_ (rn : Nat) (r : ReplRec) (s : State) : State :=
  let v := relOf s rn
  let s := (r.vols.zip v.base).foldl (fun s x => snapGone x.1.1 x.2 none s) s
  setRel rn { v with
    base := [], batch := 0, applied := v.batch, appliedCut := v.cutTime, state := 0, msgs := [], recs := [], todo := []
    sentSerials := [], reading := none } s

/-- A completion or the answer of a probe reaches the source (R324, R329, R330). -/
def replCompletion (rn msgNo : Nat) (st : Status) (durable applied : Nat) (probe : Bool) (s : State) : State :=
  match tget s.pair.arr.rels rn with
  | none => s
  | some r =>
    let v := relOf s rn
    if !r.source ∨ v.batch = 0 then s
    else if st = .notOwner then
      openLink rn (setRel rn { v with tryB := !v.tryB, reopens := satAdd 32 v.reopens 1 } s)
    else if probe then
      if applied = v.batch % 2 ^ 32 then batchApplied_ rn r s
      else sendMsgs rn (setRel rn { v with durable := durable, sent := durable, state := 1 } s)
    else if st = .success then
      let v := { v with durable := max v.durable durable }
      let last := v.todo.isEmpty ∧ v.recs.isEmpty ∧ msgNo + 1 = v.nextMsg
      let s := setRel rn v s
      if last then batchApplied_ rn r s else sendMsgs rn s
    else if st = .lengthMismatch ∧ msgNo + 1 = v.nextMsg then
      sendMsgs rn (setRel rn { v with durable := 0, sent := 0 } s)
    else sendMsgs rn (setRel rn { v with sent := max v.durable durable, durable := max v.durable durable } s)

/-- REPLICATION_LINK_REPLY (R330): a link that reopens for a batch in flight is probed first. -/
def linkReply (rn : Nat) (st : Status) (qpn : Nat) (s : State) : State :=
  match tget s.pair.arr.rels rn with
  | none => s
  | some r =>
    let v := relOf s rn
    if !r.source ∨ v.state ≠ 2 then s
    else if st = .success then
      let s := setRel rn { v with linked := some qpn, state := if v.batch = 0 then 0 else 1 } s
      if v.batch ≠ 0 ∧ 0 < v.reopens then emit (.replProbe rn v.batch (probeImage rn v.batch v.cutEpoch s.pair.arr.arrayId)) s else sendMsgs rn s
    else
      openLink rn (setRel rn { v with tryB := if st = .notOwner then !v.tryB else v.tryB, reopens := satAdd 32 v.reopens 1 } s)

/-- The link of a relationship is lost: the source reopens it (R330). -/
def linkLost (qpn : Nat) (s : State) : State :=
  s.rep.rels.foldl (fun s e =>
    if e.2.linked = some qpn then
      let s := setRel e.1 { e.2 with linked := none, reopens := satAdd 32 e.2.reopens 1 } s
      if e.2.batch = 0 then s else openLink e.1 s
    else s) s

/-! ### Replication: the target (R327 to R329) -/

/-- Answer a message or probe with one completion (R324): its csn is msg_no, its opcode 0x20, its result the highest durable
msg_no and its epoch the low 32 bits of the last batch applied. -/
def replReply (qpn tag no : Nat) (st : Status) (durable applied : Nat) (s : State) : State :=
  emit (.replAnswer qpn tag st durable applied (completion no tag st 0x20 0 durable (applied % 2 ^ 32))) s

/-- Answer a message of a relationship. -/
def replAnswer (rn qpn tag no : Nat) (st : Status) (s : State) : State :=
  let v := relOf s rn
  replReply qpn tag no st v.durable v.applied s

/-- The decompressed bytes of a received payload, if its trailer check passes. -/
def openReceived (raw : Bool) (p : Bytes) : Option Bytes :=
  let e : Env := { raw := raw, overlay := false, mask := 255, domain := 0, version := 0, serial := 0,
                   payloadLen := p.length - 8, grains := 0, fp := [] }
  match openPlain e p with
  | .ok d => some d
  | .error _ => none

/-- The local volume at an index of a relationship. -/
def relVol (r : ReplRec) (i : Nat) : Nat := ((r.vols[i]?).map (·.1)).getD 65536

/-- The records that one internal writer takes: the same volume, one record a chunk, and no reference to a chunk that the
writer itself stores. -/
def takeRun (v : RelRun) : Option Nat → List Nat → List StreamRec → List StreamRec
  | _, _, [] => []
  | vol, serials, r :: rs =>
    let go (i : Nat) (ok : Bool) (serials : List Nat) : List StreamRec :=
      if ok && decide (vol = none ∨ vol = some i) then r :: takeRun v (some i) serials rs else []
    match r with
    | .chunk i _ _ _ k => go i true (k :: serials)
    | .ref i _ k => go i (!serials.contains k) serials
    | .unmap i _ _ => go i true serials
    | .unreadable i _ => go i true serials
    | .start _ _ => []
    | .finish _ => []

/-- The chunk work of a record. -/
def recWork (s : State) (v : RelRun) (domain : Nat) : StreamRec → Option ChunkWork
  | .chunk _ c raw p _ =>
    let body := p.take (p.length - 8)
    let foreign := !raw && !ownStyle 32768 body
    (openReceived raw p).map (fun d => { chunk := c, unit := 0, mask := 255, data := d, domain := domain, received := some (body, raw), migrated := foreign })
  | .ref _ c k =>
    let w : ChunkWork := { chunk := c, unit := 0, mask := 255, data := [], domain := domain, stage := .encrypt }
    let serial := tgetD v.serials k 0
    if serial = 0 then some { w with cls := .zero }
    else (chunkOf s serial).map (fun k => { w with cls := .reference serial k.loc })
  | _ => none

/-- Store a run of records of one volume by an internal writer, with its own ASN and one commit unit (R328). -/
def storeRun (rn : Nat) (r : ReplRec) (st : Storing) (run : List StreamRec) (i : Nat) (s : State) : State :=
  let v := relOf s rn
  let vol := relVol r i
  let key := mapKey vol 0
  let asn := s.jrn.asn + 1
  let works := run.filterMap (recWork s v (volDomain s vol))
  let unmaps := run.filterMap (fun x => match x with
    | .unmap _ c n => some (8 * c, 8 * n)
    | _ => none)
  let lo := works.foldl (fun m w => min m (8 * w.chunk)) ((unmaps.head?.map (·.1)).getD (2 ^ 42))
  let hi := max (maxBy (fun w => 8 * w.chunk + 8) works) (maxBy (fun u => u.1 + u.2) unmaps)
  let pairs := run.filterMap (fun x => match x with
    | .chunk _ c _ _ k => some (vol, c, k)
    | _ => none)
  let marks := run.filterMap (fun x => match x with
    | .unreadable _ c => some (key, c)
    | _ => none)
  let touched := works.map (fun w => (key, w.chunk))
  let clear (u : Nat × Nat) : Bool := touched.contains u || unmaps.any (fun m => decide (u.1 = key ∧ m.1 ≤ 8 * u.2 ∧ 8 * u.2 < m.1 + m.2))
  let s := { s with rep := { s.rep with unreadable := s.rep.unreadable.filter (fun u => !clear u) ++ marks } }
  if works = [] ∧ unmaps = [] then
    setRel rn { relOf s rn with storing := some { st with rest := st.rest.drop run.length }, got := v.got + run.length } s
  else
    let c : Cmd := {
      qpn := 16384, tag := 0, queueId := 0, csn := 0, crc := 0, opcode := 1, capsule := [], volume := vol, first := lo
      blocks := hi - lo, stage := .running, epoch := s.jrn.epoch.number, dataDone := true, checked := true
      units := [{ first := lo, blocks := hi - lo }], chunks := works, internal := some rn }
    let s := { s with jrn := { s.jrn with asn := asn, cmds := tset s.jrn.cmds asn c } }
    let s := unmaps.foldl (fun s u => (writeRec asn 0 1 false (.release vol u.1 u.2) s).2) s
    setRel rn { relOf s rn with
      got := v.got + run.length
      storing := some { st with rest := st.rest.drop run.length, asn := some asn, pairs := pairs } } s

/-- Begin the records of a message, or answer what cannot be stored. -/
def beginMsg (rn qpn tag : Nat) (m : ReplMsg) (s : State) : State :=
  let bad := m.records.any (fun r => match r with
    | .chunk _ _ raw p _ => (openReceived raw p).isNone
    | _ => false)
  if bad then replAnswer rn qpn tag m.msgNo .integrity s
  else setRel rn { relOf s rn with storing := some { no := m.msgNo, qpn := qpn, tag := tag, rest := m.records } } s

/-- Discard the working map back to the replica point (R329). -/
def backToPoint (r : ReplRec) (s : State) : State :=
  r.vols.foldl (fun s v => match replicaPoint s v.1 with
    | some n => copyMap (mapKey v.1 n) (mapKey v.1 0) (dropMap (mapKey v.1 0) s)
    | none => dropMap (mapKey v.1 0) s) s

/-- Store the next records of a relationship's message, or finish the message. -/
def storeStep (rn : Nat) (s : State) : State :=
  match tget s.pair.arr.rels rn, (relOf s rn).storing with
  | some r, some st =>
    let v := relOf s rn
    (match st.asn with
    | some a =>
      if thas s.jrn.cmds a ∨ s.jrn.deferredMaps.any (fun d => decide (d.1 = a)) then s
      else
        let serials := st.pairs.foldl (fun t p => tset t p.2.2 (getEnt s (mapKey p.1 0) p.2.1).serial) v.serials
        setRel rn { v with serials := serials, storing := some { st with asn := none, pairs := [] } } s
    | none => match st.rest with
      | [] =>
        let s := setRel rn { v with storing := none, durable := st.no } s
        replAnswer rn st.qpn st.tag st.no .success s
      | .start i n :: rest =>
        -- the target volume takes the source volume's size with the batch
        let vol := relVol r i
        let s := match tget s.pair.arr.volumes vol with
          | some x => if x.blocks = n then s else changeArray (fun a => { a with volumes := tset a.volumes vol { x with blocks := n } }) s
          | none => s
        setRel rn { v with storing := some { st with rest := rest }, got := v.got + 1 } s
      | .finish total :: _ =>
        let s := setRel rn { v with storing := none } s
        if total ≠ v.got + 1 then
          let s := backToPoint r (setRel rn { v with storing := none, got := 0, durable := 0, serials := [], held := [] } s)
          replAnswer rn st.qpn st.tag st.no .lengthMismatch s
        else setRel rn { v with storing := none, durable := st.no, endWait := some (st.qpn, st.tag, st.no) } s
      | rest =>
        let run := takeRun v none [] rest
        match rest.head? with
        | some (.chunk i ..) => storeRun rn r st run i s
        | some (.ref i ..) => storeRun rn r st run i s
        | some (.unmap i ..) => storeRun rn r st run i s
        | some (.unreadable i ..) => storeRun rn r st run i s
        | _ => s)
  | _, _ => s

/-- The next message held above a gap, when its turn has come. -/
def nextHeld (rn : Nat) (s : State) : State :=
  let v := relOf s rn
  if v.storing.isSome ∨ v.endWait.isSome then s
  else match tget v.held (v.durable + 1) with
    | none => s
    | some (qpn, tag, m) => beginMsg rn qpn tag m (setRel rn { v with held := terase v.held (v.durable + 1) } s)

/-- REPLICATION_MESSAGE (R328). -/
def replMessage (qpn tag : Nat) (m : ReplMsg) (s : State) : State :=
  let rn := m.relationship
  match tget s.pair.arr.rels rn with
  | none => replReply qpn tag m.msgNo .notFound 0 0 s
  | some r =>
    let v := relOf s rn
    if r.source ∨ (qpOf s qpn).st ≠ .open_ ∨ (qpOf s qpn).pd ≠ r.pd then s
    else if !servesRel s r then replAnswer rn qpn tag m.msgNo .notOwner s
    else if !m.checkOk then replAnswer rn qpn tag m.msgNo .integrity s
    else
      let s := if m.batch ≠ v.batch ∧ m.batch ≠ v.applied then
          setRel rn { v with batch := m.batch, durable := 0, got := 0, bytes := 0, serials := [], held := [], state := 1, storing := none,
                             cutEpoch := m.sourceEpoch } s
        else s
      let v := relOf s rn
      if m.batch = v.applied ∨ m.msgNo ≤ v.durable then
        if v.endWait.any (fun e => decide (e.2.2 = m.msgNo)) then s else replAnswer rn qpn tag m.msgNo .success s
      else
        let s := setRel rn { v with bytes := v.bytes + sumBy recBytes m.records } s
        let v := relOf s rn
        if m.msgNo = v.durable + 1 ∧ v.storing.isNone ∧ v.endWait.isNone then beginMsg rn qpn tag m s
        else if v.storing.any (fun x => decide (x.no = m.msgNo)) ∨ thas v.held m.msgNo ∨ 32 ≤ v.held.length then s
        else setRel rn { v with held := tset v.held m.msgNo (qpn, tag, m) } s

/-- REPLICATION_PROBE (R330). -/
def replProbe (qpn tag rn batch : Nat) (s : State) : State :=
  match tget s.pair.arr.rels rn with
  | none => replReply qpn tag 0 .notFound 0 0 s
  | some r =>
    let v := relOf s rn
    if r.source ∨ (qpOf s qpn).st ≠ .open_ then s
    else if !servesRel s r then replAnswer rn qpn tag 0 .notOwner s
    else replReply qpn tag 0 .success (if batch = v.batch then v.durable else 0) v.applied s

/-- New replica points at the boundary of epoch k (R329): the batch is applied and its END acknowledged. -/
def cutPoints (k : Nat) (s : State) : State :=
  s.pair.arr.rels.foldl (fun s e =>
    let (rn, r) := e
    let v := relOf s rn
    match v.endWait with
    | none => s
    | some (qpn, tag, no) =>
      if r.source ∨ !servesRel s r ∨ !r.vols.all (fun x => (freeSnap s x.1).isSome) then s
      else
        let s := r.vols.foldl (fun s x =>
          let old := replicaPoint s x.1
          let n := (freeSnap s x.1).getD 1
          let s := match old with
            | some o => snapGone x.1 o none (modSnap x.1 o (fun y => { y with replica := false }) s)
            | none => s
          cutSnap k x.1 n (setSnap x.1 n { replica := true } s)) s
        let s := setRel rn { relOf s rn with
          endWait := none, applied := v.batch, appliedCut := optime s, batch := 0, state := 0, got := 0, serials := [] } s
        replAnswer rn qpn tag no .success s) s

/-- Replication after any event: a bounded number of stream and store steps. -/
def replAdvance (s : State) : State :=
  (tkeys s.pair.arr.rels).foldl (fun s rn =>
    let n := 4 * (relOf s rn).todo.length + 1
    let s := (List.range (min n 4096)).foldl (fun s _ => buildStep rn s) (replArrived s)
    let s := sendMsgs rn s
    let k := 2 * (((relOf s rn).storing.map (fun x => x.rest.length)).getD 0) + 4
    nextHeld rn ((List.range k).foldl (fun s _ => storeStep rn s) (nextHeld rn s))) s

/-! ### Basmos (R332 to R336) -/

/-- SNAP_CREATE's request: a count, and as many volumes. -/
def snapCreateLayout (p : Bytes) : Bool :=
  decide (4 ≤ p.length) && zeroAt p 1 3 && within 1 32 (fieldLE p 0 1) && decide (p.length = 4 + 4 * fieldLE p 0 1)

def snapCreateH (p : Bytes) (s : State) : BAns × State :=
  let vols := (List.range (fieldLE p 0 1)).map (fun i => fieldLE p (4 + 4 * i) 4)
  if vols.eraseDups.length ≠ vols.length then refuse .invalidField s
  else if !vols.all (volLives s) then refuse .notFound s
  else if !vols.all (ownsVol s) then refuse .notOwner s
  else if !vols.all (fun v => (freeSnap s v).isSome) then refuse .exhausted s
  else match startJob 0x0C00 0 0 s with
    | none => refuse .exhausted s
    | some (k, s) =>
      let ns := vols.map (fun v => (freeSnap s v).getD 0)
      let s := (vols.zip ns).foldl (fun s x => setSnap x.1 x.2 {} s) s
      let s := { s with rep := { s.rep with snapJobs := s.rep.snapJobs ++ [(k, vols.zip ns)] } }
      (.now { status := .success, payload := leN 4 (jobNo k) ++ (ns.map (leN 2)).flatten, async := true }, s)

def snapDeleteH (p : Bytes) (s : State) : BAns × State :=
  let vol := fieldLE p 0 4
  let n := fieldLE p 4 2
  match tget s.rep.snaps (snapKey vol n) with
  | none => refuse .notFound s
  | some x =>
    if 65536 ≤ vol ∨ !volLives s vol ∨ x.gone ∨ x.deleting then refuse .notFound s
    else if !ownsVol s vol then refuse .notOwner s
    else if x.repl ∨ x.replica then refuse .denied s
    else withJob 0x0C01 vol n s (fun k s =>
      let s := modSnap vol n (fun x => { x with deleting := true }) s
      { s with rep := { s.rep with delJobs := s.rep.delJobs ++ [(k, vol, n)] } })

/-- One entry of SNAP_LIST. -/
def snapEntry (n : Nat) (x : Snap) : Bytes :=
  leN 2 n ++ leN 1 (b2n x.repl + 2 * b2n x.replica + 4 * b2n x.pend + 8 * b2n x.deleting) ++ zeros 1 ++ leN 8 x.epoch ++
    leN 8 x.blocks ++ leN 4 x.cutTime

def snapListH (p : Bytes) (s : State) : BAns × State :=
  let vol := fieldLE p 0 4
  if 65536 ≤ vol ∨ !volLives s vol then refuse .notFound s
  else
    let all := (s.rep.snaps.filter (fun e => decide (e.1 / 8192 = vol ∧ fieldLE p 4 2 ≤ e.1 % 8192)))
    let now := all.take 17
    let next := match (all.drop 17).head? with
      | some e => e.1 % 8192
      | none => 0xFFFFFFFF
    (.now (.ok (leN 2 now.length ++ zeros 2 ++ leN 4 next ++ (now.map (fun e => snapEntry (e.1 % 8192) e.2)).flatten)), s)

/-- REPL_CONFIG's request: 64 bytes and 8 for each volume. -/
def replConfigLayout (p : Bytes) : Bool :=
  decide (64 ≤ p.length) && zeroAt p 10 6 && decide (fieldLE p 0 1 ≤ 4) &&
    (if fieldLE p 0 1 ≤ 1 then within 1 32 (fieldLE p 1 1) && decide (p.length = 64 + 8 * fieldLE p 1 1)
     else decide (p.length = 64 + 8 * fieldLE p 1 1))

/-- Release every snapshot of a relationship (R335). -/
def freeRel (rn : Nat) (r : ReplRec) (s : State) : State :=
  let v := relOf s rn
  let s := if r.source then
      ((r.vols.zip v.base) ++ (r.vols.zip v.cur)).foldl (fun s x =>
        if (tget s.rep.snaps (snapKey x.1.1 x.2)).any (fun y => !y.gone) then snapGone x.1.1 x.2 none s else s) s
    else
      -- the volumes stand at their replica point
      let s := backToPoint r s
      r.vols.foldl (fun s x => match replicaPoint s x.1 with
        | some n => snapGone x.1 n none (modSnap x.1 n (fun y => { y with replica := false }) s)
        | none => s) s
  { s with rep := { s.rep with rels := terase s.rep.rels rn } }

/-- A relationship leaves the array record: the head that serves it releases its snapshots. -/
def leaveRel (rn : Nat) (r : ReplRec) (s : State) : State :=
  if servesRel s r then freeRel rn r s else { s with rep := { s.rep with rels := terase s.rep.rels rn } }

def replConfigH (p : Bytes) (s : State) : BAns × State :=
  let op := fieldLE p 0 1
  let rn := fieldLE p 2 2
  if 1024 ≤ rn then refuse .invalidField s
  else if op ≤ 1 then
    let vols := (List.range (fieldLE p 1 1)).map (fun i => (fieldLE p (64 + 8 * i) 4, fieldLE p (68 + 8 * i) 4))
    let prefs := (vols.map (fun v => (tget s.pair.arr.volumes v.1).map (·.pref))).eraseDups
    if (op = 0 ∧ !within 1 86400 (fieldLE p 4 4)) ∨ 4096 ≤ fieldLE p 8 2 ∨ thas s.pair.arr.rels rn ∨
        (vols.map (·.1)).eraseDups.length ≠ vols.length then
      if 1024 ≤ s.pair.arr.rels.length then refuse .exhausted s else refuse .invalidField s
    else if !vols.all (fun v => volLives s v.1) then refuse .notFound s
    else if prefs.length ≠ 1 ∨ s.pair.arr.rels.any (fun e => e.2.vols.any (fun x => vols.any (fun v => decide (v.1 = x.1)))) then
      refuse .denied s
    else
      let r : ReplRec := {
        source := decide (op = 0), paused := false, interval := fieldLE p 4 4, pd := fieldLE p 8 2
        remoteArray := bslice p 16 16, addrA := bslice p 32 16, addrB := bslice p 48 16, vols := vols }
      (.now .ok, changeArray (fun a => { a with rels := tset a.rels rn r }) s)
  else match tget s.pair.arr.rels rn with
    | none => refuse .notFound s
    | some r =>
      if op = 2 then (.now .ok, changeArray (fun a => { a with rels := terase a.rels rn }) (leaveRel rn r s))
      else (.now .ok, changeArray (fun a => { a with rels := tset a.rels rn { r with paused := decide (op = 3) } }) s)

def replStatusH (p : Bytes) (s : State) : BAns × State :=
  let rn := fieldLE p 0 2
  match tget s.pair.arr.rels rn with
  | none => refuse .notFound s
  | some r =>
    let v := relOf s rn
    let st := if v.state = 4 then 4 else if r.paused ∧ v.batch = 0 then 3 else v.state
    (.now (.ok (leN 1 (b2n (!r.source)) ++ leN 1 st ++ zeros 2 ++ leN 4 v.durable ++ leN 8 v.applied ++ leN 8 v.batch ++
      leN 8 v.bytes ++ leN 4 (satW 32 (optime s - v.appliedCut)) ++ leN 4 v.reopens ++ zeros 8)), s)

def replResyncH (p : Bytes) (s : State) : BAns × State :=
  let rn := fieldLE p 0 2
  if !thas s.pair.arr.rels rn then refuse .notFound s
  else
    let v := relOf s rn
    (.now .ok, setRel rn { v with resync := true, state := if v.state = 4 then 0 else v.state } s)

end Sys2Proof.Machine
end

