-- ==== Sys2Proof/Machine/Mirror.lean ====
section
/-!
DEFINITION. Machine/Mirror.lean: the Footbridge as it receives and resends, receipts, the mirror region and what
Table 3.11 decides from a region (R81, R89, R97 to R103, R255).
-/
namespace Sys2Proof.Machine

/-! ### Receiving segments (R98, R99) -/

/-- Send a RECEIPT: the cumulative number and up to 32 ranges above it (R100). -/
def sendReceipt (s : State) : State :=
  let runs := (runsOf (s.ftb.rxAbove)).map (fun r => (r.1, r.1 + r.2 - 1))
  ftbControl (.receipt s.ftb.rxCum (runs.take 32)) s

/-- Has a message been receipted? -/
def receipted (s : State) (id : Nat) : Bool := decide (id ≤ s.ftb.rxCum) || s.ftb.rxAbove.contains id

/-- Advance the cumulative number over the messages receipted above it. -/
def advanceCum : Nat → Nat → List Nat → Nat × List Nat
  | 0, c, l => (c, l)
  | k + 1, c, l => if l.contains (c + 1) then advanceCum k (c + 1) (l.filter (· ≠ c + 1)) else (c, l)

/-- A message is marked as receipted. -/
def countMsg (id : Nat) (s : State) : State :=
  let l := if receipted s id then s.ftb.rxAbove else (insert id s.ftb.rxAbove)
  let (c, l) := advanceCum (l.length + 1) s.ftb.rxCum l
  { s with ftb := { s.ftb with rxCum := c, rxAbove := l, rx := terase s.ftb.rx id } }
where
  /-- Keep the list rising. -/
  insert (x : Nat) : List Nat → List Nat
    | [] => [x]
    | y :: ys => if x < y then x :: y :: ys else y :: insert x ys

/-- A message is receipted: it is marked, and the receipt goes out. -/
def giveReceipt (id : Nat) (s : State) : State := sendReceipt (countMsg id s)

/-- The bytes placed of a message: the number of distinct bytes below its length that its segments cover. -/
def placedLen (ps : List (Nat × Nat)) : Nat :=
  ((ps.foldl (fun t p => if (tget t p.1).getD 0 < p.2 then tset t p.1 p.2 else t) ([] : Tab Nat)).foldl
    (fun (acc : Nat × Nat) p =>
      let lo := max acc.2 p.1
      let hi := max acc.2 (p.1 + p.2)
      (acc.1 + (hi - lo), hi)) (0, 0)).1

/-- The byte ranges of a message that are missing below n. -/
def missing (ps : List (Nat × Nat)) (n : Nat) : List (Nat × Nat) :=
  let t := ps.foldl (fun t p => if (tget t p.1).getD 0 < p.2 then tset t p.1 p.2 else t) ([] : Tab Nat)
  let (gaps, hi) := t.foldl (fun (acc : List (Nat × Nat) × Nat) p =>
    (if acc.2 < p.1 then acc.1 ++ [(acc.2, p.1 - acc.2)] else acc.1, max acc.2 (p.1 + p.2))) ([], 0)
  if hi < n then gaps ++ [(hi, n - hi)] else gaps

/-- FOOTBRIDGE_SEGMENT (R98, R99). -/
def ftbSegment (port cls portSeq msgId type off len : Nat) (total : Option Nat) (ok : Bool) (s : State) : State :=
  if !ok then s
  else
    let p := fportOf s port
    let exp := if cls = 0 then p.rxCtl else p.rxMir
    let d := ahead 32 exp portSeq
    let s := if 0 < d ∧ d < 2 ^ 31 then ftbControl (.snak port cls exp ((portSeq + 2 ^ 32 - 1) % 2 ^ 32)) s else s
    let s :=
      if d < 2 ^ 31 then
        let n := (portSeq + 1) % 2 ^ 32
        setFport port (if cls = 0 then { p with rxCtl := n } else { p with rxMir := n }) s
      else s
    -- RECEIPT and SNAK are counted and draw no receipt of their own (log entry 119)
    if type = 4 ∨ type = 5 then countMsg msgId s
    else if receipted s msgId then sendReceipt s
    else if type = 2 then giveReceipt msgId s
    else
      let r := tgetD s.ftb.rx msgId { type := type, placed := [], total := none }
      let r := { r with placed := r.placed ++ [(off, len)], total := r.total.orElse (fun _ => total) }
      { s with ftb := { s.ftb with rx := tset s.ftb.rx msgId r } }

/-- FOOTBRIDGE_GAP_TIMER (R99): the byte ranges missing from a message; while its length is unknown they run to 16 MiB. -/
def ftbGap (msgId : Nat) (s : State) : State :=
  match tget s.ftb.rx msgId with
  | none => s
  | some r =>
    match missing r.placed (r.total.getD 16777216) with
    | [] => s
    | gaps => ftbControl (.snakBytes msgId gaps) s

/-! ### Resending (R99) -/

/-- Resend byte ranges of a message under new port sequence numbers. -/
def resendRanges (id : Nat) (ranges : List (Nat × Nat)) (s : State) : State :=
  match tget s.ftb.sent id with
  | none => s
  | some m =>
    -- a range ends with its message
    let ranges := ranges.filterMap (fun r => if r.1 < m.len then some (r.1, min r.2 (m.len - r.1)) else none)
    if ranges = [] ∨ upPorts s = [] then s
    else
      let cls := ftbClass m.type
      let (segs, s) := ranges.foldl (fun acc r =>
        let (g, s) := dealSegs cls (r.2 / 9088 + 1) r.1 r.2 acc.2
        (acc.1 ++ g, s)) (([] : List (Nat × Nat × Nat × Nat × Nat)), s)
      let s := if m.type = 3 ∧ m.segs = [] then monBegin 5 id s else s
      let s := { s with ftb := { s.ftb with
        sent := tset s.ftb.sent id { m with segs := m.segs ++ segs }, resent := satAdd 16 s.ftb.resent segs.length } }
      sendFrames m.type id m.len (ftbPayload m.body) segs (emit (.ftb (.resend id ranges)) s)

/-- SNAK (R99): a missing range of a port's frames of one class, or of a message's bytes. -/
def ftbSnak (port cls first last : Nat) (msgId : Option Nat) (s : State) : State :=
  match msgId with
  | some id => resendRanges id [(first, last + 1 - first)] s
  | none =>
    s.ftb.sent.foldl (fun s e =>
      resendRanges e.1 ((e.2.segs.filter (fun g => decide (g.1 = port ∧ g.2.1 = cls ∧
        ahead 32 first g.2.2.1 ≤ ahead 32 first last))).map (fun g => (g.2.2.2.1, g.2.2.2.2))) s) s

/-- FOOTBRIDGE_RESEND_TIMER (R99): the whole message again. -/
def ftbResend (id : Nat) (s : State) : State :=
  match tget s.ftb.sent id with
  | none => s
  | some m => resendRanges id [(0, m.len)] s

/-! ### Receipts received (R100) -/

/-- The own-region records of a message are receipted. -/
def markReceipted (offs : List Nat) (s : State) : State :=
  modOwn (fun r => offs.contains r.r.off) (fun r => { r with receipted := true }) s

/-- RECEIPT: every message it covers is receipted. -/
def takeReceipt (cum : Nat) (ranges : List (Nat × Nat)) (s : State) : State :=
  let hit (id : Nat) : Bool := decide (id ≤ cum) || ranges.any (fun r => decide (r.1 ≤ id ∧ id ≤ r.2))
  let done := s.ftb.sent.filter (fun e => hit e.1)
  let s := { s with ftb := { s.ftb with sent := tfilter (fun id _ => !hit id) s.ftb.sent } }
  let s := done.foldl (fun s e => if e.2.type = 3 ∨ e.2.type = 7 then
      markReceipted e.2.offs (monEnd 5 e.1 ((e.2.segs.getLast?.map (·.1)).getD 0) s) else s) s
  { s with pair := { s.pair with resyncs := s.pair.resyncs.filter (fun id => !hit id) } }

/-! ### Record sets (R81, R89) -/

/-- The unit record of a commit unit in a region. -/
def unitRecOf (recs : List JRec) (asn unit : Nat) : Option JRec :=
  recs.find? (fun r => decide (r.asn = asn ∧ r.unit = unit ∧ 0 < r.units) && (match r.body with
    | .unit .. => true
    | _ => false))

/-- The records of a commit unit in a region. -/
def recsOf (recs : List JRec) (asn unit : Nat) : List JRec :=
  recs.filter (fun r => decide (r.asn = asn ∧ r.unit = unit ∧ 0 < r.units))

/-- Is the record set of a unit complete among the valid records of a region (R81)? -/
def setComplete (recs : List JRec) (asn unit : Nat) : Bool :=
  match (unitRecOf recs asn unit).map (fun r => r.body) with
  | some (JBody.unit _ _ _ _ _ _ _ n) => decide (n ≤ (recsOf recs asn unit).length)
  | _ => false

/-- Has a command been aborted (Table 3.11)? -/
def setAborted (recs : List JRec) (asn : Nat) : Bool :=
  recs.any (fun r => decide (r.asn = asn) && decide (r.body = .abort))

/-- The units of a region, in ASN order. -/
def unitsIn (recs : List JRec) : List (Nat × Nat) :=
  let us := ((recs.filter (fun r => decide (0 < r.units))).map (fun r => (r.asn, r.unit))).eraseDups
  us.mergeSort (fun a b => decide (a.1 < b.1 ∨ (a.1 = b.1 ∧ a.2 ≤ b.2)))

/-- Table 3.11: the units that a region commits. -/
def committedIn (recs : List JRec) : List (Nat × Nat) :=
  (unitsIn recs).filter (fun u => setComplete recs u.1 u.2 && !setAborted recs u.1)

/-! ### Applying the peer's units -/

/-- What a unit adds to its command's result word (Table 5.9). -/
def unitResult (s : State) (recs : List JRec) (opcode vol first blocks : Nat) : Nat :=
  if opcode = 4 then mappedBlocks s vol first blocks
  else sumBy (fun r => match r.body with
    | .chunk _ _ e _ => (envOf e).grains
    | _ => 0) recs

/-- Take the location words of a peer's map record as this head sees them: its own region is our mirror. -/
def mirrorLoc (l : Loc) : Loc := match l.kind with
  | .ownJournal off => { l with kind := .mirrorJournal off }
  | _ => l

/-- The peer's record of a block's new state (Table 9.6 kind 2): this head then knows whether it may open the block (R106), and
which blocks the peer holds open (Table 4.6 step 8). -/
def peerBlock (e : Loc × Nat × Nat) (s : State) : State :=
  match e.1.kind with
  | .flash g sl d b _ _ _ =>
    let k := blkKey (g * 32 + sl) d b
    let v := blkOf s k
    let s := setBlk k { v with erases := e.2.2, inUse := decide (e.2.1 ≠ 0), retired := v.retired || decide (e.2.1 = 7) } s
    { s with plc := { s.plc with peerOpen :=
        (if e.2.1 = 1 then tset s.plc.peerOpen k (tgetD s.plc.peerOpen k []) else terase s.plc.peerOpen k) } }
  | _ => s

/-- A page that the peer's records name as holding a chunk. -/
def peerPage (l : Loc) (s : State) : State :=
  match l.kind with
  | .flash g sl d b pg _ _ =>
    let k := blkKey (g * 32 + sl) d b
    match tget s.plc.peerOpen k with
    | some ps => { s with plc := { s.plc with peerOpen := tset s.plc.peerOpen k (if ps.contains pg then ps else ps ++ [pg]) } }
    | none => s
  | _ => s

/-- A location change of the peer. -/
def peerMove (m : MoveEntry) (s : State) : State :=
  moveChunk { m with old := mirrorLoc m.old, new := mirrorLoc m.new } (peerPage m.new s)

/-- The owner of volumes is a role. -/
def setOwner (r : Role) (vols : List Nat) (s : State) : State :=
  { s with pair := { s.pair with owned := vols.foldl (fun t v =>
      if ((tget s.pair.arr.volumes v).map (·.pref)).getD .a = r then terase t v else tset t v r) s.pair.owned } }

/-- Apply a committed unit of the mirror region to the map; a command whose units are all applied enters the mirror of
its queue's replay table (R62). -/
def applyMirror (asn unit : Nat) (s : State) : State :=
  let recs := recsOf (mirrorGood s) asn unit
  match (unitRecOf (mirrorGood s) asn unit) with
  | none => s
  | some ur => match ur.body with
    | .unit q csn crc op vol first blocks _ =>
      let m := tgetD s.jrn.mirrorRun asn { queueId := q, csn := csn, crc := crc, opcode := op, units := ur.units }
      if m.done.contains unit then s
      else
        let m := { m with done := unit :: m.done, result := m.result + unitResult s recs op vol first blocks }
        let s := recs.foldl (fun s r => match r.body with
          | .mapMoves es => es.foldl (fun s x => peerMove x s) s
          | b => applyRec 0 r.off true b s) s
        let s := { s with jrn := { s.jrn with mirrorRun := tset s.jrn.mirrorRun asn m } }
        if m.done.length < m.units then s
        else
          let t := tgetD s.jrn.mirrorTables q { newest := csn }
          let e : ReplayEntry := { csn := csn, crc := crc, opcode := op, status := .success, result := m.result }
          { s with jrn := { s.jrn with mirrorTables := tset s.jrn.mirrorTables q (enterTable t e) } }
    | _ => s

/-- A map record of the peer names a chunk whose unit is not applied yet: that unit, and every earlier committed one of
its volume, is applied first. -/
def applyBefore (serial : Nat) (s : State) : State :=
  if (chunkOf s serial).isSome then s
  else match s.jrn.mirror.find? (fun r => match r.body with
      | .chunk _ _ e _ => decide ((envOf e).serial = serial)
      | _ => false) with
    | none => s
    | some r =>
      let vol := match r.body with
        | .chunk v _ _ _ => v
        | _ => 0
      let volOf (u : Nat × Nat) : Option Nat := (unitRecOf (mirrorGood s) u.1 u.2).bind (fun x => match x.body with
        | .unit _ _ _ _ v _ _ _ => some v
        | _ => none)
      ((committedIn (mirrorGood s)).filter (fun u => decide (u.1 ≤ r.asn ∧ volOf u = some vol))).foldl
        (fun s u => applyMirror u.1 u.2 s) s

/-- A record written to the mirror region takes effect there: a replay-table entry, a location change, a drained
record. -/
def mirrorEffect (r : JRec) (s : State) : State :=
  match r.body with
  | .completion q e =>
    let t := tgetD s.jrn.mirrorTables q { newest := e.csn }
    { s with jrn := { s.jrn with mirrorTables := tset s.jrn.mirrorTables q (enterTable t e) } }
  | .mapMoves es =>
    if 0 < r.units then s
    else es.foldl (fun s m => peerMove m (applyBefore m.serial s)) s
  | .mapBlocks es => es.foldl (fun s e => peerBlock e s) s
  | .ownership r vs => setOwner r vs s
  | .drained offs asn unit =>
    let names := offs.any (fun o => (recsOf s.jrn.mirror asn unit).any (fun x => decide (x.off = o)))
    let s := if names ∧ setComplete (mirrorGood s) asn unit then applyMirror asn unit s else s
    { s with jrn := { s.jrn with mirror := s.jrn.mirror.filter (fun x => !offs.contains x.off && decide (x.off ≠ r.off)) } }
  | _ => s

/-- Write records at their offsets in the mirror region (R100): writing the same again has no effect. -/
def writeMirror (recs : List JRec) (s : State) : State :=
  recs.foldl (fun s r =>
    if s.jrn.mirror.any (fun x => decide (x = r)) then s
    else
      let keep := s.jrn.mirror.filter (fun x => decide (x.off + recSize x ≤ r.off ∨ r.off + recSize r ≤ x.off))
      mirrorEffect r { s with jrn := { s.jrn with
        mirror := keep ++ [r], mirrorLost := s.jrn.mirrorLost.filter (fun o => decide (o ≠ r.off)) } }) s

/-- The writes of mirrored records: write-through stores of port 5 (R351, R369). -/
def mirrorRequests (recs : List JRec) (s : State) : State :=
  recs.foldl (fun s r => cnsStores 5 (Config.mirrorBase + r.off) (recSize r) s) s

/-- Does this head take mirror traffic: whole, or a head that rejoins and has paired with the survivor (Table 4.8 step 2)? -/
def takesMirror (s : State) : Bool :=
  decide (s.pair.state = 3) || (s.pair.paired && decide (s.pair.state = 5 ∨ s.pair.state = 1))

/-- MIRROR (R100): the records are written, and the message is receipted once the DRAM controller acknowledges it. -/
def takeMirror (id : Nat) (recs : List JRec) (s : State) : State :=
  if receipted s id then sendReceipt s
  else if !takesMirror s then s
  else giveReceipt id (mirrorRequests recs (writeMirror recs s))

end Sys2Proof.Machine
end

