-- ==== Sys2Proof/Machine/Pair.lean ====
section
/-!
DEFINITION. Machine/Pair.lean: heartbeats and Footbridge ports, loss and fence, takeover, planned handover, fail-back and
pairing (R95 to R119, R146, R214, R306, R408, R410).
-/
namespace Sys2Proof.Machine

/-! ### What this head says of itself (R84, R103, R116) -/

/-- The largest own-region size that the hold-up allows, in GiB: E = 6 J + 0.55 J x J with J both regions (R84). -/
def ownMax (s : State) : Nat := min 64 ((((s.ghx.board.map (·.holdUpMj)).getD 0) - 6000) / 1100)

/-- The array identity, 16 bytes, 0 where this head belongs to no array. -/
def arrayIdOf (s : State) : Bytes := fit 16 s.pair.arr.arrayId

/-- Does this head belong to an array? -/
def inArray (s : State) : Bool := !(arrayIdOf s).all (· = 0)

/-- The version of the firmware that runs. -/
def runningFw (s : State) : Nat :=
  let b := if s.sec.running = 0 then s.sec.slotA else s.sec.slotB
  b.version.getD Config.fwVersion

/-- Is the answer of Table 3.10 step 4 a valid keep area: not on a fenced head, nor on one whose mirror region is not
filled (R410)? -/
def keepSaid (s : State) : Bool := decide (s.jrn.restart = .peerWait true) && !s.pair.fenced && s.pair.filled

/-- The HELLO of this head (R116). -/
def myHello (s : State) : HelloMsg :=
  { generation := 1, lkn256 := false, serial := deviceSerial, arrayId := arrayIdOf s, role := s.pair.role
    maxOwnGib := ownMax s, ownGib := s.jrn.ownGib, epochMs := s.gh.epochMs.toNat, fwVersion := runningFw s
    firstMsgId := s.ftb.nextId, restarting := decide (s.jrn.restart ≠ .none), asnHigh := s.jrn.asn, keepValid := keepSaid s
    autoFail := s.pair.autoFail }

/-- May the head take part in a pair: DRAM in service and a board record accepted (R338, R477)? -/
def takesPart (s : State) : Bool := !s.dram.outOfService && !s.ghx.boardRefused

/-- Send HELLO, unless the head takes no part in pairing. -/
def sendHello (s : State) : State := if takesPart s then ftbControl (.hello (myHello s)) s else s

/-- The bits of the ports that are up. -/
def portsUp (s : State) : Nat := sumBy (fun n => 2 ^ n) (upPorts s)

/-- Is the PCS of any Footbridge port aligned? -/
def anyAligned (s : State) : Bool := (List.range 4).any (fun n => (fportOf s n).aligned)

/-- The HEARTBEAT that goes out with a counter (Table 4.3). -/
def myHb (s : State) (counter : Nat) : HbMsg :=
  { counter := counter, asnHigh := s.jrn.asn, epoch := s.jrn.epoch.number, state := s.pair.state, powerFail := s.ghx.pwrFail
    handover := s.pair.handover.isSome, fenced := s.pair.fenced, portsUp := portsUp s, generation := 1
    recordGen := max s.pair.arr.gen s.pair.genHeard }

/-- HEARTBEAT_SEND_TIMER (R103): a HEARTBEAT on every aligned port, each with the next counter. -/
def sendHeartbeats (s : State) : State :=
  (List.range 4).foldl (fun s n =>
    if (fportOf s n).aligned then
      let c := s.ftb.hbTx + 1
      ftbOnPort n (.heartbeat n (myHb s c)) { s with ftb := { s.ftb with hbTx := c } }
    else s) s

/-- HB_KICK (R103): the edges of the next 2 ms are permitted. -/
def hbKick (s : State) : State := { s with ghx := { s.ghx with kicks := 2 } }

/-- Is the head in Watch or Dormant, where PEER_HB_OUT makes no edge and no Footbridge port runs (R409)? -/
def asleep (s : State) : Bool := decide (s.gh.state = .watch ∨ s.gh.state = .dormant)

/-- HB_PIN_TOGGLE (R103): PEER_HB_OUT is inverted while a kick is recent, and holds its level otherwise. -/
def hbToggle (s : State) : State :=
  if s.ghx.kicks = 0 ∨ asleep s then s else { s with ghx := { s.ghx with hbOut := !s.ghx.hbOut, kicks := s.ghx.kicks - 1 } }

/-! ### Fence (R108, R110, R214, R306) -/

/-- PORT_LOCK on every ACTIVE port of the shelves this head holds (R306). -/
def lockPorts (aux : Nat) (s : State) : State :=
  (List.range 1024).foldl (fun s p =>
    if holdsShelf (shelfOf s (p / 32)) ∧ (portOf s p).state = 4 then sendSled p (.lock aux) { op := 6, tag := 0, arg := aux } s
    else s) s

/-- R108, R214: this head asserts its own request for every shelf whose power is good, at P_idle with both caps 0. -/
def assertGood (s : State) : State :=
  (List.range 32).foldl (fun s g =>
    let v := shelfOf s g
    if v.good ∧ !v.req ∧ (tget s.sleds.shelfRec g).isSome then
      powerGroup g true (setShelf g { v with st := .waking, req := true, w := 0, r := 0, goodAtReq := true, lost := [] }
        (adoptRecords g s))
    else s) s

/-- Stop mirroring: messages and records on their way to the peer are given up. -/
def stopMirror (s : State) : State :=
  { s with
    ftb := { s.ftb with waiting := [], sent := tfilter (fun _ m => decide (m.type ≠ 3 ∧ m.type ≠ 7)) s.ftb.sent }
    pair := { s.pair with resyncs := [] } }

/-- A handover that can no longer end: its job finishes PEER_ABSENT, a sleep that waits for it is given up, and ownership
stands as in R113 (Table 4.7). -/
def dropHandover (s : State) : State :=
  let s := match s.pair.handover.bind (·.job) with
    | some k => finishJob k .peerAbsent [] s
    | none => s
  let s := match s.ghx.trans with
    | .sleep _ 2 _ => { s with gh := { s.gh with state := .serve, target := 0 }, ghx := { s.ghx with trans := .none } }
    | _ => s
  { s with pair := { s.pair with handover := none, handNext := false, taking := none } }

/-- Steps 2 to 4 of Table 4.6: loss stands; shelves are asserted, PEER_FENCE_N goes low, this head runs alone, and its
epoch closes early on local receipts. FENCE_IN_N low keeps PEER_FENCE_N released (R110). -/
def fencePeer (s : State) : State :=
  if s.ghx.fenceIn ∨ s.pair.fenced then s
  else
    let s := { s with pair := { s.pair with lossB := false, msgHeld := false, rejoin := false, helloWaits := false, joining := none } }
    let s := dropHandover s
    let s := { s with plc := { s.plc with alone := true } }
    let s := assertGood s
    let s := { s with
      ghx := { s.ghx with fenceOut := true }
      pair := { s.pair with state := 4, takeover := 4, failStep := 0 } }
    let s := stopMirror (lockPorts 1 s)
    epochTimer (note 0x0B 5 3 s)

/-- May this head declare loss (R109, R410): whole, its own power good, its mirror region filled? -/
def mayDeclare (s : State) : Bool :=
  s.pair.paired && decide (s.pair.state = 3) && !s.pair.fenced && !s.ghx.pwrFail && s.pair.filled

/-- Loss by Table 4.5: role A fences at once; role B waits 10 ms where both heads declare loss, else for the fence. -/
def lossAction (both : Bool) (s : State) : State :=
  if !mayDeclare s then s
  else match roleOf s with
    | .a => fencePeer s
    | .b => if both then { s with pair := { s.pair with lossB := true } } else s

/-- In Table 4.5 the message path is silent exactly when no port is up (R109). -/
def noPortUp (s : State) : Bool := (upPorts s).isEmpty

/-- Table 4.5 as the paths stand now; an event is recorded where the table says so. -/
def pathAction (s : State) : State :=
  if !noPortUp s ∨ !s.pair.paired then s
  else if !s.pair.pinLive then lossAction true s
  else if !anyAligned s then lossAction false s
  else if s.pair.msgHeld then s
  else note 0x0B 5 2 { s with pair := { s.pair with msgHeld := true } }

/-- ROLE_B_FENCE_DELAY: 10 ms after role B declared loss, unless fenced first. -/
def roleBDelay (s : State) : State :=
  if s.pair.lossB ∧ mayDeclare s then fencePeer s else { s with pair := { s.pair with lossB := false } }

/-- PARTIAL_SILENCE_TIMEOUT: the state of Table 4.5's fourth row has lasted 1 s. -/
def partialSilence (s : State) : State :=
  if s.pair.msgHeld ∧ noPortUp s ∧ s.pair.pinLive then lossAction false s else s

/-- PIN_PATH_SILENT (R104). -/
def pinSilent (s : State) : State :=
  let s := { s with pair := { s.pair with pinLive := false }, ghx := { s.ghx with peerHb := false } }
  if !noPortUp s ∧ s.pair.paired then note 0x0B 5 2 s else pathAction s

/-- PEER_HB_IN_EDGE (R104). -/
def pinEdge (s : State) : State :=
  { s with pair := { s.pair with pinLive := true }, ghx := { s.ghx with peerHb := true, hbSeen := true } }

/-! ### Footbridge ports (R97, R99) -/

/-- A fail-back cannot go on: the survivor continues alone (Table 18.4). -/
def abortFailback (s : State) : State :=
  if s.pair.state ≠ 2 then s
  else
    let s := match s.pair.failJob with
      | some k => finishJob k .peerAbsent [] s
      | none => s
    let s := stopMirror s
    note 0x0B 5 2 { s with pair := { s.pair with state := 4, failStep := 0, failJob := none, rejoin := false } }

/-- A port that was up is down, with an event (R97). -/
def dropPort (n : Nat) (s : State) : State :=
  let p := fportOf s n
  if !p.up then s
  else
    let s := setFport n { p with up := false } s
    let s := { s with ftb := { s.ftb with downs := satAdd 16 s.ftb.downs 1 } }
    record 0x0B 5 2 .none (leN 1 n ++ leN 1 0) s

/-- A port goes down: what was sent on it without receipt goes again on the others; with no port left the message path is
silent (R109). -/
def portDown (n : Nat) (s : State) : State :=
  if !(fportOf s n).up then s
  else
    let s := dropPort n s
    let s := s.ftb.sent.foldl (fun s e =>
      resendRanges e.1 ((e.2.segs.filter (fun g => decide (g.1 = n))).map (fun g => (g.2.2.2.1, g.2.2.2.2))) s) s
    if noPortUp s then pathAction (abortFailback s) else s

/-- PCS_ALIGNMENT_CHANGE. A port without alignment is down; one that the board record does not declare wired is never enabled
(R477), and none runs in Watch or Dormant. -/
def pcsChange (n : Nat) (aligned : Bool) (s : State) : State :=
  let wired := (s.ghx.board.map (fun b => b.ftbWired.getLsbD n)).getD false
  let aligned := aligned && wired && !asleep s
  let s := setFport n { fportOf s n with aligned := aligned } s
  if aligned then s
  else
    let s := portDown n s
    if s.pair.msgHeld ∧ !anyAligned s ∧ noPortUp s ∧ s.pair.pinLive then lossAction false s else s

/-- MESSAGE_PATH_SILENT (R104): a port that has had no HEARTBEAT for 50 ms is not up; the last to go down acts by Table 4.5. -/
def msgSilent (s : State) : State :=
  let s := (upPorts s).foldl (fun s n => portDown n s) s
  { s with pair := { s.pair with msgLive := false } }

/-! ### Reconciliation of the mirror region (R89, R111, Table 4.6 step 6) -/

/-- The book of a unit adopted from the mirror region. -/
def adoptBook (s : State) (u : Nat × Nat) : Option UnitBook :=
  (unitRecOf (mirrorGood s) u.1 u.2).bind (fun r => match r.body with
    | .unit _ _ _ _ vol first blocks _ =>
      let recs := recsOf (mirrorGood s) u.1 u.2
      some {
        asn := u.1, unit := u.2 + adopted, volume := vol, first := first, blocks := blocks, epoch := r.epoch
        serials := recs.filterMap (fun x => match x.body with
          | .chunk _ _ e _ => some (envOf e).serial
          | _ => none)
        recs := recs.map (·.off), mirror := true, applied := true }
    | _ => none)

/-- The units of the mirror region that Table 3.11 commits are applied and become this head's to drain; the rest is
discarded; a command found partly committed runs again on its retry. -/
def reconcileMirror (s : State) : State :=
  let us := (committedIn (mirrorGood s)).filter (fun u =>
    !s.jrn.units.any (fun v => v.mirror && decide (v.asn = u.1 ∧ v.unit = u.2 + adopted)))
  let s := us.foldl (fun s u => applyMirror u.1 u.2 s) s
  let s := us.foldl (fun s u => match adoptBook s u with
    | some b => { s with jrn := { s.jrn with
        units := s.jrn.units ++ [b]
        drain := b.serials.foldl (fun t k =>
          if ((chunkOf s k).map (fun c => locCode c.loc.kind)).getD 0 = 3 then tset t k (b.asn, b.unit) else t) s.jrn.drain } }
    | none => s) s
  let part := s.jrn.mirrorRun.filter (fun e => decide (e.2.done.length < e.2.units))
  let kept (r : JRec) : Bool := s.jrn.units.any (fun v => v.mirror && v.recs.contains r.off)
  { s with jrn := { s.jrn with
    mirror := s.jrn.mirror.filter kept
    mirrorRun := []
    partly := s.jrn.partly ++ part.map (fun e => (e.2.queueId, e.2.csn, e.2.crc)) } }

/-- The highest ASN this head knows of for either head (R60). -/
def peerAsnHigh (s : State) : Nat :=
  max (max ((s.ftb.peerHb.map (·.asnHigh)).getD 0) ((s.pair.hello.map (·.asnHigh)).getD 0)) (maxBy (·.asn) s.jrn.mirror)

/-- TAKEOVER_SLED_WAIT_END: steps 5 and 6 of Table 4.6. -/
def sledWaitEnd (s : State) : State :=
  if s.pair.takeover ≠ 4 then s
  else
    let high := peerAsnHigh s
    let s := reconcileMirror s
    { s with pair := { s.pair with takeover := 6 }, jrn := { s.jrn with asn := max s.jrn.asn high } }

/-- The role overrides after which this head owns every volume. -/
def ownAll (s : State) : Tab Role :=
  (s.pair.arr.volumes.filter (fun v => decide (v.2.pref ≠ roleOf s))).map (fun v => (v.1, roleOf s))

/-- The k-th open block of the peer on each die of a die group, by position. -/
def peerLayer (s : State) (port group k : Nat) : List (Option (Nat × List Nat)) :=
  (List.range 16).map (fun p =>
    ((s.plc.peerOpen.filter (fun e => decide (e.1 / 65536 = port * 128 + group * 16 + p)))[k]?).map (fun e => (e.1 % 65536, e.2)))

/-- The peer's open blocks as closed sets of its role, with the pages that its records name (log entry 121). -/
def peerSets (s : State) : List BSet :=
  let groups := (s.plc.peerOpen.map (fun e => e.1 / 65536 / 16)).eraseDups
  groups.flatMap (fun g => (List.range s.plc.peerOpen.length).filterMap (fun k =>
    let port := g / 8
    let layer := peerLayer s port (g % 8) k
    if layer.all (·.isNone) then none
    else some {
      shelf := port / 32, sled := port % 32, dieGroup := g % 8, state := 2, secondary := true, role := (roleOf s).other
      short := true, band := 65536, closedAt := s.gh.hours
      voidMask := sumBy (fun p => if (layer.getD p none).isNone then 2 ^ p else 0) (List.range 16)
      blocks := layer.map (fun x => (x.map (·.1)).getD 0)
      issued := (List.range 16).flatMap (fun p => (((layer.getD p none).map (·.2)).getD []).map (fun pg => pg * 16 + p))
      conf := (List.range 16).flatMap (fun p => (((layer.getD p none).map (·.2)).getD []).map (fun pg => pg * 16 + p)) }))

/-- The block sets of the peer that are open are closed without further programs and queued for read-back (step 8). -/
def closePeerSets (s : State) : State :=
  let bs := peerSets s
  let s := { s with plc := { s.plc with peerOpen := [] } }
  bs.foldl (fun s b =>
    let n := s.plc.setCount
    let key := bsKey (b.shelf * 32 + b.sled) n
    startVerify key { s with plc := { s.plc with setCount := n + 1, sets := tset s.plc.sets key { b with setNo := n } } }) s

/-- After a restart or takeover the holds that have not expired go on for the volumes this head owns: a held shelf that lost its
request is woken again (R238). -/
def restoreHolds (s : State) : State :=
  s.plc.holds.foldl (fun s h =>
    if h.2.expiry ≤ optime s ∨ !ownsVol s h.2.volume then s
    else h.2.shelves.foldl (fun s g => if (shelfOf s g).st = .off then wantWake g .read (4 * s.plc.policy.readWaitS) s else s) s) s

/-- The peer's recall table, which lies on the home shelves: its holds join this head's (R238, log entry 134). -/
def takeHolds (s : State) : State :=
  (Config.peerHolds s.draws).foldl (fun s h =>
    let (vol, snap, first, blocks, shelves, expiry) := h
    let v : Hold := { volume := vol, snap := snap, first := first, blocks := blocks, staged := [], shelves := shelves.filter (fun g => decide (g < 32)), expiry := expiry }
    if ownerOf s vol = roleOf s then s
    else { s with plc := { s.plc with holds := tset s.plc.holds s.plc.holdCount v, holdCount := s.plc.holdCount + 1 } }) (draw s)

/-- TAKEOVER_MAP_LOADED: steps 7 to 9 of Table 4.6: every block group, volume, queue identity and replay table is this
head's; the serial counter leaps as R201 says. -/
def mapLoaded (s : State) : State :=
  if s.pair.takeover ≠ 6 then s
  else
    let s := takeHolds s
    let s := { s with pair := { s.pair with takeover := 0, owned := ownAll s } }
    let s := closePeerSets s
    let s := { s with
      jrn := { s.jrn with tables := s.jrn.mirrorTables.foldl (fun t e => tset t e.1 e.2) s.jrn.tables, mirrorTables := [] }
      map := { s.map with serial := s.map.ckpt.serialHigh + 2 ^ 32, failed := [] } }
    admitAll (restoreHolds (note 0x0B 5 2 s))

/-! ### Being fenced (R110) -/

/-- Is the copy of a move one that a recall hold keeps (R238)? -/
def stagedCopy (s : State) (m : Nat) : Bool := s.plc.holds.any (fun h => h.2.staged.any (fun e => decide (e.2 = m)))

/-- Clear the work in progress that lives in engines and command queues: commands, fetches, copies of moves, lookups. What
committed is applied; nothing else of it remains. -/
def dropWork (s : State) : State :=
  let s := s.jrn.units.foldl (fun s u => if u.applied ∨ u.mirror then s else applyUnit u.asn u.unit s) s
  let s := { s with
    jrn := { s.jrn with cmds := [], deferredMaps := [], inflight := [], admitted := 0 }
    plc := { s.plc with
      fetches := [], moves := [], copies := tfilter (fun m _ => stagedCopy s m) s.plc.copies, items := [], batch := [], batchOpen := false
      placed := tfilter (fun _ p => p.recorded) s.plc.placed }
    map := { s.map with chunks := tmap (fun _ c => { c with pins := 0 }) s.map.chunks, failed := [], ckptRun := none } }
  let s := (tkeys s.map.chunks).foldl (fun s k => freeIfDead 4096 k s) s
  { s with rep := { s.rep with rels := tmap (fun _ r =>
      { r with storing := none, held := [], reading := none, blocks := [], mask := 0 }) s.rep.rels } }

/-- The work that waits for program or erase on a sled port goes no further. -/
def stopPrograms (s : State) : State :=
  { s with sleds := { s.sleds with ports := tmap (fun _ v =>
      { v with waitq := v.waitq.filter (fun w => decide (w.cmd.op ≠ 2 ∧ w.cmd.op ≠ 3)) }) s.sleds.ports } }

/-- Every volume is the peer's while this head is fenced (R107). -/
def ownNone (s : State) : Tab Role :=
  (s.pair.arr.volumes.filter (fun v => decide (v.2.pref = roleOf s))).map (fun v => (v.1, (roleOf s).other))

/-- The duties of R110 when FENCE_IN_N falls. Where both fence lines are low, role B gives way and role A stays the
fencer. The handover that asked for the fence ends with the answer. -/
def fenceFall (s : State) : Option Handover × State :=
  let s := { s with ghx := { s.ghx with fenceIn := true } }
  if s.ghx.fenceOut ∧ roleOf s = .a ∧ !s.pair.fenced then (none, s)
  else if s.pair.fenced then (none, s)
  else
    let h := s.pair.handover.filter (·.fence)
    let s := { s with
      ghx := { s.ghx with fenceOut := false }
      plc := { s.plc with alone := false }
      pair := { s.pair with
        fenced := true, state := 5, lossB := false, takeover := 0, failStep := 0, failJob := none, handover := none
        handNext := false, taking := none, filled := false, rejoin := false, helloWaits := false, joining := none, owned := ownNone s } }
    let s := stopMirror (stopPrograms s)
    let s := (List.range 32).foldl (fun s g =>
      if holdsShelf (shelfOf s g) then releaseShelf g .off s else s) s
    let s := dropWork s
    let s := { s with jrn := { s.jrn with epoch := { s.jrn.epoch with step := 0, marker := none }, serving := true, restart := .none } }
    (h, note 0x0B 5 3 s)

/-- FENCE_IN_RISE: it ends nothing; an event while the latch is set. -/
def fenceRise (s : State) : State :=
  let s := { s with ghx := { s.ghx with fenceIn := false } }
  if s.pair.fenced then note 0x0B 5 1 s else s

/-! ### Planned handover (R113, R114) -/

/-- The length of a HANDOVER message: a step and a volume list. -/
def handoverLen (m : HandoverMsg) : Nat := match m with
  | .relinquish vs => 8 + 4 * vs.length
  | .volumesReceived vs => 8 + 4 * vs.length
  | .requestFence => 8

/-- Send a HANDOVER message. -/
def sendHandover (m : HandoverMsg) (s : State) : Nat × State := ftbSend 6 0 (handoverLen m) [] (fun _ => .handover m) s

/-- Steps 1 to 3 of R114: "relinquish" goes out and the epoch closes early. -/
def startHandover (vols : List Nat) (fence : Bool) (opcode : Nat) (job : Option Nat) (s : State) : State :=
  let (_, s) := sendHandover (.relinquish vols) s
  let h : Handover := { volumes := vols, fence := fence, opcode := opcode, job := job }
  epochTimer { s with pair := { s.pair with handover := some h } }

/-- A handover that the Nesutar starts itself, of every volume, ending with "request fence"; it waits for one that runs
(R114). Only a whole pair can hand over. -/
def handOffFenced (s : State) : State :=
  if s.pair.state ≠ 3 ∨ s.pair.fenced then s
  else if s.pair.handover.isSome then { s with pair := { s.pair with handNext := true } }
  else startHandover (myVols s) true 0 none s

/-- Have all units of the volumes been released (step 4)? -/
def volsReleased (s : State) (vols : List Nat) : Bool :=
  s.jrn.units.all (fun u => !vols.contains u.volume) &&
    s.jrn.cmds.all (fun e => !isWriter e.2 || decide (e.2.stage = .held) || !vols.contains e.2.volume) &&
    s.jrn.own.all (fun r => match r.r.body with
      | .unit _ _ _ _ v _ _ _ => !vols.contains v
      | _ => true)

/-- Does the mirror region hold a unit of the volumes? -/
def mirrorHolds (s : State) (vols : List Nat) : Bool :=
  s.jrn.mirror.any (fun r => match r.body with
    | .unit _ _ _ _ v _ _ _ => vols.contains v
    | _ => false)

/-- HANDOVER_DRAIN_DONE: on the giving head, every unit of the volumes is released; on the receiving head, its mirror
region has none of them left and "volumes received" goes out. -/
def handoverDrained (s : State) : State :=
  let s := match s.pair.handover with
    | some h => if h.step = 1 ∧ s.jrn.epoch.step = 0 ∧ volsReleased s h.volumes then
        { s with pair := { s.pair with handover := some { h with step := 2 } } } else s
    | none => s
  match s.pair.taking with
  | some (vols, 0) =>
    if mirrorHolds s vols then s
    else
      let (id, s) := sendHandover (.volumesReceived vols) s
      { s with pair := { s.pair with taking := some (vols, id) } }
  | _ => s

/-- A volume passes to a role, and this head's journal records it (R113). -/
def passTo (r : Role) (vols : List Nat) (s : State) : State := setOwner r vols (writeLoose (.ownership r vols) s).2

/-- The receipt of "volumes received" (R113): the volumes are this head's, and what it held for them runs. -/
def takeVolumes (s : State) : State :=
  match s.pair.taking with
  | some (vols, id) =>
    if id = 0 ∨ thas s.ftb.sent id then s
    else admitAll (note 0x0B 5 0 (passTo (roleOf s) vols { s with pair := { s.pair with taking := none } }))
  | none => s

/-- RECEIPT. One that comes after this head has declared loss no longer counts (R22, R59). -/
def receiptIn (cum : Nat) (ranges : List (Nat × Nat)) (s : State) : State :=
  if s.pair.lossB then s else takeVolumes (takeReceipt cum ranges s)

/-- The giving head has "volumes received": the volumes have passed, what it held for them ends NOT_OWNER (step 6), and
the handover ends, or asks for the fence. -/
def volumesGone (vols : List Nat) (s : State) : State :=
  match s.pair.handover with
  | none => s
  | some h =>
    if h.step = 3 ∨ h.step = 4 then s
    else
      let s := note 0x0B 5 0 (passTo (roleOf s).other vols s)
      let s := (s.jrn.cmds.filter (fun e => decide (e.2.stage = .held ∨ (e.2.stage = .running ∧ e.2.overlap)) && e.2.checked && namesVolume e.2 &&
        vols.contains e.2.volume)).foldl (fun s e => decide_ e.1 .notOwner (roleOf s).other.num s) s
      if h.fence then
        let (_, s) := sendHandover .requestFence s
        { s with pair := { s.pair with handover := some { h with step := 4 } } }
      else
        let s := match h.job with
          | some k => finishJob k .success [] s
          | none => s
        let s := { s with pair := { s.pair with
          handover := none, failStep := 0, failJob := if h.job.isSome then none else s.pair.failJob } }
        if s.pair.handNext then startHandover (myVols s) true 0 none { s with pair := { s.pair with handNext := false } }
        else s

/-- A control message that draws a receipt has come: its number is that of a whole message of its type in reassembly. -/
def receiptFor (type : Nat) (s : State) : State :=
  match s.ftb.rx.find? (fun e => decide (e.2.type = type) && (match e.2.total with
      | some n => decide (missing e.2.placed n = [])
      | none => false)) with
  | some (id, _) => giveReceipt id s
  | none => sendReceipt s

/-- HANDOVER (R114). -/
def handoverIn (m : HandoverMsg) (s : State) : State :=
  if s.pair.fenced ∨ s.pair.state ≠ 3 then s
  else
    let s := receiptFor 6 s
    match m with
    | .relinquish vols => { s with pair := { s.pair with taking := some (vols, 0) } }
    | .volumesReceived vols => volumesGone vols s
    | .requestFence => fencePeer s

/-! ### Rejoin and fail-back (R115, Table 4.8) -/

/-- The own region is sent by RESYNC, record by record, and every later record goes by MIRROR (step 2). -/
def startFailback (s : State) : State :=
  let s := { s with pair := { s.pair with state := 2, failStep := 2, rejoin := false } }
  s.jrn.own.foldl (fun s r =>
    let (id, s) := ftbSend 7 1 (8 + recSize r.r) [r.r.off] (fun id => .resync id [r.r]) s
    { s with pair := { s.pair with resyncs := s.pair.resyncs ++ [id] } }) s

/-- RESYNC_COMPLETE: steps 3 and 4: acceptance waits on the rejoined head again; the blocks open in its groups close. -/
def resyncComplete (s : State) : State :=
  if s.pair.state ≠ 2 ∨ s.pair.failStep ≠ 2 ∨ s.pair.resyncs ≠ [] then s
  else
    let s := { s with pair := { s.pair with failStep := 4 } }
    let lent (b : BSet) : Bool := b.blocks.any (fun n => decide (n / 64 % 2 ≠ roleNum s))
    let theirs := s.plc.open_.filter (fun e => e.2.setNo.any (fun x =>
      ((tget s.plc.sets (openKey e.2 e.1 x.1)).map (fun b =>
        lent b || ((tget s.plc.sets (partnerKey b)).map lent).getD false)).getD false))
    theirs.foldl (fun s e => closeBand e.1 s) s

/-- The key of a domain reaches the head of a role: its blob is in the array record. -/
def blobOf (d : DomRec) (r : Role) : Bytes := match r with
  | .a => d.blobA
  | .b => d.blobB

/-- The volumes to hand to the rejoined head: those that prefer it; one whose domain key it does not hold stays (R115). -/
def failbackVols (s : State) : List Nat × List Nat :=
  let z := (roleOf s).other
  let vs := s.pair.arr.volumes.filter (fun v => decide (v.2.pref = z))
  let holds (v : Nat × VolRec) : Bool := ((tget s.pair.arr.domains v.2.domain).map (fun d => !(blobOf d z).isEmpty)).getD true
  ((vs.filter holds).map (·.1), (vs.filter (fun v => !holds v)).map (·.1))

/-- Step 5 of Table 4.8 as this head sees it: the rejoined head's mirror region holds this head's journal. -/
def peerHolds (s : State) : Bool := decide (s.pair.resyncs = []) && s.jrn.own.all (·.receipted)

/-- FAILBACK_FENCE_RELEASE: steps 5 to 7: the ports are unlocked, PEER_FENCE_N is released, the pair is whole, and the
volumes go back. -/
def fenceRelease (s : State) : State :=
  if s.pair.state ≠ 2 ∨ s.pair.failStep ≠ 4 ∨ !peerHolds s then s
  else
    let s := lockPorts 0 s
    let s := { s with
      ghx := { s.ghx with fenceOut := false }
      plc := { s.plc with alone := false }
      pair := { s.pair with state := 3, failStep := 7, filled := true } }
    let (give, stay) := failbackVols s
    let s := stay.foldl (fun s v => record 0x0B 7 2 (.volume v) [] s) s
    let job := s.pair.failJob
    let s := note 0x0B 5 0 s
    if give = [] then
      let s := match job with
        | some k => finishJob k .success [] s
        | none => s
      { s with pair := { s.pair with failStep := 0, failJob := none } }
    else startHandover give false 0x0B02 job s

/-- RESYNC: bulk own-region bytes of the survivor are written into the mirror region; on a restarting head they are the
records of its own region that the peer holds (R89). -/
def resyncIn (id : Nat) (recs : List JRec) (s : State) : State :=
  if receipted s id then sendReceipt s
  else if s.jrn.restart ≠ .none then
    let own := recs.foldl (fun l r =>
      if l.any (fun x => decide (x.r.off = r.off) && !x.lost && recValid x.r) then l
      else l.filter (fun x => decide (x.r.off ≠ r.off)) ++ [{ r := asReplayed r, acked := true, receipted := true }]) s.jrn.own
    giveReceipt id { s with jrn := { s.jrn with own := own } }
  else giveReceipt id (mirrorRequests recs (writeMirror recs s))

/-- The returning head discards both regions: its work is the survivor's (R486). -/
def dropRegions (s : State) : State :=
  { s with jrn := { s.jrn with
    own := [], mirror := [], cursor := 0, units := [], drain := [], deferredMaps := [], mirrorRun := [], mirrorTables := [] } }

/-- The returning head is whole again: step 6 of Table 4.8 has released the fence. -/
def becomeWhole (s : State) : State :=
  { s with
    pair := { s.pair with state := 3, fenced := false, paired := true, filled := true, autoFail := false, owned := ownNone s }
    jrn := { s.jrn with serving := true, restart := .none } }

/-- What a counted heartbeat of a whole peer tells a returning head. -/
def returnCheck (m : HbMsg) (s : State) : State :=
  if m.state = 3 ∧ s.pair.paired ∧ !s.ghx.fenceIn ∧ (s.pair.state = 5 ∨ s.pair.state = 1) then
    note 0x0B 5 0 (becomeWhole s) else s

/-! ### Pairing (R116, Table 4.9) -/

/-- The serial recorded for a role. -/
def serialOf (s : State) (r : Role) : Bytes := match r with
  | .a => s.pair.arr.serialA
  | .b => s.pair.arr.serialB

/-- Record the serial of a role. -/
def recordSerial (r : Role) (serial : Bytes) (s : State) : State :=
  changeArray (fun a => match r with
    | .a => { a with serialA := serial }
    | .b => { a with serialB := serial }) s

/-- May a peer of this generation pair: G1, or named in an open migration window (R117), and no LKN256 (R5)? -/
def genOk (s : State) (m : HelloMsg) : Bool :=
  !m.lkn256 && (decide (m.generation = 1) || (s.pair.window.map (fun w => decide (w.1 = m.serial))).getD false)

/-- Does this head run alone and hold the fence? -/
def survivor (s : State) : Bool := decide (s.pair.state = 4)

/-- The check of the mode (Table 4.9, rows 3 to 5); none: it waits for a HEARTBEAT. -/
def modeOk (s : State) (mode : Nat) (m : HelloMsg) : Option Bool :=
  if mode = 0 then some (!inArray s && m.arrayId.all (· = 0))
  else if survivor s then
    some (if mode = 1 then decide (m.serial = serialOf s (roleOf s).other) else s.ghx.fenceOut)
  else match m.role with
    | none => some false
    | some r =>
      if mode = 1 then some (decide (serialOf s r.other = deviceSerial))
      else s.ftb.peerHb.map (fun h => decide (h.state = 4))

/-- Do both regions, the replay tables and the keep area fit in this head's DRAM? -/
def dramHolds (s : State) (gib : Nat) : Bool := decide (2 * gib + (2 * gib + 1) + 1 ≤ usableGib s)

/-- The result of a pairing check: it waits, fails with a status and result, or passes with the sizes asked for. -/
inductive JoinRes where
  | waits
  | fails (st : Status) (result : Bytes)
  | passes (gib ms : Nat)
  deriving DecidableEq, Repr

/-- The rows of Table 4.9 on sizes and DRAM. -/
def sizesOk (s : State) (gib ms : Nat) (m : HelloMsg) : Bool :=
  within 4 (min (ownMax s) m.maxOwnGib) gib && within 100 60000 ms && (survivor s || dramHolds s gib)

/-- Do the rows of Table 4.9 that concern every pairing pass: generation, a port up, sizes and DRAM? -/
def checksPass (s : State) (gib ms : Nat) (m : HelloMsg) : Bool := genOk s m && !noPortUp s && sizesOk s gib ms m

/-- Table 4.9 in its order. -/
def joinCheck (s : State) (mode gib ms : Nat) (m : HelloMsg) : JoinRes :=
  if !genOk s m then .fails .generationMismatch []
  else match modeOk s mode m with
    | none => .waits
    | some false => .fails .denied []
    | some true =>
      if upPorts s = [] then .waits
      else
        let gib := if gib = 0 then (if mode = 0 then s.jrn.ownGib else m.ownGib) else gib
        let ms := if ms = 0 then (if mode = 0 then s.gh.epochMs.toNat else m.epochMs) else ms
        if !sizesOk s gib ms m then .fails .invalidField (leN 4 (min (ownMax s) m.maxOwnGib))
        else .passes gib ms

/-- The array is created: this head has role A (R105). Its first epoch is numbered one above the highest it knows, as after a
restart (log entry 44). -/
def createArray (m : HelloMsg) (gib ms : Nat) (s : State) : State :=
  let id := freeBytes 16 s
  let s := draw s
  let s := { s with
    pair := { s.pair with role := some .a, state := 3, paired := true, filled := true }
    gh := { s.gh with epochMs := BitVec.ofNat 16 ms }
    jrn := { s.jrn with ownGib := gib, serving := true, epoch := { s.jrn.epoch with number := s.jrn.epoch.number + 1 } } }
  changeArray (fun a => { a with arrayId := id, serialA := deviceSerial, serialB := m.serial, ownGib := gib, epochMs := ms }) s

/-- New sizes take effect from the boundary after the next one. -/
def setSizes (gib ms : Nat) (s : State) : State :=
  let under := match s.jrn.epoch.next with
    | some (m, g, _) => decide (m = ms ∧ g = gib)
    | none => decide (gib = s.jrn.ownGib ∧ ms = s.gh.epochMs.toNat)
  if under then s
  else { s with jrn := { s.jrn with epoch := { s.jrn.epoch with next := some (ms, gib, 2) } } }

/-- The survivor takes a head that has passed the checks as the one to rejoin; fail-back starts at once where auto
fail-back was asked for. -/
def acceptRejoin (auto : Bool) (s : State) : State :=
  let s := { s with pair := { s.pair with rejoin := true, paired := true, helloWaits := false } }
  if auto then startFailback s else s

/-- The returning head has paired: it takes its role and gives up its own regions, reloads its filter (R191), and resumes the
serial counter of its role above the last checkpointed mark (R201); a replacement finds the mark with the array (log entry
127). -/
def acceptReturn (m : HelloMsg) (s : State) : State :=
  let s := reloadFilter (dropRegions (dropWork s))
  let mark := if m.arrayId = s.pair.arr.arrayId then s.map.ckpt.serialHigh else Config.roleSerialHigh m.arrayId
  { s with
    map := { s.map with serial := mark + 2 ^ 32 }
    pair := { s.pair with
      role := m.role.map Role.other, paired := true, state := if s.pair.fenced then 5 else 1, filled := false, helloWaits := false }
    jrn := { s.jrn with restart := .none } }

/-- Every check has passed: the array record is read, and its changes are applied, before the pairing completes (R487). -/
def startJoin (k : JoinAs) (s : State) : State :=
  if s.pair.joining.isSome then s else { s with pair := { s.pair with joining := some k, reading := true } }

/-- The PAIR_JOIN job goes on as far as what has been heard allows. -/
def tryJoin (s : State) : State :=
  match s.pair.job, s.pair.joinReq, s.pair.hello with
  | some (k, mode), some (gib, ms, auto), some m =>
    match joinCheck s mode gib ms m with
    | .waits => s
    | .fails st r => finishJob k st r { s with pair := { s.pair with job := none, joinReq := none, autoFail := false } }
    | .passes gib ms =>
      let done (s : State) : State :=
        finishJob k .success [] { s with pair := { s.pair with job := none, joinReq := none, autoFail := false } }
      if mode = 0 then sendHello (createArray m gib ms (done s))
      else if survivor s then
        let s := done s
        let s := if mode = 2 then recordSerial (roleOf s).other m.serial s else s
        let s := setSizes gib ms (changeArray (fun a => { a with ownGib := gib, epochMs := ms }) s)
        acceptRejoin auto s
      else
        let s := if mode = 2 then { s with pair := { s.pair with arr := { s.pair.arr with arrayId := m.arrayId } } } else s
        startJoin .back s
  | _, _, _ => s

/-- PAIRING_PORT_TIMEOUT: no port has come up within 10 s. -/
def joinTimeout (s : State) : State :=
  match s.pair.job with
  | some (k, _) =>
    if !noPortUp s then s
    else finishJob k .peerAbsent [] { s with pair := { s.pair with job := none, joinReq := none, autoFail := false } }
  | none => s

/-! ### Basmos commands (Tables 4.10, 4.11; R117, R119) -/

/-- PAIR_STATUS (Table 4.10). -/
def pairStatusH (_p : Bytes) (s : State) : BAns × State :=
  let left := match s.pair.window with
    | some (_, t) => t - optime s
    | none => 0
  let role := if s.pair.paired then (s.pair.role.map Role.num).getD 0xFF else 0xFF
  (.now (.ok (leN 1 role ++ leN 1 s.pair.state ++ leN 1 (portsUp s) ++ leN 1 s.pair.peerGen ++ fit 16 s.pair.peerSerial ++
    leN 4 s.jrn.ownGib ++ leN 4 s.gh.epochMs.toNat ++ leN 4 left)), s)

/-- PAIR_JOIN (Table 4.11). One pairing runs at a time (Table 18.4). -/
def pairJoinH (p : Bytes) (s : State) : BAns × State :=
  let mode := fieldLE p 0 1
  if 2 < mode ∨ 1 < fieldLE p 1 1 then refuse .invalidField s
  else if s.pair.job.isSome then refuse .busy s
  else withJob 0x0B01 mode 0 s (fun k s =>
    let s := { s with pair := { s.pair with
      job := some (k, mode), joinReq := some (fieldLE p 4 4, fieldLE p 8 4, decide (fieldLE p 1 1 = 1))
      autoFail := decide (fieldLE p 1 1 = 1) } }
    tryJoin (sendHello s))

/-- FAILBACK: PEER_ABSENT if no head is rejoining. -/
def failbackH (_p : Bytes) (s : State) : BAns × State :=
  if !survivor s ∨ !s.pair.rejoin then refuse .peerAbsent s
  else withJob 0x0B02 0 0 s (fun k s => startFailback { s with pair := { s.pair with failJob := some k } })

/-- The first part of TAKEOVER_FORCE: everything but ending the wait of a restart, which `ends` does. While PWR_FAIL_N is low
this head declares no loss (R109), and mode 1 answers with nothing done (log entry 122). -/
def takeoverForceH (ends : State → State) (p : Bytes) (s : State) : BAns × State :=
  let mode := fieldLE p 0 1
  if 1 < mode then refuse .invalidField s
  else if s.pair.fenced then refuse .denied s
  else if mode = 0 then
    if s.pair.state ≠ 3 then refuse .peerAbsent s
    else if s.pair.handover.isSome then refuse .busy s
    else withJob 0x0B10 0 0 s (fun k s => startHandover (myVols s) true 0x0B10 (some k) s)
  else if s.pair.state = 4 ∨ s.pair.state = 2 then (.now (.ok), s)
  else if s.jrn.restart = .peerWait false then (.now (.ok), ends s)
  else if !s.pair.paired then refuse .denied s
  else if s.ghx.pwrFail then (.now (.ok), s)
  else (.now (.ok), fencePeer s)

/-- MIGRATION_WINDOW (R117). A window for another serial replaces the open one (log entry 89). -/
def migrationWindowH (p : Bytes) (s : State) : BAns × State :=
  let days := fieldLE p 0 4
  let serial := bslice p 4 16
  let open_ := (s.pair.window.map (fun w => decide (w.1 = serial))).getD false
  if 30 < days then refuse .invalidField s
  else if days = 0 ∧ open_ then (.now (.ok), note 0x0B 9 0 { s with pair := { s.pair with window := none } })
  else if s.pair.named.contains serial then refuse .denied s
  else if days = 0 then (.now (.ok), s)
  else (.now (.ok), note 0x0B 9 0 { s with pair := { s.pair with
    window := some (serial, optime s + days * 86400), named := serial :: s.pair.named } })

/-- MIGRATION_WINDOW_EXPIRY: a peer still of another generation is fenced and taken over, with an event. -/
def windowExpiry (s : State) : State :=
  if s.pair.window.isNone then s
  else
    let s := { s with pair := { s.pair with window := none } }
    if s.pair.peerGen ≠ 1 ∧ s.pair.peerGen ≠ 0 ∧ s.pair.state = 3 then fencePeer (note 0x0B 8 3 s) else s

end Sys2Proof.Machine
end

