-- ==== Sys2Proof/Machine/DramCtl.lean ====
section
/-!
DEFINITION. Machine/DramCtl.lean: the DRAM controller: refresh, temperature, errors, sparing, training helpers, masks,
use and its Basmos commands (chapter 12, R25, R337 to R366).
-/
namespace Sys2Proof.Machine

/-! ### Pauses and refresh -/

/-- The key of a knob setting. -/
def dlyKey (knob rank : Nat) (sub : Bool) (lane : Nat) : Nat := knob * 512 + rank * 128 + b2n sub * 64 + lane

/-- Re-centre the delays of a rank (R347): each lane's read delay moves by at most one step, each write delay by the
change of the DQS oscillator; the amounts are free values (log entry 11). -/
def recentre (k : Nat) (r : Nat) (c : Dmc) : Dmc :=
  { c with delays := tmap (fun key v =>
      if key / 128 % 4 ≠ r then v
      else if key / 512 = 3 then
        let f := Config.freeValue k key % 3
        if f = 0 ∨ v.toNat = 1023 ∧ f = 1 then v else if f = 1 then v + 1 else if v = 0 then v else v - 1
      else if key / 512 = 6 then BitVec.ofNat 10 (Config.freeValue k key)
      else v) c.delays }

/-- One retraining pause of rank r (R347). -/
def pauseRank (n r : Nat) (s : State) : State :=
  emit (.dramPause n r) (draw (setDmc n (recentre s.draws r (dmcOf s n)) s))

/-- A rank pays the refreshes that it owes (R349). -/
def payRefresh (n r : Nat) (s : State) : State :=
  let c := dmcOf s n
  let k := rankOf c r
  if k.owed = 0 then s else emit (.dramRefresh n r k.owed) (setDmc n (setRank r { k with owed := 0 } c) s)

/-- R347: a pause starts only on a rank that owes no refresh. -/
def retrainPause (n r : Nat) (s : State) : State :=
  let c := dmcOf s n
  if rankServes c r ∧ (rankOf c r).owed = 0 then pauseRank n r s else s

def execDramRetrainPause (ch : Fin 24) (rank : Fin 4) (s : State) : Res := .next (retrainPause ch rank s)

/-- R348, R349: a due refresh of a normal rank with requests waiting is postponed while owed_count is below
max_postpone; otherwise it is issued, and an idle rank pays what it owes. -/
def refreshDue (n r : Nat) (waiting : Bool) (s : State) : State :=
  let c := dmcOf s n
  let k := rankOf c r
  if !rankServes c r then s
  else if waiting ∧ !k.hot ∧ k.owed < k.maxPostpone.toNat then setDmc n (setRank r { k with owed := k.owed + 1 } c) s
  else if waiting then emit (.dramRefresh n r 1) s
  else emit (.dramRefresh n r (k.owed + 1)) (setDmc n (setRank r { k with owed := 0 } c) s)

def execDramRefreshDue (ch : Fin 24) (rank : Fin 4) (waiting : Bool) (s : State) : Res :=
  .next (refreshDue ch rank waiting s)

/-- R350: a rank becomes hot: owed_count doubles and the whole debt is issued back to back. -/
def becomeHot (n r : Nat) (failed : Bool) (s : State) : State :=
  let c := dmcOf s n
  let k := rankOf c r
  if k.hot then setDmc n (setRank r { k with readFailed := k.readFailed && failed } c) s
  else
    let s := setDmc n (setRank r { k with hot := true, readFailed := failed, owed := 0 } c) s
    if k.owed = 0 then s else emit (.dramRefresh n r (2 * k.owed)) s

/-- The slot of rank r: the ranks of a channel lie on its DIMMs in order. -/
def slotOfRank (c : Dmc) (dimms r : Nat) : Nat := r / (cdiv (ranksPresent c) (max 1 dimms))

/-- R348, R350, Table 12.4: the thermal sensors of one module are read; its ranks become hot above 85.0 °C and normal
at or below 83.0 °C, and are treated as hot after a failed reading. -/
def thermalRead (n slot : Nat) (reading : Option (BitVec 8 × BitVec 8)) (tenths : Int) (s : State) : State :=
  let c := dmcOf s n
  let rs := (List.range 4).filter (fun r => (rankOf c r).present && !(rankOf c r).retired &&
    decide (slotOfRank c Config.dimmSlots r = slot))
  match reading with
  | none => record 6 1 2 .none (leN 1 n ++ leN 1 slot) (rs.foldl (fun s r => becomeHot n r true s) s)
  | some (t0, t1) =>
    let s := setDmc n { c with therm := (c.therm.set (2 * slot) t0).set (2 * slot + 1) t1 } s
    if 850 < tenths then rs.foldl (fun s r => becomeHot n r false s) s
    else rs.foldl (fun s r =>
      let c := dmcOf s n
      let k := rankOf c r
      if tenths ≤ 830 ∨ k.readFailed then setDmc n (setRank r { k with hot := false, readFailed := false } c) s
      else s) s

def execDramThermalRead (ch : Fin 24) (slot : Fin 2) (reading : Option (BitVec 8 × BitVec 8)) (tenths : Int)
    (s : State) : Res := .next (thermalRead ch slot reading tenths s)

/-! ### Sparing (R357 to R360) -/

/-- R360: the addresses of a rank with no unused spare are no longer used. -/
def withdrawRank (n r : Nat) (s : State) : State :=
  let c := dmcOf s n
  let s := setDmc n (setRank r { rankOf c r with retired := true, withdrawn := true, owed := 0 } c) s
  let s := record 6 3 2 (.dramRank n r) (leN 1 1) s
  let s := if n < 4 then { s with dram := { s.dram with flashConf := true }, jrn := { s.jrn with flashMode := true } } else s
  if dramSuffices s then s else handOffFenced s

/-- R357, R359, Table 12.6: a rank is taken out of service: it migrates to an unused spare, waits for a running
migration, or its addresses are withdrawn. -/
def rankOut (n r : Nat) (s : State) : State :=
  let c := dmcOf s n
  let k := rankOf c r
  if !k.present ∨ k.retired then s
  else if c.migrating ∧ r = c.fromRank then s
  else if c.migrating ∧ r = c.toRank then
    -- the retirement that asked for the migration has come under R360
    let s := withdrawRank n c.toRank (withdrawRank n c.fromRank (setDmc n { c with migrating := false } s))
    finishJobs (fun j => decide (j.opcode = 0x0611) && decide (j.subj = n)) .success [] s
  else if c.migrating then
    if c.waitOut.contains r then s else setDmc n { c with waitOut := c.waitOut ++ [r] } s
  else if c.spareValid ∧ r = c.spare then
    record 6 3 2 (.dramRank n r) (leN 1 2)
      (setDmc n (setRank r { k with retired := true } { c with spareValid := false }) s)
  else if c.spareValid then
    record 6 3 2 (.dramRank n r) (leN 1 0)
      (setDmc n { c with migrating := true, ptr := 0, fromRank := r, toRank := c.spare, spareValid := false } s)
  else withdrawRank n r s

/-- Table 12.6 step 4: the pointer reaches the end; the spare replaces the rank, and ranks that waited come under
R360. -/
def migrationDone (n : Nat) (s : State) : State :=
  let c := dmcOf s n
  if !c.migrating then s
  else
    let waits := c.waitOut
    let c := setRank c.fromRank { rankOf c c.fromRank with retired := true, owed := 0 } c
    let s := setDmc n { c with migrating := false, ptr := Config.dimmRankGib * 1024, waitOut := [] } s
    let s := record 6 3 2 (.dramRank n c.fromRank) (leN 1 3) s
    let s := finishJobs (fun j => decide (j.opcode = 0x0611) && decide (j.subj = n)) .success [] s
    waits.foldl (fun s r => withdrawRank n r s) s

def execRankMigrationDone (ch : Fin 24) (s : State) : Res := .next (migrationDone ch s)

/-- R357: a command-parity error: the commands are issued again and counted; a second within 1 s, or a failed repeat,
takes the rank out of service. -/
def rcdAlert (n r : Nat) (again repeatOk : Bool) (s : State) : State :=
  let c := dmcOf s n
  let s := setDmc n { c with parity := satAdd 16 c.parity 1, retries := satAdd 16 c.retries 1 } s
  let s := record 6 1 1 (.dramRank n r) (leN 1 (b2n again) ++ leN 1 (b2n repeatOk)) (emit (.dramReissue n r) s)
  if again ∨ !repeatOk then rankOut n r s else s

def execDramRcdAlert (ch : Fin 24) (rank : Fin 4) (withinSecond repeatOk : Bool) (s : State) : Res :=
  .next (rcdAlert ch rank withinSecond repeatOk s)

/-- The physical address of the line at a channel address, if it is one of the lines of n bytes at pa (R358). -/
def lineIn (s : State) (pa n ch ca : Nat) : Option Nat :=
  ((List.range (cdiv n 128)).map (fun i => pa + 128 * i)).find? (fun a => decide (placeAddr s a = (ch, ca / 128 * 128)))

/-- Is a record's unit committed here and not yet drained, so that the record is still needed? -/
def unitStands (s : State) (mirror : Bool) (r : JRec) : Bool :=
  s.jrn.units.any (fun v => decide (v.mirror = mirror ∧ v.asn = r.asn ∧ v.unit = r.unit))

/-- R90, R94, R358: records on a line that no second copy can restore: an event names the line's physical address and the
affected units, and their volumes are marked from the lowest epoch among them. -/
def lineLost (subj : Subject) (pa : Nat) (rs : List JRec) (s : State) : State :=
  match rs with
  | [] => s
  | r :: _ =>
    let units := (rs.map (fun r => (r.asn, r.unit))).eraseDups
    let s := record 6 0x0B 3 subj (leN 8 pa ++ units.flatMap (fun u => leN 8 u.1 ++ leN 4 u.2)) s
    let vols := (s.jrn.units.filter (fun v => units.contains (v.asn, v.unit))).map (·.volume)
    markVols vols.eraseDups (rs.foldl (fun e x => min e x.epoch) r.epoch) 1 s

/-- What an uncorrectable line held (R83, R94, R191, R358): a journal line comes from the other head's copy, or from the
pipeline while its unit has not committed; a line without a second copy is lost; a Dovecote bucket is loaded again. A line
that is restored is poisoned no more. -/
def restoreLine (subj : Subject) (n ca : Nat) (s : State) : State :=
  let own := s.jrn.own.filterMap (fun x => (lineIn s (Config.ownBase + x.r.off) (recSize x.r) n ca).map (fun pa => (pa, x)))
  let mir := s.jrn.mirror.filterMap (fun x => (lineIn s (Config.mirrorBase + x.off) (recSize x) n ca).map (fun pa => (pa, x)))
  let buckets := (tkeys s.ing.buckets).filter (fun b => (lineIn s (Config.filterBase + 64 * b / 128 * 128) 128 n ca).isSome)
  let gone (e : Nat × OwnRec) : Bool := unitStands s false e.2.r && !e.2.drained &&
    !(mirrors s && (e.2.receipted || decide (s.pair.state = 3)))
  let goneMir (e : Nat × JRec) : Bool := unitStands s true e.2 && !mirrors s
  let lostOwn := own.filter gone
  let lostMir := mir.filter goneMir
  let s := askReloads buckets s
  let s := modOwn (fun x => lostOwn.any (fun e => decide (e.2.r.off = x.r.off))) (fun x => { x with lost := true }) s
  let s := { s with jrn := { s.jrn with mirrorLost := lostMir.map (·.2.off) ++ s.jrn.mirrorLost } }
  let s := match lostOwn, lostMir with
    | e :: es, _ => lineLost subj e.1 ((e :: es).map (·.2.r)) s
    | [], e :: es => lineLost subj e.1 ((e :: es).map (·.2)) s
    | [], [] => s
  if lostOwn.isEmpty ∧ lostMir.isEmpty ∧ !(own.isEmpty ∧ mir.isEmpty ∧ buckets.isEmpty) then
    let c := dmcOf s n
    setDmc n { c with poisoned := c.poisoned.filter (· ≠ ca / 128 * 128) } s
  else s

/-- R356 to R358: a corrected read is counted and its row tested; an uncorrectable line is poisoned, restored where a second
copy stands, and its rank taken out of service. -/
def readError (n r ca : Nat) (corrected : Bool) (s : State) : State :=
  let c := dmcOf s n
  let (bank, row) := bankRow c ca
  if corrected then
    let s := setDmc n { c with corrected := satAdd 16 c.corrected 1, errCa := ca, errUe := false } s
    errorOn 6 1 (.dramRow n r bank row) (leN 5 ca) s
  else
    let line := ca / 128 * 128
    let s := setDmc n { c with
      uncorrectable := satAdd 16 c.uncorrectable 1, errCa := ca, errUe := true,
      poisoned := if c.poisoned.contains line then c.poisoned else c.poisoned ++ [line] } s
    rankOut n r (restoreLine (.dramRow n r bank row) n ca (errorOn 6 3 (.dramRow n r bank row) (leN 5 ca) s))

/-- R356: the patrol scrub has read every line of the channel; what it found came as DRAM_READ_ERROR. -/
def patrolScrub (n : Nat) (s : State) : State :=
  let c := dmcOf s n
  if c.state = 2 then setDmc n { c with patrols := c.patrols + 1 } s else s

def execDramPatrolScrub (ch : Fin 24) (s : State) : Res := .next (patrolScrub ch s)

/-! ### Use (R25, R341) -/

/-- The bytes that U moves in 10 µs, by DMC_RATE.rate (Table 12.2). -/
def usableBytes : Nat → Nat
  | 0 => 7350000
  | 1 => 8575000
  | _ => 9800000

/-- R169, R471: the allowance A follows the DRAM use, falling when a window has ended above 90 %; at or above T_thr it stays at most where the throttle put it. -/
def adjustAllowance (above : Bool) (s : State) : State :=
  let cap := if s.ghx.throttled then min s.lat.cap s.ghx.thermalCap else s.lat.cap
  let a := if above then max 40 (s.lat.allow - 20) else if s.dram.throttle then s.lat.allow else cap
  let a := min a (max 40 cap)
  -- once A is back at the cap every tagged queue pair has its whole window again, and is told so by an ACK
  let full (q : Qp) : Qp := if (q.st = .open_ ∨ q.st = .rekey) ∧ !q.plain ∧ q.granted < q.creditWin then
    { q with granted := q.creditWin, creditAsked := false, ackDue := true } else q
  { s with lat := { s.lat with
    allow := a, qps := if s.lat.cap ≤ a ∧ s.lat.allow < s.lat.cap then tmap (fun _ q => full q) s.lat.qps else s.lat.qps } }

/-- R25: a use window ends: use in per mille of U; the throttle sets above 90 % and clears below 85 %. -/
def useWindow (bytes : Nat) (s : State) : State :=
  let u := usableBytes s.dram.rate
  let d := { s.dram with
    use := min 1023 (bytes * 1000 / u)
    useHigh := max s.dram.useHigh (min 1023 (bytes * 1000 / u))
    throttle := if 9 * u < 10 * bytes then true else if 100 * bytes < 85 * u then false else s.dram.throttle }
  adjustAllowance (decide (9 * u < 10 * bytes)) { s with dram := d }

/-- The DRAM left for the map cache, in GiB: less both regions, the keep area, the replay tables, the staging pool, the filter and
the Lodge's 16 GiB (R258; the parts that other structures take are log entry 34). -/
def mapCacheMax (s : State) : Nat :=
  usableGib s - (2 * s.jrn.ownGib + 4 * s.dram.keepGib + 1 + cdiv s.lat.poolMib 1024 + filterGib s + 16)

/-- The map cache in GiB: as MEDIA_POLICY says, or the whole remainder. -/
def mapCacheGib (s : State) : Nat := if s.plc.media.mapCacheGib = 0 then mapCacheMax s else s.plc.media.mapCacheGib

/-- The GiB that Watch keeps in self-refresh: the map cache and the Dovecote filter (R354). -/
def watchGib (s : State) : Nat := filterGib s + mapCacheGib s

/-- Pages above the size of the map cache give way, the least recently used first; dirty pages never do before they are
checkpointed (R258). -/
def trimPages (s : State) : State :=
  let room := mapCacheGib s * 2 ^ 16
  let clean := s.map.pages.reverse.filter (fun p => !s.map.dirty.contains p)
  let gone := clean.take (s.map.pages.length - room)
  if gone = [] then s else { s with map := { s.map with pages := s.map.pages.filter (fun p => !gone.contains p) } }

/-- May DRAM_TRAIN destroy the contents (R364)? -/
def trainAllowed (s : State) : Bool :=
  (myVols s).isEmpty && s.jrn.units.isEmpty && (committedIn s.jrn.mirror).isEmpty && (s.pair.fenced || decide (s.pair.state = 0))

/-! ### Training helpers (R346) -/

/-- DMC_TRN_CTL.start with an op: the helper runs; WRITE_READ destroys the contents. -/
def trnStart (n op : Nat) (s : State) : State :=
  let c := dmcOf s n
  if c.trnBusy then s else setDmc n { c with trnBusy := true, trnOp := BitVec.ofNat 2 op } s

def execTrnMpcPattern (ch : Fin 24) (s : State) : Res := .next (trnStart ch 0 s)
def execTrnWriteRead (ch : Fin 24) (s : State) : Res := .next (trnStart ch 1 s)
def execTrnDqsOsc (ch : Fin 24) (s : State) : Res := .next (trnStart ch 2 s)
def execTrnReadCompare (ch : Fin 24) (s : State) : Res := .next (trnStart ch 3 s)

/-- The helper ends and reports a fail bit per lane. -/
def trnDone (n : Nat) (dq : Word) (cb : BitVec 8) (s : State) : State :=
  let c := dmcOf s n
  if c.trnBusy then setDmc n { c with trnBusy := false, failDq := dq, failCb := cb } s else s

def execTrnHelperDone (ch : Fin 24) (failDq : Word) (failCb : BitVec 8) (s : State) : Res :=
  .next (trnDone ch failDq failCb s)

/-- A write of DMC_DLY_VAL sets the selected knob: one lane, or all 40 (Table 12.8). -/
def writeDelay (n : Nat) (v : BitVec 10) (s : State) : State :=
  let c := dmcOf s n
  let lanes := if c.dlyLane = 63 then List.range 40 else [c.dlyLane.toNat]
  setDmc n { c with delays := lanes.foldl (fun d l =>
    tset d (dlyKey c.dlyKnob.toNat c.dlyRank.toNat c.dlySub l) v) c.delays } s

/-! ### Locks and masks -/

/-- R361: DMC_GEOM.lock. -/
def geomLock (n : Nat) (s : State) : State := setDmc n { dmcOf s n with lock := true } s

def execDmcGeomLock (ch : Fin 24) (s : State) : Res := .next (geomLock ch s)

/-- R345: mask k includes native bank bit k and no other native bank bit, and leaves ca[6] clear. -/
def bankMaskOk (c : Dmc) (k : Nat) (m : BitVec 34) : Bool :=
  !m.getLsbD 0 && (List.range 5).all (fun j => m.getLsbD (1 + c.colBits.toNat + j) == decide (j = k))

/-- R345: a write of a bank hash mask takes effect, or is discarded with an event; a locked one is ignored. -/
def bankHashWrite (n k : Nat) (m : BitVec 34) (s : State) : State :=
  let c := dmcOf s n
  if dramLocked s then s
  else if bankMaskOk c k m then setDmc n { c with bankHash := c.bankHash.set k m } s
  else record 6 9 2 .none (leN 1 n ++ leN 1 k ++ leN 5 m.toNat) s

def execDmcBankHashWrite (ch : Fin 24) (k : Fin 5) (mask : BitVec 34) (s : State) : Res :=
  .next (bankHashWrite ch k mask s)

/-- R343: a channel hash mask has bit i set and the other two of bits [2:0] clear. -/
def chanMaskOk (i : Nat) (m : BitVec 34) : Bool := (List.range 3).all (fun j => m.getLsbD j == decide (j = i))

/-- R343: a write of a channel hash mask takes effect, or is discarded with an event; a locked one is ignored. -/
def chanHashWrite (i : Nat) (m : BitVec 34) (s : State) : State :=
  if dramLocked s then s
  else if chanMaskOk i m then { s with dram := { s.dram with chanHash := s.dram.chanHash.set i m } }
  else record 6 9 2 .none (leN 1 i ++ leN 5 m.toNat) s

def execDmcChanHashWrite (i : Fin 3) (mask : BitVec 34) (s : State) : Res := .next (chanHashWrite i mask s)

/-! ### Basmos commands -/

/-- The bytes 0 to 31 of DRAM_STATUS (R363). -/
def dramHead (s : State) : Bytes :=
  let chans := (List.range 24).map (dmcOf s)
  let c0 := dmcOf s 0
  let spareless := chans.any (fun c => !c.spareValid)
  let flags := b2n (chans.any (·.migrating)) + 2 * b2n spareless +
    4 * b2n (chans.any (fun c => (List.range 4).any (fun r => (rankOf c r).hot))) + 8 * b2n s.dram.flashConf
  let retired := sumBy (fun n => 2 ^ n *
    b2n ((List.range 4).any (fun r => (rankOf (dmcOf s n) r).retired))) (List.range 24)
  let w := cdiv (cdiv (watchGib s) 24) (max 1 Config.dimmRankGib)
  leN 1 s.dram.rate ++ leN 1 (ranksPresent c0) ++ leN 1 (b2n s.dram.outOfService) ++ leN 1 flags ++
    leN 4 Config.dimmRankGib ++ leN 4 (sumBy (fun c => usableRanks c * Config.dimmRankGib) chans) ++
    leN 2 s.dram.mainGib ++ leN 2 s.dram.keepGib ++ leN 2 (usableBytes s.dram.rate / 10000) ++
    leN 2 (max s.dram.useHigh s.dram.usePrev) ++ leN 4 retired ++ leN 4 w ++ zeros 4

/-- The state byte of rank r (R363). -/
def rankByte (c : Dmc) (r : Nat) : Nat :=
  if !(rankOf c r).present then 5
  else if (rankOf c r).retired then 4
  else if c.migrating ∧ r = c.fromRank then 3
  else if c.migrating ∧ r = c.toRank then 2
  else if c.spareValid ∧ r = c.spare then 1
  else 0

/-- R363. -/
def dramStatusH (p : Bytes) (s : State) : BAns × State :=
  let n := fieldLE p 0 1
  if n = 255 then (.now (.ok (dramHead s ++ zeros 32)), s)
  else if 24 ≤ n then refuse .invalidField s
  else
    let c := dmcOf s n
    (.now (.ok (dramHead s ++ ((List.range 4).map (fun r => leN 1 (rankByte c r))).flatten ++
      leN 1 (if c.migrating then c.ptr * 100 / (max 1 (Config.dimmRankGib * 1024)) else 0) ++ zeros 1 ++
      c.therm ++ zeros 2 ++ leN 4 c.corrected ++ leN 4 c.uncorrectable ++ leN 4 c.parity ++ zeros 8)), s)

def execDramStatus (n : Fin 64) (s : State) : Res := .next (basmos n 0x0600 (layoutIs 1 []) dramStatusH s)

/-- R346: training gives every channel its delays and fail bits; the amounts are free values (log entry 11). -/
def trainChannel (n : Nat) (s : State) : State :=
  let c := dmcOf s n
  let keys := (List.range 8).flatMap (fun k => (List.range 4).flatMap (fun r =>
    if (rankOf c r).present then [false, true].flatMap (fun b => (List.range 40).map (dlyKey k r b)) else []))
  draw (setDmc n { c with
    state := 2, poisoned := [], delays := keys.foldl (fun d k => tset d k (BitVec.ofNat 10 (Config.freeValue s.draws k))) [] } s)

/-- R364. -/
def dramTrainH (p : Bytes) (s : State) : BAns × State :=
  let n := fieldLE p 0 1
  let mode := fieldLE p 1 1
  let chans := if n = 255 then List.range 24 else [n]
  if (24 ≤ n ∧ n ≠ 255) ∨ 2 ≤ mode then refuse .invalidField s
  else if mode = 0 then
    (.now .ok, chans.foldl (fun s n => (List.range 4).foldl (fun s r =>
      if rankServes (dmcOf s n) r then pauseRank n r (payRefresh n r s) else s) s) s)
  else if !trainAllowed s then refuse .denied s
  else withJob 0x0610 n 0 s (fun k s =>
    finishJob k .success [] (chans.foldl (fun s n => trainChannel n s) { s with sec := { s.sec with lodgeMem := [] } }))

def execDramTrain (n : Fin 64) (s : State) : Res := .next (basmos n 0x0610 (layoutIs 2 []) dramTrainH s)

/-- R365. -/
def rankRetireH (p : Bytes) (s : State) : BAns × State :=
  let n := fieldLE p 0 1
  let r := fieldLE p 1 1
  let c := dmcOf s n
  if 24 ≤ n ∨ 4 ≤ r ∨ !(rankOf c r).present then refuse .invalidField s
  else if (rankOf c r).retired ∨ (c.migrating ∧ r = c.fromRank) then (.now .ok, s)
  else if c.spareValid ∧ r = c.spare then (.now .ok, rankOut n r s)
  else if c.migrating then refuse .busy s
  else withJob 0x0611 n r s (fun k s =>
    let s := rankOut n r s
    if (dmcOf s n).migrating then s else finishJob k .success [] s)

def execRankRetire (n : Fin 64) (s : State) : Res := .next (basmos n 0x0611 (layoutIs 2 []) rankRetireH s)

/-- The reset targets of Table 12.5 in 100 ns. -/
def qosReset : List Nat := ({} : Dram).qos

/-- R366. -/
def dramQosSetH (p : Bytes) (s : State) : BAns × State :=
  let port := fieldLE p 0 1
  let ns := fieldLE p 4 4
  if 16 ≤ port then refuse .invalidField s
  else if port = 1 ∨ port = 4 ∨ port = 5 then refuse .denied s
  else if ns ≠ 0 ∧ (ns < 1000 ∨ 1000000 < ns) then refuse .invalidField s
  else
    let old := s.dram.qos.getD port 0
    let d := s.dram
    let d := if ns = 0 then { d with qos := d.qos.set port (qosReset.getD port 0), qosSet := d.qosSet.filter (· ≠ port) }
      else { d with qos := d.qos.set port (ns / 100), qosSet := port :: d.qosSet.filter (· ≠ port) }
    (.now (.ok (leN 4 (old * 100))), { s with dram := d })

def execDramQosSet (n : Fin 64) (s : State) : Res := .next (basmos n 0x0612 (layoutIs 8 [(1, 3)]) dramQosSetH s)

end Sys2Proof.Machine
end

