-- ==== Sys2Proof/Machine/Cache.lean ====
section
/-!
DEFINITION. Machine/Cache.lean: the Conservatory's ageing, trackers, locks, way power, maintenance and parity (chapter 13, R374
to R384).
-/
namespace Sys2Proof.Machine

/-! ### Ageing, trackers, masks -/

/-- R370: ageing clears every referenced bit; a period of 0 stops it. -/
def ageingTick (s : State) : State :=
  if s.cns.agePeriod = 0 then s
  else onCns (fun c => { c with sets := tmap (fun _ set => tmap (fun _ l => { l with ref := false }) set) c.sets }) s

def execAgeingTick (s : State) : Res := .next (ageingTick s)

/-- R371: a tracker that nothing matched for 1 µs counts from 0. -/
def trackerBreak (t : Nat) (s : State) : State :=
  onCns (fun c => { c with trackers := c.trackers.set t { c.trackers.getD t {} with count := 0 } }) s

def execTrackerBreak (t : Fin 8) (s : State) : Res := .next (trackerBreak t s)

/-- R367: a slice mask has bit k set and no other of bits [4:0]. -/
def sliceMaskOk (k : Nat) (m : BitVec 25) : Bool := (List.range 5).all (fun j => m.getLsbD j == decide (j = k))

/-- R367, R380: a write of a slice mask takes effect, or is discarded with an event; a locked one is ignored. -/
def sliceHashWrite (k : Nat) (m : BitVec 25) (s : State) : State :=
  if s.cns.hashLock then s
  else if sliceMaskOk k m then onCns (fun c => { c with hash := c.hash.set k m }) s
  else record 7 9 2 .none (leN 1 k ++ leN 4 m.toNat) s

def execCnsSliceHashWrite (k : Fin 5) (mask : BitVec 25) (s : State) : Res := .next (sliceHashWrite k mask s)

/-- R380. -/
def execCnsHashLock (s : State) : Res := .next (onCns (fun c => { c with hashLock := true }) s)

/-! ### Way power (R375) -/

/-- The number of unlocked ways that stay powered under an off mask. -/
def unlockedOn (c : Cns) (off : BitVec 16) : Nat :=
  (List.range 16).countP (fun w => !off.getLsbD w && !wayLocked c w)

/-- May the off mask be set: it names no locked way and, in Serve, leaves four unlocked ways powered? -/
def offAllowed (s : State) (off : BitVec 16) : Bool :=
  (List.range 16).all (fun w => !(off.getLsbD w && wayLocked s.cns w)) &&
    (decide (s.gh.state ≠ .serve) || decide (4 ≤ unlockedOn s.cns off))

/-- A way leaves allocation and its cleaning starts; a write that breaks R375 is ignored. -/
def wayDown (w : Nat) (s : State) : State :=
  let off := setBit s.cns.off w true
  if offAllowed s off then onCns (fun c => { c with off := off }) s else s

def execCnsWayDown (way : Fin 16) (s : State) : Res := .next (wayDown way s)

/-- A way powers up empty, or stays if its cleaning had not ended. -/
def wayUp (w : Nat) (s : State) : State :=
  onCns (fun c => { c with off := setBit c.off w false, powered := setBit c.powered w true }) s

def execCnsWayUp (way : Fin 16) (s : State) : Res := .next (wayUp way s)

/-- Drop every line of a way. -/
def emptyWay (w : Nat) (c : Cns) : Cns := { c with sets := tmap (fun _ set => terase set w) c.sets }

/-- The dirty lines among those that a test names. -/
def dirtyLines (f : Nat → CLine → Bool) (c : Cns) : List Nat :=
  c.sets.flatMap (fun e => (e.2.filter (fun wl => wl.2.dirty && f wl.1 wl.2)).map (·.2.line))

/-- Lines are written back to DRAM, on port 10 (R367). -/
def writeBack (lines : List Nat) (s : State) : State :=
  { s with dram := (lines.foldl (fun s l => lineTraffic l s) s).dram }

/-- A way is cleaned and invalidated. -/
def clearWay (w : Nat) (s : State) : State := onCns (emptyWay w) (writeBack (dirtyLines (fun k _ => decide (k = w)) s.cns) s)

/-- Is a way being cleaned for power-down? -/
def cleaning (c : Cns) : Bool := decide (c.off &&& c.powered ≠ 0)

/-- R375 steps 2 to 4: the way's dirty lines are written back, its lines invalidated, its power gated; a WAY_POWER
request that waits for the last change is answered. -/
def wayDownComplete (w : Nat) (s : State) : State :=
  if !(s.cns.off.getLsbD w && s.cns.powered.getLsbD w) then s
  else
    let s := onCns (fun c => { c with powered := setBit c.powered w false }) (clearWay w s)
    match s.cns.wayReq with
    | some n => if cleaning s.cns then s else answerLate n .ok (onCns (fun c => { c with wayReq := none }) s)
    | none => s

def execWayDownComplete (way : Fin 16) (s : State) : Res := .next (wayDownComplete way s)

/-- R383. -/
def wayPowerH (n : Nat) (p : Bytes) (s : State) : BAns × State :=
  let off : BitVec 16 := BitVec.ofNat 16 (fieldLE p 0 2)
  if (List.range 16).any (fun w => off.getLsbD w && wayLocked s.cns w) then refuse .denied s
  else if unlockedOn s.cns off < 4 then refuse .invalidField s
  else
    let s := onCns (fun c => { c with off := off, powered := c.powered ||| ~~~off }) (force 0x0711 s)
    if cleaning s.cns then (.later, onCns (fun c => { c with wayReq := some n }) s) else (.now .ok, s)

def execWayPower (n : Fin 64) (s : State) : Res := .next (basmos n 0x0711 (layoutIs 4 [(2, 2)]) (wayPowerH n) s)

/-! ### Locks (R374, R382) -/

/-- May a range be locked: aligned 512 KiB pieces, at most 16 MiB, each in a slice of its own? -/
def lockRangeOk (c : Cns) (base len : Nat) : Bool :=
  let slices := (List.range (len / 524288)).map (fun i => lineSlice c ((base + i * 524288) / 128))
  decide (base % 524288 = 0) && decide (len % 524288 = 0) && decide (0 < len) && decide (len ≤ 16777216) &&
    decide (base + len ≤ 2 ^ 44) && decide slices.Nodup

/-- Set the enable bits of lockable way i; the lowest enabled user holds it (R54), and with none the way unlocks: its
lines stay and return to ordinary replacement. -/
def lockEnable (i : Nat) (en : BitVec 3) (s : State) : State :=
  onCns (fun c =>
    let l := lockOf c i
    putLock i { l with
      en := en, winner := if en = 0 then 0 else lowestUser en
      loaded := l.loaded && decide (en ≠ 0), loading := l.loading && decide (en ≠ 0) } c) s

/-- Fill a line of a locked way: one that another way holds moves with its dirty bit, any other comes from DRAM on port 10, so
that no set holds a line twice. -/
def loadLine (i line : Nat) (s : State) : State :=
  let key := setKey s.cns line
  let here := findLine s.cns line
  let dirty := (here.map (·.2.dirty)).getD false
  let s := if here.isSome then s else lineTraffic line s
  onCns (fun c => putSet key (tset ((setOf c key).filter (fun e => decide (e.2.line ≠ line))) (12 + i)
    { line := line, dirty := dirty, ref := true, cls := 0 }) (sideDrop line c)) s

/-- Fill a locked way with its range, one line per set (R374 step 2). -/
def loadLocked (i : Nat) (s : State) : State :=
  let l := lockOf s.cns i
  let t := (List.range l.len).foldl (fun s k => loadLine i (l.base + k) s) s
  { s with cns := t.cns, dram := t.dram }

/-- R374: the lock load ends: the way is locked and loaded, and WAY_LOCK is answered. -/
def lockLoadComplete (i : Nat) (s : State) : State :=
  let l := lockOf s.cns i
  if !l.loading then s
  else
    let s := onCns (fun c => putLock i { l with loading := false, loaded := true, mailbox := none } c) (loadLocked i s)
    match l.mailbox with
    | some n => answerLate n .ok s
    | none => s

def execLockLoadComplete (i : Fin 4) (s : State) : Res := .next (lockLoadComplete i s)

/-- A lock whose load is cut short: the WAY_LOCK that waited for it ends ABORTED (log entry 42). -/
def lockCut (i : Nat) (s : State) : State :=
  let l := lockOf s.cns i
  match l.mailbox with
  | some n => if l.loading then s
    else answerLate n (.fail .aborted) (onCns (fun c => putLock i { l with mailbox := none } c) s)
  | none => s

/-- R382; an unlock of a way that nobody holds changes nothing (log entry 147). -/
def wayLockH (n : Nat) (p : Bytes) (s : State) : BAns × State :=
  let op := fieldLE p 0 1
  let i := fieldLE p 1 1
  let base := fieldLE p 4 8
  let len := fieldLE p 12 4
  let h := claimant n true
  if 2 ≤ op ∨ 4 ≤ i then refuse .invalidField s
  else if !claimFree s 4 i h then (.now (claimedBy 4 i ((claimHolder s 4 i).getD 0)), s)
  else if op = 0 then
    if (claimHolder s 4 i).isNone then (.now .ok, s)
    else (.now .ok, dropClaim 4 i (lockCut i (lockEnable i (setBit (lockOf s.cns i).en 1 false) s)))
  else if !lockRangeOk s.cns base len then refuse .invalidField s
  else if s.cns.off.getLsbD (12 + i) ∨ !s.cns.powered.getLsbD (12 + i) ∨ (lockOf s.cns i).loading ∨
      (s.cns.maint.map (fun m => m.byWay && decide (m.way = 12 + i))).getD false then refuse .busy s
  else
    let s := lockEnable i (setBit (lockOf s.cns i).en 1 true) (setClaim 4 i h s)
    (.later, onCns (fun c => putLock i { lockOf c i with
        loading := true, loaded := false, base := base / 128, len := len / 128, mailbox := some n } c) (clearWay (12 + i) s))

def execWayLock (n : Fin 64) (s : State) : Res := .next (basmos n 0x0710 (layoutIs 16 [(2, 2)]) (wayLockH n) s)

/-! ### Maintenance (R376, R384) -/

/-- Start maintenance from the registers with an op; one operation runs at a time. -/
def maintStart (inv : Bool) (s : State) : State :=
  let c := s.cns
  if c.maint.isSome then s
  else onCns (fun c => { c with
    maintOp := inv
    maint := some { inv := inv, byWay := c.maintByWay, way := c.maintWay.toNat, base := c.maintAddr / 128,
                    lines := c.maintLen.toNat, mailbox := none } }) s

def execCacheClean (s : State) : Res := .next (maintStart false s)
def execCacheInvalidate (s : State) : Res := .next (maintStart true s)

/-- Does an operation cover the line in a way? -/
def maintCovers (m : CMaint) (w : Nat) (l : CLine) : Bool :=
  if m.byWay then decide (w = m.way) else decide (m.base ≤ l.line) && decide (l.line < m.base + m.lines)

/-- The lines that an operation skips and writes back: invalidate skips locked lines, clean does not. -/
def maintCounts (m : CMaint) (c : Cns) : Nat × Nat :=
  c.sets.foldl (fun (r : Nat × Nat) e => e.2.foldl (fun r wl =>
    if !maintCovers m wl.1 wl.2 then r
    else if m.inv ∧ wayLocked c wl.1 then (r.1 + 1, r.2)
    else (r.1, r.2 + b2n wl.2.dirty)) r) (0, 0)

/-- Apply an operation: clean leaves lines valid, invalidate drops them, neither discards dirty data; side-buffer
copies of covered lines go. -/
def maintApply (m : CMaint) (c : Cns) : Cns :=
  let sets := tmap (fun _ set =>
    (set.filter (fun wl => !(m.inv && maintCovers m wl.1 wl.2 && !wayLocked c wl.1))).map (fun wl =>
      if maintCovers m wl.1 wl.2 && !(m.inv && wayLocked c wl.1) then (wl.1, { wl.2 with dirty := false }) else wl)) c.sets
  let side := if m.byWay then c.side else
    tmap (fun _ l => l.filter (fun x => decide (x < m.base) || decide (m.base + m.lines ≤ x))) c.side
  { c with sets := sets, side := side }

/-- R376: the operation ends with its skipped and written counts. -/
def cacheMaintDone (s : State) : State :=
  match s.cns.maint with
  | none => s
  | some m =>
    let (k, w) := maintCounts m s.cns
    let s := writeBack (dirtyLines (fun w l => maintCovers m w l && !(m.inv && wayLocked s.cns w)) s.cns) s
    let s := onCns (fun c => { maintApply m c with maint := none, skipped := satW 20 k, written := satW 32 w }) s
    match m.mailbox with
    | some n => answerLate n (.ok (leN 4 (satW 20 k) ++ leN 4 w)) s
    | none => s

def execCacheMaintDone (s : State) : Res := .next (cacheMaintDone s)

/-- R384. -/
def cacheMaintH (n : Nat) (p : Bytes) (s : State) : BAns × State :=
  let op := fieldLE p 0 1
  let flags := fieldLE p 1 1
  let way := fieldLE p 2 1
  let base := fieldLE p 4 8
  let len := fieldLE p 12 4
  if 2 ≤ op ∨ 2 ≤ flags ∨ (flags = 1 ∧ 16 ≤ way) ∨ base % 128 ≠ 0 ∨ len % 128 ≠ 0 then refuse .invalidField s
  else if s.cns.maint.isSome then refuse .busy s
  else (.later, onCns (fun c => { c with
    maint := some { inv := decide (op = 1), byWay := decide (flags = 1), way := way, base := base / 128,
                    lines := len / 128, mailbox := some n } }) s)

def execCacheMaint (n : Fin 64) (s : State) : Res := .next (basmos n 0x0712 (layoutIs 16 [(3, 1)]) (cacheMaintH n) s)

/-! ### Status and parity -/

/-- The CNS_STAT.locked bits. -/
def lockedBits (c : Cns) : Nat := sumBy (fun i => 2 ^ i * b2n (lockOf c i).loaded) (List.range 4)

/-- R381. -/
def cacheStatusH (_ : Bytes) (s : State) : BAns × State :=
  let c := s.cns
  (.now (.ok (leN 2 c.powered.toNat ++ leN 1 (lockedBits c) ++ zeros 1 ++ leN 8 c.hits ++ leN 8 c.misses ++
    leN 4 c.parClean ++ leN 4 c.parDirty ++ zeros 4)), s)

def execCacheStatus (n : Fin 64) (s : State) : Res := .next (basmos n 0x0700 (layoutIs 0 []) cacheStatusH s)

/-- The SRAM row of a line in a way (log entry 12): block 0x38, macro slice x 16 + way, row the set. -/
def lineSubject (c : Cns) (line w : Nat) : Subject := .sramRow 0x38 (lineSlice c line * 16 + w) (line % 4096)

/-- Drop a line from its set. -/
def dropLine (line : Nat) (c : Cns) : Cns :=
  let key := setKey c line
  putSet key ((setOf c key).filter (fun e => e.2.line ≠ line)) c

/-- The Dovecote buckets on lines that a test names (R354). -/
def bucketsOn (f : Nat → Bool) (s : State) : List Nat :=
  (tkeys s.ing.buckets).filter (fun b => f (bucketAt b / 128))

/-- R377: a data parity error: a clean line is refetched; a dirty line is dropped: of class 4, its buckets are loaded again
(R191); of class 3, Parterre rebuilds the page from its checkpointed copy and the journal's map records, which leaves the
page's content as it was. -/
def parityError (line : Nat) (s : State) : State :=
  match findLine s.cns line with
  | none => s
  | some (w, l) =>
    let subj := lineSubject s.cns line w
    let s := if l.dirty then
        let s := if l.cls = 4 then askReloads (bucketsOn (fun x => decide (x = line)) s) s else s
        onCns (fun c => { dropLine line c with parDirty := satAdd 16 c.parDirty 1 }) s
      else onCns (fun c => { c with parClean := satAdd 16 c.parClean 1 }) s
    errorOn 7 (if l.dirty then 3 else 1) subj (leN 6 (line * 128)) s

def execCnsParityError (line : Nat) (s : State) : Res := .next (parityError line s)

/-- R378: a tag copy is rewritten from the other; if both fail the line is invalidated, and each address of
classes 3 and 4 that the set could hold is handled as a dirty parity error (R377). -/
def tagParityError (line : Nat) (both : Bool) (s : State) : State :=
  match findLine s.cns line with
  | none => s
  | some (w, _) =>
    let subj := lineSubject s.cns line w
    let s := if both then
        let key := setKey s.cns line
        let s := askReloads (bucketsOn (fun x => decide (setKey s.cns x = key)) s) s
        onCns (fun c => { dropLine line c with
          tagBoth := satAdd 16 c.tagBoth 1, parDirty := satAdd 16 c.parDirty 1 }) s
      else onCns (fun c => { c with tagCopy := satAdd 16 c.tagCopy 1 }) s
    errorOn 7 (if both then 3 else 1) subj (leN 6 (line * 128)) s

def execCnsTagParityError (line : Nat) (both : Bool) (s : State) : Res := .next (tagParityError line both s)

end Sys2Proof.Machine
end

