-- ==== Sys2Proof/Machine/Host.lean ====
section
/-!
DEFINITION. Machine/Host.lean: the host transport engine (chapter 06) and the LAT messages as they arrive (chapter 05):
connections, packets, acknowledgements, staging windows, credits, and the host port Basmos commands.
-/
namespace Sys2Proof.Machine

/-! ### Small reads of a queue pair -/

/-- Is the queue pair connected for traffic (OPEN or REKEY_REQUIRED)? -/
def qpLive (q : Qp) : Bool := decide (q.st = .open_ ∨ q.st = .rekey)

/-- PSN arithmetic modulo 2^24: how far b lies ahead of a. -/
def psnAhead (a b : Nat) : Nat := ahead 24 a b

/-- PSN p + 1 and p - 1. -/
def psnNext (p : Nat) : Nat := (p + 1) % 2 ^ 24
def psnPrev (p : Nat) : Nat := (p + 2 ^ 24 - 1) % 2 ^ 24

/-- The queue pair that carries a queue now. -/
def connOf (s : State) (queueId : Nat) : Option Nat :=
  (s.lat.qps.find? (fun e => decide (e.2.queueId = queueId ∧ e.2.st ≠ .free))).map (·.1)

/-- The cumulative PSN that an ACK carries: every packet at or below it has been placed (R154, R165). -/
def ackPsn (q : Qp) : Nat :=
  q.segq.foldl (fun p e => if psnAhead p e.1 < 2 ^ 23 ∧ e.1 ≠ psnNext p then p
    else if psnAhead e.1 p < 2 ^ 23 then psnPrev e.1 else p) q.psnAck

/-! ### ACKs and NAKs -/

/-- Send an ACK (R154): it carries the cumulative PSN and the granted credits (R168) in the standard's encoding (Table 6.1). -/
def sendAck (n : Nat) (s : State) : State :=
  let q := qpOf s n
  if q.st ≠ .open_ then s
  else
    let credit := creditCode q.granted
    emitAeth n (ackPsn q) credit q.msn (.ack n (ackPsn q) credit) (setQp n { q with ackDue := false, sinceAck := 0 } s)

/-- Send an RNR NAK with the timer code of R161, which rises to 12. -/
def sendRnr (n psn : Nat) (s : State) : State :=
  let q := qpOf s n
  if q.st ≠ .open_ then s
  else
    let s := setQp n { q with rnrCode := min 12 (q.rnrCode + 1), rnrSent := satAdd 32 q.rnrSent 1 } s
    emitAeth n psn (0x20 + q.rnrCode) q.msn (.rnrNak n psn q.rnrCode) { s with lat := { s.lat with nakRnr := satAdd 16 s.lat.nakRnr 1 } }

/-- Send a selective NAK naming consecutive PSNs: its MSN field holds their count (R167). -/
def sendSel (n : Nat) (psns : List Nat) (s : State) : State :=
  if (qpOf s n).st ≠ .open_ ∨ psns = [] then s
  else emitAeth n (psns.headD 0) 0x60 psns.length (.selNak n psns) { s with lat := { s.lat with nakSel := satAdd 16 s.lat.nakSel 1 } }

/-- A PSN sequence error NAK (code 0) of ordered mode, and an invalid-request NAK (code 1). -/
def sendNakCode (n psn code : Nat) (s : State) : State :=
  if (qpOf s n).st ≠ .open_ then s else emitAeth n psn (0x60 + code) (qpOf s n).msn (.nak n psn code) s
def sendNakSeq (n psn : Nat) (s : State) : State := sendNakCode n psn 0 s
def sendNakInvalid (n psn : Nat) (s : State) : State := sendNakCode n psn 1 s

/-- Count a discarded segment (R140, R164, R165; Tables 6.7 and 6.9). -/
def countDiscard (n : Nat) (s : State) : State :=
  let q := qpOf s n
  let s := setQp n { q with discards := satAdd 32 q.discards 1 } s
  { s with lat := { s.lat with discSeg := satAdd 16 s.lat.discSeg 1 } }

/-! ### The hold buffer (R155, R156) -/

/-- The room a packet takes: its size rounded up to 256 bytes. -/
def holdSize (bytes : Nat) : Nat := cdiv bytes 256 * 256

/-- The bytes a queue pair holds in the hold buffer: packets that wait for its context, parked segments, and the packets
that a fault stall holds. -/
def qpHeld (q : Qp) : Nat :=
  sumBy (fun p => holdSize p.payload.length) q.held + sumBy (fun p => holdSize p.2.2.length) q.parked +
    (if q.stalled then sumBy (fun p => holdSize p.2.length) q.segq else 0)

/-- Hold-buffer bytes in use, and those of parked segments. -/
def holdUsed (s : State) : Nat := sumBy (fun e => qpHeld e.2) s.lat.qps
def parkUsed (s : State) : Nat := sumBy (fun e => sumBy (fun p => holdSize p.2.2.length) e.2.parked) s.lat.qps

/-- Has the 4 MiB hold buffer room for so many bytes? -/
def holdRoom (s : State) (bytes : Nat) : Bool := decide (holdUsed s + holdSize bytes ≤ 2 ^ 22)

/-- Drop a packet for want of room: its queue pair and PSN enter the drop log of 256 entries (R156). -/
def dropPacket (n psn : Nat) (s : State) : State :=
  let l := s.lat
  { s with lat := { l with
    dropHold := satAdd 16 l.dropHold 1
    dropLog := if l.dropLog.length < 256 then l.dropLog ++ [(n, psn)] else l.dropLog
    logLost := if l.dropLog.length < 256 then l.logLost else satAdd 16 l.logLost 1 } }

/-- Once the context is cached, each logged PSN of the queue pair draws its NAK. -/
def nakDropped (n : Nat) (s : State) : State :=
  let mine := s.lat.dropLog.filter (fun e => decide (e.1 = n))
  let s := { s with lat := { s.lat with dropLog := s.lat.dropLog.filter (fun e => decide (e.1 ≠ n)) } }
  mine.foldl (fun s e => if (qpOf s n).mode = some true then sendSel n [e.2] s else sendNakSeq n e.2 s) s

/-- May a context be evicted: none of its packets, parked and stalled ones included, in the hold buffer, and none in flight
(R155)? -/
def mayEvict (s : State) (n : Nat) : Bool :=
  let q := qpOf s n
  q.held.isEmpty && q.parked.isEmpty && !q.stalled && q.outs.isEmpty

/-- A context is used: it moves to the front of the cache of 2,048; the least recently used one that may leave makes room for a
new one, and while none may, the new one is not cached (log entry 130). -/
def touchCtx (n : Nat) (s : State) : State :=
  let l := s.lat.lru.filter (· ≠ n)
  let enter (s : State) (l : List Nat) : State :=
    setQp n { qpOf s n with cached := true } { s with lat := { s.lat with lru := n :: l } }
  if s.lat.lru.contains n ∨ l.length < 2048 then enter s l
  else match l.reverse.find? (mayEvict s) with
    | none => setQp n { qpOf s n with cached := false } s
    | some k => enter (setQp k { qpOf s k with cached := false } s) (l.filter (· ≠ k))

/-! ### Closing (R123, R133, R152) -/

/-- A READ or IDENTIFY whose data the host had not acknowledged ends INVALID_FIELD: its replay-table entry follows. -/
def unsentRead (queueId csn : Nat) (s : State) : State :=
  match (tget s.jrn.tables queueId).bind (fun t => tget t.entries csn) with
  | some e =>
    if e.status ≠ .success then s
    else
      let e := { e with status := .invalidField, result := 0 }
      (writeLoose (.completion queueId e) (enterReplay queueId e s)).2
  | none => s

/-- An incomplete message of a closing queue pair ends: with the check its capsule is known to fail, or TIMEOUT. -/
def closeTag (n tag : Nat) (g : LTag) (s : State) : State :=
  match g.asn.bind (fun a => (cmdOf s a).map (fun c => (a, c))) with
  | none => s
  | some (asn, c) =>
    -- a plain-mode SEND that is complete and not yet copied is a command in progress
    if g.st ≠ .receiving ∨ g.plainBuf then s
    else match checkMessage asn c (setTag n tag { g with st := .ending } s) with
      | (true, s) => s
      | (false, s) => endEarly asn .timeout s

/-- CLOSING to FREE: commands run to their outcomes, READs that have not sent their data end, and nothing else of the
queue pair remains but the tags whose commands run. -/
def closeQp (n : Nat) (s : State) : State :=
  let q := qpOf s n
  let s := setQp n { q with st := .closing, toWrite := [], toSend := [] } s
  let unacked := (q.outs.filter (fun o => !o.isSend && decide (o.asn ≠ 0))).map (fun o => (o.asn, o.csn))
  let s := q.tags.foldl (fun s e => closeTag n e.1 e.2 s) s
  let s := (s.jrn.cmds.filter (fun e => decide (e.2.qpn = n ∧ e.2.queueId = q.queueId ∧ e.2.stage = .running) &&
    (decide (e.2.opcode = 2 ∨ e.2.opcode = 7)))).foldl (fun s e => endEarly e.1 .invalidField s) s
  let s := unacked.foldl (fun s e => match cmdOf s e.1 with
    | some c =>
      if c.stage = .decided ∧ c.status = .success then
        let c := { c with status := .invalidField, result := 0 }
        recordOutcome e.1 c (setCmd e.1 c s)
      else s
    | none => unsentRead q.queueId e.2 s) s
  let tags := tfilter (fun _ g => (g.asn.map (thas s.jrn.cmds)).getD false) (qpOf s n).tags
  let s := { s with
    jrn := { s.jrn with cmds := tmap (fun _ c => if c.qpn = n ∧ c.queueId = q.queueId then { c with closed := true } else c) s.jrn.cmds }
    lat := { s.lat with
    qps := tset s.lat.qps n { tags := tags, pd := q.pd }
    queues := tmod s.lat.queues q.queueId (fun l => { l with qpn := none, busy := tkeys tags })
    lru := s.lat.lru.filter (· ≠ n)
    dropLog := s.lat.dropLog.filter (fun e => decide (e.1 ≠ n)) } }
  linkLost n s

/-- The queue pair enters ERROR (R153): one DREQ, and it closes at once. -/
def errorQp (n : Nat) (s : State) : State := if qpLive (qpOf s n) then closeQp n (emit (.dreq n) s) else s

/-- DREQ from the host. DESIGN CHOICE (log entry 140): in CONNECTING, for which Table 6.2 gives no such exit, it is answered DREP
and the queue pair goes to FREE. -/
def dreqIn (n : Nat) (s : State) : State :=
  let q := qpOf s n
  if q.st = .connecting then setQp n { tags := q.tags, pd := q.pd } (emit (.drep n) s)
  else if qpLive q then closeQp n (emit (.drep n) s)
  else s

/-- QUEUE_KEEPALIVE_EXPIRY: no capsule for three intervals; the head tears the connection down, with an event. -/
def keepaliveExpiry (n : Nat) (s : State) : State :=
  if qpLive (qpOf s n) then record 0x0A 8 1 (.queuePair n) [] (closeQp n (emit (.dreq n) s)) else s

/-- CONNECTING_TIMEOUT: no RTU and no packet within 1 s. -/
def connectingTimeout (n : Nat) (s : State) : State :=
  let q := qpOf s n
  if q.st = .connecting then setQp n { tags := q.tags, pd := q.pd } s else s

/-- REPLAY_TABLE_EXPIRY: one hour after the close the table of a queue that is not connected is discarded. -/
def tableExpiry (id : Nat) (s : State) : State :=
  if (connOf s id).isSome then s
  else { s with
    lat := { s.lat with queues := terase s.lat.queues id }
    jrn := { s.jrn with tables := terase s.jrn.tables id, partly := s.jrn.partly.filter (fun p => decide (p.1 ≠ id)) } }

/-! ### Opening (R121, R122, R152) -/

/-- The reply of Table 5.2. -/
def openReply (s : State) (st : Status) (newest : Nat) : Bytes :=
  leN 2 1 ++ leN 1 st.code ++ leN 1 1 ++ leN 1 ((s.pair.role.map Role.num).getD 0xFF) ++ leN 1 32 ++ zeros 2 ++
    leN 4 newest ++ leN 4 16777216 ++ zeros 16

/-- The queues that count against the limit: connected, kept, or being connected. -/
def queueCount (s : State) (id : Nat) : Nat :=
  let known (k : Nat) : Bool := thas s.lat.queues k || thas s.jrn.tables k
  let kept := (tkeys s.lat.queues ++ (tkeys s.jrn.tables).filter (fun k => !thas s.lat.queues k)).length
  let coming := (tvals s.lat.qps).countP (fun q => decide (q.st = .connecting) && !known q.queueId)
  kept + coming + (if known id then 0 else 1)

/-- The keys held for a queue that has not opened: transmit and receive. -/
def heldKeys (s : State) (id : Nat) : Option (Bytes × Bytes) :=
  match s.sec.queueKeys.find? (fun k => decide (k.1 = id) && !k.2.1), s.sec.queueKeys.find? (fun k => decide (k.1 = id) && k.2.1) with
  | some t, some r => some (t.2.2, r.2.2)
  | _, _ => none

/-- What an open record decides (Table 5.3, R121, R124 and the compatibility limits): none to open. DESIGN CHOICE (log entry
138): a keepalive_s above 60 and a pd above 4,095, which Table 5.1 does not admit, are answered INVALID_FIELD. -/
def openFails (s : State) (rec_ : Bytes) : Option Status :=
  let id := fieldLE rec_ 8 8
  let pd := fieldLE rec_ 18 2
  let resume := fieldLE rec_ 2 2 = 1
  if s.pair.fenced then some .fenced
  else if rec_.length ≠ 32 ∨ fieldLE rec_ 0 2 ≠ 1 ∨ 1 < fieldLE rec_ 2 2 ∨ id = 0 ∨ 60 < fieldLE rec_ 16 2 ∨ 4095 < pd ∨
      !zeroAt rec_ 20 12 then some .invalidField
  else if (connOf s id).isSome then some .denied
  else if resume ∧ !thas s.jrn.tables id then some .notFound
  else match tget s.lat.pds pd with
    | none => some .denied
    | some p =>
      if p.gcm ∧ (heldKeys s id).isNone then some .denied
      else if p.gcm ∧ 512 ≤ (tvals s.lat.qps).countP (fun q => q.gcm && decide (q.st ≠ .free)) then some .exhausted
      else if 16384 < queueCount s id then some .exhausted
      else none

/-- The newest CSN that the reply names. -/
def replyNewest (s : State) (rec_ : Bytes) : Nat :=
  let fresh := (fieldLE rec_ 4 4 + 2 ^ 32 - 1) % 2 ^ 32
  if fieldLE rec_ 2 2 = 1 then ((tget s.jrn.tables (fieldLE rec_ 8 8)).map (·.newest)).getD fresh else fresh

/-- QUEUE_OPEN (R122). The first outbound PSN is free (log entry 5). DESIGN CHOICE (log entry 139): a REQ for a service or MTU that
the head does not support is answered INVALID_FIELD (R151) by a fenced head too, before FENCED (R124). -/
def queueOpen (n port : Nat) (supported : Bool) (hostQp psn : Nat) (rec_ : Bytes) (s : State) : State :=
  let q := qpOf s n
  let id := fieldLE rec_ 8 8
  if !(hportOf s port).up then s
  else if !supported then emit (.cmReject n (openReply s .invalidField (replyNewest s rec_))) s
  else match s.lat.qps.find? (fun e => decide (e.2.st = .connecting ∧ e.2.queueId = id)) with
    | some (k, _) =>
      if s.pair.fenced then emit (.cmReject n (openReply s .fenced (replyNewest s rec_))) s
      else emit (.cmReply k (openReply s .success (replyNewest s rec_))) s
    | none => match openFails s rec_ with
      | some st => emit (.cmReject n (openReply s st (replyNewest s rec_))) s
      | none =>
        if q.st ≠ .free ∨ q.tags ≠ [] then s
        else
          let p := (tget s.lat.pds (fieldLE rec_ 18 2)).getD { gcm := false, plain := false, ranges := [], pageLimit := 0 }
          let ka := fieldLE rec_ 16 2
          let v : Qp := {
            st := .connecting, queueId := id, port := port, openPort := port, pd := fieldLE rec_ 18 2, plain := p.plain
            gcm := p.gcm, destQp := hostQp % 2 ^ 24, psnAck := psnPrev (psn % 2 ^ 24), creditWin := s.lat.defWin, txPsn := freeNat s % 2 ^ 24
            keepaliveS := if ka = 0 then 10 else ka, resume := decide (fieldLE rec_ 2 2 = 1), initCsn := fieldLE rec_ 4 4 }
          emit (.cmReply n (openReply s .success (replyNewest s rec_))) (setQp n v (draw s))

/-- A key of 32 bytes with its 4-byte salt (R170). -/
def keyPhase (k : Bytes) (phase : Nat) : GKey := { key := k.take 32, salt := (k.drop 32).take 4, phase := phase }

/-- RTU, or a packet of the connection (Table 6.2): the queue is opened. -/
def openQueue (n : Nat) (s : State) : State :=
  let q := qpOf s n
  if q.st ≠ .connecting then s
  else
    let id := q.queueId
    let keys := heldKeys s id
    let q : Qp := { q with
      st := .open_, granted := if q.plain then q.plainBufs else q.creditWin
      tx := if q.gcm then keys.map (fun k => keyPhase k.1 0) else none
      rx := if q.gcm then keys.map (fun k => keyPhase k.2 0) else none }
    let fresh : RTable := { newest := (q.initCsn + 2 ^ 32 - 1) % 2 ^ 32, pd := some q.pd }
    -- the tags of commands that still run stay in the queue's context (R152)
    let runs := s.jrn.cmds.filter (fun e => decide (e.2.queueId = id))
    let q : Qp := { q with tags := runs.foldl (fun t e => tset t e.2.tag { st := if e.2.stage = .decided then .ending else .running, asn := some e.1 }) q.tags }
    let s := setQp n q s
    let s := { s with
      lat := { s.lat with queues := tset s.lat.queues id { qpn := some n, pd := q.pd, busy := runs.map (fun e => e.2.tag) } }
      sec := { s.sec with queueKeys := if q.gcm then s.sec.queueKeys.filter (fun k => decide (k.1 ≠ id)) else s.sec.queueKeys }
      jrn := if q.resume then { s.jrn with tables := tmod s.jrn.tables id (fun t => { t with pd := some q.pd }) } else { s.jrn with
        tables := tset s.jrn.tables id fresh, partly := s.jrn.partly.filter (fun p => decide (p.1 ≠ id)) } }
    touchCtx n s

/-! ### Staging pages (R160, R161) -/

/-- Staging pages of a queue pair, of a domain, and of the head. -/
def qpPages (q : Qp) : Nat := sumBy (fun e => e.2.pages.length) q.tags + q.plainRx.pages
def pdPages (s : State) (pd : Nat) : Nat := sumBy (fun e => if e.2.pd = pd then qpPages e.2 else 0) s.lat.qps
def poolUsed (s : State) : Nat := sumBy (fun e => qpPages e.2) s.lat.qps

/-- May so many more pages be taken for a queue pair: the pool has them and its domain's limit allows them (R157)? -/
def pagesFree (s : State) (q : Qp) (k : Nat) : Bool :=
  let lim := ((tget s.lat.pds q.pd).map (·.pageLimit)).getD 0
  decide (poolUsed s + k ≤ s.lat.poolMib * 16) && (decide (lim = 0) || decide (pdPages s q.pd + k ≤ lim))

/-- The window pages that data bytes [a, b) of a message touch: byte k of the data lies at first_block mod 8 x 4,096 + k
(R159). -/
def pagesOf (capsule : Bytes) (a b : Nat) : List Nat :=
  let o := fieldLE capsule 16 8 % 8 * 4096
  if b ≤ a then []
  else (List.range ((o + b - 1) / 65536 + 1)).filter (fun i => decide ((o + a) / 65536 ≤ i ∧ i ≤ 256))

/-! ### Messages (R126, R139 to R141, R144) -/

/-- The bytes a message has placed. -/
def placedSum (g : LTag) : Nat := sumBy (fun e => e.2.length) g.placed

/-- Do bytes [off, off + n) overlap bytes already placed? -/
def overlaps (g : LTag) (off n : Nat) : Bool := g.placed.any (fun e => decide (off < e.1 + e.2.length ∧ e.1 < off + n))

/-- The capsule of a message, once bytes 0 to 63 are placed. -/
def capsuleOf (g : LTag) : Option Bytes :=
  let head := g.placed.filter (fun e => decide (e.1 < 64))
  if 64 ≤ sumBy (fun e => min (e.1 + e.2.length) 64 - e.1) head then
    some (memGets (head.foldl (fun m e => memPuts m e.1 (e.2.take (64 - e.1))) ([] : Mem)) 0 64)
  else none

/-- The expected total of a capsule (R126). -/
def expected (capsule : Bytes) : Nat := if fieldLE capsule 0 1 = 1 then 64 + fieldLE capsule 24 4 else 64

/-- Is the command known to fail a check of R144? -/
def knownToFail (s : State) (asn : Nat) (c : Cmd) : Bool :=
  s.pair.fenced || decide (csnCheck s asn c ≠ .run) || (firstFails s c).isSome

/-- A new command from a complete capsule takes the next ASN (R60); a tag in the capsule that differs from the message's
fails the checks (R128). -/
def enterCapsule (n tag : Nat) (capsule : Bytes) (s : State) : State :=
  let asn := s.jrn.asn + 1
  let q := qpOf s n
  let s := { s with jrn := { s.jrn with asn := asn, cmds := tset s.jrn.cmds asn (newCmd n tag q.queueId capsule (crc32c capsule)) } }
  setTag n tag { tagOf q tag with asn := some asn } s

/-- A message ends LENGTH_MISMATCH (Table 5.11); without its capsule its completion carries a csn of 0. -/
def mismatch (n tag : Nat) (s : State) : State :=
  let g := tagOf (qpOf s n) tag
  let s := setTag n tag { g with st := .ending } s
  match g.asn with
  | none => answerMsg n tag 0 0 .lengthMismatch 0 0 s
  | some asn => match cmdOf s asn with
    | none => s
    | some c => match (if c.checked then (false, s) else checkMessage asn c s) with
      | (true, s) => s
      | (false, s) => endEarly asn .lengthMismatch s

/-- A segment with FIRST, or a plain-mode capsule, for a tag that is not FREE (R140). -/
def breach (n tag : Nat) (s : State) : State :=
  let g := tagOf (qpOf s n) tag
  let s := record 0x0A 4 1 (.queuePair n) (leN 1 tag) s
  let past := ((g.asn.bind (cmdOf s)).map pastReturn).getD (decide (g.st = .ending))
  let s := setTag n tag { g with discard := true } s
  if past then s else mismatch n tag s

/-- The message of a tag may have become complete (R164, R144): the tag then enters RUNNING. -/
def checkComplete (n tag : Nat) (s : State) : State :=
  let g := tagOf (qpOf s n) tag
  match g.asn.bind (fun a => (cmdOf s a).map (fun c => (a, c))) with
  | none => s
  | some (asn, c) =>
    let want := if knownToFail s asn c then g.total.getD (expected c.capsule) else expected c.capsule
    if g.st = .receiving ∧ placedSum g = want then
      let s := setTag n tag { g with st := .running } s
      -- no row of the table runs an opcode outside 1 to 8: it fails check 3 at once
      if within 1 8 c.opcode then s else runMessage c.opcode n tag s
    else s

/-- Does a segment break the length rules of R164 and Table 5.11? -/
def lengthBreach (g : LTag) (off n : Nat) (last : Bool) (total : Nat) (capsule : Option Bytes) : Bool :=
  let end_ := off + n
  overlaps g off n || (last && decide (end_ ≠ total)) ||
    (match g.total with
      | some t => decide (t < end_) || (last && decide (t ≠ total))
      | none => false) ||
    (match capsule with
      | some c => decide (expected c < end_) || (last && decide (total ≠ expected c)) || (g.total.map (fun t => decide (t ≠ expected c))).getD false
      | none => false)

/-- Place bytes at a message offset in a RECEIVING tag, its completion apart. The answer is false when a staging page is wanting
(R161). -/
def placeAt (n tag off : Nat) (bs : Bytes) (last : Bool) (total : Nat) (s : State) : Bool × State :=
  let q := qpOf s n
  let g := tagOf q tag
  let g' := { g with placed := g.placed ++ [(off, bs)], total := if last ∧ g.total = none then some total else g.total }
  let cap := capsuleOf g'
  -- the capsule completes: the command is registered before its length is judged
  let s := match g.asn, cap with
    | none, some c => if overlaps g off bs.length then s else enterCapsule n tag c s
    | _, _ => s
  let asn := (tagOf (qpOf s n) tag).asn
  let failing := (asn.bind (fun a => (cmdOf s a).map (knownToFail s a))).getD false
  if lengthBreach g off bs.length last total cap ∧ !failing then (true, mismatch n tag s)
  else if overlaps g off bs.length then (true, s)
  else
    let want := (pagesOf (cap.getD []) (max off 64 - 64) (off + bs.length - 64)).filter (fun p => !g.pages.contains p)
    if !pagesFree s (qpOf s n) want.length then (false, s)
    else
      let s := setTag n tag { g' with asn := asn, pages := g.pages ++ want } s
      (true, setQp n { qpOf s n with rnrCode := 4 } s)

/-- Place bytes; the message may then be complete. -/
def placeBytesAt (n tag off : Nat) (bs : Bytes) (last : Bool) (total : Nat) (s : State) : Bool × State :=
  let (ok, s) := placeAt n tag off bs last total s
  (ok, if ok then checkComplete n tag s else s)

/-! ### Segments (R159, R163 to R166) -/

/-- The fields of a segment header (Table 6.5) and its data. -/
structure Seg where
  first : Bool
  last : Bool
  mp : Bool
  tag : Nat
  off : Nat
  total : Nat
  data : Bytes
  deriving DecidableEq, Repr

/-- Read a tagged-mode packet; none for one without data, with a nonzero reserved field, or with a tag above 31 (R164). -/
def segOf (p : Bytes) : Option Seg :=
  let f := fieldLE p 0 1
  if p.length ≤ 16 ∨ 8 ≤ f ∨ 31 < fieldLE p 1 1 ∨ !zeroAt p 2 2 ∨ !zeroAt p 12 4 then none
  else some {
    first := f.testBit 0, last := f.testBit 1, mp := f.testBit 2, tag := fieldLE p 1 1, off := fieldLE p 4 4
    total := fieldLE p 8 4, data := p.drop 16 }

/-- Take a PSN back: the packet was not placed and must be sent again (R161, R166). -/
def unmark (psn : Nat) (q : Qp) : Qp :=
  if q.mode = some true then
    let lost := psnAhead psn q.psnAck
    if lost < 2 ^ 23 then
      let above := (List.range (min lost 4096)).map (fun i => (psn + 1 + i) % 2 ^ 24)
      { q with psnAck := psnPrev psn, window := above ++ q.window }
    else { q with window := q.window.filter (· ≠ psn) }
  else { q with psnAck := psnPrev psn }

/-- The segments parked for a tag, in offset order. -/
def parkedFor (q : Qp) (tag : Nat) : List (Nat × Bytes × Seg) :=
  ((q.parked.filter (fun p => decide (p.2.1 = tag))).filterMap (fun p => (segOf p.2.2).map (fun g => (p.1, p.2.2, g)))).mergeSort
    (fun a b => decide (a.2.2.off ≤ b.2.2.off))

/-- Place what was parked for a tag after its FIRST, in the same step (R166): a segment that finds no page waits for one at the
front of the queue pair's packets, those after it behind it (R161). The message is judged when all are placed. -/
def placeParked (n tag : Nat) : List (Nat × Bytes × Seg) → State → State
  | [], s => checkComplete n tag s
  | e :: rest, s =>
    if (tagOf (qpOf s n) tag).st ≠ .receiving then s
    else match placeAt n tag e.2.2.off e.2.2.data e.2.2.last e.2.2.total s with
      | (true, s) => placeParked n tag rest s
      | (false, s) =>
        let q := qpOf s n
        setQp n { q with segq := q.segq.take 1 ++ (e :: rest).map (fun x => (x.1, x.2.1)) ++ q.segq.drop 1 } s

/-- What placing the front packet did: it is gone from the queue, or it waits for a page. -/
def placeSeg (n psn : Nat) (g : Seg) (raw : Bytes) (s : State) : Bool × State :=
  let q := qpOf s n
  let t := tagOf q g.tag
  match t.st with
  | .free =>
    if g.first then
      let mine := parkedFor q g.tag
      -- a parked LAST fixes the total (R166)
      let total := (mine.find? (fun e => e.2.2.last)).map (fun e => e.2.2.total)
      let s' := setTag n g.tag { t with st := .receiving, total := total } s
      match placeAt n g.tag g.off g.data g.last g.total s' with
      | (true, s) =>
        let s := setQp n { qpOf s n with parked := (qpOf s n).parked.filter (fun p => decide (p.2.1 ≠ g.tag)) } s
        (true, placeParked n g.tag mine s)
      | (false, _) => (false, s)
    else if q.mode ≠ some true then (true, countDiscard n s)
    else if holdRoom s raw.length ∧ parkUsed s + holdSize raw.length ≤ 2 ^ 21 then
      (true, setQp n { q with parked := q.parked ++ [(psn, g.tag, raw)] } s)
    else (true, nakDropped n (dropPacket n psn (setQp n (unmark psn q) s)))
  | .receiving =>
    if g.first then (true, countDiscard n (breach n g.tag s))
    else if t.discard then (true, countDiscard n s)
    else placeBytesAt n g.tag g.off g.data g.last g.total s
  | _ =>
    if g.first then (true, countDiscard n (breach n g.tag s))
    else (true, if t.discard then countDiscard n s else s)

/-- After the front packet has been dealt with: it leaves the queue and an ACK falls due. -/
def popSeg (n : Nat) (s : State) : State :=
  let q := qpOf s n
  monEnd 15 n q.pd (setQp n { q with segq := q.segq.drop 1, stalled := false } s)

/-- The front packet faults: it and what follows wait in the hold buffer; without room there it is answered at once
(Table 6.3). -/
def faultTimeout (n : Nat) (s : State) : State :=
  let q := qpOf s n
  match q.segq with
  | [] => s
  | (psn, _) :: rest =>
    let q := if q.mode = some true then { unmark psn q with segq := rest, stalled := false }
      else { unmark psn q with segq := [], stalled := false }
    monEnd 15 n q.pd (sendRnr n psn (setQp n q s))

def stallSeg (n : Nat) (s : State) : State :=
  let q := qpOf s n
  let need := ((q.segq.head?.map (fun e => e.2.length)).getD 0)
  if q.stalled then s
  else if holdRoom s need then setQp n { q with stalled := true } (monBegin 15 n s)
  else faultTimeout n (monBegin 15 n s)

/-- TAGGED_SEGMENT (R159): the front packet of a tagged-mode queue pair is matched, parked or placed. -/
def taggedSegment (n : Nat) (s : State) : State :=
  let q := qpOf s n
  if q.plain then s
  else match q.segq with
    | [] => s
    | (psn, raw) :: _ => match segOf raw with
      | none => popSeg n (countDiscard n s)
      | some g =>
        if g.mp ≠ (q.mode = some true) then popSeg n (countDiscard n s)
        else match placeSeg n psn g raw s with
          | (true, s) => popSeg n s
          | (false, s) => stallSeg n s

/-! ### Plain mode (R162) -/

/-- A plain-mode SEND is over: its buffer stays with the tag until the copy is done, or is freed. -/
def endPlain (n : Nat) (s : State) : State :=
  let q := qpOf s n
  let x := q.plainRx
  let q0 := { q with plainRx := {} }
  match x.tag with
  | some t =>
    let g := tagOf q0 t
    if x.drop ∨ g.st ≠ .receiving then setQp n { q0 with plainBufs := min 32 (q.plainBufs + 1) } (countDiscard n s)
    else
      let bad := ((capsuleOf g).map (fun c => decide (expected c ≠ x.bytes.length))).getD true
      let failing := (g.asn.bind (fun a => (cmdOf s a).map (knownToFail s a))).getD false
      let g' := { g with placed := [(0, x.bytes)], total := some x.bytes.length, plainBuf := true
                         pages := List.range x.pages }
      if bad ∧ !failing then mismatch n t (setQp n { q0 with plainBufs := min 32 (q.plainBufs + 1) } s)
      else setQp n { q0 with tags := tset q0.tags t g' } s
  | none => setQp n { q0 with plainBufs := min 32 (q.plainBufs + 1) } (countDiscard n s)

/-- The bytes of the SEND being received have reached the capsule: its tag enters RECEIVING (R162 item 3). -/
def plainCapsule (n : Nat) (s : State) : State :=
  let q := qpOf s n
  let x := q.plainRx
  if x.tag ≠ none ∨ x.drop ∨ x.bytes.length < 64 then s
  else
    let cap := x.bytes.take 64
    let t := fieldLE cap 2 1
    if 31 < t then setQp n { q with plainRx := { x with drop := true } } s
    else if (tagOf q t).st ≠ .free then
      breach n t (setQp n { q with plainRx := { x with drop := true } } s)
    else
      let s := setQp n { q with plainRx := { x with tag := some t }, tags := tset q.tags t { st := .receiving, placed := [(0, cap)] } } s
      enterCapsule n t cap s

/-- A plain-mode SEND reaches beyond its expected total: it ends LENGTH_MISMATCH as that packet arrives. -/
def plainOver (n : Nat) (s : State) : State :=
  let x := (qpOf s n).plainRx
  match x.tag with
  | some t =>
    let g := tagOf (qpOf s n) t
    match capsuleOf g, g.asn.bind (fun a => (cmdOf s a).map (knownToFail s a)) with
    | some c, some false =>
      if expected c < x.bytes.length ∧ !x.drop then
        mismatch n t (setQp n { qpOf s n with plainRx := { x with drop := true } } s)
      else s
    | _, _ => s
  | none => s

/-- PLAIN_SEND (R162): the front packet goes into the receive buffer of its SEND. A packet that continues no SEND is discarded; a
First or Only while a SEND is unfinished gives that SEND up, its buffer free again (log entry 131). -/
def plainSend (n : Nat) (s : State) : State :=
  let q := qpOf s n
  if !q.plain then s
  else match q.segq with
    | [] => s
    | (_, raw) :: _ =>
      let op := fieldLE raw 0 1
      let first := decide (op = 0 ∨ op = 1)
      let last := decide (op = 0 ∨ op = 3)
      if !first ∧ !q.plainRx.begun then popSeg n (countDiscard n s)
      else
        let freed := b2n (first && q.plainRx.begun)
        let x : PlainRx := if first then { begun := true } else q.plainRx
        let bytes := if x.drop then x.bytes else x.bytes ++ raw.drop 1
        let pages := cdiv bytes.length 65536
        if 16777280 < bytes.length then
          popSeg n (countDiscard n (setQp n { q with plainRx := { x with drop := true } } s))
        else if !pagesFree s { q with plainRx := x } (pages - x.pages) then stallSeg n s
        else
          let q := { q with plainRx := { x with bytes := bytes, pages := pages }, rnrCode := 4
                            plainBufs := min 32 (q.plainBufs + freed) }
          let s := plainOver n (plainCapsule n (setQp n q s))
          popSeg n (if last then endPlain n s else s)

/-- PLAIN_COPY_DONE (R162): the data stands in the staging window, whose pages it has found (R157, R160), and the buffer is
freed. -/
def plainCopyDone (n tag : Nat) (s : State) : State :=
  let q := qpOf s n
  let g := tagOf q tag
  let window := pagesOf ((capsuleOf g).getD []) 0 (placedSum g - 64)
  if !g.plainBuf ∨ !pagesFree s q window.length then s
  else
    let g := { g with plainBuf := false, st := .running, pages := window }
    let s := setQp n { q with tags := tset q.tags tag g, plainBufs := min 32 (q.plainBufs + 1) } s
    match g.asn.bind (cmdOf s) with
    | some c => if within 1 8 c.opcode then s else runMessage c.opcode n tag s
    | none => s

/-! ### Page returns -/

/-- May a staging page return (R160): every chunk whose data lies in it has its journal record, or the command has an
outcome that applies nothing? -/
def pageDone (s : State) (g : LTag) (page : Nat) : Bool :=
  match g.asn.bind (cmdOf s) with
  | none => decide (g.st = .ending)
  | some c =>
    (decide (c.stage = .decided) && decide (c.status ≠ .success)) ||
      (decide (c.stage ≠ .held) && !c.chunks.isEmpty && c.chunks.all (fun w =>
        decide ((w.chunk - c.first / 8) / 2 ≠ page) || decide (w.stage = .written)))

/-- Place the front packet of a queue pair again. -/
def retrySeg (n : Nat) (s : State) : State :=
  if (qpOf s n).plain then plainSend n s else taggedSegment n s

/-- STAGING_PAGE_FREE (R160): the page returns to the pool, and a packet stalled on a fault is placed. -/
def stagingPageFree (n tag page : Nat) (s : State) : State :=
  let g := tagOf (qpOf s n) tag
  let s := if g.pages.contains page ∧ pageDone s g page then
      setTag n tag { g with pages := g.pages.filter (· ≠ page) } s
    else s
  (s.lat.qps.filter (fun e => e.2.stalled)).foldl (fun s e => retrySeg e.1 s) s

/-- STAGING_FAULT_TIMEOUT (R161). -/
def stagingFaultTimeout (n : Nat) (s : State) : State :=
  if (qpOf s n).stalled then faultTimeout n s else s

/-! ### Inbound packets (R150 to R154, R165, R168, R171) -/

/-- The PSNs at or below a cumulative PSN leave the list of packets in flight. -/
def ackOuts (n psn : Nat) (s : State) : State :=
  let q := qpOf s n
  setQp n { q with outs := q.outs.filter (fun o => decide (2 ^ 23 ≤ psnAhead o.psn psn)) } s

/-- Open an encrypted payload (R170, R171): the queue pair with its counters moved on, and the plaintext; none for a
repeated counter, one below the window of 2,048, or a tag that fails. -/
def openPayload (q : Qp) (p : Packet) : Option (Qp × Bytes) :=
  let phase := fieldLE p.payload 5 1 % 2
  let ctr := fieldLE p.payload 0 5
  let pick (k : Option GKey) : Option GKey := k.filter (fun k => decide (k.phase = phase))
  let isNew := (pick q.rx).isNone
  match (pick q.rx).or (pick q.rxNew) with
  | none => none
  | some k =>
    let n := p.payload.length
    let old := (k.high.map (fun h => decide (ctr + 2048 < h) || k.seen.contains ctr || decide (ctr = h))).getD false
    if n < 24 ∨ old then none
    else match gcmDec k.key (k.salt ++ leN 8 ctr) (p.aad ++ p.payload.take 8) ((p.payload.take (n - 16)).drop 8) (p.payload.drop (n - 16)) with
      | none => none
      | some pt =>
        let high := max ctr (k.high.getD 0)
        let k := { k with high := some high, seen := (ctr :: k.seen).filter (fun c => decide (high ≤ c + 2048)) }
        some (if isNew then { q with rxNew := some k, rxOld := true } else { q with rx := some k }, pt)

/-- Does a queue pair take part in the round of grants: messages in RECEIVING or a credit request pending, and room in its
window (R169)? -/
def wantsGrant (q : Qp) : Bool :=
  qpLive q && !q.plain && decide (q.granted < q.creditWin) &&
    (q.creditAsked || q.tags.any (fun e => decide (e.2.st = .receiving)))

/-- Grant k segments round-robin, from the queue pair whose turn it is on (R169). -/
def serveRound : Nat → State → State
  | 0, s => s
  | k + 1, s =>
    let l := s.lat.qps.filter (fun e => wantsGrant e.2)
    match (l.find? (fun e => decide (s.lat.turn ≤ e.1))).orElse (fun _ => l.head?) with
    | none => s
    | some (n, q) =>
      let s := setQp n { q with granted := q.granted + 1, creditAsked := false } s
      serveRound k { s with lat := { s.lat with turn := n + 1 } }

/-- The allowance is served (R168, R169): at the full cap a tagged queue pair has its whole window; while A is lowered, how many
segments it yields by now is free, and they go round (log entry 7). In plain mode the credits are the free buffers. -/
def regrant (n : Nat) (s : State) : State :=
  let q := qpOf s n
  if q.plain then setQp n { q with granted := q.plainBufs } s
  else if s.lat.cap ≤ s.lat.allow then setQp n { q with granted := q.creditWin, creditAsked := false } s
  else serveRound (freeNat s % 257) (draw s)

/-- A packet marked CE draws a congestion notification, at most one per 50 us (R149): whether 50 us have passed since the
last is free (log entry 7). -/
def noteCe (n : Nat) (s : State) : State :=
  let q := qpOf s n
  if !s.lat.cnpEn ∨ q.st ≠ .open_ then s
  else if !q.cnpSent then emit (.cnp n) (setQp n { q with cnpSent := true } s)
  else if freeNat s % 2 = 1 then emit (.cnp n) (draw s)
  else draw s

/-- Accept a packet with a new PSN: it enters the queue to be placed, and ACKs are coalesced (R154). -/
def acceptPacket (n psn : Nat) (bytes : Bytes) (s : State) : State :=
  let q := qpOf s n
  let q := if q.mode = some true then
      let w := psn :: q.window
      let run := (List.range 1025).foldl (fun a _ => if w.contains (psnNext a) then psnNext a else a) q.psnAck
      { q with psnAck := run, window := w.filter (fun p => decide (2 ^ 23 ≤ psnAhead p run)) }
    else { q with psnAck := psn }
  -- a plain-mode SEND takes its receive buffer with its first packet (R162)
  let start := q.plain && decide (fieldLE bytes 0 1 < 2)
  let whole := !q.plain || decide (fieldLE bytes 0 1 = 0 ∨ fieldLE bytes 0 1 = 3)
  let q := { q with
    segq := q.segq ++ [(psn, bytes)], granted := q.granted - 1, ackDue := true, sinceAck := q.sinceAck + 1
    plainBufs := q.plainBufs - b2n start, msn := (q.msn + b2n whole) % 2 ^ 24
    gapAt := q.gapAt.filter (· ≠ psn) }
  let s := regrant n (setQp n q s)
  if 32 ≤ q.sinceAck then sendAck n s else s

/-- A data packet after its payload is in the clear: duplicates, order, window and credit. -/
def dataPacket (n psn : Nat) (bytes : Bytes) (s : State) : State :=
  let q := qpOf s n
  -- the mode comes from the MP bit of the first segment (R165)
  let mp := !q.plain && (fieldLE bytes 0 1).testBit 2
  let q := if q.mode = none ∧ (q.plain ∨ 16 < bytes.length) then { q with mode := some mp } else q
  let s := setQp n q s
  let d := psnAhead q.psnAck psn
  let multi := decide (q.mode = some true)
  let start := !q.plain || decide (fieldLE bytes 0 1 < 2)
  if d = 0 ∨ 2 ^ 23 ≤ d ∨ (multi ∧ q.window.contains psn) then sendAck n s
  else if !multi ∧ d ≠ 1 then sendNakSeq n (psnNext q.psnAck) s
  else if multi ∧ 1024 < d then s
  else if start ∧ q.granted = 0 then sendRnr n psn (setQp n { q with creditAsked := true } s)
  -- behind a fault stall it waits in the hold buffer (R161); without room there it is dropped (R156)
  else if q.stalled ∧ !holdRoom s bytes.length then nakDropped n (dropPacket n psn s)
  else acceptPacket n psn bytes s

/-- The number of a SEND opcode that a queue pair supports (Table 6.1). -/
def sendLead (q : Qp) : PacketOp → Option Nat
  | .sendOnly => some 0
  | .sendFirst => if q.plain then some 1 else none
  | .sendMiddle => if q.plain then some 2 else none
  | .sendLast => if q.plain then some 3 else none
  | _ => none

/-- Is a packet valid for a queue pair that it would open (Table 6.2)? -/
def validPacket (q : Qp) (p : Packet) : Bool :=
  match p.op with
  | .ack => true
  | .nakSeq => true
  | op => (sendLead q op).isSome && (!q.gcm || (openPayload q p).isSome)

/-- Packets in flight again, from one PSN on: each takes the next counter of its key (R171). -/
def resendFrom (n : Nat) (outs : List OutPkt) (s : State) : State :=
  outs.foldl (fun s o =>
    let q := qpOf s n
    if !maySend s q then s
    else match nextCounter q with
      | none => record 0x0A 6 2 (.queuePair n) (leN 1 1) (setQp n { q with st := .rekey } s)
      | some (_, q') => rekeyNote n q q' (emit (.resend n o.psn) (setQp n q' s))) s

/-- A NAK with the PSN sequence error syndrome (R150): what precedes its PSN has arrived, and the rest is sent again, as the
standard states. -/
def seqNak (n psn : Nat) (s : State) : State :=
  let s := ackOuts n (psnPrev psn) s
  resendFrom n (qpOf s n).outs s

/-- A packet whose context is in the cache. -/
def packetIn (n : Nat) (p : Packet) (s : State) : State :=
  let s := touchCtx n s
  let s := if p.ce then noteCe n s else s
  let q := qpOf s n
  match p.op, sendLead q p.op with
  | .ack, _ => ackOuts n (p.psn % 2 ^ 24) s
  | .nakSeq, _ => seqNak n (p.psn % 2 ^ 24) s
  | _, none => errorQp n (sendNakInvalid n (p.psn % 2 ^ 24) s)
  | _, some k =>
    let take (b : Bytes) (s : State) : State :=
      dataPacket n (p.psn % 2 ^ 24) (if q.plain then leN 1 k ++ b else b) s
    if !q.gcm then take p.payload s
    else match openPayload q p with
      | none => { s with lat := { s.lat with discGcm := satAdd 16 s.lat.discGcm 1 } }
      | some (q, b) => take b (setQp n q s)

/-- A frame arrives at a host port. One of an 802.1Q VLAN that is not the port's, or with more tags, is dropped and counted
(R148). Whether the receive buffer for the port's priority is three quarters full is free (R149, log entry 132): a pause frame
goes out as it fills, another as it drains. -/
def frameIn (port : Nat) (vlans : List Nat) (s : State) : Bool × State :=
  let h := hportOf s port
  let put (h : HPort) (s : State) : State := { s with lat := { s.lat with hports := tset s.lat.hports port h } }
  if !h.up then (false, s)
  else if vlans ≠ [] ∧ (vlans ≠ [fieldLE h.addr 6 2] ∨ vlans = [0]) then (false, put { h with vlanDrops := h.vlanDrops + 1 } s)
  else if 7 < h.pfc then (true, s)
  else
    let full := decide (freeNat s % 2 = 1)
    let s := draw s
    (true, if full = h.pausing then s else emit (.pauseSent port h.pfc full) (put { h with pausing := full } s))

/-- INBOUND_PACKET (R154). A valid packet completes a CONNECTING queue pair as RTU would (Table 6.2); one whose context is
not in the cache waits in the hold buffer (R155). -/
def inboundPacket (n : Nat) (p : Packet) (s : State) : State :=
  match frameIn p.port p.vlans s with
  | (false, s) => s
  | (true, s) =>
    let s := if (qpOf s n).st = .connecting ∧ validPacket (qpOf (openQueue n s) n) p then openQueue n s else s
    let q := qpOf s n
    if !qpLive q then s
    else if q.cached then packetIn n p s
    else if holdRoom s p.payload.length then
      setQp n { q with held := q.held ++ [p], fetching := true } (if q.fetching then s else monBegin 14 n s)
    else dropPacket n (p.psn % 2 ^ 24) s

/-- CONTEXT_FETCH_DONE (R155): the packets leave the hold buffer in order; an uncorrectable context line is an error of
the queue pair (Table 6.3). -/
def contextFetchDone (n : Nat) (lineOk : Bool) (s : State) : State :=
  let q := qpOf s n
  if !q.fetching ∨ !qpLive q then s
  else if !lineOk then errorQp n (record 0x0A 1 2 (.queuePair n) [] (setQp n { q with fetching := false } s))
  else
    let s' := monEnd 14 n 0 (touchCtx n (setQp n { q with fetching := false, held := [] } s))
    if !(qpOf s' n).cached then s
    else
      let s := q.held.foldl (fun s p => if qpLive (qpOf s n) then packetIn n p s else s) s'
      if qpLive (qpOf s n) then nakDropped n s else s

/-- ACK_COALESCE_TIMER (R154). -/
def ackTimer (n : Nat) (s : State) : State := if (qpOf s n).ackDue ∧ qpLive (qpOf s n) then sendAck n s else s

/-- SELECTIVE_NAK_TIMER (R167): a gap open for 4 ms whose first missing PSN is named. -/
def selNakTimer (n psn : Nat) (s : State) : State :=
  let q := qpOf s n
  let here (p : Nat) : Bool := q.window.contains p || decide (psnAhead p q.psnAck < 2 ^ 23)
  let top := maxBy (fun p => psnAhead q.psnAck p) q.window
  let d := psnAhead q.psnAck psn
  if !qpLive q ∨ q.mode ≠ some true ∨ here psn ∨ !here (psnPrev psn) ∨ top < d then s
  else
    let run := ((List.range (top - d + 1)).map (fun i => (psn + i) % 2 ^ 24)).takeWhile (fun p => !here p)
    sendSel n (run.take 1024) (setQp n { q with gapAt := run ++ q.gapAt.filter (fun p => !run.contains p) } s)

/-! ### Outbound packets (R149, R153) -/

/-- OUTBOUND_ACK_TIMEOUT (R153): the oldest packet in flight and what follows are retried; after 7 retries the queue pair
is in ERROR. -/
def outAckTimeout (n : Nat) (s : State) : State :=
  let q := qpOf s n
  match q.outs with
  | [] => s
  | o :: rest =>
    if !qpLive q then s
    else if 7 ≤ o.retries then errorQp n s
    else
      let outs := { o with retries := o.retries + 1 } :: rest
      resendFrom n outs (setQp n { q with outs := outs } s)

/-- RNR_NAK_RECEIVED (R153): what precedes the packet is acknowledged, and its resend waits for the host's time. -/
def rnrReceived (n psn : Nat) (s : State) : State :=
  if !qpLive (qpOf s n) ∨ !(qpOf s n).outs.any (fun o => decide (o.psn = psn)) then s
  else
    let s := ackOuts n (psnPrev psn) s
    let q := qpOf s n
    setQp n { q with outs := modWhere (fun o => decide (o.psn = psn)) (fun o => { o with rnr := true, rnrSeen := true }) q.outs } s

/-- RNR_RESEND_TIMER: the wait ends. -/
def rnrResend (n : Nat) (s : State) : State :=
  let q := qpOf s n
  if !q.outs.any (·.rnr) then s
  else
    let again := q.outs.dropWhile (fun o => !o.rnr)
    resendFrom n again (setQp n { q with outs := q.outs.map (fun o => { o with rnr := false }) } s)

/-- RNR_HOLD_EXPIRY: one packet has been answered RNR for 1 s in total. -/
def rnrHoldExpiry (n : Nat) (s : State) : State := if (qpOf s n).outs.any (·.rnrSeen) then errorQp n s else s

/-- REMOTE_ACCESS_ERROR_NAK (R133): the host adapter rejects an RDMA WRITE. -/
def remoteAccess (n psn : Nat) (s : State) : State :=
  if (qpOf s n).outs.any (fun o => decide (o.psn = psn) && !o.isSend) then errorQp n (ackOuts n (psnPrev psn) s) else s

/-- CNP_RECEIVED (R149): the rate is halved, at most once every 50 us. -/
def cnpReceived (n : Nat) (since50us : Bool) (s : State) : State :=
  let q := qpOf s n
  if since50us ∧ qpLive q then setQp n { q with rate := q.rate / 2 } s else s

/-- RATE_RECOVERY_TICK (R149): 5 % of the port rate more, up to the port rate. -/
def rateTick (n : Nat) (s : State) : State :=
  let q := qpOf s n
  if qpLive q then setQp n { q with rate := min (100 * 2 ^ 32) (q.rate + 5 * 2 ^ 32) } s else s

/-- PAUSE_FRAME (R149): the port honours it for the priority PORT_CONFIG enabled. -/
def pauseFrame (port prio : Nat) (pause : Bool) (s : State) : State :=
  let h := hportOf s port
  if !h.up ∨ h.pfc ≠ prio ∨ 7 < prio then s
  else
    let s := { s with lat := { s.lat with hports := tset s.lat.hports port { h with paused := pause } } }
    if pause then s else (s.lat.qps.filter (fun e => decide (e.2.port = port))).foldl (fun s e => flushAll e.1 s) s

/-- The port that carries a queue pair's packets: the one on which its queue was opened, or the next up port of that
port's path group (R165). -/
def portFor (s : State) (home : Nat) : Nat :=
  let h := hportOf s home
  if h.up then home
  else (((List.range 8).map (fun i => (home + i) % 8)).find? (fun p => (hportOf s p).up && decide ((hportOf s p).group = h.group))).getD home

/-- HOST_PORT_LINK_CHANGE (R165). -/
def portLink (port : Nat) (up : Bool) (s : State) : State :=
  let h := hportOf s port
  if !h.exists_ then s
  else
    let s := { s with lat := { s.lat with hports := tset s.lat.hports port { h with up := up, paused := false } } }
    let s := { s with lat := { s.lat with qps := tmap (fun _ q => { q with port := portFor s q.openPort }) s.lat.qps } }
    s.lat.qps.foldl (fun s e => flushAll e.1 s) (note 0x0A 5 1 s)

/-- CREDIT_STARVATION_TIMER (R169): one segment ahead of the round. -/
def starvation (n : Nat) (s : State) : State :=
  let q := qpOf s n
  if qpLive q ∧ !q.plain ∧ q.granted < q.creditWin then sendAck n (setQp n { q with granted := q.granted + 1 } s) else s

/-! ### Compatibility keys (R172, R393) -/

/-- OLD_RX_KEY_EXPIRY (R172): the old receive key is zeroised. -/
def oldRxExpiry (n : Nat) (s : State) : State :=
  let q := qpOf s n
  if q.rxOld then setQp n { q with rx := q.rxNew, rxNew := none, rxOld := false } s else s

/-- QUEUE_KEY_HOLD_EXPIRY (R393): a key held 10 minutes for a queue that has not opened is dropped. -/
def queueKeyExpiry (id : Nat) (s : State) : State :=
  { s with sec := { s.sec with queueKeys := s.sec.queueKeys.filter (fun k => decide (k.1 ≠ id)) } }

/-- A new transmit key in the inactive phase: it takes effect at the next packet, its counter at 0 (R172). -/
def loadTx (n : Nat) (k : Bytes) (s : State) : State :=
  let q := qpOf s n
  let phase := 1 - (q.tx.map (·.phase)).getD 1
  let q := { q with tx := some (keyPhase k phase), rekeyDue := false, st := if q.st = .rekey then .open_ else q.st }
  flushAll n (if q.ackDue then sendAck n (setQp n q s) else setQp n q s)

/-- A new receive key in the inactive phase. -/
def loadRx (n : Nat) (k : Bytes) (s : State) : State :=
  let q := qpOf s n
  let q := if q.rxOld then { q with rx := q.rxNew, rxNew := none, rxOld := false } else q
  setQp n { q with rxNew := some (keyPhase k (1 - (q.rx.map (·.phase)).getD 1)) } s

/-! ### Basmos: ports, queue pairs, domains, credits (R158, R174 to R177) -/

/-- Does port p exist under a split (R148)? -/
def portUnder (split p : Nat) : Bool := decide (p < 8) && (decide (p % 2 = 0) || split.testBit (p / 2))

/-- Is a port entry of Table 6.8 in range? -/
def entryOk (split : Nat) (p : Bytes) (i : Nat) : Bool :=
  let o := 8 + 48 * i
  portUnder split (fieldLE p o 1) && decide (fieldLE p (o + 1) 1 ≤ 7) &&
    (decide (fieldLE p (o + 2) 1 ≤ 7) || decide (fieldLE p (o + 2) 1 = 255)) && decide (fieldLE p (o + 3) 1 ≤ 63) &&
    decide (fieldLE p (o + 10) 2 ≤ 4094) && zeroAt p (o + 32) 16

/-- The layout of PORT_CONFIG. -/
def portConfigLayout (p : Bytes) : Bool :=
  let n := fieldLE p 1 1
  let mib := fieldLE p 4 4
  decide (p.length = 8 + 48 * n ∧ 1 ≤ n ∧ n ≤ 8) && decide (fieldLE p 0 1 < 16) && zeroAt p 2 2 &&
    (decide (mib = 0) || (decide (256 ≤ mib) && decide (mib ≤ 16384))) && (List.range n).all (entryOk (fieldLE p 0 1) p)

/-- Are the lane set's lanes wired on this board (R477)? Both ports of a lane set go with it. -/
def portWired (s : State) (port : Nat) : Bool :=
  ((s.ghx.board.map (fun b => b.hostSets.getLsbD (port / 2))).getD false)

/-- Configure one port from its entry: one whose configuration is unchanged keeps its links; another trains anew. -/
def configPort (p : Bytes) (split : Nat) (trained : BitVec 8) (i : Nat) (s : State) : State :=
  let o := 8 + 48 * i
  let port := fieldLE p o 1
  let old := hportOf s port
  let addr := bslice p (o + 4) 28
  let same := old.exists_ && decide (old.group = fieldLE p (o + 1) 1 ∧ old.pfc = fieldLE p (o + 2) 1 ∧
    old.dscp = fieldLE p (o + 3) 1 ∧ old.addr = addr) && decide (s.lat.split.testBit (port / 2) = split.testBit (port / 2))
  let h : HPort := {
    exists_ := true, up := if same then old.up else trained.getLsbD port && portWired s port, group := fieldLE p (o + 1) 1
    pfc := fieldLE p (o + 2) 1, dscp := fieldLE p (o + 3) 1, addr := addr, paused := if same then old.paused else false
    pausing := same && old.pausing, vlanDrops := old.vlanDrops }
  let gone (off n : Nat) : Bool := !zeroAt old.addr off n && decide (bslice old.addr off n ≠ bslice addr off n)
  let v4 := gone 8 4
  let v6 := gone 12 16
  let one := v4 && zeroAt old.addr 12 16 || v6 && zeroAt old.addr 8 4 || v4 && v6
  let hit := if one then (s.lat.qps.filter (fun e => decide (e.2.openPort = port) && qpLive e.2)).map (·.1)
    else if v4 ∨ v6 then
      -- which of the port's two addresses a queue pair uses is free
      ((s.lat.qps.filter (fun e => decide (e.2.openPort = port) && qpLive e.2)).map (·.1)).filter (fun k =>
        decide (Config.freeValue s.draws k % 2 = 1))
    else []
  let s := if (v4 || v6) && !one then draw s else s
  let s := { s with lat := { s.lat with hports := tset s.lat.hports port h } }
  hit.foldl (fun s k => errorQp k s) s

/-- PORT_CONFIG (R174). The command gives which ports train; the job finishes when every changed port has trained or
failed to. -/
def portConfigH (trained : BitVec 8) (p : Bytes) (s : State) : BAns × State :=
  let split := fieldLE p 0 1
  let mib := fieldLE p 4 4
  if mib ≠ 0 ∧ mib * 16 < poolUsed s then refuse .busy s
  else withJob 0x0A00 0 0 s (fun k s =>
    let s := (List.range (fieldLE p 1 1)).foldl (fun s i => configPort p split trained i s) s
    -- a port without an entry whose lane set changes its split has changed, and trains anew
    let given := (List.range (fieldLE p 1 1)).map (fun i => fieldLE p (8 + 48 * i) 1)
    let again (x : Nat) : Bool := !given.contains x && portUnder split x && s.lat.split.testBit (x / 2) != split.testBit (x / 2)
    let s := { s with lat := { s.lat with hports := tmap (fun x h => if again x then
      { h with up := trained.getLsbD x && portWired s x, paused := false, pausing := false } else h) s.lat.hports } }
    let gone := (tkeys s.lat.hports).filter (fun x => !portUnder split x)
    let s := gone.foldl (fun s x => (s.lat.qps.filter (fun e => decide (e.2.openPort = x) && qpLive e.2)).foldl (fun s e => errorQp e.1 s) s) s
    let s := { s with lat := { s.lat with
      split := split, hports := tfilter (fun x _ => portUnder split x) s.lat.hports
      poolMib := if mib = 0 then s.lat.poolMib else mib } }
    let s := { s with lat := { s.lat with qps := tmap (fun _ q => { q with port := portFor s q.openPort }) s.lat.qps } }
    finishJob k .success [] (note 0x0A 9 1 s))

/-- The bits of the tags that are not FREE. -/
def tagBits (ts : List Nat) : Nat := sumBy (fun t => 2 ^ t) ts

/-- QP_STATUS (R175, Table 6.9). The domain of a table taken over from the peer is not stated: it is free. -/
def qpStatusH (p : Bytes) (s : State) : BAns × State :=
  let id := fieldLE p 0 8
  match connOf s id with
  | some n =>
    let q := qpOf s n
    let flags := b2n (decide (q.mode = some true)) + 2 * b2n q.plain + 4 * b2n q.gcm + 8 * b2n q.rekeyDue + 16 * b2n q.cached
    let ctr := if q.gcm then (q.tx.bind (·.high)).map (· + 1) |>.getD 0 else 0
    (.now (.ok (leN 1 q.st.code ++ leN 1 flags ++ leN 2 q.pd ++ leN 4 n ++
      leN 4 (tagBits ((q.tags.filter (fun e => decide (e.2.st ≠ .free))).map (·.1))) ++ leN 1 q.port ++ leN 1 q.creditWin ++
      zeros 2 ++ leN 4 (ackPsn q) ++ leN 4 q.parked.length ++ leN 8 ctr ++ leN 4 q.rnrSent ++ leN 4 q.discards ++ zeros 8)), s)
  | none => match tget s.jrn.tables id with
    | none => refuse .notFound s
    | some t =>
      let busy := tagBits (((tget s.lat.queues id).map (·.busy)).getD [])
      match t.pd with
      | some pd => (.now (.ok (zeros 2 ++ leN 2 pd ++ zeros 4 ++ leN 4 busy ++ zeros 36)), s)
      | none => (.now (.ok (zeros 2 ++ leN 2 (freeNat s % 4096) ++ zeros 4 ++ leN 4 busy ++ zeros 36)), draw s)

/-- The layout of PD_CONFIG (Table 6.4). -/
def pdConfigLayout (p : Bytes) : Bool :=
  let n := fieldLE p 3 1
  decide (p.length = 16 + 8 * n ∧ n ≤ 32) && decide (fieldLE p 0 2 ≤ 4095) && decide (fieldLE p 2 1 &&& 0x7C = 0) && zeroAt p 8 8 &&
    (List.range n).all (fun i => decide (fieldLE p (16 + 8 * i) 4 ≤ fieldLE p (20 + 8 * i) 4 ∧ fieldLE p (20 + 8 * i) 4 ≤ 65535))

/-- PD_CONFIG (R158). DESIGN CHOICE (log entry 141): the deletion of a domain that is not configured answers SUCCESS and records the
event of a configuration change. -/
def pdConfigH (p : Bytes) (s : State) : BAns × State :=
  let k := fieldLE p 0 2
  let f := fieldLE p 2 1
  let open_ := (tvals s.lat.qps).any (fun q => decide (q.pd = k ∧ q.st ≠ .free))
  if f.testBit 7 then
    if open_ then refuse .denied s
    else (.now .ok, note 0x0A 9 1 { s with lat := { s.lat with pds := terase s.lat.pds k } })
  else
    let ranges := (List.range (fieldLE p 3 1)).map (fun i => (fieldLE p (16 + 8 * i) 4, fieldLE p (20 + 8 * i) 4))
    let v : Pd := { gcm := f.testBit 0, plain := f.testBit 1, ranges := ranges, pageLimit := fieldLE p 4 4 }
    (.now .ok, note 0x0A 9 1 { s with lat := { s.lat with pds := tset s.lat.pds k v } })

/-- QP_RESET (R176). -/
def qpResetH (p : Bytes) (s : State) : BAns × State :=
  match (connOf s (fieldLE p 0 8)).filter (fun n => qpLive (qpOf s n)) with
  | none => refuse .notFound s
  | some n => (.now .ok, errorQp n s)

/-- A changed cap of A: an allowance that stood at the old cap follows it. -/
def setCap (cap : Nat) (s : State) : State :=
  let eff := min cap s.ghx.thermalCap
  let old := min s.lat.cap s.ghx.thermalCap
  { s with lat := { s.lat with cap := cap, allow := if s.lat.allow < old then min s.lat.allow eff else eff } }

/-- The layout of CREDIT_SET. -/
def creditSetLayout (p : Bytes) : Bool :=
  let cap := fieldLE p 4 4
  decide (p.length = 16) && decide (fieldLE p 0 1 ≤ 1) && zeroAt p 2 2 &&
    (decide (cap = 0) || (decide (40 ≤ cap ∧ cap ≤ 400) && decide (fieldLE p 0 1 = 0)))

/-- CREDIT_SET (R177): a forced state of the session. -/
def creditSetH (p : Bytes) (s : State) : BAns × State :=
  let w := if fieldLE p 1 1 = 0 then 256 else fieldLE p 1 1
  let cap := fieldLE p 4 4
  if fieldLE p 0 1 = 0 then
    let s := { s with lat := { s.lat with defWin := w } }
    (.now .ok, force 0x0A11 (if cap = 0 then s else setCap cap s))
  else
    let id := fieldLE p 8 8
    match connOf s id with
    | none => refuse .notFound s
    | some n =>
      -- the outstanding grant never exceeds the window (R168)
      let q := qpOf s n
      let s := setQp n { q with creditWin := w, granted := if q.plain then q.granted else min q.granted w } s
      (.now .ok, force 0x0A11 { s with lat := { s.lat with windowOff := id :: s.lat.windowOff.filter (· ≠ id) } })

/-- The values of CREDIT_SET lapse with the session (R47, R177). -/
def creditLapse (s : State) : State :=
  let s := setCap 400 { s with lat := { s.lat with defWin := 64 } }
  let s := s.lat.windowOff.foldl (fun s id => match connOf s id with
    | some n => setQp n { qpOf s n with creditWin := 64, granted := if (qpOf s n).plain then (qpOf s n).granted else min (qpOf s n).granted 64 } s
    | none => s) s
  unforce 0x0A11 { s with lat := { s.lat with windowOff := [] } }

/-! ### The rows -/

def execQueueOpen (qpn : Fin 16384) (port : Fin 8) (supported : Bool) (host : Nat × Nat) (private_ : Bytes) (s : State) : Res :=
  .next (queueOpen qpn port supported host.1 host.2 private_ s)
def execRtu (qpn : Fin 16384) (s : State) : Res := .next (openQueue qpn s)
def execConnectingTimeout (qpn : Fin 16384) (s : State) : Res := .next (connectingTimeout qpn s)
def execReplayTableExpiry (queueId : Nat) (s : State) : Res := .next (tableExpiry queueId s)
def execAckCoalesceTimer (qpn : Fin 16384) (s : State) : Res := .next (ackTimer qpn s)
def execSelectiveNakTimer (qpn : Fin 16384) (psn : Nat) (s : State) : Res := .next (selNakTimer qpn psn s)
def execRnrNakReceived (qpn : Fin 16384) (psn _timer : Nat) (s : State) : Res := .next (rnrReceived qpn psn s)
def execRnrResendTimer (qpn : Fin 16384) (s : State) : Res := .next (rnrResend qpn s)
def execCnpReceived (qpn : Fin 16384) (since50us : Bool) (s : State) : Res := .next (cnpReceived qpn since50us s)
def execRateRecoveryTick (qpn : Fin 16384) (s : State) : Res := .next (rateTick qpn s)
def execCreditStarvationTimer (qpn : Fin 16384) (s : State) : Res := .next (starvation qpn s)
def execOldRxKeyExpiry (qpn : Fin 16384) (s : State) : Res := .next (oldRxExpiry qpn s)
def execQueueKeyHoldExpiry (queueId : Nat) (s : State) : Res := .next (queueKeyExpiry queueId s)
def execQpStatus (n : Fin 64) (s : State) : Res := .next (basmos n 0x0A01 (layoutIs 8 []) qpStatusH s)
def execPdConfig (n : Fin 64) (s : State) : Res := .next (basmos n 0x0A02 pdConfigLayout pdConfigH s)
def execCreditSet (n : Fin 64) (s : State) : Res := .next (basmos n 0x0A11 creditSetLayout creditSetH s)
def execPlainCopyDone (qpn : Fin 16384) (tag : Fin 32) (s : State) : Res := .next (plainCopyDone qpn tag s)

end Sys2Proof.Machine
end

