-- ==== Sys2Proof/Machine/Keys.lean ====
section
/-!
DEFINITION. Machine/Keys.lean: wrapped keys, domain keys and their rotation, zeroising, operator keys, attestation
(R207, R385 to R396, R405, R406).
-/
namespace Sys2Proof.Machine

/-- The role whose KEK this head uses: its own in the pair, or that of the KEK it holds. -/
def keyRole (s : State) : Option Role := s.pair.role.or s.sec.kekRole

/-- The free pairs of slots for domain keys (Table 14.2). -/
def freePairs (s : State) : List Nat :=
  ((List.range 1536).map (2 * ·)).filter (fun k =>
    (slotOf s k).key.isEmpty && (slotOf s (k + 1)).key.isEmpty && !(slotOf s k).retired && !(slotOf s (k + 1)).retired)

/-- The first free pair of slots. -/
def freePair (s : State) : Option Nat := (freePairs s).head?

/-- Load a 64-byte domain key into the pair at slot k. -/
def loadPair (k : Nat) (key : Bytes) (purpose domain version : Nat) (s : State) : State :=
  loadSlot (k + 1) ((key.drop 32).take 32) purpose domain version (loadSlot k (key.take 32) purpose domain version s)

/-- Zeroise the pairs of a domain that satisfy p. -/
def zeroisePairs (p : KeySlot → Bool) (s : State) : State :=
  (s.sec.slots.filter (fun e => decide (e.1 < 3072) && !e.2.key.isEmpty && p e.2)).foldl (fun s e => zeroiseSlot e.1 s) s

/-! ### Blobs (Table 14.6) -/

/-- Does a blob of kinds 1 to 4 keep the fields of Table 14.6 for a role? -/
def blobOk (r : Role) (b : Bytes) : Bool :=
  let kind := fieldLE b 2 1
  let len := fieldLE b 16 1
  let index := fieldLE b 6 2
  decide (fieldLE b 0 2 = 1 ∧ 1 ≤ kind ∧ kind ≤ 4 ∧ fieldLE b 3 1 = r.num ∧ b.length = 48 + len) && zeroAt b 17 3 &&
    (if kind = 1 then decide (len = 64 ∧ index ≤ 1023) && zeroAt b 8 8
     else if kind = 4 then decide (32 ≤ len ∧ len ≤ 64 ∧ 48 ≤ index ∧ index ≤ 63) && zeroAt b 4 2 && zeroAt b 8 8
     else decide (len = 36 ∧ index = 0) && zeroAt b 4 2)

/-- Unwrap a blob with the role KEK in slot 3,072 (R391). -/
def unwrap (s : State) (b : Bytes) : Option Bytes :=
  let kek := slotKey s 3072
  let n := fieldLE b 16 1
  match keyRole s with
  | none => none
  | some r =>
    if kek.isEmpty ∨ !blobOk r b then none
    else gcmDec kek (bslice b 20 12) (b.take 20 ++ arrayIdOf s) (bslice b 32 n) (bslice b (32 + n) 16)

/-- A refused blob records an event (R391). -/
def blobRefused (s : State) : State := note 8 7 2 s

/-- A refused blob of Table 14.6: the event of one in a later format names it (R448). -/
def blobRefusedOf (b : Bytes) (s : State) : State := record 8 7 2 .none (laterFormat 6 (fieldLE b 0 2)) s

/-! ### Domain keys (R207, R389, R394) -/

/-- Load the key of a domain from a blob: version and purpose as given; without a key the head never owns a volume of the
domain. -/
def loadDomain (d version purpose : Nat) (blob : Bytes) (s : State) : State :=
  match (if fieldLE blob 2 1 = 1 ∧ fieldLE blob 4 2 = version ∧ fieldLE blob 6 2 = d then unwrap s blob else none) with
  | none =>
    let s := if blob = [] then s else blobRefusedOf blob s
    if s.pair.noKey.contains d then s else { s with pair := { s.pair with noKey := d :: s.pair.noKey } }
  | some key =>
    let s := { s with pair := { s.pair with noKey := s.pair.noKey.filter (· ≠ d) } }
    match (keyPair s d version).or (freePair s) with
    | none => s
    | some k => loadPair k key purpose d version s

/-- Load every domain key that the array record holds and this head has not loaded (R392, R393, R394 step 1). -/
def loadDomains (s : State) : State :=
  match keyRole s with
  | none => s
  | some r => s.pair.arr.domains.foldl (fun s e =>
      let (d, v) := e
      let s := if (keyPair s d v.version).isSome then s else loadDomain d v.version 0 (blobOf v r) s
      match v.rotation with
      | some (a, b, _) =>
        if (keyPair s d (v.version + 1)).isSome then s
        else loadDomain d (v.version + 1) 1 (match r with
          | .a => a
          | .b => b) s
      | none => s) s

/-- Keys of domains whose blobs have left the array record are zeroised on this head. -/
def dropDomains (s : State) : State :=
  zeroisePairs (fun k => decide (k.purpose ≤ 1) && (match tget s.pair.arr.domains k.domain with
    | some v => decide (k.version < v.version) || (v.blobA.isEmpty && v.blobB.isEmpty)
    | none => true)) s

/-- Unwrap the KEK of the NOR key store with the root key (R392). -/
def loadKek (s : State) : State :=
  match s.sec.norKek with
  | none => s
  | some w =>
    let n := w.length
    match gcmDec rootKey (w.take 12) [] ((w.drop 12).take (n - 28)) (w.drop (n - 16)) with
    | some kek => { loadSlot 3072 kek 2 0 0 s with sec := { (loadSlot 3072 kek 2 0 0 s).sec with kekRole := s.sec.norKekRole } }
    | none => blobRefused s

/-- Step 2 of R394: at an epoch boundary, rotations whose key is loaded come into force here. -/
def rotationsBegin (s : State) : State :=
  let due := (s.pair.arr.domains.filter (fun e => e.2.rotation.isSome && !s.pair.rotF.contains e.1 &&
    (keyPair s e.1 (e.2.version + 1)).isSome)).map (·.1)
  { s with pair := { s.pair with rotF := s.pair.rotF ++ due } }

/-- Does anything of a domain still carry the old version? -/
def stillOld (s : State) (d : Nat) : Bool :=
  s.map.chunks.any (fun e => decide (e.2.domain = d ∧ e.2.version ≠ domVersion s d)) ||
    s.jrn.cmds.any (fun e => e.2.chunks.any (fun w => decide (w.domain = d ∧ w.envelope ≠ []) &&
      decide ((envOf w.envelope).version ≠ domVersion s d)))

/-- Step 4 of R394: the rotation pair becomes current, the old key is zeroised, and the job finishes. -/
def rotationsEnd (s : State) : State :=
  s.pair.rotF.foldl (fun s d =>
    match tget s.pair.arr.domains d, keyPair s d (domVersion s d) with
    | some v, some k => match v.rotation with
      | none => { s with pair := { s.pair with rotF := s.pair.rotF.filter (· ≠ d) } }
      | some (a, b, _) =>
        if stillOld s d then s
        else
          let old := domSalt s d
          let salt := xtsRegion true (slotKey s k) (slotKey s (k + 1)) 0 0 old
          let s := zeroisePairs (fun x => decide (x.domain = d ∧ x.purpose ≤ 1 ∧ x.version = v.version)) s
          let s := { s with pair := { s.pair with rotF := s.pair.rotF.filter (· ≠ d) } }
          let s := setSlot (k + 1) { slotOf s (k + 1) with purpose := 0 } (setSlot k { slotOf s k with purpose := 0 } s)
          let v := { v with version := v.version + 1, blobA := a, blobB := b, salt := salt, rotation := none }
          let s := changeArray (fun r => { r with domains := tset r.domains d v }) s
          finishJobs (fun j => decide (j.opcode = 0x0800 ∧ j.subj = d)) .success [] s
    | _, _ => s) s

/-! ### KEY_WRAPPED_LOAD (R392, R393) -/

/-- The layout of Table 14.7. -/
def keyLoadLayout (p : Bytes) : Bool :=
  let kind := fieldLE p 0 1
  let count := fieldLE p 1 1
  decide (8 ≤ p.length) && decide (p.length = 8 + fieldLE p 2 2 + fieldLE p 4 2) && decide (kind ≤ 4) &&
    (decide (count = 1 ∧ fieldLE p 4 2 = 0) || decide (count = 2 ∧ kind = 1)) &&
    (decide (kind = 1) || decide (fieldLE p 6 2 = 0))

/-- Decrypt a KEK with the transport key (RSAES-OAEP with SHA-512): the label is array identity and role. -/
def openKek (s : State) (r : Nat) (ct : Bytes) : Option Bytes :=
  let c := beVal ct
  if Config.transportN ≤ c then none
  else (oaepDecode (beN 512 (powMod c Config.transportN Config.transportD 4096)) (arrayIdOf s ++ leN 1 r)).filter
    (fun k => decide (k.length = 32))

/-- Kind 0: a KEK. -/
def loadKind0 (b : Bytes) (s : State) : BAns × State :=
  let r := fieldLE b 3 1
  if b.length ≠ 528 ∨ fieldLE b 0 2 ≠ 1 ∨ fieldLE b 2 1 ≠ 0 ∨ 1 < r ∨ !zeroAt b 4 12 then refuse .invalidField s
  else if s.sec.rngHalted then refuse .busy s
  else if s.pair.role.any (fun x => decide (x.num ≠ r)) then refuse .denied (blobRefused s)
  else
    let s := pkaSubmit 2 s
    match openKek s r (b.drop 16) with
    | none => refuse .denied (blobRefused s)
    | some kek =>
      let s := loadSlot 3072 kek 2 0 0 s
      let nonce := freeBytes 12 s
      let (ct, tag) := gcmEnc rootKey nonce [] kek
      let role := if r = 0 then Role.a else Role.b
      let s := drbgRequest (draw s)
      let s := { s with sec := { s.sec with norKek := some (nonce ++ ct ++ tag), norKekRole := some role, kekRole := some role } }
      (.now .ok, loadDomains (note 8 9 1 s))

/-- Kind 1: a domain key: a reload, or the start of a rotation. -/
def loadKind1 (p : Bytes) (s : State) : BAns × State :=
  let b0 := bslice p 8 (fieldLE p 2 2)
  let b1 := bslice p (8 + fieldLE p 2 2) (fieldLE p 4 2)
  let mine := if fieldLE p 1 1 = 2 ∧ keyRole s = some .b then b1 else b0
  let d := fieldLE mine 6 2
  let v := fieldLE mine 4 2
  let days := fieldLE p 6 2
  match if fieldLE mine 2 1 = 1 then unwrap s mine else none with
  | none => refuse .denied (blobRefusedOf mine s)
  | some key => match tget s.pair.arr.domains d with
    | none => refuse .notFound s
    | some dom =>
      if v = dom.version then
        if days ≠ 0 then refuse .invalidField s
        else match (keyPair s d v).or (freePair s) with
          | none => refuse .exhausted s
          | some k => (.now .ok, loadPair k key 0 d v { s with pair := { s.pair with noKey := s.pair.noKey.filter (· ≠ d) } })
      else if v ≠ dom.version + 1 ∨ fieldLE p 1 1 ≠ 2 ∨ days = 0 ∨ 365 < days then refuse .invalidField s
      else if dom.rotation.isSome then refuse .busy s
      else if 512 ≤ (tvals s.pair.arr.domains).countP (fun x => x.rotation.isSome) then refuse .exhausted s
      else match freePair s with
        | none => refuse .exhausted s
        | some k => withJob 0x0800 d 0 s (fun _ s =>
            changeArray (fun a => { a with domains := tset a.domains d { dom with rotation := some (b0, b1, days) } })
              (loadPair k key 1 d v s))

/-- The queues that hold or use queue keys. -/
def keyQueues (s : State) (id : Nat) : Nat :=
  (((s.sec.queueKeys.map (·.1)) ++ (tvals s.lat.qps).filterMap (fun q => if q.gcm ∧ q.st ≠ .free then some q.queueId else none) ++
    [id]).eraseDups).length

/-- Kinds 2 and 3: a queue key goes to the queue's inactive phase, or is held for its opening. -/
def loadQueueKey (rx : Bool) (b : Bytes) (s : State) : BAns × State :=
  let id := fieldLE b 8 8
  match unwrap s b with
  | none => refuse .denied (blobRefusedOf b s)
  | some key =>
    match (connOf s id).filter (fun n => qpLive (qpOf s n)) with
    | some n =>
      if !(qpOf s n).gcm then refuse .denied s
      else (.now .ok, if rx then loadRx n key s else loadTx n key s)
    | none =>
      if 512 < keyQueues s id then refuse .exhausted s
      else (.now .ok, { s with sec := { s.sec with
        queueKeys := s.sec.queueKeys.filter (fun k => !(decide (k.1 = id) && k.2.1 == rx)) ++ [(id, rx, key)] } })

/-- Kind 4: an HMAC key goes to a digest slot, which the posting mailbox claims. -/
def loadDigestKey (holder : Nat) (b : Bytes) (s : State) : BAns × State :=
  let k := fieldLE b 6 2
  match unwrap s b with
  | none => refuse .denied (blobRefusedOf b s)
  | some key =>
    match claimHolder s 6 k with
    | some h =>
      if h ≠ holder then (.now (claimedBy 6 k h), s)
      else (.now .ok, { s with sec := { s.sec with dgtKeys := tset s.sec.dgtKeys k key } })
    | none => (.now .ok, setClaim 6 k holder { s with sec := { s.sec with dgtKeys := tset s.sec.dgtKeys k key } })

/-- KEY_WRAPPED_LOAD. -/
def keyLoadH (holder : Nat) (p : Bytes) (s : State) : BAns × State :=
  let kind := fieldLE p 0 1
  let b := bslice p 8 (fieldLE p 2 2)
  if kind = 0 then loadKind0 b s
  else if kind = 1 then loadKind1 p s
  else if fieldLE b 2 1 ≠ kind then refuse .denied (blobRefusedOf b s)
  else if kind = 4 then loadDigestKey holder b s
  else loadQueueKey (decide (kind = 3)) b s

/-! ### KEY_ZEROISE (R395) -/

/-- Zeroise a queue's keys: its queue pair enters ERROR. -/
def zeroiseQueue (id : Nat) (s : State) : State :=
  let s := { s with sec := { s.sec with queueKeys := s.sec.queueKeys.filter (fun k => decide (k.1 ≠ id)) } }
  match connOf s id with
  | some n => errorQp n (setQp n { qpOf s n with tx := none, rx := none, rxNew := none } s)
  | none => s

/-- Every cipher slot but the root key's, every digest slot and every queue key. -/
def zeroiseAll (s : State) : State :=
  let gcm := (s.lat.qps.filter (fun e => e.2.gcm && decide (e.2.st ≠ .free))).map (fun e => e.2.queueId)
  let s := gcm.foldl (fun s id => zeroiseQueue id s) s
  { s with sec := { s.sec with
    slots := tmap (fun _ k => { k with key := [], kcv := 0 }) s.sec.slots
    dgtKeys := [], queueKeys := [] } }

/-- The KEK is zeroised: its slot, and its wrapped copies in the boot NOR devices. -/
def dropKek (s : State) : State :=
  let s := zeroiseSlot 3072 s
  { s with sec := { s.sec with norKek := none, norKekRole := none, kekRole := none } }

/-- A KEK accepted before pairing for the role that pairing then gives the other head is zeroised (R392). -/
def kekCheck (s : State) : State :=
  match s.sec.kekRole, s.pair.role with
  | some kek, some mine => if kek ≠ mine ∧ s.pair.paired then note 8 9 2 (dropKek s) else s
  | _, _ => s

/-- KEY_ZEROISE (R395); endSession gives the effects of R47 on a session that ends with every key. -/
def keyZeroiseH (holder : Nat) (endSession : State → State) (p : Bytes) (s : State) : BAns × State :=
  let kind := fieldLE p 0 1
  let i := fieldLE p 4 8
  let bound := s.pair.paired || !(myVols s).isEmpty
  let done (s : State) : BAns × State := (.now .ok, note 8 9 2 s)
  if kind = 0 then
    if i ≠ 0 then refuse .invalidField s else if bound then refuse .denied s else done (dropKek s)
  else if kind = 1 then
    match tget s.pair.arr.domains i with
    | none => refuse .notFound s
    | some d =>
      if (tvals s.pair.arr.volumes).any (fun v => decide (v.domain = i)) then refuse .denied s
      else
        let s := zeroisePairs (fun k => decide (k.domain = i ∧ k.purpose ≤ 1)) s
        let s := { s with pair := { s.pair with rotF := s.pair.rotF.filter (· ≠ i), noKey := i :: s.pair.noKey.filter (· ≠ i) } }
        done (changeArray (fun a => { a with domains := tset a.domains i { d with blobA := [], blobB := [], salt := [], rotation := none } }) s)
  else if kind = 2 then done (zeroiseQueue i s)
  else if kind = 4 then
    if i < 48 ∨ 63 < i then refuse .invalidField s
    else if claimHolder s 6 i ≠ some holder then refuse .denied s
    else done (dropClaim 6 i { s with sec := { s.sec with dgtKeys := terase s.sec.dgtKeys i } })
  else if kind = 255 then
    if i ≠ 0 then refuse .invalidField s
    else if bound then refuse .denied s
    else
      let s := zeroiseAll (dropKek s)
      let s := endSession (changeArray (fun a => { a with opKeys := [] }) s)
      done { s with sec := { s.sec with norOpKeys := [] } }
  else refuse .invalidField s

/-! ### KEY_SLOT_INFO (R396) and slot parity (R390) -/

/-- The entry of a slot. -/
def slotEntry (s : State) (k : Nat) : Bytes :=
  let v := slotOf s k
  let has := !(slotKey s k).isEmpty
  let busy := (s.sec.keyOp.map (fun o => decide (o.slot = k))).getD false
  let st := if v.retired then 3 else if busy then 2 else b2n has
  let purpose := if k = 4095 then 4 else if has then v.purpose else if k < 3072 then 0 else if k = 3072 then 2 else 3
  leN 2 k ++ leN 1 st ++ leN 1 purpose ++ leN 2 (if has then v.domain else 0) ++ leN 2 (if has then v.version else 0) ++
    leN 4 (if has then v.kcv else 0)

/-- KEY_SLOT_INFO. -/
def keySlotInfoH (p : Bytes) (s : State) : BAns × State :=
  let first := fieldLE p 0 2
  let n := fieldLE p 2 2
  if n = 0 ∨ 32 < n ∨ 4096 < first + n then refuse .invalidField s
  else (.now (.ok (leN 2 n ++ zeros 6 ++ ((List.range n).map (fun i => slotEntry s (first + i))).flatten)), s)

/-- KEY_SLOT_PARITY_ERROR (R390): the slot is emptied; requests that use it complete SLOT_BUSY; the Lodge loads a key that
has a blob again. -/
def slotParity (k : Nat) (s : State) : State :=
  if (slotOf s k).key.isEmpty ∨ k = 4095 then s
  else
    let v := slotOf s k
    let hit := (q2Waiting s.sec).filter (fun j => descNames (q2Desc s j) k)
    let s := errorOn 8 2 (.keySlot false k) [] (zeroiseSlot k s)
    let s := { s with sec := { s.sec with q2Busy := s.sec.q2Busy ++ hit.filter (fun j => !s.sec.q2Busy.contains j) } }
    if k = 3072 then loadKek s
    else if v.purpose ≤ 1 then
      match keyRole s, tget s.pair.arr.domains v.domain with
      | some r, some d =>
        let blob := if v.version = d.version then blobOf d r else match d.rotation with
          | some (a, b, _) => (match r with
            | .a => a
            | .b => b)
          | none => []
        (match unwrap s blob with
          | some key => loadSlot k (if k % 2 = 0 then key.take 32 else (key.drop 32).take 32) v.purpose v.domain v.version s
          | none => s)
      | _, _ => s
    else s

/-! ### Operator keys (R406) -/

/-- The layout of OPERATOR_KEY_REGISTER. -/
def opKeyLayout (p : Bytes) : Bool :=
  let add := decide (fieldLE p 0 1 = 0)
  let signed := decide (fieldLE p 2 1 ≠ 255)
  decide (fieldLE p 0 1 ≤ 1) && zeroAt p 3 1 &&
    decide (p.length = 36 + (if add then 512 else 0) + (if signed ∨ !add then 512 else 0))

/-- Is a nonce valid (R45)? -/
def nonceValid (s : State) (nonce : Bytes) : Bool := (tvals s.kiosk.nonces).contains nonce

/-- A nonce is consumed. -/
def useNonce (nonce : Bytes) (s : State) : State :=
  { s with kiosk := { s.kiosk with nonces := tfilter (fun _ n => decide (n ≠ nonce)) s.kiosk.nonces } }

/-- OPERATOR_KEY_REGISTER. -/
def opKeyH (endSession : State → State) (p : Bytes) (s : State) : BAns × State :=
  let add := decide (fieldLE p 0 1 = 0)
  let i := fieldLE p 1 1
  let signer := fieldLE p 2 1
  let nonce := bslice p 4 32
  let keys := s.pair.arr.opKeys
  let good := nonceValid s nonce
  let body := p.take (p.length - 512)
  let sigOk := if signer = 255 then add && keys.isEmpty && (myVols s).isEmpty
    else ((tget keys signer).map (fun n => pssVerify n body (p.drop (p.length - 512)))).getD false
  let s := useNonce nonce s
  let s := if signer = 255 then s else pkaSubmit 0 s
  if 7 < i ∨ (7 < signer ∧ signer ≠ 255) ∨ add = thas keys i then refuse .invalidField s
  else if !good ∨ !sigOk then refuse .denied (note 8 7 2 s)
  else if !add ∧ keys.length = 1 then refuse .denied s
  else
    let keys := if add then tset keys i (bslice p 36 512) else terase keys i
    let s := changeArray (fun a => { a with opKeys := keys }) s
    let s := note 8 9 2 { s with sec := { s.sec with norOpKeys := keys } }
    let opened := !add && (s.kiosk.session.map (fun x => decide (x.key = i))).getD false
    (.now .ok, if opened then endSession s else s)

/-! ### Attestation (R405) -/

/-- A boot slot: 0 A, 1 B. -/
def bootSlot (s : State) (k : Nat) : BootSlot := if k = 0 then s.sec.slotA else s.sec.slotB

/-- Replace a boot slot. -/
def setBoot (k : Nat) (v : BootSlot) (s : State) : State :=
  { s with sec := if k = 0 then { s.sec with slotA := v } else { s.sec with slotB := v } }

/-- SHA-512 of the first stage (part 0) or main body (part 1) of a slot's image. -/
def imageDigest (s : State) (k part : Nat) : Bytes :=
  match (bootSlot s k).digests with
  | some (a, b) => if part = 0 then a else b
  | none => (List.range 64).map (Config.shippedDigestByte k part)

/-- SHA-512 over the eight operator key entries. -/
def opKeysDigest (s : State) : Bytes :=
  sha512 ((List.range 8).map (fun i => match tget s.pair.arr.opKeys i with
    | some m => leN 1 1 ++ fit 512 m
    | none => zeros 513)).flatten

/-- The first 288 bytes of the report (Table 14.14). -/
def reportBody (s : State) (nonce : Bytes) : Bytes :=
  let flags := b2n (!(slotKey s 3072).isEmpty) + 2 * b2n s.kiosk.session.isSome
  leN 2 1 ++ leN 1 1 ++ [Config.siliconRev] ++ deviceSerial ++ leN 4 (runningFw s) ++ leN 1 s.sec.running ++
    leN 1 (if s.pair.state = 0 then 0xFF else (s.pair.role.map Role.num).getD 0xFF) ++ leN 1 s.sec.fuseCount ++ leN 1 flags ++ leN 3 s.gh.pwrCycle ++ zeros 1 ++
    leN 4 (optime s) ++ arrayIdOf s ++ zeros 12 ++ imageDigest s s.sec.running 0 ++ imageDigest s s.sec.running 1 ++
    opKeysDigest s ++ nonce

/-- ATTEST. -/
def attestH (p : Bytes) (s : State) : BAns × State :=
  if 1 < fieldLE p 32 1 then refuse .invalidField s
  else
    let body := reportBody s (p.take 32)
    let em := pssEncode 512 body (freeBytes 64 s)
    let sig := beN 512 (powMod (beVal em) Config.identityN Config.identityD 4096)
    let cert (n : Nat) (f : Nat → Byte) : Bytes := leN 2 n ++ (List.range (n % 65536)).map f
    let certs := if fieldLE p 32 1 = 1 then
        cert Config.identityCertLen Config.identityCertByte ++ cert Config.transportCertLen Config.transportCertByte else []
    (.now (.ok (body ++ sig ++ certs)), pkaSubmit 1 (draw s))

/-! ### Rows -/

def execKeyWrappedLoad (n : Fin 64) (s : State) : Res := .next (basmos n 0x0800 keyLoadLayout (keyLoadH (claimant n false)) s)
def execKeySlotInfo (n : Fin 64) (s : State) : Res := .next (basmos n 0x0810 (layoutIs 4 []) keySlotInfoH s)
def execKeySlotParityError (slot : Fin 4096) (s : State) : Res := .next (slotParity slot s)
def execAttest (n : Fin 64) (s : State) : Res := .next (basmos n 0x0802 (layoutIs 36 [(33, 3)]) attestH s)
/-- CIPHER_REQUEST_DONE (R388). A pipeline's request whose source line was poisoned is resubmitted after its restoration
(Table 14.4); the pipelines' own rows say what a done request does. -/
def execCipherRequestDone (queue : Fin 3) (id : Nat) (poisoned : Bool) (s : State) : Res :=
  .next (if queue.val = 2 then q2Done id poisoned s
    else if poisoned then { s with sec := { s.sec with poisoned := satAdd 16 s.sec.poisoned 1 } } else s)

end Sys2Proof.Machine
end

