-- ==== Sys2Proof/Machine/Volumes.lean ====
section
/-!
DEFINITION. Machine/Volumes.lean: volume and domain commands (R147, R186, R207 to R209) and what takes effect at an epoch
boundary (R487).
-/
namespace Sys2Proof.Machine

/-! ### Volumes (Tables 5.13 to 5.15) -/

/-- The owner of a volume that is being created: its preferred role, this head while it runs alone, and never a head that
lacks the domain's key (R107, R207). -/
def newOwner (s : State) (pref : Role) (domain : Nat) : Role :=
  if s.pair.noKey.contains domain then (roleOf s).other
  else if s.pair.state = 4 ∨ s.pair.state = 0 ∨ s.pair.state = 2 then roleOf s
  else if s.pair.fenced then (roleOf s).other
  else pref

/-- VOL_CREATE. -/
def volCreateH (p : Bytes) (s : State) : BAns × State :=
  let vols := s.pair.arr.volumes
  let asked := fieldLE p 0 4
  let domain := fieldLE p 4 4
  let blocks := fieldLE p 8 8
  let role := fieldLE p 16 1
  if (65535 < asked ∧ asked ≠ 0xFFFFFFFF) ∨ thas vols asked ∨ blocks % 8 ≠ 0 ∨ blocks < 8 ∨ 2 ^ 42 < blocks ∨ 1 < role then
    refuse .invalidField s
  else if !thas s.pair.arr.domains domain then refuse .notFound s
  else if 65536 ≤ vols.length then refuse .exhausted s
  else
    let v := if asked = 0xFFFFFFFF then tfree vols 0 65536 else asked
    let pref := if role = 0 then Role.a else Role.b
    let owner := newOwner s pref domain
    let s := changeArray (fun a => { a with volumes := tset a.volumes v { domain := domain, blocks := blocks, pref := pref } }) s
    let s := { s with pair := { s.pair with owned := if owner = pref then terase s.pair.owned v else tset s.pair.owned v owner } }
    (.now (.ok (leN 4 v ++ leN 1 owner.num ++ zeros 3)), s)

/-- Is a change of the volume waiting for the boundary: a deletion, or a resize? -/
def volPending (s : State) (v : Nat) (del : Bool) : Bool := s.pair.volF.any (fun e => decide (e.1 = v) && (e.2.1.isNone == del))

/-- Does a replication relationship name the volume? -/
def inRelation (s : State) (v : Nat) : Bool := (tvals s.pair.arr.rels).any (fun r => r.vols.any (fun x => decide (x.1 = v)))

/-- VOL_DELETE. A second deletion of one volume answers BUSY (log entry 22). -/
def volDeleteH (p : Bytes) (s : State) : BAns × State :=
  let v := fieldLE p 0 4
  let f := fieldLE p 4 1
  if 1 < f then refuse .invalidField s
  else if !volLives s v then refuse .notFound s
  else if !ownsVol s v then refuse .notOwner s
  else if (f = 0 ∧ s.rep.snaps.any (fun e => decide (e.1 / 8192 = v))) ∨ inRelation s v then refuse .denied s
  else if volPending s v true then refuse .busy s
  else withJob 0x0201 v 0 s (fun k s => { s with pair := { s.pair with volF := s.pair.volF ++ [(v, none, k)] } })

/-- VOL_RESIZE: a shrink starts a job; a growth, or a cleared mark alone, answers at once. -/
def volResizeH (p : Bytes) (s : State) : BAns × State :=
  let v := fieldLE p 0 4
  let f := fieldLE p 4 1
  let blocks := fieldLE p 8 8
  if 3 < f ∨ blocks % 8 ≠ 0 ∨ blocks < 8 ∨ 2 ^ 42 < blocks then refuse .invalidField s
  else match tget s.pair.arr.volumes v with
    | none => refuse .notFound s
    | some r =>
      if !volLives s v then refuse .notFound s
      else if !ownsVol s v then refuse .notOwner s
      else if blocks < r.blocks ∧ !f.testBit 0 then refuse .invalidField s
      else
        let put (k : Nat) (s : State) : State :=
          { s with pair := { s.pair with volF := s.pair.volF ++ [(v, some (blocks, f), k)] } }
        if blocks < r.blocks then withJob 0x0202 v blocks s put else (.now .ok, put (2 ^ 40) s)

/-- VOL_LIST. -/
def volListH (p : Bytes) (s : State) : BAns × State :=
  let first := fieldLE p 0 4
  let all := s.pair.arr.volumes.filter (fun e => decide (first ≤ e.1))
  let page := all.take 17
  let next := ((all.drop 17).head?.map (·.1)).getD 0xFFFFFFFF
  let entry (e : Nat × VolRec) : Bytes :=
    let st := if s.pair.dying.contains e.1 ∨ volPending s e.1 true then 1
      else if volPending s e.1 false ∨ s.rep.drops.any (fun d => decide (d.1 % 65536 = e.1 ∧ 4096 < d.1 / 65536)) then 2
      else if gaining s e.1 ∨ giving s e.1 then 3 else 0
    leN 4 e.1 ++ leN 4 e.2.domain ++ leN 8 e.2.blocks ++ leN 1 e.2.pref.num ++ leN 1 (ownerOf s e.1).num ++ leN 1 st ++
      leN 1 (b2n e.2.mark.isSome) ++ leN 2 (snapCount s e.1) ++ zeros 2
  (.now (.ok (leN 2 page.length ++ zeros 2 ++ leN 4 next ++ (page.map entry).flatten)), s)

/-! ### Domains (R207 to R209) -/

/-- The layout of DOM_CREATE (Table 7.9). -/
def domCreateLayout (p : Bytes) : Bool :=
  decide (16 ≤ p.length) && decide (p.length = 16 + fieldLE p 8 2 + fieldLE p 10 2) && zeroAt p 5 3 && zeroAt p 12 4

/-- DOM_CREATE. -/
def domCreateH (p : Bytes) (s : State) : BAns × State :=
  let doms := s.pair.arr.domains
  let asked := fieldLE p 0 4
  let f := fieldLE p 4 1
  let la := fieldLE p 8 2
  let lb := fieldLE p 10 2
  if 3 < f ∨ la = 0 ∨ 240 < la ∨ lb = 0 ∨ 240 < lb ∨ (1023 < asked ∧ asked ≠ 0xFFFFFFFF) ∨ thas doms asked then
    refuse .invalidField s
  else if s.sec.rngHalted then refuse .busy s
  else if 1024 ≤ doms.length ∨ (freePair s).isNone then refuse .exhausted s
  else
    let d := if asked = 0xFFFFFFFF then tfree doms 0 1024 else asked
    let blobA := bslice p 16 la
    let blobB := bslice p (16 + la) lb
    let mine := if keyRole s = some .b then blobB else blobA
    match if fieldLE mine 2 1 = 1 ∧ fieldLE mine 6 2 = d then unwrap s mine else none, freePair s with
    | some key, some k =>
      let version := fieldLE mine 4 2
      let s := loadPair k key 0 d version s
      let salt := xtsRegion true (slotKey s k) (slotKey s (k + 1)) 0 0 (freeBytes 32 s)
      let v : DomRec := { salt := salt, dedup := f.testBit 0, compress := f.testBit 1, version := version, blobA := blobA, blobB := blobB }
      let s := changeArray (fun a => { a with domains := tset a.domains d v }) (drbgRequest (draw s))
      (.now (.ok (leN 4 d)), { s with pair := { s.pair with noKey := s.pair.noKey.filter (· ≠ d) } })
    | _, _ => refuse .denied (blobRefusedOf mine s)

/-- The switches in force stay until the boundary while the record already holds new ones (R487). -/
def holdSwitches (d : Nat) (s : State) : State :=
  { s with pair := { s.pair with domF := tset s.pair.domF d (domSwitches s d) } }

/-- The answer to a head-wide query. -/
def filterReport (s : State) : Bytes :=
  let occupied := sumBy (fun e => e.2.tags.countP (· ≠ 0)) s.ing.buckets
  leN 4 (filterGib s) ++ zeros 4 ++ leN 8 (bucketCount s) ++ leN 8 occupied ++ leN 8 s.ing.forgot ++ zeros 32

/-- The eight counters of a domain. -/
def domReport (c : DomCnt) : Bytes :=
  leN 8 c.fp ++ leN 8 c.dup ++ leN 8 c.zero ++ leN 8 c.raw ++ leN 8 c.grains ++ leN 8 c.forgot ++ leN 8 c.miss ++ leN 8 c.verify

/-- DOM_POLICY. -/
def domPolicyH (p : Bytes) (s : State) : BAns × State :=
  let d := fieldLE p 0 4
  let op := fieldLE p 4 1
  let f := fieldLE p 5 1
  let gib := fieldLE p 8 4
  if 1 < op ∨ 3 < f then refuse .invalidField s
  else if d = 0xFFFFFFFF then
    if op = 0 then (.now (.ok (filterReport s)), s)
    else if f ≠ 0 ∨ (gib ≠ 0 ∧ (gib < 4 ∨ 1024 < gib)) then refuse .invalidField s
    else if gib = 0 ∨ gib = filterGib s then (.now .ok, s)
    else if s.ing.filterNext.isSome then refuse .busy s
    else withJob 0x0211 0 gib s (fun k s => { s with ing := { s.ing with filterNext := some (gib, k) } })
  else match tget s.pair.arr.domains d with
    | none => refuse .notFound s
    | some v =>
      if op = 0 then (.now (.ok (domReport (tgetD s.ing.dom d {}))), s)
      else if gib ≠ 0 then refuse .invalidField s
      else
        let v := { v with dedup := f.testBit 0, compress := f.testBit 1 }
        (.now .ok, changeArray (fun a => { a with domains := tset a.domains d v }) (holdSwitches d s))

/-- DOM_BYTE_VERIFY. -/
def domByteVerifyH (p : Bytes) (s : State) : BAns × State :=
  let d := fieldLE p 0 4
  if 1 < fieldLE p 4 1 then refuse .invalidField s
  else match tget s.pair.arr.domains d with
    | none => refuse .notFound s
    | some v =>
      let v := { v with verify := decide (fieldLE p 4 1 = 1) }
      (.now .ok, changeArray (fun a => { a with domains := tset a.domains d v }) (holdSwitches d s))

/-! ### The filter's new size (R186, R208) -/

/-- The index entries that the filter still names, in bucket and slot order. -/
def liveEntries (s : State) : List IdxEnt :=
  s.ing.buckets.flatMap (fun b => if s.ing.loading.contains b.1 then [] else (List.range 28).filterMap (fun i =>
    if b.2.tags.getD i 0 = 0 then none else indexEntry s b.1 i)) ++
  s.ing.loading.flatMap (fun b => (List.range 28).filterMap (indexEntry s b))

/-- Put an entry into its new bucket; one that does not fit is forgotten and counted. -/
def reInsert (e : IdxEnt) (s : State) : State :=
  let b := bucketOf s e.fp
  let k := bucket s b
  match (List.range 28).find? (fun i => decide (k.tags.getD i 0 = 0)) with
  | none => { s with ing := { s.ing with
      forgot := satAdd 32 s.ing.forgot 1, buckets := tset s.ing.buckets b { k with forgotten := satAdd 32 k.forgotten 1 } } }
  | some i =>
    let tags := (List.range 28).map (fun j => if j = i then tagFp e.fp else k.tags.getD j 0)
    { s with ing := { s.ing with
      buckets := tset s.ing.buckets b { k with tags := tags }
      index := tset s.ing.index b (tset (tgetD s.ing.index b []) i e) } }

/-- The switch to a filter of a new size at an epoch boundary. -/
def refilter (s : State) : State :=
  match s.ing.filterNext with
  | none => s
  | some (gib, job) =>
    let es := liveEntries s
    let s := { s with ing := { s.ing with filterGib := gib, filterNext := none, buckets := [], index := [], wbuf := [], loading := [] } }
    let es := es ++ s.ing.waitIns.map (fun e => { fp := e.1, serial := e.2.1, pga := none })
    let s := { s with ing := { s.ing with waitIns := [] } }
    finishJob job .success [] (es.foldl (fun s e => reInsert e s) s)

/-! ### The epoch boundary -/

/-- What takes effect between steps 3 and 4 of Table 3.4: deletions, cuts, resizes, settings (R147, R320, R323, R325,
R329, R394, R487). -/
def boundary (s : State) : State :=
  let k := s.jrn.epoch.number
  let vols := s.pair.volF
  let s := { s with pair := { s.pair with volF := [] } }
  let s := vols.foldl (fun s e => if e.2.1.isNone ∧ volLives s e.1 then deleteVol e.1 e.2.2 s else s) s
  let s := deleteJobs (cutPoints k (cutBatches k (cutJobs k s)))
  let s := vols.foldl (fun s e => match e.2.1 with
    | some (blocks, f) =>
      if volLives s e.1 then resizeVol e.1 blocks (f.testBit 1) e.2.2 s else finishJob e.2.2 .notFound [] s
    | none => s) s
  let s := { s with
    pair := { s.pair with domF := [] }
    plc := { s.plc with policy := s.pair.arr.plc, media := s.pair.arr.media } }
  rotationsBegin (refilter s)

/-- A writer that R78 has moved out of the epoch is checked again on the state after the boundary (R147). -/
def recheckMoved (s : State) : State :=
  s.jrn.cmds.foldl (fun s e =>
    if isWriter e.2 ∧ e.2.stage = .running ∧ !e.2.units.any (·.committed) then
      match againFails s e.2 with
      | some (st, r) => endWriter e.1 st r s
      | none => s
    else s) s

/-- The boundary after any event: the drain ends, the marker is done, what is due takes effect, the next epoch begins. -/
def epochAdvance (s : State) : State :=
  let s := epochMark s
  if epochMarked s then admitAll (recheckMoved (epochBegin (boundary s))) else s

/-! ### Rows -/

def execVolCreate (n : Fin 64) (s : State) : Res := .next (basmos n 0x0200 (layoutIs 32 [(17, 15)]) volCreateH s)
def execVolDelete (n : Fin 64) (s : State) : Res := .next (basmos n 0x0201 (layoutIs 8 [(5, 3)]) volDeleteH s)
def execVolResize (n : Fin 64) (s : State) : Res := .next (basmos n 0x0202 (layoutIs 16 [(5, 3)]) volResizeH s)
def execVolList (n : Fin 64) (s : State) : Res := .next (basmos n 0x0203 (layoutIs 4 []) volListH s)
def execDomCreate (n : Fin 64) (s : State) : Res := .next (basmos n 0x0210 domCreateLayout domCreateH s)
def execDomPolicy (n : Fin 64) (s : State) : Res := .next (basmos n 0x0211 (layoutIs 16 [(6, 2), (12, 4)]) domPolicyH s)
def execDomByteVerify (n : Fin 64) (s : State) : Res := .next (basmos n 0x0212 (layoutIs 8 [(5, 3)]) domByteVerifyH s)

end Sys2Proof.Machine
end

