-- ==== Sys2Proof/Machine/Settle.lean ====
section
/-!
DEFINITION. Machine/Settle.lean: what follows from an event inside the head with no further command: the engines go on as
far as what has arrived lets them (chapters 03, 07 to 11).
-/
namespace Sys2Proof.Machine

/-- One round of everything that waits only on the head's own state. -/
def settleRound (s : State) : State :=
  let s := readsArrived (failWaiting (mediaAdvance s))
  let s := recallsAdvance (readsAdvance (ingestAdvance s))
  let s := rotationsEnd (epochAdvance (untrackedAdvance s))
  let s := kekCheck (replAdvance (dropsAdvance s))
  let s := trimPages (mirrorWaiting s.ftb.waiting.length s)
  -- until step 7 of Table 3.10 no completion is posted and no journal space released (R91)
  if s.jrn.restart = .none then postReady (freeDrained (releaseLoose s)) else s

/-- What goes on by itself while no command waits: the DRAM controller serves requests (R352), and the reload of the Dovecote's
filter takes its next bucket (R191, log entry 8). -/
def idleTick (s : State) : State := loadNext (dramTick s)

/-- Do the engines run: the rails are on and no compaction holds the DRAM (R86, R407)? -/
def enginesRun (s : State) : Bool :=
  !s.jrn.compacting && (match s.gh.state with
    | .dormant | .icehouse | .waking => false
    | _ => true)

/-- Everything that follows; three rounds carry a result from the media through a command to its completion. -/
def settle (s : State) : State :=
  if enginesRun s then settleRound (settleRound (settleRound s)) else s

end Sys2Proof.Machine
end

