-- ==== Sys2Proof/Machine/Checkpoint.lean ====
section
/-!
DEFINITION. Machine/Checkpoint.lean: the map checkpoint of a head (R260), which also lets journal records go (R82) and
released secondary copies be erased (R233).
-/
namespace Sys2Proof.Machine

/-- The index with the write buffer's entries laid over it. -/
def mergedIndex (s : State) : Tab (Tab IdxEnt) :=
  s.ing.wbuf.foldl (fun t e => tset t e.1 (e.2.foldl (fun u x => tset u x.1 x.2) (tgetD t e.1 []))) s.ing.index

/-- Are a committed unit's changes on flash and named by map records that stand before the checkpoint? -/
def unitCovered (s : State) (u : UnitBook) : Bool := u.applied && u.serials.all (drainNamed s)

/-- The own-region records that a checkpoint begun now covers: all but a location change that is not done. -/
def coveredOffs (s : State) : List Nat :=
  (s.jrn.own.filter (fun r => recDone s r || (match r.r.body with
    | .mapMoves _ => false
    | _ => true))).map (·.r.off)

/-- CHECKPOINT_START (R260): open pages are filled up, the kind-1 record is written, and the checkpoint writes the map with
the location changes before that record; the live map takes them when the checkpoint completes (R19). -/
def checkpointStart (s : State) : State :=
  if s.map.ckptRun.isSome ∨ !s.jrn.serving ∨ s.jrn.restart ≠ .none ∨ s.jrn.stopped ∨ s.pair.fenced then s
  else
    let s := (tkeys s.plc.open_).foldl (fun s g => padShelf g s) s
    let n := s.map.ckptMade + 1
    let before := coveredOffs s
    let image := applyCovered before s
    let units := ((s.jrn.units.filter (unitCovered s)).map (fun u => (u.asn, u.unit)))
    let sets := (s.plc.sets.filter (fun e => e.2.secondary && decide (e.2.state = 5))).map (·.1)
    let run : Ckpt := {
      number := n, maps := image.map.maps, leaves := image.map.leaves, chunks := image.map.chunks
      serialHigh := s.map.serial, index := mergedIndex image
      missFrom := (s.jrn.units.filter (fun u => !unitCovered s u)).foldl (fun n u => min n u.epoch) s.jrn.epoch.number }
    let (off, s) := writeLoose (.mapCheckpoint n s.jrn.asn) s
    { s with map := { s.map with
      ckptRun := some run, ckptOff := before ++ [off], ckptUnits := units, ckptSets := sets, ckptMade := n, dirty := [] } }

/-- The groups of the buckets in the write buffer are written to their index pages; entries that the checkpoint wrote are in
their groups, and a later one stays. -/
def writeIndex (run : Ckpt) (s : State) : State :=
  let s := (tkeys s.ing.wbuf).foldl (fun s b =>
    emit (.indexWrite (indexPlace b).1 (indexPlace b).2 (groupBytes b (tgetD run.index b []))) s) s
  s.ing.wbuf.foldl (fun s e => e.2.foldl (fun s x =>
    if tget (tgetD run.index e.1 []) x.1 = some x.2 then
      { s with ing := { s.ing with
        index := tset s.ing.index e.1 (tset (tgetD s.ing.index e.1 []) x.1 x.2)
        wbuf := if (terase (tgetD s.ing.wbuf e.1 []) x.1).isEmpty then terase s.ing.wbuf e.1
          else tset s.ing.wbuf e.1 (terase (tgetD s.ing.wbuf e.1 []) x.1) } }
    else s) s) s

/-- CHECKPOINT_COMPLETE (R260): the root stands on two home shelves; the live map takes the location changes it covers
(R19, stage 8). -/
def checkpointComplete (s : State) : State :=
  match s.map.ckptRun with
  | none => s
  | some run =>
    let offs := s.map.ckptOff
    let units := s.map.ckptUnits
    let sets := s.map.ckptSets
    let s := applyCovered offs s
    let s := modOwn (fun r => offs.contains r.r.off) (fun r => { r with checkpointed := true }) s
    let s := { s with
      jrn := { s.jrn with units := s.jrn.units.map (fun u =>
        if units.contains (u.asn, u.unit) then { u with checkpointed := true } else u) }
      map := { s.map with
        ckptPrev := s.map.ckpt, ckpt := run, ckptRun := none, ckptOff := [], ckptUnits := [], ckptSets := [] } }
    sets.foldl (fun s k => eraseSet k s) (writeIndex run s)

def execCheckpointStart (s : State) : Res := .next (settle (checkpointStart s))
def execCheckpointComplete (s : State) : Res := .next (settle (checkpointComplete s))

end Sys2Proof.Machine
end

