-- ==== Sys2Proof/Machine/Restart.lean ====
section
/-!
DEFINITION. Machine/Restart.lean: power-fail compaction, the keep area, restart and reconciliation, HELLO and the array
record (R60, R83 to R91, R110, R116, R201, R410, R486, R487).
-/
namespace Sys2Proof.Machine

/-! ### Compaction (R86, Table 3.8) -/

/-- Step 1: nothing commits any more, and a takeover or a wait to fence is abandoned (Table 4.7). -/
def beginCompaction (s : State) : State :=
  { s with
    jrn := { s.jrn with stopped := true, compacting := true, epoch := { s.jrn.epoch with step := 0, marker := none } }
    pair := { s.pair with takeover := 0, lossB := false, msgHeld := false } }

/-- The bytes 0 to 4,091 of the keep header (Table 3.9). -/
def keepHeader (k : Keep) : Bytes :=
  leN 4 k.tag ++ leN 2 k.format ++ leN 1 k.generation ++ leN 1 (if k.complete then 1 else 0) ++ fit 16 k.serial ++ leN 4 k.cycle ++
    leN 4 k.ownGib ++ leN 8 k.asnHigh ++ leN 8 k.epoch ++ fit 16 k.peerSerial ++ leN 8 k.ownOffset ++ leN 8 k.mirrorOffset ++
    leN 8 k.tableOffset ++ leN 4 (b2n k.flashMode + 2 * b2n k.fenceOut + 4 * b2n k.fenced) ++ zeros 4000

/-- A byte of a region: what its records hold, 0 elsewhere. -/
def regionByte (recs : List JRec) (o : Nat) : Byte :=
  match recs.find? (fun r => decide (r.off ≤ o ∧ o < r.off + recSize r)) with
  | some r => byteAt (recImage r r.check) (o - r.off)
  | none => 0

/-- The CRC-32C of 1 MiB of keep data, segment n of a region at offset o. -/
def segCrc (recs : List JRec) (n : Nat) : Nat := crc32c ((List.range 1048576).map (fun i => regionByte recs (n * 1048576 + i)))

/-- The segments of a region that hold a byte of a record. -/
def segsHeld (recs : List JRec) : List Nat :=
  (recs.flatMap (fun r => (List.range (recSize r / 1048576 + 2)).map (fun i => r.off / 1048576 + i))).eraseDups

/-- The entries of the segment check table for a region that begins at an offset of the keep area. -/
def segTable (o : Nat) (recs : List JRec) : Tab Nat :=
  (segsHeld recs).foldl (fun t n => tset t (o / 1048576 + n) (segCrc recs n)) []

/-- Do the segments that a record lies in carry the CRC of the table? -/
def segOk (k : Keep) (o : Nat) (recs : List JRec) (r : JRec) : Bool :=
  (List.range ((r.off % 1048576 + recSize r - 1) / 1048576 + 1)).all (fun i =>
    decide (tget k.segs (o / 1048576 + r.off / 1048576 + i) = some (segCrc recs (r.off / 1048576 + i))))

/-- The keep area as step 5 writes it (Table 3.9). The header takes 4 KiB, the segment check table the rest of the 64 MiB, and
the own and mirror regions follow (log entry 123). -/
def keepNow (s : State) : Keep :=
  let own := 67108864
  let mirror := own + regionSize s
  let k : Keep := {
    tag := 0x4B454550, format := 1, generation := 1
    complete := true, serial := deviceSerial, cycle := s.gh.pwrCycle, ownGib := s.jrn.ownGib, asnHigh := s.jrn.asn
    epoch := s.jrn.epoch.number, peerSerial := if s.pair.paired ∧ s.pair.filled then fit 16 s.pair.peerSerial else zeros 16
    flashMode := s.jrn.flashMode, fenceOut := s.ghx.fenceOut, fenced := s.pair.fenced
    ownOffset := own, mirrorOffset := mirror, tableOffset := 4096, check := 0
    segs := (segTable own (s.jrn.own.map (·.r))) ++ (segTable mirror s.jrn.mirror)
    own := s.jrn.own, mirror := s.jrn.mirror, tables := s.jrn.tables, mirrorTables := s.jrn.mirrorTables }
  { k with check := crc32c (keepHeader k) }

/-- The keep area that a head in Watch or Dormant writes: its regions are empty (R409). -/
def keepEmpty (s : State) : Keep :=
  keepNow { s with jrn := { s.jrn with own := [], mirror := [], tables := [], mirrorTables := [] } }

/-- Step 2 of Table 3.10: the keep header's tag, check value, state, serial, generation and format, and the keep supply. An area
that a fenced head wrote counts as holding none of its own work (R110). -/
def keepGood (s : State) : Bool :=
  match s.jrn.keep with
  | some k =>
    decide (k.tag = 0x4B454550) && decide (k.check = crc32c (keepHeader k)) && k.complete && decide (k.serial = deviceSerial) &&
      decide (k.generation = 1) && decide (k.format = 1) && !s.gh.keepFell && !k.fenced
  | none => false

/-- The own-region records of the keep area: one in a segment that fails its check is lost here (R89). -/
def keptOwn (k : Keep) : List OwnRec :=
  let recs := k.own.map (·.r)
  k.own.map (fun x => if segOk k k.ownOffset recs x.r then x else { x with lost := true })

/-- The mirror-region records of the keep area that lie in a segment that fails its check. -/
def keptLost (k : Keep) : List Nat :=
  (k.mirror.filter (fun r => !segOk k k.mirrorOffset k.mirror r)).map (·.off)

/-! ### The journal lost on both sides (R89) -/

/-- Both copies of the journal are lost (Table 3.11, last row): the map is that of the last checkpoint, and the volumes
this head owns are marked from the lowest epoch with a change that the checkpoint does not hold (log entry 30). -/
def journalLost (s : State) : State :=
  let c := s.map.ckpt
  let s := { s with
    jrn := { s.jrn with own := [], units := s.jrn.units.filter (·.mirror), drain := [], cursor := 0, deferredMaps := [] }
    map := { s.map with maps := c.maps, leaves := c.leaves, chunks := c.chunks, failed := [] } }
  markVols (myVols s) c.missFrom 1 s

/-! ### Reconciliation of the own region (R89, Table 3.11) and replay (Table 3.10 step 6) -/

/-- The book of a unit of the own region. -/
def ownBook (recs : List JRec) (u : Nat × Nat) : Option UnitBook :=
  (unitRecOf recs u.1 u.2).bind (fun r => match r.body with
    | .unit _ _ _ _ vol first blocks _ =>
      let rs := recsOf recs u.1 u.2
      some {
        asn := u.1, unit := u.2, volume := vol, first := first, blocks := blocks, epoch := r.epoch
        serials := rs.filterMap (fun x => match x.body with
          | .chunk _ _ e _ => some (envOf e).serial
          | _ => none)
        recs := rs.map (·.off) }
    | _ => none)

/-- The unit's book stands: it committed before. -/
def inBooks (s : State) (u : Nat × Nat) : Bool :=
  s.jrn.units.any (fun v => !v.mirror && decide (v.asn = u.1 ∧ v.unit = u.2))

/-- The Dovecote insertions of a unit's new chunks are rebuilt (R88 step 6, R190). -/
def indexUnit (recs : List JRec) (asn unit : Nat) (s : State) : State :=
  (recsOf recs asn unit).foldl (fun s r => match r.body with
    | .chunk _ _ e _ =>
      let h := envOf e
      if h.overlay ∨ !(domSwitches s h.domain).1 ∨ indexed s h.serial then s else insertIndex h.fp h.serial h.domain s
    | _ => s) s

/-- What replay decides for one command of the own region: its newly committed units are applied; when all its units are
committed it has an entry in its queue's replay table, and it counts as partly committed when only some are. -/
def replayCmd (asn : Nat) (us : List Nat) (s : State) : State :=
  let recs := ownGood s
  let old := us.filter (fun u => inBooks s (asn, u))
  let new := us.filter (fun u => !inBooks s (asn, u) && setComplete recs asn u && !setAborted recs asn)
  let dead := us.filter (fun u => !old.contains u && !new.contains u)
  match (old ++ new).findSome? (fun u => unitRecOf recs asn u) with
  | none => s
  | some ur => match ur.body with
    | .unit q csn crc op _ _ _ _ =>
      let (sum, s) := new.foldl (fun acc u =>
        match unitRecOf recs asn u, ownBook recs (asn, u) with
        | some r, some b => match r.body with
          | .unit _ _ _ _ vol first blocks _ =>
            let n := unitResult acc.2 (recsOf recs asn u) op vol first blocks
            let s := { acc.2 with jrn := { acc.2.jrn with units := acc.2.jrn.units ++ [b] } }
            (acc.1 + n, indexUnit recs asn u (applyUnit asn u s))
          | _ => acc
        | _, _ => acc) (0, s)
      let before := sumBy (fun u => unitResult s (recsOf recs asn u) op 0 0 0) old
      -- blocks that an earlier unit of a RELEASE unmapped are no longer known (log entry 31)
      let (result, s) := if op = 4 ∧ old ≠ [] then (freeNat s % 2 ^ 32, draw s) else (sum + before, s)
      if dead = [] ∧ old.length + new.length = ur.units then
        if ((tget s.jrn.tables q).bind (fun t => tget t.entries csn)).any (fun e => decide (e.crc = crc)) then s
        else enterReplay q { csn := csn, crc := crc, opcode := op, status := .success, result := result } s
      else { s with jrn := { s.jrn with partly := s.jrn.partly ++ [(q, csn, crc)] } }
    | _ => s

/-- The units that reconciliation discards: their records are named by a drained record. -/
def dropDiscarded (s : State) : State :=
  let recs := ownGood s
  (unitsIn recs).foldl (fun s u =>
    if inBooks s u then s
    else drainRecs ((s.jrn.own.filter (fun r => decide (r.r.asn = u.1 ∧ r.r.unit = u.2 ∧ 0 < r.r.units) && !r.drained)).map (·.r.off))
      u.1 u.2 s) s

/-- Chunks that stand in the own region are to be drained again. -/
def redrain (s : State) : State :=
  { s with jrn := { s.jrn with drain := s.jrn.units.foldl (fun t u => u.serials.foldl (fun t k =>
      let code := ((chunkOf s k).map (fun c => locCode c.loc.kind)).getD 0
      if code = 2 ∨ code = 3 then tset t k (u.asn, u.unit) else t) t) s.jrn.drain } }

/-- Own-region records without receipt go to the peer again. -/
def remirror (s : State) : State :=
  if !mirrors s then s
  else (s.jrn.own.filter (fun r => !r.receipted)).foldl (fun s r => mirrorRec r.r.off s) s

/-- Open bands close without further programs: pages not confirmed are void members, the rest is read back. -/
def shutBands (s : State) : State :=
  (tkeys s.plc.open_).foldl (fun s g =>
    match tget s.plc.open_ g with
    | none => s
    | some ob =>
      let s := (s.plc.rows.filter (fun e => decide (e.2.shelf = g ∧ e.2.band = ob.band))).foldl (fun s e =>
        modRow g e.2.number (fun r => { r with mem := r.mem.mapIdx (fun j m =>
          if m = .empty ∧ j < 28 then .padded else if m = .filling then .void else m) }) s) s
      let f (b : BSet) : BSet := { b with
        state := 2, short := true, closedAt := s.gh.hours, bad := b.issued.filter (fun l => !b.conf.contains l) ++ b.bad }
      let s := ob.sleds.foldl (fun s e =>
        let key := openKey ob g e.1
        match tget s.plc.sets key with
        | some b => modSet (partnerKey b) f (modSet key f s)
        | none => s) s
      { s with plc := { s.plc with open_ := terase s.plc.open_ g } }) s

/-- Steps 5 and 6 on the regions in place. -/
def replayOwn (s : State) : State :=
  let s := (s.jrn.units.filter (fun u => !u.mirror)).foldl (fun s u => indexUnit (ownGood s) u.asn u.unit s) s
  let s := (ownGood s).foldl (fun s r => match r.body with
    | .ownership r vs => setOwner r vs s
    | _ => s) s
  let us := unitsIn (ownGood s)
  let asns := (us.map (·.1)).eraseDups
  let s := asns.foldl (fun s a => replayCmd a ((us.filter (fun u => decide (u.1 = a))).map (·.2)) s) s
  redrain (dropDiscarded s)

/-! ### Restart (R88, R486) -/

/-- Steps 1 to 4 of Table 3.10: HELLO goes out, and the head waits for the peer. -/
def beginRestart (kv : Bool) (s : State) : State :=
  let s := { s with
    jrn := { s.jrn with restart := .peerWait kv, serving := false, stopped := false, compacting := false }
    pair := { s.pair with
      paired := false, state := 0, takeover := 0, failStep := 0, rejoin := false, hello := none, helloWaits := false, joining := none } }
  sendHello s

/-- This head goes on alone: it runs as a survivor, and drives the fence after the step of R108 (log entry 32). -/
def goAlone (s : State) : State :=
  let s := if s.ghx.fenceOut ∨ s.ghx.fenceIn then s else assertGood s
  { s with
    ghx := { s.ghx with fenceOut := s.ghx.fenceOut || !s.ghx.fenceIn }
    plc := { s.plc with alone := true }
    pair := { s.pair with state := 4, paired := true, takeover := 0, failStep := 0 }
    jrn := { s.jrn with restart := .replay } }

/-- RESTART_PEER_WAIT_EXPIRY: a head with a valid keep area goes on alone; one without goes on waiting. -/
def peerWaitExpiry (s : State) : State :=
  match s.jrn.restart with
  | .peerWait true => note 3 8 3 (goAlone s)
  | .peerWait false => note 3 8 3 s
  | _ => s

/-- TAKEOVER_FORCE mode 1 ends the wait of a head without a valid keep area: it goes on alone with its volumes marked. -/
def forceAlone (s : State) : State :=
  if s.jrn.restart = .peerWait false then journalLost (goAlone s) else s

/-- A restarting head fills in whether its peer's mirror copy can help: neither copy is valid, or one is. -/
def bothLost (s : State) (kv peer : Bool) : State := if kv ∨ peer then s else journalLost s

/-- Two heads that restart are a whole pair again, and this one goes on to replay (steps 4 and 5 of Table 3.10). -/
def pairAgain (m : HelloMsg) (s : State) : State :=
  match s.jrn.restart with
  | .peerWait kv =>
    let s := { s with
      pair := { s.pair with paired := true, state := 3, filled := s.pair.filled && (kv || !m.restarting) }
      jrn := { s.jrn with restart := .replay } }
    if m.restarting then bothLost s kv m.keepValid else s
  | _ => s

/-- The peer's HELLO at step 4 of Table 3.10: a peer that restarts too, or that is whole, is paired with once Table 4.9 passes;
beside any other peer this head goes on alone. -/
def restartReply (m : HelloMsg) (s : State) : State :=
  match s.jrn.restart with
  | .peerWait kv =>
    if m.arrayId ≠ arrayIdOf s ∨ !genOk s m then s
    else match s.ftb.peerHb with
      | none => s
      | some h =>
        if m.restarting ∨ h.state = 3 then
          if checksPass s s.jrn.ownGib s.gh.epochMs.toNat m then startJoin .again s else s
        else bothLost (goAlone s) kv m.keepValid
  | _ => s

/-- What the array record names of this head (R105): its role. -/
def roleFrom (a : ArrayRec) (old : Option Role) : Option Role :=
  if a.serialA = deviceSerial then some .a else if a.serialB = deviceSerial then some .b else old

/-- RESTART_REPLAY_DONE: steps 5 to 7: committed units are applied in ASN order, and host commands are admitted. -/
def replayDone (s : State) : State :=
  if s.jrn.restart ≠ .replay then s
  else
    let s := replayOwn s
    let alone := decide (s.pair.state = 4)
    let s := if alone then reconcileMirror s else s
    let s := if alone then { s with
        pair := { s.pair with owned := ownAll s }
        jrn := { s.jrn with
          tables := s.jrn.mirrorTables.foldl (fun t e => tset t e.1 e.2) s.jrn.tables, mirrorTables := []
          asn := max s.jrn.asn (peerAsnHigh s) } } else s
    let epochs := max (s.jrn.epoch.number) (max (maxBy (fun r => r.r.epoch) s.jrn.own) (maxBy (·.epoch) s.jrn.mirror))
    let s := { s with
      jrn := { s.jrn with
        restart := .none, serving := true, stopped := false, keep := none
        epoch := { s.jrn.epoch with number := epochs + 1, step := 0, marker := none, high := 0 } }
      map := { s.map with serial := s.map.ckpt.serialHigh + 2 ^ 32, failed := [] }
      gh := { s.gh with keepFell := false } }
    remirror (restoreHolds s)

/-! ### HELLO (R116) -/

/-- An unpaired head without an array hears the head that has created one with it (R105). -/
def hearsArray (m : HelloMsg) (s : State) : State :=
  if inArray s ∨ m.arrayId.all (· = 0) ∨ m.role ≠ some .a ∨ !checksPass s m.ownGib m.epochMs m ∨ s.pair.fenced ∨
      s.pair.job.isSome ∨ s.ghx.boardRefused then s
  else startJoin .adopt s

/-- It takes role B of that array. -/
def adoptArray (m : HelloMsg) (s : State) : State :=
  { s with
    pair := { s.pair with
      role := some .b, state := 3, paired := true, filled := true
      arr := { s.pair.arr with
        arrayId := m.arrayId, serialA := m.serial, serialB := deviceSerial, ownGib := m.ownGib, epochMs := m.epochMs } }
    gh := { s.gh with epochMs := BitVec.ofNat 16 m.epochMs }
    jrn := { s.jrn with
      ownGib := m.ownGib, serving := true, epoch := { s.jrn.epoch with number := s.jrn.epoch.number + 1 } } }

/-- The survivor hears the head that is to rejoin: the one recorded for the absent role, or a replacement that has taken
it. Its HELLO says whether auto fail-back was asked for on it (R115, R118, log entry 33). -/
def survivorHears (m : HelloMsg) (s : State) : State :=
  let z := (roleOf s).other
  if !survivor s ∨ s.pair.job.isSome ∨ s.jrn.restart ≠ .none ∨ m.arrayId ≠ arrayIdOf s ∨
      !checksPass s s.jrn.ownGib s.gh.epochMs.toNat m then s
  else
    let known := decide (m.serial = serialOf s z)
    if !known ∧ (m.role ≠ some z ∨ !s.ghx.fenceOut) then s
    else acceptRejoin m.autoFail (if known then s else recordSerial z m.serial s)

/-- A returning head hears the survivor: it gives up its own regions and joins (Table 4.8 step 1). A head fenced for its
temperature (R471), its margin (R450), a lost engine (Table 16.3) or too little DRAM
(R360) stays fenced. -/
def returnHears (m : HelloMsg) (s : State) : State :=
  let mine := m.role.map Role.other
  let named := match mine with
    | some r => decide (serialOf s r = deviceSerial)
    | none => false
  let short := (tvals s.dram.ch).any (fun c => (tvals c.ranks).any (·.withdrawn)) && !dramSuffices s
  if s.ghx.thermalFence ∨ s.evt.ageingOut ∨ s.evt.engineLost ∨ short then s
  else if s.pair.job.isSome ∨ s.jrn.restart ≠ .none ∨ !inArray s ∨ m.arrayId ≠ arrayIdOf s ∨ !named ∨
      !checksPass s m.ownGib m.epochMs m ∨ !(s.pair.fenced || decide (s.pair.state = 0)) then s
  else startJoin .back s

/-- A HELLO that has led to no pairing yet is held to the checks of Table 4.9 again as more becomes known. -/
def tryPair (s : State) : State :=
  match s.pair.hello with
  | none => s
  | some m =>
    if !s.pair.helloWaits ∨ s.pair.joining.isSome then s
    else if s.jrn.restart = .none then returnHears m (survivorHears m (hearsArray m s))
    else restartReply m s

/-- The array record has been read and applied: the pairing completes, and so does a PAIR_JOIN that asked for it (R487). -/
def endJoin (s : State) : State :=
  match s.pair.joining, s.pair.hello with
  | some k, some m =>
    if s.pair.reading then s
    else
      let s := { s with pair := { s.pair with joining := none, helloWaits := false } }
      let s := match k with
        | .adopt => adoptArray m s
        | .again => pairAgain m s
        | .back => acceptReturn m s
      match s.pair.job with
      | some (j, _) => sendHello (finishJob j .success [] { s with pair := { s.pair with job := none, joinReq := none } })
      | none => s
  | _, _ => s

/-- HELLO: it is answered when it says something new; then it drives the restart exchange and the pairing checks. Its own
number is the first that the peer uses (R98). -/
def helloIn (m : HelloMsg) (s : State) : State :=
  let again := decide (s.pair.hello = some m)
  let s := { s with
    pair := { s.pair with
      hello := some m, peerSerial := m.serial, peerGen := m.generation, helloWaits := s.pair.helloWaits || !again
      joining := if again then s.pair.joining else none }
    ftb := if again then s.ftb else { s.ftb with rxCum := m.firstMsgId, rxAbove := [], rx := [], hbRx := 0 } }
  let s := sendReceipt s
  tryJoin (tryPair (if again then s else sendHello s))

/-! ### HEARTBEAT (R97, R103, R487) -/

/-- HEARTBEAT on a port. One whose counter does not rise is ignored. -/
def heartbeatIn (n : Nat) (m : HbMsg) (s : State) : State :=
  if m.counter ≤ s.ftb.hbRx ∨ !(fportOf s n).aligned then s
  else
    let p := fportOf s n
    let s := { s with
      ftb := { s.ftb with hbRx := m.counter, peerHb := some m }
      pair := { s.pair with msgLive := true, msgHeld := false, peerGen := m.generation, genHeard := max s.pair.genHeard m.recordGen } }
    let s := if p.up then s else
      let s := record 0x0B 5 0 .none (leN 1 n ++ leN 1 1) (setFport n { p with up := true } s)
      if s.pair.paired then s else sendHello s
    let s := if s.pair.paired ∧ s.pair.arr.gen < m.recordGen ∧ !s.pair.reading then
        { s with pair := { s.pair with reading := true } } else s
    tryJoin (tryPair (returnCheck m s))

/-! ### The array record (R487) -/

/-- ARRAY_RECORD_READ_DONE: the changes are applied, and a relationship that has left the record is given up here (R335); a still newer generation starts another read. -/
def arrayRead (record : ArrayRec) (s : State) : State :=
  let gone := s.pair.arr.rels.filter (fun e => !thas record.rels e.1)
  if record.gen < s.pair.arr.gen then { s with pair := { s.pair with reading := s.pair.joining.isSome } }
  else
    let s := { s with pair := { s.pair with
      arr := record, reading := decide (record.gen < s.pair.genHeard), role := roleFrom record s.pair.role
      genHeard := max s.pair.genHeard record.gen } }
    let s := if s.pair.paired then setSizes record.ownGib record.epochMs s else s
    let s := gone.foldl (fun s e => leaveRel e.1 e.2 s) s
    { s with sec := { s.sec with norArray := some record, norOpKeys := record.opKeys } }

end Sys2Proof.Machine
end

