-- ==== Sys2Proof/Machine/ShelfCmds.lean ====
section
/-!
DEFINITION. Machine/ShelfCmds.lean: the Basmos commands of shelves and media, and the events of shelves (R238 to R247,
R269, R279 to R283).
-/
namespace Sys2Proof.Machine

/-! ### SHELF_STATUS and MEDIA_STATUS (R243, R279) -/

/-- An entry of SHELF_STATUS. -/
def shelfEntry (s : State) (g : Nat) : Bytes :=
  let v := shelfOf s g
  let flags := b2n v.req + 2 * b2n v.good + 4 * b2n (isHome s g) + 8 * b2n (unhardened s g) +
    16 * b2n ((tvals s.plc.fill).contains g)
  leN 1 g ++ leN 1 v.st.code ++ leN 1 flags ++ leN 1 (linksUsable s g) ++ leN 2 (shownCharge s g) ++
    leN 2 (satW 16 (waitingOn s g)) ++ leN 1 (if capGrains s g = 0 then 0 else fillPct s g) ++ zeros 1 ++
    leN 2 (satW 16 ((optime s - v.inspected) / 86400))

/-- SHELF_STATUS (R243). -/
def shelfStatusH (p : Bytes) (s : State) : BAns × State :=
  let g := fieldLE p 0 4
  if 32 ≤ g ∧ g ≠ 0xFFFFFFFF then refuse .invalidField s
  else
    let gs := if g < 32 then [g] else List.range 32
    (.now (.ok (leN 2 gs.length ++ zeros 2 ++ leN 4 (share s) ++ (gs.map (shelfEntry s)).flatten)), s)

/-- The bands of a shelf in state victim or moved. -/
def victimBands (s : State) (g : Nat) : Nat :=
  (((s.plc.sets.filter (fun e => decide (e.2.shelf = g ∧ (e.2.state = 4 ∨ e.2.state = 5)) && !e.2.secondary)).map
    (fun e => e.2.band)).eraseDups).length

/-- MEDIA_STATUS (R279), over one shelf or all. -/
def mediaStatusH (p : Bytes) (s : State) : BAns × State :=
  let g := fieldLE p 0 4
  if 32 ≤ g ∧ g ≠ 0xFFFFFFFF then refuse .invalidField s
  else
    let gs := if g < 32 then [g] else List.range 32
    let on (q : Nat) : Bool := gs.contains q
    let retired := s.plc.blks.countP (fun e => e.2.retired && on (e.1 / 65536 / 128 / 32))
    let dies := s.plc.diesRetired.countP (fun d => on (d.1 / 32))
    let rebuild := (tvals s.plc.rows).any (fun r => r.rebuild.isSome && on r.shelf)
    let spreads := gs.map (fun q => maxBy (fun sl => spread s (q * 32 + sl)) (List.range 32))
    let disturbed := sumBy (fun b => if on b.shelf then b.disturbedPos.length else 0) (tvals s.plc.sets)
    (.now (.ok (leN 8 (sumBy (freeGrains s) gs) ++ leN 8 (sumBy (reclaimGrains s) gs) ++ leN 8 (sumBy (capGrains s) gs) ++
      leN 8 (if g < 32 then reserveShare s g else reserveGrains s) ++ leN 8 (liveGrains s (fun q => on q.shelf)) ++
      leN 4 retired ++ leN 2 dies ++ leN 1 (sumBy (fun q => (shelfOf s q).lost.length) gs) ++
      leN 1 (b2n rebuild + 2 * b2n (spaceShort s)) ++ leN 2 (maxBy id spreads) ++ leN 2 (sumBy (victimBands s) gs) ++
      leN 4 disturbed ++ zeros 8)), s)

/-! ### MEDIA_POLICY (R280) -/

/-- The 16-byte media policy record. -/
def mediaPolicyBytes (op : Nat) (p : MediaPolicy) : Bytes :=
  leN 1 op ++ leN 1 p.gcReservePct ++ leN 1 p.gcStartPct ++ leN 1 p.verifyPct ++ leN 1 p.refreshPct ++
    leN 1 p.checkpointS ++ leN 2 p.wearSpread ++ leN 4 p.disturbLimit ++ leN 4 p.mapCacheGib

def mediaPolicyH (b : Bytes) (s : State) : BAns × State :=
  let op := fieldLE b 0 1
  if op = 0 then (.now (.ok (mediaPolicyBytes 0 s.plc.media)), s)
  else
    let p : MediaPolicy := {
      gcReservePct := fieldLE b 1 1, gcStartPct := fieldLE b 2 1, verifyPct := fieldLE b 3 1, refreshPct := fieldLE b 4 1
      checkpointS := fieldLE b 5 1, wearSpread := fieldLE b 6 2, disturbLimit := fieldLE b 8 4, mapCacheGib := fieldLE b 12 4 }
    if op = 1 ∧ within 1 10 p.gcReservePct ∧ within 2 20 p.gcStartPct ∧ p.gcReservePct ≤ p.gcStartPct ∧
        within 10 50 p.verifyPct ∧ within 30 80 p.refreshPct ∧ p.verifyPct < p.refreshPct ∧ within 10 60 p.checkpointS ∧
        within 20 1000 p.wearSpread ∧ within 1000 100000 p.disturbLimit ∧
        (p.mapCacheGib = 0 ∨ within 16 (mapCacheMax s) p.mapCacheGib) then
      (.now (.ok (mediaPolicyBytes 1 p)), note 5 9 0 (changeArray (fun r => { r with media := p }) s))
    else refuse .invalidField s

/-! ### SHELF_WAKE, SHELF_SLEEP, SHELF_HARDEN, HOME_SHELF_SET (R244 to R247) -/

/-- Does the wake of an OFF or FAILED shelf fit the share, with both caps 0? -/
def wakeFits (s : State) (g : Nat) : Bool :=
  let v := shelfOf s g
  holdsShelf v || ((tryShelf g { v with st := .waking, w := 0, r := 0, goodAtReq := v.good } (adoptRecords g s)).1 && !overShare s)

/-- SHELF_WAKE (R244). A head that may not ask for shelves at all is refused as one without share (log entry 35). -/
def shelfWakeH (p : Bytes) (s : State) : BAns × State :=
  let g := fieldLE p 0 1
  let hold := fieldLE p 2 2
  if 32 ≤ g ∨ 1 < fieldLE p 1 1 ∨ 28800 < hold then refuse .invalidField s
  else if isHome s g ∨ (shelfOf s g).st = .awake then (.now .ok, s)
  else if (tget s.sleds.shelfRec g).isNone ∨ !wakeFits s g ∨ !mayRequest s then refuse .denied s
  else withJob 0x0410 g 0 s (fun _ s =>
    let v := { shelfOf s g with holdJob := true, holdS := hold, readOnly := decide (fieldLE p 1 1 = 1), lapsed := false }
    let s := force 0x0410 (setShelf g v s)
    let ask (s : State) : State :=
      grantWake g (wantWake g (if fieldLE p 1 1 = 1 then .read else .ingest) 0 s)
    match v.st with
    | .closing => setShelf g { v with closeAfter := false } s
    | .failed => ask (setShelf g { v with st := .off, fails := 0, retryWait := false } s)
    | .off => ask s
    | _ => s)

/-- The forced hold of a shelf ends: Parterre returns it to policy. -/
def endHold (g : Nat) (s : State) : State :=
  let v := shelfOf s g
  if v.held then
    let s := setShelf g { v with held := false, readOnly := false, holdS := 0 } s
    if mayClose s g ∧ !(tvals s.plc.fill).contains g then startClose g true s else s
  else s

/-- SHELF_HOLD_EXPIRY (R244): hold_s has passed since the job finished. -/
def holdLapse (g : Nat) (s : State) : State := if (shelfOf s g).holdS = 0 then s else endHold g s

/-- Every forced hold of a session lapses (R47); a SHELF_WAKE that still wakes its shelf runs on and holds nothing. -/
def holdsLapse (s : State) : State :=
  let s := { s with plc := { s.plc with
    shelves := tmap (fun _ v => if v.holdJob then { v with lapsed := true } else v) s.plc.shelves } }
  (List.range 32).foldl (fun s g => endHold g s) (unforce 0x0410 s)

/-- SHELF_SLEEP (R245). -/
def shelfSleepH (p : Bytes) (s : State) : BAns × State :=
  let g := fieldLE p 0 1
  let v := shelfOf s g
  if 32 ≤ g then refuse .invalidField s
  else if isHome s g then refuse .denied s
  else if waitingOn s g ≠ 0 then refuse .wakePending s
  else if v.st = .off ∨ v.st = .failed then (.now .ok, s)
  else withJob 0x0411 g 0 s (fun _ s => setShelf g { shelfOf s g with held := false, readOnly := false, holdS := 0 } s)

/-- SHELF_HARDEN (R246): with bit 0 the open row is padded, which closes the open band (log entry 36). -/
def shelfHardenH (p : Bytes) (s : State) : BAns × State :=
  let g := fieldLE p 0 1
  if 32 ≤ g ∨ 1 < fieldLE p 1 1 then refuse .invalidField s
  else if (shelfOf s g).st ≠ .awake then refuse .busy s
  else withJob 0x0412 g (fieldLE p 1 1) s (fun _ s => if fieldLE p 1 1 = 1 then closeBand g s else s)

/-- HOME_SHELF_SET (R247): a count and as many shelves. -/
def homeShelfLayout (p : Bytes) : Bool := decide (1 ≤ p.length) && decide (p.length = 1 + fieldLE p 0 1)

def homeShelfSetH (p : Bytes) (s : State) : BAns × State :=
  let gs := (p.drop 1).map (·.toNat)
  if !within 1 8 gs.length ∨ gs.any (fun g => decide (31 < g)) ∨ gs.eraseDups.length ≠ gs.length then refuse .invalidField s
  else if (s.pair.arr.budget.map (fun b => decide (b < minBudget s gs))).getD false then refuse .denied s
  else if s.plc.homeJob.isSome then refuse .busy s
  else withJob 0x0413 0 0 s (fun k s =>
    let s := { s with plc := { s.plc with homeJob := some (k, gs) } }
    gs.foldl (fun s g => if (shelfOf s g).st = .off then grantWake g (wantWake g .background 0 s) else s) s)

/-! ### GC_FORCE, BLOCK_RETIRE, SCRUB_NOW (R281 to R283) -/

/-- GC_FORCE: bit 0 takes every eligible band. Every band asked for is reclaimed whatever its score. -/
def gcForceH (p : Bytes) (s : State) : BAns × State :=
  let g := fieldLE p 0 1
  let f := fieldLE p 1 1
  let band := fieldLE p 2 2
  if 32 ≤ g ∨ 3 < f then refuse .invalidField s
  else if (shelfOf s g).st ≠ .awake then refuse .busy s
  else
    let bands := if f % 2 = 1 then (bandsOn s g).filter (bandEligible s g) else [band]
    if f % 2 = 0 ∧ !bandEligible s g band then refuse .invalidField s
    else withJob 0x0510 g 0 s (fun k s =>
      if bands = [] then finishJob k .success [] s
      else
        let s := { s with plc := { s.plc with bandJobs := s.plc.bandJobs ++ bands.map (fun b => (g, b, k)) } }
        bands.foldl (fun s b => startGc g b s) s)

/-- Did this head program the block: does a set of its role hold it? -/
def programmedHere (s : State) (port die block : Nat) : Bool :=
  s.plc.sets.any (fun e => decide (e.2.role = roleOf s ∧ setPortOf e.2 = port ∧ e.2.dieGroup = die / 16 ∧
    e.2.blocks.getD (die % 16) 65536 = block))

/-- BLOCK_RETIRE (R282). -/
def blockRetireH (p : Bytes) (s : State) : BAns × State :=
  let l := wordLoc (fieldLE p 0 8)
  match l.kind with
  | .flash g sl die block page grain member =>
    let port := g * 32 + sl
    let v := tget s.sleds.sledRec port
    let inside := (v.map (fun r => decide (die < r.dies ∧ block < r.blocks))).getD true
    if l.overlay ∨ l.transit ∨ page ≠ 0 ∨ grain ≠ 0 ∨ member ≠ 0 ∨ !inside then refuse .invalidField s
    else if !programmedHere s port die block ∧ !ownsGroup s (block / 64) then refuse .notOwner s
    else if (shelfOf s g).st ≠ .awake then refuse .busy s
    else if (blkOf s (blkKey port die block)).retired then (.now .ok, s)
    else withJob 0x0511 0 0 s (fun k s => finishJob k .success [] (retireBlock port die block s))
  | _ => refuse .invalidField s

/-- SCRUB_NOW (R283): an inspection of the whole shelf; one that runs already is joined. -/
def scrubNowH (p : Bytes) (s : State) : BAns × State :=
  let g := fieldLE p 0 1
  if 32 ≤ g then refuse .invalidField s
  else if (shelfOf s g).st ≠ .awake then refuse .busy s
  else withJob 0x0512 g 0 s (fun _ s =>
    if (shelfOf s g).inspecting.isSome then s
    else
      let s := addItem .background g .inspect none s
      let s := { s with plc := { s.plc with items := tmap (fun _ i =>
        if i.shelf = g ∧ i.work = .inspect then { i with granted := true } else i) s.plc.items } }
      startInspect g s)

/-- RETENTION_DUE (R239): an inspection is entered; a shelf that is not awake is woken for it, one such wake at a time. -/
def retentionDue (g : Nat) (s : State) : State :=
  if !s.plc.sets.any (fun e => decide (e.2.shelf = g)) then s else planInspect (addItem .background g .inspect (some 0) s)

/-! ### Rows -/

def execShelfStatus (n : Fin 64) (s : State) : Res := .next (basmos n 0x0401 (layoutIs 4 []) shelfStatusH s)
def execMediaStatus (n : Fin 64) (s : State) : Res := .next (basmos n 0x0500 (layoutIs 4 []) mediaStatusH s)
def execPlcPolicy (n : Fin 64) (s : State) : Res := .next (basmos n 0x0400 (layoutIs 32 [(24, 8)]) plcPolicyH s)
def execMediaPolicy (n : Fin 64) (s : State) : Res := .next (basmos n 0x0501 (layoutIs 16 []) mediaPolicyH s)
def execPwrBudgetSet (n : Fin 64) (s : State) : Res :=
  .next (settle (basmos n 0x0300 (layoutIs 16 [(5, 11)]) pwrBudgetSetH s))
def execShelfWake (n : Fin 64) (s : State) : Res := .next (settle (basmos n 0x0410 (layoutIs 4 []) shelfWakeH s))
def execShelfSleep (n : Fin 64) (s : State) : Res := .next (settle (basmos n 0x0411 (layoutIs 1 []) shelfSleepH s))
def execShelfHarden (n : Fin 64) (s : State) : Res := .next (settle (basmos n 0x0412 (layoutIs 2 []) shelfHardenH s))
def execHomeShelfSet (n : Fin 64) (s : State) : Res := .next (settle (basmos n 0x0413 homeShelfLayout homeShelfSetH s))
def execGcForce (n : Fin 64) (s : State) : Res := .next (settle (basmos n 0x0510 (layoutIs 4 []) gcForceH s))
def execBlockRetire (n : Fin 64) (s : State) : Res := .next (settle (basmos n 0x0511 (layoutIs 8 []) blockRetireH s))
def execScrubNow (n : Fin 64) (s : State) : Res := .next (settle (basmos n 0x0512 (layoutIs 1 []) scrubNowH s))

def execShelfWakeGrant (g : Fin 32) (s : State) : Res := .next (settle (wakeGrant g s))
def execShfPwrGoodRise (g : Fin 32) (s : State) : Res := .next (settle (goodRise g s))
def execShfPwrGoodFall (g : Fin 32) (s : State) : Res := .next (settle (goodFall g s))
def execShelfWakeTimeout (g : Fin 32) (sixSeconds : Bool) (s : State) : Res := .next (settle (wakeTimeout g sixSeconds s))
def execShelfWakeRetry (g : Fin 32) (s : State) : Res := .next (settle (wakeRetry g s))
def execShelfHourlyRetry (g : Fin 32) (s : State) : Res := .next (settle (hourlyRetry g s))
def execShelfRequestHoldoffEnd (g : Fin 32) (s : State) : Res := .next (settle (holdoffEnd g s))
def execMinAwakeExpiry (g : Fin 32) (s : State) : Res := .next (settle (minAwakeExpiry g s))
def execIdleCloseExpiry (g : Fin 32) (s : State) : Res := .next (settle (idleClose g s))
def execBatchWindowEnd (s : State) : Res := .next (settle (batchEnd s))
def execUrgencyStep (item : Nat) (s : State) : Res := .next (settle (urgencyStep item s))
def execScheduleGrant (s : State) : Res := .next (settle (scheduleGrant s))
def execMeterWindow (g : Fin 32) (s : State) : Res := .next (settle (meterWindow g s))
def execChunkPlace (serial : Nat) (s : State) : Res := .next (settle (chunkPlace serial s))
def execShelfCloseComplete (g : Fin 32) (s : State) : Res := .next (settle (closeComplete g s))
def execRecallStageDone (asn : Nat) (s : State) : Res := .next (settle (recallStageDone asn s))
def execRecallHoldExpiry (hold : Nat) (s : State) : Res := .next (settle (holdExpiry hold s))
def execRetentionDue (g : Fin 32) (s : State) : Res := .next (settle (retentionDue g s))
def execHeatFold (s : State) : Res := .next (heatFold s)
def execHeatHalving (s : State) : Res := .next (heatHalve s)
def execGcEraseWaitEnd (g : Fin 32) (band : Nat) (s : State) : Res := .next (settle (gcEraseWaitEnd g band s))
def execReadDisturbFold (s : State) : Res := .next (settle (foldAll s))
def execShelfHoldExpiry (g : Fin 32) (s : State) : Res := .next (settle (holdLapse g s))

end Sys2Proof.Machine
end

