-- ==== Sys2Proof/Machine/Avs.lean ====
section
/-!
DEFINITION. Machine/Avs.lean: the three rails and their two AVSBus buses (R412, R413, Tables 15.5, 17.4).
-/
namespace Sys2Proof.Machine

/-- The bus of a rail. -/
def railBus (r : Nat) : Nat := if r = 2 then 1 else 0

/-- The rail select of a rail on its bus (Table 15.5). -/
def railSelect (r : Nat) : Nat := if r = 1 then 1 else 0

/-- The start voltage of a rail, in mV (Table 17.4). -/
def railStart (r : Nat) : Nat := if r = 2 then 780 else 750

/-- The service window of a rail. -/
def railLow (r : Nat) : Nat := if r = 2 then 720 else 700

def railHigh (r : Nat) : Nat := if r = 2 then 880 else 850

/-- Is a voltage within the rail's service window? -/
def inService (r mv : Nat) : Bool := within (railLow r) (railHigh r) mv

/-- May the Gatehouse write this voltage (R412): off, in the service window, or in the Watch window of rails 0 and 2? -/
def maySet (r mv : Nat) : Bool :=
  decide (mv = 0) || inService r mv || (decide (r ≠ 1) && within (railLow r - 100) (railStart r) mv)

/-- The last voltage reached on a rail. -/
def mvOf (s : State) (r : Nat) : Nat := s.gh.mv.getD r 0

/-- The service voltage that Lodge firmware keeps for a rail. -/
def svcOf (s : State) (r : Nat) : Nat := s.ghx.svc.getD r (railStart r)

/-- The changes of a bus: the one outstanding, then those that wait. -/
def avsQ (s : State) (b : Nat) : List AvsOp := if b = 0 then s.ghx.avs0 else s.ghx.avs1

/-- Replace the changes of a bus. -/
def setAvsQ (b : Nat) (q : List AvsOp) (s : State) : State :=
  { s with ghx := if b = 0 then { s.ghx with avs0 := q } else { s.ghx with avs1 := q } }

/-- The next voltage written on the way to a target: off and on are one write, a change on a rail that is on moves by at
most 50 mV (R413). -/
def avsNext (r cur target : Nat) : Nat :=
  if target = 0 then 0
  else if cur = 0 then railStart r
  else if cur + 50 < target then cur + 50
  else if target + 50 < cur then cur - 50
  else target

/-- Write the next step of the change at the front of a bus. -/
def avsSend (b : Nat) (s : State) : State :=
  match avsQ s b with
  | [] => s
  | op :: rest =>
    let mv := avsNext op.rail (mvOf s op.rail) op.target
    emit (.avsWrite b (railSelect op.rail) mv) (setAvsQ b ({ op with step := mv, acked := false } :: rest) s)

/-- Enter a change; it starts when its bus is free. -/
def pushAvs (r target : Nat) (why : AvsFor) (s : State) : State :=
  let b := railBus r
  let q := avsQ s b
  let s := setAvsQ b (q ++ [{ rail := r, target := target, step := 0, acked := false, why := why }]) s
  if q.isEmpty then avsSend b s else s

/-- The change at the front of a bus is over; the next one starts. -/
def popAvs (b : Nat) (s : State) : State := avsSend b (setAvsQ b (avsQ s b).tail s)

/-- Do changes with a reason wait or run? -/
def avsAny (s : State) (p : AvsFor → Bool) : Bool := (s.ghx.avs0 ++ s.ghx.avs1).any (fun o => p o.why)

/-- GH_AVS_CTL.busy: a change that Lodge firmware or the register asked for runs. -/
def avsBusy (s : State) : Bool := avsAny s (fun w => match w with
  | .ctl => true
  | .set _ _ => true
  | .firmware => true
  | _ => false)

/-- Set a rail's voltage as reached. -/
def setMv (r mv : Nat) (s : State) : State := { s with gh := { s.gh with mv := s.gh.mv.set r mv } }

/-- Forget every change and take rails off at once: power has gone, or a failed attempt is being undone. -/
def railsOff (s : State) : State :=
  let s := { s with ghx := { s.ghx with avs0 := [], avs1 := [], pllLocked := 0 } }
  [1, 2, 0].foldl (fun s r =>
    if mvOf s r = 0 then s else setMv r 0 (emit (.avsWrite (railBus r) (railSelect r) 0) s)) s

/-- GH_AVS_CTL.go (R413): a change starts, unless one runs; a voltage outside the rail's windows is never written. -/
def avsStart (rail : BitVec 2) (mv : BitVec 12) (s : State) : State :=
  if avsBusy s then s
  else
    let s := { s with gh := { s.gh with avsRail := rail, avsMv := mv } }
    if rail = 3 ∨ !maySet rail.toNat mv.toNat then s else pushAvs rail.toNat mv.toNat .ctl s

/-- AVS_STATUS_POLL: the status of a bus is read while a voltage is awaited. -/
def avsPoll (b : Nat) (s : State) : State :=
  match avsQ s b with
  | op :: _ => if op.acked then emit (.avsStatus b) s else s
  | [] => s

/-- What a regulator's answer does to the change at the front of its bus: a step reached, all of it reached, or nothing
more yet. -/
inductive AvsProgress where
  | waits (s : State)
  | reached (op : AvsOp) (s : State)

/-- AVS_RESPONSE (R413): an acknowledgement of the write, or a status read that reports VDone. -/
def avsAnswer (b : Nat) (good vdone : Bool) (ma : Nat) (s : State) : AvsProgress :=
  match avsQ s b with
  | [] => .waits s
  | op :: rest =>
    if !good then .waits s
    else
      let s := { s with gh := { s.gh with ma := s.gh.ma.set op.rail (min ma 65535) } }
      if (!op.acked ∧ op.step = 0) ∨ (op.acked ∧ vdone) then
        let s := setMv op.rail op.step s
        if op.step = op.target then .reached op (popAvs b s) else .waits (avsSend b s)
      else .waits (setAvsQ b ({ op with acked := true } :: rest) s)

end Sys2Proof.Machine
end

