-- ==== Sys2Proof/Machine/EndSession.lean ====
section
/-!
DEFINITION. Machine/EndSession.lean: pins, timers and enable bits of the claimable resources, and what of an expert session
lapses, at its end and at a reset that clears the Lodge (R47, R52, R54, R427, R428).
-/
namespace Sys2Proof.Machine

/-! ### Pins and timers -/

/-- A GPIO pin. -/
def gpioOf (s : State) (k : Nat) : Gpio := tgetD s.ghx.gpios k {}

/-- Replace a GPIO pin. -/
def setGpio (k : Nat) (g : Gpio) (s : State) : State := { s with ghx := { s.ghx with gpios := tset s.ghx.gpios k g } }

/-- A Gatehouse timer. -/
def timerOf (s : State) (t : Nat) : GTimer := tgetD s.ghx.timers t {}

/-- Replace a Gatehouse timer. -/
def setTimer (t : Nat) (v : GTimer) (s : State) : State := { s with ghx := { s.ghx with timers := tset s.ghx.timers t v } }

/-! ### Claimable resources (R52, R54, Table 2.17) -/

/-- The enable bits of GPIO pins, timers, monitor units and lockable ways. -/
def enOf (s : State) (cls idx : Nat) : BitVec 3 :=
  match cls with
  | 1 => (gpioOf s idx).en
  | 2 => (timerOf s idx).en
  | 3 => (monOf s idx).en
  | 4 => (lockOf s.cns idx).en
  | _ => 0

/-- The user served: the lowest enabled one; 0 shows while none is. -/
def servedUser (en : BitVec 3) : Nat := if en = 0 then 0 else lowestUser en

/-- The function that the head-board record gives a pin, once no user but the Lodge's is enabled. -/
def boardFunc (s : State) (k : Nat) : BitVec 3 :=
  match s.ghx.board with
  | some b => if byteAt b.gpioUse k = 255 then 0 else BitVec.ofNat 3 (byteAt b.gpioUse k).toNat
  | none => 0

/-- Set the enable bits of a resource. With no user left it is disabled: a pin becomes an input, a timer stops, a
monitor's window ends, a way unlocks. -/
def setEn (cls idx : Nat) (en : BitVec 3) (s : State) : State :=
  match cls with
  | 1 =>
    let g := gpioOf s idx
    let f := if en = 0 then 0 else if en.getLsbD 0 ∧ servedUser g.en ≠ 0 then boardFunc s idx else g.func
    setGpio idx { g with en := en, winner := servedUser en, func := f, pulseLow := g.pulseLow && decide (en ≠ 0) } s
  | 2 =>
    let t := timerOf s idx
    setTimer idx { t with en := en, winner := servedUser en, counting := t.counting && decide (en ≠ 0) } s
  | 3 => monEnable idx en (if en = 0 then monStop idx s else s)
  | 4 => lockCut idx (lockEnable idx en s)
  | _ => s

/-- The enable bits that an expert session may have set in a class: the command's user and the register window's. -/
def sessionBits (cls : Nat) : BitVec 3 := if cls = 3 then 5 else if cls = 7 then 4 else 6

/-- Take the session, or whoever held it, off a resource. -/
def disableRes (bits : BitVec 3) (cls idx : Nat) (s : State) : State :=
  if cls = 6 then { s with sec := { s.sec with dgtKeys := terase s.sec.dgtKeys idx } }
  else if cls = 7 then
    let s := setDgt { s.sec.dgt with pending := s.sec.dgt.pending &&& ~~~bits } s
    if s.sec.dgt.owner < 3 ∧ bits.getLsbD s.sec.dgt.owner then dgtRelease s else s
  else if cls = 3 ∧ bits.getLsbD (servedUser (enOf s 3 idx)) then
    setEn 3 idx (enOf s 3 idx &&& ~~~bits) (if enOf s 3 idx &&& ~~~bits = 0 then monStop idx s else s)
  else setEn cls idx (enOf s cls idx &&& ~~~bits) s

/-- Release a claim of the expert session. -/
def releaseClaim (key : Nat) (s : State) : State :=
  let cls := key / 65536
  let idx := key % 65536
  let s := disableRes (sessionBits cls) cls idx s
  if claimHolder s cls idx = some 0x0200 then dropClaim cls idx s else s

/-! ### The end of a session (R47) -/

/-- Rails that AVS_SET moved return to the voltage Lodge firmware keeps. -/
def avsLapse (s : State) : State :=
  if !s.kiosk.forced.contains 0x0311 ∨ s.gh.state ≠ .serve then unforce 0x0311 s
  else [0, 1, 2].foldl (fun s r =>
    if mvOf s r = svcOf s r ∨ mvOf s r = 0 then s else pushAvs r (svcOf s r) .firmware s) (unforce 0x0311 s)

/-- WAKE_SOURCE_SET lapses: the policy's wake_en returns. -/
def wakeLapse (s : State) : State :=
  if s.kiosk.forced.contains 0x0312 then
    unforce 0x0312 { s with gh := { s.gh with wakeEn := BitVec.ofNat 5 s.ghx.policy.wakeEn } }
  else s

/-- Ways powered down by WAY_POWER are powered up; one that waits for its changes ends ABORTED. -/
def waysLapse (s : State) : State :=
  if !s.kiosk.forced.contains 0x0711 then s
  else
    let w := s.cns.wayReq
    let s := unforce 0x0711 (onCns (fun c => { c with off := 0, wayReq := none }) s)
    let s := if s.gh.state = .watch then s else onCns (fun c => { c with powered := 0xFFFF }) s
    match w with
    | some n => answerLate n (.fail .aborted) s
    | none => s

/-- DRAM service targets return to their defaults. -/
def qosLapse (s : State) : State :=
  { s with dram := { s.dram with
    qos := s.dram.qosSet.foldl (fun q p => q.set p (qosReset.getD p 0)) s.dram.qos, qosSet := [] } }

/-- The session is lost with a reset that clears the Lodge (R47): what it holds in blocks that the reset does not reach, pins,
timers, wake sources, rails and DRAM targets, lapses. -/
def sessionLost (s : State) : State :=
  if s.kiosk.session.isNone then s
  else
    let mine := (s.kiosk.claims.filter (fun e => decide (e.2.holder = 0x0200 ∧ e.1 / 65536 ≤ 2))).map (·.1)
    wakeLapse (avsLapse (qosLapse (mine.foldl (fun s k => releaseClaim k s) s)))

end Sys2Proof.Machine
end

