-- ==== Sys2Proof/Machine/Reset.lean ====
section
/-!
DEFINITION. Machine/Reset.lean: what a reset of the Lodge side clears and keeps, DRAM at power-up, and the boot ROM
(R337 to R342, R346, R402, R422, Tables 14.13, 15.8, 18.1).
-/
namespace Sys2Proof.Machine

/-! ### Resets below the Gatehouse (Table 15.8) -/

/-- A shelf after a reset: the Gatehouse keeps its request, and a request still held is a shelf in WAKING, charged at P_idle
(R30, R422). -/
def shelfAfter (v : Shelf) : Shelf :=
  { st := if v.req then .waking else .off, req := v.req, good := v.good, goodAtReq := v.good, lastTry := v.lastTry
    inspected := v.inspected, inspecting := v.inspecting, nextRow := v.nextRow, nextBand := v.nextBand }

/-- The Kiosk after a reset: every mailbox is IDLE, and sessions, claims and jobs are gone; only the model's own counts
go on. -/
def kioskAfter (k : Kiosk) : Kiosk :=
  { (State.reset.kiosk) with
    ringCount := k.ringCount, jobCount := k.jobCount, sessCount := k.sessCount, nonceCount := k.nonceCount }

/-- The security engines after a reset: slots are empty; fuses and boot NOR stand. -/
def secAfter (c : Sec) : Sec :=
  { fuseCount := c.fuseCount, slotA := c.slotA, slotB := c.slotB, preferred := c.preferred, running := c.running
    norKek := c.norKek, norKekRole := c.norKekRole, norOpKeys := c.norOpKeys, norArray := c.norArray }

/-- What the pair's books keep through a reset: the fenced latch, the array record, ownership, the migration window, a
takeover that is to run again, a request for auto fail-back, and with DRAM kept the mirror region (R486). -/
def pairAfter (dram : Bool) (p : Pair) : Pair :=
  { role := p.role, state := if p.fenced then 5 else 0, pinLive := p.pinLive, fenced := p.fenced
    takeover := p.takeover, window := p.window, named := p.named, arr := p.arr, genHeard := p.genHeard
    rotF := p.rotF, volF := p.volF, dying := p.dying, owned := p.owned, filled := dram && p.filled, autoFail := p.autoFail }

/-- Host transport after a reset: every queue pair is lost without notice (R152); a queue stays known by its replay table (R175),
for its hour; configuration stands (log entry 38), and what CREDIT_SET set lapses (R177). -/
def latAfter (l : Lat) : Lat :=
  { pds := l.pds
    hports := tmap (fun _ p => { p with up := false, paused := false, pausing := false, vlanDrops := 0 }) l.hports, split := l.split
    poolMib := l.poolMib }

/-- A block set after a reset: a set found erasing has every block but the retired ones erased again (Table 9.8). -/
def setAfter (p : Plc) (b : BSet) : BSet :=
  let b := setCut b
  if b.state ≠ 6 then b
  else { b with toErase := (List.range 16).filter (fun d => !b.voidMask.testBit d && !(b.dieParityFreed && decide (d = parityPos b)) &&
    !(tgetD p.blks (blkKey (setPortOf b) (b.dieGroup * 16 + d) (b.blocks.getD d 0)) {}).retired) }

/-- The block tables after a reset: a block of a set found erasing is not free until it has been erased again. -/
def blksAfter (p : Plc) : Tab Blk :=
  p.sets.foldl (fun t e => if e.2.state ≠ 6 then t
    else (setAfter p e.2).toErase.foldl (fun t d =>
      tmod t (blkKey (setPortOf e.2) (e.2.dieGroup * 16 + d) (e.2.blocks.getD d 0)) (fun v => { v with inUse := true })) t) p.blks

/-- Placement and media after a reset: what lies on flash and on the home shelves stands, staged copies of recall holds among it
(R238); registers, moves and the schedule start again. -/
def plcAfter (dram : Bool) (p : Plc) : Plc :=
  { shelves := tmap (fun _ v => shelfAfter v) p.shelves, policy := p.policy, media := p.media, fill := p.fill
    heat := if dram then p.heat else [], heatT := if dram then p.heatT else [], itemCount := p.itemCount
    holds := p.holds, holdCount := p.holdCount, sets := tmap (fun _ b => setAfter p b) p.sets, setCount := p.setCount
    rows := tmap (fun _ r => rowCut true r) p.rows
    placed := p.placed, copies := p.copies, moveCount := p.moveCount, fetchCount := p.fetchCount, blks := blksAfter p, peerOpen := p.peerOpen
    readT := if dram then p.readT else [], diesRetired := p.diesRetired }

/-- The map after a reset. -/
def mapAfter (dram : Bool) (m : MapSt) : MapSt :=
  { maps := m.maps, leaves := m.leaves, leafCount := m.leafCount, chunks := m.chunks, serial := m.serial, ckpt := m.ckpt
    ckptPrev := m.ckptPrev, ckptMade := m.ckptMade, pages := if dram then m.pages else []
    dirty := if dram then m.dirty else [] }

/-- The journal after a reset: with DRAM kept the regions and tables stand in place (R486); without it they are lost. -/
def jrnAfter (dram : Bool) (j : Jrn) : Jrn :=
  { own := if dram then j.own.map (fun r => { r with acked := true }) else []
    mirror := if dram then j.mirror else [], ownGib := j.ownGib, cursor := if dram then j.cursor else 0, asn := j.asn
    drain := j.drain, units := j.units, tables := if dram then j.tables else []
    mirrorLost := if dram then j.mirrorLost else []
    mirrorTables := if dram then j.mirrorTables else [], mirrorRun := if dram then j.mirrorRun else []
    partly := j.partly, epoch := { number := j.epoch.number, durable := j.epoch.durable, next := j.epoch.next }
    flashMode := j.flashMode, holdHigh := j.holdHigh, keep := j.keep }

/-- The Dovecote after a reset: the index stands, the write buffer with DRAM, and the filter is to be reloaded (R191). -/
def ingAfter (dram : Bool) (i : Ing) : Ing :=
  let j : Ing := { index := i.index, wbuf := if dram then i.wbuf else [], filterGib := i.filterGib }
  { j with loading := heldBuckets j }

/-- Everything but the Gatehouse and the DRAM controllers is reset; `dram` says whether the DRAM contents are kept. The
commands in progress are gone, what committed is applied, an expert session lapses (R47), and open bands close. Firmware takes
the service voltages from the rails; one that AVS_SET moved goes back to the voltage kept. -/
def lodgeReset (dram : Bool) (s : State) : State :=
  let svc := if s.kiosk.forced.contains 0x0311 then s.ghx.svc
    else (List.range 3).map (fun r => if mvOf s r = 0 then railStart r else mvOf s r)
  let s := shutBands (dropWork (sessionLost s))
  { State.reset with
    pending := s.pending, out := s.out, draws := s.draws
    kiosk := kioskAfter s.kiosk
    evt := { s.evt with running := [], waiting := [] }
    mons := { stamp := s.mons.stamp }
    gh := s.gh, ghx := { s.ghx with svc := svc, pendingReset := false }
    sec := { secAfter s.sec with lodgeMem := if dram then s.sec.lodgeMem else [] }
    dram := { s.dram with reqs := [], rows := [] }
    sleds := { sledRec := s.sleds.sledRec, shelfRec := s.sleds.shelfRec, sledUse := s.sleds.sledUse
               shelfUse := s.sleds.shelfUse, refused := s.sleds.refused }
    map := mapAfter dram s.map
    plc := plcAfter dram s.plc
    jrn := jrnAfter dram s.jrn
    ing := ingAfter dram s.ing
    ftb := {}
    pair := pairAfter dram s.pair
    lat := latAfter s.lat
    rep := { s.rep with rels := tmap (fun _ v => { v with linked := none, held := [], storing := none }) s.rep.rels } }

/-- Every channel dark: its contents are lost. -/
def dramDark (s : State) : State :=
  { s with dram := { s.dram with ch := tmap (fun _ c => { c with state := 0 }) s.dram.ch } }

/-! ### DRAM at power-up (R337 to R346) -/

/-- The spare of a channel: its highest rank, when it has two or more (R340). -/
def spareRank : Option Nat := if 2 ≤ Config.dimmRanks then some (Config.dimmRanks - 1) else none

/-- The keep share K of R342, from the largest combined journal J that the hold-up allows: the least number of GiB per keep
channel that holds five sixths of J + 0.125 GiB and the 0.0625 GiB of header and check table. -/
def keepShare (j : Nat) : Nat := cdiv (5 * j + 1) 24

/-- A channel as its modules' SPD says: ranks, spare, geometry and refresh figures. -/
def freshChannel (c : Dmc) : Dmc :=
  let c : Dmc := { c with
    ranks := (List.range Config.dimmRanks).map (fun r => (r, {
      present := true, trfc := BitVec.ofNat 10 Config.dimmTrfcNs
      maxPostpone := BitVec.ofNat 3 (min 4 (1000 / max 1 Config.dimmTrfcNs)) }))
    colBits := BitVec.ofNat 3 Config.dimmColBits, rowBits := BitVec.ofNat 5 Config.dimmRowBits
    rankBits := BitVec.ofNat 2 Config.dimmRankBits, cidBits := BitVec.ofNat 2 Config.dimmCidBits }
  match spareRank with
  | some r => { c with spare := r, spareValid := true }
  | none => c

/-- DRAM is put into service: every module is read, the channels are configured and trained, and the windows are set. A
refused module or an uneven head leaves it out of service (R338, R339). -/
def dramBoot (s : State) : State :=
  if !Config.dimmsAccepted then
    record 6 4 2 .none [] { s with dram := { s.dram with outOfService := true } }
  else
    let s := (List.range 24).foldl (fun s n =>
      if ranksPresent (dmcOf s n) = 0 then setDmc n (freshChannel (dmcOf s n)) s else s) s
    let s := (List.range 24).foldl (fun s n => trainChannel n s) s
    let k := keepShare (2 * ownMax s)
    let board := (s.ghx.board.map (·.ddrMax)).getD 0
    { s with dram := { s.dram with
        keepGib := k, mainGib := usableRanks (dmcOf s 0) * Config.dimmRankGib - k, rate := min Config.dimmRate board } }

/-- The channels come back with their contents: each leaves self-refresh, and each rank of it runs one pause (R347, R354,
R355, R422). A channel that was dark goes back to service with its training and no contents. -/
def dramResume (s : State) : State :=
  (List.range 24).foldl (fun s n =>
    let dark := decide ((dmcOf s n).state = 0)
    let c := dmcOf s n
    let s := setDmc n { c with state := 2, poisoned := if dark then [] else c.poisoned } s
    if dark then s
    else (List.range 4).foldl (fun s r => if rankServes (dmcOf s n) r then pauseRank n r s else s) s) s

/-! ### The boot ROM (R402, Table 14.13) -/

/-- Both slots have failed: the Nesutar stays Dormant and asserts FAULT_N. -/
def bootFails (s : State) : State :=
  let s := railsOff { s with
    gh := { s.gh with state := .dormant, target := 0, faultLow := true }
    ghx := { s.ghx with trans := .none, boot := .none } }
  writeSummary (record 1 5 4 .none (leN 1 4) s)

/-- Step 1: a slot is tried: its attempt count rises; at 3 without confirmation it loses its preference. -/
def trySlot (k : Nat) (s : State) : State :=
  let b := bootSlot s k
  let b := { b with attempts := satAdd 8 b.attempts 1 }
  setBoot k { b with lostPref := b.lostPref || (decide (3 ≤ b.attempts) && !b.confirmed) }
    { s with sec := { s.sec with running := k } }

/-- Does a slot pass steps 2 to 5 of Table 14.13, its security version against the fuse count among them? -/
def slotFit (s : State) (k : Nat) : Bool := (bootSlot s k).present && decide (s.sec.fuseCount ≤ (bootSlot s k).security)

/-- The ROM starts with a slot and goes on to the other one when the checks of steps 2 to 5 fail. -/
def bootFrom (k : Nat) (again : Bool) (s : State) : State :=
  let s := trySlot k { s with sec := { s.sec with triedOther := again } }
  if slotFit s k then s
  else if again then bootFails s
  else
    let s := trySlot (1 - k) { s with sec := { s.sec with triedOther := true } }
    if slotFit s (1 - k) then s else bootFails s

/-- The release of the Lodge's reset: the boot ROM runs, and disables the watchdog (R424). -/
def bootStart (s : State) : State :=
  let p := s.sec.preferred % 2
  let s := { s with gh := { s.gh with wdogEn := false } }
  if s.gh.rstStrap then s
  else bootFrom (if (bootSlot s p).lostPref then 1 - p else p) false s

end Sys2Proof.Machine
end

