-- ==== Sys2Proof/Machine/Power.lean ====
section
/-!
DEFINITION. Machine/Power.lean: wake sources, the wake and sleep sequences, failed wakes, power-fail and Icehouse
(R407 to R411, R417 to R421, R473, Tables 15.1 to 15.7, 17.12, 17.13).
-/
namespace Sys2Proof.Machine

/-! ### Wake sources (R417) -/

/-- The sources that are pending: those that have fired, and WAKE_N while it is low. -/
def firedNow (s : State) : BitVec 5 := s.gh.fired ||| (if s.ghx.wakeN then 2 else 0)

/-- Is an enabled wake source pending? -/
def wakePending (s : State) : Bool := decide (firedNow s &&& s.gh.wakeEn ≠ 0)

/-- GH_WAKE_STAT. -/
def wakeStat (s : State) : Nat := (firedNow s).toNat + 256 * s.gh.firedTmr.toNat

/-- Enter a power state. -/
def enterState (st : PwrState) (s : State) : State :=
  { s with gh := { s.gh with state := st, target := 0 }, ghx := { s.ghx with trans := .none, hbSeen := false } }

/-- A wake is under way: GH_STATE shows waking to Serve. -/
def setWake (fw : Bool) (st : WakeStage) (fails : Nat) (s : State) : State :=
  { s with gh := { s.gh with state := .waking, target := 0 }, ghx := { s.ghx with trans := .wake fw st fails } }

/-! ### Dormant and dark -/

/-- The head goes dark below the Gatehouse: what is not on flash or in the Gatehouse is lost, and the next wake boots. -/
def goDark (s : State) : State :=
  let b := match s.ghx.boot with
    | .none | .warm => BootFor.dormant
    | x => x
  let s := dramDark (lodgeReset false s)
  { s with ghx := { s.ghx with boot := b } }

/-- A return of the channels and engines from Watch, with the Lodge still up (Table 15.3 steps 4 to 7): fenced; rejoin
begins, with auto fail-back set (R408). A PWR_STATE_FORCE to Serve ends (R432). -/
def watchDone (s : State) : State :=
  let s := dramResume s
  let s := onCns (fun c => { c with powered := ~~~c.off }) s
  let s := { s with gh := { s.gh with faultLow := false } }
  let s := enterState .serve s
  let s := if svcOf s 1 ≠ mvOf s 1 ∧ mvOf s 1 ≠ 0 then pushAvs 1 (svcOf s 1) .firmware s else s
  let s := note 3 5 0 { s with pair := { s.pair with paired := false, autoFail := true, state := if s.pair.fenced then 5 else 0 } }
  sendHello (finishJobs (fun j => decide (j.opcode = 0x0310)) .success [] s)

/-! ### The wake sequence (Tables 15.3, 15.4) -/

/-- Are rails still being changed for the wake? -/
def wakeRailsBusy (s : State) : Bool := avsAny s (fun w => decide (w = .wake))

/-- An attempt starts: from Watch rail 1 is turned on and rails 0 and 2 are raised; else rails 0 and 2 are turned on. -/
def wakeRails (fw : Bool) (fails : Nat) (s : State) : State :=
  let s := setWake fw .rails fails s
  let want (r : Nat) : Nat := if fw then svcOf s r else railStart r
  let rails := (if fw then [1, 0, 2] else [0, 2]).filter (fun r => decide (mvOf s r ≠ want r))
  rails.foldl (fun s r => pushAvs r (want r) .wake s) s

/-- Every PLL of the stage is locked: the sequence goes on. -/
def pllsDone (s : State) : State :=
  match s.ghx.trans with
  | .wake fw .pll0 n =>
    if s.ghx.pllLocked.getLsbD 0 then
      let s := setWake fw .rail1 n { s with ghx := { s.ghx with smbStretch := false } }
      if mvOf s 1 = 0 then pushAvs 1 (railStart 1) .wake s else s
    else s
  | .wake _ .plls n =>
    if s.ghx.pllLocked = 63 then
      if s.ghx.boot = .none then watchDone s
      else bootStart (setWake false .boot n s)
    else s
  | _ => s

/-- A stage of rails is over. -/
def railsDone (s : State) : State :=
  if wakeRailsBusy s then s
  else match s.ghx.trans with
    | .wake true .rails n => pllsDone (setWake true .plls n s)
    | .wake false .rails n => pllsDone (setWake false .pll0 n s)
    | .wake fw .rail1 n => pllsDone (setWake fw .plls n s)
    | _ => s

/-- A wake starts: GH_WAKE_STAT is kept for PWR_STATUS. -/
def startWake (s : State) : State :=
  if s.ghx.pwrFail ∨ s.ghx.trans ≠ .none then s
  else
    let s := { s with
      gh := { s.gh with failedAttempts := 0 }
      ghx := { s.ghx with lastWake := wakeStat s, pllLocked := 0 } }
    match s.gh.state with
    | .watch => railsDone (wakeRails true 0 s)
    | .dormant => railsDone (wakeRails false 0 s)
    | _ => s

/-- A wake source fires: its bit is set; an enabled one wakes a sleeping head. -/
def fireWake (k : Nat) (s : State) : State :=
  let s := { s with gh := { s.gh with fired := setBit s.gh.fired k true } }
  if s.gh.wakeEn.getLsbD k ∧ (s.gh.state = .watch ∨ s.gh.state = .dormant) then startWake s else s

/-- A wake attempt fails (R420): its rails go off, an event names stage, rail or PLL and attempt, and the 10 ms wait runs;
after four attempts FAULT_N falls. -/
def wakeFail (stage which : Nat) (s : State) : State :=
  match s.ghx.trans with
  | .wake fw _ n =>
    let s := railsOff s
    let s := if fw then goDark s else s
    let s := record 3 1 3 .none (leN 1 stage ++ leN 1 which ++ leN 1 (n + 1)) s
    let s := { s with gh := { s.gh with failedAttempts := n + 1 } }
    if n + 1 < 4 then setWake false .retryWait (n + 1) s
    else
      let s := enterState .dormant s
      let s := { s with
        gh := { s.gh with faultLow := true }
        ghx := { s.ghx with failedWakes := satAdd 8 s.ghx.failedWakes 1 } }
      writeSummary (record 3 5 4 .none [] s)
  | _ => s

/-- WAKE_RETRY_WAIT_END. -/
def retryWaitEnd (s : State) : State :=
  match s.ghx.trans with
  | .wake fw .retryWait n => railsDone (wakeRails fw n s)
  | _ => s

/-- PLL_LOCK: a PLL can lock only with its rail on. -/
def pllLock (k : Nat) (s : State) : State :=
  let r := if k = 0 then 0 else if k = 5 then 2 else 1
  if mvOf s r = 0 then s else pllsDone { s with ghx := { s.ghx with pllLocked := setBit s.ghx.pllLocked k true } }

/-- PLL_LOCK_TIMEOUT. -/
def pllTimeout (k : Nat) (s : State) : State :=
  if s.ghx.pllLocked.getLsbD k then s
  else match s.ghx.trans with
    | .wake _ .pll0 _ => if k = 0 then wakeFail 3 k s else s
    | .wake _ .plls _ => wakeFail 3 k s
    | _ => s

/-! ### Sleep (R408, R411, R419, Tables 15.1, 15.2) -/

/-- The checks of Table 15.1 on the way out of Serve, in its order. -/
def sleepRefused (s : State) : Option Status :=
  if s.pair.state ≠ 3 ∨ (s.ftb.peerHb.map (·.handover)).getD false then some .peerAbsent
  else if wakePending s ∨ s.ghx.wakeN then some .wakePending
  else if s.gh.wakeEn = 0 then some .invalidField
  else if s.pair.handover.isSome ∨ s.pair.taking.isSome ∨ s.pair.failStep ≠ 0 ∨ (tvals s.dram.ch).any (·.migrating) ∨
      jobRuns s 0x0103 ∨ jobRuns s 0x0104 then some .busy
  else none

/-- The checks of Table 15.1 in Watch. -/
def dormantRefused (s : State) : Option Status :=
  if wakePending s ∨ s.ghx.wakeN then some .wakePending
  else if s.gh.wakeEn = 0 then some .invalidField
  else none

/-- Steps 1 and 2 of Table 15.2: the handover of every volume starts. -/
def startSleep (target opcode : Nat) (job : Option Nat) (s : State) : State :=
  let s := { s with
    gh := { s.gh with state := .entering, target := target, slpResult := 0 }
    ghx := { s.ghx with trans := .sleep target 2 job } }
  startHandover (myVols s) true opcode job s

/-- Watch to Dormant: the sequence stands at step 5 until the Gatehouse part is started. -/
def startDormant (job : Option Nat) (s : State) : State :=
  { s with
    gh := { s.gh with state := .entering, target := 2, slpResult := 0 }
    ghx := { s.ghx with trans := .sleep 2 5 job } }

/-- End the job of a sleep. -/
def sleepJob (st : Status) (s : State) : State :=
  match s.ghx.trans with
  | .sleep _ _ (some k) => finishJob k st [] s
  | _ => s

/-- A wake source that fired before the commit wins: the head returns from the point reached (R419). -/
def sleepAbandon (s : State) : State :=
  let s := sleepJob .wakePending s
  let s := if (dmcOf s 0).state = 0 then goDark s else s
  let s := { s with
    gh := { s.gh with slpResult := 2, failedAttempts := 0 }
    ghx := { s.ghx with lastWake := wakeStat s } }
  railsDone (wakeRails true 0 s)

/-- Steps 4 and 5 of Table 15.2: the mirror region is discarded, unlocked ways and datapaths go off, host queues close, and
DRAM enters the states of R354. -/
def sleepDrop (s : State) : State :=
  let s := { s with jrn := { s.jrn with mirror := [], mirrorTables := [], mirrorRun := [] }, pair := { s.pair with filled := false } }
  let s := (List.range 16).foldl (fun s w => if wayLocked s.cns w then s
    else onCns (fun c => { c with powered := setBit c.powered w false }) (clearWay w s)) s
  let s := (List.range 32).foldl (fun s g => powerGroup g false s) s
  let live := (s.lat.qps.filter (fun e => qpLive e.2)).map (·.1)
  let s := live.foldl (fun s n => closeQp n s) s
  let s := (upPorts s).foldl (fun s n => dropPort n s) s
  let s := { s with
    lat := { s.lat with hports := tmap (fun _ p => { p with up := false }) s.lat.hports }
    ftb := { s.ftb with ports := [] }
    pair := { s.pair with msgLive := false } }
  (List.range 24).foldl (fun s n => setDmc n { dmcOf s n with state := if n < 4 then 3 else 4 } s) s

/-- Step 6 of Table 15.2, or steps 1 to 3 of R411: the rails move; rail 0 goes off last. -/
def sleepRails (target : Nat) (job : Option Nat) (s : State) : State :=
  let s := { s with ghx := { s.ghx with trans := .sleep target 6 job } }
  if target = 2 then
    let s := dramDark (writeSummary (eventLogAppend s))
    ([1, 2].filter (fun r => decide (mvOf s r ≠ 0))).foldl (fun s r => pushAvs r 0 .sleep s) s
  else
    let want (r : Nat) : Nat := if r = 1 then 0 else svcOf s r - 100
    ([0, 1, 2].filter (fun r => decide (mvOf s r ≠ want r))).foldl (fun s r => pushAvs r (want r) .sleep s) s

/-- The commit of a sleep: step 7 of Table 15.2, or the last step of R411. -/
def sleepCommit (target : Nat) (job : Option Nat) (s : State) : State :=
  let s := sleepJob .success s
  let s := { s with gh := { s.gh with slpResult := 1 } }
  if target = 2 then enterState .dormant (goDark { s with ghx := { s.ghx with pllLocked := 0 } })
  else
    let s := enterState .watch { s with ghx := { s.ghx with pllLocked := 1 } }
    if job.isSome then force 0x0310 s else s

/-- The rails of a sleep have moved: the next step follows, unless a wake source is pending. -/
def sleepAdvance (s : State) : State :=
  match s.ghx.trans with
  | .sleep target k job =>
    if k < 6 ∨ avsAny s (fun w => decide (w = .sleep)) then s
    else if wakePending s then sleepAbandon s
    else if target = 2 ∧ k = 6 then
      let s := { s with ghx := { s.ghx with trans := .sleep 2 7 job } }
      if mvOf s 0 = 0 then sleepCommit 2 job s else pushAvs 0 0 .sleep s
    else sleepCommit target job s
  | _ => s

/-- GH_SLEEP_CTL.go: the Gatehouse part of a sleep, from step 4 of Table 15.2, once the head is fenced; or from Watch. Any
other use is discarded (R407). -/
def ghSleep (target : Nat) (s : State) : State :=
  let s := { s with gh := { s.gh with slpTarget := BitVec.ofNat 2 target } }
  let run (k : Nat) (job : Option Nat) (s : State) : State :=
    if wakePending s then sleepAbandon s
    else sleepAdvance (sleepRails target job (if k = 3 then sleepDrop s else s))
  match s.ghx.trans with
  | .sleep t k job => if t = target ∧ (k = 3 ∨ k = 5) then run k job s else s
  | .none =>
    if s.gh.state = .watch ∧ target = 2 then
      if wakePending s then { s with gh := { s.gh with slpResult := 2 } } else run 5 none (startDormant none s)
    else s
  | _ => s

/-! ### Regulators and PLLs as the sequences see them -/

/-- A rail change has reached its target. -/
def avsReached (op : AvsOp) (s : State) : State :=
  match op.why with
  | .ctl | .firmware => { s with gh := { s.gh with avsFail := 0 } }
  | .set n _ =>
    if op.failing then answerLate n (.fail .timeout) s
    else answerLate n (.ok (leN 2 op.target)) (force 0x0311 { s with gh := { s.gh with avsFail := 0 } })
  | .wake => railsDone s
  | .sleep => sleepAdvance s

/-- AVS_RESPONSE. -/
def avsResponse (b : Nat) (good vdone : Bool) (ma : Nat) (s : State) : State :=
  match avsAnswer b good vdone ma s with
  | .waits s => s
  | .reached op s => avsReached op s

/-- A rail change fails (R413, R420, R433): stage 1 acknowledgement, 2 power-good. A set voltage returns to the previous
one; a step of a sleep is given up and the sleep goes on (log entry 40). -/
def avsFails (stage : Nat) (op : AvsOp) (b : Nat) (s : State) : State :=
  match op.why with
  | .ctl | .firmware =>
    popAvs b (record 3 8 2 .none (leN 1 stage ++ leN 1 op.rail) { s with gh := { s.gh with avsFail := stage } })
  | .set n prev =>
    let s := { s with gh := { s.gh with avsFail := stage } }
    if op.failing then answerLate n (.fail .timeout) (popAvs b s)
    else avsSend b (setAvsQ b ({ op with target := prev, acked := false, failing := true } :: (avsQ s b).tail) s)
  | .wake => wakeFail stage op.rail s
  | .sleep => sleepAdvance (popAvs b (setMv op.rail op.step (record 3 8 2 .none (leN 1 stage ++ leN 1 op.rail) s)))

/-- AVS_ACK_TIMEOUT. -/
def avsAckTimeout (b : Nat) (s : State) : State :=
  match avsQ s b with
  | op :: _ => if op.acked then s else avsFails 1 op b s
  | [] => s

/-- AVS_VDONE_TIMEOUT. -/
def avsVdoneTimeout (b : Nat) (s : State) : State :=
  match avsQ s b with
  | op :: _ => if op.acked then avsFails 2 op b s else s
  | [] => s

/-! ### Power-fail (R86, R88, R91, R409, R474, Tables 15.7, 17.13) -/

/-- Channels 0 to 3 in self-refresh with their decode state kept, the others dark (R355). -/
def dramIce (s : State) : State :=
  (List.range 24).foldl (fun s n => setDmc n { dmcOf s n with state := if n < 4 then 3 else 0 } s) s

/-- Into Icehouse: rails released, everything below the Gatehouse dark but the keep channels; a low KEEP_OK is latched
(R426). Shelf requests keep their levels. -/
def iceDown (s : State) : State :=
  let s := dramIce (lodgeReset false (railsOff s))
  let s := { s with
    gh := { s.gh with keepFell := s.gh.keepFell || !s.ghx.keepOk }
    ghx := { s.ghx with boot := .icehouse } }
  enterState .icehouse s

/-- Out of Icehouse: the rails come up as in a power-up. -/
def iceLeave (s : State) : State :=
  railsDone (wakeRails false 0 { s with gh := { s.gh with failedAttempts := 0 } })

/-- COMPACTION_COPY_DONE (R86 steps 5 and 6). When PWR_FAIL_N has risen before step 6, Icehouse is left at once (R87). -/
def compactionDone (s : State) : State :=
  if !s.jrn.compacting then s
  else
    let s := iceDown { s with jrn := { s.jrn with keep := some (keepNow s) } }
    if s.ghx.pwrFail then s else iceLeave s

/-- R409: a keep header with empty regions, and the channels go dark with the rest of the rails. -/
def darkNoWork (s : State) : State :=
  let k := keepEmpty s
  let s := goDark (railsOff s)
  enterState .dormant { s with jrn := { s.jrn with keep := some k } }

/-- PWR_FAIL_FALL. -/
def pwrFailFall (s : State) : State :=
  let s := { s with ghx := { s.ghx with pwrFail := true } }
  if s.jrn.compacting ∨ s.gh.state = .icehouse then s
  else if s.ghx.boot = .icehouse ∨ (s.jrn.restart ≠ .none ∧ s.jrn.keep.isSome) then iceDown s
  else match s.ghx.trans with
    | .wake true _ _ => darkNoWork s
    | .wake false _ _ => enterState .dormant (goDark (railsOff s))
    | .sleep _ k _ =>
      if k ≤ 3 then beginCompaction (enterState .serve (sleepJob .aborted s)) else darkNoWork s
    | .none => match s.gh.state with
      | .watch => darkNoWork s
      | .dormant => s
      | _ => beginCompaction s

/-- PWR_FAIL_RISE: a restart from the keep area; the first wake of a power-up; or a wake that is still pending. KEEP_OK is
taken as high again (log entry 41). -/
def pwrFailRise (s : State) : State :=
  let s := { s with ghx := { s.ghx with pwrFail := false, keepOk := true } }
  if s.gh.state = .icehouse then iceLeave s
  else if s.gh.state = .dormant ∧ s.ghx.trans = .none then
    if s.ghx.boot = .powerOn ∧ s.ghx.poweredUp then
      iceLeave s
    else if wakePending s then startWake s
    else s
  else s

/-- KEEP_OK_FALL (R426): latched at compaction and in Icehouse. -/
def keepOkFall (s : State) : State :=
  let s := { s with ghx := { s.ghx with keepOk := false } }
  if s.jrn.compacting ∨ s.gh.state = .icehouse then { s with gh := { s.gh with keepFell := true } } else s

end Sys2Proof.Machine
end

