-- ==== Sys2Proof/Machine/Boot.lean ====
section
/-!
DEFINITION. Machine/Boot.lean: power-on and warm reset, the head-board record, and what follows a boot
(R402, R403, R416, R422, R424, R444, R462, R473, R476, R477, R486, Tables 3.10, 14.13, 15.8, 15.9, 17.12).
-/
namespace Sys2Proof.Machine

/-! ### The head-board record (R476, R477, Table 18.1) -/

/-- The figures of a board record. -/
def boardFields (b : Bytes) : Board :=
  { serial := bslice b 12 16, holdUpMj := fieldLE b 32 4, keepMw := fieldLE b 40 4, tjLimit := fieldLE b 44 1
    ddrMax := fieldLE b 45 1, dimmSlots := fieldLE b 47 1, ftbWired := BitVec.ofNat 4 (fieldLE b 48 1)
    hostSets := BitVec.ofNat 8 (fieldLE b 49 1), shelves := BitVec.ofNat 32 (fieldLE b 52 4), gpioUse := bslice b 56 16 }

/-- Are the fields of a board record within Table 18.1, and its strap byte that of the straps sampled? -/
def boardOk (straps : BitVec 4) (b : Bytes) : Bool :=
  within 10400 200000 (fieldLE b 32 4) && within 3600 2592000 (fieldLE b 36 4) && within 260 100000 (fieldLE b 40 4) &&
    within 85 105 (fieldLE b 44 1) && decide (fieldLE b 45 1 ≤ 2) && within 1 2 (fieldLE b 47 1) &&
    decide (fieldLE b 48 1 < 16) && decide (2 ≤ sumBy (fun k => b2n ((BitVec.ofNat 4 (fieldLE b 48 1)).getLsbD k)) (List.range 4)) &&
    (bslice b 56 16).all (fun x => decide (x.toNat ≤ 4 ∨ x = 255)) && zeroAt b 50 2 && zeroAt b 72 52 &&
    decide (fieldLE b 46 1 = straps.toNat % 8)

/-- The record read at step 5 of Table 17.12: accepted, or refused with an event (R477). -/
def takeBoard (straps : BitVec 4) (r : RecordRead) (s : State) : State :=
  let why := headerReason .board 128 r
  let b := r.getD []
  if why = 0 ∧ boardOk straps b then { s with ghx := { s.ghx with board := some (boardFields b), boardRefused := false } }
  else
    let why := if why = 0 then 6 else why
    record 1 4 2 .none (leN 1 why ++ refusedFormat why r) { s with ghx := { s.ghx with board := none, boardRefused := true } }

/-- gpio_use configures each pin at boot as user 0 (R476). -/
def gpioBoot (s : State) : State :=
  match s.ghx.board with
  | none => s
  | some b => (List.range 16).foldl (fun s i =>
      let f := byteAt b.gpioUse i
      if f = 255 then s
      else
        let g := tgetD s.ghx.gpios i {}
        let s := { s with ghx := { s.ghx with gpios := tset s.ghx.gpios i { g with func := BitVec.ofNat 3 f.toNat, en := setBit g.en 0 true, winner := 0 } } }
        setClaim 1 i (Config.lodgeFunction 16 % 255 + 1) s) s

/-! ### Power-on reset (R422) -/

/-- Everything is cleared but fuses, boot NOR, the power-cycle count and what lies on flash; input pins are as the board
drives them, and every output is high-impedance. -/
def powerOnClear (s : State) : State :=
  let s := dramDark (lodgeReset false s)
  let old := s.ghx
  { s with
    evt := { log := s.evt.log, logPlace := s.evt.logPlace, sum0 := s.evt.sum0, sum1 := s.evt.sum1
             newestAppended := s.evt.newestAppended, sumBase := s.evt.sumBase }
    mons := {}
    gh := { pwrCycle := s.gh.pwrCycle }
    ghx := {
      pwrFail := old.pwrFail, holdOk := old.holdOk, keepOk := old.keepOk, wakeN := old.wakeN, fenceIn := old.fenceIn
      gpios := tmap (fun _ g => { input := g.input }) old.gpios }
    sec := { s.sec with lodgeMem := [] }
    dram := {}
    lat := {}
    plc := { s.plc with shelves := tmap (fun _ v => shelfAfter { v with req := false }) s.plc.shelves }
    jrn := { s.jrn with keep := none, flashMode := true, holdHigh := old.holdOk }
    pair := { s.pair with fenced := false, state := 0, window := none, named := [], takeover := 0, owned := [], pinLive := false, autoFail := false
                          arr := s.sec.norArray.getD {}, genHeard := 0 } }

/-- PWRON_RST_N_FALL. -/
def pwronFall (s : State) : State := powerOnClear s

/-- The newest sequence number that a tier still holds (R444). -/
def newestSeq (e : Evt) : Option Nat :=
  match (e.log.getLast?).map (·.seq), (bestSummary e).map (·.newest) with
  | some a, some b => some (if seqAfter b a then b else a)
  | some a, none => some a
  | none, b => b

/-- Sequence numbers and operating time go on from what is persisted, and are locked (R416, R444). -/
def restoreCounts (s : State) : State :=
  let next := match newestSeq s.evt with
    | some n => BitVec.ofNat 32 (n + 65536)
    | none => 0
  let (h, sec) := match bestSummary s.evt with
    | some x => (x.hours, x.seconds)
    | none => (0, 0)
  { s with
    evt := { s.evt with nextSeq := next, lock := true }
    gh := { s.gh with hours := h, seconds := sec, optLock := true } }

/-- POWER_ON_RESET: PWRON_RST_N rises. Straps are sampled, the board record is read, a low KEEP_OK is latched, and the
first wake runs once PWR_FAIL_N is high (Tables 17.12, 17.13), and flash-confirmed mode is entered with an event (R85). A head whose FENCE_IN_N is low from the start boots fenced
(R482). -/
def powerOn (straps : BitVec 4) (board : RecordRead) (s : State) : State :=
  let s := powerOnClear s
  let s := { s with gh := { s.gh with
    pwrCycle := satAdd 24 s.gh.pwrCycle 1, rstPwron := true, rstStrap := straps.getLsbD 3, keepFell := !s.ghx.keepOk } }
  let s := { s with ghx := { s.ghx with strap := straps, poweredUp := true, hiZ := false, boot := .powerOn } }
  let s := enterState .dormant (takeBoard straps board (note 0x04 5 2 (restoreCounts s)))
  let s := if s.ghx.fenceIn then { s with pair := { s.pair with fenced := true, state := 5 } } else s
  if s.ghx.pwrFail then s else iceLeave s

/-! ### Warm reset (R422, R486, Table 15.9) -/

/-- Is the Lodge powered, so that a warm reset finds something to reset? -/
def lodgePowered (s : State) : Bool :=
  match s.gh.state with
  | .icehouse => false
  | .dormant => false
  | .waking => (match s.ghx.trans with
    | .wake _ .boot _ => true
    | _ => false)
  | _ => true

/-- The warm reset: ignored in compaction and Icehouse. During steps 1 to 6 of Table 3.10 after Icehouse, that restart
begins again from the keep area; a boot under way begins again. -/
def warmReset (s : State) : State :=
  if s.jrn.compacting ∨ !lodgePowered s then s
  else
    let b := match s.ghx.boot with
      | .none => if s.jrn.restart ≠ .none ∧ s.jrn.keep.isSome then BootFor.icehouse else .warm
      | b => b
    let s := lodgeReset true s
    let s := match s.ghx.trans with
      | .sleep _ k _ => if k ≤ 5 then enterState .serve s else s
      | _ => s
    bootStart { s with ghx := { s.ghx with boot := b } }

/-- A warm reset from the pin. -/
def warmPin (s : State) : State := warmReset { s with gh := { s.gh with rstWarm := true } }

/-- A warm reset that the Lodge asserts (R435), or its restart onto another image (R118). -/
def warmByLodge (s : State) : State :=
  let fw := jobRuns s 0x0104
  let s := warmReset { s with gh := { s.gh with rstHead := true }, ghx := { s.ghx with pendingReset := false } }
  if fw then { s with kiosk := { s.kiosk with fwSwitch := true } } else s

/-- HEAD_RESET_DELAY_END. -/
def resetDelayEnd (s : State) : State := if s.ghx.pendingReset then warmByLodge s else s

/-- WATCHDOG_KICK. -/
def watchdogKick (s : State) : State := { s with gh := { s.gh with wdogKicks := s.gh.wdogKicks + 1 } }

/-- WATCHDOG_EXPIRY: an event, then a warm reset. -/
def watchdogExpiry (s : State) : State :=
  if !s.gh.wdogEn then s
  else warmReset (note 1 8 3 { s with gh := { s.gh with rstWdog := true, wdogKicks := 0 } })

/-! ### What follows a boot -/

/-- The error records without a verdict, as tests that are still to run (Table 16.4). -/
def untested (e : Evt) : List (Subject × Nat) :=
  let rs := e.log ++ e.recs.filter (fun r => !(e.log.any (fun q => q.seq = r.seq)))
  let testable (r : EvRec) : Bool := decide (r.typ ≠ 0 ∧ r.typ % 256 = 1) && (match r.subject with
    | .sramRow _ _ _ | .dramRow _ _ _ _ | .sledLane _ | .engineCore _ _ | .keySlot _ _ => true
    | _ => false)
  (rs.filter (fun r => testable r && !(rs.any (fun q =>
    decide (q.typ = 0x0902 ∧ q.subject = r.subject) && seqAfter q.seq r.seq)))).map (fun r => (r.subject, r.seq))

/-- Lodge firmware is up: it takes requests, runs the watchdog, uses its policy's wake sources, and loads the KEK and the
domain keys, and tests what has erred without a verdict (R392, R402, R424, Table 16.4). -/
def firmwareUp (s : State) : State :=
  let s := { s with
    kiosk := { s.kiosk with lodgeReady := true, fwSwitch := false }
    gh := { s.gh with wdogEn := true, wakeEn := BitVec.ofNat 5 s.ghx.policy.wakeEn }
    sec := { s.sec with rngReady := true } }
  let s := if s.sec.norKek.isSome then loadKek s else s
  let s := loadDomains (gpioBoot s)
  let s := (untested s.evt).foldl (fun s x => startTest x.1 (some x.2) s) s
  (List.range 32).foldl (fun s g => if (shelfOf s g).req then powerGroup g true s else s) s

/-- The wake that this boot belongs to is over: the head is in Serve. -/
def serveNow (s : State) : State :=
  match s.ghx.trans with
  | .wake _ _ _ => enterState .serve { s with gh := { s.gh with faultLow := false } }
  | _ => s

/-- The returning head: it drops its regions and says HELLO. -/
def bootFenced (s : State) : State :=
  let s := dropRegions s
  sendHello { s with pair := { s.pair with state := if s.pair.fenced then 5 else 0, filled := false } }

/-- After a power-on reset: DRAM is trained; a fenced or new head waits to be paired; a head of an array restarts with its
keep area counted lost (R110, R422). An unfit keep supply keeps flash-confirmed mode (R477). -/
def bootPowerOn (s : State) : State :=
  let s := dramBoot s
  let dimms := 4 * Config.dimmSlots
  let s := match s.ghx.board with
    | some b => if b.keepMw < 260 + 750 * dimms then
        note 1 5 2 { s with ghx := { s.ghx with keepUnfit := true }, jrn := { s.jrn with flashMode := true } } else s
    | none => s
  if !takesPart s then s
  else if s.pair.fenced ∨ !inArray s then sendHello s
  else beginRestart false s

/-- After Dormant: DRAM is trained again; the head is fenced and rejoins with auto fail-back set (R408). -/
def bootDormant (s : State) : State :=
  let s := dramBoot { s with jrn := { s.jrn with keep := none }, pair := { s.pair with autoFail := true } }
  if takesPart s then bootFenced s else s

/-- A keep header of a later format records an event that names it (R448). -/
def keepLater (s : State) : State :=
  match s.jrn.keep with
  | some k => if laterFormat 1 k.format = [] then s else record 4 4 2 .none (laterFormat 1 k.format) s
  | none => s

/-- After Icehouse: steps 1 and 2 of Table 3.10. The decode state is restored, a head that held the fence drives it again,
and a good keep area gives back the regions and tables. -/
def bootIce (s : State) : State :=
  let s := keepLater (dramResume s)
  if s.pair.fenced then bootFenced { s with jrn := { s.jrn with keep := none } }
  else
    let good := keepGood s
    let s := match s.jrn.keep with
      | some k =>
        let drive := k.fenceOut && !s.ghx.fenceIn && !s.ghx.fenceOut
        let s := if drive then assertGood s else s
        let s := { s with
          ghx := { s.ghx with fenceOut := s.ghx.fenceOut || drive }
          jrn := { s.jrn with asn := max s.jrn.asn k.asnHigh, epoch := { s.jrn.epoch with number := max s.jrn.epoch.number k.epoch } } }
        let jrn := { s.jrn with
          own := keptOwn k, mirror := k.mirror, mirrorLost := keptLost k, tables := k.tables, mirrorTables := k.mirrorTables }
        let s := if good then { s with jrn := jrn, pair := { s.pair with filled := decide (k.peerSerial ≠ zeros 16) } } else s
        if (k.flashMode ∨ !s.ghx.holdOk) ∧ !s.jrn.flashMode then note 0x04 5 2 { s with jrn := { s.jrn with flashMode := true } } else s
      | none => s
    beginRestart good s

/-- After a warm reset (R486): a fenced head rejoins; a fencer decides both regions and runs its takeover again from step 4;
any other head restarts on the regions in place. Where the DRAM controllers report that DRAM was not kept, both regions are lost.
A head in no array waits to be paired. -/
def bootWarm (s : State) : State :=
  let kept := (List.range 24).all (fun n => decide ((dmcOf s n).state ≠ 0))
  let s := dramResume s
  let s := if kept then s else { s with
    jrn := { s.jrn with own := [], mirror := [], mirrorLost := [], cursor := 0, tables := [], mirrorTables := [], mirrorRun := [] }
    pair := { s.pair with filled := false } }
  if !takesPart s then s
  else if s.pair.fenced then bootFenced s
  else if !inArray s then sendHello s
  else if s.ghx.fenceOut then
    let again := decide (s.pair.takeover ≠ 0)
    let s := beginRestart kept s
    let s := bothLost (goAlone s) kept false
    if again then { s with pair := { s.pair with takeover := 4 } } else s
  else beginRestart kept s

/-- BOOT_COMPLETE with a good main body. A Watch that no policy asks for was forced in a session that the reset ended: the head
returns to Serve (R47). -/
def bootGood (s : State) : State :=
  let b := s.ghx.boot
  let s := firmwareUp { s with ghx := { s.ghx with boot := .none } }
  let s := match b with
    | .powerOn => bootPowerOn s
    | .dormant => bootDormant s
    | .icehouse => bootIce s
    | .warm => if s.gh.state = .watch then s else bootWarm s
    | .none => s
  let s := note 1 5 0 (serveNow s)
  if s.gh.state = .watch ∧ s.ghx.policy.target = 0 then startWake s else s

/-- BOOT_COMPLETE (R402): the body fails its check: the other slot is tried, or both have failed. -/
def bootComplete (ok : Bool) (s : State) : State :=
  let run := decide (s.ghx.boot = .warm) || (match s.ghx.trans with
    | .wake _ .boot _ => true
    | _ => decide (s.ghx.boot ≠ .none) && decide (s.gh.state ≠ .dormant ∧ s.gh.state ≠ .icehouse ∧ s.gh.state ≠ .waking))
  if !run ∨ s.gh.rstStrap ∨ s.ghx.boot = .none then s
  else if ok ∧ (bootSlot s s.sec.running).bodyOk then bootGood s
  else if s.sec.triedOther then bootFails s
  else bootFrom (1 - s.sec.running) true s

/-- SLOT_CONFIRM (R402, R403): the running slot is confirmed once the head is paired whole or has run alone; the fuse count
rises to the lower security version where the commit flag is set. -/
def slotConfirm (s : State) : State :=
  if !s.kiosk.lodgeReady ∨ (s.pair.state ≠ 3 ∧ s.pair.state ≠ 4) then s
  else
    let k := s.sec.running
    let b := bootSlot s k
    let s := setBoot k { b with confirmed := true, attempts := 0, lostPref := false } s
    let low := min (bootSlot s 0).security (bootSlot s 1).security
    if b.commit ∧ s.sec.fuseCount < low then
      note 8 9 2 { s with sec := { s.sec with fuseCount := min 64 low } } else s

end Sys2Proof.Machine
end

