-- ==== Sys2Proof/Machine/GhRows.lean ====
section
/-!
DEFINITION. Machine/GhRows.lean: the Gatehouse's commands: wake sources, timers, AVSBus, PLLs, crystal, operating time,
resets, power-fail, and the thermal duties (chapters 15 and 17).
-/
namespace Sys2Proof.Machine

/-! ### Wake sources (R417, R418) -/

/-- Is the SMBus path live: rail 0 good and the compute-die PLLs locked? -/
def smbLive (s : State) : Bool :=
  match s.gh.state with
  | .dormant | .icehouse => false
  | .waking => decide (mvOf s 0 ≠ 0) && s.ghx.pllLocked.getLsbD 0
  | _ => true

/-- SMBUS_ADDRESS_MATCH: the address is acknowledged, SCL is held low until the path is live, and source 0 fires. In
Icehouse only the source fires. -/
def smbusMatch (s : State) : State :=
  let s := { s with ghx := { s.ghx with smbNack := false } }
  let s := if s.gh.state = .icehouse ∨ smbLive s then s
    else emit .smbAck { s with ghx := { s.ghx with smbStretch := true } }
  fireWake 0 s

/-- SMBUS_STRETCH_TIMEOUT. -/
def smbusStretchEnd (s : State) : State :=
  if s.ghx.smbStretch then { s with ghx := { s.ghx with smbStretch := false, smbNack := true } } else s

/-- WAKE_N_LOW, and its return high. -/
def wakeNPin (low : Bool) (s : State) : State :=
  let s := { s with ghx := { s.ghx with wakeN := low } }
  if low then fireWake 1 s else s

/-- GPIO_WAKE_EDGE: the pin falls; a pin configured as wake input fires source 4. -/
def gpioEdge (k : Nat) (s : State) : State :=
  let s := setGpio k { gpioOf s k with input := false } s
  if (gpioOf s k).func = 2 then fireWake 4 s else s

/-- PEER_HB_IN silent for 50 ms after at least one edge: source 2 (Table 15.6). A head that wakes on it records an event. -/
def peerHbWake (s : State) : State :=
  if !s.ghx.hbSeen then s
  else
    let was := asleep s
    let s := fireWake 2 s
    if was ∧ s.gh.state = .waking then note 3 5 0 s else s

/-! ### Timers (R427, R428) -/

/-- The pins whose pulse output follows timer t. -/
def pulsePins (s : State) (t : Nat) : List Nat :=
  (List.range 16).filter (fun k => decide ((gpioOf s k).func = 3 ∧ k % 8 = t))

/-- GH_TIMER_EXPIRY: fired is set, its pulse outputs go low, and a timer with its wake bit fires source 3. -/
def timerExpiry (t : Nat) (s : State) : State :=
  let v := timerOf s t
  if !v.counting then s
  else
    let s := setTimer t { v with fired := true, counting := v.periodic } s
    let s := (pulsePins s t).foldl (fun s k => setGpio k { gpioOf s k with pulseLow := true } s) s
    if v.wake then fireWake 3 { s with gh := { s.gh with firedTmr := setBit s.gh.firedTmr t true } } else s

/-- TIMER_COMPARE_WRITE: the interval is set and the count restarts. -/
def timerCompare (t : Nat) (ticks : Word) (s : State) : State :=
  setTimer t { timerOf s t with cmp := ticks, counting := true } s

/-- TIMER_PULSE_END. -/
def pulseEnd (k : Nat) (s : State) : State := setGpio k { gpioOf s k with pulseLow := false } s

/-! ### Policy (R430) -/

/-- IDLE_POLICY_TIMER: the head starts towards Watch, whichever target the policy names, subject to Table 15.1. -/
def idlePolicy (s : State) : State :=
  if s.ghx.policy.target ≠ 0 ∧ s.gh.state = .serve ∧ s.ghx.trans = .none ∧ (sleepRefused s).isNone then startSleep 1 0 none s
  else s

/-- DORMANT_AFTER_TIMER: on to Dormant. -/
def dormantAfter (s : State) : State :=
  if s.ghx.policy.target = 2 ∧ s.gh.state = .watch ∧ s.ghx.trans = .none ∧ (dormantRefused s).isNone then startDormant none s
  else s

/-! ### Crystal and operating time (R415, R416, R469) -/

/-- XTAL_FAIL: not applied for 1 s after the release of PWRON_RST_N. -/
def xtalFails (s : State) : State :=
  if s.ghx.xtalIgnored then s else note 3 1 2 { s with gh := { s.gh with xtalFail := true } }

/-- XTAL_RESTORE. -/
def xtalBack (s : State) : State := { s with gh := { s.gh with xtalFail := false } }

/-- The margins of rails 0 to 2, in mV (R449). -/
def margins (s : State) : Nat × Nat × Nat :=
  let m (r : Nat) := railHigh r - svcOf s r
  (m 0, m 1, m 2)

/-- OPERATING_TIME_TICK: the counts advance, and what is kept per second and per day with them (R449, R450, R363). -/
def operatingTick (s : State) : State :=
  let wrap := decide (3599 ≤ s.gh.seconds)
  let full := decide (s.gh.hours = 2 ^ 24 - 1)
  let gh := if wrap then
      if full then s.gh else { s.gh with seconds := 0, hours := s.gh.hours + 1 }
    else { s.gh with seconds := s.gh.seconds + 1 }
  let newDay := wrap && !full && decide (gh.hours % 24 = 0)
  let (m0, m1, m2) := margins s
  let x := s.ghx
  let x := { x with
    xtalIgnored := false
    tjSum := x.tjSum + x.tj
    tjSecs := x.tjSecs + 1
    tjBands := tset x.tjBands x.tjComp (tgetD x.tjBands x.tjComp 0 + 1)
    dailyMargins := if newDay then ((gh.hours / 24, m0, m1, m2) :: x.dailyMargins).take 90 else x.dailyMargins }
  { s with gh := gh, ghx := x, dram := { s.dram with usePrev := s.dram.useHigh, useHigh := 0 } }

/-! ### Temperature (R450, R470, R471) -/

/-- T_thr. -/
def tThr (s : State) : Nat :=
  match s.ghx.board with
  | some b => min 100 (b.tjLimit - 5)
  | none => 100

/-- Tj has come above 105 C: a critical event; a head whose pair is whole hands everything over and stays fenced; a head
running alone goes to the floor. -/
def overheated (s : State) : State :=
  let s := note 9 6 4 { s with ghx := { s.ghx with hot105 := true, over105 := satAdd 32 s.ghx.over105 1 } }
  if s.pair.state = 3 then handOffFenced { s with ghx := { s.ghx with thermalFence := true } }
  else adjustAllowance false { s with ghx := { s.ghx with thermalCap := 40 } }

/-- TJ_SAMPLE: readings of the 24 sensors, the compute die's four first. Tj is the highest. -/
def tjSample (readings : List Nat) (s : State) : State :=
  if readings.isEmpty then s
  else
    let tj := maxBy (fun n => n) readings
    let thr := tThr s
    let s := { s with ghx := { s.ghx with
      tj := tj, tjComp := maxBy (fun n => n) (readings.take 4), tjMax := max s.ghx.tjMax tj } }
    let s := if thr ≤ tj ∧ !s.ghx.throttled then note 9 6 2 { s with ghx := { s.ghx with throttled := true } }
      else if tj + 3 ≤ thr ∧ s.ghx.throttled then
        adjustAllowance false { s with ghx := { s.ghx with throttled := false, thermalCap := 400 } }
      else s
    if 105 < tj then (if s.ghx.hot105 then s else overheated s)
    else { s with ghx := { s.ghx with hot105 := false } }

/-- THERMAL_THROTTLE_STEP: the cap falls by 40 GB/s, to a floor of 40 GB/s. -/
def throttleStep (s : State) : State :=
  if s.ghx.throttled then
    adjustAllowance false { s with ghx := { s.ghx with thermalCap := max 40 (min s.ghx.thermalCap s.lat.cap - 40) } }
  else s

/-- TJ_COOL_TIMER: a thermally fenced head that has stayed at or below 95 C rejoins. -/
def tjCooled (s : State) : State :=
  if s.ghx.thermalFence ∧ s.ghx.tj ≤ 95 then
    let s := { s with ghx := { s.ghx with thermalFence := false } }
    if s.pair.fenced then sendHello s else s
  else s

/-! ### The commands -/

def execSmbusAddressMatch (s : State) : Res := .next (settle (smbusMatch s))
def execSmbusStretchTimeout (s : State) : Res := .next (settle (smbusStretchEnd s))
def execWakeNLow (low : Bool) (s : State) : Res := .next (settle (wakeNPin low s))
def execGpioWakeEdge (pin : Fin 16) (s : State) : Res := .next (settle (gpioEdge pin s))
def execGhTimerExpiry (t : Fin 8) (s : State) : Res := .next (settle (timerExpiry t s))
def execTimerCompareWrite (t : Fin 8) (ticks : Word) (s : State) : Res := .next (settle (timerCompare t ticks s))
def execTimerPulseEnd (pin : Fin 16) (s : State) : Res := .next (settle (pulseEnd pin s))
def execGhSleepWatch (s : State) : Res := .next (settle (ghSleep 1 s))
def execGhSleepDormant (s : State) : Res := .next (settle (ghSleep 2 s))
def execIdlePolicyTimer (s : State) : Res := .next (settle (idlePolicy s))
def execDormantAfterTimer (s : State) : Res := .next (settle (dormantAfter s))
def execAvsChangeStart (rail : BitVec 2) (mv : BitVec 12) (s : State) : Res := .next (settle (avsStart rail mv s))
def execAvsResponse (bus : Fin 2) (good vdone : Bool) (ma : Nat) (s : State) : Res :=
  .next (settle (avsResponse bus good vdone ma s))
def execAvsStatusPoll (bus : Fin 2) (s : State) : Res := .next (settle (avsPoll bus s))
def execAvsAckTimeout (bus : Fin 2) (s : State) : Res := .next (settle (avsAckTimeout bus s))
def execAvsVdoneTimeout (bus : Fin 2) (s : State) : Res := .next (settle (avsVdoneTimeout bus s))
def execPllLock (k : Fin 6) (s : State) : Res := .next (settle (pllLock k s))
def execPllLockTimeout (k : Fin 6) (s : State) : Res := .next (settle (pllTimeout k s))
def execWakeRetryWaitEnd (s : State) : Res := .next (settle (retryWaitEnd s))
def execXtalFail (s : State) : Res := .next (settle (xtalFails s))
def execXtalRestore (s : State) : Res := .next (settle (xtalBack s))
def execOperatingTimeTick (s : State) : Res := .next (settle (operatingTick s))
def execOptimeLock (s : State) : Res := .next (settle { s with gh := { s.gh with optLock := true } })
def execWatchdogKick (s : State) : Res := .next (settle (watchdogKick s))
def execWatchdogExpiry (s : State) : Res := .next (settle (watchdogExpiry s))
def execWarmReset (s : State) : Res := .next (settle (warmPin s))
def execPowerOnReset (straps : BitVec 4) (board : RecordRead) (s : State) : Res := .next (settle (powerOn straps board s))
def execPwronRstNFall (s : State) : Res := .next (settle (pwronFall s))
def execHeadResetDelayEnd (s : State) : Res := .next (settle (resetDelayEnd s))
def execBootComplete (ok : Bool) (s : State) : Res := .next (settle (bootComplete ok s))
def execSlotConfirm (s : State) : Res := .next (settle (slotConfirm s))
def execTjSample (readings : List Nat) (s : State) : Res := .next (settle (tjSample readings s))
def execThermalThrottleStep (s : State) : Res := .next (settle (throttleStep s))
def execTjCoolTimer (s : State) : Res := .next (settle (tjCooled s))
def execPwrFailFall (s : State) : Res := .next (settle (pwrFailFall s))
def execCompactionCopyDone (s : State) : Res := .next (settle (compactionDone s))
def execPwrFailRise (s : State) : Res := .next (settle (pwrFailRise s))
def execKeepOkFall (s : State) : Res := .next (settle (keepOkFall s))
def execDramReadError (ch : Fin 24) (rank : Fin 4) (ca : Nat) (corrected : Bool) (s : State) : Res :=
  .next (settle (readError ch rank ca corrected s))
def execDramUseWindow (bytes : Nat) (s : State) : Res := .next (settle (useWindow bytes s))

end Sys2Proof.Machine
end

