-- ==== Sys2Proof/Machine/PairRows.lean ====
section
/-!
DEFINITION. Machine/PairRows.lean: the commands of the Footbridge and the pair: messages, ports, heartbeats, fencing,
takeover, handover, fail-back, pairing and the restart exchange (chapters 03 and 04, R487).
-/
namespace Sys2Proof.Machine

/-! ### The fall of FENCE_IN_N (R110, R118, R119, R423, R435, Table 15.2) -/

/-- What the handover that asked for this fence was for: TAKEOVER_FORCE mode 0 and HEAD_RESET mode 1 finish their jobs, and
HEAD_RESET's 10 ms runs; FW_ACTIVATE restarts onto the slot of its job. -/
def afterFence (h : Handover) (s : State) : State :=
  let done (s : State) : State := match h.job with
    | some k => finishJob k .success [] s
    | none => s
  if h.opcode = 0x0105 then
    let s := done s
    { s with ghx := { s.ghx with pendingReset := true } }
  else if h.opcode = 0x0104 then
    let job := h.job.bind (tget s.kiosk.jobs)
    let slot := (job.map (fun j => j.subj)).getD s.sec.preferred
    -- flag bit 1: the volumes come back once this head has rejoined (R118)
    let auto_ := (job.map (fun j => decide (j.aux / 2 % 2 = 1))).getD false
    let s := done s
    let s := warmByLodge { s with sec := { s.sec with preferred := slot }, pair := { s.pair with autoFail := auto_ } }
    { s with kiosk := { s.kiosk with fwSwitch := true } }
  else done s

/-- FENCE_IN_FALL. A sleep goes on to step 3 of Table 15.2 when its own handover asked for the fence, and is given up
otherwise. -/
def fenceInFall (s : State) : State :=
  let was := s.pair.fenced
  let (h, s) := fenceFall s
  if was ∨ !s.pair.fenced then s
  else match s.ghx.trans with
    | .sleep t 2 job =>
      if h.isSome then { s with ghx := { s.ghx with trans := .sleep t 3 job } }
      else enterState .serve (sleepJob .peerAbsent s)
    | _ => match h with
      | some h => afterFence h s
      | none => s

/-! ### The array record (R487) -/

/-- ARRAY_RECORD_READ_DONE: policies and switches keep their values until the boundary, keys of new domains are loaded and
those of deleted ones zeroised; then a pairing that waited for the record completes. -/
def recordRead (r : ArrayRec) (s : State) : State :=
  if r.gen < s.pair.arr.gen then arrayRead r s
  else
    let s := if s.pair.paired then (tkeys s.pair.arr.domains).foldl (fun s d => holdSwitches d s) s else s
    endJoin (dropDomains (loadDomains (arrayRead r s)))

/-! ### The commands -/

def execHello (msg : HelloMsg) (s : State) : Res := .next (settle (helloIn msg s))
def execHeartbeat (port : Fin 4) (msg : HbMsg) (s : State) : Res := .next (settle (heartbeatIn port msg s))
def execMirror (msgId : Nat) (recs : List JRec) (s : State) : Res := .next (settle (takeMirror msgId recs s))
def execReceipt (cumId : Nat) (ranges : List (Nat × Nat)) (s : State) : Res := .next (settle (receiptIn cumId ranges s))
def execSnak (portClass : Fin 4 × Fin 2) (firstSeq lastSeq : Nat) (msgId : Option Nat) (s : State) : Res :=
  .next (settle (ftbSnak portClass.1 portClass.2 firstSeq lastSeq msgId s))
def execHandover (msg : HandoverMsg) (s : State) : Res := .next (settle (handoverIn msg s))
def execResync (msgId : Nat) (recs : List JRec) (s : State) : Res := .next (settle (resyncIn msgId recs s))
def execFootbridgeSegment (port : Fin 4) (cls : Fin 2) (portSeq msgId type offset len : Nat) (total : Option Nat)
    (checkOk : Bool) (s : State) : Res :=
  .next (settle (ftbSegment port cls portSeq msgId type offset len total checkOk s))
def execFootbridgeGapTimer (msgId : Nat) (s : State) : Res := .next (settle (ftbGap msgId s))
def execFootbridgeResendTimer (msgId : Nat) (s : State) : Res := .next (settle (ftbResend msgId s))
def execFootbridgePortDown (port : Fin 4) (s : State) : Res := .next (settle (portDown port s))
def execPcsAlignmentChange (port : Fin 4) (aligned : Bool) (s : State) : Res := .next (settle (pcsChange port aligned s))
def execHeartbeatSendTimer (s : State) : Res := .next (settle (sendHeartbeats s))
def execHbKick (s : State) : Res := .next (settle (hbKick s))
def execHbPinToggle (s : State) : Res := .next (settle (hbToggle s))
def execPeerHbInEdge (s : State) : Res := .next (settle (pinEdge s))
def execPinPathSilent (s : State) : Res := .next (settle (peerHbWake (pinSilent s)))
def execMessagePathSilent (s : State) : Res := .next (settle (msgSilent s))
def execPartialSilenceTimeout (s : State) : Res := .next (settle (partialSilence s))
def execRoleBFenceDelay (s : State) : Res := .next (settle (roleBDelay s))
def execFenceInFall (s : State) : Res := .next (settle (fenceInFall s))
def execFenceInRise (s : State) : Res := .next (settle (fenceRise s))
def execTakeoverSledWaitEnd (s : State) : Res := .next (settle (sledWaitEnd s))
def execTakeoverMapLoaded (s : State) : Res := .next (settle (mapLoaded s))
def execHandoverDrainDone (s : State) : Res := .next (settle (handoverDrained s))
def execResyncComplete (s : State) : Res := .next (settle (resyncComplete s))
def execFailbackFenceRelease (s : State) : Res := .next (settle (fenceRelease s))
def execPairingPortTimeout (s : State) : Res := .next (settle (joinTimeout s))
def execMigrationWindowExpiry (s : State) : Res := .next (settle (windowExpiry s))
def execArrayRecordReadDone (record : ArrayRec) (s : State) : Res := .next (settle (recordRead record s))
def execRestartPeerWaitExpiry (s : State) : Res := .next (settle (peerWaitExpiry s))
def execRestartReplayDone (s : State) : Res := .next (settle (replayDone s))

/-- PAIR_STATUS. -/
def execPairStatus (n : Fin 64) (s : State) : Res := .next (settle (basmos n 0x0B00 (layoutIs 0 []) pairStatusH s))

/-- PAIR_JOIN. -/
def execPairJoin (n : Fin 64) (s : State) : Res :=
  .next (settle (basmos n 0x0B01 (layoutIs 16 [(2, 2), (12, 4)]) pairJoinH s))

/-- FAILBACK. -/
def execFailback (n : Fin 64) (s : State) : Res := .next (settle (basmos n 0x0B02 (layoutIs 0 []) failbackH s))

/-- TAKEOVER_FORCE. -/
def execTakeoverForce (n : Fin 64) (s : State) : Res :=
  .next (settle (basmos n 0x0B10 (layoutIs 1 []) (takeoverForceH forceAlone) s))

/-- MIGRATION_WINDOW. -/
def execMigrationWindow (n : Fin 64) (s : State) : Res :=
  .next (settle (basmos n 0x0B11 (layoutIs 20 []) migrationWindowH s))

end Sys2Proof.Machine
end

