-- ==== Sys2Proof/Machine/Session.lean ====
section
/-!
DEFINITION. Machine/Session.lean: the expert session, the claims, and the Function Level Reset
(R45, R46, R47, R52, R54, R55, R395, R406, R422, Tables 2.8, 2.11, 2.15).
-/
namespace Sys2Proof.Machine

/-! ### The end of a session (R47) -/

/-- A forced Watch ends: the head returns to Serve unless its policy has it sleep. -/
def watchLapse (s : State) : State :=
  if !s.kiosk.forced.contains 0x0310 then s
  else
    let s := unforce 0x0310 s
    if s.gh.state = .watch ∧ s.ghx.policy.target = 0 then startWake s else s

/-- The session ends: its claims are released and every forced state lapses. -/
def sessionEnd (s : State) : State :=
  if s.kiosk.session.isNone then s
  else
    let mine := (s.kiosk.claims.filter (fun e => decide (e.2.holder = 0x0200))).map (·.1)
    let s := mine.foldl (fun s k => releaseClaim k s) s
    let s := watchLapse (wakeLapse (avsLapse (waysLapse (qosLapse (holdsLapse (creditLapse s))))))
    note 1 5 0 { s with kiosk := { s.kiosk with session := none, forced := [] } }

/-- SESSION_EXPIRY. -/
def execSessionExpiry (s : State) : Res := .next (settle (sessionEnd s))

/-! ### Opening and closing (R45, R46, R55) -/

/-- SESSION_CHALLENGE: a nonce of the random source and the device serial. -/
def challengeH (_p : Bytes) (s : State) : BAns × State :=
  if s.sec.rngHalted then refuse .busy s
  else
    let nonce := freeBytes 32 s
    let s := drbgRequest (draw s)
    (.now (.ok (nonce ++ deviceSerial)), { s with kiosk := { s.kiosk with
      nonces := tset s.kiosk.nonces s.kiosk.nonceCount nonce, nonceCount := s.kiosk.nonceCount + 1 } })

/-- The layout of a token (Table 2.11). -/
def tokenLayout (p : Bytes) : Bool := layoutIs 584 [(2, 2), (12, 4), (64, 8)] p && !(byteAt p 8).getLsbD 0

/-- Every check of a token: version, duration, key, nonce, serial and signature. -/
def tokenOk (s : State) (p : Bytes) : Bool :=
  decide (fieldLE p 0 2 = 1) && within 1 28800 (fieldLE p 4 4) && nonceValid s (bslice p 16 32) &&
    decide (bslice p 48 16 = deviceSerial) &&
    ((tget s.pair.arr.opKeys (fieldLE p 10 2)).map (fun k => pssVerify k (p.take 72) (p.drop 72))).getD false

/-- A failed SESSION_OPEN is counted; the fifth within 10 minutes starts the refusal of R46. -/
def openFailed (s : State) : State :=
  let now := optime s
  let times := now :: s.kiosk.failTimes.filter (fun t => decide (now ≤ t + 600))
  { s with kiosk := { s.kiosk with failTimes := times, lockout := s.kiosk.lockout || decide (5 ≤ times.length) } }

/-- A token that fails a check: an event, and the failure is counted (R46). -/
def sessFails (s : State) : State := note 1 7 2 (openFailed s)

/-- SESSION_OPEN through mailbox n. DESIGN CHOICE (log entry 117): one that the refusal of R46 or an open session turns away
does not use up its nonce. -/
def openH (n : Nat) (p : Bytes) (s : State) : BAns × State :=
  if s.kiosk.lockout then refuse .denied s
  else match s.kiosk.session with
    | some x =>
      let r : BRes := { status := .resourceClaimed, payload := holderRecord 0 (if x.path = .smbus then 1 else 0) 0 (0x0100 + x.mailbox) }
      (.now r, openFailed s)
    | none =>
      let good := tokenOk s p
      let s := pkaSubmit 0 (useNonce (bslice p 16 32) s)
      if !good then refuse .denied (sessFails s)
      else
        let h := Config.sessionHandle s.kiosk.sessCount % 2 ^ 32
        let t := optime s + fieldLE p 4 4
        let x : Session := {
            handle := h, scope := BitVec.ofNat 16 (fieldLE p 8 2), path := (mbxOf s n).ringPath, mailbox := n,
            expiry := t, key := fieldLE p 10 2 }
        let s := { s with kiosk := { s.kiosk with session := some x, sessCount := s.kiosk.sessCount + 1 } }
        (.now (.ok (leN 4 h ++ leN 4 t)), note 1 5 0 s)

/-- SESSION_CLOSE through mailbox n: it closes the session that its header names. -/
def closeH (n : Nat) (_p : Bytes) (s : State) : BAns × State :=
  let named := ((mbxOf s n).msg.map (fun m => m.session)).getD 0
  match s.kiosk.session with
  | some x => (.now .ok, if x.handle = named then sessionEnd s else s)
  | none => (.now .ok, s)

def execSessionChallenge (n : Fin 64) (s : State) : Res :=
  .next (settle (basmos n 0x0110 (layoutIs 0 []) challengeH s))
/-- SESSION_OPEN as the Lodge runs it: one whose payload has not the token's layout is a failed one too (R43, R46). -/
def sessionOpen (n : Nat) (s : State) : State :=
  let m := mbxOf s n
  let malformed := (m.msg.map (fun x => decide (x.opcode = 0x0111) && !tokenLayout x.payload)).getD false
  let runs := decide (m.state = .running) && !m.longRun && !m.cancel
  basmos n 0x0111 tokenLayout (openH n) (if runs && malformed && !s.kiosk.lockout then openFailed s else s)

def execSessionOpen (n : Fin 64) (s : State) : Res := .next (settle (sessionOpen n s))
def execSessionClose (n : Fin 64) (s : State) : Res := .next (settle (basmos n 0x0112 (layoutIs 0 []) (closeH n) s))

/-! ### The claim table (R52, R55) -/

/-- Every claim as key and holder, in order of class and index. Cipher slots that hold a key are claims of the Lodge key
manager, Lodge function 0x0008 (R389). -/
def allClaims (s : State) : List (Nat × Nat) :=
  let rows := s.kiosk.claims.map (fun e => (e.1, e.2.holder))
  let slots := (s.sec.slots.filter (fun e => !e.2.key.isEmpty)).map (fun e => (claimKey 5 e.1, 8))
  rows.filter (fun e => decide (e.1 < claimKey 5 0)) ++ slots ++ rows.filter (fun e => decide (claimKey 5 0 ≤ e.1))

/-- CLAIM_LIST. -/
def claimListH (p : Bytes) (s : State) : BAns × State :=
  let cls := fieldLE p 0 1
  let start := claimKey (max cls 1) (fieldLE p 2 2)
  if 7 < cls then refuse .invalidField s
  else
    let hits := (allClaims s).filter (fun e => decide (start ≤ e.1) && (decide (cls = 0) || decide (e.1 / 65536 = cls)))
    let next := match (hits.drop 53).head? with
      | some e => leN 1 (e.1 / 65536) ++ zeros 1 ++ leN 2 (e.1 % 65536)
      | none => leN 4 0xFFFFFFFF
    let body := (hits.take 53).foldl (fun b e => b ++ holderRecord (e.1 / 65536) 0 (e.1 % 65536) e.2) []
    (.now (.ok (leN 2 (hits.take 53).length ++ zeros 2 ++ next ++ body)), s)

/-- CLAIM_REVOKE: the claim is released, the resource disabled, and an event recorded. Lodge functions 0x0001 to 0x000F keep
theirs. A claim laid over another by R54 gives up its own enable bits only. -/
def claimRevokeH (p : Bytes) (s : State) : BAns × State :=
  let cls := fieldLE p 0 1
  let idx := fieldLE p 2 2
  if cls = 0 ∨ 7 < cls ∨ claimCount cls ≤ idx then refuse .invalidField s
  else match (allClaims s).find? (fun e => decide (e.1 = claimKey cls idx)) with
    | none => refuse .notFound s
    | some (k, h) =>
      if 1 ≤ h ∧ h ≤ 0x000F then refuse .denied s
      else
        let overlaid := ((tget s.kiosk.claims k).bind (·.under)).isSome
        let s := disableRes (if overlaid then sessionBits cls else 7) cls idx s
        let s := if claimHolder s cls idx = some h then dropClaim cls idx s else s
        (.now .ok, record 1 0x0A 2 (.claim cls idx) (leN 2 h) s)

def execClaimList (n : Fin 64) (s : State) : Res := .next (settle (basmos n 0x0120 (layoutIs 4 [(1, 1)]) claimListH s))
def execClaimRevoke (n : Fin 64) (s : State) : Res :=
  .next (settle (basmos n 0x0121 (layoutIs 4 [(1, 1)]) claimRevokeH s))

/-! ### Enable bits written through the register window (R54) -/

/-- The two users that an arbitration names: the two lowest enabled, or the one that gives way and the one that is left. -/
def arbUsers (old new : BitVec 3) : Nat × Nat :=
  let a := lowestUser new
  if 2 ≤ usersOn new then (a, lowestUser (setBit new a false)) else (lowestUser old, a)

/-- CLAIM_ENABLE_WRITE: the lowest enabled user is served. When two users are enabled, or a holder loses the resource, an
event names the resource, both users and the winner. The claim table names the expert session while a bit that it set
stands. -/
def claimEnable (cls idx : Nat) (en : BitVec 3) (s : State) : State :=
  if cls = 0 ∨ 4 < cls ∨ claimCount cls ≤ idx then s
  else
    let old := enOf s cls idx
    let holder := claimHolder s cls idx
    let other := match holder with
      | some h => if h = 0x0200 then none else some h
      | none => none
    let lost := decide (old ≠ 0) && other.isSome && !en.getLsbD (lowestUser old)
    let s := setEn cls idx en s
    let s := if (2 ≤ usersOn en ∧ en ≠ old) ∨ lost then
        record 1 0x0A 1 (.claim cls idx) (leN 1 (arbUsers old en).1 ++ leN 1 (arbUsers old en).2 ++ leN 1 (servedUser en)) s
      else s
    let added := en &&& ~~~old
    if added &&& sessionBits cls ≠ 0 ∨ (added ≠ 0 ∧ holder.isNone) then
      let under := if other.isSome then other else (tget s.kiosk.claims (claimKey cls idx)).bind (·.under)
      { s with kiosk := { s.kiosk with claims := tset s.kiosk.claims (claimKey cls idx) { holder := 0x0200, under := under } } }
    else if holder = some 0x0200 ∧ en &&& sessionBits cls = 0 then dropClaim cls idx s
    else if en = 0 then { s with kiosk := { s.kiosk with claims := terase s.kiosk.claims (claimKey cls idx) } }
    else s

def execClaimEnableWrite (cls index : Nat) (en : BitVec 3) (s : State) : Res := .next (settle (claimEnable cls index en s))

/-! ### Function Level Reset (R422, Table 2.8) -/

/-- The MSI-X table at reset: every entry masked. -/
def msixReset : Mem := (List.range 64).map (fun n => (16 * n + 12, 1#8))

/-- A mailbox at a Function Level Reset: a posted request is dropped, a running one runs on with its response discarded. The
request and response areas keep their bytes (R35). -/
def flrMbx (n : Nat) (m : Mbx) : Mbx :=
  if n = 63 ∧ m.holder = 2 then m
  else match m.state with
    | .running => { m with
        vector := BitVec.ofNat 6 n, irqEn := false, ringBusy := false, writeBusy := false, claimLost := false
        hwTimeout := false, discard := true, holder := 0 }
    | _ => { vector := BitVec.ofNat 6 n, ringNo := m.ringNo, req := m.req, resp := m.resp }

/-- The control port's function is reset: mailboxes, MSI-X and the event vector; a session it opened closes. -/
def functionReset (s : State) : State :=
  let k := s.kiosk
  let s := { s with kiosk := { k with
    mbx := tmap flrMbx k.mbx, evtVector := 0, evtEn := false, msixTab := msixReset, msixPba := 0 } }
  match s.kiosk.session with
  | some x => if x.path = .controlPort then sessionEnd s else s
  | none => s

def execFunctionLevelReset (s : State) : Res := .next (settle (functionReset s))

/-! ### Keys that end a session (R395, R406) -/

def execKeyZeroise (n : Fin 64) (s : State) : Res :=
  .next (settle (basmos n 0x0801 (layoutIs 12 [(1, 3)]) (keyZeroiseH (claimant n false) sessionEnd) s))
def execOperatorKeyRegister (n : Fin 64) (s : State) : Res :=
  .next (settle (basmos n 0x0803 opKeyLayout (opKeyH sessionEnd) s))

end Sys2Proof.Machine
end

