-- ==== Sys2Proof/Machine/SysRows.lean ====
section
/-!
DEFINITION. Machine/SysRows.lean: the system and power commands of the Lodge (R49, R430 to R435).
-/
namespace Sys2Proof.Machine

/-! ### SYS_INFO and JOB_STATUS (R49) -/

/-- The role byte: 0 A, 1 B, 0xFF unpaired. -/
def roleByte (s : State) : Nat := if s.pair.state = 0 then 0xFF else (s.pair.role.map Role.num).getD 0xFF

/-- SYS_INFO. -/
def sysInfoH (_p : Bytes) (s : State) : BAns × State :=
  (.now (.ok (deviceSerial ++ leN 1 1 ++ [Config.siliconRev] ++ leN 2 1 ++ leN 4 (runningFw s) ++ leN 1 s.sec.running ++
    leN 1 (roleByte s) ++ leN 4 (optime s) ++ leN 4 s.gh.pwrCycle ++ zeros 30)), s)

/-- JOB_STATUS: a finished job's result is reported once (R37). -/
def jobStatusH (p : Bytes) (s : State) : BAns × State :=
  match s.kiosk.jobs.find? (fun e => decide (jobNo e.1 = fieldLE p 0 4)) with
  | none => refuse .notFound s
  | some (k, j) =>
    let res := if j.finished then j.result else []
    let head := leN 4 (jobNo k) ++ leN 1 (b2n j.finished) ++ leN 1 (if j.finished then j.status.code else 0) ++
      leN 1 (if j.finished ∧ j.progress ≠ 0xFF then 100 else j.progress) ++ zeros 1 ++ leN 2 res.length ++ zeros 2
    (.now (.ok (head ++ res)),
      if j.finished then { s with kiosk := { s.kiosk with jobs := terase s.kiosk.jobs k } } else s)

/-! ### Power policy and status (R430, R431) -/

/-- The record that PWR_STATE_POLICY returns. -/
def policyRecord (op : Nat) (q : PwrPolicy) : Bytes :=
  leN 1 op ++ leN 1 q.target ++ leN 2 q.idleMin ++ leN 2 q.idleGbs ++ leN 2 q.dormantAfterMin ++ leN 2 q.wakeEveryH ++
    leN 1 q.wakeEn ++ zeros 5

/-- Timer 7 wakes the head every so many hours, as user 0 (Lodge function 0x0003); with 0 it is released (R428). -/
def policyTimer (hours : Nat) (s : State) : State :=
  let t := timerOf s 7
  if hours = 0 then
    if claimHolder s 2 7 = some 3 then dropClaim 2 7 (setEn 2 7 (setBit t.en 0 false) s) else s
  else
    let s := setTimer 7 { t with periodic := true, wake := true, prescale := true } s
    timerCompare 7 (BitVec.ofNat 32 (hours * 3600)) (setEn 2 7 (setBit t.en 0 true) (setClaim 2 7 3 s))

/-- PWR_STATE_POLICY. -/
def powerPolicyH (p : Bytes) (s : State) : BAns × State :=
  let op := fieldLE p 0 1
  let q : PwrPolicy := { target := fieldLE p 1 1, idleMin := fieldLE p 2 2, idleGbs := fieldLE p 4 2, dormantAfterMin := fieldLE p 6 2, wakeEveryH := fieldLE p 8 2, wakeEn := fieldLE p 10 1 }
  if op = 0 then (.now (.ok (policyRecord 0 s.ghx.policy)), s)
  else if 1 < op ∨ 2 < q.target ∨ !within 1 1440 q.idleMin ∨ 400 < q.idleGbs ∨ 10080 < q.dormantAfterMin ∨
      720 < q.wakeEveryH ∨ !within 1 31 q.wakeEn then refuse .invalidField s
  else if q.wakeEveryH ≠ 0 ∧ !claimFree s 2 7 3 then (.now (claimedBy 2 7 ((claimHolder s 2 7).getD 0)), s)
  else
    let s := policyTimer q.wakeEveryH { s with ghx := { s.ghx with policy := q } }
    let s := if s.kiosk.forced.contains 0x0312 then s else { s with gh := { s.gh with wakeEn := BitVec.ofNat 5 q.wakeEn } }
    (.now (.ok (policyRecord 1 q)), s)

/-- GH_RST_CAUSE. -/
def rstCause (s : State) : Nat :=
  b2n s.gh.rstPwron + 2 * b2n s.gh.rstWarm + 4 * b2n s.gh.rstHead + 8 * b2n s.gh.rstWdog + 16 * b2n s.gh.rstStrap

/-- PWR_STATUS. The estimate is the sum over the rails of voltage times current. -/
def powerStatusH (_p : Bytes) (s : State) : BAns × State :=
  let forced := s.kiosk.forced.any (fun o => decide (o / 256 = 3))
  let flags := b2n s.gh.faultLow + 2 * b2n s.gh.keepFell + 4 * b2n s.gh.xtalFail + 8 * b2n forced
  let ma (r : Nat) := s.gh.ma.getD r 0
  let rails := [0, 1, 2].foldl (fun b r => b ++ leN 2 (mvOf s r) ++ leN 2 (ma r)) []
  let mw := sumBy (fun r => mvOf s r * ma r / 100) [0, 1, 2]
  (.now (.ok (leN 1 s.gh.state.code ++ leN 1 s.gh.target ++ leN 1 flags ++ leN 1 s.gh.wakeEn.toNat ++ leN 2 s.ghx.lastWake ++
    leN 1 (rstCause s) ++ leN 1 s.ghx.failedWakes ++ rails ++ leN 4 s.gh.hours ++ leN 2 s.gh.seconds ++ zeros 2 ++
    leN 4 s.gh.pwrCycle ++ leN 4 mw ++ zeros 12)), s)

/-! ### PWR_STATE_FORCE, AVS_SET, WAKE_SOURCE_SET, HEAD_RESET (R432 to R435) -/

/-- A job that ends at once: the head is already in the state asked for. -/
def alreadyThere (s : State) : BAns × State := withJob 0x0310 0 0 s (fun k s => finishJob k .success [] s)

/-- PWR_STATE_FORCE, with the refusals of Table 15.1; BUSY while a transition runs (R407). -/
def powerForceH (p : Bytes) (s : State) : BAns × State :=
  let t := fieldLE p 0 1
  let start (why : Option Status) (f : Nat → State → State) : BAns × State :=
    match why with
    | some st => refuse st s
    | none => withJob 0x0310 t 0 s f
  if 2 < t then refuse .invalidField s
  else if s.ghx.trans ≠ .none then refuse .busy s
  else match s.gh.state, t with
    | .serve, 0 => alreadyThere s
    | .serve, _ => start (sleepRefused s) (fun k s => startSleep t 0x0310 (some k) s)
    | .watch, 0 => start none (fun _ s => startWake s)
    | .watch, 1 => alreadyThere s
    | .watch, _ => start (dormantRefused s) (fun k s => startDormant (some k) s)
    | _, _ => refuse .busy s

/-- AVS_SET through mailbox n: answered once the rail has moved. Outside Serve the rails belong to a sequence: BUSY. -/
def avsSetH (n : Nat) (p : Bytes) (s : State) : BAns × State :=
  let r := fieldLE p 0 1
  if 2 < r then refuse .invalidField s
  else
    let mv := if fieldLE p 2 2 = 0 then svcOf s r else fieldLE p 2 2
    if !inService r mv then refuse .invalidField s
    else if avsBusy s ∨ s.gh.state ≠ .serve then refuse .busy s
    else (.later, pushAvs r mv (.set n (mvOf s r)) s)

/-- WAKE_SOURCE_SET. -/
def wakeSourceH (p : Bytes) (s : State) : BAns × State :=
  let en := fieldLE p 0 1
  let t := fieldLE p 1 1
  let g := fieldLE p 2 1
  let flags := fieldLE p 3 1
  if !within 1 31 en ∨ 3 < flags ∨ (6 < t ∧ t ≠ 255) ∨ (15 < g ∧ g ≠ 255) ∨ (en.testBit 3 ∧ t = 255) ∨ (en.testBit 4 ∧ g = 255) then
    refuse .invalidField s
  else if t ≠ 255 ∧ !claimFree s 2 t 0x0200 then (.now (claimedBy 2 t ((claimHolder s 2 t).getD 0)), s)
  else if g ≠ 255 ∧ !claimFree s 1 g 0x0200 then (.now (claimedBy 1 g ((claimHolder s 1 g).getD 0)), s)
  else
    let s := if t = 255 then s else
      let s := setTimer t { timerOf s t with periodic := flags.testBit 0, prescale := flags.testBit 1, wake := true } s
      timerCompare t (BitVec.ofNat 32 (fieldLE p 4 4)) (setEn 2 t (setBit (timerOf s t).en 1 true) (setClaim 2 t 0x0200 s))
    let s := if g = 255 then s else
      let s := setEn 1 g (setBit (gpioOf s g).en 1 true) (setClaim 1 g 0x0200 s)
      setGpio g { gpioOf s g with func := 2 } s
    (.now .ok, force 0x0312 { s with gh := { s.gh with wakeEn := BitVec.ofNat 5 en } })

/-- HEAD_RESET: mode 0 resets 10 ms after its response; mode 1 hands every volume over first. -/
def headResetH (p : Bytes) (s : State) : BAns × State :=
  let mode := fieldLE p 0 1
  if 1 < mode then refuse .invalidField s
  else if mode = 0 then (.now .ok, { s with ghx := { s.ghx with pendingReset := true } })
  else if s.pair.state ≠ 3 then refuse .peerAbsent s
  else if s.pair.handover.isSome then refuse .busy s
  else withJob 0x0105 0 0 s (fun k s => startHandover (myVols s) true 0x0105 (some k) s)

/-! ### The commands -/

def execSysInfo (n : Fin 64) (s : State) : Res := .next (settle (basmos n 0x0100 (layoutIs 0 []) sysInfoH s))
def execJobStatus (n : Fin 64) (s : State) : Res := .next (settle (basmos n 0x0102 (layoutIs 4 []) jobStatusH s))
def execHeadReset (n : Fin 64) (s : State) : Res := .next (settle (basmos n 0x0105 (layoutIs 4 [(1, 3)]) headResetH s))
def execPwrStatePolicy (n : Fin 64) (s : State) : Res :=
  .next (settle (basmos n 0x0301 (layoutIs 16 [(11, 5)]) powerPolicyH s))
def execPwrStatus (n : Fin 64) (s : State) : Res := .next (settle (basmos n 0x0302 (layoutIs 0 []) powerStatusH s))
def execPwrStateForce (n : Fin 64) (s : State) : Res :=
  .next (settle (basmos n 0x0310 (layoutIs 4 [(1, 3)]) powerForceH s))
def execAvsSet (n : Fin 64) (s : State) : Res := .next (settle (basmos n 0x0311 (layoutIs 4 [(1, 1)]) (avsSetH n) s))
def execWakeSourceSet (n : Fin 64) (s : State) : Res := .next (settle (basmos n 0x0312 (layoutIs 8 []) wakeSourceH s))

end Sys2Proof.Machine
end

