-- ==== Sys2Proof/Machine/Health.lean ====
section
/-!
DEFINITION. Machine/Health.lean: errors and self-tests, ageing, SYS_HEALTH, and the staging and activation of firmware
(R118, R119, R404, R436 to R439, R449 to R451, R456, Tables 16.2 to 16.4).
-/
namespace Sys2Proof.Machine

/-! ### Subjects (Table 16.2) -/

/-- The cores of an engine (Table 1.8); 5 to 8 have one instance. -/
def engineCores (e : Nat) : Nat :=
  if e = 1 then 96 else if e = 2 ∨ e = 3 then 48 else if e = 4 then 32 else if 5 ≤ e ∧ e ≤ 8 then 1 else 0

/-- The blocks that hold SRAM: the high byte of an expert base (Table 2.16), or 0x01 for the Lodge. -/
def sramBlocks : List Nat := [0x01, 0x10, 0x11, 0x12, 0x20, 0x21, 0x22, 0x30, 0x38, 0x39, 0x40, 0x41, 0x50, 0x60, 0x70]

/-- The resource that the 8 bytes of a subject of class 1 to 5 name, if they name one (R456). -/
def subjectOf (s : State) (p : Bytes) : Option Subject :=
  let f (off n : Nat) : Nat := fieldLE p off n
  match f 0 1 with
  | 1 => if sramBlocks.contains (f 1 1) ∧ zeroAt p 6 2 then some (.sramRow (f 1 1) (f 2 2) (f 4 2)) else none
  | 2 =>
    if f 1 1 < 24 ∧ (rankOf (dmcOf s (f 1 1)) (f 2 1)).present ∧ f 3 1 < 32 ∧ f 4 3 < 2 ^ Config.dimmRowBits ∧ zeroAt p 7 1 then
      some (.dramRow (f 1 1) (f 2 1) (f 3 1) (f 4 3))
    else none
  | 3 => if f 1 2 < 1024 ∧ zeroAt p 3 5 then some (.sledLane (f 1 2)) else none
  | 4 => if f 2 1 < engineCores (f 1 1) ∧ zeroAt p 3 5 then some (.engineCore (f 1 1) (f 2 1)) else none
  | 5 =>
    let port := f 1 1 * 32 + f 2 1
    let inside := ((tget s.sleds.sledRec port).map (fun r => decide (f 3 1 < r.dies ∧ f 4 2 < r.blocks))).getD (decide (f 3 1 < 128))
    if f 1 1 < 32 ∧ f 2 1 < 32 ∧ inside ∧ zeroAt p 6 2 then some (.flashBlock (f 1 1) (f 2 1) (f 3 1) (f 4 2)) else none
  | _ => none

/-- The number by which a job names its subject. -/
def subjectNo (x : Subject) : Nat := leVal (subjectBytes x)

/-! ### Errors (R436) -/

/-- ERROR_SIGNAL: the Lodge records the error and starts the resource's self-test. -/
def errorSignalled (cls subsystem : Nat) (subj : Subject) (s : State) : State :=
  match subj with
  | .sramRow _ _ _ | .dramRow _ _ _ _ | .sledLane _ | .engineCore _ _ | .flashBlock _ _ _ _ => errorOn subsystem cls subj [] s
  | _ => record subsystem 1 cls subj [] s

/-! ### Verdicts (R439, Tables 16.3, 16.4) -/

/-- The transient verdicts that the event records hold for a resource within the last 24 hours, that long ago included. -/
def transients (s : State) (subj : Subject) : Nat :=
  let rs := s.evt.log ++ s.evt.recs.filter (fun r => !(s.evt.log.any (fun q => q.seq = r.seq)))
  let now := optime s
  sumBy (fun r =>
    let t := r.hours * 3600 + r.seconds
    if r.typ = 0x0902 ∧ r.cls = 1 ∧ r.subject = subj then
      if now ≤ t + 86400 then 1 + r.repeats else if 0 < r.repeats ∧ now ≤ t + r.lastSeen + 86400 then 1 else 0
    else 0) rs

/-- A single-instance engine is lost: the head hands its volumes over and stays fenced. -/
def engineGone (e : Nat) (s : State) : State :=
  handOffFenced (record 9 3 4 (.engineCore e 0) [] { s with evt := { s.evt with engineLost := true } })

/-- The action on a lasting verdict (Table 16.3). Whether a soft repair remains on the device is free (log entry 7). -/
def lastingAction (subj : Subject) (s : State) : State :=
  match subj with
  | .sramRow b m _ =>
    let k := b * 65536 + m
    let used := tgetD s.evt.sramSpares k 0
    if used < 4 then
      restored subj { s with evt := { s.evt with
        sramSpares := tset s.evt.sramSpares k (used + 1), rowsSpared := satAdd 16 s.evt.rowsSpared 1 } }
    else { s with evt := { s.evt with unitsRetired := subj :: s.evt.unitsRetired.filter (fun x => decide (x ≠ subj)) } }
  | .dramRow c r _ _ =>
    let left := Config.dimmSoftRepair && decide (freeNat s % 2 = 1)
    let s := draw s
    if left then restored subj { s with evt := { s.evt with rowsSpared := satAdd 16 s.evt.rowsSpared 1 } }
    else
      let rows := subj :: s.evt.dramRowsStopped.filter (fun x => decide (x ≠ subj))
      let here := rows.countP (fun x => match x with
        | .dramRow c' r' _ _ => decide (c' = c ∧ r' = r)
        | _ => false)
      let s := { s with evt := { s.evt with dramRowsStopped := rows } }
      if 8 ≤ here then rankOut c r s else s
  | .sledLane p => loseSled (p / 32) (p % 32) (portEnable p false s)
  | .engineCore e c =>
    if s.evt.coresRetired.contains (e, c) then s
    else
      let s := { s with evt := { s.evt with coresRetired := (e, c) :: s.evt.coresRetired } }
      if e = 8 then { s with sec := { s.sec with rngHalted := true, rngReady := false } }
      else if 5 ≤ e then engineGone e s
      else s
  | .flashBlock g sl die block => retireBlock (g * 32 + sl) die block s
  | .keySlot false k => { s with sec := { s.sec with slots := tset s.sec.slots k { retired := true } } }
  | _ => s

/-- The next waiting test takes a free place. -/
def nextTest (s : State) : State :=
  match s.evt.waiting.find? (fun t => !atErase t.subject) with
  | none => s
  | some t =>
    if 64 ≤ s.evt.running.length then s
    else { s with evt := { s.evt with
      running := s.evt.running ++ [t], waiting := s.evt.waiting.filter (fun x => decide (x.subject ≠ t.subject))
      tests := satAdd 32 s.evt.tests 1 } }

/-- SELFTEST_VERDICT. A pass is transient, unless it is the third within 24 hours; a test asked for with no error behind it
counts nothing when it passes. An abandoned test gives no verdict and runs before the resource's next use. Every job that
asked for this test ends. -/
def verdict (subj : Subject) (v : Verdict) (mismatches : Nat) (s : State) : State :=
  match s.evt.running.find? (fun t => decide (t.subject = subj)) with
  | none => s
  | some t =>
    let code := match v with
      | .pass => 0
      | .fail => 1
      | .abandoned => 2
    let s := { s with evt := { s.evt with running := s.evt.running.filter (fun x => decide (x.subject ≠ subj)) } }
    let s := finishJobs (fun j => decide (j.opcode = 0x0912 ∧ j.subj = subjectNo subj)) .success
      (leN 1 code ++ leN 2 mismatches) s
    let detail := leN 4 (t.errSeq.getD 0) ++ leN 1 code ++ leN 1 (b2n t.waited)
    let lasting := decide (v = .fail) || (t.errSeq.isSome && decide (2 ≤ transients s subj))
    let s := if v = .abandoned then
        if t.errSeq.isSome then { s with evt := { s.evt with waiting := s.evt.waiting ++ [t] } } else s
      else if lasting then
        lastingAction subj (record 9 2 2 subj detail { s with evt := { s.evt with lasting := satAdd 16 s.evt.lasting 1 } })
      else if t.errSeq.isSome then
        restored subj (record 9 2 1 subj detail { s with evt := { s.evt with transient := satAdd 16 s.evt.transient 1 } })
      else s
    nextTest s

/-- SELFTEST_RUN: a test of the same resource that waits or runs is shared. -/
def selftestH (p : Bytes) (s : State) : BAns × State :=
  match subjectOf s p with
  | none => refuse .invalidField s
  | some subj =>
    let go : BAns × State := withJob 0x0912 (subjectNo subj) 0 s (fun _ s => startTest subj none s)
    match subj with
    | .sledLane p => if (shelfOf s (p / 32)).st ≠ .awake then refuse .busy s else go
    | .flashBlock g sl die block =>
      if (shelfOf s g).st ≠ .awake then refuse .busy s
      else if !programmedHere s (g * 32 + sl) die block ∧ !ownsGroup s (block / 64) then refuse .notOwner s
      else go
    | _ => go

/-! ### Ageing (R449, R450) -/

/-- The margins of rail r by day, newest first. -/
def marginDays (s : State) (r : Nat) : List (Nat × Nat) :=
  s.ghx.dailyMargins.map (fun (d, a, b, c) => (d, if r = 0 then a else if r = 1 then b else c))

/-- The days until the least-squares line through the daily margins reaches 0: none where it does not fall. -/
def daysLeft (s : State) (r : Nat) : Option Nat :=
  let pts := marginDays s r
  let n : Int := pts.length
  let sum (f : Nat × Nat → Nat) : Int := (sumBy f pts : Nat)
  let sd := sum (·.1)
  let sm := sum (·.2)
  let sdm := sum (fun x => x.1 * x.2)
  let sdd := sum (fun x => x.1 * x.1)
  let num := n * sdm - sd * sm
  let den := n * sdd - sd * sd
  if den ≤ 0 ∨ 0 ≤ num then none
  else
    let day := (sm * den - num * sd) / (n * -num)
    some (day - (optime s / 86400 : Nat)).toNat

/-- The projected years to exhaustion, 0xFFFF beyond 60. -/
def yearsLeft (s : State) (r : Nat) : Nat :=
  match daysLeft s r with
  | some d => if 60 < d * 100 / 36525 then 0xFFFF else d * 100 / 36525
  | none => 0xFFFF

/-- The margin of rail r. -/
def marginOf (s : State) (r : Nat) : Nat := railHigh r - svcOf s r

/-- Raise the service voltage of rail r by 5 mV within its window; a rail that AVS_SET holds moves when that lapses. -/
def raiseRail (r : Nat) (s : State) : State :=
  let old := svcOf s r
  let mv := min (railHigh r) (old + 5)
  let s := { s with ghx := { s.ghx with svc := s.ghx.svc.set r mv } }
  if s.gh.state = .serve ∧ mvOf s r = old then pushAvs r mv .firmware s else s

/-- PATH_MONITOR_READ: the slack in ps of each path monitor, by rail. -/
def pathMonitors (slack : List (Nat × Nat)) (s : State) : State :=
  let short (r : Nat) : Bool := slack.any (fun x => decide (x.1 = r ∧ x.2 < 15))
  let out := [0, 1, 2].any (fun r => short r && decide (marginOf s r = 0))
  let s := [0, 1, 2].foldl (fun s r => if short r ∧ marginOf s r ≠ 0 then raiseRail r s else s) s
  let warn := [0, 1, 2].any (fun r => decide (marginOf s r < 30) || (match daysLeft s r with
    | some d => decide (d * 100 ≤ 73050)
    | none => false))
  let s := if warn ∧ !s.evt.ageingWarn then note 9 6 2 s else s
  let s := { s with evt := { s.evt with ageingWarn := warn } }
  if out ∧ !s.evt.ageingOut then handOffFenced (note 9 6 4 { s with evt := { s.evt with ageingOut := true } }) else s

/-! ### SYS_HEALTH (R451) -/

/-- SYS_HEALTH. -/
def sysHealthH (_p : Bytes) (s : State) : BAns × State :=
  let e := s.evt
  let x := s.ghx
  let flags := b2n e.engineLost + 2 * b2n s.gh.faultLow + 4 * b2n e.ageingOut + 8 * b2n e.ageingWarn
  let over95 := sumBy (fun b => if 95 < b.1 then b.2 else 0) x.tjBands / 3600
  let rails := [0, 1, 2].foldl (fun b r => b ++ leN 2 (marginOf s r) ++ leN 2 (yearsLeft s r)) []
  (.now (.ok (leN 1 (maxBy (fun u => u.2) e.unrestored) ++ leN 1 flags ++ zeros 2 ++
    (List.range 5).foldl (fun b c => b ++ leN 4 (min (e.counts.getD c 0) (2 ^ 32 - 1))) [] ++ leN 4 e.tests ++ leN 2 e.transient ++
    leN 2 e.lasting ++ leN 2 e.coresRetired.length ++ leN 2 e.rowsSpared ++ rails ++ leN 2 (x.tjSum * 10 / max 1 x.tjSecs) ++
    leN 2 x.tjMax ++ leN 4 over95 ++ leN 4 x.over105 ++ zeros 4)), s)

/-! ### Firmware (R118, R404) -/

/-- The layout of FW_STAGE: slot, flags, two reserved bytes, the image length and the image. -/
def fwLayout (p : Bytes) : Bool :=
  decide (8 ≤ p.length) && decide (p.length = 8 + fieldLE p 4 4) && zeroAt p 2 2

/-- Does an image pass steps 2 to 4 of Table 14.13 and both hashes? -/
def imageOk (s : State) (m : Bytes) : Bool :=
  let l1 := fieldLE m 16 4
  let l2 := fieldLE m 20 4
  let key := fieldLE m 7 1
  let modulus := bslice m 128 512
  decide (fieldLE m 0 4 = 0x4C4B494D) && decide (fieldLE m 4 2 = 1) && decide (fieldLE m 6 1 = 1) && decide (key ≤ 3) &&
    decide (sha512 modulus = (List.range 64).map (Config.signHashByte key)) && !Config.signRevoked key &&
    pssVerify modulus (m.take 640) (bslice m 640 512) && decide (fieldLE m 8 4 ≤ 64) && decide (s.sec.fuseCount ≤ fieldLE m 8 4) &&
    decide (l1 ≤ 2 ^ 22) && decide (4096 + l1 + l2 ≤ m.length) && zeroAt m 24 40 &&
    decide (sha512t256 (bslice m 4096 l1) = bslice m 64 32) && decide (sha512t256 (bslice m (4096 + l1) l2) = bslice m 96 32)

/-- FW_STAGE. The job clears the slot's confirmed flag, checks the image, programs it and writes the boot control record;
readOk says whether one of the two read-backs agreed. -/
def fwStageH (readOk : Bool) (p : Bytes) (s : State) : BAns × State :=
  let slot := fieldLE p 0 1
  let commit := fieldLE p 1 1
  let m := p.drop 8
  if 1 < slot ∨ 1 < commit ∨ m.length < 1152 ∨ 25165824 < m.length then refuse .invalidField s
  else if slot = s.sec.running then refuse .denied s
  else withJob 0x0103 slot commit s (fun k s =>
    let s := setBoot slot { bootSlot s slot with confirmed := false } s
    if !imageOk s m then finishJob k .denied [] (record 8 4 2 .none (laterFormat 7 (fieldLE m 4 2)) (pkaSubmit 0 s))
    else if !readOk then
      finishJob k .mediaError [] (pkaSubmit 0 (setBoot slot { bootSlot s slot with present := false, bodyOk := false } s))
    else
      let l1 := fieldLE m 16 4
      let b : BootSlot := {
        present := true, bodyOk := true, attempts := 0, confirmed := false, commit := decide (commit = 1)
        security := fieldLE m 8 4, version := some (fieldLE m 12 4)
        digests := some (sha512 (bslice m 4096 l1), sha512 (bslice m (4096 + l1) (fieldLE m 20 4))), lostPref := false }
      finishJob k .success [] (note 8 9 0 (pkaSubmit 0 (setBoot slot b s))))

/-- FW_ACTIVATE: every volume is handed over first; with the alone flag the head restarts at once, which stops service. -/
def fwActivateH (p : Bytes) (s : State) : BAns × State :=
  let slot := fieldLE p 0 1
  let flags := fieldLE p 1 1
  let alone := flags % 2 = 1
  if 1 < slot ∨ 3 < flags then refuse .invalidField s
  else if !alone ∧ s.pair.state ≠ 3 then refuse .peerAbsent s
  else if s.pair.handover.isSome then refuse .busy s
  else withJob 0x0104 slot flags s (fun k s =>
    if alone then { s with
      ghx := { s.ghx with pendingReset := true }, sec := { s.sec with preferred := slot }
      pair := { s.pair with autoFail := decide (flags / 2 % 2 = 1) } }
    else startHandover (myVols s) true 0x0104 (some k) s)

/-! ### The commands -/

def execErrorSignal (cls : Fin 5) (subsystem : Nat) (subject : Subject) (s : State) : Res :=
  .next (settle (errorSignalled cls (subsystem % 256) subject s))
def execSelftestVerdict (subject : Subject) (v : Verdict) (mismatches : Nat) (s : State) : Res :=
  .next (settle (verdict subject v mismatches s))
def execSelftestRun (n : Fin 64) (s : State) : Res := .next (settle (basmos n 0x0912 (layoutIs 8 []) selftestH s))
def execPathMonitorRead (slack : List (Nat × Nat)) (s : State) : Res := .next (settle (pathMonitors slack s))
def execSysHealth (n : Fin 64) (s : State) : Res := .next (settle (basmos n 0x0101 (layoutIs 0 []) sysHealthH s))
def execFwStage (n : Fin 64) (readBackOk : Bool) (s : State) : Res :=
  .next (settle (basmos n 0x0103 fwLayout (fwStageH readBackOk) s))
def execFwActivate (n : Fin 64) (s : State) : Res := .next (settle (basmos n 0x0104 (layoutIs 2 []) fwActivateH s))

end Sys2Proof.Machine
end

