-- ==== Sys2Proof/Machine/HostRows.lean ====
section
/-!
DEFINITION. Machine/HostRows.lean: the commands of the host's side: LAT messages, packets and queue pairs (chapters 03,
05, 06). Each ends with what follows inside the head.
-/
namespace Sys2Proof.Machine

/-- An invalid-request NAK puts a live queue pair into ERROR (R153). -/
def invalidNak (n : Nat) (s : State) : State := if qpLive (qpOf s n) then errorQp n s else s

/-! ### Messages (R130 to R137) -/

def execWrite (qpn : Fin 16384) (tag : Fin 32) (s : State) : Res := .next (settle (runMessage 1 qpn tag s))
def execRead (qpn : Fin 16384) (tag : Fin 32) (s : State) : Res := .next (settle (runMessage 2 qpn tag s))
def execFlush (qpn : Fin 16384) (tag : Fin 32) (s : State) : Res := .next (settle (runMessage 3 qpn tag s))
def execRelease (qpn : Fin 16384) (tag : Fin 32) (s : State) : Res := .next (settle (runMessage 4 qpn tag s))
def execAbort (qpn : Fin 16384) (tag : Fin 32) (s : State) : Res := .next (settle (runMessage 5 qpn tag s))
def execRecall (qpn : Fin 16384) (tag : Fin 32) (s : State) : Res := .next (settle (runMessage 6 qpn tag s))
def execIdentify (qpn : Fin 16384) (tag : Fin 32) (s : State) : Res := .next (settle (runMessage 7 qpn tag s))
def execKeepalive (qpn : Fin 16384) (tag : Fin 32) (s : State) : Res := .next (settle (runMessage 8 qpn tag s))
def execOverlapRelease (asn : Nat) (s : State) : Res := .next (settle (overlapRelease asn s))
def execOrderedBarrierRelease (qpn : Fin 16384) (s : State) : Res := .next (settle (barrierRelease qpn s))
def execMessageTimerExpiry (qpn : Fin 16384) (tag : Fin 32) (s : State) : Res := .next (settle (messageTimer qpn tag s))

/-! ### Queue pairs and packets (R122 to R177) -/

def execDreq (qpn : Fin 16384) (s : State) : Res := .next (settle (dreqIn qpn s))
def execQueueKeepaliveExpiry (qpn : Fin 16384) (s : State) : Res := .next (settle (keepaliveExpiry qpn s))
def execInboundPacket (qpn : Fin 16384) (pkt : Packet) (s : State) : Res := .next (settle (inboundPacket qpn pkt s))
def execTaggedSegment (qpn : Fin 16384) (s : State) : Res := .next (settle (taggedSegment qpn s))
def execPlainSend (qpn : Fin 16384) (s : State) : Res := .next (settle (plainSend qpn s))
def execStagingPageFree (qpn : Fin 16384) (tag : Fin 32) (page : Nat) (s : State) : Res :=
  .next (settle (stagingPageFree qpn tag page s))
def execStagingFaultTimeout (qpn : Fin 16384) (s : State) : Res := .next (settle (stagingFaultTimeout qpn s))
def execContextFetchDone (qpn : Fin 16384) (lineOk : Bool) (s : State) : Res := .next (settle (contextFetchDone qpn lineOk s))
def execOutboundAckTimeout (qpn : Fin 16384) (s : State) : Res := .next (settle (outAckTimeout qpn s))
def execRnrHoldExpiry (qpn : Fin 16384) (s : State) : Res := .next (settle (rnrHoldExpiry qpn s))
def execRemoteAccessErrorNak (qpn : Fin 16384) (psn : Nat) (s : State) : Res := .next (settle (remoteAccess qpn psn s))
def execInvalidRequestNak (qpn : Fin 16384) (s : State) : Res := .next (settle (invalidNak qpn s))
def execPauseFrame (port : Fin 8) (priority : Nat) (pause : Bool) (s : State) : Res :=
  .next (settle (pauseFrame port priority pause s))
def execHostPortLinkChange (port : Fin 8) (up : Bool) (s : State) : Res := .next (settle (portLink port up s))
def execPortConfig (n : Fin 64) (trained : BitVec 8) (s : State) : Res :=
  .next (settle (basmos n 0x0A00 portConfigLayout (portConfigH trained) s))
def execQpReset (n : Fin 64) (s : State) : Res := .next (settle (basmos n 0x0A10 (layoutIs 8 []) qpResetH s))

/-! ### Replication messages (R328 to R330) -/

def execReplicationMessage (qpn : Fin 16384) (tag : Fin 32) (msg : ReplMsg) (s : State) : Res :=
  .next (settle (replMessage qpn tag msg s))
def execReplicationProbe (qpn : Fin 16384) (tag : Fin 32) (relationship batch : Nat) (s : State) : Res :=
  .next (settle (replProbe qpn tag relationship batch s))
def execReplicationCompletion (relationship msgNo : Nat) (status : Status) (durable batchApplied : Nat) (probe : Bool)
    (s : State) : Res := .next (settle (replCompletion relationship msgNo status durable batchApplied probe s))
def execReplicationLinkReply (relationship : Nat) (status : Status) (qpn : Fin 16384) (s : State) : Res :=
  .next (settle (linkReply relationship status qpn s))

/-! ### Snapshots and replication relationships (R332 to R336) -/

def execSnapCreate (n : Fin 64) (s : State) : Res := .next (settle (basmos n 0x0C00 snapCreateLayout snapCreateH s))
def execSnapDelete (n : Fin 64) (s : State) : Res := .next (settle (basmos n 0x0C01 (layoutIs 6 []) snapDeleteH s))
def execSnapList (n : Fin 64) (s : State) : Res := .next (basmos n 0x0C02 (layoutIs 6 []) snapListH s)
def execReplConfig (n : Fin 64) (s : State) : Res := .next (settle (basmos n 0x0C03 replConfigLayout replConfigH s))
def execReplStatus (n : Fin 64) (s : State) : Res := .next (basmos n 0x0C04 (layoutIs 2 []) replStatusH s)
def execReplResync (n : Fin 64) (s : State) : Res := .next (settle (basmos n 0x0C10 (layoutIs 2 []) replResyncH s))

end Sys2Proof.Machine
end

