-- ==== Sys2Proof/Machine/IngestRows.lean ====
section
/-!
DEFINITION. Machine/IngestRows.lean: the reports of the ingest and read engines, journal acknowledgments, commits,
releases, the epoch timer and HOLD_OK (chapters 03, 07, 11).
-/
namespace Sys2Proof.Machine

/-- JOURNAL_WRITE_ACK (R56): the DRAM controller has the record: it lies in a channel write queue (R351). -/
def journalAck (off : Nat) (s : State) : State :=
  modOwn (fun r => decide (r.r.off = off)) (fun r => { r with acked := true }) s

def execFingerprintDone (asn chunk : Nat) (s : State) : Res := .next (settle (fingerprintDone asn chunk s))
def execIndexGroupReadDone (asn chunk : Nat) (ok : Bool) (s : State) : Res := .next (settle (indexGroupDone asn chunk ok s))
def execLookupShed (asn chunk : Nat) (s : State) : Res := .next (settle (lookupShed asn chunk s))
def execVerifyReadDone (asn chunk : Nat) (poisoned : Bool) (s : State) : Res :=
  .next (settle (verifyReadDone asn chunk poisoned s))
def execVerifyShed (asn chunk : Nat) (s : State) : Res := .next (settle (verifyShed asn chunk s))
def execMergeReadDone (asn chunk : Nat) (poisoned : Bool) (s : State) : Res :=
  .next (settle (mergeReadDone asn chunk poisoned s))
def execCompressionDone (asn chunk : Nat) (s : State) : Res := .next (settle (compressionDone asn chunk s))
def execEncryptionDone (asn chunk : Nat) (s : State) : Res := .next (settle (encryptionDone asn chunk s))
def execDecompressionDone (asn chunk : Nat) (s : State) : Res := .next (settle (decompressionDone asn chunk s))
def execJournalWriteAck (off : Nat) (s : State) : Res := .next (settle (journalAck off s))
def execCommitUnitCommit (asn unit : Nat) (s : State) : Res := .next (settle (commitUnit asn unit s))
def execJournalRelease (asn unit : Nat) (s : State) : Res := .next (settle (journalRelease asn unit s))
def execEpochTimerFire (s : State) : Res := .next (settle (epochTimer s))
def execHoldOkFall (s : State) : Res := .next (settle (holdOkFall s))
def execHoldOkRise (s : State) : Res := .next (settle (holdOkRise s))
def execFlashConfirmedExit (s : State) : Res := .next (settle (flashExit s))

end Sys2Proof.Machine
end

