-- ==== Sys2Proof/Machine/Kiosk.lean ====
section
/-!
DEFINITION. Machine/Kiosk.lean: the Kiosk hardware and the Lodge's handling of a request: mailboxes, mailbox 63 over
SMBus, message parts, jobs' and nonces' expiry (chapter 02, R34 to R46).
-/
namespace Sys2Proof.Machine

/-- Table 2.13: the opcodes with their level (true is expert). -/
def opcodeTable : List (Nat × Bool) :=
  [(0x0100, false), (0x0101, false), (0x0102, false), (0x0103, false), (0x0104, false), (0x0105, true),
   (0x0110, false), (0x0111, false), (0x0112, true), (0x0120, false), (0x0121, true),
   (0x0200, false), (0x0201, false), (0x0202, false), (0x0203, false), (0x0210, false), (0x0211, false),
   (0x0212, true), (0x0300, false), (0x0301, false), (0x0302, false), (0x0310, true), (0x0311, true),
   (0x0312, true), (0x0400, false), (0x0401, false), (0x0410, true), (0x0411, true), (0x0412, true),
   (0x0413, true), (0x0500, false), (0x0501, false), (0x0510, true), (0x0511, true), (0x0512, true)] ++
  [(0x0600, false), (0x0610, true), (0x0611, true), (0x0612, true), (0x0700, false), (0x0710, true),
   (0x0711, true), (0x0712, true), (0x0800, false), (0x0801, false), (0x0802, false), (0x0803, false),
   (0x0810, true), (0x0900, false), (0x0901, false), (0x0910, true), (0x0911, true), (0x0912, true),
   (0x0A00, false), (0x0A01, false), (0x0A02, false), (0x0A10, true), (0x0A11, true), (0x0B00, false),
   (0x0B01, false), (0x0B02, false), (0x0B10, true), (0x0B11, true), (0x0C00, false), (0x0C01, false),
   (0x0C02, false), (0x0C03, false), (0x0C04, false), (0x0C10, true), (0x0F00, true), (0x0F01, true),
   (0x0F02, true)]

/-- The level of an opcode, if Table 2.13 lists it. -/
def opcodeLevel (op : Nat) : Option Bool := (opcodeTable.find? (fun e => e.1 = op)).map (·.2)

/-- Is mailbox n busy with a request? -/
def mbxBusy (m : Mbx) : Bool := m.state = .posted || m.state = .running

/-! ### The control port -/

/-- The access is an aligned one of 4 or 8 bytes (R34). -/
def alignedAccess (off len : Nat) : Bool := (decide (len = 4) || decide (len = 8)) && decide (off % len = 0)

/-- A control-port write to mailbox 63 while SMBus holds it is discarded, and claim_lost is set (R40). -/
def heldBySmbus (n : Nat) (m : Mbx) : Bool := decide (n = 63) && decide (m.holder = 2)

/-- R34, R35, R40: a client write to the request area. -/
def mbxRequestWrite (n off : Nat) (data : Bytes) (s : State) : State :=
  let m := mbxOf s n
  if !alignedAccess off data.length then record 1 1 1 .none (leN 1 n ++ leN 2 off ++ leN 2 data.length) s
  else if 512 < off + data.length then s
  else if heldBySmbus n m then setMbx n { m with claimLost := true } s
  else if mbxBusy m then setMbx n { m with writeBusy := true } s
  else setMbx n { m with
    req := memPuts m.req off data, holder := if n = 63 ∧ m.holder = 0 then 1 else m.holder } s

def execMbxRequestWrite (n : Fin 64) (off : Nat) (data : Bytes) (s : State) : Res :=
  .next (mbxRequestWrite n off data s)

/-- Post the request of mailbox n over a path, with the session that is open at the ring (R36 step 3, R47).
DESIGN CHOICE (log entry 115): a ring from DONE on mailbox 63, which acknowledges the old response, keeps the holder, and
a ring while the holder is none posts with holder none. -/
def postRequest (n : Nat) (p : Path) (s : State) : State :=
  let m := mbxOf s n
  let t := s.kiosk.session.map (fun x => ({ handle := x.handle, scope := x.scope, path := x.path } : SessTicket))
  let s := setMbx n { m with
    state := .posted, cancel := false, msg := none, ticket := t, ringPath := p, ringNo := s.kiosk.ringCount } (monBegin 18 n s)
  { s with kiosk := { s.kiosk with
      ringCount := s.kiosk.ringCount + 1
      smbAlert := if n = 63 then false else s.kiosk.smbAlert } }

/-- R36, R40: a write of KSK_MBX_DB.ring. -/
def mbxRing (n : Nat) (s : State) : State :=
  let m := mbxOf s n
  if heldBySmbus n m then setMbx n { m with claimLost := true } s
  else if mbxBusy m then setMbx n { m with ringBusy := true } s
  else postRequest n .controlPort s

def execMbxRing (n : Fin 64) (s : State) : Res := .next (mbxRing n s)

/-- R39: ask that the request of mailbox n end; a POSTED one ends ABORTED at once, a RUNNING one if nothing of it has
been applied, and a cancel in IDLE or DONE is ignored. -/
def cancelRequest (n : Nat) (s : State) : State :=
  match (mbxOf s n).state with
  | .posted => finishStatus n .aborted s
  | .running => setMbx n { mbxOf s n with cancel := true } s
  | _ => s

/-- R39, R40: a write of KSK_MBX_DB.cancel. -/
def mbxCancel (n : Nat) (s : State) : State :=
  if heldBySmbus n (mbxOf s n) then setMbx n { mbxOf s n with claimLost := true } s else cancelRequest n s

def execMbxCancel (n : Fin 64) (s : State) : Res := .next (mbxCancel n s)

/-- Acknowledge a DONE response: IDLE, and mailbox 63 loses its holder and releases SMB_ALERT_N (R36, R40, R42). -/
def ackResponse (n : Nat) (s : State) : State :=
  let m := mbxOf s n
  if m.state ≠ .done then s
  else if n = 63 then
    let s := setMbx n { m with state := .idle, holder := 0 } s
    { s with kiosk := { s.kiosk with smbAlert := false } }
  else setMbx n { m with state := .idle } s

/-- R36, R40: a control-port write of 1 to KSK_MBX_STAT.done. -/
def mbxDoneAck (n : Nat) (s : State) : State :=
  if heldBySmbus n (mbxOf s n) then setMbx n { mbxOf s n with claimLost := true } s else ackResponse n s

def execMbxDoneAck (n : Fin 64) (s : State) : Res := .next (mbxDoneAck n s)

/-! ### The Lodge takes a request -/

/-- The fields of a request header (Table 2.10). -/
structure ReqHeader where
  opcode : Nat
  seq : Nat
  length : Nat
  flags : Nat
  status : Nat
  session : Nat
  part : Nat
  reserved : Nat
  deriving DecidableEq, Repr

/-- Read the request header of a mailbox. -/
def reqHeader (m : Mbx) : ReqHeader :=
  { opcode := reqByte m 0 2, seq := reqByte m 2 2, length := reqByte m 4 2, flags := reqByte m 6 1,
    status := reqByte m 7 1, session := reqByte m 8 4, part := reqByte m 12 2, reserved := reqByte m 14 2 }

def ReqHeader.more (h : ReqHeader) : Bool := h.flags.testBit 1
def ReqHeader.cont (h : ReqHeader) : Bool := h.flags.testBit 2
def ReqHeader.expert (h : ReqHeader) : Bool := h.flags.testBit 0

/-- Is the request the fetch of the next part of the mailbox's long response (R44)? -/
def fetchesPart (m : Mbx) (h : ReqHeader) : Bool :=
  h.cont && !h.more && decide (h.length = 0) && !m.more.isEmpty && m.partial_.isNone &&
    decide (h.opcode = m.moreOp) && decide (h.seq = m.lastSeq.toNat) && decide (h.part = m.morePart)

/-- Are part and cont consistent with the message in progress in the mailbox (R43, R44)? -/
def partConsistent (m : Mbx) (h : ReqHeader) : Bool :=
  match m.partial_ with
  | none => !h.cont && decide (h.part = 0)
  | some p => h.cont && decide (h.part = p.next) && decide (h.opcode = p.opcode) && decide (h.seq = p.seq)

/-- The header checks of R43 that give INVALID_FIELD. DEDUCED (log entry 116): the async flag, which Table 2.10 gives to
responses alone, is refused in a request as a reserved flag is. -/
def headerValid (m : Mbx) (h : ReqHeader) : Bool :=
  decide (opcodeLevel h.opcode = some h.expert) && decide (h.length ≤ 496) && decide (h.status = 0) &&
    decide (h.flags < 8) && decide (h.reserved = 0) && (fetchesPart m h || partConsistent m h)

/-- May the request use its expert session: the one open at its ring, on the same path, within its scope (R43, R47)? -/
def sessionAllows (m : Mbx) (h : ReqHeader) : Bool :=
  match m.ticket with
  | none => false
  | some t => decide (h.session = t.handle) && decide (m.ringPath = t.path) &&
      t.scope.getLsbD (h.opcode / 256 % 16)

/-- The opcodes that claim or release a resource of Table 2.17: SESSION_CLOSE, CLAIM_REVOKE, WAKE_SOURCE_SET, WAY_LOCK,
KEY_WRAPPED_LOAD, KEY_ZEROISE, MON_ARM, and writes of enable bits through the register window (R52, R54). -/
def claimOps : List Nat := [0x0112, 0x0121, 0x0312, 0x0710, 0x0800, 0x0801, 0x0910, 0x0F01, 0x0F02]

/-- Does a mailbox hold a complete claim request that the Lodge has not handled yet? -/
def claimWaits (m : Mbx) : Bool :=
  match m.state with
  | .posted => claimOps.contains (reqHeader m).opcode && !(reqHeader m).more
  | .running => !m.longRun && ((m.msg.map (fun x => claimOps.contains x.opcode)).getD false)
  | _ => false

/-- R53: a claim request waits while one whose doorbell rang earlier is not handled yet. -/
def claimBehind (s : State) (n : Nat) : Bool :=
  claimWaits (mbxOf s n) &&
    s.kiosk.mbx.any (fun e => decide (e.1 ≠ n) && decide (e.2.ringNo < (mbxOf s n).ringNo) && claimWaits e.2)

/-- R36 step 4, R43, R44, R53: the Lodge takes the POSTED request of mailbox n, claims in the order of their rings. A fetch
of a further response part is answered; a non-final part waits for BASMOS_PART; a complete message waits for its
operation. -/
def mbxTake (n : Nat) (s : State) : State :=
  let m := mbxOf s n
  if m.state ≠ .posted ∨ !s.kiosk.lodgeReady ∨ claimBehind s n then s
  else
    let s := setMbx n { m with state := .running } s
    let h := reqHeader m
    if !headerValid m h then finishStatus n .invalidField s
    else if h.expert ∧ !sessionAllows m h then finishStatus n .denied s
    else if fetchesPart m h then
      writePart n h.opcode h.seq (b2n h.expert) h.session Status.success.code false h.part m.more s
    else if h.more then setMbx n { mbxOf s n with partAck := true } s
    else
      let earlier := (m.partial_.map (·.payload)).getD []
      let msg : BMsg :=
        { opcode := h.opcode, seq := h.seq, expert := h.expert, session := h.session,
          payload := earlier ++ memGets m.req 16 h.length }
      setMbx n { mbxOf s n with msg := some msg, partial_ := none, more := [] } s

def execMbxTake (n : Fin 64) (s : State) : Res := .next (mbxTake n s)

/-- The request header of a mailbox as a response: every byte is copied but the length, which is 0, and the status
(R38). -/
def copiedHeader (m : Mbx) (st : Status) : Bytes :=
  memGets m.req 0 4 ++ zeros 2 ++ memGets m.req 6 1 ++ leN 1 st.code ++ memGets m.req 8 8

/-- R38: the Kiosk hardware completes a request that was not taken within 250 ms. -/
def kioskHwTimeout (n : Nat) (s : State) : State :=
  if (mbxOf s n).state ≠ .posted then s
  else
    let s := finishMbx n (copiedHeader (mbxOf s n) .busy) s
    setMbx n { mbxOf s n with hwTimeout := true } s

def execKioskHwTimeout (n : Fin 64) (s : State) : Res := .next (kioskHwTimeout n s)

/-- R44: the Lodge keeps a non-final part and acknowledges it with SUCCESS and length 0. -/
def basmosPart (n : Nat) (s : State) : State :=
  let m := mbxOf s n
  if m.state ≠ .running ∨ !m.partAck then s
  else if m.cancel then finishStatus n .aborted s
  else
    let h := reqHeader m
    let data := memGets m.req 16 h.length
    let p : BPart := match m.partial_ with
      | none => { opcode := h.opcode, seq := h.seq, next := 1, payload := data }
      | some p => { p with next := p.next + 1, payload := p.payload ++ data }
    finishStatus n .success (setMbx n { m with partial_ := some p, more := [] } s)

def execBasmosPart (n : Fin 64) (s : State) : Res := .next (basmosPart n s)

/-- R44: a message whose next part is not posted within 1 s is discarded. -/
def basmosPartTimeout (n : Nat) (s : State) : State :=
  let m := mbxOf s n
  if mbxBusy m then s else setMbx n { m with partial_ := none, more := [] } s

def execBasmosPartTimeout (n : Fin 64) (s : State) : Res :=
  .next (basmosPartTimeout n s)

/-- R37: the result of a finished job goes one hour after it finished. -/
def jobResultExpiry (job : Nat) (s : State) : State :=
  { s with kiosk := { s.kiosk with
      jobs := tfilter (fun k j => !(decide (jobNo k = job) && j.finished)) s.kiosk.jobs } }

def execJobResultExpiry (job : Nat) (s : State) : Res := .next (jobResultExpiry job s)

/-- R45: a nonce becomes invalid 5 minutes after it was issued. -/
def nonceExpiry (k : Nat) (s : State) : State :=
  { s with kiosk := { s.kiosk with nonces := terase s.kiosk.nonces k } }

def execNonceExpiry (k : Nat) (s : State) : Res := .next (nonceExpiry k s)

/-- R46: the 10-minute refusal of SESSION_OPEN ends. -/
def sessionLockoutEnd (s : State) : State :=
  { s with kiosk := { s.kiosk with lockout := false, failTimes := [] } }

def execSessionLockoutEnd (s : State) : Res := .next (sessionLockoutEnd s)

/-! ### Mailbox 63 over SMBus -/

/-- R41: a transaction with a wrong PEC is discarded whole, counted and recorded. -/
def pecFail (s : State) : State :=
  record 1 1 1 .none [] { s with kiosk := { s.kiosk with pecErrors := s.kiosk.pecErrors + 1 } }

/-- The frame of an SMBus command (R40 to R42, R418): a NACKed transaction does nothing; a wrong PEC is counted; a
command other than MB63_STATUS_READ is NACKed at its command byte while the control port holds the mailbox. -/
def smbCommand (pecOk statusRead : Bool) (f : State → State) (s : State) : State :=
  if s.ghx.smbNack ∨ s.ghx.smbStretch then emit (.smbNack 0) s
  else if !statusRead ∧ (mbxOf s 63).holder = 1 then emit (.smbNack 0) s
  else if !pecOk then pecFail s
  else f s

/-- Table 2.9 code 0x01: place data in the request area; SMBus becomes the holder if there is none (R40). -/
def mb63Write (off : Nat) (data : Bytes) (s : State) : State :=
  let m := mbxOf s 63
  if data.isEmpty ∨ 240 < data.length then emit (.smbNack 0) s
  else if 512 < off + data.length then emit (.smbNack (3 + (512 - off))) s
  else if mbxBusy m then setMbx 63 { m with writeBusy := true } s
  else setMbx 63 { m with req := memPuts m.req off data, holder := if m.holder = 0 then 2 else m.holder } s

def execMb63Write (pecOk : Bool) (off : Nat) (data : Bytes) (s : State) : Res :=
  .next (smbCommand pecOk false (mb63Write off data) s)

/-- Table 2.9 code 0x02, data 0x01: ring mailbox 63. -/
def mb63Ring (s : State) : State :=
  let m := mbxOf s 63
  if mbxBusy m then setMbx 63 { m with ringBusy := true } s else postRequest 63 .smbus s

def execMb63DoorbellRing (pecOk : Bool) (s : State) : Res :=
  .next (smbCommand pecOk false mb63Ring s)

def execMb63DoorbellCancel (pecOk : Bool) (s : State) : Res :=
  .next (smbCommand pecOk false (cancelRequest 63) s)

def execMb63DoorbellAck (pecOk : Bool) (s : State) : Res :=
  .next (smbCommand pecOk false (ackResponse 63) s)

/-- KSK_MBX_STAT of mailbox n (Table 2.4). -/
def mbxStat (n : Nat) (m : Mbx) : Word :=
  packW [(3, m.state.code), (1, b2n (m.state = .done)), (12, 0), (1, b2n m.ringBusy), (1, b2n m.writeBusy),
    (1, b2n m.claimLost), (1, b2n m.hwTimeout), (2, if n = 63 then m.holder else 1), (2, 0), (8, m.status.toNat)]

/-- KSK_MBX_CTL (Table 2.5). -/
def mbxCtl (m : Mbx) : Word := packW [(6, m.vector.toNat), (2, 0), (1, b2n m.irqEn)]

/-- KSK_MBX_INFO (Table 2.6). -/
def mbxInfo (m : Mbx) : Word := packW [(9, m.respLen.toNat), (7, 0), (16, m.lastSeq.toNat)]

/-- Table 2.9 code 0x03: KSK_MBX_STAT and KSK_MBX_INFO of mailbox 63. -/
def mb63StatusRead (s : State) : State :=
  let m := mbxOf s 63
  emit (.smbData (leN 4 (mbxStat 63 m).toNat ++ leN 4 (mbxInfo m).toNat)) s

def execMb63StatusRead (pecOk : Bool) (s : State) : Res :=
  .next (smbCommand pecOk true mb63StatusRead s)

/-- Table 2.9 code 0x04: the response-area offset of the next MB63_READ. -/
def mb63ReadOffset (off : Nat) (s : State) : State :=
  { s with kiosk := { s.kiosk with smbOff := BitVec.ofNat 16 off } }

def execMb63ReadOffset (pecOk : Bool) (off : Nat) (s : State) : Res :=
  .next (smbCommand pecOk false (mb63ReadOffset off) s)

/-- Table 2.9 code 0x05, R42: response bytes from the current offset, which advances; a read beyond the response area
is NACKed at the first byte out of range. -/
def mb63Read (count : Nat) (s : State) : State :=
  let m := mbxOf s 63
  let o := s.kiosk.smbOff.toNat
  let k := min (min count 240) (448 - o)
  let s := { s with kiosk := { s.kiosk with smbOff := BitVec.ofNat 16 (o + k) } }
  let s := emit (.smbData (memGets m.resp o k)) s
  if k < count then emit (.smbNack k) s else s

def execMb63Read (pecOk : Bool) (count : Nat) (s : State) : Res :=
  .next (smbCommand pecOk false (mb63Read count) s)

/-- R42: a read of the Alert Response Address that returns the Nesutar's address releases SMB_ALERT_N. -/
def smbusAlertResponse (s : State) : State := { s with kiosk := { s.kiosk with smbAlert := false } }

def execSmbusAlertResponse (s : State) : Res := .next (smbusAlertResponse s)

end Sys2Proof.Machine
end

