-- ==== Sys2Proof/Machine/LinkRows.lean ====
section
/-!
DEFINITION. Machine/LinkRows.lean: the commands of the sled ports: flits, ordered sets, responses of the bridges, notices
and timers (chapter 10).
-/
namespace Sys2Proof.Machine

/-- A READ response (R302). -/
def readResponse (r : SledResp) (s : State) : State :=
  match takeResponse r.port r.tag 1 s with
  | (some w, s) => sledAnswer w r.port r.outcome r.corrected r.data s
  | (none, s) => s

/-- A PROGRAM response (R301). -/
def programResponse (r : SledResp) (s : State) : State :=
  match takeResponse r.port r.tag 2 s with
  | (some w, s) => sledAnswer w r.port r.outcome r.corrected r.data s
  | (none, s) => s

/-- An ERASE response (R303). -/
def eraseResponse (r : SledResp) (s : State) : State :=
  match takeResponse r.port r.tag 3 s with
  | (some w, s) => sledAnswer w r.port r.outcome r.corrected r.data s
  | (none, s) => s

/-- A DIE_STATUS response (R298): a failed die is retired. -/
def dieStatusResponse (r : SledResp) (s : State) : State :=
  match takeResponse r.port r.tag 4 s with
  | (some w, s) =>
    if r.outcome = 5 ∨ (r.outcome = 0 ∧ fieldLE r.detail 0 1 = 2) then retireDie r.port w.cmd.die s
    else oddOutcome r.port r.outcome s
  | (none, s) => s

/-- The sled found in a slot is new: its record is in effect, it is lost no more, and its members are rebuilt (R276, R311). -/
def newSled (p : Nat) (v : SledIdent) (s : State) : State :=
  let s := { s with sleds := { s.sleds with
    sledRec := tset s.sleds.sledRec p v, sledUse := tset s.sleds.sledUse p v } }
  let g := p / 32
  let s := setShelf g { shelfOf s g with lost := (shelfOf s g).lost.filter (· ≠ p % 32) } s
  let q := portOf s p
  let s := setPort p { q with infoOk := true, refused := decide (v.maxTags ≠ q.maxTags) } s
  let s := if v.maxTags ≠ q.maxTags then
      record 5 4 2 (.shelf g) (leN 1 g ++ leN 1 (p % 32) ++ leN 1 6) s else s
  addItem .background (p / 32) (.rebuild (p % 32)) (some 86400) s

/-- A BRIDGE_INFO response (R311): the serial agrees with the record, or the record is read again; any other
disagreement refuses the sled as under reason 6. -/
def bridgeInfoResponse (r : SledResp) (reread : RecordRead) (s : State) : State :=
  let p : Nat := r.port
  match takeResponse p r.tag 5 s with
  | (none, s) => s
  | (some _, s) =>
    if r.outcome ≠ 0 then oddOutcome p r.outcome s
    else
      let serial := bslice r.detail 0 16
      let q := portOf s p
      if (sledFigs s p).map (·.serial) = some serial then
        let s := setPort p { q with infoOk := true } s
        if q.refused then record 5 4 2 (.shelf (p / 32)) (leN 1 (p / 32) ++ leN 1 (p % 32) ++ leN 1 6) s
        else makeUsable p s.plc.alone s
      else match parseSled reread with
        | .inl v =>
          if v.serial = serial then makeUsable p s.plc.alone (newSled p v s)
          else record 5 4 2 (.shelf (p / 32)) (leN 1 (p / 32) ++ leN 1 (p % 32) ++ leN 1 6) (setPort p { q with refused := true } s)
        | .inr _ => takeRecord (p / 32) (p % 32) reread (setPort p { q with refused := true } s)

/-- A PORT_LOCK response (R306): the lock as the bridge reports it. -/
def portLockResponse (r : SledResp) (s : State) : State :=
  let p : Nat := r.port
  match takeResponse p r.tag 6 s with
  | (some _, s) =>
    let s := setPort p { portOf s p with lock := fieldLE r.detail 0 1 % 4 } s
    if r.outcome = 0 then makeUsable p s.plc.alone s else oddOutcome p r.outcome s
  | (none, s) => s

/-- A NOTICE (Table 10.12). Kind 4 says that the lock changed without this head: a lock it held or saw is gone, or the
other port has taken it (log entry 37). -/
def noticeIn (p kind die temp : Nat) (s : State) : State :=
  let v := portOf s p
  if v.state ≠ 4 ∧ v.state ≠ 6 then s
  else
    let subj := Subject.sledLane p
    if kind = 1 then retireDie p die s
    else if kind = 2 then loseSled (p / 32) (p % 32) s
    else if kind = 3 then record 5 5 1 subj (leN 1 temp) s
    else if kind = 4 then setPort p { v with lock := if v.lock = 0 then 2 else 0 } s
    else s

/-- 1 s out of ACTIVE: the sled counts as failed (Table 10.14); training goes on. -/
def linkActiveTimeout (p : Nat) (s : State) : State :=
  let v := portOf s p
  if v.powered ∧ v.en ∧ (v.state = 1 ∨ v.state = 2 ∨ v.state = 3 ∨ v.state = 5) then
    loseSled (p / 32) (p % 32) (linkError p 2 (leN 1 14) s)
  else s

def execSequencedFlit (port : Fin 1024) (flit : Flit) (s : State) : Res := .next (settle (rxFlit port flit s))
def execIdle (port : Fin 1024) (ack : Nat) (s : State) : Res := .next (settle (rxIdle port ack s))
def execNak (port : Fin 1024) (seq : Nat) (s : State) : Res := .next (settle (rxNak port seq s))
def execCredit (port : Fin 1024) (cmd mgmt data : Nat) (s : State) : Res := .next (settle (rxCreditFlit port cmd mgmt data s))
def execSleepAck (port : Fin 1024) (s : State) : Res := .next (settle (rxSleepAck port s))
def execSleepNak (port : Fin 1024) (s : State) : Res := .next (settle (rxSleepNak port s))
def execFlitReplayTimeout (port : Fin 1024) (s : State) : Res := .next (settle (replayTimeout port s))
def execFlitNakHoldoffEnd (port : Fin 1024) (s : State) : Res := .next (nakHoldoffEnd port s)
def execTs1 (port : Fin 1024) (preset asked : Nat) (s : State) : Res := .next (settle (rxTs1 port preset asked s))
def execTs2 (port : Fin 1024) (ts : Ts2) (s : State) : Res := .next (settle (rxTs2 port s.plc.alone ts s))
def execFarEndDetected (port : Fin 1024) (s : State) : Res := .next (farEnd port s)
def execLinkDetectRetry (port : Fin 1024) (s : State) : Res := .next (detectRetry port s)
def execLinkStateTimeout (port : Fin 1024) (s : State) : Res := .next (settle (stateTimeout port s))
def execFramingError (port : Fin 1024) (s : State) : Res := .next (settle (framing port s))
def execSleepIdleTimer (port : Fin 1024) (s : State) : Res := .next (sleepIdleTimer port s)
def execTestComplete (port : Fin 1024) (errors : Nat) (s : State) : Res := .next (testDone port errors s)
def execSledReadResponse (resp : SledResp) (s : State) : Res := .next (settle (readResponse resp s))
def execSledProgramResponse (resp : SledResp) (s : State) : Res := .next (settle (programResponse resp s))
def execSledEraseResponse (resp : SledResp) (s : State) : Res := .next (settle (eraseResponse resp s))
def execDieStatusResponse (resp : SledResp) (s : State) : Res := .next (settle (dieStatusResponse resp s))
def execBridgeInfoResponse (resp : SledResp) (reread : RecordRead) (s : State) : Res :=
  .next (settle (bridgeInfoResponse resp reread s))
def execPortLockResponse (resp : SledResp) (s : State) : Res := .next (settle (portLockResponse resp s))
def execNotice (port : Fin 1024) (kind die temp : Nat) (s : State) : Res := .next (settle (noticeIn port kind die temp s))
def execSledCmdTimeout (port : Fin 1024) (tag : Nat) (fourthInSecond : Bool) (s : State) : Res :=
  .next (settle (cmdTimeout port tag fourthInSecond s))
def execLinkActiveTimeout (port : Fin 1024) (s : State) : Res := .next (settle (linkActiveTimeout port s))
def execSlpCtlEn (port : Fin 1024) (en : Bool) (s : State) : Res := .next (settle (portEnable port en s))
def execSlpRetrain (port : Fin 1024) (s : State) : Res := .next (portRetrain port s)
def execSlpTest (port : Fin 1024) (s : State) : Res := .next (startPrbs port s)
def execIdentityRecordRead (g : Fin 32) (slot : Fin 33) (record : RecordRead) (s : State) : Res :=
  .next (settle (takeRecord g slot record s))
def execI2cStretchTimeout (g : Fin 32) (slot : Fin 33) (attempt : Nat) (s : State) : Res :=
  .next (i2cTimeout g slot attempt s)

end Sys2Proof.Machine
end

