-- ==== Sys2Proof/Machine/RegRead.lean ====
section
/-!
DEFINITION. Machine/RegRead.lean: what each register of the expert register window reads as (R10, R51, Tables 2.7, 2.16,
4.4, 6.7, 7.8, 8.8, 9.11, 10.19, 12.8, 12.9, 13.3, 14.15 to 14.17, 15.11, 16.6, 16.9).
-/
namespace Sys2Proof.Machine

/-- The index of an offset in an array of registers: base, stride, count. -/
def regIdx (base stride count o : Nat) : Option Nat :=
  if base ≤ o ∧ (o - base) % stride = 0 ∧ (o - base) / stride < count then some ((o - base) / stride) else none

/-- The words of an array of registers. -/
def regArray (base stride count o : Nat) (f : Nat → Word) : Option Word := (regIdx base stride count o).map f

/-- The first of several answers. -/
def firstOf (l : List (Option Word)) : Option Word := l.findSome? (fun x => x)

/-- A 32-bit word of a number. -/
def w32 (n : Nat) : Word := BitVec.ofNat 32 n

/-- Two 16-bit counters in one word. -/
def pair16 (lo hi : Nat) : Word := packW [(16, lo), (16, hi)]

/-- Does the Gatehouse part of a sleep run, or a change that GH_AVS_CTL started (log entry 114)? -/
def sleepRuns (s : State) : Bool :=
  match s.ghx.trans with
  | .sleep _ k _ => decide (6 ≤ k)
  | _ => false
def avsCtlRuns (s : State) : Bool := avsAny s (fun w => decide (w = .ctl))

/-- The Gatehouse (Table 15.11). -/
def ghVal (o : Nat) (s : State) : Option Word :=
  let g := s.gh
  let x := s.ghx
  match o with
  | 0x00 => some (packW [(3, g.state.code), (2, g.target), (1, b2n g.faultLow), (1, b2n g.keepFell), (1, b2n g.xtalFail), (4, g.failedAttempts)])
  | 0x04 => some (w32 (rstCause s))
  | 0x08 => some (packW [(12, g.seconds)])
  | 0x0C => some (packW [(24, g.hours), (7, 0), (1, b2n g.optLock)])
  | 0x10 => some (packW [(24, g.pwrCycle)])
  | 0x14 => some (w32 g.wakeEn.toNat)
  | 0x18 => some (packW [(5, (firedNow s).toNat), (3, 0), (8, g.firedTmr.toNat)])
  | 0x1C => some (packW [(2, g.slpTarget.toNat), (1, b2n (sleepRuns s)), (2, g.slpResult)])
  | 0x20 => some (packW [(16, g.wdogMs.toNat), (1, b2n g.wdogEn)])
  | 0x24 => some 0
  | 0x28 => some (packW [(16, g.epochMs.toNat), (1, b2n g.epochEn)])
  | 0x30 => some (packW [(2, g.avsRail.toNat), (12, g.avsMv.toNat), (1, b2n (avsCtlRuns s)), (1, b2n (avsBusy s)), (2, g.avsFail)])
  | 0x40 => some (packW [(1, b2n x.pwrFail), (1, b2n x.holdOk), (1, b2n x.keepOk), (1, b2n x.wakeN), (1, b2n x.fenceIn), (1, b2n x.peerHb)])
  | _ => firstOf [
      regArray 0x34 4 3 o (fun r => packW [(12, mvOf s r), (16, g.ma.getD r 0)]),
      regArray 0x80 8 8 o (fun t =>
        let v := timerOf s t
        packW [(3, v.en.toNat), (2, v.winner), (1, b2n v.periodic), (1, b2n v.wake), (1, b2n v.fired), (1, b2n v.prescale)]),
      regArray 0x84 8 8 o (fun t => (timerOf s t).cmp),
      regArray 0x100 4 16 o (fun k =>
        let v := gpioOf s k
        packW [(3, v.func.toNat), (3, v.en.toNat), (2, v.winner), (1, b2n v.out), (1, b2n v.input)])]

/-- The bits of 32 mailboxes that are DONE, from mailbox base on. -/
def doneSum (s : State) (base : Nat) : Word :=
  w32 (sumBy (fun k => 2 ^ k * b2n ((mbxOf s (base + k)).state = .done)) (List.range 32))

/-- The Kiosk (Table 2.7). -/
def kioskVal (o : Nat) (s : State) : Option Word :=
  let k := s.kiosk
  match o with
  | 0x00 => some (packW [(8, 1), (8, 1), (16, 64)])
  | 0x04 => some (packW [(1, b2n k.lodgeReady), (1, b2n k.fwSwitch), (1, b2n k.session.isSome)])
  | 0x08 => some (doneSum s 0)
  | 0x0C => some (doneSum s 32)
  | 0x10 => some (packW [(6, k.evtVector.toNat), (2, 0), (1, b2n k.evtEn)])
  | _ => none

/-- The event recorder (Table 16.9). -/
def evrVal (o : Nat) (s : State) : Option Word :=
  let e := s.evt
  match o with
  | 0x00 => some e.headSeq
  | 0x04 => some (w32 e.headOff.toNat)
  | 0x08 => some e.tailSeq
  | 0x0C => some (w32 e.tailOff.toNat)
  | 0x10 => some e.mergeCnt
  | 0x14 => some (w32 e.lost)
  | 0x18 => some e.persistSeq
  | 0x1C => some e.nextSeq
  | 0x20 => some (w32 (b2n e.lock))
  | 0x24 => some (w32 e.rdOff.toNat)
  | 0x28 => some (ringWord e)
  | _ => none

/-- The cipher engine and random source (Table 14.15). The number of busy cores is free (log entry 7). -/
def cphVal (o : Nat) (s : State) : Option Word :=
  let c := s.sec
  match o with
  | 0x00 => some (packW [(6, freeNat s % 33), (1, b2n c.q2Full), (1, b2n c.keyErr)])
  | 0x04 => some (packW [(12, c.ctlSlot.toNat), (1, b2n c.ctlOp), (1, b2n c.keyOp.isSome), (1, b2n c.keyOp.isSome)])
  | 0x08 => some c.kcv
  | 0x40 => some (w32 c.q2Base.toNat)
  | 0x44 => some (w32 (c.q2Base.toNat / 2 ^ 32))
  | 0x48 => some (w32 c.q2Tail.toNat)
  | 0x4C => some (w32 c.q2Head.toNat)
  | 0x50 => some (pair16 c.tagFail c.poisoned)
  | 0x80000 => some (packW [(1, b2n c.rngReady), (1, b2n c.rngHalted)])
  | 0x80004 => some (pair16 c.rct c.apt)
  | _ => regArray 0x10 4 8 o (fun _ => 0)

/-- The digest engine as user u reads it (Table 14.16, R398): only the owner sees state and digest, and while a block is
partly written the state reads 0. DESIGN CHOICE (log entry 114): a trigger bit reads 1 while what it started runs: a request
until its grant, start while the inner pass of HMAC runs; final and rel are over at once. -/
def dgtVal (u o : Nat) (s : State) : Option Word :=
  let d := s.sec.dgt
  let mine := decide (d.owner = u)
  let part := !d.buf.isEmpty
  match o with
  | 0x00 => some (packW [(2, d.alg.toNat), (1, b2n d.hmac), (1, b2n d.restore), (6, d.slot.toNat), (6, 0), (1, b2n (d.active && d.busy && d.buf.isEmpty)),
      (1, 0), (2, d.lastBytes.toNat)])
  | 0x04 => some (packW [(1, b2n d.busy), (1, b2n part), (1, b2n d.done), (1, b2n d.overrun), (1, b2n d.denied), (1, b2n d.slotDenied), (2, d.owner), (3, d.pending.toNat)])
  | 0x08 => some 0
  | 0x0C => some (packW [(3, d.pending.toNat)])
  | _ => firstOf [
      regArray 0x10 4 4 o (fun i => w32 (d.len / 2 ^ (32 * i))),
      regArray 0x40 4 16 o (fun i => if mine ∧ !part then d.state.getD i 0 else 0),
      regArray 0x80 4 16 o (fun i => if mine then d.digest.getD i 0 else 0)]

/-- The public-key accelerator (Table 14.17). -/
def pkaVal (o : Nat) (s : State) : Option Word :=
  let c := s.sec
  if o = 0 then some (packW [(1, b2n (!c.pkaQ.isEmpty)), (1, b2n c.pkaFault), (2, c.pkaOp), (12, 0), (16, c.pkaOps)]) else none

/-- The bits of the ranks that satisfy p. -/
def rankBits4 (c : Dmc) (p : DRank → Bool) : Nat := sumBy (fun r => 2 ^ r * b2n (p (rankOf c r))) (List.range 4)

/-- The selected knob setting of a channel; with all lanes selected, that of lane 0 (log entry 43). -/
def delayVal (c : Dmc) : Nat :=
  let lane := if c.dlyLane = 63 then 0 else c.dlyLane.toNat
  (tgetD c.delays (dlyKey c.dlyKnob.toNat c.dlyRank.toNat c.dlySub lane) 0).toNat

/-- The low and high words of 64-bit registers. -/
def lowHigh (base count o : Nat) (f : Nat → Nat) : Option Word :=
  firstOf [regArray base 8 count o (fun k => w32 (f k)), regArray (base + 4) 8 count o (fun k => w32 (f k / 2 ^ 32))]

/-- DRAM channel n (Tables 12.8, 12.9). -/
def dmcVal (n o : Nat) (s : State) : Option Word :=
  let c := dmcOf s n
  let d := s.dram
  let wide : Option Word := if n ≠ 0 then none else match o with
    | 0x220 => some (pair16 d.mainGib d.keepGib)
    | 0x224 => some (packW [(10, d.use), (1, b2n d.throttle)])
    | 0x228 => some (packW [(2, d.rate)])
    | _ => firstOf [
        lowHigh 0x200 3 o (fun k => (d.chanHash.getD k 0).toNat),
        regArray 0x400 4 16 o (fun k => w32 (d.qos.getD k 0))]
  match o with
  | 0x00 => some (packW [(3, c.state), (1, 0), (4, rankBits4 c (·.present)), (4, rankBits4 c (·.retired)), (2, c.spare), (1, b2n c.spareValid), (1, b2n c.migrating), (4, rankBits4 c (·.hot))])
  | 0x04 => some (packW [(3, c.colBits.toNat), (5, c.rowBits.toNat), (2, c.rankBits.toNat), (2, c.cidBits.toNat), (19, 0), (1, b2n c.lock)])
  | 0x08 => some (packW [(24, c.ptr), (2, c.fromRank), (2, c.toRank)])
  | 0x40 => some (pair16 c.corrected c.uncorrectable)
  | 0x44 => some (pair16 c.parity c.retries)
  | 0x48 => some (w32 c.errCa)
  | 0x4C => some (packW [(8, c.errCa / 2 ^ 32), (1, b2n c.errUe)])
  | 0x300 => some (packW [(1, b2n c.trnBusy), (1, b2n c.trnBusy), (2, c.trnOp.toNat), (2, c.trnRank.toNat), (1, b2n c.trnSub), (1, b2n c.trnBoth), (8, c.trnBursts.toNat)])
  | 0x304 => some c.trnPat
  | 0x308 => some c.failDq
  | 0x30C => some (w32 c.failCb.toNat)
  | 0x310 => some (packW [(4, c.dlyKnob.toNat), (2, c.dlyRank.toNat), (1, b2n c.dlySub), (6, c.dlyLane.toNat)])
  | 0x314 => some (packW [(10, delayVal c)])
  | _ => firstOf [
      regArray 0x10 4 4 o (fun r =>
        let k := rankOf c r
        packW [(3, k.maxPostpone.toNat), (4, k.owed), (1, 0), (10, k.trfc.toNat)]),
      regArray 0x20 4 2 o (fun t => packW [(8, (c.therm.getD (2 * t) 0).toNat), (8, (c.therm.getD (2 * t + 1) 0).toNat)]),
      lowHigh 0x100 5 o (fun k => (c.bankHash.getD k 0).toNat),
      wide]

/-- The Conservatory (Table 13.3). -/
def cnsVal (o : Nat) (s : State) : Option Word :=
  let c := s.cns
  match o with
  | 0x00 => some (packW [(16, c.powered.toNat), (4, lockedBits c), (1, b2n c.maint.isSome), (1, b2n (cleaning c))])
  | 0x04 => some (w32 c.off.toNat)
  | 0x08 => some (w32 c.agePeriod.toNat)
  | 0x68 => some (w32 (b2n c.hashLock))
  | 0x80 => some (w32 c.maintAddr)
  | 0x84 => some (packW [(12, c.maintAddr / 2 ^ 32)])
  | 0x88 => some c.maintLen
  | 0x8C => some (packW [(1, b2n c.maintOp), (1, b2n c.maintByWay), (4, c.maintWay.toNat), (1, b2n c.maint.isSome), (1, b2n c.maint.isSome)])
  | 0x90 => some (packW [(20, c.skipped)])
  | 0x94 => some (w32 c.written)
  | 0xA0 => some (pair16 c.parClean c.parDirty)
  | 0xA4 => some (pair16 c.tagCopy c.tagBoth)
  | 0xA8 => some (w32 (sumBy (fun t => 2 ^ t * b2n (decide (64 < (c.trackers.getD t {}).count))) (List.range 8)))
  | 0xAC => some (w32 (satW 32 c.hits))
  | 0xB0 => some (w32 (satW 32 c.misses))
  | _ => firstOf [
      regArray 0x10 4 4 o (fun i =>
        let l := lockOf c i
        packW [(3, l.en.toNat), (2, l.winner), (1, b2n l.loaded)]),
      (regIdx 0x20 4 8 o).bind (fun k => (c.classes[k]?).map (fun v =>
        packW [(16, v.mask.toNat), (1, b2n v.allocRd), (1, b2n v.allocWr), (1, b2n v.wb), (2, v.prefetch.toNat), (1, b2n v.stream)])),
      lowHigh 0x40 5 o (fun k => (c.hash.getD k 0).toNat)]

/-- Latency monitor unit u (Table 16.6): the values are the shadow's. -/
def monVal (u o : Nat) (s : State) : Option Word :=
  let m := monOf s u
  let v := m.shadow
  match o with
  | 0x00 => some (packW [(3, m.en.toNat), (2, m.winner), (1, b2n m.running), (3, 0), (4, m.scale.toNat)])
  | 0x04 => some (w32 m.probe.toNat)
  | 0x08 => some m.filter
  | 0x0C => some m.windowMs
  | 0x10 => some (w32 v.count)
  | 0x14 => some (w32 (v.count / 2 ^ 32))
  | 0x18 => some (w32 v.sum)
  | 0x1C => some (w32 (v.sum / 2 ^ 32))
  | 0x20 => some (w32 v.min)
  | 0x24 => some (w32 v.max)
  | 0x28 => some (w32 v.overCnt)
  | 0x2C => some (w32 v.elapsed)
  | _ => regArray 0x100 4 64 o (fun b => w32 (tgetD v.buckets b 0))

/-- The host transport engine (Table 6.7). -/
def trnVal (o : Nat) (s : State) : Option Word :=
  let l := s.lat
  match o with
  | 0x00 =>
    let up := sumBy (fun n => 2 ^ n * b2n (((tget l.hports n).map (·.up)).getD false)) (List.range 8)
    some (packW [(8, up), (1, b2n (decide (l.allow < l.cap))), (1, b2n (!holdRoom s 4096))])
  | 0x04 => some (packW [(12, l.lru.length), (4, 0), (16, sumBy (fun e => b2n e.2.fetching) l.qps)])
  | 0x08 => some (packW [(23, holdUsed s)])
  | 0x0C => some (pair16 l.dropHold l.logLost)
  | 0x10 => some (pair16 l.nakRnr l.nakSel)
  | 0x14 => some (pair16 l.discSeg l.discGcm)
  | 0x18 => some (packW [(9, l.allow)])
  | 0x1C => some (w32 (b2n l.cnpEn))
  | _ => none

/-- The Footbridge (Table 4.4). -/
def ftbVal (o : Nat) (s : State) : Option Word :=
  let p := s.pair
  match o with
  | 0x00 => some (packW [(4, portsUp s), (1, b2n p.pinLive), (1, b2n p.msgLive), (1, b2n s.ghx.fenceIn), (1, b2n s.ghx.fenceOut), (1, (p.role.map Role.num).getD 0), (1, b2n p.paired), (1, b2n p.window.isSome)])
  | 0x04 => some 0
  | 0x08 => some (pair16 s.ftb.resent s.ftb.downs)
  | _ => none

/-- The ingest pipeline (Table 7.8). -/
def ingVal (o : Nat) (s : State) : Option Word :=
  let g := s.ing
  match o with
  | 0x00 => some (packW [(1, b2n (decide (524288 ≤ s.jrn.admitted))), (1, b2n (journalLow s)), (1, b2n (!g.loading.isEmpty))])
  | 0x04 => some (packW [(20, s.jrn.admitted)])
  | 0x08 => some (w32 g.chunks)
  | 0x0C => some (w32 (g.chunks / 2 ^ 32))
  | 0x10 => some (w32 g.dup)
  | 0x14 => some (w32 g.zero)
  | 0x18 => some (w32 g.raw)
  | 0x1C => some (w32 g.overlay)
  | 0x20 => some (w32 g.fpos)
  | 0x24 => some (w32 g.forgot)
  | 0x28 => some (pair16 g.inflightMiss g.shedStale)
  | 0x2C => some (packW [(24, g.verifyReads), (8, g.collisions)])
  | 0x30 => some (pair16 g.failCheck g.failOver)
  | _ => none

/-- Parterre (Tables 8.8, 9.11). -/
def prtVal (o : Nat) (s : State) : Option Word :=
  let p := s.plc
  let m := s.map
  match o with
  | 0x00 =>
    let awake := sumBy (fun g => b2n (holdsShelf (shelfOf s g))) (List.range 32)
    some (packW [(4, s.pair.arr.home.length), (6, awake), (1, b2n (overShare s)), (1, b2n p.alone)])
  | 0x04 => some (w32 (share s))
  | 0x08 => some (w32 (charges s))
  | 0x0C => some (w32 (homeReserve s s.pair.arr.home))
  | 0x10 => some (pair16 p.wakes p.wakesFailed)
  | 0x14 => some (w32 p.hardened)
  | 0x18 => some (w32 (sumBy (deferredBytes s) (List.range 32) / 2 ^ 30))
  | 0x300 =>
    let full := decide (mapCacheGib s * 2 ^ 16 ≤ m.pages.length) && m.pages.all (fun k => m.dirty.contains k)
    some (packW [(21, m.xlt.length), (1, b2n full), (1, b2n m.ckptRun.isSome), (1, b2n (spaceShort s))])
  | 0x304 => some (w32 m.hits)
  | 0x308 => some (w32 m.misses)
  | 0x30C => some (w32 m.mapcMiss)
  | 0x310 => some (pair16 (mapCacheGib s) (m.dirty.length / 2 ^ 16))
  | 0x314 => some (w32 m.ckpt.number)
  | 0x318 => some (pair16 p.gcBands m.voidMoves)
  | 0x31C => some (w32 (p.gcGrains / 1024))
  | 0x320 => some (pair16 p.refDisturb p.refRetention)
  | 0x324 => some (packW [(24, p.retiredBlocks), (8, p.diesRetired.length)])
  | 0x328 => some (pair16 p.recovered p.lostChunks)
  | 0x32C => some (pair16 p.progFail p.eraseFail)
  | _ => firstOf [
      regArray 0x100 4 32 o (fun g =>
        let v := shelfOf s g
        packW [(3, v.st.code), (1, b2n v.req), (1, b2n v.good), (1, b2n (isHome s g)), (6, linksUsable s g),
          (1, b2n (unhardened s g)), (3, 0), (16, satW 16 (waitingOn s g))]),
      regArray 0x200 4 32 o (fun g => packW [(16, shownCharge s g), (8, (shelfOf s g).w), (8, (shelfOf s g).r)])]

/-- Sled port p (Table 10.19). -/
def slpVal (p o : Nat) (s : State) : Option Word :=
  let v := portOf s p
  match o with
  | 0x00 => some (packW [(3, v.state), (1, b2n v.usable), (2, v.lock), (1, v.bridgePort), (1, 0), (8, v.attempts)])
  | 0x04 => some (packW [(1, b2n v.en), (1, b2n (v.retrain && decide (v.state = 5))), (1, b2n v.test), (5, 0),
      (8, v.sleepIdle.toNat), (16, v.testMbit.toNat)])
  | 0x08 => some (packW [(8, v.cmdCr), (12, v.dataCr), (8, v.mgmtCr)])
  | 0x0C => some (packW [(12, v.nextSeq), (4, 0), (12, v.lastAck)])
  | 0x10 => some (packW [(11, v.outst.length)])
  | 0x14 => some (pair16 v.crc v.framing)
  | 0x18 => some (pair16 v.replays v.naks)
  | 0x1C => some (pair16 v.recoveries v.sessions)
  | 0x20 => some (pair16 v.timeouts v.protocol)
  | 0x24 => some (packW [(3, v.txPreset), (1, 0), (3, v.farPreset)])
  | 0x28 => some (w32 v.prbsErr)
  | _ => some 0

/-- A block of the register window with an index: 0 Gatehouse, 1 Kiosk, 2 event recorder, 3 cipher, 4 digest, 5 public-key,
6 DRAM channel, 7 Conservatory, 8 monitor, 9 host transport, 10 Footbridge, 11 ingest, 12 Parterre, 13 sled port. -/
def regBlock (a : Nat) : Option (Nat × Nat × Nat) :=
  let b := a / 65536
  let o := a % 65536
  if a % 4 ≠ 0 then none
  else if b = 0x1000 then some (0, 0, o)
  else if b = 0x1100 then some (1, 0, o)
  else if b = 0x1200 then some (2, 0, o)
  else if 0x2000 ≤ b ∧ b < 0x2010 then some (3, 0, a - 0x20000000)
  else if b = 0x2100 then some (4, 0, o)
  else if b = 0x2200 then some (5, 0, o)
  else if 0x3000 ≤ b ∧ b < 0x3018 then some (6, b - 0x3000, o)
  else if b = 0x3800 then some (7, 0, o)
  else if b = 0x3900 then some (8, o / 1024, o % 1024)
  else if b = 0x4000 then some (9, 0, o)
  else if b = 0x4100 then some (10, 0, o)
  else if b = 0x5000 then some (11, 0, o)
  else if b = 0x6000 then some (12, 0, o)
  else if 0x7000 ≤ b ∧ b < 0x7004 then some (13, (a - 0x70000000) / 256, a % 256)
  else none

/-- What the register at an address reads as, for digest user u; none where no register is mapped. -/
def regVal (u a : Nat) (s : State) : Option Word :=
  match regBlock a with
  | some (0, _, o) => ghVal o s
  | some (1, _, o) => kioskVal o s
  | some (2, _, o) => evrVal o s
  | some (3, _, o) => cphVal o s
  | some (4, _, o) => dgtVal u o s
  | some (5, _, o) => pkaVal o s
  | some (6, n, o) => dmcVal n o s
  | some (7, _, o) => cnsVal o s
  | some (8, n, o) => if n < 32 then monVal n o s else none
  | some (9, _, o) => trnVal o s
  | some (10, _, o) => ftbVal o s
  | some (11, _, o) => ingVal o s
  | some (12, _, o) => prtVal o s
  | some (13, p, o) => slpVal p o s
  | _ => none

/-- What a read of a register does besides: EVR_RD_DATA advances its offset (R447), and a free value is consumed. -/
def regReadEffect (a : Nat) (s : State) : State :=
  if a = 0x12000028 then { s with evt := { s.evt with rdOff := BitVec.ofNat 16 (s.evt.rdOff.toNat / 4 * 4 + 4) } }
  else if a = 0x20000000 then draw s
  else s

/-- Is the power domain of a register off (R51): the port group of a sleeping shelf, or a powered-down way? -/
def regDark (a : Nat) (s : State) : Bool :=
  match regBlock a with
  | some (13, p, _) => !(portOf s p).powered
  | some (7, _, o) => (match regIdx 0x10 4 4 o with
    | some i => !s.cns.powered.getLsbD (12 + i)
    | none => false)
  | _ => false

end Sys2Proof.Machine
end

