-- ==== Sys2Proof/Machine/RegWrite.lean ====
section
/-!
DEFINITION. Machine/RegWrite.lean: what a write of each register does, as its fields' types state (R10, Table 0.6), the
expert register window (R51), and the Kiosk's own registers (R34, Tables 2.3 to 2.7).
-/
namespace Sys2Proof.Machine

/-- Replace the low or the high word of a 64-bit value. -/
def withLow (n : Nat) (v : Word) : Nat := n / 2 ^ 32 * 2 ^ 32 + v.toNat
def withHigh (n : Nat) (v : Word) : Nat := v.toNat * 2 ^ 32 + n % 2 ^ 32

/-- A field of a word as bits. -/
def fieldOf (w : Nat) (v : Word) (lo : Nat) : BitVec w := BitVec.ofNat w (bitsOf v lo w)

/-- W1C on a flag: a 1 at bit i clears it (Table 0.6). -/
def clearBy (flag : Bool) (v : Word) (i : Nat) : Bool := flag && !bitOf v i

/-- W1C on a field of w bits from bit lo on. -/
def clearField {w : Nat} (x : BitVec w) (v : Word) (lo : Nat) : BitVec w := x &&& ~~~fieldOf w v lo

/-- The first index of an array of registers that an offset hits, with what to do there. -/
def atIdx (base stride count o : Nat) (f : Nat → State → State) : Option (State → State) :=
  (regIdx base stride count o).map f

/-- The first of several writes that the offset hits; none is a write to a register whose fields are all read-only. -/
def firstWrite (l : List (Option (State → State))) (s : State) : State :=
  match l.findSome? (fun x => x) with
  | some f => f s
  | none => s

/-- A write of a claimable resource's enable bits: through the window by R54; by Lodge firmware the bits alone. -/
def enWrite (u cls idx : Nat) (en : BitVec 3) (s : State) : State :=
  if en = enOf s cls idx then s
  else if u = 2 then claimEnable cls idx en s
  else setEn cls idx en s

def onGh (f : Gh → Gh) (s : State) : State := { s with gh := f s.gh }

/-- GH_TMR_CTLn (R427, R428). -/
def tmrWrite (u t : Nat) (v : Word) (s : State) : State :=
  let s := enWrite u 2 t (fieldOf 3 v 0) s
  let x := timerOf s t
  setTimer t { x with
    periodic := bitOf v 5, wake := bitOf v 6, fired := clearBy x.fired v 7, prescale := bitOf v 8 } s

/-- GH_GPIO_CFGi (R427). -/
def gpioWrite (u k : Nat) (v : Word) (s : State) : State :=
  let s := enWrite u 1 k (fieldOf 3 v 3) s
  setGpio k { gpioOf s k with func := fieldOf 3 v 0, out := bitOf v 8 } s

/-- GH_AVS_CTL: the fields, then go (R413). -/
def avsCtlWrite (v : Word) (s : State) : State :=
  let s := onGh (fun g => { g with avsRail := fieldOf 2 v 0, avsMv := fieldOf 12 v 2 }) s
  if bitOf v 14 then avsStart s.gh.avsRail s.gh.avsMv s else s

/-- A field whose values are limited: a value outside the range leaves it as it is. -/
def ranged {w : Nat} (old new : BitVec w) (lo hi : Nat) : BitVec w :=
  if lo ≤ new.toNat ∧ new.toNat ≤ hi then new else old

/-- The Gatehouse (Table 15.11). -/
def ghPoke (u o : Nat) (v : Word) (s : State) : State :=
  match o with
  | 0x04 => onGh (fun g => { g with
      rstPwron := clearBy g.rstPwron v 0, rstWarm := clearBy g.rstWarm v 1, rstHead := clearBy g.rstHead v 2
      rstWdog := clearBy g.rstWdog v 3, rstStrap := clearBy g.rstStrap v 4 }) s
  | 0x08 => if s.gh.optLock then s else onGh (fun g => { g with seconds := bitsOf v 0 12 }) s
  | 0x0C => onGh (fun g => { g with
      hours := if g.optLock then g.hours else bitsOf v 0 24, optLock := g.optLock || bitOf v 31 }) s
  | 0x14 => if fieldOf 5 v 0 = 0 then s else onGh (fun g => { g with wakeEn := fieldOf 5 v 0 }) s
  | 0x18 => onGh (fun g => { g with fired := clearField g.fired v 0, firedTmr := clearField g.firedTmr v 8 }) s
  | 0x1C =>
    if bitOf v 2 then ghSleep (bitsOf v 0 2) s else onGh (fun g => { g with slpTarget := fieldOf 2 v 0 }) s
  | 0x20 => onGh (fun g => { g with wdogMs := ranged g.wdogMs (fieldOf 16 v 0) 100 60000, wdogEn := bitOf v 16 }) s
  | 0x24 => if bitOf v 0 then watchdogKick s else s
  | 0x28 => onGh (fun g => { g with epochMs := ranged g.epochMs (fieldOf 16 v 0) 100 60000, epochEn := bitOf v 16 }) s
  | 0x30 => avsCtlWrite v s
  | _ => firstWrite [
      atIdx 0x80 8 8 o (fun t => tmrWrite u t v), atIdx 0x84 8 8 o (fun t => timerCompare t v),
      atIdx 0x100 4 16 o (fun k => gpioWrite u k v)] s

/-- KSK_EVT_CTL (Table 2.7). -/
def evtCtlWrite (v : Word) (s : State) : State :=
  { s with kiosk := { s.kiosk with evtVector := fieldOf 6 v 0, evtEn := bitOf v 8 } }

def onEvt (f : Evt → Evt) (s : State) : State := { s with evt := f s.evt }

/-- The event recorder (Table 16.9). -/
def evrPoke (o : Nat) (v : Word) (s : State) : State :=
  match o with
  | 0x18 => onEvt (fun e => { e with persistSeq := v }) s
  | 0x1C => if s.evt.lock then s else onEvt (fun e => { e with nextSeq := v }) s
  | 0x20 => onEvt (fun e => { e with lock := e.lock || bitOf v 0 }) s
  | 0x24 => onEvt (fun e => { e with rdOff := BitVec.ofNat 16 (bitsOf v 0 16 / 4 * 4) }) s
  | _ => s

def onSec (f : Sec → Sec) (s : State) : State := { s with sec := f s.sec }

/-- The cipher engine (Table 14.15). -/
def cphPoke (o : Nat) (v : Word) (s : State) : State :=
  match o with
  | 0x00 => onSec (fun c => { c with keyErr := clearBy c.keyErr v 7 }) s
  | 0x04 =>
    let s := onSec (fun c => { c with ctlSlot := fieldOf 12 v 0, ctlOp := bitOf v 12 }) s
    if bitOf v 13 then startKeyOp (bitsOf v 0 12) (bitOf v 12) s else s
  | 0x40 => onSec (fun c => { c with q2Base := BitVec.ofNat 64 (withLow c.q2Base.toNat v / 64 * 64) }) s
  | 0x44 => onSec (fun c => { c with q2Base := BitVec.ofNat 64 (withHigh c.q2Base.toNat v) }) s
  | 0x48 => q2Submit (fieldOf 8 v 0) s
  | _ => firstWrite [atIdx 0x10 4 8 o (fun i => keyDataWrite i v)] s

/-- DGT_CTL by the owner: the fields, then start, then final (R397). -/
def dgtCtlWrite (u : Nat) (v : Word) (s : State) : State :=
  dgtOwned u (fun d s =>
    let s := setDgt { d with
      alg := fieldOf 2 v 0, hmac := bitOf v 2, restore := bitOf v 3, slot := fieldOf 6 v 4, lastBytes := fieldOf 2 v 18 } s
    let s := if bitOf v 16 then digestStart u (fieldOf 2 v 0) (bitOf v 2) (bitOf v 3) (fieldOf 6 v 4) s else s
    if bitOf v 17 then digestFinal u (fieldOf 2 v 18) s else s) s

/-- A word of DGT_STATE or DGT_LEN, which its owner alone writes (R398). -/
def dgtWordWrite (u : Nat) (f : Digest → Digest) (s : State) : State :=
  if s.sec.dgt.owner = u then setDgt (f s.sec.dgt) s else s

/-- Replace word i of sixteen; an empty list is sixteen zeros. -/
def putWord (i : Nat) (v : Word) (l : List Word) : List Word := (l ++ List.replicate (16 - l.length) 0).set i v

/-- The digest engine as user u writes it (Table 14.16, R397 to R399). -/
def dgtPoke (u o : Nat) (v : Word) (s : State) : State :=
  match o with
  | 0x00 => dgtCtlWrite u v s
  | 0x04 =>
    let d := s.sec.dgt
    setDgt { d with
      overrun := clearBy d.overrun v 3, denied := clearBy d.denied v 4, slotDenied := clearBy d.slotDenied v 5 } s
  | 0x08 => digestDataWrite u v s
  | 0x0C =>
    let s := if bitOf v 3 ∧ s.sec.dgt.owner = u then dgtRelease s else s
    if fieldOf 3 v 0 = 0 then s
    else if u = 2 then dgtWindowRequest (fieldOf 3 v 0) s
    else digestClaimRequest (fieldOf 3 v 0) s
  | _ => firstWrite [
      atIdx 0x10 4 4 o (fun i => dgtWordWrite u (fun d => { d with
        len := d.len / 2 ^ (32 * (i + 1)) * 2 ^ (32 * (i + 1)) + v.toNat * 2 ^ (32 * i) + d.len % 2 ^ (32 * i) })),
      atIdx 0x40 4 16 o (fun i => dgtWordWrite u (fun d => { d with state := putWord i v d.state }))] s

def onDmc (n : Nat) (f : Dmc → Dmc) (s : State) : State := setDmc n (f (dmcOf s n)) s
def onDram (f : Dram → Dram) (s : State) : State := { s with dram := f s.dram }

/-- DMC_TRN_CTL: the fields, then start (R346). A helper that runs keeps its fields until it ends. -/
def trnWrite (n : Nat) (v : Word) (s : State) : State :=
  let s := onDmc n (fun c => { c with
    trnOp := fieldOf 2 v 2, trnRank := fieldOf 2 v 4, trnSub := bitOf v 6, trnBoth := bitOf v 7
    trnBursts := fieldOf 8 v 8 }) s
  if bitOf v 0 then trnStart n (bitsOf v 2 2) s else s

/-- DMC_GEOM: RWL fields, then the lock. -/
def geomWrite (n : Nat) (v : Word) (s : State) : State :=
  let s := if dramLocked s then s else onDmc n (fun c => { c with
    colBits := fieldOf 3 v 0, rowBits := fieldOf 5 v 3, rankBits := fieldOf 2 v 8, cidBits := fieldOf 2 v 10 }) s
  if bitOf v 31 then geomLock n s else s

/-- The controller-wide registers, in the block of channel 0 (Table 12.9). -/
def widePoke (o : Nat) (v : Word) (s : State) : State :=
  match o with
  | 0x220 => if dramLocked s then s else onDram (fun d => { d with mainGib := bitsOf v 0 16, keepGib := bitsOf v 16 16 }) s
  | 0x228 => if dramLocked s then s else onDram (fun d => { d with rate := bitsOf v 0 2 }) s
  | _ => firstWrite [
      atIdx 0x200 8 3 o (fun k s => chanHashWrite k (BitVec.ofNat 34 (withLow (s.dram.chanHash.getD k 0).toNat v)) s),
      atIdx 0x204 8 3 o (fun k s => chanHashWrite k (BitVec.ofNat 34 (withHigh (s.dram.chanHash.getD k 0).toNat v)) s),
      atIdx 0x400 4 16 o (fun k s =>
        let t := bitsOf v 0 14
        if k = 1 ∨ k = 4 ∨ k = 5 ∨ t < 10 ∨ 10000 < t then s
        else onDram (fun d => { d with qos := d.qos.set k t }) s)] s

/-- DRAM channel n (Tables 12.8, 12.9). -/
def dmcPoke (n o : Nat) (v : Word) (s : State) : State :=
  match o with
  | 0x04 => geomWrite n v s
  | 0x300 => trnWrite n v s
  | 0x304 => onDmc n (fun c => { c with trnPat := v }) s
  | 0x310 => onDmc n (fun c => { c with
      dlyKnob := fieldOf 4 v 0, dlyRank := fieldOf 2 v 4, dlySub := bitOf v 6, dlyLane := fieldOf 6 v 7 }) s
  | 0x314 => writeDelay n (fieldOf 10 v 0) s
  | _ => firstWrite [
      atIdx 0x10 4 4 o (fun r s =>
        if dramLocked s then s
        else onDmc n (fun c => setRank r { rankOf c r with maxPostpone := fieldOf 3 v 0, trfc := fieldOf 10 v 8 } c) s),
      atIdx 0x100 8 5 o (fun k s =>
        bankHashWrite n k (BitVec.ofNat 34 (withLow ((dmcOf s n).bankHash.getD k 0).toNat v)) s),
      atIdx 0x104 8 5 o (fun k s =>
        bankHashWrite n k (BitVec.ofNat 34 (withHigh ((dmcOf s n).bankHash.getD k 0).toNat v)) s),
      if n = 0 then some (widePoke o v) else none] s

/-- CNS_CLASS[k]: wb is writable for classes 3 and 4, stream_en for all but class 1. -/
def classWrite (k : Nat) (v : Word) (c : Cns) : Cns :=
  match c.classes[k]? with
  | none => c
  | some old => { c with classes := c.classes.set k { old with
      mask := fieldOf 16 v 0, allocRd := bitOf v 16, allocWr := bitOf v 17
      wb := if k = 3 ∨ k = 4 then bitOf v 18 else old.wb
      prefetch := fieldOf 2 v 19, stream := if k = 1 then old.stream else bitOf v 21 } }

/-- CNS_WAY_PWR: a write that breaks R375 is ignored; a way whose bit is cleared powers up. -/
def wayPwrWrite (off : BitVec 16) (s : State) : State :=
  if offAllowed s off then onCns (fun c => { c with off := off, powered := c.powered ||| ~~~off }) s else s

/-- CNS_MAINT_CTL: the fields, then start (R376). -/
def maintCtlWrite (v : Word) (s : State) : State :=
  let s := onCns (fun c => { c with maintOp := bitOf v 0, maintByWay := bitOf v 1, maintWay := fieldOf 4 v 2 }) s
  if bitOf v 6 then maintStart (bitOf v 0) s else s

/-- The Conservatory (Table 13.3). -/
def cnsPoke (u o : Nat) (v : Word) (s : State) : State :=
  match o with
  | 0x04 => wayPwrWrite (fieldOf 16 v 0) s
  | 0x08 => onCns (fun c => { c with agePeriod := fieldOf 16 v 0 }) s
  | 0x68 => onCns (fun c => { c with hashLock := c.hashLock || bitOf v 0 }) s
  | 0x80 => onCns (fun c => { c with maintAddr := withLow c.maintAddr v }) s
  | 0x84 => onCns (fun c => { c with maintAddr := withHigh c.maintAddr v % 2 ^ 44 }) s
  | 0x88 => onCns (fun c => { c with maintLen := v }) s
  | 0x8C => maintCtlWrite v s
  | _ => firstWrite [
      atIdx 0x10 4 4 o (fun i => enWrite u 4 i (fieldOf 3 v 0)),
      atIdx 0x20 4 8 o (fun k => onCns (classWrite k v)),
      atIdx 0x40 8 5 o (fun k => sliceHashWrite k (fieldOf 25 v 0))] s

/-- Latency monitor unit u (Table 16.6). MON_CTL's actions run in the order stop, arm, snap. -/
def monPoke (user u o : Nat) (v : Word) (s : State) : State :=
  match o with
  | 0x00 =>
    let s := enWrite user 3 u (fieldOf 3 v 0) s
    let s := setMon u { monOf s u with scale := fieldOf 4 v 9 } s
    let s := if bitOf v 7 then monStop u s else s
    let s := if bitOf v 6 then monArm u s else s
    if bitOf v 8 then monSnap u s else s
  | 0x04 => if 20 ≤ bitsOf v 0 6 then s else setMon u { monOf s u with probe := fieldOf 6 v 0 } s
  | 0x08 => setMon u { monOf s u with filter := v } s
  | 0x0C => setMon u { monOf s u with windowMs := v } s
  | _ => s

/-- SLP_CTL (Table 10.19): the fields, the enable, then retrain and test. -/
def slpCtlWrite (p : Nat) (v : Word) (s : State) : State :=
  let s := setPort p { portOf s p with sleepIdle := fieldOf 8 v 8, testMbit := fieldOf 16 v 16 } s
  let s := if bitOf v 0 = (portOf s p).en then s else portEnable p (bitOf v 0) s
  let s := if bitOf v 1 then portRetrain p s else s
  if bitOf v 2 then startPrbs p s else s

/-- R10: the write of a word by digest and claim user u (0 Lodge firmware, 2 the expert window) to the register at an
address. Fields that are read-only or reserved ignore it, and so do the blocks whose every field is read-only. -/
def regPoke (u a : Nat) (v : Word) (s : State) : State :=
  match regBlock a with
  | some (0, _, o) => ghPoke u o v s
  | some (1, _, o) => if o = 0x10 then evtCtlWrite v s else s
  | some (2, _, o) => evrPoke o v s
  | some (3, _, o) => cphPoke o v s
  | some (4, _, o) => dgtPoke u o v s
  | some (6, n, o) => dmcPoke n o v s
  | some (7, _, o) => cnsPoke u o v s
  | some (8, n, o) => if n < 32 then monPoke u n o v s else s
  | some (9, _, o) => if o = 0x1C then { s with lat := { s.lat with cnpEn := bitOf v 0 } } else s
  | some (10, _, o) => if o = 0x04 ∧ bitOf v 0 then hbKick s else s
  | some (13, p, o) => if o = 0x04 then slpCtlWrite p v s else s
  | _ => s

/-! ### The expert register window (R51) -/

/-- Why a window access is refused whole: the addresses, whether it writes, by the rows of R51's table. -/
def windowRefusal (addrs : List Nat) (writes : Bool) (s : State) : Option Status :=
  if addrs.any (fun a => (regVal 2 a s).isNone) then some .invalidField
  else if addrs.any (fun a => regDark a s) then some .busy
  else if writes ∧ addrs.any (fun a => decide (0x20000004 ≤ a) && decide (a < 0x20000030)) then some .denied
  else if writes ∧ s.sec.dgt.owner ≠ 2 ∧ addrs.any (fun a => a = 0x21000000 ∨ a = 0x21000008) then some .denied
  else if writes ∧ s.sec.dgt.owner < 2 ∧ addrs.any (fun a => a / 65536 = 0x2100) then some .denied
  else none

/-- R399: a write of DGT_CTL or DGT_DATA by a user that is not the owner sets denied, through the window too. -/
def markDenied (addrs : List Nat) (s : State) : State :=
  if s.sec.dgt.owner ≠ 2 ∧ addrs.any (fun a => a = 0x21000000 ∨ a = 0x21000008) then
    setDgt { s.sec.dgt with denied := true } s
  else s

/-- The addresses of a run of words. -/
def wordAddrs (a n : Nat) : List Nat := (List.range n).map (fun i => a + 4 * i)

/-- Is the count 1 to 64 words? -/
def countOk (n : Nat) : Bool := decide (1 ≤ n) && decide (n ≤ 64)

/-- R51: REG_READ: address (4), count (2); it returns the words read, in order. -/
def regReadH (p : Bytes) (s : State) : BAns × State :=
  let addrs := wordAddrs (fieldLE p 0 4) (fieldLE p 4 2)
  if !countOk (fieldLE p 4 2) then refuse .invalidField s
  else match windowRefusal addrs false s with
    | some st => refuse st s
    | none =>
      let r := addrs.foldl (fun (acc : Bytes × State) a =>
        (acc.1 ++ leN 4 ((regVal 2 a acc.2).getD 0).toNat, regReadEffect a acc.2)) ([], s)
      (.now (.ok r.1), r.2)

/-- The payload of REG_WRITE: address (4), count (2), then the words. -/
def regWriteLayout (p : Bytes) : Bool := decide (6 ≤ p.length) && decide (p.length = 6 + 4 * fieldLE p 4 2)

/-- R51: REG_WRITE writes the words in order; hardware events may come between them. -/
def regWriteH (p : Bytes) (s : State) : BAns × State :=
  let n := fieldLE p 4 2
  let addrs := wordAddrs (fieldLE p 0 4) n
  if !countOk n then refuse .invalidField s
  else match windowRefusal addrs true s with
    | some st => refuse st (if st = .denied then markDenied addrs s else s)
    | none => (.now .ok, (List.range n).foldl (fun s i =>
        regPoke 2 (fieldLE p 0 4 + 4 * i) (BitVec.ofNat 32 (fieldLE p (6 + 4 * i) 4)) s) s)

/-- R51: REG_MODIFY writes (old AND NOT mask) OR (value AND mask) to one register. -/
def regModifyH (p : Bytes) (s : State) : BAns × State :=
  let a := fieldLE p 0 4
  let mask : Word := BitVec.ofNat 32 (fieldLE p 4 4)
  let value : Word := BitVec.ofNat 32 (fieldLE p 8 4)
  match windowRefusal [a] true s with
  | some st => refuse st (if st = .denied then markDenied [a] s else s)
  | none =>
    let old := (regVal 2 a s).getD 0
    (.now .ok, regPoke 2 a ((old &&& ~~~mask) ||| (value &&& mask)) (regReadEffect a s))

def execRegRead (n : Fin 64) (s : State) : Res := .next (settle (basmos n 0x0F00 (layoutIs 6 []) regReadH s))
def execRegWrite (n : Fin 64) (s : State) : Res := .next (settle (basmos n 0x0F01 regWriteLayout regWriteH s))
def execRegModify (n : Fin 64) (s : State) : Res := .next (settle (basmos n 0x0F02 (layoutIs 12 []) regModifyH s))

/-! ### The Kiosk's registers by the control port, and Lodge firmware's writes (R34, R10) -/

/-- A word of a mailbox's registers as a client reads it (Tables 2.2 to 2.6); the doorbell and reserved words read 0. -/
def mbxRegVal (n o : Nat) (m : Mbx) : Word :=
  match o with
  | 0x3C4 => mbxStat n m
  | 0x3C8 => mbxCtl m
  | 0x3CC => mbxInfo m
  | _ => 0

/-- What a control-port read of len bytes returns (R34, R35, Tables 2.1, 2.2, 2.7): the request and response areas and the
MSI-X structures by aligned reads of 4 or 8 bytes, registers by aligned reads of 4, and all ones by any other size or
alignment. The command table has no row for a read: it changes nothing. -/
def controlRead (space : RegSpace) (addr len : Nat) (s : State) : Bytes :=
  let ones : Bytes := List.replicate len 255
  let m := mbxOf s (addr / 0x400)
  let o := addr % 0x400
  match space with
  | .bar0 =>
    if o < 0x3C0 then
      if !alignedAccess o len then ones
      else if o < 0x200 then memGets m.req o len
      else memGets m.resp (o - 0x200) len
    else if addr % 4 ≠ 0 ∨ len ≠ 4 then ones
    else leN 4 (mbxRegVal (addr / 0x400) o m).toNat
  | .bar1 =>
    if 0x2000 ≤ addr ∧ addr < 0x2400 then
      if alignedAccess addr len then memGets s.kiosk.msixTab (addr - 0x2000) len else ones
    else if 0x3000 ≤ addr ∧ addr < 0x3008 then
      if alignedAccess addr len then bslice (leN 8 s.kiosk.msixPba.toNat) (addr - 0x3000) len else ones
    else if addr % 4 ≠ 0 ∨ len ≠ 4 then ones
    else leN 4 ((kioskVal addr s).getD 0).toNat
  | .window => leN 4 ((regVal 0 addr s).getD 0).toNat

/-- A register access that is not an aligned 32-bit one is discarded with an event (R34). -/
def oddWrite (bar addr len : Nat) (s : State) : State := record 1 1 1 .none (leN 1 bar ++ leN 2 addr ++ leN 2 len) s

/-- KSK_MBX_STAT: done acknowledges the response, and four W1C flags (Table 2.4). -/
def mbxStatWrite (n : Nat) (v : Word) (s : State) : State :=
  let s := if bitOf v 3 then mbxDoneAck n s else s
  let m := mbxOf s n
  setMbx n { m with
    ringBusy := clearBy m.ringBusy v 16, writeBusy := clearBy m.writeBusy v 17
    claimLost := clearBy m.claimLost v 18, hwTimeout := clearBy m.hwTimeout v 19 } s

/-- A write of a mailbox register (Tables 2.3 to 2.5). -/
def mbxRegWrite (n o : Nat) (v : Word) (s : State) : State :=
  match o with
  | 0x3C0 =>
    let s := if bitOf v 0 then mbxRing n s else s
    if bitOf v 1 then mbxCancel n s else s
  | 0x3C4 => mbxStatWrite n v s
  | 0x3C8 => setMbx n { mbxOf s n with vector := fieldOf 6 v 0, irqEn := bitOf v 8 } s
  | _ => s

/-- A write to BAR0 (Tables 2.1, 2.2): the request area, or a register of the mailbox; the response area discards it. -/
def bar0Write (addr : Nat) (data : Bytes) (s : State) : State :=
  let n := addr / 0x400
  let o := addr % 0x400
  if 64 ≤ n then s
  else if o < 0x200 then mbxRequestWrite n o data s
  else if o < 0x3C0 then (if alignedAccess o data.length then s else oddWrite 0 addr data.length s)
  else if addr % 4 ≠ 0 ∨ data.length ≠ 4 then oddWrite 0 addr data.length s
  else mbxRegWrite n o (BitVec.ofNat 32 (leVal data)) s

/-- A vector whose mask bit clears while its message is pending sends the message (PCI Express, log entry 3). -/
def msixUnmask (v : Nat) (s : State) : State :=
  if (memGet s.kiosk.msixTab (16 * v + 12)).getLsbD 0 ∨ !s.kiosk.msixPba.getLsbD v then s
  else emit (.msix v) { s with kiosk := { s.kiosk with msixPba := setBit s.kiosk.msixPba v false } }

/-- A write to BAR1 (Tables 2.1, 2.7): the global registers and the MSI-X table; the pending bits are read-only. -/
def bar1Write (addr : Nat) (data : Bytes) (s : State) : State :=
  if 0x2000 ≤ addr ∧ addr < 0x2400 then
    if !alignedAccess addr data.length then oddWrite 1 addr data.length s
    else msixUnmask ((addr - 0x2000) / 16)
      { s with kiosk := { s.kiosk with msixTab := memPuts s.kiosk.msixTab (addr - 0x2000) data } }
  else if addr % 4 ≠ 0 ∨ data.length ≠ 4 then oddWrite 1 addr data.length s
  else if addr = 0x10 then evtCtlWrite (BitVec.ofNat 32 (leVal data)) s
  else s

/-- REGISTER_WRITE (R10): a write by the control port to BAR0 or BAR1, or by Lodge firmware to a block register. -/
def registerWrite (space : RegSpace) (addr : Nat) (data : Bytes) (s : State) : State :=
  match space with
  | .bar0 => bar0Write addr data s
  | .bar1 => bar1Write addr data s
  | .window =>
    if data.length ≠ 4 ∨ (regVal 0 addr s).isNone ∨ regDark addr s then s
    else regPoke 0 addr (BitVec.ofNat 32 (leVal data)) s

def execRegisterWrite (space : RegSpace) (addr : Nat) (data : Bytes) (s : State) : Res :=
  .next (settle (registerWrite space addr data s))

end Sys2Proof.Machine
end

