-- ==== Sys2Proof/Machine/Dispatch.lean ====
section
/-!
DEFINITION. Machine/Dispatch.lean: the meaning of each command, one arm per constructor of Instr.
-/
namespace Sys2Proof.Machine

/-- A command's effect on everything but the queue. -/
def exec (i : Instr) (s : State) : Host.Outcome State Fault Refusal :=
  match i with
  | .mbxRequestWrite n off data => Sys2Proof.Machine.execMbxRequestWrite n off data s
  | .mbxRing n => Sys2Proof.Machine.execMbxRing n s
  | .mbxCancel n => Sys2Proof.Machine.execMbxCancel n s
  | .mbxDoneAck n => Sys2Proof.Machine.execMbxDoneAck n s
  | .mbxTake n => Sys2Proof.Machine.execMbxTake n s
  | .kioskHwTimeout n => Sys2Proof.Machine.execKioskHwTimeout n s
  | .basmosPart n => Sys2Proof.Machine.execBasmosPart n s
  | .basmosPartTimeout n => Sys2Proof.Machine.execBasmosPartTimeout n s
  | .jobResultExpiry job => Sys2Proof.Machine.execJobResultExpiry job s
  | .nonceExpiry k => Sys2Proof.Machine.execNonceExpiry k s
  | .sessionExpiry => Sys2Proof.Machine.execSessionExpiry s
  | .sessionLockoutEnd => Sys2Proof.Machine.execSessionLockoutEnd s
  | .mb63Write pecOk off data => Sys2Proof.Machine.execMb63Write pecOk off data s
  | .mb63DoorbellRing pecOk => Sys2Proof.Machine.execMb63DoorbellRing pecOk s
  | .mb63DoorbellCancel pecOk => Sys2Proof.Machine.execMb63DoorbellCancel pecOk s
  | .mb63DoorbellAck pecOk => Sys2Proof.Machine.execMb63DoorbellAck pecOk s
  | .mb63StatusRead pecOk => Sys2Proof.Machine.execMb63StatusRead pecOk s
  | .mb63ReadOffset pecOk off => Sys2Proof.Machine.execMb63ReadOffset pecOk off s
  | .mb63Read pecOk count => Sys2Proof.Machine.execMb63Read pecOk count s
  | .smbusAlertResponse => Sys2Proof.Machine.execSmbusAlertResponse s
  | .sysInfo n => Sys2Proof.Machine.execSysInfo n s
  | .sysHealth n => Sys2Proof.Machine.execSysHealth n s
  | .jobStatus n => Sys2Proof.Machine.execJobStatus n s
  | .fwStage n readBackOk => Sys2Proof.Machine.execFwStage n readBackOk s
  | .fwActivate n => Sys2Proof.Machine.execFwActivate n s
  | .headReset n => Sys2Proof.Machine.execHeadReset n s
  | .sessionChallenge n => Sys2Proof.Machine.execSessionChallenge n s
  | .sessionOpen n => Sys2Proof.Machine.execSessionOpen n s
  | .sessionClose n => Sys2Proof.Machine.execSessionClose n s
  | .claimList n => Sys2Proof.Machine.execClaimList n s
  | .claimRevoke n => Sys2Proof.Machine.execClaimRevoke n s
  | .volCreate n => Sys2Proof.Machine.execVolCreate n s
  | .volDelete n => Sys2Proof.Machine.execVolDelete n s
  | .volResize n => Sys2Proof.Machine.execVolResize n s
  | .volList n => Sys2Proof.Machine.execVolList n s
  | .domCreate n => Sys2Proof.Machine.execDomCreate n s
  | .domPolicy n => Sys2Proof.Machine.execDomPolicy n s
  | .domByteVerify n => Sys2Proof.Machine.execDomByteVerify n s
  | .pwrBudgetSet n => Sys2Proof.Machine.execPwrBudgetSet n s
  | .pwrStatePolicy n => Sys2Proof.Machine.execPwrStatePolicy n s
  | .pwrStatus n => Sys2Proof.Machine.execPwrStatus n s
  | .pwrStateForce n => Sys2Proof.Machine.execPwrStateForce n s
  | .avsSet n => Sys2Proof.Machine.execAvsSet n s
  | .wakeSourceSet n => Sys2Proof.Machine.execWakeSourceSet n s
  | .plcPolicy n => Sys2Proof.Machine.execPlcPolicy n s
  | .shelfStatus n => Sys2Proof.Machine.execShelfStatus n s
  | .shelfWake n => Sys2Proof.Machine.execShelfWake n s
  | .shelfSleep n => Sys2Proof.Machine.execShelfSleep n s
  | .shelfHarden n => Sys2Proof.Machine.execShelfHarden n s
  | .homeShelfSet n => Sys2Proof.Machine.execHomeShelfSet n s
  | .mediaStatus n => Sys2Proof.Machine.execMediaStatus n s
  | .mediaPolicy n => Sys2Proof.Machine.execMediaPolicy n s
  | .gcForce n => Sys2Proof.Machine.execGcForce n s
  | .blockRetire n => Sys2Proof.Machine.execBlockRetire n s
  | .scrubNow n => Sys2Proof.Machine.execScrubNow n s
  | .dramStatus n => Sys2Proof.Machine.execDramStatus n s
  | .dramTrain n => Sys2Proof.Machine.execDramTrain n s
  | .rankRetire n => Sys2Proof.Machine.execRankRetire n s
  | .dramQosSet n => Sys2Proof.Machine.execDramQosSet n s
  | .cacheStatus n => Sys2Proof.Machine.execCacheStatus n s
  | .wayLock n => Sys2Proof.Machine.execWayLock n s
  | .wayPower n => Sys2Proof.Machine.execWayPower n s
  | .cacheMaint n => Sys2Proof.Machine.execCacheMaint n s
  | .keyWrappedLoad n => Sys2Proof.Machine.execKeyWrappedLoad n s
  | .keyZeroise n => Sys2Proof.Machine.execKeyZeroise n s
  | .attest n => Sys2Proof.Machine.execAttest n s
  | .operatorKeyRegister n => Sys2Proof.Machine.execOperatorKeyRegister n s
  | .keySlotInfo n => Sys2Proof.Machine.execKeySlotInfo n s
  | .evtRead n => Sys2Proof.Machine.execEvtRead n s
  | .evtSummary n => Sys2Proof.Machine.execEvtSummary n s
  | .monArm n => Sys2Proof.Machine.execMonArm n s
  | .monRead n => Sys2Proof.Machine.execMonRead n s
  | .selftestRun n => Sys2Proof.Machine.execSelftestRun n s
  | .portConfig n trained => Sys2Proof.Machine.execPortConfig n trained s
  | .qpStatus n => Sys2Proof.Machine.execQpStatus n s
  | .pdConfig n => Sys2Proof.Machine.execPdConfig n s
  | .qpReset n => Sys2Proof.Machine.execQpReset n s
  | .creditSet n => Sys2Proof.Machine.execCreditSet n s
  | .pairStatus n => Sys2Proof.Machine.execPairStatus n s
  | .pairJoin n => Sys2Proof.Machine.execPairJoin n s
  | .failback n => Sys2Proof.Machine.execFailback n s
  | .takeoverForce n => Sys2Proof.Machine.execTakeoverForce n s
  | .migrationWindow n => Sys2Proof.Machine.execMigrationWindow n s
  | .snapCreate n => Sys2Proof.Machine.execSnapCreate n s
  | .snapDelete n => Sys2Proof.Machine.execSnapDelete n s
  | .snapList n => Sys2Proof.Machine.execSnapList n s
  | .replConfig n => Sys2Proof.Machine.execReplConfig n s
  | .replStatus n => Sys2Proof.Machine.execReplStatus n s
  | .replResync n => Sys2Proof.Machine.execReplResync n s
  | .regRead n => Sys2Proof.Machine.execRegRead n s
  | .regWrite n => Sys2Proof.Machine.execRegWrite n s
  | .regModify n => Sys2Proof.Machine.execRegModify n s
  | .registerWrite space addr data => Sys2Proof.Machine.execRegisterWrite space addr data s
  | .claimEnableWrite cls index en => Sys2Proof.Machine.execClaimEnableWrite cls index en s
  | .functionLevelReset => Sys2Proof.Machine.execFunctionLevelReset s
  | .queueOpen qpn port supported host private1 => Sys2Proof.Machine.execQueueOpen qpn port supported host private1 s
  | .rtu qpn => Sys2Proof.Machine.execRtu qpn s
  | .dreq qpn => Sys2Proof.Machine.execDreq qpn s
  | .connectingTimeout qpn => Sys2Proof.Machine.execConnectingTimeout qpn s
  | .queueKeepaliveExpiry qpn => Sys2Proof.Machine.execQueueKeepaliveExpiry qpn s
  | .replayTableExpiry queueId => Sys2Proof.Machine.execReplayTableExpiry queueId s
  | .inboundPacket qpn pkt => Sys2Proof.Machine.execInboundPacket qpn pkt s
  | .taggedSegment qpn => Sys2Proof.Machine.execTaggedSegment qpn s
  | .plainSend qpn => Sys2Proof.Machine.execPlainSend qpn s
  | .plainCopyDone qpn tag => Sys2Proof.Machine.execPlainCopyDone qpn tag s
  | .stagingPageFree qpn tag page => Sys2Proof.Machine.execStagingPageFree qpn tag page s
  | .stagingFaultTimeout qpn => Sys2Proof.Machine.execStagingFaultTimeout qpn s
  | .contextFetchDone qpn lineOk => Sys2Proof.Machine.execContextFetchDone qpn lineOk s
  | .ackCoalesceTimer qpn => Sys2Proof.Machine.execAckCoalesceTimer qpn s
  | .selectiveNakTimer qpn psn => Sys2Proof.Machine.execSelectiveNakTimer qpn psn s
  | .outboundAckTimeout qpn => Sys2Proof.Machine.execOutboundAckTimeout qpn s
  | .rnrNakReceived qpn psn timer => Sys2Proof.Machine.execRnrNakReceived qpn psn timer s
  | .rnrResendTimer qpn => Sys2Proof.Machine.execRnrResendTimer qpn s
  | .rnrHoldExpiry qpn => Sys2Proof.Machine.execRnrHoldExpiry qpn s
  | .remoteAccessErrorNak qpn psn => Sys2Proof.Machine.execRemoteAccessErrorNak qpn psn s
  | .invalidRequestNak qpn => Sys2Proof.Machine.execInvalidRequestNak qpn s
  | .cnpReceived qpn since50us => Sys2Proof.Machine.execCnpReceived qpn since50us s
  | .rateRecoveryTick qpn => Sys2Proof.Machine.execRateRecoveryTick qpn s
  | .pauseFrame port priority pause => Sys2Proof.Machine.execPauseFrame port priority pause s
  | .hostPortLinkChange port up => Sys2Proof.Machine.execHostPortLinkChange port up s
  | .creditStarvationTimer qpn => Sys2Proof.Machine.execCreditStarvationTimer qpn s
  | .oldRxKeyExpiry qpn => Sys2Proof.Machine.execOldRxKeyExpiry qpn s
  | .queueKeyHoldExpiry queueId => Sys2Proof.Machine.execQueueKeyHoldExpiry queueId s
  | .messageTimerExpiry qpn tag => Sys2Proof.Machine.execMessageTimerExpiry qpn tag s
  | .write qpn tag => Sys2Proof.Machine.execWrite qpn tag s
  | .read qpn tag => Sys2Proof.Machine.execRead qpn tag s
  | .flush qpn tag => Sys2Proof.Machine.execFlush qpn tag s
  | .release qpn tag => Sys2Proof.Machine.execRelease qpn tag s
  | .abort qpn tag => Sys2Proof.Machine.execAbort qpn tag s
  | .recall qpn tag => Sys2Proof.Machine.execRecall qpn tag s
  | .identify qpn tag => Sys2Proof.Machine.execIdentify qpn tag s
  | .keepalive qpn tag => Sys2Proof.Machine.execKeepalive qpn tag s
  | .overlapRelease asn => Sys2Proof.Machine.execOverlapRelease asn s
  | .orderedBarrierRelease qpn => Sys2Proof.Machine.execOrderedBarrierRelease qpn s
  | .fingerprintDone asn chunk => Sys2Proof.Machine.execFingerprintDone asn chunk s
  | .indexGroupReadDone asn chunk ok => Sys2Proof.Machine.execIndexGroupReadDone asn chunk ok s
  | .lookupShed asn chunk => Sys2Proof.Machine.execLookupShed asn chunk s
  | .verifyReadDone asn chunk poisoned => Sys2Proof.Machine.execVerifyReadDone asn chunk poisoned s
  | .verifyShed asn chunk => Sys2Proof.Machine.execVerifyShed asn chunk s
  | .mergeReadDone asn chunk poisoned => Sys2Proof.Machine.execMergeReadDone asn chunk poisoned s
  | .compressionDone asn chunk => Sys2Proof.Machine.execCompressionDone asn chunk s
  | .encryptionDone asn chunk => Sys2Proof.Machine.execEncryptionDone asn chunk s
  | .journalWriteAck off => Sys2Proof.Machine.execJournalWriteAck off s
  | .commitUnitCommit asn unit => Sys2Proof.Machine.execCommitUnitCommit asn unit s
  | .journalRelease asn unit => Sys2Proof.Machine.execJournalRelease asn unit s
  | .epochTimerFire => Sys2Proof.Machine.execEpochTimerFire s
  | .holdOkFall => Sys2Proof.Machine.execHoldOkFall s
  | .holdOkRise => Sys2Proof.Machine.execHoldOkRise s
  | .flashConfirmedExit => Sys2Proof.Machine.execFlashConfirmedExit s
  | .pwrFailFall => Sys2Proof.Machine.execPwrFailFall s
  | .compactionCopyDone => Sys2Proof.Machine.execCompactionCopyDone s
  | .pwrFailRise => Sys2Proof.Machine.execPwrFailRise s
  | .restartPeerWaitExpiry => Sys2Proof.Machine.execRestartPeerWaitExpiry s
  | .restartReplayDone => Sys2Proof.Machine.execRestartReplayDone s
  | .keepOkFall => Sys2Proof.Machine.execKeepOkFall s
  | .hello msg => Sys2Proof.Machine.execHello msg s
  | .heartbeat port msg => Sys2Proof.Machine.execHeartbeat port msg s
  | .mirror msgId recs => Sys2Proof.Machine.execMirror msgId recs s
  | .receipt cumId ranges => Sys2Proof.Machine.execReceipt cumId ranges s
  | .snak portClass firstSeq lastSeq msgId => Sys2Proof.Machine.execSnak portClass firstSeq lastSeq msgId s
  | .handover msg => Sys2Proof.Machine.execHandover msg s
  | .resync msgId recs => Sys2Proof.Machine.execResync msgId recs s
  | .footbridgeGapTimer msgId => Sys2Proof.Machine.execFootbridgeGapTimer msgId s
  | .footbridgeResendTimer msgId => Sys2Proof.Machine.execFootbridgeResendTimer msgId s
  | .footbridgePortDown port => Sys2Proof.Machine.execFootbridgePortDown port s
  | .pcsAlignmentChange port aligned => Sys2Proof.Machine.execPcsAlignmentChange port aligned s
  | .heartbeatSendTimer => Sys2Proof.Machine.execHeartbeatSendTimer s
  | .hbKick => Sys2Proof.Machine.execHbKick s
  | .hbPinToggle => Sys2Proof.Machine.execHbPinToggle s
  | .peerHbInEdge => Sys2Proof.Machine.execPeerHbInEdge s
  | .pinPathSilent => Sys2Proof.Machine.execPinPathSilent s
  | .messagePathSilent => Sys2Proof.Machine.execMessagePathSilent s
  | .partialSilenceTimeout => Sys2Proof.Machine.execPartialSilenceTimeout s
  | .roleBFenceDelay => Sys2Proof.Machine.execRoleBFenceDelay s
  | .fenceInFall => Sys2Proof.Machine.execFenceInFall s
  | .fenceInRise => Sys2Proof.Machine.execFenceInRise s
  | .takeoverSledWaitEnd => Sys2Proof.Machine.execTakeoverSledWaitEnd s
  | .takeoverMapLoaded => Sys2Proof.Machine.execTakeoverMapLoaded s
  | .handoverDrainDone => Sys2Proof.Machine.execHandoverDrainDone s
  | .resyncComplete => Sys2Proof.Machine.execResyncComplete s
  | .failbackFenceRelease => Sys2Proof.Machine.execFailbackFenceRelease s
  | .pairingPortTimeout => Sys2Proof.Machine.execPairingPortTimeout s
  | .migrationWindowExpiry => Sys2Proof.Machine.execMigrationWindowExpiry s
  | .arrayRecordReadDone record => Sys2Proof.Machine.execArrayRecordReadDone record s
  | .replicationMessage qpn tag msg => Sys2Proof.Machine.execReplicationMessage qpn tag msg s
  | .replicationProbe qpn tag relationship batch => Sys2Proof.Machine.execReplicationProbe qpn tag relationship batch s
  | .replicationCompletion relationship msgNo status durable batchApplied probe => Sys2Proof.Machine.execReplicationCompletion relationship msgNo status durable batchApplied probe s
  | .shelfWakeGrant g => Sys2Proof.Machine.execShelfWakeGrant g s
  | .shfPwrGoodRise g => Sys2Proof.Machine.execShfPwrGoodRise g s
  | .shfPwrGoodFall g => Sys2Proof.Machine.execShfPwrGoodFall g s
  | .shelfWakeTimeout g sixSeconds => Sys2Proof.Machine.execShelfWakeTimeout g sixSeconds s
  | .shelfWakeRetry g => Sys2Proof.Machine.execShelfWakeRetry g s
  | .shelfHourlyRetry g => Sys2Proof.Machine.execShelfHourlyRetry g s
  | .shelfRequestHoldoffEnd g => Sys2Proof.Machine.execShelfRequestHoldoffEnd g s
  | .minAwakeExpiry g => Sys2Proof.Machine.execMinAwakeExpiry g s
  | .idleCloseExpiry g => Sys2Proof.Machine.execIdleCloseExpiry g s
  | .batchWindowEnd => Sys2Proof.Machine.execBatchWindowEnd s
  | .urgencyStep item => Sys2Proof.Machine.execUrgencyStep item s
  | .scheduleGrant => Sys2Proof.Machine.execScheduleGrant s
  | .meterWindow g => Sys2Proof.Machine.execMeterWindow g s
  | .chunkPlace serial => Sys2Proof.Machine.execChunkPlace serial s
  | .shelfCloseComplete g => Sys2Proof.Machine.execShelfCloseComplete g s
  | .recallStageDone asn => Sys2Proof.Machine.execRecallStageDone asn s
  | .recallHoldExpiry hold => Sys2Proof.Machine.execRecallHoldExpiry hold s
  | .retentionDue g => Sys2Proof.Machine.execRetentionDue g s
  | .heatFold => Sys2Proof.Machine.execHeatFold s
  | .heatHalving => Sys2Proof.Machine.execHeatHalving s
  | .checkpointStart => Sys2Proof.Machine.execCheckpointStart s
  | .checkpointComplete => Sys2Proof.Machine.execCheckpointComplete s
  | .gcEraseWaitEnd g band => Sys2Proof.Machine.execGcEraseWaitEnd g band s
  | .readDisturbFold => Sys2Proof.Machine.execReadDisturbFold s
  | .sequencedFlit port flit => Sys2Proof.Machine.execSequencedFlit port flit s
  | .idle port ack => Sys2Proof.Machine.execIdle port ack s
  | .nak port seq => Sys2Proof.Machine.execNak port seq s
  | .credit port cmd mgmt data => Sys2Proof.Machine.execCredit port cmd mgmt data s
  | .sleepAck port => Sys2Proof.Machine.execSleepAck port s
  | .sleepNak port => Sys2Proof.Machine.execSleepNak port s
  | .flitReplayTimeout port => Sys2Proof.Machine.execFlitReplayTimeout port s
  | .flitNakHoldoffEnd port => Sys2Proof.Machine.execFlitNakHoldoffEnd port s
  | .ts1 port preset asked => Sys2Proof.Machine.execTs1 port preset asked s
  | .ts2 port ts => Sys2Proof.Machine.execTs2 port ts s
  | .farEndDetected port => Sys2Proof.Machine.execFarEndDetected port s
  | .linkDetectRetry port => Sys2Proof.Machine.execLinkDetectRetry port s
  | .linkStateTimeout port => Sys2Proof.Machine.execLinkStateTimeout port s
  | .framingError port => Sys2Proof.Machine.execFramingError port s
  | .sleepIdleTimer port => Sys2Proof.Machine.execSleepIdleTimer port s
  | .testComplete port errors => Sys2Proof.Machine.execTestComplete port errors s
  | .sledReadResponse resp => Sys2Proof.Machine.execSledReadResponse resp s
  | .sledProgramResponse resp => Sys2Proof.Machine.execSledProgramResponse resp s
  | .sledEraseResponse resp => Sys2Proof.Machine.execSledEraseResponse resp s
  | .dieStatusResponse resp => Sys2Proof.Machine.execDieStatusResponse resp s
  | .bridgeInfoResponse resp reread => Sys2Proof.Machine.execBridgeInfoResponse resp reread s
  | .portLockResponse resp => Sys2Proof.Machine.execPortLockResponse resp s
  | .notice port kind die temp => Sys2Proof.Machine.execNotice port kind die temp s
  | .sledCmdTimeout port tag fourthInSecond => Sys2Proof.Machine.execSledCmdTimeout port tag fourthInSecond s
  | .linkActiveTimeout port => Sys2Proof.Machine.execLinkActiveTimeout port s
  | .slpCtlEn port en => Sys2Proof.Machine.execSlpCtlEn port en s
  | .slpRetrain port => Sys2Proof.Machine.execSlpRetrain port s
  | .slpTest port => Sys2Proof.Machine.execSlpTest port s
  | .identityRecordRead g slot record => Sys2Proof.Machine.execIdentityRecordRead g slot record s
  | .i2cStretchTimeout g slot attempt => Sys2Proof.Machine.execI2cStretchTimeout g slot attempt s
  | .dramRetrainPause ch rank => Sys2Proof.Machine.execDramRetrainPause ch rank s
  | .dramRefreshDue ch rank waiting => Sys2Proof.Machine.execDramRefreshDue ch rank waiting s
  | .dramThermalRead ch slot reading tenths => Sys2Proof.Machine.execDramThermalRead ch slot reading tenths s
  | .dramRcdAlert ch rank withinSecond repeatOk => Sys2Proof.Machine.execDramRcdAlert ch rank withinSecond repeatOk s
  | .dramReadError ch rank ca corrected => Sys2Proof.Machine.execDramReadError ch rank ca corrected s
  | .dramPatrolScrub ch => Sys2Proof.Machine.execDramPatrolScrub ch s
  | .rankMigrationDone ch => Sys2Proof.Machine.execRankMigrationDone ch s
  | .dramUseWindow bytes => Sys2Proof.Machine.execDramUseWindow bytes s
  | .trnMpcPattern ch => Sys2Proof.Machine.execTrnMpcPattern ch s
  | .trnWriteRead ch => Sys2Proof.Machine.execTrnWriteRead ch s
  | .trnDqsOsc ch => Sys2Proof.Machine.execTrnDqsOsc ch s
  | .trnReadCompare ch => Sys2Proof.Machine.execTrnReadCompare ch s
  | .trnHelperDone ch failDq failCb => Sys2Proof.Machine.execTrnHelperDone ch failDq failCb s
  | .dmcGeomLock ch => Sys2Proof.Machine.execDmcGeomLock ch s
  | .dmcBankHashWrite ch k mask => Sys2Proof.Machine.execDmcBankHashWrite ch k mask s
  | .dmcChanHashWrite i1 mask => Sys2Proof.Machine.execDmcChanHashWrite i1 mask s
  | .cacheClean => Sys2Proof.Machine.execCacheClean s
  | .cacheInvalidate => Sys2Proof.Machine.execCacheInvalidate s
  | .cacheMaintDone => Sys2Proof.Machine.execCacheMaintDone s
  | .cnsWayDown way => Sys2Proof.Machine.execCnsWayDown way s
  | .cnsWayUp way => Sys2Proof.Machine.execCnsWayUp way s
  | .wayDownComplete way => Sys2Proof.Machine.execWayDownComplete way s
  | .lockLoadComplete i1 => Sys2Proof.Machine.execLockLoadComplete i1 s
  | .ageingTick => Sys2Proof.Machine.execAgeingTick s
  | .trackerBreak t => Sys2Proof.Machine.execTrackerBreak t s
  | .cnsSliceHashWrite k mask => Sys2Proof.Machine.execCnsSliceHashWrite k mask s
  | .cnsHashLock => Sys2Proof.Machine.execCnsHashLock s
  | .cnsParityError line => Sys2Proof.Machine.execCnsParityError line s
  | .cnsTagParityError line both => Sys2Proof.Machine.execCnsTagParityError line both s
  | .keyDataWrite i1 word => Sys2Proof.Machine.execKeyDataWrite i1 word s
  | .keySlotLoad slot => Sys2Proof.Machine.execKeySlotLoad slot s
  | .keySlotZeroise slot => Sys2Proof.Machine.execKeySlotZeroise slot s
  | .keySlotParityError slot => Sys2Proof.Machine.execKeySlotParityError slot s
  | .cipherQueue2Submit tail => Sys2Proof.Machine.execCipherQueue2Submit tail s
  | .cipherRequestDone queue id poisoned => Sys2Proof.Machine.execCipherRequestDone queue id poisoned s
  | .digestStart user alg hmac restore slot => Sys2Proof.Machine.execDigestStart user alg hmac restore slot s
  | .digestDataWrite user word => Sys2Proof.Machine.execDigestDataWrite user word s
  | .digestFinal user lastBytes => Sys2Proof.Machine.execDigestFinal user lastBytes s
  | .digestBlockDone => Sys2Proof.Machine.execDigestBlockDone s
  | .digestClaimRequest req => Sys2Proof.Machine.execDigestClaimRequest req s
  | .digestRelease user => Sys2Proof.Machine.execDigestRelease user s
  | .digestWindowIdleTimeout => Sys2Proof.Machine.execDigestWindowIdleTimeout s
  | .pkaOperationDone selfCheckOk => Sys2Proof.Machine.execPkaOperationDone selfCheckOk s
  | .rngHealthTrip apt withinMinute => Sys2Proof.Machine.execRngHealthTrip apt withinMinute s
  | .drbgReseed => Sys2Proof.Machine.execDrbgReseed s
  | .smbusAddressMatch => Sys2Proof.Machine.execSmbusAddressMatch s
  | .smbusStretchTimeout => Sys2Proof.Machine.execSmbusStretchTimeout s
  | .wakeNLow low => Sys2Proof.Machine.execWakeNLow low s
  | .gpioWakeEdge pin => Sys2Proof.Machine.execGpioWakeEdge pin s
  | .ghTimerExpiry t => Sys2Proof.Machine.execGhTimerExpiry t s
  | .timerCompareWrite t ticks => Sys2Proof.Machine.execTimerCompareWrite t ticks s
  | .ghSleepWatch => Sys2Proof.Machine.execGhSleepWatch s
  | .ghSleepDormant => Sys2Proof.Machine.execGhSleepDormant s
  | .idlePolicyTimer => Sys2Proof.Machine.execIdlePolicyTimer s
  | .dormantAfterTimer => Sys2Proof.Machine.execDormantAfterTimer s
  | .avsChangeStart rail mv => Sys2Proof.Machine.execAvsChangeStart rail mv s
  | .avsResponse bus good vdone ma => Sys2Proof.Machine.execAvsResponse bus good vdone ma s
  | .avsStatusPoll bus => Sys2Proof.Machine.execAvsStatusPoll bus s
  | .avsAckTimeout bus => Sys2Proof.Machine.execAvsAckTimeout bus s
  | .avsVdoneTimeout bus => Sys2Proof.Machine.execAvsVdoneTimeout bus s
  | .pllLock k => Sys2Proof.Machine.execPllLock k s
  | .pllLockTimeout k => Sys2Proof.Machine.execPllLockTimeout k s
  | .wakeRetryWaitEnd => Sys2Proof.Machine.execWakeRetryWaitEnd s
  | .xtalFail => Sys2Proof.Machine.execXtalFail s
  | .xtalRestore => Sys2Proof.Machine.execXtalRestore s
  | .operatingTimeTick => Sys2Proof.Machine.execOperatingTimeTick s
  | .optimeLock => Sys2Proof.Machine.execOptimeLock s
  | .watchdogKick => Sys2Proof.Machine.execWatchdogKick s
  | .watchdogExpiry => Sys2Proof.Machine.execWatchdogExpiry s
  | .warmReset => Sys2Proof.Machine.execWarmReset s
  | .powerOnReset straps board => Sys2Proof.Machine.execPowerOnReset straps board s
  | .bootComplete ok => Sys2Proof.Machine.execBootComplete ok s
  | .slotConfirm => Sys2Proof.Machine.execSlotConfirm s
  | .tjSample readings => Sys2Proof.Machine.execTjSample readings s
  | .thermalThrottleStep => Sys2Proof.Machine.execThermalThrottleStep s
  | .tjCoolTimer => Sys2Proof.Machine.execTjCoolTimer s
  | .pathMonitorRead slack => Sys2Proof.Machine.execPathMonitorRead slack s
  | .errorSignal cls subsystem subject => Sys2Proof.Machine.execErrorSignal cls subsystem subject s
  | .selftestVerdict subject verdict mismatches => Sys2Proof.Machine.execSelftestVerdict subject verdict mismatches s
  | .monCtlArm u => Sys2Proof.Machine.execMonCtlArm u s
  | .monCtlStop u => Sys2Proof.Machine.execMonCtlStop u s
  | .monCtlSnap u => Sys2Proof.Machine.execMonCtlSnap u s
  | .monWindowEnd u => Sys2Proof.Machine.execMonWindowEnd u s
  | .evrRdDataRead => Sys2Proof.Machine.execEvrRdDataRead s
  | .evrSeqLock => Sys2Proof.Machine.execEvrSeqLock s
  | .eventLogAppend => Sys2Proof.Machine.execEventLogAppend s
  | .eventSummaryWrite => Sys2Proof.Machine.execEventSummaryWrite s
  | .footbridgeSegment port cls portSeq msgId type1 offset len total checkOk => Sys2Proof.Machine.execFootbridgeSegment port cls portSeq msgId type1 offset len total checkOk s
  | .decompressionDone asn chunk => Sys2Proof.Machine.execDecompressionDone asn chunk s
  | .shelfHoldExpiry g => Sys2Proof.Machine.execShelfHoldExpiry g s
  | .pwronRstNFall => Sys2Proof.Machine.execPwronRstNFall s
  | .headResetDelayEnd => Sys2Proof.Machine.execHeadResetDelayEnd s
  | .replicationLinkReply relationship status qpn => Sys2Proof.Machine.execReplicationLinkReply relationship status qpn s
  | .timerPulseEnd pin => Sys2Proof.Machine.execTimerPulseEnd pin s

end Sys2Proof.Machine
end

