-- ==== Sys2Proof/WellFormed.lean ====
section
/-!
DEFINITION. WellFormed.lean: the commands whose operands have the widths and ranges that the manual gives them. An operand
whose type already has its range needs no check; an operand that names a thing inside the head (an ASN, a chunk, a hold)
may name one that is not there, and the command then leaves the state as it is.
-/
namespace Sys2Proof

/-- The units of a claimable class that has user enable bits (Table 2.17). -/
def claimUnits : Nat → Nat
  | 1 => 16
  | 2 => 8
  | 3 => 32
  | 4 => 4
  | _ => 0

/-- A register access lies in its space: BAR0 is 64 KiB, BAR1 16 KiB (Table 2.1), and a window access is one aligned
32-bit word (R51). -/
def registerWf (space : RegSpace) (addr : Nat) (data : Bytes) : Bool :=
  match space with
  | .bar0 => decide (0 < data.length ∧ addr + data.length ≤ 65536)
  | .bar1 => decide (0 < data.length ∧ addr + data.length ≤ 16384)
  | .window => decide (data.length = 4 ∧ addr % 4 = 0 ∧ addr < 2 ^ 32)

/-- The volumes of a HANDOVER have 16-bit numbers (R114, R147). -/
def handoverWf : HandoverMsg → Bool
  | .relinquish volumes => volumes.all (fun v => decide (v < 65536))
  | .volumesReceived volumes => volumes.all (fun v => decide (v < 65536))
  | .requestFence => true

/-- The header fields of a sequenced flit (Table 10.5) and its 248 payload bytes (R289). -/
def flitWf (f : Flit) : Bool := decide (f.vc ≤ 3 ∧ f.seq < 4096 ∧ f.ack < 4096 ∧ f.dcr < 16 ∧ f.payload.length = 248)

/-- The fields of a response descriptor (Table 10.10); a READ returns whole 512-byte pieces, of one page at the most. -/
def respWf (r : SledResp) : Bool :=
  decide (r.tag < 1024 ∧ r.outcome < 256 ∧ r.detail.length = 20 ∧ r.data.length % 512 = 0 ∧ r.data.length ≤ 16384)

/-- An identity memory holds at most 256 bytes (R309, R476). -/
def recordWf : RecordRead → Bool
  | some bytes => decide (bytes.length ≤ 256)
  | none => true

/-- The fields of a Footbridge header (Table 4.1); only a LAST segment gives the message length. -/
def segmentWf (portSeq len offset : Nat) (total : Option Nat) : Bool :=
  decide (portSeq < 2 ^ 32 ∧ len ≤ 9088 ∧ offset < 2 ^ 24) &&
    (match total with
    | some t => decide (1 ≤ t ∧ t ≤ 2 ^ 24 ∧ offset + len = t)
    | none => true)

/-- Is the command well formed? -/
def Instr.wf : Instr → Bool
  | .mbxRequestWrite _ off data => decide (0 < data.length ∧ off + data.length ≤ 512)
  | .mbxRing _ => true
  | .mbxCancel _ => true
  | .mbxDoneAck _ => true
  | .mbxTake _ => true
  | .kioskHwTimeout _ => true
  | .basmosPart _ => true
  | .basmosPartTimeout _ => true
  | .jobResultExpiry _ => true
  | .nonceExpiry _ => true
  | .sessionExpiry => true
  | .sessionLockoutEnd => true
  | .mb63Write _ off data => decide (off < 65536 ∧ 0 < data.length ∧ data.length ≤ 240)
  | .mb63DoorbellRing _ => true
  | .mb63DoorbellCancel _ => true
  | .mb63DoorbellAck _ => true
  | .mb63StatusRead _ => true
  | .mb63ReadOffset _ off => decide (off < 65536)
  | .mb63Read _ count => decide (0 < count ∧ count ≤ 240)
  | .smbusAlertResponse => true
  | .sysInfo _ => true
  | .sysHealth _ => true
  | .jobStatus _ => true
  | .fwStage _ _ => true
  | .fwActivate _ => true
  | .headReset _ => true
  | .sessionChallenge _ => true
  | .sessionOpen _ => true
  | .sessionClose _ => true
  | .claimList _ => true
  | .claimRevoke _ => true
  | .volCreate _ => true
  | .volDelete _ => true
  | .volResize _ => true
  | .volList _ => true
  | .domCreate _ => true
  | .domPolicy _ => true
  | .domByteVerify _ => true
  | .pwrBudgetSet _ => true
  | .pwrStatePolicy _ => true
  | .pwrStatus _ => true
  | .pwrStateForce _ => true
  | .avsSet _ => true
  | .wakeSourceSet _ => true
  | .plcPolicy _ => true
  | .shelfStatus _ => true
  | .shelfWake _ => true
  | .shelfSleep _ => true
  | .shelfHarden _ => true
  | .homeShelfSet _ => true
  | .mediaStatus _ => true
  | .mediaPolicy _ => true
  | .gcForce _ => true
  | .blockRetire _ => true
  | .scrubNow _ => true
  | .dramStatus _ => true
  | .dramTrain _ => true
  | .rankRetire _ => true
  | .dramQosSet _ => true
  | .cacheStatus _ => true
  | .wayLock _ => true
  | .wayPower _ => true
  | .cacheMaint _ => true
  | .keyWrappedLoad _ => true
  | .keyZeroise _ => true
  | .attest _ => true
  | .operatorKeyRegister _ => true
  | .keySlotInfo _ => true
  | .evtRead _ => true
  | .evtSummary _ => true
  | .monArm _ => true
  | .monRead _ => true
  | .selftestRun _ => true
  | .portConfig _ _ => true
  | .qpStatus _ => true
  | .pdConfig _ => true
  | .qpReset _ => true
  | .creditSet _ => true
  | .pairStatus _ => true
  | .pairJoin _ => true
  | .failback _ => true
  | .takeoverForce _ => true
  | .migrationWindow _ => true
  | .snapCreate _ => true
  | .snapDelete _ => true
  | .snapList _ => true
  | .replConfig _ => true
  | .replStatus _ => true
  | .replResync _ => true
  | .regRead _ => true
  | .regWrite _ => true
  | .regModify _ => true
  | .registerWrite space addr data => registerWf space addr data
  | .claimEnableWrite cls index _ => decide (1 ≤ cls ∧ cls ≤ 4 ∧ index < claimUnits cls)
  | .functionLevelReset => true
  | .queueOpen _ _ _ host _ => decide (host.1 < 2 ^ 24 ∧ host.2 < 2 ^ 24)
  | .rtu _ => true
  | .dreq _ => true
  | .connectingTimeout _ => true
  | .queueKeepaliveExpiry _ => true
  | .replayTableExpiry queueId => decide (0 < queueId ∧ queueId < 2 ^ 64)
  | .inboundPacket _ pkt => decide (pkt.psn < 2 ^ 24)
  | .taggedSegment _ => true
  | .plainSend _ => true
  | .plainCopyDone _ _ => true
  | .stagingPageFree _ _ page => decide (page < 257)
  | .stagingFaultTimeout _ => true
  | .contextFetchDone _ _ => true
  | .ackCoalesceTimer _ => true
  | .selectiveNakTimer _ psn => decide (psn < 2 ^ 24)
  | .outboundAckTimeout _ => true
  | .rnrNakReceived _ psn timer => decide (psn < 2 ^ 24 ∧ timer < 32)
  | .rnrResendTimer _ => true
  | .rnrHoldExpiry _ => true
  | .remoteAccessErrorNak _ psn => decide (psn < 2 ^ 24)
  | .invalidRequestNak _ => true
  | .cnpReceived _ _ => true
  | .rateRecoveryTick _ => true
  | .pauseFrame _ priority _ => decide (priority < 8)
  | .hostPortLinkChange _ _ => true
  | .creditStarvationTimer _ => true
  | .oldRxKeyExpiry _ => true
  | .queueKeyHoldExpiry queueId => decide (0 < queueId ∧ queueId < 2 ^ 64)
  | .messageTimerExpiry _ _ => true
  | .write _ _ => true
  | .read _ _ => true
  | .flush _ _ => true
  | .release _ _ => true
  | .abort _ _ => true
  | .recall _ _ => true
  | .identify _ _ => true
  | .keepalive _ _ => true
  | .overlapRelease asn => decide (asn < 2 ^ 64)
  | .orderedBarrierRelease _ => true
  | .fingerprintDone asn _ => decide (asn < 2 ^ 64)
  | .indexGroupReadDone asn _ _ => decide (asn < 2 ^ 64)
  | .lookupShed asn _ => decide (asn < 2 ^ 64)
  | .verifyReadDone asn _ _ => decide (asn < 2 ^ 64)
  | .verifyShed asn _ => decide (asn < 2 ^ 64)
  | .mergeReadDone asn _ _ => decide (asn < 2 ^ 64)
  | .compressionDone asn _ => decide (asn < 2 ^ 64)
  | .encryptionDone asn _ => decide (asn < 2 ^ 64)
  | .journalWriteAck _ => true
  | .commitUnitCommit asn _ => decide (asn < 2 ^ 64)
  | .journalRelease asn _ => decide (asn < 2 ^ 64)
  | .epochTimerFire => true
  | .holdOkFall => true
  | .holdOkRise => true
  | .flashConfirmedExit => true
  | .pwrFailFall => true
  | .compactionCopyDone => true
  | .pwrFailRise => true
  | .restartPeerWaitExpiry => true
  | .restartReplayDone => true
  | .keepOkFall => true
  | .hello msg => decide (msg.serial.length = 16 ∧ msg.arrayId.length = 16)
  | .heartbeat _ msg => decide (msg.state < 8 ∧ msg.portsUp < 16)
  | .mirror msgId _ => decide (msgId < 2 ^ 64)
  | .receipt cumId ranges => decide (cumId < 2 ^ 64) && ranges.all (fun r => decide (r.1 ≤ r.2 ∧ r.2 < 2 ^ 64))
  | .snak _ firstSeq lastSeq _ => decide (firstSeq < 2 ^ 32 ∧ lastSeq < 2 ^ 32)
  | .handover msg => handoverWf msg
  | .resync msgId _ => decide (msgId < 2 ^ 64)
  | .footbridgeGapTimer msgId => decide (msgId < 2 ^ 64)
  | .footbridgeResendTimer msgId => decide (msgId < 2 ^ 64)
  | .footbridgePortDown _ => true
  | .pcsAlignmentChange _ _ => true
  | .heartbeatSendTimer => true
  | .hbKick => true
  | .hbPinToggle => true
  | .peerHbInEdge => true
  | .pinPathSilent => true
  | .messagePathSilent => true
  | .partialSilenceTimeout => true
  | .roleBFenceDelay => true
  | .fenceInFall => true
  | .fenceInRise => true
  | .takeoverSledWaitEnd => true
  | .takeoverMapLoaded => true
  | .handoverDrainDone => true
  | .resyncComplete => true
  | .failbackFenceRelease => true
  | .pairingPortTimeout => true
  | .migrationWindowExpiry => true
  | .arrayRecordReadDone _ => true
  | .replicationMessage _ _ msg => decide (msg.relationship < 65536 ∧ msg.sourceArray.length = 16)
  | .replicationProbe _ _ relationship _ => decide (relationship < 65536)
  | .replicationCompletion relationship _ _ _ _ _ => decide (relationship < 65536)
  | .shelfWakeGrant _ => true
  | .shfPwrGoodRise _ => true
  | .shfPwrGoodFall _ => true
  | .shelfWakeTimeout _ _ => true
  | .shelfWakeRetry _ => true
  | .shelfHourlyRetry _ => true
  | .shelfRequestHoldoffEnd _ => true
  | .minAwakeExpiry _ => true
  | .idleCloseExpiry _ => true
  | .batchWindowEnd => true
  | .urgencyStep _ => true
  | .scheduleGrant => true
  | .meterWindow _ => true
  | .chunkPlace _ => true
  | .shelfCloseComplete _ => true
  | .recallStageDone asn => decide (asn < 2 ^ 64)
  | .recallHoldExpiry _ => true
  | .retentionDue _ => true
  | .heatFold => true
  | .heatHalving => true
  | .checkpointStart => true
  | .checkpointComplete => true
  | .gcEraseWaitEnd _ _ => true
  | .readDisturbFold => true
  | .sequencedFlit _ flit => flitWf flit
  | .idle _ ack => decide (ack < 4096)
  | .nak _ seq => decide (seq < 4096)
  | .credit _ cmd mgmt data => decide (cmd < 256 ∧ mgmt < 256 ∧ data < 65536)
  | .sleepAck _ => true
  | .sleepNak _ => true
  | .flitReplayTimeout _ => true
  | .flitNakHoldoffEnd _ => true
  | .ts1 _ preset asked => decide (preset < 8 ∧ (asked < 8 ∨ asked = 255))
  | .ts2 _ ts => decide (ts.cmdCredits < 256 ∧ ts.dataCredits < 65536 ∧ ts.mgmtCredits < 256 ∧ ts.maxTags < 65536)
  | .farEndDetected _ => true
  | .linkDetectRetry _ => true
  | .linkStateTimeout _ => true
  | .framingError _ => true
  | .sleepIdleTimer _ => true
  | .testComplete _ errors => decide (errors < 2 ^ 32)
  | .sledReadResponse resp => respWf resp
  | .sledProgramResponse resp => respWf resp
  | .sledEraseResponse resp => respWf resp
  | .dieStatusResponse resp => respWf resp
  | .bridgeInfoResponse resp reread => respWf resp && recordWf reread
  | .portLockResponse resp => respWf resp
  | .notice _ kind die temp => decide (kind < 256 ∧ die < 256 ∧ temp < 256)
  | .sledCmdTimeout _ tag _ => decide (tag < 65536)
  | .linkActiveTimeout _ => true
  | .slpCtlEn _ _ => true
  | .slpRetrain _ => true
  | .slpTest _ => true
  | .identityRecordRead _ _ record => recordWf record
  | .i2cStretchTimeout _ _ attempt => decide (attempt ≤ 3)
  | .dramRetrainPause _ _ => true
  | .dramRefreshDue _ _ _ => true
  | .dramThermalRead _ _ _ _ => true
  | .dramRcdAlert _ _ _ _ => true
  | .dramReadError _ _ ca _ => decide (ca < 2 ^ 40)
  | .dramPatrolScrub _ => true
  | .rankMigrationDone _ => true
  | .dramUseWindow _ => true
  | .trnMpcPattern _ => true
  | .trnWriteRead _ => true
  | .trnDqsOsc _ => true
  | .trnReadCompare _ => true
  | .trnHelperDone _ _ _ => true
  | .dmcGeomLock _ => true
  | .dmcBankHashWrite _ _ _ => true
  | .dmcChanHashWrite _ _ => true
  | .cacheClean => true
  | .cacheInvalidate => true
  | .cacheMaintDone => true
  | .cnsWayDown _ => true
  | .cnsWayUp _ => true
  | .wayDownComplete _ => true
  | .lockLoadComplete _ => true
  | .ageingTick => true
  | .trackerBreak _ => true
  | .cnsSliceHashWrite _ _ => true
  | .cnsHashLock => true
  | .cnsParityError line => decide (line < 2 ^ 37)
  | .cnsTagParityError line _ => decide (line < 2 ^ 37)
  | .keyDataWrite _ _ => true
  | .keySlotLoad _ => true
  | .keySlotZeroise _ => true
  | .keySlotParityError _ => true
  | .cipherQueue2Submit _ => true
  | .cipherRequestDone _ _ _ => true
  | .digestStart _ _ _ _ _ => true
  | .digestDataWrite _ _ => true
  | .digestFinal _ _ => true
  | .digestBlockDone => true
  | .digestClaimRequest _ => true
  | .digestRelease _ => true
  | .digestWindowIdleTimeout => true
  | .pkaOperationDone _ => true
  | .rngHealthTrip _ _ => true
  | .drbgReseed => true
  | .smbusAddressMatch => true
  | .smbusStretchTimeout => true
  | .wakeNLow _ => true
  | .gpioWakeEdge _ => true
  | .ghTimerExpiry _ => true
  | .timerCompareWrite _ _ => true
  | .ghSleepWatch => true
  | .ghSleepDormant => true
  | .idlePolicyTimer => true
  | .dormantAfterTimer => true
  | .avsChangeStart _ _ => true
  | .avsResponse _ _ _ ma => decide (ma < 65536)
  | .avsStatusPoll _ => true
  | .avsAckTimeout _ => true
  | .avsVdoneTimeout _ => true
  | .pllLock _ => true
  | .pllLockTimeout _ => true
  | .wakeRetryWaitEnd => true
  | .xtalFail => true
  | .xtalRestore => true
  | .operatingTimeTick => true
  | .optimeLock => true
  | .watchdogKick => true
  | .watchdogExpiry => true
  | .warmReset => true
  | .powerOnReset _ board => recordWf board
  | .bootComplete _ => true
  | .slotConfirm => true
  | .tjSample _ => true
  | .thermalThrottleStep => true
  | .tjCoolTimer => true
  | .pathMonitorRead _ => true
  | .errorSignal _ subsystem _ => decide (subsystem < 256)
  | .selftestVerdict _ _ _ => true
  | .monCtlArm _ => true
  | .monCtlStop _ => true
  | .monCtlSnap _ => true
  | .monWindowEnd _ => true
  | .evrRdDataRead => true
  | .evrSeqLock => true
  | .eventLogAppend => true
  | .eventSummaryWrite => true
  | .footbridgeSegment _ _ portSeq _ _ offset len total _ => segmentWf portSeq len offset total
  | .decompressionDone asn _ => decide (asn < 2 ^ 64)
  | .shelfHoldExpiry _ => true
  | .pwronRstNFall => true
  | .headResetDelayEnd => true
  | .replicationLinkReply relationship _ _ => decide (relationship < 65536)
  | .timerPulseEnd _ => true

end Sys2Proof
end

