-- ==== Sys2Proof/Safety.lean ====
section
/-!
DEFINITION. Safety.lean: what counts as a safe step and a safe run, and the words in which the statements speak of
requests, of what a step keeps, and of the invariant of the head.
-/
namespace Sys2Proof.Machine

/-- The outcome is a next state. -/
def Completes (o : Host.Outcome State Fault Refusal) : Prop := ∃ t, o = .next t

/-- A run is safe when each of its steps answers a next state. -/
def SafeRun : Nat → State → Prop
  | 0, _ => True
  | k + 1, s => ∃ t, step s = .next t ∧ SafeRun k t

/-- Mailbox n is RUNNING with a complete request of this opcode and payload that nobody has cancelled and that the Lodge
may serve (R36, R39, R43, R338, R477). -/
def Taken (s : State) (n op : Nat) (p : Bytes) (msg : BMsg) : Prop :=
  (mbxOf s n).msg = some msg ∧ (mbxOf s n).state = .running ∧ (mbxOf s n).longRun = false ∧
    (mbxOf s n).cancel = false ∧ msg.opcode = op ∧ msg.payload = p ∧ lodgeLimited s op = false

/-- A free job: fewer than 256 run (R37). -/
def JobFree (s : State) : Prop := jobsRunning s < 256

/-- The state with the next job entered (R37). -/
def started (op subj aux : Nat) (s : State) : State :=
  { s with kiosk := { s.kiosk with
      jobs := tset s.kiosk.jobs s.kiosk.jobCount { opcode := op, subj := subj, aux := aux }
      jobCount := s.kiosk.jobCount + 1 } }

/-- The answer of a command that starts the next job: SUCCESS, async, the job number (R37). -/
def jobReply (s : State) : BRes := { status := .success, payload := leN 4 (jobNo s.kiosk.jobCount), async := true }

/-- A complete message of opcode op stands on a tag of queue pair n: its command is entered, waits for its row, and passes
every check of R144 (R60, R128). -/
def Complete (s : State) (n tag op asn : Nat) (c : Cmd) : Prop :=
  (tagOf (qpOf s n) tag).asn = some asn ∧ (tagOf (qpOf s n) tag).st = .running ∧ cmdOf s asn = some c ∧
    c.opcode = op ∧ c.stage = .held ∧ c.checked = false ∧ s.pair.fenced = false ∧ csnCheck s asn c = .run ∧
    (namesVolume c && (gaining s c.volume || giving s c.volume)) = false ∧ cmdFails s c = none

/-- A complete message that nothing holds back: no barrier, epoch boundary, handover or restart (R66, R78, R147). -/
def Ready (s : State) (n tag op asn : Nat) (c : Cmd) : Prop := Complete s n tag op asn c ∧ heldNow s asn c = false

/-- The work of a running command on one of its chunks (chapter 07). -/
def workAt (s : State) (asn chunk : Nat) : Option ChunkWork := (cmdOf s asn).bind (fun c => workOf c chunk)

/-- A chunk of a running WRITE stands at a stage of the ingest pipeline with this work. -/
def AtStage (s : State) (asn chunk : Nat) (st : ChunkStage) (c : Cmd) (w : ChunkWork) : Prop :=
  cmdOf s asn = some c ∧ c.stage = .running ∧ workOf c chunk = some w ∧ w.stage = st

/-- Every mailbox's request and response areas are in canonical form. -/
def mailboxesCanonical (s : State) : Prop :=
  ∀ e ∈ s.kiosk.mbx, Memory.wf e.2.req = true ∧ Memory.wf e.2.resp = true

/-- The invariant of the head: the channel hash and slice hash masks keep the rules that make both address maps one-to-one
(R343, R367), the key data registers are eight (R390), the rollback count lies within its 64 fuses (R403), the power-cycle
count within its 24 bits (R416), and every byte store is in its one canonical form. -/
structure HeadInv (s : State) : Prop where
  chanMasks : s.dram.chanHash.length = 3 ∧ ∀ i < 3, chanMaskOk i (s.dram.chanHash.getD i 0) = true
  sliceMasks : s.cns.hash.length = 5 ∧ ∀ k < 5, sliceMaskOk k (s.cns.hash.getD k 0) = true
  keyRegs : s.sec.keyData.length = 8
  fuses : s.sec.fuseCount ≤ 64
  cycles : s.gh.pwrCycle < 2 ^ 24
  ring : Memory.wf s.evt.ring = true
  lodge : Memory.wf s.sec.lodgeMem = true
  msix : Memory.wf s.kiosk.msixTab = true
  mailboxes : mailboxesCanonical s

end Sys2Proof.Machine
end

