-- ==== Sys2Proof/Certificates/Slice0/Obligations.lean ====
section
/-!
DEFINITION. Certificates/Slice0/Obligations.lean: the statements for the provers. Each says of the commands it names what
they do in the states in which they have their own effect: the answer is the state before what follows inside the head,
and `settle` is what follows. Where a statement gives the new state as an update of the old one, the update is also its
frame: every field not named is as before.
-/
open Sys2Proof Sys2Proof.Machine

/-- R34, R35, R36: a client write to the request area of an IDLE or DONE mailbox (MBX_REQUEST_WRITE) stores its bytes and
nothing else, but that mailbox 63 without a holder gets the control port as its holder; of a POSTED or RUNNING one it only
sets write_busy. A ring of an IDLE or DONE mailbox (MBX_RING) posts its request with the session open then, keeps its areas
and every other mailbox, and releases SMB_ALERT_N where it is mailbox 63; of a busy one it only sets ring_busy. A write of 1
to done (MBX_DONE_ACK) returns a DONE mailbox to IDLE, mailbox 63 without a holder and with SMB_ALERT_N released. All of it
for a mailbox that SMBus does not hold; outside the Kiosk a ring notes its start in the monitors' book and changes nothing. -/
def Obligations.MailboxWriteRingAndAck : Prop :=
  (∀ (n : Fin 64) (off : Nat) (data : Bytes) (s : State), alignedAccess off data.length = true →
    off + data.length ≤ 512 → heldBySmbus n (mbxOf s n) = false →
    ((mbxOf s n).state = .idle ∨ (mbxOf s n).state = .done →
      exec (.mbxRequestWrite n off data) s = .next (setMbx n { mbxOf s n with
        req := memPuts (mbxOf s n).req off data
        holder := if n.val = 63 ∧ (mbxOf s n).holder = 0 then 1 else (mbxOf s n).holder } s) ∧
      (Memory.wf (mbxOf s n).req = true → ∀ a, memGet (memPuts (mbxOf s n).req off data) a =
        if off ≤ a ∧ a < off + data.length then data.getD (a - off) 0 else memGet (mbxOf s n).req a)) ∧
    ((mbxOf s n).state = .posted ∨ (mbxOf s n).state = .running →
      exec (.mbxRequestWrite n off data) s = .next (setMbx n { mbxOf s n with writeBusy := true } s))) ∧
  (∀ (n : Fin 64) (s : State), heldBySmbus n (mbxOf s n) = false →
    ((mbxOf s n).state = .idle ∨ (mbxOf s n).state = .done →
      ∃ t, exec (.mbxRing n) s = .next t ∧
        mbxOf t n = { mbxOf s n with
          state := .posted
          cancel := false
          msg := none
          ticket := s.kiosk.session.map (fun x => { handle := x.handle, scope := x.scope, path := x.path })
          ringPath := .controlPort
          ringNo := s.kiosk.ringCount } ∧
        (∀ k, k ≠ n.val → mbxOf t k = mbxOf s k) ∧
        t = { s with
          mons := { s.mons with starts := t.mons.starts }
          kiosk := { s.kiosk with
            mbx := t.kiosk.mbx
            ringCount := s.kiosk.ringCount + 1
            smbAlert := if n.val = 63 then false else s.kiosk.smbAlert } }) ∧
    ((mbxOf s n).state = .posted ∨ (mbxOf s n).state = .running →
      exec (.mbxRing n) s = .next (setMbx n { mbxOf s n with ringBusy := true } s))) ∧
  (∀ (n : Fin 64) (s : State), heldBySmbus n (mbxOf s n) = false → (mbxOf s n).state = .done →
    (n.val ≠ 63 → exec (.mbxDoneAck n) s = .next (setMbx n { mbxOf s n with state := .idle } s)) ∧
    (n.val = 63 → exec (.mbxDoneAck n) s = .next { s with kiosk := { s.kiosk with
      mbx := tset s.kiosk.mbx 63 { mbxOf s 63 with state := .idle, holder := 0 }
      smbAlert := false } }))

/-- R39: a cancel (MBX_CANCEL) of a POSTED request completes it at once: DONE, with a response that repeats its opcode,
sequence number, session and part, status ABORTED and no payload; a cancel of a RUNNING one is noted, and a SYS_INFO so
cancelled before anything of it is applied ends ABORTED; a cancel in IDLE or DONE changes nothing. -/
def Obligations.CancelEndsRequestOnce : Prop :=
  (∀ (n : Fin 64) (s : State), heldBySmbus n (mbxOf s n) = false →
    ((mbxOf s n).state = .posted → (mbxOf s n).discard = false →
      ∃ t, exec (.mbxCancel n) s = .next t ∧
        mbxOf t n = { mbxOf s n with
          msg := none
          partAck := false
          longRun := false
          cancel := false
          ticket := none
          resp := memPuts [] 0 (fit 448 (respHeader (reqByte (mbxOf s n) 0 2) (reqByte (mbxOf s n) 2 2) 0
            (reqByte (mbxOf s n) 6 1 % 2) Status.aborted.code (reqByte (mbxOf s n) 8 4) (reqByte (mbxOf s n) 12 2)))
          respLen := 16
          lastSeq := BitVec.ofNat 16 (reqByte (mbxOf s n) 2 2)
          status := BitVec.ofNat 8 Status.aborted.code
          state := .done } ∧
        (∀ k, k ≠ n.val → mbxOf t k = mbxOf s k) ∧
        t = { s with kiosk := t.kiosk, mons := t.mons, out := t.out }) ∧
    ((mbxOf s n).state = .running → exec (.mbxCancel n) s = .next (setMbx n { mbxOf s n with cancel := true } s)) ∧
    ((mbxOf s n).state = .idle ∨ (mbxOf s n).state = .done → exec (.mbxCancel n) s = .next s)) ∧
  (∀ (n : Fin 64) (s : State) (msg : BMsg), (mbxOf s n).msg = some msg → (mbxOf s n).state = .running →
    (mbxOf s n).longRun = false → (mbxOf s n).cancel = true → msg.opcode = 0x0100 →
    exec (.sysInfo n) s = .next (settle (answer n msg (.fail .aborted) s)))

/-- R36, R43, R44, R38: the Lodge takes a POSTED request (MBX_TAKE) whose header is valid, whose session allows it and
which is no claim behind an earlier one: RUNNING, with the whole payload and no message in progress left behind. A non-final
part (BASMOS_PART) is kept and acknowledged SUCCESS; a part that does not follow within 1 s (BASMOS_PART_TIMEOUT) is
discarded; a request not taken within 250 ms (KIOSK_HW_TIMEOUT) is completed by the hardware with its header copied but for
status BUSY and length 0. -/
def Obligations.LodgeTakesRequests : Prop :=
  (∀ (n : Fin 64) (s : State), (mbxOf s n).state = .posted → s.kiosk.lodgeReady = true → claimBehind s n = false →
    headerValid (mbxOf s n) (reqHeader (mbxOf s n)) = true →
    ((reqHeader (mbxOf s n)).expert = true → sessionAllows (mbxOf s n) (reqHeader (mbxOf s n)) = true) →
    fetchesPart (mbxOf s n) (reqHeader (mbxOf s n)) = false → (reqHeader (mbxOf s n)).more = false →
    ∃ msg, exec (.mbxTake n) s = .next (setMbx n { mbxOf s n with
        state := .running, msg := some msg, partial_ := none, more := [] } s) ∧
      msg.opcode = (reqHeader (mbxOf s n)).opcode ∧ msg.seq = (reqHeader (mbxOf s n)).seq ∧
      msg.payload = (((mbxOf s n).partial_.map (·.payload)).getD []) ++
        memGets (mbxOf s n).req 16 (reqHeader (mbxOf s n)).length) ∧
  (∀ (n : Fin 64) (s : State), (mbxOf s n).state = .posted → (mbxOf s n).discard = false →
    ∃ t, exec (.kioskHwTimeout n) s = .next t ∧ (mbxOf t n).state = .done ∧ (mbxOf t n).hwTimeout = true ∧
      (mbxOf t n).resp = memPuts [] 0 (fit 448 (memGets (mbxOf s n).req 0 4 ++ zeros 2 ++ memGets (mbxOf s n).req 6 1 ++
        leN 1 Status.busy.code ++ memGets (mbxOf s n).req 8 8)) ∧
      (mbxOf t n).status = BitVec.ofNat 8 Status.busy.code ∧ (mbxOf t n).req = (mbxOf s n).req ∧
      (∀ k, k ≠ n.val → mbxOf t k = mbxOf s k) ∧ t = { s with kiosk := t.kiosk, mons := t.mons, out := t.out }) ∧
  (∀ (n : Fin 64) (s : State), (mbxOf s n).state = .running → (mbxOf s n).partAck = true →
    (mbxOf s n).cancel = false → (mbxOf s n).discard = false →
    ∃ t p, exec (.basmosPart n) s = .next t ∧ (mbxOf t n).state = .done ∧ (mbxOf t n).status = 0 ∧
      (mbxOf t n).partial_ = some p ∧
      p.payload = (((mbxOf s n).partial_.map (·.payload)).getD []) ++
        memGets (mbxOf s n).req 16 (reqHeader (mbxOf s n)).length ∧
      (∀ k, k ≠ n.val → mbxOf t k = mbxOf s k) ∧ t = { s with kiosk := t.kiosk, mons := t.mons, out := t.out }) ∧
  (∀ (n : Fin 64) (s : State), mbxBusy (mbxOf s n) = false →
    exec (.basmosPartTimeout n) s = .next (setMbx n { mbxOf s n with partial_ := none, more := [] } s))

/-- R40, R41, R42: SMBus commands to mailbox 63 that are not NACKed. With a right PEC: MB63_WRITE places its bytes in a
mailbox that is not busy and makes SMBus its holder; MB63_DOORBELL_RING posts the request of one that is not busy over SMBus,
MB63_DOORBELL_CANCEL notes the cancel of a RUNNING one, MB63_DOORBELL_ACK returns a DONE one to IDLE without a holder and
releases SMB_ALERT_N; MB63_STATUS_READ gives KSK_MBX_STAT and KSK_MBX_INFO; MB63_READ_OFFSET sets the offset and MB63_READ gives the
response bytes from it and moves it on. With a wrong PEC each of the seven only counts the failure and records an event. SMBUS_ALERT_RESPONSE releases SMB_ALERT_N. -/
def Obligations.SmbusMailboxCommands : Prop :=
  (∀ (s : State), s.ghx.smbNack = false → s.ghx.smbStretch = false →
    ((mbxOf s 63).holder = 0 ∨ (mbxOf s 63).holder = 2) →
    (∀ (off : Nat) (data : Bytes), 0 < data.length → data.length ≤ 240 → off + data.length ≤ 512 →
      mbxBusy (mbxOf s 63) = false →
      exec (.mb63Write true off data) s = .next (setMbx 63 { mbxOf s 63 with
        req := memPuts (mbxOf s 63).req off data
        holder := 2 } s)) ∧
    (mbxBusy (mbxOf s 63) = false → ∃ t, exec (.mb63DoorbellRing true) s = .next t ∧
      mbxOf t 63 = { mbxOf s 63 with
        state := .posted
        cancel := false
        msg := none
        ticket := s.kiosk.session.map (fun x => { handle := x.handle, scope := x.scope, path := x.path })
        ringPath := .smbus
        ringNo := s.kiosk.ringCount } ∧
      (∀ k, k ≠ 63 → mbxOf t k = mbxOf s k) ∧ t = { s with
        mons := { s.mons with starts := t.mons.starts }
        kiosk := { s.kiosk with
          mbx := t.kiosk.mbx
          ringCount := s.kiosk.ringCount + 1
          smbAlert := false } }) ∧
    ((mbxOf s 63).state = .running →
      exec (.mb63DoorbellCancel true) s = .next (setMbx 63 { mbxOf s 63 with cancel := true } s)) ∧
    ((mbxOf s 63).state = .done → exec (.mb63DoorbellAck true) s = .next { s with kiosk := { s.kiosk with
      mbx := tset s.kiosk.mbx 63 { mbxOf s 63 with state := .idle, holder := 0 }
      smbAlert := false } }) ∧
    (∀ off, exec (.mb63ReadOffset true off) s =
      .next { s with kiosk := { s.kiosk with smbOff := BitVec.ofNat 16 off } }) ∧
    (∀ count, count ≤ 240 → s.kiosk.smbOff.toNat + count ≤ 448 →
      exec (.mb63Read true count) s = .next { s with
        out := s.out ++ [.smbData (memGets (mbxOf s 63).resp s.kiosk.smbOff.toNat count)]
        kiosk := { s.kiosk with smbOff := BitVec.ofNat 16 (s.kiosk.smbOff.toNat + count) } }) ∧
    (∀ (off count : Nat) (data : Bytes),
      exec (.mb63Write false off data) s = .next (pecFail s) ∧ exec (.mb63DoorbellRing false) s = .next (pecFail s) ∧
      exec (.mb63DoorbellCancel false) s = .next (pecFail s) ∧ exec (.mb63DoorbellAck false) s = .next (pecFail s) ∧
      exec (.mb63ReadOffset false off) s = .next (pecFail s) ∧ exec (.mb63Read false count) s = .next (pecFail s))) ∧
  (∀ (s : State), s.ghx.smbNack = false → s.ghx.smbStretch = false →
    exec (.mb63StatusRead true) s = .next { s with out := s.out ++
      [.smbData (leN 4 (mbxStat 63 (mbxOf s 63)).toNat ++ leN 4 (mbxInfo (mbxOf s 63)).toNat)] } ∧
    exec (.mb63StatusRead false) s = .next (pecFail s)) ∧
  (∀ (s : State), pecFail s =
    record 1 1 1 .none [] { s with kiosk := { s.kiosk with pecErrors := s.kiosk.pecErrors + 1 } }) ∧
  (∀ (s : State), exec .smbusAlertResponse s = .next { s with kiosk := { s.kiosk with smbAlert := false } })

/-- R37, R45, R46: a finished job's result goes at its expiry (JOB_RESULT_EXPIRY) and no running job does; a nonce goes at
its expiry (NONCE_EXPIRY) and no other one does; the refusal of SESSION_OPEN ends (SESSION_LOCKOUT_END) and the failures
counted towards it are forgotten. -/
def Obligations.KioskBooksExpire : Prop :=
  (∀ (job : Nat) (s : State), ∃ t, exec (.jobResultExpiry job) s = .next t ∧
    (∀ k j, (k, j) ∈ t.kiosk.jobs ↔ (k, j) ∈ s.kiosk.jobs ∧ ¬ (jobNo k = job ∧ j.finished = true)) ∧
    t = { s with kiosk := { s.kiosk with jobs := t.kiosk.jobs } }) ∧
  (∀ (k : Nat) (s : State), Tab.wf s.kiosk.nonces = true → ∃ t, exec (.nonceExpiry k) s = .next t ∧
    tget t.kiosk.nonces k = none ∧ (∀ j, j ≠ k → tget t.kiosk.nonces j = tget s.kiosk.nonces j) ∧
    t = { s with kiosk := { s.kiosk with nonces := t.kiosk.nonces } }) ∧
  (∀ (s : State), exec .sessionLockoutEnd s =
    .next { s with kiosk := { s.kiosk with lockout := false, failTimes := [] } })

/-- R49, R363, R381, R431, R451, R453, Table 4.10: the commands that report the head's own registers and counters answer
SUCCESS, in the state as it stands: SYS_INFO (serial number, versions, running slot, operating time, power cycle), SYS_HEALTH
(self-tests, transient and lasting errors, spared rows), PWR_STATUS (power state and target, operating time, power cycle),
EVT_SUMMARY (oldest and newest sequence number, lost and merged events), CACHE_STATUS (powered ways, hits, misses),
PAIR_STATUS (role, pair state, own region, epoch length), DRAM_STATUS (rate, both windows, the first two ranks) and
KEY_SLOT_INFO (the slots asked for), each in the fields named; the first, second, third and sixth go on with what follows
inside the head. -/
def Obligations.StatusReportsOfTheHead : Prop :=
  (∀ (n : Fin 64) (s : State) (msg : BMsg), Taken s n 0x0100 [] msg →
    ∃ q, exec (.sysInfo n) s = .next (settle (answer n msg (.ok q) s)) ∧ q.length = 64 ∧ bslice q 0 16 = deviceSerial ∧
      fieldLE q 16 1 = 1 ∧ fieldLE q 18 2 = 1 ∧ fieldLE q 24 1 = s.sec.running % 256 ∧
      fieldLE q 26 4 = optime s % 2 ^ 32 ∧ fieldLE q 30 4 = s.gh.pwrCycle % 2 ^ 32) ∧
  (∀ (n : Fin 64) (s : State) (msg : BMsg), Taken s n 0x0101 [] msg →
    ∃ q, exec (.sysHealth n) s = .next (settle (answer n msg (.ok q) s)) ∧ q.length = 64 ∧
      fieldLE q 24 4 = s.evt.tests % 2 ^ 32 ∧ fieldLE q 28 2 = s.evt.transient % 2 ^ 16 ∧
      fieldLE q 30 2 = s.evt.lasting % 2 ^ 16 ∧ fieldLE q 34 2 = s.evt.rowsSpared % 2 ^ 16) ∧
  (∀ (n : Fin 64) (s : State) (msg : BMsg), Taken s n 0x0302 [] msg →
    ∃ q, exec (.pwrStatus n) s = .next (settle (answer n msg (.ok q) s)) ∧ q.length = 48 ∧
      fieldLE q 0 1 = s.gh.state.code % 256 ∧ fieldLE q 1 1 = s.gh.target % 256 ∧ fieldLE q 20 4 = s.gh.hours % 2 ^ 32 ∧
      fieldLE q 24 2 = s.gh.seconds % 2 ^ 16 ∧ fieldLE q 28 4 = s.gh.pwrCycle % 2 ^ 32) ∧
  (∀ (n : Fin 64) (s : State) (msg : BMsg), Taken s n 0x0901 [] msg →
    ∃ q, exec (.evtSummary n) s = .next (answer n msg (.ok q) s) ∧ q.length = 64 ∧
      fieldLE q 0 4 = s.evt.tailSeq.toNat ∧ fieldLE q 4 4 = s.evt.headSeq.toNat ∧
      fieldLE q 24 4 = s.evt.lost % 2 ^ 32 ∧ fieldLE q 28 4 = s.evt.mergeCnt.toNat) ∧
  (∀ (n : Fin 64) (s : State) (msg : BMsg), Taken s n 0x0700 [] msg →
    ∃ q, exec (.cacheStatus n) s = .next (answer n msg (.ok q) s) ∧ q.length = 32 ∧
      fieldLE q 0 2 = s.cns.powered.toNat ∧ fieldLE q 4 8 = s.cns.hits % 2 ^ 64 ∧ fieldLE q 12 8 = s.cns.misses % 2 ^ 64) ∧
  (∀ (n : Fin 64) (s : State) (msg : BMsg), Taken s n 0x0B00 [] msg →
    ∃ q, exec (.pairStatus n) s = .next (settle (answer n msg (.ok q) s)) ∧ q.length = 32 ∧
      (s.pair.paired = false → fieldLE q 0 1 = 0xFF) ∧ fieldLE q 1 1 = s.pair.state % 256 ∧
      fieldLE q 20 4 = s.jrn.ownGib % 2 ^ 32 ∧ fieldLE q 24 4 = s.gh.epochMs.toNat) ∧
  (∀ (n : Fin 64) (s : State) (ch : Fin 24) (msg : BMsg), Taken s n 0x0600 [BitVec.ofNat 8 ch] msg →
    ∃ q, exec (.dramStatus n) s = .next (answer n msg (.ok q) s) ∧ fieldLE q 0 1 = s.dram.rate % 256 ∧
      fieldLE q 12 2 = s.dram.mainGib % 2 ^ 16 ∧ fieldLE q 14 2 = s.dram.keepGib % 2 ^ 16 ∧
      fieldLE q 32 1 = rankByte (dmcOf s ch) 0 % 256 ∧ fieldLE q 33 1 = rankByte (dmcOf s ch) 1 % 256) ∧
  (∀ (n : Fin 64) (s : State) (p : Bytes) (msg : BMsg), Taken s n 0x0810 p msg → p.length = 4 → 0 < fieldLE p 2 2 →
    fieldLE p 2 2 ≤ 32 → fieldLE p 0 2 + fieldLE p 2 2 ≤ 4096 →
    exec (.keySlotInfo n) s = .next (answer n msg (.ok (leN 2 (fieldLE p 2 2) ++ zeros 6 ++
      ((List.range (fieldLE p 2 2)).map (fun i => slotEntry s (fieldLE p 0 2 + i))).flatten)) s))

/-- R55, R147, R175, R243, R279, R334, R336, R452: the commands that list the head's tables answer SUCCESS with the entries
from the starting point on, in the state as it stands: CLAIM_LIST and VOL_LIST and SNAP_LIST with as many entries as there are
up to 53, 17 and 17, SHELF_STATUS with the shelf's entry, MEDIA_STATUS with its grains, QP_STATUS with the queue pair that
carries the queue, REPL_STATUS with the relationship's run, EVT_READ with the records that fit and pass its filters.
JOB_STATUS of a running job reports it as running and keeps it, of a finished one gives its final status and result and then
forgets it (R37). -/
def Obligations.ListsAndJobReports : Prop :=
  (∀ (n : Fin 64) (s : State) (p : Bytes) (msg : BMsg) (k : Nat) (j : Job), Taken s n 0x0102 p msg → p.length = 4 →
    s.kiosk.jobs.find? (fun e => decide (jobNo e.1 = fieldLE p 0 4)) = some (k, j) →
    (j.finished = false → ∃ q, exec (.jobStatus n) s = .next (settle (answer n msg (.ok q) s)) ∧ q.length = 12 ∧
      fieldLE q 0 4 = jobNo k % 2 ^ 32 ∧ fieldLE q 4 1 = 0) ∧
    (j.finished = true → ∃ q, exec (.jobStatus n) s = .next (settle (answer n msg (.ok q)
        { s with kiosk := { s.kiosk with jobs := terase s.kiosk.jobs k } })) ∧
      fieldLE q 0 4 = jobNo k % 2 ^ 32 ∧ fieldLE q 4 1 = 1 ∧ fieldLE q 5 1 = j.status.code % 256 ∧ q.drop 12 = j.result)) ∧
  (∀ (n : Fin 64) (s : State) (p : Bytes) (msg : BMsg), Taken s n 0x0120 p msg → layoutIs 4 [(1, 1)] p = true →
    fieldLE p 0 1 ≤ 7 →
    ∃ q hits, exec (.claimList n) s = .next (settle (answer n msg (.ok q) s)) ∧
      hits = (allClaims s).filter (fun e => decide (claimKey (max (fieldLE p 0 1) 1) (fieldLE p 2 2) ≤ e.1) &&
        (decide (fieldLE p 0 1 = 0) || decide (e.1 / 65536 = fieldLE p 0 1))) ∧
      fieldLE q 0 2 = min 53 hits.length) ∧
  (∀ (n : Fin 64) (s : State) (p : Bytes) (msg : BMsg), Taken s n 0x0203 p msg → p.length = 4 →
    ∃ q, exec (.volList n) s = .next (answer n msg (.ok q) s) ∧
      fieldLE q 0 2 = min 17 (s.pair.arr.volumes.filter (fun e => decide (fieldLE p 0 4 ≤ e.1))).length) ∧
  (∀ (n : Fin 64) (s : State) (g : Fin 32) (msg : BMsg), Taken s n 0x0401 (leN 4 g) msg →
    exec (.shelfStatus n) s = .next (answer n msg (.ok (leN 2 1 ++ zeros 2 ++ leN 4 (share s) ++ shelfEntry s g)) s)) ∧
  (∀ (n : Fin 64) (s : State) (g : Fin 32) (msg : BMsg), Taken s n 0x0500 (leN 4 g) msg →
    ∃ q, exec (.mediaStatus n) s = .next (answer n msg (.ok q) s) ∧ q.length = 64 ∧
      fieldLE q 0 8 = freeGrains s g % 2 ^ 64 ∧ fieldLE q 8 8 = reclaimGrains s g % 2 ^ 64 ∧
      fieldLE q 16 8 = capGrains s g % 2 ^ 64 ∧ fieldLE q 24 8 = reserveShare s g % 2 ^ 64) ∧
  (∀ (n : Fin 64) (s : State) (p : Bytes) (msg : BMsg) (c : Nat), Taken s n 0x0A01 p msg → p.length = 8 →
    connOf s (fieldLE p 0 8) = some c →
    ∃ q, exec (.qpStatus n) s = .next (answer n msg (.ok q) s) ∧ q.length = 48 ∧
      fieldLE q 0 1 = (qpOf s c).st.code % 256 ∧ fieldLE q 2 2 = (qpOf s c).pd % 2 ^ 16 ∧ fieldLE q 4 4 = c % 2 ^ 32) ∧
  (∀ (n : Fin 64) (s : State) (p : Bytes) (msg : BMsg), Taken s n 0x0C02 p msg → p.length = 6 → fieldLE p 0 4 < 65536 →
    volLives s (fieldLE p 0 4) = true →
    ∃ q, exec (.snapList n) s = .next (answer n msg (.ok q) s) ∧ fieldLE q 0 2 = min 17 (s.rep.snaps.filter
      (fun e => decide (e.1 / 8192 = fieldLE p 0 4 ∧ fieldLE p 4 2 ≤ e.1 % 8192))).length) ∧
  (∀ (n : Fin 64) (s : State) (p : Bytes) (msg : BMsg) (r : ReplRec), Taken s n 0x0C04 p msg → p.length = 2 →
    tget s.pair.arr.rels (fieldLE p 0 2) = some r →
    ∃ q, exec (.replStatus n) s = .next (answer n msg (.ok q) s) ∧ q.length = 48 ∧ fieldLE q 0 1 = b2n (!r.source) ∧
      fieldLE q 4 4 = (relOf s (fieldLE p 0 2)).durable % 2 ^ 32 ∧ fieldLE q 8 8 = (relOf s (fieldLE p 0 2)).applied % 2 ^ 64) ∧
  (∀ (n : Fin 64) (s : State) (p : Bytes) (msg : BMsg), Taken s n 0x0900 p msg → layoutIs 12 [(7, 1), (10, 2)] p = true →
    0 < fieldLE p 4 1 → fieldLE p 6 1 ≤ 2 →
    ∃ q got, exec (.evtRead n) s = .next (answer n msg (.ok q) s) ∧ fieldLE q 0 1 = got.length % 256 ∧
      got = takeRecs (fieldLE p 4 1) 424 ((tierRecs s.evt (fieldLE p 6 1)).filter (fun r =>
        decide (ahead 32 (fieldLE p 0 4) r.seq < 2 ^ 31) && decide (fieldLE p 5 1 ≤ r.cls) &&
          (decide (fieldLE p 8 2 = 0) || decide (fieldLE p 8 2 = r.typ)))) ∧
      q.drop 8 = got.foldl (fun b r => b ++ evBytes r) [])

/-- R147: VOL_CREATE enters the volume asked for, or the lowest free number where all ones are asked, in the array record with
its domain, size and preferred role, raises the record's generation and answers the number and the owner; VOL_DELETE and
VOL_RESIZE put the change up for the next epoch boundary, the deletion and a shrink under a job whose number is the answer, a
growth with SUCCESS at once. -/
def Obligations.VolumeCommands : Prop :=
  (∀ (n : Fin 64) (s : State) (p : Bytes) (msg : BMsg) (v : Nat) (pref : Role), Taken s n 0x0200 p msg →
    layoutIs 32 [(17, 15)] p = true → (fieldLE p 0 4 ≤ 65535 ∨ fieldLE p 0 4 = 0xFFFFFFFF) →
    thas s.pair.arr.volumes (fieldLE p 0 4) = false → fieldLE p 8 8 % 8 = 0 → 8 ≤ fieldLE p 8 8 →
    fieldLE p 8 8 ≤ 2 ^ 42 → fieldLE p 16 1 ≤ 1 → thas s.pair.arr.domains (fieldLE p 4 4) = true →
    s.pair.arr.volumes.length < 65536 →
    v = (if fieldLE p 0 4 = 0xFFFFFFFF then tfree s.pair.arr.volumes 0 65536 else fieldLE p 0 4) →
    pref = (if fieldLE p 16 1 = 0 then .a else .b) →
    ∃ t, exec (.volCreate n) s = .next (answer n msg
        (.ok (leN 4 v ++ leN 1 (newOwner s pref (fieldLE p 4 4)).num ++ zeros 3)) t) ∧
      t.pair.arr = { s.pair.arr with
        volumes := tset s.pair.arr.volumes v { domain := fieldLE p 4 4, blocks := fieldLE p 8 8, pref := pref }
        gen := s.pair.arr.gen + 1 } ∧
      t = { s with pair := { s.pair with arr := t.pair.arr, owned := t.pair.owned, genHeard := t.pair.genHeard } }) ∧
  (∀ (n : Fin 64) (s : State) (p : Bytes) (msg : BMsg) (v : Nat), Taken s n 0x0201 p msg → layoutIs 8 [(5, 3)] p = true →
    fieldLE p 0 4 = v → fieldLE p 4 1 ≤ 1 → volLives s v = true → ownsVol s v = true → inRelation s v = false →
    (fieldLE p 4 1 = 0 → s.rep.snaps.any (fun e => decide (e.1 / 8192 = v)) = false) → volPending s v true = false →
    JobFree s →
    exec (.volDelete n) s = .next (answer n msg (jobReply s) { started 0x0201 v 0 s with
      pair := { s.pair with volF := s.pair.volF ++ [(v, none, s.kiosk.jobCount)] } })) ∧
  (∀ (n : Fin 64) (s : State) (p : Bytes) (msg : BMsg) (v : Nat) (r : VolRec), Taken s n 0x0202 p msg →
    layoutIs 16 [(5, 3)] p = true → fieldLE p 0 4 = v → fieldLE p 4 1 ≤ 3 → fieldLE p 8 8 % 8 = 0 → 8 ≤ fieldLE p 8 8 →
    fieldLE p 8 8 ≤ 2 ^ 42 → tget s.pair.arr.volumes v = some r → volLives s v = true → ownsVol s v = true →
    (r.blocks ≤ fieldLE p 8 8 → exec (.volResize n) s = .next (answer n msg .ok { s with
      pair := { s.pair with volF := s.pair.volF ++ [(v, some (fieldLE p 8 8, fieldLE p 4 1), 2 ^ 40)] } })) ∧
    (fieldLE p 8 8 < r.blocks → (fieldLE p 4 1).testBit 0 = true → JobFree s →
      exec (.volResize n) s = .next (answer n msg (jobReply s) { started 0x0202 v (fieldLE p 8 8) s with
        pair := { s.pair with volF := s.pair.volF ++ [(v, some (fieldLE p 8 8, fieldLE p 4 1), s.kiosk.jobCount)] } })))

/-- R207, R208, R209: DOM_CREATE enters a domain whose key its blob unwraps to, with the switches, version and blobs asked
for, and leaves every other domain; a blob that does not unwrap is refused DENIED with an event. DOM_POLICY of one domain and
DOM_BYTE_VERIFY enter the new switches in the array record, raise its generation and keep the old switches in force until the
boundary. -/
def Obligations.DomainCommands : Prop :=
  (∀ (n : Fin 64) (s : State) (p : Bytes) (msg : BMsg) (mine : Bytes) (k d : Nat), Taken s n 0x0210 p msg →
    domCreateLayout p = true → (fieldLE p 0 4 ≤ 1023 ∨ fieldLE p 0 4 = 0xFFFFFFFF) →
    thas s.pair.arr.domains (fieldLE p 0 4) = false →
    d = (if fieldLE p 0 4 = 0xFFFFFFFF then tfree s.pair.arr.domains 0 1024 else fieldLE p 0 4) →
    fieldLE p 4 1 ≤ 3 → 0 < fieldLE p 8 2 → fieldLE p 8 2 ≤ 240 → 0 < fieldLE p 10 2 → fieldLE p 10 2 ≤ 240 →
    s.sec.rngHalted = false → s.pair.arr.domains.length < 1024 → freePair s = some k →
    mine = (if keyRole s = some .b then bslice p (16 + fieldLE p 8 2) (fieldLE p 10 2) else bslice p 16 (fieldLE p 8 2)) →
    fieldLE mine 2 1 = 1 → fieldLE mine 6 2 = d →
    match unwrap s mine with
    | some _ => ∃ t v, exec (.domCreate n) s = .next (answer n msg (.ok (leN 4 d)) t) ∧
        tget t.pair.arr.domains d = some v ∧ v.dedup = (fieldLE p 4 1).testBit 0 ∧
        v.compress = (fieldLE p 4 1).testBit 1 ∧ v.version = fieldLE mine 4 2 ∧
        v.blobA = bslice p 16 (fieldLE p 8 2) ∧ v.blobB = bslice p (16 + fieldLE p 8 2) (fieldLE p 10 2) ∧
        (∀ e, e ≠ d → tget t.pair.arr.domains e = tget s.pair.arr.domains e) ∧
        t = { s with pair := t.pair, sec := t.sec, draws := s.draws + 1 }
    | none => exec (.domCreate n) s = .next (answer n msg (.fail .denied) (blobRefusedOf mine s))) ∧
  (∀ (n : Fin 64) (s : State) (p : Bytes) (msg : BMsg) (v : DomRec), Taken s n 0x0211 p msg →
    layoutIs 16 [(6, 2), (12, 4)] p = true → fieldLE p 0 4 ≠ 0xFFFFFFFF → fieldLE p 4 1 = 1 → fieldLE p 5 1 ≤ 3 →
    fieldLE p 8 4 = 0 → tget s.pair.arr.domains (fieldLE p 0 4) = some v →
    ∃ t, exec (.domPolicy n) s = .next (answer n msg .ok t) ∧
      tget t.pair.arr.domains (fieldLE p 0 4) = some { v with
        dedup := (fieldLE p 5 1).testBit 0, compress := (fieldLE p 5 1).testBit 1 } ∧
      domSwitches t (fieldLE p 0 4) = domSwitches s (fieldLE p 0 4) ∧
      t.pair.arr.gen = s.pair.arr.gen + 1 ∧ t = { s with pair := t.pair }) ∧
  (∀ (n : Fin 64) (s : State) (p : Bytes) (msg : BMsg) (v : DomRec), Taken s n 0x0212 p msg →
    layoutIs 8 [(5, 3)] p = true → fieldLE p 4 1 ≤ 1 → tget s.pair.arr.domains (fieldLE p 0 4) = some v →
    ∃ t, exec (.domByteVerify n) s = .next (answer n msg .ok t) ∧
      tget t.pair.arr.domains (fieldLE p 0 4) = some { v with verify := decide (fieldLE p 4 1 = 1) } ∧
      domSwitches t (fieldLE p 0 4) = domSwitches s (fieldLE p 0 4) ∧
      t.pair.arr.gen = s.pair.arr.gen + 1 ∧ t = { s with pair := t.pair })

/-- R117, R158, R177, R241, R242, R280, R366: the commands that set a budget (PWR_BUDGET_SET), a policy (PLC_POLICY,
MEDIA_POLICY), a port's deadline (DRAM_QOS_SET), credit windows and cap (CREDIT_SET), a domain of protection (PD_CONFIG) or a
migration window (MIGRATION_WINDOW) answer SUCCESS and enter exactly the values asked; the first three enter them in the array
record. CREDIT_SET is a forced state. Of PD_CONFIG that deletes a domain that is not configured the SUCCESS is the model's
choice (log entry 141). -/
def Obligations.PoliciesTakeTheValuesAsked : Prop :=
  (∀ (n : Fin 64) (s : State) (p : Bytes) (msg : BMsg), Taken s n 0x0300 p msg → layoutIs 16 [(5, 11)] p = true →
    minBudget s s.pair.arr.home ≤ fieldLE p 0 4 → 10 ≤ fieldLE p 4 1 → fieldLE p 4 1 ≤ 90 →
    ∃ q, exec (.pwrBudgetSet n) s = .next (settle (answer n msg (.ok q) (note 3 9 0 (changeArray (fun r => { r with
      budget := some (fieldLE p 0 4), shareA := fieldLE p 4 1 }) s)))) ∧
      q = leN 4 (homeReserve s s.pair.arr.home) ++ leN 4 (minBudget s s.pair.arr.home)) ∧
  (∀ (n : Fin 64) (s : State) (p : Bytes) (msg : BMsg), Taken s n 0x0400 p msg → layoutIs 32 [(24, 8)] p = true →
    fieldLE p 0 1 = 1 → (byteAt p 1).toNat < 2 → within 10 3600 (fieldLE p 2 2) = true →
    within 0 3600 (fieldLE p 4 2) = true → within 0 5000 (fieldLE p 6 2) = true → within 5 300 (fieldLE p 8 2) = true →
    within 1 720 (fieldLE p 10 2) = true → within 0 4096 (fieldLE p 12 4) = true → within 7 365 (fieldLE p 16 2) = true →
    within 50 98 (fieldLE p 18 1) = true → within 0 80 (fieldLE p 19 1) = true → within 1 255 (fieldLE p 20 1) = true →
    within 0 10 (fieldLE p 21 1) = true → within 64 16384 (fieldLE p 22 2) = true →
    ∃ q pol, exec (.plcPolicy n) s = .next (answer n msg (.ok q) (note 4 9 0 (changeArray (fun r => { r with
      plc := pol }) s))) ∧ pol.staging = (byteAt p 1).getLsbD 0 ∧ pol.minAwakeS = fieldLE p 2 2 ∧ pol.idleCloseS = fieldLE p 4 2 ∧ pol.batchMs = fieldLE p 6 2 ∧
      pol.readWaitS = fieldLE p 8 2 ∧ pol.recallHoldH = fieldLE p 10 2 ∧ pol.stageLimitGib = fieldLE p 12 4 ∧
      pol.retentionDays = fieldLE p 16 2 ∧ pol.fillPct = fieldLE p 18 1 ∧ pol.homeHotPct = fieldLE p 19 1 ∧
      pol.hotThreshold = fieldLE p 20 1 ∧ pol.transitPct = fieldLE p 21 1 ∧ pol.deferGib = fieldLE p 22 2) ∧
  (∀ (n : Fin 64) (s : State) (p : Bytes) (msg : BMsg), Taken s n 0x0501 p msg → p.length = 16 → fieldLE p 0 1 = 1 →
    within 1 10 (fieldLE p 1 1) = true → within 2 20 (fieldLE p 2 1) = true → fieldLE p 1 1 ≤ fieldLE p 2 1 →
    within 10 50 (fieldLE p 3 1) = true → within 30 80 (fieldLE p 4 1) = true → fieldLE p 3 1 < fieldLE p 4 1 →
    within 10 60 (fieldLE p 5 1) = true → within 20 1000 (fieldLE p 6 2) = true →
    within 1000 100000 (fieldLE p 8 4) = true →
    (fieldLE p 12 4 = 0 ∨ within 16 (mapCacheMax s) (fieldLE p 12 4) = true) →
    ∃ q pol, exec (.mediaPolicy n) s = .next (answer n msg (.ok q) (note 5 9 0 (changeArray (fun r => { r with
      media := pol }) s))) ∧ pol.gcReservePct = fieldLE p 1 1 ∧ pol.gcStartPct = fieldLE p 2 1 ∧
      pol.verifyPct = fieldLE p 3 1 ∧ pol.refreshPct = fieldLE p 4 1 ∧ pol.checkpointS = fieldLE p 5 1 ∧
      pol.wearSpread = fieldLE p 6 2 ∧ pol.disturbLimit = fieldLE p 8 4 ∧ pol.mapCacheGib = fieldLE p 12 4) ∧
  (∀ (n : Fin 64) (s : State) (p : Bytes) (msg : BMsg), Taken s n 0x0612 p msg → layoutIs 8 [(1, 3)] p = true →
    fieldLE p 0 1 < 16 → fieldLE p 0 1 ≠ 1 → fieldLE p 0 1 ≠ 4 → fieldLE p 0 1 ≠ 5 →
    (fieldLE p 4 4 = 0 ∨ 1000 ≤ fieldLE p 4 4 ∧ fieldLE p 4 4 ≤ 1000000) →
    ∃ t, exec (.dramQosSet n) s = .next (answer n msg (.ok (leN 4 (s.dram.qos.getD (fieldLE p 0 1) 0 * 100))) t) ∧
      t.dram.qos = s.dram.qos.set (fieldLE p 0 1)
        (if fieldLE p 4 4 = 0 then qosReset.getD (fieldLE p 0 1) 0 else fieldLE p 4 4 / 100) ∧
      (fieldLE p 0 1 ∈ t.dram.qosSet ↔ fieldLE p 4 4 ≠ 0) ∧
      t = { s with dram := { s.dram with qos := t.dram.qos, qosSet := t.dram.qosSet } }) ∧
  (∀ (n : Fin 64) (s : State) (p : Bytes) (msg : BMsg), Taken s n 0x0A11 p msg → creditSetLayout p = true →
    (fieldLE p 0 1 = 0 → ∃ t, t = { s with lat := { s.lat with
        defWin := if fieldLE p 1 1 = 0 then 256 else fieldLE p 1 1 } } ∧
      exec (.creditSet n) s = .next (answer n msg .ok
        (force 0x0A11 (if fieldLE p 4 4 = 0 then t else setCap (fieldLE p 4 4) t)))) ∧
    (∀ c w, fieldLE p 0 1 ≠ 0 → connOf s (fieldLE p 8 8) = some c → (qpOf s c).plain = false →
      w = (if fieldLE p 1 1 = 0 then 256 else fieldLE p 1 1) →
      ∃ t, exec (.creditSet n) s = .next (answer n msg .ok (force 0x0A11 t)) ∧
        qpOf t c = { qpOf s c with creditWin := w, granted := min (qpOf s c).granted w } ∧
        t = { s with lat := { s.lat with qps := t.lat.qps, windowOff := t.lat.windowOff } })) ∧
  (∀ (n : Fin 64) (s : State) (p : Bytes) (msg : BMsg), Taken s n 0x0A02 p msg → pdConfigLayout p = true →
    ((fieldLE p 2 1).testBit 7 = false → ∃ v, exec (.pdConfig n) s = .next (answer n msg .ok (note 0x0A 9 1 { s with
        lat := { s.lat with pds := tset s.lat.pds (fieldLE p 0 2) v } })) ∧ v.gcm = (fieldLE p 2 1).testBit 0 ∧
        v.plain = (fieldLE p 2 1).testBit 1 ∧ v.pageLimit = fieldLE p 4 4 ∧ v.ranges.length = fieldLE p 3 1) ∧
    ((fieldLE p 2 1).testBit 7 = true → (tvals s.lat.qps).any (fun q => decide (q.pd = fieldLE p 0 2 ∧ q.st ≠ .free)) = false →
      exec (.pdConfig n) s = .next (answer n msg .ok (note 0x0A 9 1 { s with
        lat := { s.lat with pds := terase s.lat.pds (fieldLE p 0 2) } })))) ∧
  (∀ (n : Fin 64) (s : State) (p : Bytes) (msg : BMsg), Taken s n 0x0B11 p msg → p.length = 20 →
    (0 < fieldLE p 0 4 → fieldLE p 0 4 ≤ 30 → s.pair.named.contains (bslice p 4 16) = false →
      exec (.migrationWindow n) s = .next (settle (answer n msg .ok (note 0x0B 9 0 { s with pair := { s.pair with
        window := some (bslice p 4 16, optime s + fieldLE p 0 4 * 86400)
        named := bslice p 4 16 :: s.pair.named } })))) ∧
    (∀ e, fieldLE p 0 4 = 0 → s.pair.window = some (bslice p 4 16, e) →
      exec (.migrationWindow n) s = .next (settle (answer n msg .ok (note 0x0B 9 0 { s with pair := { s.pair with
        window := none } })))))

/-- R118, R404, R430 to R435, R456: HEAD_RESET makes a reset due, after its response or at the end of a handover of every
volume; PWR_STATE_FORCE starts the job that moves the head towards the state asked for, one that ends at once where the head
is there; AVS_SET enters the rail's change; WAKE_SOURCE_SET without a timer or a pin sets the wake sources; PWR_STATE_POLICY
sets the idle policy and its wake sources; FW_STAGE leaves the other slot as it is and the slot staged unconfirmed, with the
image's version where it was checked and read back; FW_ACTIVATE makes the slot preferred with a reset due, or begins the
handover; SELFTEST_RUN starts the test of its resource. -/
def Obligations.SystemAndPowerCommands : Prop :=
  (∀ (n : Fin 64) (s : State) (msg : BMsg), Taken s n 0x0105 [0, 0, 0, 0] msg →
    exec (.headReset n) s = .next (settle (answer n msg .ok { s with ghx := { s.ghx with pendingReset := true } }))) ∧
  (∀ (n : Fin 64) (s : State) (msg : BMsg), Taken s n 0x0105 [1, 0, 0, 0] msg → s.pair.state = 3 →
    s.pair.handover = none → JobFree s →
    exec (.headReset n) s = .next (settle (answer n msg (jobReply s)
      (startHandover (myVols s) true 0x0105 (some s.kiosk.jobCount) (started 0x0105 0 0 s))))) ∧
  (∀ (n : Fin 64) (s : State) (t : Fin 3) (msg : BMsg), Taken s n 0x0310 [BitVec.ofNat 8 t, 0, 0, 0] msg →
    s.ghx.trans = .none → JobFree s →
    (s.gh.state = .serve → t.val = 0 → exec (.pwrStateForce n) s = .next (settle (answer n msg (jobReply s)
      (finishJob s.kiosk.jobCount .success [] (started 0x0310 0 0 s))))) ∧
    (s.gh.state = .serve → t.val ≠ 0 → sleepRefused s = none → exec (.pwrStateForce n) s = .next (settle
      (answer n msg (jobReply s) (startSleep t 0x0310 (some s.kiosk.jobCount) (started 0x0310 t 0 s))))) ∧
    (s.gh.state = .watch → t.val = 2 → dormantRefused s = none → exec (.pwrStateForce n) s = .next (settle
      (answer n msg (jobReply s) { started 0x0310 2 0 s with
        gh := { s.gh with state := .entering, target := 2, slpResult := 0 }
        ghx := { s.ghx with trans := .sleep 2 5 (some s.kiosk.jobCount) } }))) ∧
    (s.gh.state = .watch → t.val = 1 → exec (.pwrStateForce n) s = .next (settle (answer n msg (jobReply s)
      (finishJob s.kiosk.jobCount .success [] (started 0x0310 0 0 s))))) ∧
    (s.gh.state = .watch → t.val = 0 → exec (.pwrStateForce n) s = .next (settle (answer n msg (jobReply s)
      (startWake (started 0x0310 0 0 s)))))) ∧
  (∀ (n : Fin 64) (s : State) (p : Bytes) (msg : BMsg) (r mv : Nat), Taken s n 0x0311 p msg → layoutIs 4 [(1, 1)] p = true →
    fieldLE p 0 1 = r → r ≤ 2 → mv = (if fieldLE p 2 2 = 0 then svcOf s r else fieldLE p 2 2) → inService r mv = true →
    avsBusy s = false →
    s.gh.state = .serve →
    ∃ t, t = pushAvs r mv (.set n (mvOf s r)) s ∧
      exec (.avsSet n) s = .next (settle (setMbx n { mbxOf t n with longRun := true } t))) ∧
  (∀ (n : Fin 64) (s : State) (p : Bytes) (msg : BMsg), Taken s n 0x0312 p msg → p.length = 8 →
    within 1 31 (fieldLE p 0 1) = true → fieldLE p 1 1 = 255 → fieldLE p 2 1 = 255 → fieldLE p 3 1 ≤ 3 →
    (fieldLE p 0 1).testBit 3 = false → (fieldLE p 0 1).testBit 4 = false →
    exec (.wakeSourceSet n) s = .next (settle (answer n msg .ok
      (force 0x0312 { s with gh := { s.gh with wakeEn := BitVec.ofNat 5 (fieldLE p 0 1) } })))) ∧
  (∀ (n : Fin 64) (s : State) (p : Bytes) (msg : BMsg), Taken s n 0x0301 p msg → layoutIs 16 [(11, 5)] p = true →
    fieldLE p 0 1 = 1 → fieldLE p 1 1 ≤ 2 → within 1 1440 (fieldLE p 2 2) = true → fieldLE p 4 2 ≤ 400 →
    fieldLE p 6 2 ≤ 10080 → fieldLE p 8 2 = 0 → within 1 31 (fieldLE p 10 1) = true →
    s.kiosk.forced.contains 0x0312 = false → claimHolder s 2 7 ≠ some 3 →
    ∃ q pol, exec (.pwrStatePolicy n) s = .next (settle (answer n msg (.ok q) { s with
      ghx := { s.ghx with policy := pol }, gh := { s.gh with wakeEn := BitVec.ofNat 5 (fieldLE p 10 1) } })) ∧
      pol.target = fieldLE p 1 1 ∧ pol.idleMin = fieldLE p 2 2 ∧ pol.idleGbs = fieldLE p 4 2 ∧
      pol.dormantAfterMin = fieldLE p 6 2 ∧ pol.wakeEveryH = 0 ∧ pol.wakeEn = fieldLE p 10 1) ∧
  (∀ (n : Fin 64) (s : State) (p : Bytes) (msg : BMsg) (slot : Nat), Taken s n 0x0103 p msg → fwLayout p = true →
    fieldLE p 0 1 = slot → slot ≤ 1 → fieldLE p 1 1 ≤ 1 → 1152 ≤ (p.drop 8).length → (p.drop 8).length ≤ 25165824 →
    slot ≠ s.sec.running → JobFree s →
    ∀ ok : Bool, ∃ t, exec (.fwStage n ok) s = .next (settle (answer n msg (jobReply s) t)) ∧
      (bootSlot t slot).confirmed = false ∧ bootSlot t (1 - slot) = bootSlot s (1 - slot) ∧
      (imageOk s (p.drop 8) = true → ok = true →
        (bootSlot t slot).version = some (fieldLE (p.drop 8) 12 4) ∧ (bootSlot t slot).attempts = 0 ∧
          (bootSlot t slot).present = true ∧ (bootSlot t slot).security = fieldLE (p.drop 8) 8 4) ∧
      (imageOk s (p.drop 8) = true → ok = false → (bootSlot t slot).present = false)) ∧
  (∀ (n : Fin 64) (s : State) (slot : Fin 2) (flags : Fin 4) (msg : BMsg),
    Taken s n 0x0104 [BitVec.ofNat 8 slot, BitVec.ofNat 8 flags] msg → s.pair.handover = none → JobFree s →
    (flags.val % 2 = 1 → exec (.fwActivate n) s = .next (settle (answer n msg (jobReply s) { started 0x0104 slot flags s with
      ghx := { s.ghx with pendingReset := true }
      sec := { s.sec with preferred := slot }
      pair := { s.pair with autoFail := decide (flags.val / 2 % 2 = 1) } }))) ∧
    (flags.val % 2 = 0 → s.pair.state = 3 → exec (.fwActivate n) s = .next (settle (answer n msg (jobReply s)
      (startHandover (myVols s) true 0x0104 (some s.kiosk.jobCount) (started 0x0104 slot flags s)))))) ∧
  (∀ (n : Fin 64) (s : State) (p : Bytes) (msg : BMsg) (subj : Subject), Taken s n 0x0912 p msg → p.length = 8 →
    subjectOf s p = some subj → (∀ q, subj = .sledLane q → (shelfOf s (q / 32)).st = .awake) →
    (∀ g sl die block, subj = .flashBlock g sl die block → (shelfOf s g).st = .awake ∧
      (programmedHere s (g * 32 + sl) die block = true ∨ ownsGroup s (block / 64) = true)) → JobFree s →
    exec (.selftestRun n) s = .next (settle (answer n msg (jobReply s)
      (startTest subj none (started 0x0912 (subjectNo subj) 0 s)))))

/-- R244 to R247, R281 to R283: the commands that act on a shelf as a whole start a job and answer its number: SHELF_WAKE of a
shelf that is not awake notes the hold and asks for the shelf, SHELF_SLEEP takes the hold away, SHELF_HARDEN waits for its
hardening, with its band closed first if asked, HOME_SHELF_SET enters the new set and wakes those that are off, GC_FORCE
begins the reclamation of the band or of every eligible one, BLOCK_RETIRE retires the block, SCRUB_NOW begins an inspection or
joins the one that runs. -/
def Obligations.ShelfAndMediaJobs : Prop :=
  (∀ (n : Fin 64) (s : State) (p : Bytes) (msg : BMsg) (g : Nat) (v : Shelf) (r : State → State), Taken s n 0x0410 p msg →
    p.length = 4 → fieldLE p 0 1 = g → g < 32 → fieldLE p 1 1 ≤ 1 → fieldLE p 2 2 ≤ 28800 → isHome s g = false →
    (shelfOf s g).st ≠ .awake → (tget s.sleds.shelfRec g).isSome = true → wakeFits s g = true → mayRequest s = true →
    JobFree s →
    v = { shelfOf s g with
      holdJob := true
      holdS := fieldLE p 2 2
      readOnly := decide (fieldLE p 1 1 = 1)
      lapsed := false } →
    r = (match v.st with
      | .closing => setShelf g { v with closeAfter := false }
      | .failed => fun s => grantWake g (wantWake g (if fieldLE p 1 1 = 1 then .read else .ingest) 0
          (setShelf g { v with st := .off, fails := 0, retryWait := false } s))
      | .off => fun s => grantWake g (wantWake g (if fieldLE p 1 1 = 1 then .read else .ingest) 0 s)
      | _ => id) →
    exec (.shelfWake n) s = .next (settle (answer n msg (jobReply s) (r (force 0x0410 (setShelf g v
      (started 0x0410 g 0 s))))))) ∧
  (∀ (n : Fin 64) (s : State) (g : Fin 32) (msg : BMsg), Taken s n 0x0411 [BitVec.ofNat 8 g] msg → isHome s g = false →
    waitingOn s g = 0 → (shelfOf s g).st ≠ .off → (shelfOf s g).st ≠ .failed → JobFree s →
    exec (.shelfSleep n) s = .next (settle (answer n msg (jobReply s) (setShelf g { shelfOf s g with
      held := false, readOnly := false, holdS := 0 } (started 0x0411 g 0 s))))) ∧
  (∀ (n : Fin 64) (s : State) (g : Fin 32) (msg : BMsg), (shelfOf s g).st = .awake → JobFree s →
    (Taken s n 0x0412 [BitVec.ofNat 8 g, 0] msg →
      exec (.shelfHarden n) s = .next (settle (answer n msg (jobReply s) (started 0x0412 g 0 s)))) ∧
    (Taken s n 0x0412 [BitVec.ofNat 8 g, 1] msg →
      exec (.shelfHarden n) s = .next (settle (answer n msg (jobReply s) (closeBand g (started 0x0412 g 1 s)))))) ∧
  (∀ (n : Fin 64) (s : State) (b : Byte) (p : Bytes) (gs : List Nat) (msg : BMsg), Taken s n 0x0413 (b :: p) msg →
    homeShelfLayout (b :: p) = true → gs = p.map (·.toNat) → within 1 8 gs.length = true →
    gs.any (fun g => decide (31 < g)) = false → gs.eraseDups.length = gs.length →
    (∀ w, s.pair.arr.budget = some w → minBudget s gs ≤ w) → s.plc.homeJob = none → JobFree s →
    exec (.homeShelfSet n) s = .next (settle (answer n msg (jobReply s)
      (gs.foldl (fun s g => if (shelfOf s g).st = .off then grantWake g (wantWake g .background 0 s) else s)
        { started 0x0413 0 0 s with plc := { s.plc with homeJob := some (s.kiosk.jobCount, gs) } })))) ∧
  (∀ (n : Fin 64) (s : State) (p : Bytes) (msg : BMsg) (g band : Nat), Taken s n 0x0510 p msg → p.length = 4 →
    fieldLE p 0 1 = g → g < 32 → fieldLE p 1 1 ≤ 3 → fieldLE p 2 2 = band → (shelfOf s g).st = .awake → JobFree s →
    (fieldLE p 1 1 % 2 = 0 → bandEligible s g band = true →
      exec (.gcForce n) s = .next (settle (answer n msg (jobReply s) (startGc g band { started 0x0510 g 0 s with
        plc := { s.plc with bandJobs := s.plc.bandJobs ++ [(g, band, s.kiosk.jobCount)] } })))) ∧
    (∀ bands, fieldLE p 1 1 % 2 = 1 → bands = (bandsOn s g).filter (bandEligible s g) → bands ≠ [] →
      exec (.gcForce n) s = .next (settle (answer n msg (jobReply s) (bands.foldl (fun s b => startGc g b s)
        { started 0x0510 g 0 s with plc := { s.plc with
          bandJobs := s.plc.bandJobs ++ bands.map (fun b => (g, b, s.kiosk.jobCount)) } }))))) ∧
  (∀ (n : Fin 64) (s : State) (p : Bytes) (msg : BMsg) (g sl die block : Nat) (r : SledIdent), Taken s n 0x0511 p msg →
    p.length = 8 → wordLoc (fieldLE p 0 8) = { kind := .flash g sl die block 0 0 0 } →
    tget s.sleds.sledRec (g * 32 + sl) = some r → die < r.dies →
    block < r.blocks → programmedHere s (g * 32 + sl) die block = true → (shelfOf s g).st = .awake →
    (blkOf s (blkKey (g * 32 + sl) die block)).retired = false → JobFree s →
    exec (.blockRetire n) s = .next (settle (answer n msg (jobReply s) (finishJob s.kiosk.jobCount .success []
      (retireBlock (g * 32 + sl) die block (started 0x0511 0 0 s)))))) ∧
  (∀ (n : Fin 64) (s : State) (g : Fin 32) (msg : BMsg), Taken s n 0x0512 [BitVec.ofNat 8 g] msg →
    (shelfOf s g).st = .awake → JobFree s →
    ((shelfOf s g).inspecting.isSome = true →
      exec (.scrubNow n) s = .next (settle (answer n msg (jobReply s) (started 0x0512 g 0 s)))) ∧
    ((shelfOf s g).inspecting = none → ∃ t u, t = addItem .background g .inspect none (started 0x0512 g 0 s) ∧
      u = { t with plc := { t.plc with items := tmap (fun _ i =>
        if i.shelf = g ∧ i.work = .inspect then { i with granted := true } else i) t.plc.items } } ∧
      exec (.scrubNow n) s = .next (settle (answer n msg (jobReply s) (startInspect g u)))))

/-- R364, R365, R382 to R384, R454, R455: DRAM_TRAIN of a channel or of all makes the retraining pauses of the ranks that
serve, or trains the channels under a job; RANK_RETIRE of an unused spare retires it at once, of a rank with a spare begins
its migration under a job; WAY_LOCK takes the claim and begins the way's load, or gives the way up; WAY_POWER powers the ways,
at once or when those that leave are clean; CACHE_MAINT begins the operation; MON_ARM arms the unit under its claim and
touches no other unit, or stops it and releases the claim; MON_READ gives the unit's values. -/
def Obligations.DramCacheAndMonitorCommands : Prop :=
  (∀ (n : Fin 64) (s : State) (c : Nat) (chans : List Nat) (msg : BMsg), (c < 24 ∧ chans = [c] ∨ c = 255 ∧ chans = List.range 24) →
    (Taken s n 0x0610 [BitVec.ofNat 8 c, 0] msg → exec (.dramTrain n) s = .next (answer n msg .ok
      (chans.foldl (fun s n => (List.range 4).foldl (fun s r =>
        if rankServes (dmcOf s n) r then pauseRank n r (payRefresh n r s) else s) s) s))) ∧
    (Taken s n 0x0610 [BitVec.ofNat 8 c, 1] msg → trainAllowed s = true → JobFree s →
      ∃ t, exec (.dramTrain n) s = .next (answer n msg (jobReply s) (finishJob s.kiosk.jobCount .success [] t)) ∧
        t.dram.chanHash = s.dram.chanHash ∧
        t = { started 0x0610 c 0 s with dram := t.dram, draws := t.draws, sec := { s.sec with lodgeMem := [] } } ∧
        ∀ k ∈ chans, (dmcOf t k).state = 2 ∧ (dmcOf t k).poisoned = [])) ∧
  (∀ (n : Fin 64) (s : State) (ch : Fin 24) (r : Fin 4) (msg : BMsg),
    Taken s n 0x0611 [BitVec.ofNat 8 ch, BitVec.ofNat 8 r] msg → (rankOf (dmcOf s ch) r).present = true →
    (rankOf (dmcOf s ch) r).retired = false → (dmcOf s ch).migrating = false → (dmcOf s ch).spareValid = true →
    (dmcOf s ch).spare = r →
    exec (.rankRetire n) s = .next (answer n msg .ok (record 6 3 2 (.dramRank ch r) (leN 1 2)
      (setDmc ch (setRank r { rankOf (dmcOf s ch) r with retired := true } { dmcOf s ch with spareValid := false }) s)))) ∧
  (∀ (n : Fin 64) (s : State) (ch : Fin 24) (r : Fin 4) (msg : BMsg) (c : Dmc), dmcOf s ch = c →
    Taken s n 0x0611 [BitVec.ofNat 8 ch, BitVec.ofNat 8 r] msg → (rankOf c r).present = true →
    (rankOf c r).retired = false → c.migrating = false → c.spareValid = true → c.spare ≠ r → JobFree s →
    exec (.rankRetire n) s = .next (answer n msg (jobReply s) (record 6 3 2 (.dramRank ch r) (leN 1 0)
      (setDmc ch { c with
        migrating := true
        ptr := 0
        fromRank := r
        toRank := c.spare
        spareValid := false } (started 0x0611 ch r s))))) ∧
  (∀ (n : Fin 64) (s : State) (p : Bytes) (msg : BMsg) (i : Nat), Taken s n 0x0710 p msg → layoutIs 16 [(2, 2)] p = true →
    fieldLE p 0 1 = 1 → fieldLE p 1 1 = i → i < 4 → (claimHolder s 4 i = none ∨ claimHolder s 4 i = some 0x0200) →
    lockRangeOk s.cns (fieldLE p 4 8) (fieldLE p 12 4) = true → s.cns.off.getLsbD (12 + i) = false →
    s.cns.powered.getLsbD (12 + i) = true → (lockOf s.cns i).loading = false → s.cns.maint = none →
    ∃ t, exec (.wayLock n) s = .next (setMbx n { mbxOf t n with longRun := true } t) ∧
      claimHolder t 4 i = some 0x0200 ∧ (lockOf t.cns i).loading = true ∧ (lockOf t.cns i).loaded = false ∧
      (lockOf t.cns i).base = fieldLE p 4 8 / 128 ∧ (lockOf t.cns i).len = fieldLE p 12 4 / 128 ∧
      (lockOf t.cns i).mailbox = some n.val ∧
      t = { s with
        cns := t.cns
        dram := t.dram
        mons := t.mons
        kiosk := { s.kiosk with claims := t.kiosk.claims } }) ∧
  (∀ (n : Fin 64) (s : State) (p : Bytes) (msg : BMsg) (i : Nat), Taken s n 0x0710 p msg → layoutIs 16 [(2, 2)] p = true →
    fieldLE p 0 1 = 0 → fieldLE p 1 1 = i → i < 4 →
    (claimHolder s 4 i = none → exec (.wayLock n) s = .next (answer n msg .ok s)) ∧
    (claimHolder s 4 i = some 0x0200 → exec (.wayLock n) s = .next (answer n msg .ok
      (dropClaim 4 i (lockCut i (lockEnable i (setBit (lockOf s.cns i).en 1 false) s)))))) ∧
  (∀ (n : Fin 64) (s : State) (p : Bytes) (msg : BMsg) (off : BitVec 16), Taken s n 0x0711 p msg →
    layoutIs 4 [(2, 2)] p = true → off = BitVec.ofNat 16 (fieldLE p 0 2) →
    (List.range 16).any (fun w => off.getLsbD w && wayLocked s.cns w) = false → 4 ≤ unlockedOn s.cns off →
    ∃ t, t = { force 0x0711 s with cns := { s.cns with off := off, powered := s.cns.powered ||| ~~~off } } ∧
      (off &&& (s.cns.powered ||| ~~~off) = 0 → exec (.wayPower n) s = .next (answer n msg .ok t)) ∧
      (off &&& (s.cns.powered ||| ~~~off) ≠ 0 → exec (.wayPower n) s =
        .next (setMbx n { mbxOf t n with longRun := true } { t with cns := { t.cns with wayReq := some n } }))) ∧
  (∀ (n : Fin 64) (s : State) (p : Bytes) (msg : BMsg), Taken s n 0x0712 p msg → layoutIs 16 [(3, 1)] p = true →
    fieldLE p 0 1 ≤ 1 → fieldLE p 1 1 ≤ 1 → (fieldLE p 1 1 = 1 → fieldLE p 2 1 < 16) → fieldLE p 4 8 % 128 = 0 →
    fieldLE p 12 4 % 128 = 0 → s.cns.maint = none →
    ∃ t, t = { s with cns := { s.cns with maint := some { inv := decide (fieldLE p 0 1 = 1), byWay := decide (fieldLE p 1 1 = 1)
                                                          way := fieldLE p 2 1, base := fieldLE p 4 8 / 128
                                                          lines := fieldLE p 12 4 / 128, mailbox := some n } } } ∧
      exec (.cacheMaint n) s = .next (setMbx n { mbxOf t n with longRun := true } t)) ∧
  (∀ (n : Fin 64) (s : State) (p : Bytes) (msg : BMsg) (u : Nat), Taken s n 0x0910 p msg →
    layoutIs 16 [(12, 4)] p = true → fieldLE p 0 1 = u → u < 32 → fieldLE p 1 1 < 20 → fieldLE p 2 1 < 16 →
    (claimHolder s 3 u = none ∨ claimHolder s 3 u = some 0x0200) →
    (fieldLE p 3 1 = 1 → exec (.monArm n) s = .next (answer n msg .ok
      (dropClaim 3 u (monEnable u (setBit (monOf s u).en 0 false) (monStop u s))))) ∧
    (fieldLE p 3 1 = 0 → ∃ t, exec (.monArm n) s = .next (answer n msg .ok t) ∧ claimHolder t 3 u = some 0x0200 ∧
      (monOf t u).running = true ∧ (monOf t u).live = {} ∧ (monOf t u).probe = BitVec.ofNat 6 (fieldLE p 1 1) ∧
      (monOf t u).scale = BitVec.ofNat 4 (fieldLE p 2 1) ∧ (monOf t u).filter = BitVec.ofNat 32 (fieldLE p 4 4) ∧
      (monOf t u).windowMs = BitVec.ofNat 32 (fieldLE p 8 4) ∧ (∀ k, k ≠ u → monOf t k = monOf s k) ∧
      t = { s with mons := t.mons, kiosk := { s.kiosk with claims := t.kiosk.claims } })) ∧
  (∀ (n : Fin 64) (s : State) (u : Fin 32) (msg : BMsg), Taken s n 0x0911 [BitVec.ofNat 8 u, 0, 0, 0] msg →
    ∃ q, exec (.monRead n) s = .next (answer n msg (.ok q) (monSnap u s)) ∧
      ((monOf s u).running = false → monSnap u s = setMon u { monOf s u with shadow := (monOf s u).live } s) ∧
      fieldLE q 12 8 = (monOf s u).live.count % 2 ^ 64 ∧ fieldLE q 20 8 = (monOf s u).live.sum % 2 ^ 64 ∧
      fieldLE q 28 4 = (monOf s u).live.min % 2 ^ 32 ∧ fieldLE q 32 4 = (monOf s u).live.max % 2 ^ 32)

/-- R45 to R47, R52, R55, R393, R395, R405, R406: SESSION_CHALLENGE's nonce becomes valid; SESSION_OPEN with a token that
passes opens the session with its scope and expiry, one with any other is refused DENIED; SESSION_CLOSE of the open session
and SESSION_EXPIRY leave none and no forced state; CLAIM_REVOKE of a digest key slot's claim takes the claim and the key;
KEY_WRAPPED_LOAD of a digest key that unwraps loads it under a claim and is refused DENIED otherwise; KEY_ZEROISE of a digest
key empties its slot, of the key-encryption key and of a queue's keys drops them; OPERATOR_KEY_REGISTER registers a first key;
ATTEST answers the report with its signature, and with the certificates where asked. -/
def Obligations.SessionsClaimsAndKeys : Prop :=
  (∀ (n : Fin 64) (s : State) (msg : BMsg), Taken s n 0x0110 [] msg → s.sec.rngHalted = false →
    ∃ t, exec (.sessionChallenge n) s = .next (settle (answer n msg (.ok (freeBytes 32 s ++ deviceSerial)) t)) ∧
      nonceValid t (freeBytes 32 s) = true ∧ t.kiosk.nonceCount = s.kiosk.nonceCount + 1 ∧
      t = { s with
        draws := s.draws + 1
        sec := { s.sec with drbgReqs := if 65535 ≤ s.sec.drbgReqs then 0 else s.sec.drbgReqs + 1 }
        kiosk := { s.kiosk with nonces := t.kiosk.nonces, nonceCount := s.kiosk.nonceCount + 1 } }) ∧
  (∀ (n : Fin 64) (s : State) (p : Bytes) (msg : BMsg), Taken s n 0x0111 p msg → tokenLayout p = true →
    s.kiosk.lockout = false → s.kiosk.session = none →
    if tokenOk s p then
      ∃ t x, exec (.sessionOpen n) s = .next (settle (answer n msg (.ok (leN 4 x.handle ++ leN 4 x.expiry)) t)) ∧
        t.kiosk.session = some x ∧ x.scope = BitVec.ofNat 16 (fieldLE p 8 2) ∧ x.expiry = optime s + fieldLE p 4 4 ∧
        x.path = (mbxOf s n).ringPath ∧ x.mailbox = n.val ∧ nonceValid t (bslice p 16 32) = false
    else exec (.sessionOpen n) s = .next (settle (answer n msg (.fail .denied)
      (sessFails (pkaSubmit 0 (useNonce (bslice p 16 32) s)))))) ∧
  (∀ (n : Fin 64) (s : State) (msg : BMsg) (x : Session), Taken s n 0x0112 [] msg → s.kiosk.session = some x →
    x.handle = msg.session →
    ∃ t, exec (.sessionClose n) s = .next (settle (answer n msg .ok t)) ∧ t = sessionEnd s ∧ t.kiosk.session = none ∧
      t.kiosk.forced = []) ∧
  (∀ (s : State) (x : Session), s.kiosk.session = some x →
    ∃ t, exec .sessionExpiry s = .next (settle t) ∧ t = sessionEnd s ∧ t.kiosk.session = none ∧ t.kiosk.forced = []) ∧
  (∀ (n : Fin 64) (s : State) (p : Bytes) (msg : BMsg) (k : Nat), Taken s n 0x0121 p msg → layoutIs 4 [(1, 1)] p = true →
    fieldLE p 0 1 = 6 → fieldLE p 2 2 = k → k < 64 →
    (allClaims s).find? (fun e => decide (e.1 = claimKey 6 k)) = some (claimKey 6 k, 0x0100 + n.val) →
    tget s.kiosk.claims (claimKey 6 k) = some { holder := 0x0100 + n.val } →
    exec (.claimRevoke n) s = .next (settle (answer n msg .ok (record 1 0x0A 2 (.claim 6 k) (leN 2 (0x0100 + n.val)) { s with
      sec := { s.sec with dgtKeys := terase s.sec.dgtKeys k }
      kiosk := { s.kiosk with claims := terase s.kiosk.claims (claimKey 6 k) } })))) ∧
  (∀ (n : Fin 64) (s : State) (p : Bytes) (msg : BMsg) (b : Bytes), Taken s n 0x0800 p msg → keyLoadLayout p = true →
    fieldLE p 0 1 = 4 → b = bslice p 8 (fieldLE p 2 2) → fieldLE b 2 1 = 4 → claimHolder s 6 (fieldLE b 6 2) = none →
    match unwrap s b with
    | some key => exec (.keyWrappedLoad n) s = .next (answer n msg .ok (setClaim 6 (fieldLE b 6 2) (0x0100 + n.val) { s with
        sec := { s.sec with dgtKeys := tset s.sec.dgtKeys (fieldLE b 6 2) key } }))
    | none => exec (.keyWrappedLoad n) s = .next (answer n msg (.fail .denied) (note 8 7 2 s))) ∧
  (∀ (n : Fin 64) (s : State) (p : Bytes) (msg : BMsg) (k : Nat), Taken s n 0x0801 p msg → layoutIs 12 [(1, 3)] p = true →
    fieldLE p 0 1 = 4 → fieldLE p 4 8 = k → 48 ≤ k → k ≤ 63 →
    tget s.kiosk.claims (claimKey 6 k) = some { holder := 0x0100 + n.val } →
    exec (.keyZeroise n) s = .next (settle (answer n msg .ok (note 8 9 2 { s with
      sec := { s.sec with dgtKeys := terase s.sec.dgtKeys k }
      kiosk := { s.kiosk with claims := terase s.kiosk.claims (claimKey 6 k) } })))) ∧
  (∀ (n : Fin 64) (s : State) (p : Bytes) (msg : BMsg), Taken s n 0x0801 p msg → layoutIs 12 [(1, 3)] p = true →
    (fieldLE p 0 1 = 0 → fieldLE p 4 8 = 0 → s.pair.paired = false → myVols s = [] →
      exec (.keyZeroise n) s = .next (settle (answer n msg .ok (note 8 9 2 (dropKek s))))) ∧
    (fieldLE p 0 1 = 2 →
      exec (.keyZeroise n) s = .next (settle (answer n msg .ok (note 8 9 2 (zeroiseQueue (fieldLE p 4 8) s)))))) ∧
  (∀ (n : Fin 64) (s : State) (p : Bytes) (msg : BMsg) (i : Nat), Taken s n 0x0803 p msg → opKeyLayout p = true →
    fieldLE p 0 1 = 0 → fieldLE p 1 1 = i → i ≤ 7 → fieldLE p 2 1 = 255 → s.pair.arr.opKeys = [] → myVols s = [] →
    nonceValid s (bslice p 4 32) = true →
    ∃ t, exec (.operatorKeyRegister n) s = .next (settle (answer n msg .ok (note 8 9 2 t))) ∧
      t.pair.arr.opKeys = [(i, bslice p 36 512)] ∧ t.sec.norOpKeys = [(i, bslice p 36 512)] ∧
      nonceValid t (bslice p 4 32) = false ∧
      t = { s with
        pair := t.pair
        sec := { s.sec with norOpKeys := t.sec.norOpKeys }
        kiosk := { s.kiosk with nonces := t.kiosk.nonces } }) ∧
  (∀ (n : Fin 64) (s : State) (p : Bytes) (msg : BMsg), Taken s n 0x0802 p msg → layoutIs 36 [(33, 3)] p = true →
    fieldLE p 32 1 ≤ 1 →
    ∃ sig certs, exec (.attest n) s =
        .next (answer n msg (.ok (reportBody s (p.take 32) ++ sig ++ certs)) (pkaSubmit 1 (draw s))) ∧
      sig.length = 512 ∧ (fieldLE p 32 1 = 0 → certs = []))

/-- R51: the expert window reads, writes and modifies registers word by word: REG_READ answers the words in order with the
effect that reading each has, REG_WRITE pokes each word in order, REG_MODIFY replaces the masked bits; a REG_WRITE of an
address that is no register is refused INVALID_FIELD. -/
def Obligations.ExpertWindowAccesses : Prop :=
  (∀ (n : Fin 64) (s : State) (p : Bytes) (msg : BMsg) (addrs : List Nat) (r : Bytes × State), Taken s n 0x0F00 p msg →
    p.length = 6 → countOk (fieldLE p 4 2) = true → addrs = wordAddrs (fieldLE p 0 4) (fieldLE p 4 2) →
    windowRefusal addrs false s = none →
    r = addrs.foldl (fun acc a => (acc.1 ++ leN 4 ((regVal 2 a acc.2).getD 0).toNat, regReadEffect a acc.2)) ([], s) →
    exec (.regRead n) s = .next (settle (answer n msg (.ok r.1) r.2))) ∧
  (∀ (n : Fin 64) (s : State) (p : Bytes) (msg : BMsg) (a : Nat) (w : Word), Taken s n 0x0F00 p msg → p.length = 6 →
    fieldLE p 0 4 = a → fieldLE p 4 2 = 1 → windowRefusal [a] false s = none → regVal 2 a s = some w →
    exec (.regRead n) s = .next (settle (answer n msg (.ok (leN 4 w.toNat)) (regReadEffect a s)))) ∧
  (∀ (n : Fin 64) (s : State) (p : Bytes) (msg : BMsg), Taken s n 0x0F01 p msg → regWriteLayout p = true →
    countOk (fieldLE p 4 2) = true → windowRefusal (wordAddrs (fieldLE p 0 4) (fieldLE p 4 2)) true s = none →
    exec (.regWrite n) s = .next (settle (answer n msg .ok ((List.range (fieldLE p 4 2)).foldl (fun s i =>
      regPoke 2 (fieldLE p 0 4 + 4 * i) (BitVec.ofNat 32 (fieldLE p (6 + 4 * i) 4)) s) s)))) ∧
  (∀ (n : Fin 64) (s : State) (p : Bytes) (msg : BMsg) (a : Nat) (w mask value : Word), Taken s n 0x0F02 p msg →
    p.length = 12 → fieldLE p 0 4 = a → mask = BitVec.ofNat 32 (fieldLE p 4 4) → value = BitVec.ofNat 32 (fieldLE p 8 4) →
    windowRefusal [a] true s = none → regVal 2 a s = some w →
    exec (.regModify n) s = .next (settle (answer n msg .ok
      (regPoke 2 a ((w &&& ~~~mask) ||| (value &&& mask)) (regReadEffect a s))))) ∧
  (∀ (n : Fin 64) (s : State) (p : Bytes) (msg : BMsg) (a : Nat), Taken s n 0x0F01 p msg → regWriteLayout p = true →
    fieldLE p 0 4 = a → fieldLE p 4 2 = 1 → regVal 2 a s = none →
    exec (.regWrite n) s = .next (settle (answer n msg (.fail .invalidField) s)))

/-- R115, R116, R118, R119, R174, R176, R331 to R333, R335: PAIR_JOIN notes what is asked under a job and sends HELLO;
FAILBACK begins the fail-back of a rejoining head; TAKEOVER_FORCE begins a handover of every volume or fences the peer;
SNAP_CREATE gives each volume its lowest free snapshot number under a job; SNAP_DELETE marks the snapshot under a job;
REPL_CONFIG creates, deletes, pauses and resumes a relationship; REPL_RESYNC notes the resynchronisation asked for; QP_RESET
puts a live queue pair into ERROR; PORT_CONFIG, while no queue pair exists, sets the split and the pool, keeps only the ports
of the split and ends its job. -/
def Obligations.PairSnapshotAndPortCommands : Prop :=
  (∀ (n : Fin 64) (s : State) (p : Bytes) (msg : BMsg), Taken s n 0x0B01 p msg →
    layoutIs 16 [(2, 2), (12, 4)] p = true → fieldLE p 0 1 ≤ 2 → fieldLE p 1 1 ≤ 1 → s.pair.job = none → JobFree s →
    ∃ t, t = { started 0x0B01 (fieldLE p 0 1) 0 s with pair := { s.pair with
        job := some (s.kiosk.jobCount, fieldLE p 0 1)
        joinReq := some (fieldLE p 4 4, fieldLE p 8 4, decide (fieldLE p 1 1 = 1))
        autoFail := decide (fieldLE p 1 1 = 1) } } ∧
      exec (.pairJoin n) s = .next (settle (answer n msg (jobReply s) (tryJoin (sendHello t)))) ∧
      (takesPart t = true → ∃ m, tget (sendHello t).ftb.sent s.ftb.nextId = some m ∧ m.body = .hello (myHello t))) ∧
  (∀ (n : Fin 64) (s : State) (msg : BMsg), Taken s n 0x0B02 [] msg → s.pair.state = 4 → s.pair.rejoin = true → JobFree s →
    exec (.failback n) s = .next (settle (answer n msg (jobReply s) (startFailback { started 0x0B02 0 0 s with
      pair := { s.pair with failJob := some s.kiosk.jobCount } })))) ∧
  (∀ (n : Fin 64) (s : State) (msg : BMsg), s.pair.fenced = false →
    (Taken s n 0x0B10 [0] msg → s.pair.state = 3 → s.pair.handover = none → JobFree s →
      exec (.takeoverForce n) s = .next (settle (answer n msg (jobReply s)
        (startHandover (myVols s) true 0x0B10 (some s.kiosk.jobCount) (started 0x0B10 0 0 s))))) ∧
    (Taken s n 0x0B10 [1] msg → s.pair.state = 3 → s.pair.paired = true → s.jrn.restart = .none → s.ghx.pwrFail = false →
      exec (.takeoverForce n) s = .next (settle (answer n msg .ok (fencePeer s))))) ∧
  (∀ (n : Fin 64) (s : State) (p : Bytes) (vols ns : List Nat) (msg : BMsg), Taken s n 0x0C00 p msg →
    snapCreateLayout p = true → vols = (List.range (fieldLE p 0 1)).map (fun i => fieldLE p (4 + 4 * i) 4) →
    vols.eraseDups.length = vols.length →
    (∀ v ∈ vols, volLives s v = true ∧ ownsVol s v = true ∧ (freeSnap s v).isSome = true) →
    ns = vols.map (fun v => (freeSnap s v).getD 0) → JobFree s →
    ∃ t, exec (.snapCreate n) s = .next (settle (answer n msg
        { status := .success, payload := leN 4 (jobNo s.kiosk.jobCount) ++ (ns.map (leN 2)).flatten, async := true } t)) ∧
      t = { started 0x0C00 0 0 s with rep := { s.rep with
        snaps := (vols.zip ns).foldl (fun m x => tset m (snapKey x.1 x.2) {}) s.rep.snaps
        snapJobs := s.rep.snapJobs ++ [(s.kiosk.jobCount, vols.zip ns)] } }) ∧
  (∀ (n : Fin 64) (s : State) (p : Bytes) (msg : BMsg) (x : Snap), Taken s n 0x0C01 p msg → p.length = 6 →
    fieldLE p 0 4 < 65536 → tget s.rep.snaps (snapKey (fieldLE p 0 4) (fieldLE p 4 2)) = some x →
    volLives s (fieldLE p 0 4) = true → ownsVol s (fieldLE p 0 4) = true → x.gone = false → x.deleting = false →
    x.repl = false → x.replica = false → JobFree s →
    ∃ t, exec (.snapDelete n) s = .next (settle (answer n msg (jobReply s) t)) ∧
      tget t.rep.snaps (snapKey (fieldLE p 0 4) (fieldLE p 4 2)) = some { x with deleting := true } ∧
      t.rep.delJobs = s.rep.delJobs ++ [(s.kiosk.jobCount, fieldLE p 0 4, fieldLE p 4 2)] ∧
      t = { started 0x0C01 (fieldLE p 0 4) (fieldLE p 4 2) s with rep := t.rep }) ∧
  (∀ (n : Fin 64) (s : State) (p : Bytes) (msg : BMsg) (r : ReplRec), Taken s n 0x0C03 p msg → replConfigLayout p = true →
    fieldLE p 2 2 < 1024 → tget s.pair.arr.rels (fieldLE p 2 2) = some r →
    (fieldLE p 0 1 = 2 → exec (.replConfig n) s = .next (settle (answer n msg .ok (changeArray (fun a => { a with
      rels := terase a.rels (fieldLE p 2 2) }) (leaveRel (fieldLE p 2 2) r s))))) ∧
    (2 < fieldLE p 0 1 → exec (.replConfig n) s = .next (settle (answer n msg .ok (changeArray (fun a => { a with
      rels := tset a.rels (fieldLE p 2 2) { r with paused := decide (fieldLE p 0 1 = 3) } }) s))))) ∧
  (∀ (n : Fin 64) (s : State) (p : Bytes) (msg : BMsg) (vols : List (Nat × Nat)), Taken s n 0x0C03 p msg →
    replConfigLayout p = true → fieldLE p 2 2 < 1024 → fieldLE p 0 1 ≤ 1 → (fieldLE p 0 1 = 0 → within 1 86400 (fieldLE p 4 4) = true) →
    fieldLE p 8 2 < 4096 → thas s.pair.arr.rels (fieldLE p 2 2) = false →
    vols = (List.range (fieldLE p 1 1)).map (fun i => (fieldLE p (64 + 8 * i) 4, fieldLE p (68 + 8 * i) 4)) →
    (vols.map (·.1)).eraseDups.length = vols.length → vols.all (fun v => volLives s v.1) = true →
    ((vols.map (fun v => (tget s.pair.arr.volumes v.1).map (·.pref))).eraseDups).length = 1 →
    s.pair.arr.rels.any (fun e => e.2.vols.any (fun x => vols.any (fun v => decide (v.1 = x.1)))) = false →
    exec (.replConfig n) s = .next (settle (answer n msg .ok (changeArray (fun a => { a with
      rels := tset a.rels (fieldLE p 2 2) {
        source := decide (fieldLE p 0 1 = 0)
        paused := false
        interval := fieldLE p 4 4
        pd := fieldLE p 8 2
        remoteArray := bslice p 16 16
        addrA := bslice p 32 16
        addrB := bslice p 48 16
        vols := vols } }) s)))) ∧
  (∀ (n : Fin 64) (s : State) (p : Bytes) (msg : BMsg), Taken s n 0x0C10 p msg → p.length = 2 →
    thas s.pair.arr.rels (fieldLE p 0 2) = true →
    exec (.replResync n) s = .next (settle (answer n msg .ok (setRel (fieldLE p 0 2) { relOf s (fieldLE p 0 2) with
      resync := true
      state := if (relOf s (fieldLE p 0 2)).state = 4 then 0 else (relOf s (fieldLE p 0 2)).state } s)))) ∧
  (∀ (n : Fin 64) (s : State) (p : Bytes) (msg : BMsg) (c : Nat), Taken s n 0x0A10 p msg → p.length = 8 →
    connOf s (fieldLE p 0 8) = some c → qpLive (qpOf s c) = true →
    exec (.qpReset n) s = .next (settle (answer n msg .ok (closeQp c (emit (.dreq c) s))))) ∧
  (∀ (n : Fin 64) (s : State) (p : Bytes) (msg : BMsg) (trained : BitVec 8), Taken s n 0x0A00 p msg →
    portConfigLayout p = true → (fieldLE p 4 4 = 0 ∨ poolUsed s ≤ fieldLE p 4 4 * 16) → JobFree s → s.lat.qps = [] →
    ∃ t j, exec (.portConfig n trained) s = .next (settle (answer n msg (jobReply s) t)) ∧
      t.lat.split = fieldLE p 0 1 ∧ t.lat.poolMib = (if fieldLE p 4 4 = 0 then s.lat.poolMib else fieldLE p 4 4) ∧
      (∀ e ∈ t.lat.hports, portUnder (fieldLE p 0 1) e.1 = true) ∧
      tget t.kiosk.jobs s.kiosk.jobCount = some j ∧ j.finished = true ∧ j.status = .success)

/-- R114: starting a handover notes it, holds a message "relinquish" with the volumes under the next message number, sends it
where a Footbridge port is up, and closes the epoch early, as the epoch timer would; nothing outside the pair and the
Footbridge changes before that. -/
def Obligations.HandoverBeginsWithRelinquish : Prop :=
  ∀ (vols : List Nat) (fence : Bool) (op : Nat) (job : Option Nat) (s : State),
    ∃ t m, startHandover vols fence op job s = epochTimer t ∧
      t.pair = { s.pair with handover := some { volumes := vols, fence := fence, opcode := op, job := job } } ∧
      tget t.ftb.sent s.ftb.nextId = some m ∧ m.type = 6 ∧ m.body = .handover (.relinquish vols) ∧
      t.ftb.nextId = s.ftb.nextId + 1 ∧ (upPorts s = [] → t.out = s.out) ∧
      (upPorts s ≠ [] → .ftb (.handover (.relinquish vols)) ∈ t.out) ∧ t = { s with
        pair := t.pair
        ftb := t.ftb
        out := t.out }

/-- R121, R122, R123, R124, R152, R153, R172, R393, Table 6.2: QUEUE_OPEN opens a queue on a free queue pair with the values
of its open record and is accepted; a record that fails a check, or a service not supported, is rejected with its status, and
one whose queue connects already is accepted again. RTU of a queue of which no command runs makes it OPEN with fresh credits,
its keys and a fresh replay table, or with the table that it resumes. DREQ, an invalid-request NAK (INVALID_REQUEST_NAK) and a
keepalive that lapses (QUEUE_KEEPALIVE_EXPIRY) close a live queue pair; DREQ and CONNECTING_TIMEOUT free one that connects
(the DREQ there is the model's choice, log entry 140). REPLAY_TABLE_EXPIRY discards the table of a queue that is not
connected, QUEUE_KEY_HOLD_EXPIRY the keys held for a queue, OLD_RX_KEY_EXPIRY the old receive key. -/
def Obligations.ConnectionsOpenAndClose : Prop :=
  (∀ (n : Fin 16384) (port : Fin 8) (hostQp psn : Nat) (r : Bytes) (s : State) (p : Pd), (hportOf s port).up = true →
    s.lat.qps.find? (fun e => decide (e.2.st = .connecting ∧ e.2.queueId = fieldLE r 8 8)) = none →
    openFails s r = none → tget s.lat.pds (fieldLE r 18 2) = some p → (qpOf s n).st = .free → (qpOf s n).tags = [] →
    exec (.queueOpen n port true (hostQp, psn) r) s =
      .next (emit (.cmReply n (openReply s .success (replyNewest s r))) (setQp n {
        st := .connecting
        queueId := fieldLE r 8 8
        port := port
        openPort := port
        pd := fieldLE r 18 2
        plain := p.plain
        gcm := p.gcm
        destQp := hostQp % 2 ^ 24
        psnAck := psnPrev (psn % 2 ^ 24)
        creditWin := s.lat.defWin
        txPsn := freeNat s % 2 ^ 24
        keepaliveS := if fieldLE r 16 2 = 0 then 10 else fieldLE r 16 2
        resume := decide (fieldLE r 2 2 = 1)
        initCsn := fieldLE r 4 4 } (draw s)))) ∧
  (∀ (n : Fin 16384) (port : Fin 8) (host : Nat × Nat) (r : Bytes) (s : State), (hportOf s port).up = true →
    (∀ st, s.lat.qps.find? (fun e => decide (e.2.st = .connecting ∧ e.2.queueId = fieldLE r 8 8)) = none →
      openFails s r = some st →
      exec (.queueOpen n port true host r) s = .next (emit (.cmReject n (openReply s st (replyNewest s r))) s)) ∧
    (∀ k q, s.lat.qps.find? (fun e => decide (e.2.st = .connecting ∧ e.2.queueId = fieldLE r 8 8)) = some (k, q) →
      s.pair.fenced = false →
      exec (.queueOpen n port true host r) s = .next (emit (.cmReply k (openReply s .success (replyNewest s r))) s)) ∧
    exec (.queueOpen n port false host r) s =
      .next (emit (.cmReject n (openReply s .invalidField (replyNewest s r))) s)) ∧
  (∀ (n : Fin 16384) (s : State) (q : Qp), qpOf s n = q → q.st = .connecting →
    (∀ e ∈ s.jrn.cmds, e.2.queueId ≠ q.queueId) →
    ∃ t l, exec (.rtu n) s = .next (touchCtx n t) ∧
      qpOf t n = { q with
        st := .open_
        granted := if q.plain then q.plainBufs else q.creditWin
        tx := if q.gcm then (heldKeys s q.queueId).map (fun k => keyPhase k.1 0) else none
        rx := if q.gcm then (heldKeys s q.queueId).map (fun k => keyPhase k.2 0) else none } ∧
      tget t.lat.queues q.queueId = some l ∧ l.qpn = some n.val ∧ l.pd = q.pd ∧ l.busy = [] ∧
      (q.resume = false → tget t.jrn.tables q.queueId =
        some { newest := (q.initCsn + 2 ^ 32 - 1) % 2 ^ 32, pd := some q.pd }) ∧
      (q.resume = true → tget t.jrn.tables q.queueId =
        (tget s.jrn.tables q.queueId).map (fun v => { v with pd := some q.pd })) ∧ t.jrn.cmds = s.jrn.cmds ∧
      t = { s with
        lat := { s.lat with
          qps := t.lat.qps
          queues := t.lat.queues }
        sec := { s.sec with queueKeys := t.sec.queueKeys }
        jrn := t.jrn }) ∧
  (∀ (n : Fin 16384) (s : State), (qpOf s n).st = .connecting →
    exec (.dreq n) s = .next (settle (setQp n { tags := (qpOf s n).tags, pd := (qpOf s n).pd } (emit (.drep n) s)))) ∧
  (∀ (n : Fin 16384) (s : State), qpLive (qpOf s n) = true →
    exec (.dreq n) s = .next (settle (closeQp n (emit (.drep n) s))) ∧
    exec (.invalidRequestNak n) s = .next (settle (closeQp n (emit (.dreq n) s))) ∧
    exec (.queueKeepaliveExpiry n) s =
      .next (settle (record 0x0A 8 1 (.queuePair n) [] (closeQp n (emit (.dreq n) s))))) ∧
  (∀ (n : Fin 16384) (s : State), (qpOf s n).st = .connecting →
    exec (.connectingTimeout n) s = .next (setQp n { tags := (qpOf s n).tags, pd := (qpOf s n).pd } s)) ∧
  (∀ (id : Nat) (s : State), connOf s id = none →
    ∃ t, exec (.replayTableExpiry id) s = .next t ∧ t.jrn.tables = terase s.jrn.tables id ∧
      (∀ k, k ≠ id → tget t.jrn.tables k = tget s.jrn.tables k) ∧
      t = { s with lat := { s.lat with queues := terase s.lat.queues id }, jrn := t.jrn }) ∧
  (∀ (id : Nat) (s : State), ∃ t, exec (.queueKeyHoldExpiry id) s = .next t ∧
      t.sec.queueKeys = s.sec.queueKeys.filter (fun k => decide (k.1 ≠ id)) ∧ t = { s with sec := t.sec }) ∧
  (∀ (n : Fin 16384) (s : State), (qpOf s n).rxOld = true →
    exec (.oldRxKeyExpiry n) s =
      .next (setQp n { qpOf s n with rx := (qpOf s n).rxNew, rxNew := none, rxOld := false } s))

/-- R148, R154, R155, R159, R160, R161, R162, R165, R168: an untagged SEND Only that comes in order on an ordered queue pair
with a free allowance (INBOUND_PACKET) is accepted and queued, renews the credits and makes an acknowledgement due.
TAGGED_SEGMENT places a middle segment at its offset in its message and takes its staging pages; PLAIN_SEND appends a middle
packet to its SEND; PLAIN_COPY_DONE hands a complete SEND over and frees its buffer; STAGING_PAGE_FREE returns a page that is
done with; STAGING_FAULT_TIMEOUT of a stalled ordered queue pair answers RNR and drops its packets; CONTEXT_FETCH_DONE makes a
context without held packets a cached one, and a bad context line is an error of the queue pair. -/
def Obligations.PacketsAreAcceptedAndPlaced : Prop :=
  (∀ (n : Fin 16384) (pkt : Packet) (s : State) (q : Qp), qpOf s n = q → qpLive q = true → q.cached = true →
    s.lat.lru.contains n.val = true → (hportOf s pkt.port).up = true → pkt.vlans = [] →
    q.gcm = false → q.plain = false → q.mode = some false → pkt.op = .sendOnly → pkt.ce = false →
    ahead 24 q.psnAck (pkt.psn % 2 ^ 24) = 1 → 0 < q.granted → s.lat.cap ≤ s.lat.allow → q.stalled = false →
    q.sinceAck < 31 →
    ∃ t, exec (.inboundPacket n pkt) s = .next (settle t) ∧
      qpOf t n = { q with
        psnAck := pkt.psn % 2 ^ 24
        segq := q.segq ++ [(pkt.psn % 2 ^ 24, pkt.payload)]
        granted := q.creditWin
        creditAsked := false
        ackDue := true
        sinceAck := q.sinceAck + 1
        msn := (q.msn + 1) % 2 ^ 24
        gapAt := q.gapAt.filter (· ≠ pkt.psn % 2 ^ 24) } ∧ t.jrn = s.jrn ∧
      (7 < (hportOf s pkt.port).pfc → t.out = s.out ∧ t.draws = s.draws)) ∧
  (∀ (n : Fin 16384) (s : State) (q : Qp) (psn asn : Nat) (raw : Bytes) (rest : List (Nat × Bytes)) (g : Seg) (x y : LTag)
      (want : List Nat), qpOf s n = q → q.plain = false → q.segq = (psn, raw) :: rest → segOf raw = some g →
    (g.mp = decide (q.mode = some true)) → tagOf q g.tag = x → x.st = .receiving → x.discard = false → x.asn = some asn →
    g.first = false → g.last = false → overlaps x g.off g.data.length = false →
    y = { x with placed := x.placed ++ [(g.off, g.data)] } →
    lengthBreach x g.off g.data.length false g.total (capsuleOf y) = false →
    want = (pagesOf ((capsuleOf y).getD []) (max g.off 64 - 64) (g.off + g.data.length - 64)).filter
      (fun p => !x.pages.contains p) → pagesFree s q want.length = true →
    ∃ t, exec (.taggedSegment n) s = .next (settle (popSeg n (checkComplete n g.tag t))) ∧
      qpOf t n = { q with tags := tset q.tags g.tag { y with pages := x.pages ++ want }, rnrCode := 4 } ∧
      t = { s with lat := { s.lat with qps := t.lat.qps } }) ∧
  (∀ (n : Fin 16384) (s : State) (q : Qp) (psn tag : Nat) (raw c : Bytes) (rest : List (Nat × Bytes)), qpOf s n = q →
    q.plain = true → q.segq = (psn, raw) :: rest → fieldLE raw 0 1 = 2 → q.plainRx.begun = true → q.plainRx.tag = some tag →
    q.plainRx.drop = false → capsuleOf (tagOf q tag) = some c → q.plainRx.bytes.length + (raw.length - 1) ≤ expected c →
    cdiv (q.plainRx.bytes ++ raw.drop 1).length 65536 ≤ 256 →
    pagesFree s q (cdiv (q.plainRx.bytes ++ raw.drop 1).length 65536 - q.plainRx.pages) = true →
    ∃ t, exec (.plainSend n) s = .next (settle t) ∧ qpOf t n = { q with
        segq := rest
        stalled := false
        plainBufs := min 32 q.plainBufs
        rnrCode := 4
        plainRx := { q.plainRx with
          bytes := q.plainRx.bytes ++ raw.drop 1
          pages := cdiv (q.plainRx.bytes ++ raw.drop 1).length 65536 } }) ∧
  (∀ (n : Fin 16384) (tag : Fin 32) (s : State) (x : LTag), tagOf (qpOf s n) tag = x → x.plainBuf = true →
    pagesFree s (qpOf s n) (pagesOf ((capsuleOf x).getD []) 0 (placedSum x - 64)).length = true →
    (∀ c, x.asn.bind (cmdOf s) = some c → within 1 8 c.opcode = true) →
    exec (.plainCopyDone n tag) s = .next (setQp n { qpOf s n with
      tags := tset (qpOf s n).tags tag { x with
        plainBuf := false
        st := .running
        pages := pagesOf ((capsuleOf x).getD []) 0 (placedSum x - 64) }
      plainBufs := min 32 ((qpOf s n).plainBufs + 1) } s)) ∧
  (∀ (n : Fin 16384) (tag : Fin 32) (page : Nat) (s : State) (x : LTag), tagOf (qpOf s n) tag = x →
    x.pages.contains page = true → pageDone s x page = true → (∀ e ∈ s.lat.qps, e.2.stalled = false) →
    ∃ t, exec (.stagingPageFree n tag page) s = .next (settle t) ∧
      (tagOf (qpOf t n) tag).pages = x.pages.filter (· ≠ page) ∧ (qpOf t n).segq = (qpOf s n).segq) ∧
  (∀ (n : Fin 16384) (s : State) (q : Qp) (psn : Nat) (raw : Bytes) (rest : List (Nat × Bytes)), qpOf s n = q →
    q.st = .open_ → q.stalled = true → q.segq = (psn, raw) :: rest → q.mode = some false →
    ∃ t, exec (.stagingFaultTimeout n) s = .next (settle t) ∧ (∃ b, t.out = s.out ++ [.rnrNak n psn q.rnrCode, .roce n b]) ∧
      t.lat.nakRnr = satAdd 16 s.lat.nakRnr 1 ∧
      qpOf t n = { q with
        segq := []
        stalled := false
        psnAck := psnPrev psn
        rnrCode := min 12 (q.rnrCode + 1)
        rnrSent := satAdd 32 q.rnrSent 1 }) ∧
  (∀ (n : Fin 16384) (s : State) (q : Qp), qpOf s n = q → q.fetching = true → qpLive q = true → q.held = [] →
    (∀ e ∈ s.lat.dropLog, e.1 ≠ n) → (s.lat.lru.contains n.val = true ∨ s.lat.lru.length < 2048) →
    ∃ t, exec (.contextFetchDone n true) s = .next (settle t) ∧ t.out = s.out ∧
      qpOf t n = { q with fetching := false, cached := true } ∧ (∀ k, k ≠ n.val → qpOf t k = qpOf s k)) ∧
  (∀ (n : Fin 16384) (s : State), (qpOf s n).fetching = true → qpLive (qpOf s n) = true →
    exec (.contextFetchDone n false) s = .next (settle (errorQp n (record 0x0A 1 2 (.queuePair n) []
      (setQp n { qpOf s n with fetching := false } s)))))

/-- R149, R153, R154, R167, R168, R169: ACK_COALESCE_TIMER sends the acknowledgement that is due, with the credits granted;
SELECTIVE_NAK_TIMER names the missing packet; OUTBOUND_ACK_TIMEOUT sends the oldest packet again and after seven retries ends
the queue pair; RNR_NAK_RECEIVED makes the packet named wait, RNR_RESEND_TIMER sends it again, RNR_HOLD_EXPIRY and
REMOTE_ACCESS_ERROR_NAK end the queue pair; CNP_RECEIVED halves its rate and RATE_RECOVERY_TICK raises it;
CREDIT_STARVATION_TIMER grants one segment; PAUSE_FRAME pauses a port for its priority; HOST_PORT_LINK_CHANGE, while no queue
pair exists, takes a port up or down. -/
def Obligations.OutboundSideOfAQueuePair : Prop :=
  (∀ (n : Fin 16384) (s : State) (q : Qp), qpOf s n = q → q.st = .open_ → q.ackDue = true →
    exec (.ackCoalesceTimer n) s = .next (emitAeth n (ackPsn q) (creditCode q.granted) q.msn
      (.ack n (ackPsn q) (creditCode q.granted)) (setQp n { q with ackDue := false, sinceAck := 0 } s))) ∧
  (∀ (n : Fin 16384) (s : State) (q : Qp) (psn : Nat), qpOf s n = q → q.st = .open_ → q.mode = some true →
    psn < 2 ^ 24 → q.psnAck < 2 ^ 24 → ahead 24 q.psnAck psn = 1 → q.window = [(psn + 1) % 2 ^ 24] →
    ∃ t b, exec (.selectiveNakTimer n psn) s = .next t ∧ t.out = s.out ++ [.selNak n [psn], .roce n b] ∧
      (qpOf t n).gapAt.contains psn = true ∧ t.lat.nakSel = satAdd 16 s.lat.nakSel 1) ∧
  (∀ (n : Fin 16384) (s : State) (q : Qp) (o : OutPkt), qpOf s n = q → q.st = .open_ → q.gcm = false →
    (hportOf s q.port).paused = false → q.outs = [o] → o.retries < 7 →
    exec (.outboundAckTimeout n) s = .next (settle (emit (.resend n o.psn)
      (setQp n { q with outs := [{ o with retries := o.retries + 1 }] } s)))) ∧
  (∀ (n : Fin 16384) (s : State) (q : Qp) (o : OutPkt) (rest : List OutPkt), qpOf s n = q → qpLive q = true →
    q.outs = o :: rest → 7 ≤ o.retries →
    exec (.outboundAckTimeout n) s = .next (settle (closeQp n (emit (.dreq n) s)))) ∧
  (∀ (n : Fin 16384) (s : State) (q : Qp) (o : OutPkt) (timer : Nat), qpOf s n = q → qpLive q = true → o.psn < 2 ^ 24 →
    q.outs = [o] →
    exec (.rnrNakReceived n o.psn timer) s = .next (setQp n { q with outs := [{ o with rnr := true, rnrSeen := true }] } s)) ∧
  (∀ (n : Fin 16384) (s : State) (q : Qp) (o : OutPkt), qpOf s n = q → q.st = .open_ → q.gcm = false →
    (hportOf s q.port).paused = false → q.outs = [o] → o.rnr = true →
    exec (.rnrResendTimer n) s =
      .next (emit (.resend n o.psn) (setQp n { q with outs := [{ o with rnr := false }] } s))) ∧
  (∀ (n : Fin 16384) (s : State) (q : Qp), qpOf s n = q → qpLive q = true → q.outs.any (·.rnrSeen) = true →
    exec (.rnrHoldExpiry n) s = .next (settle (closeQp n (emit (.dreq n) s)))) ∧
  (∀ (n : Fin 16384) (s : State) (q : Qp) (psn : Nat), qpOf s n = q → qpLive q = true →
    q.outs.any (fun o => decide (o.psn = psn) && !o.isSend) = true →
    exec (.remoteAccessErrorNak n psn) s = .next (settle (closeQp n (emit (.dreq n) (setQp n { q with
      outs := q.outs.filter (fun o => decide (2 ^ 23 ≤ psnAhead o.psn (psnPrev psn))) } s))))) ∧
  (∀ (n : Fin 16384) (s : State) (q : Qp), qpOf s n = q → qpLive q = true →
    exec (.cnpReceived n true) s = .next (setQp n { q with rate := q.rate / 2 } s) ∧
    exec (.rateRecoveryTick n) s =
      .next (setQp n { q with rate := min (100 * 2 ^ 32) (q.rate + 5 * 2 ^ 32) } s)) ∧
  (∀ (n : Fin 16384) (s : State) (q : Qp), qpOf s n = q → q.st = .open_ → q.plain = false → q.granted < q.creditWin →
    ∃ t b, exec (.creditStarvationTimer n) s = .next t ∧
      t.out = s.out ++ [.ack n (ackPsn q) (creditCode (q.granted + 1)), .roce n b] ∧
      qpOf t n = { q with granted := q.granted + 1, ackDue := false, sinceAck := 0 }) ∧
  (∀ (port : Fin 8) (prio : Nat) (s : State) (h : HPort), hportOf s port = h → h.up = true → h.pfc = prio → prio ≤ 7 →
    exec (.pauseFrame port prio true) s = .next (settle { s with lat := { s.lat with
      hports := tset s.lat.hports port { h with paused := true } } })) ∧
  (∀ (port : Fin 8) (up : Bool) (s : State) (h : HPort), hportOf s port = h → h.exists_ = true → s.lat.qps = [] →
    exec (.hostPortLinkChange port up) s = .next (settle (record 0x0A 5 1 .none [] { s with lat := { s.lat with
      hports := tset s.lat.hports port { h with up := up, paused := false } } })))

/-- R60, R66, R68, R73, R77, R130 to R137, R142, R144: a complete message that passes its checks and that nothing holds back
enters step 3 in the current epoch and begins its work: a WRITE has its commit units and chunks, a RELEASE too, a READ behind
no earlier writer its chunk reads, a FLUSH of one volume while no page is open that volume, a RECALL that needs no wake its
hold and its outcome, an IDENTIFY its record on the way to the host, a KEEPALIVE its answer; an ABORT of a running READ that
has sent nothing ends it ABORTED and itself SUCCESS. OVERLAP_RELEASE starts a READ that waited for a writer;
ORDERED_BARRIER_RELEASE admits a KEEPALIVE that waited; MESSAGE_TIMER_EXPIRY of a message whose capsule never came answers
TIMEOUT. -/
def Obligations.LatMessagesRun : Prop :=
  (∀ (n : Fin 16384) (tag : Fin 32) (asn : Nat) (c : Cmd) (s : State), Ready s n tag 1 asn c →
    ∃ t x, exec (.write n tag) s = .next (settle t) ∧ cmdOf t asn = some x ∧ x = { c with
      checked := true
      dataDone := true
      stamp := s.mons.stamp
      stage := .running
      epoch := s.jrn.epoch.number
      units := unitsOf c.first c.blocks
      chunks := worksOf c (volDomain s c.volume) (msgData (cmdTag s c) (c.blocks * 4096)) }) ∧
  (∀ (n : Fin 16384) (tag : Fin 32) (asn : Nat) (c : Cmd) (s : State), Ready s n tag 2 asn c →
    writerBefore s asn c = false → noWait c = false →
    ∃ t x, exec (.read n tag) s = .next (settle t) ∧ cmdOf t asn = some x ∧ x = { c with
      checked := true
      dataDone := true
      stamp := s.mons.stamp
      stage := .running
      epoch := s.jrn.epoch.number
      key := readKey s c.volume c.snap
      reads := newReads c.first c.blocks }) ∧
  (∀ (n : Fin 16384) (tag : Fin 32) (asn : Nat) (c : Cmd) (s : State), Ready s n tag 3 asn c → c.volume ≠ 0xFFFFFFFF →
    s.plc.open_ = [] →
    ∃ t x, exec (.flush n tag) s = .next (settle t) ∧ cmdOf t asn = some x ∧ x.stage = .running ∧
      x.epoch = s.jrn.epoch.number ∧ x.names = [c.volume]) ∧
  (∀ (n : Fin 16384) (tag : Fin 32) (asn : Nat) (c : Cmd) (s : State), Ready s n tag 4 asn c →
    ∃ t x, exec (.release n tag) s = .next (settle t) ∧ cmdOf t asn = some x ∧ x.stage = .running ∧
      x.epoch = s.jrn.epoch.number ∧ x.units = unitsOf c.first c.blocks ∧
      x.chunks = worksOf c (volDomain s c.volume) []) ∧
  (∀ (n : Fin 16384) (tag : Fin 32) (asn k : Nat) (c v : Cmd) (s : State), Complete s n tag 5 asn c →
    abortTarget s asn c = some (k, v) → cmdOf s k = some v → v.opcode = 2 → v.stage = .running → pastReturn v = false →
    ∃ t x y, exec (.abort n tag) s = .next (settle t) ∧ cmdOf t asn = some x ∧ x.stage = .decided ∧ x.status = .success ∧
      cmdOf t k = some y ∧ y.stage = .decided ∧ y.status = .aborted) ∧
  (∀ (n : Fin 16384) (tag : Fin 32) (asn : Nat) (c : Cmd) (s : State), Ready s n tag 6 asn c →
    writerBefore s asn c = false → sleeping s { c with key := readKey s c.volume c.snap } = [] →
    ∃ t x, exec (.recall n tag) s = .next (settle t) ∧ cmdOf t asn = some x ∧ x.stage = .decided ∧ x.status = .success ∧
      x.holdId = some s.plc.holdCount ∧ t.plc.holdCount = s.plc.holdCount + 1) ∧
  (∀ (n : Fin 16384) (tag : Fin 32) (asn : Nat) (c : Cmd) (s : State), Ready s n tag 7 asn c → connected s c = true →
    ∃ t, exec (.identify n tag) s = .next (settle (flushAll c.qpn t)) ∧
      (qpOf t c.qpn).toWrite =
        (qpOf s c.qpn).toWrite ++ [(asn, capRkey c, capAddr c, identifyBytes s c)]) ∧
  (∀ (n : Fin 16384) (tag : Fin 32) (asn : Nat) (c : Cmd) (s : State), Ready s n tag 8 asn c →
    ∃ t x, exec (.keepalive n tag) s = .next (settle t) ∧ cmdOf t asn = some x ∧ x.stage = .decided ∧
      x.status = .success ∧ x.result = optime s % 2 ^ 32) ∧
  (∀ (asn : Nat) (c : Cmd) (s : State), cmdOf s asn = some c → c.overlap = true → c.stage = .running → c.opcode = 2 →
    writerBefore s asn c = false → heldByMove s c = false → cmdFails s c = none → noWait c = false →
    ∃ t, exec (.overlapRelease asn) s = .next (settle t) ∧ cmdOf t asn = some { c with
      overlap := false
      key := readKey s c.volume c.snap
      reads := newReads c.first c.blocks }) ∧
  (∀ (n : Fin 16384) (asn : Nat) (c : Cmd) (s : State), s.jrn.cmds = [(asn, c)] → c.qpn = n → c.stage = .held →
    c.checked = true → c.opcode = 8 → heldNow s asn c = false → cmdFails s c = none →
    ∃ t x, exec (.orderedBarrierRelease n) s = .next (settle t) ∧ cmdOf t asn = some x ∧ x.stage = .decided ∧
      x.status = .success ∧ x.epoch = s.jrn.epoch.number) ∧
  (∀ (n : Fin 16384) (tag : Fin 32) (s : State) (x : LTag), tagOf (qpOf s n) tag = x → x.asn = none → x.st = .receiving →
    exec (.messageTimerExpiry n tag) s =
      .next (settle (answerMsg n tag 0 0 .timeout 0 0 (setTag n tag { x with st := .ending } s))))

/-- R178 to R197, R200, Table 7.1: the reports of the ingest engines on a chunk of a running WRITE. FINGERPRINT_DONE counts an
all-zero chunk and sends it past the lookup; any other takes its fingerprint to the lookup. INDEX_GROUP_READ_DONE of a loaded
bucket in which no slot holds the tag stores the chunk as new and counts the false positive; a group that cannot be read sheds
the lookup with an event. LOOKUP_SHED and VERIFY_SHED store the chunk as new and count. VERIFY_READ_DONE, on a readable copy:
equal bytes make the chunk a reference, unequal ones a collision, stored as new under the next content serial; with no
readable copy it is stored as new and counted as unverified; a poisoned input is counted. MERGE_READ_DONE makes the chunk
full, and a read that fails ends the WRITE. COMPRESSION_DONE takes the payload that Table 7.2 chooses; ENCRYPTION_DONE of a
new chunk gives it the next content serial, its sealed region and its envelope. DECOMPRESSION_DONE of a READ takes the blocks;
a copy that fails its check is counted and the next source tried; with no key the READ fails. -/
def Obligations.IngestStepsOfAChunk : Prop :=
  (∀ (asn k : Nat) (c : Cmd) (w : ChunkWork) (s : State), AtStage s asn k .fingerprint c w →
    (w.data.all (· = 0) = true →
      ∃ t, exec (.fingerprintDone asn k) s = .next (settle t) ∧
        workAt t asn k = some { w with cls := .zero, stage := .encrypt } ∧ t.ing.zero = satAdd 32 s.ing.zero 1 ∧
        t.ing.chunks = s.ing.chunks) ∧
    (w.data.all (· = 0) = false →
      ∃ t, exec (.fingerprintDone asn k) s = .next (settle (lookup asn k t)) ∧
        workAt t asn k = some { w with fp := sha512t256 (domSalt s w.domain ++ w.data) } ∧
        t.ing.chunks = s.ing.chunks + 1)) ∧
  (∀ (asn k : Nat) (c : Cmd) (w : ChunkWork) (s : State), AtStage s asn k .index c w →
    s.ing.loading.contains (bucketOf s w.fp) = false → slotsWith (bucket s (bucketOf s w.fp)) (tagFp w.fp) = [] →
    ∃ t, exec (.indexGroupReadDone asn k true) s = .next (settle (asNew asn k t)) ∧
      t = { s with ing := { s.ing with fpos := satAdd 32 s.ing.fpos 1 } }) ∧
  (∀ (asn k : Nat) (c : Cmd) (w : ChunkWork) (s : State), AtStage s asn k .index c w →
    ∃ t, exec (.indexGroupReadDone asn k false) s = .next (settle (asNew asn k t)) ∧
      t.ing.shedStale = satAdd 16 s.ing.shedStale 1 ∧
      t = { record 4 1 2 .none (leN 8 (bucketOf s w.fp)) s with ing := t.ing }) ∧
  (∀ (asn k : Nat) (c : Cmd) (w : ChunkWork) (s : State), AtStage s asn k .index c w →
    ∃ t, exec (.lookupShed asn k) s = .next (settle (asNew asn k t)) ∧
      t.ing.shedStale = satAdd 16 s.ing.shedStale 1 ∧ t = { s with ing := t.ing }) ∧
  (∀ (asn k : Nat) (c : Cmd) (w : ChunkWork) (s : State), AtStage s asn k .verify c w →
    (∀ (n : Nat) (env region old : Bytes), workFetch s w = some (n, .got env region) → openChunk s env region = .ok old →
      (old = w.data → ∃ t, exec (.verifyReadDone asn k false) s = .next (settle (asReference asn k w.serial t)) ∧
        workAt t asn k = some w) ∧
      (old ≠ w.data → ∃ t, exec (.verifyReadDone asn k false) s = .next (settle (asNew asn k t)) ∧
        workAt t asn k = some { w with
          pinned := none
          fetch := none
          serial := roleNum s * 2 ^ 63 + (s.map.serial + 1) } ∧
        t.ing.collisions = satAdd 8 s.ing.collisions 1)) ∧
    (∀ (n : Nat) (st : Status) (poisoned : Bool), workFetch s w = some (n, .fails st) →
      ∃ t, exec (.verifyReadDone asn k poisoned) s = .next (settle (asNew asn k t)) ∧
        workAt t asn k = some { w with pinned := none, serial := 0, fetch := none } ∧
        t.ing.unverified = s.ing.unverified + 1) ∧
    (∀ (n : Nat) (env region : Bytes), workFetch s w = some (n, .got env region) →
      exec (.verifyReadDone asn k true) s = .next (settle (countPoison s))) ∧
    (∃ t, exec (.verifyShed asn k) s = .next (settle (asNew asn k t)) ∧
      workAt t asn k = some { w with pinned := none, serial := 0, fetch := none } ∧
      t.ing.shedStale = satAdd 16 s.ing.shedStale 1)) ∧
  (∀ (asn k n : Nat) (c : Cmd) (w : ChunkWork) (env region old : Bytes) (s : State), AtStage s asn k .merge c w →
    workFetch s w = some (n, .got env region) → openChunk s env region = .ok old →
    ((envOf env).overlay = false ∨ w.mask ||| (envOf env).mask = 255) →
    ∃ t, exec (.mergeReadDone asn k false) s = .next (settle t) ∧ workAt t asn k = some { w with
      base := 0
      fetch := none
      data := overlayBlocks w.mask w.data (inPlace (envOf env).mask old)
      mask := 255
      stage := .fingerprint }) ∧
  (∀ (asn k n : Nat) (c : Cmd) (w : ChunkWork) (st : Status) (poisoned : Bool) (s : State), AtStage s asn k .merge c w →
    workFetch s w = some (n, .fails st) →
    exec (.mergeReadDone asn k poisoned) s = .next (settle (endWriter asn st 0 s))) ∧
  (∀ (asn k : Nat) (c : Cmd) (w : ChunkWork) (s : State) (p : Bytes) (raw : Bool), AtStage s asn k .compress c w →
    choosePayload (domSwitches s w.domain).2.1 (storedData w) = (p, raw) →
    ∃ t, exec (.compressionDone asn k) s = .next (settle t) ∧
      workAt t asn k = some { w with payload := p, raw := raw, stage := .encrypt } ∧
      t.ing.raw = (if raw then satAdd 32 s.ing.raw 1 else s.ing.raw)) ∧
  (∀ (asn k : Nat) (c : Cmd) (w : ChunkWork) (s : State) (slot : Nat), AtStage s asn k .encrypt c w →
    w.payload ≠ [] → w.envelope = [] → w.cls = .new → keyPair s w.domain (domVersion s w.domain) = some slot →
    ∃ t y, exec (.encryptionDone asn k) s = .next (settle t) ∧ workAt t asn k = some y ∧
      t.map.serial = s.map.serial + 1 ∧ y.serial = roleNum s * 2 ^ 63 + (s.map.serial + 1) ∧
      y.region = sealRegion s slot y.serial (w.payload ++ trailer (storedData w)) ∧
      y.envelope = envBytes {
        raw := w.raw
        overlay := false
        migrated := w.migrated
        mask := w.mask
        domain := w.domain
        version := domVersion s w.domain
        serial := y.serial
        payloadLen := w.payload.length
        grains := grainsOf (w.payload.length + 8)
        fp := fit 32 w.fp }) ∧
  (∀ (asn k : Nat) (s : State) (v : ChunkRead), (cmdOf s asn).bind (fun c => readOf c k) = some v → v.stage = .decomp →
    match openChunk s v.envelope v.payload with
    | .error .noKey => ∃ t, exec (.decompressionDone asn k) s = .next (settle (failRead asn k .mediaError t)) ∧
        t.plc.fetches = terase s.plc.fetches v.fetch
    | .error (.check tooLong) => ∃ t, exec (.decompressionDone asn k) s = .next (settle (failSource v.fetch true t)) ∧
        t.ing.failCheck = (if tooLong then s.ing.failCheck else satAdd 16 s.ing.failCheck 1) ∧
        t.ing.failOver = (if tooLong then satAdd 16 s.ing.failOver 1 else s.ing.failOver)
    | .ok data => (∀ i, i < 8 → v.want.testBit i = true → (envOf v.envelope).mask.testBit i = true) →
        ∃ t y, exec (.decompressionDone asn k) s = .next (settle t) ∧
          (cmdOf t asn).bind (fun c => readOf c k) = some y ∧ y.stage = .done ∧
          y.got = ((blocksOf (envOf v.envelope).mask data).filter (fun e => v.want.testBit e.1)).foldl
            (fun t e => tset t e.1 e.2) v.got)

/-- R56, R58, R77, R78, R82, R85: JOURNAL_WRITE_ACK marks the record acknowledged; COMMIT_UNIT_COMMIT of the one ready unit of
a writer commits it and decides the command SUCCESS; JOURNAL_RELEASE frees the records of a unit adopted from the mirror
region, and for a unit of the own region writes the drained record that names its records; EPOCH_TIMER_FIRE moves the writers
that wait on later ones to the next epoch and begins the drain, and changes nothing else; HOLD_OK_FALL enters flash-confirmed
mode with an event, HOLD_OK_RISE notes the level, and FLASH_CONFIRMED_EXIT leaves the mode once HOLD_OK stands and every unit
of the mode is drained. -/
def Obligations.JournalCommitsAndEpochs : Prop :=
  (∀ (off : Nat) (s : State), ∃ t, exec (.journalWriteAck off) s = .next (settle t) ∧
    (∀ r ∈ t.jrn.own, r.r.off = off → r.acked = true) ∧ t.jrn.own.map (·.r) = s.jrn.own.map (·.r) ∧
    t = { s with jrn := { s.jrn with own := t.jrn.own } }) ∧
  (∀ (asn : Nat) (c : Cmd) (u : CUnit) (s : State), cmdOf s asn = some c → c.units = [u] → (c.opcode = 1 ∨ c.opcode = 4) →
    commitReady s asn 0 = true →
    ∃ t x y, exec (.commitUnitCommit asn 0) s = .next (settle t) ∧ cmdOf t asn = some x ∧ x.stage = .decided ∧
      x.status = .success ∧ x.units = [y] ∧ y.committed = true) ∧
  (∀ (asn unit : Nat) (u : UnitBook) (s : State),
    s.jrn.units.find? (fun u => decide (u.asn = asn ∧ u.unit % adopted = unit) && releaseReady s u) = some u →
    s.jrn.restart = .none → u.mirror = true →
    ∃ t, exec (.journalRelease asn unit) s = .next (settle t) ∧
      t.jrn.mirror = s.jrn.mirror.filter (fun r => !u.recs.contains r.off) ∧
      t.jrn.units = s.jrn.units.filter (fun v => !(decide (v.asn = asn) && decide (v.unit = u.unit))) ∧
      t = { s with jrn := { s.jrn with drain := t.jrn.drain, mirror := t.jrn.mirror, units := t.jrn.units } }) ∧
  (∀ (asn unit : Nat) (u : UnitBook) (s : State),
    s.jrn.units.find? (fun u => decide (u.asn = asn ∧ u.unit % adopted = unit) && releaseReady s u) = some u →
    s.jrn.restart = .none → u.mirror = false →
    exec (.journalRelease asn unit) s = .next (settle (drainRecs
      (((unitRecs s asn unit).filter (fun r => !r.drained)).map (·.r.off)) asn unit
      { s with jrn := { s.jrn with drain := tfilter (fun _ d => decide (d ≠ (asn, u.unit))) s.jrn.drain } }))) ∧
  (∀ (s : State), s.jrn.epoch.step = 0 → s.jrn.serving = true → s.jrn.restart = .none → s.jrn.stopped = false →
    ∃ t, exec .epochTimerFire s = .next (settle t) ∧ t.jrn.epoch = { s.jrn.epoch with step := 2, stamp := s.mons.stamp } ∧
      (∀ asn, cmdOf t asn = (cmdOf s asn).map (fun c => if asn ∈ movers s then { c with epoch := s.jrn.epoch.number + 1 } else c)) ∧
      t = { s with jrn := { s.jrn with cmds := t.jrn.cmds, epoch := t.jrn.epoch } }) ∧
  (∀ (s : State), s.jrn.flashMode = false →
    ∃ t, exec .holdOkFall s = .next (settle (record 0x04 5 2 .none [] t)) ∧ t.jrn.flashMode = true ∧ t.jrn.holdHigh = false ∧
      t.ghx.holdOk = false ∧ t = { s with ghx := t.ghx, jrn := { s.jrn with flashMode := true, holdHigh := false } }) ∧
  (∀ (s : State), s.jrn.flashMode = true → exec .holdOkFall s = .next (settle { s with
      ghx := { s.ghx with holdOk := false }
      jrn := { s.jrn with holdHigh := false } })) ∧
  (∀ (s : State), exec .holdOkRise s = .next (settle { s with
      ghx := { s.ghx with holdOk := true }
      jrn := { s.jrn with holdHigh := true } })) ∧
  (∀ (s : State), s.jrn.holdHigh = true → s.ghx.holdOk = true → s.dram.flashConf = false → s.ghx.keepUnfit = false →
    (∀ u ∈ s.jrn.units, u.flashMode = true → u.serials.all (drained s) = true) →
    exec .flashConfirmedExit s = .next (settle { s with jrn := { s.jrn with flashMode := false } }))

/-- R415 to R418, R427, R428, R469, R470, R471, R424: the Gatehouse's pins, timers, counters and temperature sensors.
SMBUS_ADDRESS_MATCH outside Icehouse, while the path is not live, answers ACK and stretches SCL, and fires wake source 0;
SMBUS_STRETCH_TIMEOUT ends the stretch with a NACK. WAKE_N_LOW fires source 1 and GPIO_WAKE_EDGE on a pin configured as wake
input source 4; a source sets its bit, and wakes a head in Watch or Dormant when it is enabled. GH_TIMER_EXPIRY sets fired,
drives the timer's pulse pins low, and with its wake bit fires source 3; TIMER_COMPARE_WRITE restarts the count;
TIMER_PULSE_END ends the pulse. XTAL_FAIL and XTAL_RESTORE set and clear the crystal flag; OPERATING_TIME_TICK advances the
operating time by one second, up to its end; OPTIME_LOCK locks it. WATCHDOG_KICK counts a kick; WATCHDOG_EXPIRY of an enabled
watchdog is a warm reset with an event. TJ_SAMPLE takes the highest reading as Tj, and enters or leaves the throttle or begins
the overheating; THERMAL_THROTTLE_STEP lowers the cap by 40 GB/s to no less than 40; TJ_COOL_TIMER ends a thermal fence and
has a fenced head say HELLO. -/
def Obligations.GatehousePinsTimersAndSensors : Prop :=
  (∀ (s : State), s.gh.state ≠ .icehouse → smbLive s = false → exec .smbusAddressMatch s = .next (settle (fireWake 0 { s with
    out := s.out ++ [.smbAck]
    ghx := { s.ghx with
      smbStretch := true
      smbNack := false } }))) ∧
  (∀ (s : State), (s.gh.state = .icehouse ∨ smbLive s = true) →
    exec .smbusAddressMatch s = .next (settle (fireWake 0 { s with ghx := { s.ghx with smbNack := false } }))) ∧
  (∀ (s : State), s.ghx.smbStretch = true → exec .smbusStretchTimeout s = .next (settle { s with
    ghx := { s.ghx with
      smbStretch := false
      smbNack := true } })) ∧
  (∀ (s : State),
    exec (.wakeNLow true) s = .next (settle (fireWake 1 { s with ghx := { s.ghx with wakeN := true } })) ∧
    exec (.wakeNLow false) s = .next (settle { s with ghx := { s.ghx with wakeN := false } })) ∧
  (∀ (k : Fin 16) (s : State) (g : Gpio), gpioOf s k = g →
    exec (.gpioWakeEdge k) s = .next (settle (if g.func = 2 then fireWake 4 (setGpio k { g with input := false } s)
      else setGpio k { g with input := false } s))) ∧
  (∀ (k : Nat) (s : State), s.gh.wakeEn.getLsbD k = false →
    fireWake k s = { s with gh := { s.gh with fired := setBit s.gh.fired k true } }) ∧
  (∀ (k : Nat) (s : State), s.gh.wakeEn.getLsbD k = true → (s.gh.state = .watch ∨ s.gh.state = .dormant) →
    fireWake k s = startWake { s with gh := { s.gh with fired := setBit s.gh.fired k true } }) ∧
  (∀ (t : Fin 8) (s : State) (v : GTimer), timerOf s t = v → v.counting = true → v.wake = false →
    exec (.ghTimerExpiry t) s = .next (settle ((pulsePins s t).foldl
      (fun s k => setGpio k { gpioOf s k with pulseLow := true } s)
      (setTimer t { v with fired := true, counting := v.periodic } s)))) ∧
  (∀ (t : Fin 8) (s : State) (v : GTimer), timerOf s t = v → v.counting = true → v.wake = true → pulsePins s t = [] →
    ∃ u, exec (.ghTimerExpiry t) s = .next (settle (fireWake 3 u)) ∧
      u.gh = { s.gh with firedTmr := setBit s.gh.firedTmr t true } ∧
      u = { setTimer t { v with fired := true, counting := v.periodic } s with gh := u.gh }) ∧
  (∀ (t : Fin 8) (ticks : Word) (s : State), exec (.timerCompareWrite t ticks) s =
    .next (settle (setTimer t { timerOf s t with cmp := ticks, counting := true } s))) ∧
  (∀ (k : Fin 16) (s : State), exec (.timerPulseEnd k) s =
    .next (settle (setGpio k { gpioOf s k with pulseLow := false } s))) ∧
  (∀ (s : State), s.ghx.xtalIgnored = false → exec .xtalFail s =
    .next (settle (record 3 1 2 .none [] { s with gh := { s.gh with xtalFail := true } }))) ∧
  (∀ (s : State), exec .xtalRestore s = .next (settle { s with gh := { s.gh with xtalFail := false } })) ∧
  (∀ (s : State), s.gh.seconds < 3599 → ∃ t, exec .operatingTimeTick s = .next (settle t) ∧
    t.gh = { s.gh with seconds := s.gh.seconds + 1 } ∧ t.ghx.tjSum = s.ghx.tjSum + s.ghx.tj ∧
    t.ghx.tjSecs = s.ghx.tjSecs + 1 ∧ t.dram.usePrev = s.dram.useHigh ∧ t.dram.useHigh = 0 ∧
    t = { s with gh := t.gh, ghx := t.ghx, dram := t.dram }) ∧
  (∀ (s : State), s.gh.seconds = 3599 → s.gh.hours < 2 ^ 24 - 1 → ∃ t, exec .operatingTimeTick s = .next (settle t) ∧
    t.gh = { s.gh with seconds := 0, hours := s.gh.hours + 1 }) ∧
  (∀ (s : State), s.gh.seconds = 3599 → s.gh.hours = 2 ^ 24 - 1 → ∃ t, exec .operatingTimeTick s = .next (settle t) ∧
    t.gh = s.gh) ∧
  (∀ (s : State), exec .optimeLock s = .next (settle { s with gh := { s.gh with optLock := true } })) ∧
  (∀ (s : State), exec .watchdogKick s =
    .next (settle { s with gh := { s.gh with wdogKicks := s.gh.wdogKicks + 1 } })) ∧
  (∀ (s : State), s.gh.wdogEn = true → exec .watchdogExpiry s = .next (settle (warmReset (record 1 8 3 .none []
    { s with gh := { s.gh with rstWdog := true, wdogKicks := 0 } })))) ∧
  (∀ (s : State), s.gh.wdogEn = false → exec .watchdogExpiry s = .next (settle s)) ∧
  (∀ (l : List Nat) (n : Nat) (s : State) (x : Ghx), l ≠ [] → maxBy (fun n => n) l = n → x = { s.ghx with
      tj := n
      tjComp := maxBy (fun n => n) (l.take 4)
      tjMax := max s.ghx.tjMax n } →
    (n ≤ 105 → s.ghx.throttled = false → n < tThr s →
      exec (.tjSample l) s = .next (settle { s with ghx := { x with hot105 := false } })) ∧
    (n ≤ 105 → s.ghx.throttled = false → tThr s ≤ n →
      ∃ t, exec (.tjSample l) s = .next (settle { record 9 6 2 .none [] t with
          ghx := { (record 9 6 2 .none [] t).ghx with hot105 := false } }) ∧
        t = { s with ghx := { x with throttled := true } }) ∧
    (n ≤ 105 → s.ghx.throttled = true → n + 3 ≤ tThr s →
      ∃ t, exec (.tjSample l) s = .next (settle { adjustAllowance false t with
          ghx := { (adjustAllowance false t).ghx with hot105 := false } }) ∧
        t = { s with ghx := { x with throttled := false, thermalCap := 400 } }) ∧
    (105 < n → s.ghx.throttled = true → s.ghx.hot105 = false → tThr s < n + 3 →
      exec (.tjSample l) s = .next (settle (overheated { s with ghx := x })))) ∧
  (∀ (s : State), s.ghx.throttled = true → exec .thermalThrottleStep s = .next (settle (adjustAllowance false
    { s with ghx := { s.ghx with thermalCap := max 40 (min s.ghx.thermalCap s.lat.cap - 40) } }))) ∧
  (∀ (s : State), s.ghx.thermalFence = true → s.ghx.tj ≤ 95 → s.pair.fenced = true →
    exec .tjCoolTimer s = .next (settle (sendHello { s with ghx := { s.ghx with thermalFence := false } }))) ∧
  (∀ (s : State), s.ghx.thermalFence = true → s.ghx.tj ≤ 95 → s.pair.fenced = false →
    exec .tjCoolTimer s = .next (settle { s with ghx := { s.ghx with thermalFence := false } }))

/-- R407, R408, R411, R419, R430, Tables 15.1 and 15.2: IDLE_POLICY_TIMER starts the handover of every volume towards Watch,
where Table 15.1 does not refuse; DORMANT_AFTER_TIMER takes a head in Watch on towards Dormant; GH_SLEEP_WATCH drops what
sleep drops and moves the rails, and GH_SLEEP_DORMANT moves them on to Dormant, from step 5 or from Watch at rest; either
gives way to a wake source that is pending. -/
def Obligations.SleepSequences : Prop :=
  (∀ (s : State), s.ghx.policy.target ≠ 0 → s.gh.state = .serve → s.ghx.trans = .none → sleepRefused s = none →
    ∃ t, exec .idlePolicyTimer s = .next (settle (startHandover (myVols t) true 0 none t)) ∧
      t.gh = { s.gh with state := .entering, target := 1, slpResult := 0 } ∧ t.ghx.trans = .sleep 1 2 none ∧
      t.pair = s.pair ∧ t.jrn = s.jrn) ∧
  (∀ (s : State), s.ghx.policy.target = 2 → s.gh.state = .watch → s.ghx.trans = .none → dormantRefused s = none →
    exec .dormantAfterTimer s = .next (settle { s with
      gh := { s.gh with
        state := .entering
        target := 2
        slpResult := 0 }
      ghx := { s.ghx with trans := .sleep 2 5 none } })) ∧
  (∀ (s : State) (job : Option Nat), s.ghx.trans = .sleep 1 3 job → wakePending s = false →
    ∃ t, exec .ghSleepWatch s = .next (settle (sleepAdvance (sleepRails 1 job (sleepDrop t)))) ∧
      t = { s with gh := { s.gh with slpTarget := 1 } }) ∧
  (∀ (s : State) (job : Option Nat), s.ghx.trans = .sleep 1 3 job → wakePending s = true →
    ∃ t, exec .ghSleepWatch s = .next (settle (sleepAbandon t)) ∧ t = { s with gh := { s.gh with slpTarget := 1 } }) ∧
  (∀ (s : State) (job : Option Nat), s.ghx.trans = .sleep 2 5 job → wakePending s = false →
    ∃ t, exec .ghSleepDormant s = .next (settle (sleepAdvance (sleepRails 2 job t))) ∧
      t = { s with gh := { s.gh with slpTarget := 2 } }) ∧
  (∀ (s : State) (job : Option Nat) (k : Nat), s.ghx.trans = .sleep 2 k job → k = 3 ∨ k = 5 → wakePending s = true →
    ∃ t, exec .ghSleepDormant s = .next (settle (sleepAbandon t)) ∧ t = { s with gh := { s.gh with slpTarget := 2 } }) ∧
  (∀ (s : State), s.ghx.trans = .none → s.gh.state = .watch → wakePending s = false →
    ∃ t, exec .ghSleepDormant s = .next (settle (sleepAdvance (sleepRails 2 none t))) ∧ t.gh.target = 2 ∧
      t.ghx.trans = .sleep 2 5 none ∧ t.jrn = s.jrn ∧ t.lat = s.lat)

/-- R412, R413, R420, R433, Table 15.5: AVS_CHANGE_START puts a change of a rail to a voltage of its windows on its bus,
behind one that runs there, discards a voltage outside them, and is discarded while busy. AVS_RESPONSE acknowledges the write,
and a VDone at the target ends the change. AVS_STATUS_POLL reads the status while a change waits for VDone; AVS_ACK_TIMEOUT
and AVS_VDONE_TIMEOUT fail a change that firmware or the register asked for, with an event. PLL_LOCK holds only with the PLL's
rail on; PLL_LOCK_TIMEOUT of an unlocked PLL fails the wake attempt; WAKE_RETRY_WAIT_END starts the next one. -/
def Obligations.RailsAndPllsOfAWake : Prop :=
  (∀ (rail : BitVec 2) (mv : BitVec 12) (s : State), avsBusy s = false → rail ≠ 3 → maySet rail.toNat mv.toNat = true →
    avsQ s (railBus rail.toNat) = [] →
    ∃ t, exec (.avsChangeStart rail mv) s = .next (settle (avsSend (railBus rail.toNat) t)) ∧
      avsQ t (railBus rail.toNat) = [{ rail := rail.toNat, target := mv.toNat, step := 0, acked := false, why := .ctl }] ∧
      t.gh = { s.gh with avsRail := rail, avsMv := mv } ∧ t.out = s.out) ∧
  (∀ (rail : BitVec 2) (mv : BitVec 12) (s : State), avsBusy s = false → rail ≠ 3 → maySet rail.toNat mv.toNat = true →
    avsQ s (railBus rail.toNat) ≠ [] →
    ∃ t, exec (.avsChangeStart rail mv) s = .next (settle t) ∧ avsQ t (railBus rail.toNat) = avsQ s (railBus rail.toNat) ++
        [{ rail := rail.toNat, target := mv.toNat, step := 0, acked := false, why := .ctl }] ∧
      t.gh = { s.gh with avsRail := rail, avsMv := mv } ∧ t.out = s.out) ∧
  (∀ (rail : BitVec 2) (mv : BitVec 12) (s : State), avsBusy s = true →
    exec (.avsChangeStart rail mv) s = .next (settle s)) ∧
  (∀ (rail : BitVec 2) (mv : BitVec 12) (s : State), avsBusy s = false → (rail = 3 ∨ maySet rail.toNat mv.toNat = false) →
    exec (.avsChangeStart rail mv) s = .next (settle { s with gh := { s.gh with avsRail := rail, avsMv := mv } })) ∧
  (∀ (b : Fin 2) (s : State) (op : AvsOp) (ma : Nat), avsQ s b = [op] → (op.why = .ctl ∨ op.why = .firmware) →
    op.acked = true →
    op.step = op.target → op.rail < 3 →
    ∃ t, exec (.avsResponse b true true ma) s = .next (settle t) ∧ avsQ t b = [] ∧ t.gh.avsFail = 0 ∧
      t.gh.mv = s.gh.mv.set op.rail op.target ∧ t.gh.ma = s.gh.ma.set op.rail (min ma 65535)) ∧
  (∀ (b : Fin 2) (s : State) (op : AvsOp) (rest : List AvsOp) (ma : Nat), avsQ s b = op :: rest → op.acked = false →
    op.step ≠ 0 →
    ∃ t, exec (.avsResponse b true false ma) s = .next (settle t) ∧ avsQ t b = { op with acked := true } :: rest ∧
      t.gh = { s.gh with ma := s.gh.ma.set op.rail (min ma 65535) }) ∧
  (∀ (b : Fin 2) (s : State) (op : AvsOp) (rest : List AvsOp), avsQ s b = op :: rest →
    (op.acked = true → exec (.avsStatusPoll b) s = .next (settle (emit (.avsStatus b) s))) ∧
    (op.acked = false → (op.why = .ctl ∨ op.why = .firmware) →
      ∃ t, exec (.avsAckTimeout b) s = .next (settle (popAvs b (record 3 8 2 .none (leN 1 1 ++ leN 1 op.rail) t))) ∧
        t = { s with gh := { s.gh with avsFail := 1 } }) ∧
    (op.acked = true → (op.why = .ctl ∨ op.why = .firmware) →
      ∃ t, exec (.avsVdoneTimeout b) s = .next (settle (popAvs b (record 3 8 2 .none (leN 1 2 ++ leN 1 op.rail) t))) ∧
        t = { s with gh := { s.gh with avsFail := 2 } })) ∧
  (∀ (k : Fin 6) (s : State), mvOf s (if k.val = 0 then 0 else if k.val = 5 then 2 else 1) ≠ 0 →
    exec (.pllLock k) s =
      .next (settle (pllsDone { s with ghx := { s.ghx with pllLocked := setBit s.ghx.pllLocked k true } }))) ∧
  (∀ (k : Fin 6) (s : State), mvOf s (if k.val = 0 then 0 else if k.val = 5 then 2 else 1) = 0 →
    exec (.pllLock k) s = .next (settle s)) ∧
  (∀ (k : Fin 6) (s : State) (fw : Bool) (n : Nat), (s.ghx.trans = .wake fw .plls n ∨
      (s.ghx.trans = .wake fw .pll0 n ∧ k = 0)) → s.ghx.pllLocked.getLsbD k = false →
    exec (.pllLockTimeout k) s = .next (settle (wakeFail 3 k s))) ∧
  (∀ (s : State) (fw : Bool) (n : Nat), s.ghx.trans = .wake fw .retryWait n →
    exec .wakeRetryWaitEnd s = .next (settle (railsDone (wakeRails fw n s))))

/-- R402, R403, R416, R422, R435, R444, R477, R482, Tables 14.13, 15.9 and 17.12: WARM_RESET, with the Lodge powered and no
compaction, sets its cause, clears the mailboxes and starts the boot ROM, and otherwise only sets its cause.
HEAD_RESET_DELAY_END resets for a HEAD_RESET that is due. POWER_ON_RESET clears the head, counts its power cycle, sets its
cause, samples the straps, locks sequence number and operating time, and leaves the head fenced as the pin says and Dormant,
from which with PWR_FAIL_N high it wakes; PWRON_RST_N_FALL clears it and keeps the power-cycle count, the fuses and the log.
BOOT_COMPLETE of a good body after power-on leads to Serve; a bad body leads to the other slot, or once both have failed to
Dormant with FAULT_N low. SLOT_CONFIRM of a paired or lone head confirms the running slot and clears its attempts, and with
the commit flag raises the fuse count to the lower security version of the two slots. -/
def Obligations.ResetsAndBoot : Prop :=
  (∀ (s : State), s.jrn.compacting = false → lodgePowered s = true →
    ∃ (t : State) (b : BootFor), exec .warmReset s = .next (settle (bootStart { t with ghx := { t.ghx with boot := b } })) ∧
      t.gh.rstWarm = true ∧ t.gh.pwrCycle = s.gh.pwrCycle ∧ t.sec.fuseCount = s.sec.fuseCount ∧ t.kiosk.mbx = []) ∧
  (∀ (s : State), (s.jrn.compacting = true ∨ lodgePowered s = false) →
    exec .warmReset s = .next (settle { s with gh := { s.gh with rstWarm := true } })) ∧
  (∀ (s : State), s.ghx.pendingReset = true → jobRuns s 0x0104 = false →
    ∃ t, exec .headResetDelayEnd s = .next (settle (warmReset t)) ∧ t.gh = { s.gh with rstHead := true } ∧
      t.ghx.pendingReset = false ∧ t.kiosk = s.kiosk) ∧
  (∀ (straps : BitVec 4) (board : RecordRead) (s : State),
    ∃ t, exec (.powerOnReset straps board) s = .next (settle (if s.ghx.pwrFail = true then t else iceLeave t)) ∧
      t.gh.pwrCycle = satAdd 24 s.gh.pwrCycle 1 ∧ t.gh.rstPwron = true ∧ t.gh.rstStrap = straps.getLsbD 3 ∧
      t.ghx.strap = straps ∧ t.gh.optLock = true ∧ t.evt.lock = true ∧ t.gh.state = .dormant ∧
      t.pair.fenced = s.ghx.fenceIn ∧ t.sec.fuseCount = s.sec.fuseCount) ∧
  (∀ (s : State), ∃ t, exec .pwronRstNFall s = .next (settle t) ∧ t.gh = { pwrCycle := s.gh.pwrCycle } ∧ t.dram = {} ∧
    t.lat = {} ∧ t.pair.fenced = false ∧ t.sec.fuseCount = s.sec.fuseCount ∧ t.evt.log = s.evt.log) ∧
  (∀ (s : State) (n : Nat), s.ghx.boot = .powerOn → s.ghx.trans = .wake false .boot n → s.gh.rstStrap = false →
    (bootSlot s s.sec.running).bodyOk = true →
    ∃ t, exec (.bootComplete true) s = .next (settle (record 1 5 0 .none [] t)) ∧ t.gh.state = .serve ∧
      t.gh.faultLow = false) ∧
  (∀ (s : State) (n : Nat) (ok : Bool), s.ghx.boot = .powerOn → s.ghx.trans = .wake false .boot n → s.gh.rstStrap = false →
    (ok && (bootSlot s s.sec.running).bodyOk) = false →
    exec (.bootComplete ok) s =
      .next (settle (if s.sec.triedOther = true then bootFails s else bootFrom (1 - s.sec.running) true s))) ∧
  (∀ (s : State), s.kiosk.lodgeReady = true → (s.pair.state = 3 ∨ s.pair.state = 4) →
    ∃ t, exec .slotConfirm s = .next (settle t) ∧ (bootSlot t s.sec.running).confirmed = true ∧
      (bootSlot t s.sec.running).attempts = 0 ∧
      ((bootSlot s s.sec.running).commit = false → t.sec.fuseCount = s.sec.fuseCount) ∧
      ((bootSlot s s.sec.running).commit = true → s.sec.fuseCount ≤ 64 → t.sec.fuseCount =
        max s.sec.fuseCount (min 64 (min (bootSlot s 0).security (bootSlot s 1).security))))

/-- R86, R87, R88, R91, R408, R409, R410, R426, Tables 3.8, 3.10 and 15.7: PWR_FAIL_FALL in Serve at rest stops committing and
begins the compaction, in Watch takes the rails down with an empty keep header, and in compaction, Icehouse or Dormant at rest
only notes the pin. COMPACTION_COPY_DONE writes the keep area and enters Icehouse, and leaves it at once where PWR_FAIL_N has
risen. PWR_FAIL_RISE in Icehouse brings the rails up; in Serve it notes the pin. KEEP_OK_FALL is latched in compaction and in
Icehouse. RESTART_PEER_WAIT_EXPIRY with a valid keep area goes on alone, and otherwise only records; RESTART_REPLAY_DONE ends
the restart in serving, with a new epoch and content serials past the checkpoint's mark. -/
def Obligations.PowerFailAndRestart : Prop :=
  (∀ (s : State), s.jrn.compacting = false → s.gh.state = .serve → s.ghx.boot = .none → s.ghx.trans = .none →
    s.jrn.restart = .none →
    ∃ t, exec .pwrFailFall s = .next (settle t) ∧ t.ghx = { s.ghx with pwrFail := true } ∧ t.jrn.compacting = true ∧
      t.jrn.stopped = true ∧ t.jrn.own = s.jrn.own ∧ t.jrn.mirror = s.jrn.mirror ∧ t.pair.takeover = 0 ∧
      t = { s with ghx := t.ghx, jrn := t.jrn, pair := t.pair }) ∧
  (∀ (s : State), s.jrn.compacting = false → s.gh.state = .watch → s.ghx.boot = .none → s.ghx.trans = .none →
    s.jrn.restart = .none →
    exec .pwrFailFall s = .next (settle (darkNoWork { s with ghx := { s.ghx with pwrFail := true } }))) ∧
  (∀ (s : State), (s.jrn.compacting = true ∨ s.gh.state = .icehouse ∨
      (s.gh.state = .dormant ∧ s.ghx.boot = .none ∧ s.ghx.trans = .none ∧ s.jrn.restart = .none)) →
    exec .pwrFailFall s = .next (settle { s with ghx := { s.ghx with pwrFail := true } })) ∧
  (∀ (s : State), s.jrn.compacting = true →
    ∃ t, exec .compactionCopyDone s = .next (settle (if s.ghx.pwrFail = true then t else iceLeave t)) ∧
      t.gh.state = .icehouse ∧ t.jrn.keep = some (keepNow s) ∧ t.ghx.boot = .icehouse) ∧
  (∀ (s : State), s.gh.state = .icehouse → ∃ t, exec .pwrFailRise s = .next (settle (railsDone (wakeRails false 0 t))) ∧
    t.ghx = { s.ghx with pwrFail := false, keepOk := true } ∧ t.gh = { s.gh with failedAttempts := 0 } ∧
    t = { s with gh := t.gh, ghx := t.ghx }) ∧
  (∀ (s : State), s.gh.state = .serve →
    exec .pwrFailRise s = .next (settle { s with ghx := { s.ghx with pwrFail := false, keepOk := true } })) ∧
  (∀ (s : State), (s.jrn.compacting = true ∨ s.gh.state = .icehouse) → exec .keepOkFall s = .next (settle { s with
    ghx := { s.ghx with keepOk := false }
    gh := { s.gh with keepFell := true } })) ∧
  (∀ (s : State), s.gh.state ≠ .icehouse → s.jrn.compacting = false →
    exec .keepOkFall s = .next (settle { s with ghx := { s.ghx with keepOk := false } })) ∧
  (∀ (s : State), s.jrn.restart = .peerWait true → ∃ t, exec .restartPeerWaitExpiry s =
      .next (settle (record 3 8 3 .none [] t)) ∧ t.jrn.restart = .replay ∧ t.pair.state = 4 ∧ t.pair.paired = true ∧
      t.ghx.fenceOut = (s.ghx.fenceOut || !s.ghx.fenceIn)) ∧
  (∀ (s : State), s.jrn.restart = .peerWait false →
    exec .restartPeerWaitExpiry s = .next (settle (record 3 8 3 .none [] s))) ∧
  (∀ (s : State), s.jrn.restart = .replay →
    ∃ t, exec .restartReplayDone s = .next (settle (remirror (restoreHolds t))) ∧
    t.jrn.restart = .none ∧ t.jrn.serving = true ∧ t.jrn.stopped = false ∧ t.jrn.keep = none ∧ t.jrn.epoch.step = 0 ∧
    (s.pair.state ≠ 4 → s.jrn.epoch.number < t.jrn.epoch.number) ∧ t.gh.keepFell = false ∧
    t.map.serial = t.map.ckpt.serialHigh + 2 ^ 32)

/-- R97 to R101, R103, R116, R477: Footbridge messages and ports. A new HELLO begins the reception anew, is receipted and
answered, and goes on to the checks of a pairing; one that repeats is receipted. A counted HEARTBEAT makes the message path
live and its port up, with an event, and any other is ignored. MIRROR and RESYNC write their records in the mirror region and
are receipted, a receipted one again, and on a restarting head RESYNC gives back the own region; a head that takes no mirror
traffic ignores MIRROR. RECEIPT frees the MIRROR message it covers and marks its records, unless this head has declared loss.
SNAK and FOOTBRIDGE_RESEND_TIMER send byte ranges again, cut to the message; a SNAK of port sequence numbers those of one port
and class. FOOTBRIDGE_SEGMENT in order moves the expected number and is placed; one with a bad check is dropped.
FOOTBRIDGE_GAP_TIMER asks for the missing ranges. FOOTBRIDGE_PORT_DOWN takes a port down with an event, and the last one acts
by Table 4.5. PCS_ALIGNMENT_CHANGE sets the alignment of a wired port. HEARTBEAT_SEND_TIMER counts one HEARTBEAT for each
aligned port. HB_KICK, HB_PIN_TOGGLE and PEER_HB_IN_EDGE move the pins' bits. -/
def Obligations.FootbridgeMessagesAndPorts : Prop :=
  (∀ (m : HelloMsg) (s : State), s.pair.hello ≠ some m →
    ∃ t, exec (.hello m) s = .next (settle (tryJoin (tryPair (sendHello (sendReceipt t))))) ∧ t.pair.hello = some m ∧
      t.pair.peerSerial = m.serial ∧ t.pair.peerGen = m.generation ∧ t.pair.helloWaits = true ∧ t.pair.joining = none ∧
      t.ftb = { s.ftb with rxCum := m.firstMsgId, rxAbove := [], rx := [], hbRx := 0 } ∧
      t = { s with pair := t.pair, ftb := t.ftb }) ∧
  (∀ (m : HelloMsg) (s : State), s.pair.hello = some m → m.serial = s.pair.peerSerial → m.generation = s.pair.peerGen →
    exec (.hello m) s = .next (settle (tryJoin (tryPair (sendReceipt s))))) ∧
  (∀ (n : Fin 4) (m : HbMsg) (s u : State), s.ftb.hbRx < m.counter → (fportOf s n).aligned = true →
    m.recordGen ≤ s.pair.arr.gen → u = { s with
      ftb := { s.ftb with
        hbRx := m.counter
        peerHb := some m }
      pair := { s.pair with
        msgLive := true
        msgHeld := false
        peerGen := m.generation
        genHeard := max s.pair.genHeard m.recordGen } } →
    ((fportOf s n).up = true →
      exec (.heartbeat n m) s = .next (settle (tryJoin (tryPair (returnCheck m u))))) ∧
    ((fportOf s n).up = false → s.pair.paired = true →
      exec (.heartbeat n m) s = .next (settle (tryJoin (tryPair (returnCheck m
        (record 0x0B 5 0 .none (leN 1 n ++ leN 1 1) (setFport n { fportOf s n with up := true } u)))))))) ∧
  (∀ (n : Fin 4) (m : HbMsg) (s : State), (m.counter ≤ s.ftb.hbRx ∨ (fportOf s n).aligned = false) →
    exec (.heartbeat n m) s = .next (settle s)) ∧
  (∀ (id : Nat) (recs : List JRec) (s : State), receipted s id = false →
    (takesMirror s = true →
      exec (.mirror id recs) s = .next (settle (giveReceipt id (mirrorRequests recs (writeMirror recs s))))) ∧
    (takesMirror s = false → exec (.mirror id recs) s = .next (settle s)) ∧
    (s.jrn.restart = .none →
      exec (.resync id recs) s = .next (settle (giveReceipt id (mirrorRequests recs (writeMirror recs s)))))) ∧
  (∀ (r : JRec) (s : State) (v c : Nat) (e p : Bytes), r.body = .chunk v c e p →
    s.jrn.mirror.any (fun x => decide (x = r)) = false → writeMirror [r] s = { s with jrn := { s.jrn with
      mirror := s.jrn.mirror.filter (fun x => decide (x.off + recSize x ≤ r.off ∨ r.off + recSize r ≤ x.off)) ++ [r]
      mirrorLost := s.jrn.mirrorLost.filter (fun o => decide (o ≠ r.off)) } }) ∧
  (∀ (id : Nat) (recs : List JRec) (s : State), receipted s id = true →
    exec (.mirror id recs) s = .next (settle (sendReceipt s)) ∧ exec (.resync id recs) s = .next (settle (sendReceipt s))) ∧
  (∀ (id : Nat) (r : JRec) (s : State), receipted s id = false → s.jrn.restart ≠ .none → s.jrn.own = [] →
    exec (.resync id [r]) s = .next (settle (giveReceipt id { s with jrn := { s.jrn with
      own := [{ r := asReplayed r, acked := true, receipted := true }] } }))) ∧
  (∀ (id cum : Nat) (m : FMsg) (s : State), s.ftb.sent = [(id, m)] → id ≤ cum → m.type = 3 → s.pair.taking = none →
    s.pair.lossB = false →
    ∃ t, exec (.receipt cum []) s = .next (settle t) ∧ t.ftb.sent = [] ∧
      (∀ r ∈ t.jrn.own, r.r.off ∈ m.offs → r.receipted = true) ∧ t.jrn.own.map (·.r) = s.jrn.own.map (·.r)) ∧
  (∀ (cum : Nat) (ranges : List (Nat × Nat)) (s : State), s.pair.lossB = true →
    exec (.receipt cum ranges) s = .next (settle s)) ∧
  (∀ (pc : Fin 4 × Fin 2) (id first last : Nat) (m : FMsg) (s : State), tget s.ftb.sent id = some m → upPorts s ≠ [] →
    (first < m.len → ∃ t segs, exec (.snak pc first last (some id)) s = .next (settle t) ∧
      tget t.ftb.sent id = some { m with segs := m.segs ++ segs } ∧
      t.out = s.out ++ (.ftb (.resend id [(first, min (last + 1 - first) (m.len - first))]) ::
        segs.map (fun g => .ftbFrame g.1 (ftbFrame m.type id m.len (ftbPayload m.body) g)))) ∧
    (0 < m.len → ∃ t segs, exec (.footbridgeResendTimer id) s = .next (settle t) ∧
      tget t.ftb.sent id = some { m with segs := m.segs ++ segs } ∧
      t.out = s.out ++ (.ftb (.resend id [(0, m.len)]) ::
        segs.map (fun g => .ftbFrame g.1 (ftbFrame m.type id m.len (ftbPayload m.body) g))))) ∧
  (∀ (port : Fin 4) (cls : Fin 2) (id first last : Nat) (m : FMsg) (s : State), s.ftb.sent = [(id, m)] →
    exec (.snak (port, cls) first last none) s = .next (settle (resendRanges id
      ((m.segs.filter (fun g => decide (g.1 = port.val ∧ g.2.1 = cls.val ∧ ahead 32 first g.2.2.1 ≤ ahead 32 first last))).map
        (fun g => (g.2.2.2.1, g.2.2.2.2))) s))) ∧
  (∀ (port : Fin 4) (seq id off len : Nat) (total : Option Nat) (s : State), receipted s id = false →
    (fportOf s port).rxMir = seq → seq < 2 ^ 32 → tget s.ftb.rx id = none →
    ∃ t, exec (.footbridgeSegment port 1 seq id 3 off len total true) s = .next (settle t) ∧
      (fportOf t port) = { fportOf s port with rxMir := (seq + 1) % 2 ^ 32 } ∧
      tget t.ftb.rx id = some { type := 3, placed := [(off, len)], total := total } ∧ t.out = s.out) ∧
  (∀ (port : Fin 4) (cls : Fin 2) (seq id type off len : Nat) (total : Option Nat) (s : State),
    exec (.footbridgeSegment port cls seq id type off len total false) s = .next (settle s)) ∧
  (∀ (id : Nat) (x : FRx) (s : State), tget s.ftb.rx id = some x → missing x.placed (x.total.getD 16777216) ≠ [] →
    exec (.footbridgeGapTimer id) s =
      .next (settle (ftbControl (.snakBytes id (missing x.placed (x.total.getD 16777216))) s))) ∧
  (∀ (n : Fin 4) (s : State) (p : FPort), fportOf s n = p → p.up = true → s.ftb.sent = [] →
    ∃ t u, exec (.footbridgePortDown n) s = .next (settle (if noPortUp u then pathAction (abortFailback u) else u)) ∧
      u = record 0x0B 5 2 .none (leN 1 n ++ leN 1 0) t ∧
      fportOf t n = { p with up := false } ∧ t.ftb.downs = satAdd 16 s.ftb.downs 1 ∧ t = { s with ftb := t.ftb }) ∧
  (∀ (n : Fin 4) (s : State), (s.ghx.board.map (fun b => b.ftbWired.getLsbD n)).getD false = true → asleep s = false →
    exec (.pcsAlignmentChange n true) s = .next (settle (setFport n { fportOf s n with aligned := true } s))) ∧
  (∀ (n : Fin 4) (s : State), (fportOf s n).up = false → s.pair.msgHeld = false →
    exec (.pcsAlignmentChange n false) s = .next (settle (setFport n { fportOf s n with aligned := false } s))) ∧
  (∀ (s : State), ∃ t, exec .heartbeatSendTimer s = .next (settle t) ∧
    t.ftb.hbTx = s.ftb.hbTx + ((List.range 4).filter (fun n => (fportOf s n).aligned)).length ∧ t.jrn = s.jrn) ∧
  (∀ (s : State), (fportOf s 0).aligned = true → (∀ n, 1 ≤ n → n < 4 → (fportOf s n).aligned = false) →
    ∃ t f, exec .heartbeatSendTimer s = .next (settle t) ∧ t.ftb.hbTx = s.ftb.hbTx + 1 ∧
      t.ftb.nextId = s.ftb.nextId + 1 ∧
      t.out = s.out ++ [.ftb (.heartbeat 0 (myHb s (s.ftb.hbTx + 1))), .ftbFrame 0 f]) ∧
  (∀ (s : State), exec .hbKick s = .next (settle { s with ghx := { s.ghx with kicks := 2 } })) ∧
  (∀ (s : State), s.ghx.kicks ≠ 0 → asleep s = false → exec .hbPinToggle s = .next (settle { s with ghx := { s.ghx with
    hbOut := !s.ghx.hbOut
    kicks := s.ghx.kicks - 1 } })) ∧
  (∀ (s : State), (s.ghx.kicks = 0 ∨ asleep s = true) → exec .hbPinToggle s = .next (settle s)) ∧
  (∀ (s : State), exec .peerHbInEdge s = .next (settle { s with
    pair := { s.pair with pinLive := true }
    ghx := { s.ghx with
      peerHb := true
      hbSeen := true } }))

/-- R104, R108 to R111, R117, R118, R201, Tables 4.5 and 4.6: PIN_PATH_SILENT records an event while a port is up, and
otherwise acts by Table 4.5, under which role A fences at once and role B declares loss; MESSAGE_PATH_SILENT takes every port
down. PARTIAL_SILENCE_TIMEOUT has role A fence; ROLE_B_FENCE_DELAY has role B fence while it may declare loss. Fencing drives
the fence, runs alone and stops mirroring. FENCE_IN_FALL fences this head: it stops, owns nothing and has no command left; a
head that is fenced, or role A with its own fence low, only notes the pin. FENCE_IN_RISE notes it, with an event on a fenced
head. TAKEOVER_SLED_WAIT_END reconciles the mirror region; TAKEOVER_MAP_LOADED makes every volume and replay table this head's
and moves the content serial past the checkpoint's mark. -/
def Obligations.LossFenceAndTakeover : Prop :=
  (∀ (s u : State), u = { s with
      pair := { s.pair with pinLive := false }
      ghx := { s.ghx with peerHb := false } } →
    (noPortUp s = false → s.pair.paired = true →
      exec .pinPathSilent s = .next (settle (peerHbWake (record 0x0B 5 2 .none [] u)))) ∧
    (noPortUp s = true → exec .pinPathSilent s = .next (settle (peerHbWake (pathAction u))))) ∧
  (∀ (s : State), ∃ t, exec .messagePathSilent s = .next (settle { t with pair := { t.pair with msgLive := false } }) ∧
    t = (upPorts s).foldl (fun s n => portDown n s) s) ∧
  (∀ (s : State), noPortUp s = true → mayDeclare s = true → s.pair.pinLive = false → roleOf s = .a →
    pathAction s = fencePeer s) ∧
  (∀ (s : State), noPortUp s = true → mayDeclare s = true → s.pair.pinLive = false → roleOf s = .b →
    pathAction s = { s with pair := { s.pair with lossB := true } }) ∧
  (∀ (s : State), s.pair.msgHeld = true → noPortUp s = true → s.pair.pinLive = true → mayDeclare s = true →
    (roleOf s = .a → exec .partialSilenceTimeout s = .next (settle (fencePeer s))) ∧
    (roleOf s = .b → exec .partialSilenceTimeout s = .next (settle s))) ∧
  (∀ (s : State), s.pair.lossB = true → mayDeclare s = true →
    exec .roleBFenceDelay s = .next (settle (fencePeer s))) ∧
  (∀ (s : State), mayDeclare s = false →
    exec .roleBFenceDelay s = .next (settle { s with pair := { s.pair with lossB := false } })) ∧
  (∀ (s : State), s.ghx.fenceIn = false → s.pair.fenced = false → (fencePeer s).ghx.fenceOut = true ∧
    (fencePeer s).pair.state = 4 ∧ (fencePeer s).plc.alone = true ∧ (fencePeer s).ftb.waiting = [] ∧
    (fencePeer s).pair.handover = none) ∧
  (∀ (s : State), s.pair.fenced = false → (s.ghx.fenceOut = false ∨ roleOf s = .b) → s.ghx.trans = .none →
    s.pair.handover = none →
    ∃ t, exec .fenceInFall s = .next (settle t) ∧ t.pair.fenced = true ∧ t.pair.state = 5 ∧ t.ghx.fenceIn = true ∧
      t.ghx.fenceOut = false ∧ t.jrn.cmds = [] ∧ t.pair.owned = ownNone s ∧ t.pair.filled = false) ∧
  (∀ (s : State), s.pair.fenced = true → exec .fenceInRise s = .next (settle (record 0x0B 5 1 .none []
    { s with ghx := { s.ghx with fenceIn := false } }))) ∧
  (∀ (s : State), (s.pair.fenced = true ∨ (s.ghx.fenceOut = true ∧ roleOf s = .a)) →
    exec .fenceInFall s = .next (settle { s with ghx := { s.ghx with fenceIn := true } })) ∧
  (∀ (s : State), s.pair.fenced = false →
    exec .fenceInRise s = .next (settle { s with ghx := { s.ghx with fenceIn := false } })) ∧
  (∀ (s : State), s.pair.takeover = 4 → ∃ t, exec .takeoverSledWaitEnd s = .next (settle t) ∧ t.pair.takeover = 6 ∧
    t.jrn.asn = max s.jrn.asn (peerAsnHigh s) ∧ t.jrn.mirrorRun = [] ∧
    (∀ r ∈ t.jrn.mirror, r ∈ s.jrn.mirror)) ∧
  (∀ (s : State), s.pair.takeover = 6 → ∃ t, exec .takeoverMapLoaded s =
      .next (settle (admitAll (restoreHolds (record 0x0B 5 2 .none [] t)))) ∧ t.pair.takeover = 0 ∧ t.pair.owned = ownAll s ∧
    t.map.serial = s.map.ckpt.serialHigh + 2 ^ 32 ∧ t.jrn.mirrorTables = [] ∧
    t.jrn.tables = s.jrn.mirrorTables.foldl (fun t e => tset t e.1 e.2) s.jrn.tables)

/-- R113 to R117, R119, R487, Tables 4.8 and 4.9: HANDOVER messages to a head of a whole pair: "relinquish" begins the taking,
"request fence" fences the giver, "volumes received" passes the volumes; any other head ignores them. HANDOVER_DRAIN_DONE
moves a giving head's handover on, or has a receiving head answer "volumes received". RESYNC_COMPLETE goes to step 4 of Table
4.8; FAILBACK_FENCE_RELEASE, once the peer holds this head's journal, makes the pair whole and releases the fence.
PAIRING_PORT_TIMEOUT ends the PAIR_JOIN that waits for a port; MIGRATION_WINDOW_EXPIRY closes the window, and fences a peer of
another generation. ARRAY_RECORD_READ_DONE replaces the record with one that is not older, loads its domains' keys and lets a
waiting pairing complete. -/
def Obligations.HandoverFailbackAndPairing : Prop :=
  (∀ (vols : List Nat) (s : State), s.pair.fenced = false → s.pair.state = 3 →
    exec (.handover (.relinquish vols)) s = .next (settle { receiptFor 6 s with
      pair := { (receiptFor 6 s).pair with taking := some (vols, 0) } }) ∧
    exec (.handover .requestFence) s = .next (settle (fencePeer (receiptFor 6 s))) ∧
    exec (.handover (.volumesReceived vols)) s = .next (settle (volumesGone vols (receiptFor 6 s)))) ∧
  (∀ (m : HandoverMsg) (s : State), (s.pair.fenced = true ∨ s.pair.state ≠ 3) →
    exec (.handover m) s = .next (settle s)) ∧
  (∀ (s : State) (h : Handover), s.pair.handover = some h → h.step = 1 → s.jrn.epoch.step = 0 →
    volsReleased s h.volumes = true → s.pair.taking = none →
    exec .handoverDrainDone s = .next (settle { s with pair := { s.pair with handover := some { h with step := 2 } } })) ∧
  (∀ (s : State) (vols : List Nat), s.pair.handover = none → s.pair.taking = some (vols, 0) → mirrorHolds s vols = false →
    ∃ t, exec .handoverDrainDone s = .next (settle { t with pair := { t.pair with taking := some (vols, s.ftb.nextId) } }) ∧
      t = (sendHandover (.volumesReceived vols) s).2 ∧ t.ftb.nextId = s.ftb.nextId + 1) ∧
  (∀ (s : State), s.pair.state = 2 → s.pair.failStep = 2 → s.pair.resyncs = [] →
    ∃ t, exec .resyncComplete s = .next (settle t) ∧ t.pair.failStep = 4) ∧
  (∀ (s : State), s.pair.state = 2 → s.pair.failStep = 2 → s.pair.resyncs = [] → s.plc.open_ = [] →
    exec .resyncComplete s = .next (settle { s with pair := { s.pair with failStep := 4 } })) ∧
  (∀ (s : State), s.pair.state = 2 → s.pair.failStep = 4 → peerHolds s = true →
    ∃ t, exec .failbackFenceRelease s = .next (settle t) ∧ t.pair.state = 3 ∧ t.pair.filled = true ∧
      t.pair.failStep = (if (failbackVols s).1 = [] then 0 else 7) ∧ t.ghx.fenceOut = false ∧ t.plc.alone = false) ∧
  (∀ (s : State), peerHolds s = false → exec .failbackFenceRelease s = .next (settle s)) ∧
  (∀ (s : State) (k mode : Nat), s.pair.job = some (k, mode) → noPortUp s = true →
    exec .pairingPortTimeout s = .next (settle (finishJob k .peerAbsent [] { s with pair := { s.pair with
      job := none
      joinReq := none
      autoFail := false } }))) ∧
  (∀ (s : State) (w : Bytes × Nat), s.pair.window = some w → (s.pair.peerGen = 1 ∨ s.pair.peerGen = 0 ∨ s.pair.state ≠ 3) →
    exec .migrationWindowExpiry s = .next (settle { s with pair := { s.pair with window := none } })) ∧
  (∀ (s : State) (w : Bytes × Nat), s.pair.window = some w → s.pair.peerGen ≠ 1 → s.pair.peerGen ≠ 0 → s.pair.state = 3 →
    exec .migrationWindowExpiry s =
      .next (settle (fencePeer (record 0x0B 8 3 .none [] { s with pair := { s.pair with window := none } })))) ∧
  (∀ (r : ArrayRec) (s : State), s.pair.arr.gen ≤ r.gen →
    ∃ u, exec (.arrayRecordReadDone r) s = .next (settle (endJoin (dropDomains (loadDomains (arrayRead r u))))) ∧
      u = (if s.pair.paired = true then (tkeys s.pair.arr.domains).foldl (fun s d => holdSwitches d s) s else s)) ∧
  (∀ (r : ArrayRec) (s : State), s.pair.arr.gen ≤ r.gen → s.pair.arr.rels = [] →
    (arrayRead r s).pair.arr = r ∧ (arrayRead r s).sec.norArray = some r ∧
    (arrayRead r s).pair.role = roleFrom r s.pair.role) ∧
  (∀ (r : ArrayRec) (s : State), r.gen < s.pair.arr.gen →
    exec (.arrayRecordReadDone r) s =
      .next (settle { s with pair := { s.pair with reading := s.pair.joining.isSome } }))

/-- R323, R324, R328, R329, R330: REPLICATION_MESSAGE stores the next message of the batch, answers one of a batch applied
SUCCESS, one with a bad check INTEGRITY, one for volumes not owned NOT_OWNER and one of no relationship NOT_FOUND;
REPLICATION_PROBE is answered with what is durable and applied. REPLICATION_COMPLETION moves the source on: to the next
messages, to the end of the batch, from a probe to what is missing, or on NOT_OWNER to the other head. REPLICATION_LINK_REPLY
gives the link, and a reopened one with a batch in flight probes first; a refusal tries again. -/
def Obligations.ReplicationMessages : Prop :=
  (∀ (n : Fin 16384) (tag : Fin 32) (m : ReplMsg) (r : ReplRec) (v : RelRun) (s : State),
    tget s.pair.arr.rels m.relationship = some r → r.source = false → (qpOf s n).st = .open_ → (qpOf s n).pd = r.pd →
    servesRel s r = true → m.checkOk = true → relOf s m.relationship = v → m.batch = v.batch → m.batch ≠ v.applied →
    m.msgNo = v.durable + 1 → v.storing = none → v.endWait = none →
    exec (.replicationMessage n tag m) s = .next (settle (beginMsg m.relationship n tag m
      (setRel m.relationship { v with bytes := v.bytes + sumBy recBytes m.records } s)))) ∧
  (∀ (n : Fin 16384) (tag : Fin 32) (m : ReplMsg) (r : ReplRec) (s : State),
    tget s.pair.arr.rels m.relationship = some r → r.source = false → (qpOf s n).st = .open_ → (qpOf s n).pd = r.pd →
    (servesRel s r = false → exec (.replicationMessage n tag m) s =
      .next (settle (replAnswer m.relationship n tag m.msgNo .notOwner s))) ∧
    (servesRel s r = true → m.checkOk = false → exec (.replicationMessage n tag m) s =
      .next (settle (replAnswer m.relationship n tag m.msgNo .integrity s))) ∧
    (servesRel s r = true → m.checkOk = true → m.batch = (relOf s m.relationship).applied →
      (relOf s m.relationship).endWait = none → exec (.replicationMessage n tag m) s =
        .next (settle (replAnswer m.relationship n tag m.msgNo .success s)))) ∧
  (∀ (n : Fin 16384) (tag : Fin 32) (m : ReplMsg) (s : State), tget s.pair.arr.rels m.relationship = none →
    exec (.replicationMessage n tag m) s = .next (settle (replReply n tag m.msgNo .notFound 0 0 s))) ∧
  (∀ (n : Fin 16384) (tag : Fin 32) (rn batch : Nat) (r : ReplRec) (s : State), tget s.pair.arr.rels rn = some r →
    r.source = false → (qpOf s n).st = .open_ → servesRel s r = true →
    ∃ image, exec (.replicationProbe n tag rn batch) s = .next (settle (emit (.replAnswer n tag .success
      (if batch = (relOf s rn).batch then (relOf s rn).durable else 0) (relOf s rn).applied image) s))) ∧
  (∀ (n : Fin 16384) (tag : Fin 32) (rn batch : Nat) (s : State), tget s.pair.arr.rels rn = none →
    exec (.replicationProbe n tag rn batch) s = .next (settle (replReply n tag 0 .notFound 0 0 s))) ∧
  (∀ (rn no durable applied : Nat) (r : ReplRec) (v : RelRun) (s : State), tget s.pair.arr.rels rn = some r →
    r.source = true → relOf s rn = v → v.batch ≠ 0 → v.todo ≠ [] →
    exec (.replicationCompletion rn no .success durable applied false) s =
      .next (settle (sendMsgs rn (setRel rn { v with durable := max v.durable durable } s)))) ∧
  (∀ (rn no durable applied : Nat) (r : ReplRec) (v : RelRun) (s : State), tget s.pair.arr.rels rn = some r →
    r.source = true → relOf s rn = v → v.batch ≠ 0 →
    (v.todo = [] → v.recs = [] → no + 1 = v.nextMsg →
      exec (.replicationCompletion rn no .success durable applied false) s =
        .next (settle (batchApplied_ rn r (setRel rn { v with durable := max v.durable durable } s)))) ∧
    (∀ probe, exec (.replicationCompletion rn no .notOwner durable applied probe) s = .next (settle (openLink rn
      (setRel rn { v with
        tryB := !v.tryB
        reopens := satAdd 32 v.reopens 1 } s)))) ∧
    (applied ≠ v.batch % 2 ^ 32 → exec (.replicationCompletion rn no .success durable applied true) s =
      .next (settle (sendMsgs rn (setRel rn { v with
        durable := durable
        sent := durable
        state := 1 } s))))) ∧
  (∀ (rn : Nat) (n : Fin 16384) (r : ReplRec) (v : RelRun) (s : State), tget s.pair.arr.rels rn = some r →
    r.source = true → relOf s rn = v → v.state = 2 → v.batch = 0 →
    exec (.replicationLinkReply rn .success n) s =
      .next (settle (sendMsgs rn (setRel rn { v with linked := some n, state := 0 } s)))) ∧
  (∀ (rn : Nat) (n : Fin 16384) (r : ReplRec) (v : RelRun) (s : State), tget s.pair.arr.rels rn = some r →
    r.source = true → relOf s rn = v → v.state = 2 → v.batch ≠ 0 →
    (v.reopens = 0 → exec (.replicationLinkReply rn .success n) s =
      .next (settle (sendMsgs rn (setRel rn { v with linked := some n, state := 1 } s)))) ∧
    (v.reopens ≠ 0 → ∃ image, exec (.replicationLinkReply rn .success n) s =
      .next (settle (emit (.replProbe rn v.batch image) (setRel rn { v with linked := some n, state := 1 } s))))) ∧
  (∀ (rn : Nat) (n : Fin 16384) (st : Status) (r : ReplRec) (v : RelRun) (s : State), tget s.pair.arr.rels rn = some r →
    r.source = true → relOf s rn = v → v.state = 2 → st ≠ .success →
    exec (.replicationLinkReply rn st n) s = .next (settle (openLink rn (setRel rn { v with
      tryB := if st = .notOwner then !v.tryB else v.tryB
      reopens := satAdd 32 v.reopens 1 } s))))

/-- R30, R212, R217 to R220, R244, Table 8.3: SHELF_WAKE_GRANT grants the wake of a shelf that is due or a home shelf; a wake
whose charge fits asserts the request with its caps and counts. SHF_PWR_GOOD_RISE powers the port group of a waking shelf.
SHELF_WAKE_TIMEOUT: without power good the wake fails, and after 6 s 28 usable links or more make the shelf AWAKE and fewer
fail the wake. SHF_PWR_GOOD_FALL of an awake shelf counts as a failed wake and calls for a hardening pass; on any other, or in
compaction, only the pin is noted. SHELF_WAKE_RETRY, SHELF_REQUEST_HOLDOFF_END and SHELF_HOURLY_RETRY try the grant again.
MIN_AWAKE_EXPIRY and IDLE_CLOSE_EXPIRY begin to close a shelf that may close. SHELF_CLOSE_COMPLETE releases the shelf and
starts the hold-off, unless a command waits on it, or after a hardening pass makes it AWAKE. SHELF_HOLD_EXPIRY ends the forced
hold; METER_WINDOW meters anew. -/
def Obligations.ShelfWakesAndCloses : Prop :=
  (∀ (g : Fin 32) (s : State),
    ((wakeDue s g = true ∨ isHome s g = true) → exec (.shelfWakeGrant g) s = .next (settle (grantWake g s))) ∧
    (wakeDue s g = false → isHome s g = false → exec (.shelfWakeGrant g) s = .next (settle s))) ∧
  (∀ (g : Fin 32) (s : State) (v w : Shelf), shelfOf s g = v → v.st = .off →
    (v.good = true ∨ (v.holdoff = false ∧ v.retryWait = false)) →
    mayRequest s = true → (tget s.sleds.shelfRec g).isSome = true → (overShare s = false ∨ isHome s g = true) → w = { v with
      st := .waking
      req := true
      w := (wakeCaps s g).1
      r := (wakeCaps s g).2
      goodAtReq := v.good
      lastTry := optime s
      lost := [] } →
    (tryShelf g w (adoptRecords g s)).1 = true →
    ∃ t, grantWake g s = (if v.good = true then powerGroup g true t else t) ∧ shelfOf t g = w ∧
      t.plc.wakes = satAdd 16 s.plc.wakes 1 ∧ t.jrn = s.jrn) ∧
  (∀ (g : Fin 32) (s : State) (v : Shelf), shelfOf s g = v →
    (v.st = .waking → v.good = false →
      exec (.shfPwrGoodRise g) s = .next (settle (powerGroup g true (setShelf g { v with good := true } s)))) ∧
    ((v.st ≠ .waking ∨ v.good = true) →
      exec (.shfPwrGoodRise g) s = .next (settle (setShelf g { v with good := true } s)))) ∧
  (∀ (g : Fin 32) (s : State) (v : Shelf), shelfOf s g = v → v.st = .waking → s.jrn.compacting = false →
    (v.good = false → exec (.shelfWakeTimeout g false) s = .next (settle (failWake g s))) ∧
    (v.good = true → exec (.shelfWakeTimeout g false) s = .next (settle s)) ∧
    (28 ≤ linksUsable s g → exec (.shelfWakeTimeout g true) s = .next (settle (becomeAwake g s))) ∧
    (linksUsable s g < 28 → exec (.shelfWakeTimeout g true) s = .next (settle (failWake g s)))) ∧
  (∀ (g : Fin 32) (s : State) (v : Shelf), shelfOf s g = v →
    ((v.st ≠ .awake ∧ v.st ≠ .closing) ∨ s.jrn.compacting = true) →
    exec (.shfPwrGoodFall g) s = .next (settle (setShelf g { v with good := false } s))) ∧
  (∀ (g : Fin 32) (s : State), (shelfOf s g).st = .awake → s.jrn.compacting = false →
    ∃ t, exec (.shfPwrGoodFall g) s = .next (settle t) ∧ (shelfOf t g).hardenFirst = true ∧ (shelfOf t g).good = false ∧
      (shelfOf t g).closeAfter = false ∧ t.plc.wakesFailed = satAdd 16 s.plc.wakesFailed 1) ∧
  (∀ (g : Fin 32) (s : State) (v : Shelf), shelfOf s g = v →
    (v.st = .off → v.retryWait = true → exec (.shelfWakeRetry g) s =
      .next (settle (grantWake g (setShelf g { v with retryWait := false } s)))) ∧
    (v.holdoff = true → wakeDue s g = true →
      exec (.shelfRequestHoldoffEnd g) s = .next (settle (grantWake g (setShelf g { v with holdoff := false } s)))) ∧
    (wakeDue s g = false →
      exec (.shelfRequestHoldoffEnd g) s = .next (settle (setShelf g { v with holdoff := false } s)))) ∧
  (∀ (g : Fin 32) (s : State) (v : Shelf), shelfOf s g = v → v.st = .failed → v.lastTry + 3600 ≤ optime s →
    exec (.shelfHourlyRetry g) s = .next (settle (grantWake g (wantWake g .read 0 (setShelf g { v with
      st := .off
      fails := 2
      holdoff := false } s))))) ∧
  (∀ (g : Fin 32) (s : State) (t : State), t = setShelf g { shelfOf s g with minAwake := false } s →
    (mayClose t g = true → (tvals t.plc.fill).contains g.val = false →
      exec (.minAwakeExpiry g) s = .next (settle (startClose g true t))) ∧
    (mayClose t g = false → exec (.minAwakeExpiry g) s = .next (settle t))) ∧
  (∀ (g : Fin 32) (s : State),
    (mayClose s g = true → exec (.idleCloseExpiry g) s = .next (settle (startClose g true s))) ∧
    (mayClose s g = false → exec (.idleCloseExpiry g) s = .next (settle s))) ∧
  (∀ (g : Fin 32) (s : State) (v : Shelf), shelfOf s g = v → v.st = .closing → unhardened s g = false →
    s.jrn.compacting = false →
    (v.closeAfter = true → waitingOn s g = 0 →
      ∃ t, exec (.shelfCloseComplete g) s = .next (settle (record 4 5 0 (.shelf g) (leN 1 0) t)) ∧
        (shelfOf t g).st = .off ∧ (shelfOf t g).req = false ∧ (shelfOf t g).holdoff = true) ∧
    (v.closeAfter = true → waitingOn s g ≠ 0 → exec (.shelfCloseComplete g) s = .next (settle s)) ∧
    (v.closeAfter = false → exec (.shelfCloseComplete g) s =
      .next (settle (endHoldJob g .success (setShelf g { v with st := .awake } s))))) ∧
  (∀ (g : Fin 32) (s : State), (shelfOf s g).holdS ≠ 0 → exec (.shelfHoldExpiry g) s = .next (settle (endHold g s))) ∧
  (∀ (g : Fin 32) (s : State), exec (.meterWindow g) s = .next (settle (kickShelf g (setShelf g { shelfOf s g with
    meterW := 0
    meterR := 0 } s))))

/-- R19, R222, R224, R236 to R239, R252, R260, R263, R267, R269, Table 9.7: BATCH_WINDOW_END wakes its shelf; URGENCY_STEP
raises an item's urgency to at most 3; SCHEDULE_GRANT grants the one item that waits; CHUNK_PLACE puts a hot chunk on a home
shelf and another on its volume's fill shelf. RECALL_STAGE_DONE sets the hold and decides the RECALL SUCCESS;
RECALL_HOLD_EXPIRY drops an expired hold; RETENTION_DUE enters an inspection. HEAT_FOLD folds the transient counts and
HEAT_HALVING halves them. CHECKPOINT_START writes the image of the map with the location changes it covers, and
CHECKPOINT_COMPLETE makes it the newest. GC_ERASE_WAIT_END erases a band that is moved and unread; READ_DISTURB_FOLD folds a
block's transient reads into its count. -/
def Obligations.PlacementAndBackgroundWork : Prop :=
  (∀ (s : State) (g : Nat), s.plc.batch = [g] → ∃ t, exec .batchWindowEnd s = .next (settle (grantWake g t)) ∧
    t = { s with plc := { s.plc with
      batch := []
      batchOpen := false } }) ∧
  (∀ (n : Nat) (s : State) (i : Item), tget s.plc.items n = some i → i.deadline.isSome = true →
    ∃ t, exec (.urgencyStep n) s = .next (settle t) ∧
      tget t.plc.items n = some { i with urgency := min 3 (i.urgency + 1) } ∧
      (∀ k, k ≠ n → tget t.plc.items k = tget s.plc.items k)) ∧
  (∀ (s : State) (n : Nat) (i : Item), planInspect (planGcWake (planSweep (planWork s))) = s → s.plc.items = [(n, i)] →
    i.granted = false → (i.urgency = 0 ∨ hasItsRoom i (grantRoom i s) = true) →
    (i.work ≠ .wake → (shelfOf s i.shelf).st = .awake →
      exec .scheduleGrant s = .next (settle (grantItem n i (grantRoom i s)))) ∧
    (i.work = .wake → (shelfOf s i.shelf).st = .off → wakeDue s i.shelf = true →
      exec .scheduleGrant s = .next (settle (grantRoom i s)))) ∧
  (∀ (serial vol block h : Nat) (e r : Bytes) (s : State), thas s.plc.placed serial = false → thas s.jrn.drain serial = true →
    s.pair.fenced = false → s.jrn.stopped = false → s.jrn.flashMode = false → journalCopy s serial = some (e, r) →
    journalPlace s serial = some (vol, block) → homeWithRoom s = some h →
    s.plc.policy.hotThreshold ≤ tgetD s.plc.heat (heatKey vol block) 0 →
    homePct s (fun p => !p.transit) < s.plc.policy.homeHotPct →
    exec (.chunkPlace serial) s = .next (settle (drainTo serial h (grainBytes e r) false s))) ∧
  (∀ (serial vol block g : Nat) (e r : Bytes) (s u : State), thas s.plc.placed serial = false →
    thas s.jrn.drain serial = true → s.pair.fenced = false → s.jrn.stopped = false → u.jrn.flashMode = false →
    journalCopy s serial = some (e, r) → journalPlace s serial = some (vol, block) → homeWithRoom s = none →
    fillShelf vol s = (some g, u) → hasRoom u g = true →
    exec (.chunkPlace serial) s = .next (settle (drainTo serial g (grainBytes e r) false u))) ∧
  (∀ (serial : Nat) (s : State), (thas s.jrn.drain serial = false ∨ thas s.plc.placed serial = true) →
    s.jrn.flashMode = false → exec (.chunkPlace serial) s = .next (settle s)) ∧
  (∀ (asn : Nat) (c : Cmd) (s : State), cmdOf s asn = some c → c.stage = .running → c.opcode = 6 → c.pinWake ≠ [] →
    c.staging = true →
    (s.plc.moves.filter (fun e => decide (e.2.why = .recall asn))).all
      (fun e => ((tget s.plc.copies e.1).map (copiesConfirmed s)).getD false) = true →
    ∃ t x, exec (.recallStageDone asn) s = .next (settle t) ∧ cmdOf t asn = some x ∧ x.stage = .decided ∧
      x.status = .success ∧ x.holdId = some s.plc.holdCount ∧ x.pinWake = []) ∧
  (∀ (n : Nat) (h : Hold) (s : State), tget s.plc.holds n = some h → h.expiry ≤ optime s → h.shelves = [] →
    exec (.recallHoldExpiry n) s = .next (settle { s with plc := { s.plc with
        holds := terase s.plc.holds n
        copies := tfilter (fun m _ => !(h.staged.any (fun e => decide (e.2 = m)))) s.plc.copies } })) ∧
  (∀ (n : Nat) (h : Hold) (s : State), tget s.plc.holds n = some h → optime s < h.expiry →
    exec (.recallHoldExpiry n) s = .next (settle s)) ∧
  (∀ (g : Fin 32) (s : State), s.plc.sets.any (fun e => decide (e.2.shelf = g)) = true →
    exec (.retentionDue g) s = .next (settle (planInspect (addItem .background g .inspect (some 0) s)))) ∧
  (∀ (s : State) (k n : Nat), s.plc.heatT = [(k, n)] → ∃ t, exec .heatFold s = .next t ∧
    tgetD t.plc.heat k 0 = heatCode (heatValue (tgetD s.plc.heat k 0) + n) ∧ t.plc.heatT = [] ∧
    (∀ j, j ≠ k → tgetD t.plc.heat j 0 = tgetD s.plc.heat j 0)) ∧
  (∀ (s : State) (k c : Nat), s.plc.heat = [(k, c)] → ∃ t, exec .heatHalving s = .next t ∧
    tgetD t.plc.heat k 0 = heatCode (heatValue c / 2) ∧ t.plc.heatT = s.plc.heatT) ∧
  (∀ (s : State), s.map.ckptRun = none → s.jrn.serving = true → s.jrn.restart = .none → s.jrn.stopped = false →
    s.pair.fenced = false →
    ∃ t run u v, exec .checkpointStart s = .next (settle t) ∧ u = (tkeys s.plc.open_).foldl (fun s g => padShelf g s) s ∧
      v = applyCovered (coveredOffs u) u ∧ t.map.ckptRun = some run ∧ run.number = u.map.ckptMade + 1 ∧
      run.maps = v.map.maps ∧ run.leaves = v.map.leaves ∧ run.chunks = v.map.chunks ∧ run.serialHigh = u.map.serial ∧
      run.index = mergedIndex v ∧ t.map.ckptMade = u.map.ckptMade + 1 ∧ t.map.ckpt = u.map.ckpt) ∧
  (∀ (s : State) (run : Ckpt), s.map.ckptRun = some run →
    ∃ t, exec .checkpointComplete s = .next (settle t) ∧ t.map.ckpt = run ∧ t.map.ckptPrev = s.map.ckpt ∧
      t.map.ckptRun = none) ∧
  (∀ (g : Fin 32) (band : Nat) (s : State), (bandSets s g band).isEmpty = false →
    (bandSets s g band).all (fun e => decide (e.2.state = 5)) = true → bandRead s g band = false → movedDone s g band = true →
    ∃ t, exec (.gcEraseWaitEnd g band) s = .next (settle t) ∧ t.plc.gcBands = satAdd 16 s.plc.gcBands 1 ∧
      (∀ e ∈ t.plc.rows, ¬(e.2.shelf = g ∧ e.2.band = band)) ∧ (∀ e ∈ t.plc.bandJobs, ¬(e.1 = g ∧ e.2.1 = band))) ∧
  (∀ (g : Fin 32) (band : Nat) (s : State), (bandRead s g band = true ∨ movedDone s g band = false) →
    exec (.gcEraseWaitEnd g band) s = .next (settle s)) ∧
  (∀ (s : State) (k n : Nat), s.plc.readT = [(k, n)] → exec .readDisturbFold s = .next (settle (foldReads k s))) ∧
  (∀ (s : State) (k n : Nat) (v : Blk), s.plc.readT = [(k, n)] → n ≠ 0 → blkOf s k = v →
    ∃ t e m, foldReads k s = checkDisturb k t ∧ rdCeil (rdValue v.exp v.man + n) 64 0 = (e, m) ∧ t.plc.readT = [] ∧
      (blkOf t k).exp = e ∧ (blkOf t k).man = m)

/-- R285, R288 to R296, R312, Tables 10.5 to 10.7 and 10.14: a sled link. SEQUENCED_FLIT in order and within its credits is
accepted and acknowledged, one with a bad check draws a NAK, one beyond the credits ends in DETECT. IDLE takes the ack; NAK
sends the flits again from the one named; CREDIT gives back credits. SLEEP_ACK ends in SLEEP and SLEEP_NAK in ACTIVE;
SLEEP_IDLE_TIMER asks for SLEEP on an idle link. FLIT_REPLAY_TIMEOUT sends again from the oldest flit; FLIT_NAK_HOLDOFF_END
permits another NAK. TS1 goes from POLLING to CONFIG, and from RECOVERY or SLEEP back to ACTIVE; TS2 begins a session, with
PORT_LOCK first on a head that runs alone. FAR_END_DETECTED enters POLLING; LINK_DETECT_RETRY looks again; LINK_STATE_TIMEOUT
falls back to DETECT. FRAMING_ERROR and SLP_RETRAIN enter RECOVERY; SLP_TEST asks for the test and TEST_COMPLETE ends it with
its error count. SLP_CTL_EN set trains a powered port, and cleared holds it in DISABLED with its session ended;
LINK_ACTIVE_TIMEOUT counts the sled as failed. -/
def Obligations.SledLinks : Prop :=
  (∀ (p : Fin 1024) (f : Flit) (s : State) (v v' : SPort), portOf s p = v → v.state = 4 → f.checkOk = true →
    f.seq = v.expSeq → v.expSeq < 4096 →
    rxCredit { v with expSeq := (v.expSeq + 1) % 4096, nakHeld := false } f = some v' →
    exec (.sequencedFlit p f) s = .next (settle (pumpAll p (returnCredit p f.vc (link p (.idle f.seq)
      (takeAck p f.ack (setPort p { v' with dataCr := v'.dataCr + f.dcr } s))))))) ∧
  (∀ (p : Fin 1024) (f : Flit) (s : State) (v : SPort), portOf s p = v → v.state = 4 →
    (f.checkOk = false → exec (.sequencedFlit p f) s = .next (settle (linkError p 1 (leN 1 1)
      (sendNak p (setPort p { v with crc := satAdd 16 v.crc 1 } s))))) ∧
    (f.checkOk = true → f.seq = v.expSeq → v.expSeq < 4096 →
      rxCredit { v with expSeq := (v.expSeq + 1) % 4096, nakHeld := false } f = none →
      exec (.sequencedFlit p f) s =
        .next (settle (dropLink p (leN 1 2) (setPort p { v with protocol := satAdd 16 v.protocol 1 } s))))) ∧
  (∀ (p : Fin 1024) (ack : Nat) (s : State) (v : SPort) (g : TxFlit), portOf s p = v → v.state = 4 →
    v.replay = [(ack, g)] → v.testSeq = none →
    exec (.idle p ack) s = .next (settle (pumpAll p (setPort p { v with
      lastAck := ack
      replay := []
      resends := 0 } s)))) ∧
  (∀ (p : Fin 1024) (seq : Nat) (s t : State), (portOf s p).state = 4 → t = takeAck p ((seq + 4095) % 4096) s →
    (∀ f rest, (portOf t p).state = 4 → (portOf t p).replay = f :: rest → f.1 = seq → (portOf t p).resends < 4 →
      exec (.nak p seq) s =
        .next (settle (replayFrom p seq (setPort p { portOf t p with resends := (portOf t p).resends + 1 } t)))) ∧
    ((∀ f, (portOf t p).replay.head? = some f → f.1 ≠ seq) → exec (.nak p seq) s = .next (settle t))) ∧
  (∀ (p : Fin 1024) (cmd mgmt data : Nat) (s : State) (v : SPort), portOf s p = v → v.state = 4 →
    exec (.credit p cmd mgmt data) s = .next (settle (kickAll p (pumpAll p (setPort p { v with
      cmdCr := v.cmdCr + cmd
      mgmtCr := v.mgmtCr + mgmt
      dataCr := v.dataCr + data } s))))) ∧
  (∀ (p : Fin 1024) (s : State) (v : SPort), portOf s p = v → v.state = 4 → v.sleepReq = true →
    exec (.sleepAck p) s = .next (settle (kickAll p (link p .eios (setPort p { v with
      state := 6
      sleepReq := false } s)))) ∧
    exec (.sleepNak p) s = .next (settle (kickAll p (setPort p { v with sleepReq := false } s)))) ∧
  (∀ (p : Fin 1024) (s : State) (v : SPort) (f : Nat × TxFlit) (rest : List (Nat × TxFlit)), portOf s p = v → v.state = 4 →
    v.replay = f :: rest → v.resends < 4 →
    exec (.flitReplayTimeout p) s = .next (settle (linkError p 1 (leN 1 7)
      (replayFrom p f.1 (setPort p { v with resends := v.resends + 1 } s))))) ∧
  (∀ (p : Fin 1024) (s : State), exec (.flitNakHoldoffEnd p) s = .next (setPort p { portOf s p with nakHeld := false } s)) ∧
  (∀ (p : Fin 1024) (preset asked : Nat) (s : State) (v : SPort), portOf s p = v → v.state = 2 →
    exec (.ts1 p preset asked) s = .next (settle (link p (.ts2 256 0) (setPort p { v with
      state := 3
      farPreset := preset % 8
      txPreset := if asked < 8 then asked else v.txPreset } s)))) ∧
  (∀ (p : Fin 1024) (preset asked : Nat) (s : State) (v : SPort), portOf s p = v →
    (v.state = 5 → exec (.ts1 p preset asked) s = .next (settle (backActive p s))) ∧
    (v.state = 6 → exec (.ts1 p preset asked) s =
      .next (settle (backActive p (link p (.ts1 1 v.txPreset) (link p .eieos s)))))) ∧
  (∀ (p : Fin 1024) (ts : Ts2) (s : State), (portOf s p).state = 3 → ts.checkOk = true → ts.version = 1 →
    (tget s.sleds.sledUse p).map (·.maxTags) = some ts.maxTags →
    ∃ t, exec (.ts2 p ts) s = .next (settle (sendSled p .info { op := 5, tag := 0 }
        (if s.plc.alone = true then sendSled p (.lock 1) { op := 6, tag := 0, arg := 1 } t else t))) ∧
      (portOf t p).state = 4 ∧
      (portOf t p).maxTags = ts.maxTags ∧ (portOf t p).nextSeq = 0 ∧ (portOf t p).expSeq = 0 ∧
      (portOf t p).lastAck = 4095 ∧ (portOf t p).rxCmd = 32 ∧ (portOf t p).rxData = 256 ∧ (portOf t p).rxMgmt = 8 ∧
      (portOf t p).outst = [] ∧ (portOf t p).usable = false ∧ (portOf t p).refused = false ∧ t.out = s.out) ∧
  (∀ (p : Fin 1024) (ts : Ts2) (s : State), (portOf s p).state = 3 → ts.checkOk = false →
    exec (.ts2 p ts) s = .next (settle (dropLink p (leN 1 8) s))) ∧
  (∀ (p : Fin 1024) (s : State) (v : SPort), portOf s p = v → v.state = 1 →
    exec (.farEndDetected p) s =
      .next (link p (.ts1 0 v.txPreset) (link p .eieos (setPort p { v with state := 2 } s))) ∧
    exec (.linkDetectRetry p) s = .next (link p .beacon s)) ∧
  (∀ (p : Fin 1024) (s : State), (portOf s p).state = 2 ∨ (portOf s p).state = 3 →
    exec (.linkStateTimeout p) s = .next (settle (enterDetect p s))) ∧
  (∀ (p : Fin 1024) (s : State), (portOf s p).state = 5 →
    exec (.linkStateTimeout p) s = .next (settle (dropLink p (leN 1 9) s))) ∧
  (∀ (p : Fin 1024) (s : State) (v : SPort), portOf s p = v → v.state = 4 →
    exec (.framingError p) s = .next (settle (linkError p 1 (leN 1 10)
      (enterRecovery p (setPort p { v with framing := satAdd 16 v.framing 1 } s)))) ∧
    (∃ t, exec (.slpRetrain p) s = .next (link p (.ts1 1 v.txPreset) t) ∧
      portOf t p = { v with state := 5, recoveries := satAdd 16 v.recoveries 1, retrain := true }) ∧
    (v.testSeq = none → exec (.slpTest p) s =
      .next (sendFlits p [linkFlit (leN 1 7 ++ zeros 3 ++ leN 4 v.testMbit.toNat)] (setPort p { v with test := true } s))) ∧
    (v.sleepIdle ≠ 0 → v.outst = [] → v.replay = [] → v.tx = [] → v.waitq = [] → v.sleepReq = false → v.testSeq = none →
      exec (.sleepIdleTimer p) s = .next (sendFlits p [linkFlit (leN 1 4)] (setPort p { v with sleepReq := true } s)))) ∧
  (∀ (p : Fin 1024) (errors : Nat) (s : State) (v : SPort), portOf s p = v → v.state = 7 →
    exec (.testComplete p errors) s =
      .next (enterRecovery p (link p .eieos (link p .eios
        (setPort p { v with prbsErr := satW 32 errors, test := false } s))))) ∧
  (∀ (p : Fin 1024) (s : State) (v : SPort), portOf s p = v → v.powered = true → v.state = 0 →
    exec (.slpCtlEn p true) s = .next (settle (enterDetect p (setPort p { v with en := true } s)))) ∧
  (∀ (p : Fin 1024) (s : State) (v : SPort), portOf s p = v → (v.powered = false ∨ v.state ≠ 0) →
    exec (.slpCtlEn p true) s = .next (settle (setPort p { v with en := true } s))) ∧
  (∀ (p : Fin 1024) (s : State), ∃ t, exec (.slpCtlEn p false) s = .next (settle t) ∧ (portOf t p).en = false ∧
    (portOf t p).state = 0 ∧ (portOf t p).usable = false ∧ (portOf t p).outst = [] ∧ (portOf t p).waitq = []) ∧
  (∀ (p : Fin 1024) (s : State) (v : SPort), portOf s p = v → v.powered = true → v.en = true →
    (v.state = 1 ∨ v.state = 2 ∨ v.state = 3 ∨ v.state = 5) →
    exec (.linkActiveTimeout p) s = .next (settle (loseSled (p / 32) (p % 32) (linkError p 2 (leN 1 14) s))))

/-- R297 to R303, R306, R308 to R311, Tables 10.11, 10.12, 10.14 and 10.18: SLED_READ_RESPONSE, SLED_PROGRAM_RESPONSE and
SLED_ERASE_RESPONSE take their outstanding command, and its outcome goes to the work it served; DIE_STATUS_RESPONSE of a
failed die retires it; PORT_LOCK_RESPONSE notes the lock; BRIDGE_INFO_RESPONSE that agrees with the record makes the link
usable. NOTICE retires a die, loses the sled, records a temperature or notes the lock. SLED_CMD_TIMEOUT ends the command, and
a fourth within 1 s the session. IDENTITY_RECORD_READ keeps an accepted record and records a refused one with its reason;
I2C_STRETCH_TIMEOUT recovers the bus, and the third gives the record up. -/
def Obligations.SledCommandsAndIdentity : Prop :=
  (∀ (r : SledResp) (s : State) (v : SPort) (w : SledPend), portOf s r.port = v → tget v.outst r.tag = some w →
    ∃ t, t = kickAll r.port (sledEnds r.port w.cmd (setPort r.port { v with outst := terase v.outst r.tag } s)) ∧
      (w.cmd.op = 1 → exec (.sledReadResponse r) s =
        .next (settle (sledAnswer w r.port r.outcome r.corrected r.data t))) ∧
      (w.cmd.op = 2 → exec (.sledProgramResponse r) s =
        .next (settle (sledAnswer w r.port r.outcome r.corrected r.data t))) ∧
      (w.cmd.op = 3 → exec (.sledEraseResponse r) s =
        .next (settle (sledAnswer w r.port r.outcome r.corrected r.data t))) ∧
      (w.cmd.op = 4 → r.outcome = 5 → exec (.dieStatusResponse r) s =
        .next (settle (retireDie r.port w.cmd.die t))) ∧
      (w.cmd.op = 6 → r.outcome = 0 → exec (.portLockResponse r) s = .next (settle (makeUsable r.port t.plc.alone
        (setPort r.port { portOf t r.port with lock := fieldLE r.detail 0 1 % 4 } t))))) ∧
  (∀ (r : SledResp) (x : RecordRead) (s : State) (v : SPort) (w : SledPend), portOf s r.port = v →
    tget v.outst r.tag = some w → w.cmd.op = 5 → r.outcome = 0 → v.waitq = [] → v.refused = false →
    (sledFigs s r.port).map (·.serial) = some (bslice r.detail 0 16) →
    ∃ t, exec (.bridgeInfoResponse r x) s = .next (settle (makeUsable r.port t.plc.alone t)) ∧
      portOf t r.port = { v with outst := terase v.outst r.tag, infoOk := true }) ∧
  (∀ (p : Fin 1024) (die temp : Nat) (s : State) (v : SPort), portOf s p = v → (v.state = 4 ∨ v.state = 6) →
    exec (.notice p 1 die temp) s = .next (settle (retireDie p die s)) ∧
    exec (.notice p 2 die temp) s = .next (settle (loseSled (p / 32) (p % 32) s)) ∧
    exec (.notice p 3 die temp) s = .next (settle (record 5 5 1 (.sledLane p) (leN 1 temp) s)) ∧
    exec (.notice p 4 die temp) s = .next (settle (setPort p { v with lock := if v.lock = 0 then 2 else 0 } s))) ∧
  (∀ (p : Fin 1024) (tag : Nat) (s : State) (v : SPort) (w : SledPend), portOf s p = v → tget v.outst tag = some w →
    ∃ t, exec (.sledCmdTimeout p tag false) s = .next (settle (linkError p 1 (leN 1 13) t)) ∧
      exec (.sledCmdTimeout p tag true) s = .next (settle (dropLink p (leN 1 12) t)) ∧
      portOf t p = { v with
        outst := terase v.outst tag
        dead := tag :: v.dead
        timeouts := satAdd 16 v.timeouts 1 } ∧ t.sleds.ended = s.sleds.ended ++ [(p.val, w, 7)]) ∧
  (∀ (g : Fin 32) (slot : Fin 33) (x : RecordRead) (s : State),
    (∀ v, slot.val ≠ 32 → parseSled x = .inl v → ∃ t, exec (.identityRecordRead g slot x) s = .next (settle t) ∧
      tget t.sleds.sledRec (g.val * 32 + slot.val) = some v ∧ t = { s with sleds := t.sleds }) ∧
    (∀ v, slot.val = 32 → parseShelf x = .inl v → ∃ t, exec (.identityRecordRead g slot x) s = .next (settle t) ∧
      tget t.sleds.shelfRec g.val = some v ∧ t = { s with sleds := t.sleds }) ∧
    (∀ why, slot.val ≠ 32 → parseSled x = .inr why → ∃ t, exec (.identityRecordRead g slot x) s =
        .next (settle (record 5 4 2 (.shelf g) (leN 1 g ++ leN 1 slot ++ leN 1 why ++ refusedFormat why x) t)) ∧
      (g.val, slot.val, why) ∈ t.sleds.refused ∧ t = { s with sleds := t.sleds }) ∧
    (∀ why, slot.val = 32 → parseShelf x = .inr why → ∃ t, exec (.identityRecordRead g slot x) s =
        .next (settle (record 5 4 2 (.shelf g) (leN 1 g ++ leN 1 slot ++ leN 1 why ++ refusedFormat why x) t)) ∧
      (g.val, slot.val, why) ∈ t.sleds.refused ∧ t = { s with sleds := t.sleds })) ∧
  (∀ (g : Fin 32) (slot : Fin 33) (attempt : Nat) (s : State), attempt < 3 →
    exec (.i2cStretchTimeout g slot attempt) s = .next (emit (.i2cRecover g slot) s)) ∧
  (∀ (g : Fin 32) (slot : Fin 33) (attempt : Nat) (s : State), 3 ≤ attempt →
    exec (.i2cStretchTimeout g slot attempt) s = .next (takeRecord g slot none (emit (.i2cRecover g slot) s)))

/-- R347 to R350, R356 to R359, Tables 12.4 and 12.6: DRAM_RETRAIN_PAUSE takes a pause of a serving rank that owes no refresh.
DRAM_REFRESH_DUE of a normal rank with requests waiting is postponed up to max_postpone and is otherwise issued; an idle rank
pays what it owes. DRAM_THERMAL_READ above 85.0 °C makes the module's rank hot and has it pay its debt twice, and at or below
83.0 °C ends that. DRAM_RCD_ALERT counts and issues the commands again, and a second one or a failed repeat takes the rank out
of service. DRAM_READ_ERROR is counted with its address and its row tested; an uncorrectable one poisons the line, restores
what it held where a second copy stands, and takes the rank out of service. DRAM_PATROL_SCRUB counts a completed scrub;
RANK_MIGRATION_DONE puts the spare in the rank's place and finishes the RANK_RETIRE jobs. -/
def Obligations.DramRanksAreKept : Prop :=
  (∀ (n : Fin 24) (r : Fin 4) (s : State), rankServes (dmcOf s n) r = true → (rankOf (dmcOf s n) r).owed = 0 →
    ∃ d, exec (.dramRetrainPause n r) s = .next { s with
      dram := { s.dram with ch := tset s.dram.ch n { dmcOf s n with delays := d } }
      draws := s.draws + 1
      out := s.out ++ [.dramPause n r] }) ∧
  (∀ (n : Fin 24) (r : Fin 4) (s : State) (c : Dmc) (k : DRank), dmcOf s n = c → rankOf c r = k → rankServes c r = true →
    (k.hot = false → k.owed < k.maxPostpone.toNat → exec (.dramRefreshDue n r true) s =
      .next (setDmc n (setRank r { k with owed := k.owed + 1 } c) s)) ∧
    (k.hot = true ∨ k.maxPostpone.toNat ≤ k.owed → exec (.dramRefreshDue n r true) s =
      .next { s with out := s.out ++ [.dramRefresh n r 1] }) ∧
    (exec (.dramRefreshDue n r false) s =
      .next (emit (.dramRefresh n r (k.owed + 1)) (setDmc n (setRank r { k with owed := 0 } c) s)))) ∧
  (∀ (n : Fin 24) (t0 t1 : BitVec 8) (tenths : Int) (s : State) (c : Dmc) (k : DRank), dmcOf s n = c →
    c.ranks = [(0, k)] → k.present = true → k.retired = false →
    (850 < tenths → k.hot = false → 0 < k.owed → exec (.dramThermalRead n 0 (some (t0, t1)) tenths) s =
      .next { s with
        dram := { s.dram with ch := tset s.dram.ch n { c with
          therm := (c.therm.set 0 t0).set 1 t1
          ranks := [(0, { k with
            hot := true
            readFailed := false
            owed := 0 })] } }
        out := s.out ++ [.dramRefresh n 0 (2 * k.owed)] }) ∧
    (tenths ≤ 830 → exec (.dramThermalRead n 0 (some (t0, t1)) tenths) s =
      .next { s with dram := { s.dram with ch := tset s.dram.ch n { c with
          therm := (c.therm.set 0 t0).set 1 t1
          ranks := [(0, { k with
            hot := false
            readFailed := false })] } } })) ∧
  (∀ (n : Fin 24) (r : Fin 4) (s : State), exec (.dramRcdAlert n r false true) s =
    .next (record 6 1 1 (.dramRank n r) (leN 1 0 ++ leN 1 1) (emit (.dramReissue n r) (setDmc n { dmcOf s n with
      parity := satAdd 16 (dmcOf s n).parity 1
      retries := satAdd 16 (dmcOf s n).retries 1 } s)))) ∧
  (∀ (n : Fin 24) (r : Fin 4) (again ok : Bool) (s : State), (again = true ∨ ok = false) →
    ∃ t, exec (.dramRcdAlert n r again ok) s = .next (rankOut n r
        (record 6 1 1 (.dramRank n r) (leN 1 (b2n again) ++ leN 1 (b2n ok)) t)) ∧
      (dmcOf t n).parity = satAdd 16 (dmcOf s n).parity 1 ∧ t.out = s.out ++ [.dramReissue n r]) ∧
  (∀ (n : Fin 24) (r : Fin 4) (ca : Nat) (s : State),
    (∃ subj, exec (.dramReadError n r ca true) s = .next (settle (errorOn 6 1 subj (leN 5 ca) (setDmc n { dmcOf s n with
        corrected := satAdd 16 (dmcOf s n).corrected 1
        errCa := ca
        errUe := false } s)))) ∧
    (∃ (subj : Subject) (t : State), exec (.dramReadError n r ca false) s =
        .next (settle (rankOut n r (restoreLine subj n ca (errorOn 6 3 subj (leN 5 ca) t)))) ∧
      (dmcOf t n).errCa = ca ∧ (dmcOf t n).errUe = true ∧ ca / 128 * 128 ∈ (dmcOf t n).poisoned ∧
      (dmcOf t n).uncorrectable = satAdd 16 (dmcOf s n).uncorrectable 1 ∧ t = { s with dram := { s.dram with ch := t.dram.ch } })) ∧
  (∀ (n : Fin 24) (s : State), (dmcOf s n).state = 2 →
    exec (.dramPatrolScrub n) s = .next (setDmc n { dmcOf s n with patrols := (dmcOf s n).patrols + 1 } s)) ∧
  (∀ (n : Fin 24) (s : State), (dmcOf s n).state ≠ 2 → exec (.dramPatrolScrub n) s = .next s) ∧
  (∀ (n : Fin 24) (s : State), (dmcOf s n).migrating = false → exec (.rankMigrationDone n) s = .next s) ∧
  (∀ (n : Fin 24) (s : State) (c : Dmc), dmcOf s n = c → c.migrating = true →
    exec (.rankMigrationDone n) s =
      .next (c.waitOut.foldl (fun s r => withdrawRank n r s) (finishJobs (fun j => decide (j.opcode = 0x0611) && decide (j.subj = n)) .success []
        (record 6 3 2 (.dramRank n c.fromRank) (leN 1 3) (setDmc n { c with
          migrating := false
          ptr := Config.dimmRankGib * 1024
          waitOut := []
          ranks := tset c.ranks c.fromRank { rankOf c c.fromRank with
            retired := true
            owed := 0 } } s)))))

/-- R25, R169, R343, R345, R346, R361, Tables 12.8 and 12.9: DRAM_USE_WINDOW sets and clears the throttle with its two
thresholds and moves the allowance. TRN_MPC_PATTERN, TRN_WRITE_READ, TRN_DQS_OSC and TRN_READ_COMPARE start a helper when none
runs, and TRN_HELPER_DONE reports its fail bits. DMC_GEOM_LOCK sets the lock for good. DMC_BANK_HASH_WRITE and
DMC_CHAN_HASH_WRITE take effect when the mask keeps its rule, are discarded with an event when it does not, and are ignored
when locked. -/
def Obligations.DramUseHelpersAndMasks : Prop :=
  (∀ (bytes : Nat) (s : State), ∃ t, exec (.dramUseWindow bytes) s = .next (settle t) ∧
    (9 * usableBytes s.dram.rate < 10 * bytes → t.dram.throttle = true) ∧
    (100 * bytes < 85 * usableBytes s.dram.rate → t.dram.throttle = false) ∧
    (10 * bytes ≤ 9 * usableBytes s.dram.rate → 85 * usableBytes s.dram.rate ≤ 100 * bytes →
      t.dram.throttle = s.dram.throttle) ∧
    t.dram.use = min 1023 (bytes * 1000 / usableBytes s.dram.rate) ∧
    (s.ghx.throttled = false → 9 * usableBytes s.dram.rate < 10 * bytes →
      t.lat.allow = min (max 40 (s.lat.allow - 20)) (max 40 s.lat.cap)) ∧
    (s.ghx.throttled = false → 10 * bytes ≤ 9 * usableBytes s.dram.rate → t.dram.throttle = false →
      t.lat.allow = s.lat.cap) ∧
    (s.ghx.throttled = false → 10 * bytes ≤ 9 * usableBytes s.dram.rate → t.dram.throttle = true →
      t.lat.allow = min s.lat.allow (max 40 s.lat.cap)) ∧
    ((t.lat.allow < s.lat.cap ∨ s.lat.cap ≤ s.lat.allow) → t.lat.qps = s.lat.qps) ∧
    t = { s with
      dram := { s.dram with
        use := t.dram.use
        useHigh := t.dram.useHigh
        throttle := t.dram.throttle }
      lat := { s.lat with
        allow := t.lat.allow
        qps := t.lat.qps } }) ∧
  (∀ (n : Fin 24) (s : State), (dmcOf s n).trnBusy = false →
    exec (.trnMpcPattern n) s = .next (setDmc n { dmcOf s n with
      trnBusy := true
      trnOp := 0 } s) ∧
    exec (.trnWriteRead n) s = .next (setDmc n { dmcOf s n with
      trnBusy := true
      trnOp := 1 } s) ∧
    exec (.trnDqsOsc n) s = .next (setDmc n { dmcOf s n with
      trnBusy := true
      trnOp := 2 } s) ∧
    exec (.trnReadCompare n) s = .next (setDmc n { dmcOf s n with
      trnBusy := true
      trnOp := 3 } s)) ∧
  (∀ (n : Fin 24) (s : State), (dmcOf s n).trnBusy = true →
    exec (.trnMpcPattern n) s = .next s ∧ exec (.trnWriteRead n) s = .next s ∧
    exec (.trnDqsOsc n) s = .next s ∧ exec (.trnReadCompare n) s = .next s) ∧
  (∀ (n : Fin 24) (dq : Word) (cb : BitVec 8) (s : State), (dmcOf s n).trnBusy = true →
    exec (.trnHelperDone n dq cb) s = .next (setDmc n { dmcOf s n with
      trnBusy := false
      failDq := dq
      failCb := cb } s)) ∧
  (∀ (n : Fin 24) (s : State), ∃ t, exec (.dmcGeomLock n) s = .next t ∧ t = setDmc n { dmcOf s n with lock := true } s ∧
    dramLocked t = true) ∧
  (∀ (n : Fin 24) (k : Fin 5) (m : BitVec 34) (s : State),
    (dramLocked s = true → exec (.dmcBankHashWrite n k m) s = .next s) ∧
    (dramLocked s = false →
      (m.getLsbD 0 = false ∧ ∀ j < 5, m.getLsbD (1 + (dmcOf s n).colBits.toNat + j) = decide (j = k.val)) →
      exec (.dmcBankHashWrite n k m) s =
        .next (setDmc n { dmcOf s n with bankHash := (dmcOf s n).bankHash.set k m } s)) ∧
    (dramLocked s = false →
      ¬(m.getLsbD 0 = false ∧ ∀ j < 5, m.getLsbD (1 + (dmcOf s n).colBits.toNat + j) = decide (j = k.val)) →
      exec (.dmcBankHashWrite n k m) s =
        .next (record 6 9 2 .none (leN 1 n ++ leN 1 k ++ leN 5 m.toNat) s))) ∧
  (∀ (i : Fin 3) (m : BitVec 34) (s : State),
    (dramLocked s = true → exec (.dmcChanHashWrite i m) s = .next s) ∧
    (dramLocked s = false → (∀ j < 3, m.getLsbD j = decide (j = i.val)) → exec (.dmcChanHashWrite i m) s =
      .next { s with dram := { s.dram with chanHash := s.dram.chanHash.set i m } }) ∧
    (dramLocked s = false → ¬(∀ j < 3, m.getLsbD j = decide (j = i.val)) → exec (.dmcChanHashWrite i m) s =
      .next (record 6 9 2 .none (leN 1 i ++ leN 5 m.toNat) s)))

/-- R367, R370, R371, R374 to R378, R380, Table 13.3: CACHE_CLEAN and CACHE_INVALIDATE start a maintenance operation when none
runs, and CACHE_MAINT_DONE ends it: a clean leaves no covered line dirty, an invalidate drops the unlocked ones, and the
counts are reported. CNS_WAY_DOWN takes a way out of allocation where R375 allows it, WAY_DOWN_COMPLETE empties it and gates
its power, and CNS_WAY_UP powers it. LOCK_LOAD_COMPLETE ends locked and loaded. AGEING_TICK clears every referenced bit,
TRACKER_BREAK a tracker's count. CNS_SLICE_HASH_WRITE takes effect when the mask keeps its rule, unless CNS_HASH_LOCK has
locked it. CNS_PARITY_ERROR and CNS_TAG_PARITY_ERROR count, and a dirty line, or one with both tag copies gone, is dropped and
its Dovecote buckets are loaded again. -/
def Obligations.ConservatoryCommands : Prop :=
  (∀ (s : State), s.cns.maint = none →
    exec .cacheClean s = .next { s with cns := { s.cns with
      maintOp := false
      maint := some { inv := false, byWay := s.cns.maintByWay, way := s.cns.maintWay.toNat, base := s.cns.maintAddr / 128,
                      lines := s.cns.maintLen.toNat, mailbox := none } } } ∧
    exec .cacheInvalidate s = .next { s with cns := { s.cns with
      maintOp := true
      maint := some { inv := true, byWay := s.cns.maintByWay, way := s.cns.maintWay.toNat, base := s.cns.maintAddr / 128,
                      lines := s.cns.maintLen.toNat, mailbox := none } } }) ∧
  (∀ (s : State) (m : CMaint), s.cns.maint = some m → m.mailbox = none → ∃ (d : Dram) (sets : Tab (Tab CLine)) (side : Tab (List Nat)),
    exec .cacheMaintDone s = .next { s with
      dram := d
      cns := { s.cns with
        sets := sets
        side := side
        maint := none
        skipped := satW 20 (maintCounts m s.cns).1
        written := satW 32 (maintCounts m s.cns).2 } } ∧
    (∀ k w l, (w, l) ∈ tgetD sets k [] → maintCovers m w l = true →
      (m.inv = false → l.dirty = false) ∧ (m.inv = true → wayLocked s.cns w = true))) ∧
  (∀ (w : Fin 16) (s : State) (off : BitVec 16), off = setBit s.cns.off w true →
    (offAllowed s off = true → exec (.cnsWayDown w) s = .next { s with cns := { s.cns with off := off } }) ∧
    (offAllowed s off = false → exec (.cnsWayDown w) s = .next s)) ∧
  (∀ (w : Fin 16) (s : State), exec (.cnsWayUp w) s = .next { s with cns := { s.cns with
      off := setBit s.cns.off w false
      powered := setBit s.cns.powered w true } }) ∧
  (∀ (w : Fin 16) (s : State), s.cns.off.getLsbD w = true → s.cns.powered.getLsbD w = true → s.cns.wayReq = none →
    ∃ t, exec (.wayDownComplete w) s = .next t ∧ (∀ k, Tab.wf (tgetD s.cns.sets k []) = true →
      tget (tgetD t.cns.sets k []) w = none) ∧
      t = { s with
        dram := t.dram
        cns := { s.cns with
          sets := t.cns.sets
          powered := setBit s.cns.powered w false } }) ∧
  (∀ (w : Fin 16) (s : State), (s.cns.off.getLsbD w = false ∨ s.cns.powered.getLsbD w = false) →
    exec (.wayDownComplete w) s = .next s) ∧
  (∀ (i : Fin 4) (s : State) (l : CLock), lockOf s.cns i = l → l.loading = true → l.mailbox = none →
    ∃ t, exec (.lockLoadComplete i) s = .next t ∧ lockOf t.cns i = { l with
      loading := false
      loaded := true
      mailbox := none } ∧ t = { s with dram := t.dram, cns := t.cns }) ∧
  (∀ (i : Fin 4) (s : State), (lockOf s.cns i).loading = false → exec (.lockLoadComplete i) s = .next s) ∧
  (∀ (s : State), s.cns.agePeriod ≠ 0 → ∃ sets, exec .ageingTick s = .next { s with cns := { s.cns with sets := sets } } ∧
    ∀ k w l, (w, l) ∈ tgetD sets k [] → l.ref = false) ∧
  (∀ (s : State), s.cns.agePeriod = 0 → exec .ageingTick s = .next s) ∧
  (∀ (i : Fin 8) (s : State), exec (.trackerBreak i) s = .next { s with cns := { s.cns with
      trackers := s.cns.trackers.set i { s.cns.trackers.getD i {} with count := 0 } } }) ∧
  (∀ (k : Fin 5) (m : BitVec 25) (s : State),
    (s.cns.hashLock = true → exec (.cnsSliceHashWrite k m) s = .next s) ∧
    (s.cns.hashLock = false → (∀ j < 5, m.getLsbD j = decide (j = k.val)) → exec (.cnsSliceHashWrite k m) s =
      .next { s with cns := { s.cns with hash := s.cns.hash.set k m } }) ∧
    (s.cns.hashLock = false → ¬(∀ j < 5, m.getLsbD j = decide (j = k.val)) → exec (.cnsSliceHashWrite k m) s =
      .next (record 7 9 2 .none (leN 1 k ++ leN 4 m.toNat) s))) ∧
  (∀ (s : State), exec .cnsHashLock s = .next { s with cns := { s.cns with hashLock := true } }) ∧
  (∀ (line w : Nat) (l : CLine) (s : State), findLine s.cns line = some (w, l) →
    (l.dirty = false → exec (.cnsParityError line) s = .next (errorOn 7 1 (lineSubject s.cns line w) (leN 6 (line * 128))
      { s with cns := { s.cns with parClean := satAdd 16 s.cns.parClean 1 } })) ∧
    (l.dirty = true → ∃ t, exec (.cnsParityError line) s = .next (errorOn 7 3 (lineSubject s.cns line w) (leN 6 (line * 128))
        { t with cns := { dropLine line t.cns with parDirty := satAdd 16 t.cns.parDirty 1 } }) ∧
      t = (if l.cls = 4 then askReloads (bucketsOn (fun x => decide (x = line)) s) s else s)) ∧
    (exec (.cnsTagParityError line false) s = .next (errorOn 7 1 (lineSubject s.cns line w) (leN 6 (line * 128))
      { s with cns := { s.cns with tagCopy := satAdd 16 s.cns.tagCopy 1 } })) ∧
    (∃ t, exec (.cnsTagParityError line true) s = .next (errorOn 7 3 (lineSubject s.cns line w) (leN 6 (line * 128))
        { t with cns := { dropLine line t.cns with
          tagBoth := satAdd 16 t.cns.tagBoth 1
          parDirty := satAdd 16 t.cns.parDirty 1 } }) ∧
      t = askReloads (bucketsOn (fun x => decide (setKey s.cns x = setKey s.cns line)) s) s)) ∧
  (∀ (line : Nat) (both : Bool) (s : State), findLine s.cns line = none →
    exec (.cnsParityError line) s = .next s ∧ exec (.cnsTagParityError line both) s = .next s)

/-- R389, R390, R387, R388, Tables 14.2 to 14.5: every answer is a next state. KEY_DATA_WRITE writes its word; while a slot
operation waits it sets key_err. KEY_SLOT_LOAD puts the key data into the slot as a working key, clears it and shows its check
value (a retired slot takes none), KEY_SLOT_ZEROISE empties the slot; both wait for admitted requests that name the slot, are
ignored while one waits, and do nothing to slot 4,095. CIPHER_QUEUE2_SUBMIT moves the tail and marks the new entries that name
the slot of a waiting operation; CIPHER_REQUEST_DONE on queue 2 ends the head entry, writes its bytes and its completion,
counts a tag failure or a poisoned source, records an entry that breaks Table 14.3 and lets a waiting slot operation apply; on
another entry it does nothing, on queues 0 and 1 it counts a poisoned source. KEY_SLOT_PARITY_ERROR records an error on the
slot and empties it, loads the KEK again from the boot NOR, and does nothing to an empty slot or slot 4,095. The latency
monitors (mons) move on beside queue 2. -/
def Obligations.KeySlotsAndQueueTwo : Prop :=
  (∀ (i : Fin 8) (w : Word) (s : State),
    (s.sec.keyOp = none → exec (.keyDataWrite i w) s =
      .next { s with sec := { s.sec with keyData := s.sec.keyData.set i w } }) ∧
    (s.sec.keyOp.isSome = true → exec (.keyDataWrite i w) s = .next { s with sec := { s.sec with keyErr := true } })) ∧
  (∀ (k : Fin 4096) (s : State) (key : Bytes), s.sec.keyOp = none → k ≠ 4095 →
    (∀ j ∈ q2Waiting s.sec, descNames (q2Desc s j) k = false) →
    key = (s.sec.keyData.map (fun w => leN 4 w.toNat)).flatten →
    ((slotOf s k).retired = true → exec (.keySlotLoad k) s = .next { s with sec := { s.sec with
      ctlSlot := BitVec.ofNat 12 k
      ctlOp := false } }) ∧
    ((slotOf s k).retired = false → exec (.keySlotLoad k) s = .next { s with sec := { s.sec with
      ctlSlot := BitVec.ofNat 12 k
      ctlOp := false
      slots := tset s.sec.slots k { key := key, purpose := 3, domain := 0, version := 0, kcv := keyCheck key }
      kcv := BitVec.ofNat 32 (keyCheck key)
      keyData := [0, 0, 0, 0, 0, 0, 0, 0] } }) ∧
    (exec (.keySlotZeroise k) s = .next { s with sec := { s.sec with
      ctlSlot := BitVec.ofNat 12 k
      ctlOp := true
      slots := tset s.sec.slots k { slotOf s k with
        key := []
        kcv := 0 } } })) ∧
  (∀ (k : Fin 4096) (s : State) (j : Nat), s.sec.keyOp = none → k ≠ 4095 → j ∈ q2Waiting s.sec →
    descNames (q2Desc s j) k = true →
    exec (.keySlotLoad k) s = .next { s with sec := { s.sec with
      ctlSlot := BitVec.ofNat 12 k
      ctlOp := false
      keyOp := some { slot := k, zeroise := false, key := (s.sec.keyData.map (fun w => leN 4 w.toNat)).flatten }
      keyData := [0, 0, 0, 0, 0, 0, 0, 0] } } ∧
    exec (.keySlotZeroise k) s = .next { s with sec := { s.sec with
      ctlSlot := BitVec.ofNat 12 k
      ctlOp := true
      keyOp := some { slot := k, zeroise := true, key := (s.sec.keyData.map (fun w => leN 4 w.toNat)).flatten } } }) ∧
  (∀ (k : Fin 4096) (s : State), s.sec.keyOp.isSome = true ∨ k = 4095 →
    exec (.keySlotLoad k) s = .next s ∧ exec (.keySlotZeroise k) s = .next s) ∧
  (∀ (tail : BitVec 8) (s : State) (added : List Nat),
    added = (List.range (tail - s.sec.q2Tail).toNat).map (fun i => (s.sec.q2Tail.toNat + i) % 256) →
    ∃ m, exec (.cipherQueue2Submit tail) s = .next { s with
      mons := m
      sec := { s.sec with
        q2Tail := tail
        q2Full := if tail = s.sec.q2Tail then s.sec.q2Full else decide (tail = s.sec.q2Head)
        q2Busy := s.sec.q2Busy ++ (s.sec.keyOp.elim [] (fun op => added.filter (fun k => descNames (q2Desc s k) op.slot))) } }) ∧
  (∀ (id : Nat) (poisoned : Bool) (s : State) (k o : Nat) (bytes : Bytes) (c : Sec), s.sec.q2Head.toNat = k →
    q2Count s.sec ≠ 0 → fieldLE (q2Desc s k) 56 4 = id → q2Run s k poisoned = (o, bytes) → c = { s.sec with
      lodgeMem := memPuts (memPuts s.sec.lodgeMem (fieldLE (q2Desc s k) 24 8) bytes) (s.sec.q2Base.toNat + 16384 + 16 * k)
        (leN 4 id ++ leN 1 o ++ zeros 3 ++ leN 4 (if o = 0 then fieldLE (q2Desc s k) 4 4 else 0) ++ zeros 4)
      q2Head := s.sec.q2Head + 1
      q2Full := false
      q2Busy := s.sec.q2Busy.filter (· ≠ k)
      tagFail := satAdd 16 s.sec.tagFail (if o = 2 then 1 else 0)
      poisoned := satAdd 16 s.sec.poisoned (if o = 4 then 1 else 0) } →
    (s.sec.keyOp = none → ∃ m, exec (.cipherRequestDone 2 id poisoned) s = .next (if o = 3 then
      record 8 1 1 .none (leN 4 id) { s with
        mons := m
        sec := c }
      else { s with
        mons := m
        sec := c })) ∧
    (∀ op, s.sec.keyOp = some op → s.sec.q2Full = false → s.sec.q2Tail = s.sec.q2Head + 1 → o ≠ 3 →
      ∃ m, exec (.cipherRequestDone 2 id poisoned) s = .next (applyKeyOp op { s with
        mons := m
        sec := { c with keyOp := none } }))) ∧
  (∀ (id : Nat) (poisoned : Bool) (s : State), q2Count s.sec = 0 ∨ fieldLE (q2Desc s s.sec.q2Head.toNat) 56 4 ≠ id →
    exec (.cipherRequestDone 2 id poisoned) s = .next s) ∧
  (∀ (q : Fin 3) (id : Nat) (s : State), q ≠ 2 →
    exec (.cipherRequestDone q id true) s = .next { s with sec := { s.sec with poisoned := satAdd 16 s.sec.poisoned 1 } } ∧
    exec (.cipherRequestDone q id false) s = .next s) ∧
  (∀ (k : Fin 4096) (s : State), (slotOf s k).key = [] ∨ k = 4095 → exec (.keySlotParityError k) s = .next s) ∧
  (∀ (s : State), (slotOf s 3072).key ≠ [] → q2Waiting s.sec = [] → exec (.keySlotParityError 3072) s =
    .next (loadKek (errorOn 8 2 (.keySlot false 3072) [] (setSlot 3072 { slotOf s 3072 with
      key := []
      kcv := 0 } s)))) ∧
  (∀ (k : Fin 4096) (s : State), (slotOf s k).key ≠ [] → k ≠ 4095 → k ≠ 3072 → 1 < (slotOf s k).purpose →
    q2Waiting s.sec = [] → ∃ t, exec (.keySlotParityError k) s = .next t ∧ (slotOf t k).key = [] ∧
      t = errorOn 8 2 (.keySlot false k) [] (setSlot k { slotOf s k with
        key := []
        kcv := 0 } s))

/-- R397, R398, R399, R400, R401, Table 14.10: every answer is a next state. DIGEST_START begins a message from the initial
state, or sets slot_denied for a key slot its user may not use; DIGEST_DATA_WRITE adds a word, or sets overrun while busy;
DIGEST_BLOCK_DONE compresses a full block; DIGEST_FINAL ends the message with done and its digest; each from another user only
sets denied. DIGEST_CLAIM_REQUEST gives a free engine to the lowest user that asks and leaves others pending; DIGEST_RELEASE
empties the engine and its claim; DIGEST_WINDOW_IDLE_TIMEOUT releases it from the window with an event. PKA_OPERATION_DONE
ends the running operation and starts the next; RNG_HEALTH_TRIP counts a trip and halts the source at a second one within a
minute; DRBG_RESEED makes a source that is not halted ready. A user outside the engine's owner, an empty queue and a free
engine change nothing else. -/
def Obligations.DigestPublicKeyAndRandom : Prop :=
  (∀ (u : Fin 3) (alg : BitVec 2) (k : BitVec 6) (s : State) (d : Digest), s.sec.dgt = d → d.owner = u →
    exec (.digestStart u alg false false k) s = .next { s with sec := { s.sec with dgt := { d with
      alg := alg
      hmac := false
      restore := false
      slot := k
      buf := []
      done := false
      active := true
      digest := []
      state := dgtSplit alg.toNat (algInit alg.toNat)
      len := 0 } } } ∧
    (dgtSlotAllowed s u k.toNat = false → exec (.digestStart u alg true false k) s =
      .next { s with sec := { s.sec with dgt := { d with
        alg := alg
        hmac := true
        restore := false
        slot := k
        slotDenied := true } } })) ∧
  (∀ (u : Fin 3) (w : Word) (s : State) (d : Digest), s.sec.dgt = d → d.owner = u →
    (d.busy = true → exec (.digestDataWrite u w) s = .next { s with sec := { s.sec with dgt := { d with overrun := true } } }) ∧
    (d.busy = false → d.active = true → exec (.digestDataWrite u w) s = .next { s with sec := { s.sec with dgt := { d with
      buf := d.buf ++ [w]
      len := d.len + 32
      busy := decide (d.buf.length + 1 = dgtBlockWords d) } } })) ∧
  (∀ (u : Fin 3) (w : Word) (n : BitVec 2) (s : State) (d : Digest), s.sec.dgt = d → d.owner ≠ u →
    (∀ alg hmac restore k, exec (.digestStart u alg hmac restore k) s =
      .next { s with sec := { s.sec with dgt := { d with denied := true } } }) ∧
    exec (.digestDataWrite u w) s = .next { s with sec := { s.sec with dgt := { d with denied := true } } } ∧
    exec (.digestFinal u n) s = .next { s with sec := { s.sec with dgt := { d with denied := true } } } ∧
    exec (.digestRelease u) s = .next { s with sec := { s.sec with dgt := { d with denied := true } } }) ∧
  (∀ (u : Fin 3) (n : BitVec 2) (s : State), s.sec.dgt.owner = u → s.sec.dgt.active = false →
    exec (.digestFinal u n) s = .next s) ∧
  (∀ (s : State), s.sec.dgt.busy = false → exec .digestBlockDone s = .next s) ∧
  (∀ (s : State) (d : Digest), s.sec.dgt = d → d.busy = true → exec .digestBlockDone s =
    .next { s with sec := { s.sec with dgt := { d with
      busy := false
      buf := []
      state := dgtSplit d.alg.toNat (shaBlocks (algParams d.alg.toNat) (dgtJoin d.alg.toNat d.state) (dgtBufBytes d)) } } }) ∧
  (∀ (u : Fin 3) (n : BitVec 2) (s : State) (d : Digest), s.sec.dgt = d → d.owner = u → d.active = true → d.hmac = false →
    ∃ t, exec (.digestFinal u n) s = .next t ∧ t.sec.dgt.done = true ∧ t.sec.dgt.busy = false ∧ t.sec.dgt.active = false ∧
      t.sec.dgt.owner = d.owner ∧ t = { s with sec := { s.sec with dgt := t.sec.dgt } } ∧
      (n = 0 → t.sec.dgt.digest = (pieces 4 17 ((shaBytes (algParams d.alg.toNat) (shaFinish (algParams d.alg.toNat)
        (dgtJoin d.alg.toNat d.state) (dgtBufBytes d) d.len)).take (algLen d.alg.toNat))).map
          (fun b => BitVec.ofNat 32 (beVal b)))) ∧
  (∀ (s : State), s.sec.dgt.owner = 3 → s.sec.dgt.pending = 0 →
    ∃ t, exec (.digestClaimRequest 1) s = .next t ∧ t.sec.dgt.owner = 0 ∧ t.sec.dgt.pending = 0) ∧
  (∀ (s : State), s.sec.dgt.owner < 3 → s.sec.dgt.pending = 0 →
    ∃ t, exec (.digestClaimRequest 4) s = .next t ∧ t.sec.dgt.owner = s.sec.dgt.owner ∧
      t.sec.dgt.pending = if s.sec.dgt.owner = 2 then 0 else 4) ∧
  (∀ (u : Fin 3) (s : State), s.sec.dgt.owner = u → s.sec.dgt.pending = 0 →
    ∃ t, exec (.digestRelease u) s = .next t ∧ t.sec.dgt.owner = 3 ∧ t.sec.dgt.state = [] ∧ t.sec.dgt.digest = [] ∧
      t.sec.dgt.active = false ∧ ∀ h, s.kiosk.claims = [(claimKey 7 0, { holder := h })] → claimHolder t 7 0 = none) ∧
  (∀ (s : State), s.sec.dgt.owner = 2 → exec .digestWindowIdleTimeout s =
    .next (record 8 8 1 (.claim 7 0) (leN 1 2) (dgtRelease s))) ∧
  (∀ (s : State), s.sec.dgt.owner ≠ 2 → exec .digestWindowIdleTimeout s = .next s) ∧
  (∀ (ok : Bool) (s : State), s.sec.pkaQ = [] → exec (.pkaOperationDone ok) s = .next s) ∧
  (∀ (ok : Bool) (s : State) (op : Nat) (rest : List Nat), s.sec.pkaQ = op :: rest → exec (.pkaOperationDone ok) s =
    .next { s with sec := { s.sec with
      pkaQ := rest
      pkaFault := !ok
      pkaOps := satAdd 16 s.sec.pkaOps 1
      pkaOp := rest.headD s.sec.pkaOp } }) ∧
  (∀ (s : State), exec (.rngHealthTrip false false) s =
      .next { s with sec := { s.sec with rct := satAdd 16 s.sec.rct 1 } } ∧
    exec (.rngHealthTrip true false) s = .next { s with sec := { s.sec with apt := satAdd 16 s.sec.apt 1 } } ∧
    exec (.rngHealthTrip true true) s = .next (record 8 1 3 (.engineCore 8 0) (leN 1 1) { s with sec := { s.sec with
      apt := satAdd 16 s.sec.apt 1
      rngHalted := true
      rngReady := false } })) ∧
  (∀ (s : State), (s.sec.rngHalted = false → exec .drbgReseed s = .next { s with sec := { s.sec with
      drbgReqs := 0
      rngReady := true } }) ∧
    (s.sec.rngHalted = true → exec .drbgReseed s = .next s))

/-- R10, R34, R36, R39, R54, Tables 2.1 to 2.8, 12.8, 16.6 and 16.9: every answer is a next state, settled. REGISTER_WRITE: in
BAR0 the doorbell of an idle mailbox rings it, the response area discards, an access that is not an aligned 32-bit one of a
register is discarded with an event; in BAR1 the event vector and the MSI-X table take what is written; in the window a write
of another size, of no register or of a dark block does nothing, EVR_NEXT_SEQ takes a value unless locked, EVR_PERSIST_SEQ,
CNS_AGE.period and MON_FILTER take theirs. CLAIM_ENABLE_WRITE serves the lowest enabled user, names the expert session in the
claim table for a bit that it sets, records an arbitration when two users are enabled, releases at no user, and ignores a
resource that does not exist. FUNCTION_LEVEL_RESET returns every mailbox (flrMbx), the MSI-X table, its pending bits and the
event vector to their reset state, and ends a session that the control port opened. -/
def Obligations.RegisterWritesAndFunctionReset : Prop :=
  (∀ (n : Fin 64) (data : Bytes) (s : State), data.length = 4 → (mbxOf s n).state = .idle → n ≠ 63 →
    (mbxOf s n).cancel = false → leVal data = 1 →
    exec (.registerWrite .bar0 (n.val * 0x400 + 0x3C0) data) s = .next (settle (mbxRing n s))) ∧
  (∀ (n : Fin 64) (off : Nat) (data : Bytes) (s : State), 0x200 ≤ off → off < 0x3C0 → data.length = 4 → off % 4 = 0 →
    exec (.registerWrite .bar0 (n.val * 0x400 + off) data) s = .next (settle s)) ∧
  (∀ (addr : Nat) (data : Bytes) (s : State), addr / 0x400 < 64 → 0x3C0 ≤ addr % 0x400 → data.length ≠ 4 →
    exec (.registerWrite .bar0 addr data) s =
      .next (settle (record 1 1 1 .none (leN 1 0 ++ leN 2 addr ++ leN 2 data.length) s))) ∧
  (∀ (data : Bytes) (s : State) (v : Word), data.length = 4 → v = BitVec.ofNat 32 (leVal data) →
    exec (.registerWrite .bar1 0x10 data) s = .next (settle { s with kiosk := { s.kiosk with
      evtVector := BitVec.ofNat 6 (v.toNat % 64)
      evtEn := v.getLsbD 8 } })) ∧
  (∀ (i : Fin 64) (data : Bytes) (s : State), data.length = 4 → s.kiosk.msixPba.getLsbD i = false →
    exec (.registerWrite .bar1 (0x2000 + 16 * i.val) data) s =
      .next (settle { s with kiosk := { s.kiosk with msixTab := memPuts s.kiosk.msixTab (16 * i.val) data } })) ∧
  (∀ (addr : Nat) (data : Bytes) (s : State), data.length ≠ 4 ∨ regVal 0 addr s = none ∨ regDark addr s = true →
    exec (.registerWrite .window addr data) s = .next (settle s)) ∧
  (∀ (data : Bytes) (s : State) (v : Word), data.length = 4 → v = BitVec.ofNat 32 (leVal data) →
    (s.evt.lock = false → exec (.registerWrite .window 0x1200001C data) s =
      .next (settle { s with evt := { s.evt with nextSeq := v } })) ∧
    (s.evt.lock = true → exec (.registerWrite .window 0x1200001C data) s = .next (settle s)) ∧
    (exec (.registerWrite .window 0x12000018 data) s = .next (settle { s with evt := { s.evt with persistSeq := v } })) ∧
    (exec (.registerWrite .window 0x38000008 data) s =
      .next (settle { s with cns := { s.cns with agePeriod := BitVec.ofNat 16 (v.toNat % 65536) } })) ∧
    (exec (.registerWrite .window 0x39000008 data) s = .next (settle (setMon 0 { monOf s 0 with filter := v } s)))) ∧
  (∀ (i : Fin 32) (s : State), (monOf s i).en = 0 → claimHolder s 3 i = none →
    ∃ t, exec (.claimEnableWrite 3 i 4) s = .next (settle t) ∧ (monOf t i).en = 4 ∧ (monOf t i).winner = 2 ∧
      claimHolder t 3 i = some 0x0200 ∧ t = { s with
        mons := t.mons
        kiosk := t.kiosk }) ∧
  (∀ (i : Fin 32) (s : State), (monOf s i).en = 1 → claimHolder s 3 i = none →
    ∃ t, exec (.claimEnableWrite 3 i 5) s = .next (settle t) ∧ (monOf t i).en = 5 ∧ (monOf t i).winner = 0 ∧
      claimHolder t 3 i = some 0x0200 ∧ ∃ u, t.evt =
        (record 1 0x0A 1 (.claim 3 i) (leN 1 0 ++ leN 1 2 ++ leN 1 0) u).evt ∧ u.evt = s.evt) ∧
  (∀ (i : Fin 32) (s : State), (monOf s i).running = false → tget s.kiosk.claims (claimKey 3 i) = none →
    ∃ t, exec (.claimEnableWrite 3 i 0) s = .next (settle t) ∧ (monOf t i).en = 0 ∧ claimHolder t 3 i = none ∧
      (monOf t i).filter = (monOf s i).filter ∧ t.out = s.out ∧ t.evt = s.evt) ∧
  (∀ (cls i : Nat) (en : BitVec 3) (s : State), cls = 0 ∨ 4 < cls ∨ claimCount cls ≤ i →
    exec (.claimEnableWrite cls i en) s = .next (settle s)) ∧
  (∀ (s : State), s.kiosk.session = none → ∃ t, exec .functionLevelReset s = .next (settle t) ∧
    (∀ n, n < 64 → mbxOf t n = flrMbx n (mbxOf s n)) ∧ t.kiosk.evtEn = false ∧ t.kiosk.evtVector = 0 ∧
    t.kiosk.msixPba = 0 ∧ t.kiosk.msixTab = msixReset ∧ t = { s with kiosk := { s.kiosk with
      mbx := t.kiosk.mbx
      evtVector := 0
      evtEn := false
      msixTab := msixReset
      msixPba := 0 } }) ∧
  (∀ (x : Session) (s : State), s.kiosk.session = some x → x.path = .controlPort →
    ∃ t, exec .functionLevelReset s = .next (settle t) ∧ t.kiosk.session = none ∧ t.kiosk.forced = [])

/-- R436, R438, R439, R449, R450, Tables 16.3 and 16.4: every answer is a next state, settled. ERROR_SIGNAL records the error
and starts the self-test of an engine core; on a shelf it is only recorded. SELFTEST_VERDICT with no such test does nothing;
of an engine core's test, a fail is lasting and retires the core, a pass is transient, or lasting where two transient verdicts
stand within 24 hours, and an abandoned test runs again. PATH_MONITOR_READ with slack below 15 ps raises the rail's service
voltage by 5 mV, with no margin left records the end of the rail's margin and hands the head over, and with slack enough moves
no voltage. -/
def Obligations.ErrorsVerdictsAndAgeing : Prop :=
  (∀ (cls : Fin 5) (sub : Nat) (e c : Nat) (s : State), s.evt.running = [] → s.evt.waiting = [] →
    ∃ t, exec (.errorSignal cls sub (.engineCore e c)) s = .next (settle { t with evt := { t.evt with
        running := [{ subject := .engineCore e c, errSeq := some t.evt.headSeq.toNat }]
        tests := satAdd 32 s.evt.tests 1 } }) ∧
      t = record (sub % 256) 1 cls (.engineCore e c) [] s) ∧
  (∀ (cls : Fin 5) (sub g : Nat) (s : State), exec (.errorSignal cls sub (.shelf g)) s =
    .next (settle (record (sub % 256) 1 cls (.shelf g) [] s))) ∧
  (∀ (subj : Subject) (v : Verdict) (m : Nat) (s : State), (∀ t ∈ s.evt.running, t.subject ≠ subj) →
    exec (.selftestVerdict subj v m) s = .next (settle s)) ∧
  (∀ (e c q m : Nat) (s : State) (tst : SelfTest), s.evt.running = [tst] → tst.subject = .engineCore e c →
    tst.errSeq = some q → s.evt.waiting = [] → s.kiosk.jobs = [] →
    (e < 5 → (e, c) ∉ s.evt.coresRetired → ∃ t, exec (.selftestVerdict (.engineCore e c) .fail m) s =
        .next (settle t) ∧ t.evt.running = [] ∧ t.evt.lasting = satAdd 16 s.evt.lasting 1 ∧
        t.evt.coresRetired = (e, c) :: s.evt.coresRetired) ∧
    (e < 5 → (e, c) ∉ s.evt.coresRetired → 2 ≤ transients s (.engineCore e c) →
      ∃ t, exec (.selftestVerdict (.engineCore e c) .pass m) s = .next (settle t) ∧ t.evt.running = [] ∧
        t.evt.lasting = satAdd 16 s.evt.lasting 1 ∧ t.evt.coresRetired = (e, c) :: s.evt.coresRetired) ∧
    (transients s (.engineCore e c) < 2 → ∃ t, exec (.selftestVerdict (.engineCore e c) .pass m) s =
        .next (settle t) ∧ t.evt.running = [] ∧ t.evt.transient = satAdd 16 s.evt.transient 1 ∧
        t.evt.coresRetired = s.evt.coresRetired ∧ t.evt.unrestored.all (fun p => decide (p.1 ≠ .engineCore e c)) = true) ∧
    (∃ t, exec (.selftestVerdict (.engineCore e c) .abandoned m) s = .next (settle t) ∧ t.evt.running = [tst] ∧
        t.evt.waiting = [] ∧ t.evt.lasting = s.evt.lasting ∧ t.evt.transient = s.evt.transient)) ∧
  (∀ (ps : Nat) (s : State), ps < 15 → marginOf s 0 ≠ 0 →
    ∃ t, exec (.pathMonitorRead [(0, ps)]) s = .next (settle t) ∧
      t.ghx.svc = s.ghx.svc.set 0 (min (railHigh 0) (svcOf s 0 + 5))) ∧
  (∀ (ps : Nat) (s : State), ps < 15 → marginOf s 0 = 0 → s.evt.ageingOut = false → s.evt.ageingWarn = true →
    exec (.pathMonitorRead [(0, ps)]) s =
      .next (settle (handOffFenced (note 9 6 4 { s with evt := { s.evt with ageingOut := true } })))) ∧
  (∀ (ps : Nat) (s : State), 15 ≤ ps → ∃ t, exec (.pathMonitorRead [(0, ps)]) s = .next (settle t) ∧
      t.ghx = s.ghx ∧ t.gh = s.gh)

/-- R440, R442, R444, R446, R447, Tables 16.6 and 16.9: every answer is a next state. MON_CTL_ARM clears the values and opens
the window, MON_CTL_STOP ends it, MON_CTL_SNAP refreshes the shadow, MON_WINDOW_END ends it with window_ms as the elapsed time
(else the elapsed time is a free value, log entry 7); on a unit that does not run a stop and a window's end do nothing.
EVR_RD_DATA_READ returns the word at the offset and moves on by 4; EVR_SEQ_LOCK sets the lock; EVENT_LOG_APPEND takes what the
log lacks, moves EVR_PERSIST_SEQ and, after lost records, writes one records-lost record first; EVENT_SUMMARY_WRITE goes to
the copy that does not hold the newer one. -/
def Obligations.MonitorsAndEventRecorder : Prop :=
  (∀ (u : Fin 32) (s : State), ∃ t, exec (.monCtlArm u) s = .next t ∧ monOf t u = { monOf s u with
      running := true
      armStamp := s.mons.stamp + 1
      live := {} } ∧ t = { s with mons := t.mons }) ∧
  (∀ (u : Fin 32) (s : State), (monOf s u).running = true →
    (∃ t v, exec (.monCtlStop u) s = .next t ∧ monOf t u = { monOf s u with
        running := false
        live := v
        shadow := v } ∧ v = { (monOf s u).live with elapsed := v.elapsed } ∧ t = { s with
        mons := t.mons
        draws := s.draws + 1 }) ∧
    (∃ t v, exec (.monCtlSnap u) s = .next t ∧ monOf t u = { monOf s u with
        live := v
        shadow := v } ∧ v = { (monOf s u).live with elapsed := v.elapsed } ∧ t = { s with
        mons := t.mons
        draws := s.draws + 1 }) ∧
    ((monOf s u).windowMs ≠ 0 → ∃ t v, exec (.monWindowEnd u) s = .next t ∧ monOf t u = { monOf s u with
        running := false
        live := v
        shadow := v } ∧ v = { (monOf s u).live with elapsed := (monOf s u).windowMs.toNat } ∧
        t = { s with mons := t.mons })) ∧
  (∀ (u : Fin 32) (s : State), (monOf s u).running = false → exec (.monCtlStop u) s = .next s ∧
    exec (.monCtlSnap u) s = .next (setMon u { monOf s u with shadow := (monOf s u).live } s) ∧
    exec (.monWindowEnd u) s = .next s) ∧
  (∀ (s : State), exec .evrRdDataRead s = .next { s with
      evt := { s.evt with rdOff := BitVec.ofNat 16 (s.evt.rdOff.toNat / 4 * 4 + 4) }
      out := s.out ++ [.regWord (BitVec.ofNat 32 (leVal (memGets s.evt.ring (s.evt.rdOff.toNat / 4 * 4) 4)))] }) ∧
  (∀ (s : State), exec .evrSeqLock s = .next { s with evt := { s.evt with lock := true } }) ∧
  (∀ (s : State), s.evt.lostReported < s.evt.lost → ∃ t, exec .eventLogAppend s = .next t ∧
    t.evt.persistSeq = t.evt.headSeq ∧ t.evt.sinceAppend = 0 ∧ t.evt.lostReported = t.evt.lost ∧ t = { s with evt := t.evt }) ∧
  (∀ (s : State), s.evt.lost = s.evt.lostReported → ∃ t, exec .eventLogAppend s = .next t ∧
    t.evt.persistSeq = s.evt.headSeq ∧ t.evt.sinceAppend = 0 ∧ t.evt.lostReported = t.evt.lost ∧ t.evt.recs = s.evt.recs ∧ t.evt.ring = s.evt.ring ∧
    t = { s with evt := t.evt } ∧ (∀ r, s.evt.recs = [r] → r.typ ≠ 0 → s.evt.log = [] → s.evt.logPlace = 0 →
      s.evt.newestAppended = none →
      t.evt.log = [{ r with off := 0 }] ∧ t.evt.newestAppended = some (r.seq, r.repeats))) ∧
  (∀ (s : State), ∃ (t : State) (x : EvSummary), exec .eventSummaryWrite s = .next t ∧
    x.generation = (bestSummary s.evt).elim 0 EvSummary.generation + 1 ∧ x.newest = s.evt.headSeq.toNat ∧
    (∀ r ∈ x.recs, 2 ≤ r.cls) ∧ (t.evt.sum0 = some x ∧ t.evt.sum1 = s.evt.sum1 ∨ t.evt.sum0 = s.evt.sum0 ∧ t.evt.sum1 = some x) ∧
    (∀ a b, s.evt.sum0 = some a → s.evt.sum1 = some b → 
      (a.generation < b.generation → t.evt.sum0 = some x) ∧ (b.generation ≤ a.generation → t.evt.sum1 = some x)) ∧
    t.evt.sumSince = [0, 0, 0, 0, 0] ∧ t = { s with evt := t.evt })

/-- R343: where a main-window address lies; while every mask keeps its rule the mapping is one-to-one; a write of a mask that breaks
the rule is discarded and an event is recorded. -/
def Obligations.MainWindowIsOneToOne : Prop :=
  (∀ (s : State) (pa q : Nat), pa < 24 * s.dram.mainGib * 2 ^ 30 → q = pa / 256 / 3 →
    placeAddr s pa =
      (8 * (pa / 256 % 3) + (b2n (parityN (q % 2 ^ 34 &&& (s.dram.chanHash.getD 0 0).toNat)) +
        2 * b2n (parityN (q % 2 ^ 34 &&& (s.dram.chanHash.getD 1 0).toNat)) +
        4 * b2n (parityN (q % 2 ^ 34 &&& (s.dram.chanHash.getD 2 0).toNat))), q / 8 * 256 + pa % 256)) ∧
  (∀ (s : State) (pa pa' : Nat), (∀ i < 3, chanMaskOk i (s.dram.chanHash.getD i 0) = true) →
    pa < 24 * s.dram.mainGib * 2 ^ 30 → pa' < 24 * s.dram.mainGib * 2 ^ 30 → placeAddr s pa = placeAddr s pa' → pa = pa') ∧
  (∀ (i : Nat) (m : BitVec 34), chanMaskOk i m = true ↔ ∀ j < 3, m.getLsbD j = decide (j = i)) ∧
  (∀ (i : Fin 3) (m : BitVec 34) (s : State), dramLocked s = false → chanMaskOk i m = false →
    exec (.dmcChanHashWrite i m) s = .next (record 6 9 2 .none (leN 1 i ++ leN 5 m.toNat) s))

/-- R445: an event of the newest record's type and subject merges into it while its repeat is below 0xFFFF, and adds no record; any
other event starts a new record. -/
def Obligations.EventsMerge : Prop :=
  (∀ (sub lo cls : Nat) (subj : Subject) (detail : Bytes) (s : State) (r : EvRec), s.evt.recs.getLast? = some r →
    r.typ = 256 * sub + lo → r.subject = subj → r.repeats < 0xFFFF →
    ∃ ring, record sub lo cls subj detail s = { s with evt := { s.evt with
      ring := ring
      recs := s.evt.recs.dropLast ++ [{ r with
        repeats := r.repeats + 1
        lastSeen := satW 32 (optime s - (r.hours * 3600 + r.seconds)) }]
      mergeCnt := s.evt.mergeCnt + 1 } }) ∧
  (∀ (sub lo cls : Nat) (subj : Subject) (detail : Bytes) (s : State),
    (∀ r, s.evt.recs.getLast? = some r → r.typ ≠ 256 * sub + lo ∨ r.subject ≠ subj ∨ 0xFFFF ≤ r.repeats) →
    ∃ r, (record sub lo cls subj detail s).evt.recs.getLast? = some r ∧ r.typ = 256 * sub + lo ∧ r.subject = subj ∧
      r.repeats = 0 ∧ (record sub lo cls subj detail s).evt.mergeCnt = s.evt.mergeCnt) ∧
  (∀ (cls : Fin 5) (sub g : Nat) (s : State),
    exec (.errorSignal cls sub (.shelf g)) s = .next (settle (record (sub % 256) 1 cls (.shelf g) [] s)))

/-- R441: the bucket of a latency, what each bucket holds and how wide it is, and what one counted transaction adds; every counter
saturates. -/
def Obligations.LatencyHistogram : Prop :=
  (∀ l, l < 4 → monBucket l = l) ∧
  (∀ l, 4 ≤ l → l < 131072 → monBucket l = 4 * (Nat.log2 l - 1) + l / 2 ^ (Nat.log2 l - 2) % 4) ∧
  (∀ l b, l < 131072 → 4 ≤ b → b ≤ 63 →
    (monBucket l = b ↔ (4 + b % 4) * 2 ^ (b / 4 - 1) ≤ l ∧ l < (5 + b % 4) * 2 ^ (b / 4 - 1))) ∧
  (∀ l, 131072 ≤ l → monBucket l = 63) ∧ monBucket 1000 = 35 ∧
  (∀ b, 4 ≤ b → 4 * ((5 + b % 4) * 2 ^ (b / 4 - 1) - (4 + b % 4) * 2 ^ (b / 4 - 1)) ≤ (4 + b % 4) * 2 ^ (b / 4 - 1)) ∧
  (∀ (l : Nat) (v : MonVals), monAdd l v = { v with
    count := min (v.count + 1) (2 ^ 64 - 1)
    sum := min (v.sum + l) (2 ^ 64 - 1)
    min := min v.min (min l (2 ^ 32 - 1))
    max := max v.max (min l (2 ^ 32 - 1))
    overCnt := if 131072 ≤ l then min (v.overCnt + 1) (2 ^ 32 - 1) else v.overCnt
    buckets := tset v.buckets (monBucket l) (min (tgetD v.buckets (monBucket l) 0 + 1) (2 ^ 32 - 1)) })

/-- Tables 2.7, 10.19, 12.8, 12.9, 13.3, 14.15, 14.16, 15.11, 16.6 and 16.9: what the registers of the head read as after reset; no
command waits and no memory byte is listed but the masks of the MSI-X table (log entry 3). -/
def Obligations.RegistersAfterReset : Prop :=
  regVal 0 0x10000004 State.reset = some 1 ∧ regVal 0 0x10000014 State.reset = some 3 ∧
  regVal 0 0x10000020 State.reset = some 2000 ∧ regVal 0 0x10000028 State.reset = some 1000 ∧
  regVal 0 0x11000010 State.reset = some 0 ∧ regVal 0 0x1200001C State.reset = some 0 ∧
  regVal 0 0x21000004 State.reset = some 0xC0 ∧ regVal 0 0x22000000 State.reset = some 0 ∧
  regVal 0 0x30000000 State.reset = some 0 ∧ regVal 0 0x30000004 State.reset = some 0x8F ∧
  regVal 0 0x30000100 State.reset = some 0x802100 ∧ regVal 0 0x30000310 State.reset = some 0x1F80 ∧
  regVal 0 0x38000000 State.reset = some 0xFFFF ∧ regVal 0 0x38000008 State.reset = some 1000 ∧
  regVal 0 0x38000040 State.reset = some 0x108421 ∧ regVal 0 0x38000088 State.reset = some 1 ∧
  regVal 0 0x39000008 State.reset = some 0xFFFFFFFF ∧ regVal 0 0x39000020 State.reset = some 0xFFFFFFFF ∧
  regVal 0 0x40000018 State.reset = some 400 ∧ regVal 0 0x4000001C State.reset = some 1 ∧
  (∀ n : Fin 64, (mbxOf State.reset n).state = .idle ∧ (mbxOf State.reset n).vector = BitVec.ofNat 6 n) ∧
  (∀ k : Fin 4096, (slotOf State.reset k).key = []) ∧ (∀ p : Fin 1024, (portOf State.reset p).state = 0) ∧
  (∀ n : Fin 16384, (qpOf State.reset n).st = .free) ∧ State.reset.pending = [] ∧ State.reset.evt.ring = [] ∧
  State.reset.sec.lodgeMem = []

/-- One step runs the command at the front of the queue with the queue's rest; on an empty queue one tick passes (the model's
choice, log entry 8): every DRAM channel may serve the request that its schedule chooses (R352), and the Dovecote reload loads
its next bucket (R191). -/
def Obligations.FrontCommandRuns : Prop :=
  (∀ (c : Instr) (rest : List Instr) (s : State), s.pending = c :: rest → step s = exec c { s with pending := rest }) ∧
  (∀ (s : State), s.pending = [] → step s = .next (loadNext (dramTick s)) ∧ (loadNext (dramTick s)).pending = [])

/-- No command of the table ends in a fault or a refusal, in any state; that a command which cannot occur in a state
leaves it as it is rests on the model's choice (log entry 46). -/
def Obligations.EveryCommandCompletes : Prop :=
  (∀ (c : Instr) (s : State), ∃ t, exec c s = .next t) ∧ (∀ (k : Nat) (s : State), SafeRun k s)

/-- The invariant of the head holds after reset. -/
def Obligations.InvariantAtReset : Prop := HeadInv State.reset

/-- Every step keeps the invariant of the head: the masks of both address maps keep their rules, the key data registers are eight, the
rollback and power-cycle counts stay within their widths, and every byte store stays canonical. -/
def Obligations.StepKeepsInvariant : Prop :=
  ∀ (s t : State), HeadInv s → step s = .next t → HeadInv t

/-- A step takes exactly the front command off the queue: no command adds to what waits, drops it or reorders it. -/
def Obligations.StepTakesOneCommand : Prop :=
  ∀ (s t : State) (c : Instr) (rest : List Instr), s.pending = c :: rest → step s = .next t → t.pending = rest

/-- R403: no step lowers the count of blown rollback fuses. -/
def Obligations.RollbackCountNeverFalls : Prop :=
  ∀ (s t : State), HeadInv s → step s = .next t → s.sec.fuseCount ≤ t.sec.fuseCount
end

