-- ==== Sys2Proof/Laws/Memory.lean ====
section
/-!
SUPPORT. Laws/Memory.lean: byte stores and sparse tables: a read after a write, and the canonical form of a store, which
every write keeps and which the stores have at reset.
-/
namespace Sys2Proof.Machine

/-! ### Byte stores -/

/-- The address of the first cell lies above a. -/
def Memory.above (a : Nat) : Mem → Prop
  | [] => True
  | (a', _) :: _ => a < a'

theorem Memory.wf_cons {a : Nat} {b : Byte} {m : Mem} :
    Memory.wf ((a, b) :: m) = true ↔ b ≠ 0 ∧ Memory.above a m ∧ Memory.wf m = true := by
  cases m with
  | nil => simp [Memory.wf, Memory.above]
  | cons c m => obtain ⟨a', b'⟩ := c; simp [Memory.wf, Memory.above, and_assoc]

theorem Memory.above_trans {a a' : Nat} {m : Mem} (h : a ≤ a') (hm : Memory.above a' m) : Memory.above a m := by
  cases m with
  | nil => trivial
  | cons c m => exact Nat.lt_of_le_of_lt h hm

/-- An address at or below the start of a canonical store reads as 0. -/
theorem memGet_of_above {a : Nat} {m : Mem} (hm : Memory.above a m) (hw : Memory.wf m = true) : memGet m a = 0 := by
  induction m with
  | nil => rfl
  | cons c m ih =>
    obtain ⟨a', b'⟩ := c
    obtain ⟨_, h2, h3⟩ := Memory.wf_cons.1 hw
    have hlt : a < a' := hm
    have hne : a' ≠ a := by omega
    simp only [memGet, hne, if_false]
    exact ih (Memory.above_trans (Nat.le_of_lt hlt) h2) h3

theorem memPut_above {k a : Nat} {b : Byte} {m : Mem} (hk : k < a) (hm : Memory.above k m) (hw : Memory.wf m = true) :
    Memory.above k (memPut m a b) := by
  cases m with
  | nil => unfold memPut; split <;> simp [Memory.above, hk]
  | cons c m =>
    obtain ⟨a', b'⟩ := c
    have h : k < a' := hm
    unfold memPut
    split
    · split <;> assumption
    · split
      · split
        · exact Memory.above_trans (Nat.le_of_lt h) (Memory.wf_cons.1 hw).2.1
        · exact hk
      · exact h

/-- Storing a byte keeps the canonical form. -/
theorem memPut_wf {a : Nat} {b : Byte} {m : Mem} (h : Memory.wf m = true) : Memory.wf (memPut m a b) = true := by
  induction m with
  | nil => unfold memPut; split <;> simp_all [Memory.wf]
  | cons c m ih =>
    obtain ⟨a', b'⟩ := c
    obtain ⟨h1, h2, h3⟩ := Memory.wf_cons.1 h
    unfold memPut
    split
    · rename_i hlt
      split
      · exact h
      · rename_i hb; exact Memory.wf_cons.2 ⟨hb, hlt, h⟩
    · split
      · rename_i heq; subst heq
        split
        · exact h3
        · rename_i hb; exact Memory.wf_cons.2 ⟨hb, h2, h3⟩
      · exact Memory.wf_cons.2 ⟨h1, memPut_above (by omega) h2 h3, ih h3⟩

/-- Storing a byte string keeps the canonical form. -/
theorem memPuts_wf {a : Nat} {bs : Bytes} {m : Mem} (h : Memory.wf m = true) : Memory.wf (memPuts m a bs) = true := by
  induction bs generalizing m a with
  | nil => exact h
  | cons b bs ih => exact ih (memPut_wf h)

/-- A byte reads back as stored, and every other byte as before. -/
theorem memGet_memPut {a x : Nat} {b : Byte} {m : Mem} (h : Memory.wf m = true) :
    memGet (memPut m a b) x = if x = a then b else memGet m x := by
  induction m with
  | nil =>
    unfold memPut
    split
    · rename_i hb; subst hb; simp [memGet]
    · simp only [memGet]; split <;> split <;> simp_all
  | cons c m ih =>
    obtain ⟨a', b'⟩ := c
    obtain ⟨h1, h2, h3⟩ := Memory.wf_cons.1 h
    unfold memPut
    split
    · rename_i hlt
      split
      · rename_i hb
        subst hb
        split
        · rename_i hx; subst hx; exact memGet_of_above (m := (a', b') :: m) hlt h
        · rfl
      · simp only [memGet]
        by_cases hx : x = a
        · subst hx; simp
        · simp [hx, Ne.symm hx]
    · split
      · rename_i heq
        subst heq
        by_cases hx : x = a
        · subst hx
          split
          · rename_i hb; subst hb; simpa [memGet] using memGet_of_above h2 h3
          · simp [memGet]
        · have hx' : a ≠ x := fun e => hx e.symm
          split <;> simp [memGet, hx']
      · simp only [memGet]
        by_cases hx : a' = x
        · have hxa : x ≠ a := by omega
          simp [hx, hxa]
        · simp only [hx, if_false]
          exact ih h3

/-- A byte string reads back as stored, and every other byte as before. -/
theorem memGet_memPuts {a x : Nat} {bs : Bytes} {m : Mem} (h : Memory.wf m = true) :
    memGet (memPuts m a bs) x = if a ≤ x ∧ x < a + bs.length then bs.getD (x - a) 0 else memGet m x := by
  induction bs generalizing m a with
  | nil =>
    have hn : ¬ (a ≤ x ∧ x < a + ([] : Bytes).length) := by simp only [List.length_nil]; omega
    rw [if_neg hn]; rfl
  | cons b bs ih =>
    rw [memPuts, ih (memPut_wf h), memGet_memPut h]
    by_cases h1 : x = a
    · subst h1
      have hn : ¬ (x + 1 ≤ x ∧ x < x + 1 + bs.length) := by omega
      rw [if_neg hn]; simp
    · by_cases h2 : a + 1 ≤ x ∧ x < a + 1 + bs.length
      · have h3 : a ≤ x ∧ x < a + (b :: bs).length := by simp only [List.length_cons]; omega
        have h4 : x - a = (x - (a + 1)) + 1 := by omega
        rw [if_pos h2, if_pos h3, h4, List.getD_cons_succ]
      · have h3 : ¬ (a ≤ x ∧ x < a + (b :: bs).length) := by simp only [List.length_cons]; omega
        rw [if_neg h2, if_neg h3, if_neg h1]

/-- The stores at reset are canonical: mailboxes, the event ring, Lodge memory and the MSI-X table. -/
theorem reset_stores_wf : Memory.wf State.reset.kiosk.msixTab = true ∧ Memory.wf State.reset.evt.ring = true ∧
    Memory.wf State.reset.sec.lodgeMem = true ∧ State.reset.kiosk.mbx = [] := by
  refine ⟨by decide, rfl, rfl, rfl⟩

/-! ### Sparse tables -/

/-- A table entry reads back as set. -/
theorem tget_tset_self {α : Type} (t : Tab α) (k : Nat) (v : α) : tget (tset t k v) k = some v := by
  induction t with
  | nil => simp [tset, tget]
  | cons e t ih =>
    obtain ⟨k', v'⟩ := e
    unfold tset
    split
    · simp [tget]
    · split
      · simp [tget]
      · have h : k' ≠ k := by omega
        simp [tget, h, ih]

/-- Setting one entry leaves every other. -/
theorem tget_tset_other {α : Type} (t : Tab α) {k j : Nat} (v : α) (h : j ≠ k) : tget (tset t k v) j = tget t j := by
  induction t with
  | nil => simp [tset, tget, h.symm]
  | cons e t ih =>
    obtain ⟨k', v'⟩ := e
    unfold tset
    split
    · simp [tget, h.symm]
    · split
      · rename_i h2; subst h2; simp [tget, h.symm]
      · simp [tget, ih]

/-- What a table gives for a key is an entry of it. -/
theorem tget_mem {α : Type} {t : Tab α} {k : Nat} {v : α} (h : tget t k = some v) : (k, v) ∈ t := by
  induction t with
  | nil => cases h
  | cons e t ih =>
    obtain ⟨k', v'⟩ := e
    unfold tget at h
    split at h
    · rename_i he; cases h; subst he; exact List.mem_cons_self
    · exact List.mem_cons_of_mem _ (ih h)

/-- An entry of a table after one was set is that one, or was there before. -/
theorem mem_tset {α : Type} {t : Tab α} {k : Nat} {v : α} {e : Nat × α} (h : e ∈ tset t k v) : e = (k, v) ∨ e ∈ t := by
  induction t with
  | nil => exact Or.inl (List.mem_singleton.1 h)
  | cons d t ih =>
    obtain ⟨k', v'⟩ := d
    unfold tset at h
    split at h
    · exact List.mem_cons.1 h
    · split at h
      · rcases List.mem_cons.1 h with h | h
        · exact Or.inl h
        · exact Or.inr (List.mem_cons_of_mem _ h)
      · rcases List.mem_cons.1 h with h | h
        · exact Or.inr (h ▸ List.mem_cons_self)
        · rcases ih h with h | h
          · exact Or.inl h
          · exact Or.inr (List.mem_cons_of_mem _ h)

theorem tgetD_tset_self {α : Type} (t : Tab α) (k : Nat) (v d : α) : tgetD (tset t k v) k d = v := by
  simp [tgetD, tget_tset_self]

theorem tgetD_tset_other {α : Type} (t : Tab α) {k j : Nat} (v d : α) (h : j ≠ k) :
    tgetD (tset t k v) j d = tgetD t j d := by
  simp [tgetD, tget_tset_other t v h]

theorem Tab.wf_cons {α : Type} {k : Nat} {v : α} {t : Tab α} (h : Tab.wf ((k, v) :: t) = true) :
    (∀ e ∈ t, k < e.1) ∧ Tab.wf t = true := by
  induction t generalizing k v with
  | nil => simp [Tab.wf]
  | cons e t ih =>
    obtain ⟨k', v'⟩ := e
    have h1 : k < k' ∧ Tab.wf ((k', v') :: t) = true := by
      simpa only [Tab.wf, Bool.and_eq_true, decide_eq_true_eq] using h
    obtain ⟨h2, h3⟩ := ih h1.2
    refine ⟨fun e he => ?_, h1.2⟩
    rcases List.mem_cons.1 he with rfl | he
    · exact h1.1
    · exact Nat.lt_trans h1.1 (h2 e he)

theorem tget_none_of_lt {α : Type} {t : Tab α} {k : Nat} (h : ∀ e ∈ t, k < e.1) : tget t k = none := by
  induction t with
  | nil => rfl
  | cons e t ih =>
    obtain ⟨k', v'⟩ := e
    have h1 : k < k' := h (k', v') (List.mem_cons_self ..)
    have h2 : k' ≠ k := by omega
    simp only [tget, h2, if_false]
    exact ih (fun e he => h e (List.mem_cons_of_mem _ he))

/-- A removed key is gone. -/
theorem tget_terase_self {α : Type} {t : Tab α} (k : Nat) (h : Tab.wf t = true) : tget (terase t k) k = none := by
  induction t with
  | nil => rfl
  | cons e t ih =>
    obtain ⟨k', v'⟩ := e
    obtain ⟨h1, h2⟩ := Tab.wf_cons h
    unfold terase
    split
    · rename_i hk; subst hk; exact tget_none_of_lt h1
    · rename_i hk; simp [tget, hk, ih h2]

/-- Removing one key leaves every other. -/
theorem tget_terase_other {α : Type} {t : Tab α} {j k : Nat} (h : j ≠ k) : tget (terase t k) j = tget t j := by
  induction t with
  | nil => rfl
  | cons e t ih =>
    obtain ⟨k', v'⟩ := e
    unfold terase
    split
    · rename_i hk; subst hk; simp [tget, h.symm]
    · simp [tget, ih]

/-- Setting one entry twice is setting it once. -/
theorem tset_tset {α : Type} (t : Tab α) (k : Nat) (v w : α) : tset (tset t k v) k w = tset t k w := by
  induction t with
  | nil => simp [tset]
  | cons e t ih =>
    obtain ⟨k', v'⟩ := e
    by_cases h : k < k'
    · simp [tset, h]
    · by_cases h2 : k = k'
      · simp [tset, h2]
      · simp [tset, h, h2, ih]

end Sys2Proof.Machine
end

