-- ==== Sys2Proof/Laws/Basmos.lean ====
section
/-!
SUPPORT. Laws/Basmos.lean: what the frame of a Basmos command does with a request that has been taken, and how an
answer of one part is written (R36, R39, R43, R44).
-/
namespace Sys2Proof.Machine

/-- A mailbox reads back as set. -/
theorem mbxOf_setMbx_self (n : Nat) (m : Mbx) (s : State) : mbxOf (setMbx n m s) n = m :=
  tgetD_tset_self _ _ _ _

/-- Setting one mailbox leaves the others. -/
theorem mbxOf_setMbx_other {n k : Nat} (m : Mbx) (s : State) (h : k ≠ n) : mbxOf (setMbx n m s) k = mbxOf s k :=
  tgetD_tset_other _ _ _ h

/-- Setting a mailbox twice is setting it once. -/
theorem setMbx_setMbx (n : Nat) (m m' : Mbx) (s : State) : setMbx n m' (setMbx n m s) = setMbx n m' s := by
  simp [setMbx, tset_tset]

/-- A taken request whose payload has the opcode's layout reaches its handler. -/
theorem basmos_taken {s : State} {n op : Nat} {p : Bytes} {msg : BMsg} (h : Taken s n op p msg)
    {layout : Bytes → Bool} (hl : layout p = true) (f : Bytes → State → BAns × State) :
    basmos n op layout f s = (match f p s with
      | (.now r, t) => answer n msg r t
      | (.later, t) => setMbx n { mbxOf t n with longRun := true } t) := by
  obtain ⟨h1, h2, h3, h4, rfl, rfl, h7⟩ := h
  unfold basmos
  simp only [h1, h2, h3, h4, h7, hl]
  rcases f msg.payload s with ⟨r | _, t⟩ <;> simp

/-- The handler answers at once. -/
theorem basmos_now {s t : State} {n op : Nat} {p : Bytes} {msg : BMsg} (h : Taken s n op p msg)
    {layout : Bytes → Bool} (hl : layout p = true) {f : Bytes → State → BAns × State} {r : BRes}
    (hf : f p s = (.now r, t)) : basmos n op layout f s = answer n msg r t := by
  rw [basmos_taken h hl, hf]

/-- The handler's answer waits for a later event. -/
theorem basmos_later {s t : State} {n op : Nat} {p : Bytes} {msg : BMsg} (h : Taken s n op p msg)
    {layout : Bytes → Bool} (hl : layout p = true) {f : Bytes → State → BAns × State}
    (hf : f p s = (.later, t)) : basmos n op layout f s = setMbx n { mbxOf t n with longRun := true } t := by
  rw [basmos_taken h hl, hf]

/-- A request asked to cancel before anything is applied ends ABORTED (R39). -/
theorem basmos_cancelled {s : State} {n op : Nat} {msg : BMsg} (h1 : (mbxOf s n).msg = some msg)
    (h2 : (mbxOf s n).state = .running) (h3 : (mbxOf s n).longRun = false) (h4 : (mbxOf s n).cancel = true)
    (h5 : msg.opcode = op) (layout : Bytes → Bool) (f : Bytes → State → BAns × State) :
    basmos n op layout f s = answer n msg (.fail .aborted) s := by
  unfold basmos
  simp [h1, h2, h3, h4, h5]

/-- A command that starts a job while fewer than 256 run answers its number and goes on with the job entered. -/
theorem withJob_free {s : State} (h : JobFree s) (op subj aux : Nat) (f : Nat → State → State) :
    withJob op subj aux s f = (.now (jobReply s), f s.kiosk.jobCount (started op subj aux s)) := by
  unfold JobFree at h
  simp only [withJob, startJob, Nat.not_le.2 h, if_false, jobAnswer, jobReply, started]

/-- With 256 jobs running the command fails EXHAUSTED and changes nothing. -/
theorem withJob_full {s : State} (h : 256 ≤ jobsRunning s) (op subj aux : Nat) (f : Nat → State → State) :
    withJob op subj aux s f = (.now (.fail .exhausted), s) := by
  simp only [withJob, startJob, h, if_true, refuse]

/-- A payload of at most 432 bytes is one response part (R44). -/
theorem cutParts_one (k : Nat) {p : Bytes} (h : p.length ≤ 432) : cutParts (k + 1) p = [p] := by
  simp [cutParts, h]

/-- A response that no Function Level Reset discards: the mailbox is DONE with it, every other mailbox is as before, and
outside the Kiosk only the outward trace and the monitors' books change. -/
theorem finishMbx_done (n : Nat) (resp : Bytes) (s : State) (h : (mbxOf s n).discard = false) :
    ∃ k o e, finishMbx n resp s = { s with kiosk := k, out := o, mons := e } ∧ (mbxOf (finishMbx n resp s) n) = { mbxOf s n with
      msg := none, partAck := false, longRun := false, cancel := false, ticket := none
      resp := memPuts [] 0 (fit 448 resp), respLen := BitVec.ofNat 9 resp.length, lastSeq := BitVec.ofNat 16 (fieldLE resp 2 2)
      status := byteAt resp 7, state := .done } ∧ ∀ j, j ≠ n → mbxOf (finishMbx n resp s) j = mbxOf s j := by
  let m' := { mbxOf s n with
      msg := none, partAck := false, longRun := false, cancel := false, ticket := none
      resp := memPuts [] 0 (fit 448 resp), respLen := BitVec.ofNat 9 resp.length, lastSeq := BitVec.ofNat 16 (fieldLE resp 2 2)
      status := byteAt resp 7, state := .done }
  have hm : ∃ k o e, finishMbx n resp s = { s with kiosk := k, out := o, mons := e } ∧ k.mbx = tset s.kiosk.mbx n m' := by
    simp only [finishMbx, h, m', emit, setMbx, signalVec, monEnd, Bool.false_eq_true, if_false]
    repeat' split
    all_goals exact ⟨_, _, _, rfl, rfl⟩
  obtain ⟨k, o, u, e, hk⟩ := hm
  refine ⟨k, o, u, e, ?_, ?_⟩
  · rw [e]; simp only [mbxOf, hk]; exact tgetD_tset_self _ _ _ _
  · intro j hj; rw [e]; simp only [mbxOf, hk]; exact tgetD_tset_other _ _ _ hj

/-- A response header is 16 bytes (Table 2.10). -/
theorem respHeader_len (a b c d e f g : Nat) : (respHeader a b c d e f g).length = 16 := by
  simp [respHeader, leN, zeros]
/-- Byte 7 of a response is its status. -/
theorem respHeader_status (a b c d e f g : Nat) (p) : byteAt (respHeader a b c d e f g ++ p) 7 = BitVec.ofNat 8 e := by
  simp [respHeader, leN, zeros, byteAt]
theorem leVal_leN_two (b : Nat) : BitVec.ofNat 16 (leVal (leN 2 b)) = BitVec.ofNat 16 b := by
  apply BitVec.eq_of_toNat_eq
  simp [leVal, leN]; omega
/-- Bytes 2 and 3 of a response are its sequence number. -/
theorem respHeader_seq (a b c d e f g : Nat) (p) : BitVec.ofNat 16 (fieldLE (respHeader a b c d e f g ++ p) 2 2) = BitVec.ofNat 16 b := by
  have h : bslice (respHeader a b c d e f g ++ p) 2 2 = leN 2 b := by
    simp [respHeader, leN, zeros, bslice]
  rw [fieldLE, h, leVal_leN_two]

end Sys2Proof.Machine
end

