-- ==== Sys2Proof/Laws/Events.lean ====
section
/-!
SUPPORT. Laws/Events.lean: what recording an event can change (R436, R443 to R446).
-/
namespace Sys2Proof.Machine

/-- Recording an event changes the event recorder, and through the event vector the outward trace and the pending bits of
the MSI-X table; nothing else. -/
theorem record_frame (sub lo cls subj detail s) : ∃ e o p, record sub lo cls subj detail s = { s with evt := e, out := o, kiosk := { s.kiosk with msixPba := p } } := by
  have hn : ∀ typ s, ∃ e o p, record.recordNew typ cls subj detail s = { s with evt := e, out := o, kiosk := { s.kiosk with msixPba := p } } := by
    intro typ s
    simp only [record.recordNew, signalVec, emit]
    repeat' split
    all_goals exact ⟨_, _, _, rfl⟩
  unfold record
  simp only
  repeat' split
  · exact ⟨_, _, _, rfl⟩
  · exact hn _ _
  · exact hn _ _

/-- Recording an event leaves the operating time, the mailboxes and every engine as they are. -/
theorem record_keeps (sub lo cls : Nat) (subj : Subject) (detail : Bytes) (s : State) :
    (record sub lo cls subj detail s).gh = s.gh ∧ (record sub lo cls subj detail s).kiosk.mbx = s.kiosk.mbx ∧
    (record sub lo cls subj detail s).sec = s.sec ∧ (record sub lo cls subj detail s).dram = s.dram ∧
    (record sub lo cls subj detail s).cns = s.cns ∧ (record sub lo cls subj detail s).pending = s.pending := by
  obtain ⟨e, o, p, h⟩ := record_frame sub lo cls subj detail s
  rw [h]; exact ⟨rfl, rfl, rfl, rfl, rfl, rfl⟩

end Sys2Proof.Machine
end

