-- ==== Sys2Proof/Laws/Fields.lean ====
section
/-!
SUPPORT. Laws/Fields.lean: little-endian fields of byte strings: lengths, and a field read out of a layout that was put
together from parts (R9).
-/
namespace Sys2Proof.Machine

theorem leN_length (n v : Nat) : (leN n v).length = n := by
  induction n generalizing v with
  | zero => rfl
  | succ n ih => simp [leN, ih]

theorem zeros_length (n : Nat) : (zeros n).length = n := by simp [zeros]

theorem bslice_length (bs : Bytes) (off n : Nat) : (bslice bs off n).length = n := by
  simp only [bslice, List.length_append, List.length_take, List.length_drop, List.length_replicate]; omega

/-- A field reads back modulo its width. -/
theorem leVal_leN (n v : Nat) : leVal (leN n v) = v % 256 ^ n := by
  induction n generalizing v with
  | zero => simp [leN, leVal, Nat.mod_one]
  | succ n ih =>
    have h : leVal (leN (n + 1) v) = v % 256 + 256 * (v / 256 % 256 ^ n) := by
      rw [leN, leVal, ih]; rfl
    rw [h, Nat.pow_succ']
    exact (Nat.mod_mul (x := v) (a := 256) (b := 256 ^ n)).symm

theorem leVal_zeros (n : Nat) : leVal (zeros n) = 0 := by
  induction n with
  | zero => rfl
  | succ n ih => simp_all [zeros, List.replicate, leVal]

/-- A slice beyond the first part is a slice of the rest. -/
theorem bslice_append_right {a b : Bytes} {off n : Nat} (h : a.length ≤ off) :
    bslice (a ++ b) off n = bslice b (off - a.length) n := by
  simp [bslice, List.drop_append, List.drop_eq_nil_of_le h]

/-- A slice within the first part. -/
theorem bslice_append_left {a b : Bytes} {off n : Nat} (h : off + n ≤ a.length) :
    bslice (a ++ b) off n = bslice a off n := by
  have h1 : off ≤ a.length := by omega
  have h2 : n ≤ (a.drop off).length := by simp only [List.length_drop]; omega
  simp [bslice, List.drop_append_of_le_length h1, List.take_append_of_le_length h2]

/-- The whole of a byte string. -/
theorem bslice_self {a : Bytes} {n : Nat} (h : a.length = n) : bslice a 0 n = a := by
  subst h; simp [bslice]

theorem fieldLE_append_right {a b : Bytes} {off n : Nat} (h : a.length ≤ off) :
    fieldLE (a ++ b) off n = fieldLE b (off - a.length) n := by
  simp [fieldLE, bslice_append_right h]

theorem fieldLE_append_left {a b : Bytes} {off n : Nat} (h : off + n ≤ a.length) :
    fieldLE (a ++ b) off n = fieldLE a off n := by
  simp [fieldLE, bslice_append_left h]

/-- A field at the front. -/
theorem fieldLE_leN (n v : Nat) : fieldLE (leN n v) 0 n = v % 256 ^ n := by
  rw [fieldLE, bslice_self (leN_length n v), leVal_leN]

theorem fieldLE_leN_append (n v : Nat) (b : Bytes) : fieldLE (leN n v ++ b) 0 n = v % 256 ^ n := by
  rw [fieldLE_append_left (by simp [leN_length]), fieldLE_leN]

end Sys2Proof.Machine
end

