-- ==== Sys2Proof/Laws/Kept.lean ====
section
/-!
SUPPORT. Laws/Kept.lean: what every step carries from state to state: the queue's rest, the invariant of the head, and a
lower bound of the rollback count; and how it passes through the forms that meanings are written in.
-/
namespace Sys2Proof.Machine
open Sys2Proof

/-- The state has this queue, keeps the invariant of the head, and has blown at least k rollback fuses. -/
def Kept (q : List Instr) (k : Nat) (s : State) : Prop := s.pending = q ∧ HeadInv s ∧ k ≤ s.sec.fuseCount

/-- The masks of both address maps keep their rules at reset. -/
theorem reset_masks : (State.reset.dram.chanHash.length = 3 ∧ ∀ i < 3, chanMaskOk i (State.reset.dram.chanHash.getD i 0) = true) ∧
    (State.reset.cns.hash.length = 5 ∧ ∀ k < 5, sliceMaskOk k (State.reset.cns.hash.getD k 0) = true) := by
  decide

theorem kept_mk {q : List Instr} {k : Nat} {x : State} (h : Kept q k x) {out draws kiosk evt mons gh ghx sec dram cns sleds map plc jrn ing ftb pair lat rep}
    (h1 : kiosk.msixTab = x.kiosk.msixTab) (h2 : kiosk.mbx = x.kiosk.mbx) (h3 : evt.ring = x.evt.ring)
    (h4 : gh.pwrCycle = x.gh.pwrCycle) (h5 : sec.fuseCount = x.sec.fuseCount) (h6 : sec.keyData = x.sec.keyData)
    (h7 : sec.lodgeMem = x.sec.lodgeMem) (h8 : dram.chanHash = x.dram.chanHash) (h9 : cns.hash = x.cns.hash) :
    Kept q k (State.mk x.pending out draws kiosk evt mons gh ghx sec dram cns sleds map plc jrn ing ftb pair lat rep) := by
  obtain ⟨a, b, c⟩ := h
  refine ⟨a, ⟨?_, ?_, ?_, ?_, ?_, ?_, ?_, ?_, ?_⟩, ?_⟩
  · simpa only [h8] using b.chanMasks
  · simpa only [h9] using b.sliceMasks
  · simpa only [h6] using b.keyRegs
  · simpa only [h5] using b.fuses
  · simpa only [h4] using b.cycles
  · simpa only [h3] using b.ring
  · simpa only [h7] using b.lodge
  · simpa only [h1] using b.msix
  · intro e he
    exact b.mailboxes e (h2 ▸ he)
  · simpa only [h5] using c

/-- Other security engines: eight key registers, the same fuses and a canonical Lodge memory. -/
theorem kept_sec {q : List Instr} {k : Nat} {s : State} (h : Kept q k s) {c : Sec} (h1 : c.keyData.length = 8)
    (h2 : c.fuseCount = s.sec.fuseCount) (h3 : Memory.wf c.lodgeMem = true) : Kept q k { s with sec := c } :=
  ⟨h.1, ⟨h.2.1.chanMasks, h.2.1.sliceMasks, h1, h2 ▸ h.2.1.fuses, h.2.1.cycles, h.2.1.ring, h3, h.2.1.msix, h.2.1.mailboxes⟩,
    show k ≤ c.fuseCount from h2 ▸ h.2.2⟩

/-- Another Gatehouse, whose power-cycle count lies within its 24 bits. -/
theorem kept_gh {q : List Instr} {k : Nat} {s : State} (h : Kept q k s) {g : Gh} (hg : g.pwrCycle < 2 ^ 24) :
    Kept q k { s with gh := g } :=
  ⟨h.1, ⟨h.2.1.chanMasks, h.2.1.sliceMasks, h.2.1.keyRegs, h.2.1.fuses, hg, h.2.1.ring, h.2.1.lodge, h.2.1.msix, h.2.1.mailboxes⟩,
    h.2.2⟩

/-- Another Kiosk, whose byte stores are canonical. -/
theorem kept_kiosk {q : List Instr} {k : Nat} {s : State} (h : Kept q k s) {c : Kiosk} (h1 : Memory.wf c.msixTab = true)
    (h2 : ∀ e ∈ c.mbx, Memory.wf e.2.req = true ∧ Memory.wf e.2.resp = true) : Kept q k { s with kiosk := c } :=
  ⟨h.1, ⟨h.2.1.chanMasks, h.2.1.sliceMasks, h.2.1.keyRegs, h.2.1.fuses, h.2.1.cycles, h.2.1.ring, h.2.1.lodge, h1, h2⟩, h.2.2⟩

theorem kept_ite {q : List Instr} {k : Nat} {a b : State} {c : Prop} [Decidable c] (ha : Kept q k a) (hb : Kept q k b) : Kept q k (if c then a else b) := by
  split <;> assumption
theorem kept_ite2 {α : Type} {q : List Instr} {k : Nat} {a b : α × State} {c : Prop} [Decidable c] (ha : Kept q k a.2) (hb : Kept q k b.2) : Kept q k (if c then a else b).2 := by
  split <;> assumption
theorem kept_foldl {α : Type} {q : List Instr} {k : Nat} {f : State → α → State} (hf : ∀ s a, Kept q k s → Kept q k (f s a)) (l : List α) {s : State}
    (h : Kept q k s) : Kept q k (l.foldl f s) := by
  induction l generalizing s with
  | nil => exact h
  | cons a l ih => exact ih (hf s a h)
theorem kept_foldl2 {α β : Type} {q : List Instr} {k : Nat} {f : β × State → α → β × State} (hf : ∀ s a, Kept q k s.2 → Kept q k (f s a).2) (l : List α) {s : β × State}
    (h : Kept q k s.2) : Kept q k (l.foldl f s).2 := by
  induction l generalizing s with
  | nil => exact h
  | cons a l ih => exact ih (hf s a h)
theorem kept_foldl1 {α β : Type} {q : List Instr} {k : Nat} {f : State × β → α → State × β} (hf : ∀ s a, Kept q k s.1 → Kept q k (f s a).1) (l : List α) {s : State × β}
    (h : Kept q k s.1) : Kept q k (l.foldl f s).1 := by
  induction l generalizing s with
  | nil => exact h
  | cons a l ih => exact ih (hf s a h)
theorem kept_snd {α : Type} {q : List Instr} {k : Nat} {p : α × State} {a : α} {s : State} (h : p = (a, s)) (hp : Kept q k p.2) : Kept q k s := by
  rw [h] at hp; exact hp

theorem kept_pair {α : Type} {q : List Instr} {k : Nat} {a : α} {s : State} (h : Kept q k s) : Kept q k (a, s).2 := h

end Sys2Proof.Machine
end

