-- ==== Sys2Proof/Laws/KeptLodge.lean ====
section
/-!
SUPPORT. Laws/KeptLodge.lean: that the event recorder, the Lodge, the map, the monitors and the journal carry the queue, the invariant of the head
and the rollback count from state to state (Kept), one lemma for each operation.
-/
namespace Sys2Proof.Machine

/-! ### Machine/Events.lean -/

theorem emit_kept (o) {s : State} {q : List Instr} {k : Nat} (h : Kept q k s) :
    Kept q k (emit o s) := by
  delta emit
  repeat' first
    | with_reducible assumption
    | refine kept_mk ?_ rfl rfl rfl rfl rfl rfl rfl rfl rfl

theorem draw_kept {s : State} {q : List Instr} {k : Nat} (h : Kept q k s) :
    Kept q k (draw s) := by
  delta draw
  repeat' first
    | with_reducible assumption
    | refine kept_mk ?_ rfl rfl rfl rfl rfl rfl rfl rfl rfl

theorem signalVec_kept (v) {s : State} {q : List Instr} {k : Nat} (h : Kept q k s) :
    Kept q k (signalVec v s) := by
  delta signalVec
  repeat' first
    | with_reducible assumption
    | (lift_lets -underBinder; intro x; subst x)
    | with_reducible apply kept_ite
    | with_reducible apply emit_kept
    | refine kept_mk ?_ rfl rfl rfl rfl rfl rfl rfl rfl rfl

theorem kept_evt {e : Evt} {q : List Instr} {k : Nat} {s : State} (h : Kept q k s) (hr : Memory.wf e.ring = true) :
    Kept q k { s with evt := e } :=
  ⟨h.1, ⟨h.2.1.chanMasks, h.2.1.sliceMasks, h.2.1.keyRegs, h.2.1.fuses, h.2.1.cycles, hr, h.2.1.lodge, h.2.1.msix, h.2.1.mailboxes⟩, h.2.2⟩

theorem ringPut_wf (r : EvRec) (e : Evt) (h : Memory.wf e.ring = true) : Memory.wf (ringPut r e).ring = true :=
  memPuts_wf h

theorem ringAdd_wf (r : EvRec) (e : Evt) (h : Memory.wf e.ring = true) : Memory.wf (ringAdd r e).ring = true := by
  unfold ringAdd ringFill
  have h1 := ringPut_wf (fillerRec (fillerLen (ringSize - e.place))) e h
  simp only
  repeat' split
  · exact ringPut_wf _ _ h
  · exact ringPut_wf _ _ h1
  · exact ringPut_wf _ _ (ringPut_wf _ _ h1)

theorem recordNew_kept (typ cls subj detail) {q : List Instr} {k : Nat} {s : State} (h : Kept q k s) :
    Kept q k (record.recordNew typ cls subj detail s) := by
  delta record.recordNew
  refine kept_ite (signalVec_kept _ ?_) ?_ <;> exact kept_evt h (ringAdd_wf _ _ h.2.1.ring)

theorem record_kept (sub lo cls subj detail) {q : List Instr} {k : Nat} {s : State} (h : Kept q k s) :
    Kept q k (record sub lo cls subj detail s) := by
  delta record
  simp only
  split
  · exact kept_ite (kept_evt h (memPuts_wf h.2.1.ring)) (recordNew_kept _ _ _ _ h)
  · exact recordNew_kept _ _ _ _ h

theorem note_kept (sub) (lo) (cls) {s : State} {q : List Instr} {k : Nat} (h : Kept q k s) :
    Kept q k (note sub lo cls s) := by
  delta note
  repeat' first
    | with_reducible assumption
    | with_reducible apply record_kept

theorem restored_kept (subj) {s : State} {q : List Instr} {k : Nat} (h : Kept q k s) :
    Kept q k (restored subj s) := by
  delta restored
  repeat' first
    | with_reducible assumption
    | (lift_lets -underBinder; intro x; subst x)
    | refine kept_mk ?_ rfl rfl rfl rfl rfl rfl rfl rfl rfl

theorem emits_kept (os) {s : State} {q : List Instr} {k : Nat} (h : Kept q k s) :
    Kept q k (emits os s) := by
  delta emits
  repeat' first
    | with_reducible assumption
    | refine kept_mk ?_ rfl rfl rfl rfl rfl rfl rfl rfl rfl

/-! ### Machine/Probes.lean -/

theorem monBegin_kept (probe) (id) {s : State} {q : List Instr} {k : Nat} (h : Kept q k s) :
    Kept q k (monBegin probe id s) := by
  delta monBegin
  repeat' first
    | with_reducible assumption
    | refine kept_mk ?_ rfl rfl rfl rfl rfl rfl rfl rfl rfl

theorem monCount_kept (probe) (filter) (stamp) {s : State} {q : List Instr} {k : Nat} (h : Kept q k s) :
    Kept q k (monCount probe filter stamp s) := by
  delta monCount
  repeat' first
    | with_reducible assumption
    | refine kept_mk ?_ rfl rfl rfl rfl rfl rfl rfl rfl rfl

theorem monAt_kept (probe) (filter) {s : State} {q : List Instr} {k : Nat} (h : Kept q k s) :
    Kept q k (monAt probe filter s) := by
  delta monAt
  repeat' first
    | with_reducible assumption
    | with_reducible apply monCount_kept

theorem monEnd_kept (probe) (id) (filter) {s : State} {q : List Instr} {k : Nat} (h : Kept q k s) :
    Kept q k (monEnd probe id filter s) := by
  delta monEnd
  repeat' first
    | with_reducible assumption
    | refine kept_mk ?_ rfl rfl rfl rfl rfl rfl rfl rfl rfl

theorem setMon_kept (u) (m) {s : State} {q : List Instr} {k : Nat} (h : Kept q k s) :
    Kept q k (setMon u m s) := by
  delta setMon
  repeat' first
    | with_reducible assumption
    | (lift_lets -underBinder; intro x; subst x)
    | refine kept_mk ?_ rfl rfl rfl rfl rfl rfl rfl rfl rfl

/-! ### Machine/Ops.lean -/

theorem finishJob_kept (a0) (st) (result) {s : State} {q : List Instr} {k : Nat} (h : Kept q k s) :
    Kept q k (finishJob a0 st result s) := by
  delta finishJob
  repeat' first
    | with_reducible assumption
    | (lift_lets -underBinder; intro x; subst x)
    | refine kept_mk ?_ rfl rfl rfl rfl rfl rfl rfl rfl rfl

theorem refuse_kept (st) {s : State} {q : List Instr} {k : Nat} (h : Kept q k s) :
    Kept q k (refuse st s).2 := by
  delta refuse
  repeat' first
    | with_reducible assumption

theorem startTest_kept (subj) (errSeq) {s : State} {q : List Instr} {k : Nat} (h : Kept q k s) :
    Kept q k (startTest subj errSeq s) := by
  delta startTest
  repeat' first
    | with_reducible assumption
    | (lift_lets -underBinder; intro x; subst x)
    | with_reducible apply kept_ite
    | refine kept_mk ?_ rfl rfl rfl rfl rfl rfl rfl rfl rfl

theorem errorOn_kept (sub) (cls) (subj) (detail) {s : State} {q : List Instr} {k : Nat} (h : Kept q k s) :
    Kept q k (errorOn sub cls subj detail s) := by
  delta errorOn
  repeat' first
    | with_reducible assumption
    | (lift_lets -underBinder; intro x; refine (fun (hx : Kept q k x) => ?_) ?_; clear_value x; rotate_left; subst x; rotate_right)
    | with_reducible apply record_kept
    | with_reducible apply startTest_kept

theorem testAtErase_kept (subj) {s : State} {q : List Instr} {k : Nat} (h : Kept q k s) :
    Kept q k (testAtErase subj s) := by
  delta testAtErase
  repeat' first
    | with_reducible assumption
    | (lift_lets -underBinder; intro x; subst x)
    | split
    | refine kept_mk ?_ rfl rfl rfl rfl rfl rfl rfl rfl rfl

theorem force_kept (op) {s : State} {q : List Instr} {k : Nat} (h : Kept q k s) :
    Kept q k (force op s) := by
  delta force
  repeat' first
    | with_reducible assumption
    | (lift_lets -underBinder; intro x; subst x)
    | with_reducible apply kept_ite
    | refine kept_mk ?_ rfl rfl rfl rfl rfl rfl rfl rfl rfl

theorem startJob_kept {op subj aux : Nat} {q : List Instr} {k j : Nat} {s t : State} (h : Kept q k s)
    (hj : startJob op subj aux s = some (j, t)) : Kept q k t := by
  unfold startJob at hj
  split at hj
  · cases hj
  · cases hj; exact kept_mk h rfl rfl rfl rfl rfl rfl rfl rfl rfl

theorem withJob_kept (op subj aux) {f : Nat → State → State} {q : List Instr} {k : Nat} {s : State} (h : Kept q k s)
    (hf : ∀ j t, Kept q k t → Kept q k (f j t)) : Kept q k (withJob op subj aux s f).2 := by
  delta withJob
  split
  · exact hf _ _ (startJob_kept h (by assumption))
  · exact refuse_kept _ h

theorem setClaim_kept (cls) (idx) (holder) {s : State} {q : List Instr} {k : Nat} (h : Kept q k s) :
    Kept q k (setClaim cls idx holder s) := by
  delta setClaim
  repeat' first
    | with_reducible assumption
    | (lift_lets -underBinder; intro x; subst x)
    | refine kept_mk ?_ rfl rfl rfl rfl rfl rfl rfl rfl rfl

theorem dropClaim_kept (cls) (idx) {s : State} {q : List Instr} {k : Nat} (h : Kept q k s) :
    Kept q k (dropClaim cls idx s) := by
  delta dropClaim
  repeat' first
    | with_reducible assumption
    | (lift_lets -underBinder; intro x; subst x)
    | with_reducible apply setClaim_kept
    | split
    | refine kept_mk ?_ rfl rfl rfl rfl rfl rfl rfl rfl rfl

theorem kept_mbxOf {q : List Instr} {k : Nat} {s : State} (h : Kept q k s) (n : Nat) :
    Memory.wf (mbxOf s n).req = true ∧ Memory.wf (mbxOf s n).resp = true := by
  unfold mbxOf tgetD
  cases ht : tget s.kiosk.mbx n with
  | none => exact ⟨rfl, rfl⟩
  | some m => exact h.2.1.mailboxes (n, m) (tget_mem ht)

theorem setMbx_kept (n : Nat) (m : Mbx) {q : List Instr} {k : Nat} {s : State} (h : Kept q k s)
    (hm : Memory.wf m.req = true ∧ Memory.wf m.resp = true) : Kept q k (setMbx n m s) := by
  refine ⟨h.1, ⟨h.2.1.chanMasks, h.2.1.sliceMasks, h.2.1.keyRegs, h.2.1.fuses, h.2.1.cycles, h.2.1.ring, h.2.1.lodge, h.2.1.msix, ?_⟩, h.2.2⟩
  intro e he
  rcases mem_tset he with rfl | he
  · exact hm
  · exact h.2.1.mailboxes e he

theorem finishMbx_kept (n) (resp) {s : State} {q : List Instr} {k : Nat} (h : Kept q k s) :
    Kept q k (finishMbx n resp s) := by
  delta finishMbx
  repeat' first
    | with_reducible assumption
    | (intro x; refine (fun (hx : Kept q k x) => ?_) ?_; clear_value x; rotate_left; subst x; rotate_right)
    | (lift_lets -underBinder; intro x; subst x)
    | (intro x; subst x)
    | with_reducible apply kept_ite
    | with_reducible apply emit_kept
    | with_reducible apply monEnd_kept
    | with_reducible apply setMbx_kept
    | with_reducible apply signalVec_kept
    | exact kept_mbxOf (by with_reducible assumption) _
    | exact ⟨(kept_mbxOf (by with_reducible assumption) _).1, memPuts_wf rfl⟩
    | refine kept_mk ?_ rfl rfl rfl rfl rfl rfl rfl rfl rfl

theorem writePart_kept (n) (op) (seq) (level) (session) (status) (async) (part) (parts) {s : State} {q : List Instr} {k : Nat} (h : Kept q k s) :
    Kept q k (writePart n op seq level session status async part parts s) := by
  delta writePart
  repeat' first
    | with_reducible assumption
    | (intro x; refine (fun (hx : Kept q k x) => ?_) ?_; clear_value x; rotate_left; subst x; rotate_right)
    | (lift_lets -underBinder; intro x; subst x)
    | (intro x; subst x)
    | with_reducible apply finishMbx_kept
    | with_reducible apply setMbx_kept
    | exact kept_mbxOf (by with_reducible assumption) _
    | split

theorem answer_kept (n) (msg) (r) {s : State} {q : List Instr} {k : Nat} (h : Kept q k s) :
    Kept q k (answer n msg r s) := by
  delta answer
  repeat' first
    | with_reducible assumption
    | with_reducible apply writePart_kept

theorem answerLate_kept (n) (r) {s : State} {q : List Instr} {k : Nat} (h : Kept q k s) :
    Kept q k (answerLate n r s) := by
  delta answerLate
  repeat' first
    | with_reducible assumption
    | with_reducible apply kept_ite
    | with_reducible apply answer_kept
    | split

theorem finishStatus_kept (n) (st) {s : State} {q : List Instr} {k : Nat} (h : Kept q k s) :
    Kept q k (finishStatus n st s) := by
  delta finishStatus
  repeat' first
    | with_reducible assumption
    | (lift_lets -underBinder; intro x; subst x)
    | with_reducible apply finishMbx_kept

theorem unforce_kept (op) {s : State} {q : List Instr} {k : Nat} (h : Kept q k s) :
    Kept q k (unforce op s) := by
  delta unforce
  repeat' first
    | with_reducible assumption
    | (lift_lets -underBinder; intro x; subst x)
    | refine kept_mk ?_ rfl rfl rfl rfl rfl rfl rfl rfl rfl

theorem finishJobs_kept (p) (st) (result) {s : State} {q : List Instr} {k : Nat} (h : Kept q k s) :
    Kept q k (finishJobs p st result s) := by
  delta finishJobs
  repeat' first
    | with_reducible assumption
    | (lift_lets -underBinder; intro x; subst x)
    | refine kept_mk ?_ rfl rfl rfl rfl rfl rfl rfl rfl rfl

theorem basmos_kept (n op layout) {f : Bytes → State → BAns × State} {q : List Instr} {k : Nat} {s : State} (h : Kept q k s)
    (hf : ∀ p t, Kept q k t → Kept q k (f p t).2) : Kept q k (basmos n op layout f s) := by
  have hp : ∀ p {a : BAns} {t : State}, f p s = (a, t) → Kept q k t := fun p a t e => kept_snd e (hf p s h)
  delta basmos
  simp only
  split
  · exact h
  · refine kept_ite h (kept_ite (answer_kept _ _ _ h) (kept_ite (answer_kept _ _ _ h) (kept_ite (answer_kept _ _ _ h) ?_)))
    split
    · exact answer_kept _ _ _ (hp _ (by assumption))
    · have ht := hp _ (by assumption)
      exact setMbx_kept _ _ ht (kept_mbxOf ht _)

/-! ### Machine/Dimm.lean -/

theorem dramRequest_kept (port) (pa) {s : State} {q : List Instr} {k : Nat} (h : Kept q k s) :
    Kept q k (dramRequest port pa s) := by
  delta dramRequest
  repeat' first
    | with_reducible assumption
    | (lift_lets -underBinder; intro x; subst x)
    | (intro x; subst x)
    | refine kept_mk ?_ rfl rfl rfl rfl rfl rfl rfl rfl rfl

theorem setDmc_kept (n) (c) {s : State} {q : List Instr} {k : Nat} (h : Kept q k s) :
    Kept q k (setDmc n c s) := by
  delta setDmc
  repeat' first
    | with_reducible assumption
    | (lift_lets -underBinder; intro x; subst x)
    | refine kept_mk ?_ rfl rfl rfl rfl rfl rfl rfl rfl rfl

theorem serveChannel_kept (ch) {s : State} {q : List Instr} {k : Nat} (h : Kept q k s) :
    Kept q k (serveChannel ch s) := by
  delta serveChannel
  repeat' first
    | with_reducible assumption
    | (lift_lets -underBinder; intro x; subst x)
    | with_reducible apply kept_ite
    | with_reducible apply monCount_kept
    | split
    | refine kept_mk ?_ rfl rfl rfl rfl rfl rfl rfl rfl rfl

theorem dramTick_kept {s : State} {q : List Instr} {k : Nat} (h : Kept q k s) :
    Kept q k (dramTick s) := by
  delta dramTick
  repeat' first
    | with_reducible assumption
    | (lift_lets -underBinder; intro x; refine (fun (hx : Kept q k x) => ?_) ?_; clear_value x; rotate_left; subst x; rotate_right)
    | (intro x; subst x)
    | with_reducible apply serveChannel_kept
    | with_reducible refine kept_foldl (fun _ _ _ => ?_) _ ?_
    | refine kept_mk ?_ rfl rfl rfl rfl rfl rfl rfl rfl rfl

/-! ### Machine/Lines.lean -/

theorem putSet_hash (key v c) : (putSet key v c).hash = c.hash := rfl
theorem putLock_hash (i l c) : (putLock i l c).hash = c.hash := rfl
theorem sideDrop_hash (line c) : (sideDrop line c).hash = c.hash := rfl
theorem touch_hash (line dirty c) : (touch line dirty c).hash = c.hash := rfl
theorem sideAdd_hash (line : Nat) (c : Cns) : (sideAdd line c).hash = c.hash := by
  unfold sideAdd; dsimp only; split <;> rfl
theorem trackStore_hash (line : Nat) (c : Cns) : (trackStore line c).2.hash = c.hash := by
  unfold trackStore; dsimp only; split <;> rfl
theorem foldl_hash {α : Type} {f : Cns → α → Cns} (hf : ∀ c a, (f c a).hash = c.hash) (l : List α) (c : Cns) :
    (l.foldl f c).hash = c.hash := by
  induction l generalizing c with
  | nil => rfl
  | cons a l ih => exact (ih _).trans (hf c a)

theorem onCns_kept {f : Cns → Cns} {q : List Instr} {k : Nat} {s : State} (h : Kept q k s)
    (hf : (f s.cns).hash = s.cns.hash) : Kept q k (onCns f s) :=
  kept_mk h rfl rfl rfl rfl rfl rfl rfl rfl hf

theorem demandMiss_kept (port) (line) {s : State} {q : List Instr} {k : Nat} (h : Kept q k s) :
    Kept q k (demandMiss port line s) := by
  delta demandMiss
  repeat' first
    | with_reducible assumption
    | with_reducible apply dramRequest_kept
    | with_reducible apply monAt_kept
    | refine onCns_kept ?_ rfl

theorem curePoison_kept (n) (ca) {s : State} {q : List Instr} {k : Nat} (h : Kept q k s) :
    Kept q k (curePoison n ca s) := by
  delta curePoison
  repeat' first
    | with_reducible assumption
    | (lift_lets -underBinder; intro x; subst x)
    | with_reducible apply kept_ite
    | with_reducible apply setDmc_kept

theorem cureLines_kept (pa) (n) {s : State} {q : List Instr} {k : Nat} (h : Kept q k s) :
    Kept q k (cureLines pa n s) := by
  delta cureLines
  repeat' first
    | with_reducible assumption
    | (lift_lets -underBinder; intro x; subst x)
    | with_reducible apply kept_ite
    | with_reducible apply curePoison_kept
    | with_reducible refine kept_foldl (fun _ _ _ => ?_) _ ?_

theorem lineTraffic_kept (line) {s : State} {q : List Instr} {k : Nat} (h : Kept q k s) :
    Kept q k (lineTraffic line s) := by
  delta lineTraffic
  repeat' first
    | with_reducible assumption
    | with_reducible apply dramRequest_kept

theorem fill_kept (a0) (line) (dirty) (streaming) {s : State} {q : List Instr} {k : Nat} (h : Kept q k s) :
    Kept q k (fill a0 line dirty streaming s) := by
  delta fill
  repeat' first
    | with_reducible assumption
    | (lift_lets -underBinder; intro x; refine (fun (hx : Kept q k x) => ?_) ?_; clear_value x; rotate_left; subst x; rotate_right)
    | (lift_lets -underBinder; intro x; subst x)
    | (intro x; subst x)
    | with_reducible apply kept_ite
    | with_reducible apply lineTraffic_kept
    | refine onCns_kept ?_ rfl
    | split

theorem sideFetch_kept (line) {q : List Instr} {k : Nat} {s : State} (h : Kept q k s) : Kept q k (sideFetch line s) := by
  delta sideFetch
  exact kept_ite h (onCns_kept (lineTraffic_kept _ h) (sideAdd_hash _ _))

theorem prefetch_kept (a0) (line) {s : State} {q : List Instr} {k : Nat} (h : Kept q k s) :
    Kept q k (prefetch a0 line s) := by
  delta prefetch
  repeat' first
    | with_reducible assumption
    | with_reducible apply kept_ite
    | with_reducible apply fill_kept
    | with_reducible apply lineTraffic_kept
    | with_reducible apply sideFetch_kept
    | split

theorem lineStore_kept (port line) {q : List Instr} {k : Nat} {s : State} (h : Kept q k s) : Kept q k (lineStore port line s) := by
  delta lineStore
  dsimp only
  generalize hr : (if (classOf s.cns (portClass port)).stream = true then trackStore line s.cns else (0, s.cns)) = r
  have hh : r.2.hash = s.cns.hash := by
    rw [← hr]
    split
    · exact trackStore_hash ..
    · rfl
  obtain ⟨n, c⟩ := r
  dsimp only
  have h' : Kept q k { s with cns := sideDrop line c } := kept_mk h rfl rfl rfl rfl rfl rfl rfl rfl hh
  have h2 : ∀ wb, Kept q k (onCns (fun c => touch line wb (countHit c)) { s with cns := sideDrop line c }) := fun wb => onCns_kept h' rfl
  refine kept_ite (kept_ite (h2 _) (dramRequest_kept _ _ (h2 _))) (prefetch_kept _ _ ?_)
  exact kept_ite (fill_kept _ _ _ _ (demandMiss_kept _ _ h')) (demandMiss_kept _ _ h')

/-- What a memory access does to the Conservatory and the DRAM keeps the rules of both maps. -/
theorem onMemory_kept {f : State → State} {q : List Instr} {k : Nat} {s : State} (h : Kept q k s)
    (hf : ∀ t, Kept q k t → Kept q k (f t)) : Kept q k (onMemory f s) := by
  delta onMemory
  have ht := hf s h
  generalize f s = t at ht ⊢
  dsimp only
  split
  · exact ⟨h.1, ⟨ht.2.1.chanMasks, ht.2.1.sliceMasks, h.2.1.keyRegs, h.2.1.fuses, h.2.1.cycles, h.2.1.ring, h.2.1.lodge,
      h.2.1.msix, h.2.1.mailboxes⟩, h.2.2⟩
  · exact h

theorem cnsStores_kept (port) (pa) (n) {s : State} {q : List Instr} {k : Nat} (h : Kept q k s) :
    Kept q k (cnsStores port pa n s) := by
  delta cnsStores
  repeat' first
    | with_reducible assumption
    | intro _
    | with_reducible apply cureLines_kept
    | with_reducible apply lineStore_kept
    | with_reducible apply onMemory_kept
    | with_reducible refine kept_foldl (fun _ _ _ => ?_) _ ?_

theorem lineRead_kept (port) (line) {s : State} {q : List Instr} {k : Nat} (h : Kept q k s) :
    Kept q k (lineRead port line s) := by
  delta lineRead
  repeat' first
    | with_reducible assumption
    | (intro x; refine (fun (hx : Kept q k x) => ?_) ?_; clear_value x; rotate_left; subst x; rotate_right)
    | (lift_lets -underBinder; intro x; subst x)
    | with_reducible apply kept_ite
    | with_reducible apply demandMiss_kept
    | with_reducible apply fill_kept
    | refine onCns_kept ?_ rfl
    | with_reducible apply prefetch_kept
    | with_reducible apply sideFetch_kept

theorem cnsReads_kept (port) (pa) (n) {s : State} {q : List Instr} {k : Nat} (h : Kept q k s) :
    Kept q k (cnsReads port pa n s) := by
  delta cnsReads
  repeat' first
    | with_reducible assumption
    | intro _
    | with_reducible apply lineRead_kept
    | with_reducible apply onMemory_kept
    | with_reducible refine kept_foldl (fun _ _ _ => ?_) _ ?_

theorem drainRead_kept (line) {s : State} {q : List Instr} {k : Nat} (h : Kept q k s) :
    Kept q k (drainRead line s) := by
  delta drainRead
  repeat' first
    | with_reducible assumption
    | with_reducible apply kept_ite
    | with_reducible apply demandMiss_kept
    | refine onCns_kept ?_ rfl

theorem cnsDrains_kept (pa) (n) {s : State} {q : List Instr} {k : Nat} (h : Kept q k s) :
    Kept q k (cnsDrains pa n s) := by
  delta cnsDrains
  repeat' first
    | with_reducible assumption
    | intro _
    | with_reducible apply drainRead_kept
    | with_reducible apply onMemory_kept
    | with_reducible refine kept_foldl (fun _ _ _ => ?_) _ ?_

/-! ### Machine/Map.lean -/

theorem xltTouch_kept (key) (page) (i) {s : State} {q : List Instr} {k : Nat} (h : Kept q k s) :
    Kept q k (xltTouch key page i s) := by
  delta xltTouch
  repeat' first
    | with_reducible assumption
    | (intro x; refine (fun (hx : Kept q k x) => ?_) ?_; clear_value x; rotate_left; subst x; rotate_right)
    | (lift_lets -underBinder; intro x; subst x)
    | (intro x; subst x)
    | with_reducible apply kept_ite
    | with_reducible apply cnsReads_kept
    | with_reducible apply draw_kept
    | split
    | refine kept_mk ?_ rfl rfl rfl rfl rfl rfl rfl rfl rfl

theorem resolveEnt_kept (key) (chunk) {s : State} {q : List Instr} {k : Nat} (h : Kept q k s) :
    Kept q k (resolveEnt key chunk s).2 := by
  delta resolveEnt
  repeat' first
    | with_reducible assumption
    | (lift_lets -underBinder; intro x; refine (fun (hx : Kept q k x) => ?_) ?_; clear_value x; rotate_left; subst x; rotate_right)
    | (intro x; refine (fun (hx : Kept q k x) => ?_) ?_; clear_value x; rotate_left; subst x; rotate_right)
    | (intro x; subst x)
    | with_reducible apply kept_ite
    | with_reducible apply kept_ite2
    | with_reducible apply xltTouch_kept

theorem dirtyPage_kept (page) (i) {s : State} {q : List Instr} {k : Nat} (h : Kept q k s) :
    Kept q k (dirtyPage page i s) := by
  delta dirtyPage
  repeat' first
    | with_reducible assumption
    | (lift_lets -underBinder; intro x; subst x)
    | with_reducible apply cnsStores_kept
    | split
    | refine kept_mk ?_ rfl rfl rfl rfl rfl rfl rfl rfl rfl

theorem putChunk_kept (serial) (c) {s : State} {q : List Instr} {k : Nat} (h : Kept q k s) :
    Kept q k (putChunk serial c s) := by
  delta putChunk
  repeat' first
    | with_reducible assumption
    | (lift_lets -underBinder; intro x; subst x)
    | with_reducible apply dirtyPage_kept
    | refine kept_mk ?_ rfl rfl rfl rfl rfl rfl rfl rfl rfl

theorem freeIfDead_kept (a0) (a1) {a2 : State} {q : List Instr} {k : Nat} (h : Kept q k a2) :
    Kept q k (freeIfDead a0 a1 a2) := by
  induction a0 generalizing a1 a2 with
  | zero =>
    unfold freeIfDead
    repeat' first
      | with_reducible assumption
  | succ m ih =>
    unfold freeIfDead
    repeat' first
      | with_reducible assumption
      | (intro x; refine (fun (hx : Kept q k x) => ?_) ?_; clear_value x; rotate_left; subst x; rotate_right)
      | (lift_lets -underBinder; intro x; subst x)
      | (intro x; subst x)
      | with_reducible apply kept_ite
      | with_reducible apply ih
      | with_reducible apply putChunk_kept
      | split
      | refine kept_mk ?_ rfl rfl rfl rfl rfl rfl rfl rfl rfl

theorem unpinChunk_kept (serial) {s : State} {q : List Instr} {k : Nat} (h : Kept q k s) :
    Kept q k (unpinChunk serial s) := by
  delta unpinChunk
  repeat' first
    | with_reducible assumption
    | with_reducible apply freeIfDead_kept
    | with_reducible apply putChunk_kept
    | split

theorem dropRef_kept (peer) (serial) {s : State} {q : List Instr} {k : Nat} (h : Kept q k s) :
    Kept q k (dropRef peer serial s) := by
  delta dropRef
  repeat' first
    | with_reducible assumption
    | (lift_lets -underBinder; intro x; subst x)
    | with_reducible apply freeIfDead_kept
    | with_reducible apply putChunk_kept
    | split

theorem putLoc_kept (key) (chunk) (loc) {s : State} {q : List Instr} {k : Nat} (h : Kept q k s) :
    Kept q k (putLoc key chunk loc s) := by
  delta putLoc
  repeat' first
    | with_reducible assumption
    | (lift_lets -underBinder; intro x; subst x)
    | with_reducible apply dirtyPage_kept
    | split
    | refine kept_mk ?_ rfl rfl rfl rfl rfl rfl rfl rfl rfl

theorem makeIndirect_kept (serial) (c) {s : State} {q : List Instr} {k : Nat} (h : Kept q k s) :
    Kept q k (makeIndirect serial c s) := by
  delta makeIndirect
  repeat' first
    | with_reducible assumption
    | (lift_lets -underBinder; intro x; subst x)
    | (intro x; subst x)
    | with_reducible apply kept_ite
    | with_reducible apply putLoc_kept

theorem addRef_kept (peer) (serial) {s : State} {q : List Instr} {k : Nat} (h : Kept q k s) :
    Kept q k (addRef peer serial s) := by
  delta addRef
  repeat' first
    | with_reducible assumption
    | (lift_lets -underBinder; intro x; refine (fun (hx : Kept q k x) => ?_) ?_; clear_value x; rotate_left; subst x; rotate_right)
    | (intro x; subst x)
    | with_reducible apply makeIndirect_kept
    | with_reducible apply putChunk_kept
    | split

theorem ownLeaf_kept (key) (page) {s : State} {q : List Instr} {k : Nat} (h : Kept q k s) :
    Kept q k (ownLeaf key page s) := by
  delta ownLeaf
  repeat' first
    | with_reducible assumption
    | (lift_lets -underBinder; intro x; refine (fun (hx : Kept q k x) => ?_) ?_; clear_value x; rotate_left; subst x; rotate_right)
    | (lift_lets -underBinder; intro x; subst x)
    | (intro x; subst x)
    | with_reducible apply kept_ite
    | with_reducible apply addRef_kept
    | with_reducible refine kept_foldl (fun _ _ _ => ?_) _ ?_
    | split
    | refine kept_mk ?_ rfl rfl rfl rfl rfl rfl rfl rfl rfl

theorem putEnt_kept (key) (chunk) (e) {s : State} {q : List Instr} {k : Nat} (h : Kept q k s) :
    Kept q k (putEnt key chunk e s) := by
  delta putEnt
  repeat' first
    | with_reducible assumption
    | (lift_lets -underBinder; intro x; refine (fun (hx : Kept q k x) => ?_) ?_; clear_value x; rotate_left; subst x; rotate_right)
    | (lift_lets -underBinder; intro x; subst x)
    | with_reducible apply dirtyPage_kept
    | with_reducible apply ownLeaf_kept
    | split
    | refine kept_mk ?_ rfl rfl rfl rfl rfl rfl rfl rfl rfl

theorem unmapChunk_kept (key) (chunk) {s : State} {q : List Instr} {k : Nat} (h : Kept q k s) :
    Kept q k (unmapChunk key chunk s) := by
  delta unmapChunk
  repeat' first
    | with_reducible assumption
    | (lift_lets -underBinder; intro x; subst x)
    | with_reducible apply kept_ite
    | with_reducible apply dropRef_kept
    | with_reducible apply putEnt_kept

theorem mapDirect_kept (key) (chunk) (serial) {s : State} {q : List Instr} {k : Nat} (h : Kept q k s) :
    Kept q k (mapDirect key chunk serial s) := by
  delta mapDirect
  repeat' first
    | with_reducible assumption
    | (lift_lets -underBinder; intro x; refine (fun (hx : Kept q k x) => ?_) ?_; clear_value x; rotate_left; subst x; rotate_right)
    | (intro x; refine (fun (hx : Kept q k x) => ?_) ?_; clear_value x; rotate_left; subst x; rotate_right)
    | (lift_lets -underBinder; intro x; subst x)
    | with_reducible apply kept_ite
    | with_reducible apply dropRef_kept
    | with_reducible apply putChunk_kept
    | with_reducible apply putEnt_kept
    | split

theorem mapShared_kept (key) (chunk) (serial) {s : State} {q : List Instr} {k : Nat} (h : Kept q k s) :
    Kept q k (mapShared key chunk serial s) := by
  delta mapShared
  repeat' first
    | with_reducible assumption
    | (lift_lets -underBinder; intro x; refine (fun (hx : Kept q k x) => ?_) ?_; clear_value x; rotate_left; subst x; rotate_right)
    | (intro x; refine (fun (hx : Kept q k x) => ?_) ?_; clear_value x; rotate_left; subst x; rotate_right)
    | (lift_lets -underBinder; intro x; subst x)
    | with_reducible apply kept_ite
    | with_reducible apply addRef_kept
    | with_reducible apply dropRef_kept
    | with_reducible apply putEnt_kept
    | split

theorem moveChunk_kept (m) {s : State} {q : List Instr} {k : Nat} (h : Kept q k s) :
    Kept q k (moveChunk m s) := by
  delta moveChunk
  repeat' first
    | with_reducible assumption
    | (lift_lets -underBinder; intro x; refine (fun (hx : Kept q k x) => ?_) ?_; clear_value x; rotate_left; subst x; rotate_right)
    | (intro x; refine (fun (hx : Kept q k x) => ?_) ?_; clear_value x; rotate_left; subst x; rotate_right)
    | (lift_lets -underBinder; intro x; subst x)
    | (intro x; subst x)
    | with_reducible apply kept_ite
    | with_reducible apply putChunk_kept
    | with_reducible apply putLoc_kept
    | split
    | refine kept_mk ?_ rfl rfl rfl rfl rfl rfl rfl rfl rfl

theorem copyMap_kept (key) (snap) {s : State} {q : List Instr} {k : Nat} (h : Kept q k s) :
    Kept q k (copyMap key snap s) := by
  delta copyMap
  repeat' first
    | with_reducible assumption
    | (lift_lets -underBinder; intro x; subst x)
    | (intro x; subst x)
    | refine kept_mk ?_ rfl rfl rfl rfl rfl rfl rfl rfl rfl

theorem dropMap_kept (key) {s : State} {q : List Instr} {k : Nat} (h : Kept q k s) :
    Kept q k (dropMap key s) := by
  delta dropMap
  repeat' first
    | with_reducible assumption
    | (intro x; refine (fun (hx : Kept q k x) => ?_) ?_; clear_value x; rotate_left; subst x; rotate_right)
    | (lift_lets -underBinder; intro x; subst x)
    | (intro x; subst x)
    | with_reducible apply kept_ite
    | with_reducible apply dropRef_kept
    | with_reducible refine kept_foldl (fun _ _ _ => ?_) _ ?_
    | split
    | refine kept_mk ?_ rfl rfl rfl rfl rfl rfl rfl rfl rfl

theorem pinChunk_kept (serial) {s : State} {q : List Instr} {k : Nat} (h : Kept q k s) :
    Kept q k (pinChunk serial s) := by
  delta pinChunk
  repeat' first
    | with_reducible assumption
    | with_reducible apply putChunk_kept
    | split

theorem nextSerial_kept {s : State} {q : List Instr} {k : Nat} (h : Kept q k s) :
    Kept q k (nextSerial s).2 := by
  delta nextSerial
  repeat' first
    | with_reducible assumption
    | (lift_lets -underBinder; intro x; subst x)
    | (intro x; subst x)
    | refine kept_mk ?_ rfl rfl rfl rfl rfl rfl rfl rfl rfl

/-! ### Machine/Records.lean -/

theorem writeSummary_kept {s : State} {q : List Instr} {k : Nat} (h : Kept q k s) :
    Kept q k (writeSummary s) := by
  delta writeSummary
  repeat' first
    | with_reducible assumption
    | (lift_lets -underBinder; intro x; subst x)
    | (intro x; subst x)
    | split
    | refine kept_mk ?_ rfl rfl rfl rfl rfl rfl rfl rfl rfl

theorem monEnable_kept (u) (en) {s : State} {q : List Instr} {k : Nat} (h : Kept q k s) :
    Kept q k (monEnable u en s) := by
  delta monEnable
  repeat' first
    | with_reducible assumption
    | (lift_lets -underBinder; intro x; subst x)
    | with_reducible apply setMon_kept

theorem monSnap_kept (u) {s : State} {q : List Instr} {k : Nat} (h : Kept q k s) :
    Kept q k (monSnap u s) := by
  delta monSnap
  repeat' first
    | with_reducible assumption
    | (lift_lets -underBinder; intro x; subst x)
    | (intro x; subst x)
    | with_reducible apply kept_ite
    | with_reducible apply draw_kept
    | with_reducible apply setMon_kept

theorem monStop_kept (u) {s : State} {q : List Instr} {k : Nat} (h : Kept q k s) :
    Kept q k (monStop u s) := by
  delta monStop
  repeat' first
    | with_reducible assumption
    | (lift_lets -underBinder; intro x; refine (fun (hx : Kept q k x) => ?_) ?_; clear_value x; rotate_left; subst x; rotate_right)
    | (intro x; subst x)
    | with_reducible apply kept_ite
    | with_reducible apply monSnap_kept
    | with_reducible apply setMon_kept

theorem logPut_ring (r : EvRec) (e : Evt) : (logPut r e).ring = e.ring := by
  delta logPut
  repeat' first
    | rfl

theorem eventLogAppend_kept {s : State} {q : List Instr} {k : Nat} (h : Kept q k s) : Kept q k (eventLogAppend s) := by
  have hf : ∀ (l : List EvRec) (e : Evt), (l.foldl (fun e r => logPut r e) e).ring = e.ring := by
    intro l
    induction l with
    | nil => intro e; rfl
    | cons r l ih => intro e; exact (ih _).trans (logPut_ring r e)
  unfold eventLogAppend
  repeat' first
    | with_reducible assumption
    | (intro x; refine (fun (hx : Kept q k x) => ?_) ?_; clear_value x; rotate_left; subst x; rotate_right)
    | (lift_lets -underBinder; intro x)
    | intro _
    | with_reducible apply kept_ite
    | with_reducible apply record_kept
    | refine kept_mk ?_ rfl rfl (hf _ _) rfl rfl rfl rfl rfl rfl
    | refine kept_mk ?_ rfl rfl rfl rfl rfl rfl rfl rfl rfl

theorem monArm_kept (u) {s : State} {q : List Instr} {k : Nat} (h : Kept q k s) :
    Kept q k (monArm u s) := by
  delta monArm
  repeat' first
    | with_reducible assumption
    | (intro x; refine (fun (hx : Kept q k x) => ?_) ?_; clear_value x; rotate_left; subst x; rotate_right)
    | (lift_lets -underBinder; intro x; subst x)
    | (intro x; subst x)
    | with_reducible apply setMon_kept
    | refine kept_mk ?_ rfl rfl rfl rfl rfl rfl rfl rfl rfl

theorem evrRdDataRead_kept {s : State} {q : List Instr} {k : Nat} (h : Kept q k s) :
    Kept q k (evrRdDataRead s) := by
  delta evrRdDataRead
  repeat' first
    | with_reducible assumption
    | (lift_lets -underBinder; intro x; subst x)
    | with_reducible apply emit_kept
    | refine kept_mk ?_ rfl rfl rfl rfl rfl rfl rfl rfl rfl

theorem monReadH_kept (p) {s : State} {q : List Instr} {k : Nat} (h : Kept q k s) :
    Kept q k (monReadH p s).2 := by
  delta monReadH
  repeat' first
    | with_reducible assumption
    | (intro x; refine (fun (hx : Kept q k x) => ?_) ?_; clear_value x; rotate_left; subst x; rotate_right)
    | (lift_lets -underBinder; intro x; subst x)
    | (intro x; subst x)
    | with_reducible apply kept_ite2
    | with_reducible apply monSnap_kept
    | with_reducible apply refuse_kept

theorem monWindowEnd_kept (u) {s : State} {q : List Instr} {k : Nat} (h : Kept q k s) :
    Kept q k (monWindowEnd u s) := by
  delta monWindowEnd
  repeat' first
    | with_reducible assumption
    | (lift_lets -underBinder; intro x; subst x)
    | (intro x; subst x)
    | with_reducible apply kept_ite
    | with_reducible apply setMon_kept

theorem monArmH_act_kept (p) (u) (disarm) (a3) {s : State} {q : List Instr} {k : Nat} (h : Kept q k s) :
    Kept q k (monArmH.act p u disarm a3 s) := by
  delta monArmH.act
  repeat' first
    | with_reducible assumption
    | (intro x; refine (fun (hx : Kept q k x) => ?_) ?_; clear_value x; rotate_left; subst x; rotate_right)
    | (lift_lets -underBinder; intro x; subst x)
    | with_reducible apply kept_ite
    | with_reducible apply dropClaim_kept
    | with_reducible apply monArm_kept
    | with_reducible apply monEnable_kept
    | with_reducible apply monStop_kept
    | with_reducible apply setClaim_kept
    | with_reducible apply setMon_kept

theorem monArmH_kept (p) {s : State} {q : List Instr} {k : Nat} (h : Kept q k s) :
    Kept q k (monArmH p s).2 := by
  delta monArmH
  repeat' first
    | with_reducible assumption
    | (lift_lets -underBinder; intro x; subst x)
    | (intro x; subst x)
    | with_reducible apply kept_ite2
    | with_reducible apply monArmH_act_kept
    | with_reducible apply refuse_kept
    | split

theorem evtReadH_kept (p) {s : State} {q : List Instr} {k : Nat} (h : Kept q k s) :
    Kept q k (evtReadH p s).2 := by
  delta evtReadH
  repeat' first
    | with_reducible assumption
    | (lift_lets -underBinder; intro x; subst x)
    | (intro x; subst x)
    | with_reducible apply kept_ite2
    | with_reducible apply refuse_kept

theorem evtSummaryH_kept (a0) {s : State} {q : List Instr} {k : Nat} (h : Kept q k s) :
    Kept q k (evtSummaryH a0 s).2 := by
  delta evtSummaryH
  repeat' first
    | with_reducible assumption

/-! ### Machine/Lat.lean -/

theorem emitAeth_kept (n) (psn) (syndrome) (msn) (o) {s : State} {q : List Instr} {k : Nat} (h : Kept q k s) :
    Kept q k (emitAeth n psn syndrome msn o s) := by
  delta emitAeth
  repeat' first
    | with_reducible assumption
    | with_reducible apply draw_kept
    | with_reducible apply emit_kept

theorem setQp_kept (n) (a1) {s : State} {q : List Instr} {k : Nat} (h : Kept q k s) :
    Kept q k (setQp n a1 s) := by
  delta setQp
  repeat' first
    | with_reducible assumption
    | (lift_lets -underBinder; intro x; subst x)
    | refine kept_mk ?_ rfl rfl rfl rfl rfl rfl rfl rfl rfl

theorem freeTagOf_kept (n) (tag) (asn) {s : State} {q : List Instr} {k : Nat} (h : Kept q k s) :
    Kept q k (freeTagOf n tag asn s) := by
  delta freeTagOf
  repeat' first
    | with_reducible assumption
    | (lift_lets -underBinder; intro x; subst x)
    | with_reducible apply kept_ite
    | with_reducible apply setQp_kept

theorem modCmd_kept (asn) (f) {s : State} {q : List Instr} {k : Nat} (h : Kept q k s) :
    Kept q k (modCmd asn f s) := by
  delta modCmd
  repeat' first
    | with_reducible assumption
    | (lift_lets -underBinder; intro x; subst x)
    | refine kept_mk ?_ rfl rfl rfl rfl rfl rfl rfl rfl rfl

theorem setTag_kept (n) (t) (g) {s : State} {q : List Instr} {k : Nat} (h : Kept q k s) :
    Kept q k (setTag n t g s) := by
  delta setTag
  repeat' first
    | with_reducible assumption
    | (lift_lets -underBinder; intro x; subst x)
    | with_reducible apply setQp_kept

theorem setCmd_kept (asn) (c) {s : State} {q : List Instr} {k : Nat} (h : Kept q k s) :
    Kept q k (setCmd asn c s) := by
  delta setCmd
  repeat' first
    | with_reducible assumption
    | (lift_lets -underBinder; intro x; subst x)
    | refine kept_mk ?_ rfl rfl rfl rfl rfl rfl rfl rfl rfl

theorem rekeyNote_kept (n) (before) (after) {s : State} {q : List Instr} {k : Nat} (h : Kept q k s) :
    Kept q k (rekeyNote n before after s) := by
  delta rekeyNote
  repeat' first
    | with_reducible assumption
    | with_reducible apply kept_ite
    | with_reducible apply record_kept

theorem txPacket_kept (n) (asn) (isSend) (op) (ext) (p) (mk) {s : State} {q : List Instr} {k : Nat} (h : Kept q k s) :
    Kept q k (txPacket n asn isSend op ext p mk s).2 := by
  delta txPacket
  repeat' first
    | with_reducible assumption
    | (intro x; refine (fun (hx : Kept q k x) => ?_) ?_; clear_value x; rotate_left; subst x; rotate_right)
    | (lift_lets -underBinder; intro x; subst x)
    | (intro x; subst x)
    | with_reducible apply kept_ite2
    | with_reducible apply draw_kept
    | with_reducible apply emit_kept
    | with_reducible apply record_kept
    | with_reducible apply rekeyNote_kept
    | with_reducible apply setQp_kept
    | split

theorem flushQp_kept (n) (a1) {a2 : State} {q : List Instr} {k : Nat} (h : Kept q k a2) :
    Kept q k (flushQp n a1 a2) := by
  induction a1 generalizing a2 with
  | zero =>
    unfold flushQp
    repeat' first
      | with_reducible assumption
  | succ m ih =>
    unfold flushQp
    repeat' first
      | with_reducible assumption
      | (lift_lets -underBinder; intro x; subst x)
      | (intro x; subst x)
      | with_reducible apply ih
      | with_reducible apply setQp_kept
      | with_reducible apply txPacket_kept
      | split
      | refine kept_snd (by with_reducible assumption) ?_

theorem flushAll_kept (n) {s : State} {q : List Instr} {k : Nat} (h : Kept q k s) :
    Kept q k (flushAll n s) := by
  delta flushAll
  repeat' first
    | with_reducible assumption
    | (lift_lets -underBinder; intro x; subst x)
    | with_reducible apply flushQp_kept

theorem postOn_kept (n) (tag) (st) (result) (bytes) {s : State} {q : List Instr} {k : Nat} (h : Kept q k s) :
    Kept q k (postOn n tag st result bytes s) := by
  delta postOn
  repeat' first
    | with_reducible assumption
    | (intro x; refine (fun (hx : Kept q k x) => ?_) ?_; clear_value x; rotate_left; subst x; rotate_right)
    | (lift_lets -underBinder; intro x; subst x)
    | with_reducible apply emit_kept
    | with_reducible apply flushAll_kept
    | with_reducible apply setQp_kept

theorem answerMsg_kept (n) (tag) (csn) (opcode) (st) (orig) (result) {s : State} {q : List Instr} {k : Nat} (h : Kept q k s) :
    Kept q k (answerMsg n tag csn opcode st orig result s) := by
  delta answerMsg
  repeat' first
    | with_reducible assumption
    | (lift_lets -underBinder; intro x; subst x)
    | with_reducible apply kept_ite
    | with_reducible apply postOn_kept
    | with_reducible apply setQp_kept

theorem enterReplay_kept (queueId) (e) {s : State} {q : List Instr} {k : Nat} (h : Kept q k s) :
    Kept q k (enterReplay queueId e s) := by
  delta enterReplay
  repeat' first
    | with_reducible assumption
    | (lift_lets -underBinder; intro x; subst x)
    | (intro x; subst x)
    | refine kept_mk ?_ rfl rfl rfl rfl rfl rfl rfl rfl rfl

theorem leaveTag_kept (c) (asn) {s : State} {q : List Instr} {k : Nat} (h : Kept q k s) :
    Kept q k (leaveTag c asn s) := by
  delta leaveTag
  repeat' first
    | with_reducible assumption
    | (lift_lets -underBinder; intro x; refine (fun (hx : Kept q k x) => ?_) ?_; clear_value x; rotate_left; subst x; rotate_right)
    | (intro x; refine (fun (hx : Kept q k x) => ?_) ?_; clear_value x; rotate_left; subst x; rotate_right)
    | (intro x; subst x)
    | with_reducible apply freeTagOf_kept
    | split
    | refine kept_mk ?_ rfl rfl rfl rfl rfl rfl rfl rfl rfl

theorem finishCmd_kept (asn) {s : State} {q : List Instr} {k : Nat} (h : Kept q k s) :
    Kept q k (finishCmd asn s) := by
  delta finishCmd
  repeat' first
    | with_reducible assumption
    | (lift_lets -underBinder; intro x; refine (fun (hx : Kept q k x) => ?_) ?_; clear_value x; rotate_left; subst x; rotate_right)
    | (intro x; refine (fun (hx : Kept q k x) => ?_) ?_; clear_value x; rotate_left; subst x; rotate_right)
    | (intro x; subst x)
    | with_reducible apply kept_ite
    | with_reducible apply enterReplay_kept
    | with_reducible apply leaveTag_kept
    | with_reducible apply monCount_kept
    | with_reducible apply postOn_kept
    | split
    | refine kept_mk ?_ rfl rfl rfl rfl rfl rfl rfl rfl rfl

/-! ### Machine/JRecord.lean -/

theorem sendFrames_kept (type) (id) (len) (payload) (segs) {s : State} {q : List Instr} {k : Nat} (h : Kept q k s) :
    Kept q k (sendFrames type id len payload segs s) := by
  delta sendFrames
  repeat' first
    | with_reducible assumption
    | with_reducible apply emit_kept
    | with_reducible refine kept_foldl (fun _ _ _ => ?_) _ ?_

/-! ### Machine/Journal.lean -/

theorem setFport_kept (n) (p) {s : State} {q : List Instr} {k : Nat} (h : Kept q k s) :
    Kept q k (setFport n p s) := by
  delta setFport
  repeat' first
    | with_reducible assumption
    | (lift_lets -underBinder; intro x; subst x)
    | refine kept_mk ?_ rfl rfl rfl rfl rfl rfl rfl rfl rfl

theorem dealSegs_kept (cls) (a1) (a2) (a3) {a4 : State} {q : List Instr} {k : Nat} (h : Kept q k a4) :
    Kept q k (dealSegs cls a1 a2 a3 a4).2 := by
  induction a1 generalizing a2 a3 a4 with
  | zero =>
    unfold dealSegs
    repeat' first
      | with_reducible assumption
  | succ m ih =>
    unfold dealSegs
    repeat' first
      | with_reducible assumption
      | (intro x; refine (fun (hx : Kept q k x) => ?_) ?_; clear_value x; rotate_left; subst x; rotate_right)
      | (lift_lets -underBinder; intro x; subst x)
      | (intro x; subst x)
      | with_reducible apply kept_ite2
      | with_reducible apply ih
      | with_reducible apply setFport_kept
      | split
      | refine kept_mk ?_ rfl rfl rfl rfl rfl rfl rfl rfl rfl

theorem ftbSend_kept (type) (cls) (len) (offs) (mk) {s : State} {q : List Instr} {k : Nat} (h : Kept q k s) :
    Kept q k (ftbSend type cls len offs mk s).2 := by
  delta ftbSend
  repeat' first
    | with_reducible assumption
    | (lift_lets -underBinder; intro x; subst x)
    | with_reducible apply kept_ite
    | with_reducible apply dealSegs_kept
    | with_reducible apply emit_kept
    | with_reducible apply monBegin_kept
    | with_reducible apply sendFrames_kept
    | refine kept_mk ?_ rfl rfl rfl rfl rfl rfl rfl rfl rfl

theorem ftbControl_kept (m) {s : State} {q : List Instr} {k : Nat} (h : Kept q k s) :
    Kept q k (ftbControl m s) := by
  delta ftbControl
  repeat' first
    | with_reducible assumption
    | with_reducible apply ftbSend_kept

theorem mirrorRec_kept (off) {s : State} {q : List Instr} {k : Nat} (h : Kept q k s) :
    Kept q k (mirrorRec off s) := by
  delta mirrorRec
  repeat' first
    | with_reducible assumption
    | (lift_lets -underBinder; intro x; subst x)
    | (intro x; subst x)
    | with_reducible apply kept_ite
    | with_reducible apply ftbSend_kept
    | split
    | refine kept_mk ?_ rfl rfl rfl rfl rfl rfl rfl rfl rfl

theorem writeRec_kept (asn) (unit) (units) (last) (body) {s : State} {q : List Instr} {k : Nat} (h : Kept q k s) :
    Kept q k (writeRec asn unit units last body s).2 := by
  delta writeRec
  repeat' first
    | with_reducible assumption
    | (intro x; refine (fun (hx : Kept q k x) => ?_) ?_; clear_value x; rotate_left; subst x; rotate_right)
    | (lift_lets -underBinder; intro x; subst x)
    | (intro x; subst x)
    | with_reducible apply kept_ite
    | with_reducible apply cnsStores_kept
    | with_reducible apply mirrorRec_kept
    | refine kept_mk ?_ rfl rfl rfl rfl rfl rfl rfl rfl rfl

theorem writeLoose_kept (body) {s : State} {q : List Instr} {k : Nat} (h : Kept q k s) :
    Kept q k (writeLoose body s).2 := by
  delta writeLoose
  repeat' first
    | with_reducible assumption
    | with_reducible apply writeRec_kept

theorem dropOwn_kept (offs) {s : State} {q : List Instr} {k : Nat} (h : Kept q k s) :
    Kept q k (dropOwn offs s) := by
  delta dropOwn
  repeat' first
    | with_reducible assumption
    | (lift_lets -underBinder; intro x; subst x)
    | (intro x; subst x)
    | refine kept_mk ?_ rfl rfl rfl rfl rfl rfl rfl rfl rfl

theorem ftbOnPort_kept (n) (m) {s : State} {q : List Instr} {k : Nat} (h : Kept q k s) :
    Kept q k (ftbOnPort n m s) := by
  delta ftbOnPort
  repeat' first
    | with_reducible assumption
    | (intro x; refine (fun (hx : Kept q k x) => ?_) ?_; clear_value x; rotate_left; subst x; rotate_right)
    | (lift_lets -underBinder; intro x; subst x)
    | (intro x; subst x)
    | with_reducible apply emit_kept
    | with_reducible apply sendFrames_kept
    | with_reducible apply setFport_kept
    | refine kept_mk ?_ rfl rfl rfl rfl rfl rfl rfl rfl rfl

theorem recordOutcome_kept (asn) (c) {s : State} {q : List Instr} {k : Nat} (h : Kept q k s) :
    Kept q k (recordOutcome asn c s) := by
  delta recordOutcome
  repeat' first
    | with_reducible assumption
    | with_reducible apply modCmd_kept
    | with_reducible apply writeRec_kept

theorem endTag_kept (asn) (c) {s : State} {q : List Instr} {k : Nat} (h : Kept q k s) :
    Kept q k (endTag asn c s) := by
  delta endTag
  repeat' first
    | with_reducible assumption
    | (lift_lets -underBinder; intro x; subst x)
    | with_reducible apply kept_ite
    | with_reducible apply setTag_kept

theorem decide__kept (asn) (st) (result) {s : State} {q : List Instr} {k : Nat} (h : Kept q k s) :
    Kept q k (decide_ asn st result s) := by
  delta decide_
  repeat' first
    | with_reducible assumption
    | (intro x; refine (fun (hx : Kept q k x) => ?_) ?_; clear_value x; rotate_left; subst x; rotate_right)
    | (lift_lets -underBinder; intro x; subst x)
    | (intro x; subst x)
    | with_reducible apply kept_ite
    | with_reducible apply endTag_kept
    | with_reducible apply recordOutcome_kept
    | with_reducible apply setCmd_kept
    | with_reducible apply writeRec_kept
    | split

theorem modOwn_kept (p) (f) {s : State} {q : List Instr} {k : Nat} (h : Kept q k s) :
    Kept q k (modOwn p f s) := by
  delta modOwn
  repeat' first
    | with_reducible assumption
    | (lift_lets -underBinder; intro x; subst x)
    | refine kept_mk ?_ rfl rfl rfl rfl rfl rfl rfl rfl rfl

theorem drainRecs_kept (offs) (asn) (unit) {s : State} {q : List Instr} {k : Nat} (h : Kept q k s) :
    Kept q k (drainRecs offs asn unit s) := by
  delta drainRecs
  repeat' first
    | with_reducible assumption
    | (lift_lets -underBinder; intro x; refine (fun (hx : Kept q k x) => ?_) ?_; clear_value x; rotate_left; subst x; rotate_right)
    | with_reducible apply kept_ite
    | with_reducible apply modOwn_kept
    | with_reducible apply writeLoose_kept

theorem freeDrained_kept {s : State} {q : List Instr} {k : Nat} (h : Kept q k s) :
    Kept q k (freeDrained s) := by
  delta freeDrained
  repeat' first
    | with_reducible assumption
    | (lift_lets -underBinder; intro x; refine (fun (hx : Kept q k x) => ?_) ?_; clear_value x; rotate_left; subst x; rotate_right)
    | (intro x; subst x)
    | with_reducible apply dropOwn_kept
    | with_reducible refine kept_foldl (fun _ _ _ => ?_) _ ?_
    | split
    | refine kept_mk ?_ rfl rfl rfl rfl rfl rfl rfl rfl rfl

theorem mirrorWaiting_kept (a0) {a1 : State} {q : List Instr} {k : Nat} (h : Kept q k a1) :
    Kept q k (mirrorWaiting a0 a1) := by
  induction a0 generalizing a1 with
  | zero =>
    unfold mirrorWaiting
    repeat' first
      | with_reducible assumption
  | succ m ih =>
    unfold mirrorWaiting
    repeat' first
      | with_reducible assumption
      | (intro x; refine (fun (hx : Kept q k x) => ?_) ?_; clear_value x; rotate_left; subst x; rotate_right)
      | (lift_lets -underBinder; intro x; subst x)
      | (intro x; subst x)
      | with_reducible apply kept_ite
      | with_reducible apply ih
      | with_reducible apply mirrorRec_kept
      | split
      | refine kept_mk ?_ rfl rfl rfl rfl rfl rfl rfl rfl rfl

theorem postReady_kept {s : State} {q : List Instr} {k : Nat} (h : Kept q k s) :
    Kept q k (postReady s) := by
  delta postReady
  repeat' first
    | with_reducible assumption
    | with_reducible apply finishCmd_kept
    | with_reducible refine kept_foldl (fun _ _ _ => ?_) _ ?_

theorem releaseLoose_kept {s : State} {q : List Instr} {k : Nat} (h : Kept q k s) :
    Kept q k (releaseLoose s) := by
  delta releaseLoose
  repeat' first
    | with_reducible assumption
    | with_reducible apply drainRecs_kept

end Sys2Proof.Machine
end

