-- ==== Sys2Proof/Laws/KeptPlace.lean ====
section
/-!
SUPPORT. Laws/KeptPlace.lean: that the sled ports, the shelves, the cold frame, the security engines, wear and the Dovecote carry the queue, the invariant of the head
and the rollback count from state to state (Kept), one lemma for each operation.
-/
namespace Sys2Proof.Machine

/-! ### Machine/Sled.lean -/

theorem adoptRecords_kept (g) {s : State} {q : List Instr} {k : Nat} (h : Kept q k s) :
    Kept q k (adoptRecords g s) := by
  delta adoptRecords
  repeat' first
    | with_reducible assumption
    | (lift_lets -underBinder; intro x; subst x)
    | (intro x; subst x)
    | split
    | refine kept_mk ?_ rfl rfl rfl rfl rfl rfl rfl rfl rfl

theorem setPort_kept (p) (v) {s : State} {q : List Instr} {k : Nat} (h : Kept q k s) :
    Kept q k (setPort p v s) := by
  delta setPort
  repeat' first
    | with_reducible assumption
    | (lift_lets -underBinder; intro x; subst x)
    | refine kept_mk ?_ rfl rfl rfl rfl rfl rfl rfl rfl rfl

theorem endSession_kept (p) {s : State} {q : List Instr} {k : Nat} (h : Kept q k s) :
    Kept q k (endSession p s) := by
  delta endSession
  repeat' first
    | with_reducible assumption
    | (intro x; refine (fun (hx : Kept q k x) => ?_) ?_; clear_value x; rotate_left; subst x; rotate_right)
    | (lift_lets -underBinder; intro x; subst x)
    | (intro x; subst x)
    | with_reducible apply kept_ite
    | with_reducible apply setPort_kept
    | refine kept_mk ?_ rfl rfl rfl rfl rfl rfl rfl rfl rfl

theorem disablePort_kept (p) {s : State} {q : List Instr} {k : Nat} (h : Kept q k s) :
    Kept q k (disablePort p s) := by
  delta disablePort
  repeat' first
    | with_reducible assumption
    | (lift_lets -underBinder; intro x; refine (fun (hx : Kept q k x) => ?_) ?_; clear_value x; rotate_left; subst x; rotate_right)
    | (intro x; refine (fun (hx : Kept q k x) => ?_) ?_; clear_value x; rotate_left; subst x; rotate_right)
    | (intro x; subst x)
    | with_reducible apply endSession_kept
    | with_reducible apply setPort_kept
    | refine kept_mk ?_ rfl rfl rfl rfl rfl rfl rfl rfl rfl

theorem putOrdered_kept (p) (l) {s : State} {q : List Instr} {k : Nat} (h : Kept q k s) :
    Kept q k (putOrdered p l s) := by
  delta putOrdered
  repeat' first
    | with_reducible assumption
    | (intro x; refine (fun (hx : Kept q k x) => ?_) ?_; clear_value x; rotate_left; subst x; rotate_right)
    | with_reducible apply kept_ite
    | with_reducible apply emit_kept
    | with_reducible apply setPort_kept

theorem putFlit_kept (p) (l) {s : State} {q : List Instr} {k : Nat} (h : Kept q k s) :
    Kept q k (putFlit p l s) := by
  delta putFlit
  repeat' first
    | with_reducible assumption
    | (lift_lets -underBinder; intro x; subst x)
    | with_reducible apply emit_kept
    | with_reducible apply setPort_kept

theorem countBlocks_kept (p) {s : State} {q : List Instr} {k : Nat} (h : Kept q k s) :
    Kept q k (countBlocks p s) := by
  delta countBlocks
  repeat' first
    | with_reducible assumption
    | (lift_lets -underBinder; intro x; subst x)
    | with_reducible apply kept_ite
    | with_reducible apply putOrdered_kept
    | with_reducible apply setPort_kept

theorem link_kept (p) (l) {s : State} {q : List Instr} {k : Nat} (h : Kept q k s) :
    Kept q k (link p l s) := by
  delta link
  repeat' first
    | with_reducible assumption
    | with_reducible apply countBlocks_kept
    | with_reducible apply putOrdered_kept
    | with_reducible apply putFlit_kept
    | with_reducible apply emit_kept
    | split

theorem enterDetect_kept (p) {s : State} {q : List Instr} {k : Nat} (h : Kept q k s) :
    Kept q k (enterDetect p s) := by
  delta enterDetect
  repeat' first
    | with_reducible assumption
    | (lift_lets -underBinder; intro x; refine (fun (hx : Kept q k x) => ?_) ?_; clear_value x; rotate_left; subst x; rotate_right)
    | (intro x; subst x)
    | with_reducible apply endSession_kept
    | with_reducible apply link_kept
    | with_reducible apply setPort_kept

theorem powerPort_kept (on) (p) {s : State} {q : List Instr} {k : Nat} (h : Kept q k s) :
    Kept q k (powerPort on p s) := by
  delta powerPort
  repeat' first
    | with_reducible assumption
    | (intro x; refine (fun (hx : Kept q k x) => ?_) ?_; clear_value x; rotate_left; subst x; rotate_right)
    | (lift_lets -underBinder; intro x; subst x)
    | with_reducible apply kept_ite
    | with_reducible apply disablePort_kept
    | with_reducible apply enterDetect_kept
    | with_reducible apply setPort_kept

theorem meter_kept (p) (c) {s : State} {q : List Instr} {k : Nat} (h : Kept q k s) :
    Kept q k (meter p c s) := by
  delta meter
  repeat' first
    | with_reducible assumption
    | (lift_lets -underBinder; intro x; subst x)
    | with_reducible apply kept_ite
    | refine kept_mk ?_ rfl rfl rfl rfl rfl rfl rfl rfl rfl

theorem pump_kept (p) (a1) {a2 : State} {q : List Instr} {k : Nat} (h : Kept q k a2) :
    Kept q k (pump p a1 a2) := by
  induction a1 generalizing a2 with
  | zero =>
    unfold pump
    repeat' first
      | with_reducible assumption
  | succ m ih =>
    unfold pump
    repeat' first
      | with_reducible assumption
      | (lift_lets -underBinder; intro x; subst x)
      | with_reducible apply kept_ite
      | with_reducible apply ih
      | with_reducible apply link_kept
      | with_reducible apply setPort_kept
      | split

theorem sendFlits_kept (p) (fs) {s : State} {q : List Instr} {k : Nat} (h : Kept q k s) :
    Kept q k (sendFlits p fs s) := by
  delta sendFlits
  repeat' first
    | with_reducible assumption
    | (lift_lets -underBinder; intro x; subst x)
    | (intro x; subst x)
    | with_reducible apply pump_kept
    | with_reducible apply setPort_kept

theorem sledStarts_kept (p) (c) {s : State} {q : List Instr} {k : Nat} (h : Kept q k s) :
    Kept q k (sledStarts p c s) := by
  delta sledStarts
  repeat' first
    | with_reducible assumption
    | with_reducible apply kept_ite
    | with_reducible apply monBegin_kept

theorem kick_kept (p) (a1) {a2 : State} {q : List Instr} {k : Nat} (h : Kept q k a2) :
    Kept q k (kick p a1 a2) := by
  induction a1 generalizing a2 with
  | zero =>
    unfold kick
    repeat' first
      | with_reducible assumption
  | succ m ih =>
    unfold kick
    repeat' first
      | with_reducible assumption
      | (lift_lets -underBinder; intro x; subst x)
      | (intro x; subst x)
      | with_reducible apply ih
      | with_reducible apply emit_kept
      | with_reducible apply meter_kept
      | with_reducible apply sendFlits_kept
      | with_reducible apply setPort_kept
      | with_reducible apply sledStarts_kept
      | split

theorem kickAll_kept (p) {s : State} {q : List Instr} {k : Nat} (h : Kept q k s) :
    Kept q k (kickAll p s) := by
  delta kickAll
  repeat' first
    | with_reducible assumption
    | (lift_lets -underBinder; intro x; subst x)
    | with_reducible apply kept_ite
    | with_reducible apply kick_kept
    | with_reducible apply link_kept

theorem sendSled_kept (p) (why) (c) {s : State} {q : List Instr} {k : Nat} (h : Kept q k s) :
    Kept q k (sendSled p why c s) := by
  delta sendSled
  repeat' first
    | with_reducible assumption
    | (lift_lets -underBinder; intro x; subst x)
    | with_reducible apply kickAll_kept
    | with_reducible apply setPort_kept

theorem replayFrom_kept (p) (seq) {s : State} {q : List Instr} {k : Nat} (h : Kept q k s) :
    Kept q k (replayFrom p seq s) := by
  delta replayFrom
  repeat' first
    | with_reducible assumption
    | (intro x; refine (fun (hx : Kept q k x) => ?_) ?_; clear_value x; rotate_left; subst x; rotate_right)
    | (lift_lets -underBinder; intro x; subst x)
    | (intro x; subst x)
    | with_reducible apply link_kept
    | with_reducible apply setPort_kept
    | with_reducible refine kept_foldl (fun _ _ _ => ?_) _ ?_

theorem recover_kept (asked) (p) {s : State} {q : List Instr} {k : Nat} (h : Kept q k s) :
    Kept q k (recover asked p s) := by
  delta recover
  repeat' first
    | with_reducible assumption
    | (lift_lets -underBinder; intro x; subst x)
    | with_reducible apply link_kept
    | with_reducible apply setPort_kept

theorem enterRecovery_kept (p) {s : State} {q : List Instr} {k : Nat} (h : Kept q k s) :
    Kept q k (enterRecovery p s) := by
  delta enterRecovery
  repeat' first
    | with_reducible assumption
    | with_reducible apply recover_kept

theorem linkError_kept (p) (cls) (detail) {s : State} {q : List Instr} {k : Nat} (h : Kept q k s) :
    Kept q k (linkError p cls detail s) := by
  delta linkError
  repeat' first
    | with_reducible assumption
    | with_reducible apply errorOn_kept

theorem resend_kept (p) (cls) {s : State} {q : List Instr} {k : Nat} (h : Kept q k s) :
    Kept q k (resend p cls s) := by
  delta resend
  repeat' first
    | with_reducible assumption
    | (intro x; refine (fun (hx : Kept q k x) => ?_) ?_; clear_value x; rotate_left; subst x; rotate_right)
    | (lift_lets -underBinder; intro x; subst x)
    | with_reducible apply kept_ite
    | with_reducible apply enterRecovery_kept
    | with_reducible apply linkError_kept
    | with_reducible apply replayFrom_kept
    | with_reducible apply setPort_kept
    | split

theorem replayTimeout_kept (p) {s : State} {q : List Instr} {k : Nat} (h : Kept q k s) :
    Kept q k (replayTimeout p s) := by
  delta replayTimeout
  repeat' first
    | with_reducible assumption
    | (lift_lets -underBinder; intro x; subst x)
    | with_reducible apply kept_ite
    | with_reducible apply resend_kept
    | with_reducible apply enterRecovery_kept
    | with_reducible apply linkError_kept
    | with_reducible apply replayFrom_kept
    | with_reducible apply setPort_kept
    | split

theorem portEnable_kept (p) (en) {s : State} {q : List Instr} {k : Nat} (h : Kept q k s) :
    Kept q k (portEnable p en s) := by
  delta portEnable
  repeat' first
    | with_reducible assumption
    | (intro x; refine (fun (hx : Kept q k x) => ?_) ?_; clear_value x; rotate_left; subst x; rotate_right)
    | (lift_lets -underBinder; intro x; subst x)
    | with_reducible apply kept_ite
    | with_reducible apply disablePort_kept
    | with_reducible apply enterDetect_kept
    | with_reducible apply setPort_kept

theorem portRetrain_kept (p) {s : State} {q : List Instr} {k : Nat} (h : Kept q k s) :
    Kept q k (portRetrain p s) := by
  delta portRetrain
  repeat' first
    | with_reducible assumption
    | with_reducible apply kept_ite
    | with_reducible apply recover_kept

theorem startPrbs_kept (p) {s : State} {q : List Instr} {k : Nat} (h : Kept q k s) :
    Kept q k (startPrbs p s) := by
  delta startPrbs
  repeat' first
    | with_reducible assumption
    | (lift_lets -underBinder; intro x; subst x)
    | with_reducible apply kept_ite
    | with_reducible apply sendFlits_kept
    | with_reducible apply setPort_kept

theorem oddOutcome_kept (p) (outcome) {s : State} {q : List Instr} {k : Nat} (h : Kept q k s) :
    Kept q k (oddOutcome p outcome s) := by
  delta oddOutcome
  repeat' first
    | with_reducible assumption
    | (lift_lets -underBinder; intro x; subst x)
    | with_reducible apply kept_ite
    | with_reducible apply record_kept
    | with_reducible apply setPort_kept

theorem makeUsable_kept (p) (alone) {s : State} {q : List Instr} {k : Nat} (h : Kept q k s) :
    Kept q k (makeUsable p alone s) := by
  delta makeUsable
  repeat' first
    | with_reducible assumption
    | (lift_lets -underBinder; intro x; subst x)
    | with_reducible apply kept_ite
    | with_reducible apply kickAll_kept
    | with_reducible apply setPort_kept

theorem framing_kept (p) {s : State} {q : List Instr} {k : Nat} (h : Kept q k s) :
    Kept q k (framing p s) := by
  delta framing
  repeat' first
    | with_reducible assumption
    | (lift_lets -underBinder; intro x; subst x)
    | with_reducible apply kept_ite
    | with_reducible apply enterRecovery_kept
    | with_reducible apply linkError_kept
    | with_reducible apply setPort_kept

theorem takeRecord_kept (g) (slot) (r) {s : State} {q : List Instr} {k : Nat} (h : Kept q k s) :
    Kept q k (takeRecord g slot r s) := by
  delta takeRecord
  repeat' first
    | with_reducible assumption
    | (lift_lets -underBinder; intro x; subst x)
    | (intro x; subst x)
    | with_reducible apply kept_ite
    | with_reducible apply record_kept
    | split
    | refine kept_mk ?_ rfl rfl rfl rfl rfl rfl rfl rfl rfl

theorem sledEnds_kept (p) (c) {s : State} {q : List Instr} {k : Nat} (h : Kept q k s) :
    Kept q k (sledEnds p c s) := by
  delta sledEnds
  repeat' first
    | with_reducible assumption
    | with_reducible apply kept_ite
    | with_reducible apply monEnd_kept

theorem takeResponse_kept (p) (tag) (op) {s : State} {q : List Instr} {k : Nat} (h : Kept q k s) :
    Kept q k (takeResponse p tag op s).2 := by
  delta takeResponse
  repeat' first
    | with_reducible assumption
    | (lift_lets -underBinder; intro x; refine (fun (hx : Kept q k x) => ?_) ?_; clear_value x; rotate_left; subst x; rotate_right)
    | (lift_lets -underBinder; intro x; subst x)
    | with_reducible apply kept_ite2
    | with_reducible apply kickAll_kept
    | with_reducible apply linkError_kept
    | with_reducible apply setPort_kept
    | with_reducible apply sledEnds_kept
    | split

theorem dropLink_kept (p) (detail) {s : State} {q : List Instr} {k : Nat} (h : Kept q k s) :
    Kept q k (dropLink p detail s) := by
  delta dropLink
  repeat' first
    | with_reducible assumption
    | with_reducible apply enterDetect_kept
    | with_reducible apply linkError_kept

theorem stateTimeout_kept (p) {s : State} {q : List Instr} {k : Nat} (h : Kept q k s) :
    Kept q k (stateTimeout p s) := by
  delta stateTimeout
  repeat' first
    | with_reducible assumption
    | (lift_lets -underBinder; intro x; subst x)
    | with_reducible apply kept_ite
    | with_reducible apply dropLink_kept
    | with_reducible apply enterDetect_kept

theorem pumpAll_kept (p) {s : State} {q : List Instr} {k : Nat} (h : Kept q k s) :
    Kept q k (pumpAll p s) := by
  delta pumpAll
  repeat' first
    | with_reducible assumption
    | with_reducible apply pump_kept

theorem backActive_kept (p) {s : State} {q : List Instr} {k : Nat} (h : Kept q k s) :
    Kept q k (backActive p s) := by
  delta backActive
  repeat' first
    | with_reducible assumption
    | (intro x; refine (fun (hx : Kept q k x) => ?_) ?_; clear_value x; rotate_left; subst x; rotate_right)
    | (lift_lets -underBinder; intro x; subst x)
    | with_reducible apply kept_ite
    | with_reducible apply kickAll_kept
    | with_reducible apply pumpAll_kept
    | with_reducible apply replayFrom_kept
    | with_reducible apply setPort_kept
    | split

theorem rxTs1_kept (p) (preset) (asked) {s : State} {q : List Instr} {k : Nat} (h : Kept q k s) :
    Kept q k (rxTs1 p preset asked s) := by
  delta rxTs1
  repeat' first
    | with_reducible assumption
    | (lift_lets -underBinder; intro x; subst x)
    | with_reducible apply kept_ite
    | with_reducible apply backActive_kept
    | with_reducible apply link_kept
    | with_reducible apply setPort_kept

theorem nakHoldoffEnd_kept (p) {s : State} {q : List Instr} {k : Nat} (h : Kept q k s) :
    Kept q k (nakHoldoffEnd p s) := by
  delta nakHoldoffEnd
  repeat' first
    | with_reducible assumption
    | (lift_lets -underBinder; intro x; subst x)
    | with_reducible apply setPort_kept

theorem sleepIdleTimer_kept (p) {s : State} {q : List Instr} {k : Nat} (h : Kept q k s) :
    Kept q k (sleepIdleTimer p s) := by
  delta sleepIdleTimer
  repeat' first
    | with_reducible assumption
    | (lift_lets -underBinder; intro x; subst x)
    | with_reducible apply kept_ite
    | with_reducible apply sendFlits_kept
    | with_reducible apply setPort_kept

theorem cmdTimeout_kept (p) (tag) (fourth) {s : State} {q : List Instr} {k : Nat} (h : Kept q k s) :
    Kept q k (cmdTimeout p tag fourth s) := by
  delta cmdTimeout
  repeat' first
    | with_reducible assumption
    | (lift_lets -underBinder; intro x; refine (fun (hx : Kept q k x) => ?_) ?_; clear_value x; rotate_left; subst x; rotate_right)
    | (intro x; refine (fun (hx : Kept q k x) => ?_) ?_; clear_value x; rotate_left; subst x; rotate_right)
    | (lift_lets -underBinder; intro x; subst x)
    | (intro x; subst x)
    | with_reducible apply kept_ite
    | with_reducible apply dropLink_kept
    | with_reducible apply linkError_kept
    | with_reducible apply setPort_kept
    | split
    | refine kept_mk ?_ rfl rfl rfl rfl rfl rfl rfl rfl rfl

theorem rxTs2_kept (p) (alone) (ts) {s : State} {q : List Instr} {k : Nat} (h : Kept q k s) :
    Kept q k (rxTs2 p alone ts s) := by
  delta rxTs2
  repeat' first
    | with_reducible assumption
    | (intro x; refine (fun (hx : Kept q k x) => ?_) ?_; clear_value x; rotate_left; subst x; rotate_right)
    | (lift_lets -underBinder; intro x; subst x)
    | (intro x; subst x)
    | with_reducible apply kept_ite
    | with_reducible apply dropLink_kept
    | with_reducible apply sendSled_kept
    | with_reducible apply setPort_kept

theorem detectRetry_kept (p) {s : State} {q : List Instr} {k : Nat} (h : Kept q k s) :
    Kept q k (detectRetry p s) := by
  delta detectRetry
  repeat' first
    | with_reducible assumption
    | with_reducible apply kept_ite
    | with_reducible apply link_kept

theorem takeAck_kept (p) (a1) {s : State} {q : List Instr} {k : Nat} (h : Kept q k s) :
    Kept q k (takeAck p a1 s) := by
  delta takeAck
  repeat' first
    | with_reducible assumption
    | (intro x; refine (fun (hx : Kept q k x) => ?_) ?_; clear_value x; rotate_left; subst x; rotate_right)
    | (lift_lets -underBinder; intro x; subst x)
    | with_reducible apply kept_ite
    | with_reducible apply link_kept
    | with_reducible apply pumpAll_kept
    | with_reducible apply setPort_kept
    | split

theorem testDone_kept (p) (errors) {s : State} {q : List Instr} {k : Nat} (h : Kept q k s) :
    Kept q k (testDone p errors s) := by
  delta testDone
  repeat' first
    | with_reducible assumption
    | (lift_lets -underBinder; intro x; subst x)
    | with_reducible apply kept_ite
    | with_reducible apply enterRecovery_kept
    | with_reducible apply link_kept
    | with_reducible apply setPort_kept

theorem returnCredit_kept (p) (vc) {s : State} {q : List Instr} {k : Nat} (h : Kept q k s) :
    Kept q k (returnCredit p vc s) := by
  delta returnCredit
  repeat' first
    | with_reducible assumption
    | (intro x; refine (fun (hx : Kept q k x) => ?_) ?_; clear_value x; rotate_left; subst x; rotate_right)
    | (lift_lets -underBinder; intro x; subst x)
    | with_reducible apply kept_ite
    | with_reducible apply sendFlits_kept
    | with_reducible apply setPort_kept

theorem sendNak_kept (p) {s : State} {q : List Instr} {k : Nat} (h : Kept q k s) :
    Kept q k (sendNak p s) := by
  delta sendNak
  repeat' first
    | with_reducible assumption
    | (lift_lets -underBinder; intro x; subst x)
    | with_reducible apply kept_ite
    | with_reducible apply link_kept
    | with_reducible apply setPort_kept

theorem rxFlit_kept (p) (f) {s : State} {q : List Instr} {k : Nat} (h : Kept q k s) :
    Kept q k (rxFlit p f s) := by
  delta rxFlit
  repeat' first
    | with_reducible assumption
    | (lift_lets -underBinder; intro x; refine (fun (hx : Kept q k x) => ?_) ?_; clear_value x; rotate_left; subst x; rotate_right)
    | (lift_lets -underBinder; intro x; subst x)
    | (intro x; subst x)
    | with_reducible apply kept_ite
    | with_reducible apply dropLink_kept
    | with_reducible apply link_kept
    | with_reducible apply linkError_kept
    | with_reducible apply pumpAll_kept
    | with_reducible apply returnCredit_kept
    | with_reducible apply sendNak_kept
    | with_reducible apply setPort_kept
    | with_reducible apply takeAck_kept
    | split

theorem rxCreditFlit_kept (p) (cmd) (mgmt) (data) {s : State} {q : List Instr} {k : Nat} (h : Kept q k s) :
    Kept q k (rxCreditFlit p cmd mgmt data s) := by
  delta rxCreditFlit
  repeat' first
    | with_reducible assumption
    | (lift_lets -underBinder; intro x; subst x)
    | with_reducible apply kept_ite
    | with_reducible apply kickAll_kept
    | with_reducible apply pumpAll_kept
    | with_reducible apply setPort_kept

theorem rxIdle_kept (p) (a1) {s : State} {q : List Instr} {k : Nat} (h : Kept q k s) :
    Kept q k (rxIdle p a1 s) := by
  delta rxIdle
  repeat' first
    | with_reducible assumption
    | with_reducible apply kept_ite
    | with_reducible apply takeAck_kept

theorem rxNak_kept (p) (seq) {s : State} {q : List Instr} {k : Nat} (h : Kept q k s) :
    Kept q k (rxNak p seq s) := by
  delta rxNak
  repeat' first
    | with_reducible assumption
    | (intro x; refine (fun (hx : Kept q k x) => ?_) ?_; clear_value x; rotate_left; subst x; rotate_right)
    | with_reducible apply kept_ite
    | with_reducible apply resend_kept
    | with_reducible apply takeAck_kept

theorem rxSleepNak_kept (p) {s : State} {q : List Instr} {k : Nat} (h : Kept q k s) :
    Kept q k (rxSleepNak p s) := by
  delta rxSleepNak
  repeat' first
    | with_reducible assumption
    | (lift_lets -underBinder; intro x; subst x)
    | with_reducible apply kept_ite
    | with_reducible apply kickAll_kept
    | with_reducible apply setPort_kept

theorem rxSleepAck_kept (p) {s : State} {q : List Instr} {k : Nat} (h : Kept q k s) :
    Kept q k (rxSleepAck p s) := by
  delta rxSleepAck
  repeat' first
    | with_reducible assumption
    | (lift_lets -underBinder; intro x; subst x)
    | with_reducible apply kept_ite
    | with_reducible apply kickAll_kept
    | with_reducible apply link_kept
    | with_reducible apply setPort_kept

theorem i2cTimeout_kept (g) (slot) (attempt) {s : State} {q : List Instr} {k : Nat} (h : Kept q k s) :
    Kept q k (i2cTimeout g slot attempt s) := by
  delta i2cTimeout
  repeat' first
    | with_reducible assumption
    | (lift_lets -underBinder; intro x; refine (fun (hx : Kept q k x) => ?_) ?_; clear_value x; rotate_left; subst x; rotate_right)
    | with_reducible apply kept_ite
    | with_reducible apply emit_kept
    | with_reducible apply takeRecord_kept

theorem farEnd_kept (p) {s : State} {q : List Instr} {k : Nat} (h : Kept q k s) :
    Kept q k (farEnd p s) := by
  delta farEnd
  repeat' first
    | with_reducible assumption
    | (lift_lets -underBinder; intro x; subst x)
    | with_reducible apply kept_ite
    | with_reducible apply link_kept
    | with_reducible apply setPort_kept

/-! ### Machine/Shelves.lean -/

theorem changeArray_kept (f) {s : State} {q : List Instr} {k : Nat} (h : Kept q k s) :
    Kept q k (changeArray f s) := by
  delta changeArray
  repeat' first
    | with_reducible assumption
    | (lift_lets -underBinder; intro x; subst x)
    | (intro x; subst x)
    | refine kept_mk ?_ rfl rfl rfl rfl rfl rfl rfl rfl rfl

theorem powerGroup_kept (g) (on) {s : State} {q : List Instr} {k : Nat} (h : Kept q k s) :
    Kept q k (powerGroup g on s) := by
  delta powerGroup
  repeat' first
    | with_reducible assumption
    | (lift_lets -underBinder; intro x; subst x)
    | (intro x; subst x)
    | with_reducible apply kept_ite
    | with_reducible apply powerPort_kept
    | with_reducible apply setPort_kept
    | with_reducible refine kept_foldl (fun _ _ _ => ?_) _ ?_

theorem setShelf_kept (g) (v) {s : State} {q : List Instr} {k : Nat} (h : Kept q k s) :
    Kept q k (setShelf g v s) := by
  delta setShelf
  repeat' first
    | with_reducible assumption
    | (lift_lets -underBinder; intro x; subst x)
    | refine kept_mk ?_ rfl rfl rfl rfl rfl rfl rfl rfl rfl

theorem addItem_kept (cls) (g) (work) (deadline) {s : State} {q : List Instr} {k : Nat} (h : Kept q k s) :
    Kept q k (addItem cls g work deadline s) := by
  delta addItem
  repeat' first
    | with_reducible assumption
    | (lift_lets -underBinder; intro x; subst x)
    | (intro x; subst x)
    | with_reducible apply kept_ite
    | refine kept_mk ?_ rfl rfl rfl rfl rfl rfl rfl rfl rfl

theorem releaseShelf_kept (g) (st) {s : State} {q : List Instr} {k : Nat} (h : Kept q k s) :
    Kept q k (releaseShelf g st s) := by
  delta releaseShelf
  repeat' first
    | with_reducible assumption
    | (lift_lets -underBinder; intro x; subst x)
    | with_reducible apply powerGroup_kept
    | with_reducible apply setShelf_kept

theorem goodRise_kept (g) {s : State} {q : List Instr} {k : Nat} (h : Kept q k s) :
    Kept q k (goodRise g s) := by
  delta goodRise
  repeat' first
    | with_reducible assumption
    | (intro x; refine (fun (hx : Kept q k x) => ?_) ?_; clear_value x; rotate_left; subst x; rotate_right)
    | (lift_lets -underBinder; intro x; subst x)
    | with_reducible apply kept_ite
    | with_reducible apply powerGroup_kept
    | with_reducible apply setShelf_kept

theorem tryShelf_kept (g) (v) {s : State} {q : List Instr} {k : Nat} (h : Kept q k s) :
    Kept q k (tryShelf g v s).2 := by
  delta tryShelf
  repeat' first
    | with_reducible assumption
    | (lift_lets -underBinder; intro x; refine (fun (hx : Kept q k x) => ?_) ?_; clear_value x; rotate_left; subst x; rotate_right)
    | with_reducible apply kept_ite2
    | with_reducible apply setShelf_kept

theorem grantWake_began_kept (g) (v) {s : State} {q : List Instr} {k : Nat} (h : Kept q k s) :
    Kept q k (grantWake.began g v s) := by
  delta grantWake.began
  repeat' first
    | with_reducible assumption
    | (intro x; refine (fun (hx : Kept q k x) => ?_) ?_; clear_value x; rotate_left; subst x; rotate_right)
    | (lift_lets -underBinder; intro x; subst x)
    | with_reducible apply kept_ite
    | with_reducible apply monBegin_kept
    | with_reducible apply note_kept
    | with_reducible apply powerGroup_kept
    | refine kept_mk ?_ rfl rfl rfl rfl rfl rfl rfl rfl rfl

theorem grantWake_kept (g) {s : State} {q : List Instr} {k : Nat} (h : Kept q k s) :
    Kept q k (grantWake g s) := by
  delta grantWake
  repeat' first
    | with_reducible assumption
    | (lift_lets -underBinder; intro x; refine (fun (hx : Kept q k x) => ?_) ?_; clear_value x; rotate_left; subst x; rotate_right)
    | (lift_lets -underBinder; intro x; subst x)
    | (intro x; subst x)
    | with_reducible apply kept_ite
    | with_reducible apply adoptRecords_kept
    | with_reducible apply grantWake_began_kept
    | with_reducible apply tryShelf_kept
    | split
    | refine kept_snd (by with_reducible assumption) ?_

theorem wantWake_kept (g) (cls) (deadline) {s : State} {q : List Instr} {k : Nat} (h : Kept q k s) :
    Kept q k (wantWake g cls deadline s) := by
  delta wantWake
  repeat' first
    | with_reducible assumption
    | with_reducible apply kept_ite
    | with_reducible apply addItem_kept

theorem heatTouch_kept (vol) (first) (blocks) {s : State} {q : List Instr} {k : Nat} (h : Kept q k s) :
    Kept q k (heatTouch vol first blocks s) := by
  delta heatTouch
  repeat' first
    | with_reducible assumption
    | (lift_lets -underBinder; intro x; subst x)
    | (intro x; subst x)
    | refine kept_mk ?_ rfl rfl rfl rfl rfl rfl rfl rfl rfl

theorem dropItems_kept (p) {s : State} {q : List Instr} {k : Nat} (h : Kept q k s) :
    Kept q k (dropItems p s) := by
  delta dropItems
  repeat' first
    | with_reducible assumption
    | (lift_lets -underBinder; intro x; subst x)
    | refine kept_mk ?_ rfl rfl rfl rfl rfl rfl rfl rfl rfl

theorem endHoldJob_kept (g) (st) {s : State} {q : List Instr} {k : Nat} (h : Kept q k s) :
    Kept q k (endHoldJob g st s) := by
  delta endHoldJob
  repeat' first
    | with_reducible assumption
    | (lift_lets -underBinder; intro x; subst x)
    | with_reducible apply kept_ite
    | with_reducible apply finishJobs_kept
    | with_reducible apply setShelf_kept

theorem kickShelf_kept (g) {s : State} {q : List Instr} {k : Nat} (h : Kept q k s) :
    Kept q k (kickShelf g s) := by
  delta kickShelf
  repeat' first
    | with_reducible assumption
    | with_reducible apply kickAll_kept
    | with_reducible refine kept_foldl (fun _ _ _ => ?_) _ ?_

theorem becomeAwake_kept (g) {s : State} {q : List Instr} {k : Nat} (h : Kept q k s) :
    Kept q k (becomeAwake g s) := by
  delta becomeAwake
  repeat' first
    | with_reducible assumption
    | (intro x; refine (fun (hx : Kept q k x) => ?_) ?_; clear_value x; rotate_left; subst x; rotate_right)
    | (lift_lets -underBinder; intro x; subst x)
    | (intro x; subst x)
    | with_reducible apply kept_ite
    | with_reducible apply dropItems_kept
    | with_reducible apply endHoldJob_kept
    | with_reducible apply kickShelf_kept
    | with_reducible apply monEnd_kept
    | with_reducible apply record_kept
    | with_reducible apply setShelf_kept
    | with_reducible refine kept_foldl (fun _ _ _ => ?_) _ ?_
    | refine kept_mk ?_ rfl rfl rfl rfl rfl rfl rfl rfl rfl

theorem checkAwake_kept (g) {s : State} {q : List Instr} {k : Nat} (h : Kept q k s) :
    Kept q k (checkAwake g s) := by
  delta checkAwake
  repeat' first
    | with_reducible assumption
    | with_reducible apply kept_ite
    | with_reducible apply becomeAwake_kept

theorem raiseCaps_kept (g) {s : State} {q : List Instr} {k : Nat} (h : Kept q k s) :
    Kept q k (raiseCaps g s) := by
  delta raiseCaps
  repeat' first
    | with_reducible assumption
    | (lift_lets -underBinder; intro x; subst x)
    | (intro x; subst x)
    | with_reducible apply kept_ite
    | with_reducible apply kickShelf_kept
    | with_reducible apply tryShelf_kept
    | split
    | refine kept_snd (by with_reducible assumption) ?_

theorem wakeRetry_kept (g) {s : State} {q : List Instr} {k : Nat} (h : Kept q k s) :
    Kept q k (wakeRetry g s) := by
  delta wakeRetry
  repeat' first
    | with_reducible assumption
    | (lift_lets -underBinder; intro x; subst x)
    | with_reducible apply kept_ite
    | with_reducible apply grantWake_kept
    | with_reducible apply setShelf_kept

theorem lowerCaps_kept (g) (low) (fits) {s : State} {q : List Instr} {k : Nat} (h : Kept q k s) :
    Kept q k (lowerCaps g low fits s) := by
  delta lowerCaps
  repeat' first
    | with_reducible assumption
    | (intro x; refine (fun (hx : Kept q k x) => ?_) ?_; clear_value x; rotate_left; subst x; rotate_right)
    | (lift_lets -underBinder; intro x; subst x)
    | with_reducible apply kept_ite
    | with_reducible apply setShelf_kept
    | split

theorem failWake_kept (g) {s : State} {q : List Instr} {k : Nat} (h : Kept q k s) :
    Kept q k (failWake g s) := by
  delta failWake
  repeat' first
    | with_reducible assumption
    | (intro x; refine (fun (hx : Kept q k x) => ?_) ?_; clear_value x; rotate_left; subst x; rotate_right)
    | (lift_lets -underBinder; intro x; subst x)
    | (intro x; subst x)
    | with_reducible apply kept_ite
    | with_reducible apply dropItems_kept
    | with_reducible apply endHoldJob_kept
    | with_reducible apply record_kept
    | with_reducible apply releaseShelf_kept
    | with_reducible apply setShelf_kept
    | refine kept_mk ?_ rfl rfl rfl rfl rfl rfl rfl rfl rfl

theorem wakeGrant_kept (g) {s : State} {q : List Instr} {k : Nat} (h : Kept q k s) :
    Kept q k (wakeGrant g s) := by
  delta wakeGrant
  repeat' first
    | with_reducible assumption
    | with_reducible apply kept_ite
    | with_reducible apply grantWake_kept

theorem pwrBudgetSetH_kept (p) {s : State} {q : List Instr} {k : Nat} (h : Kept q k s) :
    Kept q k (pwrBudgetSetH p s).2 := by
  delta pwrBudgetSetH
  repeat' first
    | with_reducible assumption
    | (lift_lets -underBinder; intro x; subst x)
    | (intro x; subst x)
    | with_reducible apply kept_ite2
    | with_reducible apply changeArray_kept
    | with_reducible apply note_kept

theorem heatHalve_kept {s : State} {q : List Instr} {k : Nat} (h : Kept q k s) :
    Kept q k (heatHalve s) := by
  delta heatHalve
  repeat' first
    | with_reducible assumption
    | (lift_lets -underBinder; intro x; subst x)
    | (intro x; subst x)
    | refine kept_mk ?_ rfl rfl rfl rfl rfl rfl rfl rfl rfl

theorem wakeTimeout_kept (g) (six) {s : State} {q : List Instr} {k : Nat} (h : Kept q k s) :
    Kept q k (wakeTimeout g six s) := by
  delta wakeTimeout
  repeat' first
    | with_reducible assumption
    | (lift_lets -underBinder; intro x; subst x)
    | with_reducible apply kept_ite
    | with_reducible apply becomeAwake_kept
    | with_reducible apply failWake_kept

theorem meterWindow_kept (g) {s : State} {q : List Instr} {k : Nat} (h : Kept q k s) :
    Kept q k (meterWindow g s) := by
  delta meterWindow
  repeat' first
    | with_reducible assumption
    | (lift_lets -underBinder; intro x; subst x)
    | with_reducible apply kickShelf_kept
    | with_reducible apply setShelf_kept

theorem plcPolicyH_kept (b) {s : State} {q : List Instr} {k : Nat} (h : Kept q k s) :
    Kept q k (plcPolicyH b s).2 := by
  delta plcPolicyH
  repeat' first
    | with_reducible assumption
    | (lift_lets -underBinder; intro x; subst x)
    | (intro x; subst x)
    | with_reducible apply kept_ite2
    | with_reducible apply changeArray_kept
    | with_reducible apply note_kept
    | with_reducible apply refuse_kept

theorem holdoffEnd_kept (g) {s : State} {q : List Instr} {k : Nat} (h : Kept q k s) :
    Kept q k (holdoffEnd g s) := by
  delta holdoffEnd
  repeat' first
    | with_reducible assumption
    | (intro x; refine (fun (hx : Kept q k x) => ?_) ?_; clear_value x; rotate_left; subst x; rotate_right)
    | (lift_lets -underBinder; intro x; subst x)
    | with_reducible apply kept_ite
    | with_reducible apply grantWake_kept
    | with_reducible apply setShelf_kept

theorem hourlyRetry_kept (g) {s : State} {q : List Instr} {k : Nat} (h : Kept q k s) :
    Kept q k (hourlyRetry g s) := by
  delta hourlyRetry
  repeat' first
    | with_reducible assumption
    | (lift_lets -underBinder; intro x; subst x)
    | with_reducible apply kept_ite
    | with_reducible apply grantWake_kept
    | with_reducible apply setShelf_kept
    | with_reducible apply wantWake_kept

theorem heatFold_kept {s : State} {q : List Instr} {k : Nat} (h : Kept q k s) :
    Kept q k (heatFold s) := by
  delta heatFold
  repeat' first
    | with_reducible assumption
    | (lift_lets -underBinder; intro x; subst x)
    | refine kept_mk ?_ rfl rfl rfl rfl rfl rfl rfl rfl rfl

theorem urgencyStep_kept (n) {s : State} {q : List Instr} {k : Nat} (h : Kept q k s) :
    Kept q k (urgencyStep n s) := by
  delta urgencyStep
  repeat' first
    | with_reducible assumption
    | (lift_lets -underBinder; intro x; subst x)
    | refine kept_mk ?_ rfl rfl rfl rfl rfl rfl rfl rfl rfl

/-! ### Machine/ColdFrame.lean -/

theorem modSet_kept (a0) (f) {s : State} {q : List Instr} {k : Nat} (h : Kept q k s) :
    Kept q k (modSet a0 f s) := by
  delta modSet
  repeat' first
    | with_reducible assumption
    | (lift_lets -underBinder; intro x; subst x)
    | refine kept_mk ?_ rfl rfl rfl rfl rfl rfl rfl rfl rfl

theorem modRow_kept (g) (n) (f) {s : State} {q : List Instr} {k : Nat} (h : Kept q k s) :
    Kept q k (modRow g n f s) := by
  delta modRow
  repeat' first
    | with_reducible assumption
    | (lift_lets -underBinder; intro x; subst x)
    | refine kept_mk ?_ rfl rfl rfl rfl rfl rfl rfl rfl rfl

theorem programPage_kept (key) (lin) (data) {s : State} {q : List Instr} {k : Nat} (h : Kept q k s) :
    Kept q k (programPage key lin data s) := by
  delta programPage
  repeat' first
    | with_reducible assumption
    | (lift_lets -underBinder; intro x; refine (fun (hx : Kept q k x) => ?_) ?_; clear_value x; rotate_left; subst x; rotate_right)
    | with_reducible apply modSet_kept
    | with_reducible apply sendSled_kept
    | split

theorem programBoth_kept (key) (lin) (data) {s : State} {q : List Instr} {k : Nat} (h : Kept q k s) :
    Kept q k (programBoth key lin data s) := by
  delta programBoth
  repeat' first
    | with_reducible assumption
    | with_reducible apply programPage_kept
    | split

theorem setOpenSled_kept (g) (sl) (os) {s : State} {q : List Instr} {k : Nat} (h : Kept q k s) :
    Kept q k (setOpenSled g sl os s) := by
  delta setOpenSled
  repeat' first
    | with_reducible assumption
    | (lift_lets -underBinder; intro x; subst x)
    | refine kept_mk ?_ rfl rfl rfl rfl rfl rfl rfl rfl rfl

theorem touchRow_kept (g) (ob) (n) {s : State} {q : List Instr} {k : Nat} (h : Kept q k s) :
    Kept q k (touchRow g ob n s) := by
  delta touchRow
  repeat' first
    | with_reducible assumption
    | (lift_lets -underBinder; intro x; subst x)
    | (intro x; subst x)
    | split
    | refine kept_mk ?_ rfl rfl rfl rfl rfl rfl rfl rfl rfl

theorem flushPage_kept (g) (sl) {s : State} {q : List Instr} {k : Nat} (h : Kept q k s) :
    Kept q k (flushPage g sl s) := by
  delta flushPage
  repeat' first
    | with_reducible assumption
    | (intro x; refine (fun (hx : Kept q k x) => ?_) ?_; clear_value x; rotate_left; subst x; rotate_right)
    | (lift_lets -underBinder; intro x; subst x)
    | (intro x; subst x)
    | with_reducible apply kept_ite
    | with_reducible apply modRow_kept
    | with_reducible apply programBoth_kept
    | with_reducible apply setOpenSled_kept
    | with_reducible apply touchRow_kept
    | split

theorem padPage_kept (g) (sl) {s : State} {q : List Instr} {k : Nat} (h : Kept q k s) :
    Kept q k (padPage g sl s) := by
  delta padPage
  repeat' first
    | with_reducible assumption
    | with_reducible apply kept_ite
    | with_reducible apply flushPage_kept
    | split

theorem padShelf_kept (g) {s : State} {q : List Instr} {k : Nat} (h : Kept q k s) :
    Kept q k (padShelf g s) := by
  delta padShelf
  repeat' first
    | with_reducible assumption
    | with_reducible apply padPage_kept
    | with_reducible refine kept_foldl (fun _ _ _ => ?_) _ ?_

theorem recordBlocks_kept (bs) {s : State} {q : List Instr} {k : Nat} (h : Kept q k s) :
    Kept q k (recordBlocks bs s) := by
  delta recordBlocks
  repeat' first
    | with_reducible assumption
    | with_reducible apply kept_ite
    | with_reducible apply writeLoose_kept

theorem verifyRead_kept (key) (lin) {s : State} {q : List Instr} {k : Nat} (h : Kept q k s) :
    Kept q k (verifyRead key lin s) := by
  delta verifyRead
  repeat' first
    | with_reducible assumption
    | with_reducible apply sendSled_kept
    | split

theorem startVerify_kept (key) {s : State} {q : List Instr} {k : Nat} (h : Kept q k s) :
    Kept q k (startVerify key s) := by
  delta startVerify
  repeat' first
    | with_reducible assumption
    | (lift_lets -underBinder; intro x; subst x)
    | with_reducible apply kept_ite
    | with_reducible apply modSet_kept
    | with_reducible apply verifyRead_kept
    | with_reducible refine kept_foldl (fun _ _ _ => ?_) _ ?_
    | split

theorem closeBand_kept (g) {s : State} {q : List Instr} {k : Nat} (h : Kept q k s) :
    Kept q k (closeBand g s) := by
  delta closeBand
  repeat' first
    | with_reducible assumption
    | (lift_lets -underBinder; intro x; refine (fun (hx : Kept q k x) => ?_) ?_; clear_value x; rotate_left; subst x; rotate_right)
    | (intro x; refine (fun (hx : Kept q k x) => ?_) ?_; clear_value x; rotate_left; subst x; rotate_right)
    | (lift_lets -underBinder; intro x; subst x)
    | (intro x; subst x)
    | with_reducible apply kept_ite
    | with_reducible apply modRow_kept
    | with_reducible apply modSet_kept
    | with_reducible apply padShelf_kept
    | with_reducible apply programBoth_kept
    | with_reducible apply recordBlocks_kept
    | with_reducible apply setShelf_kept
    | with_reducible apply startVerify_kept
    | with_reducible refine kept_foldl (fun _ _ _ => ?_) _ ?_
    | split
    | refine kept_mk ?_ rfl rfl rfl rfl rfl rfl rfl rfl rfl

theorem setBlk_kept (a0) (b) {s : State} {q : List Instr} {k : Nat} (h : Kept q k s) :
    Kept q k (setBlk a0 b s) := by
  delta setBlk
  repeat' first
    | with_reducible assumption
    | (lift_lets -underBinder; intro x; subst x)
    | refine kept_mk ?_ rfl rfl rfl rfl rfl rfl rfl rfl rfl

theorem takeBlocks_kept (b) {s : State} {q : List Instr} {k : Nat} (h : Kept q k s) :
    Kept q k (takeBlocks b s) := by
  delta takeBlocks
  repeat' first
    | with_reducible assumption
    | (lift_lets -underBinder; intro x; subst x)
    | (intro x; subst x)
    | with_reducible apply kept_ite
    | with_reducible apply setBlk_kept
    | with_reducible refine kept_foldl (fun _ _ _ => ?_) _ ?_

theorem openBand_kept {g : Nat} {q : List Instr} {k : Nat} {s t : State} (h : Kept q k s)
    (ho : openBand g s = some t) : Kept q k t := by
  unfold openBand at ho
  dsimp only at ho
  generalize hr : List.foldl _ (s, []) (List.range 32) = r at ho
  have hs : Kept q k r.1 := by
    rw [← hr]
    refine kept_foldl1 (fun acc sl ha => ?_) _ h
    obtain ⟨s1, ok⟩ := acc
    replace ha : Kept q k s1 := ha
    have hb := fun b => takeBlocks_kept b ha
    have hc := fun b c => takeBlocks_kept c (takeBlocks_kept b ha)
    dsimp only
    split
    · exact ha
    · split
      · exact ha
      · split
        · exact ha
        · exact kept_mk (hc _ _) rfl rfl rfl rfl rfl rfl rfl rfl rfl
  split at ho
  · cases ho
  · cases ho
    exact setShelf_kept _ _ (recordBlocks_kept _ (kept_mk hs rfl rfl rfl rfl rfl rfl rfl rfl rfl))

theorem writeGrains_kept (g) (sl) (a2) (a3) {a4 : State} {q : List Instr} {k : Nat} (h : Kept q k a4) :
    Kept q k (writeGrains g sl a2 a3 a4).2 := by
  induction a2 generalizing a3 a4 with
  | zero =>
    unfold writeGrains
    repeat' first
      | with_reducible assumption
  | succ m ih =>
    unfold writeGrains
    repeat' first
      | with_reducible assumption
      | (intro x; refine (fun (hx : Kept q k x) => ?_) ?_; clear_value x; rotate_left; subst x; rotate_right)
      | (lift_lets -underBinder; intro x; subst x)
      | (intro x; subst x)
      | with_reducible apply kept_ite
      | with_reducible apply kept_ite2
      | with_reducible apply ih
      | with_reducible apply flushPage_kept
      | with_reducible apply setOpenSled_kept
      | split

theorem placeRound_kept (g) (bytes) {again : State → Option (Nat × List (Nat × Nat × Nat)) × State} {s : State} {q : List Instr} {k : Nat} (hagain : ∀ y0, Kept q k y0 → Kept q k (again y0).2) (h : Kept q k s) :
    Kept q k (placeRound g bytes again s).2 := by
  delta placeRound
  repeat' first
    | with_reducible assumption
    | (intro x; refine (fun (hx : Kept q k x) => ?_) ?_; clear_value x; rotate_left; subst x; rotate_right)
    | (lift_lets -underBinder; intro x; subst x)
    | (intro x; subst x)
    | with_reducible apply kept_ite
    | with_reducible apply kept_ite2
    | with_reducible apply hagain
    | with_reducible apply closeBand_kept
    | with_reducible apply flushPage_kept
    | exact openBand_kept (by with_reducible assumption) (by with_reducible assumption)
    | with_reducible apply writeGrains_kept
    | with_reducible refine kept_foldl (fun _ _ _ => ?_) _ ?_
    | split
    | refine kept_mk ?_ rfl rfl rfl rfl rfl rfl rfl rfl rfl

theorem placeBytes_kept (g) (bytes) (a2) {a3 : State} {q : List Instr} {k : Nat} (h : Kept q k a3) :
    Kept q k (placeBytes g bytes a2 a3).2 := by
  induction a2 generalizing a3 with
  | zero =>
    unfold placeBytes
    repeat' first
      | with_reducible assumption
  | succ m ih =>
    unfold placeBytes
    repeat' first
      | with_reducible assumption
      | with_reducible apply placeRound_kept

theorem accumulate_kept (g) (n) (j) (page) {s : State} {q : List Instr} {k : Nat} (h : Kept q k s) :
    Kept q k (accumulate g n j page s) := by
  delta accumulate
  repeat' first
    | with_reducible assumption
    | with_reducible apply modRow_kept

theorem releaseSecondaries_kept (g) (band) {s : State} {q : List Instr} {k : Nat} (h : Kept q k s) :
    Kept q k (releaseSecondaries g band s) := by
  delta releaseSecondaries
  repeat' first
    | with_reducible assumption
    | (lift_lets -underBinder; intro x; subst x)
    | with_reducible apply kept_ite
    | refine kept_mk ?_ rfl rfl rfl rfl rfl rfl rfl rfl rfl

theorem checkHardened_kept (g) (n) {s : State} {q : List Instr} {k : Nat} (h : Kept q k s) :
    Kept q k (checkHardened g n s) := by
  delta checkHardened
  repeat' first
    | with_reducible assumption
    | (lift_lets -underBinder; intro x; refine (fun (hx : Kept q k x) => ?_) ?_; clear_value x; rotate_left; subst x; rotate_right)
    | (intro x; refine (fun (hx : Kept q k x) => ?_) ?_; clear_value x; rotate_left; subst x; rotate_right)
    | (intro x; subst x)
    | with_reducible apply kept_ite
    | with_reducible apply modRow_kept
    | with_reducible apply releaseSecondaries_kept
    | split
    | refine kept_mk ?_ rfl rfl rfl rfl rfl rfl rfl rfl rfl

theorem programParity_kept (g) (n) {s : State} {q : List Instr} {k : Nat} (h : Kept q k s) :
    Kept q k (programParity g n s) := by
  delta programParity
  repeat' first
    | with_reducible assumption
    | (lift_lets -underBinder; intro x; refine (fun (hx : Kept q k x) => ?_) ?_; clear_value x; rotate_left; subst x; rotate_right)
    | (intro x; refine (fun (hx : Kept q k x) => ?_) ?_; clear_value x; rotate_left; subst x; rotate_right)
    | (lift_lets -underBinder; intro x; subst x)
    | with_reducible apply kept_ite
    | with_reducible apply modRow_kept
    | with_reducible apply programPage_kept
    | with_reducible refine kept_foldl (fun _ _ _ => ?_) _ ?_
    | split

theorem askMember_kept (row) (j) (lin) (c) {s : State} {q : List Instr} {k : Nat} (h : Kept q k s) :
    Kept q k (askMember row j lin c s) := by
  delta askMember
  repeat' first
    | with_reducible assumption
    | with_reducible apply sendSled_kept

theorem readMember_kept (g) (n) (j) {s : State} {q : List Instr} {k : Nat} (h : Kept q k s) :
    Kept q k (readMember g n j s) := by
  delta readMember
  repeat' first
    | with_reducible assumption
    | (lift_lets -underBinder; intro x; subst x)
    | with_reducible apply askMember_kept
    | with_reducible apply sendSled_kept
    | split

theorem hardenRow_kept (g) (n) (force) {s : State} {q : List Instr} {k : Nat} (h : Kept q k s) :
    Kept q k (hardenRow g n force s) := by
  delta hardenRow
  repeat' first
    | with_reducible assumption
    | (lift_lets -underBinder; intro x; refine (fun (hx : Kept q k x) => ?_) ?_; clear_value x; rotate_left; subst x; rotate_right)
    | with_reducible apply kept_ite
    | with_reducible apply modRow_kept
    | with_reducible apply programParity_kept
    | with_reducible apply readMember_kept
    | with_reducible refine kept_foldl (fun _ _ _ => ?_) _ ?_
    | split

/-! ### Machine/Crypto.lean -/

theorem keyDataWrite_kept (i w) {q : List Instr} {k : Nat} {s : State} (h : Kept q k s) :
    Kept q k (keyDataWrite i w s) := by
  delta keyDataWrite
  refine kept_ite (kept_mk h rfl rfl rfl rfl rfl rfl rfl rfl rfl) ?_
  exact kept_sec h ((List.length_set ..).trans h.2.1.keyRegs) rfl h.2.1.lodge

theorem q2Submit_kept (tail) {s : State} {q : List Instr} {k : Nat} (h : Kept q k s) :
    Kept q k (q2Submit tail s) := by
  delta q2Submit
  repeat' first
    | with_reducible assumption
    | (lift_lets -underBinder; intro x; subst x)
    | (intro x; subst x)
    | with_reducible apply monBegin_kept
    | with_reducible refine kept_foldl (fun _ _ _ => ?_) _ ?_
    | split
    | refine kept_mk ?_ rfl rfl rfl rfl rfl rfl rfl rfl rfl

theorem setSlot_kept (a0) (v) {s : State} {q : List Instr} {k : Nat} (h : Kept q k s) :
    Kept q k (setSlot a0 v s) := by
  delta setSlot
  repeat' first
    | with_reducible assumption
    | (lift_lets -underBinder; intro x; subst x)
    | refine kept_mk ?_ rfl rfl rfl rfl rfl rfl rfl rfl rfl

theorem loadSlot_kept (j key purpose domain version) {q : List Instr} {k : Nat} {s : State} (h : Kept q k s) :
    Kept q k (loadSlot j key purpose domain version s) := by
  delta loadSlot
  refine kept_ite h ?_
  have h' := setSlot_kept j { key := key, purpose := purpose, domain := domain, version := version, kcv := keyCheck key } h
  exact kept_sec h' rfl rfl h'.2.1.lodge

theorem zeroiseSlot_kept (a0) {s : State} {q : List Instr} {k : Nat} (h : Kept q k s) :
    Kept q k (zeroiseSlot a0 s) := by
  delta zeroiseSlot
  repeat' first
    | with_reducible assumption
    | (lift_lets -underBinder; intro x; subst x)
    | with_reducible apply kept_ite
    | with_reducible apply setSlot_kept

theorem applyKeyOp_kept (op) {s : State} {q : List Instr} {k : Nat} (h : Kept q k s) :
    Kept q k (applyKeyOp op s) := by
  delta applyKeyOp
  repeat' first
    | with_reducible assumption
    | with_reducible apply kept_ite
    | with_reducible apply loadSlot_kept
    | with_reducible apply zeroiseSlot_kept

theorem startKeyOp_kept (slot zero) {q : List Instr} {k : Nat} {s : State} (h : Kept q k s) :
    Kept q k (startKeyOp slot zero s) := by
  delta startKeyOp
  refine kept_ite h ?_
  have h' : Kept q k { s with sec := { s.sec with ctlSlot := BitVec.ofNat 12 slot, ctlOp := zero } } :=
    kept_mk h rfl rfl rfl rfl rfl rfl rfl rfl rfl
  refine kept_ite (kept_sec h' ?_ rfl h'.2.1.lodge) (applyKeyOp_kept _ h')
  show (if zero then s.sec.keyData else [0, 0, 0, 0, 0, 0, 0, 0]).length = 8
  split
  · exact h.2.1.keyRegs
  · rfl

theorem dgtOwned_kept (user) {f : Digest → State → State} {s : State} {q : List Instr} {k : Nat} (hf : ∀ y0 y1, Kept q k y1 → Kept q k (f y0 y1)) (h : Kept q k s) :
    Kept q k (dgtOwned user f s) := by
  delta dgtOwned
  repeat' first
    | with_reducible assumption
    | (lift_lets -underBinder; intro x; subst x)
    | (intro x; subst x)
    | with_reducible apply kept_ite
    | with_reducible apply hf
    | refine kept_mk ?_ rfl rfl rfl rfl rfl rfl rfl rfl rfl

theorem setDgt_kept (d) {s : State} {q : List Instr} {k : Nat} (h : Kept q k s) :
    Kept q k (setDgt d s) := by
  delta setDgt
  repeat' first
    | with_reducible assumption
    | (lift_lets -underBinder; intro x; subst x)
    | refine kept_mk ?_ rfl rfl rfl rfl rfl rfl rfl rfl rfl

theorem digestFinal_kept (user) (lastBytes) {s : State} {q : List Instr} {k : Nat} (h : Kept q k s) :
    Kept q k (digestFinal user lastBytes s) := by
  delta digestFinal
  repeat' first
    | with_reducible assumption
    | (lift_lets -underBinder; intro x; subst x)
    | (intro x; subst x)
    | intro _
    | with_reducible apply kept_ite
    | with_reducible apply dgtOwned_kept
    | with_reducible apply setDgt_kept

theorem digestStart_kept (user) (alg) (hmac) (restore) (slot) {s : State} {q : List Instr} {k : Nat} (h : Kept q k s) :
    Kept q k (digestStart user alg hmac restore slot s) := by
  delta digestStart
  repeat' first
    | with_reducible assumption
    | (lift_lets -underBinder; intro x; subst x)
    | (intro x; subst x)
    | intro _
    | with_reducible apply kept_ite
    | with_reducible apply dgtOwned_kept
    | with_reducible apply setDgt_kept

theorem dgtGrant_kept {s : State} {q : List Instr} {k : Nat} (h : Kept q k s) :
    Kept q k (dgtGrant s) := by
  delta dgtGrant
  repeat' first
    | with_reducible assumption
    | (lift_lets -underBinder; intro x; subst x)
    | (intro x; subst x)
    | with_reducible apply kept_ite
    | with_reducible apply setClaim_kept
    | with_reducible apply setDgt_kept

theorem dgtRelease_kept {q : List Instr} {k : Nat} {s : State} (h : Kept q k s) : Kept q k (dgtRelease s) := by
  delta dgtRelease
  exact dgtGrant_kept (kept_mk (setDgt_kept _ h) rfl rfl rfl rfl rfl rfl rfl rfl rfl)

theorem digestClaimRequest_kept (req) {s : State} {q : List Instr} {k : Nat} (h : Kept q k s) :
    Kept q k (digestClaimRequest req s) := by
  delta digestClaimRequest
  repeat' first
    | with_reducible assumption
    | (intro x; refine (fun (hx : Kept q k x) => ?_) ?_; clear_value x; rotate_left; subst x; rotate_right)
    | (lift_lets -underBinder; intro x; subst x)
    | (intro x; subst x)
    | with_reducible apply kept_ite
    | with_reducible apply dgtGrant_kept
    | with_reducible apply record_kept
    | with_reducible apply setDgt_kept

theorem dgtWindowRequest_kept (req) {s : State} {q : List Instr} {k : Nat} (h : Kept q k s) :
    Kept q k (dgtWindowRequest req s) := by
  delta dgtWindowRequest
  repeat' first
    | with_reducible assumption
    | (lift_lets -underBinder; intro x; refine (fun (hx : Kept q k x) => ?_) ?_; clear_value x; rotate_left; subst x; rotate_right)
    | (intro x; subst x)
    | with_reducible apply kept_ite
    | with_reducible apply digestClaimRequest_kept
    | split
    | refine kept_mk ?_ rfl rfl rfl rfl rfl rfl rfl rfl rfl

theorem digestDataWrite_kept (user) (w) {s : State} {q : List Instr} {k : Nat} (h : Kept q k s) :
    Kept q k (digestDataWrite user w s) := by
  delta digestDataWrite
  repeat' first
    | with_reducible assumption
    | (lift_lets -underBinder; intro x; subst x)
    | intro _
    | with_reducible apply kept_ite
    | with_reducible apply dgtOwned_kept
    | with_reducible apply setDgt_kept

theorem pkaSubmit_kept (op) {s : State} {q : List Instr} {k : Nat} (h : Kept q k s) :
    Kept q k (pkaSubmit op s) := by
  delta pkaSubmit
  repeat' first
    | with_reducible assumption
    | (lift_lets -underBinder; intro x; subst x)
    | split
    | refine kept_mk ?_ rfl rfl rfl rfl rfl rfl rfl rfl rfl

theorem drbgReseed_kept {s : State} {q : List Instr} {k : Nat} (h : Kept q k s) :
    Kept q k (drbgReseed s) := by
  delta drbgReseed
  repeat' first
    | with_reducible assumption
    | (lift_lets -underBinder; intro x; subst x)
    | with_reducible apply kept_ite
    | refine kept_mk ?_ rfl rfl rfl rfl rfl rfl rfl rfl rfl

theorem drbgRequest_kept {s : State} {q : List Instr} {k : Nat} (h : Kept q k s) :
    Kept q k (drbgRequest s) := by
  delta drbgRequest
  repeat' first
    | with_reducible assumption
    | (lift_lets -underBinder; intro x; subst x)
    | split
    | refine kept_mk ?_ rfl rfl rfl rfl rfl rfl rfl rfl rfl

theorem pkaDone_kept (selfCheckOk) {s : State} {q : List Instr} {k : Nat} (h : Kept q k s) :
    Kept q k (pkaDone selfCheckOk s) := by
  delta pkaDone
  repeat' first
    | with_reducible assumption
    | (lift_lets -underBinder; intro x; subst x)
    | split
    | refine kept_mk ?_ rfl rfl rfl rfl rfl rfl rfl rfl rfl

theorem digestWindowIdleTimeout_kept {s : State} {q : List Instr} {k : Nat} (h : Kept q k s) :
    Kept q k (digestWindowIdleTimeout s) := by
  delta digestWindowIdleTimeout
  repeat' first
    | with_reducible assumption
    | with_reducible apply kept_ite
    | with_reducible apply dgtRelease_kept
    | with_reducible apply record_kept

theorem q2Done_kept (id poisoned) {q : List Instr} {k : Nat} {s : State} (h : Kept q k s) :
    Kept q k (q2Done id poisoned s) := by
  delta q2Done
  dsimp only
  generalize s.sec.q2Head.toNat = i
  refine kept_ite h ?_
  generalize q2Run s i poisoned = r
  obtain ⟨outcome, bytes⟩ := r
  dsimp only
  generalize hm : memPuts (memPuts s.sec.lodgeMem _ bytes) _ _ = mem
  have hw : Memory.wf mem = true := hm ▸ memPuts_wf (memPuts_wf h.2.1.lodge)
  generalize hs : (if outcome = 3 then _ else _ : State) = s2
  have h2 : Kept q k s2 := by
    rw [← hs]
    refine kept_ite (record_kept _ _ _ _ _ (monEnd_kept _ _ _ ?_)) (monEnd_kept _ _ _ ?_) <;> exact kept_sec h h.2.1.keyRegs rfl hw
  split
  · exact h2
  · exact kept_ite h2 (applyKeyOp_kept _ (kept_mk h2 rfl rfl rfl rfl rfl rfl rfl rfl rfl))

theorem rngHealthTrip_kept (apt withinMinute) {q : List Instr} {k : Nat} {s : State} (h : Kept q k s) :
    Kept q k (rngHealthTrip apt withinMinute s) := by
  delta rngHealthTrip
  cases apt <;> exact kept_ite (record_kept _ _ _ _ _ (kept_mk h rfl rfl rfl rfl rfl rfl rfl rfl rfl))
    (kept_mk h rfl rfl rfl rfl rfl rfl rfl rfl rfl)

theorem digestBlockDone_kept {s : State} {q : List Instr} {k : Nat} (h : Kept q k s) :
    Kept q k (digestBlockDone s) := by
  delta digestBlockDone
  repeat' first
    | with_reducible assumption
    | (lift_lets -underBinder; intro x; subst x)
    | (intro x; subst x)
    | with_reducible apply kept_ite
    | with_reducible apply setDgt_kept

/-! ### Machine/Wear.lean -/

theorem bandAhead_kept (g) (band) {s : State} {q : List Instr} {k : Nat} (h : Kept q k s) :
    Kept q k (bandAhead g band s) := by
  delta bandAhead
  repeat' first
    | with_reducible assumption
    | with_reducible apply addItem_kept

theorem blockAhead_kept (port) (die) (block) {s : State} {q : List Instr} {k : Nat} (h : Kept q k s) :
    Kept q k (blockAhead port die block s) := by
  delta blockAhead
  repeat' first
    | with_reducible assumption
    | with_reducible apply bandAhead_kept
    | split

theorem closeShort_kept (g) (sl) (ob) {s : State} {q : List Instr} {k : Nat} (h : Kept q k s) :
    Kept q k (closeShort g sl ob s) := by
  delta closeShort
  with_reducible refine kept_foldl (fun _ _ _ => ?_) _ ?_
  · with_reducible refine kept_ite ?_ ?_
    · assumption
    · dsimp only
      split
      · assumption
      · exact startVerify_kept _ (startVerify_kept _ (modSet_kept _ _ (modSet_kept _ _ (by assumption))))
  · exact h

theorem loseSled_kept (g) (sl) {s : State} {q : List Instr} {k : Nat} (h : Kept q k s) :
    Kept q k (loseSled g sl s) := by
  delta loseSled
  repeat' first
    | with_reducible assumption
    | (intro x; refine (fun (hx : Kept q k x) => ?_) ?_; clear_value x; rotate_left; subst x; rotate_right)
    | (lift_lets -underBinder; intro x; subst x)
    | with_reducible apply kept_ite
    | with_reducible apply closeShort_kept
    | with_reducible apply record_kept
    | with_reducible apply setShelf_kept
    | split
    | refine kept_mk ?_ rfl rfl rfl rfl rfl rfl rfl rfl rfl

theorem retireDie_kept (port) (die) {s : State} {q : List Instr} {k : Nat} (h : Kept q k s) :
    Kept q k (retireDie port die s) := by
  delta retireDie
  repeat' first
    | with_reducible assumption
    | (intro x; refine (fun (hx : Kept q k x) => ?_) ?_; clear_value x; rotate_left; subst x; rotate_right)
    | (lift_lets -underBinder; intro x; subst x)
    | (intro x; subst x)
    | with_reducible apply kept_ite
    | with_reducible apply bandAhead_kept
    | with_reducible apply loseSled_kept
    | with_reducible apply record_kept
    | with_reducible refine kept_foldl (fun _ _ _ => ?_) _ ?_
    | refine kept_mk ?_ rfl rfl rfl rfl rfl rfl rfl rfl rfl

theorem retireBlock_kept (port) (die) (block) {s : State} {q : List Instr} {k : Nat} (h : Kept q k s) :
    Kept q k (retireBlock port die block s) := by
  delta retireBlock
  repeat' first
    | with_reducible assumption
    | (intro x; refine (fun (hx : Kept q k x) => ?_) ?_; clear_value x; rotate_left; subst x; rotate_right)
    | (lift_lets -underBinder; intro x; subst x)
    | (intro x; subst x)
    | with_reducible apply kept_ite
    | with_reducible apply blockAhead_kept
    | with_reducible apply record_kept
    | with_reducible apply recordBlocks_kept
    | with_reducible apply retireDie_kept
    | with_reducible apply setBlk_kept
    | refine kept_mk ?_ rfl rfl rfl rfl rfl rfl rfl rfl rfl

theorem eraseAt_kept (key) (pos) {s : State} {q : List Instr} {k : Nat} (h : Kept q k s) :
    Kept q k (eraseAt key pos s) := by
  delta eraseAt
  repeat' first
    | with_reducible assumption
    | (lift_lets -underBinder; intro x; subst x)
    | (intro x; subst x)
    | with_reducible apply sendSled_kept
    | with_reducible apply testAtErase_kept
    | split

theorem freeDieParity_kept (key) {s : State} {q : List Instr} {k : Nat} (h : Kept q k s) :
    Kept q k (freeDieParity key s) := by
  delta freeDieParity
  repeat' first
    | with_reducible assumption
    | (lift_lets -underBinder; intro x; subst x)
    | with_reducible apply kept_ite
    | with_reducible apply eraseAt_kept
    | with_reducible apply modSet_kept
    | split

theorem eraseEnd_kept (key) {s : State} {q : List Instr} {k : Nat} (h : Kept q k s) :
    Kept q k (eraseEnd key s) := by
  delta eraseEnd
  repeat' first
    | with_reducible assumption
    | (lift_lets -underBinder; intro x; refine (fun (hx : Kept q k x) => ?_) ?_; clear_value x; rotate_left; subst x; rotate_right)
    | (intro x; subst x)
    | with_reducible apply kept_ite
    | with_reducible apply recordBlocks_kept
    | split
    | refine kept_mk ?_ rfl rfl rfl rfl rfl rfl rfl rfl rfl

theorem erased_kept (key) (pos) {s : State} {q : List Instr} {k : Nat} (h : Kept q k s) :
    Kept q k (erased key pos s) := by
  delta erased
  repeat' first
    | with_reducible assumption
    | (intro x; refine (fun (hx : Kept q k x) => ?_) ?_; clear_value x; rotate_left; subst x; rotate_right)
    | (lift_lets -underBinder; intro x; subst x)
    | (intro x; subst x)
    | with_reducible apply kept_ite
    | with_reducible apply eraseEnd_kept
    | with_reducible apply modSet_kept
    | with_reducible apply recordBlocks_kept
    | with_reducible apply setBlk_kept
    | split
    | refine kept_mk ?_ rfl rfl rfl rfl rfl rfl rfl rfl rfl

theorem checkDisturb_kept (a0) {s : State} {q : List Instr} {k : Nat} (h : Kept q k s) :
    Kept q k (checkDisturb a0 s) := by
  delta checkDisturb
  repeat' first
    | with_reducible assumption
    | (intro x; refine (fun (hx : Kept q k x) => ?_) ?_; clear_value x; rotate_left; subst x; rotate_right)
    | (lift_lets -underBinder; intro x; subst x)
    | (intro x; subst x)
    | with_reducible apply kept_ite
    | with_reducible apply addItem_kept
    | split
    | refine kept_mk ?_ rfl rfl rfl rfl rfl rfl rfl rfl rfl

theorem foldReads_kept (a0) {s : State} {q : List Instr} {k : Nat} (h : Kept q k s) :
    Kept q k (foldReads a0 s) := by
  delta foldReads
  repeat' first
    | with_reducible assumption
    | (intro x; refine (fun (hx : Kept q k x) => ?_) ?_; clear_value x; rotate_left; subst x; rotate_right)
    | (lift_lets -underBinder; intro x; subst x)
    | (intro x; subst x)
    | with_reducible apply kept_ite
    | with_reducible apply checkDisturb_kept
    | with_reducible apply setBlk_kept
    | refine kept_mk ?_ rfl rfl rfl rfl rfl rfl rfl rfl rfl

theorem countRead_kept (port) (die) (block) {s : State} {q : List Instr} {k : Nat} (h : Kept q k s) :
    Kept q k (countRead port die block s) := by
  delta countRead
  repeat' first
    | with_reducible assumption
    | (intro x; refine (fun (hx : Kept q k x) => ?_) ?_; clear_value x; rotate_left; subst x; rotate_right)
    | (lift_lets -underBinder; intro x; subst x)
    | (intro x; subst x)
    | with_reducible apply kept_ite
    | with_reducible apply checkDisturb_kept
    | with_reducible apply draw_kept
    | with_reducible apply foldReads_kept
    | with_reducible apply setBlk_kept
    | refine kept_mk ?_ rfl rfl rfl rfl rfl rfl rfl rfl rfl

theorem planGc_kept (g) {s : State} {q : List Instr} {k : Nat} (h : Kept q k s) :
    Kept q k (planGc g s) := by
  delta planGc
  repeat' first
    | with_reducible assumption
    | (lift_lets -underBinder; intro x; refine (fun (hx : Kept q k x) => ?_) ?_; clear_value x; rotate_left; subst x; rotate_right)
    | with_reducible apply kept_ite
    | with_reducible apply addItem_kept
    | with_reducible apply bandAhead_kept
    | with_reducible refine kept_foldl (fun _ _ _ => ?_) _ ?_
    | split

theorem foldAll_kept {s : State} {q : List Instr} {k : Nat} (h : Kept q k s) :
    Kept q k (foldAll s) := by
  delta foldAll
  repeat' first
    | with_reducible assumption
    | with_reducible apply foldReads_kept
    | with_reducible refine kept_foldl (fun _ _ _ => ?_) _ ?_

theorem eraseSet_kept (key) {s : State} {q : List Instr} {k : Nat} (h : Kept q k s) :
    Kept q k (eraseSet key s) := by
  delta eraseSet
  repeat' first
    | with_reducible assumption
    | (intro x; refine (fun (hx : Kept q k x) => ?_) ?_; clear_value x; rotate_left; subst x; rotate_right)
    | (lift_lets -underBinder; intro x; subst x)
    | (intro x; subst x)
    | with_reducible apply kept_ite
    | with_reducible apply eraseAt_kept
    | with_reducible apply eraseEnd_kept
    | with_reducible apply modSet_kept
    | with_reducible apply retireBlock_kept
    | with_reducible refine kept_foldl (fun _ _ _ => ?_) _ ?_
    | split

/-! ### Machine/Dovecote.lean -/

theorem updateIndex_kept (serial) (loc) {s : State} {q : List Instr} {k : Nat} (h : Kept q k s) :
    Kept q k (updateIndex serial loc s) := by
  delta updateIndex
  repeat' first
    | with_reducible assumption
    | (lift_lets -underBinder; intro x; subst x)
    | (intro x; subst x)
    | refine kept_mk ?_ rfl rfl rfl rfl rfl rfl rfl rfl rfl

theorem reloadFilter_kept {s : State} {q : List Instr} {k : Nat} (h : Kept q k s) :
    Kept q k (reloadFilter s) := by
  delta reloadFilter
  repeat' first
    | with_reducible assumption
    | (lift_lets -underBinder; intro x; subst x)
    | refine kept_mk ?_ rfl rfl rfl rfl rfl rfl rfl rfl rfl

theorem domCount_kept (d) (f) {s : State} {q : List Instr} {k : Nat} (h : Kept q k s) :
    Kept q k (domCount d f s) := by
  delta domCount
  repeat' first
    | with_reducible assumption
    | (lift_lets -underBinder; intro x; subst x)
    | refine kept_mk ?_ rfl rfl rfl rfl rfl rfl rfl rfl rfl

theorem insertNow_kept (fp) (serial) (d) {s : State} {q : List Instr} {k : Nat} (h : Kept q k s) :
    Kept q k (insertNow fp serial d s) := by
  delta insertNow
  repeat' first
    | with_reducible assumption
    | (intro x; refine (fun (hx : Kept q k x) => ?_) ?_; clear_value x; rotate_left; subst x; rotate_right)
    | (lift_lets -underBinder; intro x; subst x)
    | (intro x; subst x)
    | with_reducible apply kept_ite
    | with_reducible apply cnsStores_kept
    | with_reducible apply domCount_kept
    | split
    | refine kept_mk ?_ rfl rfl rfl rfl rfl rfl rfl rfl rfl

theorem insertIndex_kept (fp) (serial) (d) {s : State} {q : List Instr} {k : Nat} (h : Kept q k s) :
    Kept q k (insertIndex fp serial d s) := by
  delta insertIndex
  repeat' first
    | with_reducible assumption
    | (lift_lets -underBinder; intro x; subst x)
    | with_reducible apply kept_ite
    | with_reducible apply insertNow_kept
    | refine kept_mk ?_ rfl rfl rfl rfl rfl rfl rfl rfl rfl

theorem readGroup_kept (b) {s : State} {q : List Instr} {k : Nat} (h : Kept q k s) :
    Kept q k (readGroup b s) := by
  delta readGroup
  repeat' first
    | with_reducible assumption
    | with_reducible apply emit_kept

theorem reloadBucket_kept (b) {s : State} {q : List Instr} {k : Nat} (h : Kept q k s) :
    Kept q k (reloadBucket b s) := by
  delta reloadBucket
  repeat' first
    | with_reducible assumption
    | (intro x; refine (fun (hx : Kept q k x) => ?_) ?_; clear_value x; rotate_left; subst x; rotate_right)
    | (lift_lets -underBinder; intro x; subst x)
    | (intro x; subst x)
    | with_reducible apply draw_kept
    | with_reducible apply insertNow_kept
    | with_reducible refine kept_foldl (fun _ _ _ => ?_) _ ?_
    | refine kept_mk ?_ rfl rfl rfl rfl rfl rfl rfl rfl rfl

theorem loadNext_kept {s : State} {q : List Instr} {k : Nat} (h : Kept q k s) :
    Kept q k (loadNext s) := by
  delta loadNext
  repeat' first
    | with_reducible assumption
    | with_reducible apply readGroup_kept
    | with_reducible apply reloadBucket_kept
    | split

theorem countDecomp_kept (tooLong) {s : State} {q : List Instr} {k : Nat} (h : Kept q k s) :
    Kept q k (countDecomp tooLong s) := by
  delta countDecomp
  repeat' first
    | with_reducible assumption
    | (lift_lets -underBinder; intro x; subst x)
    | split
    | refine kept_mk ?_ rfl rfl rfl rfl rfl rfl rfl rfl rfl

theorem askReloads_kept (bs) {s : State} {q : List Instr} {k : Nat} (h : Kept q k s) :
    Kept q k (askReloads bs s) := by
  delta askReloads
  repeat' first
    | with_reducible assumption
    | (lift_lets -underBinder; intro x; subst x)
    | refine kept_mk ?_ rfl rfl rfl rfl rfl rfl rfl rfl rfl

/-! ### Machine/Fetch.lean -/

theorem issueReads_kept (n) {s : State} {q : List Instr} {k : Nat} (h : Kept q k s) :
    Kept q k (issueReads n s) := by
  delta issueReads
  repeat' first
    | with_reducible assumption
    | with_reducible apply sendSled_kept
    | with_reducible refine kept_foldl (fun _ _ _ => ?_) _ ?_
    | split

theorem lostEvent_kept (serial) {s : State} {q : List Instr} {k : Nat} (h : Kept q k s) :
    Kept q k (lostEvent serial s) := by
  delta lostEvent
  repeat' first
    | with_reducible assumption
    | (intro x; refine (fun (hx : Kept q k x) => ?_) ?_; clear_value x; rotate_left; subst x; rotate_right)
    | (lift_lets -underBinder; intro x; subst x)
    | (intro x; subst x)
    | with_reducible apply record_kept
    | refine kept_mk ?_ rfl rfl rfl rfl rfl rfl rfl rfl rfl

theorem modFetch_kept (f) (g) {s : State} {q : List Instr} {k : Nat} (h : Kept q k s) :
    Kept q k (modFetch f g s) := by
  delta modFetch
  repeat' first
    | with_reducible assumption
    | (lift_lets -underBinder; intro x; subst x)
    | refine kept_mk ?_ rfl rfl rfl rfl rfl rfl rfl rfl rfl

theorem readStaged_kept (serial) {s : State} {q : List Instr} {k : Nat} (h : Kept q k s) :
    Kept q k (readStaged serial s) := by
  delta readStaged
  repeat' first
    | with_reducible assumption
    | with_reducible apply cnsReads_kept
    | split

theorem tryFetch_kept (n) (a1) {a2 : State} {q : List Instr} {k : Nat} (h : Kept q k a2) :
    Kept q k (tryFetch n a1 a2) := by
  induction a1 generalizing a2 with
  | zero =>
    unfold tryFetch
    repeat' first
      | with_reducible assumption
  | succ m ih =>
    unfold tryFetch
    repeat' first
      | with_reducible assumption
      | (lift_lets -underBinder; intro x; subst x)
      | with_reducible apply kept_ite
      | with_reducible apply ih
      | with_reducible apply draw_kept
      | with_reducible apply issueReads_kept
      | with_reducible apply lostEvent_kept
      | with_reducible apply modFetch_kept
      | with_reducible apply readStaged_kept
      | split

theorem startFetch_kept (serial) (why) {s : State} {q : List Instr} {k : Nat} (h : Kept q k s) :
    Kept q k (startFetch serial why s) := by
  delta startFetch
  repeat' first
    | with_reducible assumption
    | (lift_lets -underBinder; intro x; subst x)
    | (intro x; subst x)
    | with_reducible apply tryFetch_kept
    | refine kept_mk ?_ rfl rfl rfl rfl rfl rfl rfl rfl rfl

theorem startMove_kept (serial) (g) (why) {s : State} {q : List Instr} {k : Nat} (h : Kept q k s) :
    Kept q k (startMove serial g why s) := by
  delta startMove
  repeat' first
    | with_reducible assumption
    | (lift_lets -underBinder; intro x; subst x)
    | (intro x; subst x)
    | with_reducible apply kept_ite
    | with_reducible apply startFetch_kept
    | split
    | refine kept_mk ?_ rfl rfl rfl rfl rfl rfl rfl rfl rfl

theorem placeCopy_kept (m) {s : State} {q : List Instr} {k : Nat} (h : Kept q k s) :
    Kept q k (placeCopy m s) := by
  delta placeCopy
  repeat' first
    | with_reducible assumption
    | (lift_lets -underBinder; intro x; subst x)
    | (intro x; subst x)
    | with_reducible apply kept_ite
    | with_reducible apply placeBytes_kept
    | split
    | refine kept_snd (by with_reducible assumption) ?_
    | refine kept_mk ?_ rfl rfl rfl rfl rfl rfl rfl rfl rfl

theorem endMove_kept (m) {s : State} {q : List Instr} {k : Nat} (h : Kept q k s) :
    Kept q k (endMove m s) := by
  delta endMove
  repeat' first
    | with_reducible assumption
    | (lift_lets -underBinder; intro x; subst x)
    | refine kept_mk ?_ rfl rfl rfl rfl rfl rfl rfl rfl rfl

theorem drainStaged_kept (serial) {s : State} {q : List Instr} {k : Nat} (h : Kept q k s) :
    Kept q k (drainStaged serial s) := by
  delta drainStaged
  repeat' first
    | with_reducible assumption
    | with_reducible apply cnsDrains_kept
    | split

theorem failSource_kept (n) (delivered) {s : State} {q : List Instr} {k : Nat} (h : Kept q k s) :
    Kept q k (failSource n delivered s) := by
  delta failSource
  repeat' first
    | with_reducible assumption
    | with_reducible apply modFetch_kept
    | with_reducible apply tryFetch_kept

theorem reresolve_kept (n) (delivered) {s : State} {q : List Instr} {k : Nat} (h : Kept q k s) :
    Kept q k (reresolve n delivered s) := by
  delta reresolve
  repeat' first
    | with_reducible assumption
    | with_reducible apply kept_ite
    | with_reducible apply failSource_kept
    | with_reducible apply modFetch_kept
    | with_reducible apply tryFetch_kept
    | split

theorem fetchArrived_kept (n) {s : State} {q : List Instr} {k : Nat} (h : Kept q k s) :
    Kept q k (fetchArrived n s) := by
  delta fetchArrived
  repeat' first
    | with_reducible assumption
    | (lift_lets -underBinder; intro x; subst x)
    | (intro x; subst x)
    | with_reducible apply kept_ite
    | with_reducible apply failSource_kept
    | with_reducible apply modFetch_kept
    | with_reducible apply reresolve_kept
    | split

theorem fetchPiece_kept (n) (i) (outcome) (data) {s : State} {q : List Instr} {k : Nat} (h : Kept q k s) :
    Kept q k (fetchPiece n i outcome data s) := by
  delta fetchPiece
  repeat' first
    | with_reducible assumption
    | with_reducible apply kept_ite
    | with_reducible apply failSource_kept
    | with_reducible apply fetchArrived_kept
    | with_reducible apply modFetch_kept
    | with_reducible apply reresolve_kept
    | split

theorem markRecovered_kept (n) (envelope) (region) {s : State} {q : List Instr} {k : Nat} (h : Kept q k s) :
    Kept q k (markRecovered n envelope region s) := by
  delta markRecovered
  repeat' first
    | with_reducible assumption
    | (intro x; refine (fun (hx : Kept q k x) => ?_) ?_; clear_value x; rotate_left; subst x; rotate_right)
    | (lift_lets -underBinder; intro x; subst x)
    | (intro x; subst x)
    | with_reducible apply kept_ite
    | split
    | refine kept_mk ?_ rfl rfl rfl rfl rfl rfl rfl rfl rfl

end Sys2Proof.Machine
end

