-- ==== Sys2Proof/Laws/KeptMedia.lean ====
section
/-!
SUPPORT. Laws/KeptMedia.lean: that the media keeper, ingest and reads carry the queue, the invariant of the head
and the rollback count from state to state (Kept), one lemma for each operation.
-/
namespace Sys2Proof.Machine

/-! ### Machine/Media.lean -/

theorem placeAgain_kept (isCopy) (a1) (p) {s : State} {q : List Instr} {k : Nat} (h : Kept q k s) :
    Kept q k (placeAgain isCopy a1 p s) := by
  delta placeAgain
  repeat' first
    | with_reducible assumption
    | (lift_lets -underBinder; intro x; subst x)
    | (intro x; subst x)
    | with_reducible apply kept_ite
    | with_reducible apply placeBytes_kept
    | split
    | refine kept_snd (by with_reducible assumption) ?_
    | refine kept_mk ?_ rfl rfl rfl rfl rfl rfl rfl rfl rfl

theorem renewSled_kept (g) (sl) {s : State} {q : List Instr} {k : Nat} (h : Kept q k s) :
    Kept q k (renewSled g sl s) := by
  delta renewSled
  repeat' first
    | with_reducible assumption
    | (lift_lets -underBinder; intro x; refine (fun (hx : Kept q k x) => ?_) ?_; clear_value x; rotate_left; subst x; rotate_right)
    | (intro x; refine (fun (hx : Kept q k x) => ?_) ?_; clear_value x; rotate_left; subst x; rotate_right)
    | (lift_lets -underBinder; intro x; subst x)
    | (intro x; subst x)
    | with_reducible apply takeBlocks_kept
    | split
    | refine kept_mk ?_ rfl rfl rfl rfl rfl rfl rfl rfl rfl

theorem programFailed_kept (key) (lin) (retire) {s : State} {q : List Instr} {k : Nat} (h : Kept q k s) :
    Kept q k (programFailed key lin retire s) := by
  delta programFailed
  repeat' first
    | with_reducible assumption
    | (intro x; refine (fun (hx : Kept q k x) => ?_) ?_; clear_value x; rotate_left; subst x; rotate_right)
    | (lift_lets -underBinder; intro x; subst x)
    | (intro x; subst x)
    | with_reducible apply kept_ite
    | with_reducible apply modRow_kept
    | with_reducible apply modSet_kept
    | with_reducible apply placeAgain_kept
    | with_reducible apply renewSled_kept
    | with_reducible apply retireBlock_kept
    | with_reducible apply startMove_kept
    | with_reducible apply startVerify_kept
    | with_reducible refine kept_foldl (fun _ _ _ => ?_) _ ?_
    | split
    | refine kept_mk ?_ rfl rfl rfl rfl rfl rfl rfl rfl rfl

theorem checkPair_kept (key) {s : State} {q : List Instr} {k : Nat} (h : Kept q k s) :
    Kept q k (checkPair key s) := by
  delta checkPair
  repeat' first
    | with_reducible assumption
    | (lift_lets -underBinder; intro x; subst x)
    | (intro x; subst x)
    | with_reducible apply kept_ite
    | with_reducible apply freeDieParity_kept
    | with_reducible apply modSet_kept
    | split

theorem verifyPass_kept (key) (lin) (data) {s : State} {q : List Instr} {k : Nat} (h : Kept q k s) :
    Kept q k (verifyPass key lin data s) := by
  delta verifyPass
  repeat' first
    | with_reducible assumption
    | (lift_lets -underBinder; intro x; refine (fun (hx : Kept q k x) => ?_) ?_; clear_value x; rotate_left; subst x; rotate_right)
    | (intro x; refine (fun (hx : Kept q k x) => ?_) ?_; clear_value x; rotate_left; subst x; rotate_right)
    | with_reducible apply kept_ite
    | with_reducible apply accumulate_kept
    | with_reducible apply checkHardened_kept
    | with_reducible apply checkPair_kept
    | with_reducible apply hardenRow_kept
    | with_reducible apply modRow_kept
    | with_reducible apply modSet_kept
    | split

theorem rebuildWrite_kept (r) (w) (key) (lin) (page) {s : State} {q : List Instr} {k : Nat} (h : Kept q k s) :
    Kept q k (rebuildWrite r w key lin page s) := by
  delta rebuildWrite
  repeat' first
    | with_reducible assumption
    | (lift_lets -underBinder; intro x; refine (fun (hx : Kept q k x) => ?_) ?_; clear_value x; rotate_left; subst x; rotate_right)
    | (intro x; refine (fun (hx : Kept q k x) => ?_) ?_; clear_value x; rotate_left; subst x; rotate_right)
    | (lift_lets -underBinder; intro x; subst x)
    | (intro x; subst x)
    | with_reducible apply kept_ite
    | with_reducible apply modRow_kept
    | with_reducible apply programPage_kept
    | with_reducible refine kept_foldl (fun _ _ _ => ?_) _ ?_
    | split
    | refine kept_mk ?_ rfl rfl rfl rfl rfl rfl rfl rfl rfl

theorem rebuildLost_kept (r) (w) (key) (lin) {s : State} {q : List Instr} {k : Nat} (h : Kept q k s) :
    Kept q k (rebuildLost r w key lin s) := by
  delta rebuildLost
  repeat' first
    | with_reducible assumption
    | (lift_lets -underBinder; intro x; refine (fun (hx : Kept q k x) => ?_) ?_; clear_value x; rotate_left; subst x; rotate_right)
    | (intro x; refine (fun (hx : Kept q k x) => ?_) ?_; clear_value x; rotate_left; subst x; rotate_right)
    | (lift_lets -underBinder; intro x; subst x)
    | (intro x; subst x)
    | with_reducible apply kept_ite
    | with_reducible apply modRow_kept
    | with_reducible apply modSet_kept
    | with_reducible apply startMove_kept
    | with_reducible refine kept_foldl (fun _ _ _ => ?_) _ ?_
    | split
    | refine kept_mk ?_ rfl rfl rfl rfl rfl rfl rfl rfl rfl

theorem rebuildStep_kept (key) {s : State} {q : List Instr} {k : Nat} (h : Kept q k s) :
    Kept q k (rebuildStep key s) := by
  delta rebuildStep
  repeat' first
    | with_reducible assumption
    | (lift_lets -underBinder; intro x; refine (fun (hx : Kept q k x) => ?_) ?_; clear_value x; rotate_left; subst x; rotate_right)
    | (intro x; refine (fun (hx : Kept q k x) => ?_) ?_; clear_value x; rotate_left; subst x; rotate_right)
    | (lift_lets -underBinder; intro x; subst x)
    | (intro x; subst x)
    | with_reducible apply kept_ite
    | with_reducible apply askMember_kept
    | with_reducible apply rebuildLost_kept
    | with_reducible apply rebuildWrite_kept
    | with_reducible apply readMember_kept
    | with_reducible refine kept_foldl (fun _ _ _ => ?_) _ ?_
    | split
    | refine kept_mk ?_ rfl rfl rfl rfl rfl rfl rfl rfl rfl

theorem rebuildDone_kept (r) (w) (j) (outcome) (key) (lin) (data) {s : State} {q : List Instr} {k : Nat} (h : Kept q k s) :
    Kept q k (rebuildDone r w j outcome key lin data s) := by
  delta rebuildDone
  repeat' first
    | with_reducible assumption
    | (lift_lets -underBinder; intro x; refine (fun (hx : Kept q k x) => ?_) ?_; clear_value x; rotate_left; subst x; rotate_right)
    | (intro x; refine (fun (hx : Kept q k x) => ?_) ?_; clear_value x; rotate_left; subst x; rotate_right)
    | (lift_lets -underBinder; intro x; subst x)
    | (intro x; subst x)
    | with_reducible apply kept_ite
    | with_reducible apply rebuildStep_kept
    | with_reducible apply rebuildLost_kept
    | with_reducible apply rebuildWrite_kept
    | with_reducible apply modRow_kept
    | with_reducible apply modSet_kept
    | with_reducible refine kept_foldl (fun _ _ _ => ?_) _ ?_
    | split
    | refine kept_mk ?_ rfl rfl rfl rfl rfl rfl rfl rfl rfl

theorem resumeWork_kept (g) {s : State} {q : List Instr} {k : Nat} (h : Kept q k s) :
    Kept q k (resumeWork g s) := by
  delta resumeWork
  repeat' first
    | with_reducible assumption
    | (lift_lets -underBinder; intro x; refine (fun (hx : Kept q k x) => ?_) ?_; clear_value x; rotate_left; subst x; rotate_right)
    | (intro x; refine (fun (hx : Kept q k x) => ?_) ?_; clear_value x; rotate_left; subst x; rotate_right)
    | (lift_lets -underBinder; intro x; subst x)
    | with_reducible apply kept_ite
    | with_reducible apply rebuildStep_kept
    | with_reducible apply addItem_kept
    | with_reducible apply eraseAt_kept
    | with_reducible apply hardenRow_kept
    | with_reducible apply startVerify_kept
    | with_reducible refine kept_foldl (fun _ _ _ => ?_) _ ?_
    | split

theorem eraseAnswer_kept (w) (port) (outcome) {s : State} {q : List Instr} {k : Nat} (h : Kept q k s) :
    Kept q k (eraseAnswer w port outcome s) := by
  delta eraseAnswer
  repeat' first
    | with_reducible assumption
    | (lift_lets -underBinder; intro x; refine (fun (hx : Kept q k x) => ?_) ?_; clear_value x; rotate_left; subst x; rotate_right)
    | (lift_lets -underBinder; intro x; subst x)
    | (intro x; subst x)
    | with_reducible apply kept_ite
    | with_reducible apply eraseAt_kept
    | with_reducible apply eraseEnd_kept
    | with_reducible apply erased_kept
    | with_reducible apply modSet_kept
    | with_reducible apply oddOutcome_kept
    | with_reducible apply retireBlock_kept
    | with_reducible apply retireDie_kept
    | split
    | refine kept_mk ?_ rfl rfl rfl rfl rfl rfl rfl rfl rfl

theorem mergeOn_kept (g) (a1) {s : State} {q : List Instr} {k : Nat} (h : Kept q k s) :
    Kept q k (mergeOn g a1 s) := by
  delta mergeOn
  repeat' first
    | with_reducible assumption
    | (intro x; refine (fun (hx : Kept q k x) => ?_) ?_; clear_value x; rotate_left; subst x; rotate_right)
    | (lift_lets -underBinder; intro x; subst x)
    | with_reducible apply kept_ite
    | with_reducible apply endMove_kept
    | with_reducible apply startMove_kept
    | with_reducible apply wantWake_kept
    | with_reducible refine kept_foldl (fun _ _ _ => ?_) _ ?_
    | split

theorem gcAdvance_kept (g) (band) {s : State} {q : List Instr} {k : Nat} (h : Kept q k s) :
    Kept q k (gcAdvance g band s) := by
  delta gcAdvance
  repeat' first
    | with_reducible assumption
    | (intro x; refine (fun (hx : Kept q k x) => ?_) ?_; clear_value x; rotate_left; subst x; rotate_right)
    | (lift_lets -underBinder; intro x; subst x)
    | (intro x; subst x)
    | with_reducible apply kept_ite
    | with_reducible apply mergeOn_kept
    | with_reducible apply modSet_kept
    | with_reducible apply recordBlocks_kept
    | with_reducible apply startMove_kept
    | with_reducible refine kept_foldl (fun _ _ _ => ?_) _ ?_

theorem startGc_kept (g) (band) {s : State} {q : List Instr} {k : Nat} (h : Kept q k s) :
    Kept q k (startGc g band s) := by
  delta startGc
  repeat' first
    | with_reducible assumption
    | (lift_lets -underBinder; intro x; refine (fun (hx : Kept q k x) => ?_) ?_; clear_value x; rotate_left; subst x; rotate_right)
    | with_reducible apply gcAdvance_kept
    | with_reducible apply modSet_kept
    | with_reducible refine kept_foldl (fun _ _ _ => ?_) _ ?_

theorem joinBatch_kept (g) (deadline) {s : State} {q : List Instr} {k : Nat} (h : Kept q k s) :
    Kept q k (joinBatch g deadline s) := by
  delta joinBatch
  repeat' first
    | with_reducible assumption
    | (lift_lets -underBinder; intro x; refine (fun (hx : Kept q k x) => ?_) ?_; clear_value x; rotate_left; subst x; rotate_right)
    | (intro x; subst x)
    | with_reducible apply kept_ite
    | with_reducible apply wantWake_kept
    | split
    | refine kept_mk ?_ rfl rfl rfl rfl rfl rfl rfl rfl rfl

theorem renameChunk_kept (old) (new) (f) {s : State} {q : List Instr} {k : Nat} (h : Kept q k s) :
    Kept q k (renameChunk old new f s) := by
  delta renameChunk
  repeat' first
    | with_reducible assumption
    | (lift_lets -underBinder; intro x; subst x)
    | (intro x; subst x)
    | split
    | refine kept_mk ?_ rfl rfl rfl rfl rfl rfl rfl rfl rfl

theorem drainTo_kept (serial) (g) (bytes) (transit) {s : State} {q : List Instr} {k : Nat} (h : Kept q k s) :
    Kept q k (drainTo serial g bytes transit s) := by
  delta drainTo
  repeat' first
    | with_reducible assumption
    | (lift_lets -underBinder; intro x; subst x)
    | with_reducible apply drainStaged_kept
    | with_reducible apply placeBytes_kept
    | split
    | refine kept_snd (by with_reducible assumption) ?_
    | refine kept_mk ?_ rfl rfl rfl rfl rfl rfl rfl rfl rfl

theorem fillShelf_kept (vol) {s : State} {q : List Instr} {k : Nat} (h : Kept q k s) :
    Kept q k (fillShelf vol s).2 := by
  delta fillShelf
  repeat' first
    | with_reducible assumption
    | (lift_lets -underBinder; intro x; subst x)
    | split
    | refine kept_mk ?_ rfl rfl rfl rfl rfl rfl rfl rfl rfl

theorem placeChunk_cold_kept (serial) (vol) (bytes) {s : State} {q : List Instr} {k : Nat} (h : Kept q k s) :
    Kept q k (placeChunk.cold serial vol bytes s) := by
  delta placeChunk.cold
  repeat' first
    | with_reducible assumption
    | (lift_lets -underBinder; intro x; refine (fun (hx : Kept q k x) => ?_) ?_; clear_value x; rotate_left; subst x; rotate_right)
    | with_reducible apply kept_ite
    | with_reducible apply addItem_kept
    | with_reducible apply drainTo_kept
    | with_reducible apply fillShelf_kept
    | with_reducible apply wantWake_kept
    | split
    | refine kept_snd (by with_reducible assumption) ?_
    | refine kept_mk ?_ rfl rfl rfl rfl rfl rfl rfl rfl rfl

theorem placeChunk_transitTo_kept (serial) (bytes) {s : State} {q : List Instr} {k : Nat} (h : Kept q k s) :
    Kept q k (placeChunk.transitTo serial bytes s) := by
  delta placeChunk.transitTo
  repeat' first
    | with_reducible assumption
    | with_reducible apply kept_ite
    | with_reducible apply drainTo_kept
    | split

theorem placeChunk_kept (serial) {s : State} {q : List Instr} {k : Nat} (h : Kept q k s) :
    Kept q k (placeChunk serial s) := by
  delta placeChunk
  repeat' first
    | with_reducible assumption
    | (lift_lets -underBinder; intro x; subst x)
    | (intro x; subst x)
    | with_reducible apply kept_ite
    | with_reducible apply drainTo_kept
    | with_reducible apply placeChunk_cold_kept
    | split

theorem chunkPlace_kept (serial) {s : State} {q : List Instr} {k : Nat} (h : Kept q k s) :
    Kept q k (chunkPlace serial s) := by
  delta chunkPlace
  repeat' first
    | with_reducible assumption
    | (lift_lets -underBinder; intro x; refine (fun (hx : Kept q k x) => ?_) ?_; clear_value x; rotate_left; subst x; rotate_right)
    | with_reducible apply kept_ite
    | with_reducible apply padShelf_kept
    | with_reducible apply placeChunk_kept
    | split

theorem batchEnd_kept {s : State} {q : List Instr} {k : Nat} (h : Kept q k s) :
    Kept q k (batchEnd s) := by
  delta batchEnd
  repeat' first
    | with_reducible assumption
    | (intro x; refine (fun (hx : Kept q k x) => ?_) ?_; clear_value x; rotate_left; subst x; rotate_right)
    | (lift_lets -underBinder; intro x; subst x)
    | (intro x; subst x)
    | with_reducible apply grantWake_kept
    | with_reducible refine kept_foldl (fun _ _ _ => ?_) _ ?_
    | refine kept_mk ?_ rfl rfl rfl rfl rfl rfl rfl rfl rfl

theorem finishMove_kept (m) (v) {s : State} {q : List Instr} {k : Nat} (h : Kept q k s) :
    Kept q k (finishMove m v s) := by
  delta finishMove
  repeat' first
    | with_reducible assumption
    | (intro x; refine (fun (hx : Kept q k x) => ?_) ?_; clear_value x; rotate_left; subst x; rotate_right)
    | (lift_lets -underBinder; intro x; subst x)
    | (intro x; subst x)
    | with_reducible apply kept_ite
    | with_reducible apply dropRef_kept
    | with_reducible apply endMove_kept
    | with_reducible apply putChunk_kept
    | with_reducible apply renameChunk_kept
    | with_reducible apply updateIndex_kept
    | split
    | refine kept_mk ?_ rfl rfl rfl rfl rfl rfl rfl rfl rfl

theorem applyMoveRec_kept (off) (es) {s : State} {q : List Instr} {k : Nat} (h : Kept q k s) :
    Kept q k (applyMoveRec off es s) := by
  delta applyMoveRec
  repeat' first
    | with_reducible assumption
    | (lift_lets -underBinder; intro x; refine (fun (hx : Kept q k x) => ?_) ?_; clear_value x; rotate_left; subst x; rotate_right)
    | (intro x; refine (fun (hx : Kept q k x) => ?_) ?_; clear_value x; rotate_left; subst x; rotate_right)
    | with_reducible apply finishMove_kept
    | with_reducible apply modOwn_kept
    | with_reducible apply moveChunk_kept
    | with_reducible apply updateIndex_kept
    | with_reducible refine kept_foldl (fun _ _ _ => ?_) _ ?_

theorem verifyFail_kept (key) (lin) {s : State} {q : List Instr} {k : Nat} (h : Kept q k s) :
    Kept q k (verifyFail key lin s) := by
  delta verifyFail
  repeat' first
    | with_reducible assumption
    | (lift_lets -underBinder; intro x; refine (fun (hx : Kept q k x) => ?_) ?_; clear_value x; rotate_left; subst x; rotate_right)
    | (intro x; refine (fun (hx : Kept q k x) => ?_) ?_; clear_value x; rotate_left; subst x; rotate_right)
    | (lift_lets -underBinder; intro x; subst x)
    | (intro x; subst x)
    | with_reducible apply kept_ite
    | with_reducible apply checkHardened_kept
    | with_reducible apply checkPair_kept
    | with_reducible apply hardenRow_kept
    | with_reducible apply modRow_kept
    | with_reducible apply modSet_kept
    | with_reducible apply retireBlock_kept
    | with_reducible apply setBlk_kept
    | with_reducible apply startMove_kept
    | with_reducible refine kept_foldl (fun _ _ _ => ?_) _ ?_
    | split
    | refine kept_mk ?_ rfl rfl rfl rfl rfl rfl rfl rfl rfl

theorem verifyDone_kept (key) (lin) (outcome) (corrected) (data) {s : State} {q : List Instr} {k : Nat} (h : Kept q k s) :
    Kept q k (verifyDone key lin outcome corrected data s) := by
  delta verifyDone
  repeat' first
    | with_reducible assumption
    | (lift_lets -underBinder; intro x; subst x)
    | with_reducible apply kept_ite
    | with_reducible apply verifyFail_kept
    | with_reducible apply verifyPass_kept
    | split

theorem startClose_kept (g) (after) {s : State} {q : List Instr} {k : Nat} (h : Kept q k s) :
    Kept q k (startClose g after s) := by
  delta startClose
  repeat' first
    | with_reducible assumption
    | (intro x; refine (fun (hx : Kept q k x) => ?_) ?_; clear_value x; rotate_left; subst x; rotate_right)
    | (lift_lets -underBinder; intro x; subst x)
    | (intro x; subst x)
    | with_reducible apply closeBand_kept
    | with_reducible apply record_kept
    | with_reducible apply setShelf_kept
    | refine kept_mk ?_ rfl rfl rfl rfl rfl rfl rfl rfl rfl

theorem awakeAdvance_kept {s : State} {q : List Instr} {k : Nat} (h : Kept q k s) :
    Kept q k (awakeAdvance s) := by
  delta awakeAdvance
  repeat' first
    | with_reducible assumption
    | (lift_lets -underBinder; intro x; refine (fun (hx : Kept q k x) => ?_) ?_; clear_value x; rotate_left; subst x; rotate_right)
    | (intro x; refine (fun (hx : Kept q k x) => ?_) ?_; clear_value x; rotate_left; subst x; rotate_right)
    | (intro x; subst x)
    | with_reducible apply kept_ite
    | with_reducible apply addItem_kept
    | with_reducible apply checkAwake_kept
    | with_reducible apply grantWake_kept
    | with_reducible apply raiseCaps_kept
    | with_reducible apply resumeWork_kept
    | with_reducible apply startClose_kept
    | with_reducible refine kept_foldl (fun _ _ _ => ?_) _ ?_

theorem confirmPage_kept (key) (lin) {s : State} {q : List Instr} {k : Nat} (h : Kept q k s) :
    Kept q k (confirmPage key lin s) := by
  delta confirmPage
  repeat' first
    | with_reducible assumption
    | (lift_lets -underBinder; intro x; refine (fun (hx : Kept q k x) => ?_) ?_; clear_value x; rotate_left; subst x; rotate_right)
    | (intro x; refine (fun (hx : Kept q k x) => ?_) ?_; clear_value x; rotate_left; subst x; rotate_right)
    | with_reducible apply kept_ite
    | with_reducible apply modRow_kept
    | with_reducible apply modSet_kept
    | with_reducible apply startVerify_kept
    | split

theorem programAnswer_kept (w) (port) (outcome) {s : State} {q : List Instr} {k : Nat} (h : Kept q k s) :
    Kept q k (programAnswer w port outcome s) := by
  delta programAnswer
  repeat' first
    | with_reducible assumption
    | (lift_lets -underBinder; intro x; refine (fun (hx : Kept q k x) => ?_) ?_; clear_value x; rotate_left; subst x; rotate_right)
    | with_reducible apply kept_ite
    | with_reducible apply confirmPage_kept
    | with_reducible apply oddOutcome_kept
    | with_reducible apply programFailed_kept
    | with_reducible apply retireDie_kept
    | split

theorem askRefresh_kept (key) (pos) (deadline) {s : State} {q : List Instr} {k : Nat} (h : Kept q k s) :
    Kept q k (askRefresh key pos deadline s) := by
  delta askRefresh
  repeat' first
    | with_reducible assumption
    | (lift_lets -underBinder; intro x; subst x)
    | with_reducible apply kept_ite
    | with_reducible apply addItem_kept
    | split
    | refine kept_mk ?_ rfl rfl rfl rfl rfl rfl rfl rfl rfl

theorem inspectRead_kept (key) (lin) {s : State} {q : List Instr} {k : Nat} (h : Kept q k s) :
    Kept q k (inspectRead key lin s) := by
  delta inspectRead
  repeat' first
    | with_reducible assumption
    | with_reducible apply sendSled_kept
    | split

theorem inspectFrom_kept (g) (from_) {s : State} {q : List Instr} {k : Nat} (h : Kept q k s) :
    Kept q k (inspectFrom g from_ s) := by
  delta inspectFrom
  repeat' first
    | with_reducible assumption
    | (intro x; refine (fun (hx : Kept q k x) => ?_) ?_; clear_value x; rotate_left; subst x; rotate_right)
    | (lift_lets -underBinder; intro x; subst x)
    | (intro x; subst x)
    | with_reducible apply dropItems_kept
    | with_reducible apply finishJobs_kept
    | with_reducible apply inspectRead_kept
    | with_reducible apply modSet_kept
    | with_reducible apply setShelf_kept
    | with_reducible refine kept_foldl (fun _ _ _ => ?_) _ ?_
    | split
    | refine kept_mk ?_ rfl rfl rfl rfl rfl rfl rfl rfl rfl

theorem inspectDone_kept (key) (lin) (outcome) (corrected) {s : State} {q : List Instr} {k : Nat} (h : Kept q k s) :
    Kept q k (inspectDone key lin outcome corrected s) := by
  delta inspectDone
  repeat' first
    | with_reducible assumption
    | (lift_lets -underBinder; intro x; refine (fun (hx : Kept q k x) => ?_) ?_; clear_value x; rotate_left; subst x; rotate_right)
    | (intro x; refine (fun (hx : Kept q k x) => ?_) ?_; clear_value x; rotate_left; subst x; rotate_right)
    | (intro x; subst x)
    | with_reducible apply kept_ite
    | with_reducible apply askRefresh_kept
    | with_reducible apply inspectFrom_kept
    | with_reducible apply modSet_kept
    | with_reducible apply record_kept
    | with_reducible apply startMove_kept
    | with_reducible apply startTest_kept
    | with_reducible refine kept_foldl (fun _ _ _ => ?_) _ ?_
    | split
    | refine kept_mk ?_ rfl rfl rfl rfl rfl rfl rfl rfl rfl

theorem memberDone_kept (row) (j) (outcome) (data) {s : State} {q : List Instr} {k : Nat} (h : Kept q k s) :
    Kept q k (memberDone row j outcome data s) := by
  delta memberDone
  repeat' first
    | with_reducible assumption
    | (lift_lets -underBinder; intro x; refine (fun (hx : Kept q k x) => ?_) ?_; clear_value x; rotate_left; subst x; rotate_right)
    | (intro x; refine (fun (hx : Kept q k x) => ?_) ?_; clear_value x; rotate_left; subst x; rotate_right)
    | (lift_lets -underBinder; intro x; subst x)
    | (intro x; subst x)
    | with_reducible apply kept_ite
    | with_reducible apply accumulate_kept
    | with_reducible apply hardenRow_kept
    | with_reducible apply modRow_kept
    | with_reducible apply programPage_kept
    | with_reducible apply rebuildDone_kept
    | with_reducible apply verifyFail_kept
    | split

theorem readAnswer_kept (w) (port) (outcome) (corrected) (data) {s : State} {q : List Instr} {k : Nat} (h : Kept q k s) :
    Kept q k (readAnswer w port outcome corrected data s) := by
  delta readAnswer
  repeat' first
    | with_reducible assumption
    | (lift_lets -underBinder; intro x; refine (fun (hx : Kept q k x) => ?_) ?_; clear_value x; rotate_left; subst x; rotate_right)
    | (intro x; refine (fun (hx : Kept q k x) => ?_) ?_; clear_value x; rotate_left; subst x; rotate_right)
    | (intro x; subst x)
    | with_reducible apply kept_ite
    | with_reducible apply countRead_kept
    | with_reducible apply fetchPiece_kept
    | with_reducible apply inspectDone_kept
    | with_reducible apply kickAll_kept
    | with_reducible apply memberDone_kept
    | with_reducible apply oddOutcome_kept
    | with_reducible apply retireDie_kept
    | with_reducible apply setPort_kept
    | with_reducible apply startTest_kept
    | with_reducible apply verifyDone_kept
    | split

theorem sledAnswer_kept (w) (port) (outcome) (corrected) (data) {s : State} {q : List Instr} {k : Nat} (h : Kept q k s) :
    Kept q k (sledAnswer w port outcome corrected data s) := by
  delta sledAnswer
  repeat' first
    | with_reducible assumption
    | with_reducible apply kept_ite
    | with_reducible apply eraseAnswer_kept
    | with_reducible apply programAnswer_kept
    | with_reducible apply readAnswer_kept

theorem startInspect_kept (g) {s : State} {q : List Instr} {k : Nat} (h : Kept q k s) :
    Kept q k (startInspect g s) := by
  delta startInspect
  repeat' first
    | with_reducible assumption
    | with_reducible apply inspectFrom_kept

theorem planInspect_kept {s : State} {q : List Instr} {k : Nat} (h : Kept q k s) :
    Kept q k (planInspect s) := by
  delta planInspect
  repeat' first
    | with_reducible assumption
    | (lift_lets -underBinder; intro x; subst x)
    | with_reducible apply kept_ite
    | with_reducible apply addItem_kept
    | split
    | refine kept_mk ?_ rfl rfl rfl rfl rfl rfl rfl rfl rfl

theorem endedAdvance_kept {s : State} {q : List Instr} {k : Nat} (h : Kept q k s) :
    Kept q k (endedAdvance s) := by
  delta endedAdvance
  repeat' first
    | with_reducible assumption
    | (lift_lets -underBinder; intro x; subst x)
    | (intro x; subst x)
    | with_reducible apply sledAnswer_kept
    | with_reducible refine kept_foldl (fun _ _ _ => ?_) _ ?_
    | refine kept_mk ?_ rfl rfl rfl rfl rfl rfl rfl rfl rfl

theorem shedShare_kept {s : State} {q : List Instr} {k : Nat} (h : Kept q k s) :
    Kept q k (shedShare s) := by
  delta shedShare
  repeat' first
    | with_reducible assumption
    | (intro x; refine (fun (hx : Kept q k x) => ?_) ?_; clear_value x; rotate_left; subst x; rotate_right)
    | (lift_lets -underBinder; intro x; subst x)
    | (intro x; subst x)
    | with_reducible apply kept_ite
    | with_reducible apply lowerCaps_kept
    | with_reducible apply startClose_kept
    | with_reducible refine kept_foldl (fun _ _ _ => ?_) _ ?_
    | split

theorem adoptedInsert_kept (serial) {s : State} {q : List Instr} {k : Nat} (h : Kept q k s) :
    Kept q k (adoptedInsert serial s) := by
  delta adoptedInsert
  repeat' first
    | with_reducible assumption
    | (lift_lets -underBinder; intro x; subst x)
    | with_reducible apply kept_ite
    | with_reducible apply insertIndex_kept
    | split

theorem recordPlaced_kept {s : State} {q : List Instr} {k : Nat} (h : Kept q k s) :
    Kept q k (recordPlaced s) := by
  delta recordPlaced
  repeat' first
    | with_reducible assumption
    | (intro x; refine (fun (hx : Kept q k x) => ?_) ?_; clear_value x; rotate_left; subst x; rotate_right)
    | (lift_lets -underBinder; intro x; subst x)
    | (intro x; subst x)
    | with_reducible apply kept_ite
    | with_reducible apply adoptedInsert_kept
    | with_reducible apply writeLoose_kept
    | with_reducible apply writeRec_kept
    | with_reducible refine kept_foldl (fun _ _ _ => ?_) _ ?_
    | split
    | refine kept_mk ?_ rfl rfl rfl rfl rfl rfl rfl rfl rfl

theorem dropBase_kept (serial) {s : State} {q : List Instr} {k : Nat} (h : Kept q k s) :
    Kept q k (dropBase serial s) := by
  delta dropBase
  repeat' first
    | with_reducible assumption
    | (lift_lets -underBinder; intro x; subst x)
    | with_reducible apply dropRef_kept
    | with_reducible apply putChunk_kept
    | with_reducible refine kept_foldl (fun _ _ _ => ?_) _ ?_

theorem unmapAll_kept (serial) {s : State} {q : List Instr} {k : Nat} (h : Kept q k s) :
    Kept q k (unmapAll serial s) := by
  delta unmapAll
  repeat' first
    | with_reducible assumption
    | with_reducible apply unmapChunk_kept
    | with_reducible refine kept_foldl (fun _ _ _ => ?_) _ ?_

theorem sealMerged_kept (m) (v) {s : State} {q : List Instr} {k : Nat} (h : Kept q k s) :
    Kept q k (sealMerged m v s) := by
  delta sealMerged
  repeat' first
    | with_reducible assumption
    | (lift_lets -underBinder; intro x; subst x)
    | (intro x; subst x)
    | with_reducible apply kept_ite
    | with_reducible apply dropBase_kept
    | with_reducible apply endMove_kept
    | with_reducible apply nextSerial_kept
    | with_reducible apply unmapAll_kept
    | split
    | refine kept_snd (by with_reducible assumption) ?_
    | refine kept_mk ?_ rfl rfl rfl rfl rfl rfl rfl rfl rfl

theorem mergeLayer_kept (m) (env) (data) {s : State} {q : List Instr} {k : Nat} (h : Kept q k s) :
    Kept q k (mergeLayer m env data s) := by
  delta mergeLayer
  repeat' first
    | with_reducible assumption
    | (intro x; refine (fun (hx : Kept q k x) => ?_) ?_; clear_value x; rotate_left; subst x; rotate_right)
    | (lift_lets -underBinder; intro x; subst x)
    | (intro x; subst x)
    | with_reducible apply kept_ite
    | with_reducible apply endMove_kept
    | with_reducible apply sealMerged_kept
    | with_reducible apply startFetch_kept
    | split
    | refine kept_mk ?_ rfl rfl rfl rfl rfl rfl rfl rfl rfl

theorem applyMoves_kept {s : State} {q : List Instr} {k : Nat} (h : Kept q k s) :
    Kept q k (applyMoves s) := by
  delta applyMoves
  repeat' first
    | with_reducible assumption
    | with_reducible apply kept_ite
    | with_reducible apply applyMoveRec_kept
    | with_reducible refine kept_foldl (fun _ _ _ => ?_) _ ?_

theorem closeAdvance_kept (g) {s : State} {q : List Instr} {k : Nat} (h : Kept q k s) :
    Kept q k (closeAdvance g s) := by
  delta closeAdvance
  repeat' first
    | with_reducible assumption
    | (lift_lets -underBinder; intro x; refine (fun (hx : Kept q k x) => ?_) ?_; clear_value x; rotate_left; subst x; rotate_right)
    | with_reducible apply kept_ite
    | with_reducible apply checkHardened_kept
    | with_reducible apply hardenRow_kept
    | with_reducible apply releaseSecondaries_kept
    | with_reducible refine kept_foldl (fun _ _ _ => ?_) _ ?_

theorem closeIdle_kept {s : State} {q : List Instr} {k : Nat} (h : Kept q k s) :
    Kept q k (closeIdle s) := by
  delta closeIdle
  repeat' first
    | with_reducible assumption
    | with_reducible apply kept_ite
    | with_reducible apply startClose_kept
    | with_reducible refine kept_foldl (fun _ _ _ => ?_) _ ?_

theorem mergesDue_kept {s : State} {q : List Instr} {k : Nat} (h : Kept q k s) :
    Kept q k (mergesDue s) := by
  delta mergesDue
  repeat' first
    | with_reducible assumption
    | with_reducible apply kept_ite
    | with_reducible apply mergeOn_kept
    | with_reducible refine kept_foldl (fun _ _ _ => ?_) _ ?_
    | split

theorem reseal_kept (m) (envelope) (region) {s : State} {q : List Instr} {k : Nat} (h : Kept q k s) :
    Kept q k (reseal m envelope region s) := by
  delta reseal
  repeat' first
    | with_reducible assumption
    | (lift_lets -underBinder; intro x; subst x)
    | (intro x; subst x)
    | with_reducible apply endMove_kept
    | with_reducible apply nextSerial_kept
    | split
    | refine kept_snd (by with_reducible assumption) ?_
    | refine kept_mk ?_ rfl rfl rfl rfl rfl rfl rfl rfl rfl

theorem movesArrived_kept {s : State} {q : List Instr} {k : Nat} (h : Kept q k s) :
    Kept q k (movesArrived s) := by
  delta movesArrived
  repeat' first
    | with_reducible assumption
    | (lift_lets -underBinder; intro x; refine (fun (hx : Kept q k x) => ?_) ?_; clear_value x; rotate_left; subst x; rotate_right)
    | (lift_lets -underBinder; intro x; subst x)
    | (intro x; subst x)
    | with_reducible apply countDecomp_kept
    | with_reducible apply endMove_kept
    | with_reducible apply failSource_kept
    | with_reducible apply markRecovered_kept
    | with_reducible apply mergeLayer_kept
    | with_reducible apply reseal_kept
    | with_reducible refine kept_foldl (fun _ _ _ => ?_) _ ?_
    | split
    | refine kept_mk ?_ rfl rfl rfl rfl rfl rfl rfl rfl rfl

theorem placeCopies_kept {s : State} {q : List Instr} {k : Nat} (h : Kept q k s) :
    Kept q k (placeCopies s) := by
  delta placeCopies
  repeat' first
    | with_reducible assumption
    | with_reducible apply placeCopy_kept
    | with_reducible refine kept_foldl (fun _ _ _ => ?_) _ ?_

theorem rebuildAdvance_kept {s : State} {q : List Instr} {k : Nat} (h : Kept q k s) :
    Kept q k (rebuildAdvance s) := by
  delta rebuildAdvance
  repeat' first
    | with_reducible assumption
    | (intro x; refine (fun (hx : Kept q k x) => ?_) ?_; clear_value x; rotate_left; subst x; rotate_right)
    | (lift_lets -underBinder; intro x; subst x)
    | (intro x; subst x)
    | with_reducible apply kept_ite
    | with_reducible apply mergeOn_kept
    | with_reducible apply recordBlocks_kept
    | with_reducible apply writeLoose_kept
    | with_reducible refine kept_foldl (fun _ _ _ => ?_) _ ?_
    | split
    | refine kept_mk ?_ rfl rfl rfl rfl rfl rfl rfl rfl rfl

theorem recordMoves_kept {s : State} {q : List Instr} {k : Nat} (h : Kept q k s) :
    Kept q k (recordMoves s) := by
  delta recordMoves
  repeat' first
    | with_reducible assumption
    | (lift_lets -underBinder; intro x; subst x)
    | (intro x; subst x)
    | with_reducible apply kept_ite
    | with_reducible apply writeLoose_kept
    | with_reducible refine kept_foldl (fun _ _ _ => ?_) _ ?_
    | split
    | refine kept_snd (by with_reducible assumption) ?_
    | refine kept_mk ?_ rfl rfl rfl rfl rfl rfl rfl rfl rfl

theorem refreshAdvance_kept {s : State} {q : List Instr} {k : Nat} (h : Kept q k s) :
    Kept q k (refreshAdvance s) := by
  delta refreshAdvance
  repeat' first
    | with_reducible assumption
    | (intro x; refine (fun (hx : Kept q k x) => ?_) ?_; clear_value x; rotate_left; subst x; rotate_right)
    | (lift_lets -underBinder; intro x; subst x)
    | (intro x; subst x)
    | with_reducible apply kept_ite
    | with_reducible apply bandAhead_kept
    | with_reducible apply modSet_kept
    | with_reducible apply startMove_kept
    | with_reducible refine kept_foldl (fun _ _ _ => ?_) _ ?_
    | split
    | refine kept_mk ?_ rfl rfl rfl rfl rfl rfl rfl rfl rfl

theorem shelfJobs_kept {s : State} {q : List Instr} {k : Nat} (h : Kept q k s) :
    Kept q k (shelfJobs s) := by
  delta shelfJobs
  repeat' first
    | with_reducible assumption
    | (lift_lets -underBinder; intro x; refine (fun (hx : Kept q k x) => ?_) ?_; clear_value x; rotate_left; subst x; rotate_right)
    | (intro x; refine (fun (hx : Kept q k x) => ?_) ?_; clear_value x; rotate_left; subst x; rotate_right)
    | (lift_lets -underBinder; intro x; subst x)
    | (intro x; subst x)
    | with_reducible apply kept_ite
    | with_reducible apply changeArray_kept
    | with_reducible apply checkHardened_kept
    | with_reducible apply finishJob_kept
    | with_reducible apply finishJobs_kept
    | with_reducible apply hardenRow_kept
    | with_reducible apply setShelf_kept
    | with_reducible apply startClose_kept
    | with_reducible refine kept_foldl (fun _ _ _ => ?_) _ ?_
    | split
    | refine kept_mk ?_ rfl rfl rfl rfl rfl rfl rfl rfl rfl

theorem freeStranded_kept {s : State} {q : List Instr} {k : Nat} (h : Kept q k s) :
    Kept q k (freeStranded s) := by
  delta freeStranded
  repeat' first
    | with_reducible assumption
    | (lift_lets -underBinder; intro x; subst x)
    | (intro x; refine (fun (hx : Kept q k x) => ?_) ?_; clear_value x; rotate_left; subst x; rotate_right)
    | with_reducible apply kept_ite
    | with_reducible apply startMove_kept
    | with_reducible apply placeAgain_kept
    | with_reducible refine kept_foldl (fun _ _ _ => ?_) _ ?_

theorem mediaAdvance_kept {s : State} {q : List Instr} {k : Nat} (h : Kept q k s) :
    Kept q k (mediaAdvance s) := by
  delta mediaAdvance
  repeat' first
    | with_reducible assumption
    | (lift_lets -underBinder; intro x; refine (fun (hx : Kept q k x) => ?_) ?_; clear_value x; rotate_left; subst x; rotate_right)
    | (intro x; refine (fun (hx : Kept q k x) => ?_) ?_; clear_value x; rotate_left; subst x; rotate_right)
    | (intro x; subst x)
    | with_reducible apply freeStranded_kept
    | with_reducible apply applyMoves_kept
    | with_reducible apply awakeAdvance_kept
    | with_reducible apply closeAdvance_kept
    | with_reducible apply closeIdle_kept
    | with_reducible apply endedAdvance_kept
    | with_reducible apply gcAdvance_kept
    | with_reducible apply mergesDue_kept
    | with_reducible apply movesArrived_kept
    | with_reducible apply placeCopies_kept
    | with_reducible apply rebuildAdvance_kept
    | with_reducible apply recordMoves_kept
    | with_reducible apply recordPlaced_kept
    | with_reducible apply refreshAdvance_kept
    | with_reducible apply shedShare_kept
    | with_reducible apply shelfJobs_kept
    | with_reducible refine kept_foldl (fun _ _ _ => ?_) _ ?_

theorem planGcWake_kept {s : State} {q : List Instr} {k : Nat} (h : Kept q k s) :
    Kept q k (planGcWake s) := by
  delta planGcWake
  repeat' first
    | with_reducible assumption
    | (lift_lets -underBinder; intro x; subst x)
    | (intro x; subst x)
    | with_reducible apply kept_ite
    | with_reducible apply addItem_kept
    | split

theorem closeComplete_kept (g) {s : State} {q : List Instr} {k : Nat} (h : Kept q k s) :
    Kept q k (closeComplete g s) := by
  delta closeComplete
  repeat' first
    | with_reducible assumption
    | (intro x; refine (fun (hx : Kept q k x) => ?_) ?_; clear_value x; rotate_left; subst x; rotate_right)
    | (lift_lets -underBinder; intro x; subst x)
    | (intro x; subst x)
    | with_reducible apply kept_ite
    | with_reducible apply endHoldJob_kept
    | with_reducible apply finishJobs_kept
    | with_reducible apply record_kept
    | with_reducible apply releaseShelf_kept
    | with_reducible apply setShelf_kept

theorem planWork_kept {s : State} {q : List Instr} {k : Nat} (h : Kept q k s) :
    Kept q k (planWork s) := by
  delta planWork
  repeat' first
    | with_reducible assumption
    | (lift_lets -underBinder; intro x; refine (fun (hx : Kept q k x) => ?_) ?_; clear_value x; rotate_left; subst x; rotate_right)
    | (intro x; refine (fun (hx : Kept q k x) => ?_) ?_; clear_value x; rotate_left; subst x; rotate_right)
    | (intro x; subst x)
    | with_reducible apply kept_ite
    | with_reducible apply addItem_kept
    | with_reducible apply planGc_kept
    | with_reducible refine kept_foldl (fun _ _ _ => ?_) _ ?_

theorem goodFall_kept (g) {s : State} {q : List Instr} {k : Nat} (h : Kept q k s) :
    Kept q k (goodFall g s) := by
  delta goodFall
  repeat' first
    | with_reducible assumption
    | (intro x; refine (fun (hx : Kept q k x) => ?_) ?_; clear_value x; rotate_left; subst x; rotate_right)
    | (lift_lets -underBinder; intro x; subst x)
    | (intro x; subst x)
    | with_reducible apply kept_ite
    | with_reducible apply failWake_kept
    | with_reducible apply powerGroup_kept
    | with_reducible apply setShelf_kept
    | with_reducible apply startMove_kept
    | with_reducible refine kept_foldl (fun _ _ _ => ?_) _ ?_
    | split
    | refine kept_mk ?_ rfl rfl rfl rfl rfl rfl rfl rfl rfl

theorem applyCovered_kept (offs) {s : State} {q : List Instr} {k : Nat} (h : Kept q k s) :
    Kept q k (applyCovered offs s) := by
  delta applyCovered
  repeat' first
    | with_reducible assumption
    | with_reducible apply kept_ite
    | with_reducible apply applyMoveRec_kept
    | with_reducible refine kept_foldl (fun _ _ _ => ?_) _ ?_

theorem planSweep_kept {s : State} {q : List Instr} {k : Nat} (h : Kept q k s) :
    Kept q k (planSweep s) := by
  delta planSweep
  repeat' first
    | with_reducible assumption
    | (lift_lets -underBinder; intro x; subst x)
    | with_reducible apply kept_ite
    | with_reducible apply addItem_kept
    | with_reducible apply wantWake_kept
    | with_reducible refine kept_foldl (fun _ _ _ => ?_) _ ?_

theorem grantRoom_kept (i) {s : State} {q : List Instr} {k : Nat} (h : Kept q k s) :
    Kept q k (grantRoom i s) := by
  delta grantRoom
  repeat' first
    | with_reducible assumption
    | with_reducible apply grantWake_kept
    | with_reducible apply raiseCaps_kept
    | split

theorem makeRoom_kept (i) {s : State} {q : List Instr} {k : Nat} (h : Kept q k s) :
    Kept q k (makeRoom i s).2 := by
  delta makeRoom
  repeat' first
    | with_reducible assumption
    | (intro x; refine (fun (hx : Kept q k x) => ?_) ?_; clear_value x; rotate_left; subst x; rotate_right)
    | (lift_lets -underBinder; intro x; subst x)
    | (intro x; subst x)
    | with_reducible apply kept_ite
    | with_reducible apply kept_ite2
    | with_reducible apply grantRoom_kept
    | with_reducible apply lowerCaps_kept
    | with_reducible apply startClose_kept
    | with_reducible refine kept_foldl (fun _ _ _ => ?_) _ ?_
    | split

theorem startRebuild_kept (g) (sl) {s : State} {q : List Instr} {k : Nat} (h : Kept q k s) :
    Kept q k (startRebuild g sl s) := by
  delta startRebuild
  repeat' first
    | with_reducible assumption
    | (lift_lets -underBinder; intro x; refine (fun (hx : Kept q k x) => ?_) ?_; clear_value x; rotate_left; subst x; rotate_right)
    | (intro x; refine (fun (hx : Kept q k x) => ?_) ?_; clear_value x; rotate_left; subst x; rotate_right)
    | (lift_lets -underBinder; intro x; subst x)
    | with_reducible apply kept_ite
    | with_reducible apply modRow_kept
    | with_reducible apply modSet_kept
    | with_reducible apply readMember_kept
    | with_reducible apply rebuildStep_kept
    | with_reducible apply takeBlocks_kept
    | with_reducible refine kept_foldl (fun _ _ _ => ?_) _ ?_
    | split

theorem grantItem_kept (n) (i) {s : State} {q : List Instr} {k : Nat} (h : Kept q k s) :
    Kept q k (grantItem n i s) := by
  delta grantItem
  repeat' first
    | with_reducible assumption
    | (intro x; refine (fun (hx : Kept q k x) => ?_) ?_; clear_value x; rotate_left; subst x; rotate_right)
    | (lift_lets -underBinder; intro x; subst x)
    | (intro x; subst x)
    | with_reducible apply kept_ite
    | with_reducible apply grantWake_kept
    | with_reducible apply hardenRow_kept
    | with_reducible apply refreshAdvance_kept
    | with_reducible apply startGc_kept
    | with_reducible apply startInspect_kept
    | with_reducible apply startMove_kept
    | with_reducible apply startRebuild_kept
    | with_reducible refine kept_foldl (fun _ _ _ => ?_) _ ?_
    | split
    | refine kept_mk ?_ rfl rfl rfl rfl rfl rfl rfl rfl rfl

theorem tryGrant_kept (e) {s : State} {q : List Instr} {k : Nat} (h : Kept q k s) :
    Kept q k (tryGrant e s).2 := by
  delta tryGrant
  repeat' first
    | with_reducible assumption
    | (intro x; refine (fun (hx : Kept q k x) => ?_) ?_; clear_value x; rotate_left; subst x; rotate_right)
    | (lift_lets -underBinder; intro x; subst x)
    | with_reducible apply kept_ite2
    | with_reducible apply grantItem_kept
    | with_reducible apply grantRoom_kept
    | with_reducible apply makeRoom_kept
    | split
    | refine kept_snd (by with_reducible assumption) ?_

theorem scheduleGrant_kept {s : State} {q : List Instr} {k : Nat} (h : Kept q k s) :
    Kept q k (scheduleGrant s) := by
  delta scheduleGrant
  repeat' first
    | with_reducible assumption
    | (lift_lets -underBinder; intro x; refine (fun (hx : Kept q k x) => ?_) ?_; clear_value x; rotate_left; subst x; rotate_right)
    | (intro x; subst x)
    | with_reducible apply kept_ite2
    | with_reducible apply planGcWake_kept
    | with_reducible apply planInspect_kept
    | with_reducible apply planSweep_kept
    | with_reducible apply planWork_kept
    | with_reducible apply tryGrant_kept
    | with_reducible refine kept_foldl2 (fun _ _ _ => ?_) _ ?_

theorem idleClose_kept (g) {s : State} {q : List Instr} {k : Nat} (h : Kept q k s) :
    Kept q k (idleClose g s) := by
  delta idleClose
  repeat' first
    | with_reducible assumption
    | with_reducible apply kept_ite
    | with_reducible apply startClose_kept

theorem minAwakeExpiry_kept (g) {s : State} {q : List Instr} {k : Nat} (h : Kept q k s) :
    Kept q k (minAwakeExpiry g s) := by
  delta minAwakeExpiry
  repeat' first
    | with_reducible assumption
    | (intro x; refine (fun (hx : Kept q k x) => ?_) ?_; clear_value x; rotate_left; subst x; rotate_right)
    | (lift_lets -underBinder; intro x; subst x)
    | with_reducible apply kept_ite
    | with_reducible apply setShelf_kept
    | with_reducible apply startClose_kept

theorem gcEraseWaitEnd_kept (g) (band) {s : State} {q : List Instr} {k : Nat} (h : Kept q k s) :
    Kept q k (gcEraseWaitEnd g band s) := by
  delta gcEraseWaitEnd
  repeat' first
    | with_reducible assumption
    | (intro x; refine (fun (hx : Kept q k x) => ?_) ?_; clear_value x; rotate_left; subst x; rotate_right)
    | (lift_lets -underBinder; intro x; subst x)
    | (intro x; subst x)
    | with_reducible apply kept_ite
    | with_reducible apply dropItems_kept
    | with_reducible apply eraseSet_kept
    | with_reducible apply finishJob_kept
    | with_reducible refine kept_foldl (fun _ _ _ => ?_) _ ?_
    | refine kept_mk ?_ rfl rfl rfl rfl rfl rfl rfl rfl rfl

/-! ### Machine/Ingest.lean -/

theorem currentEnt_kept (vol) (chunk) {s : State} {q : List Instr} {k : Nat} (h : Kept q k s) :
    Kept q k (currentEnt vol chunk s).2 := by
  delta currentEnt
  repeat' first
    | with_reducible assumption
    | with_reducible apply resolveEnt_kept
    | split

theorem atStage_kept (asn) (chunk) (st) {f : Cmd → ChunkWork → State → State} {s : State} {q : List Instr} {k : Nat} (hf : ∀ y0 y1 y2, Kept q k y2 → Kept q k (f y0 y1 y2)) (h : Kept q k s) :
    Kept q k (atStage asn chunk st f s) := by
  delta atStage
  repeat' first
    | with_reducible assumption
    | with_reducible apply kept_ite
    | with_reducible apply hf
    | split

theorem modWork_kept (asn) (chunk) (f) {s : State} {q : List Instr} {k : Nat} (h : Kept q k s) :
    Kept q k (modWork asn chunk f s) := by
  delta modWork
  repeat' first
    | with_reducible assumption
    | with_reducible apply modCmd_kept

theorem startWorkRead_kept (asn) (chunk) (serial) (loc) (why) {s : State} {q : List Instr} {k : Nat} (h : Kept q k s) :
    Kept q k (startWorkRead asn chunk serial loc why s) := by
  delta startWorkRead
  repeat' first
    | with_reducible assumption
    | (lift_lets -underBinder; intro x; subst x)
    | (intro x; subst x)
    | with_reducible apply kept_ite
    | with_reducible apply grantWake_kept
    | with_reducible apply modWork_kept
    | with_reducible apply startFetch_kept
    | split

theorem discardWork_kept (asn) {s : State} {q : List Instr} {k : Nat} (h : Kept q k s) :
    Kept q k (discardWork asn s) := by
  delta discardWork
  repeat' first
    | with_reducible assumption
    | (lift_lets -underBinder; intro x; refine (fun (hx : Kept q k x) => ?_) ?_; clear_value x; rotate_left; subst x; rotate_right)
    | (intro x; subst x)
    | with_reducible apply unpinChunk_kept
    | with_reducible refine kept_foldl (fun _ _ _ => ?_) _ ?_
    | split
    | refine kept_mk ?_ rfl rfl rfl rfl rfl rfl rfl rfl rfl

theorem endWriter_kept (asn) (st) (result) {s : State} {q : List Instr} {k : Nat} (h : Kept q k s) :
    Kept q k (endWriter asn st result s) := by
  delta endWriter
  repeat' first
    | with_reducible assumption
    | with_reducible apply kept_ite
    | with_reducible apply decide__kept
    | with_reducible apply discardWork_kept

theorem toCompress_kept (asn) (chunk) (cls) {s : State} {q : List Instr} {k : Nat} (h : Kept q k s) :
    Kept q k (toCompress asn chunk cls s) := by
  delta toCompress
  repeat' first
    | with_reducible assumption
    | (intro x; refine (fun (hx : Kept q k x) => ?_) ?_; clear_value x; rotate_left; subst x; rotate_right)
    | (lift_lets -underBinder; intro x; subst x)
    | with_reducible apply kept_ite
    | with_reducible apply endWriter_kept
    | with_reducible apply modCmd_kept
    | with_reducible apply modWork_kept
    | split

theorem toFingerprint_kept (asn) (chunk) (data) {s : State} {q : List Instr} {k : Nat} (h : Kept q k s) :
    Kept q k (toFingerprint asn chunk data s) := by
  delta toFingerprint
  repeat' first
    | with_reducible assumption
    | with_reducible apply modWork_kept

theorem takeTurn_kept (asn) (chunk) {s : State} {q : List Instr} {k : Nat} (h : Kept q k s) :
    Kept q k (takeTurn asn chunk s) := by
  delta takeTurn
  repeat' first
    | with_reducible assumption
    | (intro x; refine (fun (hx : Kept q k x) => ?_) ?_; clear_value x; rotate_left; subst x; rotate_right)
    | (lift_lets -underBinder; intro x; subst x)
    | intro _
    | with_reducible apply kept_ite
    | with_reducible apply atStage_kept
    | with_reducible apply currentEnt_kept
    | with_reducible apply modWork_kept
    | with_reducible apply startWorkRead_kept
    | with_reducible apply toCompress_kept
    | with_reducible apply toFingerprint_kept
    | split
    | refine kept_snd (by with_reducible assumption) ?_
    | refine kept_mk ?_ rfl rfl rfl rfl rfl rfl rfl rfl rfl

theorem applyRelease_kept (key) (first) (blocks) {s : State} {q : List Instr} {k : Nat} (h : Kept q k s) :
    Kept q k (applyRelease key first blocks s) := by
  delta applyRelease
  repeat' first
    | with_reducible assumption
    | (lift_lets -underBinder; intro x; subst x)
    | (intro x; subst x)
    | with_reducible apply unmapChunk_kept
    | with_reducible refine kept_foldl (fun _ _ _ => ?_) _ ?_

theorem enterChunk_kept (off) (mirror) (envelope) {s : State} {q : List Instr} {k : Nat} (h : Kept q k s) :
    Kept q k (enterChunk off mirror envelope s) := by
  delta enterChunk
  repeat' first
    | with_reducible assumption
    | (intro x; refine (fun (hx : Kept q k x) => ?_) ?_; clear_value x; rotate_left; subst x; rotate_right)
    | (lift_lets -underBinder; intro x; subst x)
    | (intro x; subst x)
    | with_reducible apply kept_ite
    | with_reducible apply putChunk_kept
    | split

theorem mapNew_kept (key) (chunk) (serial) {s : State} {q : List Instr} {k : Nat} (h : Kept q k s) :
    Kept q k (mapNew key chunk serial s) := by
  delta mapNew
  repeat' first
    | with_reducible assumption
    | with_reducible apply kept_ite
    | with_reducible apply mapDirect_kept
    | with_reducible apply mapShared_kept

theorem applyRec_kept (snap) (off) (mirror) (b) {s : State} {q : List Instr} {k : Nat} (h : Kept q k s) :
    Kept q k (applyRec snap off mirror b s) := by
  delta applyRec
  repeat' first
    | with_reducible assumption
    | with_reducible apply kept_ite
    | with_reducible apply applyRelease_kept
    | with_reducible apply enterChunk_kept
    | with_reducible apply mapNew_kept
    | with_reducible apply mapShared_kept
    | with_reducible apply moveChunk_kept
    | with_reducible apply updateIndex_kept
    | with_reducible refine kept_foldl (fun _ _ _ => ?_) _ ?_
    | split

theorem applyUnit_kept (asn) (unit) {s : State} {q : List Instr} {k : Nat} (h : Kept q k s) :
    Kept q k (applyUnit asn unit s) := by
  delta applyUnit
  repeat' first
    | with_reducible assumption
    | (lift_lets -underBinder; intro x; refine (fun (hx : Kept q k x) => ?_) ?_; clear_value x; rotate_left; subst x; rotate_right)
    | (intro x; refine (fun (hx : Kept q k x) => ?_) ?_; clear_value x; rotate_left; subst x; rotate_right)
    | (intro x; subst x)
    | with_reducible apply applyRec_kept
    | with_reducible apply modOwn_kept
    | with_reducible apply unpinChunk_kept
    | with_reducible refine kept_foldl (fun _ _ _ => ?_) _ ?_
    | refine kept_mk ?_ rfl rfl rfl rfl rfl rfl rfl rfl rfl

theorem endCmd_kept (asn) (st) (result) {s : State} {q : List Instr} {k : Nat} (h : Kept q k s) :
    Kept q k (endCmd asn st result s) := by
  delta endCmd
  repeat' first
    | with_reducible assumption
    | with_reducible apply kept_ite
    | with_reducible apply decide__kept
    | with_reducible apply endWriter_kept
    | split

theorem lookedUp_kept (asn) (chunk) {s : State} {q : List Instr} {k : Nat} (h : Kept q k s) :
    Kept q k (lookedUp asn chunk s) := by
  delta lookedUp
  repeat' first
    | with_reducible assumption
    | (lift_lets -underBinder; intro x; subst x)
    | with_reducible apply monBegin_kept
    | with_reducible apply monEnd_kept

theorem asNew_kept (asn) (chunk) {s : State} {q : List Instr} {k : Nat} (h : Kept q k s) :
    Kept q k (asNew asn chunk s) := by
  delta asNew
  repeat' first
    | with_reducible assumption
    | with_reducible apply lookedUp_kept
    | with_reducible apply toCompress_kept

theorem asReference_kept (asn) (chunk) (serial) {s : State} {q : List Instr} {k : Nat} (h : Kept q k s) :
    Kept q k (asReference asn chunk serial s) := by
  delta asReference
  repeat' first
    | with_reducible assumption
    | (lift_lets -underBinder; intro x; refine (fun (hx : Kept q k x) => ?_) ?_; clear_value x; rotate_left; subst x; rotate_right)
    | (intro x; refine (fun (hx : Kept q k x) => ?_) ?_; clear_value x; rotate_left; subst x; rotate_right)
    | (intro x; subst x)
    | with_reducible apply asNew_kept
    | with_reducible apply domCount_kept
    | with_reducible apply lookedUp_kept
    | with_reducible apply modWork_kept
    | with_reducible apply pinChunk_kept
    | split
    | refine kept_mk ?_ rfl rfl rfl rfl rfl rfl rfl rfl rfl

theorem clearSlot_kept (b) (slot) {s : State} {q : List Instr} {k : Nat} (h : Kept q k s) :
    Kept q k (clearSlot b slot s) := by
  delta clearSlot
  repeat' first
    | with_reducible assumption
    | (lift_lets -underBinder; intro x; subst x)
    | (intro x; subst x)
    | refine kept_mk ?_ rfl rfl rfl rfl rfl rfl rfl rfl rfl

theorem lookupSlots_kept (asn) (chunk) (b) (a3) {a4 : State} {q : List Instr} {k : Nat} (h : Kept q k a4) :
    Kept q k (lookupSlots asn chunk b a3 a4) := by
  induction a3 generalizing a4 with
  | nil =>
    unfold lookupSlots
    repeat' first
      | with_reducible assumption
      | (lift_lets -underBinder; intro x; subst x)
      | with_reducible apply asNew_kept
      | refine kept_mk ?_ rfl rfl rfl rfl rfl rfl rfl rfl rfl
  | cons b l ih =>
    unfold lookupSlots
    repeat' first
      | with_reducible assumption
      | (intro x; refine (fun (hx : Kept q k x) => ?_) ?_; clear_value x; rotate_left; subst x; rotate_right)
      | (lift_lets -underBinder; intro x; subst x)
      | (intro x; subst x)
      | with_reducible apply kept_ite
      | with_reducible apply ih
      | with_reducible apply asNew_kept
      | with_reducible apply asReference_kept
      | with_reducible apply clearSlot_kept
      | with_reducible apply domCount_kept
      | with_reducible apply modWork_kept
      | with_reducible apply pinChunk_kept
      | with_reducible apply startWorkRead_kept
      | split
      | refine kept_mk ?_ rfl rfl rfl rfl rfl rfl rfl rfl rfl

theorem applyToCut_kept (vol) (snap) {s : State} {q : List Instr} {k : Nat} (h : Kept q k s) :
    Kept q k (applyToCut vol snap s) := by
  delta applyToCut
  repeat' first
    | with_reducible assumption
    | with_reducible apply applyRec_kept
    | with_reducible refine kept_foldl (fun _ _ _ => ?_) _ ?_
    | split

theorem applyDeferred_kept {s : State} {q : List Instr} {k : Nat} (h : Kept q k s) :
    Kept q k (applyDeferred s) := by
  delta applyDeferred
  repeat' first
    | with_reducible assumption
    | with_reducible apply kept_ite
    | with_reducible apply applyUnit_kept
    | with_reducible refine kept_foldl (fun _ _ _ => ?_) _ ?_

theorem workReads_kept (asn) (chunk) {s : State} {q : List Instr} {k : Nat} (h : Kept q k s) :
    Kept q k (workReads asn chunk s) := by
  delta workReads
  repeat' first
    | with_reducible assumption
    | with_reducible apply kept_ite
    | with_reducible apply currentEnt_kept
    | with_reducible apply startWorkRead_kept
    | split
    | refine kept_snd (by with_reducible assumption) ?_

theorem writeUnits_kept (asn) {s : State} {q : List Instr} {k : Nat} (h : Kept q k s) :
    Kept q k (writeUnits asn s) := by
  delta writeUnits
  repeat' first
    | with_reducible assumption
    | (lift_lets -underBinder; intro x; subst x)
    | with_reducible apply kept_ite
    | with_reducible apply modCmd_kept
    | with_reducible apply writeRec_kept
    | with_reducible refine kept_foldl (fun _ _ _ => ?_) _ ?_
    | split

theorem writeWork_kept (asn) (chunk) {s : State} {q : List Instr} {k : Nat} (h : Kept q k s) :
    Kept q k (writeWork asn chunk s) := by
  delta writeWork
  repeat' first
    | with_reducible assumption
    | (lift_lets -underBinder; intro x; refine (fun (hx : Kept q k x) => ?_) ?_; clear_value x; rotate_left; subst x; rotate_right)
    | (intro x; refine (fun (hx : Kept q k x) => ?_) ?_; clear_value x; rotate_left; subst x; rotate_right)
    | (lift_lets -underBinder; intro x; subst x)
    | (intro x; subst x)
    | with_reducible apply kept_ite
    | with_reducible apply modWork_kept
    | with_reducible apply monEnd_kept
    | with_reducible apply writeRec_kept
    | split
    | refine kept_snd (by with_reducible assumption) ?_
    | refine kept_mk ?_ rfl rfl rfl rfl rfl rfl rfl rfl rfl

theorem ingestAdvance_kept {s : State} {q : List Instr} {k : Nat} (h : Kept q k s) :
    Kept q k (ingestAdvance s) := by
  delta ingestAdvance
  repeat' first
    | with_reducible assumption
    | (lift_lets -underBinder; intro x; refine (fun (hx : Kept q k x) => ?_) ?_; clear_value x; rotate_left; subst x; rotate_right)
    | (intro x; refine (fun (hx : Kept q k x) => ?_) ?_; clear_value x; rotate_left; subst x; rotate_right)
    | with_reducible apply kept_ite
    | with_reducible apply applyDeferred_kept
    | with_reducible apply takeTurn_kept
    | with_reducible apply workReads_kept
    | with_reducible apply writeUnits_kept
    | with_reducible apply writeWork_kept
    | with_reducible refine kept_foldl (fun _ _ _ => ?_) _ ?_
    | split

theorem dropFetch_kept (n) {s : State} {q : List Instr} {k : Nat} (h : Kept q k s) :
    Kept q k (dropFetch n s) := by
  delta dropFetch
  repeat' first
    | with_reducible assumption
    | (lift_lets -underBinder; intro x; subst x)
    | refine kept_mk ?_ rfl rfl rfl rfl rfl rfl rfl rfl rfl

theorem compressionDone_kept (asn) (chunk) {s : State} {q : List Instr} {k : Nat} (h : Kept q k s) :
    Kept q k (compressionDone asn chunk s) := by
  delta compressionDone
  repeat' first
    | with_reducible assumption
    | (lift_lets -underBinder; intro x; subst x)
    | (intro x; subst x)
    | intro _
    | with_reducible apply kept_ite
    | with_reducible apply atStage_kept
    | with_reducible apply domCount_kept
    | with_reducible apply modWork_kept
    | split
    | refine kept_mk ?_ rfl rfl rfl rfl rfl rfl rfl rfl rfl

theorem dropPin_kept (asn) (chunk) (w) {s : State} {q : List Instr} {k : Nat} (h : Kept q k s) :
    Kept q k (dropPin asn chunk w s) := by
  delta dropPin
  repeat' first
    | with_reducible assumption
    | (lift_lets -underBinder; intro x; refine (fun (hx : Kept q k x) => ?_) ?_; clear_value x; rotate_left; subst x; rotate_right)
    | (intro x; refine (fun (hx : Kept q k x) => ?_) ?_; clear_value x; rotate_left; subst x; rotate_right)
    | with_reducible apply dropFetch_kept
    | with_reducible apply modWork_kept
    | with_reducible apply unpinChunk_kept
    | split

theorem journalRelease_kept (asn) (unit) {s : State} {q : List Instr} {k : Nat} (h : Kept q k s) :
    Kept q k (journalRelease asn unit s) := by
  delta journalRelease
  repeat' first
    | with_reducible assumption
    | (intro x; refine (fun (hx : Kept q k x) => ?_) ?_; clear_value x; rotate_left; subst x; rotate_right)
    | (lift_lets -underBinder; intro x; subst x)
    | (intro x; subst x)
    | with_reducible apply kept_ite
    | with_reducible apply drainRecs_kept
    | split
    | refine kept_mk ?_ rfl rfl rfl rfl rfl rfl rfl rfl rfl

theorem indexGroupDone_kept (asn) (chunk) (ok) {s : State} {q : List Instr} {k : Nat} (h : Kept q k s) :
    Kept q k (indexGroupDone asn chunk ok s) := by
  delta indexGroupDone
  repeat' first
    | with_reducible assumption
    | (intro x; refine (fun (hx : Kept q k x) => ?_) ?_; clear_value x; rotate_left; subst x; rotate_right)
    | (lift_lets -underBinder; intro x; subst x)
    | (intro x; subst x)
    | intro _
    | with_reducible apply kept_ite
    | with_reducible apply asNew_kept
    | with_reducible apply atStage_kept
    | with_reducible apply domCount_kept
    | with_reducible apply lookupSlots_kept
    | with_reducible apply record_kept
    | refine kept_mk ?_ rfl rfl rfl rfl rfl rfl rfl rfl rfl

theorem countPoison_kept {s : State} {q : List Instr} {k : Nat} (h : Kept q k s) :
    Kept q k (countPoison s) := by
  delta countPoison
  repeat' first
    | with_reducible assumption
    | (lift_lets -underBinder; intro x; subst x)
    | refine kept_mk ?_ rfl rfl rfl rfl rfl rfl rfl rfl rfl

theorem verifyReadDone_endPin_kept (w) {s : State} {q : List Instr} {k : Nat} (h : Kept q k s) :
    Kept q k (verifyReadDone.endPin w s) := by
  delta verifyReadDone.endPin
  repeat' first
    | with_reducible assumption
    | (lift_lets -underBinder; intro x; refine (fun (hx : Kept q k x) => ?_) ?_; clear_value x; rotate_left; subst x; rotate_right)
    | with_reducible apply dropFetch_kept
    | with_reducible apply putChunk_kept
    | split

theorem deferUnit_kept (asn) (unit) (pins) {s : State} {q : List Instr} {k : Nat} (h : Kept q k s) :
    Kept q k (deferUnit asn unit pins s) := by
  delta deferUnit
  repeat' first
    | with_reducible assumption
    | (lift_lets -underBinder; intro x; refine (fun (hx : Kept q k x) => ?_) ?_; clear_value x; rotate_left; subst x; rotate_right)
    | (intro x; subst x)
    | with_reducible apply enterChunk_kept
    | with_reducible refine kept_foldl (fun _ _ _ => ?_) _ ?_
    | split
    | refine kept_mk ?_ rfl rfl rfl rfl rfl rfl rfl rfl rfl

theorem enterFlight_kept (asn) (chunk) (w) {s : State} {q : List Instr} {k : Nat} (h : Kept q k s) :
    Kept q k (enterFlight asn chunk w s) := by
  delta enterFlight
  repeat' first
    | with_reducible assumption
    | (lift_lets -underBinder; intro x; subst x)
    | refine kept_mk ?_ rfl rfl rfl rfl rfl rfl rfl rfl rfl

theorem lookup_kept (asn) (chunk) {s : State} {q : List Instr} {k : Nat} (h : Kept q k s) :
    Kept q k (lookup asn chunk s) := by
  delta lookup
  repeat' first
    | with_reducible assumption
    | (intro x; refine (fun (hx : Kept q k x) => ?_) ?_; clear_value x; rotate_left; subst x; rotate_right)
    | (lift_lets -underBinder; intro x; subst x)
    | (intro x; subst x)
    | with_reducible apply kept_ite
    | with_reducible apply asNew_kept
    | with_reducible apply cnsReads_kept
    | with_reducible apply domCount_kept
    | with_reducible apply enterFlight_kept
    | with_reducible apply lookedUp_kept
    | with_reducible apply lookupSlots_kept
    | with_reducible apply modWork_kept
    | with_reducible apply readGroup_kept
    | split
    | refine kept_mk ?_ rfl rfl rfl rfl rfl rfl rfl rfl rfl

theorem encryptionDone_kept (asn) (chunk) {s : State} {q : List Instr} {k : Nat} (h : Kept q k s) :
    Kept q k (encryptionDone asn chunk s) := by
  delta encryptionDone
  repeat' first
    | with_reducible assumption
    | intro _
    | with_reducible apply kept_ite
    | with_reducible apply kept_ite2
    | with_reducible apply atStage_kept
    | with_reducible apply endWriter_kept
    | with_reducible apply modWork_kept
    | with_reducible apply monAt_kept
    | with_reducible apply nextSerial_kept
    | split

theorem verifyShed_kept (asn) (chunk) {s : State} {q : List Instr} {k : Nat} (h : Kept q k s) :
    Kept q k (verifyShed asn chunk s) := by
  delta verifyShed
  repeat' first
    | with_reducible assumption
    | (lift_lets -underBinder; intro x; refine (fun (hx : Kept q k x) => ?_) ?_; clear_value x; rotate_left; subst x; rotate_right)
    | (intro x; subst x)
    | intro _
    | with_reducible apply asNew_kept
    | with_reducible apply atStage_kept
    | with_reducible apply domCount_kept
    | with_reducible apply dropPin_kept
    | refine kept_mk ?_ rfl rfl rfl rfl rfl rfl rfl rfl rfl

theorem lookupShed_kept (asn) (chunk) {s : State} {q : List Instr} {k : Nat} (h : Kept q k s) :
    Kept q k (lookupShed asn chunk s) := by
  delta lookupShed
  repeat' first
    | with_reducible assumption
    | (lift_lets -underBinder; intro x; refine (fun (hx : Kept q k x) => ?_) ?_; clear_value x; rotate_left; subst x; rotate_right)
    | (intro x; subst x)
    | intro _
    | with_reducible apply asNew_kept
    | with_reducible apply atStage_kept
    | with_reducible apply domCount_kept
    | refine kept_mk ?_ rfl rfl rfl rfl rfl rfl rfl rfl rfl

theorem commitUnit_kept (asn) (unit) {s : State} {q : List Instr} {k : Nat} (h : Kept q k s) :
    Kept q k (commitUnit asn unit s) := by
  delta commitUnit
  repeat' first
    | with_reducible assumption
    | (intro x; refine (fun (hx : Kept q k x) => ?_) ?_; clear_value x; rotate_left; subst x; rotate_right)
    | (lift_lets -underBinder; intro x; subst x)
    | (intro x; subst x)
    | with_reducible apply kept_ite
    | with_reducible apply applyUnit_kept
    | with_reducible apply decide__kept
    | with_reducible apply deferUnit_kept
    | with_reducible apply insertIndex_kept
    | with_reducible apply modCmd_kept
    | with_reducible apply monEnd_kept
    | with_reducible apply unpinChunk_kept
    | with_reducible refine kept_foldl (fun _ _ _ => ?_) _ ?_
    | split
    | refine kept_mk ?_ rfl rfl rfl rfl rfl rfl rfl rfl rfl

theorem mergeReadDone_kept (asn) (chunk) (poisoned) {s : State} {q : List Instr} {k : Nat} (h : Kept q k s) :
    Kept q k (mergeReadDone asn chunk poisoned s) := by
  delta mergeReadDone
  repeat' first
    | with_reducible assumption
    | (intro x; refine (fun (hx : Kept q k x) => ?_) ?_; clear_value x; rotate_left; subst x; rotate_right)
    | (lift_lets -underBinder; intro x; subst x)
    | (intro x; subst x)
    | intro _
    | with_reducible apply kept_ite
    | with_reducible apply atStage_kept
    | with_reducible apply countDecomp_kept
    | with_reducible apply countPoison_kept
    | with_reducible apply dropFetch_kept
    | with_reducible apply endWriter_kept
    | with_reducible apply failSource_kept
    | with_reducible apply markRecovered_kept
    | with_reducible apply modWork_kept
    | with_reducible apply toCompress_kept
    | with_reducible apply toFingerprint_kept
    | split

theorem verifyReadDone_kept (asn) (chunk) (poisoned) {s : State} {q : List Instr} {k : Nat} (h : Kept q k s) :
    Kept q k (verifyReadDone asn chunk poisoned s) := by
  delta verifyReadDone
  repeat' first
    | with_reducible assumption
    | (lift_lets -underBinder; intro x; refine (fun (hx : Kept q k x) => ?_) ?_; clear_value x; rotate_left; subst x; rotate_right)
    | (lift_lets -underBinder; intro x; subst x)
    | intro _
    | with_reducible apply kept_ite
    | with_reducible apply asNew_kept
    | with_reducible apply asReference_kept
    | with_reducible apply atStage_kept
    | with_reducible apply countDecomp_kept
    | with_reducible apply countPoison_kept
    | with_reducible apply domCount_kept
    | with_reducible apply dropPin_kept
    | with_reducible apply failSource_kept
    | with_reducible apply markRecovered_kept
    | with_reducible apply modWork_kept
    | with_reducible apply nextSerial_kept
    | with_reducible apply record_kept
    | with_reducible apply verifyReadDone_endPin_kept
    | split
    | refine kept_mk ?_ rfl rfl rfl rfl rfl rfl rfl rfl rfl

theorem fingerprintDone_kept (asn) (chunk) {s : State} {q : List Instr} {k : Nat} (h : Kept q k s) :
    Kept q k (fingerprintDone asn chunk s) := by
  delta fingerprintDone
  repeat' first
    | with_reducible assumption
    | (intro x; refine (fun (hx : Kept q k x) => ?_) ?_; clear_value x; rotate_left; subst x; rotate_right)
    | (lift_lets -underBinder; intro x; subst x)
    | (intro x; subst x)
    | intro _
    | with_reducible apply kept_ite
    | with_reducible apply atStage_kept
    | with_reducible apply domCount_kept
    | with_reducible apply lookup_kept
    | with_reducible apply modWork_kept
    | with_reducible apply monBegin_kept
    | refine kept_mk ?_ rfl rfl rfl rfl rfl rfl rfl rfl rfl

/-! ### Machine/Reads.lean -/

theorem startRead_kept (asn) {s : State} {q : List Instr} {k : Nat} (h : Kept q k s) :
    Kept q k (startRead asn s) := by
  delta startRead
  repeat' first
    | with_reducible assumption
    | (lift_lets -underBinder; intro x; refine (fun (hx : Kept q k x) => ?_) ?_; clear_value x; rotate_left; subst x; rotate_right)
    | (intro x; refine (fun (hx : Kept q k x) => ?_) ?_; clear_value x; rotate_left; subst x; rotate_right)
    | with_reducible apply decide__kept
    | with_reducible apply heatTouch_kept
    | with_reducible apply modCmd_kept
    | with_reducible apply setCmd_kept
    | split

theorem finishRecall_kept (asn) {s : State} {q : List Instr} {k : Nat} (h : Kept q k s) :
    Kept q k (finishRecall asn s) := by
  delta finishRecall
  repeat' first
    | with_reducible assumption
    | (lift_lets -underBinder; intro x; subst x)
    | with_reducible apply decide__kept
    | with_reducible apply draw_kept
    | with_reducible apply modCmd_kept

theorem setHold_kept (asn) (staged) (shelves) {s : State} {q : List Instr} {k : Nat} (h : Kept q k s) :
    Kept q k (setHold asn staged shelves s) := by
  delta setHold
  repeat' first
    | with_reducible assumption
    | (intro x; refine (fun (hx : Kept q k x) => ?_) ?_; clear_value x; rotate_left; subst x; rotate_right)
    | (lift_lets -underBinder; intro x; subst x)
    | (intro x; subst x)
    | with_reducible apply modCmd_kept
    | split
    | refine kept_mk ?_ rfl rfl rfl rfl rfl rfl rfl rfl rfl

theorem startRecall_kept (asn) {s : State} {q : List Instr} {k : Nat} (h : Kept q k s) :
    Kept q k (startRecall asn s) := by
  delta startRecall
  repeat' first
    | with_reducible assumption
    | (lift_lets -underBinder; intro x; refine (fun (hx : Kept q k x) => ?_) ?_; clear_value x; rotate_left; subst x; rotate_right)
    | (intro x; refine (fun (hx : Kept q k x) => ?_) ?_; clear_value x; rotate_left; subst x; rotate_right)
    | (intro x; subst x)
    | with_reducible apply kept_ite
    | with_reducible apply decide__kept
    | with_reducible apply finishRecall_kept
    | with_reducible apply heatTouch_kept
    | with_reducible apply joinBatch_kept
    | with_reducible apply modCmd_kept
    | with_reducible apply setCmd_kept
    | with_reducible apply setHold_kept
    | with_reducible refine kept_foldl (fun _ _ _ => ?_) _ ?_
    | split

theorem failRead_kept (asn) (chunk) (st) {s : State} {q : List Instr} {k : Nat} (h : Kept q k s) :
    Kept q k (failRead asn chunk st s) := by
  delta failRead
  repeat' first
    | with_reducible assumption
    | with_reducible apply decide__kept
    | split

theorem modRead_kept (asn) (chunk) (f) {s : State} {q : List Instr} {k : Nat} (h : Kept q k s) :
    Kept q k (modRead asn chunk f s) := by
  delta modRead
  repeat' first
    | with_reducible assumption
    | with_reducible apply modCmd_kept

theorem readsArrived_kept {s : State} {q : List Instr} {k : Nat} (h : Kept q k s) :
    Kept q k (readsArrived s) := by
  delta readsArrived
  repeat' first
    | with_reducible assumption
    | (lift_lets -underBinder; intro x; subst x)
    | with_reducible apply kept_ite
    | with_reducible apply failRead_kept
    | with_reducible apply modRead_kept
    | with_reducible refine kept_foldl (fun _ _ _ => ?_) _ ?_
    | split
    | refine kept_mk ?_ rfl rfl rfl rfl rfl rfl rfl rfl rfl

theorem decompressionDone_kept (asn) (chunk) {s : State} {q : List Instr} {k : Nat} (h : Kept q k s) :
    Kept q k (decompressionDone asn chunk s) := by
  delta decompressionDone
  repeat' first
    | with_reducible assumption
    | (lift_lets -underBinder; intro x; refine (fun (hx : Kept q k x) => ?_) ?_; clear_value x; rotate_left; subst x; rotate_right)
    | (intro x; subst x)
    | with_reducible apply kept_ite
    | with_reducible apply countDecomp_kept
    | with_reducible apply failRead_kept
    | with_reducible apply failSource_kept
    | with_reducible apply markRecovered_kept
    | with_reducible apply modRead_kept
    | with_reducible apply monAt_kept
    | split
    | refine kept_mk ?_ rfl rfl rfl rfl rfl rfl rfl rfl rfl

theorem failWaiting_kept {s : State} {q : List Instr} {k : Nat} (h : Kept q k s) :
    Kept q k (failWaiting s) := by
  delta failWaiting
  repeat' first
    | with_reducible assumption
    | (lift_lets -underBinder; intro x; subst x)
    | (intro x; subst x)
    | with_reducible apply kept_ite
    | with_reducible apply decide__kept
    | with_reducible refine kept_foldl (fun _ _ _ => ?_) _ ?_

theorem deliver_kept (asn) (chunk) {s : State} {q : List Instr} {k : Nat} (h : Kept q k s) :
    Kept q k (deliver asn chunk s) := by
  delta deliver
  repeat' first
    | with_reducible assumption
    | (lift_lets -underBinder; intro x; refine (fun (hx : Kept q k x) => ?_) ?_; clear_value x; rotate_left; subst x; rotate_right)
    | (intro x; refine (fun (hx : Kept q k x) => ?_) ?_; clear_value x; rotate_left; subst x; rotate_right)
    | (intro x; subst x)
    | with_reducible apply kept_ite
    | with_reducible apply flushAll_kept
    | with_reducible apply modCmd_kept
    | with_reducible apply modRead_kept
    | with_reducible apply recordOutcome_kept
    | with_reducible apply setQp_kept
    | split

theorem nextLayer_kept (asn) (chunk) (serial) {s : State} {q : List Instr} {k : Nat} (h : Kept q k s) :
    Kept q k (nextLayer asn chunk serial s) := by
  delta nextLayer
  repeat' first
    | with_reducible assumption
    | (intro x; refine (fun (hx : Kept q k x) => ?_) ?_; clear_value x; rotate_left; subst x; rotate_right)
    | (lift_lets -underBinder; intro x; subst x)
    | (intro x; subst x)
    | with_reducible apply kept_ite
    | with_reducible apply failRead_kept
    | with_reducible apply grantWake_kept
    | with_reducible apply joinBatch_kept
    | with_reducible apply modRead_kept
    | with_reducible apply startFetch_kept
    | with_reducible apply wantWake_kept
    | split

theorem resolveRead_kept (asn) (chunk) {s : State} {q : List Instr} {k : Nat} (h : Kept q k s) :
    Kept q k (resolveRead asn chunk s) := by
  delta resolveRead
  repeat' first
    | with_reducible assumption
    | with_reducible apply kept_ite
    | with_reducible apply failRead_kept
    | with_reducible apply modRead_kept
    | with_reducible apply monAt_kept
    | with_reducible apply nextLayer_kept
    | with_reducible apply resolveEnt_kept
    | split
    | refine kept_snd (by with_reducible assumption) ?_

theorem readStep_kept (asn) (r) {s : State} {q : List Instr} {k : Nat} (h : Kept q k s) :
    Kept q k (readStep asn r s) := by
  delta readStep
  repeat' first
    | with_reducible assumption
    | with_reducible apply kept_ite
    | with_reducible apply deliver_kept
    | with_reducible apply resolveRead_kept
    | split

theorem readsAdvance_kept {s : State} {q : List Instr} {k : Nat} (h : Kept q k s) :
    Kept q k (readsAdvance s) := by
  delta readsAdvance
  repeat' first
    | with_reducible assumption
    | (lift_lets -underBinder; intro x; refine (fun (hx : Kept q k x) => ?_) ?_; clear_value x; rotate_left; subst x; rotate_right)
    | (intro x; refine (fun (hx : Kept q k x) => ?_) ?_; clear_value x; rotate_left; subst x; rotate_right)
    | (lift_lets -underBinder; intro x; subst x)
    | with_reducible apply kept_ite
    | with_reducible apply decide__kept
    | with_reducible apply modCmd_kept
    | with_reducible apply readStep_kept
    | with_reducible refine kept_foldl (fun _ _ _ => ?_) _ ?_
    | split

theorem recallsAdvance_kept {s : State} {q : List Instr} {k : Nat} (h : Kept q k s) :
    Kept q k (recallsAdvance s) := by
  delta recallsAdvance
  repeat' first
    | with_reducible assumption
    | with_reducible apply kept_ite
    | with_reducible apply finishRecall_kept
    | with_reducible apply modCmd_kept
    | with_reducible apply setHold_kept
    | with_reducible apply startMove_kept
    | with_reducible refine kept_foldl (fun _ _ _ => ?_) _ ?_
    | split

theorem holdExpiry_kept (n) {s : State} {q : List Instr} {k : Nat} (h : Kept q k s) :
    Kept q k (holdExpiry n s) := by
  delta holdExpiry
  repeat' first
    | with_reducible assumption
    | (intro x; refine (fun (hx : Kept q k x) => ?_) ?_; clear_value x; rotate_left; subst x; rotate_right)
    | (lift_lets -underBinder; intro x; subst x)
    | (intro x; subst x)
    | with_reducible apply kept_ite
    | with_reducible apply startClose_kept
    | with_reducible refine kept_foldl (fun _ _ _ => ?_) _ ?_
    | split
    | refine kept_mk ?_ rfl rfl rfl rfl rfl rfl rfl rfl rfl

theorem recallStageDone_kept (asn) {s : State} {q : List Instr} {k : Nat} (h : Kept q k s) :
    Kept q k (recallStageDone asn s) := by
  delta recallStageDone
  repeat' first
    | with_reducible assumption
    | (lift_lets -underBinder; intro x; refine (fun (hx : Kept q k x) => ?_) ?_; clear_value x; rotate_left; subst x; rotate_right)
    | (intro x; refine (fun (hx : Kept q k x) => ?_) ?_; clear_value x; rotate_left; subst x; rotate_right)
    | (lift_lets -underBinder; intro x; subst x)
    | (intro x; subst x)
    | with_reducible apply kept_ite
    | with_reducible apply finishRecall_kept
    | with_reducible apply modCmd_kept
    | with_reducible apply setHold_kept
    | split
    | refine kept_mk ?_ rfl rfl rfl rfl rfl rfl rfl rfl rfl

end Sys2Proof.Machine
end

