-- ==== Sys2Proof/Laws/KeptOrder.lean ====
section
/-!
SUPPORT. Laws/KeptOrder.lean: that the order of commands, replication and the mirror carry the queue, the invariant of the head
and the rollback count from state to state (Kept), one lemma for each operation.
-/
namespace Sys2Proof.Machine

/-! ### Machine/Order.lean -/

theorem markVols_kept (vols) (epoch) (cause) {s : State} {q : List Instr} {k : Nat} (h : Kept q k s) :
    Kept q k (markVols vols epoch cause s) := by
  delta markVols
  repeat' first
    | with_reducible assumption
    | (lift_lets -underBinder; intro x; refine (fun (hx : Kept q k x) => ?_) ?_; clear_value x; rotate_left; subst x; rotate_right)
    | with_reducible apply kept_ite
    | with_reducible apply changeArray_kept
    | with_reducible apply record_kept
    | with_reducible refine kept_foldl (fun _ _ _ => ?_) _ ?_

theorem answerCsn_kept (asn) (c) (st) (orig) (result) {s : State} {q : List Instr} {k : Nat} (h : Kept q k s) :
    Kept q k (answerCsn asn c st orig result s) := by
  delta answerCsn
  repeat' first
    | with_reducible assumption
    | (intro x; refine (fun (hx : Kept q k x) => ?_) ?_; clear_value x; rotate_left; subst x; rotate_right)
    | (lift_lets -underBinder; intro x; subst x)
    | with_reducible apply answerMsg_kept
    | refine kept_mk ?_ rfl rfl rfl rfl rfl rfl rfl rfl rfl

theorem seeCsn_kept (queueId) (csn) {s : State} {q : List Instr} {k : Nat} (h : Kept q k s) :
    Kept q k (seeCsn queueId csn s) := by
  delta seeCsn
  repeat' first
    | with_reducible assumption
    | (lift_lets -underBinder; intro x; subst x)
    | (intro x; subst x)
    | with_reducible apply kept_ite
    | split
    | refine kept_mk ?_ rfl rfl rfl rfl rfl rfl rfl rfl rfl

theorem checkMessage_kept (asn) (c) {s : State} {q : List Instr} {k : Nat} (h : Kept q k s) :
    Kept q k (checkMessage asn c s).2 := by
  delta checkMessage
  repeat' first
    | with_reducible assumption
    | (lift_lets -underBinder; intro x; refine (fun (hx : Kept q k x) => ?_) ?_; clear_value x; rotate_left; subst x; rotate_right)
    | with_reducible apply kept_ite2
    | with_reducible apply answerCsn_kept
    | with_reducible apply decide__kept
    | with_reducible apply modCmd_kept
    | with_reducible apply seeCsn_kept
    | split

theorem dropReader_kept (asn) {s : State} {q : List Instr} {k : Nat} (h : Kept q k s) :
    Kept q k (dropReader asn s) := by
  delta dropReader
  repeat' first
    | with_reducible assumption
    | (lift_lets -underBinder; intro x; subst x)
    | (intro x; subst x)
    | refine kept_mk ?_ rfl rfl rfl rfl rfl rfl rfl rfl rfl

theorem endEarly_kept (asn) (st) {s : State} {q : List Instr} {k : Nat} (h : Kept q k s) :
    Kept q k (endEarly asn st s) := by
  delta endEarly
  repeat' first
    | with_reducible assumption
    | with_reducible apply dropReader_kept
    | with_reducible apply endCmd_kept

theorem epochTimer_kept {s : State} {q : List Instr} {k : Nat} (h : Kept q k s) :
    Kept q k (epochTimer s) := by
  delta epochTimer
  repeat' first
    | with_reducible assumption
    | (lift_lets -underBinder; intro x; subst x)
    | (intro x; subst x)
    | with_reducible apply kept_ite
    | refine kept_mk ?_ rfl rfl rfl rfl rfl rfl rfl rfl rfl

theorem overlapRelease_kept (asn) {s : State} {q : List Instr} {k : Nat} (h : Kept q k s) :
    Kept q k (overlapRelease asn s) := by
  delta overlapRelease
  repeat' first
    | with_reducible assumption
    | (lift_lets -underBinder; intro x; refine (fun (hx : Kept q k x) => ?_) ?_; clear_value x; rotate_left; subst x; rotate_right)
    | with_reducible apply kept_ite
    | with_reducible apply decide__kept
    | with_reducible apply modCmd_kept
    | with_reducible apply startRead_kept
    | with_reducible apply startRecall_kept
    | split

theorem startIdentify_kept (asn) {s : State} {q : List Instr} {k : Nat} (h : Kept q k s) :
    Kept q k (startIdentify asn s) := by
  delta startIdentify
  repeat' first
    | with_reducible assumption
    | (intro x; refine (fun (hx : Kept q k x) => ?_) ?_; clear_value x; rotate_left; subst x; rotate_right)
    | (lift_lets -underBinder; intro x; subst x)
    | (intro x; subst x)
    | with_reducible apply kept_ite
    | with_reducible apply flushAll_kept
    | with_reducible apply modCmd_kept
    | with_reducible apply setQp_kept
    | split

theorem startWriter_kept (asn) (data) {s : State} {q : List Instr} {k : Nat} (h : Kept q k s) :
    Kept q k (startWriter asn data s) := by
  delta startWriter
  repeat' first
    | with_reducible assumption
    | (intro x; refine (fun (hx : Kept q k x) => ?_) ?_; clear_value x; rotate_left; subst x; rotate_right)
    | (lift_lets -underBinder; intro x; subst x)
    | with_reducible apply kept_ite
    | with_reducible apply heatTouch_kept
    | with_reducible apply modCmd_kept
    | with_reducible apply writeRec_kept
    | with_reducible refine kept_foldl (fun _ _ _ => ?_) _ ?_
    | split

theorem enterStep3_kept (asn) {s : State} {q : List Instr} {k : Nat} (h : Kept q k s) :
    Kept q k (enterStep3 asn s) := by
  delta enterStep3
  repeat' first
    | with_reducible assumption
    | (lift_lets -underBinder; intro x; refine (fun (hx : Kept q k x) => ?_) ?_; clear_value x; rotate_left; subst x; rotate_right)
    | with_reducible apply kept_ite
    | with_reducible apply decide__kept
    | with_reducible apply modCmd_kept
    | with_reducible apply padShelf_kept
    | with_reducible apply startIdentify_kept
    | with_reducible apply startRead_kept
    | with_reducible apply startRecall_kept
    | with_reducible apply startWriter_kept
    | with_reducible refine kept_foldl (fun _ _ _ => ?_) _ ?_
    | split

theorem letIn_kept (asn) {s : State} {q : List Instr} {k : Nat} (h : Kept q k s) :
    Kept q k (letIn asn s) := by
  delta letIn
  repeat' first
    | with_reducible assumption
    | with_reducible apply kept_ite
    | with_reducible apply decide__kept
    | with_reducible apply enterStep3_kept
    | split

theorem admitAll_kept {s : State} {q : List Instr} {k : Nat} (h : Kept q k s) :
    Kept q k (admitAll s) := by
  delta admitAll
  repeat' first
    | with_reducible assumption
    | with_reducible apply letIn_kept
    | with_reducible refine kept_foldl (fun _ _ _ => ?_) _ ?_

theorem holdOkFall_kept {s : State} {q : List Instr} {k : Nat} (h : Kept q k s) :
    Kept q k (holdOkFall s) := by
  delta holdOkFall
  repeat' first
    | with_reducible assumption
    | (intro x; refine (fun (hx : Kept q k x) => ?_) ?_; clear_value x; rotate_left; subst x; rotate_right)
    | (lift_lets -underBinder; intro x; subst x)
    | (intro x; subst x)
    | with_reducible apply kept_ite
    | with_reducible apply note_kept
    | refine kept_mk ?_ rfl rfl rfl rfl rfl rfl rfl rfl rfl

theorem barrierRelease_kept (qpn) {s : State} {q : List Instr} {k : Nat} (h : Kept q k s) :
    Kept q k (barrierRelease qpn s) := by
  delta barrierRelease
  repeat' first
    | with_reducible assumption
    | with_reducible apply letIn_kept
    | with_reducible refine kept_foldl (fun _ _ _ => ?_) _ ?_

theorem runAbort_kept (asn) {s : State} {q : List Instr} {k : Nat} (h : Kept q k s) :
    Kept q k (runAbort asn s) := by
  delta runAbort
  repeat' first
    | with_reducible assumption
    | (lift_lets -underBinder; intro x; refine (fun (hx : Kept q k x) => ?_) ?_; clear_value x; rotate_left; subst x; rotate_right)
    | with_reducible apply kept_ite
    | with_reducible apply decide__kept
    | with_reducible apply endEarly_kept
    | with_reducible apply modCmd_kept
    | split

theorem runMessage_kept (op) (qpn) (tag) {s : State} {q : List Instr} {k : Nat} (h : Kept q k s) :
    Kept q k (runMessage op qpn tag s) := by
  delta runMessage
  repeat' first
    | with_reducible assumption
    | (intro x; refine (fun (hx : Kept q k x) => ?_) ?_; clear_value x; rotate_left; subst x; rotate_right)
    | (lift_lets -underBinder; intro x; subst x)
    | with_reducible apply kept_ite
    | with_reducible apply checkMessage_kept
    | with_reducible apply letIn_kept
    | with_reducible apply modCmd_kept
    | with_reducible apply monBegin_kept
    | with_reducible apply runAbort_kept
    | split
    | refine kept_snd (by with_reducible assumption) ?_

theorem epochBegin_kept {s : State} {q : List Instr} {k : Nat} (h : Kept q k s) :
    Kept q k (epochBegin s) := by
  delta epochBegin
  repeat' first
    | with_reducible assumption
    | (lift_lets -underBinder; intro x; refine (fun (hx : Kept q k x) => ?_) ?_; clear_value x; rotate_left; subst x; rotate_right)
    | (intro x; refine (fun (hx : Kept q k x) => ?_) ?_; clear_value x; rotate_left; subst x; rotate_right)
    | (lift_lets -underBinder; intro x; subst x)
    | (intro x; subst x)
    | with_reducible apply monCount_kept
    | split
    | refine kept_mk ?_ rfl rfl rfl rfl rfl rfl rfl rfl rfl

theorem epochMark_kept {s : State} {q : List Instr} {k : Nat} (h : Kept q k s) :
    Kept q k (epochMark s) := by
  delta epochMark
  repeat' first
    | with_reducible assumption
    | (lift_lets -underBinder; intro x; subst x)
    | (intro x; subst x)
    | with_reducible apply kept_ite
    | with_reducible apply writeLoose_kept
    | split
    | refine kept_snd (by with_reducible assumption) ?_
    | refine kept_mk ?_ rfl rfl rfl rfl rfl rfl rfl rfl rfl

theorem padCovered_kept (asn) (c) {s : State} {q : List Instr} {k : Nat} (h : Kept q k s) :
    Kept q k (padCovered asn c s) := by
  delta padCovered
  repeat' first
    | with_reducible assumption
    | (lift_lets -underBinder; intro x; subst x)
    | (intro x; subst x)
    | with_reducible apply padShelf_kept
    | with_reducible refine kept_foldl (fun _ _ _ => ?_) _ ?_

theorem untrackedAdvance_kept {s : State} {q : List Instr} {k : Nat} (h : Kept q k s) :
    Kept q k (untrackedAdvance s) := by
  delta untrackedAdvance
  repeat' first
    | with_reducible assumption
    | with_reducible apply kept_ite
    | with_reducible apply decide__kept
    | with_reducible apply padCovered_kept
    | with_reducible refine kept_foldl (fun _ _ _ => ?_) _ ?_

theorem flashExit_kept {s : State} {q : List Instr} {k : Nat} (h : Kept q k s) :
    Kept q k (flashExit s) := by
  delta flashExit
  repeat' first
    | with_reducible assumption
    | (lift_lets -underBinder; intro x; subst x)
    | with_reducible apply kept_ite
    | refine kept_mk ?_ rfl rfl rfl rfl rfl rfl rfl rfl rfl

theorem holdOkRise_kept {s : State} {q : List Instr} {k : Nat} (h : Kept q k s) :
    Kept q k (holdOkRise s) := by
  delta holdOkRise
  repeat' first
    | with_reducible assumption
    | (lift_lets -underBinder; intro x; subst x)
    | (intro x; subst x)
    | refine kept_mk ?_ rfl rfl rfl rfl rfl rfl rfl rfl rfl

theorem dropPlain_kept (qpn) (tag) {s : State} {q : List Instr} {k : Nat} (h : Kept q k s) :
    Kept q k (dropPlain qpn tag s) := by
  delta dropPlain
  repeat' first
    | with_reducible assumption
    | (lift_lets -underBinder; intro x; subst x)
    | (intro x; subst x)
    | with_reducible apply kept_ite
    | with_reducible apply setQp_kept

theorem messageTimer_kept (qpn) (tag) {s : State} {q : List Instr} {k : Nat} (h : Kept q k s) :
    Kept q k (messageTimer qpn tag s) := by
  delta messageTimer
  repeat' first
    | with_reducible assumption
    | (lift_lets -underBinder; intro x; refine (fun (hx : Kept q k x) => ?_) ?_; clear_value x; rotate_left; subst x; rotate_right)
    | (lift_lets -underBinder; intro x; subst x)
    | with_reducible apply kept_ite
    | with_reducible apply answerMsg_kept
    | with_reducible apply checkMessage_kept
    | with_reducible apply dropPlain_kept
    | with_reducible apply endEarly_kept
    | with_reducible apply setTag_kept
    | split
    | refine kept_snd (by with_reducible assumption) ?_

/-! ### Machine/Repl.lean -/

theorem wantBatchWake_kept (rn) (g) {s : State} {q : List Instr} {k : Nat} (h : Kept q k s) :
    Kept q k (wantBatchWake rn g s) := by
  delta wantBatchWake
  repeat' first
    | with_reducible assumption
    | with_reducible apply kept_ite
    | with_reducible apply addItem_kept

theorem setRel_kept (r) (v) {s : State} {q : List Instr} {k : Nat} (h : Kept q k s) :
    Kept q k (setRel r v s) := by
  delta setRel
  repeat' first
    | with_reducible assumption
    | (lift_lets -underBinder; intro x; subst x)
    | refine kept_mk ?_ rfl rfl rfl rfl rfl rfl rfl rfl rfl

theorem openLink_kept (r) {s : State} {q : List Instr} {k : Nat} (h : Kept q k s) :
    Kept q k (openLink r s) := by
  delta openLink
  repeat' first
    | with_reducible assumption
    | (lift_lets -underBinder; intro x; subst x)
    | with_reducible apply emit_kept
    | with_reducible apply setRel_kept

theorem linkLost_kept (qpn) {s : State} {q : List Instr} {k : Nat} (h : Kept q k s) :
    Kept q k (linkLost qpn s) := by
  delta linkLost
  repeat' first
    | with_reducible assumption
    | (intro x; refine (fun (hx : Kept q k x) => ?_) ?_; clear_value x; rotate_left; subst x; rotate_right)
    | (lift_lets -underBinder; intro x; subst x)
    | with_reducible apply kept_ite
    | with_reducible apply openLink_kept
    | with_reducible apply setRel_kept
    | with_reducible refine kept_foldl (fun _ _ _ => ?_) _ ?_

theorem closeMsg_kept (rn) {s : State} {q : List Instr} {k : Nat} (h : Kept q k s) :
    Kept q k (closeMsg rn s) := by
  delta closeMsg
  repeat' first
    | with_reducible assumption
    | (lift_lets -underBinder; intro x; subst x)
    | (intro x; subst x)
    | with_reducible apply kept_ite
    | with_reducible apply setRel_kept

theorem nextTodo_kept (rn) {s : State} {q : List Instr} {k : Nat} (h : Kept q k s) :
    Kept q k (nextTodo rn s) := by
  delta nextTodo
  repeat' first
    | with_reducible assumption
    | (lift_lets -underBinder; intro x; subst x)
    | with_reducible apply setRel_kept

theorem putRec_kept (rn) (r) {s : State} {q : List Instr} {k : Nat} (h : Kept q k s) :
    Kept q k (putRec rn r s) := by
  delta putRec
  repeat' first
    | with_reducible assumption
    | (intro x; refine (fun (hx : Kept q k x) => ?_) ?_; clear_value x; rotate_left; subst x; rotate_right)
    | (lift_lets -underBinder; intro x; subst x)
    | (intro x; subst x)
    | with_reducible apply kept_ite
    | with_reducible apply closeMsg_kept
    | with_reducible apply setRel_kept

theorem readLayer_kept (rn) (serial) {s : State} {q : List Instr} {k : Nat} (h : Kept q k s) :
    Kept q k (readLayer rn serial s) := by
  delta readLayer
  repeat' first
    | with_reducible assumption
    | (lift_lets -underBinder; intro x; subst x)
    | with_reducible apply kept_ite
    | with_reducible apply setRel_kept
    | with_reducible apply startFetch_kept
    | with_reducible apply wantBatchWake_kept
    | split

theorem buildStep_kept (rn) {s : State} {q : List Instr} {k : Nat} (h : Kept q k s) :
    Kept q k (buildStep rn s) := by
  delta buildStep
  repeat' first
    | with_reducible assumption
    | (lift_lets -underBinder; intro x; subst x)
    | with_reducible apply kept_ite
    | with_reducible apply closeMsg_kept
    | with_reducible apply nextTodo_kept
    | with_reducible apply putRec_kept
    | with_reducible apply readLayer_kept
    | split

theorem backToPoint_kept (r) {s : State} {q : List Instr} {k : Nat} (h : Kept q k s) :
    Kept q k (backToPoint r s) := by
  delta backToPoint
  repeat' first
    | with_reducible assumption
    | with_reducible apply copyMap_kept
    | with_reducible apply dropMap_kept
    | with_reducible refine kept_foldl (fun _ _ _ => ?_) _ ?_
    | split

theorem modSnap_kept (vol) (n) (f) {s : State} {q : List Instr} {k : Nat} (h : Kept q k s) :
    Kept q k (modSnap vol n f s) := by
  delta modSnap
  repeat' first
    | with_reducible assumption
    | (lift_lets -underBinder; intro x; subst x)
    | refine kept_mk ?_ rfl rfl rfl rfl rfl rfl rfl rfl rfl

theorem dropLater_kept (key) (job) {s : State} {q : List Instr} {k : Nat} (h : Kept q k s) :
    Kept q k (dropLater key job s) := by
  delta dropLater
  repeat' first
    | with_reducible assumption
    | (lift_lets -underBinder; intro x; subst x)
    | refine kept_mk ?_ rfl rfl rfl rfl rfl rfl rfl rfl rfl

theorem snapGone_kept (vol) (n) (job) {s : State} {q : List Instr} {k : Nat} (h : Kept q k s) :
    Kept q k (snapGone vol n job s) := by
  delta snapGone
  repeat' first
    | with_reducible assumption
    | with_reducible apply dropLater_kept
    | with_reducible apply modSnap_kept

theorem freeRel_kept (rn) (r) {s : State} {q : List Instr} {k : Nat} (h : Kept q k s) :
    Kept q k (freeRel rn r s) := by
  delta freeRel
  repeat' first
    | with_reducible assumption
    | (intro x; refine (fun (hx : Kept q k x) => ?_) ?_; clear_value x; rotate_left; subst x; rotate_right)
    | (lift_lets -underBinder; intro x; subst x)
    | (intro x; subst x)
    | with_reducible apply kept_ite
    | with_reducible apply backToPoint_kept
    | with_reducible apply modSnap_kept
    | with_reducible apply snapGone_kept
    | with_reducible refine kept_foldl (fun _ _ _ => ?_) _ ?_
    | split
    | refine kept_mk ?_ rfl rfl rfl rfl rfl rfl rfl rfl rfl

theorem leaveRel_kept (rn) (r) {s : State} {q : List Instr} {k : Nat} (h : Kept q k s) :
    Kept q k (leaveRel rn r s) := by
  delta leaveRel
  repeat' first
    | with_reducible assumption
    | (lift_lets -underBinder; intro x; subst x)
    | with_reducible apply kept_ite
    | with_reducible apply freeRel_kept
    | refine kept_mk ?_ rfl rfl rfl rfl rfl rfl rfl rfl rfl

theorem snapDeleteH_kept (p) {s : State} {q : List Instr} {k : Nat} (h : Kept q k s) :
    Kept q k (snapDeleteH p s).2 := by
  delta snapDeleteH
  repeat' first
    | with_reducible assumption
    | (lift_lets -underBinder; intro x; refine (fun (hx : Kept q k x) => ?_) ?_; clear_value x; rotate_left; subst x; rotate_right)
    | (lift_lets -underBinder; intro x; subst x)
    | (intro x; subst x)
    | intro _
    | with_reducible apply kept_ite2
    | with_reducible apply modSnap_kept
    | with_reducible apply refuse_kept
    | with_reducible apply withJob_kept
    | split
    | refine kept_mk ?_ rfl rfl rfl rfl rfl rfl rfl rfl rfl

theorem deleteVol_kept (vol) (job) {s : State} {q : List Instr} {k : Nat} (h : Kept q k s) :
    Kept q k (deleteVol vol job s) := by
  delta deleteVol
  repeat' first
    | with_reducible assumption
    | (intro x; refine (fun (hx : Kept q k x) => ?_) ?_; clear_value x; rotate_left; subst x; rotate_right)
    | (lift_lets -underBinder; intro x; subst x)
    | with_reducible apply kept_ite
    | with_reducible apply dropLater_kept
    | with_reducible apply snapGone_kept
    | with_reducible refine kept_foldl (fun _ _ _ => ?_) _ ?_
    | refine kept_mk ?_ rfl rfl rfl rfl rfl rfl rfl rfl rfl

theorem replReply_kept (qpn) (tag) (no) (st) (durable) (applied) {s : State} {q : List Instr} {k : Nat} (h : Kept q k s) :
    Kept q k (replReply qpn tag no st durable applied s) := by
  delta replReply
  repeat' first
    | with_reducible assumption
    | with_reducible apply emit_kept

theorem replAnswer_kept (rn) (qpn) (tag) (no) (st) {s : State} {q : List Instr} {k : Nat} (h : Kept q k s) :
    Kept q k (replAnswer rn qpn tag no st s) := by
  delta replAnswer
  repeat' first
    | with_reducible assumption
    | (lift_lets -underBinder; intro x; subst x)
    | with_reducible apply replReply_kept

theorem storeRun_kept (rn) (r) (st) (run) (i) {s : State} {q : List Instr} {k : Nat} (h : Kept q k s) :
    Kept q k (storeRun rn r st run i s) := by
  delta storeRun
  repeat' first
    | with_reducible assumption
    | (intro x; refine (fun (hx : Kept q k x) => ?_) ?_; clear_value x; rotate_left; subst x; rotate_right)
    | (lift_lets -underBinder; intro x; subst x)
    | (intro x; subst x)
    | with_reducible apply kept_ite
    | with_reducible apply setRel_kept
    | with_reducible apply writeRec_kept
    | with_reducible refine kept_foldl (fun _ _ _ => ?_) _ ?_
    | refine kept_mk ?_ rfl rfl rfl rfl rfl rfl rfl rfl rfl

theorem storeStep_kept (rn) {s : State} {q : List Instr} {k : Nat} (h : Kept q k s) :
    Kept q k (storeStep rn s) := by
  delta storeStep
  repeat' first
    | with_reducible assumption
    | (lift_lets -underBinder; intro x; refine (fun (hx : Kept q k x) => ?_) ?_; clear_value x; rotate_left; subst x; rotate_right)
    | (intro x; refine (fun (hx : Kept q k x) => ?_) ?_; clear_value x; rotate_left; subst x; rotate_right)
    | (lift_lets -underBinder; intro x; subst x)
    | with_reducible apply kept_ite
    | with_reducible apply backToPoint_kept
    | with_reducible apply changeArray_kept
    | with_reducible apply replAnswer_kept
    | with_reducible apply setRel_kept
    | with_reducible apply storeRun_kept
    | split

theorem dropsAdvance_kept {s : State} {q : List Instr} {k : Nat} (h : Kept q k s) :
    Kept q k (dropsAdvance s) := by
  delta dropsAdvance
  repeat' first
    | with_reducible assumption
    | (intro x; refine (fun (hx : Kept q k x) => ?_) ?_; clear_value x; rotate_left; subst x; rotate_right)
    | (lift_lets -underBinder; intro x; subst x)
    | (intro x; subst x)
    | with_reducible apply kept_ite
    | with_reducible apply dropMap_kept
    | with_reducible apply finishJob_kept
    | with_reducible refine kept_foldl (fun _ _ _ => ?_) _ ?_
    | split
    | refine kept_mk ?_ rfl rfl rfl rfl rfl rfl rfl rfl rfl

theorem cutSnap_kept (a0) (vol) (n) {s : State} {q : List Instr} {k : Nat} (h : Kept q k s) :
    Kept q k (cutSnap a0 vol n s) := by
  delta cutSnap
  repeat' first
    | with_reducible assumption
    | (intro x; refine (fun (hx : Kept q k x) => ?_) ?_; clear_value x; rotate_left; subst x; rotate_right)
    | (lift_lets -underBinder; intro x; subst x)
    | with_reducible apply applyToCut_kept
    | with_reducible apply copyMap_kept
    | with_reducible apply modSnap_kept

theorem setSnap_kept (vol) (n) (a2) {s : State} {q : List Instr} {k : Nat} (h : Kept q k s) :
    Kept q k (setSnap vol n a2 s) := by
  delta setSnap
  repeat' first
    | with_reducible assumption
    | (lift_lets -underBinder; intro x; subst x)
    | refine kept_mk ?_ rfl rfl rfl rfl rfl rfl rfl rfl rfl

theorem cutBatches_kept (a0) {s : State} {q : List Instr} {k : Nat} (h : Kept q k s) :
    Kept q k (cutBatches a0 s) := by
  delta cutBatches
  repeat' first
    | with_reducible assumption
    | (lift_lets -underBinder; intro x; refine (fun (hx : Kept q k x) => ?_) ?_; clear_value x; rotate_left; subst x; rotate_right)
    | (intro x; refine (fun (hx : Kept q k x) => ?_) ?_; clear_value x; rotate_left; subst x; rotate_right)
    | (intro x; subst x)
    | with_reducible apply kept_ite
    | with_reducible apply cutSnap_kept
    | with_reducible apply openLink_kept
    | with_reducible apply setRel_kept
    | with_reducible apply setSnap_kept
    | with_reducible apply snapGone_kept
    | with_reducible refine kept_foldl (fun _ _ _ => ?_) _ ?_
    | split

theorem cutJobs_kept (a0) {s : State} {q : List Instr} {k : Nat} (h : Kept q k s) :
    Kept q k (cutJobs a0 s) := by
  delta cutJobs
  repeat' first
    | with_reducible assumption
    | (intro x; refine (fun (hx : Kept q k x) => ?_) ?_; clear_value x; rotate_left; subst x; rotate_right)
    | (lift_lets -underBinder; intro x; subst x)
    | (intro x; subst x)
    | with_reducible apply kept_ite
    | with_reducible apply cutSnap_kept
    | with_reducible apply finishJob_kept
    | with_reducible refine kept_foldl (fun _ _ _ => ?_) _ ?_
    | refine kept_mk ?_ rfl rfl rfl rfl rfl rfl rfl rfl rfl

theorem cutPoints_kept (a0) {s : State} {q : List Instr} {k : Nat} (h : Kept q k s) :
    Kept q k (cutPoints a0 s) := by
  delta cutPoints
  repeat' first
    | with_reducible assumption
    | (lift_lets -underBinder; intro x; refine (fun (hx : Kept q k x) => ?_) ?_; clear_value x; rotate_left; subst x; rotate_right)
    | (intro x; refine (fun (hx : Kept q k x) => ?_) ?_; clear_value x; rotate_left; subst x; rotate_right)
    | (lift_lets -underBinder; intro x; subst x)
    | (intro x; subst x)
    | with_reducible apply kept_ite
    | with_reducible apply cutSnap_kept
    | with_reducible apply modSnap_kept
    | with_reducible apply replAnswer_kept
    | with_reducible apply setRel_kept
    | with_reducible apply setSnap_kept
    | with_reducible apply snapGone_kept
    | with_reducible refine kept_foldl (fun _ _ _ => ?_) _ ?_
    | split

theorem deleteJobs_kept {s : State} {q : List Instr} {k : Nat} (h : Kept q k s) :
    Kept q k (deleteJobs s) := by
  delta deleteJobs
  repeat' first
    | with_reducible assumption
    | (intro x; refine (fun (hx : Kept q k x) => ?_) ?_; clear_value x; rotate_left; subst x; rotate_right)
    | (lift_lets -underBinder; intro x; subst x)
    | (intro x; subst x)
    | with_reducible apply snapGone_kept
    | with_reducible refine kept_foldl (fun _ _ _ => ?_) _ ?_
    | refine kept_mk ?_ rfl rfl rfl rfl rfl rfl rfl rfl rfl

theorem releaseAbove_kept (vol) (blocks) (job) {s : State} {q : List Instr} {k : Nat} (h : Kept q k s) :
    Kept q k (releaseAbove vol blocks job s) := by
  delta releaseAbove
  repeat' first
    | with_reducible assumption
    | (intro x; refine (fun (hx : Kept q k x) => ?_) ?_; clear_value x; rotate_left; subst x; rotate_right)
    | (lift_lets -underBinder; intro x; subst x)
    | (intro x; subst x)
    | with_reducible apply kept_ite
    | with_reducible apply applyRelease_kept
    | with_reducible apply copyMap_kept
    | with_reducible apply finishJob_kept
    | refine kept_mk ?_ rfl rfl rfl rfl rfl rfl rfl rfl rfl

theorem resizeVol_kept (vol) (blocks) (clear) (job) {s : State} {q : List Instr} {k : Nat} (h : Kept q k s) :
    Kept q k (resizeVol vol blocks clear job s) := by
  delta resizeVol
  repeat' first
    | with_reducible assumption
    | (lift_lets -underBinder; intro x; refine (fun (hx : Kept q k x) => ?_) ?_; clear_value x; rotate_left; subst x; rotate_right)
    | with_reducible apply kept_ite
    | with_reducible apply changeArray_kept
    | with_reducible apply releaseAbove_kept
    | split

theorem beginMsg_kept (rn) (qpn) (tag) (m) {s : State} {q : List Instr} {k : Nat} (h : Kept q k s) :
    Kept q k (beginMsg rn qpn tag m s) := by
  delta beginMsg
  repeat' first
    | with_reducible assumption
    | (lift_lets -underBinder; intro x; subst x)
    | (intro x; subst x)
    | with_reducible apply kept_ite
    | with_reducible apply replAnswer_kept
    | with_reducible apply setRel_kept

theorem nextHeld_kept (rn) {s : State} {q : List Instr} {k : Nat} (h : Kept q k s) :
    Kept q k (nextHeld rn s) := by
  delta nextHeld
  repeat' first
    | with_reducible assumption
    | (lift_lets -underBinder; intro x; subst x)
    | with_reducible apply kept_ite
    | with_reducible apply beginMsg_kept
    | with_reducible apply setRel_kept
    | split

theorem replArrived_kept {s : State} {q : List Instr} {k : Nat} (h : Kept q k s) :
    Kept q k (replArrived s) := by
  delta replArrived
  repeat' first
    | with_reducible assumption
    | (lift_lets -underBinder; intro x; refine (fun (hx : Kept q k x) => ?_) ?_; clear_value x; rotate_left; subst x; rotate_right)
    | (intro x; refine (fun (hx : Kept q k x) => ?_) ?_; clear_value x; rotate_left; subst x; rotate_right)
    | (lift_lets -underBinder; intro x; subst x)
    | (intro x; subst x)
    | with_reducible apply kept_ite
    | with_reducible apply countDecomp_kept
    | with_reducible apply dropFetch_kept
    | with_reducible apply failSource_kept
    | with_reducible apply markRecovered_kept
    | with_reducible apply nextTodo_kept
    | with_reducible apply putRec_kept
    | with_reducible apply readLayer_kept
    | with_reducible apply setRel_kept
    | with_reducible refine kept_foldl (fun _ _ _ => ?_) _ ?_
    | split

theorem sendMsgs_kept (rn) {s : State} {q : List Instr} {k : Nat} (h : Kept q k s) :
    Kept q k (sendMsgs rn s) := by
  delta sendMsgs
  repeat' first
    | with_reducible assumption
    | (intro x; refine (fun (hx : Kept q k x) => ?_) ?_; clear_value x; rotate_left; subst x; rotate_right)
    | (lift_lets -underBinder; intro x; subst x)
    | (intro x; subst x)
    | with_reducible apply kept_ite
    | with_reducible apply emit_kept
    | with_reducible apply setRel_kept
    | with_reducible refine kept_foldl (fun _ _ _ => ?_) _ ?_

theorem replAdvance_kept {s : State} {q : List Instr} {k : Nat} (h : Kept q k s) :
    Kept q k (replAdvance s) := by
  delta replAdvance
  repeat' first
    | with_reducible assumption
    | (intro x; refine (fun (hx : Kept q k x) => ?_) ?_; clear_value x; rotate_left; subst x; rotate_right)
    | (lift_lets -underBinder; intro x; subst x)
    | (intro x; subst x)
    | with_reducible apply buildStep_kept
    | with_reducible apply nextHeld_kept
    | with_reducible apply replArrived_kept
    | with_reducible apply sendMsgs_kept
    | with_reducible apply storeStep_kept
    | with_reducible refine kept_foldl (fun _ _ _ => ?_) _ ?_

theorem batchApplied__kept (rn) (r) {s : State} {q : List Instr} {k : Nat} (h : Kept q k s) :
    Kept q k (batchApplied_ rn r s) := by
  delta batchApplied_
  repeat' first
    | with_reducible assumption
    | (intro x; refine (fun (hx : Kept q k x) => ?_) ?_; clear_value x; rotate_left; subst x; rotate_right)
    | (lift_lets -underBinder; intro x; subst x)
    | with_reducible apply setRel_kept
    | with_reducible apply snapGone_kept
    | with_reducible refine kept_foldl (fun _ _ _ => ?_) _ ?_

theorem replCompletion_kept (rn) (msgNo) (st) (durable) (applied) (probe) {s : State} {q : List Instr} {k : Nat} (h : Kept q k s) :
    Kept q k (replCompletion rn msgNo st durable applied probe s) := by
  delta replCompletion
  repeat' first
    | with_reducible assumption
    | (intro x; refine (fun (hx : Kept q k x) => ?_) ?_; clear_value x; rotate_left; subst x; rotate_right)
    | (lift_lets -underBinder; intro x; subst x)
    | (intro x; subst x)
    | with_reducible apply kept_ite
    | with_reducible apply batchApplied__kept
    | with_reducible apply openLink_kept
    | with_reducible apply sendMsgs_kept
    | with_reducible apply setRel_kept
    | split

theorem snapListH_kept (p) {s : State} {q : List Instr} {k : Nat} (h : Kept q k s) :
    Kept q k (snapListH p s).2 := by
  delta snapListH
  repeat' first
    | with_reducible assumption
    | (lift_lets -underBinder; intro x; subst x)
    | (intro x; subst x)
    | with_reducible apply kept_ite2
    | with_reducible apply refuse_kept

theorem replMessage_kept (qpn) (tag) (m) {s : State} {q : List Instr} {k : Nat} (h : Kept q k s) :
    Kept q k (replMessage qpn tag m s) := by
  delta replMessage
  repeat' first
    | with_reducible assumption
    | (intro x; refine (fun (hx : Kept q k x) => ?_) ?_; clear_value x; rotate_left; subst x; rotate_right)
    | (lift_lets -underBinder; intro x; subst x)
    | (intro x; subst x)
    | with_reducible apply kept_ite
    | with_reducible apply beginMsg_kept
    | with_reducible apply replAnswer_kept
    | with_reducible apply replReply_kept
    | with_reducible apply setRel_kept
    | split

theorem replStatusH_kept (p) {s : State} {q : List Instr} {k : Nat} (h : Kept q k s) :
    Kept q k (replStatusH p s).2 := by
  delta replStatusH
  repeat' first
    | with_reducible assumption
    | (lift_lets -underBinder; intro x; subst x)
    | with_reducible apply refuse_kept
    | split

theorem snapCreateH_kept (p) {s : State} {q : List Instr} {k : Nat} (h : Kept q k s) :
    Kept q k (snapCreateH p s).2 := by
  delta snapCreateH
  repeat' first
    | with_reducible assumption
    | (intro x; refine (fun (hx : Kept q k x) => ?_) ?_; clear_value x; rotate_left; subst x; rotate_right)
    | (lift_lets -underBinder; intro x; subst x)
    | (intro x; subst x)
    | with_reducible apply kept_ite2
    | with_reducible apply refuse_kept
    | with_reducible apply setSnap_kept
    | exact startJob_kept (by with_reducible assumption) (by with_reducible assumption)
    | with_reducible refine kept_foldl (fun _ _ _ => ?_) _ ?_
    | split
    | refine kept_mk ?_ rfl rfl rfl rfl rfl rfl rfl rfl rfl

theorem replResyncH_kept (p) {s : State} {q : List Instr} {k : Nat} (h : Kept q k s) :
    Kept q k (replResyncH p s).2 := by
  delta replResyncH
  repeat' first
    | with_reducible assumption
    | (lift_lets -underBinder; intro x; subst x)
    | (intro x; subst x)
    | with_reducible apply kept_ite2
    | with_reducible apply refuse_kept
    | with_reducible apply setRel_kept

theorem replProbe_kept (qpn) (tag) (rn) (batch) {s : State} {q : List Instr} {k : Nat} (h : Kept q k s) :
    Kept q k (replProbe qpn tag rn batch s) := by
  delta replProbe
  repeat' first
    | with_reducible assumption
    | (lift_lets -underBinder; intro x; subst x)
    | with_reducible apply kept_ite
    | with_reducible apply replAnswer_kept
    | with_reducible apply replReply_kept
    | split

theorem linkReply_kept (rn) (st) (qpn) {s : State} {q : List Instr} {k : Nat} (h : Kept q k s) :
    Kept q k (linkReply rn st qpn s) := by
  delta linkReply
  repeat' first
    | with_reducible assumption
    | (intro x; refine (fun (hx : Kept q k x) => ?_) ?_; clear_value x; rotate_left; subst x; rotate_right)
    | (lift_lets -underBinder; intro x; subst x)
    | with_reducible apply kept_ite
    | with_reducible apply emit_kept
    | with_reducible apply openLink_kept
    | with_reducible apply sendMsgs_kept
    | with_reducible apply setRel_kept
    | split

theorem replConfigH_kept (p) {s : State} {q : List Instr} {k : Nat} (h : Kept q k s) :
    Kept q k (replConfigH p s).2 := by
  delta replConfigH
  repeat' first
    | with_reducible assumption
    | (lift_lets -underBinder; intro x; subst x)
    | (intro x; subst x)
    | with_reducible apply kept_ite2
    | with_reducible apply changeArray_kept
    | with_reducible apply leaveRel_kept
    | with_reducible apply refuse_kept
    | split

/-! ### Machine/Mirror.lean -/

theorem sendReceipt_kept {s : State} {q : List Instr} {k : Nat} (h : Kept q k s) :
    Kept q k (sendReceipt s) := by
  delta sendReceipt
  repeat' first
    | with_reducible assumption
    | (lift_lets -underBinder; intro x; subst x)
    | with_reducible apply ftbControl_kept

theorem countMsg_kept (id) {s : State} {q : List Instr} {k : Nat} (h : Kept q k s) :
    Kept q k (countMsg id s) := by
  delta countMsg
  repeat' first
    | with_reducible assumption
    | (lift_lets -underBinder; intro x; subst x)
    | split
    | refine kept_mk ?_ rfl rfl rfl rfl rfl rfl rfl rfl rfl

theorem giveReceipt_kept (id) {s : State} {q : List Instr} {k : Nat} (h : Kept q k s) :
    Kept q k (giveReceipt id s) := by
  delta giveReceipt
  repeat' first
    | with_reducible assumption
    | with_reducible apply countMsg_kept
    | with_reducible apply sendReceipt_kept

theorem setOwner_kept (r) (vols) {s : State} {q : List Instr} {k : Nat} (h : Kept q k s) :
    Kept q k (setOwner r vols s) := by
  delta setOwner
  repeat' first
    | with_reducible assumption
    | (lift_lets -underBinder; intro x; subst x)
    | refine kept_mk ?_ rfl rfl rfl rfl rfl rfl rfl rfl rfl

theorem resendRanges_kept (id) (ranges) {s : State} {q : List Instr} {k : Nat} (h : Kept q k s) :
    Kept q k (resendRanges id ranges s) := by
  delta resendRanges
  repeat' first
    | with_reducible assumption
    | (lift_lets -underBinder; intro x; subst x)
    | (intro x; subst x)
    | with_reducible apply kept_ite
    | with_reducible apply dealSegs_kept
    | with_reducible apply emit_kept
    | with_reducible apply monBegin_kept
    | with_reducible apply sendFrames_kept
    | with_reducible refine kept_foldl2 (fun _ _ _ => ?_) _ ?_
    | split
    | refine kept_mk ?_ rfl rfl rfl rfl rfl rfl rfl rfl rfl

theorem peerBlock_kept (e) {s : State} {q : List Instr} {k : Nat} (h : Kept q k s) :
    Kept q k (peerBlock e s) := by
  delta peerBlock
  repeat' first
    | with_reducible assumption
    | (intro x; refine (fun (hx : Kept q k x) => ?_) ?_; clear_value x; rotate_left; subst x; rotate_right)
    | (lift_lets -underBinder; intro x; subst x)
    | (intro x; subst x)
    | with_reducible apply setBlk_kept
    | split
    | refine kept_mk ?_ rfl rfl rfl rfl rfl rfl rfl rfl rfl

theorem markReceipted_kept (offs) {s : State} {q : List Instr} {k : Nat} (h : Kept q k s) :
    Kept q k (markReceipted offs s) := by
  delta markReceipted
  repeat' first
    | with_reducible assumption
    | with_reducible apply modOwn_kept

theorem takeReceipt_kept (cum) (ranges) {s : State} {q : List Instr} {k : Nat} (h : Kept q k s) :
    Kept q k (takeReceipt cum ranges s) := by
  delta takeReceipt
  repeat' first
    | with_reducible assumption
    | (intro x; refine (fun (hx : Kept q k x) => ?_) ?_; clear_value x; rotate_left; subst x; rotate_right)
    | (lift_lets -underBinder; intro x; subst x)
    | (intro x; subst x)
    | with_reducible apply kept_ite
    | with_reducible apply markReceipted_kept
    | with_reducible apply monEnd_kept
    | with_reducible refine kept_foldl (fun _ _ _ => ?_) _ ?_
    | refine kept_mk ?_ rfl rfl rfl rfl rfl rfl rfl rfl rfl

theorem peerPage_kept (l) {s : State} {q : List Instr} {k : Nat} (h : Kept q k s) :
    Kept q k (peerPage l s) := by
  delta peerPage
  repeat' first
    | with_reducible assumption
    | (lift_lets -underBinder; intro x; subst x)
    | split
    | refine kept_mk ?_ rfl rfl rfl rfl rfl rfl rfl rfl rfl

theorem peerMove_kept (m) {s : State} {q : List Instr} {k : Nat} (h : Kept q k s) :
    Kept q k (peerMove m s) := by
  delta peerMove
  repeat' first
    | with_reducible assumption
    | with_reducible apply moveChunk_kept
    | with_reducible apply peerPage_kept

theorem applyMirror_kept (asn) (unit) {s : State} {q : List Instr} {k : Nat} (h : Kept q k s) :
    Kept q k (applyMirror asn unit s) := by
  delta applyMirror
  repeat' first
    | with_reducible assumption
    | (intro x; refine (fun (hx : Kept q k x) => ?_) ?_; clear_value x; rotate_left; subst x; rotate_right)
    | (lift_lets -underBinder; intro x; subst x)
    | (intro x; subst x)
    | with_reducible apply kept_ite
    | with_reducible apply applyRec_kept
    | with_reducible apply peerMove_kept
    | with_reducible refine kept_foldl (fun _ _ _ => ?_) _ ?_
    | split
    | refine kept_mk ?_ rfl rfl rfl rfl rfl rfl rfl rfl rfl

theorem applyBefore_kept (serial) {s : State} {q : List Instr} {k : Nat} (h : Kept q k s) :
    Kept q k (applyBefore serial s) := by
  delta applyBefore
  repeat' first
    | with_reducible assumption
    | (lift_lets -underBinder; intro x; subst x)
    | (intro x; subst x)
    | with_reducible apply kept_ite
    | with_reducible apply applyMirror_kept
    | with_reducible refine kept_foldl (fun _ _ _ => ?_) _ ?_
    | split

theorem mirrorEffect_kept (r) {s : State} {q : List Instr} {k : Nat} (h : Kept q k s) :
    Kept q k (mirrorEffect r s) := by
  delta mirrorEffect
  repeat' first
    | with_reducible assumption
    | (intro x; refine (fun (hx : Kept q k x) => ?_) ?_; clear_value x; rotate_left; subst x; rotate_right)
    | (lift_lets -underBinder; intro x; subst x)
    | (intro x; subst x)
    | with_reducible apply kept_ite
    | with_reducible apply applyBefore_kept
    | with_reducible apply applyMirror_kept
    | with_reducible apply peerBlock_kept
    | with_reducible apply peerMove_kept
    | with_reducible apply setOwner_kept
    | with_reducible refine kept_foldl (fun _ _ _ => ?_) _ ?_
    | split
    | refine kept_mk ?_ rfl rfl rfl rfl rfl rfl rfl rfl rfl

theorem writeMirror_kept (recs) {s : State} {q : List Instr} {k : Nat} (h : Kept q k s) :
    Kept q k (writeMirror recs s) := by
  delta writeMirror
  repeat' first
    | with_reducible assumption
    | (lift_lets -underBinder; intro x; subst x)
    | (intro x; subst x)
    | with_reducible apply kept_ite
    | with_reducible apply mirrorEffect_kept
    | with_reducible refine kept_foldl (fun _ _ _ => ?_) _ ?_
    | refine kept_mk ?_ rfl rfl rfl rfl rfl rfl rfl rfl rfl

theorem ftbSnak_kept (port) (cls) (first) (last) (msgId) {s : State} {q : List Instr} {k : Nat} (h : Kept q k s) :
    Kept q k (ftbSnak port cls first last msgId s) := by
  delta ftbSnak
  repeat' first
    | with_reducible assumption
    | with_reducible apply resendRanges_kept
    | with_reducible refine kept_foldl (fun _ _ _ => ?_) _ ?_
    | split

theorem ftbResend_kept (id) {s : State} {q : List Instr} {k : Nat} (h : Kept q k s) :
    Kept q k (ftbResend id s) := by
  delta ftbResend
  repeat' first
    | with_reducible assumption
    | with_reducible apply resendRanges_kept
    | split

theorem ftbGap_kept (msgId) {s : State} {q : List Instr} {k : Nat} (h : Kept q k s) :
    Kept q k (ftbGap msgId s) := by
  delta ftbGap
  repeat' first
    | with_reducible assumption
    | with_reducible apply ftbControl_kept
    | split

theorem mirrorRequests_kept (recs) {s : State} {q : List Instr} {k : Nat} (h : Kept q k s) :
    Kept q k (mirrorRequests recs s) := by
  delta mirrorRequests
  repeat' first
    | with_reducible assumption
    | with_reducible apply cnsStores_kept
    | with_reducible refine kept_foldl (fun _ _ _ => ?_) _ ?_

theorem takeMirror_kept (id) (recs) {s : State} {q : List Instr} {k : Nat} (h : Kept q k s) :
    Kept q k (takeMirror id recs s) := by
  delta takeMirror
  repeat' first
    | with_reducible assumption
    | with_reducible apply kept_ite
    | with_reducible apply giveReceipt_kept
    | with_reducible apply mirrorRequests_kept
    | with_reducible apply sendReceipt_kept
    | with_reducible apply writeMirror_kept

theorem ftbSegment_kept (port) (cls) (portSeq) (msgId) (type) (off) (len) (total) (ok) {s : State} {q : List Instr} {k : Nat} (h : Kept q k s) :
    Kept q k (ftbSegment port cls portSeq msgId type off len total ok s) := by
  delta ftbSegment
  repeat' first
    | with_reducible assumption
    | (intro x; refine (fun (hx : Kept q k x) => ?_) ?_; clear_value x; rotate_left; subst x; rotate_right)
    | (lift_lets -underBinder; intro x; subst x)
    | (intro x; subst x)
    | with_reducible apply kept_ite
    | with_reducible apply countMsg_kept
    | with_reducible apply ftbControl_kept
    | with_reducible apply giveReceipt_kept
    | with_reducible apply sendReceipt_kept
    | with_reducible apply setFport_kept
    | refine kept_mk ?_ rfl rfl rfl rfl rfl rfl rfl rfl rfl

end Sys2Proof.Machine
end

