-- ==== Sys2Proof/Laws/KeptPair.lean ====
section
/-!
SUPPORT. Laws/KeptPair.lean: that the pair, DRAM and the Conservatory carry the queue, the invariant of the head
and the rollback count from state to state (Kept), one lemma for each operation.
-/
namespace Sys2Proof.Machine

/-! ### Machine/Pair.lean -/

theorem sendHello_kept {s : State} {q : List Instr} {k : Nat} (h : Kept q k s) :
    Kept q k (sendHello s) := by
  delta sendHello
  repeat' first
    | with_reducible assumption
    | with_reducible apply kept_ite
    | with_reducible apply ftbControl_kept

theorem startFailback_kept {s : State} {q : List Instr} {k : Nat} (h : Kept q k s) :
    Kept q k (startFailback s) := by
  delta startFailback
  repeat' first
    | with_reducible assumption
    | (intro x; refine (fun (hx : Kept q k x) => ?_) ?_; clear_value x; rotate_left; subst x; rotate_right)
    | (lift_lets -underBinder; intro x; subst x)
    | with_reducible apply ftbSend_kept
    | with_reducible refine kept_foldl (fun _ _ _ => ?_) _ ?_
    | split
    | refine kept_snd (by with_reducible assumption) ?_
    | refine kept_mk ?_ rfl rfl rfl rfl rfl rfl rfl rfl rfl

theorem acceptRejoin_kept (auto) {s : State} {q : List Instr} {k : Nat} (h : Kept q k s) :
    Kept q k (acceptRejoin auto s) := by
  delta acceptRejoin
  repeat' first
    | with_reducible assumption
    | (intro x; refine (fun (hx : Kept q k x) => ?_) ?_; clear_value x; rotate_left; subst x; rotate_right)
    | (lift_lets -underBinder; intro x; subst x)
    | with_reducible apply kept_ite
    | with_reducible apply startFailback_kept
    | refine kept_mk ?_ rfl rfl rfl rfl rfl rfl rfl rfl rfl

theorem createArray_kept (m) (gib) (ms) {s : State} {q : List Instr} {k : Nat} (h : Kept q k s) :
    Kept q k (createArray m gib ms s) := by
  delta createArray
  repeat' first
    | with_reducible assumption
    | (intro x; refine (fun (hx : Kept q k x) => ?_) ?_; clear_value x; rotate_left; subst x; rotate_right)
    | (lift_lets -underBinder; intro x; subst x)
    | (intro x; subst x)
    | with_reducible apply changeArray_kept
    | with_reducible apply draw_kept
    | refine kept_mk ?_ rfl rfl rfl rfl rfl rfl rfl rfl rfl

theorem recordSerial_kept (r) (serial) {s : State} {q : List Instr} {k : Nat} (h : Kept q k s) :
    Kept q k (recordSerial r serial s) := by
  delta recordSerial
  repeat' first
    | with_reducible assumption
    | with_reducible apply changeArray_kept

theorem setSizes_kept (gib) (ms) {s : State} {q : List Instr} {k : Nat} (h : Kept q k s) :
    Kept q k (setSizes gib ms s) := by
  delta setSizes
  repeat' first
    | with_reducible assumption
    | (lift_lets -underBinder; intro x; subst x)
    | (intro x; subst x)
    | with_reducible apply kept_ite
    | refine kept_mk ?_ rfl rfl rfl rfl rfl rfl rfl rfl rfl

theorem startJoin_kept (a0) {s : State} {q : List Instr} {k : Nat} (h : Kept q k s) :
    Kept q k (startJoin a0 s) := by
  delta startJoin
  repeat' first
    | with_reducible assumption
    | (lift_lets -underBinder; intro x; subst x)
    | with_reducible apply kept_ite
    | refine kept_mk ?_ rfl rfl rfl rfl rfl rfl rfl rfl rfl

theorem tryJoin_kept {s : State} {q : List Instr} {k : Nat} (h : Kept q k s) :
    Kept q k (tryJoin s) := by
  delta tryJoin
  repeat' first
    | with_reducible assumption
    | (intro x; refine (fun (hx : Kept q k x) => ?_) ?_; clear_value x; rotate_left; subst x; rotate_right)
    | (lift_lets -underBinder; intro x; subst x)
    | (intro x; subst x)
    | with_reducible apply kept_ite
    | with_reducible apply acceptRejoin_kept
    | with_reducible apply changeArray_kept
    | with_reducible apply createArray_kept
    | with_reducible apply finishJob_kept
    | with_reducible apply recordSerial_kept
    | with_reducible apply sendHello_kept
    | with_reducible apply setSizes_kept
    | with_reducible apply startJoin_kept
    | split
    | refine kept_mk ?_ rfl rfl rfl rfl rfl rfl rfl rfl rfl

theorem assertGood_kept {s : State} {q : List Instr} {k : Nat} (h : Kept q k s) :
    Kept q k (assertGood s) := by
  delta assertGood
  repeat' first
    | with_reducible assumption
    | (lift_lets -underBinder; intro x; subst x)
    | with_reducible apply kept_ite
    | with_reducible apply adoptRecords_kept
    | with_reducible apply powerGroup_kept
    | with_reducible apply setShelf_kept
    | with_reducible refine kept_foldl (fun _ _ _ => ?_) _ ?_

theorem pinEdge_kept {s : State} {q : List Instr} {k : Nat} (h : Kept q k s) :
    Kept q k (pinEdge s) := by
  delta pinEdge
  repeat' first
    | with_reducible assumption
    | (lift_lets -underBinder; intro x; subst x)
    | (intro x; subst x)
    | refine kept_mk ?_ rfl rfl rfl rfl rfl rfl rfl rfl rfl

theorem sendHeartbeats_kept {s : State} {q : List Instr} {k : Nat} (h : Kept q k s) :
    Kept q k (sendHeartbeats s) := by
  delta sendHeartbeats
  repeat' first
    | with_reducible assumption
    | (lift_lets -underBinder; intro x; subst x)
    | (intro x; subst x)
    | with_reducible apply kept_ite
    | with_reducible apply ftbOnPort_kept
    | with_reducible refine kept_foldl (fun _ _ _ => ?_) _ ?_
    | refine kept_mk ?_ rfl rfl rfl rfl rfl rfl rfl rfl rfl

theorem dropWork_kept {s : State} {q : List Instr} {k : Nat} (h : Kept q k s) :
    Kept q k (dropWork s) := by
  delta dropWork
  repeat' first
    | with_reducible assumption
    | (lift_lets -underBinder; intro x; refine (fun (hx : Kept q k x) => ?_) ?_; clear_value x; rotate_left; subst x; rotate_right)
    | (intro x; refine (fun (hx : Kept q k x) => ?_) ?_; clear_value x; rotate_left; subst x; rotate_right)
    | (intro x; subst x)
    | with_reducible apply kept_ite
    | with_reducible apply applyUnit_kept
    | with_reducible apply freeIfDead_kept
    | with_reducible refine kept_foldl (fun _ _ _ => ?_) _ ?_
    | refine kept_mk ?_ rfl rfl rfl rfl rfl rfl rfl rfl rfl

theorem dropPort_kept (n) {s : State} {q : List Instr} {k : Nat} (h : Kept q k s) :
    Kept q k (dropPort n s) := by
  delta dropPort
  repeat' first
    | with_reducible assumption
    | (intro x; refine (fun (hx : Kept q k x) => ?_) ?_; clear_value x; rotate_left; subst x; rotate_right)
    | (lift_lets -underBinder; intro x; subst x)
    | (intro x; subst x)
    | with_reducible apply kept_ite
    | with_reducible apply record_kept
    | with_reducible apply setFport_kept
    | refine kept_mk ?_ rfl rfl rfl rfl rfl rfl rfl rfl rfl

theorem hbKick_kept {s : State} {q : List Instr} {k : Nat} (h : Kept q k s) :
    Kept q k (hbKick s) := by
  delta hbKick
  repeat' first
    | with_reducible assumption
    | (lift_lets -underBinder; intro x; subst x)
    | refine kept_mk ?_ rfl rfl rfl rfl rfl rfl rfl rfl rfl

theorem dropHandover_kept {s : State} {q : List Instr} {k : Nat} (h : Kept q k s) :
    Kept q k (dropHandover s) := by
  delta dropHandover
  repeat' first
    | with_reducible assumption
    | (lift_lets -underBinder; intro x; refine (fun (hx : Kept q k x) => ?_) ?_; clear_value x; rotate_left; subst x; rotate_right)
    | (intro x; refine (fun (hx : Kept q k x) => ?_) ?_; clear_value x; rotate_left; subst x; rotate_right)
    | (lift_lets -underBinder; intro x; subst x)
    | (intro x; subst x)
    | with_reducible apply finishJob_kept
    | split
    | refine kept_mk ?_ rfl rfl rfl rfl rfl rfl rfl rfl rfl

theorem lockPorts_kept (aux) {s : State} {q : List Instr} {k : Nat} (h : Kept q k s) :
    Kept q k (lockPorts aux s) := by
  delta lockPorts
  repeat' first
    | with_reducible assumption
    | with_reducible apply kept_ite
    | with_reducible apply sendSled_kept
    | with_reducible refine kept_foldl (fun _ _ _ => ?_) _ ?_

theorem stopMirror_kept {s : State} {q : List Instr} {k : Nat} (h : Kept q k s) :
    Kept q k (stopMirror s) := by
  delta stopMirror
  repeat' first
    | with_reducible assumption
    | (lift_lets -underBinder; intro x; subst x)
    | (intro x; subst x)
    | refine kept_mk ?_ rfl rfl rfl rfl rfl rfl rfl rfl rfl

theorem fencePeer_kept {s : State} {q : List Instr} {k : Nat} (h : Kept q k s) :
    Kept q k (fencePeer s) := by
  delta fencePeer
  repeat' first
    | with_reducible assumption
    | (intro x; refine (fun (hx : Kept q k x) => ?_) ?_; clear_value x; rotate_left; subst x; rotate_right)
    | (lift_lets -underBinder; intro x; subst x)
    | (intro x; subst x)
    | with_reducible apply kept_ite
    | with_reducible apply assertGood_kept
    | with_reducible apply dropHandover_kept
    | with_reducible apply epochTimer_kept
    | with_reducible apply lockPorts_kept
    | with_reducible apply note_kept
    | with_reducible apply stopMirror_kept
    | refine kept_mk ?_ rfl rfl rfl rfl rfl rfl rfl rfl rfl

theorem receiptFor_kept (type) {s : State} {q : List Instr} {k : Nat} (h : Kept q k s) :
    Kept q k (receiptFor type s) := by
  delta receiptFor
  repeat' first
    | with_reducible assumption
    | with_reducible apply giveReceipt_kept
    | with_reducible apply sendReceipt_kept
    | split

theorem passTo_kept (r) (vols) {s : State} {q : List Instr} {k : Nat} (h : Kept q k s) :
    Kept q k (passTo r vols s) := by
  delta passTo
  repeat' first
    | with_reducible assumption
    | with_reducible apply setOwner_kept
    | with_reducible apply writeLoose_kept

theorem sendHandover_kept (m) {s : State} {q : List Instr} {k : Nat} (h : Kept q k s) :
    Kept q k (sendHandover m s).2 := by
  delta sendHandover
  repeat' first
    | with_reducible assumption
    | with_reducible apply ftbSend_kept

theorem startHandover_kept (vols) (fence) (opcode) (job) {s : State} {q : List Instr} {k : Nat} (h : Kept q k s) :
    Kept q k (startHandover vols fence opcode job s) := by
  delta startHandover
  repeat' first
    | with_reducible assumption
    | (lift_lets -underBinder; intro x; subst x)
    | with_reducible apply epochTimer_kept
    | with_reducible apply sendHandover_kept
    | refine kept_mk ?_ rfl rfl rfl rfl rfl rfl rfl rfl rfl

theorem volumesGone_kept (vols) {s : State} {q : List Instr} {k : Nat} (h : Kept q k s) :
    Kept q k (volumesGone vols s) := by
  delta volumesGone
  repeat' first
    | with_reducible assumption
    | (lift_lets -underBinder; intro x; refine (fun (hx : Kept q k x) => ?_) ?_; clear_value x; rotate_left; subst x; rotate_right)
    | (intro x; refine (fun (hx : Kept q k x) => ?_) ?_; clear_value x; rotate_left; subst x; rotate_right)
    | (lift_lets -underBinder; intro x; subst x)
    | (intro x; subst x)
    | with_reducible apply kept_ite
    | with_reducible apply decide__kept
    | with_reducible apply finishJob_kept
    | with_reducible apply note_kept
    | with_reducible apply passTo_kept
    | with_reducible apply sendHandover_kept
    | with_reducible apply startHandover_kept
    | with_reducible refine kept_foldl (fun _ _ _ => ?_) _ ?_
    | split
    | refine kept_snd (by with_reducible assumption) ?_
    | refine kept_mk ?_ rfl rfl rfl rfl rfl rfl rfl rfl rfl

theorem handoverIn_kept (m) {s : State} {q : List Instr} {k : Nat} (h : Kept q k s) :
    Kept q k (handoverIn m s) := by
  delta handoverIn
  repeat' first
    | with_reducible assumption
    | (lift_lets -underBinder; intro x; refine (fun (hx : Kept q k x) => ?_) ?_; clear_value x; rotate_left; subst x; rotate_right)
    | (lift_lets -underBinder; intro x; subst x)
    | with_reducible apply kept_ite
    | with_reducible apply fencePeer_kept
    | with_reducible apply receiptFor_kept
    | with_reducible apply volumesGone_kept
    | split
    | refine kept_mk ?_ rfl rfl rfl rfl rfl rfl rfl rfl rfl

theorem dropRegions_kept {s : State} {q : List Instr} {k : Nat} (h : Kept q k s) :
    Kept q k (dropRegions s) := by
  delta dropRegions
  repeat' first
    | with_reducible assumption
    | (lift_lets -underBinder; intro x; subst x)
    | refine kept_mk ?_ rfl rfl rfl rfl rfl rfl rfl rfl rfl

theorem acceptReturn_kept (m) {s : State} {q : List Instr} {k : Nat} (h : Kept q k s) :
    Kept q k (acceptReturn m s) := by
  delta acceptReturn
  repeat' first
    | with_reducible assumption
    | (lift_lets -underBinder; intro x; refine (fun (hx : Kept q k x) => ?_) ?_; clear_value x; rotate_left; subst x; rotate_right)
    | (intro x; subst x)
    | with_reducible apply dropRegions_kept
    | with_reducible apply dropWork_kept
    | with_reducible apply reloadFilter_kept
    | split
    | refine kept_mk ?_ rfl rfl rfl rfl rfl rfl rfl rfl rfl

theorem lossAction_kept (both) {s : State} {q : List Instr} {k : Nat} (h : Kept q k s) :
    Kept q k (lossAction both s) := by
  delta lossAction
  repeat' first
    | with_reducible assumption
    | (lift_lets -underBinder; intro x; subst x)
    | with_reducible apply kept_ite
    | with_reducible apply fencePeer_kept
    | split
    | refine kept_mk ?_ rfl rfl rfl rfl rfl rfl rfl rfl rfl

theorem abortFailback_kept {s : State} {q : List Instr} {k : Nat} (h : Kept q k s) :
    Kept q k (abortFailback s) := by
  delta abortFailback
  repeat' first
    | with_reducible assumption
    | (lift_lets -underBinder; intro x; refine (fun (hx : Kept q k x) => ?_) ?_; clear_value x; rotate_left; subst x; rotate_right)
    | (intro x; refine (fun (hx : Kept q k x) => ?_) ?_; clear_value x; rotate_left; subst x; rotate_right)
    | (intro x; subst x)
    | with_reducible apply kept_ite
    | with_reducible apply finishJob_kept
    | with_reducible apply note_kept
    | with_reducible apply stopMirror_kept
    | split
    | refine kept_mk ?_ rfl rfl rfl rfl rfl rfl rfl rfl rfl

theorem pathAction_kept {s : State} {q : List Instr} {k : Nat} (h : Kept q k s) :
    Kept q k (pathAction s) := by
  delta pathAction
  repeat' first
    | with_reducible assumption
    | (lift_lets -underBinder; intro x; subst x)
    | with_reducible apply kept_ite
    | with_reducible apply lossAction_kept
    | with_reducible apply note_kept
    | refine kept_mk ?_ rfl rfl rfl rfl rfl rfl rfl rfl rfl

theorem portDown_kept (n) {s : State} {q : List Instr} {k : Nat} (h : Kept q k s) :
    Kept q k (portDown n s) := by
  delta portDown
  repeat' first
    | with_reducible assumption
    | (lift_lets -underBinder; intro x; refine (fun (hx : Kept q k x) => ?_) ?_; clear_value x; rotate_left; subst x; rotate_right)
    | (intro x; refine (fun (hx : Kept q k x) => ?_) ?_; clear_value x; rotate_left; subst x; rotate_right)
    | with_reducible apply kept_ite
    | with_reducible apply abortFailback_kept
    | with_reducible apply dropPort_kept
    | with_reducible apply pathAction_kept
    | with_reducible apply resendRanges_kept
    | with_reducible refine kept_foldl (fun _ _ _ => ?_) _ ?_

theorem pcsChange_kept (n) (aligned) {s : State} {q : List Instr} {k : Nat} (h : Kept q k s) :
    Kept q k (pcsChange n aligned s) := by
  delta pcsChange
  repeat' first
    | with_reducible assumption
    | (intro x; refine (fun (hx : Kept q k x) => ?_) ?_; clear_value x; rotate_left; subst x; rotate_right)
    | (lift_lets -underBinder; intro x; subst x)
    | (intro x; subst x)
    | with_reducible apply kept_ite
    | with_reducible apply lossAction_kept
    | with_reducible apply portDown_kept
    | with_reducible apply setFport_kept

theorem roleBDelay_kept {s : State} {q : List Instr} {k : Nat} (h : Kept q k s) :
    Kept q k (roleBDelay s) := by
  delta roleBDelay
  repeat' first
    | with_reducible assumption
    | (lift_lets -underBinder; intro x; subst x)
    | with_reducible apply kept_ite
    | with_reducible apply fencePeer_kept
    | refine kept_mk ?_ rfl rfl rfl rfl rfl rfl rfl rfl rfl

theorem pinSilent_kept {s : State} {q : List Instr} {k : Nat} (h : Kept q k s) :
    Kept q k (pinSilent s) := by
  delta pinSilent
  repeat' first
    | with_reducible assumption
    | (intro x; refine (fun (hx : Kept q k x) => ?_) ?_; clear_value x; rotate_left; subst x; rotate_right)
    | (lift_lets -underBinder; intro x; subst x)
    | (intro x; subst x)
    | with_reducible apply kept_ite
    | with_reducible apply note_kept
    | with_reducible apply pathAction_kept
    | refine kept_mk ?_ rfl rfl rfl rfl rfl rfl rfl rfl rfl

theorem closePeerSets_kept {s : State} {q : List Instr} {k : Nat} (h : Kept q k s) :
    Kept q k (closePeerSets s) := by
  delta closePeerSets
  repeat' first
    | with_reducible assumption
    | (intro x; refine (fun (hx : Kept q k x) => ?_) ?_; clear_value x; rotate_left; subst x; rotate_right)
    | (lift_lets -underBinder; intro x; subst x)
    | (intro x; subst x)
    | with_reducible apply startVerify_kept
    | with_reducible refine kept_foldl (fun _ _ _ => ?_) _ ?_
    | refine kept_mk ?_ rfl rfl rfl rfl rfl rfl rfl rfl rfl

theorem restoreHolds_kept {s : State} {q : List Instr} {k : Nat} (h : Kept q k s) :
    Kept q k (restoreHolds s) := by
  delta restoreHolds
  repeat' first
    | with_reducible assumption
    | with_reducible apply kept_ite
    | with_reducible apply wantWake_kept
    | with_reducible refine kept_foldl (fun _ _ _ => ?_) _ ?_

theorem takeHolds_kept {s : State} {q : List Instr} {k : Nat} (h : Kept q k s) :
    Kept q k (takeHolds s) := by
  delta takeHolds
  repeat' first
    | with_reducible assumption
    | (lift_lets -underBinder; intro x; subst x)
    | with_reducible apply kept_ite
    | with_reducible apply draw_kept
    | with_reducible refine kept_foldl (fun _ _ _ => ?_) _ ?_
    | refine kept_mk ?_ rfl rfl rfl rfl rfl rfl rfl rfl rfl

theorem mapLoaded_kept {s : State} {q : List Instr} {k : Nat} (h : Kept q k s) :
    Kept q k (mapLoaded s) := by
  delta mapLoaded
  repeat' first
    | with_reducible assumption
    | (lift_lets -underBinder; intro x; refine (fun (hx : Kept q k x) => ?_) ?_; clear_value x; rotate_left; subst x; rotate_right)
    | (intro x; refine (fun (hx : Kept q k x) => ?_) ?_; clear_value x; rotate_left; subst x; rotate_right)
    | (intro x; subst x)
    | with_reducible apply kept_ite
    | with_reducible apply admitAll_kept
    | with_reducible apply closePeerSets_kept
    | with_reducible apply note_kept
    | with_reducible apply restoreHolds_kept
    | with_reducible apply takeHolds_kept
    | refine kept_mk ?_ rfl rfl rfl rfl rfl rfl rfl rfl rfl

theorem stopPrograms_kept {s : State} {q : List Instr} {k : Nat} (h : Kept q k s) :
    Kept q k (stopPrograms s) := by
  delta stopPrograms
  repeat' first
    | with_reducible assumption
    | (lift_lets -underBinder; intro x; subst x)
    | refine kept_mk ?_ rfl rfl rfl rfl rfl rfl rfl rfl rfl

theorem fenceFall_kept {s : State} {q : List Instr} {k : Nat} (h : Kept q k s) :
    Kept q k (fenceFall s).2 := by
  delta fenceFall
  repeat' first
    | with_reducible assumption
    | (intro x; refine (fun (hx : Kept q k x) => ?_) ?_; clear_value x; rotate_left; subst x; rotate_right)
    | (lift_lets -underBinder; intro x; subst x)
    | (intro x; subst x)
    | with_reducible apply kept_ite
    | with_reducible apply kept_ite2
    | with_reducible apply dropWork_kept
    | with_reducible apply note_kept
    | with_reducible apply releaseShelf_kept
    | with_reducible apply stopMirror_kept
    | with_reducible apply stopPrograms_kept
    | with_reducible refine kept_foldl (fun _ _ _ => ?_) _ ?_
    | refine kept_mk ?_ rfl rfl rfl rfl rfl rfl rfl rfl rfl

theorem handoverDrained_kept {s : State} {q : List Instr} {k : Nat} (h : Kept q k s) :
    Kept q k (handoverDrained s) := by
  delta handoverDrained
  repeat' first
    | with_reducible assumption
    | (lift_lets -underBinder; intro x; refine (fun (hx : Kept q k x) => ?_) ?_; clear_value x; rotate_left; subst x; rotate_right)
    | (lift_lets -underBinder; intro x; subst x)
    | with_reducible apply kept_ite
    | with_reducible apply sendHandover_kept
    | split
    | refine kept_snd (by with_reducible assumption) ?_
    | refine kept_mk ?_ rfl rfl rfl rfl rfl rfl rfl rfl rfl

theorem resyncComplete_kept {s : State} {q : List Instr} {k : Nat} (h : Kept q k s) :
    Kept q k (resyncComplete s) := by
  delta resyncComplete
  repeat' first
    | with_reducible assumption
    | (intro x; refine (fun (hx : Kept q k x) => ?_) ?_; clear_value x; rotate_left; subst x; rotate_right)
    | (lift_lets -underBinder; intro x; subst x)
    | (intro x; subst x)
    | with_reducible apply kept_ite
    | with_reducible apply closeBand_kept
    | with_reducible refine kept_foldl (fun _ _ _ => ?_) _ ?_
    | refine kept_mk ?_ rfl rfl rfl rfl rfl rfl rfl rfl rfl

theorem becomeWhole_kept {s : State} {q : List Instr} {k : Nat} (h : Kept q k s) :
    Kept q k (becomeWhole s) := by
  delta becomeWhole
  repeat' first
    | with_reducible assumption
    | (lift_lets -underBinder; intro x; subst x)
    | (intro x; subst x)
    | refine kept_mk ?_ rfl rfl rfl rfl rfl rfl rfl rfl rfl

theorem returnCheck_kept (m) {s : State} {q : List Instr} {k : Nat} (h : Kept q k s) :
    Kept q k (returnCheck m s) := by
  delta returnCheck
  repeat' first
    | with_reducible assumption
    | with_reducible apply kept_ite
    | with_reducible apply becomeWhole_kept
    | with_reducible apply note_kept

theorem handOffFenced_kept {s : State} {q : List Instr} {k : Nat} (h : Kept q k s) :
    Kept q k (handOffFenced s) := by
  delta handOffFenced
  repeat' first
    | with_reducible assumption
    | (lift_lets -underBinder; intro x; subst x)
    | with_reducible apply kept_ite
    | with_reducible apply startHandover_kept
    | refine kept_mk ?_ rfl rfl rfl rfl rfl rfl rfl rfl rfl

theorem fenceRelease_kept {s : State} {q : List Instr} {k : Nat} (h : Kept q k s) :
    Kept q k (fenceRelease s) := by
  delta fenceRelease
  repeat' first
    | with_reducible assumption
    | (lift_lets -underBinder; intro x; refine (fun (hx : Kept q k x) => ?_) ?_; clear_value x; rotate_left; subst x; rotate_right)
    | (intro x; refine (fun (hx : Kept q k x) => ?_) ?_; clear_value x; rotate_left; subst x; rotate_right)
    | (intro x; subst x)
    | with_reducible apply kept_ite
    | with_reducible apply finishJob_kept
    | with_reducible apply lockPorts_kept
    | with_reducible apply note_kept
    | with_reducible apply record_kept
    | with_reducible apply startHandover_kept
    | with_reducible refine kept_foldl (fun _ _ _ => ?_) _ ?_
    | split
    | refine kept_mk ?_ rfl rfl rfl rfl rfl rfl rfl rfl rfl

theorem takeVolumes_kept {s : State} {q : List Instr} {k : Nat} (h : Kept q k s) :
    Kept q k (takeVolumes s) := by
  delta takeVolumes
  repeat' first
    | with_reducible assumption
    | (lift_lets -underBinder; intro x; subst x)
    | with_reducible apply kept_ite
    | with_reducible apply admitAll_kept
    | with_reducible apply note_kept
    | with_reducible apply passTo_kept
    | split
    | refine kept_mk ?_ rfl rfl rfl rfl rfl rfl rfl rfl rfl

theorem receiptIn_kept (cum) (ranges) {s : State} {q : List Instr} {k : Nat} (h : Kept q k s) :
    Kept q k (receiptIn cum ranges s) := by
  delta receiptIn
  repeat' first
    | with_reducible assumption
    | with_reducible apply kept_ite
    | with_reducible apply takeReceipt_kept
    | with_reducible apply takeVolumes_kept

theorem reconcileMirror_kept {s : State} {q : List Instr} {k : Nat} (h : Kept q k s) :
    Kept q k (reconcileMirror s) := by
  delta reconcileMirror
  repeat' first
    | with_reducible assumption
    | (intro x; refine (fun (hx : Kept q k x) => ?_) ?_; clear_value x; rotate_left; subst x; rotate_right)
    | (lift_lets -underBinder; intro x; subst x)
    | (intro x; subst x)
    | with_reducible apply applyMirror_kept
    | with_reducible refine kept_foldl (fun _ _ _ => ?_) _ ?_
    | split
    | refine kept_mk ?_ rfl rfl rfl rfl rfl rfl rfl rfl rfl

theorem partialSilence_kept {s : State} {q : List Instr} {k : Nat} (h : Kept q k s) :
    Kept q k (partialSilence s) := by
  delta partialSilence
  repeat' first
    | with_reducible assumption
    | with_reducible apply kept_ite
    | with_reducible apply lossAction_kept

theorem windowExpiry_kept {s : State} {q : List Instr} {k : Nat} (h : Kept q k s) :
    Kept q k (windowExpiry s) := by
  delta windowExpiry
  repeat' first
    | with_reducible assumption
    | (lift_lets -underBinder; intro x; subst x)
    | (intro x; subst x)
    | with_reducible apply kept_ite
    | with_reducible apply fencePeer_kept
    | with_reducible apply note_kept
    | refine kept_mk ?_ rfl rfl rfl rfl rfl rfl rfl rfl rfl

theorem fenceRise_kept {s : State} {q : List Instr} {k : Nat} (h : Kept q k s) :
    Kept q k (fenceRise s) := by
  delta fenceRise
  repeat' first
    | with_reducible assumption
    | (intro x; refine (fun (hx : Kept q k x) => ?_) ?_; clear_value x; rotate_left; subst x; rotate_right)
    | (lift_lets -underBinder; intro x; subst x)
    | with_reducible apply kept_ite
    | with_reducible apply note_kept
    | refine kept_mk ?_ rfl rfl rfl rfl rfl rfl rfl rfl rfl

theorem hbToggle_kept {s : State} {q : List Instr} {k : Nat} (h : Kept q k s) :
    Kept q k (hbToggle s) := by
  delta hbToggle
  repeat' first
    | with_reducible assumption
    | (lift_lets -underBinder; intro x; subst x)
    | with_reducible apply kept_ite
    | refine kept_mk ?_ rfl rfl rfl rfl rfl rfl rfl rfl rfl

theorem takeoverForceH_kept {ends : State → State} (p) {s : State} {q : List Instr} {k : Nat} (hends : ∀ y0, Kept q k y0 → Kept q k (ends y0)) (h : Kept q k s) :
    Kept q k (takeoverForceH ends p s).2 := by
  delta takeoverForceH
  repeat' first
    | with_reducible assumption
    | (lift_lets -underBinder; intro x; subst x)
    | intro _
    | with_reducible apply kept_ite2
    | with_reducible apply hends
    | with_reducible apply fencePeer_kept
    | with_reducible apply refuse_kept
    | with_reducible apply startHandover_kept
    | with_reducible apply withJob_kept

theorem pairJoinH_kept (p) {s : State} {q : List Instr} {k : Nat} (h : Kept q k s) :
    Kept q k (pairJoinH p s).2 := by
  delta pairJoinH
  repeat' first
    | with_reducible assumption
    | (intro x; refine (fun (hx : Kept q k x) => ?_) ?_; clear_value x; rotate_left; subst x; rotate_right)
    | (lift_lets -underBinder; intro x; subst x)
    | intro _
    | with_reducible apply kept_ite2
    | with_reducible apply refuse_kept
    | with_reducible apply sendHello_kept
    | with_reducible apply tryJoin_kept
    | with_reducible apply withJob_kept
    | refine kept_mk ?_ rfl rfl rfl rfl rfl rfl rfl rfl rfl

theorem failbackH_kept (a0) {s : State} {q : List Instr} {k : Nat} (h : Kept q k s) :
    Kept q k (failbackH a0 s).2 := by
  delta failbackH
  repeat' first
    | with_reducible assumption
    | (lift_lets -underBinder; intro x; subst x)
    | intro _
    | with_reducible apply kept_ite2
    | with_reducible apply refuse_kept
    | with_reducible apply startFailback_kept
    | with_reducible apply withJob_kept
    | refine kept_mk ?_ rfl rfl rfl rfl rfl rfl rfl rfl rfl

theorem pairStatusH_kept (a0) {s : State} {q : List Instr} {k : Nat} (h : Kept q k s) :
    Kept q k (pairStatusH a0 s).2 := by
  delta pairStatusH
  repeat' first
    | with_reducible assumption

theorem msgSilent_kept {s : State} {q : List Instr} {k : Nat} (h : Kept q k s) :
    Kept q k (msgSilent s) := by
  delta msgSilent
  repeat' first
    | with_reducible assumption
    | (lift_lets -underBinder; intro x; refine (fun (hx : Kept q k x) => ?_) ?_; clear_value x; rotate_left; subst x; rotate_right)
    | (intro x; subst x)
    | with_reducible apply portDown_kept
    | with_reducible refine kept_foldl (fun _ _ _ => ?_) _ ?_
    | refine kept_mk ?_ rfl rfl rfl rfl rfl rfl rfl rfl rfl

theorem migrationWindowH_kept (p) {s : State} {q : List Instr} {k : Nat} (h : Kept q k s) :
    Kept q k (migrationWindowH p s).2 := by
  delta migrationWindowH
  repeat' first
    | with_reducible assumption
    | (lift_lets -underBinder; intro x; subst x)
    | (intro x; subst x)
    | with_reducible apply kept_ite2
    | with_reducible apply note_kept
    | with_reducible apply refuse_kept
    | refine kept_mk ?_ rfl rfl rfl rfl rfl rfl rfl rfl rfl

theorem joinTimeout_kept {s : State} {q : List Instr} {k : Nat} (h : Kept q k s) :
    Kept q k (joinTimeout s) := by
  delta joinTimeout
  repeat' first
    | with_reducible assumption
    | (lift_lets -underBinder; intro x; subst x)
    | with_reducible apply kept_ite
    | with_reducible apply finishJob_kept
    | split
    | refine kept_mk ?_ rfl rfl rfl rfl rfl rfl rfl rfl rfl

theorem sledWaitEnd_kept {s : State} {q : List Instr} {k : Nat} (h : Kept q k s) :
    Kept q k (sledWaitEnd s) := by
  delta sledWaitEnd
  repeat' first
    | with_reducible assumption
    | (intro x; refine (fun (hx : Kept q k x) => ?_) ?_; clear_value x; rotate_left; subst x; rotate_right)
    | (lift_lets -underBinder; intro x; subst x)
    | (intro x; subst x)
    | with_reducible apply kept_ite
    | with_reducible apply reconcileMirror_kept
    | refine kept_mk ?_ rfl rfl rfl rfl rfl rfl rfl rfl rfl

theorem resyncIn_kept (id) (recs) {s : State} {q : List Instr} {k : Nat} (h : Kept q k s) :
    Kept q k (resyncIn id recs s) := by
  delta resyncIn
  repeat' first
    | with_reducible assumption
    | (lift_lets -underBinder; intro x; subst x)
    | (intro x; subst x)
    | with_reducible apply kept_ite
    | with_reducible apply giveReceipt_kept
    | with_reducible apply mirrorRequests_kept
    | with_reducible apply sendReceipt_kept
    | with_reducible apply writeMirror_kept
    | refine kept_mk ?_ rfl rfl rfl rfl rfl rfl rfl rfl rfl

/-! ### Machine/DramCtl.lean -/

theorem dramQosSetH_kept (p) {s : State} {q : List Instr} {k : Nat} (h : Kept q k s) :
    Kept q k (dramQosSetH p s).2 := by
  delta dramQosSetH
  repeat' first
    | with_reducible assumption
    | (lift_lets -underBinder; intro x; subst x)
    | (intro x; subst x)
    | with_reducible apply kept_ite2
    | with_reducible apply refuse_kept
    | split
    | refine kept_mk ?_ rfl rfl rfl rfl rfl rfl rfl rfl rfl

theorem pauseRank_kept (n) (r) {s : State} {q : List Instr} {k : Nat} (h : Kept q k s) :
    Kept q k (pauseRank n r s) := by
  delta pauseRank
  repeat' first
    | with_reducible assumption
    | with_reducible apply draw_kept
    | with_reducible apply emit_kept
    | with_reducible apply setDmc_kept

theorem payRefresh_kept (n) (r) {s : State} {q : List Instr} {k : Nat} (h : Kept q k s) :
    Kept q k (payRefresh n r s) := by
  delta payRefresh
  repeat' first
    | with_reducible assumption
    | (lift_lets -underBinder; intro x; subst x)
    | (intro x; subst x)
    | with_reducible apply kept_ite
    | with_reducible apply emit_kept
    | with_reducible apply setDmc_kept

theorem trainChannel_kept (n) {s : State} {q : List Instr} {k : Nat} (h : Kept q k s) :
    Kept q k (trainChannel n s) := by
  delta trainChannel
  repeat' first
    | with_reducible assumption
    | (lift_lets -underBinder; intro x; subst x)
    | (intro x; subst x)
    | with_reducible apply draw_kept
    | with_reducible apply setDmc_kept

theorem dramTrainH_kept (p) {q : List Instr} {k : Nat} {s : State} (h : Kept q k s) :
    Kept q k (dramTrainH p s).2 := by
  delta dramTrainH
  dsimp only
  generalize (if fieldLE p 0 1 = 255 then List.range 24 else [fieldLE p 0 1]) = chans
  refine kept_ite2 (refuse_kept _ h) (kept_ite2 ?_ (kept_ite2 (refuse_kept _ h) (withJob_kept _ _ _ h fun j t ht => ?_)))
  · exact kept_foldl (fun s n h => kept_foldl (fun s r h => kept_ite (pauseRank_kept _ _ (payRefresh_kept _ _ h)) h) _ h) _ h
  · exact finishJob_kept _ _ _ (kept_foldl (fun s n h => trainChannel_kept _ h) _ (kept_sec ht ht.2.1.keyRegs rfl rfl))

theorem trnStart_kept (n) (op) {s : State} {q : List Instr} {k : Nat} (h : Kept q k s) :
    Kept q k (trnStart n op s) := by
  delta trnStart
  repeat' first
    | with_reducible assumption
    | (lift_lets -underBinder; intro x; subst x)
    | with_reducible apply kept_ite
    | with_reducible apply setDmc_kept

theorem bankHashWrite_kept (n) (a1) (m) {s : State} {q : List Instr} {k : Nat} (h : Kept q k s) :
    Kept q k (bankHashWrite n a1 m s) := by
  delta bankHashWrite
  repeat' first
    | with_reducible assumption
    | (lift_lets -underBinder; intro x; subst x)
    | with_reducible apply kept_ite
    | with_reducible apply record_kept
    | with_reducible apply setDmc_kept

theorem geomLock_kept (n) {s : State} {q : List Instr} {k : Nat} (h : Kept q k s) :
    Kept q k (geomLock n s) := by
  delta geomLock
  repeat' first
    | with_reducible assumption
    | (lift_lets -underBinder; intro x; subst x)
    | with_reducible apply setDmc_kept

theorem masks_set {α : Type} {P : Nat → α → Bool} {l : List α} {n : Nat} {d : α} (h : l.length = n ∧ ∀ j < n, P j (l.getD j d) = true)
    {i : Nat} {m : α} (hm : P i m = true) : (l.set i m).length = n ∧ ∀ j < n, P j ((l.set i m).getD j d) = true := by
  refine ⟨(List.length_set ..).trans h.1, fun j hj => ?_⟩
  by_cases hij : i = j
  · subst hij
    rw [List.getD_eq_getElem?_getD, List.getElem?_set_self (h.1 ▸ hj)]
    exact hm
  · rw [List.getD_eq_getElem?_getD, List.getElem?_set_ne hij, ← List.getD_eq_getElem?_getD]
    exact h.2 j hj

theorem chanHashWrite_kept (i m) {q : List Instr} {k : Nat} {s : State} (h : Kept q k s) :
    Kept q k (chanHashWrite i m s) := by
  delta chanHashWrite
  split
  · exact h
  · split
    · exact ⟨h.1, ⟨masks_set h.2.1.chanMasks (by assumption), h.2.1.sliceMasks, h.2.1.keyRegs, h.2.1.fuses, h.2.1.cycles,
        h.2.1.ring, h.2.1.lodge, h.2.1.msix, h.2.1.mailboxes⟩, h.2.2⟩
    · exact record_kept _ _ _ _ _ h

theorem writeDelay_kept (n) (v) {s : State} {q : List Instr} {k : Nat} (h : Kept q k s) :
    Kept q k (writeDelay n v s) := by
  delta writeDelay
  repeat' first
    | with_reducible assumption
    | (lift_lets -underBinder; intro x; subst x)
    | (intro x; subst x)
    | with_reducible apply setDmc_kept

theorem adjustAllowance_kept (above) {s : State} {q : List Instr} {k : Nat} (h : Kept q k s) :
    Kept q k (adjustAllowance above s) := by
  delta adjustAllowance
  repeat' first
    | with_reducible assumption
    | (lift_lets -underBinder; intro x; subst x)
    | (intro x; subst x)
    | split
    | refine kept_mk ?_ rfl rfl rfl rfl rfl rfl rfl rfl rfl

theorem dramStatusH_kept (p) {s : State} {q : List Instr} {k : Nat} (h : Kept q k s) :
    Kept q k (dramStatusH p s).2 := by
  delta dramStatusH
  repeat' first
    | with_reducible assumption
    | (lift_lets -underBinder; intro x; subst x)
    | (intro x; subst x)
    | with_reducible apply kept_ite2
    | with_reducible apply refuse_kept

theorem trimPages_kept {s : State} {q : List Instr} {k : Nat} (h : Kept q k s) :
    Kept q k (trimPages s) := by
  delta trimPages
  repeat' first
    | with_reducible assumption
    | (lift_lets -underBinder; intro x; subst x)
    | (intro x; subst x)
    | with_reducible apply kept_ite
    | refine kept_mk ?_ rfl rfl rfl rfl rfl rfl rfl rfl rfl

theorem withdrawRank_kept (n) (r) {s : State} {q : List Instr} {k : Nat} (h : Kept q k s) :
    Kept q k (withdrawRank n r s) := by
  delta withdrawRank
  repeat' first
    | with_reducible assumption
    | (intro x; refine (fun (hx : Kept q k x) => ?_) ?_; clear_value x; rotate_left; subst x; rotate_right)
    | (lift_lets -underBinder; intro x; subst x)
    | (intro x; subst x)
    | with_reducible apply kept_ite
    | with_reducible apply handOffFenced_kept
    | with_reducible apply record_kept
    | with_reducible apply setDmc_kept
    | refine kept_mk ?_ rfl rfl rfl rfl rfl rfl rfl rfl rfl

theorem rankOut_kept (n) (r) {s : State} {q : List Instr} {k : Nat} (h : Kept q k s) :
    Kept q k (rankOut n r s) := by
  delta rankOut
  repeat' first
    | with_reducible assumption
    | (intro x; refine (fun (hx : Kept q k x) => ?_) ?_; clear_value x; rotate_left; subst x; rotate_right)
    | (lift_lets -underBinder; intro x; subst x)
    | (intro x; subst x)
    | with_reducible apply kept_ite
    | with_reducible apply finishJobs_kept
    | with_reducible apply record_kept
    | with_reducible apply setDmc_kept
    | with_reducible apply withdrawRank_kept

theorem rankRetireH_kept (p) {s : State} {q : List Instr} {k : Nat} (h : Kept q k s) :
    Kept q k (rankRetireH p s).2 := by
  delta rankRetireH
  repeat' first
    | with_reducible assumption
    | (lift_lets -underBinder; intro x; refine (fun (hx : Kept q k x) => ?_) ?_; clear_value x; rotate_left; subst x; rotate_right)
    | (lift_lets -underBinder; intro x; subst x)
    | (intro x; subst x)
    | intro _
    | with_reducible apply kept_ite
    | with_reducible apply kept_ite2
    | with_reducible apply finishJob_kept
    | with_reducible apply rankOut_kept
    | with_reducible apply refuse_kept
    | with_reducible apply withJob_kept

theorem retrainPause_kept (n) (r) {s : State} {q : List Instr} {k : Nat} (h : Kept q k s) :
    Kept q k (retrainPause n r s) := by
  delta retrainPause
  repeat' first
    | with_reducible assumption
    | (lift_lets -underBinder; intro x; subst x)
    | with_reducible apply kept_ite
    | with_reducible apply pauseRank_kept

theorem lineLost_kept (subj) (pa) (rs) {s : State} {q : List Instr} {k : Nat} (h : Kept q k s) :
    Kept q k (lineLost subj pa rs s) := by
  delta lineLost
  repeat' first
    | with_reducible assumption
    | (intro x; refine (fun (hx : Kept q k x) => ?_) ?_; clear_value x; rotate_left; subst x; rotate_right)
    | (lift_lets -underBinder; intro x; subst x)
    | (intro x; subst x)
    | with_reducible apply markVols_kept
    | with_reducible apply record_kept
    | split

theorem restoreLine_kept (subj) (n) (ca) {s : State} {q : List Instr} {k : Nat} (h : Kept q k s) :
    Kept q k (restoreLine subj n ca s) := by
  delta restoreLine
  repeat' first
    | with_reducible assumption
    | (intro x; refine (fun (hx : Kept q k x) => ?_) ?_; clear_value x; rotate_left; subst x; rotate_right)
    | (lift_lets -underBinder; intro x; subst x)
    | (intro x; subst x)
    | with_reducible apply kept_ite
    | with_reducible apply askReloads_kept
    | with_reducible apply lineLost_kept
    | with_reducible apply modOwn_kept
    | with_reducible apply setDmc_kept
    | split
    | refine kept_mk ?_ rfl rfl rfl rfl rfl rfl rfl rfl rfl

theorem refreshDue_kept (n) (r) (waiting) {s : State} {q : List Instr} {k : Nat} (h : Kept q k s) :
    Kept q k (refreshDue n r waiting s) := by
  delta refreshDue
  repeat' first
    | with_reducible assumption
    | (lift_lets -underBinder; intro x; subst x)
    | (intro x; subst x)
    | with_reducible apply kept_ite
    | with_reducible apply emit_kept
    | with_reducible apply setDmc_kept

theorem rcdAlert_kept (n) (r) (again) (repeatOk) {s : State} {q : List Instr} {k : Nat} (h : Kept q k s) :
    Kept q k (rcdAlert n r again repeatOk s) := by
  delta rcdAlert
  repeat' first
    | with_reducible assumption
    | (intro x; refine (fun (hx : Kept q k x) => ?_) ?_; clear_value x; rotate_left; subst x; rotate_right)
    | (lift_lets -underBinder; intro x; subst x)
    | with_reducible apply kept_ite
    | with_reducible apply emit_kept
    | with_reducible apply rankOut_kept
    | with_reducible apply record_kept
    | with_reducible apply setDmc_kept

theorem useWindow_kept (bytes) {s : State} {q : List Instr} {k : Nat} (h : Kept q k s) :
    Kept q k (useWindow bytes s) := by
  delta useWindow
  repeat' first
    | with_reducible assumption
    | (lift_lets -underBinder; intro x; subst x)
    | (intro x; subst x)
    | with_reducible apply adjustAllowance_kept
    | split
    | refine kept_mk ?_ rfl rfl rfl rfl rfl rfl rfl rfl rfl

theorem becomeHot_kept (n) (r) (failed) {s : State} {q : List Instr} {k : Nat} (h : Kept q k s) :
    Kept q k (becomeHot n r failed s) := by
  delta becomeHot
  repeat' first
    | with_reducible assumption
    | (intro x; refine (fun (hx : Kept q k x) => ?_) ?_; clear_value x; rotate_left; subst x; rotate_right)
    | (lift_lets -underBinder; intro x; subst x)
    | (intro x; subst x)
    | with_reducible apply kept_ite
    | with_reducible apply emit_kept
    | with_reducible apply setDmc_kept

theorem thermalRead_kept (n) (slot) (reading) (tenths) {s : State} {q : List Instr} {k : Nat} (h : Kept q k s) :
    Kept q k (thermalRead n slot reading tenths s) := by
  delta thermalRead
  repeat' first
    | with_reducible assumption
    | (lift_lets -underBinder; intro x; refine (fun (hx : Kept q k x) => ?_) ?_; clear_value x; rotate_left; subst x; rotate_right)
    | (lift_lets -underBinder; intro x; subst x)
    | (intro x; subst x)
    | with_reducible apply kept_ite
    | with_reducible apply becomeHot_kept
    | with_reducible apply record_kept
    | with_reducible apply setDmc_kept
    | with_reducible refine kept_foldl (fun _ _ _ => ?_) _ ?_
    | split

theorem patrolScrub_kept (n) {s : State} {q : List Instr} {k : Nat} (h : Kept q k s) :
    Kept q k (patrolScrub n s) := by
  delta patrolScrub
  repeat' first
    | with_reducible assumption
    | (lift_lets -underBinder; intro x; subst x)
    | with_reducible apply kept_ite
    | with_reducible apply setDmc_kept

theorem trnDone_kept (n) (dq) (cb) {s : State} {q : List Instr} {k : Nat} (h : Kept q k s) :
    Kept q k (trnDone n dq cb s) := by
  delta trnDone
  repeat' first
    | with_reducible assumption
    | (lift_lets -underBinder; intro x; subst x)
    | with_reducible apply kept_ite
    | with_reducible apply setDmc_kept

theorem migrationDone_kept (n) {s : State} {q : List Instr} {k : Nat} (h : Kept q k s) :
    Kept q k (migrationDone n s) := by
  delta migrationDone
  repeat' first
    | with_reducible assumption
    | (intro x; refine (fun (hx : Kept q k x) => ?_) ?_; clear_value x; rotate_left; subst x; rotate_right)
    | (lift_lets -underBinder; intro x; subst x)
    | (intro x; subst x)
    | with_reducible apply kept_ite
    | with_reducible apply finishJobs_kept
    | with_reducible apply record_kept
    | with_reducible apply setDmc_kept
    | with_reducible apply withdrawRank_kept
    | with_reducible refine kept_foldl (fun _ _ _ => ?_) _ ?_

theorem readError_kept (n) (r) (ca) (corrected) {s : State} {q : List Instr} {k : Nat} (h : Kept q k s) :
    Kept q k (readError n r ca corrected s) := by
  delta readError
  repeat' first
    | with_reducible assumption
    | (lift_lets -underBinder; intro x; refine (fun (hx : Kept q k x) => ?_) ?_; clear_value x; rotate_left; subst x; rotate_right)
    | (intro x; refine (fun (hx : Kept q k x) => ?_) ?_; clear_value x; rotate_left; subst x; rotate_right)
    | (lift_lets -underBinder; intro x; subst x)
    | with_reducible apply kept_ite
    | with_reducible apply errorOn_kept
    | with_reducible apply rankOut_kept
    | with_reducible apply restoreLine_kept
    | with_reducible apply setDmc_kept

/-! ### Machine/Cache.lean -/

theorem lockCut_kept (i) {s : State} {q : List Instr} {k : Nat} (h : Kept q k s) :
    Kept q k (lockCut i s) := by
  delta lockCut
  repeat' first
    | with_reducible assumption
    | (lift_lets -underBinder; intro x; subst x)
    | with_reducible apply kept_ite
    | with_reducible apply answerLate_kept
    | refine onCns_kept ?_ rfl
    | split

theorem lockEnable_kept (i) (en) {s : State} {q : List Instr} {k : Nat} (h : Kept q k s) :
    Kept q k (lockEnable i en s) := by
  delta lockEnable
  repeat' first
    | with_reducible assumption
    | refine onCns_kept ?_ rfl

theorem maintStart_kept (inv) {s : State} {q : List Instr} {k : Nat} (h : Kept q k s) :
    Kept q k (maintStart inv s) := by
  delta maintStart
  repeat' first
    | with_reducible assumption
    | (lift_lets -underBinder; intro x; subst x)
    | with_reducible apply kept_ite
    | refine onCns_kept ?_ rfl

theorem sliceHashWrite_kept (j m) {q : List Instr} {k : Nat} {s : State} (h : Kept q k s) :
    Kept q k (sliceHashWrite j m s) := by
  delta sliceHashWrite
  split
  · exact h
  · split
    · exact ⟨h.1, ⟨h.2.1.chanMasks, masks_set h.2.1.sliceMasks (by assumption), h.2.1.keyRegs, h.2.1.fuses, h.2.1.cycles,
        h.2.1.ring, h.2.1.lodge, h.2.1.msix, h.2.1.mailboxes⟩, h.2.2⟩
    · exact record_kept _ _ _ _ _ h

/-- The Conservatory and the DRAM of a state that keeps the rules of both maps. -/
theorem kept_memory {q q' : List Instr} {k k' : Nat} {s t : State} (h : Kept q k s) (ht : Kept q' k' t) :
    Kept q k { s with cns := t.cns, dram := t.dram } :=
  ⟨h.1, ⟨ht.2.1.chanMasks, ht.2.1.sliceMasks, h.2.1.keyRegs, h.2.1.fuses, h.2.1.cycles, h.2.1.ring, h.2.1.lodge,
    h.2.1.msix, h.2.1.mailboxes⟩, h.2.2⟩

theorem writeBack_kept (lines) {q : List Instr} {k : Nat} {s : State} (h : Kept q k s) : Kept q k (writeBack lines s) := by
  delta writeBack
  have ht := kept_foldl (fun s l h => lineTraffic_kept l h) lines h
  exact ⟨h.1, ⟨ht.2.1.chanMasks, h.2.1.sliceMasks, h.2.1.keyRegs, h.2.1.fuses, h.2.1.cycles, h.2.1.ring, h.2.1.lodge,
    h.2.1.msix, h.2.1.mailboxes⟩, h.2.2⟩

theorem clearWay_kept (w) {s : State} {q : List Instr} {k : Nat} (h : Kept q k s) :
    Kept q k (clearWay w s) := by
  delta clearWay
  repeat' first
    | with_reducible assumption
    | refine onCns_kept ?_ rfl
    | with_reducible apply writeBack_kept

theorem wayPowerH_kept (n) (p) {s : State} {q : List Instr} {k : Nat} (h : Kept q k s) :
    Kept q k (wayPowerH n p s).2 := by
  delta wayPowerH
  repeat' first
    | with_reducible assumption
    | (intro x; refine (fun (hx : Kept q k x) => ?_) ?_; clear_value x; rotate_left; subst x; rotate_right)
    | (lift_lets -underBinder; intro x; subst x)
    | with_reducible apply kept_ite2
    | with_reducible apply force_kept
    | refine onCns_kept ?_ rfl
    | with_reducible apply refuse_kept

theorem trackerBreak_kept (t) {s : State} {q : List Instr} {k : Nat} (h : Kept q k s) :
    Kept q k (trackerBreak t s) := by
  delta trackerBreak
  repeat' first
    | with_reducible assumption
    | refine onCns_kept ?_ rfl

theorem wayDown_kept (w) {s : State} {q : List Instr} {k : Nat} (h : Kept q k s) :
    Kept q k (wayDown w s) := by
  delta wayDown
  repeat' first
    | with_reducible assumption
    | (lift_lets -underBinder; intro x; subst x)
    | with_reducible apply kept_ite
    | refine onCns_kept ?_ rfl

theorem parityError_kept (line) {s : State} {q : List Instr} {k : Nat} (h : Kept q k s) :
    Kept q k (parityError line s) := by
  delta parityError
  repeat' first
    | with_reducible assumption
    | (intro x; refine (fun (hx : Kept q k x) => ?_) ?_; clear_value x; rotate_left; subst x; rotate_right)
    | (lift_lets -underBinder; intro x; subst x)
    | with_reducible apply kept_ite
    | with_reducible apply askReloads_kept
    | with_reducible apply errorOn_kept
    | refine onCns_kept ?_ rfl
    | split

theorem wayUp_kept (w) {s : State} {q : List Instr} {k : Nat} (h : Kept q k s) :
    Kept q k (wayUp w s) := by
  delta wayUp
  repeat' first
    | with_reducible assumption
    | refine onCns_kept ?_ rfl

theorem loadLine_kept (i) (line) {s : State} {q : List Instr} {k : Nat} (h : Kept q k s) :
    Kept q k (loadLine i line s) := by
  delta loadLine
  repeat' first
    | with_reducible assumption
    | (intro x; refine (fun (hx : Kept q k x) => ?_) ?_; clear_value x; rotate_left; subst x; rotate_right)
    | (lift_lets -underBinder; intro x; subst x)
    | (intro x; subst x)
    | with_reducible apply kept_ite
    | with_reducible apply lineTraffic_kept
    | refine onCns_kept ?_ rfl

theorem loadLocked_kept (i) {q : List Instr} {k : Nat} {s : State} (h : Kept q k s) : Kept q k (loadLocked i s) := by
  delta loadLocked
  exact kept_memory h (kept_foldl (fun s l h => loadLine_kept _ _ h) _ h)

theorem wayDownComplete_kept (w) {s : State} {q : List Instr} {k : Nat} (h : Kept q k s) :
    Kept q k (wayDownComplete w s) := by
  delta wayDownComplete
  repeat' first
    | with_reducible assumption
    | (lift_lets -underBinder; intro x; refine (fun (hx : Kept q k x) => ?_) ?_; clear_value x; rotate_left; subst x; rotate_right)
    | with_reducible apply kept_ite
    | with_reducible apply answerLate_kept
    | with_reducible apply clearWay_kept
    | refine onCns_kept ?_ rfl
    | split

theorem lockLoadComplete_kept (i) {s : State} {q : List Instr} {k : Nat} (h : Kept q k s) :
    Kept q k (lockLoadComplete i s) := by
  delta lockLoadComplete
  repeat' first
    | with_reducible assumption
    | (intro x; refine (fun (hx : Kept q k x) => ?_) ?_; clear_value x; rotate_left; subst x; rotate_right)
    | (lift_lets -underBinder; intro x; subst x)
    | with_reducible apply kept_ite
    | with_reducible apply answerLate_kept
    | with_reducible apply loadLocked_kept
    | refine onCns_kept ?_ rfl
    | split

theorem wayLockH_kept (n) (p) {s : State} {q : List Instr} {k : Nat} (h : Kept q k s) :
    Kept q k (wayLockH n p s).2 := by
  delta wayLockH
  repeat' first
    | with_reducible assumption
    | (intro x; refine (fun (hx : Kept q k x) => ?_) ?_; clear_value x; rotate_left; subst x; rotate_right)
    | (lift_lets -underBinder; intro x; subst x)
    | (intro x; subst x)
    | with_reducible apply kept_ite2
    | with_reducible apply clearWay_kept
    | with_reducible apply dropClaim_kept
    | with_reducible apply lockCut_kept
    | with_reducible apply lockEnable_kept
    | refine onCns_kept ?_ rfl
    | with_reducible apply refuse_kept
    | with_reducible apply setClaim_kept

theorem ageingTick_kept {s : State} {q : List Instr} {k : Nat} (h : Kept q k s) :
    Kept q k (ageingTick s) := by
  delta ageingTick
  repeat' first
    | with_reducible assumption
    | with_reducible apply kept_ite
    | refine onCns_kept ?_ rfl

theorem cacheStatusH_kept (a0) {s : State} {q : List Instr} {k : Nat} (h : Kept q k s) :
    Kept q k (cacheStatusH a0 s).2 := by
  delta cacheStatusH
  repeat' first
    | with_reducible assumption

theorem tagParityError_kept (line) (both) {s : State} {q : List Instr} {k : Nat} (h : Kept q k s) :
    Kept q k (tagParityError line both s) := by
  delta tagParityError
  repeat' first
    | with_reducible assumption
    | (intro x; refine (fun (hx : Kept q k x) => ?_) ?_; clear_value x; rotate_left; subst x; rotate_right)
    | (lift_lets -underBinder; intro x; subst x)
    | (intro x; subst x)
    | with_reducible apply kept_ite
    | with_reducible apply askReloads_kept
    | with_reducible apply errorOn_kept
    | refine onCns_kept ?_ rfl
    | split

theorem cacheMaintDone_kept {s : State} {q : List Instr} {k : Nat} (h : Kept q k s) :
    Kept q k (cacheMaintDone s) := by
  delta cacheMaintDone
  repeat' first
    | with_reducible assumption
    | (lift_lets -underBinder; intro x; refine (fun (hx : Kept q k x) => ?_) ?_; clear_value x; rotate_left; subst x; rotate_right)
    | (intro x; refine (fun (hx : Kept q k x) => ?_) ?_; clear_value x; rotate_left; subst x; rotate_right)
    | with_reducible apply answerLate_kept
    | refine onCns_kept ?_ rfl
    | with_reducible apply writeBack_kept
    | split

theorem cacheMaintH_kept (n) (p) {s : State} {q : List Instr} {k : Nat} (h : Kept q k s) :
    Kept q k (cacheMaintH n p s).2 := by
  delta cacheMaintH
  repeat' first
    | with_reducible assumption
    | (lift_lets -underBinder; intro x; subst x)
    | (intro x; subst x)
    | with_reducible apply kept_ite2
    | refine onCns_kept ?_ rfl
    | with_reducible apply refuse_kept

end Sys2Proof.Machine
end

