-- ==== Sys2Proof/Laws/KeptHost.lean ====
section
/-!
SUPPORT. Laws/KeptHost.lean: that the host transport, keys and volumes carry the queue, the invariant of the head
and the rollback count from state to state (Kept), one lemma for each operation.
-/
namespace Sys2Proof.Machine

/-! ### Machine/Host.lean -/

theorem sendRnr_kept (n) (psn) {s : State} {q : List Instr} {k : Nat} (h : Kept q k s) :
    Kept q k (sendRnr n psn s) := by
  delta sendRnr
  repeat' first
    | with_reducible assumption
    | (intro x; refine (fun (hx : Kept q k x) => ?_) ?_; clear_value x; rotate_left; subst x; rotate_right)
    | (lift_lets -underBinder; intro x; subst x)
    | (intro x; subst x)
    | with_reducible apply kept_ite
    | with_reducible apply emitAeth_kept
    | with_reducible apply setQp_kept
    | refine kept_mk ?_ rfl rfl rfl rfl rfl rfl rfl rfl rfl

theorem faultTimeout_kept (n) {s : State} {q : List Instr} {k : Nat} (h : Kept q k s) :
    Kept q k (faultTimeout n s) := by
  delta faultTimeout
  repeat' first
    | with_reducible assumption
    | (lift_lets -underBinder; intro x; subst x)
    | (intro x; subst x)
    | with_reducible apply monEnd_kept
    | with_reducible apply sendRnr_kept
    | with_reducible apply setQp_kept
    | split

theorem stagingFaultTimeout_kept (n) {s : State} {q : List Instr} {k : Nat} (h : Kept q k s) :
    Kept q k (stagingFaultTimeout n s) := by
  delta stagingFaultTimeout
  repeat' first
    | with_reducible assumption
    | with_reducible apply kept_ite
    | with_reducible apply faultTimeout_kept

theorem closeTag_kept (n) (tag) (g) {s : State} {q : List Instr} {k : Nat} (h : Kept q k s) :
    Kept q k (closeTag n tag g s) := by
  delta closeTag
  repeat' first
    | with_reducible assumption
    | with_reducible apply kept_ite
    | with_reducible apply checkMessage_kept
    | with_reducible apply endEarly_kept
    | with_reducible apply setTag_kept
    | split
    | refine kept_snd (by with_reducible assumption) ?_

theorem unsentRead_kept (queueId) (csn) {s : State} {q : List Instr} {k : Nat} (h : Kept q k s) :
    Kept q k (unsentRead queueId csn s) := by
  delta unsentRead
  repeat' first
    | with_reducible assumption
    | (lift_lets -underBinder; intro x; subst x)
    | with_reducible apply kept_ite
    | with_reducible apply enterReplay_kept
    | with_reducible apply writeLoose_kept
    | split

theorem closeQp_kept (n) {s : State} {q : List Instr} {k : Nat} (h : Kept q k s) :
    Kept q k (closeQp n s) := by
  delta closeQp
  repeat' first
    | with_reducible assumption
    | (intro x; refine (fun (hx : Kept q k x) => ?_) ?_; clear_value x; rotate_left; subst x; rotate_right)
    | (lift_lets -underBinder; intro x; subst x)
    | (intro x; subst x)
    | with_reducible apply kept_ite
    | with_reducible apply closeTag_kept
    | with_reducible apply endEarly_kept
    | with_reducible apply linkLost_kept
    | with_reducible apply recordOutcome_kept
    | with_reducible apply setCmd_kept
    | with_reducible apply setQp_kept
    | with_reducible apply unsentRead_kept
    | with_reducible refine kept_foldl (fun _ _ _ => ?_) _ ?_
    | split
    | refine kept_mk ?_ rfl rfl rfl rfl rfl rfl rfl rfl rfl

theorem serveRound_kept (a0) {a1 : State} {q : List Instr} {k : Nat} (h : Kept q k a1) :
    Kept q k (serveRound a0 a1) := by
  induction a0 generalizing a1 with
  | zero =>
    unfold serveRound
    repeat' first
      | with_reducible assumption
  | succ m ih =>
    unfold serveRound
    repeat' first
      | with_reducible assumption
      | (lift_lets -underBinder; intro x; refine (fun (hx : Kept q k x) => ?_) ?_; clear_value x; rotate_left; subst x; rotate_right)
      | (lift_lets -underBinder; intro x; subst x)
      | (intro x; subst x)
      | with_reducible apply ih
      | with_reducible apply setQp_kept
      | split
      | refine kept_mk ?_ rfl rfl rfl rfl rfl rfl rfl rfl rfl

theorem popSeg_kept (n) {s : State} {q : List Instr} {k : Nat} (h : Kept q k s) :
    Kept q k (popSeg n s) := by
  delta popSeg
  repeat' first
    | with_reducible assumption
    | (lift_lets -underBinder; intro x; subst x)
    | with_reducible apply monEnd_kept
    | with_reducible apply setQp_kept

theorem sendSel_kept (n) (psns) {s : State} {q : List Instr} {k : Nat} (h : Kept q k s) :
    Kept q k (sendSel n psns s) := by
  delta sendSel
  repeat' first
    | with_reducible assumption
    | (lift_lets -underBinder; intro x; subst x)
    | with_reducible apply kept_ite
    | with_reducible apply emitAeth_kept
    | refine kept_mk ?_ rfl rfl rfl rfl rfl rfl rfl rfl rfl

theorem selNakTimer_kept (n) (psn) {s : State} {q : List Instr} {k : Nat} (h : Kept q k s) :
    Kept q k (selNakTimer n psn s) := by
  delta selNakTimer
  repeat' first
    | with_reducible assumption
    | (lift_lets -underBinder; intro x; subst x)
    | (intro x; subst x)
    | with_reducible apply kept_ite
    | with_reducible apply sendSel_kept
    | with_reducible apply setQp_kept

theorem errorQp_kept (n) {s : State} {q : List Instr} {k : Nat} (h : Kept q k s) :
    Kept q k (errorQp n s) := by
  delta errorQp
  repeat' first
    | with_reducible assumption
    | with_reducible apply kept_ite
    | with_reducible apply closeQp_kept
    | with_reducible apply emit_kept

theorem resendFrom_kept (n) (outs) {s : State} {q : List Instr} {k : Nat} (h : Kept q k s) :
    Kept q k (resendFrom n outs s) := by
  delta resendFrom
  repeat' first
    | with_reducible assumption
    | (lift_lets -underBinder; intro x; subst x)
    | with_reducible apply kept_ite
    | with_reducible apply emit_kept
    | with_reducible apply record_kept
    | with_reducible apply rekeyNote_kept
    | with_reducible apply setQp_kept
    | with_reducible refine kept_foldl (fun _ _ _ => ?_) _ ?_
    | split

theorem outAckTimeout_kept (n) {s : State} {q : List Instr} {k : Nat} (h : Kept q k s) :
    Kept q k (outAckTimeout n s) := by
  delta outAckTimeout
  repeat' first
    | with_reducible assumption
    | (lift_lets -underBinder; intro x; subst x)
    | with_reducible apply kept_ite
    | with_reducible apply errorQp_kept
    | with_reducible apply resendFrom_kept
    | with_reducible apply setQp_kept
    | split

theorem sendAck_kept (n) {s : State} {q : List Instr} {k : Nat} (h : Kept q k s) :
    Kept q k (sendAck n s) := by
  delta sendAck
  repeat' first
    | with_reducible assumption
    | (lift_lets -underBinder; intro x; subst x)
    | (intro x; subst x)
    | with_reducible apply kept_ite
    | with_reducible apply emitAeth_kept
    | with_reducible apply setQp_kept

theorem ackTimer_kept (n) {s : State} {q : List Instr} {k : Nat} (h : Kept q k s) :
    Kept q k (ackTimer n s) := by
  delta ackTimer
  repeat' first
    | with_reducible assumption
    | with_reducible apply kept_ite
    | with_reducible apply sendAck_kept

theorem oldRxExpiry_kept (n) {s : State} {q : List Instr} {k : Nat} (h : Kept q k s) :
    Kept q k (oldRxExpiry n s) := by
  delta oldRxExpiry
  repeat' first
    | with_reducible assumption
    | (lift_lets -underBinder; intro x; subst x)
    | with_reducible apply kept_ite
    | with_reducible apply setQp_kept

theorem countDiscard_kept (n) {s : State} {q : List Instr} {k : Nat} (h : Kept q k s) :
    Kept q k (countDiscard n s) := by
  delta countDiscard
  repeat' first
    | with_reducible assumption
    | (intro x; refine (fun (hx : Kept q k x) => ?_) ?_; clear_value x; rotate_left; subst x; rotate_right)
    | (lift_lets -underBinder; intro x; subst x)
    | (intro x; subst x)
    | with_reducible apply setQp_kept
    | refine kept_mk ?_ rfl rfl rfl rfl rfl rfl rfl rfl rfl

theorem mismatch_kept (n) (tag) {s : State} {q : List Instr} {k : Nat} (h : Kept q k s) :
    Kept q k (mismatch n tag s) := by
  delta mismatch
  repeat' first
    | with_reducible assumption
    | (intro x; refine (fun (hx : Kept q k x) => ?_) ?_; clear_value x; rotate_left; subst x; rotate_right)
    | (lift_lets -underBinder; intro x; subst x)
    | with_reducible apply kept_ite2
    | with_reducible apply answerMsg_kept
    | with_reducible apply checkMessage_kept
    | with_reducible apply endEarly_kept
    | with_reducible apply setTag_kept
    | split
    | refine kept_snd (by with_reducible assumption) ?_

theorem endPlain_kept (n) {s : State} {q : List Instr} {k : Nat} (h : Kept q k s) :
    Kept q k (endPlain n s) := by
  delta endPlain
  repeat' first
    | with_reducible assumption
    | (lift_lets -underBinder; intro x; subst x)
    | (intro x; subst x)
    | with_reducible apply kept_ite
    | with_reducible apply countDiscard_kept
    | with_reducible apply mismatch_kept
    | with_reducible apply setQp_kept
    | split

theorem breach_kept (n) (tag) {s : State} {q : List Instr} {k : Nat} (h : Kept q k s) :
    Kept q k (breach n tag s) := by
  delta breach
  repeat' first
    | with_reducible assumption
    | (intro x; refine (fun (hx : Kept q k x) => ?_) ?_; clear_value x; rotate_left; subst x; rotate_right)
    | (lift_lets -underBinder; intro x; subst x)
    | (intro x; subst x)
    | with_reducible apply kept_ite
    | with_reducible apply mismatch_kept
    | with_reducible apply record_kept
    | with_reducible apply setTag_kept

theorem enterCapsule_kept (n) (tag) (capsule) {s : State} {q : List Instr} {k : Nat} (h : Kept q k s) :
    Kept q k (enterCapsule n tag capsule s) := by
  delta enterCapsule
  repeat' first
    | with_reducible assumption
    | (intro x; refine (fun (hx : Kept q k x) => ?_) ?_; clear_value x; rotate_left; subst x; rotate_right)
    | (lift_lets -underBinder; intro x; subst x)
    | (intro x; subst x)
    | with_reducible apply setTag_kept
    | refine kept_mk ?_ rfl rfl rfl rfl rfl rfl rfl rfl rfl

theorem plainCapsule_kept (n) {s : State} {q : List Instr} {k : Nat} (h : Kept q k s) :
    Kept q k (plainCapsule n s) := by
  delta plainCapsule
  repeat' first
    | with_reducible assumption
    | (intro x; refine (fun (hx : Kept q k x) => ?_) ?_; clear_value x; rotate_left; subst x; rotate_right)
    | (lift_lets -underBinder; intro x; subst x)
    | (intro x; subst x)
    | with_reducible apply kept_ite
    | with_reducible apply breach_kept
    | with_reducible apply enterCapsule_kept
    | with_reducible apply setQp_kept

theorem plainOver_kept (n) {s : State} {q : List Instr} {k : Nat} (h : Kept q k s) :
    Kept q k (plainOver n s) := by
  delta plainOver
  repeat' first
    | with_reducible assumption
    | (lift_lets -underBinder; intro x; subst x)
    | with_reducible apply kept_ite
    | with_reducible apply mismatch_kept
    | with_reducible apply setQp_kept
    | split

theorem stallSeg_kept (n) {s : State} {q : List Instr} {k : Nat} (h : Kept q k s) :
    Kept q k (stallSeg n s) := by
  delta stallSeg
  repeat' first
    | with_reducible assumption
    | (lift_lets -underBinder; intro x; subst x)
    | (intro x; subst x)
    | with_reducible apply kept_ite
    | with_reducible apply faultTimeout_kept
    | with_reducible apply monBegin_kept
    | with_reducible apply setQp_kept

theorem plainSend_kept (n) {s : State} {q : List Instr} {k : Nat} (h : Kept q k s) :
    Kept q k (plainSend n s) := by
  delta plainSend
  repeat' first
    | with_reducible assumption
    | (intro x; refine (fun (hx : Kept q k x) => ?_) ?_; clear_value x; rotate_left; subst x; rotate_right)
    | (lift_lets -underBinder; intro x; subst x)
    | (intro x; subst x)
    | with_reducible apply kept_ite
    | with_reducible apply countDiscard_kept
    | with_reducible apply endPlain_kept
    | with_reducible apply plainCapsule_kept
    | with_reducible apply plainOver_kept
    | with_reducible apply popSeg_kept
    | with_reducible apply setQp_kept
    | with_reducible apply stallSeg_kept
    | split

theorem dropPacket_kept (n) (psn) {s : State} {q : List Instr} {k : Nat} (h : Kept q k s) :
    Kept q k (dropPacket n psn s) := by
  delta dropPacket
  repeat' first
    | with_reducible assumption
    | (lift_lets -underBinder; intro x; subst x)
    | split
    | refine kept_mk ?_ rfl rfl rfl rfl rfl rfl rfl rfl rfl

theorem sendNakCode_kept (n) (psn) (code) {s : State} {q : List Instr} {k : Nat} (h : Kept q k s) :
    Kept q k (sendNakCode n psn code s) := by
  delta sendNakCode
  repeat' first
    | with_reducible assumption
    | with_reducible apply kept_ite
    | with_reducible apply emitAeth_kept

theorem sendNakSeq_kept (n) (psn) {s : State} {q : List Instr} {k : Nat} (h : Kept q k s) :
    Kept q k (sendNakSeq n psn s) := by
  delta sendNakSeq
  repeat' first
    | with_reducible assumption
    | with_reducible apply sendNakCode_kept

theorem nakDropped_kept (n) {s : State} {q : List Instr} {k : Nat} (h : Kept q k s) :
    Kept q k (nakDropped n s) := by
  delta nakDropped
  repeat' first
    | with_reducible assumption
    | (intro x; refine (fun (hx : Kept q k x) => ?_) ?_; clear_value x; rotate_left; subst x; rotate_right)
    | (lift_lets -underBinder; intro x; subst x)
    | (intro x; subst x)
    | with_reducible apply kept_ite
    | with_reducible apply sendNakSeq_kept
    | with_reducible apply sendSel_kept
    | with_reducible refine kept_foldl (fun _ _ _ => ?_) _ ?_
    | refine kept_mk ?_ rfl rfl rfl rfl rfl rfl rfl rfl rfl

theorem placeAt_kept (n) (tag) (off) (bs) (last) (total) {s : State} {q : List Instr} {k : Nat} (h : Kept q k s) :
    Kept q k (placeAt n tag off bs last total s).2 := by
  delta placeAt
  repeat' first
    | with_reducible assumption
    | (intro x; refine (fun (hx : Kept q k x) => ?_) ?_; clear_value x; rotate_left; subst x; rotate_right)
    | (lift_lets -underBinder; intro x; subst x)
    | (intro x; subst x)
    | with_reducible apply kept_ite
    | with_reducible apply kept_ite2
    | with_reducible apply enterCapsule_kept
    | with_reducible apply mismatch_kept
    | with_reducible apply setQp_kept
    | with_reducible apply setTag_kept
    | split

theorem checkComplete_kept (n) (tag) {s : State} {q : List Instr} {k : Nat} (h : Kept q k s) :
    Kept q k (checkComplete n tag s) := by
  delta checkComplete
  repeat' first
    | with_reducible assumption
    | (intro x; refine (fun (hx : Kept q k x) => ?_) ?_; clear_value x; rotate_left; subst x; rotate_right)
    | (lift_lets -underBinder; intro x; subst x)
    | with_reducible apply kept_ite
    | with_reducible apply runMessage_kept
    | with_reducible apply setTag_kept
    | split

theorem placeBytesAt_kept (n) (tag) (off) (bs) (last) (total) {s : State} {q : List Instr} {k : Nat} (h : Kept q k s) :
    Kept q k (placeBytesAt n tag off bs last total s).2 := by
  delta placeBytesAt
  repeat' first
    | with_reducible assumption
    | with_reducible apply kept_ite
    | with_reducible apply checkComplete_kept
    | with_reducible apply placeAt_kept

theorem placeParked_kept (n) (tag) (a2) {a3 : State} {q : List Instr} {k : Nat} (h : Kept q k a3) :
    Kept q k (placeParked n tag a2 a3) := by
  induction a2 generalizing a3 with
  | nil =>
    unfold placeParked
    repeat' first
      | with_reducible assumption
      | with_reducible apply checkComplete_kept
  | cons b l ih =>
    unfold placeParked
    repeat' first
      | with_reducible assumption
      | (lift_lets -underBinder; intro x; subst x)
      | with_reducible apply kept_ite
      | with_reducible apply ih
      | with_reducible apply placeAt_kept
      | with_reducible apply setQp_kept
      | split
      | refine kept_snd (by with_reducible assumption) ?_

theorem placeSeg_kept (n) (psn) (g) (raw) {s : State} {q : List Instr} {k : Nat} (h : Kept q k s) :
    Kept q k (placeSeg n psn g raw s).2 := by
  delta placeSeg
  repeat' first
    | with_reducible assumption
    | (intro x; refine (fun (hx : Kept q k x) => ?_) ?_; clear_value x; rotate_left; subst x; rotate_right)
    | (lift_lets -underBinder; intro x; subst x)
    | (intro x; subst x)
    | with_reducible apply kept_ite
    | with_reducible apply kept_ite2
    | with_reducible apply breach_kept
    | with_reducible apply countDiscard_kept
    | with_reducible apply dropPacket_kept
    | with_reducible apply nakDropped_kept
    | with_reducible apply placeAt_kept
    | with_reducible apply placeBytesAt_kept
    | with_reducible apply placeParked_kept
    | with_reducible apply setQp_kept
    | with_reducible apply setTag_kept
    | split
    | refine kept_snd (by with_reducible assumption) ?_

theorem taggedSegment_kept (n) {s : State} {q : List Instr} {k : Nat} (h : Kept q k s) :
    Kept q k (taggedSegment n s) := by
  delta taggedSegment
  repeat' first
    | with_reducible assumption
    | (lift_lets -underBinder; intro x; subst x)
    | with_reducible apply kept_ite
    | with_reducible apply countDiscard_kept
    | with_reducible apply placeSeg_kept
    | with_reducible apply popSeg_kept
    | with_reducible apply stallSeg_kept
    | split
    | refine kept_snd (by with_reducible assumption) ?_

theorem ackOuts_kept (n) (psn) {s : State} {q : List Instr} {k : Nat} (h : Kept q k s) :
    Kept q k (ackOuts n psn s) := by
  delta ackOuts
  repeat' first
    | with_reducible assumption
    | (lift_lets -underBinder; intro x; subst x)
    | with_reducible apply setQp_kept

theorem remoteAccess_kept (n) (psn) {s : State} {q : List Instr} {k : Nat} (h : Kept q k s) :
    Kept q k (remoteAccess n psn s) := by
  delta remoteAccess
  repeat' first
    | with_reducible assumption
    | with_reducible apply kept_ite
    | with_reducible apply ackOuts_kept
    | with_reducible apply errorQp_kept

theorem rnrHoldExpiry_kept (n) {s : State} {q : List Instr} {k : Nat} (h : Kept q k s) :
    Kept q k (rnrHoldExpiry n s) := by
  delta rnrHoldExpiry
  repeat' first
    | with_reducible assumption
    | with_reducible apply kept_ite
    | with_reducible apply errorQp_kept

theorem touchCtx_kept (n) {s : State} {q : List Instr} {k : Nat} (h : Kept q k s) :
    Kept q k (touchCtx n s) := by
  delta touchCtx
  repeat' first
    | with_reducible assumption
    | (lift_lets -underBinder; intro x; subst x)
    | (intro x; subst x)
    | with_reducible apply kept_ite
    | with_reducible apply setQp_kept
    | split
    | refine kept_mk ?_ rfl rfl rfl rfl rfl rfl rfl rfl rfl

theorem noteCe_kept (n) {s : State} {q : List Instr} {k : Nat} (h : Kept q k s) :
    Kept q k (noteCe n s) := by
  delta noteCe
  repeat' first
    | with_reducible assumption
    | (lift_lets -underBinder; intro x; subst x)
    | with_reducible apply kept_ite
    | with_reducible apply draw_kept
    | with_reducible apply emit_kept
    | with_reducible apply setQp_kept

theorem portLink_kept (port) (up) {s : State} {q : List Instr} {k : Nat} (h : Kept q k s) :
    Kept q k (portLink port up s) := by
  delta portLink
  repeat' first
    | with_reducible assumption
    | (intro x; refine (fun (hx : Kept q k x) => ?_) ?_; clear_value x; rotate_left; subst x; rotate_right)
    | (lift_lets -underBinder; intro x; subst x)
    | (intro x; subst x)
    | with_reducible apply kept_ite
    | with_reducible apply flushAll_kept
    | with_reducible apply note_kept
    | with_reducible refine kept_foldl (fun _ _ _ => ?_) _ ?_
    | refine kept_mk ?_ rfl rfl rfl rfl rfl rfl rfl rfl rfl

theorem configPort_kept (p) (split) (trained) (i) {s : State} {q : List Instr} {k : Nat} (h : Kept q k s) :
    Kept q k (configPort p split trained i s) := by
  delta configPort
  repeat' first
    | with_reducible assumption
    | (intro x; refine (fun (hx : Kept q k x) => ?_) ?_; clear_value x; rotate_left; subst x; rotate_right)
    | (lift_lets -underBinder; intro x; subst x)
    | (intro x; subst x)
    | with_reducible apply kept_ite
    | with_reducible apply draw_kept
    | with_reducible apply errorQp_kept
    | with_reducible refine kept_foldl (fun _ _ _ => ?_) _ ?_
    | split
    | refine kept_mk ?_ rfl rfl rfl rfl rfl rfl rfl rfl rfl

theorem pauseFrame_kept (port) (prio) (pause) {s : State} {q : List Instr} {k : Nat} (h : Kept q k s) :
    Kept q k (pauseFrame port prio pause s) := by
  delta pauseFrame
  repeat' first
    | with_reducible assumption
    | (intro x; refine (fun (hx : Kept q k x) => ?_) ?_; clear_value x; rotate_left; subst x; rotate_right)
    | (lift_lets -underBinder; intro x; subst x)
    | (intro x; subst x)
    | with_reducible apply kept_ite
    | with_reducible apply flushAll_kept
    | with_reducible refine kept_foldl (fun _ _ _ => ?_) _ ?_
    | refine kept_mk ?_ rfl rfl rfl rfl rfl rfl rfl rfl rfl

theorem queueKeyExpiry_kept (id) {s : State} {q : List Instr} {k : Nat} (h : Kept q k s) :
    Kept q k (queueKeyExpiry id s) := by
  delta queueKeyExpiry
  repeat' first
    | with_reducible assumption
    | (lift_lets -underBinder; intro x; subst x)
    | refine kept_mk ?_ rfl rfl rfl rfl rfl rfl rfl rfl rfl

theorem frameIn_kept (port) (vlans) {s : State} {q : List Instr} {k : Nat} (h : Kept q k s) :
    Kept q k (frameIn port vlans s).2 := by
  delta frameIn
  repeat' first
    | with_reducible assumption
    | (intro x; refine (fun (hx : Kept q k x) => ?_) ?_; clear_value x; rotate_left; subst x; rotate_right)
    | (lift_lets -underBinder; intro x; subst x)
    | (intro x; subst x)
    | with_reducible apply kept_ite
    | with_reducible apply kept_ite2
    | with_reducible apply draw_kept
    | with_reducible apply emit_kept
    | refine kept_mk ?_ rfl rfl rfl rfl rfl rfl rfl rfl rfl

theorem openQueue_kept (n) {s : State} {q : List Instr} {k : Nat} (h : Kept q k s) :
    Kept q k (openQueue n s) := by
  delta openQueue
  repeat' first
    | with_reducible assumption
    | (intro x; refine (fun (hx : Kept q k x) => ?_) ?_; clear_value x; rotate_left; subst x; rotate_right)
    | (lift_lets -underBinder; intro x; subst x)
    | (intro x; subst x)
    | with_reducible apply kept_ite
    | with_reducible apply setQp_kept
    | with_reducible apply touchCtx_kept
    | split
    | refine kept_mk ?_ rfl rfl rfl rfl rfl rfl rfl rfl rfl

theorem regrant_kept (n) {s : State} {q : List Instr} {k : Nat} (h : Kept q k s) :
    Kept q k (regrant n s) := by
  delta regrant
  repeat' first
    | with_reducible assumption
    | (lift_lets -underBinder; intro x; subst x)
    | with_reducible apply kept_ite
    | with_reducible apply draw_kept
    | with_reducible apply serveRound_kept
    | with_reducible apply setQp_kept

theorem acceptPacket_kept (n) (psn) (bytes) {s : State} {q : List Instr} {k : Nat} (h : Kept q k s) :
    Kept q k (acceptPacket n psn bytes s) := by
  delta acceptPacket
  repeat' first
    | with_reducible assumption
    | (intro x; refine (fun (hx : Kept q k x) => ?_) ?_; clear_value x; rotate_left; subst x; rotate_right)
    | (lift_lets -underBinder; intro x; subst x)
    | (intro x; subst x)
    | with_reducible apply kept_ite
    | with_reducible apply regrant_kept
    | with_reducible apply sendAck_kept
    | with_reducible apply setQp_kept

theorem dataPacket_kept (n) (psn) (bytes) {s : State} {q : List Instr} {k : Nat} (h : Kept q k s) :
    Kept q k (dataPacket n psn bytes s) := by
  delta dataPacket
  repeat' first
    | with_reducible assumption
    | (intro x; refine (fun (hx : Kept q k x) => ?_) ?_; clear_value x; rotate_left; subst x; rotate_right)
    | (lift_lets -underBinder; intro x; subst x)
    | (intro x; subst x)
    | with_reducible apply kept_ite
    | with_reducible apply acceptPacket_kept
    | with_reducible apply dropPacket_kept
    | with_reducible apply nakDropped_kept
    | with_reducible apply sendAck_kept
    | with_reducible apply sendNakSeq_kept
    | with_reducible apply sendRnr_kept
    | with_reducible apply setQp_kept

theorem sendNakInvalid_kept (n) (psn) {s : State} {q : List Instr} {k : Nat} (h : Kept q k s) :
    Kept q k (sendNakInvalid n psn s) := by
  delta sendNakInvalid
  repeat' first
    | with_reducible assumption
    | with_reducible apply sendNakCode_kept

theorem seqNak_kept (n) (psn) {s : State} {q : List Instr} {k : Nat} (h : Kept q k s) :
    Kept q k (seqNak n psn s) := by
  delta seqNak
  repeat' first
    | with_reducible assumption
    | (lift_lets -underBinder; intro x; refine (fun (hx : Kept q k x) => ?_) ?_; clear_value x; rotate_left; subst x; rotate_right)
    | with_reducible apply ackOuts_kept
    | with_reducible apply resendFrom_kept

theorem packetIn_kept (n) (p) {s : State} {q : List Instr} {k : Nat} (h : Kept q k s) :
    Kept q k (packetIn n p s) := by
  delta packetIn
  repeat' first
    | with_reducible assumption
    | (lift_lets -underBinder; intro x; refine (fun (hx : Kept q k x) => ?_) ?_; clear_value x; rotate_left; subst x; rotate_right)
    | (intro x; refine (fun (hx : Kept q k x) => ?_) ?_; clear_value x; rotate_left; subst x; rotate_right)
    | (lift_lets -underBinder; intro x; subst x)
    | (intro x; subst x)
    | with_reducible apply kept_ite
    | with_reducible apply ackOuts_kept
    | with_reducible apply dataPacket_kept
    | with_reducible apply errorQp_kept
    | with_reducible apply noteCe_kept
    | with_reducible apply sendNakInvalid_kept
    | with_reducible apply seqNak_kept
    | with_reducible apply setQp_kept
    | with_reducible apply touchCtx_kept
    | split
    | refine kept_mk ?_ rfl rfl rfl rfl rfl rfl rfl rfl rfl

theorem inboundPacket_kept (n) (p) {s : State} {q : List Instr} {k : Nat} (h : Kept q k s) :
    Kept q k (inboundPacket n p s) := by
  delta inboundPacket
  repeat' first
    | with_reducible assumption
    | (lift_lets -underBinder; intro x; refine (fun (hx : Kept q k x) => ?_) ?_; clear_value x; rotate_left; subst x; rotate_right)
    | (intro x; subst x)
    | with_reducible apply kept_ite
    | with_reducible apply dropPacket_kept
    | with_reducible apply frameIn_kept
    | with_reducible apply monBegin_kept
    | with_reducible apply openQueue_kept
    | with_reducible apply packetIn_kept
    | with_reducible apply setQp_kept
    | split
    | refine kept_snd (by with_reducible assumption) ?_

theorem loadRx_kept (n) (a1) {s : State} {q : List Instr} {k : Nat} (h : Kept q k s) :
    Kept q k (loadRx n a1 s) := by
  delta loadRx
  repeat' first
    | with_reducible assumption
    | (lift_lets -underBinder; intro x; subst x)
    | (intro x; subst x)
    | with_reducible apply setQp_kept

theorem loadTx_kept (n) (a1) {s : State} {q : List Instr} {k : Nat} (h : Kept q k s) :
    Kept q k (loadTx n a1 s) := by
  delta loadTx
  repeat' first
    | with_reducible assumption
    | (lift_lets -underBinder; intro x; subst x)
    | (intro x; subst x)
    | with_reducible apply kept_ite
    | with_reducible apply flushAll_kept
    | with_reducible apply sendAck_kept
    | with_reducible apply setQp_kept

theorem qpResetH_kept (p) {s : State} {q : List Instr} {k : Nat} (h : Kept q k s) :
    Kept q k (qpResetH p s).2 := by
  delta qpResetH
  repeat' first
    | with_reducible assumption
    | with_reducible apply errorQp_kept
    | with_reducible apply refuse_kept
    | split

theorem tableExpiry_kept (id) {s : State} {q : List Instr} {k : Nat} (h : Kept q k s) :
    Kept q k (tableExpiry id s) := by
  delta tableExpiry
  repeat' first
    | with_reducible assumption
    | (lift_lets -underBinder; intro x; subst x)
    | (intro x; subst x)
    | with_reducible apply kept_ite
    | refine kept_mk ?_ rfl rfl rfl rfl rfl rfl rfl rfl rfl

theorem starvation_kept (n) {s : State} {q : List Instr} {k : Nat} (h : Kept q k s) :
    Kept q k (starvation n s) := by
  delta starvation
  repeat' first
    | with_reducible assumption
    | (lift_lets -underBinder; intro x; subst x)
    | with_reducible apply kept_ite
    | with_reducible apply sendAck_kept
    | with_reducible apply setQp_kept

theorem connectingTimeout_kept (n) {s : State} {q : List Instr} {k : Nat} (h : Kept q k s) :
    Kept q k (connectingTimeout n s) := by
  delta connectingTimeout
  repeat' first
    | with_reducible assumption
    | (lift_lets -underBinder; intro x; subst x)
    | with_reducible apply kept_ite
    | with_reducible apply setQp_kept

theorem retrySeg_kept (n) {s : State} {q : List Instr} {k : Nat} (h : Kept q k s) :
    Kept q k (retrySeg n s) := by
  delta retrySeg
  repeat' first
    | with_reducible assumption
    | with_reducible apply kept_ite
    | with_reducible apply plainSend_kept
    | with_reducible apply taggedSegment_kept

theorem stagingPageFree_kept (n) (tag) (page) {s : State} {q : List Instr} {k : Nat} (h : Kept q k s) :
    Kept q k (stagingPageFree n tag page s) := by
  delta stagingPageFree
  repeat' first
    | with_reducible assumption
    | (intro x; refine (fun (hx : Kept q k x) => ?_) ?_; clear_value x; rotate_left; subst x; rotate_right)
    | (lift_lets -underBinder; intro x; subst x)
    | with_reducible apply kept_ite
    | with_reducible apply retrySeg_kept
    | with_reducible apply setTag_kept
    | with_reducible refine kept_foldl (fun _ _ _ => ?_) _ ?_

theorem queueOpen_kept (n) (port) (supported) (hostQp) (psn) (rec_) {s : State} {q : List Instr} {k : Nat} (h : Kept q k s) :
    Kept q k (queueOpen n port supported hostQp psn rec_ s) := by
  delta queueOpen
  repeat' first
    | with_reducible assumption
    | (lift_lets -underBinder; intro x; subst x)
    | (intro x; subst x)
    | with_reducible apply kept_ite
    | with_reducible apply draw_kept
    | with_reducible apply emit_kept
    | with_reducible apply setQp_kept
    | split

theorem portConfigH_kept (trained) (p) {s : State} {q : List Instr} {k : Nat} (h : Kept q k s) :
    Kept q k (portConfigH trained p s).2 := by
  delta portConfigH
  repeat' first
    | with_reducible assumption
    | (lift_lets -underBinder; intro x; refine (fun (hx : Kept q k x) => ?_) ?_; clear_value x; rotate_left; subst x; rotate_right)
    | (intro x; refine (fun (hx : Kept q k x) => ?_) ?_; clear_value x; rotate_left; subst x; rotate_right)
    | (lift_lets -underBinder; intro x; subst x)
    | (intro x; subst x)
    | intro _
    | with_reducible apply kept_ite2
    | with_reducible apply configPort_kept
    | with_reducible apply errorQp_kept
    | with_reducible apply finishJob_kept
    | with_reducible apply note_kept
    | with_reducible apply refuse_kept
    | with_reducible apply withJob_kept
    | with_reducible refine kept_foldl (fun _ _ _ => ?_) _ ?_
    | split
    | refine kept_mk ?_ rfl rfl rfl rfl rfl rfl rfl rfl rfl

theorem pdConfigH_kept (p) {s : State} {q : List Instr} {k : Nat} (h : Kept q k s) :
    Kept q k (pdConfigH p s).2 := by
  delta pdConfigH
  repeat' first
    | with_reducible assumption
    | (lift_lets -underBinder; intro x; subst x)
    | (intro x; subst x)
    | with_reducible apply kept_ite2
    | with_reducible apply note_kept
    | with_reducible apply refuse_kept
    | refine kept_mk ?_ rfl rfl rfl rfl rfl rfl rfl rfl rfl

theorem rnrResend_kept (n) {s : State} {q : List Instr} {k : Nat} (h : Kept q k s) :
    Kept q k (rnrResend n s) := by
  delta rnrResend
  repeat' first
    | with_reducible assumption
    | (lift_lets -underBinder; intro x; subst x)
    | (intro x; subst x)
    | with_reducible apply kept_ite
    | with_reducible apply resendFrom_kept
    | with_reducible apply setQp_kept

theorem setCap_kept (cap) {s : State} {q : List Instr} {k : Nat} (h : Kept q k s) :
    Kept q k (setCap cap s) := by
  delta setCap
  repeat' first
    | with_reducible assumption
    | (lift_lets -underBinder; intro x; subst x)
    | (intro x; subst x)
    | split
    | refine kept_mk ?_ rfl rfl rfl rfl rfl rfl rfl rfl rfl

theorem creditLapse_kept {s : State} {q : List Instr} {k : Nat} (h : Kept q k s) :
    Kept q k (creditLapse s) := by
  delta creditLapse
  repeat' first
    | with_reducible assumption
    | (intro x; refine (fun (hx : Kept q k x) => ?_) ?_; clear_value x; rotate_left; subst x; rotate_right)
    | (lift_lets -underBinder; intro x; subst x)
    | (intro x; subst x)
    | with_reducible apply setCap_kept
    | with_reducible apply setQp_kept
    | with_reducible apply unforce_kept
    | with_reducible refine kept_foldl (fun _ _ _ => ?_) _ ?_
    | split
    | refine kept_mk ?_ rfl rfl rfl rfl rfl rfl rfl rfl rfl

theorem rnrReceived_kept (n) (psn) {s : State} {q : List Instr} {k : Nat} (h : Kept q k s) :
    Kept q k (rnrReceived n psn s) := by
  delta rnrReceived
  repeat' first
    | with_reducible assumption
    | (lift_lets -underBinder; intro x; refine (fun (hx : Kept q k x) => ?_) ?_; clear_value x; rotate_left; subst x; rotate_right)
    | (intro x; subst x)
    | with_reducible apply kept_ite
    | with_reducible apply ackOuts_kept
    | with_reducible apply setQp_kept

theorem plainCopyDone_kept (n) (tag) {s : State} {q : List Instr} {k : Nat} (h : Kept q k s) :
    Kept q k (plainCopyDone n tag s) := by
  delta plainCopyDone
  repeat' first
    | with_reducible assumption
    | (intro x; refine (fun (hx : Kept q k x) => ?_) ?_; clear_value x; rotate_left; subst x; rotate_right)
    | (lift_lets -underBinder; intro x; subst x)
    | (intro x; subst x)
    | with_reducible apply kept_ite
    | with_reducible apply runMessage_kept
    | with_reducible apply setQp_kept
    | split

theorem cnpReceived_kept (n) (since50us) {s : State} {q : List Instr} {k : Nat} (h : Kept q k s) :
    Kept q k (cnpReceived n since50us s) := by
  delta cnpReceived
  repeat' first
    | with_reducible assumption
    | (lift_lets -underBinder; intro x; subst x)
    | with_reducible apply kept_ite
    | with_reducible apply setQp_kept

theorem dreqIn_kept (n) {s : State} {q : List Instr} {k : Nat} (h : Kept q k s) :
    Kept q k (dreqIn n s) := by
  delta dreqIn
  repeat' first
    | with_reducible assumption
    | (lift_lets -underBinder; intro x; subst x)
    | with_reducible apply kept_ite
    | with_reducible apply closeQp_kept
    | with_reducible apply emit_kept
    | with_reducible apply setQp_kept

theorem contextFetchDone_kept (n) (lineOk) {s : State} {q : List Instr} {k : Nat} (h : Kept q k s) :
    Kept q k (contextFetchDone n lineOk s) := by
  delta contextFetchDone
  repeat' first
    | with_reducible assumption
    | (intro x; refine (fun (hx : Kept q k x) => ?_) ?_; clear_value x; rotate_left; subst x; rotate_right)
    | (lift_lets -underBinder; intro x; subst x)
    | with_reducible apply kept_ite
    | with_reducible apply errorQp_kept
    | with_reducible apply monEnd_kept
    | with_reducible apply nakDropped_kept
    | with_reducible apply packetIn_kept
    | with_reducible apply record_kept
    | with_reducible apply setQp_kept
    | with_reducible apply touchCtx_kept
    | with_reducible refine kept_foldl (fun _ _ _ => ?_) _ ?_

theorem creditSetH_kept (p) {s : State} {q : List Instr} {k : Nat} (h : Kept q k s) :
    Kept q k (creditSetH p s).2 := by
  delta creditSetH
  repeat' first
    | with_reducible assumption
    | (intro x; refine (fun (hx : Kept q k x) => ?_) ?_; clear_value x; rotate_left; subst x; rotate_right)
    | (lift_lets -underBinder; intro x; subst x)
    | (intro x; subst x)
    | with_reducible apply kept_ite
    | with_reducible apply kept_ite2
    | with_reducible apply force_kept
    | with_reducible apply refuse_kept
    | with_reducible apply setCap_kept
    | with_reducible apply setQp_kept
    | split
    | refine kept_mk ?_ rfl rfl rfl rfl rfl rfl rfl rfl rfl

theorem qpStatusH_kept (p) {s : State} {q : List Instr} {k : Nat} (h : Kept q k s) :
    Kept q k (qpStatusH p s).2 := by
  delta qpStatusH
  repeat' first
    | with_reducible assumption
    | (lift_lets -underBinder; intro x; subst x)
    | with_reducible apply draw_kept
    | with_reducible apply refuse_kept
    | split

theorem keepaliveExpiry_kept (n) {s : State} {q : List Instr} {k : Nat} (h : Kept q k s) :
    Kept q k (keepaliveExpiry n s) := by
  delta keepaliveExpiry
  repeat' first
    | with_reducible assumption
    | with_reducible apply kept_ite
    | with_reducible apply closeQp_kept
    | with_reducible apply emit_kept
    | with_reducible apply record_kept

theorem rateTick_kept (n) {s : State} {q : List Instr} {k : Nat} (h : Kept q k s) :
    Kept q k (rateTick n s) := by
  delta rateTick
  repeat' first
    | with_reducible assumption
    | (lift_lets -underBinder; intro x; subst x)
    | with_reducible apply kept_ite
    | with_reducible apply setQp_kept

/-! ### Machine/Keys.lean -/

theorem setBoot_kept (a0) (v) {s : State} {q : List Instr} {k : Nat} (h : Kept q k s) :
    Kept q k (setBoot a0 v s) := by
  delta setBoot
  repeat' first
    | with_reducible assumption
    | (lift_lets -underBinder; intro x; subst x)
    | split
    | refine kept_mk ?_ rfl rfl rfl rfl rfl rfl rfl rfl rfl

theorem useNonce_kept (nonce) {s : State} {q : List Instr} {k : Nat} (h : Kept q k s) :
    Kept q k (useNonce nonce s) := by
  delta useNonce
  repeat' first
    | with_reducible assumption
    | (lift_lets -underBinder; intro x; subst x)
    | refine kept_mk ?_ rfl rfl rfl rfl rfl rfl rfl rfl rfl

theorem zeroisePairs_kept (p) {s : State} {q : List Instr} {k : Nat} (h : Kept q k s) :
    Kept q k (zeroisePairs p s) := by
  delta zeroisePairs
  repeat' first
    | with_reducible assumption
    | with_reducible apply zeroiseSlot_kept
    | with_reducible refine kept_foldl (fun _ _ _ => ?_) _ ?_

theorem dropDomains_kept {s : State} {q : List Instr} {k : Nat} (h : Kept q k s) :
    Kept q k (dropDomains s) := by
  delta dropDomains
  repeat' first
    | with_reducible assumption
    | with_reducible apply zeroisePairs_kept

theorem blobRefused_kept {s : State} {q : List Instr} {k : Nat} (h : Kept q k s) :
    Kept q k (blobRefused s) := by
  delta blobRefused
  repeat' first
    | with_reducible assumption
    | with_reducible apply note_kept

theorem blobRefusedOf_kept (b) {s : State} {q : List Instr} {k : Nat} (h : Kept q k s) :
    Kept q k (blobRefusedOf b s) := by
  delta blobRefusedOf
  repeat' first
    | with_reducible assumption
    | with_reducible apply record_kept

theorem loadPair_kept (a0) (key) (purpose) (domain) (version) {s : State} {q : List Instr} {k : Nat} (h : Kept q k s) :
    Kept q k (loadPair a0 key purpose domain version s) := by
  delta loadPair
  repeat' first
    | with_reducible assumption
    | with_reducible apply loadSlot_kept

theorem loadDomain_kept (d) (version) (purpose) (blob) {s : State} {q : List Instr} {k : Nat} (h : Kept q k s) :
    Kept q k (loadDomain d version purpose blob s) := by
  delta loadDomain
  repeat' first
    | with_reducible assumption
    | (lift_lets -underBinder; intro x; refine (fun (hx : Kept q k x) => ?_) ?_; clear_value x; rotate_left; subst x; rotate_right)
    | (intro x; refine (fun (hx : Kept q k x) => ?_) ?_; clear_value x; rotate_left; subst x; rotate_right)
    | (lift_lets -underBinder; intro x; subst x)
    | (intro x; subst x)
    | with_reducible apply kept_ite
    | with_reducible apply blobRefused_kept
    | with_reducible apply blobRefusedOf_kept
    | with_reducible apply loadPair_kept
    | split
    | refine kept_mk ?_ rfl rfl rfl rfl rfl rfl rfl rfl rfl

theorem loadDomains_kept {s : State} {q : List Instr} {k : Nat} (h : Kept q k s) :
    Kept q k (loadDomains s) := by
  delta loadDomains
  repeat' first
    | with_reducible assumption
    | (lift_lets -underBinder; intro x; refine (fun (hx : Kept q k x) => ?_) ?_; clear_value x; rotate_left; subst x; rotate_right)
    | with_reducible apply kept_ite
    | with_reducible apply loadDomain_kept
    | with_reducible refine kept_foldl (fun _ _ _ => ?_) _ ?_
    | split

theorem rotationsEnd_kept {s : State} {q : List Instr} {k : Nat} (h : Kept q k s) :
    Kept q k (rotationsEnd s) := by
  delta rotationsEnd
  repeat' first
    | with_reducible assumption
    | (intro x; refine (fun (hx : Kept q k x) => ?_) ?_; clear_value x; rotate_left; subst x; rotate_right)
    | (lift_lets -underBinder; intro x; subst x)
    | (intro x; subst x)
    | with_reducible apply kept_ite
    | with_reducible apply changeArray_kept
    | with_reducible apply finishJobs_kept
    | with_reducible apply setSlot_kept
    | with_reducible apply zeroisePairs_kept
    | with_reducible refine kept_foldl (fun _ _ _ => ?_) _ ?_
    | split
    | refine kept_mk ?_ rfl rfl rfl rfl rfl rfl rfl rfl rfl

theorem loadKek_kept {q : List Instr} {k : Nat} {s : State} (h : Kept q k s) : Kept q k (loadKek s) := by
  delta loadKek
  split
  · exact h
  · dsimp only
    split
    · exact kept_mk (loadSlot_kept _ _ _ _ _ h) rfl rfl rfl rfl rfl rfl rfl rfl rfl
    · exact blobRefused_kept h

theorem slotParity_kept (a0) {s : State} {q : List Instr} {k : Nat} (h : Kept q k s) :
    Kept q k (slotParity a0 s) := by
  delta slotParity
  repeat' first
    | with_reducible assumption
    | (intro x; refine (fun (hx : Kept q k x) => ?_) ?_; clear_value x; rotate_left; subst x; rotate_right)
    | (lift_lets -underBinder; intro x; subst x)
    | (intro x; subst x)
    | with_reducible apply kept_ite
    | with_reducible apply errorOn_kept
    | with_reducible apply loadKek_kept
    | with_reducible apply loadSlot_kept
    | with_reducible apply zeroiseSlot_kept
    | split
    | refine kept_mk ?_ rfl rfl rfl rfl rfl rfl rfl rfl rfl

theorem rotationsBegin_kept {s : State} {q : List Instr} {k : Nat} (h : Kept q k s) :
    Kept q k (rotationsBegin s) := by
  delta rotationsBegin
  repeat' first
    | with_reducible assumption
    | (lift_lets -underBinder; intro x; subst x)
    | (intro x; subst x)
    | refine kept_mk ?_ rfl rfl rfl rfl rfl rfl rfl rfl rfl

theorem dropKek_kept {s : State} {q : List Instr} {k : Nat} (h : Kept q k s) :
    Kept q k (dropKek s) := by
  delta dropKek
  repeat' first
    | with_reducible assumption
    | (lift_lets -underBinder; intro x; refine (fun (hx : Kept q k x) => ?_) ?_; clear_value x; rotate_left; subst x; rotate_right)
    | (intro x; subst x)
    | with_reducible apply zeroiseSlot_kept
    | refine kept_mk ?_ rfl rfl rfl rfl rfl rfl rfl rfl rfl

theorem kekCheck_kept {s : State} {q : List Instr} {k : Nat} (h : Kept q k s) :
    Kept q k (kekCheck s) := by
  delta kekCheck
  repeat' first
    | with_reducible assumption
    | with_reducible apply kept_ite
    | with_reducible apply dropKek_kept
    | with_reducible apply note_kept
    | split

theorem loadDigestKey_kept (holder) (b) {s : State} {q : List Instr} {k : Nat} (h : Kept q k s) :
    Kept q k (loadDigestKey holder b s).2 := by
  delta loadDigestKey
  repeat' first
    | with_reducible assumption
    | (lift_lets -underBinder; intro x; subst x)
    | with_reducible apply kept_ite2
    | with_reducible apply blobRefused_kept
    | with_reducible apply blobRefusedOf_kept
    | with_reducible apply refuse_kept
    | with_reducible apply setClaim_kept
    | split
    | refine kept_mk ?_ rfl rfl rfl rfl rfl rfl rfl rfl rfl

theorem loadKind0_kept (b) {s : State} {q : List Instr} {k : Nat} (h : Kept q k s) :
    Kept q k (loadKind0 b s).2 := by
  delta loadKind0
  repeat' first
    | with_reducible assumption
    | (lift_lets -underBinder; intro x; refine (fun (hx : Kept q k x) => ?_) ?_; clear_value x; rotate_left; subst x; rotate_right)
    | (intro x; refine (fun (hx : Kept q k x) => ?_) ?_; clear_value x; rotate_left; subst x; rotate_right)
    | (lift_lets -underBinder; intro x; subst x)
    | (intro x; subst x)
    | with_reducible apply kept_ite2
    | with_reducible apply blobRefused_kept
    | with_reducible apply blobRefusedOf_kept
    | with_reducible apply draw_kept
    | with_reducible apply drbgRequest_kept
    | with_reducible apply loadDomains_kept
    | with_reducible apply loadSlot_kept
    | with_reducible apply note_kept
    | with_reducible apply pkaSubmit_kept
    | with_reducible apply refuse_kept
    | split
    | refine kept_mk ?_ rfl rfl rfl rfl rfl rfl rfl rfl rfl

theorem loadKind1_kept (p) {s : State} {q : List Instr} {k : Nat} (h : Kept q k s) :
    Kept q k (loadKind1 p s).2 := by
  delta loadKind1
  repeat' first
    | with_reducible assumption
    | (lift_lets -underBinder; intro x; subst x)
    | (intro x; subst x)
    | intro _
    | with_reducible apply kept_ite2
    | with_reducible apply blobRefused_kept
    | with_reducible apply blobRefusedOf_kept
    | with_reducible apply changeArray_kept
    | with_reducible apply loadPair_kept
    | with_reducible apply refuse_kept
    | with_reducible apply withJob_kept
    | split
    | refine kept_mk ?_ rfl rfl rfl rfl rfl rfl rfl rfl rfl

theorem loadQueueKey_kept (rx) (b) {s : State} {q : List Instr} {k : Nat} (h : Kept q k s) :
    Kept q k (loadQueueKey rx b s).2 := by
  delta loadQueueKey
  repeat' first
    | with_reducible assumption
    | (lift_lets -underBinder; intro x; subst x)
    | with_reducible apply kept_ite
    | with_reducible apply kept_ite2
    | with_reducible apply blobRefused_kept
    | with_reducible apply blobRefusedOf_kept
    | with_reducible apply loadRx_kept
    | with_reducible apply loadTx_kept
    | with_reducible apply refuse_kept
    | split
    | refine kept_mk ?_ rfl rfl rfl rfl rfl rfl rfl rfl rfl

theorem keyLoadH_kept (holder) (p) {s : State} {q : List Instr} {k : Nat} (h : Kept q k s) :
    Kept q k (keyLoadH holder p s).2 := by
  delta keyLoadH
  repeat' first
    | with_reducible assumption
    | (lift_lets -underBinder; intro x; subst x)
    | (intro x; subst x)
    | with_reducible apply kept_ite2
    | with_reducible apply blobRefused_kept
    | with_reducible apply blobRefusedOf_kept
    | with_reducible apply loadDigestKey_kept
    | with_reducible apply loadKind0_kept
    | with_reducible apply loadKind1_kept
    | with_reducible apply loadQueueKey_kept
    | with_reducible apply refuse_kept

theorem zeroiseQueue_kept (id) {s : State} {q : List Instr} {k : Nat} (h : Kept q k s) :
    Kept q k (zeroiseQueue id s) := by
  delta zeroiseQueue
  repeat' first
    | with_reducible assumption
    | (intro x; refine (fun (hx : Kept q k x) => ?_) ?_; clear_value x; rotate_left; subst x; rotate_right)
    | (lift_lets -underBinder; intro x; subst x)
    | with_reducible apply errorQp_kept
    | with_reducible apply setQp_kept
    | split
    | refine kept_mk ?_ rfl rfl rfl rfl rfl rfl rfl rfl rfl

theorem zeroiseAll_kept {s : State} {q : List Instr} {k : Nat} (h : Kept q k s) :
    Kept q k (zeroiseAll s) := by
  delta zeroiseAll
  repeat' first
    | with_reducible assumption
    | (intro x; refine (fun (hx : Kept q k x) => ?_) ?_; clear_value x; rotate_left; subst x; rotate_right)
    | (lift_lets -underBinder; intro x; subst x)
    | (intro x; subst x)
    | with_reducible apply zeroiseQueue_kept
    | with_reducible refine kept_foldl (fun _ _ _ => ?_) _ ?_
    | refine kept_mk ?_ rfl rfl rfl rfl rfl rfl rfl rfl rfl

theorem keyZeroiseH_kept (holder) {endSession : State → State} (p) {s : State} {q : List Instr} {k : Nat} (hendSession : ∀ y0, Kept q k y0 → Kept q k (endSession y0)) (h : Kept q k s) :
    Kept q k (keyZeroiseH holder endSession p s).2 := by
  delta keyZeroiseH
  repeat' first
    | with_reducible assumption
    | (lift_lets -underBinder; intro x; refine (fun (hx : Kept q k x) => ?_) ?_; clear_value x; rotate_left; subst x; rotate_right)
    | (intro x; refine (fun (hx : Kept q k x) => ?_) ?_; clear_value x; rotate_left; subst x; rotate_right)
    | (lift_lets -underBinder; intro x; subst x)
    | (intro x; subst x)
    | with_reducible apply kept_ite2
    | with_reducible apply hendSession
    | with_reducible apply changeArray_kept
    | with_reducible apply dropClaim_kept
    | with_reducible apply dropKek_kept
    | with_reducible apply note_kept
    | with_reducible apply refuse_kept
    | with_reducible apply zeroiseAll_kept
    | with_reducible apply zeroisePairs_kept
    | with_reducible apply zeroiseQueue_kept
    | split
    | refine kept_mk ?_ rfl rfl rfl rfl rfl rfl rfl rfl rfl

theorem keySlotInfoH_kept (p) {s : State} {q : List Instr} {k : Nat} (h : Kept q k s) :
    Kept q k (keySlotInfoH p s).2 := by
  delta keySlotInfoH
  repeat' first
    | with_reducible assumption
    | (lift_lets -underBinder; intro x; subst x)
    | (intro x; subst x)
    | with_reducible apply kept_ite2
    | with_reducible apply refuse_kept

theorem attestH_kept (p) {s : State} {q : List Instr} {k : Nat} (h : Kept q k s) :
    Kept q k (attestH p s).2 := by
  delta attestH
  repeat' first
    | with_reducible assumption
    | (lift_lets -underBinder; intro x; subst x)
    | (intro x; subst x)
    | with_reducible apply kept_ite2
    | with_reducible apply draw_kept
    | with_reducible apply pkaSubmit_kept
    | with_reducible apply refuse_kept

theorem opKeyH_kept {endSession : State → State} (p) {s : State} {q : List Instr} {k : Nat} (hendSession : ∀ y0, Kept q k y0 → Kept q k (endSession y0)) (h : Kept q k s) :
    Kept q k (opKeyH endSession p s).2 := by
  delta opKeyH
  repeat' first
    | with_reducible assumption
    | (intro x; refine (fun (hx : Kept q k x) => ?_) ?_; clear_value x; rotate_left; subst x; rotate_right)
    | (lift_lets -underBinder; intro x; subst x)
    | (intro x; subst x)
    | with_reducible apply kept_ite
    | with_reducible apply kept_ite2
    | with_reducible apply hendSession
    | with_reducible apply changeArray_kept
    | with_reducible apply note_kept
    | with_reducible apply pkaSubmit_kept
    | with_reducible apply refuse_kept
    | with_reducible apply useNonce_kept
    | split
    | refine kept_mk ?_ rfl rfl rfl rfl rfl rfl rfl rfl rfl

/-! ### Machine/Volumes.lean -/

theorem holdSwitches_kept (d) {s : State} {q : List Instr} {k : Nat} (h : Kept q k s) :
    Kept q k (holdSwitches d s) := by
  delta holdSwitches
  repeat' first
    | with_reducible assumption
    | (lift_lets -underBinder; intro x; subst x)
    | refine kept_mk ?_ rfl rfl rfl rfl rfl rfl rfl rfl rfl

theorem volResizeH_kept (p) {s : State} {q : List Instr} {k : Nat} (h : Kept q k s) :
    Kept q k (volResizeH p s).2 := by
  delta volResizeH
  repeat' first
    | with_reducible assumption
    | (lift_lets -underBinder; intro x; subst x)
    | (intro x; subst x)
    | intro _
    | with_reducible apply kept_ite2
    | with_reducible apply refuse_kept
    | with_reducible apply withJob_kept
    | split
    | refine kept_mk ?_ rfl rfl rfl rfl rfl rfl rfl rfl rfl

theorem reInsert_kept (e) {s : State} {q : List Instr} {k : Nat} (h : Kept q k s) :
    Kept q k (reInsert e s) := by
  delta reInsert
  repeat' first
    | with_reducible assumption
    | (lift_lets -underBinder; intro x; subst x)
    | (intro x; subst x)
    | split
    | refine kept_mk ?_ rfl rfl rfl rfl rfl rfl rfl rfl rfl

theorem refilter_kept {s : State} {q : List Instr} {k : Nat} (h : Kept q k s) :
    Kept q k (refilter s) := by
  delta refilter
  repeat' first
    | with_reducible assumption
    | (intro x; refine (fun (hx : Kept q k x) => ?_) ?_; clear_value x; rotate_left; subst x; rotate_right)
    | (lift_lets -underBinder; intro x; subst x)
    | (intro x; subst x)
    | with_reducible apply finishJob_kept
    | with_reducible apply reInsert_kept
    | with_reducible refine kept_foldl (fun _ _ _ => ?_) _ ?_
    | split
    | refine kept_mk ?_ rfl rfl rfl rfl rfl rfl rfl rfl rfl

theorem boundary_kept {s : State} {q : List Instr} {k : Nat} (h : Kept q k s) :
    Kept q k (boundary s) := by
  delta boundary
  repeat' first
    | with_reducible assumption
    | (intro x; refine (fun (hx : Kept q k x) => ?_) ?_; clear_value x; rotate_left; subst x; rotate_right)
    | (lift_lets -underBinder; intro x; subst x)
    | (intro x; subst x)
    | with_reducible apply kept_ite
    | with_reducible apply cutBatches_kept
    | with_reducible apply cutJobs_kept
    | with_reducible apply cutPoints_kept
    | with_reducible apply deleteJobs_kept
    | with_reducible apply deleteVol_kept
    | with_reducible apply finishJob_kept
    | with_reducible apply refilter_kept
    | with_reducible apply resizeVol_kept
    | with_reducible apply rotationsBegin_kept
    | with_reducible refine kept_foldl (fun _ _ _ => ?_) _ ?_
    | split
    | refine kept_mk ?_ rfl rfl rfl rfl rfl rfl rfl rfl rfl

theorem recheckMoved_kept {s : State} {q : List Instr} {k : Nat} (h : Kept q k s) :
    Kept q k (recheckMoved s) := by
  delta recheckMoved
  repeat' first
    | with_reducible assumption
    | with_reducible apply kept_ite
    | with_reducible apply endWriter_kept
    | with_reducible refine kept_foldl (fun _ _ _ => ?_) _ ?_
    | split

theorem epochAdvance_kept {s : State} {q : List Instr} {k : Nat} (h : Kept q k s) :
    Kept q k (epochAdvance s) := by
  delta epochAdvance
  repeat' first
    | with_reducible assumption
    | (lift_lets -underBinder; intro x; refine (fun (hx : Kept q k x) => ?_) ?_; clear_value x; rotate_left; subst x; rotate_right)
    | with_reducible apply kept_ite
    | with_reducible apply admitAll_kept
    | with_reducible apply boundary_kept
    | with_reducible apply epochBegin_kept
    | with_reducible apply epochMark_kept
    | with_reducible apply recheckMoved_kept

theorem volListH_kept (p) {s : State} {q : List Instr} {k : Nat} (h : Kept q k s) :
    Kept q k (volListH p s).2 := by
  delta volListH
  repeat' first
    | with_reducible assumption

theorem domByteVerifyH_kept (p) {s : State} {q : List Instr} {k : Nat} (h : Kept q k s) :
    Kept q k (domByteVerifyH p s).2 := by
  delta domByteVerifyH
  repeat' first
    | with_reducible assumption
    | (lift_lets -underBinder; intro x; subst x)
    | with_reducible apply kept_ite2
    | with_reducible apply changeArray_kept
    | with_reducible apply holdSwitches_kept
    | with_reducible apply refuse_kept
    | split

theorem domPolicyH_kept (p) {s : State} {q : List Instr} {k : Nat} (h : Kept q k s) :
    Kept q k (domPolicyH p s).2 := by
  delta domPolicyH
  repeat' first
    | with_reducible assumption
    | (lift_lets -underBinder; intro x; subst x)
    | (intro x; subst x)
    | intro _
    | with_reducible apply kept_ite2
    | with_reducible apply changeArray_kept
    | with_reducible apply holdSwitches_kept
    | with_reducible apply refuse_kept
    | with_reducible apply withJob_kept
    | split
    | refine kept_mk ?_ rfl rfl rfl rfl rfl rfl rfl rfl rfl

theorem volCreateH_kept (p) {s : State} {q : List Instr} {k : Nat} (h : Kept q k s) :
    Kept q k (volCreateH p s).2 := by
  delta volCreateH
  repeat' first
    | with_reducible assumption
    | (intro x; refine (fun (hx : Kept q k x) => ?_) ?_; clear_value x; rotate_left; subst x; rotate_right)
    | (lift_lets -underBinder; intro x; subst x)
    | (intro x; subst x)
    | with_reducible apply kept_ite2
    | with_reducible apply changeArray_kept
    | with_reducible apply refuse_kept
    | split
    | refine kept_mk ?_ rfl rfl rfl rfl rfl rfl rfl rfl rfl

theorem domCreateH_kept (p) {s : State} {q : List Instr} {k : Nat} (h : Kept q k s) :
    Kept q k (domCreateH p s).2 := by
  delta domCreateH
  repeat' first
    | with_reducible assumption
    | (intro x; refine (fun (hx : Kept q k x) => ?_) ?_; clear_value x; rotate_left; subst x; rotate_right)
    | (lift_lets -underBinder; intro x; subst x)
    | (intro x; subst x)
    | with_reducible apply kept_ite2
    | with_reducible apply blobRefused_kept
    | with_reducible apply blobRefusedOf_kept
    | with_reducible apply changeArray_kept
    | with_reducible apply draw_kept
    | with_reducible apply drbgRequest_kept
    | with_reducible apply loadPair_kept
    | with_reducible apply refuse_kept
    | split
    | refine kept_mk ?_ rfl rfl rfl rfl rfl rfl rfl rfl rfl

theorem volDeleteH_kept (p) {s : State} {q : List Instr} {k : Nat} (h : Kept q k s) :
    Kept q k (volDeleteH p s).2 := by
  delta volDeleteH
  repeat' first
    | with_reducible assumption
    | (lift_lets -underBinder; intro x; subst x)
    | (intro x; subst x)
    | intro _
    | with_reducible apply kept_ite2
    | with_reducible apply refuse_kept
    | with_reducible apply withJob_kept
    | refine kept_mk ?_ rfl rfl rfl rfl rfl rfl rfl rfl rfl

end Sys2Proof.Machine
end

