-- ==== Sys2Proof/Laws/KeptSettle.lean ====
section
/-!
SUPPORT. Laws/KeptSettle.lean: that what follows a command, checkpoints, restart and the shelf commands carry the queue, the invariant of the head
and the rollback count from state to state (Kept), one lemma for each operation.
-/
namespace Sys2Proof.Machine

/-! ### Machine/Settle.lean -/

theorem settleRound_kept {s : State} {q : List Instr} {k : Nat} (h : Kept q k s) :
    Kept q k (settleRound s) := by
  delta settleRound
  repeat' first
    | with_reducible assumption
    | (lift_lets -underBinder; intro x; refine (fun (hx : Kept q k x) => ?_) ?_; clear_value x; rotate_left; subst x; rotate_right)
    | (intro x; refine (fun (hx : Kept q k x) => ?_) ?_; clear_value x; rotate_left; subst x; rotate_right)
    | with_reducible apply kept_ite
    | with_reducible apply dropsAdvance_kept
    | with_reducible apply epochAdvance_kept
    | with_reducible apply failWaiting_kept
    | with_reducible apply freeDrained_kept
    | with_reducible apply ingestAdvance_kept
    | with_reducible apply kekCheck_kept
    | with_reducible apply mediaAdvance_kept
    | with_reducible apply mirrorWaiting_kept
    | with_reducible apply postReady_kept
    | with_reducible apply readsAdvance_kept
    | with_reducible apply readsArrived_kept
    | with_reducible apply recallsAdvance_kept
    | with_reducible apply releaseLoose_kept
    | with_reducible apply replAdvance_kept
    | with_reducible apply rotationsEnd_kept
    | with_reducible apply trimPages_kept
    | with_reducible apply untrackedAdvance_kept

theorem settle_kept {s : State} {q : List Instr} {k : Nat} (h : Kept q k s) :
    Kept q k (settle s) := by
  delta settle
  repeat' first
    | with_reducible assumption
    | with_reducible apply kept_ite
    | with_reducible apply settleRound_kept

theorem idleTick_kept {s : State} {q : List Instr} {k : Nat} (h : Kept q k s) :
    Kept q k (idleTick s) := by
  delta idleTick
  repeat' first
    | with_reducible assumption
    | with_reducible apply dramTick_kept
    | with_reducible apply loadNext_kept

/-! ### Machine/Checkpoint.lean -/

theorem checkpointStart_kept {s : State} {q : List Instr} {k : Nat} (h : Kept q k s) :
    Kept q k (checkpointStart s) := by
  delta checkpointStart
  repeat' first
    | with_reducible assumption
    | (lift_lets -underBinder; intro x; refine (fun (hx : Kept q k x) => ?_) ?_; clear_value x; rotate_left; subst x; rotate_right)
    | (intro x; refine (fun (hx : Kept q k x) => ?_) ?_; clear_value x; rotate_left; subst x; rotate_right)
    | (lift_lets -underBinder; intro x; subst x)
    | (intro x; subst x)
    | with_reducible apply kept_ite
    | with_reducible apply applyCovered_kept
    | with_reducible apply padShelf_kept
    | with_reducible apply writeLoose_kept
    | with_reducible refine kept_foldl (fun _ _ _ => ?_) _ ?_
    | split
    | refine kept_snd (by with_reducible assumption) ?_
    | refine kept_mk ?_ rfl rfl rfl rfl rfl rfl rfl rfl rfl

theorem writeIndex_kept (run) {s : State} {q : List Instr} {k : Nat} (h : Kept q k s) :
    Kept q k (writeIndex run s) := by
  delta writeIndex
  repeat' first
    | with_reducible assumption
    | (lift_lets -underBinder; intro x; refine (fun (hx : Kept q k x) => ?_) ?_; clear_value x; rotate_left; subst x; rotate_right)
    | (lift_lets -underBinder; intro x; subst x)
    | with_reducible apply kept_ite
    | with_reducible apply emit_kept
    | with_reducible refine kept_foldl (fun _ _ _ => ?_) _ ?_
    | split
    | refine kept_mk ?_ rfl rfl rfl rfl rfl rfl rfl rfl rfl

theorem checkpointComplete_kept {s : State} {q : List Instr} {k : Nat} (h : Kept q k s) :
    Kept q k (checkpointComplete s) := by
  delta checkpointComplete
  repeat' first
    | with_reducible assumption
    | (intro x; refine (fun (hx : Kept q k x) => ?_) ?_; clear_value x; rotate_left; subst x; rotate_right)
    | (lift_lets -underBinder; intro x; subst x)
    | (intro x; subst x)
    | with_reducible apply applyCovered_kept
    | with_reducible apply eraseSet_kept
    | with_reducible apply modOwn_kept
    | with_reducible apply writeIndex_kept
    | with_reducible refine kept_foldl (fun _ _ _ => ?_) _ ?_
    | split
    | refine kept_mk ?_ rfl rfl rfl rfl rfl rfl rfl rfl rfl

/-! ### Machine/Restart.lean -/

theorem hearsArray_kept (m) {s : State} {q : List Instr} {k : Nat} (h : Kept q k s) :
    Kept q k (hearsArray m s) := by
  delta hearsArray
  repeat' first
    | with_reducible assumption
    | with_reducible apply kept_ite
    | with_reducible apply startJoin_kept

theorem journalLost_kept {s : State} {q : List Instr} {k : Nat} (h : Kept q k s) :
    Kept q k (journalLost s) := by
  delta journalLost
  repeat' first
    | with_reducible assumption
    | (intro x; refine (fun (hx : Kept q k x) => ?_) ?_; clear_value x; rotate_left; subst x; rotate_right)
    | (lift_lets -underBinder; intro x; subst x)
    | (intro x; subst x)
    | with_reducible apply markVols_kept
    | refine kept_mk ?_ rfl rfl rfl rfl rfl rfl rfl rfl rfl

theorem bothLost_kept {s : State} (kv) (peer) {q : List Instr} {k : Nat} (h : Kept q k s) :
    Kept q k (bothLost s kv peer) := by
  delta bothLost
  repeat' first
    | with_reducible assumption
    | with_reducible apply kept_ite
    | with_reducible apply journalLost_kept

theorem goAlone_kept {s : State} {q : List Instr} {k : Nat} (h : Kept q k s) :
    Kept q k (goAlone s) := by
  delta goAlone
  repeat' first
    | with_reducible assumption
    | (lift_lets -underBinder; intro x; refine (fun (hx : Kept q k x) => ?_) ?_; clear_value x; rotate_left; subst x; rotate_right)
    | (intro x; subst x)
    | with_reducible apply kept_ite
    | with_reducible apply assertGood_kept
    | refine kept_mk ?_ rfl rfl rfl rfl rfl rfl rfl rfl rfl

theorem restartReply_kept (m) {s : State} {q : List Instr} {k : Nat} (h : Kept q k s) :
    Kept q k (restartReply m s) := by
  delta restartReply
  repeat' first
    | with_reducible assumption
    | with_reducible apply kept_ite
    | with_reducible apply bothLost_kept
    | with_reducible apply goAlone_kept
    | with_reducible apply startJoin_kept
    | split

theorem returnHears_kept (m) {s : State} {q : List Instr} {k : Nat} (h : Kept q k s) :
    Kept q k (returnHears m s) := by
  delta returnHears
  repeat' first
    | with_reducible assumption
    | (lift_lets -underBinder; intro x; subst x)
    | (intro x; subst x)
    | with_reducible apply kept_ite
    | with_reducible apply startJoin_kept

theorem survivorHears_kept (m) {s : State} {q : List Instr} {k : Nat} (h : Kept q k s) :
    Kept q k (survivorHears m s) := by
  delta survivorHears
  repeat' first
    | with_reducible assumption
    | (lift_lets -underBinder; intro x; subst x)
    | (intro x; subst x)
    | with_reducible apply kept_ite
    | with_reducible apply acceptRejoin_kept
    | with_reducible apply recordSerial_kept

theorem tryPair_kept {s : State} {q : List Instr} {k : Nat} (h : Kept q k s) :
    Kept q k (tryPair s) := by
  delta tryPair
  repeat' first
    | with_reducible assumption
    | with_reducible apply kept_ite
    | with_reducible apply hearsArray_kept
    | with_reducible apply restartReply_kept
    | with_reducible apply returnHears_kept
    | with_reducible apply survivorHears_kept
    | split

theorem helloIn_kept (m) {s : State} {q : List Instr} {k : Nat} (h : Kept q k s) :
    Kept q k (helloIn m s) := by
  delta helloIn
  repeat' first
    | with_reducible assumption
    | (intro x; refine (fun (hx : Kept q k x) => ?_) ?_; clear_value x; rotate_left; subst x; rotate_right)
    | (lift_lets -underBinder; intro x; subst x)
    | (intro x; subst x)
    | with_reducible apply kept_ite
    | with_reducible apply sendHello_kept
    | with_reducible apply sendReceipt_kept
    | with_reducible apply tryJoin_kept
    | with_reducible apply tryPair_kept
    | split
    | refine kept_mk ?_ rfl rfl rfl rfl rfl rfl rfl rfl rfl

theorem shutBands_kept {s : State} {q : List Instr} {k : Nat} (h : Kept q k s) :
    Kept q k (shutBands s) := by
  delta shutBands
  repeat' first
    | with_reducible assumption
    | (lift_lets -underBinder; intro x; refine (fun (hx : Kept q k x) => ?_) ?_; clear_value x; rotate_left; subst x; rotate_right)
    | (intro x; refine (fun (hx : Kept q k x) => ?_) ?_; clear_value x; rotate_left; subst x; rotate_right)
    | (lift_lets -underBinder; intro x; subst x)
    | (intro x; subst x)
    | with_reducible apply modRow_kept
    | with_reducible apply modSet_kept
    | with_reducible refine kept_foldl (fun _ _ _ => ?_) _ ?_
    | split
    | refine kept_mk ?_ rfl rfl rfl rfl rfl rfl rfl rfl rfl

theorem dropDiscarded_kept {s : State} {q : List Instr} {k : Nat} (h : Kept q k s) :
    Kept q k (dropDiscarded s) := by
  delta dropDiscarded
  repeat' first
    | with_reducible assumption
    | (lift_lets -underBinder; intro x; subst x)
    | with_reducible apply kept_ite
    | with_reducible apply drainRecs_kept
    | with_reducible refine kept_foldl (fun _ _ _ => ?_) _ ?_

theorem indexUnit_kept (recs) (asn) (unit) {s : State} {q : List Instr} {k : Nat} (h : Kept q k s) :
    Kept q k (indexUnit recs asn unit s) := by
  delta indexUnit
  repeat' first
    | with_reducible assumption
    | (lift_lets -underBinder; intro x; subst x)
    | with_reducible apply kept_ite
    | with_reducible apply insertIndex_kept
    | with_reducible refine kept_foldl (fun _ _ _ => ?_) _ ?_
    | split

theorem redrain_kept {s : State} {q : List Instr} {k : Nat} (h : Kept q k s) :
    Kept q k (redrain s) := by
  delta redrain
  repeat' first
    | with_reducible assumption
    | (lift_lets -underBinder; intro x; subst x)
    | refine kept_mk ?_ rfl rfl rfl rfl rfl rfl rfl rfl rfl

theorem replayCmd_kept (asn) (us) {s : State} {q : List Instr} {k : Nat} (h : Kept q k s) :
    Kept q k (replayCmd asn us s) := by
  delta replayCmd
  repeat' first
    | with_reducible assumption
    | (intro x; refine (fun (hx : Kept q k x) => ?_) ?_; clear_value x; rotate_left; subst x; rotate_right)
    | (lift_lets -underBinder; intro x; subst x)
    | (intro x; subst x)
    | with_reducible apply kept_ite
    | with_reducible apply kept_ite2
    | with_reducible apply applyUnit_kept
    | with_reducible apply draw_kept
    | with_reducible apply enterReplay_kept
    | with_reducible apply indexUnit_kept
    | with_reducible refine kept_foldl2 (fun _ _ _ => ?_) _ ?_
    | split
    | refine kept_mk ?_ rfl rfl rfl rfl rfl rfl rfl rfl rfl

theorem replayOwn_kept {s : State} {q : List Instr} {k : Nat} (h : Kept q k s) :
    Kept q k (replayOwn s) := by
  delta replayOwn
  repeat' first
    | with_reducible assumption
    | (lift_lets -underBinder; intro x; refine (fun (hx : Kept q k x) => ?_) ?_; clear_value x; rotate_left; subst x; rotate_right)
    | (intro x; refine (fun (hx : Kept q k x) => ?_) ?_; clear_value x; rotate_left; subst x; rotate_right)
    | (intro x; subst x)
    | with_reducible apply dropDiscarded_kept
    | with_reducible apply indexUnit_kept
    | with_reducible apply redrain_kept
    | with_reducible apply replayCmd_kept
    | with_reducible apply setOwner_kept
    | with_reducible refine kept_foldl (fun _ _ _ => ?_) _ ?_
    | split

theorem arrayRead_kept (record) {s : State} {q : List Instr} {k : Nat} (h : Kept q k s) :
    Kept q k (arrayRead record s) := by
  delta arrayRead
  repeat' first
    | with_reducible assumption
    | (intro x; refine (fun (hx : Kept q k x) => ?_) ?_; clear_value x; rotate_left; subst x; rotate_right)
    | (lift_lets -underBinder; intro x; subst x)
    | (intro x; subst x)
    | with_reducible apply kept_ite
    | with_reducible apply leaveRel_kept
    | with_reducible apply setSizes_kept
    | with_reducible refine kept_foldl (fun _ _ _ => ?_) _ ?_
    | refine kept_mk ?_ rfl rfl rfl rfl rfl rfl rfl rfl rfl

theorem adoptArray_kept (m) {s : State} {q : List Instr} {k : Nat} (h : Kept q k s) :
    Kept q k (adoptArray m s) := by
  delta adoptArray
  repeat' first
    | with_reducible assumption
    | (lift_lets -underBinder; intro x; subst x)
    | (intro x; subst x)
    | refine kept_mk ?_ rfl rfl rfl rfl rfl rfl rfl rfl rfl

theorem pairAgain_kept (m) {s : State} {q : List Instr} {k : Nat} (h : Kept q k s) :
    Kept q k (pairAgain m s) := by
  delta pairAgain
  repeat' first
    | with_reducible assumption
    | (intro x; refine (fun (hx : Kept q k x) => ?_) ?_; clear_value x; rotate_left; subst x; rotate_right)
    | (lift_lets -underBinder; intro x; subst x)
    | (intro x; subst x)
    | with_reducible apply kept_ite
    | with_reducible apply bothLost_kept
    | split
    | refine kept_mk ?_ rfl rfl rfl rfl rfl rfl rfl rfl rfl

theorem endJoin_kept {s : State} {q : List Instr} {k : Nat} (h : Kept q k s) :
    Kept q k (endJoin s) := by
  delta endJoin
  repeat' first
    | with_reducible assumption
    | (intro x; refine (fun (hx : Kept q k x) => ?_) ?_; clear_value x; rotate_left; subst x; rotate_right)
    | (lift_lets -underBinder; intro x; subst x)
    | with_reducible apply kept_ite
    | with_reducible apply acceptReturn_kept
    | with_reducible apply adoptArray_kept
    | with_reducible apply finishJob_kept
    | with_reducible apply pairAgain_kept
    | with_reducible apply sendHello_kept
    | split
    | refine kept_mk ?_ rfl rfl rfl rfl rfl rfl rfl rfl rfl

theorem beginCompaction_kept {s : State} {q : List Instr} {k : Nat} (h : Kept q k s) :
    Kept q k (beginCompaction s) := by
  delta beginCompaction
  repeat' first
    | with_reducible assumption
    | (lift_lets -underBinder; intro x; subst x)
    | (intro x; subst x)
    | refine kept_mk ?_ rfl rfl rfl rfl rfl rfl rfl rfl rfl

theorem remirror_kept {s : State} {q : List Instr} {k : Nat} (h : Kept q k s) :
    Kept q k (remirror s) := by
  delta remirror
  repeat' first
    | with_reducible assumption
    | with_reducible apply kept_ite
    | with_reducible apply mirrorRec_kept
    | with_reducible refine kept_foldl (fun _ _ _ => ?_) _ ?_

theorem heartbeatIn_kept (n) (m) {s : State} {q : List Instr} {k : Nat} (h : Kept q k s) :
    Kept q k (heartbeatIn n m s) := by
  delta heartbeatIn
  repeat' first
    | with_reducible assumption
    | (intro x; refine (fun (hx : Kept q k x) => ?_) ?_; clear_value x; rotate_left; subst x; rotate_right)
    | (lift_lets -underBinder; intro x; subst x)
    | (intro x; subst x)
    | with_reducible apply kept_ite
    | with_reducible apply record_kept
    | with_reducible apply returnCheck_kept
    | with_reducible apply sendHello_kept
    | with_reducible apply setFport_kept
    | with_reducible apply tryJoin_kept
    | with_reducible apply tryPair_kept
    | refine kept_mk ?_ rfl rfl rfl rfl rfl rfl rfl rfl rfl

theorem replayDone_kept {s : State} {q : List Instr} {k : Nat} (h : Kept q k s) :
    Kept q k (replayDone s) := by
  delta replayDone
  repeat' first
    | with_reducible assumption
    | (lift_lets -underBinder; intro x; refine (fun (hx : Kept q k x) => ?_) ?_; clear_value x; rotate_left; subst x; rotate_right)
    | (intro x; refine (fun (hx : Kept q k x) => ?_) ?_; clear_value x; rotate_left; subst x; rotate_right)
    | (intro x; subst x)
    | with_reducible apply kept_ite
    | with_reducible apply reconcileMirror_kept
    | with_reducible apply remirror_kept
    | with_reducible apply replayOwn_kept
    | with_reducible apply restoreHolds_kept
    | refine kept_mk ?_ rfl rfl rfl rfl rfl rfl rfl rfl rfl

theorem beginRestart_kept (kv) {s : State} {q : List Instr} {k : Nat} (h : Kept q k s) :
    Kept q k (beginRestart kv s) := by
  delta beginRestart
  repeat' first
    | with_reducible assumption
    | (intro x; refine (fun (hx : Kept q k x) => ?_) ?_; clear_value x; rotate_left; subst x; rotate_right)
    | (lift_lets -underBinder; intro x; subst x)
    | (intro x; subst x)
    | with_reducible apply sendHello_kept
    | refine kept_mk ?_ rfl rfl rfl rfl rfl rfl rfl rfl rfl

theorem peerWaitExpiry_kept {s : State} {q : List Instr} {k : Nat} (h : Kept q k s) :
    Kept q k (peerWaitExpiry s) := by
  delta peerWaitExpiry
  repeat' first
    | with_reducible assumption
    | with_reducible apply goAlone_kept
    | with_reducible apply note_kept
    | split

theorem forceAlone_kept {s : State} {q : List Instr} {k : Nat} (h : Kept q k s) :
    Kept q k (forceAlone s) := by
  delta forceAlone
  repeat' first
    | with_reducible assumption
    | with_reducible apply kept_ite
    | with_reducible apply goAlone_kept
    | with_reducible apply journalLost_kept

/-! ### Machine/ShelfCmds.lean -/

theorem gcForceH_kept (p) {s : State} {q : List Instr} {k : Nat} (h : Kept q k s) :
    Kept q k (gcForceH p s).2 := by
  delta gcForceH
  repeat' first
    | with_reducible assumption
    | (intro x; refine (fun (hx : Kept q k x) => ?_) ?_; clear_value x; rotate_left; subst x; rotate_right)
    | (lift_lets -underBinder; intro x; subst x)
    | (intro x; subst x)
    | intro _
    | with_reducible apply kept_ite
    | with_reducible apply kept_ite2
    | with_reducible apply finishJob_kept
    | with_reducible apply refuse_kept
    | with_reducible apply startGc_kept
    | with_reducible apply withJob_kept
    | with_reducible refine kept_foldl (fun _ _ _ => ?_) _ ?_
    | split
    | refine kept_mk ?_ rfl rfl rfl rfl rfl rfl rfl rfl rfl

theorem scrubNowH_kept (p) {s : State} {q : List Instr} {k : Nat} (h : Kept q k s) :
    Kept q k (scrubNowH p s).2 := by
  delta scrubNowH
  repeat' first
    | with_reducible assumption
    | (lift_lets -underBinder; intro x; refine (fun (hx : Kept q k x) => ?_) ?_; clear_value x; rotate_left; subst x; rotate_right)
    | (intro x; refine (fun (hx : Kept q k x) => ?_) ?_; clear_value x; rotate_left; subst x; rotate_right)
    | (lift_lets -underBinder; intro x; subst x)
    | (intro x; subst x)
    | intro _
    | with_reducible apply kept_ite
    | with_reducible apply kept_ite2
    | with_reducible apply addItem_kept
    | with_reducible apply refuse_kept
    | with_reducible apply startInspect_kept
    | with_reducible apply withJob_kept
    | refine kept_mk ?_ rfl rfl rfl rfl rfl rfl rfl rfl rfl

theorem retentionDue_kept (g) {s : State} {q : List Instr} {k : Nat} (h : Kept q k s) :
    Kept q k (retentionDue g s) := by
  delta retentionDue
  repeat' first
    | with_reducible assumption
    | with_reducible apply kept_ite
    | with_reducible apply addItem_kept
    | with_reducible apply planInspect_kept

theorem blockRetireH_kept (p) {s : State} {q : List Instr} {k : Nat} (h : Kept q k s) :
    Kept q k (blockRetireH p s).2 := by
  delta blockRetireH
  repeat' first
    | with_reducible assumption
    | (lift_lets -underBinder; intro x; subst x)
    | (intro x; subst x)
    | intro _
    | with_reducible apply kept_ite2
    | with_reducible apply finishJob_kept
    | with_reducible apply refuse_kept
    | with_reducible apply retireBlock_kept
    | with_reducible apply withJob_kept
    | split

theorem endHold_kept (g) {s : State} {q : List Instr} {k : Nat} (h : Kept q k s) :
    Kept q k (endHold g s) := by
  delta endHold
  repeat' first
    | with_reducible assumption
    | (intro x; refine (fun (hx : Kept q k x) => ?_) ?_; clear_value x; rotate_left; subst x; rotate_right)
    | (lift_lets -underBinder; intro x; subst x)
    | with_reducible apply kept_ite
    | with_reducible apply setShelf_kept
    | with_reducible apply startClose_kept

theorem mediaPolicyH_kept (b) {s : State} {q : List Instr} {k : Nat} (h : Kept q k s) :
    Kept q k (mediaPolicyH b s).2 := by
  delta mediaPolicyH
  repeat' first
    | with_reducible assumption
    | (lift_lets -underBinder; intro x; subst x)
    | (intro x; subst x)
    | with_reducible apply kept_ite2
    | with_reducible apply changeArray_kept
    | with_reducible apply note_kept
    | with_reducible apply refuse_kept

theorem holdLapse_kept (g) {s : State} {q : List Instr} {k : Nat} (h : Kept q k s) :
    Kept q k (holdLapse g s) := by
  delta holdLapse
  repeat' first
    | with_reducible assumption
    | with_reducible apply kept_ite
    | with_reducible apply endHold_kept

theorem mediaStatusH_kept (p) {s : State} {q : List Instr} {k : Nat} (h : Kept q k s) :
    Kept q k (mediaStatusH p s).2 := by
  delta mediaStatusH
  repeat' first
    | with_reducible assumption
    | (lift_lets -underBinder; intro x; subst x)
    | (intro x; subst x)
    | with_reducible apply kept_ite2
    | with_reducible apply refuse_kept

theorem homeShelfSetH_kept (p) {s : State} {q : List Instr} {k : Nat} (h : Kept q k s) :
    Kept q k (homeShelfSetH p s).2 := by
  delta homeShelfSetH
  repeat' first
    | with_reducible assumption
    | (intro x; refine (fun (hx : Kept q k x) => ?_) ?_; clear_value x; rotate_left; subst x; rotate_right)
    | (lift_lets -underBinder; intro x; subst x)
    | intro _
    | with_reducible apply kept_ite
    | with_reducible apply kept_ite2
    | with_reducible apply grantWake_kept
    | with_reducible apply refuse_kept
    | with_reducible apply wantWake_kept
    | with_reducible apply withJob_kept
    | with_reducible refine kept_foldl (fun _ _ _ => ?_) _ ?_
    | refine kept_mk ?_ rfl rfl rfl rfl rfl rfl rfl rfl rfl

theorem holdsLapse_kept {s : State} {q : List Instr} {k : Nat} (h : Kept q k s) :
    Kept q k (holdsLapse s) := by
  delta holdsLapse
  repeat' first
    | with_reducible assumption
    | (intro x; refine (fun (hx : Kept q k x) => ?_) ?_; clear_value x; rotate_left; subst x; rotate_right)
    | (lift_lets -underBinder; intro x; subst x)
    | with_reducible apply endHold_kept
    | with_reducible apply unforce_kept
    | with_reducible refine kept_foldl (fun _ _ _ => ?_) _ ?_
    | refine kept_mk ?_ rfl rfl rfl rfl rfl rfl rfl rfl rfl

theorem shelfStatusH_kept (p) {s : State} {q : List Instr} {k : Nat} (h : Kept q k s) :
    Kept q k (shelfStatusH p s).2 := by
  delta shelfStatusH
  repeat' first
    | with_reducible assumption
    | (lift_lets -underBinder; intro x; subst x)
    | (intro x; subst x)
    | with_reducible apply kept_ite2
    | with_reducible apply refuse_kept

theorem shelfSleepH_kept (p) {s : State} {q : List Instr} {k : Nat} (h : Kept q k s) :
    Kept q k (shelfSleepH p s).2 := by
  delta shelfSleepH
  repeat' first
    | with_reducible assumption
    | (lift_lets -underBinder; intro x; subst x)
    | (intro x; subst x)
    | intro _
    | with_reducible apply kept_ite2
    | with_reducible apply refuse_kept
    | with_reducible apply setShelf_kept
    | with_reducible apply withJob_kept

theorem shelfHardenH_kept (p) {s : State} {q : List Instr} {k : Nat} (h : Kept q k s) :
    Kept q k (shelfHardenH p s).2 := by
  delta shelfHardenH
  repeat' first
    | with_reducible assumption
    | (lift_lets -underBinder; intro x; subst x)
    | intro _
    | with_reducible apply kept_ite
    | with_reducible apply kept_ite2
    | with_reducible apply closeBand_kept
    | with_reducible apply refuse_kept
    | with_reducible apply withJob_kept

theorem shelfWakeH_kept (p) {s : State} {q : List Instr} {k : Nat} (h : Kept q k s) :
    Kept q k (shelfWakeH p s).2 := by
  delta shelfWakeH
  repeat' first
    | with_reducible assumption
    | (intro x; refine (fun (hx : Kept q k x) => ?_) ?_; clear_value x; rotate_left; subst x; rotate_right)
    | (lift_lets -underBinder; intro x; subst x)
    | (intro x; subst x)
    | intro _
    | with_reducible apply kept_ite2
    | with_reducible apply force_kept
    | with_reducible apply grantWake_kept
    | with_reducible apply refuse_kept
    | with_reducible apply setShelf_kept
    | with_reducible apply wantWake_kept
    | with_reducible apply withJob_kept
    | split

end Sys2Proof.Machine
end

