-- ==== Sys2Proof/Laws/KeptPower.lean ====
section
/-!
SUPPORT. Laws/KeptPower.lean: that the Gatehouse, resets and the boot carry the queue, the invariant of the head
and the rollback count from state to state (Kept), one lemma for each operation.
-/
namespace Sys2Proof.Machine

/-! ### Machine/Avs.lean -/

theorem setAvsQ_kept (b) (a1) {s : State} {q : List Instr} {k : Nat} (h : Kept q k s) :
    Kept q k (setAvsQ b a1 s) := by
  delta setAvsQ
  repeat' first
    | with_reducible assumption
    | (lift_lets -underBinder; intro x; subst x)
    | split
    | refine kept_mk ?_ rfl rfl rfl rfl rfl rfl rfl rfl rfl

theorem avsSend_kept (b) {s : State} {q : List Instr} {k : Nat} (h : Kept q k s) :
    Kept q k (avsSend b s) := by
  delta avsSend
  repeat' first
    | with_reducible assumption
    | (lift_lets -underBinder; intro x; subst x)
    | with_reducible apply emit_kept
    | with_reducible apply setAvsQ_kept
    | split

theorem pushAvs_kept (r) (target) (why) {s : State} {q : List Instr} {k : Nat} (h : Kept q k s) :
    Kept q k (pushAvs r target why s) := by
  delta pushAvs
  repeat' first
    | with_reducible assumption
    | (intro x; refine (fun (hx : Kept q k x) => ?_) ?_; clear_value x; rotate_left; subst x; rotate_right)
    | (lift_lets -underBinder; intro x; subst x)
    | (intro x; subst x)
    | with_reducible apply kept_ite
    | with_reducible apply avsSend_kept
    | with_reducible apply setAvsQ_kept

theorem avsStart_kept (rail) (mv) {s : State} {q : List Instr} {k : Nat} (h : Kept q k s) :
    Kept q k (avsStart rail mv s) := by
  delta avsStart
  repeat' first
    | with_reducible assumption
    | (intro x; refine (fun (hx : Kept q k x) => ?_) ?_; clear_value x; rotate_left; subst x; rotate_right)
    | (lift_lets -underBinder; intro x; subst x)
    | with_reducible apply kept_ite
    | with_reducible apply pushAvs_kept
    | refine kept_mk ?_ rfl rfl rfl rfl rfl rfl rfl rfl rfl

theorem setMv_kept (r) (mv) {s : State} {q : List Instr} {k : Nat} (h : Kept q k s) :
    Kept q k (setMv r mv s) := by
  delta setMv
  repeat' first
    | with_reducible assumption
    | (lift_lets -underBinder; intro x; subst x)
    | refine kept_mk ?_ rfl rfl rfl rfl rfl rfl rfl rfl rfl

theorem railsOff_kept {s : State} {q : List Instr} {k : Nat} (h : Kept q k s) :
    Kept q k (railsOff s) := by
  delta railsOff
  repeat' first
    | with_reducible assumption
    | (intro x; refine (fun (hx : Kept q k x) => ?_) ?_; clear_value x; rotate_left; subst x; rotate_right)
    | (lift_lets -underBinder; intro x; subst x)
    | with_reducible apply kept_ite
    | with_reducible apply emit_kept
    | with_reducible apply setMv_kept
    | with_reducible refine kept_foldl (fun _ _ _ => ?_) _ ?_
    | refine kept_mk ?_ rfl rfl rfl rfl rfl rfl rfl rfl rfl

theorem popAvs_kept (b) {s : State} {q : List Instr} {k : Nat} (h : Kept q k s) :
    Kept q k (popAvs b s) := by
  delta popAvs
  repeat' first
    | with_reducible assumption
    | with_reducible apply avsSend_kept
    | with_reducible apply setAvsQ_kept

theorem avsPoll_kept (b) {s : State} {q : List Instr} {k : Nat} (h : Kept q k s) :
    Kept q k (avsPoll b s) := by
  delta avsPoll
  repeat' first
    | with_reducible assumption
    | with_reducible apply kept_ite
    | with_reducible apply emit_kept
    | split

/-! ### Machine/EndSession.lean -/

theorem setGpio_kept (a0) (g) {s : State} {q : List Instr} {k : Nat} (h : Kept q k s) :
    Kept q k (setGpio a0 g s) := by
  delta setGpio
  repeat' first
    | with_reducible assumption
    | (lift_lets -underBinder; intro x; subst x)
    | refine kept_mk ?_ rfl rfl rfl rfl rfl rfl rfl rfl rfl

theorem setTimer_kept (t) (v) {s : State} {q : List Instr} {k : Nat} (h : Kept q k s) :
    Kept q k (setTimer t v s) := by
  delta setTimer
  repeat' first
    | with_reducible assumption
    | (lift_lets -underBinder; intro x; subst x)
    | refine kept_mk ?_ rfl rfl rfl rfl rfl rfl rfl rfl rfl

theorem setEn_kept (cls) (idx) (en) {s : State} {q : List Instr} {k : Nat} (h : Kept q k s) :
    Kept q k (setEn cls idx en s) := by
  delta setEn
  repeat' first
    | with_reducible assumption
    | (lift_lets -underBinder; intro x; subst x)
    | (intro x; subst x)
    | with_reducible apply kept_ite
    | with_reducible apply lockCut_kept
    | with_reducible apply lockEnable_kept
    | with_reducible apply monEnable_kept
    | with_reducible apply monStop_kept
    | with_reducible apply setGpio_kept
    | with_reducible apply setTimer_kept
    | split

theorem avsLapse_kept {s : State} {q : List Instr} {k : Nat} (h : Kept q k s) :
    Kept q k (avsLapse s) := by
  delta avsLapse
  repeat' first
    | with_reducible assumption
    | with_reducible apply kept_ite
    | with_reducible apply pushAvs_kept
    | with_reducible apply unforce_kept
    | with_reducible refine kept_foldl (fun _ _ _ => ?_) _ ?_

theorem qosLapse_kept {s : State} {q : List Instr} {k : Nat} (h : Kept q k s) :
    Kept q k (qosLapse s) := by
  delta qosLapse
  repeat' first
    | with_reducible assumption
    | (lift_lets -underBinder; intro x; subst x)
    | refine kept_mk ?_ rfl rfl rfl rfl rfl rfl rfl rfl rfl

theorem disableRes_kept (bits) (cls) (idx) {s : State} {q : List Instr} {k : Nat} (h : Kept q k s) :
    Kept q k (disableRes bits cls idx s) := by
  delta disableRes
  repeat' first
    | with_reducible assumption
    | (intro x; refine (fun (hx : Kept q k x) => ?_) ?_; clear_value x; rotate_left; subst x; rotate_right)
    | (lift_lets -underBinder; intro x; subst x)
    | (intro x; subst x)
    | with_reducible apply kept_ite
    | with_reducible apply dgtRelease_kept
    | with_reducible apply monStop_kept
    | with_reducible apply setDgt_kept
    | with_reducible apply setEn_kept
    | refine kept_mk ?_ rfl rfl rfl rfl rfl rfl rfl rfl rfl

theorem releaseClaim_kept (key) {s : State} {q : List Instr} {k : Nat} (h : Kept q k s) :
    Kept q k (releaseClaim key s) := by
  delta releaseClaim
  repeat' first
    | with_reducible assumption
    | (intro x; refine (fun (hx : Kept q k x) => ?_) ?_; clear_value x; rotate_left; subst x; rotate_right)
    | (lift_lets -underBinder; intro x; subst x)
    | (intro x; subst x)
    | with_reducible apply kept_ite
    | with_reducible apply disableRes_kept
    | with_reducible apply dropClaim_kept

theorem wakeLapse_kept {s : State} {q : List Instr} {k : Nat} (h : Kept q k s) :
    Kept q k (wakeLapse s) := by
  delta wakeLapse
  repeat' first
    | with_reducible assumption
    | (lift_lets -underBinder; intro x; subst x)
    | with_reducible apply kept_ite
    | with_reducible apply unforce_kept
    | refine kept_mk ?_ rfl rfl rfl rfl rfl rfl rfl rfl rfl

theorem sessionLost_kept {s : State} {q : List Instr} {k : Nat} (h : Kept q k s) :
    Kept q k (sessionLost s) := by
  delta sessionLost
  repeat' first
    | with_reducible assumption
    | (lift_lets -underBinder; intro x; subst x)
    | with_reducible apply kept_ite
    | with_reducible apply avsLapse_kept
    | with_reducible apply qosLapse_kept
    | with_reducible apply releaseClaim_kept
    | with_reducible apply wakeLapse_kept
    | with_reducible refine kept_foldl (fun _ _ _ => ?_) _ ?_

theorem waysLapse_kept {s : State} {q : List Instr} {k : Nat} (h : Kept q k s) :
    Kept q k (waysLapse s) := by
  delta waysLapse
  repeat' first
    | with_reducible assumption
    | (intro x; refine (fun (hx : Kept q k x) => ?_) ?_; clear_value x; rotate_left; subst x; rotate_right)
    | (lift_lets -underBinder; intro x; subst x)
    | with_reducible apply kept_ite
    | with_reducible apply answerLate_kept
    | refine onCns_kept ?_ rfl
    | with_reducible apply unforce_kept
    | split

/-! ### Machine/Reset.lean -/

theorem dramDark_kept {s : State} {q : List Instr} {k : Nat} (h : Kept q k s) :
    Kept q k (dramDark s) := by
  delta dramDark
  repeat' first
    | with_reducible assumption
    | (lift_lets -underBinder; intro x; subst x)
    | refine kept_mk ?_ rfl rfl rfl rfl rfl rfl rfl rfl rfl

theorem lodgeReset_kept (dram) {q : List Instr} {k : Nat} {s : State} (h : Kept q k s) : Kept q k (lodgeReset dram s) := by
  delta lodgeReset
  have h' := shutBands_kept (dropWork_kept (sessionLost_kept h))
  generalize shutBands (dropWork (sessionLost s)) = t at h' ⊢
  refine ⟨h'.1, ⟨h'.2.1.chanMasks, reset_masks.2, rfl, h'.2.1.fuses, h'.2.1.cycles, h'.2.1.ring, ?_, reset_stores_wf.1, ?_⟩, h'.2.2⟩
  · show Memory.wf (if dram then t.sec.lodgeMem else []) = true
    split
    · exact h'.2.1.lodge
    · rfl
  · intro e he
    cases he

theorem bootFails_kept {s : State} {q : List Instr} {k : Nat} (h : Kept q k s) :
    Kept q k (bootFails s) := by
  delta bootFails
  repeat' first
    | with_reducible assumption
    | (intro x; refine (fun (hx : Kept q k x) => ?_) ?_; clear_value x; rotate_left; subst x; rotate_right)
    | (lift_lets -underBinder; intro x; subst x)
    | (intro x; subst x)
    | with_reducible apply railsOff_kept
    | with_reducible apply record_kept
    | with_reducible apply writeSummary_kept
    | refine kept_mk ?_ rfl rfl rfl rfl rfl rfl rfl rfl rfl

theorem trySlot_kept (a0) {s : State} {q : List Instr} {k : Nat} (h : Kept q k s) :
    Kept q k (trySlot a0 s) := by
  delta trySlot
  repeat' first
    | with_reducible assumption
    | (lift_lets -underBinder; intro x; subst x)
    | (intro x; subst x)
    | with_reducible apply setBoot_kept
    | refine kept_mk ?_ rfl rfl rfl rfl rfl rfl rfl rfl rfl

theorem bootFrom_kept (a0) (again) {s : State} {q : List Instr} {k : Nat} (h : Kept q k s) :
    Kept q k (bootFrom a0 again s) := by
  delta bootFrom
  repeat' first
    | with_reducible assumption
    | (intro x; refine (fun (hx : Kept q k x) => ?_) ?_; clear_value x; rotate_left; subst x; rotate_right)
    | (lift_lets -underBinder; intro x; subst x)
    | (intro x; subst x)
    | with_reducible apply kept_ite
    | with_reducible apply bootFails_kept
    | with_reducible apply trySlot_kept
    | refine kept_mk ?_ rfl rfl rfl rfl rfl rfl rfl rfl rfl

theorem bootStart_kept {s : State} {q : List Instr} {k : Nat} (h : Kept q k s) :
    Kept q k (bootStart s) := by
  delta bootStart
  repeat' first
    | with_reducible assumption
    | (intro x; refine (fun (hx : Kept q k x) => ?_) ?_; clear_value x; rotate_left; subst x; rotate_right)
    | (lift_lets -underBinder; intro x; subst x)
    | (intro x; subst x)
    | with_reducible apply kept_ite
    | with_reducible apply bootFrom_kept
    | refine kept_mk ?_ rfl rfl rfl rfl rfl rfl rfl rfl rfl

theorem dramResume_kept {s : State} {q : List Instr} {k : Nat} (h : Kept q k s) :
    Kept q k (dramResume s) := by
  delta dramResume
  repeat' first
    | with_reducible assumption
    | (intro x; refine (fun (hx : Kept q k x) => ?_) ?_; clear_value x; rotate_left; subst x; rotate_right)
    | (lift_lets -underBinder; intro x; subst x)
    | (intro x; subst x)
    | with_reducible apply kept_ite
    | with_reducible apply pauseRank_kept
    | with_reducible apply setDmc_kept
    | with_reducible refine kept_foldl (fun _ _ _ => ?_) _ ?_

theorem dramBoot_kept {s : State} {q : List Instr} {k : Nat} (h : Kept q k s) :
    Kept q k (dramBoot s) := by
  delta dramBoot
  repeat' first
    | with_reducible assumption
    | (intro x; refine (fun (hx : Kept q k x) => ?_) ?_; clear_value x; rotate_left; subst x; rotate_right)
    | (lift_lets -underBinder; intro x; subst x)
    | (intro x; subst x)
    | with_reducible apply kept_ite
    | with_reducible apply record_kept
    | with_reducible apply setDmc_kept
    | with_reducible apply trainChannel_kept
    | with_reducible refine kept_foldl (fun _ _ _ => ?_) _ ?_
    | refine kept_mk ?_ rfl rfl rfl rfl rfl rfl rfl rfl rfl

/-! ### Machine/Power.lean -/

theorem dramIce_kept {s : State} {q : List Instr} {k : Nat} (h : Kept q k s) :
    Kept q k (dramIce s) := by
  delta dramIce
  repeat' first
    | with_reducible assumption
    | (lift_lets -underBinder; intro x; subst x)
    | with_reducible apply setDmc_kept
    | with_reducible refine kept_foldl (fun _ _ _ => ?_) _ ?_

theorem goDark_kept {s : State} {q : List Instr} {k : Nat} (h : Kept q k s) :
    Kept q k (goDark s) := by
  delta goDark
  repeat' first
    | with_reducible assumption
    | (intro x; refine (fun (hx : Kept q k x) => ?_) ?_; clear_value x; rotate_left; subst x; rotate_right)
    | (lift_lets -underBinder; intro x; subst x)
    | (intro x; subst x)
    | with_reducible apply dramDark_kept
    | with_reducible apply lodgeReset_kept
    | split
    | refine kept_mk ?_ rfl rfl rfl rfl rfl rfl rfl rfl rfl

theorem setWake_kept (fw) (st) (fails) {s : State} {q : List Instr} {k : Nat} (h : Kept q k s) :
    Kept q k (setWake fw st fails s) := by
  delta setWake
  repeat' first
    | with_reducible assumption
    | (lift_lets -underBinder; intro x; subst x)
    | (intro x; subst x)
    | refine kept_mk ?_ rfl rfl rfl rfl rfl rfl rfl rfl rfl

theorem enterState_kept (st) {s : State} {q : List Instr} {k : Nat} (h : Kept q k s) :
    Kept q k (enterState st s) := by
  delta enterState
  repeat' first
    | with_reducible assumption
    | (lift_lets -underBinder; intro x; subst x)
    | (intro x; subst x)
    | refine kept_mk ?_ rfl rfl rfl rfl rfl rfl rfl rfl rfl

theorem watchDone_kept {s : State} {q : List Instr} {k : Nat} (h : Kept q k s) :
    Kept q k (watchDone s) := by
  delta watchDone
  repeat' first
    | with_reducible assumption
    | (lift_lets -underBinder; intro x; refine (fun (hx : Kept q k x) => ?_) ?_; clear_value x; rotate_left; subst x; rotate_right)
    | (intro x; refine (fun (hx : Kept q k x) => ?_) ?_; clear_value x; rotate_left; subst x; rotate_right)
    | (intro x; subst x)
    | with_reducible apply kept_ite
    | with_reducible apply dramResume_kept
    | with_reducible apply enterState_kept
    | with_reducible apply finishJobs_kept
    | with_reducible apply note_kept
    | refine onCns_kept ?_ rfl
    | with_reducible apply pushAvs_kept
    | with_reducible apply sendHello_kept
    | split
    | refine kept_mk ?_ rfl rfl rfl rfl rfl rfl rfl rfl rfl

theorem pllsDone_kept {s : State} {q : List Instr} {k : Nat} (h : Kept q k s) :
    Kept q k (pllsDone s) := by
  delta pllsDone
  repeat' first
    | with_reducible assumption
    | (intro x; refine (fun (hx : Kept q k x) => ?_) ?_; clear_value x; rotate_left; subst x; rotate_right)
    | (lift_lets -underBinder; intro x; subst x)
    | with_reducible apply kept_ite
    | with_reducible apply bootStart_kept
    | with_reducible apply pushAvs_kept
    | with_reducible apply setWake_kept
    | with_reducible apply watchDone_kept
    | split
    | refine kept_mk ?_ rfl rfl rfl rfl rfl rfl rfl rfl rfl

theorem railsDone_kept {s : State} {q : List Instr} {k : Nat} (h : Kept q k s) :
    Kept q k (railsDone s) := by
  delta railsDone
  repeat' first
    | with_reducible assumption
    | with_reducible apply kept_ite
    | with_reducible apply pllsDone_kept
    | with_reducible apply setWake_kept
    | split

theorem sleepJob_kept (st) {s : State} {q : List Instr} {k : Nat} (h : Kept q k s) :
    Kept q k (sleepJob st s) := by
  delta sleepJob
  repeat' first
    | with_reducible assumption
    | with_reducible apply finishJob_kept
    | split

theorem wakeRails_kept (fw) (fails) {s : State} {q : List Instr} {k : Nat} (h : Kept q k s) :
    Kept q k (wakeRails fw fails s) := by
  delta wakeRails
  repeat' first
    | with_reducible assumption
    | (lift_lets -underBinder; intro x; refine (fun (hx : Kept q k x) => ?_) ?_; clear_value x; rotate_left; subst x; rotate_right)
    | (intro x; subst x)
    | with_reducible apply pushAvs_kept
    | with_reducible apply setWake_kept
    | with_reducible refine kept_foldl (fun _ _ _ => ?_) _ ?_

theorem sleepAbandon_kept {s : State} {q : List Instr} {k : Nat} (h : Kept q k s) :
    Kept q k (sleepAbandon s) := by
  delta sleepAbandon
  repeat' first
    | with_reducible assumption
    | (lift_lets -underBinder; intro x; refine (fun (hx : Kept q k x) => ?_) ?_; clear_value x; rotate_left; subst x; rotate_right)
    | (intro x; refine (fun (hx : Kept q k x) => ?_) ?_; clear_value x; rotate_left; subst x; rotate_right)
    | (intro x; subst x)
    | with_reducible apply kept_ite
    | with_reducible apply goDark_kept
    | with_reducible apply railsDone_kept
    | with_reducible apply sleepJob_kept
    | with_reducible apply wakeRails_kept
    | refine kept_mk ?_ rfl rfl rfl rfl rfl rfl rfl rfl rfl

theorem sleepCommit_kept (target) (job) {s : State} {q : List Instr} {k : Nat} (h : Kept q k s) :
    Kept q k (sleepCommit target job s) := by
  delta sleepCommit
  repeat' first
    | with_reducible assumption
    | (lift_lets -underBinder; intro x; refine (fun (hx : Kept q k x) => ?_) ?_; clear_value x; rotate_left; subst x; rotate_right)
    | (intro x; refine (fun (hx : Kept q k x) => ?_) ?_; clear_value x; rotate_left; subst x; rotate_right)
    | (intro x; subst x)
    | with_reducible apply kept_ite
    | with_reducible apply enterState_kept
    | with_reducible apply force_kept
    | with_reducible apply goDark_kept
    | with_reducible apply sleepJob_kept
    | refine kept_mk ?_ rfl rfl rfl rfl rfl rfl rfl rfl rfl

theorem sleepAdvance_kept {s : State} {q : List Instr} {k : Nat} (h : Kept q k s) :
    Kept q k (sleepAdvance s) := by
  delta sleepAdvance
  repeat' first
    | with_reducible assumption
    | (intro x; refine (fun (hx : Kept q k x) => ?_) ?_; clear_value x; rotate_left; subst x; rotate_right)
    | (lift_lets -underBinder; intro x; subst x)
    | with_reducible apply kept_ite
    | with_reducible apply pushAvs_kept
    | with_reducible apply sleepAbandon_kept
    | with_reducible apply sleepCommit_kept
    | split
    | refine kept_mk ?_ rfl rfl rfl rfl rfl rfl rfl rfl rfl

theorem sleepDrop_kept {q : List Instr} {k : Nat} {s : State} (h : Kept q k s) : Kept q k (sleepDrop s) := by
  delta sleepDrop
  dsimp only
  refine kept_foldl (fun _ _ ht => setDmc_kept _ _ ht) _ ?_
  refine kept_mk (x := List.foldl _ _ _) ?_ rfl rfl rfl rfl rfl rfl rfl rfl rfl
  refine kept_foldl (fun _ _ ht => dropPort_kept _ ht) _ ?_
  refine kept_foldl (fun _ _ ht => closeQp_kept _ ht) _ ?_
  refine kept_foldl (fun _ _ ht => powerGroup_kept _ _ ht) _ ?_
  refine kept_foldl (fun _ _ ht => kept_ite ht (onCns_kept (clearWay_kept _ ht) rfl)) _ ?_
  exact kept_mk h rfl rfl rfl rfl rfl rfl rfl rfl rfl

theorem sleepRails_kept (target) (job) {s : State} {q : List Instr} {k : Nat} (h : Kept q k s) :
    Kept q k (sleepRails target job s) := by
  delta sleepRails
  repeat' first
    | with_reducible assumption
    | (intro x; refine (fun (hx : Kept q k x) => ?_) ?_; clear_value x; rotate_left; subst x; rotate_right)
    | (lift_lets -underBinder; intro x; subst x)
    | (intro x; subst x)
    | with_reducible apply kept_ite
    | with_reducible apply dramDark_kept
    | with_reducible apply eventLogAppend_kept
    | with_reducible apply pushAvs_kept
    | with_reducible apply writeSummary_kept
    | with_reducible refine kept_foldl (fun _ _ _ => ?_) _ ?_
    | refine kept_mk ?_ rfl rfl rfl rfl rfl rfl rfl rfl rfl

theorem startDormant_kept (job) {s : State} {q : List Instr} {k : Nat} (h : Kept q k s) :
    Kept q k (startDormant job s) := by
  delta startDormant
  repeat' first
    | with_reducible assumption
    | (lift_lets -underBinder; intro x; subst x)
    | (intro x; subst x)
    | refine kept_mk ?_ rfl rfl rfl rfl rfl rfl rfl rfl rfl

theorem ghSleep_kept (target) {s : State} {q : List Instr} {k : Nat} (h : Kept q k s) :
    Kept q k (ghSleep target s) := by
  delta ghSleep
  repeat' first
    | with_reducible assumption
    | (intro x; refine (fun (hx : Kept q k x) => ?_) ?_; clear_value x; rotate_left; subst x; rotate_right)
    | (lift_lets -underBinder; intro x; subst x)
    | (intro x; subst x)
    | with_reducible apply kept_ite
    | with_reducible apply sleepAbandon_kept
    | with_reducible apply sleepAdvance_kept
    | with_reducible apply sleepDrop_kept
    | with_reducible apply sleepRails_kept
    | with_reducible apply startDormant_kept
    | split
    | refine kept_mk ?_ rfl rfl rfl rfl rfl rfl rfl rfl rfl

theorem wakeFail_kept (stage) (which) {s : State} {q : List Instr} {k : Nat} (h : Kept q k s) :
    Kept q k (wakeFail stage which s) := by
  delta wakeFail
  repeat' first
    | with_reducible assumption
    | (lift_lets -underBinder; intro x; refine (fun (hx : Kept q k x) => ?_) ?_; clear_value x; rotate_left; subst x; rotate_right)
    | (intro x; refine (fun (hx : Kept q k x) => ?_) ?_; clear_value x; rotate_left; subst x; rotate_right)
    | (intro x; subst x)
    | with_reducible apply kept_ite
    | with_reducible apply enterState_kept
    | with_reducible apply goDark_kept
    | with_reducible apply railsOff_kept
    | with_reducible apply record_kept
    | with_reducible apply setWake_kept
    | with_reducible apply writeSummary_kept
    | split
    | refine kept_mk ?_ rfl rfl rfl rfl rfl rfl rfl rfl rfl

theorem startWake_kept {s : State} {q : List Instr} {k : Nat} (h : Kept q k s) :
    Kept q k (startWake s) := by
  delta startWake
  repeat' first
    | with_reducible assumption
    | (intro x; refine (fun (hx : Kept q k x) => ?_) ?_; clear_value x; rotate_left; subst x; rotate_right)
    | (lift_lets -underBinder; intro x; subst x)
    | (intro x; subst x)
    | with_reducible apply kept_ite
    | with_reducible apply railsDone_kept
    | with_reducible apply wakeRails_kept
    | split
    | refine kept_mk ?_ rfl rfl rfl rfl rfl rfl rfl rfl rfl

theorem fireWake_kept (a0) {s : State} {q : List Instr} {k : Nat} (h : Kept q k s) :
    Kept q k (fireWake a0 s) := by
  delta fireWake
  repeat' first
    | with_reducible assumption
    | (lift_lets -underBinder; intro x; subst x)
    | (intro x; subst x)
    | with_reducible apply kept_ite
    | with_reducible apply startWake_kept
    | refine kept_mk ?_ rfl rfl rfl rfl rfl rfl rfl rfl rfl

theorem darkNoWork_kept {s : State} {q : List Instr} {k : Nat} (h : Kept q k s) :
    Kept q k (darkNoWork s) := by
  delta darkNoWork
  repeat' first
    | with_reducible assumption
    | (intro x; refine (fun (hx : Kept q k x) => ?_) ?_; clear_value x; rotate_left; subst x; rotate_right)
    | (lift_lets -underBinder; intro x; subst x)
    | (intro x; subst x)
    | with_reducible apply enterState_kept
    | with_reducible apply goDark_kept
    | with_reducible apply railsOff_kept
    | refine kept_mk ?_ rfl rfl rfl rfl rfl rfl rfl rfl rfl

theorem iceDown_kept {s : State} {q : List Instr} {k : Nat} (h : Kept q k s) :
    Kept q k (iceDown s) := by
  delta iceDown
  repeat' first
    | with_reducible assumption
    | (lift_lets -underBinder; intro x; refine (fun (hx : Kept q k x) => ?_) ?_; clear_value x; rotate_left; subst x; rotate_right)
    | (intro x; refine (fun (hx : Kept q k x) => ?_) ?_; clear_value x; rotate_left; subst x; rotate_right)
    | (intro x; subst x)
    | with_reducible apply dramIce_kept
    | with_reducible apply enterState_kept
    | with_reducible apply lodgeReset_kept
    | with_reducible apply railsOff_kept
    | refine kept_mk ?_ rfl rfl rfl rfl rfl rfl rfl rfl rfl

theorem pwrFailFall_kept {s : State} {q : List Instr} {k : Nat} (h : Kept q k s) :
    Kept q k (pwrFailFall s) := by
  delta pwrFailFall
  repeat' first
    | with_reducible assumption
    | (intro x; refine (fun (hx : Kept q k x) => ?_) ?_; clear_value x; rotate_left; subst x; rotate_right)
    | (lift_lets -underBinder; intro x; subst x)
    | with_reducible apply kept_ite
    | with_reducible apply beginCompaction_kept
    | with_reducible apply darkNoWork_kept
    | with_reducible apply enterState_kept
    | with_reducible apply goDark_kept
    | with_reducible apply iceDown_kept
    | with_reducible apply railsOff_kept
    | with_reducible apply sleepJob_kept
    | split
    | refine kept_mk ?_ rfl rfl rfl rfl rfl rfl rfl rfl rfl

theorem startSleep_kept (target) (opcode) (job) {s : State} {q : List Instr} {k : Nat} (h : Kept q k s) :
    Kept q k (startSleep target opcode job s) := by
  delta startSleep
  repeat' first
    | with_reducible assumption
    | (intro x; refine (fun (hx : Kept q k x) => ?_) ?_; clear_value x; rotate_left; subst x; rotate_right)
    | (lift_lets -underBinder; intro x; subst x)
    | (intro x; subst x)
    | with_reducible apply startHandover_kept
    | refine kept_mk ?_ rfl rfl rfl rfl rfl rfl rfl rfl rfl

theorem pllTimeout_kept (a0) {s : State} {q : List Instr} {k : Nat} (h : Kept q k s) :
    Kept q k (pllTimeout a0 s) := by
  delta pllTimeout
  repeat' first
    | with_reducible assumption
    | with_reducible apply kept_ite
    | with_reducible apply wakeFail_kept
    | split

theorem avsReached_kept (op) {s : State} {q : List Instr} {k : Nat} (h : Kept q k s) :
    Kept q k (avsReached op s) := by
  delta avsReached
  repeat' first
    | with_reducible assumption
    | (lift_lets -underBinder; intro x; subst x)
    | with_reducible apply kept_ite
    | with_reducible apply answerLate_kept
    | with_reducible apply force_kept
    | with_reducible apply railsDone_kept
    | with_reducible apply sleepAdvance_kept
    | split
    | refine kept_mk ?_ rfl rfl rfl rfl rfl rfl rfl rfl rfl

theorem iceLeave_kept {s : State} {q : List Instr} {k : Nat} (h : Kept q k s) :
    Kept q k (iceLeave s) := by
  delta iceLeave
  repeat' first
    | with_reducible assumption
    | (lift_lets -underBinder; intro x; subst x)
    | with_reducible apply railsDone_kept
    | with_reducible apply wakeRails_kept
    | refine kept_mk ?_ rfl rfl rfl rfl rfl rfl rfl rfl rfl

theorem pllLock_kept (a0) {s : State} {q : List Instr} {k : Nat} (h : Kept q k s) :
    Kept q k (pllLock a0 s) := by
  delta pllLock
  repeat' first
    | with_reducible assumption
    | (lift_lets -underBinder; intro x; subst x)
    | (intro x; subst x)
    | with_reducible apply kept_ite
    | with_reducible apply pllsDone_kept
    | refine kept_mk ?_ rfl rfl rfl rfl rfl rfl rfl rfl rfl

theorem pwrFailRise_kept {s : State} {q : List Instr} {k : Nat} (h : Kept q k s) :
    Kept q k (pwrFailRise s) := by
  delta pwrFailRise
  repeat' first
    | with_reducible assumption
    | (lift_lets -underBinder; intro x; subst x)
    | (intro x; subst x)
    | with_reducible apply kept_ite
    | with_reducible apply iceLeave_kept
    | with_reducible apply startWake_kept
    | refine kept_mk ?_ rfl rfl rfl rfl rfl rfl rfl rfl rfl

theorem retryWaitEnd_kept {s : State} {q : List Instr} {k : Nat} (h : Kept q k s) :
    Kept q k (retryWaitEnd s) := by
  delta retryWaitEnd
  repeat' first
    | with_reducible assumption
    | with_reducible apply railsDone_kept
    | with_reducible apply wakeRails_kept
    | split

theorem compactionDone_kept {s : State} {q : List Instr} {k : Nat} (h : Kept q k s) :
    Kept q k (compactionDone s) := by
  delta compactionDone
  repeat' first
    | with_reducible assumption
    | (intro x; refine (fun (hx : Kept q k x) => ?_) ?_; clear_value x; rotate_left; subst x; rotate_right)
    | (lift_lets -underBinder; intro x; subst x)
    | with_reducible apply kept_ite
    | with_reducible apply iceDown_kept
    | with_reducible apply iceLeave_kept
    | refine kept_mk ?_ rfl rfl rfl rfl rfl rfl rfl rfl rfl

theorem avsAnswer_kept (b good vdone ma) {q : List Instr} {k : Nat} {s : State} (h : Kept q k s) :
    (∀ t, avsAnswer b good vdone ma s = .waits t → Kept q k t) ∧
      ∀ op t, avsAnswer b good vdone ma s = .reached op t → Kept q k t := by
  have hg : ∀ op : AvsOp, Kept q k { s with gh := { s.gh with ma := s.gh.ma.set op.rail (min ma 65535) } } :=
    fun op => kept_mk h rfl rfl rfl rfl rfl rfl rfl rfl rfl
  have key : ∀ r, avsAnswer b good vdone ma s = r → (match r with | .waits t => Kept q k t | .reached _ t => Kept q k t) := by
    intro r hr
    unfold avsAnswer at hr
    dsimp only at hr
    split at hr
    · subst hr; exact h
    · split at hr
      · subst hr; exact h
      · split at hr
        · split at hr
          · subst hr; exact popAvs_kept _ (setMv_kept _ _ (hg _))
          · subst hr; exact avsSend_kept _ (setMv_kept _ _ (hg _))
        · subst hr; exact setAvsQ_kept _ _ (hg _)
  exact ⟨fun t ht => key _ ht, fun op t ht => key _ ht⟩

theorem avsResponse_kept (b good vdone ma) {q : List Instr} {k : Nat} {s : State} (h : Kept q k s) :
    Kept q k (avsResponse b good vdone ma s) := by
  delta avsResponse
  have ha := avsAnswer_kept b good vdone ma h
  split
  · exact ha.1 _ (by assumption)
  · exact avsReached_kept _ (ha.2 _ _ (by assumption))

theorem avsFails_kept (stage) (op) (b) {s : State} {q : List Instr} {k : Nat} (h : Kept q k s) :
    Kept q k (avsFails stage op b s) := by
  delta avsFails
  repeat' first
    | with_reducible assumption
    | (intro x; refine (fun (hx : Kept q k x) => ?_) ?_; clear_value x; rotate_left; subst x; rotate_right)
    | (lift_lets -underBinder; intro x; subst x)
    | with_reducible apply kept_ite
    | with_reducible apply answerLate_kept
    | with_reducible apply avsSend_kept
    | with_reducible apply popAvs_kept
    | with_reducible apply record_kept
    | with_reducible apply setAvsQ_kept
    | with_reducible apply setMv_kept
    | with_reducible apply sleepAdvance_kept
    | with_reducible apply wakeFail_kept
    | split
    | refine kept_mk ?_ rfl rfl rfl rfl rfl rfl rfl rfl rfl

theorem avsVdoneTimeout_kept (b) {s : State} {q : List Instr} {k : Nat} (h : Kept q k s) :
    Kept q k (avsVdoneTimeout b s) := by
  delta avsVdoneTimeout
  repeat' first
    | with_reducible assumption
    | with_reducible apply kept_ite
    | with_reducible apply avsFails_kept
    | split

theorem avsAckTimeout_kept (b) {s : State} {q : List Instr} {k : Nat} (h : Kept q k s) :
    Kept q k (avsAckTimeout b s) := by
  delta avsAckTimeout
  repeat' first
    | with_reducible assumption
    | with_reducible apply kept_ite
    | with_reducible apply avsFails_kept
    | split

theorem keepOkFall_kept {s : State} {q : List Instr} {k : Nat} (h : Kept q k s) :
    Kept q k (keepOkFall s) := by
  delta keepOkFall
  repeat' first
    | with_reducible assumption
    | (lift_lets -underBinder; intro x; subst x)
    | (intro x; subst x)
    | with_reducible apply kept_ite
    | refine kept_mk ?_ rfl rfl rfl rfl rfl rfl rfl rfl rfl

/-! ### Machine/Boot.lean -/

theorem watchdogKick_kept {s : State} {q : List Instr} {k : Nat} (h : Kept q k s) :
    Kept q k (watchdogKick s) := by
  delta watchdogKick
  repeat' first
    | with_reducible assumption
    | (lift_lets -underBinder; intro x; subst x)
    | refine kept_mk ?_ rfl rfl rfl rfl rfl rfl rfl rfl rfl

theorem powerOnClear_kept {q : List Instr} {k : Nat} {s : State} (h : Kept q k s) : Kept q k (powerOnClear s) := by
  delta powerOnClear
  have h' := dramDark_kept (lodgeReset_kept false h)
  generalize dramDark (lodgeReset false s) = t at h' ⊢
  exact ⟨h'.1, ⟨reset_masks.1, h'.2.1.sliceMasks, h'.2.1.keyRegs, h'.2.1.fuses, h'.2.1.cycles, rfl, rfl, h'.2.1.msix,
    h'.2.1.mailboxes⟩, h'.2.2⟩

theorem restoreCounts_kept {s : State} {q : List Instr} {k : Nat} (h : Kept q k s) :
    Kept q k (restoreCounts s) := by
  delta restoreCounts
  repeat' first
    | with_reducible assumption
    | (lift_lets -underBinder; intro x; subst x)
    | (intro x; subst x)
    | split
    | refine kept_mk ?_ rfl rfl rfl rfl rfl rfl rfl rfl rfl

theorem warmReset_kept {s : State} {q : List Instr} {k : Nat} (h : Kept q k s) :
    Kept q k (warmReset s) := by
  delta warmReset
  repeat' first
    | with_reducible assumption
    | (intro x; refine (fun (hx : Kept q k x) => ?_) ?_; clear_value x; rotate_left; subst x; rotate_right)
    | (lift_lets -underBinder; intro x; subst x)
    | (intro x; subst x)
    | with_reducible apply kept_ite
    | with_reducible apply bootStart_kept
    | with_reducible apply enterState_kept
    | with_reducible apply lodgeReset_kept
    | split
    | refine kept_mk ?_ rfl rfl rfl rfl rfl rfl rfl rfl rfl

theorem warmByLodge_kept {s : State} {q : List Instr} {k : Nat} (h : Kept q k s) :
    Kept q k (warmByLodge s) := by
  delta warmByLodge
  repeat' first
    | with_reducible assumption
    | (intro x; refine (fun (hx : Kept q k x) => ?_) ?_; clear_value x; rotate_left; subst x; rotate_right)
    | (lift_lets -underBinder; intro x; subst x)
    | (intro x; subst x)
    | with_reducible apply kept_ite
    | with_reducible apply warmReset_kept
    | refine kept_mk ?_ rfl rfl rfl rfl rfl rfl rfl rfl rfl

theorem takeBoard_kept (straps) (r) {s : State} {q : List Instr} {k : Nat} (h : Kept q k s) :
    Kept q k (takeBoard straps r s) := by
  delta takeBoard
  repeat' first
    | with_reducible assumption
    | (lift_lets -underBinder; intro x; subst x)
    | (intro x; subst x)
    | with_reducible apply kept_ite
    | with_reducible apply record_kept
    | refine kept_mk ?_ rfl rfl rfl rfl rfl rfl rfl rfl rfl

theorem gpioBoot_kept {s : State} {q : List Instr} {k : Nat} (h : Kept q k s) :
    Kept q k (gpioBoot s) := by
  delta gpioBoot
  repeat' first
    | with_reducible assumption
    | (intro x; refine (fun (hx : Kept q k x) => ?_) ?_; clear_value x; rotate_left; subst x; rotate_right)
    | (lift_lets -underBinder; intro x; subst x)
    | (intro x; subst x)
    | with_reducible apply kept_ite
    | with_reducible apply setClaim_kept
    | with_reducible refine kept_foldl (fun _ _ _ => ?_) _ ?_
    | split
    | refine kept_mk ?_ rfl rfl rfl rfl rfl rfl rfl rfl rfl

theorem bootFenced_kept {s : State} {q : List Instr} {k : Nat} (h : Kept q k s) :
    Kept q k (bootFenced s) := by
  delta bootFenced
  repeat' first
    | with_reducible assumption
    | (lift_lets -underBinder; intro x; refine (fun (hx : Kept q k x) => ?_) ?_; clear_value x; rotate_left; subst x; rotate_right)
    | (intro x; subst x)
    | with_reducible apply dropRegions_kept
    | with_reducible apply sendHello_kept
    | split
    | refine kept_mk ?_ rfl rfl rfl rfl rfl rfl rfl rfl rfl

theorem bootDormant_kept {s : State} {q : List Instr} {k : Nat} (h : Kept q k s) :
    Kept q k (bootDormant s) := by
  delta bootDormant
  repeat' first
    | with_reducible assumption
    | (intro x; refine (fun (hx : Kept q k x) => ?_) ?_; clear_value x; rotate_left; subst x; rotate_right)
    | (lift_lets -underBinder; intro x; subst x)
    | (intro x; subst x)
    | with_reducible apply kept_ite
    | with_reducible apply bootFenced_kept
    | with_reducible apply dramBoot_kept
    | refine kept_mk ?_ rfl rfl rfl rfl rfl rfl rfl rfl rfl

theorem keepLater_kept {s : State} {q : List Instr} {k : Nat} (h : Kept q k s) :
    Kept q k (keepLater s) := by
  delta keepLater
  repeat' first
    | with_reducible assumption
    | with_reducible apply kept_ite
    | with_reducible apply record_kept
    | split

theorem bootIce_kept {s : State} {q : List Instr} {k : Nat} (h : Kept q k s) :
    Kept q k (bootIce s) := by
  delta bootIce
  repeat' first
    | with_reducible assumption
    | (lift_lets -underBinder; intro x; refine (fun (hx : Kept q k x) => ?_) ?_; clear_value x; rotate_left; subst x; rotate_right)
    | (intro x; refine (fun (hx : Kept q k x) => ?_) ?_; clear_value x; rotate_left; subst x; rotate_right)
    | (lift_lets -underBinder; intro x; subst x)
    | (intro x; subst x)
    | with_reducible apply kept_ite
    | with_reducible apply assertGood_kept
    | with_reducible apply beginRestart_kept
    | with_reducible apply bootFenced_kept
    | with_reducible apply dramResume_kept
    | with_reducible apply keepLater_kept
    | with_reducible apply note_kept
    | split
    | refine kept_mk ?_ rfl rfl rfl rfl rfl rfl rfl rfl rfl

theorem bootPowerOn_kept {s : State} {q : List Instr} {k : Nat} (h : Kept q k s) :
    Kept q k (bootPowerOn s) := by
  delta bootPowerOn
  repeat' first
    | with_reducible assumption
    | (lift_lets -underBinder; intro x; refine (fun (hx : Kept q k x) => ?_) ?_; clear_value x; rotate_left; subst x; rotate_right)
    | (intro x; refine (fun (hx : Kept q k x) => ?_) ?_; clear_value x; rotate_left; subst x; rotate_right)
    | (lift_lets -underBinder; intro x; subst x)
    | (intro x; subst x)
    | with_reducible apply kept_ite
    | with_reducible apply beginRestart_kept
    | with_reducible apply dramBoot_kept
    | with_reducible apply note_kept
    | with_reducible apply sendHello_kept
    | split
    | refine kept_mk ?_ rfl rfl rfl rfl rfl rfl rfl rfl rfl

theorem bootWarm_kept {s : State} {q : List Instr} {k : Nat} (h : Kept q k s) :
    Kept q k (bootWarm s) := by
  delta bootWarm
  repeat' first
    | with_reducible assumption
    | (intro x; refine (fun (hx : Kept q k x) => ?_) ?_; clear_value x; rotate_left; subst x; rotate_right)
    | (lift_lets -underBinder; intro x; subst x)
    | (intro x; subst x)
    | with_reducible apply kept_ite
    | with_reducible apply beginRestart_kept
    | with_reducible apply bootFenced_kept
    | with_reducible apply bothLost_kept
    | with_reducible apply dramResume_kept
    | with_reducible apply goAlone_kept
    | with_reducible apply sendHello_kept
    | refine kept_mk ?_ rfl rfl rfl rfl rfl rfl rfl rfl rfl

theorem firmwareUp_kept {s : State} {q : List Instr} {k : Nat} (h : Kept q k s) :
    Kept q k (firmwareUp s) := by
  delta firmwareUp
  repeat' first
    | with_reducible assumption
    | (intro x; refine (fun (hx : Kept q k x) => ?_) ?_; clear_value x; rotate_left; subst x; rotate_right)
    | (lift_lets -underBinder; intro x; subst x)
    | (intro x; subst x)
    | with_reducible apply kept_ite
    | with_reducible apply gpioBoot_kept
    | with_reducible apply loadDomains_kept
    | with_reducible apply loadKek_kept
    | with_reducible apply powerGroup_kept
    | with_reducible apply startTest_kept
    | with_reducible refine kept_foldl (fun _ _ _ => ?_) _ ?_
    | refine kept_mk ?_ rfl rfl rfl rfl rfl rfl rfl rfl rfl

theorem serveNow_kept {s : State} {q : List Instr} {k : Nat} (h : Kept q k s) :
    Kept q k (serveNow s) := by
  delta serveNow
  repeat' first
    | with_reducible assumption
    | (lift_lets -underBinder; intro x; subst x)
    | with_reducible apply enterState_kept
    | split
    | refine kept_mk ?_ rfl rfl rfl rfl rfl rfl rfl rfl rfl

theorem bootGood_kept {s : State} {q : List Instr} {k : Nat} (h : Kept q k s) :
    Kept q k (bootGood s) := by
  delta bootGood
  repeat' first
    | with_reducible assumption
    | (intro x; refine (fun (hx : Kept q k x) => ?_) ?_; clear_value x; rotate_left; subst x; rotate_right)
    | (lift_lets -underBinder; intro x; subst x)
    | (intro x; subst x)
    | with_reducible apply kept_ite
    | with_reducible apply bootDormant_kept
    | with_reducible apply bootIce_kept
    | with_reducible apply bootPowerOn_kept
    | with_reducible apply bootWarm_kept
    | with_reducible apply firmwareUp_kept
    | with_reducible apply note_kept
    | with_reducible apply serveNow_kept
    | with_reducible apply startWake_kept
    | split
    | refine kept_mk ?_ rfl rfl rfl rfl rfl rfl rfl rfl rfl

theorem bootComplete_kept (ok) {s : State} {q : List Instr} {k : Nat} (h : Kept q k s) :
    Kept q k (bootComplete ok s) := by
  delta bootComplete
  repeat' first
    | with_reducible assumption
    | (lift_lets -underBinder; intro x; subst x)
    | with_reducible apply kept_ite
    | with_reducible apply bootFails_kept
    | with_reducible apply bootFrom_kept
    | with_reducible apply bootGood_kept

theorem warmPin_kept {s : State} {q : List Instr} {k : Nat} (h : Kept q k s) :
    Kept q k (warmPin s) := by
  delta warmPin
  repeat' first
    | with_reducible assumption
    | (lift_lets -underBinder; intro x; subst x)
    | with_reducible apply warmReset_kept
    | refine kept_mk ?_ rfl rfl rfl rfl rfl rfl rfl rfl rfl

theorem pwronFall_kept {s : State} {q : List Instr} {k : Nat} (h : Kept q k s) :
    Kept q k (pwronFall s) := by
  delta pwronFall
  repeat' first
    | with_reducible assumption
    | with_reducible apply powerOnClear_kept

theorem resetDelayEnd_kept {s : State} {q : List Instr} {k : Nat} (h : Kept q k s) :
    Kept q k (resetDelayEnd s) := by
  delta resetDelayEnd
  repeat' first
    | with_reducible assumption
    | with_reducible apply kept_ite
    | with_reducible apply warmByLodge_kept

theorem satAdd_lt (v d : Nat) : satAdd 24 v d < 2 ^ 24 := by
  unfold satAdd; omega

theorem powerOn_kept (straps) (board) {q : List Instr} {k : Nat} {s : State} (h : Kept q k s) :
    Kept q k (powerOn straps board s) := by
  delta powerOn
  repeat' first
    | with_reducible assumption
    | (lift_lets -underBinder; intro x; refine (fun (hx : Kept q k x) => ?_) ?_; clear_value x; rotate_left; subst x; rotate_right)
    | (intro x; refine (fun (hx : Kept q k x) => ?_) ?_; clear_value x; rotate_left; subst x; rotate_right)
    | (intro x; subst x)
    | with_reducible apply kept_ite
    | with_reducible apply enterState_kept
    | with_reducible apply iceLeave_kept
    | with_reducible apply powerOnClear_kept
    | with_reducible apply restoreCounts_kept
    | with_reducible apply takeBoard_kept
    | with_reducible apply note_kept
    | refine kept_gh (by with_reducible assumption) (satAdd_lt _ _)
    | refine kept_mk ?_ rfl rfl rfl rfl rfl rfl rfl rfl rfl

theorem watchdogExpiry_kept {s : State} {q : List Instr} {k : Nat} (h : Kept q k s) :
    Kept q k (watchdogExpiry s) := by
  delta watchdogExpiry
  repeat' first
    | with_reducible assumption
    | (lift_lets -underBinder; intro x; subst x)
    | with_reducible apply kept_ite
    | with_reducible apply note_kept
    | with_reducible apply warmReset_kept
    | refine kept_mk ?_ rfl rfl rfl rfl rfl rfl rfl rfl rfl

theorem slotConfirm_kept {q : List Instr} {k : Nat} {s : State} (h : Kept q k s) : Kept q k (slotConfirm s) := by
  delta slotConfirm
  refine kept_ite h ?_
  dsimp only
  generalize hb : setBoot _ _ s = t
  have ht : Kept q k t := hb ▸ setBoot_kept _ _ h
  split
  · rename_i hc
    have h1 := ht.2.2
    have h2 := hc.2
    refine note_kept _ _ _ ⟨ht.1, ⟨ht.2.1.chanMasks, ht.2.1.sliceMasks, ht.2.1.keyRegs, Nat.min_le_left .., ht.2.1.cycles,
      ht.2.1.ring, ht.2.1.lodge, ht.2.1.msix, ht.2.1.mailboxes⟩, ?_⟩
    show k ≤ min 64 _
    have h3 := ht.2.1.fuses
    have h4 : k ≤ 64 := Nat.le_trans h1 h3
    exact Nat.le_min.2 ⟨h4, Nat.le_trans h1 (Nat.le_of_lt h2)⟩
  · exact ht

/-! ### Machine/GhRows.lean -/

theorem timerCompare_kept (t) (ticks) {s : State} {q : List Instr} {k : Nat} (h : Kept q k s) :
    Kept q k (timerCompare t ticks s) := by
  delta timerCompare
  repeat' first
    | with_reducible assumption
    | (lift_lets -underBinder; intro x; subst x)
    | with_reducible apply setTimer_kept

theorem wakeNPin_kept (low) {s : State} {q : List Instr} {k : Nat} (h : Kept q k s) :
    Kept q k (wakeNPin low s) := by
  delta wakeNPin
  repeat' first
    | with_reducible assumption
    | (intro x; refine (fun (hx : Kept q k x) => ?_) ?_; clear_value x; rotate_left; subst x; rotate_right)
    | (lift_lets -underBinder; intro x; subst x)
    | with_reducible apply kept_ite
    | with_reducible apply fireWake_kept
    | refine kept_mk ?_ rfl rfl rfl rfl rfl rfl rfl rfl rfl

theorem operatingTick_kept {s : State} {q : List Instr} {k : Nat} (h : Kept q k s) :
    Kept q k (operatingTick s) := by
  delta operatingTick
  repeat' first
    | with_reducible assumption
    | (lift_lets -underBinder; intro x; subst x)
    | (intro x; subst x)
    | split
    | refine kept_mk ?_ rfl rfl rfl rfl rfl rfl rfl rfl rfl

theorem timerExpiry_kept (t) {s : State} {q : List Instr} {k : Nat} (h : Kept q k s) :
    Kept q k (timerExpiry t s) := by
  delta timerExpiry
  repeat' first
    | with_reducible assumption
    | (intro x; refine (fun (hx : Kept q k x) => ?_) ?_; clear_value x; rotate_left; subst x; rotate_right)
    | (lift_lets -underBinder; intro x; subst x)
    | (intro x; subst x)
    | with_reducible apply kept_ite
    | with_reducible apply fireWake_kept
    | with_reducible apply setGpio_kept
    | with_reducible apply setTimer_kept
    | with_reducible refine kept_foldl (fun _ _ _ => ?_) _ ?_
    | refine kept_mk ?_ rfl rfl rfl rfl rfl rfl rfl rfl rfl

theorem dormantAfter_kept {s : State} {q : List Instr} {k : Nat} (h : Kept q k s) :
    Kept q k (dormantAfter s) := by
  delta dormantAfter
  repeat' first
    | with_reducible assumption
    | with_reducible apply kept_ite
    | with_reducible apply startDormant_kept

theorem idlePolicy_kept {s : State} {q : List Instr} {k : Nat} (h : Kept q k s) :
    Kept q k (idlePolicy s) := by
  delta idlePolicy
  repeat' first
    | with_reducible assumption
    | with_reducible apply kept_ite
    | with_reducible apply startSleep_kept

theorem throttleStep_kept {s : State} {q : List Instr} {k : Nat} (h : Kept q k s) :
    Kept q k (throttleStep s) := by
  delta throttleStep
  repeat' first
    | with_reducible assumption
    | (lift_lets -underBinder; intro x; subst x)
    | with_reducible apply kept_ite
    | with_reducible apply adjustAllowance_kept
    | refine kept_mk ?_ rfl rfl rfl rfl rfl rfl rfl rfl rfl

theorem overheated_kept {s : State} {q : List Instr} {k : Nat} (h : Kept q k s) :
    Kept q k (overheated s) := by
  delta overheated
  repeat' first
    | with_reducible assumption
    | (intro x; refine (fun (hx : Kept q k x) => ?_) ?_; clear_value x; rotate_left; subst x; rotate_right)
    | (lift_lets -underBinder; intro x; subst x)
    | (intro x; subst x)
    | with_reducible apply kept_ite
    | with_reducible apply adjustAllowance_kept
    | with_reducible apply handOffFenced_kept
    | with_reducible apply note_kept
    | refine kept_mk ?_ rfl rfl rfl rfl rfl rfl rfl rfl rfl

theorem tjSample_kept (readings) {s : State} {q : List Instr} {k : Nat} (h : Kept q k s) :
    Kept q k (tjSample readings s) := by
  delta tjSample
  repeat' first
    | with_reducible assumption
    | (intro x; refine (fun (hx : Kept q k x) => ?_) ?_; clear_value x; rotate_left; subst x; rotate_right)
    | (lift_lets -underBinder; intro x; subst x)
    | (intro x; subst x)
    | with_reducible apply kept_ite
    | with_reducible apply adjustAllowance_kept
    | with_reducible apply note_kept
    | with_reducible apply overheated_kept
    | refine kept_mk ?_ rfl rfl rfl rfl rfl rfl rfl rfl rfl

theorem smbusMatch_kept {s : State} {q : List Instr} {k : Nat} (h : Kept q k s) :
    Kept q k (smbusMatch s) := by
  delta smbusMatch
  repeat' first
    | with_reducible assumption
    | (intro x; refine (fun (hx : Kept q k x) => ?_) ?_; clear_value x; rotate_left; subst x; rotate_right)
    | (lift_lets -underBinder; intro x; subst x)
    | (intro x; subst x)
    | with_reducible apply kept_ite
    | with_reducible apply emit_kept
    | with_reducible apply fireWake_kept
    | refine kept_mk ?_ rfl rfl rfl rfl rfl rfl rfl rfl rfl

theorem xtalFails_kept {s : State} {q : List Instr} {k : Nat} (h : Kept q k s) :
    Kept q k (xtalFails s) := by
  delta xtalFails
  repeat' first
    | with_reducible assumption
    | (lift_lets -underBinder; intro x; subst x)
    | with_reducible apply kept_ite
    | with_reducible apply note_kept
    | refine kept_mk ?_ rfl rfl rfl rfl rfl rfl rfl rfl rfl

theorem pulseEnd_kept (a0) {s : State} {q : List Instr} {k : Nat} (h : Kept q k s) :
    Kept q k (pulseEnd a0 s) := by
  delta pulseEnd
  repeat' first
    | with_reducible assumption
    | (lift_lets -underBinder; intro x; subst x)
    | with_reducible apply setGpio_kept

theorem smbusStretchEnd_kept {s : State} {q : List Instr} {k : Nat} (h : Kept q k s) :
    Kept q k (smbusStretchEnd s) := by
  delta smbusStretchEnd
  repeat' first
    | with_reducible assumption
    | (lift_lets -underBinder; intro x; subst x)
    | with_reducible apply kept_ite
    | refine kept_mk ?_ rfl rfl rfl rfl rfl rfl rfl rfl rfl

theorem gpioEdge_kept (a0) {s : State} {q : List Instr} {k : Nat} (h : Kept q k s) :
    Kept q k (gpioEdge a0 s) := by
  delta gpioEdge
  repeat' first
    | with_reducible assumption
    | (intro x; refine (fun (hx : Kept q k x) => ?_) ?_; clear_value x; rotate_left; subst x; rotate_right)
    | (lift_lets -underBinder; intro x; subst x)
    | with_reducible apply kept_ite
    | with_reducible apply fireWake_kept
    | with_reducible apply setGpio_kept

theorem peerHbWake_kept {s : State} {q : List Instr} {k : Nat} (h : Kept q k s) :
    Kept q k (peerHbWake s) := by
  delta peerHbWake
  repeat' first
    | with_reducible assumption
    | (intro x; refine (fun (hx : Kept q k x) => ?_) ?_; clear_value x; rotate_left; subst x; rotate_right)
    | (lift_lets -underBinder; intro x; subst x)
    | with_reducible apply kept_ite
    | with_reducible apply fireWake_kept
    | with_reducible apply note_kept

theorem xtalBack_kept {s : State} {q : List Instr} {k : Nat} (h : Kept q k s) :
    Kept q k (xtalBack s) := by
  delta xtalBack
  repeat' first
    | with_reducible assumption
    | (lift_lets -underBinder; intro x; subst x)
    | refine kept_mk ?_ rfl rfl rfl rfl rfl rfl rfl rfl rfl

theorem tjCooled_kept {s : State} {q : List Instr} {k : Nat} (h : Kept q k s) :
    Kept q k (tjCooled s) := by
  delta tjCooled
  repeat' first
    | with_reducible assumption
    | (intro x; refine (fun (hx : Kept q k x) => ?_) ?_; clear_value x; rotate_left; subst x; rotate_right)
    | (lift_lets -underBinder; intro x; subst x)
    | with_reducible apply kept_ite
    | with_reducible apply sendHello_kept
    | refine kept_mk ?_ rfl rfl rfl rfl rfl rfl rfl rfl rfl

/-! ### Machine/PairRows.lean -/

theorem recordRead_kept (r) {s : State} {q : List Instr} {k : Nat} (h : Kept q k s) :
    Kept q k (recordRead r s) := by
  delta recordRead
  repeat' first
    | with_reducible assumption
    | (lift_lets -underBinder; intro x; refine (fun (hx : Kept q k x) => ?_) ?_; clear_value x; rotate_left; subst x; rotate_right)
    | with_reducible apply kept_ite
    | with_reducible apply arrayRead_kept
    | with_reducible apply dropDomains_kept
    | with_reducible apply endJoin_kept
    | with_reducible apply holdSwitches_kept
    | with_reducible apply loadDomains_kept
    | with_reducible refine kept_foldl (fun _ _ _ => ?_) _ ?_

theorem afterFence_kept (hd : Handover) {q : List Instr} {k : Nat} {s : State} (h : Kept q k s) : Kept q k (afterFence hd s) := by
  delta afterFence
  have hf : ∀ j, Kept q k (finishJob j .success [] s) := fun j => finishJob_kept _ _ _ h
  have hs : ∀ (w : State), Kept q k w → Kept q k { w with kiosk := { w.kiosk with fwSwitch := true } } :=
    fun w hw => kept_mk hw rfl rfl rfl rfl rfl rfl rfl rfl rfl
  have hk : ∀ (t : State) (p : Nat) (b : Bool), Kept q k t →
      Kept q k (warmByLodge { t with sec := { t.sec with preferred := p }, pair := { t.pair with autoFail := b } }) :=
    fun t p b ht => warmByLodge_kept (kept_mk ht rfl rfl rfl rfl rfl rfl rfl rfl rfl)
  cases hj : hd.job with
  | none =>
    refine kept_ite ?_ (kept_ite (hs _ (hk _ _ _ h)) h)
    exact kept_mk h rfl rfl rfl rfl rfl rfl rfl rfl rfl
  | some j =>
    refine kept_ite ?_ (kept_ite (hs _ (hk _ _ _ (hf j))) (hf j))
    exact kept_mk (hf j) rfl rfl rfl rfl rfl rfl rfl rfl rfl

theorem fenceInFall_kept {s : State} {q : List Instr} {k : Nat} (h : Kept q k s) :
    Kept q k (fenceInFall s) := by
  delta fenceInFall
  repeat' first
    | with_reducible assumption
    | (lift_lets -underBinder; intro x; subst x)
    | with_reducible apply kept_ite
    | with_reducible apply afterFence_kept
    | with_reducible apply enterState_kept
    | with_reducible apply fenceFall_kept
    | with_reducible apply sleepJob_kept
    | split
    | refine kept_mk ?_ rfl rfl rfl rfl rfl rfl rfl rfl rfl

end Sys2Proof.Machine
end

