-- ==== Sys2Proof/Laws/KeptCmds.lean ====
section
/-!
SUPPORT. Laws/KeptCmds.lean: that the commands of the Lodge and the registers carry the queue, the invariant of the head
and the rollback count from state to state (Kept), one lemma for each operation.
-/
namespace Sys2Proof.Machine

/-! ### Machine/Session.lean -/

theorem claimEnable_kept (cls) (idx) (en) {s : State} {q : List Instr} {k : Nat} (h : Kept q k s) :
    Kept q k (claimEnable cls idx en s) := by
  delta claimEnable
  repeat' first
    | with_reducible assumption
    | (intro x; refine (fun (hx : Kept q k x) => ?_) ?_; clear_value x; rotate_left; subst x; rotate_right)
    | (lift_lets -underBinder; intro x; subst x)
    | (intro x; subst x)
    | with_reducible apply kept_ite
    | with_reducible apply dropClaim_kept
    | with_reducible apply record_kept
    | with_reducible apply setEn_kept
    | split
    | refine kept_mk ?_ rfl rfl rfl rfl rfl rfl rfl rfl rfl

theorem openFailed_kept {s : State} {q : List Instr} {k : Nat} (h : Kept q k s) :
    Kept q k (openFailed s) := by
  delta openFailed
  repeat' first
    | with_reducible assumption
    | (lift_lets -underBinder; intro x; subst x)
    | (intro x; subst x)
    | refine kept_mk ?_ rfl rfl rfl rfl rfl rfl rfl rfl rfl

theorem sessFails_kept {s : State} {q : List Instr} {k : Nat} (h : Kept q k s) :
    Kept q k (sessFails s) := by
  delta sessFails
  repeat' first
    | with_reducible assumption
    | with_reducible apply note_kept
    | with_reducible apply openFailed_kept

theorem openH_kept (n) (p) {s : State} {q : List Instr} {k : Nat} (h : Kept q k s) :
    Kept q k (openH n p s).2 := by
  delta openH
  repeat' first
    | with_reducible assumption
    | (intro x; refine (fun (hx : Kept q k x) => ?_) ?_; clear_value x; rotate_left; subst x; rotate_right)
    | (lift_lets -underBinder; intro x; subst x)
    | (intro x; subst x)
    | with_reducible apply kept_ite2
    | with_reducible apply note_kept
    | with_reducible apply openFailed_kept
    | with_reducible apply pkaSubmit_kept
    | with_reducible apply refuse_kept
    | with_reducible apply sessFails_kept
    | with_reducible apply useNonce_kept
    | split
    | refine kept_mk ?_ rfl rfl rfl rfl rfl rfl rfl rfl rfl

theorem claimRevokeH_kept (p) {s : State} {q : List Instr} {k : Nat} (h : Kept q k s) :
    Kept q k (claimRevokeH p s).2 := by
  delta claimRevokeH
  repeat' first
    | with_reducible assumption
    | (intro x; refine (fun (hx : Kept q k x) => ?_) ?_; clear_value x; rotate_left; subst x; rotate_right)
    | (lift_lets -underBinder; intro x; subst x)
    | (intro x; subst x)
    | with_reducible apply kept_ite
    | with_reducible apply kept_ite2
    | with_reducible apply disableRes_kept
    | with_reducible apply dropClaim_kept
    | with_reducible apply record_kept
    | with_reducible apply refuse_kept
    | split

theorem claimListH_kept (p) {s : State} {q : List Instr} {k : Nat} (h : Kept q k s) :
    Kept q k (claimListH p s).2 := by
  delta claimListH
  repeat' first
    | with_reducible assumption
    | (lift_lets -underBinder; intro x; subst x)
    | (intro x; subst x)
    | with_reducible apply kept_ite2
    | with_reducible apply refuse_kept

theorem sessionOpen_kept (n) {s : State} {q : List Instr} {k : Nat} (h : Kept q k s) :
    Kept q k (sessionOpen n s) := by
  delta sessionOpen
  repeat' first
    | with_reducible assumption
    | (lift_lets -underBinder; intro x; subst x)
    | (intro x; subst x)
    | intro _
    | with_reducible apply kept_ite
    | with_reducible apply basmos_kept
    | with_reducible apply openFailed_kept
    | with_reducible apply openH_kept

theorem watchLapse_kept {s : State} {q : List Instr} {k : Nat} (h : Kept q k s) :
    Kept q k (watchLapse s) := by
  delta watchLapse
  repeat' first
    | with_reducible assumption
    | (lift_lets -underBinder; intro x; refine (fun (hx : Kept q k x) => ?_) ?_; clear_value x; rotate_left; subst x; rotate_right)
    | with_reducible apply kept_ite
    | with_reducible apply startWake_kept
    | with_reducible apply unforce_kept

theorem sessionEnd_kept {s : State} {q : List Instr} {k : Nat} (h : Kept q k s) :
    Kept q k (sessionEnd s) := by
  delta sessionEnd
  repeat' first
    | with_reducible assumption
    | (intro x; refine (fun (hx : Kept q k x) => ?_) ?_; clear_value x; rotate_left; subst x; rotate_right)
    | (lift_lets -underBinder; intro x; subst x)
    | (intro x; subst x)
    | with_reducible apply kept_ite
    | with_reducible apply avsLapse_kept
    | with_reducible apply creditLapse_kept
    | with_reducible apply holdsLapse_kept
    | with_reducible apply note_kept
    | with_reducible apply qosLapse_kept
    | with_reducible apply releaseClaim_kept
    | with_reducible apply wakeLapse_kept
    | with_reducible apply watchLapse_kept
    | with_reducible apply waysLapse_kept
    | with_reducible refine kept_foldl (fun _ _ _ => ?_) _ ?_
    | refine kept_mk ?_ rfl rfl rfl rfl rfl rfl rfl rfl rfl

theorem flrMbx_canonical (n : Nat) (m : Mbx) (h : Memory.wf m.req = true ∧ Memory.wf m.resp = true) :
    Memory.wf (flrMbx n m).req = true ∧ Memory.wf (flrMbx n m).resp = true := by
  delta flrMbx
  split
  · exact h
  · split
    · exact h
    · exact h

theorem functionReset_kept {q : List Instr} {k : Nat} {s : State} (h : Kept q k s) : Kept q k (functionReset s) := by
  delta functionReset
  dsimp only
  have h' : Kept q k { s with kiosk := { s.kiosk with
      mbx := tmap flrMbx s.kiosk.mbx, evtVector := 0, evtEn := false, msixTab := msixReset, msixPba := 0 } } := by
    refine kept_kiosk h reset_stores_wf.1 fun e he => ?_
    obtain ⟨d, hd, rfl⟩ := List.mem_map.1 he
    exact flrMbx_canonical _ _ (h.2.1.mailboxes d hd)
  split
  · exact kept_ite (sessionEnd_kept h') h'
  · exact h'

theorem closeH_kept (n) (a1) {s : State} {q : List Instr} {k : Nat} (h : Kept q k s) :
    Kept q k (closeH n a1 s).2 := by
  delta closeH
  repeat' first
    | with_reducible assumption
    | (lift_lets -underBinder; intro x; subst x)
    | with_reducible apply kept_ite
    | with_reducible apply sessionEnd_kept
    | split

theorem challengeH_kept (a0) {s : State} {q : List Instr} {k : Nat} (h : Kept q k s) :
    Kept q k (challengeH a0 s).2 := by
  delta challengeH
  repeat' first
    | with_reducible assumption
    | (intro x; refine (fun (hx : Kept q k x) => ?_) ?_; clear_value x; rotate_left; subst x; rotate_right)
    | (lift_lets -underBinder; intro x; subst x)
    | (intro x; subst x)
    | with_reducible apply kept_ite2
    | with_reducible apply draw_kept
    | with_reducible apply drbgRequest_kept
    | with_reducible apply refuse_kept
    | refine kept_mk ?_ rfl rfl rfl rfl rfl rfl rfl rfl rfl

/-! ### Machine/SysRows.lean -/

theorem alreadyThere_kept {s : State} {q : List Instr} {k : Nat} (h : Kept q k s) :
    Kept q k (alreadyThere s).2 := by
  delta alreadyThere
  repeat' first
    | with_reducible assumption
    | intro _
    | with_reducible apply finishJob_kept
    | with_reducible apply withJob_kept

theorem powerForceH_kept (p) {s : State} {q : List Instr} {k : Nat} (h : Kept q k s) :
    Kept q k (powerForceH p s).2 := by
  delta powerForceH
  repeat' first
    | with_reducible assumption
    | (lift_lets -underBinder; intro x; subst x)
    | (intro x; subst x)
    | intro _
    | with_reducible apply kept_ite2
    | with_reducible apply alreadyThere_kept
    | with_reducible apply refuse_kept
    | with_reducible apply startDormant_kept
    | with_reducible apply startSleep_kept
    | with_reducible apply startWake_kept
    | with_reducible apply withJob_kept
    | split
    | dsimp only

theorem policyTimer_kept (hours) {s : State} {q : List Instr} {k : Nat} (h : Kept q k s) :
    Kept q k (policyTimer hours s) := by
  delta policyTimer
  repeat' first
    | with_reducible assumption
    | (intro x; refine (fun (hx : Kept q k x) => ?_) ?_; clear_value x; rotate_left; subst x; rotate_right)
    | (lift_lets -underBinder; intro x; subst x)
    | with_reducible apply kept_ite
    | with_reducible apply dropClaim_kept
    | with_reducible apply setClaim_kept
    | with_reducible apply setEn_kept
    | with_reducible apply setTimer_kept
    | with_reducible apply timerCompare_kept

theorem powerPolicyH_kept (p) {s : State} {q : List Instr} {k : Nat} (h : Kept q k s) :
    Kept q k (powerPolicyH p s).2 := by
  delta powerPolicyH
  repeat' first
    | with_reducible assumption
    | (intro x; refine (fun (hx : Kept q k x) => ?_) ?_; clear_value x; rotate_left; subst x; rotate_right)
    | (lift_lets -underBinder; intro x; subst x)
    | (intro x; subst x)
    | with_reducible apply kept_ite
    | with_reducible apply kept_ite2
    | with_reducible apply policyTimer_kept
    | with_reducible apply refuse_kept
    | refine kept_mk ?_ rfl rfl rfl rfl rfl rfl rfl rfl rfl

theorem sysInfoH_kept (a0) {s : State} {q : List Instr} {k : Nat} (h : Kept q k s) :
    Kept q k (sysInfoH a0 s).2 := by
  delta sysInfoH
  repeat' first
    | with_reducible assumption

theorem wakeSourceH_kept (p) {s : State} {q : List Instr} {k : Nat} (h : Kept q k s) :
    Kept q k (wakeSourceH p s).2 := by
  delta wakeSourceH
  repeat' first
    | with_reducible assumption
    | (intro x; refine (fun (hx : Kept q k x) => ?_) ?_; clear_value x; rotate_left; subst x; rotate_right)
    | (lift_lets -underBinder; intro x; subst x)
    | (intro x; subst x)
    | with_reducible apply kept_ite
    | with_reducible apply kept_ite2
    | with_reducible apply force_kept
    | with_reducible apply refuse_kept
    | with_reducible apply setClaim_kept
    | with_reducible apply setEn_kept
    | with_reducible apply setGpio_kept
    | with_reducible apply setTimer_kept
    | with_reducible apply timerCompare_kept
    | refine kept_mk ?_ rfl rfl rfl rfl rfl rfl rfl rfl rfl

theorem headResetH_kept (p) {s : State} {q : List Instr} {k : Nat} (h : Kept q k s) :
    Kept q k (headResetH p s).2 := by
  delta headResetH
  repeat' first
    | with_reducible assumption
    | (lift_lets -underBinder; intro x; subst x)
    | (intro x; subst x)
    | intro _
    | with_reducible apply kept_ite2
    | with_reducible apply refuse_kept
    | with_reducible apply startHandover_kept
    | with_reducible apply withJob_kept
    | refine kept_mk ?_ rfl rfl rfl rfl rfl rfl rfl rfl rfl

theorem avsSetH_kept (n) (p) {s : State} {q : List Instr} {k : Nat} (h : Kept q k s) :
    Kept q k (avsSetH n p s).2 := by
  delta avsSetH
  repeat' first
    | with_reducible assumption
    | (lift_lets -underBinder; intro x; subst x)
    | (intro x; subst x)
    | with_reducible apply kept_ite2
    | with_reducible apply pushAvs_kept
    | with_reducible apply refuse_kept

theorem jobStatusH_kept (p) {s : State} {q : List Instr} {k : Nat} (h : Kept q k s) :
    Kept q k (jobStatusH p s).2 := by
  delta jobStatusH
  repeat' first
    | with_reducible assumption
    | (lift_lets -underBinder; intro x; subst x)
    | (intro x; subst x)
    | with_reducible apply kept_ite
    | with_reducible apply refuse_kept
    | split
    | refine kept_mk ?_ rfl rfl rfl rfl rfl rfl rfl rfl rfl

theorem powerStatusH_kept (a0) {s : State} {q : List Instr} {k : Nat} (h : Kept q k s) :
    Kept q k (powerStatusH a0 s).2 := by
  delta powerStatusH
  repeat' first
    | with_reducible assumption

/-! ### Machine/Health.lean -/

theorem sysHealthH_kept (a0) {s : State} {q : List Instr} {k : Nat} (h : Kept q k s) :
    Kept q k (sysHealthH a0 s).2 := by
  delta sysHealthH
  repeat' first
    | with_reducible assumption

theorem raiseRail_kept (r) {s : State} {q : List Instr} {k : Nat} (h : Kept q k s) :
    Kept q k (raiseRail r s) := by
  delta raiseRail
  repeat' first
    | with_reducible assumption
    | (lift_lets -underBinder; intro x; subst x)
    | (intro x; subst x)
    | with_reducible apply kept_ite
    | with_reducible apply pushAvs_kept
    | refine kept_mk ?_ rfl rfl rfl rfl rfl rfl rfl rfl rfl

theorem pathMonitors_kept (slack) {s : State} {q : List Instr} {k : Nat} (h : Kept q k s) :
    Kept q k (pathMonitors slack s) := by
  delta pathMonitors
  repeat' first
    | with_reducible assumption
    | (intro x; refine (fun (hx : Kept q k x) => ?_) ?_; clear_value x; rotate_left; subst x; rotate_right)
    | (lift_lets -underBinder; intro x; subst x)
    | (intro x; subst x)
    | with_reducible apply kept_ite
    | with_reducible apply handOffFenced_kept
    | with_reducible apply note_kept
    | with_reducible apply raiseRail_kept
    | with_reducible refine kept_foldl (fun _ _ _ => ?_) _ ?_
    | refine kept_mk ?_ rfl rfl rfl rfl rfl rfl rfl rfl rfl

theorem engineGone_kept (e) {s : State} {q : List Instr} {k : Nat} (h : Kept q k s) :
    Kept q k (engineGone e s) := by
  delta engineGone
  repeat' first
    | with_reducible assumption
    | (lift_lets -underBinder; intro x; subst x)
    | with_reducible apply handOffFenced_kept
    | with_reducible apply record_kept
    | refine kept_mk ?_ rfl rfl rfl rfl rfl rfl rfl rfl rfl

theorem lastingAction_kept (subj) {s : State} {q : List Instr} {k : Nat} (h : Kept q k s) :
    Kept q k (lastingAction subj s) := by
  delta lastingAction
  repeat' first
    | with_reducible assumption
    | (intro x; refine (fun (hx : Kept q k x) => ?_) ?_; clear_value x; rotate_left; subst x; rotate_right)
    | (lift_lets -underBinder; intro x; subst x)
    | (intro x; subst x)
    | with_reducible apply kept_ite
    | with_reducible apply draw_kept
    | with_reducible apply engineGone_kept
    | with_reducible apply loseSled_kept
    | with_reducible apply portEnable_kept
    | with_reducible apply rankOut_kept
    | with_reducible apply restored_kept
    | with_reducible apply retireBlock_kept
    | split
    | refine kept_mk ?_ rfl rfl rfl rfl rfl rfl rfl rfl rfl

theorem fwActivateH_kept (p) {s : State} {q : List Instr} {k : Nat} (h : Kept q k s) :
    Kept q k (fwActivateH p s).2 := by
  delta fwActivateH
  repeat' first
    | with_reducible assumption
    | (lift_lets -underBinder; intro x; subst x)
    | (intro x; subst x)
    | intro _
    | with_reducible apply kept_ite
    | with_reducible apply kept_ite2
    | with_reducible apply refuse_kept
    | with_reducible apply startHandover_kept
    | with_reducible apply withJob_kept
    | refine kept_mk ?_ rfl rfl rfl rfl rfl rfl rfl rfl rfl

theorem fwStageH_kept (readOk) (p) {s : State} {q : List Instr} {k : Nat} (h : Kept q k s) :
    Kept q k (fwStageH readOk p s).2 := by
  delta fwStageH
  repeat' first
    | with_reducible assumption
    | (intro x; refine (fun (hx : Kept q k x) => ?_) ?_; clear_value x; rotate_left; subst x; rotate_right)
    | (lift_lets -underBinder; intro x; subst x)
    | (intro x; subst x)
    | intro _
    | with_reducible apply kept_ite
    | with_reducible apply kept_ite2
    | with_reducible apply finishJob_kept
    | with_reducible apply note_kept
    | with_reducible apply record_kept
    | with_reducible apply pkaSubmit_kept
    | with_reducible apply refuse_kept
    | with_reducible apply setBoot_kept
    | with_reducible apply withJob_kept

theorem errorSignalled_kept (cls) (subsystem) (subj) {s : State} {q : List Instr} {k : Nat} (h : Kept q k s) :
    Kept q k (errorSignalled cls subsystem subj s) := by
  delta errorSignalled
  repeat' first
    | with_reducible assumption
    | with_reducible apply errorOn_kept
    | with_reducible apply record_kept
    | split

theorem selftestH_kept (p) {s : State} {q : List Instr} {k : Nat} (h : Kept q k s) :
    Kept q k (selftestH p s).2 := by
  delta selftestH
  repeat' first
    | with_reducible assumption
    | (lift_lets -underBinder; intro x; subst x)
    | intro _
    | with_reducible apply kept_ite2
    | with_reducible apply refuse_kept
    | with_reducible apply startTest_kept
    | with_reducible apply withJob_kept
    | split

theorem nextTest_kept {s : State} {q : List Instr} {k : Nat} (h : Kept q k s) :
    Kept q k (nextTest s) := by
  delta nextTest
  repeat' first
    | with_reducible assumption
    | (lift_lets -underBinder; intro x; subst x)
    | with_reducible apply kept_ite
    | split
    | refine kept_mk ?_ rfl rfl rfl rfl rfl rfl rfl rfl rfl

theorem verdict_kept (subj) (v) (mismatches) {s : State} {q : List Instr} {k : Nat} (h : Kept q k s) :
    Kept q k (verdict subj v mismatches s) := by
  delta verdict
  repeat' first
    | with_reducible assumption
    | (intro x; refine (fun (hx : Kept q k x) => ?_) ?_; clear_value x; rotate_left; subst x; rotate_right)
    | (lift_lets -underBinder; intro x; subst x)
    | (intro x; subst x)
    | with_reducible apply kept_ite
    | with_reducible apply finishJobs_kept
    | with_reducible apply lastingAction_kept
    | with_reducible apply nextTest_kept
    | with_reducible apply record_kept
    | with_reducible apply restored_kept
    | split
    | refine kept_mk ?_ rfl rfl rfl rfl rfl rfl rfl rfl rfl

/-! ### Machine/HostRows.lean -/

theorem invalidNak_kept (n) {s : State} {q : List Instr} {k : Nat} (h : Kept q k s) :
    Kept q k (invalidNak n s) := by
  delta invalidNak
  repeat' first
    | with_reducible assumption
    | with_reducible apply kept_ite
    | with_reducible apply errorQp_kept

/-! ### Machine/IngestRows.lean -/

theorem journalAck_kept (off) {s : State} {q : List Instr} {k : Nat} (h : Kept q k s) :
    Kept q k (journalAck off s) := by
  delta journalAck
  repeat' first
    | with_reducible assumption
    | with_reducible apply modOwn_kept

/-! ### Machine/Kiosk.lean -/

theorem cancelRequest_kept (n) {s : State} {q : List Instr} {k : Nat} (h : Kept q k s) :
    Kept q k (cancelRequest n s) := by
  delta cancelRequest
  repeat' first
    | with_reducible assumption
    | (lift_lets -underBinder; intro x; subst x)
    | with_reducible apply finishStatus_kept
    | with_reducible apply setMbx_kept
    | exact kept_mbxOf (by with_reducible assumption) _
    | split

theorem mbxCancel_kept (n) {s : State} {q : List Instr} {k : Nat} (h : Kept q k s) :
    Kept q k (mbxCancel n s) := by
  delta mbxCancel
  repeat' first
    | with_reducible assumption
    | (lift_lets -underBinder; intro x; subst x)
    | with_reducible apply kept_ite
    | with_reducible apply cancelRequest_kept
    | with_reducible apply setMbx_kept
    | exact kept_mbxOf (by with_reducible assumption) _

theorem postRequest_kept (n) (p) {s : State} {q : List Instr} {k : Nat} (h : Kept q k s) :
    Kept q k (postRequest n p s) := by
  delta postRequest
  repeat' first
    | with_reducible assumption
    | (intro x; refine (fun (hx : Kept q k x) => ?_) ?_; clear_value x; rotate_left; subst x; rotate_right)
    | (lift_lets -underBinder; intro x; subst x)
    | (intro x; subst x)
    | with_reducible apply monBegin_kept
    | with_reducible apply setMbx_kept
    | exact kept_mbxOf (by with_reducible assumption) _
    | split
    | refine kept_mk ?_ rfl rfl rfl rfl rfl rfl rfl rfl rfl

theorem mbxRing_kept (n) {s : State} {q : List Instr} {k : Nat} (h : Kept q k s) :
    Kept q k (mbxRing n s) := by
  delta mbxRing
  repeat' first
    | with_reducible assumption
    | (lift_lets -underBinder; intro x; subst x)
    | with_reducible apply kept_ite
    | with_reducible apply postRequest_kept
    | with_reducible apply setMbx_kept
    | exact kept_mbxOf (by with_reducible assumption) _

theorem ackResponse_kept (n) {s : State} {q : List Instr} {k : Nat} (h : Kept q k s) :
    Kept q k (ackResponse n s) := by
  delta ackResponse
  repeat' first
    | with_reducible assumption
    | (intro x; refine (fun (hx : Kept q k x) => ?_) ?_; clear_value x; rotate_left; subst x; rotate_right)
    | (lift_lets -underBinder; intro x; subst x)
    | (intro x; subst x)
    | with_reducible apply kept_ite
    | with_reducible apply setMbx_kept
    | exact kept_mbxOf (by with_reducible assumption) _
    | refine kept_mk ?_ rfl rfl rfl rfl rfl rfl rfl rfl rfl

theorem mbxDoneAck_kept (n) {s : State} {q : List Instr} {k : Nat} (h : Kept q k s) :
    Kept q k (mbxDoneAck n s) := by
  delta mbxDoneAck
  repeat' first
    | with_reducible assumption
    | (lift_lets -underBinder; intro x; subst x)
    | with_reducible apply kept_ite
    | with_reducible apply ackResponse_kept
    | with_reducible apply setMbx_kept
    | exact kept_mbxOf (by with_reducible assumption) _

theorem mbxRequestWrite_kept (n) (off) (data) {s : State} {q : List Instr} {k : Nat} (h : Kept q k s) :
    Kept q k (mbxRequestWrite n off data s) := by
  delta mbxRequestWrite
  repeat' first
    | with_reducible assumption
    | (lift_lets -underBinder; intro x; subst x)
    | with_reducible apply kept_ite
    | with_reducible apply record_kept
    | with_reducible apply setMbx_kept
    | exact kept_mbxOf (by with_reducible assumption) _
    | exact ⟨memPuts_wf (kept_mbxOf (by with_reducible assumption) _).1, (kept_mbxOf (by with_reducible assumption) _).2⟩

theorem mb63ReadOffset_kept (off) {s : State} {q : List Instr} {k : Nat} (h : Kept q k s) :
    Kept q k (mb63ReadOffset off s) := by
  delta mb63ReadOffset
  repeat' first
    | with_reducible assumption
    | (lift_lets -underBinder; intro x; subst x)
    | refine kept_mk ?_ rfl rfl rfl rfl rfl rfl rfl rfl rfl

theorem jobResultExpiry_kept (job) {s : State} {q : List Instr} {k : Nat} (h : Kept q k s) :
    Kept q k (jobResultExpiry job s) := by
  delta jobResultExpiry
  repeat' first
    | with_reducible assumption
    | (lift_lets -underBinder; intro x; subst x)
    | refine kept_mk ?_ rfl rfl rfl rfl rfl rfl rfl rfl rfl

theorem mbxTake_kept (n) {s : State} {q : List Instr} {k : Nat} (h : Kept q k s) :
    Kept q k (mbxTake n s) := by
  delta mbxTake
  repeat' first
    | with_reducible assumption
    | (intro x; refine (fun (hx : Kept q k x) => ?_) ?_; clear_value x; rotate_left; subst x; rotate_right)
    | (lift_lets -underBinder; intro x; subst x)
    | (intro x; subst x)
    | with_reducible apply kept_ite
    | with_reducible apply finishStatus_kept
    | with_reducible apply setMbx_kept
    | with_reducible apply writePart_kept
    | exact kept_mbxOf (by with_reducible assumption) _

theorem mb63Write_kept (off) (data) {s : State} {q : List Instr} {k : Nat} (h : Kept q k s) :
    Kept q k (mb63Write off data s) := by
  delta mb63Write
  repeat' first
    | with_reducible assumption
    | (lift_lets -underBinder; intro x; subst x)
    | with_reducible apply kept_ite
    | with_reducible apply emit_kept
    | with_reducible apply setMbx_kept
    | exact kept_mbxOf (by with_reducible assumption) _
    | exact ⟨memPuts_wf (kept_mbxOf (by with_reducible assumption) _).1, (kept_mbxOf (by with_reducible assumption) _).2⟩

theorem mb63Read_kept (count) {s : State} {q : List Instr} {k : Nat} (h : Kept q k s) :
    Kept q k (mb63Read count s) := by
  delta mb63Read
  repeat' first
    | with_reducible assumption
    | (intro x; refine (fun (hx : Kept q k x) => ?_) ?_; clear_value x; rotate_left; subst x; rotate_right)
    | (lift_lets -underBinder; intro x; subst x)
    | (intro x; subst x)
    | with_reducible apply kept_ite
    | with_reducible apply emit_kept
    | refine kept_mk ?_ rfl rfl rfl rfl rfl rfl rfl rfl rfl

theorem pecFail_kept {s : State} {q : List Instr} {k : Nat} (h : Kept q k s) :
    Kept q k (pecFail s) := by
  delta pecFail
  repeat' first
    | with_reducible assumption
    | (lift_lets -underBinder; intro x; subst x)
    | with_reducible apply record_kept
    | refine kept_mk ?_ rfl rfl rfl rfl rfl rfl rfl rfl rfl

theorem basmosPartTimeout_kept (n) {s : State} {q : List Instr} {k : Nat} (h : Kept q k s) :
    Kept q k (basmosPartTimeout n s) := by
  delta basmosPartTimeout
  repeat' first
    | with_reducible assumption
    | (lift_lets -underBinder; intro x; subst x)
    | with_reducible apply kept_ite
    | with_reducible apply setMbx_kept
    | exact kept_mbxOf (by with_reducible assumption) _

theorem mb63Ring_kept {s : State} {q : List Instr} {k : Nat} (h : Kept q k s) :
    Kept q k (mb63Ring s) := by
  delta mb63Ring
  repeat' first
    | with_reducible assumption
    | (lift_lets -underBinder; intro x; subst x)
    | with_reducible apply kept_ite
    | with_reducible apply postRequest_kept
    | with_reducible apply setMbx_kept
    | exact kept_mbxOf (by with_reducible assumption) _

theorem basmosPart_kept (n) {s : State} {q : List Instr} {k : Nat} (h : Kept q k s) :
    Kept q k (basmosPart n s) := by
  delta basmosPart
  repeat' first
    | with_reducible assumption
    | (lift_lets -underBinder; intro x; subst x)
    | (intro x; subst x)
    | with_reducible apply kept_ite
    | with_reducible apply finishStatus_kept
    | with_reducible apply setMbx_kept
    | exact kept_mbxOf (by with_reducible assumption) _

theorem smbCommand_kept (pecOk) (statusRead) {f : State → State} {s : State} {q : List Instr} {k : Nat} (hf : ∀ y0, Kept q k y0 → Kept q k (f y0)) (h : Kept q k s) :
    Kept q k (smbCommand pecOk statusRead f s) := by
  delta smbCommand
  repeat' first
    | with_reducible assumption
    | with_reducible apply kept_ite
    | with_reducible apply hf
    | with_reducible apply emit_kept
    | with_reducible apply pecFail_kept

theorem mb63StatusRead_kept {s : State} {q : List Instr} {k : Nat} (h : Kept q k s) :
    Kept q k (mb63StatusRead s) := by
  delta mb63StatusRead
  repeat' first
    | with_reducible assumption
    | (lift_lets -underBinder; intro x; subst x)
    | with_reducible apply emit_kept

theorem nonceExpiry_kept (a0) {s : State} {q : List Instr} {k : Nat} (h : Kept q k s) :
    Kept q k (nonceExpiry a0 s) := by
  delta nonceExpiry
  repeat' first
    | with_reducible assumption
    | (lift_lets -underBinder; intro x; subst x)
    | refine kept_mk ?_ rfl rfl rfl rfl rfl rfl rfl rfl rfl

theorem kioskHwTimeout_kept (n) {s : State} {q : List Instr} {k : Nat} (h : Kept q k s) :
    Kept q k (kioskHwTimeout n s) := by
  delta kioskHwTimeout
  repeat' first
    | with_reducible assumption
    | (lift_lets -underBinder; intro x; refine (fun (hx : Kept q k x) => ?_) ?_; clear_value x; rotate_left; subst x; rotate_right)
    | (intro x; subst x)
    | with_reducible apply kept_ite
    | with_reducible apply finishMbx_kept
    | with_reducible apply setMbx_kept
    | exact kept_mbxOf (by with_reducible assumption) _

theorem smbusAlertResponse_kept {s : State} {q : List Instr} {k : Nat} (h : Kept q k s) :
    Kept q k (smbusAlertResponse s) := by
  delta smbusAlertResponse
  repeat' first
    | with_reducible assumption
    | (lift_lets -underBinder; intro x; subst x)
    | refine kept_mk ?_ rfl rfl rfl rfl rfl rfl rfl rfl rfl

theorem sessionLockoutEnd_kept {s : State} {q : List Instr} {k : Nat} (h : Kept q k s) :
    Kept q k (sessionLockoutEnd s) := by
  delta sessionLockoutEnd
  repeat' first
    | with_reducible assumption
    | (lift_lets -underBinder; intro x; subst x)
    | refine kept_mk ?_ rfl rfl rfl rfl rfl rfl rfl rfl rfl

/-! ### Machine/LinkRows.lean -/

theorem newSled_kept (p) (v) {s : State} {q : List Instr} {k : Nat} (h : Kept q k s) :
    Kept q k (newSled p v s) := by
  delta newSled
  repeat' first
    | with_reducible assumption
    | (intro x; refine (fun (hx : Kept q k x) => ?_) ?_; clear_value x; rotate_left; subst x; rotate_right)
    | (lift_lets -underBinder; intro x; subst x)
    | (intro x; subst x)
    | with_reducible apply kept_ite
    | with_reducible apply addItem_kept
    | with_reducible apply record_kept
    | with_reducible apply setPort_kept
    | with_reducible apply setShelf_kept
    | refine kept_mk ?_ rfl rfl rfl rfl rfl rfl rfl rfl rfl

theorem bridgeInfoResponse_kept (r) (reread) {s : State} {q : List Instr} {k : Nat} (h : Kept q k s) :
    Kept q k (bridgeInfoResponse r reread s) := by
  delta bridgeInfoResponse
  repeat' first
    | with_reducible assumption
    | (intro x; refine (fun (hx : Kept q k x) => ?_) ?_; clear_value x; rotate_left; subst x; rotate_right)
    | (lift_lets -underBinder; intro x; subst x)
    | (intro x; subst x)
    | with_reducible apply kept_ite
    | with_reducible apply makeUsable_kept
    | with_reducible apply newSled_kept
    | with_reducible apply oddOutcome_kept
    | with_reducible apply record_kept
    | with_reducible apply setPort_kept
    | with_reducible apply takeRecord_kept
    | with_reducible apply takeResponse_kept
    | split
    | refine kept_snd (by with_reducible assumption) ?_

theorem programResponse_kept (r) {s : State} {q : List Instr} {k : Nat} (h : Kept q k s) :
    Kept q k (programResponse r s) := by
  delta programResponse
  repeat' first
    | with_reducible assumption
    | with_reducible apply sledAnswer_kept
    | with_reducible apply takeResponse_kept
    | split
    | refine kept_snd (by with_reducible assumption) ?_

theorem eraseResponse_kept (r) {s : State} {q : List Instr} {k : Nat} (h : Kept q k s) :
    Kept q k (eraseResponse r s) := by
  delta eraseResponse
  repeat' first
    | with_reducible assumption
    | with_reducible apply sledAnswer_kept
    | with_reducible apply takeResponse_kept
    | split
    | refine kept_snd (by with_reducible assumption) ?_

theorem noticeIn_kept (p) (kind) (die) (temp) {s : State} {q : List Instr} {k : Nat} (h : Kept q k s) :
    Kept q k (noticeIn p kind die temp s) := by
  delta noticeIn
  repeat' first
    | with_reducible assumption
    | (lift_lets -underBinder; intro x; subst x)
    | (intro x; subst x)
    | with_reducible apply kept_ite
    | with_reducible apply loseSled_kept
    | with_reducible apply record_kept
    | with_reducible apply retireDie_kept
    | with_reducible apply setPort_kept

theorem linkActiveTimeout_kept (p) {s : State} {q : List Instr} {k : Nat} (h : Kept q k s) :
    Kept q k (linkActiveTimeout p s) := by
  delta linkActiveTimeout
  repeat' first
    | with_reducible assumption
    | (lift_lets -underBinder; intro x; subst x)
    | with_reducible apply kept_ite
    | with_reducible apply linkError_kept
    | with_reducible apply loseSled_kept

theorem dieStatusResponse_kept (r) {s : State} {q : List Instr} {k : Nat} (h : Kept q k s) :
    Kept q k (dieStatusResponse r s) := by
  delta dieStatusResponse
  repeat' first
    | with_reducible assumption
    | with_reducible apply kept_ite
    | with_reducible apply oddOutcome_kept
    | with_reducible apply retireDie_kept
    | with_reducible apply takeResponse_kept
    | split
    | refine kept_snd (by with_reducible assumption) ?_

theorem portLockResponse_kept (r) {s : State} {q : List Instr} {k : Nat} (h : Kept q k s) :
    Kept q k (portLockResponse r s) := by
  delta portLockResponse
  repeat' first
    | with_reducible assumption
    | (intro x; refine (fun (hx : Kept q k x) => ?_) ?_; clear_value x; rotate_left; subst x; rotate_right)
    | (lift_lets -underBinder; intro x; subst x)
    | with_reducible apply kept_ite
    | with_reducible apply makeUsable_kept
    | with_reducible apply oddOutcome_kept
    | with_reducible apply setPort_kept
    | with_reducible apply takeResponse_kept
    | split
    | refine kept_snd (by with_reducible assumption) ?_

theorem readResponse_kept (r) {s : State} {q : List Instr} {k : Nat} (h : Kept q k s) :
    Kept q k (readResponse r s) := by
  delta readResponse
  repeat' first
    | with_reducible assumption
    | with_reducible apply sledAnswer_kept
    | with_reducible apply takeResponse_kept
    | split
    | refine kept_snd (by with_reducible assumption) ?_

/-! ### Machine/RegRead.lean -/

theorem regReadEffect_kept (a0) {s : State} {q : List Instr} {k : Nat} (h : Kept q k s) :
    Kept q k (regReadEffect a0 s) := by
  delta regReadEffect
  repeat' first
    | with_reducible assumption
    | (lift_lets -underBinder; intro x; subst x)
    | with_reducible apply kept_ite
    | with_reducible apply draw_kept
    | refine kept_mk ?_ rfl rfl rfl rfl rfl rfl rfl rfl rfl

/-! ### Machine/RegWrite.lean -/

theorem onSec_kept {f : Sec → Sec} {q : List Instr} {k : Nat} {s : State} (h : Kept q k s)
    (h1 : (f s.sec).fuseCount = s.sec.fuseCount) (h2 : (f s.sec).keyData = s.sec.keyData) (h3 : (f s.sec).lodgeMem = s.sec.lodgeMem) :
    Kept q k (onSec f s) := kept_mk h rfl rfl rfl rfl h1 h2 h3 rfl rfl

theorem onEvt_kept {f : Evt → Evt} {q : List Instr} {k : Nat} {s : State} (h : Kept q k s)
    (h1 : (f s.evt).ring = s.evt.ring) : Kept q k (onEvt f s) := kept_mk h rfl rfl h1 rfl rfl rfl rfl rfl rfl

theorem enWrite_kept (u) (cls) (idx) (en) {s : State} {q : List Instr} {k : Nat} (h : Kept q k s) :
    Kept q k (enWrite u cls idx en s) := by
  delta enWrite
  repeat' first
    | with_reducible assumption
    | with_reducible apply kept_ite
    | with_reducible apply claimEnable_kept
    | with_reducible apply setEn_kept

theorem onDmc_kept (n) (f) {s : State} {q : List Instr} {k : Nat} (h : Kept q k s) :
    Kept q k (onDmc n f s) := by
  delta onDmc
  repeat' first
    | with_reducible assumption
    | with_reducible apply setDmc_kept

theorem trnWrite_kept (n) (v) {s : State} {q : List Instr} {k : Nat} (h : Kept q k s) :
    Kept q k (trnWrite n v s) := by
  delta trnWrite
  repeat' first
    | with_reducible assumption
    | (lift_lets -underBinder; intro x; refine (fun (hx : Kept q k x) => ?_) ?_; clear_value x; rotate_left; subst x; rotate_right)
    | with_reducible apply kept_ite
    | with_reducible apply onDmc_kept
    | with_reducible apply trnStart_kept

theorem mbxStatWrite_kept (n) (v) {s : State} {q : List Instr} {k : Nat} (h : Kept q k s) :
    Kept q k (mbxStatWrite n v s) := by
  delta mbxStatWrite
  repeat' first
    | with_reducible assumption
    | (lift_lets -underBinder; intro x; refine (fun (hx : Kept q k x) => ?_) ?_; clear_value x; rotate_left; subst x; rotate_right)
    | (intro x; subst x)
    | with_reducible apply kept_ite
    | with_reducible apply mbxDoneAck_kept
    | with_reducible apply setMbx_kept
    | exact kept_mbxOf (by with_reducible assumption) _

theorem mbxRegWrite_kept (n) (o) (v) {s : State} {q : List Instr} {k : Nat} (h : Kept q k s) :
    Kept q k (mbxRegWrite n o v s) := by
  delta mbxRegWrite
  repeat' first
    | with_reducible assumption
    | (lift_lets -underBinder; intro x; refine (fun (hx : Kept q k x) => ?_) ?_; clear_value x; rotate_left; subst x; rotate_right)
    | (lift_lets -underBinder; intro x; subst x)
    | with_reducible apply kept_ite
    | with_reducible apply mbxCancel_kept
    | with_reducible apply mbxRing_kept
    | with_reducible apply mbxStatWrite_kept
    | with_reducible apply setMbx_kept
    | exact kept_mbxOf (by with_reducible assumption) _
    | split

theorem oddWrite_kept (bar) (addr) (len) {s : State} {q : List Instr} {k : Nat} (h : Kept q k s) :
    Kept q k (oddWrite bar addr len s) := by
  delta oddWrite
  repeat' first
    | with_reducible assumption
    | with_reducible apply record_kept

theorem bar0Write_kept (addr) (data) {s : State} {q : List Instr} {k : Nat} (h : Kept q k s) :
    Kept q k (bar0Write addr data s) := by
  delta bar0Write
  repeat' first
    | with_reducible assumption
    | (lift_lets -underBinder; intro x; subst x)
    | (intro x; subst x)
    | with_reducible apply kept_ite
    | with_reducible apply mbxRegWrite_kept
    | with_reducible apply mbxRequestWrite_kept
    | with_reducible apply oddWrite_kept

theorem evtCtlWrite_kept (v) {s : State} {q : List Instr} {k : Nat} (h : Kept q k s) :
    Kept q k (evtCtlWrite v s) := by
  delta evtCtlWrite
  repeat' first
    | with_reducible assumption
    | (lift_lets -underBinder; intro x; subst x)
    | refine kept_mk ?_ rfl rfl rfl rfl rfl rfl rfl rfl rfl

theorem msixUnmask_kept (v) {s : State} {q : List Instr} {k : Nat} (h : Kept q k s) :
    Kept q k (msixUnmask v s) := by
  delta msixUnmask
  repeat' first
    | with_reducible assumption
    | (lift_lets -underBinder; intro x; subst x)
    | with_reducible apply kept_ite
    | with_reducible apply emit_kept
    | refine kept_mk ?_ rfl rfl rfl rfl rfl rfl rfl rfl rfl

theorem bar1Write_kept (addr data) {q : List Instr} {k : Nat} {s : State} (h : Kept q k s) : Kept q k (bar1Write addr data s) := by
  delta bar1Write
  refine kept_ite (kept_ite (oddWrite_kept _ _ _ h) (msixUnmask_kept _ ?_))
    (kept_ite (oddWrite_kept _ _ _ h) (kept_ite (evtCtlWrite_kept _ h) h))
  exact kept_kiosk h (memPuts_wf h.2.1.msix) h.2.1.mailboxes

theorem atIdx_kept {base stride count o : Nat} {f : Nat → State → State} {g : State → State} {q : List Instr} {k : Nat} {s : State}
    (hf : ∀ i, Kept q k (f i s)) (hg : atIdx base stride count o f = some g) : Kept q k (g s) := by
  obtain ⟨i, -, rfl⟩ := Option.map_eq_some_iff.1 hg
  exact hf i

theorem firstWrite_nil_kept {q : List Instr} {k : Nat} {s : State} (h : Kept q k s) : Kept q k (firstWrite [] s) := h

theorem firstWrite_cons_kept {a : Option (State → State)} {l : List (Option (State → State))} {q : List Instr} {k : Nat} {s : State}
    (ha : ∀ f, a = some f → Kept q k (f s)) (hl : Kept q k (firstWrite l s)) : Kept q k (firstWrite (a :: l) s) := by
  unfold firstWrite at hl ⊢
  cases a with
  | none => exact hl
  | some f => exact ha f rfl

theorem maintCtlWrite_kept (v) {s : State} {q : List Instr} {k : Nat} (h : Kept q k s) :
    Kept q k (maintCtlWrite v s) := by
  delta maintCtlWrite
  repeat' first
    | with_reducible assumption
    | (lift_lets -underBinder; intro x; refine (fun (hx : Kept q k x) => ?_) ?_; clear_value x; rotate_left; subst x; rotate_right)
    | with_reducible apply kept_ite
    | with_reducible apply maintStart_kept
    | refine onCns_kept ?_ rfl

theorem wayPwrWrite_kept (off) {s : State} {q : List Instr} {k : Nat} (h : Kept q k s) :
    Kept q k (wayPwrWrite off s) := by
  delta wayPwrWrite
  repeat' first
    | with_reducible assumption
    | with_reducible apply kept_ite
    | refine onCns_kept ?_ rfl

theorem classWrite_hash (i : Nat) (v : Word) (c : Cns) : (classWrite i v c).hash = c.hash := by
  delta classWrite
  split <;> rfl

theorem cnsPoke_kept (u) (o) (v) {q : List Instr} {k : Nat} {s : State} (h : Kept q k s) :
    Kept q k (cnsPoke u o v s) := by
  delta cnsPoke
  repeat' first
    | with_reducible assumption
    | with_reducible apply enWrite_kept
    | with_reducible refine firstWrite_cons_kept (fun f hf => atIdx_kept (fun i => ?_) hf) ?_
    | with_reducible refine firstWrite_nil_kept ?_
    | with_reducible apply maintCtlWrite_kept
    | refine onCns_kept ?_ (classWrite_hash _ _ _)
    | refine onCns_kept ?_ rfl
    | with_reducible apply sliceHashWrite_kept
    | with_reducible apply wayPwrWrite_kept
    | split

theorem cphPoke_kept (o) (v) {s : State} {q : List Instr} {k : Nat} (h : Kept q k s) :
    Kept q k (cphPoke o v s) := by
  delta cphPoke
  repeat' first
    | with_reducible assumption
    | (lift_lets -underBinder; intro x; refine (fun (hx : Kept q k x) => ?_) ?_; clear_value x; rotate_left; subst x; rotate_right)
    | with_reducible apply kept_ite
    | with_reducible refine firstWrite_cons_kept (fun f hf => atIdx_kept (fun i => ?_) hf) ?_
    | with_reducible refine firstWrite_nil_kept ?_
    | with_reducible apply keyDataWrite_kept
    | refine onSec_kept ?_ rfl rfl rfl
    | with_reducible apply q2Submit_kept
    | with_reducible apply startKeyOp_kept
    | split

theorem dgtCtlWrite_kept (u) (v) {s : State} {q : List Instr} {k : Nat} (h : Kept q k s) :
    Kept q k (dgtCtlWrite u v s) := by
  delta dgtCtlWrite
  repeat' first
    | with_reducible assumption
    | (lift_lets -underBinder; intro x; refine (fun (hx : Kept q k x) => ?_) ?_; clear_value x; rotate_left; subst x; rotate_right)
    | (intro x; refine (fun (hx : Kept q k x) => ?_) ?_; clear_value x; rotate_left; subst x; rotate_right)
    | intro _
    | with_reducible apply kept_ite
    | with_reducible apply dgtOwned_kept
    | with_reducible apply digestFinal_kept
    | with_reducible apply digestStart_kept
    | with_reducible apply setDgt_kept

theorem dgtWordWrite_kept (u) (f) {s : State} {q : List Instr} {k : Nat} (h : Kept q k s) :
    Kept q k (dgtWordWrite u f s) := by
  delta dgtWordWrite
  repeat' first
    | with_reducible assumption
    | with_reducible apply kept_ite
    | with_reducible apply setDgt_kept

theorem dgtPoke_kept (u) (o) (v) {s : State} {q : List Instr} {k : Nat} (h : Kept q k s) :
    Kept q k (dgtPoke u o v s) := by
  delta dgtPoke
  repeat' first
    | with_reducible assumption
    | (lift_lets -underBinder; intro x; refine (fun (hx : Kept q k x) => ?_) ?_; clear_value x; rotate_left; subst x; rotate_right)
    | (lift_lets -underBinder; intro x; subst x)
    | with_reducible apply kept_ite
    | with_reducible apply dgtCtlWrite_kept
    | with_reducible apply dgtRelease_kept
    | with_reducible apply dgtWindowRequest_kept
    | with_reducible apply dgtWordWrite_kept
    | with_reducible apply digestClaimRequest_kept
    | with_reducible apply digestDataWrite_kept
    | with_reducible refine firstWrite_cons_kept (fun f hf => atIdx_kept (fun i => ?_) hf) ?_
    | with_reducible refine firstWrite_nil_kept ?_
    | with_reducible apply setDgt_kept
    | split

theorem geomWrite_kept (n) (v) {s : State} {q : List Instr} {k : Nat} (h : Kept q k s) :
    Kept q k (geomWrite n v s) := by
  delta geomWrite
  repeat' first
    | with_reducible assumption
    | (lift_lets -underBinder; intro x; refine (fun (hx : Kept q k x) => ?_) ?_; clear_value x; rotate_left; subst x; rotate_right)
    | with_reducible apply kept_ite
    | with_reducible apply geomLock_kept
    | with_reducible apply onDmc_kept

theorem onDram_kept {f : Dram → Dram} {q : List Instr} {k : Nat} {s : State} (h : Kept q k s)
    (h1 : (f s.dram).chanHash = s.dram.chanHash) : Kept q k (onDram f s) := kept_mk h rfl rfl rfl rfl rfl rfl rfl h1 rfl

theorem widePoke_kept (o) (v) {s : State} {q : List Instr} {k : Nat} (h : Kept q k s) :
    Kept q k (widePoke o v s) := by
  delta widePoke
  repeat' first
    | with_reducible assumption
    | (lift_lets -underBinder; intro x; subst x)
    | with_reducible apply kept_ite
    | with_reducible apply chanHashWrite_kept
    | with_reducible refine firstWrite_cons_kept (fun f hf => atIdx_kept (fun i => ?_) hf) ?_
    | with_reducible refine firstWrite_nil_kept ?_
    | refine onDram_kept ?_ rfl
    | split

theorem dmcPoke_kept (n) (o) (v) {q : List Instr} {k : Nat} {s : State} (h : Kept q k s) :
    Kept q k (dmcPoke n o v s) := by
  delta dmcPoke
  repeat' first
    | with_reducible assumption
    | with_reducible apply kept_ite
    | with_reducible apply bankHashWrite_kept
    | with_reducible refine firstWrite_cons_kept (fun f hf => atIdx_kept (fun i => ?_) hf) ?_
    | with_reducible refine firstWrite_cons_kept (fun f hf => ?_) ?_
    | with_reducible refine firstWrite_nil_kept ?_
    | (split at hf <;> cases hf)
    | with_reducible apply geomWrite_kept
    | with_reducible apply onDmc_kept
    | with_reducible apply trnWrite_kept
    | with_reducible apply widePoke_kept
    | with_reducible apply writeDelay_kept
    | split

theorem evrPoke_kept (o) (v) {s : State} {q : List Instr} {k : Nat} (h : Kept q k s) :
    Kept q k (evrPoke o v s) := by
  delta evrPoke
  repeat' first
    | with_reducible assumption
    | with_reducible apply kept_ite
    | refine onEvt_kept ?_ rfl
    | split

theorem onGh_kept {f : Gh → Gh} {q : List Instr} {k : Nat} {s : State} (h : Kept q k s)
    (h1 : (f s.gh).pwrCycle = s.gh.pwrCycle) : Kept q k (onGh f s) := kept_mk h rfl rfl rfl h1 rfl rfl rfl rfl rfl

theorem avsCtlWrite_kept (v) {s : State} {q : List Instr} {k : Nat} (h : Kept q k s) :
    Kept q k (avsCtlWrite v s) := by
  delta avsCtlWrite
  repeat' first
    | with_reducible assumption
    | (lift_lets -underBinder; intro x; refine (fun (hx : Kept q k x) => ?_) ?_; clear_value x; rotate_left; subst x; rotate_right)
    | with_reducible apply kept_ite
    | with_reducible apply avsStart_kept
    | refine onGh_kept ?_ rfl

theorem gpioWrite_kept (u) (a1) (v) {s : State} {q : List Instr} {k : Nat} (h : Kept q k s) :
    Kept q k (gpioWrite u a1 v s) := by
  delta gpioWrite
  repeat' first
    | with_reducible assumption
    | (lift_lets -underBinder; intro x; refine (fun (hx : Kept q k x) => ?_) ?_; clear_value x; rotate_left; subst x; rotate_right)
    | (intro x; subst x)
    | with_reducible apply enWrite_kept
    | with_reducible apply setGpio_kept

theorem tmrWrite_kept (u) (t) (v) {s : State} {q : List Instr} {k : Nat} (h : Kept q k s) :
    Kept q k (tmrWrite u t v s) := by
  delta tmrWrite
  repeat' first
    | with_reducible assumption
    | (lift_lets -underBinder; intro x; refine (fun (hx : Kept q k x) => ?_) ?_; clear_value x; rotate_left; subst x; rotate_right)
    | (intro x; subst x)
    | with_reducible apply enWrite_kept
    | with_reducible apply setTimer_kept

theorem ghPoke_kept (u) (o) (v) {s : State} {q : List Instr} {k : Nat} (h : Kept q k s) :
    Kept q k (ghPoke u o v s) := by
  delta ghPoke
  repeat' first
    | with_reducible assumption
    | with_reducible apply kept_ite
    | with_reducible apply avsCtlWrite_kept
    | with_reducible refine firstWrite_cons_kept (fun f hf => atIdx_kept (fun i => ?_) hf) ?_
    | with_reducible refine firstWrite_nil_kept ?_
    | with_reducible apply ghSleep_kept
    | with_reducible apply gpioWrite_kept
    | refine onGh_kept ?_ rfl
    | with_reducible apply timerCompare_kept
    | with_reducible apply tmrWrite_kept
    | with_reducible apply watchdogKick_kept
    | split

theorem monPoke_kept (user) (u) (o) (v) {s : State} {q : List Instr} {k : Nat} (h : Kept q k s) :
    Kept q k (monPoke user u o v s) := by
  delta monPoke
  repeat' first
    | with_reducible assumption
    | (lift_lets -underBinder; intro x; refine (fun (hx : Kept q k x) => ?_) ?_; clear_value x; rotate_left; subst x; rotate_right)
    | (intro x; refine (fun (hx : Kept q k x) => ?_) ?_; clear_value x; rotate_left; subst x; rotate_right)
    | (lift_lets -underBinder; intro x; subst x)
    | (intro x; subst x)
    | with_reducible apply kept_ite
    | with_reducible apply enWrite_kept
    | with_reducible apply monArm_kept
    | with_reducible apply monSnap_kept
    | with_reducible apply monStop_kept
    | with_reducible apply setMon_kept
    | split

theorem slpCtlWrite_kept (p) (v) {s : State} {q : List Instr} {k : Nat} (h : Kept q k s) :
    Kept q k (slpCtlWrite p v s) := by
  delta slpCtlWrite
  repeat' first
    | with_reducible assumption
    | (intro x; refine (fun (hx : Kept q k x) => ?_) ?_; clear_value x; rotate_left; subst x; rotate_right)
    | (lift_lets -underBinder; intro x; subst x)
    | with_reducible apply kept_ite
    | with_reducible apply portEnable_kept
    | with_reducible apply portRetrain_kept
    | with_reducible apply setPort_kept
    | with_reducible apply startPrbs_kept

theorem regPoke_kept (u) (a1) (v) {s : State} {q : List Instr} {k : Nat} (h : Kept q k s) :
    Kept q k (regPoke u a1 v s) := by
  delta regPoke
  repeat' first
    | with_reducible assumption
    | (lift_lets -underBinder; intro x; subst x)
    | with_reducible apply kept_ite
    | with_reducible apply cnsPoke_kept
    | with_reducible apply cphPoke_kept
    | with_reducible apply dgtPoke_kept
    | with_reducible apply dmcPoke_kept
    | with_reducible apply evrPoke_kept
    | with_reducible apply evtCtlWrite_kept
    | with_reducible apply ghPoke_kept
    | with_reducible apply hbKick_kept
    | with_reducible apply monPoke_kept
    | with_reducible apply slpCtlWrite_kept
    | split
    | refine kept_mk ?_ rfl rfl rfl rfl rfl rfl rfl rfl rfl

theorem registerWrite_kept (space) (addr) (data) {s : State} {q : List Instr} {k : Nat} (h : Kept q k s) :
    Kept q k (registerWrite space addr data s) := by
  delta registerWrite
  repeat' first
    | with_reducible assumption
    | with_reducible apply kept_ite
    | with_reducible apply bar0Write_kept
    | with_reducible apply bar1Write_kept
    | with_reducible apply regPoke_kept
    | split

theorem markDenied_kept (addrs) {s : State} {q : List Instr} {k : Nat} (h : Kept q k s) :
    Kept q k (markDenied addrs s) := by
  delta markDenied
  repeat' first
    | with_reducible assumption
    | (lift_lets -underBinder; intro x; subst x)
    | with_reducible apply kept_ite
    | with_reducible apply setDgt_kept

theorem regWriteH_kept (p) {s : State} {q : List Instr} {k : Nat} (h : Kept q k s) :
    Kept q k (regWriteH p s).2 := by
  delta regWriteH
  repeat' first
    | with_reducible assumption
    | (lift_lets -underBinder; intro x; subst x)
    | (intro x; subst x)
    | with_reducible apply kept_ite
    | with_reducible apply kept_ite2
    | with_reducible apply markDenied_kept
    | with_reducible apply refuse_kept
    | with_reducible apply regPoke_kept
    | with_reducible refine kept_foldl (fun _ _ _ => ?_) _ ?_
    | split

theorem regReadH_kept (p) {s : State} {q : List Instr} {k : Nat} (h : Kept q k s) :
    Kept q k (regReadH p s).2 := by
  delta regReadH
  repeat' first
    | with_reducible assumption
    | (lift_lets -underBinder; intro x; subst x)
    | with_reducible apply kept_ite2
    | with_reducible apply refuse_kept
    | with_reducible apply regReadEffect_kept
    | with_reducible refine kept_foldl2 (fun _ _ _ => ?_) _ ?_
    | split

theorem regModifyH_kept (p) {s : State} {q : List Instr} {k : Nat} (h : Kept q k s) :
    Kept q k (regModifyH p s).2 := by
  delta regModifyH
  repeat' first
    | with_reducible assumption
    | (lift_lets -underBinder; intro x; subst x)
    | (intro x; subst x)
    | with_reducible apply kept_ite
    | with_reducible apply markDenied_kept
    | with_reducible apply refuse_kept
    | with_reducible apply regPoke_kept
    | with_reducible apply regReadEffect_kept
    | split

end Sys2Proof.Machine
end

