-- ==== Sys2Proof/Laws/State.lean ====
section
/-!
SUPPORT. Laws/State.lean: for every named update of the state, that each other field is as before, and that what was put in is
read back. Each is true by unfolding one record update, so that a later proof need not unfold it.
-/
namespace Sys2Proof.Machine

/-! ### What an update leaves alone -/

@[simp] theorem emit_pending (o : Out) (s : State) : (emit o s).pending = s.pending := rfl
@[simp] theorem emit_draws (o : Out) (s : State) : (emit o s).draws = s.draws := rfl
@[simp] theorem emit_kiosk (o : Out) (s : State) : (emit o s).kiosk = s.kiosk := rfl
@[simp] theorem emit_evt (o : Out) (s : State) : (emit o s).evt = s.evt := rfl
@[simp] theorem emit_mons (o : Out) (s : State) : (emit o s).mons = s.mons := rfl
@[simp] theorem emit_gh (o : Out) (s : State) : (emit o s).gh = s.gh := rfl
@[simp] theorem emit_ghx (o : Out) (s : State) : (emit o s).ghx = s.ghx := rfl
@[simp] theorem emit_sec (o : Out) (s : State) : (emit o s).sec = s.sec := rfl
@[simp] theorem emit_dram (o : Out) (s : State) : (emit o s).dram = s.dram := rfl
@[simp] theorem emit_cns (o : Out) (s : State) : (emit o s).cns = s.cns := rfl
@[simp] theorem emit_sleds (o : Out) (s : State) : (emit o s).sleds = s.sleds := rfl
@[simp] theorem emit_map (o : Out) (s : State) : (emit o s).map = s.map := rfl
@[simp] theorem emit_plc (o : Out) (s : State) : (emit o s).plc = s.plc := rfl
@[simp] theorem emit_jrn (o : Out) (s : State) : (emit o s).jrn = s.jrn := rfl
@[simp] theorem emit_ing (o : Out) (s : State) : (emit o s).ing = s.ing := rfl
@[simp] theorem emit_ftb (o : Out) (s : State) : (emit o s).ftb = s.ftb := rfl
@[simp] theorem emit_pair (o : Out) (s : State) : (emit o s).pair = s.pair := rfl
@[simp] theorem emit_lat (o : Out) (s : State) : (emit o s).lat = s.lat := rfl
@[simp] theorem emit_rep (o : Out) (s : State) : (emit o s).rep = s.rep := rfl

@[simp] theorem emits_pending (os : List Out) (s : State) : (emits os s).pending = s.pending := rfl
@[simp] theorem emits_draws (os : List Out) (s : State) : (emits os s).draws = s.draws := rfl
@[simp] theorem emits_kiosk (os : List Out) (s : State) : (emits os s).kiosk = s.kiosk := rfl
@[simp] theorem emits_evt (os : List Out) (s : State) : (emits os s).evt = s.evt := rfl
@[simp] theorem emits_mons (os : List Out) (s : State) : (emits os s).mons = s.mons := rfl
@[simp] theorem emits_gh (os : List Out) (s : State) : (emits os s).gh = s.gh := rfl
@[simp] theorem emits_ghx (os : List Out) (s : State) : (emits os s).ghx = s.ghx := rfl
@[simp] theorem emits_sec (os : List Out) (s : State) : (emits os s).sec = s.sec := rfl
@[simp] theorem emits_dram (os : List Out) (s : State) : (emits os s).dram = s.dram := rfl
@[simp] theorem emits_cns (os : List Out) (s : State) : (emits os s).cns = s.cns := rfl
@[simp] theorem emits_sleds (os : List Out) (s : State) : (emits os s).sleds = s.sleds := rfl
@[simp] theorem emits_map (os : List Out) (s : State) : (emits os s).map = s.map := rfl
@[simp] theorem emits_plc (os : List Out) (s : State) : (emits os s).plc = s.plc := rfl
@[simp] theorem emits_jrn (os : List Out) (s : State) : (emits os s).jrn = s.jrn := rfl
@[simp] theorem emits_ing (os : List Out) (s : State) : (emits os s).ing = s.ing := rfl
@[simp] theorem emits_ftb (os : List Out) (s : State) : (emits os s).ftb = s.ftb := rfl
@[simp] theorem emits_pair (os : List Out) (s : State) : (emits os s).pair = s.pair := rfl
@[simp] theorem emits_lat (os : List Out) (s : State) : (emits os s).lat = s.lat := rfl
@[simp] theorem emits_rep (os : List Out) (s : State) : (emits os s).rep = s.rep := rfl

@[simp] theorem draw_pending (s : State) : (draw s).pending = s.pending := rfl
@[simp] theorem draw_out (s : State) : (draw s).out = s.out := rfl
@[simp] theorem draw_kiosk (s : State) : (draw s).kiosk = s.kiosk := rfl
@[simp] theorem draw_evt (s : State) : (draw s).evt = s.evt := rfl
@[simp] theorem draw_mons (s : State) : (draw s).mons = s.mons := rfl
@[simp] theorem draw_gh (s : State) : (draw s).gh = s.gh := rfl
@[simp] theorem draw_ghx (s : State) : (draw s).ghx = s.ghx := rfl
@[simp] theorem draw_sec (s : State) : (draw s).sec = s.sec := rfl
@[simp] theorem draw_dram (s : State) : (draw s).dram = s.dram := rfl
@[simp] theorem draw_cns (s : State) : (draw s).cns = s.cns := rfl
@[simp] theorem draw_sleds (s : State) : (draw s).sleds = s.sleds := rfl
@[simp] theorem draw_map (s : State) : (draw s).map = s.map := rfl
@[simp] theorem draw_plc (s : State) : (draw s).plc = s.plc := rfl
@[simp] theorem draw_jrn (s : State) : (draw s).jrn = s.jrn := rfl
@[simp] theorem draw_ing (s : State) : (draw s).ing = s.ing := rfl
@[simp] theorem draw_ftb (s : State) : (draw s).ftb = s.ftb := rfl
@[simp] theorem draw_pair (s : State) : (draw s).pair = s.pair := rfl
@[simp] theorem draw_lat (s : State) : (draw s).lat = s.lat := rfl
@[simp] theorem draw_rep (s : State) : (draw s).rep = s.rep := rfl

@[simp] theorem setMbx_pending (n : Nat) (m : Mbx) (s : State) : (setMbx n m s).pending = s.pending := rfl
@[simp] theorem setMbx_out (n : Nat) (m : Mbx) (s : State) : (setMbx n m s).out = s.out := rfl
@[simp] theorem setMbx_draws (n : Nat) (m : Mbx) (s : State) : (setMbx n m s).draws = s.draws := rfl
@[simp] theorem setMbx_evt (n : Nat) (m : Mbx) (s : State) : (setMbx n m s).evt = s.evt := rfl
@[simp] theorem setMbx_mons (n : Nat) (m : Mbx) (s : State) : (setMbx n m s).mons = s.mons := rfl
@[simp] theorem setMbx_gh (n : Nat) (m : Mbx) (s : State) : (setMbx n m s).gh = s.gh := rfl
@[simp] theorem setMbx_ghx (n : Nat) (m : Mbx) (s : State) : (setMbx n m s).ghx = s.ghx := rfl
@[simp] theorem setMbx_sec (n : Nat) (m : Mbx) (s : State) : (setMbx n m s).sec = s.sec := rfl
@[simp] theorem setMbx_dram (n : Nat) (m : Mbx) (s : State) : (setMbx n m s).dram = s.dram := rfl
@[simp] theorem setMbx_cns (n : Nat) (m : Mbx) (s : State) : (setMbx n m s).cns = s.cns := rfl
@[simp] theorem setMbx_sleds (n : Nat) (m : Mbx) (s : State) : (setMbx n m s).sleds = s.sleds := rfl
@[simp] theorem setMbx_map (n : Nat) (m : Mbx) (s : State) : (setMbx n m s).map = s.map := rfl
@[simp] theorem setMbx_plc (n : Nat) (m : Mbx) (s : State) : (setMbx n m s).plc = s.plc := rfl
@[simp] theorem setMbx_jrn (n : Nat) (m : Mbx) (s : State) : (setMbx n m s).jrn = s.jrn := rfl
@[simp] theorem setMbx_ing (n : Nat) (m : Mbx) (s : State) : (setMbx n m s).ing = s.ing := rfl
@[simp] theorem setMbx_ftb (n : Nat) (m : Mbx) (s : State) : (setMbx n m s).ftb = s.ftb := rfl
@[simp] theorem setMbx_pair (n : Nat) (m : Mbx) (s : State) : (setMbx n m s).pair = s.pair := rfl
@[simp] theorem setMbx_lat (n : Nat) (m : Mbx) (s : State) : (setMbx n m s).lat = s.lat := rfl
@[simp] theorem setMbx_rep (n : Nat) (m : Mbx) (s : State) : (setMbx n m s).rep = s.rep := rfl

@[simp] theorem setClaim_pending (cls idx holder : Nat) (s : State) : (setClaim cls idx holder s).pending = s.pending := rfl
@[simp] theorem setClaim_out (cls idx holder : Nat) (s : State) : (setClaim cls idx holder s).out = s.out := rfl
@[simp] theorem setClaim_draws (cls idx holder : Nat) (s : State) : (setClaim cls idx holder s).draws = s.draws := rfl
@[simp] theorem setClaim_evt (cls idx holder : Nat) (s : State) : (setClaim cls idx holder s).evt = s.evt := rfl
@[simp] theorem setClaim_mons (cls idx holder : Nat) (s : State) : (setClaim cls idx holder s).mons = s.mons := rfl
@[simp] theorem setClaim_gh (cls idx holder : Nat) (s : State) : (setClaim cls idx holder s).gh = s.gh := rfl
@[simp] theorem setClaim_ghx (cls idx holder : Nat) (s : State) : (setClaim cls idx holder s).ghx = s.ghx := rfl
@[simp] theorem setClaim_sec (cls idx holder : Nat) (s : State) : (setClaim cls idx holder s).sec = s.sec := rfl
@[simp] theorem setClaim_dram (cls idx holder : Nat) (s : State) : (setClaim cls idx holder s).dram = s.dram := rfl
@[simp] theorem setClaim_cns (cls idx holder : Nat) (s : State) : (setClaim cls idx holder s).cns = s.cns := rfl
@[simp] theorem setClaim_sleds (cls idx holder : Nat) (s : State) : (setClaim cls idx holder s).sleds = s.sleds := rfl
@[simp] theorem setClaim_map (cls idx holder : Nat) (s : State) : (setClaim cls idx holder s).map = s.map := rfl
@[simp] theorem setClaim_plc (cls idx holder : Nat) (s : State) : (setClaim cls idx holder s).plc = s.plc := rfl
@[simp] theorem setClaim_jrn (cls idx holder : Nat) (s : State) : (setClaim cls idx holder s).jrn = s.jrn := rfl
@[simp] theorem setClaim_ing (cls idx holder : Nat) (s : State) : (setClaim cls idx holder s).ing = s.ing := rfl
@[simp] theorem setClaim_ftb (cls idx holder : Nat) (s : State) : (setClaim cls idx holder s).ftb = s.ftb := rfl
@[simp] theorem setClaim_pair (cls idx holder : Nat) (s : State) : (setClaim cls idx holder s).pair = s.pair := rfl
@[simp] theorem setClaim_lat (cls idx holder : Nat) (s : State) : (setClaim cls idx holder s).lat = s.lat := rfl
@[simp] theorem setClaim_rep (cls idx holder : Nat) (s : State) : (setClaim cls idx holder s).rep = s.rep := rfl

@[simp] theorem force_pending (op : Nat) (s : State) : (force op s).pending = s.pending := by
  unfold force; split <;> rfl
@[simp] theorem force_out (op : Nat) (s : State) : (force op s).out = s.out := by
  unfold force; split <;> rfl
@[simp] theorem force_draws (op : Nat) (s : State) : (force op s).draws = s.draws := by
  unfold force; split <;> rfl
@[simp] theorem force_evt (op : Nat) (s : State) : (force op s).evt = s.evt := by
  unfold force; split <;> rfl
@[simp] theorem force_mons (op : Nat) (s : State) : (force op s).mons = s.mons := by
  unfold force; split <;> rfl
@[simp] theorem force_gh (op : Nat) (s : State) : (force op s).gh = s.gh := by
  unfold force; split <;> rfl
@[simp] theorem force_ghx (op : Nat) (s : State) : (force op s).ghx = s.ghx := by
  unfold force; split <;> rfl
@[simp] theorem force_sec (op : Nat) (s : State) : (force op s).sec = s.sec := by
  unfold force; split <;> rfl
@[simp] theorem force_dram (op : Nat) (s : State) : (force op s).dram = s.dram := by
  unfold force; split <;> rfl
@[simp] theorem force_cns (op : Nat) (s : State) : (force op s).cns = s.cns := by
  unfold force; split <;> rfl
@[simp] theorem force_sleds (op : Nat) (s : State) : (force op s).sleds = s.sleds := by
  unfold force; split <;> rfl
@[simp] theorem force_map (op : Nat) (s : State) : (force op s).map = s.map := by
  unfold force; split <;> rfl
@[simp] theorem force_plc (op : Nat) (s : State) : (force op s).plc = s.plc := by
  unfold force; split <;> rfl
@[simp] theorem force_jrn (op : Nat) (s : State) : (force op s).jrn = s.jrn := by
  unfold force; split <;> rfl
@[simp] theorem force_ing (op : Nat) (s : State) : (force op s).ing = s.ing := by
  unfold force; split <;> rfl
@[simp] theorem force_ftb (op : Nat) (s : State) : (force op s).ftb = s.ftb := by
  unfold force; split <;> rfl
@[simp] theorem force_pair (op : Nat) (s : State) : (force op s).pair = s.pair := by
  unfold force; split <;> rfl
@[simp] theorem force_lat (op : Nat) (s : State) : (force op s).lat = s.lat := by
  unfold force; split <;> rfl
@[simp] theorem force_rep (op : Nat) (s : State) : (force op s).rep = s.rep := by
  unfold force; split <;> rfl

@[simp] theorem finishJob_pending (k : Nat) (st : Status) (result : Bytes) (s : State) : (finishJob k st result s).pending = s.pending := rfl
@[simp] theorem finishJob_out (k : Nat) (st : Status) (result : Bytes) (s : State) : (finishJob k st result s).out = s.out := rfl
@[simp] theorem finishJob_draws (k : Nat) (st : Status) (result : Bytes) (s : State) : (finishJob k st result s).draws = s.draws := rfl
@[simp] theorem finishJob_evt (k : Nat) (st : Status) (result : Bytes) (s : State) : (finishJob k st result s).evt = s.evt := rfl
@[simp] theorem finishJob_mons (k : Nat) (st : Status) (result : Bytes) (s : State) : (finishJob k st result s).mons = s.mons := rfl
@[simp] theorem finishJob_gh (k : Nat) (st : Status) (result : Bytes) (s : State) : (finishJob k st result s).gh = s.gh := rfl
@[simp] theorem finishJob_ghx (k : Nat) (st : Status) (result : Bytes) (s : State) : (finishJob k st result s).ghx = s.ghx := rfl
@[simp] theorem finishJob_sec (k : Nat) (st : Status) (result : Bytes) (s : State) : (finishJob k st result s).sec = s.sec := rfl
@[simp] theorem finishJob_dram (k : Nat) (st : Status) (result : Bytes) (s : State) : (finishJob k st result s).dram = s.dram := rfl
@[simp] theorem finishJob_cns (k : Nat) (st : Status) (result : Bytes) (s : State) : (finishJob k st result s).cns = s.cns := rfl
@[simp] theorem finishJob_sleds (k : Nat) (st : Status) (result : Bytes) (s : State) : (finishJob k st result s).sleds = s.sleds := rfl
@[simp] theorem finishJob_map (k : Nat) (st : Status) (result : Bytes) (s : State) : (finishJob k st result s).map = s.map := rfl
@[simp] theorem finishJob_plc (k : Nat) (st : Status) (result : Bytes) (s : State) : (finishJob k st result s).plc = s.plc := rfl
@[simp] theorem finishJob_jrn (k : Nat) (st : Status) (result : Bytes) (s : State) : (finishJob k st result s).jrn = s.jrn := rfl
@[simp] theorem finishJob_ing (k : Nat) (st : Status) (result : Bytes) (s : State) : (finishJob k st result s).ing = s.ing := rfl
@[simp] theorem finishJob_ftb (k : Nat) (st : Status) (result : Bytes) (s : State) : (finishJob k st result s).ftb = s.ftb := rfl
@[simp] theorem finishJob_pair (k : Nat) (st : Status) (result : Bytes) (s : State) : (finishJob k st result s).pair = s.pair := rfl
@[simp] theorem finishJob_lat (k : Nat) (st : Status) (result : Bytes) (s : State) : (finishJob k st result s).lat = s.lat := rfl
@[simp] theorem finishJob_rep (k : Nat) (st : Status) (result : Bytes) (s : State) : (finishJob k st result s).rep = s.rep := rfl

@[simp] theorem setQp_pending (n : Nat) (q : Qp) (s : State) : (setQp n q s).pending = s.pending := rfl
@[simp] theorem setQp_out (n : Nat) (q : Qp) (s : State) : (setQp n q s).out = s.out := rfl
@[simp] theorem setQp_draws (n : Nat) (q : Qp) (s : State) : (setQp n q s).draws = s.draws := rfl
@[simp] theorem setQp_kiosk (n : Nat) (q : Qp) (s : State) : (setQp n q s).kiosk = s.kiosk := rfl
@[simp] theorem setQp_evt (n : Nat) (q : Qp) (s : State) : (setQp n q s).evt = s.evt := rfl
@[simp] theorem setQp_mons (n : Nat) (q : Qp) (s : State) : (setQp n q s).mons = s.mons := rfl
@[simp] theorem setQp_gh (n : Nat) (q : Qp) (s : State) : (setQp n q s).gh = s.gh := rfl
@[simp] theorem setQp_ghx (n : Nat) (q : Qp) (s : State) : (setQp n q s).ghx = s.ghx := rfl
@[simp] theorem setQp_sec (n : Nat) (q : Qp) (s : State) : (setQp n q s).sec = s.sec := rfl
@[simp] theorem setQp_dram (n : Nat) (q : Qp) (s : State) : (setQp n q s).dram = s.dram := rfl
@[simp] theorem setQp_cns (n : Nat) (q : Qp) (s : State) : (setQp n q s).cns = s.cns := rfl
@[simp] theorem setQp_sleds (n : Nat) (q : Qp) (s : State) : (setQp n q s).sleds = s.sleds := rfl
@[simp] theorem setQp_map (n : Nat) (q : Qp) (s : State) : (setQp n q s).map = s.map := rfl
@[simp] theorem setQp_plc (n : Nat) (q : Qp) (s : State) : (setQp n q s).plc = s.plc := rfl
@[simp] theorem setQp_jrn (n : Nat) (q : Qp) (s : State) : (setQp n q s).jrn = s.jrn := rfl
@[simp] theorem setQp_ing (n : Nat) (q : Qp) (s : State) : (setQp n q s).ing = s.ing := rfl
@[simp] theorem setQp_ftb (n : Nat) (q : Qp) (s : State) : (setQp n q s).ftb = s.ftb := rfl
@[simp] theorem setQp_pair (n : Nat) (q : Qp) (s : State) : (setQp n q s).pair = s.pair := rfl
@[simp] theorem setQp_rep (n : Nat) (q : Qp) (s : State) : (setQp n q s).rep = s.rep := rfl

@[simp] theorem setTag_pending (n t : Nat) (g : LTag) (s : State) : (setTag n t g s).pending = s.pending := rfl
@[simp] theorem setTag_out (n t : Nat) (g : LTag) (s : State) : (setTag n t g s).out = s.out := rfl
@[simp] theorem setTag_draws (n t : Nat) (g : LTag) (s : State) : (setTag n t g s).draws = s.draws := rfl
@[simp] theorem setTag_kiosk (n t : Nat) (g : LTag) (s : State) : (setTag n t g s).kiosk = s.kiosk := rfl
@[simp] theorem setTag_evt (n t : Nat) (g : LTag) (s : State) : (setTag n t g s).evt = s.evt := rfl
@[simp] theorem setTag_mons (n t : Nat) (g : LTag) (s : State) : (setTag n t g s).mons = s.mons := rfl
@[simp] theorem setTag_gh (n t : Nat) (g : LTag) (s : State) : (setTag n t g s).gh = s.gh := rfl
@[simp] theorem setTag_ghx (n t : Nat) (g : LTag) (s : State) : (setTag n t g s).ghx = s.ghx := rfl
@[simp] theorem setTag_sec (n t : Nat) (g : LTag) (s : State) : (setTag n t g s).sec = s.sec := rfl
@[simp] theorem setTag_dram (n t : Nat) (g : LTag) (s : State) : (setTag n t g s).dram = s.dram := rfl
@[simp] theorem setTag_cns (n t : Nat) (g : LTag) (s : State) : (setTag n t g s).cns = s.cns := rfl
@[simp] theorem setTag_sleds (n t : Nat) (g : LTag) (s : State) : (setTag n t g s).sleds = s.sleds := rfl
@[simp] theorem setTag_map (n t : Nat) (g : LTag) (s : State) : (setTag n t g s).map = s.map := rfl
@[simp] theorem setTag_plc (n t : Nat) (g : LTag) (s : State) : (setTag n t g s).plc = s.plc := rfl
@[simp] theorem setTag_jrn (n t : Nat) (g : LTag) (s : State) : (setTag n t g s).jrn = s.jrn := rfl
@[simp] theorem setTag_ing (n t : Nat) (g : LTag) (s : State) : (setTag n t g s).ing = s.ing := rfl
@[simp] theorem setTag_ftb (n t : Nat) (g : LTag) (s : State) : (setTag n t g s).ftb = s.ftb := rfl
@[simp] theorem setTag_pair (n t : Nat) (g : LTag) (s : State) : (setTag n t g s).pair = s.pair := rfl
@[simp] theorem setTag_rep (n t : Nat) (g : LTag) (s : State) : (setTag n t g s).rep = s.rep := rfl


@[simp] theorem setCmd_pending (asn : Nat) (c : Cmd) (s : State) : (setCmd asn c s).pending = s.pending := rfl
@[simp] theorem setCmd_out (asn : Nat) (c : Cmd) (s : State) : (setCmd asn c s).out = s.out := rfl
@[simp] theorem setCmd_draws (asn : Nat) (c : Cmd) (s : State) : (setCmd asn c s).draws = s.draws := rfl
@[simp] theorem setCmd_kiosk (asn : Nat) (c : Cmd) (s : State) : (setCmd asn c s).kiosk = s.kiosk := rfl
@[simp] theorem setCmd_evt (asn : Nat) (c : Cmd) (s : State) : (setCmd asn c s).evt = s.evt := rfl
@[simp] theorem setCmd_mons (asn : Nat) (c : Cmd) (s : State) : (setCmd asn c s).mons = s.mons := rfl
@[simp] theorem setCmd_gh (asn : Nat) (c : Cmd) (s : State) : (setCmd asn c s).gh = s.gh := rfl
@[simp] theorem setCmd_ghx (asn : Nat) (c : Cmd) (s : State) : (setCmd asn c s).ghx = s.ghx := rfl
@[simp] theorem setCmd_sec (asn : Nat) (c : Cmd) (s : State) : (setCmd asn c s).sec = s.sec := rfl
@[simp] theorem setCmd_dram (asn : Nat) (c : Cmd) (s : State) : (setCmd asn c s).dram = s.dram := rfl
@[simp] theorem setCmd_cns (asn : Nat) (c : Cmd) (s : State) : (setCmd asn c s).cns = s.cns := rfl
@[simp] theorem setCmd_sleds (asn : Nat) (c : Cmd) (s : State) : (setCmd asn c s).sleds = s.sleds := rfl
@[simp] theorem setCmd_map (asn : Nat) (c : Cmd) (s : State) : (setCmd asn c s).map = s.map := rfl
@[simp] theorem setCmd_plc (asn : Nat) (c : Cmd) (s : State) : (setCmd asn c s).plc = s.plc := rfl
@[simp] theorem setCmd_ing (asn : Nat) (c : Cmd) (s : State) : (setCmd asn c s).ing = s.ing := rfl
@[simp] theorem setCmd_ftb (asn : Nat) (c : Cmd) (s : State) : (setCmd asn c s).ftb = s.ftb := rfl
@[simp] theorem setCmd_pair (asn : Nat) (c : Cmd) (s : State) : (setCmd asn c s).pair = s.pair := rfl
@[simp] theorem setCmd_lat (asn : Nat) (c : Cmd) (s : State) : (setCmd asn c s).lat = s.lat := rfl
@[simp] theorem setCmd_rep (asn : Nat) (c : Cmd) (s : State) : (setCmd asn c s).rep = s.rep := rfl

@[simp] theorem modCmd_pending (asn : Nat) (f : Cmd → Cmd) (s : State) : (modCmd asn f s).pending = s.pending := rfl
@[simp] theorem modCmd_out (asn : Nat) (f : Cmd → Cmd) (s : State) : (modCmd asn f s).out = s.out := rfl
@[simp] theorem modCmd_draws (asn : Nat) (f : Cmd → Cmd) (s : State) : (modCmd asn f s).draws = s.draws := rfl
@[simp] theorem modCmd_kiosk (asn : Nat) (f : Cmd → Cmd) (s : State) : (modCmd asn f s).kiosk = s.kiosk := rfl
@[simp] theorem modCmd_evt (asn : Nat) (f : Cmd → Cmd) (s : State) : (modCmd asn f s).evt = s.evt := rfl
@[simp] theorem modCmd_mons (asn : Nat) (f : Cmd → Cmd) (s : State) : (modCmd asn f s).mons = s.mons := rfl
@[simp] theorem modCmd_gh (asn : Nat) (f : Cmd → Cmd) (s : State) : (modCmd asn f s).gh = s.gh := rfl
@[simp] theorem modCmd_ghx (asn : Nat) (f : Cmd → Cmd) (s : State) : (modCmd asn f s).ghx = s.ghx := rfl
@[simp] theorem modCmd_sec (asn : Nat) (f : Cmd → Cmd) (s : State) : (modCmd asn f s).sec = s.sec := rfl
@[simp] theorem modCmd_dram (asn : Nat) (f : Cmd → Cmd) (s : State) : (modCmd asn f s).dram = s.dram := rfl
@[simp] theorem modCmd_cns (asn : Nat) (f : Cmd → Cmd) (s : State) : (modCmd asn f s).cns = s.cns := rfl
@[simp] theorem modCmd_sleds (asn : Nat) (f : Cmd → Cmd) (s : State) : (modCmd asn f s).sleds = s.sleds := rfl
@[simp] theorem modCmd_map (asn : Nat) (f : Cmd → Cmd) (s : State) : (modCmd asn f s).map = s.map := rfl
@[simp] theorem modCmd_plc (asn : Nat) (f : Cmd → Cmd) (s : State) : (modCmd asn f s).plc = s.plc := rfl
@[simp] theorem modCmd_ing (asn : Nat) (f : Cmd → Cmd) (s : State) : (modCmd asn f s).ing = s.ing := rfl
@[simp] theorem modCmd_ftb (asn : Nat) (f : Cmd → Cmd) (s : State) : (modCmd asn f s).ftb = s.ftb := rfl
@[simp] theorem modCmd_pair (asn : Nat) (f : Cmd → Cmd) (s : State) : (modCmd asn f s).pair = s.pair := rfl
@[simp] theorem modCmd_lat (asn : Nat) (f : Cmd → Cmd) (s : State) : (modCmd asn f s).lat = s.lat := rfl
@[simp] theorem modCmd_rep (asn : Nat) (f : Cmd → Cmd) (s : State) : (modCmd asn f s).rep = s.rep := rfl

@[simp] theorem modWork_pending (asn chunk : Nat) (f : ChunkWork → ChunkWork) (s : State) : (modWork asn chunk f s).pending = s.pending := rfl
@[simp] theorem modWork_out (asn chunk : Nat) (f : ChunkWork → ChunkWork) (s : State) : (modWork asn chunk f s).out = s.out := rfl
@[simp] theorem modWork_draws (asn chunk : Nat) (f : ChunkWork → ChunkWork) (s : State) : (modWork asn chunk f s).draws = s.draws := rfl
@[simp] theorem modWork_kiosk (asn chunk : Nat) (f : ChunkWork → ChunkWork) (s : State) : (modWork asn chunk f s).kiosk = s.kiosk := rfl
@[simp] theorem modWork_evt (asn chunk : Nat) (f : ChunkWork → ChunkWork) (s : State) : (modWork asn chunk f s).evt = s.evt := rfl
@[simp] theorem modWork_mons (asn chunk : Nat) (f : ChunkWork → ChunkWork) (s : State) : (modWork asn chunk f s).mons = s.mons := rfl
@[simp] theorem modWork_gh (asn chunk : Nat) (f : ChunkWork → ChunkWork) (s : State) : (modWork asn chunk f s).gh = s.gh := rfl
@[simp] theorem modWork_ghx (asn chunk : Nat) (f : ChunkWork → ChunkWork) (s : State) : (modWork asn chunk f s).ghx = s.ghx := rfl
@[simp] theorem modWork_sec (asn chunk : Nat) (f : ChunkWork → ChunkWork) (s : State) : (modWork asn chunk f s).sec = s.sec := rfl
@[simp] theorem modWork_dram (asn chunk : Nat) (f : ChunkWork → ChunkWork) (s : State) : (modWork asn chunk f s).dram = s.dram := rfl
@[simp] theorem modWork_cns (asn chunk : Nat) (f : ChunkWork → ChunkWork) (s : State) : (modWork asn chunk f s).cns = s.cns := rfl
@[simp] theorem modWork_sleds (asn chunk : Nat) (f : ChunkWork → ChunkWork) (s : State) : (modWork asn chunk f s).sleds = s.sleds := rfl
@[simp] theorem modWork_map (asn chunk : Nat) (f : ChunkWork → ChunkWork) (s : State) : (modWork asn chunk f s).map = s.map := rfl
@[simp] theorem modWork_plc (asn chunk : Nat) (f : ChunkWork → ChunkWork) (s : State) : (modWork asn chunk f s).plc = s.plc := rfl
@[simp] theorem modWork_ing (asn chunk : Nat) (f : ChunkWork → ChunkWork) (s : State) : (modWork asn chunk f s).ing = s.ing := rfl
@[simp] theorem modWork_ftb (asn chunk : Nat) (f : ChunkWork → ChunkWork) (s : State) : (modWork asn chunk f s).ftb = s.ftb := rfl
@[simp] theorem modWork_pair (asn chunk : Nat) (f : ChunkWork → ChunkWork) (s : State) : (modWork asn chunk f s).pair = s.pair := rfl
@[simp] theorem modWork_lat (asn chunk : Nat) (f : ChunkWork → ChunkWork) (s : State) : (modWork asn chunk f s).lat = s.lat := rfl
@[simp] theorem modWork_rep (asn chunk : Nat) (f : ChunkWork → ChunkWork) (s : State) : (modWork asn chunk f s).rep = s.rep := rfl

@[simp] theorem modRead_pending (asn chunk : Nat) (f : ChunkRead → ChunkRead) (s : State) : (modRead asn chunk f s).pending = s.pending := rfl
@[simp] theorem modRead_out (asn chunk : Nat) (f : ChunkRead → ChunkRead) (s : State) : (modRead asn chunk f s).out = s.out := rfl
@[simp] theorem modRead_draws (asn chunk : Nat) (f : ChunkRead → ChunkRead) (s : State) : (modRead asn chunk f s).draws = s.draws := rfl
@[simp] theorem modRead_kiosk (asn chunk : Nat) (f : ChunkRead → ChunkRead) (s : State) : (modRead asn chunk f s).kiosk = s.kiosk := rfl
@[simp] theorem modRead_evt (asn chunk : Nat) (f : ChunkRead → ChunkRead) (s : State) : (modRead asn chunk f s).evt = s.evt := rfl
@[simp] theorem modRead_mons (asn chunk : Nat) (f : ChunkRead → ChunkRead) (s : State) : (modRead asn chunk f s).mons = s.mons := rfl
@[simp] theorem modRead_gh (asn chunk : Nat) (f : ChunkRead → ChunkRead) (s : State) : (modRead asn chunk f s).gh = s.gh := rfl
@[simp] theorem modRead_ghx (asn chunk : Nat) (f : ChunkRead → ChunkRead) (s : State) : (modRead asn chunk f s).ghx = s.ghx := rfl
@[simp] theorem modRead_sec (asn chunk : Nat) (f : ChunkRead → ChunkRead) (s : State) : (modRead asn chunk f s).sec = s.sec := rfl
@[simp] theorem modRead_dram (asn chunk : Nat) (f : ChunkRead → ChunkRead) (s : State) : (modRead asn chunk f s).dram = s.dram := rfl
@[simp] theorem modRead_cns (asn chunk : Nat) (f : ChunkRead → ChunkRead) (s : State) : (modRead asn chunk f s).cns = s.cns := rfl
@[simp] theorem modRead_sleds (asn chunk : Nat) (f : ChunkRead → ChunkRead) (s : State) : (modRead asn chunk f s).sleds = s.sleds := rfl
@[simp] theorem modRead_map (asn chunk : Nat) (f : ChunkRead → ChunkRead) (s : State) : (modRead asn chunk f s).map = s.map := rfl
@[simp] theorem modRead_plc (asn chunk : Nat) (f : ChunkRead → ChunkRead) (s : State) : (modRead asn chunk f s).plc = s.plc := rfl
@[simp] theorem modRead_ing (asn chunk : Nat) (f : ChunkRead → ChunkRead) (s : State) : (modRead asn chunk f s).ing = s.ing := rfl
@[simp] theorem modRead_ftb (asn chunk : Nat) (f : ChunkRead → ChunkRead) (s : State) : (modRead asn chunk f s).ftb = s.ftb := rfl
@[simp] theorem modRead_pair (asn chunk : Nat) (f : ChunkRead → ChunkRead) (s : State) : (modRead asn chunk f s).pair = s.pair := rfl
@[simp] theorem modRead_lat (asn chunk : Nat) (f : ChunkRead → ChunkRead) (s : State) : (modRead asn chunk f s).lat = s.lat := rfl
@[simp] theorem modRead_rep (asn chunk : Nat) (f : ChunkRead → ChunkRead) (s : State) : (modRead asn chunk f s).rep = s.rep := rfl

@[simp] theorem modOwn_pending (p : OwnRec → Bool) (f : OwnRec → OwnRec) (s : State) : (modOwn p f s).pending = s.pending := rfl
@[simp] theorem modOwn_out (p : OwnRec → Bool) (f : OwnRec → OwnRec) (s : State) : (modOwn p f s).out = s.out := rfl
@[simp] theorem modOwn_draws (p : OwnRec → Bool) (f : OwnRec → OwnRec) (s : State) : (modOwn p f s).draws = s.draws := rfl
@[simp] theorem modOwn_kiosk (p : OwnRec → Bool) (f : OwnRec → OwnRec) (s : State) : (modOwn p f s).kiosk = s.kiosk := rfl
@[simp] theorem modOwn_evt (p : OwnRec → Bool) (f : OwnRec → OwnRec) (s : State) : (modOwn p f s).evt = s.evt := rfl
@[simp] theorem modOwn_mons (p : OwnRec → Bool) (f : OwnRec → OwnRec) (s : State) : (modOwn p f s).mons = s.mons := rfl
@[simp] theorem modOwn_gh (p : OwnRec → Bool) (f : OwnRec → OwnRec) (s : State) : (modOwn p f s).gh = s.gh := rfl
@[simp] theorem modOwn_ghx (p : OwnRec → Bool) (f : OwnRec → OwnRec) (s : State) : (modOwn p f s).ghx = s.ghx := rfl
@[simp] theorem modOwn_sec (p : OwnRec → Bool) (f : OwnRec → OwnRec) (s : State) : (modOwn p f s).sec = s.sec := rfl
@[simp] theorem modOwn_dram (p : OwnRec → Bool) (f : OwnRec → OwnRec) (s : State) : (modOwn p f s).dram = s.dram := rfl
@[simp] theorem modOwn_cns (p : OwnRec → Bool) (f : OwnRec → OwnRec) (s : State) : (modOwn p f s).cns = s.cns := rfl
@[simp] theorem modOwn_sleds (p : OwnRec → Bool) (f : OwnRec → OwnRec) (s : State) : (modOwn p f s).sleds = s.sleds := rfl
@[simp] theorem modOwn_map (p : OwnRec → Bool) (f : OwnRec → OwnRec) (s : State) : (modOwn p f s).map = s.map := rfl
@[simp] theorem modOwn_plc (p : OwnRec → Bool) (f : OwnRec → OwnRec) (s : State) : (modOwn p f s).plc = s.plc := rfl
@[simp] theorem modOwn_ing (p : OwnRec → Bool) (f : OwnRec → OwnRec) (s : State) : (modOwn p f s).ing = s.ing := rfl
@[simp] theorem modOwn_ftb (p : OwnRec → Bool) (f : OwnRec → OwnRec) (s : State) : (modOwn p f s).ftb = s.ftb := rfl
@[simp] theorem modOwn_pair (p : OwnRec → Bool) (f : OwnRec → OwnRec) (s : State) : (modOwn p f s).pair = s.pair := rfl
@[simp] theorem modOwn_lat (p : OwnRec → Bool) (f : OwnRec → OwnRec) (s : State) : (modOwn p f s).lat = s.lat := rfl
@[simp] theorem modOwn_rep (p : OwnRec → Bool) (f : OwnRec → OwnRec) (s : State) : (modOwn p f s).rep = s.rep := rfl

@[simp] theorem setFport_pending (n : Nat) (p : FPort) (s : State) : (setFport n p s).pending = s.pending := rfl
@[simp] theorem setFport_out (n : Nat) (p : FPort) (s : State) : (setFport n p s).out = s.out := rfl
@[simp] theorem setFport_draws (n : Nat) (p : FPort) (s : State) : (setFport n p s).draws = s.draws := rfl
@[simp] theorem setFport_kiosk (n : Nat) (p : FPort) (s : State) : (setFport n p s).kiosk = s.kiosk := rfl
@[simp] theorem setFport_evt (n : Nat) (p : FPort) (s : State) : (setFport n p s).evt = s.evt := rfl
@[simp] theorem setFport_mons (n : Nat) (p : FPort) (s : State) : (setFport n p s).mons = s.mons := rfl
@[simp] theorem setFport_gh (n : Nat) (p : FPort) (s : State) : (setFport n p s).gh = s.gh := rfl
@[simp] theorem setFport_ghx (n : Nat) (p : FPort) (s : State) : (setFport n p s).ghx = s.ghx := rfl
@[simp] theorem setFport_sec (n : Nat) (p : FPort) (s : State) : (setFport n p s).sec = s.sec := rfl
@[simp] theorem setFport_dram (n : Nat) (p : FPort) (s : State) : (setFport n p s).dram = s.dram := rfl
@[simp] theorem setFport_cns (n : Nat) (p : FPort) (s : State) : (setFport n p s).cns = s.cns := rfl
@[simp] theorem setFport_sleds (n : Nat) (p : FPort) (s : State) : (setFport n p s).sleds = s.sleds := rfl
@[simp] theorem setFport_map (n : Nat) (p : FPort) (s : State) : (setFport n p s).map = s.map := rfl
@[simp] theorem setFport_plc (n : Nat) (p : FPort) (s : State) : (setFport n p s).plc = s.plc := rfl
@[simp] theorem setFport_jrn (n : Nat) (p : FPort) (s : State) : (setFport n p s).jrn = s.jrn := rfl
@[simp] theorem setFport_ing (n : Nat) (p : FPort) (s : State) : (setFport n p s).ing = s.ing := rfl
@[simp] theorem setFport_pair (n : Nat) (p : FPort) (s : State) : (setFport n p s).pair = s.pair := rfl
@[simp] theorem setFport_lat (n : Nat) (p : FPort) (s : State) : (setFport n p s).lat = s.lat := rfl
@[simp] theorem setFport_rep (n : Nat) (p : FPort) (s : State) : (setFport n p s).rep = s.rep := rfl

@[simp] theorem setSlot_pending (k : Nat) (v : KeySlot) (s : State) : (setSlot k v s).pending = s.pending := rfl
@[simp] theorem setSlot_out (k : Nat) (v : KeySlot) (s : State) : (setSlot k v s).out = s.out := rfl
@[simp] theorem setSlot_draws (k : Nat) (v : KeySlot) (s : State) : (setSlot k v s).draws = s.draws := rfl
@[simp] theorem setSlot_kiosk (k : Nat) (v : KeySlot) (s : State) : (setSlot k v s).kiosk = s.kiosk := rfl
@[simp] theorem setSlot_evt (k : Nat) (v : KeySlot) (s : State) : (setSlot k v s).evt = s.evt := rfl
@[simp] theorem setSlot_mons (k : Nat) (v : KeySlot) (s : State) : (setSlot k v s).mons = s.mons := rfl
@[simp] theorem setSlot_gh (k : Nat) (v : KeySlot) (s : State) : (setSlot k v s).gh = s.gh := rfl
@[simp] theorem setSlot_ghx (k : Nat) (v : KeySlot) (s : State) : (setSlot k v s).ghx = s.ghx := rfl
@[simp] theorem setSlot_dram (k : Nat) (v : KeySlot) (s : State) : (setSlot k v s).dram = s.dram := rfl
@[simp] theorem setSlot_cns (k : Nat) (v : KeySlot) (s : State) : (setSlot k v s).cns = s.cns := rfl
@[simp] theorem setSlot_sleds (k : Nat) (v : KeySlot) (s : State) : (setSlot k v s).sleds = s.sleds := rfl
@[simp] theorem setSlot_map (k : Nat) (v : KeySlot) (s : State) : (setSlot k v s).map = s.map := rfl
@[simp] theorem setSlot_plc (k : Nat) (v : KeySlot) (s : State) : (setSlot k v s).plc = s.plc := rfl
@[simp] theorem setSlot_jrn (k : Nat) (v : KeySlot) (s : State) : (setSlot k v s).jrn = s.jrn := rfl
@[simp] theorem setSlot_ing (k : Nat) (v : KeySlot) (s : State) : (setSlot k v s).ing = s.ing := rfl
@[simp] theorem setSlot_ftb (k : Nat) (v : KeySlot) (s : State) : (setSlot k v s).ftb = s.ftb := rfl
@[simp] theorem setSlot_pair (k : Nat) (v : KeySlot) (s : State) : (setSlot k v s).pair = s.pair := rfl
@[simp] theorem setSlot_lat (k : Nat) (v : KeySlot) (s : State) : (setSlot k v s).lat = s.lat := rfl
@[simp] theorem setSlot_rep (k : Nat) (v : KeySlot) (s : State) : (setSlot k v s).rep = s.rep := rfl

@[simp] theorem setDgt_pending (d : Digest) (s : State) : (setDgt d s).pending = s.pending := rfl
@[simp] theorem setDgt_out (d : Digest) (s : State) : (setDgt d s).out = s.out := rfl
@[simp] theorem setDgt_draws (d : Digest) (s : State) : (setDgt d s).draws = s.draws := rfl
@[simp] theorem setDgt_kiosk (d : Digest) (s : State) : (setDgt d s).kiosk = s.kiosk := rfl
@[simp] theorem setDgt_evt (d : Digest) (s : State) : (setDgt d s).evt = s.evt := rfl
@[simp] theorem setDgt_mons (d : Digest) (s : State) : (setDgt d s).mons = s.mons := rfl
@[simp] theorem setDgt_gh (d : Digest) (s : State) : (setDgt d s).gh = s.gh := rfl
@[simp] theorem setDgt_ghx (d : Digest) (s : State) : (setDgt d s).ghx = s.ghx := rfl
@[simp] theorem setDgt_dram (d : Digest) (s : State) : (setDgt d s).dram = s.dram := rfl
@[simp] theorem setDgt_cns (d : Digest) (s : State) : (setDgt d s).cns = s.cns := rfl
@[simp] theorem setDgt_sleds (d : Digest) (s : State) : (setDgt d s).sleds = s.sleds := rfl
@[simp] theorem setDgt_map (d : Digest) (s : State) : (setDgt d s).map = s.map := rfl
@[simp] theorem setDgt_plc (d : Digest) (s : State) : (setDgt d s).plc = s.plc := rfl
@[simp] theorem setDgt_jrn (d : Digest) (s : State) : (setDgt d s).jrn = s.jrn := rfl
@[simp] theorem setDgt_ing (d : Digest) (s : State) : (setDgt d s).ing = s.ing := rfl
@[simp] theorem setDgt_ftb (d : Digest) (s : State) : (setDgt d s).ftb = s.ftb := rfl
@[simp] theorem setDgt_pair (d : Digest) (s : State) : (setDgt d s).pair = s.pair := rfl
@[simp] theorem setDgt_lat (d : Digest) (s : State) : (setDgt d s).lat = s.lat := rfl
@[simp] theorem setDgt_rep (d : Digest) (s : State) : (setDgt d s).rep = s.rep := rfl

@[simp] theorem setBoot_pending (k : Nat) (v : BootSlot) (s : State) : (setBoot k v s).pending = s.pending := rfl
@[simp] theorem setBoot_out (k : Nat) (v : BootSlot) (s : State) : (setBoot k v s).out = s.out := rfl
@[simp] theorem setBoot_draws (k : Nat) (v : BootSlot) (s : State) : (setBoot k v s).draws = s.draws := rfl
@[simp] theorem setBoot_kiosk (k : Nat) (v : BootSlot) (s : State) : (setBoot k v s).kiosk = s.kiosk := rfl
@[simp] theorem setBoot_evt (k : Nat) (v : BootSlot) (s : State) : (setBoot k v s).evt = s.evt := rfl
@[simp] theorem setBoot_mons (k : Nat) (v : BootSlot) (s : State) : (setBoot k v s).mons = s.mons := rfl
@[simp] theorem setBoot_gh (k : Nat) (v : BootSlot) (s : State) : (setBoot k v s).gh = s.gh := rfl
@[simp] theorem setBoot_ghx (k : Nat) (v : BootSlot) (s : State) : (setBoot k v s).ghx = s.ghx := rfl
@[simp] theorem setBoot_dram (k : Nat) (v : BootSlot) (s : State) : (setBoot k v s).dram = s.dram := rfl
@[simp] theorem setBoot_cns (k : Nat) (v : BootSlot) (s : State) : (setBoot k v s).cns = s.cns := rfl
@[simp] theorem setBoot_sleds (k : Nat) (v : BootSlot) (s : State) : (setBoot k v s).sleds = s.sleds := rfl
@[simp] theorem setBoot_map (k : Nat) (v : BootSlot) (s : State) : (setBoot k v s).map = s.map := rfl
@[simp] theorem setBoot_plc (k : Nat) (v : BootSlot) (s : State) : (setBoot k v s).plc = s.plc := rfl
@[simp] theorem setBoot_jrn (k : Nat) (v : BootSlot) (s : State) : (setBoot k v s).jrn = s.jrn := rfl
@[simp] theorem setBoot_ing (k : Nat) (v : BootSlot) (s : State) : (setBoot k v s).ing = s.ing := rfl
@[simp] theorem setBoot_ftb (k : Nat) (v : BootSlot) (s : State) : (setBoot k v s).ftb = s.ftb := rfl
@[simp] theorem setBoot_pair (k : Nat) (v : BootSlot) (s : State) : (setBoot k v s).pair = s.pair := rfl
@[simp] theorem setBoot_lat (k : Nat) (v : BootSlot) (s : State) : (setBoot k v s).lat = s.lat := rfl
@[simp] theorem setBoot_rep (k : Nat) (v : BootSlot) (s : State) : (setBoot k v s).rep = s.rep := rfl

@[simp] theorem setDmc_pending (n : Nat) (c : Dmc) (s : State) : (setDmc n c s).pending = s.pending := rfl
@[simp] theorem setDmc_out (n : Nat) (c : Dmc) (s : State) : (setDmc n c s).out = s.out := rfl
@[simp] theorem setDmc_draws (n : Nat) (c : Dmc) (s : State) : (setDmc n c s).draws = s.draws := rfl
@[simp] theorem setDmc_kiosk (n : Nat) (c : Dmc) (s : State) : (setDmc n c s).kiosk = s.kiosk := rfl
@[simp] theorem setDmc_evt (n : Nat) (c : Dmc) (s : State) : (setDmc n c s).evt = s.evt := rfl
@[simp] theorem setDmc_mons (n : Nat) (c : Dmc) (s : State) : (setDmc n c s).mons = s.mons := rfl
@[simp] theorem setDmc_gh (n : Nat) (c : Dmc) (s : State) : (setDmc n c s).gh = s.gh := rfl
@[simp] theorem setDmc_ghx (n : Nat) (c : Dmc) (s : State) : (setDmc n c s).ghx = s.ghx := rfl
@[simp] theorem setDmc_sec (n : Nat) (c : Dmc) (s : State) : (setDmc n c s).sec = s.sec := rfl
@[simp] theorem setDmc_cns (n : Nat) (c : Dmc) (s : State) : (setDmc n c s).cns = s.cns := rfl
@[simp] theorem setDmc_sleds (n : Nat) (c : Dmc) (s : State) : (setDmc n c s).sleds = s.sleds := rfl
@[simp] theorem setDmc_map (n : Nat) (c : Dmc) (s : State) : (setDmc n c s).map = s.map := rfl
@[simp] theorem setDmc_plc (n : Nat) (c : Dmc) (s : State) : (setDmc n c s).plc = s.plc := rfl
@[simp] theorem setDmc_jrn (n : Nat) (c : Dmc) (s : State) : (setDmc n c s).jrn = s.jrn := rfl
@[simp] theorem setDmc_ing (n : Nat) (c : Dmc) (s : State) : (setDmc n c s).ing = s.ing := rfl
@[simp] theorem setDmc_ftb (n : Nat) (c : Dmc) (s : State) : (setDmc n c s).ftb = s.ftb := rfl
@[simp] theorem setDmc_pair (n : Nat) (c : Dmc) (s : State) : (setDmc n c s).pair = s.pair := rfl
@[simp] theorem setDmc_lat (n : Nat) (c : Dmc) (s : State) : (setDmc n c s).lat = s.lat := rfl
@[simp] theorem setDmc_rep (n : Nat) (c : Dmc) (s : State) : (setDmc n c s).rep = s.rep := rfl

@[simp] theorem setShelf_pending (g : Nat) (v : Shelf) (s : State) : (setShelf g v s).pending = s.pending := rfl
@[simp] theorem setShelf_out (g : Nat) (v : Shelf) (s : State) : (setShelf g v s).out = s.out := rfl
@[simp] theorem setShelf_draws (g : Nat) (v : Shelf) (s : State) : (setShelf g v s).draws = s.draws := rfl
@[simp] theorem setShelf_kiosk (g : Nat) (v : Shelf) (s : State) : (setShelf g v s).kiosk = s.kiosk := rfl
@[simp] theorem setShelf_evt (g : Nat) (v : Shelf) (s : State) : (setShelf g v s).evt = s.evt := rfl
@[simp] theorem setShelf_mons (g : Nat) (v : Shelf) (s : State) : (setShelf g v s).mons = s.mons := rfl
@[simp] theorem setShelf_gh (g : Nat) (v : Shelf) (s : State) : (setShelf g v s).gh = s.gh := rfl
@[simp] theorem setShelf_ghx (g : Nat) (v : Shelf) (s : State) : (setShelf g v s).ghx = s.ghx := rfl
@[simp] theorem setShelf_sec (g : Nat) (v : Shelf) (s : State) : (setShelf g v s).sec = s.sec := rfl
@[simp] theorem setShelf_dram (g : Nat) (v : Shelf) (s : State) : (setShelf g v s).dram = s.dram := rfl
@[simp] theorem setShelf_cns (g : Nat) (v : Shelf) (s : State) : (setShelf g v s).cns = s.cns := rfl
@[simp] theorem setShelf_sleds (g : Nat) (v : Shelf) (s : State) : (setShelf g v s).sleds = s.sleds := rfl
@[simp] theorem setShelf_map (g : Nat) (v : Shelf) (s : State) : (setShelf g v s).map = s.map := rfl
@[simp] theorem setShelf_jrn (g : Nat) (v : Shelf) (s : State) : (setShelf g v s).jrn = s.jrn := rfl
@[simp] theorem setShelf_ing (g : Nat) (v : Shelf) (s : State) : (setShelf g v s).ing = s.ing := rfl
@[simp] theorem setShelf_ftb (g : Nat) (v : Shelf) (s : State) : (setShelf g v s).ftb = s.ftb := rfl
@[simp] theorem setShelf_pair (g : Nat) (v : Shelf) (s : State) : (setShelf g v s).pair = s.pair := rfl
@[simp] theorem setShelf_lat (g : Nat) (v : Shelf) (s : State) : (setShelf g v s).lat = s.lat := rfl
@[simp] theorem setShelf_rep (g : Nat) (v : Shelf) (s : State) : (setShelf g v s).rep = s.rep := rfl

@[simp] theorem setBlk_pending (k : Nat) (b : Blk) (s : State) : (setBlk k b s).pending = s.pending := rfl
@[simp] theorem setBlk_out (k : Nat) (b : Blk) (s : State) : (setBlk k b s).out = s.out := rfl
@[simp] theorem setBlk_draws (k : Nat) (b : Blk) (s : State) : (setBlk k b s).draws = s.draws := rfl
@[simp] theorem setBlk_kiosk (k : Nat) (b : Blk) (s : State) : (setBlk k b s).kiosk = s.kiosk := rfl
@[simp] theorem setBlk_evt (k : Nat) (b : Blk) (s : State) : (setBlk k b s).evt = s.evt := rfl
@[simp] theorem setBlk_mons (k : Nat) (b : Blk) (s : State) : (setBlk k b s).mons = s.mons := rfl
@[simp] theorem setBlk_gh (k : Nat) (b : Blk) (s : State) : (setBlk k b s).gh = s.gh := rfl
@[simp] theorem setBlk_ghx (k : Nat) (b : Blk) (s : State) : (setBlk k b s).ghx = s.ghx := rfl
@[simp] theorem setBlk_sec (k : Nat) (b : Blk) (s : State) : (setBlk k b s).sec = s.sec := rfl
@[simp] theorem setBlk_dram (k : Nat) (b : Blk) (s : State) : (setBlk k b s).dram = s.dram := rfl
@[simp] theorem setBlk_cns (k : Nat) (b : Blk) (s : State) : (setBlk k b s).cns = s.cns := rfl
@[simp] theorem setBlk_sleds (k : Nat) (b : Blk) (s : State) : (setBlk k b s).sleds = s.sleds := rfl
@[simp] theorem setBlk_map (k : Nat) (b : Blk) (s : State) : (setBlk k b s).map = s.map := rfl
@[simp] theorem setBlk_jrn (k : Nat) (b : Blk) (s : State) : (setBlk k b s).jrn = s.jrn := rfl
@[simp] theorem setBlk_ing (k : Nat) (b : Blk) (s : State) : (setBlk k b s).ing = s.ing := rfl
@[simp] theorem setBlk_ftb (k : Nat) (b : Blk) (s : State) : (setBlk k b s).ftb = s.ftb := rfl
@[simp] theorem setBlk_pair (k : Nat) (b : Blk) (s : State) : (setBlk k b s).pair = s.pair := rfl
@[simp] theorem setBlk_lat (k : Nat) (b : Blk) (s : State) : (setBlk k b s).lat = s.lat := rfl
@[simp] theorem setBlk_rep (k : Nat) (b : Blk) (s : State) : (setBlk k b s).rep = s.rep := rfl

@[simp] theorem modSet_pending (k : Nat) (f : BSet → BSet) (s : State) : (modSet k f s).pending = s.pending := rfl
@[simp] theorem modSet_out (k : Nat) (f : BSet → BSet) (s : State) : (modSet k f s).out = s.out := rfl
@[simp] theorem modSet_draws (k : Nat) (f : BSet → BSet) (s : State) : (modSet k f s).draws = s.draws := rfl
@[simp] theorem modSet_kiosk (k : Nat) (f : BSet → BSet) (s : State) : (modSet k f s).kiosk = s.kiosk := rfl
@[simp] theorem modSet_evt (k : Nat) (f : BSet → BSet) (s : State) : (modSet k f s).evt = s.evt := rfl
@[simp] theorem modSet_mons (k : Nat) (f : BSet → BSet) (s : State) : (modSet k f s).mons = s.mons := rfl
@[simp] theorem modSet_gh (k : Nat) (f : BSet → BSet) (s : State) : (modSet k f s).gh = s.gh := rfl
@[simp] theorem modSet_ghx (k : Nat) (f : BSet → BSet) (s : State) : (modSet k f s).ghx = s.ghx := rfl
@[simp] theorem modSet_sec (k : Nat) (f : BSet → BSet) (s : State) : (modSet k f s).sec = s.sec := rfl
@[simp] theorem modSet_dram (k : Nat) (f : BSet → BSet) (s : State) : (modSet k f s).dram = s.dram := rfl
@[simp] theorem modSet_cns (k : Nat) (f : BSet → BSet) (s : State) : (modSet k f s).cns = s.cns := rfl
@[simp] theorem modSet_sleds (k : Nat) (f : BSet → BSet) (s : State) : (modSet k f s).sleds = s.sleds := rfl
@[simp] theorem modSet_map (k : Nat) (f : BSet → BSet) (s : State) : (modSet k f s).map = s.map := rfl
@[simp] theorem modSet_jrn (k : Nat) (f : BSet → BSet) (s : State) : (modSet k f s).jrn = s.jrn := rfl
@[simp] theorem modSet_ing (k : Nat) (f : BSet → BSet) (s : State) : (modSet k f s).ing = s.ing := rfl
@[simp] theorem modSet_ftb (k : Nat) (f : BSet → BSet) (s : State) : (modSet k f s).ftb = s.ftb := rfl
@[simp] theorem modSet_pair (k : Nat) (f : BSet → BSet) (s : State) : (modSet k f s).pair = s.pair := rfl
@[simp] theorem modSet_lat (k : Nat) (f : BSet → BSet) (s : State) : (modSet k f s).lat = s.lat := rfl
@[simp] theorem modSet_rep (k : Nat) (f : BSet → BSet) (s : State) : (modSet k f s).rep = s.rep := rfl

@[simp] theorem modRow_pending (g n : Nat) (f : Row → Row) (s : State) : (modRow g n f s).pending = s.pending := rfl
@[simp] theorem modRow_out (g n : Nat) (f : Row → Row) (s : State) : (modRow g n f s).out = s.out := rfl
@[simp] theorem modRow_draws (g n : Nat) (f : Row → Row) (s : State) : (modRow g n f s).draws = s.draws := rfl
@[simp] theorem modRow_kiosk (g n : Nat) (f : Row → Row) (s : State) : (modRow g n f s).kiosk = s.kiosk := rfl
@[simp] theorem modRow_evt (g n : Nat) (f : Row → Row) (s : State) : (modRow g n f s).evt = s.evt := rfl
@[simp] theorem modRow_mons (g n : Nat) (f : Row → Row) (s : State) : (modRow g n f s).mons = s.mons := rfl
@[simp] theorem modRow_gh (g n : Nat) (f : Row → Row) (s : State) : (modRow g n f s).gh = s.gh := rfl
@[simp] theorem modRow_ghx (g n : Nat) (f : Row → Row) (s : State) : (modRow g n f s).ghx = s.ghx := rfl
@[simp] theorem modRow_sec (g n : Nat) (f : Row → Row) (s : State) : (modRow g n f s).sec = s.sec := rfl
@[simp] theorem modRow_dram (g n : Nat) (f : Row → Row) (s : State) : (modRow g n f s).dram = s.dram := rfl
@[simp] theorem modRow_cns (g n : Nat) (f : Row → Row) (s : State) : (modRow g n f s).cns = s.cns := rfl
@[simp] theorem modRow_sleds (g n : Nat) (f : Row → Row) (s : State) : (modRow g n f s).sleds = s.sleds := rfl
@[simp] theorem modRow_map (g n : Nat) (f : Row → Row) (s : State) : (modRow g n f s).map = s.map := rfl
@[simp] theorem modRow_jrn (g n : Nat) (f : Row → Row) (s : State) : (modRow g n f s).jrn = s.jrn := rfl
@[simp] theorem modRow_ing (g n : Nat) (f : Row → Row) (s : State) : (modRow g n f s).ing = s.ing := rfl
@[simp] theorem modRow_ftb (g n : Nat) (f : Row → Row) (s : State) : (modRow g n f s).ftb = s.ftb := rfl
@[simp] theorem modRow_pair (g n : Nat) (f : Row → Row) (s : State) : (modRow g n f s).pair = s.pair := rfl
@[simp] theorem modRow_lat (g n : Nat) (f : Row → Row) (s : State) : (modRow g n f s).lat = s.lat := rfl
@[simp] theorem modRow_rep (g n : Nat) (f : Row → Row) (s : State) : (modRow g n f s).rep = s.rep := rfl

@[simp] theorem modFetch_pending (k : Nat) (f : Fetch → Fetch) (s : State) : (modFetch k f s).pending = s.pending := rfl
@[simp] theorem modFetch_out (k : Nat) (f : Fetch → Fetch) (s : State) : (modFetch k f s).out = s.out := rfl
@[simp] theorem modFetch_draws (k : Nat) (f : Fetch → Fetch) (s : State) : (modFetch k f s).draws = s.draws := rfl
@[simp] theorem modFetch_kiosk (k : Nat) (f : Fetch → Fetch) (s : State) : (modFetch k f s).kiosk = s.kiosk := rfl
@[simp] theorem modFetch_evt (k : Nat) (f : Fetch → Fetch) (s : State) : (modFetch k f s).evt = s.evt := rfl
@[simp] theorem modFetch_mons (k : Nat) (f : Fetch → Fetch) (s : State) : (modFetch k f s).mons = s.mons := rfl
@[simp] theorem modFetch_gh (k : Nat) (f : Fetch → Fetch) (s : State) : (modFetch k f s).gh = s.gh := rfl
@[simp] theorem modFetch_ghx (k : Nat) (f : Fetch → Fetch) (s : State) : (modFetch k f s).ghx = s.ghx := rfl
@[simp] theorem modFetch_sec (k : Nat) (f : Fetch → Fetch) (s : State) : (modFetch k f s).sec = s.sec := rfl
@[simp] theorem modFetch_dram (k : Nat) (f : Fetch → Fetch) (s : State) : (modFetch k f s).dram = s.dram := rfl
@[simp] theorem modFetch_cns (k : Nat) (f : Fetch → Fetch) (s : State) : (modFetch k f s).cns = s.cns := rfl
@[simp] theorem modFetch_sleds (k : Nat) (f : Fetch → Fetch) (s : State) : (modFetch k f s).sleds = s.sleds := rfl
@[simp] theorem modFetch_map (k : Nat) (f : Fetch → Fetch) (s : State) : (modFetch k f s).map = s.map := rfl
@[simp] theorem modFetch_jrn (k : Nat) (f : Fetch → Fetch) (s : State) : (modFetch k f s).jrn = s.jrn := rfl
@[simp] theorem modFetch_ing (k : Nat) (f : Fetch → Fetch) (s : State) : (modFetch k f s).ing = s.ing := rfl
@[simp] theorem modFetch_ftb (k : Nat) (f : Fetch → Fetch) (s : State) : (modFetch k f s).ftb = s.ftb := rfl
@[simp] theorem modFetch_pair (k : Nat) (f : Fetch → Fetch) (s : State) : (modFetch k f s).pair = s.pair := rfl
@[simp] theorem modFetch_lat (k : Nat) (f : Fetch → Fetch) (s : State) : (modFetch k f s).lat = s.lat := rfl
@[simp] theorem modFetch_rep (k : Nat) (f : Fetch → Fetch) (s : State) : (modFetch k f s).rep = s.rep := rfl

@[simp] theorem setPort_pending (p : Nat) (v : SPort) (s : State) : (setPort p v s).pending = s.pending := rfl
@[simp] theorem setPort_out (p : Nat) (v : SPort) (s : State) : (setPort p v s).out = s.out := rfl
@[simp] theorem setPort_draws (p : Nat) (v : SPort) (s : State) : (setPort p v s).draws = s.draws := rfl
@[simp] theorem setPort_kiosk (p : Nat) (v : SPort) (s : State) : (setPort p v s).kiosk = s.kiosk := rfl
@[simp] theorem setPort_evt (p : Nat) (v : SPort) (s : State) : (setPort p v s).evt = s.evt := rfl
@[simp] theorem setPort_mons (p : Nat) (v : SPort) (s : State) : (setPort p v s).mons = s.mons := rfl
@[simp] theorem setPort_gh (p : Nat) (v : SPort) (s : State) : (setPort p v s).gh = s.gh := rfl
@[simp] theorem setPort_ghx (p : Nat) (v : SPort) (s : State) : (setPort p v s).ghx = s.ghx := rfl
@[simp] theorem setPort_sec (p : Nat) (v : SPort) (s : State) : (setPort p v s).sec = s.sec := rfl
@[simp] theorem setPort_dram (p : Nat) (v : SPort) (s : State) : (setPort p v s).dram = s.dram := rfl
@[simp] theorem setPort_cns (p : Nat) (v : SPort) (s : State) : (setPort p v s).cns = s.cns := rfl
@[simp] theorem setPort_map (p : Nat) (v : SPort) (s : State) : (setPort p v s).map = s.map := rfl
@[simp] theorem setPort_plc (p : Nat) (v : SPort) (s : State) : (setPort p v s).plc = s.plc := rfl
@[simp] theorem setPort_jrn (p : Nat) (v : SPort) (s : State) : (setPort p v s).jrn = s.jrn := rfl
@[simp] theorem setPort_ing (p : Nat) (v : SPort) (s : State) : (setPort p v s).ing = s.ing := rfl
@[simp] theorem setPort_ftb (p : Nat) (v : SPort) (s : State) : (setPort p v s).ftb = s.ftb := rfl
@[simp] theorem setPort_pair (p : Nat) (v : SPort) (s : State) : (setPort p v s).pair = s.pair := rfl
@[simp] theorem setPort_lat (p : Nat) (v : SPort) (s : State) : (setPort p v s).lat = s.lat := rfl
@[simp] theorem setPort_rep (p : Nat) (v : SPort) (s : State) : (setPort p v s).rep = s.rep := rfl

@[simp] theorem setMon_pending (u : Nat) (m : Mon) (s : State) : (setMon u m s).pending = s.pending := rfl
@[simp] theorem setMon_out (u : Nat) (m : Mon) (s : State) : (setMon u m s).out = s.out := rfl
@[simp] theorem setMon_draws (u : Nat) (m : Mon) (s : State) : (setMon u m s).draws = s.draws := rfl
@[simp] theorem setMon_kiosk (u : Nat) (m : Mon) (s : State) : (setMon u m s).kiosk = s.kiosk := rfl
@[simp] theorem setMon_evt (u : Nat) (m : Mon) (s : State) : (setMon u m s).evt = s.evt := rfl
@[simp] theorem setMon_gh (u : Nat) (m : Mon) (s : State) : (setMon u m s).gh = s.gh := rfl
@[simp] theorem setMon_ghx (u : Nat) (m : Mon) (s : State) : (setMon u m s).ghx = s.ghx := rfl
@[simp] theorem setMon_sec (u : Nat) (m : Mon) (s : State) : (setMon u m s).sec = s.sec := rfl
@[simp] theorem setMon_dram (u : Nat) (m : Mon) (s : State) : (setMon u m s).dram = s.dram := rfl
@[simp] theorem setMon_cns (u : Nat) (m : Mon) (s : State) : (setMon u m s).cns = s.cns := rfl
@[simp] theorem setMon_sleds (u : Nat) (m : Mon) (s : State) : (setMon u m s).sleds = s.sleds := rfl
@[simp] theorem setMon_map (u : Nat) (m : Mon) (s : State) : (setMon u m s).map = s.map := rfl
@[simp] theorem setMon_plc (u : Nat) (m : Mon) (s : State) : (setMon u m s).plc = s.plc := rfl
@[simp] theorem setMon_jrn (u : Nat) (m : Mon) (s : State) : (setMon u m s).jrn = s.jrn := rfl
@[simp] theorem setMon_ing (u : Nat) (m : Mon) (s : State) : (setMon u m s).ing = s.ing := rfl
@[simp] theorem setMon_ftb (u : Nat) (m : Mon) (s : State) : (setMon u m s).ftb = s.ftb := rfl
@[simp] theorem setMon_pair (u : Nat) (m : Mon) (s : State) : (setMon u m s).pair = s.pair := rfl
@[simp] theorem setMon_lat (u : Nat) (m : Mon) (s : State) : (setMon u m s).lat = s.lat := rfl
@[simp] theorem setMon_rep (u : Nat) (m : Mon) (s : State) : (setMon u m s).rep = s.rep := rfl

@[simp] theorem setSnap_pending (vol n : Nat) (x : Snap) (s : State) : (setSnap vol n x s).pending = s.pending := rfl
@[simp] theorem setSnap_out (vol n : Nat) (x : Snap) (s : State) : (setSnap vol n x s).out = s.out := rfl
@[simp] theorem setSnap_draws (vol n : Nat) (x : Snap) (s : State) : (setSnap vol n x s).draws = s.draws := rfl
@[simp] theorem setSnap_kiosk (vol n : Nat) (x : Snap) (s : State) : (setSnap vol n x s).kiosk = s.kiosk := rfl
@[simp] theorem setSnap_evt (vol n : Nat) (x : Snap) (s : State) : (setSnap vol n x s).evt = s.evt := rfl
@[simp] theorem setSnap_mons (vol n : Nat) (x : Snap) (s : State) : (setSnap vol n x s).mons = s.mons := rfl
@[simp] theorem setSnap_gh (vol n : Nat) (x : Snap) (s : State) : (setSnap vol n x s).gh = s.gh := rfl
@[simp] theorem setSnap_ghx (vol n : Nat) (x : Snap) (s : State) : (setSnap vol n x s).ghx = s.ghx := rfl
@[simp] theorem setSnap_sec (vol n : Nat) (x : Snap) (s : State) : (setSnap vol n x s).sec = s.sec := rfl
@[simp] theorem setSnap_dram (vol n : Nat) (x : Snap) (s : State) : (setSnap vol n x s).dram = s.dram := rfl
@[simp] theorem setSnap_cns (vol n : Nat) (x : Snap) (s : State) : (setSnap vol n x s).cns = s.cns := rfl
@[simp] theorem setSnap_sleds (vol n : Nat) (x : Snap) (s : State) : (setSnap vol n x s).sleds = s.sleds := rfl
@[simp] theorem setSnap_map (vol n : Nat) (x : Snap) (s : State) : (setSnap vol n x s).map = s.map := rfl
@[simp] theorem setSnap_plc (vol n : Nat) (x : Snap) (s : State) : (setSnap vol n x s).plc = s.plc := rfl
@[simp] theorem setSnap_jrn (vol n : Nat) (x : Snap) (s : State) : (setSnap vol n x s).jrn = s.jrn := rfl
@[simp] theorem setSnap_ing (vol n : Nat) (x : Snap) (s : State) : (setSnap vol n x s).ing = s.ing := rfl
@[simp] theorem setSnap_ftb (vol n : Nat) (x : Snap) (s : State) : (setSnap vol n x s).ftb = s.ftb := rfl
@[simp] theorem setSnap_pair (vol n : Nat) (x : Snap) (s : State) : (setSnap vol n x s).pair = s.pair := rfl
@[simp] theorem setSnap_lat (vol n : Nat) (x : Snap) (s : State) : (setSnap vol n x s).lat = s.lat := rfl

@[simp] theorem modSnap_pending (vol n : Nat) (f : Snap → Snap) (s : State) : (modSnap vol n f s).pending = s.pending := rfl
@[simp] theorem modSnap_out (vol n : Nat) (f : Snap → Snap) (s : State) : (modSnap vol n f s).out = s.out := rfl
@[simp] theorem modSnap_draws (vol n : Nat) (f : Snap → Snap) (s : State) : (modSnap vol n f s).draws = s.draws := rfl
@[simp] theorem modSnap_kiosk (vol n : Nat) (f : Snap → Snap) (s : State) : (modSnap vol n f s).kiosk = s.kiosk := rfl
@[simp] theorem modSnap_evt (vol n : Nat) (f : Snap → Snap) (s : State) : (modSnap vol n f s).evt = s.evt := rfl
@[simp] theorem modSnap_mons (vol n : Nat) (f : Snap → Snap) (s : State) : (modSnap vol n f s).mons = s.mons := rfl
@[simp] theorem modSnap_gh (vol n : Nat) (f : Snap → Snap) (s : State) : (modSnap vol n f s).gh = s.gh := rfl
@[simp] theorem modSnap_ghx (vol n : Nat) (f : Snap → Snap) (s : State) : (modSnap vol n f s).ghx = s.ghx := rfl
@[simp] theorem modSnap_sec (vol n : Nat) (f : Snap → Snap) (s : State) : (modSnap vol n f s).sec = s.sec := rfl
@[simp] theorem modSnap_dram (vol n : Nat) (f : Snap → Snap) (s : State) : (modSnap vol n f s).dram = s.dram := rfl
@[simp] theorem modSnap_cns (vol n : Nat) (f : Snap → Snap) (s : State) : (modSnap vol n f s).cns = s.cns := rfl
@[simp] theorem modSnap_sleds (vol n : Nat) (f : Snap → Snap) (s : State) : (modSnap vol n f s).sleds = s.sleds := rfl
@[simp] theorem modSnap_map (vol n : Nat) (f : Snap → Snap) (s : State) : (modSnap vol n f s).map = s.map := rfl
@[simp] theorem modSnap_plc (vol n : Nat) (f : Snap → Snap) (s : State) : (modSnap vol n f s).plc = s.plc := rfl
@[simp] theorem modSnap_jrn (vol n : Nat) (f : Snap → Snap) (s : State) : (modSnap vol n f s).jrn = s.jrn := rfl
@[simp] theorem modSnap_ing (vol n : Nat) (f : Snap → Snap) (s : State) : (modSnap vol n f s).ing = s.ing := rfl
@[simp] theorem modSnap_ftb (vol n : Nat) (f : Snap → Snap) (s : State) : (modSnap vol n f s).ftb = s.ftb := rfl
@[simp] theorem modSnap_pair (vol n : Nat) (f : Snap → Snap) (s : State) : (modSnap vol n f s).pair = s.pair := rfl
@[simp] theorem modSnap_lat (vol n : Nat) (f : Snap → Snap) (s : State) : (modSnap vol n f s).lat = s.lat := rfl

@[simp] theorem setRel_pending (r : Nat) (v : RelRun) (s : State) : (setRel r v s).pending = s.pending := rfl
@[simp] theorem setRel_out (r : Nat) (v : RelRun) (s : State) : (setRel r v s).out = s.out := rfl
@[simp] theorem setRel_draws (r : Nat) (v : RelRun) (s : State) : (setRel r v s).draws = s.draws := rfl
@[simp] theorem setRel_kiosk (r : Nat) (v : RelRun) (s : State) : (setRel r v s).kiosk = s.kiosk := rfl
@[simp] theorem setRel_evt (r : Nat) (v : RelRun) (s : State) : (setRel r v s).evt = s.evt := rfl
@[simp] theorem setRel_mons (r : Nat) (v : RelRun) (s : State) : (setRel r v s).mons = s.mons := rfl
@[simp] theorem setRel_gh (r : Nat) (v : RelRun) (s : State) : (setRel r v s).gh = s.gh := rfl
@[simp] theorem setRel_ghx (r : Nat) (v : RelRun) (s : State) : (setRel r v s).ghx = s.ghx := rfl
@[simp] theorem setRel_sec (r : Nat) (v : RelRun) (s : State) : (setRel r v s).sec = s.sec := rfl
@[simp] theorem setRel_dram (r : Nat) (v : RelRun) (s : State) : (setRel r v s).dram = s.dram := rfl
@[simp] theorem setRel_cns (r : Nat) (v : RelRun) (s : State) : (setRel r v s).cns = s.cns := rfl
@[simp] theorem setRel_sleds (r : Nat) (v : RelRun) (s : State) : (setRel r v s).sleds = s.sleds := rfl
@[simp] theorem setRel_map (r : Nat) (v : RelRun) (s : State) : (setRel r v s).map = s.map := rfl
@[simp] theorem setRel_plc (r : Nat) (v : RelRun) (s : State) : (setRel r v s).plc = s.plc := rfl
@[simp] theorem setRel_jrn (r : Nat) (v : RelRun) (s : State) : (setRel r v s).jrn = s.jrn := rfl
@[simp] theorem setRel_ing (r : Nat) (v : RelRun) (s : State) : (setRel r v s).ing = s.ing := rfl
@[simp] theorem setRel_ftb (r : Nat) (v : RelRun) (s : State) : (setRel r v s).ftb = s.ftb := rfl
@[simp] theorem setRel_pair (r : Nat) (v : RelRun) (s : State) : (setRel r v s).pair = s.pair := rfl
@[simp] theorem setRel_lat (r : Nat) (v : RelRun) (s : State) : (setRel r v s).lat = s.lat := rfl

@[simp] theorem setGpio_pending (k : Nat) (g : Gpio) (s : State) : (setGpio k g s).pending = s.pending := rfl
@[simp] theorem setGpio_out (k : Nat) (g : Gpio) (s : State) : (setGpio k g s).out = s.out := rfl
@[simp] theorem setGpio_draws (k : Nat) (g : Gpio) (s : State) : (setGpio k g s).draws = s.draws := rfl
@[simp] theorem setGpio_kiosk (k : Nat) (g : Gpio) (s : State) : (setGpio k g s).kiosk = s.kiosk := rfl
@[simp] theorem setGpio_evt (k : Nat) (g : Gpio) (s : State) : (setGpio k g s).evt = s.evt := rfl
@[simp] theorem setGpio_mons (k : Nat) (g : Gpio) (s : State) : (setGpio k g s).mons = s.mons := rfl
@[simp] theorem setGpio_gh (k : Nat) (g : Gpio) (s : State) : (setGpio k g s).gh = s.gh := rfl
@[simp] theorem setGpio_sec (k : Nat) (g : Gpio) (s : State) : (setGpio k g s).sec = s.sec := rfl
@[simp] theorem setGpio_dram (k : Nat) (g : Gpio) (s : State) : (setGpio k g s).dram = s.dram := rfl
@[simp] theorem setGpio_cns (k : Nat) (g : Gpio) (s : State) : (setGpio k g s).cns = s.cns := rfl
@[simp] theorem setGpio_sleds (k : Nat) (g : Gpio) (s : State) : (setGpio k g s).sleds = s.sleds := rfl
@[simp] theorem setGpio_map (k : Nat) (g : Gpio) (s : State) : (setGpio k g s).map = s.map := rfl
@[simp] theorem setGpio_plc (k : Nat) (g : Gpio) (s : State) : (setGpio k g s).plc = s.plc := rfl
@[simp] theorem setGpio_jrn (k : Nat) (g : Gpio) (s : State) : (setGpio k g s).jrn = s.jrn := rfl
@[simp] theorem setGpio_ing (k : Nat) (g : Gpio) (s : State) : (setGpio k g s).ing = s.ing := rfl
@[simp] theorem setGpio_ftb (k : Nat) (g : Gpio) (s : State) : (setGpio k g s).ftb = s.ftb := rfl
@[simp] theorem setGpio_pair (k : Nat) (g : Gpio) (s : State) : (setGpio k g s).pair = s.pair := rfl
@[simp] theorem setGpio_lat (k : Nat) (g : Gpio) (s : State) : (setGpio k g s).lat = s.lat := rfl
@[simp] theorem setGpio_rep (k : Nat) (g : Gpio) (s : State) : (setGpio k g s).rep = s.rep := rfl

@[simp] theorem setTimer_pending (t : Nat) (v : GTimer) (s : State) : (setTimer t v s).pending = s.pending := rfl
@[simp] theorem setTimer_out (t : Nat) (v : GTimer) (s : State) : (setTimer t v s).out = s.out := rfl
@[simp] theorem setTimer_draws (t : Nat) (v : GTimer) (s : State) : (setTimer t v s).draws = s.draws := rfl
@[simp] theorem setTimer_kiosk (t : Nat) (v : GTimer) (s : State) : (setTimer t v s).kiosk = s.kiosk := rfl
@[simp] theorem setTimer_evt (t : Nat) (v : GTimer) (s : State) : (setTimer t v s).evt = s.evt := rfl
@[simp] theorem setTimer_mons (t : Nat) (v : GTimer) (s : State) : (setTimer t v s).mons = s.mons := rfl
@[simp] theorem setTimer_gh (t : Nat) (v : GTimer) (s : State) : (setTimer t v s).gh = s.gh := rfl
@[simp] theorem setTimer_sec (t : Nat) (v : GTimer) (s : State) : (setTimer t v s).sec = s.sec := rfl
@[simp] theorem setTimer_dram (t : Nat) (v : GTimer) (s : State) : (setTimer t v s).dram = s.dram := rfl
@[simp] theorem setTimer_cns (t : Nat) (v : GTimer) (s : State) : (setTimer t v s).cns = s.cns := rfl
@[simp] theorem setTimer_sleds (t : Nat) (v : GTimer) (s : State) : (setTimer t v s).sleds = s.sleds := rfl
@[simp] theorem setTimer_map (t : Nat) (v : GTimer) (s : State) : (setTimer t v s).map = s.map := rfl
@[simp] theorem setTimer_plc (t : Nat) (v : GTimer) (s : State) : (setTimer t v s).plc = s.plc := rfl
@[simp] theorem setTimer_jrn (t : Nat) (v : GTimer) (s : State) : (setTimer t v s).jrn = s.jrn := rfl
@[simp] theorem setTimer_ing (t : Nat) (v : GTimer) (s : State) : (setTimer t v s).ing = s.ing := rfl
@[simp] theorem setTimer_ftb (t : Nat) (v : GTimer) (s : State) : (setTimer t v s).ftb = s.ftb := rfl
@[simp] theorem setTimer_pair (t : Nat) (v : GTimer) (s : State) : (setTimer t v s).pair = s.pair := rfl
@[simp] theorem setTimer_lat (t : Nat) (v : GTimer) (s : State) : (setTimer t v s).lat = s.lat := rfl
@[simp] theorem setTimer_rep (t : Nat) (v : GTimer) (s : State) : (setTimer t v s).rep = s.rep := rfl

@[simp] theorem setAvsQ_pending (b : Nat) (q : List AvsOp) (s : State) : (setAvsQ b q s).pending = s.pending := rfl
@[simp] theorem setAvsQ_out (b : Nat) (q : List AvsOp) (s : State) : (setAvsQ b q s).out = s.out := rfl
@[simp] theorem setAvsQ_draws (b : Nat) (q : List AvsOp) (s : State) : (setAvsQ b q s).draws = s.draws := rfl
@[simp] theorem setAvsQ_kiosk (b : Nat) (q : List AvsOp) (s : State) : (setAvsQ b q s).kiosk = s.kiosk := rfl
@[simp] theorem setAvsQ_evt (b : Nat) (q : List AvsOp) (s : State) : (setAvsQ b q s).evt = s.evt := rfl
@[simp] theorem setAvsQ_mons (b : Nat) (q : List AvsOp) (s : State) : (setAvsQ b q s).mons = s.mons := rfl
@[simp] theorem setAvsQ_gh (b : Nat) (q : List AvsOp) (s : State) : (setAvsQ b q s).gh = s.gh := rfl
@[simp] theorem setAvsQ_sec (b : Nat) (q : List AvsOp) (s : State) : (setAvsQ b q s).sec = s.sec := rfl
@[simp] theorem setAvsQ_dram (b : Nat) (q : List AvsOp) (s : State) : (setAvsQ b q s).dram = s.dram := rfl
@[simp] theorem setAvsQ_cns (b : Nat) (q : List AvsOp) (s : State) : (setAvsQ b q s).cns = s.cns := rfl
@[simp] theorem setAvsQ_sleds (b : Nat) (q : List AvsOp) (s : State) : (setAvsQ b q s).sleds = s.sleds := rfl
@[simp] theorem setAvsQ_map (b : Nat) (q : List AvsOp) (s : State) : (setAvsQ b q s).map = s.map := rfl
@[simp] theorem setAvsQ_plc (b : Nat) (q : List AvsOp) (s : State) : (setAvsQ b q s).plc = s.plc := rfl
@[simp] theorem setAvsQ_jrn (b : Nat) (q : List AvsOp) (s : State) : (setAvsQ b q s).jrn = s.jrn := rfl
@[simp] theorem setAvsQ_ing (b : Nat) (q : List AvsOp) (s : State) : (setAvsQ b q s).ing = s.ing := rfl
@[simp] theorem setAvsQ_ftb (b : Nat) (q : List AvsOp) (s : State) : (setAvsQ b q s).ftb = s.ftb := rfl
@[simp] theorem setAvsQ_pair (b : Nat) (q : List AvsOp) (s : State) : (setAvsQ b q s).pair = s.pair := rfl
@[simp] theorem setAvsQ_lat (b : Nat) (q : List AvsOp) (s : State) : (setAvsQ b q s).lat = s.lat := rfl
@[simp] theorem setAvsQ_rep (b : Nat) (q : List AvsOp) (s : State) : (setAvsQ b q s).rep = s.rep := rfl

@[simp] theorem setMv_pending (r mv : Nat) (s : State) : (setMv r mv s).pending = s.pending := rfl
@[simp] theorem setMv_out (r mv : Nat) (s : State) : (setMv r mv s).out = s.out := rfl
@[simp] theorem setMv_draws (r mv : Nat) (s : State) : (setMv r mv s).draws = s.draws := rfl
@[simp] theorem setMv_kiosk (r mv : Nat) (s : State) : (setMv r mv s).kiosk = s.kiosk := rfl
@[simp] theorem setMv_evt (r mv : Nat) (s : State) : (setMv r mv s).evt = s.evt := rfl
@[simp] theorem setMv_mons (r mv : Nat) (s : State) : (setMv r mv s).mons = s.mons := rfl
@[simp] theorem setMv_ghx (r mv : Nat) (s : State) : (setMv r mv s).ghx = s.ghx := rfl
@[simp] theorem setMv_sec (r mv : Nat) (s : State) : (setMv r mv s).sec = s.sec := rfl
@[simp] theorem setMv_dram (r mv : Nat) (s : State) : (setMv r mv s).dram = s.dram := rfl
@[simp] theorem setMv_cns (r mv : Nat) (s : State) : (setMv r mv s).cns = s.cns := rfl
@[simp] theorem setMv_sleds (r mv : Nat) (s : State) : (setMv r mv s).sleds = s.sleds := rfl
@[simp] theorem setMv_map (r mv : Nat) (s : State) : (setMv r mv s).map = s.map := rfl
@[simp] theorem setMv_plc (r mv : Nat) (s : State) : (setMv r mv s).plc = s.plc := rfl
@[simp] theorem setMv_jrn (r mv : Nat) (s : State) : (setMv r mv s).jrn = s.jrn := rfl
@[simp] theorem setMv_ing (r mv : Nat) (s : State) : (setMv r mv s).ing = s.ing := rfl
@[simp] theorem setMv_ftb (r mv : Nat) (s : State) : (setMv r mv s).ftb = s.ftb := rfl
@[simp] theorem setMv_pair (r mv : Nat) (s : State) : (setMv r mv s).pair = s.pair := rfl
@[simp] theorem setMv_lat (r mv : Nat) (s : State) : (setMv r mv s).lat = s.lat := rfl
@[simp] theorem setMv_rep (r mv : Nat) (s : State) : (setMv r mv s).rep = s.rep := rfl

/-! ### What was put in is read back -/

@[simp] theorem qpOf_setQp_self (n : Nat) (q : Qp) (s : State) : qpOf (setQp n q s) n = q := tgetD_tset_self _ _ _ _
theorem qpOf_setQp_other {n k : Nat} (q : Qp) (s : State) (h : k ≠ n) : qpOf (setQp n q s) k = qpOf s k :=
  tgetD_tset_other _ _ _ h
@[simp] theorem setQp_setQp (n : Nat) (q q' : Qp) (s : State) : setQp n q (setQp n q' s) = setQp n q s := by
  simp [setQp, tset_tset]

@[simp] theorem shelfOf_setShelf_self (g : Nat) (v : Shelf) (s : State) : shelfOf (setShelf g v s) g = v := tgetD_tset_self _ _ _ _
theorem shelfOf_setShelf_other {g k : Nat} (v : Shelf) (s : State) (h : k ≠ g) : shelfOf (setShelf g v s) k = shelfOf s k :=
  tgetD_tset_other _ _ _ h
@[simp] theorem setShelf_setShelf (g : Nat) (v w : Shelf) (s : State) : setShelf g v (setShelf g w s) = setShelf g v s := by
  simp [setShelf, tset_tset]

@[simp] theorem portOf_setPort_self (p : Nat) (v : SPort) (s : State) : portOf (setPort p v s) p = v := tgetD_tset_self _ _ _ _
theorem portOf_setPort_other {p k : Nat} (v : SPort) (s : State) (h : k ≠ p) : portOf (setPort p v s) k = portOf s k :=
  tgetD_tset_other _ _ _ h
@[simp] theorem setPort_setPort (p : Nat) (v w : SPort) (s : State) : setPort p v (setPort p w s) = setPort p v s := by
  simp [setPort, tset_tset]

@[simp] theorem dmcOf_setDmc_self (n : Nat) (c : Dmc) (s : State) : dmcOf (setDmc n c s) n = c := tgetD_tset_self _ _ _ _
theorem dmcOf_setDmc_other {n k : Nat} (c : Dmc) (s : State) (h : k ≠ n) : dmcOf (setDmc n c s) k = dmcOf s k :=
  tgetD_tset_other _ _ _ h
@[simp] theorem setDmc_setDmc (n : Nat) (c d : Dmc) (s : State) : setDmc n c (setDmc n d s) = setDmc n c s := by
  simp [setDmc, tset_tset]

@[simp] theorem monOf_setMon_self (u : Nat) (m : Mon) (s : State) : monOf (setMon u m s) u = m := tgetD_tset_self _ _ _ _
theorem monOf_setMon_other {u k : Nat} (m : Mon) (s : State) (h : k ≠ u) : monOf (setMon u m s) k = monOf s k :=
  tgetD_tset_other _ _ _ h
@[simp] theorem slotOf_setSlot_self (k : Nat) (v : KeySlot) (s : State) : slotOf (setSlot k v s) k = v := tgetD_tset_self _ _ _ _
theorem slotOf_setSlot_other {k j : Nat} (v : KeySlot) (s : State) (h : j ≠ k) : slotOf (setSlot k v s) j = slotOf s j :=
  tgetD_tset_other _ _ _ h
@[simp] theorem fportOf_setFport_self (n : Nat) (p : FPort) (s : State) : fportOf (setFport n p s) n = p := tgetD_tset_self _ _ _ _
theorem fportOf_setFport_other {n k : Nat} (p : FPort) (s : State) (h : k ≠ n) : fportOf (setFport n p s) k = fportOf s k :=
  tgetD_tset_other _ _ _ h
@[simp] theorem relOf_setRel_self (r : Nat) (v : RelRun) (s : State) : relOf (setRel r v s) r = v := tgetD_tset_self _ _ _ _
@[simp] theorem gpioOf_setGpio_self (k : Nat) (g : Gpio) (s : State) : gpioOf (setGpio k g s) k = g := tgetD_tset_self _ _ _ _
@[simp] theorem timerOf_setTimer_self (t : Nat) (v : GTimer) (s : State) : timerOf (setTimer t v s) t = v := tgetD_tset_self _ _ _ _
@[simp] theorem blkOf_setBlk_self (k : Nat) (b : Blk) (s : State) : blkOf (setBlk k b s) k = b := tgetD_tset_self _ _ _ _
@[simp] theorem cmdOf_setCmd_self (asn : Nat) (c : Cmd) (s : State) : cmdOf (setCmd asn c s) asn = some c := tget_tset_self _ _ _
theorem cmdOf_setCmd_other {asn k : Nat} (c : Cmd) (s : State) (h : k ≠ asn) : cmdOf (setCmd asn c s) k = cmdOf s k :=
  tget_tset_other _ _ h
@[simp] theorem claimHolder_setClaim_self (cls idx holder : Nat) (s : State) :
    claimHolder (setClaim cls idx holder s) cls idx = some holder := by
  simp [claimHolder, setClaim, tget_tset_self]

/-! ### Updates of what is there -/

theorem tget_tmod {α : Type} (t : Tab α) (k : Nat) (f : α → α) (v : α) (h : tget t k = some v) :
    tget (tmod t k f) k = some (f v) := by
  simp [tmod, h, tget_tset_self]

theorem cmdOf_modCmd {asn : Nat} {c : Cmd} {s : State} (f : Cmd → Cmd) (h : cmdOf s asn = some c) :
    cmdOf (modCmd asn f s) asn = some (f c) := tget_tmod _ _ _ _ h

/-- The context cache touches only whether a queue pair's context is cached; it is, while the cache has room for it or holds it. -/
theorem qpOf_touchCtx (n : Nat) (s : State) : ∃ b, qpOf (touchCtx n s) n = { qpOf s n with cached := b } ∧
    (s.lat.lru.contains n = true ∨ (s.lat.lru.filter (· ≠ n)).length < 2048 → b = true) := by
  unfold touchCtx
  simp only
  split
  · exact ⟨true, by rw [qpOf_setQp_self], fun _ => rfl⟩
  · rename_i h
    split
    · exact ⟨false, by rw [qpOf_setQp_self], fun x => absurd x h⟩
    · rename_i k hk
      refine ⟨true, ?_, fun x => absurd x h⟩
      have hne : k ≠ n := by
        have := List.mem_of_find?_eq_some hk
        simp at this
        exact this.2
      simp only [qpOf, setQp, tgetD_tset_other _ _ _ hne.symm, tgetD_tset_self]

/-- Touching a context changes the queue pairs' cache flags and the order of use alone. -/
theorem touchCtx_frame (n : Nat) (s : State) : ∃ q l, touchCtx n s = { s with lat := { s.lat with qps := q, lru := l } } := by
  unfold touchCtx
  simp only
  split
  · exact ⟨_, _, rfl⟩
  · split <;> exact ⟨_, _, rfl⟩

/-- Seeing a CSN changes the replay tables alone (R61). -/
theorem seeCsn_frame (q k : Nat) (s : State) : ∃ t, seeCsn q k s = { s with jrn := { s.jrn with tables := t } } := by
  unfold seeCsn
  split
  · exact ⟨_, rfl⟩
  · simp only
    split <;> exact ⟨_, rfl⟩

/-- A map over a table that fixes the default acts on every entry. -/
theorem tgetD_tmap {α : Type} (f : Nat → α → α) (t : Tab α) (d : α) (h : ∀ k, f k d = d) (k : Nat) :
    tgetD (tmap f t) k d = f k (tgetD t k d) := by
  induction t with
  | nil => simp [tmap, tgetD, tget, h]
  | cons x t ih =>
    simp only [tmap, List.map, tgetD, tget] at *
    split
    · rename_i h
      subst h
      rfl
    · exact ih

theorem find_modWhere {l : List ChunkWork} {k : Nat} {f : ChunkWork → ChunkWork} {w : ChunkWork} (hf : ∀ w, (f w).chunk = w.chunk)
    (h : l.find? (fun w => decide (w.chunk = k)) = some w) :
    (modWhere (fun w => decide (w.chunk = k)) f l).find? (fun w => decide (w.chunk = k)) = some (f w) := by
  induction l with
  | nil => simp at h
  | cons a l ih =>
    simp only [List.find?_cons] at h
    simp only [modWhere, List.map_cons]
    by_cases ha : a.chunk = k
    · simp [ha] at h
      subst h
      simp [ha, hf]
    · simp [ha] at h
      simp only [modWhere] at ih
      simp [ha]
      simpa using ih (by simpa using h)

/-- An update of a chunk in ingest is read back. -/
theorem workAt_modWork {asn k : Nat} {f : ChunkWork → ChunkWork} {s : State} {w : ChunkWork} (hf : ∀ w, (f w).chunk = w.chunk)
    (h : workAt s asn k = some w) : workAt (modWork asn k f s) asn k = some (f w) := by
  unfold workAt at *
  rcases hc : cmdOf s asn with _ | c
  · simp [hc] at h
  · simp [hc] at h
    have : cmdOf (modWork asn k f s) asn =
        some { c with chunks := modWhere (fun w => decide (w.chunk = k)) f c.chunks } := tget_tmod _ _ _ _ hc
    rw [this]
    exact find_modWhere hf h


end Sys2Proof.Machine
end

