-- ==== Sys2Proof/Tests/Slice0.lean ====
section
/-!
SUPPORT. Tests/Slice0.lean: the model's own tests. First an ill-formed term for every check of WellFormed, then worked values
from the manual and from the published test vectors of the algorithms that it names, then single steps, and last, for every
clause of a statement that has hypotheses, a state and operands that meet them all.
-/
namespace Sys2Proof.Tests
open Sys2Proof Sys2Proof.Machine

set_option Elab.async false
set_option linter.unusedTactic false
set_option linter.unreachableTactic false

/-! ### Small states -/

/-- A Basmos message. -/
def bm (op : Nat) (p : Bytes) (session : Nat := 0) : BMsg :=
  { opcode := op, seq := 0, expert := false, session := session, payload := p }

/-- Mailbox 0 RUNNING with a message. -/
def rq (op : Nat) (p : Bytes) (s : State := State.reset) : State :=
  setMbx 0 { state := .running, msg := some (bm op p) } s

/-- A mailbox in a state. -/
def inSt (n : Nat) (m : Mbx) : State := setMbx n m State.reset

/-- A volume record, a domain record, a relationship, and states that hold one. -/
def wVRec : VolRec := { domain := 1, blocks := 16, pref := .a }
def wDom : DomRec := { salt := [], dedup := true, compress := true, blobA := [], blobB := [] }
def wRec : ReplRec :=
  { source := true, paused := false, interval := 60, pd := 0, remoteArray := [], addrA := [], addrB := [], vols := [] }
def wVol (v : Nat) : State := { State.reset with pair := { arr := { volumes := [(v, wVRec)] } } }
def wRel (k : Nat) (r : ReplRec) : State := { State.reset with pair := { arr := { rels := [(k, r)] } } }

/-- The head of a wrapped domain key of domain 7, and a DOM_CREATE that carries it. -/
def wBlob : Bytes := [0, 0, 1, 0, 0, 0, 7, 0]
def wDomReq : Bytes := leN 4 7 ++ [3, 0, 0, 0] ++ leN 2 8 ++ leN 2 8 ++ zeros 4 ++ wBlob ++ wBlob

/-- A listed job is found by its number. -/
theorem witness_find (k : Nat) (j : Job) :
    [(k, j)].find? (fun e => decide (jobNo e.1 = fieldLE (leN 4 (jobNo k)) 0 4)) = some (k, j) := by
  have h : jobNo k = fieldLE (leN 4 (jobNo k)) 0 4 := by
    rw [fieldLE_leN]; exact (Nat.mod_eq_of_lt (Nat.mod_lt _ (by decide))).symm
  simp only [List.find?, decide_eq_true h]

/-- With no slot in use the first pair is free. -/
theorem witness_freePair (s : State) (h : s.sec.slots = []) : freePair s = some 0 := by
  have h0 : ∀ k, slotOf s k = {} := by intro k; simp [slotOf, h, tgetD, tget]
  have hr : List.range 1536 = 0 :: (List.range 1535).map Nat.succ := List.range_succ_eq_map
  simp [freePair, freePairs, h0, hr]


/-- The head in Serve; with shelf g in a state. -/
def wSrv : State := { State.reset with gh := { state := .serve } }
def wShelf (g : Nat) (st : ShelfSt) (s : State := State.reset) : State := setShelf g { st := st } s

/-- A block-set record of role A that is closed and verified, and a sled record of the smallest flash. -/
def wSet : BSet := { shelf := 31, sled := 0, dieGroup := 0, state := 3, role := .a, band := 7, blocks := List.replicate 16 0 }
def wSled : SledIdent :=
  { serial := [], dies := 16, planes := 2, blocks := 64, pages := 64, correction := 0, endurance := 0, tReadUs := 0, tProgUs := 0
    tEraseUs := 0, maxTags := 64, suspend := false }

/-- A request RUNNING in mailbox n; a queue pair, a host port, a protection domain, an open record of domain 4,095, a WRITE
capsule of 36 bytes of data, and a plain queue pair that holds its last packet. -/
def wAt (n : Nat) (op : Nat) (p : Bytes) (s : State := State.reset) : State :=
  setMbx n { state := .running, msg := some (bm op p) } s
def wQp (n : Nat) (q : Qp) (s : State := State.reset) : State := setQp n q s
def wPort (n : Nat) (s : State := State.reset) (h : HPort := { exists_ := true, up := true }) : State :=
  { s with lat := { s.lat with hports := [(n, h)] } }
def wPd : Pd := { gcm := false, plain := true, ranges := [], pageLimit := 0 }
def wOpen : Bytes := [1, 0, 0, 0] ++ zeros 4 ++ leN 8 5 ++ leN 2 60 ++ leN 2 4095 ++ zeros 12
def wCaps : Bytes := [1] ++ zeros 23 ++ leN 4 36 ++ zeros 36
def wPlain : Qp :=
  { st := .open_, plain := true, segq := [(0, [2, 9])], tags := [(31, { st := .receiving, placed := [(0, wCaps)] })]
    plainRx := { bytes := zeros 35, tag := some 31 } }

/-- A command as it stands on tag 31 of queue pair 7, and the head that has checked in it, with a second command. -/
def wCmd (op flags a b c d : Nat) : Cmd :=
  newCmd 7 31 5 ([BitVec.ofNat 8 op, BitVec.ofNat 8 flags, 31, 0] ++ leN 4 1 ++ leN 4 a ++ leN 4 b ++ leN 8 c ++ leN 4 d ++ zeros 36)
    0
def wRun (c : Cmd) (more : Tab Cmd := []) : State :=
  { wVol 65535 with
    lat := { qps := [(7, { st := .open_, queueId := 5, tags := [(31, { st := .running, asn := some 2 })] })]
             queues := [(5, { qpn := some 7, pd := 0 })]
             pds := [(0, { gcm := false, plain := true, ranges := [(65535, 65535)], pageLimit := 0 })] }
    jrn := { serving := true, cmds := more ++ [(2, c)] } }
/-- A running WRITE with one chunk in ingest. -/
def wIng (w : ChunkWork) : Cmd := { wCmd 1 0 65535 0 0 32768 with stage := .running, dataDone := true, chunks := [w] }
def wWork (st : ChunkStage) (data : Bytes) : ChunkWork :=
  { chunk := 0, unit := 0, mask := 255, data := data, stage := st, cls := .new, payload := [1] }
def wKeys (s : State) : State :=
  { s with sec := { slots := [(0, { key := [1], purpose := 0 }), (1, { key := [2], purpose := 0 })] } }

def wHello : HelloMsg :=
  { generation := 1, lkn256 := false, serial := zeros 16, arrayId := zeros 16, role := some .b, maxOwnGib := 16, ownGib := 16, epochMs := 1000
    fwVersion := 1, firstMsgId := 1, restarting := false, asnHigh := 0, keepValid := false, autoFail := false }
def wHb : HbMsg :=
  { counter := 1, asnHigh := 0, epoch := 0, state := 3, powerFail := false, handover := false, fenced := false, portsUp := 15
    generation := 1, recordGen := 0 }
/-- The head whole in its array as a role, its power good. -/
def wWhole (r : Role) : State :=
  { State.reset with pair := { role := some r, state := 3, paired := true, filled := true }, ghx := { pwrFail := false } }

/-- A shelf record of small figures, a sled record, their identity memories, a shelf wake's item. -/
def wFigs : ShelfIdent := { serial := [], pIdle := 1, pWake := 2, kMw := 1, wakeMs := 3000 }
/-- A sled's identity memory, and a shelf's. -/
def wSledRec : Bytes :=
  let b := leN 4 0x5A574944 ++ leN 2 1 ++ [BitVec.ofNat 8 IdKind.sled.code, 0] ++ leN 2 128 ++ zeros 2 ++ leN 16 7 ++ leN 4 0 ++
    leN 2 1 ++ [16, 1] ++ leN 2 128 ++ leN 2 64 ++ leN 2 8 ++ leN 4 3000 ++ leN 2 60 ++ leN 2 600 ++ leN 2 5000 ++ leN 2 256 ++
    zeros 70
  b ++ leN 4 (crc32c b)
def wShelfRec : Bytes :=
  let b := leN 4 0x5A574944 ++ leN 2 1 ++ [BitVec.ofNat 8 IdKind.shelf.code, 0] ++ leN 2 128 ++ zeros 2 ++ leN 16 7 ++ leN 4 0 ++
    [32, 1] ++ leN 2 10 ++ leN 2 20 ++ leN 2 1 ++ leN 2 3000 ++ zeros 82
  b ++ leN 4 (crc32c b)
def wPt (p : Nat) (v : SPort) (s : State := State.reset) : State := setPort p v s
def wFlit (seq : Nat) : Flit := { vc := 0, endF := true, start := true, seq := seq, ack := 0, dcr := 0, checkOk := true, payload := [1] }
def wTx : TxFlit := { vc := 0, endF := true, payload := [1] }
def wOp (op : Nat) : SledPend := { why := .info, cmd := { op := op, tag := 1023 } }
/-- A journal chunk of volume 1 that waits for its home, and the home shelf with one sled. -/
def wEnv : Bytes := zeros 8 ++ leN 8 9 ++ zeros 48
def wJr : JRec :=
  { off := 0, asn := 1, unit := 0, units := 1, epoch := 0, len := 64, last := true, replayed := false, check := 0, body := .chunk 1 3 wEnv [5] }
def wPlace : State :=
  { wShelf 0 .awake with
    jrn := { flashMode := false, drain := [(9, (1, 0))], own := [{ r := wJr }] }
    plc := { (wShelf 0 .awake).plc with heat := [(heatKey 1 24, 40)] }
    sleds := { shelfRec := [(0, wFigs)], sledRec := [(0, wSled)], shelfUse := [(0, wFigs)], sledUse := [(0, { wSled with blocks := 128 })] } }

/-- A DRAM channel that serves with one rank in a state. -/
def wDmc (n : Nat) (k : DRank) (s : State := State.reset) : State := setDmc n { state := 2, ranks := [(0, k)] } s
/-- A line in way 15 of the set of line 5. -/
def wLine (d : Bool) : State :=
  { State.reset with cns := { sets := [(setKey {} 5, [(15, { line := 5, dirty := d, ref := true, cls := 0 })])] } }
/-- One descriptor in queue 2: an XTS encryption under slots 0 and 1. -/
def wDesc : Bytes := [1, 0] ++ leN 2 0 ++ leN 4 16 ++ leN 8 7 ++ leN 8 0x10000 ++ leN 8 0x20000 ++ zeros 24 ++ leN 4 77 ++ zeros 4
def wQ2 (d : Bytes) : State := { State.reset with sec := { q2Tail := 1, lodgeMem := memPuts [] 0 d } }
/-- A newest event record. -/
def wEv : EvRec :=
  { off := 0, len := 64, cls := 1, typ := 0x0605, seq := 1, hours := 0, seconds := 0, cycle := 1, repeats := 0xFFFE, lastSeen := 0
    subject := .none, detail := [] }
def wEvs : State := { State.reset with evt := { recs := [wEv], headSeq := 1 } }
def wTest : SelfTest := { subject := .engineCore 0 0, errSeq := some 1 }
def wTests : State := { State.reset with evt := { running := [wTest] } }
def wKeyed : State :=
  { wQ2 wDesc with sec := { (wQ2 wDesc).sec with slots := [(0, { key := zeros 32 }), (1, { key := zeros 32 })] } }
theorem witness_inv : HeadInv State.reset := by
  refine ⟨?_, ?_, ?_, ?_, ?_, ?_, ?_, ?_, fun e h => nomatch (h : e ∈ ([] : List (Nat × Mbx)))⟩ <;> decide +kernel
/-- A response descriptor. -/
def wResp : SledResp := { port := 0, tag := 0, outcome := 0, corrected := 0, retries := 0, data := [], detail := zeros 20 }

/-! ### Ill-formed commands -/

theorem test_illformed_kiosk : [Instr.mbxRequestWrite 0 0 [], .mbxRequestWrite 0 509 [1, 2, 3, 4], .mb63Write true 65536 [1],
    .mb63Write true 0 (List.replicate 241 0), .mb63ReadOffset true 65536, .mb63Read true 0, .mb63Read true 241,
    .registerWrite .bar0 65533 [1, 2, 3, 4], .registerWrite .bar1 16381 [1, 2, 3, 4], .registerWrite .window 2 [1, 2, 3, 4],
    .registerWrite .window 0 [1], .claimEnableWrite 5 0 1, .claimEnableWrite 0 0 1, .claimEnableWrite 1 16 1,
    .claimEnableWrite 2 8 1, .claimEnableWrite 3 32 1, .claimEnableWrite 4 4 1].all (fun i => !i.wf) = true := by decide +kernel

theorem test_illformed_transport : [Instr.queueOpen 0 0 true (2 ^ 24) [], .replayTableExpiry 0, .replayTableExpiry (2 ^ 64),
    .queueKeyHoldExpiry 0, .inboundPacket 0 { port := 0, vlans := [], op := .sendOnly, psn := 2 ^ 24, ce := false, aad := [], payload := [] },
    .stagingPageFree 0 0 257, .selectiveNakTimer 0 (2 ^ 24), .rnrNakReceived 0 (2 ^ 24) 0, .rnrNakReceived 0 0 32,
    .remoteAccessErrorNak 0 (2 ^ 24), .pauseFrame 0 8 true].all (fun i => !i.wf) = true := by decide +kernel

theorem test_illformed_ingest : [Instr.overlapRelease (2 ^ 64), .fingerprintDone (2 ^ 64) 0, .indexGroupReadDone (2 ^ 64) 0 true,
    .lookupShed (2 ^ 64) 0, .verifyReadDone (2 ^ 64) 0 true, .verifyShed (2 ^ 64) 0,
    .mergeReadDone (2 ^ 64) 0 true, .compressionDone (2 ^ 64) 0, .encryptionDone (2 ^ 64) 0, .commitUnitCommit (2 ^ 64) 0,
    .journalRelease (2 ^ 64) 0, .decompressionDone (2 ^ 64) 0, .recallStageDone (2 ^ 64)].all (fun i => !i.wf) = true := by decide +kernel

theorem test_illformed_pair : [Instr.hello { wHello with serial := [] }, .heartbeat 0 { wHb with state := 8 },
    .heartbeat 0 { wHb with portsUp := 16 }, .mirror (2 ^ 64) [], .receipt (2 ^ 64) [], .receipt 0 [(2, 1)],
    .snak 0 (2 ^ 32) 0 none, .snak 0 0 (2 ^ 32) none, .handover (.relinquish [65536]), .handover (.volumesReceived [65536]),
    .resync (2 ^ 64) [], .footbridgeGapTimer (2 ^ 64), .footbridgeResendTimer (2 ^ 64),
    .footbridgeSegment 0 0 (2 ^ 32) 1 1 0 1 none true, .footbridgeSegment 0 0 0 1 1 0 9089 none true,
    .footbridgeSegment 0 0 0 1 1 0 8 (some 9) true, .replicationProbe 0 0 65536 0,
    .replicationCompletion 65536 0 .success 0 0 false,
    .replicationMessage 0 0 { relationship := 0, batch := 0, msgNo := 0, sourceEpoch := 0, sourceArray := [], checkOk := true
                              records := [] }].all (fun i => !i.wf) = true := by decide +kernel

theorem test_illformed_sleds : [Instr.sequencedFlit 0 { wFlit 0 with payload := [] }, .idle 0 4096, .nak 0 4096, .credit 0 256 0 0,
    .credit 0 0 0 65536, .ts1 0 8 0, .ts1 0 0 8,
    .ts2 0 { version := 1, bridgePort := 0, cmdCredits := 256, dataCredits := 0, mgmtCredits := 0, maxTags := 0, checkOk := true },
    .testComplete 0 (2 ^ 32), .sledReadResponse { wResp with tag := 1024 }, .sledReadResponse { wResp with data := [1] },
    .sledProgramResponse { wResp with detail := [] }, .sledEraseResponse { wResp with outcome := 256 },
    .dieStatusResponse { wResp with detail := [] }, .portLockResponse { wResp with detail := [] },
    .bridgeInfoResponse wResp (some (zeros 257)), .notice 0 256 0 0, .sledCmdTimeout 0 65536 true,
    .identityRecordRead 0 0 (some (zeros 257)), .i2cStretchTimeout 0 0 4].all (fun i => !i.wf) = true := by decide +kernel

theorem test_illformed_head : [Instr.dramReadError 0 0 (2 ^ 40) true, .cnsParityError (2 ^ 37), .cnsTagParityError (2 ^ 37) true,
    .avsResponse 0 true true 65536, .powerOnReset 0 (some (zeros 257)), .errorSignal 0 256 .none].all (fun i => !i.wf) = true := by
  decide +kernel

theorem test_wellformed : [Instr.mbxRequestWrite 63 508 [1, 2, 3, 4], .registerWrite .window 0x1200001C [0, 0, 0, 0],
    .claimEnableWrite 3 31 4, .queueOpen 0 0 true (2 ^ 24 - 1) [], .hello wHello, .sledReadResponse wResp, .errorSignal 0 255 .none,
    .footbridgeSegment 0 0 0 1 1 0 9 (some 9) true].all (fun i => i.wf) = true := by decide +kernel

/-! ### Published test vectors -/

/-- FIPS 180-4: SHA-256 of "abc". -/
theorem test_sha256_abc : leVal ((sha 0 [0x61, 0x62, 0x63]).reverse) =
    0xBA7816BF8F01CFEA414140DE5DAE2223B00361A396177A9CB410FF61F20015AD := by decide +kernel

/-- FIPS 197: the substitution of 53, and a column through MixColumns. -/
theorem test_aes_sbox : sboxAt 0x53 = 0xED ∧ (mixCols [2, 3, 1, 1] [0xDB, 0x13, 0x53, 0x45]).take 4 = [0x8E, 0x4D, 0xA1, 0xBC] := by
  decide +kernel

/-- R287: from 0x7F_FFFF the LFSR gives 23 ones, then the feedback of ones and ones, a zero (worked by hand). -/
theorem test_scramble : (scramble 0x7FFFFF [0, 0, 0]).2 = [0xFF, 0xFF, 0x7F] := by decide +kernel

/-- The check value of CRC-32C over "123456789". -/
theorem test_crc32c : crc32c [0x31, 0x32, 0x33, 0x34, 0x35, 0x36, 0x37, 0x38, 0x39] = 0xE3069283 := by decide +kernel

/-- R193: a stream inflates to its input. -/
theorem test_deflate_round : inflate 6 (deflate [1, 2, 3, 1, 2, 3]) = some [1, 2, 3, 1, 2, 3] := by decide +kernel

/-! ### Single steps -/

/-- R441: 1,000 ns fall into bucket 35. -/
theorem test_bucket : monBucket 1000 = 35 := by decide

/-- A step takes the command at the front. -/
theorem test_step : (match step { State.reset with pending := [.evrSeqLock, .cnsHashLock] } with
    | .next t => decide (t.pending = [.cnsHashLock]) && t.evt.lock && !t.cns.hashLock
    | _ => false) = true := by decide

/-- R361: the geometry lock of one channel stops a write of a channel hash mask. -/
theorem test_locked_mask : (match exec (.dmcChanHashWrite 0 0x004040401) (setDmc 23 { lock := true } State.reset) with
    | .next t => decide (t.dram.chanHash = [0x001010101, 0x002020202, 0x004040404])
    | _ => false) = true := by decide

/-! ### Witnesses -/

theorem witness_MailboxWriteRingAndAck_1 : ∃ (n : Fin 64) (off : Nat) (data : Bytes) (s : State),
    alignedAccess off data.length = true ∧ off + data.length ≤ 512 ∧ heldBySmbus n (mbxOf s n) = false ∧
    ((mbxOf s n).state = .idle ∨ (mbxOf s n).state = .done) :=
  ⟨63, 508, [1, 2, 3, 4], State.reset, by
    repeat' apply And.intro
    all_goals first | rfl | decide | exact Or.inl rfl | exact Or.inr rfl | (unfold JobFree; decide) | omega | simp⟩

theorem witness_MailboxWriteRingAndAck_2 : ∃ (n : Fin 64) (off : Nat) (data : Bytes) (s : State) (_a : Nat),
    alignedAccess off data.length = true ∧ off + data.length ≤ 512 ∧ heldBySmbus n (mbxOf s n) = false ∧
    ((mbxOf s n).state = .idle ∨ (mbxOf s n).state = .done) ∧ Memory.wf (mbxOf s n).req = true :=
  ⟨63, 508, [1, 2, 3, 4], State.reset, 0, by
    repeat' apply And.intro
    all_goals first | rfl | decide | exact Or.inl rfl | exact Or.inr rfl | (unfold JobFree; decide) | omega | simp⟩

theorem witness_MailboxWriteRingAndAck_3 : ∃ (n : Fin 64) (off : Nat) (data : Bytes) (s : State),
    alignedAccess off data.length = true ∧ off + data.length ≤ 512 ∧ heldBySmbus n (mbxOf s n) = false ∧
    ((mbxOf s n).state = .posted ∨ (mbxOf s n).state = .running) :=
  ⟨0, 0, [1, 2, 3, 4, 5, 6, 7, 8], inSt 0 { state := .running }, by
    repeat' apply And.intro
    all_goals first | rfl | decide | exact Or.inl rfl | exact Or.inr rfl | (unfold JobFree; decide) | omega | simp⟩

theorem witness_MailboxWriteRingAndAck_4 : ∃ (n : Fin 64) (s : State), heldBySmbus n (mbxOf s n) = false ∧
    ((mbxOf s n).state = .idle ∨ (mbxOf s n).state = .done) :=
  ⟨62, inSt 62 { state := .done }, by
    repeat' apply And.intro
    all_goals first | rfl | decide | exact Or.inl rfl | exact Or.inr rfl | (unfold JobFree; decide) | omega | simp⟩

theorem witness_MailboxWriteRingAndAck_5 : ∃ (n : Fin 64) (s : State), heldBySmbus n (mbxOf s n) = false ∧
    ((mbxOf s n).state = .posted ∨ (mbxOf s n).state = .running) :=
  ⟨0, inSt 0 { state := .posted }, by
    repeat' apply And.intro
    all_goals first | rfl | decide | exact Or.inl rfl | exact Or.inr rfl | (unfold JobFree; decide) | omega | simp⟩

theorem witness_MailboxWriteRingAndAck_6 : ∃ (n : Fin 64) (s : State), heldBySmbus n (mbxOf s n) = false ∧
    (mbxOf s n).state = .done ∧ n.val ≠ 63 :=
  ⟨62, inSt 62 { state := .done }, by
    repeat' apply And.intro
    all_goals first | rfl | decide | exact Or.inl rfl | exact Or.inr rfl | (unfold JobFree; decide) | omega | simp⟩

theorem witness_MailboxWriteRingAndAck_7 : ∃ (n : Fin 64) (s : State), heldBySmbus n (mbxOf s n) = false ∧
    (mbxOf s n).state = .done ∧ n.val = 63 :=
  ⟨63, inSt 63 { state := .done, holder := 1 }, by
    repeat' apply And.intro
    all_goals first | rfl | decide | exact Or.inl rfl | exact Or.inr rfl | (unfold JobFree; decide) | omega | simp⟩

theorem witness_CancelEndsRequestOnce_1 : ∃ (n : Fin 64) (s : State), heldBySmbus n (mbxOf s n) = false ∧
    (mbxOf s n).state = .posted ∧ (mbxOf s n).discard = false :=
  ⟨0, inSt 0 { state := .posted }, by
    repeat' apply And.intro
    all_goals first | rfl | decide | exact Or.inl rfl | exact Or.inr rfl | (unfold JobFree; decide) | omega | simp⟩

theorem witness_CancelEndsRequestOnce_2 : ∃ (n : Fin 64) (s : State), heldBySmbus n (mbxOf s n) = false ∧
    (mbxOf s n).state = .running :=
  ⟨63, inSt 63 { state := .running, holder := 1 }, by
    repeat' apply And.intro
    all_goals first | rfl | decide | exact Or.inl rfl | exact Or.inr rfl | (unfold JobFree; decide) | omega | simp⟩

theorem witness_CancelEndsRequestOnce_3 : ∃ (n : Fin 64) (s : State), heldBySmbus n (mbxOf s n) = false ∧
    ((mbxOf s n).state = .idle ∨ (mbxOf s n).state = .done) :=
  ⟨63, State.reset, by
    repeat' apply And.intro
    all_goals first | rfl | decide | exact Or.inl rfl | exact Or.inr rfl | (unfold JobFree; decide) | omega | simp⟩

theorem witness_CancelEndsRequestOnce_4 : ∃ (n : Fin 64) (s : State) (msg : BMsg), (mbxOf s n).msg = some msg ∧
    (mbxOf s n).state = .running ∧ (mbxOf s n).longRun = false ∧ (mbxOf s n).cancel = true ∧ msg.opcode = 0x0100 :=
  ⟨0, setMbx 0 { state := .running, msg := some (bm 0x0100 []), cancel := true } State.reset, bm 0x0100 [], by
    repeat' apply And.intro
    all_goals first | rfl | decide | exact Or.inl rfl | exact Or.inr rfl | (unfold JobFree; decide) | omega | simp⟩

theorem witness_LodgeTakesRequests_1 : ∃ (n : Fin 64) (s : State), (mbxOf s n).state = .posted ∧ s.kiosk.lodgeReady = true ∧
    claimBehind s n = false ∧ headerValid (mbxOf s n) (reqHeader (mbxOf s n)) = true ∧
    (((reqHeader (mbxOf s n)).expert = true → sessionAllows (mbxOf s n) (reqHeader (mbxOf s n)) = true)) ∧
    fetchesPart (mbxOf s n) (reqHeader (mbxOf s n)) = false ∧ (reqHeader (mbxOf s n)).more = false :=
  ⟨0,
    { inSt 0 { state := .posted, req := memPuts [] 0 [0, 1] } with kiosk := { (inSt 0 { state := .posted, req := memPuts [] 0 [0, 1] }).kiosk with lodgeReady := true } },
    by
    repeat' apply And.intro
    all_goals first | rfl | decide | exact Or.inl rfl | exact Or.inr rfl | (unfold JobFree; decide) | omega | simp⟩

theorem witness_LodgeTakesRequests_2 : ∃ (n : Fin 64) (s : State), (mbxOf s n).state = .posted ∧ (mbxOf s n).discard = false :=
  ⟨63, inSt 63 { state := .posted }, by
    repeat' apply And.intro
    all_goals first | rfl | decide | exact Or.inl rfl | exact Or.inr rfl | (unfold JobFree; decide) | omega | simp⟩

theorem witness_LodgeTakesRequests_3 : ∃ (n : Fin 64) (s : State), (mbxOf s n).state = .running ∧ (mbxOf s n).partAck = true ∧
    (mbxOf s n).cancel = false ∧ (mbxOf s n).discard = false :=
  ⟨0, inSt 0 { state := .running, partAck := true }, by
    repeat' apply And.intro
    all_goals first | rfl | decide | exact Or.inl rfl | exact Or.inr rfl | (unfold JobFree; decide) | omega | simp⟩

theorem witness_LodgeTakesRequests_4 : ∃ (n : Fin 64) (s : State), mbxBusy (mbxOf s n) = false :=
  ⟨0, State.reset, by
    repeat' apply And.intro
    all_goals first | rfl | decide | exact Or.inl rfl | exact Or.inr rfl | (unfold JobFree; decide) | omega | simp⟩

theorem witness_SmbusMailboxCommands_1 : ∃ (s : State) (off : Nat) (data : Bytes), s.ghx.smbNack = false ∧
    s.ghx.smbStretch = false ∧ (((mbxOf s 63).holder = 0 ∨ (mbxOf s 63).holder = 2)) ∧ 0 < data.length ∧ data.length ≤ 240 ∧
    off + data.length ≤ 512 ∧ mbxBusy (mbxOf s 63) = false :=
  ⟨State.reset, 511, [1], by
    repeat' apply And.intro
    all_goals first | rfl | decide | exact Or.inl rfl | exact Or.inr rfl | (unfold JobFree; decide) | omega | simp⟩

theorem witness_SmbusMailboxCommands_2 : ∃ (s : State), s.ghx.smbNack = false ∧ s.ghx.smbStretch = false ∧
    (((mbxOf s 63).holder = 0 ∨ (mbxOf s 63).holder = 2)) ∧ mbxBusy (mbxOf s 63) = false :=
  ⟨inSt 63 { holder := 2 }, by
    repeat' apply And.intro
    all_goals first | rfl | decide | exact Or.inl rfl | exact Or.inr rfl | (unfold JobFree; decide) | omega | simp⟩

theorem witness_SmbusMailboxCommands_3 : ∃ (s : State), s.ghx.smbNack = false ∧ s.ghx.smbStretch = false ∧
    (((mbxOf s 63).holder = 0 ∨ (mbxOf s 63).holder = 2)) ∧ (mbxOf s 63).state = .running :=
  ⟨inSt 63 { holder := 2, state := .running }, by
    repeat' apply And.intro
    all_goals first | rfl | decide | exact Or.inl rfl | exact Or.inr rfl | (unfold JobFree; decide) | omega | simp⟩

theorem witness_SmbusMailboxCommands_4 : ∃ (s : State), s.ghx.smbNack = false ∧ s.ghx.smbStretch = false ∧
    (((mbxOf s 63).holder = 0 ∨ (mbxOf s 63).holder = 2)) ∧ (mbxOf s 63).state = .done :=
  ⟨inSt 63 { holder := 2, state := .done }, by
    repeat' apply And.intro
    all_goals first | rfl | decide | exact Or.inl rfl | exact Or.inr rfl | (unfold JobFree; decide) | omega | simp⟩

theorem witness_SmbusMailboxCommands_5 : ∃ (s : State) (_off : Nat), s.ghx.smbNack = false ∧ s.ghx.smbStretch = false ∧
    (((mbxOf s 63).holder = 0 ∨ (mbxOf s 63).holder = 2)) :=
  ⟨State.reset, 447, by
    repeat' apply And.intro
    all_goals first | rfl | decide | exact Or.inl rfl | exact Or.inr rfl | (unfold JobFree; decide) | omega | simp⟩

theorem witness_SmbusMailboxCommands_6 : ∃ (s : State) (count : Nat), s.ghx.smbNack = false ∧ s.ghx.smbStretch = false ∧
    (((mbxOf s 63).holder = 0 ∨ (mbxOf s 63).holder = 2)) ∧ count ≤ 240 ∧ s.kiosk.smbOff.toNat + count ≤ 448 :=
  ⟨{ State.reset with kiosk := { State.reset.kiosk with smbOff := 208 } }, 240, by
    repeat' apply And.intro
    all_goals first | rfl | decide | exact Or.inl rfl | exact Or.inr rfl | (unfold JobFree; decide) | omega | simp⟩

theorem witness_SmbusMailboxCommands_7 : ∃ (s : State) (_off : Nat) (_count : Nat) (_data : Bytes), s.ghx.smbNack = false ∧
    s.ghx.smbStretch = false ∧ (((mbxOf s 63).holder = 0 ∨ (mbxOf s 63).holder = 2)) :=
  ⟨State.reset, 511, 1, [1], by
    repeat' apply And.intro
    all_goals first | rfl | decide | exact Or.inl rfl | exact Or.inr rfl | (unfold JobFree; decide) | omega | simp⟩

theorem witness_SmbusMailboxCommands_8 : ∃ (s : State), s.ghx.smbNack = false ∧ s.ghx.smbStretch = false :=
  ⟨State.reset, by
    repeat' apply And.intro
    all_goals first | rfl | decide | exact Or.inl rfl | exact Or.inr rfl | (unfold JobFree; decide) | omega | simp⟩

theorem witness_KioskBooksExpire_1 : ∃ (_k : Nat) (s : State), Tab.wf s.kiosk.nonces = true :=
  ⟨3, { State.reset with kiosk := { State.reset.kiosk with nonces := [(3, zeros 32)] } }, by
    repeat' apply And.intro
    all_goals first | rfl | decide | exact Or.inl rfl | exact Or.inr rfl | (unfold JobFree; decide) | omega | simp⟩

theorem witness_StatusReportsOfTheHead_1 : ∃ (n : Fin 64) (s : State) (msg : BMsg), Taken s n 0x0100 [] msg :=
  ⟨0, rq 0x0100 [], bm 0x0100 [], by
    repeat' apply And.intro
    all_goals first | rfl | decide | exact Or.inl rfl | exact Or.inr rfl | (unfold JobFree; decide) | omega | simp⟩

theorem witness_StatusReportsOfTheHead_2 : ∃ (n : Fin 64) (s : State) (msg : BMsg), Taken s n 0x0101 [] msg :=
  ⟨0, rq 0x0101 [], bm 0x0101 [], by
    repeat' apply And.intro
    all_goals first | rfl | decide | exact Or.inl rfl | exact Or.inr rfl | (unfold JobFree; decide) | omega | simp⟩

theorem witness_StatusReportsOfTheHead_3 : ∃ (n : Fin 64) (s : State) (msg : BMsg), Taken s n 0x0302 [] msg :=
  ⟨0, rq 0x0302 [], bm 0x0302 [], by
    repeat' apply And.intro
    all_goals first | rfl | decide | exact Or.inl rfl | exact Or.inr rfl | (unfold JobFree; decide) | omega | simp⟩

theorem witness_StatusReportsOfTheHead_4 : ∃ (n : Fin 64) (s : State) (msg : BMsg), Taken s n 0x0901 [] msg :=
  ⟨0, rq 0x0901 [], bm 0x0901 [], by
    repeat' apply And.intro
    all_goals first | rfl | decide | exact Or.inl rfl | exact Or.inr rfl | (unfold JobFree; decide) | omega | simp⟩

theorem witness_StatusReportsOfTheHead_5 : ∃ (n : Fin 64) (s : State) (msg : BMsg), Taken s n 0x0700 [] msg :=
  ⟨0, rq 0x0700 [], bm 0x0700 [], by
    repeat' apply And.intro
    all_goals first | rfl | decide | exact Or.inl rfl | exact Or.inr rfl | (unfold JobFree; decide) | omega | simp⟩

theorem witness_StatusReportsOfTheHead_6 : ∃ (n : Fin 64) (s : State) (msg : BMsg), Taken s n 0x0B00 [] msg :=
  ⟨0, rq 0x0B00 [], bm 0x0B00 [], by
    repeat' apply And.intro
    all_goals first | rfl | decide | exact Or.inl rfl | exact Or.inr rfl | (unfold JobFree; decide) | omega | simp⟩

theorem witness_StatusReportsOfTheHead_7 : ∃ (n : Fin 64) (s : State) (ch : Fin 24) (msg : BMsg),
    Taken s n 0x0600 [BitVec.ofNat 8 ch] msg :=
  ⟨0, rq 0x0600 [23], 23, bm 0x0600 [23], by
    repeat' apply And.intro
    all_goals first | rfl | decide | exact Or.inl rfl | exact Or.inr rfl | (unfold JobFree; decide) | omega | simp⟩

theorem witness_StatusReportsOfTheHead_8 : ∃ (n : Fin 64) (s : State) (p : Bytes) (msg : BMsg), Taken s n 0x0810 p msg ∧
    p.length = 4 ∧ 0 < fieldLE p 2 2 ∧ fieldLE p 2 2 ≤ 32 ∧ fieldLE p 0 2 + fieldLE p 2 2 ≤ 4096 :=
  ⟨0, rq 0x0810 [0xE0, 0x0F, 32, 0], [0xE0, 0x0F, 32, 0], bm 0x0810 [0xE0, 0x0F, 32, 0], by
    repeat' apply And.intro
    all_goals first | rfl | decide | exact Or.inl rfl | exact Or.inr rfl | (unfold JobFree; decide) | omega | simp⟩

theorem witness_ListsAndJobReports_1 : ∃ (n : Fin 64) (s : State) (p : Bytes) (msg : BMsg) (k : Nat) (j : Job),
    Taken s n 0x0102 p msg ∧ p.length = 4 ∧ s.kiosk.jobs.find? (fun e => decide (jobNo e.1 = fieldLE p 0 4)) = some (k, j) ∧
    j.finished = false :=
  ⟨0,
    rq 0x0102 (leN 4 (jobNo 7)) { State.reset with kiosk := { State.reset.kiosk with jobs := [(7, { opcode := 0x0411 })] } },
    leN 4 (jobNo 7), bm 0x0102 (leN 4 (jobNo 7)), 7, { opcode := 0x0411 }, by
    exact ⟨⟨rfl, rfl, rfl, rfl, rfl, rfl, rfl⟩, rfl, witness_find 7 _, rfl⟩⟩

theorem witness_ListsAndJobReports_2 : ∃ (n : Fin 64) (s : State) (p : Bytes) (msg : BMsg) (k : Nat) (j : Job),
    Taken s n 0x0102 p msg ∧ p.length = 4 ∧ s.kiosk.jobs.find? (fun e => decide (jobNo e.1 = fieldLE p 0 4)) = some (k, j) ∧
    j.finished = true :=
  ⟨0,
    rq 0x0102 (leN 4 (jobNo 7)) { State.reset with kiosk := { State.reset.kiosk with jobs := [(7, { opcode := 0x0411, finished := true })] } },
    leN 4 (jobNo 7), bm 0x0102 (leN 4 (jobNo 7)), 7, { opcode := 0x0411, finished := true }, by
    exact ⟨⟨rfl, rfl, rfl, rfl, rfl, rfl, rfl⟩, rfl, witness_find 7 _, rfl⟩⟩

theorem witness_ListsAndJobReports_3 : ∃ (n : Fin 64) (s : State) (p : Bytes) (msg : BMsg), Taken s n 0x0120 p msg ∧
    layoutIs 4 [(1, 1)] p = true ∧ fieldLE p 0 1 ≤ 7 :=
  ⟨0, rq 0x0120 [7, 0, 0, 0], [7, 0, 0, 0], bm 0x0120 [7, 0, 0, 0], by
    repeat' apply And.intro
    all_goals first | rfl | decide | exact Or.inl rfl | exact Or.inr rfl | (unfold JobFree; decide) | omega | simp⟩

theorem witness_ListsAndJobReports_4 : ∃ (n : Fin 64) (s : State) (p : Bytes) (msg : BMsg), Taken s n 0x0203 p msg ∧
    p.length = 4 :=
  ⟨0, rq 0x0203 [0, 0, 0, 0], [0, 0, 0, 0], bm 0x0203 [0, 0, 0, 0], by
    repeat' apply And.intro
    all_goals first | rfl | decide | exact Or.inl rfl | exact Or.inr rfl | (unfold JobFree; decide) | omega | simp⟩

theorem witness_ListsAndJobReports_5 : ∃ (n : Fin 64) (s : State) (g : Fin 32) (msg : BMsg), Taken s n 0x0401 (leN 4 g) msg :=
  ⟨0, rq 0x0401 (leN 4 31), 31, bm 0x0401 (leN 4 31), by
    repeat' apply And.intro
    all_goals first | rfl | decide | exact Or.inl rfl | exact Or.inr rfl | (unfold JobFree; decide) | omega | simp⟩

theorem witness_ListsAndJobReports_6 : ∃ (n : Fin 64) (s : State) (g : Fin 32) (msg : BMsg), Taken s n 0x0500 (leN 4 g) msg :=
  ⟨0, rq 0x0500 (leN 4 31), 31, bm 0x0500 (leN 4 31), by
    repeat' apply And.intro
    all_goals first | rfl | decide | exact Or.inl rfl | exact Or.inr rfl | (unfold JobFree; decide) | omega | simp⟩

theorem witness_ListsAndJobReports_7 : ∃ (n : Fin 64) (s : State) (p : Bytes) (msg : BMsg) (c : Nat), Taken s n 0x0A01 p msg ∧
    p.length = 8 ∧ connOf s (fieldLE p 0 8) = some c :=
  ⟨0, rq 0x0A01 (leN 8 5) (setQp 9 { st := .open_, queueId := 5 } State.reset), leN 8 5, bm 0x0A01 (leN 8 5), 9, by
    repeat' apply And.intro
    all_goals first | rfl | decide | exact Or.inl rfl | exact Or.inr rfl | (unfold JobFree; decide) | omega | simp⟩

theorem witness_ListsAndJobReports_8 : ∃ (n : Fin 64) (s : State) (p : Bytes) (msg : BMsg), Taken s n 0x0C02 p msg ∧
    p.length = 6 ∧ fieldLE p 0 4 < 65536 ∧ volLives s (fieldLE p 0 4) = true :=
  ⟨0, rq 0x0C02 (leN 4 3 ++ [0, 0]) (wVol 3), leN 4 3 ++ [0, 0], bm 0x0C02 (leN 4 3 ++ [0, 0]), by
    repeat' apply And.intro
    all_goals first | rfl | decide | exact Or.inl rfl | exact Or.inr rfl | (unfold JobFree; decide) | omega | simp⟩

theorem witness_ListsAndJobReports_9 : ∃ (n : Fin 64) (s : State) (p : Bytes) (msg : BMsg) (r : ReplRec),
    Taken s n 0x0C04 p msg ∧ p.length = 2 ∧ tget s.pair.arr.rels (fieldLE p 0 2) = some r :=
  ⟨0, rq 0x0C04 [4, 0] (wRel 4 wRec), [4, 0], bm 0x0C04 [4, 0], wRec, by
    repeat' apply And.intro
    all_goals first | rfl | decide | exact Or.inl rfl | exact Or.inr rfl | (unfold JobFree; decide) | omega | simp⟩

theorem witness_ListsAndJobReports_10 : ∃ (n : Fin 64) (s : State) (p : Bytes) (msg : BMsg), Taken s n 0x0900 p msg ∧
    layoutIs 12 [(7, 1), (10, 2)] p = true ∧ 0 < fieldLE p 4 1 ∧ fieldLE p 6 1 ≤ 2 :=
  ⟨0, rq 0x0900 (zeros 4 ++ [1] ++ zeros 1 ++ [2] ++ zeros 5), zeros 4 ++ [1] ++ zeros 1 ++ [2] ++ zeros 5,
    bm 0x0900 (zeros 4 ++ [1] ++ zeros 1 ++ [2] ++ zeros 5), by
    repeat' apply And.intro
    all_goals first | rfl | decide | exact Or.inl rfl | exact Or.inr rfl | (unfold JobFree; decide) | omega | simp⟩

theorem witness_VolumeCommands_1 : ∃ (n : Fin 64) (s : State) (p : Bytes) (msg : BMsg) (v : Nat) (pref : Role),
    Taken s n 0x0200 p msg ∧ layoutIs 32 [(17, 15)] p = true ∧ ((fieldLE p 0 4 ≤ 65535 ∨ fieldLE p 0 4 = 0xFFFFFFFF)) ∧
    thas s.pair.arr.volumes (fieldLE p 0 4) = false ∧ fieldLE p 8 8 % 8 = 0 ∧ 8 ≤ fieldLE p 8 8 ∧ fieldLE p 8 8 ≤ 2 ^ 42 ∧
    fieldLE p 16 1 ≤ 1 ∧ thas s.pair.arr.domains (fieldLE p 4 4) = true ∧ s.pair.arr.volumes.length < 65536 ∧
    v = (if fieldLE p 0 4 = 0xFFFFFFFF then tfree s.pair.arr.volumes 0 65536 else fieldLE p 0 4) ∧
    pref = (if fieldLE p 16 1 = 0 then .a else .b) :=
  ⟨0,
    rq 0x0200 (leN 4 65535 ++ leN 4 1 ++ leN 8 (2 ^ 42) ++ [1] ++ zeros 15) { State.reset with pair := { arr := { domains := [(1, wDom)] } } },
    leN 4 65535 ++ leN 4 1 ++ leN 8 (2 ^ 42) ++ [1] ++ zeros 15,
    bm 0x0200 (leN 4 65535 ++ leN 4 1 ++ leN 8 (2 ^ 42) ++ [1] ++ zeros 15), 65535, .b, by
    repeat' apply And.intro
    all_goals first | rfl | decide | exact Or.inl rfl | exact Or.inr rfl | (unfold JobFree; decide) | omega | simp⟩

theorem witness_VolumeCommands_2 : ∃ (n : Fin 64) (s : State) (p : Bytes) (msg : BMsg) (v : Nat), Taken s n 0x0201 p msg ∧
    layoutIs 8 [(5, 3)] p = true ∧ fieldLE p 0 4 = v ∧ fieldLE p 4 1 ≤ 1 ∧ volLives s v = true ∧ ownsVol s v = true ∧
    inRelation s v = false ∧ ((fieldLE p 4 1 = 0 → s.rep.snaps.any (fun e => decide (e.1 / 8192 = v)) = false)) ∧
    volPending s v true = false ∧ JobFree s :=
  ⟨0, rq 0x0201 (leN 4 3 ++ [1] ++ zeros 3) (wVol 3), leN 4 3 ++ [1] ++ zeros 3, bm 0x0201 (leN 4 3 ++ [1] ++ zeros 3), 3, by
    repeat' apply And.intro
    all_goals first | rfl | decide | exact Or.inl rfl | exact Or.inr rfl | (unfold JobFree; decide) | omega | simp⟩

theorem witness_VolumeCommands_3 : ∃ (n : Fin 64) (s : State) (p : Bytes) (msg : BMsg) (v : Nat) (r : VolRec),
    Taken s n 0x0202 p msg ∧ layoutIs 16 [(5, 3)] p = true ∧ fieldLE p 0 4 = v ∧ fieldLE p 4 1 ≤ 3 ∧ fieldLE p 8 8 % 8 = 0 ∧
    8 ≤ fieldLE p 8 8 ∧ fieldLE p 8 8 ≤ 2 ^ 42 ∧ tget s.pair.arr.volumes v = some r ∧ volLives s v = true ∧
    ownsVol s v = true ∧ r.blocks ≤ fieldLE p 8 8 :=
  ⟨0, rq 0x0202 (leN 4 3 ++ zeros 4 ++ leN 8 16) (wVol 3), leN 4 3 ++ zeros 4 ++ leN 8 16,
    bm 0x0202 (leN 4 3 ++ zeros 4 ++ leN 8 16), 3, wVRec, by
    repeat' apply And.intro
    all_goals first | rfl | decide | exact Or.inl rfl | exact Or.inr rfl | (unfold JobFree; decide) | omega | simp⟩

theorem witness_VolumeCommands_4 : ∃ (n : Fin 64) (s : State) (p : Bytes) (msg : BMsg) (v : Nat) (r : VolRec),
    Taken s n 0x0202 p msg ∧ layoutIs 16 [(5, 3)] p = true ∧ fieldLE p 0 4 = v ∧ fieldLE p 4 1 ≤ 3 ∧ fieldLE p 8 8 % 8 = 0 ∧
    8 ≤ fieldLE p 8 8 ∧ fieldLE p 8 8 ≤ 2 ^ 42 ∧ tget s.pair.arr.volumes v = some r ∧ volLives s v = true ∧
    ownsVol s v = true ∧ fieldLE p 8 8 < r.blocks ∧ (fieldLE p 4 1).testBit 0 = true ∧ JobFree s :=
  ⟨0, rq 0x0202 (leN 4 3 ++ [1, 0, 0, 0] ++ leN 8 8) (wVol 3), leN 4 3 ++ [1, 0, 0, 0] ++ leN 8 8, bm 0x0202 (leN 4 3 ++ [1,
    0, 0, 0] ++ leN 8 8), 3, wVRec, by
    repeat' apply And.intro
    all_goals first | rfl | decide | exact Or.inl rfl | exact Or.inr rfl | (unfold JobFree; decide) | omega | simp⟩

theorem witness_DomainCommands_1 : ∃ (n : Fin 64) (s : State) (p : Bytes) (msg : BMsg) (mine : Bytes) (k : Nat) (d : Nat),
    Taken s n 0x0210 p msg ∧ domCreateLayout p = true ∧ ((fieldLE p 0 4 ≤ 1023 ∨ fieldLE p 0 4 = 0xFFFFFFFF)) ∧
    thas s.pair.arr.domains (fieldLE p 0 4) = false ∧
    d = (if fieldLE p 0 4 = 0xFFFFFFFF then tfree s.pair.arr.domains 0 1024 else fieldLE p 0 4) ∧ fieldLE p 4 1 ≤ 3 ∧
    0 < fieldLE p 8 2 ∧ fieldLE p 8 2 ≤ 240 ∧ 0 < fieldLE p 10 2 ∧ fieldLE p 10 2 ≤ 240 ∧ s.sec.rngHalted = false ∧
    s.pair.arr.domains.length < 1024 ∧ freePair s = some k ∧
    mine = (if keyRole s = some .b then bslice p (16 + fieldLE p 8 2) (fieldLE p 10 2) else bslice p 16 (fieldLE p 8 2)) ∧
    fieldLE mine 2 1 = 1 ∧ fieldLE mine 6 2 = d :=
  ⟨0, rq 0x0210 wDomReq, wDomReq, bm 0x0210 wDomReq, wBlob, 0, 7, by exact ⟨⟨rfl, rfl, rfl, rfl, rfl, rfl, rfl⟩, by decide,
    by decide, rfl, rfl, by decide, by decide, by decide, by decide, by decide, rfl, by decide, witness_freePair _ rfl, rfl,
    by decide, by decide⟩⟩

theorem witness_DomainCommands_2 : ∃ (n : Fin 64) (s : State) (p : Bytes) (msg : BMsg) (mine : Bytes) (k : Nat) (d : Nat) (e : _),
    Taken s n 0x0210 p msg ∧ domCreateLayout p = true ∧ ((fieldLE p 0 4 ≤ 1023 ∨ fieldLE p 0 4 = 0xFFFFFFFF)) ∧
    thas s.pair.arr.domains (fieldLE p 0 4) = false ∧
    d = (if fieldLE p 0 4 = 0xFFFFFFFF then tfree s.pair.arr.domains 0 1024 else fieldLE p 0 4) ∧ fieldLE p 4 1 ≤ 3 ∧
    0 < fieldLE p 8 2 ∧ fieldLE p 8 2 ≤ 240 ∧ 0 < fieldLE p 10 2 ∧ fieldLE p 10 2 ≤ 240 ∧ s.sec.rngHalted = false ∧
    s.pair.arr.domains.length < 1024 ∧ freePair s = some k ∧
    mine = (if keyRole s = some .b then bslice p (16 + fieldLE p 8 2) (fieldLE p 10 2) else bslice p 16 (fieldLE p 8 2)) ∧
    fieldLE mine 2 1 = 1 ∧ fieldLE mine 6 2 = d ∧ e ≠ d :=
  ⟨0, rq 0x0210 wDomReq, wDomReq, bm 0x0210 wDomReq, wBlob, 0, 7, 5, by exact ⟨⟨rfl, rfl, rfl, rfl, rfl, rfl, rfl⟩, by decide,
    by decide, rfl, rfl, by decide, by decide, by decide, by decide, by decide, rfl, by decide, witness_freePair _ rfl, rfl,
    by decide, by decide, by decide⟩⟩

theorem witness_DomainCommands_3 : ∃ (n : Fin 64) (s : State) (p : Bytes) (msg : BMsg) (v : DomRec), Taken s n 0x0211 p msg ∧
    layoutIs 16 [(6, 2), (12, 4)] p = true ∧ fieldLE p 0 4 ≠ 0xFFFFFFFF ∧ fieldLE p 4 1 = 1 ∧ fieldLE p 5 1 ≤ 3 ∧
    fieldLE p 8 4 = 0 ∧ tget s.pair.arr.domains (fieldLE p 0 4) = some v :=
  ⟨0, rq 0x0211 (leN 4 1 ++ [1, 3] ++ zeros 10) { State.reset with pair := { arr := { domains := [(1, wDom)] } } },
    leN 4 1 ++ [1, 3] ++ zeros 10, bm 0x0211 (leN 4 1 ++ [1, 3] ++ zeros 10), wDom, by
    repeat' apply And.intro
    all_goals first | rfl | decide | exact Or.inl rfl | exact Or.inr rfl | (unfold JobFree; decide) | omega | simp⟩

theorem witness_DomainCommands_4 : ∃ (n : Fin 64) (s : State) (p : Bytes) (msg : BMsg) (v : DomRec), Taken s n 0x0212 p msg ∧
    layoutIs 8 [(5, 3)] p = true ∧ fieldLE p 4 1 ≤ 1 ∧ tget s.pair.arr.domains (fieldLE p 0 4) = some v :=
  ⟨0, rq 0x0212 (leN 4 1 ++ [1] ++ zeros 3) { State.reset with pair := { arr := { domains := [(1, wDom)] } } },
    leN 4 1 ++ [1] ++ zeros 3, bm 0x0212 (leN 4 1 ++ [1] ++ zeros 3), wDom, by
    repeat' apply And.intro
    all_goals first | rfl | decide | exact Or.inl rfl | exact Or.inr rfl | (unfold JobFree; decide) | omega | simp⟩

theorem witness_PoliciesTakeTheValuesAsked_1 : ∃ (n : Fin 64) (s : State) (p : Bytes) (msg : BMsg), Taken s n 0x0300 p msg ∧
    layoutIs 16 [(5, 11)] p = true ∧ minBudget s s.pair.arr.home ≤ fieldLE p 0 4 ∧ 10 ≤ fieldLE p 4 1 ∧ fieldLE p 4 1 ≤ 90 :=
  ⟨0, rq 0x0300 (leN 4 500 ++ [10] ++ zeros 11), leN 4 500 ++ [10] ++ zeros 11, bm 0x0300 (leN 4 500 ++ [10] ++ zeros 11), by
    repeat' apply And.intro
    all_goals first | rfl | decide | exact Or.inl rfl | exact Or.inr rfl | (unfold JobFree; decide) | omega | simp⟩

theorem witness_PoliciesTakeTheValuesAsked_2 : ∃ (n : Fin 64) (s : State) (p : Bytes) (msg : BMsg), Taken s n 0x0400 p msg ∧
    layoutIs 32 [(24, 8)] p = true ∧ fieldLE p 0 1 = 1 ∧ (byteAt p 1).toNat < 2 ∧ within 10 3600 (fieldLE p 2 2) = true ∧
    within 0 3600 (fieldLE p 4 2) = true ∧ within 0 5000 (fieldLE p 6 2) = true ∧ within 5 300 (fieldLE p 8 2) = true ∧
    within 1 720 (fieldLE p 10 2) = true ∧ within 0 4096 (fieldLE p 12 4) = true ∧ within 7 365 (fieldLE p 16 2) = true ∧
    within 50 98 (fieldLE p 18 1) = true ∧ within 0 80 (fieldLE p 19 1) = true ∧ within 1 255 (fieldLE p 20 1) = true ∧
    within 0 10 (fieldLE p 21 1) = true ∧ within 64 16384 (fieldLE p 22 2) = true :=
  ⟨0, rq 0x0400 ([1, 1] ++ leN 2 10 ++ leN 2 3600 ++ leN 2 0 ++ leN 2 300 ++ leN 2 720 ++ leN 4 4096 ++ leN 2 7 ++ [98, 0, 1,
    10] ++ leN 2 64 ++ zeros 8), [1,
    1] ++ leN 2 10 ++ leN 2 3600 ++ leN 2 0 ++ leN 2 300 ++ leN 2 720 ++ leN 4 4096 ++ leN 2 7 ++ [98, 0, 1,
    10] ++ leN 2 64 ++ zeros 8, bm 0x0400 ([1,
    1] ++ leN 2 10 ++ leN 2 3600 ++ leN 2 0 ++ leN 2 300 ++ leN 2 720 ++ leN 4 4096 ++ leN 2 7 ++ [98, 0, 1,
    10] ++ leN 2 64 ++ zeros 8), by
    repeat' apply And.intro
    all_goals first | rfl | decide | exact Or.inl rfl | exact Or.inr rfl | (unfold JobFree; decide) | omega | simp⟩

theorem witness_PoliciesTakeTheValuesAsked_3 : ∃ (n : Fin 64) (s : State) (p : Bytes) (msg : BMsg), Taken s n 0x0501 p msg ∧
    p.length = 16 ∧ fieldLE p 0 1 = 1 ∧ within 1 10 (fieldLE p 1 1) = true ∧ within 2 20 (fieldLE p 2 1) = true ∧
    fieldLE p 1 1 ≤ fieldLE p 2 1 ∧ within 10 50 (fieldLE p 3 1) = true ∧ within 30 80 (fieldLE p 4 1) = true ∧
    fieldLE p 3 1 < fieldLE p 4 1 ∧ within 10 60 (fieldLE p 5 1) = true ∧ within 20 1000 (fieldLE p 6 2) = true ∧
    within 1000 100000 (fieldLE p 8 4) = true ∧ ((fieldLE p 12 4 = 0 ∨ within 16 (mapCacheMax s) (fieldLE p 12 4) = true)) :=
  ⟨0, rq 0x0501 ([1, 2, 2, 29, 30, 60] ++ leN 2 20 ++ leN 4 100000 ++ zeros 4), [1, 2, 2, 29, 30,
    60] ++ leN 2 20 ++ leN 4 100000 ++ zeros 4, bm 0x0501 ([1, 2, 2, 29, 30, 60] ++ leN 2 20 ++ leN 4 100000 ++ zeros 4), by
    repeat' apply And.intro
    all_goals first | rfl | decide | exact Or.inl rfl | exact Or.inr rfl | (unfold JobFree; decide) | omega | simp⟩

theorem witness_PoliciesTakeTheValuesAsked_4 : ∃ (n : Fin 64) (s : State) (p : Bytes) (msg : BMsg), Taken s n 0x0612 p msg ∧
    layoutIs 8 [(1, 3)] p = true ∧ fieldLE p 0 1 < 16 ∧ fieldLE p 0 1 ≠ 1 ∧ fieldLE p 0 1 ≠ 4 ∧ fieldLE p 0 1 ≠ 5 ∧
    ((fieldLE p 4 4 = 0 ∨ 1000 ≤ fieldLE p 4 4 ∧ fieldLE p 4 4 ≤ 1000000)) :=
  ⟨0, rq 0x0612 ([15] ++ zeros 3 ++ leN 4 1000000), [15] ++ zeros 3 ++ leN 4 1000000,
    bm 0x0612 ([15] ++ zeros 3 ++ leN 4 1000000), by
    repeat' apply And.intro
    all_goals first | rfl | decide | exact Or.inl rfl | exact Or.inr rfl | (unfold JobFree; decide) | omega | simp⟩

theorem witness_PoliciesTakeTheValuesAsked_5 : ∃ (n : Fin 64) (s : State) (p : Bytes) (msg : BMsg), Taken s n 0x0A11 p msg ∧
    creditSetLayout p = true ∧ fieldLE p 0 1 = 0 :=
  ⟨0, rq 0x0A11 ([0, 255] ++ zeros 14), [0, 255] ++ zeros 14, bm 0x0A11 ([0, 255] ++ zeros 14), by
    repeat' apply And.intro
    all_goals first | rfl | decide | exact Or.inl rfl | exact Or.inr rfl | (unfold JobFree; decide) | omega | simp⟩

theorem witness_PoliciesTakeTheValuesAsked_6 : ∃ (n : Fin 64) (s : State) (p : Bytes) (msg : BMsg) (c : _) (w : _),
    Taken s n 0x0A11 p msg ∧ creditSetLayout p = true ∧ fieldLE p 0 1 ≠ 0 ∧ connOf s (fieldLE p 8 8) = some c ∧
    (qpOf s c).plain = false ∧ w = (if fieldLE p 1 1 = 0 then 256 else fieldLE p 1 1) :=
  ⟨0, rq 0x0A11 ([1,
    0] ++ zeros 6 ++ leN 8 5) { State.reset with lat := { qps := [(7, { st := .open_, queueId := 5 })], queues := [(5, { qpn := some 7, pd := 0 })] } },
    [1, 0] ++ zeros 6 ++ leN 8 5, bm 0x0A11 ([1, 0] ++ zeros 6 ++ leN 8 5), 7, 256, by
    repeat' apply And.intro
    all_goals first | rfl | decide | exact Or.inl rfl | exact Or.inr rfl | (unfold JobFree; decide) | omega | simp⟩

theorem witness_PoliciesTakeTheValuesAsked_7 : ∃ (n : Fin 64) (s : State) (p : Bytes) (msg : BMsg), Taken s n 0x0A02 p msg ∧
    pdConfigLayout p = true ∧ (fieldLE p 2 1).testBit 7 = false :=
  ⟨0, rq 0x0A02 (leN 2 4095 ++ [3, 1] ++ zeros 12 ++ leN 4 0 ++ leN 4 65535), leN 2 4095 ++ [3,
    1] ++ zeros 12 ++ leN 4 0 ++ leN 4 65535, bm 0x0A02 (leN 2 4095 ++ [3, 1] ++ zeros 12 ++ leN 4 0 ++ leN 4 65535), by
    repeat' apply And.intro
    all_goals first | rfl | decide | exact Or.inl rfl | exact Or.inr rfl | (unfold JobFree; decide) | omega | simp⟩

theorem witness_PoliciesTakeTheValuesAsked_8 : ∃ (n : Fin 64) (s : State) (p : Bytes) (msg : BMsg), Taken s n 0x0A02 p msg ∧
    pdConfigLayout p = true ∧ (fieldLE p 2 1).testBit 7 = true ∧
    (tvals s.lat.qps).any (fun q => decide (q.pd = fieldLE p 0 2 ∧ q.st ≠ .free)) = false :=
  ⟨0, rq 0x0A02 (leN 2 4095 ++ [0x83, 1] ++ zeros 12 ++ leN 4 0 ++ leN 4 65535), leN 2 4095 ++ [0x83,
    1] ++ zeros 12 ++ leN 4 0 ++ leN 4 65535, bm 0x0A02 (leN 2 4095 ++ [0x83, 1] ++ zeros 12 ++ leN 4 0 ++ leN 4 65535), by
    repeat' apply And.intro
    all_goals first | rfl | decide | exact Or.inl rfl | exact Or.inr rfl | (unfold JobFree; decide) | omega | simp⟩

theorem witness_PoliciesTakeTheValuesAsked_9 : ∃ (n : Fin 64) (s : State) (p : Bytes) (msg : BMsg), Taken s n 0x0B11 p msg ∧
    p.length = 20 ∧ 0 < fieldLE p 0 4 ∧ fieldLE p 0 4 ≤ 30 ∧ s.pair.named.contains (bslice p 4 16) = false :=
  ⟨0, rq 0x0B11 (leN 4 30 ++ leN 16 7), leN 4 30 ++ leN 16 7, bm 0x0B11 (leN 4 30 ++ leN 16 7), by
    repeat' apply And.intro
    all_goals first | rfl | decide | exact Or.inl rfl | exact Or.inr rfl | (unfold JobFree; decide) | omega | simp⟩

theorem witness_PoliciesTakeTheValuesAsked_10 : ∃ (n : Fin 64) (s : State) (p : Bytes) (msg : BMsg) (e : _),
    Taken s n 0x0B11 p msg ∧ p.length = 20 ∧ fieldLE p 0 4 = 0 ∧ s.pair.window = some (bslice p 4 16, e) :=
  ⟨0, rq 0x0B11 (zeros 4 ++ leN 16 7) { State.reset with pair := { window := some (leN 16 7, 5) } }, zeros 4 ++ leN 16 7,
    bm 0x0B11 (zeros 4 ++ leN 16 7), 5, by
    repeat' apply And.intro
    all_goals first | rfl | decide | exact Or.inl rfl | exact Or.inr rfl | (unfold JobFree; decide) | omega | simp⟩

theorem witness_SystemAndPowerCommands_1 : ∃ (n : Fin 64) (s : State) (msg : BMsg), Taken s n 0x0105 [0, 0, 0, 0] msg :=
  ⟨0, rq 0x0105 [0, 0, 0, 0], bm 0x0105 [0, 0, 0, 0], by
    repeat' apply And.intro
    all_goals first | rfl | decide | exact Or.inl rfl | exact Or.inr rfl | (unfold JobFree; decide) | omega | simp⟩

theorem witness_SystemAndPowerCommands_2 : ∃ (n : Fin 64) (s : State) (msg : BMsg), Taken s n 0x0105 [1, 0, 0, 0] msg ∧
    s.pair.state = 3 ∧ s.pair.handover = none ∧ JobFree s :=
  ⟨0, rq 0x0105 [1, 0, 0, 0] { State.reset with pair := { state := 3 } }, bm 0x0105 [1, 0, 0, 0], by
    repeat' apply And.intro
    all_goals first | rfl | decide | exact Or.inl rfl | exact Or.inr rfl | (unfold JobFree; decide) | omega | simp⟩

theorem witness_SystemAndPowerCommands_3 : ∃ (n : Fin 64) (s : State) (t : Fin 3) (msg : BMsg),
    Taken s n 0x0310 [BitVec.ofNat 8 t, 0, 0, 0] msg ∧ s.ghx.trans = .none ∧ JobFree s ∧ s.gh.state = .serve ∧ t.val = 0 :=
  ⟨0, rq 0x0310 [0, 0, 0, 0] wSrv, 0, bm 0x0310 [0, 0, 0, 0], by
    repeat' apply And.intro
    all_goals first | rfl | decide | exact Or.inl rfl | exact Or.inr rfl | (unfold JobFree; decide) | omega | simp⟩

theorem witness_SystemAndPowerCommands_4 : ∃ (n : Fin 64) (s : State) (t : Fin 3) (msg : BMsg),
    Taken s n 0x0310 [BitVec.ofNat 8 t, 0, 0, 0] msg ∧ s.ghx.trans = .none ∧ JobFree s ∧ s.gh.state = .serve ∧ t.val ≠ 0 ∧
    sleepRefused s = none :=
  ⟨0, rq 0x0310 [2, 0, 0, 0] { wSrv with pair := { state := 3 } }, 2, bm 0x0310 [2, 0, 0, 0], by
    repeat' apply And.intro
    all_goals first | rfl | decide | exact Or.inl rfl | exact Or.inr rfl | (unfold JobFree; decide) | omega | simp⟩

theorem witness_SystemAndPowerCommands_5 : ∃ (n : Fin 64) (s : State) (t : Fin 3) (msg : BMsg),
    Taken s n 0x0310 [BitVec.ofNat 8 t, 0, 0, 0] msg ∧ s.ghx.trans = .none ∧ JobFree s ∧ s.gh.state = .watch ∧ t.val = 2 ∧
    dormantRefused s = none :=
  ⟨0, rq 0x0310 [2, 0, 0, 0] { State.reset with gh := { state := .watch } }, 2, bm 0x0310 [2, 0, 0, 0], by
    repeat' apply And.intro
    all_goals first | rfl | decide | exact Or.inl rfl | exact Or.inr rfl | (unfold JobFree; decide) | omega | simp⟩

theorem witness_SystemAndPowerCommands_6 : ∃ (n : Fin 64) (s : State) (t : Fin 3) (msg : BMsg),
    Taken s n 0x0310 [BitVec.ofNat 8 t, 0, 0, 0] msg ∧ s.ghx.trans = .none ∧ JobFree s ∧ s.gh.state = .watch ∧ t.val = 1 :=
  ⟨0, rq 0x0310 [1, 0, 0, 0] { State.reset with gh := { state := .watch } }, 1, bm 0x0310 [1, 0, 0, 0], by
    repeat' apply And.intro
    all_goals first | rfl | decide | exact Or.inl rfl | exact Or.inr rfl | (unfold JobFree; decide) | omega | simp⟩

theorem witness_SystemAndPowerCommands_7 : ∃ (n : Fin 64) (s : State) (t : Fin 3) (msg : BMsg),
    Taken s n 0x0310 [BitVec.ofNat 8 t, 0, 0, 0] msg ∧ s.ghx.trans = .none ∧ JobFree s ∧ s.gh.state = .watch ∧ t.val = 0 :=
  ⟨0, rq 0x0310 [0, 0, 0, 0] { State.reset with gh := { state := .watch } }, 0, bm 0x0310 [0, 0, 0, 0], by
    repeat' apply And.intro
    all_goals first | rfl | decide | exact Or.inl rfl | exact Or.inr rfl | (unfold JobFree; decide) | omega | simp⟩

theorem witness_SystemAndPowerCommands_8 : ∃ (n : Fin 64) (s : State) (p : Bytes) (msg : BMsg) (r : Nat) (mv : Nat),
    Taken s n 0x0311 p msg ∧ layoutIs 4 [(1, 1)] p = true ∧ fieldLE p 0 1 = r ∧ r ≤ 2 ∧
    mv = (if fieldLE p 2 2 = 0 then svcOf s r else fieldLE p 2 2) ∧ inService r mv = true ∧ avsBusy s = false ∧
    s.gh.state = .serve :=
  ⟨0, rq 0x0311 ([2, 0] ++ leN 2 (railLow 2)) wSrv, [2, 0] ++ leN 2 (railLow 2), bm 0x0311 ([2, 0] ++ leN 2 (railLow 2)), 2,
    railLow 2, by
    repeat' apply And.intro
    all_goals first | rfl | decide | exact Or.inl rfl | exact Or.inr rfl | (unfold JobFree; decide) | omega | simp⟩

theorem witness_SystemAndPowerCommands_9 : ∃ (n : Fin 64) (s : State) (p : Bytes) (msg : BMsg), Taken s n 0x0312 p msg ∧
    p.length = 8 ∧ within 1 31 (fieldLE p 0 1) = true ∧ fieldLE p 1 1 = 255 ∧ fieldLE p 2 1 = 255 ∧ fieldLE p 3 1 ≤ 3 ∧
    (fieldLE p 0 1).testBit 3 = false ∧ (fieldLE p 0 1).testBit 4 = false :=
  ⟨0, rq 0x0312 [7, 255, 255, 3, 0, 0, 0, 0], [7, 255, 255, 3, 0, 0, 0, 0], bm 0x0312 [7, 255, 255, 3, 0, 0, 0, 0], by
    repeat' apply And.intro
    all_goals first | rfl | decide | exact Or.inl rfl | exact Or.inr rfl | (unfold JobFree; decide) | omega | simp⟩

theorem witness_SystemAndPowerCommands_10 : ∃ (n : Fin 64) (s : State) (p : Bytes) (msg : BMsg), Taken s n 0x0301 p msg ∧
    layoutIs 16 [(11, 5)] p = true ∧ fieldLE p 0 1 = 1 ∧ fieldLE p 1 1 ≤ 2 ∧ within 1 1440 (fieldLE p 2 2) = true ∧
    fieldLE p 4 2 ≤ 400 ∧ fieldLE p 6 2 ≤ 10080 ∧ fieldLE p 8 2 = 0 ∧ within 1 31 (fieldLE p 10 1) = true ∧
    s.kiosk.forced.contains 0x0312 = false ∧ claimHolder s 2 7 ≠ some 3 :=
  ⟨0, rq 0x0301 ([1, 2] ++ leN 2 1440 ++ leN 2 400 ++ leN 2 10080 ++ leN 2 0 ++ [31] ++ zeros 5), [1,
    2] ++ leN 2 1440 ++ leN 2 400 ++ leN 2 10080 ++ leN 2 0 ++ [31] ++ zeros 5, bm 0x0301 ([1,
    2] ++ leN 2 1440 ++ leN 2 400 ++ leN 2 10080 ++ leN 2 0 ++ [31] ++ zeros 5), by
    repeat' apply And.intro
    all_goals first | rfl | decide | exact Or.inl rfl | exact Or.inr rfl | (unfold JobFree; decide) | omega | simp⟩

theorem witness_SystemAndPowerCommands_11 : ∃ (n : Fin 64) (s : State) (p : Bytes) (msg : BMsg) (slot : Nat) (_ok : Bool),
    Taken s n 0x0103 p msg ∧ fwLayout p = true ∧ fieldLE p 0 1 = slot ∧ slot ≤ 1 ∧ fieldLE p 1 1 ≤ 1 ∧
    1152 ≤ (p.drop 8).length ∧ (p.drop 8).length ≤ 25165824 ∧ slot ≠ s.sec.running ∧ JobFree s :=
  ⟨0, rq 0x0103 ([1, 1, 0, 0] ++ leN 4 1152 ++ zeros 1152), [1, 1, 0, 0] ++ leN 4 1152 ++ zeros 1152, bm 0x0103 ([1, 1, 0,
    0] ++ leN 4 1152 ++ zeros 1152), 1, true, by
    have l : ([1, 1, 0, 0] ++ leN 4 1152 ++ zeros 1152 : Bytes).length = 1160 := by
      rw [List.length_append, zeros, List.length_replicate]; rfl
    refine ⟨⟨rfl, rfl, rfl, rfl, rfl, rfl, rfl⟩, ?_, rfl, by decide, by decide, ?_, ?_, by decide, by unfold JobFree; decide⟩
    · have h : fieldLE ([1, 1, 0, 0] ++ leN 4 1152 ++ zeros 1152) 4 4 = 1152 := rfl
      have z : zeroAt ([1, 1, 0, 0] ++ leN 4 1152 ++ zeros 1152) 2 2 = true := rfl
      unfold fwLayout
      rw [h, z, l]
      all_goals decide
    · rw [List.length_drop, l]; all_goals decide
    · rw [List.length_drop, l]; all_goals decide⟩

theorem witness_SystemAndPowerCommands_12 : ∃ (n : Fin 64) (s : State) (slot : Fin 2) (flags : Fin 4) (msg : BMsg),
    Taken s n 0x0104 [BitVec.ofNat 8 slot, BitVec.ofNat 8 flags] msg ∧ s.pair.handover = none ∧ JobFree s ∧ flags.val % 2 = 1 :=
  ⟨0, rq 0x0104 [1, 1], 1, 1, bm 0x0104 [1, 1], by
    repeat' apply And.intro
    all_goals first | rfl | decide | exact Or.inl rfl | exact Or.inr rfl | (unfold JobFree; decide) | omega | simp⟩

theorem witness_SystemAndPowerCommands_13 : ∃ (n : Fin 64) (s : State) (slot : Fin 2) (flags : Fin 4) (msg : BMsg),
    Taken s n 0x0104 [BitVec.ofNat 8 slot, BitVec.ofNat 8 flags] msg ∧ s.pair.handover = none ∧ JobFree s ∧
    flags.val % 2 = 0 ∧ s.pair.state = 3 :=
  ⟨0, rq 0x0104 [1, 2] { State.reset with pair := { state := 3 } }, 1, 2, bm 0x0104 [1, 2], by
    repeat' apply And.intro
    all_goals first | rfl | decide | exact Or.inl rfl | exact Or.inr rfl | (unfold JobFree; decide) | omega | simp⟩

theorem witness_SystemAndPowerCommands_14 : ∃ (n : Fin 64) (s : State) (p : Bytes) (msg : BMsg) (subj : Subject),
    Taken s n 0x0912 p msg ∧ p.length = 8 ∧ subjectOf s p = some subj ∧ ((∀ q,
    subj = .sledLane q → (shelfOf s (q / 32)).st = .awake)) ∧ ((∀ g sl die block,
    subj = .flashBlock g sl die block → (shelfOf s g).st = .awake ∧
    (programmedHere s (g * 32 + sl) die block = true ∨ ownsGroup s (block / 64) = true))) ∧ JobFree s :=
  ⟨0, rq 0x0912 ([4, 2, 0, 0, 0, 0, 0, 0]), [4, 2, 0, 0, 0, 0, 0, 0], bm 0x0912 ([4, 2, 0, 0, 0, 0, 0, 0]), .engineCore 2 0,
    ⟨⟨rfl, rfl, rfl, rfl, rfl, rfl, rfl⟩, rfl, rfl, (fun _ h => nomatch h), (fun _ _ _ _ h => nomatch h),
    by unfold JobFree; decide⟩⟩

theorem witness_ShelfAndMediaJobs_1 : ∃ (n : Fin 64) (s : State) (p : Bytes) (msg : BMsg) (g : Nat) (v : Shelf) (r : State → State),
    Taken s n 0x0410 p msg ∧ p.length = 4 ∧ fieldLE p 0 1 = g ∧ g < 32 ∧ fieldLE p 1 1 ≤ 1 ∧ fieldLE p 2 2 ≤ 28800 ∧
    isHome s g = false ∧ (shelfOf s g).st ≠ .awake ∧ (tget s.sleds.shelfRec g).isSome = true ∧ wakeFits s g = true ∧
    mayRequest s = true ∧ JobFree s ∧
    v = { shelfOf s g with holdJob := true, holdS := fieldLE p 2 2, readOnly := decide (fieldLE p 1 1 = 1), lapsed := false } ∧
    r = (match v.st with | .closing => setShelf g { v with closeAfter := false } | .failed => fun s => grantWake g (wantWake g (if fieldLE p 1 1 = 1 then .read else .ingest) 0 (setShelf g { v with st := .off, fails := 0, retryWait := false } s)) | .off => fun s => grantWake g (wantWake g (if fieldLE p 1 1 = 1 then .read else .ingest) 0 s) | _ => id) :=
  ⟨0, rq 0x0410 ([31,
    1] ++ leN 2 28800) { wShelf 31 .waking wSrv with sleds := { shelfRec := [(31, { serial := [], pIdle := 0, pWake := 0, kMw := 0, wakeMs := 0 })] } },
    [31, 1] ++ leN 2 28800, bm 0x0410 ([31, 1] ++ leN 2 28800), 31, _, _, ⟨⟨rfl, rfl, rfl, rfl, rfl, rfl, rfl⟩, rfl, rfl,
    by decide, by decide, by decide, by decide, by decide, by decide, by decide, by decide, by unfold JobFree; decide, rfl,
    rfl⟩⟩

theorem witness_ShelfAndMediaJobs_2 : ∃ (n : Fin 64) (s : State) (g : Fin 32) (msg : BMsg),
    Taken s n 0x0411 [BitVec.ofNat 8 g] msg ∧ isHome s g = false ∧ waitingOn s g = 0 ∧ (shelfOf s g).st ≠ .off ∧
    (shelfOf s g).st ≠ .failed ∧ JobFree s :=
  ⟨0, rq 0x0411 [31] (wShelf 31 .awake), 31, bm 0x0411 [31], by
    repeat' apply And.intro
    all_goals first | rfl | decide | exact Or.inl rfl | exact Or.inr rfl | (unfold JobFree; decide) | omega | simp⟩

theorem witness_ShelfAndMediaJobs_3 : ∃ (n : Fin 64) (s : State) (g : Fin 32) (msg : BMsg), (shelfOf s g).st = .awake ∧
    JobFree s ∧ Taken s n 0x0412 [BitVec.ofNat 8 g, 0] msg :=
  ⟨0, rq 0x0412 [31, 0] (wShelf 31 .awake), 31, bm 0x0412 [31, 0], by
    repeat' apply And.intro
    all_goals first | rfl | decide | exact Or.inl rfl | exact Or.inr rfl | (unfold JobFree; decide) | omega | simp⟩

theorem witness_ShelfAndMediaJobs_4 : ∃ (n : Fin 64) (s : State) (g : Fin 32) (msg : BMsg), (shelfOf s g).st = .awake ∧
    JobFree s ∧ Taken s n 0x0412 [BitVec.ofNat 8 g, 1] msg :=
  ⟨0, rq 0x0412 [31, 1] (wShelf 31 .awake), 31, bm 0x0412 [31, 1], by
    repeat' apply And.intro
    all_goals first | rfl | decide | exact Or.inl rfl | exact Or.inr rfl | (unfold JobFree; decide) | omega | simp⟩

theorem witness_ShelfAndMediaJobs_5 : ∃ (n : Fin 64) (s : State) (b : Byte) (p : Bytes) (gs : List Nat) (msg : BMsg),
    Taken s n 0x0413 (b :: p) msg ∧ homeShelfLayout (b :: p) = true ∧ gs = p.map (·.toNat) ∧ within 1 8 gs.length = true ∧
    gs.any (fun g => decide (31 < g)) = false ∧ gs.eraseDups.length = gs.length ∧ ((∀ w,
    s.pair.arr.budget = some w → minBudget s gs ≤ w)) ∧ s.plc.homeJob = none ∧ JobFree s :=
  ⟨0, rq 0x0413 [1, 31] (wShelf 31 .awake), 1, [31], [31], bm 0x0413 [1, 31], ⟨⟨rfl, rfl, rfl, rfl, rfl, rfl, rfl⟩, by decide,
    rfl, by decide, by decide, by decide, (fun _ h => nomatch h), rfl, by unfold JobFree; decide⟩⟩

theorem witness_ShelfAndMediaJobs_6 : ∃ (n : Fin 64) (s : State) (p : Bytes) (msg : BMsg) (g : Nat) (band : Nat),
    Taken s n 0x0510 p msg ∧ p.length = 4 ∧ fieldLE p 0 1 = g ∧ g < 32 ∧ fieldLE p 1 1 ≤ 3 ∧ fieldLE p 2 2 = band ∧
    (shelfOf s g).st = .awake ∧ JobFree s ∧ fieldLE p 1 1 % 2 = 0 ∧ bandEligible s g band = true :=
  ⟨0, rq 0x0510 ([31,
    2] ++ leN 2 7) { wShelf 31 .awake with plc := { (wShelf 31 .awake).plc with sets := [((31 * 32) * 2 ^ 32 + 1, wSet)] }, pair := { role := some .a } },
    [31, 2] ++ leN 2 7, bm 0x0510 ([31, 2] ++ leN 2 7), 31, 7, by
    repeat' apply And.intro
    all_goals first | rfl | decide | exact Or.inl rfl | exact Or.inr rfl | (unfold JobFree; decide) | omega | simp⟩

theorem witness_ShelfAndMediaJobs_7 : ∃ (n : Fin 64) (s : State) (p : Bytes) (msg : BMsg) (g : Nat) (band : Nat) (bands : _),
    Taken s n 0x0510 p msg ∧ p.length = 4 ∧ fieldLE p 0 1 = g ∧ g < 32 ∧ fieldLE p 1 1 ≤ 3 ∧ fieldLE p 2 2 = band ∧
    (shelfOf s g).st = .awake ∧ JobFree s ∧ fieldLE p 1 1 % 2 = 1 ∧ bands = (bandsOn s g).filter (bandEligible s g) ∧
    bands ≠ [] :=
  ⟨0, rq 0x0510 ([31,
    1] ++ leN 2 7) { wShelf 31 .awake with plc := { (wShelf 31 .awake).plc with sets := [((31 * 32) * 2 ^ 32 + 1, wSet)] }, pair := { role := some .a } },
    [31, 1] ++ leN 2 7, bm 0x0510 ([31, 1] ++ leN 2 7), 31, 7, _, ⟨⟨rfl, rfl, rfl, rfl, rfl, rfl, rfl⟩, rfl, rfl, by decide,
    by decide, rfl, rfl, by unfold JobFree; decide, by decide, rfl, by decide +kernel⟩⟩

theorem witness_ShelfAndMediaJobs_8 : ∃ (n : Fin 64) (s : State) (p : Bytes) (msg : BMsg) (g : Nat) (sl : Nat) (die : Nat) (block : Nat) (r : SledIdent),
    Taken s n 0x0511 p msg ∧ p.length = 8 ∧ wordLoc (fieldLE p 0 8) = { kind := .flash g sl die block 0 0 0 } ∧
    tget s.sleds.sledRec (g * 32 + sl) = some r ∧ die < r.dies ∧ block < r.blocks ∧
    programmedHere s (g * 32 + sl) die block = true ∧ (shelfOf s g).st = .awake ∧
    (blkOf s (blkKey (g * 32 + sl) die block)).retired = false ∧ JobFree s :=
  ⟨0,
    rq 0x0511 (leN 8 (1 + 31 * 2 ^ 59)) { wShelf 31 .awake with plc := { (wShelf 31 .awake).plc with sets := [((31 * 32) * 2 ^ 32 + 1, wSet)] }, pair := { role := some .a }, sleds := { sledRec := [(31 * 32, wSled)] } },
    leN 8 (1 + 31 * 2 ^ 59), bm 0x0511 (leN 8 (1 + 31 * 2 ^ 59)), 31, 0, 0, 0, wSled, by
    repeat' apply And.intro
    all_goals first | rfl | decide | exact Or.inl rfl | exact Or.inr rfl | (unfold JobFree; decide) | omega | simp⟩

theorem witness_ShelfAndMediaJobs_9 : ∃ (n : Fin 64) (s : State) (g : Fin 32) (msg : BMsg),
    Taken s n 0x0512 [BitVec.ofNat 8 g] msg ∧ (shelfOf s g).st = .awake ∧ JobFree s ∧ (shelfOf s g).inspecting.isSome = true :=
  ⟨0, rq 0x0512 [31] (setShelf 31 { st := .awake, inspecting := some 0 } State.reset), 31, bm 0x0512 [31], by
    repeat' apply And.intro
    all_goals first | rfl | decide | exact Or.inl rfl | exact Or.inr rfl | (unfold JobFree; decide) | omega | simp⟩

theorem witness_ShelfAndMediaJobs_10 : ∃ (n : Fin 64) (s : State) (g : Fin 32) (msg : BMsg),
    Taken s n 0x0512 [BitVec.ofNat 8 g] msg ∧ (shelfOf s g).st = .awake ∧ JobFree s ∧ (shelfOf s g).inspecting = none :=
  ⟨0, rq 0x0512 [31] (wShelf 31 .awake), 31, bm 0x0512 [31], by
    repeat' apply And.intro
    all_goals first | rfl | decide | exact Or.inl rfl | exact Or.inr rfl | (unfold JobFree; decide) | omega | simp⟩

theorem witness_DramCacheAndMonitorCommands_1 : ∃ (n : Fin 64) (s : State) (c : Nat) (chans : List Nat) (msg : BMsg),
    ((c < 24 ∧ chans = [c] ∨ c = 255 ∧ chans = List.range 24)) ∧ Taken s n 0x0610 [BitVec.ofNat 8 c, 0] msg :=
  ⟨0, rq 0x0610 [255, 0], 255, List.range 24, bm 0x0610 [255, 0], ⟨.inr ⟨rfl, rfl⟩, ⟨rfl, rfl, rfl, rfl, rfl, rfl, rfl⟩⟩⟩

theorem witness_DramCacheAndMonitorCommands_2 : ∃ (n : Fin 64) (s : State) (c : Nat) (chans : List Nat) (msg : BMsg),
    ((c < 24 ∧ chans = [c] ∨ c = 255 ∧ chans = List.range 24)) ∧ Taken s n 0x0610 [BitVec.ofNat 8 c, 1] msg ∧
    trainAllowed s = true ∧ JobFree s :=
  ⟨0, rq 0x0610 [255, 1], 255, List.range 24, bm 0x0610 [255, 1], by
    refine ⟨.inr ⟨rfl, rfl⟩, ⟨rfl, rfl, rfl, rfl, rfl, rfl, rfl⟩, ?_, by unfold JobFree; decide⟩
    unfold trainAllowed committedIn unitsIn
    have h : (rq 0x0610 [255, 1]).jrn.mirror = [] := rfl
    rw [h]
    simp only [Bool.and_eq_true, List.filter_nil, List.map_nil, List.eraseDups_nil, List.mergeSort_nil]
    exact ⟨⟨⟨rfl, rfl⟩, rfl⟩, rfl⟩⟩

theorem witness_DramCacheAndMonitorCommands_3 : ∃ (n : Fin 64) (s : State) (ch : Fin 24) (r : Fin 4) (msg : BMsg),
    Taken s n 0x0611 [BitVec.ofNat 8 ch, BitVec.ofNat 8 r] msg ∧ (rankOf (dmcOf s ch) r).present = true ∧
    (rankOf (dmcOf s ch) r).retired = false ∧ (dmcOf s ch).migrating = false ∧ (dmcOf s ch).spareValid = true ∧
    (dmcOf s ch).spare = r :=
  ⟨0, rq 0x0611 [23, 3] (setDmc 23 { spareValid := true, spare := 3, ranks := [(3, { present := true })] } State.reset), 23,
    3, bm 0x0611 [23, 3], by
    repeat' apply And.intro
    all_goals first | rfl | decide | exact Or.inl rfl | exact Or.inr rfl | (unfold JobFree; decide) | omega | simp⟩

theorem witness_DramCacheAndMonitorCommands_4 : ∃ (n : Fin 64) (s : State) (ch : Fin 24) (r : Fin 4) (msg : BMsg) (c : Dmc),
    dmcOf s ch = c ∧ Taken s n 0x0611 [BitVec.ofNat 8 ch, BitVec.ofNat 8 r] msg ∧ (rankOf c r).present = true ∧
    (rankOf c r).retired = false ∧ c.migrating = false ∧ c.spareValid = true ∧ c.spare ≠ r ∧ JobFree s :=
  ⟨0, rq 0x0611 [23, 0] (setDmc 23 { ranks := [(0, { present := true })], spareValid := true, spare := 3 } State.reset), 23,
    0, bm 0x0611 [23, 0], { ranks := [(0, { present := true })], spareValid := true, spare := 3 }, by
    repeat' apply And.intro
    all_goals first | rfl | decide | exact Or.inl rfl | exact Or.inr rfl | (unfold JobFree; decide) | omega | simp⟩

theorem witness_DramCacheAndMonitorCommands_5 : ∃ (n : Fin 64) (s : State) (p : Bytes) (msg : BMsg) (i : Nat),
    Taken s n 0x0710 p msg ∧ layoutIs 16 [(2, 2)] p = true ∧ fieldLE p 0 1 = 1 ∧ fieldLE p 1 1 = i ∧ i < 4 ∧
    ((claimHolder s 4 i = none ∨ claimHolder s 4 i = some 0x0200)) ∧
    lockRangeOk s.cns (fieldLE p 4 8) (fieldLE p 12 4) = true ∧ s.cns.off.getLsbD (12 + i) = false ∧
    s.cns.powered.getLsbD (12 + i) = true ∧ (lockOf s.cns i).loading = false ∧ s.cns.maint = none :=
  ⟨0, rq 0x0710 ([1, 3, 0, 0] ++ leN 8 (2 ^ 44 - 524288) ++ leN 4 524288), [1, 3, 0,
    0] ++ leN 8 (2 ^ 44 - 524288) ++ leN 4 524288, bm 0x0710 ([1, 3, 0, 0] ++ leN 8 (2 ^ 44 - 524288) ++ leN 4 524288), 3, by
    repeat' apply And.intro
    all_goals first | rfl | decide | exact Or.inl rfl | exact Or.inr rfl | (unfold JobFree; decide) | omega | simp⟩

theorem witness_DramCacheAndMonitorCommands_6 : ∃ (n : Fin 64) (s : State) (p : Bytes) (msg : BMsg) (i : Nat),
    Taken s n 0x0710 p msg ∧ layoutIs 16 [(2, 2)] p = true ∧ fieldLE p 0 1 = 0 ∧ fieldLE p 1 1 = i ∧ i < 4 ∧
    claimHolder s 4 i = none :=
  ⟨0, rq 0x0710 ([0, 3, 0, 0] ++ zeros 12), [0, 3, 0, 0] ++ zeros 12, bm 0x0710 ([0, 3, 0, 0] ++ zeros 12), 3, by
    repeat' apply And.intro
    all_goals first | rfl | decide | exact Or.inl rfl | exact Or.inr rfl | (unfold JobFree; decide) | omega | simp⟩

theorem witness_DramCacheAndMonitorCommands_7 : ∃ (n : Fin 64) (s : State) (p : Bytes) (msg : BMsg) (i : Nat),
    Taken s n 0x0710 p msg ∧ layoutIs 16 [(2, 2)] p = true ∧ fieldLE p 0 1 = 0 ∧ fieldLE p 1 1 = i ∧ i < 4 ∧
    claimHolder s 4 i = some 0x0200 :=
  ⟨0, rq 0x0710 ([0, 3, 0, 0] ++ zeros 12) (setClaim 4 3 0x0200 State.reset), [0, 3, 0, 0] ++ zeros 12, bm 0x0710 ([0, 3, 0,
    0] ++ zeros 12), 3, by
    repeat' apply And.intro
    all_goals first | rfl | decide | exact Or.inl rfl | exact Or.inr rfl | (unfold JobFree; decide) | omega | simp⟩

theorem witness_DramCacheAndMonitorCommands_8 : ∃ (n : Fin 64) (s : State) (p : Bytes) (msg : BMsg) (off : BitVec 16),
    Taken s n 0x0711 p msg ∧ layoutIs 4 [(2, 2)] p = true ∧ off = BitVec.ofNat 16 (fieldLE p 0 2) ∧
    (List.range 16).any (fun w => off.getLsbD w && wayLocked s.cns w) = false ∧ 4 ≤ unlockedOn s.cns off :=
  ⟨0, rq 0x0711 (leN 2 0x0FFF ++ zeros 2), leN 2 0x0FFF ++ zeros 2, bm 0x0711 (leN 2 0x0FFF ++ zeros 2), 0x0FFF, by
    repeat' apply And.intro
    all_goals first | rfl | decide | exact Or.inl rfl | exact Or.inr rfl | (unfold JobFree; decide) | omega | simp⟩

theorem witness_DramCacheAndMonitorCommands_9 : ∃ (n : Fin 64) (s : State) (p : Bytes) (msg : BMsg), Taken s n 0x0712 p msg ∧
    layoutIs 16 [(3, 1)] p = true ∧ fieldLE p 0 1 ≤ 1 ∧ fieldLE p 1 1 ≤ 1 ∧ ((fieldLE p 1 1 = 1 → fieldLE p 2 1 < 16)) ∧
    fieldLE p 4 8 % 128 = 0 ∧ fieldLE p 12 4 % 128 = 0 ∧ s.cns.maint = none :=
  ⟨0, rq 0x0712 ([1, 1, 15, 0] ++ leN 8 128 ++ leN 4 256), [1, 1, 15, 0] ++ leN 8 128 ++ leN 4 256, bm 0x0712 ([1, 1, 15,
    0] ++ leN 8 128 ++ leN 4 256), by
    repeat' apply And.intro
    all_goals first | rfl | decide | exact Or.inl rfl | exact Or.inr rfl | (unfold JobFree; decide) | omega | simp⟩

theorem witness_DramCacheAndMonitorCommands_10 : ∃ (n : Fin 64) (s : State) (p : Bytes) (msg : BMsg) (u : Nat),
    Taken s n 0x0910 p msg ∧ layoutIs 16 [(12, 4)] p = true ∧ fieldLE p 0 1 = u ∧ u < 32 ∧ fieldLE p 1 1 < 20 ∧
    fieldLE p 2 1 < 16 ∧ ((claimHolder s 3 u = none ∨ claimHolder s 3 u = some 0x0200)) ∧ fieldLE p 3 1 = 1 :=
  ⟨0, rq 0x0910 ([31, 19, 15, 1] ++ zeros 12), [31, 19, 15, 1] ++ zeros 12, bm 0x0910 ([31, 19, 15, 1] ++ zeros 12), 31, by
    repeat' apply And.intro
    all_goals first | rfl | decide | exact Or.inl rfl | exact Or.inr rfl | (unfold JobFree; decide) | omega | simp⟩

theorem witness_DramCacheAndMonitorCommands_11 : ∃ (n : Fin 64) (s : State) (p : Bytes) (msg : BMsg) (u : Nat),
    Taken s n 0x0910 p msg ∧ layoutIs 16 [(12, 4)] p = true ∧ fieldLE p 0 1 = u ∧ u < 32 ∧ fieldLE p 1 1 < 20 ∧
    fieldLE p 2 1 < 16 ∧ ((claimHolder s 3 u = none ∨ claimHolder s 3 u = some 0x0200)) ∧ fieldLE p 3 1 = 0 :=
  ⟨0, rq 0x0910 ([31, 19, 15, 0] ++ zeros 12), [31, 19, 15, 0] ++ zeros 12, bm 0x0910 ([31, 19, 15, 0] ++ zeros 12), 31, by
    repeat' apply And.intro
    all_goals first | rfl | decide | exact Or.inl rfl | exact Or.inr rfl | (unfold JobFree; decide) | omega | simp⟩

theorem witness_DramCacheAndMonitorCommands_12 : ∃ (n : Fin 64) (s : State) (u : Fin 32) (msg : BMsg),
    Taken s n 0x0911 [BitVec.ofNat 8 u, 0, 0, 0] msg :=
  ⟨0, rq 0x0911 [31, 0, 0, 0], 31, bm 0x0911 [31, 0, 0, 0], by
    repeat' apply And.intro
    all_goals first | rfl | decide | exact Or.inl rfl | exact Or.inr rfl | (unfold JobFree; decide) | omega | simp⟩

theorem witness_SessionsClaimsAndKeys_1 : ∃ (n : Fin 64) (s : State) (msg : BMsg), Taken s n 0x0110 [] msg ∧
    s.sec.rngHalted = false :=
  ⟨0, rq 0x0110 [], bm 0x0110 [], by
    repeat' apply And.intro
    all_goals first | rfl | decide | exact Or.inl rfl | exact Or.inr rfl | (unfold JobFree; decide) | omega | simp⟩

theorem witness_SessionsClaimsAndKeys_2 : ∃ (n : Fin 64) (s : State) (p : Bytes) (msg : BMsg), Taken s n 0x0111 p msg ∧
    tokenLayout p = true ∧ s.kiosk.lockout = false ∧ s.kiosk.session = none :=
  ⟨0, rq 0x0111 (zeros 584), zeros 584, bm 0x0111 (zeros 584), by
    set_option maxRecDepth 8000 in exact ⟨⟨rfl, rfl, rfl, rfl, rfl, rfl, rfl⟩, by decide, rfl, rfl⟩⟩

theorem witness_SessionsClaimsAndKeys_3 : ∃ (n : Fin 64) (s : State) (msg : BMsg) (x : Session), Taken s n 0x0112 [] msg ∧
    s.kiosk.session = some x ∧ x.handle = msg.session :=
  ⟨0,
    rq 0x0112 [] { State.reset with kiosk := { session := some { handle := 0, scope := 2, path := .controlPort, mailbox := 0, expiry := 9 } } },
    bm 0x0112 [], { handle := 0, scope := 2, path := .controlPort, mailbox := 0, expiry := 9 }, by
    repeat' apply And.intro
    all_goals first | rfl | decide | exact Or.inl rfl | exact Or.inr rfl | (unfold JobFree; decide) | omega | simp⟩

theorem witness_SessionsClaimsAndKeys_4 : ∃ (s : State) (x : Session), s.kiosk.session = some x :=
  ⟨{ State.reset with kiosk := { session := some { handle := 0, scope := 2, path := .controlPort, mailbox := 0, expiry := 9 } } },
    { handle := 0, scope := 2, path := .controlPort, mailbox := 0, expiry := 9 }, by
    repeat' apply And.intro
    all_goals first | rfl | decide | exact Or.inl rfl | exact Or.inr rfl | (unfold JobFree; decide) | omega | simp⟩

theorem witness_SessionsClaimsAndKeys_5 : ∃ (n : Fin 64) (s : State) (p : Bytes) (msg : BMsg) (k : Nat),
    Taken s n 0x0121 p msg ∧ layoutIs 4 [(1, 1)] p = true ∧ fieldLE p 0 1 = 6 ∧ fieldLE p 2 2 = k ∧ k < 64 ∧
    (allClaims s).find? (fun e => decide (e.1 = claimKey 6 k)) = some (claimKey 6 k, 0x0100 + n.val) ∧
    tget s.kiosk.claims (claimKey 6 k) = some { holder := 0x0100 + n.val } :=
  ⟨0, rq 0x0121 ([6, 0] ++ leN 2 63) { State.reset with kiosk := { claims := [(claimKey 6 63, { holder := 0x0100 })] } }, [6,
    0] ++ leN 2 63, bm 0x0121 ([6, 0] ++ leN 2 63), 63, by
    repeat' apply And.intro
    all_goals first | rfl | decide | exact Or.inl rfl | exact Or.inr rfl | (unfold JobFree; decide) | omega | simp⟩

theorem witness_SessionsClaimsAndKeys_6 : ∃ (n : Fin 64) (s : State) (p : Bytes) (msg : BMsg) (b : Bytes),
    Taken s n 0x0800 p msg ∧ keyLoadLayout p = true ∧ fieldLE p 0 1 = 4 ∧ b = bslice p 8 (fieldLE p 2 2) ∧ fieldLE b 2 1 = 4 ∧
    claimHolder s 6 (fieldLE b 6 2) = none :=
  ⟨63, wAt 63 0x0800 ([4, 1] ++ leN 2 8 ++ zeros 4 ++ [0, 0, 4, 0, 0, 0, 63, 0]), [4, 1] ++ leN 2 8 ++ zeros 4 ++ [0, 0, 4, 0,
    0, 0, 63, 0], bm 0x0800 ([4, 1] ++ leN 2 8 ++ zeros 4 ++ [0, 0, 4, 0, 0, 0, 63, 0]), [0, 0, 4, 0, 0, 0, 63, 0], by
    repeat' apply And.intro
    all_goals first | rfl | decide | exact Or.inl rfl | exact Or.inr rfl | (unfold JobFree; decide) | omega | simp⟩

theorem witness_SessionsClaimsAndKeys_7 : ∃ (n : Fin 64) (s : State) (p : Bytes) (msg : BMsg) (k : Nat),
    Taken s n 0x0801 p msg ∧ layoutIs 12 [(1, 3)] p = true ∧ fieldLE p 0 1 = 4 ∧ fieldLE p 4 8 = k ∧ 48 ≤ k ∧ k ≤ 63 ∧
    tget s.kiosk.claims (claimKey 6 k) = some { holder := 0x0100 + n.val } :=
  ⟨0, rq 0x0801 ([4, 0, 0,
    0] ++ leN 8 48) { State.reset with kiosk := { claims := [(claimKey 6 48, { holder := 0x0100 })] } }, [4, 0, 0,
    0] ++ leN 8 48, bm 0x0801 ([4, 0, 0, 0] ++ leN 8 48), 48, by
    repeat' apply And.intro
    all_goals first | rfl | decide | exact Or.inl rfl | exact Or.inr rfl | (unfold JobFree; decide) | omega | simp⟩

theorem witness_SessionsClaimsAndKeys_8 : ∃ (n : Fin 64) (s : State) (p : Bytes) (msg : BMsg), Taken s n 0x0801 p msg ∧
    layoutIs 12 [(1, 3)] p = true ∧ fieldLE p 0 1 = 0 ∧ fieldLE p 4 8 = 0 ∧ s.pair.paired = false ∧ myVols s = [] :=
  ⟨0, rq 0x0801 (zeros 12), zeros 12, bm 0x0801 (zeros 12), by
    repeat' apply And.intro
    all_goals first | rfl | decide | exact Or.inl rfl | exact Or.inr rfl | (unfold JobFree; decide) | omega | simp⟩

theorem witness_SessionsClaimsAndKeys_9 : ∃ (n : Fin 64) (s : State) (p : Bytes) (msg : BMsg), Taken s n 0x0801 p msg ∧
    layoutIs 12 [(1, 3)] p = true ∧ fieldLE p 0 1 = 2 :=
  ⟨0, rq 0x0801 ([2, 0, 0, 0] ++ leN 8 5), [2, 0, 0, 0] ++ leN 8 5, bm 0x0801 ([2, 0, 0, 0] ++ leN 8 5), by
    repeat' apply And.intro
    all_goals first | rfl | decide | exact Or.inl rfl | exact Or.inr rfl | (unfold JobFree; decide) | omega | simp⟩

theorem witness_SessionsClaimsAndKeys_10 : ∃ (n : Fin 64) (s : State) (p : Bytes) (msg : BMsg) (i : Nat),
    Taken s n 0x0803 p msg ∧ opKeyLayout p = true ∧ fieldLE p 0 1 = 0 ∧ fieldLE p 1 1 = i ∧ i ≤ 7 ∧ fieldLE p 2 1 = 255 ∧
    s.pair.arr.opKeys = [] ∧ myVols s = [] ∧ nonceValid s (bslice p 4 32) = true :=
  ⟨0, rq 0x0803 ([0, 7, 255, 0] ++ zeros 32 ++ zeros 512) { State.reset with kiosk := { nonces := [(0, zeros 32)] } }, [0, 7,
    255, 0] ++ zeros 32 ++ zeros 512, bm 0x0803 ([0, 7, 255, 0] ++ zeros 32 ++ zeros 512), 7, by
    set_option maxRecDepth 8000 in exact ⟨⟨rfl, rfl, rfl, rfl, rfl, rfl, rfl⟩, by decide, rfl, rfl, by decide, rfl, rfl, rfl, by decide⟩⟩

theorem witness_SessionsClaimsAndKeys_11 : ∃ (n : Fin 64) (s : State) (p : Bytes) (msg : BMsg), Taken s n 0x0802 p msg ∧
    layoutIs 36 [(33, 3)] p = true ∧ fieldLE p 32 1 ≤ 1 :=
  ⟨0, rq 0x0802 (zeros 36), zeros 36, bm 0x0802 (zeros 36), by
    repeat' apply And.intro
    all_goals first | rfl | decide | exact Or.inl rfl | exact Or.inr rfl | (unfold JobFree; decide) | omega | simp⟩

theorem witness_ExpertWindowAccesses_1 : ∃ (n : Fin 64) (s : State) (p : Bytes) (msg : BMsg) (addrs : List Nat) (r : Bytes × State),
    Taken s n 0x0F00 p msg ∧ p.length = 6 ∧ countOk (fieldLE p 4 2) = true ∧
    addrs = wordAddrs (fieldLE p 0 4) (fieldLE p 4 2) ∧ windowRefusal addrs false s = none ∧
    r = addrs.foldl (fun acc a => (acc.1 ++ leN 4 ((regVal 2 a acc.2).getD 0).toNat, regReadEffect a acc.2)) ([], s) :=
  ⟨0, rq 0x0F00 (leN 4 0x12000024 ++ leN 2 1), leN 4 0x12000024 ++ leN 2 1, bm 0x0F00 (leN 4 0x12000024 ++ leN 2 1), _, _,
    ⟨⟨rfl, rfl, rfl, rfl, rfl, rfl, rfl⟩, rfl, by decide, rfl, by decide +kernel, rfl⟩⟩

theorem witness_ExpertWindowAccesses_2 : ∃ (n : Fin 64) (s : State) (p : Bytes) (msg : BMsg) (a : Nat) (w : Word),
    Taken s n 0x0F00 p msg ∧ p.length = 6 ∧ fieldLE p 0 4 = a ∧ fieldLE p 4 2 = 1 ∧ windowRefusal [a] false s = none ∧
    regVal 2 a s = some w :=
  ⟨0, rq 0x0F00 (leN 4 0x12000010 ++ leN 2 1), leN 4 0x12000010 ++ leN 2 1, bm 0x0F00 (leN 4 0x12000010 ++ leN 2 1),
    0x12000010, 0, by
    repeat' apply And.intro
    all_goals first | rfl | decide | exact Or.inl rfl | exact Or.inr rfl | (unfold JobFree; decide) | omega | simp⟩

theorem witness_ExpertWindowAccesses_3 : ∃ (n : Fin 64) (s : State) (p : Bytes) (msg : BMsg), Taken s n 0x0F01 p msg ∧
    regWriteLayout p = true ∧ countOk (fieldLE p 4 2) = true ∧
    windowRefusal (wordAddrs (fieldLE p 0 4) (fieldLE p 4 2)) true s = none :=
  ⟨0, rq 0x0F01 (leN 4 0x12000024 ++ leN 2 1 ++ leN 4 8), leN 4 0x12000024 ++ leN 2 1 ++ leN 4 8,
    bm 0x0F01 (leN 4 0x12000024 ++ leN 2 1 ++ leN 4 8), by
    repeat' apply And.intro
    all_goals first | rfl | decide | exact Or.inl rfl | exact Or.inr rfl | (unfold JobFree; decide) | omega | simp⟩

theorem witness_ExpertWindowAccesses_4 : ∃ (n : Fin 64) (s : State) (p : Bytes) (msg : BMsg) (a : Nat) (w : Word) (mask : Word) (value : Word),
    Taken s n 0x0F02 p msg ∧ p.length = 12 ∧ fieldLE p 0 4 = a ∧ mask = BitVec.ofNat 32 (fieldLE p 4 4) ∧
    value = BitVec.ofNat 32 (fieldLE p 8 4) ∧ windowRefusal [a] true s = none ∧ regVal 2 a s = some w :=
  ⟨0, rq 0x0F02 (leN 4 0x12000024 ++ leN 4 12 ++ leN 4 8), leN 4 0x12000024 ++ leN 4 12 ++ leN 4 8,
    bm 0x0F02 (leN 4 0x12000024 ++ leN 4 12 ++ leN 4 8), 0x12000024, 0, 12, 8, by
    repeat' apply And.intro
    all_goals first | rfl | decide | exact Or.inl rfl | exact Or.inr rfl | (unfold JobFree; decide) | omega | simp⟩

theorem witness_ExpertWindowAccesses_5 : ∃ (n : Fin 64) (s : State) (p : Bytes) (msg : BMsg) (a : Nat),
    Taken s n 0x0F01 p msg ∧ regWriteLayout p = true ∧ fieldLE p 0 4 = a ∧ fieldLE p 4 2 = 1 ∧ regVal 2 a s = none :=
  ⟨0, rq 0x0F01 (leN 4 0x1200002C ++ leN 2 1 ++ leN 4 8), leN 4 0x1200002C ++ leN 2 1 ++ leN 4 8,
    bm 0x0F01 (leN 4 0x1200002C ++ leN 2 1 ++ leN 4 8), 0x1200002C, by
    repeat' apply And.intro
    all_goals first | rfl | decide | exact Or.inl rfl | exact Or.inr rfl | (unfold JobFree; decide) | omega | simp⟩

theorem witness_PairSnapshotAndPortCommands_1 : ∃ (n : Fin 64) (s : State) (p : Bytes) (msg : BMsg), Taken s n 0x0B01 p msg ∧
    layoutIs 16 [(2, 2), (12, 4)] p = true ∧ fieldLE p 0 1 ≤ 2 ∧ fieldLE p 1 1 ≤ 1 ∧ s.pair.job = none ∧ JobFree s :=
  ⟨0, rq 0x0B01 ([2, 1, 0, 0] ++ leN 4 16 ++ leN 4 1000 ++ zeros 4), [2, 1, 0, 0] ++ leN 4 16 ++ leN 4 1000 ++ zeros 4,
    bm 0x0B01 ([2, 1, 0, 0] ++ leN 4 16 ++ leN 4 1000 ++ zeros 4), by
    repeat' apply And.intro
    all_goals first | rfl | decide | exact Or.inl rfl | exact Or.inr rfl | (unfold JobFree; decide) | omega | simp⟩

theorem witness_PairSnapshotAndPortCommands_2 : ∃ (n : Fin 64) (s : State) (msg : BMsg), Taken s n 0x0B02 [] msg ∧
    s.pair.state = 4 ∧ s.pair.rejoin = true ∧ JobFree s :=
  ⟨0, rq 0x0B02 [] { State.reset with pair := { state := 4, rejoin := true } }, bm 0x0B02 [], by
    repeat' apply And.intro
    all_goals first | rfl | decide | exact Or.inl rfl | exact Or.inr rfl | (unfold JobFree; decide) | omega | simp⟩

theorem witness_PairSnapshotAndPortCommands_3 : ∃ (n : Fin 64) (s : State) (msg : BMsg), s.pair.fenced = false ∧
    Taken s n 0x0B10 [0] msg ∧ s.pair.state = 3 ∧ s.pair.handover = none ∧ JobFree s :=
  ⟨0, rq 0x0B10 [0] { State.reset with pair := { state := 3 } }, bm 0x0B10 [0], by
    repeat' apply And.intro
    all_goals first | rfl | decide | exact Or.inl rfl | exact Or.inr rfl | (unfold JobFree; decide) | omega | simp⟩

theorem witness_PairSnapshotAndPortCommands_4 : ∃ (n : Fin 64) (s : State) (msg : BMsg), s.pair.fenced = false ∧
    Taken s n 0x0B10 [1] msg ∧ s.pair.state = 3 ∧ s.pair.paired = true ∧ s.jrn.restart = .none ∧ s.ghx.pwrFail = false :=
  ⟨0, rq 0x0B10 [1] { State.reset with pair := { state := 3, paired := true }, ghx := { pwrFail := false } }, bm 0x0B10 [1], by
    repeat' apply And.intro
    all_goals first | rfl | decide | exact Or.inl rfl | exact Or.inr rfl | (unfold JobFree; decide) | omega | simp⟩

theorem witness_PairSnapshotAndPortCommands_5 : ∃ (n : Fin 64) (s : State) (p : Bytes) (vols : List Nat) (ns : List Nat) (msg : BMsg),
    Taken s n 0x0C00 p msg ∧ snapCreateLayout p = true ∧
    vols = (List.range (fieldLE p 0 1)).map (fun i => fieldLE p (4 + 4 * i) 4) ∧ vols.eraseDups.length = vols.length ∧
    ((∀ v ∈ vols, volLives s v = true ∧ ownsVol s v = true ∧ (freeSnap s v).isSome = true)) ∧
    ns = vols.map (fun v => (freeSnap s v).getD 0) ∧ JobFree s :=
  ⟨0, rq 0x0C00 ([1, 0, 0, 0] ++ leN 4 65535) (wVol 65535), [1, 0, 0, 0] ++ leN 4 65535, [65535], [1], bm 0x0C00 ([1, 0, 0,
    0] ++ leN 4 65535), ⟨⟨rfl, rfl, rfl, rfl, rfl, rfl, rfl⟩, by decide, by decide, by decide, by decide, by decide,
    by unfold JobFree; decide⟩⟩

theorem witness_PairSnapshotAndPortCommands_6 : ∃ (n : Fin 64) (s : State) (p : Bytes) (msg : BMsg) (x : Snap),
    Taken s n 0x0C01 p msg ∧ p.length = 6 ∧ fieldLE p 0 4 < 65536 ∧
    tget s.rep.snaps (snapKey (fieldLE p 0 4) (fieldLE p 4 2)) = some x ∧ volLives s (fieldLE p 0 4) = true ∧
    ownsVol s (fieldLE p 0 4) = true ∧ x.gone = false ∧ x.deleting = false ∧ x.repl = false ∧ x.replica = false ∧ JobFree s :=
  ⟨0, rq 0x0C01 (leN 4 65535 ++ leN 2 4096) { wVol 65535 with rep := { snaps := [(snapKey 65535 4096, {})] } },
    leN 4 65535 ++ leN 2 4096, bm 0x0C01 (leN 4 65535 ++ leN 2 4096), {}, by
    exact ⟨⟨rfl, rfl, rfl, rfl, rfl, rfl, rfl⟩, rfl, by rw [show fieldLE (leN 4 65535 ++ leN 2 4096) 0 4 = 65535 from rfl]; decide, by decide, by decide, by decide, rfl, rfl, rfl, rfl, by unfold JobFree; decide⟩⟩

theorem witness_PairSnapshotAndPortCommands_7 : ∃ (n : Fin 64) (s : State) (p : Bytes) (msg : BMsg) (r : ReplRec),
    Taken s n 0x0C03 p msg ∧ replConfigLayout p = true ∧ fieldLE p 2 2 < 1024 ∧
    tget s.pair.arr.rels (fieldLE p 2 2) = some r ∧ fieldLE p 0 1 = 2 :=
  ⟨0, rq 0x0C03 ([2, 0] ++ leN 2 1023 ++ zeros 60) (wRel 1023 wRec), [2, 0] ++ leN 2 1023 ++ zeros 60, bm 0x0C03 ([2,
    0] ++ leN 2 1023 ++ zeros 60), wRec, by
    repeat' apply And.intro
    all_goals first | rfl | decide | exact Or.inl rfl | exact Or.inr rfl | (unfold JobFree; decide) | omega | simp⟩

theorem witness_PairSnapshotAndPortCommands_8 : ∃ (n : Fin 64) (s : State) (p : Bytes) (msg : BMsg) (r : ReplRec),
    Taken s n 0x0C03 p msg ∧ replConfigLayout p = true ∧ fieldLE p 2 2 < 1024 ∧
    tget s.pair.arr.rels (fieldLE p 2 2) = some r ∧ 2 < fieldLE p 0 1 :=
  ⟨0, rq 0x0C03 ([4, 0] ++ leN 2 1023 ++ zeros 60) (wRel 1023 wRec), [4, 0] ++ leN 2 1023 ++ zeros 60, bm 0x0C03 ([4,
    0] ++ leN 2 1023 ++ zeros 60), wRec, by
    repeat' apply And.intro
    all_goals first | rfl | decide | exact Or.inl rfl | exact Or.inr rfl | (unfold JobFree; decide) | omega | simp⟩

theorem witness_PairSnapshotAndPortCommands_9 : ∃ (n : Fin 64) (s : State) (p : Bytes) (msg : BMsg) (vols : List (Nat × Nat)),
    Taken s n 0x0C03 p msg ∧ replConfigLayout p = true ∧ fieldLE p 2 2 < 1024 ∧ fieldLE p 0 1 ≤ 1 ∧
    ((fieldLE p 0 1 = 0 → within 1 86400 (fieldLE p 4 4) = true)) ∧ fieldLE p 8 2 < 4096 ∧
    thas s.pair.arr.rels (fieldLE p 2 2) = false ∧
    vols = (List.range (fieldLE p 1 1)).map (fun i => (fieldLE p (64 + 8 * i) 4, fieldLE p (68 + 8 * i) 4)) ∧
    (vols.map (·.1)).eraseDups.length = vols.length ∧ vols.all (fun v => volLives s v.1) = true ∧
    ((vols.map (fun v => (tget s.pair.arr.volumes v.1).map (·.pref))).eraseDups).length = 1 ∧
    s.pair.arr.rels.any (fun e => e.2.vols.any (fun x => vols.any (fun v => decide (v.1 = x.1)))) = false :=
  ⟨0, rq 0x0C03 ([0, 1] ++ leN 2 1023 ++ leN 4 60 ++ leN 2 4095 ++ zeros 54 ++ leN 4 65535 ++ leN 4 0) (wVol 65535), [0,
    1] ++ leN 2 1023 ++ leN 4 60 ++ leN 2 4095 ++ zeros 54 ++ leN 4 65535 ++ leN 4 0, bm 0x0C03 ([0,
    1] ++ leN 2 1023 ++ leN 4 60 ++ leN 2 4095 ++ zeros 54 ++ leN 4 65535 ++ leN 4 0), [(65535, 0)], ⟨⟨rfl, rfl, rfl, rfl,
    rfl, rfl, rfl⟩, by decide, by decide, by decide, fun _ => by decide, by decide, rfl, by decide, by decide, by decide,
    by decide, by decide⟩⟩

theorem witness_PairSnapshotAndPortCommands_10 : ∃ (n : Fin 64) (s : State) (p : Bytes) (msg : BMsg), Taken s n 0x0C10 p msg ∧
    p.length = 2 ∧ thas s.pair.arr.rels (fieldLE p 0 2) = true :=
  ⟨0, rq 0x0C10 (leN 2 1023) (wRel 1023 wRec), leN 2 1023, bm 0x0C10 (leN 2 1023), by
    repeat' apply And.intro
    all_goals first | rfl | decide | exact Or.inl rfl | exact Or.inr rfl | (unfold JobFree; decide) | omega | simp⟩

theorem witness_PairSnapshotAndPortCommands_11 : ∃ (n : Fin 64) (s : State) (p : Bytes) (msg : BMsg) (c : Nat),
    Taken s n 0x0A10 p msg ∧ p.length = 8 ∧ connOf s (fieldLE p 0 8) = some c ∧ qpLive (qpOf s c) = true :=
  ⟨0, rq 0x0A10 (leN 8 5) (wQp 7 { st := .rekey, queueId := 5 }), leN 8 5, bm 0x0A10 (leN 8 5), 7, by
    repeat' apply And.intro
    all_goals first | rfl | decide | exact Or.inl rfl | exact Or.inr rfl | (unfold JobFree; decide) | omega | simp⟩

theorem witness_PairSnapshotAndPortCommands_12 : ∃ (n : Fin 64) (s : State) (p : Bytes) (msg : BMsg) (_trained : BitVec 8),
    Taken s n 0x0A00 p msg ∧ portConfigLayout p = true ∧ ((fieldLE p 4 4 = 0 ∨ poolUsed s ≤ fieldLE p 4 4 * 16)) ∧ JobFree s ∧
    s.lat.qps = [] :=
  ⟨0, rq 0x0A00 ([8, 1, 0, 0] ++ leN 4 16384 ++ ([7, 7, 255, 63] ++ zeros 6 ++ leN 2 4094 ++ zeros 36)), [8, 1, 0,
    0] ++ leN 4 16384 ++ ([7, 7, 255, 63] ++ zeros 6 ++ leN 2 4094 ++ zeros 36), bm 0x0A00 ([8, 1, 0,
    0] ++ leN 4 16384 ++ ([7, 7, 255, 63] ++ zeros 6 ++ leN 2 4094 ++ zeros 36)), 0, by
    exact ⟨⟨rfl, rfl, rfl, rfl, rfl, rfl, rfl⟩, by decide, .inr (by decide), by unfold JobFree; decide, rfl⟩⟩

theorem witness_ConnectionsOpenAndClose_1 : ∃ (n : Fin 16384) (port : Fin 8) (_hostQp : Nat) (_psn : Nat) (r : Bytes) (s : State) (p : Pd),
    (hportOf s port).up = true ∧ (s.lat.qps.find? (fun e => decide (e.2.st = .connecting ∧
    e.2.queueId = fieldLE r 8 8)) = none) ∧ openFails s r = none ∧ tget s.lat.pds (fieldLE r 18 2) = some p ∧
    (qpOf s n).st = .free ∧ (qpOf s n).tags = [] :=
  ⟨16383, 7, 1, 0, wOpen, wPort 7 { State.reset with lat := { pds := [(4095, wPd)] } }, wPd, by
    repeat' apply And.intro
    all_goals first | rfl | decide | exact Or.inl rfl | exact Or.inr rfl | (unfold JobFree; decide) | omega | simp⟩

theorem witness_ConnectionsOpenAndClose_2 : ∃ (_n : Fin 16384) (port : Fin 8) (_host : Nat × Nat) (_r : Bytes) (s : State),
    (hportOf s port).up = true :=
  ⟨16383, 7, (1, 0), wOpen, wPort 7, by
    repeat' apply And.intro
    all_goals first | rfl | decide | exact Or.inl rfl | exact Or.inr rfl | (unfold JobFree; decide) | omega | simp⟩

theorem witness_ConnectionsOpenAndClose_3 : ∃ (_n : Fin 16384) (port : Fin 8) (_host : Nat × Nat) (r : Bytes) (s : State) (st : _),
    (hportOf s port).up = true ∧ (s.lat.qps.find? (fun e => decide (e.2.st = .connecting ∧
    e.2.queueId = fieldLE r 8 8)) = none) ∧ openFails s r = some st :=
  ⟨16383, 7, (1, 0), wOpen, wPort 7, .denied, by
    repeat' apply And.intro
    all_goals first | rfl | decide | exact Or.inl rfl | exact Or.inr rfl | (unfold JobFree; decide) | omega | simp⟩

theorem witness_ConnectionsOpenAndClose_4 : ∃ (_n : Fin 16384) (port : Fin 8) (_host : Nat × Nat) (r : Bytes) (s : State) (k : _) (q : _),
    (hportOf s port).up = true ∧ (s.lat.qps.find? (fun e => decide (e.2.st = .connecting ∧
    e.2.queueId = fieldLE r 8 8)) = some (k, q)) ∧ s.pair.fenced = false :=
  ⟨16383, 7, (1, 0), wOpen,
    { State.reset with lat := { qps := [(9, { st := .connecting, queueId := 5 })], hports := [(7, { exists_ := true, up := true })] } },
    9, { st := .connecting, queueId := 5 }, by
    repeat' apply And.intro
    all_goals first | rfl | decide | exact Or.inl rfl | exact Or.inr rfl | (unfold JobFree; decide) | omega | simp⟩

theorem witness_ConnectionsOpenAndClose_5 : ∃ (n : Fin 16384) (s : State) (q : Qp), qpOf s n = q ∧ q.st = .connecting ∧
    ((∀ e ∈ s.jrn.cmds, e.2.queueId ≠ q.queueId)) :=
  ⟨16383, wQp 16383 { st := .connecting, queueId := 5 }, { st := .connecting, queueId := 5 }, ⟨rfl, rfl,
    fun _ h => nomatch (h : _ ∈ ([] : List (Nat × Cmd)))⟩⟩

theorem witness_ConnectionsOpenAndClose_6 : ∃ (n : Fin 16384) (s : State), (qpOf s n).st = .connecting :=
  ⟨16383, wQp 16383 { st := .connecting, queueId := 5 }, by
    repeat' apply And.intro
    all_goals first | rfl | decide | exact Or.inl rfl | exact Or.inr rfl | (unfold JobFree; decide) | omega | simp⟩

theorem witness_ConnectionsOpenAndClose_7 : ∃ (n : Fin 16384) (s : State), qpLive (qpOf s n) = true :=
  ⟨16383, wQp 16383 { st := .rekey, queueId := 5 }, by
    repeat' apply And.intro
    all_goals first | rfl | decide | exact Or.inl rfl | exact Or.inr rfl | (unfold JobFree; decide) | omega | simp⟩

theorem witness_ConnectionsOpenAndClose_8 : ∃ (id : Nat) (s : State), connOf s id = none :=
  ⟨5, { State.reset with jrn := { tables := [(5, { newest := 9 })] } }, by
    repeat' apply And.intro
    all_goals first | rfl | decide | exact Or.inl rfl | exact Or.inr rfl | (unfold JobFree; decide) | omega | simp⟩

theorem witness_ConnectionsOpenAndClose_9 : ∃ (n : Fin 16384) (s : State), (qpOf s n).rxOld = true :=
  ⟨16383, wQp 16383 { st := .open_, rxOld := true }, by
    repeat' apply And.intro
    all_goals first | rfl | decide | exact Or.inl rfl | exact Or.inr rfl | (unfold JobFree; decide) | omega | simp⟩

theorem witness_PacketsAreAcceptedAndPlaced_1 : ∃ (n : Fin 16384) (pkt : Packet) (s : State) (q : Qp), qpOf s n = q ∧
    qpLive q = true ∧ q.cached = true ∧ s.lat.lru.contains n.val = true ∧ (hportOf s pkt.port).up = true ∧ pkt.vlans = [] ∧
    q.gcm = false ∧ q.plain = false ∧ q.mode = some false ∧ pkt.op = .sendOnly ∧ pkt.ce = false ∧
    ahead 24 q.psnAck (pkt.psn % 2 ^ 24) = 1 ∧ 0 < q.granted ∧ s.lat.cap ≤ s.lat.allow ∧ q.stalled = false ∧ q.sinceAck < 31 :=
  ⟨16383, { port := 0, vlans := [], op := .sendOnly, psn := 0, ce := false, aad := [], payload := [1] },
    { State.reset with lat := { qps := [(16383, { st := .open_, mode := some false, psnAck := 2 ^ 24 - 1, granted := 1, sinceAck := 30 })], lru := [16383], hports := [(0, { exists_ := true, up := true })] } },
    { st := .open_, mode := some false, psnAck := 2 ^ 24 - 1, granted := 1, sinceAck := 30 }, by
    repeat' apply And.intro
    all_goals first | rfl | decide | exact Or.inl rfl | exact Or.inr rfl | (unfold JobFree; decide) | omega | simp⟩

theorem witness_PacketsAreAcceptedAndPlaced_2 : ∃ (n : Fin 16384) (s : State) (q : Qp) (psn : Nat) (asn : Nat) (raw : Bytes) (rest : List (Nat × Bytes)) (g : Seg) (x : LTag) (y : LTag) (want : List Nat),
    qpOf s n = q ∧ q.plain = false ∧ q.segq = (psn, raw) :: rest ∧ segOf raw = some g ∧ (g.mp = decide (q.mode = some true)) ∧
    tagOf q g.tag = x ∧ x.st = .receiving ∧ x.discard = false ∧ x.asn = some asn ∧ g.first = false ∧ g.last = false ∧
    overlaps x g.off g.data.length = false ∧ y = { x with placed := x.placed ++ [(g.off, g.data)] } ∧
    lengthBreach x g.off g.data.length false g.total (capsuleOf y) = false ∧
    want = (pagesOf ((capsuleOf y).getD []) (max g.off 64 - 64) (g.off + g.data.length - 64)).filter (fun p => !x.pages.contains p) ∧
    pagesFree s q want.length = true :=
  ⟨16383,
    wQp 16383 { st := .open_, mode := some false, segq := [(0, [0, 31, 0, 0] ++ leN 4 64 ++ zeros 8 ++ [7])], tags := [(31, { st := .receiving, asn := some 0 })] },
    { st := .open_, mode := some false, segq := [(0, [0, 31, 0, 0] ++ leN 4 64 ++ zeros 8 ++ [7])], tags := [(31, { st := .receiving, asn := some 0 })] },
    0, 0, [0, 31, 0, 0] ++ leN 4 64 ++ zeros 8 ++ [7], [],
    { first := false, last := false, mp := false, tag := 31, off := 64, total := 0, data := [7] },
    { st := .receiving, asn := some 0 }, { st := .receiving, asn := some 0, placed := [(64, [7])] }, [0], by
    repeat' apply And.intro
    all_goals first | rfl | decide | exact Or.inl rfl | exact Or.inr rfl | (unfold JobFree; decide) | omega | simp⟩

theorem witness_PacketsAreAcceptedAndPlaced_3 : ∃ (n : Fin 16384) (s : State) (q : Qp) (psn : Nat) (tag : Nat) (raw : Bytes) (c : Bytes) (rest : List (Nat × Bytes)),
    qpOf s n = q ∧ q.plain = true ∧ q.segq = (psn, raw) :: rest ∧ fieldLE raw 0 1 = 2 ∧ q.plainRx.begun = true ∧
    q.plainRx.tag = some tag ∧ q.plainRx.drop = false ∧ capsuleOf (tagOf q tag) = some c ∧
    q.plainRx.bytes.length + (raw.length - 1) ≤ expected c ∧ cdiv (q.plainRx.bytes ++ raw.drop 1).length 65536 ≤ 256 ∧
    pagesFree s q (cdiv (q.plainRx.bytes ++ raw.drop 1).length 65536 - q.plainRx.pages) = true :=
  ⟨16383, wQp 16383 { wPlain with plainRx := { wPlain.plainRx with begun := true } },
    { wPlain with plainRx := { wPlain.plainRx with begun := true } }, 0, 31, [2, 9], wCaps, [], ⟨rfl, rfl, rfl, rfl, rfl, rfl,
    rfl, rfl, by decide, by decide, by decide⟩⟩

theorem witness_PacketsAreAcceptedAndPlaced_4 : ∃ (n : Fin 16384) (tag : Fin 32) (s : State) (x : LTag),
    tagOf (qpOf s n) tag = x ∧ x.plainBuf = true ∧
    pagesFree s (qpOf s n) (pagesOf ((capsuleOf x).getD []) 0 (placedSum x - 64)).length = true ∧ ((∀ c,
    x.asn.bind (cmdOf s) = some c → within 1 8 c.opcode = true)) :=
  ⟨16383, 31, wQp 16383 { st := .open_, tags := [(31, { plainBuf := true })] }, { plainBuf := true }, ⟨rfl, rfl, by decide,
    fun _ h => nomatch h⟩⟩

theorem witness_PacketsAreAcceptedAndPlaced_5 : ∃ (n : Fin 16384) (tag : Fin 32) (page : Nat) (s : State) (x : LTag),
    tagOf (qpOf s n) tag = x ∧ x.pages.contains page = true ∧ pageDone s x page = true ∧ ((∀ e ∈ s.lat.qps,
    e.2.stalled = false)) :=
  ⟨16383, 31, 256, wQp 16383 { st := .open_, tags := [(31, { st := .ending, pages := [256] })] },
    { st := .ending, pages := [256] }, by
    repeat' apply And.intro
    all_goals first | rfl | decide | exact Or.inl rfl | exact Or.inr rfl | (unfold JobFree; decide) | omega | simp⟩

theorem witness_PacketsAreAcceptedAndPlaced_6 : ∃ (n : Fin 16384) (s : State) (q : Qp) (psn : Nat) (raw : Bytes) (rest : List (Nat × Bytes)),
    qpOf s n = q ∧ q.st = .open_ ∧ q.stalled = true ∧ q.segq = (psn, raw) :: rest ∧ q.mode = some false :=
  ⟨16383, wQp 16383 { st := .open_, stalled := true, mode := some false, segq := [(0, [1])] },
    { st := .open_, stalled := true, mode := some false, segq := [(0, [1])] }, 0, [1], [], by
    repeat' apply And.intro
    all_goals first | rfl | decide | exact Or.inl rfl | exact Or.inr rfl | (unfold JobFree; decide) | omega | simp⟩

theorem witness_PacketsAreAcceptedAndPlaced_7 : ∃ (n : Fin 16384) (s : State) (q : Qp), qpOf s n = q ∧ q.fetching = true ∧
    qpLive q = true ∧ q.held = [] ∧ ((∀ e ∈ s.lat.dropLog, e.1 ≠ n)) ∧
    ((s.lat.lru.contains n.val = true ∨ s.lat.lru.length < 2048)) :=
  ⟨16383, wQp 16383 { st := .open_, fetching := true, cached := false }, { st := .open_, fetching := true, cached := false },
    ⟨rfl, rfl, rfl, rfl, (fun _ h => nomatch (h : _ ∈ ([] : List (Nat × Nat)))), .inr (by decide)⟩⟩

theorem witness_PacketsAreAcceptedAndPlaced_8 : ∃ (n : Fin 16384) (s : State), (qpOf s n).fetching = true ∧
    qpLive (qpOf s n) = true :=
  ⟨16383, wQp 16383 { st := .open_, fetching := true, cached := false }, by
    repeat' apply And.intro
    all_goals first | rfl | decide | exact Or.inl rfl | exact Or.inr rfl | (unfold JobFree; decide) | omega | simp⟩

theorem witness_OutboundSideOfAQueuePair_1 : ∃ (n : Fin 16384) (s : State) (q : Qp), qpOf s n = q ∧ q.st = .open_ ∧
    q.ackDue = true :=
  ⟨16383, wQp 16383 { st := .open_, ackDue := true }, { st := .open_, ackDue := true }, by
    repeat' apply And.intro
    all_goals first | rfl | decide | exact Or.inl rfl | exact Or.inr rfl | (unfold JobFree; decide) | omega | simp⟩

theorem witness_OutboundSideOfAQueuePair_2 : ∃ (n : Fin 16384) (s : State) (q : Qp) (psn : Nat), qpOf s n = q ∧
    q.st = .open_ ∧ q.mode = some true ∧ psn < 2 ^ 24 ∧ q.psnAck < 2 ^ 24 ∧ ahead 24 q.psnAck psn = 1 ∧
    q.window = [(psn + 1) % 2 ^ 24] :=
  ⟨16383, wQp 16383 { st := .open_, mode := some true, psnAck := 2 ^ 24 - 1, window := [1] },
    { st := .open_, mode := some true, psnAck := 2 ^ 24 - 1, window := [1] }, 0, by
    repeat' apply And.intro
    all_goals first | rfl | decide | exact Or.inl rfl | exact Or.inr rfl | (unfold JobFree; decide) | omega | simp⟩

theorem witness_OutboundSideOfAQueuePair_3 : ∃ (n : Fin 16384) (s : State) (q : Qp) (o : OutPkt), qpOf s n = q ∧
    q.st = .open_ ∧ q.gcm = false ∧ (hportOf s q.port).paused = false ∧ q.outs = [o] ∧ o.retries < 7 :=
  ⟨16383, wQp 16383 { st := .open_, outs := [{ psn := 0, isSend := true, asn := 1, retries := 6 }] },
    { st := .open_, outs := [{ psn := 0, isSend := true, asn := 1, retries := 6 }] },
    { psn := 0, isSend := true, asn := 1, retries := 6 }, by
    repeat' apply And.intro
    all_goals first | rfl | decide | exact Or.inl rfl | exact Or.inr rfl | (unfold JobFree; decide) | omega | simp⟩

theorem witness_OutboundSideOfAQueuePair_4 : ∃ (n : Fin 16384) (s : State) (q : Qp) (o : OutPkt) (rest : List OutPkt),
    qpOf s n = q ∧ qpLive q = true ∧ q.outs = o :: rest ∧ 7 ≤ o.retries :=
  ⟨16383, wQp 16383 { st := .open_, outs := [{ psn := 0, isSend := true, asn := 1, retries := 7 }] },
    { st := .open_, outs := [{ psn := 0, isSend := true, asn := 1, retries := 7 }] },
    { psn := 0, isSend := true, asn := 1, retries := 7 }, [], by
    repeat' apply And.intro
    all_goals first | rfl | decide | exact Or.inl rfl | exact Or.inr rfl | (unfold JobFree; decide) | omega | simp⟩

theorem witness_OutboundSideOfAQueuePair_5 : ∃ (n : Fin 16384) (s : State) (q : Qp) (o : OutPkt) (_timer : Nat),
    qpOf s n = q ∧ qpLive q = true ∧ o.psn < 2 ^ 24 ∧ q.outs = [o] :=
  ⟨16383, wQp 16383 { st := .open_, outs := [{ psn := 16777215, isSend := true, asn := 1 }] },
    { st := .open_, outs := [{ psn := 16777215, isSend := true, asn := 1 }] }, { psn := 16777215, isSend := true, asn := 1 },
    0, by
    exact ⟨rfl, rfl, by decide, rfl⟩⟩

theorem witness_OutboundSideOfAQueuePair_6 : ∃ (n : Fin 16384) (s : State) (q : Qp) (o : OutPkt), qpOf s n = q ∧
    q.st = .open_ ∧ q.gcm = false ∧ (hportOf s q.port).paused = false ∧ q.outs = [o] ∧ o.rnr = true :=
  ⟨16383, wQp 16383 { st := .open_, outs := [{ psn := 0, isSend := true, asn := 1, rnr := true }] },
    { st := .open_, outs := [{ psn := 0, isSend := true, asn := 1, rnr := true }] },
    { psn := 0, isSend := true, asn := 1, rnr := true }, by
    repeat' apply And.intro
    all_goals first | rfl | decide | exact Or.inl rfl | exact Or.inr rfl | (unfold JobFree; decide) | omega | simp⟩

theorem witness_OutboundSideOfAQueuePair_7 : ∃ (n : Fin 16384) (s : State) (q : Qp), qpOf s n = q ∧ qpLive q = true ∧
    q.outs.any (·.rnrSeen) = true :=
  ⟨16383, wQp 16383 { st := .open_, outs := [{ psn := 0, isSend := true, asn := 1, rnrSeen := true }] },
    { st := .open_, outs := [{ psn := 0, isSend := true, asn := 1, rnrSeen := true }] }, by
    repeat' apply And.intro
    all_goals first | rfl | decide | exact Or.inl rfl | exact Or.inr rfl | (unfold JobFree; decide) | omega | simp⟩

theorem witness_OutboundSideOfAQueuePair_8 : ∃ (n : Fin 16384) (s : State) (q : Qp) (psn : Nat), qpOf s n = q ∧
    qpLive q = true ∧ q.outs.any (fun o => decide (o.psn = psn) && !o.isSend) = true :=
  ⟨16383, wQp 16383 { st := .open_, outs := [{ psn := 0, isSend := false, asn := 1 }] },
    { st := .open_, outs := [{ psn := 0, isSend := false, asn := 1 }] }, 0, by
    repeat' apply And.intro
    all_goals first | rfl | decide | exact Or.inl rfl | exact Or.inr rfl | (unfold JobFree; decide) | omega | simp⟩

theorem witness_OutboundSideOfAQueuePair_9 : ∃ (n : Fin 16384) (s : State) (q : Qp), qpOf s n = q ∧ qpLive q = true :=
  ⟨16383, wQp 16383 { st := .rekey }, { st := .rekey }, by
    repeat' apply And.intro
    all_goals first | rfl | decide | exact Or.inl rfl | exact Or.inr rfl | (unfold JobFree; decide) | omega | simp⟩

theorem witness_OutboundSideOfAQueuePair_10 : ∃ (n : Fin 16384) (s : State) (q : Qp), qpOf s n = q ∧ q.st = .open_ ∧
    q.plain = false ∧ q.granted < q.creditWin :=
  ⟨16383, wQp 16383 { st := .open_, granted := 63 }, { st := .open_, granted := 63 }, by
    repeat' apply And.intro
    all_goals first | rfl | decide | exact Or.inl rfl | exact Or.inr rfl | (unfold JobFree; decide) | omega | simp⟩

theorem witness_OutboundSideOfAQueuePair_11 : ∃ (port : Fin 8) (prio : Nat) (s : State) (h : HPort), hportOf s port = h ∧
    h.up = true ∧ h.pfc = prio ∧ prio ≤ 7 :=
  ⟨7, 7, wPort 7 State.reset { exists_ := true, up := true, pfc := 7 }, { exists_ := true, up := true, pfc := 7 }, by
    repeat' apply And.intro
    all_goals first | rfl | decide | exact Or.inl rfl | exact Or.inr rfl | (unfold JobFree; decide) | omega | simp⟩

theorem witness_OutboundSideOfAQueuePair_12 : ∃ (port : Fin 8) (_up : Bool) (s : State) (h : HPort), hportOf s port = h ∧
    h.exists_ = true ∧ s.lat.qps = [] :=
  ⟨7, true, wPort 7 State.reset { exists_ := true, up := true, pfc := 7 }, { exists_ := true, up := true, pfc := 7 }, by
    repeat' apply And.intro
    all_goals first | rfl | decide | exact Or.inl rfl | exact Or.inr rfl | (unfold JobFree; decide) | omega | simp⟩

theorem witness_LatMessagesRun_1 : ∃ (n : Fin 16384) (tag : Fin 32) (asn : Nat) (c : Cmd) (s : State), Ready s n tag 1 asn c :=
  ⟨7, 31, 2, wCmd 1 0 65535 0 0 65536, wRun (wCmd 1 0 65535 0 0 65536), by
    set_option maxRecDepth 20000 in exact ⟨⟨rfl, rfl, rfl, rfl, rfl, rfl, rfl, by decide, by decide, by decide⟩, by decide⟩⟩

theorem witness_LatMessagesRun_2 : ∃ (n : Fin 16384) (tag : Fin 32) (asn : Nat) (c : Cmd) (s : State), Ready s n tag 2 asn c ∧
    writerBefore s asn c = false ∧ noWait c = false :=
  ⟨7, 31, 2, wCmd 2 0 65535 0 15 4096, wRun (wCmd 2 0 65535 0 15 4096), by
    set_option maxRecDepth 20000 in exact ⟨⟨⟨rfl, rfl, rfl, rfl, rfl, rfl, rfl, by decide, by decide, by decide⟩, by decide⟩, rfl, rfl⟩⟩

theorem witness_LatMessagesRun_3 : ∃ (n : Fin 16384) (tag : Fin 32) (asn : Nat) (c : Cmd) (s : State), Ready s n tag 3 asn c ∧
    c.volume ≠ 0xFFFFFFFF ∧ s.plc.open_ = [] :=
  ⟨7, 31, 2, wCmd 3 0 65535 0 0 0, wRun (wCmd 3 0 65535 0 0 0), by
    set_option maxRecDepth 20000 in exact ⟨⟨⟨rfl, rfl, rfl, rfl, rfl, rfl, rfl, by decide, by decide, by decide⟩, by decide⟩, by decide, rfl⟩⟩

theorem witness_LatMessagesRun_4 : ∃ (n : Fin 16384) (tag : Fin 32) (asn : Nat) (c : Cmd) (s : State), Ready s n tag 4 asn c :=
  ⟨7, 31, 2, wCmd 4 1 65535 0 15 4096, wRun (wCmd 4 1 65535 0 15 4096), by
    set_option maxRecDepth 20000 in exact ⟨⟨rfl, rfl, rfl, rfl, rfl, rfl, rfl, by decide, by decide, by decide⟩, by decide⟩⟩

theorem witness_LatMessagesRun_5 : ∃ (n : Fin 16384) (tag : Fin 32) (asn : Nat) (k : Nat) (c : Cmd) (v : Cmd) (s : State),
    Complete s n tag 5 asn c ∧ abortTarget s asn c = some (k, v) ∧ cmdOf s k = some v ∧ v.opcode = 2 ∧ v.stage = .running ∧
    pastReturn v = false :=
  ⟨7, 31, 2, 1, wCmd 5 0 30 9 5 0, { wCmd 2 0 65535 0 0 4096 with tag := 30, csn := 9, stage := .running },
    wRun (wCmd 5 0 30 9 5 0) [(1, { wCmd 2 0 65535 0 0 4096 with tag := 30, csn := 9, stage := .running })], by
    set_option maxRecDepth 20000 in exact ⟨⟨rfl, rfl, rfl, rfl, rfl, rfl, rfl, by decide, by decide, by decide⟩, rfl, rfl, rfl, rfl, rfl⟩⟩

theorem witness_LatMessagesRun_6 : ∃ (n : Fin 16384) (tag : Fin 32) (asn : Nat) (c : Cmd) (s : State), Ready s n tag 6 asn c ∧
    writerBefore s asn c = false ∧ sleeping s { c with key := readKey s c.volume c.snap } = [] :=
  ⟨7, 31, 2, wCmd 6 0 65535 0 15 4096, wRun (wCmd 6 0 65535 0 15 4096), by
    set_option maxRecDepth 20000 in exact ⟨⟨⟨rfl, rfl, rfl, rfl, rfl, rfl, rfl, by decide, by decide, by decide⟩, by decide⟩, rfl, rfl⟩⟩

theorem witness_LatMessagesRun_7 : ∃ (n : Fin 16384) (tag : Fin 32) (asn : Nat) (c : Cmd) (s : State), Ready s n tag 7 asn c ∧
    connected s c = true :=
  ⟨7, 31, 2, wCmd 7 0 0 0 0 4096, wRun (wCmd 7 0 0 0 0 4096), by
    set_option maxRecDepth 20000 in exact ⟨⟨⟨rfl, rfl, rfl, rfl, rfl, rfl, rfl, by decide, by decide, by decide⟩, by decide⟩, rfl⟩⟩

theorem witness_LatMessagesRun_8 : ∃ (n : Fin 16384) (tag : Fin 32) (asn : Nat) (c : Cmd) (s : State), Ready s n tag 8 asn c :=
  ⟨7, 31, 2, wCmd 8 0 0 0 0 0, wRun (wCmd 8 0 0 0 0 0), by
    set_option maxRecDepth 20000 in exact ⟨⟨rfl, rfl, rfl, rfl, rfl, rfl, rfl, by decide, by decide, by decide⟩, by decide⟩⟩

theorem witness_LatMessagesRun_9 : ∃ (asn : Nat) (c : Cmd) (s : State), cmdOf s asn = some c ∧ c.overlap = true ∧
    c.stage = .running ∧ c.opcode = 2 ∧ writerBefore s asn c = false ∧ heldByMove s c = false ∧ cmdFails s c = none ∧
    noWait c = false :=
  ⟨2, { wCmd 2 0 65535 0 15 4096 with overlap := true, stage := .running },
    wRun { wCmd 2 0 65535 0 15 4096 with overlap := true, stage := .running }, by
    set_option maxRecDepth 20000 in
    exact ⟨rfl, rfl, rfl, rfl, by decide, by decide, by decide, rfl⟩⟩

theorem witness_LatMessagesRun_10 : ∃ (n : Fin 16384) (asn : Nat) (c : Cmd) (s : State), s.jrn.cmds = [(asn, c)] ∧ c.qpn = n ∧
    c.stage = .held ∧ c.checked = true ∧ c.opcode = 8 ∧ heldNow s asn c = false ∧ cmdFails s c = none :=
  ⟨7, 2, { wCmd 8 0 0 0 0 0 with checked := true }, wRun { wCmd 8 0 0 0 0 0 with checked := true }, by
    repeat' apply And.intro
    all_goals first | rfl | decide | exact Or.inl rfl | exact Or.inr rfl | (unfold JobFree; decide) | omega | simp⟩

theorem witness_LatMessagesRun_11 : ∃ (n : Fin 16384) (tag : Fin 32) (s : State) (x : LTag), tagOf (qpOf s n) tag = x ∧
    x.asn = none ∧ x.st = .receiving :=
  ⟨16383, 31, wQp 16383 { st := .open_, tags := [(31, { st := .receiving })] }, { st := .receiving }, by
    repeat' apply And.intro
    all_goals first | rfl | decide | exact Or.inl rfl | exact Or.inr rfl | (unfold JobFree; decide) | omega | simp⟩

theorem witness_IngestStepsOfAChunk_1 : ∃ (asn : Nat) (k : Nat) (c : Cmd) (w : ChunkWork) (s : State),
    AtStage s asn k .fingerprint c w ∧ w.data.all (· = 0) = true :=
  ⟨2, 0, wIng (wWork .fingerprint [0, 0]), wWork .fingerprint [0, 0], wRun (wIng (wWork .fingerprint [0, 0])), by
    repeat' apply And.intro
    all_goals first | rfl | decide | exact Or.inl rfl | exact Or.inr rfl | (unfold JobFree; decide) | omega | simp⟩

theorem witness_IngestStepsOfAChunk_2 : ∃ (asn : Nat) (k : Nat) (c : Cmd) (w : ChunkWork) (s : State),
    AtStage s asn k .fingerprint c w ∧ w.data.all (· = 0) = false :=
  ⟨2, 0, wIng (wWork .fingerprint [0, 1]), wWork .fingerprint [0, 1], wRun (wIng (wWork .fingerprint [0, 1])), by
    repeat' apply And.intro
    all_goals first | rfl | decide | exact Or.inl rfl | exact Or.inr rfl | (unfold JobFree; decide) | omega | simp⟩

theorem witness_IngestStepsOfAChunk_3 : ∃ (asn : Nat) (k : Nat) (c : Cmd) (w : ChunkWork) (s : State),
    AtStage s asn k .index c w ∧ s.ing.loading.contains (bucketOf s w.fp) = false ∧
    slotsWith (bucket s (bucketOf s w.fp)) (tagFp w.fp) = [] :=
  ⟨2, 0, wIng (wWork .index [0, 1]), wWork .index [0, 1], wRun (wIng (wWork .index [0, 1])), by
    repeat' apply And.intro
    all_goals first | rfl | decide | exact Or.inl rfl | exact Or.inr rfl | (unfold JobFree; decide) | omega | simp⟩

theorem witness_IngestStepsOfAChunk_4 : ∃ (asn : Nat) (k : Nat) (c : Cmd) (w : ChunkWork) (s : State),
    AtStage s asn k .index c w :=
  ⟨2, 0, wIng (wWork .index [0, 1]), wWork .index [0, 1], wRun (wIng (wWork .index [0, 1])), by
    repeat' apply And.intro
    all_goals first | rfl | decide | exact Or.inl rfl | exact Or.inr rfl | (unfold JobFree; decide) | omega | simp⟩

theorem witness_IngestStepsOfAChunk_5 : ∃ (asn : Nat) (k : Nat) (c : Cmd) (w : ChunkWork) (s : State),
    AtStage s asn k .verify c w :=
  ⟨2, 0, wIng (wWork .verify [0, 1]), wWork .verify [0, 1], wRun (wIng (wWork .verify [0, 1])), by
    repeat' apply And.intro
    all_goals first | rfl | decide | exact Or.inl rfl | exact Or.inr rfl | (unfold JobFree; decide) | omega | simp⟩

theorem witness_IngestStepsOfAChunk_6 : ∃ (asn : Nat) (k : Nat) (c : Cmd) (w : ChunkWork) (s : State) (n : Nat) (env : Bytes) (region : Bytes) (old : Bytes),
    AtStage s asn k .verify c w ∧ workFetch s w = some (n, .got env region) ∧ openChunk s env region = .ok old ∧ old = w.data :=
  ⟨2, 0, wIng { wWork .verify [] with fetch := some 4 }, { wWork .verify [] with fetch := some 4 },
    { wKeys (wRun (wIng ({ wWork .verify [] with fetch := some 4 }))) with plc := { fetches := [(4, { serial := 9, why := .verify 2 0, src := .journal, res := some (.got (zeros 2 ++ [1, 0, 0, 0, 0, 0] ++ zeros 56) []) })] } },
    4, zeros 2 ++ [1, 0, 0, 0, 0, 0] ++ zeros 56, [], [], ⟨⟨rfl, rfl, rfl, rfl⟩, rfl, rfl, rfl⟩⟩

theorem witness_IngestStepsOfAChunk_7 : ∃ (asn : Nat) (k : Nat) (c : Cmd) (w : ChunkWork) (s : State) (n : Nat) (env : Bytes) (region : Bytes) (old : Bytes),
    AtStage s asn k .verify c w ∧ workFetch s w = some (n, .got env region) ∧ openChunk s env region = .ok old ∧ old ≠ w.data :=
  ⟨2, 0, wIng { wWork .verify [7] with fetch := some 4 }, { wWork .verify [7] with fetch := some 4 },
    { wKeys (wRun (wIng ({ wWork .verify [7] with fetch := some 4 }))) with plc := { fetches := [(4, { serial := 9, why := .verify 2 0, src := .journal, res := some (.got (zeros 2 ++ [1, 0, 0, 0, 0, 0] ++ zeros 56) []) })] } },
    4, zeros 2 ++ [1, 0, 0, 0, 0, 0] ++ zeros 56, [], [], ⟨⟨rfl, rfl, rfl, rfl⟩, rfl, rfl, by decide⟩⟩

theorem witness_IngestStepsOfAChunk_8 : ∃ (asn : Nat) (k : Nat) (c : Cmd) (w : ChunkWork) (s : State) (n : Nat) (st : Status) (_poisoned : Bool),
    AtStage s asn k .verify c w ∧ workFetch s w = some (n, .fails st) :=
  ⟨2, 0, wIng { wWork .verify [7] with fetch := some 4 }, { wWork .verify [7] with fetch := some 4 },
    { wKeys (wRun (wIng ({ wWork .verify [7] with fetch := some 4 }))) with plc := { fetches := [(4, { serial := 9, why := .verify 2 0, src := .journal, res := some (.fails .mediaError) })] } },
    4, .mediaError, false, ⟨⟨rfl, rfl, rfl, rfl⟩, rfl⟩⟩

theorem witness_IngestStepsOfAChunk_9 : ∃ (asn : Nat) (k : Nat) (c : Cmd) (w : ChunkWork) (s : State) (n : Nat) (env : Bytes) (region : Bytes),
    AtStage s asn k .verify c w ∧ workFetch s w = some (n, .got env region) :=
  ⟨2, 0, wIng { wWork .verify [7] with fetch := some 4 }, { wWork .verify [7] with fetch := some 4 },
    { wKeys (wRun (wIng ({ wWork .verify [7] with fetch := some 4 }))) with plc := { fetches := [(4, { serial := 9, why := .verify 2 0, src := .journal, res := some (.got (zeros 2 ++ [1, 0, 0, 0, 0, 0] ++ zeros 56) []) })] } },
    4, zeros 2 ++ [1, 0, 0, 0, 0, 0] ++ zeros 56, [], ⟨⟨rfl, rfl, rfl, rfl⟩, rfl⟩⟩

theorem witness_IngestStepsOfAChunk_10 : ∃ (asn : Nat) (k : Nat) (n : Nat) (c : Cmd) (w : ChunkWork) (env : Bytes) (region : Bytes) (old : Bytes) (s : State),
    AtStage s asn k .merge c w ∧ workFetch s w = some (n, .got env region) ∧ openChunk s env region = .ok old ∧
    (((envOf env).overlay = false ∨ w.mask ||| (envOf env).mask = 255)) :=
  ⟨2, 0, 4, wIng { wWork .merge [7] with fetch := some 4 }, { wWork .merge [7] with fetch := some 4 }, zeros 2 ++ [1, 0, 0, 0,
    0, 0] ++ zeros 56, [], [],
    { wKeys (wRun (wIng ({ wWork .merge [7] with fetch := some 4 }))) with plc := { fetches := [(4, { serial := 9, why := .verify 2 0, src := .journal, res := some (.got (zeros 2 ++ [1, 0, 0, 0, 0, 0] ++ zeros 56) []) })] } },
    ⟨⟨rfl, rfl, rfl, rfl⟩, rfl, rfl, .inl rfl⟩⟩

theorem witness_IngestStepsOfAChunk_11 : ∃ (asn : Nat) (k : Nat) (n : Nat) (c : Cmd) (w : ChunkWork) (st : Status) (_poisoned : Bool) (s : State),
    AtStage s asn k .merge c w ∧ workFetch s w = some (n, .fails st) :=
  ⟨2, 0, 4, wIng { wWork .merge [7] with fetch := some 4 }, { wWork .merge [7] with fetch := some 4 }, .mediaError, false,
    { wKeys (wRun (wIng ({ wWork .merge [7] with fetch := some 4 }))) with plc := { fetches := [(4, { serial := 9, why := .verify 2 0, src := .journal, res := some (.fails .mediaError) })] } },
    ⟨⟨rfl, rfl, rfl, rfl⟩, rfl⟩⟩

theorem witness_IngestStepsOfAChunk_12 : ∃ (asn : Nat) (k : Nat) (c : Cmd) (w : ChunkWork) (s : State) (p : Bytes) (raw : Bool),
    AtStage s asn k .compress c w ∧ choosePayload (domSwitches s w.domain).2.1 (storedData w) = (p, raw) :=
  ⟨2, 0, wIng (wWork .compress [0, 1]), wWork .compress [0, 1], wRun (wIng (wWork .compress [0, 1])), [0, 1], true, by
    repeat' apply And.intro
    all_goals first | rfl | decide | exact Or.inl rfl | exact Or.inr rfl | (unfold JobFree; decide) | omega | simp⟩

theorem witness_IngestStepsOfAChunk_13 : ∃ (asn : Nat) (k : Nat) (c : Cmd) (w : ChunkWork) (s : State) (slot : Nat),
    AtStage s asn k .encrypt c w ∧ w.payload ≠ [] ∧ w.envelope = [] ∧ w.cls = .new ∧
    keyPair s w.domain (domVersion s w.domain) = some slot :=
  ⟨2, 0, wIng (wWork .encrypt [0, 1]), wWork .encrypt [0, 1], wKeys (wRun (wIng (wWork .encrypt [0, 1]))), 0, by
    repeat' apply And.intro
    all_goals first | rfl | decide | exact Or.inl rfl | exact Or.inr rfl | (unfold JobFree; decide) | omega | simp⟩

theorem witness_JournalCommitsAndEpochs_1 : ∃ (asn : Nat) (c : Cmd) (u : CUnit) (s : State), cmdOf s asn = some c ∧
    c.units = [u] ∧ ((c.opcode = 1 ∨ c.opcode = 4)) ∧ commitReady s asn 0 = true :=
  ⟨2,
    { wCmd 1 0 65535 0 0 65536 with stage := .running, dataDone := true, units := [{ first := 0, blocks := 16, unitWritten := true }] },
    { first := 0, blocks := 16, unitWritten := true },
    { wVol 65535 with jrn := { flashMode := false, cmds := [(2, { wCmd 1 0 65535 0 0 65536 with stage := .running, dataDone := true, units := [{ first := 0, blocks := 16, unitWritten := true }] })] } },
    by
    repeat' apply And.intro
    all_goals first | rfl | decide | exact Or.inl rfl⟩

theorem witness_JournalCommitsAndEpochs_2 : ∃ (asn : Nat) (unit : Nat) (u : UnitBook) (s : State),
    s.jrn.units.find? (fun u => decide (u.asn = asn ∧ u.unit % adopted = unit) && releaseReady s u) = some u ∧
    s.jrn.restart = .none ∧ u.mirror = true :=
  ⟨7, 65535,
    { asn := 7, unit := 65535, volume := 1, first := 0, blocks := 8, epoch := 1, applied := true, checkpointed := true, mirror := true },
    { State.reset with jrn := { units := [{ asn := 7, unit := 65535, volume := 1, first := 0, blocks := 8, epoch := 1, applied := true, checkpointed := true, mirror := true }] } },
    by
    repeat' apply And.intro
    all_goals first | rfl | decide | exact Or.inl rfl | exact Or.inr rfl | (unfold JobFree; decide) | omega | simp⟩

theorem witness_JournalCommitsAndEpochs_3 : ∃ (asn : Nat) (unit : Nat) (u : UnitBook) (s : State),
    (s.jrn.units.find? (fun u => decide (u.asn = asn ∧ u.unit % adopted = unit) && releaseReady s u) = some u) ∧
    s.jrn.restart = .none ∧ u.mirror = false :=
  ⟨2, 1, { asn := 2, unit := 1, volume := 1, first := 0, blocks := 8, epoch := 0, applied := true, checkpointed := true },
    { State.reset with jrn := { units := [{ asn := 2, unit := 1, volume := 1, first := 0, blocks := 8, epoch := 0, applied := true, checkpointed := true }] } },
    ⟨by decide, rfl, rfl⟩⟩

theorem witness_JournalCommitsAndEpochs_4 : ∃ (s : State), s.jrn.epoch.step = 0 ∧ s.jrn.serving = true ∧
    s.jrn.restart = .none ∧ s.jrn.stopped = false :=
  ⟨{ State.reset with jrn := { serving := true } }, by
    repeat' apply And.intro
    all_goals first | rfl | decide | exact Or.inl rfl | exact Or.inr rfl | (unfold JobFree; decide) | omega | simp⟩

theorem witness_JournalCommitsAndEpochs_5 : ∃ (s : State), s.jrn.flashMode = false :=
  ⟨{ State.reset with jrn := { flashMode := false } }, by
    repeat' apply And.intro
    all_goals first | rfl | decide | exact Or.inl rfl | exact Or.inr rfl | (unfold JobFree; decide) | omega | simp⟩

theorem witness_JournalCommitsAndEpochs_6 : ∃ (s : State), s.jrn.flashMode = true :=
  ⟨{ State.reset with jrn := { flashMode := true } }, by
    repeat' apply And.intro
    all_goals first | rfl | decide | exact Or.inl rfl | exact Or.inr rfl | (unfold JobFree; decide) | omega | simp⟩

theorem witness_JournalCommitsAndEpochs_7 : ∃ (s : State), s.jrn.holdHigh = true ∧ s.ghx.holdOk = true ∧
    s.dram.flashConf = false ∧ s.ghx.keepUnfit = false ∧ ((∀ u ∈ s.jrn.units,
    u.flashMode = true → u.serials.all (drained s) = true)) :=
  ⟨{ State.reset with jrn := { holdHigh := true }, ghx := { holdOk := true } }, ⟨rfl, rfl, rfl, rfl,
    fun _ h => nomatch (h : _ ∈ ([] : List UnitBook))⟩⟩

theorem witness_GatehousePinsTimersAndSensors_1 : ∃ (s : State), s.gh.state ≠ .icehouse ∧ smbLive s = false :=
  ⟨{ State.reset with gh := { state := .dormant } }, by
    repeat' apply And.intro
    all_goals first | rfl | decide | exact Or.inl rfl | exact Or.inr rfl | (unfold JobFree; decide) | omega | simp⟩

theorem witness_GatehousePinsTimersAndSensors_2 : ∃ (s : State), ((s.gh.state = .icehouse ∨ smbLive s = true)) :=
  ⟨wSrv, by
    repeat' apply And.intro
    all_goals first | rfl | decide | exact Or.inl rfl | exact Or.inr rfl | (unfold JobFree; decide) | omega | simp⟩

theorem witness_GatehousePinsTimersAndSensors_3 : ∃ (s : State), s.ghx.smbStretch = true :=
  ⟨{ State.reset with ghx := { smbStretch := true } }, by
    repeat' apply And.intro
    all_goals first | rfl | decide | exact Or.inl rfl | exact Or.inr rfl | (unfold JobFree; decide) | omega | simp⟩

theorem witness_GatehousePinsTimersAndSensors_4 : ∃ (k : Fin 16) (s : State) (g : Gpio), gpioOf s k = g :=
  ⟨15, setGpio 15 { func := 2 } State.reset, { func := 2 }, by
    repeat' apply And.intro
    all_goals first | rfl | decide | exact Or.inl rfl | exact Or.inr rfl | (unfold JobFree; decide) | omega | simp⟩

theorem witness_GatehousePinsTimersAndSensors_5 : ∃ (k : Nat) (s : State), s.gh.wakeEn.getLsbD k = false :=
  ⟨4, { State.reset with gh := { wakeEn := 1 } }, by
    repeat' apply And.intro
    all_goals first | rfl | decide | exact Or.inl rfl | exact Or.inr rfl | (unfold JobFree; decide) | omega | simp⟩

theorem witness_GatehousePinsTimersAndSensors_6 : ∃ (k : Nat) (s : State), s.gh.wakeEn.getLsbD k = true ∧
    ((s.gh.state = .watch ∨ s.gh.state = .dormant)) :=
  ⟨4, { State.reset with gh := { wakeEn := 16, state := .watch } }, by
    repeat' apply And.intro
    all_goals first | rfl | decide | exact Or.inl rfl | exact Or.inr rfl | (unfold JobFree; decide) | omega | simp⟩

theorem witness_GatehousePinsTimersAndSensors_7 : ∃ (t : Fin 8) (s : State) (v : GTimer), timerOf s t = v ∧
    v.counting = true ∧ v.wake = false :=
  ⟨7, setTimer 7 { counting := true, periodic := true } State.reset, { counting := true, periodic := true }, by
    repeat' apply And.intro
    all_goals first | rfl | decide | exact Or.inl rfl | exact Or.inr rfl | (unfold JobFree; decide) | omega | simp⟩

theorem witness_GatehousePinsTimersAndSensors_8 : ∃ (t : Fin 8) (s : State) (v : GTimer), timerOf s t = v ∧
    v.counting = true ∧ v.wake = true ∧ pulsePins s t = [] :=
  ⟨7, setTimer 7 { counting := true, wake := true } State.reset, { counting := true, wake := true }, by
    repeat' apply And.intro
    all_goals first | rfl | decide | exact Or.inl rfl | exact Or.inr rfl | (unfold JobFree; decide) | omega | simp⟩

theorem witness_GatehousePinsTimersAndSensors_9 : ∃ (s : State), s.ghx.xtalIgnored = false :=
  ⟨{ State.reset with ghx := { xtalIgnored := false } }, by
    repeat' apply And.intro
    all_goals first | rfl | decide | exact Or.inl rfl | exact Or.inr rfl | (unfold JobFree; decide) | omega | simp⟩

theorem witness_GatehousePinsTimersAndSensors_10 : ∃ (s : State), s.gh.seconds < 3599 :=
  ⟨{ State.reset with gh := { seconds := 3598 } }, by
    repeat' apply And.intro
    all_goals first | rfl | decide | exact Or.inl rfl | exact Or.inr rfl | (unfold JobFree; decide) | omega | simp⟩

theorem witness_GatehousePinsTimersAndSensors_11 : ∃ (s : State), s.gh.seconds = 3599 ∧ s.gh.hours < 2 ^ 24 - 1 :=
  ⟨{ State.reset with gh := { seconds := 3599, hours := 2 ^ 24 - 2 } }, by
    repeat' apply And.intro
    all_goals first | rfl | decide | exact Or.inl rfl | exact Or.inr rfl | (unfold JobFree; decide) | omega | simp⟩

theorem witness_GatehousePinsTimersAndSensors_12 : ∃ (s : State), s.gh.seconds = 3599 ∧ s.gh.hours = 2 ^ 24 - 1 :=
  ⟨{ State.reset with gh := { seconds := 3599, hours := 2 ^ 24 - 1 } }, by
    repeat' apply And.intro
    all_goals first | rfl | decide | exact Or.inl rfl | exact Or.inr rfl | (unfold JobFree; decide) | omega | simp⟩

theorem witness_GatehousePinsTimersAndSensors_13 : ∃ (s : State), s.gh.wdogEn = true :=
  ⟨{ State.reset with gh := { wdogEn := true } }, by
    repeat' apply And.intro
    all_goals first | rfl | decide | exact Or.inl rfl | exact Or.inr rfl | (unfold JobFree; decide) | omega | simp⟩

theorem witness_GatehousePinsTimersAndSensors_14 : ∃ (s : State), s.gh.wdogEn = false :=
  ⟨{ State.reset with gh := { wdogEn := false } }, by
    repeat' apply And.intro
    all_goals first | rfl | decide | exact Or.inl rfl | exact Or.inr rfl | (unfold JobFree; decide) | omega | simp⟩

theorem witness_GatehousePinsTimersAndSensors_15 : ∃ (l : List Nat) (n : Nat) (s : State) (x : Ghx), l ≠ [] ∧
    maxBy (fun n => n) l = n ∧
    x = { s.ghx with tj := n, tjComp := maxBy (fun n => n) (l.take 4), tjMax := max s.ghx.tjMax n } ∧ n ≤ 105 ∧
    s.ghx.throttled = false ∧ n < tThr s :=
  ⟨[99], 99, State.reset, _, ⟨by decide, by decide, rfl, by decide, by decide, by decide⟩⟩

theorem witness_GatehousePinsTimersAndSensors_16 : ∃ (l : List Nat) (n : Nat) (s : State) (x : Ghx), l ≠ [] ∧
    maxBy (fun n => n) l = n ∧
    x = { s.ghx with tj := n, tjComp := maxBy (fun n => n) (l.take 4), tjMax := max s.ghx.tjMax n } ∧ n ≤ 105 ∧
    s.ghx.throttled = false ∧ tThr s ≤ n :=
  ⟨[100], 100, State.reset, _, ⟨by decide, by decide, rfl, by decide, by decide, by decide⟩⟩

theorem witness_GatehousePinsTimersAndSensors_17 : ∃ (l : List Nat) (n : Nat) (s : State) (x : Ghx), l ≠ [] ∧
    maxBy (fun n => n) l = n ∧
    x = { s.ghx with tj := n, tjComp := maxBy (fun n => n) (l.take 4), tjMax := max s.ghx.tjMax n } ∧ n ≤ 105 ∧
    s.ghx.throttled = true ∧ n + 3 ≤ tThr s :=
  ⟨[1, 97], 97, { State.reset with ghx := { throttled := true } }, _, ⟨by decide, by decide, rfl, by decide, by decide,
    by decide⟩⟩

theorem witness_GatehousePinsTimersAndSensors_18 : ∃ (l : List Nat) (n : Nat) (s : State) (x : Ghx), l ≠ [] ∧
    maxBy (fun n => n) l = n ∧
    x = { s.ghx with tj := n, tjComp := maxBy (fun n => n) (l.take 4), tjMax := max s.ghx.tjMax n } ∧ 105 < n ∧
    s.ghx.throttled = true ∧ s.ghx.hot105 = false ∧ tThr s < n + 3 :=
  ⟨[106, 0], 106, { State.reset with ghx := { throttled := true } }, _, ⟨by decide, by decide, rfl, by decide, by decide,
    by decide, by decide⟩⟩

theorem witness_GatehousePinsTimersAndSensors_19 : ∃ (s : State), s.ghx.throttled = true :=
  ⟨{ State.reset with ghx := { throttled := true } }, by
    repeat' apply And.intro
    all_goals first | rfl | decide | exact Or.inl rfl | exact Or.inr rfl | (unfold JobFree; decide) | omega | simp⟩

theorem witness_GatehousePinsTimersAndSensors_20 : ∃ (s : State), s.ghx.thermalFence = true ∧ s.ghx.tj ≤ 95 ∧
    s.pair.fenced = true :=
  ⟨{ State.reset with ghx := { thermalFence := true, tj := 95 }, pair := { fenced := true } }, by
    repeat' apply And.intro
    all_goals first | rfl | decide | exact Or.inl rfl | exact Or.inr rfl | (unfold JobFree; decide) | omega | simp⟩

theorem witness_GatehousePinsTimersAndSensors_21 : ∃ (s : State), s.ghx.thermalFence = true ∧ s.ghx.tj ≤ 95 ∧
    s.pair.fenced = false :=
  ⟨{ State.reset with ghx := { thermalFence := true, tj := 95 } }, by
    repeat' apply And.intro
    all_goals first | rfl | decide | exact Or.inl rfl | exact Or.inr rfl | (unfold JobFree; decide) | omega | simp⟩

theorem witness_SleepSequences_1 : ∃ (s : State), s.ghx.policy.target ≠ 0 ∧ s.gh.state = .serve ∧ s.ghx.trans = .none ∧
    sleepRefused s = none :=
  ⟨{ wSrv with pair := { state := 3 }, ghx := { policy := { target := 1 } } }, by
    repeat' apply And.intro
    all_goals first | rfl | decide | exact Or.inl rfl | exact Or.inr rfl | (unfold JobFree; decide) | omega | simp⟩

theorem witness_SleepSequences_2 : ∃ (s : State), s.ghx.policy.target = 2 ∧ s.gh.state = .watch ∧ s.ghx.trans = .none ∧
    dormantRefused s = none :=
  ⟨{ State.reset with gh := { state := .watch }, ghx := { policy := { target := 2 } } }, by
    repeat' apply And.intro
    all_goals first | rfl | decide | exact Or.inl rfl | exact Or.inr rfl | (unfold JobFree; decide) | omega | simp⟩

theorem witness_SleepSequences_3 : ∃ (s : State) (job : Option Nat), s.ghx.trans = .sleep 1 3 job ∧ wakePending s = false :=
  ⟨{ State.reset with ghx := { trans := .sleep 1 3 none } }, none, by
    repeat' apply And.intro
    all_goals first | rfl | decide | exact Or.inl rfl | exact Or.inr rfl | (unfold JobFree; decide) | omega | simp⟩

theorem witness_SleepSequences_4 : ∃ (s : State) (job : Option Nat), s.ghx.trans = .sleep 1 3 job ∧ wakePending s = true :=
  ⟨{ State.reset with ghx := { trans := .sleep 1 3 none }, gh := { fired := 16, wakeEn := 16 } }, none, by
    repeat' apply And.intro
    all_goals first | rfl | decide | exact Or.inl rfl | exact Or.inr rfl | (unfold JobFree; decide) | omega | simp⟩

theorem witness_SleepSequences_5 : ∃ (s : State) (job : Option Nat), s.ghx.trans = .sleep 2 5 job ∧ wakePending s = false :=
  ⟨{ State.reset with ghx := { trans := .sleep 2 5 none }, gh := { wakeEn := 0 } }, none, by
    repeat' apply And.intro
    all_goals first | rfl | decide | exact Or.inl rfl | exact Or.inr rfl | (unfold JobFree; decide) | omega | simp⟩

theorem witness_SleepSequences_6 : ∃ (s : State) (job : Option Nat) (k : Nat), s.ghx.trans = .sleep 2 k job ∧
    (k = 3 ∨ k = 5) ∧ wakePending s = true :=
  ⟨{ State.reset with ghx := { trans := .sleep 2 5 (some 1) }, gh := { fired := 1 } }, some 1, 5, by
    exact ⟨rfl, .inr rfl, by decide⟩⟩

theorem witness_SleepSequences_7 : ∃ (s : State), s.ghx.trans = .none ∧ s.gh.state = .watch ∧ wakePending s = false :=
  ⟨{ State.reset with gh := { state := .watch } }, by
    repeat' apply And.intro
    all_goals first | rfl | decide | exact Or.inl rfl | exact Or.inr rfl | (unfold JobFree; decide) | omega | simp⟩

theorem witness_RailsAndPllsOfAWake_1 : ∃ (rail : BitVec 2) (mv : BitVec 12) (s : State), avsBusy s = false ∧ rail ≠ 3 ∧
    maySet rail.toNat mv.toNat = true ∧ avsQ s (railBus rail.toNat) = [] :=
  ⟨2, BitVec.ofNat 12 (railHigh 2), State.reset, by
    repeat' apply And.intro
    all_goals first | rfl | decide | exact Or.inl rfl | exact Or.inr rfl | (unfold JobFree; decide) | omega | simp⟩

theorem witness_RailsAndPllsOfAWake_2 : ∃ (rail : BitVec 2) (mv : BitVec 12) (s : State), avsBusy s = false ∧ rail ≠ 3 ∧
    maySet rail.toNat mv.toNat = true ∧ avsQ s (railBus rail.toNat) ≠ [] :=
  ⟨2, 780, setAvsQ 1 [{ rail := 2, target := 780, step := 50, acked := true, why := .wake }] State.reset, by
    repeat' apply And.intro
    all_goals first | rfl | decide | exact Or.inl rfl | exact Or.inr rfl | (unfold JobFree; decide) | omega | simp⟩

theorem witness_RailsAndPllsOfAWake_3 : ∃ (_rail : BitVec 2) (_mv : BitVec 12) (s : State), avsBusy s = true :=
  ⟨3, 4095, setAvsQ 0 [{ rail := 1, target := 780, step := 50, acked := true, why := .ctl }] State.reset, by
    repeat' apply And.intro
    all_goals first | rfl | decide | exact Or.inl rfl | exact Or.inr rfl | (unfold JobFree; decide) | omega | simp⟩

theorem witness_RailsAndPllsOfAWake_4 : ∃ (rail : BitVec 2) (mv : BitVec 12) (s : State), avsBusy s = false ∧
    ((rail = 3 ∨ maySet rail.toNat mv.toNat = false)) :=
  ⟨3, 800, State.reset, by
    repeat' apply And.intro
    all_goals first | rfl | decide | exact Or.inl rfl | exact Or.inr rfl | (unfold JobFree; decide) | omega | simp⟩

theorem witness_RailsAndPllsOfAWake_5 : ∃ (b : Fin 2) (s : State) (op : AvsOp) (_ma : Nat), avsQ s b = [op] ∧
    ((op.why = .ctl ∨ op.why = .firmware)) ∧ op.acked = true ∧ op.step = op.target ∧ op.rail < 3 :=
  ⟨1, setAvsQ 1 [{ rail := 2, target := 780, step := 780, acked := true, why := .firmware }] State.reset,
    { rail := 2, target := 780, step := 780, acked := true, why := .firmware }, 65535, by
    repeat' apply And.intro
    all_goals first | rfl | decide | exact Or.inl rfl | exact Or.inr rfl | (unfold JobFree; decide) | omega | simp⟩

theorem witness_RailsAndPllsOfAWake_6 : ∃ (b : Fin 2) (s : State) (op : AvsOp) (rest : List AvsOp) (_ma : Nat),
    avsQ s b = op :: rest ∧ op.acked = false ∧ op.step ≠ 0 :=
  ⟨1, setAvsQ 1 [{ rail := 2, target := 780, step := 50, acked := false, why := .wake }] State.reset,
    { rail := 2, target := 780, step := 50, acked := false, why := .wake }, [], 65535, by
    repeat' apply And.intro
    all_goals first | rfl | decide | exact Or.inl rfl | exact Or.inr rfl | (unfold JobFree; decide) | omega | simp⟩

theorem witness_RailsAndPllsOfAWake_7 : ∃ (b : Fin 2) (s : State) (op : AvsOp) (rest : List AvsOp), avsQ s b = op :: rest ∧
    op.acked = true :=
  ⟨1, setAvsQ 1 [{ rail := 2, target := 780, step := 50, acked := true, why := .wake }] State.reset,
    { rail := 2, target := 780, step := 50, acked := true, why := .wake }, [], by
    repeat' apply And.intro
    all_goals first | rfl | decide | exact Or.inl rfl | exact Or.inr rfl | (unfold JobFree; decide) | omega | simp⟩

theorem witness_RailsAndPllsOfAWake_8 : ∃ (b : Fin 2) (s : State) (op : AvsOp) (rest : List AvsOp), avsQ s b = op :: rest ∧
    op.acked = false ∧ ((op.why = .ctl ∨ op.why = .firmware)) :=
  ⟨0, setAvsQ 0 [{ rail := 1, target := 780, step := 50, acked := false, why := .ctl }] State.reset,
    { rail := 1, target := 780, step := 50, acked := false, why := .ctl }, [], by
    repeat' apply And.intro
    all_goals first | rfl | decide | exact Or.inl rfl | exact Or.inr rfl | (unfold JobFree; decide) | omega | simp⟩

theorem witness_RailsAndPllsOfAWake_9 : ∃ (b : Fin 2) (s : State) (op : AvsOp) (rest : List AvsOp), avsQ s b = op :: rest ∧
    op.acked = true ∧ ((op.why = .ctl ∨ op.why = .firmware)) :=
  ⟨0, setAvsQ 0 [{ rail := 1, target := 780, step := 50, acked := true, why := .firmware }] State.reset,
    { rail := 1, target := 780, step := 50, acked := true, why := .firmware }, [], by
    repeat' apply And.intro
    all_goals first | rfl | decide | exact Or.inl rfl | exact Or.inr rfl | (unfold JobFree; decide) | omega | simp⟩

theorem witness_RailsAndPllsOfAWake_10 : ∃ (k : Fin 6) (s : State),
    mvOf s (if k.val = 0 then 0 else if k.val = 5 then 2 else 1) ≠ 0 :=
  ⟨5, { State.reset with gh := { mv := [0, 0, 780] } }, by
    repeat' apply And.intro
    all_goals first | rfl | decide | exact Or.inl rfl | exact Or.inr rfl | (unfold JobFree; decide) | omega | simp⟩

theorem witness_RailsAndPllsOfAWake_11 : ∃ (k : Fin 6) (s : State),
    mvOf s (if k.val = 0 then 0 else if k.val = 5 then 2 else 1) = 0 :=
  ⟨5, State.reset, by
    repeat' apply And.intro
    all_goals first | rfl | decide | exact Or.inl rfl | exact Or.inr rfl | (unfold JobFree; decide) | omega | simp⟩

theorem witness_RailsAndPllsOfAWake_12 : ∃ (k : Fin 6) (s : State) (fw : Bool) (n : Nat),
    ((s.ghx.trans = .wake fw .plls n ∨ (s.ghx.trans = .wake fw .pll0 n ∧ k = 0))) ∧ s.ghx.pllLocked.getLsbD k = false :=
  ⟨0, { State.reset with ghx := { trans := .wake true .pll0 0 } }, true, 0, ⟨.inr ⟨rfl, rfl⟩, by decide⟩⟩

theorem witness_RailsAndPllsOfAWake_13 : ∃ (s : State) (fw : Bool) (n : Nat), s.ghx.trans = .wake fw .retryWait n :=
  ⟨{ State.reset with ghx := { trans := .wake true .retryWait 2 } }, true, 2, by
    repeat' apply And.intro
    all_goals first | rfl | decide | exact Or.inl rfl | exact Or.inr rfl | (unfold JobFree; decide) | omega | simp⟩

theorem witness_ResetsAndBoot_1 : ∃ (s : State), s.jrn.compacting = false ∧ lodgePowered s = true :=
  ⟨State.reset, by
    repeat' apply And.intro
    all_goals first | rfl | decide | exact Or.inl rfl | exact Or.inr rfl | (unfold JobFree; decide) | omega | simp⟩

theorem witness_ResetsAndBoot_2 : ∃ (s : State), ((s.jrn.compacting = true ∨ lodgePowered s = false)) :=
  ⟨{ State.reset with jrn := { compacting := true } }, by
    repeat' apply And.intro
    all_goals first | rfl | decide | exact Or.inl rfl | exact Or.inr rfl | (unfold JobFree; decide) | omega | simp⟩

theorem witness_ResetsAndBoot_3 : ∃ (s : State), s.ghx.pendingReset = true ∧ jobRuns s 0x0104 = false :=
  ⟨{ State.reset with ghx := { pendingReset := true } }, by
    repeat' apply And.intro
    all_goals first | rfl | decide | exact Or.inl rfl | exact Or.inr rfl | (unfold JobFree; decide) | omega | simp⟩

theorem witness_ResetsAndBoot_4 : ∃ (s : State) (n : Nat), s.ghx.boot = .powerOn ∧ s.ghx.trans = .wake false .boot n ∧
    s.gh.rstStrap = false ∧ (bootSlot s s.sec.running).bodyOk = true :=
  ⟨{ State.reset with ghx := { boot := .powerOn, trans := .wake false .boot 0 } }, 0, by
    repeat' apply And.intro
    all_goals first | rfl | decide | exact Or.inl rfl | exact Or.inr rfl | (unfold JobFree; decide) | omega | simp⟩

theorem witness_ResetsAndBoot_5 : ∃ (s : State) (n : Nat) (ok : Bool), s.ghx.boot = .powerOn ∧
    s.ghx.trans = .wake false .boot n ∧ s.gh.rstStrap = false ∧ (ok && (bootSlot s s.sec.running).bodyOk) = false :=
  ⟨{ State.reset with ghx := { boot := .powerOn, trans := .wake false .boot 0 } }, 0, false, by
    repeat' apply And.intro
    all_goals first | rfl | decide | exact Or.inl rfl | exact Or.inr rfl | (unfold JobFree; decide) | omega | simp⟩

theorem witness_ResetsAndBoot_6 : ∃ (s : State), s.kiosk.lodgeReady = true ∧ ((s.pair.state = 3 ∨ s.pair.state = 4)) :=
  ⟨{ State.reset with kiosk := { lodgeReady := true }, pair := { state := 4 } }, by
    repeat' apply And.intro
    all_goals first | rfl | decide | exact Or.inl rfl | exact Or.inr rfl | (unfold JobFree; decide) | omega | simp⟩

theorem witness_PowerFailAndRestart_1 : ∃ (s : State), s.jrn.compacting = false ∧ s.gh.state = .serve ∧ s.ghx.boot = .none ∧
    s.ghx.trans = .none ∧ s.jrn.restart = .none :=
  ⟨wSrv, by
    repeat' apply And.intro
    all_goals first | rfl | decide | exact Or.inl rfl | exact Or.inr rfl | (unfold JobFree; decide) | omega | simp⟩

theorem witness_PowerFailAndRestart_2 : ∃ (s : State), s.jrn.compacting = false ∧ s.gh.state = .watch ∧ s.ghx.boot = .none ∧
    s.ghx.trans = .none ∧ s.jrn.restart = .none :=
  ⟨{ State.reset with gh := { state := .watch } }, by
    repeat' apply And.intro
    all_goals first | rfl | decide | exact Or.inl rfl | exact Or.inr rfl | (unfold JobFree; decide) | omega | simp⟩

theorem witness_PowerFailAndRestart_3 : ∃ (s : State),
    ((s.jrn.compacting = true ∨ s.gh.state = .icehouse ∨ (s.gh.state = .dormant ∧ s.ghx.boot = .none ∧ s.ghx.trans = .none ∧
    s.jrn.restart = .none))) :=
  ⟨{ State.reset with gh := { state := .icehouse } }, .inr (.inl rfl)⟩

theorem witness_PowerFailAndRestart_4 : ∃ (s : State), s.jrn.compacting = true :=
  ⟨{ State.reset with jrn := { compacting := true } }, by
    repeat' apply And.intro
    all_goals first | rfl | decide | exact Or.inl rfl | exact Or.inr rfl | (unfold JobFree; decide) | omega | simp⟩

theorem witness_PowerFailAndRestart_5 : ∃ (s : State), s.gh.state = .icehouse :=
  ⟨{ State.reset with gh := { state := .icehouse } }, by
    repeat' apply And.intro
    all_goals first | rfl | decide | exact Or.inl rfl | exact Or.inr rfl | (unfold JobFree; decide) | omega | simp⟩

theorem witness_PowerFailAndRestart_6 : ∃ (s : State), s.gh.state = .serve :=
  ⟨wSrv, by
    repeat' apply And.intro
    all_goals first | rfl | decide | exact Or.inl rfl | exact Or.inr rfl | (unfold JobFree; decide) | omega | simp⟩

theorem witness_PowerFailAndRestart_7 : ∃ (s : State), ((s.jrn.compacting = true ∨ s.gh.state = .icehouse)) :=
  ⟨{ State.reset with gh := { state := .icehouse } }, by
    repeat' apply And.intro
    all_goals first | rfl | decide | exact Or.inl rfl | exact Or.inr rfl | (unfold JobFree; decide) | omega | simp⟩

theorem witness_PowerFailAndRestart_8 : ∃ (s : State), s.gh.state ≠ .icehouse ∧ s.jrn.compacting = false :=
  ⟨wSrv, by
    repeat' apply And.intro
    all_goals first | rfl | decide | exact Or.inl rfl | exact Or.inr rfl | (unfold JobFree; decide) | omega | simp⟩

theorem witness_PowerFailAndRestart_9 : ∃ (s : State), s.jrn.restart = .peerWait true :=
  ⟨{ State.reset with jrn := { restart := .peerWait true } }, by
    repeat' apply And.intro
    all_goals first | rfl | decide | exact Or.inl rfl | exact Or.inr rfl | (unfold JobFree; decide) | omega | simp⟩

theorem witness_PowerFailAndRestart_10 : ∃ (s : State), s.jrn.restart = .peerWait false :=
  ⟨{ State.reset with jrn := { restart := .peerWait false } }, by
    repeat' apply And.intro
    all_goals first | rfl | decide | exact Or.inl rfl | exact Or.inr rfl | (unfold JobFree; decide) | omega | simp⟩

theorem witness_PowerFailAndRestart_11 : ∃ (s : State), s.jrn.restart = .replay :=
  ⟨{ State.reset with jrn := { restart := .replay } }, by
    repeat' apply And.intro
    all_goals first | rfl | decide | exact Or.inl rfl | exact Or.inr rfl | (unfold JobFree; decide) | omega | simp⟩

theorem witness_FootbridgeMessagesAndPorts_1 : ∃ (m : HelloMsg) (s : State), s.pair.hello ≠ some m :=
  ⟨wHello, State.reset, by
    repeat' apply And.intro
    all_goals first | rfl | decide | exact Or.inl rfl | exact Or.inr rfl | (unfold JobFree; decide) | omega | simp⟩

theorem witness_FootbridgeMessagesAndPorts_2 : ∃ (m : HelloMsg) (s : State), s.pair.hello = some m ∧
    m.serial = s.pair.peerSerial ∧ m.generation = s.pair.peerGen :=
  ⟨wHello, { State.reset with pair := { hello := some wHello, peerSerial := zeros 16, peerGen := 1 } }, by
    repeat' apply And.intro
    all_goals first | rfl | decide | exact Or.inl rfl | exact Or.inr rfl | (unfold JobFree; decide) | omega | simp⟩

theorem witness_FootbridgeMessagesAndPorts_3 : ∃ (n : Fin 4) (m : HbMsg) (s : State) (u : State), s.ftb.hbRx < m.counter ∧
    (fportOf s n).aligned = true ∧ m.recordGen ≤ s.pair.arr.gen ∧
    u = { s with ftb := { s.ftb with hbRx := m.counter, peerHb := some m }, pair := { s.pair with msgLive := true, msgHeld := false, peerGen := m.generation, genHeard := max s.pair.genHeard m.recordGen } } ∧
    (fportOf s n).up = true :=
  ⟨3, wHb, { State.reset with ftb := { ports := [(3, { aligned := true, up := true })] } }, _, ⟨by decide, rfl, by decide,
    rfl, rfl⟩⟩

theorem witness_FootbridgeMessagesAndPorts_4 : ∃ (n : Fin 4) (m : HbMsg) (s : State) (u : State), s.ftb.hbRx < m.counter ∧
    (fportOf s n).aligned = true ∧ m.recordGen ≤ s.pair.arr.gen ∧
    u = { s with ftb := { s.ftb with hbRx := m.counter, peerHb := some m }, pair := { s.pair with msgLive := true, msgHeld := false, peerGen := m.generation, genHeard := max s.pair.genHeard m.recordGen } } ∧
    (fportOf s n).up = false ∧ s.pair.paired = true :=
  ⟨3, wHb, { State.reset with ftb := { ports := [(3, { aligned := true })] }, pair := { paired := true } }, _, ⟨by decide,
    rfl, by decide, rfl, rfl, rfl⟩⟩

theorem witness_FootbridgeMessagesAndPorts_5 : ∃ (n : Fin 4) (m : HbMsg) (s : State),
    ((m.counter ≤ s.ftb.hbRx ∨ (fportOf s n).aligned = false)) :=
  ⟨3, wHb, State.reset, by
    repeat' apply And.intro
    all_goals first | rfl | decide | exact Or.inl rfl | exact Or.inr rfl | (unfold JobFree; decide) | omega | simp⟩

theorem witness_FootbridgeMessagesAndPorts_6 : ∃ (id : Nat) (_recs : List JRec) (s : State), receipted s id = false ∧
    takesMirror s = true :=
  ⟨1, [], { State.reset with pair := { state := 3 } }, by
    repeat' apply And.intro
    all_goals first | rfl | decide | exact Or.inl rfl | exact Or.inr rfl | (unfold JobFree; decide) | omega | simp⟩

theorem witness_FootbridgeMessagesAndPorts_7 : ∃ (id : Nat) (_recs : List JRec) (s : State), receipted s id = false ∧
    takesMirror s = false :=
  ⟨1, [], State.reset, by
    repeat' apply And.intro
    all_goals first | rfl | decide | exact Or.inl rfl | exact Or.inr rfl | (unfold JobFree; decide) | omega | simp⟩

theorem witness_FootbridgeMessagesAndPorts_8 : ∃ (id : Nat) (_recs : List JRec) (s : State), receipted s id = false ∧
    s.jrn.restart = .none :=
  ⟨1, [], State.reset, by
    repeat' apply And.intro
    all_goals first | rfl | decide | exact Or.inl rfl | exact Or.inr rfl | (unfold JobFree; decide) | omega | simp⟩

theorem witness_FootbridgeMessagesAndPorts_9 : ∃ (r : JRec) (s : State) (v : Nat) (c : Nat) (e : Bytes) (p : Bytes),
    r.body = .chunk v c e p ∧ s.jrn.mirror.any (fun x => decide (x = r)) = false :=
  ⟨{ off := 0, asn := 1, unit := 0, units := 1, epoch := 0, len := 64, last := true, replayed := false, check := 0, body := .chunk 1 0 [] [] },
    State.reset, 1, 0, [], [], by
    repeat' apply And.intro
    all_goals first | rfl | decide | exact Or.inl rfl | exact Or.inr rfl | (unfold JobFree; decide) | omega | simp⟩

theorem witness_FootbridgeMessagesAndPorts_10 : ∃ (id : Nat) (_recs : List JRec) (s : State), receipted s id = true :=
  ⟨5, [], { State.reset with ftb := { rxCum := 5 } }, by
    repeat' apply And.intro
    all_goals first | rfl | decide | exact Or.inl rfl | exact Or.inr rfl | (unfold JobFree; decide) | omega | simp⟩

theorem witness_FootbridgeMessagesAndPorts_11 : ∃ (id : Nat) (_r : JRec) (s : State), receipted s id = false ∧
    s.jrn.restart ≠ .none ∧ s.jrn.own = [] :=
  ⟨1, { off := 0, asn := 1, unit := 0, units := 1, epoch := 0, len := 64, last := true, replayed := false, check := 0, body := .abort },
    { State.reset with jrn := { restart := .peerWait true } }, by
    repeat' apply And.intro
    all_goals first | rfl | decide | exact Or.inl rfl | exact Or.inr rfl | (unfold JobFree; decide) | omega | simp⟩

theorem witness_FootbridgeMessagesAndPorts_12 : ∃ (id : Nat) (cum : Nat) (m : FMsg) (s : State), s.ftb.sent = [(id, m)] ∧
    id ≤ cum ∧ m.type = 3 ∧ s.pair.taking = none ∧ s.pair.lossB = false :=
  ⟨5, 5, { type := 3, len := 64, segs := [], offs := [0], body := .mirror 5 [] },
    { State.reset with ftb := { sent := [(5, { type := 3, len := 64, segs := [], offs := [0], body := .mirror 5 [] })] } }, by
    repeat' apply And.intro
    all_goals first | rfl | decide | exact Or.inl rfl | exact Or.inr rfl | (unfold JobFree; decide) | omega | simp⟩

theorem witness_FootbridgeMessagesAndPorts_13 : ∃ (_cum : Nat) (_ranges : List (Nat × Nat)) (s : State), s.pair.lossB = true :=
  ⟨5, [], { State.reset with pair := { lossB := true } }, by
    repeat' apply And.intro
    all_goals first | rfl | decide | exact Or.inl rfl | exact Or.inr rfl | (unfold JobFree; decide) | omega | simp⟩

theorem witness_FootbridgeMessagesAndPorts_14 : ∃ (_pc : Fin 4 × Fin 2) (id : Nat) (first : Nat) (_last : Nat) (m : FMsg) (s : State),
    tget s.ftb.sent id = some m ∧ upPorts s ≠ [] ∧ first < m.len :=
  ⟨(3, 1), 5, 63, 63, { type := 3, len := 64, segs := [], offs := [0], body := .mirror 5 [] },
    { State.reset with ftb := { sent := [(5, { type := 3, len := 64, segs := [], offs := [0], body := .mirror 5 [] })], ports := [(3, { up := true })] } },
    by
    repeat' apply And.intro
    all_goals first | rfl | decide | exact Or.inl rfl | exact Or.inr rfl | (unfold JobFree; decide) | omega | simp⟩

theorem witness_FootbridgeMessagesAndPorts_15 : ∃ (_pc : Fin 4 × Fin 2) (id : Nat) (_first : Nat) (_last : Nat) (m : FMsg) (s : State),
    tget s.ftb.sent id = some m ∧ upPorts s ≠ [] ∧ 0 < m.len :=
  ⟨(3, 0), 5, 0, 63, { type := 3, len := 64, segs := [], offs := [0], body := .mirror 5 [] },
    { State.reset with ftb := { sent := [(5, { type := 3, len := 64, segs := [], offs := [0], body := .mirror 5 [] })], ports := [(3, { up := true })] } },
    by
    repeat' apply And.intro
    all_goals first | rfl | decide | exact Or.inl rfl | exact Or.inr rfl | (unfold JobFree; decide) | omega | simp⟩

theorem witness_FootbridgeMessagesAndPorts_16 : ∃ (_port : Fin 4) (_cls : Fin 2) (id : Nat) (_first : Nat) (_last : Nat) (m : FMsg) (s : State),
    s.ftb.sent = [(id, m)] :=
  ⟨3, 1, 5, 0, 63, { type := 3, len := 64, segs := [], offs := [0], body := .mirror 5 [] },
    { State.reset with ftb := { sent := [(5, { type := 3, len := 64, segs := [], offs := [0], body := .mirror 5 [] })], ports := [(3, { up := true })] } },
    by
    repeat' apply And.intro
    all_goals first | rfl | decide | exact Or.inl rfl | exact Or.inr rfl | (unfold JobFree; decide) | omega | simp⟩

theorem witness_FootbridgeMessagesAndPorts_17 : ∃ (port : Fin 4) (seq : Nat) (id : Nat) (_off : Nat) (_len : Nat) (_total : Option Nat) (s : State),
    receipted s id = false ∧ (fportOf s port).rxMir = seq ∧ seq < 2 ^ 32 ∧ tget s.ftb.rx id = none :=
  ⟨3, 2 ^ 32 - 1, 1, 0, 64, some 64, { State.reset with ftb := { ports := [(3, { up := true, rxMir := 2 ^ 32 - 1 })] } }, by
    repeat' apply And.intro
    all_goals first | rfl | decide | exact Or.inl rfl | exact Or.inr rfl | (unfold JobFree; decide) | omega | simp⟩

theorem witness_FootbridgeMessagesAndPorts_18 : ∃ (id : Nat) (x : FRx) (s : State), tget s.ftb.rx id = some x ∧
    missing x.placed (x.total.getD 16777216) ≠ [] :=
  ⟨1, { type := 3, placed := [(0, 64)], total := some 65 },
    { State.reset with ftb := { rx := [(1, { type := 3, placed := [(0, 64)], total := some 65 })] } }, by
    repeat' apply And.intro
    all_goals first | rfl | decide | exact Or.inl rfl | exact Or.inr rfl | (unfold JobFree; decide) | omega | simp⟩

theorem witness_FootbridgeMessagesAndPorts_19 : ∃ (n : Fin 4) (s : State) (p : FPort), fportOf s n = p ∧ p.up = true ∧
    s.ftb.sent = [] :=
  ⟨3, { State.reset with ftb := { ports := [(3, { up := true })] } }, { up := true }, by
    repeat' apply And.intro
    all_goals first | rfl | decide | exact Or.inl rfl | exact Or.inr rfl | (unfold JobFree; decide) | omega | simp⟩

theorem witness_FootbridgeMessagesAndPorts_20 : ∃ (n : Fin 4) (s : State),
    (s.ghx.board.map (fun b => b.ftbWired.getLsbD n)).getD false = true ∧ asleep s = false :=
  ⟨3,
    { State.reset with ghx := { board := some { serial := [], holdUpMj := 0, keepMw := 0, tjLimit := 100, ddrMax := 0, dimmSlots := 0, ftbWired := 15, hostSets := 0, shelves := 0, gpioUse := [] } }, gh := { state := .serve } },
    by
    repeat' apply And.intro
    all_goals first | rfl | decide | exact Or.inl rfl | exact Or.inr rfl | (unfold JobFree; decide) | omega | simp⟩

theorem witness_FootbridgeMessagesAndPorts_21 : ∃ (n : Fin 4) (s : State), (fportOf s n).up = false ∧ s.pair.msgHeld = false :=
  ⟨3, State.reset, by
    repeat' apply And.intro
    all_goals first | rfl | decide | exact Or.inl rfl | exact Or.inr rfl | (unfold JobFree; decide) | omega | simp⟩

theorem witness_FootbridgeMessagesAndPorts_22 : ∃ (s : State), (fportOf s 0).aligned = true ∧ ((∀ n,
    1 ≤ n → n < 4 → (fportOf s n).aligned = false)) :=
  ⟨{ State.reset with ftb := { ports := [(0, { aligned := true })] } }, by
    refine ⟨rfl, fun n h1 h4 => ?_⟩
    have h : n = 1 ∨ n = 2 ∨ n = 3 := by omega
    rcases h with rfl | rfl | rfl <;> rfl⟩

theorem witness_FootbridgeMessagesAndPorts_23 : ∃ (s : State), s.ghx.kicks ≠ 0 ∧ asleep s = false :=
  ⟨{ wSrv with ghx := { kicks := 1 } }, by
    repeat' apply And.intro
    all_goals first | rfl | decide | exact Or.inl rfl | exact Or.inr rfl | (unfold JobFree; decide) | omega | simp⟩

theorem witness_FootbridgeMessagesAndPorts_24 : ∃ (s : State), ((s.ghx.kicks = 0 ∨ asleep s = true)) :=
  ⟨State.reset, by
    repeat' apply And.intro
    all_goals first | rfl | decide | exact Or.inl rfl | exact Or.inr rfl | (unfold JobFree; decide) | omega | simp⟩

theorem witness_LossFenceAndTakeover_1 : ∃ (s : State) (u : State),
    u = { s with pair := { s.pair with pinLive := false }, ghx := { s.ghx with peerHb := false } } ∧ noPortUp s = false ∧
    s.pair.paired = true :=
  ⟨{ State.reset with ftb := { ports := [(3, { up := true })] }, pair := { paired := true } }, _, ⟨rfl, by decide, rfl⟩⟩

theorem witness_LossFenceAndTakeover_2 : ∃ (s : State) (u : State),
    u = { s with pair := { s.pair with pinLive := false }, ghx := { s.ghx with peerHb := false } } ∧ noPortUp s = true :=
  ⟨State.reset, _, ⟨rfl, by decide⟩⟩

theorem witness_LossFenceAndTakeover_3 : ∃ (s : State), noPortUp s = true ∧ mayDeclare s = true ∧ s.pair.pinLive = false ∧
    roleOf s = .a :=
  ⟨wWhole .a, by
    repeat' apply And.intro
    all_goals first | rfl | decide | exact Or.inl rfl | exact Or.inr rfl | (unfold JobFree; decide) | omega | simp⟩

theorem witness_LossFenceAndTakeover_4 : ∃ (s : State), noPortUp s = true ∧ mayDeclare s = true ∧ s.pair.pinLive = false ∧
    roleOf s = .b :=
  ⟨wWhole .b, by
    repeat' apply And.intro
    all_goals first | rfl | decide | exact Or.inl rfl | exact Or.inr rfl | (unfold JobFree; decide) | omega | simp⟩

theorem witness_LossFenceAndTakeover_5 : ∃ (s : State), s.pair.msgHeld = true ∧ noPortUp s = true ∧ s.pair.pinLive = true ∧
    mayDeclare s = true ∧ roleOf s = .a :=
  ⟨{ wWhole .a with pair := { (wWhole .a).pair with msgHeld := true, pinLive := true } }, by
    repeat' apply And.intro
    all_goals first | rfl | decide | exact Or.inl rfl | exact Or.inr rfl | (unfold JobFree; decide) | omega | simp⟩

theorem witness_LossFenceAndTakeover_6 : ∃ (s : State), s.pair.msgHeld = true ∧ noPortUp s = true ∧ s.pair.pinLive = true ∧
    mayDeclare s = true ∧ roleOf s = .b :=
  ⟨{ wWhole .b with pair := { (wWhole .b).pair with msgHeld := true, pinLive := true } }, by
    repeat' apply And.intro
    all_goals first | rfl | decide | exact Or.inl rfl | exact Or.inr rfl | (unfold JobFree; decide) | omega | simp⟩

theorem witness_LossFenceAndTakeover_7 : ∃ (s : State), s.pair.lossB = true ∧ mayDeclare s = true :=
  ⟨{ wWhole .b with pair := { (wWhole .b).pair with lossB := true } }, by
    repeat' apply And.intro
    all_goals first | rfl | decide | exact Or.inl rfl | exact Or.inr rfl | (unfold JobFree; decide) | omega | simp⟩

theorem witness_LossFenceAndTakeover_8 : ∃ (s : State), mayDeclare s = false :=
  ⟨State.reset, by
    repeat' apply And.intro
    all_goals first | rfl | decide | exact Or.inl rfl | exact Or.inr rfl | (unfold JobFree; decide) | omega | simp⟩

theorem witness_LossFenceAndTakeover_9 : ∃ (s : State), s.ghx.fenceIn = false ∧ s.pair.fenced = false :=
  ⟨wWhole .b, by
    repeat' apply And.intro
    all_goals first | rfl | decide | exact Or.inl rfl | exact Or.inr rfl | (unfold JobFree; decide) | omega | simp⟩

theorem witness_LossFenceAndTakeover_10 : ∃ (s : State), s.pair.fenced = false ∧ ((s.ghx.fenceOut = false ∨ roleOf s = .b)) ∧
    s.ghx.trans = .none ∧ s.pair.handover = none :=
  ⟨wWhole .b, by
    repeat' apply And.intro
    all_goals first | rfl | decide | exact Or.inl rfl | exact Or.inr rfl | (unfold JobFree; decide) | omega | simp⟩

theorem witness_LossFenceAndTakeover_11 : ∃ (s : State), s.pair.fenced = true :=
  ⟨{ State.reset with pair := { fenced := true } }, by
    repeat' apply And.intro
    all_goals first | rfl | decide | exact Or.inl rfl | exact Or.inr rfl | (unfold JobFree; decide) | omega | simp⟩

theorem witness_LossFenceAndTakeover_12 : ∃ (s : State), ((s.pair.fenced = true ∨ (s.ghx.fenceOut = true ∧ roleOf s = .a))) :=
  ⟨{ State.reset with ghx := { fenceOut := true } }, .inr ⟨rfl, rfl⟩⟩

theorem witness_LossFenceAndTakeover_13 : ∃ (s : State), s.pair.fenced = false :=
  ⟨State.reset, by
    repeat' apply And.intro
    all_goals first | rfl | decide | exact Or.inl rfl | exact Or.inr rfl | (unfold JobFree; decide) | omega | simp⟩

theorem witness_LossFenceAndTakeover_14 : ∃ (s : State), s.pair.takeover = 4 :=
  ⟨{ State.reset with pair := { takeover := 4 } }, by
    repeat' apply And.intro
    all_goals first | rfl | decide | exact Or.inl rfl | exact Or.inr rfl | (unfold JobFree; decide) | omega | simp⟩

theorem witness_LossFenceAndTakeover_15 : ∃ (s : State), s.pair.takeover = 6 :=
  ⟨{ State.reset with pair := { takeover := 6 } }, by
    repeat' apply And.intro
    all_goals first | rfl | decide | exact Or.inl rfl | exact Or.inr rfl | (unfold JobFree; decide) | omega | simp⟩

theorem witness_HandoverFailbackAndPairing_1 : ∃ (_vols : List Nat) (s : State), s.pair.fenced = false ∧ s.pair.state = 3 :=
  ⟨[65535], { State.reset with pair := { state := 3 } }, by
    repeat' apply And.intro
    all_goals first | rfl | decide | exact Or.inl rfl | exact Or.inr rfl | (unfold JobFree; decide) | omega | simp⟩

theorem witness_HandoverFailbackAndPairing_2 : ∃ (_m : HandoverMsg) (s : State), ((s.pair.fenced = true ∨ s.pair.state ≠ 3)) :=
  ⟨.relinquish [], { State.reset with pair := { state := 1 } }, by
    repeat' apply And.intro
    all_goals first | rfl | decide | exact Or.inl rfl | exact Or.inr rfl | (unfold JobFree; decide) | omega | simp⟩

theorem witness_HandoverFailbackAndPairing_3 : ∃ (s : State) (h : Handover), s.pair.handover = some h ∧ h.step = 1 ∧
    s.jrn.epoch.step = 0 ∧ volsReleased s h.volumes = true ∧ s.pair.taking = none :=
  ⟨{ State.reset with pair := { handover := some { volumes := [1], fence := true, opcode := 0, job := none } } },
    { volumes := [1], fence := true, opcode := 0, job := none }, by
    repeat' apply And.intro
    all_goals first | rfl | decide | exact Or.inl rfl | exact Or.inr rfl | (unfold JobFree; decide) | omega | simp⟩

theorem witness_HandoverFailbackAndPairing_4 : ∃ (s : State) (vols : List Nat), s.pair.handover = none ∧
    s.pair.taking = some (vols, 0) ∧ mirrorHolds s vols = false :=
  ⟨{ State.reset with pair := { taking := some ([1], 0) } }, [1], by
    repeat' apply And.intro
    all_goals first | rfl | decide | exact Or.inl rfl | exact Or.inr rfl | (unfold JobFree; decide) | omega | simp⟩

theorem witness_HandoverFailbackAndPairing_5 : ∃ (s : State), s.pair.state = 2 ∧ s.pair.failStep = 2 ∧ s.pair.resyncs = [] :=
  ⟨{ State.reset with pair := { state := 2, failStep := 2 } }, by
    repeat' apply And.intro
    all_goals first | rfl | decide | exact Or.inl rfl | exact Or.inr rfl | (unfold JobFree; decide) | omega | simp⟩

theorem witness_HandoverFailbackAndPairing_6 : ∃ (s : State), s.pair.state = 2 ∧ s.pair.failStep = 2 ∧ s.pair.resyncs = [] ∧
    s.plc.open_ = [] :=
  ⟨{ State.reset with pair := { state := 2, failStep := 2 } }, by
    repeat' apply And.intro
    all_goals first | rfl | decide | exact Or.inl rfl | exact Or.inr rfl | (unfold JobFree; decide) | omega | simp⟩

theorem witness_HandoverFailbackAndPairing_7 : ∃ (s : State), s.pair.state = 2 ∧ s.pair.failStep = 4 ∧ peerHolds s = true :=
  ⟨{ State.reset with pair := { state := 2, failStep := 4 } }, by
    repeat' apply And.intro
    all_goals first | rfl | decide | exact Or.inl rfl | exact Or.inr rfl | (unfold JobFree; decide) | omega | simp⟩

theorem witness_HandoverFailbackAndPairing_8 : ∃ (s : State), peerHolds s = false :=
  ⟨{ State.reset with pair := { resyncs := [1] } }, by
    repeat' apply And.intro
    all_goals first | rfl | decide | exact Or.inl rfl | exact Or.inr rfl | (unfold JobFree; decide) | omega | simp⟩

theorem witness_HandoverFailbackAndPairing_9 : ∃ (s : State) (k : Nat) (mode : Nat), s.pair.job = some (k, mode) ∧
    noPortUp s = true :=
  ⟨{ State.reset with pair := { job := some (0, 2) } }, 0, 2, by
    repeat' apply And.intro
    all_goals first | rfl | decide | exact Or.inl rfl | exact Or.inr rfl | (unfold JobFree; decide) | omega | simp⟩

theorem witness_HandoverFailbackAndPairing_10 : ∃ (s : State) (w : Bytes × Nat), s.pair.window = some w ∧
    ((s.pair.peerGen = 1 ∨ s.pair.peerGen = 0 ∨ s.pair.state ≠ 3)) :=
  ⟨{ State.reset with pair := { window := some (leN 16 7, 86400), peerGen := 1 } }, (leN 16 7, 86400), by
    repeat' apply And.intro
    all_goals first | rfl | decide | exact Or.inl rfl | exact Or.inr rfl | (unfold JobFree; decide) | omega | simp⟩

theorem witness_HandoverFailbackAndPairing_11 : ∃ (s : State) (w : Bytes × Nat), s.pair.window = some w ∧ s.pair.peerGen ≠ 1 ∧
    s.pair.peerGen ≠ 0 ∧ s.pair.state = 3 :=
  ⟨{ State.reset with pair := { window := some (leN 16 7, 86400), peerGen := 2, state := 3 } }, (leN 16 7, 86400), by
    repeat' apply And.intro
    all_goals first | rfl | decide | exact Or.inl rfl | exact Or.inr rfl | (unfold JobFree; decide) | omega | simp⟩

theorem witness_HandoverFailbackAndPairing_12 : ∃ (r : ArrayRec) (s : State), s.pair.arr.gen ≤ r.gen :=
  ⟨{ gen := 4 }, { State.reset with pair := { arr := { gen := 4 } } }, by
    repeat' apply And.intro
    all_goals first | rfl | decide | exact Or.inl rfl | exact Or.inr rfl | (unfold JobFree; decide) | omega | simp⟩

theorem witness_HandoverFailbackAndPairing_13 : ∃ (r : ArrayRec) (s : State), s.pair.arr.gen ≤ r.gen ∧ s.pair.arr.rels = [] :=
  ⟨{ gen := 4 }, { State.reset with pair := { arr := { gen := 4 } } }, by
    repeat' apply And.intro
    all_goals first | rfl | decide | exact Or.inl rfl | exact Or.inr rfl | (unfold JobFree; decide) | omega | simp⟩

theorem witness_HandoverFailbackAndPairing_14 : ∃ (r : ArrayRec) (s : State), r.gen < s.pair.arr.gen :=
  ⟨{ gen := 3 }, { State.reset with pair := { arr := { gen := 4 } } }, by
    repeat' apply And.intro
    all_goals first | rfl | decide | exact Or.inl rfl | exact Or.inr rfl | (unfold JobFree; decide) | omega | simp⟩

theorem witness_ReplicationMessages_1 : ∃ (n : Fin 16384) (_tag : Fin 32) (m : ReplMsg) (r : ReplRec) (v : RelRun) (s : State),
    tget s.pair.arr.rels m.relationship = some r ∧ r.source = false ∧ (qpOf s n).st = .open_ ∧ (qpOf s n).pd = r.pd ∧
    servesRel s r = true ∧ m.checkOk = true ∧ relOf s m.relationship = v ∧ m.batch = v.batch ∧ m.batch ≠ v.applied ∧
    m.msgNo = v.durable + 1 ∧ v.storing = none ∧ v.endWait = none :=
  ⟨16383, 31,
    { relationship := 1023, batch := 2, msgNo := 1, sourceEpoch := 0, sourceArray := [], checkOk := true, records := [] },
    { wRec with source := false }, { batch := 2 },
    wQp 16383 { st := .open_ } { wRel 1023 { wRec with source := false } with rep := { rels := [(1023, { batch := 2 })] } },
    by
    repeat' apply And.intro
    all_goals first | rfl | decide | exact Or.inl rfl | exact Or.inr rfl | (unfold JobFree; decide) | omega | simp⟩

theorem witness_ReplicationMessages_2 : ∃ (n : Fin 16384) (_tag : Fin 32) (m : ReplMsg) (r : ReplRec) (s : State),
    tget s.pair.arr.rels m.relationship = some r ∧ r.source = false ∧ (qpOf s n).st = .open_ ∧ (qpOf s n).pd = r.pd ∧
    servesRel s r = false :=
  ⟨16383, 31,
    { relationship := 7, batch := 1, msgNo := 1, sourceEpoch := 0, sourceArray := [], checkOk := true, records := [] },
    { wRec with source := false, vols := [(65535, 9)] },
    { State.reset with pair := { role := some .b, state := 3, paired := true, arr := { rels := [(7, { wRec with source := false, vols := [(65535, 9)] })], volumes := [(65535, wVRec)] } }, lat := { qps := [(16383, { st := .open_ })] } },
    by
    repeat' apply And.intro
    all_goals first | rfl | decide | exact Or.inl rfl | exact Or.inr rfl | (unfold JobFree; decide) | omega | simp⟩

theorem witness_ReplicationMessages_3 : ∃ (n : Fin 16384) (_tag : Fin 32) (m : ReplMsg) (r : ReplRec) (s : State),
    tget s.pair.arr.rels m.relationship = some r ∧ r.source = false ∧ (qpOf s n).st = .open_ ∧ (qpOf s n).pd = r.pd ∧
    servesRel s r = true ∧ m.checkOk = false :=
  ⟨16383, 31,
    { relationship := 7, batch := 1, msgNo := 1, sourceEpoch := 0, sourceArray := [], checkOk := false, records := [] },
    { wRec with source := false },
    { wRel 7 { wRec with source := false } with lat := { qps := [(16383, { st := .open_ })] } }, by
    repeat' apply And.intro
    all_goals first | rfl | decide | exact Or.inl rfl | exact Or.inr rfl | (unfold JobFree; decide) | omega | simp⟩

theorem witness_ReplicationMessages_4 : ∃ (n : Fin 16384) (_tag : Fin 32) (m : ReplMsg) (r : ReplRec) (s : State),
    tget s.pair.arr.rels m.relationship = some r ∧ r.source = false ∧ (qpOf s n).st = .open_ ∧ (qpOf s n).pd = r.pd ∧
    servesRel s r = true ∧ m.checkOk = true ∧ m.batch = (relOf s m.relationship).applied ∧
    (relOf s m.relationship).endWait = none :=
  ⟨16383, 31,
    { relationship := 7, batch := 3, msgNo := 1, sourceEpoch := 0, sourceArray := [], checkOk := true, records := [] },
    { wRec with source := false },
    { wRel 7 { wRec with source := false } with lat := { qps := [(16383, { st := .open_ })] }, rep := { rels := [(7, { applied := 3 })] } },
    by
    repeat' apply And.intro
    all_goals first | rfl | decide | exact Or.inl rfl | exact Or.inr rfl | (unfold JobFree; decide) | omega | simp⟩

theorem witness_ReplicationMessages_5 : ∃ (_n : Fin 16384) (_tag : Fin 32) (m : ReplMsg) (s : State),
    tget s.pair.arr.rels m.relationship = none :=
  ⟨16383, 31,
    { relationship := 7, batch := 1, msgNo := 1, sourceEpoch := 0, sourceArray := [], checkOk := true, records := [] },
    State.reset, by
    repeat' apply And.intro
    all_goals first | rfl | decide | exact Or.inl rfl | exact Or.inr rfl | (unfold JobFree; decide) | omega | simp⟩

theorem witness_ReplicationMessages_6 : ∃ (n : Fin 16384) (_tag : Fin 32) (rn : Nat) (_batch : Nat) (r : ReplRec) (s : State),
    tget s.pair.arr.rels rn = some r ∧ r.source = false ∧ (qpOf s n).st = .open_ ∧ servesRel s r = true :=
  ⟨16383, 31, 1023, 2, { wRec with source := false }, wQp 16383 { st := .open_ } (wRel 1023 { wRec with source := false }), by
    repeat' apply And.intro
    all_goals first | rfl | decide | exact Or.inl rfl | exact Or.inr rfl | (unfold JobFree; decide) | omega | simp⟩

theorem witness_ReplicationMessages_7 : ∃ (_n : Fin 16384) (_tag : Fin 32) (rn : Nat) (_batch : Nat) (s : State),
    tget s.pair.arr.rels rn = none :=
  ⟨16383, 31, 7, 1, State.reset, by
    repeat' apply And.intro
    all_goals first | rfl | decide | exact Or.inl rfl | exact Or.inr rfl | (unfold JobFree; decide) | omega | simp⟩

theorem witness_ReplicationMessages_8 : ∃ (rn : Nat) (_no : Nat) (_durable : Nat) (_applied : Nat) (r : ReplRec) (v : RelRun) (s : State),
    tget s.pair.arr.rels rn = some r ∧ r.source = true ∧ relOf s rn = v ∧ v.batch ≠ 0 ∧ v.todo ≠ [] :=
  ⟨1023, 1, 1, 0, wRec, { batch := 2, todo := [.finish] },
    { wRel 1023 wRec with rep := { rels := [(1023, { batch := 2, todo := [.finish] })] } }, by
    repeat' apply And.intro
    all_goals first | rfl | decide | exact Or.inl rfl | exact Or.inr rfl | (unfold JobFree; decide) | omega | simp⟩

theorem witness_ReplicationMessages_9 : ∃ (rn : Nat) (no : Nat) (_durable : Nat) (_applied : Nat) (r : ReplRec) (v : RelRun) (s : State),
    tget s.pair.arr.rels rn = some r ∧ r.source = true ∧ relOf s rn = v ∧ v.batch ≠ 0 ∧ v.todo = [] ∧ v.recs = [] ∧
    no + 1 = v.nextMsg :=
  ⟨7, 1, 1, 0, wRec, { batch := 5, nextMsg := 2 },
    { wRel 7 wRec with rep := { rels := [(7, { batch := 5, nextMsg := 2 })] } }, by
    repeat' apply And.intro
    all_goals first | rfl | decide | exact Or.inl rfl | exact Or.inr rfl | (unfold JobFree; decide) | omega | simp⟩

theorem witness_ReplicationMessages_10 : ∃ (rn : Nat) (_no : Nat) (_durable : Nat) (_applied : Nat) (r : ReplRec) (v : RelRun) (s : State) (_probe : Nat),
    tget s.pair.arr.rels rn = some r ∧ r.source = true ∧ relOf s rn = v ∧ v.batch ≠ 0 :=
  ⟨7, 1, 1, 0, wRec, { batch := 5, nextMsg := 2 },
    { wRel 7 wRec with rep := { rels := [(7, { batch := 5, nextMsg := 2 })] } }, 0, by
    repeat' apply And.intro
    all_goals first | rfl | decide | exact Or.inl rfl | exact Or.inr rfl | (unfold JobFree; decide) | omega | simp⟩

theorem witness_ReplicationMessages_11 : ∃ (rn : Nat) (_no : Nat) (_durable : Nat) (applied : Nat) (r : ReplRec) (v : RelRun) (s : State),
    tget s.pair.arr.rels rn = some r ∧ r.source = true ∧ relOf s rn = v ∧ v.batch ≠ 0 ∧ applied ≠ v.batch % 2 ^ 32 :=
  ⟨7, 1, 1, 4, wRec, { batch := 5 }, { wRel 7 wRec with rep := { rels := [(7, { batch := 5 })] } }, by
    repeat' apply And.intro
    all_goals first | rfl | decide | exact Or.inl rfl | exact Or.inr rfl | (unfold JobFree; decide) | omega | simp⟩

theorem witness_ReplicationMessages_12 : ∃ (rn : Nat) (_n : Fin 16384) (r : ReplRec) (v : RelRun) (s : State),
    tget s.pair.arr.rels rn = some r ∧ r.source = true ∧ relOf s rn = v ∧ v.state = 2 ∧ v.batch = 0 :=
  ⟨1023, 16383, wRec, { state := 2 }, { wRel 1023 wRec with rep := { rels := [(1023, { state := 2 })] } }, by
    repeat' apply And.intro
    all_goals first | rfl | decide | exact Or.inl rfl | exact Or.inr rfl | (unfold JobFree; decide) | omega | simp⟩

theorem witness_ReplicationMessages_13 : ∃ (rn : Nat) (_n : Fin 16384) (r : ReplRec) (v : RelRun) (s : State),
    tget s.pair.arr.rels rn = some r ∧ r.source = true ∧ relOf s rn = v ∧ v.state = 2 ∧ v.batch ≠ 0 ∧ v.reopens = 0 :=
  ⟨7, 16383, wRec, { state := 2, batch := 5 }, { wRel 7 wRec with rep := { rels := [(7, { state := 2, batch := 5 })] } }, by
    repeat' apply And.intro
    all_goals first | rfl | decide | exact Or.inl rfl | exact Or.inr rfl | (unfold JobFree; decide) | omega | simp⟩

theorem witness_ReplicationMessages_14 : ∃ (rn : Nat) (_n : Fin 16384) (r : ReplRec) (v : RelRun) (s : State),
    tget s.pair.arr.rels rn = some r ∧ r.source = true ∧ relOf s rn = v ∧ v.state = 2 ∧ v.batch ≠ 0 ∧ v.reopens ≠ 0 :=
  ⟨7, 16383, wRec, { state := 2, batch := 5, reopens := 1 },
    { wRel 7 wRec with rep := { rels := [(7, { state := 2, batch := 5, reopens := 1 })] } }, by
    repeat' apply And.intro
    all_goals first | rfl | decide | exact Or.inl rfl | exact Or.inr rfl | (unfold JobFree; decide) | omega | simp⟩

theorem witness_ReplicationMessages_15 : ∃ (rn : Nat) (_n : Fin 16384) (st : Status) (r : ReplRec) (v : RelRun) (s : State),
    tget s.pair.arr.rels rn = some r ∧ r.source = true ∧ relOf s rn = v ∧ v.state = 2 ∧ st ≠ .success :=
  ⟨7, 16383, .denied, wRec, { state := 2 }, { wRel 7 wRec with rep := { rels := [(7, { state := 2 })] } }, by
    repeat' apply And.intro
    all_goals first | rfl | decide | exact Or.inl rfl | exact Or.inr rfl | (unfold JobFree; decide) | omega | simp⟩

theorem witness_ShelfWakesAndCloses_1 : ∃ (g : Fin 32) (s : State), ((wakeDue s g = true ∨ isHome s g = true)) :=
  ⟨31,
    { wSrv with sleds := { shelfRec := [(31, wFigs)] }, plc := { items := [(0, { cls := .read, shelf := 31, work := .wake, arrival := 0, deadline := some 20 })] }, pair := { arr := { budget := some 2000 } } },
    .inl (by decide)⟩

theorem witness_ShelfWakesAndCloses_2 : ∃ (g : Fin 32) (s : State), wakeDue s g = false ∧ isHome s g = false :=
  ⟨31, wSrv, by
    repeat' apply And.intro
    all_goals first | rfl | decide | exact Or.inl rfl | exact Or.inr rfl | (unfold JobFree; decide) | omega | simp⟩

theorem witness_ShelfWakesAndCloses_3 : ∃ (g : Fin 32) (s : State) (v : Shelf) (w : Shelf), shelfOf s g = v ∧ v.st = .off ∧
    ((v.good = true ∨ (v.holdoff = false ∧ v.retryWait = false))) ∧ mayRequest s = true ∧
    (tget s.sleds.shelfRec g).isSome = true ∧ ((overShare s = false ∨ isHome s g = true)) ∧
    w = { v with st := .waking, req := true, w := (wakeCaps s g).1, r := (wakeCaps s g).2, goodAtReq := v.good, lastTry := optime s, lost := [] } ∧
    (tryShelf g w (adoptRecords g s)).1 = true :=
  ⟨31,
    { wSrv with sleds := { shelfRec := [(31, wFigs)] }, plc := { items := [(0, { cls := .read, shelf := 31, work := .wake, arrival := 0, deadline := some 20 })] }, pair := { arr := { budget := some 2000 } } },
    {}, _, ⟨by decide, rfl, .inr ⟨rfl, rfl⟩, rfl, by decide, .inl (by decide +kernel), rfl, by decide +kernel⟩⟩

theorem witness_ShelfWakesAndCloses_4 : ∃ (g : Fin 32) (s : State) (v : Shelf), shelfOf s g = v ∧ v.st = .waking ∧
    v.good = false :=
  ⟨31, wShelf 31 .waking, { st := .waking }, by
    repeat' apply And.intro
    all_goals first | rfl | decide | exact Or.inl rfl | exact Or.inr rfl | (unfold JobFree; decide) | omega | simp⟩

theorem witness_ShelfWakesAndCloses_5 : ∃ (g : Fin 32) (s : State) (v : Shelf), shelfOf s g = v ∧
    ((v.st ≠ .waking ∨ v.good = true)) :=
  ⟨31, wShelf 31 .off, {}, ⟨rfl, .inl (by decide)⟩⟩

theorem witness_ShelfWakesAndCloses_6 : ∃ (g : Fin 32) (s : State) (v : Shelf), shelfOf s g = v ∧ v.st = .waking ∧
    s.jrn.compacting = false ∧ v.good = false :=
  ⟨31, wShelf 31 .waking, { st := .waking }, by
    repeat' apply And.intro
    all_goals first | rfl | decide | exact Or.inl rfl | exact Or.inr rfl | (unfold JobFree; decide) | omega | simp⟩

theorem witness_ShelfWakesAndCloses_7 : ∃ (g : Fin 32) (s : State) (v : Shelf), shelfOf s g = v ∧ v.st = .waking ∧
    s.jrn.compacting = false ∧ v.good = true :=
  ⟨31, setShelf 31 { st := .waking, good := true } State.reset, { st := .waking, good := true }, by
    repeat' apply And.intro
    all_goals first | rfl | decide | exact Or.inl rfl | exact Or.inr rfl | (unfold JobFree; decide) | omega | simp⟩

theorem witness_ShelfWakesAndCloses_8 : ∃ (g : Fin 32) (s : State) (v : Shelf), shelfOf s g = v ∧ v.st = .waking ∧
    s.jrn.compacting = false ∧ 28 ≤ linksUsable s g :=
  ⟨31, { wShelf 31 .waking with sleds := { ports := (List.range 28).map (fun k => (31 * 32 + k, { usable := true })) } },
    { st := .waking }, ⟨rfl, rfl, rfl, by decide +kernel⟩⟩

theorem witness_ShelfWakesAndCloses_9 : ∃ (g : Fin 32) (s : State) (v : Shelf), shelfOf s g = v ∧ v.st = .waking ∧
    s.jrn.compacting = false ∧ linksUsable s g < 28 :=
  ⟨31, { wShelf 31 .waking with sleds := { ports := (List.range 27).map (fun k => (31 * 32 + k, { usable := true })) } },
    { st := .waking }, ⟨rfl, rfl, rfl, by decide +kernel⟩⟩

theorem witness_ShelfWakesAndCloses_10 : ∃ (g : Fin 32) (s : State) (v : Shelf), shelfOf s g = v ∧ (((v.st ≠ .awake ∧
    v.st ≠ .closing) ∨ s.jrn.compacting = true)) :=
  ⟨31, wShelf 31 .waking, { st := .waking }, ⟨rfl, .inl ⟨by decide, by decide⟩⟩⟩

theorem witness_ShelfWakesAndCloses_11 : ∃ (g : Fin 32) (s : State), (shelfOf s g).st = .awake ∧ s.jrn.compacting = false :=
  ⟨31, wShelf 31 .awake, by
    repeat' apply And.intro
    all_goals first | rfl | decide | exact Or.inl rfl | exact Or.inr rfl | (unfold JobFree; decide) | omega | simp⟩

theorem witness_ShelfWakesAndCloses_12 : ∃ (g : Fin 32) (s : State) (v : Shelf), shelfOf s g = v ∧ v.st = .off ∧
    v.retryWait = true :=
  ⟨31, setShelf 31 { retryWait := true } State.reset, { retryWait := true }, by
    repeat' apply And.intro
    all_goals first | rfl | decide | exact Or.inl rfl | exact Or.inr rfl | (unfold JobFree; decide) | omega | simp⟩

theorem witness_ShelfWakesAndCloses_13 : ∃ (g : Fin 32) (s : State) (v : Shelf), shelfOf s g = v ∧ v.holdoff = true ∧
    wakeDue s g = true :=
  ⟨31,
    setShelf 31 { holdoff := true } { State.reset with plc := { items := [(0, { cls := .read, shelf := 31, work := .wake, arrival := 0, deadline := some 20 })] } },
    { holdoff := true }, by
    repeat' apply And.intro
    all_goals first | rfl | decide | exact Or.inl rfl | exact Or.inr rfl | (unfold JobFree; decide) | omega | simp⟩

theorem witness_ShelfWakesAndCloses_14 : ∃ (g : Fin 32) (s : State) (v : Shelf), shelfOf s g = v ∧ wakeDue s g = false :=
  ⟨31, State.reset, {}, by
    repeat' apply And.intro
    all_goals first | rfl | decide | exact Or.inl rfl | exact Or.inr rfl | (unfold JobFree; decide) | omega | simp⟩

theorem witness_ShelfWakesAndCloses_15 : ∃ (g : Fin 32) (s : State) (v : Shelf), shelfOf s g = v ∧ v.st = .failed ∧
    v.lastTry + 3600 ≤ optime s :=
  ⟨31, setShelf 31 { st := .failed } { State.reset with gh := { hours := 1 } }, { st := .failed }, by
    repeat' apply And.intro
    all_goals first | rfl | decide | exact Or.inl rfl | exact Or.inr rfl | (unfold JobFree; decide) | omega | simp⟩

theorem witness_ShelfWakesAndCloses_16 : ∃ (g : Fin 32) (s : State) (t : State),
    t = setShelf g { shelfOf s g with minAwake := false } s ∧ mayClose t g = true ∧ (tvals t.plc.fill).contains g.val = false :=
  ⟨31, setShelf 31 { st := .awake, minAwake := true } State.reset,
    setShelf 31 { st := .awake } (setShelf 31 { st := .awake, minAwake := true } State.reset), by
    repeat' apply And.intro
    all_goals first | rfl | decide | exact Or.inl rfl | exact Or.inr rfl | (unfold JobFree; decide) | omega | simp⟩

theorem witness_ShelfWakesAndCloses_17 : ∃ (g : Fin 32) (s : State) (t : State),
    t = setShelf g { shelfOf s g with minAwake := false } s ∧ mayClose t g = false :=
  ⟨31, State.reset, _, ⟨rfl, by decide⟩⟩

theorem witness_ShelfWakesAndCloses_18 : ∃ (g : Fin 32) (s : State), mayClose s g = true :=
  ⟨31, wShelf 31 .awake, by
    repeat' apply And.intro
    all_goals first | rfl | decide | exact Or.inl rfl | exact Or.inr rfl | (unfold JobFree; decide) | omega | simp⟩

theorem witness_ShelfWakesAndCloses_19 : ∃ (g : Fin 32) (s : State), mayClose s g = false :=
  ⟨31, State.reset, by
    repeat' apply And.intro
    all_goals first | rfl | decide | exact Or.inl rfl | exact Or.inr rfl | (unfold JobFree; decide) | omega | simp⟩

theorem witness_ShelfWakesAndCloses_20 : ∃ (g : Fin 32) (s : State) (v : Shelf), shelfOf s g = v ∧ v.st = .closing ∧
    unhardened s g = false ∧ s.jrn.compacting = false ∧ v.closeAfter = true ∧ waitingOn s g = 0 :=
  ⟨31, setShelf 31 { st := .closing, closeAfter := true } State.reset, { st := .closing, closeAfter := true }, by
    repeat' apply And.intro
    all_goals first | rfl | decide | exact Or.inl rfl | exact Or.inr rfl | (unfold JobFree; decide) | omega | simp⟩

theorem witness_ShelfWakesAndCloses_21 : ∃ (g : Fin 32) (s : State) (v : Shelf), shelfOf s g = v ∧ v.st = .closing ∧
    unhardened s g = false ∧ s.jrn.compacting = false ∧ v.closeAfter = true ∧ waitingOn s g ≠ 0 :=
  ⟨31,
    setShelf 31 { st := .closing, closeAfter := true } (wRun { wCmd 2 0 65535 0 15 4096 with stage := .running, pinWake := [31] }),
    { st := .closing, closeAfter := true }, by
    repeat' apply And.intro
    all_goals first | rfl | decide | exact Or.inl rfl | exact Or.inr rfl | (unfold JobFree; decide) | omega | simp⟩

theorem witness_ShelfWakesAndCloses_22 : ∃ (g : Fin 32) (s : State) (v : Shelf), shelfOf s g = v ∧ v.st = .closing ∧
    unhardened s g = false ∧ s.jrn.compacting = false ∧ v.closeAfter = false :=
  ⟨31, setShelf 31 { st := .closing } State.reset, { st := .closing }, by
    repeat' apply And.intro
    all_goals first | rfl | decide | exact Or.inl rfl | exact Or.inr rfl | (unfold JobFree; decide) | omega | simp⟩

theorem witness_ShelfWakesAndCloses_23 : ∃ (g : Fin 32) (s : State), (shelfOf s g).holdS ≠ 0 :=
  ⟨31, setShelf 31 { st := .awake, holdS := 28800 } State.reset, by
    repeat' apply And.intro
    all_goals first | rfl | decide | exact Or.inl rfl | exact Or.inr rfl | (unfold JobFree; decide) | omega | simp⟩

theorem witness_PlacementAndBackgroundWork_1 : ∃ (s : State) (g : Nat), s.plc.batch = [g] :=
  ⟨{ State.reset with plc := { batch := [31], batchOpen := true } }, 31, by
    repeat' apply And.intro
    all_goals first | rfl | decide | exact Or.inl rfl | exact Or.inr rfl | (unfold JobFree; decide) | omega | simp⟩

theorem witness_PlacementAndBackgroundWork_2 : ∃ (n : Nat) (s : State) (i : Item), tget s.plc.items n = some i ∧
    i.deadline.isSome = true :=
  ⟨0,
    { State.reset with plc := { items := [(0, { cls := .read, shelf := 31, work := .wake, arrival := 0, deadline := some 20 })] } },
    { cls := .read, shelf := 31, work := .wake, arrival := 0, deadline := some 20 }, by
    repeat' apply And.intro
    all_goals first | rfl | decide | exact Or.inl rfl | exact Or.inr rfl | (unfold JobFree; decide) | omega | simp⟩

theorem witness_PlacementAndBackgroundWork_3 : ∃ (s : State) (n : Nat) (i : Item),
    planInspect (planGcWake (planSweep (planWork s))) = s ∧ s.plc.items = [(n, i)] ∧ i.granted = false ∧
    ((i.urgency = 0 ∨ hasItsRoom i (grantRoom i s) = true)) ∧ i.work ≠ .wake ∧ (shelfOf s i.shelf).st = .awake :=
  ⟨{ wShelf 31 .awake with plc := { (wShelf 31 .awake).plc with items := [(0, { cls := .background, shelf := 31, work := .harden, arrival := 0, deadline := none, urgency := 0 })] } },
    0, { cls := .background, shelf := 31, work := .harden, arrival := 0, deadline := none, urgency := 0 }, ⟨by decide +kernel,
    rfl, rfl, .inl rfl, by decide, rfl⟩⟩

theorem witness_PlacementAndBackgroundWork_4 : ∃ (s : State) (n : Nat) (i : Item),
    planInspect (planGcWake (planSweep (planWork s))) = s ∧ s.plc.items = [(n, i)] ∧ i.granted = false ∧
    ((i.urgency = 0 ∨ hasItsRoom i (grantRoom i s) = true)) ∧ i.work = .wake ∧ (shelfOf s i.shelf).st = .off ∧
    wakeDue s i.shelf = true :=
  ⟨{ State.reset with plc := { items := [(0, { cls := .read, shelf := 31, work := .wake, arrival := 0, deadline := some 20, urgency := 0 })] } },
    0, { cls := .read, shelf := 31, work := .wake, arrival := 0, deadline := some 20, urgency := 0 }, ⟨by decide +kernel, rfl,
    rfl, .inl rfl, rfl, rfl, by decide⟩⟩

theorem witness_PlacementAndBackgroundWork_5 : ∃ (serial : Nat) (vol : Nat) (block : Nat) (h : Nat) (e : Bytes) (r : Bytes) (s : State),
    thas s.plc.placed serial = false ∧ thas s.jrn.drain serial = true ∧ s.pair.fenced = false ∧ s.jrn.stopped = false ∧
    s.jrn.flashMode = false ∧ journalCopy s serial = some (e, r) ∧ journalPlace s serial = some (vol, block) ∧
    homeWithRoom s = some h ∧ s.plc.policy.hotThreshold ≤ tgetD s.plc.heat (heatKey vol block) 0 ∧
    homePct s (fun p => !p.transit) < s.plc.policy.homeHotPct :=
  ⟨9, 1, 24, 0, wEnv, [5], wPlace, ⟨rfl, rfl, rfl, rfl, rfl, by decide +kernel, by decide +kernel, by decide +kernel,
    by decide +kernel, by decide +kernel⟩⟩

theorem witness_PlacementAndBackgroundWork_6 : ∃ (serial : Nat) (vol : Nat) (block : Nat) (g : Nat) (e : Bytes) (r : Bytes) (s : State) (u : State),
    thas s.plc.placed serial = false ∧ thas s.jrn.drain serial = true ∧ s.pair.fenced = false ∧ s.jrn.stopped = false ∧
    u.jrn.flashMode = false ∧ journalCopy s serial = some (e, r) ∧ journalPlace s serial = some (vol, block) ∧
    homeWithRoom s = none ∧ fillShelf vol s = (some g, u) ∧ hasRoom u g = true :=
  ⟨9, 1, 24, 0, wEnv, [5],
    { wPlace with pair := { arr := { home := [31] } }, plc := { wPlace.plc with fill := [(1, 0)], shelves := [(0, { st := .awake, w := 40 })] } },
    { wPlace with pair := { arr := { home := [31] } }, plc := { wPlace.plc with fill := [(1, 0)], shelves := [(0, { st := .awake, w := 40 })] } },
    ⟨rfl, rfl, rfl, rfl, rfl, by decide +kernel, by decide +kernel, by decide +kernel, by decide +kernel, by decide +kernel⟩⟩

theorem witness_PlacementAndBackgroundWork_7 : ∃ (serial : Nat) (s : State),
    ((thas s.jrn.drain serial = false ∨ thas s.plc.placed serial = true)) ∧ s.jrn.flashMode = false :=
  ⟨9, { State.reset with jrn := { flashMode := false } }, by
    repeat' apply And.intro
    all_goals first | rfl | decide | exact Or.inl rfl | exact Or.inr rfl | (unfold JobFree; decide) | omega | simp⟩

theorem witness_PlacementAndBackgroundWork_8 : ∃ (asn : Nat) (c : Cmd) (s : State), cmdOf s asn = some c ∧
    c.stage = .running ∧ c.opcode = 6 ∧ c.pinWake ≠ [] ∧ c.staging = true ∧
    (s.plc.moves.filter (fun e => decide (e.2.why = .recall asn))).all (fun e => ((tget s.plc.copies e.1).map (copiesConfirmed s)).getD false) = true :=
  ⟨2, { wCmd 6 0 65535 0 15 4096 with stage := .running, pinWake := [3], staging := true },
    { wRun { wCmd 6 0 65535 0 15 4096 with stage := .running, pinWake := [3], staging := true } with plc := { moves := [(4, { serial := 9, old := { kind := .none }, shelf := 0, why := .recall 2 })], copies := [(4, { shelf := 0, set := 1, segs := [] })], sets := [(1, { wSet with shelf := 0 }), (bsKey (partnerSled 0) 0, { wSet with shelf := 0, sled := partnerSled 0 })] } },
    ⟨rfl, rfl, rfl, by decide, rfl, by decide +kernel⟩⟩

theorem witness_PlacementAndBackgroundWork_9 : ∃ (n : Nat) (h : Hold) (s : State), tget s.plc.holds n = some h ∧
    h.expiry ≤ optime s ∧ h.shelves = [] :=
  ⟨5, { volume := 1, snap := 0, first := 0, blocks := 8, staged := [4], shelves := [], expiry := 3600 },
    { State.reset with plc := { holds := [(5, { volume := 1, snap := 0, first := 0, blocks := 8, staged := [4], shelves := [], expiry := 3600 })] }, gh := { hours := 1 } },
    by
    repeat' apply And.intro
    all_goals first | rfl | decide | exact Or.inl rfl | exact Or.inr rfl | (unfold JobFree; decide) | omega | simp⟩

theorem witness_PlacementAndBackgroundWork_10 : ∃ (n : Nat) (h : Hold) (s : State), tget s.plc.holds n = some h ∧
    optime s < h.expiry :=
  ⟨5, { volume := 1, snap := 0, first := 0, blocks := 8, staged := [4], shelves := [], expiry := 3600 },
    { State.reset with plc := { holds := [(5, { volume := 1, snap := 0, first := 0, blocks := 8, staged := [4], shelves := [], expiry := 3600 })] } },
    by
    repeat' apply And.intro
    all_goals first | rfl | decide | exact Or.inl rfl | exact Or.inr rfl | (unfold JobFree; decide) | omega | simp⟩

theorem witness_PlacementAndBackgroundWork_11 : ∃ (g : Fin 32) (s : State),
    s.plc.sets.any (fun e => decide (e.2.shelf = g)) = true :=
  ⟨31, { State.reset with plc := { sets := [(setPortOf wSet * 2 ^ 32 + 1, wSet)] } }, by
    repeat' apply And.intro
    all_goals first | rfl | decide | exact Or.inl rfl | exact Or.inr rfl | (unfold JobFree; decide) | omega | simp⟩

theorem witness_PlacementAndBackgroundWork_12 : ∃ (s : State) (k : Nat) (n : Nat), s.plc.heatT = [(k, n)] :=
  ⟨{ State.reset with plc := { heatT := [(5, 3)] } }, 5, 3, by
    repeat' apply And.intro
    all_goals first | rfl | decide | exact Or.inl rfl | exact Or.inr rfl | (unfold JobFree; decide) | omega | simp⟩

theorem witness_PlacementAndBackgroundWork_13 : ∃ (s : State) (k : Nat) (c : Nat), s.plc.heat = [(k, c)] :=
  ⟨{ State.reset with plc := { heat := [(5, 40)] } }, 5, 40, by
    repeat' apply And.intro
    all_goals first | rfl | decide | exact Or.inl rfl | exact Or.inr rfl | (unfold JobFree; decide) | omega | simp⟩

theorem witness_PlacementAndBackgroundWork_14 : ∃ (s : State), s.map.ckptRun = none ∧ s.jrn.serving = true ∧
    s.jrn.restart = .none ∧ s.jrn.stopped = false ∧ s.pair.fenced = false :=
  ⟨{ State.reset with jrn := { serving := true } }, by
    repeat' apply And.intro
    all_goals first | rfl | decide | exact Or.inl rfl | exact Or.inr rfl | (unfold JobFree; decide) | omega | simp⟩

theorem witness_PlacementAndBackgroundWork_15 : ∃ (s : State) (run : Ckpt), s.map.ckptRun = some run :=
  ⟨{ State.reset with map := { ckptRun := some { number := 1 } } }, { number := 1 }, by
    repeat' apply And.intro
    all_goals first | rfl | decide | exact Or.inl rfl | exact Or.inr rfl | (unfold JobFree; decide) | omega | simp⟩

theorem witness_PlacementAndBackgroundWork_16 : ∃ (g : Fin 32) (band : Nat) (s : State), (bandSets s g band).isEmpty = false ∧
    (bandSets s g band).all (fun e => decide (e.2.state = 5)) = true ∧ bandRead s g band = false ∧ movedDone s g band = true :=
  ⟨31, 7, { State.reset with plc := { sets := [(setPortOf wSet * 2 ^ 32 + 1, { wSet with state := 5 })] } }, ⟨by decide,
    by decide, by decide, by decide⟩⟩

theorem witness_PlacementAndBackgroundWork_17 : ∃ (g : Fin 32) (band : Nat) (s : State),
    ((bandRead s g band = true ∨ movedDone s g band = false)) :=
  ⟨31, 7,
    { State.reset with jrn := { own := [{ r := { off := 0, asn := 1, unit := 0, units := 1, epoch := 0, len := 64, last := true, replayed := false, check := 0, body := .mapBlocks [(blockLoc (setPortOf wSet) 0 0, 5, 0)] } }] }, plc := { sets := [(setPortOf wSet * 2 ^ 32 + 1, { wSet with state := 5 })] } },
    by
    repeat' apply And.intro
    all_goals first | rfl | decide | exact Or.inl rfl | exact Or.inr rfl | (unfold JobFree; decide) | omega | simp⟩

theorem witness_PlacementAndBackgroundWork_18 : ∃ (s : State) (k : Nat) (n : Nat), s.plc.readT = [(k, n)] :=
  ⟨{ State.reset with plc := { readT := [(5, 3)] } }, 5, 3, by
    repeat' apply And.intro
    all_goals first | rfl | decide | exact Or.inl rfl | exact Or.inr rfl | (unfold JobFree; decide) | omega | simp⟩

theorem witness_PlacementAndBackgroundWork_19 : ∃ (s : State) (k : Nat) (n : Nat) (v : Blk), s.plc.readT = [(k, n)] ∧ n ≠ 0 ∧
    blkOf s k = v :=
  ⟨{ State.reset with plc := { readT := [(5, 3)], blks := [(5, { erases := 9 })] } }, 5, 3, { erases := 9 }, by
    repeat' apply And.intro
    all_goals first | rfl | decide | exact Or.inl rfl | exact Or.inr rfl | (unfold JobFree; decide) | omega | simp⟩

theorem witness_SledLinks_1 : ∃ (p : Fin 1024) (f : Flit) (s : State) (v : SPort) (v' : SPort), portOf s p = v ∧ v.state = 4 ∧
    f.checkOk = true ∧ f.seq = v.expSeq ∧ v.expSeq < 4096 ∧
    rxCredit { v with expSeq := (v.expSeq + 1) % 4096, nakHeld := false } f = some v' :=
  ⟨1023, wFlit 4095, wPt 1023 { state := 4, expSeq := 4095 }, { state := 4, expSeq := 4095 }, { state := 4, rxCmd := 31 }, by
    repeat' apply And.intro
    all_goals first | rfl | decide | exact Or.inl rfl | exact Or.inr rfl | (unfold JobFree; decide) | omega | simp⟩

theorem witness_SledLinks_2 : ∃ (p : Fin 1024) (f : Flit) (s : State) (v : SPort), portOf s p = v ∧ v.state = 4 ∧
    f.checkOk = false :=
  ⟨1023, { wFlit 0 with checkOk := false }, wPt 1023 { state := 4 }, { state := 4 }, by
    repeat' apply And.intro
    all_goals first | rfl | decide | exact Or.inl rfl | exact Or.inr rfl | (unfold JobFree; decide) | omega | simp⟩

theorem witness_SledLinks_3 : ∃ (p : Fin 1024) (f : Flit) (s : State) (v : SPort), portOf s p = v ∧ v.state = 4 ∧
    f.checkOk = true ∧ f.seq = v.expSeq ∧ v.expSeq < 4096 ∧
    rxCredit { v with expSeq := (v.expSeq + 1) % 4096, nakHeld := false } f = none :=
  ⟨1023, wFlit 5, wPt 1023 { state := 4, expSeq := 5, rxCmd := 0 }, { state := 4, expSeq := 5, rxCmd := 0 }, by
    repeat' apply And.intro
    all_goals first | rfl | decide | exact Or.inl rfl | exact Or.inr rfl | (unfold JobFree; decide) | omega | simp⟩

theorem witness_SledLinks_4 : ∃ (p : Fin 1024) (ack : Nat) (s : State) (v : SPort) (g : TxFlit), portOf s p = v ∧
    v.state = 4 ∧ v.replay = [(ack, g)] ∧ v.testSeq = none :=
  ⟨1023, 4095, wPt 1023 { state := 4, replay := [(4095, wTx)] }, { state := 4, replay := [(4095, wTx)] }, wTx, by
    repeat' apply And.intro
    all_goals first | rfl | decide | exact Or.inl rfl | exact Or.inr rfl | (unfold JobFree; decide) | omega | simp⟩

theorem witness_SledLinks_5 : ∃ (p : Fin 1024) (seq : Nat) (s t : State) (f : Nat × TxFlit) (rest : List (Nat × TxFlit)),
    (portOf s p).state = 4 ∧ t = takeAck p ((seq + 4095) % 4096) s ∧ (portOf t p).state = 4 ∧
    (portOf t p).replay = f :: rest ∧ f.1 = seq ∧ (portOf t p).resends < 4 :=
  ⟨1023, 0, wPt 1023 { state := 4, nextSeq := 1, replay := [(0, wTx)], resends := 3 }, _, (0, wTx), [], rfl, rfl, by
    repeat' apply And.intro
    all_goals first | rfl | decide⟩

theorem witness_SledLinks_5_acked : ∃ (p : Fin 1024) (seq : Nat) (s t : State), (portOf s p).state = 4 ∧
    t = takeAck p ((seq + 4095) % 4096) s ∧ ∀ f, (portOf t p).replay.head? = some f → f.1 ≠ seq :=
  ⟨1023, 7, wPt 1023 { state := 4, nextSeq := 1, replay := [(0, wTx)] }, _, rfl, rfl, by
    intro f h
    have e : (portOf (takeAck 1023 ((7 + 4095) % 4096) (wPt 1023 { state := 4, nextSeq := 1, replay := [(0, wTx)] })) 1023).replay.head? =
        some (0, wTx) := by decide
    have h' := e.symm.trans h
    cases h'
    decide⟩

theorem witness_SledLinks_6 : ∃ (p : Fin 1024) (_cmd : Nat) (_mgmt : Nat) (_data : Nat) (s : State) (v : SPort),
    portOf s p = v ∧ v.state = 4 :=
  ⟨1023, 255, 255, 4095, wPt 1023 { state := 4 }, { state := 4 }, by
    repeat' apply And.intro
    all_goals first | rfl | decide | exact Or.inl rfl | exact Or.inr rfl | (unfold JobFree; decide) | omega | simp⟩

theorem witness_SledLinks_7 : ∃ (p : Fin 1024) (s : State) (v : SPort), portOf s p = v ∧ v.state = 4 ∧ v.sleepReq = true :=
  ⟨1023, wPt 1023 { state := 4, sleepReq := true }, { state := 4, sleepReq := true }, by
    repeat' apply And.intro
    all_goals first | rfl | decide | exact Or.inl rfl | exact Or.inr rfl | (unfold JobFree; decide) | omega | simp⟩

theorem witness_SledLinks_8 : ∃ (p : Fin 1024) (s : State) (v : SPort) (f : Nat × TxFlit) (rest : List (Nat × TxFlit)),
    portOf s p = v ∧ v.state = 4 ∧ v.replay = f :: rest ∧ v.resends < 4 :=
  ⟨1023, wPt 1023 { state := 4, replay := [(0, wTx)], resends := 3 }, { state := 4, replay := [(0, wTx)], resends := 3 }, (0,
    wTx), [], by
    repeat' apply And.intro
    all_goals first | rfl | decide | exact Or.inl rfl | exact Or.inr rfl | (unfold JobFree; decide) | omega | simp⟩

theorem witness_SledLinks_9 : ∃ (p : Fin 1024) (_preset : Nat) (_asked : Nat) (s : State) (v : SPort), portOf s p = v ∧
    v.state = 2 :=
  ⟨1023, 5, 7, wPt 1023 { state := 2 }, { state := 2 }, by
    repeat' apply And.intro
    all_goals first | rfl | decide | exact Or.inl rfl | exact Or.inr rfl | (unfold JobFree; decide) | omega | simp⟩

theorem witness_SledLinks_10 : ∃ (p : Fin 1024) (_preset : Nat) (_asked : Nat) (s : State) (v : SPort), portOf s p = v ∧
    v.state = 5 :=
  ⟨1023, 5, 7, wPt 1023 { state := 5 }, { state := 5 }, by
    repeat' apply And.intro
    all_goals first | rfl | decide | exact Or.inl rfl | exact Or.inr rfl | (unfold JobFree; decide) | omega | simp⟩

theorem witness_SledLinks_11 : ∃ (p : Fin 1024) (_preset : Nat) (_asked : Nat) (s : State) (v : SPort), portOf s p = v ∧
    v.state = 6 :=
  ⟨1023, 5, 7, wPt 1023 { state := 6 }, { state := 6 }, by
    repeat' apply And.intro
    all_goals first | rfl | decide | exact Or.inl rfl | exact Or.inr rfl | (unfold JobFree; decide) | omega | simp⟩

theorem witness_SledLinks_12 : ∃ (p : Fin 1024) (ts : Ts2) (s : State), (portOf s p).state = 3 ∧ ts.checkOk = true ∧
    ts.version = 1 ∧ (tget s.sleds.sledUse p).map (·.maxTags) = some ts.maxTags :=
  ⟨1023,
    { version := 1, bridgePort := 1, cmdCredits := 32, dataCredits := 256, mgmtCredits := 8, maxTags := 64, checkOk := true },
    wPt 1023 { state := 3 } { State.reset with sleds := { sledUse := [(1023, wSled)] } }, by
    repeat' apply And.intro
    all_goals first | rfl | decide | exact Or.inl rfl | exact Or.inr rfl | (unfold JobFree; decide) | omega | simp⟩

theorem witness_SledLinks_13 : ∃ (p : Fin 1024) (ts : Ts2) (s : State), (portOf s p).state = 3 ∧ ts.checkOk = false :=
  ⟨1023,
    { version := 1, bridgePort := 1, cmdCredits := 32, dataCredits := 256, mgmtCredits := 8, maxTags := 64, checkOk := false },
    wPt 1023 { state := 3 }, by
    repeat' apply And.intro
    all_goals first | rfl | decide | exact Or.inl rfl | exact Or.inr rfl | (unfold JobFree; decide) | omega | simp⟩

theorem witness_SledLinks_14 : ∃ (p : Fin 1024) (s : State) (v : SPort), portOf s p = v ∧ v.state = 1 :=
  ⟨1023, wPt 1023 { state := 1 }, { state := 1 }, by
    repeat' apply And.intro
    all_goals first | rfl | decide | exact Or.inl rfl | exact Or.inr rfl | (unfold JobFree; decide) | omega | simp⟩

theorem witness_SledLinks_15 : ∃ (p : Fin 1024) (s : State), ((portOf s p).state = 2 ∨ (portOf s p).state = 3) :=
  ⟨1023, wPt 1023 { state := 3 }, by
    repeat' apply And.intro
    all_goals first | rfl | decide | exact Or.inl rfl | exact Or.inr rfl | (unfold JobFree; decide) | omega | simp⟩

theorem witness_SledLinks_16 : ∃ (p : Fin 1024) (s : State), (portOf s p).state = 5 :=
  ⟨1023, wPt 1023 { state := 5 }, by
    repeat' apply And.intro
    all_goals first | rfl | decide | exact Or.inl rfl | exact Or.inr rfl | (unfold JobFree; decide) | omega | simp⟩

theorem witness_SledLinks_17 : ∃ (p : Fin 1024) (s : State) (v : SPort), portOf s p = v ∧ v.state = 4 :=
  ⟨1023, wPt 1023 { state := 4 }, { state := 4 }, by
    repeat' apply And.intro
    all_goals first | rfl | decide | exact Or.inl rfl | exact Or.inr rfl | (unfold JobFree; decide) | omega | simp⟩

theorem witness_SledLinks_18 : ∃ (p : Fin 1024) (s : State) (v : SPort), portOf s p = v ∧ v.state = 4 ∧ v.testSeq = none :=
  ⟨1023, wPt 1023 { state := 4 }, { state := 4 }, by
    repeat' apply And.intro
    all_goals first | rfl | decide | exact Or.inl rfl | exact Or.inr rfl | (unfold JobFree; decide) | omega | simp⟩

theorem witness_SledLinks_19 : ∃ (p : Fin 1024) (s : State) (v : SPort), portOf s p = v ∧ v.state = 4 ∧ v.sleepIdle ≠ 0 ∧
    v.outst = [] ∧ v.replay = [] ∧ v.tx = [] ∧ v.waitq = [] ∧ v.sleepReq = false ∧ v.testSeq = none :=
  ⟨1023, wPt 1023 { state := 4 }, { state := 4 }, by
    repeat' apply And.intro
    all_goals first | rfl | decide | exact Or.inl rfl | exact Or.inr rfl | (unfold JobFree; decide) | omega | simp⟩

theorem witness_SledLinks_20 : ∃ (p : Fin 1024) (_errors : Nat) (s : State) (v : SPort), portOf s p = v ∧ v.state = 7 :=
  ⟨1023, 9, wPt 1023 { state := 7 }, { state := 7 }, by
    repeat' apply And.intro
    all_goals first | rfl | decide | exact Or.inl rfl | exact Or.inr rfl | (unfold JobFree; decide) | omega | simp⟩

theorem witness_SledLinks_21 : ∃ (p : Fin 1024) (s : State) (v : SPort), portOf s p = v ∧ v.powered = true ∧ v.state = 0 :=
  ⟨1023, wPt 1023 { powered := true }, { powered := true }, by
    repeat' apply And.intro
    all_goals first | rfl | decide | exact Or.inl rfl | exact Or.inr rfl | (unfold JobFree; decide) | omega | simp⟩

theorem witness_SledLinks_22 : ∃ (p : Fin 1024) (s : State) (v : SPort), portOf s p = v ∧ ((v.powered = false ∨ v.state ≠ 0)) :=
  ⟨1023, wPt 1023 { state := 4 }, { state := 4 }, ⟨rfl, .inl rfl⟩⟩

theorem witness_SledLinks_23 : ∃ (p : Fin 1024) (s : State) (v : SPort), portOf s p = v ∧ v.powered = true ∧ v.en = true ∧
    ((v.state = 1 ∨ v.state = 2 ∨ v.state = 3 ∨ v.state = 5)) :=
  ⟨1023, wPt 1023 { powered := true, state := 5 }, { powered := true, state := 5 }, ⟨rfl, rfl, rfl, by decide⟩⟩

theorem witness_SledCommandsAndIdentity_1 : ∃ (r : SledResp) (s : State) (v : SPort) (w : SledPend), portOf s r.port = v ∧
    tget v.outst r.tag = some w :=
  ⟨{ port := 1023, tag := 1023, outcome := 0, corrected := 0, retries := 0, data := [], detail := [] },
    wPt 1023 { state := 4, outst := [(1023, wOp 5)] }, { state := 4, outst := [(1023, wOp 5)] }, wOp 5, by
    repeat' apply And.intro
    all_goals first | rfl | decide | exact Or.inl rfl | exact Or.inr rfl | (unfold JobFree; decide) | omega | simp⟩

theorem witness_SledCommandsAndIdentity_2 : ∃ (r : SledResp) (_x : RecordRead) (s : State) (v : SPort) (w : SledPend),
    portOf s r.port = v ∧ tget v.outst r.tag = some w ∧ w.cmd.op = 5 ∧ r.outcome = 0 ∧ v.waitq = [] ∧ v.refused = false ∧
    (sledFigs s r.port).map (·.serial) = some (bslice r.detail 0 16) :=
  ⟨{ port := 1023, tag := 1023, outcome := 0, corrected := 0, retries := 0, data := [], detail := leN 16 7 }, none,
    wPt 1023 { state := 4, outst := [(1023, wOp 5)] } { State.reset with sleds := { sledUse := [(1023, { wSled with serial := leN 16 7 })] } },
    { state := 4, outst := [(1023, wOp 5)] }, wOp 5, by
    repeat' apply And.intro
    all_goals first | rfl | decide | exact Or.inl rfl | exact Or.inr rfl | (unfold JobFree; decide) | omega | simp⟩

theorem witness_SledCommandsAndIdentity_3 : ∃ (p : Fin 1024) (_die : Nat) (_temp : Nat) (s : State) (v : SPort),
    portOf s p = v ∧ ((v.state = 4 ∨ v.state = 6)) :=
  ⟨1023, 127, 70, wPt 1023 { state := 6 }, { state := 6 }, by
    repeat' apply And.intro
    all_goals first | rfl | decide | exact Or.inl rfl | exact Or.inr rfl | (unfold JobFree; decide) | omega | simp⟩

theorem witness_SledCommandsAndIdentity_4 : ∃ (p : Fin 1024) (tag : Nat) (s : State) (v : SPort) (w : SledPend),
    portOf s p = v ∧ tget v.outst tag = some w :=
  ⟨1023, 1023, wPt 1023 { state := 4, outst := [(1023, wOp 1)] }, { state := 4, outst := [(1023, wOp 1)] }, wOp 1, by
    repeat' apply And.intro
    all_goals first | rfl | decide | exact Or.inl rfl | exact Or.inr rfl | (unfold JobFree; decide) | omega | simp⟩

theorem witness_SledCommandsAndIdentity_5 : ∃ (_g : Fin 32) (slot : Fin 33) (x : RecordRead) (_s : State) (v : SledIdent),
    slot.val ≠ 32 ∧ parseSled x = .inl v :=
  ⟨31, 31, some wSledRec, State.reset, sledFields wSledRec, by
    exact ⟨by decide, by decide +kernel⟩⟩

theorem witness_SledCommandsAndIdentity_6 : ∃ (_g : Fin 32) (slot : Fin 33) (x : RecordRead) (_s : State) (v : ShelfIdent),
    slot.val = 32 ∧ parseShelf x = .inl v :=
  ⟨31, 32, some wShelfRec, State.reset, { serial := leN 16 7, pIdle := 10, pWake := 20, kMw := 1, wakeMs := 3000 }, by
    exact ⟨rfl, by decide +kernel⟩⟩

theorem witness_SledCommandsAndIdentity_7 : ∃ (_g : Fin 32) (slot : Fin 33) (x : RecordRead) (_s : State) (why : Nat),
    slot.val ≠ 32 ∧ parseSled x = .inr why :=
  ⟨31, 31, none, State.reset, 1, by
    repeat' apply And.intro
    all_goals first | rfl | decide | exact Or.inl rfl | exact Or.inr rfl | (unfold JobFree; decide) | omega | simp⟩

theorem witness_SledCommandsAndIdentity_8 : ∃ (_g : Fin 32) (slot : Fin 33) (x : RecordRead) (_s : State) (why : _),
    slot.val = 32 ∧ parseShelf x = .inr why :=
  ⟨31, 32, none, State.reset, 1, by
    repeat' apply And.intro
    all_goals first | rfl | decide | exact Or.inl rfl | exact Or.inr rfl | (unfold JobFree; decide) | omega | simp⟩

theorem witness_SledCommandsAndIdentity_9 : ∃ (_g : Fin 32) (_slot : Fin 33) (attempt : Nat) (_s : State), attempt < 3 :=
  ⟨31, 32, 2, State.reset, by
    repeat' apply And.intro
    all_goals first | rfl | decide | exact Or.inl rfl | exact Or.inr rfl | (unfold JobFree; decide) | omega | simp⟩

theorem witness_SledCommandsAndIdentity_10 : ∃ (_g : Fin 32) (_slot : Fin 33) (attempt : Nat) (_s : State), 3 ≤ attempt :=
  ⟨31, 32, 3, State.reset, by
    repeat' apply And.intro
    all_goals first | rfl | decide | exact Or.inl rfl | exact Or.inr rfl | (unfold JobFree; decide) | omega | simp⟩

theorem witness_DramRanksAreKept_1 : ∃ (n : Fin 24) (r : Fin 4) (s : State), rankServes (dmcOf s n) r = true ∧
    (rankOf (dmcOf s n) r).owed = 0 :=
  ⟨23, 0, wDmc 23 { present := true }, by
    repeat' apply And.intro
    all_goals first | rfl | decide | exact Or.inl rfl | exact Or.inr rfl | (unfold JobFree; decide) | omega | simp⟩

theorem witness_DramRanksAreKept_2 : ∃ (n : Fin 24) (r : Fin 4) (s : State) (c : Dmc) (k : DRank), dmcOf s n = c ∧
    rankOf c r = k ∧ rankServes c r = true :=
  ⟨23, 0, wDmc 23 { present := true }, { state := 2, ranks := [(0, { present := true })] }, { present := true }, by
    repeat' apply And.intro
    all_goals first | rfl | decide | exact Or.inl rfl | exact Or.inr rfl | (unfold JobFree; decide) | omega | simp⟩

theorem witness_DramRanksAreKept_3 : ∃ (n : Fin 24) (r : Fin 4) (s : State) (c : Dmc) (k : DRank), dmcOf s n = c ∧
    rankOf c r = k ∧ rankServes c r = true ∧ k.hot = false ∧ k.owed < k.maxPostpone.toNat :=
  ⟨23, 0, wDmc 23 { present := true, owed := 3, maxPostpone := 4 },
    { state := 2, ranks := [(0, { present := true, owed := 3, maxPostpone := 4 })] },
    { present := true, owed := 3, maxPostpone := 4 }, by
    repeat' apply And.intro
    all_goals first | rfl | decide | exact Or.inl rfl | exact Or.inr rfl | (unfold JobFree; decide) | omega | simp⟩

theorem witness_DramRanksAreKept_4 : ∃ (n : Fin 24) (r : Fin 4) (s : State) (c : Dmc) (k : DRank), dmcOf s n = c ∧
    rankOf c r = k ∧ rankServes c r = true ∧ (k.hot = true ∨ k.maxPostpone.toNat ≤ k.owed) :=
  ⟨23, 0, wDmc 23 { present := true, owed := 4, maxPostpone := 4 },
    { state := 2, ranks := [(0, { present := true, owed := 4, maxPostpone := 4 })] },
    { present := true, owed := 4, maxPostpone := 4 }, by
    exact ⟨rfl, rfl, rfl, .inr (by decide)⟩⟩

theorem witness_DramRanksAreKept_5 : ∃ (n : Fin 24) (_t0 : BitVec 8) (_t1 : BitVec 8) (tenths : Int) (s : State) (c : Dmc) (k : DRank),
    dmcOf s n = c ∧ c.ranks = [(0, k)] ∧ k.present = true ∧ k.retired = false ∧ 850 < tenths ∧ k.hot = false ∧ 0 < k.owed :=
  ⟨23, 86, 80, 851, wDmc 23 { present := true, owed := 4 }, { state := 2, ranks := [(0, { present := true, owed := 4 })] },
    { present := true, owed := 4 }, by
    repeat' apply And.intro
    all_goals first | rfl | decide | exact Or.inl rfl | exact Or.inr rfl | (unfold JobFree; decide) | omega | simp⟩

theorem witness_DramRanksAreKept_6 : ∃ (n : Fin 24) (_t0 : BitVec 8) (_t1 : BitVec 8) (tenths : Int) (s : State) (c : Dmc) (k : DRank),
    dmcOf s n = c ∧ c.ranks = [(0, k)] ∧ k.present = true ∧ k.retired = false ∧ tenths ≤ 830 :=
  ⟨23, 86, 80, 830, wDmc 23 { present := true, owed := 4 }, { state := 2, ranks := [(0, { present := true, owed := 4 })] },
    { present := true, owed := 4 }, by
    repeat' apply And.intro
    all_goals first | rfl | decide | exact Or.inl rfl | exact Or.inr rfl | (unfold JobFree; decide) | omega | simp⟩

theorem witness_DramRanksAreKept_7 : ∃ (_n : Fin 24) (_r : Fin 4) (again : Bool) (ok : Bool) (_s : State),
    ((again = true ∨ ok = false)) :=
  ⟨23, 3, true, false, State.reset, by
    repeat' apply And.intro
    all_goals first | rfl | decide | exact Or.inl rfl | exact Or.inr rfl | (unfold JobFree; decide) | omega | simp⟩

theorem witness_DramRanksAreKept_8 : ∃ (n : Fin 24) (s : State), (dmcOf s n).state = 2 :=
  ⟨23, wDmc 23 {}, by
    repeat' apply And.intro
    all_goals first | rfl | decide | exact Or.inl rfl | exact Or.inr rfl | (unfold JobFree; decide) | omega | simp⟩

theorem witness_DramRanksAreKept_9 : ∃ (n : Fin 24) (s : State), (dmcOf s n).state ≠ 2 :=
  ⟨23, State.reset, by
    repeat' apply And.intro
    all_goals first | rfl | decide | exact Or.inl rfl | exact Or.inr rfl | (unfold JobFree; decide) | omega | simp⟩

theorem witness_DramRanksAreKept_10 : ∃ (n : Fin 24) (s : State), (dmcOf s n).migrating = false :=
  ⟨23, State.reset, by
    repeat' apply And.intro
    all_goals first | rfl | decide | exact Or.inl rfl | exact Or.inr rfl | (unfold JobFree; decide) | omega | simp⟩

theorem witness_DramRanksAreKept_11 : ∃ (n : Fin 24) (s : State) (c : Dmc), dmcOf s n = c ∧ c.migrating = true :=
  ⟨23, setDmc 23 { migrating := true, waitOut := [1] } State.reset, { migrating := true, waitOut := [1] }, by
    repeat' apply And.intro
    all_goals first | rfl | decide | exact Or.inl rfl | exact Or.inr rfl | (unfold JobFree; decide) | omega | simp⟩

theorem witness_DramUseHelpersAndMasks_1 : ∃ (n : Fin 24) (s : State), (dmcOf s n).trnBusy = false :=
  ⟨23, State.reset, by
    repeat' apply And.intro
    all_goals first | rfl | decide | exact Or.inl rfl | exact Or.inr rfl | (unfold JobFree; decide) | omega | simp⟩

theorem witness_DramUseHelpersAndMasks_2 : ∃ (n : Fin 24) (s : State), (dmcOf s n).trnBusy = true :=
  ⟨23, setDmc 23 { trnBusy := true } State.reset, by
    repeat' apply And.intro
    all_goals first | rfl | decide | exact Or.inl rfl | exact Or.inr rfl | (unfold JobFree; decide) | omega | simp⟩

theorem witness_DramUseHelpersAndMasks_3 : ∃ (n : Fin 24) (_dq : Word) (_cb : BitVec 8) (s : State),
    (dmcOf s n).trnBusy = true :=
  ⟨23, 1, 2, setDmc 23 { trnBusy := true } State.reset, by
    repeat' apply And.intro
    all_goals first | rfl | decide | exact Or.inl rfl | exact Or.inr rfl | (unfold JobFree; decide) | omega | simp⟩

theorem witness_DramUseHelpersAndMasks_4 : ∃ (_n : Fin 24) (_k : Fin 5) (_m : BitVec 34) (s : State), dramLocked s = true :=
  ⟨23, 4, 0, setDmc 23 { lock := true } State.reset, by
    repeat' apply And.intro
    all_goals first | rfl | decide | exact Or.inl rfl | exact Or.inr rfl | (unfold JobFree; decide) | omega | simp⟩

theorem witness_DramUseHelpersAndMasks_5 : ∃ (n : Fin 24) (k : Fin 5) (m : BitVec 34) (s : State), dramLocked s = false ∧
    ((m.getLsbD 0 = false ∧ ∀ j < 5, m.getLsbD (1 + (dmcOf s n).colBits.toNat + j) = decide (j = k.val))) :=
  ⟨23, 4, 0x008021000, State.reset, by
    exact ⟨rfl, by decide⟩⟩

theorem witness_DramUseHelpersAndMasks_6 : ∃ (n : Fin 24) (k : Fin 5) (m : BitVec 34) (s : State), dramLocked s = false ∧
    (¬(m.getLsbD 0 = false ∧ ∀ j < 5, m.getLsbD (1 + (dmcOf s n).colBits.toNat + j) = decide (j = k.val))) :=
  ⟨23, 4, 1, State.reset, by
    exact ⟨rfl, by decide⟩⟩

theorem witness_DramUseHelpersAndMasks_7 : ∃ (_i : Fin 3) (_m : BitVec 34) (s : State), dramLocked s = true :=
  ⟨2, 0, setDmc 23 { lock := true } State.reset, by
    repeat' apply And.intro
    all_goals first | rfl | decide | exact Or.inl rfl | exact Or.inr rfl | (unfold JobFree; decide) | omega | simp⟩

theorem witness_DramUseHelpersAndMasks_8 : ∃ (i : Fin 3) (m : BitVec 34) (s : State), dramLocked s = false ∧ ((∀ j < 3,
    m.getLsbD j = decide (j = i.val))) :=
  ⟨2, 0x004040404, State.reset, by
    exact ⟨rfl, by decide⟩⟩

theorem witness_DramUseHelpersAndMasks_9 : ∃ (i : Fin 3) (m : BitVec 34) (s : State), dramLocked s = false ∧ (¬(∀ j < 3,
    m.getLsbD j = decide (j = i.val))) :=
  ⟨2, 0x002020202, State.reset, by
    exact ⟨rfl, by decide⟩⟩

theorem witness_ConservatoryCommands_1 : ∃ (s : State), s.cns.maint = none :=
  ⟨State.reset, by
    repeat' apply And.intro
    all_goals first | rfl | decide | exact Or.inl rfl | exact Or.inr rfl | (unfold JobFree; decide) | omega | simp⟩

theorem witness_ConservatoryCommands_2 : ∃ (s : State) (m : CMaint), s.cns.maint = some m ∧ m.mailbox = none :=
  ⟨{ State.reset with cns := { maint := some { inv := true, byWay := false, way := 0, base := 5, lines := 1, mailbox := none } } },
    { inv := true, byWay := false, way := 0, base := 5, lines := 1, mailbox := none }, by
    repeat' apply And.intro
    all_goals first | rfl | decide | exact Or.inl rfl | exact Or.inr rfl | (unfold JobFree; decide) | omega | simp⟩

theorem witness_ConservatoryCommands_3 : ∃ (w : Fin 16) (s : State) (off : BitVec 16), off = setBit s.cns.off w true ∧
    offAllowed s off = true :=
  ⟨0, wSrv, 1, by
    repeat' apply And.intro
    all_goals first | rfl | decide | exact Or.inl rfl | exact Or.inr rfl | (unfold JobFree; decide) | omega | simp⟩

theorem witness_ConservatoryCommands_4 : ∃ (w : Fin 16) (s : State) (off : BitVec 16), off = setBit s.cns.off w true ∧
    offAllowed s off = false :=
  ⟨0, { wSrv with cns := { off := 0x1FFE } }, 0x1FFF, by
    repeat' apply And.intro
    all_goals first | rfl | decide | exact Or.inl rfl | exact Or.inr rfl | (unfold JobFree; decide) | omega | simp⟩

theorem witness_ConservatoryCommands_5 : ∃ (w : Fin 16) (s : State), s.cns.off.getLsbD w = true ∧
    s.cns.powered.getLsbD w = true ∧ s.cns.wayReq = none :=
  ⟨15, { State.reset with cns := { off := 0x8000 } }, by
    repeat' apply And.intro
    all_goals first | rfl | decide | exact Or.inl rfl | exact Or.inr rfl | (unfold JobFree; decide) | omega | simp⟩

theorem witness_ConservatoryCommands_6 : ∃ (w : Fin 16) (s : State),
    ((s.cns.off.getLsbD w = false ∨ s.cns.powered.getLsbD w = false)) :=
  ⟨15, State.reset, by
    repeat' apply And.intro
    all_goals first | rfl | decide | exact Or.inl rfl | exact Or.inr rfl | (unfold JobFree; decide) | omega | simp⟩

theorem witness_ConservatoryCommands_7 : ∃ (i : Fin 4) (s : State) (l : CLock), lockOf s.cns i = l ∧ l.loading = true ∧
    l.mailbox = none :=
  ⟨3, { State.reset with cns := { locks := [(3, { loading := true })] } }, { loading := true }, by
    repeat' apply And.intro
    all_goals first | rfl | decide | exact Or.inl rfl | exact Or.inr rfl | (unfold JobFree; decide) | omega | simp⟩

theorem witness_ConservatoryCommands_8 : ∃ (i : Fin 4) (s : State), (lockOf s.cns i).loading = false :=
  ⟨3, State.reset, by
    repeat' apply And.intro
    all_goals first | rfl | decide | exact Or.inl rfl | exact Or.inr rfl | (unfold JobFree; decide) | omega | simp⟩

theorem witness_ConservatoryCommands_9 : ∃ (s : State), s.cns.agePeriod ≠ 0 :=
  ⟨State.reset, by
    repeat' apply And.intro
    all_goals first | rfl | decide | exact Or.inl rfl | exact Or.inr rfl | (unfold JobFree; decide) | omega | simp⟩

theorem witness_ConservatoryCommands_10 : ∃ (s : State), s.cns.agePeriod = 0 :=
  ⟨{ State.reset with cns := { agePeriod := 0 } }, by
    repeat' apply And.intro
    all_goals first | rfl | decide | exact Or.inl rfl | exact Or.inr rfl | (unfold JobFree; decide) | omega | simp⟩

theorem witness_ConservatoryCommands_11 : ∃ (_k : Fin 5) (_m : BitVec 25) (s : State), s.cns.hashLock = true :=
  ⟨4, 0, { State.reset with cns := { hashLock := true } }, by
    repeat' apply And.intro
    all_goals first | rfl | decide | exact Or.inl rfl | exact Or.inr rfl | (unfold JobFree; decide) | omega | simp⟩

theorem witness_ConservatoryCommands_12 : ∃ (k : Fin 5) (m : BitVec 25) (s : State), s.cns.hashLock = false ∧ ((∀ j < 5,
    m.getLsbD j = decide (j = k.val))) :=
  ⟨4, 0x1084210, State.reset, by
    exact ⟨rfl, by decide⟩⟩

theorem witness_ConservatoryCommands_13 : ∃ (k : Fin 5) (m : BitVec 25) (s : State), s.cns.hashLock = false ∧ (¬(∀ j < 5,
    m.getLsbD j = decide (j = k.val))) :=
  ⟨4, 0, State.reset, by
    exact ⟨rfl, by decide⟩⟩

theorem witness_ConservatoryCommands_14 : ∃ (line : Nat) (w : Nat) (l : CLine) (s : State), findLine s.cns line = some (w, l) :=
  ⟨5, 15, { line := 5, dirty := true, ref := true, cls := 0 }, wLine true, by
    decide +kernel⟩

theorem witness_ConservatoryCommands_15 : ∃ (line : Nat) (w : Nat) (l : CLine) (s : State), findLine s.cns line = some (w,
    l) ∧ l.dirty = false :=
  ⟨5, 15, { line := 5, dirty := false, ref := true, cls := 0 }, wLine false, by
    decide +kernel⟩

theorem witness_ConservatoryCommands_16 : ∃ (line : Nat) (w : Nat) (l : CLine) (s : State), findLine s.cns line = some (w,
    l) ∧ l.dirty = true :=
  ⟨5, 15, { line := 5, dirty := true, ref := true, cls := 0 }, wLine true, by
    decide +kernel⟩

theorem witness_ConservatoryCommands_17 : ∃ (line : Nat) (_both : Bool) (s : State), findLine s.cns line = none :=
  ⟨5, true, State.reset, by rfl⟩

theorem witness_KeySlotsAndQueueTwo_1 : ∃ (_i : Fin 8) (_w : Word) (s : State), s.sec.keyOp = none :=
  ⟨7, 0xFFFFFFFF, State.reset, by
    repeat' apply And.intro
    all_goals first | rfl | decide | exact Or.inl rfl | exact Or.inr rfl | (unfold JobFree; decide) | omega | simp⟩

theorem witness_KeySlotsAndQueueTwo_2 : ∃ (_i : Fin 8) (_w : Word) (s : State), s.sec.keyOp.isSome = true :=
  ⟨7, 0, { State.reset with sec := { keyOp := some { slot := 1, zeroise := true, key := [] } } }, by
    repeat' apply And.intro
    all_goals first | rfl | decide | exact Or.inl rfl | exact Or.inr rfl | (unfold JobFree; decide) | omega | simp⟩

theorem witness_KeySlotsAndQueueTwo_3 : ∃ (k : Fin 4096) (s : State) (key : Bytes), s.sec.keyOp = none ∧ k ≠ 4095 ∧
    ((∀ j ∈ q2Waiting s.sec, descNames (q2Desc s j) k = false)) ∧ key = (s.sec.keyData.map (fun w => leN 4 w.toNat)).flatten :=
  ⟨4094, wQ2 wDesc, zeros 32, by
    exact ⟨rfl, by decide, by decide +kernel, by decide⟩⟩

theorem witness_KeySlotsAndQueueTwo_4 : ∃ (k : Fin 4096) (s : State) (key : Bytes), s.sec.keyOp = none ∧ k ≠ 4095 ∧
    ((∀ j ∈ q2Waiting s.sec, descNames (q2Desc s j) k = false)) ∧ key = (s.sec.keyData.map (fun w => leN 4 w.toNat)).flatten ∧
    (slotOf s k).retired = true :=
  ⟨7, { State.reset with sec := { slots := [(7, { retired := true })] } }, _, ⟨rfl, by decide,
    (fun _ h => nomatch (h : _ ∈ ([] : List Nat))), rfl, rfl⟩⟩

theorem witness_KeySlotsAndQueueTwo_5 : ∃ (k : Fin 4096) (s : State) (key : Bytes), s.sec.keyOp = none ∧ k ≠ 4095 ∧
    ((∀ j ∈ q2Waiting s.sec, descNames (q2Desc s j) k = false)) ∧ key = (s.sec.keyData.map (fun w => leN 4 w.toNat)).flatten ∧
    (slotOf s k).retired = false :=
  ⟨4094, wQ2 wDesc, zeros 32, by
    exact ⟨rfl, by decide, by decide +kernel, by decide, rfl⟩⟩

theorem witness_KeySlotsAndQueueTwo_6 : ∃ (k : Fin 4096) (s : State) (j : Nat), s.sec.keyOp = none ∧ k ≠ 4095 ∧
    j ∈ q2Waiting s.sec ∧ descNames (q2Desc s j) k = true :=
  ⟨1, wQ2 wDesc, 0, by
    exact ⟨rfl, by decide, by decide +kernel, by decide +kernel⟩⟩

theorem witness_KeySlotsAndQueueTwo_7 : ∃ (k : Fin 4096) (s : State), (s.sec.keyOp.isSome = true ∨ k = 4095) :=
  ⟨4095, State.reset, by
    repeat' apply And.intro
    all_goals first | rfl | decide | exact Or.inl rfl | exact Or.inr rfl | (unfold JobFree; decide) | omega | simp⟩

theorem witness_KeySlotsAndQueueTwo_8 : ∃ (tail : BitVec 8) (s : State) (added : List Nat),
    added = (List.range (tail - s.sec.q2Tail).toNat).map (fun i => (s.sec.q2Tail.toNat + i) % 256) :=
  ⟨255, State.reset, _, rfl⟩

theorem witness_KeySlotsAndQueueTwo_9 : ∃ (id : Nat) (poisoned : Bool) (s : State) (k : Nat) (o : Nat) (bytes : Bytes) (c : Sec),
    s.sec.q2Head.toNat = k ∧ q2Count s.sec ≠ 0 ∧ fieldLE (q2Desc s k) 56 4 = id ∧ q2Run s k poisoned = (o, bytes) ∧
    c = { s.sec with lodgeMem := memPuts (memPuts s.sec.lodgeMem (fieldLE (q2Desc s k) 24 8) bytes) (s.sec.q2Base.toNat + 16384 + 16 * k) (leN 4 id ++ leN 1 o ++ zeros 3 ++ leN 4 (if o = 0 then fieldLE (q2Desc s k) 4 4 else 0) ++ zeros 4), q2Head := s.sec.q2Head + 1, q2Full := false, q2Busy := s.sec.q2Busy.filter (· ≠ k), tagFail := satAdd 16 s.sec.tagFail (if o = 2 then 1 else 0), poisoned := satAdd 16 s.sec.poisoned (if o = 4 then 1 else 0) } ∧
    s.sec.keyOp = none :=
  ⟨77, false, wKeyed, 0, 0, (q2Run wKeyed 0 false).2, _, by
    refine ⟨rfl, by decide +kernel, by decide +kernel, Prod.ext ?_ rfl, rfl, rfl⟩
    decide +kernel⟩

theorem witness_KeySlotsAndQueueTwo_10 : ∃ (id : Nat) (poisoned : Bool) (s : State) (k : Nat) (o : Nat) (bytes : Bytes) (c : Sec) (op : _),
    s.sec.q2Head.toNat = k ∧ q2Count s.sec ≠ 0 ∧ fieldLE (q2Desc s k) 56 4 = id ∧ q2Run s k poisoned = (o, bytes) ∧
    c = { s.sec with lodgeMem := memPuts (memPuts s.sec.lodgeMem (fieldLE (q2Desc s k) 24 8) bytes) (s.sec.q2Base.toNat + 16384 + 16 * k) (leN 4 id ++ leN 1 o ++ zeros 3 ++ leN 4 (if o = 0 then fieldLE (q2Desc s k) 4 4 else 0) ++ zeros 4), q2Head := s.sec.q2Head + 1, q2Full := false, q2Busy := s.sec.q2Busy.filter (· ≠ k), tagFail := satAdd 16 s.sec.tagFail (if o = 2 then 1 else 0), poisoned := satAdd 16 s.sec.poisoned (if o = 4 then 1 else 0) } ∧
    s.sec.keyOp = some op ∧ s.sec.q2Full = false ∧ s.sec.q2Tail = s.sec.q2Head + 1 ∧ o ≠ 3 :=
  ⟨77, false, { wKeyed with sec := { wKeyed.sec with keyOp := some { slot := 9, zeroise := true, key := [] } } }, 0, 0,
    (q2Run ({ wKeyed with sec := { wKeyed.sec with keyOp := some { slot := 9, zeroise := true, key := [] } } }) 0 false).2, _,
    { slot := 9, zeroise := true, key := [] }, by
    refine ⟨rfl, by decide +kernel, by decide +kernel, Prod.ext ?_ rfl, rfl, rfl, rfl, rfl, by decide⟩
    decide +kernel⟩

theorem witness_KeySlotsAndQueueTwo_11 : ∃ (id : Nat) (_poisoned : Bool) (s : State),
    (q2Count s.sec = 0 ∨ fieldLE (q2Desc s s.sec.q2Head.toNat) 56 4 ≠ id) :=
  ⟨77, false, State.reset, by
    repeat' apply And.intro
    all_goals first | rfl | decide | exact Or.inl rfl | exact Or.inr rfl | (unfold JobFree; decide) | omega | simp⟩

theorem witness_KeySlotsAndQueueTwo_12 : ∃ (q : Fin 3) (_id : Nat) (_s : State), q ≠ 2 :=
  ⟨1, 77, State.reset, by
    repeat' apply And.intro
    all_goals first | rfl | decide | exact Or.inl rfl | exact Or.inr rfl | (unfold JobFree; decide) | omega | simp⟩

theorem witness_KeySlotsAndQueueTwo_13 : ∃ (k : Fin 4096) (s : State), ((slotOf s k).key = [] ∨ k = 4095) :=
  ⟨4095, State.reset, by
    repeat' apply And.intro
    all_goals first | rfl | decide | exact Or.inl rfl | exact Or.inr rfl | (unfold JobFree; decide) | omega | simp⟩

theorem witness_KeySlotsAndQueueTwo_14 : ∃ (s : State), (slotOf s 3072).key ≠ [] ∧ q2Waiting s.sec = [] :=
  ⟨{ State.reset with sec := { slots := [(3072, { key := [1] })] } }, ⟨by decide, rfl⟩⟩

theorem witness_KeySlotsAndQueueTwo_15 : ∃ (k : Fin 4096) (s : State), (slotOf s k).key ≠ [] ∧ k ≠ 4095 ∧ k ≠ 3072 ∧
    1 < (slotOf s k).purpose ∧ q2Waiting s.sec = [] :=
  ⟨4094, setSlot 4094 { key := [1] } State.reset, by
    repeat' apply And.intro
    all_goals first | rfl | decide | exact Or.inl rfl | exact Or.inr rfl | (unfold JobFree; decide) | omega | simp⟩

theorem witness_DigestPublicKeyAndRandom_1 : ∃ (u : Fin 3) (_alg : BitVec 2) (_k : BitVec 6) (s : State) (d : Digest),
    s.sec.dgt = d ∧ d.owner = u :=
  ⟨2, 3, 63, { State.reset with sec := { dgt := { owner := 2 } } }, { owner := 2 }, by
    repeat' apply And.intro
    all_goals first | rfl | decide | exact Or.inl rfl | exact Or.inr rfl | (unfold JobFree; decide) | omega | simp⟩

theorem witness_DigestPublicKeyAndRandom_2 : ∃ (u : Fin 3) (_alg : BitVec 2) (k : BitVec 6) (s : State) (d : Digest),
    s.sec.dgt = d ∧ d.owner = u ∧ dgtSlotAllowed s u k.toNat = false :=
  ⟨2, 0, 47, { State.reset with sec := { dgt := { owner := 2 } } }, { owner := 2 }, by
    repeat' apply And.intro
    all_goals first | rfl | decide | exact Or.inl rfl | exact Or.inr rfl | (unfold JobFree; decide) | omega | simp⟩

theorem witness_DigestPublicKeyAndRandom_3 : ∃ (u : Fin 3) (_w : Word) (s : State) (d : Digest), s.sec.dgt = d ∧ d.owner = u ∧
    d.busy = true :=
  ⟨2, 0, { State.reset with sec := { dgt := { owner := 2, busy := true } } }, { owner := 2, busy := true }, by
    repeat' apply And.intro
    all_goals first | rfl | decide | exact Or.inl rfl | exact Or.inr rfl | (unfold JobFree; decide) | omega | simp⟩

theorem witness_DigestPublicKeyAndRandom_4 : ∃ (u : Fin 3) (_w : Word) (s : State) (d : Digest), s.sec.dgt = d ∧ d.owner = u ∧
    d.busy = false ∧ d.active = true :=
  ⟨2, 0, { State.reset with sec := { dgt := { owner := 2, active := true } } }, { owner := 2, active := true }, by
    repeat' apply And.intro
    all_goals first | rfl | decide | exact Or.inl rfl | exact Or.inr rfl | (unfold JobFree; decide) | omega | simp⟩

theorem witness_DigestPublicKeyAndRandom_5 : ∃ (u : Fin 3) (_w : Word) (_n : BitVec 2) (s : State) (d : Digest),
    s.sec.dgt = d ∧ d.owner ≠ u :=
  ⟨2, 0, 3, { State.reset with sec := { dgt := { owner := 3 } } }, { owner := 3 }, by
    repeat' apply And.intro
    all_goals first | rfl | decide | exact Or.inl rfl | exact Or.inr rfl | (unfold JobFree; decide) | omega | simp⟩

theorem witness_DigestPublicKeyAndRandom_6 : ∃ (u : Fin 3) (_w : Word) (_n : BitVec 2) (s : State) (d : Digest) (_alg : Nat) (_hmac : Nat) (_restore : Nat) (_k : Nat),
    s.sec.dgt = d ∧ d.owner ≠ u :=
  ⟨2, 5, 0, { State.reset with sec := { dgt := { owner := 0 } } }, { owner := 0 }, 0, 0, 0, 0, by
    repeat' apply And.intro
    all_goals first | rfl | decide | exact Or.inl rfl | exact Or.inr rfl | (unfold JobFree; decide) | omega | simp⟩

theorem witness_DigestPublicKeyAndRandom_7 : ∃ (u : Fin 3) (_n : BitVec 2) (s : State), s.sec.dgt.owner = u ∧
    s.sec.dgt.active = false :=
  ⟨2, 1, { State.reset with sec := { dgt := { owner := 2 } } }, by
    repeat' apply And.intro
    all_goals first | rfl | decide | exact Or.inl rfl | exact Or.inr rfl | (unfold JobFree; decide) | omega | simp⟩

theorem witness_DigestPublicKeyAndRandom_8 : ∃ (s : State), s.sec.dgt.busy = false :=
  ⟨State.reset, by
    repeat' apply And.intro
    all_goals first | rfl | decide | exact Or.inl rfl | exact Or.inr rfl | (unfold JobFree; decide) | omega | simp⟩

theorem witness_DigestPublicKeyAndRandom_9 : ∃ (s : State) (d : Digest), s.sec.dgt = d ∧ d.busy = true :=
  ⟨{ State.reset with sec := { dgt := { busy := true } } }, { busy := true }, by
    repeat' apply And.intro
    all_goals first | rfl | decide | exact Or.inl rfl | exact Or.inr rfl | (unfold JobFree; decide) | omega | simp⟩

theorem witness_DigestPublicKeyAndRandom_10 : ∃ (u : Fin 3) (_n : BitVec 2) (s : State) (d : Digest), s.sec.dgt = d ∧
    d.owner = u ∧ d.active = true ∧ d.hmac = false :=
  ⟨2, 0, { State.reset with sec := { dgt := { owner := 2, active := true } } }, { owner := 2, active := true }, by
    repeat' apply And.intro
    all_goals first | rfl | decide | exact Or.inl rfl | exact Or.inr rfl | (unfold JobFree; decide) | omega | simp⟩

theorem witness_DigestPublicKeyAndRandom_11 : ∃ (s : State), s.sec.dgt.owner = 3 ∧ s.sec.dgt.pending = 0 :=
  ⟨State.reset, by
    repeat' apply And.intro
    all_goals first | rfl | decide | exact Or.inl rfl | exact Or.inr rfl | (unfold JobFree; decide) | omega | simp⟩

theorem witness_DigestPublicKeyAndRandom_12 : ∃ (s : State), s.sec.dgt.owner < 3 ∧ s.sec.dgt.pending = 0 :=
  ⟨{ State.reset with sec := { dgt := { owner := 2 } } }, by
    repeat' apply And.intro
    all_goals first | rfl | decide | exact Or.inl rfl | exact Or.inr rfl | (unfold JobFree; decide) | omega | simp⟩

theorem witness_DigestPublicKeyAndRandom_13 : ∃ (u : Fin 3) (s : State), s.sec.dgt.owner = u ∧ s.sec.dgt.pending = 0 :=
  ⟨2, { State.reset with sec := { dgt := { owner := 2 } } }, by
    repeat' apply And.intro
    all_goals first | rfl | decide | exact Or.inl rfl | exact Or.inr rfl | (unfold JobFree; decide) | omega | simp⟩

theorem witness_DigestPublicKeyAndRandom_14 : ∃ (s : State), s.sec.dgt.owner = 2 :=
  ⟨{ State.reset with sec := { dgt := { owner := 2 } } }, by
    repeat' apply And.intro
    all_goals first | rfl | decide | exact Or.inl rfl | exact Or.inr rfl | (unfold JobFree; decide) | omega | simp⟩

theorem witness_DigestPublicKeyAndRandom_15 : ∃ (s : State), s.sec.dgt.owner ≠ 2 :=
  ⟨State.reset, by
    repeat' apply And.intro
    all_goals first | rfl | decide | exact Or.inl rfl | exact Or.inr rfl | (unfold JobFree; decide) | omega | simp⟩

theorem witness_DigestPublicKeyAndRandom_16 : ∃ (_ok : Bool) (s : State), s.sec.pkaQ = [] :=
  ⟨true, State.reset, by
    repeat' apply And.intro
    all_goals first | rfl | decide | exact Or.inl rfl | exact Or.inr rfl | (unfold JobFree; decide) | omega | simp⟩

theorem witness_DigestPublicKeyAndRandom_17 : ∃ (_ok : Bool) (s : State) (op : Nat) (rest : List Nat), s.sec.pkaQ = op :: rest :=
  ⟨true, { State.reset with sec := { pkaQ := [2, 0] } }, 2, [0], by
    repeat' apply And.intro
    all_goals first | rfl | decide | exact Or.inl rfl | exact Or.inr rfl | (unfold JobFree; decide) | omega | simp⟩

theorem witness_DigestPublicKeyAndRandom_18 : ∃ (s : State), s.sec.rngHalted = false :=
  ⟨State.reset, by
    repeat' apply And.intro
    all_goals first | rfl | decide | exact Or.inl rfl | exact Or.inr rfl | (unfold JobFree; decide) | omega | simp⟩

theorem witness_DigestPublicKeyAndRandom_19 : ∃ (s : State), s.sec.rngHalted = true :=
  ⟨{ State.reset with sec := { rngHalted := true } }, by
    repeat' apply And.intro
    all_goals first | rfl | decide | exact Or.inl rfl | exact Or.inr rfl | (unfold JobFree; decide) | omega | simp⟩

theorem witness_RegisterWritesAndFunctionReset_1 : ∃ (n : Fin 64) (data : Bytes) (s : State), data.length = 4 ∧
    (mbxOf s n).state = .idle ∧ n ≠ 63 ∧ (mbxOf s n).cancel = false ∧ leVal data = 1 :=
  ⟨62, [1, 0, 0, 0], State.reset, by
    repeat' apply And.intro
    all_goals first | rfl | decide | exact Or.inl rfl | exact Or.inr rfl | (unfold JobFree; decide) | omega | simp⟩

theorem witness_RegisterWritesAndFunctionReset_2 : ∃ (_n : Fin 64) (off : Nat) (data : Bytes) (_s : State), 0x200 ≤ off ∧
    off < 0x3C0 ∧ data.length = 4 ∧ off % 4 = 0 :=
  ⟨63, 0x3BC, [1, 0, 0, 0], State.reset, by
    repeat' apply And.intro
    all_goals first | rfl | decide | exact Or.inl rfl | exact Or.inr rfl | (unfold JobFree; decide) | omega | simp⟩

theorem witness_RegisterWritesAndFunctionReset_3 : ∃ (addr : Nat) (data : Bytes) (_s : State), addr / 0x400 < 64 ∧
    0x3C0 ≤ addr % 0x400 ∧ data.length ≠ 4 :=
  ⟨0xFFFF, [1, 0], State.reset, by
    repeat' apply And.intro
    all_goals first | rfl | decide | exact Or.inl rfl | exact Or.inr rfl | (unfold JobFree; decide) | omega | simp⟩

theorem witness_RegisterWritesAndFunctionReset_4 : ∃ (data : Bytes) (_s : State) (v : Word), data.length = 4 ∧
    v = BitVec.ofNat 32 (leVal data) :=
  ⟨[63, 1, 0, 0], State.reset, 319, by
    repeat' apply And.intro
    all_goals first | rfl | decide | exact Or.inl rfl | exact Or.inr rfl | (unfold JobFree; decide) | omega | simp⟩

theorem witness_RegisterWritesAndFunctionReset_5 : ∃ (i : Fin 64) (data : Bytes) (s : State), data.length = 4 ∧
    s.kiosk.msixPba.getLsbD i = false :=
  ⟨63, [0, 0, 0, 1], State.reset, by
    repeat' apply And.intro
    all_goals first | rfl | decide | exact Or.inl rfl | exact Or.inr rfl | (unfold JobFree; decide) | omega | simp⟩

theorem witness_RegisterWritesAndFunctionReset_6 : ∃ (addr : Nat) (data : Bytes) (s : State),
    (data.length ≠ 4 ∨ regVal 0 addr s = none ∨ regDark addr s = true) :=
  ⟨0x1200002C, [0, 0, 0, 1], State.reset, by
    exact .inr (.inl rfl)⟩

theorem witness_RegisterWritesAndFunctionReset_7 : ∃ (data : Bytes) (s : State) (v : Word), data.length = 4 ∧
    v = BitVec.ofNat 32 (leVal data) ∧ s.evt.lock = false :=
  ⟨[63, 1, 0, 0], State.reset, 319, by
    repeat' apply And.intro
    all_goals first | rfl | decide | exact Or.inl rfl | exact Or.inr rfl | (unfold JobFree; decide) | omega | simp⟩

theorem witness_RegisterWritesAndFunctionReset_8 : ∃ (data : Bytes) (s : State) (v : Word), data.length = 4 ∧
    v = BitVec.ofNat 32 (leVal data) ∧ s.evt.lock = true :=
  ⟨[63, 1, 0, 0], { State.reset with evt := { lock := true } }, 319, by
    repeat' apply And.intro
    all_goals first | rfl | decide | exact Or.inl rfl | exact Or.inr rfl | (unfold JobFree; decide) | omega | simp⟩

theorem witness_RegisterWritesAndFunctionReset_9 : ∃ (i : Fin 32) (s : State), (monOf s i).en = 0 ∧ claimHolder s 3 i = none :=
  ⟨31, State.reset, by
    repeat' apply And.intro
    all_goals first | rfl | decide | exact Or.inl rfl | exact Or.inr rfl | (unfold JobFree; decide) | omega | simp⟩

theorem witness_RegisterWritesAndFunctionReset_10 : ∃ (i : Fin 32) (s : State), (monOf s i).en = 1 ∧ claimHolder s 3 i = none :=
  ⟨31, setMon 31 { en := 1 } State.reset, by
    repeat' apply And.intro
    all_goals first | rfl | decide | exact Or.inl rfl | exact Or.inr rfl | (unfold JobFree; decide) | omega | simp⟩

theorem witness_RegisterWritesAndFunctionReset_11 : ∃ (i : Fin 32) (s : State), (monOf s i).running = false ∧
    tget s.kiosk.claims (claimKey 3 i) = none :=
  ⟨31, State.reset, by
    repeat' apply And.intro
    all_goals first | rfl | decide | exact Or.inl rfl | exact Or.inr rfl | (unfold JobFree; decide) | omega | simp⟩

theorem witness_RegisterWritesAndFunctionReset_12 : ∃ (cls : Nat) (i : Nat) (_en : BitVec 3) (_s : State),
    (cls = 0 ∨ 4 < cls ∨ claimCount cls ≤ i) :=
  ⟨4, 4, 7, State.reset, by
    repeat' apply And.intro
    all_goals first | rfl | decide | exact Or.inl rfl | exact Or.inr rfl | (unfold JobFree; decide) | omega | simp⟩

theorem witness_RegisterWritesAndFunctionReset_13 : ∃ (s : State), s.kiosk.session = none :=
  ⟨State.reset, by
    repeat' apply And.intro
    all_goals first | rfl | decide | exact Or.inl rfl | exact Or.inr rfl | (unfold JobFree; decide) | omega | simp⟩

theorem witness_RegisterWritesAndFunctionReset_14 : ∃ (x : Session) (s : State), s.kiosk.session = some x ∧
    x.path = .controlPort :=
  ⟨{ handle := 0, scope := 2, path := .controlPort, mailbox := 0, expiry := 9 },
    { State.reset with kiosk := { session := some { handle := 0, scope := 2, path := .controlPort, mailbox := 0, expiry := 9 } } },
    by
    repeat' apply And.intro
    all_goals first | rfl | decide | exact Or.inl rfl | exact Or.inr rfl | (unfold JobFree; decide) | omega | simp⟩

theorem witness_ErrorsVerdictsAndAgeing_1 : ∃ (_cls : Fin 5) (_sub : Nat) (_e : Nat) (_c : Nat) (s : State),
    s.evt.running = [] ∧ s.evt.waiting = [] :=
  ⟨4, 8, 0, 0, State.reset, by
    repeat' apply And.intro
    all_goals first | rfl | decide | exact Or.inl rfl | exact Or.inr rfl | (unfold JobFree; decide) | omega | simp⟩

theorem witness_ErrorsVerdictsAndAgeing_2 : ∃ (subj : Subject) (_v : Verdict) (_m : Nat) (s : State), ((∀ t ∈ s.evt.running,
    t.subject ≠ subj)) :=
  ⟨.engineCore 0 1, .fail, 0, wTests, by
    decide⟩

theorem witness_ErrorsVerdictsAndAgeing_3 : ∃ (e : Nat) (c : Nat) (q : Nat) (_m : Nat) (s : State) (tst : SelfTest),
    s.evt.running = [tst] ∧ tst.subject = .engineCore e c ∧ tst.errSeq = some q ∧ s.evt.waiting = [] ∧ s.kiosk.jobs = [] :=
  ⟨0, 0, 1, 0, wTests, wTest, by
    repeat' apply And.intro
    all_goals first | rfl | decide | exact Or.inl rfl | exact Or.inr rfl | (unfold JobFree; decide) | omega | simp⟩

theorem witness_ErrorsVerdictsAndAgeing_4 : ∃ (e : Nat) (c : Nat) (q : Nat) (_m : Nat) (s : State) (tst : SelfTest),
    s.evt.running = [tst] ∧ tst.subject = .engineCore e c ∧ tst.errSeq = some q ∧ s.evt.waiting = [] ∧ s.kiosk.jobs = [] ∧
    e < 5 ∧ (e, c) ∉ s.evt.coresRetired :=
  ⟨0, 0, 1, 0, wTests, wTest, by
    repeat' apply And.intro
    all_goals first | rfl | decide | exact Or.inl rfl | exact Or.inr rfl | (unfold JobFree; decide) | omega | simp⟩

theorem witness_ErrorsVerdictsAndAgeing_5 : ∃ (e : Nat) (c : Nat) (q : Nat) (_m : Nat) (s : State) (tst : SelfTest),
    s.evt.running = [tst] ∧ tst.subject = .engineCore e c ∧ tst.errSeq = some q ∧ s.evt.waiting = [] ∧ s.kiosk.jobs = [] ∧
    e < 5 ∧ (e, c) ∉ s.evt.coresRetired ∧ 2 ≤ transients s (.engineCore e c) :=
  ⟨0, 0, 1, 0,
    { State.reset with evt := { running := [wTest], recs := [{ off := 0, len := 64, cls := 1, typ := 0x0902, seq := 1, hours := 0, seconds := 0, cycle := 1, repeats := 0, lastSeen := 0, subject := .engineCore 0 0, detail := [] }, { off := 0, len := 64, cls := 1, typ := 0x0902, seq := 2, hours := 0, seconds := 0, cycle := 1, repeats := 0, lastSeen := 0, subject := .engineCore 0 0, detail := [] }] } },
    wTest, by
    repeat' apply And.intro
    all_goals first | rfl | decide | exact Or.inl rfl | exact Or.inr rfl | (unfold JobFree; decide) | omega | simp⟩

theorem witness_ErrorsVerdictsAndAgeing_6 : ∃ (e : Nat) (c : Nat) (q : Nat) (_m : Nat) (s : State) (tst : SelfTest),
    s.evt.running = [tst] ∧ tst.subject = .engineCore e c ∧ tst.errSeq = some q ∧ s.evt.waiting = [] ∧ s.kiosk.jobs = [] ∧
    transients s (.engineCore e c) < 2 :=
  ⟨0, 0, 1, 0, wTests, wTest, by
    repeat' apply And.intro
    all_goals first | rfl | decide | exact Or.inl rfl | exact Or.inr rfl | (unfold JobFree; decide) | omega | simp⟩

theorem witness_ErrorsVerdictsAndAgeing_7 : ∃ (ps : Nat) (s : State), ps < 15 ∧ marginOf s 0 ≠ 0 :=
  ⟨14, State.reset, by
    repeat' apply And.intro
    all_goals first | rfl | decide | exact Or.inl rfl | exact Or.inr rfl | (unfold JobFree; decide) | omega | simp⟩

theorem witness_ErrorsVerdictsAndAgeing_8 : ∃ (ps : Nat) (s : State), ps < 15 ∧ marginOf s 0 = 0 ∧ s.evt.ageingOut = false ∧
    s.evt.ageingWarn = true :=
  ⟨14, { State.reset with ghx := { svc := [railHigh 0, 800, 800] }, evt := { ageingWarn := true } }, by
    repeat' apply And.intro
    all_goals first | rfl | decide | exact Or.inl rfl | exact Or.inr rfl | (unfold JobFree; decide) | omega | simp⟩

theorem witness_ErrorsVerdictsAndAgeing_9 : ∃ (ps : Nat) (_s : State), 15 ≤ ps :=
  ⟨15, State.reset, by
    repeat' apply And.intro
    all_goals first | rfl | decide | exact Or.inl rfl | exact Or.inr rfl | (unfold JobFree; decide) | omega | simp⟩

theorem witness_MonitorsAndEventRecorder_1 : ∃ (u : Fin 32) (s : State), (monOf s u).running = true :=
  ⟨31, setMon 31 { running := true } State.reset, by
    repeat' apply And.intro
    all_goals first | rfl | decide | exact Or.inl rfl | exact Or.inr rfl | (unfold JobFree; decide) | omega | simp⟩

theorem witness_MonitorsAndEventRecorder_2 : ∃ (u : Fin 32) (s : State), (monOf s u).running = true ∧ (monOf s u).windowMs ≠ 0 :=
  ⟨31, setMon 31 { running := true, windowMs := 1 } State.reset, by
    repeat' apply And.intro
    all_goals first | rfl | decide | exact Or.inl rfl | exact Or.inr rfl | (unfold JobFree; decide) | omega | simp⟩

theorem witness_MonitorsAndEventRecorder_3 : ∃ (u : Fin 32) (s : State), (monOf s u).running = false :=
  ⟨31, State.reset, by
    repeat' apply And.intro
    all_goals first | rfl | decide | exact Or.inl rfl | exact Or.inr rfl | (unfold JobFree; decide) | omega | simp⟩

theorem witness_MonitorsAndEventRecorder_4 : ∃ (s : State), s.evt.lostReported < s.evt.lost :=
  ⟨{ State.reset with evt := { lost := 1 } }, by
    repeat' apply And.intro
    all_goals first | rfl | decide | exact Or.inl rfl | exact Or.inr rfl | (unfold JobFree; decide) | omega | simp⟩

theorem witness_MonitorsAndEventRecorder_5 : ∃ (s : State), s.evt.lost = s.evt.lostReported :=
  ⟨State.reset, by
    repeat' apply And.intro
    all_goals first | rfl | decide | exact Or.inl rfl | exact Or.inr rfl | (unfold JobFree; decide) | omega | simp⟩

theorem witness_MainWindowIsOneToOne_1 : ∃ (s : State) (pa : Nat) (q : Nat), pa < 24 * s.dram.mainGib * 2 ^ 30 ∧
    q = pa / 256 / 3 :=
  ⟨{ State.reset with dram := { mainGib := 1 } }, 25769803775, 33554431, by
    exact ⟨by decide, by decide⟩⟩

theorem witness_MainWindowIsOneToOne_2 : ∃ (s : State) (pa : Nat) (pa' : Nat), ((∀ i < 3,
    chanMaskOk i (s.dram.chanHash.getD i 0) = true)) ∧ pa < 24 * s.dram.mainGib * 2 ^ 30 ∧
    pa' < 24 * s.dram.mainGib * 2 ^ 30 ∧ placeAddr s pa = placeAddr s pa' :=
  ⟨{ State.reset with dram := { mainGib := 1 } }, 0, 0, by
    exact ⟨by decide, by decide, by decide, rfl⟩⟩

theorem witness_MainWindowIsOneToOne_3 : ∃ (i : Fin 3) (m : BitVec 34) (s : State), dramLocked s = false ∧
    chanMaskOk i m = false :=
  ⟨2, 0, State.reset, by
    repeat' apply And.intro
    all_goals first | rfl | decide | exact Or.inl rfl | exact Or.inr rfl | (unfold JobFree; decide) | omega | simp⟩

theorem witness_EventsMerge_1 : ∃ (sub : Nat) (lo : Nat) (_cls : Nat) (subj : Subject) (_detail : Bytes) (s : State) (r : EvRec),
    s.evt.recs.getLast? = some r ∧ r.typ = 256 * sub + lo ∧ r.subject = subj ∧ r.repeats < 0xFFFF :=
  ⟨6, 5, 1, .none, [], wEvs, wEv, by
    repeat' apply And.intro
    all_goals first | rfl | decide | exact Or.inl rfl | exact Or.inr rfl | (unfold JobFree; decide) | omega | simp⟩

theorem witness_EventsMerge_2 : ∃ (sub : Nat) (lo : Nat) (_cls : Nat) (subj : Subject) (_detail : Bytes) (s : State), ((∀ r,
    s.evt.recs.getLast? = some r → r.typ ≠ 256 * sub + lo ∨ r.subject ≠ subj ∨ 0xFFFF ≤ r.repeats)) :=
  ⟨6, 6, 1, .none, [], wEvs, by
    intro r h
    have : r = wEv := (Option.some.inj h).symm
    subst this
    exact .inl (by decide)⟩

theorem witness_LatencyHistogram_1 : ∃ (l : Nat), l < 4 :=
  ⟨3, by
    repeat' apply And.intro
    all_goals first | rfl | decide | exact Or.inl rfl | exact Or.inr rfl | (unfold JobFree; decide) | omega | simp⟩

theorem witness_LatencyHistogram_2 : ∃ (l : Nat), 4 ≤ l ∧ l < 131072 :=
  ⟨131071, by
    repeat' apply And.intro
    all_goals first | rfl | decide | exact Or.inl rfl | exact Or.inr rfl | (unfold JobFree; decide) | omega | simp⟩

theorem witness_LatencyHistogram_3 : ∃ (l : Nat) (b : Nat), l < 131072 ∧ 4 ≤ b ∧ b ≤ 63 :=
  ⟨131071, 63, by
    repeat' apply And.intro
    all_goals first | rfl | decide | exact Or.inl rfl | exact Or.inr rfl | (unfold JobFree; decide) | omega | simp⟩

theorem witness_LatencyHistogram_4 : ∃ (l : Nat), 131072 ≤ l :=
  ⟨131072, by
    repeat' apply And.intro
    all_goals first | rfl | decide | exact Or.inl rfl | exact Or.inr rfl | (unfold JobFree; decide) | omega | simp⟩

theorem witness_LatencyHistogram_5 : ∃ (b : Nat), 4 ≤ b :=
  ⟨4, by
    repeat' apply And.intro
    all_goals first | rfl | decide | exact Or.inl rfl | exact Or.inr rfl | (unfold JobFree; decide) | omega | simp⟩

theorem witness_FrontCommandRuns_1 : ∃ (c : Instr) (rest : List Instr) (s : State), s.pending = c :: rest :=
  ⟨.sysInfo 63, [], { State.reset with pending := [.sysInfo 63] }, by
    repeat' apply And.intro
    all_goals first | rfl | decide | exact Or.inl rfl | exact Or.inr rfl | (unfold JobFree; decide) | omega | simp⟩

theorem witness_FrontCommandRuns_2 : ∃ (s : State), s.pending = [] :=
  ⟨State.reset, by
    repeat' apply And.intro
    all_goals first | rfl | decide | exact Or.inl rfl | exact Or.inr rfl | (unfold JobFree; decide) | omega | simp⟩

theorem witness_StepKeepsInvariant_1 : ∃ (s : State) (t : State), HeadInv s ∧ step s = .next t :=
  ⟨State.reset, idleTick State.reset, witness_inv, rfl⟩

theorem witness_StepTakesOneCommand_1 : ∃ (s : State) (t : State) (c : Instr) (rest : List Instr), s.pending = c :: rest ∧
    step s = .next t :=
  ⟨{ State.reset with pending := [.evrSeqLock] }, { State.reset with evt := { lock := true } }, .evrSeqLock, [], by
    repeat' apply And.intro
    all_goals first | rfl | decide | exact Or.inl rfl | exact Or.inr rfl | (unfold JobFree; decide) | omega | simp⟩

theorem witness_RollbackCountNeverFalls_1 : ∃ (s : State) (t : State), HeadInv s ∧ step s = .next t :=
  ⟨State.reset, idleTick State.reset, witness_inv, rfl⟩

/-- A READ with chunk 0 at its decompression: an envelope of the key version, and a region. -/
def wRead (version : Byte) (raw : Byte) (len : Byte) (region : Bytes) : ChunkRead :=
  { chunk := 0, stage := .decomp, want := 0, envelope := zeros 2 ++ [raw, 0, 0, 0, version, 0] ++ zeros 8 ++ [len] ++ zeros 47, payload := region }
def wReading (v : ChunkRead) : State := wKeys (wRun { wCmd 2 0 65535 0 0 4096 with stage := .running, reads := [v] })

theorem witness_IngestStepsOfAChunk_14 : ∃ (asn k : Nat) (s : State) (v : ChunkRead),
    (cmdOf s asn).bind (fun c => readOf c k) = some v ∧ v.stage = .decomp ∧ openChunk s v.envelope v.payload = .error .noKey :=
  ⟨2, 0, wReading (wRead 1 1 0 []), wRead 1 1 0 [], by decide +kernel, rfl, rfl⟩

theorem witness_IngestStepsOfAChunk_15 : ∃ (asn k : Nat) (s : State) (v : ChunkRead),
    (cmdOf s asn).bind (fun c => readOf c k) = some v ∧ v.stage = .decomp ∧
      openChunk s v.envelope v.payload = .error (.check true) :=
  ⟨2, 0, wReading (wRead 0 1 3 [1, 2, 3]), wRead 0 1 3 [1, 2, 3], by decide +kernel, rfl, rfl⟩

theorem witness_IngestStepsOfAChunk_16 : ∃ (asn k : Nat) (s : State) (v : ChunkRead) (data : Bytes),
    (cmdOf s asn).bind (fun c => readOf c k) = some v ∧ v.stage = .decomp ∧ openChunk s v.envelope v.payload = .ok data ∧
      (∀ i, i < 8 → v.want.testBit i = true → (envOf v.envelope).mask.testBit i = true) :=
  ⟨2, 0, wReading (wRead 0 1 0 []), wRead 0 1 0 [], [], by decide +kernel, rfl, rfl, by decide⟩

end Sys2Proof.Tests
end

-- Proofs of the statements on the whole table and on register writes (chapters 00 and 02).
section
/-!
PROOFS. Every command of the table answers a next state, and so does every step.
-/
namespace Sys2Proof.Machine

/-- Each meaning is written as one next state, so every arm of the dispatch answers one. -/
theorem exec_completes (c : Instr) (s : State) : Completes (exec c s) := by
  cases c <;> exact ⟨_, rfl⟩

/-- A step idles on an empty queue and runs the front command otherwise. -/
theorem step_completes (s : State) : Completes (step s) := by
  cases h : s.pending with
  | nil => exact ⟨idleTick s, by simp only [step, h]⟩
  | cons c rest => simpa only [step, h] using exec_completes c { s with pending := rest }

theorem safeRun_all (k : Nat) (s : State) : SafeRun k s := by
  induction k generalizing s with
  | zero => trivial
  | succ k ih =>
    obtain ⟨t, ht⟩ := step_completes s
    exact ⟨t, ht, ih t⟩

/-- Settles O50: no arm of the dispatch faults or refuses, and so no step of a run does. -/
theorem everyCommandCompletes : Obligations.EveryCommandCompletes :=
  ⟨exec_completes, safeRun_all⟩

end Sys2Proof.Machine
end

section
/-!
PROOFS. Writes of the control port and of the Lodge to registers (R10, R34, R51), the enable bits of a monitor unit that
nobody has claimed (R54), and the Function Level Reset (R422, Table 2.8).
-/
namespace Sys2Proof.Machine

/-! ### The three commands are an update and what follows it -/

theorem exec_registerWrite (space : RegSpace) (addr : Nat) (data : Bytes) (s : State) :
    exec (.registerWrite space addr data) s = .next (settle (registerWrite space addr data s)) := rfl

theorem exec_claimEnableWrite (cls idx : Nat) (en : BitVec 3) (s : State) :
    exec (.claimEnableWrite cls idx en) s = .next (settle (claimEnable cls idx en s)) := rfl

theorem exec_functionLevelReset (s : State) : exec .functionLevelReset s = .next (settle (functionReset s)) := rfl

/-! ### BAR0 and BAR1 (Tables 2.1 to 2.7) -/

/-- An aligned word at the registers of a mailbox is a write of that register. -/
theorem bar0Write_register {n o : Nat} {data : Bytes} (s : State) (hn : n < 64) (hlo : 0x3C0 ≤ o) (hhi : o < 0x400)
    (ho : o % 4 = 0) (hd : data.length = 4) :
    bar0Write (n * 0x400 + o) data s = mbxRegWrite n o (BitVec.ofNat 32 (leVal data)) s := by
  have hq : (n * 0x400 + o) / 0x400 = n := by omega
  have hr : (n * 0x400 + o) % 0x400 = o := by omega
  have hw : ¬((n * 0x400 + o) % 4 ≠ 0 ∨ data.length ≠ 4) := by omega
  have h1 : ¬64 ≤ n := by omega
  have h2 : ¬o < 0x200 := by omega
  have h3 : ¬o < 0x3C0 := by omega
  simp only [bar0Write, hq, hr, hw, h1, h2, h3, if_false]

/-- The response area discards an aligned access. -/
theorem bar0Write_response {n o : Nat} {data : Bytes} (s : State) (hlo : 0x200 ≤ o) (hhi : o < 0x3C0)
    (ha : alignedAccess o data.length = true) : bar0Write (n * 0x400 + o) data s = s := by
  have hr : (n * 0x400 + o) % 0x400 = o := by omega
  have h2 : ¬o < 0x200 := by omega
  simp only [bar0Write, hr, h2, hhi, ha, if_true, if_false, ite_self]

/-- An access of another size to the registers is discarded with an event. -/
theorem bar0Write_odd {addr : Nat} {data : Bytes} (s : State) (hn : addr / 0x400 < 64) (ho : 0x3C0 ≤ addr % 0x400)
    (hd : data.length ≠ 4) : bar0Write addr data s = oddWrite 0 addr data.length s := by
  have h2 : ¬addr % 0x400 < 0x200 := by omega
  have h3 : ¬addr % 0x400 < 0x3C0 := by omega
  have hw : addr % 4 ≠ 0 ∨ data.length ≠ 4 := .inr hd
  simp only [bar0Write, Nat.not_le.2 hn, h2, h3, hw, if_true, if_false]

/-- A doorbell write of 1 rings and cancels nothing. -/
theorem mbxRegWrite_doorbell_one (n : Nat) (s : State) : mbxRegWrite n 0x3C0 1 s = mbxRing n s := by
  have h0 : bitOf 1 0 = true := by decide
  have h1 : bitOf 1 1 = false := by decide
  simp only [mbxRegWrite, h0, h1, if_true, Bool.false_eq_true, if_false]

/-- The vector stands in the low six bits of KSK_EVT_CTL, its enable in bit 8. -/
theorem evtCtlWrite_eq (v : Word) (s : State) : evtCtlWrite v s = { s with kiosk := { s.kiosk with
    evtVector := BitVec.ofNat 6 (v.toNat % 64)
    evtEn := v.getLsbD 8 } } := rfl

theorem bar1Write_evtCtl {data : Bytes} (s : State) (hd : data.length = 4) :
    bar1Write 0x10 data s = evtCtlWrite (BitVec.ofNat 32 (leVal data)) s := by
  simp [bar1Write, hd]

/-- A vector that is not pending sends nothing when its entry is written. -/
theorem msixUnmask_not_pending {v : Nat} {s : State} (h : s.kiosk.msixPba.getLsbD v = false) : msixUnmask v s = s := by
  simp [msixUnmask, h]

/-- A word at the start of an entry of the MSI-X table, its vector not pending, is stored there. -/
theorem bar1Write_msix {i : Nat} {data : Bytes} {s : State} (hi : i < 64) (hd : data.length = 4)
    (hp : s.kiosk.msixPba.getLsbD i = false) : bar1Write (0x2000 + 16 * i) data s =
      { s with kiosk := { s.kiosk with msixTab := memPuts s.kiosk.msixTab (16 * i) data } } := by
  have hin : 0x2000 ≤ 0x2000 + 16 * i ∧ 0x2000 + 16 * i < 0x2400 := by omega
  have ha : alignedAccess (0x2000 + 16 * i) data.length = true := by
    have h4 : (0x2000 + 16 * i) % 4 = 0 := by omega
    simp [alignedAccess, hd, h4]
  have hoff : 0x2000 + 16 * i - 0x2000 = 16 * i := by omega
  have hvec : 16 * i / 16 = i := by omega
  simp only [bar1Write, hin, ha, hoff, hvec, and_self, if_true, Bool.not_true, Bool.false_eq_true, if_false]
  exact msixUnmask_not_pending hp

/-! ### The register window (R10, R51) -/

theorem registerWrite_window_ignored {addr : Nat} {data : Bytes} {s : State}
    (h : data.length ≠ 4 ∨ regVal 0 addr s = none ∨ regDark addr s = true) :
    registerWrite .window addr data s = s := by
  simp only [registerWrite, Option.isNone_iff_eq_none, h, if_true]

theorem registerWrite_window {addr : Nat} {data : Bytes} {s : State} {w : Word} (hd : data.length = 4)
    (hr : regVal 0 addr s = some w) (hl : regDark addr s = false) :
    registerWrite .window addr data s = regPoke 0 addr (BitVec.ofNat 32 (leVal data)) s := by
  simp [registerWrite, hd, hr, hl]

/-- EVR_NEXT_SEQ takes a value unless it is locked (Table 16.9). -/
theorem regPoke_evrNextSeq (v : Word) (s : State) : regPoke 0 0x1200001C v s =
    if s.evt.lock then s else { s with evt := { s.evt with nextSeq := v } } := rfl

theorem regPoke_evrPersistSeq (v : Word) (s : State) :
    regPoke 0 0x12000018 v s = { s with evt := { s.evt with persistSeq := v } } := rfl

theorem regPoke_cnsAge (v : Word) (s : State) : regPoke 0 0x38000008 v s =
    { s with cns := { s.cns with agePeriod := BitVec.ofNat 16 (v.toNat % 65536) } } := rfl

theorem regPoke_monFilter (v : Word) (s : State) :
    regPoke 0 0x39000008 v s = setMon 0 { monOf s 0 with filter := v } s := rfl

/-! ### Enable bits of a monitor unit that nobody has claimed (R54) -/

/-- Recording an event leaves the monitors. -/
theorem record_mons (sub lo cls : Nat) (subj : Subject) (detail : Bytes) (s : State) :
    (record sub lo cls subj detail s).mons = s.mons := by
  obtain ⟨e, o, p, h⟩ := record_frame sub lo cls subj detail s
  rw [h]

/-- Recording an event leaves the claim table. -/
theorem record_claims (sub lo cls : Nat) (subj : Subject) (detail : Bytes) (s : State) :
    (record sub lo cls subj detail s).kiosk.claims = s.kiosk.claims := by
  obtain ⟨e, o, p, h⟩ := record_frame sub lo cls subj detail s
  rw [h]

/-- A table without key k is left as it is by the removal of k. -/
theorem terase_of_tget_none {α : Type} {t : Tab α} {k : Nat} (h : tget t k = none) : terase t k = t := by
  induction t with
  | nil => rfl
  | cons e t ih =>
    obtain ⟨k', v⟩ := e
    by_cases hk : k' = k
    · simp [tget, hk] at h
    · simp only [tget, hk, if_false] at h
      simp only [terase, hk, if_false, ih h]

theorem claimHolder_eq_none {s : State} {cls idx : Nat} :
    claimHolder s cls idx = none ↔ tget s.kiosk.claims (claimKey cls idx) = none := by
  simp [claimHolder]

/-- Setting the enable bits of a unit leaves the Kiosk. -/
theorem setEn_monitor_kiosk (u : Nat) (en : BitVec 3) (s : State) : (setEn 3 u en s).kiosk = s.kiosk := by
  simp only [setEn, monEnable, setMon_kiosk, monStop, monSnap]
  repeat' split
  all_goals rfl

/-- A unit whose window is not open, or that keeps a user, has its enable bits set and nothing else done to it. -/
theorem setEn_monitor {u : Nat} {en : BitVec 3} {s : State} (h : en = 0 → (monOf s u).running = false) :
    setEn 3 u en s = monEnable u en s := by
  by_cases he : en = 0
  · simp only [setEn, monStop, h he, Bool.false_eq_true, if_false, ite_self]
  · simp only [setEn, he, if_false]

/-- The arbitration of R54 on an unclaimed resource: an event where two users are enabled by this write. -/
def arbitrate (cls idx : Nat) (old en : BitVec 3) (s : State) : State :=
  if 2 ≤ usersOn en ∧ en ≠ old then
    record 1 0x0A 1 (.claim cls idx) (leN 1 (arbUsers old en).1 ++ leN 1 (arbUsers old en).2 ++ leN 1 (servedUser en)) s
  else s

theorem arbitrate_claims (cls idx : Nat) (old en : BitVec 3) (s : State) :
    (arbitrate cls idx old en s).kiosk.claims = s.kiosk.claims := by
  unfold arbitrate
  split
  · exact record_claims ..
  · rfl

/-- Without a second user in the new bits there is no arbitration. -/
theorem arbitrate_one_user {cls idx : Nat} {old en : BitVec 3} {s : State} (h : usersOn en < 2) :
    arbitrate cls idx old en s = s :=
  if_neg (fun h2 => Nat.not_le.2 h h2.1)

/-- A write of the enable bits of an unclaimed unit: the bits are set, two users are arbitrated between, and the claim table
names the expert session where the write enables a user that was not. -/
theorem claimEnable_monitor_unclaimed {u : Nat} {s : State} (en : BitVec 3) (hu : u < 32) (hf : claimHolder s 3 u = none) :
    claimEnable 3 u en s =
      if en &&& ~~~(monOf s u).en = 0 then arbitrate 3 u (monOf s u).en en (setEn 3 u en s)
      else setClaim 3 u 0x0200 (arbitrate 3 u (monOf s u).en en (setEn 3 u en s)) := by
  have hex : ¬((3 : Nat) = 0 ∨ 4 < 3 ∨ claimCount 3 ≤ u) := by simp only [claimCount]; omega
  have hfree : tget (arbitrate 3 u (monOf s u).en en (setEn 3 u en s)).kiosk.claims (claimKey 3 u) = none := by
    rw [arbitrate_claims, setEn_monitor_kiosk]
    exact claimHolder_eq_none.1 hf
  have hkeep := terase_of_tget_none hfree
  have hnone : (0 : BitVec 3) &&& sessionBits 3 = 0 := by decide
  generalize harb : arbitrate 3 u (monOf s u).en en (setEn 3 u en s) = t at hfree hkeep ⊢
  rw [arbitrate] at harb
  rw [claimEnable, if_neg hex]
  simp only [hf, Option.isSome_none, Option.isNone_none, Bool.and_false, Bool.false_and, Bool.false_eq_true, or_false,
    and_true, reduceCtorEq, false_and, if_false, enOf, harb, hfree, hkeep, Option.bind_none, ite_self]
  by_cases hadd : en &&& ~~~(monOf s u).en = 0
  · rw [if_pos hadd, if_neg]
    simp only [hadd, hnone, ne_eq, not_true_eq_false, or_self, not_false_eq_true]
  · rw [if_neg hadd, if_pos (.inr hadd), setClaim]

theorem claimEnable_no_resource {cls idx : Nat} {en : BitVec 3} {s : State} (h : cls = 0 ∨ 4 < cls ∨ claimCount cls ≤ idx) :
    claimEnable cls idx en s = s := by
  simp only [claimEnable, h, if_true]

/-! ### The Function Level Reset (R422, Table 2.8) -/

/-- A mailbox at reset is as a Function Level Reset leaves it. -/
theorem flrMbx_reset (n : Nat) : flrMbx n { vector := BitVec.ofNat 6 n } = { vector := BitVec.ofNat 6 n } := by
  simp [flrMbx]

theorem tget_tmap {α : Type} (f : Nat → α → α) (t : Tab α) (k : Nat) : tget (tmap f t) k = (tget t k).map (f k) := by
  induction t with
  | nil => rfl
  | cons e t ih =>
    obtain ⟨k', v⟩ := e
    by_cases hk : k' = k
    · simp [tmap, tget, hk]
    · simpa [tmap, tget, hk] using ih

/-- The reset of the control port's function, before the session that it opened ends. -/
def portReset (s : State) : State :=
  { s with kiosk := { s.kiosk with
    mbx := tmap flrMbx s.kiosk.mbx, evtVector := 0, evtEn := false, msixTab := msixReset, msixPba := 0 } }

theorem mbxOf_portReset (n : Nat) (s : State) : mbxOf (portReset s) n = flrMbx n (mbxOf s n) := by
  simp only [mbxOf, portReset, tgetD, tget_tmap]
  cases tget s.kiosk.mbx n with
  | none => exact (flrMbx_reset n).symm
  | some m => rfl

theorem functionReset_no_session {s : State} (h : s.kiosk.session = none) : functionReset s = portReset s := by
  simp [functionReset, portReset, h]

theorem functionReset_controlPort {x : Session} {s : State} (h : s.kiosk.session = some x) (hp : x.path = .controlPort) :
    functionReset s = sessionEnd (portReset s) := by
  simp [functionReset, portReset, h, hp]

/-- After its end no session stands, and no forced state (R47). -/
theorem sessionEnd_kiosk {x : Session} {s : State} (h : s.kiosk.session = some x) :
    (sessionEnd s).kiosk.session = none ∧ (sessionEnd s).kiosk.forced = [] := by
  simp only [sessionEnd, h, Option.isNone_some, Bool.false_eq_true, if_false, note]
  generalize watchLapse _ = t
  obtain ⟨e, o, p, hrec⟩ :=
    record_frame 1 5 0 .none [] { t with kiosk := { t.kiosk with session := none, forced := [] } }
  rw [hrec]
  exact ⟨rfl, rfl⟩

/-! ### The obligation, clause by clause -/

theorem exec_doorbell_ring {n : Fin 64} {data : Bytes} (s : State) (hd : data.length = 4) (hv : leVal data = 1) :
    exec (.registerWrite .bar0 (n.val * 0x400 + 0x3C0) data) s = .next (settle (mbxRing n s)) := by
  rw [exec_registerWrite, registerWrite, bar0Write_register s n.isLt (by decide) (by decide) (by decide) hd, hv]
  exact congrArg (fun t => Host.Outcome.next (settle t)) (mbxRegWrite_doorbell_one n s)

theorem exec_response_write {n : Fin 64} {off : Nat} {data : Bytes} (s : State) (hlo : 0x200 ≤ off) (hhi : off < 0x3C0)
    (hd : data.length = 4) (ho : off % 4 = 0) :
    exec (.registerWrite .bar0 (n.val * 0x400 + off) data) s = .next (settle s) := by
  have ha : alignedAccess off data.length = true := by simp [alignedAccess, hd, ho]
  rw [exec_registerWrite, registerWrite, bar0Write_response s hlo hhi ha]

theorem exec_window_write {addr : Nat} {data : Bytes} {s : State} {w : Word} (hd : data.length = 4)
    (hr : regVal 0 addr s = some w) (hl : regDark addr s = false) :
    exec (.registerWrite .window addr data) s = .next (settle (regPoke 0 addr (BitVec.ofNat 32 (leVal data)) s)) := by
  rw [exec_registerWrite, registerWrite_window hd hr hl]

/-- The four window registers that the statement names are mapped and never dark. -/
theorem exec_named_registers (data : Bytes) (s : State) (v : Word) (hd : data.length = 4)
    (hv : v = BitVec.ofNat 32 (leVal data)) :
    (s.evt.lock = false → exec (.registerWrite .window 0x1200001C data) s =
      .next (settle { s with evt := { s.evt with nextSeq := v } })) ∧
    (s.evt.lock = true → exec (.registerWrite .window 0x1200001C data) s = .next (settle s)) ∧
    (exec (.registerWrite .window 0x12000018 data) s = .next (settle { s with evt := { s.evt with persistSeq := v } })) ∧
    (exec (.registerWrite .window 0x38000008 data) s =
      .next (settle { s with cns := { s.cns with agePeriod := BitVec.ofNat 16 (v.toNat % 65536) } })) ∧
    (exec (.registerWrite .window 0x39000008 data) s = .next (settle (setMon 0 { monOf s 0 with filter := v } s))) := by
  subst hv
  refine ⟨fun hl => ?_, fun hl => ?_, ?_, ?_, ?_⟩
  · rw [exec_window_write hd rfl rfl, regPoke_evrNextSeq, hl]; rfl
  · rw [exec_window_write hd rfl rfl, regPoke_evrNextSeq, hl]; rfl
  · rw [exec_window_write hd rfl rfl, regPoke_evrPersistSeq]
  · rw [exec_window_write hd rfl rfl, regPoke_cnsAge]
  · rw [exec_window_write hd rfl rfl, regPoke_monFilter]

/-- The expert session alone comes to an unclaimed unit: it is served and named, and no event is recorded. -/
theorem exec_claim_grant (i : Fin 32) (s : State) (hen : (monOf s i).en = 0) (hf : claimHolder s 3 i = none) :
    ∃ t, exec (.claimEnableWrite 3 i 4) s = .next (settle t) ∧ (monOf t i).en = 4 ∧ (monOf t i).winner = 2 ∧
      claimHolder t 3 i = some 0x0200 ∧ t = { s with
        mons := t.mons
        kiosk := t.kiosk } := by
  have hadd : ¬(4 : BitVec 3) &&& ~~~0 = 0 := by decide
  have heq : claimEnable 3 i 4 s = setClaim 3 i 0x0200 (monEnable i 4 s) := by
    rw [claimEnable_monitor_unclaimed 4 i.isLt hf, hen, if_neg hadd, arbitrate_one_user (by decide),
      setEn_monitor (fun h => absurd h (by decide))]
  have hmon : monOf (setClaim 3 i 0x0200 (monEnable i 4 s)) i = { monOf s i with en := 4, winner := 2 } :=
    monOf_setMon_self ..
  refine ⟨setClaim 3 i 0x0200 (monEnable i 4 s), by rw [exec_claimEnableWrite, heq], ?_, ?_,
    claimHolder_setClaim_self .., rfl⟩
  · rw [hmon]
  · rw [hmon]

/-- The expert session joins Lodge firmware: firmware is served, and the arbitration is recorded. -/
theorem exec_claim_arbitration (i : Fin 32) (s : State) (hen : (monOf s i).en = 1) (hf : claimHolder s 3 i = none) :
    ∃ t, exec (.claimEnableWrite 3 i 5) s = .next (settle t) ∧ (monOf t i).en = 5 ∧ (monOf t i).winner = 0 ∧
      claimHolder t 3 i = some 0x0200 ∧ ∃ u, t.evt =
        (record 1 0x0A 1 (.claim 3 i) (leN 1 0 ++ leN 1 2 ++ leN 1 0) u).evt ∧ u.evt = s.evt := by
  have hadd : ¬(5 : BitVec 3) &&& ~~~1 = 0 := by decide
  have htwo : 2 ≤ usersOn 5 ∧ (5 : BitVec 3) ≠ 1 := by decide
  have husers : arbUsers 1 5 = (0, 2) ∧ servedUser 5 = 0 := by decide
  have heq : claimEnable 3 i 5 s = setClaim 3 i 0x0200
      (record 1 0x0A 1 (.claim 3 i) (leN 1 0 ++ leN 1 2 ++ leN 1 0) (monEnable i 5 s)) := by
    rw [claimEnable_monitor_unclaimed 5 i.isLt hf, hen, if_neg hadd, arbitrate, if_pos htwo, husers.1, husers.2,
      setEn_monitor (fun h => absurd h (by decide))]
  have hmon : monOf (claimEnable 3 i 5 s) i = { monOf s i with en := 5, winner := 0 } := by
    rw [heq, monOf, setClaim_mons, record_mons]
    exact monOf_setMon_self ..
  refine ⟨_, exec_claimEnableWrite .., ?_, ?_, ?_, monEnable i 5 s, ?_, rfl⟩
  · rw [hmon]
  · rw [hmon]
  · rw [heq]; exact claimHolder_setClaim_self ..
  · rw [heq, setClaim_evt]

/-- No user is left on an unclaimed unit. -/
theorem exec_claim_release (i : Fin 32) (s : State) (hr : (monOf s i).running = false)
    (hf : tget s.kiosk.claims (claimKey 3 i) = none) :
    ∃ t, exec (.claimEnableWrite 3 i 0) s = .next (settle t) ∧ (monOf t i).en = 0 ∧ claimHolder t 3 i = none ∧
      (monOf t i).filter = (monOf s i).filter ∧ t.out = s.out ∧ t.evt = s.evt := by
  have hadd : ∀ old : BitVec 3, (0 : BitVec 3) &&& ~~~old = 0 := by decide
  have heq : claimEnable 3 i 0 s = monEnable i 0 s := by
    rw [claimEnable_monitor_unclaimed 0 i.isLt (claimHolder_eq_none.2 hf), if_pos (hadd _), arbitrate_one_user (by decide),
      setEn_monitor (fun _ => hr)]
  have hmon : monOf (monEnable i 0 s) i = { monOf s i with en := 0, winner := 0 } := monOf_setMon_self ..
  refine ⟨monEnable i 0 s, by rw [exec_claimEnableWrite, heq], ?_, claimHolder_eq_none.2 hf, ?_, rfl, rfl⟩
  · rw [hmon]
  · rw [hmon]

theorem exec_functionLevelReset_no_session (s : State) (h : s.kiosk.session = none) :
    ∃ t, exec .functionLevelReset s = .next (settle t) ∧
    (∀ n, n < 64 → mbxOf t n = flrMbx n (mbxOf s n)) ∧ t.kiosk.evtEn = false ∧ t.kiosk.evtVector = 0 ∧
    t.kiosk.msixPba = 0 ∧ t.kiosk.msixTab = msixReset ∧ t = { s with kiosk := { s.kiosk with
      mbx := t.kiosk.mbx
      evtVector := 0
      evtEn := false
      msixTab := msixReset
      msixPba := 0 } } :=
  ⟨portReset s, by rw [exec_functionLevelReset, functionReset_no_session h], fun n _ => mbxOf_portReset n s,
    rfl, rfl, rfl, rfl, rfl⟩

theorem exec_functionLevelReset_ends_session (x : Session) (s : State) (h : s.kiosk.session = some x)
    (hp : x.path = .controlPort) :
    ∃ t, exec .functionLevelReset s = .next (settle t) ∧ t.kiosk.session = none ∧ t.kiosk.forced = [] := by
  have hs : (portReset s).kiosk.session = some x := h
  exact ⟨_, by rw [exec_functionLevelReset, functionReset_controlPort h hp], sessionEnd_kiosk hs⟩

/-- Settles O42, clause by clause: the accesses of BAR0, BAR1 and the window, the enable bits, and the Function Level Reset. -/
theorem registerWritesAndFunctionReset : Obligations.RegisterWritesAndFunctionReset := by
  unfold Obligations.RegisterWritesAndFunctionReset
  refine ⟨fun n data s hd _ _ _ hv => exec_doorbell_ring s hd hv,
    fun n off data s hlo hhi hd ho => exec_response_write s hlo hhi hd ho, ?_, ?_, ?_, ?_, exec_named_registers,
    exec_claim_grant, exec_claim_arbitration, exec_claim_release, ?_, exec_functionLevelReset_no_session,
    exec_functionLevelReset_ends_session⟩
  case refine_1 =>
    intro addr data s hn ho hd
    rw [exec_registerWrite, registerWrite, bar0Write_odd s hn ho hd, oddWrite]
  case refine_2 =>
    intro data s v hd hv
    rw [exec_registerWrite, registerWrite, bar1Write_evtCtl s hd, ← hv, evtCtlWrite_eq]
  case refine_3 =>
    intro i data s hd hp
    rw [exec_registerWrite, registerWrite, bar1Write_msix i.isLt hd hp]
  case refine_4 =>
    intro addr data s h
    rw [exec_registerWrite, registerWrite_window_ignored h]
  case refine_5 =>
    intro cls i en s h
    rw [exec_claimEnableWrite, claimEnable_no_resource h]

end Sys2Proof.Machine
end

section
/-!
PROOFS. The DRAM use window and the allowance that follows it (R25, R169), the training helpers (R346), and the locks and masks
of the address maps (R343, R345, R361).
-/
namespace Sys2Proof.Machine

/-! ### The use window -/

theorem exec_dramUseWindow (bytes : Nat) (s : State) :
    exec (.dramUseWindow bytes) s = .next (settle (useWindow bytes s)) := rfl

/-- The DRAM figures of a window, before the allowance follows them. -/
def windowFigures (bytes : Nat) (s : State) : State :=
  let u := usableBytes s.dram.rate
  { s with dram := { s.dram with
    use := min 1023 (bytes * 1000 / u)
    useHigh := max s.dram.useHigh (min 1023 (bytes * 1000 / u))
    throttle := if 9 * u < 10 * bytes then true else if 100 * bytes < 85 * u then false else s.dram.throttle } }

theorem useWindow_eq (bytes : Nat) (s : State) : useWindow bytes s =
    adjustAllowance (decide (9 * usableBytes s.dram.rate < 10 * bytes)) (windowFigures bytes s) := rfl

/-- The throttle after a window: set above 90 % of U, cleared below 85 %, and between the two as it was. -/
theorem useWindow_throttle (bytes : Nat) (s : State) : (useWindow bytes s).dram.throttle =
    if 9 * usableBytes s.dram.rate < 10 * bytes then true
    else if 100 * bytes < 85 * usableBytes s.dram.rate then false else s.dram.throttle := rfl

/-- Below the temperature limit the allowance is held within the cap of A, and never held below 40. -/
theorem adjustAllowance_allow {s : State} (above : Bool) (h : s.ghx.throttled = false) :
    (adjustAllowance above s).lat.allow =
      min (if above then max 40 (s.lat.allow - 20) else if s.dram.throttle then s.lat.allow else s.lat.cap)
        (max 40 s.lat.cap) := by
  simp [adjustAllowance, h]

/-- Only an allowance that comes back to the cap from below changes the queue pairs. -/
theorem adjustAllowance_qps {above : Bool} {s : State}
    (h : (adjustAllowance above s).lat.allow < s.lat.cap ∨ s.lat.cap ≤ s.lat.allow) :
    (adjustAllowance above s).lat.qps = s.lat.qps :=
  if_neg (fun hback => h.elim (Nat.not_lt.2 hback.1) (Nat.not_le.2 hback.2))

theorem useWindow_allow {bytes : Nat} {s : State} (h : s.ghx.throttled = false) : (useWindow bytes s).lat.allow =
    min (if 9 * usableBytes s.dram.rate < 10 * bytes then max 40 (s.lat.allow - 20)
      else if (useWindow bytes s).dram.throttle then s.lat.allow else s.lat.cap) (max 40 s.lat.cap) := by
  have hw : (windowFigures bytes s).ghx.throttled = false := h
  rw [useWindow_eq, adjustAllowance_allow _ hw]
  simp only [decide_eq_true_eq]
  rfl

theorem exec_use_window (bytes : Nat) (s : State) : ∃ t, exec (.dramUseWindow bytes) s = .next (settle t) ∧
    (9 * usableBytes s.dram.rate < 10 * bytes → t.dram.throttle = true) ∧
    (100 * bytes < 85 * usableBytes s.dram.rate → t.dram.throttle = false) ∧
    (10 * bytes ≤ 9 * usableBytes s.dram.rate → 85 * usableBytes s.dram.rate ≤ 100 * bytes →
      t.dram.throttle = s.dram.throttle) ∧
    t.dram.use = min 1023 (bytes * 1000 / usableBytes s.dram.rate) ∧
    (s.ghx.throttled = false → 9 * usableBytes s.dram.rate < 10 * bytes →
      t.lat.allow = min (max 40 (s.lat.allow - 20)) (max 40 s.lat.cap)) ∧
    (s.ghx.throttled = false → 10 * bytes ≤ 9 * usableBytes s.dram.rate → t.dram.throttle = false →
      t.lat.allow = s.lat.cap) ∧
    (s.ghx.throttled = false → 10 * bytes ≤ 9 * usableBytes s.dram.rate → t.dram.throttle = true →
      t.lat.allow = min s.lat.allow (max 40 s.lat.cap)) ∧
    ((t.lat.allow < s.lat.cap ∨ s.lat.cap ≤ s.lat.allow) → t.lat.qps = s.lat.qps) ∧
    t = { s with
      dram := { s.dram with
        use := t.dram.use
        useHigh := t.dram.useHigh
        throttle := t.dram.throttle }
      lat := { s.lat with
        allow := t.lat.allow
        qps := t.lat.qps } } := by
  refine ⟨useWindow bytes s, exec_dramUseWindow bytes s, fun ha => ?above, fun hb => ?below, fun ha hb => ?between, rfl,
    fun ht ha => ?falls, fun ht ha hc => ?atCap, fun ht ha hc => ?held, adjustAllowance_qps, rfl⟩
  case above => rw [useWindow_throttle, if_pos ha]
  case below =>
    have hn : ¬9 * usableBytes s.dram.rate < 10 * bytes := by omega
    rw [useWindow_throttle, if_neg hn, if_pos hb]
  case between => rw [useWindow_throttle, if_neg (Nat.not_lt.2 ha), if_neg (Nat.not_lt.2 hb)]
  case falls => rw [useWindow_allow ht, if_pos ha]
  case atCap =>
    rw [useWindow_allow ht, if_neg (Nat.not_lt.2 ha), hc, if_neg Bool.false_ne_true]
    exact Nat.min_eq_left (Nat.le_max_right ..)
  case held => rw [useWindow_allow ht, if_neg (Nat.not_lt.2 ha), if_pos hc]

/-! ### Training helpers -/

/-- A helper starts on a channel where none runs. -/
theorem trnStart_idle {n : Nat} {s : State} (op : Nat) (h : (dmcOf s n).trnBusy = false) :
    trnStart n op s = setDmc n { dmcOf s n with trnBusy := true, trnOp := BitVec.ofNat 2 op } s :=
  if_neg (fun hb => Bool.false_ne_true (h.symm.trans hb))

theorem trnStart_busy {n : Nat} {s : State} (op : Nat) (h : (dmcOf s n).trnBusy = true) : trnStart n op s = s := if_pos h

theorem trnDone_busy {n : Nat} {s : State} (dq : Word) (cb : BitVec 8) (h : (dmcOf s n).trnBusy = true) :
    trnDone n dq cb s = setDmc n { dmcOf s n with trnBusy := false, failDq := dq, failCb := cb } s := if_pos h

/-- The four helper commands differ in the op alone. -/
theorem exec_training_helpers (n : Fin 24) (s : State) :
    exec (.trnMpcPattern n) s = .next (trnStart n 0 s) ∧ exec (.trnWriteRead n) s = .next (trnStart n 1 s) ∧
    exec (.trnDqsOsc n) s = .next (trnStart n 2 s) ∧ exec (.trnReadCompare n) s = .next (trnStart n 3 s) :=
  ⟨rfl, rfl, rfl, rfl⟩

theorem exec_trnHelperDone (n : Fin 24) (dq : Word) (cb : BitVec 8) (s : State) :
    exec (.trnHelperDone n dq cb) s = .next (trnDone n dq cb s) := rfl

/-! ### Locks and masks -/

theorem exec_dmcGeomLock (n : Fin 24) (s : State) : exec (.dmcGeomLock n) s = .next (geomLock n s) := rfl

theorem exec_dmcBankHashWrite (n : Fin 24) (k : Fin 5) (m : BitVec 34) (s : State) :
    exec (.dmcBankHashWrite n k m) s = .next (bankHashWrite n k m s) := rfl

theorem exec_dmcChanHashWrite (i : Fin 3) (m : BitVec 34) (s : State) :
    exec (.dmcChanHashWrite i m) s = .next (chanHashWrite i m s) := rfl

/-- One locked channel locks the maps of the head. -/
theorem dramLocked_setDmc {n : Nat} {c : Dmc} (s : State) (h : c.lock = true) : dramLocked (setDmc n c s) = true := by
  have hmem : (n, c) ∈ tset s.dram.ch n c := tget_mem (tget_tset_self ..)
  exact List.any_eq_true.2 ⟨c, List.mem_map_of_mem (f := (·.2)) hmem, h⟩

theorem bankMaskOk_iff {c : Dmc} {k : Nat} {m : BitVec 34} : bankMaskOk c k m = true ↔
    m.getLsbD 0 = false ∧ ∀ j < 5, m.getLsbD (1 + c.colBits.toNat + j) = decide (j = k) := by
  simp [bankMaskOk]

theorem chanMaskOk_iff {i : Nat} {m : BitVec 34} :
    chanMaskOk i m = true ↔ ∀ j < 3, m.getLsbD j = decide (j = i) := by
  simp [chanMaskOk]

theorem bankHashWrite_unlocked {n k : Nat} {m : BitVec 34} {s : State} (h : dramLocked s = false) :
    bankHashWrite n k m s =
      if bankMaskOk (dmcOf s n) k m then setDmc n { dmcOf s n with bankHash := (dmcOf s n).bankHash.set k m } s
      else record 6 9 2 .none (leN 1 n ++ leN 1 k ++ leN 5 m.toNat) s :=
  if_neg (fun hl => Bool.false_ne_true (h.symm.trans hl))

theorem chanHashWrite_unlocked {i : Nat} {m : BitVec 34} {s : State} (h : dramLocked s = false) :
    chanHashWrite i m s =
      if chanMaskOk i m then { s with dram := { s.dram with chanHash := s.dram.chanHash.set i m } }
      else record 6 9 2 .none (leN 1 i ++ leN 5 m.toNat) s :=
  if_neg (fun hl => Bool.false_ne_true (h.symm.trans hl))

/-- Settles O38, clause by clause: the use window, the helpers, the lock, and the two kinds of mask. -/
theorem dramUseHelpersAndMasks : Obligations.DramUseHelpersAndMasks := by
  unfold Obligations.DramUseHelpersAndMasks
  refine ⟨exec_use_window, fun n s h => ?starts, fun n s h => ?busy, fun n dq cb s h => ?done, fun n s => ?lock,
    fun n k m s => ⟨fun hl => ?bankLocked, fun hl hm => ?bankTaken, fun hl hm => ?bankRefused⟩,
    fun i m s => ⟨fun hl => ?chanLocked, fun hl hm => ?chanTaken, fun hl hm => ?chanRefused⟩⟩
  case starts =>
    obtain ⟨h0, h1, h2, h3⟩ := exec_training_helpers n s
    rw [h0, h1, h2, h3, trnStart_idle 0 h, trnStart_idle 1 h, trnStart_idle 2 h, trnStart_idle 3 h]
    exact ⟨rfl, rfl, rfl, rfl⟩
  case busy =>
    obtain ⟨h0, h1, h2, h3⟩ := exec_training_helpers n s
    rw [h0, h1, h2, h3]
    simp only [trnStart_busy _ h, and_self]
  case done => rw [exec_trnHelperDone, trnDone_busy dq cb h]
  case lock => exact ⟨_, exec_dmcGeomLock n s, rfl, dramLocked_setDmc s rfl⟩
  case bankLocked => rw [exec_dmcBankHashWrite, bankHashWrite, if_pos hl]
  case bankTaken => rw [exec_dmcBankHashWrite, bankHashWrite_unlocked hl, if_pos (bankMaskOk_iff.2 hm)]
  case bankRefused => rw [exec_dmcBankHashWrite, bankHashWrite_unlocked hl, if_neg (mt bankMaskOk_iff.1 hm)]
  case chanLocked => rw [exec_dmcChanHashWrite, chanHashWrite, if_pos hl]
  case chanTaken => rw [exec_dmcChanHashWrite, chanHashWrite_unlocked hl, if_pos (chanMaskOk_iff.2 hm)]
  case chanRefused => rw [exec_dmcChanHashWrite, chanHashWrite_unlocked hl, if_neg (mt chanMaskOk_iff.1 hm)]

end Sys2Proof.Machine
end

section
/-!
PROOFS. What the sled ports, the journal writer, the placement of chunks and the moves leave as it is: the commands in progress,
the flash-confirmed mode, the checkpoints, two counters, and whether each shelf's power is good.
-/
namespace Sys2Proof.Machine

/-- The figures of the state that the engines of the media side never touch. -/
def standing (s : State) : Tab Cmd × Bool × (Ckpt × Ckpt × Option Ckpt) × (Nat × Nat) × (Nat → Bool) :=
  (s.jrn.cmds, s.jrn.flashMode, (s.map.ckpt, s.map.ckptPrev, s.map.ckptRun), (s.plc.gcBands, s.plc.wakesFailed),
    fun g => (shelfOf s g).good)

section
variable {s t : State} (h : standing t = standing s)
include h

theorem standing_cmds : t.jrn.cmds = s.jrn.cmds := congrArg (·.1) h
theorem standing_flashMode : t.jrn.flashMode = s.jrn.flashMode := congrArg (·.2.1) h
theorem standing_ckpt : t.map.ckpt = s.map.ckpt := congrArg (·.2.2.1.1) h
theorem standing_ckptPrev : t.map.ckptPrev = s.map.ckptPrev := congrArg (·.2.2.1.2.1) h
theorem standing_ckptRun : t.map.ckptRun = s.map.ckptRun := congrArg (·.2.2.1.2.2) h
theorem standing_gcBands : t.plc.gcBands = s.plc.gcBands := congrArg (·.2.2.2.1.1) h
theorem standing_wakesFailed : t.plc.wakesFailed = s.plc.wakesFailed := congrArg (·.2.2.2.1.2) h
theorem standing_good (g : Nat) : (shelfOf t g).good = (shelfOf s g).good := congrFun (congrArg (·.2.2.2.2) h) g

end

/-- A record update that keeps these figures. -/
@[simp] theorem standing_update {s : State} {out draws kiosk evt mons gh ghx sec dram cns sleds ing ftb pair lat rep}
    {map : MapSt} {plc : Plc} {jrn : Jrn} (h1 : jrn.cmds = s.jrn.cmds) (h2 : jrn.flashMode = s.jrn.flashMode)
    (h3 : map.ckpt = s.map.ckpt) (h4 : map.ckptPrev = s.map.ckptPrev) (h5 : map.ckptRun = s.map.ckptRun)
    (h6 : plc.gcBands = s.plc.gcBands) (h7 : plc.wakesFailed = s.plc.wakesFailed) (h8 : plc.shelves = s.plc.shelves) :
    standing ⟨s.pending, out, draws, kiosk, evt, mons, gh, ghx, sec, dram, cns, sleds, map, plc, jrn, ing, ftb, pair, lat, rep⟩ =
      standing s := by
  simp only [standing, shelfOf, h1, h2, h3, h4, h5, h6, h7, h8]


/-- What every round of a fold keeps, the fold keeps. -/
theorem foldl_keeps {σ α β : Type} (get : σ → β) {f : σ → α → σ} (hf : ∀ s a, get (f s a) = get s) (l : List α) (s : σ) :
    get (l.foldl f s) = get s := by
  induction l generalizing s with
  | nil => rfl
  | cons a l ih => rw [List.foldl_cons, ih, hf]

theorem foldl_standing {α : Type} {f : State → α → State} (hf : ∀ s a, standing (f s a) = standing s) (l : List α) (s : State) :
    standing (l.foldl f s) = standing s := foldl_keeps standing hf l s

/-! ### Traces, counters and tables -/

@[simp] theorem emit_standing (o : Out) (s : State) : standing (emit o s) = standing s := rfl
@[simp] theorem draw_standing (s : State) : standing (draw s) = standing s := rfl
@[simp] theorem monBegin_standing (probe id : Nat) (s : State) : standing (monBegin probe id s) = standing s := rfl
@[simp] theorem setPort_standing (p : Nat) (v : SPort) (s : State) : standing (setPort p v s) = standing s := rfl
@[simp] theorem setFport_standing (n : Nat) (p : FPort) (s : State) : standing (setFport n p s) = standing s := rfl
@[simp] theorem setTag_standing (n t : Nat) (g : LTag) (s : State) : standing (setTag n t g s) = standing s := rfl
@[simp] theorem setBlk_standing (k : Nat) (b : Blk) (s : State) : standing (setBlk k b s) = standing s := rfl
@[simp] theorem modSet_standing (k : Nat) (f : BSet → BSet) (s : State) : standing (modSet k f s) = standing s := rfl
@[simp] theorem modRow_standing (g n : Nat) (f : Row → Row) (s : State) : standing (modRow g n f s) = standing s := rfl
@[simp] theorem modFetch_standing (n : Nat) (f : Fetch → Fetch) (s : State) : standing (modFetch n f s) = standing s := rfl
@[simp] theorem modOwn_standing (p : OwnRec → Bool) (f : OwnRec → OwnRec) (s : State) :
    standing (modOwn p f s) = standing s := rfl
@[simp] theorem setOpenSled_standing (g sl : Nat) (os : OpenSled) (s : State) :
    standing (setOpenSled g sl os s) = standing s := rfl
@[simp] theorem updateIndex_standing (serial : Nat) (loc : Loc) (s : State) :
    standing (updateIndex serial loc s) = standing s := rfl
@[simp] theorem endMove_standing (m : Nat) (s : State) : standing (endMove m s) = standing s := rfl
@[simp] theorem dropItems_standing (p : Item → Bool) (s : State) : standing (dropItems p s) = standing s := rfl

@[simp] theorem record_standing (sub lo cls : Nat) (subj : Subject) (detail : Bytes) (s : State) :
    standing (record sub lo cls subj detail s) = standing s := by
  obtain ⟨e, o, p, h⟩ := record_frame sub lo cls subj detail s
  rw [h]
  rfl

@[simp] theorem onMemory_standing (f : State → State) (s : State) : standing (onMemory f s) = standing s := by
  simp only [onMemory]
  split <;> rfl

@[simp] theorem cnsStores_standing (port pa n : Nat) (s : State) : standing (cnsStores port pa n s) = standing s :=
  onMemory_standing ..
@[simp] theorem cnsReads_standing (port pa n : Nat) (s : State) : standing (cnsReads port pa n s) = standing s :=
  onMemory_standing ..
@[simp] theorem cnsDrains_standing (pa n : Nat) (s : State) : standing (cnsDrains pa n s) = standing s :=
  onMemory_standing ..

/-- A shelf replaced by one whose power is as good. -/
theorem setShelf_standing {g : Nat} {v : Shelf} {s : State} (h : v.good = (shelfOf s g).good) :
    standing (setShelf g v s) = standing s := by
  have hg : (fun k => (shelfOf (setShelf g v s) k).good) = fun k => (shelfOf s k).good := by
    funext k
    by_cases hk : k = g
    · rw [hk, shelfOf_setShelf_self, h]
    · rw [shelfOf_setShelf_other v s hk]
  simp only [standing, hg]
  rfl

/-! ### Sled ports -/

/-- Everything but the ports of the sleds and the outward trace. -/
def offPorts (s : State) : State := { s with out := [], sleds := {} }

theorem standing_of_offPorts {s t : State} (h : offPorts t = offPorts s) : standing t = standing s := (congrArg standing h :)
theorem plc_of_offPorts {s t : State} (h : offPorts t = offPorts s) : t.plc = s.plc := (congrArg State.plc h :)

theorem sleds_offPorts (s : State) (d : Sleds) : offPorts { s with sleds := d } = offPorts s := rfl
@[simp] theorem emit_offPorts (o : Out) (s : State) : offPorts (emit o s) = offPorts s := rfl
@[simp] theorem setPort_offPorts (p : Nat) (v : SPort) (s : State) : offPorts (setPort p v s) = offPorts s := rfl
@[simp] theorem putFlit_offPorts (p : Nat) (l : LinkOut) (s : State) : offPorts (putFlit p l s) = offPorts s := rfl

@[simp] theorem putOrdered_offPorts (p : Nat) (l : LinkOut) (s : State) : offPorts (putOrdered p l s) = offPorts s := by
  simp [putOrdered, apply_ite offPorts]

@[simp] theorem countBlocks_offPorts (p : Nat) (s : State) : offPorts (countBlocks p s) = offPorts s := by
  simp [countBlocks, apply_ite offPorts]

@[simp] theorem link_offPorts (p : Nat) (l : LinkOut) (s : State) : offPorts (link p l s) = offPorts s := by
  unfold link
  split <;> simp

@[simp] theorem pump_offPorts (p k : Nat) (s : State) : offPorts (pump p k s) = offPorts s := by
  induction k generalizing s with
  | zero => rfl
  | succ k ih =>
    simp only [pump]
    repeat' split
    all_goals simp [ih]

@[simp] theorem endSession_offPorts (p : Nat) (s : State) : offPorts (endSession p s) = offPorts s := by
  simp only [endSession]
  split <;> rfl

@[simp] theorem disablePort_offPorts (p : Nat) (s : State) : offPorts (disablePort p s) = offPorts s := by
  rw [disablePort, sleds_offPorts, setPort_offPorts, endSession_offPorts]

@[simp] theorem enterDetect_offPorts (p : Nat) (s : State) : offPorts (enterDetect p s) = offPorts s := by
  simp [enterDetect]

@[simp] theorem powerPort_offPorts (on : Bool) (p : Nat) (s : State) : offPorts (powerPort on p s) = offPorts s := by
  simp [powerPort, apply_ite offPorts]

/-- Powering a port group changes its ports alone. -/
theorem powerGroup_offPorts (g : Nat) (on : Bool) (s : State) : offPorts (powerGroup g on s) = offPorts s := by
  refine foldl_keeps offPorts (fun t k => ?_) _ _
  simp [apply_ite offPorts]

@[simp] theorem link_standing (p : Nat) (l : LinkOut) (s : State) : standing (link p l s) = standing s :=
  standing_of_offPorts (link_offPorts ..)

@[simp] theorem sendFlits_standing (p : Nat) (fs : List TxFlit) (s : State) : standing (sendFlits p fs s) = standing s :=
  standing_of_offPorts (pump_offPorts ..)

@[simp] theorem powerGroup_standing (g : Nat) (on : Bool) (s : State) : standing (powerGroup g on s) = standing s :=
  standing_of_offPorts (powerGroup_offPorts ..)

@[simp] theorem powerGroup_plc (g : Nat) (on : Bool) (s : State) : (powerGroup g on s).plc = s.plc :=
  plc_of_offPorts (powerGroup_offPorts ..)

@[simp] theorem sledStarts_standing (p : Nat) (c : SledCmd) (s : State) : standing (sledStarts p c s) = standing s := by
  simp [sledStarts, apply_ite standing]

/-- A table entry that f changes reads as f of the old one, and every other entry as before. -/
theorem tgetD_tmod {α β : Type} {f : α → α} {get : α → β} (hf : ∀ v, get (f v) = get v) (t : Tab α) (k j : Nat) (d : α) :
    get (tgetD (tmod t k f) j d) = get (tgetD t j d) := by
  unfold tmod
  split
  next v hv =>
    by_cases hj : j = k
    · rw [hj, tgetD_tset_self, hf, tgetD, hv, Option.getD_some]
    · rw [tgetD_tset_other _ _ _ hj]
  next => rfl

/-- The meter counts bytes and leaves the power of the shelf. -/
@[simp] theorem meter_standing (p : Nat) (c : SledCmd) (s : State) : standing (meter p c s) = standing s := by
  simp only [meter]
  split
  · rfl
  · simp [standing, shelfOf, tgetD_tmod (get := Shelf.good)]

@[simp] theorem kick_standing (p k : Nat) (s : State) : standing (kick p k s) = standing s := by
  induction k generalizing s with
  | zero => rfl
  | succ k ih =>
    simp only [kick]
    repeat' split
    all_goals simp [ih]

@[simp] theorem kickAll_standing (p : Nat) (s : State) : standing (kickAll p s) = standing s := by
  simp [kickAll, apply_ite standing]

@[simp] theorem sendSled_standing (p : Nat) (why : SledFor) (c : SledCmd) (s : State) :
    standing (sendSled p why c s) = standing s := by
  simp [sendSled]

/-! ### The journal writer -/

theorem dealSegs_standing (cls k off len : Nat) (s : State) : standing (dealSegs cls k off len s).2 = standing s := by
  induction k generalizing off len s with
  | zero => rfl
  | succ k ih =>
    simp only [dealSegs]
    split
    · rfl
    · simp [apply_ite Prod.snd, apply_ite standing, ih]

@[simp] theorem sendFrames_standing (type id len : Nat) (payload : Bytes) (segs : List (Nat × Nat × Nat × Nat × Nat))
    (s : State) : standing (sendFrames type id len payload segs s) = standing s :=
  foldl_standing (fun _ _ => emit_standing ..) _ _

@[simp] theorem ftbSend_standing (type cls len : Nat) (offs : List Nat) (mk : Nat → FtbOut) (s : State) :
    standing (ftbSend type cls len offs mk s).2 = standing s := by
  have hd := dealSegs_standing cls (len / 9088 + 1) 0 len s
  simp only [ftbSend]
  generalize dealSegs cls (len / 9088 + 1) 0 len s = d at hd ⊢
  simp [apply_ite standing, hd]

@[simp] theorem mirrorRec_standing (off : Nat) (s : State) : standing (mirrorRec off s) = standing s := by
  simp only [mirrorRec]
  repeat' split
  all_goals simp

@[simp] theorem writeRec_standing (asn unit units : Nat) (last : Bool) (body : JBody) (s : State) :
    standing (writeRec asn unit units last body s).2 = standing s := by
  simp [writeRec, apply_ite standing]

@[simp] theorem writeLoose_standing (body : JBody) (s : State) : standing (writeLoose body s).2 = standing s :=
  writeRec_standing ..

@[simp] theorem recordBlocks_standing (bs : List (Nat × Nat × Nat × Nat)) (s : State) :
    standing (recordBlocks bs s) = standing s := by
  simp [recordBlocks, apply_ite standing]

/-! ### Fetches and moves -/

@[simp] theorem readStaged_standing (serial : Nat) (s : State) : standing (readStaged serial s) = standing s := by
  unfold readStaged
  split <;> simp

@[simp] theorem drainStaged_standing (serial : Nat) (s : State) : standing (drainStaged serial s) = standing s := by
  unfold drainStaged
  split <;> simp

@[simp] theorem issueReads_standing (n : Nat) (s : State) : standing (issueReads n s) = standing s := by
  unfold issueReads
  split
  · rfl
  · exact foldl_standing (fun _ _ => sendSled_standing ..) _ _

@[simp] theorem lostEvent_standing (serial : Nat) (s : State) : standing (lostEvent serial s) = standing s := by
  simp [lostEvent]

@[simp] theorem tryFetch_standing (n k : Nat) (s : State) : standing (tryFetch n k s) = standing s := by
  induction k generalizing s with
  | zero => rfl
  | succ k ih =>
    simp only [tryFetch]
    repeat' split
    all_goals simp [ih]

@[simp] theorem startFetch_standing (serial : Nat) (why : FetchFor) (s : State) :
    standing (startFetch serial why s) = standing s := by
  simp [startFetch]

@[simp] theorem startMove_standing (serial g : Nat) (why : MoveFor) (s : State) :
    standing (startMove serial g why s) = standing s := by
  simp only [startMove]
  repeat' split
  all_goals simp

/-! ### Placement -/

@[simp] theorem takeBlocks_standing (b : BSet) (s : State) : standing (takeBlocks b s) = standing s := by
  refine foldl_standing (fun t p => ?_) _ _
  simp [apply_ite standing]

@[simp] theorem touchRow_standing (g : Nat) (ob : OpenBand) (n : Nat) (s : State) :
    standing (touchRow g ob n s) = standing s := by
  unfold touchRow
  split <;> simp

@[simp] theorem programPage_standing (key lin : Nat) (data : Bytes) (s : State) :
    standing (programPage key lin data s) = standing s := by
  unfold programPage
  split <;> simp

@[simp] theorem programBoth_standing (key lin : Nat) (data : Bytes) (s : State) :
    standing (programBoth key lin data s) = standing s := by
  unfold programBoth
  split <;> simp

@[simp] theorem flushPage_standing (g sl : Nat) (s : State) : standing (flushPage g sl s) = standing s := by
  simp only [flushPage]
  repeat' split
  all_goals simp

@[simp] theorem padPage_standing (g sl : Nat) (s : State) : standing (padPage g sl s) = standing s := by
  unfold padPage
  repeat' split
  all_goals simp

@[simp] theorem padShelf_standing (g : Nat) (s : State) : standing (padShelf g s) = standing s :=
  foldl_standing (fun _ _ => padPage_standing ..) _ _

@[simp] theorem verifyRead_standing (key lin : Nat) (s : State) : standing (verifyRead key lin s) = standing s := by
  unfold verifyRead
  split <;> simp

@[simp] theorem startVerify_standing (key : Nat) (s : State) : standing (startVerify key s) = standing s := by
  simp only [startVerify]
  repeat' split
  · rfl
  · exact (foldl_standing (fun _ _ => verifyRead_standing ..) _ _).trans (modSet_standing ..)
  · rfl

@[simp] theorem closeBand_standing (g : Nat) (s : State) : standing (closeBand g s) = standing s := by
  simp only [closeBand]
  split
  · rfl
  · split
    · exact padShelf_standing ..
    · refine (foldl_standing (fun t e => ?verify) _ _).trans ?_
      case verify => split <;> simp
      refine (setShelf_standing ?_).trans ?_
      · rfl
      simp only [standing_update, recordBlocks_standing]
      refine (foldl_standing (fun t e => modRow_standing ..) _ _).trans ?_
      refine (foldl_standing (fun t e => ?close) _ _).trans (padShelf_standing ..)
      case close =>
        split
        · rfl
        · simp [apply_ite standing]

theorem openBand_standing {g : Nat} {s t : State} (h : openBand g s = some t) : standing t = standing s := by
  simp only [openBand] at h
  generalize hacc : List.foldl _ _ _ = acc at h
  have hs : standing acc.1 = standing s := by
    rw [← hacc]
    refine foldl_keeps (fun p : State × List Nat => standing p.1) (fun acc sl => ?_) _ _
    repeat' split
    all_goals simp
  split at h
  · cases h
  · obtain rfl := Option.some.inj h
    refine (setShelf_standing ?_).trans ?_
    · rfl
    · simp [hs]

theorem writeGrains_standing (g sl k : Nat) (bs : Bytes) (s : State) :
    standing (writeGrains g sl k bs s).2 = standing s := by
  induction k generalizing bs s with
  | zero => rfl
  | succ k ih =>
    simp only [writeGrains]
    repeat' split
    all_goals simp [ih]

theorem placeRound_standing {g : Nat} {bytes : Bytes} {again : State → Option (Nat × List (Nat × Nat × Nat)) × State}
    (ha : ∀ s, standing (again s).2 = standing s) (s : State) :
    standing (placeRound g bytes again s).2 = standing s := by
  unfold placeRound
  split
  · split
    · rfl
    next t ht => rw [ha, openBand_standing ht]
  · split
    · split
      · rw [ha, closeBand_standing]
      · rw [ha]; simp
    · dsimp only
      split
      · rw [ha]
        refine foldl_standing (fun t e => ?_) _ _
        split
        · simp [apply_ite standing]
        · rfl
      · simp [writeGrains_standing]

@[simp] theorem placeBytes_standing (g k : Nat) (bytes : Bytes) (s : State) :
    standing (placeBytes g bytes k s).2 = standing s := by
  induction k generalizing s with
  | zero => rfl
  | succ k ih => exact placeRound_standing ih s

@[simp] theorem drainTo_standing (serial g : Nat) (bytes : Bytes) (transit : Bool) (s : State) :
    standing (drainTo serial g bytes transit s) = standing s := by
  have hp := placeBytes_standing g 64 bytes s
  unfold drainTo
  split
  next t ht => rwa [ht] at hp
  next key segs t ht =>
    rw [ht] at hp
    simpa using hp

/-! ### Erases -/

@[simp] theorem addItem_standing (cls : ItemCls) (g : Nat) (work : ItemFor) (deadline : Option Nat) (s : State) :
    standing (addItem cls g work deadline s) = standing s := by
  simp [addItem, apply_ite standing]

@[simp] theorem bandAhead_standing (g band : Nat) (s : State) : standing (bandAhead g band s) = standing s :=
  addItem_standing ..

@[simp] theorem blockAhead_standing (port die block : Nat) (s : State) :
    standing (blockAhead port die block s) = standing s := by
  unfold blockAhead
  split <;> simp

@[simp] theorem closeShort_standing (g sl : Nat) (ob : OpenBand) (s : State) :
    standing (closeShort g sl ob s) = standing s := by
  refine foldl_standing (fun t k => ?_) _ _
  dsimp only
  repeat' split
  all_goals simp

@[simp] theorem loseSled_standing (g sl : Nat) (s : State) : standing (loseSled g sl s) = standing s := by
  have hv : standing (setShelf g { shelfOf s g with lost := sl :: (shelfOf s g).lost } s) = standing s := setShelf_standing rfl
  simp only [loseSled]
  repeat' split
  all_goals simp [hv]

@[simp] theorem retireDie_standing (port die : Nat) (s : State) : standing (retireDie port die s) = standing s := by
  simp [retireDie, apply_ite standing, foldl_standing]

@[simp] theorem retireBlock_standing (port die block : Nat) (s : State) :
    standing (retireBlock port die block s) = standing s := by
  simp only [retireBlock]
  repeat' split
  all_goals simp [setBlk]

@[simp] theorem eraseEnd_standing (key : Nat) (s : State) : standing (eraseEnd key s) = standing s := by
  simp only [eraseEnd]
  repeat' split
  all_goals simp

@[simp] theorem testAtErase_standing (subj : Subject) (s : State) : standing (testAtErase subj s) = standing s := by
  unfold testAtErase
  split <;> rfl

@[simp] theorem eraseAt_standing (key pos : Nat) (s : State) : standing (eraseAt key pos s) = standing s := by
  unfold eraseAt
  split <;> simp

@[simp] theorem eraseSet_standing (key : Nat) (s : State) : standing (eraseSet key s) = standing s := by
  simp only [eraseSet]
  split
  · rfl
  · simp [foldl_standing, apply_ite standing]

/-! ### The map -/

@[simp] theorem dirtyPage_standing (page i : Nat) (s : State) : standing (dirtyPage page i s) = standing s := by
  simp [dirtyPage]

@[simp] theorem putChunk_standing (serial : Nat) (c : ChunkRec) (s : State) : standing (putChunk serial c s) = standing s := by
  simp [putChunk]

@[simp] theorem putLoc_standing (key chunk : Nat) (loc : Loc) (s : State) : standing (putLoc key chunk loc s) = standing s := by
  unfold putLoc
  split <;> simp

@[simp] theorem moveChunk_standing (m : MoveEntry) (s : State) : standing (moveChunk m s) = standing s := by
  simp only [moveChunk]
  repeat' split
  all_goals simp

@[simp] theorem renameChunk_standing (old new : Nat) (f : ChunkRec → ChunkRec) (s : State) :
    standing (renameChunk old new f s) = standing s := by
  simp only [renameChunk]
  split <;> simp

@[simp] theorem freeIfDead_standing (k serial : Nat) (s : State) : standing (freeIfDead k serial s) = standing s := by
  induction k generalizing serial s with
  | zero => rfl
  | succ k ih =>
    simp only [freeIfDead]
    repeat' split
    all_goals simp [ih]

@[simp] theorem dropRef_standing (peer : Bool) (serial : Nat) (s : State) : standing (dropRef peer serial s) = standing s := by
  simp only [dropRef]
  split <;> simp

@[simp] theorem finishMove_standing (m : Nat) (v : Move) (s : State) : standing (finishMove m v s) = standing s := by
  simp only [finishMove]
  repeat' split
  all_goals simp

@[simp] theorem applyMoveRec_standing (off : Nat) (es : List MoveEntry) (s : State) :
    standing (applyMoveRec off es s) = standing s := by
  simp [applyMoveRec, foldl_standing]

@[simp] theorem applyCovered_standing (offs : List Nat) (s : State) : standing (applyCovered offs s) = standing s := by
  refine foldl_standing (fun t e => ?_) _ _
  simp [apply_ite standing]

@[simp] theorem writeIndex_standing (run : Ckpt) (s : State) : standing (writeIndex run s) = standing s := by
  refine (foldl_standing (fun t e => foldl_standing (fun t x => ?_) _ _) _ _).trans
    (foldl_standing (fun _ _ => emit_standing ..) _ _)
  simp [apply_ite standing]

/-! ### Commands -/

@[simp] theorem endTag_standing (asn : Nat) (c : Cmd) (s : State) : standing (endTag asn c s) = standing s := by
  simp [endTag, apply_ite standing]

end Sys2Proof.Machine
end

section
/-!
PROOFS. The life of a shelf: its wake is granted, completes, fails and is tried again, and it closes (R30, R212, R217 to R220,
R244, Table 8.3).
-/
namespace Sys2Proof.Machine

/-! ### The commands are an update and what follows it -/

theorem exec_shelfWakeGrant (g : Fin 32) (s : State) : exec (.shelfWakeGrant g) s = .next (settle (wakeGrant g s)) := rfl
theorem exec_shfPwrGoodRise (g : Fin 32) (s : State) : exec (.shfPwrGoodRise g) s = .next (settle (goodRise g s)) := rfl
theorem exec_shfPwrGoodFall (g : Fin 32) (s : State) : exec (.shfPwrGoodFall g) s = .next (settle (goodFall g s)) := rfl
theorem exec_shelfWakeTimeout (g : Fin 32) (six : Bool) (s : State) :
    exec (.shelfWakeTimeout g six) s = .next (settle (wakeTimeout g six s)) := rfl
theorem exec_shelfWakeRetry (g : Fin 32) (s : State) : exec (.shelfWakeRetry g) s = .next (settle (wakeRetry g s)) := rfl
theorem exec_shelfRequestHoldoffEnd (g : Fin 32) (s : State) :
    exec (.shelfRequestHoldoffEnd g) s = .next (settle (holdoffEnd g s)) := rfl
theorem exec_shelfHourlyRetry (g : Fin 32) (s : State) : exec (.shelfHourlyRetry g) s = .next (settle (hourlyRetry g s)) := rfl
theorem exec_minAwakeExpiry (g : Fin 32) (s : State) : exec (.minAwakeExpiry g) s = .next (settle (minAwakeExpiry g s)) := rfl
theorem exec_idleCloseExpiry (g : Fin 32) (s : State) : exec (.idleCloseExpiry g) s = .next (settle (idleClose g s)) := rfl
theorem exec_shelfCloseComplete (g : Fin 32) (s : State) :
    exec (.shelfCloseComplete g) s = .next (settle (closeComplete g s)) := rfl
theorem exec_shelfHoldExpiry (g : Fin 32) (s : State) : exec (.shelfHoldExpiry g) s = .next (settle (holdLapse g s)) := rfl
theorem exec_meterWindow (g : Fin 32) (s : State) : exec (.meterWindow g) s = .next (settle (meterWindow g s)) := rfl

/-! ### The grant of a wake -/

theorem record_plc (sub lo cls : Nat) (subj : Subject) (detail : Bytes) (s : State) :
    (record sub lo cls subj detail s).plc = s.plc := by
  obtain ⟨e, o, p, h⟩ := record_frame sub lo cls subj detail s
  rw [h]

theorem record_jrn (sub lo cls : Nat) (subj : Subject) (detail : Bytes) (s : State) :
    (record sub lo cls subj detail s).jrn = s.jrn := by
  obtain ⟨e, o, p, h⟩ := record_frame sub lo cls subj detail s
  rw [h]

theorem wakeGrant_due {g : Nat} {s : State} (h : wakeDue s g = true ∨ isHome s g = true) : wakeGrant g s = grantWake g s :=
  if_pos h

/-- The shelf record of a wake that is requested now (Table 8.3 step 1). -/
def requested (s : State) (g : Nat) : Shelf := { shelfOf s g with
  st := .waking, req := true, w := (wakeCaps s g).1, r := (wakeCaps s g).2, goodAtReq := (shelfOf s g).good
  lastTry := optime s, lost := [] }

theorem tryShelf_fits {g : Nat} {w : Shelf} {s : State} (h : (tryShelf g w s).1 = true) :
    tryShelf g w s = (true, setShelf g w s) := by
  simp only [tryShelf] at h ⊢
  split at h
  next hf => rw [if_pos hf]
  next => cases h

/-- A wake that may be asked for and whose charge fits is begun with the caps of its items. -/
theorem grantWake_fits {g : Nat} {s : State} (hoff : (shelfOf s g).st = .off)
    (hw : (shelfOf s g).good = true ∨ ((shelfOf s g).holdoff = false ∧ (shelfOf s g).retryWait = false))
    (hreq : mayRequest s = true) (hrec : (tget s.sleds.shelfRec g).isSome = true)
    (hover : overShare s = false ∨ isHome s g = true) (hfit : (tryShelf g (requested s g) (adoptRecords g s)).1 = true) :
    grantWake g s = grantWake.began g (shelfOf s g) (setShelf g (requested s g) (adoptRecords g s)) := by
  have hgo : ¬((!mayRequest s) = true ∨ (shelfOf s g).st ≠ .off ∨
      (((shelfOf s g).holdoff || (shelfOf s g).retryWait) && !(shelfOf s g).good) = true ∨
      (tget s.sleds.shelfRec g).isNone = true ∨ (overShare s && !isHome s g) = true) := by
    rintro (h | h | h | h | h)
    · simp [hreq] at h
    · exact h hoff
    · rcases hw with hg | ⟨hh, hr⟩
      · simp [hg] at h
      · simp [hh, hr] at h
    · simp [Option.isNone_iff_eq_none.1 h] at hrec
    · rcases hover with ho | ho <;> simp [ho] at h
  have ht := tryShelf_fits hfit
  simp only [requested] at ht ⊢
  simp only [grantWake, if_neg hgo, ht]

theorem grantWake_begins (g : Fin 32) (s : State) (v w : Shelf) (hv : shelfOf s g = v) (hoff : v.st = .off)
    (hwait : v.good = true ∨ (v.holdoff = false ∧ v.retryWait = false)) (hreq : mayRequest s = true)
    (hrec : (tget s.sleds.shelfRec g).isSome = true) (hover : overShare s = false ∨ isHome s g = true)
    (hw : w = { v with
      st := .waking
      req := true
      w := (wakeCaps s g).1
      r := (wakeCaps s g).2
      goodAtReq := v.good
      lastTry := optime s
      lost := [] }) (hfit : (tryShelf g w (adoptRecords g s)).1 = true) :
    ∃ t, grantWake g s = (if v.good = true then powerGroup g true t else t) ∧ shelfOf t g = w ∧
      t.plc.wakes = satAdd 16 s.plc.wakes 1 ∧ t.jrn = s.jrn := by
  subst hv
  obtain rfl : w = requested s g := hw
  refine ⟨_, grantWake_fits hoff hwait hreq hrec hover hfit, ?_, ?_, ?_⟩
  · rw [shelfOf, monBegin, note, record_plc]
    exact tgetD_tset_self ..
  · rw [monBegin, note, record_plc]
    rfl
  · rw [monBegin, note, record_jrn]
    rfl

/-! ### Power good and the timeouts of a wake -/

theorem wakeTimeout_waking {g : Nat} {s : State} (six : Bool) (hst : (shelfOf s g).st = .waking)
    (hc : s.jrn.compacting = false) : wakeTimeout g six s =
      if !six then (if (shelfOf s g).good then s else failWake g s)
      else if 28 ≤ linksUsable s g then becomeAwake g s else failWake g s :=
  if_neg (by simp [hst, hc])

theorem exec_wake_timeout (g : Fin 32) (s : State) (v : Shelf) (hv : shelfOf s g = v) (hst : v.st = .waking)
    (hc : s.jrn.compacting = false) :
    (v.good = false → exec (.shelfWakeTimeout g false) s = .next (settle (failWake g s))) ∧
    (v.good = true → exec (.shelfWakeTimeout g false) s = .next (settle s)) ∧
    (28 ≤ linksUsable s g → exec (.shelfWakeTimeout g true) s = .next (settle (becomeAwake g s))) ∧
    (linksUsable s g < 28 → exec (.shelfWakeTimeout g true) s = .next (settle (failWake g s))) := by
  subst hv
  simp only [exec_shelfWakeTimeout, wakeTimeout_waking _ hst hc]
  refine ⟨fun h => ?_, fun h => ?_, fun h => ?_, fun h => ?_⟩
  · simp [h]
  · simp [h]
  · simp [h]
  · simp [Nat.not_le.2 h]

/-! ### Failed wakes -/

theorem finishJobs_standing (p : Job → Bool) (st : Status) (result : Bytes) (s : State) :
    standing (finishJobs p st result s) = standing s := rfl

theorem releaseShelf_standing (g : Nat) (st : ShelfSt) (s : State) : standing (releaseShelf g st s) = standing s := by
  rw [releaseShelf, powerGroup_standing, setShelf_standing]
  rfl

theorem endHoldJob_standing (g : Nat) (st : Status) (s : State) : standing (endHoldJob g st s) = standing s := by
  simp only [endHoldJob]
  split
  · rw [finishJobs_standing, setShelf_standing]
    rfl
  · rfl

/-- Of the figures that stand, a failed wake moves its own counter alone. -/
theorem failWake_standing (g : Nat) (s : State) : standing (failWake g s) =
    standing { s with plc := { s.plc with wakesFailed := satAdd 16 s.plc.wakesFailed 1 } } := by
  simp only [failWake]
  split
  · rw [record_standing, dropItems_standing, endHoldJob_standing, setShelf_standing, releaseShelf_standing, record_standing]
    dsimp only
  · rw [setShelf_standing, releaseShelf_standing, record_standing]
    dsimp only

theorem goodFall_noted {g : Nat} {s : State}
    (h : ((shelfOf s g).st ≠ .awake ∧ (shelfOf s g).st ≠ .closing) ∨ s.jrn.compacting = true) :
    goodFall g s = setShelf g { shelfOf s g with good := false } s := if_pos h

/-- The loss of power good on an awake shelf drops its work, counts a failed wake and calls for a hardening pass. -/
theorem goodFall_awake {g : Nat} {s : State} (ha : (shelfOf s g).st = .awake) (hc : s.jrn.compacting = false) :
    ∃ u, standing u = standing (setShelf g { shelfOf s g with good := false } s) ∧
      goodFall g s = setShelf g { shelfOf (failWake g u) g with hardenFirst := true, closeAfter := false } (failWake g u) := by
  have hgo : ¬(((shelfOf s g).st ≠ .awake ∧ (shelfOf s g).st ≠ .closing) ∨
      (setShelf g { shelfOf s g with good := false } s).jrn.compacting = true) := by
    simp [ha, hc]
  have hcl : decide ((shelfOf s g).st = .closing) = false := by simp [ha]
  simp only [goodFall, if_neg hgo, hcl]
  refine ⟨_, ?_, rfl⟩
  split
  · refine (foldl_standing (fun _ _ => startMove_standing ..) _ _).trans ?_
    simp
  · simp

theorem exec_power_good_fall (g : Fin 32) (s : State) (ha : (shelfOf s g).st = .awake) (hc : s.jrn.compacting = false) :
    ∃ t, exec (.shfPwrGoodFall g) s = .next (settle t) ∧ (shelfOf t g).hardenFirst = true ∧ (shelfOf t g).good = false ∧
      (shelfOf t g).closeAfter = false ∧ t.plc.wakesFailed = satAdd 16 s.plc.wakesFailed 1 := by
  obtain ⟨u, hu, ht⟩ := goodFall_awake ha hc
  have hf := failWake_standing g u
  refine ⟨goodFall g s, exec_shfPwrGoodFall g s, ?_, ?_, ?_, ?_⟩
  · rw [ht, shelfOf_setShelf_self]
  · rw [ht, shelfOf_setShelf_self]
    exact ((standing_good hf g).trans (standing_good hu g)).trans (by rw [shelfOf_setShelf_self])
  · rw [ht, shelfOf_setShelf_self]
  · rw [ht]
    refine (standing_wakesFailed hf).trans ?_
    dsimp only
    rw [standing_wakesFailed hu]
    rfl

/-! ### Closing -/

theorem shelfOf_releaseShelf (g : Nat) (st : ShelfSt) (s : State) : shelfOf (releaseShelf g st s) g = { shelfOf s g with
    st := st, req := false, w := 0, r := 0, held := false, readOnly := false, minAwake := false, goodAtReq := false } := by
  rw [shelfOf, releaseShelf, powerGroup_plc]
  exact tgetD_tset_self ..

theorem shelfOf_finishJobs (p : Job → Bool) (st : Status) (result : Bytes) (s : State) (g : Nat) :
    shelfOf (finishJobs p st result s) g = shelfOf s g := rfl

/-- A closing shelf whose data is hardened takes the last step of its closing (Table 8.7). -/
theorem closeComplete_closing {g : Nat} {s : State} (hst : (shelfOf s g).st = .closing) (hh : unhardened s g = false)
    (hc : s.jrn.compacting = false) : closeComplete g s =
      if !(shelfOf s g).closeAfter then endHoldJob g .success (setShelf g { shelfOf s g with st := .awake } s)
      else if waitingOn s g ≠ 0 then s
      else record 4 5 0 (.shelf g) (leN 1 0)
        (finishJobs (fun j => decide (j.opcode = 0x0411 ∧ j.subj = g)) .success []
          (setShelf g { shelfOf (releaseShelf g .off s) g with holdoff := true, closeAfter := false }
            (releaseShelf g .off s))) :=
  if_neg (by simp [hst, hh, hc])

theorem exec_close_complete (g : Fin 32) (s : State) (v : Shelf) (hv : shelfOf s g = v) (hst : v.st = .closing)
    (hh : unhardened s g = false) (hc : s.jrn.compacting = false) :
    (v.closeAfter = true → waitingOn s g = 0 →
      ∃ t, exec (.shelfCloseComplete g) s = .next (settle (record 4 5 0 (.shelf g) (leN 1 0) t)) ∧
        (shelfOf t g).st = .off ∧ (shelfOf t g).req = false ∧ (shelfOf t g).holdoff = true) ∧
    (v.closeAfter = true → waitingOn s g ≠ 0 → exec (.shelfCloseComplete g) s = .next (settle s)) ∧
    (v.closeAfter = false → exec (.shelfCloseComplete g) s =
      .next (settle (endHoldJob g .success (setShelf g { v with st := .awake } s)))) := by
  subst hv
  rw [exec_shelfCloseComplete, closeComplete_closing hst hh hc]
  refine ⟨fun ha hw => ?_, fun ha hw => ?_, fun ha => ?_⟩
  · have hgo : ¬(!(shelfOf s g).closeAfter) = true := by simp [ha]
    rw [if_neg hgo, if_neg (not_not_intro hw)]
    refine ⟨_, rfl, ?_⟩
    rw [shelfOf_finishJobs, shelfOf_setShelf_self, shelfOf_releaseShelf]
    exact ⟨rfl, rfl, rfl⟩
  · simp [ha, hw]
  · simp [ha]

/-- Settles O33: each command unfolds to its branch, and what a failed wake counts comes from the figures that stand. -/
theorem shelfWakesAndCloses : Obligations.ShelfWakesAndCloses := by
  unfold Obligations.ShelfWakesAndCloses
  refine ⟨fun g s => ⟨fun h => ?due, fun hd hh => ?notDue⟩, grantWake_begins,
    fun g s v hv => ⟨fun hst hg => ?rise, fun h => ?riseNoted⟩, exec_wake_timeout, fun g s v hv h => ?fallNoted,
    exec_power_good_fall, fun g s v hv => ⟨fun hst hr => ?retry, fun ho hd => ?holdoff, fun hd => ?holdoffAlone⟩,
    fun g s v hv hst ht => ?hourly, fun g s t ht => ⟨fun hm hf => ?minAwake, fun hm => ?minAwakeStays⟩,
    fun g s => ⟨fun hm => ?idle, fun hm => ?idleStays⟩, exec_close_complete, fun g s h => ?hold, fun g s => ?meter⟩
  case due => rw [exec_shelfWakeGrant, wakeGrant_due h]
  case notDue => rw [exec_shelfWakeGrant, wakeGrant, if_neg (by simp [hd, hh])]
  case rise => subst hv; rw [exec_shfPwrGoodRise, goodRise, if_pos ⟨hst, by simp [hg]⟩]
  case riseNoted => subst hv; rw [exec_shfPwrGoodRise, goodRise, if_neg (by rcases h with h | h <;> simp [h])]
  case fallNoted => subst hv; rw [exec_shfPwrGoodFall, goodFall_noted h]
  case retry => subst hv; rw [exec_shelfWakeRetry, wakeRetry, if_pos ⟨hst, hr⟩]
  case holdoff => subst hv; rw [exec_shelfRequestHoldoffEnd, holdoffEnd, if_pos ⟨ho, hd⟩]
  case holdoffAlone =>
    subst hv
    rw [exec_shelfRequestHoldoffEnd, holdoffEnd, if_neg (fun h => Bool.false_ne_true (hd.symm.trans h.2))]
  case hourly => subst hv; rw [exec_shelfHourlyRetry, hourlyRetry, if_pos ⟨hst, ht⟩]
  case minAwake => subst ht; rw [exec_minAwakeExpiry, minAwakeExpiry, if_pos ⟨hm, congrArg not hf⟩]
  case minAwakeStays => subst ht; rw [exec_minAwakeExpiry, minAwakeExpiry, if_neg (by simp [hm])]
  case idle => rw [exec_idleCloseExpiry, idleClose, if_pos hm]
  case idleStays => rw [exec_idleCloseExpiry, idleClose, if_neg (by simp [hm])]
  case hold => rw [exec_shelfHoldExpiry, holdLapse, if_neg h]
  case meter => exact exec_meterWindow g s

end Sys2Proof.Machine
end

section
/-!
PROOFS. Placement and background work: the schedule, the heat counters, RECALL, checkpoints, garbage collection and read disturb
(R19, R222, R224, R236 to R239, R252, R260, R263, R267, R269, Table 9.7).
-/
namespace Sys2Proof.Machine

/-! ### The commands are an update and what follows it -/

theorem exec_batchWindowEnd (s : State) : exec .batchWindowEnd s = .next (settle (batchEnd s)) := rfl
theorem exec_urgencyStep (n : Nat) (s : State) : exec (.urgencyStep n) s = .next (settle (urgencyStep n s)) := rfl
theorem exec_scheduleGrant (s : State) : exec .scheduleGrant s = .next (settle (scheduleGrant s)) := rfl
theorem exec_chunkPlace (serial : Nat) (s : State) : exec (.chunkPlace serial) s = .next (settle (chunkPlace serial s)) := rfl
theorem exec_recallStageDone (asn : Nat) (s : State) :
    exec (.recallStageDone asn) s = .next (settle (recallStageDone asn s)) := rfl
theorem exec_recallHoldExpiry (n : Nat) (s : State) : exec (.recallHoldExpiry n) s = .next (settle (holdExpiry n s)) := rfl
theorem exec_retentionDue (g : Fin 32) (s : State) : exec (.retentionDue g) s = .next (settle (retentionDue g s)) := rfl
theorem exec_heatFold (s : State) : exec .heatFold s = .next (heatFold s) := rfl
theorem exec_heatHalving (s : State) : exec .heatHalving s = .next (heatHalve s) := rfl
theorem exec_checkpointStart (s : State) : exec .checkpointStart s = .next (settle (checkpointStart s)) := rfl
theorem exec_checkpointComplete (s : State) : exec .checkpointComplete s = .next (settle (checkpointComplete s)) := rfl
theorem exec_gcEraseWaitEnd (g : Fin 32) (band : Nat) (s : State) :
    exec (.gcEraseWaitEnd g band) s = .next (settle (gcEraseWaitEnd g band s)) := rfl
theorem exec_readDisturbFold (s : State) : exec .readDisturbFold s = .next (settle (foldAll s)) := rfl

/-! ### The schedule (R236, R237) -/

/-- A batch window of one shelf ends with the wake of that shelf. -/
theorem batchEnd_one {s : State} {g : Nat} (h : s.plc.batch = [g]) :
    batchEnd s = grantWake g { s with plc := { s.plc with batch := [], batchOpen := false } } := by
  simp [batchEnd, h]

theorem exec_urgency_step (n : Nat) (s : State) (i : Item) (hi : tget s.plc.items n = some i) (hd : i.deadline.isSome = true) :
    ∃ t, exec (.urgencyStep n) s = .next (settle t) ∧
      tget t.plc.items n = some { i with urgency := min 3 (i.urgency + 1) } ∧
      (∀ k, k ≠ n → tget t.plc.items k = tget s.plc.items k) := by
  refine ⟨urgencyStep n s, exec_urgencyStep n s, ?_, fun k hk => ?_⟩
  · rw [urgencyStep, tget_tmod _ _ _ i hi, if_pos hd]
  · simp only [urgencyStep, tmod, hi]
    exact tget_tset_other _ _ hk

/-- An item of the lowest urgency, or one that has its room, is tried with what the Gatehouse grants it. -/
theorem tryGrant_fits {n : Nat} {i : Item} {s : State} (h : i.urgency = 0 ∨ hasItsRoom i (grantRoom i s) = true) :
    (tryGrant (n, i) s).2 = if i.work = .wake then grantRoom i s else grantItem n i (grantRoom i s) := by
  by_cases hr : hasItsRoom i (grantRoom i s) = true
  · simp only [tryGrant, if_pos hr]
    split <;> simp_all
  · have hu : i.urgency = 0 := h.resolve_right hr
    simp only [tryGrant, if_neg hr, hu, true_or, if_true]
    split <;> simp_all

/-- An item waits for its grant on a shelf in the state that its work asks for. -/
def grantable (s : State) (i : Item) : Prop :=
  if i.work = .wake then (shelfOf s i.shelf).st = .off ∧ wakeDue s i.shelf = true else (shelfOf s i.shelf).st = .awake

/-- With nothing more to plan, the one item that waits is tried. -/
theorem scheduleGrant_one {s : State} {n : Nat} {i : Item} (hplan : planInspect (planGcWake (planSweep (planWork s))) = s)
    (hone : s.plc.items = [(n, i)]) (hwaits : i.granted = false) (hable : grantable s i) :
    scheduleGrant s = (tryGrant (n, i) s).2 := by
  have hfilter : ∀ p : Nat × Item → Bool, p (n, i) = true → rankOrder (s.plc.items.filter p) = [(n, i)] := by
    intro p hp
    rw [hone, List.filter_cons_of_pos hp, List.filter_nil]
    rfl
  simp only [scheduleGrant, hplan]
  rw [hfilter]
  · simp
  · unfold grantable at hable
    split <;> simp_all

theorem exec_schedule_grant (s : State) (n : Nat) (i : Item) (hplan : planInspect (planGcWake (planSweep (planWork s))) = s)
    (hone : s.plc.items = [(n, i)]) (hwaits : i.granted = false)
    (hroom : i.urgency = 0 ∨ hasItsRoom i (grantRoom i s) = true) :
    (i.work ≠ .wake → (shelfOf s i.shelf).st = .awake →
      exec .scheduleGrant s = .next (settle (grantItem n i (grantRoom i s)))) ∧
    (i.work = .wake → (shelfOf s i.shelf).st = .off → wakeDue s i.shelf = true →
      exec .scheduleGrant s = .next (settle (grantRoom i s))) := by
  refine ⟨fun hw hst => ?_, fun hw hst hd => ?_⟩
  · have hable : grantable s i := (if_neg hw).mpr hst
    rw [exec_scheduleGrant, scheduleGrant_one hplan hone hwaits hable, tryGrant_fits hroom, if_neg hw]
  · have hable : grantable s i := (if_pos hw).mpr ⟨hst, hd⟩
    rw [exec_scheduleGrant, scheduleGrant_one hplan hone hwaits hable, tryGrant_fits hroom, if_pos hw]

/-! ### Placement (R222, R224) -/

/-- Outside the flash-confirmed mode CHUNK_PLACE places the chunk and pads nothing (R85). -/
theorem chunkPlace_eq {serial : Nat} {s : State} (h : (placeChunk serial s).jrn.flashMode = false) :
    chunkPlace serial s = placeChunk serial s := by
  simp only [chunkPlace, h, Bool.false_eq_true, false_and, if_false]
  split <;> rfl

section
variable {serial vol block : Nat} {e r : Bytes} {s : State} (hp : thas s.plc.placed serial = false)
  (hd : thas s.jrn.drain serial = true) (hf : s.pair.fenced = false) (hs : s.jrn.stopped = false)
  (hc : journalCopy s serial = some (e, r)) (hj : journalPlace s serial = some (vol, block))
include hp hd hf hs hc hj

/-- A hot chunk goes to a home shelf with room while hot data keeps within its share (R224). -/
theorem placeChunk_hot {h : Nat} (hh : homeWithRoom s = some h)
    (hot : s.plc.policy.hotThreshold ≤ tgetD s.plc.heat (heatKey vol block) 0)
    (hroom : homePct s (fun p => !p.transit) < s.plc.policy.homeHotPct) :
    placeChunk serial s = drainTo serial h (grainBytes e r) false s := by
  simp [placeChunk, hp, hd, hf, hs, hc, hj, hh, hot, hroom]

/-- Without a home shelf that has room, a chunk goes to the fill shelf of its volume. -/
theorem placeChunk_fill {g : Nat} {u : State} (hh : homeWithRoom s = none) (hfill : fillShelf vol s = (some g, u))
    (hroom : hasRoom u g = true) : placeChunk serial s = drainTo serial g (grainBytes e r) false u := by
  simp [placeChunk, placeChunk.cold, hp, hd, hf, hs, hc, hj, hh, hfill, hroom]

end

/-- A chunk that is placed, or that no journal copy asks to place, is left. -/
theorem placeChunk_settled {serial : Nat} {s : State}
    (h : thas s.jrn.drain serial = false ∨ thas s.plc.placed serial = true) : placeChunk serial s = s :=
  if_pos (by rcases h with h | h <;> simp [h])

theorem drainTo_flashMode {serial g : Nat} {bytes : Bytes} {transit : Bool} {s : State} (h : s.jrn.flashMode = false) :
    (drainTo serial g bytes transit s).jrn.flashMode = false :=
  (standing_flashMode (drainTo_standing ..)).trans h

/-! ### RECALL (R238) -/

theorem cmdOf_of_standing {s t : State} {asn : Nat} (h : standing t = standing s) : cmdOf t asn = cmdOf s asn :=
  congrArg (tget · asn) (standing_cmds h)

/-- A reader that is decided keeps what it holds; its completion record may still be awaited (R58). -/
theorem cmdOf_reader_decided {asn result : Nat} {c : Cmd} {s : State} (hc : cmdOf s asn = some c) (hst : c.stage ≠ .decided)
    (hr : isWriter c = false) : ∃ w, cmdOf (decide_ asn .success result s) asn =
      some { c with stage := .decided, status := .success, result := result, waitRec := w } := by
  have hend : ∀ d, cmdOf (endTag asn d (setCmd asn d s)) asn = some d := fun d =>
    (cmdOf_of_standing (endTag_standing ..)).trans (cmdOf_setCmd_self ..)
  have hr' : isWriter { c with stage := .decided, status := .success, result := result } = false := hr
  simp only [decide_, hc, if_neg hst, hr', Bool.false_eq_true, false_and, if_false]
  split
  · exact ⟨c.waitRec, hend _⟩
  · exact ⟨_, cmdOf_modCmd _ ((cmdOf_of_standing (writeRec_standing ..)).trans (hend _))⟩

theorem cmdOf_setHold {asn : Nat} {staged : List (Nat × Nat)} {shelves : List Nat} {c : Cmd} {s : State}
    (hc : cmdOf s asn = some c) :
    cmdOf (setHold asn staged shelves s) asn = some { c with holdId := some s.plc.holdCount } := by
  simp only [setHold, hc]
  exact cmdOf_modCmd _ hc

/-- A RECALL is a reader, and completes with SUCCESS. -/
theorem cmdOf_finishRecall {asn : Nat} {c : Cmd} {s : State} (hc : cmdOf s asn = some c) (hst : c.stage = .running)
    (hop : c.opcode = 6) : ∃ x, cmdOf (finishRecall asn s) asn = some x ∧ x.stage = .decided ∧ x.status = .success ∧
      x.holdId = c.holdId ∧ x.pinWake = c.pinWake := by
  have hc' : cmdOf (modCmd asn (fun c => { c with taken := true }) (draw s)) asn = some { c with taken := true } :=
    cmdOf_modCmd _ hc
  obtain ⟨w, hx⟩ := cmdOf_reader_decided (result := freeNat s % 2 ^ 32) hc' (by simp [hst]) (by simp [isWriter, hop])
  exact ⟨_, hx, rfl, rfl, rfl, rfl⟩

theorem exec_recall_stage_done (asn : Nat) (c : Cmd) (s : State) (hc : cmdOf s asn = some c) (hst : c.stage = .running)
    (hop : c.opcode = 6) (hpin : c.pinWake ≠ []) (hstg : c.staging = true)
    (hall : (s.plc.moves.filter (fun e => decide (e.2.why = .recall asn))).all
      (fun e => ((tget s.plc.copies e.1).map (copiesConfirmed s)).getD false) = true) :
    ∃ t x, exec (.recallStageDone asn) s = .next (settle t) ∧ cmdOf t asn = some x ∧ x.stage = .decided ∧
      x.status = .success ∧ x.holdId = some s.plc.holdCount ∧ x.pinWake = [] := by
  have hgo : ¬(c.stage ≠ .running ∨ c.opcode ≠ 6 ∨ c.pinWake = [] ∨ (!c.staging) = true ∨
      (!(s.plc.moves.filter (fun e => decide (e.2.why = .recall asn))).all
        (fun e => ((tget s.plc.copies e.1).map (copiesConfirmed s)).getD false)) = true) := by
    simp only [hst, hop, hpin, hstg, hall]
    decide
  have hpinned : cmdOf (modCmd asn (fun c => { c with pinWake := [] }) s) asn = some { c with pinWake := [] } :=
    cmdOf_modCmd _ hc
  have hfinish : ∀ u, cmdOf u asn = some { c with pinWake := [], holdId := some s.plc.holdCount } →
      ∃ t x, Host.Outcome.next (settle (finishRecall asn u)) = (.next (settle t) : Res) ∧ cmdOf t asn = some x ∧
        x.stage = .decided ∧ x.status = .success ∧ x.holdId = some s.plc.holdCount ∧ x.pinWake = [] := fun u hu => by
    obtain ⟨x, hx, hstage, hstatus, hhold, hwake⟩ := cmdOf_finishRecall hu hst hop
    exact ⟨_, x, rfl, hx, hstage, hstatus, hhold, hwake⟩
  rw [exec_recallStageDone]
  simp only [recallStageDone, hc, if_neg hgo]
  refine hfinish _ ?_
  show tget (setHold _ _ _ _).jrn.cmds asn = _
  exact cmdOf_setHold hpinned

/-! ### Heat (R222) -/

theorem exec_heat_fold (s : State) (k n : Nat) (h : s.plc.heatT = [(k, n)]) : ∃ t, exec .heatFold s = .next t ∧
    tgetD t.plc.heat k 0 = heatCode (heatValue (tgetD s.plc.heat k 0) + n) ∧ t.plc.heatT = [] ∧
    (∀ j, j ≠ k → tgetD t.plc.heat j 0 = tgetD s.plc.heat j 0) := by
  refine ⟨heatFold s, exec_heatFold s, ?_, rfl, fun j hj => ?_⟩
  · simp only [heatFold, h, List.foldl_cons, List.foldl_nil, tgetD_tset_self]
  · simp only [heatFold, h, List.foldl_cons, List.foldl_nil]
    exact tgetD_tset_other _ _ _ hj

/-- A counter halved to 0 leaves the table, which reads as 0. -/
theorem exec_heat_halving (s : State) (k c : Nat) (h : s.plc.heat = [(k, c)]) : ∃ t, exec .heatHalving s = .next t ∧
    tgetD t.plc.heat k 0 = heatCode (heatValue c / 2) ∧ t.plc.heatT = s.plc.heatT := by
  refine ⟨heatHalve s, exec_heatHalving s, ?_, rfl⟩
  by_cases h0 : heatCode (heatValue c / 2) = 0
  · simp [heatHalve, h, tmap, tfilter, h0, tgetD, tget]
  · simp [heatHalve, h, tmap, tfilter, h0, tgetD, tget]

/-! ### Checkpoints (R19, R260) -/

theorem exec_checkpoint_start (s : State) (hrun : s.map.ckptRun = none) (hserve : s.jrn.serving = true)
    (hrestart : s.jrn.restart = .none) (hstop : s.jrn.stopped = false) (hfence : s.pair.fenced = false) :
    ∃ t run u v, exec .checkpointStart s = .next (settle t) ∧ u = (tkeys s.plc.open_).foldl (fun s g => padShelf g s) s ∧
      v = applyCovered (coveredOffs u) u ∧ t.map.ckptRun = some run ∧ run.number = u.map.ckptMade + 1 ∧
      run.maps = v.map.maps ∧ run.leaves = v.map.leaves ∧ run.chunks = v.map.chunks ∧ run.serialHigh = u.map.serial ∧
      run.index = mergedIndex v ∧ t.map.ckptMade = u.map.ckptMade + 1 ∧ t.map.ckpt = u.map.ckpt := by
  have hgo : ¬(s.map.ckptRun.isSome = true ∨ (!s.jrn.serving) = true ∨ s.jrn.restart ≠ .none ∨ s.jrn.stopped = true ∨
      s.pair.fenced = true) := by
    simp [hrun, hserve, hrestart, hstop, hfence]
  rw [exec_checkpointStart, checkpointStart, if_neg hgo]
  refine ⟨_, _, _, _, rfl, rfl, rfl, rfl, rfl, rfl, rfl, rfl, rfl, rfl, rfl, ?_⟩
  show (writeLoose (.mapCheckpoint _ _) _).2.map.ckpt = _
  exact standing_ckpt (writeLoose_standing ..)

theorem exec_checkpoint_complete (s : State) (run : Ckpt) (hrun : s.map.ckptRun = some run) :
    ∃ t, exec .checkpointComplete s = .next (settle t) ∧ t.map.ckpt = run ∧ t.map.ckptPrev = s.map.ckpt ∧
      t.map.ckptRun = none := by
  rw [exec_checkpointComplete]
  simp only [checkpointComplete, hrun]
  have ht : ∀ u, standing (s.map.ckptSets.foldl (fun s k => eraseSet k s) (writeIndex run u)) = standing u := fun u =>
    (foldl_standing (fun _ _ => eraseSet_standing ..) _ _).trans (writeIndex_standing run u)
  have hcovered : standing (modOwn (fun r => s.map.ckptOff.contains r.r.off) (fun r => { r with checkpointed := true })
      (applyCovered s.map.ckptOff s)) = standing s := (modOwn_standing ..).trans (applyCovered_standing ..)
  exact ⟨_, rfl, standing_ckpt (ht _), (standing_ckptPrev (ht _)).trans (standing_ckpt hcovered), standing_ckptRun (ht _)⟩

/-! ### Garbage collection and read disturb (R263, R267, R269) -/

/-- Finishing jobs one after the other leaves the shelves, sets and bands. -/
theorem foldl_finishJob_plc {α : Type} {p : State → α → Prop} [∀ s a, Decidable (p s a)] {job : α → Nat} (l : List α) (s : State) :
    (l.foldl (fun s a => if p s a then finishJob (job a) .success [] s else s) s).plc = s.plc := by
  refine foldl_keeps State.plc (fun t a => ?_) l s
  split <;> rfl

theorem gcEraseWaitEnd_waits {g band : Nat} {s : State} (h : bandRead s g band = true ∨ movedDone s g band = false) :
    gcEraseWaitEnd g band s = s :=
  if_pos (by rcases h with h | h <;> simp [h])

/-- The wait ends on a band that is moved, done and unread: its sets are erased, and its rows, items and jobs go. -/
theorem exec_gc_erase (g : Fin 32) (band : Nat) (s : State) (hsome : (bandSets s g band).isEmpty = false)
    (hmoved : (bandSets s g band).all (fun e => decide (e.2.state = 5)) = true) (hread : bandRead s g band = false)
    (hdone : movedDone s g band = true) :
    ∃ t, exec (.gcEraseWaitEnd g band) s = .next (settle t) ∧ t.plc.gcBands = satAdd 16 s.plc.gcBands 1 ∧
      (∀ e ∈ t.plc.rows, ¬(e.2.shelf = g ∧ e.2.band = band)) ∧ (∀ e ∈ t.plc.bandJobs, ¬(e.1 = g ∧ e.2.1 = band)) := by
  have hgo : ¬((bandSets s g band).isEmpty = true ∨ (!(bandSets s g band).all (fun e => decide (e.2.state = 5))) = true ∨
      bandRead s g band = true ∨ (!movedDone s g band) = true) := by
    simp [hsome, hmoved, hread, hdone]
  have herase : ∀ (ks : List Nat) u, standing (ks.foldl (fun s k => eraseSet k s) u) = standing u := fun ks u =>
    foldl_standing (fun _ _ => eraseSet_standing ..) ks u
  rw [exec_gcEraseWaitEnd, gcEraseWaitEnd, if_neg hgo]
  refine ⟨_, rfl, ?_, fun e he => ?_, fun e he => ?_⟩
  · dsimp only
    rw [foldl_finishJob_plc]
    exact standing_gcBands (herase _ _)
  · dsimp only at he
    rw [foldl_finishJob_plc] at he
    exact of_decide_eq_false (Bool.not_eq_true' _ ▸ (List.mem_filter.1 he).2)
  · exact of_decide_eq_false (Bool.not_eq_true' _ ▸ (List.mem_filter.1 he).2)

theorem readDisturbFold_one {s : State} {k n : Nat} (h : s.plc.readT = [(k, n)]) : foldAll s = foldReads k s := by
  simp [foldAll, h, tkeys]

/-- The transient reads of a block are folded into its count, rounded up to a value that the counter can hold. -/
theorem foldReads_counts (s : State) (k n : Nat) (v : Blk) (h : s.plc.readT = [(k, n)]) (hn : n ≠ 0) (hv : blkOf s k = v) :
    ∃ t e m, foldReads k s = checkDisturb k t ∧ rdCeil (rdValue v.exp v.man + n) 64 0 = (e, m) ∧ t.plc.readT = [] ∧
      (blkOf t k).exp = e ∧ (blkOf t k).man = m := by
  subst hv
  have hreads : tgetD s.plc.readT k 0 = n := by simp [h, tgetD, tget]
  have hgone : terase s.plc.readT k = [] := by simp [h, terase]
  simp only [foldReads, hreads, if_neg hn]
  refine ⟨_, _, _, rfl, rfl, hgone, ?_, ?_⟩
  · rw [blkOf_setBlk_self]
    rfl
  · rw [blkOf_setBlk_self]
    rfl

/-- Settles O34: each command unfolds to its branch; placing, erasing and journal writes leave the figures that stand. -/
theorem placementAndBackgroundWork : Obligations.PlacementAndBackgroundWork := by
  unfold Obligations.PlacementAndBackgroundWork
  refine ⟨fun s g h => ?batch, exec_urgency_step,
    fun s n i hplan hone hwaits hroom => exec_schedule_grant s n i hplan hone hwaits hroom,
    fun serial vol block h e r s hp hd hf hs hm hc hj hh hot hroom => ?hot,
    fun serial vol block g e r s u hp hd hf hs hm hc hj hh hfill hroom => ?fill,
    fun serial s h hm => ?settled, exec_recall_stage_done, fun n h s hh he hsh => ?holdEnds, fun n h s hh he => ?holdStays,
    fun g s h => ?retention, exec_heat_fold, exec_heat_halving, exec_checkpoint_start, exec_checkpoint_complete,
    exec_gc_erase, fun g band s h => ?gcWaits, fun s k n h => ?disturb, foldReads_counts⟩
  case batch => exact ⟨_, by rw [exec_batchWindowEnd, batchEnd_one h], rfl⟩
  case hot =>
    have hplace := placeChunk_hot hp hd hf hs hc hj hh hot hroom
    rw [exec_chunkPlace, chunkPlace_eq (by rw [hplace]; exact drainTo_flashMode hm), hplace]
  case fill =>
    have hplace := placeChunk_fill hp hd hf hs hc hj hh hfill hroom
    rw [exec_chunkPlace, chunkPlace_eq (by rw [hplace]; exact drainTo_flashMode hm), hplace]
  case settled =>
    have hplace := placeChunk_settled h
    rw [exec_chunkPlace, chunkPlace_eq (by rw [hplace]; exact hm), hplace]
  case holdEnds =>
    simp only [exec_recallHoldExpiry, holdExpiry, hh, if_neg (Nat.not_lt.2 he), hsh, List.foldl_nil]
  case holdStays => simp only [exec_recallHoldExpiry, holdExpiry, hh, if_pos he]
  case retention => rw [exec_retentionDue, retentionDue, if_neg (by simp [h])]
  case gcWaits => rw [exec_gcEraseWaitEnd, gcEraseWaitEnd_waits h]
  case disturb => rw [exec_readDisturbFold, readDisturbFold_one h]

end Sys2Proof.Machine
end

-- Proofs of the statements on the Kiosk and on Basmos commands (chapter 02).
section
/-!
PROOFS. The mailboxes of the control port and the Lodge's handling of a request: writes, rings and acknowledgements (R34 to R36),
cancels (R39), takes, parts and timeouts (R36, R38, R43, R44).
-/
namespace Sys2Proof.Machine

/-! ### Commands of a mailbox that SMBus does not hold -/

theorem exec_mbxRequestWrite (n : Fin 64) (off : Nat) (data : Bytes) (s : State) :
    exec (.mbxRequestWrite n off data) s = .next (mbxRequestWrite n off data s) := rfl

theorem exec_mbxRing (n : Fin 64) (s : State) : exec (.mbxRing n) s = .next (mbxRing n s) := rfl

theorem exec_mbxCancel (n : Fin 64) (s : State) : exec (.mbxCancel n) s = .next (mbxCancel n s) := rfl

theorem exec_mbxDoneAck (n : Fin 64) (s : State) : exec (.mbxDoneAck n) s = .next (mbxDoneAck n s) := rfl

theorem mbxBusy_eq_false {m : Mbx} : mbxBusy m = false ↔ m.state = .idle ∨ m.state = .done := by
  cases h : m.state <;> simp [mbxBusy, h]

theorem mbxBusy_eq_true {m : Mbx} : mbxBusy m = true ↔ m.state = .posted ∨ m.state = .running := by
  simp [mbxBusy]

/-- What a well-placed write does, by whether the mailbox is busy. -/
theorem mbxRequestWrite_eq {n off : Nat} {data : Bytes} {s : State} (ha : alignedAccess off data.length = true)
    (hend : off + data.length ≤ 512) (hh : heldBySmbus n (mbxOf s n) = false) : mbxRequestWrite n off data s =
      if mbxBusy (mbxOf s n) then setMbx n { mbxOf s n with writeBusy := true } s
      else setMbx n { mbxOf s n with
        req := memPuts (mbxOf s n).req off data
        holder := if n = 63 ∧ (mbxOf s n).holder = 0 then 1 else (mbxOf s n).holder } s := by
  simp only [mbxRequestWrite, ha, hh, Nat.not_lt.2 hend, Bool.not_true, Bool.false_eq_true, if_false]

theorem mbxRing_eq {n : Nat} {s : State} (hh : heldBySmbus n (mbxOf s n) = false) : mbxRing n s =
    if mbxBusy (mbxOf s n) then setMbx n { mbxOf s n with ringBusy := true } s else postRequest n .controlPort s := by
  simp only [mbxRing, hh, Bool.false_eq_true, if_false]

theorem mbxCancel_eq {n : Nat} {s : State} (hh : heldBySmbus n (mbxOf s n) = false) : mbxCancel n s = cancelRequest n s := by
  simp only [mbxCancel, hh, Bool.false_eq_true, if_false]

theorem mbxDoneAck_eq {n : Nat} {s : State} (hh : heldBySmbus n (mbxOf s n) = false) : mbxDoneAck n s = ackResponse n s := by
  simp only [mbxDoneAck, hh, Bool.false_eq_true, if_false]

/-! ### Rings (R36, R47) -/

/-- Mailbox m with its request posted over a path, as the ring leaves it in state s. -/
def postedMbx (p : Path) (s : State) (m : Mbx) : Mbx :=
  { m with
    state := .posted
    cancel := false
    msg := none
    ticket := s.kiosk.session.map (fun x => { handle := x.handle, scope := x.scope, path := x.path })
    ringPath := p
    ringNo := s.kiosk.ringCount }

theorem mbxOf_postRequest_self (n : Nat) (p : Path) (s : State) :
    mbxOf (postRequest n p s) n = postedMbx p s (mbxOf s n) := mbxOf_setMbx_self ..

theorem mbxOf_postRequest_other {n k : Nat} (p : Path) (s : State) (h : k ≠ n) :
    mbxOf (postRequest n p s) k = mbxOf s k := mbxOf_setMbx_other _ s h

/-- The start of a transaction changes the starts alone. -/
theorem starting_frame (probe id : Nat) (m : Mons) : m.starting probe id = { m with starts := (m.starting probe id).starts } := by
  unfold Mons.starting
  split <;> rfl

theorem postRequest_frame (n : Nat) (p : Path) (s : State) : postRequest n p s = { s with
    mons := { s.mons with starts := (postRequest n p s).mons.starts }
    kiosk := { s.kiosk with
      mbx := (postRequest n p s).kiosk.mbx
      ringCount := s.kiosk.ringCount + 1
      smbAlert := if n = 63 then false else s.kiosk.smbAlert } } := by
  have hm : (postRequest n p s).mons = s.mons.starting 18 n := rfl
  conv_rhs => rw [hm, ← starting_frame]
  rfl

/-! ### Acknowledgements (R36, R40, R42) -/

theorem ackResponse_done {n : Nat} {s : State} (hd : (mbxOf s n).state = .done) (hn : n ≠ 63) :
    ackResponse n s = setMbx n { mbxOf s n with state := .idle } s := by
  simp [ackResponse, hd, hn]

theorem ackResponse_done_smbus {s : State} (hd : (mbxOf s 63).state = .done) : ackResponse 63 s =
    { s with kiosk := { s.kiosk with
      mbx := tset s.kiosk.mbx 63 { mbxOf s 63 with state := .idle, holder := 0 }
      smbAlert := false } } := by
  simp [ackResponse, hd, setMbx]

/-- Settles O1: writes, rings and acknowledgements, each by whether the mailbox is busy. -/
theorem mailboxWriteRingAndAck : Obligations.MailboxWriteRingAndAck := by
  unfold Obligations.MailboxWriteRingAndAck
  refine ⟨fun n off data s ha hend hh => ⟨fun hst => ⟨?write, fun hw a => memGet_memPuts hw⟩, fun hst => ?writeBusy⟩,
    fun n s hh => ⟨fun hst => ⟨postRequest n .controlPort s, ?ring, mbxOf_postRequest_self .., fun k hk =>
      mbxOf_postRequest_other _ s hk, postRequest_frame ..⟩, fun hst => ?ringBusy⟩,
    fun n s hh hd => ⟨fun hn => ?ack, fun hn => ?ackSmbus⟩⟩
  case write =>
    have hb := mbxBusy_eq_false.2 hst
    simp only [exec_mbxRequestWrite, mbxRequestWrite_eq ha hend hh, hb, Bool.false_eq_true, if_false]
  case writeBusy => rw [exec_mbxRequestWrite, mbxRequestWrite_eq ha hend hh, if_pos (mbxBusy_eq_true.2 hst)]
  case ring =>
    have hb := mbxBusy_eq_false.2 hst
    simp only [exec_mbxRing, mbxRing_eq hh, hb, Bool.false_eq_true, if_false]
  case ringBusy => rw [exec_mbxRing, mbxRing_eq hh, if_pos (mbxBusy_eq_true.2 hst)]
  case ack => rw [exec_mbxDoneAck, mbxDoneAck_eq hh, ackResponse_done hd hn]
  case ackSmbus =>
    rw [exec_mbxDoneAck, mbxDoneAck_eq hh]
    rw [hn] at hd ⊢
    rw [ackResponse_done_smbus hd]

/-! ### Responses with a status alone (R38, R39) -/

/-- A mailbox after its request ended with a status and no payload, its request area as m has it. -/
def endedMbx (st : Status) (m : Mbx) : Mbx :=
  { m with
    msg := none
    partAck := false
    longRun := false
    cancel := false
    ticket := none
    resp := memPuts [] 0 (fit 448 (respHeader (reqByte m 0 2) (reqByte m 2 2) 0 (reqByte m 6 1 % 2) st.code (reqByte m 8 4)
      (reqByte m 12 2)))
    respLen := 16
    lastSeq := BitVec.ofNat 16 (reqByte m 2 2)
    status := BitVec.ofNat 8 st.code
    state := .done }

/-- A status without payload completes the request and touches no other mailbox. -/
theorem finishStatus_done {n : Nat} {s : State} (st : Status) (h : (mbxOf s n).discard = false) :
    ∃ k o e, finishStatus n st s = { s with kiosk := k, out := o, mons := e } ∧
      mbxOf (finishStatus n st s) n = endedMbx st (mbxOf s n) ∧
      ∀ j, j ≠ n → mbxOf (finishStatus n st s) j = mbxOf s j := by
  obtain ⟨k, o, e, hframe, hself, hother⟩ := finishMbx_done n
    (respHeader (reqByte (mbxOf s n) 0 2) (reqByte (mbxOf s n) 2 2) 0 (reqByte (mbxOf s n) 6 1 % 2) st.code
      (reqByte (mbxOf s n) 8 4) (reqByte (mbxOf s n) 12 2)) s h
  refine ⟨k, o, e, hframe, hself.trans ?_, hother⟩
  have hseq := fun a b c d e f g => respHeader_seq a b c d e f g []
  have hstatus := fun a b c d e f g => respHeader_status a b c d e f g []
  simp only [List.append_nil] at hseq hstatus
  simp only [hseq, hstatus, respHeader_len]
  rfl

theorem kiosk_frame_of_exists {s t : State} (h : ∃ k o e, t = { s with kiosk := k, out := o, mons := e }) :
    t = { s with kiosk := t.kiosk, mons := t.mons, out := t.out } := by
  obtain ⟨k, o, e, rfl⟩ := h
  rfl

/-! ### Cancels (R39) -/

theorem cancelRequest_posted {n : Nat} {s : State} (h : (mbxOf s n).state = .posted) :
    cancelRequest n s = finishStatus n .aborted s := by
  simp [cancelRequest, h]

theorem cancelRequest_running {n : Nat} {s : State} (h : (mbxOf s n).state = .running) :
    cancelRequest n s = setMbx n { mbxOf s n with cancel := true } s := by
  simp [cancelRequest, h]

theorem cancelRequest_free {n : Nat} {s : State} (h : (mbxOf s n).state = .idle ∨ (mbxOf s n).state = .done) :
    cancelRequest n s = s := by
  rcases h with h | h <;> simp [cancelRequest, h]

theorem exec_sysInfo (n : Fin 64) (s : State) :
    exec (.sysInfo n) s = .next (settle (basmos n 0x0100 (layoutIs 0 []) sysInfoH s)) := rfl

/-- Settles O2: a cancel by the state of the mailbox, and a cancelled SYS_INFO through the frame of the commands. -/
theorem cancelEndsRequestOnce : Obligations.CancelEndsRequestOnce := by
  unfold Obligations.CancelEndsRequestOnce
  refine ⟨fun n s hh => ⟨fun hst hdis => ?posted, fun hst => ?running, fun hst => ?free⟩,
    fun n s msg hmsg hrun hlong hcan hop => ?sysInfo⟩
  case posted =>
    obtain ⟨k, o, e, hframe, hself, hother⟩ := finishStatus_done .aborted hdis
    exact ⟨finishStatus n .aborted s, by rw [exec_mbxCancel, mbxCancel_eq hh, cancelRequest_posted hst], hself, hother,
      kiosk_frame_of_exists ⟨k, o, e, hframe⟩⟩
  case running => rw [exec_mbxCancel, mbxCancel_eq hh, cancelRequest_running hst]
  case free => rw [exec_mbxCancel, mbxCancel_eq hh, cancelRequest_free hst]
  case sysInfo => rw [exec_sysInfo, basmos_cancelled hmsg hrun hlong hcan hop]

/-! ### The Lodge takes a request (R36, R43, R44) -/

theorem exec_mbxTake (n : Fin 64) (s : State) : exec (.mbxTake n) s = .next (mbxTake n s) := rfl

theorem exec_kioskHwTimeout (n : Fin 64) (s : State) : exec (.kioskHwTimeout n) s = .next (kioskHwTimeout n s) := rfl

theorem exec_basmosPart (n : Fin 64) (s : State) : exec (.basmosPart n) s = .next (basmosPart n s) := rfl

theorem exec_basmosPartTimeout (n : Fin 64) (s : State) : exec (.basmosPartTimeout n) s = .next (basmosPartTimeout n s) := rfl

/-- The message that a mailbox's last request part completes. -/
def takenMsg (m : Mbx) : BMsg :=
  { opcode := (reqHeader m).opcode
    seq := (reqHeader m).seq
    expert := (reqHeader m).expert
    session := (reqHeader m).session
    payload := ((m.partial_.map (·.payload)).getD []) ++ memGets m.req 16 (reqHeader m).length }

theorem mbxTake_complete {n : Nat} {s : State} (hst : (mbxOf s n).state = .posted) (hready : s.kiosk.lodgeReady = true)
    (hfirst : claimBehind s n = false) (hvalid : headerValid (mbxOf s n) (reqHeader (mbxOf s n)) = true)
    (hsess : (reqHeader (mbxOf s n)).expert = true → sessionAllows (mbxOf s n) (reqHeader (mbxOf s n)) = true)
    (hfetch : fetchesPart (mbxOf s n) (reqHeader (mbxOf s n)) = false) (hmore : (reqHeader (mbxOf s n)).more = false) :
    mbxTake n s = setMbx n { mbxOf s n with
      state := .running, msg := some (takenMsg (mbxOf s n)), partial_ := none, more := [] } s := by
  have hgo : ¬((mbxOf s n).state ≠ .posted ∨ (!s.kiosk.lodgeReady) = true ∨ claimBehind s n = true) := by
    simp [hst, hready, hfirst]
  have hallow : ¬((reqHeader (mbxOf s n)).expert = true ∧
      (!sessionAllows (mbxOf s n) (reqHeader (mbxOf s n))) = true) := fun ⟨he, hn⟩ => by simp [hsess he] at hn
  simp only [mbxTake, if_neg hgo, hvalid, if_neg hallow, hfetch, hmore, Bool.not_true, Bool.false_eq_true, if_false,
    mbxOf_setMbx_self, setMbx_setMbx]
  rfl

/-! ### The hardware timeout (R38) -/

/-- Byte 7 of the copied header is the status. -/
theorem copiedHeader_status (m : Mbx) (st : Status) : byteAt (copiedHeader m st) 7 = BitVec.ofNat 8 st.code := by
  simp [copiedHeader, byteAt, memGets, zeros, leN]

theorem kioskHwTimeout_posted {n : Nat} {s : State} (hst : (mbxOf s n).state = .posted) :
    kioskHwTimeout n s = setMbx n { mbxOf (finishMbx n (copiedHeader (mbxOf s n) .busy) s) n with hwTimeout := true }
      (finishMbx n (copiedHeader (mbxOf s n) .busy) s) := by
  simp [kioskHwTimeout, hst]

/-! ### Parts (R44) -/

/-- The message in progress once the mailbox's request part is added to it. -/
def nextPart (m : Mbx) : BPart :=
  match m.partial_ with
  | none =>
    { opcode := (reqHeader m).opcode, seq := (reqHeader m).seq, next := 1
      payload := memGets m.req 16 (reqHeader m).length }
  | some p => { p with next := p.next + 1, payload := p.payload ++ memGets m.req 16 (reqHeader m).length }

theorem nextPart_payload (m : Mbx) : (nextPart m).payload =
    ((m.partial_.map (·.payload)).getD []) ++ memGets m.req 16 (reqHeader m).length := by
  cases h : m.partial_ <;> simp [nextPart, h]

/-- A mailbox that keeps its request part. -/
def keptPart (m : Mbx) : Mbx := { m with partial_ := some (nextPart m), more := [] }

theorem basmosPart_acked {n : Nat} {s : State} (hst : (mbxOf s n).state = .running) (hack : (mbxOf s n).partAck = true)
    (hcan : (mbxOf s n).cancel = false) :
    basmosPart n s = finishStatus n .success (setMbx n (keptPart (mbxOf s n)) s) := by
  have hgo : ¬((mbxOf s n).state ≠ .running ∨ (!(mbxOf s n).partAck) = true) := by simp [hst, hack]
  have hgoes : ¬(mbxOf s n).cancel = true := by simp [hcan]
  simp only [basmosPart, if_neg hgo, if_neg hgoes]
  rfl

theorem exec_basmosPart_acked (n : Fin 64) (s : State) (hst : (mbxOf s n).state = .running)
    (hack : (mbxOf s n).partAck = true) (hcan : (mbxOf s n).cancel = false) (hdis : (mbxOf s n).discard = false) :
    ∃ t p, exec (.basmosPart n) s = .next t ∧ (mbxOf t n).state = .done ∧ (mbxOf t n).status = 0 ∧
      (mbxOf t n).partial_ = some p ∧
      p.payload = (((mbxOf s n).partial_.map (·.payload)).getD []) ++
        memGets (mbxOf s n).req 16 (reqHeader (mbxOf s n)).length ∧
      (∀ k, k ≠ n.val → mbxOf t k = mbxOf s k) ∧ t = { s with kiosk := t.kiosk, mons := t.mons, out := t.out } := by
  have hkept : mbxOf (setMbx n (keptPart (mbxOf s n)) s) n = keptPart (mbxOf s n) := mbxOf_setMbx_self ..
  obtain ⟨k, o, e, hframe, hself, hother⟩ :=
    finishStatus_done (n := n) (s := setMbx n (keptPart (mbxOf s n)) s) .success (by rw [hkept]; exact hdis)
  rw [hkept] at hself
  refine ⟨_, nextPart (mbxOf s n), by rw [exec_basmosPart, basmosPart_acked hst hack hcan], ?_, ?_, ?_,
    nextPart_payload _, fun j hj => (hother j hj).trans (mbxOf_setMbx_other _ s hj), kiosk_frame_of_exists ⟨k, o, e, hframe⟩⟩
  all_goals rw [hself]; rfl

theorem exec_kioskHwTimeout_posted (n : Fin 64) (s : State) (hst : (mbxOf s n).state = .posted)
    (hdis : (mbxOf s n).discard = false) :
    ∃ t, exec (.kioskHwTimeout n) s = .next t ∧ (mbxOf t n).state = .done ∧ (mbxOf t n).hwTimeout = true ∧
      (mbxOf t n).resp = memPuts [] 0 (fit 448 (copiedHeader (mbxOf s n) .busy)) ∧
      (mbxOf t n).status = BitVec.ofNat 8 Status.busy.code ∧ (mbxOf t n).req = (mbxOf s n).req ∧
      (∀ k, k ≠ n.val → mbxOf t k = mbxOf s k) ∧ t = { s with kiosk := t.kiosk, mons := t.mons, out := t.out } := by
  obtain ⟨k, o, e, hframe, hself, hother⟩ := finishMbx_done n (copiedHeader (mbxOf s n) .busy) s hdis
  generalize hu : finishMbx n (copiedHeader (mbxOf s n) .busy) s = u at hframe hself hother
  have ht : mbxOf (setMbx n { mbxOf u n with hwTimeout := true } u) n = { mbxOf u n with hwTimeout := true } :=
    mbxOf_setMbx_self ..
  refine ⟨setMbx n { mbxOf u n with hwTimeout := true } u, by rw [exec_kioskHwTimeout, kioskHwTimeout_posted hst, hu],
    ?_, ?_, ?_, ?_, ?_, fun j hj => (mbxOf_setMbx_other _ u hj).trans (hother j hj), ?_⟩
  · rw [ht, hself]
  · rw [ht]
  · rw [ht, hself]
  · rw [ht, hself]; exact copiedHeader_status (mbxOf s n) _
  · rw [ht, hself]
  · rw [hframe]; rfl

/-- Settles O3: the complete request, the hardware timeout, the part kept and the part timeout. -/
theorem lodgeTakesRequests : Obligations.LodgeTakesRequests := by
  unfold Obligations.LodgeTakesRequests
  refine ⟨fun n s hst hready hfirst hvalid hsess hfetch hmore => ⟨takenMsg (mbxOf s n), ?take, rfl, rfl, rfl⟩,
    exec_kioskHwTimeout_posted, exec_basmosPart_acked, fun n s hfree => ?partTimeout⟩
  case take => rw [exec_mbxTake, mbxTake_complete hst hready hfirst hvalid hsess hfetch hmore]
  case partTimeout => simp only [exec_basmosPartTimeout, basmosPartTimeout, hfree, Bool.false_eq_true, if_false]

end Sys2Proof.Machine
end

section
/-!
PROOFS. Mailbox 63 over SMBus (R40 to R42), and the books of the Kiosk that expire (R37, R45, R46).
-/
namespace Sys2Proof.Machine

/-! ### The frame of the SMBus commands (R41, R418) -/

/-- A command that no NACK turns away runs with a right PEC, and is counted with a wrong one. -/
theorem smbCommand_served {s : State} {pecOk statusRead : Bool} {f : State → State} (hn : s.ghx.smbNack = false)
    (hs : s.ghx.smbStretch = false) (hh : statusRead = true ∨ (mbxOf s 63).holder ≠ 1) :
    smbCommand pecOk statusRead f s = if pecOk then f s else pecFail s := by
  have hbus : ¬(s.ghx.smbNack = true ∨ s.ghx.smbStretch = true) := by simp [hn, hs]
  have hport : ¬((!statusRead) = true ∧ (mbxOf s 63).holder = 1) := by
    rintro ⟨hcmd, hone⟩
    rcases hh with hread | hfree
    · simp [hread] at hcmd
    · exact hfree hone
  cases pecOk <;>
    simp only [smbCommand, if_neg hbus, if_neg hport, Bool.not_true, Bool.not_false, Bool.false_eq_true, if_true, if_false]

theorem exec_mb63Write (pecOk : Bool) (off : Nat) (data : Bytes) (s : State) :
    exec (.mb63Write pecOk off data) s = .next (smbCommand pecOk false (mb63Write off data) s) := rfl

theorem exec_mb63DoorbellRing (pecOk : Bool) (s : State) :
    exec (.mb63DoorbellRing pecOk) s = .next (smbCommand pecOk false mb63Ring s) := rfl

theorem exec_mb63DoorbellCancel (pecOk : Bool) (s : State) :
    exec (.mb63DoorbellCancel pecOk) s = .next (smbCommand pecOk false (cancelRequest 63) s) := rfl

theorem exec_mb63DoorbellAck (pecOk : Bool) (s : State) :
    exec (.mb63DoorbellAck pecOk) s = .next (smbCommand pecOk false (ackResponse 63) s) := rfl

theorem exec_mb63StatusRead (pecOk : Bool) (s : State) :
    exec (.mb63StatusRead pecOk) s = .next (smbCommand pecOk true mb63StatusRead s) := rfl

theorem exec_mb63ReadOffset (pecOk : Bool) (off : Nat) (s : State) :
    exec (.mb63ReadOffset pecOk off) s = .next (smbCommand pecOk false (mb63ReadOffset off) s) := rfl

theorem exec_mb63Read (pecOk : Bool) (count : Nat) (s : State) :
    exec (.mb63Read pecOk count) s = .next (smbCommand pecOk false (mb63Read count) s) := rfl

/-! ### The commands with a right PEC (Table 2.9) -/

theorem mb63Write_placed {off : Nat} {data : Bytes} {s : State} (hpos : 0 < data.length) (hlen : data.length ≤ 240)
    (hend : off + data.length ≤ 512) (hfree : mbxBusy (mbxOf s 63) = false)
    (hh : (mbxOf s 63).holder = 0 ∨ (mbxOf s 63).holder = 2) : mb63Write off data s =
      setMbx 63 { mbxOf s 63 with req := memPuts (mbxOf s 63).req off data, holder := 2 } s := by
  have hsize : ¬(data.isEmpty = true ∨ 240 < data.length) := by
    rw [List.isEmpty_iff_length_eq_zero]
    omega
  have hholder : (if (mbxOf s 63).holder = 0 then 2 else (mbxOf s 63).holder) = 2 := by
    rcases hh with hh | hh <;> simp [hh]
  simp only [mb63Write, if_neg hsize, if_neg (Nat.not_lt.2 hend), hfree, hholder, Bool.false_eq_true, if_false]

theorem mb63Ring_free {s : State} (hfree : mbxBusy (mbxOf s 63) = false) : mb63Ring s = postRequest 63 .smbus s := by
  simp only [mb63Ring, hfree, Bool.false_eq_true, if_false]

/-- A read that stays inside the response area gives every byte asked for. -/
theorem mb63Read_inside {count : Nat} {s : State} (hcount : count ≤ 240) (hend : s.kiosk.smbOff.toNat + count ≤ 448) :
    mb63Read count s = { s with
      out := s.out ++ [.smbData (memGets (mbxOf s 63).resp s.kiosk.smbOff.toNat count)]
      kiosk := { s.kiosk with smbOff := BitVec.ofNat 16 (s.kiosk.smbOff.toNat + count) } } := by
  have hk : min (min count 240) (448 - s.kiosk.smbOff.toNat) = count := by omega
  simp only [mb63Read, hk, Nat.lt_irrefl, if_false]
  rfl

/-- Settles O4: the frame of the SMBus commands, and each command where nothing is NACKed. -/
theorem smbusMailboxCommands : Obligations.SmbusMailboxCommands := by
  unfold Obligations.SmbusMailboxCommands
  refine ⟨fun s hn hs hh => ?_, fun s hn hs => ⟨?statusRead, ?statusPec⟩, fun s => rfl, fun s => rfl⟩
  case statusRead => rw [exec_mb63StatusRead, smbCommand_served hn hs (.inl rfl), if_pos rfl]; rfl
  case statusPec => rw [exec_mb63StatusRead, smbCommand_served hn hs (.inl rfl)]; rfl
  have hserved : ∀ (pecOk : Bool) (f : State → State), smbCommand pecOk false f s = if pecOk then f s else pecFail s :=
    fun pecOk f => smbCommand_served hn hs (.inr (by omega))
  have hpec : ∀ f : State → State, smbCommand false false f s = pecFail s := fun f => hserved false f
  refine ⟨fun off data hpos hlen hend hfree => ?write, fun hfree => ⟨postRequest 63 .smbus s, ?ring,
    mbxOf_postRequest_self .., fun k hk => mbxOf_postRequest_other _ s hk, postRequest_frame ..⟩, fun hrun => ?cancel,
    fun hdone => ?ack, fun off => ?readOffset, fun count hcount hend => ?read, fun off count data => ?wrongPec⟩
  case write => rw [exec_mb63Write, hserved, if_pos rfl, mb63Write_placed hpos hlen hend hfree hh]
  case ring => rw [exec_mb63DoorbellRing, hserved, if_pos rfl, mb63Ring_free hfree]
  case cancel => rw [exec_mb63DoorbellCancel, hserved, if_pos rfl, cancelRequest_running hrun]
  case ack => rw [exec_mb63DoorbellAck, hserved, if_pos rfl, ackResponse_done_smbus hdone]
  case readOffset => rw [exec_mb63ReadOffset, hserved, if_pos rfl, mb63ReadOffset]
  case read => rw [exec_mb63Read, hserved, if_pos rfl, mb63Read_inside hcount hend]
  case wrongPec =>
    simp only [exec_mb63Write, exec_mb63DoorbellRing, exec_mb63DoorbellCancel, exec_mb63DoorbellAck, exec_mb63ReadOffset,
      exec_mb63Read, hpec, and_self]

/-! ### What expires (R37, R45, R46) -/

theorem exec_jobResultExpiry (job : Nat) (s : State) : exec (.jobResultExpiry job) s = .next (jobResultExpiry job s) := rfl

theorem exec_nonceExpiry (k : Nat) (s : State) : exec (.nonceExpiry k) s = .next (nonceExpiry k s) := rfl

theorem exec_sessionLockoutEnd (s : State) : exec .sessionLockoutEnd s = .next (sessionLockoutEnd s) := rfl

theorem mem_tfilter {α : Type} {p : Nat → α → Bool} {t : Tab α} {k : Nat} {v : α} :
    (k, v) ∈ tfilter p t ↔ (k, v) ∈ t ∧ p k v = true := List.mem_filter

/-- The jobs left after an expiry: all but the finished ones of that number. -/
theorem mem_jobs_jobResultExpiry {job k : Nat} {j : Job} {s : State} : (k, j) ∈ (jobResultExpiry job s).kiosk.jobs ↔
    (k, j) ∈ s.kiosk.jobs ∧ ¬(jobNo k = job ∧ j.finished = true) := by
  simp [jobResultExpiry, mem_tfilter, imp_iff_not_or]

/-- Settles O5: the finished jobs are filtered, the nonce is removed from its table, and the lockout's books are emptied. -/
theorem kioskBooksExpire : Obligations.KioskBooksExpire := by
  unfold Obligations.KioskBooksExpire
  exact ⟨fun job s => ⟨jobResultExpiry job s, exec_jobResultExpiry job s, fun _ _ => mem_jobs_jobResultExpiry, rfl⟩,
    fun k s hw => ⟨nonceExpiry k s, exec_nonceExpiry k s, tget_terase_self k hw, fun _ hj => tget_terase_other hj, rfl⟩,
    exec_sessionLockoutEnd⟩

end Sys2Proof.Machine
end

section
/-!
PROOFS. The reports of the head's registers and counters (R49, R363, R381, R396, R431, R451, R453, Table 4.10).
-/
namespace Sys2Proof.Machine

/-! ### Lengths of the parts of a report, for `simp` -/

@[simp] theorem length_leN (n v : Nat) : (leN n v).length = n := leN_length n v

@[simp] theorem length_zeros (n : Nat) : (zeros n).length = n := zeros_length n

@[simp] theorem length_fit (n : Nat) (bs : Bytes) : (fit n bs).length = n := bslice_length bs 0 n

@[simp] theorem length_deviceSerial : deviceSerial.length = 16 := by simp [deviceSerial]

@[simp] theorem length_tierRange (l : List EvRec) : (tierRange l).length = 8 := by simp [tierRange]

@[simp] theorem length_dramHead (s : State) : (dramHead s).length = 32 := by simp [dramHead]

/-- A field behind the first byte. -/
theorem fieldLE_cons_succ (x : Byte) (b : Bytes) (off n : Nat) : fieldLE (x :: b) (off + 1) n = fieldLE b off n :=
  fieldLE_append_right (a := [x]) (Nat.le_add_left 1 off)

theorem layoutIs_nil {n : Nat} {p : Bytes} (h : p.length = n) : layoutIs n [] p = true := by simp [layoutIs, h]

/-! ### The commands -/

theorem exec_sysHealth (n : Fin 64) (s : State) :
    exec (.sysHealth n) s = .next (settle (basmos n 0x0101 (layoutIs 0 []) sysHealthH s)) := rfl

theorem exec_pwrStatus (n : Fin 64) (s : State) :
    exec (.pwrStatus n) s = .next (settle (basmos n 0x0302 (layoutIs 0 []) powerStatusH s)) := rfl

theorem exec_evtSummary (n : Fin 64) (s : State) :
    exec (.evtSummary n) s = .next (basmos n 0x0901 (layoutIs 0 []) evtSummaryH s) := rfl

theorem exec_cacheStatus (n : Fin 64) (s : State) :
    exec (.cacheStatus n) s = .next (basmos n 0x0700 (layoutIs 0 []) cacheStatusH s) := rfl

theorem exec_pairStatus (n : Fin 64) (s : State) :
    exec (.pairStatus n) s = .next (settle (basmos n 0x0B00 (layoutIs 0 []) pairStatusH s)) := rfl

theorem exec_dramStatus (n : Fin 64) (s : State) :
    exec (.dramStatus n) s = .next (basmos n 0x0600 (layoutIs 1 []) dramStatusH s) := rfl

theorem exec_keySlotInfo (n : Fin 64) (s : State) :
    exec (.keySlotInfo n) s = .next (basmos n 0x0810 (layoutIs 4 []) keySlotInfoH s) := rfl

/-- SYS_INFO (R49): the fields stand behind the 16-byte serial number. -/
theorem exec_sysInfo_report (n : Fin 64) (s : State) (msg : BMsg) (h : Taken s n 0x0100 [] msg) :
    ∃ q, exec (.sysInfo n) s = .next (settle (answer n msg (.ok q) s)) ∧ q.length = 64 ∧ bslice q 0 16 = deviceSerial ∧
      fieldLE q 16 1 = 1 ∧ fieldLE q 18 2 = 1 ∧ fieldLE q 24 1 = s.sec.running % 256 ∧
      fieldLE q 26 4 = optime s % 2 ^ 32 ∧ fieldLE q 30 4 = s.gh.pwrCycle % 2 ^ 32 := by
  refine ⟨_, by rw [exec_sysInfo, basmos_now h rfl rfl], ?_, ?_, ?_⟩
  · simp
  · simp [List.append_assoc, bslice_append_left, bslice_self]
  · simp [List.append_assoc, fieldLE_append_right, fieldLE_leN_append, fieldLE_cons_succ]

/-- SYS_HEALTH (R451). -/
theorem exec_sysHealth_report (n : Fin 64) (s : State) (msg : BMsg) (h : Taken s n 0x0101 [] msg) :
    ∃ q, exec (.sysHealth n) s = .next (settle (answer n msg (.ok q) s)) ∧ q.length = 64 ∧
      fieldLE q 24 4 = s.evt.tests % 2 ^ 32 ∧ fieldLE q 28 2 = s.evt.transient % 2 ^ 16 ∧
      fieldLE q 30 2 = s.evt.lasting % 2 ^ 16 ∧ fieldLE q 34 2 = s.evt.rowsSpared % 2 ^ 16 := by
  refine ⟨_, by rw [exec_sysHealth, basmos_now h rfl rfl], ?_, ?_⟩
  · simp [List.range_succ]
  · simp [List.range_succ, List.append_assoc, fieldLE_append_right, fieldLE_leN_append]

/-- PWR_STATUS (R431). -/
theorem exec_pwrStatus_report (n : Fin 64) (s : State) (msg : BMsg) (h : Taken s n 0x0302 [] msg) :
    ∃ q, exec (.pwrStatus n) s = .next (settle (answer n msg (.ok q) s)) ∧ q.length = 48 ∧
      fieldLE q 0 1 = s.gh.state.code % 256 ∧ fieldLE q 1 1 = s.gh.target % 256 ∧ fieldLE q 20 4 = s.gh.hours % 2 ^ 32 ∧
      fieldLE q 24 2 = s.gh.seconds % 2 ^ 16 ∧ fieldLE q 28 4 = s.gh.pwrCycle % 2 ^ 32 := by
  refine ⟨_, by rw [exec_pwrStatus, basmos_now h rfl rfl], ?_, ?_⟩
  · simp
  · simp [List.append_assoc, fieldLE_append_right, fieldLE_leN_append]

/-- EVT_SUMMARY (R453). -/
theorem exec_evtSummary_report (n : Fin 64) (s : State) (msg : BMsg) (h : Taken s n 0x0901 [] msg) :
    ∃ q, exec (.evtSummary n) s = .next (answer n msg (.ok q) s) ∧ q.length = 64 ∧
      fieldLE q 0 4 = s.evt.tailSeq.toNat ∧ fieldLE q 4 4 = s.evt.headSeq.toNat ∧
      fieldLE q 24 4 = s.evt.lost % 2 ^ 32 ∧ fieldLE q 28 4 = s.evt.mergeCnt.toNat := by
  refine ⟨_, by rw [exec_evtSummary, basmos_now h rfl rfl], ?_, ?_⟩
  · simp [List.range_succ]
  · simpa [List.append_assoc, fieldLE_append_right, fieldLE_leN_append] using
      And.intro s.evt.tailSeq.isLt (And.intro s.evt.headSeq.isLt s.evt.mergeCnt.isLt)

/-- CACHE_STATUS (R381). -/
theorem exec_cacheStatus_report (n : Fin 64) (s : State) (msg : BMsg) (h : Taken s n 0x0700 [] msg) :
    ∃ q, exec (.cacheStatus n) s = .next (answer n msg (.ok q) s) ∧ q.length = 32 ∧
      fieldLE q 0 2 = s.cns.powered.toNat ∧ fieldLE q 4 8 = s.cns.hits % 2 ^ 64 ∧ fieldLE q 12 8 = s.cns.misses % 2 ^ 64 := by
  refine ⟨_, by rw [exec_cacheStatus, basmos_now h rfl rfl], ?_, ?_⟩
  · simp
  · simpa [List.append_assoc, fieldLE_append_right, fieldLE_leN_append] using s.cns.powered.isLt

/-- PAIR_STATUS (Table 4.10). -/
theorem exec_pairStatus_report (n : Fin 64) (s : State) (msg : BMsg) (h : Taken s n 0x0B00 [] msg) :
    ∃ q, exec (.pairStatus n) s = .next (settle (answer n msg (.ok q) s)) ∧ q.length = 32 ∧
      (s.pair.paired = false → fieldLE q 0 1 = 0xFF) ∧ fieldLE q 1 1 = s.pair.state % 256 ∧
      fieldLE q 20 4 = s.jrn.ownGib % 2 ^ 32 ∧ fieldLE q 24 4 = s.gh.epochMs.toNat := by
  have hms : s.gh.epochMs.toNat < 2 ^ 32 := Nat.lt_trans s.gh.epochMs.isLt (by decide)
  refine ⟨_, by rw [exec_pairStatus, basmos_now h rfl rfl], ?_, fun hp => ?_, ?_⟩
  · simp
  · simp [List.append_assoc, fieldLE_leN_append, hp]
  · simpa [List.append_assoc, fieldLE_append_right, fieldLE_leN_append] using hms

theorem dramHead_fields (s : State) : fieldLE (dramHead s) 0 1 = s.dram.rate % 256 ∧
    fieldLE (dramHead s) 12 2 = s.dram.mainGib % 2 ^ 16 ∧ fieldLE (dramHead s) 14 2 = s.dram.keepGib % 2 ^ 16 := by
  simp [dramHead, List.append_assoc, fieldLE_append_right, fieldLE_leN_append]

/-- Behind the head's own bytes, DRAM_STATUS of a channel begins with the states of its ranks. -/
theorem dramStatusH_channel {ch : Nat} (p : Bytes) (s : State) (hp : fieldLE p 0 1 = ch) (hch : ch < 24) :
    ∃ q, dramStatusH p s = (.now (.ok (dramHead s ++ q)), s) ∧
      fieldLE q 0 1 = rankByte (dmcOf s ch) 0 % 256 ∧ fieldLE q 1 1 = rankByte (dmcOf s ch) 1 % 256 := by
  have hall : ¬ch = 255 := by omega
  have hin : ¬24 ≤ ch := by omega
  simp only [dramStatusH, hp, hall, hin, if_false]
  refine ⟨_, by simp only [List.append_assoc]; rfl, ?_⟩
  simp [List.range_succ, fieldLE_append_right, fieldLE_leN_append]

/-- DRAM_STATUS (R363). -/
theorem exec_dramStatus_report (n : Fin 64) (s : State) (ch : Fin 24) (msg : BMsg)
    (h : Taken s n 0x0600 [BitVec.ofNat 8 ch] msg) :
    ∃ q, exec (.dramStatus n) s = .next (answer n msg (.ok q) s) ∧ fieldLE q 0 1 = s.dram.rate % 256 ∧
      fieldLE q 12 2 = s.dram.mainGib % 2 ^ 16 ∧ fieldLE q 14 2 = s.dram.keepGib % 2 ^ 16 ∧
      fieldLE q 32 1 = rankByte (dmcOf s ch) 0 % 256 ∧ fieldLE q 33 1 = rankByte (dmcOf s ch) 1 % 256 := by
  have hch : fieldLE [BitVec.ofNat 8 ch] 0 1 = ch := by
    simp [fieldLE, bslice, leVal]
    omega
  obtain ⟨q, hq, hrank0, hrank1⟩ := dramStatusH_channel _ s hch ch.isLt
  obtain ⟨hrate, hmain, hkeep⟩ := dramHead_fields s
  refine ⟨dramHead s ++ q, by rw [exec_dramStatus, basmos_now h rfl hq], ?_, ?_, ?_, ?_, ?_⟩
  · rw [fieldLE_append_left (by simp), hrate]
  · rw [fieldLE_append_left (by simp), hmain]
  · rw [fieldLE_append_left (by simp), hkeep]
  · rw [fieldLE_append_right (by simp), length_dramHead, hrank0]
  · rw [fieldLE_append_right (by simp), length_dramHead, hrank1]

/-- KEY_SLOT_INFO (R396) of slots that exist. -/
theorem keySlotInfoH_report {p : Bytes} {s : State} (hpos : 0 < fieldLE p 2 2) (hmax : fieldLE p 2 2 ≤ 32)
    (hend : fieldLE p 0 2 + fieldLE p 2 2 ≤ 4096) : keySlotInfoH p s = (.now (.ok (leN 2 (fieldLE p 2 2) ++ zeros 6 ++
      ((List.range (fieldLE p 2 2)).map (fun i => slotEntry s (fieldLE p 0 2 + i))).flatten)), s) :=
  if_neg (by omega)

/-- Settles O6: a report for each command, its fields read from the layout. -/
theorem statusReportsOfTheHead : Obligations.StatusReportsOfTheHead := by
  unfold Obligations.StatusReportsOfTheHead
  refine ⟨exec_sysInfo_report, exec_sysHealth_report, exec_pwrStatus_report, exec_evtSummary_report, exec_cacheStatus_report,
    exec_pairStatus_report, exec_dramStatus_report, fun n s p msg h hlen hpos hmax hend => ?_⟩
  rw [exec_keySlotInfo, basmos_now h (layoutIs_nil hlen) (keySlotInfoH_report hpos hmax hend)]

end Sys2Proof.Machine
end

section
/-!
PROOFS. The lists of the head's tables and the reports of jobs (R37, R49, R55, R147, R175, R243, R279, R334, R336, R452).
-/
namespace Sys2Proof.Machine

theorem exec_jobStatus (n : Fin 64) (s : State) :
    exec (.jobStatus n) s = .next (settle (basmos n 0x0102 (layoutIs 4 []) jobStatusH s)) := rfl

theorem exec_claimList (n : Fin 64) (s : State) :
    exec (.claimList n) s = .next (settle (basmos n 0x0120 (layoutIs 4 [(1, 1)]) claimListH s)) := rfl

theorem exec_volList (n : Fin 64) (s : State) :
    exec (.volList n) s = .next (basmos n 0x0203 (layoutIs 4 []) volListH s) := rfl

theorem exec_shelfStatus (n : Fin 64) (s : State) :
    exec (.shelfStatus n) s = .next (basmos n 0x0401 (layoutIs 4 []) shelfStatusH s) := rfl

theorem exec_mediaStatus (n : Fin 64) (s : State) :
    exec (.mediaStatus n) s = .next (basmos n 0x0500 (layoutIs 4 []) mediaStatusH s) := rfl

theorem exec_qpStatus (n : Fin 64) (s : State) :
    exec (.qpStatus n) s = .next (basmos n 0x0A01 (layoutIs 8 []) qpStatusH s) := rfl

theorem exec_snapList (n : Fin 64) (s : State) :
    exec (.snapList n) s = .next (basmos n 0x0C02 (layoutIs 6 []) snapListH s) := rfl

theorem exec_replStatus (n : Fin 64) (s : State) :
    exec (.replStatus n) s = .next (basmos n 0x0C04 (layoutIs 2 []) replStatusH s) := rfl

theorem exec_evtRead (n : Fin 64) (s : State) :
    exec (.evtRead n) s = .next (basmos n 0x0900 (layoutIs 12 [(7, 1), (10, 2)]) evtReadH s) := rfl

/-! ### Jobs (R37, R49) -/

/-- A running job is reported with its number alone, and kept. -/
theorem jobStatusH_running {p : Bytes} {s : State} {k : Nat} {j : Job}
    (hj : s.kiosk.jobs.find? (fun e => decide (jobNo e.1 = fieldLE p 0 4)) = some (k, j)) (hf : j.finished = false) :
    ∃ q, jobStatusH p s = (.now (.ok q), s) ∧ q.length = 12 ∧ fieldLE q 0 4 = jobNo k % 2 ^ 32 ∧ fieldLE q 4 1 = 0 := by
  simp only [jobStatusH, hj, hf, Bool.false_eq_true, if_false]
  refine ⟨_, rfl, ?_, ?_⟩
  · simp
  · simp [fieldLE_append_right, fieldLE_leN_append, b2n]

/-- A finished job is reported with its status and result, and forgotten. -/
theorem jobStatusH_finished {p : Bytes} {s : State} {k : Nat} {j : Job}
    (hj : s.kiosk.jobs.find? (fun e => decide (jobNo e.1 = fieldLE p 0 4)) = some (k, j)) (hf : j.finished = true) :
    ∃ q, jobStatusH p s = (.now (.ok q), { s with kiosk := { s.kiosk with jobs := terase s.kiosk.jobs k } }) ∧
      fieldLE q 0 4 = jobNo k % 2 ^ 32 ∧ fieldLE q 4 1 = 1 ∧ fieldLE q 5 1 = j.status.code % 256 ∧
      q.drop 12 = j.result := by
  simp only [jobStatusH, hj, hf, if_true]
  refine ⟨_, rfl, ?_, ?_, ?_, List.drop_left' (by simp)⟩
  all_goals simp [List.append_assoc, fieldLE_append_right, fieldLE_leN_append, b2n]

/-! ### Lists -/

/-- The count of a page is that of the entries left, up to the page's size. -/
theorem fieldLE_page_count {α : Type} (k : Nat) (hits : List α) (b : Bytes) (hk : k < 2 ^ 16) :
    fieldLE (leN 2 (hits.take k).length ++ b) 0 2 = min k hits.length := by
  rw [fieldLE_leN_append, List.length_take]
  exact Nat.mod_eq_of_lt (Nat.lt_of_le_of_lt (Nat.min_le_left ..) hk)

/-- CLAIM_LIST (R55) from class and index on; class 0 begins at class 1. -/
theorem claimListH_report {p : Bytes} {s : State} (hc : fieldLE p 0 1 ≤ 7) :
    ∃ q hits, claimListH p s = (.now (.ok q), s) ∧
      hits = (allClaims s).filter (fun e => decide (claimKey (max (fieldLE p 0 1) 1) (fieldLE p 2 2) ≤ e.1) &&
        (decide (fieldLE p 0 1 = 0) || decide (e.1 / 65536 = fieldLE p 0 1))) ∧
      fieldLE q 0 2 = min 53 hits.length := by
  simp only [claimListH, if_neg (Nat.not_lt.2 hc)]
  refine ⟨_, _, rfl, rfl, ?_⟩
  simp only [List.append_assoc]
  exact fieldLE_page_count 53 _ _ (by decide)

/-- VOL_LIST (R147). -/
theorem volListH_report (p : Bytes) (s : State) : ∃ q, volListH p s = (.now (.ok q), s) ∧
    fieldLE q 0 2 = min 17 (s.pair.arr.volumes.filter (fun e => decide (fieldLE p 0 4 ≤ e.1))).length := by
  refine ⟨_, rfl, ?_⟩
  simp only [List.append_assoc]
  exact fieldLE_page_count 17 _ _ (by decide)

/-- SNAP_LIST (R334) of a volume that lives. -/
theorem snapListH_report {p : Bytes} {s : State} (hv : fieldLE p 0 4 < 65536) (hl : volLives s (fieldLE p 0 4) = true) :
    ∃ q, snapListH p s = (.now (.ok q), s) ∧ fieldLE q 0 2 = min 17 (s.rep.snaps.filter
      (fun e => decide (e.1 / 8192 = fieldLE p 0 4 ∧ fieldLE p 4 2 ≤ e.1 % 8192))).length := by
  have hgo : ¬(65536 ≤ fieldLE p 0 4 ∨ (!volLives s (fieldLE p 0 4)) = true) := by simp [hl, hv]
  simp only [snapListH, if_neg hgo]
  refine ⟨_, rfl, ?_⟩
  simp only [List.append_assoc]
  exact fieldLE_page_count 17 _ _ (by decide)

/-- EVT_READ (R452): the records that fit stand behind 8 bytes. -/
theorem evtReadH_report {p : Bytes} {s : State} (hn : 0 < fieldLE p 4 1) (ht : fieldLE p 6 1 ≤ 2) :
    ∃ q got, evtReadH p s = (.now (.ok q), s) ∧ fieldLE q 0 1 = got.length % 256 ∧
      got = takeRecs (fieldLE p 4 1) 424 ((tierRecs s.evt (fieldLE p 6 1)).filter (fun r =>
        decide (ahead 32 (fieldLE p 0 4) r.seq < 2 ^ 31) && decide (fieldLE p 5 1 ≤ r.cls) &&
          (decide (fieldLE p 8 2 = 0) || decide (fieldLE p 8 2 = r.typ)))) ∧
      q.drop 8 = got.foldl (fun b r => b ++ evBytes r) [] := by
  have hgo : ¬(fieldLE p 4 1 = 0 ∨ 2 < fieldLE p 6 1) := by omega
  simp only [evtReadH, if_neg hgo]
  refine ⟨_, _, rfl, ?_, rfl, List.drop_left' (by simp)⟩
  simp only [List.append_assoc]
  exact fieldLE_leN_append ..

/-! ### One entry -/

/-- A shelf's number in a payload reads back. -/
theorem fieldLE_shelf (g : Fin 32) : fieldLE (leN 4 g) 0 4 = g := by
  rw [fieldLE_leN]
  omega

/-- SHELF_STATUS (R243) of one shelf. -/
theorem shelfStatusH_one (g : Fin 32) (s : State) : shelfStatusH (leN 4 g) s =
    (.now (.ok (leN 2 1 ++ zeros 2 ++ leN 4 (share s) ++ shelfEntry s g)), s) := by
  have hgo : ¬(32 ≤ (g : Nat) ∧ (g : Nat) ≠ 0xFFFFFFFF) := by omega
  simp [shelfStatusH, fieldLE_shelf, if_neg hgo]

theorem sumBy_singleton {α : Type} (f : α → Nat) (a : α) : sumBy f [a] = f a := Nat.zero_add _

/-- MEDIA_STATUS (R279) of one shelf. -/
theorem mediaStatusH_one (g : Fin 32) (s : State) : ∃ q, mediaStatusH (leN 4 g) s = (.now (.ok q), s) ∧ q.length = 64 ∧
    fieldLE q 0 8 = freeGrains s g % 2 ^ 64 ∧ fieldLE q 8 8 = reclaimGrains s g % 2 ^ 64 ∧
    fieldLE q 16 8 = capGrains s g % 2 ^ 64 ∧ fieldLE q 24 8 = reserveShare s g % 2 ^ 64 := by
  have hgo : ¬(32 ≤ (g : Nat) ∧ (g : Nat) ≠ 0xFFFFFFFF) := by omega
  simp only [mediaStatusH, fieldLE_shelf, if_neg hgo, g.isLt, if_true]
  refine ⟨_, rfl, ?_, ?_⟩
  · simp
  · simp [List.append_assoc, fieldLE_append_right, fieldLE_leN_append, sumBy_singleton]

/-- QP_STATUS (R175) of a queue that a queue pair carries. -/
theorem qpStatusH_report {p : Bytes} {s : State} {c : Nat} (hc : connOf s (fieldLE p 0 8) = some c) :
    ∃ q, qpStatusH p s = (.now (.ok q), s) ∧ q.length = 48 ∧
      fieldLE q 0 1 = (qpOf s c).st.code % 256 ∧ fieldLE q 2 2 = (qpOf s c).pd % 2 ^ 16 ∧ fieldLE q 4 4 = c % 2 ^ 32 := by
  simp only [qpStatusH, hc]
  refine ⟨_, rfl, ?_, ?_⟩
  · simp
  · simp [List.append_assoc, fieldLE_append_right, fieldLE_leN_append]

theorem b2n_mod (b : Bool) : b2n b % 256 = b2n b := by cases b <;> rfl

/-- REPL_STATUS (R336) of a relationship of the array record. -/
theorem replStatusH_report {p : Bytes} {s : State} {r : ReplRec} (hr : tget s.pair.arr.rels (fieldLE p 0 2) = some r) :
    ∃ q, replStatusH p s = (.now (.ok q), s) ∧ q.length = 48 ∧ fieldLE q 0 1 = b2n (!r.source) ∧
      fieldLE q 4 4 = (relOf s (fieldLE p 0 2)).durable % 2 ^ 32 ∧
      fieldLE q 8 8 = (relOf s (fieldLE p 0 2)).applied % 2 ^ 64 := by
  simp only [replStatusH, hr]
  refine ⟨_, rfl, ?_, ?_⟩
  · simp
  · simp [List.append_assoc, fieldLE_append_right, fieldLE_leN_append, b2n_mod]

/-- Settles O7: each list and report through its handler. -/
theorem listsAndJobReports : Obligations.ListsAndJobReports := by
  unfold Obligations.ListsAndJobReports
  refine ⟨fun n s p msg k j h hlen hj => ⟨fun hf => ?running, fun hf => ?finished⟩, fun n s p msg h hl hc => ?claims,
    fun n s p msg h hlen => ?volumes, fun n s g msg h => ?shelf, fun n s g msg h => ?media,
    fun n s p msg c h hlen hc => ?queuePair, fun n s p msg h hlen hv hlive => ?snapshots,
    fun n s p msg r h hlen hr => ?relationship, fun n s p msg h hl hn ht => ?events⟩
  case running =>
    obtain ⟨q, hq, hfields⟩ := jobStatusH_running hj hf
    exact ⟨q, by rw [exec_jobStatus, basmos_now h (layoutIs_nil hlen) hq], hfields⟩
  case finished =>
    obtain ⟨q, hq, hfields⟩ := jobStatusH_finished hj hf
    exact ⟨q, by rw [exec_jobStatus, basmos_now h (layoutIs_nil hlen) hq], hfields⟩
  case claims =>
    obtain ⟨q, hits, hq, hfields⟩ := claimListH_report (s := s) hc
    exact ⟨q, hits, by rw [exec_claimList, basmos_now h hl hq], hfields⟩
  case volumes =>
    obtain ⟨q, hq, hcount⟩ := volListH_report p s
    exact ⟨q, by rw [exec_volList, basmos_now h (layoutIs_nil hlen) hq], hcount⟩
  case shelf => rw [exec_shelfStatus, basmos_now h (layoutIs_nil (by simp)) (shelfStatusH_one g s)]
  case media =>
    obtain ⟨q, hq, hfields⟩ := mediaStatusH_one g s
    exact ⟨q, by rw [exec_mediaStatus, basmos_now h (layoutIs_nil (by simp)) hq], hfields⟩
  case queuePair =>
    obtain ⟨q, hq, hfields⟩ := qpStatusH_report hc
    exact ⟨q, by rw [exec_qpStatus, basmos_now h (layoutIs_nil hlen) hq], hfields⟩
  case snapshots =>
    obtain ⟨q, hq, hcount⟩ := snapListH_report hv hlive
    exact ⟨q, by rw [exec_snapList, basmos_now h (layoutIs_nil hlen) hq], hcount⟩
  case relationship =>
    obtain ⟨q, hq, hfields⟩ := replStatusH_report hr
    exact ⟨q, by rw [exec_replStatus, basmos_now h (layoutIs_nil hlen) hq], hfields⟩
  case events =>
    obtain ⟨q, got, hq, hfields⟩ := evtReadH_report (s := s) hn ht
    exact ⟨q, got, by rw [exec_evtRead, basmos_now h hl hq], hfields⟩

end Sys2Proof.Machine
end

section
/-!
PROOFS. The accesses of the expert register window (R51).
-/
namespace Sys2Proof.Machine

theorem exec_regRead (n : Fin 64) (s : State) :
    exec (.regRead n) s = .next (settle (basmos n 0x0F00 (layoutIs 6 []) regReadH s)) := rfl

theorem exec_regWrite (n : Fin 64) (s : State) :
    exec (.regWrite n) s = .next (settle (basmos n 0x0F01 regWriteLayout regWriteH s)) := rfl

theorem exec_regModify (n : Fin 64) (s : State) :
    exec (.regModify n) s = .next (settle (basmos n 0x0F02 (layoutIs 12 []) regModifyH s)) := rfl

theorem wordAddrs_one (a : Nat) : wordAddrs a 1 = [a] := rfl

/-- The words at these addresses, read in order, and the state after their read effects. -/
def readWords (addrs : List Nat) (s : State) : Bytes × State :=
  addrs.foldl (fun acc a => (acc.1 ++ leN 4 ((regVal 2 a acc.2).getD 0).toNat, regReadEffect a acc.2)) ([], s)

theorem readWords_one (a : Nat) (s : State) :
    readWords [a] s = (leN 4 ((regVal 2 a s).getD 0).toNat, regReadEffect a s) := rfl

/-- An access whose window check passes reads its words. -/
theorem regReadH_reads {p : Bytes} {s : State} (hc : countOk (fieldLE p 4 2) = true)
    (hw : windowRefusal (wordAddrs (fieldLE p 0 4) (fieldLE p 4 2)) false s = none) :
    regReadH p s = (.now (.ok (readWords (wordAddrs (fieldLE p 0 4) (fieldLE p 4 2)) s).1),
      (readWords (wordAddrs (fieldLE p 0 4) (fieldLE p 4 2)) s).2) := by
  simp only [regReadH, hc, hw, Bool.not_true, Bool.false_eq_true, if_false]
  rfl

theorem regWriteH_writes {p : Bytes} {s : State} (hc : countOk (fieldLE p 4 2) = true)
    (hw : windowRefusal (wordAddrs (fieldLE p 0 4) (fieldLE p 4 2)) true s = none) :
    regWriteH p s = (.now .ok, (List.range (fieldLE p 4 2)).foldl (fun s i =>
      regPoke 2 (fieldLE p 0 4 + 4 * i) (BitVec.ofNat 32 (fieldLE p (6 + 4 * i) 4)) s) s) := by
  simp only [regWriteH, hc, hw, Bool.not_true, Bool.false_eq_true, if_false]

/-- An address that is no register refuses the whole access. -/
theorem windowRefusal_unmapped {a : Nat} {s : State} (writes : Bool) (h : regVal 2 a s = none) :
    windowRefusal [a] writes s = some .invalidField := by
  simp [windowRefusal, h]

theorem regWriteH_unmapped {p : Bytes} {s : State} (hone : fieldLE p 4 2 = 1) (h : regVal 2 (fieldLE p 0 4) s = none) :
    regWriteH p s = (.now (.fail .invalidField), s) := by
  have hc : countOk 1 = true := rfl
  have hst : ¬Status.invalidField = .denied := by decide
  simp only [regWriteH, hone, wordAddrs_one, hc, windowRefusal_unmapped true h, hst, Bool.not_true, Bool.false_eq_true,
    if_false, refuse]

theorem regModifyH_writes {p : Bytes} {s : State} {w : Word} (hw : windowRefusal [fieldLE p 0 4] true s = none)
    (hr : regVal 2 (fieldLE p 0 4) s = some w) :
    regModifyH p s = (.now .ok, regPoke 2 (fieldLE p 0 4)
      ((w &&& ~~~BitVec.ofNat 32 (fieldLE p 4 4)) ||| (BitVec.ofNat 32 (fieldLE p 8 4) &&& BitVec.ofNat 32 (fieldLE p 4 4)))
      (regReadEffect (fieldLE p 0 4) s)) := by
  simp only [regModifyH, hw, hr, Option.getD_some]

/-- Settles O15: the three accesses through their handlers, one word read as a run of one, and the address that is no
register. -/
theorem expertWindowAccesses : Obligations.ExpertWindowAccesses := by
  unfold Obligations.ExpertWindowAccesses
  refine ⟨fun n s p msg addrs r h hlen hc haddrs hw hr => ?read, fun n s p msg a w h hlen ha hone hw hv => ?readOne,
    fun n s p msg h hl hc hw => ?write, fun n s p msg a w mask value h hlen ha hmask hvalue hw hv => ?modify,
    fun n s p msg a h hl ha hone hv => ?unmapped⟩
  case read =>
    subst haddrs hr
    rw [exec_regRead, basmos_now h (layoutIs_nil hlen) (regReadH_reads hc hw), readWords]
  case readOne =>
    subst ha
    have hreads := regReadH_reads (p := p) (s := s) (by rw [hone]; rfl) (by rwa [hone, wordAddrs_one])
    rw [hone, wordAddrs_one, readWords_one, hv] at hreads
    rw [exec_regRead, basmos_now h (layoutIs_nil hlen) hreads, Option.getD_some]
  case write => rw [exec_regWrite, basmos_now h hl (regWriteH_writes hc hw)]
  case modify =>
    subst ha hmask hvalue
    rw [exec_regModify, basmos_now h (layoutIs_nil hlen) (regModifyH_writes hw hv)]
  case unmapped =>
    subst ha
    rw [exec_regWrite, basmos_now h hl (regWriteH_unmapped hone hv)]

end Sys2Proof.Machine
end

section
/-!
PROOFS. A wrapped key in a later format is refused with an event that names the format (R448), and not with the event of any
other refused blob (R391): the refutation of the statement on sessions, claims and keys.
-/
namespace Sys2Proof.Machine

/-! ### An answer leaves the event recorder -/

@[simp] theorem monEnd_evt (probe id filter : Nat) (s : State) : (monEnd probe id filter s).evt = s.evt := rfl

@[simp] theorem signalVec_evt (v : Nat) (s : State) : (signalVec v s).evt = s.evt := by
  unfold signalVec
  split <;> rfl

theorem finishMbx_evt (n : Nat) (resp : Bytes) (s : State) : (finishMbx n resp s).evt = s.evt := by
  simp only [finishMbx]
  repeat' split
  all_goals simp

theorem writePart_evt (n op seq level session status : Nat) (async : Bool) (part : Nat) (parts : List Bytes) (s : State) :
    (writePart n op seq level session status async part parts s).evt = s.evt := by
  cases parts with
  | nil => rfl
  | cons p rest => exact finishMbx_evt ..

theorem answer_evt (n : Nat) (msg : BMsg) (r : BRes) (s : State) : (answer n msg r s).evt = s.evt := writePart_evt ..

/-! ### The refused blob -/

theorem exec_keyWrappedLoad (n : Fin 64) (s : State) :
    exec (.keyWrappedLoad n) s = .next (basmos n 0x0800 keyLoadLayout (keyLoadH (claimant n false)) s) := rfl

/-- A digest key that does not unwrap is refused, and the event depends on the blob's format. -/
theorem keyLoadH_digest_refused {holder : Nat} {p : Bytes} {s : State} (hk : fieldLE p 0 1 = 4)
    (hb : fieldLE (bslice p 8 (fieldLE p 2 2)) 2 1 = 4) (hu : unwrap s (bslice p 8 (fieldLE p 2 2)) = none) :
    keyLoadH holder p s = (.now (.fail .denied), blobRefusedOf (bslice p 8 (fieldLE p 2 2)) s) := by
  simp [keyLoadH, loadDigestKey, hk, hb, hu, refuse]

/-- The head of a wrapped key for digest slot 48 in format 2, which is later than the current one. -/
def laterBlob : Bytes := [2, 0, 4, 0, 0, 0, 48, 0]

/-- KEY_WRAPPED_LOAD of that blob (Table 14.7). -/
def laterLoad : Bytes := [4, 1] ++ leN 2 8 ++ zeros 4 ++ laterBlob

def laterMsg : BMsg := { opcode := 0x0800, seq := 0, expert := false, session := 0, payload := laterLoad }

/-- The head after reset with that request taken in mailbox 0. -/
def laterState : State := setMbx 0 { state := .running, msg := some laterMsg } State.reset

theorem laterState_taken : Taken laterState (0 : Fin 64) 0x0800 laterLoad laterMsg :=
  ⟨rfl, rfl, rfl, rfl, rfl, rfl, rfl⟩

/-- Without a role no blob unwraps. -/
theorem unwrap_laterBlob : unwrap laterState laterBlob = none := rfl

theorem exec_laterLoad : exec (.keyWrappedLoad 0) laterState =
    .next (answer 0 laterMsg (.fail .denied) (blobRefusedOf laterBlob laterState)) := by
  rw [exec_keyWrappedLoad, basmos_now laterState_taken rfl (keyLoadH_digest_refused rfl rfl unwrap_laterBlob)]
  rfl

/-- The event of the later format carries its row of Table 16.10 and its version; that of another refused blob is bare. -/
theorem laterBlob_event : ((blobRefusedOf laterBlob laterState).evt.recs.map (·.detail),
    (note 8 7 2 laterState).evt.recs.map (·.detail)) = ([[6, 2, 0]], [[]]) := rfl

/-- Refutes O14: a digest key in format 2 that does not unwrap is refused DENIED, but its event names the format and the
version (R448), where the statement has the bare event of R391. -/
theorem not_sessionsClaimsAndKeys : ¬ Obligations.SessionsClaimsAndKeys := by
  unfold Obligations.SessionsClaimsAndKeys
  rintro ⟨-, -, -, -, -, hload, -⟩
  have hstated := hload 0 laterState laterLoad laterMsg laterBlob laterState_taken rfl rfl rfl rfl rfl
  rw [unwrap_laterBlob, exec_laterLoad] at hstated
  have hevt : (blobRefusedOf laterBlob laterState).evt = (note 8 7 2 laterState).evt := by
    simpa only [answer_evt] using congrArg State.evt (Host.Outcome.next.inj hstated)
  have hdetails := laterBlob_event
  rw [hevt] at hdetails
  exact absurd ((congrArg Prod.fst hdetails).symm.trans (congrArg Prod.snd hdetails)) (by decide)

end Sys2Proof.Machine
end

section
/-!
PROOFS. What the map, the journal writer and the Dovecote leave as it is: the commands in progress, the epoch, the keep area, the
state of the pair, the level of PWR_FAIL_N and the count of holds.
-/
namespace Sys2Proof.Machine

/-- The figures of the state that applying a unit and writing a journal record never touch. -/
def books (s : State) : Tab Cmd × Epoch × Option Keep × Nat × Bool × Nat :=
  (s.jrn.cmds, s.jrn.epoch, s.jrn.keep, s.pair.state, s.ghx.pwrFail, s.plc.holdCount)

section
variable {s t : State} (h : books t = books s)
include h

theorem cmdOf_of_books (asn : Nat) : cmdOf t asn = cmdOf s asn := congrArg (fun b : Tab Cmd × _ => tget b.1 asn) h
theorem epoch_of_books : t.jrn.epoch = s.jrn.epoch := congrArg (·.2.1) h
theorem keep_of_books : t.jrn.keep = s.jrn.keep := congrArg (·.2.2.1) h
theorem pairState_of_books : t.pair.state = s.pair.state := congrArg (·.2.2.2.1) h
theorem pwrFail_of_books : t.ghx.pwrFail = s.ghx.pwrFail := congrArg (·.2.2.2.2.1) h
theorem holdCount_of_books : t.plc.holdCount = s.plc.holdCount := congrArg (·.2.2.2.2.2) h

end

theorem foldl_books {α : Type} {f : State → α → State} (hf : ∀ s a, books (f s a) = books s) (l : List α) (s : State) :
    books (l.foldl f s) = books s := foldl_keeps books hf l s

/-- A record update that keeps these figures. -/
@[simp] theorem books_update {s : State} {out draws kiosk evt mons gh ghx sec dram cns sleds map ing ftb lat rep} {plc : Plc}
    {jrn : Jrn} {pair : Pair} (h1 : jrn.cmds = s.jrn.cmds) (h2 : jrn.epoch = s.jrn.epoch) (h3 : jrn.keep = s.jrn.keep)
    (h4 : pair.state = s.pair.state) (h5 : ghx.pwrFail = s.ghx.pwrFail) (h6 : plc.holdCount = s.plc.holdCount) :
    books ⟨s.pending, out, draws, kiosk, evt, mons, gh, ghx, sec, dram, cns, sleds, map, plc, jrn, ing, ftb, pair, lat, rep⟩ =
      books s := by
  simp only [books, h1, h2, h3, h4, h5, h6]

/-! ### Traces, counters and tables -/

@[simp] theorem emit_books (o : Out) (s : State) : books (emit o s) = books s := rfl
@[simp] theorem draw_books (s : State) : books (draw s) = books s := rfl
@[simp] theorem monBegin_books (probe id : Nat) (s : State) : books (monBegin probe id s) = books s := rfl
@[simp] theorem monEnd_books (probe id filter : Nat) (s : State) : books (monEnd probe id filter s) = books s := rfl
@[simp] theorem setFport_books (n : Nat) (p : FPort) (s : State) : books (setFport n p s) = books s := rfl
@[simp] theorem setTag_books (n t : Nat) (g : LTag) (s : State) : books (setTag n t g s) = books s := rfl
@[simp] theorem setDmc_books (n : Nat) (c : Dmc) (s : State) : books (setDmc n c s) = books s := rfl
@[simp] theorem setMv_books (r mv : Nat) (s : State) : books (setMv r mv s) = books s := rfl
@[simp] theorem modRow_books (g n : Nat) (f : Row → Row) (s : State) : books (modRow g n f s) = books s := rfl
@[simp] theorem modSet_books (k : Nat) (f : BSet → BSet) (s : State) : books (modSet k f s) = books s := rfl
@[simp] theorem modOwn_books (p : OwnRec → Bool) (f : OwnRec → OwnRec) (s : State) : books (modOwn p f s) = books s := rfl
@[simp] theorem heatTouch_books (vol first blocks : Nat) (s : State) : books (heatTouch vol first blocks s) = books s := rfl
@[simp] theorem updateIndex_books (serial : Nat) (loc : Loc) (s : State) : books (updateIndex serial loc s) = books s := rfl
@[simp] theorem domCount_books (d : Nat) (f : DomCnt → DomCnt) (s : State) : books (domCount d f s) = books s := rfl
@[simp] theorem setOwner_books (r : Role) (vols : List Nat) (s : State) : books (setOwner r vols s) = books s := rfl
@[simp] theorem enterReplay_books (queueId : Nat) (e : ReplayEntry) (s : State) : books (enterReplay queueId e s) = books s := rfl

@[simp] theorem cnsStores_books (port pa n : Nat) (s : State) : books (cnsStores port pa n s) = books s := by
  simp only [cnsStores, onMemory]
  split <;> rfl

@[simp] theorem endTag_books (asn : Nat) (c : Cmd) (s : State) : books (endTag asn c s) = books s := by
  simp [endTag, apply_ite books]

/-! ### The journal writer -/

theorem dealSegs_books (cls k off len : Nat) (s : State) : books (dealSegs cls k off len s).2 = books s := by
  induction k generalizing off len s with
  | zero => rfl
  | succ k ih =>
    simp only [dealSegs]
    split
    · rfl
    · simp [apply_ite Prod.snd, apply_ite books, ih]

@[simp] theorem sendFrames_books (type id len : Nat) (payload : Bytes) (segs : List (Nat × Nat × Nat × Nat × Nat)) (s : State) :
    books (sendFrames type id len payload segs s) = books s :=
  foldl_books (fun _ _ => emit_books ..) _ _

@[simp] theorem ftbSend_books (type cls len : Nat) (offs : List Nat) (mk : Nat → FtbOut) (s : State) :
    books (ftbSend type cls len offs mk s).2 = books s := by
  have hd := dealSegs_books cls (len / 9088 + 1) 0 len s
  simp only [ftbSend]
  generalize dealSegs cls (len / 9088 + 1) 0 len s = d at hd ⊢
  simp [apply_ite books, hd]

@[simp] theorem mirrorRec_books (off : Nat) (s : State) : books (mirrorRec off s) = books s := by
  simp only [mirrorRec]
  repeat' split
  all_goals simp

@[simp] theorem writeRec_books (asn unit units : Nat) (last : Bool) (body : JBody) (s : State) :
    books (writeRec asn unit units last body s).2 = books s := by
  simp [writeRec, apply_ite books]

@[simp] theorem drainRecs_books (offs : List Nat) (asn unit : Nat) (s : State) :
    books (drainRecs offs asn unit s) = books s := by
  simp [drainRecs, writeLoose, apply_ite books]

/-! ### The map -/

@[simp] theorem dirtyPage_books (page i : Nat) (s : State) : books (dirtyPage page i s) = books s := by
  simp [dirtyPage]

@[simp] theorem putChunk_books (serial : Nat) (c : ChunkRec) (s : State) : books (putChunk serial c s) = books s := by
  simp [putChunk]

@[simp] theorem putLoc_books (key chunk : Nat) (loc : Loc) (s : State) : books (putLoc key chunk loc s) = books s := by
  unfold putLoc
  split <;> simp

@[simp] theorem moveChunk_books (m : MoveEntry) (s : State) : books (moveChunk m s) = books s := by
  simp only [moveChunk]
  repeat' split
  all_goals simp

@[simp] theorem freeIfDead_books (k serial : Nat) (s : State) : books (freeIfDead k serial s) = books s := by
  induction k generalizing serial s with
  | zero => rfl
  | succ k ih =>
    simp only [freeIfDead]
    repeat' split
    all_goals simp [ih]

@[simp] theorem dropRef_books (peer : Bool) (serial : Nat) (s : State) : books (dropRef peer serial s) = books s := by
  simp only [dropRef]
  split <;> simp

@[simp] theorem unpinChunk_books (serial : Nat) (s : State) : books (unpinChunk serial s) = books s := by
  unfold unpinChunk
  split <;> simp

@[simp] theorem addRef_books (peer : Bool) (serial : Nat) (s : State) : books (addRef peer serial s) = books s := by
  unfold addRef
  split <;> simp [makeIndirect, apply_ite books]

@[simp] theorem ownLeaf_books (key page : Nat) (s : State) : books (ownLeaf key page s) = books s := by
  unfold ownLeaf
  repeat' split
  all_goals simp [foldl_books]

@[simp] theorem putEnt_books (key chunk : Nat) (e : MapEnt) (s : State) : books (putEnt key chunk e s) = books s := by
  simp only [putEnt]
  split <;> simp

@[simp] theorem unmapChunk_books (key chunk : Nat) (s : State) : books (unmapChunk key chunk s) = books s := by
  simp [unmapChunk, apply_ite books]

@[simp] theorem mapShared_books (key chunk serial : Nat) (s : State) : books (mapShared key chunk serial s) = books s := by
  simp only [mapShared]
  split <;> simp [apply_ite books]

@[simp] theorem mapNew_books (key chunk serial : Nat) (s : State) : books (mapNew key chunk serial s) = books s := by
  simp only [mapNew, mapDirect]
  repeat' split
  all_goals simp

@[simp] theorem enterChunk_books (off : Nat) (mirror : Bool) (envelope : Bytes) (s : State) :
    books (enterChunk off mirror envelope s) = books s := by
  simp only [enterChunk]
  repeat' split
  all_goals simp

/-! ### Units -/

@[simp] theorem applyRec_books (snap off : Nat) (mirror : Bool) (b : JBody) (s : State) :
    books (applyRec snap off mirror b s) = books s := by
  cases b <;> simp [applyRec, applyRelease, foldl_books, apply_ite books]

@[simp] theorem applyUnit_books (asn unit : Nat) (s : State) : books (applyUnit asn unit s) = books s := by
  refine (foldl_books (fun _ _ => unpinChunk_books ..) _ _).trans ?_
  exact foldl_books (fun s (r : OwnRec) => applyRec_books 0 r.r.off false r.r.body s) (unitRecs s asn unit) s

@[simp] theorem deferUnit_books (asn unit : Nat) (pins : List Nat) (s : State) : books (deferUnit asn unit pins s) = books s := by
  simp only [deferUnit]
  refine (books_update rfl rfl rfl rfl rfl rfl).trans (foldl_books (fun s r => ?_) _ _)
  split <;> simp

@[simp] theorem insertIndex_books (fp : Bytes) (serial d : Nat) (s : State) : books (insertIndex fp serial d s) = books s := by
  simp [insertIndex, insertNow, apply_ite books]

end Sys2Proof.Machine
end

section
/-!
PROOFS. A complete LAT message passes its checks and enters step 3 (R60, R66, R77, R144, R146).
-/
namespace Sys2Proof.Machine

/-! ### A table changed at one key -/

/-- A search that passes over key k finds the same whatever stands there. -/
theorem find?_tset {α : Type} {p : Nat × α → Bool} {k : Nat} (hp : ∀ v, p (k, v) = false) (t : Tab α) (v : α) :
    (tset t k v).find? p = t.find? p := by
  induction t with
  | nil => simp [tset, hp]
  | cons e t ih =>
    obtain ⟨j, w⟩ := e
    simp only [tset]
    split
    · simp [hp]
    · split
      next hk => subst hk; simp [hp]
      next => simp only [List.find?_cons, ih]

theorem any_tset {α : Type} {p : Nat × α → Bool} {k : Nat} (hp : ∀ v, p (k, v) = false) (t : Tab α) (v : α) :
    (tset t k v).any p = t.any p := by
  rw [← List.isSome_find?, ← List.isSome_find?, find?_tset hp]

/-! ### A state in which one command in progress has moved on -/

/-- The state with another command under an ASN; the replay tables and the monitors' book may have moved with it. -/
def withCmd (asn : Nat) (d : Cmd) (T : Tab RTable) (m : Mons) (s : State) : State :=
  { s with
    mons := m
    jrn := { s.jrn with
      cmds := tset s.jrn.cmds asn d
      tables := T } }

section
variable (asn : Nat) (d e : Cmd) (T : Tab RTable) (m : Mons) (s : State)

@[simp] theorem cmdOf_withCmd : cmdOf (withCmd asn d T m s) asn = some d := tget_tset_self ..

theorem cmdOf_withCmd_other {k : Nat} (h : k ≠ asn) : cmdOf (withCmd asn d T m s) k = cmdOf s k := tget_tset_other _ _ h

@[simp] theorem modCmd_withCmd (f : Cmd → Cmd) : modCmd asn f (withCmd asn d T m s) = withCmd asn (f d) T m s := by
  simp [modCmd, withCmd, tmod, tget_tset_self, tset_tset]

@[simp] theorem setCmd_withCmd : setCmd asn e (withCmd asn d T m s) = withCmd asn e T m s := by
  simp [setCmd, withCmd, tset_tset]

@[simp] theorem cmdFails_withCmd : cmdFails (withCmd asn d T m s) e = cmdFails s e := rfl

/-- What may hold a command back at its ASN does not look at the command that stands there. -/
@[simp] theorem heldNow_withCmd : heldNow (withCmd asn d T m s) asn e = heldNow s asn e := by
  have hb : barred (withCmd asn d T m s) asn e = barred s asn e := any_tset (fun v => by simp) _ _
  simp only [heldNow, hb]
  rfl

@[simp] theorem writerBefore_withCmd : writerBefore (withCmd asn d T m s) asn e = writerBefore s asn e :=
  congrArg (· || _) (any_tset (p := fun x => decide (x.1 < asn) && isWriter x.2 && shares x.2 e) (fun v => by simp) _ _)

@[simp] theorem abortTarget_withCmd : abortTarget (withCmd asn d T m s) asn e = abortTarget s asn e := by
  simp only [abortTarget]
  split
  next h => exact (if_pos h).symm
  next h => exact (find?_tset (fun v => by simp) _ _).trans (if_neg h).symm

end

/-! ### The checks, and the entry to step 3 -/

/-- A command whose message is complete and has passed the checks of R144. -/
def passed (s : State) (c : Cmd) : Cmd := { c with checked := true, dataDone := true, stamp := s.mons.stamp }

/-- A command in step 3, of the current epoch (R77). -/
def admitted (s : State) (c : Cmd) : Cmd := { passed s c with stage := .running, epoch := s.jrn.epoch.number }

section
variable {n tag op asn : Nat} {c : Cmd} {s : State}

theorem checkMessage_passes (h : Complete s n tag op asn c) :
    ∃ T, checkMessage asn c s = (false, withCmd asn { c with checked := true } T s.mons s) := by
  obtain ⟨-, -, hc, -, -, -, hf, hcsn, -, hpass⟩ := h
  obtain ⟨T, hT⟩ := seeCsn_frame c.queueId c.csn s
  refine ⟨T, ?_⟩
  have hmod : modCmd asn (fun c => { c with checked := true }) (seeCsn c.queueId c.csn s) =
      withCmd asn { c with checked := true } T s.mons s := by
    simp only [hT, modCmd, tmod, withCmd]
    rw [show tget s.jrn.cmds asn = some c from hc]
  have hfirst : firstFails (withCmd asn { c with checked := true } T s.mons s) c = none := by
    simp [firstFails, hpass]
  simp only [checkMessage, hf, hcsn, hmod, hfirst, Bool.false_eq_true, if_false]

/-- The row of a complete message leaves its command checked; an ABORT acts at once, any other asks to be let in. -/
theorem runMessage_complete (h : Complete s n tag op asn c) (hall : ¬(c.opcode = 3 ∧ c.volume = 0xFFFFFFFF)) :
    ∃ T m, runMessage op n tag s = if op = 5 then runAbort asn (withCmd asn (passed s c) T m s)
      else letIn asn (withCmd asn (passed s c) T m s) := by
  obtain ⟨T, hpass⟩ := checkMessage_passes h
  obtain ⟨hasn, hrun, hc, rfl, hst, hch, -⟩ := h
  refine ⟨T, s.mons.starting 4 asn, ?_⟩
  have hgo : ¬(c.opcode ≠ c.opcode ∨ (tagOf (qpOf s n) tag).st ≠ .running ∨ c.checked = true ∨ c.stage ≠ .held) := by
    simp [hrun, hch, hst]
  simp only [runMessage, hasn, hc, if_neg hgo, hpass, if_neg hall, modCmd_withCmd]
  rfl

/-- A checked command that nothing holds back, and that still passes its checks, enters step 3. -/
theorem letIn_enters (hc : cmdOf s asn = some c) (hst : c.stage = .held) (hch : c.checked = true) (hop : c.opcode ≠ 5)
    (hheld : heldNow s asn c = false) (hpass : cmdFails s c = none) : letIn asn s = enterStep3 asn s := by
  simp [letIn, hc, hst, hch, hop, hheld, againFails, hpass]

/-- A complete message that nothing holds back enters step 3. -/
theorem runMessage_ready (h : Ready s n tag op asn c) (hop : op ≠ 5) (hall : ¬(c.opcode = 3 ∧ c.volume = 0xFFFFFFFF)) :
    ∃ T m, runMessage op n tag s = enterStep3 asn (withCmd asn (passed s c) T m s) := by
  obtain ⟨hcomplete, hheld⟩ := h
  obtain ⟨T, m, hrun⟩ := runMessage_complete hcomplete hall
  obtain ⟨-, -, -, hopc, hst, -, -, -, -, hpass⟩ := hcomplete
  refine ⟨T, m, ?_⟩
  rw [hrun, if_neg hop]
  exact letIn_enters (cmdOf_withCmd ..) hst rfl (fun h5 => hop (hopc.symm.trans h5)) ((heldNow_withCmd ..).trans hheld) hpass

end

end Sys2Proof.Machine
end

section
/-!
PROOFS. The complete LAT messages begin their work (R66, R68, R73, R77, R130 to R137, R142, R144).
-/
namespace Sys2Proof.Machine

/-! ### The commands are an update and what follows it -/

theorem exec_write (n : Fin 16384) (tag : Fin 32) (s : State) : exec (.write n tag) s = .next (settle (runMessage 1 n tag s)) := rfl
theorem exec_read (n : Fin 16384) (tag : Fin 32) (s : State) : exec (.read n tag) s = .next (settle (runMessage 2 n tag s)) := rfl
theorem exec_flush (n : Fin 16384) (tag : Fin 32) (s : State) : exec (.flush n tag) s = .next (settle (runMessage 3 n tag s)) := rfl
theorem exec_release (n : Fin 16384) (tag : Fin 32) (s : State) :
    exec (.release n tag) s = .next (settle (runMessage 4 n tag s)) := rfl
theorem exec_abort (n : Fin 16384) (tag : Fin 32) (s : State) : exec (.abort n tag) s = .next (settle (runMessage 5 n tag s)) := rfl
theorem exec_recall (n : Fin 16384) (tag : Fin 32) (s : State) :
    exec (.recall n tag) s = .next (settle (runMessage 6 n tag s)) := rfl
theorem exec_identify (n : Fin 16384) (tag : Fin 32) (s : State) :
    exec (.identify n tag) s = .next (settle (runMessage 7 n tag s)) := rfl
theorem exec_keepalive (n : Fin 16384) (tag : Fin 32) (s : State) :
    exec (.keepalive n tag) s = .next (settle (runMessage 8 n tag s)) := rfl
theorem exec_overlapRelease (asn : Nat) (s : State) : exec (.overlapRelease asn) s = .next (settle (overlapRelease asn s)) := rfl
theorem exec_orderedBarrierRelease (n : Fin 16384) (s : State) :
    exec (.orderedBarrierRelease n) s = .next (settle (barrierRelease n s)) := rfl
theorem exec_messageTimerExpiry (n : Fin 16384) (tag : Fin 32) (s : State) :
    exec (.messageTimerExpiry n tag) s = .next (settle (messageTimer n tag s)) := rfl

/-! ### The outcome of a command that is no writer (R57, R58) -/

section
variable {asn result : Nat} {st : Status} {c : Cmd} {s : State}

theorem cmdOf_modCmd_other {k : Nat} (f : Cmd → Cmd) (s : State) (hk : k ≠ asn) : cmdOf (modCmd asn f s) k = cmdOf s k := by
  simp only [cmdOf, modCmd, tmod]
  split
  · exact tget_tset_other _ _ hk
  · rfl

theorem cmdOf_recordOutcome (d : Cmd) (hc : cmdOf s asn = some c) :
    ∃ w, cmdOf (recordOutcome asn d s) asn = some { c with waitRec := w } :=
  ⟨_, cmdOf_modCmd _ ((cmdOf_of_books (writeRec_books ..) asn).trans hc)⟩

theorem cmdOf_recordOutcome_other {k : Nat} (d : Cmd) (hk : k ≠ asn) :
    cmdOf (recordOutcome asn d s) k = cmdOf s k := by
  exact (cmdOf_modCmd_other _ _ hk).trans (cmdOf_of_books (writeRec_books ..) k)

/-- A command that is no writer and has no outcome yet is decided by its tag's end and, but for a SUCCESS that has one already,
its completion record. -/
theorem decide_eq (hc : cmdOf s asn = some c) (hst : c.stage ≠ .decided) (hr : isWriter c = false) :
    decide_ asn st result s =
      let d := { c with stage := .decided, status := st, result := result }
      let t := endTag asn d (setCmd asn d s)
      if c.waitRec.isSome ∧ st = .success then t else recordOutcome asn d t := by
  have hr' : isWriter { c with stage := .decided, status := st, result := result } = false := hr
  simp only [decide_, hc, if_neg hst, hr', Bool.false_eq_true, false_and, if_false]

theorem cmdOf_decide (hc : cmdOf s asn = some c) (hst : c.stage ≠ .decided) (hr : isWriter c = false) :
    ∃ w, cmdOf (decide_ asn st result s) asn =
      some { c with stage := .decided, status := st, result := result, waitRec := w } := by
  have hend := (cmdOf_of_books (endTag_books asn { c with stage := .decided, status := st, result := result }
    (setCmd asn { c with stage := .decided, status := st, result := result } s)) asn).trans (cmdOf_setCmd_self ..)
  rw [decide_eq hc hst hr]
  split
  · exact ⟨c.waitRec, hend⟩
  · exact cmdOf_recordOutcome _ hend

theorem cmdOf_decide_other {k : Nat} (hk : k ≠ asn) (hc : cmdOf s asn = some c) (hst : c.stage ≠ .decided)
    (hr : isWriter c = false) : cmdOf (decide_ asn st result s) k = cmdOf s k := by
  have hend := (cmdOf_of_books (endTag_books asn { c with stage := .decided, status := st, result := result }
    (setCmd asn { c with stage := .decided, status := st, result := result } s)) k).trans (cmdOf_setCmd_other _ _ hk)
  rw [decide_eq hc hst hr]
  split
  · exact hend
  · exact (cmdOf_recordOutcome_other _ hk).trans hend

theorem holdCount_decide (hc : cmdOf s asn = some c) (hst : c.stage ≠ .decided) (hr : isWriter c = false) :
    (decide_ asn st result s).plc.holdCount = s.plc.holdCount := by
  have hend := holdCount_of_books (endTag_books asn { c with stage := .decided, status := st, result := result }
    (setCmd asn { c with stage := .decided, status := st, result := result } s))
  rw [decide_eq hc hst hr]
  split
  · exact hend
  · exact (holdCount_of_books (writeRec_books ..)).trans hend

end

/-! ### The works of the opcodes -/

section
variable {asn : Nat} {c : Cmd} {s : State}

/-- A writer has its commit units and its chunks (R130, R131); the range records of a RELEASE are on their way. -/
theorem cmdOf_startWriter (data : Bytes) (hc : cmdOf s asn = some c) : cmdOf (startWriter asn data s) asn = some { c with
    units := unitsOf c.first c.blocks, chunks := worksOf c (volDomain s c.volume) data } := by
  simp only [startWriter, hc]
  split
  · exact cmdOf_modCmd _ hc
  · refine (cmdOf_of_books (foldl_books (fun s e => writeRec_books ..) _ _) asn).trans ?_
    exact cmdOf_modCmd _ hc

/-- A READ that may wait for shelves has its chunk reads (R132, R313). -/
theorem cmdOf_startRead (hc : cmdOf s asn = some c) (hwait : noWait c = false) : cmdOf (startRead asn s) asn = some { c with
    key := readKey s c.volume c.snap, reads := newReads c.first c.blocks } := by
  have hwait' : noWait { c with key := readKey s c.volume c.snap } = false := hwait
  simp only [startRead, hc, Option.map_some, hwait', Bool.false_eq_true, if_false]
  exact cmdOf_modCmd (s := heatTouch c.volume c.first c.blocks (setCmd asn _ s)) _ (cmdOf_setCmd_self ..)

/-- Which layers sleep is read from the map and from what is placed, and not from the commands or the heat. -/
theorem sleepLayers_congr {t : State} (hmap : t.map = s.map) (hread : readableNow t = readableNow s) (k want serial : Nat) :
    sleepLayers t k want serial = sleepLayers s k want serial := by
  induction k generalizing want serial with
  | zero => rfl
  | succ k ih => simp only [sleepLayers, chunkOf, hmap, hread, ih]

theorem sleeping_congr {t : State} (hmap : t.map = s.map) (hread : readableNow t = readableNow s) (c : Cmd) :
    sleeping t c = sleeping s c := by
  have hent : getEnt t = getEnt s := by
    unfold getEnt leafId
    rw [hmap]
  simp only [sleeping, hent, sleepLayers_congr hmap hread]

/-- A RECALL that needs no wake has its hold and its outcome (R134, R238). -/
theorem startRecall_awake (hc : cmdOf s asn = some c) (hst : c.stage = .running) (hop : c.opcode = 6)
    (hawake : sleeping s { c with key := readKey s c.volume c.snap } = []) : ∃ x, cmdOf (startRecall asn s) asn = some x ∧
      x.stage = .decided ∧ x.status = .success ∧ x.holdId = some s.plc.holdCount ∧
      (startRecall asn s).plc.holdCount = s.plc.holdCount + 1 := by
  let d := { c with key := readKey s c.volume c.snap }
  let u := heatTouch c.volume c.first c.blocks (setCmd asn d s)
  have hd : cmdOf u asn = some d := cmdOf_setCmd_self asn d s
  have hmap : u.map = s.map := rfl
  have hread : readableNow u = readableNow s := rfl
  have hsl : sleeping u d = [] := (sleeping_congr hmap hread d).trans hawake
  have hstart : startRecall asn s = finishRecall asn (setHold asn [] (rangeShelves u d) u) := by
    simp only [startRecall, hc, Option.map_some]
    exact if_pos hsl
  have hheld : cmdOf (setHold asn [] (rangeShelves u d) u) asn = some { d with holdId := some u.plc.holdCount } := cmdOf_setHold hd
  obtain ⟨x, hx, hstage, hstatus, hhold, -⟩ := cmdOf_finishRecall hheld hst hop
  rw [hstart]
  refine ⟨x, hx, hstage, hstatus, hhold, ?_⟩
  have hcount : (setHold asn [] (rangeShelves u d) u).plc.holdCount = s.plc.holdCount + 1 := by
    simp only [setHold, hd]
    rfl
  refine (holdCount_decide (cmdOf_modCmd (s := draw _) _ hheld) ?_ ?_).trans hcount
  · simp [d, hst]
  · simp [isWriter, d, hop]

end

/-! ### What each opcode begins in step 3 -/

/-- The command has entered step 3, and belongs to the current epoch (R77). -/
def inStep3 (asn : Nat) (s : State) : State := modCmd asn (fun c => { c with stage := .running, epoch := s.jrn.epoch.number }) s

section
variable {asn : Nat} {c : Cmd} {s : State} (hc : cmdOf s asn = some c)
include hc

theorem enterStep3_write (hop : c.opcode = 1) :
    enterStep3 asn s = startWriter asn (msgData (cmdTag s c) (c.blocks * 4096)) (inStep3 asn s) := by
  simp only [enterStep3, hc, hop]
  rfl

theorem enterStep3_release (hop : c.opcode = 4) : enterStep3 asn s = startWriter asn [] (inStep3 asn s) := by
  simp only [enterStep3, hc, hop]
  rfl

theorem enterStep3_read (hop : c.opcode = 2) (hw : writerBefore (inStep3 asn s) asn c = false) :
    enterStep3 asn s = startRead asn (inStep3 asn s) := by
  simp only [enterStep3, hc, hop]
  exact if_neg (Bool.eq_false_iff.1 hw)

theorem enterStep3_recall (hop : c.opcode = 6) (hw : writerBefore (inStep3 asn s) asn c = false) :
    enterStep3 asn s = startRecall asn (inStep3 asn s) := by
  simp only [enterStep3, hc, hop]
  exact if_neg (Bool.eq_false_iff.1 hw)

theorem enterStep3_flush (hop : c.opcode = 3) (hopen : s.plc.open_ = []) : enterStep3 asn s =
    modCmd asn (fun d => { d with names := if d.volume = 0xFFFFFFFF then d.names else [d.volume] }) (inStep3 asn s) := by
  have hkeys : tkeys (inStep3 asn s).plc.open_ = [] := congrArg tkeys hopen
  simp only [enterStep3, hc, hop]
  rw [← inStep3, hkeys, List.foldl_nil]

theorem enterStep3_identify (hop : c.opcode = 7) : enterStep3 asn s = startIdentify asn (inStep3 asn s) := by
  simp only [enterStep3, hc, hop]
  rfl

theorem enterStep3_keepalive (hop : c.opcode = 8) :
    enterStep3 asn s = decide_ asn .success (optime s % 2 ^ 32) (inStep3 asn s) := by
  simp only [enterStep3, hc, hop]
  rfl

/-- A KEEPALIVE in step 3 is answered with the operating time (R137). -/
theorem cmdOf_enterStep3_keepalive (hop : c.opcode = 8) :
    ∃ x, cmdOf (enterStep3 asn s) asn = some x ∧ x.stage = .decided ∧ x.status = .success ∧
      x.result = optime s % 2 ^ 32 ∧ x.epoch = s.jrn.epoch.number := by
  have hin : cmdOf (inStep3 asn s) asn = some { c with stage := .running, epoch := s.jrn.epoch.number } := cmdOf_modCmd _ hc
  obtain ⟨w, hw⟩ := cmdOf_decide (st := .success) (result := optime s % 2 ^ 32) hin (by simp) (by simp [isWriter, hop])
  rw [enterStep3_keepalive hc hop]
  exact ⟨_, hw, rfl, rfl, rfl, rfl⟩

end

theorem inStep3_withCmd (asn : Nat) (c : Cmd) (T : Tab RTable) (m : Mons) (s : State) :
    inStep3 asn (withCmd asn (passed s c) T m s) = withCmd asn (admitted s c) T m s := modCmd_withCmd ..

/-- An ABORT never names itself. -/
theorem abortTarget_ne {s : State} {asn k : Nat} {c v : Cmd} (h : abortTarget s asn c = some (k, v)) : k ≠ asn := by
  simp only [abortTarget] at h
  split at h
  · cases h
  · have hp := List.find?_some h
    exact (of_decide_eq_true hp).1

/-- A command that is no writer ends early with its outcome, and its reads under way are forgotten. -/
theorem endEarly_reader {s : State} {k : Nat} {v : Cmd} {st : Status} (hv : cmdOf s k = some v) (hw : isWriter v = false) :
    endEarly k st s = decide_ k st 0 (dropReader k s) := by
  have hv' : cmdOf (dropReader k s) k = some v := hv
  simp [endEarly, endCmd, hv', hw]

/-- What holds a reader of the range back does not change as its own command moves on. -/
theorem writerBefore_inStep3 (asn : Nat) (c : Cmd) (T : Tab RTable) (m : Mons) (s : State) :
    writerBefore (inStep3 asn (withCmd asn (passed s c) T m s)) asn (passed s c) = writerBefore s asn c := by
  rw [inStep3_withCmd]
  exact writerBefore_withCmd ..

/-! ### The rows of the messages -/

section
variable {n : Fin 16384} {tag : Fin 32} {asn : Nat} {c : Cmd} {s : State}

theorem exec_write_ready (h : Ready s n tag 1 asn c) :
    ∃ t, exec (.write n tag) s = .next (settle t) ∧ cmdOf t asn = some { admitted s c with
      units := unitsOf c.first c.blocks
      chunks := worksOf c (volDomain s c.volume) (msgData (cmdTag s c) (c.blocks * 4096)) } := by
  have hop : c.opcode = 1 := h.1.2.2.2.1
  obtain ⟨T, m, hrun⟩ := runMessage_ready h (by decide) (by simp [hop])
  rw [exec_write, hrun, enterStep3_write (c := passed s c) (cmdOf_withCmd ..) hop, inStep3_withCmd]
  exact ⟨_, rfl, cmdOf_startWriter _ (cmdOf_withCmd ..)⟩

theorem exec_release_ready (h : Ready s n tag 4 asn c) :
    ∃ t, exec (.release n tag) s = .next (settle t) ∧ cmdOf t asn = some { admitted s c with
      units := unitsOf c.first c.blocks
      chunks := worksOf c (volDomain s c.volume) [] } := by
  have hop : c.opcode = 4 := h.1.2.2.2.1
  obtain ⟨T, m, hrun⟩ := runMessage_ready h (by decide) (by simp [hop])
  rw [exec_release, hrun, enterStep3_release (c := passed s c) (cmdOf_withCmd ..) hop, inStep3_withCmd]
  exact ⟨_, rfl, cmdOf_startWriter _ (cmdOf_withCmd ..)⟩

theorem exec_read_ready (h : Ready s n tag 2 asn c) (hfree : writerBefore s asn c = false) (hwait : noWait c = false) :
    ∃ t, exec (.read n tag) s = .next (settle t) ∧ cmdOf t asn = some { admitted s c with
      key := readKey s c.volume c.snap
      reads := newReads c.first c.blocks } := by
  have hop : c.opcode = 2 := h.1.2.2.2.1
  obtain ⟨T, m, hrun⟩ := runMessage_ready h (by decide) (by simp [hop])
  rw [exec_read, hrun,
    enterStep3_read (c := passed s c) (cmdOf_withCmd ..) hop ((writerBefore_inStep3 ..).trans hfree), inStep3_withCmd]
  exact ⟨_, rfl, cmdOf_startRead (cmdOf_withCmd ..) hwait⟩

theorem exec_flush_ready (h : Ready s n tag 3 asn c) (hvol : c.volume ≠ 0xFFFFFFFF) (hopen : s.plc.open_ = []) :
    ∃ t, exec (.flush n tag) s = .next (settle t) ∧ cmdOf t asn = some { admitted s c with names := [c.volume] } := by
  have hop : c.opcode = 3 := h.1.2.2.2.1
  obtain ⟨T, m, hrun⟩ := runMessage_ready h (by decide) (by simp [hvol])
  rw [exec_flush, hrun, enterStep3_flush (c := passed s c) (cmdOf_withCmd ..) hop hopen, inStep3_withCmd, modCmd_withCmd,
    if_neg (show (admitted s c).volume ≠ 0xFFFFFFFF from hvol)]
  exact ⟨_, rfl, cmdOf_withCmd ..⟩

theorem exec_recall_ready (h : Ready s n tag 6 asn c) (hfree : writerBefore s asn c = false)
    (hawake : sleeping s { c with key := readKey s c.volume c.snap } = []) :
    ∃ t x, exec (.recall n tag) s = .next (settle t) ∧ cmdOf t asn = some x ∧ x.stage = .decided ∧ x.status = .success ∧
      x.holdId = some s.plc.holdCount ∧ t.plc.holdCount = s.plc.holdCount + 1 := by
  have hop : c.opcode = 6 := h.1.2.2.2.1
  obtain ⟨T, m, hrun⟩ := runMessage_ready h (by decide) (by simp [hop])
  have hmap : (withCmd asn (admitted s c) T m s).map = s.map := rfl
  have hread : readableNow (withCmd asn (admitted s c) T m s) = readableNow s := rfl
  have hsleep := (sleeping_congr hmap hread { c with key := readKey s c.volume c.snap }).trans hawake
  rw [exec_recall, hrun,
    enterStep3_recall (c := passed s c) (cmdOf_withCmd ..) hop ((writerBefore_inStep3 ..).trans hfree), inStep3_withCmd]
  obtain ⟨x, hx⟩ := startRecall_awake (cmdOf_withCmd asn (admitted s c) T m s) rfl hop hsleep
  exact ⟨_, x, rfl, hx⟩

theorem exec_identify_ready (h : Ready s n tag 7 asn c) (hconn : connected s c = true) :
    ∃ t, exec (.identify n tag) s = .next (settle (flushAll c.qpn t)) ∧
      (qpOf t c.qpn).toWrite = (qpOf s c.qpn).toWrite ++ [(asn, capRkey c, capAddr c, identifyBytes s c)] := by
  have hop : c.opcode = 7 := h.1.2.2.2.1
  obtain ⟨T, m, hrun⟩ := runMessage_ready h (by decide) (by simp [hop])
  rw [exec_identify, hrun, enterStep3_identify (c := passed s c) (cmdOf_withCmd ..) hop, inStep3_withCmd]
  have hconn' : connected (withCmd asn { admitted s c with started := true } T m s) (admitted s c) = true := hconn
  simp only [startIdentify, cmdOf_withCmd, modCmd_withCmd, if_pos hconn']
  exact ⟨_, rfl, congrArg Qp.toWrite (qpOf_setQp_self ..)⟩

theorem exec_keepalive_ready (h : Ready s n tag 8 asn c) :
    ∃ t x, exec (.keepalive n tag) s = .next (settle t) ∧ cmdOf t asn = some x ∧ x.stage = .decided ∧
      x.status = .success ∧ x.result = optime s % 2 ^ 32 := by
  have hop : c.opcode = 8 := h.1.2.2.2.1
  obtain ⟨T, m, hrun⟩ := runMessage_ready h (by decide) (by simp [hop])
  obtain ⟨x, hx, hstage, hstatus, hresult, -⟩ := cmdOf_enterStep3_keepalive (cmdOf_withCmd asn (passed s c) T m s) hop
  exact ⟨_, x, by rw [exec_keepalive, hrun], hx, hstage, hstatus, hresult⟩

/-- An ABORT of a running READ that has sent nothing ends it ABORTED, and itself SUCCESS (R136). -/
theorem exec_abort_complete {k : Nat} {v : Cmd} (h : Complete s n tag 5 asn c) (ht : abortTarget s asn c = some (k, v))
    (hv : cmdOf s k = some v) (hvop : v.opcode = 2) (hvst : v.stage = .running) (hpast : pastReturn v = false) :
    ∃ t x y, exec (.abort n tag) s = .next (settle t) ∧ cmdOf t asn = some x ∧ x.stage = .decided ∧ x.status = .success ∧
      cmdOf t k = some y ∧ y.stage = .decided ∧ y.status = .aborted := by
  have hop : c.opcode = 5 := h.2.2.2.1
  have hst : c.stage = .held := h.2.2.2.2.1
  have hka : k ≠ asn := abortTarget_ne ht
  obtain ⟨T, m, hrun⟩ := runMessage_complete h (by simp [hop])
  let d := { passed s c with target := some k }
  let u := dropReader k (withCmd asn d T m s)
  have hself : cmdOf u asn = some d := cmdOf_withCmd asn d T m s
  have hvict : cmdOf u k = some v := (cmdOf_withCmd_other asn d T m s hka).trans hv
  have hvw : isWriter v = false := by simp [isWriter, hvop]
  have hvs : v.stage ≠ .decided := by simp [hvst]
  have habort : runAbort asn (withCmd asn (passed s c) T m s) = decide_ asn .success 0 (decide_ k .aborted 0 u) := by
    have htarget : abortTarget (withCmd asn (passed s c) T m s) asn (passed s c) = some (k, v) :=
      (abortTarget_withCmd ..).trans ht
    simp only [runAbort, cmdOf_withCmd, htarget, hpast, Bool.false_eq_true, if_false, modCmd_withCmd]
    exact congrArg (decide_ asn .success 0) (endEarly_reader hvict hvw)
  obtain ⟨w, hy⟩ := cmdOf_decide (st := .aborted) (result := 0) hvict hvs hvw
  have hmid := (cmdOf_decide_other (st := .aborted) (result := 0) hka.symm hvict hvs hvw).trans hself
  have hds : d.stage ≠ .decided := by simp [d, passed, hst]
  have hdw : isWriter d = false := by simp [d, passed, isWriter, hop]
  obtain ⟨w', hx⟩ := cmdOf_decide (st := .success) (result := 0) hmid hds hdw
  rw [exec_abort, hrun, if_pos rfl, habort]
  exact ⟨_, _, _, rfl, hx, rfl, rfl, (cmdOf_decide_other hka hmid hds hdw).trans hy, rfl, rfl⟩

/-- OVERLAP_RELEASE begins the chunk reads of a READ that waited for a writer (R66). -/
theorem exec_overlapRelease_read (hc : cmdOf s asn = some c) (hov : c.overlap = true) (hst : c.stage = .running)
    (hop : c.opcode = 2) (hfree : writerBefore s asn c = false) (hmove : heldByMove s c = false) (hpass : cmdFails s c = none)
    (hwait : noWait c = false) :
    ∃ t, exec (.overlapRelease asn) s = .next (settle t) ∧ cmdOf t asn = some { c with
      overlap := false
      key := readKey s c.volume c.snap
      reads := newReads c.first c.blocks } := by
  have hpass' : cmdFails (modCmd asn (fun c => { c with overlap := false }) s) c = none := hpass
  have hstart : overlapRelease asn s = startRead asn (modCmd asn (fun c => { c with overlap := false }) s) := by
    simp [overlapRelease, hc, hov, hst, hfree, hmove, hop, againFails, hpass']
  exact ⟨_, by rw [exec_overlapRelease, hstart], cmdOf_startRead (cmdOf_modCmd _ hc) hwait⟩

/-- ORDERED_BARRIER_RELEASE admits a KEEPALIVE that waited, and it has its answer (R60, R137). -/
theorem exec_orderedBarrierRelease_keepalive (hcmds : s.jrn.cmds = [(asn, c)]) (hqpn : c.qpn = n) (hst : c.stage = .held)
    (hch : c.checked = true) (hop : c.opcode = 8) (hheld : heldNow s asn c = false) (hpass : cmdFails s c = none) :
    ∃ t x, exec (.orderedBarrierRelease n) s = .next (settle t) ∧ cmdOf t asn = some x ∧ x.stage = .decided ∧
      x.status = .success ∧ x.epoch = s.jrn.epoch.number := by
  have hc : cmdOf s asn = some c := by simp [cmdOf, hcmds, tget]
  have hrun : barrierRelease n s = enterStep3 asn s := by
    simp only [barrierRelease, hcmds, List.filter_cons, hqpn, decide_true, if_true, List.filter_nil, List.foldl_cons,
      List.foldl_nil]
    exact letIn_enters hc hst hch (by simp [hop]) hheld hpass
  obtain ⟨x, hx, hstage, hstatus, -, hepoch⟩ := cmdOf_enterStep3_keepalive hc hop
  exact ⟨_, x, by rw [exec_orderedBarrierRelease, hrun], hx, hstage, hstatus, hepoch⟩

end

/-- A message whose capsule never came is answered TIMEOUT (R142). -/
theorem exec_messageTimerExpiry_noCapsule {n : Fin 16384} {tag : Fin 32} {s : State} {x : LTag}
    (hx : tagOf (qpOf s n) tag = x) (hasn : x.asn = none) (hst : x.st = .receiving) :
    exec (.messageTimerExpiry n tag) s =
      .next (settle (answerMsg n tag 0 0 .timeout 0 0 (setTag n tag { x with st := .ending } s))) := by
  simp only [exec_messageTimerExpiry, messageTimer, hx, hasn, hst, if_true]

/-- Settles O21: a complete message that nothing holds back is let in by `runMessage_ready`, and each opcode's lemma says what
`enterStep3` then begins. -/
theorem latMessagesRun : Obligations.LatMessagesRun := by
  unfold Obligations.LatMessagesRun
  refine ⟨?write, ?read, ?flush, ?release, ?abort, ?recallRow, ?identify, ?keepalive, ?overlap, ?barrier, ?timer⟩
  case write =>
    intro n tag asn c s h
    obtain ⟨t, ht, hc⟩ := exec_write_ready h
    exact ⟨t, _, ht, hc, rfl⟩
  case read =>
    intro n tag asn c s h hfree hwait
    obtain ⟨t, ht, hc⟩ := exec_read_ready h hfree hwait
    exact ⟨t, _, ht, hc, rfl⟩
  case flush =>
    intro n tag asn c s h hvol hopen
    obtain ⟨t, ht, hc⟩ := exec_flush_ready h hvol hopen
    exact ⟨t, _, ht, hc, rfl, rfl, rfl⟩
  case release =>
    intro n tag asn c s h
    obtain ⟨t, ht, hc⟩ := exec_release_ready h
    exact ⟨t, _, ht, hc, rfl, rfl, rfl, rfl⟩
  case abort => exact fun _ _ _ _ _ _ _ => exec_abort_complete
  case recallRow => exact fun _ _ _ _ _ => exec_recall_ready
  case identify => exact fun _ _ _ _ _ => exec_identify_ready
  case keepalive => exact fun _ _ _ _ _ => exec_keepalive_ready
  case overlap => exact fun _ _ _ => exec_overlapRelease_read
  case barrier => exact fun _ _ _ _ => exec_orderedBarrierRelease_keepalive
  case timer => exact fun _ _ _ _ => exec_messageTimerExpiry_noCapsule

end Sys2Proof.Machine
end

section
/-!
PROOFS. Journal acknowledgements, commits, releases, the epoch timer and flash-confirmed mode (R56, R58, R77, R78, R82, R85).
-/
namespace Sys2Proof.Machine

theorem exec_journalWriteAck (off : Nat) (s : State) : exec (.journalWriteAck off) s = .next (settle (journalAck off s)) := rfl
theorem exec_commitUnitCommit (asn unit : Nat) (s : State) :
    exec (.commitUnitCommit asn unit) s = .next (settle (commitUnit asn unit s)) := rfl
theorem exec_journalRelease (asn unit : Nat) (s : State) :
    exec (.journalRelease asn unit) s = .next (settle (journalRelease asn unit s)) := rfl
theorem exec_epochTimerFire (s : State) : exec .epochTimerFire s = .next (settle (epochTimer s)) := rfl
theorem exec_holdOkFall (s : State) : exec .holdOkFall s = .next (settle (holdOkFall s)) := rfl
theorem exec_holdOkRise (s : State) : exec .holdOkRise s = .next (settle (holdOkRise s)) := rfl
theorem exec_flashConfirmedExit (s : State) : exec .flashConfirmedExit s = .next (settle (flashExit s)) := rfl

/-! ### The records of the own region (R56) -/

/-- The record at the offset is acknowledged. -/
theorem acked_of_mem_journalAck {off : Nat} {s : State} {r : OwnRec} (hr : r ∈ (journalAck off s).jrn.own) (hoff : r.r.off = off) :
    r.acked = true := by
  obtain ⟨q, -, rfl⟩ := List.mem_map.1 (show r ∈ s.jrn.own.map _ from hr)
  by_cases hq : q.r.off = off
  · simp [hq]
  · simp [hq] at hoff

/-- An acknowledgement changes no record's content. -/
theorem journalAck_records (off : Nat) (s : State) : (journalAck off s).jrn.own.map (·.r) = s.jrn.own.map (·.r) := by
  simp only [journalAck, modOwn, modWhere, List.map_map]
  refine List.map_congr_left fun r _ => ?_
  simp only [Function.comp_apply]
  split <;> rfl

/-! ### The commit of a unit (R57, R58) -/

section
variable {asn : Nat} {c : Cmd} {s : State}

/-- A unit that is ready is a unit of a command in step 3. -/
theorem running_of_commitReady {unit : Nat} (hc : cmdOf s asn = some c) (h : commitReady s asn unit = true) :
    c.stage = .running := by
  simp only [commitReady, hc] at h
  split at h
  · cases h
  · simp only [Bool.and_eq_true, decide_eq_true_eq, and_assoc] at h
    exact h.1

/-- A writer that succeeds has its outcome in its commit units, and no completion record is written. -/
theorem cmdOf_decide_writer {result : Nat} (hc : cmdOf s asn = some c) (hst : c.stage ≠ .decided) (hw : isWriter c = true) :
    cmdOf (decide_ asn .success result s) asn = some { c with stage := .decided, status := .success, result := result } := by
  have hw' : isWriter { c with stage := .decided, status := .success, result := result } = true := hw
  simp only [decide_, hc, if_neg hst, hw', true_and, if_true]
  exact (cmdOf_of_books (endTag_books ..) asn).trans (cmdOf_setCmd_self ..)

/-- What the map and the Dovecote do with a committed unit leaves the commands in progress as they are. -/
theorem indexed_books (p : State → ChunkWork → Prop) [∀ s, DecidablePred (p s)] (l : List ChunkWork) (s : State) :
    books (l.foldl (fun s w => if p s w then insertIndex w.fp w.serial w.domain s else s) s) = books s :=
  foldl_books (fun s w => by split <;> simp) l s

theorem applied_books (p : Prop) [Decidable p] (unit : Nat) (pins : List Nat) (s : State) :
    books (if p then deferUnit asn unit pins s else pins.foldl (fun s k => unpinChunk k s) (applyUnit asn unit s)) = books s := by
  split
  · exact deferUnit_books ..
  · exact (foldl_books (fun s k => unpinChunk_books k s) _ _).trans (applyUnit_books ..)

/-- The end of a commit: the unit's pins end (R188), and a writer with all its units committed succeeds. -/
def concludeUnit (asn unit : Nat) (s : State) : State :=
  let s := modCmd asn (fun c => { c with chunks := c.chunks.map (fun w =>
    if w.unit = unit then { w with pinned := none } else w) }) s
  match cmdOf s asn with
  | some c => if c.units.all (·.committed) then decide_ asn .success (writerResult c) (monEnd 4 asn c.volume s) else s
  | none => s

/-- A ready unit is committed, applied or deferred, and the commit is concluded. -/
theorem commitUnit_ready {unit : Nat} {u : CUnit} (hc : cmdOf s asn = some c) (hu : c.units[unit]? = some u)
    (hready : commitReady s asn unit = true) : ∃ b result, commitUnit asn unit s = concludeUnit asn unit b ∧
      cmdOf b asn = some { c with
        result := result
        units := c.units.set unit { u with committed := true, confirmed := s.jrn.flashMode } } := by
  simp only [commitUnit, hready, Bool.not_true, Bool.false_eq_true, if_false, hc, hu]
  refine ⟨_, c.result + if c.opcode = 4 then mappedBlocks s c.volume u.first u.blocks else 0, rfl, ?_⟩
  refine (cmdOf_of_books (applied_books ..) asn).trans ((cmdOf_of_books (indexed_books ..) asn).trans ?_)
  exact cmdOf_modCmd (s := s) _ hc

/-- A writer all of whose units are committed succeeds. -/
theorem cmdOf_concludeUnit {unit : Nat} (hc : cmdOf s asn = some c) (hst : c.stage ≠ .decided) (hw : isWriter c = true)
    (hall : c.units.all (·.committed) = true) : ∃ x, cmdOf (concludeUnit asn unit s) asn = some x ∧
      x.stage = .decided ∧ x.status = .success ∧ x.units = c.units := by
  have hd := cmdOf_modCmd (s := s) (fun c => { c with chunks := c.chunks.map (fun w =>
    if w.unit = unit then { w with pinned := none } else w) }) hc
  simp only [concludeUnit, hd, hall, if_true]
  exact ⟨_, cmdOf_decide_writer ((cmdOf_of_books (monEnd_books ..) asn).trans hd) hst hw, rfl, rfl, rfl⟩

/-- The one unit of a writer commits, and with it the command succeeds. -/
theorem cmdOf_commitUnit_single {u : CUnit} (hc : cmdOf s asn = some c) (hu : c.units = [u]) (hop : c.opcode = 1 ∨ c.opcode = 4)
    (hready : commitReady s asn 0 = true) : ∃ x y, cmdOf (commitUnit asn 0 s) asn = some x ∧ x.stage = .decided ∧
      x.status = .success ∧ x.units = [y] ∧ y.committed = true := by
  have hst : c.stage ≠ .decided := by simp [running_of_commitReady hc hready]
  have hw : isWriter c = true := by simpa [isWriter] using hop
  obtain ⟨b, result, hcommit, hb⟩ := commitUnit_ready (unit := 0) (u := u) hc (by simp [hu]) hready
  obtain ⟨x, hx, hstage, hstatus, hunits⟩ := cmdOf_concludeUnit (unit := 0) hb hst hw (by simp [hu])
  rw [hcommit]
  exact ⟨x, _, hx, hstage, hstatus, hunits.trans (by simp [hu]; rfl), rfl⟩

end

/-! ### The release of a unit (R58, R85) -/

theorem journalRelease_mirror {asn unit : Nat} {u : UnitBook} {s : State}
    (hfind : s.jrn.units.find? (fun u => decide (u.asn = asn ∧ u.unit % adopted = unit) && releaseReady s u) = some u)
    (hup : s.jrn.restart = .none) (hm : u.mirror = true) :
    journalRelease asn unit s = { s with jrn := { s.jrn with
      drain := tfilter (fun _ d => decide (d ≠ (asn, u.unit))) s.jrn.drain
      mirror := s.jrn.mirror.filter (fun r => !u.recs.contains r.off)
      units := s.jrn.units.filter (fun v => !(decide (v.asn = asn) && decide (v.unit = u.unit))) } } := by
  simp only [journalRelease, hfind, hup, hm, ne_eq, not_true_eq_false, if_false, if_true]

theorem journalRelease_own {asn unit : Nat} {u : UnitBook} {s : State}
    (hfind : s.jrn.units.find? (fun u => decide (u.asn = asn ∧ u.unit % adopted = unit) && releaseReady s u) = some u)
    (hup : s.jrn.restart = .none) (hm : u.mirror = false) :
    journalRelease asn unit s = drainRecs (((unitRecs s asn unit).filter (fun r => !r.drained)).map (·.r.off)) asn unit
      { s with jrn := { s.jrn with drain := tfilter (fun _ d => decide (d ≠ (asn, u.unit))) s.jrn.drain } } := by
  simp only [journalRelease, hfind, hup, hm, ne_eq, not_true_eq_false, Bool.false_eq_true, if_false]
  rfl

/-! ### The epoch timer (R77, R78) -/

/-- A writer that waits on a later one belongs to the next epoch. -/
def movedOn (s : State) (asn : Nat) (c : Cmd) : Cmd :=
  if asn ∈ movers s then { c with epoch := s.jrn.epoch.number + 1 } else c

theorem epochTimer_running {s : State} (hstep : s.jrn.epoch.step = 0) (hserve : s.jrn.serving = true)
    (hup : s.jrn.restart = .none) (hstop : s.jrn.stopped = false) : epochTimer s = { s with jrn := { s.jrn with
      cmds := tmap (movedOn s) s.jrn.cmds
      epoch := { s.jrn.epoch with step := 2, stamp := s.mons.stamp } } } := by
  simp only [epochTimer, hstep, hserve, hup, hstop]
  rfl

/-! ### Flash-confirmed mode (R82) -/

theorem holdOkFall_enters {s : State} (h : s.jrn.flashMode = false) : holdOkFall s = record 0x04 5 2 .none [] { s with
      ghx := { s.ghx with holdOk := false }
      jrn := { s.jrn with flashMode := true, holdHigh := false } } := by
  simp only [holdOkFall, h, Bool.false_eq_true, if_false, note]

theorem flashExit_drained {s : State} (hpin : s.jrn.holdHigh = true) (hok : s.ghx.holdOk = true)
    (hconf : s.dram.flashConf = false) (hfit : s.ghx.keepUnfit = false)
    (hunits : ∀ u ∈ s.jrn.units, u.flashMode = true → u.serials.all (drained s) = true) :
    flashExit s = { s with jrn := { s.jrn with flashMode := false } } := by
  have hall : s.jrn.units.all (fun u => !u.flashMode || u.serials.all (drained s)) = true :=
    List.all_eq_true.2 fun u hu => by
      cases hf : u.flashMode
      · rfl
      · simpa using hunits u hu hf
  unfold flashExit
  exact if_pos ⟨hpin, hok, by simp [hconf], by simp [hfit], hall⟩

/-- Settles O23, a clause of the obligation per transition lemma above. -/
theorem journalCommitsAndEpochs : Obligations.JournalCommitsAndEpochs := by
  unfold Obligations.JournalCommitsAndEpochs
  refine ⟨?ack, ?commit, ?releaseMirror, ?releaseOwn, ?timer, ?fall, ?fallAgain, ?rise, ?leave⟩
  case ack =>
    intro off s
    exact ⟨_, exec_journalWriteAck off s, fun r => acked_of_mem_journalAck, journalAck_records off s, rfl⟩
  case commit =>
    intro asn c u s hc hu hop hready
    obtain ⟨x, y, h⟩ := cmdOf_commitUnit_single hc hu hop hready
    exact ⟨_, x, y, exec_commitUnitCommit asn 0 s, h⟩
  case releaseMirror =>
    intro asn unit u s hfind hup hm
    refine ⟨_, exec_journalRelease asn unit s, ?_⟩
    rw [journalRelease_mirror hfind hup hm]
    exact ⟨rfl, rfl, rfl⟩
  case releaseOwn =>
    intro asn unit u s hfind hup hm
    rw [exec_journalRelease, journalRelease_own hfind hup hm]
  case timer =>
    intro s hstep hserve hup hstop
    refine ⟨_, exec_epochTimerFire s, ?_⟩
    rw [epochTimer_running hstep hserve hup hstop]
    exact ⟨rfl, tget_tmap (movedOn s) s.jrn.cmds, rfl⟩
  case fall =>
    intro s h
    exact ⟨_, by rw [exec_holdOkFall, holdOkFall_enters h], rfl, rfl, rfl, rfl⟩
  case fallAgain =>
    intro s h
    rw [exec_holdOkFall]
    simp only [holdOkFall, h, if_true]
  case rise => exact exec_holdOkRise
  case leave =>
    intro s hpin hok hconf hfit hunits
    rw [exec_flashConfirmedExit, flashExit_drained hpin hok hconf hfit hunits]

end Sys2Proof.Machine
end

section
/-!
PROOFS. Power-fail, compaction and restart (R86, R87, R88, R91, R408 to R410, R426; Tables 3.8, 3.10 and 15.7).
-/
namespace Sys2Proof.Machine

theorem exec_pwrFailFall (s : State) : exec .pwrFailFall s = .next (settle (pwrFailFall s)) := rfl
theorem exec_pwrFailRise (s : State) : exec .pwrFailRise s = .next (settle (pwrFailRise s)) := rfl
theorem exec_keepOkFall (s : State) : exec .keepOkFall s = .next (settle (keepOkFall s)) := rfl
theorem exec_compactionCopyDone (s : State) : exec .compactionCopyDone s = .next (settle (compactionDone s)) := rfl
theorem exec_restartPeerWaitExpiry (s : State) : exec .restartPeerWaitExpiry s = .next (settle (peerWaitExpiry s)) := rfl
theorem exec_restartReplayDone (s : State) : exec .restartReplayDone s = .next (settle (replayDone s)) := rfl

/-! ### The fall and the rise of PWR_FAIL_N (R408, R410, Table 15.7) -/

section
variable {s : State}

theorem pwrFailFall_serve (hcomp : s.jrn.compacting = false) (hst : s.gh.state = .serve) (hboot : s.ghx.boot = .none)
    (htrans : s.ghx.trans = .none) (hup : s.jrn.restart = .none) :
    pwrFailFall s = beginCompaction { s with ghx := { s.ghx with pwrFail := true } } := by
  simp [pwrFailFall, hcomp, hst, hboot, htrans, hup]

theorem pwrFailFall_watch (hcomp : s.jrn.compacting = false) (hst : s.gh.state = .watch) (hboot : s.ghx.boot = .none)
    (htrans : s.ghx.trans = .none) (hup : s.jrn.restart = .none) :
    pwrFailFall s = darkNoWork { s with ghx := { s.ghx with pwrFail := true } } := by
  simp [pwrFailFall, hcomp, hst, hboot, htrans, hup]

theorem pwrFailFall_noted (h : s.jrn.compacting = true ∨ s.gh.state = .icehouse ∨
    (s.gh.state = .dormant ∧ s.ghx.boot = .none ∧ s.ghx.trans = .none ∧ s.jrn.restart = .none)) :
    pwrFailFall s = { s with ghx := { s.ghx with pwrFail := true } } := by
  obtain hcomp | hice | ⟨hst, hboot, htrans, hup⟩ := h
  · exact if_pos (.inl hcomp)
  · exact if_pos (.inr hice)
  · simp [pwrFailFall, hst, hboot, htrans, hup]

theorem pwrFailRise_icehouse (hst : s.gh.state = .icehouse) :
    pwrFailRise s = iceLeave { s with ghx := { s.ghx with pwrFail := false, keepOk := true } } := if_pos hst

theorem pwrFailRise_serve (hst : s.gh.state = .serve) :
    pwrFailRise s = { s with ghx := { s.ghx with pwrFail := false, keepOk := true } } := by
  simp [pwrFailRise, hst]

theorem keepOkFall_latched (h : s.jrn.compacting = true ∨ s.gh.state = .icehouse) : keepOkFall s = { s with
    ghx := { s.ghx with keepOk := false }
    gh := { s.gh with keepFell := true } } := if_pos h

theorem keepOkFall_noted (hst : s.gh.state ≠ .icehouse) (hcomp : s.jrn.compacting = false) :
    keepOkFall s = { s with ghx := { s.ghx with keepOk := false } } := by
  simp [keepOkFall, hst, hcomp]

end

/-! ### The entry to Icehouse keeps the keep area and the level of PWR_FAIL_N (R87, R88, R409) -/

@[simp] theorem setAvsQ_books (b : Nat) (q : List AvsOp) (s : State) : books (setAvsQ b q s) = books s := by
  simp only [setAvsQ]
  split <;> rfl

@[simp] theorem avsSend_books (b : Nat) (s : State) : books (avsSend b s) = books s := by
  unfold avsSend
  split <;> simp

@[simp] theorem pushAvs_books (r target : Nat) (why : AvsFor) (s : State) : books (pushAvs r target why s) = books s := by
  simp [pushAvs, apply_ite books]

@[simp] theorem railsOff_books (s : State) : books (railsOff s) = books s := by
  refine (foldl_books (fun s r => ?_) _ _).trans rfl
  split <;> simp

@[simp] theorem dramIce_books (s : State) : books (dramIce s) = books s := foldl_books (fun _ _ => setDmc_books ..) _ _

/-- What the end of a session disables of the claims of classes 0 to 2 is pins and timers of the Gatehouse. -/
theorem disableRes_books {cls : Nat} (h : cls ≤ 2) (bits : BitVec 3) (idx : Nat) (s : State) :
    books (disableRes bits cls idx s) = books s := by
  interval_cases cls <;> rfl

@[simp] theorem dropClaim_books (cls idx : Nat) (s : State) : books (dropClaim cls idx s) = books s := by
  unfold dropClaim
  split <;> rfl

theorem releaseClaim_books {key : Nat} (h : key / 65536 ≤ 2) (s : State) : books (releaseClaim key s) = books s := by
  simp [releaseClaim, apply_ite books, disableRes_books h]

theorem releaseClaims_books {keys : List Nat} (h : ∀ k ∈ keys, k / 65536 ≤ 2) (s : State) :
    books (keys.foldl (fun s k => releaseClaim k s) s) = books s := by
  induction keys generalizing s with
  | nil => rfl
  | cons k keys ih =>
    rw [List.foldl_cons, ih fun j hj => h j (List.mem_cons_of_mem _ hj), releaseClaim_books (h k List.mem_cons_self)]

@[simp] theorem unforce_books (op : Nat) (s : State) : books (unforce op s) = books s := rfl
@[simp] theorem qosLapse_books (s : State) : books (qosLapse s) = books s := rfl

@[simp] theorem avsLapse_books (s : State) : books (avsLapse s) = books s := by
  unfold avsLapse
  split
  · exact unforce_books ..
  · refine (foldl_books (fun s r => ?_) _ _).trans (unforce_books ..)
    split <;> simp

@[simp] theorem wakeLapse_books (s : State) : books (wakeLapse s) = books s := by
  unfold wakeLapse
  split <;> rfl

@[simp] theorem sessionLost_books (s : State) : books (sessionLost s) = books s := by
  unfold sessionLost
  split
  · rfl
  · simp only [wakeLapse_books, avsLapse_books, qosLapse_books]
    refine releaseClaims_books (fun k hk => ?_) s
    obtain ⟨e, he, rfl⟩ := List.mem_map.1 hk
    exact (of_decide_eq_true (List.mem_filter.1 he).2).2

/-- The commands in progress go; the rest of these figures stays. -/
theorem dropWork_books (s : State) : (books (dropWork s)).2 = (books s).2 := by
  have hunits := foldl_books (f := fun s (u : UnitBook) => if u.applied ∨ u.mirror then s else applyUnit u.asn u.unit s)
    (fun s u => by split <;> simp) s.jrn.units s
  refine (congrArg Prod.snd (foldl_books (fun s k => freeIfDead_books 4096 k s) _ _)).trans ?_
  exact (congrArg Prod.snd hunits :)

@[simp] theorem shutBands_books (s : State) : books (shutBands s) = books s := by
  refine foldl_books (fun s g => ?_) _ _
  split
  · rfl
  · refine (books_update rfl rfl rfl rfl rfl rfl).trans ?_
    refine (foldl_books (fun s e => ?_) _ _).trans (foldl_books (fun _ _ => modRow_books ..) _ _)
    simp only
    split <;> simp

theorem lodgeReset_books (s : State) : (books (shutBands (dropWork (sessionLost s)))).2 = (books s).2 := by
  rw [shutBands_books, dropWork_books, sessionLost_books]

theorem keep_lodgeReset (dram : Bool) (s : State) : (lodgeReset dram s).jrn.keep = s.jrn.keep :=
  congrArg (·.2.1) (lodgeReset_books s)

theorem pwrFail_lodgeReset (dram : Bool) (s : State) : (lodgeReset dram s).ghx.pwrFail = s.ghx.pwrFail :=
  congrArg (·.2.2.2.1) (lodgeReset_books s)

theorem keep_iceDown (s : State) : (iceDown s).jrn.keep = s.jrn.keep := by
  simp only [iceDown, enterState]
  rw [keep_of_books (dramIce_books _), keep_lodgeReset, keep_of_books (railsOff_books s)]

theorem pwrFail_iceDown (s : State) : (iceDown s).ghx.pwrFail = s.ghx.pwrFail := by
  simp only [iceDown, enterState]
  rw [pwrFail_of_books (dramIce_books _), pwrFail_lodgeReset, pwrFail_of_books (railsOff_books s)]

theorem state_iceDown (s : State) : (iceDown s).gh.state = .icehouse := by
  simp only [iceDown, enterState]

theorem boot_iceDown (s : State) : (iceDown s).ghx.boot = .icehouse := by
  simp only [iceDown, enterState]

/-- The keep area is written, and Icehouse is entered and left at once where PWR_FAIL_N has risen. -/
theorem compactionDone_compacting {s : State} (h : s.jrn.compacting = true) :
    ∃ t, compactionDone s = (if s.ghx.pwrFail = true then t else iceLeave t) ∧ t.gh.state = .icehouse ∧
      t.jrn.keep = some (keepNow s) ∧ t.ghx.boot = .icehouse := by
  let u := { s with jrn := { s.jrn with keep := some (keepNow s) } }
  have hdone : compactionDone s = if (iceDown u).ghx.pwrFail = true then iceDown u else iceLeave (iceDown u) := by
    unfold compactionDone
    rw [if_neg (by simp [h])]
  refine ⟨iceDown u, ?_, state_iceDown u, keep_iceDown u, boot_iceDown u⟩
  rw [hdone, pwrFail_iceDown]

/-! ### A restart without the peer (R91, R426) -/

/-- The shelves' groups change no pin. -/
theorem assertGood_ghx (s : State) : (assertGood s).ghx = s.ghx := by
  refine foldl_keeps State.ghx (fun s g => ?_) _ _
  simp only
  split
  · exact (congrArg State.ghx (powerGroup_offPorts ..) :)
  · rfl

theorem fenceOut_goAlone (s : State) : (goAlone s).ghx.fenceOut = (s.ghx.fenceOut || !s.ghx.fenceIn) := by
  simp only [goAlone, apply_ite State.ghx, assertGood_ghx, ite_self]

/-! ### The replay of the own region keeps the epoch and the state of the pair (R88) -/

@[simp] theorem indexUnit_books (recs : List JRec) (asn unit : Nat) (s : State) : books (indexUnit recs asn unit s) = books s := by
  refine foldl_books (fun s r => ?_) _ _
  split
  · simp only
    split <;> simp
  · rfl

/-- A figure of the state beside a running sum is kept by a fold that keeps it at each step. -/
theorem foldl_snd_books {α : Type} {f : Nat × State → α → Nat × State} (hf : ∀ acc a, books (f acc a).2 = books acc.2)
    (l : List α) (acc : Nat × State) : books (l.foldl f acc).2 = books acc.2 :=
  foldl_keeps (fun acc : Nat × State => books acc.2) hf l acc

@[simp] theorem replayCmd_books (asn : Nat) (us : List Nat) (s : State) : books (replayCmd asn us s) = books s := by
  simp only [replayCmd]
  split
  · rfl
  split
  · generalize hacc : List.foldl _ (0, s) _ = acc
    have hbooks : books acc.2 = books s := by
      rw [← hacc]
      refine foldl_snd_books (fun acc u => ?_) _ _
      repeat' split
      all_goals simp
    obtain ⟨sum, t⟩ := acc
    simp only [apply_ite books, apply_ite Prod.snd, enterReplay_books, draw_books, books_update, hbooks, ite_self]
  · rfl

@[simp] theorem dropDiscarded_books (s : State) : books (dropDiscarded s) = books s := by
  refine foldl_books (fun s u => ?_) _ _
  split <;> simp

@[simp] theorem redrain_books (s : State) : books (redrain s) = books s := rfl

@[simp] theorem replayOwn_books (s : State) : books (replayOwn s) = books s := by
  simp only [replayOwn, redrain_books, dropDiscarded_books]
  refine (foldl_books (fun _ _ => replayCmd_books ..) _ _).trans ?_
  refine (foldl_books (fun s r => ?_) _ _).trans (foldl_books (fun _ _ => indexUnit_books ..) _ _)
  split
  · exact setOwner_books ..
  · rfl

/-- The replay ends in serving, with an epoch past the one the head had, but for a head that goes on alone. -/
theorem replayDone_replay {s : State} (h : s.jrn.restart = .replay) : ∃ t, replayDone s = remirror (restoreHolds t) ∧
    t.jrn.restart = .none ∧ t.jrn.serving = true ∧ t.jrn.stopped = false ∧ t.jrn.keep = none ∧ t.jrn.epoch.step = 0 ∧
    (s.pair.state ≠ 4 → s.jrn.epoch.number < t.jrn.epoch.number) ∧ t.gh.keepFell = false ∧
    t.map.serial = t.map.ckpt.serialHigh + 2 ^ 32 := by
  refine ⟨_, if_neg (not_not.2 h), rfl, rfl, rfl, rfl, rfl, fun hpair => ?_, rfl, rfl⟩
  have hpeer : (replayOwn s).pair.state ≠ 4 := by rwa [pairState_of_books (replayOwn_books s)]
  simp only [hpeer, decide_false, Bool.false_eq_true, if_false, epoch_of_books (replayOwn_books s)]
  exact Nat.lt_succ_of_le (le_max_left ..)

/-- Settles O28: each event of power by its branch; `iceDown` and `replayOwn` keep the figures they are asked for. -/
theorem powerFailAndRestart : Obligations.PowerFailAndRestart := by
  unfold Obligations.PowerFailAndRestart
  refine ⟨?fallServe, ?fallWatch, ?fallNoted, ?copied, ?riseIce, ?riseServe, ?keepLatched, ?keepNoted, ?alone, ?noAlone,
    ?replayed⟩
  case fallServe =>
    intro s hcomp hst hboot htrans hup
    rw [exec_pwrFailFall, pwrFailFall_serve hcomp hst hboot htrans hup]
    exact ⟨_, rfl, rfl, rfl, rfl, rfl, rfl, rfl, rfl⟩
  case fallWatch =>
    intro s hcomp hst hboot htrans hup
    rw [exec_pwrFailFall, pwrFailFall_watch hcomp hst hboot htrans hup]
  case fallNoted =>
    intro s h
    rw [exec_pwrFailFall, pwrFailFall_noted h]
  case copied =>
    intro s h
    obtain ⟨t, ht, hkept⟩ := compactionDone_compacting h
    exact ⟨t, by rw [exec_compactionCopyDone, ht], hkept⟩
  case riseIce =>
    intro s hst
    rw [exec_pwrFailRise, pwrFailRise_icehouse hst, iceLeave]
    exact ⟨_, rfl, rfl, rfl, rfl⟩
  case riseServe =>
    intro s hst
    rw [exec_pwrFailRise, pwrFailRise_serve hst]
  case keepLatched =>
    intro s h
    rw [exec_keepOkFall, keepOkFall_latched h]
  case keepNoted =>
    intro s hst hcomp
    rw [exec_keepOkFall, keepOkFall_noted hst hcomp]
  case alone =>
    intro s h
    exact ⟨goAlone s, by simp only [exec_restartPeerWaitExpiry, peerWaitExpiry, h, note], rfl, rfl, rfl, fenceOut_goAlone s⟩
  case noAlone =>
    intro s h
    simp only [exec_restartPeerWaitExpiry, peerWaitExpiry, h, note]
  case replayed =>
    intro s h
    obtain ⟨t, ht, hdone⟩ := replayDone_replay h
    exact ⟨t, by rw [exec_restartReplayDone, ht], hdone⟩

end Sys2Proof.Machine
end

-- Proofs of the statements on the Footbridge and the pair (chapter 04).
section
/-!
PROOFS. What sending over the Footbridge changes (R98, R99), and how a handover begins (R114).
-/
namespace Sys2Proof.Machine

/-! ### Sending -/

/-- The frames of a message's segments, as they leave its ports. -/
def framesOf (type id len : Nat) (payload : Bytes) (segs : List (Nat × Nat × Nat × Nat × Nat)) : List Out :=
  segs.map (fun g => .ftbFrame g.1 (ftbFrame type id len payload g))

theorem sendFrames_eq (type id len : Nat) (payload : Bytes) (segs : List (Nat × Nat × Nat × Nat × Nat)) (s : State) :
    sendFrames type id len payload segs s = { s with out := s.out ++ framesOf type id len payload segs } := by
  unfold sendFrames
  induction segs generalizing s with
  | nil => simp [framesOf]
  | cons g segs ih => rw [List.foldl_cons, ih]; simp [emit, framesOf]

/-- Dealing segments moves the ports' sequence numbers and the turn alone. -/
theorem dealSegs_frame (cls k off len : Nat) (s : State) : ∃ ps n, (dealSegs cls k off len s).2 =
    { s with ftb := { s.ftb with ports := ps, turn := n } } := by
  induction k generalizing off len s with
  | zero => exact ⟨_, _, rfl⟩
  | succ k ih =>
    unfold dealSegs
    split
    · exact ⟨_, _, rfl⟩
    · dsimp only
      split
      · exact ⟨_, _, rfl⟩
      · obtain ⟨ps, n, h⟩ := ih (off + min len 9088) (len - min len 9088) _
        exact ⟨ps, n, by rw [h]; rfl⟩

/-- A message is cut into at least one segment exactly where a port is up to take it. -/
theorem dealSegs_eq_nil {cls k off len : Nat} {s : State} : (dealSegs cls (k + 1) off len s).1 = [] ↔ upPorts s = [] := by
  unfold dealSegs
  split <;> simp_all

/-- The message as it stands among those sent and not receipted. -/
def sentMsg (type len : Nat) (offs : List Nat) (body : FtbOut) (segs : List (Nat × Nat × Nat × Nat × Nat)) : FMsg :=
  { type := type, len := len, segs := segs, offs := offs, body := body }

/-- A message that is no MIRROR is held under the next message number, and leaves where a port is up. -/
theorem ftbSend_eq {type : Nat} (ht : type ≠ 3) (cls len : Nat) (offs : List Nat) (mk : Nat → FtbOut) (s : State) :
    ∃ ps n segs, (segs = [] ↔ upPorts s = []) ∧ ftbSend type cls len offs mk s = (s.ftb.nextId, { s with
      ftb := { s.ftb with
        ports := ps
        turn := n
        nextId := s.ftb.nextId + 1
        sent := tset s.ftb.sent s.ftb.nextId (sentMsg type len offs (mk s.ftb.nextId) segs) }
      out := s.out ++ if segs = [] then [] else
        .ftb (mk s.ftb.nextId) :: framesOf type s.ftb.nextId len (ftbPayload (mk s.ftb.nextId)) segs }) := by
  obtain ⟨ps, n, hs⟩ := dealSegs_frame cls (len / 9088 + 1) 0 len s
  refine ⟨ps, n, (dealSegs cls (len / 9088 + 1) 0 len s).1, dealSegs_eq_nil, ?_⟩
  simp only [ftbSend]
  generalize dealSegs cls (len / 9088 + 1) 0 len s = d at hs ⊢
  obtain ⟨segs, t⟩ := d
  obtain rfl := hs
  by_cases hnil : segs = []
  · simp [hnil, sentMsg]
  · simp [hnil, ht, sendFrames_eq, emit, sentMsg]

/-! ### The start of a handover (R114) -/

/-- Settles O17: `relinquish` is held and sent as `ftbSend_eq` says, and the handover is noted in the pair. -/
theorem handoverBeginsWithRelinquish : Obligations.HandoverBeginsWithRelinquish := by
  unfold Obligations.HandoverBeginsWithRelinquish
  intro vols fence op job s
  obtain ⟨ps, n, segs, hsegs, hsend⟩ := ftbSend_eq (by decide : 6 ≠ 3) 0 (handoverLen (.relinquish vols)) []
    (fun _ => .handover (.relinquish vols)) s
  refine ⟨_, sentMsg 6 (handoverLen (.relinquish vols)) [] (.handover (.relinquish vols)) segs,
    by rw [startHandover, sendHandover, hsend], rfl, tget_tset_self .., rfl, rfl, rfl, fun hup => ?down, fun hup => ?up, rfl⟩
  case down => simp [hsegs.2 hup]
  case up => simp [mt hsegs.1 hup]

end Sys2Proof.Machine
end

section
/-!
PROOFS. The commands that set budgets, policies, deadlines, credit windows, domains of protection and migration windows (R117,
R158, R177, R241, R242, R280, R366).
-/
namespace Sys2Proof.Machine

theorem exec_pwrBudgetSet (n : Fin 64) (s : State) :
    exec (.pwrBudgetSet n) s = .next (settle (basmos n 0x0300 (layoutIs 16 [(5, 11)]) pwrBudgetSetH s)) := rfl

theorem exec_plcPolicy (n : Fin 64) (s : State) :
    exec (.plcPolicy n) s = .next (basmos n 0x0400 (layoutIs 32 [(24, 8)]) plcPolicyH s) := rfl

theorem exec_mediaPolicy (n : Fin 64) (s : State) :
    exec (.mediaPolicy n) s = .next (basmos n 0x0501 (layoutIs 16 []) mediaPolicyH s) := rfl

theorem exec_dramQosSet (n : Fin 64) (s : State) :
    exec (.dramQosSet n) s = .next (basmos n 0x0612 (layoutIs 8 [(1, 3)]) dramQosSetH s) := rfl

theorem exec_creditSet (n : Fin 64) (s : State) :
    exec (.creditSet n) s = .next (basmos n 0x0A11 creditSetLayout creditSetH s) := rfl

theorem exec_pdConfig (n : Fin 64) (s : State) :
    exec (.pdConfig n) s = .next (basmos n 0x0A02 pdConfigLayout pdConfigH s) := rfl

theorem exec_migrationWindow (n : Fin 64) (s : State) :
    exec (.migrationWindow n) s = .next (settle (basmos n 0x0B11 (layoutIs 20 []) migrationWindowH s)) := rfl

/-! ### Policies in the array record (R241, R242, R280) -/

theorem pwrBudgetSetH_enters {p : Bytes} {s : State} (hb : minBudget s s.pair.arr.home ≤ fieldLE p 0 4)
    (hlo : 10 ≤ fieldLE p 4 1) (hhi : fieldLE p 4 1 ≤ 90) : pwrBudgetSetH p s =
      (.now (.ok (leN 4 (homeReserve s s.pair.arr.home) ++ leN 4 (minBudget s s.pair.arr.home))),
        note 3 9 0 (changeArray (fun r => { r with budget := some (fieldLE p 0 4), shareA := fieldLE p 4 1 }) s)) :=
  if_neg (by omega)

/-- The placement policy that a PLC_POLICY payload holds. -/
def plcPolicyOf (b : Bytes) : PlcPolicy := {
  staging := (byteAt b 1).getLsbD 0, minAwakeS := fieldLE b 2 2, idleCloseS := fieldLE b 4 2, batchMs := fieldLE b 6 2
  readWaitS := fieldLE b 8 2, recallHoldH := fieldLE b 10 2, stageLimitGib := fieldLE b 12 4, retentionDays := fieldLE b 16 2
  fillPct := fieldLE b 18 1, homeHotPct := fieldLE b 19 1, hotThreshold := fieldLE b 20 1, transitPct := fieldLE b 21 1
  deferGib := fieldLE b 22 2 }

/-- The values of a placement policy lie in their ranges. -/
def plcPolicyFits (b : Bytes) : Prop :=
  (byteAt b 1).toNat < 2 ∧ within 10 3600 (fieldLE b 2 2) = true ∧ within 0 3600 (fieldLE b 4 2) = true ∧
    within 0 5000 (fieldLE b 6 2) = true ∧ within 5 300 (fieldLE b 8 2) = true ∧ within 1 720 (fieldLE b 10 2) = true ∧
    within 0 4096 (fieldLE b 12 4) = true ∧ within 7 365 (fieldLE b 16 2) = true ∧ within 50 98 (fieldLE b 18 1) = true ∧
    within 0 80 (fieldLE b 19 1) = true ∧ within 1 255 (fieldLE b 20 1) = true ∧ within 0 10 (fieldLE b 21 1) = true ∧
    within 64 16384 (fieldLE b 22 2) = true

theorem plcPolicyH_enters {b : Bytes} {s : State} (hop : fieldLE b 0 1 = 1) (h : plcPolicyFits b) : plcPolicyH b s =
    (.now (.ok (policyBytes 1 (plcPolicyOf b))), note 4 9 0 (changeArray (fun r => { r with plc := plcPolicyOf b }) s)) := by
  have hset : ¬fieldLE b 0 1 = 0 := by omega
  simp only [plcPolicyH, if_neg hset]
  exact if_pos ⟨hop, h⟩

/-- The media policy that a MEDIA_POLICY payload holds. -/
def mediaPolicyOf (b : Bytes) : MediaPolicy := {
  gcReservePct := fieldLE b 1 1, gcStartPct := fieldLE b 2 1, verifyPct := fieldLE b 3 1, refreshPct := fieldLE b 4 1
  checkpointS := fieldLE b 5 1, wearSpread := fieldLE b 6 2, disturbLimit := fieldLE b 8 4, mapCacheGib := fieldLE b 12 4 }

/-- The values of a media policy lie in their ranges. -/
def mediaPolicyFits (s : State) (b : Bytes) : Prop :=
  within 1 10 (fieldLE b 1 1) = true ∧ within 2 20 (fieldLE b 2 1) = true ∧ fieldLE b 1 1 ≤ fieldLE b 2 1 ∧
    within 10 50 (fieldLE b 3 1) = true ∧ within 30 80 (fieldLE b 4 1) = true ∧ fieldLE b 3 1 < fieldLE b 4 1 ∧
    within 10 60 (fieldLE b 5 1) = true ∧ within 20 1000 (fieldLE b 6 2) = true ∧
    within 1000 100000 (fieldLE b 8 4) = true ∧ (fieldLE b 12 4 = 0 ∨ within 16 (mapCacheMax s) (fieldLE b 12 4) = true)

theorem mediaPolicyH_enters {b : Bytes} {s : State} (hop : fieldLE b 0 1 = 1) (h : mediaPolicyFits s b) : mediaPolicyH b s =
    (.now (.ok (mediaPolicyBytes 1 (mediaPolicyOf b))),
      note 5 9 0 (changeArray (fun r => { r with media := mediaPolicyOf b }) s)) := by
  have hset : ¬fieldLE b 0 1 = 0 := by omega
  simp only [mediaPolicyH, if_neg hset]
  exact if_pos ⟨hop, h⟩

/-! ### Deadlines of the DRAM ports (R366) -/

/-- The DRAM with port's deadline set to ns nanoseconds, or to its reset value where ns is 0. -/
def withDeadline (port ns : Nat) (s : State) : State :=
  { s with dram := { s.dram with
    qos := s.dram.qos.set port (if ns = 0 then qosReset.getD port 0 else ns / 100)
    qosSet := if ns = 0 then s.dram.qosSet.filter (· ≠ port) else port :: s.dram.qosSet.filter (· ≠ port) } }

theorem mem_qosSet_withDeadline {port ns : Nat} {s : State} : port ∈ (withDeadline port ns s).dram.qosSet ↔ ns ≠ 0 := by
  by_cases h : ns = 0 <;> simp [withDeadline, h]

theorem dramQosSetH_sets {p : Bytes} {s : State} (hport : fieldLE p 0 1 < 16) (h1 : fieldLE p 0 1 ≠ 1) (h4 : fieldLE p 0 1 ≠ 4)
    (h5 : fieldLE p 0 1 ≠ 5) (hns : fieldLE p 4 4 = 0 ∨ 1000 ≤ fieldLE p 4 4 ∧ fieldLE p 4 4 ≤ 1000000) :
    dramQosSetH p s = (.now (.ok (leN 4 (s.dram.qos.getD (fieldLE p 0 1) 0 * 100))),
      withDeadline (fieldLE p 0 1) (fieldLE p 4 4) s) := by
  have hopen : ¬(fieldLE p 0 1 = 1 ∨ fieldLE p 0 1 = 4 ∨ fieldLE p 0 1 = 5) := by omega
  have hrange : ¬(fieldLE p 4 4 ≠ 0 ∧ (fieldLE p 4 4 < 1000 ∨ 1000000 < fieldLE p 4 4)) := by omega
  simp only [dramQosSetH, if_neg (Nat.not_le.2 hport), if_neg hopen, if_neg hrange, withDeadline]
  split <;> rfl

/-! ### Credit windows (R177) -/

theorem creditSetH_default {p : Bytes} {s : State} (h : fieldLE p 0 1 = 0) : creditSetH p s = (.now .ok, force 0x0A11
    (if fieldLE p 4 4 = 0 then { s with lat := { s.lat with defWin := if fieldLE p 1 1 = 0 then 256 else fieldLE p 1 1 } }
      else setCap (fieldLE p 4 4)
        { s with lat := { s.lat with defWin := if fieldLE p 1 1 = 0 then 256 else fieldLE p 1 1 } })) :=
  if_pos h

/-- A queue with its credit window set to w, its outstanding grant no wider (R168). -/
def withWindow (id c w : Nat) (s : State) : State :=
  { s with lat := { s.lat with
    qps := tset s.lat.qps c { qpOf s c with creditWin := w, granted := min (qpOf s c).granted w }
    windowOff := id :: s.lat.windowOff.filter (· ≠ id) } }

theorem creditSetH_queue {p : Bytes} {s : State} {c : Nat} (h : fieldLE p 0 1 ≠ 0) (hc : connOf s (fieldLE p 8 8) = some c)
    (hplain : (qpOf s c).plain = false) : creditSetH p s = (.now .ok, force 0x0A11
      (withWindow (fieldLE p 8 8) c (if fieldLE p 1 1 = 0 then 256 else fieldLE p 1 1) s)) := by
  simp only [creditSetH, if_neg h, hc, if_neg (ne_true_of_eq_false hplain)]
  rfl

/-! ### Domains of protection (R158) -/

/-- The domain of protection that a PD_CONFIG payload describes. -/
def pdOf (p : Bytes) : Pd := {
  gcm := (fieldLE p 2 1).testBit 0
  plain := (fieldLE p 2 1).testBit 1
  ranges := (List.range (fieldLE p 3 1)).map (fun i => (fieldLE p (16 + 8 * i) 4, fieldLE p (20 + 8 * i) 4))
  pageLimit := fieldLE p 4 4 }

theorem pdConfigH_enters {p : Bytes} {s : State} (h : (fieldLE p 2 1).testBit 7 = false) : pdConfigH p s =
    (.now .ok, note 0x0A 9 1 { s with lat := { s.lat with pds := tset s.lat.pds (fieldLE p 0 2) (pdOf p) } }) := by
  simp only [pdConfigH, h, Bool.false_eq_true, if_false]
  rfl

theorem pdConfigH_deletes {p : Bytes} {s : State} (h : (fieldLE p 2 1).testBit 7 = true)
    (hfree : (tvals s.lat.qps).any (fun q => decide (q.pd = fieldLE p 0 2 ∧ q.st ≠ .free)) = false) : pdConfigH p s =
    (.now .ok, note 0x0A 9 1 { s with lat := { s.lat with pds := terase s.lat.pds (fieldLE p 0 2) } }) := by
  simp only [pdConfigH, h, hfree, Bool.false_eq_true, if_false, if_true]

/-! ### Migration windows (R117) -/

theorem migrationWindowH_opens {p : Bytes} {s : State} (hpos : 0 < fieldLE p 0 4) (hmax : fieldLE p 0 4 ≤ 30)
    (hnew : s.pair.named.contains (bslice p 4 16) = false) : migrationWindowH p s =
    (.now .ok, note 0x0B 9 0 { s with pair := { s.pair with
      window := some (bslice p 4 16, optime s + fieldLE p 0 4 * 86400)
      named := bslice p 4 16 :: s.pair.named } }) := by
  simp only [migrationWindowH, if_neg (Nat.not_lt.2 hmax), hpos.ne', hnew, false_and, Bool.false_eq_true, if_false]

theorem migrationWindowH_closes {p : Bytes} {s : State} {e : Nat} (hzero : fieldLE p 0 4 = 0)
    (hopen : s.pair.window = some (bslice p 4 16, e)) : migrationWindowH p s =
    (.now .ok, note 0x0B 9 0 { s with pair := { s.pair with window := none } }) := by
  simp [migrationWindowH, hzero, hopen]

/-- Settles O10: each command's handler with the values it enters. -/
theorem policiesTakeTheValuesAsked : Obligations.PoliciesTakeTheValuesAsked := by
  unfold Obligations.PoliciesTakeTheValuesAsked
  refine ⟨fun n s p msg h hl hb hlo hhi => ⟨_, ?budget, rfl⟩,
    fun n s p msg h hl hop hst hawake hidle hbatch hwait hhold hstage hret hfill hhome hhot htransit hdefer =>
      ⟨policyBytes 1 (plcPolicyOf p), plcPolicyOf p, ?placement, rfl, rfl, rfl, rfl, rfl, rfl, rfl, rfl, rfl, rfl, rfl, rfl, rfl⟩,
    fun n s p msg h hlen hop hres hstart hle hver href hlt hckpt hwear hdist hcache =>
      ⟨mediaPolicyBytes 1 (mediaPolicyOf p), mediaPolicyOf p, ?media, rfl, rfl, rfl, rfl, rfl, rfl, rfl, rfl⟩,
    fun n s p msg h hl hport h1 h4 h5 hns => ⟨withDeadline (fieldLE p 0 1) (fieldLE p 4 4) s, ?deadline, rfl,
      mem_qosSet_withDeadline, rfl⟩,
    fun n s p msg h hl => ⟨fun hz => ⟨_, rfl, ?window⟩, fun c w hz hc hplain hw => ?queue⟩,
    fun n s p msg h hl => ⟨fun hset => ⟨pdOf p, ?domain, rfl, rfl, rfl, ?ranges⟩, fun hdel hfree => ?deletion⟩,
    fun n s p msg h hlen => ⟨fun hpos hmax hnew => ?opens, fun e hz hopen => ?closes⟩⟩
  case budget => rw [exec_pwrBudgetSet, basmos_now h hl (pwrBudgetSetH_enters hb hlo hhi)]
  case placement =>
    rw [exec_plcPolicy, basmos_now h hl (plcPolicyH_enters hop
      ⟨hst, hawake, hidle, hbatch, hwait, hhold, hstage, hret, hfill, hhome, hhot, htransit, hdefer⟩)]
  case media =>
    rw [exec_mediaPolicy, basmos_now h (layoutIs_nil hlen) (mediaPolicyH_enters hop
      ⟨hres, hstart, hle, hver, href, hlt, hckpt, hwear, hdist, hcache⟩)]
  case deadline => rw [exec_dramQosSet, basmos_now h hl (dramQosSetH_sets hport h1 h4 h5 hns)]
  case window => rw [exec_creditSet, basmos_now h hl (creditSetH_default hz)]
  case queue =>
    subst hw
    exact ⟨withWindow (fieldLE p 8 8) c _ s, by rw [exec_creditSet, basmos_now h hl (creditSetH_queue hz hc hplain)],
      tgetD_tset_self .., rfl⟩
  case domain => rw [exec_pdConfig, basmos_now h hl (pdConfigH_enters hset)]
  case ranges => simp [pdOf]
  case deletion => rw [exec_pdConfig, basmos_now h hl (pdConfigH_deletes hdel hfree)]
  case opens => rw [exec_migrationWindow, basmos_now h (layoutIs_nil hlen) (migrationWindowH_opens hpos hmax hnew)]
  case closes => rw [exec_migrationWindow, basmos_now h (layoutIs_nil hlen) (migrationWindowH_closes hz hopen)]

end Sys2Proof.Machine
end

section
/-!
PROOFS. The commands on resets, power states, rails, wake sources, firmware slots and self-tests (R118, R404, R430 to R435, R456).
-/
namespace Sys2Proof.Machine

theorem exec_headReset (n : Fin 64) (s : State) :
    exec (.headReset n) s = .next (settle (basmos n 0x0105 (layoutIs 4 [(1, 3)]) headResetH s)) := rfl

theorem exec_pwrStateForce (n : Fin 64) (s : State) :
    exec (.pwrStateForce n) s = .next (settle (basmos n 0x0310 (layoutIs 4 [(1, 3)]) powerForceH s)) := rfl

theorem exec_avsSet (n : Fin 64) (s : State) :
    exec (.avsSet n) s = .next (settle (basmos n 0x0311 (layoutIs 4 [(1, 1)]) (avsSetH n) s)) := rfl

theorem exec_wakeSourceSet (n : Fin 64) (s : State) :
    exec (.wakeSourceSet n) s = .next (settle (basmos n 0x0312 (layoutIs 8 []) wakeSourceH s)) := rfl

theorem exec_pwrStatePolicy (n : Fin 64) (s : State) :
    exec (.pwrStatePolicy n) s = .next (settle (basmos n 0x0301 (layoutIs 16 [(11, 5)]) powerPolicyH s)) := rfl

theorem exec_fwStage (n : Fin 64) (ok : Bool) (s : State) :
    exec (.fwStage n ok) s = .next (settle (basmos n 0x0103 fwLayout (fwStageH ok) s)) := rfl

theorem exec_fwActivate (n : Fin 64) (s : State) :
    exec (.fwActivate n) s = .next (settle (basmos n 0x0104 (layoutIs 2 []) fwActivateH s)) := rfl

theorem exec_selftestRun (n : Fin 64) (s : State) :
    exec (.selftestRun n) s = .next (settle (basmos n 0x0912 (layoutIs 8 []) selftestH s)) := rfl

/-! ### One-byte fields -/

theorem fieldLE_byte (b : Byte) (bs : Bytes) : fieldLE (b :: bs) 0 1 = b.toNat := by
  simp [fieldLE, bslice, leVal]

/-- A small number in the first byte of a payload reads back. -/
theorem fieldLE_small {k : Nat} (hk : k < 256) (bs : Bytes) : fieldLE (BitVec.ofNat 8 k :: bs) 0 1 = k := by
  rw [fieldLE_byte, BitVec.toNat_ofNat]
  exact Nat.mod_eq_of_lt hk

/-! ### HEAD_RESET (R404) -/

theorem headResetH_now (s : State) : headResetH [0, 0, 0, 0] s =
    (.now .ok, { s with ghx := { s.ghx with pendingReset := true } }) := rfl

theorem headResetH_handover {s : State} (hpair : s.pair.state = 3) (hnone : s.pair.handover = none) (hjob : JobFree s) :
    headResetH [1, 0, 0, 0] s = (.now (jobReply s),
      startHandover (myVols s) true 0x0105 (some s.kiosk.jobCount) (started 0x0105 0 0 s)) := by
  have hmode : fieldLE [1, 0, 0, 0] 0 1 = 1 := rfl
  simp only [headResetH, hmode, hpair, hnone, lt_irrefl, one_ne_zero, ne_eq, not_true_eq_false, Option.isSome_none,
    Bool.false_eq_true, if_false]
  exact withJob_free hjob ..

/-! ### PWR_STATE_FORCE (R430) -/

theorem alreadyThere_free {s : State} (hjob : JobFree s) : alreadyThere s =
    (.now (jobReply s), finishJob s.kiosk.jobCount .success [] (started 0x0310 0 0 s)) :=
  withJob_free hjob ..

section
variable {p : Bytes} {s : State} {t : Nat} (ht : fieldLE p 0 1 = t) (hrest : s.ghx.trans = .none) (hjob : JobFree s)
include ht hrest hjob

theorem powerForceH_there (h : s.gh.state = .serve ∧ t = 0 ∨ s.gh.state = .watch ∧ t = 1) : powerForceH p s =
    (.now (jobReply s), finishJob s.kiosk.jobCount .success [] (started 0x0310 0 0 s)) := by
  rw [← alreadyThere_free hjob]
  rcases h with ⟨hst, h0⟩ | ⟨hst, h1⟩
  · simp [powerForceH, ht, h0, hrest, hst]
  · simp [powerForceH, ht, h1, hrest, hst]

theorem powerForceH_sleep (hst : s.gh.state = .serve) (h0 : t ≠ 0) (h2 : t ≤ 2) (hgo : sleepRefused s = none) :
    powerForceH p s = (.now (jobReply s), startSleep t 0x0310 (some s.kiosk.jobCount) (started 0x0310 t 0 s)) := by
  rw [← withJob_free hjob 0x0310 t 0 (fun k s => startSleep t 0x0310 (some k) s)]
  obtain h1 | h2 : t = 1 ∨ t = 2 := by omega
  · simp [powerForceH, ht, h1, hrest, hst, hgo]
  · simp [powerForceH, ht, h2, hrest, hst, hgo]

theorem powerForceH_dormant (hst : s.gh.state = .watch) (h2 : t = 2) (hgo : dormantRefused s = none) :
    powerForceH p s = (.now (jobReply s), startDormant (some s.kiosk.jobCount) (started 0x0310 2 0 s)) := by
  rw [← withJob_free hjob 0x0310 2 0 (fun k s => startDormant (some k) s)]
  simp [powerForceH, ht, h2, hrest, hst, hgo]

theorem powerForceH_wake (hst : s.gh.state = .watch) (h0 : t = 0) :
    powerForceH p s = (.now (jobReply s), startWake (started 0x0310 0 0 s)) := by
  rw [← withJob_free hjob 0x0310 0 0 (fun _ s => startWake s)]
  simp [powerForceH, ht, h0, hrest, hst]

end

/-! ### AVS_SET, WAKE_SOURCE_SET and PWR_STATE_POLICY (R431 to R434) -/

theorem avsSetH_enters {n : Nat} {p : Bytes} {s : State} {r mv : Nat} (hp : fieldLE p 0 1 = r) (hr : r ≤ 2)
    (hmv : mv = if fieldLE p 2 2 = 0 then svcOf s r else fieldLE p 2 2) (hin : inService r mv = true)
    (hfree : avsBusy s = false) (hst : s.gh.state = .serve) : avsSetH n p s = (.later, pushAvs r mv (.set n (mvOf s r)) s) := by
  simp [avsSetH, hp, Nat.not_lt.2 hr, ← hmv, hin, hfree, hst]

theorem wakeSourceH_sets {p : Bytes} {s : State} (hen : within 1 31 (fieldLE p 0 1) = true) (ht : fieldLE p 1 1 = 255)
    (hg : fieldLE p 2 1 = 255) (hflags : fieldLE p 3 1 ≤ 3) (h3 : (fieldLE p 0 1).testBit 3 = false)
    (h4 : (fieldLE p 0 1).testBit 4 = false) : wakeSourceH p s = (.now .ok,
      force 0x0312 { s with gh := { s.gh with wakeEn := BitVec.ofNat 5 (fieldLE p 0 1) } }) := by
  simp only [wakeSourceH, ht, hg, hen, h3, h4, Nat.not_lt.2 hflags]
  simp

/-- The idle policy that a PWR_STATE_POLICY payload holds. -/
def idlePolicyOf (p : Bytes) : PwrPolicy := {
  target := fieldLE p 1 1, idleMin := fieldLE p 2 2, idleGbs := fieldLE p 4 2, dormantAfterMin := fieldLE p 6 2
  wakeEveryH := fieldLE p 8 2, wakeEn := fieldLE p 10 1 }

theorem policyTimer_none {s : State} (h : claimHolder s 2 7 ≠ some 3) : policyTimer 0 s = s := by
  simp [policyTimer, h]

theorem powerPolicyH_sets {p : Bytes} {s : State} (hop : fieldLE p 0 1 = 1) (htgt : fieldLE p 1 1 ≤ 2)
    (hmin : within 1 1440 (fieldLE p 2 2) = true) (hgbs : fieldLE p 4 2 ≤ 400) (hdorm : fieldLE p 6 2 ≤ 10080)
    (hevery : fieldLE p 8 2 = 0) (hen : within 1 31 (fieldLE p 10 1) = true) (hforced : s.kiosk.forced.contains 0x0312 = false)
    (hclaim : claimHolder s 2 7 ≠ some 3) : powerPolicyH p s = (.now (.ok (policyRecord 1 (idlePolicyOf p))), { s with
      ghx := { s.ghx with policy := idlePolicyOf p }, gh := { s.gh with wakeEn := BitVec.ofNat 5 (fieldLE p 10 1) } }) := by
  have hgo : ¬(1 < fieldLE p 0 1 ∨ 2 < fieldLE p 1 1 ∨ (!within 1 1440 (fieldLE p 2 2)) = true ∨ 400 < fieldLE p 4 2 ∨
      10080 < fieldLE p 6 2 ∨ 720 < fieldLE p 8 2 ∨ (!within 1 31 (fieldLE p 10 1)) = true) := by
    simp only [hmin, hen, Bool.not_true, Bool.false_eq_true, false_or, or_false]
    omega
  have htimer : ∀ q, policyTimer 0 { s with ghx := { s.ghx with policy := q } } =
      { s with ghx := { s.ghx with policy := q } } := fun q => policyTimer_none hclaim
  have hread : ¬fieldLE p 0 1 = 0 := by omega
  have hheld : ∀ P, ¬(fieldLE p 8 2 ≠ 0 ∧ P) := fun _ h => h.1 hevery
  simp only [powerPolicyH, if_neg hread, if_neg hgo, if_neg (hheld _)]
  simp only [idlePolicyOf, hevery, htimer, hforced, Bool.false_eq_true, if_false]

/-! ### Firmware slots (R118, R456) -/

theorem bootSlot_setBoot_self (k : Nat) (v : BootSlot) (s : State) : bootSlot (setBoot k v s) k = v := by
  unfold bootSlot setBoot
  split <;> rfl

/-- The other of the two slots. -/
theorem bootSlot_setBoot_other {k : Nat} (hk : k ≤ 1) (v : BootSlot) (s : State) :
    bootSlot (setBoot k v s) (1 - k) = bootSlot s (1 - k) := by
  interval_cases k <;> rfl

theorem fuseCount_setBoot (k : Nat) (v : BootSlot) (s : State) : (setBoot k v s).sec.fuseCount = s.sec.fuseCount := by
  unfold setBoot
  split <;> rfl

/-- The check of an image looks at the rollback fuses alone. -/
theorem imageOk_congr {s t : State} (h : t.sec.fuseCount = s.sec.fuseCount) (m : Bytes) : imageOk t m = imageOk s m := by
  simp only [imageOk, h]

theorem bootSlot_congr {s t : State} (h : t.sec = s.sec) (k : Nat) : bootSlot t k = bootSlot s k := by
  simp only [bootSlot, h]

theorem record_sec (sub lo cls : Nat) (subj : Subject) (detail : Bytes) (s : State) :
    (record sub lo cls subj detail s).sec = s.sec := (record_keeps sub lo cls subj detail s).2.2.1

@[simp] theorem bootSlot_record (sub lo cls : Nat) (subj : Subject) (detail : Bytes) (s : State) (k : Nat) :
    bootSlot (record sub lo cls subj detail s) k = bootSlot s k := bootSlot_congr (record_sec ..) k
@[simp] theorem bootSlot_note (sub lo cls : Nat) (s : State) (k : Nat) :
    bootSlot (note sub lo cls s) k = bootSlot s k := bootSlot_record ..
@[simp] theorem bootSlot_finishJob (j : Nat) (st : Status) (result : Bytes) (s : State) (k : Nat) :
    bootSlot (finishJob j st result s) k = bootSlot s k := rfl
@[simp] theorem bootSlot_pkaSubmit (op : Nat) (s : State) (k : Nat) : bootSlot (pkaSubmit op s) k = bootSlot s k := rfl

/-- A slot whose image is being replaced is unconfirmed. -/
def unconfirmed (v : BootSlot) : BootSlot := { v with confirmed := false }

/-- The slot of an image that was checked and read back. -/
def imageSlot (p : Bytes) : BootSlot := {
  present := true, bodyOk := true, attempts := 0, confirmed := false, commit := decide (fieldLE p 1 1 = 1)
  security := fieldLE (p.drop 8) 8 4, version := some (fieldLE (p.drop 8) 12 4)
  digests := some (sha512 (bslice (p.drop 8) 4096 (fieldLE (p.drop 8) 16 4)),
    sha512 (bslice (p.drop 8) (4096 + fieldLE (p.drop 8) 16 4) (fieldLE (p.drop 8) 20 4))), lostPref := false }

/-- What FW_STAGE leaves in its slot: the old content where the check fails, none where the reading back does, else the image. -/
def stagedSlot (good ok : Bool) (p : Bytes) (v : BootSlot) : BootSlot :=
  if good then if ok then imageSlot p else { unconfirmed v with present := false, bodyOk := false } else unconfirmed v

theorem fwStageH_stages {p : Bytes} {s : State} (ok : Bool) (hslot : fieldLE p 0 1 ≤ 1) (hcommit : fieldLE p 1 1 ≤ 1)
    (hmin : 1152 ≤ (p.drop 8).length) (hmax : (p.drop 8).length ≤ 25165824) (hrun : fieldLE p 0 1 ≠ s.sec.running)
    (hjob : JobFree s) : ∃ t, fwStageH ok p s = (.now (jobReply s), t) ∧
      bootSlot t (fieldLE p 0 1) = stagedSlot (imageOk s (p.drop 8)) ok p (bootSlot s (fieldLE p 0 1)) ∧
      bootSlot t (1 - fieldLE p 0 1) = bootSlot s (1 - fieldLE p 0 1) := by
  have hgo : ¬(1 < fieldLE p 0 1 ∨ 1 < fieldLE p 1 1 ∨ (p.drop 8).length < 1152 ∨ 25165824 < (p.drop 8).length) := by omega
  have hown := bootSlot_setBoot_self (fieldLE p 0 1)
  have hother := fun v t => bootSlot_setBoot_other hslot v t
  have hgood : ∀ v, imageOk (setBoot (fieldLE p 0 1) v (started 0x0103 (fieldLE p 0 1) (fieldLE p 1 1) s)) (p.drop 8) =
      imageOk s (p.drop 8) := fun v => imageOk_congr (fuseCount_setBoot ..) _
  simp only [fwStageH, if_neg hgo, if_neg hrun, withJob_free hjob]
  refine ⟨_, rfl, ?_⟩
  rw [hgood]
  cases himg : imageOk s (p.drop 8)
  · simp only [Bool.not_false, if_true, bootSlot_finishJob, bootSlot_record, bootSlot_pkaSubmit, hown, hother]
    exact ⟨rfl, rfl⟩
  · cases ok
    · simp only [Bool.not_true, Bool.not_false, Bool.false_eq_true, if_true, if_false, bootSlot_finishJob, bootSlot_pkaSubmit,
        hown, hother]
      exact ⟨rfl, rfl⟩
    · simp only [Bool.not_true, Bool.false_eq_true, if_false, bootSlot_finishJob, bootSlot_note, bootSlot_pkaSubmit, hown, hother]
      exact ⟨rfl, rfl⟩

theorem stagedSlot_confirmed (good ok : Bool) (p : Bytes) (v : BootSlot) : (stagedSlot good ok p v).confirmed = false := by
  cases good <;> cases ok <;> rfl

section
variable {s : State} (slot : Fin 2) (flags : Fin 4) (hnone : s.pair.handover = none) (hjob : JobFree s)
include hnone hjob

theorem fwActivateH_alone (h : flags.val % 2 = 1) : fwActivateH [BitVec.ofNat 8 slot, BitVec.ofNat 8 flags] s =
    (.now (jobReply s), { started 0x0104 slot flags s with
      ghx := { s.ghx with pendingReset := true }
      sec := { s.sec with preferred := slot }
      pair := { s.pair with autoFail := decide (flags.val / 2 % 2 = 1) } }) := by
  have hslot := fieldLE_small (show (slot : Nat) < 256 by omega) [BitVec.ofNat 8 flags]
  have hflags := fieldLE_small (show (flags : Nat) < 256 by omega) []
  have hfree : ¬s.pair.handover.isSome = true := by simp [hnone]
  have hgo : ¬(1 < (slot : Nat) ∨ 3 < (flags : Nat)) := by omega
  simp only [fwActivateH, hslot, fieldLE_cons_succ, hflags, if_neg hgo, h, if_neg hfree, withJob_free hjob, decide_true, Bool.not_true,
    Bool.false_eq_true, false_and, if_true, if_false]
  rfl

theorem fwActivateH_handover (h : flags.val % 2 = 0) (hpair : s.pair.state = 3) :
    fwActivateH [BitVec.ofNat 8 slot, BitVec.ofNat 8 flags] s = (.now (jobReply s),
      startHandover (myVols s) true 0x0104 (some s.kiosk.jobCount) (started 0x0104 slot flags s)) := by
  have hslot := fieldLE_small (show (slot : Nat) < 256 by omega) [BitVec.ofNat 8 flags]
  have hflags := fieldLE_small (show (flags : Nat) < 256 by omega) []
  have hfree : ¬s.pair.handover.isSome = true := by simp [hnone]
  have hgo : ¬(1 < (slot : Nat) ∨ 3 < (flags : Nat)) := by omega
  simp only [fwActivateH, hslot, fieldLE_cons_succ, hflags, if_neg hgo, h, hpair, if_neg hfree, withJob_free hjob]
  rfl

end

/-! ### SELFTEST_RUN (R435) -/

theorem selftestH_starts {p : Bytes} {s : State} {subj : Subject} (hsubj : subjectOf s p = some subj)
    (hlane : ∀ q, subj = .sledLane q → (shelfOf s (q / 32)).st = .awake)
    (hblock : ∀ g sl die block, subj = .flashBlock g sl die block → (shelfOf s g).st = .awake ∧
      (programmedHere s (g * 32 + sl) die block = true ∨ ownsGroup s (block / 64) = true)) (hjob : JobFree s) :
    selftestH p s = (.now (jobReply s), startTest subj none (started 0x0912 (subjectNo subj) 0 s)) := by
  rw [← withJob_free hjob 0x0912 (subjectNo subj) 0 (fun _ s => startTest subj none s)]
  simp only [selftestH, hsubj]
  cases subj with
  | sledLane q => exact if_neg (not_not.2 (hlane q rfl))
  | flashBlock g sl die block =>
    obtain ⟨hawake, hmine⟩ := hblock g sl die block rfl
    have hgo : ¬((!programmedHere s (g * 32 + sl) die block) = true ∧ (!ownsGroup s (block / 64)) = true) := by
      rcases hmine with h | h <;> simp [h]
    exact (if_neg (not_not.2 hawake)).trans (if_neg hgo)
  | _ => rfl

/-- Settles O11: each command's handler by its branch. -/
theorem systemAndPowerCommands : Obligations.SystemAndPowerCommands := by
  unfold Obligations.SystemAndPowerCommands
  refine ⟨fun n s msg h => ?reset, fun n s msg h hpair hnone hjob => ?resetHandover,
    fun n s t msg h hrest hjob => ⟨fun hst h0 => ?there, fun hst h0 hgo => ?sleep, fun hst h2 hgo => ?dormant,
      fun hst h1 => ?thereWatch, fun hst h0 => ?wake⟩,
    fun n s p msg r mv h hl hp hr hmv hin hfree hst => ⟨_, rfl, ?rail⟩,
    fun n s p msg h hlen hen ht hg hflags h3 h4 => ?sources,
    fun n s p msg h hl hop htgt hmin hgbs hdorm hevery hen hforced hclaim =>
      ⟨policyRecord 1 (idlePolicyOf p), idlePolicyOf p, ?policy, rfl, rfl, rfl, rfl, hevery, rfl⟩,
    fun n s p msg slot h hl hs hslot hcommit hmin hmax hrun hjob ok => ?stage,
    fun n s slot flags msg h hnone hjob => ⟨fun hone => ?alone, fun hzero hpair => ?activate⟩,
    fun n s p msg subj h hlen hsubj hlane hblock hjob => ?selftest⟩
  case reset => rw [exec_headReset, basmos_now h rfl (headResetH_now s)]
  case resetHandover => rw [exec_headReset, basmos_now h rfl (headResetH_handover hpair hnone hjob)]
  case rail => rw [exec_avsSet, basmos_later h hl (avsSetH_enters hp hr hmv hin hfree hst)]
  case sources =>
    rw [exec_wakeSourceSet, basmos_now h (layoutIs_nil hlen) (wakeSourceH_sets hen ht hg hflags h3 h4)]
  case policy =>
    rw [exec_pwrStatePolicy,
      basmos_now h hl (powerPolicyH_sets hop htgt hmin hgbs hdorm hevery hen hforced hclaim)]
  case stage =>
    subst hs
    obtain ⟨t, hstage, hown, hother⟩ := fwStageH_stages ok hslot hcommit hmin hmax hrun hjob
    refine ⟨t, by rw [exec_fwStage, basmos_now h hl hstage], by rw [hown, stagedSlot_confirmed], hother, fun hgood hok => ?_,
      fun hgood hbad => ?_⟩
    · rw [hown, hgood, hok]
      exact ⟨rfl, rfl, rfl, rfl⟩
    · rw [hown, hgood, hbad]
      rfl
  case alone => rw [exec_fwActivate, basmos_now h rfl (fwActivateH_alone slot flags hnone hjob hone)]
  case activate => rw [exec_fwActivate, basmos_now h rfl (fwActivateH_handover slot flags hnone hjob hzero hpair)]
  case selftest => rw [exec_selftestRun, basmos_now h (layoutIs_nil hlen) (selftestH_starts hsubj hlane hblock hjob)]
  all_goals
    have ht : fieldLE [BitVec.ofNat 8 t, 0, 0, 0] 0 1 = t := fieldLE_small (by omega) _
    rw [exec_pwrStateForce]
  case there => rw [basmos_now h rfl (powerForceH_there ht hrest hjob (.inl ⟨hst, h0⟩))]
  case sleep => rw [basmos_now h rfl (powerForceH_sleep ht hrest hjob hst h0 (by omega) hgo)]
  case dormant => rw [basmos_now h rfl (powerForceH_dormant ht hrest hjob hst h2 hgo), startDormant]; rfl
  case thereWatch => rw [basmos_now h rfl (powerForceH_there ht hrest hjob (.inr ⟨hst, h1⟩))]
  case wake => rw [basmos_now h rfl (powerForceH_wake ht hrest hjob hst h0)]

end Sys2Proof.Machine
end

section
/-!
PROOFS. The commands on the pair, snapshots, replication and host ports (R115, R116, R118, R119, R174, R176, R331 to R333, R335).
-/
namespace Sys2Proof.Machine

theorem exec_pairJoin (n : Fin 64) (s : State) :
    exec (.pairJoin n) s = .next (settle (basmos n 0x0B01 (layoutIs 16 [(2, 2), (12, 4)]) pairJoinH s)) := rfl

theorem exec_failback (n : Fin 64) (s : State) :
    exec (.failback n) s = .next (settle (basmos n 0x0B02 (layoutIs 0 []) failbackH s)) := rfl

theorem exec_takeoverForce (n : Fin 64) (s : State) :
    exec (.takeoverForce n) s = .next (settle (basmos n 0x0B10 (layoutIs 1 []) (takeoverForceH forceAlone) s)) := rfl

theorem exec_snapCreate (n : Fin 64) (s : State) :
    exec (.snapCreate n) s = .next (settle (basmos n 0x0C00 snapCreateLayout snapCreateH s)) := rfl

theorem exec_snapDelete (n : Fin 64) (s : State) :
    exec (.snapDelete n) s = .next (settle (basmos n 0x0C01 (layoutIs 6 []) snapDeleteH s)) := rfl

theorem exec_replConfig (n : Fin 64) (s : State) :
    exec (.replConfig n) s = .next (settle (basmos n 0x0C03 replConfigLayout replConfigH s)) := rfl

theorem exec_replResync (n : Fin 64) (s : State) :
    exec (.replResync n) s = .next (settle (basmos n 0x0C10 (layoutIs 2 []) replResyncH s)) := rfl

theorem exec_qpReset (n : Fin 64) (s : State) :
    exec (.qpReset n) s = .next (settle (basmos n 0x0A10 (layoutIs 8 []) qpResetH s)) := rfl

theorem exec_portConfig (n : Fin 64) (trained : BitVec 8) (s : State) :
    exec (.portConfig n trained) s = .next (settle (basmos n 0x0A00 portConfigLayout (portConfigH trained) s)) := rfl

/-! ### The pair (R115, R116, R118, R119) -/

/-- The state with a PAIR_JOIN under way: its job and mode, the sizes it asks for, and whether to fail back unasked. -/
def joinAsked (p : Bytes) (s : State) : State :=
  { started 0x0B01 (fieldLE p 0 1) 0 s with pair := { s.pair with
    job := some (s.kiosk.jobCount, fieldLE p 0 1)
    joinReq := some (fieldLE p 4 4, fieldLE p 8 4, decide (fieldLE p 1 1 = 1))
    autoFail := decide (fieldLE p 1 1 = 1) } }

theorem pairJoinH_asks {p : Bytes} {s : State} (hmode : fieldLE p 0 1 ≤ 2) (hauto : fieldLE p 1 1 ≤ 1)
    (hnone : s.pair.job = none) (hjob : JobFree s) :
    pairJoinH p s = (.now (jobReply s), tryJoin (sendHello (joinAsked p s))) := by
  have hgo : ¬(2 < fieldLE p 0 1 ∨ 1 < fieldLE p 1 1) := by omega
  have hfree : ¬s.pair.job.isSome = true := by simp [hnone]
  simp only [pairJoinH, if_neg hgo, if_neg hfree, withJob_free hjob]
  rfl

/-- A head that takes part holds its HELLO under the next message number. -/
theorem sendHello_sent {s : State} (h : takesPart s = true) :
    ∃ m, tget (sendHello s).ftb.sent s.ftb.nextId = some m ∧ m.body = .hello (myHello s) := by
  obtain ⟨ps, n, segs, -, hsend⟩ := ftbSend_eq (by decide : 1 ≠ 3) 0 (ftbPayload (.hello (myHello s))).length []
    (fun _ => .hello (myHello s)) s
  refine ⟨sentMsg 1 (ftbPayload (.hello (myHello s))).length [] (.hello (myHello s)) segs, ?_, rfl⟩
  rw [sendHello, if_pos h, ftbControl, ftbType, hsend]
  exact tget_tset_self ..

theorem failbackH_starts {s : State} (hpair : s.pair.state = 4) (hrejoin : s.pair.rejoin = true) (hjob : JobFree s) :
    failbackH [] s = (.now (jobReply s), startFailback { started 0x0B02 0 0 s with
      pair := { s.pair with failJob := some s.kiosk.jobCount } }) := by
  simp only [failbackH, survivor, hpair, hrejoin, decide_true, Bool.not_true, Bool.false_eq_true, or_self, if_false,
    withJob_free hjob]
  rfl

theorem takeoverForceH_handover {s : State} (hfenced : s.pair.fenced = false) (hpair : s.pair.state = 3)
    (hnone : s.pair.handover = none) (hjob : JobFree s) : takeoverForceH forceAlone [0] s = (.now (jobReply s),
      startHandover (myVols s) true 0x0B10 (some s.kiosk.jobCount) (started 0x0B10 0 0 s)) := by
  have hmode : fieldLE [0] 0 1 = 0 := rfl
  have hfree : ¬s.pair.handover.isSome = true := by simp [hnone]
  simp only [takeoverForceH, hmode, hfenced, hpair, if_neg hfree, withJob_free hjob]
  rfl

theorem takeoverForceH_fence {s : State} (hfenced : s.pair.fenced = false) (hpair : s.pair.state = 3)
    (hpaired : s.pair.paired = true) (hup : s.jrn.restart = .none) (hpwr : s.ghx.pwrFail = false) :
    takeoverForceH forceAlone [1] s = (.now .ok, fencePeer s) := by
  have hmode : fieldLE [1] 0 1 = 1 := rfl
  simp only [takeoverForceH, hmode]
  simp [hfenced, hpair, hpaired, hup, hpwr]

/-! ### Snapshots (R331, R332) -/

theorem startJob_free {s : State} (hjob : JobFree s) (op subj aux : Nat) :
    startJob op subj aux s = some (s.kiosk.jobCount, started op subj aux s) :=
  if_neg (Nat.not_le.2 hjob)

/-- Entering new snapshots changes their table alone. -/
theorem foldl_setSnap (l : List (Nat × Nat)) (s : State) : l.foldl (fun s x => setSnap x.1 x.2 {} s) s =
    { s with rep := { s.rep with snaps := l.foldl (fun m x => tset m (snapKey x.1 x.2) {}) s.rep.snaps } } := by
  induction l generalizing s with
  | nil => rfl
  | cons x l ih => rw [List.foldl_cons, ih]; rfl

/-- The state with these snapshots being taken under the command's job. -/
def snapsTaken (l : List (Nat × Nat)) (s : State) : State :=
  { started 0x0C00 0 0 s with rep := { s.rep with
    snaps := l.foldl (fun m x => tset m (snapKey x.1 x.2) {}) s.rep.snaps
    snapJobs := s.rep.snapJobs ++ [(s.kiosk.jobCount, l)] } }

theorem snapCreateH_takes {p : Bytes} {s : State} {vols ns : List Nat}
    (hvols : vols = (List.range (fieldLE p 0 1)).map (fun i => fieldLE p (4 + 4 * i) 4))
    (hdist : vols.eraseDups.length = vols.length)
    (hall : ∀ v ∈ vols, volLives s v = true ∧ ownsVol s v = true ∧ (freeSnap s v).isSome = true)
    (hns : ns = vols.map (fun v => (freeSnap s v).getD 0)) (hjob : JobFree s) : snapCreateH p s =
      (.now { status := .success, payload := leN 4 (jobNo s.kiosk.jobCount) ++ (ns.map (leN 2)).flatten, async := true },
        snapsTaken (vols.zip ns) s) := by
  have hlive : vols.all (volLives s) = true := List.all_eq_true.2 fun v hv => (hall v hv).1
  have hown : vols.all (ownsVol s) = true := List.all_eq_true.2 fun v hv => (hall v hv).2.1
  have hfree : vols.all (fun v => (freeSnap s v).isSome) = true := List.all_eq_true.2 fun v hv => (hall v hv).2.2
  simp only [snapCreateH, ← hvols, hdist, hlive, hown, hfree, startJob_free hjob, foldl_setSnap, ne_eq, not_true_eq_false,
    Bool.not_true, Bool.false_eq_true, if_false]
  rw [hns]
  rfl

/-- The state with a snapshot marked for deletion under the command's job. -/
def snapMarked (vol n : Nat) (s : State) : State :=
  { started 0x0C01 vol n s with rep := { s.rep with
    snaps := tmod s.rep.snaps (snapKey vol n) (fun x => { x with deleting := true })
    delJobs := s.rep.delJobs ++ [(s.kiosk.jobCount, vol, n)] } }

theorem snapDeleteH_marks {p : Bytes} {s : State} {x : Snap} (hv : fieldLE p 0 4 < 65536)
    (hx : tget s.rep.snaps (snapKey (fieldLE p 0 4) (fieldLE p 4 2)) = some x) (hlive : volLives s (fieldLE p 0 4) = true)
    (hown : ownsVol s (fieldLE p 0 4) = true) (hgone : x.gone = false) (hdel : x.deleting = false) (hrepl : x.repl = false)
    (hreplica : x.replica = false) (hjob : JobFree s) :
    snapDeleteH p s = (.now (jobReply s), snapMarked (fieldLE p 0 4) (fieldLE p 4 2) s) := by
  have hgo : ¬(65536 ≤ fieldLE p 0 4 ∨ (!volLives s (fieldLE p 0 4)) = true ∨ x.gone = true ∨ x.deleting = true) := by
    simp [Nat.not_le.2 hv, hlive, hgone, hdel]
  simp only [snapDeleteH, hx, if_neg hgo, hown, hrepl, hreplica, withJob_free hjob, Bool.not_true, Bool.false_eq_true, or_self,
    if_false]
  rfl

/-! ### Replication (R333, R335) -/

theorem replConfigH_changes {p : Bytes} {s : State} {r : ReplRec} (hn : fieldLE p 2 2 < 1024) (hop : 2 ≤ fieldLE p 0 1)
    (hr : tget s.pair.arr.rels (fieldLE p 2 2) = some r) : replConfigH p s =
      if fieldLE p 0 1 = 2 then
        (.now .ok, changeArray (fun a => { a with rels := terase a.rels (fieldLE p 2 2) }) (leaveRel (fieldLE p 2 2) r s))
      else (.now .ok, changeArray (fun a => { a with
        rels := tset a.rels (fieldLE p 2 2) { r with paused := decide (fieldLE p 0 1 = 3) } }) s) := by
  have hnew : ¬fieldLE p 0 1 ≤ 1 := by omega
  simp only [replConfigH, if_neg (Nat.not_le.2 hn), if_neg hnew, hr]

/-- The relationship that a REPL_CONFIG payload describes, over these volumes. -/
def replRecOf (p : Bytes) (vols : List (Nat × Nat)) : ReplRec := {
  source := decide (fieldLE p 0 1 = 0), paused := false, interval := fieldLE p 4 4, pd := fieldLE p 8 2
  remoteArray := bslice p 16 16, addrA := bslice p 32 16, addrB := bslice p 48 16, vols := vols }

theorem replConfigH_creates {p : Bytes} {s : State} {vols : List (Nat × Nat)} (hn : fieldLE p 2 2 < 1024)
    (hop : fieldLE p 0 1 ≤ 1) (hint : fieldLE p 0 1 = 0 → within 1 86400 (fieldLE p 4 4) = true) (hpd : fieldLE p 8 2 < 4096)
    (hnew : thas s.pair.arr.rels (fieldLE p 2 2) = false)
    (hvols : vols = (List.range (fieldLE p 1 1)).map (fun i => (fieldLE p (64 + 8 * i) 4, fieldLE p (68 + 8 * i) 4)))
    (hdist : (vols.map (·.1)).eraseDups.length = vols.length) (hlive : vols.all (fun v => volLives s v.1) = true)
    (hpref : ((vols.map (fun v => (tget s.pair.arr.volumes v.1).map (·.pref))).eraseDups).length = 1)
    (hapart : s.pair.arr.rels.any (fun e => e.2.vols.any (fun x => vols.any (fun v => decide (v.1 = x.1)))) = false) :
    replConfigH p s = (.now .ok, changeArray (fun a => { a with rels := tset a.rels (fieldLE p 2 2) (replRecOf p vols) }) s) := by
  have hgo : ¬((fieldLE p 0 1 = 0 ∧ (!within 1 86400 (fieldLE p 4 4)) = true) ∨ 4096 ≤ fieldLE p 8 2 ∨
      thas s.pair.arr.rels (fieldLE p 2 2) = true ∨ (vols.map (·.1)).eraseDups.length ≠ vols.length) := by
    rintro (⟨hz, h⟩ | h | h | h)
    · simp [hint hz] at h
    · omega
    · simp [hnew] at h
    · exact h hdist
  simp only [replConfigH, if_neg (Nat.not_le.2 hn), if_pos hop, ← hvols, if_neg hgo, hlive, hpref, hapart, ne_eq,
    not_true_eq_false, Bool.not_true, Bool.false_eq_true, or_self, if_false]
  rfl

theorem replResyncH_notes {p : Bytes} {s : State} (h : thas s.pair.arr.rels (fieldLE p 0 2) = true) : replResyncH p s =
    (.now .ok, setRel (fieldLE p 0 2) { relOf s (fieldLE p 0 2) with
      resync := true
      state := if (relOf s (fieldLE p 0 2)).state = 4 then 0 else (relOf s (fieldLE p 0 2)).state } s) := by
  simp only [replResyncH, h, Bool.not_true, Bool.false_eq_true, if_false]

/-! ### Host ports (R174, R176) -/

theorem qpResetH_closes {p : Bytes} {s : State} {c : Nat} (hc : connOf s (fieldLE p 0 8) = some c)
    (hlive : qpLive (qpOf s c) = true) : qpResetH p s = (.now .ok, closeQp c (emit (.dreq c) s)) := by
  simp [qpResetH, hc, Option.filter, hlive, errorQp]

/-- With no queue pair, configuring a port changes its entry alone; a value of the implementation may be drawn. -/
theorem configPort_frame {s : State} (h : s.lat.qps = []) (p : Bytes) (split : Nat) (trained : BitVec 8) (i : Nat) :
    ∃ d hp, configPort p split trained i s = { s with draws := d, lat := { s.lat with hports := hp } } := by
  have hnone : ∀ f, s.lat.qps.filter f = [] := fun f => by rw [h, List.filter_nil]
  simp only [configPort, hnone, List.map_nil, List.filter_nil, ite_self, List.foldl_nil]
  split <;> exact ⟨_, _, rfl⟩

theorem foldl_configPort_frame (p : Bytes) (split : Nat) (trained : BitVec 8) (l : List Nat) {s : State} (h : s.lat.qps = []) :
    ∃ d hp, l.foldl (fun s i => configPort p split trained i s) s =
      { s with draws := d, lat := { s.lat with hports := hp } } := by
  induction l generalizing s with
  | nil => exact ⟨_, _, rfl⟩
  | cons i l ih =>
    obtain ⟨d, hp, hi⟩ := configPort_frame h p split trained i
    obtain ⟨d', hp', hl⟩ := ih (s := configPort p split trained i s) (by rw [hi]; exact h)
    exact ⟨d', hp', by rw [List.foldl_cons, hl, hi]⟩

/-- With no queue pair, none is put into ERROR with the ports that go. -/
theorem foldl_errorPorts {s : State} (h : s.lat.qps = []) (l : List Nat) :
    l.foldl (fun s x => (s.lat.qps.filter (fun e => decide (e.2.openPort = x) && qpLive e.2)).foldl
      (fun s e => errorQp e.1 s) s) s = s := by
  induction l with
  | nil => rfl
  | cons x l ih => rw [List.foldl_cons, h, List.filter_nil, List.foldl_nil, ih]

theorem record_lat (sub lo cls : Nat) (subj : Subject) (detail : Bytes) (s : State) :
    (record sub lo cls subj detail s).lat = s.lat := by
  obtain ⟨e, o, p, h⟩ := record_frame sub lo cls subj detail s
  rw [h]

theorem record_jobs (sub lo cls : Nat) (subj : Subject) (detail : Bytes) (s : State) :
    (record sub lo cls subj detail s).kiosk.jobs = s.kiosk.jobs := by
  obtain ⟨e, o, p, h⟩ := record_frame sub lo cls subj detail s
  rw [h]

/-- A job that has just started is the one its end finishes. -/
theorem finished_started_job {op subj aux : Nat} {s t : State} (st : Status)
    (h : t.kiosk.jobs = (started op subj aux s).kiosk.jobs) : ∃ j,
      tget (finishJob s.kiosk.jobCount st [] t).kiosk.jobs s.kiosk.jobCount = some j ∧ j.finished = true ∧ j.status = st := by
  have hj : tget t.kiosk.jobs s.kiosk.jobCount = some { opcode := op, subj := subj, aux := aux } := by
    rw [h]
    exact tget_tset_self ..
  exact ⟨_, tget_tmod _ _ _ _ hj, rfl, rfl⟩

/-- Without queue pairs, PORT_CONFIG sets the split and the pool, keeps the ports of the split, and its job is done. -/
theorem portConfigH_sets {p : Bytes} {trained : BitVec 8} {s : State}
    (hpool : fieldLE p 4 4 = 0 ∨ poolUsed s ≤ fieldLE p 4 4 * 16) (hjob : JobFree s) (hqps : s.lat.qps = []) :
    ∃ t, portConfigH trained p s = (.now (jobReply s), finishJob s.kiosk.jobCount .success [] t) ∧
      t.lat.split = fieldLE p 0 1 ∧ t.lat.poolMib = (if fieldLE p 4 4 = 0 then s.lat.poolMib else fieldLE p 4 4) ∧
      (∀ e ∈ t.lat.hports, portUnder (fieldLE p 0 1) e.1 = true) ∧
      t.kiosk.jobs = (started 0x0A00 0 0 s).kiosk.jobs := by
  have hgo : ¬(fieldLE p 4 4 ≠ 0 ∧ fieldLE p 4 4 * 16 < poolUsed s) := by omega
  obtain ⟨d, hp, hports⟩ := foldl_configPort_frame p (fieldLE p 0 1) trained (List.range (fieldLE p 1 1))
    (s := started 0x0A00 0 0 s) hqps
  simp only [portConfigH, if_neg hgo, withJob_free hjob, hports]
  rw [foldl_errorPorts (by exact hqps)]
  refine ⟨_, rfl, ?_⟩
  simp only [note, record_lat, record_jobs]
  exact ⟨trivial, rfl, fun e he => (List.mem_filter.1 he).2, trivial⟩

/-- Settles O16: each command's handler by its branch. -/
theorem pairSnapshotAndPortCommands : Obligations.PairSnapshotAndPortCommands := by
  unfold Obligations.PairSnapshotAndPortCommands
  refine ⟨fun n s p msg h hl hmode hauto hnone hjob => ⟨joinAsked p s, rfl, ?join, sendHello_sent⟩,
    fun n s msg h hpair hrejoin hjob => ?failback,
    fun n s msg hfenced => ⟨fun h hpair hnone hjob => ?handover, fun h hpair hpaired hup hpwr => ?fence⟩,
    fun n s p vols ns msg h hl hvols hdist hall hns hjob => ⟨snapsTaken (vols.zip ns) s, ?take, rfl⟩,
    fun n s p msg x h hlen hv hx hlive hown hgone hdel hrepl hreplica hjob =>
      ⟨snapMarked (fieldLE p 0 4) (fieldLE p 4 2) s, ?mark, tget_tmod _ _ _ _ hx, rfl, rfl⟩,
    fun n s p msg r h hl hn hr => ⟨fun h2 => ?remove, fun h2 => ?pause⟩,
    fun n s p msg vols h hl hn hop hint hpd hnew hvols hdist hlive hpref hapart => ?create,
    fun n s p msg h hlen hr => ?resync, fun n s p msg c h hlen hc hlive => ?reset,
    fun n s p msg trained h hl hpool hjob hqps => ?ports⟩
  case join => rw [exec_pairJoin, basmos_now h hl (pairJoinH_asks hmode hauto hnone hjob)]
  case failback => rw [exec_failback, basmos_now h rfl (failbackH_starts hpair hrejoin hjob)]
  case handover => rw [exec_takeoverForce, basmos_now h rfl (takeoverForceH_handover hfenced hpair hnone hjob)]
  case fence => rw [exec_takeoverForce, basmos_now h rfl (takeoverForceH_fence hfenced hpair hpaired hup hpwr)]
  case take => rw [exec_snapCreate, basmos_now h hl (snapCreateH_takes hvols hdist hall hns hjob)]
  case mark =>
    rw [exec_snapDelete,
      basmos_now h (layoutIs_nil hlen) (snapDeleteH_marks hv hx hlive hown hgone hdel hrepl hreplica hjob)]
  case remove =>
    rw [exec_replConfig, basmos_now h hl ((replConfigH_changes hn h2.ge hr).trans (if_pos h2))]
  case pause =>
    rw [exec_replConfig, basmos_now h hl ((replConfigH_changes hn h2.le hr).trans (if_neg h2.ne'))]
  case create =>
    rw [exec_replConfig,
      basmos_now h hl (replConfigH_creates hn hop hint hpd hnew hvols hdist hlive hpref hapart), replRecOf]
  case resync => rw [exec_replResync, basmos_now h (layoutIs_nil hlen) (replResyncH_notes hr)]
  case reset => rw [exec_qpReset, basmos_now h (layoutIs_nil hlen) (qpResetH_closes hc hlive)]
  case ports =>
    obtain ⟨t, hset, hsplit, hmib, hports, hjobs⟩ := portConfigH_sets (trained := trained) hpool hjob hqps
    obtain ⟨j, hj, hdone, hst⟩ := finished_started_job .success hjobs
    exact ⟨finishJob s.kiosk.jobCount .success [] t, j, by rw [exec_portConfig, basmos_now h hl hset], hsplit, hmib, hports, hj, hdone, hst⟩

end Sys2Proof.Machine
end

section
/-!
PROOFS. The messages and the ports of the Footbridge, and the heartbeat pins (R97 to R101, R103, R116, R477).
-/
namespace Sys2Proof.Machine

theorem exec_hello (m : HelloMsg) (s : State) : exec (.hello m) s = .next (settle (helloIn m s)) := rfl
theorem exec_heartbeat (n : Fin 4) (m : HbMsg) (s : State) :
    exec (.heartbeat n m) s = .next (settle (heartbeatIn n m s)) := rfl
theorem exec_mirror (id : Nat) (recs : List JRec) (s : State) :
    exec (.mirror id recs) s = .next (settle (takeMirror id recs s)) := rfl
theorem exec_resync (id : Nat) (recs : List JRec) (s : State) :
    exec (.resync id recs) s = .next (settle (resyncIn id recs s)) := rfl
theorem exec_receipt (cum : Nat) (ranges : List (Nat × Nat)) (s : State) :
    exec (.receipt cum ranges) s = .next (settle (receiptIn cum ranges s)) := rfl
theorem exec_snak (pc : Fin 4 × Fin 2) (first last : Nat) (id : Option Nat) (s : State) :
    exec (.snak pc first last id) s = .next (settle (ftbSnak pc.1 pc.2 first last id s)) := rfl
theorem exec_footbridgeResendTimer (id : Nat) (s : State) :
    exec (.footbridgeResendTimer id) s = .next (settle (ftbResend id s)) := rfl
theorem exec_footbridgeSegment (port : Fin 4) (cls : Fin 2) (seq id type off len : Nat) (total : Option Nat) (ok : Bool)
    (s : State) : exec (.footbridgeSegment port cls seq id type off len total ok) s =
      .next (settle (ftbSegment port cls seq id type off len total ok s)) := rfl
theorem exec_footbridgeGapTimer (id : Nat) (s : State) :
    exec (.footbridgeGapTimer id) s = .next (settle (ftbGap id s)) := rfl
theorem exec_footbridgePortDown (n : Fin 4) (s : State) :
    exec (.footbridgePortDown n) s = .next (settle (portDown n s)) := rfl
theorem exec_pcsAlignmentChange (n : Fin 4) (aligned : Bool) (s : State) :
    exec (.pcsAlignmentChange n aligned) s = .next (settle (pcsChange n aligned s)) := rfl
theorem exec_heartbeatSendTimer (s : State) : exec .heartbeatSendTimer s = .next (settle (sendHeartbeats s)) := rfl
theorem exec_hbKick (s : State) : exec .hbKick s = .next (settle (hbKick s)) := rfl
theorem exec_hbPinToggle (s : State) : exec .hbPinToggle s = .next (settle (hbToggle s)) := rfl
theorem exec_peerHbInEdge (s : State) : exec .peerHbInEdge s = .next (settle (pinEdge s)) := rfl

/-! ### HELLO and HEARTBEAT (R103, R116) -/

/-- The state in which a new HELLO has been noted and the reception begins anew from its number. -/
def greeted (m : HelloMsg) (s : State) : State :=
  { s with
    pair := { s.pair with
      hello := some m, peerSerial := m.serial, peerGen := m.generation, helloWaits := true, joining := none }
    ftb := { s.ftb with rxCum := m.firstMsgId, rxAbove := [], rx := [], hbRx := 0 } }

theorem helloIn_new {m : HelloMsg} {s : State} (h : s.pair.hello ≠ some m) :
    helloIn m s = tryJoin (tryPair (sendHello (sendReceipt (greeted m s)))) := by
  simp only [helloIn, h, decide_false, Bool.not_false, Bool.or_true, Bool.false_eq_true, if_false]
  rfl

theorem helloIn_again {m : HelloMsg} {s : State} (h : s.pair.hello = some m) (hserial : m.serial = s.pair.peerSerial)
    (hgen : m.generation = s.pair.peerGen) : helloIn m s = tryJoin (tryPair (sendReceipt s)) := by
  simp only [helloIn, h, decide_true, Bool.not_true, Bool.or_false, if_true, hserial, hgen]
  rw [← h]

theorem heartbeatIn_ignored {n : Nat} {m : HbMsg} {s : State} (h : m.counter ≤ s.ftb.hbRx ∨ (fportOf s n).aligned = false) :
    heartbeatIn n m s = s :=
  if_pos (by simpa using h)

/-- The state in which a HEARTBEAT has been counted. -/
def hbCounted (m : HbMsg) (s : State) : State :=
  { s with
    ftb := { s.ftb with hbRx := m.counter, peerHb := some m }
    pair := { s.pair with
      msgLive := true, msgHeld := false, peerGen := m.generation, genHeard := max s.pair.genHeard m.recordGen } }

theorem record_pair (sub lo cls : Nat) (subj : Subject) (detail : Bytes) (s : State) :
    (record sub lo cls subj detail s).pair = s.pair := by
  obtain ⟨e, o, p, h⟩ := record_frame sub lo cls subj detail s
  rw [h]

section
variable {n : Nat} {m : HbMsg} {s : State} (hcount : s.ftb.hbRx < m.counter) (haligned : (fportOf s n).aligned = true)
  (hgen : m.recordGen ≤ s.pair.arr.gen)
include hcount haligned hgen

theorem heartbeatIn_up (hup : (fportOf s n).up = true) :
    heartbeatIn n m s = tryJoin (tryPair (returnCheck m (hbCounted m s))) := by
  have hgo : ¬(m.counter ≤ s.ftb.hbRx ∨ (!(fportOf s n).aligned) = true) := by simp [hcount, haligned]
  simp only [heartbeatIn, if_neg hgo, hup, if_true, Nat.not_lt.2 hgen, false_and, and_false, if_false]
  rfl

theorem heartbeatIn_rises (hup : (fportOf s n).up = false) (hpaired : s.pair.paired = true) :
    heartbeatIn n m s = tryJoin (tryPair (returnCheck m (record 0x0B 5 0 .none (leN 1 n ++ leN 1 1)
      (setFport n { fportOf s n with up := true } (hbCounted m s))))) := by
  have hgo : ¬(m.counter ≤ s.ftb.hbRx ∨ (!(fportOf s n).aligned) = true) := by simp [hcount, haligned]
  simp only [heartbeatIn, if_neg hgo, if_neg (ne_true_of_eq_false hup), record_pair, setFport_pair, if_pos hpaired,
    Nat.not_lt.2 hgen, false_and, and_false, if_false]
  rfl

end

/-! ### MIRROR and RESYNC (R101) -/

theorem takeMirror_new {id : Nat} {s : State} (h : receipted s id = false) (recs : List JRec) : takeMirror id recs s =
    if takesMirror s = true then giveReceipt id (mirrorRequests recs (writeMirror recs s)) else s := by
  simp only [takeMirror, h, Bool.not_eq_true', Bool.false_eq_true, if_false]
  cases takesMirror s <;> rfl

theorem takeMirror_again {id : Nat} {s : State} (h : receipted s id = true) (recs : List JRec) :
    takeMirror id recs s = sendReceipt s := if_pos h

theorem resyncIn_again {id : Nat} {s : State} (h : receipted s id = true) (recs : List JRec) :
    resyncIn id recs s = sendReceipt s := if_pos h

theorem resyncIn_serving {id : Nat} {s : State} (h : receipted s id = false) (hup : s.jrn.restart = .none) (recs : List JRec) :
    resyncIn id recs s = giveReceipt id (mirrorRequests recs (writeMirror recs s)) := by
  simp only [resyncIn, h, hup, ne_eq, not_true_eq_false, Bool.false_eq_true, if_false]

/-- A restarting head whose own region is empty takes the record back as its own. -/
theorem resyncIn_restarting {id : Nat} {s : State} (h : receipted s id = false) (hdown : s.jrn.restart ≠ .none)
    (hown : s.jrn.own = []) (r : JRec) : resyncIn id [r] s = giveReceipt id { s with jrn := { s.jrn with
      own := [{ r := asReplayed r, acked := true, receipted := true }] } } := by
  have hnone : s.jrn.own.any (fun x => decide (x.r.off = r.off) && !x.lost && recValid x.r) = false := by rw [hown]; rfl
  have hkeep : s.jrn.own.filter (fun x => decide (x.r.off ≠ r.off)) = [] := by rw [hown]; rfl
  simp only [resyncIn, h, if_pos hdown, List.foldl_cons, List.foldl_nil, hnone, hkeep, Bool.false_eq_true, if_false,
    List.nil_append]

/-- A chunk record stands in the mirror region in place of what it overlaps. -/
theorem writeMirror_chunk {r : JRec} {s : State} {v c : Nat} {e p : Bytes} (hbody : r.body = .chunk v c e p)
    (hnew : s.jrn.mirror.any (fun x => decide (x = r)) = false) : writeMirror [r] s = { s with jrn := { s.jrn with
      mirror := s.jrn.mirror.filter (fun x => decide (x.off + recSize x ≤ r.off ∨ r.off + recSize r ≤ x.off)) ++ [r]
      mirrorLost := s.jrn.mirrorLost.filter (fun o => decide (o ≠ r.off)) } } := by
  simp only [writeMirror, List.foldl_cons, List.foldl_nil, hnew, mirrorEffect, hbody, Bool.false_eq_true, if_false]

/-! ### RECEIPT (R100) -/

/-- A receipt of records marks them and changes no record's content. -/
theorem markReceipted_marks (offs : List Nat) (s : State) :
    (∀ r ∈ (markReceipted offs s).jrn.own, r.r.off ∈ offs → r.receipted = true) ∧
      (markReceipted offs s).jrn.own.map (·.r) = s.jrn.own.map (·.r) := by
  refine ⟨fun r hr hoff => ?_, ?_⟩
  · obtain ⟨q, -, rfl⟩ := List.mem_map.1 (show r ∈ s.jrn.own.map _ from hr)
    by_cases hq : q.r.off ∈ offs
    · simp [hq]
    · simp [hq] at hoff
  · simp only [markReceipted, modOwn, modWhere, List.map_map]
    refine List.map_congr_left fun r _ => ?_
    simp only [Function.comp_apply]
    split <;> rfl

/-- The receipt of the one MIRROR message that is out frees it and marks its records. -/
theorem receiptIn_mirror {id cum : Nat} {m : FMsg} {s : State} (hsent : s.ftb.sent = [(id, m)]) (hcum : id ≤ cum)
    (htype : m.type = 3) (htaking : s.pair.taking = none) (hloss : s.pair.lossB = false) :
    ∃ t, receiptIn cum [] s = t ∧ t.ftb.sent = [] ∧ (∀ r ∈ t.jrn.own, r.r.off ∈ m.offs → r.receipted = true) ∧
      t.jrn.own.map (·.r) = s.jrn.own.map (·.r) := by
  have hvol : ∀ t : State, t.pair.taking = none → takeVolumes t = t := fun t ht => by simp only [takeVolumes, ht]
  obtain ⟨hmark, hkeep⟩ := markReceipted_marks m.offs s
  refine ⟨_, rfl, ?_⟩
  rw [receiptIn, hloss, if_neg Bool.false_ne_true, hvol _ (by simp [takeReceipt, hsent, hcum, htype, htaking, markReceipted, monEnd])]
  simp only [takeReceipt, hsent, List.filter_cons, List.filter_nil, hcum, decide_true, Bool.true_or, if_true, List.foldl_cons,
    List.foldl_nil, htype, true_or, tfilter, Bool.not_true, Bool.false_eq_true, if_false]
  exact ⟨rfl, hmark, hkeep⟩

/-! ### Sending again (R99) -/

/-- A range that begins within its message is sent again, cut to it. -/
theorem resendRanges_one {id first n : Nat} {m : FMsg} {s : State} (hm : tget s.ftb.sent id = some m) (hup : upPorts s ≠ [])
    (hfirst : first < m.len) : ∃ segs, tget (resendRanges id [(first, n)] s).ftb.sent id = some { m with segs := m.segs ++ segs } ∧
      (resendRanges id [(first, n)] s).out = s.out ++ (.ftb (.resend id [(first, min n (m.len - first))]) ::
        framesOf m.type id m.len (ftbPayload m.body) segs) := by
  obtain ⟨ps, turn, hs⟩ := dealSegs_frame (ftbClass m.type) (min n (m.len - first) / 9088 + 1) first (min n (m.len - first)) s
  simp only [resendRanges, hm, List.filterMap_cons, hfirst, if_true, List.filterMap_nil, List.foldl_cons, List.foldl_nil,
    List.cons_ne_nil, hup, or_self, if_false, List.nil_append]
  generalize dealSegs (ftbClass m.type) (min n (m.len - first) / 9088 + 1) first (min n (m.len - first)) s = d at hs ⊢
  obtain ⟨segs, t⟩ := d
  obtain rfl := hs
  refine ⟨segs, ?_, ?_⟩
  · simp only [sendFrames_eq, emit_ftb, apply_ite State.ftb]
    exact tget_tset_self ..
  · simp only [sendFrames_eq, emit, apply_ite State.out, monBegin, ite_self, List.append_assoc, List.singleton_append]

theorem ftbResend_eq {id : Nat} {m : FMsg} {s : State} (hm : tget s.ftb.sent id = some m) :
    ftbResend id s = resendRanges id [(0, m.len)] s := by
  simp only [ftbResend, hm]

/-! ### Segments (R98, R99) -/

theorem ahead_self {w a : Nat} (h : a < 2 ^ w) : ahead w a a = 0 := by
  rw [ahead, Nat.mod_eq_of_lt h, Nat.add_sub_cancel_left, Nat.mod_self]

/-- The state in which a mirror segment in order has been placed. -/
def segPlaced (port seq id off len : Nat) (total : Option Nat) (s : State) : State :=
  let s := setFport port { fportOf s port with rxMir := (seq + 1) % 2 ^ 32 } s
  { s with ftb := { s.ftb with rx := tset s.ftb.rx id { type := 3, placed := [(off, len)], total := total } } }

theorem ftbSegment_inOrder {port seq id off len : Nat} {total : Option Nat} {s : State} (hnew : receipted s id = false)
    (hexp : (fportOf s port).rxMir = seq) (hseq : seq < 2 ^ 32) (hrx : tget s.ftb.rx id = none) :
    ftbSegment port 1 seq id 3 off len total true s = segPlaced port seq id off len total s := by
  have hd : ahead 32 (fportOf s port).rxMir seq = 0 := by rw [hexp, ahead_self hseq]
  have hcls : ¬(1 : Nat) = 0 := by decide
  have hctl : ¬((3 : Nat) = 4 ∨ (3 : Nat) = 5) := by decide
  have hhb : ¬(3 : Nat) = 2 := by decide
  have hrec : ∀ p, ¬receipted (setFport port p s) id = true := fun p => ne_true_of_eq_false hnew
  have hget : ∀ (p : FPort) (d : FRx), tgetD (setFport port p s).ftb.rx id d = d := fun p d => by
    simp only [setFport, tgetD, hrx, Option.getD_none]
  simp only [ftbSegment, hd, if_neg hcls, if_neg hctl, if_neg hhb, if_neg (hrec _), hget, lt_irrefl, false_and, Bool.not_true,
    Bool.false_eq_true, if_false, Nat.two_pow_pos, if_true, List.nil_append]
  rfl

theorem ftbGap_asks {id : Nat} {x : FRx} {s : State} (hx : tget s.ftb.rx id = some x)
    (hgap : missing x.placed (x.total.getD 16777216) ≠ []) :
    ftbGap id s = ftbControl (.snakBytes id (missing x.placed (x.total.getD 16777216))) s := by
  simp only [ftbGap, hx]

/-! ### Ports (R97, R477) -/

/-- A port taken down; nothing that was sent waits on it. -/
def portLowered (n : Nat) (s : State) : State :=
  let t := setFport n { fportOf s n with up := false } s
  { t with ftb := { t.ftb with downs := satAdd 16 t.ftb.downs 1 } }

theorem record_ftb (sub lo cls : Nat) (subj : Subject) (detail : Bytes) (s : State) :
    (record sub lo cls subj detail s).ftb = s.ftb := by
  obtain ⟨e, o, p, h⟩ := record_frame sub lo cls subj detail s
  rw [h]

theorem dropPort_up {n : Nat} {s : State} (hup : (fportOf s n).up = true) :
    dropPort n s = record 0x0B 5 2 .none (leN 1 n ++ leN 1 0) (portLowered n s) :=
  if_neg (by simp [hup])

theorem portDown_up {n : Nat} {s : State} (hup : (fportOf s n).up = true) (hsent : s.ftb.sent = []) : ∃ u,
    u = record 0x0B 5 2 .none (leN 1 n ++ leN 1 0) (portLowered n s) ∧
      portDown n s = if noPortUp u then pathAction (abortFailback u) else u := by
  have hnone : (portLowered n s).ftb.sent = [] := hsent
  refine ⟨_, rfl, ?_⟩
  simp only [portDown, hup, dropPort_up hup, record_ftb, hnone, List.foldl_nil, Bool.not_true, Bool.false_eq_true, if_false]

theorem portDown_down {n : Nat} {s : State} (h : (fportOf s n).up = false) : portDown n s = s :=
  if_pos (by simp [h])

theorem pcsChange_aligns {n : Nat} {s : State} (hwired : (s.ghx.board.map (fun b => b.ftbWired.getLsbD n)).getD false = true)
    (hawake : asleep s = false) : pcsChange n true s = setFport n { fportOf s n with aligned := true } s := by
  simp only [pcsChange, hwired, hawake, Bool.not_false, Bool.and_self, if_true]

theorem pcsChange_loses {n : Nat} {s : State} (hup : (fportOf s n).up = false) (hheld : s.pair.msgHeld = false) :
    pcsChange n false s = setFport n { fportOf s n with aligned := false } s := by
  have hdown : portDown n (setFport n { fportOf s n with aligned := false } s) =
      setFport n { fportOf s n with aligned := false } s := portDown_down (by rw [fportOf_setFport_self]; exact hup)
  simp only [pcsChange, Bool.false_and, Bool.false_eq_true, if_false, hdown, setFport_pair, hheld, false_and]

/-! ### HEARTBEATs (R103) -/

/-- One HEARTBEAT counted, and sent on port n. -/
def beatOn (n : Nat) (s : State) : State :=
  ftbOnPort n (.heartbeat n (myHb s (s.ftb.hbTx + 1))) { s with ftb := { s.ftb with hbTx := s.ftb.hbTx + 1 } }

/-- The turn of port n to send its HEARTBEAT. -/
def beatTurn (s : State) (n : Nat) : State := if (fportOf s n).aligned then beatOn n s else s

theorem sendHeartbeats_eq (s : State) : sendHeartbeats s = (List.range 4).foldl beatTurn s := rfl

theorem beatOn_counts (n : Nat) (s : State) : (beatOn n s).ftb.hbTx = s.ftb.hbTx + 1 ∧ (beatOn n s).jrn = s.jrn ∧
    (beatOn n s).ftb.nextId = s.ftb.nextId + 1 := ⟨rfl, rfl, rfl⟩

theorem beatOn_out (n : Nat) (s : State) : ∃ f, (beatOn n s).out =
    s.out ++ [.ftb (.heartbeat n (myHb s (s.ftb.hbTx + 1))), .ftbFrame n f] := by
  have hframe : (beatOn n s).out = _ := congrArg State.out (sendFrames_eq ..)
  exact ⟨_, hframe.trans (List.append_assoc ..)⟩

/-- Sending a HEARTBEAT leaves every port's alignment. -/
theorem aligned_beatTurn (s : State) (n k : Nat) : (fportOf (beatTurn s n) k).aligned = (fportOf s k).aligned := by
  unfold beatTurn
  split
  · have hports : (beatOn n s).ftb.ports = tset s.ftb.ports n { fportOf s n with txCtl := ((fportOf s n).txCtl + 1) % 2 ^ 32 } := rfl
    by_cases hk : k = n
    · rw [hk, fportOf, hports, tgetD_tset_self]
    · rw [fportOf, hports, tgetD_tset_other _ _ _ hk]
      rfl
  · rfl

/-- One HEARTBEAT is counted for each aligned port of a list. -/
theorem foldl_beatTurn (l : List Nat) (s : State) :
    (l.foldl beatTurn s).ftb.hbTx = s.ftb.hbTx + (l.filter (fun n => (fportOf s n).aligned)).length ∧
      (l.foldl beatTurn s).jrn = s.jrn := by
  induction l generalizing s with
  | nil => exact ⟨rfl, rfl⟩
  | cons n l ih =>
    obtain ⟨htx, hjrn⟩ := ih (beatTurn s n)
    simp only [aligned_beatTurn] at htx
    rw [List.foldl_cons, htx, hjrn, List.filter_cons]
    cases h : (fportOf s n).aligned
    · simp [beatTurn, h]
    · have hturn : beatTurn s n = beatOn n s := if_pos h
      obtain ⟨htx', hjrn', -⟩ := beatOn_counts n s
      rw [hturn, htx', hjrn', if_pos rfl, List.length_cons]
      exact ⟨by omega, rfl⟩

/-- With port 0 alone aligned, it alone sends. -/
theorem sendHeartbeats_first {s : State} (h0 : (fportOf s 0).aligned = true)
    (hrest : ∀ n, 1 ≤ n → n < 4 → (fportOf s n).aligned = false) : sendHeartbeats s = beatOn 0 s := by
  have hturn : beatTurn s 0 = beatOn 0 s := if_pos h0
  have hskip : ∀ n, 1 ≤ n → n < 4 → beatTurn (beatOn 0 s) n = beatOn 0 s := fun n hn hn4 => by
    rw [beatTurn, ← hturn, aligned_beatTurn, hrest n hn hn4, if_neg Bool.false_ne_true]
  have hlist : List.range 4 = [0, 1, 2, 3] := rfl
  simp only [sendHeartbeats_eq, hlist, List.foldl_cons, List.foldl_nil, hturn, hskip 1, hskip 2, hskip 3, Nat.one_le_ofNat,
    Nat.reduceLT, le_refl]

/-! ### The heartbeat pins -/

theorem hbToggle_kicked {s : State} (hk : s.ghx.kicks ≠ 0) (hawake : asleep s = false) : hbToggle s =
    { s with ghx := { s.ghx with hbOut := !s.ghx.hbOut, kicks := s.ghx.kicks - 1 } } :=
  if_neg (by simp [hk, hawake])

theorem hbToggle_still {s : State} (h : s.ghx.kicks = 0 ∨ asleep s = true) : hbToggle s = s := if_pos h

/-- Settles O29: each message and each event of a port by its branch. -/
theorem footbridgeMessagesAndPorts : Obligations.FootbridgeMessagesAndPorts := by
  unfold Obligations.FootbridgeMessagesAndPorts
  refine ⟨?helloNew, ?helloAgain, ?heartbeat, ?ignored, ?mirror, ?chunk, ?again, ?ownBack, ?receipt, ?loss, ?sendAgain,
    ?snakPort, ?segment, ?badSegment, ?gap, ?portDown, ?aligns, ?loses, ?beats, ?beatOne, exec_hbKick, ?toggle, ?still,
    exec_peerHbInEdge⟩
  case helloNew =>
    intro m s h
    exact ⟨greeted m s, by rw [exec_hello, helloIn_new h], rfl, rfl, rfl, rfl, rfl, rfl, rfl⟩
  case helloAgain =>
    intro m s h hserial hgen
    rw [exec_hello, helloIn_again h hserial hgen]
  case heartbeat =>
    intro n m s u hcount haligned hgen hu
    subst hu
    exact ⟨fun hup => by rw [exec_heartbeat, heartbeatIn_up hcount haligned hgen hup]; rfl,
      fun hup hpaired => by rw [exec_heartbeat, heartbeatIn_rises hcount haligned hgen hup hpaired]; rfl⟩
  case ignored =>
    intro n m s h
    rw [exec_heartbeat, heartbeatIn_ignored h]
  case mirror =>
    intro id recs s h
    exact ⟨fun ht => by rw [exec_mirror, takeMirror_new h, if_pos ht],
      fun ht => by rw [exec_mirror, takeMirror_new h, if_neg (ne_true_of_eq_false ht)],
      fun hup => by rw [exec_resync, resyncIn_serving h hup]⟩
  case chunk =>
    intro r s v c e p hbody hnew
    exact writeMirror_chunk hbody hnew
  case again =>
    intro id recs s h
    exact ⟨by rw [exec_mirror, takeMirror_again h], by rw [exec_resync, resyncIn_again h]⟩
  case ownBack =>
    intro id r s h hdown hown
    rw [exec_resync, resyncIn_restarting h hdown hown]
  case receipt =>
    intro id cum m s hsent hcum htype htaking hloss
    obtain ⟨t, ht, hfacts⟩ := receiptIn_mirror hsent hcum htype htaking hloss
    exact ⟨t, by rw [exec_receipt, ht], hfacts⟩
  case loss =>
    intro cum ranges s h
    rw [exec_receipt, receiptIn, if_pos h]
  case sendAgain =>
    intro pc id first last m s hm hup
    refine ⟨fun hfirst => ?_, fun hpos => ?_⟩
    · obtain ⟨segs, hsegs, hout⟩ := resendRanges_one (n := last + 1 - first) hm hup hfirst
      exact ⟨_, segs, by rw [exec_snak, ftbSnak], hsegs, hout⟩
    · obtain ⟨segs, hsegs, hout⟩ := resendRanges_one (n := m.len) hm hup hpos
      rw [Nat.sub_zero, Nat.min_self] at hout
      exact ⟨_, segs, by rw [exec_footbridgeResendTimer, ftbResend_eq hm], hsegs, hout⟩
  case snakPort =>
    intro port cls id first last m s hsent
    rw [exec_snak, ftbSnak, hsent]
    rfl
  case segment =>
    intro port seq id off len total s hnew hexp hseq hrx
    refine ⟨segPlaced port seq id off len total s, ?_, fportOf_setFport_self .., tget_tset_self .., rfl⟩
    rw [exec_footbridgeSegment]
    exact congrArg (fun t => Host.Outcome.next (settle t)) (ftbSegment_inOrder hnew hexp hseq hrx)
  case badSegment =>
    intro port cls seq id type off len total s
    rw [exec_footbridgeSegment]
    rfl
  case gap =>
    intro id x s hx hgap
    rw [exec_footbridgeGapTimer, ftbGap_asks hx hgap]
  case portDown =>
    intro n s p hp hup hsent
    subst hp
    obtain ⟨u, hu, hdown⟩ := portDown_up hup hsent
    exact ⟨portLowered n s, u, by rw [exec_footbridgePortDown, hdown], hu, fportOf_setFport_self .., rfl, rfl⟩
  case aligns =>
    intro n s hwired hawake
    rw [exec_pcsAlignmentChange, pcsChange_aligns hwired hawake]
  case loses =>
    intro n s hup hheld
    rw [exec_pcsAlignmentChange, pcsChange_loses hup hheld]
  case beats =>
    intro s
    exact ⟨_, exec_heartbeatSendTimer s, foldl_beatTurn (List.range 4) s⟩
  case beatOne =>
    intro s h0 hrest
    obtain ⟨htx, -, hid⟩ := beatOn_counts 0 s
    obtain ⟨f, hout⟩ := beatOn_out 0 s
    exact ⟨beatOn 0 s, f, by rw [exec_heartbeatSendTimer, sendHeartbeats_first h0 hrest], htx, hid, hout⟩
  case toggle =>
    intro s hk hawake
    rw [exec_hbPinToggle, hbToggle_kicked hk hawake]
  case still =>
    intro s h
    rw [exec_hbPinToggle, hbToggle_still h]

end Sys2Proof.Machine
end

section
/-!
PROOFS. What the sled ports, the placement of chunks and the map leave as it is: the pair, the pins, the kept role of a lone head, and
the journal but for its own region.
-/
namespace Sys2Proof.Machine

/-- The state without what the media side and the map change: of the placement the lone role, of the map the checkpoint, of the
journal all but the own region. -/
def offMedia (s : State) : State :=
  { s with
    out := [], mons := {}, dram := {}, cns := {}, sleds := {}, ing := {}, ftb := {}
    plc := { alone := s.plc.alone }
    map := { ckpt := s.map.ckpt }
    jrn := { s.jrn with own := [], cursor := 0 } }

section
variable {s t : State} (h : offMedia t = offMedia s)
include h

theorem pair_of_offMedia : t.pair = s.pair := (congrArg State.pair h :)
theorem ghx_of_offMedia : t.ghx = s.ghx := (congrArg State.ghx h :)
theorem alone_of_offMedia : t.plc.alone = s.plc.alone := (congrArg (fun s => s.plc.alone) h :)
theorem ckpt_of_offMedia : t.map.ckpt = s.map.ckpt := (congrArg (fun s => s.map.ckpt) h :)
theorem cmds_of_offMedia : t.jrn.cmds = s.jrn.cmds := (congrArg (fun s => s.jrn.cmds) h :)
theorem asn_of_offMedia : t.jrn.asn = s.jrn.asn := (congrArg (fun s => s.jrn.asn) h :)
theorem mirror_of_offMedia : t.jrn.mirror = s.jrn.mirror := (congrArg (fun s => s.jrn.mirror) h :)
theorem tables_of_offMedia : t.jrn.tables = s.jrn.tables := (congrArg (fun s => s.jrn.tables) h :)
theorem mirrorTables_of_offMedia : t.jrn.mirrorTables = s.jrn.mirrorTables := (congrArg (fun s => s.jrn.mirrorTables) h :)

end

theorem foldl_offMedia {α : Type} {f : State → α → State} (hf : ∀ s a, offMedia (f s a) = offMedia s) (l : List α) (s : State) :
    offMedia (l.foldl f s) = offMedia s := foldl_keeps offMedia hf l s

/-- A record update of what is masked. -/
@[simp] theorem offMedia_update {s : State} {out mons dram cns sleds ing ftb} {plc : Plc} {map : MapSt} {jrn : Jrn}
    (hplc : plc.alone = s.plc.alone) (hmap : map.ckpt = s.map.ckpt)
    (hjrn : { jrn with own := [], cursor := 0 } = { s.jrn with own := [], cursor := 0 }) :
    offMedia ⟨s.pending, out, s.draws, s.kiosk, s.evt, mons, s.gh, s.ghx, s.sec, dram, cns, sleds, map, plc, jrn, ing, ftb, s.pair,
      s.lat, s.rep⟩ = offMedia s := by
  simp only [offMedia, hplc, hmap, hjrn]

/-! ### Sled ports -/

theorem offMedia_of_offPorts {s t : State} (h : offPorts t = offPorts s) : offMedia t = offMedia s := (congrArg offMedia h :)

@[simp] theorem emit_offMedia (o : Out) (s : State) : offMedia (emit o s) = offMedia s := rfl
@[simp] theorem monBegin_offMedia (probe id : Nat) (s : State) : offMedia (monBegin probe id s) = offMedia s := rfl
@[simp] theorem setPort_offMedia (p : Nat) (v : SPort) (s : State) : offMedia (setPort p v s) = offMedia s := rfl
@[simp] theorem setFport_offMedia (n : Nat) (p : FPort) (s : State) : offMedia (setFport n p s) = offMedia s := rfl
@[simp] theorem setShelf_offMedia (g : Nat) (v : Shelf) (s : State) : offMedia (setShelf g v s) = offMedia s := rfl
@[simp] theorem adoptRecords_offMedia (g : Nat) (s : State) : offMedia (adoptRecords g s) = offMedia s := rfl
@[simp] theorem modSet_offMedia (k : Nat) (f : BSet → BSet) (s : State) : offMedia (modSet k f s) = offMedia s := rfl
@[simp] theorem modRow_offMedia (g n : Nat) (f : Row → Row) (s : State) : offMedia (modRow g n f s) = offMedia s := rfl
@[simp] theorem setOpenSled_offMedia (g sl : Nat) (os : OpenSled) (s : State) :
    offMedia (setOpenSled g sl os s) = offMedia s := rfl

@[simp] theorem link_offMedia (p : Nat) (l : LinkOut) (s : State) : offMedia (link p l s) = offMedia s :=
  offMedia_of_offPorts (link_offPorts ..)

@[simp] theorem sendFlits_offMedia (p : Nat) (fs : List TxFlit) (s : State) : offMedia (sendFlits p fs s) = offMedia s :=
  offMedia_of_offPorts (pump_offPorts ..)

@[simp] theorem powerGroup_offMedia (g : Nat) (on : Bool) (s : State) : offMedia (powerGroup g on s) = offMedia s :=
  offMedia_of_offPorts (powerGroup_offPorts ..)

@[simp] theorem sledStarts_offMedia (p : Nat) (c : SledCmd) (s : State) : offMedia (sledStarts p c s) = offMedia s := by
  simp [sledStarts, apply_ite offMedia]

@[simp] theorem meter_offMedia (p : Nat) (c : SledCmd) (s : State) : offMedia (meter p c s) = offMedia s := by
  simp only [meter]
  split <;> rfl

@[simp] theorem kick_offMedia (p k : Nat) (s : State) : offMedia (kick p k s) = offMedia s := by
  induction k generalizing s with
  | zero => rfl
  | succ k ih =>
    simp only [kick]
    repeat' split
    all_goals simp [ih]

@[simp] theorem sendSled_offMedia (p : Nat) (why : SledFor) (c : SledCmd) (s : State) :
    offMedia (sendSled p why c s) = offMedia s := by
  simp [sendSled, kickAll, apply_ite offMedia]

@[simp] theorem lockPorts_offMedia (aux : Nat) (s : State) : offMedia (lockPorts aux s) = offMedia s :=
  foldl_offMedia (fun s p => by split <;> simp) _ _

@[simp] theorem releaseShelf_offMedia (g : Nat) (st : ShelfSt) (s : State) : offMedia (releaseShelf g st s) = offMedia s := by
  simp [releaseShelf]

@[simp] theorem assertGood_offMedia (s : State) : offMedia (assertGood s) = offMedia s :=
  foldl_offMedia (fun s g => by dsimp only; split <;> simp) _ _

/-! ### Journal records that belong to no unit -/

@[simp] theorem cnsStores_offMedia (port pa n : Nat) (s : State) : offMedia (cnsStores port pa n s) = offMedia s := by
  simp only [cnsStores, onMemory]
  split <;> rfl

@[simp] theorem sendFrames_offMedia (type id len : Nat) (payload : Bytes) (segs : List (Nat × Nat × Nat × Nat × Nat)) (s : State) :
    offMedia (sendFrames type id len payload segs s) = offMedia s :=
  foldl_offMedia (fun _ _ => emit_offMedia ..) _ _

@[simp] theorem ftbSend_offMedia (type cls len : Nat) (offs : List Nat) (mk : Nat → FtbOut) (s : State) :
    offMedia (ftbSend type cls len offs mk s).2 = offMedia s := by
  obtain ⟨ps, n, hd⟩ := dealSegs_frame cls (len / 9088 + 1) 0 len s
  simp only [ftbSend]
  generalize dealSegs cls (len / 9088 + 1) 0 len s = d at hd ⊢
  simp [apply_ite offMedia, hd]

@[simp] theorem mirrorRec_offMedia (off : Nat) (s : State) : offMedia (mirrorRec off s) = offMedia s := by
  simp only [mirrorRec]
  repeat' split
  all_goals simp

@[simp] theorem recordBlocks_offMedia (bs : List (Nat × Nat × Nat × Nat)) (s : State) :
    offMedia (recordBlocks bs s) = offMedia s := by
  simp [recordBlocks, writeLoose, writeRec, apply_ite offMedia]

/-! ### Closing a band -/

@[simp] theorem touchRow_offMedia (g : Nat) (ob : OpenBand) (n : Nat) (s : State) :
    offMedia (touchRow g ob n s) = offMedia s := by
  unfold touchRow
  split <;> simp

@[simp] theorem programPage_offMedia (key lin : Nat) (data : Bytes) (s : State) :
    offMedia (programPage key lin data s) = offMedia s := by
  unfold programPage
  split <;> simp

@[simp] theorem programBoth_offMedia (key lin : Nat) (data : Bytes) (s : State) :
    offMedia (programBoth key lin data s) = offMedia s := by
  unfold programBoth
  split <;> simp

@[simp] theorem flushPage_offMedia (g sl : Nat) (s : State) : offMedia (flushPage g sl s) = offMedia s := by
  simp only [flushPage]
  repeat' split
  all_goals simp

@[simp] theorem padShelf_offMedia (g : Nat) (s : State) : offMedia (padShelf g s) = offMedia s := by
  refine foldl_offMedia (fun s sl => ?_) _ _
  unfold padPage
  repeat' split
  all_goals simp

@[simp] theorem verifyRead_offMedia (key lin : Nat) (s : State) : offMedia (verifyRead key lin s) = offMedia s := by
  unfold verifyRead
  split <;> simp

@[simp] theorem startVerify_offMedia (key : Nat) (s : State) : offMedia (startVerify key s) = offMedia s := by
  simp only [startVerify]
  repeat' split
  · rfl
  · exact (foldl_offMedia (fun _ _ => verifyRead_offMedia ..) _ _).trans (modSet_offMedia ..)
  · rfl

@[simp] theorem closeBand_offMedia (g : Nat) (s : State) : offMedia (closeBand g s) = offMedia s := by
  simp only [closeBand]
  split
  · rfl
  split
  · exact padShelf_offMedia ..
  refine (foldl_offMedia (fun s e => ?verify) _ _).trans ?_
  case verify => split <;> simp
  simp only [setShelf_offMedia, offMedia_update, recordBlocks_offMedia]
  refine (foldl_offMedia (fun _ _ => modRow_offMedia ..) _ _).trans ?_
  refine (foldl_offMedia (fun s e => ?close) _ _).trans (padShelf_offMedia ..)
  case close =>
    split
    · rfl
    · simp [apply_ite offMedia]

/-! ### The map -/

@[simp] theorem updateIndex_offMedia (serial : Nat) (loc : Loc) (s : State) : offMedia (updateIndex serial loc s) = offMedia s := rfl

@[simp] theorem dirtyPage_offMedia (page i : Nat) (s : State) : offMedia (dirtyPage page i s) = offMedia s := by
  simp [dirtyPage]

@[simp] theorem putChunk_offMedia (serial : Nat) (c : ChunkRec) (s : State) : offMedia (putChunk serial c s) = offMedia s := by
  simp [putChunk]

@[simp] theorem putLoc_offMedia (key chunk : Nat) (loc : Loc) (s : State) : offMedia (putLoc key chunk loc s) = offMedia s := by
  unfold putLoc
  split <;> simp

@[simp] theorem moveChunk_offMedia (m : MoveEntry) (s : State) : offMedia (moveChunk m s) = offMedia s := by
  simp only [moveChunk]
  repeat' split
  all_goals simp

@[simp] theorem freeIfDead_offMedia (k serial : Nat) (s : State) : offMedia (freeIfDead k serial s) = offMedia s := by
  induction k generalizing serial s with
  | zero => rfl
  | succ k ih =>
    simp only [freeIfDead]
    repeat' split
    all_goals simp [ih]

@[simp] theorem dropRef_offMedia (peer : Bool) (serial : Nat) (s : State) : offMedia (dropRef peer serial s) = offMedia s := by
  simp only [dropRef]
  split <;> simp

@[simp] theorem unpinChunk_offMedia (serial : Nat) (s : State) : offMedia (unpinChunk serial s) = offMedia s := by
  unfold unpinChunk
  split <;> simp

@[simp] theorem addRef_offMedia (peer : Bool) (serial : Nat) (s : State) : offMedia (addRef peer serial s) = offMedia s := by
  unfold addRef
  split <;> simp [makeIndirect, apply_ite offMedia]

@[simp] theorem ownLeaf_offMedia (key page : Nat) (s : State) : offMedia (ownLeaf key page s) = offMedia s := by
  unfold ownLeaf
  repeat' split
  all_goals simp [foldl_offMedia]

@[simp] theorem putEnt_offMedia (key chunk : Nat) (e : MapEnt) (s : State) : offMedia (putEnt key chunk e s) = offMedia s := by
  simp only [putEnt]
  split <;> simp

@[simp] theorem unmapChunk_offMedia (key chunk : Nat) (s : State) : offMedia (unmapChunk key chunk s) = offMedia s := by
  simp [unmapChunk, apply_ite offMedia]

@[simp] theorem mapShared_offMedia (key chunk serial : Nat) (s : State) : offMedia (mapShared key chunk serial s) = offMedia s := by
  simp only [mapShared]
  split <;> simp [apply_ite offMedia]

@[simp] theorem mapNew_offMedia (key chunk serial : Nat) (s : State) : offMedia (mapNew key chunk serial s) = offMedia s := by
  simp only [mapNew, mapDirect]
  repeat' split
  all_goals simp

@[simp] theorem enterChunk_offMedia (off : Nat) (mirror : Bool) (envelope : Bytes) (s : State) :
    offMedia (enterChunk off mirror envelope s) = offMedia s := by
  simp only [enterChunk]
  repeat' split
  all_goals simp

@[simp] theorem applyRec_offMedia (snap off : Nat) (mirror : Bool) (b : JBody) (s : State) :
    offMedia (applyRec snap off mirror b s) = offMedia s := by
  cases b <;> simp [applyRec, applyRelease, foldl_offMedia, apply_ite offMedia]

end Sys2Proof.Machine
end

section
/-!
PROOFS. The loss of the peer, the fence and the takeover (R104, R108 to R111, R117, R118, R201; Tables 4.5 and 4.6).
-/
namespace Sys2Proof.Machine

theorem exec_pinPathSilent (s : State) : exec .pinPathSilent s = .next (settle (peerHbWake (pinSilent s))) := rfl
theorem exec_messagePathSilent (s : State) : exec .messagePathSilent s = .next (settle (msgSilent s)) := rfl
theorem exec_partialSilenceTimeout (s : State) : exec .partialSilenceTimeout s = .next (settle (partialSilence s)) := rfl
theorem exec_roleBFenceDelay (s : State) : exec .roleBFenceDelay s = .next (settle (roleBDelay s)) := rfl
theorem exec_fenceInFall (s : State) : exec .fenceInFall s = .next (settle (fenceInFall s)) := rfl
theorem exec_fenceInRise (s : State) : exec .fenceInRise s = .next (settle (fenceRise s)) := rfl
theorem exec_takeoverSledWaitEnd (s : State) : exec .takeoverSledWaitEnd s = .next (settle (sledWaitEnd s)) := rfl
theorem exec_takeoverMapLoaded (s : State) : exec .takeoverMapLoaded s = .next (settle (mapLoaded s)) := rfl

theorem record_ghx (sub lo cls : Nat) (subj : Subject) (detail : Bytes) (s : State) :
    (record sub lo cls subj detail s).ghx = s.ghx := by
  obtain ⟨e, o, p, h⟩ := record_frame sub lo cls subj detail s
  rw [h]

/-! ### The paths to the peer (R104, R108, R109, Table 4.5) -/

/-- The state in which the pin path has been noted silent. -/
def pinsSilent (s : State) : State :=
  { s with pair := { s.pair with pinLive := false }, ghx := { s.ghx with peerHb := false } }

theorem pinSilent_portUp {s : State} (hup : noPortUp s = false) (hpaired : s.pair.paired = true) :
    pinSilent s = record 0x0B 5 2 .none [] (pinsSilent s) := by
  have hup' : noPortUp (pinsSilent s) = false := hup
  exact if_pos ⟨by rw [← pinsSilent, hup']; rfl, hpaired⟩

theorem pinSilent_noPort {s : State} (hup : noPortUp s = true) : pinSilent s = pathAction (pinsSilent s) := by
  have hup' : noPortUp (pinsSilent s) = true := hup
  exact if_neg fun h => by rw [← pinsSilent, hup'] at h; exact Bool.false_ne_true h.1

section
variable {s : State}

theorem paired_of_mayDeclare (h : mayDeclare s = true) : s.pair.paired = true := by
  simp only [mayDeclare, Bool.and_eq_true] at h
  exact h.1.1.1.1

theorem lossAction_a (h : mayDeclare s = true) (ha : roleOf s = .a) (both : Bool) : lossAction both s = fencePeer s := by
  simp only [lossAction, h, ha, Bool.not_true, Bool.false_eq_true, if_false]

theorem lossAction_b (h : mayDeclare s = true) (hb : roleOf s = .b) (both : Bool) : lossAction both s =
    if both then { s with pair := { s.pair with lossB := true } } else s := by
  simp only [lossAction, h, hb, Bool.not_true, Bool.false_eq_true, if_false]

/-- With every port down and the pins silent, both paths are lost. -/
theorem pathAction_silent (hup : noPortUp s = true) (h : mayDeclare s = true) (hpin : s.pair.pinLive = false) :
    pathAction s = lossAction true s := by
  simp only [pathAction, hup, paired_of_mayDeclare h, hpin, Bool.not_true, Bool.not_false, Bool.false_eq_true, or_self, if_false,
    if_true]

theorem partialSilence_acts (hheld : s.pair.msgHeld = true) (hup : noPortUp s = true) (hpin : s.pair.pinLive = true) :
    partialSilence s = lossAction false s := if_pos ⟨hheld, hup, hpin⟩

theorem roleBDelay_fences (hloss : s.pair.lossB = true) (h : mayDeclare s = true) : roleBDelay s = fencePeer s :=
  if_pos ⟨hloss, h⟩

theorem roleBDelay_ends (h : mayDeclare s = false) : roleBDelay s = { s with pair := { s.pair with lossB := false } } :=
  if_neg (by simp [h])

end

/-! ### Fencing the peer (R110) -/

/-- The epoch timer changes the journal alone. -/
theorem epochTimer_frame (s : State) : ∃ j, epochTimer s = { s with jrn := j } := by
  simp only [epochTimer]
  split <;> exact ⟨_, rfl⟩

/-- The state in which this head runs alone, its handover given up. -/
def goneAlone (s : State) : State :=
  let u := dropHandover { s with pair := { s.pair with
    lossB := false, msgHeld := false, rejoin := false, helloWaits := false, joining := none } }
  { u with plc := { u.plc with alone := true } }

/-- The fence is driven. -/
def driveFence (s : State) : State :=
  { s with
    ghx := { s.ghx with fenceOut := true }
    pair := { s.pair with state := 4, takeover := 4, failStep := 0 } }

theorem fencePeer_eq {s : State} (hin : s.ghx.fenceIn = false) (hfenced : s.pair.fenced = false) :
    fencePeer s = epochTimer (note 0x0B 5 3 (stopMirror (lockPorts 1 (driveFence (assertGood (goneAlone s)))))) := by
  simp only [fencePeer, hin, hfenced, Bool.false_eq_true, or_self, if_false, driveFence, goneAlone]

/-- What driving the fence and locking the peer out keep and set, from a head that runs alone. -/
theorem fenceDriven_keeps {u v w : State} (halone : u.plc.alone = true) (hhand : u.pair.handover = none)
    (hlock : offMedia v = offMedia (driveFence u)) (hw : w = epochTimer (note 0x0B 5 3 (stopMirror v))) :
    w.ghx.fenceOut = true ∧ w.pair.state = 4 ∧ w.plc.alone = true ∧ w.ftb.waiting = [] ∧ w.pair.handover = none := by
  obtain ⟨j, hj⟩ := epochTimer_frame (note 0x0B 5 3 (stopMirror v))
  rw [hw, hj]
  simp only [note, record_ghx, record_pair, record_plc, record_ftb, stopMirror, ghx_of_offMedia hlock, pair_of_offMedia hlock,
    alone_of_offMedia hlock]
  exact ⟨rfl, rfl, halone, trivial, hhand⟩

/-- Fencing drives the fence, runs alone, gives its handover up and mirrors nothing. -/
theorem fencePeer_fences {s : State} (hin : s.ghx.fenceIn = false) (hfenced : s.pair.fenced = false) :
    (fencePeer s).ghx.fenceOut = true ∧ (fencePeer s).pair.state = 4 ∧ (fencePeer s).plc.alone = true ∧
      (fencePeer s).ftb.waiting = [] ∧ (fencePeer s).pair.handover = none := by
  have hgood := assertGood_offMedia (goneAlone s)
  have halone : (assertGood (goneAlone s)).plc.alone = true := by rw [alone_of_offMedia hgood]; rfl
  have hhand : (assertGood (goneAlone s)).pair.handover = none := by rw [pair_of_offMedia hgood]; rfl
  exact fenceDriven_keeps halone hhand (lockPorts_offMedia 1 _) (fencePeer_eq hin hfenced)

/-! ### Being fenced (R110, R111) -/

/-- Two states with the same pair and the same pins. -/
def samePair (t s : State) : Prop := t.pair = s.pair ∧ t.ghx = s.ghx

theorem samePair_of_offMedia {s t : State} (h : offMedia t = offMedia s) : samePair t s :=
  ⟨pair_of_offMedia h, ghx_of_offMedia h⟩

theorem samePair.trans {s t u : State} (h : samePair u t) (h' : samePair t s) : samePair u s :=
  ⟨h.1.trans h'.1, h.2.trans h'.2⟩

theorem foldl_samePair {α : Type} {f : State → α → State} (hf : ∀ s a, samePair (f s a) s) (l : List α) (s : State) :
    samePair (l.foldl f s) s :=
  ⟨foldl_keeps State.pair (fun s a => (hf s a).1) l s, foldl_keeps State.ghx (fun s a => (hf s a).2) l s⟩

/-- Applying a unit changes neither the pair nor the pins. -/
theorem applyUnit_samePair (asn unit : Nat) (s : State) : samePair (applyUnit asn unit s) s := by
  have hpins := fun (l : List Nat) t => samePair_of_offMedia (foldl_offMedia (fun s k => unpinChunk_offMedia k s) l t)
  have hrecs := samePair_of_offMedia (foldl_offMedia (fun s (r : OwnRec) => applyRec_offMedia 0 r.r.off false r.r.body s)
    (unitRecs s asn unit) s)
  exact (hpins _ _).trans hrecs

/-- The work goes; the pair and the pins stay, and no command is left. -/
theorem dropWork_samePair (s : State) : samePair (dropWork s) s := by
  have hfree := fun (l : List Nat) t => samePair_of_offMedia (foldl_offMedia (fun s k => freeIfDead_offMedia 4096 k s) l t)
  have hunits := foldl_samePair (f := fun s (u : UnitBook) => if u.applied ∨ u.mirror then s else applyUnit u.asn u.unit s)
    (fun s u => by
      split
      · exact ⟨rfl, rfl⟩
      · exact applyUnit_samePair ..) s.jrn.units s
  exact (hfree _ _).trans hunits

theorem cmds_dropWork (s : State) : (dropWork s).jrn.cmds = [] :=
  cmds_of_offMedia (foldl_offMedia (fun s k => freeIfDead_offMedia 4096 k s) _ _)

/-- The pair of a head that has just been fenced. -/
def fencedPair (s : State) : Pair :=
  { s.pair with
    fenced := true, state := 5, lossB := false, takeover := 0, failStep := 0, failJob := none, handover := none
    handNext := false, taking := none, filled := false, rejoin := false, helloWaits := false, joining := none, owned := ownNone s
    resyncs := [] }

/-- The state in which the fall of the fence has been latched. -/
def fenceLatched (s : State) : State :=
  { s with
    ghx := { s.ghx with fenceIn := true, fenceOut := false }
    plc := { s.plc with alone := false }
    pair := { fencedPair s with resyncs := s.pair.resyncs } }

/-- The shelves this head holds go. -/
def letShelvesGo (s : State) : State :=
  (List.range 32).foldl (fun s g => if holdsShelf (shelfOf s g) then releaseShelf g .off s else s) s

theorem letShelvesGo_samePair (s : State) : samePair (letShelvesGo s) s :=
  foldl_samePair (fun s g => samePair_of_offMedia (by split <;> simp)) _ _

/-- The state in which a fenced head has let its shelves and its work go. -/
def fenceStopped (s : State) : State := dropWork (letShelvesGo (stopMirror (stopPrograms (fenceLatched s))))

theorem fenceStopped_keeps (s : State) : (fenceStopped s).pair = fencedPair s ∧
    (fenceStopped s).ghx = { s.ghx with fenceIn := true, fenceOut := false } ∧ (fenceStopped s).jrn.cmds = [] := by
  have hshelves := letShelvesGo_samePair (stopMirror (stopPrograms (fenceLatched s)))
  rw [fenceStopped]
  generalize letShelvesGo (stopMirror (stopPrograms (fenceLatched s))) = u at hshelves ⊢
  obtain ⟨hpair, hghx⟩ := (dropWork_samePair u).trans hshelves
  exact ⟨hpair, hghx, cmds_dropWork u⟩

theorem fenceFall_fences {s : State} (hfenced : s.pair.fenced = false) (hout : s.ghx.fenceOut = false ∨ roleOf s = .b) :
    fenceFall s = (s.pair.handover.filter (·.fence), note 0x0B 5 3 { fenceStopped s with jrn := { (fenceStopped s).jrn with
      epoch := { (fenceStopped s).jrn.epoch with step := 0, marker := none }, serving := true, restart := .none } }) := by
  have hown : ¬ (s.ghx.fenceOut = true ∧ roleOf s = .a ∧ True) := by
    rcases hout with h | h <;> simp [h]
  have hrole : roleOf { s with ghx := { s.ghx with fenceIn := true } } = roleOf s := rfl
  have hnone : ownNone { s with ghx := { s.ghx with fenceIn := true } } = ownNone s := rfl
  simp only [fenceFall, hfenced, hrole, hnone, Bool.not_false, if_neg hown, Bool.false_eq_true, if_false, fenceStopped, letShelvesGo,
    fenceLatched, fencedPair]

/-- A head that gives no handover and moves to no other power state stops. -/
theorem fenceInFall_fences {s : State} (hfenced : s.pair.fenced = false) (hout : s.ghx.fenceOut = false ∨ roleOf s = .b)
    (hrest : s.ghx.trans = .none) (hhand : s.pair.handover = none) : ∃ t, fenceInFall s = t ∧ t.pair = fencedPair s ∧
      t.ghx = { s.ghx with fenceIn := true, fenceOut := false } ∧ t.jrn.cmds = [] := by
  obtain ⟨hpair, hghx, hcmds⟩ := fenceStopped_keeps s
  have hin : (fenceStopped s).pair.fenced = true := by rw [hpair]; rfl
  have htrans : (fenceStopped s).ghx.trans = .none := by rw [hghx]; exact hrest
  refine ⟨_, rfl, ?_⟩
  simp only [fenceInFall, fenceFall_fences hfenced hout, hfenced, note, record_pair, record_ghx, record_jrn, hin, htrans, hhand,
    Option.filter_none, Bool.not_true, Bool.false_eq_true, or_self, if_false]
  exact ⟨hpair, hghx, hcmds⟩

theorem fenceFall_notes {s : State} (h : s.pair.fenced = true ∨ (s.ghx.fenceOut = true ∧ roleOf s = .a)) :
    fenceFall s = (none, { s with ghx := { s.ghx with fenceIn := true } }) := by
  cases hf : s.pair.fenced
  · obtain ⟨ho, ha⟩ := h.resolve_left (ne_true_of_eq_false hf)
    exact if_pos ⟨ho, ha, by rw [hf]; rfl⟩
  · exact (if_neg fun h => by simp [hf] at h).trans (if_pos hf)

/-- A fenced head, or role A whose own fence is low, only notes the pin. -/
theorem fenceInFall_notes {s : State} (h : s.pair.fenced = true ∨ (s.ghx.fenceOut = true ∧ roleOf s = .a)) :
    fenceInFall s = { s with ghx := { s.ghx with fenceIn := true } } := by
  simp only [fenceInFall, fenceFall_notes h]
  exact if_pos (by cases s.pair.fenced <;> simp)

theorem fenceRise_fenced {s : State} (h : s.pair.fenced = true) :
    fenceRise s = record 0x0B 5 1 .none [] { s with ghx := { s.ghx with fenceIn := false } } := if_pos h

theorem fenceRise_free {s : State} (h : s.pair.fenced = false) :
    fenceRise s = { s with ghx := { s.ghx with fenceIn := false } } := if_neg (ne_true_of_eq_false h)

/-! ### The takeover (Table 4.6) -/

/-- Two states whose journals have the same ASN and the same mirror region. -/
def sameMirror (t s : State) : Prop := t.jrn.asn = s.jrn.asn ∧ t.jrn.mirror = s.jrn.mirror

theorem foldl_sameMirror {α : Type} {f : State → α → State} (hf : ∀ s a, sameMirror (f s a) s) (l : List α) (s : State) :
    sameMirror (l.foldl f s) s :=
  ⟨foldl_keeps (fun s => s.jrn.asn) (fun s a => (hf s a).1) l s,
    foldl_keeps (fun s => s.jrn.mirror) (fun s a => (hf s a).2) l s⟩

theorem sameMirror_of_offMedia {s t : State} (h : offMedia t = offMedia s) : sameMirror t s :=
  ⟨asn_of_offMedia h, mirror_of_offMedia h⟩

theorem peerMove_offMedia (m : MoveEntry) (s : State) : offMedia (peerMove m s) = offMedia s := by
  simp only [peerMove, moveChunk_offMedia, peerPage]
  repeat' split
  all_goals rfl

/-- Applying a unit of the mirror region leaves the region. -/
theorem applyMirror_sameMirror (asn unit : Nat) (s : State) : sameMirror (applyMirror asn unit s) s := by
  have hrecs : ∀ (l : List JRec) t, sameMirror (l.foldl (fun s r => match r.body with
      | .mapMoves es => es.foldl (fun s x => peerMove x s) s
      | b => applyRec 0 r.off true b s) t) t := fun l t => by
    refine sameMirror_of_offMedia (foldl_offMedia (fun s r => ?_) l t)
    split
    · exact foldl_offMedia (fun s x => peerMove_offMedia x s) _ _
    · exact applyRec_offMedia ..
  simp only [applyMirror]
  split
  · exact ⟨rfl, rfl⟩
  split
  · split
    · exact ⟨rfl, rfl⟩
    · split <;> exact hrecs _ _
  · exact ⟨rfl, rfl⟩

/-- Reconciling keeps the ASN, and of the mirror region what a unit's book still names. -/
theorem reconcileMirror_keeps (s : State) : (reconcileMirror s).jrn.asn = s.jrn.asn ∧
    (reconcileMirror s).jrn.mirrorRun = [] ∧ ∀ r ∈ (reconcileMirror s).jrn.mirror, r ∈ s.jrn.mirror := by
  have happly := fun (l : List (Nat × Nat)) t => foldl_sameMirror (fun s (u : Nat × Nat) => applyMirror_sameMirror u.1 u.2 s) l t
  simp only [reconcileMirror]
  generalize hu : List.foldl _ (List.foldl _ s _) _ = u
  have hkept : sameMirror u s := by
    rw [← hu]
    refine ⟨(foldl_sameMirror (fun s a => ?_) _ _).1.trans (happly _ _).1, (foldl_sameMirror (fun s a => ?_) _ _).2.trans (happly _ _).2⟩
    all_goals split <;> exact ⟨rfl, rfl⟩
  exact ⟨hkept.1, trivial, fun r hr => hkept.2 ▸ (List.mem_filter.1 hr).1⟩

theorem sledWaitEnd_due {s : State} (h : s.pair.takeover = 4) : sledWaitEnd s = { reconcileMirror s with
    pair := { (reconcileMirror s).pair with takeover := 6 }
    jrn := { (reconcileMirror s).jrn with asn := max (reconcileMirror s).jrn.asn (peerAsnHigh s) } } :=
  if_neg (not_not.2 h)

/-- Taking the peer's holds over changes the placement; a value of the implementation is drawn. -/
theorem takeHolds_frame (s : State) : ∃ p d, takeHolds s = { s with plc := p, draws := d } := by
  have hfold : ∀ (l : List (Nat × Nat × Nat × Nat × List Nat × Nat)) (t : State), (∃ p d, t = { s with plc := p, draws := d }) →
      ∃ p d, l.foldl (fun s h =>
        let (vol, snap, first, blocks, shelves, expiry) := h
        let v : Hold := { volume := vol, snap := snap, first := first, blocks := blocks, staged := [], shelves := shelves.filter (fun g => decide (g < 32)), expiry := expiry }
        if ownerOf s vol = roleOf s then s
        else { s with plc := { s.plc with holds := tset s.plc.holds s.plc.holdCount v, holdCount := s.plc.holdCount + 1 } }) t =
          { s with plc := p, draws := d } := by
    intro l
    induction l with
    | nil => exact fun t h => h
    | cons h l ih =>
      rintro _ ⟨p, d, rfl⟩
      refine ih _ ?_
      dsimp only
      split <;> exact ⟨_, _, rfl⟩
  exact hfold _ _ ⟨_, _, rfl⟩

theorem closePeerSets_offMedia (s : State) : offMedia (closePeerSets s) = offMedia s := by
  refine (foldl_offMedia (fun s b => ?_) _ _).trans rfl
  simp

/-- The state in which the takeover's map has been loaded, before its event. -/
def mapTaken (s : State) : State :=
  let u := takeHolds s
  let u := closePeerSets { u with pair := { u.pair with takeover := 0, owned := ownAll u } }
  { u with
    jrn := { u.jrn with tables := u.jrn.mirrorTables.foldl (fun t e => tset t e.1 e.2) u.jrn.tables, mirrorTables := [] }
    map := { u.map with serial := u.map.ckpt.serialHigh + 2 ^ 32, failed := [] } }

theorem mapLoaded_due {s : State} (h : s.pair.takeover = 6) :
    mapLoaded s = admitAll (restoreHolds (record 0x0B 5 2 .none [] (mapTaken s))) := if_neg (not_not.2 h)

theorem mapTaken_keeps (s : State) : (mapTaken s).pair.takeover = 0 ∧ (mapTaken s).pair.owned = ownAll s ∧
    (mapTaken s).map.serial = s.map.ckpt.serialHigh + 2 ^ 32 ∧ (mapTaken s).jrn.mirrorTables = [] ∧
    (mapTaken s).jrn.tables = s.jrn.mirrorTables.foldl (fun t e => tset t e.1 e.2) s.jrn.tables := by
  obtain ⟨p, d, hholds⟩ := takeHolds_frame s
  have hsets := closePeerSets_offMedia { takeHolds s with
    pair := { (takeHolds s).pair with takeover := 0, owned := ownAll (takeHolds s) } }
  simp only [mapTaken, pair_of_offMedia hsets, ckpt_of_offMedia hsets, tables_of_offMedia hsets, mirrorTables_of_offMedia hsets]
  rw [hholds]
  exact ⟨trivial, rfl, rfl, trivial, rfl⟩

/-- Settles O30: each event of the paths and the fence by its branch; being fenced and taking over through what they keep. -/
theorem lossFenceAndTakeover : Obligations.LossFenceAndTakeover := by
  unfold Obligations.LossFenceAndTakeover
  refine ⟨?pins, ?messages, ?lossA, ?lossB, ?partialLoss, ?delay, ?delayEnds, ?fencing, ?fenced, ?riseFenced, ?noted, ?riseFree,
    ?reconciled, ?loaded⟩
  case pins =>
    intro s u hu
    subst hu
    exact ⟨fun hup hpaired => by rw [exec_pinPathSilent, pinSilent_portUp hup hpaired]; rfl,
      fun hup => by rw [exec_pinPathSilent, pinSilent_noPort hup]; rfl⟩
  case messages =>
    intro s
    exact ⟨_, exec_messagePathSilent s, rfl⟩
  case lossA =>
    intro s hup hmay hpin ha
    rw [pathAction_silent hup hmay hpin, lossAction_a hmay ha]
  case lossB =>
    intro s hup hmay hpin hb
    rw [pathAction_silent hup hmay hpin, lossAction_b hmay hb, if_pos rfl]
  case partialLoss =>
    intro s hheld hup hpin hmay
    exact ⟨fun ha => by rw [exec_partialSilenceTimeout, partialSilence_acts hheld hup hpin, lossAction_a hmay ha],
      fun hb => by
        rw [exec_partialSilenceTimeout, partialSilence_acts hheld hup hpin, lossAction_b hmay hb, if_neg Bool.false_ne_true]⟩
  case delay =>
    intro s hloss hmay
    rw [exec_roleBFenceDelay, roleBDelay_fences hloss hmay]
  case delayEnds =>
    intro s hmay
    rw [exec_roleBFenceDelay, roleBDelay_ends hmay]
  case fencing => exact fun s hin hfenced => fencePeer_fences hin hfenced
  case fenced =>
    intro s hfenced hout hrest hhand
    obtain ⟨t, hfall, hpair, hghx, hcmds⟩ := fenceInFall_fences hfenced hout hrest hhand
    refine ⟨t, by rw [exec_fenceInFall, hfall], ?_⟩
    rw [hpair, hghx]
    exact ⟨rfl, rfl, rfl, rfl, hcmds, rfl, rfl⟩
  case riseFenced =>
    intro s h
    rw [exec_fenceInRise, fenceRise_fenced h]
  case noted =>
    intro s h
    rw [exec_fenceInFall, fenceInFall_notes h]
  case riseFree =>
    intro s h
    rw [exec_fenceInRise, fenceRise_free h]
  case reconciled =>
    intro s h
    obtain ⟨hasn, hrun, hmirror⟩ := reconcileMirror_keeps s
    refine ⟨_, congrArg (fun t => Host.Outcome.next (settle t)) (sledWaitEnd_due h), rfl, ?_, hrun, hmirror⟩
    rw [hasn]
  case loaded =>
    intro s h
    exact ⟨mapTaken s, by rw [exec_takeoverMapLoaded, mapLoaded_due h], mapTaken_keeps s⟩

end Sys2Proof.Machine
end

section
/-!
PROOFS. Handover, fail-back and pairing (R113 to R117, R119, R487; Tables 4.8 and 4.9).
-/
namespace Sys2Proof.Machine

theorem exec_handover (m : HandoverMsg) (s : State) : exec (.handover m) s = .next (settle (handoverIn m s)) := rfl
theorem exec_handoverDrainDone (s : State) : exec .handoverDrainDone s = .next (settle (handoverDrained s)) := rfl
theorem exec_resyncComplete (s : State) : exec .resyncComplete s = .next (settle (resyncComplete s)) := rfl
theorem exec_failbackFenceRelease (s : State) : exec .failbackFenceRelease s = .next (settle (fenceRelease s)) := rfl
theorem exec_pairingPortTimeout (s : State) : exec .pairingPortTimeout s = .next (settle (joinTimeout s)) := rfl
theorem exec_migrationWindowExpiry (s : State) : exec .migrationWindowExpiry s = .next (settle (windowExpiry s)) := rfl
theorem exec_arrayRecordReadDone (r : ArrayRec) (s : State) :
    exec (.arrayRecordReadDone r) s = .next (settle (recordRead r s)) := rfl

section
variable {s : State}

/-! ### The handover (R114, R115) -/

theorem handoverIn_ignored (m : HandoverMsg) (h : s.pair.fenced = true ∨ s.pair.state ≠ 3) : handoverIn m s = s := if_pos h

/-- A head of a whole pair receipts the message and does what it says. -/
theorem handoverIn_whole (hfenced : s.pair.fenced = false) (hstate : s.pair.state = 3) (m : HandoverMsg) :
    handoverIn m s = match m with
      | .relinquish vols => { receiptFor 6 s with pair := { (receiptFor 6 s).pair with taking := some (vols, 0) } }
      | .volumesReceived vols => volumesGone vols (receiptFor 6 s)
      | .requestFence => fencePeer (receiptFor 6 s) := by
  refine (if_neg (by simp [hfenced, hstate])).trans ?_
  cases m <;> rfl

theorem handoverDrained_gives {h : Handover} (hhand : s.pair.handover = some h) (hstep : h.step = 1)
    (hepoch : s.jrn.epoch.step = 0) (hreleased : volsReleased s h.volumes = true) (htaking : s.pair.taking = none) :
    handoverDrained s = { s with pair := { s.pair with handover := some { h with step := 2 } } } := by
  simp only [handoverDrained, hhand, hstep, hepoch, hreleased, htaking, and_self, if_true]

theorem handoverDrained_answers {vols : List Nat} (hhand : s.pair.handover = none) (htaking : s.pair.taking = some (vols, 0))
    (hmirror : mirrorHolds s vols = false) {t : State} (ht : (sendHandover (.volumesReceived vols) s).2 = t) :
    handoverDrained s = { t with pair := { t.pair with taking := some (vols, (sendHandover (.volumesReceived vols) s).1) } } := by
  simp only [handoverDrained, hhand, htaking, hmirror, Bool.false_eq_true, if_false, ht]

/-- A handover message takes the next message number. -/
theorem sendHandover_number (m : HandoverMsg) (s : State) : (sendHandover m s).1 = s.ftb.nextId ∧
    (sendHandover m s).2.ftb.nextId = s.ftb.nextId + 1 := by
  obtain ⟨ps, n, segs, -, hsend⟩ := ftbSend_eq (by decide : 6 ≠ 3) 0 (handoverLen m) [] (fun _ => .handover m) s
  rw [sendHandover, hsend]
  exact ⟨rfl, rfl⟩

/-- Starting a handover changes of the pair the handover alone, and neither the pins nor the placement. -/
theorem startHandover_keeps (vols : List Nat) (fence : Bool) (op : Nat) (job : Option Nat) (s : State) :
    (∃ h, (startHandover vols fence op job s).pair = { s.pair with handover := h }) ∧
      (startHandover vols fence op job s).ghx = s.ghx ∧ (startHandover vols fence op job s).plc = s.plc := by
  obtain ⟨ps, n, segs, -, hsend⟩ := ftbSend_eq (by decide : 6 ≠ 3) 0 (handoverLen (.relinquish vols)) []
    (fun _ => .handover (.relinquish vols)) s
  simp only [startHandover, sendHandover, hsend]
  generalize hu : State.mk .. = u
  obtain ⟨j, hj⟩ := epochTimer_frame u
  rw [hj, ← hu]
  exact ⟨⟨_, rfl⟩, rfl, rfl⟩

/-! ### The fail-back (Table 4.8) -/

/-- The groups whose open bands are of a set with blocks of the peer's. -/
def lentGroups (s : State) : List (Nat × OpenBand) :=
  let lent (b : BSet) : Bool := b.blocks.any (fun n => decide (n / 64 % 2 ≠ roleNum s))
  s.plc.open_.filter (fun e => e.2.setNo.any (fun x =>
    ((tget s.plc.sets (openKey e.2 e.1 x.1)).map (fun b =>
      lent b || ((tget s.plc.sets (partnerKey b)).map lent).getD false)).getD false))

/-- The fail-back at step 4 of Table 4.8. -/
def atStepFour (s : State) : State := { s with pair := { s.pair with failStep := 4 } }

theorem resyncComplete_due (hstate : s.pair.state = 2) (hstep : s.pair.failStep = 2) (hdone : s.pair.resyncs = []) :
    resyncComplete s = (lentGroups (atStepFour s)).foldl (fun s e => closeBand e.1 s) (atStepFour s) :=
  if_neg (by simp [hstate, hstep, hdone])

theorem resyncComplete_failStep (hstate : s.pair.state = 2) (hstep : s.pair.failStep = 2) (hdone : s.pair.resyncs = []) :
    (resyncComplete s).pair.failStep = 4 := by
  have hclosed := foldl_offMedia (fun s (e : Nat × OpenBand) => closeBand_offMedia e.1 s) (lentGroups (atStepFour s)) (atStepFour s)
  rw [resyncComplete_due hstate hstep hdone, pair_of_offMedia hclosed]
  rfl

theorem lentGroups_nil (h : s.plc.open_ = []) : lentGroups (atStepFour s) = [] := by
  simp only [lentGroups, atStepFour, h, List.filter_nil]

theorem fenceRelease_early (h : peerHolds s = false) : fenceRelease s = s := if_pos (by simp [h])

/-- The pair is made whole: the fence is released, and this head runs alone no more. -/
def madeWhole (s : State) : State :=
  { s with
    ghx := { s.ghx with fenceOut := false }
    plc := { s.plc with alone := false }
    pair := { s.pair with state := 3, failStep := 7, filled := true } }

theorem failbackVols_of_pair {t : State} (hrole : t.pair.role = s.pair.role) (harr : t.pair.arr = s.pair.arr) :
    failbackVols t = failbackVols s := by
  have hr : roleOf t = roleOf s := congrArg (·.getD .a) hrole
  unfold failbackVols
  rw [hr, harr]

/-- The state in which the volumes that stay have been recorded and the pair noted whole. -/
def staysNoted (s : State) : State :=
  note 0x0B 5 0 ((failbackVols s).2.foldl (fun s v => record 0x0B 7 2 (.volume v) [] s) s)

theorem staysNoted_keeps (s : State) : (staysNoted s).pair = s.pair ∧ (staysNoted s).ghx = s.ghx ∧ (staysNoted s).plc = s.plc := by
  simp only [staysNoted, note, record_pair, record_ghx, record_plc]
  exact ⟨foldl_keeps State.pair (fun _ _ => record_pair ..) _ _, foldl_keeps State.ghx (fun _ _ => record_ghx ..) _ _,
    foldl_keeps State.plc (fun _ _ => record_plc ..) _ _⟩

/-- The end of a fail-back: its job ends, or the peer's volumes are handed over. -/
def giveBack (give : List Nat) (job : Option Nat) (s : State) : State :=
  if give = [] then
    let t := match job with
      | some k => finishJob k .success [] s
      | none => s
    { t with pair := { t.pair with failStep := 0, failJob := none } }
  else startHandover give false 0x0B02 job s

theorem fenceRelease_due (hstate : s.pair.state = 2) (hstep : s.pair.failStep = 4) (hheld : peerHolds s = true) :
    ∃ job, fenceRelease s =
      giveBack (failbackVols (madeWhole (lockPorts 0 s))).1 job (staysNoted (madeWhole (lockPorts 0 s))) := by
  unfold fenceRelease
  rw [if_neg (by simp [hstate, hstep, hheld])]
  generalize lockPorts 0 s = u
  exact ⟨_, rfl⟩

theorem giveBack_keeps (give : List Nat) (job : Option Nat) (s : State) :
    (giveBack give job s).pair.state = s.pair.state ∧ (giveBack give job s).pair.filled = s.pair.filled ∧
    (giveBack give job s).pair.failStep = (if give = [] then 0 else s.pair.failStep) ∧
    (giveBack give job s).ghx = s.ghx ∧ (giveBack give job s).plc = s.plc := by
  unfold giveBack
  by_cases hgive : give = []
  · rw [if_pos hgive, if_pos hgive]
    cases job <;> exact ⟨rfl, rfl, rfl, rfl, rfl⟩
  · obtain ⟨⟨h, hpair⟩, hghx, hplc⟩ := startHandover_keeps give false 0x0B02 job s
    simp only [if_neg hgive, hpair]
    exact ⟨trivial, trivial, trivial, hghx, hplc⟩

/-- Giving back from the whole pair, whatever its ports are. -/
theorem giveBack_wholes {u : State} (hpair : u.pair = s.pair) (job : Option Nat) {t : State}
    (ht : t = giveBack (failbackVols (madeWhole u)).1 job (staysNoted (madeWhole u))) :
    t.pair.state = 3 ∧ t.pair.filled = true ∧ t.pair.failStep = (if (failbackVols s).1 = [] then 0 else 7) ∧
    t.ghx.fenceOut = false ∧ t.plc.alone = false := by
  have hvols : failbackVols (madeWhole u) = failbackVols s :=
    failbackVols_of_pair (congrArg Pair.role hpair :) (congrArg Pair.arr hpair :)
  obtain ⟨hst, hfilled, hfail, hghx, hplc⟩ := giveBack_keeps (failbackVols s).1 job (staysNoted (madeWhole u))
  obtain ⟨hpair', hghx', hplc'⟩ := staysNoted_keeps (madeWhole u)
  rw [ht, hvols, hst, hfilled, hfail, hghx, hplc, hpair', hghx', hplc']
  exact ⟨rfl, rfl, rfl, rfl, rfl⟩

theorem fenceRelease_wholes (hstate : s.pair.state = 2) (hstep : s.pair.failStep = 4) (hheld : peerHolds s = true) :
    (fenceRelease s).pair.state = 3 ∧ (fenceRelease s).pair.filled = true ∧
    (fenceRelease s).pair.failStep = (if (failbackVols s).1 = [] then 0 else 7) ∧ (fenceRelease s).ghx.fenceOut = false ∧
    (fenceRelease s).plc.alone = false := by
  obtain ⟨job, h⟩ := fenceRelease_due hstate hstep hheld
  exact giveBack_wholes (pair_of_offMedia (lockPorts_offMedia 0 s)) job h

/-! ### Pairing and the migration window (R113, R116, R117) -/

theorem joinTimeout_ends {k mode : Nat} (hjob : s.pair.job = some (k, mode)) (hup : noPortUp s = true) :
    joinTimeout s = finishJob k .peerAbsent [] { s with pair := { s.pair with job := none, joinReq := none, autoFail := false } } := by
  simp only [joinTimeout, hjob, hup, Bool.not_true, Bool.false_eq_true, if_false]

theorem windowExpiry_closes {w : Bytes × Nat} (hopen : s.pair.window = some w)
    (hsame : s.pair.peerGen = 1 ∨ s.pair.peerGen = 0 ∨ s.pair.state ≠ 3) :
    windowExpiry s = { s with pair := { s.pair with window := none } } := by
  refine (if_neg (by simp [hopen])).trans (if_neg ?_)
  rintro ⟨h1, h0, h3⟩
  rcases hsame with h | h | h
  · exact h1 h
  · exact h0 h
  · exact h h3

theorem windowExpiry_fences {w : Bytes × Nat} (hopen : s.pair.window = some w) (h1 : s.pair.peerGen ≠ 1)
    (h0 : s.pair.peerGen ≠ 0) (h3 : s.pair.state = 3) :
    windowExpiry s = fencePeer (record 0x0B 8 3 .none [] { s with pair := { s.pair with window := none } }) := by
  simp only [windowExpiry, hopen, h1, h0, h3, Option.isNone_some, Bool.false_eq_true, ne_eq, not_false_eq_true, and_self, if_true,
    if_false, note]

/-! ### The array record (R119, R487) -/

theorem recordRead_newer {r : ArrayRec} (h : s.pair.arr.gen ≤ r.gen) : recordRead r s =
    endJoin (dropDomains (loadDomains (arrayRead r
      (if s.pair.paired = true then (tkeys s.pair.arr.domains).foldl (fun s d => holdSwitches d s) s else s)))) :=
  if_neg (not_lt.2 h)

theorem recordRead_older {r : ArrayRec} (h : r.gen < s.pair.arr.gen) :
    recordRead r s = { s with pair := { s.pair with reading := s.pair.joining.isSome } } := (if_pos h).trans (if_pos h)

theorem setSizes_frame (gib ms : Nat) (s : State) : ∃ j, setSizes gib ms s = { s with jrn := j } := by
  simp only [setSizes]
  repeat' split
  all_goals exact ⟨_, rfl⟩

/-- Where no relationship is left behind, a record that is not older takes the place of this head's. -/
theorem arrayRead_newer {r : ArrayRec} (h : s.pair.arr.gen ≤ r.gen) (hrels : s.pair.arr.rels = []) :
    (arrayRead r s).pair.arr = r ∧ (arrayRead r s).sec.norArray = some r ∧
      (arrayRead r s).pair.role = roleFrom r s.pair.role := by
  have hsizes : ∀ t : State, ∃ j, (if s.pair.paired = true then setSizes r.ownGib r.epochMs t else t) = { t with jrn := j } :=
    fun t => by
      split
      · exact setSizes_frame ..
      · exact ⟨t.jrn, rfl⟩
  simp only [arrayRead, hrels, if_neg (not_lt.2 h), List.filter_nil, List.foldl_nil]
  generalize hu : State.mk .. = u
  obtain ⟨j, hj⟩ := hsizes u
  rw [hj, ← hu]
  exact ⟨rfl, trivial, rfl⟩

end

/-- Settles O31: each event by its branch; the fail-back's end through what making the pair whole keeps. -/
theorem handoverFailbackAndPairing : Obligations.HandoverFailbackAndPairing := by
  unfold Obligations.HandoverFailbackAndPairing
  refine ⟨?whole, ?ignored, ?drained, ?received, ?stepFour, ?resynced, ?released, ?early, ?noPort, ?closes, ?fences, ?newer, ?replaces,
    ?older⟩
  case whole =>
    intro vols s hfenced hstate
    refine ⟨?_, ?_, ?_⟩ <;> rw [exec_handover, handoverIn_whole hfenced hstate]
  case ignored =>
    intro m s h
    rw [exec_handover, handoverIn_ignored m h]
  case drained =>
    intro s h hhand hstep hepoch hreleased htaking
    rw [exec_handoverDrainDone, handoverDrained_gives hhand hstep hepoch hreleased htaking]
  case received =>
    intro s vols hhand htaking hmirror
    obtain ⟨hid, hnext⟩ := sendHandover_number (.volumesReceived vols) s
    exact ⟨_, by rw [exec_handoverDrainDone, handoverDrained_answers hhand htaking hmirror rfl, hid], rfl, hnext⟩
  case stepFour =>
    intro s hstate hstep hdone
    exact ⟨_, exec_resyncComplete s, resyncComplete_failStep hstate hstep hdone⟩
  case resynced =>
    intro s hstate hstep hdone hopen
    rw [exec_resyncComplete, resyncComplete_due hstate hstep hdone, lentGroups_nil hopen, List.foldl_nil, atStepFour]
  case released =>
    intro s hstate hstep hheld
    exact ⟨_, exec_failbackFenceRelease s, fenceRelease_wholes hstate hstep hheld⟩
  case early =>
    intro s h
    rw [exec_failbackFenceRelease, fenceRelease_early h]
  case noPort =>
    intro s k mode hjob hup
    rw [exec_pairingPortTimeout, joinTimeout_ends hjob hup]
  case closes =>
    intro s w hopen hsame
    rw [exec_migrationWindowExpiry, windowExpiry_closes hopen hsame]
  case fences =>
    intro s w hopen h1 h0 h3
    rw [exec_migrationWindowExpiry, windowExpiry_fences hopen h1 h0 h3]
  case newer =>
    intro r s h
    exact ⟨_, by rw [exec_arrayRecordReadDone, recordRead_newer h], rfl⟩
  case replaces => exact fun r s h hrels => arrayRead_newer h hrels
  case older =>
    intro r s h
    rw [exec_arrayRecordReadDone, recordRead_older h]

end Sys2Proof.Machine
end

-- Proofs of the statements on host commands (chapter 05).
section
/-!
PROOFS. The volume commands (R147).
-/
namespace Sys2Proof.Machine

theorem exec_volCreate (n : Fin 64) (s : State) :
    exec (.volCreate n) s = .next (basmos n 0x0200 (layoutIs 32 [(17, 15)]) volCreateH s) := rfl

theorem exec_volDelete (n : Fin 64) (s : State) :
    exec (.volDelete n) s = .next (basmos n 0x0201 (layoutIs 8 [(5, 3)]) volDeleteH s) := rfl

theorem exec_volResize (n : Fin 64) (s : State) :
    exec (.volResize n) s = .next (basmos n 0x0202 (layoutIs 16 [(5, 3)]) volResizeH s) := rfl

/-- The volume that a VOL_CREATE payload describes. -/
def volAsked (p : Bytes) (pref : Role) : VolRec := { domain := fieldLE p 4 4, blocks := fieldLE p 8 8, pref := pref }

/-- A volume entered in the array record; its owner is noted where it is not the preferred role. -/
def volEntered (v : Nat) (r : VolRec) (owner : Role) (s : State) : State :=
  let t := changeArray (fun a => { a with volumes := tset a.volumes v r }) s
  { t with pair := { t.pair with owned := if owner = r.pref then terase t.pair.owned v else tset t.pair.owned v owner } }

/-- A change of a volume put up for the next epoch boundary: a deletion or a new size, and the job that ends with it. -/
def volPut (v : Nat) (change : Option (Nat × Nat)) (k : Nat) (s : State) : State :=
  { s with pair := { s.pair with volF := s.pair.volF ++ [(v, change, k)] } }

section
variable {p : Bytes} {s : State}

theorem volCreateH_enters {v : Nat} {pref : Role} (hasked : fieldLE p 0 4 ≤ 65535 ∨ fieldLE p 0 4 = 0xFFFFFFFF)
    (hnew : thas s.pair.arr.volumes (fieldLE p 0 4) = false) (hmod : fieldLE p 8 8 % 8 = 0) (hmin : 8 ≤ fieldLE p 8 8)
    (hmax : fieldLE p 8 8 ≤ 2 ^ 42) (hrole : fieldLE p 16 1 ≤ 1) (hdom : thas s.pair.arr.domains (fieldLE p 4 4) = true)
    (hroom : s.pair.arr.volumes.length < 65536)
    (hv : v = if fieldLE p 0 4 = 0xFFFFFFFF then tfree s.pair.arr.volumes 0 65536 else fieldLE p 0 4)
    (hpref : pref = if fieldLE p 16 1 = 0 then .a else .b) : volCreateH p s =
      (.now (.ok (leN 4 v ++ leN 1 (newOwner s pref (fieldLE p 4 4)).num ++ zeros 3)),
        volEntered v (volAsked p pref) (newOwner s pref (fieldLE p 4 4)) s) := by
  have hgo : ¬((65535 < fieldLE p 0 4 ∧ fieldLE p 0 4 ≠ 0xFFFFFFFF) ∨ thas s.pair.arr.volumes (fieldLE p 0 4) = true ∨
      fieldLE p 8 8 % 8 ≠ 0 ∨ fieldLE p 8 8 < 8 ∨ 2 ^ 42 < fieldLE p 8 8 ∨ 1 < fieldLE p 16 1) := by
    simp only [hnew, Bool.false_eq_true, false_or]
    omega
  simp only [volCreateH, if_neg hgo, hdom, if_neg (Nat.not_le.2 hroom), ← hv, ← hpref, Bool.not_true, Bool.false_eq_true,
    if_false]
  rfl

theorem volDeleteH_puts (hf : fieldLE p 4 1 ≤ 1) (hlive : volLives s (fieldLE p 0 4) = true)
    (hown : ownsVol s (fieldLE p 0 4) = true) (hrel : inRelation s (fieldLE p 0 4) = false)
    (hsnap : fieldLE p 4 1 = 0 → s.rep.snaps.any (fun e => decide (e.1 / 8192 = fieldLE p 0 4)) = false)
    (hfirst : volPending s (fieldLE p 0 4) true = false) (hjob : JobFree s) : volDeleteH p s =
      (.now (jobReply s), volPut (fieldLE p 0 4) none s.kiosk.jobCount (started 0x0201 (fieldLE p 0 4) 0 s)) := by
  have hgo : ¬((fieldLE p 4 1 = 0 ∧ s.rep.snaps.any (fun e => decide (e.1 / 8192 = fieldLE p 0 4)) = true) ∨
      inRelation s (fieldLE p 0 4) = true) := by
    rintro (⟨hz, h⟩ | h)
    · simp [hsnap hz] at h
    · simp [hrel] at h
  simp only [volDeleteH, if_neg (Nat.not_lt.2 hf), hlive, hown, if_neg hgo, hfirst, withJob_free hjob, Bool.not_true,
    Bool.false_eq_true, if_false]
  rfl

section
variable {r : VolRec} (hf : fieldLE p 4 1 ≤ 3) (hmod : fieldLE p 8 8 % 8 = 0) (hmin : 8 ≤ fieldLE p 8 8)
  (hmax : fieldLE p 8 8 ≤ 2 ^ 42) (hr : tget s.pair.arr.volumes (fieldLE p 0 4) = some r)
  (hlive : volLives s (fieldLE p 0 4) = true) (hown : ownsVol s (fieldLE p 0 4) = true)
include hf hmod hmin hmax hr hlive hown

/-- A new size is refused only where it is a shrink that flag bit 0 does not allow. -/
theorem volResizeH_allowed (hallow : fieldLE p 8 8 < r.blocks → (fieldLE p 4 1).testBit 0 = true) : volResizeH p s =
    if fieldLE p 8 8 < r.blocks then
      withJob 0x0202 (fieldLE p 0 4) (fieldLE p 8 8) s (volPut (fieldLE p 0 4) (some (fieldLE p 8 8, fieldLE p 4 1)))
    else (.now .ok, volPut (fieldLE p 0 4) (some (fieldLE p 8 8, fieldLE p 4 1)) (2 ^ 40) s) := by
  have hgo : ¬(3 < fieldLE p 4 1 ∨ fieldLE p 8 8 % 8 ≠ 0 ∨ fieldLE p 8 8 < 8 ∨ 2 ^ 42 < fieldLE p 8 8) := by omega
  have hshrink : ¬(fieldLE p 8 8 < r.blocks ∧ (!(fieldLE p 4 1).testBit 0) = true) := fun h => by simp [hallow h.1] at h
  simp only [volResizeH, if_neg hgo, hr, hlive, hown, if_neg hshrink, Bool.not_true, Bool.false_eq_true, if_false]
  rfl

theorem volResizeH_grows (h : r.blocks ≤ fieldLE p 8 8) : volResizeH p s =
    (.now .ok, volPut (fieldLE p 0 4) (some (fieldLE p 8 8, fieldLE p 4 1)) (2 ^ 40) s) := by
  have hnot := Nat.not_lt.2 h
  rw [volResizeH_allowed hf hmod hmin hmax hr hlive hown (fun h => absurd h hnot), if_neg hnot]

theorem volResizeH_shrinks (h : fieldLE p 8 8 < r.blocks) (hallow : (fieldLE p 4 1).testBit 0 = true) (hjob : JobFree s) :
    volResizeH p s = (.now (jobReply s), volPut (fieldLE p 0 4) (some (fieldLE p 8 8, fieldLE p 4 1)) s.kiosk.jobCount
      (started 0x0202 (fieldLE p 0 4) (fieldLE p 8 8) s)) := by
  rw [volResizeH_allowed hf hmod hmin hmax hr hlive hown (fun _ => hallow), if_pos h, withJob_free hjob]

end

end

/-- Settles O8: each command's handler by its branch. -/
theorem volumeCommands : Obligations.VolumeCommands := by
  unfold Obligations.VolumeCommands
  refine ⟨fun n s p msg v pref h hl hasked hnew hmod hmin hmax hrole hdom hroom hv hpref =>
      ⟨volEntered v (volAsked p pref) (newOwner s pref (fieldLE p 4 4)) s, ?create, rfl, rfl⟩,
    fun n s p msg v h hl hv hf hlive hown hrel hsnap hfirst hjob => ?delete,
    fun n s p msg v r h hl hv hf hmod hmin hmax hr hlive hown => ⟨fun hgrow => ?grow, fun hshrink hallow hjob => ?shrink⟩⟩
  case create =>
    rw [exec_volCreate, basmos_now h hl (volCreateH_enters hasked hnew hmod hmin hmax hrole hdom hroom hv hpref)]
  case delete =>
    subst hv
    rw [exec_volDelete, basmos_now h hl (volDeleteH_puts hf hlive hown hrel hsnap hfirst hjob)]
    rfl
  case grow =>
    subst hv
    rw [exec_volResize, basmos_now h hl (volResizeH_grows hf hmod hmin hmax hr hlive hown hgrow), volPut]
  case shrink =>
    subst hv
    rw [exec_volResize, basmos_now h hl (volResizeH_shrinks hf hmod hmin hmax hr hlive hown hshrink hallow hjob)]
    rfl

end Sys2Proof.Machine
end

section
/-!
PROOFS. Host connections open and close (R121 to R124, R152, R153, R172, R393, Table 6.2).
-/
namespace Sys2Proof.Machine

theorem exec_queueOpen (n : Fin 16384) (port : Fin 8) (supported : Bool) (host : Nat × Nat) (r : Bytes) (s : State) :
    exec (.queueOpen n port supported host r) s = .next (queueOpen n port supported host.1 host.2 r s) := rfl

theorem exec_rtu (n : Fin 16384) (s : State) : exec (.rtu n) s = .next (openQueue n s) := rfl

theorem exec_dreq (n : Fin 16384) (s : State) : exec (.dreq n) s = .next (settle (dreqIn n s)) := rfl

theorem exec_invalidRequestNak (n : Fin 16384) (s : State) :
    exec (.invalidRequestNak n) s = .next (settle (invalidNak n s)) := rfl

theorem exec_queueKeepaliveExpiry (n : Fin 16384) (s : State) :
    exec (.queueKeepaliveExpiry n) s = .next (settle (keepaliveExpiry n s)) := rfl

theorem exec_connectingTimeout (n : Fin 16384) (s : State) :
    exec (.connectingTimeout n) s = .next (connectingTimeout n s) := rfl

theorem exec_replayTableExpiry (id : Nat) (s : State) : exec (.replayTableExpiry id) s = .next (tableExpiry id s) := rfl

theorem exec_queueKeyHoldExpiry (id : Nat) (s : State) : exec (.queueKeyHoldExpiry id) s = .next (queueKeyExpiry id s) := rfl

theorem exec_oldRxKeyExpiry (n : Fin 16384) (s : State) : exec (.oldRxKeyExpiry n) s = .next (oldRxExpiry n s) := rfl

/-! ### QUEUE_OPEN (R121, R122, R124) -/

/-- The connection, if there is one, that an open record's queue is being connected on. -/
def connecting (s : State) (r : Bytes) : Option (Nat × Qp) :=
  s.lat.qps.find? (fun e => decide (e.2.st = .connecting ∧ e.2.queueId = fieldLE r 8 8))

/-- The queue pair that an accepted open record describes, its domain of protection being p. -/
def qpAsked (port hostQp psn : Nat) (r : Bytes) (p : Pd) (s : State) : Qp := {
  st := .connecting
  queueId := fieldLE r 8 8
  port := port
  openPort := port
  pd := fieldLE r 18 2
  plain := p.plain
  gcm := p.gcm
  destQp := hostQp % 2 ^ 24
  psnAck := psnPrev (psn % 2 ^ 24)
  creditWin := s.lat.defWin
  txPsn := freeNat s % 2 ^ 24
  keepaliveS := if fieldLE r 16 2 = 0 then 10 else fieldLE r 16 2
  resume := decide (fieldLE r 2 2 = 1)
  initCsn := fieldLE r 4 4 }

section
variable {n port hostQp psn : Nat} {r : Bytes} {s : State} (hup : (hportOf s port).up = true)
include hup

theorem queueOpen_unsupported : queueOpen n port false hostQp psn r s =
    emit (.cmReject n (openReply s .invalidField (replyNewest s r))) s := by
  simp only [queueOpen, hup, Bool.not_true, Bool.not_false, Bool.false_eq_true, if_false, if_true]

theorem queueOpen_again {k : Nat} {q : Qp} (h : connecting s r = some (k, q)) (hfenced : s.pair.fenced = false) :
    queueOpen n port true hostQp psn r s = emit (.cmReply k (openReply s .success (replyNewest s r))) s := by
  simp only [connecting] at h
  simp only [queueOpen, hup, h, hfenced, Bool.not_true, Bool.false_eq_true, if_false]

theorem queueOpen_rejects {st : Status} (h : connecting s r = none) (hst : openFails s r = some st) :
    queueOpen n port true hostQp psn r s = emit (.cmReject n (openReply s st (replyNewest s r))) s := by
  simp only [connecting] at h
  simp only [queueOpen, hup, h, hst, Bool.not_true, Bool.false_eq_true, if_false]

theorem queueOpen_accepts {p : Pd} (h : connecting s r = none) (hok : openFails s r = none)
    (hp : tget s.lat.pds (fieldLE r 18 2) = some p) (hfree : (qpOf s n).st = .free) (htags : (qpOf s n).tags = []) :
    queueOpen n port true hostQp psn r s =
      emit (.cmReply n (openReply s .success (replyNewest s r))) (setQp n (qpAsked port hostQp psn r p s) (draw s)) := by
  have hgo : ¬((qpOf s n).st ≠ .free ∨ (qpOf s n).tags ≠ []) := by simp [hfree, htags]
  simp only [connecting] at h
  simp only [queueOpen, hup, h, hok, if_neg hgo, hp, Option.getD_some, Bool.not_true, Bool.false_eq_true, if_false]
  rfl

end

/-! ### RTU (R152, R172) -/

/-- The queue pair as RTU opens it: its credits granted, and its keys where it is encrypted. -/
def qpOpened (q : Qp) (s : State) : Qp := { q with
  st := .open_
  granted := if q.plain then q.plainBufs else q.creditWin
  tx := if q.gcm then (heldKeys s q.queueId).map (fun k => keyPhase k.1 0) else none
  rx := if q.gcm then (heldKeys s q.queueId).map (fun k => keyPhase k.2 0) else none }

/-- The journal's books with the replay table of a queue that opens: the one that it resumes, or a fresh one (R152). -/
def journalOpened (q : Qp) (s : State) : Jrn :=
  if q.resume then { s.jrn with tables := tmod s.jrn.tables q.queueId (fun v => { v with pd := some q.pd }) }
  else { s.jrn with
    tables := tset s.jrn.tables q.queueId { newest := (q.initCsn + 2 ^ 32 - 1) % 2 ^ 32, pd := some q.pd }
    partly := s.jrn.partly.filter (fun e => decide (e.1 ≠ q.queueId)) }

/-- The state with a queue opened of which no command runs, before its context is used. -/
def queueOpened (n : Nat) (q : Qp) (s : State) : State := { s with
  lat := { s.lat with
    qps := tset s.lat.qps n (qpOpened q s)
    queues := tset s.lat.queues q.queueId { qpn := some n, pd := q.pd, busy := [] } }
  sec := { s.sec with
    queueKeys := if q.gcm then s.sec.queueKeys.filter (fun k => decide (k.1 ≠ q.queueId)) else s.sec.queueKeys }
  jrn := journalOpened q s }

theorem tget_tmod_self {α : Type} (t : Tab α) (k : Nat) (f : α → α) : tget (tmod t k f) k = (tget t k).map f := by
  cases h : tget t k with
  | none => simp [tmod, h]
  | some v => simp [tget_tmod _ _ _ _ h]

section
variable {q : Qp} {s : State}

theorem journalOpened_fresh (h : q.resume = false) : tget (journalOpened q s).tables q.queueId =
    some { newest := (q.initCsn + 2 ^ 32 - 1) % 2 ^ 32, pd := some q.pd } := by
  rw [journalOpened, if_neg (ne_true_of_eq_false h)]
  exact tget_tset_self ..

theorem journalOpened_resumed (h : q.resume = true) : tget (journalOpened q s).tables q.queueId =
    (tget s.jrn.tables q.queueId).map (fun v => { v with pd := some q.pd }) := by
  rw [journalOpened, if_pos h]
  exact tget_tmod_self ..

theorem journalOpened_cmds : (journalOpened q s).cmds = s.jrn.cmds := by
  unfold journalOpened
  split <;> rfl

theorem openQueue_opens {n : Nat} (hq : qpOf s n = q) (hst : q.st = .connecting)
    (hidle : ∀ e ∈ s.jrn.cmds, e.2.queueId ≠ q.queueId) : openQueue n s = touchCtx n (queueOpened n q s) := by
  have hruns : s.jrn.cmds.filter (fun e => decide (e.2.queueId = q.queueId)) = [] :=
    List.filter_eq_nil_iff.2 fun e he => by simpa using hidle e he
  have hgo : ¬q.st ≠ .connecting := not_not.2 hst
  simp only [openQueue, hq, if_neg hgo, hruns, List.foldl_nil, List.map_nil]
  rfl

end

/-! ### Closing and freeing (R123, R152, R153) -/

section
variable {n : Nat} {s : State}

/-- A queue pair that carries traffic does not connect. -/
theorem st_ne_connecting_of_live {q : Qp} (h : qpLive q = true) : q.st ≠ .connecting := by
  intro hst
  simp [qpLive, hst] at h

theorem dreqIn_connecting (h : (qpOf s n).st = .connecting) :
    dreqIn n s = setQp n { tags := (qpOf s n).tags, pd := (qpOf s n).pd } (emit (.drep n) s) := if_pos h

theorem dreqIn_live (h : qpLive (qpOf s n) = true) : dreqIn n s = closeQp n (emit (.drep n) s) :=
  (if_neg (st_ne_connecting_of_live h)).trans (if_pos h)

theorem invalidNak_live (h : qpLive (qpOf s n) = true) : invalidNak n s = closeQp n (emit (.dreq n) s) := by
  rw [invalidNak, if_pos h, errorQp, if_pos h]

theorem keepaliveExpiry_live (h : qpLive (qpOf s n) = true) :
    keepaliveExpiry n s = record 0x0A 8 1 (.queuePair n) [] (closeQp n (emit (.dreq n) s)) := if_pos h

theorem connectingTimeout_frees (h : (qpOf s n).st = .connecting) :
    connectingTimeout n s = setQp n { tags := (qpOf s n).tags, pd := (qpOf s n).pd } s := if_pos h

end

/-! ### What expires with a connection (R152, R172, R393) -/

/-- The state without the replay table of a queue. -/
def tableDropped (id : Nat) (s : State) : State := { s with
  lat := { s.lat with queues := terase s.lat.queues id }
  jrn := { s.jrn with
    tables := terase s.jrn.tables id
    partly := s.jrn.partly.filter (fun e => decide (e.1 ≠ id)) } }

theorem tableExpiry_unconnected {id : Nat} {s : State} (h : connOf s id = none) : tableExpiry id s = tableDropped id s :=
  if_neg (by simp [h])

theorem oldRxExpiry_drops {n : Nat} {s : State} (h : (qpOf s n).rxOld = true) :
    oldRxExpiry n s = setQp n { qpOf s n with rx := (qpOf s n).rxNew, rxNew := none, rxOld := false } s := if_pos h

/-- Settles O18: each event of a connection by its branch; RTU through the state that it opens. -/
theorem connectionsOpenAndClose : Obligations.ConnectionsOpenAndClose := by
  unfold Obligations.ConnectionsOpenAndClose
  refine ⟨fun n port hostQp psn r s p hup hnone hok hp hfree htags => ?accepts,
    fun n port host r s hup => ⟨fun st hnone hst => ?rejects, fun k q hconn hfenced => ?again, ?unsupported⟩,
    fun n s q hq hst hidle => ⟨queueOpened n q s, _, ?opens, qpOf_setQp_self .., tget_tset_self .., rfl, rfl, rfl,
      journalOpened_fresh, journalOpened_resumed, journalOpened_cmds, rfl⟩,
    fun n s hst => ?dreqConnecting, fun n s hlive => ⟨?dreqLive, ?nak, ?keepalive⟩, fun n s hst => ?timeout,
    fun id s hconn => ⟨tableDropped id s, ?table, rfl, fun k hk => tget_terase_other hk, rfl⟩,
    fun id s => ⟨_, exec_queueKeyHoldExpiry id s, rfl, rfl⟩, fun n s hold => ?oldKey⟩
  case accepts => rw [exec_queueOpen, queueOpen_accepts hup hnone hok hp hfree htags, qpAsked]
  case rejects => rw [exec_queueOpen, queueOpen_rejects hup hnone hst]
  case again => rw [exec_queueOpen, queueOpen_again hup hconn hfenced]
  case unsupported => rw [exec_queueOpen, queueOpen_unsupported hup]
  case opens => rw [exec_rtu, openQueue_opens hq hst hidle]
  case dreqConnecting => rw [exec_dreq, dreqIn_connecting hst]
  case dreqLive => rw [exec_dreq, dreqIn_live hlive]
  case nak => rw [exec_invalidRequestNak, invalidNak_live hlive]
  case keepalive => rw [exec_queueKeepaliveExpiry, keepaliveExpiry_live hlive]
  case timeout => rw [exec_connectingTimeout, connectingTimeout_frees hst]
  case table => rw [exec_replayTableExpiry, tableExpiry_unconnected hconn]
  case oldKey => rw [exec_oldRxKeyExpiry, oldRxExpiry_drops hold]

end Sys2Proof.Machine
end

section
/-!
PROOFS. What a queue pair sends of its own, and the outbound side with its timers and acknowledgements (R149, R153, R154,
R165, R167 to R169).
-/
namespace Sys2Proof.Machine

theorem exec_ackCoalesceTimer (n : Fin 16384) (s : State) : exec (.ackCoalesceTimer n) s = .next (ackTimer n s) := rfl

theorem exec_selectiveNakTimer (n : Fin 16384) (psn : Nat) (s : State) :
    exec (.selectiveNakTimer n psn) s = .next (selNakTimer n psn s) := rfl

theorem exec_outboundAckTimeout (n : Fin 16384) (s : State) :
    exec (.outboundAckTimeout n) s = .next (settle (outAckTimeout n s)) := rfl

theorem exec_rnrNakReceived (n : Fin 16384) (psn timer : Nat) (s : State) :
    exec (.rnrNakReceived n psn timer) s = .next (rnrReceived n psn s) := rfl

theorem exec_rnrResendTimer (n : Fin 16384) (s : State) : exec (.rnrResendTimer n) s = .next (rnrResend n s) := rfl

theorem exec_rnrHoldExpiry (n : Fin 16384) (s : State) : exec (.rnrHoldExpiry n) s = .next (settle (rnrHoldExpiry n s)) := rfl

theorem exec_remoteAccessErrorNak (n : Fin 16384) (psn : Nat) (s : State) :
    exec (.remoteAccessErrorNak n psn) s = .next (settle (remoteAccess n psn s)) := rfl

theorem exec_cnpReceived (n : Fin 16384) (since50us : Bool) (s : State) :
    exec (.cnpReceived n since50us) s = .next (cnpReceived n since50us s) := rfl

theorem exec_rateRecoveryTick (n : Fin 16384) (s : State) : exec (.rateRecoveryTick n) s = .next (rateTick n s) := rfl

theorem exec_creditStarvationTimer (n : Fin 16384) (s : State) :
    exec (.creditStarvationTimer n) s = .next (starvation n s) := rfl

theorem exec_pauseFrame (port : Fin 8) (prio : Nat) (pause : Bool) (s : State) :
    exec (.pauseFrame port prio pause) s = .next (settle (pauseFrame port prio pause s)) := rfl

theorem exec_hostPortLinkChange (port : Fin 8) (up : Bool) (s : State) :
    exec (.hostPortLinkChange port up) s = .next (settle (portLink port up s)) := rfl

/-! ### PSNs modulo 2^24 -/

theorem eq_psnNext_of_ahead {a p : Nat} (hp : p < 2 ^ 24) (h : psnAhead a p = 1) : p = psnNext a := by
  simp only [psnAhead, ahead] at h
  rw [psnNext]
  omega

theorem psnPrev_psnNext {p : Nat} (h : p < 2 ^ 24) : psnPrev (psnNext p) = p := by
  simp only [psnPrev, psnNext]
  omega

theorem psnAhead_self {p : Nat} (h : p < 2 ^ 24) : psnAhead p p = 0 := ahead_self h

theorem psnAhead_psnNext_psnNext (p : Nat) : psnAhead p (psnNext (psnNext p)) = 2 := by
  simp only [psnAhead, ahead, psnNext]
  omega

/-- The PSN before p lies as far ahead of p as a PSN can. -/
theorem psnAhead_psnPrev {p : Nat} (h : p < 2 ^ 24) : psnAhead p (psnPrev p) = 2 ^ 24 - 1 := by
  simp only [psnAhead, ahead, psnPrev]
  omega

/-! ### Packets without a payload (R150, R154, R161, R167) -/

@[simp] theorem qpOf_emit (o : Out) (s : State) (k : Nat) : qpOf (emit o s) k = qpOf s k := rfl

@[simp] theorem emitAeth_lat (n psn syndrome msn : Nat) (o : Out) (s : State) :
    (emitAeth n psn syndrome msn o s).lat = s.lat := rfl

@[simp] theorem qpOf_emitAeth (n psn syndrome msn : Nat) (o : Out) (s : State) (k : Nat) :
    qpOf (emitAeth n psn syndrome msn o s) k = qpOf s k := rfl

/-- An ACK or NAK leaves as it is named and then in its bytes. -/
theorem emitAeth_out (n psn syndrome msn : Nat) (o : Out) (s : State) :
    ∃ b, (emitAeth n psn syndrome msn o s).out = s.out ++ [o, .roce n b] :=
  ⟨_, List.append_assoc s.out [o] [_]⟩

theorem qpLive_of_open {q : Qp} (h : q.st = .open_) : qpLive q = true := by
  simp [qpLive, h]

section
variable {n : Nat} {q : Qp} {s : State} (hq : qpOf s n = q) (hopen : q.st = .open_)
include hq hopen

theorem sendAck_open : sendAck n s = emitAeth n (ackPsn q) (creditCode q.granted) q.msn
    (.ack n (ackPsn q) (creditCode q.granted)) (setQp n { q with ackDue := false, sinceAck := 0 } s) := by
  simp only [sendAck, hq]
  exact if_neg (not_not.2 hopen)

/-- An RNR NAK carries the timer code that stands, and the next one a longer time. -/
theorem sendRnr_open (psn : Nat) : sendRnr n psn s = emitAeth n psn (0x20 + q.rnrCode) q.msn (.rnrNak n psn q.rnrCode)
    (setQp n { q with rnrCode := min 12 (q.rnrCode + 1), rnrSent := satAdd 32 q.rnrSent 1 }
      { s with lat := { s.lat with nakRnr := satAdd 16 s.lat.nakRnr 1 } }) := by
  simp only [sendRnr, hq]
  exact if_neg (not_not.2 hopen)

theorem sendSel_open {psns : List Nat} (hne : psns ≠ []) : sendSel n psns s =
    emitAeth n (psns.headD 0) 0x60 psns.length (.selNak n psns)
      { s with lat := { s.lat with nakSel := satAdd 16 s.lat.nakSel 1 } } := by
  have hgo : ¬((qpOf s n).st ≠ .open_ ∨ psns = []) := by simp [hq, hopen, hne]
  exact if_neg hgo

theorem ackTimer_sends (hdue : q.ackDue = true) : ackTimer n s = emitAeth n (ackPsn q) (creditCode q.granted) q.msn
    (.ack n (ackPsn q) (creditCode q.granted)) (setQp n { q with ackDue := false, sinceAck := 0 } s) := by
  have hgo : (qpOf s n).ackDue ∧ qpLive (qpOf s n) := by rw [hq]; exact ⟨hdue, qpLive_of_open hopen⟩
  rw [ackTimer, if_pos hgo, sendAck_open hq hopen]

end

/-! ### A gap in the PSNs of a multipath queue pair (R167) -/

/-- Has a multipath queue pair the packet with a PSN, marked or at or below its cumulative PSN? -/
def hasPsn (q : Qp) (p : Nat) : Bool := q.window.contains p || decide (psnAhead p q.psnAck < 2 ^ 23)

/-- The missing PSNs from one on, up to the first that is here or the furthest marked. -/
def missingFrom (q : Qp) (psn : Nat) : List Nat :=
  ((List.range (maxBy (fun p => psnAhead q.psnAck p) q.window - psnAhead q.psnAck psn + 1)).map
    (fun i => (psn + i) % 2 ^ 24)).takeWhile (fun p => !hasPsn q p)

/-- A queue pair that has named missing PSNs. -/
def gapNamed (q : Qp) (run : List Nat) : Qp := { q with gapAt := run ++ q.gapAt.filter (fun p => !run.contains p) }

/-- A multipath queue pair that lacks one PSN: the one after its cumulative PSN, with the packet behind it here. -/
structure OnePsnMissing (q : Qp) (psn : Nat) : Prop where
  psn_lt : psn < 2 ^ 24
  ack_lt : q.psnAck < 2 ^ 24
  next : psnAhead q.psnAck psn = 1
  behind : q.window = [(psn + 1) % 2 ^ 24]

section
variable {q : Qp} {psn : Nat} (h : OnePsnMissing q psn)
include h

theorem OnePsnMissing.eq_psnNext : psn = psnNext q.psnAck := eq_psnNext_of_ahead h.psn_lt h.next

theorem OnePsnMissing.hasPsn_missing : hasPsn q psn = false := by
  have hwin : psn ≠ (psn + 1) % 2 ^ 24 := by omega
  have hack : ¬psnAhead psn q.psnAck < 2 ^ 23 := by
    have hprev := psnAhead_psnPrev h.psn_lt
    rw [h.eq_psnNext, psnPrev_psnNext h.ack_lt, ← h.eq_psnNext] at hprev
    omega
  rw [hasPsn, h.behind, Bool.or_eq_false_iff]
  exact ⟨by simpa using hwin, decide_eq_false hack⟩

theorem OnePsnMissing.hasPsn_before : hasPsn q (psnPrev psn) = true := by
  rw [h.eq_psnNext, psnPrev_psnNext h.ack_lt]
  simp [hasPsn, psnAhead_self h.ack_lt]

theorem OnePsnMissing.hasPsn_behind : hasPsn q ((psn + 1) % 2 ^ 24) = true := by
  simp [hasPsn, h.behind]

theorem OnePsnMissing.furthest : maxBy (fun p => psnAhead q.psnAck p) q.window = 2 := by
  have htwo := psnAhead_psnNext_psnNext q.psnAck
  rw [← h.eq_psnNext] at htwo
  rw [h.behind, maxBy, List.foldl_cons, List.foldl_nil, ← psnNext, htwo]
  rfl

theorem OnePsnMissing.missingFrom_eq : missingFrom q psn = [psn] := by
  have hrange : List.range (2 - 1 + 1) = [0, 1] := rfl
  have hpsn : (psn + 0) % 2 ^ 24 = psn := Nat.mod_eq_of_lt h.psn_lt
  rw [missingFrom, h.furthest, h.next, hrange, List.map_cons, List.map_cons, List.map_nil, hpsn, List.takeWhile_cons,
    h.hasPsn_missing, List.takeWhile_cons, h.hasPsn_behind]
  rfl

theorem OnePsnMissing.selNakTimer_names {n : Nat} {s : State} (hq : qpOf s n = q) (hopen : q.st = .open_)
    (hmode : q.mode = some true) : selNakTimer n psn s = sendSel n [psn] (setQp n (gapNamed q [psn]) s) := by
  have hgo : ¬((!qpLive q) = true ∨ q.mode ≠ some true ∨ hasPsn q psn = true ∨ (!hasPsn q (psnPrev psn)) = true ∨
      maxBy (fun p => psnAhead q.psnAck p) q.window < psnAhead q.psnAck psn) := by
    simp [qpLive_of_open hopen, hmode, h.hasPsn_missing, h.hasPsn_before, h.furthest, h.next]
  have hnames : selNakTimer n psn s =
      sendSel n ((missingFrom q psn).take 1024) (setQp n (gapNamed q (missingFrom q psn)) s) := by
    rw [selNakTimer, hq]
    exact if_neg hgo
  rw [hnames, h.missingFrom_eq]
  rfl

end

/-! ### Packets in flight (R153) -/

theorem maySend_open {q : Qp} {s : State} (hopen : q.st = .open_) (hport : (hportOf s q.port).paused = false) :
    maySend s q = true := by
  simp [maySend, hopen, hport]

/-- A queue pair that may send and does not encrypt sends one packet again unchanged. -/
theorem resendFrom_one {n : Nat} {o : OutPkt} {s : State} (hgcm : (qpOf s n).gcm = false)
    (hmay : maySend s (qpOf s n) = true) : resendFrom n [o] s = emit (.resend n o.psn) (setQp n (qpOf s n) s) := by
  simp [resendFrom, hmay, nextCounter, hgcm, rekeyNote]

theorem errorQp_live {n : Nat} {s : State} (h : qpLive (qpOf s n) = true) : errorQp n s = closeQp n (emit (.dreq n) s) :=
  if_pos h

/-- Sending the one packet in flight again, its entry brought up to date. -/
theorem resendFrom_setQp {n : Nat} {q : Qp} {s : State} {o p : OutPkt} (hopen : q.st = .open_) (hgcm : q.gcm = false)
    (hport : (hportOf s q.port).paused = false) :
    resendFrom n [o] (setQp n { q with outs := [p] } s) = emit (.resend n o.psn) (setQp n { q with outs := [p] } s) := by
  rw [resendFrom_one (by simpa using hgcm) (by rw [qpOf_setQp_self]; exact maySend_open hopen hport), qpOf_setQp_self,
    setQp_setQp]

section
variable {n : Nat} {q : Qp} {s : State} (hq : qpOf s n = q)
include hq

theorem outAckTimeout_resends {o : OutPkt} (hopen : q.st = .open_) (hgcm : q.gcm = false)
    (hport : (hportOf s q.port).paused = false) (houts : q.outs = [o]) (hretries : o.retries < 7) :
    outAckTimeout n s =
      emit (.resend n o.psn) (setQp n { q with outs := [{ o with retries := o.retries + 1 }] } s) := by
  simp only [outAckTimeout, hq, houts, qpLive_of_open hopen, if_neg (Nat.not_le.2 hretries), Bool.not_true,
    Bool.false_eq_true, if_false]
  exact resendFrom_setQp hopen hgcm hport

theorem outAckTimeout_ends {o : OutPkt} {rest : List OutPkt} (hlive : qpLive q = true) (houts : q.outs = o :: rest)
    (hretries : 7 ≤ o.retries) : outAckTimeout n s = closeQp n (emit (.dreq n) s) := by
  simp only [outAckTimeout, hq, houts, hlive, if_pos hretries, Bool.not_true, Bool.false_eq_true, if_false]
  exact errorQp_live (hq ▸ hlive)

/-- What precedes the only packet in flight is nothing that is in flight. -/
theorem ackOuts_before {o : OutPkt} (houts : q.outs = [o]) (hpsn : o.psn < 2 ^ 24) :
    ackOuts n (psnPrev o.psn) s = setQp n { q with outs := [o] } s := by
  have hstays : decide (2 ^ 23 ≤ psnAhead o.psn (psnPrev o.psn)) = true := by rw [psnAhead_psnPrev hpsn]; decide
  have hkept : q.outs.filter (fun o' => decide (2 ^ 23 ≤ psnAhead o'.psn (psnPrev o.psn))) = [o] := by
    rw [houts]
    exact List.filter_cons_of_pos hstays
  rw [ackOuts, hq, hkept]

theorem rnrReceived_waits {o : OutPkt} (hlive : qpLive q = true) (hpsn : o.psn < 2 ^ 24) (houts : q.outs = [o]) :
    rnrReceived n o.psn s = setQp n { q with outs := [{ o with rnr := true, rnrSeen := true }] } s := by
  have hgo : ¬((!qpLive (qpOf s n)) = true ∨ (!(qpOf s n).outs.any (fun p => decide (p.psn = o.psn))) = true) := by
    simp [hq, hlive, houts]
  rw [rnrReceived, if_neg hgo, ackOuts_before hq houts hpsn]
  simp [modWhere]

theorem rnrResend_sends {o : OutPkt} (hopen : q.st = .open_) (hgcm : q.gcm = false)
    (hport : (hportOf s q.port).paused = false) (houts : q.outs = [o]) (hrnr : o.rnr = true) :
    rnrResend n s = emit (.resend n o.psn) (setQp n { q with outs := [{ o with rnr := false }] } s) := by
  have hagain : [o].dropWhile (fun o => !o.rnr) = [o] := by simp [hrnr]
  simp only [rnrResend, hq, houts, List.any_cons, hrnr, hagain, Bool.true_or, Bool.not_true, Bool.false_eq_true, if_false]
  exact resendFrom_setQp hopen hgcm hport

theorem rnrHoldExpiry_ends (hlive : qpLive q = true) (hseen : q.outs.any (·.rnrSeen) = true) :
    rnrHoldExpiry n s = closeQp n (emit (.dreq n) s) := by
  rw [rnrHoldExpiry, hq, if_pos hseen, errorQp_live (hq ▸ hlive)]

theorem remoteAccess_ends {psn : Nat} (hlive : qpLive q = true)
    (hwrite : q.outs.any (fun o => decide (o.psn = psn) && !o.isSend) = true) :
    remoteAccess n psn s = closeQp n (emit (.dreq n) (setQp n { q with
      outs := q.outs.filter (fun o => decide (2 ^ 23 ≤ psnAhead o.psn (psnPrev psn))) } s)) := by
  rw [remoteAccess, hq, if_pos hwrite, ackOuts, hq]
  exact errorQp_live (by rw [qpOf_setQp_self]; exact hlive)

/-! ### Rate and credits (R149, R169) -/

theorem cnpReceived_halves (hlive : qpLive q = true) :
    cnpReceived n true s = setQp n { q with rate := q.rate / 2 } s := by
  rw [cnpReceived, hq]
  exact if_pos ⟨rfl, hlive⟩

theorem rateTick_raises (hlive : qpLive q = true) :
    rateTick n s = setQp n { q with rate := min (100 * 2 ^ 32) (q.rate + 5 * 2 ^ 32) } s := by
  rw [rateTick, hq]
  exact if_pos hlive

theorem starvation_grants (hopen : q.st = .open_) (hplain : q.plain = false) (hroom : q.granted < q.creditWin) :
    starvation n s = sendAck n (setQp n { q with granted := q.granted + 1 } s) := by
  rw [starvation, hq]
  exact if_pos ⟨qpLive_of_open hopen, by simp [hplain], hroom⟩

end

/-! ### Host ports (R149, R165) -/

theorem pauseFrame_pauses {port prio : Nat} {s : State} {h : HPort} (hport : hportOf s port = h) (hup : h.up = true)
    (hpfc : h.pfc = prio) (hprio : prio ≤ 7) : pauseFrame port prio true s =
      { s with lat := { s.lat with hports := tset s.lat.hports port { h with paused := true } } } := by
  have hgo : ¬((!h.up) = true ∨ h.pfc ≠ prio ∨ 7 < prio) := by simp [hup, hpfc, hprio]
  rw [pauseFrame, hport]
  exact if_neg hgo

/-- With no queue pair to move to another port, a link change is entered and noted. -/
theorem portLink_noQps {port : Nat} {up : Bool} {s : State} {h : HPort} (hport : hportOf s port = h)
    (hexists : h.exists_ = true) (hqps : s.lat.qps = []) : portLink port up s = record 0x0A 5 1 .none [] { s with
      lat := { s.lat with hports := tset s.lat.hports port { h with up := up, paused := false } } } := by
  have hgo : ¬(!h.exists_) = true := by simp [hexists]
  have hmap : ∀ f : Nat → Qp → Qp, tmap f s.lat.qps = s.lat.qps := fun f => by rw [hqps]; rfl
  rw [portLink, hport]
  have hnone : ∀ (f : State → Nat × Qp → State) (t : State), s.lat.qps.foldl f t = t := fun f t => by rw [hqps]; rfl
  refine (if_neg hgo).trans ?_
  simp only [hmap, hnone, note]

/-- Settles O20: each timer and each packet from the host by its branch. -/
theorem outboundSideOfAQueuePair : Obligations.OutboundSideOfAQueuePair := by
  unfold Obligations.OutboundSideOfAQueuePair
  refine ⟨fun n s q hq hopen hdue => ?ack, fun n s q psn hq hopen hmode hpsn hack hnext hbehind => ?gap,
    fun n s q o hq hopen hgcm hport houts hretries => ?again, fun n s q o rest hq hlive houts hretries => ?given,
    fun n s q o timer hq hlive hpsn houts => ?rnr, fun n s q o hq hopen hgcm hport houts hrnr => ?rnrAgain,
    fun n s q hq hlive hseen => ?rnrEnds, fun n s q psn hq hlive hwrite => ?access,
    fun n s q hq hlive => ⟨?halved, ?raised⟩, fun n s q hq hopen hplain hroom => ?starved,
    fun port prio s h hport hup hpfc hprio => ?pause, fun port up s h hport hexists hqps => ?link⟩
  case ack => rw [exec_ackCoalesceTimer, ackTimer_sends hq hopen hdue]
  case gap =>
    have hmissing : OnePsnMissing q psn := ⟨hpsn, hack, hnext, hbehind⟩
    have hsel := sendSel_open (qpOf_setQp_self n (gapNamed q [psn]) s) hopen (List.cons_ne_nil psn [])
    obtain ⟨b, hb⟩ := emitAeth_out n psn 0x60 1 (.selNak n [psn]) { s with lat := { s.lat with
      qps := tset s.lat.qps n (gapNamed q [psn]), nakSel := satAdd 16 s.lat.nakSel 1 } }
    have hqp := qpOf_setQp_self n (gapNamed q [psn]) s
    exact ⟨_, b, by rw [exec_selectiveNakTimer, hmissing.selNakTimer_names hq hopen hmode, hsel]; rfl, hb,
      (congrArg (·.gapAt.contains psn) hqp).trans (by simp [gapNamed]), rfl⟩
  case again => rw [exec_outboundAckTimeout, outAckTimeout_resends hq hopen hgcm hport houts hretries]
  case given => rw [exec_outboundAckTimeout, outAckTimeout_ends hq hlive houts hretries]
  case rnr => rw [exec_rnrNakReceived, rnrReceived_waits hq hlive hpsn houts]
  case rnrAgain => rw [exec_rnrResendTimer, rnrResend_sends hq hopen hgcm hport houts hrnr]
  case rnrEnds => rw [exec_rnrHoldExpiry, rnrHoldExpiry_ends hq hlive hseen]
  case access => rw [exec_remoteAccessErrorNak, remoteAccess_ends hq hlive hwrite]
  case halved => rw [exec_cnpReceived, cnpReceived_halves hq hlive]
  case raised => rw [exec_rateRecoveryTick, rateTick_raises hq hlive]
  case starved =>
    have hack := sendAck_open (qpOf_setQp_self n { q with granted := q.granted + 1 } s) hopen
    obtain ⟨b, hb⟩ := emitAeth_out n (ackPsn q) (creditCode (q.granted + 1)) q.msn
      (.ack n (ackPsn q) (creditCode (q.granted + 1)))
      (setQp n { q with granted := q.granted + 1, ackDue := false, sinceAck := 0 } s)
    rw [setQp_setQp] at hack
    exact ⟨_, b, by rw [exec_creditStarvationTimer, starvation_grants hq hopen hplain hroom, hack]; rfl, hb,
      qpOf_setQp_self ..⟩
  case pause => rw [exec_pauseFrame, pauseFrame_pauses hport hup hpfc hprio]
  case link => rw [exec_hostPortLinkChange, portLink_noQps hport hexists hqps]

end Sys2Proof.Machine
end

section
/-!
PROOFS. Packets of the hosts: accepted, placed in tagged and plain mode, their staging pages and faults, and the context
cache (R148, R154, R155, R159 to R162, R165, R168).
-/
namespace Sys2Proof.Machine

theorem exec_inboundPacket (n : Fin 16384) (pkt : Packet) (s : State) :
    exec (.inboundPacket n pkt) s = .next (settle (inboundPacket n pkt s)) := rfl

theorem exec_taggedSegment (n : Fin 16384) (s : State) : exec (.taggedSegment n) s = .next (settle (taggedSegment n s)) := rfl

theorem exec_plainSend (n : Fin 16384) (s : State) : exec (.plainSend n) s = .next (settle (plainSend n s)) := rfl

theorem exec_plainCopyDone (n : Fin 16384) (tag : Fin 32) (s : State) :
    exec (.plainCopyDone n tag) s = .next (plainCopyDone n tag s) := rfl

theorem exec_stagingPageFree (n : Fin 16384) (tag : Fin 32) (page : Nat) (s : State) :
    exec (.stagingPageFree n tag page) s = .next (settle (stagingPageFree n tag page s)) := rfl

theorem exec_stagingFaultTimeout (n : Fin 16384) (s : State) :
    exec (.stagingFaultTimeout n) s = .next (settle (stagingFaultTimeout n s)) := rfl

theorem exec_contextFetchDone (n : Fin 16384) (lineOk : Bool) (s : State) :
    exec (.contextFetchDone n lineOk) s = .next (settle (contextFetchDone n lineOk s)) := rfl

@[simp] theorem monEnd_lat (probe id filter : Nat) (s : State) : (monEnd probe id filter s).lat = s.lat := rfl

@[simp] theorem monEnd_out (probe id filter : Nat) (s : State) : (monEnd probe id filter s).out = s.out := rfl

@[simp] theorem qpOf_monEnd (probe id filter : Nat) (s : State) (k : Nat) : qpOf (monEnd probe id filter s) k = qpOf s k := rfl

@[simp] theorem tagOf_tset_self (q : Qp) (tag : Nat) (x : LTag) : tagOf { q with tags := tset q.tags tag x } tag = x :=
  tgetD_tset_self ..

/-! ### The context cache (R155) -/

/-- The state in which the context of a queue pair stands at the front of the cache. -/
def ctxUsed (n : Nat) (s : State) : State := setQp n { qpOf s n with cached := true }
  { s with lat := { s.lat with lru := n :: s.lat.lru.filter (· ≠ n) } }

theorem touchCtx_enters {n : Nat} {s : State} (h : s.lat.lru.contains n = true ∨ s.lat.lru.length < 2048) :
    touchCtx n s = ctxUsed n s :=
  if_pos (h.imp_right (List.length_filter_le ..).trans_lt)

@[simp] theorem qpOf_ctxUsed_self (n : Nat) (s : State) : qpOf (ctxUsed n s) n = { qpOf s n with cached := true } :=
  qpOf_setQp_self ..

theorem qpOf_ctxUsed_other {n k : Nat} (s : State) (h : k ≠ n) : qpOf (ctxUsed n s) k = qpOf s k := qpOf_setQp_other _ _ h

/-- Without a logged drop of a queue pair no NAK falls due (R156). -/
theorem nakDropped_none {n : Nat} {s : State} (h : ∀ e ∈ s.lat.dropLog, e.1 ≠ n) : nakDropped n s = s := by
  have hmine : s.lat.dropLog.filter (fun e => decide (e.1 = n)) = [] :=
    List.filter_eq_nil_iff.2 fun e he => by simpa using h e he
  have hothers : s.lat.dropLog.filter (fun e => decide (e.1 ≠ n)) = s.lat.dropLog :=
    List.filter_eq_self.2 fun e he => by simpa using h e he
  rw [nakDropped, hmine, hothers]
  rfl

section
variable {n : Nat} {q : Qp} {s : State} (hq : qpOf s n = q) (hfetch : q.fetching = true) (hlive : qpLive q = true)
include hq hfetch hlive

/-- The context of a queue pair without held packets arrives. -/
theorem contextFetchDone_caches (hheld : q.held = []) (hdrops : ∀ e ∈ s.lat.dropLog, e.1 ≠ n)
    (hroom : s.lat.lru.contains n = true ∨ s.lat.lru.length < 2048) :
    contextFetchDone n true s = monEnd 14 n 0 (ctxUsed n (setQp n { q with fetching := false, held := [] } s)) := by
  have hgo : ¬((!q.fetching) = true ∨ (!qpLive q) = true) := by simp [hfetch, hlive]
  have henter := touchCtx_enters (s := setQp n { q with fetching := false, held := [] } s) hroom
  simp only [contextFetchDone, hq, if_neg hgo, henter, qpOf_monEnd, qpOf_ctxUsed_self, hheld, List.foldl_nil, Bool.not_true,
    Bool.false_eq_true, if_false]
  exact (if_pos (by simpa [qpLive] using hlive)).trans (nakDropped_none hdrops)

theorem contextFetchDone_badLine : contextFetchDone n false s =
    errorQp n (record 0x0A 1 2 (.queuePair n) [] (setQp n { q with fetching := false } s)) := by
  have hgo : ¬((!q.fetching) = true ∨ (!qpLive q) = true) := by simp [hfetch, hlive]
  simp only [contextFetchDone, hq, if_neg hgo, Bool.not_false, if_true]

end

/-! ### A packet that comes in order (R148, R154, R165, R168) -/

/-- The state after a frame has come in, apart from what it carries: host ports, output and free draws may have changed. -/
def frameTaken (hp : Tab HPort) (o : List Out) (d : Nat) (s : State) : State :=
  { s with lat := { s.lat with hports := hp }, out := o, draws := d }

/-- An untagged frame at an up port comes in; only the port's pause frames change, and only where a priority pauses. -/
theorem frameIn_untagged {port : Nat} {s : State} (hup : (hportOf s port).up = true) : ∃ hp o d,
    frameIn port [] s = (true, frameTaken hp o d s) ∧ (7 < (hportOf s port).pfc → o = s.out ∧ d = s.draws) := by
  by_cases hpfc : 7 < (hportOf s port).pfc
  · have hsame : frameIn port [] s = (true, s) := by simp [frameIn, hup, hpfc]
    exact ⟨_, _, _, hsame, fun _ => ⟨rfl, rfl⟩⟩
  · simp only [frameIn, hup, hpfc, Bool.not_true, Bool.false_eq_true, if_false, ne_eq, not_true_eq_false, false_and]
    split
    · exact ⟨_, _, _, rfl, False.elim⟩
    · exact ⟨_, _, _, rfl, False.elim⟩

/-- A queue pair of tagged ordered mode that has accepted a packet with all its credits renewed. -/
def qpAccepted (q : Qp) (psn : Nat) (bytes : Bytes) : Qp := { q with
  psnAck := psn
  segq := q.segq ++ [(psn, bytes)]
  granted := q.creditWin
  creditAsked := false
  ackDue := true
  sinceAck := q.sinceAck + 1
  msn := (q.msn + 1) % 2 ^ 24
  gapAt := q.gapAt.filter (· ≠ psn) }

section
variable {n psn : Nat} {bytes : Bytes} {q : Qp} {s : State} (hq : qpOf s n = q) (hplain : q.plain = false)
  (hmode : q.mode = some false)
include hq hplain hmode

/-- At the whole allowance a packet renews the credits, and short of 32 packets its acknowledgement waits. -/
theorem acceptPacket_ordered (hallow : s.lat.cap ≤ s.lat.allow) (hsince : q.sinceAck < 31) :
    acceptPacket n psn bytes s = setQp n (qpAccepted q psn bytes) s := by
  have hnoAck : ¬32 ≤ q.sinceAck + 1 := by omega
  simp only [acceptPacket, hq, hmode, hplain, Option.some.injEq, Bool.false_eq_true, if_false, if_neg hnoAck, regrant,
    qpOf_setQp_self, setQp_setQp]
  rw [if_pos (by exact hallow)]
  simp [qpAccepted, hmode, hplain, b2n]

/-- The next packet, with a credit at hand and no stall before it, is no duplicate, shows no gap and needs no NAK. -/
theorem dataPacket_inOrder (hnext : psnAhead q.psnAck psn = 1) (hgranted : 0 < q.granted) (hstall : q.stalled = false) :
    dataPacket n psn bytes s = acceptPacket n psn bytes (setQp n q s) := by
  have hcredit : q.granted ≠ 0 := hgranted.ne'
  simp [dataPacket, hq, hmode, hplain, hnext, hcredit, hstall]

end

/-- A SEND Only of tagged mode in the clear is a data packet. -/
theorem packetIn_sendOnly {n : Nat} {p : Packet} {s : State} (hlru : s.lat.lru.contains n = true) (hop : p.op = .sendOnly)
    (hce : p.ce = false) (hgcm : (qpOf s n).gcm = false) (hplain : (qpOf s n).plain = false) :
    packetIn n p s = dataPacket n (p.psn % 2 ^ 24) p.payload (ctxUsed n s) := by
  simp [packetIn, touchCtx_enters (Or.inl hlru), hop, hce, hgcm, hplain, sendLead]

/-- Where its context is cached, a SEND Only in order, with a credit and the whole allowance, is accepted. -/
theorem packetIn_accepts {n : Nat} {p : Packet} {q : Qp} {s : State} (hq : qpOf s n = q) (hcached : q.cached = true)
    (hlru : s.lat.lru.contains n = true) (hgcm : q.gcm = false) (hplain : q.plain = false) (hmode : q.mode = some false)
    (hop : p.op = .sendOnly) (hce : p.ce = false) (hnext : psnAhead q.psnAck (p.psn % 2 ^ 24) = 1) (hgranted : 0 < q.granted)
    (hallow : s.lat.cap ≤ s.lat.allow) (hstall : q.stalled = false) (hsince : q.sinceAck < 31) :
    packetIn n p s = setQp n (qpAccepted q (p.psn % 2 ^ 24) p.payload)
      { s with lat := { s.lat with lru := n :: s.lat.lru.filter (· ≠ n) } } := by
  have hctx : qpOf (ctxUsed n s) n = q := by rw [qpOf_ctxUsed_self, hq, ← hcached]
  rw [packetIn_sendOnly hlru hop hce (hq.symm ▸ hgcm) (hq.symm ▸ hplain),
    dataPacket_inOrder hctx hplain hmode hnext hgranted hstall,
    acceptPacket_ordered (s := setQp n q (ctxUsed n s)) (qpOf_setQp_self ..) hplain hmode hallow hsince, ctxUsed,
    setQp_setQp, setQp_setQp]

/-- A frame that comes in for a live queue pair with its context in the cache. -/
theorem inboundPacket_cached {n : Nat} {p : Packet} {s t : State} (hframe : frameIn p.port p.vlans s = (true, t))
    (hlive : qpLive (qpOf t n) = true) (hcached : (qpOf t n).cached = true) : inboundPacket n p s = packetIn n p t := by
  have hst : ¬((qpOf t n).st = .connecting ∧ validPacket (qpOf (openQueue n t) n) p = true) :=
    fun h => st_ne_connecting_of_live hlive h.1
  simp only [inboundPacket, hframe, if_neg hst, hlive, hcached, Bool.not_true, Bool.false_eq_true, if_false, if_true]

/-! ### Segments of tagged mode (R159, R160) -/

section
variable {n tag off total : Nat} {bs : Bytes} {q : Qp} {x y : LTag} {s : State} {want : List Nat} {asn : Nat}
  (hq : qpOf s n = q) (hx : tagOf q tag = x) (hasn : x.asn = some asn) (hfree : overlaps x off bs.length = false)
  (hy : y = { x with placed := x.placed ++ [(off, bs)] })
  (hlen : lengthBreach x off bs.length false total (capsuleOf y) = false)
  (hwant : want = (pagesOf ((capsuleOf y).getD []) (max off 64 - 64) (off + bs.length - 64)).filter
    (fun p => !x.pages.contains p))
  (hpages : pagesFree s q want.length = true)
include hq hx hasn hfree hy hlen hwant hpages

/-- A segment in the middle of a message known by its capsule is placed, and takes the pages that it is the first to touch. -/
theorem placeAt_middle : placeAt n tag off bs false total s = (true, setQp n { q with
    tags := tset q.tags tag { y with pages := x.pages ++ want }
    rnrCode := 4 } s) := by
  subst hy
  rw [hasn] at hlen hwant
  simp only [placeAt, hq, hx, hasn, Bool.false_eq_true, false_and, if_false, hlen, hfree, ← hwant, hpages, Bool.not_true,
    setTag, qpOf_setQp_self, setQp_setQp]

end

/-- The front packet, of a message in RECEIVING and not its first, goes to its offset in the message. -/
theorem taggedSegment_receiving {n psn : Nat} {raw : Bytes} {rest : List (Nat × Bytes)} {g : Seg} {q : Qp} {s t : State}
    (hq : qpOf s n = q) (hplain : q.plain = false) (hsegq : q.segq = (psn, raw) :: rest) (hseg : segOf raw = some g)
    (hmp : g.mp = decide (q.mode = some true)) (hst : (tagOf q g.tag).st = .receiving)
    (hkept : (tagOf q g.tag).discard = false) (hfirst : g.first = false)
    (hplace : placeAt n g.tag g.off g.data g.last g.total s = (true, t)) :
    taggedSegment n s = popSeg n (checkComplete n g.tag t) := by
  have hmode : ¬g.mp ≠ (q.mode = some true) := by simp [hmp]
  simp only [taggedSegment, hq, hplain, hsegq, hseg, if_neg hmode, placeSeg, hst, hkept, hfirst, placeBytesAt, hplace,
    Bool.false_eq_true, if_false, if_true]

/-! ### SENDs of plain mode (R162) -/

section
variable {n : Nat} {s : State}

/-- A SEND whose tag is known has given its capsule. -/
theorem plainCapsule_known {tag : Nat} (h : (qpOf s n).plainRx.tag = some tag) : plainCapsule n s = s := by
  simp [plainCapsule, h]

theorem plainOver_within {tag : Nat} {c : Bytes} (h : (qpOf s n).plainRx.tag = some tag)
    (hc : capsuleOf (tagOf (qpOf s n) tag) = some c) (hlen : (qpOf s n).plainRx.bytes.length ≤ expected c) :
    plainOver n s = s := by
  have hin : ¬(expected c < (qpOf s n).plainRx.bytes.length ∧ (!(qpOf s n).plainRx.drop) = true) := fun h => by omega
  simp only [plainOver, h, hc]
  split
  · rename_i c' _ hc' _
    obtain rfl := Option.some.inj hc'
    exact if_neg hin
  · rfl

/-- A queue pair whose SEND under way has received a packet more. -/
def qpContinued (q : Qp) (raw : Bytes) : Qp := { q with
  plainBufs := min 32 q.plainBufs
  rnrCode := 4
  plainRx := { q.plainRx with
    bytes := q.plainRx.bytes ++ raw.drop 1
    pages := cdiv (q.plainRx.bytes ++ raw.drop 1).length 65536 } }

section
variable {q : Qp} {psn : Nat} {raw : Bytes} {rest : List (Nat × Bytes)} (hq : qpOf s n = q) (hplain : q.plain = true)
  (hsegq : q.segq = (psn, raw) :: rest) (hop : fieldLE raw 0 1 = 2) (hbegun : q.plainRx.begun = true)
  (hkept : q.plainRx.drop = false) (hmost : cdiv (q.plainRx.bytes ++ raw.drop 1).length 65536 ≤ 256)
  (hpages : pagesFree s q (cdiv (q.plainRx.bytes ++ raw.drop 1).length 65536 - q.plainRx.pages) = true)
include hq hplain hsegq hop hbegun hkept hmost hpages

/-- A middle packet that finds its pages goes into the buffer of its SEND before the SEND is judged. -/
theorem plainSend_middle :
    plainSend n s = popSeg n (plainOver n (plainCapsule n (setQp n (qpContinued q raw) s))) := by
  have hfirst : decide (fieldLE raw 0 1 = 0 ∨ fieldLE raw 0 1 = 1) = false := by simp [hop]
  have hlast : decide (fieldLE raw 0 1 = 0 ∨ fieldLE raw 0 1 = 3) = false := by simp [hop]
  have hcontinues : ¬((!false) = true ∧ (!q.plainRx.begun) = true) := by simp [hbegun]
  have hfits : ¬16777280 < (q.plainRx.bytes ++ raw.drop 1).length := by
    rw [cdiv] at hmost
    omega
  rw [plainSend, hq]
  refine (if_neg (by simp [hplain])).trans ?_
  split
  · rename_i hnil
    simp [hsegq] at hnil
  · rename_i raw' _ hcons
    obtain ⟨⟨-, rfl⟩, -⟩ : (psn, raw) = (_, raw') ∧ rest = _ := by simpa [hsegq] using hcons
    simp only [hfirst, hlast, if_neg (ne_true_of_eq_false hkept), Bool.false_eq_true, if_false, Bool.false_and, b2n,
      Nat.add_zero]
    exact (if_neg hcontinues).trans ((if_neg hfits).trans (if_neg (by simpa using hpages)))

/-- A middle packet of a SEND whose capsule is known, and which it does not overrun, is appended to it. -/
theorem plainSend_appends {tag : Nat} {c : Bytes} (htag : q.plainRx.tag = some tag) (hc : capsuleOf (tagOf q tag) = some c)
    (hlen : q.plainRx.bytes.length + (raw.length - 1) ≤ expected c) :
    plainSend n s = popSeg n (setQp n (qpContinued q raw) s) := by
  have hself := qpOf_setQp_self n (qpContinued q raw) s
  have hlen' : (qpContinued q raw).plainRx.bytes.length ≤ expected c := by simpa [qpContinued] using hlen
  rw [plainSend_middle hq hplain hsegq hop hbegun hkept hmost hpages, plainCapsule_known (by rw [hself]; exact htag),
    plainOver_within (by rw [hself]; exact htag) (by rw [hself]; exact hc) (by rw [hself]; exact hlen')]

end

theorem plainCopyDone_handsOver {tag : Nat} {x : LTag} (hx : tagOf (qpOf s n) tag = x) (hbuf : x.plainBuf = true)
    (hpages : pagesFree s (qpOf s n) (pagesOf ((capsuleOf x).getD []) 0 (placedSum x - 64)).length = true)
    (hop : ∀ c, x.asn.bind (cmdOf s) = some c → within 1 8 c.opcode = true) :
    plainCopyDone n tag s = setQp n { qpOf s n with
      tags := tset (qpOf s n).tags tag { x with
        plainBuf := false
        st := .running
        pages := pagesOf ((capsuleOf x).getD []) 0 (placedSum x - 64) }
      plainBufs := min 32 ((qpOf s n).plainBufs + 1) } s := by
  have hcmd : ∀ q, cmdOf (setQp n q s) = cmdOf s := fun _ => rfl
  simp only [plainCopyDone, hx, hbuf, hpages, hcmd, Bool.not_true, Bool.false_eq_true, or_self, if_false]
  split
  · rename_i c hc
    exact if_pos (hop c hc)
  · rfl

end

/-! ### Staging pages and faults (R160, R161) -/

/-- While no queue pair is stalled, a page that is done with returns, and no packet is placed again. -/
theorem stagingPageFree_frees {n tag page : Nat} {s : State} {x : LTag} (hx : tagOf (qpOf s n) tag = x)
    (hpage : x.pages.contains page = true) (hdone : pageDone s x page = true) (hrun : ∀ e ∈ s.lat.qps, e.2.stalled = false) :
    stagingPageFree n tag page s = setTag n tag { x with pages := x.pages.filter (· ≠ page) } s := by
  have hself : (qpOf s n).stalled = false := by
    rw [qpOf, tgetD]
    cases hget : tget s.lat.qps n with
    | none => rfl
    | some q => exact hrun _ (tget_mem hget)
  have hnone : (setTag n tag { x with pages := x.pages.filter (· ≠ page) } s).lat.qps.filter (fun e => e.2.stalled) = [] := by
    refine List.filter_eq_nil_iff.2 fun e he => ne_true_of_eq_false ?_
    rcases mem_tset he with rfl | he
    · exact hself
    · exact hrun e he
  simp only [stagingPageFree, hx, if_pos (And.intro hpage hdone), hnone, List.foldl_nil]

/-- The fault of an ordered queue pair has lasted: its front packet is answered, and it drops what it had accepted. -/
theorem stagingFaultTimeout_answers {n psn : Nat} {q : Qp} {raw : Bytes} {rest : List (Nat × Bytes)} {s : State}
    (hq : qpOf s n = q) (hstall : q.stalled = true) (hsegq : q.segq = (psn, raw) :: rest) (hmode : q.mode = some false) :
    stagingFaultTimeout n s =
      monEnd 15 n q.pd (sendRnr n psn (setQp n { q with psnAck := psnPrev psn, segq := [], stalled := false } s)) := by
  simp [stagingFaultTimeout, faultTimeout, unmark, hq, hstall, hsegq, hmode]

/-- Settles O19: a packet that comes in order through the port, the cache and the checks; each other event by its branch. -/
theorem packetsAreAcceptedAndPlaced : Obligations.PacketsAreAcceptedAndPlaced := by
  unfold Obligations.PacketsAreAcceptedAndPlaced
  refine ⟨fun n pkt s q hq hlive hcached hlru hup hvlans hgcm hplain hmode hop hce hnext hgranted hallow hstall hsince =>
      ?accept,
    fun n s q psn asn raw rest g x y want hq hplain hsegq hseg hmp hx hst hkept hasn hfirst hlast hfree hy hlen hwant hpages =>
      ?place,
    fun n s q psn tag raw c rest hq hplain hsegq hop hbegun htag hkept hc hlen hmost hpages => ?append,
    fun n tag s x hx hbuf hpages hop => ?copied, fun n tag page s x hx hpage hdone hrun => ?freed,
    fun n s q psn raw rest hq hopen hstall hsegq hmode => ?fault,
    fun n s q hq hfetch hlive hheld hdrops hroom => ?fetched, fun n s hfetch hlive => ?badLine⟩
  case accept =>
    obtain ⟨hp, o, d, hframe, hquiet⟩ := frameIn_untagged hup
    have hq' : qpOf (frameTaken hp o d s) n = q := hq
    refine ⟨inboundPacket n pkt s, exec_inboundPacket .., ?_⟩
    rw [inboundPacket_cached (by rw [hvlans, hframe]) (by rw [hq', hlive]) (by rw [hq', hcached]),
      packetIn_accepts hq' hcached hlru hgcm hplain hmode hop hce hnext hgranted hallow hstall hsince]
    exact ⟨qpOf_setQp_self .., rfl, hquiet⟩
  case place =>
    have hplace := placeAt_middle hq hx hasn hfree hy hlen hwant hpages
    rw [← hlast] at hplace
    have hseg' := taggedSegment_receiving hq hplain hsegq hseg hmp (hx ▸ hst) (hx ▸ hkept) hfirst hplace
    exact ⟨_, by rw [exec_taggedSegment, hseg'], qpOf_setQp_self .., rfl⟩
  case append =>
    refine ⟨_, by rw [exec_plainSend, plainSend_appends hq hplain hsegq hop hbegun hkept hmost hpages htag hc hlen], ?_⟩
    simp [popSeg, qpContinued, hsegq]
  case copied => rw [exec_plainCopyDone, plainCopyDone_handsOver hx hbuf hpages hop]
  case freed =>
    exact ⟨_, by rw [exec_stagingPageFree, stagingPageFree_frees hx hpage hdone hrun], by simp [setTag], by simp [setTag]⟩
  case fault =>
    have hrnr := sendRnr_open (q := { q with psnAck := psnPrev psn, segq := [], stalled := false })
      (qpOf_setQp_self n _ s) hopen psn
    refine ⟨stagingFaultTimeout n s, exec_stagingFaultTimeout .., ?_⟩
    rw [stagingFaultTimeout_answers hq hstall hsegq hmode, monEnd_out, monEnd_lat, qpOf_monEnd, hrnr, qpOf_emitAeth,
      qpOf_setQp_self]
    exact ⟨emitAeth_out .., rfl, rfl⟩
  case fetched =>
    refine ⟨contextFetchDone n true s, exec_contextFetchDone .., ?_⟩
    rw [contextFetchDone_caches hq hfetch hlive hheld hdrops hroom]
    refine ⟨rfl, ?_, fun k hk => ?_⟩
    · rw [qpOf_monEnd, qpOf_ctxUsed_self, qpOf_setQp_self, hheld]
    · rw [qpOf_monEnd, qpOf_ctxUsed_other _ hk, qpOf_setQp_other _ _ hk]
  case badLine => rw [exec_contextFetchDone, contextFetchDone_badLine rfl hfetch hlive]

end Sys2Proof.Machine
end

-- Proofs of the statements on ingest (chapter 07).
section
/-!
PROOFS. The domain commands (R207 to R209).
-/
namespace Sys2Proof.Machine

theorem exec_domCreate (n : Fin 64) (s : State) :
    exec (.domCreate n) s = .next (basmos n 0x0210 domCreateLayout domCreateH s) := rfl

theorem exec_domPolicy (n : Fin 64) (s : State) :
    exec (.domPolicy n) s = .next (basmos n 0x0211 (layoutIs 16 [(6, 2), (12, 4)]) domPolicyH s) := rfl

theorem exec_domByteVerify (n : Fin 64) (s : State) :
    exec (.domByteVerify n) s = .next (basmos n 0x0212 (layoutIs 8 [(5, 3)]) domByteVerifyH s) := rfl

/-- Loading a key into a slot changes the key books alone. -/
theorem loadSlot_frame (k : Nat) (key : Bytes) (purpose domain version : Nat) (s : State) :
    loadSlot k key purpose domain version s = { s with sec := (loadSlot k key purpose domain version s).sec } := by
  unfold loadSlot
  split <;> rfl

theorem loadPair_frame (k : Nat) (key : Bytes) (purpose domain version : Nat) (s : State) :
    loadPair k key purpose domain version s = { s with sec := (loadPair k key purpose domain version s).sec } := by
  simp only [loadPair]
  rw [loadSlot_frame (k + 1), loadSlot_frame k]

/-! ### A domain is entered -/

/-- The domain that a DOM_CREATE payload describes, under a salt. -/
def domAsked (p salt : Bytes) (version : Nat) : DomRec :=
  { salt := salt
    dedup := (fieldLE p 4 1).testBit 0
    compress := (fieldLE p 4 1).testBit 1
    version := version
    blobA := bslice p 16 (fieldLE p 8 2)
    blobB := bslice p (16 + fieldLE p 8 2) (fieldLE p 10 2) }

/-- A domain entered in the array record: its salt has cost a draw, and this head has its key. -/
def domEntered (d : Nat) (v : DomRec) (s : State) : State :=
  let t := changeArray (fun a => { a with domains := tset a.domains d v }) (drbgRequest (draw s))
  { t with pair := { t.pair with noKey := t.pair.noKey.filter (· ≠ d) } }

theorem domEntered_domains (d : Nat) (v : DomRec) (s : State) :
    (domEntered d v s).pair.arr.domains = tset s.pair.arr.domains d v := rfl

theorem domEntered_loadPair_frame (d : Nat) (v : DomRec) (k : Nat) (key : Bytes) (purpose version : Nat) (s : State) :
    domEntered d v (loadPair k key purpose d version s) = { s with
      pair := (domEntered d v (loadPair k key purpose d version s)).pair
      sec := (domEntered d v (loadPair k key purpose d version s)).sec
      draws := s.draws + 1 } := by
  rw [loadPair_frame]
  rfl

section
variable {p mine : Bytes} {s : State} {k d : Nat}
  (hasked : fieldLE p 0 4 ≤ 1023 ∨ fieldLE p 0 4 = 0xFFFFFFFF) (hnew : thas s.pair.arr.domains (fieldLE p 0 4) = false)
  (hd : d = if fieldLE p 0 4 = 0xFFFFFFFF then tfree s.pair.arr.domains 0 1024 else fieldLE p 0 4)
  (hf : fieldLE p 4 1 ≤ 3) (ha : 0 < fieldLE p 8 2 ∧ fieldLE p 8 2 ≤ 240) (hb : 0 < fieldLE p 10 2 ∧ fieldLE p 10 2 ≤ 240)
  (hrng : s.sec.rngHalted = false) (hroom : s.pair.arr.domains.length < 1024) (hfree : freePair s = some k)
  (hmine : mine = if keyRole s = some .b then bslice p (16 + fieldLE p 8 2) (fieldLE p 10 2)
    else bslice p 16 (fieldLE p 8 2))
  (hpurpose : fieldLE mine 2 1 = 1) (hdom : fieldLE mine 6 2 = d)
include hasked hnew hd hf ha hb hrng hroom hfree hmine hpurpose hdom

/-- A DOM_CREATE that none of its fields refuses turns on whether this head's blob unwraps. -/
theorem domCreateH_allowed : domCreateH p s = match unwrap s mine with
    | some key =>
      let t := loadPair k key 0 d (fieldLE mine 4 2) s
      (.now (.ok (leN 4 d)), domEntered d (domAsked p
        (xtsRegion true (slotKey t k) (slotKey t (k + 1)) 0 0 (freeBytes 32 t)) (fieldLE mine 4 2)) t)
    | none => refuse .denied (blobRefusedOf mine s) := by
  have hgo : ¬(3 < fieldLE p 4 1 ∨ fieldLE p 8 2 = 0 ∨ 240 < fieldLE p 8 2 ∨ fieldLE p 10 2 = 0 ∨ 240 < fieldLE p 10 2 ∨
      (1023 < fieldLE p 0 4 ∧ fieldLE p 0 4 ≠ 0xFFFFFFFF) ∨ thas s.pair.arr.domains (fieldLE p 0 4) = true) := by
    simp only [hnew, Bool.false_eq_true, or_false]
    omega
  have hplace : ¬(1024 ≤ s.pair.arr.domains.length ∨ (some k).isNone = true) := by simp [hroom]
  simp only [domCreateH, if_neg hgo, hrng, if_neg hplace, hfree, ← hd, ← hmine, if_pos (And.intro hpurpose hdom),
    Bool.false_eq_true, if_false]
  cases unwrap s mine <;> rfl

end

/-! ### New switches of a domain -/

/-- New switches of a domain entered in the array record, while the old ones stay in force until the boundary. -/
def domSwitched (d : Nat) (v : DomRec) (s : State) : State :=
  changeArray (fun a => { a with domains := tset a.domains d v }) (holdSwitches d s)

theorem domSwitched_domains (d : Nat) (v : DomRec) (s : State) :
    (domSwitched d v s).pair.arr.domains = tset s.pair.arr.domains d v := rfl

theorem domSwitches_domSwitched (d : Nat) (v : DomRec) (s : State) :
    domSwitches (domSwitched d v s) d = domSwitches s d := by
  have h : tget (domSwitched d v s).pair.domF d = some (domSwitches s d) := tget_tset_self ..
  rw [domSwitches, h]

theorem domPolicyH_sets {p : Bytes} {s : State} {v : DomRec} (hone : fieldLE p 0 4 ≠ 0xFFFFFFFF) (hop : fieldLE p 4 1 = 1)
    (hf : fieldLE p 5 1 ≤ 3) (hgib : fieldLE p 8 4 = 0) (hv : tget s.pair.arr.domains (fieldLE p 0 4) = some v) :
    domPolicyH p s = (.now .ok, domSwitched (fieldLE p 0 4) { v with
      dedup := (fieldLE p 5 1).testBit 0
      compress := (fieldLE p 5 1).testBit 1 } s) := by
  have hgo : ¬(1 < fieldLE p 4 1 ∨ 3 < fieldLE p 5 1) := by omega
  have hset : ¬fieldLE p 4 1 = 0 := by omega
  simp only [domPolicyH, if_neg hgo, if_neg hone, hv, if_neg hset, if_neg (not_not.2 hgib)]
  rfl

theorem domByteVerifyH_sets {p : Bytes} {s : State} {v : DomRec} (hf : fieldLE p 4 1 ≤ 1)
    (hv : tget s.pair.arr.domains (fieldLE p 0 4) = some v) :
    domByteVerifyH p s =
      (.now .ok, domSwitched (fieldLE p 0 4) { v with verify := decide (fieldLE p 4 1 = 1) } s) := by
  simp only [domByteVerifyH, if_neg (Nat.not_lt.2 hf), hv]
  rfl

/-- Settles O9: DOM_CREATE by what its blob unwraps to, the two changes of switches by their one branch. -/
theorem domainCommands : Obligations.DomainCommands := by
  unfold Obligations.DomainCommands
  refine ⟨fun n s p msg mine k d h hl hasked hnew hd hf ha0 ha hb0 hb hrng hroom hfree hmine hpurpose hdom => ?create,
    fun n s p msg v h hl hone hop hf hgib hv => ⟨_, ?policy, tget_tset_self .., domSwitches_domSwitched .., rfl, rfl⟩,
    fun n s p msg v h hl hf hv => ⟨_, ?verify, tget_tset_self .., domSwitches_domSwitched .., rfl, rfl⟩⟩
  case create =>
    have hH := domCreateH_allowed hasked hnew hd hf ⟨ha0, ha⟩ ⟨hb0, hb⟩ hrng hroom hfree hmine hpurpose hdom
    cases hkey : unwrap s mine with
    | some key =>
      rw [hkey] at hH
      refine ⟨_, _, by rw [exec_domCreate, basmos_now h hl hH], tget_tset_self .., rfl, rfl, rfl, rfl, rfl, fun e he => ?_,
        domEntered_loadPair_frame ..⟩
      rw [domEntered_domains, tget_tset_other _ _ he, loadPair_frame]
    | none =>
      rw [hkey] at hH
      show exec (.domCreate n) s = _
      rw [exec_domCreate, basmos_now h hl hH]
  case policy => rw [exec_domPolicy, basmos_now h hl (domPolicyH_sets hone hop hf hgib hv)]
  case verify => rw [exec_domByteVerify, basmos_now h hl (domByteVerifyH_sets hf hv)]

end Sys2Proof.Machine
end

section
/-!
PROOFS. A collided chunk keeps the content serial that its collision was recorded with (R192): the refutation of the statement on
the steps of ingest. A statement about the state before the engines go on (settle) is refuted where they stand still; that no
other state settles to that one follows from the last steps of a round: mirroring (R101), and posting and release (R91).
-/
namespace Sys2Proof.Machine

/-! ### What posting and releasing leave of the journal -/

theorem rekeyNote_jrn (n : Nat) (before after : Qp) (s : State) : (rekeyNote n before after s).jrn = s.jrn := by
  simp only [rekeyNote, apply_ite State.jrn, record_jrn, ite_self]

theorem txPacket_jrn {n asn op : Nat} {isSend sent : Bool} {ext p : Bytes} {mk : Nat → Bytes → Out} {s t : State}
    (h : txPacket n asn isSend op ext p mk s = (sent, t)) : t.jrn = s.jrn := by
  obtain rfl : (txPacket n asn isSend op ext p mk s).2 = t := congrArg Prod.snd h
  simp only [txPacket]
  split
  · rfl
  · split
    · exact record_jrn ..
    · exact rekeyNote_jrn ..

theorem flushQp_jrn (n k : Nat) (s : State) : (flushQp n k s).jrn = s.jrn := by
  induction k generalizing s with
  | zero => rfl
  | succ k ih =>
    simp only [flushQp]
    split
    · split
      next h =>
        have ht := txPacket_jrn h
        exact (ih _).trans ht
      next h => exact txPacket_jrn h
    · split
      · split
        next h =>
          have ht := txPacket_jrn h
          exact (ih _).trans ht
        next h => exact txPacket_jrn h
      · rfl

theorem postOn_jrn (n tag : Nat) (st : Status) (result : Nat) (bytes : Bytes) (s : State) :
    (postOn n tag st result bytes s).jrn = s.jrn := flushQp_jrn ..

theorem freeTagOf_jrn (n tag asn : Nat) (s : State) : (freeTagOf n tag asn s).jrn = s.jrn := by
  simp only [freeTagOf]
  split <;> rfl

theorem leaveTag_jrn (c : Cmd) (asn : Nat) (s : State) : (leaveTag c asn s).jrn = s.jrn := by
  simp only [leaveTag]
  split
  · exact (freeTagOf_jrn ..).trans (freeTagOf_jrn ..)
  · exact freeTagOf_jrn ..

theorem finishCmd_restart (asn : Nat) (s : State) : (finishCmd asn s).jrn.restart = s.jrn.restart := by
  simp only [finishCmd, monCount, enterReplay]
  repeat' split
  all_goals simp only [postOn_jrn, leaveTag_jrn]

theorem postReady_restart (s : State) : (postReady s).jrn.restart = s.jrn.restart := by
  unfold postReady
  exact foldl_keeps (fun s : State => s.jrn.restart) (fun _ _ => finishCmd_restart ..) _ _

theorem freeDrained_restart (s : State) : (freeDrained s).jrn.restart = s.jrn.restart := by
  refine foldl_keeps (fun s : State => s.jrn.restart) (fun s r => ?_) _ s
  dsimp only
  split <;> rfl

theorem dealSegs_jrn (cls k off len : Nat) (s : State) : (dealSegs cls k off len s).2.jrn = s.jrn := by
  induction k generalizing off len s with
  | zero => rfl
  | succ k ih =>
    simp only [dealSegs]
    split
    · rfl
    · simp only [apply_ite Prod.snd, apply_ite State.jrn, ih]
      exact ite_self _

theorem sendFrames_jrn (type id len : Nat) (payload : Bytes) (segs : List (Nat × Nat × Nat × Nat × Nat)) (s : State) :
    (sendFrames type id len payload segs s).jrn = s.jrn := by
  unfold sendFrames
  refine foldl_keeps State.jrn (fun _ _ => ?_) _ _
  rfl

theorem ftbSend_jrn (type cls len : Nat) (offs : List Nat) (mk : Nat → FtbOut) (s : State) :
    (ftbSend type cls len offs mk s).2.jrn = s.jrn := by
  have hd := dealSegs_jrn cls (len / 9088 + 1) 0 len s
  simp only [ftbSend]
  generalize dealSegs cls (len / 9088 + 1) 0 len s = d at hd ⊢
  simp only [apply_ite State.jrn, sendFrames_jrn, emit, monBegin, hd, ite_self]

theorem mirrorRec_jrn (off : Nat) (s : State) : (mirrorRec off s).jrn = s.jrn := by
  simp only [mirrorRec]
  split
  · rfl
  · split
    · rfl
    · exact ftbSend_jrn ..

theorem cnsStores_jrn (port pa n : Nat) (s : State) : (cnsStores port pa n s).jrn = s.jrn := by
  simp only [cnsStores, onMemory]
  split <;> rfl

theorem writeRec_restart (asn unit units : Nat) (last : Bool) (body : JBody) (s : State) :
    (writeRec asn unit units last body s).2.jrn.restart = s.jrn.restart := by
  simp only [writeRec, apply_ite State.jrn, mirrorRec_jrn, cnsStores_jrn, ite_self]

theorem releaseLoose_restart (s : State) : (releaseLoose s).jrn.restart = s.jrn.restart := by
  simp only [releaseLoose, drainRecs]
  split
  · rfl
  · exact writeRec_restart ..

/-! ### What the engines leave of the records that wait for the mirror -/

/-- The first record that waits for the mirror has no room in its 256 MiB (R101). -/
def MirrorFull (s : State) : Prop :=
  ∀ off rest, s.ftb.waiting = off :: rest →
    2 ^ 28 < unreceipted s + (8 + ((ownAt s off).map (fun r => recSize r.r)).getD 0)

theorem mirrorWaiting_full (k : Nat) (s : State) (h : s.ftb.waiting.length ≤ k) : MirrorFull (mirrorWaiting k s) := by
  induction k generalizing s with
  | zero =>
    intro off rest hw
    rw [show s.ftb.waiting = off :: rest from hw] at h
    exact absurd h (by simp)
  | succ k ih =>
    simp only [mirrorWaiting]
    split
    next hw =>
      intro off rest hw'
      exact absurd (hw.symm.trans hw') (by simp)
    next off rest hw =>
      split
      next hfull =>
        intro off' rest' hw'
        obtain ⟨rfl, -⟩ := List.cons.inj (hw.symm.trans hw')
        exact hfull
      next => exact ih _ (by simpa [hw] using h)

theorem trimPages_full {s : State} (h : MirrorFull s) : MirrorFull (trimPages s) := by
  simp only [trimPages]
  split <;> exact h

/-- While a restart runs, a round ends with the mirror: nothing is posted or released after it (R91). -/
theorem settleRound_full (s : State) (hup : (settleRound s).jrn.restart ≠ .none) : MirrorFull (settleRound s) := by
  have hround : ∃ x, MirrorFull x ∧ settleRound s =
      if x.jrn.restart = .none then postReady (freeDrained (releaseLoose x)) else x := by
    unfold settleRound
    exact ⟨_, trimPages_full (mirrorWaiting_full _ _ le_rfl), rfl⟩
  obtain ⟨x, hfull, hx⟩ := hround
  rw [hx] at hup ⊢
  split at hup
  next hnone => exact absurd (by rw [postReady_restart, freeDrained_restart, releaseLoose_restart, hnone]) hup
  next hrest => rwa [if_neg hrest]

/-- The engines leave no record waiting while a restart runs and the mirror has room: a head that stands so is settled of itself
alone. -/
theorem eq_of_settle {s t : State} (h : settle t = s) (hup : s.jrn.restart ≠ .none) (hroom : ¬MirrorFull s) : t = s := by
  subst h
  unfold settle at hup hroom ⊢
  split at hup
  next hrun =>
    rw [if_pos hrun] at hroom
    exact absurd (settleRound_full _ hup) hroom
  next hrun => rw [if_neg hrun]

/-! ### The collided chunk -/

theorem exec_encryptionDone (asn k : Nat) (s : State) :
    exec (.encryptionDone asn k) s = .next (settle (encryptionDone asn k s)) := rfl

theorem atStage_run {asn k : Nat} {st : ChunkStage} {c : Cmd} {w : ChunkWork} {s : State} (h : AtStage s asn k st c w)
    (f : Cmd → ChunkWork → State → State) : atStage asn k st f s = f c w s := by
  obtain ⟨hc, hrun, hw, hst⟩ := h
  simp [atStage, hc, hrun, hw, hst]

/-- ENCRYPTION_DONE of a chunk that has its content serial changes that chunk, and takes no serial from the counter (R192). -/
theorem encryptionDone_collided {asn k slot : Nat} {c : Cmd} {w : ChunkWork} {s : State} (h : AtStage s asn k .encrypt c w)
    (hpay : w.payload ≠ []) (henv : w.envelope = []) (hkey : keyPair s w.domain (domVersion s w.domain) = some slot)
    (hserial : w.serial ≠ 0) : ∃ f, encryptionDone asn k s = modWork asn k f (monAt 19 0 s) := by
  have hgo : ¬(w.payload = [] ∨ w.envelope ≠ []) := by simp [hpay, henv]
  simp only [encryptionDone, atStage_run h, if_neg hgo, hkey, if_pos hserial]
  exact ⟨_, rfl⟩

/-- A chunk that was found to collide, and took content serial 5 with it, and is now encrypted. -/
def collidedWork : ChunkWork :=
  { chunk := 0, unit := 0, mask := 255, data := [1], stage := .encrypt, cls := .new, serial := 5, payload := [1] }

def collidedCmd : Cmd :=
  { qpn := 7, tag := 31, queueId := 5, csn := 1, crc := 0, opcode := 1, capsule := [], stage := .running, chunks := [collidedWork] }

/-- Its head has the domain's key; it restarts, its engines stand still, and a record waits for the mirror. -/
def collidedHead : State :=
  { State.reset with
    gh := { state := .waking }
    sec := { slots := [(0, { key := [1], purpose := 0 }), (1, { key := [2], purpose := 0 })] }
    ftb := { waiting := [0] }
    jrn := { restart := .replay, cmds := [(2, collidedCmd)] } }

theorem collidedHead_atStage : AtStage collidedHead 2 0 .encrypt collidedCmd collidedWork := ⟨rfl, rfl, rfl, rfl⟩

theorem exec_collidedHead : ∃ f, exec (.encryptionDone 2 0) collidedHead = .next (modWork 2 0 f (monAt 19 0 collidedHead)) := by
  obtain ⟨f, hf⟩ := encryptionDone_collided (slot := 0) collidedHead_atStage (by decide) rfl (by decide) (by decide)
  exact ⟨f, by rw [exec_encryptionDone, hf]; rfl⟩

/-- Refutes O22: of a new chunk that was found to collide, ENCRYPTION_DONE keeps the content serial that the collision was
recorded with (R192), where the statement takes the next one. -/
theorem not_ingestStepsOfAChunk : ¬ Obligations.IngestStepsOfAChunk := by
  unfold Obligations.IngestStepsOfAChunk
  rintro ⟨-, -, -, -, -, -, -, -, hencrypt, -⟩
  obtain ⟨t, y, hexec, -, hserial, -⟩ :=
    hencrypt 2 0 collidedCmd collidedWork collidedHead 0 collidedHead_atStage (by decide) rfl rfl (by decide)
  obtain ⟨f, hkept⟩ := exec_collidedHead
  have hsettle := Host.Outcome.next.inj (hexec.symm.trans hkept)
  have hroom : ¬MirrorFull (modWork 2 0 f (monAt 19 0 collidedHead)) := by
    intro h
    have hfull : MirrorFull collidedHead := h
    exact absurd (hfull 0 [] rfl) (by decide)
  have hdown : (modWork 2 0 f (monAt 19 0 collidedHead)).jrn.restart ≠ .none := nofun
  rw [eq_of_settle hsettle hdown hroom] at hserial
  have hsame : collidedHead.map.serial = collidedHead.map.serial + 1 := hserial
  omega

end Sys2Proof.Machine
end

section
/-!
PROOFS. The commands that act on a shelf as a whole, and those that force reclamation, retire a block or inspect (R244 to R247,
R281 to R283).
-/
namespace Sys2Proof.Machine

theorem exec_shelfWake (n : Fin 64) (s : State) :
    exec (.shelfWake n) s = .next (settle (basmos n 0x0410 (layoutIs 4 []) shelfWakeH s)) := rfl

theorem exec_shelfSleep (n : Fin 64) (s : State) :
    exec (.shelfSleep n) s = .next (settle (basmos n 0x0411 (layoutIs 1 []) shelfSleepH s)) := rfl

theorem exec_shelfHarden (n : Fin 64) (s : State) :
    exec (.shelfHarden n) s = .next (settle (basmos n 0x0412 (layoutIs 2 []) shelfHardenH s)) := rfl

theorem exec_homeShelfSet (n : Fin 64) (s : State) :
    exec (.homeShelfSet n) s = .next (settle (basmos n 0x0413 homeShelfLayout homeShelfSetH s)) := rfl

theorem exec_gcForce (n : Fin 64) (s : State) :
    exec (.gcForce n) s = .next (settle (basmos n 0x0510 (layoutIs 4 []) gcForceH s)) := rfl

theorem exec_blockRetire (n : Fin 64) (s : State) :
    exec (.blockRetire n) s = .next (settle (basmos n 0x0511 (layoutIs 8 []) blockRetireH s)) := rfl

theorem exec_scrubNow (n : Fin 64) (s : State) :
    exec (.scrubNow n) s = .next (settle (basmos n 0x0512 (layoutIs 1 []) scrubNowH s)) := rfl

/-- A shelf's number in the first byte of a payload reads back. -/
theorem fieldLE_shelfByte (g : Fin 32) (bs : Bytes) : fieldLE (BitVec.ofNat 8 g :: bs) 0 1 = g :=
  fieldLE_small (by omega) bs

/-! ### SHELF_WAKE (R244) -/

@[simp] theorem shelfOf_started (op subj aux : Nat) (s : State) (g : Nat) : shelfOf (started op subj aux s) g = shelfOf s g := rfl

/-- A shelf held awake as the payload of SHELF_WAKE asks. -/
def heldAwake (p : Bytes) (v : Shelf) : Shelf :=
  { v with holdJob := true, holdS := fieldLE p 2 2, readOnly := decide (fieldLE p 1 1 = 1), lapsed := false }

/-- Shelf g is asked for: as for reads where the payload of SHELF_WAKE has it read-only, else as for ingest. -/
def askForShelf (p : Bytes) (g : Nat) (s : State) : State :=
  grantWake g (wantWake g (if fieldLE p 1 1 = 1 then .read else .ingest) 0 s)

/-- What SHELF_WAKE does once the hold v of shelf g is noted: a closing stops after step 6 of Table 8.7, a shelf that is
OFF or FAILED is asked for, and one that wakes goes on. -/
def wakeHeld (p : Bytes) (g : Nat) (v : Shelf) : State → State :=
  match v.st with
  | .closing => setShelf g { v with closeAfter := false }
  | .failed => fun s => askForShelf p g (setShelf g { v with st := .off, fails := 0, retryWait := false } s)
  | .off => askForShelf p g
  | _ => id

theorem shelfWakeH_holds {p : Bytes} {s : State} {g : Nat} (hp : fieldLE p 0 1 = g) (hg : g < 32) (hmode : fieldLE p 1 1 ≤ 1)
    (hhold : fieldLE p 2 2 ≤ 28800) (hhome : isHome s g = false) (hst : (shelfOf s g).st ≠ .awake)
    (hrec : (tget s.sleds.shelfRec g).isSome = true) (hfits : wakeFits s g = true) (hmay : mayRequest s = true)
    (hjob : JobFree s) : shelfWakeH p s = (.now (jobReply s), wakeHeld p g (heldAwake p (shelfOf s g))
      (force 0x0410 (setShelf g (heldAwake p (shelfOf s g)) (started 0x0410 g 0 s)))) := by
  have hrange : ¬(32 ≤ g ∨ 1 < fieldLE p 1 1 ∨ 28800 < fieldLE p 2 2) := by omega
  have hasleep : ¬(isHome s g = true ∨ (shelfOf s g).st = .awake) := by simp [hhome, hst]
  have hallowed : ¬((tget s.sleds.shelfRec g).isNone = true ∨ (!wakeFits s g) = true ∨ (!mayRequest s) = true) := by
    simp [Option.isNone_eq_false_iff.2 hrec, hfits, hmay]
  simp only [shelfWakeH, hp, if_neg hrange, if_neg hasleep, if_neg hallowed, withJob_free hjob]
  simp only [shelfOf_started, wakeHeld, heldAwake]
  cases (shelfOf s g).st <;> rfl

/-! ### SHELF_SLEEP and SHELF_HARDEN (R245, R246) -/

theorem shelfSleepH_releases {s : State} (g : Fin 32) (hhome : isHome s g = false) (hwait : waitingOn s g = 0)
    (hoff : (shelfOf s g).st ≠ .off) (hfailed : (shelfOf s g).st ≠ .failed) (hjob : JobFree s) :
    shelfSleepH [BitVec.ofNat 8 g] s = (.now (jobReply s), setShelf g { shelfOf s g with
      held := false, readOnly := false, holdS := 0 } (started 0x0411 g 0 s)) := by
  have hrange : ¬32 ≤ (g : Nat) := by omega
  have haway : ¬isHome s g = true := ne_true_of_eq_false hhome
  have hup : ¬((shelfOf s g).st = .off ∨ (shelfOf s g).st = .failed) := not_or.2 ⟨hoff, hfailed⟩
  simp only [shelfSleepH, fieldLE_shelfByte, if_neg hrange, if_neg haway, if_neg (not_not.2 hwait), if_neg hup, withJob_free hjob,
    shelfOf_started]

/-- Bit 0 of the flags asks for the padding of the open row. -/
theorem shelfHardenH_waits {s : State} (g : Fin 32) {f : Nat} (hf : f ≤ 1) (hst : (shelfOf s g).st = .awake) (hjob : JobFree s) :
    shelfHardenH [BitVec.ofNat 8 g, BitVec.ofNat 8 f] s = (.now (jobReply s),
      if f = 1 then closeBand g (started 0x0412 g f s) else started 0x0412 g f s) := by
  have hflags := fieldLE_small (show f < 256 by omega) []
  have hrange : ¬(32 ≤ (g : Nat) ∨ 1 < f) := by omega
  simp only [shelfHardenH, fieldLE_shelfByte, fieldLE_cons_succ, hflags, if_neg hrange, if_neg (not_not.2 hst), withJob_free hjob]

/-! ### HOME_SHELF_SET (R247) -/

theorem homeShelfSetH_enters {b : Byte} {p : Bytes} {s : State} {gs : List Nat} (hgs : gs = p.map (·.toNat))
    (hcount : within 1 8 gs.length = true) (hrange : gs.any (fun g => decide (31 < g)) = false)
    (hdistinct : gs.eraseDups.length = gs.length) (hbudget : ∀ w, s.pair.arr.budget = some w → minBudget s gs ≤ w)
    (hidle : s.plc.homeJob = none) (hjob : JobFree s) : homeShelfSetH (b :: p) s = (.now (jobReply s),
      gs.foldl (fun s g => if (shelfOf s g).st = .off then grantWake g (wantWake g .background 0 s) else s)
        { started 0x0413 0 0 s with plc := { s.plc with homeJob := some (s.kiosk.jobCount, gs) } }) := by
  have hset : ((b :: p).drop 1).map (·.toNat) = gs := hgs.symm
  have hvalid : ¬((!within 1 8 gs.length) = true ∨ gs.any (fun g => decide (31 < g)) = true ∨
      gs.eraseDups.length ≠ gs.length) := by simp [hcount, hrange, hdistinct]
  have henough : (s.pair.arr.budget.map (fun w => decide (w < minBudget s gs))).getD false = false := by
    cases hw : s.pair.arr.budget with
    | none => rfl
    | some w => exact decide_eq_false (Nat.not_lt.2 (hbudget w hw))
  simp only [homeShelfSetH, hset, if_neg hvalid, henough, hidle, Option.isSome_none, Bool.false_eq_true, if_false]
  exact withJob_free hjob ..

/-! ### GC_FORCE (R281) -/

/-- The bands that a GC_FORCE job of shelf g reclaims are noted under its number, and their reclamation begins. -/
def reclaimUnder (k g : Nat) (bands : List Nat) (s : State) : State :=
  bands.foldl (fun s b => startGc g b s)
    { s with plc := { s.plc with bandJobs := s.plc.bandJobs ++ bands.map (fun b => (g, b, k)) } }

section
variable {p : Bytes} {s : State} {g : Nat} (hp : fieldLE p 0 1 = g) (hg : g < 32) (hflags : fieldLE p 1 1 ≤ 3)
  (hst : (shelfOf s g).st = .awake) (hjob : JobFree s)
include hp hg hflags hst hjob

theorem gcForceH_band (hone : fieldLE p 1 1 % 2 = 0) (hel : bandEligible s g (fieldLE p 2 2) = true) :
    gcForceH p s = (.now (jobReply s), reclaimUnder s.kiosk.jobCount g [fieldLE p 2 2] (started 0x0510 g 0 s)) := by
  have hrange : ¬(32 ≤ g ∨ 3 < fieldLE p 1 1) := by omega
  simp only [gcForceH, hp, if_neg hrange, if_neg (not_not.2 hst), hone, hel]
  exact withJob_free hjob ..

theorem gcForceH_eligible (hall : fieldLE p 1 1 % 2 = 1) (hsome : (bandsOn s g).filter (bandEligible s g) ≠ []) :
    gcForceH p s = (.now (jobReply s),
      reclaimUnder s.kiosk.jobCount g ((bandsOn s g).filter (bandEligible s g)) (started 0x0510 g 0 s)) := by
  have hrange : ¬(32 ≤ g ∨ 3 < fieldLE p 1 1) := by omega
  simp only [gcForceH, hp, if_neg hrange, if_neg (not_not.2 hst), hall, one_ne_zero, false_and, if_true, if_false, if_neg hsome,
    withJob_free hjob, reclaimUnder]

end

/-! ### BLOCK_RETIRE (R282) -/

theorem blockRetireH_retires {p : Bytes} {s : State} {g sl die block : Nat} {r : SledIdent}
    (hloc : wordLoc (fieldLE p 0 8) = { kind := .flash g sl die block 0 0 0 })
    (hsled : tget s.sleds.sledRec (g * 32 + sl) = some r) (hdie : die < r.dies) (hblock : block < r.blocks)
    (hhere : programmedHere s (g * 32 + sl) die block = true) (hst : (shelfOf s g).st = .awake)
    (hgood : (blkOf s (blkKey (g * 32 + sl) die block)).retired = false) (hjob : JobFree s) :
    blockRetireH p s = (.now (jobReply s), finishJob s.kiosk.jobCount .success []
      (retireBlock (g * 32 + sl) die block (started 0x0511 0 0 s))) := by
  rw [← withJob_free hjob 0x0511 0 0 (fun k s => finishJob k .success [] (retireBlock (g * 32 + sl) die block s))]
  simp [blockRetireH, hloc, hsled, hdie, hblock, hhere, hst, hgood]

/-! ### SCRUB_NOW (R283) -/

/-- An inspection of shelf g enters the schedule with its grant. -/
def inspectGranted (g : Nat) (s : State) : State :=
  let s := addItem .background g .inspect none s
  { s with plc := { s.plc with items := tmap (fun _ i =>
      if i.shelf = g ∧ i.work = .inspect then { i with granted := true } else i) s.plc.items } }

theorem scrubNowH_inspects {s : State} (g : Fin 32) (hst : (shelfOf s g).st = .awake) (hjob : JobFree s) :
    scrubNowH [BitVec.ofNat 8 g] s = (.now (jobReply s), if (shelfOf s g).inspecting.isSome then started 0x0512 g 0 s
      else startInspect g (inspectGranted g (started 0x0512 g 0 s))) := by
  have hrange : ¬32 ≤ (g : Nat) := by omega
  simp only [scrubNowH, fieldLE_shelfByte, if_neg hrange, if_neg (not_not.2 hst), withJob_free hjob]
  rfl

/-- Settles O12: each command's handler by its branch. -/
theorem shelfAndMediaJobs : Obligations.ShelfAndMediaJobs := by
  unfold Obligations.ShelfAndMediaJobs
  refine ⟨fun n s p msg g v r h hlen hp hg hmode hhold hhome hst hrec hfits hmay hjob hv hr => ?wake,
    fun n s g msg h hhome hwait hoff hfailed hjob => ?sleep,
    fun n s g msg hst hjob => ⟨fun h => ?harden, fun h => ?hardenPadded⟩,
    fun n s b p gs msg h hl hgs hcount hrange hdistinct hbudget hidle hjob => ?home,
    fun n s p msg g band h hlen hp hg hflags hband hst hjob => ⟨fun hone hel => ?band, fun bands hall hbands hsome => ?bands⟩,
    fun n s p msg g sl die block r h hlen hloc hsled hdie hblock hhere hst hgood hjob => ?retire,
    fun n s g msg h hst hjob => ⟨fun hruns => ?joined, fun hnone => ⟨_, _, rfl, rfl, ?inspection⟩⟩⟩
  case wake =>
    subst hv hr
    rw [exec_shelfWake, basmos_now h (layoutIs_nil hlen)
      (shelfWakeH_holds hp hg hmode hhold hhome hst hrec hfits hmay hjob)]
    rfl
  case sleep => rw [exec_shelfSleep, basmos_now h rfl (shelfSleepH_releases g hhome hwait hoff hfailed hjob)]
  case harden => rw [exec_shelfHarden, basmos_now h rfl (shelfHardenH_waits g zero_le_one hst hjob), if_neg Nat.zero_ne_one]
  case hardenPadded => rw [exec_shelfHarden, basmos_now h rfl (shelfHardenH_waits g le_rfl hst hjob), if_pos rfl]
  case home =>
    rw [exec_homeShelfSet, basmos_now h hl (homeShelfSetH_enters hgs hcount hrange hdistinct hbudget hidle hjob)]
  case band =>
    subst hband
    rw [exec_gcForce, basmos_now h (layoutIs_nil hlen) (gcForceH_band hp hg hflags hst hjob hone hel)]
    rfl
  case bands =>
    subst hbands
    rw [exec_gcForce, basmos_now h (layoutIs_nil hlen) (gcForceH_eligible hp hg hflags hst hjob hall hsome)]
    rfl
  case retire =>
    rw [exec_blockRetire, basmos_now h (layoutIs_nil hlen)
      (blockRetireH_retires hloc hsled hdie hblock hhere hst hgood hjob)]
  case joined => rw [exec_scrubNow, basmos_now h rfl (scrubNowH_inspects g hst hjob), if_pos hruns]
  case inspection =>
    have hidle : ¬(shelfOf s g).inspecting.isSome = true := by simp [hnone]
    rw [exec_scrubNow, basmos_now h rfl (scrubNowH_inspects g hst hjob), if_neg hidle]
    rfl

end Sys2Proof.Machine
end

section
/-!
PROOFS. The link of a sled port: flits and credits, link states, sessions, the test, and the timers of the link (R285, R288 to
R296, R312).
-/
namespace Sys2Proof.Machine

theorem exec_sequencedFlit (p : Fin 1024) (f : Flit) (s : State) :
    exec (.sequencedFlit p f) s = .next (settle (rxFlit p f s)) := rfl
theorem exec_idle (p : Fin 1024) (ack : Nat) (s : State) : exec (.idle p ack) s = .next (settle (rxIdle p ack s)) := rfl
theorem exec_nak (p : Fin 1024) (seq : Nat) (s : State) : exec (.nak p seq) s = .next (settle (rxNak p seq s)) := rfl
theorem exec_credit (p : Fin 1024) (cmd mgmt data : Nat) (s : State) :
    exec (.credit p cmd mgmt data) s = .next (settle (rxCreditFlit p cmd mgmt data s)) := rfl
theorem exec_sleepAck (p : Fin 1024) (s : State) : exec (.sleepAck p) s = .next (settle (rxSleepAck p s)) := rfl
theorem exec_sleepNak (p : Fin 1024) (s : State) : exec (.sleepNak p) s = .next (settle (rxSleepNak p s)) := rfl
theorem exec_flitReplayTimeout (p : Fin 1024) (s : State) :
    exec (.flitReplayTimeout p) s = .next (settle (replayTimeout p s)) := rfl
theorem exec_flitNakHoldoffEnd (p : Fin 1024) (s : State) :
    exec (.flitNakHoldoffEnd p) s = .next (nakHoldoffEnd p s) := rfl
theorem exec_ts1 (p : Fin 1024) (preset asked : Nat) (s : State) :
    exec (.ts1 p preset asked) s = .next (settle (rxTs1 p preset asked s)) := rfl
theorem exec_ts2 (p : Fin 1024) (ts : Ts2) (s : State) :
    exec (.ts2 p ts) s = .next (settle (rxTs2 p s.plc.alone ts s)) := rfl
theorem exec_farEndDetected (p : Fin 1024) (s : State) : exec (.farEndDetected p) s = .next (farEnd p s) := rfl
theorem exec_linkDetectRetry (p : Fin 1024) (s : State) : exec (.linkDetectRetry p) s = .next (detectRetry p s) := rfl
theorem exec_linkStateTimeout (p : Fin 1024) (s : State) :
    exec (.linkStateTimeout p) s = .next (settle (stateTimeout p s)) := rfl
theorem exec_framingError (p : Fin 1024) (s : State) : exec (.framingError p) s = .next (settle (framing p s)) := rfl
theorem exec_slpRetrain (p : Fin 1024) (s : State) : exec (.slpRetrain p) s = .next (portRetrain p s) := rfl
theorem exec_slpTest (p : Fin 1024) (s : State) : exec (.slpTest p) s = .next (startPrbs p s) := rfl
theorem exec_sleepIdleTimer (p : Fin 1024) (s : State) : exec (.sleepIdleTimer p) s = .next (sleepIdleTimer p s) := rfl
theorem exec_testComplete (p : Fin 1024) (errors : Nat) (s : State) :
    exec (.testComplete p errors) s = .next (testDone p errors s) := rfl
theorem exec_slpCtlEn (p : Fin 1024) (en : Bool) (s : State) :
    exec (.slpCtlEn p en) s = .next (settle (portEnable p en s)) := rfl
theorem exec_linkActiveTimeout (p : Fin 1024) (s : State) :
    exec (.linkActiveTimeout p) s = .next (settle (linkActiveTimeout p s)) := rfl

/-! ### What an ACTIVE link does (R290 to R292, R295, R296) -/

/-- The port once the flit expected next is accepted. -/
def flitTaken (v : SPort) : SPort := { v with expSeq := (v.expSeq + 1) % 4096, nakHeld := false }

/-- Sending again from the oldest unacknowledged flit f; a cause other than 0 is recorded. -/
theorem resend_oldest {p : Nat} {s : State} {f : Nat × TxFlit} {rest : List (Nat × TxFlit)}
    (hreplay : (portOf s p).replay = f :: rest) (hfew : (portOf s p).resends < 4) (cls : Nat) :
    resend p cls s =
      if cls = 0 then replayFrom p f.1 (setPort p { portOf s p with resends := (portOf s p).resends + 1 } s)
      else linkError p 1 (leN 1 cls)
        (replayFrom p f.1 (setPort p { portOf s p with resends := (portOf s p).resends + 1 } s)) := by
  simp only [resend, hreplay, if_neg (Nat.not_le.2 hfew)]

/-- An ack that covers the one unacknowledged flit, which is no TEST_REQ, empties the replay buffer. -/
theorem takeAck_only {p ack : Nat} {s : State} {g : TxFlit} (hreplay : (portOf s p).replay = [(ack, g)])
    (htest : (portOf s p).testSeq = none) :
    takeAck p ack s = pumpAll p (setPort p { portOf s p with lastAck := ack, replay := [], resends := 0 } s) := by
  simp [takeAck, hreplay, htest]

section
variable {p : Nat} {s : State} (hactive : (portOf s p).state = 4)
include hactive

theorem rxFlit_badCheck {f : Flit} (hbad : f.checkOk = false) : rxFlit p f s = linkError p 1 (leN 1 1)
    (sendNak p (setPort p { portOf s p with crc := satAdd 16 (portOf s p).crc 1 } s)) := by
  simp [rxFlit, hactive, hbad]

section
variable {f : Flit} (hok : f.checkOk = true) (hseq : f.seq = (portOf s p).expSeq) (hlt : (portOf s p).expSeq < 4096)
include hok hseq hlt

theorem rxFlit_expected : rxFlit p f s = (rxCredit (flitTaken (portOf s p)) f).elim
    (dropLink p (leN 1 2) (setPort p { portOf s p with protocol := satAdd 16 (portOf s p).protocol 1 } s))
    (fun v => pumpAll p (returnCredit p f.vc (link p (.idle f.seq)
      (takeAck p f.ack (setPort p { v with dataCr := v.dataCr + f.dcr } s))))) := by
  have hnext : ahead 12 (portOf s p).expSeq f.seq = 0 := by rw [hseq, ahead_self hlt]
  simp only [rxFlit, if_neg (not_not.2 hactive), hok, Bool.not_true, Bool.false_eq_true, if_false, hnext, if_true,
    flitTaken]
  split
  next h => rw [h, Option.elim_none]
  next h => rw [h, Option.elim_some]

theorem rxFlit_inOrder {v : SPort} (hcredit : rxCredit (flitTaken (portOf s p)) f = some v) :
    rxFlit p f s = pumpAll p (returnCredit p f.vc (link p (.idle f.seq)
      (takeAck p f.ack (setPort p { v with dataCr := v.dataCr + f.dcr } s)))) := by
  rw [rxFlit_expected hactive hok hseq hlt, hcredit, Option.elim_some]

theorem rxFlit_beyondCredits (hcredit : rxCredit (flitTaken (portOf s p)) f = none) :
    rxFlit p f s = dropLink p (leN 1 2)
      (setPort p { portOf s p with protocol := satAdd 16 (portOf s p).protocol 1 } s) := by
  rw [rxFlit_expected hactive hok hseq hlt, hcredit, Option.elim_none]

end

theorem rxIdle_active (ack : Nat) : rxIdle p ack s = takeAck p ack s := if_pos hactive

theorem rxNak_named {seq : Nat} {t : State} (ht : t = takeAck p ((seq + 4095) % 4096) s) {f : Nat × TxFlit}
    {rest : List (Nat × TxFlit)} (hstays : (portOf t p).state = 4) (hreplay : (portOf t p).replay = f :: rest)
    (hnamed : f.1 = seq) : rxNak p seq s = resend p 0 t := by
  simp [rxNak, hactive, ← ht, hstays, hreplay, hnamed]

theorem rxNak_unnamed {seq : Nat} {t : State} (ht : t = takeAck p ((seq + 4095) % 4096) s)
    (hother : ∀ f, (portOf t p).replay.head? = some f → f.1 ≠ seq) : rxNak p seq s = t := by
  have hnone : ((portOf t p).replay.head?.any fun f => decide (f.1 = seq)) = false := by
    rw [Option.any_eq_false]
    exact fun f hf => decide_eq_false (hother f hf)
  simp [rxNak, hactive, ← ht, hnone]

theorem rxCreditFlit_active (cmd mgmt data : Nat) :
    rxCreditFlit p cmd mgmt data s = kickAll p (pumpAll p (setPort p { portOf s p with
      cmdCr := (portOf s p).cmdCr + cmd
      mgmtCr := (portOf s p).mgmtCr + mgmt
      dataCr := (portOf s p).dataCr + data } s)) := if_neg (not_not.2 hactive)

theorem rxSleepAck_asked (hasked : (portOf s p).sleepReq = true) :
    rxSleepAck p s = kickAll p (link p .eios (setPort p { portOf s p with state := 6, sleepReq := false } s)) :=
  if_pos ⟨hactive, hasked⟩

theorem rxSleepNak_asked (hasked : (portOf s p).sleepReq = true) :
    rxSleepNak p s = kickAll p (setPort p { portOf s p with sleepReq := false } s) := if_pos ⟨hactive, hasked⟩

theorem replayTimeout_active : replayTimeout p s = resend p 7 s := if_neg (not_not.2 hactive)

theorem framing_active : framing p s = linkError p 1 (leN 1 10)
    (enterRecovery p (setPort p { portOf s p with framing := satAdd 16 (portOf s p).framing 1 } s)) := if_pos hactive

theorem portRetrain_active : portRetrain p s = link p (.ts1 1 (portOf s p).txPreset) (setPort p { portOf s p with
    state := 5, recoveries := satAdd 16 (portOf s p).recoveries 1, retrain := true } s) := if_pos hactive

theorem startPrbs_idle (htest : (portOf s p).testSeq = none) :
    startPrbs p s = sendFlits p [linkFlit (leN 1 7 ++ zeros 3 ++ leN 4 (portOf s p).testMbit.toNat)]
      (setPort p { portOf s p with test := true } s) := if_pos ⟨hactive, htest⟩

end

theorem sleepIdleTimer_idle {p : Nat} {s : State} {v : SPort} (hv : portOf s p = v) (hactive : v.state = 4)
    (hon : v.sleepIdle ≠ 0) (hout : v.outst = []) (hreplay : v.replay = []) (htx : v.tx = []) (hwait : v.waitq = [])
    (hreq : v.sleepReq = false) (htest : v.testSeq = none) :
    sleepIdleTimer p s = sendFlits p [linkFlit (leN 1 4)] (setPort p { v with sleepReq := true } s) := by
  subst hv
  exact if_pos ⟨hactive, hon, hout, hreplay, htx, hwait, by rw [hreq]; rfl, htest⟩

/-! ### Link states (R285, R293 to R295) -/

section
variable {p : Nat} {s : State}

theorem rxTs1_polling (h : (portOf s p).state = 2) (preset asked : Nat) :
    rxTs1 p preset asked s = link p (.ts2 256 0) (setPort p { portOf s p with
      state := 3
      farPreset := preset % 8
      txPreset := if asked < 8 then asked else (portOf s p).txPreset } s) := if_pos h

theorem rxTs1_recovery (h : (portOf s p).state = 5) (preset asked : Nat) : rxTs1 p preset asked s = backActive p s := by
  simp [rxTs1, h]

theorem rxTs1_sleep (h : (portOf s p).state = 6) (preset asked : Nat) :
    rxTs1 p preset asked s = backActive p (link p (.ts1 1 (portOf s p).txPreset) (link p .eieos s)) := by
  simp [rxTs1, h]

theorem farEnd_detect (h : (portOf s p).state = 1) : farEnd p s =
    link p (.ts1 0 (portOf s p).txPreset) (link p .eieos (setPort p { portOf s p with state := 2 } s)) := if_pos h

theorem detectRetry_detect (h : (portOf s p).state = 1) : detectRetry p s = link p .beacon s := if_pos h

theorem stateTimeout_training (h : (portOf s p).state = 2 ∨ (portOf s p).state = 3) :
    stateTimeout p s = enterDetect p s := if_pos h

theorem stateTimeout_recovery (h : (portOf s p).state = 5) : stateTimeout p s = dropLink p (leN 1 9) s := by
  simp [stateTimeout, h]

theorem testDone_test (h : (portOf s p).state = 7) (errors : Nat) :
    testDone p errors s = enterRecovery p (link p .eieos (link p .eios
      (setPort p { portOf s p with prbsErr := satW 32 errors, test := false } s))) := if_pos h

theorem linkActiveTimeout_training (hpower : (portOf s p).powered = true) (hen : (portOf s p).en = true)
    (h : (portOf s p).state = 1 ∨ (portOf s p).state = 2 ∨ (portOf s p).state = 3 ∨ (portOf s p).state = 5) :
    linkActiveTimeout p s = loseSled (p / 32) (p % 32) (linkError p 2 (leN 1 14) s) := if_pos ⟨hpower, hen, h⟩

end

/-! ### Sessions begin and end (R292 to R294, R306, R312) -/

/-- The port as a TS2 that agrees with the sled's record begins its session. -/
def sessionBegun (p : Nat) (ts : Ts2) (v : SPort) : SPort :=
  { v with
    state := 4
    bridgePort := ts.bridgePort % 2
    cmdCr := satW 8 ts.cmdCredits
    dataCr := satW 12 ts.dataCredits
    mgmtCr := satW 8 ts.mgmtCredits
    maxTags := ts.maxTags
    nextSeq := 0
    lastAck := 4095
    expSeq := 0
    replay := []
    tx := []
    sinceSync := 0
    lfsr := Config.scramblerStart p % 2 ^ 23
    rxMsg := false
    resends := 0
    nakHeld := false
    rxCmd := 32
    rxData := 256
    rxMgmt := 8
    outst := []
    dead := []
    usable := false
    infoOk := false
    refused := false }

section
variable {p : Nat} {s : State} {ts : Ts2} (hconfig : (portOf s p).state = 3)
include hconfig

theorem rxTs2_badCheck (hbad : ts.checkOk = false) (alone : Bool) : rxTs2 p alone ts s = dropLink p (leN 1 8) s := by
  simp [rxTs2, hconfig, hbad]

theorem rxTs2_agrees (hok : ts.checkOk = true) (hversion : ts.version = 1)
    (htags : (tget s.sleds.sledUse p).map (·.maxTags) = some ts.maxTags) (alone : Bool) :
    rxTs2 p alone ts s = sendSled p .info { op := 5, tag := 0 }
      (if alone = true then sendSled p (.lock 1) { op := 6, tag := 0, arg := 1 }
        (setPort p (sessionBegun p ts (portOf s p)) s)
      else setPort p (sessionBegun p ts (portOf s p)) s) := by
  simp only [rxTs2, hconfig, hok, hversion, htags, ne_eq, not_true, or_self, decide_false, Bool.not_true,
    Bool.false_eq_true, if_false]
  rfl

end

theorem portOf_setEnded (l : List (Nat × SledPend × Nat)) (p : Nat) (s : State) :
    portOf { s with sleds := { s.sleds with ended := l } } p = portOf s p := rfl

theorem endSession_en (p : Nat) (s : State) : (portOf (endSession p s) p).en = (portOf s p).en := by
  simp only [endSession]
  split
  · rfl
  · rw [portOf_setEnded, portOf_setPort_self]

/-- A disabled port keeps its settings and is at reset in all else. -/
theorem portOf_disablePort (p : Nat) (s : State) : portOf (disablePort p s) p = {
    en := (portOf (endSession p s) p).en
    sleepIdle := (portOf (endSession p s) p).sleepIdle
    testMbit := (portOf (endSession p s) p).testMbit
    powered := (portOf (endSession p s) p).powered
    txPreset := (portOf (endSession p s) p).txPreset
    farPreset := (portOf (endSession p s) p).farPreset } := portOf_setPort_self ..

theorem portEnable_trains {p : Nat} {s : State} (hpower : (portOf s p).powered = true) (hoff : (portOf s p).state = 0) :
    portEnable p true s = enterDetect p (setPort p { portOf s p with en := true } s) := if_pos ⟨hpower, hoff⟩

theorem portEnable_only {p : Nat} {s : State} (h : (portOf s p).powered = false ∨ (portOf s p).state ≠ 0) :
    portEnable p true s = setPort p { portOf s p with en := true } s :=
  if_neg fun ⟨hpower, hoff⟩ => h.elim (ne_false_of_eq_true hpower) (· hoff)

theorem portEnable_off (p : Nat) (s : State) :
    portEnable p false s = disablePort p (setPort p { portOf s p with en := false } s) := rfl

/-- Settles O35: each command by what its port's link state has it do. -/
theorem sledLinks : Obligations.SledLinks := by
  unfold Obligations.SledLinks
  refine ⟨?flit, ?flitRefused, ?idle, ?nak, ?credit, ?sleep, ?replay, exec_flitNakHoldoffEnd, ?ts1Polling, ?ts1Back, ?ts2,
    ?ts2Bad, ?detect, ?timeoutTraining, ?timeoutRecovery, ?active, ?test, ?enTrains, ?enOnly, ?disabled, ?lost⟩
  case flit =>
    rintro p f s _ v' rfl hactive hok hseq hlt hcredit
    rw [exec_sequencedFlit, rxFlit_inOrder hactive hok hseq hlt hcredit]
  case flitRefused =>
    rintro p f s _ rfl hactive
    exact ⟨fun hbad => by rw [exec_sequencedFlit, rxFlit_badCheck hactive hbad],
      fun hok hseq hlt hcredit => by rw [exec_sequencedFlit, rxFlit_beyondCredits hactive hok hseq hlt hcredit]⟩
  case idle =>
    rintro p ack s _ g rfl hactive hreplay htest
    rw [exec_idle, rxIdle_active hactive, takeAck_only hreplay htest]
  case nak =>
    intro p seq s t hactive ht
    refine ⟨fun f rest hstays hreplay hnamed hfew => ?_, fun hother => ?_⟩
    · rw [exec_nak, rxNak_named hactive ht hstays hreplay hnamed, resend_oldest hreplay hfew, if_pos rfl, hnamed]
    · rw [exec_nak, rxNak_unnamed hactive ht hother]
  case credit =>
    rintro p cmd mgmt data s _ rfl hactive
    rw [exec_credit, rxCreditFlit_active hactive]
  case sleep =>
    rintro p s _ rfl hactive hasked
    exact ⟨by rw [exec_sleepAck, rxSleepAck_asked hactive hasked], by rw [exec_sleepNak, rxSleepNak_asked hactive hasked]⟩
  case replay =>
    rintro p s _ f rest rfl hactive hreplay hfew
    rw [exec_flitReplayTimeout, replayTimeout_active hactive, resend_oldest hreplay hfew, if_neg (by decide)]
  case ts1Polling =>
    rintro p preset asked s _ rfl hpolling
    rw [exec_ts1, rxTs1_polling hpolling]
  case ts1Back =>
    rintro p preset asked s _ rfl
    exact ⟨fun h => by rw [exec_ts1, rxTs1_recovery h], fun h => by rw [exec_ts1, rxTs1_sleep h]⟩
  case ts2 =>
    intro p ts s hconfig hok hversion htags
    refine ⟨setPort p (sessionBegun p ts (portOf s p)) s, by rw [exec_ts2, rxTs2_agrees hconfig hok hversion htags], ?_⟩
    simp [sessionBegun]
  case ts2Bad =>
    intro p ts s hconfig hbad
    rw [exec_ts2, rxTs2_badCheck hconfig hbad]
  case detect =>
    rintro p s _ rfl h
    exact ⟨by rw [exec_farEndDetected, farEnd_detect h], by rw [exec_linkDetectRetry, detectRetry_detect h]⟩
  case timeoutTraining =>
    intro p s h
    rw [exec_linkStateTimeout, stateTimeout_training h]
  case timeoutRecovery =>
    intro p s h
    rw [exec_linkStateTimeout, stateTimeout_recovery h]
  case active =>
    rintro p s _ rfl hactive
    refine ⟨by rw [exec_framingError, framing_active hactive], 
      ⟨setPort p _ s, by rw [exec_slpRetrain, portRetrain_active hactive], portOf_setPort_self ..⟩,
      fun htest => by rw [exec_slpTest, startPrbs_idle hactive htest],
      fun hon hout hreplay htx hwait hreq htest => ?_⟩
    rw [exec_sleepIdleTimer, sleepIdleTimer_idle rfl hactive hon hout hreplay htx hwait hreq htest]
  case test =>
    rintro p errors s _ rfl h
    rw [exec_testComplete, testDone_test h]
  case enTrains =>
    rintro p s _ rfl hpower hoff
    rw [exec_slpCtlEn, portEnable_trains hpower hoff]
  case enOnly =>
    rintro p s _ rfl h
    rw [exec_slpCtlEn, portEnable_only h]
  case disabled =>
    intro p s
    refine ⟨_, by rw [exec_slpCtlEn, portEnable_off], ?_⟩
    simp [portOf_disablePort, endSession_en]
  case lost =>
    rintro p s _ rfl hpower hen h
    rw [exec_linkActiveTimeout, linkActiveTimeout_training hpower hen h]

end Sys2Proof.Machine
end

section
/-!
PROOFS. The commands of the sleds and their ends, the notices of the bridges, and the identity records (R297 to R303, R306, R308
to R311).
-/
namespace Sys2Proof.Machine

theorem exec_sledReadResponse (r : SledResp) (s : State) :
    exec (.sledReadResponse r) s = .next (settle (readResponse r s)) := rfl
theorem exec_sledProgramResponse (r : SledResp) (s : State) :
    exec (.sledProgramResponse r) s = .next (settle (programResponse r s)) := rfl
theorem exec_sledEraseResponse (r : SledResp) (s : State) :
    exec (.sledEraseResponse r) s = .next (settle (eraseResponse r s)) := rfl
theorem exec_dieStatusResponse (r : SledResp) (s : State) :
    exec (.dieStatusResponse r) s = .next (settle (dieStatusResponse r s)) := rfl
theorem exec_portLockResponse (r : SledResp) (s : State) :
    exec (.portLockResponse r) s = .next (settle (portLockResponse r s)) := rfl
theorem exec_bridgeInfoResponse (r : SledResp) (x : RecordRead) (s : State) :
    exec (.bridgeInfoResponse r x) s = .next (settle (bridgeInfoResponse r x s)) := rfl
theorem exec_notice (p : Fin 1024) (kind die temp : Nat) (s : State) :
    exec (.notice p kind die temp) s = .next (settle (noticeIn p kind die temp s)) := rfl
theorem exec_sledCmdTimeout (p : Fin 1024) (tag : Nat) (fourth : Bool) (s : State) :
    exec (.sledCmdTimeout p tag fourth) s = .next (settle (cmdTimeout p tag fourth s)) := rfl
theorem exec_identityRecordRead (g : Fin 32) (slot : Fin 33) (x : RecordRead) (s : State) :
    exec (.identityRecordRead g slot x) s = .next (settle (takeRecord g slot x s)) := rfl
theorem exec_i2cStretchTimeout (g : Fin 32) (slot : Fin 33) (attempt : Nat) (s : State) :
    exec (.i2cStretchTimeout g slot attempt) s = .next (i2cTimeout g slot attempt s) := rfl

/-! ### Responses (R297 to R303, R306, R311) -/

/-- The state in which the outstanding command w of a tag has ended with its response, and what waited has gone on. -/
def responseTaken (p tag : Nat) (w : SledPend) (s : State) : State :=
  kickAll p (sledEnds p w.cmd (setPort p { portOf s p with outst := terase (portOf s p).outst tag } s))

/-- A response of its command's opcode takes the outstanding command. -/
theorem takeResponse_matched {p tag : Nat} {s : State} {w : SledPend} (hw : tget (portOf s p).outst tag = some w) :
    takeResponse p tag w.cmd.op s = (some w, responseTaken p tag w s) := by
  simp [takeResponse, responseTaken, hw]

/-- Where no command waits, a management command ends with nothing more done. -/
theorem responseTaken_idle {p tag : Nat} {s : State} {w : SledPend} (hmgmt : 4 ≤ w.cmd.op)
    (hwait : (portOf s p).waitq = []) :
    responseTaken p tag w s = setPort p { portOf s p with outst := terase (portOf s p).outst tag } s := by
  have hunmetered : ¬(1 ≤ w.cmd.op ∧ w.cmd.op ≤ 3) := by omega
  simp [responseTaken, sledEnds, hunmetered, kickAll, hwait, kick]

section
variable {r : SledResp} {s : State} {w : SledPend} (hw : tget (portOf s r.port).outst r.tag = some w)
include hw

theorem readResponse_matched (hop : w.cmd.op = 1) :
    readResponse r s = sledAnswer w r.port r.outcome r.corrected r.data (responseTaken r.port r.tag w s) := by
  simp only [readResponse, ← hop, takeResponse_matched hw]

theorem programResponse_matched (hop : w.cmd.op = 2) :
    programResponse r s = sledAnswer w r.port r.outcome r.corrected r.data (responseTaken r.port r.tag w s) := by
  simp only [programResponse, ← hop, takeResponse_matched hw]

theorem eraseResponse_matched (hop : w.cmd.op = 3) :
    eraseResponse r s = sledAnswer w r.port r.outcome r.corrected r.data (responseTaken r.port r.tag w s) := by
  simp only [eraseResponse, ← hop, takeResponse_matched hw]

theorem dieStatusResponse_failed (hop : w.cmd.op = 4) (hfailed : r.outcome = 5) :
    dieStatusResponse r s = retireDie r.port w.cmd.die (responseTaken r.port r.tag w s) := by
  simp only [dieStatusResponse, ← hop, takeResponse_matched hw, if_pos (Or.inl hfailed)]

theorem portLockResponse_ok (hop : w.cmd.op = 6) (hok : r.outcome = 0) :
    portLockResponse r s = makeUsable r.port (responseTaken r.port r.tag w s).plc.alone
      (setPort r.port { portOf (responseTaken r.port r.tag w s) r.port with lock := fieldLE r.detail 0 1 % 4 }
        (responseTaken r.port r.tag w s)) := by
  simp only [portLockResponse, ← hop, takeResponse_matched hw, if_pos hok, setPort_plc]

/-- A BRIDGE_INFO whose serial is that of the record, on a port where no command waits. -/
theorem bridgeInfoResponse_agrees (hop : w.cmd.op = 5) (hok : r.outcome = 0) (hwait : (portOf s r.port).waitq = [])
    (hrefused : (portOf s r.port).refused = false)
    (hserial : (sledFigs s r.port).map (·.serial) = some (bslice r.detail 0 16)) (x : RecordRead) :
    bridgeInfoResponse r x s = makeUsable r.port s.plc.alone (setPort r.port { portOf s r.port with
      outst := terase (portOf s r.port).outst r.tag
      infoOk := true } s) := by
  have hfigs (v : SPort) : (sledFigs (setPort r.port v s) r.port).map (·.serial) = some (bslice r.detail 0 16) := hserial
  simp only [bridgeInfoResponse, ← hop, takeResponse_matched hw]
  rw [responseTaken_idle (by omega) hwait]
  simp [hok, hfigs, hrefused]

end

/-! ### Notices (Table 10.12) -/

theorem noticeIn_up {p : Nat} {s : State} (h : (portOf s p).state = 4 ∨ (portOf s p).state = 6) (kind die temp : Nat) :
    noticeIn p kind die temp s =
      if kind = 1 then retireDie p die s
      else if kind = 2 then loseSled (p / 32) (p % 32) s
      else if kind = 3 then record 5 5 1 (.sledLane p) (leN 1 temp) s
      else if kind = 4 then setPort p { portOf s p with lock := if (portOf s p).lock = 0 then 2 else 0 } s
      else s := if_neg fun ⟨hactive, hsleep⟩ => h.elim hactive hsleep

/-! ### Timeouts of commands (Table 10.14) -/

/-- The state in which a command without response has ended ABANDONED and its tag stays unused. -/
def cmdAbandoned (p tag : Nat) (w : SledPend) (s : State) : State :=
  { s with sleds := { s.sleds with
    ports := tset s.sleds.ports p { portOf s p with
      outst := terase (portOf s p).outst tag
      dead := tag :: (portOf s p).dead
      timeouts := satAdd 16 (portOf s p).timeouts 1 }
    ended := s.sleds.ended ++ [(p, w, 7)] } }

theorem cmdTimeout_outstanding {p tag : Nat} {s : State} {w : SledPend} (hw : tget (portOf s p).outst tag = some w)
    (fourth : Bool) : cmdTimeout p tag fourth s =
      if fourth = true then dropLink p (leN 1 12) (cmdAbandoned p tag w s)
      else linkError p 1 (leN 1 13) (cmdAbandoned p tag w s) := by
  simp only [cmdTimeout, hw]
  rfl

/-! ### Identity records (R308 to R310) -/

/-- The refused records but the one of this slot. -/
def refusedElsewhere (g slot : Nat) (s : State) : List (Nat × Nat × Nat) :=
  s.sleds.refused.filter (fun e => !(decide (e.1 = g) && decide (e.2.1 = slot)))

section
variable {g slot why : Nat} {x : RecordRead} (s : State)

theorem takeRecord_sled {v : SledIdent} (hsled : slot ≠ 32) (hx : parseSled x = .inl v) : takeRecord g slot x s =
    { s with sleds := { s.sleds with
      sledRec := tset s.sleds.sledRec (g * 32 + slot) v
      refused := refusedElsewhere g slot s } } := by
  simp only [takeRecord, if_neg hsled, hx, refusedElsewhere]

theorem takeRecord_shelf {v : ShelfIdent} (hshelf : slot = 32) (hx : parseShelf x = .inl v) : takeRecord g slot x s =
    { s with sleds := { s.sleds with
      shelfRec := tset s.sleds.shelfRec g v
      refused := refusedElsewhere g slot s } } := by
  simp only [takeRecord, if_pos hshelf, hx, refusedElsewhere]

theorem takeRecord_sledRefused (hsled : slot ≠ 32) (hx : parseSled x = .inr why) : takeRecord g slot x s =
    record 5 4 2 (.shelf g) (leN 1 g ++ leN 1 slot ++ leN 1 why ++ refusedFormat why x) { s with sleds := { s.sleds with
      sledRec := terase s.sleds.sledRec (g * 32 + slot)
      refused := refusedElsewhere g slot s ++ [(g, slot, why)] } } := by
  simp only [takeRecord, if_neg hsled, hx, refusedElsewhere]

theorem takeRecord_shelfRefused (hshelf : slot = 32) (hx : parseShelf x = .inr why) : takeRecord g slot x s =
    record 5 4 2 (.shelf g) (leN 1 g ++ leN 1 slot ++ leN 1 why ++ refusedFormat why x) { s with sleds := { s.sleds with
      shelfRec := terase s.sleds.shelfRec g
      refused := refusedElsewhere g slot s ++ [(g, slot, why)] } } := by
  simp only [takeRecord, if_pos hshelf, hx, refusedElsewhere]

end

theorem i2cTimeout_recovers {g slot attempt : Nat} (hfew : attempt < 3) (s : State) :
    i2cTimeout g slot attempt s = emit (.i2cRecover g slot) s := if_neg (Nat.not_le.2 hfew)

theorem i2cTimeout_givesUp {g slot attempt : Nat} (hlast : 3 ≤ attempt) (s : State) :
    i2cTimeout g slot attempt s = takeRecord g slot none (emit (.i2cRecover g slot) s) := if_pos hlast

/-- Settles O36: each response, notice, timeout and reading by the lemma of its case. -/
theorem sledCommandsAndIdentity : Obligations.SledCommandsAndIdentity := by
  unfold Obligations.SledCommandsAndIdentity
  refine ⟨?responses, ?bridgeInfo, ?notices, ?timeouts, fun g slot x s => ⟨?sled, ?shelf, ?sledRefused, ?shelfRefused⟩,
    fun g slot attempt s hfew => ?again, fun g slot attempt s hlast => ?given⟩
  case responses =>
    rintro r s _ w rfl hw
    refine ⟨responseTaken r.port r.tag w s, rfl, fun hop => ?_, fun hop => ?_, fun hop => ?_, fun hop hfailed => ?_,
      fun hop hok => ?_⟩
    · rw [exec_sledReadResponse, readResponse_matched hw hop]
    · rw [exec_sledProgramResponse, programResponse_matched hw hop]
    · rw [exec_sledEraseResponse, eraseResponse_matched hw hop]
    · rw [exec_dieStatusResponse, dieStatusResponse_failed hw hop hfailed]
    · rw [exec_portLockResponse, portLockResponse_ok hw hop hok]
  case bridgeInfo =>
    rintro r x s _ w rfl hw hop hok hwait hrefused hserial
    exact ⟨setPort r.port _ s, by rw [exec_bridgeInfoResponse,
      bridgeInfoResponse_agrees hw hop hok hwait hrefused hserial, setPort_plc], portOf_setPort_self ..⟩
  case notices =>
    rintro p die temp s _ rfl h
    simp only [exec_notice, noticeIn_up h]
    exact ⟨rfl, rfl, rfl, rfl⟩
  case timeouts =>
    rintro p tag s _ w rfl hw
    simp only [exec_sledCmdTimeout, cmdTimeout_outstanding hw]
    exact ⟨cmdAbandoned p tag w s, rfl, rfl, portOf_setPort_self .., rfl⟩
  case sled =>
    intro v hsled hx
    exact ⟨_, by rw [exec_identityRecordRead, takeRecord_sled s hsled hx], tget_tset_self .., rfl⟩
  case shelf =>
    intro v hshelf hx
    exact ⟨_, by rw [exec_identityRecordRead, takeRecord_shelf s hshelf hx], tget_tset_self .., rfl⟩
  case sledRefused =>
    intro why hsled hx
    exact ⟨_, by rw [exec_identityRecordRead, takeRecord_sledRefused s hsled hx], by simp, rfl⟩
  case shelfRefused =>
    intro why hshelf hx
    exact ⟨_, by rw [exec_identityRecordRead, takeRecord_shelfRefused s hshelf hx], by simp, rfl⟩
  case again => rw [exec_i2cStretchTimeout, i2cTimeout_recovers hfew]
  case given => rw [exec_i2cStretchTimeout, i2cTimeout_givesUp hlast]

end Sys2Proof.Machine
end

section
/-!
PROOFS. Replication: the messages and probes at the target, and their completions and the link's replies at the source (R324,
R328 to R330).
-/
namespace Sys2Proof.Machine

theorem exec_replicationMessage (n : Fin 16384) (tag : Fin 32) (m : ReplMsg) (s : State) :
    exec (.replicationMessage n tag m) s = .next (settle (replMessage n tag m s)) := rfl

theorem exec_replicationProbe (n : Fin 16384) (tag : Fin 32) (rn batch : Nat) (s : State) :
    exec (.replicationProbe n tag rn batch) s = .next (settle (replProbe n tag rn batch s)) := rfl

theorem exec_replicationCompletion (rn no : Nat) (st : Status) (durable applied : Nat) (probe : Bool) (s : State) :
    exec (.replicationCompletion rn no st durable applied probe) s =
      .next (settle (replCompletion rn no st durable applied probe s)) := rfl

theorem exec_replicationLinkReply (rn : Nat) (st : Status) (n : Fin 16384) (s : State) :
    exec (.replicationLinkReply rn st n) s = .next (settle (linkReply rn st n s)) := rfl

/-! ### Messages at the target (R328, R329) -/

theorem replMessage_noRelationship {m : ReplMsg} {s : State} (hnone : tget s.pair.arr.rels m.relationship = none)
    (n tag : Nat) : replMessage n tag m s = replReply n tag m.msgNo .notFound 0 0 s := by
  simp only [replMessage, hnone]

section
variable {n : Nat} {m : ReplMsg} {r : ReplRec} {s : State} (hrel : tget s.pair.arr.rels m.relationship = some r)
  (htarget : r.source = false) (hopen : (qpOf s n).st = .open_) (hpd : (qpOf s n).pd = r.pd)
include hrel htarget hopen hpd

theorem replMessage_notOwned (hlost : servesRel s r = false) (tag : Nat) :
    replMessage n tag m s = replAnswer m.relationship n tag m.msgNo .notOwner s := by
  simp [replMessage, hrel, htarget, hopen, hpd, hlost]

theorem replMessage_badCheck (hserves : servesRel s r = true) (hbad : m.checkOk = false) (tag : Nat) :
    replMessage n tag m s = replAnswer m.relationship n tag m.msgNo .integrity s := by
  simp [replMessage, hrel, htarget, hopen, hpd, hserves, hbad]

theorem replMessage_ofAppliedBatch (hserves : servesRel s r = true) (hok : m.checkOk = true)
    (happlied : m.batch = (relOf s m.relationship).applied) (hend : (relOf s m.relationship).endWait = none) (tag : Nat) :
    replMessage n tag m s = replAnswer m.relationship n tag m.msgNo .success s := by
  simp [replMessage, hrel, htarget, hopen, hpd, hserves, hok, happlied, hend]

/-- The message above the last durable one begins at once, if none is being stored and no END waits. -/
theorem replMessage_inTurn {v : RelRun} (hserves : servesRel s r = true) (hok : m.checkOk = true)
    (hv : relOf s m.relationship = v) (hbatch : m.batch = v.batch) (hnew : m.batch ≠ v.applied)
    (hnext : m.msgNo = v.durable + 1) (hstoring : v.storing = none) (hend : v.endWait = none) (tag : Nat) :
    replMessage n tag m s = beginMsg m.relationship n tag m
      (setRel m.relationship { v with bytes := v.bytes + sumBy recBytes m.records } s) := by
  have hsame : ¬(m.batch ≠ v.batch ∧ m.batch ≠ v.applied) := fun h => h.1 hbatch
  have hfresh : ¬(m.batch = v.applied ∨ m.msgNo ≤ v.durable) := by omega
  simp only [replMessage, hrel, htarget, hopen, hpd, hserves, hok, hv, if_neg hsame, if_neg hfresh, relOf_setRel_self]
  simp [hnext, hstoring, hend]

end

/-! ### Probes at the target (R330) -/

theorem replProbe_noRelationship {rn : Nat} {s : State} (hnone : tget s.pair.arr.rels rn = none) (n tag batch : Nat) :
    replProbe n tag rn batch s = replReply n tag 0 .notFound 0 0 s := by
  simp only [replProbe, hnone]

theorem replProbe_served {n rn : Nat} {r : ReplRec} {s : State} (hrel : tget s.pair.arr.rels rn = some r)
    (htarget : r.source = false) (hopen : (qpOf s n).st = .open_) (hserves : servesRel s r = true) (tag batch : Nat) :
    replProbe n tag rn batch s = replReply n tag 0 .success
      (if batch = (relOf s rn).batch then (relOf s rn).durable else 0) (relOf s rn).applied s := by
  simp [replProbe, hrel, htarget, hopen, hserves]

/-! ### Completions at the source (R324, R329, R330) -/

section
variable {rn : Nat} {r : ReplRec} {v : RelRun} {s : State} (hrel : tget s.pair.arr.rels rn = some r) (hsource : r.source = true)
  (hv : relOf s rn = v)
include hrel hsource hv

section
variable (hbatch : v.batch ≠ 0)
include hbatch

theorem replCompletion_notOwner (no durable applied : Nat) (probe : Bool) :
    replCompletion rn no .notOwner durable applied probe s =
      openLink rn (setRel rn { v with tryB := !v.tryB, reopens := satAdd 32 v.reopens 1 } s) := by
  simp [replCompletion, hrel, hsource, hv, hbatch]

theorem replCompletion_probeUnapplied {applied : Nat} (hmissing : applied ≠ v.batch % 2 ^ 32) (no durable : Nat) :
    replCompletion rn no .success durable applied true s =
      sendMsgs rn (setRel rn { v with durable := durable, sent := durable, state := 1 } s) := by
  simp only [replCompletion, hrel, hsource, hv, hbatch, if_neg hmissing]
  simp

theorem replCompletion_streamUnbuilt (hmore : v.todo ≠ []) (no durable applied : Nat) :
    replCompletion rn no .success durable applied false s =
      sendMsgs rn (setRel rn { v with durable := max v.durable durable } s) := by
  simp [replCompletion, hrel, hsource, hv, hbatch, hmore]

theorem replCompletion_ofEnd {no : Nat} (hbuilt : v.todo = []) (hsent : v.recs = []) (hlast : no + 1 = v.nextMsg)
    (durable applied : Nat) : replCompletion rn no .success durable applied false s =
      batchApplied_ rn r (setRel rn { v with durable := max v.durable durable } s) := by
  simp [replCompletion, hrel, hsource, hv, hbatch, hbuilt, hsent, hlast]

end

/-! ### Replies of the link at the source (R330) -/

section
variable (hlinking : v.state = 2)
include hlinking

theorem linkReply_idle (hidle : v.batch = 0) (n : Nat) : linkReply rn .success n s =
    sendMsgs rn (setRel rn { v with linked := some n, state := 0 } s) := by
  simp [linkReply, hrel, hsource, hv, hlinking, hidle]

theorem linkReply_firstLink (hbatch : v.batch ≠ 0) (hfirst : v.reopens = 0) (n : Nat) : linkReply rn .success n s =
    sendMsgs rn (setRel rn { v with linked := some n, state := 1 } s) := by
  simp [linkReply, hrel, hsource, hv, hlinking, hbatch, hfirst]

theorem linkReply_reopened (hbatch : v.batch ≠ 0) (hagain : v.reopens ≠ 0) (n : Nat) : linkReply rn .success n s =
    emit (.replProbe rn v.batch (probeImage rn v.batch v.cutEpoch s.pair.arr.arrayId))
      (setRel rn { v with linked := some n, state := 1 } s) := by
  simp [linkReply, hrel, hsource, hv, hlinking, hbatch, Nat.pos_of_ne_zero hagain]

theorem linkReply_refused {st : Status} (hst : st ≠ .success) (n : Nat) : linkReply rn st n s =
    openLink rn (setRel rn { v with
      tryB := if st = .notOwner then !v.tryB else v.tryB
      reopens := satAdd 32 v.reopens 1 } s) := by
  simp [linkReply, hrel, hsource, hv, hlinking, hst]

end

end

/-- Settles O32: each message, probe, completion and reply by its branch; only a probe and its answer carry bytes left free. -/
theorem replicationMessages : Obligations.ReplicationMessages := by
  unfold Obligations.ReplicationMessages
  refine ⟨?inTurn, fun n tag m r s hrel htarget hopen hpd => ⟨?notOwned, ?badCheck, ?applied⟩, fun n tag m s hnone => ?unknown,
    fun n tag rn batch r s hrel htarget hopen hserves => ?probe, fun n tag rn batch s hnone => ?probeUnknown,
    fun rn no durable applied r v s hrel hsource hv hbatch hmore => ?more,
    fun rn no durable applied r v s hrel hsource hv hbatch => ⟨?ended, ?otherHead, ?probed⟩,
    fun rn n r v s hrel hsource hv hlinking hidle => ?idle,
    fun rn n r v s hrel hsource hv hlinking hbatch => ⟨?firstLink, ?reopened⟩,
    fun rn n st r v s hrel hsource hv hlinking hst => ?refused⟩
  case inTurn =>
    intro n tag m r v s hrel htarget hopen hpd hserves hok hv hbatch hnew hnext hstoring hend
    rw [exec_replicationMessage,
      replMessage_inTurn hrel htarget hopen hpd hserves hok hv hbatch hnew hnext hstoring hend]
  case notOwned =>
    intro hlost
    rw [exec_replicationMessage, replMessage_notOwned hrel htarget hopen hpd hlost]
  case badCheck =>
    intro hserves hbad
    rw [exec_replicationMessage, replMessage_badCheck hrel htarget hopen hpd hserves hbad]
  case applied =>
    intro hserves hok happlied hend
    rw [exec_replicationMessage, replMessage_ofAppliedBatch hrel htarget hopen hpd hserves hok happlied hend]
  case unknown => rw [exec_replicationMessage, replMessage_noRelationship hnone]
  case probe => exact ⟨_, by rw [exec_replicationProbe, replProbe_served hrel htarget hopen hserves, replReply]⟩
  case probeUnknown => rw [exec_replicationProbe, replProbe_noRelationship hnone]
  case more => rw [exec_replicationCompletion, replCompletion_streamUnbuilt hrel hsource hv hbatch hmore]
  case ended =>
    intro hbuilt hsent hlast
    rw [exec_replicationCompletion, replCompletion_ofEnd hrel hsource hv hbatch hbuilt hsent hlast]
  case otherHead =>
    intro probe
    rw [exec_replicationCompletion, replCompletion_notOwner hrel hsource hv hbatch]
  case probed =>
    intro hmissing
    rw [exec_replicationCompletion, replCompletion_probeUnapplied hrel hsource hv hbatch hmissing]
  case idle => rw [exec_replicationLinkReply, linkReply_idle hrel hsource hv hlinking hidle]
  case firstLink =>
    intro hfirst
    rw [exec_replicationLinkReply, linkReply_firstLink hrel hsource hv hlinking hbatch hfirst]
  case reopened =>
    intro hagain
    exact ⟨_, by rw [exec_replicationLinkReply, linkReply_reopened hrel hsource hv hlinking hbatch hagain]⟩
  case refused => rw [exec_replicationLinkReply, linkReply_refused hrel hsource hv hlinking hst]

end Sys2Proof.Machine
end

section
/-!
PROOFS. What every step carries from state to state (R343, R367, R390, R403, R416): the queue's rest, the invariant of the
head, and the rollback fuses that are blown.
-/
namespace Sys2Proof.Machine
open Sys2Proof

/-! ### The commands and a step -/

/-- Each command's operation carries the three, and so does what follows it. -/
theorem exec_keeps {q : List Instr} {k : Nat} {s : State} (c : Instr) (h : Kept q k s) :
    ∃ t, exec c s = .next t ∧ Kept q k t := by
  cases c with
  | mbxRequestWrite => exact ⟨_, rfl, mbxRequestWrite_kept _ _ _ h⟩
  | mbxRing => exact ⟨_, rfl, mbxRing_kept _ h⟩
  | mbxCancel => exact ⟨_, rfl, mbxCancel_kept _ h⟩
  | mbxDoneAck => exact ⟨_, rfl, mbxDoneAck_kept _ h⟩
  | mbxTake => exact ⟨_, rfl, mbxTake_kept _ h⟩
  | kioskHwTimeout => exact ⟨_, rfl, kioskHwTimeout_kept _ h⟩
  | basmosPart => exact ⟨_, rfl, basmosPart_kept _ h⟩
  | basmosPartTimeout => exact ⟨_, rfl, basmosPartTimeout_kept _ h⟩
  | jobResultExpiry => exact ⟨_, rfl, jobResultExpiry_kept _ h⟩
  | nonceExpiry => exact ⟨_, rfl, nonceExpiry_kept _ h⟩
  | sessionExpiry => exact ⟨_, rfl, settle_kept (sessionEnd_kept h)⟩
  | sessionLockoutEnd => exact ⟨_, rfl, sessionLockoutEnd_kept h⟩
  | mb63Write => exact ⟨_, rfl, smbCommand_kept _ _ (fun _ ht => mb63Write_kept _ _ ht) h⟩
  | mb63DoorbellRing => exact ⟨_, rfl, smbCommand_kept _ _ (fun _ ht => mb63Ring_kept ht) h⟩
  | mb63DoorbellCancel => exact ⟨_, rfl, smbCommand_kept _ _ (fun _ ht => cancelRequest_kept _ ht) h⟩
  | mb63DoorbellAck => exact ⟨_, rfl, smbCommand_kept _ _ (fun _ ht => ackResponse_kept _ ht) h⟩
  | mb63StatusRead => exact ⟨_, rfl, smbCommand_kept _ _ (fun _ ht => mb63StatusRead_kept ht) h⟩
  | mb63ReadOffset => exact ⟨_, rfl, smbCommand_kept _ _ (fun _ ht => mb63ReadOffset_kept _ ht) h⟩
  | mb63Read => exact ⟨_, rfl, smbCommand_kept _ _ (fun _ ht => mb63Read_kept _ ht) h⟩
  | smbusAlertResponse => exact ⟨_, rfl, smbusAlertResponse_kept h⟩
  | sysInfo => exact ⟨_, rfl, settle_kept (basmos_kept _ _ _ h fun _ _ ht => sysInfoH_kept _ ht)⟩
  | sysHealth => exact ⟨_, rfl, settle_kept (basmos_kept _ _ _ h fun _ _ ht => sysHealthH_kept _ ht)⟩
  | jobStatus => exact ⟨_, rfl, settle_kept (basmos_kept _ _ _ h fun _ _ ht => jobStatusH_kept _ ht)⟩
  | fwStage => exact ⟨_, rfl, settle_kept (basmos_kept _ _ _ h fun _ _ ht => fwStageH_kept _ _ ht)⟩
  | fwActivate => exact ⟨_, rfl, settle_kept (basmos_kept _ _ _ h fun _ _ ht => fwActivateH_kept _ ht)⟩
  | headReset => exact ⟨_, rfl, settle_kept (basmos_kept _ _ _ h fun _ _ ht => headResetH_kept _ ht)⟩
  | sessionChallenge => exact ⟨_, rfl, settle_kept (basmos_kept _ _ _ h fun _ _ ht => challengeH_kept _ ht)⟩
  | sessionOpen => exact ⟨_, rfl, settle_kept (sessionOpen_kept _ h)⟩
  | sessionClose => exact ⟨_, rfl, settle_kept (basmos_kept _ _ _ h fun _ _ ht => closeH_kept _ _ ht)⟩
  | claimList => exact ⟨_, rfl, settle_kept (basmos_kept _ _ _ h fun _ _ ht => claimListH_kept _ ht)⟩
  | claimRevoke => exact ⟨_, rfl, settle_kept (basmos_kept _ _ _ h fun _ _ ht => claimRevokeH_kept _ ht)⟩
  | volCreate => exact ⟨_, rfl, basmos_kept _ _ _ h fun _ _ ht => volCreateH_kept _ ht⟩
  | volDelete => exact ⟨_, rfl, basmos_kept _ _ _ h fun _ _ ht => volDeleteH_kept _ ht⟩
  | volResize => exact ⟨_, rfl, basmos_kept _ _ _ h fun _ _ ht => volResizeH_kept _ ht⟩
  | volList => exact ⟨_, rfl, basmos_kept _ _ _ h fun _ _ ht => volListH_kept _ ht⟩
  | domCreate => exact ⟨_, rfl, basmos_kept _ _ _ h fun _ _ ht => domCreateH_kept _ ht⟩
  | domPolicy => exact ⟨_, rfl, basmos_kept _ _ _ h fun _ _ ht => domPolicyH_kept _ ht⟩
  | domByteVerify => exact ⟨_, rfl, basmos_kept _ _ _ h fun _ _ ht => domByteVerifyH_kept _ ht⟩
  | pwrBudgetSet => exact ⟨_, rfl, settle_kept (basmos_kept _ _ _ h fun _ _ ht => pwrBudgetSetH_kept _ ht)⟩
  | pwrStatePolicy => exact ⟨_, rfl, settle_kept (basmos_kept _ _ _ h fun _ _ ht => powerPolicyH_kept _ ht)⟩
  | pwrStatus => exact ⟨_, rfl, settle_kept (basmos_kept _ _ _ h fun _ _ ht => powerStatusH_kept _ ht)⟩
  | pwrStateForce => exact ⟨_, rfl, settle_kept (basmos_kept _ _ _ h fun _ _ ht => powerForceH_kept _ ht)⟩
  | avsSet => exact ⟨_, rfl, settle_kept (basmos_kept _ _ _ h fun _ _ ht => avsSetH_kept _ _ ht)⟩
  | wakeSourceSet => exact ⟨_, rfl, settle_kept (basmos_kept _ _ _ h fun _ _ ht => wakeSourceH_kept _ ht)⟩
  | plcPolicy => exact ⟨_, rfl, basmos_kept _ _ _ h fun _ _ ht => plcPolicyH_kept _ ht⟩
  | shelfStatus => exact ⟨_, rfl, basmos_kept _ _ _ h fun _ _ ht => shelfStatusH_kept _ ht⟩
  | shelfWake => exact ⟨_, rfl, settle_kept (basmos_kept _ _ _ h fun _ _ ht => shelfWakeH_kept _ ht)⟩
  | shelfSleep => exact ⟨_, rfl, settle_kept (basmos_kept _ _ _ h fun _ _ ht => shelfSleepH_kept _ ht)⟩
  | shelfHarden => exact ⟨_, rfl, settle_kept (basmos_kept _ _ _ h fun _ _ ht => shelfHardenH_kept _ ht)⟩
  | homeShelfSet => exact ⟨_, rfl, settle_kept (basmos_kept _ _ _ h fun _ _ ht => homeShelfSetH_kept _ ht)⟩
  | mediaStatus => exact ⟨_, rfl, basmos_kept _ _ _ h fun _ _ ht => mediaStatusH_kept _ ht⟩
  | mediaPolicy => exact ⟨_, rfl, basmos_kept _ _ _ h fun _ _ ht => mediaPolicyH_kept _ ht⟩
  | gcForce => exact ⟨_, rfl, settle_kept (basmos_kept _ _ _ h fun _ _ ht => gcForceH_kept _ ht)⟩
  | blockRetire => exact ⟨_, rfl, settle_kept (basmos_kept _ _ _ h fun _ _ ht => blockRetireH_kept _ ht)⟩
  | scrubNow => exact ⟨_, rfl, settle_kept (basmos_kept _ _ _ h fun _ _ ht => scrubNowH_kept _ ht)⟩
  | dramStatus => exact ⟨_, rfl, basmos_kept _ _ _ h fun _ _ ht => dramStatusH_kept _ ht⟩
  | dramTrain => exact ⟨_, rfl, basmos_kept _ _ _ h fun _ _ ht => dramTrainH_kept _ ht⟩
  | rankRetire => exact ⟨_, rfl, basmos_kept _ _ _ h fun _ _ ht => rankRetireH_kept _ ht⟩
  | dramQosSet => exact ⟨_, rfl, basmos_kept _ _ _ h fun _ _ ht => dramQosSetH_kept _ ht⟩
  | cacheStatus => exact ⟨_, rfl, basmos_kept _ _ _ h fun _ _ ht => cacheStatusH_kept _ ht⟩
  | wayLock => exact ⟨_, rfl, basmos_kept _ _ _ h fun _ _ ht => wayLockH_kept _ _ ht⟩
  | wayPower => exact ⟨_, rfl, basmos_kept _ _ _ h fun _ _ ht => wayPowerH_kept _ _ ht⟩
  | cacheMaint => exact ⟨_, rfl, basmos_kept _ _ _ h fun _ _ ht => cacheMaintH_kept _ _ ht⟩
  | keyWrappedLoad => exact ⟨_, rfl, basmos_kept _ _ _ h fun _ _ ht => keyLoadH_kept _ _ ht⟩
  | keyZeroise =>
    exact ⟨_, rfl, settle_kept (basmos_kept _ _ _ h fun _ _ ht => keyZeroiseH_kept _ _ (fun _ => sessionEnd_kept) ht)⟩
  | attest => exact ⟨_, rfl, basmos_kept _ _ _ h fun _ _ ht => attestH_kept _ ht⟩
  | operatorKeyRegister =>
    exact ⟨_, rfl, settle_kept (basmos_kept _ _ _ h fun _ _ ht => opKeyH_kept _ (fun _ => sessionEnd_kept) ht)⟩
  | keySlotInfo => exact ⟨_, rfl, basmos_kept _ _ _ h fun _ _ ht => keySlotInfoH_kept _ ht⟩
  | evtRead => exact ⟨_, rfl, basmos_kept _ _ _ h fun _ _ ht => evtReadH_kept _ ht⟩
  | evtSummary => exact ⟨_, rfl, basmos_kept _ _ _ h fun _ _ ht => evtSummaryH_kept _ ht⟩
  | monArm => exact ⟨_, rfl, basmos_kept _ _ _ h fun _ _ ht => monArmH_kept _ ht⟩
  | monRead => exact ⟨_, rfl, basmos_kept _ _ _ h fun _ _ ht => monReadH_kept _ ht⟩
  | selftestRun => exact ⟨_, rfl, settle_kept (basmos_kept _ _ _ h fun _ _ ht => selftestH_kept _ ht)⟩
  | portConfig => exact ⟨_, rfl, settle_kept (basmos_kept _ _ _ h fun _ _ ht => portConfigH_kept _ _ ht)⟩
  | qpStatus => exact ⟨_, rfl, basmos_kept _ _ _ h fun _ _ ht => qpStatusH_kept _ ht⟩
  | pdConfig => exact ⟨_, rfl, basmos_kept _ _ _ h fun _ _ ht => pdConfigH_kept _ ht⟩
  | qpReset => exact ⟨_, rfl, settle_kept (basmos_kept _ _ _ h fun _ _ ht => qpResetH_kept _ ht)⟩
  | creditSet => exact ⟨_, rfl, basmos_kept _ _ _ h fun _ _ ht => creditSetH_kept _ ht⟩
  | pairStatus => exact ⟨_, rfl, settle_kept (basmos_kept _ _ _ h fun _ _ ht => pairStatusH_kept _ ht)⟩
  | pairJoin => exact ⟨_, rfl, settle_kept (basmos_kept _ _ _ h fun _ _ ht => pairJoinH_kept _ ht)⟩
  | failback => exact ⟨_, rfl, settle_kept (basmos_kept _ _ _ h fun _ _ ht => failbackH_kept _ ht)⟩
  | takeoverForce =>
    exact ⟨_, rfl, settle_kept (basmos_kept _ _ _ h fun _ _ ht => takeoverForceH_kept _ (fun _ => forceAlone_kept) ht)⟩
  | migrationWindow => exact ⟨_, rfl, settle_kept (basmos_kept _ _ _ h fun _ _ ht => migrationWindowH_kept _ ht)⟩
  | snapCreate => exact ⟨_, rfl, settle_kept (basmos_kept _ _ _ h fun _ _ ht => snapCreateH_kept _ ht)⟩
  | snapDelete => exact ⟨_, rfl, settle_kept (basmos_kept _ _ _ h fun _ _ ht => snapDeleteH_kept _ ht)⟩
  | snapList => exact ⟨_, rfl, basmos_kept _ _ _ h fun _ _ ht => snapListH_kept _ ht⟩
  | replConfig => exact ⟨_, rfl, settle_kept (basmos_kept _ _ _ h fun _ _ ht => replConfigH_kept _ ht)⟩
  | replStatus => exact ⟨_, rfl, basmos_kept _ _ _ h fun _ _ ht => replStatusH_kept _ ht⟩
  | replResync => exact ⟨_, rfl, settle_kept (basmos_kept _ _ _ h fun _ _ ht => replResyncH_kept _ ht)⟩
  | regRead => exact ⟨_, rfl, settle_kept (basmos_kept _ _ _ h fun _ _ ht => regReadH_kept _ ht)⟩
  | regWrite => exact ⟨_, rfl, settle_kept (basmos_kept _ _ _ h fun _ _ ht => regWriteH_kept _ ht)⟩
  | regModify => exact ⟨_, rfl, settle_kept (basmos_kept _ _ _ h fun _ _ ht => regModifyH_kept _ ht)⟩
  | registerWrite => exact ⟨_, rfl, settle_kept (registerWrite_kept _ _ _ h)⟩
  | claimEnableWrite => exact ⟨_, rfl, settle_kept (claimEnable_kept _ _ _ h)⟩
  | functionLevelReset => exact ⟨_, rfl, settle_kept (functionReset_kept h)⟩
  | queueOpen => exact ⟨_, rfl, queueOpen_kept _ _ _ _ _ _ h⟩
  | rtu => exact ⟨_, rfl, openQueue_kept _ h⟩
  | dreq => exact ⟨_, rfl, settle_kept (dreqIn_kept _ h)⟩
  | connectingTimeout => exact ⟨_, rfl, connectingTimeout_kept _ h⟩
  | queueKeepaliveExpiry => exact ⟨_, rfl, settle_kept (keepaliveExpiry_kept _ h)⟩
  | replayTableExpiry => exact ⟨_, rfl, tableExpiry_kept _ h⟩
  | inboundPacket => exact ⟨_, rfl, settle_kept (inboundPacket_kept _ _ h)⟩
  | taggedSegment => exact ⟨_, rfl, settle_kept (taggedSegment_kept _ h)⟩
  | plainSend => exact ⟨_, rfl, settle_kept (plainSend_kept _ h)⟩
  | plainCopyDone => exact ⟨_, rfl, plainCopyDone_kept _ _ h⟩
  | stagingPageFree => exact ⟨_, rfl, settle_kept (stagingPageFree_kept _ _ _ h)⟩
  | stagingFaultTimeout => exact ⟨_, rfl, settle_kept (stagingFaultTimeout_kept _ h)⟩
  | contextFetchDone => exact ⟨_, rfl, settle_kept (contextFetchDone_kept _ _ h)⟩
  | ackCoalesceTimer => exact ⟨_, rfl, ackTimer_kept _ h⟩
  | selectiveNakTimer => exact ⟨_, rfl, selNakTimer_kept _ _ h⟩
  | outboundAckTimeout => exact ⟨_, rfl, settle_kept (outAckTimeout_kept _ h)⟩
  | rnrNakReceived => exact ⟨_, rfl, rnrReceived_kept _ _ h⟩
  | rnrResendTimer => exact ⟨_, rfl, rnrResend_kept _ h⟩
  | rnrHoldExpiry => exact ⟨_, rfl, settle_kept (rnrHoldExpiry_kept _ h)⟩
  | remoteAccessErrorNak => exact ⟨_, rfl, settle_kept (remoteAccess_kept _ _ h)⟩
  | invalidRequestNak => exact ⟨_, rfl, settle_kept (invalidNak_kept _ h)⟩
  | cnpReceived => exact ⟨_, rfl, cnpReceived_kept _ _ h⟩
  | rateRecoveryTick => exact ⟨_, rfl, rateTick_kept _ h⟩
  | pauseFrame => exact ⟨_, rfl, settle_kept (pauseFrame_kept _ _ _ h)⟩
  | hostPortLinkChange => exact ⟨_, rfl, settle_kept (portLink_kept _ _ h)⟩
  | creditStarvationTimer => exact ⟨_, rfl, starvation_kept _ h⟩
  | oldRxKeyExpiry => exact ⟨_, rfl, oldRxExpiry_kept _ h⟩
  | queueKeyHoldExpiry => exact ⟨_, rfl, queueKeyExpiry_kept _ h⟩
  | messageTimerExpiry => exact ⟨_, rfl, settle_kept (messageTimer_kept _ _ h)⟩
  | write => exact ⟨_, rfl, settle_kept (runMessage_kept _ _ _ h)⟩
  | read => exact ⟨_, rfl, settle_kept (runMessage_kept _ _ _ h)⟩
  | flush => exact ⟨_, rfl, settle_kept (runMessage_kept _ _ _ h)⟩
  | release => exact ⟨_, rfl, settle_kept (runMessage_kept _ _ _ h)⟩
  | abort => exact ⟨_, rfl, settle_kept (runMessage_kept _ _ _ h)⟩
  | identify => exact ⟨_, rfl, settle_kept (runMessage_kept _ _ _ h)⟩
  | keepalive => exact ⟨_, rfl, settle_kept (runMessage_kept _ _ _ h)⟩
  | overlapRelease => exact ⟨_, rfl, settle_kept (overlapRelease_kept _ h)⟩
  | orderedBarrierRelease => exact ⟨_, rfl, settle_kept (barrierRelease_kept _ h)⟩
  | fingerprintDone => exact ⟨_, rfl, settle_kept (fingerprintDone_kept _ _ h)⟩
  | indexGroupReadDone => exact ⟨_, rfl, settle_kept (indexGroupDone_kept _ _ _ h)⟩
  | lookupShed => exact ⟨_, rfl, settle_kept (lookupShed_kept _ _ h)⟩
  | verifyReadDone => exact ⟨_, rfl, settle_kept (verifyReadDone_kept _ _ _ h)⟩
  | verifyShed => exact ⟨_, rfl, settle_kept (verifyShed_kept _ _ h)⟩
  | mergeReadDone => exact ⟨_, rfl, settle_kept (mergeReadDone_kept _ _ _ h)⟩
  | compressionDone => exact ⟨_, rfl, settle_kept (compressionDone_kept _ _ h)⟩
  | encryptionDone => exact ⟨_, rfl, settle_kept (encryptionDone_kept _ _ h)⟩
  | journalWriteAck => exact ⟨_, rfl, settle_kept (journalAck_kept _ h)⟩
  | commitUnitCommit => exact ⟨_, rfl, settle_kept (commitUnit_kept _ _ h)⟩
  | journalRelease => exact ⟨_, rfl, settle_kept (journalRelease_kept _ _ h)⟩
  | epochTimerFire => exact ⟨_, rfl, settle_kept (epochTimer_kept h)⟩
  | holdOkFall => exact ⟨_, rfl, settle_kept (holdOkFall_kept h)⟩
  | holdOkRise => exact ⟨_, rfl, settle_kept (holdOkRise_kept h)⟩
  | flashConfirmedExit => exact ⟨_, rfl, settle_kept (flashExit_kept h)⟩
  | pwrFailFall => exact ⟨_, rfl, settle_kept (pwrFailFall_kept h)⟩
  | compactionCopyDone => exact ⟨_, rfl, settle_kept (compactionDone_kept h)⟩
  | pwrFailRise => exact ⟨_, rfl, settle_kept (pwrFailRise_kept h)⟩
  | restartPeerWaitExpiry => exact ⟨_, rfl, settle_kept (peerWaitExpiry_kept h)⟩
  | restartReplayDone => exact ⟨_, rfl, settle_kept (replayDone_kept h)⟩
  | keepOkFall => exact ⟨_, rfl, settle_kept (keepOkFall_kept h)⟩
  | hello => exact ⟨_, rfl, settle_kept (helloIn_kept _ h)⟩
  | heartbeat => exact ⟨_, rfl, settle_kept (heartbeatIn_kept _ _ h)⟩
  | mirror => exact ⟨_, rfl, settle_kept (takeMirror_kept _ _ h)⟩
  | receipt => exact ⟨_, rfl, settle_kept (receiptIn_kept _ _ h)⟩
  | snak => exact ⟨_, rfl, settle_kept (ftbSnak_kept _ _ _ _ _ h)⟩
  | handover => exact ⟨_, rfl, settle_kept (handoverIn_kept _ h)⟩
  | resync => exact ⟨_, rfl, settle_kept (resyncIn_kept _ _ h)⟩
  | footbridgeGapTimer => exact ⟨_, rfl, settle_kept (ftbGap_kept _ h)⟩
  | footbridgeResendTimer => exact ⟨_, rfl, settle_kept (ftbResend_kept _ h)⟩
  | footbridgePortDown => exact ⟨_, rfl, settle_kept (portDown_kept _ h)⟩
  | pcsAlignmentChange => exact ⟨_, rfl, settle_kept (pcsChange_kept _ _ h)⟩
  | heartbeatSendTimer => exact ⟨_, rfl, settle_kept (sendHeartbeats_kept h)⟩
  | hbKick => exact ⟨_, rfl, settle_kept (hbKick_kept h)⟩
  | hbPinToggle => exact ⟨_, rfl, settle_kept (hbToggle_kept h)⟩
  | peerHbInEdge => exact ⟨_, rfl, settle_kept (pinEdge_kept h)⟩
  | pinPathSilent => exact ⟨_, rfl, settle_kept (peerHbWake_kept (pinSilent_kept h))⟩
  | messagePathSilent => exact ⟨_, rfl, settle_kept (msgSilent_kept h)⟩
  | partialSilenceTimeout => exact ⟨_, rfl, settle_kept (partialSilence_kept h)⟩
  | roleBFenceDelay => exact ⟨_, rfl, settle_kept (roleBDelay_kept h)⟩
  | fenceInFall => exact ⟨_, rfl, settle_kept (fenceInFall_kept h)⟩
  | fenceInRise => exact ⟨_, rfl, settle_kept (fenceRise_kept h)⟩
  | takeoverSledWaitEnd => exact ⟨_, rfl, settle_kept (sledWaitEnd_kept h)⟩
  | takeoverMapLoaded => exact ⟨_, rfl, settle_kept (mapLoaded_kept h)⟩
  | handoverDrainDone => exact ⟨_, rfl, settle_kept (handoverDrained_kept h)⟩
  | resyncComplete => exact ⟨_, rfl, settle_kept (resyncComplete_kept h)⟩
  | failbackFenceRelease => exact ⟨_, rfl, settle_kept (fenceRelease_kept h)⟩
  | pairingPortTimeout => exact ⟨_, rfl, settle_kept (joinTimeout_kept h)⟩
  | migrationWindowExpiry => exact ⟨_, rfl, settle_kept (windowExpiry_kept h)⟩
  | arrayRecordReadDone => exact ⟨_, rfl, settle_kept (recordRead_kept _ h)⟩
  | replicationMessage => exact ⟨_, rfl, settle_kept (replMessage_kept _ _ _ h)⟩
  | replicationProbe => exact ⟨_, rfl, settle_kept (replProbe_kept _ _ _ _ h)⟩
  | replicationCompletion => exact ⟨_, rfl, settle_kept (replCompletion_kept _ _ _ _ _ _ h)⟩
  | shelfWakeGrant => exact ⟨_, rfl, settle_kept (wakeGrant_kept _ h)⟩
  | shfPwrGoodRise => exact ⟨_, rfl, settle_kept (goodRise_kept _ h)⟩
  | shfPwrGoodFall => exact ⟨_, rfl, settle_kept (goodFall_kept _ h)⟩
  | shelfWakeTimeout => exact ⟨_, rfl, settle_kept (wakeTimeout_kept _ _ h)⟩
  | shelfWakeRetry => exact ⟨_, rfl, settle_kept (wakeRetry_kept _ h)⟩
  | shelfHourlyRetry => exact ⟨_, rfl, settle_kept (hourlyRetry_kept _ h)⟩
  | shelfRequestHoldoffEnd => exact ⟨_, rfl, settle_kept (holdoffEnd_kept _ h)⟩
  | minAwakeExpiry => exact ⟨_, rfl, settle_kept (minAwakeExpiry_kept _ h)⟩
  | idleCloseExpiry => exact ⟨_, rfl, settle_kept (idleClose_kept _ h)⟩
  | batchWindowEnd => exact ⟨_, rfl, settle_kept (batchEnd_kept h)⟩
  | urgencyStep => exact ⟨_, rfl, settle_kept (urgencyStep_kept _ h)⟩
  | scheduleGrant => exact ⟨_, rfl, settle_kept (scheduleGrant_kept h)⟩
  | meterWindow => exact ⟨_, rfl, settle_kept (meterWindow_kept _ h)⟩
  | chunkPlace => exact ⟨_, rfl, settle_kept (chunkPlace_kept _ h)⟩
  | shelfCloseComplete => exact ⟨_, rfl, settle_kept (closeComplete_kept _ h)⟩
  | recallStageDone => exact ⟨_, rfl, settle_kept (recallStageDone_kept _ h)⟩
  | recallHoldExpiry => exact ⟨_, rfl, settle_kept (holdExpiry_kept _ h)⟩
  | retentionDue => exact ⟨_, rfl, settle_kept (retentionDue_kept _ h)⟩
  | heatFold => exact ⟨_, rfl, heatFold_kept h⟩
  | heatHalving => exact ⟨_, rfl, heatHalve_kept h⟩
  | checkpointStart => exact ⟨_, rfl, settle_kept (checkpointStart_kept h)⟩
  | checkpointComplete => exact ⟨_, rfl, settle_kept (checkpointComplete_kept h)⟩
  | gcEraseWaitEnd => exact ⟨_, rfl, settle_kept (gcEraseWaitEnd_kept _ _ h)⟩
  | readDisturbFold => exact ⟨_, rfl, settle_kept (foldAll_kept h)⟩
  | sequencedFlit => exact ⟨_, rfl, settle_kept (rxFlit_kept _ _ h)⟩
  | idle => exact ⟨_, rfl, settle_kept (rxIdle_kept _ _ h)⟩
  | nak => exact ⟨_, rfl, settle_kept (rxNak_kept _ _ h)⟩
  | credit => exact ⟨_, rfl, settle_kept (rxCreditFlit_kept _ _ _ _ h)⟩
  | sleepAck => exact ⟨_, rfl, settle_kept (rxSleepAck_kept _ h)⟩
  | sleepNak => exact ⟨_, rfl, settle_kept (rxSleepNak_kept _ h)⟩
  | flitReplayTimeout => exact ⟨_, rfl, settle_kept (replayTimeout_kept _ h)⟩
  | flitNakHoldoffEnd => exact ⟨_, rfl, nakHoldoffEnd_kept _ h⟩
  | ts1 => exact ⟨_, rfl, settle_kept (rxTs1_kept _ _ _ h)⟩
  | ts2 => exact ⟨_, rfl, settle_kept (rxTs2_kept _ _ _ h)⟩
  | farEndDetected => exact ⟨_, rfl, farEnd_kept _ h⟩
  | linkDetectRetry => exact ⟨_, rfl, detectRetry_kept _ h⟩
  | linkStateTimeout => exact ⟨_, rfl, settle_kept (stateTimeout_kept _ h)⟩
  | framingError => exact ⟨_, rfl, settle_kept (framing_kept _ h)⟩
  | sleepIdleTimer => exact ⟨_, rfl, sleepIdleTimer_kept _ h⟩
  | testComplete => exact ⟨_, rfl, testDone_kept _ _ h⟩
  | sledReadResponse => exact ⟨_, rfl, settle_kept (readResponse_kept _ h)⟩
  | sledProgramResponse => exact ⟨_, rfl, settle_kept (programResponse_kept _ h)⟩
  | sledEraseResponse => exact ⟨_, rfl, settle_kept (eraseResponse_kept _ h)⟩
  | dieStatusResponse => exact ⟨_, rfl, settle_kept (dieStatusResponse_kept _ h)⟩
  | bridgeInfoResponse => exact ⟨_, rfl, settle_kept (bridgeInfoResponse_kept _ _ h)⟩
  | portLockResponse => exact ⟨_, rfl, settle_kept (portLockResponse_kept _ h)⟩
  | notice => exact ⟨_, rfl, settle_kept (noticeIn_kept _ _ _ _ h)⟩
  | sledCmdTimeout => exact ⟨_, rfl, settle_kept (cmdTimeout_kept _ _ _ h)⟩
  | linkActiveTimeout => exact ⟨_, rfl, settle_kept (linkActiveTimeout_kept _ h)⟩
  | slpCtlEn => exact ⟨_, rfl, settle_kept (portEnable_kept _ _ h)⟩
  | slpRetrain => exact ⟨_, rfl, portRetrain_kept _ h⟩
  | slpTest => exact ⟨_, rfl, startPrbs_kept _ h⟩
  | identityRecordRead => exact ⟨_, rfl, settle_kept (takeRecord_kept _ _ _ h)⟩
  | i2cStretchTimeout => exact ⟨_, rfl, i2cTimeout_kept _ _ _ h⟩
  | dramRetrainPause => exact ⟨_, rfl, retrainPause_kept _ _ h⟩
  | dramRefreshDue => exact ⟨_, rfl, refreshDue_kept _ _ _ h⟩
  | dramThermalRead => exact ⟨_, rfl, thermalRead_kept _ _ _ _ h⟩
  | dramRcdAlert => exact ⟨_, rfl, rcdAlert_kept _ _ _ _ h⟩
  | dramReadError => exact ⟨_, rfl, settle_kept (readError_kept _ _ _ _ h)⟩
  | dramPatrolScrub => exact ⟨_, rfl, patrolScrub_kept _ h⟩
  | rankMigrationDone => exact ⟨_, rfl, migrationDone_kept _ h⟩
  | dramUseWindow => exact ⟨_, rfl, settle_kept (useWindow_kept _ h)⟩
  | trnMpcPattern => exact ⟨_, rfl, trnStart_kept _ _ h⟩
  | trnWriteRead => exact ⟨_, rfl, trnStart_kept _ _ h⟩
  | trnDqsOsc => exact ⟨_, rfl, trnStart_kept _ _ h⟩
  | trnReadCompare => exact ⟨_, rfl, trnStart_kept _ _ h⟩
  | trnHelperDone => exact ⟨_, rfl, trnDone_kept _ _ _ h⟩
  | dmcGeomLock => exact ⟨_, rfl, geomLock_kept _ h⟩
  | dmcBankHashWrite => exact ⟨_, rfl, bankHashWrite_kept _ _ _ h⟩
  | dmcChanHashWrite => exact ⟨_, rfl, chanHashWrite_kept _ _ h⟩
  | cacheClean => exact ⟨_, rfl, maintStart_kept _ h⟩
  | cacheInvalidate => exact ⟨_, rfl, maintStart_kept _ h⟩
  | cacheMaintDone => exact ⟨_, rfl, cacheMaintDone_kept h⟩
  | cnsWayDown => exact ⟨_, rfl, wayDown_kept _ h⟩
  | cnsWayUp => exact ⟨_, rfl, wayUp_kept _ h⟩
  | wayDownComplete => exact ⟨_, rfl, wayDownComplete_kept _ h⟩
  | lockLoadComplete => exact ⟨_, rfl, lockLoadComplete_kept _ h⟩
  | ageingTick => exact ⟨_, rfl, ageingTick_kept h⟩
  | trackerBreak => exact ⟨_, rfl, trackerBreak_kept _ h⟩
  | cnsSliceHashWrite => exact ⟨_, rfl, sliceHashWrite_kept _ _ h⟩
  | cnsHashLock => exact ⟨_, rfl, onCns_kept h rfl⟩
  | cnsParityError => exact ⟨_, rfl, parityError_kept _ h⟩
  | cnsTagParityError => exact ⟨_, rfl, tagParityError_kept _ _ h⟩
  | keyDataWrite => exact ⟨_, rfl, keyDataWrite_kept _ _ h⟩
  | keySlotLoad => exact ⟨_, rfl, startKeyOp_kept _ _ h⟩
  | keySlotZeroise => exact ⟨_, rfl, startKeyOp_kept _ _ h⟩
  | keySlotParityError => exact ⟨_, rfl, slotParity_kept _ h⟩
  | cipherQueue2Submit => exact ⟨_, rfl, q2Submit_kept _ h⟩
  | cipherRequestDone =>
    exact ⟨_, rfl, kept_ite (q2Done_kept _ _ h) (kept_ite (kept_sec h h.2.1.keyRegs rfl h.2.1.lodge) h)⟩
  | digestStart => exact ⟨_, rfl, digestStart_kept _ _ _ _ _ h⟩
  | digestDataWrite => exact ⟨_, rfl, digestDataWrite_kept _ _ h⟩
  | digestFinal => exact ⟨_, rfl, digestFinal_kept _ _ h⟩
  | digestBlockDone => exact ⟨_, rfl, digestBlockDone_kept h⟩
  | digestClaimRequest => exact ⟨_, rfl, digestClaimRequest_kept _ h⟩
  | digestRelease => exact ⟨_, rfl, dgtOwned_kept _ (fun _ _ ht => dgtRelease_kept ht) h⟩
  | digestWindowIdleTimeout => exact ⟨_, rfl, digestWindowIdleTimeout_kept h⟩
  | pkaOperationDone => exact ⟨_, rfl, pkaDone_kept _ h⟩
  | rngHealthTrip => exact ⟨_, rfl, rngHealthTrip_kept _ _ h⟩
  | drbgReseed => exact ⟨_, rfl, drbgReseed_kept h⟩
  | smbusAddressMatch => exact ⟨_, rfl, settle_kept (smbusMatch_kept h)⟩
  | smbusStretchTimeout => exact ⟨_, rfl, settle_kept (smbusStretchEnd_kept h)⟩
  | wakeNLow => exact ⟨_, rfl, settle_kept (wakeNPin_kept _ h)⟩
  | gpioWakeEdge => exact ⟨_, rfl, settle_kept (gpioEdge_kept _ h)⟩
  | ghTimerExpiry => exact ⟨_, rfl, settle_kept (timerExpiry_kept _ h)⟩
  | timerCompareWrite => exact ⟨_, rfl, settle_kept (timerCompare_kept _ _ h)⟩
  | ghSleepWatch => exact ⟨_, rfl, settle_kept (ghSleep_kept _ h)⟩
  | ghSleepDormant => exact ⟨_, rfl, settle_kept (ghSleep_kept _ h)⟩
  | idlePolicyTimer => exact ⟨_, rfl, settle_kept (idlePolicy_kept h)⟩
  | dormantAfterTimer => exact ⟨_, rfl, settle_kept (dormantAfter_kept h)⟩
  | avsChangeStart => exact ⟨_, rfl, settle_kept (avsStart_kept _ _ h)⟩
  | avsResponse => exact ⟨_, rfl, settle_kept (avsResponse_kept _ _ _ _ h)⟩
  | avsStatusPoll => exact ⟨_, rfl, settle_kept (avsPoll_kept _ h)⟩
  | avsAckTimeout => exact ⟨_, rfl, settle_kept (avsAckTimeout_kept _ h)⟩
  | avsVdoneTimeout => exact ⟨_, rfl, settle_kept (avsVdoneTimeout_kept _ h)⟩
  | pllLock => exact ⟨_, rfl, settle_kept (pllLock_kept _ h)⟩
  | pllLockTimeout => exact ⟨_, rfl, settle_kept (pllTimeout_kept _ h)⟩
  | wakeRetryWaitEnd => exact ⟨_, rfl, settle_kept (retryWaitEnd_kept h)⟩
  | xtalFail => exact ⟨_, rfl, settle_kept (xtalFails_kept h)⟩
  | xtalRestore => exact ⟨_, rfl, settle_kept (xtalBack_kept h)⟩
  | operatingTimeTick => exact ⟨_, rfl, settle_kept (operatingTick_kept h)⟩
  | optimeLock => exact ⟨_, rfl, settle_kept (kept_gh h h.2.1.cycles)⟩
  | watchdogKick => exact ⟨_, rfl, settle_kept (watchdogKick_kept h)⟩
  | watchdogExpiry => exact ⟨_, rfl, settle_kept (watchdogExpiry_kept h)⟩
  | warmReset => exact ⟨_, rfl, settle_kept (warmPin_kept h)⟩
  | powerOnReset => exact ⟨_, rfl, settle_kept (powerOn_kept _ _ h)⟩
  | bootComplete => exact ⟨_, rfl, settle_kept (bootComplete_kept _ h)⟩
  | slotConfirm => exact ⟨_, rfl, settle_kept (slotConfirm_kept h)⟩
  | tjSample => exact ⟨_, rfl, settle_kept (tjSample_kept _ h)⟩
  | thermalThrottleStep => exact ⟨_, rfl, settle_kept (throttleStep_kept h)⟩
  | tjCoolTimer => exact ⟨_, rfl, settle_kept (tjCooled_kept h)⟩
  | pathMonitorRead => exact ⟨_, rfl, settle_kept (pathMonitors_kept _ h)⟩
  | errorSignal => exact ⟨_, rfl, settle_kept (errorSignalled_kept _ _ _ h)⟩
  | selftestVerdict => exact ⟨_, rfl, settle_kept (verdict_kept _ _ _ h)⟩
  | monCtlArm => exact ⟨_, rfl, monArm_kept _ h⟩
  | monCtlStop => exact ⟨_, rfl, monStop_kept _ h⟩
  | monCtlSnap => exact ⟨_, rfl, monSnap_kept _ h⟩
  | monWindowEnd => exact ⟨_, rfl, monWindowEnd_kept _ h⟩
  | evrRdDataRead => exact ⟨_, rfl, evrRdDataRead_kept h⟩
  | evrSeqLock => exact ⟨_, rfl, kept_evt h h.2.1.ring⟩
  | eventLogAppend => exact ⟨_, rfl, eventLogAppend_kept h⟩
  | eventSummaryWrite => exact ⟨_, rfl, writeSummary_kept h⟩
  | footbridgeSegment => exact ⟨_, rfl, settle_kept (ftbSegment_kept _ _ _ _ _ _ _ _ _ h)⟩
  | decompressionDone => exact ⟨_, rfl, settle_kept (decompressionDone_kept _ _ h)⟩
  | shelfHoldExpiry => exact ⟨_, rfl, settle_kept (holdLapse_kept _ h)⟩
  | pwronRstNFall => exact ⟨_, rfl, settle_kept (pwronFall_kept h)⟩
  | headResetDelayEnd => exact ⟨_, rfl, settle_kept (resetDelayEnd_kept h)⟩
  | replicationLinkReply => exact ⟨_, rfl, settle_kept (linkReply_kept _ _ _ h)⟩
  | timerPulseEnd => exact ⟨_, rfl, settle_kept (pulseEnd_kept _ h)⟩
  -- RECALL is left, whose constructor bears the name of a Mathlib command
  | _ => exact ⟨_, rfl, settle_kept (runMessage_kept _ _ _ h)⟩

theorem step_of_pending_nil {s : State} (hq : s.pending = []) : step s = .next (idleTick s) := by
  simp only [step, hq]

theorem step_of_pending_cons {s : State} {c : Instr} {rest : List Instr} (hq : s.pending = c :: rest) :
    step s = exec c { s with pending := rest } := by
  simp only [step, hq]

/-- The queue's rest is what a step leaves to run. -/
theorem step_kept {s t : State} (h : HeadInv s) (hstep : step s = .next t) : Kept s.pending.tail s.sec.fuseCount t := by
  cases hq : s.pending with
  | nil =>
    rw [step_of_pending_nil hq, Host.Outcome.next.injEq] at hstep
    exact hstep ▸ idleTick_kept ⟨hq, h, le_rfl⟩
  | cons c rest =>
    obtain ⟨u, hu, hkept⟩ := exec_keeps (s := { s with pending := rest }) c ⟨rfl, { h with }, le_rfl⟩
    rw [step_of_pending_cons hq, hu, Host.Outcome.next.injEq] at hstep
    exact hstep ▸ hkept

/-- Settles O51: the masks by `reset_masks`, the byte stores by `reset_stores_wf`, the rest as the registers stand at reset. -/
theorem invariantAtReset : Obligations.InvariantAtReset := by
  obtain ⟨hmsix, hring, hlodge, hmbx⟩ := reset_stores_wf
  exact {
    chanMasks := reset_masks.1
    sliceMasks := reset_masks.2
    keyRegs := rfl
    fuses := Nat.zero_le _
    cycles := Nat.two_pow_pos 24
    ring := hring
    lodge := hlodge
    msix := hmsix
    mailboxes := fun e he => absurd (hmbx ▸ he) List.not_mem_nil }

/-- Settles O52: each command's operation carries the invariant, and an idle tick does. -/
theorem stepKeepsInvariant : Obligations.StepKeepsInvariant := fun _ _ h hstep => (step_kept h hstep).2.1

/-- Settles O54: each command's operation carries the lower bound of the count, and an idle tick does. -/
theorem rollbackCountNeverFalls : Obligations.RollbackCountNeverFalls := fun _ _ h hstep => (step_kept h hstep).2.2

end Sys2Proof.Machine
end

section
/-!
PROOFS. The main window of DRAM is mapped one-to-one (R343): the three low bits of a granule number are read back from the
parities under the masks, because each mask takes in its own one of them alone.
-/
namespace Sys2Proof.Machine
open Sys2Proof

/-! ### Parities -/

theorem foldl_xor_start (f : Nat → Bool) (p : Bool) (l : List Nat) :
    l.foldl (fun b i => xor b (f i)) p = xor p (l.foldl (fun b i => xor b (f i)) false) := by
  induction l generalizing p with
  | nil => simp
  | cons a l ih => rw [List.foldl_cons, ih, List.foldl_cons, ih (xor false _), Bool.false_xor, Bool.xor_assoc]

/-- The parity of the bits from bit 3 on. -/
def parityHigh (n : Nat) : Bool := (List.range' 3 61).foldl (fun p i => xor p (n.testBit i)) false

theorem parityN_eq (n : Nat) :
    parityN n = xor (xor (xor (n.testBit 0) (n.testBit 1)) (n.testBit 2)) (parityHigh n) := by
  have hrange : List.range 64 = [0, 1, 2] ++ List.range' 3 61 := by decide
  rw [parityN, hrange, List.foldl_append, foldl_xor_start, parityHigh]
  simp

theorem parityHigh_congr {a b : Nat} (h : ∀ j, 3 ≤ j → a.testBit j = b.testBit j) : parityHigh a = parityHigh b := by
  have hfold : ∀ (l : List Nat) (p : Bool), (∀ j ∈ l, 3 ≤ j) →
      l.foldl (fun p i => xor p (a.testBit i)) p = l.foldl (fun p i => xor p (b.testBit i)) p := fun l => by
    induction l with
    | nil => exact fun _ _ => rfl
    | cons i l ih =>
      intro p hl
      rw [List.foldl_cons, List.foldl_cons, h i (hl i List.mem_cons_self)]
      exact ih _ fun j hj => hl j (List.mem_cons_of_mem _ hj)
  exact hfold _ _ fun j hj => (List.mem_range'_1.1 hj).1

/-! ### Masks (R343) -/

theorem testBit_masked (q j : Nat) (m : BitVec 34) :
    (q % 2 ^ 34 &&& m.toNat).testBit j = (q.testBit j && m.getLsbD j) := by
  rw [Nat.testBit_and, Nat.testBit_mod_two_pow, BitVec.testBit_toNat]
  by_cases hj : j < 34
  · simp [hj]
  · simp [hj, BitVec.getLsbD_of_ge m j (Nat.le_of_not_lt hj)]

/-- Under a mask that keeps its rule the parity is the granule's own low bit and the parity of its high bits. -/
theorem parityN_masked {i q : Nat} {m : BitVec 34} (hi : i < 3) (hm : chanMaskOk i m = true) :
    parityN (q % 2 ^ 34 &&& m.toNat) = xor (q.testBit i) (parityHigh (q % 2 ^ 34 &&& m.toNat)) := by
  have hlow := chanMaskOk_iff.1 hm
  rw [parityN_eq]
  simp only [testBit_masked, hlow 0 (by decide), hlow 1 (by decide), hlow 2 (by decide)]
  interval_cases i <;> simp

/-- Granules that differ in their low bits alone have the same high parity. -/
theorem parityHigh_masked {q q' : Nat} (m : BitVec 34) (h : q / 8 = q' / 8) :
    parityHigh (q % 2 ^ 34 &&& m.toNat) = parityHigh (q' % 2 ^ 34 &&& m.toNat) := by
  have hbit : ∀ r j, 3 ≤ j → r.testBit j = (r / 8).testBit (j - 3) := fun r j hj => by
    rw [show 8 = 2 ^ 3 from rfl, Nat.testBit_div_two_pow, Nat.sub_add_cancel hj]
  exact parityHigh_congr fun j hj => by rw [testBit_masked, testBit_masked, hbit q j hj, hbit q' j hj, h]

/-! ### The mapping -/

theorem hashChan_three (s : State) (q : Nat) : hashChan s 3 q =
    b2n (parityN (q % 2 ^ 34 &&& (s.dram.chanHash.getD 0 0).toNat)) +
      2 * b2n (parityN (q % 2 ^ 34 &&& (s.dram.chanHash.getD 1 0).toNat)) +
      4 * b2n (parityN (q % 2 ^ 34 &&& (s.dram.chanHash.getD 2 0).toNat)) := by
  simp [hashChan, sumBy, List.range_succ]

theorem placeAddr_main {s : State} {pa : Nat} (h : pa < 24 * s.dram.mainGib * 2 ^ 30) :
    placeAddr s pa = (8 * (pa / 256 % 3) + hashChan s 3 (pa / 256 / 3), pa / 256 / 3 / 8 * 256 + pa % 256) := by
  simp only [placeAddr, h, if_true]

theorem b2n_le_one (b : Bool) : b2n b ≤ 1 := by cases b <;> decide

/-- A hashed channel number is of three bits. -/
theorem hashChan_three_lt (s : State) (q : Nat) : hashChan s 3 q < 8 := by
  have h0 := b2n_le_one (parityN (q % 2 ^ 34 &&& (s.dram.chanHash.getD 0 0).toNat))
  have h1 := b2n_le_one (parityN (q % 2 ^ 34 &&& (s.dram.chanHash.getD 1 0).toNat))
  have h2 := b2n_le_one (parityN (q % 2 ^ 34 &&& (s.dram.chanHash.getD 2 0).toNat))
  rw [hashChan_three]
  omega

theorem digits_eq {a b c a' b' c' : Bool} (h : b2n a + 2 * b2n b + 4 * b2n c = b2n a' + 2 * b2n b' + 4 * b2n c') :
    a = a' ∧ b = b' ∧ c = c' := by
  revert a b c a' b' c'
  decide

theorem parities_of_hashChan {s : State} {q q' : Nat} (h : hashChan s 3 q = hashChan s 3 q') {i : Nat} (hi : i < 3) :
    parityN (q % 2 ^ 34 &&& (s.dram.chanHash.getD i 0).toNat) = parityN (q' % 2 ^ 34 &&& (s.dram.chanHash.getD i 0).toNat) := by
  obtain ⟨h0, h1, h2⟩ := digits_eq ((hashChan_three s q).symm.trans (h.trans (hashChan_three s q')))
  interval_cases i
  · exact h0
  · exact h1
  · exact h2

/-- While every mask keeps its rule a granule number is read back from its high bits and its hash. -/
theorem hashChan_injective {s : State} (hmask : ∀ i < 3, chanMaskOk i (s.dram.chanHash.getD i 0) = true) {q q' : Nat}
    (hhigh : q / 8 = q' / 8) (hhash : hashChan s 3 q = hashChan s 3 q') : q = q' := by
  have hbit : ∀ i < 3, q.testBit i = q'.testBit i := fun i hi => by
    have hm := hmask i hi
    have hparity := (parityN_masked (q := q) hi hm).symm.trans ((parities_of_hashChan hhash hi).trans (parityN_masked hi hm))
    rw [parityHigh_masked _ hhigh] at hparity
    exact Bool.xor_left_inj.1 hparity
  have hlow : q % 2 ^ 3 = q' % 2 ^ 3 := Nat.eq_of_testBit_eq fun i => by
    rw [Nat.testBit_mod_two_pow, Nat.testBit_mod_two_pow]
    by_cases hi : i < 3
    · rw [hbit i hi]
    · simp [hi]
  omega

theorem placeAddr_main_injective {s : State} (hmask : ∀ i < 3, chanMaskOk i (s.dram.chanHash.getD i 0) = true) {pa pa' : Nat}
    (h : pa < 24 * s.dram.mainGib * 2 ^ 30) (h' : pa' < 24 * s.dram.mainGib * 2 ^ 30) (heq : placeAddr s pa = placeAddr s pa') :
    pa = pa' := by
  rw [placeAddr_main h, placeAddr_main h', Prod.mk.injEq] at heq
  obtain ⟨hch, hca⟩ := heq
  have hlt := hashChan_three_lt s (pa / 256 / 3)
  have hlt' := hashChan_three_lt s (pa' / 256 / 3)
  have hq : pa / 256 / 3 = pa' / 256 / 3 := hashChan_injective hmask (by omega) (by omega)
  omega

/-- Settles O45: the mapping by its three digits, and a mask that breaks the rule by the write's last branch. -/
theorem mainWindowIsOneToOne : Obligations.MainWindowIsOneToOne := by
  unfold Obligations.MainWindowIsOneToOne
  refine ⟨fun s pa q h hq => ?_, fun s pa pa' hmask => placeAddr_main_injective hmask, fun i m => chanMaskOk_iff,
    fun i m s hlock hm => ?_⟩
  · rw [hq, placeAddr_main h, hashChan_three]
  · rw [exec_dmcChanHashWrite, chanHashWrite_unlocked hlock, hm, if_neg Bool.false_ne_true]

end Sys2Proof.Machine
end

section
/-!
PROOFS. DRAM refresh, temperature, errors and sparing (R347 to R350, R356 to R359, Tables 12.4 and 12.6).
-/
namespace Sys2Proof.Machine
open Sys2Proof

/-! ### Pauses and refresh (R347 to R349) -/

section
variable {n r : Nat} {s : State}

theorem retrainPause_owesNone (hserve : rankServes (dmcOf s n) r = true) (howed : (rankOf (dmcOf s n) r).owed = 0) :
    retrainPause n r s = pauseRank n r s := if_pos ⟨hserve, howed⟩

/-- A pause moves delays and uses up a draw. -/
theorem pauseRank_eq (n r : Nat) (s : State) : ∃ d, pauseRank n r s = { s with
    dram := { s.dram with ch := tset s.dram.ch n { dmcOf s n with delays := d } }
    draws := s.draws + 1
    out := s.out ++ [.dramPause n r] } := ⟨_, rfl⟩

variable (hserve : rankServes (dmcOf s n) r = true)
include hserve

theorem refreshDue_postponed (hhot : (rankOf (dmcOf s n) r).hot = false)
    (howed : (rankOf (dmcOf s n) r).owed < (rankOf (dmcOf s n) r).maxPostpone.toNat) :
    refreshDue n r true s = setDmc n (setRank r { rankOf (dmcOf s n) r with owed := (rankOf (dmcOf s n) r).owed + 1 } (dmcOf s n)) s := by
  simp [refreshDue, hserve, hhot, howed]

theorem refreshDue_issued (h : (rankOf (dmcOf s n) r).hot = true ∨
    (rankOf (dmcOf s n) r).maxPostpone.toNat ≤ (rankOf (dmcOf s n) r).owed) :
    refreshDue n r true s = emit (.dramRefresh n r 1) s := by
  have hno : ¬((rankOf (dmcOf s n) r).hot = false ∧ (rankOf (dmcOf s n) r).owed < (rankOf (dmcOf s n) r).maxPostpone.toNat) := by
    rintro ⟨hhot, howed⟩
    rcases h with h | h
    · exact Bool.false_ne_true (hhot.symm.trans h)
    · omega
  simp [refreshDue, hserve, hno]

theorem refreshDue_idle : refreshDue n r false s = emit (.dramRefresh n r ((rankOf (dmcOf s n) r).owed + 1))
    (setDmc n (setRank r { rankOf (dmcOf s n) r with owed := 0 } (dmcOf s n)) s) := by
  simp [refreshDue, hserve]

end

/-! ### Temperature (R350, Table 12.4) -/

/-- The ranks in service of a module. -/
def moduleRanks (c : Dmc) (slot : Nat) : List Nat :=
  (List.range 4).filter (fun r => (rankOf c r).present && !(rankOf c r).retired &&
    decide (slotOfRank c Config.dimmSlots r = slot))

/-- The readings of a module's two sensors are noted. -/
def thermNoted (n slot : Nat) (t0 t1 : BitVec 8) (s : State) : State :=
  setDmc n { dmcOf s n with therm := ((dmcOf s n).therm.set (2 * slot) t0).set (2 * slot + 1) t1 } s

/-- A rank is hot no more, where the module is cool or its last reading had failed. -/
def coolRank (n : Nat) (tenths : Int) (s : State) (r : Nat) : State :=
  if tenths ≤ 830 ∨ (rankOf (dmcOf s n) r).readFailed then
    setDmc n (setRank r { rankOf (dmcOf s n) r with hot := false, readFailed := false } (dmcOf s n)) s
  else s

theorem thermalRead_above {n slot : Nat} {t0 t1 : BitVec 8} {tenths : Int} {s : State} (h : 850 < tenths) :
    thermalRead n slot (some (t0, t1)) tenths s =
      (moduleRanks (dmcOf s n) slot).foldl (fun s r => becomeHot n r false s) (thermNoted n slot t0 t1 s) := if_pos h

theorem thermalRead_below {n slot : Nat} {t0 t1 : BitVec 8} {tenths : Int} {s : State} (h : ¬850 < tenths) :
    thermalRead n slot (some (t0, t1)) tenths s =
      (moduleRanks (dmcOf s n) slot).foldl (coolRank n tenths) (thermNoted n slot t0 t1 s) := if_neg h

theorem rankOf_setRank_self (r : Nat) (v : DRank) (c : Dmc) : rankOf (setRank r v c) r = v := tgetD_tset_self ..

/-- A lone rank in service stands on the first module. -/
theorem moduleRanks_lone {c : Dmc} {k : DRank} (hranks : c.ranks = [(0, k)]) (hp : k.present = true) (hr : k.retired = false) :
    moduleRanks c 0 = [0] := by
  have h0 : rankOf c 0 = k := by simp [rankOf, hranks, tgetD, tget]
  have hrest : ∀ r, r ≠ 0 → rankOf c r = {} := fun r hr => by simp [rankOf, hranks, tgetD, tget, hr.symm]
  have hslot : slotOfRank c Config.dimmSlots 0 = 0 := Nat.zero_div _
  simp [moduleRanks, List.range_succ, h0, hrest, hp, hr, hslot]

theorem becomeHot_owing {n r : Nat} {s : State} (hhot : (rankOf (dmcOf s n) r).hot = false) (howed : 0 < (rankOf (dmcOf s n) r).owed) :
    becomeHot n r false s = emit (.dramRefresh n r (2 * (rankOf (dmcOf s n) r).owed))
      (setDmc n (setRank r { rankOf (dmcOf s n) r with hot := true, readFailed := false, owed := 0 } (dmcOf s n)) s) := by
  simp [becomeHot, hhot, Nat.ne_of_gt howed]

/-- The lone rank of a channel replaced after its module's readings were noted. -/
theorem setRank_thermNoted {n : Nat} {t0 t1 : BitVec 8} {s : State} {k : DRank} (hranks : (dmcOf s n).ranks = [(0, k)]) (v : DRank) :
    setDmc n (setRank 0 v (dmcOf (thermNoted n 0 t0 t1 s) n)) (thermNoted n 0 t0 t1 s) =
      setDmc n { dmcOf s n with therm := ((dmcOf s n).therm.set 0 t0).set 1 t1, ranks := [(0, v)] } s := by
  simp [thermNoted, setRank, hranks, tset]

theorem rankOf_thermNoted {n : Nat} {t0 t1 : BitVec 8} {s : State} {k : DRank} (hranks : (dmcOf s n).ranks = [(0, k)]) :
    rankOf (dmcOf (thermNoted n 0 t0 t1 s) n) 0 = k := by
  simp [thermNoted, rankOf, hranks, tgetD, tget]

/-! ### Errors and sparing (R356 to R359, Table 12.6) -/

/-- A command-parity error is counted and its commands go out again. -/
def parityCounted (n r : Nat) (s : State) : State :=
  emit (.dramReissue n r) (setDmc n { dmcOf s n with
    parity := satAdd 16 (dmcOf s n).parity 1
    retries := satAdd 16 (dmcOf s n).retries 1 } s)

theorem parity_parityCounted (n r : Nat) (s : State) :
    (dmcOf (parityCounted n r s) n).parity = satAdd 16 (dmcOf s n).parity 1 := by
  rw [parityCounted, show ∀ (o : Out) (t : State), dmcOf (emit o t) n = dmcOf t n from fun _ _ => rfl, dmcOf_setDmc_self]

theorem rcdAlert_first (n r : Nat) (s : State) :
    rcdAlert n r false true s = record 6 1 1 (.dramRank n r) (leN 1 0 ++ leN 1 1) (parityCounted n r s) := rfl

theorem rcdAlert_out {n r : Nat} {again ok : Bool} {s : State} (h : again = true ∨ ok = false) :
    rcdAlert n r again ok s =
      rankOut n r (record 6 1 1 (.dramRank n r) (leN 1 (b2n again) ++ leN 1 (b2n ok)) (parityCounted n r s)) :=
  if_pos (h.imp_right fun h => by rw [h]; rfl)

/-- The row of a channel address. -/
def rowSubject (n r ca : Nat) (s : State) : Subject := .dramRow n r (bankRow (dmcOf s n) ca).1 (bankRow (dmcOf s n) ca).2

/-- An uncorrectable read is counted with its address, and its line poisoned. -/
def linePoisoned (n ca : Nat) (s : State) : State :=
  setDmc n { dmcOf s n with
    uncorrectable := satAdd 16 (dmcOf s n).uncorrectable 1
    errCa := ca
    errUe := true
    poisoned := if (dmcOf s n).poisoned.contains (ca / 128 * 128) then (dmcOf s n).poisoned
      else (dmcOf s n).poisoned ++ [ca / 128 * 128] } s

theorem readError_corrected (n r ca : Nat) (s : State) :
    readError n r ca true s = errorOn 6 1 (rowSubject n r ca s) (leN 5 ca) (setDmc n { dmcOf s n with
      corrected := satAdd 16 (dmcOf s n).corrected 1
      errCa := ca
      errUe := false } s) := rfl

theorem readError_uncorrectable (n r ca : Nat) (s : State) :
    readError n r ca false s = rankOut n r (restoreLine (rowSubject n r ca s) n ca
      (errorOn 6 3 (rowSubject n r ca s) (leN 5 ca) (linePoisoned n ca s))) := rfl

theorem mem_poisoned_linePoisoned (n ca : Nat) (s : State) : ca / 128 * 128 ∈ (dmcOf (linePoisoned n ca s) n).poisoned := by
  rw [linePoisoned, dmcOf_setDmc_self]
  dsimp only
  split
  next h => exact List.contains_iff_mem.1 h
  next => exact List.mem_append_right _ (List.mem_singleton_self _)

theorem patrolScrub_serving {n : Nat} {s : State} (h : (dmcOf s n).state = 2) :
    patrolScrub n s = setDmc n { dmcOf s n with patrols := (dmcOf s n).patrols + 1 } s := if_pos h

theorem patrolScrub_other {n : Nat} {s : State} (h : (dmcOf s n).state ≠ 2) : patrolScrub n s = s := if_neg h

theorem migrationDone_none {n : Nat} {s : State} (h : (dmcOf s n).migrating = false) : migrationDone n s = s := by
  simp [migrationDone, h]

theorem migrationDone_running {n : Nat} {s : State} {c : Dmc} (hc : dmcOf s n = c) (h : c.migrating = true) :
    migrationDone n s = c.waitOut.foldl (fun s r => withdrawRank n r s)
      (finishJobs (fun j => decide (j.opcode = 0x0611) && decide (j.subj = n)) .success []
        (record 6 3 2 (.dramRank n c.fromRank) (leN 1 3) (setDmc n { c with
          migrating := false
          ptr := Config.dimmRankGib * 1024
          waitOut := []
          ranks := tset c.ranks c.fromRank { rankOf c c.fromRank with
            retired := true
            owed := 0 } } s))) := by
  subst hc
  simp only [migrationDone, h, Bool.not_true, Bool.false_eq_true, if_false]
  rfl

/-! ### The commands -/

section
variable (n : Fin 24) (r : Fin 4) (s : State)

theorem exec_dramRetrainPause : exec (.dramRetrainPause n r) s = .next (retrainPause n r s) := rfl
theorem exec_dramRefreshDue (w : Bool) : exec (.dramRefreshDue n r w) s = .next (refreshDue n r w s) := rfl
theorem exec_dramThermalRead (slot : Fin 2) (v : Option (BitVec 8 × BitVec 8)) (x : Int) :
    exec (.dramThermalRead n slot v x) s = .next (thermalRead n slot v x s) := rfl
theorem exec_dramRcdAlert (again ok : Bool) : exec (.dramRcdAlert n r again ok) s = .next (rcdAlert n r again ok s) := rfl
theorem exec_dramReadError (ca : Nat) (ok : Bool) :
    exec (.dramReadError n r ca ok) s = .next (settle (readError n r ca ok s)) := rfl
theorem exec_dramPatrolScrub : exec (.dramPatrolScrub n) s = .next (patrolScrub n s) := rfl
theorem exec_rankMigrationDone : exec (.rankMigrationDone n) s = .next (migrationDone n s) := rfl

end

/-- Settles O37: each command by its branch; a lone rank's readings through the ranks of its module. -/
theorem dramRanksAreKept : Obligations.DramRanksAreKept := by
  unfold Obligations.DramRanksAreKept
  refine ⟨fun n r s hserve howed => ?pause, fun n r s c k hc hk hserve => ?refresh,
    fun n t0 t1 tenths s c k hc hranks hp hr => ?thermal, fun n r s => ?alert, fun n r again ok s h => ?alertOut,
    fun n r ca s => ⟨⟨_, by rw [exec_dramReadError, readError_corrected]⟩, ?uncorrectable⟩,
    fun n s h => by rw [exec_dramPatrolScrub, patrolScrub_serving h],
    fun n s h => by rw [exec_dramPatrolScrub, patrolScrub_other h],
    fun n s h => by rw [exec_rankMigrationDone, migrationDone_none h],
    fun n s c hc h => by rw [exec_rankMigrationDone, migrationDone_running hc h]⟩
  case pause =>
    obtain ⟨d, hd⟩ := pauseRank_eq n r s
    exact ⟨d, by rw [exec_dramRetrainPause, retrainPause_owesNone hserve howed, hd]⟩
  case refresh =>
    subst hc hk
    refine ⟨fun hhot howed => ?_, fun h => ?_, ?_⟩
    · rw [exec_dramRefreshDue, refreshDue_postponed hserve hhot howed]
    · rw [exec_dramRefreshDue, refreshDue_issued hserve h, emit]
    · rw [exec_dramRefreshDue, refreshDue_idle hserve]
  case thermal =>
    subst hc
    have hmod := moduleRanks_lone hranks hp hr
    have hrank := rankOf_thermNoted (t0 := t0) (t1 := t1) hranks
    refine ⟨fun hhigh hhot howed => ?_, fun hlow => ?_⟩
    · have hbecomes := becomeHot_owing (hrank.symm ▸ hhot) (hrank.symm ▸ howed)
      rw [exec_dramThermalRead, Fin.val_zero, thermalRead_above hhigh, hmod, List.foldl_cons, List.foldl_nil, hbecomes, hrank,
        setRank_thermNoted hranks]
      rfl
    · have hcool : ∀ t : State, coolRank n tenths t 0 =
          setDmc n (setRank 0 { rankOf (dmcOf t n) 0 with hot := false, readFailed := false } (dmcOf t n)) t :=
        fun t => if_pos (.inl hlow)
      rw [exec_dramThermalRead, Fin.val_zero, thermalRead_below (by omega), hmod, List.foldl_cons, List.foldl_nil, hcool, hrank,
        setRank_thermNoted hranks]
      rfl
  case alert => rw [exec_dramRcdAlert, rcdAlert_first, parityCounted]
  case alertOut =>
    exact ⟨_, by rw [exec_dramRcdAlert, rcdAlert_out h], parity_parityCounted .., rfl⟩
  case uncorrectable =>
    refine ⟨_, linePoisoned n ca s, by rw [exec_dramReadError, readError_uncorrectable], ?_, ?_, mem_poisoned_linePoisoned .., ?_, rfl⟩
    all_goals rw [linePoisoned, dmcOf_setDmc_self]

end Sys2Proof.Machine
end

section
/-!
PROOFS. The Conservatory: maintenance, way power, locks, ageing, slice masks and parity (R367, R370, R371, R374 to R378, R380).
-/
namespace Sys2Proof.Machine
open Sys2Proof

/-! ### Maintenance (R376) -/

theorem maintStart_idle {inv : Bool} {s : State} (h : s.cns.maint = none) :
    maintStart inv s = { s with cns := { s.cns with
      maintOp := inv
      maint := some { inv := inv, byWay := s.cns.maintByWay, way := s.cns.maintWay.toNat, base := s.cns.maintAddr / 128,
                      lines := s.cns.maintLen.toNat, mailbox := none } } } := by
  simp [maintStart, h, onCns]

/-- A line that an operation covers is no longer dirty, or is a locked one that an invalidate skips. -/
theorem maintApply_covered {m : CMaint} {c : Cns} {k w : Nat} {l : CLine} (hmem : (w, l) ∈ tgetD (maintApply m c).sets k [])
    (hcov : maintCovers m w l = true) : (m.inv = false → l.dirty = false) ∧ (m.inv = true → wayLocked c w = true) := by
  simp only [maintApply] at hmem
  rw [tgetD_tmap _ _ _ (fun _ => rfl)] at hmem
  obtain ⟨⟨w', l'⟩, hin, heq⟩ := List.mem_map.1 hmem
  have hkept := (List.mem_filter.1 hin).2
  have hskip : m.inv = true → maintCovers m w' l' = true → wayLocked c w' = true := fun hinv hc => by simpa [hinv, hc] using hkept
  split at heq
  next hclean =>
    obtain ⟨rfl, rfl⟩ := Prod.mk.inj heq
    have hcov' : maintCovers m w' l' = true := hcov
    exact ⟨fun _ => rfl, fun hinv => hskip hinv hcov'⟩
  next hskipped =>
    obtain ⟨rfl, rfl⟩ := Prod.mk.inj heq
    exact ⟨fun hinv => absurd (by simp [hcov, hinv]) hskipped, fun hinv => hskip hinv hcov⟩

/-- The dirty lines of an operation that it writes back. -/
def maintWrites (m : CMaint) (c : Cns) : List Nat :=
  dirtyLines (fun w l => maintCovers m w l && !(m.inv && wayLocked c w)) c

theorem cacheMaintDone_fromRegisters {s : State} {m : CMaint} (h : s.cns.maint = some m) (hmbx : m.mailbox = none) :
    cacheMaintDone s = { s with
      dram := (writeBack (maintWrites m s.cns) s).dram
      cns := { s.cns with
        sets := (maintApply m s.cns).sets
        side := (maintApply m s.cns).side
        maint := none
        skipped := satW 20 (maintCounts m s.cns).1
        written := satW 32 (maintCounts m s.cns).2 } } := by
  simp only [cacheMaintDone, h, hmbx]
  rfl

/-! ### Way power (R375) -/

theorem wayDown_allowed {w : Nat} {s : State} (h : offAllowed s (setBit s.cns.off w true) = true) :
    wayDown w s = { s with cns := { s.cns with off := setBit s.cns.off w true } } := if_pos h

theorem wayDown_refused {w : Nat} {s : State} (h : offAllowed s (setBit s.cns.off w true) = false) : wayDown w s = s :=
  if_neg (Bool.eq_false_iff.1 h)

theorem wayDownComplete_other {w : Nat} {s : State} (h : s.cns.off.getLsbD w = false ∨ s.cns.powered.getLsbD w = false) :
    wayDownComplete w s = s := by
  rcases h with h | h <;> simp [wayDownComplete, h]

theorem wayDownComplete_leaving {w : Nat} {s : State} (hoff : s.cns.off.getLsbD w = true) (hon : s.cns.powered.getLsbD w = true)
    (hreq : s.cns.wayReq = none) : wayDownComplete w s = { s with
      dram := (clearWay w s).dram
      cns := { s.cns with
        sets := tmap (fun _ set => terase set w) s.cns.sets
        powered := setBit s.cns.powered w false } } := by
  have hreq' : (onCns (fun c => { c with powered := setBit c.powered w false }) (clearWay w s)).cns.wayReq = none := hreq
  simp only [wayDownComplete, hoff, hon, Bool.and_self, Bool.not_true, Bool.false_eq_true, if_false, hreq']
  rfl

/-! ### Locks (R374) -/

theorem lockOf_putLock_self (i : Nat) (l : CLock) (c : Cns) : lockOf (putLock i l c) i = l := tgetD_tset_self ..

theorem lockLoadComplete_none {i : Nat} {s : State} (h : (lockOf s.cns i).loading = false) : lockLoadComplete i s = s := by
  simp [lockLoadComplete, h]

theorem lockLoadComplete_loading {i : Nat} {s : State} {l : CLock} (hl : lockOf s.cns i = l) (h : l.loading = true)
    (hmbx : l.mailbox = none) : lockLoadComplete i s = { s with
      dram := (loadLocked i s).dram
      cns := putLock i { l with loading := false, loaded := true, mailbox := none } (loadLocked i s).cns } := by
  subst hl
  simp only [lockLoadComplete, h, hmbx, Bool.not_true, Bool.false_eq_true, if_false]
  rfl

/-! ### Ageing and slice masks (R367, R370) -/

theorem ageingTick_runs {s : State} (h : s.cns.agePeriod ≠ 0) : ageingTick s = { s with cns := { s.cns with
    sets := tmap (fun _ set => tmap (fun _ l => { l with ref := false }) set) s.cns.sets } } := if_neg h

theorem ageingTick_stopped {s : State} (h : s.cns.agePeriod = 0) : ageingTick s = s := if_pos h

theorem ref_of_mem_aged {sets : Tab (Tab CLine)} {k w : Nat} {l : CLine}
    (h : (w, l) ∈ tgetD (tmap (fun _ set => tmap (fun _ (l : CLine) => { l with ref := false }) set) sets) k []) : l.ref = false := by
  rw [tgetD_tmap _ _ _ (fun _ => rfl)] at h
  obtain ⟨e, -, heq⟩ := List.mem_map.1 h
  rw [← (Prod.mk.inj heq).2]

theorem sliceMaskOk_iff {k : Nat} {m : BitVec 25} : sliceMaskOk k m = true ↔ ∀ j < 5, m.getLsbD j = decide (j = k) := by
  simp [sliceMaskOk]

theorem sliceHashWrite_locked {k : Nat} {m : BitVec 25} {s : State} (h : s.cns.hashLock = true) : sliceHashWrite k m s = s := if_pos h

theorem sliceHashWrite_unlocked {k : Nat} {m : BitVec 25} {s : State} (h : s.cns.hashLock = false) : sliceHashWrite k m s =
    if sliceMaskOk k m then { s with cns := { s.cns with hash := s.cns.hash.set k m } }
    else record 7 9 2 .none (leN 1 k ++ leN 4 m.toNat) s := if_neg (Bool.eq_false_iff.1 h)

/-! ### Parity (R377, R378) -/

section
variable {line w : Nat} {l : CLine} {s : State}

theorem parityError_absent (h : findLine s.cns line = none) : parityError line s = s := by
  simp only [parityError, h]

theorem tagParityError_absent (both : Bool) (h : findLine s.cns line = none) : tagParityError line both s = s := by
  simp only [tagParityError, h]

variable (h : findLine s.cns line = some (w, l))
include h

theorem parityError_clean (hd : l.dirty = false) : parityError line s =
    errorOn 7 1 (lineSubject s.cns line w) (leN 6 (line * 128))
      { s with cns := { s.cns with parClean := satAdd 16 s.cns.parClean 1 } } := by
  simp only [parityError, h, hd, Bool.false_eq_true, if_false, onCns]

theorem parityError_dirty (hd : l.dirty = true) : parityError line s =
    errorOn 7 3 (lineSubject s.cns line w) (leN 6 (line * 128)) (onCns (fun c => { dropLine line c with
      parDirty := satAdd 16 c.parDirty 1 }) (if l.cls = 4 then askReloads (bucketsOn (fun x => decide (x = line)) s) s else s)) := by
  simp only [parityError, h, hd, if_true]

theorem tagParityError_copy : tagParityError line false s = errorOn 7 1 (lineSubject s.cns line w) (leN 6 (line * 128))
    { s with cns := { s.cns with tagCopy := satAdd 16 s.cns.tagCopy 1 } } := by
  simp only [tagParityError, h, Bool.false_eq_true, if_false, onCns]

theorem tagParityError_both : tagParityError line true s = errorOn 7 3 (lineSubject s.cns line w) (leN 6 (line * 128))
    (onCns (fun c => { dropLine line c with tagBoth := satAdd 16 c.tagBoth 1, parDirty := satAdd 16 c.parDirty 1 })
      (askReloads (bucketsOn (fun x => decide (setKey s.cns x = setKey s.cns line)) s) s)) := by
  simp only [tagParityError, h, if_true]

end

/-! ### The commands -/

section
variable (s : State)

theorem exec_cacheClean : exec .cacheClean s = .next (maintStart false s) := rfl
theorem exec_cacheInvalidate : exec .cacheInvalidate s = .next (maintStart true s) := rfl
theorem exec_cacheMaintDone : exec .cacheMaintDone s = .next (cacheMaintDone s) := rfl
theorem exec_cnsWayDown (w : Fin 16) : exec (.cnsWayDown w) s = .next (wayDown w s) := rfl
theorem exec_wayDownComplete (w : Fin 16) : exec (.wayDownComplete w) s = .next (wayDownComplete w s) := rfl
theorem exec_lockLoadComplete (i : Fin 4) : exec (.lockLoadComplete i) s = .next (lockLoadComplete i s) := rfl
theorem exec_ageingTick : exec .ageingTick s = .next (ageingTick s) := rfl
theorem exec_cnsSliceHashWrite (k : Fin 5) (m : BitVec 25) : exec (.cnsSliceHashWrite k m) s = .next (sliceHashWrite k m s) := rfl
theorem exec_cnsParityError (line : Nat) : exec (.cnsParityError line) s = .next (parityError line s) := rfl
theorem exec_cnsTagParityError (line : Nat) (both : Bool) :
    exec (.cnsTagParityError line both) s = .next (tagParityError line both s) := rfl

end

/-- Settles O39: each command by its branch. -/
theorem conservatoryCommands : Obligations.ConservatoryCommands := by
  unfold Obligations.ConservatoryCommands
  refine ⟨fun s h => ⟨?clean, ?invalidate⟩, fun s m h hmbx => ?maintDone, fun w s off hoff => ?wayDown, fun _ _ => rfl,
    fun w s hoff hon hreq => ?leaving, fun w s h => ?staying, fun i s l hl hload hmbx => ?loaded, fun i s h => ?notLoading,
    fun s h => ?ageing, fun s h => ?noAgeing, fun _ _ => rfl, fun k m s => ⟨fun hl => ?locked, fun hl hm => ?taken, fun hl hm => ?refused⟩,
    fun _ => rfl, fun line w l s h => ⟨fun hd => ?parClean, fun hd => ?parDirty, ?tagCopy, ?tagBoth⟩,
    fun line both s h => ⟨?absent, ?tagAbsent⟩⟩
  case clean => rw [exec_cacheClean, maintStart_idle h]
  case invalidate => rw [exec_cacheInvalidate, maintStart_idle h]
  case maintDone =>
    exact ⟨_, _, _, by rw [exec_cacheMaintDone, cacheMaintDone_fromRegisters h hmbx], fun _ _ _ => maintApply_covered⟩
  case wayDown =>
    subst hoff
    exact ⟨fun h => by rw [exec_cnsWayDown, wayDown_allowed h], fun h => by rw [exec_cnsWayDown, wayDown_refused h]⟩
  case leaving =>
    refine ⟨_, by rw [exec_wayDownComplete, wayDownComplete_leaving hoff hon hreq], fun k hwf => ?_, rfl⟩
    rw [tgetD_tmap _ _ _ (fun _ => rfl), tget_terase_self _ hwf]
  case staying => rw [exec_wayDownComplete, wayDownComplete_other h]
  case loaded =>
    exact ⟨_, by rw [exec_lockLoadComplete, lockLoadComplete_loading hl hload hmbx], lockOf_putLock_self .., rfl⟩
  case notLoading => rw [exec_lockLoadComplete, lockLoadComplete_none h]
  case ageing => exact ⟨_, by rw [exec_ageingTick, ageingTick_runs h], fun _ _ _ => ref_of_mem_aged⟩
  case noAgeing => rw [exec_ageingTick, ageingTick_stopped h]
  case locked => rw [exec_cnsSliceHashWrite, sliceHashWrite_locked hl]
  case taken => rw [exec_cnsSliceHashWrite, sliceHashWrite_unlocked hl, if_pos (sliceMaskOk_iff.2 hm)]
  case refused => rw [exec_cnsSliceHashWrite, sliceHashWrite_unlocked hl, if_neg (mt sliceMaskOk_iff.1 hm)]
  case parClean => rw [exec_cnsParityError, parityError_clean h hd]
  case parDirty => exact ⟨_, by rw [exec_cnsParityError, parityError_dirty h hd]; rfl, rfl⟩
  case tagCopy => rw [exec_cnsTagParityError, tagParityError_copy h]
  case tagBoth => exact ⟨_, by rw [exec_cnsTagParityError, tagParityError_both h]; rfl, rfl⟩
  case absent => rw [exec_cnsParityError, parityError_absent h]
  case tagAbsent => rw [exec_cnsTagParityError, tagParityError_absent both h]

end Sys2Proof.Machine
end

section
/-!
PROOFS. Events merge or are added (R443 to R446), and the histogram of a monitor unit (R441).
-/
namespace Sys2Proof.Machine
open Sys2Proof

/-! ### Recording an event (R436, R443 to R446) -/

section
variable {sub lo cls : Nat} {subj : Subject} (detail : Bytes) {s : State} {r : EvRec}

theorem record_merges (hlast : s.evt.recs.getLast? = some r) (hr : evMerges (256 * sub + lo) subj r = true) :
    record sub lo cls subj detail s = { s with evt := evMerge (optime s) r s.evt } := by
  simp only [record, hlast, hr, if_true]

theorem record_adds (h : ∀ r, s.evt.recs.getLast? = some r → evMerges (256 * sub + lo) subj r = false) :
    record sub lo cls subj detail s = record.recordNew (256 * sub + lo) cls subj detail s := by
  unfold record
  simp only
  split
  next r hlast => rw [h r hlast, if_neg Bool.false_ne_true]
  next => rfl

end

theorem evMerges_eq_true_iff {typ : Nat} {subj : Subject} {r : EvRec} :
    evMerges typ subj r = true ↔ r.typ = typ ∧ r.subject = subj ∧ r.repeats < 0xFFFF := by
  simp [evMerges, and_assoc]

/-- The record stands last in the ring, with its place and number, and no merge is counted. -/
theorem ringPut_last (r : EvRec) (e : Evt) :
    (ringPut r e).recs.getLast? = some { r with off := e.place, seq := e.nextSeq.toNat } ∧ (ringPut r e).mergeCnt = e.mergeCnt := by
  simp [ringPut]

theorem ringFill_mergeCnt (e : Evt) : (ringFill e).mergeCnt = e.mergeCnt := by
  simp only [ringFill]
  split <;> simp only [ringPut_last]

/-- With fillers before it or without, the record stands last. -/
theorem ringAdd_last (r : EvRec) (e : Evt) :
    (∃ off seq, (ringAdd r e).recs.getLast? = some { r with off := off, seq := seq }) ∧ (ringAdd r e).mergeCnt = e.mergeCnt := by
  unfold ringAdd
  split
  · exact ⟨⟨_, _, (ringPut_last r e).1⟩, (ringPut_last r e).2⟩
  · exact ⟨⟨_, _, (ringPut_last r (ringFill e)).1⟩, (ringPut_last r (ringFill e)).2.trans (ringFill_mergeCnt e)⟩

/-- The record of a new event, before it has its place and number (Table 16.7). -/
def newRec (typ cls : Nat) (subj : Subject) (detail : Bytes) (s : State) : EvRec :=
  { off := 0, len := evLen detail, cls := cls, typ := typ, seq := 0, hours := s.gh.hours, seconds := s.gh.seconds,
    cycle := s.gh.pwrCycle, repeats := 0, lastSeen := 0, subject := subj, detail := detail.take 224 }

/-- A new record is added to the ring; besides, the classes are counted and a subject is marked. -/
theorem recordNew_evt (typ cls : Nat) (subj : Subject) (detail : Bytes) (s : State) : ∃ counts since marks,
    (record.recordNew typ cls subj detail s).evt = { ringAdd (newRec typ cls subj detail s) s.evt with
      counts := counts, sumSince := since, unrestored := marks } := by
  simp only [record.recordNew]
  split <;> exact ⟨_, _, _, by simp only [signalVec_evt, newRec]; rfl⟩

theorem recordNew_last (typ cls : Nat) (subj : Subject) (detail : Bytes) (s : State) :
    ∃ r, (record.recordNew typ cls subj detail s).evt.recs.getLast? = some r ∧ r.typ = typ ∧ r.subject = subj ∧ r.repeats = 0 ∧
      (record.recordNew typ cls subj detail s).evt.mergeCnt = s.evt.mergeCnt := by
  obtain ⟨counts, since, marks, hevt⟩ := recordNew_evt typ cls subj detail s
  obtain ⟨⟨off, seq, hlast⟩, hmerge⟩ := ringAdd_last (newRec typ cls subj detail s) s.evt
  rw [hevt]
  exact ⟨_, hlast, rfl, rfl, rfl, hmerge⟩

theorem exec_errorSignal (cls : Fin 5) (sub : Nat) (subj : Subject) (s : State) :
    exec (.errorSignal cls sub subj) s = .next (settle (errorSignalled cls (sub % 256) subj s)) := rfl

theorem errorSignalled_shelf (cls sub g : Nat) (s : State) :
    errorSignalled cls sub (.shelf g) s = record sub 1 cls (.shelf g) [] s := rfl

/-- Settles O46, by whether the newest record takes the event in. -/
theorem eventsMerge : Obligations.EventsMerge := by
  unfold Obligations.EventsMerge
  refine ⟨fun sub lo cls subj detail s r hlast htyp hsubj hrep => ?merges, fun sub lo cls subj detail s hnone => ?added,
    fun cls sub g s => by rw [exec_errorSignal, errorSignalled_shelf]⟩
  case merges =>
    exact ⟨_, by rw [record_merges detail hlast (evMerges_eq_true_iff.2 ⟨htyp, hsubj, hrep⟩), evMerge]⟩
  case added =>
    rw [record_adds detail fun r hlast => ?no]
    · obtain ⟨r, hr, htyp, hsubj, hrep, hmerge⟩ := recordNew_last (256 * sub + lo) cls subj detail s
      exact ⟨r, hr, htyp, hsubj, hrep, hmerge⟩
    case no =>
      rw [← Bool.not_eq_true, evMerges_eq_true_iff]
      rintro ⟨htyp, hsubj, hrep⟩
      rcases hnone r hlast with h | h | h
      · exact h htyp
      · exact h hsubj
      · omega

end Sys2Proof.Machine
end

section
namespace Sys2Proof.Machine
open Sys2Proof

/-! ### The histogram of a monitor unit (R441) -/

theorem monBucket_small {l : Nat} (h : l < 4) : monBucket l = l := if_pos h

theorem monBucket_over {l : Nat} (h : 131072 ≤ l) : monBucket l = 63 := by
  rw [monBucket, if_neg (by omega), if_pos h]

theorem monBucket_between {l : Nat} (hlo : 4 ≤ l) (hhi : l < 131072) :
    monBucket l = 4 * (Nat.log2 l - 1) + l / 2 ^ (Nat.log2 l - 2) % 4 := by
  rw [monBucket, if_neg (by omega), if_neg (by omega)]
  simp only [Nat.shiftRight_eq_div_pow]

theorem two_pow_add_two (e : Nat) : 2 ^ (e + 2) = 4 * 2 ^ e := by ring
theorem two_pow_add_three (e : Nat) : 2 ^ (e + 2 + 1) = 8 * 2 ^ e := by ring

/-- Bucket 4a + 4 + c holds the latencies that open with the bits of 4 + c, a bits before the end. -/
theorem monBucket_eq_iff {l a c : Nat} (hlo : 4 ≤ l) (hhi : l < 131072) (hc : c < 4) :
    monBucket l = 4 * (a + 1) + c ↔ (4 + c) * 2 ^ a ≤ l ∧ l < (5 + c) * 2 ^ a := by
  have hne : l ≠ 0 := by omega
  rw [monBucket_between hlo hhi]
  constructor
  · intro h
    obtain ⟨e, he⟩ : ∃ e, Nat.log2 l = e + 2 := Nat.exists_eq_add_of_le' ((Nat.le_log2 hne).2 (by omega))
    have hbits := (Nat.log2_eq_iff hne).1 he
    rw [two_pow_add_two, two_pow_add_three] at hbits
    rw [he, Nat.add_sub_cancel] at h
    have hpos := Nat.two_pow_pos e
    have hfirst : 4 ≤ l / 2 ^ e ∧ l / 2 ^ e < 8 := by
      rw [Nat.le_div_iff_mul_le hpos, Nat.div_lt_iff_lt_mul hpos]
      omega
    have hea : e = a := by omega
    subst hea
    have hq : l / 2 ^ e = 4 + c := by omega
    rw [← Nat.le_div_iff_mul_le hpos, ← Nat.div_lt_iff_lt_mul hpos, hq]
    omega
  · rintro ⟨h1, h2⟩
    have hpos := Nat.two_pow_pos a
    have he : Nat.log2 l = a + 2 := by
      rw [Nat.log2_eq_iff hne, two_pow_add_two, two_pow_add_three]
      constructor <;> nlinarith
    have hq : l / 2 ^ a = 4 + c := by
      have := (Nat.le_div_iff_mul_le hpos).2 h1
      have := (Nat.div_lt_iff_lt_mul hpos).2 h2
      omega
    rw [he, Nat.add_sub_cancel, hq]
    omega

/-- Settles O47: a bucket by `monBucket_eq_iff`, whose width is a quarter of its start at most. -/
theorem latencyHistogram : Obligations.LatencyHistogram := by
  unfold Obligations.LatencyHistogram
  refine ⟨fun _ => monBucket_small, fun _ => monBucket_between, fun l b hl hlo hhi => ?bucket, fun _ => monBucket_over,
    by decide, fun b hb => ?width, fun _ _ => rfl⟩
  case bucket =>
    obtain ⟨a, c, hc, rfl⟩ : ∃ a c, c < 4 ∧ b = 4 * (a + 1) + c := ⟨b / 4 - 1, b % 4, by omega, by omega⟩
    have ha : (4 * (a + 1) + c) / 4 - 1 = a := by omega
    have hb : (4 * (a + 1) + c) % 4 = c := by omega
    rw [ha, hb]
    rcases Nat.lt_or_ge l 4 with hsmall | hlarge
    · have := Nat.two_pow_pos a
      rw [monBucket_small hsmall]
      constructor
      · omega
      · rintro ⟨h1, _⟩
        nlinarith
    · exact monBucket_eq_iff hlarge hl hc
  case width =>
    rw [← Nat.sub_mul, show 5 + b % 4 - (4 + b % 4) = 1 by omega, Nat.one_mul]
    exact Nat.mul_le_mul_right _ (Nat.le_add_right ..)

end Sys2Proof.Machine
end

section
/-!
PROOFS. The windows of a monitor unit (R442), the read port and the lock of the event ring (R444, R447), the log and the
summary (R446).
-/
namespace Sys2Proof.Machine
open Sys2Proof

/-! ### Windows of a monitor unit (R442) -/

/-- The values of unit u as a snap of the open window shows them. -/
def snapped (u : Nat) (s : State) : MonVals := { (monOf s u).live with elapsed := freeNat s % 2 ^ 32 }

section
variable {u : Nat} {s : State}

theorem monSnap_running (h : (monOf s u).running = true) :
    monSnap u s = draw (setMon u { monOf s u with live := snapped u s, shadow := snapped u s } s) := by
  simp only [monSnap, h, if_true, snapped]

theorem monSnap_stopped (h : (monOf s u).running = false) :
    monSnap u s = setMon u { monOf s u with shadow := (monOf s u).live } s := by
  simp only [monSnap, h, Bool.false_eq_true, if_false]

theorem monStop_running (h : (monOf s u).running = true) :
    monStop u s = setMon u { monOf (monSnap u s) u with running := false } (monSnap u s) := by
  simp only [monStop, h, if_true]

theorem monStop_stopped (h : (monOf s u).running = false) : monStop u s = s := by
  simp only [monStop, h, Bool.false_eq_true, if_false]

theorem monWindowEnd_running (h : (monOf s u).running = true) (hw : (monOf s u).windowMs ≠ 0) :
    monWindowEnd u s = setMon u { monOf s u with
      running := false
      live := { (monOf s u).live with elapsed := (monOf s u).windowMs.toNat }
      shadow := { (monOf s u).live with elapsed := (monOf s u).windowMs.toNat } } s :=
  if_pos ⟨h, hw⟩

theorem monWindowEnd_stopped (h : (monOf s u).running = false) : monWindowEnd u s = s :=
  if_neg fun hw => Bool.false_ne_true (h.symm.trans hw.1)

end

@[simp] theorem monOf_draw (s : State) (u : Nat) : monOf (draw s) u = monOf s u := rfl

/-! ### The log (R446) -/

/-- A record placed in the log changes the log alone. -/
theorem logPut_frame (r : EvRec) (e : Evt) : ∃ log place newest,
    logPut r e = { e with log := log, logPlace := place, newestAppended := newest } := ⟨_, _, _, rfl⟩

theorem foldl_logPut_frame (rs : List EvRec) (e : Evt) : ∃ log place newest,
    rs.foldl (fun e r => logPut r e) e = { e with log := log, logPlace := place, newestAppended := newest } := by
  induction rs generalizing e with
  | nil => exact ⟨_, _, _, rfl⟩
  | cons r rs ih => exact ih (logPut r e)

/-- A record at the start of an empty log. -/
theorem logPut_empty {r : EvRec} {e : Evt} (hlog : e.log = []) (hplace : e.logPlace = 0) :
    (logPut r e).log = [{ r with off := 0 }] ∧ (logPut r e).newestAppended = some (r.seq, r.repeats) := by
  simp [logPut, hlog, hplace, evDrop]

theorem toAppend_first {r : EvRec} {e : Evt} (hrecs : e.recs = [r]) (htyp : r.typ ≠ 0) (hnew : e.newestAppended = none) :
    toAppend e = [r] := by
  simp [toAppend, hrecs, htyp, hnew]

/-- The state after the records lost so far are named. -/
def lostNamed (s : State) : State :=
  let t := record 9 0x0C 1 .none
    (leN 4 (s.evt.lost - s.evt.lostReported) ++ leN 4 s.evt.persistSeq.toNat ++ leN 4 s.evt.tailSeq.toNat) s
  { t with evt := { t.evt with lostReported := t.evt.lost } }

theorem eventLogAppend_lost {s : State} (h : s.evt.lostReported < s.evt.lost) :
    eventLogAppend s = { lostNamed s with evt := { (toAppend (lostNamed s).evt).foldl (fun e r => logPut r e) (lostNamed s).evt with
      persistSeq := ((toAppend (lostNamed s).evt).foldl (fun e r => logPut r e) (lostNamed s).evt).headSeq
      sinceAppend := 0 } } := by
  have hk : 0 < s.evt.lost - s.evt.lostReported := Nat.sub_pos_of_lt h
  simp only [eventLogAppend, hk, if_true, lostNamed]

theorem eventLogAppend_none {s : State} (h : s.evt.lost = s.evt.lostReported) :
    eventLogAppend s = { s with evt := { (toAppend s.evt).foldl (fun e r => logPut r e) s.evt with
      persistSeq := ((toAppend s.evt).foldl (fun e r => logPut r e) s.evt).headSeq
      sinceAppend := 0 } } := by
  have hk : ¬0 < s.evt.lost - s.evt.lostReported := by omega
  simp only [eventLogAppend, hk, if_false]

/-- An event below class 3 signals no vector: the event recorder alone changes. -/
theorem record_quiet (sub lo : Nat) {cls : Nat} (subj : Subject) (detail : Bytes) (s : State) (h : cls < 3) :
    ∃ e, record sub lo cls subj detail s = { s with evt := e } := by
  have hnew : ∀ typ, ∃ e, record.recordNew typ cls subj detail s = { s with evt := e } := fun typ => by
    have hc : ¬(3 ≤ cls ∧ s.kiosk.evtEn = true) := by omega
    simp only [record.recordNew, hc, if_false]
    exact ⟨_, rfl⟩
  unfold record
  simp only
  repeat' split
  · exact ⟨_, rfl⟩
  · exact hnew _
  · exact hnew _

/-! ### The summary (R446) -/

theorem mem_of_mem_fitRecs {n : Nat} {rs : List EvRec} {r : EvRec} (h : r ∈ fitRecs n rs) : r ∈ rs := by
  induction rs generalizing n with
  | nil => exact h
  | cons a rs ih =>
    unfold fitRecs at h
    split at h
    · rcases List.mem_cons.1 h with rfl | h
      · exact List.mem_cons_self
      · exact List.mem_cons_of_mem _ (ih h)
    · exact absurd h List.not_mem_nil

/-- The counters of the classes since the summary began. -/
def summaryCounts (e : Evt) : List Nat := (List.range 5).map (fun c => e.sumBase.getD c 0 + e.sumSince.getD c 0)

/-- The next summary: its generation, the newest sequence number, and the newest records of class 2 and above that fit. -/
def nextSummary (s : State) : EvSummary :=
  { generation := (bestSummary s.evt).elim 0 EvSummary.generation + 1, hours := s.gh.hours, seconds := s.gh.seconds
    cycle := s.gh.pwrCycle, newest := s.evt.headSeq.toNat, counts := summaryCounts s.evt
    recs := (fitRecs (2 ^ 20 - 64) ((s.evt.log ++ s.evt.recs.filter (fun r => !(s.evt.log.any (fun q => q.seq = r.seq)))).filter
      (fun r => r.typ ≠ 0 && decide (2 ≤ r.cls))).reverse).reverse }

theorem nextSummary_recs {s : State} {r : EvRec} (h : r ∈ (nextSummary s).recs) : 2 ≤ r.cls := by
  have hfit := mem_of_mem_fitRecs (List.mem_reverse.1 h)
  have := (List.mem_filter.1 (List.mem_reverse.1 hfit)).2
  simp only [Bool.and_eq_true, decide_eq_true_eq] at this
  exact this.2

/-- Does the first copy hold the older summary, or none? -/
def firstIsOlder (e : Evt) : Bool :=
  match e.sum0, e.sum1 with
  | none, _ => true
  | some _, none => false
  | some a, some b => decide (a.generation < b.generation)

/-- The event recorder with the summary in the copy that does not hold the newer one. -/
def withSummary (x : EvSummary) (e : Evt) : Evt :=
  if firstIsOlder e then { e with sumBase := summaryCounts e, sumSince := [0, 0, 0, 0, 0], sum0 := some x }
  else { e with sumBase := summaryCounts e, sumSince := [0, 0, 0, 0, 0], sum1 := some x }

theorem writeSummary_eq (s : State) : writeSummary s = { s with evt := withSummary (nextSummary s) s.evt } := rfl

section
variable {s : State}

theorem writeSummary_first (h : firstIsOlder s.evt = true) : writeSummary s = { s with evt := { s.evt with
    sumBase := summaryCounts s.evt, sumSince := [0, 0, 0, 0, 0], sum0 := some (nextSummary s) } } := by
  rw [writeSummary_eq, withSummary, if_pos h]

theorem writeSummary_second (h : firstIsOlder s.evt = false) : writeSummary s = { s with evt := { s.evt with
    sumBase := summaryCounts s.evt, sumSince := [0, 0, 0, 0, 0], sum1 := some (nextSummary s) } } := by
  rw [writeSummary_eq, withSummary, h, if_neg Bool.false_ne_true]

theorem firstIsOlder_of_both {a b : EvSummary} (ha : s.evt.sum0 = some a) (hb : s.evt.sum1 = some b) :
    firstIsOlder s.evt = decide (a.generation < b.generation) := by
  simp only [firstIsOlder, ha, hb]

end

/-! ### The commands -/

theorem exec_monCtlArm (u : Fin 32) (s : State) : exec (.monCtlArm u) s = .next (monArm u s) := rfl
theorem exec_monCtlStop (u : Fin 32) (s : State) : exec (.monCtlStop u) s = .next (monStop u s) := rfl
theorem exec_monCtlSnap (u : Fin 32) (s : State) : exec (.monCtlSnap u) s = .next (monSnap u s) := rfl
theorem exec_monWindowEnd (u : Fin 32) (s : State) : exec (.monWindowEnd u) s = .next (monWindowEnd u s) := rfl
theorem exec_eventLogAppend (s : State) : exec .eventLogAppend s = .next (eventLogAppend s) := rfl
theorem exec_eventSummaryWrite (s : State) : exec .eventSummaryWrite s = .next (writeSummary s) := rfl

/-- Settles O44: each window of a unit by whether it runs, the log by whether records were lost, the summary by its older copy. -/
theorem monitorsAndEventRecorder : Obligations.MonitorsAndEventRecorder := by
  unfold Obligations.MonitorsAndEventRecorder
  refine ⟨fun u s => ⟨_, exec_monCtlArm u s, monOf_setMon_self .., rfl⟩, fun u s hrun => ⟨?stop, ?snap, fun hw => ?windowEnd⟩,
    fun u s hstop => ⟨?stopped, ?snapStopped, ?endStopped⟩, fun _ => rfl, fun _ => rfl, fun s hlost => ?lost, fun s hnone => ?none,
    fun s => ?summary⟩
  case stop =>
    exact ⟨_, snapped u s, by rw [exec_monCtlStop, monStop_running hrun, monSnap_running hrun], by simp, rfl, rfl⟩
  case snap =>
    exact ⟨_, snapped u s, by rw [exec_monCtlSnap, monSnap_running hrun], by simp, rfl, rfl⟩
  case windowEnd =>
    exact ⟨_, _, by rw [exec_monWindowEnd, monWindowEnd_running hrun hw], monOf_setMon_self .., rfl, rfl⟩
  case stopped => rw [exec_monCtlStop, monStop_stopped hstop]
  case snapStopped => rw [exec_monCtlSnap, monSnap_stopped hstop]
  case endStopped => rw [exec_monWindowEnd, monWindowEnd_stopped hstop]
  case lost =>
    refine ⟨_, by rw [exec_eventLogAppend, eventLogAppend_lost hlost], ?_⟩
    obtain ⟨log, place, newest, hput⟩ := foldl_logPut_frame (toAppend (lostNamed s).evt) (lostNamed s).evt
    obtain ⟨e, he⟩ := record_quiet 9 0x0C .none
      (leN 4 (s.evt.lost - s.evt.lostReported) ++ leN 4 s.evt.persistSeq.toNat ++ leN 4 s.evt.tailSeq.toNat) s (by decide : 1 < 3)
    rw [hput]
    refine ⟨rfl, rfl, rfl, ?_⟩
    simp only [lostNamed, he]
  case none =>
    refine ⟨_, by rw [exec_eventLogAppend, eventLogAppend_none hnone], ?_, rfl, ?_, ?_, ?_, rfl, fun r hrecs htyp hlog hplace hnew => ?first⟩
    case first =>
      simp only [toAppend_first hrecs htyp hnew, List.foldl_cons, List.foldl_nil]
      exact logPut_empty hlog hplace
    all_goals
      obtain ⟨log, place, newest, hput⟩ := foldl_logPut_frame (toAppend s.evt) s.evt
      rw [hput]
    exact hnone.symm
  case summary =>
    cases h : firstIsOlder s.evt with
    | true =>
      refine ⟨_, nextSummary s, (exec_eventSummaryWrite s).trans (congrArg _ (writeSummary_first h)), rfl, rfl, fun _ => nextSummary_recs,
        .inl ⟨rfl, rfl⟩, fun a b ha hb => ⟨fun _ => rfl, fun hle => ?_⟩, rfl, rfl⟩
      rw [firstIsOlder_of_both ha hb, decide_eq_true_eq] at h
      omega
    | false =>
      refine ⟨_, nextSummary s, (exec_eventSummaryWrite s).trans (congrArg _ (writeSummary_second h)), rfl, rfl, fun _ => nextSummary_recs,
        .inr ⟨rfl, rfl⟩, fun a b ha hb => ⟨fun hlt => ?_, fun _ => rfl⟩, rfl, rfl⟩
      rw [firstIsOlder_of_both ha hb, decide_eq_false_iff_not] at h
      exact absurd hlt h

end Sys2Proof.Machine
end

section
/-!
PROOFS. Errors and their self-tests (R436, R438), verdicts (R439, Tables 16.3 and 16.4) and ageing (R449, R450).
-/
namespace Sys2Proof.Machine
open Sys2Proof

/-! ### What recording an event leaves of the self-tests -/

/-- The self-tests and their verdicts, as an event recorder keeps them. -/
def testBooks (e : Evt) : List SelfTest × List SelfTest × Nat × Nat × Nat × List (Nat × Nat) :=
  (e.running, e.waiting, e.tests, e.transient, e.lasting, e.coresRetired)

theorem ringPut_testBooks (r : EvRec) (e : Evt) : testBooks (ringPut r e) = testBooks e := rfl

theorem ringAdd_testBooks (r : EvRec) (e : Evt) : testBooks (ringAdd r e) = testBooks e := by
  simp only [ringAdd, ringFill]
  repeat' split
  all_goals simp only [ringPut_testBooks]

theorem record_testBooks (sub lo cls : Nat) (subj : Subject) (detail : Bytes) (s : State) :
    testBooks (record sub lo cls subj detail s).evt = testBooks s.evt := by
  have hnew : ∀ typ, testBooks (record.recordNew typ cls subj detail s).evt = testBooks s.evt := fun typ => by
    obtain ⟨counts, since, marks, hevt⟩ := recordNew_evt typ cls subj detail s
    rw [hevt]
    exact ringAdd_testBooks ..
  unfold record
  simp only
  repeat' split
  · rfl
  · exact hnew _
  · exact hnew _

section
variable (sub lo cls : Nat) (subj : Subject) (detail : Bytes) (s : State)

@[simp] theorem record_running : (record sub lo cls subj detail s).evt.running = s.evt.running :=
  congrArg (·.1) (record_testBooks sub lo cls subj detail s)
@[simp] theorem record_waiting : (record sub lo cls subj detail s).evt.waiting = s.evt.waiting :=
  congrArg (·.2.1) (record_testBooks sub lo cls subj detail s)
@[simp] theorem record_tests : (record sub lo cls subj detail s).evt.tests = s.evt.tests :=
  congrArg (·.2.2.1) (record_testBooks sub lo cls subj detail s)
@[simp] theorem record_transient : (record sub lo cls subj detail s).evt.transient = s.evt.transient :=
  congrArg (·.2.2.2.1) (record_testBooks sub lo cls subj detail s)
@[simp] theorem record_lasting : (record sub lo cls subj detail s).evt.lasting = s.evt.lasting :=
  congrArg (·.2.2.2.2.1) (record_testBooks sub lo cls subj detail s)
@[simp] theorem record_coresRetired : (record sub lo cls subj detail s).evt.coresRetired = s.evt.coresRetired :=
  congrArg (·.2.2.2.2.2) (record_testBooks sub lo cls subj detail s)

end

/-! ### Errors and tests (R438) -/

/-- With no test running or waiting, the test of a resource that is no flash block starts. -/
theorem startTest_first {subj : Subject} {q : Option Nat} {s : State} (hrun : s.evt.running = []) (hwait : s.evt.waiting = [])
    (herase : atErase subj = false) : startTest subj q s = { s with evt := { s.evt with
      running := [{ subject := subj, errSeq := q }], tests := satAdd 32 s.evt.tests 1 } } := by
  simp [startTest, hrun, hwait, herase]

theorem errorSignalled_engineCore (cls sub e c : Nat) (s : State) :
    errorSignalled cls sub (.engineCore e c) s = errorOn sub cls (.engineCore e c) [] s := rfl

theorem nextTest_idle {s : State} (h : s.evt.waiting = []) : nextTest s = s := by
  simp [nextTest, h]

/-- The lone test that waits takes a place, none running. -/
theorem nextTest_lone {s : State} {t : SelfTest} (hrun : s.evt.running = []) (hwait : s.evt.waiting = [t])
    (herase : atErase t.subject = false) : nextTest s = { s with evt := { s.evt with
      running := [t], waiting := [], tests := satAdd 32 s.evt.tests 1 } } := by
  simp [nextTest, hrun, hwait, herase]

/-! ### Verdicts (R439) -/

/-- The test of a resource is over with this verdict, and so are the jobs that asked for it. -/
def testEnded (subj : Subject) (code mismatches : Nat) (s : State) : State :=
  finishJobs (fun j => decide (j.opcode = 0x0912 ∧ j.subj = subjectNo subj)) .success (leN 1 code ++ leN 2 mismatches)
    { s with evt := { s.evt with running := s.evt.running.filter (fun x => decide (x.subject ≠ subj)) } }

@[simp] theorem testEnded_evt (subj : Subject) (code m : Nat) (s : State) : (testEnded subj code m s).evt =
    { s.evt with running := s.evt.running.filter (fun x => decide (x.subject ≠ subj)) } := rfl

section
variable {subj : Subject} {m : Nat} {s : State} {tst : SelfTest}

theorem verdict_noTest {v : Verdict} (h : ∀ t ∈ s.evt.running, t.subject ≠ subj) : verdict subj v m s = s := by
  have hnone : s.evt.running.find? (fun t => decide (t.subject = subj)) = none :=
    List.find?_eq_none.2 fun t ht => by simpa using h t ht
  simp only [verdict, hnone]

variable (h : s.evt.running.find? (fun t => decide (t.subject = subj)) = some tst)
include h

theorem verdict_fail : verdict subj .fail m s = nextTest (lastingAction subj (record 9 2 2 subj
    (leN 4 (tst.errSeq.getD 0) ++ leN 1 1 ++ leN 1 (b2n tst.waited))
    { testEnded subj 1 m s with evt := { (testEnded subj 1 m s).evt with lasting := satAdd 16 s.evt.lasting 1 } })) := by
  simp only [verdict, h]
  rfl

theorem verdict_thirdPass (hq : tst.errSeq.isSome = true) (hmany : 2 ≤ transients s subj) :
    verdict subj .pass m s = nextTest (lastingAction subj (record 9 2 2 subj
      (leN 4 (tst.errSeq.getD 0) ++ leN 1 0 ++ leN 1 (b2n tst.waited))
      { testEnded subj 0 m s with evt := { (testEnded subj 0 m s).evt with lasting := satAdd 16 s.evt.lasting 1 } })) := by
  have hlast : (decide (Verdict.pass = .fail) || (tst.errSeq.isSome && decide (2 ≤ transients (testEnded subj 0 m s) subj))) = true := by
    rw [hq, Bool.true_and, Bool.or_eq_true]
    exact .inr (decide_eq_true hmany)
  simp only [verdict, h]
  exact congrArg nextTest (if_pos hlast)

theorem verdict_pass (hq : tst.errSeq.isSome = true) (hfew : transients s subj < 2) :
    verdict subj .pass m s = nextTest (restored subj (record 9 2 1 subj
      (leN 4 (tst.errSeq.getD 0) ++ leN 1 0 ++ leN 1 (b2n tst.waited))
      { testEnded subj 0 m s with evt := { (testEnded subj 0 m s).evt with transient := satAdd 16 s.evt.transient 1 } })) := by
  have hfew' : ¬2 ≤ transients (testEnded subj 0 m s) subj := Nat.not_le.2 hfew
  have hlast : ¬(decide (Verdict.pass = .fail) || (tst.errSeq.isSome && decide (2 ≤ transients (testEnded subj 0 m s) subj))) = true := by
    simp [hfew']
  simp only [verdict, h]
  exact congrArg nextTest ((if_neg hlast).trans (if_pos hq))

theorem verdict_abandoned (hq : tst.errSeq.isSome = true) : verdict subj .abandoned m s = nextTest
    { testEnded subj 2 m s with evt := { (testEnded subj 2 m s).evt with waiting := s.evt.waiting ++ [tst] } } := by
  simp only [verdict, h]
  exact congrArg nextTest (if_pos hq)

end

/-- A core of an engine with several is retired; the head goes on. -/
theorem lastingAction_engineCore {e c : Nat} {s : State} (he : e < 5) (hc : (e, c) ∉ s.evt.coresRetired) :
    lastingAction (.engineCore e c) s = { s with evt := { s.evt with coresRetired := (e, c) :: s.evt.coresRetired } } := by
  have h8 : ¬e = 8 := by omega
  have h5 : ¬5 ≤ e := by omega
  simp [lastingAction, hc, h8, h5]

section
variable {e c : Nat} {s : State} {tst : SelfTest} (hrun : s.evt.running = [tst]) (hsubj : tst.subject = .engineCore e c)
include hrun hsubj

/-- The lone test of a core is over: none runs. -/
theorem testEnded_running (code m : Nat) : (testEnded (.engineCore e c) code m s).evt.running = [] := by
  simp [hrun, hsubj]

/-- The core of a lasting verdict is retired, and no test runs. -/
theorem coreRetired_evt (hwait : s.evt.waiting = []) (he : e < 5) (hc : (e, c) ∉ s.evt.coresRetired) (code m k : Nat)
    (detail : Bytes) {t : State} (ht : t = nextTest (lastingAction (.engineCore e c) (record 9 2 2 (.engineCore e c) detail
      { testEnded (.engineCore e c) code m s with evt := { (testEnded (.engineCore e c) code m s).evt with lasting := k } }))) :
    t.evt.running = [] ∧ t.evt.lasting = k ∧ t.evt.coresRetired = (e, c) :: s.evt.coresRetired := by
  rw [lastingAction_engineCore he (by simpa using hc), nextTest_idle (by simpa using hwait)] at ht
  subst ht
  simp [hrun, hsubj]

end

/-! ### Ageing (R449, R450) -/

/-- Has a rail less than 30 mV of margin, or at most two years of it left? -/
def ageingNear (s : State) : Bool :=
  [0, 1, 2].any (fun r => decide (marginOf s r < 30) || (match daysLeft s r with
    | some d => decide (d * 100 ≤ 73050)
    | none => false))

/-- The state after the warning of ageing is set or taken back, with its event. -/
def ageingWarned (s : State) : State :=
  let t := if ageingNear s ∧ !s.evt.ageingWarn then note 9 6 2 s else s
  { t with evt := { t.evt with ageingWarn := ageingNear s } }

theorem ageingWarned_frame (s : State) : (ageingWarned s).ghx = s.ghx ∧ (ageingWarned s).gh = s.gh := by
  simp only [ageingWarned]
  split
  · obtain ⟨e, o, p, h⟩ := record_frame 9 6 2 .none [] s
    rw [note, h]
    exact ⟨rfl, rfl⟩
  · exact ⟨rfl, rfl⟩

/-- A warning that stands and still holds changes nothing. -/
theorem ageingWarned_standing {s : State} (hnear : ageingNear s = true) (hwarn : s.evt.ageingWarn = true) : ageingWarned s = s := by
  simp only [ageingWarned, hnear, hwarn, Bool.not_true, Bool.false_eq_true, and_false, if_false]
  rw [← hwarn]

theorem ageingNear_noMargin {s : State} (h : marginOf s 0 = 0) : ageingNear s = true := by
  simp [ageingNear, h]

/-- Does a path monitor of rail r show less than 15 ps of slack? -/
def slackShort (slack : List (Nat × Nat)) (r : Nat) : Bool := slack.any (fun x => decide (x.1 = r ∧ x.2 < 15))

/-- Has a rail short of slack no margin left? -/
def marginGone (slack : List (Nat × Nat)) (s : State) : Bool :=
  [0, 1, 2].any (fun r => slackShort slack r && decide (marginOf s r = 0))

/-- The rails short of slack are raised while they have margin. -/
def railsRaised (slack : List (Nat × Nat)) (s : State) : State :=
  [0, 1, 2].foldl (fun s r => if slackShort slack r ∧ marginOf s r ≠ 0 then raiseRail r s else s) s

theorem pathMonitors_eq (slack : List (Nat × Nat)) (s : State) : pathMonitors slack s =
    if marginGone slack s ∧ !(ageingWarned (railsRaised slack s)).evt.ageingOut then
      handOffFenced (note 9 6 4 { ageingWarned (railsRaised slack s) with
        evt := { (ageingWarned (railsRaised slack s)).evt with ageingOut := true } })
    else ageingWarned (railsRaised slack s) := rfl

section
variable {ps : Nat} {s : State}

theorem slackShort_one (r : Nat) : slackShort [(0, ps)] r = decide (r = 0 ∧ ps < 15) := by
  simp [slackShort, eq_comm]

theorem pathMonitors_raises (hps : ps < 15) (hm : marginOf s 0 ≠ 0) :
    pathMonitors [(0, ps)] s = ageingWarned (raiseRail 0 s) := by
  simp [pathMonitors_eq, marginGone, railsRaised, slackShort_one, hps, hm]

theorem pathMonitors_noMargin (hps : ps < 15) (hm : marginOf s 0 = 0) (hout : s.evt.ageingOut = false)
    (hwarn : s.evt.ageingWarn = true) :
    pathMonitors [(0, ps)] s = handOffFenced (note 9 6 4 { s with evt := { s.evt with ageingOut := true } }) := by
  have hrails : railsRaised [(0, ps)] s = s := by simp [railsRaised, slackShort_one, hm]
  have hgone : marginGone [(0, ps)] s = true := by simp [marginGone, slackShort_one, hps, hm]
  rw [pathMonitors_eq, hrails, ageingWarned_standing (ageingNear_noMargin hm) hwarn, hgone, hout]
  rfl

theorem pathMonitors_enough (hps : 15 ≤ ps) : pathMonitors [(0, ps)] s = ageingWarned s := by
  simp [pathMonitors_eq, marginGone, railsRaised, slackShort_one, Nat.not_lt.2 hps]

end

theorem setAvsQ_svc (b : Nat) (q : List AvsOp) (s : State) : (setAvsQ b q s).ghx.svc = s.ghx.svc := by
  simp only [setAvsQ]
  split <;> rfl

theorem pushAvs_svc (r target : Nat) (why : AvsFor) (s : State) : (pushAvs r target why s).ghx.svc = s.ghx.svc := by
  simp only [pushAvs, avsSend]
  repeat' split
  all_goals simp [setAvsQ_svc]

theorem raiseRail_svc (r : Nat) (s : State) :
    (raiseRail r s).ghx.svc = s.ghx.svc.set r (min (railHigh r) (svcOf s r + 5)) := by
  simp only [raiseRail]
  split
  · rw [pushAvs_svc]
  · rfl

/-! ### The commands -/

theorem exec_selftestVerdict (subj : Subject) (v : Verdict) (m : Nat) (s : State) :
    exec (.selftestVerdict subj v m) s = .next (settle (verdict subj v m s)) := rfl

theorem exec_pathMonitorRead (slack : List (Nat × Nat)) (s : State) :
    exec (.pathMonitorRead slack) s = .next (settle (pathMonitors slack s)) := rfl

/-- Settles O43: errors by their subject, verdicts of a lone test by what they find, ageing by the slack and the margin. -/
theorem errorsVerdictsAndAgeing : Obligations.ErrorsVerdictsAndAgeing := by
  unfold Obligations.ErrorsVerdictsAndAgeing
  refine ⟨fun cls sub e c s hrun hwait => ⟨_, ?error, rfl⟩, fun cls sub g s => by rw [exec_errorSignal, errorSignalled_shelf],
    fun subj v m s hnone => by rw [exec_selftestVerdict, verdict_noTest hnone],
    fun e c q m s tst hrun hsubj hq hwait hjobs => ?verdicts, fun ps s hps hm => ?raised,
    fun ps s hps hm hout hwarn => by rw [exec_pathMonitorRead, pathMonitors_noMargin hps hm hout hwarn],
    fun ps s hps => ?enough⟩
  case error =>
    rw [exec_errorSignal, errorSignalled_engineCore, errorOn, startTest_first (by simpa using hrun) (by simpa using hwait) rfl,
      record_tests]
  case verdicts =>
    have hfind : s.evt.running.find? (fun t => decide (t.subject = .engineCore e c)) = some tst := by simp [hrun, hsubj]
    have hq' : tst.errSeq.isSome = true := by rw [hq]; rfl
    refine ⟨fun he hc => ?fail, fun he hc hmany => ?thirdPass, fun hfew => ?pass, ?abandoned⟩
    case fail =>
      obtain ⟨hnone, hlast, hcores⟩ := coreRetired_evt hrun hsubj hwait he hc 1 m _ _ rfl
      exact ⟨_, by rw [exec_selftestVerdict, verdict_fail hfind], hnone, hlast, hcores⟩
    case thirdPass =>
      obtain ⟨hnone, hlast, hcores⟩ := coreRetired_evt hrun hsubj hwait he hc 0 m _ _ rfl
      exact ⟨_, by rw [exec_selftestVerdict, verdict_thirdPass hfind hq' hmany], hnone, hlast, hcores⟩
    case pass =>
      refine ⟨_, by rw [exec_selftestVerdict, verdict_pass hfind hq' hfew, nextTest_idle (by simpa [restored] using hwait)], ?_⟩
      simp [restored, hrun, hsubj]
    case abandoned =>
      have hnext := (verdict_abandoned (m := m) hfind hq').trans
        (nextTest_lone (testEnded_running hrun hsubj 2 m) (by rw [hwait]; rfl) (by rw [hsubj]; rfl))
      exact ⟨_, (exec_selftestVerdict ..).trans (congrArg (Host.Outcome.next <| settle ·) hnext), rfl, rfl, rfl, rfl⟩
  case raised =>
    exact ⟨_, by rw [exec_pathMonitorRead, pathMonitors_raises hps hm], by rw [(ageingWarned_frame _).1, raiseRail_svc]⟩
  case enough => exact ⟨_, by rw [exec_pathMonitorRead, pathMonitors_enough hps], ageingWarned_frame s⟩

end Sys2Proof.Machine
end

section
/-!
PROOFS. What the registers of the head read as after reset (Tables 2.7 to 16.9).
-/
namespace Sys2Proof.Machine
open Sys2Proof

/-- Settles O48: a register by its place in the map, and a table by its being empty at reset. -/
theorem registersAfterReset : Obligations.RegistersAfterReset := by
  unfold Obligations.RegistersAfterReset
  refine ⟨?_, ?_, ?_, ?_, ?_, ?_, ?_, ?_, ?_, ?_, ?_, ?_, ?_, ?_, ?_, ?_, ?_, ?_, ?_, ?_, fun n => ⟨rfl, rfl⟩, fun k => rfl, fun p => rfl, fun n => rfl, rfl, rfl, rfl⟩
  all_goals decide +kernel
end Sys2Proof.Machine
end

section
/-!
PROOFS. The Lodge's commands on DRAM, the Conservatory and the latency monitors (R364, R365, R382 to R384, R454, R455).
-/
namespace Sys2Proof.Machine
open Sys2Proof

/-! ### DRAM_TRAIN (R364) -/

/-- A trained channel serves and holds no poisoned line. -/
def Trained (c : Dmc) : Prop := c.state = 2 ∧ c.poisoned = []

theorem trained_trainChannel (n : Nat) (s : State) : Trained (dmcOf (trainChannel n s) n) := by
  simp only [trainChannel, show ∀ t : State, dmcOf (draw t) n = dmcOf t n from fun _ => rfl, dmcOf_setDmc_self]
  exact ⟨rfl, rfl⟩

theorem dmcOf_trainChannel_other {n k : Nat} (s : State) (h : k ≠ n) : dmcOf (trainChannel n s) k = dmcOf s k :=
  dmcOf_setDmc_other (n := n) _ s h

/-- Every channel trained, and any that was, is trained after the channels of a list. -/
theorem trained_foldl {k : Nat} (l : List Nat) (s : State) (h : k ∈ l ∨ Trained (dmcOf s k)) :
    Trained (dmcOf (l.foldl (fun s n => trainChannel n s) s) k) := by
  induction l generalizing s with
  | nil => exact h.resolve_left List.not_mem_nil
  | cons n l ih =>
    refine ih _ ?_
    by_cases hk : k = n
    · exact .inr (hk ▸ trained_trainChannel n s)
    · rw [dmcOf_trainChannel_other s hk]
      exact h.imp_left fun hmem => (List.mem_cons.1 hmem).resolve_left hk

/-- Training moves the channels and the draws alone. -/
theorem foldl_trainChannel_frame (l : List Nat) (s : State) : ∃ ch d,
    l.foldl (fun s n => trainChannel n s) s = { s with dram := { s.dram with ch := ch }, draws := d } := by
  induction l generalizing s with
  | nil => exact ⟨_, _, rfl⟩
  | cons n l ih => exact ih (trainChannel n s)

/-- The channels that the first byte of DRAM_TRAIN names. -/
def trainChans (c : Nat) : List Nat := if c = 255 then List.range 24 else [c]

section
variable {c : Nat} {s : State} (hc : c < 24 ∨ c = 255)
include hc

theorem dramTrainH_pauses : dramTrainH [BitVec.ofNat 8 c, 0] s = (.now .ok,
    (trainChans c).foldl (fun s n => (List.range 4).foldl (fun s r =>
      if rankServes (dmcOf s n) r then pauseRank n r (payRefresh n r s) else s) s) s) := by
  have hn : fieldLE [BitVec.ofNat 8 c, 0] 0 1 = c := fieldLE_small (by omega) _
  have hm : fieldLE [BitVec.ofNat 8 c, 0] 1 1 = 0 := rfl
  have hok : ¬((24 ≤ c ∧ c ≠ 255) ∨ 2 ≤ 0) := by omega
  simp only [dramTrainH, hn, hm, hok, if_false, if_true, trainChans]

theorem dramTrainH_trains (hallow : trainAllowed s = true) (hjob : JobFree s) :
    dramTrainH [BitVec.ofNat 8 c, 1] s = (.now (jobReply s), finishJob s.kiosk.jobCount .success []
      ((trainChans c).foldl (fun s n => trainChannel n s)
        { started 0x0610 c 0 s with sec := { (started 0x0610 c 0 s).sec with lodgeMem := [] } })) := by
  have hn : fieldLE [BitVec.ofNat 8 c, 1] 0 1 = c := fieldLE_small (by omega) _
  have hm : fieldLE [BitVec.ofNat 8 c, 1] 1 1 = 1 := rfl
  have hok : ¬((24 ≤ c ∧ c ≠ 255) ∨ 2 ≤ 1) := by omega
  simp only [dramTrainH, hn, hm, hok, hallow, Bool.not_true, Bool.false_eq_true, one_ne_zero, if_false, trainChans]
  exact withJob_free hjob ..

end

theorem trainChans_of {c : Nat} {chans : List Nat} (h : c < 24 ∧ chans = [c] ∨ c = 255 ∧ chans = List.range 24) :
    (c < 24 ∨ c = 255) ∧ trainChans c = chans := by
  rcases h with ⟨hc, rfl⟩ | ⟨rfl, rfl⟩
  · exact ⟨.inl hc, if_neg (by omega)⟩
  · exact ⟨.inr rfl, if_pos rfl⟩

/-! ### RANK_RETIRE (R365) -/

section
variable {n r : Nat} {s : State} (hp : (rankOf (dmcOf s n) r).present = true) (hr : (rankOf (dmcOf s n) r).retired = false)
  (hm : (dmcOf s n).migrating = false) (hv : (dmcOf s n).spareValid = true)
include hp hr hm hv

theorem rankOut_spare (hs : (dmcOf s n).spare = r) : rankOut n r s = record 6 3 2 (.dramRank n r) (leN 1 2)
    (setDmc n (setRank r { rankOf (dmcOf s n) r with retired := true } { dmcOf s n with spareValid := false }) s) := by
  simp [rankOut, hp, hr, hm, hv, hs]

theorem rankOut_migrates (hs : (dmcOf s n).spare ≠ r) : rankOut n r s = record 6 3 2 (.dramRank n r) (leN 1 0)
    (setDmc n { dmcOf s n with migrating := true, ptr := 0, fromRank := r, toRank := (dmcOf s n).spare, spareValid := false } s) := by
  simp [rankOut, hp, hr, hm, hv, hs.symm]

end

/-- The two bytes of RANK_RETIRE. -/
theorem fieldLE_rank (ch : Fin 24) (r : Fin 4) : fieldLE [BitVec.ofNat 8 ch, BitVec.ofNat 8 r] 0 1 = ch ∧
    fieldLE [BitVec.ofNat 8 ch, BitVec.ofNat 8 r] 1 1 = r :=
  ⟨fieldLE_small (by omega) _, (fieldLE_cons_succ ..).trans (fieldLE_small (by omega) _)⟩

section
variable {ch : Fin 24} {r : Fin 4} {s : State} (hp : (rankOf (dmcOf s ch) r).present = true)
  (hr : (rankOf (dmcOf s ch) r).retired = false) (hm : (dmcOf s ch).migrating = false) (hv : (dmcOf s ch).spareValid = true)
include hp hr hm hv

theorem rankRetireH_spare (hs : (dmcOf s ch).spare = r) :
    rankRetireH [BitVec.ofNat 8 ch, BitVec.ofNat 8 r] s = (.now .ok, rankOut ch r s) := by
  obtain ⟨hch, hrank⟩ := fieldLE_rank ch r
  have hin : ¬(24 ≤ ch.val ∨ 4 ≤ r.val) := by omega
  simp [rankRetireH, hch, hrank, hin, hp, hr, hm, hv, hs]

theorem rankRetireH_migrates (hs : (dmcOf s ch).spare ≠ r) (hjob : JobFree s) :
    rankRetireH [BitVec.ofNat 8 ch, BitVec.ofNat 8 r] s = (.now (jobReply s), rankOut ch r (started 0x0611 ch r s)) := by
  obtain ⟨hch, hrank⟩ := fieldLE_rank ch r
  have hin : ¬(24 ≤ ch.val ∨ 4 ≤ r.val) := by omega
  have hmig : (dmcOf (rankOut ch r (started 0x0611 ch r s)) ch).migrating = true := by
    rw [rankOut_migrates (s := started 0x0611 ch r s) hp hr hm hv hs, dmcOf, (record_keeps ..).2.2.2.1]
    exact congrArg Dmc.migrating (dmcOf_setDmc_self ..)
  simp only [rankRetireH, hch, hrank, hp, hr, hm, hv, hs.symm]
  simp [hin, withJob_free hjob, hmig]

end

/-! ### WAY_LOCK, WAY_POWER and CACHE_MAINT (R382 to R384) -/

/-- A claim that nobody else holds is free for the expert session. -/
theorem claimFree_expert {cls idx : Nat} {s : State} (h : claimHolder s cls idx = none ∨ claimHolder s cls idx = some 0x0200) :
    claimFree s cls idx 0x0200 = true := by
  rcases h with h | h <;> simp [claimFree, h]

/-- The lock of way 12 + i is claimed and enabled, the way emptied, and its load begun. -/
def lockBegun (n i base len : Nat) (s : State) : State :=
  let t := lockEnable i (setBit (lockOf s.cns i).en 1 true) (setClaim 4 i 0x0200 s)
  onCns (fun c => putLock i { lockOf c i with
    loading := true, loaded := false, base := base / 128, len := len / 128, mailbox := some n } c) (clearWay (12 + i) t)

theorem lockBegun_locks (n i base len : Nat) (s : State) :
    claimHolder (lockBegun n i base len s) 4 i = some 0x0200 ∧ (lockOf (lockBegun n i base len s).cns i).loading = true ∧
    (lockOf (lockBegun n i base len s).cns i).loaded = false ∧ (lockOf (lockBegun n i base len s).cns i).base = base / 128 ∧
    (lockOf (lockBegun n i base len s).cns i).len = len / 128 ∧ (lockOf (lockBegun n i base len s).cns i).mailbox = some n ∧
    lockBegun n i base len s = { s with
      cns := (lockBegun n i base len s).cns
      dram := (lockBegun n i base len s).dram
      mons := (lockBegun n i base len s).mons
      kiosk := { s.kiosk with claims := (lockBegun n i base len s).kiosk.claims } } := by
  have hlock (l : CLock) (c : Cns) : lockOf (putLock i l c) i = l := tgetD_tset_self ..
  rw [show lockOf (lockBegun n i base len s).cns i = _ from hlock _ _]
  exact ⟨claimHolder_setClaim_self (s := s) .., rfl, rfl, rfl, rfl, rfl, rfl⟩

section
variable {n i : Nat} {p : Bytes} {s : State} (hi : fieldLE p 1 1 = i) (hlt : i < 4)
include hi hlt

theorem wayLockH_locks (hop : fieldLE p 0 1 = 1) (hclaim : claimHolder s 4 i = none ∨ claimHolder s 4 i = some 0x0200)
    (hrange : lockRangeOk s.cns (fieldLE p 4 8) (fieldLE p 12 4) = true) (hoff : s.cns.off.getLsbD (12 + i) = false)
    (hon : s.cns.powered.getLsbD (12 + i) = true) (hload : (lockOf s.cns i).loading = false) (hmaint : s.cns.maint = none) :
    wayLockH n p s = (.later, lockBegun n i (fieldLE p 4 8) (fieldLE p 12 4) s) := by
  have hin : ¬4 ≤ i := by omega
  have hfree : claimFree s 4 i 0x0200 = true := claimFree_expert hclaim
  simp [wayLockH, hop, hi, hin, hfree, hrange, hoff, hon, hload, hmaint, lockBegun, claimant]

theorem wayLockH_unlocksNone (hop : fieldLE p 0 1 = 0) (hclaim : claimHolder s 4 i = none) : wayLockH n p s = (.now .ok, s) := by
  have hin : ¬4 ≤ i := by omega
  have hfree : claimFree s 4 i (claimant n true) = true := claimFree_expert (.inl hclaim)
  simp [wayLockH, hop, hi, hin, hfree, hclaim]

theorem wayLockH_unlocks (hop : fieldLE p 0 1 = 0) (hclaim : claimHolder s 4 i = some 0x0200) :
    wayLockH n p s = (.now .ok, dropClaim 4 i (lockCut i (lockEnable i (setBit (lockOf s.cns i).en 1 false) s))) := by
  have hin : ¬4 ≤ i := by omega
  have hfree : claimFree s 4 i (claimant n true) = true := claimFree_expert (.inr hclaim)
  simp [wayLockH, hop, hi, hin, hfree, hclaim]

end

/-- The ways of an off mask leave allocation, and those it leaves out are powered. -/
def waysPowered (off : BitVec 16) (s : State) : State :=
  { force 0x0711 s with cns := { s.cns with off := off, powered := s.cns.powered ||| ~~~off } }

section
variable {n : Nat} {p : Bytes} {s : State} {off : BitVec 16} (hoff : off = BitVec.ofNat 16 (fieldLE p 0 2))
  (hlock : (List.range 16).any (fun w => off.getLsbD w && wayLocked s.cns w) = false) (hfour : 4 ≤ unlockedOn s.cns off)
include hoff hlock hfour

theorem wayPowerH_allowed : wayPowerH n p s = if off &&& (s.cns.powered ||| ~~~off) ≠ 0 then
      (.later, { waysPowered off s with cns := { (waysPowered off s).cns with wayReq := some n } })
    else (.now .ok, waysPowered off s) := by
  subst hoff
  simp [wayPowerH, hlock, Nat.not_lt.2 hfour, onCns, cleaning, waysPowered]

end

theorem cacheMaintH_idle {n : Nat} {p : Bytes} {s : State} (hop : fieldLE p 0 1 ≤ 1) (hflags : fieldLE p 1 1 ≤ 1)
    (hway : fieldLE p 1 1 = 1 → fieldLE p 2 1 < 16) (hbase : fieldLE p 4 8 % 128 = 0) (hlen : fieldLE p 12 4 % 128 = 0)
    (hidle : s.cns.maint = none) :
    cacheMaintH n p s = (.later, { s with cns := { s.cns with maint := some {
      inv := decide (fieldLE p 0 1 = 1), byWay := decide (fieldLE p 1 1 = 1), way := fieldLE p 2 1, base := fieldLE p 4 8 / 128
      lines := fieldLE p 12 4 / 128, mailbox := some n } } }) := by
  have hok : ¬(2 ≤ fieldLE p 0 1 ∨ 2 ≤ fieldLE p 1 1 ∨ (fieldLE p 1 1 = 1 ∧ 16 ≤ fieldLE p 2 1) ∨ fieldLE p 4 8 % 128 ≠ 0 ∨
      fieldLE p 12 4 % 128 ≠ 0) := by omega
  simp only [cacheMaintH, hok, hidle, if_false, Option.isSome_none, Bool.false_eq_true, onCns]

/-! ### MON_ARM and MON_READ (R454, R455) -/

theorem fieldLE_one (p : Bytes) (off : Nat) : fieldLE p off 1 = (byteAt p off).toNat := by
  have hbyte : byteAt p off = byteAt (p.drop off) 0 := by simp [byteAt]
  rw [hbyte, fieldLE, bslice]
  cases p.drop off <;> simp [leVal, byteAt]

/-- Unit u takes the probe, scale, filter and window that MON_ARM names. -/
def monSetUp (p : Bytes) (u : Nat) (s : State) : State :=
  setMon u { monOf s u with
    probe := BitVec.ofNat 6 (fieldLE p 1 1), scale := BitVec.ofNat 4 (fieldLE p 2 1)
    filter := BitVec.ofNat 32 (fieldLE p 4 4), windowMs := BitVec.ofNat 32 (fieldLE p 8 4) } s

/-- Unit u is claimed, enabled and armed for the expert session. -/
def monArmed (u : Nat) (s : State) : State := monArm u (monEnable u (setBit (monOf s u).en 0 true) (setClaim 3 u 0x0200 s))

section
variable {p : Bytes} {u : Nat} {s : State} (hu : fieldLE p 0 1 = u) (hlt : u < 32) (hprobe : fieldLE p 1 1 < 20)
  (hscale : fieldLE p 2 1 < 16) (hclaim : claimHolder s 3 u = none ∨ claimHolder s 3 u = some 0x0200)
include hu hlt hprobe hscale hclaim

theorem monArmH_free (hop : fieldLE p 3 1 < 2) : monArmH p s = (.now .ok, monArmH.act p u ((byteAt p 3).getLsbD 0) 0x0200 s) := by
  have hok : ¬(32 ≤ u ∨ 20 ≤ fieldLE p 1 1 ∨ 16 ≤ fieldLE p 2 1 ∨ 2 ≤ fieldLE p 3 1) := by omega
  rcases hclaim with h | h <;> simp [monArmH, hu, hok, h, claimant]

theorem monArmH_disarms (hop : fieldLE p 3 1 = 1) : monArmH p s =
    (.now .ok, dropClaim 3 u (monEnable u (setBit (monOf s u).en 0 false) (monStop u s))) := by
  have hbyte : byteAt p 3 = 1#8 := BitVec.eq_of_toNat_eq ((fieldLE_one p 3).symm.trans hop)
  rw [monArmH_free hu hlt hprobe hscale hclaim (by omega), hbyte]
  rfl

theorem monArmH_arms (hop : fieldLE p 3 1 = 0) : monArmH p s = (.now .ok, monArmed u (monSetUp p u s)) := by
  have hbyte : byteAt p 3 = 0#8 := BitVec.eq_of_toNat_eq ((fieldLE_one p 3).symm.trans hop)
  rw [monArmH_free hu hlt hprobe hscale hclaim (by omega), hbyte]
  rfl

end

/-- The armed unit runs with cleared values. -/
theorem monOf_monArmed_self (u : Nat) (s : State) : ∃ en winner stamp, monOf (monArmed u s) u =
    { monOf s u with en := en, winner := winner, running := true, armStamp := stamp, live := {} } :=
  ⟨_, _, _, (monOf_setMon_self ..).trans
    (congrArg (fun m : Mon => { m with running := true, armStamp := s.mons.stamp + 1, live := {} }) (monOf_setMon_self ..))⟩

theorem monOf_monArmed_other {u k : Nat} (s : State) (hk : k ≠ u) : monOf (monArmed u s) k = monOf s k :=
  (monOf_setMon_other _ _ hk).trans (monOf_setMon_other _ _ hk)

/-- The report of a unit's registers and its shadow. -/
def monReport (m : Mon) : Bytes :=
  leN 1 m.probe.toNat ++ leN 1 m.scale.toNat ++ leN 1 (b2n m.running) ++ zeros 1 ++ leN 4 m.filter.toNat ++
    leN 4 m.shadow.elapsed ++ leN 8 m.shadow.count ++ leN 8 m.shadow.sum ++ leN 4 m.shadow.min ++ leN 4 m.shadow.max ++
    leN 4 m.shadow.overCnt ++ zeros 8 ++ (List.range 64).foldl (fun b k => b ++ leN 4 (tgetD m.shadow.buckets k 0)) []

theorem monReadH_unit {p : Bytes} {u : Nat} {s : State} (hu : fieldLE p 0 1 = u) (hlt : u < 32) :
    monReadH p s = (.now (.ok (monReport (monOf (monSnap u s) u))), monSnap u s) := by
  subst hu
  exact if_neg (Nat.not_le.2 hlt)

theorem monReport_fields (m : Mon) : fieldLE (monReport m) 12 8 = m.shadow.count % 2 ^ 64 ∧
    fieldLE (monReport m) 20 8 = m.shadow.sum % 2 ^ 64 ∧ fieldLE (monReport m) 28 4 = m.shadow.min % 2 ^ 32 ∧
    fieldLE (monReport m) 32 4 = m.shadow.max % 2 ^ 32 := by
  simp [monReport, List.append_assoc, fieldLE_append_right, fieldLE_leN_append]

/-- A snap shows the values counted so far. -/
theorem shadow_monSnap (u : Nat) (s : State) : ∃ t, (monOf (monSnap u s) u).shadow = { (monOf s u).live with elapsed := t } := by
  cases h : (monOf s u).running with
  | true => exact ⟨freeNat s % 2 ^ 32, by rw [monSnap_running h, monOf_draw, monOf_setMon_self, snapped]⟩
  | false => exact ⟨(monOf s u).live.elapsed, by rw [monSnap_stopped h, monOf_setMon_self]⟩

/-! ### The commands -/

section
variable (n : Fin 64) (s : State)

theorem exec_dramTrain : exec (.dramTrain n) s = .next (basmos n 0x0610 (layoutIs 2 []) dramTrainH s) := rfl
theorem exec_rankRetire : exec (.rankRetire n) s = .next (basmos n 0x0611 (layoutIs 2 []) rankRetireH s) := rfl
theorem exec_wayLock : exec (.wayLock n) s = .next (basmos n 0x0710 (layoutIs 16 [(2, 2)]) (wayLockH n) s) := rfl
theorem exec_wayPower : exec (.wayPower n) s = .next (basmos n 0x0711 (layoutIs 4 [(2, 2)]) (wayPowerH n) s) := rfl
theorem exec_cacheMaint : exec (.cacheMaint n) s = .next (basmos n 0x0712 (layoutIs 16 [(3, 1)]) (cacheMaintH n) s) := rfl
theorem exec_monArm : exec (.monArm n) s = .next (basmos n 0x0910 (layoutIs 16 [(12, 4)]) monArmH s) := rfl
theorem exec_monRead : exec (.monRead n) s = .next (basmos n 0x0911 (layoutIs 4 [(1, 3)]) monReadH s) := rfl

end

/-- Settles O13: each command's handler by its branch. -/
theorem dramCacheAndMonitorCommands : Obligations.DramCacheAndMonitorCommands := by
  unfold Obligations.DramCacheAndMonitorCommands
  refine ⟨fun n s c chans msg hc => ⟨fun h => ?pauses, fun h hallow hjob => ?trains⟩, fun n s ch r msg h hp hr hm hv hs => ?spare,
    fun n s ch r msg c hc h hp hr hm hv hs hjob => ?migrates,
    fun n s p msg i h hlay hop hi hlt hclaim hrange hoff hon hload hmaint => ?locks,
    fun n s p msg i h hlay hop hi hlt => ⟨fun hclaim => ?unlocksNone, fun hclaim => ?unlocks⟩,
    fun n s p msg off h hlay hoff hlock hfour => ⟨waysPowered off s, ?powered, fun hclean => ?clean, fun hdirty => ?cleans⟩,
    fun n s p msg h hlay hop hflags hway hbase hlen hidle => ⟨_, rfl, ?maint⟩,
    fun n s p msg u h hlay hu hlt hprobe hscale hclaim => ⟨fun hop => ?disarms, fun hop => ?arms⟩, fun n s u msg h => ?read⟩
  case pauses =>
    obtain ⟨hchan, rfl⟩ := trainChans_of hc
    rw [exec_dramTrain, basmos_now (layout := layoutIs 2 []) h (layoutIs_nil rfl) (dramTrainH_pauses hchan)]
  case trains =>
    obtain ⟨hchan, rfl⟩ := trainChans_of hc
    obtain ⟨ch, d, hframe⟩ := foldl_trainChannel_frame (trainChans c)
      { started 0x0610 c 0 s with sec := { (started 0x0610 c 0 s).sec with lodgeMem := [] } }
    refine ⟨_, by rw [exec_dramTrain, basmos_now (layout := layoutIs 2 []) h (layoutIs_nil rfl) (dramTrainH_trains hchan hallow hjob)], ?_, ?_,
      fun k hk => trained_foldl _ _ (.inl hk)⟩
    · rw [hframe]; rfl
    · rw [hframe]; rfl
  case spare =>
    rw [exec_rankRetire, basmos_now h rfl (rankRetireH_spare hp hr hm hv hs), rankOut_spare hp hr hm hv hs]
  case migrates =>
    subst hc
    rw [exec_rankRetire, basmos_now h rfl (rankRetireH_migrates hp hr hm hv hs hjob)]
    exact congrArg (fun t => Host.Outcome.next (answer n msg (jobReply s) t)) (rankOut_migrates (s := started 0x0611 ch r s) hp hr hm hv hs)
  case locks =>
    refine ⟨_, by rw [exec_wayLock, basmos_later h hlay (wayLockH_locks hi hlt hop hclaim hrange hoff hon hload hmaint)], ?_⟩
    exact lockBegun_locks n i (fieldLE p 4 8) (fieldLE p 12 4) s
  case unlocksNone => rw [exec_wayLock, basmos_now h hlay (wayLockH_unlocksNone hi hlt hop hclaim)]
  case unlocks => rw [exec_wayLock, basmos_now h hlay (wayLockH_unlocks hi hlt hop hclaim)]
  case powered => rfl
  case clean =>
    rw [exec_wayPower, basmos_now h hlay ((wayPowerH_allowed hoff hlock hfour).trans (if_neg (not_not.2 hclean)))]
  case cleans =>
    rw [exec_wayPower, basmos_later h hlay ((wayPowerH_allowed hoff hlock hfour).trans (if_pos hdirty))]
    rfl
  case maint => rw [exec_cacheMaint, basmos_later h hlay (cacheMaintH_idle hop hflags hway hbase hlen hidle)]
  case disarms => rw [exec_monArm, basmos_now h hlay (monArmH_disarms hu hlt hprobe hscale hclaim hop)]
  case arms =>
    obtain ⟨en, winner, stamp, hself⟩ := monOf_monArmed_self u (monSetUp p u s)
    refine ⟨_, by rw [exec_monArm, basmos_now h hlay (monArmH_arms hu hlt hprobe hscale hclaim hop)], ?_⟩
    rw [hself, monSetUp, monOf_setMon_self]
    refine ⟨claimHolder_setClaim_self .., rfl, rfl, rfl, rfl, rfl, rfl, fun k hk => ?_, rfl⟩
    exact (monOf_monArmed_other _ hk).trans (monOf_setMon_other _ _ hk)
  case read =>
    have hu : fieldLE [BitVec.ofNat 8 u, 0, 0, 0] 0 1 = u := fieldLE_small (by omega) _
    obtain ⟨t, hshadow⟩ := shadow_monSnap u s
    have hfields := monReport_fields (monOf (monSnap u s) u)
    rw [hshadow] at hfields
    exact ⟨_, by rw [exec_monRead, basmos_now h rfl (monReadH_unit hu u.isLt)], monSnap_stopped, hfields⟩

end Sys2Proof.Machine
end

section
/-!
PROOFS. The digest engine, the public-key accelerator and the random source (R397 to R401, Table 14.10).
-/
namespace Sys2Proof.Machine
open Sys2Proof

/-! ### Access by the owner and by others (R399) -/

section
variable {u : Nat} {s : State}

theorem dgtOwned_owner (f : Digest → State → State) (h : s.sec.dgt.owner = u) : dgtOwned u f s = f s.sec.dgt s := if_pos h

theorem dgtOwned_other (f : Digest → State → State) (h : s.sec.dgt.owner ≠ u) :
    dgtOwned u f s = setDgt { s.sec.dgt with denied := true } s := if_neg h

end

/-! ### The operations of a message (R397) -/

section
variable {u : Nat} {s : State} (hown : s.sec.dgt.owner = u)
include hown

theorem digestStart_plain (alg : BitVec 2) (k : BitVec 6) : digestStart u alg false false k s = setDgt { s.sec.dgt with
    alg := alg, hmac := false, restore := false, slot := k, buf := [], done := false, active := true, digest := []
    state := dgtSplit alg.toNat (algInit alg.toNat), len := 0 } s := by
  simp [digestStart, dgtOwned_owner _ hown]

theorem digestStart_slotDenied (alg : BitVec 2) {k : BitVec 6} (hslot : dgtSlotAllowed s u k.toNat = false) :
    digestStart u alg true false k s = setDgt { s.sec.dgt with
      alg := alg, hmac := true, restore := false, slot := k, slotDenied := true } s := by
  simp [digestStart, dgtOwned_owner _ hown, hslot]

theorem digestDataWrite_busy (w : Word) (hbusy : s.sec.dgt.busy = true) :
    digestDataWrite u w s = setDgt { s.sec.dgt with overrun := true } s := by
  simp [digestDataWrite, dgtOwned_owner _ hown, hbusy]

theorem digestDataWrite_active (w : Word) (hbusy : s.sec.dgt.busy = false) (hactive : s.sec.dgt.active = true) :
    digestDataWrite u w s = setDgt { s.sec.dgt with
      buf := s.sec.dgt.buf ++ [w], len := s.sec.dgt.len + 32
      busy := decide (s.sec.dgt.buf.length + 1 = dgtBlockWords s.sec.dgt) } s := by
  simp [digestDataWrite, dgtOwned_owner _ hown, hbusy, hactive]

theorem digestFinal_inactive (n : BitVec 2) (hactive : s.sec.dgt.active = false) : digestFinal u n s = s := by
  simp [digestFinal, dgtOwned_owner _ hown, hactive]

/-- The end of a message: done rises with a digest, and the engine holds no block and no state. -/
theorem digestFinal_active (n : BitVec 2) (hactive : s.sec.dgt.active = true) : ∃ digest,
    digestFinal u n s = setDgt { s.sec.dgt with
      lastBytes := n, busy := false, buf := [], active := false, done := true, state := [], digest := digest } s ∧
    (s.sec.dgt.hmac = false → n = 0 → digest = (pieces 4 17 ((shaBytes (algParams s.sec.dgt.alg.toNat)
      (shaFinish (algParams s.sec.dgt.alg.toNat) (dgtJoin s.sec.dgt.alg.toNat s.sec.dgt.state) (dgtBufBytes s.sec.dgt)
        s.sec.dgt.len)).take (algLen s.sec.dgt.alg.toNat))).map (fun b => BitVec.ofNat 32 (beVal b))) := by
  simp only [digestFinal, dgtOwned_owner _ hown, hactive, Bool.not_true, Bool.false_eq_true, if_false]
  refine ⟨_, rfl, fun hplain hzero => ?_⟩
  simp [hplain, hzero]

end

theorem digestBlockDone_idle {s : State} (h : s.sec.dgt.busy = false) : digestBlockDone s = s := by
  simp [digestBlockDone, h]

theorem digestBlockDone_busy {s : State} (h : s.sec.dgt.busy = true) : digestBlockDone s = setDgt { s.sec.dgt with
    busy := false, buf := []
    state := dgtSplit s.sec.dgt.alg.toNat (shaBlocks (algParams s.sec.dgt.alg.toNat)
      (dgtJoin s.sec.dgt.alg.toNat s.sec.dgt.state) (dgtBufBytes s.sec.dgt)) } s := by
  simp [digestBlockDone, h]

/-! ### Claims of the engine (R399, Table 14.10) -/

section
variable {s : State}

theorem dgtGrant_owned (h : s.sec.dgt.owner ≠ 3) : dgtGrant s = s := if_pos (.inl h)

theorem dgtGrant_nobody (h : s.sec.dgt.pending = 0) : dgtGrant s = s := if_pos (.inr h)

theorem dgtGrant_free {p : BitVec 3} {u : Nat} (hown : s.sec.dgt.owner = 3) (hpend : s.sec.dgt.pending = p) (hp : p ≠ 0)
    (hu : lowestUser p = u) :
    dgtGrant s = setClaim 7 0 (dgtHolder u) (setDgt { s.sec.dgt with owner := u, pending := setBit p u false } s) := by
  subst hpend hu
  exact if_neg (not_or.2 ⟨not_not.2 hown, hp⟩)

/-- What a request of one user leaves pending. -/
def dgtAsks (req : BitVec 3) (d : Digest) : BitVec 3 :=
  (d.pending ||| req) &&& ~~~(if d.owner = 3 then 0 else BitVec.ofNat 3 (2 ^ d.owner))

theorem digestClaimRequest_one {req : BitVec 3} (h : ¬1 < usersOn req) :
    digestClaimRequest req s = dgtGrant (setDgt { s.sec.dgt with pending := dgtAsks req s.sec.dgt } s) := by
  simp only [digestClaimRequest, h, if_false, dgtAsks]

theorem digestClaimRequest_free (hown : s.sec.dgt.owner = 3) (hpend : s.sec.dgt.pending = 0) :
    (digestClaimRequest 1 s).sec.dgt.owner = 0 ∧ (digestClaimRequest 1 s).sec.dgt.pending = 0 := by
  have hask : dgtAsks 1 s.sec.dgt = 1 := by simp [dgtAsks, hown, hpend]
  rw [digestClaimRequest_one (by decide), hask, dgtGrant_free (s := setDgt { s.sec.dgt with pending := 1 } s) (p := 1) (u := 0) hown rfl (by decide) (by decide)]
  exact ⟨rfl, show setBit (1 : BitVec 3) 0 false = 0 by decide⟩

theorem digestClaimRequest_held (hown : s.sec.dgt.owner < 3) (hpend : s.sec.dgt.pending = 0) :
    (digestClaimRequest 4 s).sec.dgt.owner = s.sec.dgt.owner ∧
    (digestClaimRequest 4 s).sec.dgt.pending = if s.sec.dgt.owner = 2 then 0 else 4 := by
  have hask : dgtAsks 4 s.sec.dgt = if s.sec.dgt.owner = 2 then 0 else 4 := by
    obtain h | h | h : s.sec.dgt.owner = 0 ∨ s.sec.dgt.owner = 1 ∨ s.sec.dgt.owner = 2 := by omega
    all_goals simp [dgtAsks, h, hpend]
  rw [digestClaimRequest_one (by decide), hask, dgtGrant_owned (s := setDgt { s.sec.dgt with pending := if s.sec.dgt.owner = 2 then 0 else 4 } s) (Nat.ne_of_lt hown)]
  exact ⟨rfl, rfl⟩

theorem dgtRelease_nobody (h : s.sec.dgt.pending = 0) : dgtRelease s = { setDgt {
      pending := s.sec.dgt.pending, overrun := s.sec.dgt.overrun, denied := s.sec.dgt.denied, slotDenied := s.sec.dgt.slotDenied } s with
    kiosk := { s.kiosk with claims := terase s.kiosk.claims (claimKey 7 0) } } :=
  if_pos (.inr h)

end

/-! ### The accelerator and the random source (R400, R401) -/

theorem pkaDone_empty {ok : Bool} {s : State} (h : s.sec.pkaQ = []) : pkaDone ok s = s := by
  simp [pkaDone, h]

theorem pkaDone_runs {ok : Bool} {s : State} {op : Nat} {rest : List Nat} (h : s.sec.pkaQ = op :: rest) :
    pkaDone ok s = { s with sec := { s.sec with
      pkaQ := rest, pkaFault := !ok, pkaOps := satAdd 16 s.sec.pkaOps 1, pkaOp := rest.headD s.sec.pkaOp } } := by
  simp [pkaDone, h]

theorem drbgReseed_runs {s : State} (h : s.sec.rngHalted = false) :
    drbgReseed s = { s with sec := { s.sec with drbgReqs := 0, rngReady := true } } := by
  simp [drbgReseed, h]

theorem drbgReseed_halted {s : State} (h : s.sec.rngHalted = true) : drbgReseed s = s := if_pos h

/-! ### The commands -/

section
variable (u : Fin 3) (s : State)

theorem exec_digestStart (alg : BitVec 2) (hmac restore : Bool) (k : BitVec 6) :
    exec (.digestStart u alg hmac restore k) s = .next (digestStart u alg hmac restore k s) := rfl
theorem exec_digestDataWrite (w : Word) : exec (.digestDataWrite u w) s = .next (digestDataWrite u w s) := rfl
theorem exec_digestFinal (n : BitVec 2) : exec (.digestFinal u n) s = .next (digestFinal u n s) := rfl
theorem exec_digestRelease : exec (.digestRelease u) s = .next (dgtOwned u (fun _ s => dgtRelease s) s) := rfl
theorem exec_digestBlockDone : exec .digestBlockDone s = .next (digestBlockDone s) := rfl
theorem exec_digestClaimRequest (req : BitVec 3) : exec (.digestClaimRequest req) s = .next (digestClaimRequest req s) := rfl
theorem exec_digestWindowIdleTimeout : exec .digestWindowIdleTimeout s = .next (digestWindowIdleTimeout s) := rfl
theorem exec_pkaOperationDone (ok : Bool) : exec (.pkaOperationDone ok) s = .next (pkaDone ok s) := rfl
theorem exec_drbgReseed : exec .drbgReseed s = .next (drbgReseed s) := rfl

end

/-- Settles O41: each operation by its branch, the owner's and another user's apart. -/
theorem digestPublicKeyAndRandom : Obligations.DigestPublicKeyAndRandom := by
  unfold Obligations.DigestPublicKeyAndRandom
  refine ⟨fun u alg k s d hd hown => ?start, fun u w s d hd hown => ?data, fun u w n s d hd hown => ?others,
    fun u n s hown hactive => ?inactive, fun s hbusy => ?noBlock, fun s d hd hbusy => ?block,
    fun u n s d hd hown hactive hplain => ?final, fun s hown hpend => ?asksFree, fun s hown hpend => ?asksHeld,
    fun u s hown hpend => ?release, fun s hown => ?idle, fun s hown => ?noWindow, fun ok s h => ?noPka,
    fun ok s op rest h => ?pka, fun s => ⟨rfl, rfl, rfl⟩, fun s => ⟨fun h => ?reseed, fun h => ?halted⟩⟩
  case start =>
    subst hd
    exact ⟨by rw [exec_digestStart, digestStart_plain hown]; rfl,
      fun hslot => by rw [exec_digestStart, digestStart_slotDenied hown alg hslot]; rfl⟩
  case data =>
    subst hd
    exact ⟨fun hbusy => by rw [exec_digestDataWrite, digestDataWrite_busy hown w hbusy]; rfl,
      fun hbusy hactive => by rw [exec_digestDataWrite, digestDataWrite_active hown w hbusy hactive]; rfl⟩
  case others =>
    subst hd
    exact ⟨fun _ _ _ _ => congrArg Host.Outcome.next (dgtOwned_other _ hown), congrArg Host.Outcome.next (dgtOwned_other _ hown),
      congrArg Host.Outcome.next (dgtOwned_other _ hown), congrArg Host.Outcome.next (dgtOwned_other _ hown)⟩
  case inactive => rw [exec_digestFinal, digestFinal_inactive hown n hactive]
  case noBlock => rw [exec_digestBlockDone, digestBlockDone_idle hbusy]
  case block =>
    subst hd
    rw [exec_digestBlockDone, digestBlockDone_busy hbusy]
    rfl
  case final =>
    subst hd
    obtain ⟨digest, hfinal, hdigest⟩ := digestFinal_active hown n hactive
    exact ⟨_, (exec_digestFinal ..).trans (congrArg _ hfinal), rfl, rfl, rfl, rfl, rfl, hdigest hplain⟩
  case asksFree => exact ⟨_, exec_digestClaimRequest .., digestClaimRequest_free hown hpend⟩
  case asksHeld => exact ⟨_, exec_digestClaimRequest .., digestClaimRequest_held hown hpend⟩
  case release =>
    refine ⟨_, (exec_digestRelease ..).trans (congrArg _ ((dgtOwned_owner _ hown).trans (dgtRelease_nobody hpend))),
      rfl, rfl, rfl, rfl, fun holder hclaims => ?_⟩
    simp [claimHolder, hclaims, terase, tget]
  case idle => rw [exec_digestWindowIdleTimeout, digestWindowIdleTimeout, if_pos hown]
  case noWindow => rw [exec_digestWindowIdleTimeout, digestWindowIdleTimeout, if_neg hown]
  case noPka => rw [exec_pkaOperationDone, pkaDone_empty h]
  case pka => rw [exec_pkaOperationDone, pkaDone_runs h]
  case reseed => rw [exec_drbgReseed, drbgReseed_runs h]
  case halted => rw [exec_drbgReseed, drbgReseed_halted h]

end Sys2Proof.Machine
end

section
/-!
PROOFS. Key slots and queue 2 of the cipher engine (R387 to R390, Tables 14.2 to 14.5).
-/
namespace Sys2Proof.Machine
open Sys2Proof

/-! ### Slot operations (R390, Table 14.5) -/

theorem keyDataWrite_idle {i : Nat} {w : Word} {s : State} (h : s.sec.keyOp = none) :
    keyDataWrite i w s = { s with sec := { s.sec with keyData := s.sec.keyData.set i w } } := by
  simp [keyDataWrite, h]

theorem keyDataWrite_waiting {i : Nat} {w : Word} {s : State} (h : s.sec.keyOp.isSome = true) :
    keyDataWrite i w s = { s with sec := { s.sec with keyErr := true } } := if_pos h

theorem loadSlot_retired {k : Nat} (key : Bytes) (purpose domain version : Nat) {s : State} (h : (slotOf s k).retired = true) :
    loadSlot k key purpose domain version s = s := if_pos (.inl h)

theorem loadSlot_live {k : Nat} (key : Bytes) (purpose domain version : Nat) {s : State} (hret : (slotOf s k).retired = false)
    (hk : k ≠ 4095) : loadSlot k key purpose domain version s = { s with sec := { s.sec with
      slots := tset s.sec.slots k { key := key, purpose := purpose, domain := domain, version := version, kcv := keyCheck key }
      kcv := BitVec.ofNat 32 (keyCheck key), keyData := [0, 0, 0, 0, 0, 0, 0, 0] } } :=
  if_neg (by simp [hret, hk])

theorem zeroiseSlot_of_ne {k : Nat} (s : State) (h : k ≠ 4095) : zeroiseSlot k s = setSlot k { slotOf s k with key := [], kcv := 0 } s :=
  if_neg h

/-- The operation that a start on a slot asks for. -/
def keyOpOf (slot : Nat) (zero : Bool) (s : State) : KeyOp :=
  { slot := slot, zeroise := zero, key := (s.sec.keyData.map (fun w => leN 4 w.toNat)).flatten }

/-- CPH_KEY_CTL names the slot and the operation. -/
def keyCtl (slot : Nat) (zero : Bool) (s : State) : State :=
  { s with sec := { s.sec with ctlSlot := BitVec.ofNat 12 slot, ctlOp := zero } }

section
variable {k : Nat} {zero : Bool} {s : State}

theorem startKeyOp_ignored (h : s.sec.keyOp.isSome = true ∨ k = 4095) : startKeyOp k zero s = s := if_pos h

variable (hop : s.sec.keyOp = none) (hk : k ≠ 4095)
include hop hk

theorem startKeyOp_free (hfree : ∀ j ∈ q2Waiting s.sec, descNames (q2Desc s j) k = false) :
    startKeyOp k zero s = applyKeyOp (keyOpOf k zero s) (keyCtl k zero s) := by
  have hany : ¬(q2Waiting s.sec).any (fun j => descNames (q2Desc s j) k) = true := by simpa using hfree
  exact (if_neg (by simp [hop, hk])).trans (if_neg hany)

theorem startKeyOp_waits {j : Nat} (hj : j ∈ q2Waiting s.sec) (hname : descNames (q2Desc s j) k = true) :
    startKeyOp k zero s = { keyCtl k zero s with sec := { (keyCtl k zero s).sec with
      keyOp := some (keyOpOf k zero s), keyData := if zero then s.sec.keyData else [0, 0, 0, 0, 0, 0, 0, 0] } } :=
  (if_neg (by simp [hop, hk])).trans (if_pos (List.any_eq_true.2 ⟨j, hj, hname⟩))

end

/-! ### Queue 2 (R387, R388) -/

theorem foldl_monBegin (probe : Nat) (l : List Nat) (s : State) : ∃ m,
    l.foldl (fun s k => monBegin probe k s) s = { s with mons := m } := by
  induction l generalizing s with
  | nil => exact ⟨_, rfl⟩
  | cons a l ih => exact ih _

/-- The queue is full when the submitted tail meets the head, and stays so when nothing is submitted. -/
theorem q2Full_submit (tail old head : BitVec 8) (full : Bool) :
    ((decide (0 < (tail - old).toNat) && decide (tail = head)) || (full && decide ((tail - old).toNat = 0))) =
      if tail = old then full else decide (tail = head) := by
  by_cases h : tail = old
  · simp [h]
  · have hne : (tail - old).toNat ≠ 0 := fun h0 => h (by bv_omega)
    rw [if_neg h, decide_eq_true (Nat.pos_of_ne_zero hne), decide_eq_false hne, Bool.true_and, Bool.and_false, Bool.or_false]

theorem q2Submit_adds {tail : BitVec 8} {s : State} {added : List Nat}
    (h : added = (List.range (tail - s.sec.q2Tail).toNat).map (fun i => (s.sec.q2Tail.toNat + i) % 256)) :
    ∃ m, q2Submit tail s = { s with
      mons := m
      sec := { s.sec with
        q2Tail := tail
        q2Full := if tail = s.sec.q2Tail then s.sec.q2Full else decide (tail = s.sec.q2Head)
        q2Busy := s.sec.q2Busy ++ (s.sec.keyOp.elim [] (fun op => added.filter (fun k => descNames (q2Desc s k) op.slot))) } } := by
  subst h
  obtain ⟨m, hm⟩ := foldl_monBegin 19
    ((List.range (tail - s.sec.q2Tail).toNat).map (fun i => (s.sec.q2Tail.toNat + i) % 256)) { s with sec := { s.sec with
      q2Tail := tail
      q2Full := (decide (0 < (tail - s.sec.q2Tail).toNat) && decide (tail = s.sec.q2Head)) ||
        (s.sec.q2Full && decide ((tail - s.sec.q2Tail).toNat = 0))
      q2Busy := s.sec.q2Busy ++ (s.sec.keyOp.elim [] (fun op =>
        ((List.range (tail - s.sec.q2Tail).toNat).map (fun i => (s.sec.q2Tail.toNat + i) % 256)).filter
          (fun k => descNames (q2Desc s k) op.slot))) } }
  rw [q2Full_submit] at hm
  refine ⟨m, .trans ?_ hm⟩
  rw [← q2Full_submit]
  cases hop : s.sec.keyOp <;> simp only [q2Submit, hop, Option.elim]

/-- A slot operation that waits applies once no entry waits that names its slot. -/
def q2Release (s : State) : State :=
  match s.sec.keyOp with
  | none => s
  | some op =>
    if (q2Waiting s.sec).any (fun j => descNames (q2Desc s j) op.slot && !s.sec.q2Busy.contains j) then s
    else applyKeyOp op { s with sec := { s.sec with keyOp := none } }

theorem q2Release_none {s : State} (h : s.sec.keyOp = none) : q2Release s = s := by
  simp [q2Release, h]

theorem q2Release_empty {s : State} {op : KeyOp} (h : s.sec.keyOp = some op) (hempty : q2Waiting s.sec = []) :
    q2Release s = applyKeyOp op { s with sec := { s.sec with keyOp := none } } := by
  simp [q2Release, h, hempty]

/-- The security engines after entry k of queue 2 ended with outcome o and the bytes it writes. -/
def q2Ended (id k o : Nat) (bytes : Bytes) (s : State) : Sec := { s.sec with
  lodgeMem := memPuts (memPuts s.sec.lodgeMem (fieldLE (q2Desc s k) 24 8) bytes) (s.sec.q2Base.toNat + 16384 + 16 * k)
    (leN 4 id ++ leN 1 o ++ zeros 3 ++ leN 4 (if o = 0 then fieldLE (q2Desc s k) 4 4 else 0) ++ zeros 4)
  q2Head := s.sec.q2Head + 1
  q2Full := false
  q2Busy := s.sec.q2Busy.filter (· ≠ k)
  tagFail := satAdd 16 s.sec.tagFail (if o = 2 then 1 else 0)
  poisoned := satAdd 16 s.sec.poisoned (if o = 4 then 1 else 0) }

theorem q2Done_other {id : Nat} {poisoned : Bool} {s : State}
    (h : q2Count s.sec = 0 ∨ fieldLE (q2Desc s s.sec.q2Head.toNat) 56 4 ≠ id) : q2Done id poisoned s = s := if_pos h

theorem q2Done_head {id k o : Nat} {poisoned : Bool} {bytes : Bytes} {s : State} (hk : s.sec.q2Head.toNat = k)
    (hcount : q2Count s.sec ≠ 0) (hid : fieldLE (q2Desc s k) 56 4 = id) (hrun : q2Run s k poisoned = (o, bytes)) :
    ∃ m, q2Done id poisoned s = q2Release (if o = 3 then
      record 8 1 1 .none (leN 4 id) { s with mons := m, sec := q2Ended id k o bytes s }
    else { s with mons := m, sec := q2Ended id k o bytes s }) := by
  subst hk
  have hmine : ¬(q2Count s.sec = 0 ∨ fieldLE (q2Desc s s.sec.q2Head.toNat) 56 4 ≠ id) := by simp [hcount, hid]
  refine ⟨s.mons.ending 19 s.sec.q2Head.toNat 2, ?_⟩
  simp only [q2Done, hmine, if_false, hrun, b2n, decide_eq_true_eq]
  rfl

/-- The queue is empty once the head reaches the tail. -/
theorem q2Waiting_of_head_eq {c : Sec} (hfull : c.q2Full = false) (h : c.q2Tail = c.q2Head) : q2Waiting c = [] := by
  simp [q2Waiting, q2Count, hfull, h]

/-! ### A parity error of a slot (R390) -/

theorem errorOn_sec (sub cls : Nat) (subj : Subject) (detail : Bytes) (s : State) : (errorOn sub cls subj detail s).sec = s.sec := by
  simp only [errorOn, startTest, apply_ite State.sec, record_sec, ite_self]

theorem slotParity_ignored {k : Nat} {s : State} (h : (slotOf s k).key = [] ∨ k = 4095) : slotParity k s = s :=
  if_pos (h.imp_left List.isEmpty_iff.2)

/-- Slot k's parity error recorded on the slot, which is emptied. -/
def slotLost (k : Nat) (s : State) : State :=
  errorOn 8 2 (.keySlot false k) [] (setSlot k { slotOf s k with key := [], kcv := 0 } s)

theorem slotOf_slotLost_key (k : Nat) (s : State) : (slotOf (slotLost k s) k).key = [] := by
  simp only [slotOf, slotLost, errorOn_sec]
  exact congrArg KeySlot.key (slotOf_setSlot_self ..)

section
variable {k : Nat} {s : State} (hkey : (slotOf s k).key ≠ []) (hk : k ≠ 4095) (hwait : q2Waiting s.sec = [])
include hkey hk hwait

/-- With no request waiting, the slot is emptied; then firmware loads the KEK or a key with a blob again. -/
theorem slotParity_quiet (hblob : k = 3072 ∨ 1 < (slotOf s k).purpose) :
    slotParity k s = if k = 3072 then loadKek (slotLost k s) else slotLost k s := by
  have hrun : ¬((slotOf s k).key.isEmpty ∨ k = 4095) := by simp [hkey, hk]
  have hlost : { slotLost k s with sec := { (slotLost k s).sec with
      q2Busy := (slotLost k s).sec.q2Busy ++ ([] : List Nat).filter (fun j => !(slotLost k s).sec.q2Busy.contains j) } } =
      slotLost k s := by
    rw [List.filter_nil, List.append_nil]
  simp only [slotParity, hrun, if_false, hwait, List.filter_nil, zeroiseSlot_of_ne s hk]
  rw [List.filter_nil] at hlost
  rw [show errorOn 8 2 (.keySlot false k) [] (setSlot k { slotOf s k with key := [], kcv := 0 } s) = slotLost k s from rfl, hlost]
  by_cases h : k = 3072
  · simp only [h, if_true]
  · have hpurpose : ¬(slotOf s k).purpose ≤ 1 := Nat.not_le.2 (hblob.resolve_left h)
    simp only [h, if_false, hpurpose]

end

/-! ### The commands -/

section
variable (s : State)

theorem exec_keyDataWrite (i : Fin 8) (w : Word) : exec (.keyDataWrite i w) s = .next (keyDataWrite i w s) := rfl
theorem exec_keySlotLoad (k : Fin 4096) : exec (.keySlotLoad k) s = .next (startKeyOp k false s) := rfl
theorem exec_keySlotZeroise (k : Fin 4096) : exec (.keySlotZeroise k) s = .next (startKeyOp k true s) := rfl
theorem exec_cipherQueue2Submit (tail : BitVec 8) : exec (.cipherQueue2Submit tail) s = .next (q2Submit tail s) := rfl
theorem exec_keySlotParityError (k : Fin 4096) : exec (.keySlotParityError k) s = .next (slotParity k s) := rfl
theorem exec_cipherRequestDone_two (id : Nat) (poisoned : Bool) :
    exec (.cipherRequestDone 2 id poisoned) s = .next (q2Done id poisoned s) := rfl

theorem exec_cipherRequestDone_other {q : Fin 3} (id : Nat) (poisoned : Bool) (h : q ≠ 2) :
    exec (.cipherRequestDone q id poisoned) s =
      .next (if poisoned then { s with sec := { s.sec with poisoned := satAdd 16 s.sec.poisoned 1 } } else s) :=
  congrArg Host.Outcome.next (if_neg fun hq => h (Fin.ext hq))

end

/-- A slot is slot 4,095 exactly when its number is. -/
theorem slot_ne_4095 {k : Fin 4096} (h : k ≠ 4095) : k.val ≠ 4095 := fun hv => h (Fin.ext hv)

/-- Settles O40: slot operations by whether queue 2 names the slot, and its requests by the entry at the head. -/
theorem keySlotsAndQueueTwo : Obligations.KeySlotsAndQueueTwo := by
  unfold Obligations.KeySlotsAndQueueTwo
  refine ⟨fun i w s => ⟨fun h => ?dataIdle, fun h => ?dataWaiting⟩,
    fun k s key hop hk hfree hkey => ⟨fun hret => ?retired, fun hret => ?loads, ?zeroises⟩,
    fun k s j hop hk hj hname => ⟨?loadWaits, ?zeroiseWaits⟩, fun k s h => ⟨?loadIgnored, ?zeroiseIgnored⟩,
    fun tail s added h => ?submit,
    fun id poisoned s k o bytes c hk hcount hid hrun hc => ⟨fun hop => ?done, fun op hop hfull htail ho => ?applies⟩,
    fun id poisoned s h => ?otherEntry, fun q id s h => ⟨?poisoned, ?clean⟩, fun k s h => ?emptySlot,
    fun s hkey hwait => ?kek, fun k s hkey hk hkek hpurpose hwait => ?lost⟩
  case dataIdle => rw [exec_keyDataWrite, keyDataWrite_idle h]
  case dataWaiting => rw [exec_keyDataWrite, keyDataWrite_waiting h]
  case retired =>
    rw [exec_keySlotLoad, startKeyOp_free hop (slot_ne_4095 hk) hfree]
    exact congrArg Host.Outcome.next (loadSlot_retired (s := keyCtl k false s) _ 3 0 0 hret)
  case loads =>
    subst hkey
    rw [exec_keySlotLoad, startKeyOp_free hop (slot_ne_4095 hk) hfree]
    exact congrArg Host.Outcome.next (loadSlot_live (s := keyCtl k false s) _ 3 0 0 hret (slot_ne_4095 hk))
  case zeroises =>
    rw [exec_keySlotZeroise, startKeyOp_free hop (slot_ne_4095 hk) hfree]
    exact congrArg Host.Outcome.next (zeroiseSlot_of_ne (keyCtl k true s) (slot_ne_4095 hk))
  case loadWaits => exact congrArg Host.Outcome.next (startKeyOp_waits hop (slot_ne_4095 hk) hj hname)
  case zeroiseWaits => exact congrArg Host.Outcome.next (startKeyOp_waits hop (slot_ne_4095 hk) hj hname)
  case loadIgnored => rw [exec_keySlotLoad, startKeyOp_ignored (h.imp_right fun hk => congrArg Fin.val hk)]
  case zeroiseIgnored => rw [exec_keySlotZeroise, startKeyOp_ignored (h.imp_right fun hk => congrArg Fin.val hk)]
  case submit =>
    obtain ⟨m, hm⟩ := q2Submit_adds h
    exact ⟨m, by rw [exec_cipherQueue2Submit, hm]⟩
  case done =>
    subst hc
    obtain ⟨m, hm⟩ := q2Done_head hk hcount hid hrun
    refine ⟨m, ?_⟩
    rw [exec_cipherRequestDone_two, hm, q2Release_none]
    · rfl
    · simp only [apply_ite State.sec, record_sec, ite_self]
      exact hop
  case applies =>
    subst hc
    obtain ⟨m, hm⟩ := q2Done_head hk hcount hid hrun
    have hempty : q2Waiting (q2Ended id k o bytes s) = [] := q2Waiting_of_head_eq rfl htail
    refine ⟨m, ?_⟩
    rw [exec_cipherRequestDone_two, hm, if_neg ho]
    exact congrArg Host.Outcome.next (q2Release_empty (s := { s with mons := m, sec := q2Ended id k o bytes s }) hop hempty)
  case otherEntry => rw [exec_cipherRequestDone_two, q2Done_other h]
  case poisoned => exact exec_cipherRequestDone_other s id true h
  case clean => exact exec_cipherRequestDone_other s id false h
  case emptySlot => rw [exec_keySlotParityError, slotParity_ignored (h.imp_right fun hk => congrArg Fin.val hk)]
  case kek =>
    exact congrArg Host.Outcome.next (slotParity_quiet hkey (by decide) hwait (.inl rfl))
  case lost =>
    have hne : k.val ≠ 3072 := fun hv => hkek (Fin.ext hv)
    refine ⟨slotLost k s, ?_, slotOf_slotLost_key k s, rfl⟩
    rw [exec_keySlotParityError, slotParity_quiet hkey (slot_ne_4095 hk) hwait (.inr hpurpose), if_neg hne]

end Sys2Proof.Machine
end

section
/-!
PROOFS. The Gatehouse's pins, timers, counters and temperature sensors (R415 to R418, R424, R427, R428, R469 to R471).
-/
namespace Sys2Proof.Machine
open Sys2Proof

/-! ### Wake sources (R417, R418) -/

section
variable {k : Nat} {s : State}

theorem fireWake_disabled (h : s.gh.wakeEn.getLsbD k = false) :
    fireWake k s = { s with gh := { s.gh with fired := setBit s.gh.fired k true } } :=
  if_neg fun hen => Bool.false_ne_true (h.symm.trans hen.1)

theorem fireWake_asleep (h : s.gh.wakeEn.getLsbD k = true) (hst : s.gh.state = .watch ∨ s.gh.state = .dormant) :
    fireWake k s = startWake { s with gh := { s.gh with fired := setBit s.gh.fired k true } } := if_pos ⟨h, hst⟩

end

theorem smbusMatch_dark {s : State} (hst : s.gh.state ≠ .icehouse) (hlive : smbLive s = false) :
    smbusMatch s = fireWake 0 { s with
      out := s.out ++ [.smbAck], ghx := { s.ghx with smbStretch := true, smbNack := false } } := by
  have hno : ¬(s.gh.state = .icehouse ∨ smbLive { s with ghx := { s.ghx with smbNack := false } } = true) := by
    rintro (h | h)
    · exact hst h
    · exact Bool.false_ne_true (hlive.symm.trans h)
  exact congrArg (fireWake 0) (if_neg hno)

theorem smbusMatch_live {s : State} (h : s.gh.state = .icehouse ∨ smbLive s = true) :
    smbusMatch s = fireWake 0 { s with ghx := { s.ghx with smbNack := false } } :=
  congrArg (fireWake 0) (if_pos h)

theorem smbusStretchEnd_stretched {s : State} (h : s.ghx.smbStretch = true) :
    smbusStretchEnd s = { s with ghx := { s.ghx with smbStretch := false, smbNack := true } } := if_pos h

theorem gpioEdge_eq (k : Nat) (s : State) : gpioEdge k s = if (gpioOf s k).func = 2 then
    fireWake 4 (setGpio k { gpioOf s k with input := false } s) else setGpio k { gpioOf s k with input := false } s := by
  simp [gpioEdge]

/-! ### Timers (R427, R428) -/

/-- The pulse outputs that follow timer t go low. -/
def pulsesLow (t : Nat) (s u : State) : State :=
  (pulsePins s t).foldl (fun s k => setGpio k { gpioOf s k with pulseLow := true } s) u

theorem pulsesLow_of_no_pins {t : Nat} {s : State} (h : pulsePins s t = []) (u : State) : pulsesLow t s u = u := by
  rw [pulsesLow, h, List.foldl_nil]

/-- Timer t has run to its end. -/
def timerFired (t : Nat) (s : State) : State :=
  pulsesLow t s (setTimer t { timerOf s t with fired := true, counting := (timerOf s t).periodic } s)

theorem timerExpiry_counting {t : Nat} {s : State} (h : (timerOf s t).counting = true) : timerExpiry t s =
    if (timerOf s t).wake then fireWake 3 { timerFired t s with
      gh := { (timerFired t s).gh with firedTmr := setBit (timerFired t s).gh.firedTmr t true } } else timerFired t s :=
  if_neg (by simp [h])

/-! ### Crystal, operating time and watchdog (R415, R416, R424, R469) -/

theorem xtalFails_heard {s : State} (h : s.ghx.xtalIgnored = false) :
    xtalFails s = record 3 1 2 .none [] { s with gh := { s.gh with xtalFail := true } } := by
  simp [xtalFails, h, note]

/-- The operating time after one more second, which stops at its end. -/
def nextSecond (g : Gh) : Gh :=
  if 3599 ≤ g.seconds then (if g.hours = 2 ^ 24 - 1 then g else { g with seconds := 0, hours := g.hours + 1 })
  else { g with seconds := g.seconds + 1 }

theorem gh_operatingTick (s : State) : (operatingTick s).gh = nextSecond s.gh := by
  simp only [operatingTick, nextSecond, decide_eq_true_eq]

theorem watchdogExpiry_enabled {s : State} (h : s.gh.wdogEn = true) :
    watchdogExpiry s = warmReset (record 1 8 3 .none [] { s with gh := { s.gh with rstWdog := true, wdogKicks := 0 } }) := by
  simp [watchdogExpiry, h, note]

theorem watchdogExpiry_disabled {s : State} (h : s.gh.wdogEn = false) : watchdogExpiry s = s := by
  simp [watchdogExpiry, h]

/-! ### Temperature (R470, R471) -/

/-- The readings of a sample are taken over. -/
def sampled (l : List Nat) (s : State) : State := { s with ghx := { s.ghx with
  tj := maxBy (fun n => n) l, tjComp := maxBy (fun n => n) (l.take 4), tjMax := max s.ghx.tjMax (maxBy (fun n => n) l) } }

/-- At or below 105 °C the next time above it is a first one. -/
def below105 (s : State) : State := { s with ghx := { s.ghx with hot105 := false } }

section
variable {l : List Nat} {n : Nat} {s : State} (hl : l ≠ []) (hn : maxBy (fun n => n) l = n)
include hl hn

section
variable (hcool : n ≤ 105)
include hcool

theorem tjSample_stays (hthr : s.ghx.throttled = false) (h : n < tThr s) : tjSample l s = below105 (sampled l s) := by
  have hempty : l.isEmpty = false := by simpa using hl
  simp [tjSample, hempty, hn, hthr, Nat.not_le.2 h, Nat.not_lt.2 hcool, below105, sampled]

theorem tjSample_throttles (hthr : s.ghx.throttled = false) (h : tThr s ≤ n) : tjSample l s =
    below105 (record 9 6 2 .none [] { sampled l s with ghx := { (sampled l s).ghx with throttled := true } }) := by
  have hempty : l.isEmpty = false := by simpa using hl
  simp [tjSample, hempty, hn, hthr, h, Nat.not_lt.2 hcool, below105, sampled, note]

theorem tjSample_recovers (hthr : s.ghx.throttled = true) (h : n + 3 ≤ tThr s) : tjSample l s =
    below105 (adjustAllowance false { sampled l s with
      ghx := { (sampled l s).ghx with throttled := false, thermalCap := 400 } }) := by
  have hempty : l.isEmpty = false := by simpa using hl
  simp [tjSample, hempty, hn, hthr, h, Nat.not_lt.2 hcool, below105, sampled]

end

theorem tjSample_overheats (hhot : 105 < n) (hthr : s.ghx.throttled = true) (hfirst : s.ghx.hot105 = false)
    (h : tThr s < n + 3) : tjSample l s = overheated (sampled l s) := by
  have hempty : l.isEmpty = false := by simpa using hl
  simp [tjSample, hempty, hn, hthr, hfirst, hhot, Nat.not_le.2 h, sampled]

end

theorem throttleStep_throttled {s : State} (h : s.ghx.throttled = true) : throttleStep s = adjustAllowance false
    { s with ghx := { s.ghx with thermalCap := max 40 (min s.ghx.thermalCap s.lat.cap - 40) } } := if_pos h

theorem tjCooled_cool {s : State} (hfence : s.ghx.thermalFence = true) (hcool : s.ghx.tj ≤ 95) :
    tjCooled s = if s.pair.fenced then sendHello { s with ghx := { s.ghx with thermalFence := false } }
      else { s with ghx := { s.ghx with thermalFence := false } } := if_pos ⟨hfence, hcool⟩

/-! ### The commands -/

section
variable (s : State)

theorem exec_smbusAddressMatch : exec .smbusAddressMatch s = .next (settle (smbusMatch s)) := rfl
theorem exec_smbusStretchTimeout : exec .smbusStretchTimeout s = .next (settle (smbusStretchEnd s)) := rfl
theorem exec_gpioWakeEdge (k : Fin 16) : exec (.gpioWakeEdge k) s = .next (settle (gpioEdge k s)) := rfl
theorem exec_ghTimerExpiry (t : Fin 8) : exec (.ghTimerExpiry t) s = .next (settle (timerExpiry t s)) := rfl
theorem exec_xtalFail : exec .xtalFail s = .next (settle (xtalFails s)) := rfl
theorem exec_operatingTimeTick : exec .operatingTimeTick s = .next (settle (operatingTick s)) := rfl
theorem exec_watchdogExpiry : exec .watchdogExpiry s = .next (settle (watchdogExpiry s)) := rfl
theorem exec_tjSample (l : List Nat) : exec (.tjSample l) s = .next (settle (tjSample l s)) := rfl
theorem exec_thermalThrottleStep : exec .thermalThrottleStep s = .next (settle (throttleStep s)) := rfl
theorem exec_tjCoolTimer : exec .tjCoolTimer s = .next (settle (tjCooled s)) := rfl

end

/-- Settles O24: each pin, timer and sensor by its branch. -/
theorem gatehousePinsTimersAndSensors : Obligations.GatehousePinsTimersAndSensors := by
  unfold Obligations.GatehousePinsTimersAndSensors
  refine ⟨fun s hst hlive => ?dark, fun s h => ?live, fun s h => ?stretch, fun s => ⟨rfl, rfl⟩, fun k s g hg => ?edge,
    fun k s h => fireWake_disabled h, fun k s h hst => fireWake_asleep h hst, fun t s v hv hcount hwake => ?silent,
    fun t s v hv hcount hwake hpins => ?wakes, fun t ticks s => rfl, fun k s => rfl, fun s h => ?xtal, fun s => rfl,
    fun s h => ?second, fun s h hh => ?hour, fun s h hh => ?full, fun s => rfl, fun s => rfl, fun s h => ?watchdog,
    fun s h => ?noWatchdog, fun l n s x hl hn hx => ⟨fun hc ht h => ?stays, fun hc ht h => ?throttles,
      fun hc ht h => ?recovers, fun hhot ht hfirst h => ?overheats⟩, fun s h => ?step,
    fun s hf hc hfenced => ?rejoins, fun s hf hc hfenced => ?cooled⟩
  case dark => rw [exec_smbusAddressMatch, smbusMatch_dark hst hlive]
  case live => rw [exec_smbusAddressMatch, smbusMatch_live h]
  case stretch => rw [exec_smbusStretchTimeout, smbusStretchEnd_stretched h]
  case edge =>
    subst hg
    rw [exec_gpioWakeEdge, gpioEdge_eq]
  case silent =>
    subst hv
    rw [exec_ghTimerExpiry, timerExpiry_counting hcount, if_neg (Bool.eq_false_iff.1 hwake)]
    rfl
  case wakes =>
    subst hv
    refine ⟨_, by rw [exec_ghTimerExpiry, timerExpiry_counting hcount, if_pos hwake], ?_⟩
    rw [timerFired, pulsesLow_of_no_pins hpins]
    exact ⟨rfl, rfl⟩
  case xtal => rw [exec_xtalFail, xtalFails_heard h]
  case second =>
    have hgh : (operatingTick s).gh = { s.gh with seconds := s.gh.seconds + 1 } :=
      (gh_operatingTick s).trans (if_neg (by omega))
    exact ⟨_, exec_operatingTimeTick s, hgh, rfl, rfl, rfl, rfl, rfl⟩
  case hour =>
    exact ⟨_, exec_operatingTimeTick s, (gh_operatingTick s).trans ((if_pos h.ge).trans (if_neg hh.ne))⟩
  case full =>
    exact ⟨_, exec_operatingTimeTick s, (gh_operatingTick s).trans ((if_pos h.ge).trans (if_pos hh))⟩
  case watchdog => rw [exec_watchdogExpiry, watchdogExpiry_enabled h]
  case noWatchdog => rw [exec_watchdogExpiry, watchdogExpiry_disabled h]
  case stays =>
    subst hx hn
    exact congrArg (fun t => Host.Outcome.next (settle t)) (tjSample_stays hl rfl hc ht h)
  case throttles =>
    subst hx hn
    exact ⟨_, congrArg (fun t => Host.Outcome.next (settle t)) (tjSample_throttles hl rfl hc ht h), rfl⟩
  case recovers =>
    subst hx hn
    exact ⟨_, congrArg (fun t => Host.Outcome.next (settle t)) (tjSample_recovers hl rfl hc ht h), rfl⟩
  case overheats =>
    subst hx hn
    exact congrArg (fun t => Host.Outcome.next (settle t)) (tjSample_overheats hl rfl hhot ht hfirst h)
  case step => rw [exec_thermalThrottleStep, throttleStep_throttled h]
  case rejoins => rw [exec_tjCoolTimer, tjCooled_cool hf hc, if_pos hfenced]
  case cooled => rw [exec_tjCoolTimer, tjCooled_cool hf hc, if_neg (Bool.eq_false_iff.1 hfenced)]

end Sys2Proof.Machine
end

section
/-!
PROOFS. The sleep sequences (R407, R408, R411, R419, R430, Tables 15.1 and 15.2).
-/
namespace Sys2Proof.Machine
open Sys2Proof

/-! ### The policy's timers (R430, Table 15.1) -/

/-- The head is on its way to a target, at step 2 of Table 15.2. -/
def sleepBegun (target : Nat) (job : Option Nat) (s : State) : State := { s with
  gh := { s.gh with state := .entering, target := target, slpResult := 0 }
  ghx := { s.ghx with trans := .sleep target 2 job } }

theorem idlePolicy_goes {s : State} (htarget : s.ghx.policy.target ≠ 0) (hst : s.gh.state = .serve) (htrans : s.ghx.trans = .none)
    (hgo : sleepRefused s = none) :
    idlePolicy s = startHandover (myVols (sleepBegun 1 none s)) true 0 none (sleepBegun 1 none s) :=
  if_pos ⟨htarget, hst, htrans, by rw [hgo]; rfl⟩

theorem dormantAfter_goes {s : State} (htarget : s.ghx.policy.target = 2) (hst : s.gh.state = .watch)
    (htrans : s.ghx.trans = .none) (hgo : dormantRefused s = none) : dormantAfter s = startDormant none s :=
  if_pos ⟨htarget, hst, htrans, by rw [hgo]; rfl⟩

/-! ### The Gatehouse part of a sleep (R407, R419, Table 15.2) -/

/-- GH_SLEEP_CTL takes the target. -/
def sleepAsked (target : Nat) (s : State) : State := { s with gh := { s.gh with slpTarget := BitVec.ofNat 2 target } }

/-- The Gatehouse part at step k, from step 4 with what sleep drops. -/
def gatehouseSleeps (target k : Nat) (job : Option Nat) (s : State) : State :=
  sleepAdvance (sleepRails target job (if k = 3 then sleepDrop s else s))

section
variable {target k : Nat} {job : Option Nat} {s : State}

theorem ghSleep_at (h : s.ghx.trans = .sleep target k job) (hk : k = 3 ∨ k = 5) : ghSleep target s =
    if wakePending (sleepAsked target s) then sleepAbandon (sleepAsked target s) else gatehouseSleeps target k job (sleepAsked target s) := by
  simp only [ghSleep, h, hk, and_self, if_true]
  rfl

theorem ghSleep_wakePending (h : s.ghx.trans = .sleep target k job) (hk : k = 3 ∨ k = 5) (hwake : wakePending s = true) :
    ghSleep target s = sleepAbandon (sleepAsked target s) := (ghSleep_at h hk).trans (if_pos hwake)

theorem ghSleep_watch (h : s.ghx.trans = .sleep target 3 job) (hwake : wakePending s = false) :
    ghSleep target s = sleepAdvance (sleepRails target job (sleepDrop (sleepAsked target s))) :=
  (ghSleep_at h (.inl rfl)).trans (if_neg (Bool.eq_false_iff.1 hwake))

theorem ghSleep_dormant (h : s.ghx.trans = .sleep target 5 job) (hwake : wakePending s = false) :
    ghSleep target s = sleepAdvance (sleepRails target job (sleepAsked target s)) :=
  (ghSleep_at h (.inr rfl)).trans (if_neg (Bool.eq_false_iff.1 hwake))

theorem ghSleep_fromWatch (htrans : s.ghx.trans = .none) (hst : s.gh.state = .watch) (hwake : wakePending s = false) :
    ghSleep 2 s = sleepAdvance (sleepRails 2 none (startDormant none (sleepAsked 2 s))) := by
  have hasked : wakePending (sleepAsked 2 s) = false := hwake
  have hstart : wakePending (startDormant none (sleepAsked 2 s)) = false := hwake
  have hgo : ghSleep 2 s = if wakePending (sleepAsked 2 s) then
      { sleepAsked 2 s with gh := { (sleepAsked 2 s).gh with slpResult := 2 } }
    else if wakePending (startDormant none (sleepAsked 2 s)) then sleepAbandon (startDormant none (sleepAsked 2 s))
    else gatehouseSleeps 2 5 none (startDormant none (sleepAsked 2 s)) := by
    simp only [ghSleep, htrans]
    exact if_pos ⟨hst, trivial⟩
  rw [hgo, hasked, hstart, if_neg Bool.false_ne_true, if_neg Bool.false_ne_true]
  rfl

end

/-! ### The commands -/

section
variable (s : State)

theorem exec_idlePolicyTimer : exec .idlePolicyTimer s = .next (settle (idlePolicy s)) := rfl
theorem exec_dormantAfterTimer : exec .dormantAfterTimer s = .next (settle (dormantAfter s)) := rfl
theorem exec_ghSleepWatch : exec .ghSleepWatch s = .next (settle (ghSleep 1 s)) := rfl
theorem exec_ghSleepDormant : exec .ghSleepDormant s = .next (settle (ghSleep 2 s)) := rfl

end

/-- Settles O25: each timer and each start of the Gatehouse part by its branch. -/
theorem sleepSequences : Obligations.SleepSequences := by
  unfold Obligations.SleepSequences
  refine ⟨fun s htarget hst htrans hgo => ?idle, fun s htarget hst htrans hgo => ?dormant, fun s job h hwake => ?watch,
    fun s job h hwake => ?watchPending, fun s job h hwake => ?dark, fun s job k h hk hwake => ?darkPending,
    fun s htrans hst hwake => ?fromWatch⟩
  case idle =>
    exact ⟨sleepBegun 1 none s, congrArg (fun t => Host.Outcome.next (settle t)) (idlePolicy_goes htarget hst htrans hgo),
      rfl, rfl, rfl, rfl⟩
  case dormant =>
    rw [exec_dormantAfterTimer, dormantAfter_goes htarget hst htrans hgo]
    rfl
  case watch => exact ⟨sleepAsked 1 s, by rw [exec_ghSleepWatch, ghSleep_watch h hwake], rfl⟩
  case watchPending => exact ⟨sleepAsked 1 s, by rw [exec_ghSleepWatch, ghSleep_wakePending h (.inl rfl) hwake], rfl⟩
  case dark => exact ⟨sleepAsked 2 s, by rw [exec_ghSleepDormant, ghSleep_dormant h hwake], rfl⟩
  case darkPending => exact ⟨sleepAsked 2 s, by rw [exec_ghSleepDormant, ghSleep_wakePending h hk hwake], rfl⟩
  case fromWatch =>
    exact ⟨startDormant none (sleepAsked 2 s), by rw [exec_ghSleepDormant, ghSleep_fromWatch htrans hst hwake], rfl, rfl, rfl, rfl⟩

end Sys2Proof.Machine
end

section
/-!
PROOFS. The rails and PLLs of a wake (R412, R413, R420, R433, Table 15.5).
-/
namespace Sys2Proof.Machine
open Sys2Proof

/-! ### The changes of a bus (R413) -/

@[simp] theorem avsQ_setAvsQ_self (b : Nat) (q : List AvsOp) (s : State) : avsQ (setAvsQ b q s) b = q := by
  by_cases h : b = 0 <;> simp [avsQ, setAvsQ, h]

/-- The change of a rail that the register asks for. -/
def ctlChange (rail : BitVec 2) (mv : BitVec 12) : AvsOp :=
  { rail := rail.toNat, target := mv.toNat, step := 0, acked := false, why := .ctl }

/-- GH_AVS_CTL takes rail and voltage. -/
def avsAsked (rail : BitVec 2) (mv : BitVec 12) (s : State) : State := { s with gh := { s.gh with avsRail := rail, avsMv := mv } }

/-- The asked change stands last on its bus. -/
def avsQueued (rail : BitVec 2) (mv : BitVec 12) (s : State) : State :=
  setAvsQ (railBus rail.toNat) (avsQ s (railBus rail.toNat) ++ [ctlChange rail mv]) (avsAsked rail mv s)

section
variable {rail : BitVec 2} {mv : BitVec 12} {s : State}

theorem avsStart_busy (h : avsBusy s = true) : avsStart rail mv s = s := if_pos h

variable (hidle : avsBusy s = false)
include hidle

theorem avsStart_discarded (h : rail = 3 ∨ maySet rail.toNat mv.toNat = false) : avsStart rail mv s = avsAsked rail mv s := by
  have hno : rail = 3 ∨ (!maySet rail.toNat mv.toNat) = true := h.imp_right fun hset => by rw [hset]; rfl
  exact (if_neg (Bool.eq_false_iff.1 hidle)).trans (if_pos hno)

theorem avsStart_pushes (hrail : rail ≠ 3) (hset : maySet rail.toNat mv.toNat = true) :
    avsStart rail mv s = pushAvs rail.toNat mv.toNat .ctl (avsAsked rail mv s) := by
  have hgo : ¬(rail = 3 ∨ (!maySet rail.toNat mv.toNat) = true) := by
    rw [hset]
    exact fun h => h.elim hrail Bool.false_ne_true
  exact (if_neg (Bool.eq_false_iff.1 hidle)).trans (if_neg hgo)

theorem avsStart_free (hrail : rail ≠ 3) (hset : maySet rail.toNat mv.toNat = true) (hq : avsQ s (railBus rail.toNat) = []) :
    avsStart rail mv s = avsSend (railBus rail.toNat) (avsQueued rail mv s) :=
  (avsStart_pushes hidle hrail hset).trans (if_pos (List.isEmpty_iff.2 hq))

theorem avsStart_waits (hrail : rail ≠ 3) (hset : maySet rail.toNat mv.toNat = true) (hq : avsQ s (railBus rail.toNat) ≠ []) :
    avsStart rail mv s = avsQueued rail mv s :=
  (avsStart_pushes hidle hrail hset).trans (if_neg fun h => hq (List.isEmpty_iff.1 h))

end

/-! ### Answers of a regulator (R413) -/

/-- The current that a regulator reports. -/
def avsMeasured (r ma : Nat) (s : State) : State := { s with gh := { s.gh with ma := s.gh.ma.set r (min ma 65535) } }

theorem popAvs_last {b : Nat} {op : AvsOp} {s : State} (h : avsQ s b = [op]) : popAvs b s = setAvsQ b [] s := by
  simp [popAvs, h, avsSend]

theorem avsReached_asked {op : AvsOp} (s : State) (h : op.why = .ctl ∨ op.why = .firmware) :
    avsReached op s = { s with gh := { s.gh with avsFail := 0 } } := by
  rcases h with h | h <;> simp [avsReached, h]

section
variable {b : Nat} {op : AvsOp} {s : State} (ma : Nat)

theorem avsResponse_reached (hq : avsQ s b = [op]) (hacked : op.acked = true) (hstep : op.step = op.target) :
    avsResponse b true true ma s = avsReached op (setAvsQ b [] (setMv op.rail op.target (avsMeasured op.rail ma s))) := by
  have hset : avsQ (setMv op.rail op.target (avsMeasured op.rail ma s)) b = [op] := hq
  simp only [avsResponse, avsAnswer, hq, hacked, hstep]
  simp only [Bool.not_true, Bool.false_eq_true, false_and, and_self, false_or, if_false, if_true]
  exact congrArg (avsReached op) (popAvs_last hset)

theorem avsResponse_acknowledges {rest : List AvsOp} (hq : avsQ s b = op :: rest) (hacked : op.acked = false)
    (hstep : op.step ≠ 0) : avsResponse b true false ma s = setAvsQ b ({ op with acked := true } :: rest) (avsMeasured op.rail ma s) := by
  simp [avsResponse, avsAnswer, hq, hacked, hstep, avsMeasured]

end

/-! ### Polls and timeouts (R413, R420) -/

section
variable {b : Nat} {op : AvsOp} {rest : List AvsOp} {s : State} (hq : avsQ s b = op :: rest)
include hq

theorem avsPoll_awaiting (hacked : op.acked = true) : avsPoll b s = emit (.avsStatus b) s := by
  simp [avsPoll, hq, hacked]

theorem avsAckTimeout_fails (hacked : op.acked = false) : avsAckTimeout b s = avsFails 1 op b s := by
  simp [avsAckTimeout, hq, hacked]

theorem avsVdoneTimeout_fails (hacked : op.acked = true) : avsVdoneTimeout b s = avsFails 2 op b s := by
  simp [avsVdoneTimeout, hq, hacked]

end

theorem avsFails_asked {op : AvsOp} (stage b : Nat) (s : State) (h : op.why = .ctl ∨ op.why = .firmware) :
    avsFails stage op b s =
      popAvs b (record 3 8 2 .none (leN 1 stage ++ leN 1 op.rail) { s with gh := { s.gh with avsFail := stage } }) := by
  rcases h with h | h <;> simp [avsFails, h]

/-! ### PLLs and attempts of a wake (R420) -/

section
variable {k n : Nat} {fw : Bool} {s : State}

theorem pllLock_on (h : mvOf s (if k = 0 then 0 else if k = 5 then 2 else 1) ≠ 0) :
    pllLock k s = pllsDone { s with ghx := { s.ghx with pllLocked := setBit s.ghx.pllLocked k true } } := if_neg h

theorem pllLock_off (h : mvOf s (if k = 0 then 0 else if k = 5 then 2 else 1) = 0) : pllLock k s = s := if_pos h

theorem pllTimeout_fails (h : s.ghx.trans = .wake fw .plls n ∨ (s.ghx.trans = .wake fw .pll0 n ∧ k = 0))
    (hlock : s.ghx.pllLocked.getLsbD k = false) : pllTimeout k s = wakeFail 3 k s := by
  refine (if_neg (Bool.eq_false_iff.1 hlock)).trans ?_
  obtain h | ⟨h, hk⟩ := h
  · simp only [h]
  · simp only [h, if_pos hk]

theorem retryWaitEnd_waiting (h : s.ghx.trans = .wake fw .retryWait n) : retryWaitEnd s = railsDone (wakeRails fw n s) := by
  simp [retryWaitEnd, h]

end

/-! ### The commands -/

section
variable (s : State)

theorem exec_avsChangeStart (rail : BitVec 2) (mv : BitVec 12) :
    exec (.avsChangeStart rail mv) s = .next (settle (avsStart rail mv s)) := rfl
theorem exec_avsResponse (b : Fin 2) (good vdone : Bool) (ma : Nat) :
    exec (.avsResponse b good vdone ma) s = .next (settle (avsResponse b good vdone ma s)) := rfl
theorem exec_avsStatusPoll (b : Fin 2) : exec (.avsStatusPoll b) s = .next (settle (avsPoll b s)) := rfl
theorem exec_avsAckTimeout (b : Fin 2) : exec (.avsAckTimeout b) s = .next (settle (avsAckTimeout b s)) := rfl
theorem exec_avsVdoneTimeout (b : Fin 2) : exec (.avsVdoneTimeout b) s = .next (settle (avsVdoneTimeout b s)) := rfl
theorem exec_pllLock (k : Fin 6) : exec (.pllLock k) s = .next (settle (pllLock k s)) := rfl
theorem exec_pllLockTimeout (k : Fin 6) : exec (.pllLockTimeout k) s = .next (settle (pllTimeout k s)) := rfl
theorem exec_wakeRetryWaitEnd : exec .wakeRetryWaitEnd s = .next (settle (retryWaitEnd s)) := rfl

end

/-- Settles O26: each event of a bus or a PLL by its branch. -/
theorem railsAndPllsOfAWake : Obligations.RailsAndPllsOfAWake := by
  unfold Obligations.RailsAndPllsOfAWake
  refine ⟨fun rail mv s hidle hrail hset hq => ?free, fun rail mv s hidle hrail hset hq => ?waits, fun rail mv s h => ?busy,
    fun rail mv s hidle h => ?discarded, fun b s op ma hq hwhy hacked hstep _ => ?reached,
    fun b s op rest ma hq hacked hstep => ?acknowledged,
    fun b s op rest hq => ⟨fun hacked => ?poll, fun hacked hwhy => ?ackTimeout, fun hacked hwhy => ?vdoneTimeout⟩,
    fun k s h => ?locks, fun k s h => ?off, fun k s fw n h hlock => ?lockTimeout, fun s fw n h => ?retry⟩
  case free =>
    exact ⟨avsQueued rail mv s, by rw [exec_avsChangeStart, avsStart_free hidle hrail hset hq],
      by rw [avsQueued, avsQ_setAvsQ_self, hq]; rfl, rfl, rfl⟩
  case waits =>
    exact ⟨avsQueued rail mv s, by rw [exec_avsChangeStart, avsStart_waits hidle hrail hset hq], avsQ_setAvsQ_self .., rfl, rfl⟩
  case busy => rw [exec_avsChangeStart, avsStart_busy h]
  case discarded =>
    rw [exec_avsChangeStart, avsStart_discarded hidle h]
    rfl
  case reached =>
    refine ⟨_, by rw [exec_avsResponse, avsResponse_reached ma hq hacked hstep, avsReached_asked _ hwhy], ?_, rfl, rfl, rfl⟩
    exact avsQ_setAvsQ_self b [] (setMv op.rail op.target (avsMeasured op.rail ma s))
  case acknowledged =>
    exact ⟨_, by rw [exec_avsResponse, avsResponse_acknowledges ma hq hacked hstep], avsQ_setAvsQ_self .., rfl⟩
  case poll => rw [exec_avsStatusPoll, avsPoll_awaiting hq hacked]
  case ackTimeout => exact ⟨_, by rw [exec_avsAckTimeout, avsAckTimeout_fails hq hacked, avsFails_asked 1 b s hwhy], rfl⟩
  case vdoneTimeout => exact ⟨_, by rw [exec_avsVdoneTimeout, avsVdoneTimeout_fails hq hacked, avsFails_asked 2 b s hwhy], rfl⟩
  case locks => rw [exec_pllLock, pllLock_on h]
  case off => rw [exec_pllLock, pllLock_off h]
  case lockTimeout =>
    rw [exec_pllLockTimeout, pllTimeout_fails (h.imp_right fun hk => ⟨hk.1, congrArg Fin.val hk.2⟩) hlock]
  case retry => rw [exec_wakeRetryWaitEnd, retryWaitEnd_waiting h]

end Sys2Proof.Machine
end

section
/-!
PROOFS. Resets and boot (R402, R403, R416, R422, R435, R444, R477, R482, Tables 14.13, 15.9 and 17.12).
-/
namespace Sys2Proof.Machine
open Sys2Proof

/-! ### What a reset of the Lodge side keeps (R422, Table 15.8) -/

/-- The warm-reset cause, the counts of power cycles and of blown fuses, the log, and the levels of two pins. -/
def latches (s : State) : Bool × Nat × Nat × List EvRec × Bool × Bool :=
  (s.gh.rstWarm, s.gh.pwrCycle, s.sec.fuseCount, s.evt.log, s.ghx.fenceIn, s.ghx.pwrFail)

section
variable {s t : State} (h : latches t = latches s)
include h

theorem rstWarm_of_latches : t.gh.rstWarm = s.gh.rstWarm := congrArg (·.1) h
theorem pwrCycle_of_latches : t.gh.pwrCycle = s.gh.pwrCycle := congrArg (·.2.1) h
theorem fuseCount_of_latches : t.sec.fuseCount = s.sec.fuseCount := congrArg (·.2.2.1) h
theorem log_of_latches : t.evt.log = s.evt.log := congrArg (·.2.2.2.1) h
theorem fenceIn_of_latches : t.ghx.fenceIn = s.ghx.fenceIn := congrArg (·.2.2.2.2.1) h
theorem pwrFail_of_latches : t.ghx.pwrFail = s.ghx.pwrFail := congrArg (·.2.2.2.2.2) h

end

theorem latches_of_offMedia {s t : State} (h : offMedia t = offMedia s) : latches t = latches s := (congrArg latches h :)

@[simp] theorem emit_latches (o : Out) (s : State) : latches (emit o s) = latches s := rfl

@[simp] theorem setAvsQ_latches (b : Nat) (q : List AvsOp) (s : State) : latches (setAvsQ b q s) = latches s := by
  simp only [setAvsQ]
  split <;> rfl

@[simp] theorem pushAvs_latches (r target : Nat) (why : AvsFor) (s : State) : latches (pushAvs r target why s) = latches s := by
  simp only [pushAvs, avsSend]
  repeat' split
  all_goals simp

/-- What the end of a session disables of the claims of classes 0 to 2 is pins and timers of the Gatehouse. -/
theorem disableRes_latches {cls : Nat} (h : cls ≤ 2) (bits : BitVec 3) (idx : Nat) (s : State) :
    latches (disableRes bits cls idx s) = latches s := by
  interval_cases cls <;> rfl

@[simp] theorem dropClaim_latches (cls idx : Nat) (s : State) : latches (dropClaim cls idx s) = latches s := by
  unfold dropClaim
  split <;> rfl

theorem releaseClaim_latches {key : Nat} (h : key / 65536 ≤ 2) (s : State) : latches (releaseClaim key s) = latches s := by
  simp [releaseClaim, apply_ite latches, disableRes_latches h]

theorem releaseClaims_latches {keys : List Nat} (h : ∀ k ∈ keys, k / 65536 ≤ 2) (s : State) :
    latches (keys.foldl (fun s k => releaseClaim k s) s) = latches s := by
  induction keys generalizing s with
  | nil => rfl
  | cons k keys ih =>
    rw [List.foldl_cons, ih fun j hj => h j (List.mem_cons_of_mem _ hj), releaseClaim_latches (h k List.mem_cons_self)]

theorem avsLapse_latches (s : State) : latches (avsLapse s) = latches s := by
  unfold avsLapse
  split
  · rfl
  · refine (foldl_keeps latches (fun s r => ?_) _ _).trans rfl
    split <;> simp

theorem wakeLapse_latches (s : State) : latches (wakeLapse s) = latches s := by
  unfold wakeLapse
  split <;> rfl

theorem sessionLost_latches (s : State) : latches (sessionLost s) = latches s := by
  unfold sessionLost
  split
  · rfl
  · refine (wakeLapse_latches _).trans ((avsLapse_latches _).trans (releaseClaims_latches (fun k hk => ?_) s))
    obtain ⟨e, he, rfl⟩ := List.mem_map.1 hk
    exact (of_decide_eq_true (List.mem_filter.1 he).2).2

theorem applyUnit_latches (asn unit : Nat) (s : State) : latches (applyUnit asn unit s) = latches s := by
  refine (foldl_keeps latches (fun s k => latches_of_offMedia (unpinChunk_offMedia k s)) _ _).trans ?_
  exact foldl_keeps latches (fun s (r : OwnRec) => latches_of_offMedia (applyRec_offMedia 0 r.r.off false r.r.body s))
    (unitRecs s asn unit) s

theorem dropWork_latches (s : State) : latches (dropWork s) = latches s := by
  refine (foldl_keeps latches (fun s k => latches_of_offMedia (freeIfDead_offMedia 4096 k s)) _ _).trans ?_
  refine foldl_keeps latches (fun s (u : UnitBook) => ?_) s.jrn.units s
  split
  · rfl
  · exact applyUnit_latches ..

theorem shutBands_latches (s : State) : latches (shutBands s) = latches s := by
  refine foldl_keeps latches (fun s g => ?_) _ _
  split
  · rfl
  · refine (foldl_keeps latches (fun s e => ?_) _ _).trans
      (foldl_keeps latches (fun _ _ => latches_of_offMedia (modRow_offMedia ..)) _ _)
    simp only
    split
    · exact latches_of_offMedia ((modSet_offMedia ..).trans (modSet_offMedia ..))
    · rfl

theorem cleared_latches (s : State) : latches (shutBands (dropWork (sessionLost s))) = latches s :=
  (shutBands_latches _).trans ((dropWork_latches _).trans (sessionLost_latches s))

section
variable (dram : Bool) (s : State)

theorem rstWarm_lodgeReset : (lodgeReset dram s).gh.rstWarm = s.gh.rstWarm := rstWarm_of_latches (cleared_latches s)
theorem pwrCycle_lodgeReset : (lodgeReset dram s).gh.pwrCycle = s.gh.pwrCycle := pwrCycle_of_latches (cleared_latches s)
theorem fuseCount_lodgeReset : (lodgeReset dram s).sec.fuseCount = s.sec.fuseCount := fuseCount_of_latches (cleared_latches s)
theorem log_lodgeReset : (lodgeReset dram s).evt.log = s.evt.log := log_of_latches (cleared_latches s)
theorem fenceIn_lodgeReset : (lodgeReset dram s).ghx.fenceIn = s.ghx.fenceIn := fenceIn_of_latches (cleared_latches s)

end

/-! ### Warm reset (R422, R435, Table 15.9) -/

/-- What the boot after a warm reset is for. -/
def warmBoot (s : State) : BootFor :=
  match s.ghx.boot with
  | .none => if s.jrn.restart ≠ .none ∧ s.jrn.keep.isSome then .icehouse else .warm
  | b => b

/-- A sleep that has not moved its rails is given up. -/
def sleepLeft (s : State) : State :=
  match s.ghx.trans with
  | .sleep _ k _ => if k ≤ 5 then enterState .serve s else s
  | _ => s

theorem sleepLeft_frame (s : State) : ∃ st target trans seen, sleepLeft s = { s with
    gh := { s.gh with state := st, target := target }, ghx := { s.ghx with trans := trans, hbSeen := seen } } := by
  unfold sleepLeft
  repeat' split
  all_goals exact ⟨_, _, _, _, rfl⟩

section
variable {s : State}

theorem warmReset_ignored (h : s.jrn.compacting = true ∨ lodgePowered s = false) : warmReset s = s :=
  if_pos (h.imp_right fun hdark => by rw [hdark]; rfl)

theorem warmReset_runs (hcomp : s.jrn.compacting = false) (hpow : lodgePowered s = true) :
    warmReset s = bootStart { sleepLeft (lodgeReset true s) with
      ghx := { (sleepLeft (lodgeReset true s)).ghx with boot := warmBoot s } } :=
  if_neg (by simp [hcomp, hpow])

theorem resetDelayEnd_due (hdue : s.ghx.pendingReset = true) (hfw : jobRuns s 0x0104 = false) :
    resetDelayEnd s = warmReset { s with gh := { s.gh with rstHead := true }, ghx := { s.ghx with pendingReset := false } } := by
  rw [resetDelayEnd, if_pos hdue, warmByLodge, hfw]
  rfl

end

/-! ### Power-on reset (R416, R422, R444, R477, R482, Table 17.12) -/

theorem gh_powerOnClear (s : State) : (powerOnClear s).gh = { pwrCycle := s.gh.pwrCycle } :=
  congrArg (fun n => ({ pwrCycle := n } : Gh)) (pwrCycle_lodgeReset false s)

theorem fuseCount_powerOnClear (s : State) : (powerOnClear s).sec.fuseCount = s.sec.fuseCount :=
  fuseCount_lodgeReset false s

theorem log_powerOnClear (s : State) : (powerOnClear s).evt.log = s.evt.log := log_lodgeReset false s

theorem fenceIn_powerOnClear (s : State) : (powerOnClear s).ghx.fenceIn = s.ghx.fenceIn := fenceIn_lodgeReset false s

theorem pwrFail_powerOnClear (s : State) : (powerOnClear s).ghx.pwrFail = s.ghx.pwrFail := pwrFail_lodgeReset false s

theorem restoreCounts_frame (s : State) : ∃ next h sec, restoreCounts s = { s with
    evt := { s.evt with nextSeq := next, lock := true }
    gh := { s.gh with hours := h, seconds := sec, optLock := true } } := ⟨_, _, _, rfl⟩

theorem ringPut_lock (r : EvRec) (e : Evt) : (ringPut r e).lock = e.lock := rfl

theorem ringFill_lock (e : Evt) : (ringFill e).lock = e.lock := by
  simp only [ringFill]
  split <;> simp only [ringPut_lock]

theorem ringAdd_lock (r : EvRec) (e : Evt) : (ringAdd r e).lock = e.lock := by
  unfold ringAdd
  split <;> simp only [ringPut_lock, ringFill_lock]

theorem record_lock (sub lo cls : Nat) (subj : Subject) (detail : Bytes) (s : State) :
    (record sub lo cls subj detail s).evt.lock = s.evt.lock := by
  have hnew : (record.recordNew (256 * sub + lo) cls subj detail s).evt.lock = s.evt.lock := by
    obtain ⟨counts, since, marks, h⟩ := recordNew_evt (256 * sub + lo) cls subj detail s
    rw [h]
    exact ringAdd_lock ..
  simp only [record]
  repeat' split
  · rfl
  · exact hnew
  · exact hnew

/-- What the head-board record does not touch. -/
def offBoard (s : State) : Gh × Sec × Pair × Bool × Bool × Bool × BitVec 4 :=
  (s.gh, s.sec, s.pair, s.evt.lock, s.ghx.pwrFail, s.ghx.fenceIn, s.ghx.strap)

theorem record_offBoard (sub lo cls : Nat) (subj : Subject) (detail : Bytes) (s : State) :
    offBoard (record sub lo cls subj detail s) = offBoard s := by
  have hlock := record_lock sub lo cls subj detail s
  obtain ⟨e, o, p, h⟩ := record_frame sub lo cls subj detail s
  rw [h] at hlock
  rw [h]
  exact congrArg (fun lock => (s.gh, s.sec, s.pair, lock, s.ghx.pwrFail, s.ghx.fenceIn, s.ghx.strap)) hlock

theorem takeBoard_offBoard (straps : BitVec 4) (r : RecordRead) (s : State) : offBoard (takeBoard straps r s) = offBoard s := by
  simp only [takeBoard]
  split
  · rfl
  · exact (record_offBoard 1 4 2 .none _ _).trans rfl

/-- A cleared head has counted its power cycle and sampled its straps. -/
def strapped (straps : BitVec 4) (s : State) : State :=
  let s := { s with gh := { s.gh with
    pwrCycle := satAdd 24 s.gh.pwrCycle 1, rstPwron := true, rstStrap := straps.getLsbD 3, keepFell := !s.ghx.keepOk } }
  { s with ghx := { s.ghx with strap := straps, poweredUp := true, hiZ := false, boot := .powerOn } }

/-- The sampled head has its counts back and its board record, and records flash-confirmed mode. -/
def boarded (straps : BitVec 4) (board : RecordRead) (c : State) : State :=
  takeBoard straps board (note 4 5 2 (restoreCounts (strapped straps c)))

/-- The head is Dormant, and fenced where its pin is low. -/
def fencedDormant (b : State) : State :=
  let t := enterState .dormant b
  if t.ghx.fenceIn then { t with pair := { t.pair with fenced := true, state := 5 } } else t

theorem fencedDormant_keeps {b : State} (h : b.pair.fenced = false) :
    (fencedDormant b).gh = { b.gh with state := .dormant, target := 0 } ∧
    (fencedDormant b).ghx = { b.ghx with trans := .none, hbSeen := false } ∧ (fencedDormant b).evt = b.evt ∧
    (fencedDormant b).sec = b.sec ∧ (fencedDormant b).pair.fenced = b.ghx.fenceIn := by
  by_cases hlow : b.ghx.fenceIn = true
  · rw [show fencedDormant b = _ from if_pos hlow]
    exact ⟨rfl, rfl, rfl, rfl, hlow.symm⟩
  · rw [show fencedDormant b = _ from if_neg hlow]
    exact ⟨rfl, rfl, rfl, rfl, h.trans (Bool.eq_false_iff.2 hlow).symm⟩

/-- The first wake runs once PWR_FAIL_N is high. -/
def firstWake (t : State) : State := if t.ghx.pwrFail then t else iceLeave t

theorem boarded_offBoard (straps : BitVec 4) (board : RecordRead) (c : State) :
    offBoard (boarded straps board c) = offBoard (restoreCounts (strapped straps c)) :=
  (takeBoard_offBoard ..).trans (record_offBoard ..)

section
variable (straps : BitVec 4) (board : RecordRead) (s : State)

/-- What stands before the head enters Dormant. -/
theorem boarded_holds : ∃ b, boarded straps board (powerOnClear s) = b ∧ b.gh.pwrCycle = satAdd 24 s.gh.pwrCycle 1 ∧
    b.gh.rstPwron = true ∧ b.gh.rstStrap = straps.getLsbD 3 ∧ b.ghx.strap = straps ∧ b.gh.optLock = true ∧
    b.evt.lock = true ∧ b.pair.fenced = false ∧ b.ghx.fenceIn = s.ghx.fenceIn ∧ b.ghx.pwrFail = s.ghx.pwrFail ∧
    b.sec.fuseCount = s.sec.fuseCount := by
  have hkept := boarded_offBoard straps board (powerOnClear s)
  obtain ⟨next, h, sec, hcounts⟩ := restoreCounts_frame (strapped straps (powerOnClear s))
  rw [hcounts] at hkept
  simp only [offBoard, Prod.mk.injEq] at hkept
  obtain ⟨hgh, hsec, hpair, hlock, hfail, hfence, hstrap⟩ := hkept
  have hcycle : (powerOnClear s).gh.pwrCycle = s.gh.pwrCycle := by rw [gh_powerOnClear]
  refine ⟨_, rfl, ?_⟩
  rw [hgh, hsec, hpair, hlock, hfail, hfence, hstrap]
  exact ⟨congrArg (satAdd 24 · 1) hcycle, rfl, rfl, rfl, rfl, rfl, rfl, fenceIn_powerOnClear s, pwrFail_powerOnClear s,
    fuseCount_powerOnClear s⟩

theorem powerOn_eq : powerOn straps board s = firstWake (fencedDormant (boarded straps board (powerOnClear s))) := by
  unfold powerOn fencedDormant boarded
  generalize powerOnClear s = c
  unfold strapped firstWake
  dsimp only

end

/-! ### A boot leaves the sequence of the wake to its end (R402) -/

/-- The sequence that the Gatehouse is in. -/
def wakeOf (s : State) : Trans := s.ghx.trans

theorem record_wakeOf (sub lo cls : Nat) (subj : Subject) (detail : Bytes) (s : State) :
    wakeOf (record sub lo cls subj detail s) = wakeOf s := by
  obtain ⟨e, o, p, h⟩ := record_frame sub lo cls subj detail s
  rw [h]
  rfl

theorem wakeOf_of_offMedia {s t : State} (h : offMedia t = offMedia s) : wakeOf t = wakeOf s :=
  congrArg Ghx.trans (ghx_of_offMedia h)

theorem loadSlot_wakeOf (k : Nat) (key : Bytes) (purpose domain version : Nat) (s : State) :
    wakeOf (loadSlot k key purpose domain version s) = wakeOf s := by
  simp only [loadSlot]
  split <;> rfl

theorem loadKek_wakeOf (s : State) : wakeOf (loadKek s) = wakeOf s := by
  simp only [loadKek]
  repeat' split
  · rfl
  · exact loadSlot_wakeOf ..
  · exact record_wakeOf ..

theorem wakeOf_ite {c : Prop} [Decidable c] {a b s : State} (ha : wakeOf a = wakeOf s) (hb : wakeOf b = wakeOf s) :
    wakeOf (if c then a else b) = wakeOf s := by
  rw [apply_ite wakeOf, ha, hb, ite_self]

theorem loadDomain_wakeOf (d version purpose : Nat) (blob : Bytes) (s : State) :
    wakeOf (loadDomain d version purpose blob s) = wakeOf s := by
  have hblob : wakeOf (if blob = [] then s else blobRefusedOf blob s) = wakeOf s := wakeOf_ite rfl (record_wakeOf ..)
  unfold loadDomain
  split
  · exact wakeOf_ite hblob hblob
  · simp only
    split
    · rfl
    · exact (loadSlot_wakeOf ..).trans (loadSlot_wakeOf ..)

theorem loadDomains_wakeOf (s : State) : wakeOf (loadDomains s) = wakeOf s := by
  unfold loadDomains
  split
  · rfl
  next r _ =>
    refine foldl_keeps wakeOf (fun s e => ?_) _ _
    have hfirst : wakeOf (if (keyPair s e.1 e.2.version).isSome then s else loadDomain e.1 e.2.version 0 (blobOf e.2 r) s) =
        wakeOf s := wakeOf_ite rfl (loadDomain_wakeOf ..)
    cases hrot : e.2.rotation with
    | none => simpa only [hrot] using hfirst
    | some x =>
      simp only [hrot]
      exact wakeOf_ite hfirst ((loadDomain_wakeOf ..).trans hfirst)

theorem gpioBoot_wakeOf (s : State) : wakeOf (gpioBoot s) = wakeOf s := by
  unfold gpioBoot
  split
  · rfl
  · refine foldl_keeps wakeOf (fun s i => ?_) _ _
    simp only
    split <;> rfl

theorem startTest_wakeOf (subj : Subject) (q : Option Nat) (s : State) : wakeOf (startTest subj q s) = wakeOf s := by
  simp only [startTest]
  repeat' split
  all_goals rfl

theorem firmwareUp_wakeOf (s : State) : wakeOf (firmwareUp s) = wakeOf s := by
  refine (foldl_keeps wakeOf (fun s g => ?_) _ _).trans
    ((foldl_keeps wakeOf (fun s (x : Subject × Nat) => startTest_wakeOf x.1 (some x.2) s) _ _).trans
      ((loadDomains_wakeOf _).trans ((gpioBoot_wakeOf _).trans ?_)))
  · split
    · exact wakeOf_of_offMedia (powerGroup_offMedia ..)
    · rfl
  · split
    · exact loadKek_wakeOf _
    · rfl

theorem sendHello_wakeOf (s : State) : wakeOf (sendHello s) = wakeOf s := by
  unfold sendHello
  split
  · exact wakeOf_of_offMedia (ftbSend_offMedia ..)
  · rfl

theorem trainChannel_wakeOf (n : Nat) (s : State) : wakeOf (trainChannel n s) = wakeOf s := rfl

/-- Every channel has its modules' figures. -/
def dramFound (s : State) : State :=
  (List.range 24).foldl (fun s n => if ranksPresent (dmcOf s n) = 0 then setDmc n (freshChannel (dmcOf s n)) s else s) s

/-- Every channel is trained. -/
def dramTrained (s : State) : State := (List.range 24).foldl (fun s n => trainChannel n s) s

theorem dramFound_wakeOf (s : State) : wakeOf (dramFound s) = wakeOf s := by
  unfold dramFound
  refine foldl_keeps wakeOf (fun s n => ?_) _ _
  exact wakeOf_ite rfl rfl

theorem dramTrained_wakeOf (s : State) : wakeOf (dramTrained s) = wakeOf s := by
  unfold dramTrained
  exact foldl_keeps wakeOf (fun s n => trainChannel_wakeOf n s) _ _

theorem dramBoot_wakeOf (s : State) : wakeOf (dramBoot s) = wakeOf s := by
  have hwindows : ∀ (d : Dram) (t : State), wakeOf { t with dram := d } = wakeOf t := fun _ _ => rfl
  exact wakeOf_ite (record_wakeOf ..)
    ((hwindows _ (dramTrained (dramFound s))).trans ((dramTrained_wakeOf _).trans (dramFound_wakeOf s)))

theorem beginRestart_wakeOf (kv : Bool) (s : State) : wakeOf (beginRestart kv s) = wakeOf s := (sendHello_wakeOf _).trans rfl

/-- Flash-confirmed mode is kept where the keep supply is unfit. -/
def keepChecked (s : State) : State :=
  match s.ghx.board with
  | some b => if b.keepMw < 260 + 750 * (4 * Config.dimmSlots) then
      note 1 5 2 { s with ghx := { s.ghx with keepUnfit := true }, jrn := { s.jrn with flashMode := true } } else s
  | none => s

/-- A head that takes part waits to be paired, or restarts. -/
def bootJoins (s : State) : State :=
  if !takesPart s then s else if s.pair.fenced ∨ !inArray s then sendHello s else beginRestart false s

theorem keepChecked_wakeOf (s : State) : wakeOf (keepChecked s) = wakeOf s := by
  unfold keepChecked
  repeat' split
  · exact (record_wakeOf ..).trans rfl
  · rfl
  · rfl

theorem bootJoins_wakeOf (s : State) : wakeOf (bootJoins s) = wakeOf s := by
  unfold bootJoins
  repeat' split
  · rfl
  · exact sendHello_wakeOf s
  · exact beginRestart_wakeOf false s

theorem bootPowerOn_wakeOf (s : State) : wakeOf (bootPowerOn s) = wakeOf s := by
  have hparts : bootPowerOn s = bootJoins (keepChecked (dramBoot s)) := rfl
  rw [hparts, bootJoins_wakeOf, keepChecked_wakeOf, dramBoot_wakeOf]

/-! ### The end of the boot ROM (R402, Table 14.13) -/

theorem serveNow_wake {fw : Bool} {st : WakeStage} {n : Nat} {s : State} (h : s.ghx.trans = .wake fw st n) :
    serveNow s = enterState .serve { s with gh := { s.gh with faultLow := false } } := by
  simp only [serveNow, h]

/-- A head that has booted after power-on. -/
def bootedUp (s : State) : State := serveNow (bootPowerOn (firmwareUp { s with ghx := { s.ghx with boot := .none } }))

section
variable {s : State} {n : Nat} (htrans : s.ghx.trans = .wake false .boot n)
include htrans

theorem bootedUp_serves : (bootedUp s).gh.state = .serve ∧ (bootedUp s).gh.faultLow = false := by
  have hwake : (bootPowerOn (firmwareUp { s with ghx := { s.ghx with boot := .none } })).ghx.trans = .wake false .boot n :=
    (bootPowerOn_wakeOf _).trans ((firmwareUp_wakeOf _).trans htrans)
  rw [bootedUp, serveNow_wake hwake]
  exact ⟨rfl, rfl⟩

variable (hboot : s.ghx.boot = .powerOn)
include hboot

theorem bootGood_powerOn : bootGood s = note 1 5 0 (bootedUp s) := by
  have hserve : (note 1 5 0 (bootedUp s)).gh.state = .serve := by
    rw [note, (record_keeps ..).1]
    exact (bootedUp_serves htrans).1
  simp only [bootGood, hboot]
  exact if_neg fun hwatch => PwrState.noConfusion (hserve.symm.trans hwatch.1)

variable (hstrap : s.gh.rstStrap = false)
include hstrap

theorem bootComplete_good (hbody : (bootSlot s s.sec.running).bodyOk = true) :
    bootComplete true s = note 1 5 0 (bootedUp s) := by
  rw [← bootGood_powerOn htrans hboot]
  simp [bootComplete, hboot, htrans, hstrap, hbody]

theorem bootComplete_bad {ok : Bool} (hbad : (ok && (bootSlot s s.sec.running).bodyOk) = false) :
    bootComplete ok s = if s.sec.triedOther = true then bootFails s else bootFrom (1 - s.sec.running) true s := by
  have hbody : ¬(ok = true ∧ (bootSlot s s.sec.running).bodyOk = true) := by simpa using hbad
  simp [bootComplete, hboot, htrans, hstrap, hbody]

end

/-! ### SLOT_CONFIRM (R402, R403) -/

/-- The lower security version of the two slots. -/
def lowerSecurity (s : State) : Nat := min (bootSlot s 0).security (bootSlot s 1).security

/-- The running slot is confirmed and its attempts are cleared. -/
def slotConfirmed (s : State) : State :=
  setBoot s.sec.running { bootSlot s s.sec.running with confirmed := true, attempts := 0, lostPref := false } s

theorem lowerSecurity_slotConfirmed (s : State) : lowerSecurity (slotConfirmed s) = lowerSecurity s := by
  by_cases h : s.sec.running = 0 <;> simp [lowerSecurity, slotConfirmed, setBoot, bootSlot, h]

theorem slotConfirm_eq {s : State} (hready : s.kiosk.lodgeReady = true) (hpair : s.pair.state = 3 ∨ s.pair.state = 4) :
    slotConfirm s = if (bootSlot s s.sec.running).commit = true ∧ s.sec.fuseCount < lowerSecurity s then
      note 8 9 2 { slotConfirmed s with sec := { (slotConfirmed s).sec with fuseCount := min 64 (lowerSecurity s) } }
    else slotConfirmed s := by
  have hgo : ¬((!s.kiosk.lodgeReady) = true ∨ (s.pair.state ≠ 3 ∧ s.pair.state ≠ 4)) := by
    rintro (h | h)
    · rw [hready] at h
      exact Bool.false_ne_true h
    · omega
  have hfuse : (slotConfirmed s).sec.fuseCount = s.sec.fuseCount := fuseCount_setBoot ..
  refine (if_neg hgo).trans ?_
  rw [← hfuse, ← lowerSecurity_slotConfirmed]
  rfl

section
variable {s : State} (hready : s.kiosk.lodgeReady = true) (hpair : s.pair.state = 3 ∨ s.pair.state = 4)
include hready hpair

theorem slotConfirm_confirms : (bootSlot (slotConfirm s) s.sec.running).confirmed = true ∧
    (bootSlot (slotConfirm s) s.sec.running).attempts = 0 := by
  have hslot : bootSlot (slotConfirmed s) s.sec.running =
      { bootSlot s s.sec.running with confirmed := true, attempts := 0, lostPref := false } := bootSlot_setBoot_self ..
  have hfuses : ∀ n, bootSlot { slotConfirmed s with sec := { (slotConfirmed s).sec with fuseCount := n } } s.sec.running =
      bootSlot (slotConfirmed s) s.sec.running := fun _ => rfl
  rw [slotConfirm_eq hready hpair]
  split
  · rw [bootSlot_note, hfuses, hslot]
    exact ⟨rfl, rfl⟩
  · rw [hslot]
    exact ⟨rfl, rfl⟩

theorem fuseCount_slotConfirm : (slotConfirm s).sec.fuseCount =
    if (bootSlot s s.sec.running).commit = true ∧ s.sec.fuseCount < lowerSecurity s then min 64 (lowerSecurity s)
    else s.sec.fuseCount := by
  have hfuse : (slotConfirmed s).sec.fuseCount = s.sec.fuseCount := fuseCount_setBoot ..
  rw [slotConfirm_eq hready hpair]
  split
  · rw [note, record_sec]
  · exact hfuse

end

/-! ### The commands -/

section
variable (s : State)

theorem exec_warmReset : exec .warmReset s = .next (settle (warmPin s)) := rfl
theorem exec_headResetDelayEnd : exec .headResetDelayEnd s = .next (settle (resetDelayEnd s)) := rfl
theorem exec_powerOnReset (straps : BitVec 4) (board : RecordRead) :
    exec (.powerOnReset straps board) s = .next (settle (powerOn straps board s)) := rfl
theorem exec_pwronRstNFall : exec .pwronRstNFall s = .next (settle (powerOnClear s)) := rfl
theorem exec_bootComplete (ok : Bool) : exec (.bootComplete ok) s = .next (settle (bootComplete ok s)) := rfl
theorem exec_slotConfirm : exec .slotConfirm s = .next (settle (slotConfirm s)) := rfl

end

/-- Settles O27: each reset by its branch; `lodgeReset` keeps the latches, and the boot keeps the wake it belongs to. -/
theorem resetsAndBoot : Obligations.ResetsAndBoot := by
  unfold Obligations.ResetsAndBoot
  refine ⟨fun s hcomp hpow => ?warm, fun s h => ?ignored, fun s hdue hfw => ?delayed, fun straps board s => ?powerOn,
    fun s => ?fall, fun s n hboot htrans hstrap hbody => ?good, fun s n ok hboot htrans hstrap hbad => ?bad,
    fun s hready hpair => ?confirm⟩
  case warm =>
    let u : State := { s with gh := { s.gh with rstWarm := true } }
    obtain ⟨st, target, trans, seen, hleft⟩ := sleepLeft_frame (lodgeReset true u)
    have hrun : warmPin s = _ := warmReset_runs (s := u) hcomp hpow
    refine ⟨sleepLeft (lodgeReset true u), warmBoot u, by rw [exec_warmReset, hrun], ?_, ?_, ?_, ?_⟩
    · rw [hleft]
      exact rstWarm_lodgeReset true u
    · rw [hleft]
      exact pwrCycle_lodgeReset true u
    · rw [hleft]
      exact fuseCount_lodgeReset true u
    · rw [hleft]
      rfl
  case ignored =>
    rw [exec_warmReset, warmPin, warmReset_ignored (s := { s with gh := { s.gh with rstWarm := true } }) h]
  case delayed =>
    exact ⟨_, congrArg (fun t => Host.Outcome.next (settle t)) (resetDelayEnd_due hdue hfw), rfl, rfl, rfl⟩
  case powerOn =>
    obtain ⟨b, hb, hcycle, hpwron, hstrap3, hstrap, hopt, hlock, hfenced, hfence, hfail, hfuse⟩ := boarded_holds straps board s
    obtain ⟨hgh, hghx, hevt, hsec, hpair⟩ := fencedDormant_keeps hfenced
    refine ⟨fencedDormant b, ?_, ?_⟩
    · rw [exec_powerOnReset, powerOn_eq, hb, firstWake, hghx, hfail]
    · rw [hgh, hghx, hevt, hsec, hpair]
      exact ⟨hcycle, hpwron, hstrap3, hstrap, hopt, hlock, rfl, hfence, hfuse⟩
  case fall =>
    exact ⟨powerOnClear s, exec_pwronRstNFall s, gh_powerOnClear s, rfl, rfl, rfl, fuseCount_powerOnClear s, log_powerOnClear s⟩
  case good =>
    exact ⟨bootedUp s, by rw [exec_bootComplete, bootComplete_good htrans hboot hstrap hbody]; rfl,
      bootedUp_serves htrans⟩
  case bad => rw [exec_bootComplete, bootComplete_bad htrans hboot hstrap hbad]
  case confirm =>
    obtain ⟨hconfirmed, hattempts⟩ := slotConfirm_confirms hready hpair
    have hfuse := fuseCount_slotConfirm hready hpair
    refine ⟨slotConfirm s, exec_slotConfirm s, hconfirmed, hattempts, fun hcommit => ?_, fun hcommit hmax => ?_⟩
    · rw [hfuse, hcommit]
      exact if_neg fun h => Bool.false_ne_true h.1
    · rw [hfuse, hcommit]
      simp only [lowerSecurity, true_and]
      split <;> omega

end Sys2Proof.Machine
end

section
/-!
PROOFS. A step takes exactly the front command off the queue: what an operation leaves of the queue of commands (`State.pending`),
for each operation of the model in the order of its files, and so for each command and for a tick.

No hypothesis on the state stands here, so these lemmas cannot come from those on the invariant. An operation that touches the
queue's neighbours alone keeps it by definition; its lemma ends with `(rfl)`, in parentheses so that `simp` cites the lemma
instead of unfolding the operation to its literals.
-/
namespace Sys2Proof.Machine
open Sys2Proof

/-! ### Folds and pairs -/

/-- Rewriting with it, the kernel need not compare the two states. -/
theorem pending_update (s : State) {out draws kiosk evt mons gh ghx sec dram cns sleds map plc jrn ing ftb pair lat rep} :
    (⟨s.pending, out, draws, kiosk, evt, mons, gh, ghx, sec, dram, cns, sleds, map, plc, jrn, ing, ftb, pair, lat, rep⟩ : State).pending =
      s.pending := (rfl)

theorem pending_of_offMedia {s t : State} (h : offMedia t = offMedia s) : t.pending = s.pending := (congrArg State.pending h :)

theorem ite_pending {c : Prop} [Decidable c] {s t : State} {q : List Instr} (hs : s.pending = q) (ht : t.pending = q) :
    (if c then s else t).pending = q := by
  split <;> assumption

theorem snd_pending {α : Type} {p : α × State} {a : α} {t : State} {q : List Instr} (h : p = (a, t)) (hp : p.2.pending = q) :
    t.pending = q := by
  subst h
  exact hp

@[simp] theorem foldl_pending {α : Type} {f : State → α → State} (hf : ∀ s a, (f s a).pending = s.pending) (l : List α) (s : State) :
    (l.foldl f s).pending = s.pending := foldl_keeps State.pending hf l s

@[simp] theorem foldl_snd_pending {α β : Type} {f : β × State → α → β × State} (hf : ∀ s a, (f s a).2.pending = s.2.pending)
    (l : List α) (s : β × State) : (l.foldl f s).2.pending = s.2.pending := foldl_keeps (fun p : β × State => p.2.pending) hf l s

theorem foldl_fst_pending {α β : Type} {f : State × β → α → State × β} (hf : ∀ s a, (f s a).1.pending = s.1.pending)
    (l : List α) (s : State × β) : (l.foldl f s).1.pending = s.1.pending := foldl_keeps (fun p : State × β => p.1.pending) hf l s


/-! ### Machine/Events.lean -/

@[simp] theorem signalVec_pending (v : Nat) (s : State) : (signalVec v s).pending = s.pending := by
  simp [signalVec, apply_ite State.pending]

@[simp] theorem record_pending (sub lo cls : Nat) (subj : Subject) (detail : Bytes) (s : State) :
    (record sub lo cls subj detail s).pending = s.pending := by
  obtain ⟨_, _, _, _, _, h⟩ := record_keeps sub lo cls subj detail s
  exact h

@[simp] theorem note_pending (sub lo cls : Nat) (s : State) : (note sub lo cls s).pending = s.pending := by
  simp [note]

@[simp] theorem restored_pending (subj : Subject) (s : State) : (restored subj s).pending = s.pending := (rfl)

/-! ### Machine/Probes.lean -/

@[simp] theorem monBegin_pending (probe id : Nat) (s : State) : (monBegin probe id s).pending = s.pending := (rfl)
@[simp] theorem monCount_pending (probe filter stamp : Nat) (s : State) : (monCount probe filter stamp s).pending = s.pending := (rfl)
@[simp] theorem monAt_pending (probe filter : Nat) (s : State) : (monAt probe filter s).pending = s.pending := (rfl)
@[simp] theorem monEnd_pending (probe id filter : Nat) (s : State) : (monEnd probe id filter s).pending = s.pending := (rfl)

/-! ### Machine/Ops.lean -/

@[simp] theorem refuse_pending (st : Status) (s : State) : (refuse st s).2.pending = s.pending := (rfl)

@[simp] theorem startTest_pending (subj : Subject) (errSeq : Option Nat) (s : State) : (startTest subj errSeq s).pending = s.pending := by
  simp [startTest, apply_ite State.pending]

@[simp] theorem errorOn_pending (sub cls : Nat) (subj : Subject) (detail : Bytes) (s : State) :
    (errorOn sub cls subj detail s).pending = s.pending := by
  simp [errorOn]

@[simp] theorem testAtErase_pending (subj : Subject) (s : State) : (testAtErase subj s).pending = s.pending := by
  unfold testAtErase
  split <;> simp

theorem startJob_pending {op subj aux k : Nat} {s t : State} (h : startJob op subj aux s = some (k, t)) : t.pending = s.pending := by
  unfold startJob at h
  split at h
  · cases h
  · rw [← (Prod.mk.inj (Option.some.inj h)).2]

@[simp] theorem withJob_pending (op subj aux : Nat) {f : Nat → State → State} (hf : ∀ k s, (f k s).pending = s.pending) (s : State) :
    (withJob op subj aux s f).2.pending = s.pending := by
  unfold withJob
  split
  next h => rw [hf, startJob_pending h]
  · rfl

@[simp] theorem dropClaim_pending (cls idx : Nat) (s : State) : (dropClaim cls idx s).pending = s.pending := by
  unfold dropClaim
  split <;> simp

@[simp] theorem finishMbx_pending (n : Nat) (resp : Bytes) (s : State) : (finishMbx n resp s).pending = s.pending := by
  simp [finishMbx, apply_ite State.pending]

@[simp] theorem writePart_pending (n op seq level session status : Nat) (async : Bool) (part : Nat) (parts : List Bytes) (s : State) :
    (writePart n op seq level session status async part parts s).pending = s.pending := by
  unfold writePart
  split <;> simp

@[simp] theorem answer_pending (n : Nat) (msg : BMsg) (r : BRes) (s : State) : (answer n msg r s).pending = s.pending := by
  simp [answer]

@[simp] theorem answerLate_pending (n : Nat) (r : BRes) (s : State) : (answerLate n r s).pending = s.pending := by
  unfold answerLate
  repeat' split
  all_goals simp

@[simp] theorem finishStatus_pending (n : Nat) (st : Status) (s : State) : (finishStatus n st s).pending = s.pending := by
  simp [finishStatus]

@[simp] theorem unforce_pending (op : Nat) (s : State) : (unforce op s).pending = s.pending := (rfl)

@[simp] theorem finishJobs_pending (p : Job → Bool) (st : Status) (result : Bytes) (s : State) :
    (finishJobs p st result s).pending = s.pending := (rfl)

@[simp] theorem basmos_pending (n op : Nat) (layout : Bytes → Bool) {h : Bytes → State → BAns × State}
    (hh : ∀ p s, (h p s).2.pending = s.pending) (s : State) : (basmos n op layout h s).pending = s.pending := by
  unfold basmos
  dsimp only
  split
  · rfl
  · repeat' split
    · rfl
    · simp
    · simp
    · simp
    next heq => rw [answer_pending]; exact snd_pending heq (hh _ _)
    next heq => rw [setMbx_pending]; exact snd_pending heq (hh _ _)

/-! ### Machine/Dimm.lean -/

@[simp] theorem dramRequest_pending (port pa : Nat) (s : State) : (dramRequest port pa s).pending = s.pending := (rfl)

@[simp] theorem serveChannel_pending (ch : Nat) (s : State) : (serveChannel ch s).pending = s.pending := by
  unfold serveChannel
  repeat' split
  all_goals simp

@[simp] theorem dramTick_pending (s : State) : (dramTick s).pending = s.pending := by
  unfold dramTick
  dsimp only
  rw [foldl_pending (fun s ch => serveChannel_pending ch s)]

/-! ### Machine/Lines.lean -/

@[simp] theorem onCns_pending (f : Cns → Cns) (s : State) : (onCns f s).pending = s.pending := (rfl)
@[simp] theorem demandMiss_pending (port line : Nat) (s : State) : (demandMiss port line s).pending = s.pending := (rfl)

@[simp] theorem curePoison_pending (n ca : Nat) (s : State) : (curePoison n ca s).pending = s.pending := by
  simp [curePoison, apply_ite State.pending]

@[simp] theorem cureLines_pending (pa n : Nat) (s : State) : (cureLines pa n s).pending = s.pending := by
  simp [cureLines, apply_ite State.pending]

@[simp] theorem lineTraffic_pending (line : Nat) (s : State) : (lineTraffic line s).pending = s.pending := (rfl)

@[simp] theorem fill_pending (k line : Nat) (dirty streaming : Bool) (s : State) : (fill k line dirty streaming s).pending = s.pending := by
  simp only [fill]
  repeat' split
  all_goals simp

@[simp] theorem sideFetch_pending (line : Nat) (s : State) : (sideFetch line s).pending = s.pending := by
  simp [sideFetch, apply_ite State.pending]

@[simp] theorem prefetch_pending (k line : Nat) (s : State) : (prefetch k line s).pending = s.pending := by
  unfold prefetch
  repeat' split
  all_goals simp

@[simp] theorem lineStore_pending (port line : Nat) (s : State) : (lineStore port line s).pending = s.pending := by
  simp [lineStore, apply_ite State.pending, apply_ite Prod.snd]

@[simp] theorem onMemory_pending (f : State → State) (s : State) : (onMemory f s).pending = s.pending := by
  simp [onMemory, apply_ite State.pending]

@[simp] theorem cnsStores_pending (port pa n : Nat) (s : State) : (cnsStores port pa n s).pending = s.pending := by
  simp [cnsStores]

@[simp] theorem lineRead_pending (port line : Nat) (s : State) : (lineRead port line s).pending = s.pending := by
  simp [lineRead, apply_ite State.pending]

@[simp] theorem cnsReads_pending (port pa n : Nat) (s : State) : (cnsReads port pa n s).pending = s.pending := by
  simp [cnsReads]

@[simp] theorem drainRead_pending (line : Nat) (s : State) : (drainRead line s).pending = s.pending := by
  simp [drainRead, apply_ite State.pending]

@[simp] theorem cnsDrains_pending (pa n : Nat) (s : State) : (cnsDrains pa n s).pending = s.pending := by
  simp [cnsDrains]

/-! ### Machine/Map.lean -/

@[simp] theorem xltTouch_pending (key page i : Nat) (s : State) : (xltTouch key page i s).pending = s.pending := by
  simp [xltTouch, apply_ite State.pending]

@[simp] theorem resolveEnt_pending (key chunk : Nat) (s : State) : (resolveEnt key chunk s).2.pending = s.pending := by
  simp [resolveEnt, apply_ite State.pending, apply_ite Prod.snd]

@[simp] theorem dirtyPage_pending (page i : Nat) (s : State) : (dirtyPage page i s).pending = s.pending := by
  simp [dirtyPage]

@[simp] theorem putChunk_pending (serial : Nat) (c : ChunkRec) (s : State) : (putChunk serial c s).pending = s.pending := by
  simp [putChunk]

@[simp] theorem freeIfDead_pending (k serial : Nat) (s : State) : (freeIfDead k serial s).pending = s.pending :=
  pending_of_offMedia (freeIfDead_offMedia k serial s)

@[simp] theorem unpinChunk_pending (serial : Nat) (s : State) : (unpinChunk serial s).pending = s.pending := by
  unfold unpinChunk
  split <;> simp

@[simp] theorem dropRef_pending (peer : Bool) (serial : Nat) (s : State) : (dropRef peer serial s).pending = s.pending := by
  unfold dropRef
  split <;> simp

@[simp] theorem putLoc_pending (key chunk : Nat) (loc : Loc) (s : State) : (putLoc key chunk loc s).pending = s.pending := by
  unfold putLoc
  split <;> simp

@[simp] theorem makeIndirect_pending (serial : Nat) (c : ChunkRec) (s : State) : (makeIndirect serial c s).pending = s.pending := by
  simp [makeIndirect, apply_ite State.pending]

@[simp] theorem addRef_pending (peer : Bool) (serial : Nat) (s : State) : (addRef peer serial s).pending = s.pending := by
  unfold addRef
  split <;> simp

@[simp] theorem ownLeaf_pending (key page : Nat) (s : State) : (ownLeaf key page s).pending = s.pending := by
  unfold ownLeaf
  repeat' split
  all_goals simp

@[simp] theorem putEnt_pending (key chunk : Nat) (e : MapEnt) (s : State) : (putEnt key chunk e s).pending = s.pending := by
  simp only [putEnt]
  repeat' split
  all_goals simp

@[simp] theorem unmapChunk_pending (key chunk : Nat) (s : State) : (unmapChunk key chunk s).pending = s.pending := by
  simp [unmapChunk, apply_ite State.pending]

@[simp] theorem mapDirect_pending (key chunk serial : Nat) (s : State) : (mapDirect key chunk serial s).pending = s.pending := by
  simp only [mapDirect]
  repeat' split
  all_goals simp

@[simp] theorem mapShared_pending (key chunk serial : Nat) (s : State) : (mapShared key chunk serial s).pending = s.pending := by
  simp only [mapShared]
  repeat' split
  all_goals simp

@[simp] theorem moveChunk_pending (m : MoveEntry) (s : State) : (moveChunk m s).pending = s.pending := by
  simp only [moveChunk]
  repeat' split
  all_goals simp

@[simp] theorem copyMap_pending (key snap : Nat) (s : State) : (copyMap key snap s).pending = s.pending := (rfl)

@[simp] theorem dropMap_pending (key : Nat) (s : State) : (dropMap key s).pending = s.pending := by
  unfold dropMap
  refine foldl_pending (fun s p => ?_) _ _
  split
  · rfl
  · split <;> simp

@[simp] theorem pinChunk_pending (serial : Nat) (s : State) : (pinChunk serial s).pending = s.pending := by
  unfold pinChunk
  split <;> simp

@[simp] theorem nextSerial_pending (s : State) : (nextSerial s).2.pending = s.pending := (rfl)

/-! ### Machine/Records.lean -/

@[simp] theorem writeSummary_pending (s : State) : (writeSummary s).pending = s.pending := (rfl)
@[simp] theorem monEnable_pending (u : Nat) (en : BitVec 3) (s : State) : (monEnable u en s).pending = s.pending := (rfl)

@[simp] theorem monSnap_pending (u : Nat) (s : State) : (monSnap u s).pending = s.pending := by
  simp [monSnap, apply_ite State.pending]

@[simp] theorem monStop_pending (u : Nat) (s : State) : (monStop u s).pending = s.pending := by
  simp [monStop, apply_ite State.pending]

@[simp] theorem eventLogAppend_pending (s : State) : (eventLogAppend s).pending = s.pending := by
  simp [eventLogAppend, apply_ite State.pending]

@[simp] theorem monArm_pending (u : Nat) (s : State) : (monArm u s).pending = s.pending := (rfl)
@[simp] theorem evrRdDataRead_pending (s : State) : (evrRdDataRead s).pending = s.pending := (rfl)

@[simp] theorem monReadH_pending (p : Bytes) (s : State) : (monReadH p s).2.pending = s.pending := by
  simp [monReadH, apply_ite State.pending, apply_ite Prod.snd]

@[simp] theorem monWindowEnd_pending (u : Nat) (s : State) : (monWindowEnd u s).pending = s.pending := by
  simp [monWindowEnd, apply_ite State.pending]

@[simp] theorem monArmH_act_pending (p : Bytes) (u : Nat) (disarm : Bool) (h : Nat) (s : State) :
    (monArmH.act p u disarm h s).pending = s.pending := by simp [monArmH.act, apply_ite State.pending]

@[simp] theorem monArmH_pending (p : Bytes) (s : State) : (monArmH p s).2.pending = s.pending := by
  simp only [monArmH]
  repeat' split
  all_goals simp

@[simp] theorem evtReadH_pending (p : Bytes) (s : State) : (evtReadH p s).2.pending = s.pending := by
  simp [evtReadH, apply_ite State.pending, apply_ite Prod.snd]

@[simp] theorem evtSummaryH_pending (p : Bytes) (s : State) : (evtSummaryH p s).2.pending = s.pending := (rfl)

/-! ### Machine/Lat.lean -/

@[simp] theorem emitAeth_pending (n psn syndrome msn : Nat) (o : Out) (s : State) :
    (emitAeth n psn syndrome msn o s).pending = s.pending := (rfl)

@[simp] theorem freeTagOf_pending (n tag asn : Nat) (s : State) : (freeTagOf n tag asn s).pending = s.pending := by
  simp [freeTagOf, apply_ite State.pending]

@[simp] theorem rekeyNote_pending (n : Nat) (before after : Qp) (s : State) : (rekeyNote n before after s).pending = s.pending := by
  simp [rekeyNote, apply_ite State.pending]

@[simp] theorem txPacket_pending (n asn : Nat) (isSend : Bool) (op : Nat) (ext p : Bytes) (mk : Nat → Bytes → Out) (s : State) :
    (txPacket n asn isSend op ext p mk s).2.pending = s.pending := by
  simp only [txPacket]
  repeat' split
  all_goals simp

@[simp] theorem flushQp_pending (n k : Nat) (s : State) : (flushQp n k s).pending = s.pending := by
  induction k generalizing s with
  | zero => rfl
  | succ k ih =>
    simp only [flushQp]
    split
    · split
      next h => rw [ih, setQp_pending]; exact snd_pending h (by simp)
      next h => exact snd_pending h (by simp)
    · split
      · split
        next h => rw [ih, setQp_pending]; exact snd_pending h (by simp)
        next h => exact snd_pending h (by simp)
      · rfl

@[simp] theorem flushAll_pending (n : Nat) (s : State) : (flushAll n s).pending = s.pending := by
  simp [flushAll]

@[simp] theorem postOn_pending (n tag : Nat) (st : Status) (result : Nat) (bytes : Bytes) (s : State) :
    (postOn n tag st result bytes s).pending = s.pending := by
  simp [postOn]

@[simp] theorem answerMsg_pending (n tag csn opcode : Nat) (st : Status) (orig result : Nat) (s : State) :
    (answerMsg n tag csn opcode st orig result s).pending = s.pending := by
  simp [answerMsg, apply_ite State.pending]

@[simp] theorem enterReplay_pending (queueId : Nat) (e : ReplayEntry) (s : State) : (enterReplay queueId e s).pending = s.pending := (rfl)

@[simp] theorem leaveTag_pending (c : Cmd) (asn : Nat) (s : State) : (leaveTag c asn s).pending = s.pending := by
  simp only [leaveTag]
  repeat' split
  all_goals simp

@[simp] theorem finishCmd_pending (asn : Nat) (s : State) : (finishCmd asn s).pending = s.pending := by
  simp only [finishCmd]
  repeat' split
  all_goals simp

/-! ### Machine/JRecord.lean -/

@[simp] theorem sendFrames_pending (type id len : Nat) (payload : Bytes) (segs : List (Nat × Nat × Nat × Nat × Nat)) (s : State) :
    (sendFrames type id len payload segs s).pending = s.pending := by
  exact foldl_pending (fun s g => emit_pending _ s) segs s

/-! ### Machine/Journal.lean -/

@[simp] theorem dealSegs_pending (cls k off len : Nat) (s : State) : (dealSegs cls k off len s).2.pending = s.pending := by
  induction k generalizing off len s with
  | zero => rfl
  | succ k ih =>
    simp only [dealSegs]
    split
    · rfl
    · simp only [apply_ite Prod.snd, apply_ite State.pending, ih, setFport_pending, ite_self]

@[simp] theorem ftbSend_pending (type cls len : Nat) (offs : List Nat) (mk : Nat → FtbOut) (s : State) :
    (ftbSend type cls len offs mk s).2.pending = s.pending := by
  simp [ftbSend, apply_ite State.pending]

@[simp] theorem ftbControl_pending (m : FtbOut) (s : State) : (ftbControl m s).pending = s.pending := by
  simp [ftbControl]

@[simp] theorem mirrorRec_pending (off : Nat) (s : State) : (mirrorRec off s).pending = s.pending := by
  simp only [mirrorRec]
  repeat' split
  all_goals simp

@[simp] theorem writeRec_pending (asn unit units : Nat) (last : Bool) (body : JBody) (s : State) :
    (writeRec asn unit units last body s).2.pending = s.pending := by
  simp [writeRec, apply_ite State.pending]

@[simp] theorem writeLoose_pending (body : JBody) (s : State) : (writeLoose body s).2.pending = s.pending := by
  simp [writeLoose]

@[simp] theorem dropOwn_pending (offs : List Nat) (s : State) : (dropOwn offs s).pending = s.pending := (rfl)
@[simp] theorem ftbOnPort_pending (n : Nat) (m : FtbOut) (s : State) : (ftbOnPort n m s).pending = s.pending := (rfl)

@[simp] theorem recordOutcome_pending (asn : Nat) (c : Cmd) (s : State) : (recordOutcome asn c s).pending = s.pending := by
  simp [recordOutcome]

@[simp] theorem endTag_pending (asn : Nat) (c : Cmd) (s : State) : (endTag asn c s).pending = s.pending := by
  simp [endTag, apply_ite State.pending]

@[simp] theorem decide__pending (asn : Nat) (st : Status) (result : Nat) (s : State) : (decide_ asn st result s).pending = s.pending := by
  simp only [decide_]
  repeat' split
  all_goals simp

@[simp] theorem drainRecs_pending (offs : List Nat) (asn unit : Nat) (s : State) : (drainRecs offs asn unit s).pending = s.pending := by
  simp [drainRecs, apply_ite State.pending]

@[simp] theorem freeDrained_pending (s : State) : (freeDrained s).pending = s.pending := by
  refine foldl_pending (fun s r => ?_) _ _
  split <;> simp

@[simp] theorem mirrorWaiting_pending (k : Nat) (s : State) : (mirrorWaiting k s).pending = s.pending := by
  induction k generalizing s with
  | zero => rfl
  | succ k ih =>
    simp only [mirrorWaiting]
    split
    · rfl
    · split
      · rfl
      · simp [ih]

@[simp] theorem postReady_pending (s : State) : (postReady s).pending = s.pending := by
  simp [postReady]

@[simp] theorem releaseLoose_pending (s : State) : (releaseLoose s).pending = s.pending := by
  simp [releaseLoose]

/-! ### Machine/Sled.lean -/

@[simp] theorem adoptRecords_pending (g : Nat) (s : State) : (adoptRecords g s).pending = s.pending := (rfl)

@[simp] theorem endSession_pending (p : Nat) (s : State) : (endSession p s).pending = s.pending := by
  simp [endSession, apply_ite State.pending]

@[simp] theorem disablePort_pending (p : Nat) (s : State) : (disablePort p s).pending = s.pending := by
  simp [disablePort]

@[simp] theorem putOrdered_pending (p : Nat) (l : LinkOut) (s : State) : (putOrdered p l s).pending = s.pending := by
  simp [putOrdered, apply_ite State.pending]

@[simp] theorem putFlit_pending (p : Nat) (l : LinkOut) (s : State) : (putFlit p l s).pending = s.pending := (rfl)

@[simp] theorem countBlocks_pending (p : Nat) (s : State) : (countBlocks p s).pending = s.pending := by
  simp [countBlocks, apply_ite State.pending]

@[simp] theorem link_pending (p : Nat) (l : LinkOut) (s : State) : (link p l s).pending = s.pending := by
  unfold link
  split <;> simp

@[simp] theorem enterDetect_pending (p : Nat) (s : State) : (enterDetect p s).pending = s.pending := by
  simp [enterDetect]

@[simp] theorem powerPort_pending (on : Bool) (p : Nat) (s : State) : (powerPort on p s).pending = s.pending := by
  simp [powerPort, apply_ite State.pending]

@[simp] theorem meter_pending (p : Nat) (c : SledCmd) (s : State) : (meter p c s).pending = s.pending := by
  simp [meter, apply_ite State.pending]

@[simp] theorem pump_pending (p k : Nat) (s : State) : (pump p k s).pending = s.pending :=
  pending_of_offMedia (offMedia_of_offPorts (pump_offPorts p k s))

@[simp] theorem sendFlits_pending (p : Nat) (fs : List TxFlit) (s : State) : (sendFlits p fs s).pending = s.pending := by
  simp [sendFlits]

@[simp] theorem sledStarts_pending (p : Nat) (c : SledCmd) (s : State) : (sledStarts p c s).pending = s.pending := by
  simp [sledStarts, apply_ite State.pending]

@[simp] theorem kick_pending (p k : Nat) (s : State) : (kick p k s).pending = s.pending :=
  pending_of_offMedia (kick_offMedia p k s)

@[simp] theorem kickAll_pending (p : Nat) (s : State) : (kickAll p s).pending = s.pending := by
  simp [kickAll, apply_ite State.pending]

@[simp] theorem sendSled_pending (p : Nat) (why : SledFor) (c : SledCmd) (s : State) : (sendSled p why c s).pending = s.pending := by
  simp [sendSled]

@[simp] theorem replayFrom_pending (p seq : Nat) (s : State) : (replayFrom p seq s).pending = s.pending := by
  simp [replayFrom]

@[simp] theorem recover_pending (asked : Bool) (p : Nat) (s : State) : (recover asked p s).pending = s.pending := (rfl)
@[simp] theorem enterRecovery_pending (p : Nat) (s : State) : (enterRecovery p s).pending = s.pending := (rfl)

@[simp] theorem linkError_pending (p cls : Nat) (detail : Bytes) (s : State) : (linkError p cls detail s).pending = s.pending := by
  simp [linkError]

@[simp] theorem resend_pending (p : Nat) (cls : Nat) (s : State) : (resend p cls s).pending = s.pending := by
  simp only [resend]
  repeat' split
  all_goals simp

@[simp] theorem replayTimeout_pending (p : Nat) (s : State) : (replayTimeout p s).pending = s.pending := by
  simp [replayTimeout, apply_ite State.pending]

@[simp] theorem portEnable_pending (p : Nat) (en : Bool) (s : State) : (portEnable p en s).pending = s.pending := by
  simp [portEnable, apply_ite State.pending]

@[simp] theorem portRetrain_pending (p : Nat) (s : State) : (portRetrain p s).pending = s.pending := by
  simp [portRetrain, apply_ite State.pending]

@[simp] theorem startPrbs_pending (p : Nat) (s : State) : (startPrbs p s).pending = s.pending := by
  simp [startPrbs, apply_ite State.pending]

@[simp] theorem oddOutcome_pending (p outcome : Nat) (s : State) : (oddOutcome p outcome s).pending = s.pending := by
  simp [oddOutcome, apply_ite State.pending]

@[simp] theorem makeUsable_pending (p : Nat) (alone : Bool) (s : State) : (makeUsable p alone s).pending = s.pending := by
  simp [makeUsable, apply_ite State.pending]

@[simp] theorem framing_pending (p : Nat) (s : State) : (framing p s).pending = s.pending := by
  simp [framing, apply_ite State.pending]

@[simp] theorem takeRecord_pending (g slot : Nat) (r : RecordRead) (s : State) : (takeRecord g slot r s).pending = s.pending := by
  unfold takeRecord
  repeat' split
  all_goals simp

@[simp] theorem sledEnds_pending (p : Nat) (c : SledCmd) (s : State) : (sledEnds p c s).pending = s.pending := by
  simp [sledEnds, apply_ite State.pending]

@[simp] theorem takeResponse_pending (p tag op : Nat) (s : State) : (takeResponse p tag op s).2.pending = s.pending := by
  simp only [takeResponse]
  repeat' split
  all_goals simp

@[simp] theorem dropLink_pending (p : Nat) (detail : Bytes) (s : State) : (dropLink p detail s).pending = s.pending := by
  simp [dropLink]

@[simp] theorem stateTimeout_pending (p : Nat) (s : State) : (stateTimeout p s).pending = s.pending := by
  simp [stateTimeout, apply_ite State.pending]

@[simp] theorem pumpAll_pending (p : Nat) (s : State) : (pumpAll p s).pending = s.pending := by
  simp [pumpAll]

@[simp] theorem backActive_pending (p : Nat) (s : State) : (backActive p s).pending = s.pending := by
  simp only [backActive]
  repeat' split
  all_goals simp

@[simp] theorem rxTs1_pending (p preset asked : Nat) (s : State) : (rxTs1 p preset asked s).pending = s.pending := by
  simp [rxTs1, apply_ite State.pending]

@[simp] theorem nakHoldoffEnd_pending (p : Nat) (s : State) : (nakHoldoffEnd p s).pending = s.pending := (rfl)

@[simp] theorem sleepIdleTimer_pending (p : Nat) (s : State) : (sleepIdleTimer p s).pending = s.pending := by
  simp [sleepIdleTimer, apply_ite State.pending]

@[simp] theorem cmdTimeout_pending (p tag : Nat) (fourth : Bool) (s : State) : (cmdTimeout p tag fourth s).pending = s.pending := by
  simp only [cmdTimeout]
  repeat' split
  all_goals simp

@[simp] theorem rxTs2_pending (p : Nat) (alone : Bool) (ts : Ts2) (s : State) : (rxTs2 p alone ts s).pending = s.pending := by
  simp [rxTs2, apply_ite State.pending]

@[simp] theorem detectRetry_pending (p : Nat) (s : State) : (detectRetry p s).pending = s.pending := by
  simp [detectRetry, apply_ite State.pending]

@[simp] theorem takeAck_pending (p a : Nat) (s : State) : (takeAck p a s).pending = s.pending := by
  simp only [takeAck]
  repeat' split
  all_goals simp

@[simp] theorem testDone_pending (p errors : Nat) (s : State) : (testDone p errors s).pending = s.pending := by
  simp [testDone, apply_ite State.pending]

@[simp] theorem returnCredit_pending (p vc : Nat) (s : State) : (returnCredit p vc s).pending = s.pending := by
  simp [returnCredit, apply_ite State.pending]

@[simp] theorem sendNak_pending (p : Nat) (s : State) : (sendNak p s).pending = s.pending := by
  simp [sendNak, apply_ite State.pending]

@[simp] theorem rxFlit_pending (p : Nat) (f : Flit) (s : State) : (rxFlit p f s).pending = s.pending := by
  simp only [rxFlit]
  repeat' split
  all_goals simp

@[simp] theorem rxCreditFlit_pending (p cmd mgmt data : Nat) (s : State) : (rxCreditFlit p cmd mgmt data s).pending = s.pending := by
  simp [rxCreditFlit, apply_ite State.pending]

@[simp] theorem rxIdle_pending (p a : Nat) (s : State) : (rxIdle p a s).pending = s.pending := by
  simp [rxIdle, apply_ite State.pending]

@[simp] theorem rxNak_pending (p seq : Nat) (s : State) : (rxNak p seq s).pending = s.pending := by
  simp [rxNak, apply_ite State.pending]

@[simp] theorem rxSleepNak_pending (p : Nat) (s : State) : (rxSleepNak p s).pending = s.pending := by
  simp [rxSleepNak, apply_ite State.pending]

@[simp] theorem rxSleepAck_pending (p : Nat) (s : State) : (rxSleepAck p s).pending = s.pending := by
  simp [rxSleepAck, apply_ite State.pending]

@[simp] theorem i2cTimeout_pending (g slot attempt : Nat) (s : State) : (i2cTimeout g slot attempt s).pending = s.pending := by
  simp [i2cTimeout, apply_ite State.pending]

@[simp] theorem farEnd_pending (p : Nat) (s : State) : (farEnd p s).pending = s.pending := by
  simp [farEnd, apply_ite State.pending]

/-! ### Machine/Shelves.lean -/

@[simp] theorem changeArray_pending (f : ArrayRec → ArrayRec) (s : State) : (changeArray f s).pending = s.pending := (rfl)

@[simp] theorem powerGroup_pending (g : Nat) (on : Bool) (s : State) : (powerGroup g on s).pending = s.pending := by
  simp [powerGroup, apply_ite State.pending]

@[simp] theorem addItem_pending (cls : ItemCls) (g : Nat) (work : ItemFor) (deadline : Option Nat) (s : State) :
    (addItem cls g work deadline s).pending = s.pending := by
  simp [addItem, apply_ite State.pending]

@[simp] theorem releaseShelf_pending (g : Nat) (st : ShelfSt) (s : State) : (releaseShelf g st s).pending = s.pending :=
  pending_of_offMedia (releaseShelf_offMedia g st s)

@[simp] theorem goodRise_pending (g : Nat) (s : State) : (goodRise g s).pending = s.pending := by
  simp [goodRise, apply_ite State.pending]

@[simp] theorem tryShelf_pending (g : Nat) (v : Shelf) (s : State) : (tryShelf g v s).2.pending = s.pending := by
  simp [tryShelf, apply_ite State.pending, apply_ite Prod.snd]

@[simp] theorem grantWake_began_pending (g : Nat) (v : Shelf) (s : State) : (grantWake.began g v s).pending = s.pending := by
  unfold grantWake.began
  split <;> simp

@[simp] theorem grantWake_pending (g : Nat) (s : State) : (grantWake g s).pending = s.pending := by
  unfold grantWake
  dsimp only
  split
  · rfl
  · split
    · split
      · rfl
      next h => rw [grantWake_began_pending]; exact snd_pending h (by simp)
    next h => rw [grantWake_began_pending]; exact snd_pending h (by simp)

@[simp] theorem wantWake_pending (g : Nat) (cls : ItemCls) (deadline : Nat) (s : State) :
    (wantWake g cls deadline s).pending = s.pending := by
  simp [wantWake, apply_ite State.pending]

@[simp] theorem heatTouch_pending (vol first blocks : Nat) (s : State) : (heatTouch vol first blocks s).pending = s.pending := (rfl)
@[simp] theorem dropItems_pending (p : Item → Bool) (s : State) : (dropItems p s).pending = s.pending := (rfl)

@[simp] theorem endHoldJob_pending (g : Nat) (st : Status) (s : State) : (endHoldJob g st s).pending = s.pending := by
  simp [endHoldJob, apply_ite State.pending]

@[simp] theorem kickShelf_pending (g : Nat) (s : State) : (kickShelf g s).pending = s.pending :=
  foldl_pending (fun _ _ => kickAll_pending _ _) _ s

@[simp] theorem becomeAwake_pending (g : Nat) (s : State) : (becomeAwake g s).pending = s.pending := by
  simp [becomeAwake, apply_ite State.pending]

@[simp] theorem checkAwake_pending (g : Nat) (s : State) : (checkAwake g s).pending = s.pending := by
  simp [checkAwake, apply_ite State.pending]

@[simp] theorem raiseCaps_pending (g : Nat) (s : State) : (raiseCaps g s).pending = s.pending := by
  unfold raiseCaps
  dsimp only
  split
  · split
    next h => rw [kickShelf_pending]; exact snd_pending h (by simp)
    next h => rw [kickShelf_pending, tryShelf_pending]; exact snd_pending h (by simp)
  · rfl

@[simp] theorem wakeRetry_pending (g : Nat) (s : State) : (wakeRetry g s).pending = s.pending := by
  simp [wakeRetry, apply_ite State.pending]

@[simp] theorem lowerCaps_pending (g : Nat) (low : Nat × Nat) (fits : State → Bool) (s : State) :
    (lowerCaps g low fits s).pending = s.pending := by
  simp only [lowerCaps]
  repeat' split
  all_goals simp

@[simp] theorem failWake_pending (g : Nat) (s : State) : (failWake g s).pending = s.pending := by
  simp [failWake, apply_ite State.pending]

@[simp] theorem wakeGrant_pending (g : Nat) (s : State) : (wakeGrant g s).pending = s.pending := by
  simp [wakeGrant, apply_ite State.pending]

@[simp] theorem pwrBudgetSetH_pending (p : Bytes) (s : State) : (pwrBudgetSetH p s).2.pending = s.pending := by
  simp [pwrBudgetSetH, apply_ite State.pending, apply_ite Prod.snd]

@[simp] theorem heatHalve_pending (s : State) : (heatHalve s).pending = s.pending := (rfl)

@[simp] theorem wakeTimeout_pending (g : Nat) (six : Bool) (s : State) : (wakeTimeout g six s).pending = s.pending := by
  simp [wakeTimeout, apply_ite State.pending]

@[simp] theorem meterWindow_pending (g : Nat) (s : State) : (meterWindow g s).pending = s.pending :=
  kickShelf_pending g _

@[simp] theorem plcPolicyH_pending (b : Bytes) (s : State) : (plcPolicyH b s).2.pending = s.pending := by
  simp [plcPolicyH, apply_ite State.pending, apply_ite Prod.snd]

@[simp] theorem holdoffEnd_pending (g : Nat) (s : State) : (holdoffEnd g s).pending = s.pending := by
  simp [holdoffEnd, apply_ite State.pending]

@[simp] theorem hourlyRetry_pending (g : Nat) (s : State) : (hourlyRetry g s).pending = s.pending := by
  simp [hourlyRetry, apply_ite State.pending]

@[simp] theorem heatFold_pending (s : State) : (heatFold s).pending = s.pending := (rfl)
@[simp] theorem urgencyStep_pending (n : Nat) (s : State) : (urgencyStep n s).pending = s.pending := (rfl)

/-! ### Machine/ColdFrame.lean -/

@[simp] theorem programPage_pending (key lin : Nat) (data : Bytes) (s : State) : (programPage key lin data s).pending = s.pending := by
  unfold programPage
  split <;> simp

@[simp] theorem programBoth_pending (key lin : Nat) (data : Bytes) (s : State) : (programBoth key lin data s).pending = s.pending := by
  unfold programBoth
  split <;> simp

@[simp] theorem setOpenSled_pending (g sl : Nat) (os : OpenSled) (s : State) : (setOpenSled g sl os s).pending = s.pending := (rfl)

@[simp] theorem touchRow_pending (g : Nat) (ob : OpenBand) (n : Nat) (s : State) : (touchRow g ob n s).pending = s.pending := by
  unfold touchRow
  split <;> simp

@[simp] theorem flushPage_pending (g sl : Nat) (s : State) : (flushPage g sl s).pending = s.pending := by
  simp only [flushPage]
  repeat' split
  all_goals simp

@[simp] theorem padPage_pending (g sl : Nat) (s : State) : (padPage g sl s).pending = s.pending := by
  unfold padPage
  repeat' split
  all_goals simp

@[simp] theorem padShelf_pending (g : Nat) (s : State) : (padShelf g s).pending = s.pending :=
  pending_of_offMedia (padShelf_offMedia g s)

@[simp] theorem recordBlocks_pending (bs : List (Nat × Nat × Nat × Nat)) (s : State) : (recordBlocks bs s).pending = s.pending := by
  simp [recordBlocks, apply_ite State.pending]

@[simp] theorem verifyRead_pending (key lin : Nat) (s : State) : (verifyRead key lin s).pending = s.pending := by
  unfold verifyRead
  split <;> simp

@[simp] theorem startVerify_pending (key : Nat) (s : State) : (startVerify key s).pending = s.pending := by
  unfold startVerify
  repeat' split
  all_goals simp

@[simp] theorem closeBand_pending (g : Nat) (s : State) : (closeBand g s).pending = s.pending := by
  exact pending_of_offMedia (closeBand_offMedia g s)

@[simp] theorem takeBlocks_pending (b : BSet) (s : State) : (takeBlocks b s).pending = s.pending := by
  simp [takeBlocks, apply_ite State.pending]

theorem openBand_pending {g : Nat} {s t : State} (h : openBand g s = some t) : t.pending = s.pending := by
  simp only [openBand] at h
  split at h
  · cases h
  · obtain rfl := Option.some.inj h
    simp only [setShelf_pending, recordBlocks_pending]
    refine foldl_fst_pending (fun acc sl => ?_) _ _
    repeat' split
    all_goals simp

@[simp] theorem writeGrains_pending (g sl k : Nat) (b : Bytes) (s : State) : (writeGrains g sl k b s).2.pending = s.pending := by
  induction k generalizing b s with
  | zero => rfl
  | succ k ih =>
    simp only [writeGrains]
    repeat' split
    all_goals simp [ih]

theorem placeRound_pending (g : Nat) (b : Bytes) {again : State → Option (Nat × List (Nat × Nat × Nat)) × State}
    (ha : ∀ s, (again s).2.pending = s.pending) (s : State) : (placeRound g b again s).2.pending = s.pending := by
  unfold placeRound
  split
  · split
    · rfl
    next h => rw [ha, openBand_pending h]
  · split
    · split <;> simp [ha]
    · dsimp only
      split
      · rw [ha]
        refine foldl_pending (fun s _ => ?_) _ _
        split <;> simp [apply_ite State.pending]
      · simp

@[simp] theorem placeBytes_pending (g : Nat) (b : Bytes) (k : Nat) (s : State) : (placeBytes g b k s).2.pending = s.pending := by
  induction k generalizing s with
  | zero => rfl
  | succ k ih => exact placeRound_pending g b ih s

@[simp] theorem accumulate_pending (g n j : Nat) (page : Bytes) (s : State) : (accumulate g n j page s).pending = s.pending := (rfl)

@[simp] theorem releaseSecondaries_pending (g band : Nat) (s : State) : (releaseSecondaries g band s).pending = s.pending := by
  simp [releaseSecondaries, apply_ite State.pending]

@[simp] theorem checkHardened_pending (g n : Nat) (s : State) : (checkHardened g n s).pending = s.pending := by
  unfold checkHardened
  repeat' split
  all_goals simp

@[simp] theorem programParity_pending (g n : Nat) (s : State) : (programParity g n s).pending = s.pending := by
  unfold programParity
  split
  · rfl
  · split
    · rfl
    · refine foldl_pending (fun s e => ?_) _ _
      dsimp only
      split <;> simp

@[simp] theorem askMember_pending (row j lin : Nat) (c : BSet) (s : State) : (askMember row j lin c s).pending = s.pending := by
  simp [askMember]

@[simp] theorem readMember_pending (g n j : Nat) (s : State) : (readMember g n j s).pending = s.pending := by
  unfold readMember
  repeat' split
  all_goals simp

@[simp] theorem hardenRow_pending (g n : Nat) (force : Bool) (s : State) : (hardenRow g n force s).pending = s.pending := by
  simp only [hardenRow]
  repeat' split
  all_goals simp [apply_ite State.pending]

/-! ### Machine/Crypto.lean -/

@[simp] theorem keyDataWrite_pending (i : Nat) (w : Word) (s : State) : (keyDataWrite i w s).pending = s.pending := by
  simp [keyDataWrite, apply_ite State.pending]

@[simp] theorem q2Submit_pending (tail : BitVec 8) (s : State) : (q2Submit tail s).pending = s.pending := by
  simp [q2Submit]

@[simp] theorem loadSlot_pending (k : Nat) (key : Bytes) (purpose domain version : Nat) (s : State) :
    (loadSlot k key purpose domain version s).pending = s.pending := by
  simp [loadSlot, apply_ite State.pending]

@[simp] theorem zeroiseSlot_pending (k : Nat) (s : State) : (zeroiseSlot k s).pending = s.pending := by
  simp [zeroiseSlot, apply_ite State.pending]

@[simp] theorem applyKeyOp_pending (op : KeyOp) (s : State) : (applyKeyOp op s).pending = s.pending := by
  simp [applyKeyOp, apply_ite State.pending]

@[simp] theorem startKeyOp_pending (slot : Nat) (zero : Bool) (s : State) : (startKeyOp slot zero s).pending = s.pending := by
  simp [startKeyOp, apply_ite State.pending]

@[simp] theorem dgtOwned_pending (user : Nat) {f : Digest → State → State} (hf : ∀ d s, (f d s).pending = s.pending) (s : State) :
    (dgtOwned user f s).pending = s.pending := by
  unfold dgtOwned
  dsimp only
  split <;> simp [hf]

@[simp] theorem digestFinal_pending (user : Nat) (lastBytes : BitVec 2) (s : State) :
    (digestFinal user lastBytes s).pending = s.pending := by
  refine dgtOwned_pending user (fun d s => ?_) s
  dsimp only
  repeat' split
  all_goals simp

@[simp] theorem digestStart_pending (user : Nat) (alg : BitVec 2) (hmac restore : Bool) (slot : BitVec 6) (s : State) :
    (digestStart user alg hmac restore slot s).pending = s.pending := by
  refine dgtOwned_pending user (fun d s => ?_) s
  dsimp only
  repeat' split
  all_goals simp

@[simp] theorem dgtGrant_pending (s : State) : (dgtGrant s).pending = s.pending := by
  simp [dgtGrant, apply_ite State.pending]

@[simp] theorem dgtRelease_pending (s : State) : (dgtRelease s).pending = s.pending := by
  simp [dgtRelease]

@[simp] theorem digestClaimRequest_pending (req : BitVec 3) (s : State) : (digestClaimRequest req s).pending = s.pending := by
  simp [digestClaimRequest, apply_ite State.pending]

@[simp] theorem dgtWindowRequest_pending (req : BitVec 3) (s : State) : (dgtWindowRequest req s).pending = s.pending := by
  simp [dgtWindowRequest, apply_ite State.pending]

@[simp] theorem digestDataWrite_pending (user : Nat) (w : Word) (s : State) : (digestDataWrite user w s).pending = s.pending := by
  refine dgtOwned_pending user (fun d s => ?_) s
  dsimp only
  repeat' split
  all_goals simp

@[simp] theorem pkaSubmit_pending (op : Nat) (s : State) : (pkaSubmit op s).pending = s.pending := (rfl)

@[simp] theorem drbgReseed_pending (s : State) : (drbgReseed s).pending = s.pending := by
  simp [drbgReseed, apply_ite State.pending]

@[simp] theorem drbgRequest_pending (s : State) : (drbgRequest s).pending = s.pending := (rfl)

@[simp] theorem pkaDone_pending (selfCheckOk : Bool) (s : State) : (pkaDone selfCheckOk s).pending = s.pending := by
  unfold pkaDone
  split <;> simp

@[simp] theorem digestWindowIdleTimeout_pending (s : State) : (digestWindowIdleTimeout s).pending = s.pending := by
  simp [digestWindowIdleTimeout, apply_ite State.pending]

@[simp] theorem q2Done_pending (id : Nat) (poisoned : Bool) (s : State) : (q2Done id poisoned s).pending = s.pending := by
  simp only [q2Done]
  repeat' split
  all_goals simp

@[simp] theorem rngHealthTrip_pending (apt withinMinute : Bool) (s : State) : (rngHealthTrip apt withinMinute s).pending = s.pending := by
  simp [rngHealthTrip, apply_ite State.pending]

@[simp] theorem digestBlockDone_pending (s : State) : (digestBlockDone s).pending = s.pending := by
  simp [digestBlockDone, apply_ite State.pending]

/-! ### Machine/Wear.lean -/

@[simp] theorem bandAhead_pending (g band : Nat) (s : State) : (bandAhead g band s).pending = s.pending := by
  simp [bandAhead]

@[simp] theorem blockAhead_pending (port die block : Nat) (s : State) : (blockAhead port die block s).pending = s.pending := by
  unfold blockAhead
  split <;> simp

@[simp] theorem closeShort_pending (g sl : Nat) (ob : OpenBand) (s : State) : (closeShort g sl ob s).pending = s.pending := by
  refine foldl_pending (fun s k => ?_) _ _
  split
  · rfl
  · dsimp only
    split <;> simp

@[simp] theorem loseSled_pending (g sl : Nat) (s : State) : (loseSled g sl s).pending = s.pending := by
  simp only [loseSled]
  repeat' split
  all_goals simp

@[simp] theorem retireDie_pending (port die : Nat) (s : State) : (retireDie port die s).pending = s.pending := by
  simp [retireDie, apply_ite State.pending]

@[simp] theorem retireBlock_pending (port die block : Nat) (s : State) : (retireBlock port die block s).pending = s.pending := by
  simp only [retireBlock]
  repeat' split
  all_goals simp

@[simp] theorem eraseAt_pending (key pos : Nat) (s : State) : (eraseAt key pos s).pending = s.pending := by
  unfold eraseAt
  split <;> simp

@[simp] theorem freeDieParity_pending (key : Nat) (s : State) : (freeDieParity key s).pending = s.pending := by
  simp only [freeDieParity]
  repeat' split
  all_goals simp

@[simp] theorem eraseEnd_pending (key : Nat) (s : State) : (eraseEnd key s).pending = s.pending := by
  unfold eraseEnd
  repeat' split
  all_goals simp

@[simp] theorem erased_pending (key pos : Nat) (s : State) : (erased key pos s).pending = s.pending := by
  unfold erased
  repeat' split
  all_goals simp

@[simp] theorem checkDisturb_pending (k : Nat) (s : State) : (checkDisturb k s).pending = s.pending := by
  simp only [checkDisturb]
  repeat' split
  all_goals simp

@[simp] theorem foldReads_pending (k : Nat) (s : State) : (foldReads k s).pending = s.pending := by
  simp [foldReads, apply_ite State.pending]

@[simp] theorem countRead_pending (port die block : Nat) (s : State) : (countRead port die block s).pending = s.pending := by
  simp [countRead, apply_ite State.pending]

@[simp] theorem planGc_pending (g : Nat) (s : State) : (planGc g s).pending = s.pending := by
  have hwear (l : List Nat) (s : State) : (l.foldl (fun s sl => match wearBand s (g * 32 + sl) with
      | some b => if bandEligible s g b then bandAhead g b s else s
      | none => s) s).pending = s.pending := by
    refine foldl_pending (fun s sl => ?_) l s
    repeat' split
    all_goals simp
  unfold planGc
  dsimp only
  split
  · rfl
  · split
    · exact hwear _ s
    · split
      · rw [addItem_pending]; exact hwear _ s
      · exact hwear _ s

@[simp] theorem foldAll_pending (s : State) : (foldAll s).pending = s.pending := by
  simp [foldAll]

@[simp] theorem eraseSet_pending (key : Nat) (s : State) : (eraseSet key s).pending = s.pending := by
  simp only [eraseSet]
  repeat' split
  all_goals simp [apply_ite State.pending]

/-! ### Machine/Dovecote.lean -/

@[simp] theorem updateIndex_pending (serial : Nat) (loc : Loc) (s : State) : (updateIndex serial loc s).pending = s.pending := (rfl)
@[simp] theorem reloadFilter_pending (s : State) : (reloadFilter s).pending = s.pending := (rfl)
@[simp] theorem domCount_pending (d : Nat) (f : DomCnt → DomCnt) (s : State) : (domCount d f s).pending = s.pending := (rfl)

@[simp] theorem insertNow_pending (fp : Bytes) (serial : Nat) (d : Nat) (s : State) : (insertNow fp serial d s).pending = s.pending := by
  simp [insertNow, apply_ite State.pending]

@[simp] theorem insertIndex_pending (fp : Bytes) (serial : Nat) (d : Nat) (s : State) :
    (insertIndex fp serial d s).pending = s.pending := by
  simp [insertIndex, apply_ite State.pending]

@[simp] theorem readGroup_pending (b : Nat) (s : State) : (readGroup b s).pending = s.pending := (rfl)

@[simp] theorem reloadBucket_pending (b : Nat) (s : State) : (reloadBucket b s).pending = s.pending := by
  simp [reloadBucket]

@[simp] theorem loadNext_pending (s : State) : (loadNext s).pending = s.pending := by
  unfold loadNext
  split <;> simp

@[simp] theorem countDecomp_pending (tooLong : Bool) (s : State) : (countDecomp tooLong s).pending = s.pending := (rfl)
@[simp] theorem askReloads_pending (bs : List Nat) (s : State) : (askReloads bs s).pending = s.pending := (rfl)

/-! ### Machine/Fetch.lean -/

@[simp] theorem issueReads_pending (n : Nat) (s : State) : (issueReads n s).pending = s.pending := by
  unfold issueReads
  split <;> simp

@[simp] theorem lostEvent_pending (serial : Nat) (s : State) : (lostEvent serial s).pending = s.pending := by
  simp [lostEvent]

@[simp] theorem readStaged_pending (serial : Nat) (s : State) : (readStaged serial s).pending = s.pending := by
  unfold readStaged
  split <;> simp

@[simp] theorem tryFetch_pending (n k : Nat) (s : State) : (tryFetch n k s).pending = s.pending := by
  induction k generalizing s with
  | zero => rfl
  | succ k ih =>
    simp only [tryFetch]
    repeat' split
    all_goals simp [ih]

@[simp] theorem startFetch_pending (serial : Nat) (why : FetchFor) (s : State) : (startFetch serial why s).pending = s.pending := by
  simp [startFetch]

@[simp] theorem startMove_pending (serial g : Nat) (why : MoveFor) (s : State) : (startMove serial g why s).pending = s.pending := by
  unfold startMove
  repeat' split
  all_goals simp

@[simp] theorem placeCopy_pending (m : Nat) (s : State) : (placeCopy m s).pending = s.pending := by
  unfold placeCopy
  split
  · rfl
  · split
    · rfl
    · split
      next h => exact snd_pending h (placeBytes_pending _ _ _ _)
      next h => exact (snd_pending h (placeBytes_pending _ _ _ _) :)

@[simp] theorem endMove_pending (m : Nat) (s : State) : (endMove m s).pending = s.pending := (rfl)

@[simp] theorem drainStaged_pending (serial : Nat) (s : State) : (drainStaged serial s).pending = s.pending := by
  unfold drainStaged
  split <;> simp

@[simp] theorem failSource_pending (n : Nat) (delivered : Bool) (s : State) : (failSource n delivered s).pending = s.pending := by
  simp [failSource]

@[simp] theorem reresolve_pending (n : Nat) (delivered : Bool) (s : State) : (reresolve n delivered s).pending = s.pending := by
  unfold reresolve
  repeat' split
  all_goals simp

@[simp] theorem fetchArrived_pending (n : Nat) (s : State) : (fetchArrived n s).pending = s.pending := by
  simp only [fetchArrived]
  repeat' split
  all_goals simp

@[simp] theorem fetchPiece_pending (n i outcome : Nat) (data : Bytes) (s : State) :
    (fetchPiece n i outcome data s).pending = s.pending := by
  unfold fetchPiece
  repeat' split
  all_goals simp

@[simp] theorem markRecovered_pending (n : Nat) (envelope region : Bytes) (s : State) :
    (markRecovered n envelope region s).pending = s.pending := by
  simp only [markRecovered]
  repeat' split
  all_goals simp

/-! ### Machine/Media.lean -/

@[simp] theorem placeAgain_pending (isCopy : Bool) (k : Nat) (p : Placed) (s : State) : (placeAgain isCopy k p s).pending = s.pending := by
  unfold placeAgain
  dsimp only
  split
  · rfl
  · split
    · split <;> rfl
    · split
      next h => exact snd_pending h ((placeBytes_pending _ _ _ _).trans (by split <;> rfl))
      next h =>
        have hp := snd_pending h ((placeBytes_pending _ _ _ _).trans (apply_ite State.pending _ _ _))
        split <;> simpa using hp

@[simp] theorem renewSled_pending (g sl : Nat) (s : State) : (renewSled g sl s).pending = s.pending := by
  simp only [renewSled]
  repeat' split
  all_goals simp

@[simp] theorem programFailed_pending (key lin : Nat) (retire : Bool) (s : State) :
    (programFailed key lin retire s).pending = s.pending := by
  unfold programFailed
  split
  · rfl
  next b _ =>
    have hvoid : ∀ (l : List Nat) (s : State), (l.foldl (fun s l => match rowAt s key l with
        | some (r, j) =>
          if r.hardened then s else modRow r.shelf r.number (fun r => { r with mem := r.mem.set j .void }) s
        | none => s) s).pending = s.pending := by
      intro l s
      refine foldl_pending (fun s l => ?_) l s
      repeat' split
      all_goals simp
    simp [apply_ite State.pending]
    exact fun _ => hvoid _ _

@[simp] theorem checkPair_pending (key : Nat) (s : State) : (checkPair key s).pending = s.pending := by
  simp only [checkPair]
  repeat' split
  all_goals simp

@[simp] theorem verifyPass_pending (key lin : Nat) (data : Bytes) (s : State) : (verifyPass key lin data s).pending = s.pending := by
  simp only [verifyPass]
  repeat' split
  all_goals simp

@[simp] theorem rebuildWrite_pending (r : Row) (w key lin : Nat) (page : Bytes) (s : State) :
    (rebuildWrite r w key lin page s).pending = s.pending := by
  simp [rebuildWrite]

@[simp] theorem rebuildLost_pending (r : Row) (w key lin : Nat) (s : State) : (rebuildLost r w key lin s).pending = s.pending := by
  simp [rebuildLost]

@[simp] theorem rebuildStep_pending (key : Nat) (s : State) : (rebuildStep key s).pending = s.pending := by
  simp only [rebuildStep]
  repeat' split
  all_goals simp [apply_ite State.pending]

@[simp] theorem rebuildDone_pending (r : Row) (w j outcome key lin : Nat) (data : Bytes) (s : State) :
    (rebuildDone r w j outcome key lin data s).pending = s.pending := by
  unfold rebuildDone
  repeat' split
  all_goals simp

@[simp] theorem resumeWork_pending (g : Nat) (s : State) : (resumeWork g s).pending = s.pending := by
  unfold resumeWork
  refine (foldl_pending (fun s r => ?_) _ _).trans (foldl_pending (fun s e => ?_) _ _)
  · dsimp only
    repeat' split
    all_goals simp
  · refine (foldl_pending (fun s pos => ?_) _ _).trans (startVerify_pending _ _)
    split <;> simp

@[simp] theorem eraseAnswer_pending (w : SledPend) (port outcome : Nat) (s : State) :
    (eraseAnswer w port outcome s).pending = s.pending := by
  simp only [eraseAnswer]
  repeat' split
  all_goals simp

@[simp] theorem mergeOn_pending (g dest : Nat) (s : State) : (mergeOn g dest s).pending = s.pending := by
  refine foldl_pending (fun s o => ?_) _ _
  dsimp only
  repeat' split
  all_goals simp

@[simp] theorem gcAdvance_pending (g band : Nat) (s : State) : (gcAdvance g band s).pending = s.pending := by
  unfold gcAdvance
  dsimp only
  split
  · rfl
  · split
    · simp
    · split
      · simp
      · rw [recordBlocks_pending]
        exact foldl_pending (fun s k => modSet_pending k _ s) _ s

@[simp] theorem startGc_pending (g band : Nat) (s : State) : (startGc g band s).pending = s.pending := by
  rw [startGc, gcAdvance_pending]
  exact foldl_pending (fun s k => modSet_pending k _ s) _ s

@[simp] theorem joinBatch_pending (g : Nat) (deadline : Nat) (s : State) : (joinBatch g deadline s).pending = s.pending := by
  simp [joinBatch, apply_ite State.pending]

@[simp] theorem renameChunk_pending (old new : Nat) (f : ChunkRec → ChunkRec) (s : State) :
    (renameChunk old new f s).pending = s.pending := by
  unfold renameChunk
  split <;> simp

@[simp] theorem drainTo_pending (serial g : Nat) (bytes : Bytes) (transit : Bool) (s : State) :
    (drainTo serial g bytes transit s).pending = s.pending := by
  unfold drainTo
  split
  next h => exact snd_pending h (placeBytes_pending _ _ _ _)
  next h => rw [drainStaged_pending]; exact (snd_pending h (placeBytes_pending _ _ _ _) :)

@[simp] theorem fillShelf_pending (vol : Nat) (s : State) : (fillShelf vol s).2.pending = s.pending := by
  simp only [fillShelf]
  repeat' split
  all_goals simp

@[simp] theorem placeChunk_transitTo_pending (serial : Nat) (b : Bytes) (s : State) :
    (placeChunk.transitTo serial b s).pending = s.pending := by
  unfold placeChunk.transitTo
  split
  · split <;> simp
  · rfl

@[simp] theorem placeChunk_cold_pending (serial vol : Nat) (b : Bytes) (s : State) :
    (placeChunk.cold serial vol b s).pending = s.pending := by
  unfold placeChunk.cold
  dsimp only
  split
  · split
    · simp
    · simp [apply_ite State.pending]
  · simp

@[simp] theorem placeChunk_pending (serial : Nat) (s : State) : (placeChunk serial s).pending = s.pending := by
  simp only [placeChunk]
  repeat' split
  all_goals simp

@[simp] theorem chunkPlace_pending (serial : Nat) (s : State) : (chunkPlace serial s).pending = s.pending := by
  simp only [chunkPlace]
  repeat' split
  all_goals simp

@[simp] theorem batchEnd_pending (s : State) : (batchEnd s).pending = s.pending := by
  simp [batchEnd]

@[simp] theorem finishMove_pending (m : Nat) (v : Move) (s : State) : (finishMove m v s).pending = s.pending := by
  simp only [finishMove]
  repeat' split
  all_goals simp

@[simp] theorem applyMoveRec_pending (off : Nat) (es : List MoveEntry) (s : State) : (applyMoveRec off es s).pending = s.pending := by
  simp [applyMoveRec]

@[simp] theorem verifyFail_pending (key lin : Nat) (s : State) : (verifyFail key lin s).pending = s.pending := by
  unfold verifyFail
  split
  · rfl
  · dsimp only
    rw [checkPair_pending]
    split <;> split <;> simp [apply_ite State.pending]

@[simp] theorem verifyDone_pending (key lin outcome corrected : Nat) (data : Bytes) (s : State) :
    (verifyDone key lin outcome corrected data s).pending = s.pending := by
  simp only [verifyDone]
  repeat' split
  all_goals simp

@[simp] theorem startClose_pending (g : Nat) (after : Bool) (s : State) : (startClose g after s).pending = s.pending := by
  simp [startClose]

@[simp] theorem awakeAdvance_pending (s : State) : (awakeAdvance s).pending = s.pending := by
  unfold awakeAdvance
  refine foldl_pending (fun s g => ?_) _ _
  simp [apply_ite State.pending]

@[simp] theorem confirmPage_pending (key lin : Nat) (s : State) : (confirmPage key lin s).pending = s.pending := by
  simp only [confirmPage]
  repeat' split
  all_goals simp

@[simp] theorem programAnswer_pending (w : SledPend) (port outcome : Nat) (s : State) :
    (programAnswer w port outcome s).pending = s.pending := by
  unfold programAnswer
  repeat' split
  all_goals simp

@[simp] theorem askRefresh_pending (key pos deadline : Nat) (s : State) : (askRefresh key pos deadline s).pending = s.pending := by
  unfold askRefresh
  repeat' split
  all_goals simp

@[simp] theorem inspectRead_pending (key lin : Nat) (s : State) : (inspectRead key lin s).pending = s.pending := by
  unfold inspectRead
  split <;> simp

@[simp] theorem inspectFrom_pending (g from_ : Nat) (s : State) : (inspectFrom g from_ s).pending = s.pending := by
  unfold inspectFrom
  split <;> simp

@[simp] theorem inspectDone_pending (key lin outcome corrected : Nat) (s : State) :
    (inspectDone key lin outcome corrected s).pending = s.pending := by
  simp only [inspectDone]
  repeat' split
  all_goals simp

@[simp] theorem memberDone_pending (row j outcome : Nat) (data : Bytes) (s : State) :
    (memberDone row j outcome data s).pending = s.pending := by
  unfold memberDone
  repeat' split
  all_goals simp

@[simp] theorem readAnswer_pending (w : SledPend) (port outcome corrected : Nat) (data : Bytes) (s : State) :
    (readAnswer w port outcome corrected data s).pending = s.pending := by
  simp only [readAnswer]
  repeat' split
  all_goals simp

@[simp] theorem sledAnswer_pending (w : SledPend) (port outcome corrected : Nat) (data : Bytes) (s : State) :
    (sledAnswer w port outcome corrected data s).pending = s.pending := by
  simp [sledAnswer, apply_ite State.pending]

@[simp] theorem startInspect_pending (g : Nat) (s : State) : (startInspect g s).pending = s.pending := by
  simp [startInspect]

@[simp] theorem planInspect_pending (s : State) : (planInspect s).pending = s.pending := by
  simp only [planInspect]
  repeat' split
  all_goals simp

@[simp] theorem endedAdvance_pending (s : State) : (endedAdvance s).pending = s.pending := by
  simp [endedAdvance]

@[simp] theorem shedShare_pending (s : State) : (shedShare s).pending = s.pending := by
  simp only [shedShare]
  repeat' split
  all_goals simp

@[simp] theorem adoptedInsert_pending (serial : Nat) (s : State) : (adoptedInsert serial s).pending = s.pending := by
  simp only [adoptedInsert]
  repeat' split
  all_goals simp

@[simp] theorem recordPlaced_pending (s : State) : (recordPlaced s).pending = s.pending := by
  refine foldl_pending (fun s e => ?_) _ _
  split
  · rfl
  · dsimp only
    split
    · rfl
    · rw [adoptedInsert_pending]
      dsimp only
      split <;> simp

@[simp] theorem dropBase_pending (serial : Nat) (s : State) : (dropBase serial s).pending = s.pending := by
  simp [dropBase]

@[simp] theorem unmapAll_pending (serial : Nat) (s : State) : (unmapAll serial s).pending = s.pending := by
  refine foldl_pending (fun s key => ?_) _ _
  refine foldl_pending (fun s p => ?_) _ _
  exact foldl_pending (fun s e => unmapChunk_pending _ _ _) _ _

@[simp] theorem sealMerged_pending (m : Nat) (v : Move) (s : State) : (sealMerged m v s).pending = s.pending := by
  simp only [sealMerged]
  repeat' split
  all_goals simp

@[simp] theorem mergeLayer_pending (m : Nat) (env : Env) (data : Bytes) (s : State) : (mergeLayer m env data s).pending = s.pending := by
  simp only [mergeLayer]
  repeat' split
  all_goals simp

@[simp] theorem applyMoves_pending (s : State) : (applyMoves s).pending = s.pending := by
  simp [applyMoves]

@[simp] theorem closeAdvance_pending (g : Nat) (s : State) : (closeAdvance g s).pending = s.pending := by
  simp [closeAdvance, apply_ite State.pending]

@[simp] theorem closeIdle_pending (s : State) : (closeIdle s).pending = s.pending := by
  unfold closeIdle
  refine foldl_pending (fun s g => ?_) _ _
  split <;> simp

@[simp] theorem mergesDue_pending (s : State) : (mergesDue s).pending = s.pending := by
  refine foldl_pending (fun s e => ?_) _ _
  repeat' split
  all_goals simp

@[simp] theorem reseal_pending (m : Nat) (envelope region : Bytes) (s : State) : (reseal m envelope region s).pending = s.pending := by
  simp only [reseal]
  repeat' split
  all_goals simp

@[simp] theorem noSource_pending (serial : Nat) (s : State) : (noSource serial s).pending = s.pending := by
  simp [noSource]

@[simp] theorem movesArrived_pending (s : State) : (movesArrived s).pending = s.pending := by
  refine foldl_pending (fun s e => ?_) _ _
  split
  · split
    · rfl
    · dsimp only
      split
      · split <;> simp
      · simp
      · simp
  · dsimp only
    split
    · simp [apply_ite State.pending]
    · rfl
  · rfl

@[simp] theorem placeCopies_pending (s : State) : (placeCopies s).pending = s.pending := by
  simp [placeCopies]

@[simp] theorem rebuildAdvance_pending (s : State) : (rebuildAdvance s).pending = s.pending := by
  refine foldl_pending (fun s e => ?_) _ _
  split
  · dsimp only
    repeat' split
    all_goals simp
  · rfl

@[simp] theorem recordMoves_pending (s : State) : (recordMoves s).pending = s.pending := by
  refine foldl_pending (fun s e => ?_) _ _
  split
  · rfl
  · split
    · rfl
    · exact writeLoose_pending _ _

@[simp] theorem refreshAdvance_pending (s : State) : (refreshAdvance s).pending = s.pending := by
  refine foldl_pending (fun s e => ?_) _ _
  split
  · split
    · rfl
    · dsimp only
      repeat' split
      all_goals simp
  · rfl

@[simp] theorem shelfJobs_pending (s : State) : (shelfJobs s).pending = s.pending := by
  simp only [shelfJobs]
  repeat' split
  all_goals simp [apply_ite State.pending]

@[simp] theorem freeStranded_pending (s : State) : (freeStranded s).pending = s.pending := by
  simp [freeStranded, apply_ite State.pending]

@[simp] theorem mediaAdvance_pending (s : State) : (mediaAdvance s).pending = s.pending := by
  unfold mediaAdvance
  simp

@[simp] theorem planGcWake_pending (s : State) : (planGcWake s).pending = s.pending := by
  simp only [planGcWake]
  repeat' split
  all_goals simp

@[simp] theorem closeComplete_pending (g : Nat) (s : State) : (closeComplete g s).pending = s.pending := by
  simp [closeComplete, apply_ite State.pending]

@[simp] theorem planWork_pending (s : State) : (planWork s).pending = s.pending := by
  unfold planWork
  refine foldl_pending (fun s g => ?_) _ _
  split
  · rfl
  · simp [apply_ite State.pending]

@[simp] theorem goodFall_pending (g : Nat) (s : State) : (goodFall g s).pending = s.pending := by
  simp only [goodFall]
  repeat' split
  all_goals simp

@[simp] theorem applyCovered_pending (offs : List Nat) (s : State) : (applyCovered offs s).pending = s.pending := by
  simp [applyCovered, apply_ite State.pending]

@[simp] theorem planSweep_pending (s : State) : (planSweep s).pending = s.pending := by
  simp [planSweep, apply_ite State.pending]

@[simp] theorem grantRoom_pending (i : Item) (s : State) : (grantRoom i s).pending = s.pending := by
  unfold grantRoom
  split <;> simp

@[simp] theorem makeRoom_pending (i : Nat × Item) (s : State) : (makeRoom i s).2.pending = s.pending := by
  have hlower (l : List Nat) (s : State) : (l.foldl (fun s h => lowerCaps h (roomOf (carries s h))
      (fun s => hasItsRoom i.2 (grantRoom i.2 s)) s) s).pending = s.pending := foldl_pending (fun s h => lowerCaps_pending _ _ _ s) l s
  have hmore (l : List (Nat × Item)) (s : State) : (l.foldl (fun s e =>
      lowerCaps e.2.shelf (roomOf (((itemsOf s e.2.shelf).filter (fun x => ranksBefore x e)).map (·.2.cls) ++
        (if readsUnder s e.2.shelf then [.read] else []))) (fun s => hasItsRoom i.2 (grantRoom i.2 s)) s) s).pending = s.pending :=
    foldl_pending (fun s e => lowerCaps_pending _ _ _ s) l s
  unfold makeRoom
  dsimp only
  split
  · rw [grantRoom_pending, hmore, hlower]
  · split
    · split
      · rw [hmore, hlower]
      · rw [startClose_pending, hmore, hlower]
    · rw [grantRoom_pending, hmore, hlower]

@[simp] theorem startRebuild_pending (g sl : Nat) (s : State) : (startRebuild g sl s).pending = s.pending := by
  refine foldl_pending (fun s e => ?_) _ _
  split
  · rfl
  · rw [rebuildStep_pending]
    refine (foldl_pending (fun s r => ?_) _ _).trans (by simp)
    split
    · rfl
    · split <;> simp

@[simp] theorem grantItem_pending (n : Nat) (i : Item) (s : State) : (grantItem n i s).pending = s.pending := by
  simp only [grantItem]
  repeat' split
  all_goals simp

@[simp] theorem tryGrant_pending (e : Nat × Item) (s : State) : (tryGrant e s).2.pending = s.pending := by
  simp only [tryGrant]
  repeat' split
  all_goals simp

@[simp] theorem scheduleGrant_pending (s : State) : (scheduleGrant s).pending = s.pending := by
  simp [scheduleGrant]

@[simp] theorem idleClose_pending (g : Nat) (s : State) : (idleClose g s).pending = s.pending := by
  simp [idleClose, apply_ite State.pending]

@[simp] theorem minAwakeExpiry_pending (g : Nat) (s : State) : (minAwakeExpiry g s).pending = s.pending := by
  simp [minAwakeExpiry, apply_ite State.pending]

@[simp] theorem gcEraseWaitEnd_pending (g band : Nat) (s : State) : (gcEraseWaitEnd g band s).pending = s.pending := by
  simp [gcEraseWaitEnd, apply_ite State.pending]

/-! ### Machine/Ingest.lean -/

@[simp] theorem currentEnt_pending (vol chunk : Nat) (s : State) : (currentEnt vol chunk s).2.pending = s.pending := by
  unfold currentEnt
  split <;> simp

@[simp] theorem atStage_pending (asn chunk : Nat) (st : ChunkStage) {f : Cmd → ChunkWork → State → State}
    (hf : ∀ c w s, (f c w s).pending = s.pending) (s : State) : (atStage asn chunk st f s).pending = s.pending := by
  unfold atStage
  repeat' split
  all_goals simp [hf]

@[simp] theorem startWorkRead_pending (asn chunk serial : Nat) (loc : Loc) (why : FetchFor) (s : State) :
    (startWorkRead asn chunk serial loc why s).pending = s.pending := by
  simp only [startWorkRead]
  repeat' split
  all_goals simp

@[simp] theorem discardWork_pending (asn : Nat) (s : State) : (discardWork asn s).pending = s.pending := by
  unfold discardWork
  split
  · rfl
  · refine foldl_pending (fun s w => ?_) _ _
    split <;> simp

@[simp] theorem endWriter_pending (asn : Nat) (st : Status) (result : Nat) (s : State) :
    (endWriter asn st result s).pending = s.pending := by
  simp [endWriter, apply_ite State.pending]

@[simp] theorem toCompress_pending (asn chunk : Nat) (cls : ChunkCls) (s : State) : (toCompress asn chunk cls s).pending = s.pending := by
  simp only [toCompress]
  repeat' split
  all_goals simp

@[simp] theorem toFingerprint_pending (asn chunk : Nat) (data : Bytes) (s : State) :
    (toFingerprint asn chunk data s).pending = s.pending := (rfl)

@[simp] theorem takeTurn_pending (asn chunk : Nat) (s : State) : (takeTurn asn chunk s).pending = s.pending := by
  unfold takeTurn
  refine atStage_pending _ _ _ (fun c w s => ?_) s
  dsimp only
  split
  · rfl
  · split
    · simp
    · split
      · simp
      · split <;> simp

@[simp] theorem applyRelease_pending (key first blocks : Nat) (s : State) : (applyRelease key first blocks s).pending = s.pending := by
  simp [applyRelease]

@[simp] theorem enterChunk_pending (off : Nat) (mirror : Bool) (envelope : Bytes) (s : State) :
    (enterChunk off mirror envelope s).pending = s.pending := by
  simp only [enterChunk]
  repeat' split
  all_goals simp

@[simp] theorem mapNew_pending (key chunk serial : Nat) (s : State) : (mapNew key chunk serial s).pending = s.pending := by
  simp [mapNew, apply_ite State.pending]

@[simp] theorem applyRec_pending (snap off : Nat) (mirror : Bool) (b : JBody) (s : State) :
    (applyRec snap off mirror b s).pending = s.pending := by
  unfold applyRec
  repeat' split
  all_goals simp

@[simp] theorem applyUnit_pending (asn unit : Nat) (s : State) : (applyUnit asn unit s).pending = s.pending := by
  simp [applyUnit]

@[simp] theorem endCmd_pending (asn : Nat) (st : Status) (result : Nat) (s : State) : (endCmd asn st result s).pending = s.pending := by
  unfold endCmd
  repeat' split
  all_goals simp

@[simp] theorem lookedUp_pending (asn chunk : Nat) (s : State) : (lookedUp asn chunk s).pending = s.pending := (rfl)

@[simp] theorem asNew_pending (asn chunk : Nat) (s : State) : (asNew asn chunk s).pending = s.pending := by
  simp [asNew]

@[simp] theorem asReference_pending (asn chunk serial : Nat) (s : State) : (asReference asn chunk serial s).pending = s.pending := by
  unfold asReference
  split <;> simp

@[simp] theorem clearSlot_pending (b slot : Nat) (s : State) : (clearSlot b slot s).pending = s.pending := (rfl)

@[simp] theorem lookupSlots_pending (asn chunk b : Nat) (l : List Nat) (s : State) : (lookupSlots asn chunk b l s).pending = s.pending := by
  induction l generalizing s with
  | nil => simp [lookupSlots]
  | cons slot rest ih =>
    simp only [lookupSlots]
    repeat' split
    all_goals simp [ih]

@[simp] theorem applyToCut_pending (vol snap : Nat) (s : State) : (applyToCut vol snap s).pending = s.pending := by
  refine foldl_pending (fun s u => ?_) _ _
  refine foldl_pending (fun s r => ?_) _ _
  split <;> simp

@[simp] theorem applyDeferred_pending (s : State) : (applyDeferred s).pending = s.pending := by
  simp [applyDeferred, apply_ite State.pending]

@[simp] theorem workReads_pending (asn chunk : Nat) (s : State) : (workReads asn chunk s).pending = s.pending := by
  unfold workReads
  split
  · rfl
  · split
    · rfl
    · split
      · split
        next h => rw [startWorkRead_pending]; exact snd_pending h (by simp)
        next h => exact snd_pending h (by simp)
      · split <;> simp
      · rfl

@[simp] theorem writeUnits_pending (asn : Nat) (s : State) : (writeUnits asn s).pending = s.pending := by
  simp only [writeUnits]
  repeat' split
  all_goals simp [apply_ite State.pending]

@[simp] theorem writeWork_pending (asn chunk : Nat) (s : State) : (writeWork asn chunk s).pending = s.pending := by
  simp only [writeWork]
  repeat' split
  all_goals simp

@[simp] theorem ingestAdvance_pending (s : State) : (ingestAdvance s).pending = s.pending := by
  refine (foldl_pending (fun s asn => ?_) _ _).trans (applyDeferred_pending s)
  split
  · rfl
  · split
    · rfl
    · simp [apply_ite State.pending]

@[simp] theorem dropFetch_pending (n : Nat) (s : State) : (dropFetch n s).pending = s.pending := (rfl)

@[simp] theorem compressionDone_pending (asn chunk : Nat) (s : State) : (compressionDone asn chunk s).pending = s.pending := by
  unfold compressionDone
  refine atStage_pending _ _ _ (fun c w s => ?_) s
  simp [apply_ite State.pending]

@[simp] theorem dropPin_pending (asn chunk : Nat) (w : ChunkWork) (s : State) : (dropPin asn chunk w s).pending = s.pending := by
  unfold dropPin
  repeat' split
  all_goals simp

@[simp] theorem journalRelease_pending (asn unit : Nat) (s : State) : (journalRelease asn unit s).pending = s.pending := by
  unfold journalRelease
  repeat' split
  all_goals simp

@[simp] theorem indexGroupDone_pending (asn chunk : Nat) (ok : Bool) (s : State) : (indexGroupDone asn chunk ok s).pending = s.pending := by
  unfold indexGroupDone
  refine atStage_pending _ _ _ (fun c w s => ?_) s
  dsimp only
  repeat' split
  all_goals simp

@[simp] theorem countPoison_pending (s : State) : (countPoison s).pending = s.pending := (rfl)

@[simp] theorem verifyReadDone_endPin_pending (w : ChunkWork) (s : State) : (verifyReadDone.endPin w s).pending = s.pending := by
  simp only [verifyReadDone.endPin]
  repeat' split
  all_goals simp

@[simp] theorem deferUnit_pending (asn unit : Nat) (pins : List Nat) (s : State) : (deferUnit asn unit pins s).pending = s.pending := by
  refine foldl_pending (fun s r => ?_) _ _
  split <;> simp

@[simp] theorem enterFlight_pending (asn chunk : Nat) (w : ChunkWork) (s : State) : (enterFlight asn chunk w s).pending = s.pending := (rfl)

@[simp] theorem lookup_pending (asn chunk : Nat) (s : State) : (lookup asn chunk s).pending = s.pending := by
  simp only [lookup]
  repeat' split
  all_goals simp

@[simp] theorem encryptionDone_pending (asn chunk : Nat) (s : State) : (encryptionDone asn chunk s).pending = s.pending := by
  unfold encryptionDone
  refine atStage_pending _ _ _ (fun c w s => ?_) s
  split
  · rfl
  · split
    · simp
    · simp [apply_ite State.pending, apply_ite Prod.snd]

@[simp] theorem verifyShed_pending (asn chunk : Nat) (s : State) : (verifyShed asn chunk s).pending = s.pending := by
  simp [verifyShed]

@[simp] theorem lookupShed_pending (asn chunk : Nat) (s : State) : (lookupShed asn chunk s).pending = s.pending := by
  simp [lookupShed]

@[simp] theorem commitUnit_pending (asn unit : Nat) (s : State) : (commitUnit asn unit s).pending = s.pending := by
  simp only [commitUnit]
  repeat' split
  all_goals simp [apply_ite State.pending]

@[simp] theorem mergeReadDone_pending (asn chunk : Nat) (poisoned : Bool) (s : State) :
    (mergeReadDone asn chunk poisoned s).pending = s.pending := by
  unfold mergeReadDone
  refine atStage_pending _ _ _ (fun c w s => ?_) s
  dsimp only
  repeat' split
  all_goals simp

@[simp] theorem verifyReadDone_pending (asn chunk : Nat) (poisoned : Bool) (s : State) :
    (verifyReadDone asn chunk poisoned s).pending = s.pending := by
  unfold verifyReadDone
  refine atStage_pending _ _ _ (fun c w s => ?_) s
  dsimp only
  repeat' split
  all_goals simp

@[simp] theorem fingerprintDone_pending (asn chunk : Nat) (s : State) : (fingerprintDone asn chunk s).pending = s.pending := by
  unfold fingerprintDone
  refine atStage_pending _ _ _ (fun c w s => ?_) s
  simp [apply_ite State.pending]

/-! ### Machine/Reads.lean -/

@[simp] theorem startRead_pending (asn : Nat) (s : State) : (startRead asn s).pending = s.pending := by
  simp only [startRead]
  repeat' split
  all_goals simp

@[simp] theorem finishRecall_pending (asn : Nat) (s : State) : (finishRecall asn s).pending = s.pending := by
  simp [finishRecall]

@[simp] theorem setHold_pending (asn : Nat) (staged : List (Nat × Nat)) (shelves : List Nat) (s : State) :
    (setHold asn staged shelves s).pending = s.pending := by
  unfold setHold
  split <;> simp

@[simp] theorem startRecall_pending (asn : Nat) (s : State) : (startRecall asn s).pending = s.pending := by
  simp only [startRecall]
  repeat' split
  all_goals simp

@[simp] theorem failRead_pending (asn chunk : Nat) (st : Status) (s : State) : (failRead asn chunk st s).pending = s.pending := by
  unfold failRead
  split <;> simp

@[simp] theorem readsArrived_pending (s : State) : (readsArrived s).pending = s.pending := by
  refine foldl_pending (fun s e => ?_) _ _
  repeat' split
  all_goals simp

@[simp] theorem decompressionDone_pending (asn chunk : Nat) (s : State) : (decompressionDone asn chunk s).pending = s.pending := by
  simp only [decompressionDone]
  repeat' split
  all_goals simp

@[simp] theorem failWaiting_pending (s : State) : (failWaiting s).pending = s.pending := by
  simp [failWaiting, apply_ite State.pending]

@[simp] theorem deliver_pending (asn chunk : Nat) (s : State) : (deliver asn chunk s).pending = s.pending := by
  simp only [deliver]
  repeat' split
  all_goals simp

@[simp] theorem nextLayer_pending (asn chunk serial : Nat) (s : State) : (nextLayer asn chunk serial s).pending = s.pending := by
  simp only [nextLayer]
  repeat' split
  all_goals simp

@[simp] theorem resolveRead_pending (asn chunk : Nat) (s : State) : (resolveRead asn chunk s).pending = s.pending := by
  simp only [resolveRead]
  repeat' split
  all_goals simp

@[simp] theorem readStep_pending (asn : Nat) (r : ChunkRead) (s : State) : (readStep asn r s).pending = s.pending := by
  unfold readStep
  repeat' split
  all_goals simp

@[simp] theorem readsAdvance_pending (s : State) : (readsAdvance s).pending = s.pending := by
  refine foldl_pending (fun s asn => ?_) _ _
  split
  · rfl
  · split
    · rfl
    · dsimp only
      split
      · simp [apply_ite State.pending]
      · simp [apply_ite State.pending]

@[simp] theorem recallsAdvance_pending (s : State) : (recallsAdvance s).pending = s.pending := by
  refine foldl_pending (fun s asn => ?_) _ _
  repeat' split
  all_goals simp

@[simp] theorem holdExpiry_pending (n : Nat) (s : State) : (holdExpiry n s).pending = s.pending := by
  simp only [holdExpiry]
  repeat' split
  all_goals simp [apply_ite State.pending]

@[simp] theorem recallStageDone_pending (asn : Nat) (s : State) : (recallStageDone asn s).pending = s.pending := by
  simp only [recallStageDone]
  repeat' split
  all_goals simp

/-! ### Machine/Order.lean -/

@[simp] theorem markVols_pending (vols : List Nat) (epoch cause : Nat) (s : State) : (markVols vols epoch cause s).pending = s.pending := by
  simp [markVols, apply_ite State.pending]

@[simp] theorem answerCsn_pending (asn : Nat) (c : Cmd) (st : Status) (orig result : Nat) (s : State) :
    (answerCsn asn c st orig result s).pending = s.pending := by
  simp [answerCsn]

@[simp] theorem seeCsn_pending (queueId csn : Nat) (s : State) : (seeCsn queueId csn s).pending = s.pending := by
  simp only [seeCsn]
  repeat' split
  all_goals simp

@[simp] theorem checkMessage_pending (asn : Nat) (c : Cmd) (s : State) : (checkMessage asn c s).2.pending = s.pending := by
  simp only [checkMessage]
  repeat' split
  all_goals simp

@[simp] theorem dropReader_pending (asn : Nat) (s : State) : (dropReader asn s).pending = s.pending := (rfl)

@[simp] theorem endEarly_pending (asn : Nat) (st : Status) (s : State) : (endEarly asn st s).pending = s.pending := by
  simp [endEarly]

@[simp] theorem epochTimer_pending (s : State) : (epochTimer s).pending = s.pending := by
  simp [epochTimer, apply_ite State.pending]

@[simp] theorem overlapRelease_pending (asn : Nat) (s : State) : (overlapRelease asn s).pending = s.pending := by
  simp only [overlapRelease]
  repeat' split
  all_goals simp

@[simp] theorem startIdentify_pending (asn : Nat) (s : State) : (startIdentify asn s).pending = s.pending := by
  simp only [startIdentify]
  repeat' split
  all_goals simp

@[simp] theorem startWriter_pending (asn : Nat) (data : Bytes) (s : State) : (startWriter asn data s).pending = s.pending := by
  unfold startWriter
  repeat' split
  all_goals simp

@[simp] theorem enterStep3_pending (asn : Nat) (s : State) : (enterStep3 asn s).pending = s.pending := by
  simp only [enterStep3]
  repeat' split
  all_goals simp

@[simp] theorem letIn_pending (asn : Nat) (s : State) : (letIn asn s).pending = s.pending := by
  unfold letIn
  repeat' split
  all_goals simp

@[simp] theorem admitAll_pending (s : State) : (admitAll s).pending = s.pending := by
  simp [admitAll]

@[simp] theorem holdOkFall_pending (s : State) : (holdOkFall s).pending = s.pending := by
  simp [holdOkFall, apply_ite State.pending]

@[simp] theorem barrierRelease_pending (qpn : Nat) (s : State) : (barrierRelease qpn s).pending = s.pending := by
  simp [barrierRelease]

@[simp] theorem runAbort_pending (asn : Nat) (s : State) : (runAbort asn s).pending = s.pending := by
  unfold runAbort
  repeat' split
  all_goals simp

@[simp] theorem runMessage_pending (op qpn tag : Nat) (s : State) : (runMessage op qpn tag s).pending = s.pending := by
  unfold runMessage
  dsimp only
  split
  · rfl
  · split
    · rfl
    · split
      · rfl
      · split
        next h => exact snd_pending h (by simp)
        next h =>
          have hp := snd_pending h (checkMessage_pending _ _ _)
          split <;> simpa using hp

@[simp] theorem epochBegin_pending (s : State) : (epochBegin s).pending = s.pending := by
  simp only [epochBegin]
  repeat' split
  all_goals simp

@[simp] theorem epochMark_pending (s : State) : (epochMark s).pending = s.pending := by
  simp [epochMark, apply_ite State.pending]

@[simp] theorem padCovered_pending (asn : Nat) (c : Cmd) (s : State) : (padCovered asn c s).pending = s.pending := by
  simp [padCovered]

@[simp] theorem untrackedAdvance_pending (s : State) : (untrackedAdvance s).pending = s.pending := by
  simp [untrackedAdvance, apply_ite State.pending]

@[simp] theorem flashExit_pending (s : State) : (flashExit s).pending = s.pending := by
  simp [flashExit, apply_ite State.pending]

@[simp] theorem holdOkRise_pending (s : State) : (holdOkRise s).pending = s.pending := (rfl)

@[simp] theorem dropPlain_pending (qpn tag : Nat) (s : State) : (dropPlain qpn tag s).pending = s.pending := by
  simp [dropPlain, apply_ite State.pending]

@[simp] theorem messageTimer_pending (qpn tag : Nat) (s : State) : (messageTimer qpn tag s).pending = s.pending := by
  unfold messageTimer
  dsimp only
  split
  · split
    · split
      · rfl
      · split
        · split
          next h => exact snd_pending h (by simp)
          next h => rw [endEarly_pending]; exact snd_pending h (by simp)
        · split <;> simp
    · rfl
  · split <;> simp

/-! ### Machine/Repl.lean -/

@[simp] theorem wantBatchWake_pending (rn g : Nat) (s : State) : (wantBatchWake rn g s).pending = s.pending := by
  simp [wantBatchWake, apply_ite State.pending]

@[simp] theorem openLink_pending (r : Nat) (s : State) : (openLink r s).pending = s.pending := (rfl)

@[simp] theorem linkLost_pending (qpn : Nat) (s : State) : (linkLost qpn s).pending = s.pending := by
  simp [linkLost, apply_ite State.pending]

@[simp] theorem closeMsg_pending (rn : Nat) (s : State) : (closeMsg rn s).pending = s.pending := by
  simp [closeMsg, apply_ite State.pending]

@[simp] theorem nextTodo_pending (rn : Nat) (s : State) : (nextTodo rn s).pending = s.pending := (rfl)

@[simp] theorem putRec_pending (rn : Nat) (r : StreamRec) (s : State) : (putRec rn r s).pending = s.pending := by
  simp [putRec, apply_ite State.pending]

@[simp] theorem readLayer_pending (rn serial : Nat) (s : State) : (readLayer rn serial s).pending = s.pending := by
  unfold readLayer
  repeat' split
  all_goals simp

@[simp] theorem buildStep_pending (rn : Nat) (s : State) : (buildStep rn s).pending = s.pending := by
  simp only [buildStep]
  repeat' split
  all_goals simp

@[simp] theorem backToPoint_pending (r : ReplRec) (s : State) : (backToPoint r s).pending = s.pending := by
  refine foldl_pending (fun s v => ?_) _ _
  split <;> simp

@[simp] theorem dropLater_pending (key : Nat) (job : Option Nat) (s : State) : (dropLater key job s).pending = s.pending := (rfl)
@[simp] theorem snapGone_pending (vol n : Nat) (job : Option Nat) (s : State) : (snapGone vol n job s).pending = s.pending := (rfl)

@[simp] theorem freeRel_pending (rn : Nat) (r : ReplRec) (s : State) : (freeRel rn r s).pending = s.pending := by
  unfold freeRel
  dsimp only
  split
  · refine foldl_pending (fun s x => ?_) _ _
    split <;> simp
  · refine (foldl_pending (fun s x => ?_) _ _).trans (backToPoint_pending _ _)
    split <;> simp

@[simp] theorem leaveRel_pending (rn : Nat) (r : ReplRec) (s : State) : (leaveRel rn r s).pending = s.pending := by
  simp [leaveRel, apply_ite State.pending]

@[simp] theorem snapDeleteH_pending (p : Bytes) (s : State) : (snapDeleteH p s).2.pending = s.pending := by
  simp only [snapDeleteH]
  repeat' split
  all_goals simp

@[simp] theorem deleteVol_pending (vol job : Nat) (s : State) : (deleteVol vol job s).pending = s.pending := by
  simp [deleteVol, apply_ite State.pending]

@[simp] theorem replReply_pending (qpn tag no : Nat) (st : Status) (durable applied : Nat) (s : State) :
    (replReply qpn tag no st durable applied s).pending = s.pending := (rfl)

@[simp] theorem replAnswer_pending (rn qpn tag no : Nat) (st : Status) (s : State) :
    (replAnswer rn qpn tag no st s).pending = s.pending := (rfl)

@[simp] theorem storeRun_pending (rn : Nat) (r : ReplRec) (st : Storing) (run : List StreamRec) (i : Nat) (s : State) :
    (storeRun rn r st run i s).pending = s.pending := by
  simp [storeRun, apply_ite State.pending]

@[simp] theorem storeStep_pending (rn : Nat) (s : State) : (storeStep rn s).pending = s.pending := by
  simp only [storeStep]
  repeat' split
  all_goals simp

@[simp] theorem dropsAdvance_pending (s : State) : (dropsAdvance s).pending = s.pending := by
  refine foldl_pending (fun s d => ?_) _ _
  dsimp only
  split
  · split
    · split <;> simp
    · split <;> simp
  · split <;> simp

@[simp] theorem cutSnap_pending (k vol n : Nat) (s : State) : (cutSnap k vol n s).pending = s.pending := by
  simp [cutSnap]

@[simp] theorem cutBatches_pending (k : Nat) (s : State) : (cutBatches k s).pending = s.pending := by
  refine foldl_pending (fun s e => ?_) _ _
  dsimp only
  repeat' split
  all_goals simp [apply_ite State.pending]

@[simp] theorem cutJobs_pending (k : Nat) (s : State) : (cutJobs k s).pending = s.pending := by
  simp [cutJobs, apply_ite State.pending]

@[simp] theorem cutPoints_pending (k : Nat) (s : State) : (cutPoints k s).pending = s.pending := by
  refine foldl_pending (fun s e => ?_) _ _
  dsimp only
  split
  · rfl
  · split
    · rfl
    · rw [replAnswer_pending, setRel_pending]
      refine foldl_pending (fun s x => ?_) _ _
      rw [cutSnap_pending, setSnap_pending]
      split <;> simp

@[simp] theorem deleteJobs_pending (s : State) : (deleteJobs s).pending = s.pending := by
  simp [deleteJobs]

@[simp] theorem releaseAbove_pending (vol blocks job : Nat) (s : State) : (releaseAbove vol blocks job s).pending = s.pending := by
  simp [releaseAbove, apply_ite State.pending]

@[simp] theorem resizeVol_pending (vol blocks : Nat) (clear : Bool) (job : Nat) (s : State) :
    (resizeVol vol blocks clear job s).pending = s.pending := by
  unfold resizeVol
  repeat' split
  all_goals simp

@[simp] theorem beginMsg_pending (rn qpn tag : Nat) (m : ReplMsg) (s : State) : (beginMsg rn qpn tag m s).pending = s.pending := by
  simp [beginMsg, apply_ite State.pending]

@[simp] theorem nextHeld_pending (rn : Nat) (s : State) : (nextHeld rn s).pending = s.pending := by
  simp only [nextHeld]
  repeat' split
  all_goals simp

@[simp] theorem replArrived_pending (s : State) : (replArrived s).pending = s.pending := by
  refine foldl_pending (fun s e => ?_) _ _
  dsimp only
  repeat' split
  all_goals simp

@[simp] theorem sendMsgs_pending (rn : Nat) (s : State) : (sendMsgs rn s).pending = s.pending := by
  unfold sendMsgs
  dsimp only
  split
  · rfl
  · rw [setRel_pending]
    exact foldl_pending (fun s m => emit_pending _ s) _ s

@[simp] theorem replAdvance_pending (s : State) : (replAdvance s).pending = s.pending := by
  simp [replAdvance]

@[simp] theorem batchApplied__pending (rn : Nat) (r : ReplRec) (s : State) : (batchApplied_ rn r s).pending = s.pending := by
  simp [batchApplied_]

@[simp] theorem replCompletion_pending (rn msgNo : Nat) (st : Status) (durable applied : Nat) (probe : Bool) (s : State) :
    (replCompletion rn msgNo st durable applied probe s).pending = s.pending := by
  simp only [replCompletion]
  repeat' split
  all_goals simp

@[simp] theorem snapListH_pending (p : Bytes) (s : State) : (snapListH p s).2.pending = s.pending := by
  simp [snapListH, apply_ite State.pending, apply_ite Prod.snd]

@[simp] theorem replMessage_pending (qpn tag : Nat) (m : ReplMsg) (s : State) : (replMessage qpn tag m s).pending = s.pending := by
  simp only [replMessage]
  repeat' split
  all_goals simp

@[simp] theorem replStatusH_pending (p : Bytes) (s : State) : (replStatusH p s).2.pending = s.pending := by
  simp only [replStatusH]
  repeat' split
  all_goals simp

@[simp] theorem snapCreateH_pending (p : Bytes) (s : State) : (snapCreateH p s).2.pending = s.pending := by
  unfold snapCreateH
  dsimp only
  split
  · rfl
  · split
    · rfl
    · split
      · rfl
      · split
        · rfl
        · split
          · rfl
          next h => exact (foldl_pending (fun s x => setSnap_pending _ _ _ s) _ _).trans (startJob_pending h)

@[simp] theorem replResyncH_pending (p : Bytes) (s : State) : (replResyncH p s).2.pending = s.pending := by
  simp [replResyncH, apply_ite State.pending, apply_ite Prod.snd]

@[simp] theorem replProbe_pending (qpn tag rn batch : Nat) (s : State) : (replProbe qpn tag rn batch s).pending = s.pending := by
  unfold replProbe
  repeat' split
  all_goals simp

@[simp] theorem linkReply_pending (rn : Nat) (st : Status) (qpn : Nat) (s : State) : (linkReply rn st qpn s).pending = s.pending := by
  simp only [linkReply]
  repeat' split
  all_goals simp

@[simp] theorem replConfigH_pending (p : Bytes) (s : State) : (replConfigH p s).2.pending = s.pending := by
  simp only [replConfigH]
  repeat' split
  all_goals simp

/-! ### Machine/Mirror.lean -/

@[simp] theorem sendReceipt_pending (s : State) : (sendReceipt s).pending = s.pending := by
  simp [sendReceipt]

@[simp] theorem countMsg_pending (id : Nat) (s : State) : (countMsg id s).pending = s.pending := (rfl)

@[simp] theorem giveReceipt_pending (id : Nat) (s : State) : (giveReceipt id s).pending = s.pending := by
  simp [giveReceipt]

@[simp] theorem setOwner_pending (r : Role) (vols : List Nat) (s : State) : (setOwner r vols s).pending = s.pending := (rfl)

@[simp] theorem resendRanges_pending (id : Nat) (ranges : List (Nat × Nat)) (s : State) :
    (resendRanges id ranges s).pending = s.pending := by
  simp only [resendRanges]
  repeat' split
  all_goals simp

@[simp] theorem peerBlock_pending (e : Loc × Nat × Nat) (s : State) : (peerBlock e s).pending = s.pending := by
  unfold peerBlock
  split <;> simp

@[simp] theorem markReceipted_pending (offs : List Nat) (s : State) : (markReceipted offs s).pending = s.pending := (rfl)

@[simp] theorem takeReceipt_pending (cum : Nat) (ranges : List (Nat × Nat)) (s : State) :
    (takeReceipt cum ranges s).pending = s.pending := by
  simp [takeReceipt, apply_ite State.pending]

@[simp] theorem peerPage_pending (l : Loc) (s : State) : (peerPage l s).pending = s.pending := by
  simp only [peerPage]
  repeat' split
  all_goals simp

@[simp] theorem peerMove_pending (m : MoveEntry) (s : State) : (peerMove m s).pending = s.pending := by
  simp [peerMove]

@[simp] theorem applyMirror_pending (asn unit : Nat) (s : State) : (applyMirror asn unit s).pending = s.pending := by
  unfold applyMirror
  dsimp only
  split
  · rfl
  · split
    · split
      · rfl
      · have hfold : ∀ (s : State) (r : JRec), (match r.body with
            | .mapMoves es => es.foldl (fun s x => peerMove x s) s
            | b => applyRec 0 r.off true b s).pending = s.pending := by
          intro s r
          split <;> simp
        split <;> exact foldl_pending hfold _ _
    · rfl

@[simp] theorem applyBefore_pending (serial : Nat) (s : State) : (applyBefore serial s).pending = s.pending := by
  unfold applyBefore
  repeat' split
  all_goals simp

@[simp] theorem mirrorEffect_pending (r : JRec) (s : State) : (mirrorEffect r s).pending = s.pending := by
  simp only [mirrorEffect]
  repeat' split
  all_goals simp

@[simp] theorem writeMirror_pending (recs : List JRec) (s : State) : (writeMirror recs s).pending = s.pending := by
  simp [writeMirror, apply_ite State.pending]

@[simp] theorem ftbSnak_pending (port cls first last : Nat) (msgId : Option Nat) (s : State) :
    (ftbSnak port cls first last msgId s).pending = s.pending := by
  unfold ftbSnak
  split <;> simp

@[simp] theorem ftbResend_pending (id : Nat) (s : State) : (ftbResend id s).pending = s.pending := by
  unfold ftbResend
  split <;> simp

@[simp] theorem ftbGap_pending (msgId : Nat) (s : State) : (ftbGap msgId s).pending = s.pending := by
  unfold ftbGap
  repeat' split
  all_goals simp

@[simp] theorem mirrorRequests_pending (recs : List JRec) (s : State) : (mirrorRequests recs s).pending = s.pending := by
  simp [mirrorRequests]

@[simp] theorem takeMirror_pending (id : Nat) (recs : List JRec) (s : State) : (takeMirror id recs s).pending = s.pending := by
  simp [takeMirror, apply_ite State.pending]

@[simp] theorem ftbSegment_pending (port cls portSeq msgId type off len : Nat) (total : Option Nat) (ok : Bool) (s : State) :
    (ftbSegment port cls portSeq msgId type off len total ok s).pending = s.pending := by
  have hrx (c d : Prop) [Decidable c] [Decidable d] (m : FtbOut) (p : FPort) : (if d then setFport port p (if c then ftbControl m s else s)
      else if c then ftbControl m s else s).pending = s.pending := by
    split <;> split <;> simp
  unfold ftbSegment
  split
  · rfl
  · refine ite_pending ?_ (ite_pending ?_ (ite_pending ?_ ?_))
    · rw [countMsg_pending, hrx]
    · rw [sendReceipt_pending, hrx]
    · rw [giveReceipt_pending, hrx]
    · rw [pending_update, hrx]

/-! ### Machine/Pair.lean -/

@[simp] theorem sendHello_pending (s : State) : (sendHello s).pending = s.pending := by
  simp [sendHello, apply_ite State.pending]

@[simp] theorem startFailback_pending (s : State) : (startFailback s).pending = s.pending := by
  simp [startFailback]

@[simp] theorem acceptRejoin_pending (auto : Bool) (s : State) : (acceptRejoin auto s).pending = s.pending := by
  simp [acceptRejoin, apply_ite State.pending]

@[simp] theorem createArray_pending (m : HelloMsg) (gib ms : Nat) (s : State) : (createArray m gib ms s).pending = s.pending := (rfl)
@[simp] theorem recordSerial_pending (r : Role) (serial : Bytes) (s : State) : (recordSerial r serial s).pending = s.pending := (rfl)

@[simp] theorem setSizes_pending (gib ms : Nat) (s : State) : (setSizes gib ms s).pending = s.pending := by
  simp [setSizes, apply_ite State.pending]

@[simp] theorem startJoin_pending (k : JoinAs) (s : State) : (startJoin k s).pending = s.pending := by
  simp [startJoin, apply_ite State.pending]

@[simp] theorem tryJoin_pending (s : State) : (tryJoin s).pending = s.pending := by
  unfold tryJoin
  repeat' split
  all_goals simp

@[simp] theorem assertGood_pending (s : State) : (assertGood s).pending = s.pending :=
  pending_of_offMedia (assertGood_offMedia s)

@[simp] theorem pinEdge_pending (s : State) : (pinEdge s).pending = s.pending := (rfl)

@[simp] theorem sendHeartbeats_pending (s : State) : (sendHeartbeats s).pending = s.pending := by
  simp [sendHeartbeats, apply_ite State.pending]

@[simp] theorem dropWork_pending (s : State) : (dropWork s).pending = s.pending := by
  simp [dropWork, apply_ite State.pending]

@[simp] theorem dropPort_pending (n : Nat) (s : State) : (dropPort n s).pending = s.pending := by
  simp [dropPort, apply_ite State.pending]

@[simp] theorem hbKick_pending (s : State) : (hbKick s).pending = s.pending := (rfl)

@[simp] theorem dropHandover_pending (s : State) : (dropHandover s).pending = s.pending := by
  simp only [dropHandover]
  repeat' split
  all_goals simp

@[simp] theorem lockPorts_pending (aux : Nat) (s : State) : (lockPorts aux s).pending = s.pending :=
  pending_of_offMedia (lockPorts_offMedia aux s)

@[simp] theorem stopMirror_pending (s : State) : (stopMirror s).pending = s.pending := (rfl)

@[simp] theorem fencePeer_pending (s : State) : (fencePeer s).pending = s.pending := by
  simp [fencePeer, apply_ite State.pending]

@[simp] theorem receiptFor_pending (type : Nat) (s : State) : (receiptFor type s).pending = s.pending := by
  unfold receiptFor
  split <;> simp

@[simp] theorem passTo_pending (r : Role) (vols : List Nat) (s : State) : (passTo r vols s).pending = s.pending := by
  simp [passTo]

@[simp] theorem sendHandover_pending (m : HandoverMsg) (s : State) : (sendHandover m s).2.pending = s.pending := by
  simp [sendHandover]

@[simp] theorem startHandover_pending (vols : List Nat) (fence : Bool) (opcode : Nat) (job : Option Nat) (s : State) :
    (startHandover vols fence opcode job s).pending = s.pending := by
  simp [startHandover]

@[simp] theorem volumesGone_pending (vols : List Nat) (s : State) : (volumesGone vols s).pending = s.pending := by
  simp only [volumesGone]
  repeat' split
  all_goals simp

@[simp] theorem handoverIn_pending (m : HandoverMsg) (s : State) : (handoverIn m s).pending = s.pending := by
  unfold handoverIn
  repeat' split
  all_goals simp

@[simp] theorem dropRegions_pending (s : State) : (dropRegions s).pending = s.pending := (rfl)

@[simp] theorem acceptReturn_pending (m : HelloMsg) (s : State) : (acceptReturn m s).pending = s.pending := by
  simp [acceptReturn]

@[simp] theorem lossAction_pending (both : Bool) (s : State) : (lossAction both s).pending = s.pending := by
  unfold lossAction
  repeat' split
  all_goals simp

@[simp] theorem abortFailback_pending (s : State) : (abortFailback s).pending = s.pending := by
  unfold abortFailback
  repeat' split
  all_goals simp

@[simp] theorem pathAction_pending (s : State) : (pathAction s).pending = s.pending := by
  simp [pathAction, apply_ite State.pending]

@[simp] theorem portDown_pending (n : Nat) (s : State) : (portDown n s).pending = s.pending := by
  simp [portDown, apply_ite State.pending]

@[simp] theorem pcsChange_pending (n : Nat) (aligned : Bool) (s : State) : (pcsChange n aligned s).pending = s.pending := by
  simp [pcsChange, apply_ite State.pending]

@[simp] theorem roleBDelay_pending (s : State) : (roleBDelay s).pending = s.pending := by
  simp [roleBDelay, apply_ite State.pending]

@[simp] theorem pinSilent_pending (s : State) : (pinSilent s).pending = s.pending := by
  simp [pinSilent, apply_ite State.pending]

@[simp] theorem closePeerSets_pending (s : State) : (closePeerSets s).pending = s.pending := by
  simp [closePeerSets]

@[simp] theorem restoreHolds_pending (s : State) : (restoreHolds s).pending = s.pending := by
  simp [restoreHolds, apply_ite State.pending]

@[simp] theorem takeHolds_pending (s : State) : (takeHolds s).pending = s.pending := by
  simp [takeHolds, apply_ite State.pending]

@[simp] theorem mapLoaded_pending (s : State) : (mapLoaded s).pending = s.pending := by
  simp [mapLoaded, apply_ite State.pending]

@[simp] theorem stopPrograms_pending (s : State) : (stopPrograms s).pending = s.pending := (rfl)

@[simp] theorem fenceFall_pending (s : State) : (fenceFall s).2.pending = s.pending := by
  simp [fenceFall, apply_ite State.pending, apply_ite Prod.snd]

@[simp] theorem handoverDrained_pending (s : State) : (handoverDrained s).pending = s.pending := by
  simp only [handoverDrained]
  repeat' split
  all_goals simp

@[simp] theorem resyncComplete_pending (s : State) : (resyncComplete s).pending = s.pending := by
  simp [resyncComplete, apply_ite State.pending]

@[simp] theorem becomeWhole_pending (s : State) : (becomeWhole s).pending = s.pending := (rfl)

@[simp] theorem returnCheck_pending (m : HbMsg) (s : State) : (returnCheck m s).pending = s.pending := by
  simp [returnCheck, apply_ite State.pending]

@[simp] theorem handOffFenced_pending (s : State) : (handOffFenced s).pending = s.pending := by
  simp [handOffFenced, apply_ite State.pending]

@[simp] theorem fenceRelease_pending (s : State) : (fenceRelease s).pending = s.pending := by
  -- a variable in place of the thousand ports' state, which the kernel would otherwise compute
  obtain ⟨t, ht, hl⟩ : ∃ t, t.pending = s.pending ∧ lockPorts 0 s = t := ⟨_, lockPorts_pending 0 s, rfl⟩
  unfold fenceRelease
  rw [hl, apply_ite State.pending]
  refine (ite_congr rfl (fun _ => rfl) (fun _ => ?_)).trans (ite_self _)
  dsimp only
  split
  · split <;> simp [ht]
  · simp [ht]

@[simp] theorem takeVolumes_pending (s : State) : (takeVolumes s).pending = s.pending := by
  unfold takeVolumes
  repeat' split
  all_goals simp

@[simp] theorem receiptIn_pending (cum : Nat) (ranges : List (Nat × Nat)) (s : State) : (receiptIn cum ranges s).pending = s.pending := by
  simp [receiptIn, apply_ite State.pending]

@[simp] theorem reconcileMirror_pending (s : State) : (reconcileMirror s).pending = s.pending := by
  unfold reconcileMirror
  refine (foldl_pending (fun s u => ?_) _ _).trans (foldl_pending (fun s u => applyMirror_pending _ _ s) _ _)
  split <;> rfl

@[simp] theorem partialSilence_pending (s : State) : (partialSilence s).pending = s.pending := by
  simp [partialSilence, apply_ite State.pending]

@[simp] theorem windowExpiry_pending (s : State) : (windowExpiry s).pending = s.pending := by
  simp [windowExpiry, apply_ite State.pending]

@[simp] theorem fenceRise_pending (s : State) : (fenceRise s).pending = s.pending := by
  simp [fenceRise, apply_ite State.pending]

@[simp] theorem hbToggle_pending (s : State) : (hbToggle s).pending = s.pending := by
  simp [hbToggle, apply_ite State.pending]

@[simp] theorem takeoverForceH_pending {ends : State → State} (he : ∀ s, (ends s).pending = s.pending) (p : Bytes) (s : State) :
    (takeoverForceH ends p s).2.pending = s.pending := by
  unfold takeoverForceH
  dsimp only
  repeat' split
  all_goals simp [he]

@[simp] theorem pairJoinH_pending (p : Bytes) (s : State) : (pairJoinH p s).2.pending = s.pending := by
  simp [pairJoinH, apply_ite State.pending, apply_ite Prod.snd]

@[simp] theorem failbackH_pending (_p : Bytes) (s : State) : (failbackH _p s).2.pending = s.pending := by
  simp [failbackH, apply_ite State.pending, apply_ite Prod.snd]

@[simp] theorem pairStatusH_pending (_p : Bytes) (s : State) : (pairStatusH _p s).2.pending = s.pending := (rfl)

@[simp] theorem msgSilent_pending (s : State) : (msgSilent s).pending = s.pending := by
  simp [msgSilent]

@[simp] theorem migrationWindowH_pending (p : Bytes) (s : State) : (migrationWindowH p s).2.pending = s.pending := by
  simp [migrationWindowH, apply_ite State.pending, apply_ite Prod.snd]

@[simp] theorem joinTimeout_pending (s : State) : (joinTimeout s).pending = s.pending := by
  unfold joinTimeout
  repeat' split
  all_goals simp

@[simp] theorem sledWaitEnd_pending (s : State) : (sledWaitEnd s).pending = s.pending := by
  simp [sledWaitEnd, apply_ite State.pending]

@[simp] theorem resyncIn_pending (id : Nat) (recs : List JRec) (s : State) : (resyncIn id recs s).pending = s.pending := by
  simp [resyncIn, apply_ite State.pending]

/-! ### Machine/DramCtl.lean -/

@[simp] theorem dramQosSetH_pending (p : Bytes) (s : State) : (dramQosSetH p s).2.pending = s.pending := by
  simp [dramQosSetH, apply_ite State.pending, apply_ite Prod.snd]

@[simp] theorem pauseRank_pending (n r : Nat) (s : State) : (pauseRank n r s).pending = s.pending := (rfl)

@[simp] theorem payRefresh_pending (n r : Nat) (s : State) : (payRefresh n r s).pending = s.pending := by
  simp [payRefresh, apply_ite State.pending]

@[simp] theorem trainChannel_pending (n : Nat) (s : State) : (trainChannel n s).pending = s.pending := (rfl)

@[simp] theorem dramTrainH_pending (p : Bytes) (s : State) : (dramTrainH p s).2.pending = s.pending := by
  have htrain (l : List Nat) (s : State) : (l.foldl (fun s n => trainChannel n s) s).pending = s.pending :=
    foldl_pending (fun s n => trainChannel_pending n s) l s
  unfold dramTrainH
  dsimp only
  split
  · rfl
  · split
    · refine foldl_pending (fun s n => foldl_pending (fun s r => ?_) _ s) _ s
      split <;> simp
    · split
      · rfl
      · refine withJob_pending _ _ _ (fun k s => ?_) s
        rw [finishJob_pending, htrain]

@[simp] theorem trnStart_pending (n op : Nat) (s : State) : (trnStart n op s).pending = s.pending := by
  simp [trnStart, apply_ite State.pending]

@[simp] theorem bankHashWrite_pending (n k : Nat) (m : BitVec 34) (s : State) : (bankHashWrite n k m s).pending = s.pending := by
  simp [bankHashWrite, apply_ite State.pending]

@[simp] theorem geomLock_pending (n : Nat) (s : State) : (geomLock n s).pending = s.pending := (rfl)

@[simp] theorem chanHashWrite_pending (i : Nat) (m : BitVec 34) (s : State) : (chanHashWrite i m s).pending = s.pending := by
  simp [chanHashWrite, apply_ite State.pending]

@[simp] theorem writeDelay_pending (n : Nat) (v : BitVec 10) (s : State) : (writeDelay n v s).pending = s.pending := (rfl)
@[simp] theorem adjustAllowance_pending (above : Bool) (s : State) : (adjustAllowance above s).pending = s.pending := (rfl)

@[simp] theorem dramStatusH_pending (p : Bytes) (s : State) : (dramStatusH p s).2.pending = s.pending := by
  simp [dramStatusH, apply_ite State.pending, apply_ite Prod.snd]

@[simp] theorem trimPages_pending (s : State) : (trimPages s).pending = s.pending := by
  simp [trimPages, apply_ite State.pending]

@[simp] theorem withdrawRank_pending (n r : Nat) (s : State) : (withdrawRank n r s).pending = s.pending := by
  simp [withdrawRank, apply_ite State.pending]

@[simp] theorem rankOut_pending (n r : Nat) (s : State) : (rankOut n r s).pending = s.pending := by
  simp [rankOut, apply_ite State.pending]

@[simp] theorem rankRetireH_pending (p : Bytes) (s : State) : (rankRetireH p s).2.pending = s.pending := by
  simp [rankRetireH, apply_ite State.pending, apply_ite Prod.snd]

@[simp] theorem retrainPause_pending (n r : Nat) (s : State) : (retrainPause n r s).pending = s.pending := by
  simp [retrainPause, apply_ite State.pending]

@[simp] theorem lineLost_pending (subj : Subject) (pa : Nat) (rs : List JRec) (s : State) :
    (lineLost subj pa rs s).pending = s.pending := by
  unfold lineLost
  split <;> simp

@[simp] theorem restoreLine_pending (subj : Subject) (n ca : Nat) (s : State) : (restoreLine subj n ca s).pending = s.pending := by
  simp only [restoreLine]
  repeat' split
  all_goals simp

@[simp] theorem refreshDue_pending (n r : Nat) (waiting : Bool) (s : State) : (refreshDue n r waiting s).pending = s.pending := by
  simp [refreshDue, apply_ite State.pending]

@[simp] theorem rcdAlert_pending (n r : Nat) (again repeatOk : Bool) (s : State) : (rcdAlert n r again repeatOk s).pending = s.pending := by
  simp [rcdAlert, apply_ite State.pending]

@[simp] theorem useWindow_pending (bytes : Nat) (s : State) : (useWindow bytes s).pending = s.pending := (rfl)

@[simp] theorem becomeHot_pending (n r : Nat) (failed : Bool) (s : State) : (becomeHot n r failed s).pending = s.pending := by
  simp [becomeHot, apply_ite State.pending]

@[simp] theorem thermalRead_pending (n slot : Nat) (reading : Option (BitVec 8 × BitVec 8)) (tenths : Int) (s : State) :
    (thermalRead n slot reading tenths s).pending = s.pending := by
  simp only [thermalRead]
  repeat' split
  all_goals simp [apply_ite State.pending]

@[simp] theorem patrolScrub_pending (n : Nat) (s : State) : (patrolScrub n s).pending = s.pending := by
  simp [patrolScrub, apply_ite State.pending]

@[simp] theorem trnDone_pending (n : Nat) (dq : Word) (cb : BitVec 8) (s : State) : (trnDone n dq cb s).pending = s.pending := by
  simp [trnDone, apply_ite State.pending]

@[simp] theorem migrationDone_pending (n : Nat) (s : State) : (migrationDone n s).pending = s.pending := by
  simp [migrationDone, apply_ite State.pending]

@[simp] theorem readError_pending (n r ca : Nat) (corrected : Bool) (s : State) : (readError n r ca corrected s).pending = s.pending := by
  simp [readError, apply_ite State.pending]

/-! ### Machine/Cache.lean -/

@[simp] theorem lockCut_pending (i : Nat) (s : State) : (lockCut i s).pending = s.pending := by
  simp only [lockCut]
  repeat' split
  all_goals simp

@[simp] theorem lockEnable_pending (i : Nat) (en : BitVec 3) (s : State) : (lockEnable i en s).pending = s.pending := (rfl)

@[simp] theorem maintStart_pending (inv : Bool) (s : State) : (maintStart inv s).pending = s.pending := by
  simp [maintStart, apply_ite State.pending]

@[simp] theorem sliceHashWrite_pending (k : Nat) (m : BitVec 25) (s : State) : (sliceHashWrite k m s).pending = s.pending := by
  simp [sliceHashWrite, apply_ite State.pending]

@[simp] theorem writeBack_pending (lines : List Nat) (s : State) : (writeBack lines s).pending = s.pending := (rfl)
@[simp] theorem clearWay_pending (w : Nat) (s : State) : (clearWay w s).pending = s.pending := (rfl)

@[simp] theorem wayPowerH_pending (n : Nat) (p : Bytes) (s : State) : (wayPowerH n p s).2.pending = s.pending := by
  simp [wayPowerH, apply_ite State.pending, apply_ite Prod.snd]

@[simp] theorem trackerBreak_pending (t : Nat) (s : State) : (trackerBreak t s).pending = s.pending := (rfl)

@[simp] theorem wayDown_pending (w : Nat) (s : State) : (wayDown w s).pending = s.pending := by
  simp [wayDown, apply_ite State.pending]

@[simp] theorem parityError_pending (line : Nat) (s : State) : (parityError line s).pending = s.pending := by
  unfold parityError
  repeat' split
  all_goals simp

@[simp] theorem wayUp_pending (w : Nat) (s : State) : (wayUp w s).pending = s.pending := (rfl)

@[simp] theorem loadLine_pending (i line : Nat) (s : State) : (loadLine i line s).pending = s.pending := by
  simp [loadLine, apply_ite State.pending]

@[simp] theorem loadLocked_pending (i : Nat) (s : State) : (loadLocked i s).pending = s.pending := (rfl)

@[simp] theorem wayDownComplete_pending (w : Nat) (s : State) : (wayDownComplete w s).pending = s.pending := by
  simp only [wayDownComplete]
  repeat' split
  all_goals simp

@[simp] theorem lockLoadComplete_pending (i : Nat) (s : State) : (lockLoadComplete i s).pending = s.pending := by
  simp only [lockLoadComplete]
  repeat' split
  all_goals simp

@[simp] theorem wayLockH_pending (n : Nat) (p : Bytes) (s : State) : (wayLockH n p s).2.pending = s.pending := by
  simp [wayLockH, apply_ite State.pending, apply_ite Prod.snd]

@[simp] theorem ageingTick_pending (s : State) : (ageingTick s).pending = s.pending := by
  simp [ageingTick, apply_ite State.pending]

@[simp] theorem cacheStatusH_pending (p : Bytes) (s : State) : (cacheStatusH p s).2.pending = s.pending := (rfl)

@[simp] theorem tagParityError_pending (line : Nat) (both : Bool) (s : State) : (tagParityError line both s).pending = s.pending := by
  unfold tagParityError
  repeat' split
  all_goals simp

@[simp] theorem cacheMaintDone_pending (s : State) : (cacheMaintDone s).pending = s.pending := by
  unfold cacheMaintDone
  repeat' split
  all_goals simp

@[simp] theorem cacheMaintH_pending (n : Nat) (p : Bytes) (s : State) : (cacheMaintH n p s).2.pending = s.pending := by
  simp [cacheMaintH, apply_ite State.pending, apply_ite Prod.snd]

/-! ### Machine/Host.lean -/

@[simp] theorem sendRnr_pending (n psn : Nat) (s : State) : (sendRnr n psn s).pending = s.pending := by
  simp [sendRnr, apply_ite State.pending]

@[simp] theorem faultTimeout_pending (n : Nat) (s : State) : (faultTimeout n s).pending = s.pending := by
  simp only [faultTimeout]
  repeat' split
  all_goals simp

@[simp] theorem stagingFaultTimeout_pending (n : Nat) (s : State) : (stagingFaultTimeout n s).pending = s.pending := by
  simp [stagingFaultTimeout, apply_ite State.pending]

@[simp] theorem closeTag_pending (n tag : Nat) (g : LTag) (s : State) : (closeTag n tag g s).pending = s.pending := by
  unfold closeTag
  split
  · rfl
  · split
    · rfl
    · split
      next h => exact snd_pending h (by simp)
      next h => rw [endEarly_pending]; exact snd_pending h (by simp)

@[simp] theorem unsentRead_pending (queueId csn : Nat) (s : State) : (unsentRead queueId csn s).pending = s.pending := by
  unfold unsentRead
  repeat' split
  all_goals simp

@[simp] theorem closeQp_pending (n : Nat) (s : State) : (closeQp n s).pending = s.pending := by
  unfold closeQp
  dsimp only
  rw [linkLost_pending]
  refine (foldl_pending (fun s e => ?_) _ _).trans (by simp)
  split
  · split <;> simp
  · simp

@[simp] theorem serveRound_pending (k : Nat) (s : State) : (serveRound k s).pending = s.pending := by
  induction k generalizing s with
  | zero => rfl
  | succ k ih =>
    simp only [serveRound]
    split
    · rfl
    · simp [ih]

@[simp] theorem popSeg_pending (n : Nat) (s : State) : (popSeg n s).pending = s.pending := (rfl)

@[simp] theorem sendSel_pending (n : Nat) (psns : List Nat) (s : State) : (sendSel n psns s).pending = s.pending := by
  simp [sendSel, apply_ite State.pending]

@[simp] theorem selNakTimer_pending (n psn : Nat) (s : State) : (selNakTimer n psn s).pending = s.pending := by
  simp [selNakTimer, apply_ite State.pending]

@[simp] theorem errorQp_pending (n : Nat) (s : State) : (errorQp n s).pending = s.pending := by
  simp [errorQp, apply_ite State.pending]

@[simp] theorem resendFrom_pending (n : Nat) (outs : List OutPkt) (s : State) : (resendFrom n outs s).pending = s.pending := by
  refine foldl_pending (fun s o => ?_) _ _
  dsimp only
  split
  · rfl
  · split <;> simp

@[simp] theorem outAckTimeout_pending (n : Nat) (s : State) : (outAckTimeout n s).pending = s.pending := by
  simp only [outAckTimeout]
  repeat' split
  all_goals simp

@[simp] theorem sendAck_pending (n : Nat) (s : State) : (sendAck n s).pending = s.pending := by
  simp [sendAck, apply_ite State.pending]

@[simp] theorem ackTimer_pending (n : Nat) (s : State) : (ackTimer n s).pending = s.pending := by
  simp [ackTimer, apply_ite State.pending]

@[simp] theorem oldRxExpiry_pending (n : Nat) (s : State) : (oldRxExpiry n s).pending = s.pending := by
  simp [oldRxExpiry, apply_ite State.pending]

@[simp] theorem countDiscard_pending (n : Nat) (s : State) : (countDiscard n s).pending = s.pending := (rfl)

@[simp] theorem mismatch_pending (n tag : Nat) (s : State) : (mismatch n tag s).pending = s.pending := by
  unfold mismatch
  dsimp only
  split
  · simp
  · split
    · simp
    · split
      next h => exact snd_pending h (by simp [apply_ite Prod.snd, apply_ite State.pending])
      next h => rw [endEarly_pending]; exact snd_pending h (by simp [apply_ite Prod.snd, apply_ite State.pending])

@[simp] theorem endPlain_pending (n : Nat) (s : State) : (endPlain n s).pending = s.pending := by
  simp only [endPlain]
  repeat' split
  all_goals simp

@[simp] theorem breach_pending (n tag : Nat) (s : State) : (breach n tag s).pending = s.pending := by
  simp [breach, apply_ite State.pending]

@[simp] theorem enterCapsule_pending (n tag : Nat) (capsule : Bytes) (s : State) :
    (enterCapsule n tag capsule s).pending = s.pending := (rfl)

@[simp] theorem plainCapsule_pending (n : Nat) (s : State) : (plainCapsule n s).pending = s.pending := by
  simp [plainCapsule, apply_ite State.pending]

@[simp] theorem plainOver_pending (n : Nat) (s : State) : (plainOver n s).pending = s.pending := by
  simp only [plainOver]
  repeat' split
  all_goals simp

@[simp] theorem stallSeg_pending (n : Nat) (s : State) : (stallSeg n s).pending = s.pending := by
  simp [stallSeg, apply_ite State.pending]

@[simp] theorem plainSend_pending (n : Nat) (s : State) : (plainSend n s).pending = s.pending := by
  simp only [plainSend]
  repeat' split
  all_goals simp

@[simp] theorem dropPacket_pending (n psn : Nat) (s : State) : (dropPacket n psn s).pending = s.pending := (rfl)

@[simp] theorem sendNakCode_pending (n psn code : Nat) (s : State) : (sendNakCode n psn code s).pending = s.pending := by
  simp [sendNakCode, apply_ite State.pending]

@[simp] theorem sendNakSeq_pending (n psn : Nat) (s : State) : (sendNakSeq n psn s).pending = s.pending := by
  simp [sendNakSeq]

@[simp] theorem nakDropped_pending (n : Nat) (s : State) : (nakDropped n s).pending = s.pending := by
  simp [nakDropped, apply_ite State.pending]

@[simp] theorem placeAt_pending (n tag off : Nat) (bs : Bytes) (last : Bool) (total : Nat) (s : State) :
    (placeAt n tag off bs last total s).2.pending = s.pending := by
  simp only [placeAt]
  repeat' split
  all_goals simp

@[simp] theorem checkComplete_pending (n tag : Nat) (s : State) : (checkComplete n tag s).pending = s.pending := by
  simp only [checkComplete]
  repeat' split
  all_goals simp

@[simp] theorem placeBytesAt_pending (n tag off : Nat) (bs : Bytes) (last : Bool) (total : Nat) (s : State) :
    (placeBytesAt n tag off bs last total s).2.pending = s.pending := by
  simp [placeBytesAt, apply_ite State.pending]

@[simp] theorem placeParked_pending (n tag : Nat) (l : List (Nat × Bytes × Seg)) (s : State) :
    (placeParked n tag l s).pending = s.pending := by
  induction l generalizing s with
  | nil => simp [placeParked]
  | cons e rest ih =>
    simp only [placeParked]
    split
    · rfl
    · split
      next h => rw [ih]; exact snd_pending h (by simp)
      next h => rw [setQp_pending]; exact snd_pending h (by simp)

@[simp] theorem placeSeg_pending (n psn : Nat) (g : Seg) (raw : Bytes) (s : State) : (placeSeg n psn g raw s).2.pending = s.pending := by
  unfold placeSeg
  dsimp only
  split
  · split
    · split
      next h => rw [placeParked_pending, setQp_pending]; exact snd_pending h (by simp)
      · rfl
    · repeat' split
      all_goals simp
  · repeat' split
    all_goals simp
  · repeat' split
    all_goals simp

@[simp] theorem taggedSegment_pending (n : Nat) (s : State) : (taggedSegment n s).pending = s.pending := by
  unfold taggedSegment
  dsimp only
  split
  · rfl
  · split
    · rfl
    · split
      · simp
      · split
        · simp
        · split
          next h => rw [popSeg_pending]; exact snd_pending h (by simp)
          next h => rw [stallSeg_pending]; exact snd_pending h (by simp)

@[simp] theorem ackOuts_pending (n psn : Nat) (s : State) : (ackOuts n psn s).pending = s.pending := (rfl)

@[simp] theorem remoteAccess_pending (n psn : Nat) (s : State) : (remoteAccess n psn s).pending = s.pending := by
  simp [remoteAccess, apply_ite State.pending]

@[simp] theorem rnrHoldExpiry_pending (n : Nat) (s : State) : (rnrHoldExpiry n s).pending = s.pending := by
  simp [rnrHoldExpiry, apply_ite State.pending]

@[simp] theorem touchCtx_pending (n : Nat) (s : State) : (touchCtx n s).pending = s.pending := by
  simp only [touchCtx]
  repeat' split
  all_goals simp

@[simp] theorem noteCe_pending (n : Nat) (s : State) : (noteCe n s).pending = s.pending := by
  simp [noteCe, apply_ite State.pending]

@[simp] theorem portLink_pending (port : Nat) (up : Bool) (s : State) : (portLink port up s).pending = s.pending := by
  simp [portLink, apply_ite State.pending]

@[simp] theorem configPort_pending (p : Bytes) (split : Nat) (trained : BitVec 8) (i : Nat) (s : State) :
    (configPort p split trained i s).pending = s.pending := by
  simp [configPort, apply_ite State.pending]

@[simp] theorem pauseFrame_pending (port prio : Nat) (pause : Bool) (s : State) : (pauseFrame port prio pause s).pending = s.pending := by
  simp [pauseFrame, apply_ite State.pending]

@[simp] theorem queueKeyExpiry_pending (id : Nat) (s : State) : (queueKeyExpiry id s).pending = s.pending := (rfl)

@[simp] theorem frameIn_pending (port : Nat) (vlans : List Nat) (s : State) : (frameIn port vlans s).2.pending = s.pending := by
  simp [frameIn, apply_ite State.pending, apply_ite Prod.snd]

@[simp] theorem openQueue_pending (n : Nat) (s : State) : (openQueue n s).pending = s.pending := by
  unfold openQueue
  dsimp only
  split
  · rfl
  · rw [touchCtx_pending, pending_update, setQp_pending]

@[simp] theorem regrant_pending (n : Nat) (s : State) : (regrant n s).pending = s.pending := by
  simp [regrant, apply_ite State.pending]

@[simp] theorem acceptPacket_pending (n psn : Nat) (bytes : Bytes) (s : State) : (acceptPacket n psn bytes s).pending = s.pending := by
  simp [acceptPacket, apply_ite State.pending]

@[simp] theorem dataPacket_pending (n psn : Nat) (bytes : Bytes) (s : State) : (dataPacket n psn bytes s).pending = s.pending := by
  simp [dataPacket, apply_ite State.pending]

@[simp] theorem sendNakInvalid_pending (n psn : Nat) (s : State) : (sendNakInvalid n psn s).pending = s.pending := by
  simp [sendNakInvalid]

@[simp] theorem seqNak_pending (n psn : Nat) (s : State) : (seqNak n psn s).pending = s.pending := by
  simp [seqNak]

@[simp] theorem packetIn_pending (n : Nat) (p : Packet) (s : State) : (packetIn n p s).pending = s.pending := by
  simp only [packetIn]
  repeat' split
  all_goals simp

@[simp] theorem inboundPacket_pending (n : Nat) (p : Packet) (s : State) : (inboundPacket n p s).pending = s.pending := by
  unfold inboundPacket
  split
  next h => exact snd_pending h (by simp)
  next h =>
    have hp := snd_pending h (frameIn_pending _ _ _)
    simp [apply_ite State.pending, hp]

@[simp] theorem loadRx_pending (n : Nat) (k : Bytes) (s : State) : (loadRx n k s).pending = s.pending := (rfl)

@[simp] theorem loadTx_pending (n : Nat) (k : Bytes) (s : State) : (loadTx n k s).pending = s.pending := by
  simp [loadTx, apply_ite State.pending]

@[simp] theorem qpResetH_pending (p : Bytes) (s : State) : (qpResetH p s).2.pending = s.pending := by
  unfold qpResetH
  split <;> simp

@[simp] theorem tableExpiry_pending (id : Nat) (s : State) : (tableExpiry id s).pending = s.pending := by
  simp [tableExpiry, apply_ite State.pending]

@[simp] theorem starvation_pending (n : Nat) (s : State) : (starvation n s).pending = s.pending := by
  simp [starvation, apply_ite State.pending]

@[simp] theorem connectingTimeout_pending (n : Nat) (s : State) : (connectingTimeout n s).pending = s.pending := by
  simp [connectingTimeout, apply_ite State.pending]

@[simp] theorem retrySeg_pending (n : Nat) (s : State) : (retrySeg n s).pending = s.pending := by
  simp [retrySeg, apply_ite State.pending]

@[simp] theorem stagingPageFree_pending (n tag page : Nat) (s : State) : (stagingPageFree n tag page s).pending = s.pending := by
  simp [stagingPageFree, apply_ite State.pending]

@[simp] theorem queueOpen_pending (n port : Nat) (supported : Bool) (hostQp psn : Nat) (rec_ : Bytes) (s : State) :
    (queueOpen n port supported hostQp psn rec_ s).pending = s.pending := by
  simp only [queueOpen]
  repeat' split
  all_goals simp

@[simp] theorem portConfigH_pending (trained : BitVec 8) (p : Bytes) (s : State) : (portConfigH trained p s).2.pending = s.pending := by
  simp [portConfigH, apply_ite State.pending, apply_ite Prod.snd]

@[simp] theorem pdConfigH_pending (p : Bytes) (s : State) : (pdConfigH p s).2.pending = s.pending := by
  simp [pdConfigH, apply_ite State.pending, apply_ite Prod.snd]

@[simp] theorem rnrResend_pending (n : Nat) (s : State) : (rnrResend n s).pending = s.pending := by
  simp [rnrResend, apply_ite State.pending]

@[simp] theorem setCap_pending (cap : Nat) (s : State) : (setCap cap s).pending = s.pending := (rfl)

@[simp] theorem creditLapse_pending (s : State) : (creditLapse s).pending = s.pending := by
  unfold creditLapse
  dsimp only
  rw [unforce_pending]
  refine (foldl_pending (fun s id => ?_) _ _).trans (by simp)
  split <;> simp

@[simp] theorem rnrReceived_pending (n psn : Nat) (s : State) : (rnrReceived n psn s).pending = s.pending := by
  simp [rnrReceived, apply_ite State.pending]

@[simp] theorem plainCopyDone_pending (n tag : Nat) (s : State) : (plainCopyDone n tag s).pending = s.pending := by
  simp only [plainCopyDone]
  repeat' split
  all_goals simp

@[simp] theorem cnpReceived_pending (n : Nat) (since50us : Bool) (s : State) : (cnpReceived n since50us s).pending = s.pending := by
  simp [cnpReceived, apply_ite State.pending]

@[simp] theorem dreqIn_pending (n : Nat) (s : State) : (dreqIn n s).pending = s.pending := by
  simp [dreqIn, apply_ite State.pending]

@[simp] theorem contextFetchDone_pending (n : Nat) (lineOk : Bool) (s : State) : (contextFetchDone n lineOk s).pending = s.pending := by
  simp [contextFetchDone, apply_ite State.pending]

@[simp] theorem creditSetH_pending (p : Bytes) (s : State) : (creditSetH p s).2.pending = s.pending := by
  simp only [creditSetH]
  repeat' split
  all_goals simp

@[simp] theorem qpStatusH_pending (p : Bytes) (s : State) : (qpStatusH p s).2.pending = s.pending := by
  simp only [qpStatusH]
  repeat' split
  all_goals simp

@[simp] theorem keepaliveExpiry_pending (n : Nat) (s : State) : (keepaliveExpiry n s).pending = s.pending := by
  simp [keepaliveExpiry, apply_ite State.pending]

@[simp] theorem rateTick_pending (n : Nat) (s : State) : (rateTick n s).pending = s.pending := by
  simp [rateTick, apply_ite State.pending]

/-! ### Machine/Keys.lean -/

@[simp] theorem useNonce_pending (nonce : Bytes) (s : State) : (useNonce nonce s).pending = s.pending := (rfl)

@[simp] theorem zeroisePairs_pending (p : KeySlot → Bool) (s : State) : (zeroisePairs p s).pending = s.pending := by
  simp [zeroisePairs]

@[simp] theorem dropDomains_pending (s : State) : (dropDomains s).pending = s.pending := by
  simp [dropDomains]

@[simp] theorem blobRefused_pending (s : State) : (blobRefused s).pending = s.pending := by
  simp [blobRefused]

@[simp] theorem blobRefusedOf_pending (b : Bytes) (s : State) : (blobRefusedOf b s).pending = s.pending := by
  simp [blobRefusedOf]

@[simp] theorem loadPair_pending (k : Nat) (key : Bytes) (purpose domain version : Nat) (s : State) :
    (loadPair k key purpose domain version s).pending = s.pending := by
  simp [loadPair]

@[simp] theorem loadDomain_pending (d version purpose : Nat) (blob : Bytes) (s : State) :
    (loadDomain d version purpose blob s).pending = s.pending := by
  simp only [loadDomain]
  repeat' split
  all_goals simp

@[simp] theorem loadDomains_pending (s : State) : (loadDomains s).pending = s.pending := by
  unfold loadDomains
  split
  · rfl
  · refine foldl_pending (fun s e => ?_) _ _
    dsimp only
    split
    · split <;> split <;> simp
    · split <;> simp

@[simp] theorem rotationsEnd_pending (s : State) : (rotationsEnd s).pending = s.pending := by
  refine foldl_pending (fun s d => ?_) _ _
  split
  · split
    · rfl
    · split <;> simp
  · rfl

@[simp] theorem loadKek_pending (s : State) : (loadKek s).pending = s.pending := by
  simp only [loadKek]
  repeat' split
  all_goals simp

@[simp] theorem slotParity_pending (k : Nat) (s : State) : (slotParity k s).pending = s.pending := by
  simp only [slotParity]
  repeat' split
  all_goals simp

@[simp] theorem rotationsBegin_pending (s : State) : (rotationsBegin s).pending = s.pending := (rfl)
@[simp] theorem dropKek_pending (s : State) : (dropKek s).pending = s.pending := (rfl)

@[simp] theorem kekCheck_pending (s : State) : (kekCheck s).pending = s.pending := by
  unfold kekCheck
  repeat' split
  all_goals simp

@[simp] theorem loadDigestKey_pending (holder : Nat) (b : Bytes) (s : State) : (loadDigestKey holder b s).2.pending = s.pending := by
  simp only [loadDigestKey]
  repeat' split
  all_goals simp

@[simp] theorem loadKind0_pending (b : Bytes) (s : State) : (loadKind0 b s).2.pending = s.pending := by
  simp only [loadKind0]
  repeat' split
  all_goals simp

@[simp] theorem loadKind1_pending (p : Bytes) (s : State) : (loadKind1 p s).2.pending = s.pending := by
  simp only [loadKind1]
  repeat' split
  all_goals simp

@[simp] theorem loadQueueKey_pending (rx : Bool) (b : Bytes) (s : State) : (loadQueueKey rx b s).2.pending = s.pending := by
  simp only [loadQueueKey]
  repeat' split
  all_goals simp

@[simp] theorem keyLoadH_pending (holder : Nat) (p : Bytes) (s : State) : (keyLoadH holder p s).2.pending = s.pending := by
  simp [keyLoadH, apply_ite State.pending, apply_ite Prod.snd]

@[simp] theorem zeroiseQueue_pending (id : Nat) (s : State) : (zeroiseQueue id s).pending = s.pending := by
  simp only [zeroiseQueue]
  repeat' split
  all_goals simp

@[simp] theorem zeroiseAll_pending (s : State) : (zeroiseAll s).pending = s.pending := by
  simp [zeroiseAll]

@[simp] theorem keyZeroiseH_pending (holder : Nat) {endSession : State → State} (he : ∀ s, (endSession s).pending = s.pending)
    (p : Bytes) (s : State) : (keyZeroiseH holder endSession p s).2.pending = s.pending := by
  unfold keyZeroiseH
  dsimp only
  repeat' split
  all_goals simp [he]

@[simp] theorem keySlotInfoH_pending (p : Bytes) (s : State) : (keySlotInfoH p s).2.pending = s.pending := by
  simp [keySlotInfoH, apply_ite State.pending, apply_ite Prod.snd]

@[simp] theorem attestH_pending (p : Bytes) (s : State) : (attestH p s).2.pending = s.pending := by
  simp [attestH, apply_ite State.pending, apply_ite Prod.snd]

@[simp] theorem opKeyH_pending {endSession : State → State} (he : ∀ s, (endSession s).pending = s.pending) (p : Bytes) (s : State) :
    (opKeyH endSession p s).2.pending = s.pending := by
  unfold opKeyH
  simp [he, apply_ite Prod.snd, apply_ite State.pending]

/-! ### Machine/Volumes.lean -/

@[simp] theorem holdSwitches_pending (d : Nat) (s : State) : (holdSwitches d s).pending = s.pending := (rfl)

@[simp] theorem volResizeH_pending (p : Bytes) (s : State) : (volResizeH p s).2.pending = s.pending := by
  simp only [volResizeH]
  repeat' split
  all_goals simp

@[simp] theorem reInsert_pending (e : IdxEnt) (s : State) : (reInsert e s).pending = s.pending := by
  simp only [reInsert]
  repeat' split
  all_goals simp

@[simp] theorem refilter_pending (s : State) : (refilter s).pending = s.pending := by
  unfold refilter
  split <;> simp

@[simp] theorem boundary_pending (s : State) : (boundary s).pending = s.pending := by
  unfold boundary
  dsimp only
  simp only [rotationsBegin_pending, refilter_pending]
  refine (foldl_pending (fun s e => ?_) _ _).trans ?_
  · split
    · split <;> simp
    · simp
  · simp [apply_ite State.pending]

@[simp] theorem recheckMoved_pending (s : State) : (recheckMoved s).pending = s.pending := by
  refine foldl_pending (fun s e => ?_) _ _
  repeat' split
  all_goals simp

@[simp] theorem epochAdvance_pending (s : State) : (epochAdvance s).pending = s.pending := by
  simp [epochAdvance, apply_ite State.pending]

@[simp] theorem volListH_pending (p : Bytes) (s : State) : (volListH p s).2.pending = s.pending := (rfl)

@[simp] theorem domByteVerifyH_pending (p : Bytes) (s : State) : (domByteVerifyH p s).2.pending = s.pending := by
  simp only [domByteVerifyH]
  repeat' split
  all_goals simp

@[simp] theorem domPolicyH_pending (p : Bytes) (s : State) : (domPolicyH p s).2.pending = s.pending := by
  simp only [domPolicyH]
  repeat' split
  all_goals simp

@[simp] theorem volCreateH_pending (p : Bytes) (s : State) : (volCreateH p s).2.pending = s.pending := by
  simp [volCreateH, apply_ite State.pending, apply_ite Prod.snd]

@[simp] theorem domCreateH_pending (p : Bytes) (s : State) : (domCreateH p s).2.pending = s.pending := by
  simp only [domCreateH]
  repeat' split
  all_goals simp

@[simp] theorem volDeleteH_pending (p : Bytes) (s : State) : (volDeleteH p s).2.pending = s.pending := by
  simp [volDeleteH, apply_ite State.pending, apply_ite Prod.snd]

/-! ### Machine/Settle.lean -/

@[simp] theorem settleRound_pending (s : State) : (settleRound s).pending = s.pending := by
  unfold settleRound
  dsimp only
  split <;> simp

@[simp] theorem settle_pending (s : State) : (settle s).pending = s.pending := by
  simp [settle, apply_ite State.pending]

@[simp] theorem idleTick_pending (s : State) : (idleTick s).pending = s.pending := by
  rw [idleTick, loadNext_pending, dramTick_pending]

/-! ### Machine/Checkpoint.lean -/

@[simp] theorem checkpointStart_pending (s : State) : (checkpointStart s).pending = s.pending := by
  simp [checkpointStart, apply_ite State.pending]

@[simp] theorem writeIndex_pending (run : Ckpt) (s : State) : (writeIndex run s).pending = s.pending := by
  unfold writeIndex
  refine (foldl_pending (fun s e => ?_) _ _).trans (foldl_pending (fun s b => emit_pending _ s) _ s)
  refine foldl_pending (fun s x => ?_) _ _
  split <;> rfl

@[simp] theorem checkpointComplete_pending (s : State) : (checkpointComplete s).pending = s.pending := by
  unfold checkpointComplete
  split <;> simp

/-! ### Machine/Restart.lean -/

@[simp] theorem hearsArray_pending (m : HelloMsg) (s : State) : (hearsArray m s).pending = s.pending := by
  simp [hearsArray, apply_ite State.pending]

@[simp] theorem journalLost_pending (s : State) : (journalLost s).pending = s.pending := by
  simp [journalLost]

@[simp] theorem bothLost_pending (s : State) (kv peer : Bool) : (bothLost s kv peer).pending = s.pending := by
  simp [bothLost, apply_ite State.pending]

@[simp] theorem goAlone_pending (s : State) : (goAlone s).pending = s.pending := by
  simp [goAlone, apply_ite State.pending]

@[simp] theorem restartReply_pending (m : HelloMsg) (s : State) : (restartReply m s).pending = s.pending := by
  unfold restartReply
  repeat' split
  all_goals simp

@[simp] theorem returnHears_pending (m : HelloMsg) (s : State) : (returnHears m s).pending = s.pending := by
  simp [returnHears, apply_ite State.pending]

@[simp] theorem survivorHears_pending (m : HelloMsg) (s : State) : (survivorHears m s).pending = s.pending := by
  simp [survivorHears, apply_ite State.pending]

@[simp] theorem tryPair_pending (s : State) : (tryPair s).pending = s.pending := by
  unfold tryPair
  repeat' split
  all_goals simp

@[simp] theorem helloIn_pending (m : HelloMsg) (s : State) : (helloIn m s).pending = s.pending := by
  simp [helloIn, apply_ite State.pending]

@[simp] theorem shutBands_pending (s : State) : (shutBands s).pending = s.pending := by
  refine foldl_pending (fun s g => ?_) _ _
  split
  · rfl
  · refine (foldl_pending (fun s e => ?_) _ _).trans (foldl_pending (fun s e => modRow_pending _ _ _ s) _ _)
    dsimp only
    split <;> simp

@[simp] theorem dropDiscarded_pending (s : State) : (dropDiscarded s).pending = s.pending := by
  simp [dropDiscarded, apply_ite State.pending]

@[simp] theorem indexUnit_pending (recs : List JRec) (asn unit : Nat) (s : State) : (indexUnit recs asn unit s).pending = s.pending := by
  refine foldl_pending (fun s r => ?_) _ _
  split
  · dsimp only
    split <;> simp
  · rfl

@[simp] theorem redrain_pending (s : State) : (redrain s).pending = s.pending := (rfl)

@[simp] theorem replayCmd_pending (asn : Nat) (us : List Nat) (s : State) : (replayCmd asn us s).pending = s.pending := by
  unfold replayCmd
  dsimp only
  split
  · rfl
  · split
    · simp only [apply_ite Prod.snd, apply_ite State.pending, enterReplay_pending, draw_pending, ite_self]
      refine foldl_snd_pending (fun acc u => ?_) _ _
      repeat' split
      all_goals simp
    · rfl

@[simp] theorem replayOwn_pending (s : State) : (replayOwn s).pending = s.pending := by
  unfold replayOwn
  simp only [redrain_pending, dropDiscarded_pending]
  refine (foldl_pending (fun s a => replayCmd_pending _ _ s) _ _).trans ?_
  refine (foldl_pending (fun s r => ?_) _ _).trans (foldl_pending (fun s u => indexUnit_pending _ _ _ s) _ _)
  split <;> simp

@[simp] theorem arrayRead_pending (record : ArrayRec) (s : State) : (arrayRead record s).pending = s.pending := by
  simp [arrayRead, apply_ite State.pending]

@[simp] theorem adoptArray_pending (m : HelloMsg) (s : State) : (adoptArray m s).pending = s.pending := (rfl)

@[simp] theorem pairAgain_pending (m : HelloMsg) (s : State) : (pairAgain m s).pending = s.pending := by
  unfold pairAgain
  repeat' split
  all_goals simp

@[simp] theorem endJoin_pending (s : State) : (endJoin s).pending = s.pending := by
  simp only [endJoin]
  repeat' split
  all_goals simp

@[simp] theorem beginCompaction_pending (s : State) : (beginCompaction s).pending = s.pending := (rfl)

@[simp] theorem remirror_pending (s : State) : (remirror s).pending = s.pending := by
  simp [remirror, apply_ite State.pending]

@[simp] theorem heartbeatIn_pending (n : Nat) (m : HbMsg) (s : State) : (heartbeatIn n m s).pending = s.pending := by
  simp [heartbeatIn, apply_ite State.pending]

@[simp] theorem replayDone_pending (s : State) : (replayDone s).pending = s.pending := by
  simp [replayDone, apply_ite State.pending]

@[simp] theorem beginRestart_pending (kv : Bool) (s : State) : (beginRestart kv s).pending = s.pending := by
  simp [beginRestart]

@[simp] theorem peerWaitExpiry_pending (s : State) : (peerWaitExpiry s).pending = s.pending := by
  unfold peerWaitExpiry
  split <;> simp

@[simp] theorem forceAlone_pending (s : State) : (forceAlone s).pending = s.pending := by
  simp [forceAlone, apply_ite State.pending]

/-! ### Machine/ShelfCmds.lean -/

@[simp] theorem gcForceH_pending (p : Bytes) (s : State) : (gcForceH p s).2.pending = s.pending := by
  simp [gcForceH, apply_ite State.pending, apply_ite Prod.snd]

@[simp] theorem scrubNowH_pending (p : Bytes) (s : State) : (scrubNowH p s).2.pending = s.pending := by
  simp [scrubNowH, apply_ite State.pending, apply_ite Prod.snd]

@[simp] theorem retentionDue_pending (g : Nat) (s : State) : (retentionDue g s).pending = s.pending := by
  simp [retentionDue, apply_ite State.pending]

@[simp] theorem blockRetireH_pending (p : Bytes) (s : State) : (blockRetireH p s).2.pending = s.pending := by
  simp only [blockRetireH]
  repeat' split
  all_goals simp

@[simp] theorem endHold_pending (g : Nat) (s : State) : (endHold g s).pending = s.pending := by
  simp [endHold, apply_ite State.pending]

@[simp] theorem mediaPolicyH_pending (b : Bytes) (s : State) : (mediaPolicyH b s).2.pending = s.pending := by
  simp [mediaPolicyH, apply_ite State.pending, apply_ite Prod.snd]

@[simp] theorem holdLapse_pending (g : Nat) (s : State) : (holdLapse g s).pending = s.pending := by
  simp [holdLapse, apply_ite State.pending]

@[simp] theorem mediaStatusH_pending (p : Bytes) (s : State) : (mediaStatusH p s).2.pending = s.pending := by
  simp [mediaStatusH, apply_ite State.pending, apply_ite Prod.snd]

@[simp] theorem homeShelfSetH_pending (p : Bytes) (s : State) : (homeShelfSetH p s).2.pending = s.pending := by
  simp [homeShelfSetH, apply_ite State.pending, apply_ite Prod.snd]

@[simp] theorem holdsLapse_pending (s : State) : (holdsLapse s).pending = s.pending := by
  unfold holdsLapse
  exact (foldl_pending (fun s g => endHold_pending g s) _ _).trans (by simp)

@[simp] theorem shelfStatusH_pending (p : Bytes) (s : State) : (shelfStatusH p s).2.pending = s.pending := by
  simp [shelfStatusH, apply_ite State.pending, apply_ite Prod.snd]

@[simp] theorem shelfSleepH_pending (p : Bytes) (s : State) : (shelfSleepH p s).2.pending = s.pending := by
  unfold shelfSleepH
  dsimp only
  split
  · rfl
  · split
    · rfl
    · split
      · rfl
      · split
        · rfl
        · exact withJob_pending _ _ _ (fun _ s => setShelf_pending _ _ s) s

@[simp] theorem shelfHardenH_pending (p : Bytes) (s : State) : (shelfHardenH p s).2.pending = s.pending := by
  simp [shelfHardenH, apply_ite State.pending, apply_ite Prod.snd]

@[simp] theorem shelfWakeH_pending (p : Bytes) (s : State) : (shelfWakeH p s).2.pending = s.pending := by
  unfold shelfWakeH
  dsimp only
  split
  · rfl
  · split
    · rfl
    · split
      · rfl
      · refine withJob_pending _ _ _ (fun k s => ?_) s
        split <;> simp

/-! ### Machine/Avs.lean -/

@[simp] theorem avsSend_pending (b : Nat) (s : State) : (avsSend b s).pending = s.pending := by
  unfold avsSend
  split <;> simp

@[simp] theorem pushAvs_pending (r target : Nat) (why : AvsFor) (s : State) : (pushAvs r target why s).pending = s.pending := by
  simp [pushAvs, apply_ite State.pending]

@[simp] theorem avsStart_pending (rail : BitVec 2) (mv : BitVec 12) (s : State) : (avsStart rail mv s).pending = s.pending := by
  simp [avsStart, apply_ite State.pending]

@[simp] theorem railsOff_pending (s : State) : (railsOff s).pending = s.pending := by
  simp [railsOff, apply_ite State.pending]

@[simp] theorem popAvs_pending (b : Nat) (s : State) : (popAvs b s).pending = s.pending := by
  simp [popAvs]

@[simp] theorem avsPoll_pending (b : Nat) (s : State) : (avsPoll b s).pending = s.pending := by
  unfold avsPoll
  repeat' split
  all_goals simp

/-! ### Machine/EndSession.lean -/

@[simp] theorem setEn_pending (cls idx : Nat) (en : BitVec 3) (s : State) : (setEn cls idx en s).pending = s.pending := by
  unfold setEn
  repeat' split
  all_goals simp

@[simp] theorem avsLapse_pending (s : State) : (avsLapse s).pending = s.pending := by
  simp [avsLapse, apply_ite State.pending]

@[simp] theorem qosLapse_pending (s : State) : (qosLapse s).pending = s.pending := (rfl)

@[simp] theorem disableRes_pending (bits : BitVec 3) (cls idx : Nat) (s : State) : (disableRes bits cls idx s).pending = s.pending := by
  simp [disableRes, apply_ite State.pending]

@[simp] theorem releaseClaim_pending (key : Nat) (s : State) : (releaseClaim key s).pending = s.pending := by
  simp [releaseClaim, apply_ite State.pending]

@[simp] theorem wakeLapse_pending (s : State) : (wakeLapse s).pending = s.pending := by
  simp [wakeLapse, apply_ite State.pending]

@[simp] theorem sessionLost_pending (s : State) : (sessionLost s).pending = s.pending := by
  simp [sessionLost, apply_ite State.pending]

@[simp] theorem waysLapse_pending (s : State) : (waysLapse s).pending = s.pending := by
  simp only [waysLapse]
  repeat' split
  all_goals simp

/-! ### Machine/Reset.lean -/

@[simp] theorem dramDark_pending (s : State) : (dramDark s).pending = s.pending := (rfl)

@[simp] theorem lodgeReset_pending (dram : Bool) (s : State) : (lodgeReset dram s).pending = s.pending := by
  simp [lodgeReset]

@[simp] theorem bootFails_pending (s : State) : (bootFails s).pending = s.pending := by
  simp [bootFails]

@[simp] theorem trySlot_pending (k : Nat) (s : State) : (trySlot k s).pending = s.pending := (rfl)

@[simp] theorem bootFrom_pending (k : Nat) (again : Bool) (s : State) : (bootFrom k again s).pending = s.pending := by
  have htry (k : Nat) (s : State) : (trySlot k s).pending = s.pending := rfl
  simp [bootFrom, apply_ite State.pending]

@[simp] theorem bootStart_pending (s : State) : (bootStart s).pending = s.pending := by
  simp [bootStart, apply_ite State.pending]

@[simp] theorem dramResume_pending (s : State) : (dramResume s).pending = s.pending := by
  unfold dramResume
  refine foldl_pending (fun s n => ?_) _ _
  dsimp only
  split
  · simp
  · refine (foldl_pending (fun s r => ?_) _ _).trans (setDmc_pending _ _ _)
    split <;> simp

@[simp] theorem dramBoot_pending (s : State) : (dramBoot s).pending = s.pending := by
  have hfresh (l : List Nat) (s : State) : (l.foldl (fun s n =>
      if ranksPresent (dmcOf s n) = 0 then setDmc n (freshChannel (dmcOf s n)) s else s) s).pending = s.pending := by
    refine foldl_pending (fun s n => ?_) l s
    split <;> simp
  have htrain (l : List Nat) (s : State) : (l.foldl (fun s n => trainChannel n s) s).pending = s.pending :=
    foldl_pending (fun s n => trainChannel_pending n s) l s
  unfold dramBoot
  split
  · simp
  · dsimp only
    rw [htrain, hfresh]

/-! ### Machine/Power.lean -/

@[simp] theorem dramIce_pending (s : State) : (dramIce s).pending = s.pending := by
  unfold dramIce
  exact foldl_pending (fun s n => setDmc_pending _ _ _) _ s

@[simp] theorem goDark_pending (s : State) : (goDark s).pending = s.pending := by
  simp [goDark]

@[simp] theorem setWake_pending (fw : Bool) (st : WakeStage) (fails : Nat) (s : State) :
    (setWake fw st fails s).pending = s.pending := (rfl)

@[simp] theorem enterState_pending (st : PwrState) (s : State) : (enterState st s).pending = s.pending := (rfl)

@[simp] theorem watchDone_pending (s : State) : (watchDone s).pending = s.pending := by
  unfold watchDone
  simp [apply_ite State.pending]

@[simp] theorem pllsDone_pending (s : State) : (pllsDone s).pending = s.pending := by
  simp only [pllsDone]
  repeat' split
  all_goals simp

@[simp] theorem railsDone_pending (s : State) : (railsDone s).pending = s.pending := by
  unfold railsDone
  repeat' split
  all_goals simp

@[simp] theorem sleepJob_pending (st : Status) (s : State) : (sleepJob st s).pending = s.pending := by
  unfold sleepJob
  split <;> simp

@[simp] theorem wakeRails_pending (fw : Bool) (fails : Nat) (s : State) : (wakeRails fw fails s).pending = s.pending := by
  simp [wakeRails]

@[simp] theorem sleepAbandon_pending (s : State) : (sleepAbandon s).pending = s.pending := by
  simp [sleepAbandon, apply_ite State.pending]

@[simp] theorem sleepCommit_pending (target : Nat) (job : Option Nat) (s : State) : (sleepCommit target job s).pending = s.pending := by
  simp [sleepCommit, apply_ite State.pending]

@[simp] theorem sleepAdvance_pending (s : State) : (sleepAdvance s).pending = s.pending := by
  simp only [sleepAdvance]
  repeat' split
  all_goals simp

@[simp] theorem sleepDrop_pending (s : State) : (sleepDrop s).pending = s.pending := by
  have hdmc (l : List Nat) (s : State) : (l.foldl (fun s n => setDmc n { dmcOf s n with state := if n < 4 then 3 else 4 } s) s).pending =
      s.pending := foldl_pending (fun s n => setDmc_pending n _ s) l s
  have hway (l : List Nat) (s : State) : (l.foldl (fun s w => if wayLocked s.cns w then s
      else onCns (fun c => { c with powered := setBit c.powered w false }) (clearWay w s)) s).pending = s.pending := by
    refine foldl_pending (fun s w => ?_) l s
    split <;> simp
  have hgroup (l : List Nat) (s : State) : (l.foldl (fun s g => powerGroup g false s) s).pending = s.pending :=
    foldl_pending (fun s g => powerGroup_pending g false s) l s
  simp only [sleepDrop, hdmc, foldl_pending, dropPort_pending, closeQp_pending, hgroup, hway, implies_true]

@[simp] theorem sleepRails_pending (target : Nat) (job : Option Nat) (s : State) : (sleepRails target job s).pending = s.pending := by
  simp [sleepRails, apply_ite State.pending]

@[simp] theorem startDormant_pending (job : Option Nat) (s : State) : (startDormant job s).pending = s.pending := (rfl)

@[simp] theorem ghSleep_pending (target : Nat) (s : State) : (ghSleep target s).pending = s.pending := by
  simp only [ghSleep]
  repeat' split
  all_goals simp

@[simp] theorem wakeFail_pending (stage which : Nat) (s : State) : (wakeFail stage which s).pending = s.pending := by
  unfold wakeFail
  repeat' split
  all_goals simp

@[simp] theorem startWake_pending (s : State) : (startWake s).pending = s.pending := by
  simp only [startWake]
  repeat' split
  all_goals simp

@[simp] theorem fireWake_pending (k : Nat) (s : State) : (fireWake k s).pending = s.pending := by
  simp [fireWake, apply_ite State.pending]

@[simp] theorem darkNoWork_pending (s : State) : (darkNoWork s).pending = s.pending := by
  unfold darkNoWork
  simp

@[simp] theorem iceDown_pending (s : State) : (iceDown s).pending = s.pending := by
  unfold iceDown
  simp

@[simp] theorem pwrFailFall_pending (s : State) : (pwrFailFall s).pending = s.pending := by
  simp only [pwrFailFall]
  repeat' split
  all_goals simp

@[simp] theorem startSleep_pending (target opcode : Nat) (job : Option Nat) (s : State) :
    (startSleep target opcode job s).pending = s.pending := by
  simp [startSleep]

@[simp] theorem pllTimeout_pending (k : Nat) (s : State) : (pllTimeout k s).pending = s.pending := by
  unfold pllTimeout
  repeat' split
  all_goals simp

@[simp] theorem avsReached_pending (op : AvsOp) (s : State) : (avsReached op s).pending = s.pending := by
  unfold avsReached
  repeat' split
  all_goals simp

@[simp] theorem iceLeave_pending (s : State) : (iceLeave s).pending = s.pending := by
  simp [iceLeave]

@[simp] theorem pllLock_pending (k : Nat) (s : State) : (pllLock k s).pending = s.pending := by
  simp [pllLock, apply_ite State.pending]

@[simp] theorem pwrFailRise_pending (s : State) : (pwrFailRise s).pending = s.pending := by
  simp [pwrFailRise, apply_ite State.pending]

@[simp] theorem retryWaitEnd_pending (s : State) : (retryWaitEnd s).pending = s.pending := by
  unfold retryWaitEnd
  split <;> simp

@[simp] theorem compactionDone_pending (s : State) : (compactionDone s).pending = s.pending := by
  simp [compactionDone, apply_ite State.pending]

theorem avsAnswer_pending (b : Nat) (good vdone : Bool) (ma : Nat) (s : State) :
    (∀ t, avsAnswer b good vdone ma s = .waits t → t.pending = s.pending) ∧
    ∀ op t, avsAnswer b good vdone ma s = .reached op t → t.pending = s.pending := by
  unfold avsAnswer
  dsimp only
  refine ⟨fun t h => ?_, fun op t h => ?_⟩
  · split at h
    · cases h; rfl
    · split at h
      · cases h; rfl
      · split at h
        · split at h
          · cases h
          · cases h; simp
        · cases h; simp
  · split at h
    · cases h
    · split at h
      · cases h
      · split at h
        · split at h
          · cases h; simp
          · cases h
        · cases h

@[simp] theorem avsResponse_pending (b : Nat) (good vdone : Bool) (ma : Nat) (s : State) :
    (avsResponse b good vdone ma s).pending = s.pending := by
  unfold avsResponse
  split
  next h => exact (avsAnswer_pending b good vdone ma s).1 _ h
  next h => rw [avsReached_pending]; exact (avsAnswer_pending b good vdone ma s).2 _ _ h

@[simp] theorem avsFails_pending (stage : Nat) (op : AvsOp) (b : Nat) (s : State) : (avsFails stage op b s).pending = s.pending := by
  unfold avsFails
  repeat' split
  all_goals simp

@[simp] theorem avsVdoneTimeout_pending (b : Nat) (s : State) : (avsVdoneTimeout b s).pending = s.pending := by
  unfold avsVdoneTimeout
  repeat' split
  all_goals simp

@[simp] theorem avsAckTimeout_pending (b : Nat) (s : State) : (avsAckTimeout b s).pending = s.pending := by
  unfold avsAckTimeout
  repeat' split
  all_goals simp

@[simp] theorem keepOkFall_pending (s : State) : (keepOkFall s).pending = s.pending := by
  simp [keepOkFall, apply_ite State.pending]

/-! ### Machine/Boot.lean -/

@[simp] theorem watchdogKick_pending (s : State) : (watchdogKick s).pending = s.pending := (rfl)

@[simp] theorem powerOnClear_pending (s : State) : (powerOnClear s).pending = s.pending := by
  simp [powerOnClear]

@[simp] theorem restoreCounts_pending (s : State) : (restoreCounts s).pending = s.pending := (rfl)

@[simp] theorem warmReset_pending (s : State) : (warmReset s).pending = s.pending := by
  simp only [warmReset]
  repeat' split
  all_goals simp

@[simp] theorem warmByLodge_pending (s : State) : (warmByLodge s).pending = s.pending := by
  simp [warmByLodge, apply_ite State.pending]

@[simp] theorem takeBoard_pending (straps : BitVec 4) (r : RecordRead) (s : State) : (takeBoard straps r s).pending = s.pending := by
  simp [takeBoard, apply_ite State.pending]

@[simp] theorem gpioBoot_pending (s : State) : (gpioBoot s).pending = s.pending := by
  simp only [gpioBoot]
  repeat' split
  all_goals simp [apply_ite State.pending]

@[simp] theorem bootFenced_pending (s : State) : (bootFenced s).pending = s.pending := by
  simp [bootFenced]

@[simp] theorem bootDormant_pending (s : State) : (bootDormant s).pending = s.pending := by
  simp [bootDormant, apply_ite State.pending]

@[simp] theorem keepLater_pending (s : State) : (keepLater s).pending = s.pending := by
  unfold keepLater
  repeat' split
  all_goals simp

@[simp] theorem bootIce_pending (s : State) : (bootIce s).pending = s.pending := by
  have h : (keepLater (dramResume s)).pending = s.pending := by simp
  unfold bootIce
  generalize keepLater (dramResume s) = t at h ⊢
  dsimp only
  rw [← h]
  split
  · simp
  · rw [beginRestart_pending]
    split <;> simp [apply_ite State.pending]

@[simp] theorem bootPowerOn_pending (s : State) : (bootPowerOn s).pending = s.pending := by
  simp only [bootPowerOn]
  repeat' split
  all_goals simp

@[simp] theorem bootWarm_pending (s : State) : (bootWarm s).pending = s.pending := by
  simp [bootWarm, apply_ite State.pending]

@[simp] theorem firmwareUp_pending (s : State) : (firmwareUp s).pending = s.pending := by
  unfold firmwareUp
  dsimp only
  refine (foldl_pending (fun s g => ?_) _ _).trans ?_
  · split <;> simp
  · simp [apply_ite State.pending]

@[simp] theorem serveNow_pending (s : State) : (serveNow s).pending = s.pending := by
  unfold serveNow
  split <;> simp

@[simp] theorem bootGood_pending (s : State) : (bootGood s).pending = s.pending := by
  simp only [bootGood]
  repeat' split
  all_goals simp

@[simp] theorem bootComplete_pending (ok : Bool) (s : State) : (bootComplete ok s).pending = s.pending := by
  simp [bootComplete, apply_ite State.pending]

@[simp] theorem warmPin_pending (s : State) : (warmPin s).pending = s.pending := by
  simp [warmPin]

@[simp] theorem pwronFall_pending (s : State) : (pwronFall s).pending = s.pending := by
  simp [pwronFall]

@[simp] theorem resetDelayEnd_pending (s : State) : (resetDelayEnd s).pending = s.pending := by
  simp [resetDelayEnd, apply_ite State.pending]

@[simp] theorem powerOn_pending (straps : BitVec 4) (board : RecordRead) (s : State) : (powerOn straps board s).pending = s.pending := by
  simp [powerOn, apply_ite State.pending]

@[simp] theorem watchdogExpiry_pending (s : State) : (watchdogExpiry s).pending = s.pending := by
  simp [watchdogExpiry, apply_ite State.pending]

@[simp] theorem slotConfirm_pending (s : State) : (slotConfirm s).pending = s.pending := by
  simp [slotConfirm, apply_ite State.pending]

/-! ### Machine/GhRows.lean -/

@[simp] theorem timerCompare_pending (t : Nat) (ticks : Word) (s : State) : (timerCompare t ticks s).pending = s.pending := (rfl)

@[simp] theorem wakeNPin_pending (low : Bool) (s : State) : (wakeNPin low s).pending = s.pending := by
  simp [wakeNPin, apply_ite State.pending]

@[simp] theorem operatingTick_pending (s : State) : (operatingTick s).pending = s.pending := (rfl)

@[simp] theorem timerExpiry_pending (t : Nat) (s : State) : (timerExpiry t s).pending = s.pending := by
  have hpins (l : List Nat) (s : State) : (l.foldl (fun s k => setGpio k { gpioOf s k with pulseLow := true } s) s).pending = s.pending :=
    foldl_pending (fun s k => setGpio_pending _ _ s) l s
  unfold timerExpiry
  dsimp only
  split
  · rfl
  · split
    · rw [fireWake_pending, hpins, setTimer_pending]
    · rw [hpins, setTimer_pending]

@[simp] theorem dormantAfter_pending (s : State) : (dormantAfter s).pending = s.pending := by
  simp [dormantAfter, apply_ite State.pending]

@[simp] theorem idlePolicy_pending (s : State) : (idlePolicy s).pending = s.pending := by
  simp [idlePolicy, apply_ite State.pending]

@[simp] theorem throttleStep_pending (s : State) : (throttleStep s).pending = s.pending := by
  simp [throttleStep, apply_ite State.pending]

@[simp] theorem overheated_pending (s : State) : (overheated s).pending = s.pending := by
  simp [overheated, apply_ite State.pending]

@[simp] theorem tjSample_pending (readings : List Nat) (s : State) : (tjSample readings s).pending = s.pending := by
  simp [tjSample, apply_ite State.pending]

@[simp] theorem smbusMatch_pending (s : State) : (smbusMatch s).pending = s.pending := by
  simp [smbusMatch, apply_ite State.pending]

@[simp] theorem xtalFails_pending (s : State) : (xtalFails s).pending = s.pending := by
  simp [xtalFails, apply_ite State.pending]

@[simp] theorem pulseEnd_pending (k : Nat) (s : State) : (pulseEnd k s).pending = s.pending := (rfl)

@[simp] theorem smbusStretchEnd_pending (s : State) : (smbusStretchEnd s).pending = s.pending := by
  simp [smbusStretchEnd, apply_ite State.pending]

@[simp] theorem gpioEdge_pending (k : Nat) (s : State) : (gpioEdge k s).pending = s.pending := by
  simp [gpioEdge, apply_ite State.pending]

@[simp] theorem peerHbWake_pending (s : State) : (peerHbWake s).pending = s.pending := by
  simp [peerHbWake, apply_ite State.pending]

@[simp] theorem xtalBack_pending (s : State) : (xtalBack s).pending = s.pending := (rfl)

@[simp] theorem tjCooled_pending (s : State) : (tjCooled s).pending = s.pending := by
  simp [tjCooled, apply_ite State.pending]

/-! ### Machine/PairRows.lean -/

@[simp] theorem recordRead_pending (r : ArrayRec) (s : State) : (recordRead r s).pending = s.pending := by
  simp [recordRead, apply_ite State.pending]

@[simp] theorem afterFence_pending (h : Handover) (s : State) : (afterFence h s).pending = s.pending := by
  unfold afterFence
  repeat' split
  all_goals simp

@[simp] theorem fenceInFall_pending (s : State) : (fenceInFall s).pending = s.pending := by
  simp only [fenceInFall]
  repeat' split
  all_goals simp

/-! ### Machine/Session.lean -/

@[simp] theorem claimEnable_pending (cls idx : Nat) (en : BitVec 3) (s : State) : (claimEnable cls idx en s).pending = s.pending := by
  simp [claimEnable, apply_ite State.pending]

@[simp] theorem openFailed_pending (s : State) : (openFailed s).pending = s.pending := (rfl)

@[simp] theorem sessFails_pending (s : State) : (sessFails s).pending = s.pending := by
  simp [sessFails]

@[simp] theorem openH_pending (n : Nat) (p : Bytes) (s : State) : (openH n p s).2.pending = s.pending := by
  simp only [openH]
  repeat' split
  all_goals simp

@[simp] theorem claimRevokeH_pending (p : Bytes) (s : State) : (claimRevokeH p s).2.pending = s.pending := by
  simp only [claimRevokeH]
  repeat' split
  all_goals simp

@[simp] theorem claimListH_pending (p : Bytes) (s : State) : (claimListH p s).2.pending = s.pending := by
  simp [claimListH, apply_ite State.pending, apply_ite Prod.snd]

@[simp] theorem sessionOpen_pending (n : Nat) (s : State) : (sessionOpen n s).pending = s.pending := by
  simp [sessionOpen, apply_ite State.pending]

@[simp] theorem watchLapse_pending (s : State) : (watchLapse s).pending = s.pending := by
  simp [watchLapse, apply_ite State.pending]

@[simp] theorem sessionEnd_pending (s : State) : (sessionEnd s).pending = s.pending := by
  simp [sessionEnd, apply_ite State.pending]

@[simp] theorem functionReset_pending (s : State) : (functionReset s).pending = s.pending := by
  simp only [functionReset]
  repeat' split
  all_goals simp

@[simp] theorem closeH_pending (n : Nat) (_p : Bytes) (s : State) : (closeH n _p s).2.pending = s.pending := by
  simp only [closeH]
  repeat' split
  all_goals simp

@[simp] theorem challengeH_pending (_p : Bytes) (s : State) : (challengeH _p s).2.pending = s.pending := by
  simp [challengeH, apply_ite State.pending, apply_ite Prod.snd]

/-! ### Machine/SysRows.lean -/

@[simp] theorem alreadyThere_pending (s : State) : (alreadyThere s).2.pending = s.pending := by
  exact withJob_pending _ _ _ (fun k s => finishJob_pending k _ _ s) s

@[simp] theorem powerForceH_pending (p : Bytes) (s : State) : (powerForceH p s).2.pending = s.pending := by
  unfold powerForceH
  dsimp only
  repeat' split
  all_goals simp

@[simp] theorem policyTimer_pending (hours : Nat) (s : State) : (policyTimer hours s).pending = s.pending := by
  simp [policyTimer, apply_ite State.pending]

@[simp] theorem powerPolicyH_pending (p : Bytes) (s : State) : (powerPolicyH p s).2.pending = s.pending := by
  simp [powerPolicyH, apply_ite State.pending, apply_ite Prod.snd]

@[simp] theorem sysInfoH_pending (_p : Bytes) (s : State) : (sysInfoH _p s).2.pending = s.pending := (rfl)

@[simp] theorem wakeSourceH_pending (p : Bytes) (s : State) : (wakeSourceH p s).2.pending = s.pending := by
  simp [wakeSourceH, apply_ite State.pending, apply_ite Prod.snd]

@[simp] theorem headResetH_pending (p : Bytes) (s : State) : (headResetH p s).2.pending = s.pending := by
  simp [headResetH, apply_ite State.pending, apply_ite Prod.snd]

@[simp] theorem avsSetH_pending (n : Nat) (p : Bytes) (s : State) : (avsSetH n p s).2.pending = s.pending := by
  simp [avsSetH, apply_ite State.pending, apply_ite Prod.snd]

@[simp] theorem jobStatusH_pending (p : Bytes) (s : State) : (jobStatusH p s).2.pending = s.pending := by
  unfold jobStatusH
  repeat' split
  all_goals simp

@[simp] theorem powerStatusH_pending (_p : Bytes) (s : State) : (powerStatusH _p s).2.pending = s.pending := (rfl)

/-! ### Machine/Health.lean -/

@[simp] theorem sysHealthH_pending (_p : Bytes) (s : State) : (sysHealthH _p s).2.pending = s.pending := (rfl)

@[simp] theorem raiseRail_pending (r : Nat) (s : State) : (raiseRail r s).pending = s.pending := by
  simp [raiseRail, apply_ite State.pending]

@[simp] theorem pathMonitors_pending (slack : List (Nat × Nat)) (s : State) : (pathMonitors slack s).pending = s.pending := by
  simp only [pathMonitors]
  repeat' split
  all_goals simp [apply_ite State.pending]

@[simp] theorem engineGone_pending (e : Nat) (s : State) : (engineGone e s).pending = s.pending := by
  simp [engineGone]

@[simp] theorem lastingAction_pending (subj : Subject) (s : State) : (lastingAction subj s).pending = s.pending := by
  simp only [lastingAction]
  repeat' split
  all_goals simp

@[simp] theorem fwActivateH_pending (p : Bytes) (s : State) : (fwActivateH p s).2.pending = s.pending := by
  simp [fwActivateH, apply_ite State.pending, apply_ite Prod.snd]

@[simp] theorem fwStageH_pending (readOk : Bool) (p : Bytes) (s : State) : (fwStageH readOk p s).2.pending = s.pending := by
  simp [fwStageH, apply_ite State.pending, apply_ite Prod.snd]

@[simp] theorem errorSignalled_pending (cls subsystem : Nat) (subj : Subject) (s : State) :
    (errorSignalled cls subsystem subj s).pending = s.pending := by
  unfold errorSignalled
  split <;> simp

@[simp] theorem selftestH_pending (p : Bytes) (s : State) : (selftestH p s).2.pending = s.pending := by
  unfold selftestH
  repeat' split
  all_goals simp

@[simp] theorem nextTest_pending (s : State) : (nextTest s).pending = s.pending := by
  unfold nextTest
  repeat' split
  all_goals simp

@[simp] theorem verdict_pending (subj : Subject) (v : Verdict) (mismatches : Nat) (s : State) :
    (verdict subj v mismatches s).pending = s.pending := by
  simp only [verdict]
  repeat' split
  all_goals simp

/-! ### Machine/HostRows.lean -/

@[simp] theorem invalidNak_pending (n : Nat) (s : State) : (invalidNak n s).pending = s.pending := by
  simp [invalidNak, apply_ite State.pending]

/-! ### Machine/IngestRows.lean -/

@[simp] theorem journalAck_pending (off : Nat) (s : State) : (journalAck off s).pending = s.pending := (rfl)

/-! ### Machine/Kiosk.lean -/

@[simp] theorem cancelRequest_pending (n : Nat) (s : State) : (cancelRequest n s).pending = s.pending := by
  unfold cancelRequest
  split <;> simp

@[simp] theorem mbxCancel_pending (n : Nat) (s : State) : (mbxCancel n s).pending = s.pending := by
  simp [mbxCancel, apply_ite State.pending]

@[simp] theorem postRequest_pending (n : Nat) (p : Path) (s : State) : (postRequest n p s).pending = s.pending := (rfl)

@[simp] theorem mbxRing_pending (n : Nat) (s : State) : (mbxRing n s).pending = s.pending := by
  simp [mbxRing, apply_ite State.pending]

@[simp] theorem ackResponse_pending (n : Nat) (s : State) : (ackResponse n s).pending = s.pending := by
  simp [ackResponse, apply_ite State.pending]

@[simp] theorem mbxDoneAck_pending (n : Nat) (s : State) : (mbxDoneAck n s).pending = s.pending := by
  simp [mbxDoneAck, apply_ite State.pending]

@[simp] theorem mbxRequestWrite_pending (n off : Nat) (data : Bytes) (s : State) : (mbxRequestWrite n off data s).pending = s.pending := by
  simp [mbxRequestWrite, apply_ite State.pending]

@[simp] theorem mb63ReadOffset_pending (off : Nat) (s : State) : (mb63ReadOffset off s).pending = s.pending := (rfl)
@[simp] theorem jobResultExpiry_pending (job : Nat) (s : State) : (jobResultExpiry job s).pending = s.pending := (rfl)

@[simp] theorem mbxTake_pending (n : Nat) (s : State) : (mbxTake n s).pending = s.pending := by
  simp [mbxTake, apply_ite State.pending]

@[simp] theorem mb63Write_pending (off : Nat) (data : Bytes) (s : State) : (mb63Write off data s).pending = s.pending := by
  simp [mb63Write, apply_ite State.pending]

@[simp] theorem mb63Read_pending (count : Nat) (s : State) : (mb63Read count s).pending = s.pending := by
  simp [mb63Read, apply_ite State.pending]

@[simp] theorem pecFail_pending (s : State) : (pecFail s).pending = s.pending := by
  simp [pecFail]

@[simp] theorem basmosPartTimeout_pending (n : Nat) (s : State) : (basmosPartTimeout n s).pending = s.pending := by
  simp [basmosPartTimeout, apply_ite State.pending]

@[simp] theorem mb63Ring_pending (s : State) : (mb63Ring s).pending = s.pending := by
  simp [mb63Ring, apply_ite State.pending]

@[simp] theorem basmosPart_pending (n : Nat) (s : State) : (basmosPart n s).pending = s.pending := by
  simp [basmosPart, apply_ite State.pending]

@[simp] theorem smbCommand_pending (pecOk statusRead : Bool) {f : State → State} (hf : ∀ s, (f s).pending = s.pending) (s : State) :
    (smbCommand pecOk statusRead f s).pending = s.pending := by
  unfold smbCommand
  repeat' split
  all_goals simp [hf]

@[simp] theorem mb63StatusRead_pending (s : State) : (mb63StatusRead s).pending = s.pending := (rfl)
@[simp] theorem nonceExpiry_pending (k : Nat) (s : State) : (nonceExpiry k s).pending = s.pending := (rfl)

@[simp] theorem kioskHwTimeout_pending (n : Nat) (s : State) : (kioskHwTimeout n s).pending = s.pending := by
  simp [kioskHwTimeout, apply_ite State.pending]

@[simp] theorem smbusAlertResponse_pending (s : State) : (smbusAlertResponse s).pending = s.pending := (rfl)
@[simp] theorem sessionLockoutEnd_pending (s : State) : (sessionLockoutEnd s).pending = s.pending := (rfl)

/-! ### Machine/LinkRows.lean -/

@[simp] theorem newSled_pending (p : Nat) (v : SledIdent) (s : State) : (newSled p v s).pending = s.pending := by
  simp [newSled, apply_ite State.pending]

@[simp] theorem bridgeInfoResponse_pending (r : SledResp) (reread : RecordRead) (s : State) :
    (bridgeInfoResponse r reread s).pending = s.pending := by
  unfold bridgeInfoResponse
  dsimp only
  split
  next h => exact snd_pending h (by simp)
  next h =>
    have hp := snd_pending h (takeResponse_pending _ _ _ _)
    repeat' split
    all_goals simpa using hp

@[simp] theorem programResponse_pending (r : SledResp) (s : State) : (programResponse r s).pending = s.pending := by
  unfold programResponse
  split
  next h => rw [sledAnswer_pending]; exact snd_pending h (by simp)
  next h => exact snd_pending h (by simp)

@[simp] theorem eraseResponse_pending (r : SledResp) (s : State) : (eraseResponse r s).pending = s.pending := by
  unfold eraseResponse
  split
  next h => rw [sledAnswer_pending]; exact snd_pending h (by simp)
  next h => exact snd_pending h (by simp)

@[simp] theorem noticeIn_pending (p kind die temp : Nat) (s : State) : (noticeIn p kind die temp s).pending = s.pending := by
  simp [noticeIn, apply_ite State.pending]

@[simp] theorem linkActiveTimeout_pending (p : Nat) (s : State) : (linkActiveTimeout p s).pending = s.pending := by
  simp [linkActiveTimeout, apply_ite State.pending]

@[simp] theorem dieStatusResponse_pending (r : SledResp) (s : State) : (dieStatusResponse r s).pending = s.pending := by
  unfold dieStatusResponse
  split
  next h =>
    have hp := snd_pending h (takeResponse_pending _ _ _ _)
    split <;> simpa using hp
  next h => exact snd_pending h (by simp)

@[simp] theorem portLockResponse_pending (r : SledResp) (s : State) : (portLockResponse r s).pending = s.pending := by
  unfold portLockResponse
  dsimp only
  split
  next h =>
    have hp := snd_pending h (takeResponse_pending _ _ _ _)
    split <;> simpa using hp
  next h => exact snd_pending h (by simp)

@[simp] theorem readResponse_pending (r : SledResp) (s : State) : (readResponse r s).pending = s.pending := by
  unfold readResponse
  split
  next h => rw [sledAnswer_pending]; exact snd_pending h (by simp)
  next h => exact snd_pending h (by simp)

/-! ### Machine/RegRead.lean -/

@[simp] theorem regReadEffect_pending (a : Nat) (s : State) : (regReadEffect a s).pending = s.pending := by
  simp [regReadEffect, apply_ite State.pending]

/-! ### Machine/RegWrite.lean -/

@[simp] theorem onSec_pending (f : Sec → Sec) (s : State) : (onSec f s).pending = s.pending := (rfl)
@[simp] theorem onEvt_pending (f : Evt → Evt) (s : State) : (onEvt f s).pending = s.pending := (rfl)

@[simp] theorem enWrite_pending (u cls idx : Nat) (en : BitVec 3) (s : State) : (enWrite u cls idx en s).pending = s.pending := by
  simp [enWrite, apply_ite State.pending]

@[simp] theorem onDmc_pending (n : Nat) (f : Dmc → Dmc) (s : State) : (onDmc n f s).pending = s.pending := (rfl)

@[simp] theorem trnWrite_pending (n : Nat) (v : Word) (s : State) : (trnWrite n v s).pending = s.pending := by
  simp [trnWrite, apply_ite State.pending]

@[simp] theorem mbxStatWrite_pending (n : Nat) (v : Word) (s : State) : (mbxStatWrite n v s).pending = s.pending := by
  simp [mbxStatWrite, apply_ite State.pending]

@[simp] theorem mbxRegWrite_pending (n o : Nat) (v : Word) (s : State) : (mbxRegWrite n o v s).pending = s.pending := by
  unfold mbxRegWrite
  repeat' split
  all_goals simp

@[simp] theorem oddWrite_pending (bar addr len : Nat) (s : State) : (oddWrite bar addr len s).pending = s.pending := by
  simp [oddWrite]

@[simp] theorem bar0Write_pending (addr : Nat) (data : Bytes) (s : State) : (bar0Write addr data s).pending = s.pending := by
  simp [bar0Write, apply_ite State.pending]

@[simp] theorem evtCtlWrite_pending (v : Word) (s : State) : (evtCtlWrite v s).pending = s.pending := (rfl)

@[simp] theorem msixUnmask_pending (v : Nat) (s : State) : (msixUnmask v s).pending = s.pending := by
  simp [msixUnmask, apply_ite State.pending]

@[simp] theorem bar1Write_pending (addr : Nat) (data : Bytes) (s : State) : (bar1Write addr data s).pending = s.pending := by
  simp [bar1Write, apply_ite State.pending]

theorem atIdx_pending {base stride count o : Nat} {f : Nat → State → State} (hf : ∀ i s, (f i s).pending = s.pending) :
    ∀ g, atIdx base stride count o f = some g → ∀ s, (g s).pending = s.pending := by
  intro g hg s
  obtain ⟨i, _, rfl⟩ := Option.map_eq_some_iff.mp hg
  exact hf i s

theorem firstWrite_pending {l : List (Option (State → State))} (hl : ∀ a ∈ l, ∀ g, a = some g → ∀ s, (g s).pending = s.pending) (s : State) :
    (firstWrite l s).pending = s.pending := by
  unfold firstWrite
  split
  next g h =>
    obtain ⟨a, ha, hg⟩ := List.exists_of_findSome?_eq_some h
    exact hl a ha g hg s
  · rfl

@[simp] theorem maintCtlWrite_pending (v : Word) (s : State) : (maintCtlWrite v s).pending = s.pending := by
  simp [maintCtlWrite, apply_ite State.pending]

@[simp] theorem wayPwrWrite_pending (off : BitVec 16) (s : State) : (wayPwrWrite off s).pending = s.pending := by
  simp [wayPwrWrite, apply_ite State.pending]

@[simp] theorem cnsPoke_pending (u o : Nat) (v : Word) (s : State) : (cnsPoke u o v s).pending = s.pending := by
  unfold cnsPoke
  split
  iterate 7 · simp
  · refine firstWrite_pending ?_ s
    simp only [List.forall_mem_cons, List.not_mem_nil, IsEmpty.forall_iff, implies_true, and_true]
    exact ⟨atIdx_pending (fun i s => enWrite_pending u 4 i _ s), atIdx_pending (fun k s => onCns_pending _ s),
      atIdx_pending (fun k s => sliceHashWrite_pending k _ s)⟩

@[simp] theorem cphPoke_pending (o : Nat) (v : Word) (s : State) : (cphPoke o v s).pending = s.pending := by
  unfold cphPoke
  split
  · simp
  · simp [apply_ite State.pending]
  · simp
  · simp
  · simp
  · refine firstWrite_pending ?_ s
    simp only [List.forall_mem_cons, List.not_mem_nil, IsEmpty.forall_iff, implies_true, and_true]
    exact atIdx_pending (fun i s => keyDataWrite_pending i v s)

@[simp] theorem dgtCtlWrite_pending (u : Nat) (v : Word) (s : State) : (dgtCtlWrite u v s).pending = s.pending := by
  refine dgtOwned_pending u (fun d s => ?_) s
  dsimp only
  repeat' split
  all_goals simp

@[simp] theorem dgtWordWrite_pending (u : Nat) (f : Digest → Digest) (s : State) : (dgtWordWrite u f s).pending = s.pending := by
  simp [dgtWordWrite, apply_ite State.pending]

@[simp] theorem dgtPoke_pending (u o : Nat) (v : Word) (s : State) : (dgtPoke u o v s).pending = s.pending := by
  unfold dgtPoke
  split
  · simp
  · simp
  · simp
  · simp [apply_ite State.pending]
  · refine firstWrite_pending ?_ s
    simp only [List.forall_mem_cons, List.not_mem_nil, IsEmpty.forall_iff, implies_true, and_true]
    exact ⟨atIdx_pending (fun i s => dgtWordWrite_pending u _ s), atIdx_pending (fun i s => dgtWordWrite_pending u _ s)⟩

@[simp] theorem geomWrite_pending (n : Nat) (v : Word) (s : State) : (geomWrite n v s).pending = s.pending := by
  simp [geomWrite, apply_ite State.pending]

@[simp] theorem onDram_pending (f : Dram → Dram) (s : State) : (onDram f s).pending = s.pending := (rfl)

@[simp] theorem widePoke_pending (o : Nat) (v : Word) (s : State) : (widePoke o v s).pending = s.pending := by
  unfold widePoke
  split
  · simp [apply_ite State.pending]
  · simp [apply_ite State.pending]
  · refine firstWrite_pending ?_ s
    simp only [List.forall_mem_cons, List.not_mem_nil, IsEmpty.forall_iff, implies_true, and_true]
    exact ⟨atIdx_pending (fun k s => chanHashWrite_pending k _ s), atIdx_pending (fun k s => chanHashWrite_pending k _ s),
      atIdx_pending (fun k s => by simp [apply_ite State.pending])⟩

@[simp] theorem dmcPoke_pending (n o : Nat) (v : Word) (s : State) : (dmcPoke n o v s).pending = s.pending := by
  unfold dmcPoke
  split
  iterate 5 · simp
  · refine firstWrite_pending ?_ s
    simp only [List.forall_mem_cons, List.not_mem_nil, IsEmpty.forall_iff, implies_true, and_true]
    refine ⟨atIdx_pending (fun r s => by simp [apply_ite State.pending]), atIdx_pending (fun k s => bankHashWrite_pending n k _ s),
      atIdx_pending (fun k s => bankHashWrite_pending n k _ s), fun g hg s => ?_⟩
    split at hg
    · obtain rfl := Option.some.inj hg
      exact widePoke_pending o v s
    · cases hg

@[simp] theorem evrPoke_pending (o : Nat) (v : Word) (s : State) : (evrPoke o v s).pending = s.pending := by
  unfold evrPoke
  repeat' split
  all_goals simp

@[simp] theorem onGh_pending (f : Gh → Gh) (s : State) : (onGh f s).pending = s.pending := (rfl)

@[simp] theorem avsCtlWrite_pending (v : Word) (s : State) : (avsCtlWrite v s).pending = s.pending := by
  simp [avsCtlWrite, apply_ite State.pending]

@[simp] theorem gpioWrite_pending (u k : Nat) (v : Word) (s : State) : (gpioWrite u k v s).pending = s.pending := by
  simp [gpioWrite]

@[simp] theorem tmrWrite_pending (u t : Nat) (v : Word) (s : State) : (tmrWrite u t v s).pending = s.pending := by
  simp [tmrWrite]

@[simp] theorem ghPoke_pending (u o : Nat) (v : Word) (s : State) : (ghPoke u o v s).pending = s.pending := by
  unfold ghPoke
  split
  iterate 10 · simp [apply_ite State.pending]
  · refine firstWrite_pending ?_ s
    simp only [List.forall_mem_cons, List.not_mem_nil, IsEmpty.forall_iff, implies_true, and_true]
    exact ⟨atIdx_pending (fun t s => tmrWrite_pending u t v s), atIdx_pending (fun t s => timerCompare_pending t v s),
      atIdx_pending (fun k s => gpioWrite_pending u k v s)⟩

@[simp] theorem monPoke_pending (user u o : Nat) (v : Word) (s : State) : (monPoke user u o v s).pending = s.pending := by
  unfold monPoke
  repeat' split
  all_goals simp

@[simp] theorem slpCtlWrite_pending (p : Nat) (v : Word) (s : State) : (slpCtlWrite p v s).pending = s.pending := by
  simp [slpCtlWrite, apply_ite State.pending]

@[simp] theorem regPoke_pending (u a : Nat) (v : Word) (s : State) : (regPoke u a v s).pending = s.pending := by
  unfold regPoke
  repeat' split
  all_goals simp

@[simp] theorem registerWrite_pending (space : RegSpace) (addr : Nat) (data : Bytes) (s : State) :
    (registerWrite space addr data s).pending = s.pending := by
  unfold registerWrite
  repeat' split
  all_goals simp

@[simp] theorem markDenied_pending (addrs : List Nat) (s : State) : (markDenied addrs s).pending = s.pending := by
  simp [markDenied, apply_ite State.pending]

@[simp] theorem regWriteH_pending (p : Bytes) (s : State) : (regWriteH p s).2.pending = s.pending := by
  simp only [regWriteH]
  repeat' split
  all_goals simp

@[simp] theorem regReadH_pending (p : Bytes) (s : State) : (regReadH p s).2.pending = s.pending := by
  simp only [regReadH]
  repeat' split
  all_goals simp

@[simp] theorem regModifyH_pending (p : Bytes) (s : State) : (regModifyH p s).2.pending = s.pending := by
  simp only [regModifyH]
  repeat' split
  all_goals simp

/-! ### The commands and a step -/

/-- No command adds to what waits, drops it or reorders it. -/
theorem exec_pending (c : Instr) (s : State) : ∃ t, exec c s = .next t ∧ t.pending = s.pending := by
  cases c
  case cipherRequestDone => exact ⟨_, rfl, by simp [apply_ite State.pending]⟩
  all_goals exact ⟨_, rfl, by simp⟩

/-- Settles O53: the front command is off the queue before it runs, and its operation leaves the rest. -/
theorem stepTakesOneCommand : Obligations.StepTakesOneCommand := by
  intro s t c rest hq hstep
  obtain ⟨u, hu, hpending⟩ := exec_pending c { s with pending := rest }
  rw [step_of_pending_cons hq, hu, Host.Outcome.next.injEq] at hstep
  exact hstep ▸ hpending

/-- Settles O49: by the definition of a step; an idle tick serves the channels and loads a bucket, and adds no command. -/
theorem frontCommandRuns : Obligations.FrontCommandRuns := by
  refine ⟨fun c rest s hq => step_of_pending_cons hq, fun s hq => ⟨step_of_pending_nil hq, ?_⟩⟩
  rw [loadNext_pending, dramTick_pending, hq]

end Sys2Proof.Machine
end
